-- ==== Sys2Proof/Word.lean ====
section
/-! DEFINITION. The plain words of the LM6432: bytes, the fabric time words, fixed-point raws, and the shape of a
sparse map. Arithmetic that a rule of the spec fixes stands in the files under Machine/. -/

namespace Sys2Proof

/-- One byte. -/
abbrev Byte := BitVec 8

/-- FT: 32-bit fabric time in nanoseconds (00_scope.md, time notation). -/
abbrev Ft := BitVec 32

/-- FT.8: FT followed by an 8-bit fraction, in bits [39:0] (R9). -/
abbrev Ft8 := BitVec 40

/-- FT.16: FT followed by a 16-bit fraction (R59). -/
abbrev Ft16 := BitVec 48

/-- The raw 32 bits of an IEEE 754 binary32 parameter (R5). -/
abbrev F32 := BitVec 32

/-- A raw Q32.32 value in units of 2^-32, kept as an integer; every write narrows it to 64 bits (R3). -/
abbrev Q32 := Int

/-- A raw Q8.24 value in units of 2^-24, kept as an integer; every write narrows it to 32 bits (R4). -/
abbrev Q8 := Int

/-- A sparse map: keys strictly rising, no entry equal to the default its reader supplies. -/
abbrev SMap (β : Type) := List (Nat × β)

/-- The value a `w`-bit two's complement word holds. -/
def wrapInt (w : Nat) (x : Int) : Int := Int.bmod x (2 ^ w)

/-- `x` held inside a signed `w`-bit word by saturation. -/
def satInt (w : Nat) (x : Int) : Int := max (-(2 ^ (w - 1))) (min (2 ^ (w - 1) - 1) x)

/-- `x` held inside `[lo, hi]`. -/
def clampInt (lo hi x : Int) : Int := max lo (min hi x)

end Sys2Proof
end

