-- ==== Sys2Proof/Syntax.lean ====
section
/-! DEFINITION. The commands of the block: one constructor of `Instr` per row of spec/opcode_table.json, in the table's
order, with the row's operands. The table gives the rows no bits and no operand fields: the operands are what the rules
named in each docstring make the row's effect depend on beyond the state (log entry 6). -/

namespace Sys2Proof

/-- The marker edges a TDC channel can measure (R35's table, the rows formed in TDC channels). -/
inductive MarkerPath where
  /-- fast latch input edge -/
  | fastLatch (input : Fin 16)
  /-- sample-echo line of a servo axis's shunt converter -/
  | shuntEcho (axis : Fin 32)
  /-- fabric frame received, per port -/
  | fabRx (port : Fin 4)
  /-- fabric frame sent, per port -/
  | fabTx (port : Fin 4)
  /-- Ethernet frame received, per port -/
  | ethRx (port : Fin 2)
  /-- Ethernet frame sent, per port -/
  | ethTx (port : Fin 2)
  /-- frame-start marker of a die-to-die frame: FIO-0, FIO-1, safety die (R36) -/
  | frameStart (die : Fin 3)
  deriving DecidableEq, Repr

/-- What an ECC read or scrub of a local memory finds (R209-R211). -/
inductive EccFind where
  | clean
  /-- a single-bit error in the word at this engine address -/
  | single (addr : Nat)
  /-- an uncorrectable error in the word at this engine address -/
  | double (addr : Nat)
  deriving DecidableEq, Repr

/-- What the read of an engine's load finds (R209, R210). -/
inductive ReadEcc where
  | clean | corrected | uncorrectable
  deriving DecidableEq, Repr

/-- A load's offset and what its read finds. -/
structure LoadOff (n : Nat) where
  imm : BitVec n
  ecc : ReadEcc := .clean
  deriving DecidableEq, Repr

/-- The lines of a quadrature input. -/
structure QuadLines where
  a : Bool
  b : Bool
  index : Bool
  deriving DecidableEq, Repr

/-- How long lines stay at their levels: for `clocks` filter clocks, the last of them number `clk` of those since the last time tick
(R38, R97, R101). -/
structure FilterSpan (n : Nat) where
  clocks : Fin n
  clk : Fin 7
  deriving DecidableEq, Repr

/-- The Hall lines H3 H2 H1 and how long they stay so (R146). -/
structure HallLines where
  st : Fin 8
  span : FilterSpan 131072
  deriving DecidableEq, Repr

/-- The lines of a safety quadrature tap (R748). -/
structure TapLines where
  a : Bool
  b : Bool
  deriving DecidableEq, Repr

/-- A safety report for a group (R36, R751): the stop category, and the island's counter at the report's frame start and at the event. -/
structure SafetyReport where
  cat : Fin 3
  count : BitVec 32
  counter : BitVec 32
  deriving DecidableEq, Repr

/-- A quantity that its row names and the block itself holds or forms: nothing arrives with the row. -/
structure Held where
  deriving DecidableEq, Repr

/-- A write of an application core into one of the two buffers of a hook parameter page (R25, R202): bytes from an offset, and
the sequence word where the writer completes the buffer with it. -/
structure PageWrite where
  /-- hook point -/
  point : Fin 4
  /-- the second of the two buffers -/
  second : Bool
  offset : Fin 512
  bytes : List Byte
  seq : Option Nat
  deriving DecidableEq, Repr

/-- What comes to one release from outside the loop library: what the four hooks of the axis left in their I/O blocks (R198),
whose layout is not in the spec; what the application cores wrote into the axis's parameter pages since its last release
(R202); and what ECC finds in what the computation reads (R209). -/
structure HookOut where
  /-- writes into the parameter pages, oldest first -/
  pages : List PageWrite := []
  /-- what the computation's reads find -/
  ecc : EccFind := .clean
  /-- HOOK_MEAS: position used by the loops, Q32.32, when written -/
  pos : Option Q32 := none
  /-- HOOK_MEAS: speed used by the loops, Q32.32, when written -/
  vel : Option Q32 := none
  /-- HOOK_MEAS: d and q current offsets, Q8.24 -/
  idOff : Q8 := 0
  iqOff : Q8 := 0
  /-- HOOK_OUTER: additive torque and speed references -/
  torque : Q8 := 0
  speed : Q32 := 0
  /-- HOOK_CURR: additive d and q voltages, Q8.24 -/
  vd : Q8 := 0
  vq : Q8 := 0
  deriving DecidableEq, Repr

/-- A marker edge as a TDC channel measures it (R34): cycles of the 6.4 GHz clock since the tick, and the delay line's fraction. -/
structure TdcEdge where
  cycles : Fin 100 := 0
  frac : Fin 256 := 0
  deriving DecidableEq, Repr

/-- The bits of a serial word as the port decoded them. -/
inductive SerialWord where
  /-- an SSI frame in clocking order (first clocked bit first) -/
  | ssi (bits : List Bool)
  /-- the receive line of an LSP port from the request's start edge on: levels and the filter clocks of 2.5 ns they last (R130, R131) -/
  | lsp (line : List (Bool × Nat))
  deriving DecidableEq, Repr

/-- Cause of a bus error on a bank burst (R197, R605, R563). -/
inductive BusErrCause where
  | eccUncorrectable | overhold | region
  deriving DecidableEq, Repr

/-- The count operand of LOOP (R188). -/
inductive LoopCount where
  | imm (n : Fin 65536)
  /-- the low 16 bits of a register, with the bound in the LOOP word -/
  | reg (x : Fin 32) (bound : Fin 65536)
  deriving DecidableEq, Repr

/-- Control registers reached by MFC and MTC (R171); their numbers are not in the spec. -/
inductive CtrlReg where
  | esr | epc | link | lcnt0 | lcnt1 | lbeg0 | lbeg1 | lend0 | lend1 | lix0 | lix1 | midx | nidx | cyc
  deriving DecidableEq, Repr

/-- The drives whose gates a rule names alike: a servo axis, a stepper channel or an auxiliary drive. -/
inductive GateOwner where
  | servo (i : Fin 32) | stepper (i : Fin 32) | aux (i : Fin 16)
  deriving DecidableEq, Repr

/-- An object with a segment queue: an axis with a trail, a path group (R315, R342), or a remote axis, whose queue holds
follower entries only (R54, R373). -/
inductive TrailEp where
  | servo (i : Fin 32) | stepper (i : Fin 32) | virt (i : Fin 256) | group (i : Fin 32) | remote (i : Fin 128)
  deriving DecidableEq, Repr

/-- The mapping part of a follower entry, bytes 64-127 (R390). -/
structure FolPart where
  /-- 0 position gearing, 1 velocity gearing, 2 cam -/
  map : Nat := 0
  /-- cascade stage 0-7, or 0xFF -/
  stage : Nat := 255
  num : Int := 1
  den : Nat := 1
  /-- gearing: master anchor; cam: start of the piece within the cycle -/
  ma : Q32 := 0
  /-- gearing: follower anchor; cam: end of the piece -/
  fa : Q32 := 0
  /-- cam piece constant, Q32.32 -/
  c0 : Q32 := 0
  /-- cam piece coefficients, Q16.48 -/
  c1 : Int := 0
  c2 : Int := 0
  c3 : Int := 0
  deriving DecidableEq, Repr

/-- A segment queue entry (R331). -/
structure Seg where
  /-- t_start, FT.16 -/
  tStart : Ft16 := 0
  /-- t_end, FT.16; ignored when hold is set -/
  tEnd : Ft16 := 0
  p0 : Q32 := 0
  v0 : Q32 := 0
  a0 : Q32 := 0
  j0 : Q32 := 0
  gen : BitVec 16 := 0
  /-- bit 0: last entry of its move -/
  last : Bool := false
  /-- bit 1: covers every later instant -/
  hold : Bool := false
  /-- bit 2: stop ramp -/
  ramp : Bool := false
  /-- move number, 0 for segments the module makes itself -/
  move : BitVec 32 := 0
  /-- mapping of a follower entry; p0-j0 are then the phase offset's cubic -/
  fol : Option FolPart := none
  deriving DecidableEq, Repr

/-- A move record of TRAIL_APPEND (R320), with the member targets of a group move (R344). -/
structure MoveRec where
  type : Byte := 0
  blend : Byte := 0
  flags : Byte := 0
  /-- the reserved bytes of the record, all of which must be 0 -/
  reserved : Nat := 0
  target : Q32 := 0
  vMax : F32 := 0
  aMax : F32 := 0
  dMax : F32 := 0
  jerk : F32 := 0
  /-- time field, raw 64 bits -/
  time : BitVec 64 := 0
  blendTol : F32 := 0
  /-- one target per group member; empty for a single axis -/
  targets : List Q32 := []
  deriving DecidableEq, Repr

/-- A follower: servo axis, stepper channel, virtual axis or remote axis (R373). -/
inductive FolEp where
  | servo (i : Fin 32) | stepper (i : Fin 32) | virt (i : Fin 256) | remote (i : Fin 128)
  deriving DecidableEq, Repr

/-- A convoy publication (R382). -/
structure Pub where
  convoy : Byte := 0
  supersede : Bool := false
  boundary : Bool := false
  measured : Bool := false
  stopping : Bool := false
  endFlag : Bool := false
  seq : BitVec 16 := 0
  masterGen : BitVec 32 := 0
  /-- conv_period_ticks -/
  period : Nat := 0
  /-- fabric endpoint address of the master, 25 bits -/
  master : Nat := 0
  tRef : Ft16 := 0
  p0 : Q32 := 0
  v0 : Q32 := 0
  a0 : Q32 := 0
  j0 : Q32 := 0
  /-- cascade factors F0-F7, binary32 raws -/
  f : List F32 := []
  deriving DecidableEq, Repr

/-- A remote feedback frame as received (R414). -/
structure RemFeedback where
  version : BitVec 16 := 0
  seq : BitVec 16 := 0
  status : BitVec 32 := 0
  /-- XT of the measurement -/
  tMeas : BitVec 64 := 0
  pos : Q32 := 0
  vel : Q32 := 0
  /-- source IPv4 address and UDP port, 48 bits -/
  source : BitVec 48 := 0
  /-- UDP payload length in bytes -/
  length : Nat := 32
  deriving DecidableEq, Repr

/-- A configuration item of STAGE_WRITE, PARAM_IMPORT and PREPARE (R549). -/
structure Item where
  /-- fabric endpoint address, 32 bits as sent (bits [31:25] must be 0) -/
  fa : BitVec 32 := 0
  /-- item code (R546) -/
  code : BitVec 16 := 0
  index : BitVec 16 := 0
  /-- value length in bytes -/
  len : BitVec 16 := 0
  /-- header bytes 10-15, which must be 0 -/
  reserved : Nat := 0
  /-- value, little-endian -/
  value : Nat := 0
  deriving DecidableEq, Repr

/-- A read item of SNAP_READ and SNAP_AT. -/
structure ReadItem where
  ep : BitVec 16 := 0
  code : BitVec 16 := 0
  index : BitVec 16 := 0
  deriving DecidableEq, Repr

/-- The command a group command row executes: a tagged or untagged descriptor of a mailbox's session, or a command
forwarded by another device (R496-R498, R508). -/
inductive CmdRef where
  | host (mbx : Fin 64) (tag : Fin 256) (untagged : Bool)
  | remote (dev : Fin 4096) (tag : Fin 256)
  deriving DecidableEq, Repr

/-- A descriptor as fetched, with its payload bytes (R493). -/
structure Descriptor where
  opcode : BitVec 16 := 0
  tag : Fin 256 := 0
  flags : Byte := 0
  /-- bytes 4-5 as sent -/
  device : BitVec 16 := 0
  /-- bytes 6-7, and 32-63 of an indirect descriptor, which must be 0 -/
  reserved : Nat := 0
  payloadLen : BitVec 32 := 0
  rspLen : BitVec 32 := 0
  rspAddr : BitVec 64 := 0
  /-- payload address when indirect -/
  payloadAddr : BitVec 64 := 0
  payload : List Byte := []
  deriving DecidableEq, Repr

/-- A direct register of BAR0 without a row of its own (R18, R485). -/
inductive DirectReg where
  | evtBaseLo | evtBaseHi
  | evtCtrlFields
  | mbxCmdBaseLo (m : Fin 64) | mbxCmdBaseHi (m : Fin 64)
  | mbxRspBaseLo (m : Fin 64) | mbxRspBaseHi (m : Fin 64)
  /-- the vector, size_log2 and moderation fields of MBX_CTRL -/
  | mbxCtrlFields (m : Fin 64)
  /-- a read-only or reserved register or offset -/
  | readOnly (offset : BitVec 24)
  deriving DecidableEq, Repr

/-- One participant's answer or the coordinator's message of a fabric-wide commit (R522). -/
structure PrepRef where
  /-- coordinator device -/
  dev : Fin 4096
  /-- number of the PREPARE at its coordinator -/
  num : Nat
  deriving DecidableEq, Repr

/-- Name of a session in the fabric: holder device and session_id (R526, R527, R665). -/
structure SessRef where
  dev : Nat := 0
  sid : Nat := 0
  deriving DecidableEq, Repr

/-- A point of CAM_LOAD: m, f and, under interpolation 2, c1, c2, c3 as 64-bit words (R395). -/
structure CamPoint where
  m : Q32 := 0
  f : Q32 := 0
  c1 : Int := 0
  c2 : Int := 0
  c3 : Int := 0
  deriving DecidableEq, Repr

/-- The fields of CONVOY_JOIN after the endpoint (12_commands.md, group 0x06). -/
structure JoinReq where
  convoy : Byte := 0
  map : Byte := 0
  stage : Byte := 0xFF
  anchor : Byte := 0
  cam : BitVec 16 := 0
  num : Int := 1
  den : Nat := 1
  dist : F32 := 0
  ft : Ft := 0
  camOrigin : Q32 := 0
  ma : Q32 := 0
  fa : Q32 := 0
  deriving DecidableEq, Repr

/-- A CAN frame: flags IDE, FDF and BRS, data length code, identifier and data (R700). -/
structure CanFrame where
  ide : Bool := false
  fdf : Bool := false
  brs : Bool := false
  dlc : Fin 16 := 0
  id : BitVec 29 := 0
  data : List Byte := []
  deriving DecidableEq, Repr

/-- How far a step takes a non-atomic command (R531, R544): to its end; `n` more of its units, after which it goes on in a later step; or
`n` more, after which an interruption ends it. -/
inductive Reach where
  | whole
  | part (n : Nat)
  | cut (n : Nat)
  deriving DecidableEq, Repr

/-- A non-atomic command: its reference, and how far this step takes it. -/
structure CmdJob where
  ref : CmdRef
  reach : Reach := .whole
  deriving DecidableEq, Repr

/-- An arbiter (R607). -/
inductive ArbId where
  | bank | lpddr | lePort (le : Fin 16) | fabTx (port : Fin 4)
  deriving DecidableEq, Repr

/-- A fragment as received or sent: its FRAG block's fields and its data bytes (R633). -/
structure Frag where
  vc : Fin 4 := 0
  sof : Bool := false
  eof : Bool := false
  stream : Fin 8 := 0
  creditVc : Fin 4 := 0
  /-- cumulative freed count of the credit VC -/
  freed : BitVec 16 := 0
  /-- data bytes, 8 per block, 0-15 blocks -/
  data : List Byte := []
  deriving DecidableEq, Repr

/-- A DISCOVER payload (R641). -/
structure Discover where
  uid : BitVec 64 := 0
  root : BitVec 64 := 0
  distance : Nat := 0
  port : Nat := 0
  member : Bool := false
  /-- flags bit 1: the receiver is the sender's parent -/
  child : Bool := false
  sync : Bool := false
  ptp : Bool := false
  device : Nat := 0
  gm : BitVec 64 := 0
  /-- the sender's leader was elected under R656 (known with the comparison of R649) -/
  partition : Bool := false
  /-- convoy numbers registered at the sender's leader (known with the comparison of R649) -/
  convoys : List Nat := []
  deriving DecidableEq, Repr

/-- A module's entry of a REPORT (R643). -/
structure ReportEntry where
  uid : BitVec 64 := 0
  preferred : Nat := 0
  present : Nat := 0
  sync : Bool := false
  strict : Bool := false
  /-- neighbour identifier per port, 0 for none -/
  neigh : List (BitVec 64) := []
  /-- link delay per port, ns -/
  delay : List Nat := []
  deriving DecidableEq, Repr

/-- A piece of a REPORT (R643): its number and its entries. -/
structure ReportPiece where
  num : BitVec 16
  entries : List ReportEntry
  deriving DecidableEq, Repr

/-- A module's entry of an ASSIGN (R646). -/
structure AssignEntry where
  uid : BitVec 64 := 0
  device : Nat := 0
  /-- 0 preferred granted, 1 other number, 2 refused -/
  result : Nat := 0
  deriving DecidableEq, Repr

/-- A share of a repair (R652): the loss it answers (a link end by module identifier and port, or a whole module with
port 4) and what changes at this module. -/
structure Share where
  lostUid : BitVec 64 := 0
  lostPort : Nat := 0
  /-- changed unicast entries: device, output (0-3 port, 4 local, 5 no route) -/
  routes : List (Nat × Nat) := []
  /-- new convoy masks: convoy, mask of four port bits and the local bit -/
  masks : List (Nat × Nat) := []
  parent : Nat := 7
  /-- leader this repair names for this module's part and its device number, when it separates it from the leader (R656) -/
  leader : Option (BitVec 64 × Nat) := none
  /-- of a module's loss (port 4): the ends of its links as reporter, the reporter's port and the lost module's port (R654) -/
  ends : List (BitVec 64 × Nat × Nat) := []
  deriving DecidableEq, Repr

/-- The data of a TABLE piece by kind (R637, R646, R652). -/
inductive TableData where
  | routes (l : List (Nat × Nat))
  | masks (l : List (Nat × Nat))
  | share (sh : Share)
  | done (apply : Ft)
  deriving DecidableEq, Repr

/-- A TIME payload as received (R658), with FT.16 times on the XT scale. -/
structure TimeMsg where
  /-- t_tx with its fraction, as XT.16 -/
  tx : Nat := 0
  state : Nat := 0
  depth : Nat := 0
  ptp : Bool := false
  diverged : Bool := false
  leader : BitVec 64 := 0
  /-- announced step: amount in FT.16 units and apply FT -/
  step : Option (Int × Ft) := none
  gm : BitVec 64 := 0
  deriving DecidableEq, Repr

/-- A message the module hands to its fabric ports (R637, R664). -/
inductive FabMsg where
  | time (m : TimeMsg)
  | delayReq (n : Nat)
  | delayResp (n : Nat) (t2 t3 : Ft16)
  | convoy (p : Pub)
  | linkDown (uid : BitVec 64) (port cause gen : Nat)
  | discover (d : Discover)
  | report (l : List ReportEntry)
  | assign (l : List AssignEntry)
  | table (gen : Nat) (d : TableData)
  | register (op convoy fa : Nat)
  /-- REQUEST op 1: a forwarded command of a session -/
  | command (session : BitVec 32) (ident : Nat) (d : Descriptor)
  /-- RESPONSE op 1 -/
  | response (sid ident : Nat) (opcode : BitVec 16) (status : BitVec 16) (tDone : Ft8) (data : List Byte)
  | nack (ident reason : Nat)
  | commitItems (num : Nat) (session : BitVec 32) (ftC : Ft) (items : List Item)
  | commitReady (num : Nat) (status index : BitVec 16)
  | commitDecision (num : Nat)
  | commitAbort (num : Nat)
  | commitAck (num : Nat)
  | commitApplied (num : Nat)
  | lockRequest (sess : SessRef) (eps : List (BitVec 16)) (wait : Nat)
  | lockGrant (sess : SessRef)
  | lockRefusal (sess : SessRef) (circle : Bool)
  | lockRelease (sess : SessRef) (eps : List (BitVec 16))
  | lockQuery (req : SessRef) (on : List SessRef)
  | lockAnswer (sess : SessRef) (circle : Bool)
  | bulk (ident offset : Nat) (data : List Byte)
  | relay (port : Nat) (returned : Bool) (addr : BitVec 32) (udp : BitVec 16) (data : List Byte)
  | segments (fa : Nat) (segs : List Seg)
  /-- a message on its way as one frame: its device, or none on the link itself, and the bytes sent ahead of it, the piece number of a
  REPORT or the offset of a TABLE -/
  | to (dest : Option Nat) (part : Nat) (m : FabMsg)
  /-- a frame forwarded from another port, as fragments -/
  | forward (inPort : Nat) (f : Frag)
  | abort (inPort vc stream : Nat)
  | resync
  | rmark
  | idle
  deriving DecidableEq, Repr

/-- What makes a received Ethernet frame invalid (R674-R676). -/
inductive EthBad where
  | fcs | length | unknown
  /-- of a datagram that finds no free reassembly buffer or has three or more fragments (R676) -/
  | fragments
  /-- a frame of a receive class whose queue is full (R677) -/
  | classFull (cls : Fin 6)
  deriving DecidableEq, Repr

/-- An Announce message's data set (IEEE 1588-2019, R686). -/
structure Announce where
  gm : BitVec 64 := 0
  prio1 : Nat := 0
  cls : Nat := 0
  accuracy : Nat := 0
  variance : Nat := 0
  prio2 : Nat := 0
  steps : Nat := 0
  /-- identity and port of the sender -/
  sender : BitVec 64 := 0
  senderPort : Nat := 0
  /-- logMessageInterval of the message: log2 of the announce interval in s -/
  logInterval : Int := 0
  deriving DecidableEq, Repr

/-- Header checks of a received PTP message (R685). -/
structure PtpHeader where
  wellFormed : Bool := true
  major : Nat := 2
  domain : Nat := 0
  seq : BitVec 16 := 0
  /-- the sender's port identity -/
  sender : BitVec 80 := 0
  deriving DecidableEq, Repr

/-- What a port of plant Ethernet sends (R678). -/
inductive EthMsg where
  /-- with its departure, XT.16 (R89, R92) -/
  | pdelayReq (seq : BitVec 16) (depart : Nat)
  /-- one-step Pdelay_Resp with t2 and t3 (XT.16), to the requester's port identity -/
  | pdelayResp (seq : BitVec 16) (who : BitVec 80) (t2 t3 : Nat)
  | delayReq (seq : BitVec 16) (depart : Nat)
  | safe (conn : Nat) (bytes : List Byte)
  | remote (na : Nat) (seq : BitVec 16) (flags : Nat) (tTarget : Nat) (pos vel acc : Q32)
  | session (addr : BitVec 48) (bytes : List Byte)
  | relay (addr : BitVec 32) (udp : BitVec 16) (data : List Byte)
  | arpReply (addr : BitVec 32) (mac : BitVec 48)
  | arpRequest (addr : BitVec 32)
  /-- with what follows the checksum of the request -/
  | echoReply (addr : BitVec 32) (data : List Byte)
  deriving DecidableEq, Repr

/-- A frame in a transmit queue (R679, R680). -/
structure EthFrame where
  msg : EthMsg
  /-- frame length in bytes, FCS included -/
  len : Nat
  /-- of a UDP datagram in two IPv4 fragments: offset of this one, length of the UDP payload, identification -/
  frag : Option (Nat × Nat × Nat) := none
  /-- t_target as XT.16 of a scheduled frame -/
  target : Option Nat
  deriving DecidableEq, Repr

/-- Errors of ISO 11898-1 in the order of last_error. -/
inductive CanErr where
  | stuff | form | ack | bitRecessive | bitDominant | crc
  deriving DecidableEq, Repr

/-- Where a CAN error was detected. -/
inductive CanErrSite where
  | transmitter (controlOrData : Bool) | receiver
  deriving DecidableEq, Repr

/-- Readback of an STO switch pair: high side closed, low side closed. -/
structure Readback where
  hs : Bool := false
  ls : Bool := false
  deriving DecidableEq, Repr

/-- The readings of a release test in its order (R742): both open, high side closed alone, both closed. -/
structure ReleaseReadings where
  open_ : Readback := {}
  high : Readback := { hs := true }
  both : Readback := { hs := true, ls := true }
  deriving DecidableEq, Repr

/-- A word on a serial position line as the safety die's listen-only receiver takes it (R748). -/
inductive TapWord where
  /-- an SSI frame in clocking order (first clocked bit first) -/
  | ssi (bits : List Bool)
  /-- the characters of an LSP response -/
  | lsp (bytes : List Byte)
  deriving DecidableEq, Repr

/-- An input's part of a field die frame (R714): raw level, debounced state, and the stamp of the raw edge of a change. -/
structure FioReport where
  /-- debounced states, bit per input of the die (32 field inputs, then 8 fast latch inputs) -/
  states : BitVec 40 := 0
  raws : BitVec 40 := 0
  /-- the die's 32 MHz count at the frame-start marker (R36) -/
  counter : BitVec 32 := 0
  /-- changes in this frame: input number within the die (0-31 field, 32-39 latch); the die's count of a field input's change is the
  die's own state -/
  changes : List (Fin 40) := []
  /-- stale-flagged (R727) -/
  stale : Bool := false
  deriving DecidableEq, Repr

/-- Internal faults of the safety island (R766). -/
inductive SafInternal where
  | ecc | selfTest | watchdog | oscillator | regulator
  deriving DecidableEq, Repr

/-- The commands of the LM6432. -/
inductive Instr where
  -- 01_architecture.md
  /-- UPDATE_POINT (R40): At each update point of a servo axis the PWM unit loads the duty values last committed in time, or repeats the previous ones. -/
  | updatePoint (axis : Fin 32)
  /-- SHUNT_SAMPLE (R41): The PWM unit triggers a single-shunt sample, which also latches the quadrature count and starts a TDC channel. -/
  | shuntSample (axis : Fin 32)
  /-- SHUNT_RESULT (R49): A shunt conversion result arrives in the engine's local memory t_conv after its sample instant. -/
  | shuntResult (axis : Fin 32) (code : Fin 16384)
  /-- TDC_STAMP (R34): A TDC channel measures a marker edge, subtracts the path delay and delivers the FT.8 stamp. -/
  | tdcStamp (path : MarkerPath) (cycles : Fin 100) (frac : Fin 256)
  /-- TDC_CALIBRATION (R39): Every 10 ms the module refreshes the tap weights of each TDC delay line. -/
  | tdcCalibration
  /-- AXIS_RELEASE (R42): At its release point the engine starts an axis computation: reconstruction, feedback, setpoint, loops, hooks and state record. -/
  | axisRelease (axis : Fin 32) (hook : HookOut)
  /-- SEGMENT_STARVED_STOP (R55): After 2 ms without a covering segment the axis takes its configured stop. -/
  | segmentStarvedStop (axis : Fin 32)
  /-- BUDGET_OVERRUN (R47): A computation that has run its declared worst-case cycle count is stopped without committing duties. -/
  | budgetOverrun (axis : Fin 32)
  /-- DUTY_COMMIT (R44): A duty commit reaches the PWM unit for the next update point. -/
  | dutyCommit (axis : Fin 32)
  /-- STO_LINE_ASSERT (R57): An asserted STO line drives the gate outputs of every channel of its group inactive within t_sto. -/
  | stoLineAssert (group : Fin 8)
  -- 02_fabric_time.md
  /-- TIME_SOURCE_TIMEOUT (R67): No valid time measurement for source_timeout moves ACQUIRING to UNSET or LOCKED to HOLDOVER. -/
  | timeSourceTimeout
  /-- TIME_STEP_APPLY (R77): At the announced apply FT every module applies the fabric-wide step. -/
  | timeStepApply
  /-- XT_SAMPLE (R83): The supervisor samples FT and increments the XT wrap count when FT has wrapped. -/
  | xtSample
  -- 03_feedback.md
  /-- QUAD_EDGE (R98): A filtered quadrature transition changes the count by one and is stamped. The lines stay at
  their levels for a span (R38, R97, R101). -/
  | quadEdge (axis : Fin 32) (lines : QuadLines) (span : FilterSpan 1024)
  /-- INDEX_PULSE (R106): An accepted index pulse gives the index count, which sets or checks the index reference. -/
  | indexPulse (axis : Fin 32)
  /-- SERIAL_READ_START (R110): The module starts an SSI burst or LSP request serial_start after the update point. -/
  | serialReadStart (axis : Fin 32) (lineHigh : Bool)
  /-- SERIAL_WORD_DECODED (R114): A decoded serial position word is checked, unwrapped and classified good or bad. -/
  | serialWordDecoded (axis : Fin 32) (word : SerialWord)
  /-- LSP_WORD_TIMEOUT (R141): An LSP response not complete within lsp_word_timeout counts as TIMEOUT. -/
  | lspWordTimeout (axis : Fin 32)
  /-- LSP_UNSOLICITED_CHAR (R118): A received character belonging to no outstanding request is discarded and counted. -/
  | lspUnsolicitedChar (axis : Fin 32)
  /-- HALL_EDGE (R148): An accepted Hall level change updates the sector, angle and Hall speed (R146). -/
  | hallEdge (aux : Fin 16) (lines : HallLines)
  /-- ZERO_SPEED (R152): No counting edge for zero_speed_time makes the period speed 0 and sets zero_speed. -/
  | zeroSpeed (axis : Fin 32)
  /-- FREEZE (R156): Feedback unchanged while the observer speed stays above freeze_speed for freeze_time is lost with cause FREEZE. -/
  | freeze (axis : Fin 32)
  -- 04_loop_engines.md: slot operations of a bundle; `eob` marks the bundle's last operation
  /-- MAC (R179): Adds the exact product of two registers to an accumulator. -/
  | mac (le : Fin 16) (eob : Bool) (a : Fin 4) (m n : Fin 32)
  /-- MSU (R179): Subtracts the exact product of two registers from an accumulator. -/
  | msu (le : Fin 16) (eob : Bool) (a : Fin 4) (m n : Fin 32)
  /-- MUL (R173): Sets an accumulator to a product and clears its wrap count. -/
  | mul (le : Fin 16) (eob : Bool) (a : Fin 4) (m n : Fin 32)
  /-- MAC2 (R173): Performs two multiply-accumulates in one cycle. -/
  | mac2 (le : Fin 16) (eob : Bool) (a : Fin 4) (m n : Fin 32) (b : Fin 4) (p q : Fin 32)
  /-- MACUS (R173): Multiply-accumulate with the first operand unsigned. -/
  | macus (le : Fin 16) (eob : Bool) (a : Fin 4) (m n : Fin 32)
  /-- CLR (R181): Clears an accumulator or presets half a unit for rounding. -/
  | clr (le : Fin 16) (eob : Bool) (a : Fin 4) (sh : Fin 144)
  /-- LD (R173): Loads a 64-bit word from local memory. -/
  | ld (le : Fin 16) (eob : Bool) (d b : Fin 32) (off : LoadOff 14)
  /-- LDQ (R173): Loads a 128-bit pair from local memory into the even register 2d and its neighbour. -/
  | ldq (le : Fin 16) (eob : Bool) (d : Fin 16) (b : Fin 32) (off : LoadOff 14)
  /-- ST (R170): Stores a 64-bit word; a hook store outside its areas is suppressed. -/
  | st (le : Fin 16) (eob : Bool) (src b : Fin 32) (imm : BitVec 14)
  /-- STQ (R173): Stores a 128-bit pair to local memory. -/
  | stq (le : Fin 16) (eob : Bool) (src b : Fin 32) (imm : BitVec 14)
  /-- ACCLD (R173): Loads an accumulator and its wrap count from memory. -/
  | accld (le : Fin 16) (eob : Bool) (a : Fin 4) (b : Fin 32) (off : LoadOff 17)
  /-- ACCST (R173): Stores an accumulator and its wrap count to memory. -/
  | accst (le : Fin 16) (eob : Bool) (a : Fin 4) (b : Fin 32) (imm : BitVec 17)
  /-- BLD (R194): Issues a burst copy of n + 1 = 1 to 8 bank words into local memory within the kernel's region. -/
  | bld (le : Fin 16) (eob : Bool) (l b : Fin 32) (n : Fin 8)
  /-- BLD_DONE (R196): A bank burst completes and raises BLD_DONE. -/
  | bldDone (le : Fin 16) (err : Option (Nat × BusErrCause))
  /-- ADD (R173): Integer addition. -/
  | leAdd (le : Fin 16) (eob : Bool) (d m n : Fin 32)
  /-- SUB (R173): Integer subtraction. -/
  | leSub (le : Fin 16) (eob : Bool) (d m n : Fin 32)
  /-- ADDI (R173): Integer addition of an immediate. -/
  | leAddi (le : Fin 16) (eob : Bool) (d m : Fin 32) (imm : BitVec 14)
  /-- AND (R173): Bitwise AND. -/
  | leAnd (le : Fin 16) (eob : Bool) (d m n : Fin 32)
  /-- OR (R173): Bitwise OR. -/
  | leOr (le : Fin 16) (eob : Bool) (d m n : Fin 32)
  /-- XOR (R173): Bitwise exclusive OR. -/
  | leXor (le : Fin 16) (eob : Bool) (d m n : Fin 32)
  /-- SHL (R173): Logical shift left. -/
  | leShl (le : Fin 16) (eob : Bool) (d m n : Fin 32)
  /-- SHR (R173): Logical shift right. -/
  | leShr (le : Fin 16) (eob : Bool) (d m n : Fin 32)
  /-- SRA (R180): Arithmetic shift right, truncating. -/
  | leSra (le : Fin 16) (eob : Bool) (d m n : Fin 32)
  /-- LI (R173): Loads an immediate. -/
  | leLi (le : Fin 16) (eob : Bool) (d : Fin 32) (imm : BitVec 19)
  /-- LUI (R173): Loads an upper immediate. -/
  | leLui (le : Fin 16) (eob : Bool) (d : Fin 32) (imm : BitVec 19)
  /-- CMP (R173): Integer compare. -/
  | leCmp (le : Fin 16) (eob : Bool) (d m n : Fin 32)
  /-- SATW (R180): Saturates a value to a signed width, truncating. -/
  | satw (le : Fin 16) (eob : Bool) (d m : Fin 32) (width : Fin 65)
  /-- EXT (R183): Extracts a saturated 64-bit value from an accumulator and sets ext_sat on saturation. -/
  | ext (le : Fin 16) (eob : Bool) (d : Fin 32) (a : Fin 4) (sh : Fin 81)
  /-- MAXI (R186): Keeps the larger value and records its loop index in LE_MIDX. -/
  | maxi (le : Fin 16) (eob : Bool) (d src : Fin 32)
  /-- MINI (R186): Keeps the smaller value and records its loop index in LE_NIDX. -/
  | mini (le : Fin 16) (eob : Bool) (d src : Fin 32)
  /-- RCP (R173): Returns a 16-bit seed of the reciprocal; zero sets rcp_zero. -/
  | rcp (le : Fin 16) (eob : Bool) (d src : Fin 32)
  /-- RSQ (R173): Returns a seed of the reciprocal square root; zero or negative sets rcp_zero. -/
  | rsq (le : Fin 16) (eob : Bool) (d src : Fin 32)
  /-- LOOP (R188): Starts a hardware loop of one level with an immediate or register count. -/
  | leLoop (le : Fin 16) (eob : Bool) (level : Fin 2) (count : LoopCount) (endOff : Fin 65536)
  /-- BR (R177): Unconditional relative branch after one delay slot. -/
  | br (le : Fin 16) (eob : Bool) (off : BitVec 14)
  /-- BZ (R178): Branch when a register is zero. -/
  | bz (le : Fin 16) (eob : Bool) (src : Fin 32) (off : BitVec 14)
  /-- BNZ (R178): Branch when a register is not zero. -/
  | bnz (le : Fin 16) (eob : Bool) (src : Fin 32) (off : BitVec 14)
  /-- BLT (R178): Branch when one register is less than another, signed. -/
  | blt (le : Fin 16) (eob : Bool) (src t : Fin 32) (off : BitVec 14)
  /-- RET (R200): Returns from a hook; RET with a loop active is a hook fault. -/
  | ret (le : Fin 16) (eob : Bool)
  /-- RETI (R193): Returns from an interrupt handler, restoring ie and in_handler. -/
  | reti (le : Fin 16) (eob : Bool)
  /-- WAITB (R175): Waits until no BLD is outstanding. -/
  | waitb (le : Fin 16) (eob : Bool)
  /-- MFC (R171): Reads a control register. -/
  | mfc (le : Fin 16) (eob : Bool) (d : Fin 32) (reg : CtrlReg)
  /-- MTC (R171): Writes a control register. -/
  | mtc (le : Fin 16) (eob : Bool) (reg : CtrlReg) (src : Fin 32)
  /-- CLRF (R212): Clears W1C bits of LE_ESR. -/
  | clrf (le : Fin 16) (eob : Bool) (mask : BitVec 24)
  /-- NOP (R173): No operation. -/
  | nop (le : Fin 16) (eob : Bool)
  /-- SVC_REQUEST (R192): The supervisor's service area raises SVC on an engine. -/
  | svcRequest (le : Fin 16)
  /-- INTERRUPT_ENTRY (R193): A pending interrupt with ie set is taken at a legal bundle boundary and its handler starts. -/
  | interruptEntry (le : Fin 16)
  /-- ECC_SCRUB (R209): The scrub port reads each local memory word every 10 ms and corrects single-bit errors. -/
  | eccScrub (le : Fin 16) (find : EccFind)
  -- 05_servo_loops.md, 06_field_control.md
  /-- GATE_FAULT_INPUT (R250): An active gate-driver fault input drives the gates inactive and faults the axis. -/
  | gateFaultInput (ax : GateOwner) (active : Bool)
  /-- PRECHARGE_DONE (R241): precharge_time ends and the current offset calibration begins. -/
  | prechargeDone (axis : Fin 32)
  /-- OFFSET_CALIBRATION_DONE (R274): 256 conversions are averaged into shunt_offset and enabling proceeds. -/
  | offsetCalibrationDone (ax : GateOwner) (codes : List Int)
  /-- ENABLE_TIMEOUT (R241): enable_timeout expires before ENABLED and the axis faults. -/
  | enableTimeout (axis : Fin 32)
  /-- STANDSTILL (R245): Speed below standstill_speed for standstill_time confirms standstill and ends a ramp stop. -/
  | standstill (axis : Fin 32)
  /-- STOP_TIMEOUT (R246): Standstill not reached within stop_timeout ends the stop in category 0. -/
  | stopTimeout (axis : Fin 32)
  /-- DC_LINK_CONVERSION (R259): The shared SAR converter completes a DC-link conversion. -/
  | dcLinkConversion (input : Fin 32) (code : Fin 65536)
  /-- OBSERVER_HOLD_TIMEOUT (R297): obs_hold_time expires without lock, the gates coast and OBSERVER_LOST is logged. -/
  | observerHoldTimeout (ax : GateOwner)
  /-- LISTEN_END (R298): Listening ends at lock with enough back-EMF, or after 20 ms, and the start path is chosen. -/
  | listenEnd (ax : GateOwner)
  /-- POLARITY_TEST (R291): After the injection error has stayed small for 2 ms the polarity test runs; its peaks are formed
  in the samples that follow. -/
  | polarityTest (axis : Fin 32) (posPeak negPeak : Held)
  /-- AUX_CURRENT_SAMPLE (R303): An auxiliary drive runs its current loop, and every fourth sample its speed loop. -/
  | auxCurrentSample (aux : Fin 16) (code1 code2 : Int)
  /-- AUX_ALIGN_DONE (R310): aux_align_time elapses and the drive enters OPEN_LOOP. -/
  | auxAlignDone (aux : Fin 16)
  /-- AUX_START_TIMEOUT (R310): 200 ms without observer lock faults the drive with START_FAILED. -/
  | auxStartTimeout (aux : Fin 16)
  /-- AUX_RETRY_DELAY (R311): aux_retry_delay ends and the drive restarts from STANDBY. -/
  | auxRetryDelay (aux : Fin 16)
  /-- AUX_RETRY_RESET (R311): 60 s in RUN resets the retry count. -/
  | auxRetryReset (aux : Fin 16)
  -- 07_trajectories.md
  /-- TRAIL_PLANNED (R320): The appended moves are planned into the trail and TRAIL_APPEND completes. -/
  | trailPlanned (ep : TrailEp)
  /-- TRAIL_CHANGE_INSTANT (R337): At the change instant B a TRAIL_LIMITS, TRAIL_CANCEL or CONVOY_LEAVE takes effect. -/
  | trailChangeInstant (ep : TrailEp)
  /-- PLANNER_SEGMENT_WRITE (R335): The planner writes polynomial segments into the segment queue. -/
  | plannerSegmentWrite (ep : TrailEp) (segs : List Seg)
  /-- WAYMARK_PASSED (R330): At the end of a move's last segment the waymark is passed and counted. -/
  | waymarkPassed (ep : TrailEp)
  /-- GROUP_SEGMENT_SEND (R344): A path group sends segments to a remote member group_lead ahead. -/
  | groupSegmentSend (group : Fin 32) (member : Fin 8) (segs : List Seg)
  -- 08_line_shaft.md
  /-- CONVOY_PUBLISH (R378): A publisher sends the publication for its grid instant conv_lead ahead. -/
  | convoyPublish (cp : Fin 16)
  /-- CONVOY_BOUNDARY_PUBLISH (R379): A boundary publication is sent for a master segment beginning between grid instants. -/
  | convoyBoundaryPublish (cp : Fin 16) (tRef : Ft16)
  /-- CONVOY_SUPERSEDE (R380): A superseding publication is sent when the master departs from what was published. -/
  | convoySupersede (cp : Fin 16) (tRef : Ft16)
  /-- CONVOY_FRAME_RX (R384): A follower accepts or discards a received publication. -/
  | convoyFrameRx (f : FolEp) (pub : Pub)
  /-- CONVOY_LOCAL_DELIVERY (R372): A publication is delivered locally to followers on the master's module. -/
  | convoyLocalDelivery (f : FolEp) (pub : Pub)
  /-- CONVOY_REPUBLISH (R406): A geared virtual master republishes an incoming publication. -/
  | convoyRepublish (cp : Fin 16) (pub : Pub)
  /-- MASTER_STALE (R388): The master becomes stale and the follower decouples. -/
  | masterStale (f : FolEp)
  /-- CONVOY_JOIN_INSTANT (R402): At t_j the anchors are set and the follower becomes SYNCING or COUPLED. -/
  | convoyJoinInstant (f : FolEp)
  /-- CONVOY_REGISTER_TIMEOUT (R377): The leader does not answer a convoy registration within 10 ms. -/
  | convoyRegisterTimeout (cp : Fin 16)
  /-- REG_MARK (R408): A follower evaluates a mark's register error and updates the correction demand. -/
  | regMark (f : FolEp) (stamp : Ft8)
  /-- REMOTE_SETPOINT_SEND (R413): A remote axis setpoint frame is sent rem_lead before its grid instant. -/
  | remoteSetpointSend (na : Fin 128)
  /-- REMOTE_FEEDBACK_RX (R414): A remote feedback frame is accepted or dropped. -/
  | remoteFeedbackRx (na : Fin 128) (fb : RemFeedback)
  /-- REMOTE_TIMEOUT (R414): No valid feedback within rem_timeout faults the remote axis and logs REMOTE_LOST. -/
  | remoteTimeout (na : Fin 128)
  /-- REMOTE_ENABLE_TIMEOUT (R414): No enabled feedback within rem_enable_timeout fails AXIS_ENABLE. -/
  | remoteEnableTimeout (na : Fin 128)
  -- 09_steppers.md
  /-- STEPPER_RELEASE (R420): At t_srel before a grid instant the stepper unit evaluates the next setpoint. -/
  | stepperRelease (ch : Fin 32)
  /-- MICROSTEP (R422): The unit issues one microstep toward the microstep count. -/
  | microstep (ch : Fin 32)
  /-- CHOPPER_TRIP (R428): The coil comparator trips and the chopper changes phase. -/
  | chopperTrip (ch : Fin 32) (coilB : Bool)
  /-- CHOPPER_TOFF_MAX (R428): An off phase ends at stp_toff_max. -/
  | chopperToffMax (ch : Fin 32) (coilB : Bool)
  /-- STEPPER_CURRENT_CONVERSION (R430): A monitored coil conversion updates the adaptive offset or voltage-mode PI. -/
  | stepperCurrentConversion (ch : Fin 32) (coilB : Bool) (code : Fin 4096)
  /-- STEPPER_PWM_PERIOD (R431): A voltage-mode carrier period computes the coil duty. -/
  | stepperPwmPeriod (ch : Fin 32) (coilB : Bool)
  /-- STEPPER_IDLE_TIMEOUT (R427): After stp_idle_time of standstill the current ramps to stp_i_hold. -/
  | stepperIdleTimeout (ch : Fin 32)
  /-- STEPPER_ENABLE_RAMP_DONE (R441): The enable current ramp completes and the channel enters ENABLED. -/
  | stepperEnableRampDone (ch : Fin 32)
  -- 10_capture.md
  /-- CAPTURE_FIRING (R453): A condition firing with its stamp, which its source holds, reaches a capture channel. -/
  | captureFiring (cc : Fin 256) (cond : Fin 4) (stamp : Held)
  /-- CAPTURE_TIME_CONDITION (R451): A time condition fires at the tick containing its level. -/
  | captureTimeCondition (cc : Fin 256) (cond : Fin 4)
  /-- CAPTURE_TRIGGER (R453): A trigger becomes final and the channel takes it. -/
  | captureTrigger (cc : Fin 256)
  /-- CAPTURE_SAMPLE (R463): A basket channel enters a sample record and updates its reductions. -/
  | captureSample (cc : Fin 256) (at_ : TdcEdge) (rawCode : Option Int)
  /-- CAPTURE_REARM (R455): t_rearm after t_end the channel re-arms and reserves space. -/
  | captureRearm (cc : Fin 256)
  /-- LATCH_RECORD (R461): Latched positions are formed and the latch record enters the FIFO. -/
  | latchRecord (cc : Fin 256)
  /-- BASKET_SPILL (R477): The spill engine moves the oldest closed basket into the spill region. -/
  | basketSpill
  -- 11_mailboxes.md
  /-- MBX_DOORBELL (R488): A doorbell write gives cmd_tail; an invalid value is ignored and logged. -/
  | mbxDoorbell (m : Fin 64) (tail : BitVec 16)
  /-- MBX_RSP_HEAD_WRITE (R488): The host advances rsp_head, freeing response slots. -/
  | mbxRspHeadWrite (m : Fin 64) (head : BitVec 16)
  /-- MBX_ENABLE_SET (R499): Setting enable claims a mailbox for PCIe, or is ignored in NETWORK. -/
  | mbxEnableSet (m : Fin 64) (ctrl : BitVec 32)
  /-- MBX_ENABLE_CLEAR (R492): Clearing enable closes the session and stops ring transfers. -/
  | mbxEnableClear (m : Fin 64) (ctrl : BitVec 32)
  /-- MBX_EVT_HEAD_WRITE (R534): The host advances evt_head, freeing event ring slots. -/
  | mbxEvtHeadWrite (head : BitVec 16)
  /-- MBX_EVT_ENABLE (R533): Setting or clearing the event ring enable. -/
  | mbxEvtEnable (ctrl : BitVec 32)
  /-- SUP_FT_SNAP_LO_READ (R487): A read latches FT.16 and returns FT. -/
  | supFtSnapLoRead
  /-- SUP_FAULT_WRITE (R20): A write of 1 clears W1C bits of SUP_FAULT. -/
  | supFaultWrite (mask : BitVec 32)
  /-- MBX_BAD_ACCESS (R486): A misaligned or partial write is ignored and counted. -/
  | mbxBadAccess
  /-- REGISTER_WRITE (R18): A write to a direct register with no row of its own sets its fields. -/
  | registerWrite (reg : DirectReg) (v : BitVec 32)
  /-- DESCRIPTOR_FETCH (R489): The module takes the next descriptor when a response slot is free. -/
  | descriptorFetch (m : Fin 64) (d : Descriptor)
  /-- RESPONSE_WRITE (R490): A completed command's response is written and its tag freed. -/
  | responseWrite (m : Fin 64)
  /-- RING_DMA_FAIL (R491): A failed ring transfer puts the mailbox in ERROR. -/
  | ringDmaFail (m : Fin 64)
  /-- MSIX_MODERATION_END (R535): At the end of a moderation interval a pending advance is signalled. -/
  | msixModerationEnd (source : Option (Fin 64))
  /-- UDP_HELLO (R503): A HELLO opens a half-open session or is rejected or dropped. -/
  | udpHello (port : Fin 2) (src : BitVec 48) (bytes : List Byte)
  /-- UDP_COMMAND (R506): A COMMAND datagram is authenticated and executed, or its response resent. -/
  | udpCommand (port : Fin 2) (src : BitVec 48) (bytes : List Byte)
  /-- HALF_OPEN_TIMEOUT (R504): A half-open session is discarded after 1 s. -/
  | halfOpenTimeout (sessionId : BitVec 32)
  /-- SESSION_IDLE_TIMEOUT (R509): A network session closes after session_idle without traffic. -/
  | sessionIdleTimeout (m : Fin 64)
  /-- FORWARDED_COMMAND_RX (R665): A REQUEST carrying a forwarded command is executed for the source session. -/
  | forwardedCommandRx (src : Fin 4096) (sess : BitVec 32) (d : Descriptor)
  /-- FORWARDED_RESPONSE_RX (R508): The response of a forwarded command arrives and completes it. -/
  | forwardedResponseRx (m : Fin 64) (tag : Fin 256) (status : BitVec 16) (data : List Byte) (tDone : Ft8)
  /-- FORWARD_TIMEOUT (R508): No forwarded response within remote_timeout completes the command with E_TIMEOUT. -/
  | forwardTimeout (m : Fin 64) (tag : Fin 256)
  /-- PCIE_LINK_DOWN (R499): A PCIe hot reset or link down sets every PCIe mailbox OFF. -/
  | pcieLinkDown
  /-- EPOCH_BOUNDARY (R512): At an epoch boundary the supervisor freezes the snapshot. -/
  | epochBoundary
  /-- COMMIT_APPLY (R520): At its boundary a commit rechecks state conditions and applies whole or is dropped. -/
  | commitApply
  /-- COMMIT_ITEMS_MSG (R522): A participant receives its PREPARE items, checks and reserves them. -/
  | commitItemsMsg (p : PrepRef) (sess : BitVec 32) (ftC : Ft) (items : List Item)
  /-- COMMIT_READY_MSG (R522): The coordinator receives READY or a failure from a participant. -/
  | commitReadyMsg (num : Nat) (part : Fin 4096) (status : BitVec 16) (index : BitVec 16)
  /-- COMMIT_DECISION_MSG (R522): A participant receives COMMIT. -/
  | commitDecisionMsg (p : PrepRef)
  /-- COMMIT_ABORT_MSG (R522): A participant receives ABORT and discards its items. -/
  | commitAbortMsg (p : PrepRef)
  /-- COMMIT_ACK_MSG (R522): The coordinator receives a decision acknowledgement. -/
  | commitAckMsg (num : Nat) (part : Fin 4096)
  /-- COMMIT_APPLIED_MSG (R523): The coordinator receives APPLIED from a participant. -/
  | commitAppliedMsg (num : Nat) (part : Fin 4096)
  /-- PREPARE_READY_DEADLINE (R522): At FT_c − 3 ms without all READY the coordinator decides ABORT. -/
  | prepareReadyDeadline (num : Nat)
  /-- PREPARE_ACK_DEADLINE (R522): At FT_c − 1 ms with an acknowledgement missing the coordinator sends ABORT. -/
  | prepareAckDeadline (num : Nat)
  /-- PREPARE_APPLY (R522): At FT_c a participant holding COMMIT applies its items. -/
  | prepareApply (p : PrepRef)
  /-- PREPARE_DISCARD_TIMEOUT (R522): At FT_c + 100 ms undecided items are discarded and PREPARE completes. -/
  | prepareDiscardTimeout (p : PrepRef)
  /-- LOCK_REQUEST_MSG (R526): A lock request for endpoints arrives at their module. -/
  | lockRequestMsg (sess : SessRef) (eps : List (BitVec 16)) (wait : Bool)
  /-- LOCK_GRANT_MSG (R526): A lock grant arrives and completes the LOCK. -/
  | lockGrantMsg (m : Fin 64)
  /-- LOCK_REFUSAL_MSG (R527): A lock refusal arrives and fails the LOCK. -/
  | lockRefusalMsg (m : Fin 64) (circle : Bool)
  /-- LOCK_RELEASE_MSG (R529): A lock release frees endpoints and grants waiting requests. -/
  | lockReleaseMsg (sess : SessRef) (eps : List (BitVec 16))
  /-- LOCK_GRAPH_QUERY (R527): The leader tests a waiting request against the wait-for graph. -/
  | lockGraphQuery (req : SessRef) (on : List SessRef) (owner : Fin 4096)
  /-- LOCK_GRAPH_ANSWER (R527): The leader's answer on a circle test arrives. -/
  | lockGraphAnswer (sess : SessRef) (circle : Bool)
  /-- LOCK_WAIT_TIMEOUT (R528): A waiting LOCK completes with E_TIMEOUT when its wait time expires. -/
  | lockWaitTimeout (m : Fin 64)
  /-- CMD_RECORD_EXPIRY (R530): A command status record expires 10 s after completion. -/
  | cmdRecordExpiry (ref : CmdRef)
  -- 12_commands.md, group 0x01
  /-- SYS_IDENTIFY (R541): Returns identity, firmware versions and safety check value. -/
  | sysIdentify (ref : CmdRef)
  /-- SYS_STATUS (R498): Returns SUP_STATE, SUP_FAULT, time state and tags in flight. -/
  | sysStatus (ref : CmdRef)
  /-- CMD_STATUS (R530): Returns the state of a tag's latest command. -/
  | cmdStatus (ref : CmdRef) (dev : BitVec 16) (tag : Fin 256)
  /-- CMD_ABORT (R531): Aborts a queued or running non-atomic command. -/
  | cmdAbort (ref : CmdRef) (dev : BitVec 16) (tag : Fin 256)
  /-- INTERRUPTED_LIST (R532): Returns the tags in flight at the last restart. -/
  | interruptedList (ref : CmdRef)
  /-- SNAP_READ (R513): Returns items from the latest complete snapshot, optionally clearing counters. -/
  | snapRead (ref : CmdRef) (clear : Bool) (items : List ReadItem)
  /-- SNAP_AT (R514): Returns items from the snapshot at a given FT, waiting for a future one. -/
  | snapAt (ref : CmdRef) (clear : Bool) (ft : Ft) (items : List ReadItem)
  /-- STAGE_WRITE (R516): Adds items to the session's pending set. -/
  | stageWrite (ref : CmdRef) (items : List Item)
  /-- COMMIT (R517): Schedules the pending set at the next epoch boundary after t_cmin. -/
  | commit (ref : CmdRef)
  /-- COMMIT_AT (R517): Schedules the pending set at a given FT. -/
  | commitAt (ref : CmdRef) (ft : Ft)
  /-- DISCARD (R521): Empties the pending set. -/
  | discard (ref : CmdRef)
  /-- PREPARE (R522): Starts a fabric-wide commit at FT_c as coordinator. -/
  | prepare (ref : CmdRef) (ftC : Ft)
  /-- PARAM_IMPORT (R552): Adds a stream of items to the pending set in order. -/
  | paramImport (job : CmdJob) (offset : BitVec 32) (items : List Item)
  /-- LOCK (R526): Takes host locks on endpoints, waiting or refusing. -/
  | lock (ref : CmdRef) (wait : BitVec 32) (eps : List (BitVec 16))
  /-- UNLOCK (R529): Releases named host locks. -/
  | unlock (ref : CmdRef) (eps : List (BitVec 16))
  /-- SESSION_OPEN (R495): Opens a session and grants a tag range. -/
  | sessionOpen (ref : CmdRef) (tags : BitVec 16)
  /-- SESSION_CLOSE (R551): Closes the session after writing its response. -/
  | sessionClose (ref : CmdRef)
  /-- KEY_SET (R502): Writes or removes a pre-shared key over PCIe. -/
  | keySet (ref : CmdRef) (keyId : Byte) (key : List Byte)
  -- group 0x02
  /-- TIME_STATUS (R541): Returns the time registers, XT and leader device number. -/
  | timeStatus (ref : CmdRef)
  /-- TIME_STEP (R76): Steps the module to its source or announces a fabric-wide step. -/
  | timeStep (ref : CmdRef) (mode : Byte) (ns : BitVec 64) (frac : BitVec 16)
  -- group 0x03
  /-- AXIS_ENABLE (R240): Enables an axis of any class after its checks. -/
  | axisEnable (ref : CmdRef) (ep : BitVec 16)
  /-- AXIS_DISABLE (R554): Disables an axis, directly or through a stop. -/
  | axisDisable (ref : CmdRef) (ep : BitVec 16) (cat : Byte)
  /-- AXIS_MIGRATE (R796): Schedules a servo axis's move to another engine at a boundary. -/
  | axisMigrate (ref : CmdRef) (ep : BitVec 16) (engine : Byte) (ft : Ft)
  -- group 0x04
  /-- KERNEL_LOAD (R205): Checks and stores a hook kernel image and returns its handle. -/
  | kernelLoad (ref : CmdRef) (image : List Byte)
  /-- KERNEL_UNLOAD (R208): Removes a stored kernel that is not attached. -/
  | kernelUnload (ref : CmdRef) (handle : BitVec 32)
  -- group 0x05
  /-- TRAIL_APPEND (R321): Appends 1–8 moves to a trail. -/
  | trailAppend (ref : CmdRef) (ep : BitVec 16) (moves : List MoveRec)
  /-- TRAIL_CANCEL (R348): Cancels queued moves to a waymark or to rest. -/
  | trailCancel (ref : CmdRef) (ep : BitVec 16) (mode : Byte)
  /-- TRAIL_LIMITS (R339): Changes acceleration, deceleration or jerk of moves from B; whether they can be met the planner
  tells from State. -/
  | trailLimits (ref : CmdRef) (ep : BitVec 16) (scope mask : Byte) (aMax dMax jerk : F32) (meets : Held)
  /-- STOP (R351): Removes every move and stops the axis in the named category. -/
  | stop (ref : CmdRef) (ep : BitVec 16) (cat : Byte)
  /-- HOME (R360): Runs the homing of the axis's home_mode. -/
  | home (ref : CmdRef) (ep : BitVec 16)
  /-- POS_SET (R355): Sets the axis position at a sample boundary. -/
  | posSet (ref : CmdRef) (ep : BitVec 16) (pos : Q32)
  -- group 0x06
  /-- CAM_LOAD (R395): Loads cam points into a table, in pieces. -/
  | camLoad (job : CmdJob) (ep : BitVec 16) (interp : Byte) (first total : BitVec 32) (pts : List CamPoint)
  /-- CONVOY_JOIN (R401): Joins a follower to a convoy with its mapping. -/
  | convoyJoin (ref : CmdRef) (ep : BitVec 16) (j : JoinReq)
  /-- CONVOY_LEAVE (R405): Hands the follower to its trail or brings it to rest at B. -/
  | convoyLeave (ref : CmdRef) (ep : BitVec 16) (mode : Byte)
  /-- PHASE_MOVE (R390): Moves the phase offset of a coupled follower by a profile. -/
  | phaseMove (ref : CmdRef) (ep : BitVec 16) (dist : Q32) (v a j : F32)
  -- group 0x07
  /-- BASKET_ARM (R452): Arms a capture channel with an arm count. -/
  | basketArm (ref : CmdRef) (ep : BitVec 16) (count : BitVec 16)
  /-- BASKET_LIST (R541): Returns closed basket ids of a channel. -/
  | basketList (ref : CmdRef) (ep : BitVec 16)
  /-- BASKET_READ (R479): Reads bytes of a closed basket. -/
  | basketRead (job : CmdJob) (id : BitVec 32) (offset len : BitVec 32)
  /-- BASKET_RELEASE (R480): Frees a basket and its slot. -/
  | basketRelease (ref : CmdRef) (id : BitVec 32)
  /-- LATCH_READ (R459): Removes and returns up to 16 latch records. -/
  | latchRead (ref : CmdRef) (ep : BitVec 16) (max : Byte)
  /-- CAP_TRIGGER (R481): Fires the software condition of a channel. -/
  | capTrigger (ref : CmdRef) (ep : BitVec 16)
  /-- BASKET_DISARM (R482): Disarms a capture channel. -/
  | basketDisarm (ref : CmdRef) (ep : BitVec 16)
  -- group 0x08
  /-- FIO_OUT_SET (R726): Sets commanded field output states at once. -/
  | fioOutSet (ref : CmdRef) (mask values : BitVec 32)
  /-- FIO_OUT_AT (R726): Schedules field output states at an FT. -/
  | fioOutAt (ref : CmdRef) (mask values : BitVec 32) (ft : Ft)
  -- group 0x09
  /-- FAB_PREFER (R645): Stores the preferred device number. -/
  | fabPrefer (ref : CmdRef) (dev : BitVec 16)
  /-- FAB_PORT (R625): Disables, enables, releases from bench or retrains a fabric port. -/
  | fabPort (ref : CmdRef) (port action : Byte)
  /-- FAB_TOPOLOGY (R541): Returns the fabric topology table. -/
  | fabTopology (ref : CmdRef)
  -- group 0x0A
  /-- CAN_SEND (R700): Places a frame in a CAN transmit buffer. -/
  | canSend (ref : CmdRef) (ep buf : BitVec 16) (fr : CanFrame) (at_ : Option Ft)
  /-- CAN_CANCEL (R703): Removes a pending CAN frame before its start of frame. -/
  | canCancel (ref : CmdRef) (ep buf : BitVec 16)
  /-- CAN_READ (R708): Returns received CAN frames. -/
  | canRead (ref : CmdRef) (ep : BitVec 16) (max : Byte)
  -- group 0x0B
  /-- SAF_CONFIG_LOAD (R764): Loads a safety configuration image and asserts STO on every group. -/
  | safConfigLoad (ref : CmdRef) (image : List Byte)
  /-- SAF_CONFIG_READ (R541): Returns the safety configuration image in force. -/
  | safConfigRead (ref : CmdRef)
  /-- SAF_COMMISSION (R764): Confirms the configuration by its check value. -/
  | safCommission (ref : CmdRef) (value : BitVec 32)
  /-- SAF_ACK (R741): Requests release of named STO groups. -/
  | safAck (ref : CmdRef) (mask : Byte)
  -- group 0x0C
  /-- PWR_ENTER (R772): Starts a change of power state. -/
  | pwrEnter (ref : CmdRef) (state : Byte)
  /-- PWR_DOMAIN (R801): Switches an engine group's domain on or off. -/
  | pwrDomain (ref : CmdRef) (domain on : Byte)
  /-- ENGINE_RESTART (R803): Scrubs and reloads a halted engine. -/
  | engineRestart (ref : CmdRef) (engine : Byte)
  /-- FW_WRITE (R790): Writes firmware image data into the bank not running. -/
  | fwWrite (job : CmdJob) (bank : Byte) (offset total : BitVec 32) (data : List Byte)
  /-- FW_ACTIVATE (R791): Verifies and activates a firmware bank now or at an FT. -/
  | fwActivate (ref : CmdRef) (bank : Byte) (ft : Ft)
  /-- CFG_SAVE (R787): Writes the configuration into the older persistent record. -/
  | cfgSave (ref : CmdRef) (flashFault : Bool)
  -- group 0x0D
  /-- THREAD_LOAD (R568): Checks and places a user program image. -/
  | threadLoad (ref : CmdRef) (image : List Byte)
  /-- THREAD_START (R571): Creates a user thread in READY. -/
  | threadStart (ref : CmdRef) (handle : BitVec 32) (prio ceiling : Byte) (ageing : BitVec 32)
  /-- THREAD_CANCEL (R591): Ends a user thread. -/
  | threadCancel (ref : CmdRef) (id : BitVec 16)
  /-- THREAD_PRIO (R582): Sets a thread's base priority and ceiling. -/
  | threadPrio (ref : CmdRef) (id : BitVec 16) (prio ceiling : Byte)
  -- group 0x0E
  /-- LOG_READ (R561): Returns event log records from a sequence number. -/
  | logRead (job : CmdJob) (first max : BitVec 32)
  /-- LOG_MARK (R541): Logs a USER_MARK record with user data. -/
  | logMark (ref : CmdRef) (data : BitVec 128)
  -- 13_scheduler.md
  /-- THREAD_DISPATCH (R575): The scheduler dispatches the first thread of the highest ready level to an idle core. -/
  | threadDispatch
  /-- AGEING_RAISE (R580): A ready thread's waiting count reaches its bound and its priority rises one level. -/
  | ageingRaise (id : Fin 256)
  /-- SCHEDULER_TICK (R588): At each 1 µs tick due sleepers and waiters become READY. -/
  | schedulerTick
  /-- THREAD_TRAP (R592): A user-mode trap ends the thread and logs THREAD_FAULT. -/
  | threadTrap (core : Fin 8) (mcause mtval : BitVec 64)
  /-- SCH_YIELD (R579): The thread yields to the tail of its base level. -/
  | schYield (core : Fin 8)
  /-- SCH_SLEEP (R587): The thread sleeps for a duration. -/
  | schSleep (core : Fin 8) (ns : BitVec 64)
  /-- SCH_SLEEP_UNTIL (R587): The thread sleeps until a wake FT. -/
  | schSleepUntil (core : Fin 8) (wake : BitVec 64)
  /-- SCH_WAIT (R584): The thread takes an event count or waits with a timeout. -/
  | schWait (core : Fin 8) (event timeout : BitVec 64)
  /-- SCH_SIGNAL (R585): Adds to an event count and readies waiters. -/
  | schSignal (core : Fin 8) (event count : BitVec 64)
  /-- SCH_NOW (R583): Returns the FT.16 of the call. -/
  | schNow (core : Fin 8)
  /-- SCH_EXIT (R574): Ends the calling thread. -/
  | schExit (core : Fin 8)
  /-- SCH_CALL_INVALID (R583): An unknown call number returns 3. -/
  | schCallInvalid (core : Fin 8) (a7 : BitVec 64)
  -- 14_arbitration.md
  /-- ARBITRATION_GRANT (R597): In an arbitration cycle with a request raised the arbiter grants by level, tie wheel or slot. -/
  | arbitrationGrant (arb : ArbId) (raised : List (Fin 17 × Nat))
  /-- GRANT_CUTOFF (R605): A grant held T cycles is cut off with a bus error and ARB_OVERHOLD logged. -/
  | grantCutoff (arb : ArbId)
  /-- WAIT_GRAPH_REBUILD (R615): A new leader finishes rebuilding the wait-for graph. -/
  | waitGraphRebuild (edges : List (SessRef × SessRef))
  -- 15_yunadra_fabric.md
  /-- PORT_TRAINING_START (R625): An enabled fabric port starts CAL after its stagger. -/
  | portTrainingStart (port : Fin 4)
  /-- PORT_CAL_DONE (R626): The loopback measurement completes and the port enters TRAIN. -/
  | portCalDone (port : Fin 4) (txLat rxLat : Nat)
  /-- BLOCK_LOCK (R627): 64 valid sync headers give block lock. -/
  | blockLock (port : Fin 4)
  /-- TRAIN_BLOCK_RX (R627): A TRAIN block is received; training completes or an UP link goes down. -/
  | trainBlockRx (port : Fin 4) (seen : Bool) (half : Fin 2) (sender : Fin 4) (uid : BitVec 32) (b6 : Byte)
  /-- TRAIN_TIMEOUT (R627): A training attempt not complete within t_trn fails. -/
  | trainTimeout (port : Fin 4)
  /-- PORT_RETRY (R627): 20 ms after a failed attempt the port restarts CAL. -/
  | portRetry (port : Fin 4)
  /-- DELAY_REQ_SEND (R628): The port sends DELAY_REQ for a delay exchange. -/
  | delayReqSend (port : Fin 4) (tx : TdcEdge)
  /-- DELAY_REQ_RX (R628): A DELAY_REQ is answered with DELAY_RESP. -/
  | delayReqRx (port : Fin 4) (n : BitVec 16) (rx : TdcEdge) (cyc : Fin 100) (tx : TdcEdge)
  /-- DELAY_RESP_RX (R628): A DELAY_RESP completes an exchange and updates the link delay. -/
  | delayRespRx (port : Fin 4) (n : BitVec 16) (t2 t3 : Ft16) (rx : TdcEdge)
  /-- LINK_SIGNAL_LOST (R631): Loss of signal at the receiver takes the link down. -/
  | linkSignalLost (port : Fin 4)
  /-- BLOCK_LOCK_LOST (R631): Block lock is lost and the link goes down. -/
  | blockLockLost (port : Fin 4)
  /-- INVALID_SYNC_HEADER (R631): An invalid sync header is counted; 16 within 125 µs take the link down. -/
  | invalidSyncHeader (port : Fin 4)
  /-- CONTROL_BLOCK_TIMEOUT (R631): No valid control block for 2 µs takes the link down. -/
  | controlBlockTimeout (port : Fin 4)
  /-- DELAY_EXCHANGE_FAIL (R631): Delay exchanges failing for 16 ms take the link down. -/
  | delayExchangeFail (port : Fin 4)
  /-- IDLE_BLOCK_RX (R639): An IDLE block updates the freed counts of a VC pair. -/
  | idleBlockRx (port : Fin 4) (pair : Fin 2) (freedA freedB : BitVec 16)
  /-- FRAG_BLOCK_RX (R633): A fragment is received and delivered or forwarded. -/
  | fragBlockRx (port : Fin 4) (frag : Frag)
  /-- ABORT_BLOCK_RX (R634): An ABORT block discards the open frame. -/
  | abortBlockRx (port : Fin 4) (vc : Fin 4) (stream : Fin 8)
  /-- RESYNC_BLOCK_RX (R640): RESYNC makes the transmitter complete its fragment and send RMARKs. -/
  | resyncBlockRx (port : Fin 4)
  /-- RMARK_BLOCK_RX (R640): RMARK sets the freed counts and the receiver sends IDLE pairs. -/
  | rmarkBlockRx (port : Fin 4) (pair : Fin 2) (sentA sentB : BitVec 16)
  /-- CONTROL_BLOCK_CRC_ERROR (R635): A bad control block breaks every open stream and starts resynchronisation. -/
  | controlBlockCrcError (port : Fin 4)
  /-- BENCH_END (R668): 100 ms on the bench without violation returns the port to UP. -/
  | benchEnd (port : Fin 4)
  /-- TIME_FRAME_SEND (R658): A module sends TIME on each UP or BENCH port every 125 µs. -/
  | timeFrameSend (port : Fin 4) (cyc : Fin 100) (tx : TdcEdge)
  /-- TIME_FRAME_RX (R659): A TIME frame from the parent yields a time measurement and relays any step announcement. -/
  | timeFrameRx (port : Fin 4) (m : TimeMsg) (rx : TdcEdge)
  /-- LINK_DOWN_FRAME_RX (R653): A LINK_DOWN report is flooded on. -/
  | linkDownFrameRx (port : Fin 4) (uid : BitVec 64) (lostPort : Fin 4) (cause : Nat) (gen : Nat)
  /-- REPAIR_APPLY (R653): A module applies its share of a link or module repair. -/
  | repairApply (lostUid : BitVec 64) (lostPort : Fin 5)
  /-- GENERATION_RECOMPUTE (R655): The leader installs a new table generation after a loss or repair. -/
  | generationRecompute (topo : List ReportEntry)
  /-- DISCOVER_SEND (R641): A module sends DISCOVER every 2 ms or after a view change. -/
  | discoverSend (port : Fin 4)
  /-- DISCOVER_RX (R642): A DISCOVER updates the module's view of root, distance and parent. -/
  | discoverRx (port : Fin 4) (d : Discover)
  /-- DISCOVER_EXPIRY (R642): A DISCOVER older than 10 ms leaves the view. -/
  | discoverExpiry (port : Fin 4)
  /-- REPORT_SEND (R643): After t_settle of stable view a module sends its REPORT to its parent. -/
  | reportSend
  /-- REPORT_RX (R643): A child's REPORT is held, or at the root starts assignment. -/
  | reportRx (port : Fin 4) (piece : ReportPiece)
  /-- ASSIGN_RX (R646): An ASSIGN gives device numbers, or refuses a module. -/
  | assignRx (port : Fin 4) (l : List AssignEntry)
  /-- TABLE_RX (R646): A TABLE piece delivers routes, convoy masks or repair shares. -/
  | tableRx (port : Fin 4) (gen : Nat) (d : TableData)
  /-- TABLE_APPLY (R646): At the apply FT the module applies its tables and becomes MEMBER. -/
  | tableApply
  /-- REGISTER_RX (R661): The leader records a convoy registration or membership change. -/
  | registerRx (src : Fin 4096) (op : Fin 8) (convoy : Byte) (fa : Nat)
  /-- SOLO_TIMEOUT (R647): fab_solo_wait passes with no port UP and the module becomes SOLO. -/
  | soloTimeout
  /-- BULK_RX (R664): A BULK frame delivers payload ahead of its REQUEST or RESPONSE. -/
  | bulkRx (src : Fin 4096) (ident : BitVec 16) (offset : BitVec 32) (data : List Byte)
  /-- BULK_TIMEOUT (R664): Missing BULK bytes after remote_timeout are answered with a NACK. -/
  | bulkTimeout (src : Fin 4096) (ident : BitVec 16)
  /-- RELAY_RX (R666): A RELAY frame is sent out as a datagram by the bridge or returned to its device. -/
  | relayRx (src : Fin 4096) (ethPort : Fin 2) (returned : Bool) (addr : BitVec 32) (udp : BitVec 16) (data : List Byte)
  /-- RELAY_EXPIRY (R666): 1 s after the last outward frame the relay stops returning datagrams. -/
  | relayExpiry (addr : BitVec 32) (udp : BitVec 16)
  -- 16_ethernet_can.md
  /-- ETH_FRAME_INVALID (R674): A frame with bad FCS, length or class is dropped. -/
  | ethFrameInvalid (port : Fin 2) (bad : EthBad)
  /-- PAUSE_FRAME_RX (R674): A received PAUSE frame is dropped and counted. -/
  | pauseFrameRx (port : Fin 2)
  /-- ARP_REQUEST_RX (R675): An ARP request for the module's address is answered. -/
  | arpRequestRx (port : Fin 2) (target sender : BitVec 32) (mac : BitVec 48)
  /-- ARP_REPLY_RX (R675): An ARP reply fills the ARP cache. -/
  | arpReplyRx (port : Fin 2) (sender : BitVec 32) (mac : BitVec 48)
  /-- ICMP_ECHO_RX (R675): An ICMP echo request is answered within its rate limit; the data follow its checksum. -/
  | icmpEchoRx (port : Fin 2) (sender : BitVec 32) (data : List Byte)
  /-- ARP_ENTRY_EXPIRY (R675): An ARP entry expires 60 s after its last confirmation. -/
  | arpEntryExpiry (port : Fin 2) (addr : BitVec 32)
  /-- ARP_RESOLVE_TIMEOUT (R675): A held datagram is dropped after 10 ms unresolved. -/
  | arpResolveTimeout (port : Fin 2) (addr : BitVec 32)
  /-- FRAG_REASSEMBLY_TIMEOUT (R676): An incomplete reassembly is dropped after 2 ms. -/
  | fragReassemblyTimeout (port : Fin 2) (buf : Fin 8)
  /-- PTP_SYNC_RX (R688): A Sync on the source port yields an offset measurement. -/
  | ptpSyncRx (port : Fin 2) (h : PtpHeader) (twoStep : Bool) (origin : Nat) (corr : Int) (rx : TdcEdge)
  /-- PTP_FOLLOW_UP_RX (R688): A Follow_Up gives the precise origin of a two-step Sync. -/
  | ptpFollowUpRx (port : Fin 2) (h : PtpHeader) (origin : Nat) (corr : Int)
  /-- PTP_PDELAY_REQ_RX (R89): A Pdelay_Req is answered with a one-step Pdelay_Resp. -/
  | ptpPdelayReqRx (port : Fin 2) (h : PtpHeader) (rx : TdcEdge) (cyc : Fin 100) (tx : TdcEdge)
  /-- PTP_PDELAY_RESP_RX (R686): A Pdelay_Resp updates the peer path delay. -/
  | ptpPdelayRespRx (port : Fin 2) (h : PtpHeader) (twoStep : Bool) (t2 : Nat) (corr : Int) (rx : TdcEdge)
  /-- PTP_PDELAY_RESP_FOLLOW_UP_RX (R686): A Pdelay_Resp_Follow_Up completes a two-step peer delay. -/
  | ptpPdelayRespFollowUpRx (port : Fin 2) (h : PtpHeader) (t3 : Nat) (corr : Int)
  /-- PTP_DELAY_RESP_RX (R686): A Delay_Resp updates the end-to-end path delay. -/
  | ptpDelayRespRx (port : Fin 2) (h : PtpHeader) (rxTime : Nat) (corr : Int)
  /-- PTP_ANNOUNCE_RX (R686): An Announce enters master selection. -/
  | ptpAnnounceRx (port : Fin 2) (h : PtpHeader) (a : Announce)
  /-- PTP_IGNORED_RX (R685): A bad or ignored PTP message is dropped and counted. -/
  | ptpIgnoredRx (port : Fin 2) (bad : Bool)
  /-- PTP_ANNOUNCE_TIMEOUT (R686): No Announce within ptp_announce_timeout loses the master. -/
  | ptpAnnounceTimeout (port : Fin 2)
  /-- PTP_DELAY_REQ_SEND (R89): The port sends Pdelay_Req or Delay_Req at its interval. -/
  | ptpDelayReqSend (port : Fin 2) (cyc : Fin 100) (tx : TdcEdge)
  /-- ETH_LINK_CHANGE (R672): The PHY link status changes. -/
  | ethLinkChange (port : Fin 2) (up : Bool)
  /-- ETH_FRAME_TX (R679): The port sends from the highest open non-empty queue. -/
  | ethFrameTx (port : Fin 2)
  /-- ETH_SCHEDULED_ENQUEUE (R680): A frame with a send instant enters its queue. -/
  | ethScheduledEnqueue (port : Fin 2) (na : Fin 128)
  /-- ETH_TX_LATE (R680): A frame not begun by its t_target is dropped. -/
  | ethTxLate (port : Fin 2) (queue : Fin 8)
  /-- QBV_GATE_CHANGE (R684): A gate list entry changes the gate states. -/
  | qbvGateChange (port : Fin 2)
  /-- QBV_CONFIG_CHANGE (R683): At ConfigChangeTime the new gate list takes effect. -/
  | qbvConfigChange (port : Fin 2)
  /-- SAFE_FRAME_HANDOVER (R691): A class 3 frame is handed to the safety island unchanged. -/
  | safeFrameHandover (port : Fin 2) (bytes : List Byte) (rx : TdcEdge)
  /-- SAFE_FRAME_TX (R690): A safe frame is sent as two copies on two networks. -/
  | safeFrameTx (conn : Fin 64) (bytes : List Byte)
  /-- CAN_ARBITRATION (R700): At bus idle the channel enters arbitration with its first eligible buffer. -/
  | canArbitration (ch : Fin 4)
  /-- CAN_TX_DONE (R558): A frame is acknowledged and its CAN_SEND completes. -/
  | canTxDone (ch : Fin 4) (sof : Ft8)
  /-- CAN_ARB_LOST (R702): Arbitration is lost and the frame is retried. -/
  | canArbLost (ch : Fin 4)
  /-- CAN_ERROR (R702): A bus error is detected, counted and the frame retried. -/
  | canError (ch : Fin 4) (err : CanErr) (site : CanErrSite)
  /-- CAN_BUS_OFF_RECOVERY (R698): After 128 × 11 recessive bits the channel returns to ERROR_ACTIVE. -/
  | canBusOffRecovery (ch : Fin 4)
  /-- CAN_FRAME_RX (R705): A correctly received frame is filtered, stamped and stored. -/
  | canFrameRx (ch : Fin 4) (fr : CanFrame) (remote esi : Bool) (sof : Ft8)
  -- 17_field_io.md
  /-- FIELD_INPUT_DEBOUNCED (R713): A field input's raw level has held for fi_debounce and its state changes. -/
  | fieldInputDebounced (input : Fin 64) (level : Bool) (count : BitVec 32)
  /-- FAST_LATCH_EDGE (R719): An edge at a fast latch land is stamped by its TDC channel. -/
  | fastLatchEdge (input : Fin 16) (level : Bool) (cycles : Fin 100) (frac : Fin 256)
  /-- FAST_LATCH_DEBOUNCED (R720): A fast latch input's debounced state changes; the stamp is the edge's. -/
  | fastLatchDebounced (input : Fin 16) (level : Bool) (stamp : Held)
  /-- FIO_FRAME_RX (R727): A field die receives a core-die frame with heartbeat and commands. -/
  | fioFrameRx (die : Fin 2) (crcOk : Bool)
  /-- FIO_REPORT_RX (R714): The core die receives a field die frame with input states and stamps. -/
  | fioReportRx (die : Fin 2) (r : FioReport)
  /-- FIO_STALE_TIMEOUT (R714): 10 frame slots without a valid frame mark the die's inputs stale. -/
  | fioStaleTimeout (die : Fin 2)
  /-- FIO_HEARTBEAT_TIMEOUT (R727): fio_hb_timeout without a valid frame puts the die in HB_LOST. -/
  | fioHeartbeatTimeout (die : Fin 2)
  /-- WIRE_BREAK_SET (R716): Current below I_wbd for t_wb declares a wire break. -/
  | wireBreakSet (input : Fin 64)
  /-- WIRE_BREAK_CLEAR (R716): Current above I_wbr for t_wb clears a wire break. -/
  | wireBreakClear (input : Fin 64)
  /-- OUTPUT_CURRENT_LIMIT (R723): An output reaches I_olim and enters LIMIT. -/
  | outputCurrentLimit (out : Fin 32)
  /-- OUTPUT_LIMIT_END (R723): The load current falls below I_olim and the output returns to ON. -/
  | outputLimitEnd (out : Fin 32)
  /-- OUTPUT_OVERTEMP (R723): A channel at T_sd enters COOLING. -/
  | outputOvertemp (out : Fin 32)
  /-- GROUP_OVERTEMP (R724): The group sensor at 150 °C puts its outputs in COOLING. -/
  | groupOvertemp (group : Fin 4)
  /-- OUTPUT_COOLED (R723): A channel at T_rs retries or latches. -/
  | outputCooled (out : Fin 32)
  /-- OUTPUT_RETRY_RESET (R725): 1 s in ON returns the retry count to 0. -/
  | outputRetryReset (out : Fin 32)
  /-- FIO_OUT_AT_APPLY (R726): A timed output change acts at its FT. -/
  | fioOutAtApply (die : Fin 2)
  /-- SUPPLY_MEASUREMENT (R730): A field die measures its group voltages every 50 µs. -/
  | supplyMeasurement (group : Fin 4) (mv : Fin 65536)
  /-- SUPPLY_LEVEL_FALL (R730): Voltage below a threshold for 100 µs lowers the group level. -/
  | supplyLevelFall (group : Fin 4)
  /-- SUPPLY_LEVEL_RISE (R730): Voltage 0.5 V above a threshold for 10 ms raises the group level. -/
  | supplyLevelRise (group : Fin 4)
  -- 18_safety.md
  /-- SAFETY_FIO_FRAME_RX (R754): A field die receives a safety die frame commanding brake outputs. -/
  | safetyFioFrameRx (die : Fin 2) (valid : Bool)
  /-- SAFETY_FIO_LINK_TIMEOUT (R755): 2 ms without a safety frame switches assigned outputs off. -/
  | safetyFioLinkTimeout (die : Fin 2)
  /-- SAFE_CYCLE (R734): Every 250 µs the island reads inputs and taps, evaluates functions and sets STO and brakes. -/
  | safeCycle (readback : List Readback)
  /-- RELEASE_TEST (R742): The release test completes and the group is released or cause 10 latches. -/
  | releaseTest (group : Fin 8) (r : ReleaseReadings)
  /-- DARK_PULSE_TEST (R742): Every test_interval the high-side switch and brake outputs are dark-pulse tested. -/
  | darkPulseTest (group : Fin 8) (opened closed : Bool) (brakeCurrents : List Nat)
  /-- DARK_PULSE_LOW_SIDE (R742): 100 ms later the low-side switch is dark-pulse tested. -/
  | darkPulseLowSide (group : Fin 8) (opened closed : Bool)
  /-- SAFE_INPUT_CHANGE (R746): A safe input's raw level holds for si_filter and its state changes. -/
  | safeInputChange (input : Fin 8) (level : Bool)
  /-- SAFE_INPUT_TEST (R747): Every second each enabled safe input's comparator is tested. -/
  | safeInputTest (input : Fin 8) (readsZero : Bool)
  /-- SAFETY_TAP_EDGE (R748): A safety quadrature tap edge is accepted and counted. `sample` is the island's count of 200 MHz samples
  at the edge. -/
  | safetyTapEdge (axis : Fin 32) (lines : TapLines) (sample : BitVec 32)
  /-- SAFETY_TAP_WORD (R748): A safety serial tap decodes and checks a listened word. -/
  | safetyTapWord (axis : Fin 32) (w : TapWord)
  /-- SAFE_FRAME_RX (R758): The island checks a received safe frame copy and pairs it. -/
  | safeFrameRx (bytes : List Byte)
  /-- SAFE_WINDOW_EXPIRY (R759): A pair window expires with one copy and latches cause 5. -/
  | safeWindowExpiry (conn : Fin 16)
  /-- SAFE_WATCHDOG_EXPIRY (R759): The connection watchdog expires and latches cause 7. -/
  | safeWatchdogExpiry (conn : Fin 16)
  /-- SAFE_PAIR_SEND (R757): An outbound connection sends one pair every period. -/
  | safePairSend (conn : Fin 16)
  /-- CORE_REPORT_RX (R26): The island receives a core-die report for diagnostic comparison; the speeds are the core's. -/
  | coreReportRx (speeds : Held) (brakes : List Nat)
  /-- CORE_REPORT_TIMEOUT (R739): No core-die report for 1 ms latches cause 11. -/
  | coreReportTimeout
  /-- SAFETY_REPORT_RX (R751): The core die receives a safety report and stops the group's axes on request. -/
  | safetyReportRx (group : Fin 8) (report : SafetyReport)
  /-- BRAKE_CURRENT_FAULT (R756): A brake output current wrong for 10 ms latches cause 10. -/
  | brakeCurrentFault (channel : Fin 80)
  /-- SAFETY_SELFTEST_DONE (R765): The island's start-up self-test passes and it enters WAIT_CONFIG. -/
  | safetySelftestDone
  /-- SAFETY_CONFIG_DELIVERY (R765): The supervisor delivers the safety image and the island enters RUN or UNCONFIRMED. -/
  | safetyConfigDelivery
  /-- SAFETY_INTERNAL_FAULT (R766): An internal fault restarts the island, or halts it at the third in 1 h. -/
  | safetyInternalFault (f : SafInternal)
  /-- SAFETY_PERIODIC_SELFTEST (R766): The processor self-test runs every 10 s. -/
  | safetyPeriodicSelftest (passed : Bool)
  /-- SAFETY_OSC_CHECK (R766): Every 1 ms the island checks its oscillator against the reference. -/
  | safetyOscCheck (within : Bool)
  -- 19_power_boot_service.md
  /-- PWR_WAKE (R775): PWR_WAKE_N held low for t_wk wakes the module to Ramble. -/
  | pwrWake
  /-- POWER_ENTRY_COMPLETE (R774): The steps of leaving Ramble end and the lower state is entered. -/
  | powerEntryComplete
  /-- POWER_EXIT_COMPLETE (R776): Domains are up and the module is in Ramble. -/
  | powerExitComplete
  /-- VIN12_BROWNOUT (R780): VIN12 below 10 V for 10 µs drops to Hamper. -/
  | vin12Brownout
  /-- VIN12_RETURN (R775): VIN12 returns after a brownout and the module resets on the fast path. -/
  | vin12Return
  /-- VSTBY_LOSS (R780): VSTBY below 3.0 V resets D0. -/
  | vstbyLoss
  /-- SUPPLIES_GOOD (R809): VIN12 and VSTBY have been good for 1 ms and start-up begins. -/
  | suppliesGood
  /-- EXT_RESET (R777): SYS_RST_N held low resets the module. -/
  | extReset
  /-- THERMAL_TRIP (R777): A core junction above 125 °C resets the module. -/
  | thermalTrip
  /-- CASE_TEMP_READING (R781): The supervisor reads the case temperature every t_thr. -/
  | caseTempReading (tenths : Int)
  /-- BOOT_STAGE (R783): The supervisor completes a start-up stage. -/
  | bootStage
  /-- SUP_WATCHDOG_EXPIRY (R777): The supervisor watchdog is not served for t_swd and the supervisor restarts. -/
  | supWatchdogExpiry
  /-- SUP_ECC_ERROR (R777): An uncorrectable error in supervisor SRAM restarts the supervisor. -/
  | supEccError
  /-- SUPERVISOR_RESTART_DONE (R794): The supervisor restart completes and SUP_RESTARTED is logged. -/
  | supervisorRestartDone
  /-- FW_SWITCH_RESTART (R791): At the activation FT the supervisor restarts from the new bank. -/
  | fwSwitchRestart
  /-- MIGRATION_HANDOVER (R798): At B the dynamic part moves to the target engine, which computes from then on. -/
  | migrationHandover (axis : Fin 32)
  /-- ENGINE_RESCUE (R802): The axes of a halted engine are migrated to other engines. -/
  | engineRescue (le : Fin 16)
  /-- ENGINE_GROUP_READY (R801): An engine group switched on becomes IDLE. -/
  | engineGroupReady (groupB : Bool)
  -- rows added to the table after its chapters
  /-- TIME_TICK (R59): At every 64 MHz time tick the FT counter advances by the tick increment, carrying the residue. -/
  | timeTick
  /-- ARBITRATION_IDLE_CYCLE (R600): In an arbitration cycle with no request raised the arbiter advances its phase, tie wheel and slot wheel. -/
  | arbitrationIdleCycle (arb : ArbId)
  /-- SNAPSHOT_COMPLETE (R512): A snapshot frozen at an epoch boundary becomes complete within t_snap and readable by SNAP_READ and a waiting SNAP_AT. -/
  | snapshotComplete
  /-- VIRTUAL_AXIS_SAMPLE (R374): At each instant of its va_period_ticks grid the convoy unit evaluates a virtual axis's setpoint from its segment or follower mapping. -/
  | virtualAxisSample (va : Fin 256)
  /-- RELAY_DATAGRAM_RX (R666): At a bridge module, a UDP datagram from an address and port with an open relay is taken in class 5 and returned to the sending device as a RELAY frame. -/
  | relayDatagramRx (port : Fin 2) (addr : BitVec 32) (udp : BitVec 16) (data : List Byte)
  /-- REGISTER_ANSWER_RX (R377): The leader's RESPONSE to a REGISTER arrives at the publisher's module and decides the commit that gives the publisher its convoy number. -/
  | registerAnswerRx (cp : Fin 16) (status : BitVec 16)
  /-- GROUP_SEGMENT_RX (R344): A remote path-group member's module receives the segments the group's module sent and writes them into the member's segment queue. -/
  | groupSegmentRx (ep : TrailEp) (segs : List Seg)
  /-- SAFETY_SUPPLY_GOOD (R765): The safety die's own supply from VIN12 or VSTBY becomes good and the island enters START, latching cause 3. -/
  | safetySupplyGood
  /-- EXT_RESET_RELEASE (R822): SYS_RST_N returns high and the module restarts start-up on the full path within t_rsr. -/
  | extResetRelease
  /-- THERMAL_TRIP_RELEASE (R777): The core die junction falls below 100 °C, the thermal-trip reset ends and the module boots on the full path. -/
  | thermalTripRelease
  /-- MBX_EVT_LOST_READ (R21): A host read of the RC register MBX_EVT_LOST returns the count of event records not written and clears it. -/
  | mbxEvtLostRead
  /-- LSP_CLEAR_ERR (R144): On the host's command the module sends an LSP CLEAR_ERR request to the sensor and takes its CRC-only response. -/
  | lspClearErr (axis : Fin 32)
  deriving DecidableEq, Repr

end Sys2Proof
end

