-- ==== Sys2Proof/Decode.lean ====
section
/-! DEFINITION. The command a word of the table spells. The rows of the table give no bits: commands reach the block as register
accesses, descriptors in host memory, fabric messages and events, not as words. -/

namespace Sys2Proof

/-- The command of a table word: no row gives bits, so none. -/
def decodeTableWord (_nbits _w : Nat) : Option Instr := none

end Sys2Proof
end

