-- ==== Sys2Proof/Machine/Map.lean ====
section
/-! DEFINITION. Sparse maps in one canonical form: keys strictly rising and no entry equal to the value an unlisted key
reads as. Reads take that value as an argument; a write of it removes the entry. Byte memories are the case of
`Host.Cell` pairs with an unlisted byte reading as 0. -/

namespace Sys2Proof.Machine

/-- The value at key `k`; an unlisted key reads as `d`. -/
def mget {β : Type} : SMap β → Nat → β → β
  | [], _, d => d
  | (k', v) :: t, k, d => if k' = k then v else mget t k d

/-- The map without key `k`. -/
def mdel {β : Type} : SMap β → Nat → SMap β
  | [], _ => []
  | (k', v) :: t, k => if k' = k then t else (k', v) :: mdel t k

/-- The map with a value at key `k`, keys kept in rising order. -/
def mput {β : Type} : SMap β → Nat → β → SMap β
  | [], k, v => [(k, v)]
  | (k', v') :: t, k, v =>
    if k < k' then (k, v) :: (k', v') :: t
    else if k' = k then (k, v) :: t
    else (k', v') :: mput t k v

/-- The map with `v` at key `k` where an unlisted key reads as `d`. -/
def mset {β : Type} [DecidableEq β] (m : SMap β) (k : Nat) (v d : β) : SMap β :=
  if v = d then mdel m k else mput m k v

/-- The map with `g` applied to the value at `k`. -/
def mmod {β : Type} [DecidableEq β] (m : SMap β) (k : Nat) (d : β) (g : β → β) : SMap β := mset m k (g (mget m k d)) d

/-- Every key of the map is above `b`, keys strictly rise, and no value is `d`. -/
def mwfFrom {β : Type} [DecidableEq β] (d : β) : Nat → SMap β → Bool
  | _, [] => true
  | b, (k, v) :: t => decide (b ≤ k) && decide (v ≠ d) && mwfFrom d (k + 1) t

/-- The canonical form. -/
def mwf {β : Type} [DecidableEq β] (d : β) (m : SMap β) : Bool := mwfFrom d 0 m

/-- The `n` bytes of memory from address `a` up, an unlisted byte reading as 0. -/
def readBytes (m : SMap (BitVec 8)) (a : Nat) : Nat → List Byte
  | 0 => []
  | n + 1 => mget m a 0 :: readBytes m (a + 1) n

/-- Memory with bytes written from address `a` up. -/
def writeBytes (m : SMap (BitVec 8)) (a : Nat) : List Byte → SMap (BitVec 8)
  | [] => m
  | b :: t => writeBytes (mset m a b 0) (a + 1) t

/-- Little-endian value of a list of bytes (R8). -/
def leVal : List Byte → Nat
  | [] => 0
  | b :: t => b.toNat + 256 * leVal t

/-- The low `n` bytes of a value, little-endian (R8). -/
def leBytes : Nat → Nat → List Byte
  | 0, _ => []
  | n + 1, v => BitVec.ofNat 8 (v % 256) :: leBytes n (v / 256)

/-- The little-endian field of `n` bytes at offset `a` of a list of bytes; bytes past the end read as 0. -/
def leField (l : List Byte) (a n : Nat) : Nat := leVal ((l.drop a).take n)

/-- Bits [hi:lo] of a natural number. -/
def bits (v hi lo : Nat) : Nat := (v / 2 ^ lo) % 2 ^ (hi + 1 - lo)

/-- Bit `i` of a natural number. -/
def bitOf (v i : Nat) : Bool := (v / 2 ^ i) % 2 == 1

/-- A Bool as a bit. -/
def b2n (b : Bool) : Nat := if b then 1 else 0

/-- The low `w` bits of an integer, as a natural number. -/
def lowBits (w : Nat) (x : Int) : Nat := (x % (2 ^ w : Int)).toNat

/-- The low `w` bits of a natural number read as two's complement. -/
def signedOf (w : Nat) (x : Nat) : Int := Int.bmod (x : Int) (2 ^ w)

end Sys2Proof.Machine
end

