-- ==== Sys2Proof/Machine/State.lean ====
section
/-! DEFINITION. The state of the block: every register, FIFO, buffer, counter, mode and pin the spec names, as plain data,
and the queue of waiting commands. Each field's docstring gives the rule of spec/ that names it, its width and its reset
value; "(table)" is a reset value the spec states, "DC" one the model chose (log entry 2). -/

namespace Sys2Proof.Machine

/-! ### 01_architecture.md, 02_fabric_time.md: sample path and time -/

/-- Three phase values (duties in Q8.24 as raws, or per-unit currents). -/
structure Abc where
  /-- [R40] phase A, 32 bits; reset 0. -/
  a : Q8 := 0
  /-- [R40] phase B, 32 bits; reset 0. -/
  b : Q8 := 0
  /-- [R40] phase C, 32 bits; reset 0. -/
  c : Q8 := 0
  deriving DecidableEq, Repr

/-- [R67] The four states of the time unit. -/
inductive TimeState where
  | unset | acquiring | locked | holdover
  deriving DecidableEq, Repr

/-- The time unit (02_fabric_time.md) and the supervisor's XT. -/
structure TimeUnit where
  /-- [R59] TIM_NOW: FT.16, 32 bits of ns and 16 of fraction; reset 0 (R67). -/
  ft16 : Ft16 := 0
  /-- [R60] 16 lowest fractional bits of the running time, read by nothing; reset 0. DC -/
  residue : BitVec 16 := 0
  /-- [R61] TIM_RATE_ADJ: signed correction in 2^-32 ns per tick, 32 bits; reset 0 (table). -/
  rateAdj : Int := 0
  /-- [R10] XT bits [63:32]: completed FT wraps, 32 bits; reset 0 (R67). -/
  xtHi : BitVec 32 := 0
  /-- [R83] FT at the supervisor's previous sample, 32 bits; reset 0. DC -/
  lastSample : Ft := 0
  /-- [R67] time state; reset UNSET. -/
  state : TimeState := .unset
  /-- [R64] TIM_STATUS source_port, 8 bits; reset 0xFF (table). -/
  sourcePort : BitVec 8 := 0xFF
  /-- [R71] TIM_STATUS diverged; reset 0 (table). -/
  diverged : Bool := false
  /-- [R68] TIM_STATUS in_tolerance; reset 0 (table). -/
  inTolerance : Bool := false
  /-- [R64] TIM_STATUS leader; reset 0 (table). -/
  leader : Bool := false
  /-- [R61] TIM_STATUS rate_saturated; reset 0 (table). -/
  rateSaturated : Bool := false
  /-- [R68] TIM_STATUS stepped; reset 0 (table). -/
  stepped : Bool := false
  /-- [R82] TIM_OFFSET: last valid offset in 2^-8 ns, signed 32 bits; reset 0 (table). -/
  offset : Int := 0
  /-- [R70] the last valid offset in FT.16 units, from which the servo predicts; reset 0. DC -/
  lastOffset16 : Int := 0
  /-- [R68] offsets (FT.16 units) of the consecutive valid measurements taken while ACQUIRING, at most 8; reset none. DC -/
  acquired : List Int := []
  /-- [R70] consecutive measurements discarded as outliers, 0-3; reset 0. DC -/
  outliers : Nat := 0
  /-- [R67] local tick of the last valid measurement (source_timeout runs from it); reset none. DC -/
  lastValid : Option Nat := none
  /-- [R67] local tick from which source_timeout runs: the last valid measurement, or the gain of a source while LOCKED; reset
  none. DC -/
  waitFrom : Option Nat := none
  /-- [R77] the announced fabric-wide step: apply FT and signed amount in FT.16 units, 80 bits; reset none. DC -/
  announced : Option (Ft × Int) := none
  /-- [R80] XT.16 kept by the AON domain in Blanket; reset 0. DC -/
  aonXt16 : Nat := 0
  /-- [R80] phase of the 25 MHz reference against the tick in the AON count, 25 per tick modulo 64; reset 0. DC -/
  aonRef : Nat := 0
  deriving DecidableEq, Repr

/-- One hardware stamp with its value. -/
structure Stamped where
  /-- [R34] FT.8 of the event, 40 bits; reset 0. DC -/
  ft8 : Ft8 := 0
  /-- [R34] the stamped value; reset 0. DC -/
  val : Int := 0
  /-- [R34] XT.16 of the event, which tells stamps whole turns of FT apart; reset 0. DC -/
  xt : Nat := 0
  deriving DecidableEq, Repr

/-- One TDC channel (R34). -/
structure TdcChannel where
  /-- [R34] the last delivered stamp, FT.8, 40 bits; reset 0. DC -/
  stamp : Ft8 := 0
  deriving DecidableEq, Repr

/-- [R39] The calibration of the TDC delay lines. -/
structure TdcCal where
  /-- [R39] local tick of the last refresh; reset 0. DC -/
  tick : Nat := 0
  /-- [R39] the tap weights of every delay line, whose values no rule gives: a free value; reset 0. DC -/
  weights : Nat := 0
  deriving DecidableEq, Repr

/-- The PWM unit's part of one servo axis (R40-R46, R265, R266). -/
structure PwmAxis where
  /-- [R40] duty values loaded at the last update point; reset 0. DC -/
  loaded : Abc := {}
  /-- [R44] duty values committed in time for the next update point; reset none. DC -/
  committed : Option Abc := none
  /-- [R45] a commit arrived late for the next update point; reset 0. DC -/
  late : Bool := false
  /-- [R46] consecutive periods under R45; reset 0. DC -/
  lateRun : Nat := 0
  /-- [R40] XT.16 of the last update point; reset 0. DC -/
  updateXt : Nat := 0
  /-- [R42] carrier period in progress, FT.16 units (differs from n ticks under R87); reset 0. DC -/
  period : Nat := 0
  /-- [R40] number of carrier periods begun; reset 0. DC -/
  sample : Nat := 0
  /-- [R41] single-shunt triggers taken in this carrier period, 0-2; reset 0. DC -/
  shuntTriggers : Nat := 0
  /-- [R265] phase edges shifted in this period to open the two windows; reset 0. DC -/
  shifted : Bool := false
  /-- [R266] mod_limited; reset 0. -/
  modLimited : Bool := false
  /-- [R266, R268] k in 256ths, 256 without limiting; reset 256. DC -/
  modK : Nat := 256
  /-- [R265] rising and falling instants of the high-side pulses of phases a, b, c in this period, FT.16 units from the update
  point; reset none. DC -/
  pulses : List (Int × Int) := []
  /-- [R88, R277] gate edges of this period, for each phase high-side on, high-side off, low-side off, low-side on, in 6.4 GHz cycles
  of the local clock (100 to a tick); reset none. DC -/
  edges : List Int := []
  /-- [R57, R813] gate outputs switching (false: inactive level); reset inactive. DC -/
  gates : Bool := false
  /-- [R241] only the low-side gates are switched on, to charge the bootstrap supplies; reset 0. DC -/
  lowSide : Bool := false
  /-- [R41] FT.8 sample-echo stamps of the two shunt samples of this period; reset none. DC -/
  echo : List Ft8 := []
  /-- [R49] shunt codes delivered to engine memory in this period, 14 bits each; reset none. DC -/
  codes : List Int := []
  deriving DecidableEq, Repr

/-! ### 03_feedback.md -/

/-- [R159] feedback state of a servo axis. -/
inductive FbState where
  | off | valid | extrapolated | lost | substituted
  deriving DecidableEq, Repr

/-- [R114] classes of a bad serial word. -/
inductive WordClass where
  | crc | errorBit | timeout | frame | jump
  deriving DecidableEq, Repr

/-- [R133] the request on an LSP port. -/
inductive LspRequest where
  | pos | posAux | ident | clearErr
  deriving DecidableEq, Repr

/-- [R142] IDENT answer of an LSP sensor. -/
structure LspIdent where
  /-- [R142] sensor type code, 16 bits; reset 0. DC -/
  type : BitVec 16 := 0
  /-- [R143] single-turn bits, 8 bits; reset 0. DC -/
  stBits : Nat := 0
  /-- [R143] multi-turn bits, 8 bits; reset 0. DC -/
  mtBits : Nat := 0
  /-- [R144] latch delay in ns, 16 bits; reset 0. DC -/
  latchDelay : Nat := 0
  /-- [R143] smallest lsp_baud_div, 8 bits; reset 0. DC -/
  minDiv : Nat := 0
  deriving DecidableEq, Repr

/-- The quadrature decoder of one servo axis (R97-R109, R150-R155). -/
structure QuadDecoder where
  /-- [R103] count, 64 bits; reset 0. DC -/
  count : Int := 0
  /-- [R97] accepted levels A, B, index; reset low. DC -/
  levels : Bool × Bool × Bool := (false, false, false)
  /-- [R97] levels of A, B and index under test; reset low. DC -/
  cand : Bool × Bool × Bool := (false, false, false)
  /-- [R97] filter clocks for which each of the three has been sampled unchanged, at most 255; reset 0. DC -/
  held : Nat × Nat × Nat := (0, 0, 0)
  /-- [R105] index count of the accepted pulse in progress that INDEX_PULSE has not taken, with its stamp; reset none. DC -/
  pulse : Option (Int × Ft8) := none
  /-- [R448] stamp of the last index count; reset 0. DC -/
  indexStamp : Ft8 := 0
  /-- [R105] the accepted pulse in progress has given its index count; reset 0. DC -/
  pulseDone : Bool := false
  /-- [R101] stamps and directions of the last five counting edges, newest first; reset none. DC -/
  edges : List Stamped := []
  /-- [R100] FT.8 and local tick of the last quad_err_limit + 1 illegal transitions, newest first; reset none. DC -/
  illegal : List (Ft8 × Nat) := []
  /-- [R106] index reference count, 64 bits; reset 0. DC -/
  indexRef : Int := 0
  /-- [R106] index_seen; reset 0 (table). -/
  indexSeen : Bool := false
  /-- [R102, R109] counts latched at second shunt triggers, each with its position time (XT.16) and the index correction made since
  the latch before it, newest first, at most 17; reset none. DC -/
  latched : List (Int × Int × Int) := []
  /-- [R109] index correction made since the last latch; reset 0. DC -/
  correction : Int := 0
  /-- [R153] speed_method: true for count difference; reset period (table). -/
  cdMethod : Bool := false
  /-- [R154] blend weight in eighths toward count difference, 0-8; reset 0. DC -/
  blend : Nat := 0
  /-- [R152] zero_speed; reset 0 (table). -/
  zeroSpeed : Bool := false
  /-- [R152] local tick of the last accepted edge; reset 0. DC -/
  lastEdge : Nat := 0
  deriving DecidableEq, Repr

/-- The serial position port of one servo axis (R110-R144). -/
structure SerialPort where
  /-- [R133] outstanding read: request (none for an SSI burst is `pos`); reset none. DC -/
  outstanding : Option LspRequest := none
  /-- [R112] XT.16 of the first clock edge or request start edge; reset 0. DC -/
  startXt : Nat := 0
  /-- [R141] local tick at which the read started; reset 0. DC -/
  startTick : Nat := 0
  /-- [R126] local time of the last clock edge of the previous burst in 1/8 ns (125 to a tick); reset 0. DC -/
  lastClock : Nat := 0
  /-- [R113] previous raw value, up to 56 bits; reset none. DC -/
  raw : Option Nat := none
  /-- [R113] unwrapped value of that raw, 64 bits; reset 0. DC -/
  unwrapped : Int := 0
  /-- [R115, R149] positions of the reads, good or substituted, with their times, newest first, at most 17; reset none. DC -/
  history : List (Int × Int) := []
  /-- [R43] a word was taken for the current sample; reset 0. DC -/
  wordTaken : Bool := false
  /-- [R119] bad words per class since the last FEEDBACK_WORD_BAD record; reset none. DC -/
  badSince : List WordClass := []
  /-- [R119] local tick of the last FEEDBACK_WORD_BAD record since enable; reset none. DC -/
  lastBadLog : Option Nat := none
  /-- [R119] an AXIS_ENABLE has passed its checks since reset: bad words are logged; reset 0. DC -/
  badArmed : Bool := false
  /-- [R140] lsp_warning; reset 0 (table). -/
  lspWarning : Bool := false
  /-- [R144] auxiliary value of the last POS_AUX answer, 16 bits; reset 0. DC -/
  auxValue : Nat := 0
  /-- [R142] last good IDENT answer; reset none. DC -/
  ident : Option LspIdent := none
  /-- [R142] IDENT requests sent by the running AXIS_ENABLE, 0-3; reset 0. DC -/
  identTries : Nat := 0
  /-- [R130, R133] transmit line of the LSP requests sent, a list of bit levels each, oldest request first; reset none. DC -/
  sent : List (List Bool) := []
  /-- [R134] local tick at which the driver enable of the last request is released; reset 0. DC -/
  driveEnd : Nat := 0
  deriving DecidableEq, Repr

/-- Feedback of one servo axis (FBK_STATUS and what forms it). -/
structure Feedback where
  /-- [R159] fb_state; reset OFF (table). -/
  state : FbState := .off
  /-- [R160] loss_cause, 8 bits; reset 0 (table). -/
  lossCause : Nat := 0
  /-- [R165] position_uncertain; reset 0 (table). -/
  uncertain : Bool := false
  /-- [R161] feedback_substituted; reset 0 (table). -/
  substituted : Bool := false
  /-- [R103] measured position, Q32.32, before the axis offset; reset 0. DC -/
  pos : Q32 := 0
  /-- [R149] measured speed, Q32.32 turns/s; reset 0. DC -/
  vel : Q32 := 0
  /-- [R102] XT.16 of the position time; reset 0. DC -/
  posXt : Nat := 0
  /-- [R156] local tick since when feedback has not changed with the observer above freeze_speed; reset none. DC -/
  frozenSince : Option Nat := none
  /-- [R156] the count or raw value at the previous sample; reset 0. DC -/
  freezeVal : Int := 0
  /-- [R160] loss causes found in the current sample, codes of the table; reset none. DC -/
  sampleCauses : List Nat := []
  /-- [R160] position at the loss of this sample, whose FEEDBACK_LOST record is written when the sample ends; reset none. DC -/
  lossPos : Option Q32 := none
  /-- [R164] FEEDBACK_RESTORED was logged in this substitution; reset 0. DC -/
  restored : Bool := false
  deriving DecidableEq, Repr

/-- Hall inputs of one auxiliary drive (R146-R148). -/
structure Hall where
  /-- [R146] accepted state of H3 H2 H1, 3 bits; reset 0. DC -/
  state : Nat := 0
  /-- [R146] levels of H3 H2 H1 under test, 3 bits; reset 0. DC -/
  cand : Nat := 0
  /-- [R146] filter clocks for which H1, H2 and H3 have been held; reset 0. DC -/
  held : Nat × Nat × Nat := (0, 0, 0)
  /-- [R148] sector, position in hall_map, 0-5; reset none. DC -/
  sector : Option Nat := none
  /-- [R148] stamps and directions of the last sector edges, newest first, at most 2; reset none. DC -/
  edges : List Stamped := []
  /-- [R148] electrical angle at the last edge, 2^-32 turns; reset 0. DC -/
  angle : Int := 0
  /-- [R148] Hall speed, electrical turns/s in Q32.32; reset 0. DC -/
  speed : Q32 := 0
  /-- [R147] FT.8 and local tick of the last hall_err_limit + 1 Hall errors, newest first; reset none. DC -/
  errors : List (Ft8 × Nat) := []
  /-- [R147] hall_fault; reset 0 (table). -/
  fault : Bool := false
  deriving DecidableEq, Repr


/-! ### 04_loop_engines.md -/

/-- [R171] One accumulator. -/
structure Acc where
  /-- [R171] 144-bit two's complement value; reset 0. DC -/
  val : Int := 0
  /-- [R182] hidden wrap count, 4 bits, -8 to 7; reset 0. DC -/
  wrap : Int := 0
  deriving DecidableEq, Repr

/-- [R212] engine state, LE_STATUS [2:0]. -/
inductive LeState where
  | off | idle | run | halted | draining
  deriving DecidableEq, Repr

/-- [R188] registers of one hardware loop level. -/
structure LoopLevel where
  /-- [R171] LE_LCNT, 16 bits; reset 0. DC -/
  cnt : BitVec 16 := 0
  /-- [R171] LE_LBEG, 16 bits; reset 0. DC -/
  beg : BitVec 16 := 0
  /-- [R171] LE_LEND, 16 bits; reset 0. DC -/
  end_ : BitVec 16 := 0
  /-- [R171] LE_LIX, 16 bits; reset 0. DC -/
  lix : BitVec 16 := 0
  deriving DecidableEq, Repr

/-- [R198] The hook call an engine is running. -/
structure HookCtx where
  /-- [R198] servo axis index, 0-31; reset 0. DC -/
  axis : Nat := 0
  /-- [R198] hook point: 0 MEAS, 1 OUTER, 2 CURR, 3 POST; reset 0. DC -/
  point : Nat := 0
  /-- [R207] bank region base of the kernel; reset 0. DC -/
  bankBase : Nat := 0
  /-- [R207] bank region bytes of the kernel; reset 0. DC -/
  bankBytes : Nat := 0
  /-- [R204] first bundle of the kernel as placed; reset 0. DC -/
  first : BitVec 16 := 0
  /-- [R204] BLD_DONE handler bundle, if the kernel declares one; reset none. DC -/
  handler : Option (BitVec 16) := none
  deriving DecidableEq, Repr

/-- [R194] An outstanding BLD burst. -/
structure Burst where
  /-- [R194] local address; reset 0. DC -/
  dst : Nat := 0
  /-- [R194] bank address; reset 0. DC -/
  bank : Nat := 0
  /-- [R194] words, 1-8; reset 0. DC -/
  n : Nat := 0
  deriving DecidableEq, Repr

/-- A write staged in the bundle an engine is issuing (R175: operands are read before any result is written). -/
inductive Staged where
  | x (d : Nat) (v : BitVec 64)
  | acc (a : Nat) (v : Acc)
  | mem (addr : Nat) (v : List Byte)
  | midx (v : BitVec 16)
  | nidx (v : BitVec 16)
  | esrOr (m : BitVec 32)
  | esrClear (m : BitVec 32)
  | bld (b : Burst)
  | ctrl (r : CtrlReg) (v : BitVec 64)
  deriving DecidableEq, Repr

/-- Where an engine goes after the bundle it is issuing. -/
inductive Flow where
  | seq
  /-- a taken branch: the target after one delay slot (R177) -/
  | branch (target : BitVec 16)
  /-- LOOP with level, count and end (R188) -/
  | loop (level : Nat) (count : BitVec 16) (endB : BitVec 16)
  | ret
  | reti
  deriving DecidableEq, Repr

/-- An attached hook: where its kernel and its bank region lie (R207). -/
structure Attached where
  /-- [R207] kernel handle, 0 none; reset 0. DC -/
  handle : Nat := 0
  /-- [R207] bank region base; reset 0. DC -/
  bankBase : Nat := 0
  /-- [R172] first bundle address of the placed code; reset 0. DC -/
  first : Nat := 0
  deriving DecidableEq, Repr

/-- One loop engine LE0-LE15. -/
structure Engine where
  /-- [R167] local memory, 256 KiB of bytes, canonical cells; reset all zero. DC -/
  mem : List Host.Cell := []
  /-- [R171] X1-X31, 64 bits each (X0 reads zero); reset 0. DC -/
  x : SMap (BitVec 64) := []
  /-- [R171] ACC0-ACC3 with wrap counts; reset 0. DC -/
  acc : SMap Acc := []
  /-- [R212] LE_ESR, 32 bits; reset 0x0000_0008 (table). -/
  esr : BitVec 32 := 0x00000008
  /-- [R171] LE_EPC, 16 bits; reset 0. DC -/
  epc : BitVec 16 := 0
  /-- [R171] LE_LINK, 16 bits; reset 0. DC -/
  link : BitVec 16 := 0
  /-- [R171] loop level 0; reset 0. DC -/
  loop0 : LoopLevel := {}
  /-- [R171] loop level 1; reset 0. DC -/
  loop1 : LoopLevel := {}
  /-- [R186] LE_MIDX, 16 bits; reset 0. DC -/
  midx : BitVec 16 := 0
  /-- [R186] LE_NIDX, 16 bits; reset 0. DC -/
  nidx : BitVec 16 := 0
  /-- [R171] LE_CYC, 32 bits; reset 0. DC -/
  cyc : BitVec 32 := 0
  /-- [R172] bundle address of the bundle being issued, 16 bits; reset 0. DC -/
  pc : BitVec 16 := 0
  /-- [R177] target of a taken branch whose delay slot is the bundle being issued; reset none. DC -/
  delay : Option (BitVec 16) := none
  /-- [R175] writes staged by the bundle being issued, oldest first; reset none. DC -/
  staged : List Staged := []
  /-- [R177] where the bundle being issued leads; reset sequential. DC -/
  flow : Flow := .seq
  /-- [R195] the outstanding BLD; reset none. DC -/
  bld : Option Burst := none
  /-- [R192] SVC pending; reset 0. DC -/
  svcPending : Bool := false
  /-- [R192] BLD_DONE pending; reset 0. DC -/
  bldDone : Bool := false
  /-- [R198] the hook call in progress; reset none. DC -/
  hook : Option HookCtx := none
  /-- [R198] hook points still to be called in the axis computation in progress, in order, with their attachments as at its
  release; reset none. DC -/
  hooksLeft : List (Nat × Attached) := []
  /-- [R51] servo axis whose computation is in progress; reset none. DC -/
  running : Option Nat := none
  /-- [R51] released computations that wait for the engine: axis, deadline as XT.16 and the hooks to call; reset none. DC -/
  waiting : List (Nat × Nat × List (Nat × Attached)) := []
  /-- [R47] local tick at which the computation in progress started; reset 0. DC -/
  startTick : Nat := 0
  /-- [R198] the computation in progress is past its duty commit; reset 0. DC -/
  committed : Bool := false
  /-- [R212] LE_STATUS state; reset OFF (table). -/
  state : LeState := .off
  /-- [R211] LE_STATUS mem_fault; reset 0 (table). -/
  memFault : Bool := false
  deriving DecidableEq, Repr

/-- A stored kernel image (R204, R208). -/
structure Kernel where
  /-- [R204] the bundles, 128-bit words, first first; reset none. DC -/
  code : List (BitVec 128) := []
  /-- [R204] hook_mask, 4 bits; reset 0. DC -/
  mask : Nat := 0
  /-- [R204] entry bundle; reset 0. DC -/
  entry : Nat := 0
  /-- [R204] handler bundle; reset none. DC -/
  handler : Option Nat := none
  /-- [R204] declared_cycles, 32 bits; reset 0. DC -/
  cycles : Nat := 0
  /-- [R204] data_bytes; reset 0. DC -/
  dataBytes : Nat := 0
  /-- [R204] bank_bytes; reset 0. DC -/
  bankBytes : Nat := 0
  /-- [R204] param_bytes; reset 0. DC -/
  paramBytes : Nat := 0
  deriving DecidableEq, Repr

/-! ### 05_servo_loops.md -/

/-- [R239] state of a servo axis; the other classes use the same names. -/
inductive AxisState where
  | disabled | enabling | enabled | stopping | faulted
  deriving DecidableEq, Repr

/-- A set record decoded (R226); integers are the raw 64-bit words, signed. -/
structure SetRecord where
  /-- [R226] b0, Q16.48; reset 2^48 (default). -/
  b0 : Int := 281474976710656
  /-- [R226] b1, Q16.48; reset 0 (default). -/
  b1 : Int := 0
  /-- [R226] b2, Q16.48; reset 0 (default). -/
  b2 : Int := 0
  /-- [R226] b3, Q16.48; reset 0 (default). -/
  b3 : Int := 0
  /-- [R226] a1, Q16.48; reset 0 (default). -/
  a1 : Int := 0
  /-- [R226] a2, Q16.48; reset 0 (default). -/
  a2 : Int := 0
  /-- [R226] a3, Q16.48; reset 0 (default). -/
  a3 : Int := 0
  /-- [R226] out_min, Q16.48; reset -128 (default). -/
  outMin : Int := -36028797018963968
  /-- [R226] out_max, Q16.48; reset +128 (default). -/
  outMax : Int := 36028797018963968
  deriving DecidableEq, Repr

/-- One compensator section slot's running state (R223-R236). -/
structure Section where
  /-- [R223] x_{k-1}, Q16.48; reset 0 (R242). -/
  x1 : Int := 0
  /-- [R223] x_{k-2}, Q16.48; reset 0 (R242). -/
  x2 : Int := 0
  /-- [R223] x_{k-3}, Q16.48; reset 0 (R242). -/
  x3 : Int := 0
  /-- [R223] y_{k-1}, Q16.48; reset 0 (R242). -/
  y1 : Int := 0
  /-- [R223] y_{k-2}, Q16.48; reset 0 (R242). -/
  y2 : Int := 0
  /-- [R223] y_{k-3}, Q16.48; reset 0 (R242). -/
  y3 : Int := 0
  /-- [R225] sec_sat; reset 0 (table). -/
  sat : Bool := false
  /-- [R231] region in use, 0-7; reset 0 (table). -/
  region : Nat := 0
  /-- [R234] set used by the previous computation; reset none. DC -/
  used : Option SetRecord := none
  /-- [R237] output history y_{k-1}, y_{k-2}, y_{k-3} before the present sample; reset 0. DC -/
  before : Int × Int × Int := (0, 0, 0)
  deriving DecidableEq, Repr

/-- A stop in progress (R243-R247). -/
structure StopRun where
  /-- [R243] category, 0-2; reset 0. DC -/
  cat : Nat := 0
  /-- [R239] the stop was caused by a fault; reset 0. DC -/
  byFault : Bool := false
  /-- [R352] cause that TRJ_REPORT carries; reset 1 (STOP). DC -/
  cause : Nat := 1
  /-- [R244] setpoint velocity at the start, Q32.32; reset 0. DC -/
  v0 : Q32 := 0
  /-- [R244] setpoint acceleration at the start, Q32.32; reset 0. DC -/
  a0 : Q32 := 0
  /-- [R244] setpoint position at the start, Q32.32; reset 0. DC -/
  p0 : Q32 := 0
  /-- [R244] XT.16 at which the stop took effect; reset 0. DC -/
  fromXt : Nat := 0
  /-- [R246] local tick at which the stop took effect; reset 0. DC -/
  fromTick : Nat := 0
  /-- [R341] deceleration in use, turns/s² (exact); reset 0. DC -/
  decel : Rat := 0
  /-- [R842] the gates are to go inactive at the next update point (category 0); reset 0. DC -/
  atUpdate : Bool := false
  deriving DecidableEq, Repr

/-- A stop requested and not yet in effect (R247). -/
structure StopReq where
  /-- [R243] category, 0-2; reset 0. DC -/
  cat : Nat := 0
  /-- [R248] asked by a fault; reset 0. DC -/
  byFault : Bool := false
  /-- [R352] cause that TRJ_REPORT will carry; reset 1 (STOP). DC -/
  cause : Nat := 1
  deriving DecidableEq, Repr

/-- The loops of one servo axis (R214-R253). -/
structure ServoLoop where
  /-- [R239] axis_state; reset DISABLED (table). -/
  state : AxisState := .disabled
  /-- [R248] fault_cause, 8 bits; reset 0 (table). -/
  faultCause : Nat := 0
  /-- [R249] number of the sample in which fault_cause was recorded; reset 0. DC -/
  faultSample : Nat := 0
  /-- [R249] causes of the fault in progress that the AXIS_FAULT record will carry; reset none. DC -/
  causes : List Nat := []
  /-- [R243] the stop in progress, if any (stop_cat 0xF none); reset none (table). -/
  stop : Option StopRun := none
  /-- [R247] stop requested and not yet in effect; reset none. DC -/
  stopReq : Option StopReq := none
  /-- [R554] an AXIS_DISABLE is pending on the stop; reset 0. DC -/
  disablePending : Bool := false
  /-- [R241] step of ENABLING: 0 precharge, 1 offset calibration, 2 waiting for feedback or start; reset 0. DC -/
  enableStep : Nat := 0
  /-- [R241] local tick of the entry to the step of ENABLING, or to ENABLED; reset 0. DC -/
  enableTick : Nat := 0
  /-- [R241] local tick at which ENABLING began (enable_timeout); reset 0. DC -/
  enableFrom : Nat := 0
  /-- [R222] held output of the position section, Q8.24; reset 0. DC -/
  vr : Q8 := 0
  /-- [R845] wh, additive speed reference held from HOOK_OUTER, Q8.24; reset 0. DC -/
  wh : Q8 := 0
  /-- [R222] held iq_ref, Q8.24; reset 0. DC -/
  iqRef : Q8 := 0
  /-- [R845] torque reference in force, Q8.24; reset 0. DC -/
  tr : Q8 := 0
  /-- [R220] position error ep, Q32.32 turns; reset 0. DC -/
  ep : Q32 := 0
  /-- [R216] setpoint position, velocity, acceleration of the last sample, Q32.32; reset 0. DC -/
  ps : Q32 := 0
  /-- [R216] setpoint velocity; reset 0. DC -/
  vs : Q32 := 0
  /-- [R216] setpoint acceleration; reset 0. DC -/
  as_ : Q32 := 0
  /-- [R242] the axis holds this position setpoint until a segment arrives; reset none. DC -/
  holdAt : Option Q32 := none
  /-- [R243] an axis in torque mode holds its position closed-loop after a category 2 stop; reset 0. DC -/
  holding : Bool := false
  /-- [R229] load estimate, Q32.32 per unit; reset 0. DC -/
  load : Q32 := 0
  deriving DecidableEq, Repr

/-- Flags and run counts of one servo axis's loops. -/
structure ServoFlags where
  /-- [R245] standstill; reset 0 (table). -/
  standstill : Bool := false
  /-- [R245] local tick since when |speed| is below standstill_speed, with the FT.8 of that sample; reset none. DC -/
  slowSince : Option (Nat × Ft8) := none
  /-- [R237] output_saturated; reset 0 (table). -/
  outputSaturated : Bool := false
  /-- [R238] consecutive saturated samples; reset 0. DC -/
  satRun : Nat := 0
  /-- [R218] torque_limited; reset 0 (table). -/
  torqueLimited : Bool := false
  /-- [R218] speed_limited; reset 0 (table). -/
  speedLimited : Bool := false
  /-- [R201] hooks_bypassed; reset 0 (table). -/
  hooksBypassed : Bool := false
  /-- [R248] consecutive current samples with the DC link below dc_min; reset 0. DC -/
  dcLowRun : Nat := 0
  /-- [R55] SEGMENT_STARVED; reset 0. DC -/
  starved : Bool := false
  /-- [R55] local tick since when no segment covers the measured instant; reset none. DC -/
  starvedSince : Option Nat := none
  /-- [R47] the computation of the sample in progress was stopped; reset 0. DC -/
  stopped : Bool := false
  /-- [R842] category 0 stop that ended at the update point of this sample and awaits the sample's position; reset none. DC -/
  coastEnd : Bool := false
  /-- [R44] duties computed and not yet committed; reset none. DC -/
  outDuties : Option Abc := none
  /-- [R250] gate-driver fault input active; reset 0. DC -/
  gateFault : Bool := false
  /-- [R250] a gate-driver fault input was active since the last current sample; reset 0. DC -/
  gateDue : Bool := false
  /-- [R57] STO line of the axis asserted; reset asserted (R765). -/
  sto : Bool := true
  /-- [R837] engine that hosted the axis last since power-up; reset none. DC -/
  lastEngine : Option Nat := none
  /-- [R50] engine that hosts the axis; reset none. DC -/
  engine : Option Nat := none
  /-- [R168] axis slot 0-3 the axis occupies in that engine; reset 0. DC -/
  slot : Nat := 0
  /-- [R42] number of the sample last released; reset 0. DC -/
  released : Nat := 0
  /-- [R48] configuration and hooks as before a change whose boundary lies after the update point of the period in progress,
  which its sample still uses; reset none. DC -/
  old : Option (SMap Nat × SMap Attached) := none
  /-- [R202] sequence word of each complete buffer of the hook parameter pages plus one, by hook point * 2 + buffer, 0 not
  complete; reset none complete. DC -/
  pageSeq : SMap Nat := []
  /-- [R461] the last samples, newest first: position time (XT.16), position, and whether the axis was enabled with VALID or
  EXTRAPOLATED feedback; at most 256; reset none. DC -/
  capPos : List (Nat × Q32 × Bool) := []
  /-- [R198] attached hooks by hook point; reset none. DC -/
  hooks : SMap Attached := []
  deriving DecidableEq, Repr


/-! ### 06_field_control.md -/

/-- [R280] The back-EMF observer and its phase-locked loop. Electrical quantities are Q8.24 per unit (R4); the spec gives speed,
angle and error no format: they are exact rationals, log entry 7. -/
structure Observer where
  /-- [R280] measured current i_{k-1}, alpha, Q8.24 per unit; reset 0. DC -/
  iAl : Q8 := 0
  /-- [R280] measured current i_{k-1}, beta, Q8.24 per unit; reset 0. DC -/
  iBe : Q8 := 0
  /-- [R280] extended back-EMF estimate, alpha, Q8.24 per unit; reset 0. DC -/
  eAl : Q8 := 0
  /-- [R280] extended back-EMF estimate, beta, Q8.24 per unit; reset 0. DC -/
  eBe : Q8 := 0
  /-- [R281] estimated electrical speed, rad/s; reset 0. DC -/
  omega : Rat := 0
  /-- [R281] estimated angle, electrical turns, unwrapped; reset 0. DC -/
  theta : Rat := 0
  /-- [R282] alignment term of the observer position, turns; reset 0. DC -/
  align : Rat := 0
  /-- [R283] residual rho of the last sample, Q8.24 per unit; reset 0. DC -/
  rho : Q8 := 0
  /-- [R297] peak residual since the loss, Q8.24 per unit; reset 0. DC -/
  peak : Q8 := 0
  /-- [R283] PLL error of the last sample; reset 0. DC -/
  eps : Rat := 0
  /-- [R283] consecutive samples inside the lock limits, 0-16; reset 0. DC -/
  lockRun : Nat := 0
  /-- [R283] obs_locked; reset 0 (table). -/
  locked : Bool := false
  /-- [R294] consecutive samples with rho above obs_residual_max; reset 0. DC -/
  badRun : Nat := 0
  deriving DecidableEq, Repr

/-- [R299] value of catch_result. -/
inductive CatchResult where
  | none_ | caught | braked | fromStandstill
  deriving DecidableEq, Repr

/-- [R288] angle_source of FOC_STATUS. -/
inductive AngleSource where
  | feedback | observer | injection | blend | hold | listening
  deriving DecidableEq, Repr

/-- Field control of one servo axis or, with the aux_ parameters, of one auxiliary drive. -/
structure Foc where
  /-- [R255] electrical angle at t2, 32-bit fraction of a turn; reset 0. DC -/
  theta : Nat := 0
  /-- [R256] t2 of the last sample, XT.16; reset 0. DC -/
  t2 : Nat := 0
  /-- [R257] electrical angle at which the last duties were formed, turns (exact); reset 0. DC -/
  thetaApp : Rat := 0
  /-- [R289] d and q currents of the previous sample, Q8.24; reset 0. DC -/
  iPrev : Q8 × Q8 := (0, 0)
  /-- [R274] shunt_offset in codes (exact mean of 256 conversions); reset 0. DC -/
  shuntOffset : Rat := 0
  /-- [R273] phase currents at t2 of the last sample, per unit Q8.24; reset 0. DC -/
  i : Abc := {}
  /-- [R290] d and q currents of the last sample, Q8.24; reset 0. DC -/
  id : Q8 := 0
  /-- [R290] q current; reset 0. DC -/
  iq : Q8 := 0
  /-- [R279] reconstructed alpha voltage of the period just ended, Q8.24 per unit; reset 0. DC -/
  vAl : Q8 := 0
  /-- [R279] reconstructed beta voltage; reset 0. DC -/
  vBe : Q8 := 0
  /-- [R295] d and q voltages last applied, Q8.24; reset 0. DC -/
  vd : Q8 := 0
  /-- [R295] q voltage last applied; reset 0. DC -/
  vq : Q8 := 0
  /-- [R262] field-weakening term f_k, Q8.24 per unit; reset 0. DC -/
  fw : Q8 := 0
  /-- [R288] sign of the next injected sample: true is +1; reset +1. -/
  sigma : Bool := true
  /-- [R292] consecutive samples with a weak injected response; reset 0. DC -/
  weakRun : Nat := 0
  /-- [R291] local tick since when |eps_h| stays below 0.05; reset none. DC -/
  smallSince : Option Nat := none
  /-- [R289] injection error eps_h of the last sample; reset 0. DC -/
  epsH : Rat := 0
  /-- [R291] polarity tests that gave no result in this start, 0-1; reset 0. DC -/
  polTests : Nat := 0
  /-- [R291] samples of the polarity test in progress whose voltage has been applied; reset none. DC -/
  polRun : Option Nat := none
  /-- [R291] peaks of the d-current responses to the positive and the negative voltage, Q8.24; reset 0. DC -/
  polPeaks : Q8 × Q8 := (0, 0)
  /-- [R295] local tick at which hold began; reset none. DC -/
  holdFrom : Option Nat := none
  /-- [R298] local tick at which listening began; reset none. DC -/
  listenFrom : Option Nat := none
  /-- [R300] braking in progress; reset 0. DC -/
  braking : Bool := false
  /-- [R286] blend weight w; reset 1 (blend_weight 0xFF, table). -/
  w : Rat := 1
  /-- [R288] angle_source; reset feedback (table). -/
  angle : AngleSource := .feedback
  /-- [R299] catch_result; reset none (table). -/
  catch_ : CatchResult := .none_
  /-- [R270] shunt_clip; reset 0 (table). -/
  clip : Bool := false
  /-- [R275] offset_warn; reset 0 (table). -/
  offsetWarn : Bool := false
  /-- [R261] vector_limited; reset 0 (table). -/
  vectorLimited : Bool := false
  /-- [R280] the observer; reset all zero. DC -/
  obs : Observer := {}
  deriving DecidableEq, Repr

/-- One buffer of a servo axis's state record (R56): what the axis's status words are formed from, as the computation that
completed left it. -/
structure AxisRecord where
  /-- [R56] number of the sample; reset 0. DC -/
  sample : Nat := 0
  /-- [R56] XT.16 at which its computation completed; reset 0. DC -/
  done : Nat := 0
  /-- [R159] feedback; reset as its fields. DC -/
  fb : Feedback := {}
  /-- [R97] quadrature decoder; reset as its fields. DC -/
  quad : QuadDecoder := {}
  /-- [R110] serial port; reset as its fields. DC -/
  serial : SerialPort := {}
  /-- [R214] loops; reset as their fields. DC -/
  loop : ServoLoop := {}
  /-- [R237] flags; reset as their fields. DC -/
  flags : ServoFlags := {}
  /-- [R255] field control; reset as its fields. DC -/
  foc : Foc := {}
  /-- [R223] the sections in slot order; reset none. DC -/
  sections : List Section := []
  deriving DecidableEq, Repr

/-- [R311] state of an auxiliary drive, AUX_STATUS [15:12]. -/
inductive AuxState where
  | off | standby | listen | brake | align | openLoop | run | hold | stopping | retryWait | faulted
  deriving DecidableEq, Repr

/-- One auxiliary drive AX0-AX15 (R303-R313). -/
structure AuxDrive where
  /-- [R311] state; reset OFF (table). -/
  state : AuxState := .off
  /-- [R312] fault_cause, 8 bits; reset 0 (table). -/
  faultCause : Nat := 0
  /-- [R311] retries, 8 bits; reset 0 (table). -/
  retries : Nat := 0
  /-- [R308] speed_capped; reset 0 (table). -/
  capped : Bool := false
  /-- [R309] hall_in_use; reset 0 (table). -/
  hallInUse : Bool := false
  /-- [R303] current samples since the last speed-loop sample, 0-3; reset 0. DC -/
  sub : Nat := 0
  /-- [R307] speed reference, turns/s (exact); reset 0. DC -/
  ref : Rat := 0
  /-- [R308] speed integrator, Q8.24 per unit current; reset 0. DC -/
  integ : Q8 := 0
  /-- [R303] q current reference of the speed loop, Q8.24; reset 0. DC -/
  iqRef : Q8 := 0
  /-- [R303] d and q current integrators, Q8.24 per unit voltage; reset 0. DC -/
  intD : Q8 := 0
  /-- [R303] q current integrator; reset 0. DC -/
  intQ : Q8 := 0
  /-- [R310] open-loop angle, electrical turns; reset 0. DC -/
  olAngle : Rat := 0
  /-- [R310] open-loop speed, turns/s; reset 0. DC -/
  olSpeed : Rat := 0
  /-- [R310] local tick of the entry to the present state; reset 0. DC -/
  since : Nat := 0
  /-- [R310] local tick at which the open-loop speed reached the handover speed, or a Hall start entered RUN or BRAKE; reset none. DC -/
  handoverFrom : Option Nat := none
  /-- [R312] consecutive current samples with V_dc below aux_dc_min; reset 0. DC -/
  dcLowRun : Nat := 0
  /-- [R250] gate-driver fault input active; reset 0. DC -/
  gateFault : Bool := false
  /-- [R250] a gate-driver fault input was active since the last current sample; reset 0. DC -/
  gateDue : Bool := false
  /-- [R57] STO line asserted; reset asserted (R765). -/
  sto : Bool := true
  /-- [R148] the Hall inputs; reset as their fields. DC -/
  hall : Hall := {}
  /-- [R304] measurement, modulation and observer; reset as their fields. DC -/
  foc : Foc := {}
  /-- [R304] PWM of the drive; reset as its fields. DC -/
  pwm : PwmAxis := {}
  deriving DecidableEq, Repr


/-! ### 07_trajectories.md -/

/-- [R369] trail_state. -/
inductive TrailState where
  | closed | idle | running | stopping | homing
  deriving DecidableEq, Repr

/-- [R361] home_phase. -/
inductive HomePhase where
  | none_ | fast | fastReversed | backoff | approach | index | moveTo
  deriving DecidableEq, Repr

/-- [R363] home_result. -/
inductive HomeResult where
  | none_ | homed | notFound | chatter | aborted | fault
  deriving DecidableEq, Repr

/-- A move on a trail (R317). -/
structure Move where
  /-- [R319] move number, 32 bits; reset 0. DC -/
  num : BitVec 32 := 0
  /-- [R320] the accepted record; reset empty. DC -/
  rec_ : MoveRec := {}
  /-- [R320] its segments are planned into the trail; reset 0. DC -/
  planned : Bool := false
  /-- [R836] end position when known, Q32.32; reset none. DC -/
  endPos : Option Q32 := none
  deriving DecidableEq, Repr

/-- [R352] TRJ_REPORT. -/
structure TrjReport where
  /-- [R352] cause, 8 bits; reset 0. DC -/
  cause : Nat := 0
  /-- [R352] category, 8 bits, 0xFF for a ramp; reset 0. DC -/
  category : Nat := 0
  /-- [R352] last_waymark, 32 bits; reset 0. DC -/
  lastWaymark : BitVec 32 := 0
  /-- [R352] move, 32 bits; reset 0. DC -/
  move : BitVec 32 := 0
  /-- [R352] discarded, 32 bits; reset 0. DC -/
  discarded : Nat := 0
  /-- [R352] ft_stop, FT.8; reset 0. DC -/
  ftStop : Ft8 := 0
  /-- [R352] pos_final, Q32.32; reset 0. DC -/
  posFinal : Q32 := 0
  /-- [R352] pos_valid; reset 0. DC -/
  posValid : Bool := false
  deriving DecidableEq, Repr

/-- A command change that waits for its change instant B (R337, R348, R405). -/
inductive TrailChange where
  /-- TRAIL_LIMITS: scope, mask, a_max, d_max, jerk -/
  | limits (scope mask : Nat) (a d j : F32)
  /-- TRAIL_CANCEL: mode and the waymark at which the axis comes to rest, 0 for none -/
  | cancel (mode : Nat) (wm : BitVec 32)
  /-- CONVOY_LEAVE: mode -/
  | leave (mode : Nat)
  deriving DecidableEq, Repr

/-- One trail (per servo axis, stepper channel, virtual axis or path group, keyed by endpoint). -/
structure Trail where
  /-- [R369] trail_state; reset CLOSED (table). -/
  state : TrailState := .closed
  /-- [R317] moves not complete, move in progress first; reset none (trail_count 0, table). -/
  moves : List Move := []
  /-- [R319] last move number used, 32 bits; reset 0. DC -/
  lastNum : BitVec 32 := 0
  /-- [R330] last_waymark, 32 bits; reset 0 (table). -/
  lastWaymark : BitVec 32 := 0
  /-- [R332] the segment queue, at most 8 entries; reset empty. DC -/
  queue : List Seg := []
  /-- [R345] of a path group: waymark vector last passed, Q32.32 per member; reset none. DC -/
  lastVec : List Q32 := []
  /-- [R344] the last segments came from another module's path group; reset 0. DC -/
  spanned : Bool := false
  /-- [R333] highest generation the engine has used; reset none. DC -/
  usedGen : Option (BitVec 16) := none
  /-- [R55] the last segment evaluated; reset none. DC -/
  lastSeg : Option Seg := none
  /-- [R352] TRJ_REPORT; reset zero. DC -/
  report : TrjReport := {}
  /-- [R352] a report waits for pos_final; reset none. DC -/
  reportDue : Option TrjReport := none
  /-- [R355] homed; reset 0 (table). -/
  homed : Bool := false
  /-- [R359] soft_limited; reset 0 (table). -/
  softLimited : Bool := false
  /-- [R358] limit_pos_active; reset 0 (table). -/
  limPos : Bool := false
  /-- [R358] limit_neg_active; reset 0 (table). -/
  limNeg : Bool := false
  /-- [R361] level of the home input after debounce; reset 0. DC -/
  homeIn : Bool := false
  /-- [R363] home_result; reset 0 (table). -/
  homeResult : HomeResult := .none_
  /-- [R361] home_phase; reset 0 (table). -/
  phase : HomePhase := .none_
  /-- [R365] position at which the phase in progress began, Q32.32; reset 0. DC -/
  phaseFrom : Q32 := 0
  /-- [R363] position and stamp of the home event, with its index count; reset none. DC -/
  homeEvent : Option (Q32 × Ft8 × Int) := none
  /-- [R362] the position of the home event waits for the next feedback sample; reset 0. DC -/
  homePend : Bool := false
  /-- [R361] position at which the home input became inactive in BACKOFF, Q32.32; reset none. DC -/
  backFrom : Option Q32 := none
  /-- [R366] stamps of the last four debounced edges of each limit input since HOME, as XT.16, newest first; reset none. DC -/
  edgesPos : List Nat := []
  /-- [R366] the negative limit input's; reset none. DC -/
  edgesNeg : List Nat := []
  /-- [R347] of a path group: a STOP of category 1 disables its members once they are at rest; reset 0. DC -/
  thenOff : Bool := false
  /-- [R355] offset of the axis position over the count or word position, Q32.32; reset 0. DC -/
  posOffset : Q32 := 0
  /-- [R337] a change that waits for B: B as XT.16 and the change; reset none. DC -/
  change : Option (Nat × TrailChange) := none
  /-- [R363] the commands waiting on the trail (HOME, TRAIL_APPEND, STOP), by command key; reset none. DC -/
  homeCmd : Option Nat := none
  /-- [R320] TRAIL_APPEND commands whose moves are not yet planned, with their first move numbers; reset none. DC -/
  appendCmds : List (Nat × BitVec 32) := []
  deriving DecidableEq, Repr


/-! ### 08_line_shaft.md -/

/-- [R401] member_state. -/
inductive MemberState where
  | none_ | waiting | syncing | coupled | decoupled
  deriving DecidableEq, Repr

/-- The join under way (R401-R403, R843). -/
structure Join where
  /-- [R402] anchor mode: true absolute with m_a and f_a; reset relative. DC -/
  absolute : Bool := false
  /-- [R402] m_a carried by the command, Q32.32; reset 0. DC -/
  ma : Q32 := 0
  /-- [R402] f_a carried by the command, Q32.32; reset 0. DC -/
  fa : Q32 := 0
  /-- [R403] join_distance, master turns Q32.32; reset 0. DC -/
  dist : Q32 := 0
  /-- [R402] join FT; none for the first sample boundary after the first usable publication. DC -/
  at_ : Option Ft := none
  /-- [R403] m(t_j), Q32.32; reset 0. DC -/
  mj : Q32 := 0
  /-- [R403] follower setpoint position at t_j, Q32.32; reset 0. DC -/
  pj : Q32 := 0
  /-- [R403] follower setpoint velocity at t_j, Q32.32; reset 0. DC -/
  vj : Q32 := 0
  /-- [R403] t_j as XT.16; reset 0. DC -/
  tj : Nat := 0
  /-- [R403] sigma: true for +1; reset +1. DC -/
  pos : Bool := true
  /-- [R839] command waiting on the join; reset none. DC -/
  cmd : Option Nat := none
  /-- [R839] gear_num and gear_den as stored, last_seq and decouple_cause before the join, which a failed join leaves; reset 0. DC -/
  was : Nat × Nat × BitVec 16 × Nat := (0, 0, 0, 0)
  deriving DecidableEq, Repr

/-- Register correction of one follower (R407-R410). -/
structure RegCorr where
  /-- [R408] demand D, Q32.32 follower turns; reset 0. DC -/
  demand : Q32 := 0
  /-- [R409] o_reg at the last sample, Q32.32; reset 0. DC -/
  o : Q32 := 0
  /-- [R409] velocity of o_reg, Q32.32; reset 0. DC -/
  v : Q32 := 0
  /-- [R408] reg_limited; reset 0 (table). -/
  limited : Bool := false
  deriving DecidableEq, Repr

/-- A follower of a convoy, keyed by endpoint (R372-R412). -/
structure Follower where
  /-- [R401] member_state; reset NONE (table). -/
  state : MemberState := .none_
  /-- [R373] convoy number; reset none (0xFF, table). -/
  convoy : Option Nat := none
  /-- [R384] held publications, latest t_ref first, at most 8; reset none (table). -/
  held : List Pub := []
  /-- [R384] last_seq, 16 bits; reset 0 (table). -/
  lastSeq : BitVec 16 := 0
  /-- [R384] a publication has been accepted since the join; reset 0. DC -/
  any : Bool := false
  /-- [R384] master_gen the follower joined on; reset none. DC -/
  gen : Option (BitVec 32) := none
  /-- [R404] decouple_cause, 8 bits; reset 0 (table). -/
  cause : Nat := 0
  /-- [R460] marks delivered by the capture channel and not yet evaluated, FT.8; reset none. DC -/
  marks : List Ft8 := []
  /-- [R404] decoupling causes of the sample in progress; reset none. DC -/
  causes : List Nat := []
  /-- [R387] master_late; reset 0 (table). -/
  late : Bool := false
  /-- [R390] mapping in use (num, den, anchors, piece); reset none (map 0xF, table). -/
  map : Option FolPart := none
  /-- [R397] cam table index 0-255; reset 0. DC -/
  cam : Nat := 0
  /-- [R397] cam_origin, Q32.32; reset 0. DC -/
  camOrigin : Q32 := 0
  /-- [R397] f_base, Q32.32; reset 0. DC -/
  fBase : Q32 := 0
  /-- [R400] cycle number n at the last sample; reset 0. DC -/
  cycle : Int := 0
  /-- [R400] cam table that applies at the next cycle change; reset none. DC -/
  camNext : Option Nat := none
  /-- [R401] the join under way; reset none. DC -/
  join : Option Join := none
  /-- [R390] phase offset of the last sample: position, velocity, acceleration, Q32.32; reset 0. DC -/
  oph : Q32 × Q32 × Q32 := (0, 0, 0)
  /-- [R390] PHASE_MOVE in progress: o_ph at its end, its limits (raws) and its change instant XT.16; reset none. DC -/
  phaseMove : Option (Q32 × F32 × F32 × F32 × Nat) := none
  /-- [R407] register correction; reset as its fields. DC -/
  reg : RegCorr := {}
  /-- [R404] setpoint of the last sample: position, velocity, acceleration, Q32.32; reset 0. DC -/
  sp : Q32 × Q32 × Q32 := (0, 0, 0)
  /-- [R409] XT.16 of the last evaluation; reset 0. DC -/
  lastXt : Nat := 0
  deriving DecidableEq, Repr

/-- A convoy publisher CP0-CP15 (R376-R383, R411). -/
structure Publisher where
  /-- [R377] convoy number registered with the leader; reset none. DC -/
  registered : Option Nat := none
  /-- [R377] registration in progress: number, local tick of the REGISTER and key of the commit that asks (a command's; 2^40 and more: a participant's); reset none. DC -/
  registering : Option (Nat × Nat × Nat) := none
  /-- [R382] seq of the last publication, 16 bits; reset 0. DC -/
  seq : BitVec 16 := 0
  /-- [R382] master_gen, 32 bits; reset 0. DC -/
  gen : BitVec 32 := 0
  /-- [R378] t_ref (XT.16) of the last grid publication; reset none. DC -/
  lastGrid : Option Nat := none
  /-- [R379] boundary publications sent in the present period, 0-3; reset 0. DC -/
  boundaries : Nat := 0
  /-- [R383] the end publication has been sent; reset 1 (no master enabled). DC -/
  ended : Bool := true
  /-- [R411] effective trims, exact, trim 0 first; reset eight zeros. DC -/
  trims : List Rat := [0, 0, 0, 0, 0, 0, 0, 0]
  /-- [R411] local tick of the last slew of the trims; reset 0. DC -/
  trimTick : Nat := 0
  /-- [R380] the last publication sent; reset none. DC -/
  last : Option Pub := none
  deriving DecidableEq, Repr

/-- A virtual axis VA0-VA255 (R374, R375). -/
structure VirtualAxis where
  /-- [R375] state; reset DISABLED. DC -/
  state : AxisState := .disabled
  /-- [R375] setpoint position, velocity and acceleration, Q32.32; reset 0. DC -/
  sp : Q32 × Q32 × Q32 := (0, 0, 0)
  /-- [R375] the stop in progress; reset none. DC -/
  stop : Option StopRun := none
  /-- [R554] an AXIS_DISABLE is pending on the stop; reset 0. DC -/
  disablePending : Bool := false
  /-- [R374] XT.16 of the last sample; reset 0. DC -/
  sampleXt : Nat := 0
  /-- [R55] local tick since when no segment covers; reset none. DC -/
  starvedSince : Option Nat := none
  deriving DecidableEq, Repr

/-- A remote axis NA0-NA127 (R413, R414). -/
structure RemoteAxis where
  /-- [R414] state; reset DISABLED. DC -/
  state : AxisState := .disabled
  /-- [R413] seq of the last setpoint frame, 16 bits; reset 0. DC -/
  seq : BitVec 16 := 0
  /-- [R413] seqs of the setpoint frames sent, newest first, at most 256; reset none. DC -/
  sentSeqs : List (BitVec 16) := []
  /-- [R414] stop bit set in every later frame; reset 0. DC -/
  stopBit : Bool := false
  /-- [R414] the last valid feedback frame; reset none. DC -/
  feedback : Option RemFeedback := none
  /-- [R414] local tick of the last valid feedback frame or of the enable; reset 0. DC -/
  fbTick : Nat := 0
  /-- [R414] local tick of the AXIS_ENABLE that waits for enabled; reset none. DC -/
  enableTick : Option Nat := none
  /-- [R413] XT.16 of the last setpoint instant; reset 0. DC -/
  lastXt : Nat := 0
  /-- [R413] setpoint frame that waits for its scheduled queue; reset none. DC -/
  frame : Option EthMsg := none
  deriving DecidableEq, Repr

/-- A cam table (R395). -/
structure CamTable where
  /-- [R395] interpolation 0-2; reset 0. DC -/
  interp : Nat := 0
  /-- [R395] points (m, f) in Q32.32, first first; reset none. DC -/
  points : List (Q32 × Q32) := []
  /-- [R395] c1, c2, c3 of every piece in Q16.48 (explicit or computed); reset none. DC -/
  coefs : List (Int × Int × Int) := []
  /-- [R395] points announced by a CAM_LOAD in pieces; reset 0. DC -/
  total : Nat := 0
  deriving DecidableEq, Repr


/-! ### 09_steppers.md -/

/-- [R417] bridge state of one coil. -/
inductive Bridge where
  | drivePos | driveNeg | slow | inactive
  deriving DecidableEq, Repr

/-- One coil of a stepper channel (R428-R431). -/
structure Coil where
  /-- [R417, R813] bridge state; reset inactive. DC -/
  bridge : Bridge := .inactive
  /-- [R426] coil setpoint, A (exact, truncated to 2^-24); reset 0. DC -/
  set_ : Rat := 0
  /-- [R419] threshold DAC code, 10 bits; reset 0. DC -/
  dac : Nat := 0
  /-- [R428] off phase; reset on phase. DC -/
  off : Bool := false
  /-- [R428] local tick at which the phase began; reset 0. DC -/
  since : Nat := 0
  /-- [R428] local tick of the last bridge change; reset 0. DC -/
  changed : Nat := 0
  /-- [R430] adaptive offset, A; reset 0. -/
  offset : Rat := 0
  /-- [R430] |I*| - |i| of the conversions since the last adaptation, at most 3; reset none. DC -/
  acc : List Rat := []
  /-- [R430] offset_limited; reset 0 (table). -/
  limited : Bool := false
  /-- [R431] PI integral, V; reset 0. DC -/
  integ : Rat := 0
  /-- [R431] PI correction c, V; reset 0. DC -/
  corr : Rat := 0
  /-- [R431] duty; reset 0. DC -/
  duty : Rat := 0
  /-- [R431] the duty clamp acts; reset 0. DC -/
  clamped : Bool := false
  /-- [R429] a fast decay is due in the next off phases; reset 0. DC -/
  fast : Bool := false
  deriving DecidableEq, Repr

/-- A stepper channel ST0-ST31 (R417-R443). -/
structure Stepper where
  /-- [R441] state (STOPPING does not occur); reset DISABLED (table). -/
  state : AxisState := .disabled
  /-- [R441] fault_cause, 8 bits; reset 0 (table). -/
  faultCause : Nat := 0
  /-- [R435] position_uncertain; reset 1 (table). -/
  uncertain : Bool := true
  /-- [R423] rate_limited; reset 0 (table). -/
  rateLimited : Bool := false
  /-- [R427] hold_current; reset 0 (table). -/
  holdCurrent : Bool := false
  /-- [R431] duty_limited; reset 0 (table). -/
  dutyLimited : Bool := false
  /-- [R422] microstep count last issued, 64 bits; reset 0. DC -/
  count : Int := 0
  /-- [R422] local tick of the last microstep; reset 0. DC -/
  stepTick : Nat := 0
  /-- [R461] the last microsteps, newest first: XT.16 of the tick, the count after it and the count before it, at most 4,096; reset
  none. DC -/
  steps : List (Nat × Int × Int) := []
  /-- [R423] microsteps are held back; reset 0. DC -/
  behind : Bool := false
  /-- [R420] setpoint at t_k: position and velocity, Q32.32; reset 0. DC -/
  pk : Q32 × Q32 := (0, 0)
  /-- [R420] setpoint at t_{k+1}: position and velocity, Q32.32; reset 0. DC -/
  pk1 : Q32 × Q32 := (0, 0)
  /-- [R420] t_k as XT.16; reset 0. DC -/
  tk : Nat := 0
  /-- [R434] microsteps stopped (no commanded motion); reset stopped. DC -/
  halted : Bool := true
  /-- [R427] current in force at the last change, A; reset 0. DC -/
  iForce : Rat := 0
  /-- [R427] the ramp in progress: from, to (A) and local start tick; reset none. DC -/
  ramp : Option (Rat × Rat × Nat) := none
  /-- [R427] local tick since when the commanded velocity is 0; reset none. DC -/
  stillSince : Option Nat := none
  /-- [R430] coil A; reset as its fields. DC -/
  coilA : Coil := {}
  /-- [R430] coil B; reset as its fields. DC -/
  coilB : Coil := {}
  /-- [R441] consecutive conversions with V_dc below stp_dc_min; reset 0. DC -/
  dcLowRun : Nat := 0
  /-- [R57] STO line asserted; reset asserted (R765). -/
  sto : Bool := true
  /-- [R435] the channel has been enabled since power-up or Hamper; reset 0. DC -/
  everEnabled : Bool := false
  /-- [R55] local tick since when no segment covers; reset none. DC -/
  starvedSince : Option Nat := none
  deriving DecidableEq, Repr

/-! ### 10_capture.md -/

/-- [R482] state of a capture channel. -/
inductive CapState where
  | disarmed | armed | post | rearm | waitSpace
  deriving DecidableEq, Repr

/-- A latch record (R459). -/
structure LatchRec where
  /-- [R459] t_ref, FT.8; reset 0. DC -/
  tRef : Ft8 := 0
  /-- [R459] trig_mask, 4 bits; reset 0. DC -/
  mask : Nat := 0
  /-- [R459] pos_valid, 4 bits; reset 0. DC -/
  posValid : Nat := 0
  /-- [R459] seq, 32 bits; reset 0. DC -/
  seq : BitVec 32 := 0
  /-- [R459] pos0-pos3, Q32.32; reset none. DC -/
  pos : List Q32 := []
  deriving DecidableEq, Repr

/-- The reductions of one signal (R471). -/
structure Reduction where
  /-- [R471] min, 64 bits; reset 0. DC -/
  min : Int := 0
  /-- [R471] max, 64 bits; reset 0. DC -/
  max : Int := 0
  /-- [R471] sum, 128 bits; reset 0. DC -/
  sum : Int := 0
  /-- [R471] sum_sq, 128 bits; reset 0. DC -/
  sumSq : Nat := 0
  /-- [R471] min_index, 32 bits; reset 0. DC -/
  minIx : Nat := 0
  /-- [R471] max_index, 32 bits; reset 0. DC -/
  maxIx : Nat := 0
  /-- [R471] count, 32 bits; reset 0. DC -/
  count : Nat := 0
  deriving DecidableEq, Repr

/-- A basket: header fields, sample records and reductions (R472). -/
structure Basket where
  /-- [R472] generation of the slot, 16 bits; reset 0. DC -/
  gen : Nat := 0
  /-- [R472] slot, 16 bits; reset 0. DC -/
  slot : Nat := 0
  /-- [R472] capture channel 0-255; reset 0. DC -/
  channel : Nat := 0
  /-- [R469] flags bit 0 early; reset 0. DC -/
  early : Bool := false
  /-- [R477] flags bit 2 spilled; reset 0. DC -/
  spilled : Bool := false
  /-- [R476] flags bit 3 overwrote; reset 0. DC -/
  overwrote : Bool := false
  /-- [R472] trig_mask; reset 0. DC -/
  mask : Nat := 0
  /-- [R453] t_ref, FT.8; reset 0. DC -/
  tRef : Ft8 := 0
  /-- [R472] t_trig0-3, FT.8; reset none. DC -/
  tTrig : List Ft8 := []
  /-- [R472] t_first, FT.8; reset 0. DC -/
  tFirst : Ft8 := 0
  /-- [R472] sample_period, ns with 16 fraction bits; reset 0. DC -/
  period : Nat := 0
  /-- [R472] pre_cfg; reset 0. DC -/
  preCfg : Nat := 0
  /-- [R468] pre_valid; reset 0. DC -/
  preValid : Nat := 0
  /-- [R472] post_stored; reset 0. DC -/
  post : Nat := 0
  /-- [R456] missed_before; reset 0. DC -/
  missed : Nat := 0
  /-- [R470] close_cause; reset 0. DC -/
  cause : Nat := 0
  /-- [R461] pos_valid; reset 0. DC -/
  posValid : Nat := 0
  /-- [R461] pos0-pos3, Q32.32; reset none. DC -/
  pos : List Q32 := []
  /-- [R467] width in bytes of each signal, slot order; reset none. DC -/
  widths : List Nat := []
  /-- [R467] sample records, oldest first, one value per signal; reset none. DC -/
  samples : List (List Int) := []
  /-- [R471] one reduction per signal; reset none. DC -/
  red : List Reduction := []
  /-- [R470] closed; reset open. DC -/
  closed : Bool := false
  deriving DecidableEq, Repr

/-- A firing that a channel holds until the trigger is final (R453). -/
structure Firing where
  /-- [R447] condition 0-3; reset 0. DC -/
  cond : Nat := 0
  /-- [R448] stamp, FT.8; reset 0. DC -/
  stamp : Ft8 := 0
  deriving DecidableEq, Repr

/-- A capture channel CC0-CC255 (R444-R484). -/
structure CapChannel where
  /-- [R482] state; reset DISARMED (table). -/
  state : CapState := .disarmed
  /-- [R482] remaining, 16 bits; reset 0 (table). -/
  remaining : Nat := 0
  /-- [R482] continuous; reset 0 (table). -/
  continuous : Bool := false
  /-- [R459] latch_fifo_full; reset 0 (table). -/
  fifoFull : Bool := false
  /-- [R470] last_close; reset 0 (table). -/
  lastClose : Nat := 0
  /-- [R453] last_mask; reset 0 (table). -/
  lastMask : Nat := 0
  /-- [R459] latch FIFO, oldest first, at most 64; reset empty. DC -/
  fifo : List LatchRec := []
  /-- [R459] triggers taken since power-up, 32 bits; reset 0. DC -/
  seq : BitVec 32 := 0
  /-- [R453] firings held until final, in order of arrival; reset none. DC -/
  firings : List Firing := []
  /-- [R456] CAP_MISS_FT: the stamp held; reset none (table). -/
  missFt : Option Ft8 := none
  /-- [R456] firings missed since the previous basket; reset 0. DC -/
  missed : Nat := 0
  /-- [R449] primed flags of conditions 0-3: below side and above side; of a time condition the first says that it has still
  to fire (R451); reset none primed. DC -/
  primed : List (Bool × Bool) := []
  /-- [R449] last sample instant (FT.16) and values per signal; reset none. DC -/
  lastSample : Option (Ft16 × List Int) := none
  /-- [R449] second shunt sample instant of the last sample under clock 0, FT.16; reset 0. DC -/
  lastT2 : Ft16 := 0
  /-- [R468] samples since the channel armed, with instants, oldest first; of those before the pre-trigger part only as many
  as a late firing can reach are kept (log entry 3); reset none. DC -/
  pre : List (Ft16 × List Int) := []
  /-- [R470] slot of the open basket; reset none. DC -/
  open_ : Option Nat := none
  /-- [R474] slot reserved for the next basket; reset none. DC -/
  reserved : Option Nat := none
  /-- [R455] t_end as FT.16; reset 0. DC -/
  tEnd : Ft16 := 0
  /-- [R461] triggers taken whose latch record is not yet formed: trig_mask, t_ref, seq and the slot of their basket; reset
  none. DC -/
  latchDue : List (Nat × Ft8 × BitVec 32 × Option Nat) := []
  /-- [R451, R453] FT.8 from which stamps count since the channel armed; reset 0. DC -/
  armFrom : Ft8 := 0
  /-- [R457] the channel armed by BASKET_ARM, so that earlier stamps are ignored; re-armed, so that they are missed; reset 0. DC -/
  armFresh : Bool := false
  /-- [R476] a basket was overwritten since the previous basket; reset 0. DC -/
  overwrote : Bool := false
  deriving DecidableEq, Repr

/-- Capture memory and the spill region (R474-R478). -/
structure CapMem where
  /-- [R474] baskets by slot 0-65535; reset none. DC -/
  baskets : SMap Basket := []
  /-- [R472] generation of each slot, 16 bits; reset 0. DC -/
  gens : SMap Nat := []
  /-- [R477] slots of closed baskets, oldest first; reset none. DC -/
  order : List Nat := []
  /-- [R474] bytes reserved per channel for its next basket; reset 0. DC -/
  reserved : SMap Nat := []
  /-- [R480] command and slot of the BASKET_READs that run; reset none. DC -/
  reading : List (Nat × Nat) := []
  deriving DecidableEq, Repr


/-! ### 11_mailboxes.md, 12_commands.md -/

/-- [R500] mailbox state, MBX_STATUS [2:0]. -/
inductive MbxState where
  | off | boot | enabled | open_ | error | network
  deriving DecidableEq, Repr

/-- A response ring entry (R490). -/
structure RspEntry where
  /-- [R490] opcode, 16 bits; reset 0. DC -/
  opcode : BitVec 16 := 0
  /-- [R490] tag, 8 bits; reset 0. DC -/
  tag : Nat := 0
  /-- [R490] flags, 8 bits; reset 0. DC -/
  flags : Nat := 0
  /-- [R490] status, 16 bits; reset 0. DC -/
  status : BitVec 16 := 0
  /-- [R490] device, 16 bits; reset 0. DC -/
  device : Nat := 0
  /-- [R490] t_done, FT.8; reset 0. DC -/
  tDone : Ft8 := 0
  /-- [R490] response data; reset none. DC -/
  data : List Byte := []
  deriving DecidableEq, Repr

/-- A tag that was in flight at a restart, as INTERRUPTED_LIST gives it (R532). -/
structure Interrupted where
  /-- [R532] tag, 8 bits; reset 0. DC -/
  tag : Nat := 0
  /-- [R532] outcome, 8 bits; reset 0. DC -/
  outcome : Nat := 0
  /-- [R532] opcode, 16 bits; reset 0. DC -/
  opcode : BitVec 16 := 0
  /-- [R532] mailbox; reset 0. DC -/
  mbx : Nat := 0
  /-- [R532] resume offset, 32 bits; reset 0. DC -/
  resume : Nat := 0
  deriving DecidableEq, Repr

/-- One mailbox register block and its ring state (R488-R500). -/
structure Mailbox where
  /-- [R488] cmd_tail of the last valid doorbell, 16 bits; reset 0 (table). -/
  cmdTail : BitVec 16 := 0
  /-- [R488] MBX_CMD_HEAD, 16 bits; reset 0 (table). -/
  cmdHead : BitVec 16 := 0
  /-- [R489] MBX_RSP_TAIL, 16 bits; reset 0 (table). -/
  rspTail : BitVec 16 := 0
  /-- [R489] MBX_RSP_HEAD, 16 bits; reset 0 (table). -/
  rspHead : BitVec 16 := 0
  /-- [R492] MBX_CMD_BASE, 64 bits; reset 0 (table). -/
  cmdBase : BitVec 64 := 0
  /-- [R492] MBX_RSP_BASE, 64 bits; reset 0 (table). -/
  rspBase : BitVec 64 := 0
  /-- [R499] MBX_CTRL enable; reset 0 (table). -/
  enable : Bool := false
  /-- [R535] MBX_CTRL vector, 6 bits; reset 0 (table). -/
  vector : Nat := 0
  /-- [R492] MBX_CTRL size_log2, 4 bits; reset 4 (table). -/
  sizeLog2 : Nat := 4
  /-- [R535] MBX_CTRL moderation, us, 12 bits; reset 0 (table). -/
  moderation : Nat := 0
  /-- [R500] state; reset OFF (table). -/
  state : MbxState := .off
  /-- [R489] response slots reserved for descriptors taken; reset 0. DC -/
  reserved : Nat := 0
  /-- [R489] the descriptor now at the head has been counted in MBX_RSP_STALL; reset 0. DC -/
  stalled : Bool := false
  /-- [R535] local tick of the last MSI-X message; reset none. DC -/
  lastMsi : Option Nat := none
  /-- [R535] an advance waits for the end of the moderation interval; reset 0. DC -/
  msiDue : Bool := false
  /-- [R490] responses written into the response ring, newest first; reset none. DC -/
  responses : List RspEntry := []
  deriving DecidableEq, Repr

/-- [R499] how a session reaches the module. -/
inductive Transport where
  | pcie | udp (port : Fin 2) (addr : BitVec 48) | fabric (dev : Nat)
  deriving DecidableEq, Repr

/-- A session, keyed by its mailbox (R495-R510). -/
structure Session where
  /-- [R503] session_id, 32 bits; reset 0. DC -/
  id : BitVec 32 := 0
  /-- [R499] transport; reset PCIe. DC -/
  via : Transport := .pcie
  /-- [R495] first tag of the range; reset 0. DC -/
  tagFirst : Nat := 0
  /-- [R495] tags in the range; reset 0. DC -/
  tagCount : Nat := 0
  /-- [R503] session key, 256 bits; reset 0. DC -/
  key : List Byte := []
  /-- [R505] highest seq seen from the client, 64 bits; reset 0. DC -/
  rxHigh : Nat := 0
  /-- [R505] seqs seen within 64 below the highest; reset none. DC -/
  rxSeen : List Nat := []
  /-- [R503] last seq sent, 64 bits; reset 0. DC -/
  txSeq : Nat := 0
  /-- [R509] local tick of the last valid datagram or frame; reset 0. DC -/
  traffic : Nat := 0
  /-- [R516] pending set, in order; reset empty. DC -/
  pendingSet : List Item := []
  /-- [R528] the waiting LOCK: command key, device, endpoints, wait in ms, local tick of acceptance; reset none. DC -/
  waiting : Option (Nat × Nat × List (BitVec 16) × Nat × Nat) := none
  /-- [R525] locks held: device and endpoint; reset none. DC -/
  locks : List (Nat × BitVec 16) := []
  deriving DecidableEq, Repr

/-- [R504] A half-open UDP session, keyed by its session_id. -/
structure HalfOpen where
  /-- [R503] session key; reset none. DC -/
  key : List Byte := []
  /-- [R551] key_id of the pre-shared key; reset 0. DC -/
  keyId : Nat := 0
  /-- [R504] port and client address; reset 0. DC -/
  port : Fin 2 := 0
  /-- [R504] client address; reset 0. DC -/
  addr : BitVec 48 := 0
  /-- [R504] local tick of the HELLO; reset 0. DC -/
  since : Nat := 0
  deriving DecidableEq, Repr

/-- [R530] state of a command record. -/
inductive CmdState where
  | none_ | queued | running | done | failed | aborted | interrupted
  deriving DecidableEq, Repr

/-- The record of a tag's latest command, keyed by `CmdRef.key` (R530-R532). -/
structure CmdRec where
  /-- [R532] opcode, 16 bits; reset 0. DC -/
  opcode : BitVec 16 := 0
  /-- [R530] state; reset none. DC -/
  state : CmdState := .none_
  /-- [R530] status, 16 bits; reset 0. DC -/
  status : BitVec 16 := 0
  /-- [R530] progress, 32 bits; reset 0. DC -/
  progress : Nat := 0
  /-- [R532] resume offset, 32 bits; reset 0. DC -/
  resume : Nat := 0
  /-- [R490] response data; reset none. DC -/
  data : List Byte := []
  /-- [R490] t_done, FT.8; reset 0. DC -/
  tDone : Ft8 := 0
  /-- [R530] local tick of completion; reset 0. DC -/
  doneTick : Nat := 0
  /-- [R490] completed and its response not yet written; reset 0. DC -/
  responseDue : Bool := false
  /-- [R496] in flight (accepted, response not written); reset 0. DC -/
  inFlight : Bool := false
  /-- [R489] a response slot is reserved for it; reset 0. DC -/
  slot : Bool := false
  /-- [R535] descriptor flags bit 2 (no interrupt); reset 0. DC -/
  noIrq : Bool := false
  /-- [R508] executing device, 0 this module; reset 0. DC -/
  device : Nat := 0
  /-- [R508] forwarded: local tick at which the module began to wait; reset none. DC -/
  forwarded : Option Nat := none
  /-- [R506] descriptor and payload as received (the descriptor's fields); reset empty. DC -/
  image : Descriptor := {}
  /-- [R532] order of acceptance; reset 0. DC -/
  order : Nat := 0
  /-- [R665] session_id of the session a forwarded command runs for; reset 0. DC -/
  sid : Nat := 0
  deriving DecidableEq, Repr

/-- A scheduled commit (R517-R520). -/
structure Commit where
  /-- [R517] B as XT.16; reset 0. DC -/
  b : Nat := 0
  /-- [R517] command key; reset none (a participant's items). DC -/
  cmd : Option Nat := none
  /-- [R518] items, in order; reset none. DC -/
  items : List Item := []
  /-- [R611] dropped at its boundary after a fourth cut-off of one of its bursts; reset 0. DC -/
  dropped : Bool := false
  deriving DecidableEq, Repr

/-- A PREPARE at its coordinator, keyed by its number (R522, R523). -/
structure Prepare where
  /-- [R522] FT_c, 32 bits; reset 0. DC -/
  ftC : Ft := 0
  /-- [R522] command key; reset 0. DC -/
  cmd : Nat := 0
  /-- [R523] participants in order: device, step 2 status if answered, item index; reset none. DC -/
  parts : List (Nat × Option (BitVec 16 × BitVec 16)) := []
  /-- [R522] decision: none, COMMIT sent (true) or ABORT (false); reset none. DC -/
  decision : Option Bool := none
  /-- [R523] the coordinator has sent COMMIT to some participant; reset 0. DC -/
  commitSent : Bool := false
  /-- [R522] devices that acknowledged; reset none. DC -/
  acks : List Nat := []
  /-- [R522] devices that reported APPLIED; reset none. DC -/
  applied : List Nat := []
  deriving DecidableEq, Repr

/-- Items a participant holds for a PREPARE (R522). -/
structure Participant where
  /-- [R522] coordinator device and its number for the PREPARE; reset 0. DC -/
  dev : Nat := 0
  /-- [R522] number; reset 0. DC -/
  num : Nat := 0
  /-- [R522] FT_c; reset 0. DC -/
  ftC : Ft := 0
  /-- [R522] items; reset none. DC -/
  items : List Item := []
  /-- [R522] READY was answered; reset 0. DC -/
  ready : Bool := false
  /-- [R522] COMMIT held; reset 0. DC -/
  commit : Bool := false
  deriving DecidableEq, Repr

/-- A request in the lock table of this module's endpoints (R526). -/
structure LockWait where
  /-- [R526] requesting session; reset 0. DC -/
  sess : SessRef := {}
  /-- [R526] endpoints; reset none. DC -/
  eps : List (BitVec 16) := []
  deriving DecidableEq, Repr

/-- The lock tables (R525-R529). -/
structure Locks where
  /-- [R525] holder of each locked endpoint of this module; reset none. DC -/
  held : List (BitVec 16 × SessRef) := []
  /-- [R526] waiting requests in acceptance order; reset none. DC -/
  waits : List LockWait := []
  /-- [R527] at the leader: edges of the fabric-wide wait-for graph (waiter, waited for); reset none. DC -/
  graph : List (SessRef × SessRef) := []
  /-- [R615] at the leader: the graph is being rebuilt; reset 0. DC -/
  rebuilding : Bool := false
  /-- [R527] requests of this module whose circle test is under way; reset none. DC -/
  asked : List LockWait := []
  deriving DecidableEq, Repr

/-- A snapshot (R512). -/
structure Snapshot where
  /-- [R512] E as XT.16; reset 0. DC -/
  e : Nat := 0
  /-- [R512] complete; reset 0. DC -/
  complete : Bool := false
  /-- [R512] configuration as at E; reset empty. DC -/
  cfg : SMap Nat := []
  /-- [R512] counters as at E; reset empty. DC -/
  ctr : SMap Nat := []
  /-- [R512] status words as at E, keyed like items; reset empty. DC -/
  status : SMap Nat := []
  deriving DecidableEq, Repr

/-- An event record (R533). -/
structure EventRec where
  /-- [R533] t_event, FT.8; reset 0. DC -/
  t : Ft8 := 0
  /-- [R533] source, fabric endpoint address, 25 bits; reset 0. DC -/
  source : Nat := 0
  /-- [R563] code, 16 bits; reset 0. DC -/
  code : BitVec 16 := 0
  /-- [R563] count, 16 bits; reset 1. DC -/
  count : Nat := 1
  /-- [R563] data, 16 bytes little-endian; reset 0. DC -/
  data : Nat := 0
  deriving DecidableEq, Repr

/-- The event ring and the event log (R533-R535, R561). -/
structure Events where
  /-- [R561] event log, newest first, at most 65,536 records; reset empty. DC -/
  log : List EventRec := []
  /-- [R561] sequence number of the next record, 32 bits; reset 0. DC -/
  next : BitVec 32 := 0
  /-- [R534] MBX_EVT_BASE, 64 bits; reset 0 (table). -/
  base : BitVec 64 := 0
  /-- [R534] MBX_EVT_TAIL, 16 bits; reset 0 (table). -/
  tail : BitVec 16 := 0
  /-- [R534] MBX_EVT_HEAD, 16 bits; reset 0 (table). -/
  head : BitVec 16 := 0
  /-- [R533] MBX_EVT_CTRL enable; reset 0 (table). -/
  enable : Bool := false
  /-- [R535] MBX_EVT_CTRL vector; reset 0 (table). -/
  vector : Nat := 0
  /-- [R535] MBX_EVT_CTRL moderation; reset 0 (table). -/
  moderation : Nat := 0
  /-- [R534] MBX_EVT_LOST, 32 bits; reset 0 (table). -/
  lost : Nat := 0
  /-- [R21] the last local tick in which records were lost, and how many were in it; reset none. DC -/
  lostAt : Nat × Nat := (0, 0)
  /-- [R21] what the last read of MBX_EVT_LOST returned; reset 0. DC -/
  lostRead : Nat := 0
  /-- [R534] the run of records not written: number, FT.8 of the first and of the last; reset none. DC -/
  lostRun : Option (Nat × Ft8 × Ft8) := none
  /-- [R533] records written into the event ring, newest first; reset none. DC -/
  ring : List EventRec := []
  /-- [R535] local tick of the ring's last MSI-X message; reset none. DC -/
  lastMsi : Option Nat := none
  /-- [R535] an advance waits for the end of the moderation interval; reset 0. DC -/
  msiDue : Bool := false
  /-- [R535] MSI-X messages sent (vectors), newest first; reset none. DC -/
  msix : List Nat := []
  deriving DecidableEq, Repr

/-- Supervisor registers of BAR0 and the session and snapshot stores (R485-R515). -/
structure Host_ where
  /-- [R486] SUP_ID silicon step, 8 bits; reset 1 (step from 0x01). DC -/
  step : Nat := 1
  /-- [R485] SUP_STATE restarts, 8 bits; reset 0 (table). -/
  restarts : Nat := 0
  /-- [R485] SUP_STATE bank: running bank B; reset A (table). -/
  bankB : Bool := false
  /-- [R485] SUP_STATE mbx_ready; reset 0 (table). -/
  mbxReady : Bool := false
  /-- [R485] SUP_BOOT_PROGRESS stage, 8 bits; reset 0 (table). -/
  stage : Nat := 0
  /-- [R485] local tick of supplies good (elapsed counts from it); reset none. DC -/
  goodTick : Option Nat := none
  /-- [R20] SUP_FAULT, 32 bits; reset 0 (table). -/
  fault : BitVec 32 := 0
  /-- [R20] the last local tick in which bits of SUP_FAULT were set, and those bits; reset none. DC -/
  faultSet : Nat × BitVec 32 := (0, 0)
  /-- [R487] SUP_FT_SNAP: the FT.16 latched; reset 0 (table). -/
  snap : Ft16 := 0
  /-- [R487] latch_seq, 16 bits; reset 0 (table). -/
  snapSeq : BitVec 16 := 0
  /-- [R502] pre-shared keys by key_id; reset none installed. DC -/
  keys : SMap (List Byte) := []
  /-- [R504] half-open sessions by session_id; reset none. DC -/
  halfOpen : SMap HalfOpen := []
  /-- [R504] HELLO datagrams accepted per port: start of the running second (local tick) and count; reset none. DC -/
  hellos : SMap (Nat × Nat) := []
  /-- [R503] datagrams sent by the module: port, address, bytes, newest first; reset none. DC -/
  udpOut : List (Fin 2 × BitVec 48 × List Byte) := []
  /-- [R512] the 16 most recent snapshots, newest first; reset none. DC -/
  snaps : List Snapshot := []
  /-- [R514] SNAP_AT commands that wait: command key, FT, items, clear flag; reset none. DC -/
  snapWaits : List (Nat × Ft × List ReadItem × Bool) := []
  /-- [R517] scheduled commits in acceptance order; reset none. DC -/
  commits : List Commit := []
  /-- [R522] PREPAREs coordinated here by number; reset none. DC -/
  prepares : SMap Prepare := []
  /-- [R522] number of the next PREPARE; reset 0. DC -/
  nextPrep : Nat := 0
  /-- [R522] items held as participant; reset none. DC -/
  parts : List Participant := []
  /-- [R530] command records by `CmdRef.key`; reset none. DC -/
  cmds : SMap CmdRec := []
  /-- [R490] completed commands whose response is not yet written, by command key in completion order; reset none. DC -/
  rspQueue : List Nat := []
  /-- [R532] order number of the next accepted command; reset 0. DC -/
  nextOrder : Nat := 0
  /-- [R532] INTERRUPTED_LIST: the tags in flight at the last restart; reset none. DC -/
  interrupted : List Interrupted := []
  /-- [R205] kernel store by handle; reset none. DC -/
  kernels : SMap Kernel := []
  deriving DecidableEq, Repr


/-! ### 13_scheduler.md, 14_arbitration.md -/

/-- [R574] state of a thread. -/
inductive ThreadState where
  | ready | running | waiting | sleeping | ended
  deriving DecidableEq, Repr

/-- A thread (R571-R593). -/
structure Thread where
  /-- [R574] state; reset ENDED (no thread). DC -/
  state : ThreadState := .ended
  /-- [R572] base priority, 0-63; reset 0. DC -/
  base : Nat := 0
  /-- [R572] ceiling, 0-63; reset 0. DC -/
  ceiling : Nat := 0
  /-- [R579] effective priority, 0-63; reset 0. DC -/
  eff : Nat := 0
  /-- [R581] ageing bound, scheduler ticks, 0 off; reset 0. DC -/
  bound : Nat := 0
  /-- [R580] waiting count, scheduler ticks; reset 0. DC -/
  waited : Nat := 0
  /-- [R567] affinity, 8 bits; reset 0. DC -/
  affinity : Nat := 0
  /-- [R567] image handle; reset 0. DC -/
  image : Nat := 0
  /-- [R571] program counter at entry to READY after THREAD_START (offset in the image's code); reset 0. DC -/
  entry : Nat := 0
  /-- [R583] a0, the result of the last call or the thread id at start; reset 0. DC -/
  a0 : BitVec 64 := 0
  /-- [R587] wake tick as FT of a multiple of 1,000 ns; reset none. DC -/
  wake : Option Ft := none
  /-- [R584] event waited for; reset none. DC -/
  event : Option Nat := none
  /-- [R585] order in which it began to wait; reset 0. DC -/
  waitOrder : Nat := 0
  /-- [R590] local tick and event of a timeout whose result SCH_WAIT has not returned yet; reset none. DC -/
  timedOut : Option (Nat × Nat) := none
  /-- [R590] local tick and event of a signal taken whose result SCH_WAIT has not returned yet; reset none. DC -/
  signalled : Option (Nat × Nat) := none
  deriving DecidableEq, Repr

/-- A user program image (R567-R570). -/
structure Image where
  /-- [R567] affinity, 8 bits; reset 0. DC -/
  affinity : Nat := 0
  /-- [R570] transient; reset 0. DC -/
  transient : Bool := false
  /-- [R567] code_bytes; reset 0. DC -/
  code : Nat := 0
  /-- [R567] data_bytes; reset 0. DC -/
  data : Nat := 0
  /-- [R567] bss_bytes; reset 0. DC -/
  bss : Nat := 0
  /-- [R567] stack_bytes; reset 0. DC -/
  stack : Nat := 0
  /-- [R567] entry; reset 0. DC -/
  entry : Nat := 0
  /-- [R567] the code and initialised data placed in the user pool; reset none. DC -/
  content : List Byte := []
  deriving DecidableEq, Repr

/-- The hardware thread scheduler (R574-R595). -/
structure Sched where
  /-- [R574] threads by id 0-255; reset none. DC -/
  threads : SMap Thread := []
  /-- [R575] ready list of each level 0-63, first first; reset empty. DC -/
  ready : SMap (List Nat) := []
  /-- [R575] thread running on each core AC0-AC7 (id + 1, 0 none); reset none (0xFFFF, table). -/
  cores : SMap Nat := []
  /-- [R584] count of each event 0-1,023, 32 bits; reset 0. DC -/
  events : SMap Nat := []
  /-- [R585] order number of the next waiter; reset 0. DC -/
  nextOrder : Nat := 0
  /-- [R567] user images by handle; reset none. DC -/
  images : SMap Image := []
  /-- [R588] FT of the last scheduler tick taken; reset 0. DC -/
  lastTick : Ft := 0
  /-- [R595] busy ticks of vendor threads and of each core in the present epoch (core index, 8 for vendor); reset 0. DC -/
  busy : SMap Nat := []
  deriving DecidableEq, Repr

/-- One arbiter (R596-R606). -/
structure Arbiter where
  /-- [R600] phase f, 0-15; reset 0 (R600). -/
  f : Nat := 0
  /-- [R600] tie wheel w; reset 0 (R600). -/
  w : Nat := 0
  /-- [R600] slot wheel g; reset 0 (R600). -/
  g : Nat := 0
  /-- [R596] requester that holds the grant (number + 1; 0 none); reset none. DC -/
  holder : Nat := 0
  /-- [R596] local tick at which the grant held was made; reset 0. DC -/
  since : Nat := 0
  /-- [R598] requesters that were not granted and keep their requests raised, with the cycles each has waited; reset none. DC -/
  waiting : List (Nat × Nat) := []
  /-- [R611] consecutive cut-offs of the present transfer of each requester; reset 0. DC -/
  cuts : SMap Nat := []
  /-- [R605] ARB_OVERHOLD: requester and stamp; reset none (table). -/
  overhold : Option (Nat × Ft8) := none
  /-- [R620] ARB_WAIT_MAX: requester and cycles; reset 0 (table). -/
  waitMax : Nat × Nat := (0, 0)
  deriving DecidableEq, Repr


/-! ### 15_yunadra_fabric.md -/

/-- [R631] state of a fabric port. -/
inductive FabPortState where
  | off | cal | train | measure | up | bench
  deriving DecidableEq, Repr

/-- A frame being received on a stream (R633, R634). -/
structure RxStream where
  /-- [R633] bytes received so far, header first; reset none. DC -/
  bytes : List Byte := []
  /-- [R634] discarding up to EOF (hcrc failed or broken); reset 0. DC -/
  discard : Bool := false
  /-- [R634] outputs of the frame once its route is known (0-3 port, 4 local); reset none. DC -/
  outs : List Nat := []
  deriving DecidableEq, Repr

/-- Credits and streams of one virtual channel of a port (R638-R640). -/
structure VcState where
  /-- [R638] blocks sent, 16 bits; reset 0. DC -/
  sent : BitVec 16 := 0
  /-- [R638] cumulative freed count from the neighbour, 16 bits; reset 0. DC -/
  freed : BitVec 16 := 0
  /-- [R639] cumulative count of blocks freed here, 16 bits; reset 0. DC -/
  rxFreed : BitVec 16 := 0
  /-- [R640] blocks held in the receive buffer; reset 0. DC -/
  held : Nat := 0
  /-- [R633] streams open in reception; reset none. DC -/
  rx : SMap RxStream := []
  /-- [R633] streams allocated in transmission: stream, port the frame came from (4 local) and its stream there; reset none. DC -/
  tx : List (Nat × Nat × Nat) := []
  /-- [R633] data blocks left of the module's own frame whose transmission has begun; reset 0. DC -/
  left : Nat := 0
  deriving DecidableEq, Repr

/-- A fabric port FP0-FP3 (R622-R640, R667-R669). -/
structure FabPort where
  /-- [R631] state; reset OFF (table). -/
  state : FabPortState := .off
  /-- [R625] FAB_PORT has disabled the port; reset 0. DC -/
  disabled : Bool := false
  /-- [R625] local tick of the last state entry; reset 0. DC -/
  since : Nat := 0
  /-- [R626] transmit and receive SerDes latency, FT.16 units; reset 0. DC -/
  lat : Nat × Nat := (0, 0)
  /-- [R627] block lock; reset 0. DC -/
  locked : Bool := false
  /-- [R627] consecutive valid TRAIN blocks of each half; reset 0. DC -/
  halves : Nat × Nat := (0, 0)
  /-- [R627] seen has been set and has been received; reset 0. DC -/
  seen : Bool × Bool := (false, false)
  /-- [R627] an attempt has failed and the port waits 20 ms; reset none. DC -/
  retryFrom : Option Nat := none
  /-- [R627] neighbour's unique identifier, 64 bits; reset 0. DC -/
  neigh : BitVec 64 := 0
  /-- [R627] neighbour's port; reset 0. DC -/
  neighPort : Nat := 0
  /-- [R628] exchange number and t1 of the exchange under way; reset none. DC -/
  exchange : Option (Nat × Ft16) := none
  /-- [R631] local tick of the last exchange completed; reset 0. DC -/
  delayTick : Nat := 0
  /-- [R628] local tick at which the last exchange began; reset none. DC -/
  reqTick : Option Nat := none
  /-- [R631] local tick of the last valid control block received; reset 0. DC -/
  ctrlTick : Nat := 0
  /-- [R628] number of the last exchange, 16 bits; reset 0. DC -/
  exchangeNo : BitVec 16 := 0
  /-- [R628] link delays of the exchanges, FT.16 units, newest first, at most 64; reset none. DC -/
  delays : List Int := []
  /-- [R628] measurements repeated in this attempt; reset 0. DC -/
  repeats : Nat := 0
  /-- [R629] link delay, FT.16 units; reset 0 (table). -/
  linkDelay : Int := 0
  /-- [R631] down_cause; reset 0 (table). -/
  downCause : Nat := 0
  /-- [R631] local ticks of the last 16 invalid sync headers, newest first; reset none. DC -/
  badHeaders : List Nat := []
  /-- [R649] foreign; reset 0 (table). -/
  foreign : Bool := false
  /-- [R642] the neighbour's last DISCOVER with its local tick; reset none. DC -/
  disc : Option (Discover × Nat) := none
  /-- [R643] the child's REPORT held; reset none. DC -/
  report : Option (List ReportEntry) := none
  /-- [R641] local tick of the last DISCOVER sent; reset none. DC -/
  discTick : Option Nat := none
  /-- [R641] the last DISCOVER sent; reset none. DC -/
  discSent : Option Discover := none
  /-- [R668] local ticks of the last 16 violations, newest first; reset none. DC -/
  violations : List Nat := []
  /-- [R668] local tick from which the 100 ms of the bench run; reset none. DC -/
  benchFrom : Option Nat := none
  /-- [R669] start of the running second and management frames accepted in it; reset 0. DC -/
  mgmt : Nat × Nat := (0, 0)
  /-- [R638] the four virtual channels; reset as their fields. DC -/
  vcs : SMap VcState := []
  /-- [R640] waiting for the IDLEs after RMARK: no fragment is sent; reset 0. DC -/
  resync : Bool := false
  /-- [R610] messages and fragments waiting for transmission with their VC, newest first; reset none. DC -/
  out : List (Nat × FabMsg) := []
  /-- [R637] what the port has sent, control blocks included, newest first; reset none. DC -/
  wire : List FabMsg := []
  /-- [R623] blocks sent, newest first: control block, bytes; reset none. DC -/
  line : List (Bool × List Byte) := []
  /-- [R639] credit VC of the next FRAG, 2 bits; reset 0. DC -/
  creditVc : Nat := 0
  /-- [R649] FT of the neighbour's leader less the own, FT.16 units, on a foreign port; reset none. DC -/
  foreignOffset : Option Int := none
  deriving DecidableEq, Repr

/-- [R647] state of the module in the fabric. -/
inductive FabState where
  | counting | member | solo | refused
  deriving DecidableEq, Repr

/-- A generation of tables being received (R646). -/
structure TableGen where
  /-- [R646] generation, 16 bits; reset 0. DC -/
  gen : Nat := 0
  /-- [R646] unicast routes; reset none. DC -/
  routes : SMap Nat := []
  /-- [R646] convoy masks; reset none. DC -/
  masks : SMap Nat := []
  /-- [R652] repair shares; reset none. DC -/
  shares : List Share := []
  /-- [R646] apply FT, once the piece of kind 3 is in; reset none. DC -/
  apply : Option Ft := none
  deriving DecidableEq, Repr

/-- An outward relay that is open (R666). -/
structure Relay where
  /-- [R666] Ethernet port; reset 0. DC -/
  port : Nat := 0
  /-- [R666] IPv4 address; reset 0. DC -/
  addr : BitVec 32 := 0
  /-- [R666] UDP port; reset 0. DC -/
  udp : BitVec 16 := 0
  /-- [R666] device the datagrams are returned to; reset 0. DC -/
  dev : Nat := 0
  /-- [R666] local tick of the last outward frame; reset 0. DC -/
  tick : Nat := 0
  deriving DecidableEq, Repr

/-- The module in the fabric (R641-R666). -/
structure Fabric where
  /-- [R647] state; reset COUNTING (table). -/
  state : FabState := .counting
  /-- [R644] device number, 12 bits; reset 0 (table). -/
  device : Nat := 0
  /-- [R645] stored preferred device number; reset 0x000 (none stored). DC -/
  preferred : Nat := 0
  /-- [R646] table generation in force, 16 bits; reset 0 (table). -/
  gen : Nat := 0
  /-- [R642] distance from the root; reset 0 (table). -/
  depth : Nat := 0
  /-- [R642] parent port, 7 none; reset 7 (table). -/
  parent : Nat := 7
  /-- [R642] root identifier of the view; reset 0. DC -/
  root : BitVec 64 := 0
  /-- [R656] partition; reset 0 (table). -/
  partition : Bool := false
  /-- [R655] a repair is in force; reset 0 (table). -/
  repair : Bool := false
  /-- [R644] modules admitted; reset 0 (table). -/
  modules : Nat := 0
  /-- [R646] leader's device number; reset 0. DC -/
  leaderDev : Nat := 0
  /-- [R646] leader's identifier last logged; reset none. DC -/
  lastLeader : Option (BitVec 64) := none
  /-- [R650] unicast table: output per device (0-3 port, 4 local); no entry: no route; reset none. DC -/
  routes : SMap Nat := []
  /-- [R661] convoy masks: four port bits and the local bit 4; reset none. DC -/
  masks : SMap Nat := []
  /-- [R652] repair shares; reset none. DC -/
  shares : List Share := []
  /-- [R646] the generation being received; reset none. DC -/
  incoming : Option TableGen := none
  /-- [R643] local tick since when the view has not changed; reset 0. DC -/
  stableFrom : Nat := 0
  /-- [R643] the module has sent its REPORT for this view; reset 0. DC -/
  reported : Bool := false
  /-- [R647] local tick at which D6 powered up; reset 0. DC -/
  d6Tick : Nat := 0
  /-- [R654] LINK_DOWN reports received: identifier, port, local tick, newest first; reset none. DC -/
  downs : List (BitVec 64 × Nat × Nat) := []
  /-- [R653] loss of an own port that waits for its share: port and local tick; reset none. DC -/
  ownLoss : Option (Nat × Nat) := none
  /-- [R644] at the leader: reported modules of the generation; reset none. DC -/
  topo : List ReportEntry := []
  /-- [R644] at the leader: assigned numbers by the order of topo; reset none. DC -/
  assigned : List AssignEntry := []
  /-- [R661] at the leader: publisher fabric address by convoy; reset none. DC -/
  convoys : SMap Nat := []
  /-- [R661] at the leader: member devices by convoy; reset none. DC -/
  members : SMap (List Nat) := []
  /-- [R637] at the leader: devices that reported synchronised axes present (REGISTER op 5, 6); reset none. DC -/
  syncDevs : List Nat := []
  /-- [R664] BULK data received ahead, by source device and ident: bytes and local tick of its REQUEST; reset none. DC -/
  bulk : List (Nat × Nat × List Byte × Option Nat) := []
  /-- [R666] relays open at this bridge; reset none. DC -/
  relays : List Relay := []
  /-- [R634] frames delivered to this module (port and bytes), newest first; reset none. DC -/
  inbox : List (Nat × List Byte) := []
  /-- [R637] messages sent to a device (or 0xFFFF convoy multicast), newest first; reset none. DC -/
  sent : List (Nat × FabMsg) := []
  /-- [R637] the last REGISTER op 5 or 6 sent said that synchronised axes are present; reset 0. DC -/
  syncTold : Bool := false
  /-- [R646] device number of the last ASSIGN, 0 none; in force from the apply FT; reset 0. DC -/
  given : Nat := 0
  /-- [R610] how many of the messages sent have been handed to a port's queue; reset 0. DC -/
  placed : Nat := 0
  deriving DecidableEq, Repr


/-! ### 16_ethernet_can.md -/

/-- [R685] PTP port state in IEEE 1588-2019 codes 1, 2, 3, 4, 7, 8, 9. -/
inductive PtpState where
  | initializing | faulty | disabled | listening | passive | uncalibrated | slave
  deriving DecidableEq, Repr

/-- PTP of one Ethernet port (R685-R689). -/
structure PtpPort where
  /-- [R686] port state; reset INITIALIZING (table). -/
  state : PtpState := .initializing
  /-- [R686] data set of the master held; reset none. DC -/
  master : Option Announce := none
  /-- [R686] data sets received in the present qualification, newest first, with local tick; reset none. DC -/
  heard : List (Announce × Nat) := []
  /-- [R686] local tick of the last Announce of the master; reset 0. DC -/
  annTick : Nat := 0
  /-- [R687] consecutive announce intervals for which this port's master has won over the source in use; reset 0. DC -/
  wins : Nat := 0
  /-- [R688] mean path delay, FT.16 units; reset none (0, table). -/
  delay : Option Int := none
  /-- [R686] outstanding Pdelay_Req or Delay_Req: sequenceId and t1 (XT.16); reset none. DC -/
  req : Option (BitVec 16 × Nat) := none
  /-- [R686] two-step Pdelay_Resp awaiting its Follow_Up: t2, correction, t4; reset none. DC -/
  respWait : Option (Nat × Int × Nat) := none
  /-- [R688] two-step Sync awaiting its Follow_Up: sequenceId, correction, receive stamp; reset none. DC -/
  syncWait : Option (BitVec 16 × Int × Nat) := none
  /-- [R688] last Sync's origin plus correction and its receive stamp (end-to-end delay); reset none. DC -/
  lastSync : Option (Int × Nat) := none
  /-- [R686] local tick of the last request sent; reset none. DC -/
  reqTick : Option Nat := none
  /-- [R686] sequenceId of the last request, 16 bits; reset 0. DC -/
  seq : BitVec 16 := 0
  /-- [R688] NET_PTP_OFFSET: last offset, FT.16 units; reset 0 (table). -/
  offset : Int := 0
  /-- [R687] source: this port is the leader's time source; reset 0 (table). -/
  source : Bool := false
  /-- [R686] as_capable; reset 0 (table). -/
  asCapable : Bool := false
  deriving DecidableEq, Repr

/-- A plant Ethernet port (R672-R684, R690-R693). -/
structure EthPort where
  /-- [R672] link_up; reset 0 (table). -/
  linkUp : Bool := false
  /-- [R675] ARP cache: IPv4 address to MAC and local tick of confirmation, at most 64; reset empty. DC -/
  arp : List (BitVec 32 × BitVec 48 × Nat) := []
  /-- [R675] datagrams held for an unresolved address: address, frame, queue, local tick; reset none. DC -/
  held : List (BitVec 32 × EthFrame × Nat × Nat) := []
  /-- [R675] start of the running second and ICMP echo requests answered in it; reset 0. DC -/
  icmp : Nat × Nat := (0, 0)
  /-- [R676] reassembly buffers 0-7: local tick of the first fragment plus one, 0 free; reset free. DC -/
  reasm : SMap Nat := []
  /-- [R678] transmit queues Q0-Q7, oldest first, 32 frames each; reset empty. DC -/
  queues : SMap (List EthFrame) := []
  /-- [R679] frames sent, newest first; reset none. DC -/
  sent : List EthFrame := []
  /-- [R8] bytes of the frames sent, newest first; reset none. DC -/
  bytes : List (List Byte) := []
  /-- [R684] gate_states, 8 bits; reset 0xFF (table). -/
  gates : Nat := 255
  /-- [R683] a gate list is in force; reset 0 (table). -/
  qbvActive : Bool := false
  /-- [R683] the list in force: base (XT ns), cycle, extension, entries (gates, interval); reset none. DC -/
  qbvOper : Option (Nat × Nat × Nat × List (Nat × Nat)) := none
  /-- [R683] qbv_pending with ConfigChangeTime as XT.16 and whether the list is then enabled; reset none. DC -/
  qbvPending : Option (Nat × Bool) := none
  /-- [R690] the second copy leaves by this port; PTP state; reset as its fields. DC -/
  ptp : PtpPort := {}
  deriving DecidableEq, Repr

/-- [R696] state of a CAN channel. -/
inductive CanState where
  | off | listen | active | passive | busOff
  deriving DecidableEq, Repr

/-- A pending CAN transmit buffer (R700). -/
structure CanBuf where
  /-- [R700] the frame; reset empty. DC -/
  fr : CanFrame := {}
  /-- [R701] transmit-at-time FT; reset none. DC -/
  at_ : Option Ft := none
  /-- [R558] command key; reset none (completed by R774). DC -/
  cmd : Option Nat := none
  deriving DecidableEq, Repr

/-- A CAN channel (R694-R709). -/
structure CanCh where
  /-- [R696] state; reset LISTEN (R696). -/
  state : CanState := .listen
  /-- [R697] transmit error count; reset 0 (table). -/
  tec : Nat := 0
  /-- [R697] receive error count; reset 0 (table). -/
  rec_ : Nat := 0
  /-- [R709] last_error, 4 bits; reset 0 (table). -/
  lastError : Nat := 0
  /-- [R700] pending transmit buffers by number; reset none. DC -/
  bufs : List (Nat × CanBuf) := []
  /-- [R700] buffer whose frame is in arbitration or transmission; reset none. DC -/
  sending : Option Nat := none
  /-- [R708] receive FIFO, oldest first, at most 64: SOF stamp, frame, ESI; reset empty. DC -/
  fifo : List (Ft8 × CanFrame × Bool) := []
  /-- [R704] last ID_COLLISION record per identifier: local tick and occurrences merged since; reset none. DC -/
  collisions : SMap (Nat × Nat) := []
  /-- [R698] local tick of the entry to BUS_OFF; reset 0. DC -/
  offTick : Nat := 0
  deriving DecidableEq, Repr


/-! ### 17_field_io.md -/

/-- A field input (R712-R717). -/
structure FieldIn where
  /-- [R713] debounced state; reset 0 (table). -/
  state : Bool := false
  /-- [R714] raw; reset 0 (table). -/
  raw : Bool := false
  /-- [R713] stamp of the last change, FT.8; reset 0. DC -/
  stamp : Ft8 := 0
  /-- [R720] local tick of the last edge of a fast latch input; reset 0. DC -/
  edgeTick : Nat := 0
  /-- [R36] the die's 32 MHz count at the raw edge that began the run of the last change, 32 bits; reset 0. DC -/
  count : BitVec 32 := 0
  /-- [R716] wire_break; reset 0 (table). -/
  wireBreak : Bool := false
  deriving DecidableEq, Repr

/-- [R723] state of a field output. -/
inductive OutState where
  | off | on | limit | cooling | latched | supplyOff | hbOff
  deriving DecidableEq, Repr

/-- A field output (R721-R728). -/
structure FieldOut where
  /-- [R723] state; reset OFF (table). -/
  state : OutState := .off
  /-- [R725] retries; reset 0 (table). -/
  retries : Nat := 0
  /-- [R726] commanded; reset 0 (table). -/
  commanded : Bool := false
  /-- [R726] a FIO_OUT_AT pending: FT, value and command key; reset none (table). -/
  timed : Option (Ft × Bool × Nat) := none
  /-- [R726] local tick at which a FIO_OUT_AT last acted; reset none. DC -/
  atTick : Option Nat := none
  /-- [R725] local tick of the entry to ON; reset 0. DC -/
  onTick : Nat := 0
  /-- [R723] fo_retry_max taken at the last entry to COOLING; reset 0. DC -/
  retryMax : Nat := 0
  /-- [R725] per cause 1-3: local tick of its last FIO_OVERLOAD record and occurrences merged since; reset none. DC -/
  logged : SMap (Nat × Nat) := []
  deriving DecidableEq, Repr

/-- A field supply group (R730, R731). -/
structure SupplyGroup where
  /-- [R730] voltage, mV, 16 bits; reset 0 (table). -/
  mv : Nat := 0
  /-- [R730] level code 0-3; reset 3 (table). -/
  level : Nat := 3
  /-- [R730] level the measurements ask for by falling, with the local tick since when; reset none. DC -/
  falling : Option (Nat × Nat) := none
  /-- [R730] level the measurements ask for by rising, with the local tick since when; reset none. DC -/
  rising : Option (Nat × Nat) := none
  deriving DecidableEq, Repr

/-- A field I/O die as the core die and the die itself see it (R714, R727-R729, R755). -/
structure FioDie where
  /-- [R714] stale; reset 1 (table). -/
  stale : Bool := true
  /-- [R729] the die sends stale-flagged frames (hb_lost); reset 0 (table). -/
  hbLost : Bool := false
  /-- [R728] the die lost its frames in a power state change that the supervisor ordered; reset 0. DC -/
  quiet : Bool := false
  /-- [R727] the die is in HB_LOST; reset 0. DC -/
  lost : Bool := false
  /-- [R714] local tick of the last valid frame from the die; reset 0. DC -/
  rxTick : Nat := 0
  /-- [R727] local tick of the last valid frame at the die; reset 0. DC -/
  dieTick : Nat := 0
  /-- [R755] local tick of the last valid frame from the safety die; reset 0. DC -/
  safTick : Nat := 0
  /-- [R755] assigned outputs switched off for want of safety frames; reset off. DC -/
  safLost : Bool := true
  /-- [R557] FIO_OUT_SET commands whose frame has not left the core die: command key, mask, values; reset none. DC -/
  sets : List (Nat × Nat × Nat) := []
  deriving DecidableEq, Repr

/-- Field I/O (17_field_io.md). -/
structure Fio where
  /-- [R713] field inputs 0-63; reset as their fields. DC -/
  ins : SMap FieldIn := []
  /-- [R720] fast latch inputs 0-15 (wire_break unused); reset as their fields. DC -/
  latches : SMap FieldIn := []
  /-- [R723] field outputs 0-31; reset as their fields. DC -/
  outs : SMap FieldOut := []
  /-- [R730] supply groups 0-3; reset as their fields. DC -/
  sups : SMap SupplyGroup := []
  /-- [R727] dies 0 and 1; reset as their fields. DC -/
  dies : SMap FioDie := []
  deriving DecidableEq, Repr

/-! ### 18_safety.md -/

/-- [R765] state of the safety island. -/
inductive SafState where
  | start | waitConfig | unconfirmed | run | halted
  deriving DecidableEq, Repr

/-- An STO group (R737-R743). -/
structure StoGroup where
  /-- [R739] latched causes 1-12, ascending; reset cause 3 (table). -/
  causes : List Nat := [3]
  /-- [R740] causes latched since the group was last released; reset cause 3. DC -/
  since : List Nat := [3]
  /-- [R742] a release test is under way; reset 0 (table). -/
  testing : Bool := false
  /-- [R737] released (both switches closed); reset asserted (table). -/
  released : Bool := false
  /-- [R742] switch readbacks; reset open (table). -/
  rb : Readback := {}
  /-- [R742] local tick of the last dark-pulse test or release; reset 0. DC -/
  darkTick : Nat := 0
  /-- [R742] a low-side dark pulse is due; reset 0. DC -/
  lowDue : Bool := false
  deriving DecidableEq, Repr

/-- A safe input SI0-SI7 (R745-R747). -/
structure SafeIn where
  /-- [R746] filtered state, true healthy; reset 0 (table). -/
  state : Bool := false
  /-- [R746] raw; reset 0 (table). -/
  raw : Bool := false
  /-- [R747] test_fail; reset 0 (table). -/
  testFail : Bool := false
  deriving DecidableEq, Repr

/-- A monitored axis's tap (R748, R749). -/
structure SafTap where
  /-- [R748] quadrature count, 64 bits; reset 0. DC -/
  count : Int := 0
  /-- [R748] accepted levels A, B; reset low. DC -/
  levels : Bool × Bool := (false, false)
  /-- [R748] 200 MHz sample count of the last edge on A or B, 32 bits; reset none. DC -/
  edge : Option (BitVec 32) := none
  /-- [R749] 40 MHz-domain local ticks of the last 3 illegal transitions, newest first; reset none. DC -/
  illegal : List Nat := []
  /-- [R748] last raw serial value; reset none. DC -/
  raw : Option Nat := none
  /-- [R748] unwrapped serial position, raw units; reset 0. DC -/
  unwrapped : Int := 0
  /-- [R749] local tick of the last good serial word; reset 0. DC -/
  goodTick : Nat := 0
  /-- [R749] consecutive bad serial words; reset 0. DC -/
  badRun : Nat := 0
  /-- [R749] tap positions of the last 9 safe cycles, newest first, turns (exact); reset none. DC -/
  hist : List Rat := []
  /-- [R749] safe speed v_s, turns/s; reset 0 (table). -/
  vs : Rat := 0
  /-- [R749] speed the core die reports, Q32.32; reset 0. DC -/
  core : Q32 := 0
  /-- [R749] safe cycles for which |v_s - v_core| has exceeded plaus_tol; reset 0. DC -/
  devRun : Nat := 0
  /-- [R749] implausible; reset 0. DC -/
  implausible : Bool := false
  /-- [R26] implausible on the tap's own evidence: illegal transitions or serial words; reset 0. DC -/
  ownBad : Bool := false
  deriving DecidableEq, Repr

/-- [R750] state of a function instance. -/
inductive FuncState where
  | inactive | active | stopping | sos | done | violated
  deriving DecidableEq, Repr

/-- A function instance's running state (R750-R753). -/
structure SafFunc where
  /-- [R750] state; reset INACTIVE (table). -/
  state : FuncState := .inactive
  /-- [R750] request active; reset 0 (table). -/
  request : Bool := false
  /-- [R750] ssm; reset 0 (table). -/
  ssm : Bool := false
  /-- [R750] safe cycles since the request became active; reset 0. DC -/
  cycles : Nat := 0
  /-- [R750] v0, turns/s; reset 0. DC -/
  v0 : Rat := 0
  /-- [R750] reference or extreme position, turns; reset 0. DC -/
  ref : Rat := 0
  /-- [R750] consecutive cycles above the SLS limit; reset 0. DC -/
  overRun : Nat := 0
  /-- [R750] the SOS part of SS2-r has been entered since the request became active; reset 0. DC -/
  sos : Bool := false
  deriving DecidableEq, Repr

/-- [R758] state of a safe connection. -/
inductive ConnState where
  | unused | waiting | valid | fault | sending
  deriving DecidableEq, Repr

/-- A safe connection 0-15 (R757-R761). -/
structure SafConn where
  /-- [R758] state; reset unused (table). -/
  state : ConnState := .unused
  /-- [R757] seq, 32 bits; reset 0 (table). -/
  seq : BitVec 32 := 0
  /-- [R759] kind of the last fault; reset 0 (table). -/
  fault : Nat := 0
  /-- [R759] first copies held: copy, seq, bytes 4-31 and the local tick the window opened, newest first; reset none. DC -/
  held : List (Nat × BitVec 32 × List Byte × Nat) := []
  /-- [R759] data of the last valid pair; reset none. DC -/
  data : Option (BitVec 128) := none
  /-- [R759] local tick of the last valid pair (watchdog); reset 0. DC -/
  pairTick : Nat := 0
  /-- [R759] kinds of the faults since the last valid pair; reset none. DC -/
  kinds : List Nat := []
  /-- [R757] local tick of the last pair sent; reset 0. DC -/
  sendTick : Nat := 0
  deriving DecidableEq, Repr

/-- A monitored axis record (R762, type 3). -/
structure SafAxisCfg where
  /-- [R762] tap: 1 quadrature, 2 SSI, 3 LSP; reset 1. DC -/
  tap : Nat := 1
  /-- [R762] window 1-8; reset 1. DC -/
  window : Nat := 1
  /-- [R762] direction inverted; reset 0. DC -/
  inverted : Bool := false
  /-- [R762] counts per turn; reset 4. DC -/
  cpt : Nat := 4
  /-- [R762] st_bits; reset 0. DC -/
  stBits : Nat := 0
  /-- [R762] mt_bits; reset 0. DC -/
  mtBits : Nat := 0
  /-- [R762] SSI frame bits; reset 0. DC -/
  ssiBits : Nat := 0
  /-- [R762] SSI position LSB; reset 0. DC -/
  ssiLsb : Nat := 0
  /-- [R762] SSI Gray; reset 0. DC -/
  ssiGray : Bool := false
  /-- [R762] plaus_time, ms; reset 1. DC -/
  plausTime : Nat := 1
  /-- [R762] plaus_tol, binary32; reset 0. DC -/
  plausTol : F32 := 0
  /-- [R762] jump_limit, binary32; reset 0. DC -/
  jump : F32 := 0
  deriving DecidableEq, Repr

/-- A connection record (R762, type 5). -/
structure SafConnCfg where
  /-- [R762] outbound; reset inbound. DC -/
  outbound : Bool := false
  /-- [R762] group mask; reset 0. DC -/
  mask : Nat := 0
  /-- [R762] conn_id; reset 0. DC -/
  id : Nat := 0
  /-- [R762] period, ms; reset 1. DC -/
  period : Nat := 1
  /-- [R762] watchdog, ms; reset 2. DC -/
  watchdog : Nat := 2
  /-- [R762] window, ms (0 for 2 ms); reset 0. DC -/
  window : Nat := 0
  /-- [R762] destination IPv4 address, 32 bits; reset 0. DC -/
  addr : Nat := 0
  /-- [R762] destination UDP port; reset 0. DC -/
  udp : Nat := 0
  deriving DecidableEq, Repr

/-- A function instance record (R762, type 6). -/
structure SafFuncCfg where
  /-- [R750] function code 1-8; reset 1. DC -/
  fn : Nat := 1
  /-- [R762] group; reset 0. DC -/
  group : Nat := 0
  /-- [R762] monitored axis, 255 none; reset 255. DC -/
  axis : Nat := 255
  /-- [R762] request: 0 always, 1 safe input, 2 connection bit; reset 0. DC -/
  req : Nat := 0
  /-- [R762] input or connection; reset 0. DC -/
  src : Nat := 0
  /-- [R762] bit; reset 0. DC -/
  bit : Nat := 0
  /-- [R762] p1-p5, binary32; reset none. DC -/
  p : List F32 := []
  deriving DecidableEq, Repr

/-- The safety configuration in force (R762). -/
structure SafConfig where
  /-- [R762] the image as delivered; reset none. DC -/
  image : List Byte := []
  /-- [R762] per group 0-7: sto_restart and test_interval in minutes; reset none (1 and 60, R762). -/
  groups : SMap (Nat × Nat) := []
  /-- [R738] group of each channel 0-79 plus one, 0 none; reset none. DC -/
  assign : SMap Nat := []
  /-- [R762] monitored axes; reset none. DC -/
  axes : SMap SafAxisCfg := []
  /-- [R762] safe inputs: enable and si_filter in ms; reset none. DC -/
  inputs : SMap (Bool × Nat) := []
  /-- [R762] connections; reset none. DC -/
  conns : SMap SafConnCfg := []
  /-- [R762] function instances; reset none. DC -/
  funcs : SMap SafFuncCfg := []
  /-- [R754] brakes: field output plus one by channel; reset none. DC -/
  brakes : SMap Nat := []
  deriving DecidableEq, Repr

/-- The safety island (18_safety.md). -/
structure Safety where
  /-- [R765] state; reset START (table). -/
  state : SafState := .start
  /-- [R768] internal-fault restarts, 8 bits; reset 0 (table). -/
  restarts : Nat := 0
  /-- [R766] local ticks of internal-fault restarts within the last hour, newest first; reset none. DC -/
  restartTicks : List Nat := []
  /-- [R739] last_cause; reset 3 (table). -/
  lastCause : Nat := 3
  /-- [R764] confirmed check value; reset none (table). -/
  confirmed : Option (BitVec 32) := none
  /-- [R762] configuration in force; reset none. DC -/
  config : SafConfig := {}
  /-- [R764] persistent safety image of the supervisor's store; reset none. DC -/
  stored : List Byte := []
  /-- [R737] STO groups 0-7; reset as their fields. DC -/
  groups : SMap StoGroup := []
  /-- [R745] safe inputs; reset as their fields. DC -/
  ins : SMap SafeIn := []
  /-- [R749] taps by servo axis; reset as their fields. DC -/
  taps : SMap SafTap := []
  /-- [R750] function instances; reset as their fields. DC -/
  funcs : SMap SafFunc := []
  /-- [R758] connections; reset as their fields. DC -/
  conns : SMap SafConn := []
  /-- [R759] safe cycle count, 32 bits; reset 0. DC -/
  cycle : BitVec 32 := 0
  /-- [R739] local tick of the last core-die report; reset 0. DC -/
  coreTick : Nat := 0
  /-- [R739] the core die's reports are absent (cause 11's condition); reset 0. DC -/
  coreLost : Bool := false
  /-- [R754] channels for which the core die requests brake release; reset none. DC -/
  brakeReq : List Nat := []
  /-- [R754] brake outputs commanded on, by channel; reset none. DC -/
  brakeOn : List Nat := []
  /-- [R756] channels whose latest brake test failed; reset none. DC -/
  brakeFail : List Nat := []
  /-- [R739] causes that arose since the last safe cycle, with the mask of the groups concerned, oldest first; reset none. DC -/
  due : List (Nat × Nat) := []
  /-- [R741] SAF_ACK commands accepted and not yet acted on: command key and mask, oldest first; reset none. DC -/
  ack : List (Nat × Nat) := []
  /-- [R741] SAF_ACK commands that wait for release tests: command key, mask, groups still in test; reset none. DC -/
  ackWait : List (Nat × Nat × List Nat) := []
  /-- [R36] stamp of the last event that a report carried, FT.8; reset 0. DC -/
  stamp : Ft8 := 0
  /-- [R751] stop requests for the next report: group and category; reset none. DC -/
  stopReqs : List (Nat × Nat) := []
  /-- [R691] class 3 frames handed over with port and receive stamp, newest first; reset none. DC -/
  inbox : List (Nat × List Byte × Ft8) := []
  /-- [R690] safe frames (first copies) handed over to the core die and not yet sent: connection and bytes, oldest first;
  reset none. DC -/
  outbox : List (Nat × List Byte) := []
  deriving DecidableEq, Repr


/-! ### 19_power_boot_service.md, 20_electrical_package.md -/

/-- [R771] The power states, codes 0-4. -/
inductive PwrState where
  | ramble | stroll | rest | blanket | hamper
  deriving DecidableEq, Repr

/-- A change of power state in progress (R773). -/
structure PwrChange where
  /-- [R772] state left; reset Ramble. DC -/
  from_ : PwrState := .ramble
  /-- [R773] target state, PWR_STATUS [6:4]; reset Ramble. DC -/
  target : PwrState := .ramble
  /-- [R774] an entry to a lower state (false: the exit to Ramble); reset 0. DC -/
  entry : Bool := false
  /-- [R772] command key of the PWR_ENTER that asked; reset none. DC -/
  cmd : Option Nat := none
  deriving DecidableEq, Repr

/-- A firmware bank's image area (R789-R791). -/
structure FwBank where
  /-- [R784] the bank holds what it was made with, of which the spec states nothing (log entry 57); reset 1. DC -/
  factory : Bool := true
  /-- [R790] total image bytes announced, 32 bits; reset 0. DC -/
  total : Nat := 0
  /-- [R790] bytes written since the erase, by offset; reset none. DC -/
  bytes : SMap (Option Byte) := []
  /-- [R784] the bank's header is intact and it is not marked invalid; reset 0. DC -/
  valid : Bool := false
  /-- [R789] version, 32 bits; reset 0. DC -/
  version : BitVec 32 := 0
  /-- [R789] slot_format, 16 bits; reset 0. DC -/
  slotFormat : Nat := 0
  /-- [R791] activation sequence; reset 0. DC -/
  seq : Nat := 0
  deriving DecidableEq, Repr

/-- A persistent configuration record (R786). -/
structure CfgRecord where
  /-- [R786] sequence number; reset 0. DC -/
  seq : Nat := 0
  /-- [R786] the CRC-32 holds; reset 0 (no record). DC -/
  valid : Bool := false
  /-- [R786] the configuration saved; reset empty. DC -/
  cfg : SMap Nat := []
  /-- [R786] the safety image saved with it; reset empty. DC -/
  safety : List Byte := []
  /-- [R551] the pre-shared keys saved with it; reset none. DC -/
  keys : SMap (List Byte) := []
  deriving DecidableEq, Repr

/-- A migration pending on a servo axis (R795-R799). -/
structure Migration where
  /-- [R796] axis 0-31; reset 0. DC -/
  axis : Nat := 0
  /-- [R797] source engine; reset 0. DC -/
  source : Nat := 0
  /-- [R797] target engine; reset 0. DC -/
  target : Nat := 0
  /-- [R796] B as XT.16; reset 0. DC -/
  b : Nat := 0
  /-- [R799] command key; reset none (a rescue). DC -/
  cmd : Option Nat := none
  /-- [R799] the handover copy has run and the target's first commit is awaited; reset 0. DC -/
  moved : Bool := false
  deriving DecidableEq, Repr

/-- Power, start-up and service (19_power_boot_service.md). -/
structure Power where
  /-- [R771] state, PWR_STATUS [2:0]; reset Ramble (table). -/
  state : PwrState := .ramble
  /-- [R773] the change in progress; reset none (target 0, table). -/
  change : Option PwrChange := none
  /-- [R775] a wake cause is held until the entry completes; reset 0. DC -/
  wakeHeld : Bool := false
  /-- [R804] domains, bit n: Dn powered, 8 bits; reset 0x07 (table). -/
  domains : BitVec 8 := 0x07
  /-- [R781] case_temp, signed, 0.1 C, 16 bits; reset 0 (table). -/
  caseTemp : Int := 0
  /-- [R782] consecutive readings above 110 C, at most 10; reset 0. DC -/
  hotRun : Nat := 0
  /-- [R782] thermal_stop; reset 0 (table). -/
  thermalStop : Bool := false
  /-- [R781] local tick of the last THERMAL record; reset none. DC -/
  thermalLog : Option Nat := none
  /-- [R777] reset_cause, 8 bits; reset 0x01 (POWER_ON). DC -/
  resetCause : Nat := 1
  /-- [R779] the bank named by the verified-image record (false A); reset none. DC -/
  verified : Option Bool := none
  /-- [R778] stored LPDDR training values present; reset 0. DC -/
  training : Bool := false
  /-- [R778] interrupted-command records of D0; reset none. DC -/
  d0Interrupted : List Interrupted := []
  /-- [R784] firmware bank A; reset empty. DC -/
  bankA : FwBank := {}
  /-- [R784] firmware bank B; reset empty. DC -/
  bankB : FwBank := {}
  /-- [R791] a FW_ACTIVATE whose FT is awaited: bank (true B) and XT.16; reset none. DC -/
  activation : Option (Bool × Nat) := none
  /-- [R792] engines still running the old loop library; reset none. DC -/
  oldEngines : List Nat := []
  /-- [R792] servo axes still running the old vendor thread code; reset none. DC -/
  oldAxes : List Nat := []
  /-- [R786] configuration record of bank A; reset none. DC -/
  recA : CfgRecord := {}
  /-- [R786] configuration record of bank B; reset none. DC -/
  recB : CfgRecord := {}
  /-- [R796] migrations pending, oldest first; reset none (0, table). -/
  migrations : List Migration := []
  /-- [R801] engine groups switched off by PWR_DOMAIN: 0 for D3, 1 for D4; reset none. DC -/
  groupOff : List Nat := []
  /-- [R801] a PWR_DOMAIN switching a group on awaits its engines: group (false D3), command key; reset none. DC -/
  groupOn : Option (Bool × Nat) := none
  /-- [R794] a supervisor restart is in progress, with its cause; reset none. DC -/
  restarting : Option Nat := none
  /-- [R822] SYS_RST_N is held low; reset 0. DC -/
  rstHeld : Bool := false
  /-- [R777] the thermal-trip reset is held; reset 0. DC -/
  tripHeld : Bool := false
  /-- [R783] the start-up runs on the fast path; reset 0. DC -/
  fast : Bool := false
  /-- [R809] VIN12 and VSTBY are good; reset 0. DC -/
  good : Bool := false
  /-- [R780] a brownout has put the module in Hamper; reset 0. DC -/
  brownout : Bool := false
  /-- [R785] the boot ROM found no valid bank (SUP_BOOT_PROGRESS 0xFE); reset 0. DC -/
  rescue : Bool := false
  /-- [R778] the bank the supervisor booted by FW_ACTIVATE at its FT awaits BANK_ACTIVATED; reset none. DC -/
  activatedLog : Option Bool := none
  deriving DecidableEq, Repr

/-! ### The machine -/

/-- Why a command stops with a fault. -/
inductive Fault where
  /-- Raised by the engine loads, and outside hook code by the stores and BLD, when the address lies outside the 256 KiB local
  memory, which the spec says does not exist (R167). Safe: the model stops where the spec gives no effect. -/
  | addressOutsideLocalMemory
  deriving DecidableEq, Repr

/-- Why a command has no meaning. -/
inductive Refusal where
  /-- A row of the table whose meaning is not written. Raised by no arm of a finished model. Safe: the model stops. -/
  | notModelled (mnemonic : String)
  deriving DecidableEq, Repr

/-- A command that waits on an object and completes with it (R544, R554). -/
structure Waiter where
  /-- [R554] endpoint of the object; reset 0. DC -/
  ep : Nat := 0
  /-- [R554] opcode, 16 bits; reset 0. DC -/
  opcode : BitVec 16 := 0
  /-- [R530] command key; reset 0. DC -/
  key : Nat := 0
  deriving DecidableEq, Repr

/-- The block's state. Maps keyed by an index hold no entry for an index whose object is as at reset. -/
structure State where
  /-- [block] commands waiting, first in first out; reset empty. -/
  pending : List Instr := []
  /-- [R87] local clock: 64 MHz ticks since power-up, from which every duration is counted; reset 0. DC -/
  tick : Nat := 0
  /-- [model] the model's own count of free values taken (log entry 4), not the spec's; reset 0. DC -/
  freeCtr : Nat := 0
  /-- [R59] the time unit and XT; reset as its fields. -/
  time : TimeUnit := {}
  /-- [R35] TDC channels by marker path number; reset as their fields. -/
  tdc : SMap TdcChannel := []
  /-- [R39] tap weights of the TDC delay lines; reset as its fields. -/
  tdcCal : TdcCal := {}
  /-- [R545] committed parameters, raw little-endian, keyed by endpoint, code and index; reset the defaults of the
  parameter tables (R19). -/
  cfg : SMap Nat := []
  /-- [R21] counters, 32 bits, keyed by endpoint, code and index; reset 0 (R21). -/
  ctr : SMap Nat := []
  /-- [R40] PWM unit by servo axis; reset as its fields. -/
  pwm : SMap PwmAxis := []
  /-- [R97] quadrature decoders by servo axis; reset as their fields. -/
  quad : SMap QuadDecoder := []
  /-- [R110] serial ports by servo axis; reset as their fields. -/
  serial : SMap SerialPort := []
  /-- [R159] feedback by servo axis; reset as its fields. -/
  fb : SMap Feedback := []
  /-- [R214] loops by servo axis; reset as their fields. -/
  loop : SMap ServoLoop := []
  /-- [R237] flags and run counts by servo axis; reset as their fields. -/
  flags : SMap ServoFlags := []
  /-- [R255] field control by servo axis; reset as its fields. -/
  foc : SMap Foc := []
  /-- [R223] compensator sections by axis * 8 + slot; reset as their fields. -/
  sections : SMap Section := []
  /-- [R56] state records by servo axis, the two buffers newest first; reset none. DC -/
  records : SMap (List AxisRecord) := []
  /-- [R259] last DC-link conversion of inputs 0-31, 16 bits; reset 0. DC -/
  dc : SMap Nat := []
  /-- [R166] loop engines LE0-LE15; reset as their fields. -/
  engines : SMap Engine := []
  /-- [R168] coefficient bank, bytes by address; reset all zero. DC -/
  bank : List Host.Cell := []
  /-- [R554] commands that wait on an axis, channel or buffer, in acceptance order; reset none. DC -/
  waiters : List Waiter := []
  /-- [R303] auxiliary drives AX0-AX15; reset as their fields. -/
  aux : SMap AuxDrive := []
  /-- [R315] trails by endpoint; reset as their fields. -/
  trails : SMap Trail := []
  /-- [R372] followers by endpoint; reset as their fields. -/
  followers : SMap Follower := []
  /-- [R376] publishers CP0-CP15; reset as their fields. -/
  publishers : SMap Publisher := []
  /-- [R374] virtual axes VA0-VA255; reset as their fields. -/
  virt : SMap VirtualAxis := []
  /-- [R413] remote axes NA0-NA127; reset as their fields. -/
  remote : SMap RemoteAxis := []
  /-- [R395] cam tables 0-255; reset empty. DC -/
  cams : SMap CamTable := []
  /-- [R417] stepper channels ST0-ST31; reset as their fields. -/
  steppers : SMap Stepper := []
  /-- [R444] capture channels CC0-CC255; reset as their fields. -/
  caps : SMap CapChannel := []
  /-- [R474] capture memory and spill region; reset as its fields. -/
  capMem : CapMem := {}
  /-- [R488] mailboxes 0-63; reset as their fields. -/
  mailboxes : SMap Mailbox := []
  /-- [R495] sessions open, by mailbox; reset none. DC -/
  sessions : SMap (Option Session) := []
  /-- [R485] supervisor registers and stores; reset as its fields. -/
  host : Host_ := {}
  /-- [R533] event ring and log; reset as its fields. -/
  events : Events := {}
  /-- [R525] lock tables; reset as its fields. -/
  locks : Locks := {}
  /-- [R574] the thread scheduler; reset as its fields. -/
  sched : Sched := {}
  /-- [R607] arbiters by number; reset as their fields. -/
  arbs : SMap Arbiter := []
  /-- [R622] fabric ports FP0-FP3; reset as their fields. -/
  fabPorts : SMap FabPort := []
  /-- [R641] the module in the fabric; reset as its fields. -/
  fabric : Fabric := {}
  /-- [R672] Ethernet ports 0-1; reset as their fields. -/
  eth : SMap EthPort := []
  /-- [R694] CAN channels CAN0-CAN3; reset as their fields. -/
  can : SMap CanCh := []
  /-- [R712] field I/O; reset as its fields. -/
  fio : Fio := {}
  /-- [R734] the safety island; reset as its fields. -/
  safety : Safety := {}
  /-- [R770] power, start-up and service; reset as its fields. -/
  power : Power := {}
  deriving DecidableEq, Repr

/-- The machine right after reset: every field at the value its docstring states. -/
def State.reset : State := {}

end Sys2Proof.Machine
end

