-- ==== Sys2Proof/Machine/Access.lean ====
section
/-! DEFINITION. Reading and writing the objects of the state by index: one getter, one setter and one modifier per map of
`State`. An index without an entry reads as the object at reset. -/

namespace Sys2Proof.Machine

/-- Object `i` of `tdc`. -/
def State.getTdc (s : State) (i : Nat) : TdcChannel := mget s.tdc i {}
/-- `s` with object `i` of `tdc` set to `v`. -/
def State.setTdc (s : State) (i : Nat) (v : TdcChannel) : State := { s with tdc := mset s.tdc i v {} }
/-- `s` with `g` applied to object `i` of `tdc`. -/
def State.modTdc (s : State) (i : Nat) (g : TdcChannel → TdcChannel) : State := s.setTdc i (g (s.getTdc i))

/-- Object `i` of `pwm`. -/
def State.getPwm (s : State) (i : Nat) : PwmAxis := mget s.pwm i {}
/-- `s` with object `i` of `pwm` set to `v`. -/
def State.setPwm (s : State) (i : Nat) (v : PwmAxis) : State := { s with pwm := mset s.pwm i v {} }
/-- `s` with `g` applied to object `i` of `pwm`. -/
def State.modPwm (s : State) (i : Nat) (g : PwmAxis → PwmAxis) : State := s.setPwm i (g (s.getPwm i))

/-- Object `i` of `quad`. -/
def State.getQuad (s : State) (i : Nat) : QuadDecoder := mget s.quad i {}
/-- `s` with object `i` of `quad` set to `v`. -/
def State.setQuad (s : State) (i : Nat) (v : QuadDecoder) : State := { s with quad := mset s.quad i v {} }
/-- `s` with `g` applied to object `i` of `quad`. -/
def State.modQuad (s : State) (i : Nat) (g : QuadDecoder → QuadDecoder) : State := s.setQuad i (g (s.getQuad i))

/-- Object `i` of `serial`. -/
def State.getSerial (s : State) (i : Nat) : SerialPort := mget s.serial i {}
/-- `s` with object `i` of `serial` set to `v`. -/
def State.setSerial (s : State) (i : Nat) (v : SerialPort) : State := { s with serial := mset s.serial i v {} }
/-- `s` with `g` applied to object `i` of `serial`. -/
def State.modSerial (s : State) (i : Nat) (g : SerialPort → SerialPort) : State := s.setSerial i (g (s.getSerial i))

/-- Object `i` of `fb`. -/
def State.getFb (s : State) (i : Nat) : Feedback := mget s.fb i {}
/-- `s` with object `i` of `fb` set to `v`. -/
def State.setFb (s : State) (i : Nat) (v : Feedback) : State := { s with fb := mset s.fb i v {} }
/-- `s` with `g` applied to object `i` of `fb`. -/
def State.modFb (s : State) (i : Nat) (g : Feedback → Feedback) : State := s.setFb i (g (s.getFb i))

/-- Object `i` of `loop`. -/
def State.getLoop (s : State) (i : Nat) : ServoLoop := mget s.loop i {}
/-- `s` with object `i` of `loop` set to `v`. -/
def State.setLoop (s : State) (i : Nat) (v : ServoLoop) : State := { s with loop := mset s.loop i v {} }
/-- `s` with `g` applied to object `i` of `loop`. -/
def State.modLoop (s : State) (i : Nat) (g : ServoLoop → ServoLoop) : State := s.setLoop i (g (s.getLoop i))

/-- Object `i` of `flags`. -/
def State.getFlags (s : State) (i : Nat) : ServoFlags := mget s.flags i {}
/-- `s` with object `i` of `flags` set to `v`. -/
def State.setFlags (s : State) (i : Nat) (v : ServoFlags) : State := { s with flags := mset s.flags i v {} }
/-- `s` with `g` applied to object `i` of `flags`. -/
def State.modFlags (s : State) (i : Nat) (g : ServoFlags → ServoFlags) : State := s.setFlags i (g (s.getFlags i))

/-- Object `i` of `foc`. -/
def State.getFoc (s : State) (i : Nat) : Foc := mget s.foc i {}
/-- `s` with object `i` of `foc` set to `v`. -/
def State.setFoc (s : State) (i : Nat) (v : Foc) : State := { s with foc := mset s.foc i v {} }
/-- `s` with `g` applied to object `i` of `foc`. -/
def State.modFoc (s : State) (i : Nat) (g : Foc → Foc) : State := s.setFoc i (g (s.getFoc i))

/-- Object `i` of `sections`. -/
def State.getSection (s : State) (i : Nat) : Section := mget s.sections i {}
/-- `s` with object `i` of `sections` set to `v`. -/
def State.setSection (s : State) (i : Nat) (v : Section) : State := { s with sections := mset s.sections i v {} }
/-- `s` with `g` applied to object `i` of `sections`. -/
def State.modSection (s : State) (i : Nat) (g : Section → Section) : State := s.setSection i (g (s.getSection i))

/-- Object `i` of `records`. -/
def State.getRecord (s : State) (i : Nat) : (List AxisRecord) := mget s.records i []
/-- `s` with object `i` of `records` set to `v`. -/
def State.setRecord (s : State) (i : Nat) (v : (List AxisRecord)) : State := { s with records := mset s.records i v [] }
/-- `s` with `g` applied to object `i` of `records`. -/
def State.modRecord (s : State) (i : Nat) (g : (List AxisRecord) → (List AxisRecord)) : State := s.setRecord i (g (s.getRecord i))

/-- Object `i` of `dc`. -/
def State.getDc (s : State) (i : Nat) : Nat := mget s.dc i 0
/-- `s` with object `i` of `dc` set to `v`. -/
def State.setDc (s : State) (i : Nat) (v : Nat) : State := { s with dc := mset s.dc i v 0 }
/-- `s` with `g` applied to object `i` of `dc`. -/
def State.modDc (s : State) (i : Nat) (g : Nat → Nat) : State := s.setDc i (g (s.getDc i))

/-- Object `i` of `engines`. -/
def State.getEngine (s : State) (i : Nat) : Engine := mget s.engines i {}
/-- `s` with object `i` of `engines` set to `v`. -/
def State.setEngine (s : State) (i : Nat) (v : Engine) : State := { s with engines := mset s.engines i v {} }
/-- `s` with `g` applied to object `i` of `engines`. -/
def State.modEngine (s : State) (i : Nat) (g : Engine → Engine) : State := s.setEngine i (g (s.getEngine i))

/-- Object `i` of `aux`. -/
def State.getAux (s : State) (i : Nat) : AuxDrive := mget s.aux i {}
/-- `s` with object `i` of `aux` set to `v`. -/
def State.setAux (s : State) (i : Nat) (v : AuxDrive) : State := { s with aux := mset s.aux i v {} }
/-- `s` with `g` applied to object `i` of `aux`. -/
def State.modAux (s : State) (i : Nat) (g : AuxDrive → AuxDrive) : State := s.setAux i (g (s.getAux i))

/-- Object `i` of `trails`. -/
def State.getTrail (s : State) (i : Nat) : Trail := mget s.trails i {}
/-- `s` with object `i` of `trails` set to `v`. -/
def State.setTrail (s : State) (i : Nat) (v : Trail) : State := { s with trails := mset s.trails i v {} }
/-- `s` with `g` applied to object `i` of `trails`. -/
def State.modTrail (s : State) (i : Nat) (g : Trail → Trail) : State := s.setTrail i (g (s.getTrail i))

/-- Object `i` of `followers`. -/
def State.getFollower (s : State) (i : Nat) : Follower := mget s.followers i {}
/-- `s` with object `i` of `followers` set to `v`. -/
def State.setFollower (s : State) (i : Nat) (v : Follower) : State := { s with followers := mset s.followers i v {} }
/-- `s` with `g` applied to object `i` of `followers`. -/
def State.modFollower (s : State) (i : Nat) (g : Follower → Follower) : State := s.setFollower i (g (s.getFollower i))

/-- Object `i` of `publishers`. -/
def State.getPublisher (s : State) (i : Nat) : Publisher := mget s.publishers i {}
/-- `s` with object `i` of `publishers` set to `v`. -/
def State.setPublisher (s : State) (i : Nat) (v : Publisher) : State := { s with publishers := mset s.publishers i v {} }
/-- `s` with `g` applied to object `i` of `publishers`. -/
def State.modPublisher (s : State) (i : Nat) (g : Publisher → Publisher) : State := s.setPublisher i (g (s.getPublisher i))

/-- Object `i` of `virt`. -/
def State.getVirt (s : State) (i : Nat) : VirtualAxis := mget s.virt i {}
/-- `s` with object `i` of `virt` set to `v`. -/
def State.setVirt (s : State) (i : Nat) (v : VirtualAxis) : State := { s with virt := mset s.virt i v {} }
/-- `s` with `g` applied to object `i` of `virt`. -/
def State.modVirt (s : State) (i : Nat) (g : VirtualAxis → VirtualAxis) : State := s.setVirt i (g (s.getVirt i))

/-- Object `i` of `remote`. -/
def State.getRemote (s : State) (i : Nat) : RemoteAxis := mget s.remote i {}
/-- `s` with object `i` of `remote` set to `v`. -/
def State.setRemote (s : State) (i : Nat) (v : RemoteAxis) : State := { s with remote := mset s.remote i v {} }
/-- `s` with `g` applied to object `i` of `remote`. -/
def State.modRemote (s : State) (i : Nat) (g : RemoteAxis → RemoteAxis) : State := s.setRemote i (g (s.getRemote i))

/-- Object `i` of `cams`. -/
def State.getCam (s : State) (i : Nat) : CamTable := mget s.cams i {}
/-- `s` with object `i` of `cams` set to `v`. -/
def State.setCam (s : State) (i : Nat) (v : CamTable) : State := { s with cams := mset s.cams i v {} }
/-- `s` with `g` applied to object `i` of `cams`. -/
def State.modCam (s : State) (i : Nat) (g : CamTable → CamTable) : State := s.setCam i (g (s.getCam i))

/-- Object `i` of `steppers`. -/
def State.getStepper (s : State) (i : Nat) : Stepper := mget s.steppers i {}
/-- `s` with object `i` of `steppers` set to `v`. -/
def State.setStepper (s : State) (i : Nat) (v : Stepper) : State := { s with steppers := mset s.steppers i v {} }
/-- `s` with `g` applied to object `i` of `steppers`. -/
def State.modStepper (s : State) (i : Nat) (g : Stepper → Stepper) : State := s.setStepper i (g (s.getStepper i))

/-- Object `i` of `caps`. -/
def State.getCap (s : State) (i : Nat) : CapChannel := mget s.caps i {}
/-- `s` with object `i` of `caps` set to `v`. -/
def State.setCap (s : State) (i : Nat) (v : CapChannel) : State := { s with caps := mset s.caps i v {} }
/-- `s` with `g` applied to object `i` of `caps`. -/
def State.modCap (s : State) (i : Nat) (g : CapChannel → CapChannel) : State := s.setCap i (g (s.getCap i))

/-- Object `i` of `mailboxes`. -/
def State.getMbx (s : State) (i : Nat) : Mailbox := mget s.mailboxes i {}
/-- `s` with object `i` of `mailboxes` set to `v`. -/
def State.setMbx (s : State) (i : Nat) (v : Mailbox) : State := { s with mailboxes := mset s.mailboxes i v {} }
/-- `s` with `g` applied to object `i` of `mailboxes`. -/
def State.modMbx (s : State) (i : Nat) (g : Mailbox → Mailbox) : State := s.setMbx i (g (s.getMbx i))

/-- Object `i` of `sessions`. -/
def State.getSession (s : State) (i : Nat) : (Option Session) := mget s.sessions i none
/-- `s` with object `i` of `sessions` set to `v`. -/
def State.setSession (s : State) (i : Nat) (v : (Option Session)) : State := { s with sessions := mset s.sessions i v none }
/-- `s` with `g` applied to object `i` of `sessions`. -/
def State.modSession (s : State) (i : Nat) (g : (Option Session) → (Option Session)) : State := s.setSession i (g (s.getSession i))

/-- Object `i` of `arbs`. -/
def State.getArb (s : State) (i : Nat) : Arbiter := mget s.arbs i {}
/-- `s` with object `i` of `arbs` set to `v`. -/
def State.setArb (s : State) (i : Nat) (v : Arbiter) : State := { s with arbs := mset s.arbs i v {} }
/-- `s` with `g` applied to object `i` of `arbs`. -/
def State.modArb (s : State) (i : Nat) (g : Arbiter → Arbiter) : State := s.setArb i (g (s.getArb i))

/-- Object `i` of `fabPorts`. -/
def State.getFabPort (s : State) (i : Nat) : FabPort := mget s.fabPorts i {}
/-- `s` with object `i` of `fabPorts` set to `v`. -/
def State.setFabPort (s : State) (i : Nat) (v : FabPort) : State := { s with fabPorts := mset s.fabPorts i v {} }
/-- `s` with `g` applied to object `i` of `fabPorts`. -/
def State.modFabPort (s : State) (i : Nat) (g : FabPort → FabPort) : State := s.setFabPort i (g (s.getFabPort i))

/-- Object `i` of `eth`. -/
def State.getEth (s : State) (i : Nat) : EthPort := mget s.eth i {}
/-- `s` with object `i` of `eth` set to `v`. -/
def State.setEth (s : State) (i : Nat) (v : EthPort) : State := { s with eth := mset s.eth i v {} }
/-- `s` with `g` applied to object `i` of `eth`. -/
def State.modEth (s : State) (i : Nat) (g : EthPort → EthPort) : State := s.setEth i (g (s.getEth i))

/-- Object `i` of `can`. -/
def State.getCan (s : State) (i : Nat) : CanCh := mget s.can i {}
/-- `s` with object `i` of `can` set to `v`. -/
def State.setCan (s : State) (i : Nat) (v : CanCh) : State := { s with can := mset s.can i v {} }
/-- `s` with `g` applied to object `i` of `can`. -/
def State.modCan (s : State) (i : Nat) (g : CanCh → CanCh) : State := s.setCan i (g (s.getCan i))

/-- `s` with `g` applied to `host`. -/
def State.modHost (s : State) (g : Host_ → Host_) : State := { s with host := g s.host }

/-- `s` with `g` applied to `events`. -/
def State.modEvents (s : State) (g : Events → Events) : State := { s with events := g s.events }

/-- `s` with `g` applied to `fabric`. -/
def State.modFabric (s : State) (g : Fabric → Fabric) : State := { s with fabric := g s.fabric }

/-- `s` with `g` applied to `fio`. -/
def State.modFio (s : State) (g : Fio → Fio) : State := { s with fio := g s.fio }

/-- `s` with `g` applied to `safety`. -/
def State.modSafety (s : State) (g : Safety → Safety) : State := { s with safety := g s.safety }

/-- `s` with `g` applied to `power`. -/
def State.modPower (s : State) (g : Power → Power) : State := { s with power := g s.power }

/-- `s` with `g` applied to `sched`. -/
def State.modSched (s : State) (g : Sched → Sched) : State := { s with sched := g s.sched }

/-- `s` with `g` applied to `time`. -/
def State.modTime (s : State) (g : TimeUnit → TimeUnit) : State := { s with time := g s.time }

/-- `s` with `g` applied to `capMem`. -/
def State.modCapMem (s : State) (g : CapMem → CapMem) : State := { s with capMem := g s.capMem }

/-- `s` with `g` applied to `locks`. -/
def State.modLocks (s : State) (g : Locks → Locks) : State := { s with locks := g s.locks }

end Sys2Proof.Machine
end

