-- ==== Sys2Proof/Config.lean ====
section
/-! DEFINITION. What the spec leaves open: functions and values without a body, so that no proof can see one. Each is a free
value of the model; the assumption log's entries name them. -/

namespace Sys2Proof.Config

/-- A fresh free value, applied to the model's own count `freeCtr` (log entry 4). -/
opaque freeNat : Nat → Nat

/-- Entries 1 to 1,023 of the factory default of stp_table, the sine, 16 bits each, whose rounding the spec does not state (log
entry 18). -/
opaque sineTable : Nat

/-- sin of an angle in turns, exact result not stated by the spec (log entry 11). -/
opaque sinTurn : Rat → Rat
/-- cos of an angle in turns (log entry 11). -/
opaque cosTurn : Rat → Rat
/-- Square root (log entry 11). -/
opaque sqrt : Rat → Rat
/-- Natural exponential (log entry 11). -/
opaque exp : Rat → Rat
/-- Arctangent of y, x in turns (log entry 11). -/
opaque atan2Turn : Rat → Rat → Rat
/-- The ratio of a circle's circumference to its diameter (log entry 11). -/
opaque pi : Rat

/-- Time servo (R65, R66): servo_bandwidth (Hz), offset in FT.16 units and the state it acts from give the demanded rate in
2^-32 ns per tick (log entry 12). -/
opaque timeServo : Rat → Int → Int → Int

/-- The offset the time servo predicts for the next measurement (R70): the last offset in FT.16 units, ticks since, rate in
2^-32 ns per tick (log entry 12). -/
opaque servoPrediction : Int → Nat → Int → Int

/-- What a byte of an engine's local memory reads as where the spec states no content: the loop library and runtime areas, a state
record, a free queue entry (R167, R168): engine, address and local tick (log entry 71). -/
opaque localByte : Nat → Nat → Nat → Nat

/-- Control register that a number in a MFC or MTC word names, in the order of R171's table from LE_ESR on; the numbers are not in
the spec (log entry 24). -/
opaque ctrlNo : Nat → Nat

/-- Byte of a TABLE's data, whose coding the spec does not state (R637): generation, kind, the data's numbers and the byte's place (log
entry 91). -/
opaque tableByte : Nat → Nat → List Nat → Nat → Nat

/-- Byte of the follower part of a segment queue entry (R331): the part's numbers and the byte's place (log entry 91). -/
opaque followerByte : List Int → Nat → Nat

/-- Request identifier of a lock message, and the word by which a graph query names a session (R632, R664): the session's device and
number (log entry 91). -/
opaque lockIdent : Nat → Nat → Nat
opaque graphWord : Nat → Nat → Nat

/-- What a frame of plant Ethernet holds that the spec does not state: the MAC address of a port; the IPv4 identification, lifetime and
type of service, and the UDP checksum of the n-th frame a port sends; the UDP source port by kind of datagram; the identity, flags and
log interval of a PTP message by type (log entry 91). -/
opaque portMac : Nat → Nat
opaque ipWord : Nat → Nat → Nat → Nat
opaque udpSource : Nat → Nat → Nat
opaque ptpWord : Nat → Nat → Nat

/-- Bytes of a configuration record, whose layout the spec does not give, by the count of free values (R786; log entry 59). -/
opaque recordBytes : Nat → List (BitVec 8)

/-- How far a planned entry's raws may lie from the values of R322 to R328, R345 and R346 by rounding, which the spec does not state
(log entry 93). -/
opaque planTol : Nat

/-- A length along a path whose members lie on other modules too: from the length over the members here (R344; log entry 93). -/
opaque pathLength : Rat → Rat

/-- The planned speed at a blended waymark under limited jerk, from the squares of the highest allowed and the highest reachable one
without it (R328, R339; log entry 93). -/
opaque waySpeed : Rat → Rat → Rat

/-- Whether a motion comes to rest within its way under limited jerk (R324): velocity, acceleration, way left to the waymark, square of
the speed allowed there, deceleration and jerk (log entry 93). -/
opaque planRest : Rat → Rat → Rat → Rat → Rat → Rat → Bool

/-- Path delays of the marker paths in FT.16 units (R62, R63) (log entry 13). -/
opaque pathDelay : Nat → Nat

/-- The firmware image a bank was made with is intact and its signature verifies (R784; bank B true), which the spec does not
state (log entry 57). -/
opaque factoryImageValid : Bool → Bool

/-- The module's unique identifier (R641) (log entry 14). -/
opaque uid : BitVec 64

/-- Public keys by key_index as the affine point of P-256 (R789) (log entry 15). -/
opaque publicKey : Nat → Nat × Nat
/-- A fuse revokes this key_index (R791) (log entry 15). -/
opaque keyRevoked : Nat → Bool

/-- A first-order low-pass: previous output, input, step and time constant in seconds; its discretisation is not stated
(R229 source 4; log entry 21). -/
opaque lowPass : Rat → Rat → Rat → Rat → Rat

/-- A stop ramp with a jerk limit: v0, a0, deceleration, jerk and time give displacement, velocity and acceleration; the
shape is not stated (R244; log entry 22). -/
opaque stopRamp : Rat → Rat → Rat → Rat → Rat → Rat × Rat × Rat

/-- Position setpoint of a follower in velocity gearing, whose integration the spec does not state: last position, last
velocity, velocity and step in seconds (log entry 28). -/
opaque velGearPos : Int → Int → Int → Rat → Int

/-- c1, c2, c3 of the pieces of a periodic cubic spline through cam points, as the supervisor computes them in binary64
(R395; log entry 29). -/
opaque splinePieces : List (Int × Int) → List (Int × Int × Int)

/-- What the fabric tells of a convoy that this module's own state does not: whether the number is registered, conv_lead of
its publisher in µs and the effective hop count to it (R389, R401; log entry 30). -/
opaque convoyKnown : Nat → Nat → Bool × Rat × Nat

/-- The planner's verdict that a profile of R322 with jerk, or behind other moves, reaches an ABS_AT target by its arrival:
speed and acceleration toward the target, distance in turns, limits of velocity, acceleration, deceleration and jerk per turn, and seconds
left (R321; log entry 31). -/
opaque absAtFits : Rat × Rat → Rat → Rat × Rat × Rat × Rat → Rat → Bool

/-- Volts at code 65,535 of a DC-link input as stepper channels and auxiliary drives read it: the spec gives dc_fullscale to
servo axes only (R259, R304, R441; log entry 43). -/
opaque dcFullscale : Nat → Rat

end Sys2Proof.Config
end

