-- ==== Sys2Proof/Machine/Numeric.lean ====
section
/-! DEFINITION. Number formats: binary32 parameters read exactly as rationals, and exact results narrowed to the fixed-point
formats of R3, R4 and R226 by truncation toward minus infinity and saturation (R180, R217). -/

namespace Sys2Proof.Machine

/-- 2^n as a rational. -/
def pow2 (n : Nat) : Rat := ((2 ^ n : Nat) : Rat)

/-- A binary32 raw is a NaN or an infinity (R6). -/
def f32Bad (r : Nat) : Bool := bits r 30 23 == 255

/-- The exact value of a binary32 raw; a subnormal is flushed to zero (R7). -/
def f32Val (r : Nat) : Rat :=
  let e := bits r 30 23
  let m : Nat := 8388608 + bits r 22 0
  let mag : Rat := if e = 0 then 0 else if 150 ≤ e then (m : Rat) * pow2 (e - 150) else (m : Rat) / pow2 (150 - e)
  if bitOf r 31 then -mag else mag

/-- The raw after R7: a subnormal becomes the zero of its sign. -/
def f32Flush (r : Nat) : Nat := if bits r 30 23 = 0 then (bits r 31 31) * 2147483648 else r

/-- Largest exponent k in 0..n with 2^k ≤ m (m > 0). -/
def log2Up (m : Nat) : Nat := Nat.log2 m

/-- Round a nonnegative rational to the nearest integer, ties to even. -/
def roundEven (r : Rat) : Nat :=
  let f := r.floor
  let d := r - (f : Rat)
  let up : Bool := decide (1 / 2 < d) || (decide (d = 1 / 2) && f % 2 == 1)
  (f + (if up then 1 else 0)).toNat

/-- A rational divided by 2^k. -/
def scaled (a : Rat) (k : Int) : Rat := if 0 ≤ k then a / pow2 k.toNat else a * pow2 (-k).toNat

/-- The exponent of a positive rational. -/
def expOf (a : Rat) : Int :=
  let e : Int := (Nat.log2 a.num.natAbs : Int) - (Nat.log2 a.den : Int)
  if scaled a e < 1 then e - 1 else if 2 ≤ scaled a e then e + 1 else e

/-- A rational rounded to the 53 bits of a binary64, ties to even (R395, R411; log entry 16). -/
def roundF64 (x : Rat) : Rat :=
  let a := if x < 0 then -x else x
  if a = 0 then 0
  else
    let e := expOf a
    let y := scaled (roundEven (scaled a (e - 52)) : Rat) (52 - e)
    if x < 0 then -y else y

/-- The binary32 raw nearest to a rational, ties to even; magnitudes below the normal range give zero (PRESUMED: IEEE 754
rounding, log entry 16). -/
def ratToF32 (x : Rat) : Nat :=
  let a := if x < 0 then -x else x
  let s := if x < 0 then 2147483648 else 0
  if a = 0 then s
  else
    let e := expOf a
    let m := roundEven (scaled a (e - 23))
    let e' := if m = 16777216 then e + 1 else e
    let m' := if m = 16777216 then 8388608 else m
    if e' < -126 then s
    else if 127 < e' then s + 255 * 8388608
    else s + ((e' + 127).toNat) * 8388608 + (m' - 8388608)

/-- A rational in units of 2^-k, truncated toward minus infinity. -/
def fixFloor (k : Nat) (x : Rat) : Int := (x * pow2 k).floor

/-- A rational as a raw Q32.32, truncated and saturated to 64 bits (R3, R217). -/
def toQ32 (x : Rat) : Q32 := satInt 64 (fixFloor 32 x)

/-- A rational as a raw Q8.24, truncated and saturated to 32 bits (R4, R217). -/
def toQ8 (x : Rat) : Q8 := satInt 32 (fixFloor 24 x)

/-- The value of a raw Q32.32. -/
def ofQ32 (x : Q32) : Rat := (x : Rat) / pow2 32

/-- The value of a raw Q8.24. -/
def ofQ8 (x : Q8) : Rat := (x : Rat) / pow2 24

/-- Magnitude of a rational. -/
def rabs (x : Rat) : Rat := if x < 0 then -x else x

/-- Sign of a rational: -1, 0 or 1. -/
def rsgn (x : Rat) : Rat := if x < 0 then -1 else if x = 0 then 0 else 1

/-- A rational held inside [lo, hi]. -/
def rclamp (lo hi x : Rat) : Rat := if x < lo then lo else if hi < x then hi else x

/-- 2 * pi. -/
def twoPi : Rat := 2 * Config.pi

end Sys2Proof.Machine
end

