-- ==== Sys2Proof/Machine/Params.lean ====
section
/-! DEFINITION. The parameter tables of chapters 02 to 19 with their item codes (R546, R547): object classes, value form
and range, default, and when a parameter may change. Each row is a row of a "parameters" table of the spec. Limits of a
binary32 parameter are the binary32 values nearest to the printed limits (log entry 8). -/

namespace Sys2Proof.Machine

/-- Kinds of objects of the endpoint map (R17, R548). -/
inductive ObjClass where
  | servo | stepper | aux | virt | remote | cam | cap | can | eth | fabPort | fieldIn | fieldOut | latchIn | supply
  | stoGroup | safeFunc | module | engine | core | arbiter | pathGroup | publisher | mbx | safeIn | safeConn
  deriving DecidableEq, Repr

/-- Value forms of an item (R549) with their ranges. -/
inductive PKind where
  /-- unsigned integer or enumeration, 4 bytes -/
  | u32 (lo hi : Nat)
  /-- unsigned integer in a range, or one further value -/
  | u32or (lo hi other : Nat)
  /-- one of a list of values -/
  | u32set (l : List Nat)
  /-- signed integer, 4 bytes -/
  | s32 (lo hi : Int)
  /-- signed integer, not 0 -/
  | s32nz (lo hi : Int)
  /-- +1 or -1, signed, 4 bytes -/
  | sign
  /-- binary32 with its limits as raws; `zero` allows 0 beside the range -/
  | f32 (lo hi : F32) (zero : Bool)
  /-- Q32.32, 8 bytes, any value -/
  | q64
  /-- local endpoint in [15:0], within one of the ranges -/
  | ep (ranges : List (Nat × Nat))
  /-- six 3-bit states, a permutation of 1-6, the first in bits [2:0] (log entry 9) -/
  | hallMap
  /-- IPv4 address and port, 8 bytes -/
  | ipPort
  /-- a contiguous IPv4 network mask, first octet in byte 0 -/
  | ipMask
  /-- a record or array of one of these byte lengths; where several lengths are allowed, the stored value carries a 1 above
  its last byte, so that the length stands with it (0: an empty array) -/
  | raw (lens : List Nat)
  deriving DecidableEq, Repr

/-- When a parameter may change (R96 and the "Change" column). -/
inductive Change where
  | any | disabledOnly | disarmedOnly
  /-- only while the CAN channel is OFF or in LISTEN (R697) -/
  | canStopped
  /-- a rule of its own -/
  | special
  deriving DecidableEq, Repr

/-- A row of a parameter table. -/
structure Param where
  code : Nat
  classes : List ObjClass
  kind : PKind
  dflt : Nat
  change : Change
  /-- members of a numbered range; the index selects one (R546) -/
  members : Nat
  deriving DecidableEq, Repr

/-- Rows of parameter table 0x01. -/
def paramRows01 : List Param := [
  ⟨0x0100, [.module], .f32 0x41200000 0x47C35000 false, 0x42C80000, .any, 1⟩,
  ⟨0x0101, [.module], .f32 0x41200000 0x461C4000 false, 0x447A0000, .any, 1⟩,
  ⟨0x0102, [.module], .f32 0x3C23D70A 0x41A00000 false, 0x3F800000, .any, 1⟩]

/-- Rows of parameter table 0x02. -/
def paramRows02 : List Param := [
  ⟨0x0200, [.servo], .u32 0 3, 0, .disabledOnly, 1⟩,
  ⟨0x0201, [.servo], .u32 0 1, 1, .any, 1⟩,
  ⟨0x0202, [.servo], .u32 0 15999, 0, .disabledOnly, 1⟩,
  ⟨0x0203, [.servo], .u32 1 16, 1, .disabledOnly, 1⟩,
  ⟨0x0204, [.servo], .f32 0x00000000 0x44FA0000 false, 0x00000000, .disabledOnly, 1⟩,
  ⟨0x0205, [.servo], .f32 0x3A83126F 0x3F000000 false, 0x3E800000, .any, 1⟩]

/-- Rows of parameter table 0x03. -/
def paramRows03 : List Param := [
  ⟨0x0300, [.servo], .u32 4 16777216, 4096, .disabledOnly, 1⟩,
  ⟨0x0301, [.servo], .u32 1 255, 8, .any, 1⟩,
  ⟨0x0302, [.servo], .u32 0 1, 0, .disabledOnly, 1⟩,
  ⟨0x0303, [.servo], .u32 1 255, 4, .any, 1⟩,
  ⟨0x0304, [.servo], .u32 0 2, 0, .disabledOnly, 1⟩,
  ⟨0x0305, [.servo], .u32 0 1, 1, .any, 1⟩]

/-- Rows of parameter table 0x04. -/
def paramRows04 : List Param := [
  ⟨0x0400, [.servo], .u32 8 40, 20, .disabledOnly, 1⟩,
  ⟨0x0401, [.servo], .u32 0 24, 12, .disabledOnly, 1⟩]

/-- Rows of parameter table 0x05. -/
def paramRows05 : List Param := [
  ⟨0x0500, [.servo], .u32 20 2000, 200, .disabledOnly, 1⟩,
  ⟨0x0501, [.servo], .u32 8 64, 32, .disabledOnly, 1⟩,
  ⟨0x0502, [.servo], .u32 0 63, 0, .disabledOnly, 1⟩,
  ⟨0x0503, [.servo], .u32 0 1, 1, .disabledOnly, 1⟩,
  ⟨0x0504, [.servo], .u32or 0 63 255, 255, .disabledOnly, 1⟩,
  ⟨0x0505, [.servo], .u32 0 1, 1, .disabledOnly, 1⟩,
  ⟨0x0506, [.servo], .u32set [0, 5, 6, 8, 16], 0, .disabledOnly, 1⟩,
  ⟨0x0507, [.servo], .u32 1 65535, 3, .disabledOnly, 1⟩,
  ⟨0x0508, [.servo], .u32 0 65535, 0, .disabledOnly, 1⟩,
  ⟨0x0509, [.servo], .u32 0 1, 0, .disabledOnly, 1⟩,
  ⟨0x050A, [.servo], .f32 0x00000000 0x461C4000 false, 0x00000000, .disabledOnly, 1⟩,
  ⟨0x050B, [.servo], .f32 0x3F800000 0x42C80000 false, 0x41A00000, .disabledOnly, 1⟩]

/-- Rows of parameter table 0x06. -/
def paramRows06 : List Param := [
  ⟨0x0600, [.servo], .u32 4 32, 4, .disabledOnly, 1⟩,
  ⟨0x0601, [.servo], .u32 0 1, 0, .disabledOnly, 1⟩,
  ⟨0x0602, [.servo], .f32 0x44FA0000 0x47C35000 false, 0x461C4000, .disabledOnly, 1⟩]

/-- Rows of parameter table 0x07. -/
def paramRows07 : List Param := [
  ⟨0x0700, [.aux], .hallMap, 183449, .disabledOnly, 1⟩,
  ⟨0x0701, [.aux], .f32 0xC3340000 0x43340000 false, 0x00000000, .any, 1⟩,
  ⟨0x0702, [.aux], .u32 1 255, 10, .any, 1⟩,
  ⟨0x0703, [.aux], .u32 1 255, 4, .any, 1⟩]

/-- Rows of parameter table 0x08. -/
def paramRows08 : List Param := [
  ⟨0x0800, [.servo], .f32 0x3A83126F 0x461C4000 true, 0x00000000, .any, 1⟩,
  ⟨0x0801, [.servo], .f32 0x40000000 0x42480000 false, 0x41200000, .any, 1⟩,
  ⟨0x0802, [.servo], .u32 1 16, 1, .any, 1⟩,
  ⟨0x0803, [.servo], .f32 0x3F800000 0x447A0000 false, 0x42C80000, .any, 1⟩]

/-- Rows of parameter table 0x09. -/
def paramRows09 : List Param := [
  ⟨0x0900, [.servo], .f32 0x3C23D70A 0x447A0000 false, 0x3F800000, .any, 1⟩,
  ⟨0x0901, [.servo], .f32 0x3F000000 0x42C80000 false, 0x40000000, .any, 1⟩]

/-- Rows of parameter table 0x0A. -/
def paramRows0A : List Param := [
  ⟨0x0A00, [.servo], .u32 0 2, 2, .disabledOnly, 1⟩,
  ⟨0x0A01, [.servo], .u32 1000 16000, 2000, .disabledOnly, 1⟩,
  ⟨0x0A02, [.servo], .u32 0 15999, 0, .disabledOnly, 1⟩,
  ⟨0x0A03, [.servo], .u32 1 16, 2, .disabledOnly, 1⟩,
  ⟨0x0A04, [.servo], .u32 1 256, 4, .disabledOnly, 1⟩,
  ⟨0x0A05, [.servo, .virt], .f32 0x358637BD 0x49742400 false, 0x3F800000, .disabledOnly, 1⟩,
  ⟨0x0A06, [.servo], .f32 0x3DCCCCCD 0x44FA0000 false, 0x41200000, .disabledOnly, 1⟩,
  ⟨0x0A07, [.servo], .f32 0x3A83126F 0x49742400 false, 0x42480000, .disabledOnly, 1⟩,
  ⟨0x0A08, [.servo], .f32 0x41200000 0x44BB8000 false, 0x43C80000, .disabledOnly, 1⟩,
  ⟨0x0A09, [.servo], .f32 0x2F800000 0x3F800000 false, 0x3B800000, .disabledOnly, 1⟩,
  ⟨0x0A0A, [.servo], .f32 0x00000000 0x447A0000 false, 0x00000000, .any, 1⟩,
  ⟨0x0A0B, [.servo], .f32 0x3C23D70A 0x42C80000 false, 0x3F800000, .any, 1⟩,
  ⟨0x0A0C, [.servo], .f32 0x00000000 0x3FC00000 false, 0x3F800000, .any, 1⟩,
  ⟨0x0A0D, [.servo], .f32 0x00000000 0x3FC00000 false, 0x00000000, .any, 1⟩,
  ⟨0x0A0E, [.servo], .f32 0x00000000 0x44FA0000 false, 0x00000000, .any, 1⟩,
  ⟨0x0A0F, [.servo], .f32 0xC1200000 0x41200000 false, 0x00000000, .any, 1⟩,
  ⟨0x0A10, [.servo], .f32 0x3C23D70A 0x40800000 false, 0x3F8CCCCD, .any, 1⟩,
  ⟨0x0A11, [.servo], .f32 0x3C23D70A 0x41200000 false, 0x3FC00000, .any, 1⟩,
  ⟨0x0A12, [.servo], .f32 0x3CA3D70A 0x40900000 false, 0x3F99999A, .any, 1⟩,
  ⟨0x0A13, [.servo], .f32 0x3089705F 0x49742400 true, 0x3DCCCCCD, .any, 1⟩,
  ⟨0x0A14, [.servo], .f32 0x00000000 0x44BB8000 false, 0x42480000, .any, 1⟩,
  ⟨0x0A15, [.servo], .f32 0x41200000 0x44C80000 false, 0x44480000, .any, 1⟩]

/-- Rows of parameter table 0x0B. -/
def paramRows0B : List Param := [
  ⟨0x0B00, [.servo], .u32 0 2, 0, .disabledOnly, 8⟩,
  ⟨0x0B01, [.servo], .u32 0 1, 0, .disabledOnly, 8⟩,
  ⟨0x0B02, [.servo], .u32 1 8, 1, .disabledOnly, 8⟩,
  ⟨0x0B03, [.servo], .u32 0 8, 0, .disabledOnly, 8⟩,
  ⟨0x0B04, [.servo], .u32 0 16376, 0, .disabledOnly, 8⟩,
  ⟨0x0B05, [.servo], .q64, 0, .any, 8⟩,
  ⟨0x0B06, [.servo], .raw [128], 483067190377157306468539791445926382651285396844529709093787090655488752193890165844019180525049902608116089432233966579995399546095943742648008343762871895875618363932672, .any, 64⟩]

/-- Rows of parameter table 0x0C. -/
def paramRows0C : List Param := [
  ⟨0x0C00, [.servo], .u32 0 1, 1, .any, 1⟩,
  ⟨0x0C01, [.servo], .u32 0 1, 1, .any, 1⟩,
  ⟨0x0C02, [.servo, .stepper, .virt], .f32 0x3C23D70A 0x49742400 false, 0x42C80000, .any, 1⟩,
  ⟨0x0C03, [.servo, .virt], .f32 0x3F800000 0x4E6E6B28 true, 0x00000000, .any, 1⟩,
  ⟨0x0C04, [.servo], .f32 0x3C23D70A 0x41200000 false, 0x3FC00000, .any, 1⟩,
  ⟨0x0C05, [.servo], .f32 0x41200000 0x476A6000 false, 0x459C4000, .any, 1⟩,
  ⟨0x0C06, [.servo], .f32 0x38D1B717 0x42C80000 false, 0x3C23D70A, .any, 1⟩,
  ⟨0x0C07, [.servo], .f32 0x3F800000 0x447A0000 false, 0x41200000, .any, 1⟩,
  ⟨0x0C08, [.servo], .u32 0 1, 1, .any, 1⟩,
  ⟨0x0C09, [.servo], .f32 0x41200000 0x461C4000 false, 0x42C80000, .any, 1⟩,
  ⟨0x0C0A, [.servo], .f32 0x00000000 0x461C4000 false, 0x43FA0000, .any, 1⟩]

/-- Rows of parameter table 0x0D. -/
def paramRows0D : List Param := [
  ⟨0x0D00, [.servo], .u32 1 64, 4, .disabledOnly, 1⟩,
  ⟨0x0D01, [.servo], .q64, 0, .disabledOnly, 1⟩,
  ⟨0x0D02, [.servo], .f32 0x3A83126F 0x42C80000 false, 0x3F800000, .any, 1⟩,
  ⟨0x0D03, [.servo], .f32 0x358637BD 0x3F800000 false, 0x3A83126F, .any, 1⟩,
  ⟨0x0D04, [.servo], .f32 0x358637BD 0x3F800000 false, 0x3A83126F, .any, 1⟩,
  ⟨0x0D05, [.servo], .f32 0x00000000 0x42C80000 false, 0x3DCCCCCD, .any, 1⟩]

/-- Rows of parameter table 0x0E. -/
def paramRows0E : List Param := [
  ⟨0x0E00, [.servo], .u32 0 31, 0, .disabledOnly, 1⟩,
  ⟨0x0E01, [.servo], .f32 0x42480000 0x44FA0000 false, 0x447A0000, .disabledOnly, 1⟩,
  ⟨0x0E02, [.servo], .f32 0x3F000000 0x3F800000 false, 0x3F75C28F, .any, 1⟩,
  ⟨0x0E03, [.servo], .u32 0 1, 0, .any, 1⟩,
  ⟨0x0E04, [.servo], .f32 0x3F000000 0x3F800000 false, 0x3F733333, .any, 1⟩,
  ⟨0x0E05, [.servo], .f32 0x3F800000 0x47C35000 false, 0x43480000, .any, 1⟩,
  ⟨0x0E06, [.servo], .f32 0xC0000000 0x00000000 false, 0xBF000000, .any, 1⟩,
  ⟨0x0E07, [.servo], .f32 0xC0000000 0x40000000 false, 0x00000000, .any, 1⟩]

/-- Rows of parameter table 0x0F. -/
def paramRows0F : List Param := [
  ⟨0x0F00, [.servo], .f32 0x3F800000 0x44FA0000 false, 0x42480000, .disabledOnly, 1⟩,
  ⟨0x0F01, [.servo], .f32 0x43480000 0x44FA0000 false, 0x44160000, .disabledOnly, 1⟩,
  ⟨0x0F02, [.servo], .u32 0 1, 1, .any, 1⟩,
  ⟨0x0F03, [.servo], .f32 0x42480000 0x459C4000 false, 0x43960000, .disabledOnly, 1⟩,
  ⟨0x0F04, [.servo], .f32 0x00000000 0x459C4000 false, 0x00000000, .any, 1⟩,
  ⟨0x0F05, [.servo], .f32 0x3A83126F 0x3F000000 false, 0x3CA3D70A, .any, 1⟩]

/-- Rows of parameter table 0x10. -/
def paramRows10 : List Param := [
  ⟨0x1000, [.servo], .u32 0 1, 0, .disabledOnly, 1⟩,
  ⟨0x1001, [.servo], .f32 0x41200000 0x461C4000 false, 0x447A0000, .any, 1⟩,
  ⟨0x1002, [.servo], .f32 0x3F800000 0x44FA0000 false, 0x42C80000, .any, 1⟩,
  ⟨0x1003, [.servo], .f32 0x3A83126F 0x3DCCCCCD false, 0x3C23D70A, .any, 1⟩,
  ⟨0x1004, [.servo], .f32 0x3C23D70A 0x40000000 false, 0x3E4CCCCD, .any, 1⟩,
  ⟨0x1005, [.servo], .f32 0x3F800000 0x42480000 false, 0x42480000, .any, 1⟩]

/-- Rows of parameter table 0x11. -/
def paramRows11 : List Param := [
  ⟨0x1100, [.servo], .u32 0 1, 0, .disabledOnly, 1⟩,
  ⟨0x1101, [.servo], .f32 0x3C23D70A 0x3E99999A false, 0x3D4CCCCD, .any, 1⟩,
  ⟨0x1102, [.servo], .f32 0x3C23D70A 0x3F000000 false, 0x3D4CCCCD, .any, 1⟩,
  ⟨0x1103, [.servo], .f32 0x3BA3D70A 0x3E4CCCCD false, 0x3CA3D70A, .any, 1⟩,
  ⟨0x1104, [.servo], .f32 0x3D4CCCCD 0x3F800000 false, 0x3E99999A, .any, 1⟩,
  ⟨0x1105, [.servo], .u32 2 64, 8, .any, 1⟩]

/-- Rows of parameter table 0x12. -/
def paramRows12 : List Param := [
  ⟨0x1200, [.servo], .sign, 1, .any, 1⟩,
  ⟨0x1201, [.servo], .f32 0x3CA3D70A 0x3F000000 false, 0x3DCCCCCD, .any, 1⟩,
  ⟨0x1202, [.servo], .f32 0x3C23D70A 0x49742400 false, 0x42480000, .any, 1⟩,
  ⟨0x1203, [.servo], .f32 0x3D4CCCCD 0x41200000 false, 0x3F800000, .any, 1⟩,
  ⟨0x1204, [.servo], .f32 0x3BA3D70A 0x3F000000 false, 0x3CA3D70A, .any, 1⟩]

/-- Rows of parameter table 0x13, part 1. -/
def paramRows13a : List Param := [
  ⟨0x1300, [.aux], .u32 2000 16000, 4000, .disabledOnly, 1⟩,
  ⟨0x1301, [.aux], .u32 0 15999, 0, .disabledOnly, 1⟩,
  ⟨0x1302, [.aux], .u32 1 32, 2, .disabledOnly, 1⟩,
  ⟨0x1303, [.aux], .f32 0x3A83126F 0x42C80000 false, 0x3F800000, .any, 1⟩,
  ⟨0x1304, [.aux], .f32 0x358637BD 0x3F800000 false, 0x3A83126F, .any, 1⟩,
  ⟨0x1305, [.aux], .f32 0x38D1B717 0x41200000 false, 0x3C23D70A, .any, 1⟩,
  ⟨0x1306, [.aux], .f32 0x3DCCCCCD 0x43480000 false, 0x40A00000, .disabledOnly, 1⟩,
  ⟨0x1307, [.aux], .f32 0x3F800000 0x44FA0000 false, 0x42480000, .disabledOnly, 1⟩,
  ⟨0x1308, [.aux], .f32 0x41200000 0x447A0000 false, 0x42400000, .disabledOnly, 1⟩,
  ⟨0x1309, [.aux], .f32 0x3F000000 0x43FA0000 false, 0x41A00000, .disabledOnly, 1⟩,
  ⟨0x130A, [.aux], .f32 0x43480000 0x44FA0000 false, 0x44160000, .disabledOnly, 1⟩,
  ⟨0x130B, [.aux], .f32 0x42480000 0x459C4000 false, 0x43960000, .disabledOnly, 1⟩,
  ⟨0x130C, [.aux], .u32 0 31, 0, .disabledOnly, 1⟩,
  ⟨0x130D, [.aux], .f32 0x00000000 0x44BB8000 false, 0x41200000, .any, 1⟩,
  ⟨0x130E, [.aux], .f32 0x41200000 0x44C80000 false, 0x42700000, .any, 1⟩,
  ⟨0x130F, [.aux], .f32 0x3D4CCCCD 0x40400000 false, 0x3F99999A, .any, 1⟩,
  ⟨0x1310, [.aux], .f32 0x42C80000 0x459C4000 false, 0x447A0000, .any, 1⟩,
  ⟨0x1311, [.aux], .f32 0x3C23D70A 0x42C80000 false, 0x40000000, .any, 1⟩,
  ⟨0x1312, [.aux], .f32 0x3F800000 0x461C4000 false, 0x42480000, .any, 1⟩,
  ⟨0x1313, [.aux], .u32 0 1, 0, .disabledOnly, 1⟩,
  ⟨0x1314, [.aux], .f32 0x00000000 0x3F800000 false, 0x00000000, .any, 1⟩,
  ⟨0x1315, [.aux], .ep [(0x0000, 0x004F), (0x0100, 0x027F)], 256, .disabledOnly, 1⟩,
  ⟨0x1316, [.aux], .f32 0x3A83126F 0x461C4000 false, 0x41200000, .any, 1⟩,
  ⟨0x1317, [.aux], .raw [16, 24, 32, 40, 48, 56, 64, 72, 80, 88, 96, 104, 112, 120, 128], 428385260036209716787935481009998397440, .any, 1⟩]

/-- Rows of parameter table 0x13, part 2. -/
def paramRows13b : List Param := [
  ⟨0x1318, [.aux], .f32 0x00000000 0x3F800000 false, 0x3DCCCCCD, .any, 1⟩,
  ⟨0x1319, [.aux], .f32 0x00000000 0x3F800000 false, 0x3D4CCCCD, .any, 1⟩,
  ⟨0x131A, [.aux], .f32 0x3DCCCCCD 0x461C4000 false, 0x41A00000, .any, 1⟩,
  ⟨0x131B, [.aux], .f32 0x3DCCCCCD 0x461C4000 false, 0x41A00000, .any, 1⟩,
  ⟨0x131C, [.aux], .f32 0x3F800000 0x453B8000 false, 0x42480000, .any, 1⟩,
  ⟨0x131D, [.aux], .u32 0 1, 0, .disabledOnly, 1⟩,
  ⟨0x131E, [.aux], .f32 0x3C23D70A 0x42C80000 false, 0x3F800000, .any, 1⟩,
  ⟨0x131F, [.aux], .f32 0x3D4CCCCD 0x40000000 false, 0x3F000000, .any, 1⟩,
  ⟨0x1320, [.aux], .f32 0x00000000 0x44FA0000 false, 0x42C80000, .any, 1⟩,
  ⟨0x1321, [.aux], .f32 0x3DCCCCCD 0x461C4000 false, 0x41200000, .any, 1⟩,
  ⟨0x1322, [.aux], .f32 0x3CA3D70A 0x3F000000 false, 0x3DCCCCCD, .any, 1⟩,
  ⟨0x1323, [.aux], .u32 0 1, 0, .disabledOnly, 1⟩,
  ⟨0x1324, [.aux], .f32 0x3C23D70A 0x40000000 false, 0x3E4CCCCD, .any, 1⟩,
  ⟨0x1325, [.aux], .f32 0x3F800000 0x42480000 false, 0x42480000, .any, 1⟩,
  ⟨0x1326, [.aux], .f32 0x3CA3D70A 0x3F000000 false, 0x3DCCCCCD, .any, 1⟩,
  ⟨0x1327, [.aux], .f32 0x3DCCCCCD 0x461C4000 false, 0x41A00000, .any, 1⟩,
  ⟨0x1328, [.aux], .f32 0x3DCCCCCD 0x44160000 false, 0x40000000, .any, 1⟩,
  ⟨0x1329, [.aux], .u32 0 255, 3, .any, 1⟩,
  ⟨0x132A, [.aux], .f32 0x3D4CCCCD 0x40400000 false, 0x3F800000, .any, 1⟩,
  ⟨0x132B, [.aux], .f32 0x3BA3D70A 0x3F000000 false, 0x3CA3D70A, .any, 1⟩]

/-- Rows of parameter table 0x14. -/
def paramRows14 : List Param := [
  ⟨0x1400, [.servo, .stepper, .virt], .f32 0x358637BD 0x49742400 false, 0x42480000, .any, 1⟩,
  ⟨0x1401, [.servo, .stepper, .virt], .f32 0x358637BD 0x4B189680 false, 0x43FA0000, .any, 1⟩,
  ⟨0x1402, [.servo, .stepper, .virt], .f32 0x3A83126F 0x501502F9 true, 0x00000000, .any, 1⟩,
  ⟨0x1403, [.servo, .stepper, .virt], .u32 1 64, 16, .any, 1⟩,
  ⟨0x1404, [.servo, .stepper, .virt], .u32 0 1, 0, .any, 1⟩,
  ⟨0x1405, [.servo, .stepper, .virt], .q64, 9223372036854775808, .any, 1⟩,
  ⟨0x1406, [.servo, .stepper, .virt], .q64, 9223372036854775807, .any, 1⟩]

/-- Rows of parameter table 0x15. -/
def paramRows15 : List Param := [
  ⟨0x1500, [.pathGroup], .raw [8, 12, 16, 20, 24, 28, 32], 0, .special, 1⟩,
  ⟨0x1501, [.pathGroup], .f32 0x3F000000 0x41200000 false, 0x40000000, .any, 1⟩]

/-- Rows of parameter table 0x16. -/
def paramRows16 : List Param := [
  ⟨0x1600, [.servo, .stepper, .virt], .ep [(0x0400, 0x043F), (0x0460, 0x046F), (0xFFFF, 0xFFFF)], 65535, .disabledOnly, 1⟩,
  ⟨0x1601, [.servo, .stepper, .virt], .ep [(0x0400, 0x043F), (0x0460, 0x046F), (0xFFFF, 0xFFFF)], 65535, .disabledOnly, 1⟩,
  ⟨0x1602, [.servo, .stepper, .virt], .u32 0 1, 0, .disabledOnly, 1⟩,
  ⟨0x1603, [.servo, .stepper, .virt], .u32 1 2, 2, .any, 1⟩,
  ⟨0x1604, [.servo, .stepper, .virt], .u32 0 5, 1, .any, 1⟩,
  ⟨0x1605, [.servo, .stepper, .virt], .ep [(0x0400, 0x043F), (0x0460, 0x046F), (0xFFFF, 0xFFFF)], 65535, .disabledOnly, 1⟩,
  ⟨0x1606, [.servo, .stepper, .virt], .u32 0 1, 1, .disabledOnly, 1⟩,
  ⟨0x1607, [.servo, .stepper, .virt], .sign, 4294967295, .any, 1⟩,
  ⟨0x1608, [.servo, .stepper, .virt], .f32 0x358637BD 0x49742400 false, 0x3DCCCCCD, .any, 1⟩,
  ⟨0x1609, [.servo, .stepper, .virt], .f32 0x358637BD 0x49742400 false, 0x3C23D70A, .any, 1⟩,
  ⟨0x160A, [.servo, .stepper, .virt], .f32 0x358637BD 0x4B189680 false, 0x3F800000, .any, 1⟩,
  ⟨0x160B, [.servo, .stepper, .virt], .f32 0x00000000 0x49742400 false, 0x3D4CCCCD, .any, 1⟩,
  ⟨0x160C, [.servo, .stepper, .virt], .f32 0x3A83126F 0x4E6E6B28 false, 0x42C80000, .any, 1⟩,
  ⟨0x160D, [.servo, .stepper, .virt], .q64, 0, .any, 1⟩,
  ⟨0x160E, [.servo, .stepper, .virt], .u32 0 1, 0, .any, 1⟩]

/-- Rows of parameter table 0x17. -/
def paramRows17 : List Param := [
  ⟨0x1700, [.virt], .u32 4000 640000, 16000, .disabledOnly, 1⟩,
  ⟨0x1701, [.virt], .u32 0 639999, 0, .disabledOnly, 1⟩]

/-- Rows of parameter table 0x18. -/
def paramRows18 : List Param := [
  ⟨0x1800, [.publisher], .u32or 0 255 65535, 65535, .disabledOnly, 1⟩,
  ⟨0x1801, [.publisher], .ep [(0x0000, 0x001F), (0x0100, 0x01FF)], 256, .disabledOnly, 1⟩,
  ⟨0x1802, [.publisher], .u32 0 1, 0, .disabledOnly, 1⟩,
  ⟨0x1803, [.publisher], .u32 4000 640000, 16000, .disabledOnly, 1⟩,
  ⟨0x1804, [.publisher], .u32 0 639999, 0, .disabledOnly, 1⟩,
  ⟨0x1805, [.publisher], .f32 0x40A00000 0x44610000 false, 0x43480000, .disabledOnly, 1⟩,
  ⟨0x1806, [.publisher], .u32 0 1, 0, .disabledOnly, 1⟩,
  ⟨0x1807, [.publisher], .f32 0xBE4CCCCD 0x3E4CCCCD false, 0x00000000, .any, 8⟩,
  ⟨0x1808, [.publisher], .f32 0x38D1B717 0x41200000 false, 0x3C23D70A, .any, 1⟩]

/-- Rows of parameter table 0x19. -/
def paramRows19 : List Param := [
  ⟨0x1900, [.servo, .stepper, .virt, .remote], .f32 0x3DCCCCCD 0x42C80000 false, 0x40000000, .any, 1⟩,
  ⟨0x1901, [.servo, .stepper, .virt, .remote], .u32 1 2, 2, .any, 1⟩,
  ⟨0x1902, [.servo, .stepper, .virt, .remote], .f32 0x00000000 0x49742400 false, 0x3A83126F, .any, 1⟩,
  ⟨0x1903, [.servo, .stepper, .virt, .remote], .f32 0x00000000 0x49742400 false, 0x3C23D70A, .any, 1⟩,
  ⟨0x1904, [.servo, .stepper, .virt, .remote], .s32nz (-2147483647) 2147483647, 1, .any, 1⟩,
  ⟨0x1905, [.servo, .stepper, .virt, .remote], .u32 1 4294967295, 1, .any, 1⟩,
  ⟨0x1906, [.servo, .stepper, .virt, .remote], .ep [(0x0600, 0x06FF)], 1536, .any, 1⟩]

/-- Rows of parameter table 0x1A. -/
def paramRows1A : List Param := [
  ⟨0x1A00, [.servo, .stepper, .virt, .remote], .u32 0 2, 0, .any, 1⟩,
  ⟨0x1A01, [.servo, .stepper, .virt, .remote], .ep [(0x0800, 0x08FF)], 2048, .any, 1⟩,
  ⟨0x1A02, [.servo, .stepper, .virt, .remote], .f32 0x358637BD 0x49742400 false, 0x3F800000, .any, 1⟩,
  ⟨0x1A03, [.servo, .stepper, .virt, .remote], .f32 0x00000000 0x49742400 false, 0x00000000, .any, 1⟩,
  ⟨0x1A04, [.servo, .stepper, .virt, .remote], .f32 0x00000000 0x3F800000 false, 0x3F000000, .any, 1⟩,
  ⟨0x1A05, [.servo, .stepper, .virt, .remote], .f32 0x00000000 0x3DCCCCCD false, 0x3727C5AC, .any, 1⟩,
  ⟨0x1A06, [.servo, .stepper, .virt, .remote], .f32 0x3727C5AC 0x3F000000 false, 0x3C23D70A, .any, 1⟩,
  ⟨0x1A07, [.servo, .stepper, .virt, .remote], .f32 0x358637BD 0x41200000 false, 0x3A83126F, .any, 1⟩,
  ⟨0x1A08, [.servo, .stepper, .virt, .remote], .f32 0x3727C5AC 0x447A0000 false, 0x3DCCCCCD, .any, 1⟩,
  ⟨0x1A09, [.servo, .stepper, .virt, .remote], .f32 0x00000000 0x3F000000 false, 0x3D4CCCCD, .any, 1⟩,
  ⟨0x1A0A, [.servo, .stepper, .virt, .remote], .f32 0xBF000000 0x3F000000 false, 0x00000000, .any, 1⟩]

/-- Rows of parameter table 0x1B. -/
def paramRows1B : List Param := [
  ⟨0x1B00, [.remote], .u32 0 2, 0, .disabledOnly, 1⟩,
  ⟨0x1B01, [.remote], .ipPort, 0, .disabledOnly, 1⟩,
  ⟨0x1B02, [.remote], .u32 1 4095, 1, .disabledOnly, 1⟩,
  ⟨0x1B03, [.remote], .u32 8000 640000, 64000, .disabledOnly, 1⟩,
  ⟨0x1B04, [.remote], .u32 0 639999, 0, .disabledOnly, 1⟩,
  ⟨0x1B05, [.remote], .f32 0x41A00000 0x459C4000 false, 0x437A0000, .disabledOnly, 1⟩,
  ⟨0x1B06, [.remote], .f32 0x3F800000 0x447A0000 false, 0x41200000, .any, 1⟩,
  ⟨0x1B07, [.remote], .f32 0x41200000 0x461C4000 false, 0x42C80000, .any, 1⟩]

/-- Rows of parameter table 0x1C, part 1. -/
def paramRows1Ca : List Param := [
  ⟨0x1C00, [.stepper], .u32 4000 64000, 16000, .disabledOnly, 1⟩,
  ⟨0x1C01, [.stepper], .u32 0 63999, 0, .disabledOnly, 1⟩,
  ⟨0x1C02, [.stepper], .f32 0x358637BD 0x49742400 false, 0x3F800000, .disabledOnly, 1⟩,
  ⟨0x1C03, [.stepper], .u32 4 1000, 200, .disabledOnly, 1⟩,
  ⟨0x1C04, [.stepper], .u32set [1, 2, 4, 8, 16, 32, 64, 128, 256, 512, 1024], 16, .disabledOnly, 1⟩,
  ⟨0x1C05, [.stepper], .u32 0 4095, 0, .disabledOnly, 1⟩,
  ⟨0x1C06, [.stepper], .u32 0 1, 0, .disabledOnly, 1⟩,
  ⟨0x1C07, [.stepper], .raw [2050], 0, .disabledOnly, 1⟩,
  ⟨0x1C08, [.stepper], .f32 0x3DCCCCCD 0x41A00000 false, 0x40000000, .disabledOnly, 1⟩,
  ⟨0x1C09, [.stepper], .f32 0x00000000 0x41900000 false, 0x3F800000, .any, 1⟩,
  ⟨0x1C0A, [.stepper], .f32 0x00000000 0x41900000 false, 0x3F000000, .any, 1⟩,
  ⟨0x1C0B, [.stepper], .f32 0x3DCCCCCD 0x41A00000 false, 0x3FE66666, .any, 1⟩,
  ⟨0x1C0C, [.stepper], .f32 0x3F800000 0x476A6000 false, 0x43FA0000, .any, 1⟩,
  ⟨0x1C0D, [.stepper], .f32 0x00000000 0x447A0000 false, 0x41A00000, .any, 1⟩,
  ⟨0x1C0E, [.stepper], .u32 0 1, 0, .disabledOnly, 1⟩,
  ⟨0x1C0F, [.stepper], .f32 0x3C23D70A 0x40000000 false, 0x3DCCCCCD, .any, 1⟩,
  ⟨0x1C10, [.stepper], .f32 0x42C80000 0x459C4000 false, 0x43FA0000, .any, 1⟩,
  ⟨0x1C11, [.stepper], .f32 0x43480000 0x469C4000 false, 0x447A0000, .any, 1⟩,
  ⟨0x1C12, [.stepper], .f32 0x3F800000 0x43480000 false, 0x41F00000, .any, 1⟩,
  ⟨0x1C13, [.stepper], .f32 0x00000000 0x469C4000 false, 0x44FA0000, .any, 1⟩,
  ⟨0x1C14, [.stepper], .f32 0x00000000 0x3F800000 false, 0x3D4CCCCD, .any, 1⟩,
  ⟨0x1C15, [.stepper], .f32 0x00000000 0x3F800000 false, 0x3DCCCCCD, .any, 1⟩,
  ⟨0x1C16, [.stepper], .u32 1000 6400, 1600, .disabledOnly, 1⟩,
  ⟨0x1C17, [.stepper], .f32 0x3C23D70A 0x42C80000 false, 0x3F800000, .any, 1⟩]

/-- Rows of parameter table 0x1C, part 2. -/
def paramRows1Cb : List Param := [
  ⟨0x1C18, [.stepper], .f32 0x3727C5AC 0x3F800000 false, 0x3B449BA6, .any, 1⟩,
  ⟨0x1C19, [.stepper], .f32 0x00000000 0x42C80000 false, 0x00000000, .any, 1⟩,
  ⟨0x1C1A, [.stepper], .f32 0x00000000 0x447A0000 false, 0x40A00000, .any, 1⟩,
  ⟨0x1C1B, [.stepper], .f32 0x00000000 0x49742400 false, 0x459C4000, .any, 1⟩,
  ⟨0x1C1C, [.stepper], .f32 0x3F000000 0x3F800000 false, 0x3F733333, .any, 1⟩,
  ⟨0x1C1D, [.stepper], .u32 0 31, 0, .disabledOnly, 1⟩,
  ⟨0x1C1E, [.stepper], .f32 0x00000000 0x44BB8000 false, 0x41200000, .any, 1⟩,
  ⟨0x1C1F, [.stepper], .f32 0x41200000 0x44C80000 false, 0x42700000, .any, 1⟩,
  ⟨0x1C20, [.stepper], .f32 0x3A83126F 0x42C80000 false, 0x3F000000, .any, 1⟩,
  ⟨0x1C21, [.stepper], .u32 2 4096, 64, .any, 1⟩,
  ⟨0x1C22, [.stepper], .u32 0 1, 0, .any, 1⟩]

/-- Rows of parameter table 0x1D. -/
def paramRows1D : List Param := [
  ⟨0x1D00, [.cap], .u32 0 1, 0, .disarmedOnly, 1⟩,
  ⟨0x1D01, [.cap], .raw [24], 281470681743360, .disarmedOnly, 4⟩,
  ⟨0x1D02, [.cap], .raw [8], 18446744073709551615, .disarmedOnly, 1⟩,
  ⟨0x1D03, [.cap], .u32 0 2, 1, .disarmedOnly, 1⟩,
  ⟨0x1D04, [.cap], .ep [(0x0000, 0x001F)], 0, .disarmedOnly, 1⟩,
  ⟨0x1D05, [.cap], .u32 1000 640000, 4000, .disarmedOnly, 1⟩,
  ⟨0x1D06, [.cap], .u32 0 639999, 0, .disarmedOnly, 1⟩,
  ⟨0x1D07, [.cap], .u32 1 64, 1, .disarmedOnly, 1⟩,
  ⟨0x1D08, [.cap], .raw [8, 16, 24, 32, 40, 48, 56, 64], 18446744073709551617, .disarmedOnly, 1⟩,
  ⟨0x1D09, [.cap], .u32 0 1048576, 0, .disarmedOnly, 1⟩,
  ⟨0x1D0A, [.cap], .u32 1 1048576, 1024, .disarmedOnly, 1⟩,
  ⟨0x1D0B, [.cap], .u32 0 1, 0, .disarmedOnly, 1⟩,
  ⟨0x1D0C, [.cap], .u32 0 1, 0, .any, 1⟩,
  ⟨0x1D0D, [.cap], .u32 0 1, 0, .any, 1⟩]

/-- Rows of parameter table 0x1E. -/
def paramRows1E : List Param := [
  ⟨0x1E00, [.module], .u32 0 2048, 512, .special, 1⟩,
  ⟨0x1E01, [.module], .u32 1 31, 8, .any, 1⟩]

/-- Rows of parameter table 0x1F. -/
def paramRows1F : List Param := [
  ⟨0x1F00, [.module], .u32 1024 65535, 47113, .any, 1⟩,
  ⟨0x1F01, [.module], .f32 0x3F800000 0x44160000 false, 0x41F00000, .any, 1⟩,
  ⟨0x1F02, [.module], .f32 0x3F800000 0x461C4000 false, 0x42C80000, .any, 1⟩,
  ⟨0x1F03, [.module], .u32 8000 640000, 64000, .any, 1⟩,
  ⟨0x1F04, [.module], .u32 0 64, 0, .any, 1⟩]

/-- Rows of parameter table 0x20. -/
def paramRows20 : List Param := [
  ⟨0x2000, [.servo], .u32 0 4294967295, 0, .special, 4⟩]

/-- Rows of parameter table 0x21. -/
def paramRows21 : List Param := [
  ⟨0x2100, [.module], .u32 0 63, 55, .any, 1⟩,
  ⟨0x2101, [.module], .u32 16 1024, 256, .special, 1⟩]

/-- Rows of parameter table 0x22. -/
def paramRows22 : List Param := [
  ⟨0x2200, [.arbiter, .engine, .fabPort], .u32 0 7, 0, .any, 17⟩]

/-- Rows of parameter table 0x23. -/
def paramRows23 : List Param := [
  ⟨0x2300, [.module], .u32 0 15, 15, .any, 1⟩,
  ⟨0x2301, [.module], .u32 0 1, 0, .any, 1⟩,
  ⟨0x2302, [.module], .f32 0x42480000 0x461C4000 false, 0x43FA0000, .any, 1⟩]

/-- Rows of parameter table 0x24. -/
def paramRows24 : List Param := [
  ⟨0x2400, [.eth], .u32 0 1, 0, .any, 1⟩,
  ⟨0x2401, [.eth], .u32 0 4294967295, 0, .any, 1⟩,
  ⟨0x2402, [.eth], .ipMask, 0, .any, 1⟩,
  ⟨0x2403, [.eth], .u32 0 4294967295, 0, .any, 1⟩,
  ⟨0x2404, [.eth], .u32 0 4094, 0, .any, 1⟩,
  ⟨0x2405, [.eth], .u32 0 7, 0, .any, 8⟩,
  ⟨0x2406, [.eth], .f32 0x00000000 0x44FA0000 false, 0x00000000, .any, 1⟩,
  ⟨0x2407, [.eth], .f32 0x00000000 0x44FA0000 false, 0x00000000, .any, 1⟩,
  ⟨0x2408, [.eth], .u32 1024 65535, 47114, .any, 1⟩,
  ⟨0x2409, [.eth], .u32 1024 65535, 47115, .any, 1⟩,
  ⟨0x240A, [.eth], .u32 0 1, 0, .any, 1⟩,
  ⟨0x240B, [.eth], .u32 1 4095, 1, .any, 1⟩,
  ⟨0x240C, [.eth], .u32 0 1, 0, .any, 1⟩,
  ⟨0x240D, [.eth], .raw [24, 32, 40, 48, 56, 64, 72, 80, 88, 96, 104, 112, 120, 128, 136, 144, 152, 160, 168, 176, 184, 192, 200, 208, 216, 224, 232, 240, 248, 256, 264, 272, 280, 288, 296, 304, 312, 320, 328, 336, 344, 352, 360, 368, 376, 384, 392, 400, 408, 416, 424, 432, 440, 448, 456, 464, 472, 480, 488, 496, 504, 512, 520, 528], 6278563237024011753525996672879709329026609981659520434176, .any, 1⟩,
  ⟨0x240E, [.eth], .u32 64 1522, 1522, .any, 8⟩]

/-- Rows of parameter table 0x25. -/
def paramRows25 : List Param := [
  ⟨0x2500, [.eth], .u32 0 2, 1, .any, 1⟩,
  ⟨0x2501, [.eth], .u32 0 127, 0, .any, 1⟩,
  ⟨0x2502, [.eth], .u32 0 1, 1, .any, 1⟩,
  ⟨0x2503, [.eth], .s32 (-3) (4), 0, .any, 1⟩,
  ⟨0x2504, [.eth], .u32 2 10, 3, .any, 1⟩]

/-- Rows of parameter table 0x26. -/
def paramRows26 : List Param := [
  ⟨0x2600, [.can], .u32 0 2, 1, .any, 1⟩,
  ⟨0x2601, [.can], .u32 1 256, 1, .canStopped, 1⟩,
  ⟨0x2602, [.can], .u32 2 256, 127, .canStopped, 1⟩,
  ⟨0x2603, [.can], .u32 1 128, 32, .canStopped, 1⟩,
  ⟨0x2604, [.can], .u32 1 128, 32, .canStopped, 1⟩,
  ⟨0x2605, [.can], .u32 1 32, 1, .canStopped, 1⟩,
  ⟨0x2606, [.can], .u32 1 32, 31, .canStopped, 1⟩,
  ⟨0x2607, [.can], .u32 1 16, 8, .canStopped, 1⟩,
  ⟨0x2608, [.can], .u32 1 16, 8, .canStopped, 1⟩,
  ⟨0x2609, [.can], .u32 0 1, 1, .canStopped, 1⟩,
  ⟨0x260A, [.can], .u32 0 127, 32, .canStopped, 1⟩,
  ⟨0x260B, [.can], .raw [8], 0, .canStopped, 16⟩]

/-- Rows of parameter table 0x27. -/
def paramRows27 : List Param := [
  ⟨0x2700, [.fieldIn], .u32set [1, 3], 1, .any, 1⟩,
  ⟨0x2701, [.fieldIn], .u32 1 50000, 1000, .any, 1⟩,
  ⟨0x2702, [.fieldIn], .u32 0 1, 0, .any, 1⟩]

/-- Rows of parameter table 0x28. -/
def paramRows28 : List Param := [
  ⟨0x2800, [.latchIn], .u32 1 50000, 10, .any, 1⟩]

/-- Rows of parameter table 0x29. -/
def paramRows29 : List Param := [
  ⟨0x2900, [.fieldOut], .u32 0 255, 0, .any, 1⟩]

/-- Rows of parameter table 0x2A. -/
def paramRows2A : List Param := [
  ⟨0x2A00, [.module], .u32 1 100, 10, .any, 1⟩]

/-- Rows of parameter table 0x2B. -/
def paramRows2B : List Param := [
  ⟨0x2B00, [.module], .u32 0 1, 1, .any, 1⟩]

/-- The rows of the parameter table with a code. -/
def paramTable (t : Nat) : List Param :=
  match t with
  | 0x01 => paramRows01
  | 0x02 => paramRows02
  | 0x03 => paramRows03
  | 0x04 => paramRows04
  | 0x05 => paramRows05
  | 0x06 => paramRows06
  | 0x07 => paramRows07
  | 0x08 => paramRows08
  | 0x09 => paramRows09
  | 0x0A => paramRows0A
  | 0x0B => paramRows0B
  | 0x0C => paramRows0C
  | 0x0D => paramRows0D
  | 0x0E => paramRows0E
  | 0x0F => paramRows0F
  | 0x10 => paramRows10
  | 0x11 => paramRows11
  | 0x12 => paramRows12
  | 0x13 => paramRows13a ++ paramRows13b
  | 0x14 => paramRows14
  | 0x15 => paramRows15
  | 0x16 => paramRows16
  | 0x17 => paramRows17
  | 0x18 => paramRows18
  | 0x19 => paramRows19
  | 0x1A => paramRows1A
  | 0x1B => paramRows1B
  | 0x1C => paramRows1Ca ++ paramRows1Cb
  | 0x1D => paramRows1D
  | 0x1E => paramRows1E
  | 0x1F => paramRows1F
  | 0x20 => paramRows20
  | 0x21 => paramRows21
  | 0x22 => paramRows22
  | 0x23 => paramRows23
  | 0x24 => paramRows24
  | 0x25 => paramRows25
  | 0x26 => paramRows26
  | 0x27 => paramRows27
  | 0x28 => paramRows28
  | 0x29 => paramRows29
  | 0x2A => paramRows2A
  | 0x2B => paramRows2B
  | _ => []

/-- The row of an item code (R546). -/
def findParam (code : Nat) : Option Param := (paramTable (code / 256))[code % 256]?

/-! Item codes by parameter name. -/

/-- time_tolerance -/
abbrev P.timeTolerance : Nat := 0x0100
/-- source_timeout -/
abbrev P.sourceTimeout : Nat := 0x0101
/-- servo_bandwidth -/
abbrev P.servoBandwidth : Nat := 0x0102
/-- fb_source -/
abbrev P.fbSource : Nat := 0x0200
/-- fb_loss_action -/
abbrev P.fbLossAction : Nat := 0x0201
/-- serial_start -/
abbrev P.serialStart : Nat := 0x0202
/-- serial_ratio -/
abbrev P.serialRatio : Nat := 0x0203
/-- serial_line_delay -/
abbrev P.serialLineDelay : Nat := 0x0204
/-- jump_limit -/
abbrev P.jumpLimit : Nat := 0x0205
/-- counts_per_turn -/
abbrev P.countsPerTurn : Nat := 0x0300
/-- quad_filter -/
abbrev P.quadFilter : Nat := 0x0301
/-- quad_invert -/
abbrev P.quadInvert : Nat := 0x0302
/-- quad_err_limit -/
abbrev P.quadErrLimit : Nat := 0x0303
/-- index_mode -/
abbrev P.indexMode : Nat := 0x0304
/-- index_mismatch_action -/
abbrev P.indexMismatchAction : Nat := 0x0305
/-- st_bits -/
abbrev P.stBits : Nat := 0x0400
/-- mt_bits -/
abbrev P.mtBits : Nat := 0x0401
/-- ssi_clock_div -/
abbrev P.ssiClockDiv : Nat := 0x0500
/-- ssi_frame_bits -/
abbrev P.ssiFrameBits : Nat := 0x0501
/-- ssi_pos_lsb -/
abbrev P.ssiPosLsb : Nat := 0x0502
/-- ssi_gray -/
abbrev P.ssiGray : Nat := 0x0503
/-- ssi_err_bit -/
abbrev P.ssiErrBit : Nat := 0x0504
/-- ssi_err_level -/
abbrev P.ssiErrLevel : Nat := 0x0505
/-- ssi_crc_width -/
abbrev P.ssiCrcWidth : Nat := 0x0506
/-- ssi_crc_poly -/
abbrev P.ssiCrcPoly : Nat := 0x0507
/-- ssi_crc_init -/
abbrev P.ssiCrcInit : Nat := 0x0508
/-- ssi_crc_invert -/
abbrev P.ssiCrcInvert : Nat := 0x0509
/-- ssi_latch_delay -/
abbrev P.ssiLatchDelay : Nat := 0x050A
/-- ssi_recovery -/
abbrev P.ssiRecovery : Nat := 0x050B
/-- lsp_baud_div -/
abbrev P.lspBaudDiv : Nat := 0x0600
/-- lsp_aux -/
abbrev P.lspAux : Nat := 0x0601
/-- lsp_word_timeout -/
abbrev P.lspWordTimeout : Nat := 0x0602
/-- hall_map -/
abbrev P.hallMap : Nat := 0x0700
/-- hall_offset -/
abbrev P.hallOffset : Nat := 0x0701
/-- hall_filter -/
abbrev P.hallFilter : Nat := 0x0702
/-- hall_err_limit -/
abbrev P.hallErrLimit : Nat := 0x0703
/-- speed_change -/
abbrev P.speedChange : Nat := 0x0800
/-- speed_hyst -/
abbrev P.speedHyst : Nat := 0x0801
/-- speed_window -/
abbrev P.speedWindow : Nat := 0x0802
/-- zero_speed_time -/
abbrev P.zeroSpeedTime : Nat := 0x0803
/-- freeze_speed -/
abbrev P.freezeSpeed : Nat := 0x0900
/-- freeze_time -/
abbrev P.freezeTime : Nat := 0x0901
/-- control_mode -/
abbrev P.controlMode : Nat := 0x0A00
/-- cur_period_ticks -/
abbrev P.curPeriodTicks : Nat := 0x0A01
/-- cur_phase_ticks -/
abbrev P.curPhaseTicks : Nat := 0x0A02
/-- vel_ratio -/
abbrev P.velRatio : Nat := 0x0A03
/-- pos_ratio -/
abbrev P.posRatio : Nat := 0x0A04
/-- unit_per_turn -/
abbrev P.unitPerTurn : Nat := 0x0A05
/-- rated_current -/
abbrev P.ratedCurrent : Nat := 0x0A06
/-- rated_speed -/
abbrev P.ratedSpeed : Nat := 0x0A07
/-- rated_voltage -/
abbrev P.ratedVoltage : Nat := 0x0A08
/-- pos_base -/
abbrev P.posBase : Nat := 0x0A09
/-- inertia -/
abbrev P.inertia : Nat := 0x0A0A
/-- torque_const -/
abbrev P.torqueConst : Nat := 0x0A0B
/-- kvff -/
abbrev P.kvff : Nat := 0x0A0C
/-- kaff -/
abbrev P.kaff : Nat := 0x0A0D
/-- friction_ff -/
abbrev P.frictionFf : Nat := 0x0A0E
/-- torque_set -/
abbrev P.torqueSet : Nat := 0x0A0F
/-- speed_limit -/
abbrev P.speedLimit : Nat := 0x0A10
/-- i_limit -/
abbrev P.iLimit : Nat := 0x0A11
/-- overspeed -/
abbrev P.overspeed : Nat := 0x0A12
/-- max_follow_error -/
abbrev P.maxFollowError : Nat := 0x0A13
/-- dc_min -/
abbrev P.dcMin : Nat := 0x0A14
/-- dc_max -/
abbrev P.dcMax : Nat := 0x0A15
/-- sec_type -/
abbrev P.secType : Nat := 0x0B00
/-- sec_place -/
abbrev P.secPlace : Nat := 0x0B01
/-- sec_sets -/
abbrev P.secSets : Nat := 0x0B02
/-- sched_source -/
abbrev P.schedSource : Nat := 0x0B03
/-- sched_offset -/
abbrev P.schedOffset : Nat := 0x0B04
/-- sched_value -/
abbrev P.schedValue : Nat := 0x0B05
/-- set_record -/
abbrev P.setRecord : Nat := 0x0B06
/-- disable_category -/
abbrev P.disableCategory : Nat := 0x0C00
/-- fault_stop_category -/
abbrev P.faultStopCategory : Nat := 0x0C01
/-- stop_decel -/
abbrev P.stopDecel : Nat := 0x0C02
/-- stop_jerk -/
abbrev P.stopJerk : Nat := 0x0C03
/-- stop_current -/
abbrev P.stopCurrent : Nat := 0x0C04
/-- stop_timeout -/
abbrev P.stopTimeout : Nat := 0x0C05
/-- standstill_speed -/
abbrev P.standstillSpeed : Nat := 0x0C06
/-- standstill_time -/
abbrev P.standstillTime : Nat := 0x0C07
/-- hook_fault_action -/
abbrev P.hookFaultAction : Nat := 0x0C08
/-- enable_timeout -/
abbrev P.enableTimeout : Nat := 0x0C09
/-- precharge_time -/
abbrev P.prechargeTime : Nat := 0x0C0A
/-- pole_pairs -/
abbrev P.polePairs : Nat := 0x0D00
/-- commutation_offset -/
abbrev P.commutationOffset : Nat := 0x0D01
/-- phase_resistance -/
abbrev P.phaseResistance : Nat := 0x0D02
/-- ld -/
abbrev P.ld : Nat := 0x0D03
/-- lq -/
abbrev P.lq : Nat := 0x0D04
/-- flux_linkage -/
abbrev P.fluxLinkage : Nat := 0x0D05
/-- dc_input -/
abbrev P.dcInput : Nat := 0x0E00
/-- dc_fullscale -/
abbrev P.dcFullscale : Nat := 0x0E01
/-- mod_limit -/
abbrev P.modLimit : Nat := 0x0E02
/-- fw_enable -/
abbrev P.fwEnable : Nat := 0x0E03
/-- fw_margin -/
abbrev P.fwMargin : Nat := 0x0E04
/-- fw_gain -/
abbrev P.fwGain : Nat := 0x0E05
/-- id_fw_min -/
abbrev P.idFwMin : Nat := 0x0E06
/-- id_set -/
abbrev P.idSet : Nat := 0x0E07
/-- shunt_fullscale -/
abbrev P.shuntFullscale : Nat := 0x0F00
/-- shunt_window_min -/
abbrev P.shuntWindowMin : Nat := 0x0F01
/-- shunt_slope_comp -/
abbrev P.shuntSlopeComp : Nat := 0x0F02
/-- dead_time -/
abbrev P.deadTime : Nat := 0x0F03
/-- dt_comp -/
abbrev P.dtComp : Nat := 0x0F04
/-- dt_band -/
abbrev P.dtBand : Nat := 0x0F05
/-- obs_enable -/
abbrev P.obsEnable : Nat := 0x1000
/-- obs_bw -/
abbrev P.obsBw : Nat := 0x1001
/-- pll_bw -/
abbrev P.pllBw : Nat := 0x1002
/-- emf_floor -/
abbrev P.emfFloor : Nat := 0x1003
/-- obs_residual_max -/
abbrev P.obsResidualMax : Nat := 0x1004
/-- obs_hold_time -/
abbrev P.obsHoldTime : Nat := 0x1005
/-- hfi_enable -/
abbrev P.hfiEnable : Nat := 0x1100
/-- hfi_voltage -/
abbrev P.hfiVoltage : Nat := 0x1101
/-- hfi_crossover -/
abbrev P.hfiCrossover : Nat := 0x1102
/-- hfi_blend -/
abbrev P.hfiBlend : Nat := 0x1103
/-- hfi_pol_voltage -/
abbrev P.hfiPolVoltage : Nat := 0x1104
/-- hfi_pol_samples -/
abbrev P.hfiPolSamples : Nat := 0x1105
/-- catch_direction -/
abbrev P.catchDirection : Nat := 0x1200
/-- catch_threshold -/
abbrev P.catchThreshold : Nat := 0x1201
/-- catch_decel -/
abbrev P.catchDecel : Nat := 0x1202
/-- catch_current -/
abbrev P.catchCurrent : Nat := 0x1203
/-- listen_emf_min -/
abbrev P.listenEmfMin : Nat := 0x1204
/-- aux_period_ticks -/
abbrev P.auxPeriodTicks : Nat := 0x1300
/-- aux_phase_ticks -/
abbrev P.auxPhaseTicks : Nat := 0x1301
/-- aux_pole_pairs -/
abbrev P.auxPolePairs : Nat := 0x1302
/-- aux_rs -/
abbrev P.auxRs : Nat := 0x1303
/-- aux_ls -/
abbrev P.auxLs : Nat := 0x1304
/-- aux_flux -/
abbrev P.auxFlux : Nat := 0x1305
/-- aux_rated_current -/
abbrev P.auxRatedCurrent : Nat := 0x1306
/-- aux_rated_speed -/
abbrev P.auxRatedSpeed : Nat := 0x1307
/-- aux_rated_voltage -/
abbrev P.auxRatedVoltage : Nat := 0x1308
/-- aux_shunt_fullscale -/
abbrev P.auxShuntFullscale : Nat := 0x1309
/-- aux_window_min -/
abbrev P.auxWindowMin : Nat := 0x130A
/-- aux_dead_time -/
abbrev P.auxDeadTime : Nat := 0x130B
/-- aux_dc_input -/
abbrev P.auxDcInput : Nat := 0x130C
/-- aux_dc_min -/
abbrev P.auxDcMin : Nat := 0x130D
/-- aux_dc_max -/
abbrev P.auxDcMax : Nat := 0x130E
/-- aux_i_limit -/
abbrev P.auxILimit : Nat := 0x130F
/-- aux_cur_bw -/
abbrev P.auxCurBw : Nat := 0x1310
/-- aux_spd_kp -/
abbrev P.auxSpdKp : Nat := 0x1311
/-- aux_spd_ti -/
abbrev P.auxSpdTi : Nat := 0x1312
/-- aux_demand_src -/
abbrev P.auxDemandSrc : Nat := 0x1313
/-- aux_demand -/
abbrev P.auxDemand : Nat := 0x1314
/-- aux_follow -/
abbrev P.auxFollow : Nat := 0x1315
/-- aux_follow_full -/
abbrev P.auxFollowFull : Nat := 0x1316
/-- aux_curve -/
abbrev P.auxCurve : Nat := 0x1317
/-- aux_on -/
abbrev P.auxOn : Nat := 0x1318
/-- aux_off -/
abbrev P.auxOff : Nat := 0x1319
/-- aux_accel -/
abbrev P.auxAccel : Nat := 0x131A
/-- aux_decel -/
abbrev P.auxDecel : Nat := 0x131B
/-- aux_speed_max -/
abbrev P.auxSpeedMax : Nat := 0x131C
/-- aux_direction -/
abbrev P.auxDirection : Nat := 0x131D
/-- aux_stop_speed -/
abbrev P.auxStopSpeed : Nat := 0x131E
/-- aux_start_current -/
abbrev P.auxStartCurrent : Nat := 0x131F
/-- aux_align_time -/
abbrev P.auxAlignTime : Nat := 0x1320
/-- aux_start_accel -/
abbrev P.auxStartAccel : Nat := 0x1321
/-- aux_handover -/
abbrev P.auxHandover : Nat := 0x1322
/-- aux_hall -/
abbrev P.auxHall : Nat := 0x1323
/-- aux_residual_max -/
abbrev P.auxResidualMax : Nat := 0x1324
/-- aux_hold_time -/
abbrev P.auxHoldTime : Nat := 0x1325
/-- aux_catch_threshold -/
abbrev P.auxCatchThreshold : Nat := 0x1326
/-- aux_catch_decel -/
abbrev P.auxCatchDecel : Nat := 0x1327
/-- aux_retry_delay -/
abbrev P.auxRetryDelay : Nat := 0x1328
/-- aux_retry_max -/
abbrev P.auxRetryMax : Nat := 0x1329
/-- aux_catch_current -/
abbrev P.auxCatchCurrent : Nat := 0x132A
/-- aux_listen_emf_min -/
abbrev P.auxListenEmfMin : Nat := 0x132B
/-- trj_v_limit -/
abbrev P.trjVLimit : Nat := 0x1400
/-- trj_a_limit -/
abbrev P.trjALimit : Nat := 0x1401
/-- trj_j_limit -/
abbrev P.trjJLimit : Nat := 0x1402
/-- look_ahead -/
abbrev P.lookAhead : Nat := 0x1403
/-- soft_limit_enable -/
abbrev P.softLimitEnable : Nat := 0x1404
/-- soft_min -/
abbrev P.softMin : Nat := 0x1405
/-- soft_max -/
abbrev P.softMax : Nat := 0x1406
/-- members -/
abbrev P.members : Nat := 0x1500
/-- group_lead -/
abbrev P.groupLead : Nat := 0x1501
/-- limit_pos_input -/
abbrev P.limitPosInput : Nat := 0x1600
/-- limit_neg_input -/
abbrev P.limitNegInput : Nat := 0x1601
/-- limit_level -/
abbrev P.limitLevel : Nat := 0x1602
/-- limit_stop_category -/
abbrev P.limitStopCategory : Nat := 0x1603
/-- home_mode -/
abbrev P.homeMode : Nat := 0x1604
/-- home_input -/
abbrev P.homeInput : Nat := 0x1605
/-- home_level -/
abbrev P.homeLevel : Nat := 0x1606
/-- home_dir -/
abbrev P.homeDir : Nat := 0x1607
/-- home_fast -/
abbrev P.homeFast : Nat := 0x1608
/-- home_slow -/
abbrev P.homeSlow : Nat := 0x1609
/-- home_accel -/
abbrev P.homeAccel : Nat := 0x160A
/-- home_backoff -/
abbrev P.homeBackoff : Nat := 0x160B
/-- home_max_travel -/
abbrev P.homeMaxTravel : Nat := 0x160C
/-- home_position -/
abbrev P.homePosition : Nat := 0x160D
/-- home_move_to -/
abbrev P.homeMoveTo : Nat := 0x160E
/-- va_period_ticks -/
abbrev P.vaPeriodTicks : Nat := 0x1700
/-- va_phase_ticks -/
abbrev P.vaPhaseTicks : Nat := 0x1701
/-- conv_number -/
abbrev P.convNumber : Nat := 0x1800
/-- conv_master -/
abbrev P.convMaster : Nat := 0x1801
/-- conv_source -/
abbrev P.convSource : Nat := 0x1802
/-- conv_period_ticks -/
abbrev P.convPeriodTicks : Nat := 0x1803
/-- conv_phase_ticks -/
abbrev P.convPhaseTicks : Nat := 0x1804
/-- conv_lead -/
abbrev P.convLead : Nat := 0x1805
/-- casc_dir -/
abbrev P.cascDir : Nat := 0x1806
/-- casc_trim -/
abbrev P.cascTrim : Nat := 0x1807
/-- casc_slew -/
abbrev P.cascSlew : Nat := 0x1808
/-- stale_time -/
abbrev P.staleTime : Nat := 0x1900
/-- decouple_category -/
abbrev P.decoupleCategory : Nat := 0x1901
/-- join_vel_tol -/
abbrev P.joinVelTol : Nat := 0x1902
/-- gear_step_max -/
abbrev P.gearStepMax : Nat := 0x1903
/-- gear_num -/
abbrev P.gearNum : Nat := 0x1904
/-- gear_den -/
abbrev P.gearDen : Nat := 0x1905
/-- cam_table -/
abbrev P.camTable : Nat := 0x1906
/-- reg_source -/
abbrev P.regSource : Nat := 0x1A00
/-- reg_channel -/
abbrev P.regChannel : Nat := 0x1A01
/-- reg_pitch -/
abbrev P.regPitch : Nat := 0x1A02
/-- reg_phase -/
abbrev P.regPhase : Nat := 0x1A03
/-- reg_gain -/
abbrev P.regGain : Nat := 0x1A04
/-- reg_deadband -/
abbrev P.regDeadband : Nat := 0x1A05
/-- reg_window -/
abbrev P.regWindow : Nat := 0x1A06
/-- reg_slew -/
abbrev P.regSlew : Nat := 0x1A07
/-- reg_accel -/
abbrev P.regAccel : Nat := 0x1A08
/-- reg_limit -/
abbrev P.regLimit : Nat := 0x1A09
/-- reg_demand -/
abbrev P.regDemand : Nat := 0x1A0A
/-- rem_transport -/
abbrev P.remTransport : Nat := 0x1B00
/-- rem_address -/
abbrev P.remAddress : Nat := 0x1B01
/-- rem_bridge -/
abbrev P.remBridge : Nat := 0x1B02
/-- rem_period_ticks -/
abbrev P.remPeriodTicks : Nat := 0x1B03
/-- rem_phase_ticks -/
abbrev P.remPhaseTicks : Nat := 0x1B04
/-- rem_lead -/
abbrev P.remLead : Nat := 0x1B05
/-- rem_timeout -/
abbrev P.remTimeout : Nat := 0x1B06
/-- rem_enable_timeout -/
abbrev P.remEnableTimeout : Nat := 0x1B07
/-- stp_period_ticks -/
abbrev P.stpPeriodTicks : Nat := 0x1C00
/-- stp_phase_ticks -/
abbrev P.stpPhaseTicks : Nat := 0x1C01
/-- stp_unit_per_turn -/
abbrev P.stpUnitPerTurn : Nat := 0x1C02
/-- stp_full_steps -/
abbrev P.stpFullSteps : Nat := 0x1C03
/-- stp_microsteps -/
abbrev P.stpMicrosteps : Nat := 0x1C04
/-- stp_elec_offset -/
abbrev P.stpElecOffset : Nat := 0x1C05
/-- stp_invert -/
abbrev P.stpInvert : Nat := 0x1C06
/-- stp_table -/
abbrev P.stpTable : Nat := 0x1C07
/-- stp_i_fullscale -/
abbrev P.stpIFullscale : Nat := 0x1C08
/-- stp_i_run -/
abbrev P.stpIRun : Nat := 0x1C09
/-- stp_i_hold -/
abbrev P.stpIHold : Nat := 0x1C0A
/-- stp_i_overcurrent -/
abbrev P.stpIOvercurrent : Nat := 0x1C0B
/-- stp_idle_time -/
abbrev P.stpIdleTime : Nat := 0x1C0C
/-- stp_i_ramp -/
abbrev P.stpIRamp : Nat := 0x1C0D
/-- stp_reg_mode -/
abbrev P.stpRegMode : Nat := 0x1C0E
/-- stp_hyst -/
abbrev P.stpHyst : Nat := 0x1C0F
/-- stp_blank -/
abbrev P.stpBlank : Nat := 0x1C10
/-- stp_toff_min -/
abbrev P.stpToffMin : Nat := 0x1C11
/-- stp_toff_max -/
abbrev P.stpToffMax : Nat := 0x1C12
/-- stp_fast_time -/
abbrev P.stpFastTime : Nat := 0x1C13
/-- stp_adapt_gain -/
abbrev P.stpAdaptGain : Nat := 0x1C14
/-- stp_offset_max -/
abbrev P.stpOffsetMax : Nat := 0x1C15
/-- stp_pwm_ticks -/
abbrev P.stpPwmTicks : Nat := 0x1C16
/-- stp_rs -/
abbrev P.stpRs : Nat := 0x1C17
/-- stp_ls -/
abbrev P.stpLs : Nat := 0x1C18
/-- stp_ke -/
abbrev P.stpKe : Nat := 0x1C19
/-- stp_vm_kp -/
abbrev P.stpVmKp : Nat := 0x1C1A
/-- stp_vm_ki -/
abbrev P.stpVmKi : Nat := 0x1C1B
/-- stp_duty_max -/
abbrev P.stpDutyMax : Nat := 0x1C1C
/-- stp_dc_input -/
abbrev P.stpDcInput : Nat := 0x1C1D
/-- stp_dc_min -/
abbrev P.stpDcMin : Nat := 0x1C1E
/-- stp_dc_max -/
abbrev P.stpDcMax : Nat := 0x1C1F
/-- stp_v_start -/
abbrev P.stpVStart : Nat := 0x1C20
/-- stp_backlog_max -/
abbrev P.stpBacklogMax : Nat := 0x1C21
/-- stp_keep_on_disable -/
abbrev P.stpKeepOnDisable : Nat := 0x1C22
/-- cap_mode -/
abbrev P.capMode : Nat := 0x1D00
/-- cap_cond -/
abbrev P.capCond : Nat := 0x1D01
/-- cap_latch_axes -/
abbrev P.capLatchAxes : Nat := 0x1D02
/-- cap_clock -/
abbrev P.capClock : Nat := 0x1D03
/-- cap_clock_axis -/
abbrev P.capClockAxis : Nat := 0x1D04
/-- cap_period_ticks -/
abbrev P.capPeriodTicks : Nat := 0x1D05
/-- cap_phase_ticks -/
abbrev P.capPhaseTicks : Nat := 0x1D06
/-- cap_raw_dec -/
abbrev P.capRawDec : Nat := 0x1D07
/-- cap_signals -/
abbrev P.capSignals : Nat := 0x1D08
/-- cap_pre -/
abbrev P.capPre : Nat := 0x1D09
/-- cap_post -/
abbrev P.capPost : Nat := 0x1D0A
/-- cap_early -/
abbrev P.capEarly : Nat := 0x1D0B
/-- cap_overflow -/
abbrev P.capOverflow : Nat := 0x1D0C
/-- cap_notify -/
abbrev P.capNotify : Nat := 0x1D0D
/-- cap_spill_mib -/
abbrev P.capSpillMib : Nat := 0x1E00
/-- cap_spill_low -/
abbrev P.capSpillLow : Nat := 0x1E01
/-- udp_port -/
abbrev P.udpPort : Nat := 0x1F00
/-- session_idle -/
abbrev P.sessionIdle : Nat := 0x1F01
/-- remote_timeout -/
abbrev P.remoteTimeout : Nat := 0x1F02
/-- epoch_ticks -/
abbrev P.epochTicks : Nat := 0x1F03
/-- mbx_pcie_reserve -/
abbrev P.mbxPcieReserve : Nat := 0x1F04
/-- hook_kernel -/
abbrev P.hookKernel : Nat := 0x2000
/-- user_prio_max -/
abbrev P.userPrioMax : Nat := 0x2100
/-- sch_user_mib -/
abbrev P.schUserMib : Nat := 0x2101
/-- arb_level -/
abbrev P.arbLevel : Nat := 0x2200
/-- fab_port_mask -/
abbrev P.fabPortMask : Nat := 0x2300
/-- fab_prefer_strict -/
abbrev P.fabPreferStrict : Nat := 0x2301
/-- fab_solo_wait -/
abbrev P.fabSoloWait : Nat := 0x2302
/-- net_serdes -/
abbrev P.netSerdes : Nat := 0x2400
/-- net_ip -/
abbrev P.netIp : Nat := 0x2401
/-- net_mask -/
abbrev P.netMask : Nat := 0x2402
/-- net_gateway -/
abbrev P.netGateway : Nat := 0x2403
/-- net_vlan -/
abbrev P.netVlan : Nat := 0x2404
/-- net_pcp -/
abbrev P.netPcp : Nat := 0x2405
/-- phy_rx_latency -/
abbrev P.phyRxLatency : Nat := 0x2406
/-- phy_tx_latency -/
abbrev P.phyTxLatency : Nat := 0x2407
/-- safe_udp_port -/
abbrev P.safeUdpPort : Nat := 0x2408
/-- rem_udp_port -/
abbrev P.remUdpPort : Nat := 0x2409
/-- safe_second -/
abbrev P.safeSecond : Nat := 0x240A
/-- safe_bridge -/
abbrev P.safeBridge : Nat := 0x240B
/-- qbv_enable -/
abbrev P.qbvEnable : Nat := 0x240C
/-- qbv_list -/
abbrev P.qbvList : Nat := 0x240D
/-- qbv_max_sdu -/
abbrev P.qbvMaxSdu : Nat := 0x240E
/-- ptp_profile -/
abbrev P.ptpProfile : Nat := 0x2500
/-- ptp_domain -/
abbrev P.ptpDomain : Nat := 0x2501
/-- ptp_source_enable -/
abbrev P.ptpSourceEnable : Nat := 0x2502
/-- ptp_log_req_interval -/
abbrev P.ptpLogReqInterval : Nat := 0x2503
/-- ptp_announce_timeout -/
abbrev P.ptpAnnounceTimeout : Nat := 0x2504
/-- can_mode -/
abbrev P.canMode : Nat := 0x2600
/-- can_nom_brp -/
abbrev P.canNomBrp : Nat := 0x2601
/-- can_nom_tseg1 -/
abbrev P.canNomTseg1 : Nat := 0x2602
/-- can_nom_tseg2 -/
abbrev P.canNomTseg2 : Nat := 0x2603
/-- can_nom_sjw -/
abbrev P.canNomSjw : Nat := 0x2604
/-- can_dat_brp -/
abbrev P.canDatBrp : Nat := 0x2605
/-- can_dat_tseg1 -/
abbrev P.canDatTseg1 : Nat := 0x2606
/-- can_dat_tseg2 -/
abbrev P.canDatTseg2 : Nat := 0x2607
/-- can_dat_sjw -/
abbrev P.canDatSjw : Nat := 0x2608
/-- can_tdc -/
abbrev P.canTdc : Nat := 0x2609
/-- can_tdc_offset -/
abbrev P.canTdcOffset : Nat := 0x260A
/-- can_filter -/
abbrev P.canFilter : Nat := 0x260B
/-- fi_type -/
abbrev P.fiType : Nat := 0x2700
/-- fi_debounce -/
abbrev P.fiDebounce : Nat := 0x2701
/-- fi_wb_enable -/
abbrev P.fiWbEnable : Nat := 0x2702
/-- fl_debounce -/
abbrev P.flDebounce : Nat := 0x2800
/-- fo_retry_max -/
abbrev P.foRetryMax : Nat := 0x2900
/-- fio_hb_timeout -/
abbrev P.fioHbTimeout : Nat := 0x2A00
/-- eng_rescue -/
abbrev P.engRescue : Nat := 0x2B00

/-- The rows of a counter table: object classes and members (R546, R547). -/
def counterTable (t : Nat) : List (List ObjClass × Nat) :=
  match t with
  | 0xA0 => [
    ([.module], 1),
    ([.module], 1),
    ([.module], 1),
    ([.module], 1),
    ([.module], 6)]
  | 0xA1 => [
    ([.servo, .aux], 1),
    ([.servo, .aux], 1),
    ([.servo, .aux], 1),
    ([.servo, .aux], 1),
    ([.servo, .aux], 1),
    ([.servo, .aux], 1),
    ([.servo, .aux], 1),
    ([.servo, .aux], 1),
    ([.servo, .aux], 1),
    ([.servo, .aux], 1),
    ([.servo, .aux], 1),
    ([.servo, .aux], 1),
    ([.servo, .aux], 1),
    ([.servo, .aux], 1)]
  | 0xA2 => [
    ([.servo], 1),
    ([.servo], 1),
    ([.servo], 1),
    ([.servo], 1),
    ([.engine], 1),
    ([.engine], 1),
    ([.engine], 1)]
  | 0xA3 => [
    ([.servo], 1),
    ([.servo], 1),
    ([.servo], 1),
    ([.servo], 1),
    ([.servo], 1),
    ([.servo], 1),
    ([.servo], 1)]
  | 0xA4 => [
    ([.servo, .aux], 1),
    ([.servo, .aux], 1),
    ([.servo, .aux], 1),
    ([.servo, .aux], 1),
    ([.servo, .aux], 1),
    ([.servo, .aux], 1),
    ([.servo, .aux], 1),
    ([.aux], 1),
    ([.aux], 1)]
  | 0xA5 => [
    ([.servo, .stepper, .virt, .pathGroup], 1),
    ([.servo, .stepper, .virt, .pathGroup], 1),
    ([.servo, .stepper, .virt, .pathGroup], 1),
    ([.servo, .stepper, .virt, .pathGroup], 1),
    ([.servo, .stepper, .virt, .pathGroup], 1),
    ([.servo, .stepper, .virt, .pathGroup], 1),
    ([.servo, .stepper, .virt, .pathGroup], 1)]
  | 0xA6 => [
    ([.publisher], 1),
    ([.publisher], 1),
    ([.servo, .stepper, .virt, .remote], 1),
    ([.servo, .stepper, .virt, .remote], 1),
    ([.servo, .stepper, .virt, .remote], 1),
    ([.servo, .stepper, .virt, .remote], 1),
    ([.servo, .stepper, .virt, .remote], 1),
    ([.servo, .stepper, .virt, .remote], 1),
    ([.servo, .stepper, .virt, .remote], 1),
    ([.remote], 1)]
  | 0xA7 => [
    ([.stepper], 1),
    ([.stepper], 1),
    ([.stepper], 1),
    ([.stepper], 1),
    ([.stepper], 1)]
  | 0xA8 => [
    ([.cap], 1),
    ([.cap], 1),
    ([.cap], 1),
    ([.cap], 1),
    ([.cap], 1),
    ([.cap], 1),
    ([.cap], 1),
    ([.cap], 1),
    ([.cap], 1),
    ([.module], 1),
    ([.module], 1)]
  | 0xA9 => [
    ([.mbx], 1),
    ([.mbx], 1),
    ([.mbx], 1),
    ([.mbx], 1),
    ([.mbx], 1),
    ([.module], 1),
    ([.eth], 1),
    ([.eth], 1),
    ([.eth], 1)]
  | 0xAA => [
    ([.core], 1),
    ([.core], 1),
    ([.module], 1),
    ([.module], 1),
    ([.module], 1),
    ([.module], 1)]
  | 0xAB => [
    ([.arbiter, .engine, .fabPort], 1),
    ([.arbiter, .engine, .fabPort], 1),
    ([.module], 1),
    ([.module], 1)]
  | 0xAC => [
    ([.fabPort], 1),
    ([.fabPort], 1),
    ([.fabPort], 1),
    ([.fabPort], 1),
    ([.fabPort], 1),
    ([.fabPort], 1),
    ([.fabPort], 1),
    ([.fabPort], 1),
    ([.fabPort], 1),
    ([.fabPort], 1),
    ([.fabPort], 1),
    ([.fabPort], 1),
    ([.fabPort], 1),
    ([.fabPort], 1),
    ([.fabPort], 1),
    ([.module], 1),
    ([.module], 1),
    ([.module], 1),
    ([.module], 1)]
  | 0xAD => [
    ([.eth], 1),
    ([.eth], 1),
    ([.eth], 1),
    ([.eth], 1),
    ([.eth], 1),
    ([.eth], 1),
    ([.eth], 6),
    ([.eth], 1),
    ([.eth], 1),
    ([.eth], 1),
    ([.eth], 1),
    ([.eth], 1),
    ([.eth], 1),
    ([.eth], 1),
    ([.eth], 1)]
  | 0xAE => [
    ([.can], 1),
    ([.can], 1),
    ([.can], 1),
    ([.can], 1),
    ([.can], 1),
    ([.can], 1),
    ([.can], 1),
    ([.can], 1),
    ([.can], 1),
    ([.can], 1),
    ([.can], 1),
    ([.can], 1),
    ([.can], 1),
    ([.can], 1),
    ([.can], 1)]
  | 0xAF => [
    ([.fieldIn], 1),
    ([.fieldIn], 1),
    ([.latchIn], 1),
    ([.fieldOut], 1),
    ([.fieldOut], 1),
    ([.supply], 1),
    ([.module], 2),
    ([.module], 2)]
  | 0xB0 => [
    ([.stoGroup], 1),
    ([.stoGroup], 1),
    ([.stoGroup], 1),
    ([.safeFunc], 1),
    ([.servo], 1),
    ([.safeConn], 1),
    ([.safeConn], 1),
    ([.safeConn], 1),
    ([.safeConn], 1),
    ([.safeConn, .module], 1),
    ([.safeConn, .module], 1),
    ([.safeIn], 1)]
  | 0xB1 => [
    ([.module], 5),
    ([.module], 1),
    ([.module], 1),
    ([.engine], 1),
    ([.engine], 1),
    ([.engine], 1)]
  | _ => []

/-! Counter codes by name. -/

/-- TIM_RATE_SAT_CNT -/
abbrev C.timRateSatCnt : Nat := 0xA000
/-- TIM_OUTLIER_CNT -/
abbrev C.timOutlierCnt : Nat := 0xA001
/-- TIM_SOURCE_LOSS_CNT -/
abbrev C.timSourceLossCnt : Nat := 0xA002
/-- TIM_STEP_CNT -/
abbrev C.timStepCnt : Nat := 0xA003
/-- TIM_TXP_ERR -/
abbrev C.timTxpErr : Nat := 0xA004
/-- FBK_QUAD_ERR -/
abbrev C.fbkQuadErr : Nat := 0xA100
/-- FBK_INDEX_CORR -/
abbrev C.fbkIndexCorr : Nat := 0xA101
/-- FBK_INDEX_MISMATCH -/
abbrev C.fbkIndexMismatch : Nat := 0xA102
/-- FBK_WORD_CRC -/
abbrev C.fbkWordCrc : Nat := 0xA103
/-- FBK_WORD_ERRBIT -/
abbrev C.fbkWordErrbit : Nat := 0xA104
/-- FBK_WORD_TIMEOUT -/
abbrev C.fbkWordTimeout : Nat := 0xA105
/-- FBK_WORD_FRAME -/
abbrev C.fbkWordFrame : Nat := 0xA106
/-- FBK_WORD_JUMP -/
abbrev C.fbkWordJump : Nat := 0xA107
/-- FBK_SUBST -/
abbrev C.fbkSubst : Nat := 0xA108
/-- FBK_LOSS -/
abbrev C.fbkLoss : Nat := 0xA109
/-- FBK_FREEZE -/
abbrev C.fbkFreeze : Nat := 0xA10A
/-- FBK_UNSOLICITED -/
abbrev C.fbkUnsolicited : Nat := 0xA10B
/-- FBK_LSP_WARN -/
abbrev C.fbkLspWarn : Nat := 0xA10C
/-- FBK_HALL_ERR -/
abbrev C.fbkHallErr : Nat := 0xA10D
/-- LE_BUDGET_OVERRUN -/
abbrev C.leBudgetOverrun : Nat := 0xA200
/-- LE_HOOK_FAULT -/
abbrev C.leHookFault : Nat := 0xA201
/-- LE_ACC_OVF -/
abbrev C.leAccOvf : Nat := 0xA202
/-- LE_EXT_SAT -/
abbrev C.leExtSat : Nat := 0xA203
/-- LE_ECC_CORR -/
abbrev C.leEccCorr : Nat := 0xA204
/-- LE_ECC_UNCORR -/
abbrev C.leEccUncorr : Nat := 0xA205
/-- LE_BANK_ERR -/
abbrev C.leBankErr : Nat := 0xA206
/-- LOOP_SET_SWITCH -/
abbrev C.loopSetSwitch : Nat := 0xA300
/-- LOOP_RESCALE -/
abbrev C.loopRescale : Nat := 0xA301
/-- LOOP_SAT_ENTRY -/
abbrev C.loopSatEntry : Nat := 0xA302
/-- LOOP_SPEED_LIMIT -/
abbrev C.loopSpeedLimit : Nat := 0xA303
/-- LOOP_TORQUE_LIMIT -/
abbrev C.loopTorqueLimit : Nat := 0xA304
/-- LOOP_STOP -/
abbrev C.loopStop : Nat := 0xA305
/-- LOOP_FAULT -/
abbrev C.loopFault : Nat := 0xA306
/-- PWM_WINDOW_SHIFT -/
abbrev C.pwmWindowShift : Nat := 0xA400
/-- PWM_MOD_LIMIT -/
abbrev C.pwmModLimit : Nat := 0xA401
/-- FOC_VECTOR_LIMIT -/
abbrev C.focVectorLimit : Nat := 0xA402
/-- FOC_SHUNT_CLIP -/
abbrev C.focShuntClip : Nat := 0xA403
/-- FOC_OBS_LOSS -/
abbrev C.focObsLoss : Nat := 0xA404
/-- FOC_OBS_REACQ -/
abbrev C.focObsReacq : Nat := 0xA405
/-- FOC_CATCH -/
abbrev C.focCatch : Nat := 0xA406
/-- AUX_SPEED_CAP -/
abbrev C.auxSpeedCap : Nat := 0xA407
/-- AUX_RETRY -/
abbrev C.auxRetry : Nat := 0xA408
/-- TRJ_MOVES_DONE -/
abbrev C.trjMovesDone : Nat := 0xA500
/-- TRJ_BLENDS -/
abbrev C.trjBlends : Nat := 0xA501
/-- TRJ_LIMITS_REJECTED -/
abbrev C.trjLimitsRejected : Nat := 0xA502
/-- TRJ_CANCEL -/
abbrev C.trjCancel : Nat := 0xA503
/-- TRJ_LIMIT_HIT -/
abbrev C.trjLimitHit : Nat := 0xA504
/-- TRJ_HOME_FAIL -/
abbrev C.trjHomeFail : Nat := 0xA505
/-- TRJ_STARVED -/
abbrev C.trjStarved : Nat := 0xA506
/-- GEAR_PUB_TX -/
abbrev C.gearPubTx : Nat := 0xA600
/-- GEAR_PUB_MERGED -/
abbrev C.gearPubMerged : Nat := 0xA601
/-- GEAR_PUB_RX -/
abbrev C.gearPubRx : Nat := 0xA602
/-- GEAR_PUB_DUP -/
abbrev C.gearPubDup : Nat := 0xA603
/-- GEAR_PUB_GAP -/
abbrev C.gearPubGap : Nat := 0xA604
/-- GEAR_LATE -/
abbrev C.gearLate : Nat := 0xA605
/-- GEAR_DECOUPLE -/
abbrev C.gearDecouple : Nat := 0xA606
/-- GEAR_REG_ACCEPT -/
abbrev C.gearRegAccept : Nat := 0xA607
/-- GEAR_REG_REJECT -/
abbrev C.gearRegReject : Nat := 0xA608
/-- GEAR_REM_DROP -/
abbrev C.gearRemDrop : Nat := 0xA609
/-- STP_RATE_LIMIT -/
abbrev C.stpRateLimit : Nat := 0xA700
/-- STP_UNCERTAIN -/
abbrev C.stpUncertain : Nat := 0xA701
/-- STP_OFFSET_LIMIT -/
abbrev C.stpOffsetLimit : Nat := 0xA702
/-- STP_TOFF_MAX -/
abbrev C.stpToffMax : Nat := 0xA703
/-- STP_FAULT -/
abbrev C.stpFault : Nat := 0xA704
/-- CAP_TRIG -/
abbrev C.capTrig : Nat := 0xA800
/-- CAP_COINCIDENT -/
abbrev C.capCoincident : Nat := 0xA801
/-- CAP_MISSED -/
abbrev C.capMissed : Nat := 0xA802
/-- CAP_NO_SPACE -/
abbrev C.capNoSpace : Nat := 0xA803
/-- CAP_EARLY -/
abbrev C.capEarly : Nat := 0xA804
/-- CAP_EARLY_IGNORED -/
abbrev C.capEarlyIgnored : Nat := 0xA805
/-- CAP_OVERWRITE -/
abbrev C.capOverwrite : Nat := 0xA806
/-- CAP_LATCH_DROP -/
abbrev C.capLatchDrop : Nat := 0xA807
/-- CAP_POS_INVALID -/
abbrev C.capPosInvalid : Nat := 0xA808
/-- CAP_SPILL -/
abbrev C.capSpill : Nat := 0xA809
/-- CAP_LOST -/
abbrev C.capLost : Nat := 0xA80A
/-- MBX_CMD_ACCEPTED -/
abbrev C.mbxCmdAccepted : Nat := 0xA900
/-- MBX_MALFORMED -/
abbrev C.mbxMalformed : Nat := 0xA901
/-- MBX_BAD_DOORBELL -/
abbrev C.mbxBadDoorbell : Nat := 0xA902
/-- MBX_RSP_STALL -/
abbrev C.mbxRspStall : Nat := 0xA903
/-- MBX_BUSY_BOOT -/
abbrev C.mbxBusyBoot : Nat := 0xA904
/-- MBX_BAD_ACCESS -/
abbrev C.mbxBadAccess : Nat := 0xA905
/-- MBX_UDP_AUTH_FAIL -/
abbrev C.mbxUdpAuthFail : Nat := 0xA906
/-- MBX_UDP_REPLAY -/
abbrev C.mbxUdpReplay : Nat := 0xA907
/-- MBX_UDP_HELLO_DROP -/
abbrev C.mbxUdpHelloDrop : Nat := 0xA908
/-- SCH_DISPATCH -/
abbrev C.schDispatch : Nat := 0xAA00
/-- SCH_PREEMPT -/
abbrev C.schPreempt : Nat := 0xAA01
/-- SCH_AGE_RAISE -/
abbrev C.schAgeRaise : Nat := 0xAA02
/-- SCH_TIMEOUT -/
abbrev C.schTimeout : Nat := 0xAA03
/-- SCH_CANCEL_BEFORE -/
abbrev C.schCancelBefore : Nat := 0xAA04
/-- SCH_THREAD_FAULT -/
abbrev C.schThreadFault : Nat := 0xAA05
/-- ARB_OVERHOLD_CNT -/
abbrev C.arbOverholdCnt : Nat := 0xAB00
/-- ARB_SLOT_WIN -/
abbrev C.arbSlotWin : Nat := 0xAB01
/-- LOCK_WAIT_CYCLE -/
abbrev C.lockWaitCycle : Nat := 0xAB02
/-- LOCK_WAITS -/
abbrev C.lockWaits : Nat := 0xAB03
/-- FAB_RX_FRAMES -/
abbrev C.fabRxFrames : Nat := 0xAC00
/-- FAB_TX_FRAMES -/
abbrev C.fabTxFrames : Nat := 0xAC01
/-- FAB_RX_BLOCK_ERR -/
abbrev C.fabRxBlockErr : Nat := 0xAC02
/-- FAB_RX_CTRL_ERR -/
abbrev C.fabRxCtrlErr : Nat := 0xAC03
/-- FAB_RX_CRC -/
abbrev C.fabRxCrc : Nat := 0xAC04
/-- FAB_RX_ABORT -/
abbrev C.fabRxAbort : Nat := 0xAC05
/-- FAB_CREDIT_RESYNC -/
abbrev C.fabCreditResync : Nat := 0xAC06
/-- FAB_RX_MALFORMED -/
abbrev C.fabRxMalformed : Nat := 0xAC07
/-- FAB_RX_UNSOLICITED -/
abbrev C.fabRxUnsolicited : Nat := 0xAC08
/-- FAB_VIOLATION -/
abbrev C.fabViolation : Nat := 0xAC09
/-- FAB_BENCH_CNT -/
abbrev C.fabBenchCnt : Nat := 0xAC0A
/-- FAB_BENCH_DROP -/
abbrev C.fabBenchDrop : Nat := 0xAC0B
/-- FAB_MGMT_DROP -/
abbrev C.fabMgmtDrop : Nat := 0xAC0C
/-- FAB_TRAIN_FAIL -/
abbrev C.fabTrainFail : Nat := 0xAC0D
/-- FAB_LINK_DOWN_CNT -/
abbrev C.fabLinkDownCnt : Nat := 0xAC0E
/-- FAB_NO_ROUTE -/
abbrev C.fabNoRoute : Nat := 0xAC0F
/-- FAB_HOP_LIMIT -/
abbrev C.fabHopLimit : Nat := 0xAC10
/-- FAB_REROUTE -/
abbrev C.fabReroute : Nat := 0xAC11
/-- FAB_RECOMPUTE -/
abbrev C.fabRecompute : Nat := 0xAC12
/-- NET_RX_FRAMES -/
abbrev C.netRxFrames : Nat := 0xAD00
/-- NET_TX_FRAMES -/
abbrev C.netTxFrames : Nat := 0xAD01
/-- NET_RX_FCS_ERR -/
abbrev C.netRxFcsErr : Nat := 0xAD02
/-- NET_RX_LEN_ERR -/
abbrev C.netRxLenErr : Nat := 0xAD03
/-- NET_RX_UNKNOWN -/
abbrev C.netRxUnknown : Nat := 0xAD04
/-- NET_RX_PAUSE -/
abbrev C.netRxPause : Nat := 0xAD05
/-- NET_RX_DROP -/
abbrev C.netRxDrop : Nat := 0xAD06
/-- NET_ARP_FAIL -/
abbrev C.netArpFail : Nat := 0xAD07
/-- NET_FRAG_DROP -/
abbrev C.netFragDrop : Nat := 0xAD08
/-- NET_TX_DROP -/
abbrev C.netTxDrop : Nat := 0xAD09
/-- NET_TX_LATE -/
abbrev C.netTxLate : Nat := 0xAD0A
/-- NET_TX_OVERSIZE -/
abbrev C.netTxOversize : Nat := 0xAD0B
/-- NET_PTP_BAD -/
abbrev C.netPtpBad : Nat := 0xAD0C
/-- NET_PTP_IGNORED -/
abbrev C.netPtpIgnored : Nat := 0xAD0D
/-- NET_SAFE_UNSENT -/
abbrev C.netSafeUnsent : Nat := 0xAD0E
/-- CAN_TX_OK -/
abbrev C.canTxOk : Nat := 0xAE00
/-- CAN_RX_OK -/
abbrev C.canRxOk : Nat := 0xAE01
/-- CAN_ARB_LOST -/
abbrev C.canArbLost : Nat := 0xAE02
/-- CAN_STUFF_ERR -/
abbrev C.canStuffErr : Nat := 0xAE03
/-- CAN_FORM_ERR -/
abbrev C.canFormErr : Nat := 0xAE04
/-- CAN_ACK_ERR -/
abbrev C.canAckErr : Nat := 0xAE05
/-- CAN_BIT_ERR -/
abbrev C.canBitErr : Nat := 0xAE06
/-- CAN_CRC_ERR -/
abbrev C.canCrcErr : Nat := 0xAE07
/-- CAN_ID_COLLISION -/
abbrev C.canIdCollision : Nat := 0xAE08
/-- CAN_RX_REMOTE -/
abbrev C.canRxRemote : Nat := 0xAE09
/-- CAN_RX_FILTERED -/
abbrev C.canRxFiltered : Nat := 0xAE0A
/-- CAN_RX_OVERFLOW -/
abbrev C.canRxOverflow : Nat := 0xAE0B
/-- CAN_BUS_OFF_CNT -/
abbrev C.canBusOffCnt : Nat := 0xAE0C
/-- CAN_TX_CANCELLED -/
abbrev C.canTxCancelled : Nat := 0xAE0D
/-- CAN_CANCEL_LATE -/
abbrev C.canCancelLate : Nat := 0xAE0E
/-- FIO_IN_CHANGES -/
abbrev C.fioInChanges : Nat := 0xAF00
/-- FIO_WB_CNT -/
abbrev C.fioWbCnt : Nat := 0xAF01
/-- FIO_LATCH_EDGES -/
abbrev C.fioLatchEdges : Nat := 0xAF02
/-- FIO_OUT_LIMIT -/
abbrev C.fioOutLimit : Nat := 0xAF03
/-- FIO_OUT_TSD -/
abbrev C.fioOutTsd : Nat := 0xAF04
/-- FIO_SUP_CHANGES -/
abbrev C.fioSupChanges : Nat := 0xAF05
/-- FIO_FRAME_ERR -/
abbrev C.fioFrameErr : Nat := 0xAF06
/-- FIO_HB_LOST -/
abbrev C.fioHbLost : Nat := 0xAF07
/-- SAF_STO_CNT -/
abbrev C.safStoCnt : Nat := 0xB000
/-- SAF_TEST_OK -/
abbrev C.safTestOk : Nat := 0xB001
/-- SAF_TEST_FAIL_CNT -/
abbrev C.safTestFailCnt : Nat := 0xB002
/-- SAF_VIOLATION -/
abbrev C.safViolation : Nat := 0xB003
/-- SAF_IMPLAUSIBLE -/
abbrev C.safImplausible : Nat := 0xB004
/-- SAF_NET_PAIRS -/
abbrev C.safNetPairs : Nat := 0xB005
/-- SAF_NET_MISSING -/
abbrev C.safNetMissing : Nat := 0xB006
/-- SAF_NET_MISMATCH_CNT -/
abbrev C.safNetMismatchCnt : Nat := 0xB007
/-- SAF_NET_WATCHDOG -/
abbrev C.safNetWatchdog : Nat := 0xB008
/-- SAF_NET_BAD -/
abbrev C.safNetBad : Nat := 0xB009
/-- SAF_NET_SEQ -/
abbrev C.safNetSeq : Nat := 0xB00A
/-- SAF_SI_TEST_FAIL -/
abbrev C.safSiTestFail : Nat := 0xB00B
/-- PWR_ENTRY -/
abbrev C.pwrEntry : Nat := 0xB100
/-- PWR_THERMAL_CNT -/
abbrev C.pwrThermalCnt : Nat := 0xB101
/-- SUP_RESTART_CNT -/
abbrev C.supRestartCnt : Nat := 0xB102
/-- LE_MIGRATE_OUT -/
abbrev C.leMigrateOut : Nat := 0xB103
/-- LE_MIGRATE_IN -/
abbrev C.leMigrateIn : Nat := 0xB104
/-- LE_RESCUE -/
abbrev C.leRescue : Nat := 0xB105
/-- PWM_LATE_UPDATE (R45): no counter table of the spec names it, so its code is the model's own (log entry 10). -/
abbrev C.pwmLateUpdate : Nat := 0xFF00

end Sys2Proof.Machine
end

