-- ==== Sys2Proof/Machine/Ops.lean ====
section
/-! DEFINITION. The shared operations of the block: time readings and comparisons, the endpoint map, parameters, counters,
events with their ring, and the records of commands. -/

namespace Sys2Proof.Machine

/-- The outcome of a command. -/
abbrev Out := Host.Outcome State Fault Refusal

/-! ### Time (R9 to R12) -/

/-- FT: bits [47:16] of FT.16 (R9). -/
def State.ft (s : State) : Ft := (s.time.ft16 >>> 16).truncate 32

/-- FT.8 of the present tick (R9). -/
def State.ft8 (s : State) : Ft8 := (s.time.ft16 >>> 8).truncate 40

/-- XT [63:32] as of now: the sampled wrap count, one more when FT has wrapped since the sample (R10, R83). -/
def State.xtWraps (s : State) : Nat :=
  (s.time.xtHi.toNat + (if s.ft < s.time.lastSample then 1 else 0)) % 2 ^ 32

/-- XT.16 of the present tick: XT with 16 bits of fraction. -/
def State.xt16 (s : State) : Nat := s.xtWraps * 2 ^ 48 + s.time.ft16.toNat

/-- XT of the present tick (R10). -/
def State.xt (s : State) : Nat := s.xt16 / 2 ^ 16

/-- The signed difference a - b of R12. -/
def ftDiff (a b : Ft) : Int := (a - b).toInt

/-- `a` is later than `b` (R12). -/
def ftLater (a b : Ft) : Bool := decide (0 < ftDiff a b)

/-- XT.16 of an FT read against the present XT (R12, R13). -/
def State.xtOfFt (s : State) (a : Ft) : Nat := ((s.xt : Int) + ftDiff a s.ft).toNat * 2 ^ 16

/-- The signed difference a - b of two FT.16 values, in units of 2^-16 ns (R12 on the finer scale). -/
def ft16Diff (a b : Ft16) : Int := (a - b).toInt

/-- The signed difference a - b of two FT.8 values, in units of 2^-8 ns. -/
def ft8Diff (a b : Ft8) : Int := (a - b).toInt

/-- XT.16 of an FT.16 read against the present XT. -/
def State.xtOfFt16 (s : State) (a : Ft16) : Nat := ((s.xt16 : Int) + ft16Diff a s.time.ft16).toNat

/-- XT.16 of an FT.8. -/
def State.xtOfFt8 (s : State) (a : Ft8) : Nat := s.xtOfFt16 ((a.zeroExtend 48) <<< 8)

/-- FT.16 of an XT.16. -/
def ft16Of (x : Nat) : Ft16 := BitVec.ofNat 48 x

/-- FT.8 of an XT.16. -/
def ft8Of (x : Nat) : Ft8 := BitVec.ofNat 40 (x / 256)

/-- FT of an XT.16. -/
def ftOf (x : Nat) : Ft := BitVec.ofNat 32 (x / 2 ^ 16)

/-- Nanoseconds of a signed FT.16 difference. -/
def nsOf (d : Int) : Rat := (d : Rat) / 65536

/-- Seconds of a signed FT.16 difference. -/
def secOf (d : Int) : Rat := (d : Rat) / (65536 * 1000000000)

/-- FT.16 units of a number of nanoseconds, truncated. -/
def unitsOfNs (r : Rat) : Int := (r * 65536).floor

/-- FT.16 units of one tick of 15.625 ns (R59). -/
def tickUnits : Nat := 1024000

/-- At least `t` ticks of 15.625 ns have passed since tick `since`. -/
def State.passed (s : State) (since : Nat) (t : Rat) : Bool := decide (t ≤ (s.tick : Rat) - (since : Rat))

/-- A timeout of `t` ticks from tick `since` that awaits an arrival has expired: an arrival of the very tick in which it would
expire is still taken, so it has no effect before the tick after (R33). -/
def State.expired (s : State) (since : Nat) (t : Rat) : Bool := decide (t < (s.tick : Rat) - (since : Rat))

/-- Ticks of a number of microseconds. -/
def usTicks (r : Rat) : Rat := 64 * r
/-- Ticks of a number of milliseconds. -/
def msTicks (r : Rat) : Rat := 64000 * r

/-- The first instant of the grid of `n` ticks and phase `p` at or after an XT.16 (R85). -/
def gridAtOrAfter (n p x : Nat) : Nat :=
  let per := n * tickUnits
  let ph := p * tickUnits
  if x ≤ ph then ph else ph + ((x - ph + per - 1) / per) * per

/-- An XT.16 lies on the grid of `n` ticks and phase `p` (R85). -/
def onGrid (n p x : Nat) : Bool := decide (p * tickUnits ≤ x) && ((x - p * tickUnits) % (n * tickUnits) == 0)

/-- The last instant of a grid at or before an XT.16; the phase itself before it. -/
def gridAtOrBefore (n p x : Nat) : Nat :=
  let per := n * tickUnits
  let ph := p * tickUnits
  if x ≤ ph then ph else ph + ((x - ph) / per) * per

/-! ### Sorting -/

/-- `x` before the first element it does not come after. -/
def insertBy {α : Type} (le : α → α → Bool) (x : α) : List α → List α
  | [] => [x]
  | y :: l => if le x y then x :: y :: l else y :: insertBy le x l

/-- A list in rising order of `le`; equal elements keep their order. -/
def sortBy {α : Type} (le : α → α → Bool) (l : List α) : List α := l.foldr (insertBy le) []

/-! ### Free values -/

/-- A free value and the state with the count of free values advanced (log entry 4). -/
def State.fresh (s : State) : Nat := Config.freeNat s.freeCtr
/-- The state after a free value is taken. -/
def State.took (s : State) : State := { s with freeCtr := s.freeCtr + 1 }

/-! ### Endpoint map (R17, R548) -/

/-- Rows of the endpoint map: first, last, class. -/
def epMap : List (Nat × Nat × ObjClass) := [
  (0x0000, 0x001F, .servo), (0x0020, 0x003F, .stepper), (0x0040, 0x004F, .aux), (0x0100, 0x01FF, .virt),
  (0x0200, 0x027F, .remote), (0x0400, 0x043F, .fieldIn), (0x0440, 0x045F, .fieldOut), (0x0460, 0x046F, .latchIn),
  (0x0480, 0x0483, .supply), (0x0600, 0x06FF, .cam), (0x0800, 0x08FF, .cap), (0x0A00, 0x0A03, .can),
  (0x0A10, 0x0A11, .eth), (0x0A20, 0x0A23, .fabPort), (0x0C00, 0x0C07, .stoGroup), (0x0C10, 0x0C5F, .safeFunc)] ++ [
  (0x1F00, 0x1F00, .module), (0x1F10, 0x1F1F, .engine), (0x1F20, 0x1F27, .core), (0x1F30, 0x1F31, .arbiter),
  (0x1F40, 0x1F5F, .pathGroup), (0x1F60, 0x1F6F, .publisher), (0x1F80, 0x1FBF, .mbx), (0x1FC0, 0x1FC7, .safeIn),
  (0x1FC8, 0x1FD7, .safeConn)]

/-- Class of a local endpoint and the index of its object; none for an endpoint outside the map (R16, R17). -/
def classOf (ep : Nat) : Option (ObjClass × Nat) :=
  (epMap.find? (fun r => decide (r.1 ≤ ep) && decide (ep ≤ r.2.1))).map (fun r => (r.2.2, ep - r.1))

/-- Endpoint of a servo axis, stepper channel and so on. -/
def epServo (i : Nat) : Nat := i
/-- Endpoint of a stepper channel. -/
def epStepper (i : Nat) : Nat := 0x20 + i
/-- Endpoint of an auxiliary drive. -/
def epAux (i : Nat) : Nat := 0x40 + i
/-- Endpoint of a virtual axis. -/
def epVirt (i : Nat) : Nat := 0x100 + i
/-- Endpoint of a remote axis. -/
def epRemote (i : Nat) : Nat := 0x200 + i
/-- Endpoint of a capture channel. -/
def epCap (i : Nat) : Nat := 0x800 + i
/-- Endpoint of a CAN channel. -/
def epCan (i : Nat) : Nat := 0xA00 + i
/-- Endpoint of an Ethernet port. -/
def epEth (i : Nat) : Nat := 0xA10 + i
/-- Endpoint of a fabric port. -/
def epFab (i : Nat) : Nat := 0xA20 + i
/-- The module object. -/
def epModule : Nat := 0x1F00
/-- Endpoint of an engine. -/
def epEngine (i : Nat) : Nat := 0x1F10 + i
/-- Endpoint of a path group. -/
def epGroup (i : Nat) : Nat := 0x1F40 + i
/-- Endpoint of a publisher. -/
def epPub (i : Nat) : Nat := 0x1F60 + i
/-- Endpoint of a mailbox. -/
def epMbx (i : Nat) : Nat := 0x1F80 + i
/-- Endpoint of an STO group. -/
def epSto (i : Nat) : Nat := 0xC00 + i

/-- Fabric endpoint address of a local endpoint (R13's preamble: device << 13 | endpoint). -/
def State.fa (s : State) (ep : Nat) : Nat := s.fabric.device * 8192 + ep

/-! ### Parameters (R545 to R549) -/

/-- Key of an item: endpoint, code and index. -/
def itemKey (ep code idx : Nat) : Nat := ep * 2 ^ 32 + code * 2 ^ 16 + idx

/-- Default level of a requester (R608). -/
def arbDefault (ep idx : Nat) : Nat :=
  if ep = 0x1F30 then (if idx = 16 then 3 else 4)
  else if ep = 0x1F31 then (if idx = 8 then 2 else if idx = 9 then 5 else 4)
  else if 0xA20 ≤ ep ∧ ep ≤ 0xA23 then [7, 4, 5, 2].getD idx 0
  else if 8 ≤ idx then 5 else 4

/-- The factory default of stp_table, "sine": 0 at 0 degrees and 65,535 at 90 degrees (R425), the entries between them free
(log entry 18). -/
def sineTable : Nat := 65535 * 2 ^ 16384 + Config.sineTable % 2 ^ 16368 * 65536

/-- Factory default of an item, raw: the table's, with the defaults that depend on the object or index. -/
def paramDefault (ep code idx : Nat) : Nat :=
  if code = P.dcInput then ep % 32
  else if code = P.netPcp then idx
  else if code = P.arbLevel then arbDefault ep idx
  else if code = P.canFilter then (if idx = 0 then 0x40000000 else 0)
  else if code = P.stpTable then sineTable
  else match findParam code with
    | some p => p.dflt
    | none => 0

/-- A committed item, raw little-endian. -/
def State.par (s : State) (ep code : Nat) (idx : Nat := 0) : Nat := mget s.cfg (itemKey ep code idx) (paramDefault ep code idx)

/-- A committed item set. -/
def State.setPar (s : State) (ep code idx v : Nat) : State :=
  { s with cfg := mset s.cfg (itemKey ep code idx) v (paramDefault ep code idx) }

/-- Bytes of an item of variable length: the stored value carries a 1 above its last byte; 0 is the empty array. -/
def arrLen (v : Nat) : Nat := Nat.log2 v / 8

/-- The bytes of an item of variable length. -/
def arrBytes (v : Nat) : List Byte := leBytes (arrLen v) v

/-- A binary32 parameter. -/
def State.parF (s : State) (ep code : Nat) (idx : Nat := 0) : Rat := f32Val (s.par ep code idx)

/-- A signed 32-bit parameter. -/
def State.parZ (s : State) (ep code : Nat) (idx : Nat := 0) : Int := signedOf 32 (s.par ep code idx)

/-- A Q32.32 parameter. -/
def State.parQ (s : State) (ep code : Nat) (idx : Nat := 0) : Q32 := signedOf 64 (s.par ep code idx)

/-! ### Counters (32-bit, saturating, cleared by reading: R21 and the counter rule of each chapter) -/

/-- A counter. -/
def State.count (s : State) (ep code : Nat) (idx : Nat := 0) : Nat := mget s.ctr (itemKey ep code idx) 0

/-- A 32-bit saturating counter raised by `n`. -/
def State.bumpBy (s : State) (ep code idx n : Nat) : State :=
  { s with ctr := mset s.ctr (itemKey ep code idx) (min 4294967295 (s.count ep code idx + n)) 0 }

/-- A counter incremented. -/
def State.bump (s : State) (ep code : Nat) (idx : Nat := 0) : State := s.bumpBy ep code idx 1

/-- A counter incremented when a condition holds. -/
def State.bumpIf (s : State) (b : Bool) (ep code : Nat) (idx : Nat := 0) : State := if b then s.bump ep code idx else s

/-! ### Events (R533 to R535, R561, R563) -/

/-- Entries of the event ring. -/
def evtRingSize : Nat := 4096

/-- Records in the event ring that the host has not taken. -/
def Events.used (e : Events) : Nat := (e.tail - e.head).toNat

/-- An advance of evt_tail signalled under R535 at a tick. -/
def Events.signal (e : Events) (tick : Nat) : Events :=
  match e.lastMsi with
  | some t =>
    if tick < t + 64 * e.moderation then { e with msiDue := true }
    else { e with lastMsi := some tick, msix := e.vector :: e.msix }
  | none => { e with lastMsi := some tick, msix := e.vector :: e.msix }

/-- A record written into the ring, which has room. -/
def Events.put (e : Events) (r : EventRec) (tick : Nat) : Events :=
  { e with ring := r :: e.ring, tail := e.tail + 1 }.signal tick

/-- A logged record offered to the ring: nothing while the ring is disabled; counted as lost when it is full (R533, R534). -/
def Events.offer (e : Events) (r : EventRec) (tick : Nat) : Events :=
  if !e.enable then e
  else if e.used < evtRingSize then e.put r tick
  else
    { e with
      lost := min 4294967295 (e.lost + 1)
      lostAt := (tick, if e.lostAt.1 = tick then e.lostAt.2 + 1 else 1)
      lostRun := match e.lostRun with
        | none => some (1, r.t, r.t)
        | some (n, a, _) => some (n + 1, a, r.t) }

/-- A record logged: into the event log, of which the newest 65,536 are kept, and the ring (R533, R561). -/
def Events.append (e : Events) (r : EventRec) (tick : Nat) : Events :=
  { e.offer r tick with log := (r :: e.log).take 65536, next := e.next + 1 }

/-- An event logged with its instant, source endpoint, code, count and data. -/
def State.logFull (s : State) (t : Ft8) (ep : Nat) (code : BitVec 16) (count data : Nat) : State :=
  { s with events := s.events.append { t := t, source := s.fa ep, code := code, count := count, data := data } s.tick }

/-- An event logged with an instant of its own. -/
def State.logAt (s : State) (t : Ft8) (ep : Nat) (code : BitVec 16) (data : Nat) : State := s.logFull t ep code 1 data

/-- An event logged now. -/
def State.log (s : State) (ep : Nat) (code : BitVec 16) (data : Nat) : State := s.logFull s.ft8 ep code 1 data

/-- A signed value in the low 64 bits of an event's data. -/
def q64 (x : Int) : Nat := lowBits 64 x

/-- Causes in a bit map, bit n - 1 for code n (R563). -/
def causeMask (l : List Nat) : Nat := l.foldl (fun a n => if bitOf a (n - 1) then a else a + 2 ^ (n - 1)) 0

/-! ### SUP_FAULT -/

/-- A W1C bit of SUP_FAULT set, with the bits set in this tick (R20). -/
def State.supFault (s : State) (b : Nat) : State :=
  let m := BitVec.ofNat 32 (2 ^ b)
  let now := if s.host.faultSet.1 = s.tick then s.host.faultSet.2 else 0
  { s with host := { s.host with fault := s.host.fault ||| m, faultSet := (s.tick, now ||| m) } }

/-! ### Status codes (R562) -/

abbrev E.ok : BitVec 16 := 0x0000
abbrev E.opcode : BitVec 16 := 0x0101
abbrev E.length : BitVec 16 := 0x0102
abbrev E.range : BitVec 16 := 0x0103
abbrev E.endpoint : BitVec 16 := 0x0104
abbrev E.state : BitVec 16 := 0x0105
abbrev E.conflict : BitVec 16 := 0x0106
abbrev E.malformed : BitVec 16 := 0x0107
abbrev E.auth : BitVec 16 := 0x0108
abbrev E.busyBoot : BitVec 16 := 0x0201
abbrev E.noTag : BitVec 16 := 0x0202
abbrev E.locked : BitVec 16 := 0x0203
abbrev E.waitCycle : BitVec 16 := 0x0204
abbrev E.tooLate : BitVec 16 := 0x0205
abbrev E.timeout : BitVec 16 := 0x0206
abbrev E.queueFull : BitVec 16 := 0x0207
abbrev E.faultAxis : BitVec 16 := 0x0301
abbrev E.faultSafety : BitVec 16 := 0x0302
abbrev E.faultFabric : BitVec 16 := 0x0303
abbrev E.interrupted : BitVec 16 := 0x0304
abbrev E.partial_ : BitVec 16 := 0x0401
abbrev E.aborted : BitVec 16 := 0x0402

/-! ### Commands in flight (R490, R496, R530) -/

/-- Key of a command's record: the requester and the tag. -/
def cmdKey : CmdRef → Nat
  | .host m tag u => m.val * 512 + tag.val + (if u then 256 else 0)
  | .remote d tag => 65536 + d.val * 256 + tag.val

/-- The record of a command. -/
def State.cmd (s : State) (k : Nat) : CmdRec := mget s.host.cmds k {}

/-- The record of a command set. -/
def State.setCmd (s : State) (k : Nat) (c : CmdRec) : State :=
  { s with host := { s.host with cmds := mset s.host.cmds k c {} } }

/-- Mailbox of a host command's key. -/
def keyMbx (k : Nat) : Nat := k / 512 % 64

/-- The command of the key came from another device over the fabric. -/
def keyRemote (k : Nat) : Bool := decide (65536 ≤ k)

/-- The state of R530 after a completion with a status. -/
def doneState (st : BitVec 16) : CmdState :=
  if st = E.ok ∨ st = E.partial_ then .done else if st = E.aborted then .aborted else if st = E.interrupted then .interrupted
  else .failed

/-- A command completes with a status and response data: the record is closed with the instant of completion and its
response waits to be written (R490), or goes back over the fabric to the device that sent it (R508, R665). A command that is
over completes no second time. -/
def State.finish (s : State) (k : Nat) (st : BitVec 16) (data : List Byte := []) : State :=
  let c := s.cmd k
  let c' := { c with state := doneState st, status := st, data := data, tDone := s.ft8, doneTick := s.tick }
  if !c.inFlight || c.responseDue then s
  else if keyRemote k then
    let s := s.setCmd k { c' with inFlight := false }
    { s with fabric := { s.fabric with
        sent := ((k - 65536) / 256, FabMsg.response c.sid (k % 256) c.opcode st s.ft8 data) :: s.fabric.sent } }
  else
    let s := s.setCmd k { c' with responseDue := true }
    { s with host := { s.host with rspQueue := s.host.rspQueue ++ [k] } }

/-- A command completes with OK and data. -/
def State.ok (s : State) (k : Nat) (data : List Byte := []) : State := s.finish k E.ok data

/-- A command that waits is running (R530). -/
def State.run (s : State) (k : Nat) : State := s.setCmd k { s.cmd k with state := .running }

/-- A command that some object holds by key completes; nothing without one. -/
def State.finishOpt (s : State) (k : Option Nat) (st : BitVec 16) (data : List Byte := []) : State :=
  match k with
  | some k => s.finish k st data
  | none => s

/-- The drive domain D7 is powered (R27, R770): its pulse units, decoders, ports and converters take their events. -/
def State.driveOn (s : State) : Bool := bitOf s.power.domains.toNat 7

/-- Opcodes refused while a change of power state is in progress (R773): AXIS_ENABLE, CONVOY_JOIN, BASKET_ARM, AXIS_MIGRATE,
PWR_DOMAIN. -/
def duringChange : List (BitVec 16) := [0x0301, 0x0610, 0x0700, 0x0310, 0x0C01]

/-- A queued command of an opcode executes: `f` runs with the record's key once the record of the command is in flight,
queued and of that opcode; otherwise nothing is executed (log entry 5). -/
def State.execCmd (s : State) (ref : CmdRef) (opcode : BitVec 16) (f : Nat → State → State) : State :=
  let k := cmdKey ref
  let c := s.cmd k
  if c.inFlight && c.state == .queued && c.opcode == opcode then
    if s.power.change.isSome && duringChange.contains opcode then s.finish k E.state else f k s
  else s

/-- The non-atomic commands: PARAM_IMPORT, CAM_LOAD, BASKET_READ, FW_WRITE, LOG_READ (R544). -/
def nonAtomic : List (BitVec 16) := [0x0125, 0x0600, 0x0702, 0x0C10, 0x0E00]

/-- A step of a non-atomic command: queued, it begins; running, it goes on (R531). -/
def State.execUnits (s : State) (ref : CmdRef) (opcode : BitVec 16) (f : Nat → State → State) : State :=
  let k := cmdKey ref
  let c := s.cmd k
  if c.inFlight && (c.state == .queued || c.state == .running) && c.opcode == opcode && c.forwarded.isNone then f k s else s

/-- Units this step takes of those left. -/
def reachUnits : Reach → Nat → Nat
  | .whole, left => left
  | .part n, left => min n left
  | .cut n, left => min n left

/-- A non-atomic command after a step: ended with `data`, or to go on, or ended by an interruption (R494, R531, R532). -/
def State.unitsDone (s : State) (k : Nat) (r : Reach) (ended : Bool) (done resume : Nat) (data : List Byte) : State :=
  let s := s.setCmd k { s.cmd k with progress := done, resume := resume }
  if ended then s.ok k data
  else match r with
    | .cut _ => s.finish k E.partial_ (leBytes 4 done ++ leBytes 4 resume)
    | _ => s.run k

/-- Checks in order: the first failing one answers; none: `f` (R541). -/
def State.checked (s : State) (k : Nat) (cs : List (Bool × BitVec 16)) (f : State → State) : State :=
  match cs.find? (fun c => c.1) with
  | some c => s.finish k c.2
  | none => f s

/-- Field `v` of event data at byte offset `o` (R563). -/
def dat (o v : Nat) : Nat := v * 2 ^ (8 * o)

/-- Byte lists of values, little-endian, 8 bytes. -/
def le8 (x : Int) : List Byte := leBytes 8 (lowBits 64 x)
/-- 4 bytes. -/
def le4 (x : Int) : List Byte := leBytes 4 (lowBits 32 x)
/-- 2 bytes. -/
def le2 (x : Int) : List Byte := leBytes 2 (lowBits 16 x)
/-- FT.8 in the 8 bytes of R9. -/
def leFt8 (t : Ft8) : List Byte := leBytes 8 t.toNat

end Sys2Proof.Machine
end

