-- ==== Sys2Proof/Machine/CapOps.lean ====
section
/-! DEFINITION. What capture channels share with axes, steps and power states: space, firings, closing, arming (R453 to R478,
R482). -/

namespace Sys2Proof.Machine

/-! ### Conditions and signals of a channel (R447, R466) -/

/-- Condition record `n` of a channel. -/
def State.capCond (s : State) (c n : Nat) : Nat := s.par (epCap c) P.capCond n

/-- Type, edge, slot, source, level and param of a condition record (R447). -/
def condType (v : Nat) : Nat := bits v 7 0
/-- Edge. -/
def condEdge (v : Nat) : Nat := bits v 15 8
/-- Signal slot. -/
def condSlot (v : Nat) : Nat := bits v 23 16
/-- Source endpoint. -/
def condSource (v : Nat) : Nat := bits v 47 32
/-- Level, signed. -/
def condLevel (v : Nat) : Int := signedOf 64 (bits v 127 64)
/-- Level of a time condition, FT.8. -/
def condTime (v : Nat) : Ft8 := BitVec.ofNat 40 (bits v 127 64)
/-- Hysteresis or pitch. -/
def condParam (v : Nat) : Int := signedOf 64 (bits v 191 128)

/-- Signal specifications of a channel: code, endpoint, offset (R466). -/
def State.capSignals (s : State) (c : Nat) : List (Nat × Nat × Nat) :=
  let v := s.par (epCap c) P.capSignals
  (List.range (arrLen v / 8)).map (fun i =>
    let w := bits v (64 * i + 63) (64 * i)
    (bits w 15 0, bits w 31 16, bits w 47 32))

/-- Bytes of a signal (R466). -/
def sigBytes (code : Nat) : Nat :=
  if code = 1 ∨ code = 2 ∨ code = 0x0B ∨ code = 0x0E ∨ code = 0x10 ∨ code = 0x11 ∨ code = 0x12 then 8 else 4

/-- A signal is a bitmap (R466). -/
def sigBitmap (code : Nat) : Bool := code == 0x0E || code == 0x0F

/-- Widths rounded to the sample record's length (R467). -/
def sampleBytes (ws : List Nat) : Nat := (ws.sum + 7) / 8 * 8

/-- Widths of a channel's signals. -/
def State.capWidths (s : State) (c : Nat) : List Nat := (s.capSignals c).map (fun g => sigBytes g.1)

/-- Largest size of a channel's basket (R472, R473). -/
def State.capLargest (s : State) (c : Nat) : Nat :=
  let ws := s.capWidths c
  128 + (s.par (epCap c) P.capPre + s.par (epCap c) P.capPost) * sampleBytes ws + 64 * ws.length

/-- Bytes of a basket (R472). -/
def Basket.bytes (b : Basket) : Nat := 128 + b.samples.length * sampleBytes b.widths + 64 * b.widths.length

/-- basket_id (R472). -/
def Basket.id (b : Basket) : Nat := b.gen * 65536 + b.slot

/-! ### Space (R474 to R478) -/

/-- A basket by its slot. -/
def State.basket (s : State) (k : Nat) : Basket := mget s.capMem.baskets k {}

/-- A basket changed. -/
def State.modBasket (s : State) (k : Nat) (g : Basket → Basket) : State :=
  s.modCapMem (fun m => { m with baskets := mset m.baskets k (g (mget m.baskets k {})) {} })

/-- A BASKET_READ of the basket in a slot runs (R476, R477, R480). -/
def State.beingRead (s : State) (k : Nat) : Bool :=
  s.capMem.reading.any (fun r => r.2 == k && (s.cmd r.1).inFlight && (s.cmd r.1).state == .running)

/-- Bytes of capture memory for baskets (R474). -/
def capCoreBytes : Nat := 31 * 1048576

/-- Free basket space in capture memory: neither reserved nor holding a closed basket. -/
def State.capCoreFree (s : State) : Nat :=
  capCoreBytes - (s.capMem.reserved.map (·.2)).sum -
    ((s.capMem.baskets.filter (fun b => b.2.closed && !b.2.spilled)).map (fun b => b.2.bytes)).sum

/-- Free bytes of the spill region (R477). -/
def State.capSpillFree (s : State) : Nat :=
  s.par epModule P.capSpillMib * 1048576 -
    ((s.capMem.baskets.filter (fun b => b.2.spilled)).map (fun b => b.2.bytes)).sum

/-- A slot not held by a basket and not reserved: the lowest (log entry 26). -/
def State.freeSlot (s : State) : Option Nat :=
  let used := s.capMem.baskets.map (·.1) ++ s.caps.filterMap (fun c => c.2.reserved)
  (List.range (used.length + 1)).find? (fun k => decide (k < 65536) && !used.contains k)

/-- A basket is freed with its slot, whose generation advances. -/
def State.freeBasket (s : State) (k : Nat) : State :=
  s.modCapMem (fun m => { m with
    baskets := mdel m.baskets k
    gens := mset m.gens k ((mget m.gens k 0 + 1) % 65536) 0
    order := m.order.filter (· ≠ k) })

/-- The closed baskets of a channel, oldest first. -/
def State.basketsOf (s : State) (c : Nat) : List Nat := s.capMem.order.filter (fun k => (s.basket k).channel == c)

/-- Space and a slot reserved if both are free (R474). -/
def State.reserveNow (s : State) (c : Nat) : Option State :=
  match s.freeSlot with
  | some k =>
    if s.capLargest c ≤ s.capCoreFree then
      some ((s.modCap c (fun h => { h with reserved := some k })).modCapMem (fun m =>
        { m with reserved := mset m.reserved c (s.capLargest c) 0 }))
    else none
  | none => none

/-- Space reserved, the oldest closed baskets of the channel overwritten where it may (R476). -/
def State.reserveCap (s : State) (c : Nat) : Nat → Option State × State
  | 0 => (s.reserveNow c, s)
  | n + 1 =>
    match s.reserveNow c with
    | some t => (some t, s)
    | none =>
      if s.par (epCap c) P.capOverflow = 1 then
        match (s.basketsOf c).find? (fun k => !s.beingRead k) with
        | some k =>
          let s := (s.freeBasket k).bump (epCap c) C.capOverwrite
          (s.modCap c (fun h => { h with overwrote := true })).reserveCap c n
        | none => (none, s)
      else (none, s)

/-- A channel arms: in basket mode space is reserved, or it waits for it (R474, R475, R482). -/
def State.armCap (s : State) (c : Nat) (from_ : Ft8) (fresh : Bool) : State :=
  let s := s.modCap c (fun h => { h with pre := [], armFrom := from_, armFresh := fresh })
  if s.par (epCap c) P.capMode = 0 then s.modCap c (fun h => { h with state := .armed })
  else
    let r := s.reserveCap c ((s.basketsOf c).length + 1)
    match r.1 with
    | some s => s.modCap c (fun h => { h with state := .armed })
    | none =>
      let s := r.2
      let s := if (s.getCap c).state = .waitSpace then s else s.log (epCap c) 0x0703 (s.capLargest c)
      s.modCap c (fun h => { h with state := .waitSpace })

/-- Channels in WAIT_SPACE become ARMED, lowest number first, while space and a slot are free (R475). -/
def State.capSpaceFree (s : State) : State :=
  (s.caps.filter (fun c => c.2.state == .waitSpace)).foldl (fun s c =>
    match s.reserveNow c.1 with
    | some t => t.modCap c.1 (fun h => { h with state := .armed, pre := [], armFrom := s.ft8, armFresh := false })
    | none => s) s

/-- Reserved space and slot of a channel are given back. -/
def State.unreserve (s : State) (c : Nat) : State :=
  (s.modCap c (fun h => { h with reserved := none })).modCapMem (fun m => { m with reserved := mset m.reserved c 0 0 })

/-! ### Firings (R453 to R457) -/

/-- A CAP_TRIGGER of the channel that waits for its firing's fate completes (R481). -/
def State.capTold (s : State) (c : Nat) (taken : Bool) : State :=
  match s.waiters.find? (fun w => w.ep == epCap c && w.opcode == 0x0705) with
  | some w => ({ s with waiters := s.waiters.erase w }).ok w.key [BitVec.ofNat 8 (b2n taken)]
  | none => s

/-- A firing is missed (R456). -/
def State.missFiring (s : State) (c : Nat) (f : Firing) : State :=
  let s := (s.bump (epCap c) C.capMissed).modCap c (fun h => { h with missed := h.missed + 1 })
  let s := match (s.getCap c).missFt with
    | some _ => s
    | none => (s.modCap c (fun h => { h with missFt := some f.stamp })).logAt f.stamp (epCap c) 0x0701 f.cond
  if condType (s.capCond c f.cond) = 6 then s.capTold c false else s

/-- A firing reaches a channel (R453 to R457, R475). -/
def State.fireCap (s : State) (c : Nat) (f : Firing) : State :=
  let h := s.getCap c
  match h.state with
  | .disarmed => s
  | .waitSpace => (s.missFiring c f).bump (epCap c) C.capNoSpace
  | .post => s.missFiring c f
  | .armed | .rearm =>
    if ft8Diff f.stamp h.armFrom < 0 then (if h.armFresh then s else s.missFiring c f)
    else s.setCap c { h with firings := h.firings ++ [f] }

/-- The positions q + n × pitch passed in the direction of an edge from `x0` to `x1`, in the order passed; pitch 0: q alone. A position
is passed by the sample that reaches it (R450; log entry 45). -/
def crossings (q pitch : Int) (edge : Nat) (x0 x1 : Int) : List Int :=
  let p : Int := pitch.natAbs
  if x0 < x1 ∧ edge ≠ 1 then
    if p = 0 then (if x0 < q ∧ q ≤ x1 then [q] else [])
    else
      let k := (x0 - q) / p + 1
      (List.range (((x1 - q) / p - k + 1).toNat)).map (fun n => q + (k + n) * p)
  else if x1 < x0 ∧ edge ≠ 0 then
    if p = 0 then (if x1 ≤ q ∧ q < x0 then [q] else [])
    else
      let k := -((q - x0) / p + 1)
      (List.range ((k + (q - x1) / p + 1).toNat)).map (fun n => q + (k - n) * p)
  else []

/-- The position-crossing conditions of every armed channel at a position sample of an axis: the first position passed is a firing, the
others are missed (R450). -/
def State.fireCrossings (s : State) (ep : Nat) (t0 : Ft16) (x0 : Q32) (t1 : Ft16) (x1 : Q32) : State :=
  if x0 = x1 then s
  else
    (s.caps.filter (fun c => c.2.state != .disarmed)).foldl (fun s c =>
      [0, 1, 2, 3].foldl (fun s n =>
        let v := s.capCond c.1 n
        if condType v = 4 ∧ condSource v = ep then
          let stamp (x : Int) : Ft8 := ((t0 + BitVec.ofInt 48 (ft16Diff t1 t0 * (x - x0) / (x1 - x0))) >>> 8).truncate 40
          match crossings (condLevel v) (condParam v) (condEdge v) x0 x1 with
          | [] => s
          | x :: rest => rest.foldl (fun s y => if (s.getCap c.1).state = .disarmed then s else s.missFiring c.1 { cond := n, stamp := stamp y })
              (s.fireCap c.1 { cond := n, stamp := stamp x })
        else s) s) s

/-- t_rearm in FT.16 units (R455). -/
def rearmUnits : Nat := 800 * 65536

/-- Firings held with a stamp before t_end + t_rearm are missed (R454, R455). -/
def State.missUntil (s : State) (c : Nat) (tEnd : Ft16) : State :=
  let from_ : Ft8 := ((tEnd + BitVec.ofNat 48 rearmUnits) >>> 8).truncate 40
  let h := s.getCap c
  let late := h.firings.filter (fun f => decide (ft8Diff f.stamp from_ < 0))
  let s := s.setCap c { h with
    firings := h.firings.filter (fun f => decide (0 ≤ ft8Diff f.stamp from_)), tEnd := tEnd, armFrom := from_, armFresh := false }
  late.foldl (fun s f => s.missFiring c f) s

/-- A trigger is over: the channel re-arms at t_end + t_rearm, or is DISARMED after the last of its arm count (R455, R470,
R482). -/
def State.capEndTrigger (s : State) (c : Nat) (tEnd : Ft16) : State :=
  let h := s.getCap c
  if h.remaining = 0 ∧ h.continuous = false then
    let n := (h.firings.filter (fun f => condType (s.capCond c f.cond) == 6)).length
    let s := s.setCap c { h with state := .disarmed, firings := [], pre := [], tEnd := tEnd }
    (List.range n).foldl (fun s _ => s.capTold c false) s
  else (s.modCap c (fun h => { h with state := .rearm })).missUntil c tEnd

/-- A channel is DISARMED outright: pre-trigger samples, firings and reserved space go (R470, R482). -/
def State.disarmCap (s : State) (c : Nat) : State :=
  let h := s.getCap c
  let n := (h.firings.filter (fun f => condType (s.capCond c f.cond) == 6)).length
  let s := s.setCap c { h with state := .disarmed, firings := [], pre := [], remaining := 0, continuous := false }
  ((List.range n).foldl (fun s _ => s.capTold c false) (s.unreserve c)).capSpaceFree

/-! ### Closing (R470, R471) -/

/-- The open basket of a channel in POST closes with a cause; `tEnd` is the last post-trigger instant. -/
def State.closeBasket (s : State) (c cause : Nat) (tEnd : Ft16) : State :=
  match (s.getCap c).open_ with
  | none => s
  | some k =>
    let s := s.modBasket k (fun b => { b with closed := true, cause := cause })
    let s := s.modCapMem (fun m => { m with order := m.order ++ [k], reserved := mset m.reserved c 0 0 })
    let s := s.modCap c (fun h => { h with open_ := none, lastClose := cause })
    let b := s.basket k
    let s := if cause = 2 then s.log (epCap c) 0x0702 b.id else s
    let s := if s.par (epCap c) P.capNotify = 1 then
        s.log (epCap c) 0x0704 (b.id + dat 4 (b.samples.length * sampleBytes b.widths) + dat 8 cause) else s
    if cause = 0 ∨ cause = 4 then (s.capEndTrigger c tEnd).capSpaceFree else s.disarmCap c

/-- The clock of every basket channel that samples on a servo axis stops when the axis leaves ENABLED (R470, R482). -/
def State.clockStopped (s : State) (i : Nat) : State :=
  (s.caps.filter (fun c => c.2.state != .disarmed)).foldl (fun s c =>
    let ep := epCap c.1
    if s.par ep P.capMode = 1 ∧ s.par ep P.capClock ≠ 1 ∧ s.par ep P.capClockAxis = i then
      if c.2.state = .post then s.closeBasket c.1 2 s.time.ft16 else s.disarmCap c.1
    else s) s

/-- At a time step by `d` every open basket closes, and a time condition passed over fires with the stamp of the step's tick
(R79, R451, R470). -/
def State.capStep (s : State) (before : Ft16) (d : Int) : State :=
  (s.caps.filter (fun c => c.2.state != .disarmed)).foldl (fun s c =>
    let s := if c.2.state = .post then s.closeBasket c.1 4 s.time.ft16 else s
    [0, 1, 2, 3].foldl (fun s n =>
      let v := s.capCond c.1 n
      let lv : Ft16 := ((condTime v).zeroExtend 48) <<< 8
      if condType v = 5 ∧ (c.2.primed.getD n (false, false)).1 = true ∧ 0 < ft16Diff lv before ∧ ft16Diff lv before ≤ d then
        let s := s.modCap c.1 (fun h => { h with primed := h.primed.set n (false, false) })
        s.fireCap c.1 { cond := n, stamp := s.ft8 }
      else s) s) s

/-- A hosted servo axis as the computation that completed last at or before an XT.16 left it (R56, R464). -/
def State.asRecorded (s : State) (i e : Nat) : State :=
  match (s.getRecord i).find? (fun r => decide (r.done ≤ e)) with
  | some r =>
    if (s.getFlags i).engine.isNone then s
    else (((((s.setFb i r.fb).setQuad i r.quad).setSerial i r.serial).setLoop i r.loop).setFlags i r.flags).setFoc i r.foc
  | none => s

/-- Position at `x` between the two samples that bracket it, and whether both are good (R461). -/
def bracket (x : Nat) : List (Nat × Q32 × Bool) → Q32 × Bool
  | [] => (0, false)
  | [a] => (a.2.1, a.2.2 && a.1 == x)
  | a :: b :: l =>
    if x < b.1 then bracket x (b :: l)
    else
      let d : Rat := if a.1 = b.1 then 0 else ((a.2.1 - b.2.1 : Int) : Rat) * (((x : Int) - b.1 : Int) : Rat) / (((a.1 : Int) - b.1 : Int) : Rat)
      (b.2.1 + d.floor, a.2.2 && b.2.2)

end Sys2Proof.Machine
end

