-- ==== Sys2Proof/Machine/Sections.lean ====
section
/-! DEFINITION. Compensator sections and gain scheduling (R223 to R237): set records, the section arithmetic, set changes,
and regions. -/

namespace Sys2Proof.Machine

/-- 1 in Q16.48. -/
def oneQ48 : Int := 281474976710656

/-- A 64-bit signed word of a raw record at byte offset `o`. -/
def recWord (r o : Nat) : Int := signedOf 64 (r / 2 ^ (8 * o))

/-- The coefficients and limits of a raw set record (R226). -/
def setRecordOf (r : Nat) : SetRecord :=
  { b0 := recWord r 0, b1 := recWord r 8, b2 := recWord r 16, b3 := recWord r 24
    a1 := recWord r 32, a2 := recWord r 40, a3 := recWord r 48
    outMin := recWord r 56, outMax := recWord r 64 }

/-- upper_bound of a raw set record. -/
def setBound (r : Nat) : Int := recWord r 72
/-- hyst of a raw set record. -/
def setHyst (r : Nat) : Int := recWord r 80

/-- The coefficients of a set: a set change is a computation with other coefficients than the one before (R233 to R236). -/
def SetRecord.coefs (c : SetRecord) : List Int := [c.b0, c.b1, c.b2, c.b3, c.a1, c.a2, c.a3]

/-- A set is integrating (R227). -/
def SetRecord.integrating (c : SetRecord) : Bool := c.a1 + c.a2 + c.a3 == -oneQ48

/-- The unclamped sum of R223 over the histories, and whether EXT at sh = 48 saturates (R224). -/
def sectionSum (c : SetRecord) (h : Section) (x : Q8) : Int × Bool :=
  let xq := x * 16777216
  let sum := c.b0 * xq + c.b1 * h.x1 + c.b2 * h.x2 + c.b3 * h.x3 - c.a1 * h.y1 - c.a2 * h.y2 - c.a3 * h.y3
  let y := sum / oneQ48
  (satInt 64 y, decide (satInt 64 y ≠ y))

/-- The result of one section computation. -/
structure SectionOut where
  /-- the value passed on, Q8.24 (R224) -/
  y : Q8
  /-- the histories and flags after it -/
  sec : Section
  /-- EXT saturated (R183) -/
  extSat : Bool
  /-- a set change rescaled the output history (R234) -/
  rescaled : Bool

/-- One computation of a section with the set in use (R223 to R225, R234, R235). -/
def sectionStep (c : SetRecord) (h : Section) (x : Q8) : SectionOut :=
  let xq := x * 16777216
  let change := match h.used with
    | some o => decide (o.coefs ≠ c.coefs)
    | none => false
  let o := h.used.getD c
  let rescale := change && c.integrating
  let old := sectionSum o h x
  let new := sectionSum c h x
  let yOld := clampInt o.outMin o.outMax old.1
  let d := if rescale then yOld - new.1 else 0
  let u := if rescale then yOld else new.1
  let y := clampInt c.outMin c.outMax u
  { y := satInt 32 (y / 16777216)
    sec := { h with
      x1 := xq, x2 := h.x1, x3 := h.x2
      y1 := y, y2 := h.y1 + d, y3 := h.y2 + d
      sat := decide (y ≠ u), used := some c }
    extSat := new.2 || (rescale && old.2)
    rescaled := rescale }

/-- Key of section slot `k` of axis `i`. -/
def secKey (i k : Nat) : Nat := i * 8 + k

/-- Raw set record `j` of slot `k` of axis `i`. -/
def State.rawSet (s : State) (i k j : Nat) : Nat := s.par i P.setRecord (8 * k + j)

/-- The region loop of R231 over the boundaries (bound, hysteresis) of regions 0, 1, ... -/
def regionLoop (v : Int) (bs : List (Int × Int)) : Nat → Nat → Nat
  | 0, r => r
  | fuel + 1, r =>
    match bs[r]?, (if r = 0 then none else bs[r - 1]?) with
    | some (u, h), prev =>
      if u + h ≤ v then regionLoop v bs fuel (r + 1)
      else match prev with
        | some (u', h') => if v < u' - h' then regionLoop v bs fuel (r - 1) else r
        | none => r
    | none, some (u', h') => if v < u' - h' then regionLoop v bs fuel (r - 1) else r
    | none, none => r

/-- The boundaries of a section: U_j and h_j of sets 0 to n - 2. -/
def State.bounds (s : State) (i k : Nat) : List (Int × Int) :=
  (List.range (s.par i P.secSets k - 1)).map (fun j => (setBound (s.rawSet i k j), setHyst (s.rawSet i k j)))

/-- The scheduling variable of a section, Q32.32 (R229). -/
def State.schedVar (s : State) (i k : Nat) : Int :=
  let vm := (s.getFb i).vel
  match s.par i P.schedSource k with
  | 1 => vm
  | 2 => (vm.natAbs : Int)
  | 3 => ((s.getFb i).pos + (s.getTrail i).posOffset) % 4294967296
  | 4 => (s.getLoop i).load
  | 5 => s.parQ i P.schedValue k
  | 6 =>
    match (s.getFlags i).engine with
    | some le =>
      let slotHookData := 0x14000 + 0x8000 * (s.getFlags i).slot + s.par i P.schedOffset k
      signedOf 64 (leVal (readBytes (s.getEngine le).mem slotHookData 8))
    | none => 0
  | 7 => (s.getLoop i).ep
  | 8 => toQ32 ((s.getDc (s.par i P.dcInput) : Rat) / 65535 * s.parF i P.dcFullscale / s.parF i P.ratedVoltage)
  | _ => 0

/-- The boundaries the scheduling variable is held against: none under sched_source 0, where set 0 is always in use (R229). -/
def State.liveBounds (s : State) (i k : Nat) : List (Int × Int) :=
  if s.par i P.schedSource k = 0 then [] else s.bounds i k

/-- The initial region of a section (R232). -/
def State.initRegion (s : State) (i k : Nat) : Nat :=
  let v := s.schedVar i k
  ((s.liveBounds i k).filter (fun b => decide (b.1 ≤ v))).length

/-- The region of slot `k` set under R232. -/
def State.setInitRegion (s : State) (i k : Nat) : State :=
  s.modSection (secKey i k) (fun h => { h with region := s.initRegion i k })

/-- The region a computation of a slot uses (R229, R231). -/
def State.nextRegion (s : State) (i k : Nat) : Nat :=
  let bs := s.liveBounds i k
  if bs.isEmpty then 0 else regionLoop (s.schedVar i k) bs 16 (s.getSection (secKey i k)).region

/-- The histories of an integrating set shifted so that the next output on `x` is `y`; other sets keep theirs (R244, log
entry 83). -/
def seedHistory (c : SetRecord) (x y : Q8) (h : Section) : Section :=
  let d := if c.integrating then y * 16777216 - (sectionSum c h x).1 else 0
  { h with y1 := h.y1 + d, y2 := h.y2 + d, y3 := h.y3 + d }

/-- Slot `k` of axis `i` prepared so that its next output on `x` is `y` (R244). -/
def State.seedSection (s : State) (i k : Nat) (x y : Q8) : State :=
  s.modSection (secKey i k) (seedHistory (setRecordOf (s.rawSet i k (s.nextRegion i k))) x y)

/-- One computation of slot `k` of axis `i` on an input, with region, set change and counters (R231 to R236). -/
def State.runSection (s : State) (i k : Nat) (x : Q8) : State × Q8 × Bool :=
  let h := s.getSection (secKey i k)
  let r := s.nextRegion i k
  let o := sectionStep (setRecordOf (s.rawSet i k r)) h x
  let s := s.setSection (secKey i k) { o.sec with region := r }
  let s := s.bumpIf (decide (r ≠ h.region)) i C.loopSetSwitch
  let s := s.bumpIf o.rescaled i C.loopRescale
  let s := s.bumpIf (o.sec.sat && !h.sat) i C.loopSatEntry
  (s, o.y, o.extSat)

/-- The optional sections of slots 4-7 with a place, in slot order (R215). -/
def State.runPlaced (s : State) (i place : Nat) (x : Q8) : State × Q8 × Bool :=
  [4, 5, 6, 7].foldl (fun (a : State × Q8 × Bool) k =>
    if a.1.par i P.secType k ≠ 0 ∧ a.1.par i P.secPlace k = place then
      let b := a.1.runSection i k a.2.1
      (b.1, b.2.1, a.2.2 || b.2.2)
    else a) (s, x, false)

/-- Histories of every section zeroed and regions set: entry to ENABLED (R242, R232). -/
def State.zeroSections (s : State) (i : Nat) : State :=
  (List.range 8).foldl (fun s k => (s.setSection (secKey i k) {}).setInitRegion i k) s

/-- The output histories before a sample are kept for R237. -/
def State.keepOutputs (s : State) (i : Nat) : State :=
  (List.range 8).foldl (fun s k => s.modSection (secKey i k) (fun h => { h with before := (h.y1, h.y2, h.y3) })) s

/-- After a saturated sample the output history of every integrating section is that of before it (R237). -/
def State.holdOutputs (s : State) (i : Nat) : State :=
  (List.range 8).foldl (fun s k => s.modSection (secKey i k) (fun h =>
    if h.used.any SetRecord.integrating then { h with y1 := h.before.1, y2 := h.before.2.1, y3 := h.before.2.2 } else h)) s

end Sys2Proof.Machine
end

