-- ==== Sys2Proof/Machine/Setpoint.lean ====
section
/-! DEFINITION. The motion an axis or a convoy master describes: queued segments and cubics, the stop ramp, the publications
of a master, and the end of a convoy membership (R244, R332 to R334, R376 to R383, R411, R839). -/

namespace Sys2Proof.Machine

/-! ### Cubics (R331 to R334) -/

/-- Position, velocity and acceleration at an instant, Q32.32; whether a value was held at an extreme (R334). -/
structure Motion where
  p : Q32 := 0
  v : Q32 := 0
  a : Q32 := 0
  sat : Bool := false
  deriving DecidableEq, Repr

/-- A time difference in FT.16 units as seconds in Q32.32, truncated (R334). -/
def tauOf (d : Int) : Int := d * 4294967296 / 65536000000000

/-- A rational in units of 2^-32 as a raw Q32.32, truncated and saturated (R180, R334). -/
def storeQ (x : Rat) : Q32 := satInt 64 x.floor

/-- The raw value lies outside Q32.32. -/
def outQ (x : Rat) : Bool := decide (satInt 64 x.floor ≠ x.floor)

/-- A motion of exact raw values, stored. -/
def motionOf (p v a : Rat) : Motion := { p := storeQ p, v := storeQ v, a := storeQ a, sat := outQ p || outQ v || outQ a }

/-- The cubic of R334 with its derivatives at τ (Q32.32 seconds). -/
def cubicAt (p v a j : Q32) (tau : Int) : Motion :=
  let t : Rat := (tau : Rat) / pow2 32
  motionOf (p + v * t + a * t * t / 2 + j * t * t * t / 6) (v + a * t + j * t * t / 2) (a + j * t)

/-- An entry covers an instant (R332). -/
def segCovers (g : Seg) (t : Ft16) : Bool :=
  decide (0 ≤ ft16Diff t g.tStart) && (g.hold || decide (ft16Diff t g.tEnd < 0))

/-- Generation `a` is higher than `b` on 16 bits (R332). -/
def genAbove (a b : BitVec 16) : Bool := decide (0 < (a - b).toInt)

/-- The entry of the highest generation among those that satisfy `f` (R332). -/
def bestSeg (q : List Seg) (f : Seg → Bool) : Option Seg :=
  (q.filter f).foldl (fun (b : Option Seg) g => match b with
    | none => some g
    | some h => if genAbove g.gen h.gen then some g else b) none

/-- An entry of a lower generation than one the engine has used is free (R333). -/
def Trail.live (t : Trail) (g : Seg) : Bool :=
  match t.usedGen with
  | some u => !genAbove u g.gen
  | none => true

/-- Motion of an entry at an instant. -/
def segAt (g : Seg) (t : Ft16) : Motion := cubicAt g.p0 g.v0 g.a0 g.j0 (tauOf (ft16Diff t g.tStart))

/-- The covering entry of a queue at an instant, among those of the kind `fol` tells (R332, R333). -/
def Trail.pick (t : Trail) (x : Ft16) (f : Seg → Bool) : Option Seg := bestSeg t.queue (fun g => segCovers g x && t.live g && f g)

/-- The engine has used an entry: lower generations are free (R333). -/
def Trail.use (t : Trail) (g : Seg) : Trail :=
  { t with
    usedGen := some (match t.usedGen with
      | some u => if genAbove u g.gen then u else g.gen
      | none => g.gen)
    lastSeg := some g
    queue := t.queue.filter (fun e => !genAbove g.gen e.gen) }

/-- What a trail gives at an instant: the covering entry's motion, else the last one's extrapolated (R55), and whether an
entry covers. -/
def Trail.sample (t : Trail) (x : Ft16) : Option Motion × Bool × Trail :=
  match t.pick x (fun g => g.fol.isNone) with
  | some g => (some (segAt g x), true, t.use g)
  | none => (t.lastSeg.map (fun g => segAt g x), false, t)

/-! ### Units and grids -/

/-- Axis units per turn of an axis; a path group's limits act on the path, in axis units (R344). -/
def State.unitOf (s : State) (ep : Nat) : Rat :=
  if 0x20 ≤ ep ∧ ep ≤ 0x3F then s.parF ep P.stpUnitPerTurn
  else if (0x200 ≤ ep ∧ ep ≤ 0x27F) ∨ (0x1F40 ≤ ep ∧ ep ≤ 0x1F5F) then 1
  else s.parF ep P.unitPerTurn

/-- Profile grid of an axis in ticks: period and phase (R337, R374, R405, R420). -/
def State.profileGrid (s : State) (ep : Nat) : Nat × Nat :=
  if ep ≤ 0x1F then
    let r := if s.par ep P.controlMode = 2 then s.par ep P.posRatio else s.par ep P.velRatio
    (r * s.par ep P.curPeriodTicks, s.par ep P.curPhaseTicks)
  else if ep ≤ 0x3F then (s.par ep P.stpPeriodTicks, s.par ep P.stpPhaseTicks)
  else if ep ≤ 0x1FF then (s.par ep P.vaPeriodTicks, s.par ep P.vaPhaseTicks)
  else (s.par ep P.remPeriodTicks, s.par ep P.remPhaseTicks)

/-- The change instant B of a command accepted now: the first instant of the profile grid at least 100 µs later (R337). -/
def State.changeInstant (s : State) (ep : Nat) : Nat :=
  let g := s.profileGrid ep
  gridAtOrAfter g.1 g.2 (s.xt16 + 6553600000)

/-- State of an axis of any class. -/
def State.axisStateOf (s : State) (ep : Nat) : AxisState :=
  if ep < 0x20 then (s.getLoop ep).state
  else if ep < 0x40 then (s.getStepper (ep - 0x20)).state
  else if ep < 0x200 then (s.getVirt (ep - 0x100)).state
  else (s.getRemote (ep - 0x200)).state

/-! ### The stop ramp (R244, R341) -/

/-- A stop ramp at an XT.16: position, velocity and acceleration setpoints. `jerk` in turns/s³, 0 unlimited. -/
def StopRun.at_ (r : StopRun) (jerk : Rat) (x : Nat) : Motion :=
  let t := secOf ((x : Int) - r.fromXt)
  if t ≤ 0 then { p := r.p0, v := r.v0, a := r.a0 }
  else if jerk = 0 then
    let v0 := ofQ32 r.v0
    let d := rsgn v0 * r.decel
    let tEnd := if r.decel = 0 then t else rabs v0 / r.decel
    let m := if t < tEnd then motionOf (pow2 32 * (v0 * t - d * t * t / 2)) (pow2 32 * (v0 - d * t)) (pow2 32 * -d)
      else motionOf (pow2 32 * (v0 * tEnd - d * tEnd * tEnd / 2)) 0 0
    { m with p := satInt 64 (r.p0 + m.p) }
  else
    let m := Config.stopRamp (ofQ32 r.v0) (ofQ32 r.a0) r.decel jerk t
    { p := satInt 64 (r.p0 + toQ32 m.1), v := toQ32 m.2.1, a := toQ32 m.2.2 }

/-- stop_jerk of an axis, turns/s³. -/
def State.stopJerkOf (s : State) (ep : Nat) : Rat := s.parF ep P.stopJerk / s.unitOf ep

/-! ### Ramps to rest (R322, R337 to R349) -/

/-- The phases of the shortest way to rest from speed `v` ≥ 0 and acceleration `a` along it, with deceleration `d` and jerk
`j` (0 unlimited): duration in seconds, acceleration at its start and jerk. -/
def restPhases (v a d j : Rat) : List (Rat × Rat × Rat) :=
  if d ≤ 0 then []
  else if j = 0 then [(v / d, -d, 0)]
  else if a < 0 ∧ 2 * j * v < a * a then
    let p := Config.sqrt (max 0 (a * a / 2 - j * v))
    [((p - a) / j, a, j), (p / j, p, -j)]
  else if a < -d then
    let t1 := (-a - d) / j
    let v1 := v + (a - d) * t1 / 2
    let t2 := max 0 ((v1 - d * d / (2 * j)) / d)
    [(t1, a, j), (t2, -d, 0), (d / j, -d, j)]
  else
    let t1 := (a + d) / j
    let v1 := v + (a - d) * t1 / 2
    if d * d / (2 * j) ≤ v1 then [(t1, a, -j), ((v1 - d * d / (2 * j)) / d, -d, 0), (d / j, -d, j)]
    else
      let ap := Config.sqrt (max 0 (j * v + a * a / 2))
      [((a + ap) / j, a, -j), (ap / j, -ap, j)]

/-- Distance of the phases from speed `v`. -/
def restDistance (v : Rat) : List (Rat × Rat × Rat) → Rat
  | [] => 0
  | (t, a, j) :: l => v * t + a * t * t / 2 + j * t * t * t / 6 + restDistance (v + a * t + j * t * t / 2) l

/-- Segments of the phases from position `p` and velocity `v` (turns) in direction `sg`, then a hold entry at rest, from XT.16
`x` on (R331). -/
def restSegs (gen : BitVec 16) (sg : Rat) (p v : Rat) (x : Nat) : List (Rat × Rat × Rat) → List Seg
  | [] => [{ tStart := ft16Of x, hold := true, gen := gen, p0 := toQ32 p }]
  | (t, a, j) :: l =>
    let x' := x + (unitsOfNs (t * 1000000000)).toNat
    let g : Seg := { tStart := ft16Of x, tEnd := ft16Of x', gen := gen, ramp := true, p0 := toQ32 p, v0 := toQ32 (sg * v)
                     a0 := toQ32 (sg * a), j0 := toQ32 (sg * j) }
    let p' := p + sg * (v * t + a * t * t / 2 + j * t * t * t / 6)
    let r := restSegs gen sg p' (v + a * t + j * t * t / 2) x' l
    if t = 0 then r else g :: r

/-- The ramp to rest from a motion at XT.16 `x`, turns/s² and turns/s³, of generation `gen`. -/
def rampToRest (m : Motion) (x : Nat) (d j : Rat) (gen : BitVec 16) : List Seg :=
  let v := ofQ32 m.v
  let sg := if v = 0 then (if m.a < 0 then -1 else 1) else rsgn v
  restSegs gen sg (ofQ32 m.p) (rabs v) x (restPhases (rabs v) (sg * ofQ32 m.a) d j)

/-- Position of rest of that ramp. -/
def restPoint (m : Motion) (d j : Rat) : Q32 :=
  let v := ofQ32 m.v
  let sg := if v = 0 then (if m.a < 0 then -1 else 1) else rsgn v
  satInt 64 (m.p + toQ32 (sg * restDistance (rabs v) (restPhases (rabs v) (sg * ofQ32 m.a) d j)))

/-- Next generation of a trail. -/
def Trail.nextGen (t : Trail) : BitVec 16 :=
  t.queue.foldl (fun g e => if genAbove e.gen g then e.gen else g) (t.usedGen.getD 0) + 1

/-- Deceleration and jerk of a move record in turns; jerk 0 takes trj_j_limit (R320). -/
def State.moveLimits (s : State) (ep : Nat) (m : MoveRec) : Rat × Rat :=
  let u := s.unitOf ep
  let j := f32Val m.jerk.toNat
  (f32Val m.dMax.toNat / u, (if j = 0 then s.parF ep P.trjJLimit else j) / u)

/-- d_max and jerk of the move in progress; without one the trail's limits. -/
def State.nowLimits (s : State) (ep : Nat) : Rat × Rat :=
  match (s.getTrail ep).moves with
  | m :: _ => if m.num = 0 ∧ m.rec_.dMax = 0 then (s.parF ep P.trjALimit / s.unitOf ep, s.parF ep P.trjJLimit / s.unitOf ep)
    else s.moveLimits ep m.rec_
  | [] => (s.parF ep P.trjALimit / s.unitOf ep, s.parF ep P.trjJLimit / s.unitOf ep)

/-! ### Publications of a master (R376 to R383, R411) -/

/-- A registration or membership message of this module to the leader, applied at once when it is the leader (R661). -/
def Fabric.register (f : Fabric) (src op convoy fa : Nat) : Fabric :=
  let mem := mget f.members convoy []
  match op with
  | 1 => { f with convoys := mset f.convoys convoy fa 0 }
  | 2 => if mget f.convoys convoy 0 = fa then { f with convoys := mset f.convoys convoy 0 0 } else f
  | 3 => { f with members := mset f.members convoy (if src ∈ mem then mem else mem ++ [src]) [] }
  | 4 => { f with members := mset f.members convoy (mem.filter (· ≠ src)) [] }
  | 5 => { f with syncDevs := if src ∈ f.syncDevs then f.syncDevs else src :: f.syncDevs }
  | 6 => { f with syncDevs := f.syncDevs.filter (· ≠ src) }
  | _ => f

/-- REGISTER sent to the leader (R661). -/
def State.sendRegister (s : State) (op convoy fa : Nat) : State :=
  let f := s.fabric
  if s.time.leader then { s with fabric := f.register f.device op convoy fa }
  else { s with fabric := { f with sent := (f.leaderDev, FabMsg.register op convoy fa) :: f.sent } }

/-- The effective trims after the slew since the last one (R411). -/
def State.slewTrims (s : State) (c : Nat) : State :=
  s.modPublisher c (fun p =>
    let step := s.parF (epPub c) P.cascSlew * ((s.tick - p.trimTick : Nat) : Rat) / 64000000
    { p with
      trims := (List.range 8).map (fun k =>
        let x := p.trims.getD k 0
        let y := s.parF (epPub c) P.cascTrim k
        rclamp (x - step) (x + step) y)
      trimTick := s.tick })

/-- The cascade factors F0 to F7 as binary32 raws: products in binary64 by rising stage, rounded once more (R411; log entry 96). -/
def State.cascade (s : State) (c : Nat) : List F32 :=
  let tr := (s.getPublisher c).trims
  (List.range 8).map (fun k =>
    let js := (List.range 8).filter (fun j => if s.par (epPub c) P.cascDir = 0 then decide (k ≤ j) else decide (j ≤ k))
    BitVec.ofNat 32 (ratToF32 (js.foldl (fun a j => roundF64 (a * roundF64 (1 + tr.getD j 0))) 1)))

/-- What marks a publication beside its motion (R382). -/
structure PubKind where
  supersede : Bool := false
  boundary : Bool := false
  measured : Bool := false
  stopping : Bool := false
  endFlag : Bool := false

/-- Publisher `c` sends a publication (R382); without a registered convoy nothing is sent. -/
def State.publish (s : State) (c : Nat) (k : PubKind) (tRef : Ft16) (m : Motion) (j : Q32) : State :=
  match (s.getPublisher c).registered with
  | none => s
  | some n =>
    let s := s.slewTrims c
    let p := s.getPublisher c
    let pub : Pub := {
      convoy := BitVec.ofNat 8 n, supersede := k.supersede, boundary := k.boundary, measured := k.measured
      stopping := k.stopping, endFlag := k.endFlag, seq := p.seq + 1, masterGen := p.gen
      period := s.par (epPub c) P.convPeriodTicks, master := s.fa (s.par (epPub c) P.convMaster)
      tRef := tRef, p0 := m.p, v0 := m.v, a0 := m.a, j0 := j, f := s.cascade c }
    let s := s.setPublisher c { p with seq := p.seq + 1, last := some pub }
    let s := { s with fabric := { s.fabric with sent := (0xFFFF, FabMsg.convoy pub) :: s.fabric.sent } }
    s.bump (epPub c) C.gearPubTx

/-- Publishers whose master is an axis of this module. -/
def State.publishersOf (s : State) (ep : Nat) : List Nat :=
  (List.range 16).filter (fun c => s.par (epPub c) P.convMaster == ep && (s.getPublisher c).registered.isSome)

/-- Last setpoint of a master, and last measurement of a servo master. -/
def State.lastMotion (s : State) (ep : Nat) (measured : Bool) : Motion :=
  if ep < 32 then
    let l := s.getLoop ep
    if measured then { p := satInt 64 ((s.getFb ep).pos + (s.getTrail ep).posOffset), v := (s.getFb ep).vel, a := l.as_ }
    else { p := l.ps, v := l.vs, a := l.as_ }
  else
    let m := (s.getVirt (ep - 0x100)).sp
    { p := m.1, v := m.2.1, a := m.2.2 }

/-- The end publication of publisher `c` (R383); once until the master is next enabled. -/
def State.endPublication (s : State) (c : Nat) : State :=
  if (s.getPublisher c).ended then s
  else
    let measured := s.par (epPub c) P.convSource == 1
    let s := s.publish c { measured := measured, endFlag := true } s.time.ft16 (s.lastMotion (s.par (epPub c) P.convMaster) measured) 0
    s.modPublisher c (fun p => { p with ended := true })

/-- A master enters FAULTED or DISABLED (R383). -/
def State.endPublications (s : State) (ep : Nat) : State := (s.publishersOf ep).foldl (fun s c => s.endPublication c) s

/-- AXIS_ENABLE of a master is accepted: master_gen advances and publication begins again (R382, R383). -/
def State.beginPublications (s : State) (ep : Nat) : State :=
  ((List.range 16).filter (fun c => s.par (epPub c) P.convMaster == ep)).foldl (fun s c =>
    s.modPublisher c (fun p => { p with gen := p.gen + 1, ended := false, lastGrid := none, boundaries := 0 })) s

/-! ### The end of a membership (R401, R404, R405, R839) -/

/-- Followers of this module in a convoy. -/
def State.followersOf (s : State) (n : Nat) : List Nat :=
  (s.followers.filter (fun kv => kv.2.convoy == some n && kv.2.state != .none_)).map (·.1)

/-- A follower's record when it is in no convoy: decouple_cause and last_seq stay (GEAR_STATUS). -/
def Follower.freed (f : Follower) : Follower := { cause := f.cause, lastSeq := f.lastSeq, sp := f.sp, lastXt := f.lastXt }

/-- The follower leaves its convoy; the module tells the leader when it has none left there (R661). -/
def State.freeFollower (s : State) (ep : Nat) : State :=
  let f := s.getFollower ep
  let s := s.setFollower ep f.freed
  match f.convoy with
  | some n => if (s.followersOf n).isEmpty then s.sendRegister 4 n (s.fa ep) else s
  | none => s

/-- A CONVOY_JOIN that has not coupled completes with a status (R839). -/
def State.endJoin (s : State) (ep : Nat) (st : BitVec 16) (data : List Byte) : State :=
  let f := s.getFollower ep
  let k := f.join.bind (·.cmd)
  let s := s.setFollower ep { f with join := f.join.map (fun j => { j with cmd := none }) }
  s.finishOpt k st data

/-- A WAITING, SYNCING or COUPLED follower leaves on a stop, a fault, a disable or CONVOY_LEAVE (membership table, R839). -/
def State.leaveConvoy (s : State) (ep : Nat) (st : BitVec 16) (data : List Byte) : State :=
  match (s.getFollower ep).state with
  | .none_ => s
  | .decoupled => s
  | _ => (s.endJoin ep st data).freeFollower ep

/-- The decoupling stop ends: DECOUPLED to NONE (membership table). -/
def State.endDecouple (s : State) (ep : Nat) : State :=
  if (s.getFollower ep).state = .decoupled then s.freeFollower ep else s

end Sys2Proof.Machine
end

