-- ==== Sys2Proof/Machine/AxisOps.lean ====
section
/-! DEFINITION. What the families of axes share: commands that wait on an object, the end of a trail's motion and its report,
servo faults, the entry to and the end of stops, and the states of a servo axis (R239 to R251, R347 to R353, R842). -/

namespace Sys2Proof.Machine

/-! ### Commands that wait on an object (R554) -/

/-- A command waits on an object: it is running until the object completes it. -/
def State.await (s : State) (k ep : Nat) (opcode : BitVec 16) : State :=
  let s := s.run k
  { s with waiters := s.waiters ++ [{ ep := ep, opcode := opcode, key := k }] }

/-- Every command of an opcode that waits on an object completes, in acceptance order. -/
def State.complete (s : State) (ep : Nat) (opcode : BitVec 16) (st : BitVec 16) (data : List Byte := []) : State :=
  let w := s.waiters.filter (fun w => w.ep == ep && w.opcode == opcode)
  let s := { s with waiters := s.waiters.filter (fun w => !(w.ep == ep && w.opcode == opcode)) }
  w.foldl (fun s w => s.finish w.key st data) s

/-- Some command of an opcode waits on an object. -/
def State.awaits (s : State) (ep : Nat) (opcode : BitVec 16) : Bool :=
  s.waiters.any (fun w => w.ep == ep && w.opcode == opcode)

/-- Opcodes of the commands that wait on an axis. -/
abbrev opEnable : BitVec 16 := 0x0301
abbrev opDisable : BitVec 16 := 0x0302
abbrev opStop : BitVec 16 := 0x0510

/-- Status and data of a fault of a servo axis (R248, R545). -/
def servoFault (code : Nat) : BitVec 16 × List Byte :=
  (if code = 0x0D then E.faultSafety else E.faultAxis, [1, BitVec.ofNat 8 code])

/-! ### Trails and their owners (R315, R342) -/

/-- A fabric endpoint address of this module as its local endpoint; none for another device's. -/
def State.localEp (s : State) (fa : Nat) : Option Nat :=
  if fa / 8192 = s.fabric.device ∨ fa / 8192 = 0 then some (fa % 8192) else none

/-- Members of a path group: fabric endpoint addresses in order (R342). -/
def State.groupMembers (s : State) (g : Nat) : List Nat :=
  let v := s.par (epGroup g) P.members
  (List.range (arrLen v / 4)).map (fun i => bits v (32 * i + 31) (32 * i))

/-- The path group an endpoint of this module is a member of (R343). -/
def State.groupOf (s : State) (ep : Nat) : Option Nat :=
  (List.range 32).find? (fun g => (s.groupMembers g).any (fun m => s.localEp m == some ep))

/-- Control mode of a servo axis. -/
def State.mode (s : State) (i : Nat) : Nat := s.par i P.controlMode

/-- The trail is its axis's setpoint source (R315). -/
def State.trailIsSource (s : State) (ep : Nat) : Bool :=
  (s.getFollower ep).state == .none_ && (s.groupOf ep).isNone && !(decide (ep < 32) && s.mode ep == 0)

/-- Every member of a group on this module is ENABLED. -/
def State.groupEnabled (s : State) (g : Nat) : Bool :=
  (s.groupMembers g).all (fun m => match s.localEp m with
    | some e => s.axisStateOf e == .enabled
    | none => true)

/-- An axis enters ENABLED with its trail as the setpoint source, or completes the members of its group: that trail is IDLE
(R369). -/
def State.openTrail (s : State) (ep : Nat) : State :=
  if s.trailIsSource ep then s.modTrail ep (fun t => { t with state := .idle })
  else match s.groupOf ep with
    | some g => if s.groupEnabled g then s.modTrail (epGroup g) (fun t => if t.state = .closed then { t with state := .idle } else t) else s
    | none => s

/-- The move whose segments cover the present instant, number 0 for none (R340, R352). -/
def State.moveNow (s : State) (ep : Nat) : BitVec 32 :=
  match (s.getTrail ep).moves with
  | m :: _ => if m.planned then m.num else 0
  | [] => 0

/-- TRJ_REPORT bytes 0-15 as event data (R352). -/
def TrjReport.data (r : TrjReport) : Nat :=
  r.cause + dat 1 r.category + dat 4 r.lastWaymark.toNat + dat 8 r.move.toNat + dat 12 r.discarded

/-- The report that waits for pos_final is written and logged (R352). -/
def State.writeReport (s : State) (ep : Nat) (pos : Q32) (valid : Bool) : State :=
  let t := s.getTrail ep
  match t.reportDue with
  | none => s
  | some r =>
    let r := { r with posFinal := pos, posValid := valid }
    let s := s.setTrail ep { t with report := r, reportDue := none }
    let s := s.logAt r.ftStop ep 0x0502 r.data
    s.log ep 0x0503 (q64 pos + dat 8 (b2n valid))

/-- TRAIL_APPEND commands whose moves go before they are planned complete with E_ABORTED. -/
def State.abortAppends (s : State) (ep : Nat) : State :=
  let t := s.getTrail ep
  let s := s.setTrail ep { t with appendCmds := [] }
  t.appendCmds.foldl (fun s c => s.finish c.1 E.aborted) s

/-- Homing ends with a result; HOME completes with its status (R363 to R368). -/
def State.endHoming (s : State) (ep : Nat) (res : HomeResult) (st : BitVec 16) (data : List Byte) : State :=
  let t := s.getTrail ep
  if t.phase = .none_ ∧ t.homeCmd = none then s
  else
    let s := s.setTrail ep { t with phase := .none_, homeResult := res, homeCmd := none }
    s.finishOpt t.homeCmd st data

/-- The motion of a trail ends in a stop: every move and every queued segment is removed, and the report waits for pos_final
(R351, R352); no report without an incomplete move or homing. -/
def State.endMotion (s : State) (ep cause category : Nat) (ftStop : Ft8) : State :=
  let t := s.getTrail ep
  let none_ := t.moves.isEmpty && t.phase == .none_
  let due := if none_ then t.reportDue else some {
      cause := cause, category := category, lastWaymark := t.lastWaymark, move := s.moveNow ep
      discarded := t.moves.length, ftStop := ftStop }
  let s := s.setTrail ep { t with moves := [], reportDue := due, queue := [], lastSeg := none }
  s.abortAppends ep

/-! ### The motion of a path group comes to rest (R344, R347 to R349, R352) -/

/-- Members of a group on this module. -/
def State.localMembers (s : State) (g : Nat) : List Nat := (s.groupMembers g).filterMap s.localEp

/-- Euclidean length along a group's path of its members' parts, axis units (R344); members on other modules add a part that Config
tells (log entry 93). -/
def State.pathLength (s : State) (g : Nat) (l : List Rat) : Rat :=
  let n := Config.sqrt ((l.map (fun x => x * x)).foldl (· + ·) 0)
  if (s.groupMembers g).all (fun m => (s.localEp m).isSome) then n else Config.pathLength n

/-- Speed and acceleration along a group's path at XT.16 `x`, axis units: every member keeps its share of both. -/
def State.pathAt (s : State) (g x : Nat) : Rat × Rat :=
  let ms : List (Rat × Rat) := (s.localMembers g).map (fun e =>
    let m := ((s.getTrail e).sample (ft16Of x)).1.getD {}
    (s.unitOf e * ofQ32 m.v, s.unitOf e * ofQ32 m.a))
  let sq := (ms.map (fun m => m.1 * m.1)).foldl (· + ·) 0
  let v := s.pathLength g (ms.map (·.1))
  (v, if sq = 0 then 0 else v * (ms.map (fun m => m.1 * m.2)).foldl (· + ·) 0 / sq)

/-- The moving members of a group here, but for one, come to rest along the path from XT.16 `x` on with a deceleration and jerk of the
path; their reports wait for their positions (R347, R352). -/
def State.pathRest (s : State) (g x : Nat) (skip : Option Nat) (lim : Rat × Rat) (due : TrjReport) : State :=
  let w := s.pathAt g x
  let phases := restPhases w.1 w.2 lim.1 lim.2
  (s.localMembers g).foldl (fun s e =>
    let t := s.getTrail e
    match (t.sample (ft16Of x)).1 with
    | none => s
    | some m =>
      if skip = some e ∨ s.axisStateOf e ≠ .enabled then s
      else
        let v := ofQ32 m.v
        let r := if w.1 = 0 then 0 else rabs v / w.1
        let segs := restSegs t.nextGen (if v < 0 then -1 else 1) (ofQ32 m.p) (rabs v) x (phases.map (fun q => (q.1, q.2.1 * r, q.2.2 * r)))
        s.setTrail e { t with queue := t.queue.filter (fun h => decide (s.xtOfFt16 h.tStart < x)) ++ segs, reportDue := some due }) s

/-- The motion of a path group ends in a stop: its moves go, the members come to rest along the path but for one that stops under its own
rules, and the reports wait (R347, R352). -/
def State.endPath (s : State) (g : Nat) (skip : Option Nat) (cause category : Nat) (ftStop : Ft8) : State :=
  let e := epGroup g
  let t := s.getTrail e
  if t.moves.isEmpty then s
  else
    let due : TrjReport := { cause := cause, category := category, lastWaymark := t.lastWaymark, move := s.moveNow e
                             discarded := t.moves.length, ftStop := ftStop }
    let s := s.pathRest g s.xt16 skip (s.nowLimits e) due
    let s := match skip with
      | some m => s.modTrail m (fun t => { t with reportDue := some due })
      | none => s
    (s.endMotion e cause category ftStop).modTrail e (fun t => { t with
      lastVec := [], state := if t.state = .running then .stopping else t.state })

/-- A stop of a member ends the motion of its group as well (R347). -/
def State.endGroup (s : State) (ep cause category : Nat) (ftStop : Ft8) : State :=
  match s.groupOf ep with
  | some g => s.endPath g (some ep) cause category ftStop
  | none => s

/-- A member of a group is at rest: it stands on a hold entry, or is not ENABLED and in no stop of its own. -/
def State.memberRests (s : State) (e : Nat) : Bool :=
  match s.axisStateOf e with
  | .stopping => false
  | .enabled => (s.getTrail e).lastSeg.all (fun g => g.hold && g.v0 == 0 && g.a0 == 0)
  | _ => true

/-- The motion of a path group that was ended is at rest once every member here is: its report is written and its trail is IDLE (R352,
R369). Of pos_final the spec gives a group no value: a free one (log entry 93). -/
def State.groupRest (s : State) (ep : Nat) : State :=
  match s.groupOf ep with
  | none => s
  | some g =>
    let e := epGroup g
    let t := s.getTrail e
    let ended := t.state == .stopping || t.state == .closed || (t.state == .running && t.moves.isEmpty)
    if !(ended && t.reportDue.isSome && (s.localMembers g).all s.memberRests) then s
    else
      let s := (s.took.writeReport e (Int.ofNat s.fresh) true)
      s.modTrail e (fun t => if t.state = .closed then t else { t with state := .idle })

/-- One trail CLOSED. -/
def Trail.close (t : Trail) : Trail :=
  { t with state := .closed, queue := [], usedGen := none, lastSeg := none, change := none, moves := [] }

/-- The trail is CLOSED: its axis leaves ENABLED and STOPPING (R369); so is the trail of its group. -/
def State.closeTrail (s : State) (ep : Nat) : State :=
  let s := s.modTrail ep Trail.close
  let s := match s.groupOf ep with
    | some g => s.modTrail (epGroup g) Trail.close
    | none => s
  s.groupRest ep

/-- A pending change of a trail (R337) is dropped with its B. -/
def State.dropChange (s : State) (ep : Nat) : State := s.modTrail ep (fun t => { t with change := none })

/-! ### Servo axes (R239 to R251) -/

/-- Axis position: the count or word position with the offset of POS_SET and homing (R355, R363). -/
def State.axisPos (s : State) (i : Nat) : Q32 := satInt 64 ((s.getFb i).pos + (s.getTrail i).posOffset)

/-- Update point of the carrier period in progress, as FT.8. -/
def State.updateFt8 (s : State) (i : Nat) : Ft8 := ft8Of (s.getPwm i).updateXt

/-- The gates go to their inactive level or switch. -/
def State.gates (s : State) (i : Nat) (on : Bool) : State := s.modPwm i (fun w => { w with gates := on, lowSide := false })

/-- The low-side gates alone are switched on (R241). -/
def State.lowGates (s : State) (i : Nat) : State := s.modPwm i (fun w => { w with gates := false, lowSide := true })

/-- Category of the stop a fault cause takes (R248; R163 for FEEDBACK_LOST without an observer). -/
def State.faultCategory (s : State) (i code : Nat) : Nat :=
  let c := s.par i P.faultStopCategory
  if code = 5 then (if s.par i P.obsEnable = 0 then 0 else c)
  else if code = 3 ∨ code = 4 ∨ code = 7 ∨ code = 8 ∨ code = 0x0A ∨ code = 0x10 then c else 0

/-- AXIS_FAULT with fault_cause, every cause and the position (R249). -/
def State.logAxisFault (s : State) (i : Nat) : State :=
  let l := s.getLoop i
  s.log i 0x0404 (l.faultCause + dat 4 (causeMask l.causes) + dat 8 (q64 (s.axisPos i)))

/-- AXIS_STOPPED with position, standstill stamp and category (R252, R842). -/
def State.logAxisStopped (s : State) (i : Nat) (stamp : Ft8) (cat : Nat) : State :=
  s.log i 0x0405 (q64 (s.axisPos i) + dat 8 stamp.toNat + dat 13 cat)

/-- Feedback goes OFF when its axis is disabled: the substitution, index_seen and the counts that belong to it clear (R106,
R159, R161). -/
def State.fbOff (s : State) (i : Nat) : State :=
  let s := s.modFb i (fun f => { f with state := .off, substituted := false, restored := false, frozenSince := none })
  s.modQuad i (fun q => { q with indexSeen := false })

/-- The observer is unlocked and hold, listening and braking end: disable and fault (R283). -/
def State.focOff (s : State) (i : Nat) : State :=
  s.modFoc i (fun f => { f with
    holdFrom := none, listenFrom := none, braking := false, weakRun := 0, smallSince := none
    obs := { f.obs with locked := false, lockRun := 0, badRun := 0 } })

/-- The category 0 stop that ended at this sample's update point is reported with the sample's position (R842, R352). -/
def State.coastReport (s : State) (i : Nat) : State :=
  if !(s.getFlags i).coastEnd then s
  else
    let s := s.modFlags i (fun f => { f with coastEnd := false })
    let s := s.logAt (s.updateFt8 i) i 0x0405 (q64 (s.axisPos i))
    s.writeReport i (s.axisPos i) false

/-- Entry to DISABLED: what waits on it completes (R554). -/
def State.enterDisabled (s : State) (i : Nat) : State :=
  let s := ((s.endPublications i).focOff i).clockStopped i
  let s := ((s.gates i false).fbOff i).modLoop i (fun l => { l with
    state := .disabled, stop := none, stopReq := none, disablePending := false, holding := false })
  let s := ((s.leaveConvoy i E.aborted [0]).endDecouple i).endHoming i .aborted E.aborted []
  let s := (s.closeTrail i).complete i opDisable E.ok
  s.complete i opEnable E.aborted

/-- Entry to FAULTED: gates inactive, AXIS_FAULT logged, the trail closed, homing and an enable ended (R239, R249, R368);
a pending AXIS_DISABLE takes the axis on to DISABLED in the same sample (R554). `other`: what takes the axis there is another
cause than the loss of feedback, so its feedback goes OFF (R159). -/
def State.enterFaulted (s : State) (i : Nat) (other : Bool) : State :=
  let s := ((s.endPublications i).focOff i).clockStopped i
  let s := (s.gates i false).modLoop i (fun l => { l with state := .faulted, stopReq := none, holding := false })
  let s := if other then s.modFb i (fun f => { f with state := .off }) else s
  let s := (s.bump i C.loopFault).logAxisFault i
  let f := servoFault (s.getLoop i).faultCause
  let s := ((s.leaveConvoy i f.1 f.2).endDecouple i).endHoming i .fault f.1 f.2
  let s := (s.closeTrail i).complete i opEnable f.1 f.2
  if (s.getLoop i).disablePending then
    let s := (s.fbOff i).modLoop i (fun l => { l with state := .disabled, disablePending := false })
    s.complete i opDisable E.ok
  else s

/-- A stop request merged with one not yet in effect: the lower category, the fault's mark and cause (R247). -/
def mergeReq (a : Option StopReq) (b : StopReq) : StopReq :=
  match a with
  | none => b
  | some a => { cat := min a.cat b.cat, byFault := a.byFault || b.byFault,
                cause := if a.byFault then a.cause else if b.byFault then b.cause else if b.cat < a.cat then b.cause else a.cause }

/-- A stop is requested: it takes effect at the next current sample (R247, R253). -/
def State.requestStop (s : State) (i : Nat) (r : StopReq) : State :=
  s.modLoop i (fun l => { l with stopReq := some (mergeReq l.stopReq r) })

/-- The cause joins the fault in progress; fault_cause is the lowest code of the sample that recorded first (R249). -/
def State.recordCause (s : State) (i code : Nat) : State :=
  let n := (s.getPwm i).sample
  s.modLoop i (fun l =>
    let first := l.faultCause == 0
    let lower := l.faultSample == n && decide (code < l.faultCause)
    { l with
      causes := if code ∈ l.causes then l.causes else code :: l.causes
      faultCause := if first || lower then code else l.faultCause
      faultSample := if first then n else l.faultSample })

/-- A fault whose stop is category 0: the gates go inactive at once and the axis is FAULTED; the end of its stop is reported
at the next update point (R239, R842). -/
def State.faultNow (s : State) (i code : Nat) : State :=
  let was := (s.getLoop i).state
  let s := if was = .enabled ∨ was = .stopping then
      let s := s.bumpIf (was == .enabled) i C.loopStop
      let s := (s.endGroup i 2 0 (s.updateFt8 i)).endMotion i 2 0 (s.updateFt8 i)
      s.modLoop i (fun l => { l with stop := some { cat := 0, byFault := true, cause := 2, atUpdate := true, fromTick := s.tick } })
    else s.modLoop i (fun l => { l with stop := none })
  s.enterFaulted i (code != 5)

/-- A fault of a servo axis arises (R248, R249): ENABLING fails, a category 0 fault acts at once, FEEDBACK_LOST in category 0
at the next update point (R163), the others as a stop request. In FAULTED a further cause is logged only; in DISABLED there
is nothing to fault. -/
def State.axisFault (s : State) (i code : Nat) : State :=
  let l := s.getLoop i
  match l.state with
  | .disabled => s
  | .faulted =>
    if code ∈ l.causes then s
    else (s.modLoop i (fun l => { l with causes := code :: l.causes })).logAxisFault i
  | .enabling => (s.recordCause i code).faultNow i code
  | _ =>
    let s := s.recordCause i code
    let c := s.faultCategory i code
    if c = 0 ∧ code ≠ 5 then s.faultNow i code
    else s.requestStop i { cat := c, byFault := true, cause := 2 }

/-- Deceleration of a stop, turns/s² (R244). -/
def State.stopDecel (s : State) (i : Nat) : Rat := s.parF i P.stopDecel / s.parF i P.unitPerTurn

/-- A requested stop takes effect in the sample whose setpoint is `ps`, `vs`, `as` at `tm` (R244, R247, R351); the STOP
commands that ask a ramp complete with the sample's update point. -/
def State.stopEffect (s : State) (i : Nat) (ps vs as : Q32) (tm : Nat) : State :=
  let l := s.getLoop i
  match l.stopReq with
  | none => s
  | some r =>
    let u := s.updateFt8 i
    let s := s.modLoop i (fun l => { l with stopReq := none })
    match l.state, l.stop with
    | .enabled, none =>
      let s := s.bump i C.loopStop
      let s := (s.endGroup i r.cause r.cat u).endMotion i r.cause r.cat u
      let s := s.dropChange i
      let s := s.leaveConvoy i (if r.byFault then (servoFault l.faultCause).1 else E.aborted)
        (if r.byFault then (servoFault l.faultCause).2 else [0])
      let s := s.endHoming i (if r.byFault then .fault else .aborted)
        (if r.byFault then (servoFault l.faultCause).1 else E.aborted) (if r.byFault then (servoFault l.faultCause).2 else [])
      let run : StopRun := { cat := r.cat, byFault := r.byFault, cause := r.cause, p0 := ps, v0 := vs, a0 := as, fromXt := tm,
                             fromTick := s.tick, decel := s.stopDecel i, atUpdate := r.cat == 0 }
      if r.cat = 0 then s.modLoop i (fun l => { l with stop := some run })
      else
        let s := (s.modLoop i (fun l => { l with state := .stopping, stop := some run, holdAt := none })).clockStopped i
        let s := if (s.getTrail i).state = .closed then s else s.modTrail i (fun t => { t with state := .stopping })
        s.complete i opStop E.ok (leFt8 u)
    | .stopping, some w =>
      let w' := { w with byFault := w.byFault || r.byFault }
      if r.cat < w.cat then
        let s := s.modLoop i (fun l => { l with stop := some { w' with cat := r.cat, atUpdate := r.cat == 0 } })
        if r.cat = 0 then s else s.complete i opStop E.ok (leFt8 u)
      else (s.modLoop i (fun l => { l with stop := some w' })).complete i opStop E.ok (leFt8 u)
    | _, _ => s

/-- Position reports of the axis rest on sound feedback, or on the observer by design (R352). -/
def State.posSound (s : State) (i : Nat) : Bool := (s.getFb i).state != .lost && (s.getFb i).state != .substituted

/-- The stop of an axis ends at an update point at which its gates go inactive (R239, R352, R842). -/
def State.stopAtUpdate (s : State) (i : Nat) : State :=
  let l := s.getLoop i
  match l.stop with
  | none => s
  | some w =>
    if !w.atUpdate then s
    else
      let u := s.updateFt8 i
      let s := s.gates i false
      let s := if w.cat = 0 then s.modFlags i (fun f => { f with coastEnd := true }) else s
      let s := s.complete i opStop E.ok (leFt8 u)
      let s := s.modLoop i (fun l => { l with stop := none })
      if l.state = .faulted ∨ l.state = .disabled then s
      else if w.byFault then s.enterFaulted i (decide (5 ∉ l.causes))
      else s.enterDisabled i

/-- Entry to ENABLED (R242): histories zeroed, regions set, the measured position held, the trail open when it is the
source; AXIS_ENABLE completes. -/
def State.enterEnabled (s : State) (i : Nat) : State :=
  let s := s.zeroSections i
  let s := s.modLoop i (fun l => { l with
    state := .enabled, enableTick := s.tick, holdAt := some (s.axisPos i), wh := 0, vr := 0, ep := 0, ps := s.axisPos i, vs := 0, as_ := 0
    holding := false })
  let s := (s.openTrail i).beginPublications i
  let s := (s.gates i true).modTrail i (fun t => { t with lastNum := 0 })
  s.complete i opEnable E.ok

/-- A ramp stop is over at standstill (R239, R243, R245, R352): category 2 goes on ENABLED and holds its position closed-loop, in
torque mode too; category 1 and a pending AXIS_DISABLE go to their end at the next update point. -/
def State.rampDone (s : State) (i : Nat) (stamp : Ft8) : State :=
  let l := s.getLoop i
  match l.state, l.stop with
  | .stopping, some w =>
    if w.atUpdate then s
    else
      let s := s.logAxisStopped i stamp w.cat
      let s := s.writeReport i (s.axisPos i) (s.posSound i)
      if w.cat = 2 && !w.byFault && !l.disablePending then
        let s := s.endDecouple i
        let s := s.modLoop i (fun l => { l with state := .enabled, stop := none, holdAt := some l.ps, holding := s.mode i == 0 })
        s.openTrail i
      else s.modLoop i (fun l => { l with stop := some { w with atUpdate := true } })
  | _, _ => s

end Sys2Proof.Machine
end

