-- ==== Sys2Proof/Machine/StepOps.lean ====
section
/-! DEFINITION. Stops, faults and disables of stepper channels and virtual axes (R353, R375, R434 to R441). -/

namespace Sys2Proof.Machine

/-! ### Stepper channels -/

/-- Microsteps per turn (R422). -/
def State.stpRes (s : State) (i : Nat) : Nat := s.par (epStepper i) P.stpFullSteps * s.par (epStepper i) P.stpMicrosteps

/-- The cubic over a period of `per` seconds that matches position and velocity at both ends, at `u` seconds (R420). -/
def hermite (p0 v0 p1 v1 per u : Rat) : Rat × Rat :=
  let x := if per = 0 then 1 else u / per
  let d := p1 - p0
  let c2 := 3 * d - per * (2 * v0 + v1)
  let c3 := per * (v0 + v1) - 2 * d
  (p0 + x * (per * v0) + x * x * c2 + x * x * x * c3,
   if per = 0 then v1 else v0 + (2 * x * c2 + 3 * x * x * c3) / per)

/-- The commanded position and velocity of a channel now (R420); at rest while it is stopped. -/
def State.stpCommanded (s : State) (i : Nat) : Motion :=
  let c := s.getStepper i
  if c.halted then { p := c.pk.1 }
  else
    let per := s.par (epStepper i) P.stpPeriodTicks * tickUnits
    let u := min per (s.xt16 - c.tk)
    let m := hermite c.pk.1 c.pk.2 c.pk1.1 c.pk1.2 (secOf per) (secOf u)
    motionOf m.1 m.2 0

/-- position_uncertain of a stepper is set (R435, R436); homed clears with it. -/
def State.setUncertain (s : State) (i : Nat) : State :=
  let was := (s.getStepper i).uncertain
  let s := (s.modStepper i (fun c => { c with uncertain := true })).modTrail (epStepper i) (fun t => { t with homed := false })
  s.bumpIf (!was) (epStepper i) C.stpUncertain

/-- A microstep of the present tick is taken back: the stop that falls in it is taken (R440). -/
def Stepper.unstep (c : Stepper) (x : Nat) : Stepper :=
  match c.steps with
  | (t, _, b) :: l => if t = x then { c with count := b, steps := l } else c
  | [] => c

/-- The count issued at the last tick at or before XT.16 `x` (R439, R461). -/
def Stepper.countAt (c : Stepper) (x : Nat) : Int :=
  match c.steps.find? (fun m => decide (m.1 ≤ x)) with
  | some m => m.2.1
  | none => (c.steps.getLast?.map (·.2.2)).getD c.count

/-- Axis position of a microstep count, Q32.32, with the offset of POS_SET and homing (R355, R422). -/
def State.stpPos (s : State) (i : Nat) (n : Int) : Q32 :=
  satInt 64 (satInt 64 (n * 4294967296 / s.stpRes i) + (s.getTrail (epStepper i)).posOffset)

/-- The microsteps stop at once (R434, R435). -/
def State.stpHalt (s : State) (i : Nat) : State :=
  let s := s.modStepper i (fun c => c.unstep s.xt16)
  let m := s.stpCommanded i
  let fast := decide (s.parF (epStepper i) P.stpVStart < rabs (ofQ32 m.v))
  let s := if fast then s.setUncertain i else s
  s.modStepper i (fun c => { c with halted := true, pk := (m.p, 0), pk1 := (m.p, 0) })

/-- The coils lose their current (R434, R435). -/
def State.stpLoseCurrent (s : State) (i : Nat) : State :=
  let s := if s.par (epStepper i) P.stpKeepOnDisable = 0 then s.setUncertain i else s
  s.modStepper i (fun c => { c with
    coilA := { c.coilA with bridge := .inactive, duty := 0 }, coilB := { c.coilB with bridge := .inactive, duty := 0 } })

/-- The pulses of a channel stop with the report of its trail, pos_final being the commanded position (R352, R353). -/
def State.stpEnd (s : State) (i cause cat : Nat) : State :=
  let ep := epStepper i
  let s := s.stpHalt i
  let s := ((s.endGroup ep cause cat s.ft8).endMotion ep cause cat s.ft8).dropChange ep
  s.writeReport ep (s.getStepper i).pk.1 true

/-- A stop of an ENABLED channel (R353, R434). -/
def State.stpStop (s : State) (i cause cat : Nat) (st : BitVec 16) (data : List Byte) : State :=
  let ep := epStepper i
  let s := (s.stpEnd i cause cat).leaveConvoy ep st [0]
  ((s.endHoming ep .aborted st data).endDecouple ep).openTrail ep

/-- Status and data of a stepper fault (R441, R545). -/
def stpFaultStatus (code : Nat) : BitVec 16 × List Byte :=
  (if code = 5 then E.faultSafety else E.faultAxis, [3, BitVec.ofNat 8 code])

/-- Faults of a channel arise in one tick: the lowest code is recorded and STP_FAULT carries every one (R434, R441). -/
def State.stpFault (s : State) (i : Nat) (codes : List Nat) : State :=
  let c := s.getStepper i
  if codes.isEmpty || !(c.state == .enabling || c.state == .enabled) then s
  else
    let ep := epStepper i
    let code := codes.foldl min 255
    let s := s.stpEnd i 2 0
    let s := (s.modStepper i (fun c => { c with state := .faulted, faultCause := code })).stpLoseCurrent i
    let s := s.log ep 0x0307 (code + dat 1 (causeMask codes) + dat 8 (q64 (s.getStepper i).pk.1))
    let s := s.bump ep C.stpFault
    let f := stpFaultStatus code
    let s := ((s.leaveConvoy ep f.1 f.2).endDecouple ep).endHoming ep .fault f.1 f.2
    (s.closeTrail ep).complete ep opEnable f.1 f.2

/-- A channel is disabled, its bridges inactive at once (R441). -/
def State.stpDisable (s : State) (i cat : Nat) : State :=
  let ep := epStepper i
  let s := if (s.getStepper i).state = .enabled then s.stpEnd i 1 cat else s
  let s := (s.modStepper i (fun c => { c with state := .disabled, halted := true })).stpLoseCurrent i
  let s := ((s.leaveConvoy ep E.aborted [0]).endDecouple ep).endHoming ep .aborted E.aborted []
  (s.closeTrail ep).complete ep opEnable E.aborted

/-! ### Virtual axes (R375) -/

/-- A virtual axis is DISABLED. -/
def State.virtDisabled (s : State) (i : Nat) : State :=
  let ep := epVirt i
  let s := s.endPublications ep
  let s := s.modVirt i (fun v => { v with state := .disabled, stop := none, disablePending := false, starvedSince := none })
  let s := ((s.leaveConvoy ep E.aborted [0]).endDecouple ep).endHoming ep .aborted E.aborted []
  (s.closeTrail ep).complete ep opDisable E.ok

/-- A stop of an ENABLED virtual axis takes effect in its last sample: the ramp of R244 in categories 1 and 2, in category 0
its setpoint stands and it is disabled at once (R375). -/
def State.virtStop (s : State) (i cat cause : Nat) : State :=
  let ep := epVirt i
  let v := s.getVirt i
  match v.state, v.stop with
  | .enabled, _ =>
    let u := ft8Of v.sampleXt
    let s := ((s.endGroup ep cause cat u).endMotion ep cause cat u).dropChange ep
    let s := (s.leaveConvoy ep E.aborted [0]).endHoming ep .aborted E.aborted []
    if cat = 0 then
      let s := s.modVirt i (fun v => { v with sp := (v.sp.1, 0, 0) })
      (s.writeReport ep v.sp.1 true).virtDisabled i
    else
      let run : StopRun := { cat := cat, cause := cause, p0 := v.sp.1, v0 := v.sp.2.1, a0 := v.sp.2.2, fromXt := v.sampleXt,
                             fromTick := s.tick, decel := s.parF ep P.stopDecel / s.parF ep P.unitPerTurn }
      let s := if (s.getTrail ep).state = .closed then s else s.modTrail ep (fun t => { t with state := .stopping })
      s.modVirt i (fun v => { v with state := .stopping, stop := some run })
  | .stopping, some w =>
    if cat = 0 then
      let s := s.modVirt i (fun v => { v with sp := (v.sp.1, 0, 0) })
      (s.writeReport ep v.sp.1 true).virtDisabled i
    else if cat < w.cat then s.modVirt i (fun v => { v with stop := some { w with cat := cat } })
    else s
  | _, _ => s

/-- The stop of a virtual axis is at rest (R352, R375, R404). -/
def State.virtStopped (s : State) (i : Nat) : State :=
  let ep := epVirt i
  let v := s.getVirt i
  match v.stop with
  | none => s
  | some w =>
    let s := s.writeReport ep v.sp.1 true
    if w.cat = 2 && !v.disablePending then
      let s := (s.modVirt i (fun v => { v with state := .enabled, stop := none })).endDecouple ep
      s.openTrail ep
    else s.virtDisabled i

end Sys2Proof.Machine
end

