-- ==== Sys2Proof/Machine/Convoy.lean ====
section
/-! DEFINITION. Virtual masters, gearing, cams, convoys, register correction and remote axes (08_line_shaft.md, R372 to R416,
R839, R843). -/

namespace Sys2Proof.Machine

/-! ### Held publications (R384 to R388) -/

/-- Endpoint of a follower. -/
def folEp : FolEp → Nat
  | .servo i => epServo i.val
  | .stepper i => epStepper i.val
  | .virt i => epVirt i.val
  | .remote i => epRemote i.val

/-- A publication entered by falling t_ref; the 8 latest stay (R384). -/
def insertPub (p : Pub) : List Pub → List Pub
  | [] => [p]
  | q :: l => if ft16Diff p.tRef q.tRef < 0 then q :: insertPub p l else p :: q :: l

/-- A follower takes or discards a publication that reached it (R380, R384). -/
def State.acceptPub (s : State) (ep : Nat) (p : Pub) : State :=
  let f := s.getFollower ep
  let member := f.state == .waiting || f.state == .syncing || f.state == .coupled
  if !member || f.convoy != some p.convoy.toNat then s
  else if f.gen.any (fun g => decide (g ≠ p.masterGen)) then
    (s.setFollower ep { f with causes := 3 :: f.causes }).bump ep C.gearPubDup
  else if f.any && !genAbove p.seq f.lastSeq then s.bump ep C.gearPubDup
  else
    let s := s.bumpIf (f.any && decide (p.seq ≠ f.lastSeq + 1)) ep C.gearPubGap
    let held := if p.supersede then f.held.filter (fun q => decide (ft16Diff q.tRef p.tRef < 0)) else f.held
    let s := s.setFollower ep { f with
      held := (insertPub p held).take 8, lastSeq := p.seq, any := true, gen := some p.masterGen
      causes := if p.endFlag then 2 :: f.causes else f.causes }
    s.bump ep C.gearPubRx

/-- The publication in use at an instant: the latest t_ref at or before it; before every one, the oldest (R386). -/
def Follower.inUse (f : Follower) (t : Ft16) : Option Pub :=
  match f.held.find? (fun p => decide (0 ≤ ft16Diff t p.tRef)) with
  | some p => some p
  | none => f.held.getLast?

/-- The master's motion of a publication at an instant (R386). -/
def pubAt (p : Pub) (t : Ft16) : Motion := cubicAt p.p0 p.v0 p.a0 p.j0 (tauOf (ft16Diff t p.tRef))

/-- The instant lies a period and `extra` FT.16 units past a publication's t_ref (R387, R388). -/
def pastPeriod (p : Pub) (t : Ft16) (extra : Int) : Bool :=
  decide (((p.period * tickUnits : Nat) : Int) + extra ≤ ft16Diff t p.tRef)

/-- The master is stale at an instant (R388). -/
def State.staleAt (s : State) (ep : Nat) (t : Ft16) : Bool :=
  let f := s.getFollower ep
  match f.inUse t with
  | some p => pastPeriod p t (unitsOfNs (s.parF ep P.staleTime * 1000000))
  | none => false

/-! ### Mappings (R391 to R398) -/

/-- Position gearing without the offsets, exact floor (R391). -/
def gearPos (f : FolPart) (m : Q32) : Int := f.fa + f.num * (m - f.ma) / (f.den : Int)

/-- The anchor moved along the master (R392). -/
def moveAnchor (f : FolPart) (m : Q32) : FolPart :=
  if (m - f.ma).natAbs < 2 ^ 62 ∨ f.den = 0 ∨ f.map ≠ 0 then f
  else
    let k := (m - f.ma).tdiv (f.den : Int)
    { f with ma := f.ma + k * f.den, fa := f.fa + k * f.num }

/-- Cycle and rise of a cam table (R395). -/
def camCycle (c : CamTable) : Q32 × Q32 :=
  match c.points.head?, c.points.getLast? with
  | some a, some b => (b.1, b.2 - a.2)
  | _, _ => (0, 0)

/-- A cam table is valid: every announced point is loaded (R556). -/
def CamTable.valid (c : CamTable) : Bool := decide (2 ≤ c.total) && c.points.length == c.total

/-- Number of the cycle and position within it (R397). -/
def camPos (cycle origin m : Q32) : Int × Q32 :=
  if cycle = 0 then (0, 0) else ((m - origin) / cycle, (m - origin) % cycle)

/-- Piece `i` of a table as the mapping of a follower entry (R390, R398). -/
def camPiece (c : CamTable) (i : Nat) : FolPart :=
  let a := c.points.getD i (0, 0)
  let b := c.points.getD (i + 1) (0, 0)
  let k := c.coefs.getD i (0, 0, 0)
  { map := 2, ma := a.1, fa := b.1, c0 := a.2, c1 := k.1, c2 := k.2.1, c3 := k.2.2 }

/-- Number of the piece that holds a position within the cycle (R397). -/
def camIndex (c : CamTable) (y : Q32) : Nat := (c.points.filter (fun p => decide (p.1 ≤ y))).length - 1

/-- Position, slope and curvature of a piece at a position within the cycle, exact: turns, turn per turn (R397). -/
def pieceAt (p : FolPart) (y : Q32) : Rat × Rat × Rat :=
  let u := ofQ32 (y - p.ma)
  let k (c : Int) : Rat := (c : Rat) / pow2 48
  (ofQ32 p.c0 + k p.c1 * u + k p.c2 * u * u + k p.c3 * u * u * u, k p.c1 + 2 * k p.c2 * u + 3 * k p.c3 * u * u,
   2 * k p.c2 + 6 * k p.c3 * u)

/-- Entries of the piece in use and up to 4 following in the master's direction, of one generation (R398). -/
def camEntries (c : CamTable) (i : Nat) (fwd : Bool) (t : Ft16) (gen : BitVec 16) (o : Seg) : List Seg :=
  let n := c.points.length - 1
  (List.range (min 5 n)).map (fun k =>
    let j := if fwd then (i + k) % n else (i + n - k % n) % n
    { o with tStart := t, hold := true, gen := gen, last := false, ramp := false, move := 0, fol := some (camPiece c j) })

/-! ### Register correction (R409) -/

/-- One step of the time-optimal profile toward `d` with speed and acceleration limits: position and velocity after `dt`
seconds and the acceleration there (R409). -/
def timeOptimal (o v d vm am dt : Rat) : Rat × Rat × Rat :=
  if o = d ∧ v = 0 ∨ am ≤ 0 ∨ dt ≤ 0 then (o, v, 0)
  else
    let e := d - o - v * rabs v / (2 * am)
    let dir := if e = 0 then -(rsgn v) else rsgn e
    let left := dir * (d - o)
    let v0 := dir * v
    let vp := min vm (Config.sqrt (rclamp 0 (am * left + v * v / 2 + vm * vm) (am * left + v * v / 2)))
    let a1 := if v0 ≤ vp then am else -am
    let t1 := rabs (vp - v0) / am
    let d1 := (v0 + vp) / 2 * t1
    let tc := if vp = 0 then 0 else max 0 ((left - d1 - vp * vp / (2 * am)) / vp)
    let t2 := vp / am
    if dt < t1 then (o + dir * (v0 * dt + a1 * dt * dt / 2), dir * (v0 + a1 * dt), dir * a1)
    else if dt < t1 + tc then (o + dir * (d1 + vp * (dt - t1)), dir * vp, 0)
    else if dt < t1 + tc + t2 then
      let r := dt - t1 - tc
      (o + dir * (d1 + vp * tc + vp * r - am * r * r / 2), dir * (vp - am * r), -(dir * am))
    else (d, 0, 0)

/-- o_reg at a sample `dt` seconds after the last one; under reg_source 2 the demand is the host's (R408, R409). -/
def State.stepReg (s : State) (ep : Nat) (dt : Rat) : State × (Rat × Rat × Rat) :=
  let r := (s.getFollower ep).reg
  let lim := s.parF ep P.regLimit
  let dem := if s.par ep P.regSource = 2 then rclamp (-lim) lim (s.parF ep P.regDemand) else ofQ32 r.demand
  let held := if s.par ep P.regSource = 2 then decide (dem ≠ s.parF ep P.regDemand) else r.limited
  let n := timeOptimal (ofQ32 r.o) (ofQ32 r.v) dem (s.parF ep P.regSlew) (s.parF ep P.regAccel) dt
  (s.modFollower ep (fun f => { f with
    reg := { demand := toQ32 dem, o := toQ32 n.1, v := toQ32 n.2.1, limited := held } }), n)

/-! ### The mapped setpoint (R391, R394, R397) -/

/-- Cascade factor of a stage in a publication (R394). -/
def stageFactor (p : Pub) (stage : Nat) : Rat :=
  if 8 ≤ stage then 1 else f32Val (p.f.getD stage 0x3F800000).toNat

/-- Mapped motion of the master's motion `m` by `g`, phase offset `o` and register offset `r` (turns). For a cam `fBase`
holds f_base, and `n`, `y` the cycle number and the position in it. -/
def mapped (g : FolPart) (m : Motion) (o : Motion) (r : Rat × Rat × Rat) (fac : Rat) (lastP lastV : Q32) (dt : Rat)
    (fBase rise : Q32) (n : Int) (y : Q32) : Motion :=
  let q (x : Rat) : Rat := pow2 32 * x
  match g.map with
  | 0 =>
    let k : Rat := (g.num : Rat) / (g.den : Rat)
    motionOf (gearPos g m.p + o.p + (q r.1).floor) (k * m.v + o.v + q r.2.1) (k * m.a + o.a + q r.2.2)
  | 1 =>
    let k : Rat := (g.num : Rat) / (g.den : Rat) * fac
    let w := motionOf 0 (k * m.v) (k * m.a)
    { w with p := Config.velGearPos lastP lastV w.v dt }
  | _ =>
    let c := pieceAt g y
    let vm := ofQ32 m.v
    motionOf (fBase + n * rise + (q c.1).floor + o.p + (q r.1).floor) (q (c.2.1 * vm) + o.v + q r.2.1)
      (q (c.2.1 * ofQ32 m.a + c.2.2 * vm * vm) + o.a + q r.2.2)

/-! ### Decoupling (R404) -/

/-- Bit map of causes. -/
def State.decoupleCauses (s : State) (ep : Nat) (t : Ft16) : List Nat :=
  let f := s.getFollower ep
  let d := if s.time.diverged && !s.time.leader then [4] else []
  let st := if s.staleAt ep t then [1] else []
  f.causes ++ d ++ st

/-- A remote axis leaves its convoy at rest where it stands; category 1 disables it (log entry 32). -/
def State.remoteRest (s : State) (i : Nat) (disable : Bool) : State :=
  let ep := epRemote i
  let s := s.modFollower ep (fun f => { f with sp := (f.sp.1, 0, 0) })
  let s := (s.leaveConvoy ep E.aborted [0]).endDecouple ep
  if disable then
    let s := s.modRemote i (fun r => { r with state := .disabled, enableTick := none })
    (s.complete ep opDisable E.ok).complete ep opEnable E.aborted
  else s

/-- A follower decouples on causes of one sample (R404). -/
def State.decouple (s : State) (ep : Nat) (causes : List Nat) : State :=
  let f := s.getFollower ep
  let cause := causes.foldl min 255
  let cat := s.par ep P.decoupleCategory
  let s := if f.state = .waiting then (s.abortAppends ep).modTrail ep Trail.close else s
  let s := s.setFollower ep { f with state := .decoupled, cause := cause, causes := [], phaseMove := none }
  let s := s.endJoin ep E.aborted [BitVec.ofNat 8 cause]
  let s := s.log ep 0x0602 (cause + dat 1 (causeMask causes) + dat 2 (f.convoy.getD 255) + dat 4 f.lastSeq.toNat)
  let s := s.bump ep C.gearDecouple
  let report (u : Ft8) (s : State) : State := s.modTrail ep (fun t => { t with
    change := none
    reportDue := some { cause := 7, category := cat, lastWaymark := t.lastWaymark, ftStop := u } })
  if ep < 0x20 then
    let s := report (s.updateFt8 ep) s
    let s := if cat = 1 then s.recordCause ep 0x10 else s
    s.requestStop ep { cat := cat, byFault := cat == 1, cause := 7 }
  else if ep < 0x40 then
    let s := (report s.ft8 s).stpEnd (ep - 0x20) 7 cat
    if cat = 1 then s.stpFault (ep - 0x20) [6] else (s.endDecouple ep).openTrail ep
  else if ep < 0x200 then (report (ft8Of (s.getVirt (ep - 0x100)).sampleXt) s).virtStop (ep - 0x100) cat 7
  else s.remoteRest (ep - 0x200) (cat == 1)

/-- The axis belongs to a path group that spans modules: one of this module, or one of another module, whose segments have come
(R74, R344; log entry 92). -/
def State.spans (s : State) (ep : Nat) : Bool :=
  (s.getTrail ep).spanned || (match s.groupOf ep with
    | some g => (s.groupMembers g).any (fun m => (s.localEp m).isNone)
    | none => false)

/-! ### A follower's setpoint at an instant (R386 to R404, R843) -/

/-- Constant-velocity continuation of the last setpoint over `dt` seconds. -/
def coast (sp : Q32 × Q32 × Q32) (dt : Rat) : Motion := { p := satInt 64 (sp.1 + (sp.2.1 * dt).floor), v := sp.2.1 }

/-- The entry a follower uses: the covering one, for a cam the one whose piece holds y; else the last used (R332, R398). -/
def State.folEntry (s : State) (ep : Nat) (t : Ft16) (y : Q32) : Option Seg × Bool :=
  let tr := s.getTrail ep
  let fits (g : Seg) : Bool := match g.fol with
    | some p => p.map != 2 || (decide (p.ma ≤ y) && decide (y < p.fa))
    | none => false
  match tr.pick t fits with
  | some g => (some g, true)
  | none => (tr.lastSeg, false)

/-- The follower's queue after an entry is used: the one it leaves is free (R333, R398). -/
def State.folUse (s : State) (ep : Nat) (g : Seg) : State :=
  s.modTrail ep (fun t =>
    let left := match t.lastSeg with
      | some o => if o.fol = g.fol ∧ o.gen = g.gen then t.queue else t.queue.filter (fun e => decide (e ≠ o))
      | none => t.queue
    { t with queue := left }.use g)

/-- The change of a cam table at the first sample in which the cycle number changes: f_base keeps the position (R400). -/
def State.switchCam (s : State) (ep : Nat) (m : Motion) (t : Ft16) : State :=
  let f := s.getFollower ep
  match f.camNext, f.map with
  | some c, some g =>
    if g.map ≠ 2 ∨ (camPos (camCycle (s.getCam f.cam)).1 f.camOrigin m.p).1 = f.cycle then s
    else
      let oldT := s.getCam f.cam
      let newT := s.getCam c
      let oc := camPos (camCycle oldT).1 f.camOrigin m.p
      let nc := camPos (camCycle newT).1 f.camOrigin m.p
      let at_ (tb : CamTable) (p : Int × Q32) : Int :=
        p.1 * (camCycle tb).2 + toQ32 (pieceAt (camPiece tb (camIndex tb p.2)) p.2).1
      let gen := ((s.getTrail ep).usedGen.getD 0) + 1
      let o := (s.getTrail ep).lastSeg.getD {}
      let ph := segAt o t
      let o' : Seg := { p0 := ph.p, v0 := ph.v, a0 := ph.a, j0 := o.j0 }
      let s := s.setFollower ep { f with
        cam := c, camNext := none, cycle := nc.1, fBase := f.fBase + at_ oldT oc - at_ newT nc }
      s.modTrail ep (fun tr => { tr with queue := camEntries newT (camIndex newT nc.2) (decide (0 ≤ m.v)) t gen o' })
  | _, _ => s

/-- The blend of SYNCING: w and its first two derivatives, and s (R403). -/
def blend (j : Join) (m : Motion) : Rat × Rat × Rat × Rat :=
  let sg : Rat := if j.pos then 1 else -1
  let d := ofQ32 j.dist
  let raw : Rat := if d = 0 then 1 else sg * ofQ32 (m.p - j.mj) / d
  let x := rclamp 0 1 raw
  let inside := decide (0 < raw) && decide (raw < 1)
  let x1 : Rat := if inside then sg * ofQ32 m.v / d else 0
  let x2 : Rat := if inside then sg * ofQ32 m.a / d else 0
  (x * x * x * (10 - 15 * x + 6 * x * x), 30 * x * x * (1 - x) * (1 - x) * x1,
   60 * x * (1 - x) * (1 - 2 * x) * x1 * x1 + 30 * x * x * (1 - x) * (1 - x) * x2, x)

/-- The setpoint while SYNCING, from the continuation `g` and the mapped setpoint `f` (R403, R843). -/
def blended (vel : Bool) (b : Rat × Rat × Rat × Rat) (g f : Motion) : Motion :=
  let w := b.1
  if vel then { motionOf 0 ((1 - w) * g.v + w * f.v) (w * f.a + b.2.1 * (f.v - g.v)) with p := f.p }
  else motionOf ((1 - w) * g.p + w * f.p) ((1 - w) * g.v + w * f.v + b.2.1 * (f.p - g.p))
    (w * f.a + 2 * b.2.1 * (f.v - g.v) + b.2.2.1 * (f.p - g.p))

/-- The follower becomes COUPLED: CONVOY_JOIN completes and CONVOY_COUPLED is logged (R403, R415). -/
def State.coupled (s : State) (ep : Nat) (seq : BitVec 16) : State :=
  let f := s.getFollower ep
  let s := s.endJoin ep E.ok []
  let s := s.modFollower ep (fun f => { f with state := .coupled, join := none })
  s.log ep 0x0601 (f.convoy.getD 255 + dat 1 ((f.map.map (·.map)).getD 15) + dat 2 seq.toNat)

/-- A SYNCING or COUPLED follower's setpoint at an instant, with whether an entry covers the sample. -/
def State.evalFollower (s : State) (ep : Nat) (t : Ft16) : State × Motion × Bool :=
  let f := s.getFollower ep
  let x := s.xtOfFt16 t
  let dt := secOf ((x : Int) - f.lastXt)
  match f.inUse t with
  | none => (s, coast f.sp dt, true)
  | some p =>
    let m := pubAt p t
    let late := pastPeriod p t 0 && !p.measured
    let s := (s.modFollower ep (fun f => { f with late := late })).bumpIf late ep C.gearLate
    let s := s.switchCam ep m t
    let f := s.getFollower ep
    let tb := s.getCam f.cam
    let cyc := camCycle tb
    let ny := camPos cyc.1 f.camOrigin m.p
    let e := s.folEntry ep t ny.2
    match e.1 with
    | none => (s, coast f.sp dt, false)
    | some g =>
      let part := moveAnchor (g.fol.getD {}) m.p
      let s := s.folUse ep { g with fol := some part }
      let s := s.modTrail ep (fun tr => { tr with
        queue := tr.queue.map (fun q => if q.fol = g.fol then { q with fol := some part } else q) })
      let o := segAt g t
      let r := s.stepReg ep dt
      let s := r.1
      let stage := (f.map.map (·.stage)).getD 255
      let mo := mapped part m o r.2 (stageFactor p stage) f.sp.1 f.sp.2.1 dt f.fBase cyc.2 ny.1 ny.2
      let s := s.modFollower ep (fun f => { f with
        oph := (o.p, o.v, o.a), cycle := ny.1, map := some { part with stage := stage } })
      let out := match f.state, f.join with
        | .syncing, some j =>
          let b := blend j m
          (blended (part.map == 1) b (coast (j.pj, j.vj, 0) (secOf ((x : Int) - j.tj))) mo, decide (b.2.2.2 = 1))
        | _, _ => (mo, false)
      let s := s.modFollower ep (fun f => { f with sp := (out.1.p, out.1.v, out.1.a), lastXt := x })
      let s := if out.2 then s.coupled ep p.seq else s
      (s, { out.1 with sat := out.1.sat || m.sat }, e.2)

/-- The position an axis holds without segments. -/
def State.holdPoint (s : State) (ep : Nat) : Q32 :=
  if ep < 0x20 then (s.getLoop ep).holdAt.getD (s.getLoop ep).ps
  else if ep < 0x40 then (s.getStepper (ep - 0x20)).pk1.1
  else if ep < 0x200 then (s.getVirt (ep - 0x100)).sp.1
  else (s.getFollower ep).sp.1

/-- The setpoint of an axis at an instant from its trail, its convoy or, decoupled, its last setpoint; the flag tells
whether the instant is covered (R55, R216, R386, R404). -/
def State.setpointAt (s : State) (ep : Nat) (t : Ft16) : State × Motion × Bool :=
  let f := s.getFollower ep
  let dt := secOf ((s.xtOfFt16 t : Int) - f.lastXt)
  match f.state with
  | .decoupled => (s, coast f.sp dt, true)
  | .syncing | .coupled =>
    let cs := s.decoupleCauses ep t
    if cs.isEmpty then s.evalFollower ep t
    else (s.decouple ep cs, coast f.sp dt, true)
  | .waiting =>
    let tr := s.getTrail ep
    let r := tr.sample t
    let s := s.setTrail ep r.2.2
    let m := r.1.getD { p := s.holdPoint ep }
    let s := s.modFollower ep (fun f => { f with sp := (m.p, m.v, m.a), lastXt := s.xtOfFt16 t })
    let cs := s.decoupleCauses ep t
    if cs.isEmpty then (s, m, r.1.isNone || r.2.1) else (s.decouple ep cs, { p := m.p, v := m.v }, true)
  | .none_ =>
    let tr := s.getTrail ep
    let r := tr.sample t
    let s := s.setTrail ep r.2.2
    match r.1 with
    | some m =>
      if s.time.diverged && !s.time.leader && s.spans ep then
        let s := s.modFollower ep (fun f => { f with sp := (m.p, m.v, m.a), lastXt := s.xtOfFt16 t })
        (s.decouple ep [4], { p := m.p, v := m.v }, true)
      else (s, m, r.2.1)
    | none => (s, { p := s.holdPoint ep }, true)

/-! ### Commands -/

/-- A follower endpoint (R373). -/
def isFollowerEp (ep : Nat) : Bool :=
  decide (ep < 0x40) || (decide (0x100 ≤ ep) && decide (ep ≤ 0x1FF)) || (decide (0x200 ≤ ep) && decide (ep ≤ 0x27F))

/-- The trail runs a VEL move at its target velocity (R401). -/
def State.atVel (s : State) (ep : Nat) : Bool :=
  match (s.getTrail ep).lastSeg with
  | some g => g.hold && g.a0 == 0 && g.j0 == 0
  | none => false

/-- What this module knows of a convoy: registered, conv_lead in µs and hops to its publisher (R389, R401; log entry 30). A
source 1 convoy needs no lead: a second stands for it. -/
def State.convoyInfo (s : State) (n : Nat) : Bool × Rat × Nat :=
  match (List.range 16).find? (fun c => (s.getPublisher c).registered == some n) with
  | some c => (true, if s.par (epPub c) P.convSource = 1 then 1000000 else s.parF (epPub c) P.convLead, 0)
  | none =>
    let k := Config.convoyKnown s.freeCtr n
    if s.time.leader then (decide (mget s.fabric.convoys n 0 ≠ 0), k.2) else k

/-- Some follower's committed or staged configuration names a cam table, or a member uses it (R396). -/
def State.camNamed (s : State) (c : Nat) : Bool :=
  s.followers.any (fun kv => kv.2.state != .none_ && (kv.2.map.map (·.map)) == some 2 && kv.2.cam == c || kv.2.camNext == some c) ||
  s.cfg.any (fun kv => kv.1 % 2 ^ 32 == P.camTable * 65536 && kv.2 == 0x600 + c) ||
  s.sessions.any (fun kv => kv.2.any (fun x => x.pendingSet.any (fun it => it.code.toNat == P.camTable && it.value == 0x600 + c)))

/-- Coefficients of a completed table's pieces (R395). -/
def camCoefs (interp : Nat) (pts : List CamPoint) : List (Int × Int × Int) :=
  let mf := pts.map (fun p => (p.m, p.f))
  match interp with
  | 0 => (mf.zip mf.tail).map (fun ab =>
      ((((ab.2.2 - ab.1.2 : Int) : Rat) / ((ab.2.1 - ab.1.1 : Int) : Rat) * pow2 48).floor, 0, 0))
  | 1 => Config.splinePieces mf
  | _ => pts.map (fun p => (p.c1, p.c2, p.c3))

/-- A coefficient lies outside Q16.48 (R396). -/
def coefBad (c : Int × Int × Int) : Bool := [c.1, c.2.1, c.2.2].any (fun x => decide (satInt 64 x ≠ x))

/-- CAM_LOAD (R395, R396, R556), in units of a point. -/
def execCamLoad (job : CmdJob) (ep : BitVec 16) (interp : Byte) (first total : BitVec 32) (pts : List CamPoint) (s : State) : Out :=
  .next (s.execUnits job.ref 0x0600 (fun k s =>
    let c := ep.toNat - 0x600
    let t := s.getCam c
    let f := first.toNat
    let n := total.toNat
    let done := (s.cmd k).progress + reachUnits job.reach (pts.length - (s.cmd k).progress)
    let old := if f = 0 then [] else (t.points.zip (t.coefs ++ List.replicate t.points.length (0, 0, 0))).take f
    let oldPts : List CamPoint := old.map (fun x => { m := x.1.1, f := x.1.2, c1 := x.2.1, c2 := x.2.2.1, c3 := x.2.2.2 })
    let all := oldPts ++ pts
    let rising := (all.zip all.tail).all (fun ab => decide (ab.1.m < ab.2.m))
    let coefs := if all.length = n ∨ interp.toNat = 2 then camCoefs interp.toNat all else []
    s.checked k [
      (!(decide (0x600 ≤ ep.toNat) && decide (ep.toNat ≤ 0x6FF)), E.endpoint),
      (decide (2 < interp.toNat) || decide (n < 2) || decide (4097 < n), E.range),
      (rising && (coefs.dropLast.any coefBad || pts.any (fun p => coefBad (p.c1, p.c2, p.c3))), E.range),
      (s.camNamed c, E.state),
      (!rising || all.head?.any (fun p => decide (p.m ≠ 0)) || decide (n < f + pts.length) || decide (oldPts.length ≠ f), E.conflict)]
      (fun s =>
        let got := oldPts ++ pts.take done
        let coefs := if got.length = n ∨ interp.toNat = 2 then camCoefs interp.toNat got else []
        let s := s.setCam c { interp := interp.toNat, points := got.map (fun p => (p.m, p.f)), coefs := coefs, total := n }
        s.unitsDone k job.reach (decide (pts.length ≤ done)) done (f + done) (le4 pts.length ++ le4 (f + pts.length)))))

/-- A finite binary32 raw that is not below zero. -/
def posOrZero (x : F32) : Bool := !f32Bad x.toNat && decide (0 ≤ f32Val x.toNat)

/-- CONVOY_JOIN (R389, R401, R412, R421, R556). -/
def execConvoyJoin (ref : CmdRef) (ep : BitVec 16) (j : JoinReq) (s : State) : Out :=
  .next (s.execCmd ref 0x0610 (fun k s =>
    let e := ep.toNat
    let map := j.map.toNat
    let f := s.getFollower e
    let info := s.convoyInfo j.convoy.toNat
    let s := s.took
    let tr := s.getTrail e
    let stp := decide (0x20 ≤ e) && decide (e ≤ 0x3F)
    let extra : Rat := if stp then (s.par e P.stpPeriodTicks : Rat) / 64 + 2 else 0
    let cam := j.cam.toNat - 0x600
    s.checked k [
      (!isFollowerEp e, E.endpoint),
      (decide (2 < map) || decide (1 < j.anchor.toNat) || (decide (8 ≤ j.stage.toNat) && j.stage != 0xFF) ||
        !posOrZero j.dist || (map != 2 && (decide (j.num = 0) || decide (j.den = 0))) ||
        (map == 2 && !(decide (0x600 ≤ j.cam.toNat) && decide (j.cam.toNat ≤ 0x6FF))), E.range),
      (s.axisStateOf e != .enabled, E.state),
      (decide (e < 0x200) && tr.state != .idle && !(tr.state == .running && s.atVel e), E.state),
      (s.time.state == .unset || s.time.state == .acquiring, E.state),
      (f.state != .none_ || (s.groupOf e).isSome, E.conflict),
      (decide (e < 0x20) && s.mode e != (if map = 1 then 1 else 2), E.conflict),
      (!info.1, E.endpoint),
      (decide (info.2.1 < 2 + (info.2.2 : Rat) * (3 / 10) + 2 + extra), E.conflict),
      (j.stage != 0xFF && map != 1, E.conflict),
      (map == 2 && !(s.getCam cam).valid, E.conflict)]
      (fun s =>
        let part : FolPart := { map := map, stage := j.stage.toNat, num := j.num, den := j.den }
        let join : Join := { absolute := j.anchor == 1, ma := j.ma, fa := j.fa, dist := toQ32 (f32Val j.dist.toNat)
                             at_ := if j.ft = 0 then none else some j.ft, cmd := some k
                             was := (s.par e P.gearNum, s.par e P.gearDen, f.lastSeq, f.cause) }
        let s := (s.run k).setFollower e { sp := f.sp, lastXt := f.lastXt, lastSeq := f.lastSeq, state := .waiting
                                           convoy := some j.convoy.toNat, map := some part, cam := cam
                                           camOrigin := j.camOrigin, join := some join }
        let s := if map = 2 then s else (s.setPar e P.gearNum 0 (lowBits 32 j.num)).setPar e P.gearDen 0 j.den
        s.sendRegister 3 j.convoy.toNat (s.fa e))))

/-- CONVOY_LEAVE (R405). -/
def execConvoyLeave (ref : CmdRef) (ep : BitVec 16) (mode : Byte) (s : State) : Out :=
  .next (s.execCmd ref 0x0611 (fun k s =>
    let e := ep.toNat
    let st := (s.getFollower e).state
    s.checked k [
      (!isFollowerEp e, E.endpoint), (decide (1 < mode.toNat), E.range),
      (!(st == .waiting || st == .syncing || st == .coupled), E.state)]
      (fun s =>
        let b := s.changeInstant e
        (s.modTrail e (fun t => { t with change := some (b, .leave mode.toNat) })).ok k (leFt8 (ft8Of b)))))

/-- The phase offset of a follower as planned at an instant: the queued entry that covers it, the one of generation `gen` that ends there,
else the last used one (R390). -/
def State.phaseAt (s : State) (ep : Nat) (t : Ft16) (gen : BitVec 16) : Motion :=
  let tr := s.getTrail ep
  match tr.queue.find? (fun h => !h.hold && h.tEnd == t && h.gen == gen) with
  | some h => segAt h t
  | none => match (tr.pick t (fun _ => true)).or tr.lastSeg with
    | some h => segAt h t
    | none => { p := (s.getFollower ep).oph.1 }

/-- PHASE_MOVE (R390, R394). -/
def execPhaseMove (ref : CmdRef) (ep : BitVec 16) (dist : Q32) (v a j : F32) (s : State) : Out :=
  .next (s.execCmd ref 0x0612 (fun k s =>
    let e := ep.toNat
    let f := s.getFollower e
    s.checked k [
      (!isFollowerEp e, E.endpoint),
      (!posOrZero v || !posOrZero a || !posOrZero j || decide (f32Val v.toNat = 0) || decide (f32Val a.toNat = 0), E.range),
      (f.state != .coupled, E.state),
      ((f.map.map (·.map)) == some 1, E.conflict)]
      (fun s =>
        let b := s.changeInstant e
        let target := (s.phaseAt e (ft16Of b) (s.getTrail e).nextGen).p + dist
        (s.setFollower e { f with phaseMove := some (target, v, a, j, b) }).ok k (leFt8 (ft8Of b)))))

/-! ### Changes of the mapping in use (R393, R400) -/

/-- The velocity step of a new ratio against the one in use at the present master velocity exceeds gear_step_max (R393). -/
def State.gearStepBad (s : State) (ep : Nat) (num : Int) (den : Nat) : Bool :=
  let f := s.getFollower ep
  match f.map, f.inUse s.time.ft16 with
  | some g, some p =>
    let member := f.state == .syncing || f.state == .coupled
    let vm := ofQ32 (pubAt p s.time.ft16).v
    let dr := (num : Rat) / den - (g.num : Rat) / g.den
    member && g.map != 2 && decide (s.parF ep P.gearStepMax / s.unitOf ep < rabs (dr * vm))
  | _, _ => false

/-- A committed ratio of a follower applies at XT.16 `b` (R393). -/
def State.regear (s : State) (ep b : Nat) : State :=
  let f := s.getFollower ep
  let num := s.parZ ep P.gearNum
  let den := s.par ep P.gearDen
  match f.map with
  | none => s
  | some g =>
    if g.map = 2 ∨ f.state = .none_ ∨ f.state = .decoupled ∨ (num = g.num ∧ den = g.den) then s
    else
      let t := ft16Of b
      let m := (f.inUse t).map (fun p => (pubAt p t).p)
      let move (q : FolPart) : FolPart :=
        if f.state = .waiting ∨ q.map = 1 then { q with num := num, den := den }
        else match m with
          | some m => { q with num := num, den := den, ma := m, fa := gearPos q m }
          | none => { q with num := num, den := den }
      let s := s.setFollower ep { f with map := some (move g) }
      s.modTrail ep (fun tr => { tr with
        queue := tr.queue.map (fun e => { e with gen := e.gen + 1, fol := e.fol.map move })
        lastSeg := tr.lastSeg.map (fun e => { e with fol := e.fol.map move }) })

/-- Slope of a cam table at the start of its cycle. -/
def camStartSlope (c : CamTable) : Rat := ((c.coefs.head?.map (·.1)).getD 0 : Rat) / pow2 48

/-- The velocity step of a new table at the start of the cycle exceeds gear_step_max (R400). -/
def State.camStepBad (s : State) (ep c : Nat) : Bool :=
  let f := s.getFollower ep
  match f.map, f.inUse s.time.ft16 with
  | some g, some p =>
    let member := f.state == .syncing || f.state == .coupled
    let vm := ofQ32 (pubAt p s.time.ft16).v
    member && g.map == 2 && decide (s.parF ep P.gearStepMax / s.unitOf ep <
      rabs ((camStartSlope (s.getCam c) - camStartSlope (s.getCam f.cam)) * vm))
  | _, _ => false

/-- A committed cam_table of a cam follower waits for the next cycle (R400). -/
def State.recam (s : State) (ep : Nat) : State :=
  let c := s.par ep P.camTable - 0x600
  s.modFollower ep (fun f =>
    if (f.map.map (·.map)) = some 2 ∧ f.cam ≠ c ∧ (f.state = .syncing ∨ f.state = .coupled) then { f with camNext := some c } else f)

/-! ### Publishing (R378 to R381, R406) -/

/-- The master of a publisher when it may publish in source 0: enabled and no follower itself. -/
def State.plannedMaster (s : State) (c : Nat) : Option Nat :=
  let p := s.getPublisher c
  let ep := s.par (epPub c) P.convMaster
  if p.registered.isSome && !p.ended && s.par (epPub c) P.convSource == 0 && (s.getFollower ep).state == .none_ then some ep else none

/-- The stop in progress of a master. -/
def State.masterStop (s : State) (ep : Nat) : Option StopRun :=
  if ep < 0x20 then (if (s.getLoop ep).state = .stopping then (s.getLoop ep).stop else none)
  else (s.getVirt (ep - 0x100)).stop

/-- A master's setpoint motion at an instant with its jerk (R378, R380). -/
def State.masterAt (s : State) (ep : Nat) (t : Ft16) : Motion × Q32 :=
  match s.masterStop ep with
  | some r => (r.at_ (s.stopJerkOf ep) (s.xtOfFt16 t), 0)
  | none =>
    let tr := s.getTrail ep
    match tr.pick t (fun g => g.fol.isNone) with
    | some g => (segAt g t, g.j0)
    | none => match tr.lastSeg with
      | some g => (segAt g t, g.j0)
      | none => ({ p := s.holdPoint ep }, 0)

/-- CONVOY_PUBLISH (R378). -/
def execConvoyPublish (cp : Fin 16) (s : State) : Out :=
  .next (
    let c := cp.val
    match s.plannedMaster c with
    | none => s
    | some ep =>
      let n := s.par (epPub c) P.convPeriodTicks
      let ph := s.par (epPub c) P.convPhaseTicks
      let lead := (unitsOfNs (s.parF (epPub c) P.convLead * 1000)).toNat
      let x := match (s.getPublisher c).lastGrid with
        | some g => max (gridAtOrAfter n ph (g + 1)) (gridAtOrAfter n ph s.xt16)
        | none => gridAtOrAfter n ph (s.xt16 + lead)
      if s.xt16 + tickUnits < x - lead then s
      else
        let t := ft16Of x
        let m := s.masterAt ep t
        let s := s.publish c { stopping := (s.masterStop ep).isSome } t m.1 m.2
        s.modPublisher c (fun p => { p with lastGrid := some x, boundaries := 0 }))

/-- CONVOY_BOUNDARY_PUBLISH (R379): a master segment begins at `tRef`; conv_lead before it. -/
def execConvoyBoundaryPublish (cp : Fin 16) (tRef : Ft16) (s : State) : Out :=
  .next (
    let c := cp.val
    match s.plannedMaster c with
    | none => s
    | some ep =>
      let x := s.xtOfFt16 tRef
      let begins := (s.getTrail ep).queue.any (fun g => g.tStart == tRef && g.fol.isNone)
      let onG := onGrid (s.par (epPub c) P.convPeriodTicks) (s.par (epPub c) P.convPhaseTicks) x
      let lead := (unitsOfNs (s.parF (epPub c) P.convLead * 1000)).toNat
      if !begins || onG || decide (s.xt16 + tickUnits < x - lead) || (s.getPublisher c).last.any (fun p => p.tRef == tRef) then s
      else if 3 ≤ (s.getPublisher c).boundaries then s.bump (epPub c) C.gearPubMerged
      else
        let m := s.masterAt ep tRef
        let s := s.publish c { boundary := true, stopping := (s.masterStop ep).isSome } tRef m.1 m.2
        s.modPublisher c (fun p => { p with boundaries := p.boundaries + 1 }))

/-- The instants at which a master's motion may depart from what was published: its stop takes effect, or a queued entry begins (R380). -/
def State.departures (s : State) (ep : Nat) : List Ft16 :=
  match s.masterStop ep with
  | some r => [ft16Of r.fromXt]
  | none => (((s.getTrail ep).queue ++ (s.getTrail ep).lastSeg.toList).filter (fun g => g.fol.isNone)).map (·.tStart)

/-- CONVOY_SUPERSEDE (R380): sent when the master's motion departs at `tRef` from the one last published. -/
def execConvoySupersede (cp : Fin 16) (tRef : Ft16) (s : State) : Out :=
  .next (
    let c := cp.val
    match s.plannedMaster c, (s.getPublisher c).last with
    | some ep, some l =>
      let m := s.masterAt ep tRef
      let was := pubAt l tRef
      if !(s.departures ep).contains tRef || (m.1.p == was.p && m.1.v == was.v && m.1.a == was.a) then s
      else s.publish c { supersede := true, stopping := (s.masterStop ep).isSome } tRef m.1 m.2
    | _, _ => s)

/-- Publications of a measured master after a position-grid sample (R381). -/
def State.publishMeasured (s : State) (i : Nat) (t : Ft16) (m : Motion) : State :=
  (s.publishersOf i).foldl (fun s c =>
    let p := s.getPublisher c
    let x := s.xtOfFt16 (ft16Of (s.getPwm i).updateXt)
    if p.ended || s.par (epPub c) P.convSource != 1 ||
        !onGrid (s.par (epPub c) P.convPeriodTicks) (s.par (epPub c) P.convPhaseTicks) x then s
    else s.publish c { measured := true, stopping := (s.masterStop i).isSome } t m 0) s

/-- CONVOY_REPUBLISH (R406). -/
def execConvoyRepublish (cp : Fin 16) (pub : Pub) (s : State) : Out :=
  .next (
    let c := cp.val
    let ep := s.par (epPub c) P.convMaster
    let f := s.getFollower ep
    match f.map with
    | none => s
    | some g =>
      if (s.getPublisher c).ended || f.convoy != some pub.convoy.toNat || g.map == 2 ||
          !(f.state == .syncing || f.state == .coupled) || !f.held.contains pub then s
      else
        let t := pub.tRef
        let e := (s.folEntry ep t 0).1.getD {}
        let o := segAt e t
        let m := pubAt pub t
        let r := f.reg
        let dt := secOf ((s.xtOfFt16 t : Int) - f.lastXt)
        let mo := mapped (e.fol.getD g) m o (ofQ32 r.o, ofQ32 r.v, 0) (stageFactor pub g.stage) f.sp.1 f.sp.2.1 dt 0 0 0 0
        let k : Rat := (g.num : Rat) / (g.den : Rat) * (if g.map = 1 then stageFactor pub g.stage else 1)
        let j := storeQ (k * pub.j0) + (if g.map = 1 then 0 else e.j0)
        s.publish c { supersede := pub.supersede, boundary := pub.boundary, measured := pub.measured
                      stopping := pub.stopping, endFlag := pub.endFlag } t mo j)

/-- CONVOY_REGISTER_TIMEOUT (R377): no answer within 10 ms; the commit that waits takes it (`registerFailed`). -/
def State.registerDue (s : State) (c : Nat) : Bool :=
  match (s.getPublisher c).registering with
  | some (_, t, _) => s.expired t (msTicks 10)
  | none => false

/-- CONVOY_FRAME_RX (R384). -/
def execConvoyFrameRx (f : FolEp) (pub : Pub) (s : State) : Out := .next (s.acceptPub (folEp f) pub)

/-- CONVOY_LOCAL_DELIVERY (R372): a publication this module sent reaches a follower of the module. -/
def execConvoyLocalDelivery (f : FolEp) (pub : Pub) (s : State) : Out :=
  .next (if s.fabric.sent.contains (0xFFFF, FabMsg.convoy pub) then s.acceptPub (folEp f) pub else s)

/-- MASTER_STALE (R388). -/
def execMasterStale (f : FolEp) (s : State) : Out :=
  .next (
    let ep := folEp f
    let st := (s.getFollower ep).state
    if (st == .waiting || st == .syncing || st == .coupled) && s.staleAt ep s.time.ft16 then
      s.decouple ep (s.decoupleCauses ep s.time.ft16)
    else s)

/-- A join that ends on a velocity outside join_vel_tol leaves no trace (membership table, R839). -/
def State.joinFails (s : State) (ep : Nat) (j : Join) (map : Nat) : State :=
  let s := (s.endJoin ep E.conflict []).freeFollower ep
  let s := s.modFollower ep (fun f => { f with lastSeq := j.was.2.2.1, cause := j.was.2.2.2 })
  if map = 2 then s else (s.setPar ep P.gearNum 0 j.was.1).setPar ep P.gearDen 0 j.was.2.1

/-- CONVOY_JOIN_INSTANT (R402, R403, membership table). -/
def execConvoyJoinInstant (fe : FolEp) (s : State) : Out :=
  .next (
    let ep := folEp fe
    let f := s.getFollower ep
    match f.state, f.join, f.map with
    | .waiting, some j, some g =>
      let t := match j.at_ with
        | some a => (a.zeroExtend 48 : Ft16) <<< 16
        | none => s.time.ft16
      match f.inUse t with
      | none => s
      | some p =>
        if 0 < ft16Diff t s.time.ft16 then s
        else
          let m := pubAt p t
          let tr := s.getTrail ep
          let here : Motion := match (tr.sample t).1 with
            | some x => x
            | none => { p := s.holdPoint ep }
          let tb := s.getCam f.cam
          let ny := camPos (camCycle tb).1 f.camOrigin m.p
          let piece := camPiece tb (camIndex tb ny.2)
          let part : FolPart := if g.map = 2 then piece
            else if j.absolute then { g with ma := j.ma, fa := j.fa } else { g with ma := m.p, fa := here.p }
          let fBase : Q32 := if g.map ≠ 2 then 0 else if j.absolute then j.fa
            else here.p - ny.1 * (camCycle tb).2 - toQ32 (pieceAt piece ny.2).1
          let mo := mapped part m {} (0, 0, 0) (stageFactor p g.stage) here.p here.v 0 fBase (camCycle tb).2 ny.1 ny.2
          let tol := s.parF ep P.joinVelTol / s.unitOf ep
          if j.dist = 0 ∧ tol < rabs (ofQ32 (mo.v - here.v)) then
            s.joinFails ep j g.map
          else
            let gen := (tr.usedGen.getD 0) + 1
            let hold : Seg := { tStart := t, hold := true, gen := gen, fol := some part }
            let q := if g.map = 2 then camEntries tb (camIndex tb ny.2) (decide (0 ≤ m.v)) t gen {} else [hold]
            let s := (s.closeTrail ep).modTrail ep (fun tr => { tr with queue := q })
            let s := if ep < 0x20 then s.modLoop ep (fun l => { l with holdAt := none }) else s
            let s := s.setFollower ep { f with
              state := .syncing, map := some { part with stage := g.stage }, fBase := fBase, cycle := ny.1
              sp := (here.p, here.v, 0), lastXt := s.xtOfFt16 t
              join := some { j with mj := m.p, pj := here.p, vj := here.v, tj := s.xtOfFt16 t, pos := decide (0 ≤ m.v) } }
            if j.dist = 0 then s.coupled ep p.seq else s
    | _, _, _ => s)

/-! ### Register correction (R407 to R410) -/

/-- The remainder of R407 by a floor. -/
def floorMod (x p : Rat) : Rat := if p = 0 then 0 else x - p * (x / p).floor

/-- REG_MARK (R407, R408): a mark that its capture channel delivered (R460). -/
def execRegMark (fe : FolEp) (stamp : Ft8) (s : State) : Out :=
  .next (
    let ep := folEp fe
    let f := s.getFollower ep
    if s.par ep P.regSource ≠ 1 ∨ !f.marks.contains stamp then s
    else
      let f := { f with marks := f.marks.erase stamp }
      let s := s.setFollower ep f
      let t : Ft16 := (stamp.zeroExtend 48) <<< 8
      let before := f.held.all (fun p => decide (ft16Diff t p.tRef < 0))
      let mk := ofQ32 (((f.inUse t).map (fun p => (pubAt p t).p)).getD 0)
      let pitch := s.parF ep P.regPitch
      let e := floorMod (mk - s.parF ep P.regPhase + pitch / 2) pitch - pitch / 2
      if s.parF ep P.regWindow < rabs e ∨ before = true ∨ f.state ≠ .coupled then
        (s.bump ep C.gearRegReject).log ep 0x0603 (q64 (toQ32 e) + dat 8 stamp.toNat)
      else
        let s := s.bump ep C.gearRegAccept
        if rabs e ≤ s.parF ep P.regDeadband then s
        else
          let c := camCycle (s.getCam f.cam)
          let r : Rat := match f.map with
            | some g => if g.map = 2 then (if c.1 = 0 then 0 else (c.2 : Rat) / c.1) else (g.num : Rat) / g.den
            | none => 0
          let lim := s.parF ep P.regLimit
          let d := ofQ32 f.reg.demand - s.parF ep P.regGain * e * r
          let d' := rclamp (-lim) lim d
          s.setFollower ep { f with reg := { f.reg with demand := toQ32 d', limited := decide (d' ≠ d) } })

/-! ### Virtual axes (R374, R375) -/

/-! ### Remote axes (R413, R414) -/

/-- The setpoint frame's bytes (R413's table). -/
def remoteBytes (seq : BitVec 16) (flags x : Nat) (m : Motion) : List Byte :=
  le2 1 ++ leBytes 2 seq.toNat ++ leBytes 4 flags ++ leBytes 8 (x / 2 ^ 16) ++ le8 m.p ++ le8 m.v ++ le8 m.a

/-- REMOTE_SETPOINT_SEND (R413): for the next grid instant whose lead has begun. -/
def execRemoteSetpointSend (na : Fin 128) (s : State) : Out :=
  .next (
    let i := na.val
    let ep := epRemote i
    let r := s.getRemote i
    let n := s.par ep P.remPeriodTicks
    let ph := s.par ep P.remPhaseTicks
    let lead := (unitsOfNs (s.parF ep P.remLead * 1000)).toNat
    let x := max (gridAtOrAfter n ph (r.lastXt + 1)) (gridAtOrAfter n ph s.xt16)
    if s.par ep P.remAddress = 0 ∨ s.xt16 + tickUnits < x - lead then s
    else
      let o := s.setpointAt ep (ft16Of x)
      let s := o.1
      let m := o.2.1
      let r := s.getRemote i
      let seq := r.seq + 1
      let flags := b2n (r.state == .enabling || r.state == .enabled) + 2 * b2n r.stopBit
      let s := s.modFollower ep (fun f => { f with sp := (m.p, m.v, m.a), lastXt := x })
      let s := s.setRemote i { r with seq := seq, sentSeqs := (seq :: r.sentSeqs).take 256, lastXt := x }
      let a := s.par ep P.remAddress
      if s.par ep P.remTransport = 2 then
        let msg := FabMsg.relay 0 false (BitVec.ofNat 32 (bits a 31 0)) (BitVec.ofNat 16 (bits a 47 32)) (remoteBytes seq flags x m)
        { s with fabric := { s.fabric with sent := (s.par ep P.remBridge, msg) :: s.fabric.sent } }
      else s.modRemote i (fun r => { r with frame := some (EthMsg.remote i seq flags x m.p m.v m.a) }))

/-- A remote axis faults: it leaves its convoy and is FAULTED (R414). -/
def State.remoteFault (s : State) (i : Nat) : State :=
  let ep := epRemote i
  let s := (s.modRemote i (fun r => { r with state := .faulted, enableTick := none })).modFollower ep
    (fun f => { f with sp := (f.sp.1, 0, 0) })
  let s := (s.leaveConvoy ep E.faultAxis [5, 1]).endDecouple ep
  s.complete ep opEnable E.faultAxis [5, 1]

/-- REMOTE_FEEDBACK_RX (R414). -/
def execRemoteFeedbackRx (na : Fin 128) (fb : RemFeedback) (s : State) : Out :=
  .next (
    let i := na.val
    let ep := epRemote i
    let r := s.getRemote i
    let bad := fb.length != 32 || fb.version != 1 || decide (fb.status.toNat % 256 ≥ 4) || decide (65536 ≤ fb.status.toNat) ||
      !r.sentSeqs.contains fb.seq || fb.source.toNat != s.par ep P.remAddress
    if bad then s.bump ep C.gearRemDrop
    else
      let s := s.setRemote i { r with feedback := some fb, fbTick := s.tick }
      if r.state = .enabling ∧ bitOf fb.status.toNat 0 then
        (s.modRemote i (fun r => { r with state := .enabled, enableTick := none })).complete ep opEnable E.ok
      else s)

/-- REMOTE_TIMEOUT (R414). -/
def execRemoteTimeout (na : Fin 128) (s : State) : Out :=
  .next (
    let i := na.val
    let ep := epRemote i
    let r := s.getRemote i
    if r.state ≠ .enabled ∨ s.expired r.fbTick (msTicks (s.parF ep P.remTimeout)) = false then s
    else
      let seq := (r.feedback.map (·.seq)).getD 0
      let s := s.log ep 0x0604 seq.toNat
      (s.modRemote i (fun r => { r with stopBit := true })).remoteFault i)

/-- REMOTE_ENABLE_TIMEOUT (R414). -/
def execRemoteEnableTimeout (na : Fin 128) (s : State) : Out :=
  .next (
    let i := na.val
    let r := s.getRemote i
    match r.state, r.enableTick with
    | .enabling, some t => if s.expired t (msTicks (s.parF (epRemote i) P.remEnableTimeout)) then s.remoteFault i else s
    | _, _ => s)

end Sys2Proof.Machine
end

