-- ==== Sys2Proof/Machine/Crypto.lean ====
section
/-! DEFINITION. Check codes and the cryptographic standards the spec names: CRC-32 (R833), CRC-16 (R139), CRC-8 (R623),
SHA-256 and HMAC (R503, R505), ECDSA on P-256 (R789). The standards' own definitions are PRESUMED (log entry 17). -/

namespace Sys2Proof.Machine

/-- One bit of a reflected CRC with polynomial `poly` (reflected). -/
def crcBitR (poly c : Nat) (bit : Bool) : Nat :=
  let fb := (c % 2 == 1) != bit
  let c' := c / 2
  if fb then Nat.xor c' poly else c'

/-- CRC-32 of R833: polynomial 0x04C1_1DB7, reflected (0xEDB8_8320), initial value all ones, result inverted. -/
def crc32 (l : List Byte) : Nat :=
  let c := l.foldl (fun c b =>
    (List.range 8).foldl (fun c i => crcBitR 0xEDB88320 c (bitOf b.toNat i)) c) 0xFFFFFFFF
  Nat.xor c 0xFFFFFFFF

/-- A most-significant-bit-first CRC of `w` bits over a list of bits. -/
def crcMsb (w poly init : Nat) (bs : List Bool) : Nat :=
  bs.foldl (fun c b =>
    let fb := bitOf c (w - 1) != b
    let c' := (c * 2) % 2 ^ w
    if fb then Nat.xor c' poly else c') init

/-- The bits of a byte, most significant first. -/
def byteBits (b : Byte) : List Bool := (List.range 8).reverse.map (fun i => bitOf b.toNat i)

/-! ### SHA-256 -/

/-- SHA-256 round constants. -/
def shaK : List (BitVec 32) := [
  0x428a2f98, 0x71374491, 0xb5c0fbcf, 0xe9b5dba5, 0x3956c25b, 0x59f111f1, 0x923f82a4, 0xab1c5ed5,
  0xd807aa98, 0x12835b01, 0x243185be, 0x550c7dc3, 0x72be5d74, 0x80deb1fe, 0x9bdc06a7, 0xc19bf174,
  0xe49b69c1, 0xefbe4786, 0x0fc19dc6, 0x240ca1cc, 0x2de92c6f, 0x4a7484aa, 0x5cb0a9dc, 0x76f988da,
  0x983e5152, 0xa831c66d, 0xb00327c8, 0xbf597fc7, 0xc6e00bf3, 0xd5a79147, 0x06ca6351, 0x14292967] ++ [
  0x27b70a85, 0x2e1b2138, 0x4d2c6dfc, 0x53380d13, 0x650a7354, 0x766a0abb, 0x81c2c92e, 0x92722c85,
  0xa2bfe8a1, 0xa81a664b, 0xc24b8b70, 0xc76c51a3, 0xd192e819, 0xd6990624, 0xf40e3585, 0x106aa070,
  0x19a4c116, 0x1e376c08, 0x2748774c, 0x34b0bcb5, 0x391c0cb3, 0x4ed8aa4a, 0x5b9cca4f, 0x682e6ff3,
  0x748f82ee, 0x78a5636f, 0x84c87814, 0x8cc70208, 0x90befffa, 0xa4506ceb, 0xbef9a3f7, 0xc67178f2]

/-- SHA-256 initial hash value. -/
def shaH0 : List (BitVec 32) :=
  [0x6a09e667, 0xbb67ae85, 0x3c6ef372, 0xa54ff53a, 0x510e527f, 0x9b05688c, 0x1f83d9ab, 0x5be0cd19]

/-- Big-endian value of a list of bytes. -/
def beVal (l : List Byte) : Nat := l.foldl (fun a b => a * 256 + b.toNat) 0

/-- `n` bytes of a value, big-endian. -/
def beBytes (n v : Nat) : List Byte := (leBytes n v).reverse

/-- Padding of a message of SHA-256. -/
def shaPad (m : List Byte) : List Byte :=
  m ++ [0x80#8] ++ List.replicate ((119 - m.length % 64) % 64) 0#8 ++ beBytes 8 (m.length * 8)

/-- The list cut in pieces of `n` elements; `fuel` bounds the number of pieces. -/
def chunks {α : Type} (n : Nat) : Nat → List α → List (List α)
  | 0, _ => []
  | fuel + 1, l => if l.isEmpty then [] else l.take n :: chunks n fuel (l.drop n)

/-- Message schedule, the last 16 words newest first, extended by `n` words. -/
def shaSched : Nat → List (BitVec 32) → List (BitVec 32)
  | 0, w => w
  | n + 1, w =>
    let g i := w.getD i 0
    let s0 := (g 14).rotateRight 7 ^^^ (g 14).rotateRight 18 ^^^ (g 14) >>> 3
    let s1 := (g 1).rotateRight 17 ^^^ (g 1).rotateRight 19 ^^^ (g 1) >>> 10
    shaSched n ((g 15 + s0 + g 6 + s1) :: w)

/-- One round. -/
def shaRound (h : List (BitVec 32)) (k w : BitVec 32) : List (BitVec 32) :=
  match h with
  | [a, b, c, d, e, f, g, hh] =>
    let t1 := hh + (e.rotateRight 6 ^^^ e.rotateRight 11 ^^^ e.rotateRight 25) + ((e &&& f) ^^^ (~~~e &&& g)) + k + w
    let t2 := (a.rotateRight 2 ^^^ a.rotateRight 13 ^^^ a.rotateRight 22) + ((a &&& b) ^^^ (a &&& c) ^^^ (b &&& c))
    [t1 + t2, a, b, c, d + t1, e, f, g]
  | l => l

/-- One block of 64 bytes. -/
def shaBlock (h : List (BitVec 32)) (blk : List Byte) : List (BitVec 32) :=
  let w16 := (chunks 4 16 blk).map (fun q => BitVec.ofNat 32 (beVal q))
  let w := (shaSched 48 w16.reverse).reverse
  let r := (shaK.zip w).foldl (fun a kw => shaRound a kw.1 kw.2) h
  List.zipWith (· + ·) h r

/-- SHA-256 of a list of bytes. -/
def sha256 (m : List Byte) : List Byte :=
  let p := shaPad m
  let h := (chunks 64 (p.length / 64) p).foldl shaBlock shaH0
  h.flatMap (fun w => beBytes 4 w.toNat)

/-- HMAC-SHA-256. -/
def hmac (key m : List Byte) : List Byte :=
  let k0 := if 64 < key.length then sha256 key else key
  let k := k0 ++ List.replicate (64 - k0.length) 0#8
  sha256 (k.map (· ^^^ 0x5c#8) ++ sha256 (k.map (· ^^^ 0x36#8) ++ m))

/-! ### ECDSA on P-256 -/

/-- The field prime of P-256. -/
def ecP : Nat := 0xffffffff00000001000000000000000000000000ffffffffffffffffffffffff
/-- The group order of P-256. -/
def ecN : Nat := 0xffffffff00000000ffffffffffffffffbce6faada7179e84f3b9cac2fc632551
/-- The base point of P-256. -/
def ecG : Nat × Nat := (0x6b17d1f2e12c4247f8bce6e563a440f277037d812deb33a0f4a13945d898c296,
  0x4fe342e2fe1a7f9b8ee7eb4a7c0f9e162bce33576b315ececbb6406837bf51f5)

/-- b^e mod m by squaring over `fuel` bits of the exponent. -/
def powMod (m b e : Nat) : Nat → Nat
  | 0 => 1 % m
  | fuel + 1 =>
    let h := powMod m (b * b % m) (e / 2) fuel
    if e % 2 = 1 then b * h % m else h

/-- Inverse modulo a prime. -/
def invMod (m a : Nat) : Nat := powMod m (a % m) (m - 2) 256

/-- Addition of affine points; `none` is the point at infinity. -/
def ecAdd (a b : Option (Nat × Nat)) : Option (Nat × Nat) :=
  match a, b with
  | none, q => q
  | p, none => p
  | some (x1, y1), some (x2, y2) =>
    if x1 = x2 ∧ (y1 + y2) % ecP = 0 then none
    else
      let l := if x1 = x2 then (3 * x1 * x1 + (ecP - 3)) * invMod ecP (2 * y1) % ecP
        else (y2 + ecP - y1) * invMod ecP (x2 + ecP - x1) % ecP
      let x3 := (l * l + 2 * ecP - x1 - x2) % ecP
      some (x3, (l * (x1 + ecP - x3) + ecP - y1) % ecP)

/-- Scalar multiple over `fuel` bits. -/
def ecMul (k : Nat) (p : Option (Nat × Nat)) : Nat → Option (Nat × Nat)
  | 0 => none
  | fuel + 1 =>
    let h := ecMul (k / 2) (ecAdd p p) fuel
    if k % 2 = 1 then ecAdd p h else h

/-- ECDSA verification of (r, s) over a hash with a public key. -/
def ecdsaVerify (key : Nat × Nat) (hash r s : Nat) : Bool :=
  if r = 0 ∨ ecN ≤ r ∨ s = 0 ∨ ecN ≤ s then false
  else
    let w := invMod ecN s
    match ecAdd (ecMul (hash * w % ecN) (some ecG) 256) (ecMul (r * w % ecN) (some key) 256) with
    | none => false
    | some (x, _) => x % ecN == r

end Sys2Proof.Machine
end

