-- ==== Sys2Proof/Machine/Engine.lean ====
section
/-! DEFINITION. The loop engines' operations, loops, branches, interrupts, bank bursts and memory faults (R167 to R201,
R209 to R213). A row of the table is one slot operation of a bundle; `eob` marks the bundle's last one. Results are staged
and written when the bundle ends (R175), where the cycle counter, the loops and the branch delay slot act. -/

namespace Sys2Proof.Machine

/-! ### Registers and memory (R167 to R171) -/

/-- Bytes of local memory (R167). -/
def leMemBytes : Nat := 0x40000

/-- A general register; X0 reads zero (R171). -/
def Engine.getX (e : Engine) (i : Nat) : BitVec 64 := if i = 0 then 0 else mget e.x i 0

/-- A general register written; X0 ignores writes (R171). -/
def Engine.setX (e : Engine) (i : Nat) (v : BitVec 64) : Engine :=
  if i = 0 ∨ 32 ≤ i then e else { e with x := mset e.x i v 0 }

/-- An accumulator. -/
def Engine.getAcc (e : Engine) (a : Nat) : Acc := mget e.acc a {}
/-- An accumulator written. -/
def Engine.setAcc (e : Engine) (a : Nat) (v : Acc) : Engine := { e with acc := mset e.acc a v {} }


/-- Bytes stored; the reserved top reads zero, so a store there leaves no trace (R167). -/
def Engine.store (e : Engine) (a : Nat) (bs : List Byte) : Engine :=
  if 0x38000 ≤ a then e else { e with mem := writeBytes e.mem a (bs.take (0x38000 - a)) }

/-- Loop level in force: bit L of loop_act. -/
def Engine.loopOn (e : Engine) (l : Nat) : Bool := bitOf e.esr.toNat l

/-- The registers of a loop level. -/
def Engine.level (e : Engine) (l : Nat) : LoopLevel := if l = 0 then e.loop0 else e.loop1

/-- The registers of a loop level written. -/
def Engine.setLevel (e : Engine) (l : Nat) (v : LoopLevel) : Engine :=
  if l = 0 then { e with loop0 := v } else { e with loop1 := v }

/-- A bit of LE_ESR set or cleared. -/
def Engine.esrBit (e : Engine) (i : Nat) (b : Bool) : Engine :=
  { e with esr := if b then e.esr ||| BitVec.ofNat 32 (2 ^ i) else e.esr &&& ~~~ BitVec.ofNat 32 (2 ^ i) }

/-- Index of the innermost active loop, 0 without one (R186). -/
def Engine.index (e : Engine) : BitVec 16 :=
  if e.loopOn 1 then e.loop1.lix else if e.loopOn 0 then e.loop0.lix else 0

/-- The value of a control register (R171). -/
def Engine.ctrlVal (e : Engine) : CtrlReg → BitVec 64
  | .esr => e.esr.zeroExtend 64
  | .epc => e.epc.zeroExtend 64
  | .link => e.link.zeroExtend 64
  | .lcnt0 => e.loop0.cnt.zeroExtend 64
  | .lcnt1 => e.loop1.cnt.zeroExtend 64
  | .lbeg0 => e.loop0.beg.zeroExtend 64
  | .lbeg1 => e.loop1.beg.zeroExtend 64
  | .lend0 => e.loop0.end_.zeroExtend 64
  | .lend1 => e.loop1.end_.zeroExtend 64
  | .lix0 => e.loop0.lix.zeroExtend 64
  | .lix1 => e.loop1.lix.zeroExtend 64
  | .midx => e.midx.zeroExtend 64
  | .nidx => e.nidx.zeroExtend 64
  | .cyc => e.cyc.zeroExtend 64

/-- The W1C bits of LE_ESR (R212). -/
def esrW1c : BitVec 32 := 0x0000FFC0

/-- A control register written: LE_ESR takes its RW bits and clears the W1C bits written 1; LE_CYC and LE_LINK are
read-only to hooks (R171, R212). -/
def Engine.setCtrl (e : Engine) (r : CtrlReg) (v : BitVec 64) : Engine :=
  let w := v.truncate 16
  let hook := e.hook.isSome
  match r with
  | .esr => { e with esr := (((e.esr &&& ~~~ 0xB) ||| (v.truncate 32 &&& 0xB)) &&& ~~~ (v.truncate 32 &&& esrW1c)) }
  | .epc => { e with epc := w }
  | .link => if hook then e else { e with link := w }
  | .lcnt0 => { e with loop0 := { e.loop0 with cnt := w } }
  | .lcnt1 => { e with loop1 := { e.loop1 with cnt := w } }
  | .lbeg0 => { e with loop0 := { e.loop0 with beg := w } }
  | .lbeg1 => { e with loop1 := { e.loop1 with beg := w } }
  | .lend0 => { e with loop0 := { e.loop0 with end_ := w } }
  | .lend1 => { e with loop1 := { e.loop1 with end_ := w } }
  | .lix0 => { e with loop0 := { e.loop0 with lix := w } }
  | .lix1 => { e with loop1 := { e.loop1 with lix := w } }
  | .midx => { e with midx := w }
  | .nidx => { e with nidx := w }
  | .cyc => if hook then e else { e with cyc := v.truncate 32 }

/-- One staged write takes effect. -/
def Engine.applyStaged (e : Engine) : Staged → Engine
  | .x d v => e.setX d v
  | .acc a v => e.setAcc a v
  | .mem a bs => e.store a bs
  | .midx v => { e with midx := v }
  | .nidx v => { e with nidx := v }
  | .esrOr m => { e with esr := e.esr ||| m }
  | .esrClear m => { e with esr := e.esr &&& ~~~ m }
  | .bld b => { e with bld := some b }.esrBit 5 true
  | .ctrl r v => e.setCtrl r v

/-- A staged write that clears W1C bits of LE_ESR: it takes effect before the bundle's other writes, so that a bit the engine sets
in the same cycle ends set (R20). -/
def Staged.clears : Staged → Bool
  | .esrClear _ => true
  | .ctrl .esr _ => true
  | _ => false

/-- The staged writes of a bundle take effect (R20, R175). -/
def Engine.applyAll (e : Engine) (l : List Staged) : Engine :=
  (l.filter Staged.clears ++ l.filter (fun w => !w.clears)).foldl Engine.applyStaged e

/-! ### Hook calls and hook faults (R198 to R201) -/

/-- Base of the axis slot of a servo axis. -/
def State.slotBase (s : State) (i : Nat) : Nat := 0x10000 + 0x8000 * (s.getFlags i).slot

/-- The axis in a slot of an engine. -/
def State.axisInSlot (s : State) (le slot : Nat) : Option Nat :=
  (List.range 32).find? (fun i => (s.getFlags i).engine == some le && (s.getFlags i).slot == slot)

/-- The buffer of a parameter page in use (R202): the complete one with the larger sequence word; without a complete one the first
(DESIGN CHOICE, log entry 87). -/
def pageInUse (seqs : SMap Nat) (point : Nat) : Nat :=
  if mget seqs (2 * point) 0 < mget seqs (2 * point + 1) 0 then 1 else 0

/-- The context of a hook call: the registers of R200. The return bundle lies in the library, whose addresses the spec does
not give: LE_LINK is a free value. So is what the library leaves in the hook's I/O block, whose layout is in no rule (R198; log
entries 4 and 71). -/
def State.enterHook (s : State) (le i point : Nat) (a : Attached) : State :=
  let k := mget s.host.kernels a.handle {}
  let base := s.slotBase i
  let io := base + 0xC00 + 256 * point
  let page := base + 0x3000 + 1024 * point + 512 * pageInUse (s.getFlags i).pageSeq point
  let args : List (Nat × Nat) := [(1, io), (2, page), (3, base + 0x4000), (4, 0x4000),
    (5, a.bankBase), (6, (s.updateFt8 i).toNat), (7, epServo i)]
  let link := BitVec.ofNat 16 s.fresh
  (s.modEngine le (fun e =>
    let e := args.foldl (fun (e : Engine) (p : Nat × Nat) => e.setX p.1 (BitVec.ofNat 64 p.2)) e
    let e := e.store io (leBytes 256 s.took.fresh)
    { e with
      link := link, pc := BitVec.ofNat 16 (a.first + k.entry), staged := [], flow := .seq, delay := none
      esr := (e.esr &&& ~~~ 0x3) ||| 0x8
      hook := some { axis := i, point := point, bankBase := a.bankBase, bankBytes := k.bankBytes,
                     first := BitVec.ofNat 16 a.first,
                     handler := k.handler.map (fun h => BitVec.ofNat 16 (a.first + h)) } })).took.took

/-! ### The axis computations of an engine (R47, R51, R56, R184, R198) -/

/-- The waiting computation with the earliest deadline, the lower axis number in a tie (R51). -/
def edfFirst (l : List (Nat × Nat × List (Nat × Attached))) : Option (Nat × Nat × List (Nat × Attached)) :=
  l.foldl (fun best a => match best with
    | none => some a
    | some b => if a.2.1 < b.2.1 ∨ (a.2.1 = b.2.1 ∧ a.1 < b.1) then some a else some b) none

/-- An engine without a computation in progress starts the waiting one that R51 names: sticky flags and wrap counts are cleared
(R184). -/
def State.startNext (s : State) (le : Nat) : State :=
  s.modEngine le (fun e => match edfFirst e.waiting with
    | none => e
    | some w => { e with
      esr := e.esr &&& ~~~ esrW1c
      acc := e.acc.filterMap (fun kv =>
        let v : Acc := { kv.2 with wrap := 0 }
        if v = {} then none else some (kv.1, v))
      cyc := 0, startTick := s.tick, committed := false, running := some w.1, hooksLeft := w.2.2, hook := none
      waiting := e.waiting.erase w })

/-- The state record of a completed computation enters its double buffer (R56). -/
def State.writeRecord (s : State) (i : Nat) : State :=
  let r : AxisRecord := {
    sample := (s.getFlags i).released, done := s.xt16, fb := s.getFb i, quad := s.getQuad i, serial := s.getSerial i
    loop := s.getLoop i, flags := s.getFlags i, foc := s.getFoc i
    sections := [0, 1, 2, 3, 4, 5, 6, 7].map (fun k => s.getSection (i * 8 + k)) }
  s.modRecord i (fun l => (r :: l).take 2)

/-- An engine between two hook calls goes on with its computation: it calls the next hook, waits for the duty commit, or completes
the computation and starts the next one (R51, R56, R198). A sample without duties has no commit to wait for (log entry 87). Each
round either ends or takes a waiting computation, of which `n` bounds the number. -/
def State.engineOn (le : Nat) : Nat → State → State
  | 0, s => s
  | n + 1, s =>
    let e := s.getEngine le
    match e.running with
    | none => s
    | some i =>
      let past := e.committed || (s.getFlags i).outDuties.isNone
      match e.hooksLeft with
      | [] =>
        if past then
          ((s.writeRecord i).modEngine le (fun e => { e with hook := none, running := none })).startNext le |>.engineOn le n
        else s.modEngine le (fun e => { e with hook := none })
      | (p, a) :: t =>
        if p = 3 ∧ past = false then s.modEngine le (fun e => { e with hook := none })
        else (s.modEngine le (fun e => { e with hooksLeft := t })).enterHook le i p a

/-- The engine goes on. -/
def State.proceed (s : State) (le : Nat) : State := s.engineOn le ((s.getEngine le).waiting.length + 1)

/-- A hook has returned, or the duties are committed. -/
def State.nextHook (s : State) (le : Nat) : State := s.proceed le

/-- The computation of an axis ends as under R47, in progress or waiting: LE_BUDGET_OVERRUN counts and no duties are committed for
the sample; the engine goes on with the next one. -/
def State.endComputation (s : State) (le i : Nat) : State :=
  let s := (s.modFlags i (fun f => { f with stopped := true, outDuties := none })).bump i C.leBudgetOverrun
  if (s.getEngine le).running = some i then
    ((s.modEngine le (fun e => { e with
      hook := none, hooksLeft := [], running := none, staged := [], flow := .seq, delay := none })).startNext le).proceed le
  else s.modEngine le (fun e => { e with waiting := e.waiting.filter (fun w => decide (w.1 ≠ i)) })

/-- An axis computation is in progress or waits on an engine. -/
def Engine.holds (e : Engine) (i : Nat) : Bool := e.running == some i || e.waiting.any (fun w => w.1 == i)

/-- The sample lies on the velocity grid (R215). -/
def State.onOuterGrid (s : State) (i : Nat) : Bool :=
  onGrid (s.par i P.velRatio * s.par i P.curPeriodTicks) (s.par i P.curPhaseTicks) (s.getPwm i).updateXt

/-- The hooks of the sample being released, in order: those attached, unless they are bypassed; HOOK_OUTER on the velocity grid only
(R198, R201). -/
def State.hooksOf (s : State) (i : Nat) : List (Nat × Attached) :=
  let f := s.getFlags i
  ([0, 1, 2, 3].map (fun p => (p, mget f.hooks p {}))).filter (fun x =>
    x.2.handle != 0 && !f.hooksBypassed && (x.1 != 1 || s.onOuterGrid i))

/-- A released computation joins those of its engine, which starts it at once when it is free (R51). -/
def State.queueComputation (s : State) (le i deadline : Nat) : State :=
  let w := (i, deadline, s.hooksOf i)
  let s := s.modEngine le (fun e => { e with waiting := e.waiting ++ [w] })
  if (s.getEngine le).running.isNone then (s.startNext le).proceed le else s

/-- A hook fault with its cause (R201, R251). -/
def State.hookFault (s : State) (le cause : Nat) : State :=
  let e := s.getEngine le
  match e.hook with
  | none => s
  | some h =>
    let i := h.axis
    let s := (s.endComputation le i).bump i C.leHookFault
    let s := s.log i 0x0401 (h.point + dat 1 cause + dat 2 e.pc.toNat)
    let s := s.modFlags i (fun f => { f with hooksBypassed := true })
    if s.par i P.hookFaultAction = 1 then s.axisFault i 3 else s

/-! ### Bundles -/

/-- What one slot operation does. -/
inductive OpRes where
  /-- results to be written when the bundle ends, and where the engine goes then -/
  | stage (l : List Staged) (f : Flow)
  /-- a hook fault with its cause -/
  | hookFault (cause : Nat)
  /-- the operation waits in its bundle (R175, R195) -/
  | wait
  /-- an address outside the local memory or the bank -/
  | outside

/-- LE_LCNT and LE_LIX after the last bundle of a body of level `l`, and whether the loop goes on (R189). -/
def Engine.loopBack (e : Engine) (l : Nat) : Engine × Bool :=
  let v := e.level l
  if 1 < v.cnt.toNat then (e.setLevel l { v with cnt := v.cnt - 1, lix := v.lix + 1 }, true)
  else (e.esrBit l false, false)

/-- The bundle after `e.pc` in sequence, with the hardware loops (R189, R190). -/
def Engine.advance (e : Engine) : Engine :=
  let inner := e.loopOn 1 && e.pc == e.loop1.end_
  let r1 := if inner then e.loopBack 1 else (e, false)
  if r1.2 then { r1.1 with pc := r1.1.loop1.beg }
  else
    let e := r1.1
    if e.loopOn 0 && e.pc == e.loop0.end_ then
      let r0 := e.loopBack 0
      if r0.2 then { r0.1 with pc := r0.1.loop0.beg } else { r0.1 with pc := r0.1.pc + 1 }
    else { e with pc := e.pc + 1 }

/-- LOOP takes effect (R188). -/
def Engine.beginLoop (e : Engine) (l : Nat) (count endB : BitVec 16) : Engine :=
  let b := e.pc + 1
  let e := e.setLevel l { cnt := count, beg := b, end_ := endB, lix := 0 }
  if count = 0 then { e.esrBit l false with pc := endB + 1 } else { e.esrBit l true with pc := b }

/-- The bundle ends: staged results are written, one cycle passes and the next bundle address forms (R175, R177, R189). The delay
slot of a taken branch executes whole, a LOOP or RETI in it too; then the branch takes effect. -/
def Engine.endBundle (e : Engine) : Engine :=
  let f := e.flow
  let e := e.applyAll e.staged
  let e := { e with staged := [], flow := .seq, cyc := e.cyc + 1 }
  match e.delay, f with
  | some t, .loop l c b => { e.beginLoop l c b with delay := none, pc := t }
  | some t, .reti => { (e.esrBit 3 true).esrBit 4 false with delay := none, pc := t }
  | some t, _ => { e with delay := none, pc := t }
  | none, .branch t => { e.advance with delay := some t }
  | none, .loop l c b => e.beginLoop l c b
  | none, .ret => { e with pc := e.link }
  | none, .reti => { (e.esrBit 3 true).esrBit 4 false with pc := e.epc }
  | none, .seq => e.advance

/-- An engine issues bundles: it is neither OFF nor HALTED (R212). -/
def Engine.issues (e : Engine) : Bool := e.state != .off && e.state != .halted

/-- A slot operation stages its results and where the engine goes; the bundle's last operation ends the bundle, and the end
of a hook's return calls the next hook (R175, R177, R200). -/
def State.stageOp (s : State) (le : Nat) (eob : Bool) (l : List Staged) (f : Flow) : State :=
  let e := s.getEngine le
  let e := { e with staged := e.staged ++ l, flow := if f = .seq then e.flow else f }
  if eob then
    let isRet := e.flow = .ret && e.delay.isNone && e.hook.isSome
    let s := s.setEngine le e.endBundle
    if isRet then s.nextHook le else s
  else s.setEngine le e

/-- A slot operation that waits: its bundle takes another cycle (R175, R195). -/
def State.waitOp (s : State) (le : Nat) : State :=
  let e := s.getEngine le
  s.setEngine le { e with cyc := e.cyc + 1 }

/-- A slot operation on engine `le`: nothing on an engine that issues no bundles. -/
def State.leOp (s : State) (le : Fin 16) (eob : Bool) (r : OpRes) : Out :=
  if !(s.getEngine le.val).issues then .next s
  else match r with
    | .outside => .fault .addressOutsideLocalMemory
    | .hookFault c => .next (s.hookFault le.val c)
    | .wait => .next (s.waitOp le.val)
    | .stage l f => .next (s.stageOp le.val eob l f)

/-- Results without a change of course. -/
def put (l : List Staged) : OpRes := .stage l .seq

/-! ### Memory faults (R209 to R211) -/

/-- An engine halts on an uncorrectable error in code or runtime data (R211): none of its computations commits any more. -/
def State.haltEngine (s : State) (le : Nat) : State :=
  let e := s.getEngine le
  let s := ((List.range 32).filter e.holds).foldl (fun s i => s.modFlags i (fun f => { f with outDuties := none })) s
  let s := s.modEngine le (fun e => { e with
    state := .halted, memFault := true, hook := none, hooksLeft := [], running := none, waiting := [], committed := false
    staged := [], flow := .seq, delay := none })
  (s.log (epEngine le) 0x0C03 1).supFault 0

/-- An uncorrectable error at a local address (R210, R211). -/
def State.memError (s : State) (le a : Nat) : State :=
  let s := s.bump (epEngine le) C.leEccUncorr
  if 0x10000 ≤ a ∧ a < 0x30000 then
    let slot := (a - 0x10000) / 0x8000
    let s := s.log (epEngine le) 0x0403 (a + dat 4 slot)
    match s.axisInSlot le slot with
    | some i => (if (s.getEngine le).holds i then s.endComputation le i else s).axisFault i 2
    | none => s
  else if a < 0x38000 then s.haltEngine le
  else s

/-- What ECC finds in a read of engine `le` (R209 to R211). -/
def State.eccFound (s : State) (le : Nat) : EccFind → State
  | .clean => s
  | .single _ => s.bump (epEngine le) C.leEccCorr
  | .double a => s.memError le a


/-! ### Multiply-accumulate (R179 to R183) -/

/-- An accumulator moved by an exact amount, with the wrap count of R182 and whether it wrapped. -/
def accAdd (a : Acc) (d : Int) : Acc × Bool :=
  let t := a.val + d
  let hi : Bool := decide (2 ^ 143 ≤ t)
  let lo : Bool := decide (t < -(2 ^ 143))
  ({ val := wrapInt 144 t, wrap := clampInt (-8) 7 (a.wrap + (if hi then 1 else 0) - (if lo then 1 else 0)) }, hi || lo)

/-- acc_ovf of accumulator `a`. -/
def ovfBit (a : Nat) (b : Bool) : List Staged := if b then [.esrOr (BitVec.ofNat 32 (2 ^ (12 + a)))] else []

/-- The accumulator as the bundle so far leaves it: a chain within MAC2 reads its own first sum. -/
def stageAcc (a : Nat) (r : Acc × Bool) : List Staged := .acc a r.1 :: ovfBit a r.2

/-- MAC (R179). -/
def execMac (le : Fin 16) (eob : Bool) (a : Fin 4) (m n : Fin 32) (s : State) : Out :=
  let e := s.getEngine le.val
  s.leOp le eob (put (stageAcc a.val (accAdd (e.getAcc a.val) ((e.getX m.val).toInt * (e.getX n.val).toInt))))

/-- MSU (R179). -/
def execMsu (le : Fin 16) (eob : Bool) (a : Fin 4) (m n : Fin 32) (s : State) : Out :=
  let e := s.getEngine le.val
  s.leOp le eob (put (stageAcc a.val (accAdd (e.getAcc a.val) (-((e.getX m.val).toInt * (e.getX n.val).toInt)))))

/-- MUL (R173): the product, wrap count 0. -/
def execMul (le : Fin 16) (eob : Bool) (a : Fin 4) (m n : Fin 32) (s : State) : Out :=
  let e := s.getEngine le.val
  s.leOp le eob (put [.acc a.val { val := (e.getX m.val).toInt * (e.getX n.val).toInt, wrap := 0 }])

/-- MAC2 (R173): two products; with one accumulator named twice both are added to it. -/
def execMac2 (le : Fin 16) (eob : Bool) (a : Fin 4) (m n : Fin 32) (b : Fin 4) (p q : Fin 32) (s : State) : Out :=
  let e := s.getEngine le.val
  let r1 := accAdd (e.getAcc a.val) ((e.getX m.val).toInt * (e.getX n.val).toInt)
  let r2 := accAdd (if b = a then r1.1 else e.getAcc b.val) ((e.getX p.val).toInt * (e.getX q.val).toInt)
  s.leOp le eob (put (stageAcc a.val r1 ++ stageAcc b.val r2))

/-- MACUS (R173): the first operand unsigned. -/
def execMacus (le : Fin 16) (eob : Bool) (a : Fin 4) (m n : Fin 32) (s : State) : Out :=
  let e := s.getEngine le.val
  s.leOp le eob (put (stageAcc a.val (accAdd (e.getAcc a.val) (((e.getX m.val).toNat : Int) * (e.getX n.val).toInt))))

/-- CLR (R181): 0, or half a unit of the bit that EXT will keep. -/
def execClr (le : Fin 16) (eob : Bool) (a : Fin 4) (sh : Fin 144) (s : State) : Out :=
  s.leOp le eob (put [.acc a.val { val := if sh.val = 0 then 0 else 2 ^ (sh.val - 1), wrap := 0 }])

/-- The extraction of R183 and whether it saturates. -/
def extVal (a : Acc) (sh : Nat) : Int × Bool :=
  if 0 < a.wrap then (2 ^ 63 - 1, true)
  else if a.wrap < 0 then (-(2 ^ 63), true)
  else
    let v := a.val / 2 ^ sh
    (satInt 64 v, decide (satInt 64 v ≠ v))

/-- EXT (R183). -/
def execExt (le : Fin 16) (eob : Bool) (d : Fin 32) (a : Fin 4) (sh : Fin 81) (s : State) : Out :=
  let r := extVal ((s.getEngine le.val).getAcc a.val) sh.val
  s.leOp le eob (put (.x d.val (BitVec.ofInt 64 r.1) ::
    (if r.2 then [.esrOr (BitVec.ofNat 32 (2 ^ (8 + a.val)))] else [])))

/-! ### Memory (R170, R173) -/

/-- The address Xb + imm. -/
def Engine.addr {w : Nat} (e : Engine) (b : Fin 32) (imm : BitVec w) : Nat := (e.getX b.val + imm.signExtend 64).toNat

/-- The mapping part of a follower entry as it lies in memory, 64 bytes (R390). -/
def folBytes (m : FolPart) : List Byte :=
  leBytes 1 m.map ++ leBytes 1 m.stage ++ leBytes 2 0 ++ le4 m.num ++ leBytes 4 m.den ++ leBytes 4 0 ++
  le8 m.ma ++ le8 m.fa ++ le8 m.c0 ++ le8 m.c1 ++ le8 m.c2 ++ le8 m.c3

/-- A segment queue entry as it lies in memory, 128 bytes (R331). -/
def segBytes (g : Seg) : List Byte :=
  leBytes 8 g.tStart.toNat ++ leBytes 8 g.tEnd.toNat ++ le8 g.p0 ++ le8 g.v0 ++ le8 g.a0 ++ le8 g.j0 ++
  leBytes 2 g.gen.toNat ++ leBytes 2 (b2n g.last + 2 * b2n g.hold + 4 * b2n g.ramp) ++ leBytes 4 g.move.toNat ++ leBytes 8 0 ++
  match g.fol with
  | some m => folBytes m
  | none => leBytes 64 0

/-- A byte of an axis slot at an offset, where the slot's area shows state that has its home elsewhere: the segment queue, entry by
entry in the order of the queue, and the coefficient sets (R54, R168, R226). -/
def State.slotByte (s : State) (le i a : Nat) (o : Nat) : Byte :=
  let unstated := BitVec.ofNat 8 (Config.localByte le a s.tick)
  if o < 0x800 then unstated
  else if o < 0xC00 then
    match (s.getTrail (epServo i)).queue[(o - 0x800) / 128]? with
    | some g => (segBytes g).getD (o % 128) 0
    | none => unstated
  else if 0x1000 ≤ o ∧ o < 0x3000 then
    let w := (o - 0x1000) / 128
    if o % 128 < 88 then BitVec.ofNat 8 (s.rawSet i (w / 8) (w % 8) / 256 ^ (o % 128)) else 0
  else (mget (s.getEngine le).mem a 0 : Byte)

/-- A byte of an engine's local memory as a load reads it (R167, R168). -/
def State.localByte (s : State) (le a : Nat) : Byte :=
  let kept : Byte := mget (s.getEngine le).mem a 0
  if 0x38000 ≤ a then 0
  else if a < 0xA000 ∨ 0x30000 ≤ a then BitVec.ofNat 8 (Config.localByte le a s.tick)
  else if a < 0x10000 then kept
  else match s.axisInSlot le ((a - 0x10000) / 0x8000) with
    | some i => s.slotByte le i a (a % 0x8000)
    | none => kept

/-- `n` bytes of local memory from address `a`. -/
def State.localBytes (s : State) (le a n : Nat) : List Byte := (List.range n).map (fun j => s.localByte le (a + j))

/-- A 64-bit word of local memory. -/
def State.load64 (s : State) (le a : Nat) : BitVec 64 := BitVec.ofNat 64 (leVal (s.localBytes le a 8))

/-- A load of `n` bytes at `a` that stages `l`, with what ECC finds in the word read (R209, R210). -/
def State.leLoad (s : State) (le : Fin 16) (eob : Bool) (a n : Nat) (ecc : ReadEcc) (l : List Staged) : Out :=
  if !(s.getEngine le.val).issues then .next s
  else if leMemBytes < a + n then .fault .addressOutsideLocalMemory
  else match ecc with
    | .clean => s.leOp le eob (put l)
    | .corrected => (s.bump (epEngine le.val) C.leEccCorr).leOp le eob (put l)
    | .uncorrectable => .next (s.memError le.val a)

/-- A store may land there while the hook runs (R170). -/
def State.hookMayStore (s : State) (h : HookCtx) (a n : Nat) : Bool :=
  let base := s.slotBase h.axis
  let io := base + 0xC00 + 256 * h.point
  (decide (io ≤ a) && decide (a + n ≤ io + 256)) || (decide (base + 0x4000 ≤ a) && decide (a + n ≤ base + 0x8000))

/-- A store of bytes at `a`: suppressed as a hook fault outside the hook's areas (R170). -/
def State.storeAt (s : State) (e : Engine) (a : Nat) (bs : List Byte) : OpRes :=
  match e.hook with
  | some h => if s.hookMayStore h a bs.length then put [.mem a bs] else .hookFault 1
  | none => if a + bs.length ≤ leMemBytes then put [.mem a bs] else .outside

/-- LD. -/
def execLd (le : Fin 16) (eob : Bool) (d b : Fin 32) (off : LoadOff 14) (s : State) : Out :=
  let a := (s.getEngine le.val).addr b off.imm
  s.leLoad le eob a 8 off.ecc [.x d.val (s.load64 le.val a)]

/-- LDQ: 128 bits into X2d and X2d+1. -/
def execLdq (le : Fin 16) (eob : Bool) (d : Fin 16) (b : Fin 32) (off : LoadOff 14) (s : State) : Out :=
  let a := (s.getEngine le.val).addr b off.imm
  s.leLoad le eob a 16 off.ecc [.x (2 * d.val) (s.load64 le.val a), .x (2 * d.val + 1) (s.load64 le.val (a + 8))]

/-- ST (R170). -/
def execSt (le : Fin 16) (eob : Bool) (src b : Fin 32) (imm : BitVec 14) (s : State) : Out :=
  let e := s.getEngine le.val
  s.leOp le eob (s.storeAt e (e.addr b imm) (leBytes 8 (e.getX src.val).toNat))

/-- STQ: 128 bits from Xs and Xs+1. -/
def execStq (le : Fin 16) (eob : Bool) (src b : Fin 32) (imm : BitVec 14) (s : State) : Out :=
  let e := s.getEngine le.val
  s.leOp le eob (s.storeAt e (e.addr b imm)
    (leBytes 8 (e.getX src.val).toNat ++ leBytes 8 (e.getX (src.val + 1)).toNat))

/-- ACCLD: 24 bytes into an accumulator and its wrap count. -/
def execAccld (le : Fin 16) (eob : Bool) (a : Fin 4) (b : Fin 32) (off : LoadOff 17) (s : State) : Out :=
  let p := (s.getEngine le.val).addr b off.imm
  let v := leVal (s.localBytes le.val p 24)
  s.leLoad le eob p 24 off.ecc [.acc a.val { val := signedOf 144 v, wrap := signedOf 4 (v / 2 ^ 188) }]

/-- ACCST: the accumulator sign-extended to 184 bits, its wrap count in bits [191:188]; bits [187:184], which no rule
states, are a free value. -/
def execAccst (le : Fin 16) (eob : Bool) (a : Fin 4) (b : Fin 32) (imm : BitVec 17) (s : State) : Out :=
  let e := s.getEngine le.val
  let v := e.getAcc a.val
  let w := lowBits 184 v.val + (s.fresh % 16) * 2 ^ 184 + lowBits 4 v.wrap * 2 ^ 188
  s.took.leOp le eob (s.storeAt e (e.addr b imm) (leBytes 24 w))

/-! ### Bank bursts (R194 to R197) -/

/-- Bytes of the coefficient bank. -/
def bankBytes : Nat := 0x800000

/-- BLD (R194, R195) of n + 1 words: in a hook the bank words lie in the kernel's region and the local words where the hook may store
(R170), else it is a hook fault. -/
def execBld (le : Fin 16) (eob : Bool) (l b : Fin 32) (n : Fin 8) (s : State) : Out :=
  let e := s.getEngine le.val
  let dst := (e.getX l.val).toNat
  let src := (e.getX b.val).toNat
  let k := n.val + 1
  let burst : OpRes := if dst + 8 * k ≤ leMemBytes then put [.bld { dst := dst, bank := src, n := k }] else .outside
  s.leOp le eob (
    if e.bld.isSome then .wait
    else match e.hook with
      | some h =>
        if !(decide (h.bankBase ≤ src) && decide (src + 8 * k ≤ h.bankBase + h.bankBytes)) then .hookFault 2
        else if !s.hookMayStore h dst (8 * k) then .hookFault 1
        else burst
      | none => burst)

/-- Code of a bus error's cause in LE_BANK_ERROR (R563). -/
def busErrCode : BusErrCause → Nat
  | .eccUncorrectable => 1
  | .overhold => 2
  | .region => 3

/-- The outstanding burst of an engine ends, whole or with a bus error after some words (R194, R196, R197). -/
def State.endBurst (s : State) (le : Nat) (err : Option (Nat × BusErrCause)) : State :=
  let e := s.getEngine le
  match e.bld with
  | none => s
  | some b =>
    let n := match err with
      | some (k, _) => min k b.n
      | none => b.n
    let e := e.store b.dst (readBytes s.bank b.bank (8 * n))
    let e := { e.esrBit 5 false with bld := none, bldDone := true }
    match err with
    | none => s.setEngine le e
    | some (_, c) =>
      let s := (s.setEngine le (e.esrBit 6 true)).bump (epEngine le) C.leBankErr
      s.log (epEngine le) 0x0402 (b.bank + dat 4 (busErrCode c))

/-- BLD_DONE (R194, R196, R197): the burst ends in the engine's grant of the bank arbiter, which ends with it; a burst beyond the
bank's end transfers nothing. -/
def execBldDone (le : Fin 16) (err : Option (Nat × BusErrCause)) (s : State) : Out :=
  .next (
    if (s.getArb 0).holder ≠ le.val + 1 then s
    else
      let past := (s.getEngine le.val).bld.any (fun b => decide (bankBytes < b.bank + 8 * b.n))
      (s.modArb 0 (fun a => { a with holder := 0, cuts := mdel a.cuts le.val })).endBurst le.val
        (if past then some (0, .region) else err))

/-! ### Integer operations (R173, R180) -/

/-- A two-operand integer operation. -/
def State.leAlu (s : State) (le : Fin 16) (eob : Bool) (d m n : Fin 32) (f : BitVec 64 → BitVec 64 → BitVec 64) : Out :=
  let e := s.getEngine le.val
  s.leOp le eob (put [.x d.val (f (e.getX m.val) (e.getX n.val))])

/-- ADD. -/
def execLeAdd (le : Fin 16) (eob : Bool) (d m n : Fin 32) (s : State) : Out := s.leAlu le eob d m n (· + ·)
/-- SUB. -/
def execLeSub (le : Fin 16) (eob : Bool) (d m n : Fin 32) (s : State) : Out := s.leAlu le eob d m n (· - ·)
/-- ADDI. -/
def execLeAddi (le : Fin 16) (eob : Bool) (d m : Fin 32) (imm : BitVec 14) (s : State) : Out :=
  s.leAlu le eob d m m (fun a _ => a + imm.signExtend 64)
/-- AND. -/
def execLeAnd (le : Fin 16) (eob : Bool) (d m n : Fin 32) (s : State) : Out := s.leAlu le eob d m n (· &&& ·)
/-- OR. -/
def execLeOr (le : Fin 16) (eob : Bool) (d m n : Fin 32) (s : State) : Out := s.leAlu le eob d m n (· ||| ·)
/-- XOR. -/
def execLeXor (le : Fin 16) (eob : Bool) (d m n : Fin 32) (s : State) : Out := s.leAlu le eob d m n (· ^^^ ·)

/-- A shift: an amount of 64 or more, for which no rule states a result, gives a free value. -/
def State.leShift (s : State) (le : Fin 16) (eob : Bool) (d m n : Fin 32) (f : BitVec 64 → Nat → BitVec 64) : Out :=
  let free := BitVec.ofNat 64 s.fresh
  s.took.leAlu le eob d m n (fun a b => if b.toNat < 64 then f a b.toNat else free)

/-- SHL. -/
def execLeShl (le : Fin 16) (eob : Bool) (d m n : Fin 32) (s : State) : Out := s.leShift le eob d m n (fun a k => a <<< k)
/-- SHR. -/
def execLeShr (le : Fin 16) (eob : Bool) (d m n : Fin 32) (s : State) : Out := s.leShift le eob d m n (fun a k => a >>> k)
/-- SRA (R180). -/
def execLeSra (le : Fin 16) (eob : Bool) (d m n : Fin 32) (s : State) : Out :=
  s.leShift le eob d m n (fun a k => a.sshiftRight k)

/-- LI. -/
def execLeLi (le : Fin 16) (eob : Bool) (d : Fin 32) (imm : BitVec 19) (s : State) : Out :=
  s.leOp le eob (put [.x d.val (imm.signExtend 64)])

/-- LUI: the spec does not state where the upper immediate goes; the result is a free value (log entry 24). -/
def execLeLui (le : Fin 16) (eob : Bool) (d : Fin 32) (_imm : BitVec 19) (s : State) : Out :=
  s.took.leOp le eob (put [.x d.val (BitVec.ofNat 64 s.fresh)])

/-- CMP: the spec does not state the form of the result; it is a free value (log entry 24). -/
def execLeCmp (le : Fin 16) (eob : Bool) (d _m _n : Fin 32) (s : State) : Out :=
  s.took.leOp le eob (put [.x d.val (BitVec.ofNat 64 s.fresh)])

/-- SATW (R180): saturation to a signed width of 1 to 64 bits; width 0 gives a free value. -/
def execSatw (le : Fin 16) (eob : Bool) (d m : Fin 32) (width : Fin 65) (s : State) : Out :=
  let free := BitVec.ofNat 64 s.fresh
  s.took.leAlu le eob d m m (fun a _ => if width.val = 0 then free else BitVec.ofInt 64 (satInt width.val a.toInt))

/-- MAXI (R186). -/
def execMaxi (le : Fin 16) (eob : Bool) (d src : Fin 32) (s : State) : Out :=
  let e := s.getEngine le.val
  s.leOp le eob (put (if (e.getX d.val).toInt < (e.getX src.val).toInt
    then [.x d.val (e.getX src.val), .midx e.index] else []))

/-- MINI (R186). -/
def execMini (le : Fin 16) (eob : Bool) (d src : Fin 32) (s : State) : Out :=
  let e := s.getEngine le.val
  s.leOp le eob (put (if (e.getX src.val).toInt < (e.getX d.val).toInt
    then [.x d.val (e.getX src.val), .nidx e.index] else []))

/-- A seed of 16 bits: the value's 16 leading bits, those below dropped by truncation toward minus infinity, saturated to 64 bits
(R173, R180; log entry 24). -/
def seed16 (v : Int) : BitVec 64 :=
  let k := Nat.log2 v.natAbs - 15
  BitVec.ofInt 64 (satInt 64 (v / 2 ^ k * 2 ^ k))

/-- The integer square root, by its bits from bit `n - 1` down. -/
def isqrt (v : Nat) : Nat → Nat → Nat
  | 0, r => r
  | n + 1, r => isqrt v n (if (r + 2 ^ n) ^ 2 ≤ v then r + 2 ^ n else r)

/-- A seed operation: the positive extreme with rcp_zero where the operand has no result (R212), else the seed. -/
def State.leSeed (s : State) (le : Fin 16) (eob : Bool) (d : Fin 32) (v : Option Int) : Out :=
  s.leOp le eob (put (match v with
    | none => [.x d.val 0x7FFFFFFFFFFFFFFF, .esrOr 0x80]
    | some v => [.x d.val (seed16 v)]))

/-- RCP: 1/x in Q32.32. -/
def execRcp (le : Fin 16) (eob : Bool) (d src : Fin 32) (s : State) : Out :=
  let x := ((s.getEngine le.val).getX src.val).toInt
  s.leSeed le eob d (if x = 0 then none else some (Int.fdiv (2 ^ 64) x))

/-- RSQ: 1/√x in Q32.32. -/
def execRsq (le : Fin 16) (eob : Bool) (d src : Fin 32) (s : State) : Out :=
  let x := ((s.getEngine le.val).getX src.val).toInt
  s.leSeed le eob d (if x ≤ 0 then none else some (isqrt (2 ^ 96 / x.toNat) 49 0 : Nat))

/-! ### Control flow (R177, R178, R187 to R191, R200) -/

/-- The bundle lies among the last two bundles of an active body (R191, R192). -/
def Engine.nearLoopEnd (e : Engine) : Bool :=
  [0, 1].any (fun l => e.loopOn l && (e.pc == (e.level l).end_ || e.pc + 1 == (e.level l).end_))

/-- LOOP (R188, R191, R201). -/
def execLeLoop (le : Fin 16) (eob : Bool) (level : Fin 2) (count : LoopCount) (endOff : Fin 65536) (s : State) : Out :=
  let e := s.getEngine le.val
  let c : BitVec 16 := match count with
    | .imm n => BitVec.ofNat 16 n.val
    | .reg x _ => (e.getX x.val).truncate 16
  let above := match count with
    | .imm _ => false
    | .reg _ b => decide (b.val < c.toNat)
  let bad := e.loopOn level.val || (level.val == 1 && !e.loopOn 0) || above || e.nearLoopEnd
  s.leOp le eob (if bad then .hookFault 3 else .stage [] (.loop level.val c (e.pc + BitVec.ofNat 16 endOff.val)))

/-- A branch of the bundle at pc, taken when `b` holds (R177, R178). -/
def State.leBranch (s : State) (le : Fin 16) (eob b : Bool) (off : BitVec 14) : Out :=
  s.leOp le eob (.stage [] (if b then .branch ((s.getEngine le.val).pc + off.signExtend 16) else .seq))

/-- BR. -/
def execBr (le : Fin 16) (eob : Bool) (off : BitVec 14) (s : State) : Out := s.leBranch le eob true off
/-- BZ. -/
def execBz (le : Fin 16) (eob : Bool) (src : Fin 32) (off : BitVec 14) (s : State) : Out :=
  s.leBranch le eob ((s.getEngine le.val).getX src.val == 0) off
/-- BNZ. -/
def execBnz (le : Fin 16) (eob : Bool) (src : Fin 32) (off : BitVec 14) (s : State) : Out :=
  s.leBranch le eob ((s.getEngine le.val).getX src.val != 0) off
/-- BLT. -/
def execBlt (le : Fin 16) (eob : Bool) (src t : Fin 32) (off : BitVec 14) (s : State) : Out :=
  let e := s.getEngine le.val
  s.leBranch le eob (decide ((e.getX src.val).toInt < (e.getX t.val).toInt)) off

/-- RET (R200, R201): out of a hook, a hook fault with a loop level active; outside one the bundle at LE_LINK is next. -/
def execRet (le : Fin 16) (eob : Bool) (s : State) : Out :=
  let e := s.getEngine le.val
  s.leOp le eob (if e.hook.isSome && (e.loopOn 0 || e.loopOn 1) then .hookFault 4 else .stage [] .ret)

/-- RETI (R193). -/
def execReti (le : Fin 16) (eob : Bool) (s : State) : Out := s.leOp le eob (.stage [] .reti)

/-- WAITB (R175). -/
def execWaitb (le : Fin 16) (eob : Bool) (s : State) : Out :=
  s.leOp le eob (if (s.getEngine le.val).bld.isSome then .wait else put [])

/-- MFC (R171). -/
def execMfc (le : Fin 16) (eob : Bool) (d : Fin 32) (reg : CtrlReg) (s : State) : Out :=
  s.leOp le eob (put [.x d.val ((s.getEngine le.val).ctrlVal reg)])

/-- MTC (R171). -/
def execMtc (le : Fin 16) (eob : Bool) (reg : CtrlReg) (src : Fin 32) (s : State) : Out :=
  s.leOp le eob (put [.ctrl reg ((s.getEngine le.val).getX src.val)])

/-- CLRF (R212). -/
def execClrf (le : Fin 16) (eob : Bool) (mask : BitVec 24) (s : State) : Out :=
  s.leOp le eob (put [.esrClear (mask.zeroExtend 32 &&& esrW1c)])

/-- NOP. -/
def execNop (le : Fin 16) (eob : Bool) (s : State) : Out := s.leOp le eob (put [])

/-! ### Interrupts (R192, R193) -/

/-- SVC_REQUEST (R192). -/
def execSvcRequest (le : Fin 16) (s : State) : Out :=
  .next (s.modEngine le.val (fun e => { e with svcPending := true }))

/-- INTERRUPT_ENTRY (R192, R193): at a bundle boundary outside a handler, a delay slot and the last two bundles of a body.
SVC comes first; its handler lies in the runtime, whose addresses the spec does not give: a free value. -/
def execInterruptEntry (le : Fin 16) (s : State) : Out :=
  .next (
    let e := s.getEngine le.val
    let handler := e.hook.bind (fun h => h.handler)
    let ready := e.issues && bitOf e.esr.toNat 3 && !bitOf e.esr.toNat 4 && e.delay.isNone && e.staged.isEmpty
      && !e.nearLoopEnd
    let enter (e : Engine) (pc : BitVec 16) : Engine :=
      { (e.esrBit 3 false).esrBit 4 true with epc := e.pc, pc := pc, cyc := e.cyc + 4 }
    if !ready then s
    else if e.svcPending then (s.setEngine le.val (enter { e with svcPending := false } (BitVec.ofNat 16 s.fresh))).took
    else match e.bldDone, handler with
      | true, some h => s.setEngine le.val (enter { e with bldDone := false } h)
      | _, _ => s)

/-! ### The scrub port (R209 to R211) -/

/-- ECC_SCRUB (R209 to R211). -/
def execEccScrub (le : Fin 16) (find : EccFind) (s : State) : Out :=
  .next (s.eccFound le.val find)

end Sys2Proof.Machine
end

