-- ==== Sys2Proof/Machine/Kernel.lean ====
section
/-! DEFINITION. Hook kernels and the placement of axes on engines: the image checks of KERNEL_LOAD (R204 to R208), declared
cycles (R203), and the acceptance of a placement (R50 to R53, R169, R837). -/

namespace Sys2Proof.Machine

/-! ### Slot words (R173, R178) -/

/-- Opcode of a slot word. -/
def swOp (w : Nat) : Nat := bits w 31 24

/-- Slot word `k` of a bundle: 0 A, 1 D0, 2 D1, 3 M (R172). -/
def slotWord (b : BitVec 128) (k : Nat) : Nat := bits b.toNat (32 * k + 31) (32 * k)

/-- The bundle carries LOOP in its A slot. -/
def isLoop (b : BitVec 128) : Bool := swOp (slotWord b 0) == 0x38

/-- The A word is a branch. -/
def isBranch (b : BitVec 128) : Bool := decide (0x39 ≤ swOp (slotWord b 0)) && decide (swOp (slotWord b 0) ≤ 0x3C)

/-- The A word is RET or RETI. -/
def isRet (b : BitVec 128) : Bool := swOp (slotWord b 0) == 0x3D || swOp (slotWord b 0) == 0x3E

/-- Branch offset, signed 14 bits. -/
def branchOff (b : BitVec 128) : Int := signedOf 14 (bits (slotWord b 0) 13 0)

/-- Level, whether the count is a register, count or bound, and end offset of a LOOP bundle (R178). -/
def loopFields (b : BitVec 128) : Nat × Bool × Nat × Nat :=
  let a := slotWord b 0
  (bits a 22 22, bitOf a 23, bits a 15 0, bits (slotWord b 1) 15 0)

/-- Control registers in the order of R171's table. -/
def ctrlRegs : List CtrlReg :=
  [.esr, .epc, .link, .lcnt0, .lcnt1, .lbeg0, .lbeg1, .lend0, .lend1, .lix0, .lix1, .midx, .nidx, .cyc]

/-- Register field of a slot word: operand 0 lies in bits [23:19], operand 1 in [18:14], operand 2 in [13:9] (R173). -/
def xField (w k : Nat) : Fin 32 := Fin.ofNat 32 (bits w (23 - 5 * k) (19 - 5 * k))

/-- Register field of five bits whose highest bit is `hi`. -/
def xAt (w hi : Nat) : Fin 32 := Fin.ofNat 32 (bits w hi (hi - 4))

/-- Accumulator field, bits [23:22]. -/
def accField (w : Nat) : Fin 4 := Fin.ofNat 4 (bits w 23 22)

/-- The command that a slot word spells on engine `le` (R172, R173, R178): slot 0 A, 1 D0, 2 D1, 3 M; `ext` is the D0 word of the
bundle, which extends LOOP. None where the word is no defined operation of its slot. -/
def slotOp (le : Fin 16) (eob : Bool) (slot w ext : Nat) : Option Instr :=
  let x0 := xField w 0
  let x1 := xField w 1
  let x2 := xField w 2
  let a := accField w
  let imm14 := BitVec.ofNat 14 w
  let imm17 := BitVec.ofNat 17 w
  let ok (b : Bool) (i : Instr) : Option Instr := if b then some i else none
  let reg (k : Nat) (f : CtrlReg → Instr) : Option Instr := ctrlRegs[Config.ctrlNo k]?.map f
  match slot, swOp w with
  | _, 0x00 => some (.nop le eob)
  | 3, 0x01 => some (.mac le eob a (xAt w 21) (xAt w 16))
  | 3, 0x02 => some (.msu le eob a (xAt w 21) (xAt w 16))
  | 3, 0x03 => some (.mul le eob a (xAt w 21) (xAt w 16))
  | 3, 0x04 => some (.mac2 le eob a (xAt w 21) (xAt w 16) (Fin.ofNat 4 (bits w 11 10)) (xAt w 9) (xAt w 4))
  | 3, 0x05 => some (.macus le eob a (xAt w 21) (xAt w 16))
  | 3, 0x06 => ok (decide (bits w 21 0 < 144)) (.clr le eob a (Fin.ofNat 144 (bits w 21 0)))
  | 1, 0x10 => some (.ld le eob x0 x1 { imm := imm14 })
  | 2, 0x10 => some (.ld le eob x0 x1 { imm := imm14 })
  | 1, 0x11 => ok (x0.val % 2 == 0) (.ldq le eob (Fin.ofNat 16 (x0.val / 2)) x1 { imm := imm14 })
  | 2, 0x11 => ok (x0.val % 2 == 0) (.ldq le eob (Fin.ofNat 16 (x0.val / 2)) x1 { imm := imm14 })
  | 2, 0x12 => some (.st le eob x0 x1 imm14)
  | 2, 0x13 => some (.stq le eob x0 x1 imm14)
  | 1, 0x14 => some (.accld le eob a (xAt w 21) { imm := imm17 })
  | 1, 0x15 => some (.accst le eob a (xAt w 21) imm17)
  | 1, 0x16 => ok (decide (1 ≤ bits w 13 0) && decide (bits w 13 0 ≤ 8)) (.bld le eob x0 x1 (Fin.ofNat 8 (bits w 13 0 - 1)))
  | 0, 0x20 => some (.leAdd le eob x0 x1 x2)
  | 0, 0x21 => some (.leSub le eob x0 x1 x2)
  | 0, 0x22 => some (.leAddi le eob x0 x1 imm14)
  | 0, 0x23 => some (.leAnd le eob x0 x1 x2)
  | 0, 0x24 => some (.leOr le eob x0 x1 x2)
  | 0, 0x25 => some (.leXor le eob x0 x1 x2)
  | 0, 0x26 => some (.leShl le eob x0 x1 x2)
  | 0, 0x27 => some (.leShr le eob x0 x1 x2)
  | 0, 0x28 => some (.leSra le eob x0 x1 x2)
  | 0, 0x29 => some (.leLi le eob x0 (BitVec.ofNat 19 w))
  | 0, 0x2A => some (.leLui le eob x0 (BitVec.ofNat 19 w))
  | 0, 0x2B => some (.leCmp le eob x0 x1 x2)
  | 0, 0x2C => ok (decide (1 ≤ bits w 13 0) && decide (bits w 13 0 ≤ 64)) (.satw le eob x0 x1 (Fin.ofNat 65 (bits w 13 0)))
  | 0, 0x30 => ok (decide (bits w 16 0 ≤ 80)) (.ext le eob x0 (Fin.ofNat 4 (bits w 18 17)) (Fin.ofNat 81 (bits w 16 0)))
  | 0, 0x31 => some (.maxi le eob x0 x1)
  | 0, 0x32 => some (.mini le eob x0 x1)
  | 0, 0x33 => some (.rcp le eob x0 x1)
  | 0, 0x34 => some (.rsq le eob x0 x1)
  | 0, 0x38 =>
    let byReg := bitOf w 23
    let n : Fin 65536 := Fin.ofNat 65536 (bits w 15 0)
    ok (bits w 21 16 == 0 && swOp ext == 0x38 && bits ext 18 16 == 0 && (byReg || bits ext 23 19 == 0) && bits ext 15 0 != 0)
      (.leLoop le eob (Fin.ofNat 2 (bits w 22 22)) (if byReg then .reg (xField ext 0) n else .imm n) (Fin.ofNat 65536 (bits ext 15 0)))
  | 0, 0x39 => ok (bits w 23 14 == 0) (.br le eob imm14)
  | 0, 0x3A => ok (bits w 18 14 == 0) (.bz le eob x0 imm14)
  | 0, 0x3B => ok (bits w 18 14 == 0) (.bnz le eob x0 imm14)
  | 0, 0x3C => some (.blt le eob x0 x1 imm14)
  | 0, 0x3D => some (.ret le eob)
  | 0, 0x3E => some (.reti le eob)
  | 0, 0x3F => some (.waitb le eob)
  | 0, 0x40 => reg (bits w 18 14) (.mfc le eob x0)
  | 0, 0x41 => reg (bits w 23 19) (fun r => .mtc le eob r x1)
  | 0, 0x42 => some (.clrf le eob (BitVec.ofNat 24 w))
  | _, _ => none

/-- The four slot words are defined operations of their slots; a LOOP bundle carries its extension in D0, and an operation that uses
D1 too leaves D1 empty (R173, R178). -/
def slotsDefined (b : BitVec 128) : Bool :=
  let w (k : Nat) := slotWord b k
  let def_ (k : Nat) : Bool := (slotOp 0 false k (w k) (w 1)).isSome
  let both := swOp (w 1) == 0x14 || swOp (w 1) == 0x15
  def_ 0 && (isLoop b || def_ 1) && (if both then swOp (w 2) == 0 else def_ 2) && def_ 3

/-- A register of the engine for the hazard check: X number, or 32 plus the accumulator. -/
abbrev RegNo := Nat

/-- Destinations of a slot word with their latencies, a MAC-class accumulator with latency 4 (R173). -/
def slotDests (k w : Nat) : List (RegNo × Nat) :=
  let r1 := bits w 23 19
  let a1 := bits w 23 22
  match k, swOp w with
  | _, 0x10 => [(r1, 3)]
  | _, 0x11 => [(r1, 3), (r1 + 1, 3)]
  | _, 0x14 => [(32 + a1, 3)]
  | 3, 0x04 => [(32 + a1, 4), (32 + bits w 11 10, 4)]
  | 3, 0x06 => [(32 + a1, 1)]
  | 3, 0x00 => []
  | 3, _ => [(32 + a1, 4)]
  | 0, 0x30 => [(r1, 2)]
  | 0, 0x33 => [(r1, 4)]
  | 0, 0x34 => [(r1, 4)]
  | 0, 0x40 => [(r1, 1)]
  | 0, o => if (0x20 ≤ o ∧ o ≤ 0x2C) ∨ o = 0x31 ∨ o = 0x32 then [(r1, 1)] else []
  | _, _ => []

/-- Registers a slot word reads. -/
def slotReads (k w : Nat) : List RegNo :=
  let r1 := bits w 23 19
  let r2 := bits w 18 14
  let r3 := bits w 13 9
  match k, swOp w with
  | 3, 0x00 => []
  | 3, 0x06 => []
  | 3, 0x04 => [32 + bits w 23 22, bits w 21 17, bits w 16 12, 32 + bits w 11 10, bits w 9 5, bits w 4 0]
  | 3, _ => [32 + bits w 23 22, bits w 21 17, bits w 16 12]
  | 1, 0x38 => [r1]
  | _, 0x10 => [r2]
  | _, 0x11 => [r2]
  | _, 0x12 => [r1, r2]
  | _, 0x13 => if r1 = 31 then [r1, r2] else [r1, r1 + 1, r2]
  | _, 0x14 => [bits w 21 17]
  | _, 0x15 => [32 + bits w 23 22, bits w 21 17]
  | 1, 0x16 => [r1, r2]
  | 0, 0x22 => [r2]
  | 0, 0x2C => [r2]
  | 0, 0x30 => [32 + bits w 18 17]
  | 0, 0x31 => [r1, r2]
  | 0, 0x32 => [r1, r2]
  | 0, 0x33 => [r2]
  | 0, 0x34 => [r2]
  | 0, 0x3A => [r1]
  | 0, 0x3B => [r1]
  | 0, 0x3C => [r1, r2]
  | 0, 0x41 => [r2]
  | 0, o => if 0x20 ≤ o ∧ o ≤ 0x2B ∧ o ≠ 0x29 ∧ o ≠ 0x2A then [r2, r3] else []
  | _, _ => []

/-- Registers other than X0 that a bundle touches in the window of `r`: a MAC-class operation may follow on a MAC-class
accumulator (R176). -/
def touches (b : BitVec 128) (r : RegNo) (macClass : Bool) : Bool :=
  [0, 1, 2, 3].any (fun k =>
    let w := slotWord b k
    let mac := k == 3 && swOp w != 0x06 && swOp w != 0
    if macClass && mac && decide (32 ≤ r) then false
    else (slotDests k w).any (fun d => d.1 == r) || (slotReads k w).any (· == r))

/-- Two operations of one bundle write the same register (R176); MAC2 on one accumulator writes it once. -/
def doubleWrite (b : BitVec 128) : Bool :=
  let ds := (List.range 4).flatMap (fun k => ((slotDests k (slotWord b k)).map (·.1)).dedup)
  let ds := ds.filter (fun r => decide (r ≠ 0))
  decide (ds.dedup.length ≠ ds.length)

/-! ### Control flow of a kernel (R177, R191, R205) -/

/-- The bundle at an index; NOPs past the end. -/
def bundleAt (code : List (BitVec 128)) (i : Nat) : BitVec 128 := code.getD i 0

/-- Bodies of the loops: level, LOOP bundle, first and last bundle of the body. -/
def bodies (code : List (BitVec 128)) : List (Nat × Nat × Nat × Nat) :=
  (List.range code.length).filterMap (fun i =>
    let b := bundleAt code i
    if isLoop b then some ((loopFields b).1, i, i + 1, i + (loopFields b).2.2.2) else none)

/-- A bundle lies in a body. -/
def inBody (x : Nat) (v : Nat × Nat × Nat × Nat) : Bool := decide (v.2.2.1 ≤ x) && decide (x ≤ v.2.2.2)

/-- Target of the branch in bundle `i`. -/
def targetOf (code : List (BitVec 128)) (i : Nat) : Int := (i : Int) + branchOff (bundleAt code i)

/-- A place in a kernel's flow: a bundle, and the target of the taken branch whose delay slot it is. -/
abbrev FlowNode := Nat × Option Nat

/-- Places that may follow a place (R177, R188, R189): after a delay slot the target; after a branch its delay slot, with the branch
taken and, unless it always is, not taken; at the end of a body also the body's start; after LOOP also the bundle past its body. -/
def succs (code : List (BitVec 128)) (bs : List (Nat × Nat × Nat × Nat)) (n : FlowNode) : List FlowNode :=
  let i := n.1
  match n.2 with
  | some t => [(t, none)]
  | none =>
    let b := bundleAt code i
    if isRet b then []
    else if isBranch b then
      (i + 1, some (targetOf code i).toNat) :: (if swOp (slotWord b 0) = 0x39 then [] else [(i + 1, none)])
    else
      let back := (bs.filter (fun v => v.2.2.2 == i)).map (fun v => (v.2.2.1, none))
      let skip := (bs.filter (fun v => v.2.1 == i)).map (fun v => (v.2.2.2 + 1, none))
      (i + 1, none) :: (back ++ skip)

/-- Some bundle reached within `n` bundles after a place touches the destination. -/
def hazardFrom (code : List (BitVec 128)) (bs : List (Nat × Nat × Nat × Nat)) (r : RegNo) (mac : Bool) : Nat → FlowNode → Bool
  | 0, _ => false
  | n + 1, i => (succs code bs i).any (fun j =>
      decide (j.1 < code.length) && (touches (bundleAt code j.1) r mac || hazardFrom code bs r mac n j))

/-- The places a bundle can be reached at: by itself, or as the delay slot of the branch before it. -/
def placesOf (code : List (BitVec 128)) (i : Nat) : List FlowNode :=
  let slot : List FlowNode := if 0 < i ∧ isBranch (bundleAt code (i - 1)) = true then [(i, some (targetOf code (i - 1)).toNat)] else []
  (i, none) :: slot

/-- Bundle `i` breaks R176: an operation in a pending window touches its destination, or a double write. -/
def breaksWindows (code : List (BitVec 128)) (bs : List (Nat × Nat × Nat × Nat)) (i : Nat) : Bool :=
  let b := bundleAt code i
  doubleWrite b || [0, 1, 2, 3].any (fun k =>
    let w := slotWord b k
    (slotDests k w).any (fun d => d.1 != 0 &&
      (placesOf code i).any (hazardFrom code bs d.1 (k == 3 && swOp w != 0x06) (d.2 - 1))))

/-- Bundle `i` breaks R177, R187, R190, R191 or the branch rules of R205. -/
def breaksFlow (code : List (BitVec 128)) (bs : List (Nat × Nat × Nat × Nat)) (i : Nat) : Bool :=
  let b := bundleAt code i
  let n := code.length
  let turn := isBranch b || isRet b
  let inDelay := decide (0 < i) && isBranch (bundleAt code (i - 1))
  let late := bs.any (fun v => inBody i v && decide (v.2.2.2 ≤ i + 1))
  let t := targetOf code i
  let branchBad := isBranch b &&
    (decide (t ≤ (i : Int)) || decide ((n : Int) ≤ t) || bs.any (fun v => inBody i v != inBody t.toNat v))
  let loopBad := isLoop b && (
    let f := loopFields b
    let e := i + f.2.2.2
    decide (n ≤ e) || bs.any (fun v => inBody i v && (v.1 == f.1 || f.1 == 0)) ||
    (f.1 == 1 && !(bs.any (fun v => v.1 == 0 && inBody i v && decide (e ≤ v.2.2.2)))))
  (inDelay && (isBranch b || swOp (slotWord b 0) == 0x3D)) || (late && (turn || isLoop b)) || branchBad || loopBad

/-- First bundle that breaks R205. -/
def badBundle (code : List (BitVec 128)) : Option Nat :=
  let bs := bodies code
  (List.range code.length).find? (fun i =>
    !slotsDefined (bundleAt code i) || breaksFlow code bs i || breaksWindows code bs i)

/-- Cycles a BLD is charged (R196). -/
def bldCharge : Nat := 2184

/-- Cycles of one bundle with its BLD charge. -/
def bundleCost (b : BitVec 128) : Nat := 1 + (if swOp (slotWord b 1) = 0x16 then bldCharge else 0)

/-- Longest path in cycles from bundle `i` up to RET, RETI or bundle `stop` (R206). -/
def longest (code : List (BitVec 128)) : Nat → Nat → Nat → Nat
  | 0, _, _ => 0
  | fuel + 1, i, stop =>
    if stop ≤ i then 0
    else
      let b := bundleAt code i
      if isRet b then bundleCost b
      else if isLoop b then
        let f := loopFields b
        let e := i + f.2.2.2
        bundleCost b + f.2.2.1 * longest code fuel (i + 1) (e + 1) + longest code fuel (e + 1) stop
      else if isBranch b then
        let d := bundleCost b + bundleCost (bundleAt code (i + 1))
        let taken := longest code fuel (targetOf code i).toNat stop
        if swOp (slotWord b 0) = 0x39 then d + taken else d + max taken (longest code fuel (i + 2) stop)
      else bundleCost b + longest code fuel (i + 1) stop

/-! ### Images (R204 to R208) -/

/-- The bundles of an image. -/
def imageCode (img : List Byte) : List (BitVec 128) :=
  (chunks 16 ((img.length - 64) / 16) (img.drop 64)).map (fun c => BitVec.ofNat 128 (leVal c))

/-- The header of an image has a fault (R204, R205). -/
def headerBad (img : List Byte) : Bool :=
  let n := leField img 8 2
  let zero (a k : Nat) := leField img a k == 0
  leField img 0 4 != 0x4E524B4C || leField img 4 2 != 1 || decide (15 < leField img 6 1) || !zero 7 1 ||
  n == 0 || decide (1536 < n) || decide (n ≤ leField img 10 2) ||
  (leField img 12 2 != 0xFFFF && decide (n ≤ leField img 12 2)) || !zero 14 2 ||
  decide (16384 < leField img 20 4) || decide (65536 < leField img 24 4) || leField img 24 4 % 8 != 0 ||
  decide (512 < leField img 28 2) || !zero 30 30 ||
  leField img 60 4 != crc32 (img.take 60 ++ List.replicate 4 0 ++ img.drop 64)

/-- The kernel of an image. -/
def kernelOf (img : List Byte) : Kernel :=
  { code := imageCode img, mask := leField img 6 1, entry := leField img 10 2
    handler := if leField img 12 2 = 0xFFFF then none else some (leField img 12 2)
    cycles := leField img 16 4, dataBytes := leField img 20 4, bankBytes := leField img 24 4, paramBytes := leField img 28 2 }

/-- The entry bound and the handler bound together exceed the declared cycles (R206). -/
def overDeclared (k : Kernel) : Bool :=
  let n := k.code.length
  let h := match k.handler with
    | some x => longest k.code (n + 1) x n
    | none => 0
  decide (k.cycles < longest k.code (n + 1) k.entry n + h)

/-- A handle not in use, otherwise free: the first unused one from a free value on (log entry 4). -/
def State.newHandle (s : State) (used : List Nat) : Nat :=
  let h0 := s.fresh % 0xFFFFFFFF
  ((List.range (used.length + 1)).map (fun i => (h0 + i) % 0xFFFFFFFF + 1)).find? (fun h => !used.contains h) |>.getD 1

/-- KERNEL_LOAD (R205, R206). -/
def execKernelLoad (ref : CmdRef) (image : List Byte) (s : State) : Out :=
  .next (s.execCmd ref 0x0440 (fun k s =>
    if headerBad image then s.finish k E.malformed (le2 0xFFFF)
    else if image.length ≠ 64 + 16 * leField image 8 2 then s.finish k E.length
    else
      let kn := kernelOf image
      match badBundle kn.code with
      | some i => s.finish k E.malformed (le2 i)
      | none =>
        if overDeclared kn then s.finish k E.conflict
        else if 64 ≤ s.host.kernels.length then s.finish k E.queueFull
        else
          let h := s.newHandle (s.host.kernels.map (·.1))
          let s := s.took
          let s := { s with host := { s.host with kernels := mset s.host.kernels h kn {} } }
          s.ok k (le4 h)))

/-- An item stages the attachment of a kernel on this module. -/
def State.stagesKernel (s : State) (h : Nat) (it : Item) : Bool :=
  it.code.toNat == P.hookKernel && it.value == h && (s.localEp it.fa.toNat).isSome

/-- The kernel is attached to some axis, or a scheduled, pending or PREPARE set stages it (R208). -/
def State.kernelUsed (s : State) (h : Nat) : Bool :=
  (List.range 32).any (fun i => [0, 1, 2, 3].any (fun p => s.par i P.hookKernel p == h)) ||
  s.host.commits.any (fun c => c.items.any (s.stagesKernel h)) || s.host.parts.any (fun c => c.items.any (s.stagesKernel h)) ||
  s.sessions.any (fun x => match x.2 with
    | some v => v.pendingSet.any (s.stagesKernel h)
    | none => false)

/-- KERNEL_UNLOAD (R208). -/
def execKernelUnload (ref : CmdRef) (handle : BitVec 32) (s : State) : Out :=
  .next (s.execCmd ref 0x0441 (fun k s =>
    let h := handle.toNat
    s.checked k [(!(s.host.kernels.any (fun x => x.1 == h)), E.range), (s.kernelUsed h, E.state)] (fun s =>
      ({ s with host := { s.host with kernels := mdel s.host.kernels h } }).ok k)))

/-! ### Declared cycles and placement (R203, R50 to R53, R169) -/

/-- The kernel attached at a hook point by the committed configuration. -/
def State.kernelAt (s : State) (i p : Nat) : Option Kernel :=
  let h := s.par i P.hookKernel p
  if h = 0 then none else some (mget s.host.kernels h {})

/-- Declared worst-case cycles of an axis (R203). -/
def State.declaredCycles (s : State) (i : Nat) : Nat :=
  let on (b : Bool) (n : Nat) := if b then n else 0
  let optional := [4, 5, 6, 7].map (fun k => match s.par i P.secType k with
    | 1 => 95
    | 2 => 135
    | _ => 0)
  let sched := [0, 1, 2, 3, 4, 5, 6, 7].filter (fun k =>
    decide (1 < s.par i P.secSets k) && (decide (k < 4) || s.par i P.secType k != 0))
  let hooks := [0, 1, 2, 3].map (fun p => match s.kernelAt i p with
    | some kn => 45 + kn.cycles
    | none => 0)
  2450 + on (s.mode i != 0) 1150 + on (s.par i P.obsEnable == 1) 950 + on (s.par i P.hfiEnable == 1) 780 +
  on ((s.getFollower i).state != .none_) 1200 + optional.sum + 60 * sched.length + hooks.sum + 60

/-- An axis in the placement check: number, current period and phase in ticks, declared cycles. -/
structure PlacedAxis where
  no : Nat
  period : Nat
  phase : Nat
  cycles : Nat
  deriving DecidableEq, Repr

/-- A waiting computation: axis, next update point in ticks. Times below are in eighths of an engine cycle: a tick is 150. -/
abbrev EdfAxis := PlacedAxis × Nat

/-- Release point of the next computation: U + P/2 + 400 ns. -/
def edfRelease (a : EdfAxis) : Nat := 150 * a.2 + 75 * a.1.period + 3840
/-- Its deadline: U + P - 400 ns. -/
def edfDeadline (a : EdfAxis) : Nat := 150 * (a.2 + a.1.period) - 3840

/-- The computation R51 starts among those released by `t`. -/
def edfPick (t : Nat) (l : List EdfAxis) : Option EdfAxis :=
  (l.filter (fun a => decide (edfRelease a ≤ t))).foldl (fun best a => match best with
    | none => some a
    | some b => if edfDeadline a < edfDeadline b ∨ (edfDeadline a = edfDeadline b ∧ a.1.no < b.1.no) then some a else some b) none

/-- Every computation up to tick `h` finishes by its deadline under R51 (R52). -/
def edfOk (h : Nat) : Nat → Nat → List EdfAxis → Bool
  | 0, _, _ => true
  | fuel + 1, t, l =>
    if l.all (fun a => decide (h ≤ a.2)) then true
    else match edfPick t l with
      | none => edfOk h fuel ((l.map edfRelease).foldl min (edfRelease (l.headD (⟨0, 0, 0, 0⟩, 0)))) l
      | some a =>
        let t' := t + 8 * a.1.cycles
        if edfDeadline a < t' then false
        else edfOk h fuel t' (l.map (fun b => if b.1.no = a.1.no then (b.1, b.2 + b.1.period) else b))

/-- The axes on an engine satisfy R50 and R52. -/
def placementOk (l : List PlacedAxis) : Bool :=
  let most := if l.any (fun a => decide (a.period < 2000)) then 2 else 4
  let h := l.foldl (fun h a => Nat.lcm h a.period) 1
  let last := (l.map (fun a => a.phase)).foldl max 0
  decide (l.length ≤ most) && edfOk (h + last) (2 * (l.map (fun a => (h + last) / a.period + 1)).sum + 2) 0
    (l.map (fun a => (a, a.phase)))

/-- A servo axis as the placement check sees it. -/
def State.placedAxis (s : State) (i : Nat) : PlacedAxis :=
  { no := i, period := s.par i P.curPeriodTicks, phase := s.par i P.curPhaseTicks, cycles := s.declaredCycles i }

/-- Axes hosted by an engine. -/
def State.hosted (s : State) (le : Nat) : List Nat :=
  (List.range 32).filter (fun i => (s.getFlags i).engine == some le)

/-- Bytes of hook code of an axis. -/
def State.hookCode (s : State) (i : Nat) : Nat :=
  ([0, 1, 2, 3].map (fun p => match s.kernelAt i p with
    | some kn => 16 * kn.code.length
    | none => 0)).sum

/-- An engine that holds these axes satisfies R50, R52 and R169. -/
def State.engineAccepts (s : State) (axes : List Nat) : Bool :=
  placementOk (axes.map s.placedAxis) && decide ((axes.map s.hookCode).sum ≤ 24576)

/-- Axes an engine hosts or will host by the migrations pending to it. -/
def State.willHost (s : State) (le : Nat) : List Nat :=
  let coming := s.power.migrations.filterMap (fun g => if g.target = le ∧ g.moved = false then some g.axis else none)
  s.hosted le ++ coming.filter (fun i => !(s.hosted le).contains i)

/-- The configuration as the scheduled sets of this module will leave it. -/
def State.ahead (s : State) : State :=
  (s.host.commits.flatMap (·.items) ++ (s.host.parts.filter (·.ready)).flatMap (·.items)).foldl (fun s it =>
    match s.localEp it.fa.toNat with
    | some ep => s.setPar ep it.code.toNat it.index.toNat it.value
    | none => s) s

/-- An engine that holds these axes satisfies R50, R52 and R169 now and when every scheduled set has applied. -/
def State.engineKeeps (s : State) (axes : List Nat) : Bool := s.engineAccepts axes && s.ahead.engineAccepts axes

/-- An axis may be placed on an engine beside those it hosts and those that are to come. -/
def State.mayPlace (s : State) (le i : Nat) : Bool :=
  let e := s.getEngine le
  (e.state == .idle || e.state == .run) && s.engineKeeps ((s.willHost le).filter (· ≠ i) ++ [i])

/-- The engine R837 chooses for an axis. -/
def State.chooseEngine (s : State) (i : Nat) : Option Nat :=
  let last := match (s.getFlags i).lastEngine with
    | some e => if s.mayPlace e i then some e else none
    | none => none
  match last with
  | some e => some e
  | none => (List.range 16).find? (fun e => s.mayPlace e i)

/-- The first start at which `n` units fit between occupied intervals (start, length) below `limit` (log entry 26). -/
def firstFit (n start limit : Nat) (occ : List (Nat × Nat)) : Option Nat :=
  let cands := sortBy (fun a b => decide (a ≤ b)) (start :: occ.map (fun o => o.1 + o.2))
  cands.find? (fun c => decide (start ≤ c) && decide (c + n ≤ limit) &&
    occ.all (fun o => decide (c + n ≤ o.1) || decide (o.1 + o.2 ≤ c) || o.2 == 0))

/-- Bank regions in use. -/
def State.bankUsed (s : State) : List (Nat × Nat) :=
  s.flags.flatMap (fun f => f.2.hooks.map (fun h => (h.2.bankBase, (mget s.host.kernels h.2.handle {}).bankBytes)))

/-- Hook code of an engine in use, in bundles. -/
def State.codeUsed (s : State) (le : Nat) : List (Nat × Nat) :=
  (s.hosted le).flatMap (fun i => (s.getFlags i).hooks.map (fun h =>
    (h.2.first, (mget s.host.kernels h.2.handle {}).code.length)))

/-- The code of an axis's hooks placed into its engine's hook code area (R172; bundle addresses from 0xA000 on). -/
def State.placeCode (s : State) (i : Nat) : State :=
  match (s.getFlags i).engine with
  | none => s
  | some le =>
    let s := s.modFlags i (fun f => { f with hooks := f.hooks.map (fun h => (h.1, { h.2 with first := 0 })) })
    [0, 1, 2, 3].foldl (fun s p =>
      let a := mget (s.getFlags i).hooks p {}
      if a.handle = 0 then s
      else
        let kn := mget s.host.kernels a.handle {}
        let used := (s.codeUsed le).filter (fun o => decide (o.1 ≠ 0))
        let first := (firstFit kn.code.length 0xA00 0x1000 used).getD 0xA00
        let s := s.modFlags i (fun f => { f with hooks := mset f.hooks p { a with first := first } {} })
        s.modEngine le (fun e => e.store (16 * first) (kn.code.flatMap (fun b => leBytes 16 b.toNat)))) s

/-- Regions of these sizes found one after the other in a bank with `occ` in use; none where one has no room. -/
def allocAll (occ : List (Nat × Nat)) : List Nat → Option (List (Nat × Nat))
  | [] => some occ
  | n :: l => match firstFit n 0 bankBytes occ with
    | some b => allocAll ((b, n) :: occ) l
    | none => none

/-- bank_bytes of a stored kernel; 0 for handle 0. -/
def State.kernelBank (s : State) (h : Nat) : Nat := if h = 0 then 0 else (mget s.host.kernels h {}).bankBytes

/-- Bank regions in use but for those of hook points of axis `i` that take other handles. -/
def State.bankKept (s : State) (i : Nat) (handles : List Nat) : List (Nat × Nat) :=
  s.flags.flatMap (fun f => (f.2.hooks.filter (fun h => f.1 != i || h.2.handle == handles.getD h.1 0)).map (fun h =>
    (h.2.bankBase, (mget s.host.kernels h.2.handle {}).bankBytes)))

/-- Sizes of the regions that the scheduled sets of this module will attach (R207). -/
def State.bankScheduled (s : State) : List Nat :=
  (s.host.commits.flatMap (·.items) ++ (s.host.parts.filter (·.ready)).flatMap (·.items)).filterMap (fun it =>
    if it.code.toNat = P.hookKernel ∧ (s.localEp it.fa.toNat).isSome = true ∧
      (mget (s.getFlags (it.fa.toNat % 8192)).hooks it.index.toNat {}).handle ≠ it.value then some (s.kernelBank it.value) else none)

/-- An attach that a commit asks is refused (R207): the point is not in hook_mask, the data of the axis's hooks exceed 16 KiB,
or the bank has no room beside the regions kept and those scheduled. -/
def State.attachBad (s : State) (i : Nat) (handles : List Nat) : Bool :=
  let ks := handles.map (fun h => mget s.host.kernels h {})
  let pts := [0, 1, 2, 3].filter (fun p => decide (handles.getD p 0 ≠ 0))
  let fresh := (pts.filter (fun p => decide ((mget (s.getFlags i).hooks p {}).handle ≠ handles.getD p 0))).map
    (fun p => s.kernelBank (handles.getD p 0))
  pts.any (fun p => !(s.host.kernels.any (fun x => x.1 == handles.getD p 0))) ||
  pts.any (fun p => !bitOf (ks.getD p {}).mask p) ||
  decide (16384 < (pts.map (fun p => (ks.getD p {}).dataBytes)).sum) ||
  (!fresh.isEmpty && (allocAll (s.bankKept i handles) (s.bankScheduled ++ fresh)).isNone)

/-- The hooks of an axis follow its committed hook_kernel parameters (R207): the points that change give back their regions, then
the new regions are allocated and the code placed. A kernel that the bank has no room for after all is not attached (log entry 26). -/
def State.attachHooks (s : State) (i : Nat) : State :=
  let handles := [0, 1, 2, 3].map (fun p => s.par i P.hookKernel p)
  let s := s.modFlags i (fun f => { f with hooks := f.hooks.filter (fun h => h.2.handle == handles.getD h.1 0) })
  let s := [0, 1, 2, 3].foldl (fun s p =>
    let h := handles.getD p 0
    if h = 0 ∨ (mget (s.getFlags i).hooks p {}).handle = h then s
    else match firstFit (s.kernelBank h) 0 bankBytes s.bankUsed with
      | some base => s.modFlags i (fun f => { f with hooks := mset f.hooks p { handle := h, bankBase := base, first := 0 } {} })
      | none => s) s
  s.placeCode i

/-- A servo axis placed on an engine (R837): the lowest free slot, its hook code, and the engine's state. -/
def State.placeAxis (s : State) (le i : Nat) : State :=
  let taken := ((s.hosted le).filter (· ≠ i)).map (fun j => (s.getFlags j).slot)
  let slot := ([0, 1, 2, 3].find? (fun k => !taken.contains k)).getD 0
  let s := s.modFlags i (fun f => { f with engine := some le, lastEngine := some le, slot := slot })
  let s := s.placeCode i
  s.modEngine le (fun e => if e.state = .idle then { e with state := .run } else e)

/-- A servo axis leaves its engine, which is IDLE when it hosts no other (R212); an IDLE engine and an axis that
leaves its engine take the new library and vendor code (R792). -/
def State.unplaceAxis (s : State) (i : Nat) : State :=
  match (s.getFlags i).engine with
  | none => s
  | some le =>
    let s := (s.modFlags i (fun f => { f with engine := none })).modPower (fun p => { p with oldAxes := p.oldAxes.erase i })
    if (s.hosted le).isEmpty then
      (s.modEngine le (fun e => if e.state = .run ∨ e.state = .draining then { e with state := .idle } else e)).modPower
        (fun p => { p with oldEngines := p.oldEngines.erase le })
    else s

/-- The hook data area of an axis zeroed (R838). -/
def State.zeroHookData (s : State) (i : Nat) : State :=
  match (s.getFlags i).engine with
  | none => s
  | some le =>
    let base := s.slotBase i + 0x4000
    s.modEngine le (fun e => { e with mem := e.mem.filter (fun c => decide (c.1 < base) || decide (base + 0x4000 ≤ c.1)) })

end Sys2Proof.Machine
end

