-- ==== Sys2Proof/Machine/Pwm.lean ====
section
/-! DEFINITION. The placement of PWM edges (R87, R88, R277), which servo axes and auxiliary drives share. -/

namespace Sys2Proof.Machine

/-- The nominal tick increment, 15.625 ns, in units of 2^-32 ns (R60). -/
def nominalIncrement : Int := 67108864000

/-- The tick increment in units of 2^-32 ns (R60). -/
def State.increment (s : State) : Int := nominalIncrement + s.time.rateAdj

/-- The 6.4 GHz cycle of an edge whose target is an XT.16: counted from the tick whose interval contains the target, in steps of the
tick increment ÷ 100, the nearest one with half a step rounded down; in cycles of the local clock, 100 to a tick (R88). -/
def State.placeEdge (s : State) (target : Int) : Int :=
  let d := (target - s.xt16) * 65536 - s.time.residue.toNat
  let k := d / s.increment
  let r := d - k * s.increment
  100 * (s.tick + k) + (200 * r + s.increment - 1) / (2 * s.increment)

/-- Half of dead_time rounded to 156.25 ps, in FT.16 units; a dead time half a step from two is rounded up (log entry 89). -/
def halfDead (deadNs : Rat) : Int := unitsOfNs (((deadNs * 32 / 5 + 1 / 2).floor : Rat) * 5 / 64)

/-- The gate edges of the pulses, dead_time split about each nominal edge (R277). -/
def PwmAxis.placeEdges (w : PwmAxis) (s : State) (deadNs : Rat) : PwmAxis :=
  let h := halfDead deadNs
  let at_ (x : Int) : Int := s.placeEdge (w.updateXt + x)
  { w with edges := w.pulses.flatMap (fun (p : Int × Int) => [at_ (p.1 + h), at_ (p.2 - h), at_ (p.1 - h), at_ (p.2 + h)]) }

/-- A period of another length with the same duty ratios (R87). -/
def PwmAxis.stretch (w : PwmAxis) (s : State) (deadNs : Rat) (period : Nat) : PwmAxis :=
  ({ w with period := period, pulses := w.pulses.map (fun (p : Int × Int) => (p.1 * period / w.period, p.2 * period / w.period)) }).placeEdges s deadNs

end Sys2Proof.Machine
end

