-- ==== Sys2Proof/Machine/Time.lean ====
section
/-! DEFINITION. Fabric time (02_fabric_time.md): the tick, the time states, measurements, steps, XT, and hardware stamps
(R34 to R39, R59 to R92). -/

namespace Sys2Proof.Machine

/-- Limit of the rate correction (R61). -/
def rateLimit : Int := 13421772

/-- FT with its 16-bit fraction and the residue, advanced by the tick increment (R59, R60). -/
def advance64 (ft16 : Ft16) (residue : BitVec 16) (inc : Int) : Ft16 × BitVec 16 :=
  let x : BitVec 64 := (ft16 ++ residue : BitVec 64) + BitVec.ofInt 64 inc
  ((x >>> 16).truncate 48, x.truncate 16)

/-- The FT counter stands still in Blanket and below (R80, R67). -/
def State.ftRuns (s : State) : Bool := s.power.state != .blanket && s.power.state != .hamper

/-- The AON count over one tick: 25 of the reference's cycles fall into 64 ticks, and each cycle of 40 ns adds 64/25 of the tick
increment, whose rate correction is frozen (R80; the fraction of 2^-32 ns dropped, log entry 86). -/
def TimeUnit.aonStep (t : TimeUnit) (inc : Int) : TimeUnit :=
  if t.aonRef + 25 < 64 then { t with aonRef := t.aonRef + 25 }
  else
    let x : Int := (t.aonXt16 : Int) * 65536 + t.residue.toNat + inc * 64 / 25
    { t with aonRef := t.aonRef + 25 - 64, aonXt16 := (x / 65536).toNat, residue := BitVec.ofInt 16 (x % 65536) }

/-- TIME_TICK (R59, R60; in Blanket the AON count of R80 advances instead). -/
def execTimeTick (s : State) : Out :=
  .next (
    let t := s.time
    let s := { s with tick := s.tick + 1 }
    if s.ftRuns then
      let r := advance64 t.ft16 t.residue s.increment
      { s with time := { t with ft16 := r.1, residue := r.2 } }
    else if s.power.state = .blanket then { s with time := t.aonStep s.increment }
    else s)

/-- XT_SAMPLE (R83): the wrap count advances when FT is smaller than at the previous sample. -/
def State.sampleXt (s : State) : State :=
  { s with time := { s.time with
      xtHi := if s.ft < s.time.lastSample then s.time.xtHi + 1 else s.time.xtHi
      lastSample := s.ft } }

/-- XT_SAMPLE. -/
def execXtSample (s : State) : Out := .next s.sampleXt

/-! ### Steps (R77 to R79) -/

/-- The FT references of a segment moved by a step. -/
def Seg.shift (d : Int) (g : Seg) : Seg :=
  { g with tStart := g.tStart + BitVec.ofInt 48 d, tEnd := g.tEnd + BitVec.ofInt 48 d }

/-- An XT.16 moved by a step. -/
def shiftXt (d : Int) (x : Nat) : Nat := ((x : Int) + d).toNat % 2 ^ 80

/-- The stop profile of an axis moved by a step, so that its motion stays continuous (R79; log entry 20). -/
def StopRun.shift (d : Int) (r : StopRun) : StopRun := { r with fromXt := shiftXt d r.fromXt }

/-- A grid re-alignment of a carrier whose update point lies at `u` with old period `p` (FT.16 units): the new length of
the period in progress (R87). -/
def realigned (n ph u p : Nat) : Nat := gridAtOrAfter n ph (u + (p + 1) / 2) - u

/-- A servo axis's carrier realigned to its committed grid, its update point moved by `d` first (R87). -/
def State.realignServo (s : State) (d : Int) (i : Nat) : State :=
  let w := s.getPwm i
  if w.period = 0 then s
  else
    let u := shiftXt d w.updateXt
    let p := realigned (s.par i P.curPeriodTicks) (s.par i P.curPhaseTicks) u w.period
    s.setPwm i (({ w with updateXt := u }).stretch s (s.parF i P.deadTime) p)

/-- An auxiliary drive's carrier realigned. -/
def State.realignAux (s : State) (d : Int) (i : Nat) : State :=
  let a := s.getAux i
  if a.pwm.period = 0 then s
  else
    let u := shiftXt d a.pwm.updateXt
    let p := realigned (s.par (epAux i) P.auxPeriodTicks) (s.par (epAux i) P.auxPhaseTicks) u a.pwm.period
    s.setAux i { a with pwm := ({ a.pwm with updateXt := u }).stretch s (s.parF (epAux i) P.auxDeadTime) p }

/-- Every queued segment, and the stop in progress, of the module's own axes moved by a step (R79). -/
def State.shiftMotion (s : State) (d : Int) : State :=
  { s with
    trails := s.trails.map (fun kv => (kv.1, { kv.2 with
      queue := kv.2.queue.map (Seg.shift d), lastSeg := kv.2.lastSeg.map (Seg.shift d) }))
    loop := s.loop.map (fun kv => (kv.1, { kv.2 with stop := kv.2.stop.map (StopRun.shift d) }))
    virt := s.virt.map (fun kv => (kv.1, { kv.2 with
      stop := kv.2.stop.map (StopRun.shift d), sampleXt := shiftXt d kv.2.sampleXt })) }

/-- The FT that a pending FT value acts on after a step by `d` units of 2^-16 ns: its own number, but the step's own FT where a
step of 2^31 ns or more passed it over, since R12 would then read it as later (R79). -/
def passOver (was now : Ft) (d : Int) (f : Ft) : Ft :=
  if 2 ^ 47 ≤ d ∧ 0 < ftDiff f was then now else f

/-- The pending FT values passed over by a long forward step act at it (R79): CAN transmit times, timed outputs, SNAP_AT, join
instants, wake times, PREPAREs and the table generation that awaits its apply FT. -/
def State.passPending (s : State) (was : Ft) (d : Int) : State :=
  let g := passOver was s.ft d
  { s with
    can := s.can.map (fun kv => (kv.1, { kv.2 with bufs := kv.2.bufs.map (fun b => (b.1, { b.2 with at_ := b.2.at_.map g })) }))
    fio := { s.fio with outs := s.fio.outs.map (fun kv => (kv.1, { kv.2 with timed := kv.2.timed.map (fun x => (g x.1, x.2)) })) }
    host := { s.host with
      snapWaits := s.host.snapWaits.map (fun x => (x.1, g x.2.1, x.2.2))
      prepares := s.host.prepares.map (fun kv => (kv.1, { kv.2 with ftC := g kv.2.ftC }))
      parts := s.host.parts.map (fun p => { p with ftC := g p.ftC }) }
    followers := s.followers.map (fun kv => (kv.1, { kv.2 with join := kv.2.join.map (fun j => { j with at_ := j.at_.map g }) }))
    sched := { s.sched with threads := s.sched.threads.map (fun kv => (kv.1, { kv.2 with wake := kv.2.wake.map g })) }
    fabric := { s.fabric with incoming := s.fabric.incoming.map (fun t => { t with apply := t.apply.map g }) } }

/-- A step of XT with its fraction by `d` units of 2^-16 ns at this tick (R78, R79, R87). -/
def State.applyStep (s : State) (d : Int) : State :=
  let before := s.ft8
  let was := s.time.ft16
  let x := shiftXt d s.xt16
  let ft16 := BitVec.ofNat 48 x
  let s := { s with time := { s.time with
    ft16 := ft16, xtHi := BitVec.ofNat 32 (x / 2 ^ 48), lastSample := (ft16 >>> 16).truncate 32 } }
  let s := (s.shiftMotion d).passPending (BitVec.truncate 32 (was >>> 16)) d
  let s := (s.pwm.map (·.1)).foldl (fun s i => s.realignServo d i) s
  let s := (s.aux.map (·.1)).foldl (fun s i => s.realignAux d i) s
  let s := s.bump epModule C.timStepCnt
  (s.log epModule 0x0203 (before.toNat + s.ft8.toNat * 2 ^ 64)).capStep was d

/-- TIME_STEP_APPLY (R77): the announced step is applied once its FT is reached or passed. -/
def execTimeStepApply (s : State) : Out :=
  .next (
    match s.time.announced with
    | none => s
    | some (f, d) =>
      if ftLater f s.ft then s
      else { s with time := { s.time with announced := none } }.applyStep d)

/-! ### Time states (R64 to R75) -/

/-- TIM_OFFSET of an offset in FT.16 units: 2^-8 ns, saturating. -/
def offsetWord (o : Int) : Int := clampInt (-0x7FFFFFFF) 0x7FFFFFFF (o / 256)

/-- Nanoseconds of an FT.16 amount, truncated, for event data. -/
def nsWord (d : Int) : Nat := q64 (d / 65536)

/-- in_tolerance follows the state and the last absolute offset (TIM_STATUS [6]). -/
def State.tolerance (s : State) : State :=
  { s with time := { s.time with
    inTolerance := s.time.state == .locked &&
      decide (nsOf s.time.lastOffset16.natAbs ≤ s.parF epModule P.timeTolerance) } }

/-- Entry to LOCKED with TIME_LOCKED logged; `step` is the first-lock step or 0. -/
def State.enterLocked (s : State) (step : Int) : State :=
  let s := { s with time := { s.time with state := .locked, stepped := true } }
  s.log epModule 0x0201 (s.time.sourcePort.toNat + nsWord step * 2 ^ 64)

/-- A demand of the time servo taken with the limit of R61. A demand equal to the limit does not exceed it: while `diverged`
holds the rate at the limit, rate_saturated stays 0 and TIM_RATE_SAT_CNT does not count (DESIGN CHOICE, log entry 86). -/
def State.servoRate (s : State) (demand : Int) : State :=
  let sat := decide (rateLimit < demand) || decide (demand < -rateLimit)
  let s := { s with time := { s.time with rateAdj := clampInt (-rateLimit) rateLimit demand, rateSaturated := sat } }
  s.bumpIf sat epModule C.timRateSatCnt

/-- Limit of a leader's rate against its PTP source: 100 ppm of the nominal increment, in 2^-32 ns per tick (R66). -/
def leaderLimit : Int := 6710886

/-- Rate of the reference against the source in 2^-32 ns per tick, as the offset's change since the last valid measurement shows
it: what the offset lost per tick, less the rate correction in force (R66; log entry 86). 0 without an earlier measurement. -/
def State.refRate (s : State) (o : Int) : Int :=
  match s.time.lastValid with
  | none => 0
  | some t => if s.tick ≤ t then 0 else (s.time.lastOffset16 - o) * 65536 / ((s.tick - t : Nat) : Int) - s.time.rateAdj

/-- A demand of a leader's servo with FT's rate against the PTP source, reference included, kept within R66. -/
def leaderClamp (ref demand : Int) : Int := clampInt (-leaderLimit - ref) (leaderLimit - ref) demand

/-- The servo update of a valid offset while LOCKED, with divergence (R61, R66, R71, R73); `ref` is the reference's rate against
the source before this measurement was noted. -/
def State.servoUpdate (s : State) (ref o : Int) : State :=
  let ms1 : Int := 65536000000
  let was := s.time.diverged
  let div := if was then decide (6553600000 < (o.natAbs : Int)) else decide (ms1 < (o.natAbs : Int))
  let s := { s with time := { s.time with diverged := div } }
  let s := if div && !was then s.log epModule 0x0204 (nsWord o) else s
  let far : Int := if 0 ≤ o then 1 else -1
  let free := Config.timeServo (s.parF epModule P.servoBandwidth) o s.time.rateAdj
  s.servoRate (
    if s.time.leader then leaderClamp ref (if div then 2 * far * (rateLimit + ref.natAbs) else free)
    else if div then far * rateLimit else free)

/-- Recording of a valid offset. -/
def State.noteOffset (s : State) (o : Int) : State :=
  { s with time := { s.time with
      offset := offsetWord o, lastOffset16 := o, lastValid := some s.tick, waitFrom := some s.tick, outliers := 0 } }

/-- The spread of a list of offsets lies within 1 us (R68). -/
def within1us (l : List Int) : Bool := l.all (fun a => l.all (fun b => decide ((a - b).natAbs ≤ 65536000)))

/-- A valid offset measurement in FT.16 units arrives from the time source (R64 to R73). After the first-lock step the last offset
is what is left of the measured one, the mean that the step removed taken off (DESIGN CHOICE, log entry 86). -/
def State.timeMeasure (s : State) (o : Int) : State :=
  let ref := s.refRate o
  match s.time.state with
  | .unset =>
    ({ s with time := { s.time with state := .acquiring, acquired := [o] } }.noteOffset o).tolerance
  | .acquiring =>
    let acq := (o :: s.time.acquired).take 8
    if acq.length = 8 ∧ within1us acq = true then
      let mean := (acq.foldl (· + ·) 0) / 8
      let s := { s with time := { s.time with acquired := [] } }
      let s := s.applyStep mean
      let s := s.noteOffset (o - mean)
      (s.enterLocked mean).tolerance
    else ({ s with time := { s.time with acquired := acq } }.noteOffset o).tolerance
  | .holdover => ((s.noteOffset o).enterLocked 0 |>.servoUpdate ref o).tolerance
  | .locked =>
    let since := s.tick - s.time.lastValid.getD s.tick
    let pred := Config.servoPrediction s.time.lastOffset16 since s.time.rateAdj
    if 655360000 < (o - pred).natAbs ∧ s.time.outliers < 3 then
      { s with time := { s.time with outliers := s.time.outliers + 1 } }.bump epModule C.timOutlierCnt
    else ((s.noteOffset o).servoUpdate ref o).tolerance

/-- The module becomes leader without a PTP source (R67): LOCKED without a step, rate_adj frozen at its value, and no source that
source_timeout could await. The transition from LOCKED to LOCKED is no entry to LOCKED and logs nothing, and diverged, which
names the distance from a source, is cleared with the source (DESIGN CHOICE, log entry 86). -/
def State.leadAlone (s : State) : State :=
  let t := { s.time with
    sourcePort := 0xFE, leader := true, diverged := false, acquired := [], lastValid := none, waitFrom := none }
  let s := { s with time := t }
  (if t.state = .locked then s else s.enterLocked 0).tolerance

/-- A module that is not its own source awaits a measurement: source_timeout runs from the last valid one or, where the module
was its own source until now, from this tick (R67). -/
def TimeUnit.awaits (t : TimeUnit) (tick : Nat) : TimeUnit :=
  { t with waitFrom := if t.state = .locked then some (t.waitFrom.getD tick) else t.waitFrom }

/-- The time source follows the election and the fabric (R64): the module is leader or not, PTP source port, parent port. -/
def State.setTimeSource (s : State) (leader : Bool) (ptp : Option Nat) (parent : Nat) : State :=
  if leader then
    match ptp with
    | none => s.leadAlone
    | some p => { s with time := ({ s.time with leader := true, sourcePort := BitVec.ofNat 8 p } : TimeUnit).awaits s.tick }
  else { s with time := ({ s.time with
    leader := false, sourcePort := if parent < 4 then BitVec.ofNat 8 (0x10 + parent) else 0xFF } : TimeUnit).awaits s.tick }

/-- TIME_SOURCE_TIMEOUT (R67, R75): source_timeout has passed since the last valid measurement, and none came in the tick of its
expiry. UNSET has rate_adj 0. -/
def execTimeSourceTimeout (s : State) : Out :=
  .next (
    match s.time.waitFrom with
    | none => s
    | some t =>
      if !(s.expired t (msTicks (s.parF epModule P.sourceTimeout))) then s
      else match s.time.state with
        | .acquiring =>
          ({ s with time := { s.time with
              state := .unset, stepped := false, acquired := [], lastValid := none, waitFrom := none, rateAdj := 0 } }.bump epModule C.timSourceLossCnt).tolerance
        | .locked =>
          let s := { s with time := { s.time with state := .holdover, lastValid := none, waitFrom := none } }
          let s := s.bump epModule C.timSourceLossCnt
          (s.log epModule 0x0202 (s.time.sourcePort.toNat + lowBits 32 s.time.offset * 2 ^ 64)).tolerance
        | _ => s)

/-! ### Hardware stamps (R34 to R39, R62, R63, R91) -/

/-- FT.16 of an edge: the last tick's, plus the offset in 6.4 GHz cycles and delay-line fraction (2^-8 cycle), scaled by the
tick increment / 100 (R63). -/
def State.edgeFt16 (s : State) (cycles : Int) (frac : Nat) : Ft16 :=
  let off : Int := (cycles * 256 + frac) * s.increment / 25600
  s.time.ft16 + BitVec.ofInt 48 ((off + s.time.residue.toNat) / 65536)

/-- Number of a marker path. -/
def pathNo : MarkerPath → Nat
  | .fastLatch i => i.val
  | .shuntEcho a => 0x20 + a.val
  | .fabRx p => 0x40 + p.val
  | .fabTx p => 0x50 + p.val
  | .ethRx p => 0x60 + p.val
  | .ethTx p => 0x70 + p.val
  | .frameStart d => 0x80 + d.val

/-- The fixed delay subtracted on a path, FT.16 units (R35). -/
def State.pathDelayOf (s : State) (p : MarkerPath) : Int :=
  match p with
  | .fabRx q => (s.getFabPort q.val).lat.2
  | .fabTx q => (s.getFabPort q.val).lat.1
  | .ethRx q => Config.pathDelay (pathNo p) + unitsOfNs (s.parF (epEth q.val) P.phyRxLatency)
  | .ethTx q => Config.pathDelay (pathNo p) + unitsOfNs (s.parF (epEth q.val) P.phyTxLatency)
  | _ => Config.pathDelay (pathNo p)

/-- What a path's fixed delay adds to its marker's instant (R35): an event received lies before its marker; a frame sent leaves after
it, as the prediction of R90 has it, with which its stamp is compared (R91). -/
def State.pathShift (s : State) (p : MarkerPath) : Int :=
  match p with
  | .fabTx _ | .ethTx _ => s.pathDelayOf p
  | _ => -s.pathDelayOf p

/-- The FT.8 stamp of a marker edge (R34, R62, R63). -/
def State.stampOf (s : State) (p : MarkerPath) (cycles frac : Nat) : Ft8 :=
  ((s.edgeFt16 cycles frac + BitVec.ofInt 48 (s.pathShift p)) >>> 8).truncate 40

/-- The FT.8 stamp of a marker edge as a channel measured it. -/
def State.stampEdge (s : State) (p : MarkerPath) (e : TdcEdge) : Ft8 := s.stampOf p e.cycles.val e.frac.val

/-- FT.16 of a stamp. -/
def ft16Of8 (t : Ft8) : Ft16 := (t.zeroExtend 48) <<< 8

/-- The channel of a path delivers its stamp (R34). -/
def State.putStamp (s : State) (p : MarkerPath) (t : Ft8) : State := s.modTdc (pathNo p) (fun c => { c with stamp := t })

/-- TDC_STAMP (R34): the channel delivers the stamp; a sample-echo stamp joins its axis's sample (R41). -/
def execTdcStamp (p : MarkerPath) (cycles : Fin 100) (frac : Fin 256) (s : State) : Out :=
  .next (
    let st := s.stampOf p cycles.val frac.val
    let s := s.modTdc (pathNo p) (fun c => { c with stamp := st })
    match p with
    | .shuntEcho a => s.modPwm a.val (fun w => { w with echo := (w.echo ++ [st]).take 2 })
    | _ => s)

/-- TDC_CALIBRATION (R39): 10 ms after the last refresh the tap weights of the delay lines are refreshed from the code-density
statistics, of which the spec gives no value: a free value (log entry 4). No channel is blocked. -/
def execTdcCalibration (s : State) : Out :=
  .next (
    if s.passed s.tdcCal.tick (msTicks 10) then { s.took with tdcCal := { tick := s.tick, weights := s.fresh } } else s)

/-- A predicted departure instant: the tick's FT, the cycle in which the start marker enters the pipeline, and the fixed
transmit delay (R90). -/
def State.departure (s : State) (p : MarkerPath) (cyc : Nat) : Ft16 :=
  s.edgeFt16 cyc 0 + BitVec.ofInt 48 (s.pathDelayOf p)

/-- A stamp differs from the predicted departure by more than 40 ps (R91). -/
def txMismatch (pred : Ft16) (stamp : Ft8) : Bool :=
  decide (40 * 256 < (ft8Diff stamp ((pred >>> 8).truncate 40)).natAbs * 1000)

/-- TIM_TXP_ERR of a port: 0-1 Ethernet, 2-5 fabric (R91). -/
def State.checkTx (s : State) (no : Nat) (pred : Ft16) (stamp : Ft8) : State :=
  s.bumpIf (txMismatch pred stamp) epModule C.timTxpErr no

end Sys2Proof.Machine
end

