-- ==== Sys2Proof/Machine/Feedback.lean ====
section
/-! DEFINITION. Position and speed feedback (03_feedback.md): quadrature, index, serial words, LSP, Hall inputs, speed,
freeze and the feedback states (R94 to R166). -/

namespace Sys2Proof.Machine

/-- FT.8 units of a number of nanoseconds, truncated. -/
def ft8Ns (r : Rat) : BitVec 40 := BitVec.ofInt 40 ((r * 256).floor)

/-- Ticks of a number of nanoseconds. -/
def nsTicks (r : Rat) : Rat := r * 64 / 1000

/-- Nominal delay of the quadrature filter, (quad_filter + 2) × 2.5 ns (R101). -/
def State.quadDelay (s : State) (i : Nat) : Rat := ((s.par i P.quadFilter : Rat) + 2) * 5 / 2

/-- FT.8 stamp of a filter clock: clock `clk` of those since the last tick, `back` clocks before it (R38). A filter clock lasts 16
cycles of 6.4 GHz. -/
def State.clockFt8 (s : State) (clk back : Nat) : Ft8 := ((s.edgeFt16 (16 * ((clk : Int) - back)) 0) >>> 8).truncate 40

/-- A stamped value (R34). -/
def State.stamped (s : State) (t : Ft8) (v : Int) : Stamped := { ft8 := t, val := v, xt := s.xtOfFt8 t }

/-- More than `limit` events within 10 ms, of which the newest `limit + 1` stamps are kept (R100, R147). The local ticks rule out
stamps whole turns of FT apart. -/
def tooMany (limit : Nat) (l : List (Ft8 × Nat)) : Bool :=
  match l.head?, l[limit]? with
  | some a, some b => decide ((a.1 - b.1).toNat < 2560000000) && decide (a.2 - b.2 ≤ 640001)
  | _, _ => false

/-! ### Loss (R159 to R165) -/

/-- A loss of feedback with a cause of loss_cause's table (R159 to R165). A further cause of the same sample joins it; the record
is written when the sample ends (R160, log entry 65). -/
def State.fbLoss (s : State) (i code : Nat) : State :=
  let f := s.getFb i
  if f.state = .valid ∨ f.state = .extrapolated then
    let s := s.setFb i { f with
      state := .lost, lossCause := code, uncertain := true, sampleCauses := [code], lossPos := some (s.axisPos i) }
    let s := s.modTrail i (fun t => { t with homed := false })
    let s := s.bump i C.fbkLoss
    let v := rabs ((s.getFoc i).obs.omega / (twoPi * s.par i P.polePairs))
    let slow := s.par i P.hfiEnable == 0 && decide (v < s.parF i P.hfiCrossover * s.parF i P.ratedSpeed / s.parF i P.unitPerTurn)
    if s.par i P.fbLossAction = 0 ∧ !slow then
      let s := s.modFb i (fun f => { f with state := .substituted, substituted := true })
      s.log i 0x0304 (q64 (s.axisPos i) + dat 8 (q64 (s.getFb i).vel))
    else s.axisFault i 5
  else if f.lossPos.isSome && !f.sampleCauses.contains code then
    s.setFb i { f with lossCause := min code f.lossCause, sampleCauses := code :: f.sampleCauses }
  else s

/-- The sample ends: FEEDBACK_LOST with every cause of a loss in it, and FBK_FREEZE where FREEZE is the one recorded (R160, R166). -/
def State.lossReport (s : State) (i : Nat) : State :=
  let f := s.getFb i
  match f.lossPos with
  | none => s.setFb i { f with sampleCauses := [] }
  | some p =>
    let s := (s.setFb i { f with sampleCauses := [], lossPos := none }).bumpIf (f.lossCause == 3) i C.fbkFreeze
    s.log i 0x0303 (f.lossCause + dat 1 (causeMask f.sampleCauses) + dat 8 (q64 p))

/-- Feedback is good again in substitution: FEEDBACK_RESTORED once (R164). -/
def State.fbRestored (s : State) (i : Nat) : State :=
  let f := s.getFb i
  if f.state = .substituted ∧ f.restored = false then (s.setFb i { f with restored := true }).log i 0x0305 4 else s

/-! ### Quadrature (R97 to R109) -/

/-- Place of a level pair in the forward sequence 00, 10, 11, 01. -/
def quadPlace (a b : Bool) : Nat :=
  match a, b with
  | false, false => 0
  | true, false => 1
  | true, true => 2
  | false, true => 3

/-- Position of a count (R103). A count beyond Q32.32 saturates (DESIGN CHOICE, log entry 88). -/
def countPos (c : Int) (cpt : Nat) : Q32 := satInt 64 (c * 4294967296 / cpt)

/-- A line under test: its level sampled once more, and for how many filter clocks it is now unchanged (R97). -/
def lineHeld (was now : Bool) (n : Nat) : Nat := if was = now then min 255 (n + 1) else 1

/-- The filtered sample of a filter clock: levels under test, and the accepted ones of R97. -/
def QuadDecoder.sampled (q : QuadDecoder) (filter : Nat) (l : Bool × Bool × Bool) : QuadDecoder :=
  let na := lineHeld q.cand.1 l.1 q.held.1
  let nb := lineHeld q.cand.2.1 l.2.1 q.held.2.1
  let nx := lineHeld q.cand.2.2 l.2.2 q.held.2.2
  let acc (n : Nat) (new old : Bool) : Bool := if filter ≤ n then new else old
  { q with cand := l, held := (na, nb, nx)
           levels := (acc na l.1 q.levels.1, acc nb l.2.1 q.levels.2.1, acc nx l.2.2 q.levels.2.2) }

/-- The index count of a counting edge within the accepted pulse, once for each pulse: after the edge when the count rises, before
it when it falls, and in mode 2 within the quadrant with A and B high (R105). `p0`: the place before the edge. -/
def QuadDecoder.index (q : QuadDecoder) (mode p0 : Nat) (up : Bool) (st : Ft8) : QuadDecoder :=
  let place := if up then quadPlace q.levels.1 q.levels.2.1 else p0
  if q.levels.2.2 && !q.pulseDone && mode != 0 && (mode == 1 || place == 2) then
    { q with pulse := some (if up then q.count else q.count + 1, st), indexStamp := st, pulseDone := true }
  else q

/-- One filter clock of a quadrature input with its stamp (R97 to R101, R105). -/
def State.filterClock (s : State) (i : Nat) (l : Bool × Bool × Bool) (now : Ft8) : State :=
  let was := s.getQuad i
  let q := was.sampled (s.par i P.quadFilter) l
  let q := if q.levels.2.2 then q else { q with pulseDone := false }
  let p0 := quadPlace was.levels.1 was.levels.2.1
  let d := (quadPlace q.levels.1 q.levels.2.1 + 4 - p0) % 4
  if s.par i P.fbSource ≠ 1 ∨ d = 0 then s.setQuad i q
  else if d = 2 then
    let n := s.par i P.quadErrLimit
    let e := ((now, s.tick) :: q.illegal).take (n + 1)
    let s := (s.setQuad i { q with illegal := e }).bump i C.fbkQuadErr
    if tooMany n e then s.fbLoss i 1 else s
  else
    let up := (d == 1) != (s.par i P.quadInvert == 1)
    let step : Int := if up then 1 else -1
    let st := s.stamped (now - ft8Ns (s.quadDelay i)) step
    let q := { q with
      count := wrapInt 64 (q.count + step), edges := (st :: q.edges).take 5, zeroSpeed := false, lastEdge := s.tick }
    (s.setQuad i (q.index (s.par i P.indexMode) p0 up st.ft8)).fbRestored i

/-- Filter clocks with the lines at one level, the last of them clock `clk`. -/
def State.filterRun (i : Nat) (l : Bool × Bool × Bool) (clk : Nat) : Nat → State → State
  | 0, s => s
  | n + 1, s => State.filterRun i l clk n (s.filterClock i l (s.clockFt8 clk n))

/-- QUAD_EDGE (R97 to R101): the filter clocks up to the filtered sample in which A, B or both changed. -/
def execQuadEdge (axis : Fin 32) (lines : QuadLines) (span : FilterSpan 1024) (s : State) : Out :=
  .next (if s.driveOn then State.filterRun axis.val (lines.a, lines.b, lines.index) span.clk.val span.clocks.val s else s)

/-- An index count meets the reference (R106 to R109). Of two values equally near the upper one is taken (DESIGN CHOICE, log
entry 88). -/
def State.indexEvent (s : State) (i : Nat) (c : Int) : State :=
  let q := s.getQuad i
  let k : Int := s.par i P.countsPerTurn
  if !q.indexSeen then s.setQuad i { q with indexSeen := true, indexRef := c }
  else
    let near := q.indexRef + (2 * (c - q.indexRef) + k) / (2 * k) * k
    let e := c - near
    if e = 0 then s
    else if e = 1 ∨ e = -1 then
      (s.setQuad i { q with count := q.count - e, correction := q.correction - e }).bump i C.fbkIndexCorr
    else
      let s := (s.bump i C.fbkIndexMismatch).log i 0x0301 (q64 c + dat 8 (q64 near))
      if s.par i P.indexMismatchAction = 1 then s.fbLoss i 4 else s

/-- Homing in its INDEX phase takes the index count as the home event (R361). -/
def State.indexHome (s : State) (i : Nat) (c : Int) (st : Ft8) : State :=
  let t := s.getTrail i
  if t.phase = .index ∧ t.homeEvent = none then
    s.setTrail i { t with homeEvent := some (satInt 64 (countPos c (s.par i P.countsPerTurn) + t.posOffset), st, c) }
  else s

/-- INDEX_PULSE (R105 to R109, R361): the index count of the accepted pulse. -/
def execIndexPulse (axis : Fin 32) (s : State) : Out :=
  .next (
    let i := axis.val
    match (s.getQuad i).pulse with
    | none => s
    | some (c, st) =>
      let s := s.modQuad i (fun q => { q with pulse := none })
      if s.par i P.fbSource ≠ 1 ∨ s.par i P.indexMode = 0 then s
      else if (s.getLoop i).state = .disabled then s.indexHome i c st
      else (s.indexHome i c st).indexEvent i c)

/-! ### Serial words (R110 to R127) -/

/-- Counter of a class of bad words. -/
def WordClass.counter : WordClass → Nat
  | .crc => C.fbkWordCrc
  | .errorBit => C.fbkWordErrbit
  | .timeout => C.fbkWordTimeout
  | .frame => C.fbkWordFrame
  | .jump => C.fbkWordJump

/-- Class code of FEEDBACK_WORD_BAD. -/
def WordClass.code : WordClass → Nat
  | .crc => 1
  | .errorBit => 2
  | .timeout => 3
  | .frame => 4
  | .jump => 5

/-- FEEDBACK_WORD_BAD for the first bad word after an enable, then a summary at least 1 s after the last record (R119). -/
def State.logWordBad (s : State) (i : Nat) (c : WordClass) : State :=
  let p := s.getSerial i
  if !p.badArmed then s
  else match p.lastBadLog with
  | none => (s.setSerial i { p with badSince := [], lastBadLog := some s.tick }).log i 0x0302 c.code
  | some t =>
    let l := c :: p.badSince
    if s.expired t 64000000 then
      let n (k : WordClass) := min 65535 (l.filter (· = k)).length
      let data := 0xFF + dat 2 (n .crc) + dat 4 (n .errorBit) + dat 6 (n .timeout) + dat 8 (n .frame) + dat 10 (n .jump)
      (s.setSerial i { p with badSince := [], lastBadLog := some s.tick }).logFull s.ft8 i 0x0302 (min 65535 l.length) data
    else s.setSerial i { p with badSince := l }

/-- Position time of the word of the read in progress (R112, R144), XT.16. Before any good IDENT the latch delay of an LSP sensor is
taken as 0 (DESIGN CHOICE, log entry 88). -/
def State.wordTime (s : State) (i : Nat) : Nat :=
  let p := s.getSerial i
  let latch : Rat := if s.par i P.fbSource = 2 then s.parF i P.ssiLatchDelay
    else match p.ident with
      | some d => (d.latchDelay : Rat)
      | none => 0
  ((p.startXt : Int) + unitsOfNs (s.parF i P.serialLineDelay + latch)).toNat

/-- Extrapolation of a position to a time (R115). -/
def extrapolate (p v : Q32) (dt : Int) : Q32 := satInt 64 (p + (ofQ32 v * secOf dt * pow2 32).floor)

/-- Speed over the last m reads (R149). -/
def serialSpeed (m : Nat) (h : List (Int × Int)) : Q32 :=
  match h.head?, (h[m]?.or h.getLast?) with
  | some a, some b => if a.2 = b.2 then 0 else toQ32 (ofQ32 (a.1 - b.1) / secOf (a.2 - b.2))
  | _, _ => 0

/-- The last read's position extrapolated to a time with the speed of the reads (R114, R115); none before the first read. -/
def State.readAhead (s : State) (i : Nat) (t : Nat) : Option Q32 :=
  let h := (s.getSerial i).history
  h.head?.map (fun x => extrapolate x.1 (serialSpeed (s.par i P.speedWindow) h) ((t : Int) - x.2))

/-- A position of a read, good or substituted, joins the reads (R115, R149). -/
def State.pushRead (s : State) (i : Nat) (p : Q32) (t : Nat) : State :=
  s.modSerial i (fun x => { x with history := ((p, (t : Int)) :: x.history).take 17 })

/-- A position of a read becomes the measured one, with the speed over the last reads (R115, R149). -/
def State.takePosition (s : State) (i : Nat) (p : Q32) (t : Nat) : State :=
  let s := s.pushRead i p t
  let v := serialSpeed (s.par i P.speedWindow) (s.getSerial i).history
  s.modFb i (fun f => { f with pos := p, posXt := t, vel := v })

/-- A read is bad (R114 to R116, R119). -/
def State.badWord (s : State) (i : Nat) (c : WordClass) : State :=
  let t := s.wordTime i
  let s := s.modSerial i (fun p => { p with outstanding := none, wordTaken := true })
  let s := s.bump i c.counter
  let s := s.logWordBad i c
  match (s.getFb i).state with
  | .valid =>
    let s := s.bump i C.fbkSubst
    let s := s.takePosition i ((s.readAhead i t).getD (s.getFb i).pos) t
    s.modFb i (fun f => { f with state := .extrapolated })
  | .extrapolated => s.fbLoss i 2
  | _ => s

/-- The raw value of a word unwrapped against the previous one (R113). -/
def State.unwrapRaw (s : State) (i raw : Nat) : Int :=
  let p := s.getSerial i
  let w := s.par i P.stBits + s.par i P.mtBits
  match p.raw with
  | some r => p.unwrapped + signedOf w ((raw + 2 ^ w - r) % 2 ^ w)
  | none => raw

/-- Position of an unwrapped value (R113). -/
def State.rawPos (s : State) (i : Nat) (u : Int) : Q32 := satInt 64 (u * 4294967296 / 2 ^ s.par i P.stBits)

/-- The word's position lies further than jump_limit from the extrapolated one (R114). -/
def State.jumps (s : State) (i raw : Nat) : Bool :=
  match s.readAhead i (s.wordTime i) with
  | some x => decide (s.parF i P.jumpLimit < ofQ32 (s.rawPos i (s.unwrapRaw i raw) - x).natAbs)
  | none => false

/-- A word that checks: JUMP, or good, with its position and the states of R159 (R113, R114, R164, R165). Where no loop uses the
feedback, the reads go on from a word that jumped (DESIGN CHOICE, log entry 88). -/
def State.goodWord (s : State) (i raw : Nat) : State :=
  let u := s.unwrapRaw i raw
  let pos := s.rawPos i u
  let t := s.wordTime i
  let keep (s : State) : State := s.modSerial i (fun p => { p with raw := some raw, unwrapped := u })
  let st := (s.getFb i).state
  if s.jumps i raw then
    let s := s.badWord i .jump
    if st = .valid ∨ st = .extrapolated then s else (keep s).modSerial i (fun p => { p with history := [(pos, (t : Int))] })
  else
    let s := keep (s.modSerial i (fun p => { p with outstanding := none, wordTaken := true }))
    match st with
    | .substituted => (s.pushRead i pos t).fbRestored i
    | .lost => s.pushRead i pos t
    | .off =>
      let s := s.takePosition i pos t
      let l := (s.getLoop i).state
      if l = .enabling ∨ l = .enabled ∨ l = .stopping then s.modFb i (fun f => { f with state := .valid, uncertain := false })
      else s
    | _ => (s.takePosition i pos t).modFb i (fun f => { f with state := .valid })

/-- The frame bit of an index; the bit clocked first has the highest index. -/
def ssiBit (bs : List Bool) (k : Nat) : Bool := bs.reverse.getD k false

/-- Gray code to binary over `w` bits. -/
def grayToBin (w v : Nat) : Nat := (List.range w).foldl (fun a k => Nat.xor a (v / 2 ^ k)) 0

/-- The raw value of an SSI frame, or its class of fault (R121 to R125). -/
def State.decodeSsi (s : State) (i : Nat) (bs : List Bool) : WordClass ⊕ Nat :=
  let n := s.par i P.ssiFrameBits
  let cw := s.par i P.ssiCrcWidth
  let w := s.par i P.stBits + s.par i P.mtBits
  if bs.length ≠ n then .inl .frame
  else
    let crc := crcMsb cw (s.par i P.ssiCrcPoly) (s.par i P.ssiCrcInit) (bs.take (n - cw))
    let crc := if s.par i P.ssiCrcInvert = 1 then 2 ^ cw - 1 - crc else crc
    let got := (List.range cw).foldl (fun a k => a + b2n (ssiBit bs k) * 2 ^ k) 0
    let eb := s.par i P.ssiErrBit
    if cw ≠ 0 ∧ got ≠ crc then .inl .crc
    else if eb ≠ 0xFF ∧ b2n (ssiBit bs eb) = s.par i P.ssiErrLevel then .inl .errorBit
    else
      let v := (List.range w).foldl (fun a k => a + b2n (ssiBit bs (s.par i P.ssiPosLsb + k)) * 2 ^ k) 0
      .inr (if s.par i P.ssiGray = 1 then grayToBin w v else v)

/-- CRC-16 of LSP (R139). -/
def lspCrc (l : List Byte) : Nat := crcMsb 16 0x1021 0xFFFF (l.flatMap byteBits)

/-- Command code of an LSP request (R133). -/
def LspRequest.code : LspRequest → Nat
  | .pos => 1
  | .posAux => 2
  | .ident => 3
  | .clearErr => 4

/-- Bytes of the position field (R138). -/
def State.lspPosBytes (s : State) (i : Nat) : Nat := (s.par i P.stBits + s.par i P.mtBits + 7) / 8

/-- Data bytes of a response. -/
def State.lspDataBytes (s : State) (i : Nat) : LspRequest → Nat
  | .pos => s.lspPosBytes i
  | .posAux => s.lspPosBytes i + 2
  | .ident => 8
  | .clearErr => 0

/-- The line levels of a character: a start bit at 0, eight data bits with the least significant first, a stop bit at 1 (R130). -/
def charBits (b : Nat) : List Bool := false :: (List.range 8).map (bitOf b) ++ [true]

/-- The line levels of a request, bit by bit: the command byte and its complement (R130, R133). -/
def LspRequest.wave (r : LspRequest) : List Bool := charBits (0xA0 + r.code) ++ charBits (0xFF - (0xA0 + r.code))

/-- Level of the receive line in a filter clock; a line that is not driven reads 1 (R128). -/
def lineLevel : List (Bool × Nat) → Nat → Bool
  | [], _ => true
  | (v, n) :: t, k => if k < n then v else lineLevel t (k - n)

/-- Filter clocks with a falling edge; `was` is the level before clock `k`. -/
def lineFalls : Bool → Nat → List (Bool × Nat) → List Nat
  | _, _, [] => []
  | was, k, (v, n) :: t =>
    if n = 0 then lineFalls was k t
    else if was && !v then k :: lineFalls v (k + n) t
    else lineFalls v (k + n) t

/-- The line as the receiver sees it: ignored, that is 1, for the first `m` filter clocks, while the driver enable is asserted (R134). -/
def lineMasked : Nat → List (Bool × Nat) → List (Bool × Nat)
  | _, [] => []
  | m, (v, n) :: t => (true, min m n) :: (v, n - m) :: lineMasked (m - n) t

/-- Centre of bit `j` of a character whose start bit falls in clock `f`; a bit lasts lsp_baud_div ticks, 6.25 filter clocks each. -/
def bitCentre (div f j : Nat) : Nat := f + (2 * j + 1) * 25 * div / 8

/-- A bit: the majority of three filter-clock samples at its centre (R131). -/
def bitAt (div : Nat) (l : List (Bool × Nat)) (f j : Nat) : Bool :=
  let c := bitCentre div f j
  let a := lineLevel l (c - 1)
  let b := lineLevel l c
  let d := lineLevel l (c + 1)
  (a && b) || (a && d) || (b && d)

/-- The characters of a response from its falling edges, and whether every start bit followed the stop bit before it with no more
than 2 bit times of idle and every stop bit was 1 (R131, R132). `busy`: the clock until which a character is being received; `last`:
end of the previous character in half clocks. A start bit that is 1 at its centre is ignored. -/
def lspRead (div : Nat) (l : List (Bool × Nat)) : Nat → Option Nat → List Nat → List Byte × Bool
  | _, _, [] => ([], true)
  | busy, last, f :: t =>
    if f < busy then lspRead div l busy last t
    else if bitAt div l f 0 then lspRead div l busy last t
    else
      let v := (List.range 8).foldl (fun a j => a + b2n (bitAt div l f (j + 1)) * 2 ^ j) 0
      let gap := match last with
        | some e => decide (2 * f ≤ e + 25 * div)
        | none => true
      let r := lspRead div l (bitCentre div f 9) (some (2 * f + 125 * div)) t
      (BitVec.ofNat 8 v :: r.1, gap && bitAt div l f 9 && r.2)

/-- The characters on the receive line from the request's start edge on; the driver enable is asserted for the 20 bit times of the
request (R134). -/
def lspChars (div : Nat) (line : List (Bool × Nat)) : List Byte × Bool :=
  let l := lineMasked (125 * div) line
  lspRead div l 0 none (lineFalls true 0 l)

/-- The data of an LSP response, or its class of fault (R132, R137 to R140). An IDENT answer with e = 1 counts as good (DESIGN CHOICE,
log entry 88). -/
def State.decodeLsp (s : State) (i : Nat) (r : LspRequest) (bytes : List Byte) (framed : Bool) : WordClass ⊕ List Byte :=
  let n := s.lspDataBytes i r
  let st := (bytes.headD 0).toNat
  if !framed || bytes.length != n + 3 then .inl .frame
  else if leField bytes (n + 1) 2 ≠ lspCrc (bytes.take (n + 1)) then .inl .crc
  else if bits st 3 0 ≠ r.code then .inl .frame
  else if bitOf st 7 && r != .ident && r != .clearErr then .inl .errorBit
  else .inr ((bytes.drop 1).take n)

/-- A servo axis is enabled after its checks: ENABLING begins (R232, R241, R319, R251). -/
def State.beginEnabling (s : State) (i : Nat) : State :=
  let s := (List.range 8).foldl (fun s k => s.setInitRegion i k) s
  let s := s.modLoop i (fun l => { l with
    state := .enabling, enableStep := 0, enableTick := s.tick, enableFrom := s.tick, faultCause := 0, causes := []
    stop := none, stopReq := none, disablePending := false, iqRef := 0, tr := 0, load := 0, vr := 0, wh := 0, holding := false })
  let s := s.modFlags i (fun f => { f with hooksBypassed := false, satRun := 0, dcLowRun := 0, starved := false, speedLimited := false,
                                           torqueLimited := false, outputSaturated := false,
                                           starvedSince := none, slowSince := none, standstill := false })
  let s := s.modTrail i (fun t => { t with lastNum := 0, lastWaymark := 0 })
  let s := s.modSerial i (fun p => { p with badSince := [], lastBadLog := none, badArmed := true, identTries := 0 })
  let s := s.modFb i (fun f => { f with
    state := if s.par i P.fbSource = 1 then .valid else .off, lossCause := 0, sampleCauses := [], lossPos := none, restored := false
    frozenSince := none })
  s.lowGates i

/-- An LSP request leaves the port; its driver enable is asserted for the 20 bits of the request (R133, R134). -/
def State.lspSend (s : State) (i : Nat) (r : LspRequest) (startXt : Nat) : State :=
  s.modSerial i (fun p => { p with
    outstanding := some r, startXt := startXt, startTick := s.tick, sent := p.sent ++ [r.wave]
    driveEnd := s.tick + 20 * s.par i P.lspBaudDiv })

/-- AXIS_ENABLE waits for IDENT (R142): the next request, or E_FAULT_AXIS with FEEDBACK_ABSENT after the third. -/
def State.identNext (s : State) (i : Nat) : State :=
  let p := s.getSerial i
  if p.identTries < 3 then
    (s.setSerial i { p with identTries := p.identTries + 1 }).lspSend i .ident s.xt16
  else
    let s := s.setSerial i { p with identTries := 0, outstanding := none }
    (s.unplaceAxis i).complete i opEnable (servoFault 6).1 (servoFault 6).2

/-- A good IDENT answer (R142 to R144). -/
def State.identGood (s : State) (i : Nat) (d : List Byte) : State :=
  let id : LspIdent := { type := BitVec.ofNat 16 (leField d 0 2), stBits := leField d 2 1, mtBits := leField d 3 1,
                         latchDelay := leField d 4 2, minDiv := leField d 6 1 }
  let s := s.modSerial i (fun p => { p with ident := some id, outstanding := none, identTries := 0 })
  if id.stBits ≠ s.par i P.stBits ∨ id.mtBits ≠ s.par i P.mtBits ∨ s.par i P.lspBaudDiv < id.minDiv then
    (s.unplaceAxis i).complete i opEnable E.conflict
  else s.beginEnabling i

/-- Local time of the last clock edge of an SSI burst that begins now, in 1/8 ns: of its ssi_frame_bits cycles of ssi_clock_div × 5 ns
the last rises half a cycle before the end (R126). -/
def State.lastEdge (s : State) (i : Nat) : Nat :=
  125 * s.tick + (2 * s.par i P.ssiFrameBits - 1) * (20 * s.par i P.ssiClockDiv)

/-- ssi_recovery has elapsed since the last clock edge of the previous burst (R126). -/
def State.recovered (s : State) (i : Nat) : Bool :=
  decide (((s.getSerial i).lastClock : Rat) + 8000 * s.parF i P.ssiRecovery ≤ 125 * s.tick)

/-- SERIAL_READ_START (R110, R122, R126, R133, R144). -/
def execSerialReadStart (axis : Fin 32) (lineHigh : Bool) (s : State) : Out :=
  .next (
    let i := axis.val
    let p := s.getSerial i
    let start := (s.getPwm i).updateXt + s.par i P.serialStart * tickUnits
    let due := s.driveOn && (s.getPwm i).sample % s.par i P.serialRatio == 0 && p.outstanding.isNone
    match s.par i P.fbSource with
    | 2 =>
      if !due || !s.recovered i then s
      else
        let s := s.setSerial i { p with startXt := start, startTick := s.tick, wordTaken := false, outstanding := some .pos }
        if lineHigh then s.modSerial i (fun p => { p with lastClock := s.lastEdge i })
        else s.badWord i .timeout
    | 3 =>
      if !due then s
      else (s.setSerial i { p with wordTaken := false }).lspSend i (if s.par i P.lspAux = 1 then .posAux else .pos) start
    | _ => s)

/-- SERIAL_WORD_DECODED (R113 to R119, R140 to R144): the word of the outstanding read. -/
def execSerialWordDecoded (axis : Fin 32) (word : SerialWord) (s : State) : Out :=
  .next (
    let i := axis.val
    match (s.getSerial i).outstanding, word with
    | none, _ => s
    | some _, .ssi bs =>
      match s.decodeSsi i bs with
      | .inl c => s.badWord i c
      | .inr v => s.goodWord i v
    | some r, .lsp line =>
      let rx := lspChars (s.par i P.lspBaudDiv) line
      match s.decodeLsp i r rx.1 rx.2 with
      | .inl c =>
        if r = .ident then s.identNext i
        else if r = .clearErr then s.modSerial i (fun p => { p with outstanding := none })
        else s.badWord i c
      | .inr d =>
        match r with
        | .ident => s.identGood i d
        | .clearErr => s.modSerial i (fun p => { p with outstanding := none })
        | _ =>
          let warn := bitOf (rx.1.headD 0).toNat 6
          let n := s.lspPosBytes i
          let raw := leField d 0 n % 2 ^ (s.par i P.stBits + s.par i P.mtBits)
          let s := if s.jumps i raw then s else (s.bumpIf warn i C.fbkLspWarn).modSerial i (fun p => { p with
            lspWarning := warn, auxValue := if r = .posAux then leField d n 2 else p.auxValue })
          s.goodWord i raw)

/-- LSP_WORD_TIMEOUT (R141, R142). -/
def execLspWordTimeout (axis : Fin 32) (s : State) : Out :=
  .next (
    let i := axis.val
    let p := s.getSerial i
    if s.par i P.fbSource ≠ 3 ∨ !(s.expired p.startTick (nsTicks (s.parF i P.lspWordTimeout))) then s
    else match p.outstanding with
      | none => s
      | some .ident => s.identNext i
      | some .clearErr => s.setSerial i { p with outstanding := none }
      | some _ => s.badWord i .timeout)

/-- LSP_UNSOLICITED_CHAR (R118): the environment says the character belongs to no outstanding request (log entry 5). The receiver
is ignored while the driver enable is asserted (R134). -/
def execLspUnsolicitedChar (axis : Fin 32) (s : State) : Out :=
  .next (s.bumpIf (decide ((s.getSerial axis.val).driveEnd ≤ s.tick)) axis.val C.fbkUnsolicited)

/-- LSP_CLEAR_ERR (R144). While another request is outstanding the command is dropped (DESIGN CHOICE, log entry 88). -/
def execLspClearErr (axis : Fin 32) (s : State) : Out :=
  .next (if s.par axis.val P.fbSource = 3 ∧ (s.getSerial axis.val).outstanding = none
    then s.lspSend axis.val .clearErr s.xt16 else s)

/-! ### Hall inputs (R146 to R148) -/

/-- Place of a Hall state in hall_map. -/
def hallPlace (map st : Nat) : Option Nat := (List.range 6).find? (fun k => bits map (3 * k + 2) (3 * k) == st)

/-- A Hall error with its stamp (R146, R147): the drive whose hall_fault sets goes on sensorless. -/
def State.hallError (s : State) (j : Nat) (now : Ft8) : State :=
  let a := s.getAux j
  let n := s.par (epAux j) P.hallErrLimit
  let l := ((now, s.tick) :: a.hall.errors).take (n + 1)
  let s := (s.setAux j { a with hall := { a.hall with errors := l } }).bump (epAux j) C.fbkHallErr
  if tooMany n l && !a.hall.fault then
    let s := s.modAux j (fun a => { a with hallInUse := false, hall := { a.hall with fault := true } })
    s.log (epAux j) 0x0306 (s.count (epAux j) C.fbkHallErr)
  else s

/-- The Hall inputs held at their levels for some filter clocks: an input is accepted once held for hall_filter, 400 clocks a
microsecond (R146). -/
def Hall.sampled (h : Hall) (filter level clocks : Nat) : Hall :=
  let held (k n : Nat) : Nat := min 131072 (if bitOf h.cand k = bitOf level k then n + clocks else clocks)
  let n1 := held 0 h.held.1
  let n2 := held 1 h.held.2.1
  let n3 := held 2 h.held.2.2
  let acc (k n : Nat) : Nat := b2n (if 400 * filter ≤ n then bitOf level k else bitOf h.state k) * 2 ^ k
  { h with cand := level, held := (n1, n2, n3), state := acc 0 n1 + acc 1 n2 + acc 2 n3 }

/-- HALL_EDGE (R146 to R148). The stamp leaves out hall_filter and two filter clocks, the rule of R101. -/
def execHallEdge (aux : Fin 16) (lines : HallLines) (s : State) : Out :=
  .next (
    let j := aux.val
    let ep := epAux j
    let was := (s.getAux j).hall.state
    let now := s.clockFt8 lines.span.clk.val 0
    if !s.driveOn then s
    else
    let s := s.modAux j (fun a => { a with hall := a.hall.sampled (s.par ep P.hallFilter) lines.st.val lines.span.clocks.val })
    let h := (s.getAux j).hall
    if h.state = was then s
    else match hallPlace (s.par ep P.hallMap) h.state with
    | none => s.hallError j now
    | some k =>
      let next (d : Int) : Hall :=
        let t := now - ft8Ns ((s.par ep P.hallFilter : Rat) * 1000 + 5)
        let es := (s.stamped t d :: h.edges).take 2
        let speed : Q32 := match es with
          | a :: b :: _ => if a.val = b.val ∧ a.val ≠ 0 ∧ b.xt < a.xt then toQ32 ((d : Rat) / 6 / secOf ((a.xt : Int) - b.xt)) else 0
          | _ => 0
        { h with sector := some k, edges := es, speed := speed
                 angle := fixFloor 32 (s.parF ep P.hallOffset / 360 + (k : Rat) / 6) }
      match h.sector with
      | none => s.modAux j (fun a => { a with hall := next 0 })
      | some o =>
        let d := (k + 6 - o) % 6
        if d = 0 then s
        else if d = 1 then s.modAux j (fun a => { a with hall := next 1 })
        else if d = 5 then s.modAux j (fun a => { a with hall := next (-1) })
        else s.hallError j now)

/-! ### Speed (R149 to R155) and freeze (R156, R157) -/

/-- Count-difference speed of the latched counts, without the index correction of the sample (R150, R109). -/
def State.speedCd (s : State) (i : Nat) : Rat :=
  let q := s.getQuad i
  let m := s.par i P.speedWindow
  match q.latched.head?, (q.latched[m]?.or q.latched.getLast?) with
  | some a, some b =>
    if a.2.1 = b.2.1 then 0
    else ((a.1 - b.1 - a.2.2 : Int) : Rat) / (s.par i P.countsPerTurn) / secOf (a.2.1 - b.2.1)
  | _, _ => 0

/-- Period speed at a sample time (R151, R152). -/
def State.speedPd (s : State) (i : Nat) (t : Int) : Rat :=
  let q := s.getQuad i
  if q.zeroSpeed then 0
  else match q.edges with
    | e0 :: e1 :: e2 :: e3 :: e4 :: _ =>
      if e0.val = e1.val ∧ e1.val = e2.val ∧ e2.val = e3.val ∧ e3.val = e4.val then
        let d : Int := (e0.xt : Int) - e4.xt
        let gap := t - e3.xt
        let cpt : Rat := s.par i P.countsPerTurn
        let per (x : Int) : Rat := 4 / (cpt * secOf x)
        if d ≤ 0 then 0 else (e0.val : Rat) * (if d < gap then per gap else per d)
      else 0
    | _ => 0

/-- The changeover speed (R153, R155). -/
def State.changeover (s : State) (i : Nat) : Rat :=
  let c := s.parF i P.speedChange
  if c = 0 then 16 * (64000000 / (s.par i P.curPeriodTicks : Rat)) / (s.par i P.countsPerTurn) else c

/-- Measured position, speed and position time of a quadrature axis at a current sample (R102, R103, R149 to R154). -/
def State.quadSample (s : State) (i : Nat) : State :=
  let q := s.getQuad i
  match q.latched with
  | [] => s
  | (c, t, _) :: _ =>
    let v := rabs (ofQ32 (s.getFb i).vel)
    let x := s.changeover i
    let h := s.parF i P.speedHyst / 200
    let cd := if q.cdMethod then !(decide (v < x * (1 - h))) else decide (x * (1 + h) < v)
    let w := if cd then min 8 (q.blend + 1) else q.blend - 1
    let vv := if q.zeroSpeed then 0 else (1 - (w : Rat) / 8) * s.speedPd i t + (w : Rat) / 8 * s.speedCd i
    let s := s.setQuad i { q with cdMethod := cd, blend := w }
    s.modFb i (fun f => { f with pos := countPos c (s.par i P.countsPerTurn), posXt := t.toNat, vel := toQ32 vv })

/-- The freeze condition followed at a current sample with the observer's speed in turns/s (R156, R157): since which sample the value
is held with the observer running above freeze_speed. -/
def State.watchFreeze (s : State) (i : Nat) (obsSpeed : Rat) : State :=
  let f := s.getFb i
  let v : Int := if s.par i P.fbSource = 1 then (s.getQuad i).count else ((s.getSerial i).raw.getD 0 : Nat)
  let runs := match (s.getLoop i).state with
    | .enabling | .enabled | .stopping => true
    | _ => false
  let on := runs && s.par i P.obsEnable == 1 && s.par i P.fbSource != 0 && decide (s.parF i P.freezeSpeed < rabs obsSpeed)
  s.setFb i { f with freezeVal := v, frozenSince :=
    if !on then none else if v = f.freezeVal then some (f.frozenSince.getD s.tick) else some s.tick }

/-- FREEZE (R156). -/
def execFreeze (axis : Fin 32) (s : State) : Out :=
  .next (
    match (s.getFb axis.val).frozenSince with
    | some t => if s.passed t (msTicks (s.parF axis.val P.freezeTime)) then s.fbLoss axis.val 3 else s
    | none => s)

/-- ZERO_SPEED (R152). -/
def execZeroSpeed (axis : Fin 32) (s : State) : Out :=
  .next (
    let q := s.getQuad axis.val
    if s.passed q.lastEdge (msTicks (s.parF axis.val P.zeroSpeedTime)) then s.setQuad axis.val { q with zeroSpeed := true } else s)

end Sys2Proof.Machine
end

