-- ==== Sys2Proof/Machine/Field.lean ====
section
/-! DEFINITION. Field control (06_field_control.md) as servo axes and auxiliary drives share it: single-shunt windows,
reconstruction, transforms, modulation, the back-EMF observer and injection (R254 to R297). Quantities the spec gives no
format are exact rationals (log entry 7); square roots and circular functions are those of Config (log entry 11). -/

namespace Sys2Proof.Machine

/-- The motor, converter and observer settings that the rules of the chapter name, for a servo axis or an auxiliary drive. -/
structure FocCfg where
  polePairs : Nat
  rs : Rat
  ld : Rat
  lq : Rat
  flux : Rat
  /-- A per unit of current -/
  ib : Rat
  /-- V per unit of voltage (R254) -/
  vb : Rat
  /-- rated speed, turns/s -/
  wb : Rat
  /-- carrier period, s -/
  t : Rat
  /-- converter codes at full scale (R270, R304) -/
  codes : Nat
  fullscale : Rat
  windowNs : Rat
  deadNs : Rat
  slope : Bool
  dtNs : Rat
  dtBand : Rat
  modLimit : Rat
  obsBw : Rat
  pllBw : Rat
  emfFloor : Rat
  resMax : Rat
  hfi : Bool
  hfiV : Rat
  hfiCross : Rat
  hfiBlend : Rat

/-- √2 ÷ √3, the factor of R254. -/
def sqrt23 : Rat := Config.sqrt 2 / Config.sqrt 3

/-- Settings of a servo axis. -/
def State.focCfg (s : State) (i : Nat) : FocCfg :=
  { polePairs := s.par i P.polePairs, rs := s.parF i P.phaseResistance, ld := s.parF i P.ld, lq := s.parF i P.lq
    flux := s.parF i P.fluxLinkage, ib := s.parF i P.ratedCurrent, vb := s.parF i P.ratedVoltage * sqrt23
    wb := s.parF i P.ratedSpeed / s.parF i P.unitPerTurn, t := (s.par i P.curPeriodTicks : Rat) / 64000000
    codes := 8192, fullscale := s.parF i P.shuntFullscale, windowNs := s.parF i P.shuntWindowMin, deadNs := s.parF i P.deadTime
    slope := s.par i P.shuntSlopeComp == 1, dtNs := s.parF i P.dtComp, dtBand := s.parF i P.dtBand
    modLimit := s.parF i P.modLimit, obsBw := s.parF i P.obsBw, pllBw := s.parF i P.pllBw, emfFloor := s.parF i P.emfFloor
    resMax := s.parF i P.obsResidualMax, hfi := s.par i P.hfiEnable == 1, hfiV := s.parF i P.hfiVoltage
    hfiCross := s.parF i P.hfiCrossover, hfiBlend := s.parF i P.hfiBlend }

/-- Settings of an auxiliary drive (R304); it has no parameter for slope compensation, dead-time compensation or modulation
limit and takes a servo axis's defaults (log entry 27). -/
def State.auxCfg (s : State) (j : Nat) : FocCfg :=
  let e := epAux j
  let t : Rat := (s.par e P.auxPeriodTicks : Rat) / 64000000
  { polePairs := s.par e P.auxPolePairs, rs := s.parF e P.auxRs, ld := s.parF e P.auxLs, lq := s.parF e P.auxLs
    flux := s.parF e P.auxFlux, ib := s.parF e P.auxRatedCurrent, vb := s.parF e P.auxRatedVoltage * sqrt23
    wb := s.parF e P.auxRatedSpeed, t := t, codes := 2048, fullscale := s.parF e P.auxShuntFullscale
    windowNs := s.parF e P.auxWindowMin, deadNs := s.parF e P.auxDeadTime, slope := true, dtNs := 0, dtBand := 1 / 50
    modLimit := 24 / 25, obsBw := 1 / t / 20, pllBw := 1 / t / 200, emfFloor := 1 / 100, resMax := s.parF e P.auxResidualMax
    hfi := false, hfiV := 0, hfiCross := 0, hfiBlend := 1 }

/-! ### Single-shunt windows (R263 to R268) -/

/-- A phase value of an `Abc` by number. -/
def Abc.get (d : Abc) (k : Nat) : Q8 := if k = 0 then d.a else if k = 1 then d.b else d.c

/-- A phase with its pulse: number, rising and falling edge from the update point, ns. -/
abbrev Pulse := Nat × Rat × Rat

/-- The windows of a period after the shifts of R265. -/
structure Windows where
  ok : Bool
  shifted : Bool
  hi : Pulse
  mid : Pulse
  lo : Pulse

/-- Phases by falling duty, ties in order a, b, c (R263). -/
def byDuty (d : Abc) : List Nat := sortBy (fun x y => decide (d.get y ≤ d.get x)) [0, 1, 2]

/-- The shifts of R265 for duties `d`, window `ws`, guard `g` and carrier period `p`, ns. -/
def windowShift (ws g p : Rat) (d : Abc) : Windows :=
  let pulse (k : Nat) : Pulse :=
    let x := ofQ8 (d.get k)
    (k, p / 2 * (1 - x), p / 2 * (1 + x))
  let l := byDuty d
  let hi := pulse (l.getD 0 0)
  let mid := pulse (l.getD 1 1)
  let lo := pulse (l.getD 2 2)
  let need1 := ws - (mid.2.1 - hi.2.1)
  let s1 := if 0 < need1 then min need1 hi.2.1 else 0
  let hi := (hi.1, hi.2.1 - s1, hi.2.2 - s1)
  let need2 := ws - (lo.2.1 - mid.2.1)
  let s2 := if 0 < need2 then min need2 (min (p / 2 + g - lo.2.1) (p - lo.2.2)) else 0
  let lo := (lo.1, lo.2.1 + s2, lo.2.2 + s2)
  { ok := decide (ws ≤ mid.2.1 - hi.2.1) && decide (ws ≤ lo.2.1 - mid.2.1)
    shifted := decide (s1 ≠ 0) || decide (s2 ≠ 0), hi := hi, mid := mid, lo := lo }

/-- Duties scaled toward one half by j ÷ 256 (R266). -/
def scaleDuties (j : Nat) (d : Abc) : Abc :=
  let f (x : Q8) : Q8 := toQ8 (1 / 2 + (j : Rat) / 256 * (ofQ8 x - 1 / 2))
  { a := f d.a, b := f d.b, c := f d.c }

/-- The duties the PWM unit applies, its windows, and k in 256ths, 256 where R266 does not limit (R265, R266). -/
def placeWindows (ws g p : Rat) (d : Abc) : Abc × Windows × Nat :=
  let w := windowShift ws g p d
  if w.ok then (d, w, 256)
  else
    let j := ((List.range 256).reverse.find? (fun j => (windowShift ws g p (scaleDuties j d)).ok)).getD 0
    let d' := scaleDuties j d
    (d', windowShift ws g p d', j)

/-- The pulses of a period by phase, FT.16 units from the update point. -/
def Windows.pulses (w : Windows) : List (Int × Int) :=
  [0, 1, 2].map (fun k =>
    let p := if k = w.hi.1 then w.hi.2 else if k = w.mid.1 then w.mid.2 else w.lo.2
    (unitsOfNs p.1, unitsOfNs p.2))

/-- The guard of R264, ns. -/
def FocCfg.guard_ (c : FocCfg) : Rat := c.deadNs / 2 + 100

/-- Carrier period in ns. -/
def FocCfg.pNs (c : FocCfg) : Rat := c.t * 1000000000

/-- The PWM unit takes duties for a period that begins: windows, limits, pulses and gate edges (R88, R263 to R268, R277). -/
def PwmAxis.place (w : PwmAxis) (s : State) (c : FocCfg) (d : Abc) : PwmAxis :=
  let r := placeWindows c.windowNs c.guard_ c.pNs d
  ({ w with
    loaded := r.1, shifted := r.2.1.shifted, modLimited := decide (r.2.2 < 256), modK := r.2.2, pulses := r.2.1.pulses }).placeEdges s c.deadNs

/-! ### Transforms (R254 to R257) -/

/-- Alpha and beta of three phase values. -/
def alphaBeta (a b c : Rat) : Rat × Rat := (2 / 3 * (a - b / 2 - c / 2), (b - c) / Config.sqrt 3)

/-- d and q of alpha, beta at an electrical angle in turns. -/
def park (th : Rat) (v : Rat × Rat) : Rat × Rat :=
  (v.1 * Config.cosTurn th + v.2 * Config.sinTurn th, v.2 * Config.cosTurn th - v.1 * Config.sinTurn th)

/-- Alpha and beta of d, q at an electrical angle in turns. -/
def unpark (th : Rat) (v : Rat × Rat) : Rat × Rat :=
  (v.1 * Config.cosTurn th - v.2 * Config.sinTurn th, v.1 * Config.sinTurn th + v.2 * Config.cosTurn th)

/-- Magnitude of a vector. -/
def norm (v : Rat × Rat) : Rat := Config.sqrt (v.1 * v.1 + v.2 * v.2)

/-- An angle in turns as its 32-bit fraction (R255). -/
def turnFrac (th : Rat) : Nat := (fixFloor 32 th % 4294967296).toNat

/-- The electrical angle of a position (R255), 32-bit fraction. -/
def elecAngle (polePairs : Nat) (p off : Q32) : Nat := (((polePairs : Int) * (p - off)) % 4294967296).toNat

/-! ### Reconstruction (R270 to R273) -/

/-- sat of R278. -/
def sat1 (x : Rat) : Rat := rclamp (-1) 1 x

/-- The nominal sample instants s1 and s2, ns from the update point (R264). -/
def FocCfg.instants (c : FocCfg) (w : Windows) : Rat × Rat := (w.mid.2.1 - c.guard_, w.lo.2.1 - c.guard_)

/-- What a reconstruction gives: phase currents at t2 per unit, whether a code was at full scale. -/
structure Recon where
  i : Abc
  clip : Bool

/-- The three phase currents at t2 from the codes of s1 and s2 (R270 to R273). `w` are the windows of the period, `ts` the two
sample instants in ns from the update point, `vdc` in V, `eOf` the back-EMF of a phase in V, `prev` the currents of the
previous sample. -/
def reconstruct (c : FocCfg) (off : Rat) (w : Windows) (ts : Rat × Rat) (c1 c2 : Int) (vdc : Rat) (eOf : Nat → Rat)
    (prev : Abc) : Recon :=
  let amps (x : Int) : Rat := ((x : Rat) - off) * c.fullscale / c.codes
  let hi1 := amps c1
  let lo := -(amps c2)
  let t1 := ts.1
  let t2 := ts.2
  let te := if prev.get w.mid.1 < 0 then w.mid.2.1 - c.deadNs / 2 else w.mid.2.1 + c.deadNs / 2
  let ls := (c.ld + c.lq) / 2
  let e := eOf w.hi.1
  let hi := if c.slope then
      hi1 + ((te - t1) * (2 * vdc / 3 - e - c.rs * hi1) + (t2 - te) * (vdc / 3 - e - c.rs * hi1)) / 1000000000 / ls
    else hi1
  let pu (x : Rat) : Q8 := toQ8 (x / c.ib)
  let val (k : Nat) : Q8 := if k = w.hi.1 then pu hi else if k = w.lo.1 then pu lo else pu (-(hi + lo))
  let full (x : Int) : Bool := decide (x ≤ -(c.codes : Int)) || decide ((c.codes : Int) - 1 ≤ x)
  { i := { a := val 0, b := val 1, c := val 2 }, clip := full c1 || full c2 }

/-- Back-EMF of a phase from the observer's extended back-EMF (R272). -/
def emfObs (c : FocCfg) (o : Observer) (k : Nat) : Rat :=
  c.vb * (ofQ8 o.eAl * Config.cosTurn ((k : Rat) / 3) + ofQ8 o.eBe * Config.sinTurn ((k : Rat) / 3))

/-- Back-EMF of a phase without a locked observer (R272). -/
def emfOf (c : FocCfg) (theta : Rat) (omegaE : Rat) (k : Nat) : Rat :=
  -(omegaE * c.flux * Config.sinTurn (theta - (k : Rat) / 3))

/-- The reconstructed phase voltages in alpha, beta, V, of applied duties and phase currents (R279). -/
def appliedVolts (c : FocCfg) (vdc : Rat) (d i : Abc) : Rat × Rat :=
  let x (k : Nat) : Rat := ofQ8 (d.get k)
  let mean := (x 0 + x 1 + x 2) / 3
  let v (k : Nat) : Rat := vdc * (x k - mean) - vdc * (c.dtNs / c.pNs) * sat1 (ofQ8 (i.get k) / c.dtBand)
  alphaBeta (v 0) (v 1) (v 2)

/-! ### Modulation (R260, R261, R278) -/

/-- The vector limit of R261 on per-unit d, q voltages with limit `lim`: the vector and whether the limit acts. -/
def limitVector (lim : Rat) (v : Rat × Rat) : (Rat × Rat) × Bool :=
  let d := rclamp (-lim) lim v.1
  if lim * lim < d * d + v.2 * v.2 then ((d, rsgn v.2 * Config.sqrt (lim * lim - d * d)), true)
  else ((d, v.2), decide (d ≠ v.1))

/-- v_lim in V (R261). -/
def FocCfg.vLim (c : FocCfg) (vdc : Rat) : Rat := c.modLimit * vdc / Config.sqrt 3

/-- The duties of per-unit d, q voltages at an angle, with dead-time compensation (R260, R278). -/
def dutiesOf (c : FocCfg) (vdc th : Rat) (v : Rat × Rat) (i : Abc) : Abc :=
  let ab := unpark th (v.1 * c.vb, v.2 * c.vb)
  let va := ab.1
  let vB := -(ab.1 / 2) + Config.sqrt 3 / 2 * ab.2
  let vc := -(ab.1 / 2) - Config.sqrt 3 / 2 * ab.2
  let mean := (max va (max vB vc) + min va (min vB vc)) / 2
  let d (x : Rat) (k : Nat) : Q8 :=
    let base : Rat := if vdc = 0 then 1 / 2 else 1 / 2 + (x - mean) / vdc
    toQ8 (rclamp 0 1 (base + c.dtNs / c.pNs * sat1 (ofQ8 (i.get k) / c.dtBand)))
  { a := d va 0, b := d vB 1, c := d vc 2 }

/-! ### Observer (R280 to R283) and injection (R286 to R289) -/

/-- Speed of the observer, turns/s (R282). -/
def obsSpeed (c : FocCfg) (o : Observer) : Rat := o.omega / (twoPi * c.polePairs)

/-- Position of the observer, turns (R282). -/
def obsPos (c : FocCfg) (o : Observer) : Rat := o.theta / c.polePairs + o.align

/-- The blend weight (R286). -/
def blendWeight (c : FocCfg) (o : Observer) : Rat :=
  if !c.hfi then 1
  else rclamp 0 1 ((rabs (obsSpeed c o) / c.wb - (c.hfiCross - c.hfiBlend / 2)) / c.hfiBlend)

/-- One step of the observer and its phase-locked loop (at rest the sign of the speed is taken as positive, log entry 94) with measured alpha, beta currents and the voltages of the period just ended,
per unit, blend weight and injection error (R280, R281, R283, R287). Its currents and back-EMF are kept per unit (R4). -/
def observerStep (c : FocCfg) (o : Observer) (iPu : Rat × Rat) (vPu : Q8 × Q8) (w epsH : Rat) : Observer :=
  let k := c.t / c.lq
  let i := (iPu.1 * c.ib, iPu.2 * c.ib)
  let old := (ofQ8 o.iAl * c.ib, ofQ8 o.iBe * c.ib)
  let emf := (ofQ8 o.eAl * c.vb, ofQ8 o.eBe * c.vb)
  let pa := old.1 + k * (ofQ8 vPu.1 * c.vb - c.rs * old.1 - emf.1)
  let pb := old.2 + k * (ofQ8 vPu.2 * c.vb - c.rs * old.2 - emf.2)
  let ra := i.1 - pa
  let rb := i.2 - pb
  let ge := 1 - Config.exp (-(twoPi * c.obsBw * c.t))
  let ph := o.omega * c.t / twoPi
  let re := unpark ph emf
  let ea := re.1 - ge * (c.lq / c.t) * ra
  let eb := re.2 - ge * (c.lq / c.t) * rb
  let mag := norm (ea, eb)
  let epsO := (if o.omega < 0 then -1 else 1) * (-(ea * Config.cosTurn o.theta) - eb * Config.sinTurn o.theta) / max mag (c.emfFloor * c.vb)
  let eps := (1 - w) * epsH / 2 + w * epsO
  let wn := twoPi * c.pllBw
  let om := o.omega + wn * wn * c.t * eps
  let th := o.theta + (c.t * om + 1414 / 1000 * wn * c.t * eps) / twoPi
  let rho := toQ8 (norm (ra, rb) / c.ib)
  let run := if ofQ8 rho ≤ c.resMax / 2 ∧ rabs eps < 1 / 10 then min 16 (o.lockRun + 1) else 0
  { o with
    iAl := toQ8 iPu.1, iBe := toQ8 iPu.2, eAl := toQ8 (ea / c.vb), eBe := toQ8 (eb / c.vb), omega := om, theta := th, rho := rho, eps := eps, lockRun := run
    peak := max o.peak rho, locked := o.locked || decide (run = 16)
    badRun := if c.resMax < ofQ8 rho then o.badRun + 1 else 0 }

/-- The injection error (R289). -/
def injectionError (c : FocCfg) (sigmaPrev : Bool) (iq iqPrev : Q8) : Rat :=
  let ah := c.hfiV * c.vb * c.t * rabs (1 / c.ld - 1 / c.lq) / (2 * c.ib)
  if ah = 0 then 0 else sat1 ((if sigmaPrev then 1 else -1) * ofQ8 (iq - iqPrev) / ah)

/-- DC-link voltage in V of an input at a full scale (R259). -/
def State.vdcOf (s : State) (input : Nat) (fullscale : Rat) : Rat := (s.getDc input : Rat) / 65535 * fullscale

/-- DC-link voltage of a servo axis. -/
def State.servoVdc (s : State) (i : Nat) : Rat := s.vdcOf (s.par i P.dcInput) (s.parF i P.dcFullscale)

/-- The observer's data of OBSERVER_LOST and OBSERVER_REACQUIRED: hold in µs (R563). -/
def State.holdUs (s : State) (f : Foc) : Nat := match f.holdFrom with
  | some t => (s.tick - t) / 64
  | none => 0

end Sys2Proof.Machine
end

