-- ==== Sys2Proof/Machine/Combos.lean ====
section
/-! DEFINITION. Rules over several parameters of one object: ranges against another parameter (R834) and forbidden
combinations (R835), each with the codes it names. They are judged at a commit that sets one of the codes and, for the
combinations, again at AXIS_ENABLE. -/

namespace Sys2Proof.Machine

/-- A rule: the codes of its combination and whether a configuration breaks it on an object. -/
structure XRule where
  codes : List Nat
  bad : State → Nat → Bool

/-- A phase lies below its period. -/
def phaseRule (phase period : Nat) : XRule := ⟨[phase, period], fun s e => decide (s.par e period ≤ s.par e phase)⟩

/-- One binary32 parameter is at most a factor times another. -/
def atMost (x y : Nat) (k : Rat) : XRule := ⟨[x, y], fun s e => decide (k * s.parF e y < s.parF e x)⟩

/-! ### Ranges (R834) -/

/-- A point of aux_curve: demand and speed. -/
def State.curvePoints (s : State) (e : Nat) : List (Rat × Rat) :=
  let v := s.par e P.auxCurve
  (List.range (arrLen v / 8)).map (fun i => (f32Val (bits v (64 * i + 31) (64 * i)), f32Val (bits v (64 * i + 63) (64 * i + 32))))

/-- Strictly rising values. -/
def rising : List Rat → Bool
  | a :: b :: t => decide (a < b) && rising (b :: t)
  | _ => true

/-- The demand of aux_curve rises strictly within 0 to 1 and its speeds are not negative. -/
def curveBad (l : List (Rat × Rat)) : Bool :=
  !rising (l.map (·.1)) || l.any (fun p => decide (p.1 < 0) || decide (1 < p.1) || decide (p.2 < 0))

/-- Ranges of the trail parameters an axis of any class with a trail has. -/
def trailRanges : List XRule := [
  ⟨[P.softMin, P.softMax], fun s e => decide (s.parQ e P.softMax ≤ s.parQ e P.softMin)⟩,
  atMost P.homeFast P.trjVLimit 1, atMost P.homeSlow P.homeFast 1, atMost P.homeAccel P.trjALimit 1]

/-- Ranges of a follower's register parameters. -/
def regRanges : List XRule := [
  atMost P.regPhase P.regPitch 1,
  ⟨[P.regDemand, P.regLimit], fun s e => decide (s.parF e P.regLimit < rabs (s.parF e P.regDemand))⟩]

/-- The CRC parameters of an SSI encoder lie within the width (R95, R125). -/
def crcRange : XRule := ⟨[P.ssiCrcWidth, P.ssiCrcPoly, P.ssiCrcInit], fun s e =>
  let w := s.par e P.ssiCrcWidth
  w != 0 && (decide (2 ^ w ≤ s.par e P.ssiCrcPoly) || decide (2 ^ w ≤ s.par e P.ssiCrcInit))⟩

/-- Ranges written against another parameter, per object class. -/
def rangeRules : ObjClass → List XRule
  | .servo => [phaseRule P.curPhaseTicks P.curPeriodTicks, phaseRule P.serialStart P.curPeriodTicks,
      atMost P.frictionFf P.ratedCurrent 1, crcRange] ++ trailRanges ++ regRanges
  | .stepper => [phaseRule P.stpPhaseTicks P.stpPeriodTicks, atMost P.stpIRun P.stpIFullscale (9 / 10),
      atMost P.stpIHold P.stpIFullscale (9 / 10), atMost P.stpIOvercurrent P.stpIFullscale 1] ++ trailRanges ++ regRanges
  | .virt => [phaseRule P.vaPhaseTicks P.vaPeriodTicks] ++ trailRanges ++ regRanges
  | .remote => [phaseRule P.remPhaseTicks P.remPeriodTicks] ++ regRanges
  | .aux => [phaseRule P.auxPhaseTicks P.auxPeriodTicks, atMost P.auxSpeedMax P.auxRatedSpeed (3 / 2),
      ⟨[P.auxCurve, P.auxRatedSpeed], fun s e => curveBad (s.curvePoints e) ||
        (s.curvePoints e).any (fun p => decide (3 / 2 * s.parF e P.auxRatedSpeed < p.2))⟩]
  | .publisher => [phaseRule P.convPhaseTicks P.convPeriodTicks]
  | .cap => [phaseRule P.capPhaseTicks P.capPeriodTicks]
  | .eth => [⟨[P.safeUdpPort, P.remUdpPort], fun s e =>
      s.par e P.safeUdpPort == s.par e P.remUdpPort || s.par e P.safeUdpPort == s.par epModule P.udpPort ||
      s.par e P.remUdpPort == s.par epModule P.udpPort⟩]
  | .module => [⟨[P.udpPort], fun s e => [0xA10, 0xA11].any (fun n =>
      s.par n P.safeUdpPort == s.par e P.udpPort || s.par n P.remUdpPort == s.par e P.udpPort)⟩]
  | _ => []

/-! ### Combinations (R835) -/

/-- Nominal decode instant of a serial word, ns after the update point, with zero line delay and minimum turnaround (R111). -/
def State.decodeNs (s : State) (e : Nat) : Rat :=
  let start : Rat := (s.par e P.serialStart : Rat) * 125 / 8
  if s.par e P.fbSource = 2 then
    start + ((s.par e P.ssiFrameBits : Rat) + 1 / 2) * (s.par e P.ssiClockDiv * 5) + 10
  else
    let c : Nat := 3 + s.lspPosBytes e + (if s.par e P.lspAux = 1 then 2 else 0)
    start + (43 / 2 + 10 * (c : Rat)) * ((s.par e P.lspBaudDiv : Rat) * 125 / 8) + 10

/-- Carrier period of a servo axis in ns. -/
def State.carrierNs (s : State) (e : Nat) : Rat := (s.par e P.curPeriodTicks : Rat) * 125 / 8

/-- The SSI frame's fields as ranges of bit indices: position, error bit, CRC (R123 to R125). -/
def State.ssiFields (s : State) (e : Nat) : List (Nat × Nat) :=
  let p := s.par e P.ssiPosLsb
  let eb := s.par e P.ssiErrBit
  let w := s.par e P.ssiCrcWidth
  [(p, p + s.par e P.stBits + s.par e P.mtBits)] ++ (if eb = 255 then [] else [(eb, eb + 1)]) ++ (if w = 0 then [] else [(0, w)])

/-- Two of a list of half-open ranges overlap. -/
def overlaps : List (Nat × Nat) → Bool
  | [] => false
  | a :: t => t.any (fun b => decide (a.1 < b.2) && decide (b.1 < a.2)) || overlaps t

/-- The SSI fields overlap or lie outside the frame (R127). -/
def State.ssiBad (s : State) (e : Nat) : Bool :=
  let l := s.ssiFields e
  overlaps l || l.any (fun r => decide (s.par e P.ssiFrameBits < r.2))

/-- The largest root magnitude R228 allows, 1 - 2^-16. -/
def rootMax : Rat := 65535 / 65536

/-- Coefficients of a polynomial, the constant first, about 1 instead of 0. -/
def aboutOne : List Rat → List Rat
  | [] => []
  | c :: p =>
    let q := aboutOne p
    ((c + q.headD 0) :: (q.zipWith (· + ·) (q.tail ++ [0])))

/-- A polynomial, the constant first, is positive just above 1: its first coefficient about 1 that is not 0 is positive. -/
def posAboveOne (p : List Rat) : Bool := decide (0 < ((aboutOne p).find? (· != 0)).getD 0)

/-- Some root of z³ + c1·z² + c2·z + c3 lies outside the circle of radius `rootMax` (log entry 23). The polynomial is scaled to the
unit circle; no root lies outside that exactly when for every r just above 1 all roots lie inside the circle of radius r, which
Jury's criterion decides, on polynomials in r. -/
def rootOutside (c1 c2 c3 : Rat) : Bool :=
  let a := c1 / rootMax
  let b := c2 / (rootMax * rootMax)
  let c := c3 / (rootMax * rootMax * rootMax)
  let inside := [[c, b, a, 1], [-c, b, -a, 1], [-c, 0, 0, 1], [c, 0, 0, 1],
    [-(c * c), 0, a * c, 0, -b, 0, 1], [-(c * c), 0, -(a * c), 0, b, 0, 1]].all posAboveOne
  !inside

/-- The denominator of a set breaks R228: some root too large, the single root 1 of an integrating set aside. -/
def rootsBad (c : SetRecord) : Bool :=
  let q (x : Int) : Rat := (x : Rat) / oneQ48
  if c.integrating then rootOutside (1 + q c.a1) (1 + q c.a1 + q c.a2) 0 else rootOutside (q c.a1) (q c.a2) (q c.a3)

/-- A set record breaks R228, 2p2z or 3p3z. -/
def setBad (three : Bool) (r : Nat) : Bool :=
  let c := setRecordOf r
  decide (c.outMax ≤ c.outMin) || decide (r / 2 ^ (8 * 88) % 2 ^ (8 * 40) ≠ 0) ||
  (!three && (decide (c.b3 ≠ 0) || decide (c.a3 ≠ 0))) || rootsBad c

/-- The first sets of a section slot. -/
def State.slotSets (s : State) (e k n : Nat) : List Nat := (List.range n).map (fun j => s.rawSet e k j)

/-- A section slot breaks R228, by any of its 8 sets, or R228 or R230 by the sets it uses; an absent slot uses none. -/
def State.sectionBad (s : State) (e k : Nat) : Bool :=
  let absent := decide (4 ≤ k) && s.par e P.secType k == 0
  let ints := (s.slotSets e k (s.par e P.secSets k)).map (fun r => (setRecordOf r).integrating)
  let bs := s.bounds e k
  (s.slotSets e k 8).any (setBad (decide (4 ≤ k) && s.par e P.secType k != 1)) ||
    !absent && (decide (1 < ints.length) && ints.any id && !ints.all id || (bs.zip bs.tail).any (fun p => decide (p.2.1 - p.2.2 ≤ p.1.1 + p.1.2)))

/-- Combinations of a servo axis. -/
def servoCombos : List XRule := [
  ⟨[P.fbSource, P.serialStart, P.ssiFrameBits, P.ssiClockDiv, P.lspAux, P.lspBaudDiv, P.stBits, P.mtBits, P.curPeriodTicks],
    fun s e => decide (2 ≤ s.par e P.fbSource) && decide (s.carrierNs e / 2 + 400 < s.decodeNs e)⟩,
  ⟨[P.stBits, P.mtBits], fun s e => decide (56 < s.par e P.stBits + s.par e P.mtBits)⟩,
  ⟨[P.fbSource, P.ssiRecovery, P.ssiFrameBits, P.ssiClockDiv, P.serialRatio, P.curPeriodTicks], fun s e =>
    s.par e P.fbSource == 2 && decide (s.par e P.serialRatio * s.carrierNs e <
      1000 * s.parF e P.ssiRecovery + (s.par e P.ssiFrameBits : Rat) * (s.par e P.ssiClockDiv * 5))⟩,
  ⟨[P.fbSource, P.ssiPosLsb, P.ssiErrBit, P.ssiCrcWidth, P.ssiFrameBits, P.stBits, P.mtBits], fun s e =>
    s.par e P.fbSource == 2 && s.ssiBad e⟩] ++ [
  ⟨[P.fbSource, P.freezeSpeed, P.freezeTime, P.countsPerTurn, P.stBits], fun s e =>
    decide (s.parF e P.freezeSpeed * s.parF e P.freezeTime / 1000 *
      (if 2 ≤ s.par e P.fbSource then pow2 (s.par e P.stBits) else (s.par e P.countsPerTurn : Rat)) < 4)⟩,
  ⟨[P.fbLossAction, P.obsEnable], fun s e => s.par e P.fbLossAction == 0 && s.par e P.obsEnable == 0⟩,
  ⟨[P.posRatio, P.velRatio], fun s e => decide (s.par e P.posRatio % s.par e P.velRatio ≠ 0)⟩,
  ⟨[P.posRatio, P.curPeriodTicks], fun s e => decide (640000 < s.par e P.posRatio * s.par e P.curPeriodTicks)⟩,
  ⟨[P.overspeed, P.speedLimit], fun s e => decide (s.parF e P.overspeed ≤ s.parF e P.speedLimit)⟩] ++ [
  ⟨[P.secType, P.secSets, P.setRecord], fun s e => (List.range 8).any (fun k => s.sectionBad e k)⟩,
  ⟨[P.shuntWindowMin, P.curPeriodTicks], fun s e => decide (s.carrierNs e / 8 < s.parF e P.shuntWindowMin)⟩,
  ⟨[P.iLimit, P.ratedCurrent, P.shuntFullscale], fun s e =>
    decide (9 / 10 * s.parF e P.shuntFullscale < s.parF e P.iLimit * s.parF e P.ratedCurrent)⟩,
  ⟨[P.obsBw, P.curPeriodTicks], fun s e => decide (1000000000 / s.carrierNs e / 4 < s.parF e P.obsBw)⟩,
  ⟨[P.pllBw, P.obsBw], fun s e => decide (s.parF e P.obsBw / 4 < s.parF e P.pllBw)⟩] ++ [
  ⟨[P.fbSource, P.obsEnable, P.hfiEnable], fun s e =>
    s.par e P.fbSource == 0 && !(s.par e P.obsEnable == 1 && s.par e P.hfiEnable == 1)⟩,
  ⟨[P.hfiEnable, P.ld, P.lq], fun s e => s.par e P.hfiEnable == 1 &&
    decide (rabs (s.parF e P.ld - s.parF e P.lq) < 1 / 20 * max (s.parF e P.ld) (s.parF e P.lq))⟩,
  ⟨[P.hfiBlend, P.hfiCrossover], fun s e => decide (s.parF e P.hfiCrossover ≤ s.parF e P.hfiBlend / 2)⟩]

/-- aux_follow names a configured axis: a servo, stepper, auxiliary or virtual axis, or a remote axis with an address. -/
def State.followsAxis (s : State) (f : Nat) : Bool :=
  match classOf f with
  | some (.servo, _) | some (.stepper, _) | some (.aux, _) | some (.virt, _) => true
  | some (.remote, _) => s.par f P.remAddress != 0
  | _ => false

/-- Combinations of an auxiliary drive (R312). -/
def auxCombos : List XRule := [
  ⟨[P.auxOff, P.auxOn], fun s e => decide (s.parF e P.auxOn ≤ s.parF e P.auxOff)⟩,
  ⟨[P.auxWindowMin, P.auxPeriodTicks], fun s e => decide ((s.par e P.auxPeriodTicks : Rat) * 125 / 64 < s.parF e P.auxWindowMin)⟩,
  ⟨[P.auxILimit, P.auxRatedCurrent, P.auxShuntFullscale], fun s e =>
    decide (9 / 10 * s.parF e P.auxShuntFullscale < s.parF e P.auxILimit * s.parF e P.auxRatedCurrent)⟩,
  ⟨[P.auxDemandSrc, P.auxFollow], fun s e => s.par e P.auxDemandSrc == 1 && !s.followsAxis (s.par e P.auxFollow)⟩]

/-- Combinations of a stepper channel (R424, R425, R433). -/
def stepperCombos : List XRule := [
  ⟨[P.stpIHold, P.stpIRun], fun s e => decide (s.parF e P.stpIRun < s.parF e P.stpIHold)⟩,
  ⟨[P.stpHyst, P.stpOffsetMax, P.stpIFullscale, P.stpIRun], fun s e =>
    decide (s.parF e P.stpIFullscale - s.parF e P.stpIRun ≤ s.parF e P.stpHyst / 2 + s.parF e P.stpOffsetMax)⟩,
  ⟨[P.stpToffMin, P.stpToffMax], fun s e => decide (1000 * s.parF e P.stpToffMax < s.parF e P.stpToffMin)⟩] ++ [
  ⟨[P.trjVLimit, P.stpFullSteps, P.stpMicrosteps, P.stpUnitPerTurn], fun s e =>
    decide ((2000000 : Rat) / ((s.par e P.stpFullSteps * s.par e P.stpMicrosteps : Nat) : Rat) <
      s.parF e P.trjVLimit / s.parF e P.stpUnitPerTurn)⟩,
  ⟨[P.stpTable], fun s e =>
    decide (s.par e P.stpTable % 65536 ≠ 0) || decide (s.par e P.stpTable / 2 ^ 16384 % 65536 ≠ 65535)⟩]

/-- A follower of this module follows a cam. -/
def State.followsCam (s : State) (e : Nat) : Bool :=
  let f := s.getFollower e
  (f.state == .waiting || f.state == .syncing || f.state == .coupled) && (f.map.map (·.map)).any (fun m => decide (2 ≤ m))

/-- Combinations of a publisher (R381, R406). -/
def pubCombos : List XRule := [
  ⟨[P.convSource, P.convMaster], fun s e => s.par e P.convSource == 1 && decide (0x20 ≤ s.par e P.convMaster)⟩,
  ⟨[P.convSource, P.convMaster, P.convPeriodTicks, P.convPhaseTicks], fun s e =>
    let m := s.par e P.convMaster
    let g := s.par m P.posRatio * s.par m P.curPeriodTicks
    s.par e P.convSource == 1 && decide (m < 0x20) &&
      (decide (s.par e P.convPeriodTicks % g ≠ 0) || s.par e P.convPhaseTicks != s.par m P.curPhaseTicks)⟩,
  ⟨[P.convMaster], fun s e => s.followsCam (s.par e P.convMaster)⟩]

/-- A bit rate of a CAN channel in bit/s (R695). -/
def canRate (brp t1 t2 : Nat) : Rat := 80000000 / ((brp * (1 + t1 + t2) : Nat) : Rat)

/-- Combinations of a CAN channel (R695). -/
def canCombos : List XRule :=
  let nom (s : State) (e : Nat) : Rat := canRate (s.par e P.canNomBrp) (s.par e P.canNomTseg1) (s.par e P.canNomTseg2)
  let dat (s : State) (e : Nat) : Rat := canRate (s.par e P.canDatBrp) (s.par e P.canDatTseg1) (s.par e P.canDatTseg2)
  [⟨[P.canNomBrp, P.canNomTseg1, P.canNomTseg2], fun s e => decide (1000000 < nom s e)⟩,
   ⟨[P.canNomBrp, P.canNomTseg1, P.canNomTseg2, P.canDatBrp, P.canDatTseg1, P.canDatTseg2],
    fun s e => decide (8000000 < dat s e) || decide (dat s e < nom s e)⟩,
   ⟨[P.canNomSjw, P.canNomTseg2], fun s e => decide (s.par e P.canNomTseg2 < s.par e P.canNomSjw)⟩,
   ⟨[P.canDatSjw, P.canDatTseg2], fun s e => decide (s.par e P.canDatTseg2 < s.par e P.canDatSjw)⟩]

/-- Combinations of an Ethernet port (R692). -/
def ethCombos : List XRule := [
  ⟨[P.qbvList], fun s e =>
    let c := bits (s.par e P.qbvList) 95 64
    decide (c < 1000) || decide (1000000000 < c)⟩,
  ⟨[P.qbvEnable, P.ptpProfile], fun s e => s.time.leader && s.par e P.qbvEnable == 1 && s.par e P.ptpProfile == 0⟩,
  ⟨[P.netIp], fun s _ => s.par 0xA10 P.netIp == s.par 0xA11 P.netIp⟩]

/-- Combinations per object class. -/
def comboRules : ObjClass → List XRule
  | .servo => servoCombos
  | .aux => auxCombos
  | .stepper => stepperCombos
  | .publisher => pubCombos
  | .can => canCombos
  | .eth => ethCombos
  | _ => []

/-- A combination rule of an object fails in the configuration in force (R835). -/
def State.comboFails (s : State) (ep : Nat) : Bool :=
  match classOf ep with
  | some (c, _) => (comboRules c).any (fun r => r.bad s ep)
  | none => false

end Sys2Proof.Machine
end

