-- ==== Sys2Proof/Machine/Sessions.lean ====
section
/-! DEFINITION. Sessions: the command table with the checks of R493, lock tables (R525 to R529), responses (R490), and the end of
a session (R510). -/

namespace Sys2Proof.Machine

/-! ### The command table (R538 to R544) -/

/-- What payload_len suits an opcode (R539). -/
inductive LenRule where
  | fixed (n : Nat)
  | list (hdr unit lo hi : Nat)
  | range (lo hi : Nat)
  | eps
  deriving DecidableEq, Repr

/-- One row of the command tables. -/
structure CmdInfo where
  op : Nat
  len : LenRule
  /-- bytes of the fixed part and the ranges its cell names; other bytes must be 0 (R539) -/
  hdr : Nat
  named : List (Nat × Nat)
  /-- largest response data (R493 step 5) -/
  rsp : Nat
  /-- bytes 0-1 name an endpoint -/
  ep : Bool
  /-- it changes the state of its endpoint: R525 applies -/
  locked : Bool
  /-- it may be sent untagged (R498) -/
  bare : Bool := false
  /-- session-local (R542) -/
  own : Bool := false
  deriving DecidableEq, Repr

/-- Commands of groups 0x01 to 0x04. -/
def cmdTable1 : List CmdInfo := [
  ⟨0x0100, .fixed 0, 0, [], 64, false, false, false, false⟩,
  ⟨0x0101, .fixed 0, 0, [], 12, false, false, true, false⟩,
  ⟨0x0102, .fixed 8, 8, [(0, 2)], 12, false, false, true, true⟩,
  ⟨0x0103, .fixed 8, 8, [(0, 2)], 0, false, false, true, true⟩,
  ⟨0x0104, .fixed 0, 0, [], 3076, false, false, true, true⟩,
  ⟨0x0110, .list 8 8 1 512, 8, [(0, 2)], 0, false, false, false, false⟩,
  ⟨0x0111, .list 8 8 1 512, 8, [(0, 2), (4, 7)], 0, false, false, false, false⟩,
  ⟨0x0120, .range 24 1048576, 8, [(0, 3)], 4, false, false, false, true⟩,
  ⟨0x0121, .fixed 0, 0, [], 8, false, false, false, false⟩,
  ⟨0x0122, .fixed 8, 8, [(0, 3)], 8, false, false, false, false⟩,
  ⟨0x0123, .fixed 0, 0, [], 0, false, false, false, true⟩,
  ⟨0x0124, .fixed 8, 8, [(0, 3)], 512, false, false, false, false⟩,
  ⟨0x0125, .range 8 1048576, 8, [(0, 3)], 10, false, false, false, true⟩,
  ⟨0x0130, .eps, 8, [(0, 7)], 0, false, false, false, false⟩,
  ⟨0x0131, .eps, 8, [(4, 7)], 0, false, false, false, false⟩,
  ⟨0x0140, .fixed 8, 8, [(0, 1)], 8, false, false, false, true⟩,
  ⟨0x0141, .fixed 0, 0, [], 0, false, false, false, true⟩,
  ⟨0x0150, .fixed 40, 40, [(0, 0), (8, 39)], 0, false, false, false, true⟩,
  ⟨0x0200, .fixed 0, 0, [], 40, false, false, false, false⟩,
  ⟨0x0201, .fixed 24, 24, [(0, 0), (8, 17)], 8, false, false, false, false⟩,
  ⟨0x0301, .fixed 8, 8, [(0, 1)], 0, true, true, false, false⟩,
  ⟨0x0302, .fixed 8, 8, [(0, 2)], 0, true, false, false, false⟩,
  ⟨0x0310, .fixed 8, 8, [(0, 2), (4, 7)], 8, true, true, false, false⟩,
  ⟨0x0440, .range 0 1048576, 0, [], 4, false, false, false, false⟩,
  ⟨0x0441, .fixed 8, 8, [(0, 3)], 0, false, false, false, false⟩]

/-- Commands of groups 0x05 to 0x07. -/
def cmdTable2 : List CmdInfo := [
  ⟨0x0500, .list 8 64 1 16, 8, [(0, 2)], 4, true, true, false, false⟩,
  ⟨0x0501, .fixed 8, 8, [(0, 2)], 8, true, true, false, false⟩,
  ⟨0x0502, .fixed 24, 24, [(0, 3), (8, 19)], 8, true, true, false, false⟩,
  ⟨0x0510, .fixed 8, 8, [(0, 2)], 8, true, false, false, false⟩,
  ⟨0x0520, .fixed 8, 8, [(0, 1)], 24, true, true, false, false⟩,
  ⟨0x0521, .fixed 16, 16, [(0, 1), (8, 15)], 0, true, true, false, false⟩,
  ⟨0x0600, .range 24 1048576, 24, [(0, 2), (4, 11)], 8, true, true, false, false⟩,
  ⟨0x0610, .fixed 48, 48, [(0, 47)], 0, true, true, false, false⟩,
  ⟨0x0611, .fixed 8, 8, [(0, 2)], 8, true, true, false, false⟩,
  ⟨0x0612, .fixed 32, 32, [(0, 1), (8, 27)], 8, true, true, false, false⟩,
  ⟨0x0700, .fixed 8, 8, [(0, 3)], 0, true, true, false, false⟩,
  ⟨0x0701, .fixed 8, 8, [(0, 1)], 1028, true, false, false, false⟩,
  ⟨0x0702, .fixed 16, 16, [(0, 11)], 0, false, false, false, false⟩,
  ⟨0x0703, .fixed 8, 8, [(0, 3)], 0, false, false, false, false⟩,
  ⟨0x0704, .fixed 8, 8, [(0, 2)], 0, true, false, false, false⟩,
  ⟨0x0705, .fixed 8, 8, [(0, 1)], 1, true, true, false, false⟩,
  ⟨0x0706, .fixed 8, 8, [(0, 1)], 0, true, true, false, false⟩]

/-- Commands of groups 0x08 to 0x0E. -/
def cmdTable3 : List CmdInfo := [
  ⟨0x0800, .fixed 8, 8, [(0, 7)], 0, false, true, false, false⟩,
  ⟨0x0801, .fixed 16, 16, [(0, 11)], 0, false, true, false, false⟩,
  ⟨0x0900, .fixed 8, 8, [(0, 1)], 0, false, false, false, false⟩,
  ⟨0x0901, .fixed 8, 8, [(0, 1)], 0, false, true, false, false⟩,
  ⟨0x0902, .fixed 0, 0, [], 0, false, false, false, false⟩,
  ⟨0x0A00, .fixed 80, 80, [(0, 5), (8, 79)], 8, true, true, false, false⟩,
  ⟨0x0A01, .fixed 8, 8, [(0, 3)], 0, true, true, false, false⟩,
  ⟨0x0A02, .fixed 8, 8, [(0, 2)], 0, true, false, false, false⟩,
  ⟨0x0B00, .range 16 65536, 0, [], 4, false, false, false, false⟩,
  ⟨0x0B01, .fixed 0, 0, [], 65536, false, false, false, false⟩,
  ⟨0x0B10, .fixed 8, 8, [(0, 3)], 0, false, false, false, false⟩,
  ⟨0x0B11, .fixed 8, 8, [(0, 0)], 1, false, false, false, false⟩,
  ⟨0x0C00, .fixed 8, 8, [(0, 0)], 0, false, false, false, false⟩,
  ⟨0x0C01, .fixed 8, 8, [(0, 1)], 0, false, false, false, false⟩,
  ⟨0x0C02, .fixed 8, 8, [(0, 0)], 0, false, true, false, false⟩,
  ⟨0x0C10, .range 16 1048576, 16, [(0, 0), (4, 11)], 8, false, false, false, false⟩,
  ⟨0x0C11, .fixed 8, 8, [(0, 0), (4, 7)], 0, false, false, false, false⟩,
  ⟨0x0C20, .fixed 0, 0, [], 4, false, false, false, false⟩,
  ⟨0x0D00, .range 0 1048576, 0, [], 4, false, false, false, false⟩,
  ⟨0x0D01, .fixed 16, 16, [(0, 5), (8, 11)], 4, false, false, false, false⟩,
  ⟨0x0D02, .fixed 8, 8, [(0, 1)], 1, false, false, false, false⟩,
  ⟨0x0D03, .fixed 8, 8, [(0, 3)], 0, false, false, false, false⟩,
  ⟨0x0E00, .fixed 8, 8, [(0, 7)], 0, false, false, false, false⟩,
  ⟨0x0E01, .fixed 16, 16, [(0, 15)], 4, false, false, false, false⟩]

/-- The command of an opcode. -/
def cmdInfo (op : BitVec 16) : Option CmdInfo := (cmdTable1 ++ cmdTable2 ++ cmdTable3).find? (fun c => c.op == op.toNat)

/-- payload_len suits the opcode (R493 step 5, R539). -/
def lenOk (r : LenRule) (payload : List Byte) : Bool :=
  let n := payload.length
  match r with
  | .fixed k => n == k
  | .list h u lo hi => decide (h ≤ n) && (n - h) % u == 0 && decide (lo ≤ (n - h) / u) && decide ((n - h) / u ≤ hi)
  | .range lo hi => decide (lo ≤ n) && decide (n ≤ hi)
  | .eps => decide (8 ≤ n) && n == (8 + 2 * leField payload 4 2 + 7) / 8 * 8

/-- A byte of the fixed part that the payload cell does not name is not 0 (R539). -/
def payloadBad (c : CmdInfo) (payload : List Byte) : Bool :=
  (List.range c.hdr).any (fun k => !(c.named.any (fun r => decide (r.1 ≤ k) && decide (k ≤ r.2))) && payload.getD k 0 != 0)

/-- Bytes of a padded value of a read item: its width in the parameter table, 8 for status words up to 8 bytes and counters;
`paramWidth` is that width. -/
def readBytesOf (payload : List Byte) (width : Nat → Nat) : Nat :=
  16 + ((List.range ((payload.length - 8) / 8)).map (fun i => 8 + (width (leField payload (8 + 8 * i + 2) 2) + 7) / 8 * 8)).sum

/-- Largest response data of a descriptor (R493 step 5; log entry 47). -/
def largestRsp (c : CmdInfo) (payload : List Byte) (width : Nat → Nat) (modules : Nat) : Nat :=
  if c.op = 0x0110 ∨ c.op = 0x0111 then readBytesOf payload width
  else if c.op = 0x0702 then leField payload 8 4
  else if c.op = 0x0704 then 8 + 64 * min 16 (leField payload 2 1)
  else if c.op = 0x0A02 then 8 + 80 * min 32 (leField payload 2 1)
  else if c.op = 0x0E00 then 16 + 32 * min 4096 (leField payload 4 4)
  else if c.op = 0x0902 then modules
  else c.rsp

/-! ### Endpoints and devices (R15 to R17) -/

/-- The endpoint lies in a range of the local endpoint map (R17). -/
def epInMap (ep : Nat) : Bool :=
  [(0x0000, 0x004F), (0x0100, 0x01FF), (0x0200, 0x027F), (0x0400, 0x043F), (0x0440, 0x046F), (0x0480, 0x0483), (0x0600, 0x06FF),
   (0x0800, 0x08FF), (0x0A00, 0x0A03), (0x0A10, 0x0A11), (0x0A20, 0x0A23), (0x0C00, 0x0C07), (0x0C10, 0x0C5F),
   (0x1F00, 0x1FFF)].any (fun r => decide (r.1 ≤ ep) && decide (ep ≤ r.2))

/-- The device number names this module. -/
def State.isOwn (s : State) (dev : Nat) : Bool := dev == 0 || dev == s.fabric.device

/-- The device number is present in the fabric: this module, or one the tables route to (R16, R650). -/
def State.devPresent (s : State) (dev : Nat) : Bool := s.isOwn dev || s.fabric.routes.any (fun r => r.1 == dev)

/-- A message leaves for a device over the fabric. -/
def State.fabSend (s : State) (dev : Nat) (m : FabMsg) : State :=
  { s with fabric := { s.fabric with sent := (dev, m) :: s.fabric.sent } }

/-- This module keeps the wait-for graph: it is the leader, or stands alone (R527, R647). -/
def State.isLeader (s : State) : Bool := !(s.fabric.state == .member && s.fabric.leaderDev != s.fabric.device)

/-- Endpoints that a state-changing command names (R525). -/
def cmdEps (c : CmdInfo) (payload : List Byte) : List Nat :=
  if c.op = 0x0800 ∨ c.op = 0x0801 then
    ((List.range 32).filter (fun i => bitOf (leField payload 0 4) i)).map (· + 0x440)
  else if c.op = 0x0901 then [0xA20 + leField payload 0 1]
  else if c.op = 0x0C02 then [0x1F10 + leField payload 0 1]
  else if c.ep then [leField payload 0 2] else []

/-! ### Lock tables (R525 to R529, R616) -/

/-- Holder of an endpoint of this module. -/
def State.lockHolder (s : State) (ep : Nat) : Option SessRef :=
  (s.locks.held.find? (fun h => h.1.toNat == ep)).map (·.2)

/-- The endpoint is locked by another session than `me` (R525). -/
def State.lockedFor (s : State) (me : SessRef) (ep : Nat) : Bool :=
  match s.lockHolder ep with
  | some h => h != me
  | none => false

/-- A session of this module by its mailbox. -/
def State.sessRef (s : State) (m : Nat) : SessRef := { dev := 0, sid := ((s.getSession m).map (fun x => x.id.toNat)).getD 0 }

/-- The mailbox of a session of this module. -/
def State.mbxOf (s : State) (r : SessRef) : Option Nat :=
  if r.dev ≠ 0 then none
  else (s.sessions.find? (fun x => match x.2 with
    | some y => y.id.toNat == r.sid
    | none => false)).map (·.1)

/-- Nothing stands in the way of a request: no endpoint held by another session or named by a request of `before` (R526). -/
def State.lockFree (s : State) (before : List LockWait) (r : LockWait) : Bool :=
  r.eps.all (fun e => !(s.lockedFor r.sess e.toNat) && !(before.any (fun w => w.sess != r.sess && w.eps.contains e)))

/-- The name of a session in messages: a session of this module carries its device number (R665). -/
def State.outRef (s : State) (r : SessRef) : SessRef := if r.dev = 0 then { r with dev := s.fabric.device } else r

/-- The name of a session here: one of this module has device 0. -/
def State.inRef (s : State) (r : SessRef) : SessRef := if r.dev = s.fabric.device then { r with dev := 0 } else r

/-- Sessions a request would wait for (R527). -/
def State.waitsOn (s : State) (r : LockWait) : List SessRef :=
  let holders := (s.locks.held.filter (fun h => r.eps.contains h.1 && h.2 != r.sess)).map (·.2)
  let earlier := ((s.locks.waits ++ s.locks.asked).filter (fun w => w.sess != r.sess && w.eps.any (r.eps.contains ·))).map (·.sess)
  (holders ++ earlier).eraseDups

/-- The endpoints of a request are taken together. -/
def State.takeLocks (s : State) (r : LockWait) : State :=
  s.modLocks (fun l => { l with held := l.held ++ (r.eps.filter (fun e => !(l.held.contains (e, r.sess)))).eraseDups.map (fun e => (e, r.sess)) })

/-- A session's waiting LOCK is over: its edges leave the graph, at the leader at once, else by a message (R527). -/
def State.dropEdges (s : State) (r : SessRef) : State :=
  if s.isLeader then s.modLocks (fun l => { l with graph := l.graph.filter (fun e => e.1 != r) })
  else s.fabSend s.fabric.leaderDev (.lockRelease (s.outRef r) [])

/-- The LOCK of a session is granted: its own session here, or a grant to its module (R526). -/
def State.tellGrant (s : State) (r : LockWait) : State :=
  match s.mbxOf r.sess with
  | some m =>
    match s.getSession m with
    | some x =>
      match x.waiting with
      | some w => (s.setSession m (some { x with waiting := none, locks := x.locks ++ (r.eps.map (fun e => (0, e))).filter (fun l => !x.locks.contains l) })).ok w.1
      | none => s
    | none => s
  | none => if r.sess.dev = 0 then s else s.fabSend r.sess.dev (.lockGrant r.sess)

/-- Waiting requests are granted in acceptance order (R526). -/
def State.grantWaits (s : State) : State :=
  (s.locks.waits.foldl (fun (a : State × List LockWait) r =>
    if a.1.lockFree a.2 r then
      let s := (a.1.takeLocks r).modLocks (fun l => { l with waits := l.waits.erase r })
      ((s.dropEdges r.sess).tellGrant r, a.2)
    else (a.1, a.2 ++ [r])) (s, [])).1

/-- Endpoints of this module are released by a session; requests that wait may be granted (R529). -/
def State.releaseLocks (s : State) (r : SessRef) (eps : List (BitVec 16)) : State :=
  (s.modLocks (fun l => { l with held := l.held.filter (fun h => !(h.2 == r && eps.contains h.1)) })).grantWaits

/-- A session's waiting request is withdrawn from this module's table (R510, R528). -/
def State.withdraw (s : State) (r : SessRef) : State :=
  let was := s.locks.waits.any (fun w => w.sess == r) || s.locks.asked.any (fun w => w.sess == r)
  let s := s.modLocks (fun l => { l with
    waits := l.waits.filter (fun w => w.sess != r), asked := l.asked.filter (fun w => w.sess != r) })
  if was then (s.dropEdges r).grantWaits else s

/-- Locks and requests of every session of a device that left the fabric go (R529). -/
def State.dropDevice (s : State) (dev : Nat) : State :=
  let s := s.modLocks (fun l => { l with
    held := l.held.filter (fun h => h.2.dev != dev), waits := l.waits.filter (fun w => w.sess.dev != dev)
    asked := l.asked.filter (fun w => w.sess.dev != dev) })
  s.grantWaits

/-! ### Responses (R490, R503, R535, R665) -/

/-- The bytes of a response (32 bytes), then its data when it does not lie inline. -/
def rspBytes (r : RspEntry) : List Byte :=
  leBytes 2 r.opcode.toNat ++ leBytes 1 r.tag ++ leBytes 1 r.flags ++ leBytes 2 r.status.toNat ++ leBytes 2 r.device ++ leFt8 r.tDone ++
  leBytes 4 r.data.length ++ (if r.data.length ≤ 12 then r.data ++ leBytes (12 - r.data.length) 0 else leBytes 12 0 ++ r.data)

/-- A session datagram (R503): header, body, authentication tag; no key: a tag of zeros. -/
def datagram (type sid seq : Nat) (body : List Byte) (key : Option (List Byte)) : List Byte :=
  let h := leBytes 4 0x4C4D5344 ++ leBytes 1 1 ++ leBytes 1 type ++ leBytes 2 body.length ++ leBytes 4 sid ++ leBytes 8 seq ++
    leBytes 4 0 ++ body
  h ++ (match key with
    | some k => (hmac k h).take 16
    | none => leBytes 16 0)

/-- An advance of rsp_tail signalled under R535. -/
def State.mbxSignal (s : State) (m : Nat) : State :=
  let b := s.getMbx m
  let send := match b.lastMsi with
    | some t => decide (t + 64 * b.moderation ≤ s.tick)
    | none => true
  if send then
    (s.setMbx m { b with lastMsi := some s.tick, msiDue := false }).modEvents (fun e => { e with msix := b.vector :: e.msix })
  else s.setMbx m { b with msiDue := true }

/-- A response is delivered to the session's client: into the response ring, as a datagram, or as a RESPONSE frame; to a
mailbox that makes no transfers, nothing (R490, R491, R503, R665). -/
def State.deliverRsp (s : State) (m : Nat) (r : RspEntry) (noIrq : Bool) : State :=
  let b := s.getMbx m
  match b.state, s.getSession m with
  | .network, some x =>
    match x.via with
    | .udp port addr =>
      let s := s.setSession m (some { x with txSeq := x.txSeq + 1 })
      s.modHost (fun h => { h with udpOut := (port, addr, datagram 4 x.id.toNat (x.txSeq + 1) (rspBytes r) (some x.key)) :: h.udpOut })
    | .fabric dev => s.fabSend dev (.response x.id.toNat r.tag r.opcode r.status r.tDone r.data)
    | .pcie => s
  | .network, none => s
  | .off, _ => s
  | .error, _ => s
  | _, _ =>
    let s := s.setMbx m { b with responses := r :: b.responses, rspTail := b.rspTail + 1 }
    if noIrq then s else s.mbxSignal m

/-- The response of a completed command; `own` is this module's device number. -/
def rspOf (own k : Nat) (c : CmdRec) : RspEntry :=
  { opcode := c.opcode, tag := k % 256, status := c.status, device := if c.device = 0 then own else c.device, tDone := c.tDone, data := c.data
    flags := b2n (decide (12 < c.data.length)) + 2 * b2n (k / 256 % 2 == 1) + 4 * b2n (c.device != 0) }

/-- The response of a completed command is written and its tag freed; of a closed session, discarded (R490, R496, R510). -/
def State.writeRsp (s : State) (k : Nat) : State :=
  let c := s.cmd k
  let m := keyMbx k
  let s := s.setCmd k { c with inFlight := false, responseDue := false, slot := false }
  let s := s.modHost (fun h => { h with rspQueue := h.rspQueue.erase k })
  if !c.slot then s
  else
    let s := s.modMbx m (fun b => { b with reserved := b.reserved - 1 })
    s.deliverRsp m (rspOf s.fabric.device k c) c.noIrq

/-! ### The end of a session (R510) -/

/-- A session closes: its pending set goes, its locks are released, a waiting LOCK is aborted, responses of its commands are
discarded (R510). -/
def State.closeSession (s : State) (m : Nat) : State :=
  match s.getSession m with
  | none => s
  | some x =>
    let me := s.sessRef m
    let s := s.setSession m (some { x with waiting := none })
    let s := match x.waiting with
      | some w =>
        let s := if s.isOwn w.2.1 then s.withdraw me
          else s.fabSend w.2.1 (.lockRelease (s.outRef me) (w.2.2.1.filter (fun e => !x.locks.contains (w.2.1, e))))
        s.finish w.1 E.aborted
      | none => s
    let mine := x.locks.filter (fun l => s.isOwn l.1)
    let s := s.releaseLocks me (mine.map (·.2))
    let others := (x.locks.filter (fun l => !s.isOwn l.1)).map (·.1) |>.eraseDups
    let s := others.foldl (fun s d =>
      s.fabSend d (.lockRelease (s.outRef me) ((x.locks.filter (fun l => l.1 == d)).map (·.2)))) s
    let s := s.modHost (fun h => { h with
      cmds := h.cmds.map (fun c => if decide (c.1 < 65536) && keyMbx c.1 == m && c.2.inFlight then (c.1, { c.2 with slot := false }) else c) })
    let s := s.modMbx m (fun b => { b with
      reserved := 0, state := if b.state = .network then .off else if b.state = .open_ then .enabled else b.state })
    s.setSession m none

/-! ### Opening a session (R495, R499, R504, R507) -/

/-- A contiguous range of free tags, of no session and not in flight: the lowest (R495, R496, R510; log entry 26). -/
def State.freeTags (s : State) (n : Nat) : Option Nat :=
  let used := s.sessions.filterMap (fun x => x.2.map (fun y => (y.tagFirst, y.tagCount)))
  let flying := (s.host.cmds.filter (fun c => !keyRemote c.1 && c.1 / 256 % 2 == 0 && c.2.inFlight && !c.2.slot)).map (fun c => (c.1 % 256, 1))
  firstFit n 0 256 (used ++ flying)

/-- Session ids in use. -/
def State.sessionIds (s : State) : List Nat :=
  s.sessions.filterMap (fun x => x.2.map (fun y => y.id.toNat)) ++ s.host.halfOpen.map (·.1)

/-- A session is opened on a mailbox, or the status that refuses it; the response data (R495). -/
def State.openSession (s : State) (m : Nat) (id : Nat) (via : Transport) (key : List Byte) (tags : Nat) :
    State × BitVec 16 × List Byte :=
  if tags = 0 ∨ 256 < tags then (s, E.range, [])
  else
    match s.freeTags tags with
    | none => (s, E.noTag, [])
    | some t =>
      let x : Session := { id := BitVec.ofNat 32 id, via := via, tagFirst := t, tagCount := tags, key := key, traffic := s.tick }
      let st : MbxState := if via = .pcie then .open_ else .network
      let s := (s.setSession m (some x)).modMbx m (fun b => { b with state := st })
      (s, E.ok, leBytes 4 id ++ leBytes 2 t ++ leBytes 2 tags)

/-- The mailbox a network session takes (R499). -/
def State.netMbx (s : State) : Option Nat :=
  (List.range 64).find? (fun m => decide (s.par epModule P.mbxPcieReserve ≤ m) && (s.getMbx m).state == .off)

/-! ### Accepting descriptors (R493, R497, R498, R501) -/

/-- Bytes of a value of a parameter (R549). -/
def PKind.width : PKind → Nat
  | .q64 => 8
  | .ipPort => 8
  | .raw l => l.foldl max 0
  | _ => 4

/-- The widths of read items, by item code (R549): parameters as their tables, counters 4 bytes, status words 8, TRJ_REPORT 64. -/
def readWidth (code : Nat) : Nat :=
  if code = 0x6A00 then 64
  else if 0x6000 ≤ code then (if code < 0xA000 then 8 else 4)
  else
    match findParam code with
    | some r => r.kind.width
    | none => 8

/-- Steps 1 to 7 of R493 for a descriptor that reached this module; none: it passes. `sess` is the session whose tags apply,
`fwd` a forwarded command, whose session was checked by its own module (R665). -/
def State.checkDesc (s : State) (d : Descriptor) (sess : Option Session) (fwd inFlight : Bool) (me : SessRef) : Option (BitVec 16) :=
  let fl := d.flags.toNat
  let bare := bitOf fl 1
  if d.reserved ≠ 0 ∨ 8 ≤ fl ∨ 4096 ≤ d.device.toNat ∨ 1048576 < d.payloadLen.toNat ∨ (!bitOf fl 0 ∧ 40 < d.payloadLen.toNat) ∨
      d.rspAddr.toNat % 8 ≠ 0 then some E.malformed
  else
    match cmdInfo d.opcode with
    | none => some E.opcode
    | some c =>
      if bare && !c.bare then some E.malformed
      else if !fwd && sess.isNone && d.opcode != 0x0140 then some E.state
      else if !fwd && !bare && (match sess with
          | some x => !(decide (x.tagFirst ≤ d.tag.val) && decide (d.tag.val < x.tagFirst + x.tagCount)) || inFlight
          | none => inFlight) then some E.noTag
      else
        let big := largestRsp c d.payload readWidth (s.fabric.topo.length * 32 + 8)
        if !lenOk c.len d.payload || d.payload.length != d.payloadLen.toNat || (decide (12 < big) && decide (d.rspLen.toNat < big)) then
          some E.length
        else
          let here := s.isOwn d.device.toNat
          if !(s.devPresent d.device.toNat) || (c.own && !here) || (c.ep && !(epInMap (leField d.payload 0 2))) then some E.endpoint
          else if here && c.locked && (cmdEps c d.payload).any (s.lockedFor me) then some E.locked
          else none

/-- Bytes of items a COMMIT or PREPARE for another device carries with it (R543): device 0x000 becomes this module's number. -/
def State.itemBytes (s : State) (i : Item) : List Byte :=
  leBytes 4 (if i.fa.toNat / 8192 = 0 then s.fabric.device * 8192 + i.fa.toNat else i.fa.toNat) ++ leBytes 2 i.code.toNat ++ leBytes 2 i.index.toNat ++ leBytes 2 i.len.toNat ++ leBytes 6 0 ++
  leBytes ((i.len.toNat + 7) / 8 * 8) i.value

/-- A descriptor passes R493: its record is queued; for another device it is forwarded (R508, R543). LOCK and UNLOCK of another
device's endpoints run here, by the lock protocol (R526). -/
def State.acceptDesc (s : State) (k : Nat) (d : Descriptor) (pending : List Item) (sid : Nat) : State :=
  let here := s.isOwn d.device.toNat || d.opcode == 0x0130 || d.opcode == 0x0131
  let c : CmdRec := {
    opcode := d.opcode, state := if here then .queued else .running, inFlight := true, slot := true
    noIrq := bitOf d.flags.toNat 2, device := if s.isOwn d.device.toNat then 0 else d.device.toNat, image := d
    forwarded := if here then none else some s.tick, order := s.host.nextOrder, sid := sid }
  let s := (s.setCmd k c).modHost (fun h => { h with nextOrder := h.nextOrder + 1 })
  if here then
    match cmdInfo d.opcode with
    | some i => if payloadBad i d.payload then s.finish k E.malformed else s
    | none => s
  else
    let carry := d.opcode == 0x0121 || d.opcode == 0x0122 || d.opcode == 0x0124
    let d' := if carry then { d with payload := d.payload ++ pending.flatMap s.itemBytes } else d
    s.fabSend d.device.toNat (.command (BitVec.ofNat 32 sid) (k % 256) { d' with device := 0 })

/-- A descriptor that fails R493 is answered at once (R493). -/
def State.answerNow (s : State) (m : Nat) (d : Descriptor) (st : BitVec 16) (data : List Byte) : State :=
  s.deliverRsp m { opcode := d.opcode, tag := d.tag.val, flags := 2 * b2n (bitOf d.flags.toNat 1), status := st, device := s.fabric.device,
                     tDone := s.ft8, data := data }
    (bitOf d.flags.toNat 2)

/-- A descriptor taken from a session's mailbox is checked, and answered or accepted (R493, R536). -/
def State.takeDesc (s : State) (m : Nat) (d : Descriptor) : State :=
  let k := m * 512 + d.tag.val + 256 * b2n (bitOf d.flags.toNat 1)
  let x := s.getSession m
  match s.checkDesc d x false (s.cmd k).inFlight (s.sessRef m) with
  | some st =>
    let s := s.bumpIf (st == E.malformed) (epMbx m) C.mbxMalformed
    (s.modMbx m (fun b => { b with reserved := b.reserved - 1 })).answerNow m d st []
  | none => (s.bump (epMbx m) C.mbxCmdAccepted).acceptDesc k d ((x.map (·.pendingSet)).getD []) ((x.map (fun y => y.id.toNat)).getD 0)

end Sys2Proof.Machine
end

