-- ==== Sys2Proof/Machine/Mailbox.lean ====
section
/-! DEFINITION. Mailboxes: the direct registers of BAR0 (R485 to R492), the rings (R489, R490), the event ring (R533 to R535),
sessions over PCIe and the fabric (R495 to R511), forwarding (R508), and the status commands of group 0x01 and 0x0E. -/

namespace Sys2Proof.Machine

/-- BAR0 is reachable: D1 is powered (R485). -/
def State.bar0 (s : State) : Bool := s.power.state != .blanket && s.power.state != .hamper

/-- A host access to BAR0: nothing while D1 is off. -/
def State.access (s : State) (f : State → State) : Out := .next (if s.bar0 then f s else s)

/-- Ring size of a mailbox (R488). -/
def Mailbox.size (b : Mailbox) : Nat := 2 ^ b.sizeLog2

/-- The vector and moderation fields of a control register. -/
def vectorOf (v : BitVec 32) : Nat := bits v.toNat 21 16
/-- The moderation field, µs. -/
def moderationOf (v : BitVec 32) : Nat := bits v.toNat 11 0

/-- MBX_DOORBELL (R488): a value within the ring gives cmd_tail; any other is ignored, counted and logged. -/
def execMbxDoorbell (m : Fin 64) (tail : BitVec 16) (s : State) : Out :=
  s.access fun s =>
    let b := s.getMbx m
    if (tail - b.cmdHead).toNat ≤ b.size then .setMbx s m { b with cmdTail := tail }
    else (s.bump (epMbx m) C.mbxBadDoorbell).log (epMbx m) 0x0E02 (tail.toNat + dat 2 b.cmdHead.toNat)

/-- MBX_RSP_HEAD_WRITE (R488): rsp_head up to rsp_tail frees slots; beyond it, as a bad doorbell. -/
def execMbxRspHeadWrite (m : Fin 64) (head : BitVec 16) (s : State) : Out :=
  s.access fun s =>
    let b := s.getMbx m
    if (head - b.rspHead).toNat ≤ (b.rspTail - b.rspHead).toNat then s.setMbx m { b with rspHead := head }
    else (s.bump (epMbx m) C.mbxBadDoorbell).log (epMbx m) 0x0E02 (head.toNat + dat 2 b.cmdHead.toNat)

/-- The fields of MBX_CTRL other than enable: size_log2 only while enable is 0, and only a size of the table (R492). -/
def Mailbox.ctrl (b : Mailbox) (v : BitVec 32) : Mailbox :=
  let z := bits v.toNat 15 12
  { b with
    vector := vectorOf v, moderation := moderationOf v
    sizeLog2 := if b.enable || z < 4 || 10 < z then b.sizeLog2 else z }

/-- MBX_ENABLE_SET (R499, R500): the mailbox is claimed for PCIe, in BOOT until mbx_ready; ignored in NETWORK and counted. The
boot ROM without a valid image serves mailbox 0 (R785). -/
def execMbxEnableSet (m : Fin 64) (ctrl : BitVec 32) (s : State) : Out :=
  s.access fun s =>
    let b := s.getMbx m
    if b.state = .network then s.bump epModule C.mbxBadAccess
    else if b.enable then s.setMbx m (b.ctrl ctrl)
    else
      let b := { b.ctrl ctrl with enable := true }
      s.setMbx m { b with state := if s.host.mbxReady || (s.power.rescue && m.val == 0) then .enabled else .boot }

/-- A PCIe mailbox goes OFF: its session closes, its indices return to 0 (R492, R499, R510). -/
def State.mbxOff (s : State) (m : Nat) : State :=
  (s.closeSession m).modMbx m (fun b => { b with
    enable := false, state := .off, cmdTail := 0, cmdHead := 0, rspTail := 0, rspHead := 0, reserved := 0, stalled := false
    msiDue := false })

/-- MBX_ENABLE_CLEAR (R492): enable written 0 closes the session and ends ring transfers; where it was 0, the other fields are set. -/
def execMbxEnableClear (m : Fin 64) (ctrl : BitVec 32) (s : State) : Out :=
  s.access fun s =>
    let s' := s.modMbx m (fun b => b.ctrl ctrl)
    if (s.getMbx m).enable then s'.mbxOff m else s'

/-- MBX_EVT_HEAD_WRITE (R534): records up to evt_tail are freed; EVENTS_LOST is written when room returns. -/
def execMbxEvtHeadWrite (head : BitVec 16) (s : State) : Out :=
  s.access fun s =>
    if s.events.used < (head - s.events.head).toNat then s
    else
      let e := { s.events with head := head }
      match e.lostRun with
      | some (n, first, last) =>
        if e.enable && decide (e.used < evtRingSize) then
          let r : EventRec := { t := first, source := s.fa epModule, code := 0x0E01, data := n + dat 8 last.toNat }
          { s with events := { e.put r s.tick with lostRun := none } }
        else { s with events := e }
      | none => { s with events := e }

/-- MBX_EVT_ENABLE (R533): the enable bit and fields of MBX_EVT_CTRL; no record counts as lost for the time before. -/
def execMbxEvtEnable (ctrl : BitVec 32) (s : State) : Out :=
  s.access fun s =>
    let on := bitOf ctrl.toNat 31
    s.modEvents (fun e => { e with
      enable := on, vector := vectorOf ctrl, moderation := moderationOf ctrl
      lostRun := if e.enable && on then e.lostRun else none })

/-- Records lost in a tick, which a read of MBX_EVT_LOST in that tick does not return (R21). -/
def Events.lostNow (e : Events) (tick : Nat) : Nat := if e.lostAt.1 = tick then min e.lost e.lostAt.2 else 0

/-- MBX_EVT_LOST_READ (R18, R21): the read returns the count before the records lost in this tick, and the count holds those
alone. -/
def execMbxEvtLostRead (s : State) : Out :=
  s.access fun s => s.modEvents (fun e => { e with lost := e.lostNow s.tick, lostRead := e.lost - e.lostNow s.tick })

/-- FT.16 t_ftl after now: 40 to 70 ns, a free value (R487, R537; log entry 97). -/
def State.ftlInstant (s : State) : Ft16 := s.time.ft16 + BitVec.ofNat 48 (40 * 65536 + s.fresh % (30 * 65536 + 1))

/-- SUP_FT_SNAP_LO_READ (R487): latches FT.16 t_ftl after the request. -/
def execSupFtSnapLoRead (s : State) : Out :=
  s.access fun s => s.took.modHost (fun h => { h with snap := s.ftlInstant, snapSeq := h.snapSeq + 1 })

/-- SUP_FAULT_WRITE (R18, R20): a 1 clears its bit, but not one that was set in this tick. -/
def execSupFaultWrite (mask : BitVec 32) (s : State) : Out :=
  s.access fun s => s.modHost (fun h =>
    { h with fault := h.fault &&& ~~~(if h.faultSet.1 = s.tick then mask &&& ~~~h.faultSet.2 else mask) })

/-- MBX_BAD_ACCESS (R486): a write that is not a naturally aligned 32-bit write is ignored and counted. -/
def execMbxBadAccess (s : State) : Out := s.access fun s => s.bump epModule C.mbxBadAccess

/-- The low or high half of a 64-bit base register. -/
def setHalf (hi : Bool) (old : BitVec 64) (v : BitVec 32) : BitVec 64 :=
  if hi then BitVec.ofNat 64 (v.toNat * 2 ^ 32 + old.toNat % 2 ^ 32) else BitVec.ofNat 64 (old.toNat / 2 ^ 32 * 2 ^ 32 + v.toNat)

/-- REGISTER_WRITE (R18, R485, R492): fields of a register without a row of its own; read-only registers and other offsets
ignore writes, ring bases and size while enable is 1 too. -/
def execRegisterWrite (reg : DirectReg) (v : BitVec 32) (s : State) : Out :=
  s.access fun s =>
    let base (m : Fin 64) (f : Mailbox → Mailbox) : State := s.modMbx m (fun b => if b.enable then b else f b)
    match reg with
    | .evtBaseLo => s.modEvents (fun e => { e with base := setHalf false e.base v })
    | .evtBaseHi => s.modEvents (fun e => { e with base := setHalf true e.base v })
    | .evtCtrlFields => s.modEvents (fun e => { e with vector := vectorOf v, moderation := moderationOf v })
    | .mbxCmdBaseLo m => base m (fun b => { b with cmdBase := setHalf false b.cmdBase v })
    | .mbxCmdBaseHi m => base m (fun b => { b with cmdBase := setHalf true b.cmdBase v })
    | .mbxRspBaseLo m => base m (fun b => { b with rspBase := setHalf false b.rspBase v })
    | .mbxRspBaseHi m => base m (fun b => { b with rspBase := setHalf true b.rspBase v })
    | .mbxCtrlFields m => s.modMbx m (fun b => b.ctrl v)
    | .readOnly _ => s

/-! ### The rings -/

/-- Opcodes the boot ROM without a valid image accepts (R785): SESSION_OPEN, SYS_IDENTIFY, FW_WRITE, FW_ACTIVATE. -/
def bootRomOps : List (BitVec 16) := [0x0140, 0x0100, 0x0C10, 0x0C11]

/-- A descriptor taken: answered in BOOT or by the boot ROM, else checked and accepted or answered (R489, R493, R501, R785). -/
def State.fetched (s : State) (m : Nat) (d : Descriptor) (boot : Bool) : State :=
  let give (s : State) (st : BitVec 16) : State := (s.modMbx m (fun b => { b with reserved := b.reserved - 1 })).answerNow m d st []
  if boot then give (s.bump (epMbx m) C.mbxBusyBoot) E.busyBoot
  else if s.power.rescue && !(bootRomOps.contains d.opcode) then give s E.state
  else s.takeDesc m d

/-- DESCRIPTOR_FETCH (R489, R493, R501): the next descriptor is taken when a response slot is free; without one, the delay is
counted once. An untagged descriptor waits for the untagged one before it of the same tag byte (log entry 48). -/
def execDescriptorFetch (m : Fin 64) (d : Descriptor) (s : State) : Out :=
  let b := s.getMbx m
  let serves := s.power.restarting.isNone && ((b.state == .boot && !s.power.rescue) || b.state == .enabled || b.state == .open_)
  .next (
    if !serves || b.cmdHead == b.cmdTail then s
    else if bitOf d.flags.toNat 1 && (s.cmd (m.val * 512 + d.tag.val + 256)).inFlight then s
    else if b.size ≤ (b.rspTail - b.rspHead).toNat + b.reserved then
      (s.bumpIf (!b.stalled) (epMbx m) C.mbxRspStall).modMbx m (fun b => { b with stalled := true })
    else
      let s := s.setMbx m { b with cmdHead := b.cmdHead + 1, reserved := b.reserved + 1, stalled := false }
      s.fetched m d (b.state == .boot))

/-- RESPONSE_WRITE (R490, R496): the first completed command of the mailbox in completion order gets its response. -/
def execResponseWrite (m : Fin 64) (s : State) : Out :=
  .next (match s.host.rspQueue.find? (fun k => keyMbx k == m.val) with
    | some k => s.writeRsp k
    | none => s)

/-- RING_DMA_FAIL (R491): the mailbox goes to ERROR and ring_dma sets; the responses of its commands are discarded. -/
def execRingDmaFail (m : Fin 64) (s : State) : Out :=
  let b := s.getMbx m
  .next (if b.state = .boot ∨ b.state = .enabled ∨ b.state = .open_ then (s.setMbx m { b with state := .error }).supFault 2 else s)

/-- MSIX_MODERATION_END (R535): an advance inside the interval is signalled at its end. -/
def execMsixModerationEnd (source : Option (Fin 64)) (s : State) : Out :=
  let elapsed (last : Option Nat) (us : Nat) : Bool :=
    match last with
    | some t => decide (t + 64 * us ≤ s.tick)
    | none => true
  .next (match source with
    | some m =>
      let b := s.getMbx m
      if b.msiDue && elapsed b.lastMsi b.moderation then s.mbxSignal m else s
    | none =>
      if s.events.msiDue && elapsed s.events.lastMsi s.events.moderation then
        s.modEvents (fun e => { e with msiDue := false, lastMsi := some s.tick, msix := e.vector :: e.msix })
      else s)

/-- PCIE_LINK_DOWN (R499): every PCIe mailbox goes OFF. -/
def execPcieLinkDown (s : State) : Out :=
  .next ((List.range 64).foldl (fun s m =>
    let b := s.getMbx m
    if b.state = .network ∨ b.state = .off then s else s.mbxOff m) s)

/-! ### Sessions -/

/-- A transport with no host memory: its session idles out (R509). -/
def Transport.network : Transport → Bool
  | .pcie => false
  | _ => true

/-- SESSION_IDLE_TIMEOUT (R509): a network session closes after session_idle without traffic. -/
def execSessionIdleTimeout (m : Fin 64) (s : State) : Out :=
  .next (match s.getSession m with
    | some x =>
      if x.via.network && s.expired x.traffic (1000 * msTicks (s.parF epModule P.sessionIdle)) then s.closeSession m else s
    | none => s)

/-- CMD_RECORD_EXPIRY (R530): a record goes 10 s after completion. -/
def execCmdRecordExpiry (ref : CmdRef) (s : State) : Out :=
  let c := s.cmd (cmdKey ref)
  let ended := c.state != .none_ && c.state != .queued && c.state != .running && !c.inFlight
  .next (if ended && s.passed c.doneTick 640000000 then s.setCmd (cmdKey ref) {} else s)

/-- The free session_id of a new session: a value without a rule, not 0 and not in use (R503; log entry 4). -/
def State.newSession (s : State) : Nat :=
  let x := s.fresh % 2 ^ 32
  let used := s.sessionIds
  ((List.range 128).map (fun i => (x + i) % 2 ^ 32)).find? (fun k => k != 0 && !used.contains k) |>.getD 1

/-- SESSION_OPEN (R495, R499): on a PCIe mailbox; a session already open answers E_STATE. -/
def execSessionOpen (ref : CmdRef) (tags : BitVec 16) (s : State) : Out :=
  .next (s.execCmd ref 0x0140 fun k s =>
    let m := keyMbx k
    if tags.toNat = 0 ∨ 256 < tags.toNat then s.finish k E.range
    else if (s.getSession m).isSome then s.finish k E.state
    else
      let (s', st, data) := s.openSession m s.newSession .pcie [] tags.toNat
      s'.took.finish k st data)

/-- SESSION_CLOSE (R551): the response is written, then the session closes (R510). -/
def execSessionClose (ref : CmdRef) (s : State) : Out :=
  .next (s.execCmd ref 0x0141 fun k s => ((s.ok k).writeRsp k).closeSession (keyMbx k))

/-- KEY_SET (R502, R551): only over PCIe; 32 zero bytes remove the key and its half-open sessions. -/
def execKeySet (ref : CmdRef) (keyId : Byte) (key : List Byte) (s : State) : Out :=
  .next (s.execCmd ref 0x0150 fun k s =>
    let pcie := match s.getSession (keyMbx k) with
      | some x => x.via == .pcie
      | none => false
    s.checked k [(!pcie || keyRemote k, E.auth), (decide (8 ≤ keyId.toNat), E.range)] fun s =>
      (if key.all (· == 0) then
        s.modHost (fun h => { h with
          keys := mdel h.keys keyId.toNat, halfOpen := h.halfOpen.filter (fun x => x.2.keyId != keyId.toNat) })
      else s.modHost (fun h => { h with keys := mput h.keys keyId.toNat key })).ok k)

/-! ### Forwarding (R507, R508, R664, R665) -/

/-- Bytes of a descriptor's own payload; what follows them is the item stream a COMMIT, COMMIT_AT or PREPARE carries (R543). -/
def ownPayload (op : BitVec 16) : Option Nat :=
  if op = 0x0121 then some 0 else if op = 0x0122 ∨ op = 0x0124 then some 8 else none

/-- A descriptor as R493 judges it: without the item stream. -/
def bareDesc (d : Descriptor) : Descriptor :=
  match ownPayload d.opcode with
  | some n => { d with payload := d.payload.take n, payloadLen := BitVec.ofNat 32 n }
  | none => d

/-- A fabric session of a device with this id on a mailbox. -/
def State.fabricSession (s : State) (src sid : Nat) : Option Nat :=
  (s.sessions.find? (fun x => match x.2 with
    | some y => y.via == .fabric src && y.id.toNat == sid
    | none => false)).map (·.1)

/-- SESSION_OPEN of a device: a session on a mailbox of its own (R499, R507). -/
def State.openFabric (s : State) (src : Nat) (sess : BitVec 32) (d : Descriptor) : State :=
  let reply (s : State) (st : BitVec 16) (data : List Byte) : State := s.fabSend src (.response sess.toNat d.tag.val d.opcode st s.ft8 data)
  match s.netMbx with
  | none => reply s E.queueFull []
  | some m =>
    let (s', st, data) := s.openSession m s.newSession (.fabric src) [] (leField d.payload 0 2)
    reply s'.took st data

/-- A command for the source's session, executed here (R508, R665). -/
def State.runForwarded (s : State) (src : Nat) (sess : BitVec 32) (d : Descriptor) : State :=
  let k := 65536 + src * 256 + d.tag.val
  let refuse (st : BitVec 16) : State := s.fabSend src (.response sess.toNat d.tag.val d.opcode st s.ft8 [])
  if (s.cmd k).inFlight then refuse E.noTag
  else
    match s.checkDesc (bareDesc d) none true false { dev := src, sid := sess.toNat } with
    | some st => refuse st
    | none => s.acceptDesc k d [] sess.toNat

/-- FORWARDED_COMMAND_RX (R507, R508, R665): a command of a device that headcount admitted, for its own session or for a fabric
session on this module; one of a device not admitted is dropped as a violation (R667). -/
def execForwardedCommandRx (src : Fin 4096) (sess : BitVec 32) (d : Descriptor) (s : State) : Out :=
  .next (
    if !(s.fabric.routes.any (fun r => r.1 == src.val)) then s
    else if (d.opcode.toNat = 0x0140) then s.openFabric src.val sess d
    else
      match s.fabricSession src.val sess.toNat with
      | some k =>
        let s := s.modSession k (fun x => x.map (fun x => { x with traffic := s.tick }))
        (s.modMbx k (fun b => { b with reserved := b.reserved + 1 })).takeDesc k d
      | none => s.runForwarded src.val sess d)

/-- A COMMIT carried to another device was accepted there: it succeeded, or it was dropped at its boundary with an item's index
(R520, R543, R544). -/
def commitTaken (op st : BitVec 16) (data : List Byte) : Bool :=
  (op == 0x0121 || op == 0x0122) && (st == E.ok || (st == E.state && !data.isEmpty))

/-- The record of a forwarded command that waits for a response: the tagged one, else the untagged one. -/
def State.forwardKey (s : State) (m tag : Nat) : Option Nat :=
  [m * 512 + tag, m * 512 + tag + 256].find? (fun k => (s.cmd k).state == .running && (s.cmd k).forwarded.isSome)

/-- FORWARDED_RESPONSE_RX (R508): the response of a forwarded command completes it. -/
def execForwardedResponseRx (m : Fin 64) (tag : Fin 256) (status : BitVec 16) (data : List Byte) (tDone : Ft8) (s : State) : Out :=
  .next (match s.forwardKey m tag with
    | some k =>
      let s := if commitTaken (s.cmd k).opcode status data then
          s.modSession m (fun x => x.map (fun x => { x with pendingSet := [] })) else s
      let s := s.finish k status data
      s.setCmd k { s.cmd k with tDone := tDone, forwarded := none }
    | none => s)

/-- FORWARD_TIMEOUT (R508): no response within remote_timeout. -/
def execForwardTimeout (m : Fin 64) (tag : Fin 256) (s : State) : Out :=
  .next (match s.forwardKey m tag with
    | some k =>
      match (s.cmd k).forwarded with
      | some t =>
        if s.expired t (msTicks (s.parF epModule P.remoteTimeout)) then
          let s := s.finish k E.timeout
          s.setCmd k { s.cmd k with forwarded := none }
        else s
      | none => s
    | none => s)

/-! ### Status commands (R498, R530 to R532, R541) -/

/-- Code of the time state. -/
def TimeState.code : TimeState → Nat
  | .unset => 0
  | .acquiring => 1
  | .locked => 2
  | .holdover => 3

/-- Code of the power state in SUP_STATE and PWR_STATUS (R771). -/
def PwrState.code : PwrState → Nat
  | .ramble => 0
  | .stroll => 1
  | .rest => 2
  | .blanket => 3
  | .hamper => 4

/-- An STO group is asserted: not released (R737). -/
def State.stoAsserted (s : State) (g : Nat) : Bool := !(mget s.safety.groups g {}).released

/-- SUP_ID. -/
def State.supId (s : State) : Nat := 0x64320001 + s.host.step * 256

/-- SUP_STATE. -/
def State.supState (s : State) : Nat :=
  s.host.restarts * 2 ^ 24 + b2n s.host.bankB * 2 ^ 12 + b2n s.host.mbxReady * 2 ^ 11 +
  b2n ((List.range 8).any s.stoAsserted) * 2 ^ 10 + b2n (s.host.fault != 0) * 2 ^ 9 +
  (if s.power.change.isSome then 4 else s.power.state.code)

/-- SUP_BOOT_PROGRESS. -/
def State.bootProgress (s : State) : Nat :=
  (match s.host.goodTick with | some t => min 0xFFFF ((s.tick - t) / 64000) | none => 0) * 2 ^ 16 + s.host.stage

/-- Code of a mailbox state (MBX_STATUS). -/
def MbxState.code : MbxState → Nat
  | .off => 0
  | .boot => 1
  | .enabled => 2
  | .open_ => 3
  | .error => 4
  | .network => 5

/-- A control register's word: enable, vector, ring size and moderation. -/
def ctrlWord (enable : Bool) (vector size moderation : Nat) : Nat := b2n enable * 2 ^ 31 + vector * 2 ^ 16 + size * 2 ^ 12 + moderation

/-- What a read of a register of mailbox m's block returns (R18). -/
def State.readMbx (s : State) (m o : Nat) : Nat :=
  let b := s.getMbx m
  match o with
  | 0x04 => b.cmdHead.toNat
  | 0x08 => b.rspTail.toNat
  | 0x0C => b.rspHead.toNat
  | 0x10 => b.cmdBase.toNat % 2 ^ 32
  | 0x14 => b.cmdBase.toNat / 2 ^ 32
  | 0x18 => b.rspBase.toNat % 2 ^ 32
  | 0x1C => b.rspBase.toNat / 2 ^ 32
  | 0x20 => ctrlWord b.enable b.vector b.sizeLog2 b.moderation
  | 0x24 => ((s.getSession m).map (fun x => x.id.toNat % 65536)).getD 0 * 2 ^ 16 + b.state.code
  | _ => 0

/-- What a read of a direct register returns (R18, R485): the current value, of a write-only or reserved field and of any other
offset zero. SUP_FT_SNAP_LO reads as the latch its read makes, MBX_EVT_LOST as the count that its read clears. -/
def State.readReg (s : State) (o : Nat) : Nat :=
  match o with
  | 0x000 => s.supId
  | 0x004 => s.supState
  | 0x008 => s.bootProgress
  | 0x00C => s.host.fault.toNat
  | 0x100 => s.events.base.toNat % 2 ^ 32
  | 0x104 => s.events.base.toNat / 2 ^ 32
  | 0x108 => s.events.tail.toNat
  | 0x10C => s.events.head.toNat
  | 0x110 => ctrlWord s.events.enable s.events.vector 0 s.events.moderation
  | 0x114 => s.events.lost - s.events.lostNow s.tick
  | 0x200 => (s.ftlInstant >>> 16).toNat % 2 ^ 32
  | 0x204 => s.host.snap.toNat % 2 ^ 16 * 2 ^ 16 + s.host.snapSeq.toNat
  | _ => if 0x10000 ≤ o ∧ o < 0x11000 then s.readMbx (o / 64 % 64) (o % 64) else 0

/-- A read of 1 to 4 bytes within one register (R486). -/
def State.readBytes (s : State) (o n : Nat) : List Byte := leBytes n (s.readReg (o / 4 * 4) / 2 ^ (8 * (o % 4)))

/-- SYS_IDENTIFY (R541). -/
def execSysIdentify (ref : CmdRef) (s : State) : Out :=
  .next (s.execCmd ref 0x0100 fun k s =>
    let check := (s.safety.confirmed.map (·.toNat)).getD 0
    s.ok k (leBytes 4 s.supId ++ leBytes 8 Config.uid.toNat ++ leBytes 2 s.fabric.device ++ leBytes 2 0 ++
      leBytes 4 s.power.bankA.version.toNat ++ leBytes 4 s.power.bankB.version.toNat ++ leBytes 1 (b2n s.host.bankB) ++ leBytes 3 0 ++
      leBytes 4 check ++ leBytes 1 (b2n s.safety.confirmed.isSome + 2 * b2n s.time.leader) ++ leBytes 31 0))

/-- Tags of a session in flight. -/
def State.tagsInFlight (s : State) (m : Nat) : Nat :=
  (s.host.cmds.filter (fun c => decide (c.1 < 65536) && keyMbx c.1 == m && c.1 / 256 % 2 == 0 && c.2.inFlight && c.2.slot)).length

/-- SYS_STATUS (R498, R541). -/
def execSysStatus (ref : CmdRef) (s : State) : Out :=
  .next (s.execCmd ref 0x0101 fun k s =>
    let n := if keyRemote k then 0 else s.tagsInFlight (keyMbx k)
    s.ok k (leBytes 4 s.supState ++ leBytes 4 s.host.fault.toNat ++ leBytes 1 s.time.state.code ++ leBytes 1 n ++ leBytes 2 0))

/-- The record that CMD_STATUS and CMD_ABORT name: of the session's own tag; its device must match where one is named (R530). -/
def State.namedCmd (s : State) (k tag dev : Nat) : Option Nat :=
  let m := keyMbx k
  match s.getSession m with
  | some x =>
    if x.tagFirst ≤ tag ∧ tag < x.tagFirst + x.tagCount then
      let c := s.cmd (m * 512 + tag)
      if c.device == dev || (c.device == 0 && s.isOwn dev) then some (m * 512 + tag) else none
    else none
  | none => none

/-- A tag lies outside the session's range. -/
def State.tagOutside (s : State) (k tag : Nat) : Bool :=
  match s.getSession (keyMbx k) with
  | some x => !(decide (x.tagFirst ≤ tag) && decide (tag < x.tagFirst + x.tagCount))
  | none => true

/-- Code of a command's state (R530). -/
def CmdState.code : CmdState → Nat
  | .none_ => 0
  | .queued => 1
  | .running => 2
  | .done => 3
  | .failed => 4
  | .aborted => 5
  | .interrupted => 6

/-- CMD_STATUS (R530): state, status, progress and resume offset of the tag's latest command. -/
def execCmdStatus (ref : CmdRef) (dev : BitVec 16) (tag : Fin 256) (s : State) : Out :=
  .next (s.execCmd ref 0x0102 fun k s =>
    s.checked k [(s.tagOutside k tag, E.range)] fun s =>
      let c := match s.namedCmd k tag dev.toNat with
        | some n => s.cmd n
        | none => {}
      s.ok k (leBytes 1 c.state.code ++ leBytes 1 0 ++ leBytes 2 c.status.toNat ++ leBytes 4 c.progress ++ leBytes 4 c.resume))

/-- CMD_ABORT (R531): a queued command ends with E_ABORTED, a running non-atomic one at its next unit with the data of R494; a running
atomic or a completed one is too late. -/
def execCmdAbort (ref : CmdRef) (dev : BitVec 16) (tag : Fin 256) (s : State) : Out :=
  .next (s.execCmd ref 0x0103 fun k s =>
    s.checked k [(s.tagOutside k tag, E.range)] fun s =>
      match s.namedCmd k tag dev.toNat with
      | none => s.finish k E.state
      | some n =>
        match (s.cmd n).state with
        | .none_ => s.finish k E.state
        | .queued => (s.finish n E.aborted).ok k
        | .running =>
          let c := s.cmd n
          if nonAtomic.contains c.opcode && c.forwarded.isNone then
            (s.finish n E.aborted (leBytes 4 c.progress ++ leBytes 4 c.resume)).ok k
          else s.finish k E.tooLate
        | _ => s.finish k E.tooLate)

/-- INTERRUPTED_LIST (R532): the tags in flight at the last restart. -/
def execInterruptedList (ref : CmdRef) (s : State) : Out :=
  .next (s.execCmd ref 0x0104 fun k s =>
    s.ok k (leBytes 4 s.host.interrupted.length ++ s.host.interrupted.flatMap (fun r =>
      leBytes 1 r.tag ++ leBytes 1 r.outcome ++ leBytes 2 r.opcode.toNat ++ leBytes 1 r.mbx ++ leBytes 3 0 ++ leBytes 4 r.resume)))

/-! ### The event log (R561) -/

/-- The 32 bytes of an event record. -/
def EventRec.bytes (r : EventRec) : List Byte :=
  leFt8 r.t ++ leBytes 4 r.source ++ leBytes 2 r.code.toNat ++ leBytes 2 (min 65535 r.count) ++ leBytes 16 r.data

/-- LOG_READ (R561): records from a sequence number, from the oldest held when it is no longer held. -/
def execLogRead (job : CmdJob) (first max : BitVec 32) (s : State) : Out :=
  .next (s.execUnits job.ref 0x0E00 fun k s =>
    s.checked k [(decide (max.toNat = 0) || decide (4096 < max.toNat), E.range)] fun s =>
      let held := s.events.log.length
      let oldest := s.events.next - BitVec.ofNat 32 held
      let off := (first - oldest).toNat
      let skip := if off ≤ held then off else if 0 < (first - s.events.next).toInt then held else 0
      let recs := (s.events.log.reverse.drop skip).take max.toNat
      let seq := (oldest + BitVec.ofNat 32 skip).toNat
      let done := (s.cmd k).progress + reachUnits job.reach (recs.length - (s.cmd k).progress)
      s.unitsDone k job.reach (decide (recs.length ≤ done)) done ((seq + done) % 2 ^ 32)
        (leBytes 4 seq ++ leBytes 4 recs.length ++ leBytes 4 oldest.toNat ++ leBytes 4 0 ++ recs.flatMap EventRec.bytes))

/-- LOG_MARK (R541): a USER_MARK record at the session's mailbox; the response is its sequence number. -/
def execLogMark (ref : CmdRef) (data : BitVec 128) (s : State) : Out :=
  .next (s.execCmd ref 0x0E01 fun k s =>
    let n := s.events.next.toNat
    (s.log (if keyRemote k then epModule else epMbx (keyMbx k)) 0x0E03 data.toNat).ok k (leBytes 4 n))

end Sys2Proof.Machine
end

