-- ==== Sys2Proof/Machine/Coherent.lean ====
section
/-! DEFINITION. The coherent state: items and their checks (R549, R550), staging (R516, R552), the acceptance of commits (R517 to
R521, R834, R835), convoy registrations at a commit (R377) and the fabric-wide commit (R522 to R524). What a commit does at its
boundary stands in Apply.lean. -/

namespace Sys2Proof

/-- Device number of an item's fabric endpoint address. -/
def Item.dev (i : Item) : Nat := i.fa.toNat / 8192
/-- Local endpoint of an item. -/
def Item.ep (i : Item) : Nat := i.fa.toNat % 8192

/-- Bytes an item takes in an import image (R549). -/
def Item.size (i : Item) : Nat := 16 + (i.len.toNat + 7) / 8 * 8

end Sys2Proof

namespace Sys2Proof.Machine

/-! ### Items (R546 to R550) -/

/-- The item names this module (R540). -/
def State.ownItem (s : State) (i : Item) : Bool := s.isOwn i.dev

/-- Two items name one parameter. -/
def State.sameParam (s : State) (a b : Item) : Bool :=
  a.ep == b.ep && a.code == b.code && a.index == b.index && (a.dev == b.dev || (s.ownItem a && s.ownItem b))

/-- Object classes and members of an item code: a parameter's, a counter's, a status word's (R546); none: unknown (R550). -/
def codeInfo (code : Nat) : Option (List ObjClass × Nat) :=
  if code < 0x6000 then (findParam code).map (fun p => (p.classes, p.members))
  else if 0xA000 ≤ code then (counterTable (code / 256))[code % 256]?
  else if code % 256 = 0 ∧ code < 0x8400 then some ([], 1) else none

/-- Requesters on the arbiter of an endpoint (R607). -/
def arbN (ep : Nat) : Nat := if ep = 0x1F30 then 17 else if 0xA20 ≤ ep ∧ ep ≤ 0xA23 then 4 else 10

/-- An index lies within the members of a code on an object (R550). -/
def indexOk (ep code members idx : Nat) : Bool :=
  if code = P.arbLevel then decide (idx < arbN ep) else decide (idx < members)

/-- The object has the parameter: its class, and port A alone for the safe-copy items. -/
def hasParam (ep code : Nat) (classes : List ObjClass) : Bool :=
  match classOf ep with
  | some (c, _) => classes.contains c && !((code == P.safeSecond || code == P.safeBridge) && ep == 0xA11)
  | none => false

/-- An item's length suits its parameter (R549). -/
def lengthOk (k : PKind) (len : Nat) : Bool :=
  match k with
  | .raw l => l.contains len
  | k => len == k.width

/-- Bits of a value that its width leaves at 0 are not (R540, R549): above a local endpoint, above an address and port, above a
fabric address of a member. -/
def valueFormBad (k : PKind) (code v : Nat) : Bool :=
  match k with
  | .ep _ => decide (2 ^ 16 ≤ v)
  | .ipPort => decide (2 ^ 48 ≤ v)
  | _ => code == P.members && (List.range 8).any (fun n => decide (2 ^ 25 ≤ bits v (32 * n + 31) (32 * n)))

/-- The form of an item (R550): reserved fields, code, object, index and length; no value. A status word or counter is an item
that its object has no parameter for. -/
def State.formBad (s : State) (i : Item) : Option (BitVec 16) :=
  let code := i.code.toNat
  if 2 ^ 25 ≤ i.fa.toNat ∨ i.reserved ≠ 0 ∨ 2 ^ (8 * i.len.toNat) ≤ i.value then some E.malformed
  else
    match codeInfo code with
    | none => some E.malformed
    | some _ =>
      match findParam code with
      | none => some E.endpoint
      | some p =>
        if !s.devPresent i.dev || !hasParam i.ep code p.classes || !indexOk i.ep code p.members i.index.toNat then some E.endpoint
        else if !lengthOk p.kind i.len.toNat then some E.length
        else if valueFormBad p.kind code i.value then some E.malformed
        else none

/-- Form and lock of an item for a session (R516, R525). -/
def State.stageBad (s : State) (me : SessRef) (i : Item) : Option (BitVec 16) :=
  match s.formBad i with
  | some e => some e
  | none => if s.ownItem i && s.lockedFor me i.ep then some E.locked else none

/-- An item enters a pending set: it replaces an earlier value of its parameter (R516). -/
def State.addItem (s : State) (set : List Item) (i : Item) : List Item :=
  if set.any (s.sameParam i) then set.map (fun j => if s.sameParam i j then i else j) else set ++ [i]

/-- A pending set is within its size: 4,096 items and 256 KiB of values (R516). -/
def setFits (l : List Item) : Bool := decide (l.length ≤ 4096) && decide ((l.map (fun i => i.len.toNat)).sum ≤ 262144)

/-- The pending set of a command's session. -/
def State.pendingOf (s : State) (m : Nat) : List Item := ((s.getSession m).map (·.pendingSet)).getD []

/-- The pending set of a session set. -/
def State.setPending (s : State) (m : Nat) (l : List Item) : State :=
  s.modSession m (fun x => x.map (fun x => { x with pendingSet := l }))

/-- STAGE_WRITE (R516): all items or none. -/
def execStageWrite (ref : CmdRef) (items : List Item) (s : State) : Out :=
  .next (s.execCmd ref 0x0120 fun k s =>
    let m := keyMbx k
    let me := s.sessRef m
    if keyRemote k then s.finish k E.endpoint
    else if items.isEmpty || decide (4096 < items.length) then s.finish k E.malformed
    else
      match items.findSome? (s.stageBad me) with
      | some e => s.finish k e
      | none =>
        let l := items.foldl s.addItem (s.pendingOf m)
        if !setFits l then s.finish k E.queueFull else (s.setPending m l).ok k (leBytes 4 l.length))

/-- Items added in order up to the first that fails: the set, the number added, the bytes, and the failure (R552). -/
def State.importItems (s : State) (me : SessRef) : List Item → List Item × Nat × Nat → (List Item × Nat × Nat) × Option (BitVec 16)
  | [], a => (a, none)
  | i :: t, (l, n, b) =>
    match s.stageBad me i with
    | some e => ((l, n, b), some e)
    | none =>
      let l' := s.addItem l i
      if setFits l' then s.importItems me t (l', n + 1, b + i.size) else ((l, n, b), some E.queueFull)

/-- PARAM_IMPORT (R552), in units of an item: items are added in order; those before a failure stay. -/
def execParamImport (job : CmdJob) (offset : BitVec 32) (items : List Item) (s : State) : Out :=
  .next (s.execUnits job.ref 0x0125 fun k s =>
    let m := keyMbx k
    if keyRemote k then s.finish k E.endpoint
    else
      let from_ := (s.cmd k).progress
      let left := items.drop from_
      let now := left.take (reachUnits job.reach left.length)
      let ((l, n, b), bad) := s.importItems (s.sessRef m) now (s.pendingOf m, from_, ((items.take from_).map Item.size).sum)
      let resume := offset.toNat + b
      let s := s.setPending m l
      let head := leBytes 4 n ++ leBytes 4 resume
      match bad with
      | some e => (s.setCmd k { s.cmd k with progress := n, resume := resume }).finish k E.partial_ (head ++ leBytes 2 e.toNat)
      | none => s.unitsDone k job.reach (decide (items.length ≤ n)) n resume head)

/-- DISCARD (R521). -/
def execDiscard (ref : CmdRef) (s : State) : Out :=
  .next (s.execCmd ref 0x0123 fun k s => (s.setPending (keyMbx k) []).ok k)

/-! ### Values (R518) -/

/-- The raw value a parameter holds for an item: a subnormal flushed (R7); an array of several lengths with its length mark. -/
def stored (k : PKind) (len v : Nat) : Nat :=
  match k with
  | .f32 _ _ _ => f32Flush v
  | .raw (_ :: _ :: _) => v + 2 ^ (8 * len)
  | _ => v

/-- A value outside the range of its form (R6, R7, R518). -/
def kindBad (k : PKind) (v : Nat) : Bool :=
  match k with
  | .u32 lo hi => decide (v < lo) || decide (hi < v)
  | .u32or lo hi o => (decide (v < lo) || decide (hi < v)) && v != o
  | .u32set l => !l.contains v
  | .s32 lo hi => decide (signedOf 32 v < lo) || decide (hi < signedOf 32 v)
  | .s32nz lo hi => decide (signedOf 32 v < lo) || decide (hi < signedOf 32 v) || v == 0
  | .sign => v != 1 && v != 0xFFFFFFFF
  | .f32 lo hi z =>
    let x := f32Val v
    f32Bad v || ((decide (x < f32Val lo.toNat) || decide (f32Val hi.toNat < x)) && !(z && x == 0))
  | .q64 => false
  | .ep l => !(l.any (fun r => decide (r.1 ≤ v) && decide (v ≤ r.2)))
  | .hallMap => !([1, 2, 3, 4, 5, 6].all (fun h => (hallPlaceOf v h).isSome)) || decide (2 ^ 18 ≤ v)
  | .ipPort => false
  | .ipMask =>
    let b := bits v 7 0 * 2 ^ 24 + bits v 15 8 * 2 ^ 16 + bits v 23 16 * 2 ^ 8 + bits v 31 24
    !((List.range 33).any (fun n => b == (2 ^ 32 - 2 ^ n)))
  | .raw _ => false
where
  hallPlaceOf (map st : Nat) : Option Nat := (List.range 6).find? (fun k => bits map (3 * k + 2) (3 * k) == st)

/-- A condition record breaks R840: malformed, or a field out of range. -/
def condForm (v : Nat) : Option (BitVec 16) :=
  let t := condType v
  let reserved := bits v 31 24 != 0 || bits v 63 48 != 0
  let slotless := t != 3 && condSlot v != 0
  let levelless := !(t == 3 || t == 4 || t == 5) && bits v 127 64 != 0
  let paramless := !(t == 3 || t == 4) && bits v 191 128 != 0
  let sourceless := (t == 0 || t == 3 || t == 5 || t == 6) && condSource v != 0xFFFF
  if 8 < t || reserved || slotless || levelless || paramless || sourceless then some E.malformed
  else if 2 < condEdge v || 7 < condSlot v || (t == 3 && decide (condParam v < 0)) then some E.range
  else none

/-- A record or array breaks the ranges its table gives its fields. -/
def rawBad (code v len : Nat) : Option (BitVec 16) :=
  let r (b : Bool) : Option (BitVec 16) := if b then some E.range else none
  if code = P.setRecord then
    r (decide ((setRecordOf v).outMin < -(2 ^ 55)) || decide (2 ^ 55 < (setRecordOf v).outMax) || decide (setHyst v < 0))
  else if code = P.capCond then condForm v
  else if code = P.capLatchAxes then
    r ((List.range 4).any (fun i =>
      let e := bits v (16 * i + 15) (16 * i)
      !(e < 0x40 || (0x100 ≤ e && e ≤ 0x1FF) || e == 0xFFFF)))
  else if code = P.qbvList then
    r ((List.range ((len - 16) / 8)).any (fun i =>
      let e := bits v (128 + 64 * i + 63) (128 + 64 * i)
      bits e 31 8 != 0 || bits e 63 32 < 1000 || 1000000000 < bits e 63 32))
  else if code = P.members then
    r ((List.range (len / 4)).any (fun i =>
      let f := bits v (32 * i + 31) (32 * i)
      match classOf (f % 8192) with
      | some (.servo, _) | some (.stepper, _) | some (.virt, _) => false
      | _ => true))
  else if code = P.schedOffset then r (v % 8 != 0)
  else none

/-- An item's value on its own (R518). -/
def valueBad (i : Item) : Option (BitVec 16) :=
  match findParam i.code.toNat with
  | none => some E.endpoint
  | some p => if kindBad p.kind i.value then some E.range else rawBad i.code.toNat i.value i.len.toNat

/-- An item's value in force. -/
def State.putItem (s : State) (i : Item) : State :=
  match findParam i.code.toNat with
  | some p => s.setPar i.ep i.code.toNat i.index.toNat (stored p.kind i.len.toNat i.value)
  | none => s

/-- The configuration with the commits scheduled up to B, those of a PREPARE among them, and a set on top (R518). -/
def State.configAt (s : State) (b : Nat) (items : List Item) : State :=
  let before := (s.host.commits.filter (fun c => decide (c.b ≤ b))).flatMap (·.items) ++
    (s.host.parts.filter (fun p => p.commit && decide (s.xtOfFt p.ftC ≤ b))).flatMap (·.items)
  items.foldl State.putItem (before.foldl State.putItem s)

/-! ### Rules of an item's own (R207, R343, R393, R400, R556, R796) -/

/-- A path group of another number names one of a list of members in the configuration. -/
def State.twoGroups (s : State) (g : Nat) : Bool :=
  let mine := s.groupMembers g
  let dev (f : Nat) : Nat := if f / 8192 = 0 then s.fabric.device * 8192 + f else f
  !(mine.map dev).Nodup || (List.range 32).any (fun h => h != g && (s.groupMembers h).any (fun f => (mine.map dev).contains (dev f)))

/-- Codes whose change alters a placed axis's declared cycles or grid (R52). -/
def placementCodes : List Nat := [P.curPeriodTicks, P.curPhaseTicks, P.hookKernel, P.secType, P.secSets]

/-- What an item breaks beyond its own value, in the configuration `t` its commit would leave at B. -/
def State.ruleBad (s t : State) (i : Item) (b : Nat) : Option (BitVec 16) :=
  let e := i.ep
  let code := i.code.toNat
  let c (x : Bool) : Option (BitVec 16) := if x then some E.conflict else none
  let migrating := s.power.migrations.any (fun g => g.axis == e && !g.moved && decide (b ≤ g.b))
  if e < 0x20 && migrating then some E.conflict
  else if code = P.hookKernel ∧ t.attachBad e ([0, 1, 2, 3].map (fun p => t.par e P.hookKernel p)) then some E.conflict
  else if e < 0x20 && placementCodes.contains code && (match (s.getFlags e).engine with
      | some le => !(t.engineAccepts (s.willHost le))
      | none => s.power.migrations.any (fun g => g.axis == e && !g.moved && !(t.engineAccepts (s.willHost g.target)))) then some E.conflict
  else if code = P.gearNum ∨ code = P.gearDen then c (s.gearStepBad e (t.parZ e P.gearNum) (t.par e P.gearDen))
  else if code = P.camTable then c (!(s.getCam (i.value - 0x600)).valid || s.camStepBad e (i.value - 0x600))
  else if code = P.members then c (t.twoGroups (e - 0x1F40))
  else none

/-- The item is the first of the set that sets one of the codes on its object. -/
def firstOf (items : List Item) (n : Nat) (ep : Nat) (codes : List Nat) : Bool :=
  !((items.take n).any (fun j => j.ep == ep && codes.contains j.code.toNat))

/-- Ranges against another parameter and forbidden combinations that an item of the set brings up (R834, R835). -/
def State.crossBad (t : State) (items : List Item) (n : Nat) (i : Item) : Option (BitVec 16) :=
  match classOf i.ep with
  | none => none
  | some (cl, _) =>
    let hit (r : XRule) : Bool := r.codes.contains i.code.toNat && firstOf items n i.ep r.codes && r.bad t i.ep
    if (rangeRules cl).any hit then some E.range else if (comboRules cl).any hit then some E.conflict else none

/-- The first failing item of a set with its status (R518, R525). -/
def State.itemsBad (s : State) (me : SessRef) (items : List Item) (b : Nat) : Option (BitVec 16 × Nat) :=
  let t := s.configAt b items
  items.zipIdx.findSome? (fun (i, n) =>
    match s.stageBad me i with
    | some e => some (e, n)
    | none =>
      match valueBad i with
      | some e => some (e, n)
      | none =>
        match s.ruleBad t i b with
        | some e => some (e, n)
        | none => (t.crossBad items n i).map (·, n))

/-- An item of the set belongs to a scheduled commit or to items held for a PREPARE (R519, R522). -/
def State.taken (s : State) (items : List Item) : Option Nat :=
  let held := s.host.commits.flatMap (·.items) ++ (s.host.parts.filter (·.ready)).flatMap (·.items)
  items.findIdx? (fun i => held.any (s.sameParam i))

/-! ### State conditions (R96, R343, R446, R520, R697) -/

/-- The axis that "disabled only" refers to is DISABLED; a publisher's is its master. -/
def State.axisDown (s : State) (ep : Nat) : Bool :=
  match classOf ep with
  | some (.aux, j) => (s.getAux j).state == .off
  | some (.publisher, _) => s.axisStateOf (s.par ep P.convMaster) == .disabled
  | some (.servo, _) | some (.stepper, _) | some (.virt, _) | some (.remote, _) => s.axisStateOf ep == .disabled
  | _ => true

/-- A trail is in motion: neither CLOSED nor IDLE. -/
def State.trailBusy (s : State) (ep : Nat) : Bool := (s.getTrail ep).state != .closed && (s.getTrail ep).state != .idle

/-- A state condition of an item holds (R520). -/
def State.mayChange (s : State) (i : Item) : Bool :=
  match findParam i.code.toNat with
  | none => true
  | some p =>
    match p.change with
    | .any => true
    | .disabledOnly => s.axisDown i.ep
    | .disarmedOnly => (s.getCap (i.ep - 0x800)).state == .disarmed
    | .canStopped => (s.getCan (i.ep - 0xA00)).state == .off || (s.getCan (i.ep - 0xA00)).state == .listen
    | .special =>
      if i.code.toNat = P.members then
        let g := i.ep - 0x1F40
        let new := (List.range (i.len.toNat / 4)).map (fun n => bits i.value (32 * n + 31) (32 * n))
        !s.trailBusy i.ep && (s.groupMembers g ++ new).all (fun f => match s.localEp f with
          | some e => !s.trailBusy e
          | none => true)
      else if i.code.toNat = P.capSpillMib then
        (List.range 256).all (fun c => (s.getCap c).state == .disarmed) && s.capMem.baskets.all (fun b => !b.2.spilled)
      else if i.code.toNat = P.schUserMib then s.sched.images.isEmpty
      else true

/-- The first item whose state condition fails. -/
def State.stateBad (s : State) (items : List Item) : Option Nat := items.findIdx? (fun i => !s.mayChange i)

/-! ### Acceptance (R517 to R521) -/

/-- Items of a stream (R549). -/
def parseItems : Nat → List Byte → List Item
  | 0, _ => []
  | n + 1, l =>
    if l.length < 16 then []
    else
      let len := leField l 8 2
      let i : Item := {
        fa := BitVec.ofNat 32 (leField l 0 4), code := BitVec.ofNat 16 (leField l 4 2), index := BitVec.ofNat 16 (leField l 6 2)
        len := BitVec.ofNat 16 len, reserved := leField l 10 6, value := leField l 16 len }
      i :: parseItems n (l.drop i.size)

/-- The pending set a COMMIT or PREPARE acts on: its session's, or the one it carries (R543). -/
def State.commitSet (s : State) (k : Nat) : List Item :=
  if keyRemote k then
    let d := (s.cmd k).image
    parseItems 4096 (d.payload.drop ((ownPayload d.opcode).getD 0))
  else s.pendingOf (keyMbx k)

/-- The session a command runs for (R525, R665). -/
def State.cmdSess (s : State) (k : Nat) : SessRef :=
  if keyRemote k then { dev := (k - 65536) / 256, sid := (s.cmd k).sid } else s.sessRef (keyMbx k)

/-- Convoy numbers a set gives to publishers that are not yet registered under them: item, publisher and number (R377). -/
def State.toRegister (s : State) (items : List Item) : List (Nat × Nat × Nat) :=
  items.zipIdx.filterMap (fun (i, n) =>
    let c := i.ep - 0x1F60
    if i.code.toNat = P.convNumber ∧ i.value ≠ 0xFFFF ∧ (s.getPublisher c).registered ≠ some i.value then some (n, c, i.value) else none)

/-- At the leader: the number is registered to another publisher. -/
def State.numberTaken (s : State) (c n : Nat) : Bool :=
  let f := mget s.fabric.convoys n 0
  f != 0 && f != s.fa (epPub c)

/-- Registrations made here, at the leader; the first number that another publisher holds refuses them. -/
def State.registerHere (s : State) (l : List (Nat × Nat × Nat)) : Option Nat :=
  (l.zipIdx.find? (fun (r, i) => s.numberTaken r.2.1 r.2.2 || (l.take i).any (fun q => q.2.2 == r.2.2))).map (fun r => r.1.1)

/-- The registrations of a set are asked of the leader, or made at it; the key waits for answers. -/
def State.askRegister (s : State) (k : Nat) (l : List (Nat × Nat × Nat)) : State :=
  l.foldl (fun s r =>
    let s := s.sendRegister 1 r.2.2 (s.fa (epPub r.2.1))
    s.modPublisher r.2.1 (fun p =>
      if s.time.leader then { p with registered := some r.2.2 } else { p with registering := some (r.2.2, s.tick, k) })) s

/-- Checks of R521 from the empty set on; none: the set may be scheduled for B. A participant of a PREPARE checks R518 and R519
and no state condition (R522 step 2). -/
def State.setBad (s : State) (me : SessRef) (items : List Item) (b : Nat) (conditions : Bool := true) : Option (BitVec 16 × Option Nat) :=
  if items.isEmpty then some (E.state, none)
  else if items.any (fun i => !s.ownItem i) then some (E.conflict, none)
  else
    match s.itemsBad me items b with
    | some (e, n) => some (e, some n)
    | none =>
      match s.taken items with
      | some n => some (E.conflict, some n)
      | none =>
        match if conditions then s.stateBad items else none with
        | some n => some (E.state, some n)
        | none => if s.time.leader then (s.registerHere (s.toRegister items)).map (fun n => (E.conflict, some n)) else none

/-- Index data of a rejected commit (R494). -/
def indexData (n : Option Nat) : List Byte :=
  match n with
  | some n => leBytes 4 n
  | none => []

/-- A commit accepted for B, or rejected; one whose convoy numbers await the leader's answer runs until it (R377, R520). -/
def State.acceptCommit (s : State) (k b : Nat) : State :=
  let items := s.commitSet k
  match s.setBad (s.cmdSess k) items b with
  | some (e, n) => s.finish k e (indexData n)
  | none =>
    let regs := s.toRegister items
    let s := (s.askRegister k regs).run k
    if !regs.isEmpty && !s.time.leader then s
    else
      let s := if keyRemote k then s else s.setPending (keyMbx k) []
      s.modHost (fun h => { h with commits := h.commits ++ [{ b := b, cmd := some k, items := items }] })

/-- The first epoch boundary at least t_cmin, 100 µs, after now (R517). -/
def State.nextBoundary (s : State) : Nat :=
  gridAtOrAfter (s.par epModule P.epochTicks) 0 (s.xt16 + 100000 * 65536)

/-- COMMIT (R517 to R521, R543). -/
def execCommit (ref : CmdRef) (s : State) : Out :=
  .next (s.execCmd ref 0x0121 fun k s => s.acceptCommit k s.nextBoundary)

/-- COMMIT_AT (R517 to R521, R543). -/
def execCommitAt (ref : CmdRef) (ft : Ft) (s : State) : Out :=
  .next (s.execCmd ref 0x0122 fun k s =>
    let d := ftDiff ft s.ft
    s.checked k [(decide (d < 100000), E.tooLate), (decide (2000000000 < d), E.range)] fun s => s.acceptCommit k (s.xtOfFt ft))

/-! ### Fabric-wide commit (R522 to R524) -/

/-- Key under which a participant's registrations wait. -/
def partKey (dev num : Nat) : Nat := 2 ^ 40 + num * 4096 + dev

/-- Items a participant holds for a PREPARE. -/
def State.part (s : State) (dev num : Nat) : Option Participant := s.host.parts.find? (fun p => p.dev == dev && p.num == num)

/-- A participant's items replaced or removed. -/
def State.setPart (s : State) (dev num : Nat) (p : Option Participant) : State :=
  s.modHost (fun h => { h with parts := (h.parts.filter (fun q => !(q.dev == dev && q.num == num))) ++ p.toList })

/-- Devices of a PREPARE's participants. -/
def Prepare.devs (p : Prepare) : List Nat := p.parts.map (·.1)

/-- A PREPARE coordinated here. -/
def State.prep (s : State) (num : Nat) : Option Prepare := (s.host.prepares.find? (fun p => p.1 == num)).map (·.2)

/-- A PREPARE coordinated here set. -/
def State.setPrep (s : State) (num : Nat) (p : Prepare) : State := s.modHost (fun h => { h with prepares := mput h.prepares num p })

/-- The items of an ABORT are discarded at once (R522 step 5). -/
def State.dropPart (s : State) (dev num : Nat) : State := s.setPart dev num none

/-- The coordinator sends ABORT to every participant (R522 steps 3 and 4). -/
def State.decideAbort (s : State) (num : Nat) : State :=
  match s.prep num with
  | none => s
  | some p =>
    let s := s.setPrep num { p with decision := some false }
    p.devs.foldl (fun s d => if s.isOwn d then s.dropPart s.fabric.device num else s.fabSend d (.commitAbort num)) s

/-- Every participant is READY: the coordinator sends COMMIT, which its own participant holds at once (R522 steps 3 and 4). -/
def State.decideCommit (s : State) (num : Nat) : State :=
  match s.prep num with
  | none => s
  | some p =>
    let own := p.devs.filter s.isOwn
    let s := s.setPrep num { p with decision := some true, commitSent := true, acks := own }
    let s := p.devs.foldl (fun s d => if s.isOwn d then s else s.fabSend d (.commitDecision num)) s
    match s.part s.fabric.device num with
    | some q => s.setPart s.fabric.device num (some { q with commit := true })
    | none => s

/-- An answer of a participant at the coordinator (R522 step 3). -/
def State.readyFrom (s : State) (num dev : Nat) (st index : BitVec 16) : State :=
  match s.prep num with
  | none => s
  | some p =>
    let p' := { p with parts := p.parts.map (fun q => if q.1 = dev then (q.1, some (st, index)) else q) }
    let s := s.setPrep num p'
    if p.decision.isSome then s
    else if st ≠ E.ok then s.decideAbort num
    else if p'.parts.all (fun q => q.2.isSome) then s.decideCommit num
    else s

/-- A participant answers its coordinator. -/
def State.answerReady (s : State) (dev num : Nat) (st index : BitVec 16) : State :=
  if s.isOwn dev then s.readyFrom num dev st index else s.fabSend dev (.commitReady num st index)

/-- A participant checks its items for FT_c and holds them, or answers the failure (R518, R519, R522 step 2). -/
def State.takePart (s : State) (dev num : Nat) (me : SessRef) (ftC : Ft) (items : List Item) : State :=
  let b := s.xtOfFt ftC
  let bad := if items.isEmpty then none else s.setBad me items b false
  match bad with
  | some (e, n) => s.answerReady dev num e (BitVec.ofNat 16 (n.getD 0xFFFF))
  | none =>
    let regs := s.toRegister items
    let p : Participant := { dev := dev, num := num, ftC := ftC, items := items }
    let s := s.askRegister (partKey dev num) regs
    if !regs.isEmpty && !s.time.leader then s.setPart dev num (some p)
    else
      let s := s.setPart dev num (some { p with ready := true })
      s.answerReady dev num E.ok 0xFFFF

/-- Device numbers in rising order. -/
def insertDev (d : Nat) : List Nat → List Nat
  | [] => [d]
  | x :: t => if d = x then x :: t else if d < x then d :: x :: t else x :: insertDev d t

/-- PREPARE (R522): the coordinator sends each participant its items; it is itself one. -/
def execPrepare (ref : CmdRef) (ftC : Ft) (s : State) : Out :=
  .next (s.execCmd ref 0x0124 fun k s =>
    let items := s.commitSet k
    let d := ftDiff ftC s.ft
    let own := s.fabric.device
    let devOf (i : Item) : Nat := if s.ownItem i then own else i.dev
    let devs := items.foldl (fun l i => insertDev (devOf i) l) [own]
    s.checked k [(items.isEmpty, E.state), (decide (d < 10000000), E.tooLate), (decide (2000000000 < d), E.range),
      (decide (64 < devs.length), E.conflict)] fun s =>
      let num := s.host.nextPrep
      let me := s.cmdSess k
      let s := (s.run k).modHost (fun h => { h with nextPrep := h.nextPrep + 1 })
      let s := if keyRemote k then s else s.setPending (keyMbx k) []
      let s := s.setPrep num { ftC := ftC, cmd := k, parts := devs.map (fun d => (d, none)) }
      let s := (devs.filter (· != own)).foldl (fun s d =>
        s.fabSend d (.commitItems num (BitVec.ofNat 32 me.sid) ftC (items.filter (fun i => devOf i == d)))) s
      s.takePart own num me ftC (items.filter s.ownItem))

/-- COMMIT_ITEMS_MSG (R522 step 2). -/
def execCommitItemsMsg (p : PrepRef) (sess : BitVec 32) (ftC : Ft) (items : List Item) (s : State) : Out :=
  .next (s.takePart p.dev.val p.num { dev := p.dev.val, sid := sess.toNat } ftC items)

/-- COMMIT_READY_MSG (R522 step 3). -/
def execCommitReadyMsg (num : Nat) (part : Fin 4096) (status index : BitVec 16) (s : State) : Out :=
  .next (s.readyFrom num part.val status index)

/-- COMMIT_DECISION_MSG (R522 step 4): COMMIT is held and acknowledged. -/
def execCommitDecisionMsg (p : PrepRef) (s : State) : Out :=
  .next (match s.part p.dev.val p.num with
    | some q =>
      if q.ready then (s.setPart p.dev.val p.num (some { q with commit := true })).fabSend p.dev.val (.commitAck p.num) else s
    | none => s)

/-- COMMIT_ABORT_MSG (R522 step 5): the items are discarded at once; the decision is acknowledged. -/
def execCommitAbortMsg (p : PrepRef) (s : State) : Out :=
  .next ((s.dropPart p.dev.val p.num).fabSend p.dev.val (.commitAck p.num))

/-- COMMIT_ACK_MSG (R522 step 4). -/
def execCommitAckMsg (num : Nat) (part : Fin 4096) (s : State) : Out :=
  .next (match s.prep num with
    | some p => if p.decision = some true ∧ part.val ∉ p.acks then s.setPrep num { p with acks := p.acks ++ [part.val] } else s
    | none => s)

/-- A deadline relative to an FT_c has come: now is at or past FT_c plus a number of ns. -/
def State.atFt (s : State) (ftC : Ft) (ns : Int) : Bool := decide (ns ≤ -ftDiff ftC s.ft)

/-- PREPARE_READY_DEADLINE (R522 step 3): at FT_c − 3 ms without every READY. -/
def execPrepareReadyDeadline (num : Nat) (s : State) : Out :=
  .next (match s.prep num with
    | some p => if p.decision.isNone && s.atFt p.ftC (-3000000) then s.decideAbort num else s
    | none => s)

/-- PREPARE_ACK_DEADLINE (R522 step 4): at FT_c − 1 ms with an acknowledgement missing, and repeated until FT_c. -/
def execPrepareAckDeadline (num : Nat) (s : State) : Out :=
  .next (match s.prep num with
    | some p =>
      let missing := p.decision == some true && p.devs.any (fun d => !p.acks.contains d)
      let again := p.decision == some false && p.commitSent && !s.atFt p.ftC 0
      if s.atFt p.ftC (-1000000) && (missing || again) then s.decideAbort num else s
    | none => s)

/-- Outcome of a participant: 1 applied, 0 discarded, 2 unknown (R523). -/
def State.outcome (s : State) (p : Prepare) (d : Nat) : Nat :=
  if p.applied.contains d then 1 else if !p.commitSent || s.isOwn d then 0 else 2

/-- The response of a PREPARE (R523). -/
def State.endPrepare (s : State) (num : Nat) (p : Prepare) : State :=
  let st := if p.devs.all (fun d => p.applied.contains d) then E.ok
    else if p.decision = some false ∧ !p.commitSent then E.aborted else E.faultFabric
  let data := p.parts.flatMap (fun q =>
    let a := q.2.getD (E.timeout, 0xFFFF)
    leBytes 2 q.1 ++ leBytes 2 a.1.toNat ++ leBytes 2 a.2.toNat ++ leBytes 1 (s.outcome p q.1) ++ leBytes 1 0)
  (s.modHost (fun h => { h with prepares := mdel h.prepares num })).finish p.cmd st data

/-- A participant reports APPLIED at the coordinator (R522 step 6). -/
def State.appliedFrom (s : State) (num dev : Nat) : State :=
  match s.prep num with
  | none => s
  | some p =>
    let p := { p with applied := if dev ∈ p.applied then p.applied else p.applied ++ [dev] }
    let s := s.setPrep num p
    if p.devs.all (fun d => p.applied.contains d) then s.endPrepare num p else s

/-- COMMIT_APPLIED_MSG (R522, R523). -/
def execCommitAppliedMsg (num : Nat) (part : Fin 4096) (s : State) : Out := .next (s.appliedFrom num part.val)

/-- PREPARE_DISCARD_TIMEOUT (R522 steps 5 and 6): at FT_c + 100 ms undecided items go; the coordinator's PREPARE completes. -/
def execPrepareDiscardTimeout (p : PrepRef) (s : State) : Out :=
  let s1 := match s.part p.dev.val p.num with
    | some q => if s.atFt q.ftC 100000000 then s.dropPart p.dev.val p.num else s
    | none => s
  .next (
    if !s1.isOwn p.dev.val then s1
    else
      match s1.prep p.num with
      | some r => if s1.atFt r.ftC 100000000 then s1.endPrepare p.num r else s1
      | none => s1)

/-! ### Convoy registration (R377) -/

/-- A commit or a participant's set whose convoy numbers are all registered goes on. -/
def State.registered (s : State) (k : Nat) : State :=
  if (List.range 16).any (fun c => match (s.getPublisher c).registering with
      | some r => r.2.2 == k
      | none => false) then s
  else if 2 ^ 40 ≤ k then
    let dev := (k - 2 ^ 40) % 4096
    let num := (k - 2 ^ 40) / 4096
    match s.part dev num with
    | some q => (s.setPart dev num (some { q with ready := true })).answerReady dev num E.ok 0xFFFF
    | none => s
  else s.acceptCommit k (if (s.cmd k).opcode.toNat = 0x0122 then s.xtOfFt (BitVec.ofNat 32 (leField (s.cmd k).image.payload 0 4))
    else s.nextBoundary)

/-- A registration fails: the commit that asked for it is rejected (R377). -/
def State.registerFailed (s : State) (k : Nat) (st : BitVec 16) : State :=
  let s := (List.range 16).foldl (fun s c => s.modPublisher c (fun p => match p.registering with
    | some r => if r.2.2 = k then { p with registering := none } else p
    | none => p)) s
  if 2 ^ 40 ≤ k then
    let dev := (k - 2 ^ 40) % 4096
    let num := (k - 2 ^ 40) / 4096
    (s.dropPart dev num).answerReady dev num st 0xFFFF
  else s.finish k st

/-- REGISTER_ANSWER_RX (R377): the leader's answer decides the commit. -/
def execRegisterAnswerRx (cp : Fin 16) (status : BitVec 16) (s : State) : Out :=
  .next (match (s.getPublisher cp).registering with
    | some (n, _, k) =>
      if status = E.ok then (s.modPublisher cp (fun p => { p with registered := some n, registering := none })).registered k
      else s.registerFailed k status
    | none => s)

/-- CONVOY_REGISTER_TIMEOUT (R377): no answer within 10 ms. -/
def execConvoyRegisterTimeout (cp : Fin 16) (s : State) : Out :=
  .next (match (s.getPublisher cp).registering with
    | some (_, _, k) => if s.registerDue cp then s.registerFailed k E.faultFabric else s
    | none => s)

end Sys2Proof.Machine
end

