-- ==== Sys2Proof/Machine/Frames.lean ====
section
/-! DEFINITION. The bytes of the module's own fabric frames and control blocks (R8, R89, R382, R549, R623, R632, R633, R637, R638,
R664, R666, R833 and the payload tables of 15_yunadra_fabric.md). What a frame holds that the spec gives no place or value comes from
Config (log entry 91). -/

namespace Sys2Proof

open Sys2Proof.Machine

/-! ### Codes -/

/-- CRC-16 of R139 over bytes. -/
def crc16 (l : List Byte) : Nat := crcMsb 16 0x1021 0xFFFF (l.flatMap byteBits)

/-- CRC-8 of a control block (R623). -/
def crc8 (l : List Byte) : Nat := crcMsb 8 0x07 0 (l.flatMap byteBits)

/-- Bytes of 0. -/
def zeros (n : Nat) : List Byte := List.replicate n 0

/-- Zeros that fill a list to a multiple of 8 bytes. -/
def padTo8 (l : List Byte) : List Byte := l ++ zeros ((8 - l.length % 8) % 8)

/-- A bit of a flags field. -/
def flagAt (b : Bool) (i : Nat) : Nat := if b then 2 ^ i else 0

/-! ### Payloads -/

/-- The 64-byte descriptor of a forwarded command, its address fields 0 (R493, R664): a payload that is not indirect stays inside. -/
def Descriptor.frameBytes (d : Descriptor) : List Byte :=
  leBytes 2 d.opcode.toNat ++ leBytes 1 d.tag.val ++ [d.flags] ++ leBytes 2 d.device.toNat ++ leBytes 2 d.reserved ++
    leBytes 4 d.payloadLen.toNat ++ leBytes 4 d.rspLen.toNat ++ zeros 8 ++
    (if bitOf d.flags.toNat 0 then zeros 40 else leBytes 40 (leVal (d.payload.take 40)))

/-- What of a forwarded command's payload follows the descriptor: all of an indirect one, else what a COMMIT or PREPARE carries beyond
its payload (R543). -/
def Descriptor.after (d : Descriptor) : List Byte :=
  if bitOf d.flags.toNat 0 then d.payload else d.payload.drop d.payloadLen.toNat

/-- An item with its value (R549). -/
def Item.bytes (i : Item) : List Byte :=
  leBytes 4 i.fa.toNat ++ leBytes 2 i.code.toNat ++ leBytes 2 i.index.toNat ++ leBytes 2 i.len.toNat ++ zeros 6 ++
    leBytes ((i.len.toNat + 7) / 8 * 8) i.value

/-- A publication (R382). -/
def Pub.bytes (p : Pub) : List Byte :=
  [p.convoy] ++ leBytes 1 (flagAt p.supersede 0 + flagAt p.boundary 1 + flagAt p.measured 2 + flagAt p.stopping 3 + flagAt p.endFlag 4) ++
    leBytes 2 p.seq.toNat ++ leBytes 4 p.masterGen.toNat ++ leBytes 4 p.period ++ leBytes 4 p.master ++ leBytes 8 p.tRef.toNat ++
    le8 p.p0 ++ le8 p.v0 ++ le8 p.a0 ++ le8 p.j0 ++ (List.range 8).flatMap (fun i => leBytes 4 (p.f.getD i 0).toNat) ++ zeros 8

/-- The numbers of a follower part, in the order of its fields. -/
def FolPart.numbers (f : FolPart) : List Int := [f.map, f.stage, f.num, f.den, f.ma, f.fa, f.c0, f.c1, f.c2, f.c3]

/-- A segment queue entry; the follower part, whose layout is not stated, comes from Config (R331). -/
def Seg.bytes (g : Seg) : List Byte :=
  leBytes 8 g.tStart.toNat ++ leBytes 8 g.tEnd.toNat ++ le8 g.p0 ++ le8 g.v0 ++ le8 g.a0 ++ le8 g.j0 ++ leBytes 2 g.gen.toNat ++
    leBytes 2 (flagAt g.last 0 + flagAt g.hold 1 + flagAt g.ramp 2) ++ leBytes 4 g.move.toNat ++ zeros 8 ++
    (match g.fol with
      | none => zeros 64
      | some f => (List.range 64).map (fun i => BitVec.ofNat 8 (Config.followerByte f.numbers i)))

/-- A TIME payload (R658). -/
def TimeMsg.bytes (m : TimeMsg) : List Byte :=
  let step : Int := match m.step with | some x => x.1 | none => 0
  let apply : Nat := match m.step with | some x => x.2.toNat | none => 0
  leBytes 8 (m.tx / 65536) ++ leBytes 2 m.tx ++ leBytes 1 m.state ++ leBytes 1 m.depth ++
    leBytes 4 (flagAt m.ptp 0 + flagAt m.step.isSome 1 + flagAt m.diverged 2) ++ leBytes 8 m.leader.toNat ++
    le8 (step / 65536) ++ le2 (step % 65536) ++ zeros 2 ++ leBytes 4 apply ++ leBytes 8 m.gm.toNat

/-- A DISCOVER payload. -/
def Discover.bytes (d : Discover) : List Byte :=
  leBytes 8 d.uid.toNat ++ leBytes 8 d.root.toNat ++ leBytes 1 d.distance ++ leBytes 1 d.port ++
    leBytes 1 (flagAt d.member 0 + flagAt d.child 1 + flagAt d.sync 2 + flagAt d.ptp 3) ++ zeros 1 ++ leBytes 2 d.device ++ zeros 2 ++
    leBytes 8 d.gm.toNat

/-- A module's entry of a REPORT (R637). -/
def ReportEntry.bytes (r : ReportEntry) : List Byte :=
  leBytes 8 r.uid.toNat ++ leBytes 2 r.preferred ++ leBytes 2 r.present ++ leBytes 1 (flagAt r.sync 0 + flagAt r.strict 1) ++ zeros 3 ++
    (List.range 4).flatMap (fun i => leBytes 8 (r.neigh.getD i 0).toNat) ++
    (List.range 4).flatMap (fun i => leBytes 2 (r.delay.getD i 0)) ++ zeros 8

/-- A module's entry of an ASSIGN (R637). -/
def AssignEntry.bytes (a : AssignEntry) : List Byte :=
  leBytes 8 a.uid.toNat ++ leBytes 2 a.device ++ leBytes 1 a.result ++ zeros 5

/-- Kind of a TABLE (R637). -/
def TableData.kind : TableData → Nat
  | .routes _ => 0
  | .masks _ => 1
  | .share _ => 2
  | .done _ => 3

/-- Bytes of a TABLE's data, in a coding that the spec does not state (log entry 91). -/
def TableData.size : TableData → Nat
  | .routes l => 4 * l.length
  | .masks l => 2 * l.length
  | .share sh => 4 * sh.routes.length + 2 * sh.masks.length + 8
  | .done _ => 0

/-- The numbers of a TABLE's data. -/
def TableData.numbers : TableData → List Nat
  | .routes l => l.flatMap (fun x => [x.1, x.2])
  | .masks l => l.flatMap (fun x => [x.1, x.2])
  | .share sh => [sh.lostUid.toNat, sh.lostPort, sh.parent, sh.routes.length] ++ sh.routes.flatMap (fun x => [x.1, x.2]) ++
      sh.masks.flatMap (fun x => [x.1, x.2]) ++ (match sh.leader with | some x => [x.1.toNat, x.2] | none => [])
  | .done t => [t.toNat]

/-- The sub-header of REQUEST and RESPONSE (R664). -/
def subHeader (op reason sid ahead : Nat) : List Byte :=
  leBytes 1 op ++ leBytes 1 reason ++ zeros 2 ++ leBytes 4 sid ++ leBytes 4 ahead ++ zeros 4

/-- A message of the commit protocol (R664, op 2). -/
def commitBytes (step status index ftC : Nat) : List Byte :=
  leBytes 1 step ++ zeros 1 ++ leBytes 2 status ++ leBytes 2 index ++ zeros 2 ++ leBytes 4 ftC

/-- A message of the lock protocol (R664, op 3), with its words of 2 bytes. -/
def lockBytes (step status wait : Nat) (l : List Nat) : List Byte :=
  leBytes 1 step ++ zeros 1 ++ leBytes 2 status ++ leBytes 4 wait ++ leBytes 2 l.length ++ l.flatMap (leBytes 2)

/-- The fixed part of a payload, given the bytes sent ahead as BULK, the piece number of a REPORT or the offset of a TABLE. -/
def FabMsg.head (part : Nat) : FabMsg → List Byte
  | .time m => m.bytes
  | .delayReq _ => []
  | .delayResp _ t2 t3 => leBytes 8 t2.toNat ++ leBytes 8 t3.toNat
  | .convoy p => p.bytes
  | .linkDown uid port cause gen => leBytes 8 uid.toNat ++ leBytes 1 port ++ leBytes 1 cause ++ leBytes 2 gen ++ zeros 4
  | .discover d => d.bytes
  | .report l => leBytes 2 l.length ++ leBytes 2 part ++ zeros 4
  | .assign l => leBytes 2 l.length ++ zeros 6
  | .table gen d => leBytes 2 gen ++ leBytes 1 d.kind ++ zeros 1 ++ leBytes 4 part ++
      leBytes 4 (match d with | .done t => t.toNat | _ => 0) ++ zeros 4
  | .register op c fa => leBytes 1 op ++ leBytes 1 c ++ zeros 2 ++ leBytes 4 fa ++ zeros 8
  | .command sid _ d => subHeader 1 0 sid.toNat part ++ d.frameBytes
  | .response sid ident opcode status tDone data => subHeader 1 0 sid part ++ leBytes 2 opcode.toNat ++ leBytes 1 ident ++
      leBytes 1 4 ++ leBytes 2 status.toNat ++ zeros 2 ++ leFt8 tDone ++ leBytes 4 data.length ++
      (if data.length ≤ 12 then leBytes 12 (leVal data) else zeros 12)
  | .nack _ reason => subHeader 1 reason 0 0
  | .commitItems _ sid ftC _ => subHeader 2 0 sid.toNat part ++ commitBytes 1 0 0 ftC.toNat
  | .commitReady _ status index => subHeader 2 0 0 0 ++ commitBytes 2 status.toNat index.toNat 0
  | .commitDecision _ => subHeader 2 0 0 0 ++ commitBytes 3 0 0 0
  | .commitAbort _ => subHeader 2 0 0 0 ++ commitBytes 4 0 0 0
  | .commitAck _ => subHeader 2 0 0 0 ++ commitBytes 5 0 0 0
  | .commitApplied _ => subHeader 2 0 0 0 ++ commitBytes 6 0 0 0
  | .lockRequest sess eps wait => subHeader 3 0 sess.sid part ++ lockBytes 1 0 wait (eps.map (·.toNat))
  | .lockGrant sess => subHeader 3 0 sess.sid 0 ++ lockBytes 2 E.ok.toNat 0 []
  | .lockRefusal sess circle => subHeader 3 0 sess.sid 0 ++ lockBytes 3 (if circle then E.waitCycle else E.locked).toNat 0 []
  | .lockRelease sess eps => subHeader 3 0 sess.sid part ++ lockBytes 4 0 0 (eps.map (·.toNat))
  | .lockQuery req on => subHeader 3 0 req.sid part ++ lockBytes 5 0 0 (on.map (fun r => Config.graphWord r.dev r.sid))
  | .lockAnswer sess circle => subHeader 3 0 sess.sid 0 ++ lockBytes 6 (if circle then E.waitCycle else E.ok).toNat 0 []
  | .bulk _ offset _ => leBytes 4 offset ++ zeros 4
  | .relay port returned addr udp _ => leBytes 1 port ++ leBytes 1 (b2n returned) ++ zeros 2 ++ leBytes 4 addr.toNat ++
      leBytes 2 udp.toNat ++ zeros 6
  | .segments _ _ => subHeader 1 0 0 part
  | .to .. | .forward .. | .abort .. | .resync | .rmark | .idle => []

/-- The data of a payload after its fixed part. -/
def FabMsg.data : FabMsg → List Byte
  | .report l => l.flatMap ReportEntry.bytes
  | .assign l => l.flatMap AssignEntry.bytes
  | .table gen d => (List.range d.size).map (fun i => BitVec.ofNat 8 (Config.tableByte gen d.kind d.numbers i))
  | .command _ _ d => d.after
  | .response _ _ _ _ _ data => if data.length ≤ 12 then [] else data
  | .commitItems _ _ _ items => items.flatMap Item.bytes
  | .bulk _ _ data => data
  | .relay _ _ _ _ data => data
  | .segments _ segs => segs.flatMap Seg.bytes
  | _ => []

/-- Frame type (R637). -/
def FabMsg.type : FabMsg → Nat
  | .time _ => 0x01
  | .delayReq _ => 0x02
  | .delayResp .. => 0x03
  | .convoy _ => 0x04
  | .linkDown .. => 0x05
  | .discover _ => 0x10
  | .report _ => 0x11
  | .assign _ => 0x12
  | .table .. => 0x13
  | .register .. => 0x14
  | .command .. | .commitItems .. | .commitDecision _ | .commitAbort _ | .lockRequest .. | .lockRelease .. | .lockQuery .. | .segments .. => 0x20
  | .response .. | .nack .. | .commitReady .. | .commitAck _ | .commitApplied _ | .lockGrant _ | .lockRefusal .. | .lockAnswer .. => 0x21
  | .bulk .. => 0x22
  | .relay .. => 0x23
  | .to _ _ m => m.type
  | .forward .. | .abort .. | .resync | .rmark | .idle => 0

/-- Identifier of a frame (R632). -/
def FabMsg.ident : FabMsg → Nat
  | .delayReq n | .delayResp n .. => n
  | .command _ n _ | .response _ n .. | .nack n _ | .bulk n .. => n
  | .commitItems n .. | .commitReady n .. | .commitDecision n | .commitAbort n | .commitAck n | .commitApplied n => n
  | .lockRequest q .. | .lockGrant q | .lockRefusal q _ | .lockRelease q _ | .lockQuery q _ | .lockAnswer q _ => Config.lockIdent q.dev q.sid
  | .register _ c _ => c
  | .to _ _ m => m.ident
  | _ => 0

/-! ### Virtual channels and pieces (R637, R664) -/

/-- Virtual channel of a message (R637). -/
def FabMsg.vc : FabMsg → Nat
  | .time _ | .delayReq _ | .delayResp .. | .convoy _ | .linkDown .. => 0
  | .discover _ | .report _ | .assign _ | .table .. | .register .. | .command .. | .commitItems .. | .commitDecision _
  | .commitAbort _ | .lockRequest .. | .lockRelease .. | .lockQuery .. | .relay .. | .segments .. => 1
  | .response .. | .nack .. | .commitReady .. | .commitAck _ | .commitApplied _ | .lockGrant _ | .lockRefusal .. | .lockAnswer .. => 2
  | .bulk .. => 3
  | .to _ _ m => m.vc
  | .forward _ f => f.vc.val
  | .abort _ v _ => v
  | .resync | .rmark | .idle => 0

/-- Bytes of a payload too long for one frame that go ahead as BULK (R664). -/
def FabMsg.ahead (m : FabMsg) : Nat := (m.head 0).length + m.data.length - 2024

/-- The BULK frames of `n` bytes from an offset on, 2,016 each; `fuel` bounds their number. -/
def bulkPieces (ident : Nat) : Nat → Nat → List Byte → List FabMsg
  | 0, _, _ => []
  | fuel + 1, off, l => if l.isEmpty then [] else .bulk ident off (l.take 2016) :: bulkPieces ident fuel (off + 2016) (l.drop 2016)

/-- The frames a message travels as, in order: the pieces of a REPORT, an ASSIGN or a TABLE, or BULK frames ahead of a REQUEST or RESPONSE that is
too long, each with what its fixed part names (R637, R664). -/
def FabMsg.pieces (m : FabMsg) : List (Nat × FabMsg) :=
  match m with
  | .report l => (chunks 31 l.length l).zipIdx.map (fun x => (x.2, .report x.1))
  | .assign l => (chunks 126 l.length l).map (fun x => (0, .assign x))
  | .table _ d => (List.range (max 1 ((d.size + 2007) / 2008))).map (fun k => (2008 * k, m))
  | _ =>
    let n := m.ahead
    ((bulkPieces m.ident (n / 2016 + 1) 0 (m.data.take n)).map (fun b => (0, b))) ++ [(n, m)]

/-- The payload of a piece. -/
def FabMsg.payload (part : Nat) (m : FabMsg) : List Byte :=
  m.head part ++ (match m with
    | .table .. => (m.data.drop part).take 2008
    | .report _ | .assign _ => m.data
    | _ => m.data.drop part)

/-! ### Frames (R632) -/

/-- The destination word of a frame: link-local, convoy, leader, or the module endpoint of a device (R632, R637; log entry 91). -/
def FabMsg.destWord (dest : Option Nat) : FabMsg → Nat
  | .convoy p => 2 ^ 30 + p.convoy.toNat
  | .register .. => 3 * 2 ^ 30
  | .report _ => match dest with | none => 2 ^ 31 | some _ => 3 * 2 ^ 30
  | .segments fa _ => fa % 2 ^ 25
  | _ => match dest with | none => 2 ^ 31 | some d => d * 8192 + epModule

/-- A frame of this module, whose device number is `own`: header, padded payload and trailer (R632). -/
def FabMsg.frame (own : Nat) (dest : Option Nat) (part : Nat) (m : FabMsg) : List Byte :=
  let pay := m.payload part
  let h := leBytes 4 (m.destWord dest) ++ leBytes 4 (own * 8192 + epModule) ++ leBytes 1 m.type ++ zeros 1 ++ leBytes 2 pay.length ++
    leBytes 2 m.ident
  let b := h ++ leBytes 2 (crc16 h) ++ padTo8 pay
  b ++ leBytes 4 (crc32 b) ++ zeros 4

/-- The frame of a queued message: one with its destination, or a link-local one. -/
def FabMsg.wireFrame (own : Nat) : FabMsg → List Byte
  | .to dest part m => m.frame own dest part
  | m => m.frame own none 0

/-- Data blocks of a queued message's frame (R632). -/
def FabMsg.blocks (own : Nat) (m : FabMsg) : Nat := (m.wireFrame own).length / 8

/-- Blocks of a fragment, its FRAG block included (R633). -/
def Frag.blocks (f : Frag) : Nat := 1 + f.data.length / 8

/-! ### Blocks (R623) -/

/-- A control block: its type, its bytes 1-6 and their CRC-8 (R623). -/
def controlBlock (type : Nat) (b : List Byte) : Bool × List Byte :=
  let l := leBytes 1 type ++ leBytes 6 (leVal b)
  (true, l ++ leBytes 1 (crc8 l))

/-- Data blocks (R623); `fuel` bounds their number. -/
def dataBlocks : Nat → List Byte → List (Bool × List Byte)
  | 0, _ => []
  | fuel + 1, l => if l.isEmpty then [] else (false, l.take 8) :: dataBlocks fuel (l.drop 8)

/-- A fragment as blocks: FRAG with the freed count of its credit VC, then its data (R623, R633, R639). -/
def Frag.wire (f : Frag) : List (Bool × List Byte) :=
  controlBlock 0x33 (leBytes 1 (f.data.length / 8 * 16 + flagAt f.eof 3 + flagAt f.sof 2 + f.vc.val) ++
    leBytes 1 (f.creditVc.val * 16 + f.stream.val) ++ leBytes 2 f.freed.toNat) :: dataBlocks (f.data.length / 8) f.data

/-- IDLE or RMARK of a pair of channels with their counts. -/
def pairBlock (type pair : Nat) (a b : BitVec 16) : Bool × List Byte :=
  controlBlock type (leBytes 1 pair ++ leBytes 2 a.toNat ++ leBytes 2 b.toNat)

/-- An ABORT block. -/
def abortBlock (vc stream : Nat) : Bool × List Byte := controlBlock 0x55 (leBytes 1 vc ++ leBytes 1 stream)

end Sys2Proof
end

