-- ==== Sys2Proof/Machine/FabLink.lean ====
section
/-! DEFINITION. The link layer of the Yunadra fabric (15_yunadra_fabric.md): training and port states, delay exchanges,
link loss, blocks, fragments, streams, credits, forwarding, violations and the bench (R622 to R640, R657, R667 to R669). -/

namespace Sys2Proof.Machine

/-! ### Port states (R625 to R631) -/

/-- Domain D6 is powered. -/
def State.d6On (s : State) : Bool := bitOf s.power.domains.toNat 6

/-- A port is enabled (R625). -/
def State.fabEnabled (s : State) (p : Nat) : Bool :=
  bitOf (s.par epModule P.fabPortMask) p && !(s.getFabPort p).disabled

/-- The link of a port carries frames: UP or BENCH. -/
def FabPort.linked (f : FabPort) : Bool := f.state == .up || f.state == .bench

/-- The state a port starts training from: everything of the last link forgotten, its SerDes latency and diagnosis kept. -/
def FabPort.fresh (f : FabPort) (st : FabPortState) (tick : Nat) : FabPort :=
  { state := st, disabled := f.disabled, since := tick, lat := f.lat, exchangeNo := f.exchangeNo, linkDelay := f.linkDelay
    downCause := f.downCause, mgmt := f.mgmt, violations := f.violations, wire := f.wire, line := f.line }

/-- A port begins CAL (R625, R626). -/
def State.startCal (s : State) (p : Nat) : State := s.modFabPort p (·.fresh .cal s.tick)

/-- An enabled port in OFF starts training (R625). -/
def State.enablePort (s : State) (p : Nat) : State :=
  if (s.getFabPort p).state == .off && s.fabEnabled p && s.d6On then s.startCal p else s

/-- PORT_TRAINING_START (R625): t_stg times the port's index after D6 powered up. -/
def execPortTrainingStart (port : Fin 4) (s : State) : Out :=
  .next (if s.passed s.fabric.d6Tick (msTicks (2 * port.val)) then s.enablePort port.val else s)

/-- PORT_CAL_DONE (R626): the fixed delays of R35 are measured; the port enters TRAIN. -/
def execPortCalDone (port : Fin 4) (txLat rxLat : Nat) (s : State) : Out :=
  .next (if (s.getFabPort port.val).state == .cal then
    s.modFabPort port.val (fun f => { f.fresh .train s.tick with lat := (txLat, rxLat) })
  else s)

/-- The port is in an attempt that has not failed. -/
def FabPort.training (f : FabPort) : Bool := f.state == .train && f.retryFrom.isNone

/-- BLOCK_LOCK (R627). -/
def execBlockLock (port : Fin 4) (s : State) : Out :=
  .next (if (s.getFabPort port.val).training then s.modFabPort port.val (fun f => { f with locked := true }) else s)

/-- An attempt fails (R627): FAB_TRAIN_FAIL counts and CAL restarts after 20 ms. -/
def State.trainFail (s : State) (p : Nat) : State :=
  (s.modFabPort p (fun f => { f with retryFrom := some s.tick })).bump (epFab p) C.fabTrainFail

/-- t_trn: the longest training attempt (R671). -/
def trnTicks : Rat := msTicks 10

/-- TRAIN_TIMEOUT (R627). -/
def execTrainTimeout (port : Fin 4) (s : State) : Out :=
  let f := s.getFabPort port.val
  .next (if f.training && s.expired f.since trnTicks then s.trainFail port.val else s)

/-- PORT_RETRY (R627): 20 ms after the failure the port is in CAL again. -/
def execPortRetry (port : Fin 4) (s : State) : Out :=
  .next (match (s.getFabPort port.val).retryFrom with
    | some t => if s.passed t (msTicks 20) then s.startCal port.val else s
    | none => s)

/-! ### Sending -/

/-- Buffer blocks of a virtual channel (R638). -/
def vcBlocks (vc : Nat) : Nat := [64, 512, 512, 1024].getD vc 0

/-- A virtual channel of a port. -/
def FabPort.vc (f : FabPort) (v : Nat) : VcState := mget f.vcs v {}

/-- A virtual channel changed. -/
def FabPort.modVc (f : FabPort) (v : Nat) (g : VcState → VcState) : FabPort := { f with vcs := mmod f.vcs v {} g }

/-- A message or fragment joins a port's queue. -/
def State.enqueue (s : State) (p vc : Nat) (m : FabMsg) : State :=
  s.modFabPort p (fun f => { f with out := (vc, m) :: f.out })

/-- The port carries routed frames: UP and not foreign (R649, R657). -/
def State.routePort (s : State) (p : Nat) : Bool :=
  (s.getFabPort p).state == .up && !(s.getFabPort p).foreign

/-- Outputs of a unicast destination: its table entry; none without a route (R636, R650). -/
def State.unicast (s : State) (dev : Nat) : List Nat :=
  match mget s.fabric.routes dev 5 with
  | 5 => []
  | 4 => [4]
  | p => if s.routePort p then [p] else []

/-- Outputs of a convoy: its mask (R661, R662). -/
def State.multicast (s : State) (convoy : Nat) : List Nat :=
  (List.range 5).filter (fun p => bitOf (mget s.fabric.masks convoy 0) p && (p == 4 || s.routePort p))

/-- A message of this module placed in the queue of its port; without a route it is dropped and counted (R636, R650). -/
def State.place (s : State) (dev : Nat) (m : FabMsg) : State :=
  match dev, m with
  | 0xFFFF, .convoy pub =>
    if mget s.fabric.masks pub.convoy.toNat 0 = 0 then s.bump epModule C.fabNoRoute
    else ((s.multicast pub.convoy.toNat).filter (· < 4)).foldl (fun s p => s.enqueue p 0 m) s
  | dev, m =>
    if dev = s.fabric.device then s
    else match s.unicast dev with
      | [p] => if p < 4 then m.pieces.foldl (fun s x => s.enqueue p x.2.vc (.to (some dev) x.1 x.2)) s else s
      | _ => s.bump epModule C.fabNoRoute

/-- The messages sent since the last time reach the queues in the order in which they were sent (R610). -/
def State.flush (s : State) : State :=
  let l := (s.fabric.sent.take (s.fabric.sent.length - s.fabric.placed)).reverse
  let s := l.foldl (fun s x => s.place x.1 x.2) s
  { s with fabric := { s.fabric with placed := s.fabric.sent.length } }

/-- A link-local message of this module in a port's queue, as the frames it takes. -/
def State.sendLocal (s : State) (p : Nat) (m : FabMsg) : State :=
  m.pieces.foldl (fun s x => s.enqueue p x.2.vc (.to none x.1 x.2)) s.flush

/-- A fragment leaves the port: its FRAG block names the next credit VC and that VC's freed count (R633, R638, R639). -/
def FabPort.emit (f : FabPort) (g : Frag) : FabPort :=
  let c := f.creditVc
  let g := { g with creditVc := Fin.ofNat 4 c, freed := (f.vc c).rxFreed }
  { f with line := g.wire.reverse ++ f.line, creditVc := (c + 1) % 4 }

/-- The lowest stream not allocated. -/
def freeStream (tx : List (Nat × Nat × Nat)) : Nat := ((List.range 8).find? (fun i => !tx.any (fun t => t.1 == i))).getD 0

/-- A link-local frame that leaves at once with its departure time inserted (R89, R637). -/
def State.depart (s : State) (p : Nat) (m : FabMsg) : State :=
  let b := m.wireFrame s.fabric.device
  (s.modFabPort p (fun f =>
    let g : Frag := { sof := true, eof := true, stream := Fin.ofNat 8 (freeStream (f.vc 0).tx), data := b }
    { (f.emit g).modVc 0 (fun v => { v with sent := v.sent + BitVec.ofNat 16 g.blocks }) with wire := m :: f.wire })).bump
      (epFab p) C.fabTxFrames

/-- A control block sent. -/
def State.control (s : State) (p : Nat) (m : FabMsg) (b : Bool × List Byte) : State :=
  s.modFabPort p (fun f => { f with wire := m :: f.wire, line := b :: f.line })

/-- Aborts whose frame has nothing older waiting leave as control blocks and free their streams (R633, R634). -/
def FabPort.settle (f : FabPort) : FabPort :=
  let step (a : List (Nat × FabMsg) × FabPort) (x : Nat × FabMsg) : List (Nat × FabMsg) × FabPort :=
    match x.2 with
    | .abort ip v st =>
      let open_ (y : Nat × FabMsg) : Bool := match y.2 with
        | .forward jp g => y.1 == v && jp == ip && g.stream.val == st
        | _ => false
      if a.1.any open_ then (a.1 ++ [x], a.2)
      else
        let went := (a.2.vc v).tx.find? (fun t => t.2 == (ip, st))
        let g := a.2.modVc v (fun c => { c with tx := c.tx.filter (fun t => t.2 != (ip, st)) })
        (a.1, match went with
          | some t => { g with wire := x.2 :: g.wire, line := abortBlock v t.1 :: g.line }
          | none => g)
    | _ => (a.1 ++ [x], a.2)
  let r := f.out.reverse.foldl step ([], f)
  { r.2 with out := r.1.reverse }

/-- A broken frame ends with ABORT on the ports it was forwarded to (R634, R635). -/
def State.abortFrame (s : State) (inPort vc stream : Nat) (outs : List Nat) : State :=
  (outs.filter (· < 4)).foldl (fun s p => (s.enqueue p vc (.abort inPort vc stream)).modFabPort p FabPort.settle) s

/-- The streams open in reception on a port break: what is forwarded of them ends with ABORT and the rest is discarded
(R635). -/
def State.breakStreams (s : State) (p : Nat) : State :=
  (List.range 4).foldl (fun s v =>
    let l := ((s.getFabPort p).vc v).rx
    let s := l.foldl (fun s x => if x.2.bytes.isEmpty then s else s.abortFrame p v x.1 x.2.outs) s
    s.modFabPort p (fun f => f.modVc v (fun c => { c with rx := c.rx.map (fun x => (x.1, { discard := true })) }))) s

/-! ### Link loss (R631, R653, R657) -/

/-- The report of a loss at a port of this module to every UP port (R653). -/
def State.floodDown (s : State) (p cause : Nat) : State :=
  let m := FabMsg.linkDown Config.uid p cause s.fabric.gen
  ((List.range 4).filter (fun q => q != p && (s.getFabPort q).state == .up)).foldl (fun s q => s.sendLocal q m) s

/-- A port is lost for routes: the loss is flooded and the module waits for its share (R653, R657). -/
def State.portLost (s : State) (p cause : Nat) : State :=
  let s := s.floodDown p cause
  { s with fabric := { s.fabric with
      ownLoss := some (p, s.tick), downs := (Config.uid, p, s.tick) :: s.fabric.downs } }

/-- A link goes down (R631): logged and counted; the port returns to CAL, or to OFF when it is no longer enabled. A port
that was not UP or in BENCH has no link to lose. -/
def State.linkDown (s : State) (p cause : Nat) : State :=
  let f := s.getFabPort p
  let next : FabPortState := if s.fabEnabled p && cause != 8 then .cal else .off
  if f.linked then
    let s := s.breakStreams p
    let s := if f.state == .up then s.portLost p cause else s
    let s := s.modFabPort p (fun f => { f.fresh next s.tick with downCause := cause })
    (s.bump (epFab p) C.fabLinkDownCnt).log (epFab p) 0x0902 (dat 0 cause)
  else if f.state == .off && next == .off then s
  else s.modFabPort p (·.fresh next s.tick)

/-- A cause of R631 acts while the port is UP or in BENCH. -/
def State.lose (s : State) (p cause : Nat) : State := if (s.getFabPort p).linked then s.linkDown p cause else s

/-- TRAIN_BLOCK_RX (R627, R631 cause 6): 16 consecutive valid TRAIN blocks with both halves set seen (log entry 51). -/
def execTrainBlockRx (port : Fin 4) (seen : Bool) (half : Fin 2) (sender : Fin 4) (uid : BitVec 32) (b6 : Byte) (s : State) : Out :=
  let p := port.val
  let f := s.getFabPort p
  .next (
    if f.linked then s.linkDown p 6
    else if !(f.training && f.locked) then s
    else if b6 != 1 then s.modFabPort p (fun f => { f with halves := (0, 0) })
    else
      let old : BitVec 32 := if half.val = 0 then f.neigh.truncate 32 else (f.neigh >>> 32).truncate 32
      let h := if old == uid || (if half.val = 0 then f.halves.1 == 0 else f.halves.2 == 0) then f.halves else (0, 0)
      let h := if half.val = 0 then (h.1 + 1, h.2) else (h.1, h.2 + 1)
      let neigh : BitVec 64 := if half.val = 0 then ((f.neigh >>> 32) <<< 32) ||| uid.zeroExtend 64
        else (uid.zeroExtend 64 <<< 32) ||| (f.neigh &&& 0xFFFFFFFF)
      let ownSeen := f.seen.1 || (decide (16 ≤ h.1 + h.2) && decide (0 < h.1) && decide (0 < h.2))
      let theirs := f.seen.2 || seen
      let f := { f with halves := h, neigh := neigh, neighPort := sender.val, seen := (ownSeen, theirs) }
      if ownSeen && theirs then
        s.setFabPort p { f with state := .measure, since := s.tick, delays := [], repeats := 0, exchange := none, delayTick := s.tick }
      else s.setFabPort p f)

/-! ### Delay exchanges (R628, R629) -/

/-- The port makes delay exchanges: MEASURE, UP or BENCH. -/
def FabPort.measures (f : FabPort) : Bool := f.linked || (f.state == .measure && f.retryFrom.isNone)

/-- Spacing of a port's delay exchanges: 10 µs in MEASURE, 1 ms in UP and BENCH (R628, R629). -/
def FabPort.spacing (f : FabPort) : Rat := if f.linked then msTicks 1 else usTicks 10

/-- The port's next delay exchange is due (R628, R629). -/
def FabPort.exchangeDue (f : FabPort) (tick : Nat) : Bool :=
  f.measures && (match f.reqTick with
    | some t => decide (f.spacing ≤ (tick : Rat) - (t : Rat))
    | none => true)

/-- DELAY_REQ_SEND (R628): an exchange starts with t1, the stamp of its DELAY_REQ. -/
def execDelayReqSend (port : Fin 4) (tx : TdcEdge) (s : State) : Out :=
  let p := port.val
  .next (if (s.getFabPort p).exchangeDue s.tick then
    let n := (s.getFabPort p).exchangeNo + 1
    let t1 := s.stampEdge (.fabTx port) tx
    let s := s.modFabPort p (fun f => { f with exchangeNo := n, exchange := some (n.toNat, ft16Of8 t1), reqTick := some s.tick })
    (s.depart p (.delayReq n.toNat)).putStamp (.fabTx port) t1
  else s)

/-- DELAY_REQ_RX (R628, R89 to R91): answered with t2 and with t3 inserted as the response leaves. -/
def execDelayReqRx (port : Fin 4) (n : BitVec 16) (rx : TdcEdge) (cyc : Fin 100) (tx : TdcEdge) (s : State) : Out :=
  let p := port.val
  .next (if (s.getFabPort p).measures then
    let t2 := s.stampEdge (.fabRx port) rx
    let t3 := s.departure (.fabTx port) cyc.val
    let real := s.stampEdge (.fabTx port) tx
    (((s.depart p (.delayResp n.toNat (ft16Of8 t2) t3)).checkTx (2 + p) t3 real).putStamp (.fabRx port) t2).putStamp (.fabTx port) real
  else s)

/-- Mean of link delays. -/
def meanDelay (l : List Int) : Int := l.foldl (· + ·) 0 / (l.length : Int)

/-- The 64 values of a measurement fail: they spread by more than 2 ns, or their mean exceeds 10 µs (R628). -/
def delaysBad (l : List Int) : Bool :=
  l.any (fun a => l.any (fun b => decide (2 * 65536 < a - b))) || decide (10000 * 65536 < meanDelay l)

/-- DELAY_RESP_RX (R628 to R630). -/
def execDelayRespRx (port : Fin 4) (n : BitVec 16) (t2 t3 : Ft16) (rx : TdcEdge) (s : State) : Out :=
  let p := port.val
  let st := s.stampEdge (.fabRx port) rx
  let t4 := ft16Of8 st
  let s := s.putStamp (.fabRx port) st
  let f := s.getFabPort p
  .next (match f.exchange with
    | none => s
    | some (m, t1) =>
      if m ≠ n.toNat ∨ !f.measures then s
      else
        let d : Int := (ft16Diff t4 t1 - ft16Diff t3 t2) / 2
        let f := { f with exchange := none, delayTick := s.tick }
        if f.linked then
          let l := (d :: f.delays).take 16
          s.setFabPort p { f with delays := l, linkDelay := meanDelay l }
        else
          let l := d :: f.delays
          if l.length < 64 then s.setFabPort p { f with delays := l }
          else if !delaysBad l then
            let s := s.setFabPort p { f with delays := l.take 16, linkDelay := meanDelay l, state := .up, since := s.tick, ctrlTick := s.tick }
            s.log (epFab p) 0x0901 (dat 0 f.neigh.toNat)
          else if f.repeats = 0 then s.setFabPort p { f with delays := [], repeats := 1 }
          else (s.setFabPort p { f with delays := [] }).trainFail p)

/-- LINK_SIGNAL_LOST (R631 cause 1). -/
def execLinkSignalLost (port : Fin 4) (s : State) : Out := .next (s.lose port.val 1)

/-- BLOCK_LOCK_LOST (R631 cause 2); in TRAIN the lock is to be gained again. -/
def execBlockLockLost (port : Fin 4) (s : State) : Out :=
  let p := port.val
  .next (if (s.getFabPort p).linked then s.linkDown p 2
    else if (s.getFabPort p).state == .train then s.modFabPort p (fun f => { f with locked := false, halves := (0, 0) }) else s)

/-- INVALID_SYNC_HEADER (R631 cause 3, R670). -/
def execInvalidSyncHeader (port : Fin 4) (s : State) : Out :=
  let p := port.val
  let s := s.bump (epFab p) C.fabRxBlockErr
  let l := (s.tick :: (s.getFabPort p).badHeaders).take 16
  let s := s.modFabPort p (fun f => { f with badHeaders := l })
  .next (if l.length = 16 ∧ (s.tick : Rat) - (l.getLast?.getD 0 : Rat) ≤ usTicks 125 then s.lose p 3 else s)

/-- A valid control block has come (R631 cause 4). -/
def State.controlTaken (s : State) (p : Nat) : State := s.modFabPort p (fun f => { f with ctrlTick := s.tick })

/-- CONTROL_BLOCK_TIMEOUT (R631 cause 4): 2 µs without a valid control block. -/
def execControlBlockTimeout (port : Fin 4) (s : State) : Out :=
  .next (if s.expired (s.getFabPort port.val).ctrlTick (usTicks 2) then s.lose port.val 4 else s)

/-- DELAY_EXCHANGE_FAIL (R631 cause 5): no exchange has been completed for 16 ms. -/
def execDelayExchangeFail (port : Fin 4) (s : State) : Out :=
  .next (if s.expired (s.getFabPort port.val).delayTick (msTicks 16) then s.lose port.val 5 else s)

/-! ### Violations and the bench (R667, R668) -/

/-- The port goes on the bench (R657, R668). -/
def State.bench (s : State) (p : Nat) : State :=
  let s := s.portLost p 0
  let s := s.modFabPort p (fun f => { f with state := .bench, benchFrom := some s.tick })
  (s.bump (epFab p) C.fabBenchCnt).log (epFab p) 0x0903 (dat 0 16)

/-- A partner's violation (R667, R668): counted and its stamp kept; on the bench it restarts the 100 ms. -/
def State.violate (s : State) (p code : Nat) : State :=
  let s := (s.bump (epFab p) C.fabViolation).bump (epFab p) (if code = 7 then C.fabRxUnsolicited else C.fabRxMalformed)
  let l := (s.tick :: (s.getFabPort p).violations).take 16
  let s := s.modFabPort p (fun f => { f with violations := l })
  match (s.getFabPort p).state with
  | .bench => s.modFabPort p (fun f => { f with benchFrom := some s.tick })
  | .up => if l.length = 16 ∧ s.tick < l.getLast?.getD 0 + 64000000 then s.bench p else s
  | _ => s

/-- BENCH_END (R668): 100 ms without a violation return the port to UP; one in the cycle of the expiry is taken first. -/
def execBenchEnd (port : Fin 4) (s : State) : Out :=
  let f := s.getFabPort port.val
  .next (match f.state, f.benchFrom with
    | .bench, some t =>
      if s.expired t (msTicks 100) then s.setFabPort port.val { f with state := .up, benchFrom := none } else s
    | _, _ => s)

/-! ### Frames (R632 to R637) -/

/-- Fields of a frame header (R632). -/
structure FrameHeader where
  delivery : Nat
  dest : Nat
  source : Nat
  type : Nat
  hops : Nat
  length : Nat
  ident : Nat
  ok : Bool
  reserved : Bool

/-- The header of a frame's first 16 bytes (R632). -/
def headerOf (b : List Byte) : FrameHeader :=
  let d := leField b 0 4
  let src := leField b 4 4
  { delivery := d / 2 ^ 30, dest := d % 2 ^ 25, source := src % 2 ^ 25, type := leField b 8 1, hops := leField b 9 1
    length := leField b 10 2, ident := leField b 12 2, ok := leField b 14 2 == crc16 (b.take 14)
    reserved := d / 2 ^ 25 % 32 == 0 && src / 2 ^ 25 == 0 }

/-- Device of a header's source. -/
def FrameHeader.dev (h : FrameHeader) : Nat := h.source / 8192

/-- VC and allowed deliveries of a frame type; none: unknown (R637). LINK_DOWN floods as link-local (log entry 51). -/
def typeRow (t : Nat) : Option (Nat × List Nat) :=
  match t with
  | 0x01 | 0x02 | 0x03 => some (0, [2])
  | 0x04 => some (0, [1])
  | 0x05 => some (0, [2])
  | 0x10 => some (1, [2])
  | 0x11 => some (1, [2, 3])
  | 0x12 => some (1, [2, 0])
  | 0x13 => some (1, [0, 2])
  | 0x14 => some (1, [3])
  | 0x20 => some (1, [0])
  | 0x21 => some (2, [0])
  | 0x22 => some (3, [0])
  | 0x23 => some (1, [0])
  | _ => none

/-- Time frames and management frames, which the bench accepts (R637, R668). -/
def benchType (t : Nat) : Bool := (decide (1 ≤ t) && decide (t ≤ 3)) || t == 5 || (decide (0x10 ≤ t) && decide (t ≤ 0x14))

/-- Management frames (R637, R669). -/
def mgmtType (t : Nat) : Bool := t == 5 || (decide (0x10 ≤ t) && decide (t ≤ 0x14))

/-- A field of a time, management or REQUEST payload lies outside its range, or its length is not the type's (R667 code 6). -/
def fieldsBad (t : Nat) (b : List Byte) : Bool :=
  let n := b.length
  match t with
  | 0x01 => n != 48 || decide (3 < leField b 10 1) || decide (7 < leField b 12 4) || leField b 34 2 != 0
  | 0x02 => n != 0
  | 0x03 => n != 16
  | 0x05 => n != 16 || decide (3 < leField b 8 1) || decide (8 < leField b 9 1) || leField b 12 4 != 0
  | 0x10 => n != 32 || decide (62 < leField b 16 1) || decide (3 < leField b 17 1) || decide (15 < leField b 18 1) ||
      leField b 19 1 != 0 || decide (4095 < leField b 20 2) || leField b 22 2 != 0
  | 0x11 => leField b 0 2 == 0 || decide (31 < leField b 0 2) || n != 8 + 64 * leField b 0 2 || leField b 4 4 != 0
  | 0x12 => n != 8 + 16 * leField b 0 2 || leField b 2 6 != 0
  | 0x13 => decide (n < 16) || decide (3 < leField b 2 1) || leField b 3 1 != 0 || leField b 12 4 != 0
  | 0x14 => n != 16 || leField b 0 1 == 0 || decide (6 < leField b 0 1) || leField b 2 2 != 0 || leField b 8 8 != 0
  | 0x20 => decide (n < 16) || leField b 0 1 == 0 || decide (3 < leField b 0 1) || leField b 1 1 != 0 || leField b 2 2 != 0 ||
      leField b 12 4 != 0
  | _ => false

/-- A violation of a frame: answered with a NACK when the frame is a REQUEST and its source has a route (R667). -/
def State.frameBad (s : State) (p code : Nat) (h : FrameHeader) : State :=
  let s := s.violate p code
  if h.type = 0x20 && (code == 3 || code == 4 || code == 6) && !(s.unicast h.dev).isEmpty then
    s.fabSend h.dev (.nack h.ident code)
  else s

/-- The source of a frame is admitted: a device with a route, or for a link-local frame the trained neighbour, whose number
its DISCOVER carries, or no number yet (R667 code 5). -/
def State.sourceOk (s : State) (p : Nat) (h : FrameHeader) : Bool :=
  if h.delivery = 2 then
    h.dev == 0 || (match (s.getFabPort p).disc with | some d => d.1.device == h.dev || d.1.device == 0 | none => true)
  else !(s.unicast h.dev).isEmpty || (s.getFabPort p).neigh != 0 && mgmtType h.type

/-- The module limits management frames: it is not MEMBER or SOLO (R669). -/
def State.mgmtLimited (s : State) : Bool := s.fabric.state != .member && s.fabric.state != .solo

/-- A management frame taken into the count of the running second; none: beyond 1,000 (R669). -/
def FabPort.takeMgmt (f : FabPort) (tick : Nat) : Option FabPort :=
  if f.mgmt.1 + 64000000 ≤ tick then some { f with mgmt := (tick, 1) }
  else if f.mgmt.2 < 1000 then some { f with mgmt := (f.mgmt.1, f.mgmt.2 + 1) }
  else none

/-- Outputs of a received frame (R634, R650, R662). -/
def State.outputs (s : State) (p : Nat) (h : FrameHeader) : List Nat :=
  match h.delivery with
  | 0 => s.unicast (h.dest / 8192)
  | 1 => (s.multicast h.dest).filter (· ≠ p)
  | 3 => s.unicast s.fabric.leaderDev
  | _ => [4]

/-- The header of a frame received on a port judged (R635 to R637, R667 to R669): the state, and the outputs, or none for a
frame that is dropped. -/
def State.admitFrame (s : State) (p vc : Nat) (h : FrameHeader) : State × Option (List Nat) :=
  if !h.ok then (s.bump (epFab p) C.fabRxCrc, none)
  else
    let row := typeRow h.type
    if (match row with | some r => r.1 != vc || !r.2.contains h.delivery | none => true) || !h.reserved then (s.frameBad p 4 h, none)
    else if 2024 < h.length then (s.frameBad p 3 h, none)
    else if !s.sourceOk p h then (s.frameBad p 5 h, none)
    else if (s.getFabPort p).state == .bench && !benchType h.type then (s.bump (epFab p) C.fabBenchDrop, none)
    else
      let m := if mgmtType h.type && s.mgmtLimited then (s.getFabPort p).takeMgmt s.tick else some (s.getFabPort p)
      match m with
      | none => (s.bump (epFab p) C.fabMgmtDrop, none)
      | some f =>
        let s := s.setFabPort p f
        if 64 ≤ h.hops && h.delivery != 2 then (s.bump epModule C.fabHopLimit, none)
        else if h.delivery = 1 && mget s.fabric.masks h.dest 0 == 0 then (s.bump epModule C.fabNoRoute, none)
        else
          let o := s.outputs p h
          if o.isEmpty && h.delivery != 1 then (s.bump epModule C.fabNoRoute, none) else (s, some o)

/-- A RESPONSE answers a request of this module (R667 code 7): a forwarded command for op 1; the protocol answers of op 2 and
3 and the answers to REGISTER are taken. -/
def State.awaited (s : State) (h : FrameHeader) (b : List Byte) : Bool :=
  leField b 0 1 != 1 || s.host.cmds.any (fun c => c.2.forwarded.isSome && c.2.device == h.dev && c.1 % 256 == h.ident)

/-- A complete frame delivered to this module (R634, R637, R667); a REQUEST with bytes ahead starts the wait for them (R664). -/
def State.deliver (s : State) (p : Nat) (h : FrameHeader) (b : List Byte) : State :=
  let pay := (b.drop 16).take h.length
  if h.type = 0x21 && !s.awaited h pay then s.violate p 7
  else if fieldsBad h.type pay then s.frameBad p 6 h
  else
    let fa := { s.fabric with inbox := (p, b) :: s.fabric.inbox }
    if h.type = 0x20 && leField pay 0 1 == 1 && leField pay 8 4 != 0 then
      let was := ((fa.bulk.find? (fun x => x.1 == h.dev && x.2.1 == h.ident)).map (·.2.2.1)).getD []
      let rest := fa.bulk.filter (fun x => !(x.1 == h.dev && x.2.1 == h.ident))
      { s with fabric := { fa with bulk := (h.dev, h.ident, was, some s.tick) :: rest } }
    else { s with fabric := fa }

/-- A forwarded frame's bytes with one more link crossed; header and trailer codes follow (R632; log entry 51). -/
def crossed (b : List Byte) : List Byte :=
  let h := b.take 9 ++ [b.getD 9 0 + 1] ++ (b.drop 10).take 4
  h ++ leBytes 2 (crc16 h) ++ b.drop 16

/-- What a fragment adds to the frame as it is forwarded: the first carries the new header, the last the new trailer. -/
def forwardData (whole : List Byte) (before : Nat) (f : Frag) : List Byte :=
  let c := crossed whole
  let c := if f.eof then c.take (c.length - 8) ++ leBytes 4 (crc32 (c.take (c.length - 8))) ++ List.replicate 4 0 else c
  c.drop before

/-- A received stream set, or closed. -/
def State.setRx (s : State) (p vc st : Nat) (r : Option RxStream) : State :=
  s.modFabPort p (fun f => f.modVc vc (fun c => { c with rx := match r with
    | some x => mput c.rx st x
    | none => mdel c.rx st }))

/-- Blocks of a virtual channel freed at the receiver (R639). -/
def State.freeBlocks (s : State) (p vc n : Nat) : State :=
  s.modFabPort p (fun f => f.modVc vc (fun c => { c with held := c.held - n, rxFreed := c.rxFreed + BitVec.ofNat 16 n }))

/-- A fragment of an open frame taken: its frame's outputs, and at EOF its check and delivery (R633 to R635). -/
def State.takeFrag (s : State) (p : Nat) (f : Frag) (r : RxStream) : State :=
  let vc := f.vc.val
  let st := f.stream.val
  let n := f.blocks
  let before := r.bytes.length
  let whole := r.bytes ++ f.data
  let h := headerOf whole
  let judged := if before < 16 && decide (16 ≤ whole.length) then s.admitFrame p vc h else (s, some r.outs)
  let s := judged.1
  match judged.2 with
  | none =>
    (s.setRx p vc st (if f.eof then none else some { bytes := whole, discard := true })).freeBlocks p vc n
  | some outs =>
    let fwd := outs.filter (· < 4)
    let sized := whole.length == 24 + (h.length + 7) / 8 * 8
    let good := crc32 (whole.take (whole.length - 8)) == leField whole (whole.length - 8) 4
    if !f.eof then
      let s := s.setRx p vc st (some { bytes := whole, outs := outs })
      if fwd.isEmpty then s.freeBlocks p vc n
      else fwd.foldl (fun s q => s.enqueue q vc (.forward p { f with data := forwardData whole before f })) s
    else
      let s := s.setRx p vc st none
      if decide (whole.length < 24) || !sized then
        ((s.frameBad p 3 h).abortFrame p vc st fwd).freeBlocks p vc n
      else if !good then
        ((s.bump (epFab p) C.fabRxCrc).abortFrame p vc st fwd).freeBlocks p vc n
      else
        let s := s.bump (epFab p) C.fabRxFrames
        let s := if outs.contains 4 then s.deliver p h whole else s
        if fwd.isEmpty then s.freeBlocks p vc n
        else fwd.foldl (fun s q => s.enqueue q vc (.forward p { f with data := forwardData whole before f })) s

/-- A freed count beyond the buffer size is a violation; otherwise it is taken (R638, R667 code 1). -/
def State.takeFreed (s : State) (p vc : Nat) (n : BitVec 16) : State × Bool :=
  let c := (s.getFabPort p).vc vc
  if vcBlocks vc < (c.sent - n).toNat then (s.violate p 1, false)
  else (s.modFabPort p (fun f => f.modVc vc (fun c => { c with freed := n })), true)

/-- FRAG_BLOCK_RX (R633 to R638, R667 to R669). -/
def execFragBlockRx (port : Fin 4) (frag : Frag) (s : State) : Out :=
  let p := port.val
  let vc := frag.vc.val
  let st := frag.stream.val
  let n := frag.blocks
  .next (if !(s.getFabPort p).measures then s
    else
      let s := (s.controlTaken p).flush
      let held := ((s.getFabPort p).vc vc).held
      let s := s.modFabPort p (fun f => f.modVc vc (fun c => { c with held := c.held + n }))
      let cur := (((s.getFabPort p).vc vc).rx.find? (fun x => x.1 == st)).map (·.2)
      let drop (s : State) : State :=
        let s := match cur with
          | some r => if r.bytes.isEmpty then s else s.abortFrame p vc st r.outs
          | none => s
        (s.setRx p vc st (some { discard := true })).freeBlocks p vc n
      let a := s.takeFreed p frag.creditVc.val frag.freed
      if !a.2 then drop a.1
      else
        let s := a.1
        if vcBlocks vc < held + n then drop (s.violate p 1)
        else match cur, frag.sof with
          | none, true => s.takeFrag p frag {}
          | some r, true =>
            if r.bytes.isEmpty then s.takeFrag p frag {} else drop (s.violate p 2)
          | none, false => drop (s.violate p 2)
          | some r, false =>
            if r.bytes.isEmpty then s.freeBlocks p vc n
            else if r.discard then (s.setRx p vc st (if frag.eof then none else some r)).freeBlocks p vc n
            else s.takeFrag p frag r)

/-- ABORT_BLOCK_RX (R634): the frame is discarded and counted, and its forwarding ends with ABORT. -/
def execAbortBlockRx (port : Fin 4) (vc : Fin 4) (stream : Fin 8) (s : State) : Out :=
  let p := port.val
  let s := (s.controlTaken p).flush
  .next (match ((s.getFabPort p).vc vc.val).rx.find? (fun x => x.1 == stream.val) with
    | none => s
    | some (_, r) =>
      let s := s.setRx p vc.val stream.val none
      if r.bytes.isEmpty then s
      else (s.abortFrame p vc.val stream.val r.outs).bump (epFab p) C.fabRxAbort)

/-- IDLE_BLOCK_RX (R638 to R640): the freed counts of a pair; after the RMARKs the transmitter resumes. -/
def execIdleBlockRx (port : Fin 4) (pair : Fin 2) (freedA freedB : BitVec 16) (s : State) : Out :=
  let p := port.val
  .next (if !(s.getFabPort p).measures then s
    else
      let s := (s.controlTaken p).modFabPort p (fun f => { f with resync := false })
      let s := (s.takeFreed p (2 * pair.val) freedA).1
      (s.takeFreed p (2 * pair.val + 1) freedB).1)

/-- RESYNC_BLOCK_RX (R640): no fragment is sent until the next IDLE; both RMARKs are sent. -/
def execResyncBlockRx (port : Fin 4) (s : State) : Out :=
  let p := port.val
  .next (if !(s.getFabPort p).measures then s
    else
      let s := (s.controlTaken p).modFabPort p (fun f => { f with resync := true })
      let f := s.getFabPort p
      ((s.control p .rmark (pairBlock 0x4B 0 (f.vc 0).sent (f.vc 1).sent)).control p .rmark
        (pairBlock 0x4B 1 (f.vc 2).sent (f.vc 3).sent)).bump (epFab p) C.fabCreditResync)

/-- RMARK_BLOCK_RX (R640): freed := sent - held for the pair; the IDLE of the pair is sent. -/
def execRmarkBlockRx (port : Fin 4) (pair : Fin 2) (sentA sentB : BitVec 16) (s : State) : Out :=
  let p := port.val
  let mark (v : Nat) (n : BitVec 16) (f : FabPort) : FabPort :=
    f.modVc v (fun c => { c with rxFreed := n - BitVec.ofNat 16 c.held })
  .next (if !(s.getFabPort p).measures then s
    else
      let s := (s.controlTaken p).modFabPort p (fun f => mark (2 * pair.val + 1) sentB (mark (2 * pair.val) sentA f))
      let f := s.getFabPort p
      s.control p .idle (pairBlock 0x1E pair.val (f.vc (2 * pair.val)).rxFreed (f.vc (2 * pair.val + 1)).rxFreed))

/-- CONTROL_BLOCK_CRC_ERROR (R635, R640). -/
def execControlBlockCrcError (port : Fin 4) (s : State) : Out :=
  let p := port.val
  .next (if !(s.getFabPort p).measures then s
    else
      let s := (s.flush.bump (epFab p) C.fabRxCtrlErr).breakStreams p
      (s.control p .resync (controlBlock 0x66 [])).bump (epFab p) C.fabCreditResync)

/-! ### Transmission (R609, R610, R633, R638) -/

/-- The port's next transmission on a virtual channel: the oldest waiting item whose stream is open or can be allocated. -/
def FabPort.nextOut (f : FabPort) (vc : Nat) : Option (Nat × FabMsg) :=
  let tx := (f.vc vc).tx
  f.out.reverse.find? (fun x => x.1 == vc && (match x.2 with
    | .forward ip g => tx.any (fun t => t.2 == (ip, g.stream.val)) || (g.sof && decide (tx.length < 8))
    | .abort .. => false
    | _ => decide (tx.length < 8) || tx.any (fun t => t.2.1 == 4)))

/-- The oldest item equal to `x` taken out of the queue. -/
def FabPort.dequeue (f : FabPort) (x : Nat × FabMsg) : FabPort :=
  { f with out := (f.out.reverse.erase x).reverse }

/-- One fragment of a virtual channel leaves the port (R609, R633, R638). -/
def State.sendFragment (s : State) (p vc : Nat) : State :=
  let f := s.getFabPort p
  let c := f.vc vc
  let credit := vcBlocks vc - (c.sent - c.freed).toNat
  match f.nextOut vc with
  | none => s
  | some x =>
    if f.resync then s
    else match x.2 with
    | .forward ip g =>
      let n := g.blocks
      if credit < n then s
      else
        let known := c.tx.find? (fun t => t.2 == (ip, g.stream.val))
        let st := match known with | some t => t.1 | none => freeStream c.tx
        let tx := c.tx.filter (fun t => t.2 != (ip, g.stream.val))
        let tx := if g.eof then tx else (st, ip, g.stream.val) :: tx
        let f := f.dequeue x
        let f := f.modVc vc (fun c => { c with sent := c.sent + BitVec.ofNat 16 n, tx := tx })
        let h := { g with stream := Fin.ofNat 8 st }
        let f := { f.emit h with wire := .forward ip h :: f.wire }
        let s := (s.setFabPort p f.settle).bumpIf g.eof (epFab p) C.fabTxFrames
        s.freeBlocks ip vc n
    | m =>
      let frame := m.wireFrame s.fabric.device
      let total := frame.length / 8
      let left := if c.left = 0 then total else c.left
      let n := min 15 left
      if credit < 1 + n then s
      else
        let rest := left - n
        let st := match c.tx.find? (fun t => t.2.1 == 4) with
          | some t => t.1
          | none => freeStream c.tx
        let tx := c.tx.filter (fun t => t.2.1 != 4)
        let tx := if rest = 0 then tx else (st, 4, 0) :: tx
        let f := if rest = 0 then { f.dequeue x with wire := m :: f.wire } else f
        let f := f.emit { vc := Fin.ofNat 4 vc, sof := left == total, eof := rest == 0, stream := Fin.ofNat 8 st
                          data := (frame.drop (8 * (total - left))).take (8 * n) }
        let f := f.modVc vc (fun c => { c with sent := c.sent + BitVec.ofNat 16 (1 + n), tx := tx, left := rest })
        (s.setFabPort p f.settle).bumpIf (rest == 0) (epFab p) C.fabTxFrames

/-- FAB_PORT (R625, R631, R668). -/
def execFabPort (ref : CmdRef) (port action : Byte) (s : State) : Out :=
  .next (s.execCmd ref 0x0901 (fun k s =>
    let p := port.toNat
    let f := s.getFabPort p
    let inMask := bitOf (s.par epModule P.fabPortMask) p
    s.checked k [(decide (3 < p) || decide (3 < action.toNat), E.range),
        (action == 0 && f.disabled, E.state),
        (action == 1 && (!f.disabled || !inMask), E.state),
        (action == 2 && f.state != .bench, E.state),
        (action == 3 && !s.fabEnabled p, E.state)] (fun s =>
      match action.toNat with
      | 0 => ((s.modFabPort p (fun f => { f with disabled := true })).linkDown p 7).ok k
      | 1 => ((s.modFabPort p (fun f => { f with disabled := false })).enablePort p).ok k
      | 2 => (s.modFabPort p (fun f => { f with state := .up, benchFrom := none })).ok k
      | _ => ((s.linkDown p 7).enablePort p).ok k)))

end Sys2Proof.Machine
end

