-- ==== Sys2Proof/Machine/Can.lean ====
section
/-! DEFINITION. The CAN FD channels (16_ethernet_can.md): states, transmit buffers, arbitration, errors and reception
(R694 to R709). -/

namespace Sys2Proof.Machine

/-- The channel takes part in traffic: ERROR_ACTIVE or ERROR_PASSIVE. -/
def CanCh.live (c : CanCh) : Bool := c.state == .active || c.state == .passive

/-- A pending buffer. -/
def CanCh.buf (c : CanCh) (n : Nat) : Option CanBuf := (c.bufs.find? (fun b => b.1 == n)).map (·.2)

/-- A buffer no longer pending. -/
def CanCh.drop (c : CanCh) (n : Nat) : CanCh :=
  { c with bufs := c.bufs.filter (fun b => b.1 != n), sending := if c.sending = some n then none else c.sending }

/-- A channel enters OFF or LISTEN: every pending buffer is removed, its CAN_SEND completes with E_ABORTED and is counted unless
a power state change has completed it (R699). -/
def State.canQuiet (s : State) (c : Nat) (st : CanState) : State :=
  let l := (s.getCan c).bufs
  let s := s.modCan c (fun h => { h with state := st, bufs := [], sending := none })
  l.foldl (fun s b => match b.2.cmd with
    | some k => (s.finish k E.aborted).bump (epCan c) C.canTxCancelled
    | none => s) s

/-- can_mode applied to a channel (R696, R697); `running`: stage 0x07 has been reached. -/
def State.canApplyMode (s : State) (c : Nat) (running : Bool) : State :=
  let st := (s.getCan c).state
  match s.par (epCan c) P.canMode with
  | 0 => if st == .off then s else s.canQuiet c .off
  | 1 => if st == .listen then s else s.canQuiet c .listen
  | _ => if (st == .listen || st == .off) && running then s.modCan c (fun h => { h with state := .active }) else s

/-- Data bytes of a frame: 8 for a Classical frame with DLC 9 to 15 (R706). -/
def canBytes (fdf : Bool) (dlc : Nat) : Nat :=
  if dlc ≤ 8 then dlc else if fdf then [12, 16, 20, 24, 32, 48, 64].getD (dlc - 9) 64 else 8

/-- A frame as it is sent: the data bytes of its DLC (R706). -/
def canFrame (f : CanFrame) : CanFrame :=
  let n := canBytes f.fdf f.dlc.val
  { f with data := (f.data ++ List.replicate n 0).take n }

/-- Fields of a CAN_SEND that R706 refuses. -/
def canFrameBad (f : CanFrame) : Bool := (!f.ide && decide (2047 < f.id.toNat)) || (f.brs && !f.fdf)

/-- Index of a CAN endpoint. -/
def canOf (ep : Nat) : Option Nat := if 0xA00 ≤ ep ∧ ep ≤ 0xA03 then some (ep - 0xA00) else none

/-- CAN_SEND (R699 to R701, R706). -/
def execCanSend (ref : CmdRef) (ep buf : BitVec 16) (fr : CanFrame) (at_ : Option Ft) (s : State) : Out :=
  .next (s.execCmd ref 0x0A00 (fun k s =>
    let c := (canOf ep.toNat).getD 0
    let h := s.getCan c
    let ahead : Int := match at_ with | some t => ftDiff t s.ft | none => 0
    s.checked k [((canOf ep.toNat).isNone || decide (31 < buf.toNat) || canFrameBad fr || decide (2000000000 < ahead), E.range),
        (!h.live, E.state),
        ((h.buf buf.toNat).isSome, E.queueFull),
        (decide (ahead < 0), E.tooLate)] (fun s =>
      (s.run k).modCan c (fun h => { h with bufs := h.bufs ++ [(buf.toNat, { fr := canFrame fr, at_ := at_, cmd := some k })] }))))

/-- CAN_CANCEL (R703): too late once the start-of-frame bit has begun. -/
def execCanCancel (ref : CmdRef) (ep buf : BitVec 16) (s : State) : Out :=
  .next (s.execCmd ref 0x0A01 (fun k s =>
    match canOf ep.toNat with
    | none => s.finish k E.range
    | some c =>
      let h := s.getCan c
      match h.buf buf.toNat with
      | none => s.finish k E.state
      | some b =>
        if h.sending = some buf.toNat then (s.finish k E.tooLate).bump (epCan c) C.canCancelLate
        else
          let s := s.setCan c (h.drop buf.toNat)
          let s := (s.finishOpt b.cmd E.aborted).bump (epCan c) C.canTxCancelled
          s.ok k))

/-- A frame of the receive FIFO in CAN_READ (R708). -/
def canRecord (x : Ft8 × CanFrame × Bool) : List Byte :=
  let f := x.2.1
  leFt8 x.1 ++ leBytes 4 f.id.toNat ++ leBytes 1 (b2n f.ide + 2 * b2n f.fdf + 4 * b2n f.brs + 8 * b2n x.2.2) ++
    leBytes 1 f.dlc.val ++ leBytes 2 0 ++ (f.data ++ List.replicate 64 0).take 64

/-- CAN_READ: up to `max` frames leave the FIFO. -/
def execCanRead (ref : CmdRef) (ep : BitVec 16) (max : Byte) (s : State) : Out :=
  .next (s.execCmd ref 0x0A02 (fun k s =>
    let c := (canOf ep.toNat).getD 0
    s.checked k [((canOf ep.toNat).isNone || max == 0 || decide (32 < max.toNat), E.range)] (fun s =>
      let l := (s.getCan c).fifo.take max.toNat
      let s := s.modCan c (fun h => { h with fifo := h.fifo.drop max.toNat })
      s.ok k (leBytes 4 l.length ++ leBytes 4 0 ++ l.flatMap canRecord))))

/-! ### Transmission (R700 to R704) -/

/-- Rank in CAN arbitration: base identifier, then standard before extended, then the extension; lower wins (R700). -/
def canRank (f : CanFrame) : Nat :=
  if f.ide then f.id.toNat / 2 ^ 18 * 2 ^ 19 + 2 ^ 18 + f.id.toNat % 2 ^ 18 else f.id.toNat % 2048 * 2 ^ 19

/-- A buffer is eligible: without a transmit time, or at and after it (R700, R701). -/
def CanBuf.eligible (b : CanBuf) (now : Ft) : Bool :=
  match b.at_ with
  | some t => decide (0 ≤ ftDiff now t)
  | none => true

/-- The eligible buffer that ranks first; equal frames by the lower number (R700). -/
def CanCh.first (c : CanCh) (now : Ft) : Option Nat :=
  ((c.bufs.filter (fun b => b.2.eligible now)).foldl (fun (m : Option (Nat × CanBuf)) b => match m with
    | none => some b
    | some x =>
      let r := canRank b.2.fr
      let q := canRank x.2.fr
      if r < q ∨ (r = q ∧ b.1 < x.1) then some b else m) none).map (·.1)

/-- CAN_ARBITRATION (R700, R701): at bus idle. -/
def execCanArbitration (ch : Fin 4) (s : State) : Out :=
  .next (s.modCan ch.val (fun h => if h.live && h.sending.isNone then { h with sending := h.first s.ft } else h))

/-- ERROR_ACTIVE or ERROR_PASSIVE by the counters (R697). -/
def CanCh.level (c : CanCh) : CanCh :=
  if c.live then { c with state := if c.tec < 128 ∧ c.rec_ < 128 then .active else .passive } else c

/-- The stamp of a start-of-frame edge less the synchroniser's two 80 MHz cycles, 25 ns (R35, R708). -/
def sofStamp (t : Ft8) : Ft8 := t - 6400

/-- CAN_TX_DONE (R558): acknowledged; the transmit error count falls by one. -/
def execCanTxDone (ch : Fin 4) (sof : Ft8) (s : State) : Out :=
  let c := ch.val
  let h := s.getCan c
  .next (match h.sending with
    | none => s
    | some n =>
      let cmd := (h.buf n).bind (·.cmd)
      let s := s.setCan c ({ h.drop n with tec := h.tec - 1 }.level)
      (s.finishOpt cmd E.ok (leFt8 (sofStamp sof))).bump (epCan c) C.canTxOk)

/-- CAN_ARB_LOST (R702): the buffer stays pending. -/
def execCanArbLost (ch : Fin 4) (s : State) : Out :=
  .next (if (s.getCan ch.val).sending.isSome then
    (s.modCan ch.val (fun h => { h with sending := none })).bump (epCan ch.val) C.canArbLost
  else s)

/-- Counter of an error kind (R709). -/
def canErrCounter : CanErr → Nat
  | .stuff => C.canStuffErr
  | .form => C.canFormErr
  | .ack => C.canAckErr
  | .bitRecessive | .bitDominant => C.canBitErr
  | .crc => C.canCrcErr

/-- Code of an error in last_error. -/
def canErrCode : CanErr → Nat
  | .stuff => 1
  | .form => 2
  | .ack => 3
  | .bitRecessive => 4
  | .bitDominant => 5
  | .crc => 6

/-- An identifier collision (R704): counted; logged at most once per identifier and second with the merged count. -/
def State.canCollision (s : State) (c : Nat) (id : Nat) : State :=
  let s := s.bump (epCan c) C.canIdCollision
  let last := (s.getCan c).collisions.find? (fun x => x.1 == id)
  match last with
  | some (_, t, n) =>
    if s.tick < t + 64000000 then
      s.modCan c (fun h => { h with collisions := mput h.collisions id (t, n + 1) })
    else
      (s.modCan c (fun h => { h with collisions := mput h.collisions id (s.tick, 0) })).logFull s.ft8 (epCan c) 0x0A01 (n + 1) (dat 0 id)
  | none => (s.modCan c (fun h => { h with collisions := mput h.collisions id (s.tick, 0) })).logFull s.ft8 (epCan c) 0x0A01 1 (dat 0 id)

/-- Error counts after an error: a transmitter's rises by 8, but not for a missing acknowledgement while ERROR_PASSIVE; a
receiver's by 1 (ISO 11898-1; log entry 54). -/
def CanCh.countError (h : CanCh) (err : CanErr) (tx : Bool) : CanCh :=
  if !h.live then h
  else if tx then (if err == .ack && h.state == .passive then h else { h with tec := h.tec + 8 })
  else { h with rec_ := h.rec_ + 1 }

/-- CAN_ERROR (R698, R702, R704): the frame in transmission is retried; beyond 255 the channel is BUS_OFF. -/
def execCanError (ch : Fin 4) (err : CanErr) (site : CanErrSite) (s : State) : Out :=
  let c := ch.val
  .next (if (s.getCan c).state == .off || (s.getCan c).state == .busOff then s
    else
      let tx := match site with | .transmitter _ => (s.getCan c).sending.isSome | .receiver => false
      let late := match site with | .transmitter b => b | .receiver => false
      let id := match (s.getCan c).sending with
        | some n => ((s.getCan c).buf n).map (·.fr.id.toNat)
        | none => none
      let s := s.bump (epCan c) (canErrCounter err)
      let s : State := match tx && late && err == .bitRecessive, id with
        | true, some i => s.canCollision c i
        | _, _ => s
      let s := s.modCan c (fun h =>
        { h.countError err tx with lastError := canErrCode err, sending := if tx then none else h.sending })
      if 255 < (s.getCan c).tec then
        let n := (s.getCan c).tec
        let s := s.modCan c (fun h => { h with state := .busOff, sending := none, offTick := s.tick })
        (s.bump (epCan c) C.canBusOffCnt).log (epCan c) 0x0A02 (dat 0 (min 255 n))
      else s.modCan c CanCh.level)

/-- Cycles of the 80 MHz CAN protocol clock in a nominal bit (R695). -/
def State.canBitCycles (s : State) (c : Nat) : Nat :=
  s.par (epCan c) P.canNomBrp * (1 + s.par (epCan c) P.canNomTseg1 + s.par (epCan c) P.canNomTseg2)

/-- 128 occurrences of 11 recessive bits can have passed since the entry to BUS_OFF: 1,408 nominal bits (R698). -/
def State.canRecovered (s : State) (c : Nat) : Bool :=
  decide (1408 * s.canBitCycles c * 64 ≤ (s.tick - (s.getCan c).offTick + 1) * 80)

/-- CAN_BUS_OFF_RECOVERY (R698): the bits are counted on the bus; sooner than 1,408 bits the event cannot have happened. -/
def execCanBusOffRecovery (ch : Fin 4) (s : State) : Out :=
  let c := ch.val
  .next (if (s.getCan c).state == .busOff && s.canRecovered c then
    (s.modCan c (fun h => { h with state := .active, tec := 0, rec_ := 0 })).log (epCan c) 0x0A03 0
  else s)

/-! ### Reception (R694, R705, R707, R708) -/

/-- An acceptance filter passes a frame (R707). -/
def filterPasses (v : Nat) (f : CanFrame) : Bool :=
  let w := v % 2 ^ 32
  let m := v / 2 ^ 32
  bitOf w 30 && (!bitOf m 31 || bitOf w 31 == f.ide) && (Nat.land (w % 2 ^ 29) (m % 2 ^ 29) == Nat.land f.id.toNat (m % 2 ^ 29))

/-- Receive error count after a good frame: falls by one, and from above 127 to a value of 119 to 127 (log entry 54). -/
def CanCh.goodRx (h : CanCh) (v : Nat) : CanCh :=
  if !h.live then h else ({ h with rec_ := if 127 < h.rec_ then 119 + v % 9 else h.rec_ - 1 }).level

/-- CAN_FRAME_RX (R694, R705, R707, R708): the stamp is the edge's less the synchroniser's two 80 MHz cycles. -/
def execCanFrameRx (ch : Fin 4) (fr : CanFrame) (remote esi : Bool) (sof : Ft8) (s : State) : Out :=
  let c := ch.val
  let h := s.getCan c
  .next (if h.state == .off || h.state == .busOff then s
    else
      let s := s.took.modCan c (fun h => h.goodRx s.fresh)
      if remote then s.bump (epCan c) C.canRxRemote
      else if !((List.range 16).any (fun i => filterPasses (s.par (epCan c) P.canFilter i) fr)) then s.bump (epCan c) C.canRxFiltered
      else if 64 ≤ h.fifo.length then s.bump (epCan c) C.canRxOverflow
      else
        (s.modCan c (fun h => { h with fifo := h.fifo ++ [(sofStamp sof, canFrame fr, esi)] })).bump (epCan c) C.canRxOk)

end Sys2Proof.Machine
end

