-- ==== Sys2Proof/Machine/Trail.lean ====
section
/-! DEFINITION. Trails, waymarks, homing and stopping (07_trajectories.md, R315 to R371, R836). The planner's shape of a motion
reaches the model as the segments it writes; every rule that decides by itself, and every ramp to rest, is computed here. -/

namespace Sys2Proof.Machine

/-- Endpoint of an object with a segment queue. -/
def trailEp : TrailEp → Nat
  | .servo i => epServo i.val
  | .stepper i => epStepper i.val
  | .virt i => epVirt i.val
  | .group i => epGroup i.val
  | .remote i => epRemote i.val

/-- A path group's endpoint (R342). -/
def isGroupEp (ep : Nat) : Bool := decide (0x1F40 ≤ ep) && decide (ep ≤ 0x1F5F)

/-- An endpoint with a trail (R315, R342). -/
def hasTrail (ep : Nat) : Bool := decide (ep < 0x40) || (decide (0x100 ≤ ep) && decide (ep ≤ 0x1FF)) || isGroupEp ep

/-- How a trail command on an endpoint without a trail fails: an auxiliary drive and a remote axis are axes whose trail is not
their setpoint source (R315, R316); another object is none the command acts on (log entry 73). -/
def noTrail (ep : Nat) : BitVec 16 :=
  if (0x40 ≤ ep ∧ ep ≤ 0x4F) ∨ (0x200 ≤ ep ∧ ep ≤ 0x27F) then E.state else E.endpoint

/-- The trail takes commands: its axis's setpoint source, or a group's own (R316). -/
def State.trailOpen (s : State) (ep : Nat) : Bool := isGroupEp ep || s.trailIsSource ep

/-- The object is ENABLED: an axis, or every member of a group on this module. -/
def State.trailEnabled (s : State) (ep : Nat) : Bool :=
  if isGroupEp ep then s.groupEnabled (ep - 0x1F40) else s.axisStateOf ep == .enabled

/-- Present position of an axis. -/
def State.posOf (s : State) (ep : Nat) : Q32 :=
  if ep < 0x20 then s.axisPos ep
  else if ep < 0x40 then (s.stpCommanded (ep - 0x20)).p
  else (s.getVirt (ep - 0x100)).sp.1

/-- Present setpoint velocity of an axis. -/
def State.velOf (s : State) (ep : Nat) : Q32 :=
  if ep < 0x20 then (s.getLoop ep).vs
  else if ep < 0x40 then (s.stpCommanded (ep - 0x20)).v
  else (s.getVirt (ep - 0x100)).sp.2.1

/-- position_uncertain of an axis; of a group, of some member (R354). -/
def State.uncertainOf (s : State) (ep : Nat) : Bool :=
  let one (e : Nat) : Bool := if e < 0x20 then (s.getFb e).uncertain
    else if e < 0x40 then (s.getStepper (e - 0x20)).uncertain else false
  if isGroupEp ep then (s.groupMembers (ep - 0x1F40)).any (fun m => (s.localEp m).any one) else one ep

/-- position_uncertain cleared (R165, R355, R436). -/
def State.clearUncertain (s : State) (ep : Nat) : State :=
  if ep < 0x20 then s.modFb ep (fun f => { f with uncertain := false })
  else if ep < 0x40 then s.modStepper (ep - 0x20) (fun c => { c with uncertain := false })
  else s

/-! ### Ramps to rest in force (R335, R349) -/

/-- Planned motion of a trail at XT.16 `x`. -/
def State.plannedAt (s : State) (ep x : Nat) : Motion :=
  match ((s.getTrail ep).sample (ft16Of x)).1 with
  | some m => m
  | none => { p := s.holdPoint ep }

/-- A ramp to rest from XT.16 `x` replaces the queue (R335, R349). -/
def State.rampFrom (s : State) (ep x : Nat) (lim : Rat × Rat) : State :=
  let t := s.getTrail ep
  let segs := rampToRest (s.plannedAt ep x) x lim.1 lim.2 t.nextGen
  s.setTrail ep { t with queue := t.queue.filter (fun g => decide (s.xtOfFt16 g.tStart < x)) ++ segs }

/-! ### Waymark vectors of path groups (R342, R344) -/

/-- Waymark vector at the end of a group move. -/
def endVec (start : List Q32) (m : MoveRec) : List Q32 :=
  match m.type.toNat with
  | 0 | 4 => m.targets
  | 1 => (start.zip m.targets).map (fun x => x.1 + x.2)
  | _ => start

/-- The waymark vector from which a group's move in progress starts: the last one passed, else where the members here stand. -/
def State.groupStart (s : State) (g : Nat) : List Q32 :=
  let t := s.getTrail (epGroup g)
  if t.lastVec.isEmpty then (s.groupMembers g).map (fun m => match s.localEp m with
    | some e => s.holdPoint e
    | none => 0)
  else t.lastVec

/-- The vectors from and to which a group's appended moves lead, behind those on its trail. -/
def State.appendVecs (s : State) (g : Nat) (ms : List MoveRec) : List (List Q32 × List Q32) :=
  let start := (s.getTrail (epGroup g)).moves.foldl (fun v m => endVec v m.rec_) (s.groupStart g)
  (ms.foldl (fun (a : List Q32 × List (List Q32 × List Q32)) m => (endVec a.1 m, a.2 ++ [(a.1, endVec a.1 m)])) (start, [])).2

/-- Members of a group on this module with their places in its vectors. -/
def State.placedMembers (s : State) (g : Nat) : List (Nat × Nat) :=
  (s.groupMembers g).zipIdx.filterMap (fun m => (s.localEp m.1).map (fun e => (e, m.2)))

/-- Length of the way between two vectors of a group, axis units (R344). -/
def State.wayLength (s : State) (g : Nat) (a b : List Q32) : Rat :=
  s.pathLength g ((s.placedMembers g).map (fun m => ofQ32 (b.getD m.2 0 - a.getD m.2 0) * s.unitOf m.1))

/-- Where the members of a group here stand at XT.16 `x`, in a vector. -/
def State.vecAt (s : State) (g x : Nat) : List Q32 :=
  (s.groupMembers g).map (fun m => match s.localEp m with
    | some e => (s.plannedAt e x).p
    | none => 0)

/-- The axis whose profile grid a trail's changes use: of a group its first member here (R337; log entry 93). -/
def State.gridEp (s : State) (ep : Nat) : Nat :=
  if 0x1F40 ≤ ep ∧ ep ≤ 0x1F5F then (s.localMembers (ep - 0x1F40)).headD 0 else ep

/-! ### Appending moves (R317 to R321, R836) -/

/-- End of the trail as far as it is known: the present position at rest, or the last move's end (R836). -/
def State.trailEnd (s : State) (ep : Nat) : Option Q32 :=
  let t := s.getTrail ep
  match t.moves.getLast? with
  | some m => m.endPos
  | none => match t.lastSeg with
    | some g => some g.p0
    | none => some (s.holdPoint ep)

/-- End of a move that starts at a known or unknown position (R836). -/
def moveEnd (start : Option Q32) (m : MoveRec) : Option Q32 :=
  match m.type.toNat with
  | 0 => some m.target
  | 1 => start.map (· + m.target)
  | 3 => start
  | 4 => some m.target
  | _ => none

/-- The records with their start and end positions. -/
def withEnds (start : Option Q32) : List MoveRec → List (MoveRec × Option Q32 × Option Q32)
  | [] => []
  | m :: l => (m, start, moveEnd start m) :: withEnds (moveEnd start m) l

/-- Step 1 of R321. -/
def moveMalformed (group : Bool) (m : MoveRec) : Bool :=
  decide (4 < m.type.toNat) || m.reserved != 0 || decide (4 ≤ m.flags.toNat) || (!group && m.blendTol != 0) ||
  (bitOf m.flags.toNat 1 && (m.type == 4 || m.type == 3))

/-- A limit field is a finite value above zero and not above its trj_ limit. -/
def limitBad (x : F32) (lim : Rat) : Bool := f32Bad x.toNat || decide (f32Val x.toNat ≤ 0) || decide (lim < f32Val x.toNat)

/-- Step 2 of R321. A path group has no trj_ limits of its own: its planner keeps those of the members (R345). -/
def State.moveRange (s : State) (ep : Nat) (m : MoveRec) : Bool :=
  let jl := s.parF ep P.trjJLimit
  let j := f32Val m.jerk.toNat
  let bad (x : F32) (lim : Nat) : Bool := limitBad x (if isGroupEp ep then f32Val x.toNat else s.parF ep lim)
  decide (1 < m.blend.toNat) || bad m.vMax P.trjVLimit || bad m.aMax P.trjALimit ||
  bad m.dMax P.trjALimit || f32Bad m.jerk.toNat || decide (j < 0) || decide (!isGroupEp ep ∧ jl ≠ 0 ∧ jl < j) ||
  !posOrZero m.blendTol ||
  (m.type == 2 && decide (f32Val m.vMax.toNat < rabs (ofQ32 m.target) * s.unitOf ep))

/-- A target outside the soft limits of an axis (R321 step 3). -/
def State.softBad (s : State) (ep : Nat) (p : Q32) : Bool :=
  s.par ep P.softLimitEnable == 1 && (decide (p < s.parQ ep P.softMin) || decide (s.parQ ep P.softMax < p))

/-- Step 3 of R321: for a group each member's end against that member's limits. -/
def State.moveSoft (s : State) (ep : Nat) (m : MoveRec × Option Q32 × Option Q32) (vs : List Q32 × List Q32) : Bool :=
  if isGroupEp ep then
    (m.1.type == 0 || m.1.type == 1 || m.1.type == 4) &&
      (s.placedMembers (ep - 0x1F40)).any (fun x => s.softBad x.1 (vs.2.getD x.2 0))
  else (m.1.type == 0 || m.1.type == 1 || m.1.type == 4) && m.2.2.any (fun p => s.softBad ep p)

/-- A move leads toward an active limit input, of a group of some member here (R321 step 4). -/
def State.towardLimit (s : State) (ep : Nat) (m : MoveRec × Option Q32 × Option Q32) (vs : List Q32 × List Q32) : Bool :=
  let t := s.getTrail ep
  let toward (t : Trail) (d : Int) : Bool := (t.limPos && decide (0 < d)) || (t.limNeg && decide (d < 0))
  let d : Int := match m.1.type.toNat with
    | 2 => m.1.target
    | 1 => m.1.target
    | 0 => m.1.target - m.2.1.getD m.1.target
    | 4 => m.1.target - m.2.1.getD m.1.target
    | _ => 0
  if isGroupEp ep then (s.placedMembers (ep - 0x1F40)).any (fun x => toward (s.getTrail x.1) (vs.2.getD x.2 0 - vs.1.getD x.2 0))
  else toward t d

/-- The FT.8 of a move's time field as XT.16 (R12). -/
def State.moveTime (s : State) (m : MoveRec) : Nat := s.xtOfFt8 (m.time.truncate 40)

/-- A start or arrival FT less than t_app after acceptance (R321 step 5). -/
def State.moveLate (s : State) (m : MoveRec) : Bool :=
  (m.type == 4 || bitOf m.flags.toNat 1) && decide (s.moveTime m < s.xt16 + 32768000000)

/-- Limits of a move or a member in turns: speed, acceleration, deceleration, jerk (0 unlimited). -/
structure PathLimits where
  v : Rat
  a : Rat
  d : Rat
  j : Rat

/-- Limits of a move on a single axis, or of a path in axis units (R320, R344). -/
def State.limitsOf (s : State) (ep : Nat) (m : MoveRec) : PathLimits :=
  let u := s.unitOf ep
  let l := s.moveLimits ep m
  { v := f32Val m.vMax.toNat / u, a := f32Val m.aMax.toNat / u, d := l.1, j := l.2 }

/-- From speed `v0` and acceleration `a0` toward a target `dist` away, the limits bring the axis to rest there within `left` seconds
(R321, R323): without jerk by the trapezoid of the least time, with jerk as Config says (log entry 31). -/
def reachesBy (l : PathLimits) (v0 a0 dist left : Rat) : Bool :=
  if l.j ≠ 0 then Config.absAtFits (v0, a0) dist (l.v, l.a, l.d, l.j) left
  else
    let peak2 := (2 * l.a * l.d * dist + l.d * v0 * v0) / (l.a + l.d)
    if l.v * l.v < peak2 then
      decide ((l.v - v0) / l.a + l.v / l.d + (dist - (l.v * l.v - v0 * v0) / (2 * l.a) - l.v * l.v / (2 * l.d)) / l.v ≤ left)
    else
      -- (peak - v0) / a + peak / d ≤ left
      let need := left + v0 / l.a
      decide (v0 * v0 ≤ 2 * l.d * dist) && decide (0 ≤ need) &&
        decide (peak2 * (1 / l.a + 1 / l.d) * (1 / l.a + 1 / l.d) ≤ need * need)

/-- An ABS_AT with blend 1, or one its limits cannot complete by its arrival (R321 step 6); behind other moves, or with a start not known,
as Config says (log entry 31). -/
def State.absAtBad (s : State) (ep : Nat) (first : Bool) (m : MoveRec × Option Q32 × Option Q32) (vs : List Q32 × List Q32) : Bool :=
  if m.1.type ≠ 4 then false
  else if m.1.blend = 1 then true
  else
    let l := s.limitsOf ep m.1
    let left := secOf ((s.moveTime m.1 : Int) - s.xt16)
    let dist := if isGroupEp ep then s.wayLength (ep - 0x1F40) vs.1 vs.2 else rabs (ofQ32 (m.1.target - m.2.1.getD m.1.target))
    if first && (isGroupEp ep || m.2.1.isSome) then !reachesBy l 0 0 dist left
    else !Config.absAtFits (0, 0) dist (l.v, l.a, l.d, l.j) left

/-- The next move number (R319). -/
def nextNum (n : BitVec 32) : BitVec 32 := if n + 1 = 0 then 1 else n + 1

/-- Records numbered from the last number used. -/
def numbered (n : BitVec 32) : List (MoveRec × Option Q32 × Option Q32) → List Move
  | [] => []
  | m :: l => { num := nextNum n, rec_ := m.1, endPos := m.2.2 } :: numbered (nextNum n) l

/-- TRAIL_APPEND (R316 to R321). -/
def execTrailAppend (ref : CmdRef) (ep : BitVec 16) (moves : List MoveRec) (s : State) : Out :=
  .next (s.execCmd ref 0x0500 (fun k s =>
    let e := ep.toNat
    let t := s.getTrail e
    let ms := withEnds (s.trailEnd e) moves
    let vs := s.appendVecs (e - 0x1F40) moves
    let grp := isGroupEp e
    s.checked k [
      (!hasTrail e, noTrail e),
      (!s.trailOpen e, E.state),
      (moves.any (moveMalformed grp), E.malformed),
      (moves.isEmpty || decide (8 < moves.length) || moves.any (s.moveRange e), E.range),
      ((ms.zip vs).any (fun x => s.moveSoft e x.1 x.2), E.range),
      (!s.trailEnabled e || t.state == .stopping || t.state == .homing || s.uncertainOf e ||
        (ms.zip vs).any (fun x => s.towardLimit e x.1 x.2), E.state),
      (moves.any s.moveLate, E.tooLate),
      ((ms.zip vs).zipIdx.any (fun x => s.absAtBad e (t.moves.isEmpty && x.2 == 0) x.1.1 x.1.2), E.conflict),
      (decide (64 < t.moves.length + moves.length), E.queueFull)]
      (fun s =>
        let s := if t.reportDue.isSome then
            (if grp then s.took.writeReport e (Int.ofNat s.fresh) false else s.writeReport e (s.posOf e) false) else s
        let new := numbered t.lastNum ms
        let first := nextNum t.lastNum
        (s.run k).modTrail e (fun t => { t with
          moves := t.moves ++ new, lastNum := (new.getLast?.map (·.num)).getD t.lastNum, state := .running
          softLimited := false, appendCmds := t.appendCmds ++ [(k, first)] }))))

/-- TRAIL_PLANNED (R320): the appended moves are planned and their commands complete. -/
def execTrailPlanned (ep : TrailEp) (s : State) : Out :=
  .next (
    let e := trailEp ep
    let t := s.getTrail e
    let s := s.setTrail e { t with moves := t.moves.map (fun m => { m with planned := true }), appendCmds := [] }
    t.appendCmds.foldl (fun s c => s.ok c.1 (leBytes 4 c.2.toNat)) s)

/-! ### The planner's segments (R331 to R336, R344, R836) -/

/-- An entry's time has passed. -/
def State.segPast (s : State) (g : Seg) : Bool := !g.hold && decide (ft16Diff g.tEnd s.time.ft16 ≤ 0)

/-- Entries of a queue that still take a place: neither passed nor of a freed generation (R333). -/
def State.liveQueue (s : State) (t : Trail) : List Seg := t.queue.filter (fun g => !s.segPast g && t.live g)

/-- Two entries of a cam follower with one part of the phase offset, for two pieces (R398). -/
def camSame (a b : Seg) : Bool :=
  a.fol.any (fun p => p.map == 2) && b.fol.any (fun p => p.map == 2) && { a with fol := none } == { b with fol := none }

/-- Entries that may enter a queue: at most 8 places and five of one generation (R54, R335), one generation, each the next
after the highest queued or that one, in order of time; those of the pieces of a cam stand side by side. -/
def State.segsFit (s : State) (t : Trail) (segs : List Seg) : Bool :=
  let live := s.liveQueue t
  let ordered := (segs.zip segs.tail).all (fun ab => (ab.1.tEnd == ab.2.tStart && !ab.1.hold) || camSame ab.1 ab.2)
  match segs.head? with
  | none => false
  | some g =>
    let known := g.gen == t.nextGen - 1 || g.gen == t.nextGen
    decide (live.length + segs.length ≤ 8) && segs.all (fun e => e.gen == g.gen) &&
    decide ((live.filter (fun e => e.gen == g.gen)).length + segs.length ≤ 5) && known && ordered &&
    segs.all (fun e => e.hold || decide (0 < ft16Diff e.tEnd e.tStart))

/-- Queue entries written. -/
def State.writeSegs (s : State) (ep : Nat) (segs : List Seg) : State :=
  let t := s.getTrail ep
  s.setTrail ep { t with queue := s.liveQueue t ++ segs }

/-- A REL move of unknown end whose first segment is planned and whose end then lies outside the soft limits: it and every
later move go, and the axis comes to rest (R836). -/
def State.lateSoft (s : State) (ep : Nat) (g : Seg) : Option State :=
  let t := s.getTrail ep
  match t.moves.find? (fun m => m.num == g.move) with
  | none => none
  | some m =>
    if m.num = 0 ∨ m.rec_.type ≠ 1 ∨ m.endPos.isSome ∨ s.softBad ep (g.p0 + m.rec_.target) = false then none
    else
      let before := t.moves.takeWhile (fun x => x.num != m.num)
      let gone := t.moves.length - before.length
      let lim := match before.getLast? with
        | some b => s.moveLimits ep b.rec_
        | none => s.nowLimits ep
      let s := s.setTrail ep { t with
        moves := before, softLimited := true
        reportDue := some { cause := 4, category := 255, lastWaymark := t.lastWaymark, move := s.moveNow ep
                            discarded := gone, ftStop := s.ft8 } }
      let s := s.rampFrom ep (s.xtOfFt16 g.tStart) lim
      some (s.log ep 0x0505 (dat 8 (q64 (s.posOf ep))))

/-! ### What a planned profile keeps (R322 to R328, R345, R346) -/

/-- Two raws agree to the rounding of the planner, which the spec does not state (log entry 93). -/
def near (a b : Int) : Bool := decide ((a - b).natAbs ≤ Config.planTol)

/-- A value lies at or below a limit, to the same rounding. -/
def upTo (x lim : Rat) : Bool := decide (x ≤ lim + (Config.planTol : Rat) / pow2 32)

/-- A piece of constant jerk keeps limits: the speed at its ends and where its acceleration changes sign, the acceleration of each end
by whether |v| rises there (R322). -/
def pieceOk (l : PathLimits) (g : Seg) : Bool :=
  let e := segAt g g.tEnd
  let v0 := ofQ32 g.v0
  let v1 := ofQ32 e.v
  let a0 := ofQ32 g.a0
  let a1 := ofQ32 e.a
  let j := ofQ32 g.j0
  let top (rises : Bool) : Rat := if v0 * v1 < 0 then min l.a l.d else if rises then l.a else l.d
  upTo (rabs v0) l.v && upTo (rabs v1) l.v && (decide (0 ≤ a0 * a1) || upTo (rabs (v0 - a0 * a0 / (2 * j))) l.v) &&
    upTo (rabs a0) (top (decide (0 < v0 * a0) || v0 == 0)) && upTo (rabs a1) (top (decide (0 < v1 * a1)))

/-- The jerk of a piece is its move's or 0 (R322). -/
def jerkOk (l : PathLimits) (g : Seg) : Bool := near g.j0 0 || (l.j != 0 && near g.j0.natAbs (toQ32 l.j))

/-- A piece of the time-optimal profile stands at a limit: of jerk, of acceleration or deceleration, or of speed; the cruise of an ABS_AT
is lower as it needs (R323). -/
def tight (l : PathLimits) (m : MoveRec) (g : Seg) : Bool :=
  let top := if m.type = 2 then m.target.natAbs else (toQ32 l.v).natAbs
  if !near g.j0 0 then true
  else if near g.a0 0 then m.type == 3 || m.type == 4 || near g.v0.natAbs top || (near g.v0 0 && near g.p0 (segAt g g.tEnd).p)
  else near g.a0.natAbs (toQ32 (if 0 < g.v0 * g.a0 ∨ g.v0 = 0 then l.a else l.d)).natAbs

/-- Direction of a move from a position. -/
def moveDir (p : Q32) (m : MoveRec) : Int :=
  match m.type.toNat with
  | 1 | 2 => m.target.sign
  | 3 => 0
  | _ => (m.target - p).sign

/-- The waymark at `w` between two moves, approached in direction `dir`, is exact (R325, R327, R328). -/
def exactAt (m n : MoveRec) (w : Q32) (dir : Int) : Bool :=
  m.blend != 1 || bitOf n.flags.toNat 1 || decide (dir * moveDir w n ≤ 0)

/-- The square of the highest speed at the end `w` of a move, from which the moves after it still carry the axis to rest at their last
end; none: that end is not bounded (R324, R328). -/
def State.wayBound (s : State) (ep : Nat) (w : Q32) (dir : Int) (m : MoveRec) : List Move → Option Rat
  | [] => if m.type = 2 then none else some 0
  | n :: l =>
    if exactAt m n.rec_ w dir then some 0
    else
      let a := s.limitsOf ep m
      let b := s.limitsOf ep n.rec_
      let v := min (a.v * a.v) (b.v * b.v)
      match n.rec_.type.toNat, moveEnd (some w) n.rec_ with
      | 2, _ => some v
      | _, none => some v
      | _, some e => match s.wayBound ep e (moveDir w n.rec_) n.rec_ l with
        | none => some v
        | some x => some (min v (x + 2 * b.d * rabs (ofQ32 (e - w))))

/-- The moves of a trail within the look-ahead (R324). -/
def State.lookMoves (s : State) (ep : Nat) : List Move := (s.getTrail ep).moves.take (s.par ep P.lookAhead + 1)

/-- A move of a trail by number, with those after it. -/
def movesFrom (n : BitVec 32) (l : List Move) : List Move := l.dropWhile (fun m => m.num != n)

/-- An axis at a motion within a move comes to rest under the limits by the last end looked ahead to, in a VEL move by its soft limit
(R324, R359): by the squares of speed where no jerk is limited, by the way to rest where the move in progress ends at rest, else as Config
says of the motion, its limits and the way left (log entry 93). -/
def State.restsAhead (s : State) (ep : Nat) (x : Motion) (num : BitVec 32) : Bool :=
  match movesFrom num (s.lookMoves ep) with
  | [] => true
  | m :: rest =>
    let l := s.limitsOf ep m.rec_
    let soft : Option Q32 := if s.par ep P.softLimitEnable = 1 ∧ m.rec_.type = 2 then
        some (if x.v < 0 then s.parQ ep P.softMin else s.parQ ep P.softMax) else none
    match m.endPos.or soft with
    | none => true
    | some w =>
      let dir := if near w x.p then x.v.sign else (w - x.p).sign
      let v := ofQ32 x.v
      let way := rabs (ofQ32 (w - x.p))
      match if m.endPos.isNone then some 0 else s.wayBound ep w dir m.rec_ rest with
      | none => true
      | some b =>
        if dir * x.v < 0 then true
        else if l.j = 0 ∧ rest.all (fun n => (s.limitsOf ep n.rec_).j == 0) then upTo (v * v) (b + 2 * l.d * way)
        else if b = 0 then upTo (restDistance (rabs v) (restPhases (rabs v) (dir * ofQ32 x.a) l.d l.j)) way
        else Config.planRest v (ofQ32 x.a) (ofQ32 (w - x.p)) b l.d l.j

/-- The motion at which an entry of the queue to be joined leaves off. -/
def State.joinAt (s : State) (ep : Nat) (g : Seg) : Motion :=
  match (s.liveQueue (s.getTrail ep)).find? (fun h => !h.hold && h.tEnd == g.tStart && h.gen == g.gen) with
  | some h => segAt h g.tStart
  | none => s.plannedAt ep (s.xtOfFt16 g.tStart)

/-- An entry continues a motion: position and velocity, and acceleration where jerk is limited (R322, R338). -/
def continues (x : Motion) (j : Rat) (g : Seg) : Bool := near x.p g.p0 && near x.v g.v0 && (j == 0 || near x.a g.a0)

/-- An entry at rest. -/
def segRests (g : Seg) : Bool := near g.v0 0 && near g.a0 0 && near g.j0 0

/-- An entry by itself (R322 to R327): within its move's limits, not before its start FT, at rest in a DWELL, at the arrival FT of
an ABS_AT; a hold entry rests at the move's end or runs at the velocity of a VEL move; an entry of no move rests. -/
def State.entryOk (s : State) (ep : Nat) (g : Seg) : Bool :=
  match (s.getTrail ep).moves.find? (fun m => m.num == g.move && g.move != 0) with
  | none => segRests g
  | some m =>
    let l := s.limitsOf ep m.rec_
    let started := !bitOf m.rec_.flags.toNat 1 || decide (s.moveTime m.rec_ ≤ s.xtOfFt16 g.tStart)
    if g.hold then
      started && near g.a0 0 && near g.j0 0 &&
        (if m.rec_.type = 2 then near g.v0 m.rec_.target else near g.v0 0 && m.endPos.all (near g.p0))
    else
      started && pieceOk l g && jerkOk l g && tight l m.rec_ g && (m.rec_.type != 3 || segRests g) &&
        (m.rec_.type != 4 || !g.last || decide (s.xtOfFt16 g.tEnd = s.moveTime m.rec_))

/-- The waymark between an entry that ends its move and what follows it: exact, at rest at the waymark with the next move at once
unless it has a start FT or is not planned; or blended, at the highest speed that R324 and both moves allow, exactly so where no jerk is
limited (R325, R327, R328). `x0` is the motion at which the write begins. -/
def State.waymarkOk (s : State) (ep : Nat) (x0 : Motion) (a g : Seg) : Bool :=
  match movesFrom a.move (s.lookMoves ep) with
  | m :: n :: rest =>
    let x := segAt a a.tEnd
    let l := s.limitsOf ep m.rec_
    if m.rec_.type = 2 then true
    else match m.endPos with
      | none => true
      | some w =>
        let dir := (w - a.p0).sign
        let late := bitOf n.rec_.flags.toNat 1 || !n.planned
        near x.p w &&
        (if exactAt m.rec_ n.rec_ w dir || g.move != n.num then
          near x.v 0 && (l.j == 0 || near x.a 0) && (g.move == n.num || (segRests g && late))
        else
          let v := ofQ32 x.v
          let b := (s.wayBound ep w dir m.rec_ (n :: rest)).getD (l.v * l.v)
          let v0 := ofQ32 x0.v
          upTo (v * v) b &&
            (l.j != 0 || upTo (min b (v0 * v0 + 2 * l.a * rabs (ofQ32 (w - x0.p)))) (v * v)))
  | _ => true

/-- Two neighbours of a write, or the queue's last entry and the first. -/
def State.pairOk (s : State) (ep : Nat) (x0 : Motion) (a g : Seg) : Bool :=
  let jerk (n : BitVec 32) : Rat := match (s.getTrail ep).moves.find? (fun m => m.num == n) with
    | some m => (s.limitsOf ep m.rec_).j
    | none => 0
  let vel := (s.getTrail ep).moves.any (fun m => m.num == a.move && m.rec_.type == 2)
  continues (segAt a a.tEnd) (if jerk a.move == 0 then 0 else jerk g.move) g &&
    (a.move == g.move || a.move == 0 || a.last || vel) && (!a.last || s.waymarkOk ep x0 a g)

/-- A DWELL lasts its duration: between the first and the last of its entries that the queue and the write hold (R320, R323). -/
def State.dwellOk (s : State) (ep : Nat) (segs : List Seg) (g : Seg) : Bool :=
  match (s.getTrail ep).moves.find? (fun m => m.num == g.move && g.move != 0 && m.rec_.type == 3), g.last with
  | some m, true =>
    let first := ((s.liveQueue (s.getTrail ep) ++ segs).find? (fun h => h.move == g.move && h.gen == g.gen)).getD g
    near (ft16Diff g.tEnd first.tStart) (bits m.rec_.time.toNat 31 0 * 65536)
  | _, _ => true

/-- Entries that the planner may write for a trail of its own (R322 to R328). -/
def State.profileOk (s : State) (ep : Nat) (segs : List Seg) : Bool :=
  match segs with
  | [] => false
  | g :: _ =>
    let x0 := s.joinAt ep g
    let e := segs.getLast?.getD g
    near x0.p g.p0 && near x0.v g.v0 && segs.all (s.entryOk ep) && segs.all (s.dwellOk ep segs) &&
      (segs.zip segs.tail).all (fun ab => s.pairOk ep x0 ab.1 ab.2) &&
      (e.hold || s.restsAhead ep (segAt e e.tEnd) e.move)

/-- New limits of moves (R337). -/
def newLimits (mask : Nat) (a d j : F32) (m : Move) : Move :=
  { m with rec_ := { m.rec_ with
      aMax := if bitOf mask 0 then a else m.rec_.aMax
      dMax := if bitOf mask 1 then d else m.rec_.dMax
      jerk := if bitOf mask 2 then j else m.rec_.jerk } }

/-- The moves that a TRAIL_CANCEL keeps: up to its waymark, none for waymark 0 (R348, R349). -/
def keptMoves (wm : BitVec 32) (l : List Move) : List Move :=
  if wm = 0 then [] else l.takeWhile (fun m => m.num != wm) ++ (l.filter (fun m => m.num == wm)).take 1

/-- The moves of a trail as they stand from an instant on: a change that waits for its B at or before it is made (R337 to R339, R348). -/
def State.planView (s : State) (ep x : Nat) : State :=
  let t := s.getTrail ep
  match t.change with
  | some (b, .limits scope mask a d j) => if x < b then s else s.setTrail ep { t with
      moves := if scope = 0 then (t.moves.take 1).map (newLimits mask a d j) ++ t.moves.drop 1 else t.moves.map (newLimits mask a d j) }
  | some (b, .cancel _ wm) => if x < b then s else s.setTrail ep { t with moves := keptMoves wm t.moves }
  | _ => s

/-- Entries that the planner may write for a phase of homing: toward the phase's velocity, or to rest at home_position, under home_accel
and trj_j_limit (R361, R363). -/
def State.homeOk (s : State) (ep : Nat) (segs : List Seg) : Bool :=
  let u := s.unitOf ep
  let up : Rat := if 0 < s.parZ ep P.homeDir then 1 else -1
  let fast := s.parF ep P.homeFast / u
  let slow := s.parF ep P.homeSlow / u
  let vt : Option Rat := match (s.getTrail ep).phase with
    | .fast => some (up * fast)
    | .fastReversed => some (-up * fast)
    | .backoff => some (-up * slow)
    | .approach | .index => some (up * slow)
    | _ => none
  match segs, segs.getLast? with
  | g :: _, some e =>
    let x := s.joinAt ep g
    let l : PathLimits := { v := max (rabs (vt.getD fast)) (rabs (ofQ32 x.v)), a := s.parF ep P.homeAccel / u, d := s.parF ep P.homeAccel / u
                            j := s.parF ep P.trjJLimit / u }
    near x.p g.p0 && near x.v g.v0 && (segs.zip segs.tail).all (fun ab => continues (segAt ab.1 ab.1.tEnd) l.j ab.2) &&
      segs.all (fun h => h.hold || (pieceOk l h && jerkOk l h &&
        vt.all (fun v => decide (rabs (ofQ32 (segAt h h.tEnd).v - v) ≤ rabs (ofQ32 h.v0 - v) + (Config.planTol : Rat) / pow2 32)))) &&
      (!e.hold || (near e.a0 0 && (match vt with
        | some v => near e.v0 (toQ32 v)
        | none => near e.v0 0 && near e.p0 (s.parQ ep P.homePosition))))
  | _, _ => false

/-! ### Path groups (R344 to R346) -/

/-- A group's moves with the vectors from and to which they lead. -/
def legs (start : List Q32) : List Move → List (Move × List Q32 × List Q32)
  | [] => []
  | m :: l => (m, start, endVec start m.rec_) :: legs (endVec start m.rec_) l

/-- Displacement of a member in a leg. -/
def legOf (x : Move × List Q32 × List Q32) (i : Nat) : Int := x.2.2.getD i 0 - x.2.1.getD i 0

/-- A member's limits: its own, and of each path limit its part of the leg, where no overlap adds profiles (R344, R345). -/
def State.memberLimits (s : State) (g ep i : Nat) (x : Move × List Q32 × List Q32) : PathLimits :=
  let u := s.unitOf ep
  let own : PathLimits := { v := s.parF ep P.trjVLimit / u, a := s.parF ep P.trjALimit / u, d := s.parF ep P.trjALimit / u
                            j := s.parF ep P.trjJLimit / u }
  let n := s.wayLength g x.2.1 x.2.2
  let part : Rat := if n = 0 then 1 else rabs (ofQ32 (legOf x i)) / n
  if x.1.rec_.blend = 1 ∨ n = 0 then own
  else { v := min own.v (f32Val x.1.rec_.vMax.toNat * part), a := min own.a (f32Val x.1.rec_.aMax.toNat * part)
         d := min own.d (f32Val x.1.rec_.dMax.toNat * part), j := own.j }

/-- A member's entry lies on the straight line of its leg with every other member here that has an entry of that instant (R345). -/
def State.onLine (s : State) (grp i : Nat) (x : Move × List Q32 × List Q32) (g : Seg) : Bool :=
  (s.groupMembers grp).zipIdx.all (fun m => match s.localEp m.1 with
    | none => true
    | some e => m.2 == i || (s.getTrail e).queue.all (fun h =>
        let di := legOf x i
        let dj := legOf x m.2
        let tol := Config.planTol * (di.natAbs + dj.natAbs)
        let same (a b : Int) : Bool := decide ((a * dj - b * di).natAbs ≤ tol)
        !(h.tStart == g.tStart && h.move == g.move && h.gen == g.gen) ||
          (same (g.p0 - x.2.1.getD i 0) (h.p0 - x.2.1.getD m.2 0) && same g.v0 h.v0 && same g.a0 h.a0 && same g.j0 h.j0)))

/-- An entry in the overlap at a blended waymark: at most half of either move's length before and after it, and no farther from it than
blend_tolerance where it passes (R346). -/
def State.inOverlap (s : State) (ep i : Nat) (x : Move × List Q32 × List Q32) (next : Option (Move × List Q32 × List Q32)) (g : Seg) :
    Bool :=
  let w := x.2.2.getD i 0
  let e := (segAt g g.tEnd).p
  let half (d : Int) (y : Int) : Bool := decide (2 * y.natAbs ≤ d.natAbs + Config.planTol)
  let away : Rat := if (g.p0 - w) * (e - w) ≤ 0 then 0 else min (rabs (ofQ32 (g.p0 - w))) (rabs (ofQ32 (e - w)))
  x.1.rec_.blend == 1 && half (legOf x i) (g.p0 - w) &&
    (match next with
      | some n => half (legOf n i) (e - w)
      | none => near e w) &&
    (!g.last || upTo (away * s.unitOf ep) (f32Val x.1.rec_.blendTol.toNat))

/-- Entries that the planner may write for a group's member: continuous, within the member's limits and its share of the path's, on the
straight line between two waymark vectors or in an overlap, and at an exact waymark at rest there (R327, R345, R346). -/
def State.memberOk (s : State) (g ep : Nat) (segs : List Seg) : Bool :=
  let ls := legs (s.groupStart g) (s.getTrail (epGroup g)).moves
  let i := ((s.groupMembers g).findIdx? (fun m => s.localEp m == some ep)).getD 0
  let one (h : Seg) : Bool :=
    match ls.dropWhile (fun x => x.1.num != h.move) with
    | [] => segRests h
    | x :: rest =>
      let e := segAt h h.tEnd
      h.hold || (pieceOk (s.memberLimits g ep i x) h && (s.onLine g i x h || s.inOverlap ep i x rest.head? h) &&
        (!h.last || x.1.rec_.blend == 1 || (near e.p (x.2.2.getD i 0) && near e.v 0)))
  match segs with
  | [] => false
  | h :: _ =>
    let x0 := s.joinAt ep h
    near x0.p h.p0 && near x0.v h.v0 && segs.all one && (segs.zip segs.tail).all (fun ab => continues (segAt ab.1 ab.1.tEnd) 0 ab.2)

/-! ### What a follower's entries keep (R390, R392, R398) -/

/-- A mapping part is the one in use, its anchors as moved; of a cam, that of the piece in use or of the 4 following in the master's
direction (R392, R398). -/
def State.mapOk (s : State) (ep : Nat) (p : FolPart) : Bool :=
  let f := s.getFollower ep
  match f.map with
  | none => false
  | some g =>
    if g.map ≠ 2 then p == g
    else
      let tb := s.getCam f.cam
      let fwd := (f.inUse s.time.ft16).all (fun q => decide (0 ≤ (pubAt q s.time.ft16).v))
      (camEntries tb (camIndex tb g.ma) fwd 0 0 {}).any (fun e => e.fol.any (fun q => { q with stage := p.stage } == p && p.stage == g.stage))

/-- The motions of the phase offset from which an entry may go on: as planned where the write begins, else of the entries before it. -/
def State.phaseFrom (s : State) (ep : Nat) (segs : List Seg) (g : Seg) : List Motion :=
  if segs.head?.any (fun h => h.tStart == g.tStart) then [s.phaseAt ep g.tStart g.gen]
  else (segs.filter (fun h => !h.hold && h.tEnd == g.tStart)).map (fun h => segAt h g.tStart)

/-- An entry holds a part of the phase offset that is queued already. -/
def State.phaseQueued (s : State) (ep : Nat) (g : Seg) : Bool :=
  (s.getTrail ep).queue.any (fun h => { h with fol := none, gen := g.gen } == { g with fol := none })

/-- The entries of a follower: its mapping, and a phase offset that never steps; in a PHASE_MOVE from its change instant on within the
limits of R322, to rest at its end; otherwise at rest (R390). -/
def State.followerOk (s : State) (ep : Nat) (segs : List Seg) : Bool :=
  segs.all (fun g => g.fol.any (s.mapOk ep)) &&
  match (s.getFollower ep).phaseMove with
  | none => segs.all (fun g => s.phaseQueued ep g || (segRests g && (s.phaseFrom ep segs g).any (fun x => continues x 1 g)))
  | some (target, v, a, j, b) =>
    let l : PathLimits := { v := f32Val v.toNat, a := f32Val a.toNat, d := f32Val a.toNat, j := f32Val j.toNat }
    let stops (g : Seg) : Bool :=
      if g.hold then segRests g && near g.p0 target
      else
        let x := segAt g g.tEnd
        let way := ofQ32 (target - x.p)
        let v := ofQ32 x.v
        decide (0 ≤ v * way) && upTo (restDistance (rabs v) (restPhases (rabs v) (rsgn v * ofQ32 x.a) l.d l.j)) (rabs way)
    segs.all (fun g => s.phaseQueued ep g || (decide (b ≤ s.xtOfFt16 g.tStart) && (g.hold || (pieceOk l g && jerkOk l g)) &&
      (s.phaseFrom ep segs g).any (fun x => continues x l.j g))) && segs.getLast?.all stops

/-! ### Writing entries -/

/-- PLANNER_SEGMENT_WRITE (R322 to R328, R335, R345, R346): entries for a trail that moves or homes, a group member, or a follower. -/
def execPlannerSegmentWrite (ep : TrailEp) (segs : List Seg) (s : State) : Out :=
  .next (
    let e := trailEp ep
    let t := s.getTrail e
    let f := s.getFollower e
    let follower := f.state == .syncing || f.state == .coupled
    let inGroup := (s.groupOf e).filter (fun g => (s.getTrail (epGroup g)).state == .running)
    let grp := inGroup.isSome
    let x := (segs.head?.map (fun g => s.xtOfFt16 g.tStart)).getD 0
    let planned := match inGroup with
      | some g => (s.planView (epGroup g) x).memberOk g e segs
      | none =>
        if t.state == .running then (s.planView e x).profileOk e segs else t.state != .homing || s.homeOk e segs
    let moving := t.state == .running || t.state == .homing || t.change.isSome || grp
    let movesKnown := grp || segs.all (fun g => g.move == 0 || t.moves.any (fun m => m.num == g.move))
    if !s.segsFit t segs then s
    else if follower then
      if s.followerOk e segs then
        let done (g : Seg) : Bool := g.hold && f.phaseMove.any (fun p => near g.p0 p.1)
        (s.writeSegs e segs).modFollower e (fun f => { f with phaseMove := if segs.any done then none else f.phaseMove })
      else if t.change.isSome && segs.all (·.fol.isNone) then s.writeSegs e segs
      else s
    else if !(moving && movesKnown && planned && segs.all (·.fol.isNone)) then s
    else match segs.head?.bind (s.lateSoft e) with
      | some s' => s'
      | none =>
        let ends (m : Move) : Move := match segs.find? (fun g => g.move == m.num) with
          | some g => if m.endPos.isNone && m.rec_.type == 1 then { m with endPos := some (g.p0 + m.rec_.target) } else m
          | none => m
        (s.writeSegs e segs).modTrail e (fun t => { t with moves := t.moves.map ends, spanned := false }))

/-- GROUP_SEGMENT_SEND (R344). -/
def execGroupSegmentSend (group : Fin 32) (member : Fin 8) (segs : List Seg) (s : State) : Out :=
  .next (
    match (s.groupMembers group.val)[member.val]? with
    | none => s
    | some fa =>
      let lead := (unitsOfNs (s.parF (epGroup group.val) P.groupLead * 1000000)).toNat
      let early := segs.head?.any (fun g => decide ((lead : Int) ≤ ft16Diff g.tStart s.time.ft16))
      if (s.localEp fa).isSome || !((s.getTrail (epGroup group.val)).state == .running || (s.getTrail (epGroup group.val)).state == .stopping) || !early then s
      else { s with fabric := { s.fabric with sent := (fa / 8192, FabMsg.segments fa segs) :: s.fabric.sent } })

/-- GROUP_SEGMENT_RX (R344). -/
def execGroupSegmentRx (ep : TrailEp) (segs : List Seg) (s : State) : Out :=
  .next (
    let e := trailEp ep
    if s.axisStateOf e != .enabled || !s.segsFit (s.getTrail e) segs then s
    else (s.writeSegs e segs).modTrail e (fun t => { t with spanned := true }))

/-- A hold entry at a position and velocity treated as a VEL move in progress with number 0 (R336, R405). -/
def State.holdAsVel (s : State) (ep : Nat) (p v : Q32) (x : Nat) : State :=
  s.modTrail ep (fun t => { t with
    state := .running
    queue := [{ tStart := ft16Of x, hold := true, gen := t.nextGen, p0 := p, v0 := v }]
    moves := [{ num := 0, planned := true, rec_ := { type := 2, target := v } }] })

/-! ### Waymarks (R326, R330) -/

/-- The queues in which the segments of a trail's moves lie: its own, or those of a group's members here. -/
def State.queuesOf (s : State) (ep : Nat) : List Seg :=
  let own (e : Nat) : List Seg := (s.getTrail e).queue ++ (s.getTrail e).lastSeg.toList
  if isGroupEp ep then
    own ep ++ ((s.groupMembers (ep - 0x1F40)).map (fun m => match s.localEp m with
      | some e => own e
      | none => [])).flatten
  else own ep

/-- The instant at which the move in progress has ended: the end of its last segment (at a blended waymark of a group the last one of
the overlap, R346), for a VEL move the start of the next
move's first one (R326, R330). -/
def State.waymarkAt (s : State) (ep : Nat) : Option (Move × Ft16) :=
  match (s.getTrail ep).moves with
  | [] => none
  | m :: rest =>
    let q := s.queuesOf ep
    let now := s.time.ft16
    let last := (q.find? (fun g => g.last && g.move == m.num && !g.hold && decide (ft16Diff g.tEnd now ≤ 0))).map (·.tEnd)
    let next := match rest with
      | n :: _ => if m.rec_.type = 2 then
          (q.find? (fun g => g.move == n.num && decide (ft16Diff g.tStart now ≤ 0))).map (·.tStart) else none
      | [] => none
    match last, next with
    | some x, _ => some (m, x)
    | none, some x => some (m, x)
    | none, none => none

/-- WAYMARK_PASSED (R330, R370). -/
def execWaymarkPassed (ep : TrailEp) (s : State) : Out :=
  .next (
    let e := trailEp ep
    match s.waymarkAt e with
    | none => s
    | some (m, x) =>
      let moving := decide ((s.plannedAt e (s.xtOfFt16 x)).v ≠ 0) && !isGroupEp e
      let vec := if isGroupEp e then endVec (s.groupStart (e - 0x1F40)) m.rec_ else []
      let s := s.modTrail e (fun t => { t with
        moves := t.moves.drop 1, lastWaymark := m.num, lastVec := vec
        state := if isGroupEp e && decide (t.moves.length ≤ 1) && t.state == .running then .idle else t.state })
      let s := s.bump e C.trjMovesDone
      let s := s.bumpIf (m.rec_.blend == 1 && (moving || isGroupEp e)) e C.trjBlends
      if bitOf m.rec_.flags.toNat 0 then s.logAt ((x >>> 8).truncate 40) e 0x0501 m.num.toNat else s)

/-! ### Limits and cancels in force (R337 to R350) -/

/-- Speed at a waymark of a trail as planned: that of the entry in the queue that ends there, else the highest that R324 and both moves
allow and the axis reaches (R328); under limited jerk as Config says (log entry 93). `way` is the distance from the motion `v0`. -/
def State.waySpeed (s : State) (ep : Nat) (v0 way : Rat) (w dir : Q32) (m : Move) (rest : List Move) : Rat :=
  match (s.liveQueue (s.getTrail ep)).find? (fun g => g.last && !g.hold && g.move == m.num) with
  | some g => rabs (ofQ32 (segAt g g.tEnd).v)
  | none =>
    let l := s.limitsOf ep m.rec_
    let b := (s.wayBound ep w dir m.rec_ rest).getD (l.v * l.v)
    let r := v0 * v0 + 2 * l.a * way
    if l.j = 0 then Config.sqrt (min b r) else Config.waySpeed b r

/-- Distance in which a speed falls to `v1` under a deceleration and jerk, from acceleration `a` (R322). -/
def slowDistance (v v1 a d j : Rat) : Rat :=
  let ph := restPhases (v - v1) a d j
  restDistance (v - v1) ph + v1 * (ph.map (·.1)).foldl (· + ·) 0

/-- From speed `v` and acceleration `a` at distance `way` of a waymark the limits meet the speed `v1` there (R339). -/
def meetsSpeed (l : PathLimits) (v a v1 way : Rat) : Bool :=
  if v1 ≤ v then decide (slowDistance v v1 a l.d l.j ≤ way)
  else decide (slowDistance v1 v 0 l.a l.j ≤ way)

/-- The moves from a waymark on meet, under the new limits, the waymark speeds planned under the old ones, and an ABS_AT its arrival: from
position `p`, speed `v` and acceleration `a` at XT.16 `x` (R323, R339). `new`: the limits of a move after the change. -/
def State.meetsFrom (s : State) (ep x : Nat) (new : Move → PathLimits) (p : Q32) (v a : Rat) : List Move → Bool
  | [] => true
  | m :: rest =>
    match m.endPos with
    | none => true
    | some w =>
      let way := rabs (ofQ32 (w - p))
      let v1 := if rest.isEmpty then 0 else s.waySpeed ep v way w (w - p).sign m rest
      if m.rec_.type = 4 then reachesBy (new m) v a way (secOf ((s.moveTime m.rec_ : Int) - x))
      else meetsSpeed (new m) v a v1 way && s.meetsFrom ep x new w v1 0 rest

/-- A lowered limit is taken: a profile from the state at B under the new limits meets every waymark speed already planned and comes to
rest by the rest point (R339); of a path group, by its next exact waymark, along the path. -/
def State.limitsMeet (s : State) (ep b scope mask : Nat) (aMax dMax jerk : F32) : Bool :=
  let t := s.getTrail ep
  let new (m : Move) : PathLimits := s.limitsOf ep
    (if scope = 1 ∨ t.moves.head?.any (fun h => h.num == m.num) then newLimits mask aMax dMax jerk m else m).rec_
  if isGroupEp ep then
    let g := ep - 0x1F40
    let w := s.pathAt g b
    let ls := legs (s.groupStart g) t.moves
    match ls with
    | [] => true
    | x :: rest =>
      let more := (ls.zip rest).takeWhile (fun y => y.1.1.rec_.blend == 1)
      let way := (more.map (fun y => s.wayLength g y.2.2.1 y.2.2.2)).foldl (· + ·) (s.wayLength g (s.vecAt g b) x.2.2)
      let l := new x.1
      decide (slowDistance w.1 0 w.2 l.d l.j ≤ way)
  else
    let x := s.plannedAt ep b
    let sg : Rat := if x.v < 0 then -1 else 1
    s.meetsFrom ep b new x.p (rabs (ofQ32 x.v)) (sg * ofQ32 x.a) (s.lookMoves ep)

/-- TRAIL_LIMITS (R337 to R339). A field that the mask does
not select is not tested: whether a NaN or an infinity there is E_RANGE under R6 the spec does not say (DESIGN CHOICE, log entry 93). -/
def execTrailLimits (ref : CmdRef) (ep : BitVec 16) (scope mask : Byte) (aMax dMax jerk : F32) (_meets : Held) (s : State) : Out :=
  .next (s.execCmd ref 0x0502 (fun k s =>
    let e := ep.toNat
    let t := s.getTrail e
    let m := mask.toNat
    let jl := s.parF e P.trjJLimit
    let jb := f32Bad jerk.toNat || decide (f32Val jerk.toNat < 0) || decide (jl ≠ 0 ∧ jl < f32Val jerk.toNat)
    let ms := if scope = 0 then t.moves.take 1 else t.moves
    let eff (x : F32) : Rat := if f32Val x.toNat = 0 then (if jl = 0 then 0 else jl) else f32Val x.toNat
    let lowerJ (o : F32) : Bool := decide (eff jerk ≠ 0 ∧ (eff o = 0 ∨ eff jerk < eff o))
    let lowers := ms.any (fun x =>
      (bitOf m 0 && decide (f32Val aMax.toNat < f32Val x.rec_.aMax.toNat)) ||
      (bitOf m 1 && decide (f32Val dMax.toNat < f32Val x.rec_.dMax.toNat)) || (bitOf m 2 && lowerJ x.rec_.jerk))
    let b := s.changeInstant (s.gridEp e)
    let conflict := lowers && !s.limitsMeet e b scope.toNat m aMax dMax jerk
    let bad (x : F32) : Bool := limitBad x (if isGroupEp e then f32Val x.toNat else s.parF e P.trjALimit)
    let s := s.bumpIf (conflict && hasTrail e && s.trailOpen e && decide (scope.toNat ≤ 1) && decide (m ≤ 7) &&
      (t.state == .running || t.state == .idle)) e C.trjLimitsRejected
    s.checked k [
      (!hasTrail e, noTrail e),
      (decide (1 < scope.toNat) || decide (7 < m) || (bitOf m 0 && bad aMax) ||
        (bitOf m 1 && bad dMax) || (bitOf m 2 && jb), E.range),
      (!s.trailOpen e || !(t.state == .running || t.state == .idle), E.state),
      (conflict, E.conflict)]
      (fun s =>
        (s.modTrail e (fun t => { t with change := some (b, .limits scope.toNat m aMax dMax jerk) })).ok k (leFt8 (ft8Of b)))))

/-- The position at which a trail without moves rests or comes to rest (R349, R350). -/
def State.restingPoint (s : State) (ep : Nat) : Q32 :=
  match (s.getTrail ep).queue.getLast? with
  | some g => if g.hold then g.p0 else s.holdPoint ep
  | none => s.holdPoint ep

/-- The waymark at which mode 0 of TRAIL_CANCEL stops: the first, a VEL move's with a move after it among them, whose distance from the state at B carries the ramp to
rest; 0 when none does (R348). -/
def State.cancelWaymark (s : State) (ep b : Nat) : BitVec 32 :=
  let t := s.getTrail ep
  let at_ := s.plannedAt ep b
  let v := ofQ32 at_.v
  let sg := if v = 0 then (if at_.a < 0 then -1 else 1) else rsgn v
  let done := (s.queuesOf ep).filter (fun g => g.last && !g.hold && decide (s.xtOfFt16 g.tEnd ≤ b))
  let ms := t.moves.filter (fun m => !done.any (fun g => g.move == m.num))
  let final := ms.getLast?.map (·.num)
  let go := ms.foldl (fun (acc : Option (BitVec 32) × Q32 × Rat) m =>
    match acc.1, m.endPos with
    | some w, _ => (some w, acc.2)
    | none, none => if m.rec_.type = 2 ∧ final ≠ some m.num then (some m.num, acc.2) else acc
    | none, some e =>
      let lim := s.moveLimits ep m.rec_
      let need := restDistance (rabs v) (restPhases (rabs v) (sg * ofQ32 at_.a) lim.1 lim.2)
      let dist := acc.2.2 + sg * ofQ32 (e - acc.2.1)
      (if need ≤ dist then some m.num else none, e, dist)) (none, at_.p, 0)
  go.1.getD 0

/-- The same for a path group: the first waymark whose distance along the path carries the ramp to rest (R348). -/
def State.groupCancelWaymark (s : State) (g b : Nat) : BitVec 32 :=
  let w := s.pathAt g b
  let go := (legs (s.groupStart g) (s.getTrail (epGroup g)).moves).foldl (fun (acc : Option (BitVec 32) × List Q32 × Rat) x =>
    match acc.1 with
    | some n => (some n, acc.2)
    | none =>
      let l := s.limitsOf (epGroup g) x.1.rec_
      let way := acc.2.2 + s.wayLength g acc.2.1 x.2.2
      (if restDistance w.1 (restPhases w.1 w.2 l.d l.j) ≤ way then some x.1.num else none, x.2.2, way)) (none, s.vecAt g b, 0)
  go.1.getD 0

/-- TRAIL_CANCEL (R348 to R350). Of the position of rest that mode 1 returns the spec gives a group no value: a free one (log entry
93). -/
def execTrailCancel (ref : CmdRef) (ep : BitVec 16) (mode : Byte) (s : State) : Out :=
  .next (s.execCmd ref 0x0501 (fun k s =>
    let e := ep.toNat
    let t := s.getTrail e
    s.checked k [
      (!hasTrail e, noTrail e), (decide (1 < mode.toNat), E.range),
      (!s.trailOpen e || t.state == .stopping || t.state == .closed || (t.state == .homing && mode == 0), E.state)]
      (fun s =>
        if t.state = .idle ∨ (t.state = .running ∧ t.moves.isEmpty = true) then
          (if isGroupEp e then s.took else s).ok k
            (if mode = 0 then leBytes 4 0 else le8 (if isGroupEp e then Int.ofNat s.fresh else s.restingPoint e))
        else
          let b := s.changeInstant (s.gridEp e)
          let wm := if mode ≠ 0 then 0 else if isGroupEp e then s.groupCancelWaymark (e - 0x1F40) b else s.cancelWaymark e b
          let lim := s.nowLimits e
          let rest := if isGroupEp e then Int.ofNat s.fresh else restPoint (s.plannedAt e b) lim.1 lim.2
          let s := (if isGroupEp e then s.took else s).modTrail e (fun t => { t with change := some (b, .cancel mode.toNat wm) })
          s.ok k (if mode = 0 then leBytes 4 wm.toNat else le8 rest))))

/-- TRAIL_CANCEL takes effect at B: the moves after the waymark, or every one, go (R348, R349, R352, R368). -/
def State.cancelAt (s : State) (ep b : Nat) (wm : BitVec 32) : State :=
  let t := s.getTrail ep
  let kept := keptMoves wm t.moves
  let gone := t.moves.length - kept.length
  let lim := if t.state = .homing then (s.parF ep P.homeAccel / s.unitOf ep, s.parF ep P.trjJLimit / s.unitOf ep) else s.nowLimits ep
  let homing := t.state == .homing
  let due : TrjReport := { cause := 5, category := 255, lastWaymark := t.lastWaymark, move := s.moveNow ep, discarded := gone
                           ftStop := ft8Of b }
  let s := s.setTrail ep { t with moves := kept, reportDue := if 0 < gone || homing then some due else t.reportDue }
  let s := s.bumpIf (decide (0 < gone)) ep C.trjCancel
  let s := s.abortAppends ep
  let s := if homing then s.endHoming ep .aborted E.aborted [] else s
  if !(kept.isEmpty && (homing || decide (0 < gone))) then s
  else if isGroupEp ep then (s.pathRest (ep - 0x1F40) b none lim due).modTrail ep (fun t => { t with lastVec := [] })
  else s.rampFrom ep b lim

/-- CONVOY_LEAVE takes effect at B (R405). -/
def State.leaveAt (s : State) (ep b mode : Nat) : State :=
  let waits := (s.getFollower ep).state == .waiting
  let r := s.setpointAt ep (ft16Of b)
  let m := r.2.1
  let s := r.1.leaveConvoy ep E.aborted [0]
  if 0x200 ≤ ep then s.remoteRest (ep - 0x200) false
  else if mode = 0 then if waits || (s.getTrail ep).state == .running then s else s.holdAsVel ep m.p m.v b
  else
    let u := s.unitOf ep
    let t := s.getTrail ep
    let segs := rampToRest m b (s.parF ep P.trjALimit / u) (s.parF ep P.trjJLimit / u) t.nextGen
    s.setTrail ep { t with state := .running, moves := [], queue := segs }

/-- TRAIL_CHANGE_INSTANT (R337, R348, R349, R405). -/
def execTrailChangeInstant (ep : TrailEp) (s : State) : Out :=
  .next (
    let e := trailEp ep
    match (s.getTrail e).change with
    | none => s
    | some (b, c) =>
      if s.xt16 < b then s
      else
        let s := s.dropChange e
        match c with
        | .limits scope mask a d j => s.modTrail e (fun t => { t with
            moves := if scope = 0 then (t.moves.take 1).map (newLimits mask a d j) ++ t.moves.drop 1
              else t.moves.map (newLimits mask a d j) })
        | .cancel _ wm => s.cancelAt e b wm
        | .leave mode => s.leaveAt e b mode)

/-! ### Setting the position (R355) -/

/-- Setpoint and measured position of an axis moved equally (R355, R363). -/
def State.shiftPos (s : State) (ep : Nat) (d : Q32) : State :=
  let mv (g : Seg) : Seg := if g.fol.isSome then g else { g with p0 := satInt 64 (g.p0 + d) }
  let s := s.modTrail ep (fun t => { t with
    posOffset := satInt 64 (t.posOffset + d), queue := t.queue.map mv, lastSeg := t.lastSeg.map mv })
  if ep < 0x20 then (s.modFlags ep (fun f => { f with capPos := f.capPos.map (fun c => (c.1, satInt 64 (c.2.1 + d), c.2.2)) })).modLoop ep
    (fun l => { l with ps := satInt 64 (l.ps + d), holdAt := l.holdAt.map (fun p => satInt 64 (p + d)) })
  else if ep < 0x40 then s.modStepper (ep - 0x20) (fun c => { c with
    pk := (satInt 64 (c.pk.1 + d), c.pk.2), pk1 := (satInt 64 (c.pk1.1 + d), c.pk1.2) })
  else s.modVirt (ep - 0x100) (fun v => { v with sp := (satInt 64 (v.sp.1 + d), v.sp.2) })

/-- The axis is at standstill (R245, R427); a virtual axis when its setpoint rests. -/
def State.atStandstill (s : State) (ep : Nat) : Bool :=
  if ep < 0x20 then (s.getFlags ep).standstill else decide (s.velOf ep = 0)

/-- Position set: homed, position_uncertain clear (R355). -/
def State.setPos (s : State) (ep : Nat) (p : Q32) : State :=
  let s := s.shiftPos ep (p - s.posOf ep)
  (s.clearUncertain ep).modTrail ep (fun t => { t with homed := true })

/-- POS_SET (R355). -/
def execPosSet (ref : CmdRef) (ep : BitVec 16) (pos : Q32) (s : State) : Out :=
  .next (s.execCmd ref 0x0521 (fun k s =>
    let e := ep.toNat
    let rest := (s.getTrail e).state == .idle && s.atStandstill e
    s.checked k [
      (!hasTrail e || isGroupEp e, noTrail e), (!(rest || s.axisStateOf e == .disabled), E.state)]
      (fun s => (s.setPos e pos).ok k)))

/-! ### Homing (R360 to R368) -/

/-- home_dir is +1. -/
def State.homeUp (s : State) (ep : Nat) : Bool := decide (0 < s.parZ ep P.homeDir)

/-- The home input of a mode: home_input, or the limit input in home_dir (R361). -/
def State.homeInputOf (s : State) (ep : Nat) : Nat :=
  let m := s.par ep P.homeMode
  if m = 3 ∨ m = 4 then (if s.homeUp ep then s.par ep P.limitPosInput else s.par ep P.limitNegInput) else s.par ep P.homeInput

/-- The home input of the mode is active. -/
def State.homeActive (s : State) (ep : Nat) : Bool :=
  let t := s.getTrail ep
  let m := s.par ep P.homeMode
  if m = 3 ∨ m = 4 then (if s.homeUp ep then t.limPos else t.limNeg) else t.homeIn

/-- A need of the mode is not configured (R360, R437). -/
def State.homeNeeds (s : State) (ep : Nat) : Bool :=
  let m := s.par ep P.homeMode
  let noInput := decide (1 ≤ m) && decide (m ≤ 4) && s.homeInputOf ep == 0xFFFF
  let idx := m == 2 || m == 4 || m == 5
  let noIndex := idx && !(decide (ep < 0x20) && s.par ep P.fbSource == 1 && s.par ep P.indexMode != 0)
  let stp := decide (0x20 ≤ ep) && decide (ep < 0x40) && decide (s.parF ep P.stpVStart < s.parF ep P.homeSlow / s.unitOf ep)
  noInput || noIndex || stp

/-- HOME (R360, R361). -/
def execHome (ref : CmdRef) (ep : BitVec 16) (s : State) : Out :=
  .next (s.execCmd ref 0x0520 (fun k s =>
    let e := ep.toNat
    let t := s.getTrail e
    let mode := s.par e P.homeMode
    s.checked k [
      (!hasTrail e || isGroupEp e, noTrail e),
      (!s.trailIsSource e || s.axisStateOf e != .enabled || t.state != .idle || (mode == 0 && !s.atStandstill e), E.state),
      (s.homeNeeds e, E.conflict)]
      (fun s =>
        if mode = 0 then
          let p := s.parQ e P.homePosition
          let was := s.posOf e
          let s := (s.setPos e p).modTrail e (fun t => { t with homeResult := .homed })
          let s := s.log e 0x0508 (dat 8 (q64 was))
          s.ok k (leBytes 8 1 ++ le8 was ++ leFt8 s.ft8)
        else
          let ph : HomePhase := if mode = 5 then .index else if s.homeActive e then .backoff else .fast
          (s.run k).setTrail e { t with
            state := .homing, phase := ph, phaseFrom := s.posOf e, homeResult := .none_, homeCmd := some k, homeEvent := none
            homePend := false, backFrom := none, edgesPos := [], edgesNeg := [] })))

/-- A phase of homing begins. -/
def State.homePhase (s : State) (ep : Nat) (p : HomePhase) : State :=
  let pos := s.posOf ep
  s.modTrail ep (fun t => { t with phase := p, phaseFrom := pos, backFrom := none })

/-- Code of home_phase. -/
def phaseCode : HomePhase → Nat
  | .none_ => 0 | .fast => 1 | .fastReversed => 2 | .backoff => 3 | .approach => 4 | .index => 5 | .moveTo => 6

/-- home_accel and the trail's jerk limit in turns (R361). -/
def State.homeLimits (s : State) (ep : Nat) : Rat × Rat :=
  (s.parF ep P.homeAccel / s.unitOf ep, s.parF ep P.trjJLimit / s.unitOf ep)

/-- A pulse stop of a stepper that stays in its trail's state (R438, R439). -/
def State.stepperHalts (s : State) (ep : Nat) : State :=
  if 0x20 ≤ ep ∧ ep < 0x40 then (s.stpHalt (ep - 0x20)).modTrail ep (fun t => { t with queue := [], lastSeg := none }) else s

/-- Homing ends with HOME_NOT_FOUND: the axis ramps to rest, where HOME completes (R365). -/
def State.homeNotFound (s : State) (ep : Nat) : State :=
  let t := s.getTrail ep
  let s := s.log ep 0x0507 (phaseCode t.phase + dat 8 (q64 (s.posOf ep)))
  let s := s.bump ep C.trjHomeFail
  let s := s.setTrail ep { t with reportDue := some { cause := 6, category := 255, lastWaymark := t.lastWaymark, ftStop := s.ft8 } }
  (s.rampFrom ep s.xt16 (s.homeLimits ep)).modTrail ep (fun t => { t with phase := .none_, homeResult := .notFound })

/-- A stop of an axis in a category for a cause of its trail. -/
def State.stopAxis (s : State) (ep cat cause : Nat) : State :=
  if ep < 0x20 then s.requestStop ep { cat := cat, cause := cause }
  else if ep < 0x40 then s.stpStop (ep - 0x20) cause cat E.aborted []
  else s.virtStop (ep - 0x100) cat cause

/-- Homing ends with LIMIT_CHATTER (R366). -/
def State.homeChatter (s : State) (ep input : Nat) : State :=
  let s := (s.log ep 0x0506 input).bump ep C.trjHomeFail
  let s := s.stopAxis ep 2 6
  s.endHoming ep .chatter E.faultAxis [4, 3]

/-- The home event at an input edge: its position is interpolated at the next feedback sample, a stepper's is that of the count issued
before the stamp's tick (R362, R439, R440). -/
def State.homeEdge (s : State) (ep : Nat) (stamp : Ft8) : State :=
  let x := s.xtOfFt8 stamp
  let p : Q32 := if ep < 0x20 then s.posOf ep
    else if ep < 0x40 then
      s.stpPos (ep - 0x20) ((s.getStepper (ep - 0x20)).countAt (x - tickUnits))
    else
      let v := s.getVirt (ep - 0x100)
      (coast v.sp (secOf ((x : Int) - v.sampleXt))).p
  let s := s.modTrail ep (fun t => { t with homeEvent := some (p, stamp, 0), homePend := decide (ep < 0x20) })
  let m := s.par ep P.homeMode
  let s := if m = 3 then s.stepperHalts ep else s
  s.rampFrom ep s.xt16 (s.homeLimits ep)

/-- The home input of the axis's mode changes (R361). -/
def State.homeInputEdge (s : State) (ep : Nat) (active : Bool) (stamp : Ft8) : State :=
  let t := s.getTrail ep
  let m := s.par ep P.homeMode
  match t.phase with
  | .fast | .fastReversed => if active then (if m = 3 ∨ m = 4 then s.stepperHalts ep else s).homePhase ep .backoff else s
  | .backoff => s.modTrail ep (fun t => { t with backFrom := if active then none else some (s.posOf ep) })
  | .approach =>
    if !active || t.homeEvent.isSome then s
    else if m = 2 ∨ m = 4 then s.homePhase ep .index
    else s.homeEdge ep stamp
  | _ => s

/-- A limit input becomes active in homing (R364, R365, R367, R438). -/
def State.homeLimitEdge (s : State) (ep : Nat) (up : Bool) (stamp : Ft8) : State :=
  let t := s.getTrail ep
  let m := s.par ep P.homeMode
  let isHome := (m == 3 || m == 4) && up == s.homeUp ep
  let eventFirst := t.homePend && t.homeEvent.any (fun h => decide (ft8Diff h.2.1 stamp ≤ 0))
  if eventFirst then s
  else if isHome && (t.phase == .fast || t.phase == .approach) then s
  else if (m == 1 || m == 2) && t.phase == .fast then
    if up == s.homeUp ep then
      let s := if 0x20 ≤ ep ∧ ep < 0x40 then s.stepperHalts ep else s.rampFrom ep s.xt16 (s.homeLimits ep)
      s.homePhase ep .fastReversed
    else s.homeNotFound ep
  else if t.phase = .none_ then s
  else s.homeNotFound ep

/-- Four edges of a limit input within 20 ms (R366). -/
def chatters (l : List Nat) : Bool :=
  decide (l.length = 4) && (match l.head?, l.getLast? with
    | some a, some b => decide (a < b + 20000000 * 65536)
    | _, _ => false)

/-- A limit input of an axis changes after debounce (R357, R358, R364 to R366). -/
def State.limitEdge (s : State) (ep input : Nat) (up active : Bool) (stamp : Ft8) : State :=
  let s := s.modTrail ep (fun t => if up then { t with limPos := active } else { t with limNeg := active })
  let t := s.getTrail ep
  if t.phase ≠ .none_ then
    let edges := (s.xtOfFt8 stamp :: (if up then t.edgesPos else t.edgesNeg)).take 4
    let s := s.modTrail ep (fun t => if up then { t with edgesPos := edges } else { t with edgesNeg := edges })
    if chatters edges then s.homeChatter ep input
    else if active then s.homeLimitEdge ep up stamp else s
  else
    let v := s.velOf ep
    let toward := if up then decide (0 < v) else decide (v < 0)
    let runs := s.axisStateOf ep == .enabled || s.axisStateOf ep == .stopping
    if active && toward && runs then
      let s := (s.log ep 0x0504 (input + dat 8 (q64 (s.posOf ep)))).bump ep C.trjLimitHit
      s.stopAxis ep (s.par ep P.limitStopCategory) 3
    else s

/-- A named field input or fast latch is at its active level; 0xFFFF names none (R356). -/
def State.inputOn (s : State) (input level : Nat) : Bool :=
  if 0x400 ≤ input ∧ input < 0x440 then (mget s.fio.ins (input - 0x400) {}).state == (level == 1)
  else if 0x460 ≤ input ∧ input < 0x470 then (mget s.fio.latches (input - 0x460) {}).state == (level == 1)
  else false

/-- The limit and home inputs of an axis as the debounced states stand: after a commit of the parameters that name them
(R356, R358). -/
def State.readInputs (s : State) (ep : Nat) : State :=
  s.modTrail ep (fun t => { t with
    limPos := s.inputOn (s.par ep P.limitPosInput) (s.par ep P.limitLevel)
    limNeg := s.inputOn (s.par ep P.limitNegInput) (s.par ep P.limitLevel)
    homeIn := s.inputOn (s.par ep P.homeInput) (s.par ep P.homeLevel) })

/-- Every axis with a trail on this module. -/
def trailAxes : List Nat := List.range 0x40 ++ (List.range 256).map (· + 0x100)

/-- The debounced state of an input endpoint changes: the limit and home inputs named by it follow (R356). -/
def State.inputChanged (s : State) (input : Nat) (level : Bool) (stamp : Ft8) : State :=
  trailAxes.foldl (fun s ep =>
    let act := level == (s.par ep P.limitLevel == 1)
    let s := if s.par ep P.limitPosInput = input then s.limitEdge ep input true act stamp else s
    let s := if s.par ep P.limitNegInput = input then s.limitEdge ep input false act stamp else s
    let mode := s.par ep P.homeMode
    if mode = 3 ∨ mode = 4 then
      if s.homeInputOf ep = input then s.homeInputEdge ep act stamp else s
    else if s.par ep P.homeInput = input then
      let h := level == (s.par ep P.homeLevel == 1)
      (s.modTrail ep (fun t => { t with homeIn := h })).homeInputEdge ep h stamp
    else s) s

/-- The position of a home event on a servo axis from the two samples that bracket its stamp (R362), the sample in progress being the
newest. -/
def State.homeInterp (s : State) (i : Nat) : State :=
  let t := s.getTrail i
  match t.homePend, t.homeEvent with
  | true, some (_, stamp, n) =>
    let x := s.xtOfFt8 stamp
    let f := s.getFb i
    if f.posXt < x then s
    else
      let p := satInt 64 (bracket x ((f.posXt, s.axisPos i, true) :: (s.getFlags i).capPos)).1
      s.setTrail i { t with homeEvent := some (p, stamp, n), homePend := false }
  | _, _ => s

/-- Homing succeeds: HOME completes at rest (R363). -/
def State.homeDone (s : State) (ep : Nat) : State :=
  let t := s.getTrail ep
  let h := t.homeEvent.getD (0, 0, 0)
  (s.endHoming ep .homed E.ok (leBytes 8 1 ++ le8 h.1 ++ leFt8 h.2.1)).modTrail ep (fun t => { t with state := .idle })

/-- The axis is at rest in HOMING (R363, R365, R369). -/
def State.homeRest (s : State) (ep : Nat) (p : Q32) : State :=
  let t := s.getTrail ep
  match t.phase, t.homeEvent with
  | .none_, _ => (s.modTrail ep (fun t => { t with state := .idle, homeCmd := none })).finishOpt t.homeCmd E.faultAxis [4, 2]
  | .moveTo, _ => if p = s.parQ ep P.homePosition then s.homeDone ep else s
  | _, some h =>
    if t.homePend then s
    else
      let m := s.par ep P.homeMode
      let s := s.shiftPos ep (s.parQ ep P.homePosition - h.1)
      let s := (s.clearUncertain ep).modTrail ep (fun t => { t with homed := true })
      let s := if (m = 2 ∨ m = 4 ∨ m = 5) ∧ ep < 0x20 then s.modQuad ep (fun q => { q with indexRef := h.2.2, indexSeen := true }) else s
      let s := s.logAt h.2.1 ep 0x0508 (dat 8 (q64 h.1))
      if s.par ep P.homeMoveTo = 1 then s.homePhase ep .moveTo else s.homeDone ep
  | _, none => s

/-- The distances of homing at a sample: home_max_travel and home_backoff (R361, R365). -/
def State.homeWatch (s : State) (ep : Nat) : State :=
  let t := s.getTrail ep
  if t.phase = .none_ then s
  else
    let pos := s.posOf ep
    let u := s.unitOf ep
    if s.parF ep P.homeMaxTravel / u < rabs (ofQ32 (pos - t.phaseFrom)) then s.homeNotFound ep
    else match t.phase, t.backFrom with
      | .backoff, some b => if s.parF ep P.homeBackoff / u ≤ rabs (ofQ32 (pos - b)) then s.homePhase ep .approach else s
      | _, _ => s

/-- A VEL move that the planner ended at a soft limit is at rest (R359). -/
def State.softRest (s : State) (ep : Nat) (m : Move) : State :=
  let t := s.getTrail ep
  let s := s.setTrail ep { t with
    moves := [], state := .idle, softLimited := true
    reportDue := some { cause := 4, category := 255, lastWaymark := t.lastWaymark, move := m.num, discarded := 1, ftStop := s.ft8 } }
  s.log ep 0x0505 (dat 8 (q64 (s.posOf ep)))

/-- STOP of one axis of another class; category 2 acts as 1 (R353, R555). -/
def State.stopOther (s : State) (ep cat : Nat) : State :=
  let cat := min cat 1
  if ep < 0x40 then
    match (s.getStepper (ep - 0x20)).state with
    | .enabling => s.stpDisable (ep - 0x20) cat
    | .enabled => s.stpStop (ep - 0x20) 1 cat E.aborted []
    | _ => s
  else if ep < 0x200 then s.virtStop (ep - 0x100) cat 1
  else if (s.getRemote (ep - 0x200)).state = .disabled ∨ (s.getRemote (ep - 0x200)).state = .faulted then s
  else (s.modRemote (ep - 0x200) (fun r => { r with stopBit := true })).remoteRest (ep - 0x200) true

/-- STOP of every member of a group on this module. -/
def State.stopMembers (s : State) (g cat : Nat) : State :=
  (s.localMembers g).foldl (fun s e =>
    if e < 0x20 then (if (s.getLoop e).state = .enabled ∨ (s.getLoop e).state = .stopping then s.requestStop e { cat := cat } else s)
    else s.stopOther e cat) s

/-- The motion of the axis's group that was ended comes to rest; a STOP of category 1 then disables the members (R347). -/
def State.groupAtRest (s : State) (ep : Nat) : State :=
  let s := s.groupRest ep
  match s.groupOf ep with
  | none => s
  | some g =>
    let t := s.getTrail (epGroup g)
    if t.thenOff && t.reportDue.isNone then (s.modTrail (epGroup g) (fun t => { t with thenOff := false })).stopMembers g 1 else s

/-- What a sample of an axis does for its trail once its setpoint is taken: homing distances, and the state at rest (R352,
R363, R369). -/
def State.trailRest (s : State) (ep : Nat) : State :=
  let s := (s.homeWatch ep).groupAtRest ep
  let t := s.getTrail ep
  match t.lastSeg with
  | none => s
  | some g =>
    if !(g.hold && g.v0 == 0 && g.a0 == 0 && g.j0 == 0 && g.fol.isNone) then s
    else
      let s := match t.state with
        | .running => match t.moves with
          | [] => s.modTrail ep (fun t => { t with state := .idle })
          | [m] => if m.planned && m.rec_.type == 2 && decide (m.rec_.target ≠ 0) && s.par ep P.softLimitEnable == 1 then s.softRest ep m else s
          | _ => s
        | .homing => s.homeRest ep g.p0
        | _ => s
      if 0x20 ≤ ep then s.writeReport ep (s.posOf ep) true else s

/-! ### STOP (R351, R555) -/

/-- STOP of one servo axis (R247, R351, R555). -/
def State.stopServo (s : State) (k i cat : Nat) : State :=
  let l := s.getLoop i
  match l.state with
  | .disabled | .faulted => s.ok k (leFt8 s.ft8)
  | .enabling =>
    let s := s.modLoop i (fun l => { l with stop := some { cat := cat, atUpdate := true, fromTick := s.tick } })
    s.await k i opStop
  | .enabled => (s.requestStop i { cat := cat }).await k i opStop
  | .stopping =>
    if l.stop.any (fun w => decide (w.cat ≤ cat)) then s.ok k (leFt8 s.ft8)
    else (s.requestStop i { cat := cat }).await k i opStop

/-- STOP of a group (R347): in category 0, or with the group at rest, every member here stops under its own rules; else the members come
to rest along the path, and category 1 then disables them. -/
def State.stopGroup (s : State) (g cat : Nat) : State :=
  if cat = 0 ∨ (s.getTrail (epGroup g)).moves.isEmpty then
    let s := s.endMotion (epGroup g) 1 cat s.ft8
    let s := s.modTrail (epGroup g) (fun t => if t.state = .running then { t with state := .idle } else t)
    s.stopMembers g cat
  else (s.endPath g none 1 cat s.ft8).modTrail (epGroup g) (fun t => { t with thenOff := cat == 1 })

/-- An endpoint that STOP names: a servo, stepper, virtual or remote axis, or a path group. -/
def stoppable (ep : Nat) : Bool := isFollowerEp ep || isGroupEp ep

/-- The FT.8 that STOP of another class returns: the sample or instant at which it took effect. -/
def State.stopFt8 (s : State) (ep : Nat) : Ft8 :=
  if 0x100 ≤ ep ∧ ep ≤ 0x1FF ∧ (s.getVirt (ep - 0x100)).state = .enabled then ft8Of (s.getVirt (ep - 0x100)).sampleXt else s.ft8

/-- VIRTUAL_AXIS_SAMPLE (R374): the setpoint at the next instant of the axis's grid that has been reached. -/
def execVirtualAxisSample (va : Fin 256) (s : State) : Out :=
  .next (
    let i := va.val
    let ep := epVirt i
    let v := s.getVirt i
    let n := s.par ep P.vaPeriodTicks
    let x := gridAtOrBefore n (s.par ep P.vaPhaseTicks) s.xt16
    if !(v.state == .enabled || v.state == .stopping) || decide (x ≤ v.sampleXt) && decide (v.sampleXt ≤ s.xt16) then s
    else
      let t := ft16Of x
      match v.stop with
      | some r =>
        let m := r.at_ (s.stopJerkOf ep) x
        let s := (s.modVirt i (fun v => { v with sp := (m.p, m.v, m.a), sampleXt := x })).fireCrossings ep (ft16Of v.sampleXt) v.sp.1 t m.p
        if m.v = 0 ∧ m.a = 0 then s.virtStopped i else s
      | none =>
        let r := s.setpointAt ep t
        let m := r.2.1
        let since := if r.2.2 then none else some (v.starvedSince.getD s.tick)
        let s := (r.1.modVirt i (fun v => { v with sp := (m.p, m.v, m.a), sampleXt := x, starvedSince := since })).fireCrossings ep
          (ft16Of v.sampleXt) v.sp.1 t m.p
        let s := s.bumpIf (!r.2.2) ep C.trjStarved
        let late := match since with
          | some t0 => s.expired t0 (msTicks 2)
          | none => false
        if late then s.virtStop i 1 2 else s.trailRest ep)

end Sys2Proof.Machine
end

