-- ==== Sys2Proof/Machine/Capture.lean ====
section
/-! DEFINITION. Capture channels, latches and baskets (R444 to R484, R841): firings, triggers, samples, latch records, spill and
the commands of group 0x07. -/

namespace Sys2Proof.Machine

/-! ### Firings and triggers (R448 to R460) -/

/-- The stamp of the last edge of a condition's source, when it is one of the condition's edges: the TDC stamp of a fast latch input, the
stamp of a field input's raw edge, the stamp of an index counting edge (R448). -/
def State.edgeStamp (s : State) (v : Nat) : Option Ft8 :=
  let src := condSource v
  let on (level : Bool) : Bool := condEdge v == 2 || level == (condEdge v == 0)
  match condType v with
  | 1 => if on (mget s.fio.latches (src - 0x460) {}).raw then some (s.getTdc (pathNo (.fastLatch (Fin.ofNat 16 (src - 0x460))))).stamp else none
  | 2 => let f := mget s.fio.ins (src - 0x400) {}
         if on f.state then some f.stamp else none
  | 7 => some (s.getQuad src).indexStamp
  | _ => none

/-- CAPTURE_FIRING (R448, R453): a firing of an input edge or an index. Position crossing, threshold, time, software and
chain conditions fire within the block itself (log entry 45). -/
def execCaptureFiring (cc : Fin 256) (cond : Fin 4) (_stamp : Held) (s : State) : Out :=
  .next (
    match s.edgeStamp (s.capCond cc.val cond.val) with
    | some st => s.fireCap cc.val { cond := cond.val, stamp := st }
    | none => s)

/-- CAPTURE_TIME_CONDITION (R451): the tick that contains the level. -/
def execCaptureTimeCondition (cc : Fin 256) (cond : Fin 4) (s : State) : Out :=
  .next (
    let c := cc.val
    let v := s.capCond c cond.val
    let h := s.getCap c
    if condType v = 5 ∧ h.state ≠ .disarmed ∧ (h.primed.getD cond.val (false, false)).1 = true ∧ 0 ≤ ft8Diff s.ft8 (condTime v) then
      let s := s.setCap c { h with primed := h.primed.set cond.val (false, false) }
      s.fireCap c { cond := cond.val, stamp := condTime v }
    else s)

/-- The tick that contains a stamp, counted from the present one (R453). -/
def State.tickOf (s : State) (t : Ft8) : Int := ft16Diff (ft16Of8 t) s.time.ft16 / (tickUnits : Int)

/-- The earliest of a list of firings. -/
def earliest : List Firing → Option Firing
  | [] => none
  | f :: l => match earliest l with
    | some g => if 0 < ft8Diff f.stamp g.stamp then some g else some f
    | none => some f

/-- t_ref goes once to every follower whose reg_channel names the channel, and to chained channels (R460). -/
def State.deliverFiring (s : State) (c : Nat) (t : Ft8) : State :=
  let ep := epCap c
  let fol := (List.range 64 ++ (List.range 384).map (· + 256)).filter (fun e =>
    s.par e P.regSource == 1 && s.par e P.regChannel == ep)
  let s := fol.foldl (fun s e => s.modFollower e (fun f => { f with marks := f.marks ++ [t] })) s
  (s.caps.filter (fun d => d.1 != c && d.2.state != .disarmed)).foldl (fun s d =>
    [0, 1, 2, 3].foldl (fun s n =>
      let v := s.capCond d.1 n
      if condType v = 8 ∧ condSource v = ep then s.fireCap d.1 { cond := n, stamp := t } else s) s) s

/-- The reductions of a signal before its first sample; for a bitmap the two indices have no meaning (free values). -/
def redStart (s : State) (n code : Nat) : Reduction :=
  if sigBitmap code then
    { minIx := Config.freeNat (s.freeCtr + 2 * n) % 2 ^ 32, maxIx := Config.freeNat (s.freeCtr + 2 * n + 1) % 2 ^ 32 }
  else {}

/-- One value enters a signal's reductions (R471, R472). -/
def redStep (code : Nat) (r : Reduction) (x : Int) : Reduction :=
  let first := r.count == 0
  if sigBitmap code then
    { r with
      min := if first then x else ((r.min.toNat &&& x.toNat : Nat) : Int)
      max := ((r.max.toNat ||| x.toNat : Nat) : Int), count := r.count + 1 }
  else
    { min := if first || decide (x < r.min) then x else r.min
      minIx := if first || decide (x < r.min) then r.count else r.minIx
      max := if first || decide (r.max < x) then x else r.max
      maxIx := if first || decide (r.max < x) then r.count else r.maxIx
      sum := r.sum + x
      sumSq := if sigBytes code = 4 then r.sumSq + (x * x).toNat else 0
      count := r.count + 1 }

/-- A sample enters the open basket of a channel (R468, R471). -/
def State.enterSample (s : State) (c k : Nat) (t : Ft16) (xs : List Int) (post : Bool) : State :=
  let codes := (s.capSignals c).map (fun g => g.1)
  s.modBasket k (fun b => { b with
    tFirst := if b.samples.isEmpty then (t >>> 8).truncate 40 else b.tFirst
    samples := b.samples ++ [xs]
    post := if post then b.post + 1 else b.post
    red := (List.range b.red.length).map (fun n => redStep (codes.getD n 0) (b.red.getD n {}) (xs.getD n 0)) })

/-- Post-trigger samples enter in order; the last of cap_post closes the basket (R468, R470). -/
def State.enterPost (s : State) (c : Nat) (l : List (Ft16 × List Int)) : State :=
  l.foldl (fun s x =>
    match (s.getCap c).state, (s.getCap c).open_ with
    | .post, some k =>
      let s := s.enterSample c k x.1 x.2 true
      if s.par (epCap c) P.capPost ≤ (s.basket k).post then s.closeBasket c 0 x.1 else s
    | _, _ => s) s

/-- Nominal period of a channel's clock, ns with 16 fraction bits (R472). -/
def State.capPeriod (s : State) (c : Nat) : Nat :=
  let ep := epCap c
  match s.par ep P.capClock with
  | 0 => s.par (s.par ep P.capClockAxis) P.curPeriodTicks * tickUnits
  | 1 => s.par ep P.capPeriodTicks * tickUnits
  | _ => 25 * 65536 * s.par ep P.capRawDec

/-- The basket of a trigger opens in the reserved slot, with the pre-trigger samples (R468, R472). -/
def State.openBasket (s : State) (c mask : Nat) (tRef : Ft8) (trigs : List Ft8) (early : Bool)
    (pre : List (Ft16 × List Int)) : State :=
  let h := s.getCap c
  let k := h.reserved.getD 0
  let codes := (s.capSignals c).map (fun g => g.1)
  let b : Basket := {
    gen := mget s.capMem.gens k 0, slot := k, channel := c, early := early, overwrote := h.overwrote, mask := mask, tRef := tRef
    tTrig := trigs, period := s.capPeriod c, preCfg := s.par (epCap c) P.capPre, preValid := pre.length, missed := h.missed
    widths := codes.map sigBytes
    red := (List.range codes.length).map (fun n => redStart s n (codes.getD n 0)) }
  let s := { s with freeCtr := s.freeCtr + 2 * codes.length }
  let s := s.modBasket k (fun _ => b)
  let s := s.setCap c { h with reserved := none, open_ := some k, missed := 0, overwrote := false, state := .post }
  pre.foldl (fun s x => s.enterSample c k x.1 x.2 false) s

/-- The channel takes the trigger of its earliest firing, or ignores it as early (R453, R454, R459, R468, R469). `upper` is the
end of the trigger interval; none: every firing held belongs to it. -/
def State.takeTrigger (s : State) (c : Nat) (upper : Option Ft16) : State :=
  let ep := epCap c
  let h := s.getCap c
  match earliest h.firings with
  | none => s
  | some f0 =>
    let inside (f : Firing) : Bool := match upper with
      | some u => decide (ft16Diff (ft16Of8 f.stamp) u ≤ 0)
      | none => true
    let inn := h.firings.filter inside
    let rest := h.firings.filter (fun f => !inside f)
    let firsts := [0, 1, 2, 3].filterMap (fun n => earliest (inn.filter (fun f => f.cond == n)))
    let dups := firsts.foldl (fun l f => l.erase f) inn
    let basket := s.par ep P.capMode == 1
    let before := h.pre.filter (fun x => decide (ft16Diff x.1 (ft16Of8 f0.stamp) < 0))
    let n := min (s.par ep P.capPre) before.length
    let early := basket && decide (n < s.par ep P.capPre)
    let soft := firsts.any (fun f => condType (s.capCond c f.cond) == 6)
    if early && s.par ep P.capEarly == 1 then
      let s := (s.setCap c { h with firings := rest }).bump ep C.capEarlyIgnored
      if soft then s.capTold c false else s
    else
      let mask := (firsts.map (fun f => 2 ^ f.cond)).sum
      let trigs := [0, 1, 2, 3].map (fun n => ((firsts.find? (fun f => f.cond == n)).map (·.stamp)).getD 0)
      let s := s.setCap c { h with
        firings := rest, lastMask := mask, seq := h.seq + 1, remaining := h.remaining - 1
        latchDue := h.latchDue ++ [(mask, f0.stamp, h.seq + 1, if basket then h.reserved else none)] }
      let s := ((s.bump ep C.capTrig).bumpIf (decide (1 < firsts.length)) ep C.capCoincident).bumpIf early ep C.capEarly
      let s := if soft then s.capTold c true else s
      let s := dups.foldl (fun s f => s.missFiring c f) s
      let s := s.deliverFiring c f0.stamp
      if basket then
        let s := s.openBasket c mask f0.stamp trigs early (before.drop (before.length - n))
        let s := s.enterPost c (h.pre.filter (fun x => decide (0 ≤ ft16Diff x.1 (ft16Of8 f0.stamp))))
        if (s.getCap c).state = .post then
          let held := (s.getCap c).firings
          held.foldl (fun s f => s.missFiring c f) (s.modCap c (fun h => { h with firings := [] }))
        else s
      else
        let now := s.time.ft16
        s.capEndTrigger c (now + BitVec.ofInt 48 ((s.tickOf f0.stamp + 1) * tickUnits))

/-- t_latf at its maximum, FT.16 units (R484; log entry 45). -/
def latfUnits : Int := 1200 * 65536

/-- The condition can report no more firings with stamps before `u`, given the chained channel `chained` is final there (R453, R460): a
field input's after t_latf, a threshold's once a sample at or after `u` is in, a crossing's once its axis has a position sample there or
gives none, an index's after its filter, a chain's once that channel is final and holds no trigger before `u`. -/
def State.condFinal (s : State) (c n : Nat) (u : Ft16) (chained : Nat → Bool) : Bool :=
  let v := s.capCond c n
  let src := condSource v
  let ago := ft16Diff s.time.ft16 u
  match condType v with
  | 2 => decide (latfUnits ≤ ago)
  | 3 => (s.getCap c).lastSample.any (fun p => decide (0 ≤ ft16Diff p.1 u))
  | 4 =>
    if src < 0x20 then (s.getFlags src).engine.isNone || (s.getFlags src).capPos.head?.any (fun p => decide (s.xtOfFt16 u ≤ p.1))
    else (s.getVirt (src - 0x100)).state == .disabled || decide (s.xtOfFt16 u ≤ (s.getVirt (src - 0x100)).sampleXt)
  | 7 => decide (unitsOfNs (s.quadDelay src) ≤ ago)
  | 8 => chained (src - 0x800)
  | _ => true

/-- No condition of a channel can still report a firing with a stamp before `u`, the channel's own trigger interval included; through at
most 256 chained channels (R453, R460). -/
def State.capFinal (s : State) : Nat → Nat → Ft16 → Bool
  | 0, _, _ => true
  | n + 1, c, u => [0, 1, 2, 3].all (fun i => s.condFinal c i u (fun d =>
      (s.getCap d).state == .disarmed ||
        ((s.getCap d).firings.all (fun f => decide (0 ≤ ft16Diff (ft16Of8 f.stamp) u)) && State.capFinal s n d u)))

/-- CAPTURE_TRIGGER (R453): a trigger that is final. In basket mode the sample that closes its interval has been entered. -/
def execCaptureTrigger (cc : Fin 256) (s : State) : Out :=
  .next (
    let c := cc.val
    let h := s.getCap c
    match h.state, earliest h.firings with
    | .armed, some f0 =>
      if s.par (epCap c) P.capMode = 0 then
        let u := s.time.ft16 + BitVec.ofInt 48 ((s.tickOf f0.stamp + 1) * tickUnits)
        if s.tickOf f0.stamp < 0 ∧ s.capFinal 257 c u = true then s.takeTrigger c (some (u - 1)) else s
      else
        match h.pre.find? (fun x => decide (0 ≤ ft16Diff x.1 (ft16Of8 f0.stamp))) with
        | some x => if s.capFinal 257 c x.1 then s.takeTrigger c (some x.1) else s
        | none => s
    | _, _ => s)

/-! ### Samples (R449, R463 to R466) -/

/-- States of field inputs as a bitmap (R466). -/
def bitmapOf (n : Nat) (m : SMap FieldIn) : Nat := ((List.range n).map (fun i => b2n (mget m i {}).state * 2 ^ i)).sum

/-- Position of a servo, stepper or virtual axis as its loops use it. -/
def State.capPosOf (s : State) (ep : Nat) : Q32 :=
  if ep < 0x20 then s.axisPos ep else if ep < 0x40 then (s.stpCommanded (ep - 0x20)).p else (s.getVirt (ep - 0x100)).sp.1

/-- Value of a signal (R466). -/
def State.sigVal (s : State) (g : Nat × Nat × Nat) (t : Ft16) (raw : Int) : Int :=
  let ep := g.2.1
  let f := s.getFoc ep
  match g.1 with
  | 0x01 => s.capPosOf ep
  | 0x02 => if ep < 0x20 then (s.getFb ep).vel else if ep < 0x40 then (s.stpCommanded (ep - 0x20)).v
            else (s.getVirt (ep - 0x100)).sp.2.1
  | 0x03 => f.iq
  | 0x04 => f.id
  | 0x05 => f.vq
  | 0x06 => f.vd
  | 0x07 => f.i.a
  | 0x08 => f.i.b
  | 0x09 => f.i.c
  | 0x0A => toQ8 (s.servoVdc ep / s.parF ep P.ratedVoltage)
  | 0x0B => (s.getLoop ep).ep
  | 0x0C => (s.getLoop ep).iqRef
  | 0x0D => raw
  | 0x0E => bitmapOf 64 s.fio.ins
  | 0x0F => bitmapOf 16 s.fio.latches
  | 0x10 => match (s.getFlags ep).engine with
    | some le => (s.load64 le (s.slotBase ep + 0xC00 + g.2.2)).toInt
    | none => 0
  | 0x11 => (((s.getFollower ep).inUse t).map (fun p => (pubAt p t).p)).getD 0
  | _ => ((t >>> 8).truncate 40 : Ft8).toNat

/-- A threshold condition at a sample (R449): the primed flags after it, and the stamps of its firings. -/
def threshold (edge : Nat) (level hyst : Int) (pr : Bool × Bool) (prev : Option (Ft16 × Int)) (t : Ft16) (x : Int) :
    (Bool × Bool) × List Ft8 :=
  let up := pr.1 && decide (level ≤ x) && edge != 1
  let down := pr.2 && decide (x ≤ level) && edge != 0
  let stamp : Ft8 := match prev with
    | some (t0, x0) =>
      let d : Rat := if x = x0 then 0 else (ft16Diff t t0 : Rat) * ((level - x0 : Int) : Rat) / ((x - x0 : Int) : Rat)
      ((t0 + BitVec.ofInt 48 d.floor) >>> 8).truncate 40
    | none => (t >>> 8).truncate 40
  (((pr.1 && !up) || (edge != 1 && decide (x ≤ level - hyst)), (pr.2 && !down) || (edge != 0 && decide (level + hyst ≤ x))),
    (if up then [stamp] else []) ++ (if down then [stamp] else []))

/-- A signal of format Q8.24, whose instants under clock 0 are the second shunt sample instants (R449, R466). -/
def sigElectrical (code : Nat) : Bool := (decide (3 ≤ code) && decide (code ≤ 0x0A)) || code == 0x0C

/-- The threshold conditions of a channel at a sample, at the signal's own instants: `t2` those of electrical signals (R449). -/
def State.thresholds (s : State) (c : Nat) (t t2 : Ft16) (xs : List Int) : State :=
  [0, 1, 2, 3].foldl (fun s n =>
    let v := s.capCond c n
    if condType v ≠ 3 then s
    else
      let h := s.getCap c
      let k := condSlot v
      let elec := s.par (epCap c) P.capClock == 0 && sigElectrical ((s.capSignals c).getD k (0, 0, 0)).1
      let prev := h.lastSample.map (fun p => (if elec then h.lastT2 else p.1, p.2.getD k 0))
      let r := threshold (condEdge v) (condLevel v) (condParam v) (h.primed.getD n (false, false)) prev (if elec then t2 else t) (xs.getD k 0)
      let s := s.setCap c { h with primed := h.primed.set n r.1 }
      r.2.foldl (fun s st => s.fireCap c { cond := n, stamp := st }) s) s

/-- Samples a channel keeps beside cap_pre, for firings that arrive late (log entry 3). -/
def capMargin : Nat := 16384

/-- The instant of a channel's sample (R463, R465): the position time of the axis's current sample, the last instant of the channel's own
grid, or the raw instant counted from the TDC stamp of the first raw sample since the channel armed. -/
def State.sampleInstant (s : State) (c cycles frac : Nat) : Ft16 :=
  let ep := epCap c
  let a := s.par ep P.capClockAxis
  let h := s.getCap c
  match s.par ep P.capClock with
  | 0 => ft16Of (s.getFb a).posXt
  | 1 => ft16Of (gridAtOrBefore (s.par ep P.capPeriodTicks) (s.par ep P.capPhaseTicks) s.xt16)
  | _ => match h.lastSample with
    | some p => if h.pre.isEmpty && h.state == .armed then ft16Of8 (s.stampOf (.shuntEcho (Fin.ofNat 32 a)) cycles frac)
                else p.1 + BitVec.ofNat 48 (s.capPeriod c)
    | none => ft16Of8 (s.stampOf (.shuntEcho (Fin.ofNat 32 a)) cycles frac)

/-- The state in which a channel's signals are read at an instant: under clock 1 servo axes as the state record completed last at or
before it (R464). -/
def State.capView (s : State) (c : Nat) (t : Ft16) : State :=
  if s.par (epCap c) P.capClock ≠ 1 then s
  else (s.capSignals c).foldl (fun s g => if g.2.1 < 32 then s.asRecorded g.2.1 (s.xtOfFt16 t) else s) s

/-- CAPTURE_SAMPLE (R463 to R465, R468); under clock 2 with a raw code, and the edge of its echo by which its TDC channel stamps a first
one. -/
def execCaptureSample (cc : Fin 256) (at_ : TdcEdge) (rawCode : Option Int) (s : State) : Out :=
  .next (
    let c := cc.val
    let ep := epCap c
    let h := s.getCap c
    let t := s.sampleInstant c at_.cycles.val at_.frac.val
    let old := match h.lastSample with
      | some p => decide (ft16Diff t p.1 ≤ 0)
      | none => false
    if h.state = .disarmed ∨ s.par ep P.capMode = 0 ∨ old = true ∨ (s.par ep P.capClock = 2 ∧ rawCode = none) then s
    else
      let view := s.capView c t
      let xs := (s.capSignals c).map (fun g => view.sigVal g t (rawCode.getD 0))
      let t2 := ft16Of (s.getFoc (s.par ep P.capClockAxis)).t2
      let s := s.thresholds c t t2 xs
      let s := s.modCap c (fun h => { h with lastSample := some (t, xs), lastT2 := t2 })
      match (s.getCap c).state with
      | .armed =>
        s.modCap c (fun h => { h with
          pre := (h.pre ++ [(t, xs)]).drop (h.pre.length + 1 - (s.par ep P.capPre + capMargin)) })
      | .post => s.enterPost c [(t, xs)]
      | _ => s)

/-- CAPTURE_REARM (R455, R474): t_rearm after t_end. -/
def execCaptureRearm (cc : Fin 256) (s : State) : Out :=
  .next (
    let c := cc.val
    let h := s.getCap c
    if h.state = .rearm ∧ (rearmUnits : Int) ≤ ft16Diff s.time.ft16 h.tEnd then s.armCap c h.armFrom false else s)

/-! ### Latch records (R459 to R462) -/

/-- Latched position of an axis at an FT.8 and its validity (R461). -/
def State.latched (s : State) (ep : Nat) (t : Ft8) : Q32 × Bool :=
  let x := s.xtOfFt8 t
  if ep < 0x20 then
    let b := bracket x (s.getFlags ep).capPos
    if b.2 then b else (s.axisPos ep, false)
  else if ep < 0x40 then
    let c := s.getStepper (ep - 0x20)
    (s.stpPos (ep - 0x20) (c.countAt x), c.state == .enabled)
  else
    let v := s.getVirt (ep - 0x100)
    match v.state, v.stop with
    | .stopping, some r => ((r.at_ (s.stopJerkOf ep) x).p, true)
    | .enabled, _ => ((s.setpointAt ep (ft16Of8 t)).2.1.p, true)
    | _, _ => (v.sp.1, false)

/-- The latched servo axes have the later of their two samples (R461). -/
def State.latchReady (s : State) (ep : Nat) (t : Ft8) : Bool :=
  if 0x20 ≤ ep then true
  else match (s.getFlags ep).capPos with
    | a :: _ => decide (s.xtOfFt8 t ≤ a.1) || s.axisStateOf ep == .disabled || s.axisStateOf ep == .faulted
    | [] => true

/-- Latched axes of a channel: four endpoints, 0xFFFF for none. -/
def State.latchAxes (s : State) (c : Nat) : List Nat :=
  let v := s.par (epCap c) P.capLatchAxes
  [bits v 15 0, bits v 31 16, bits v 47 32, bits v 63 48]

/-- LATCH_RECORD (R459, R461, R462). -/
def execLatchRecord (cc : Fin 256) (s : State) : Out :=
  .next (
    let c := cc.val
    let ep := epCap c
    let h := s.getCap c
    let axes := s.latchAxes c
    match h.latchDue with
    | [] => s
    | (mask, t, n, slot) :: l =>
      if !(axes.all (fun e => e == 0xFFFF || s.latchReady e t)) then s
      else
        let ps := axes.map (fun e => if e = 0xFFFF then (0, false) else s.latched e t)
        let valid := ((List.range 4).map (fun i => b2n (ps.getD i (0, false)).2 * 2 ^ i)).sum
        let bad := ((List.range 4).filter (fun i => decide (axes.getD i 0xFFFF ≠ 0xFFFF) && !(ps.getD i (0, false)).2)).length
        let r : LatchRec := { tRef := t, mask := mask, posValid := valid, seq := n, pos := ps.map (·.1) }
        let full := decide (64 ≤ h.fifo.length)
        let s := s.setCap c { h with
          latchDue := l, fifo := if full then h.fifo else h.fifo ++ [r], fifoFull := h.fifoFull || full }
        let s := (s.bumpIf full ep C.capLatchDrop).bumpBy ep C.capPosInvalid 0 bad
        match slot with
        | some k =>
          if (s.basket k).channel = c ∧ (s.basket k).tRef = t then s.modBasket k (fun b => { b with posValid := valid, pos := r.pos }) else s
        | none => s)

/-- Bytes of a latch record (R459). -/
def LatchRec.bytes (r : LatchRec) : List Byte :=
  leFt8 r.tRef ++ leBytes 1 r.mask ++ leBytes 1 r.posValid ++ leBytes 2 0 ++ leBytes 4 r.seq.toNat ++ r.pos.flatMap le8 ++
  leBytes (16 + 8 * (4 - r.pos.length)) 0

/-! ### Spill (R477, R478) -/

/-- The oldest closed basket in capture memory is spilled; none fits or exists: nothing. -/
def State.spillOldest (s : State) : State :=
  match s.capMem.order.find? (fun k => !(s.basket k).spilled && !s.beingRead k) with
  | some k =>
    if (s.basket k).bytes ≤ s.capSpillFree then
      ((s.modBasket k (fun b => { b with spilled := true })).bump epModule C.capSpill).capSpaceFree
    else s
  | none => s

/-- BASKET_SPILL (R477). -/
def execBasketSpill (s : State) : Out :=
  .next (if s.capCoreFree < s.par epModule P.capSpillLow * 1048576 then s.spillOldest else s)

/-- Baskets of a list are freed and counted lost (R478). -/
def State.loseBaskets (s : State) (l : List Nat) : State :=
  if l.isEmpty then s
  else
    let s := l.foldl State.freeBasket s
    (s.bumpBy epModule C.capLost 0 l.length).log epModule 0x0705 l.length

/-- Every channel closes its basket with cause 3 and is DISARMED: the module leaves Ramble (R470, R482, R774). -/
def State.capPowerDown (s : State) : State :=
  (s.caps.filter (fun c => c.2.state != .disarmed)).foldl (fun s c =>
    if c.2.state = .post then s.closeBasket c.1 3 s.time.ft16 else s.disarmCap c.1) s

/-- Every closed basket in capture memory is spilled, oldest first; those that do not fit are lost (R478). -/
def State.spillAll (s : State) : State :=
  let l := s.capMem.order.filter (fun k => !(s.basket k).spilled)
  let s := l.foldl (fun s k =>
    if (s.basket k).bytes ≤ s.capSpillFree then (s.modBasket k (fun b => { b with spilled := true })).bump epModule C.capSpill else s) s
  s.loseBaskets (l.filter (fun k => !(s.basket k).spilled))

/-- LPDDR loses its contents: every spilled basket is lost (R478). -/
def State.loseSpilled (s : State) : State := s.loseBaskets (s.capMem.order.filter (fun k => (s.basket k).spilled))

/-! ### Commands of group 0x07 (R452, R467, R473, R479 to R482, R841) -/

/-- The capture channel of an endpoint. -/
def capOf (ep : Nat) : Option Nat := if 0x800 ≤ ep ∧ ep ≤ 0x8FF then some (ep - 0x800) else none

/-- Channels named by a channel's chain conditions. -/
def State.chains (s : State) (c : Nat) : List Nat :=
  [0, 1, 2, 3].filterMap (fun n =>
    let v := s.capCond c n
    if condType v = 8 then capOf (condSource v) else none)

/-- A chain from `l` through channels armed leads back to `c` (R452). -/
def State.chainCircle (s : State) (c : Nat) : Nat → List Nat → Bool
  | 0, _ => false
  | n + 1, l =>
    l.contains c || (!l.isEmpty && s.chainCircle c n ((l.filter (fun d => (s.getCap d).state != .disarmed)).flatMap s.chains))

/-- A condition of a channel that BASKET_ARM refuses (R452). -/
def State.condBad (s : State) (c n : Nat) : Bool :=
  let v := s.capCond c n
  let src := condSource v
  let sigs := s.capSignals c
  match condType v with
  | 1 => !(decide (0x460 ≤ src) && decide (src ≤ 0x46F))
  | 2 => !(decide (0x400 ≤ src) && decide (src ≤ 0x43F))
  | 3 => s.par (epCap c) P.capMode == 0 || decide (sigs.length ≤ condSlot v) || sigBitmap (sigs.getD (condSlot v) (0, 0, 0)).1
  | 4 => !(decide (src < 0x20) || (decide (0x100 ≤ src) && decide (src ≤ 0x1FF)))
  | 6 => [0, 1, 2, 3].any (fun m => m != n && condType (s.capCond c m) == 6)
  | 7 => !(decide (src < 0x20) && decide (s.par src P.indexMode ≠ 0))
  | 8 => (capOf src).isNone
  | _ => false

/-- A signal that names an object of another kind, or a code the clock does not allow (R467). -/
def State.sigBad (s : State) (clock : Nat) (g : Nat × Nat × Nat) : Bool :=
  let ep := g.2.1
  let servo := decide (ep < 0x20)
  (g.1 == 0x0D) != (clock == 2) ||
  match g.1 with
  | 0x01 | 0x02 => !(decide (ep < 0x40) || (decide (0x100 ≤ ep) && decide (ep ≤ 0x1FF)))
  | 0x03 | 0x04 | 0x05 | 0x06 | 0x07 | 0x08 | 0x09 | 0x0A | 0x0C => !servo
  | 0x0B => !(servo && s.mode ep == 2)
  | 0x0D => false
  | 0x0E => ep != 0x400
  | 0x0F => ep != 0x460
  | 0x10 => !(servo && decide (g.2.2 ≤ 1016) && g.2.2 % 8 == 0)
  | 0x11 => !isFollowerEp ep
  | 0x12 => false
  | _ => true

/-- t_arm, its maximum, in FT.8 units (R484; log entry 45). -/
def armUnits8 : Int := 20000 * 256

/-- BASKET_ARM (R452, R467, R473, R482, R841). -/
def execBasketArm (ref : CmdRef) (ep : BitVec 16) (count : BitVec 16) (s : State) : Out :=
  .next (s.execCmd ref 0x0700 (fun k s =>
    match capOf ep.toNat with
    | none => s.finish k E.endpoint
    | some c =>
      let e := epCap c
      let clock := s.par e P.capClock
      let conds := [0, 1, 2, 3].map (fun n => s.capCond c n)
      s.checked k [
        ((s.getCap c).state != .disarmed, E.state),
        (decide (2097152 < s.par e P.capPre + s.par e P.capPost) || decide (8388608 < s.capLargest c), E.range),
        (s.chainCircle c 256 (s.chains c) || [0, 1, 2, 3].any (s.condBad c), E.conflict),
        ((s.capSignals c).any (s.sigBad clock) ||
          (clock != 1 && (s.getLoop (s.par e P.capClockAxis)).state != .enabled), E.conflict),
        (conds.any (fun v => condType v == 5 && decide (ft8Diff (condTime v) s.ft8 < armUnits8)), E.tooLate)]
        (fun s =>
          let s := s.modCap c (fun h => { h with
            remaining := count.toNat, continuous := count == 0, firings := [], lastSample := none
            primed := conds.map (fun v => (condType v == 5, false)) })
          (s.armCap c s.ft8 true).ok k)))

/-- BASKET_LIST. -/
def execBasketList (ref : CmdRef) (ep : BitVec 16) (s : State) : Out :=
  .next (s.execCmd ref 0x0701 (fun k s =>
    match capOf ep.toNat with
    | none => s.finish k E.endpoint
    | some c =>
      let l := (s.basketsOf c).take 256
      s.ok k (leBytes 4 l.length ++ l.flatMap (fun n => leBytes 4 (s.basket n).id))))

/-- A sample record (R467). -/
def recordBytes (ws : List Nat) (xs : List Int) : List Byte :=
  let l := (List.range ws.length).flatMap (fun n => leBytes (ws.getD n 0) (lowBits (8 * ws.getD n 0) (xs.getD n 0)))
  l ++ leBytes (sampleBytes ws - l.length) 0

/-- A reduction block (R472). -/
def Reduction.bytes (r : Reduction) : List Byte :=
  le8 r.min ++ le8 r.max ++ leBytes 16 (lowBits 128 r.sum) ++ leBytes 16 r.sumSq ++ leBytes 4 r.minIx ++ leBytes 4 r.maxIx ++
  leBytes 4 r.count ++ leBytes 4 0

/-- The bytes of a closed basket: header, sample records, reduction blocks (R472). -/
def Basket.content (b : Basket) : List Byte :=
  let body := b.samples.flatMap (recordBytes b.widths) ++ b.red.flatMap Reduction.bytes
  let sb := sampleBytes b.widths
  let several := decide (1 < ([0, 1, 2, 3].filter (bitOf b.mask)).length)
  let flags := b2n b.early + 2 * b2n several + 4 * b2n b.spilled + 8 * b2n b.overwrote
  leBytes 4 b.id ++ leBytes 2 (epCap b.channel) ++ leBytes 1 flags ++ leBytes 1 b.mask ++ leFt8 b.tRef ++ b.tTrig.flatMap leFt8 ++
  leBytes (8 * (4 - b.tTrig.length)) 0 ++ leFt8 b.tFirst ++ leBytes 8 b.period ++ leBytes 4 b.preCfg ++ leBytes 4 b.preValid ++
  leBytes 4 b.post ++ leBytes 4 b.missed ++ leBytes 1 b.widths.length ++ leBytes 1 b.cause ++ leBytes 2 sb ++
  leBytes 4 (b.samples.length * sb) ++ leBytes 4 (crc32 body) ++ leBytes 1 b.posValid ++ leBytes 3 0 ++ b.pos.flatMap le8 ++
  leBytes (8 * (4 - b.pos.length)) 0 ++ body

/-- The closed basket of a basket_id (R480). -/
def State.closedBasket (s : State) (id : BitVec 32) : Option Nat :=
  let k := id.toNat % 65536
  if (s.basket k).closed && (s.basket k).id == id.toNat then some k else none

/-- BASKET_READ (R479, R480), in units of a byte; its data are the bytes asked for (log entry 46). -/
def execBasketRead (job : CmdJob) (id : BitVec 32) (offset len : BitVec 32) (s : State) : Out :=
  .next (s.execUnits job.ref 0x0702 (fun k s =>
    match s.closedBasket id with
    | none => s.finish k E.state
    | some b =>
      let l := (s.basket b).content
      if len.toNat = 0 ∨ 65536 < len.toNat ∨ l.length < offset.toNat + len.toNat then s.finish k E.range
      else
        let done := (s.cmd k).progress + reachUnits job.reach (len.toNat - (s.cmd k).progress)
        let s := s.modCapMem (fun m => { m with reading := (k, b) :: m.reading.filter (fun r => r.1 != k) })
        s.unitsDone k job.reach (decide (len.toNat ≤ done)) done (offset.toNat + done) ((l.drop offset.toNat).take len.toNat)))

/-- BASKET_RELEASE (R480). -/
def execBasketRelease (ref : CmdRef) (id : BitVec 32) (s : State) : Out :=
  .next (s.execCmd ref 0x0703 (fun k s =>
    match s.closedBasket id with
    | none => s.finish k E.state
    | some b => if s.beingRead b then s.finish k E.state else ((s.freeBasket b).capSpaceFree).ok k))

/-- LATCH_READ (R459). -/
def execLatchRead (ref : CmdRef) (ep : BitVec 16) (max : Byte) (s : State) : Out :=
  .next (s.execCmd ref 0x0704 (fun k s =>
    match capOf ep.toNat with
    | none => s.finish k E.endpoint
    | some c =>
      if max.toNat = 0 ∨ 16 < max.toNat then s.finish k E.range
      else
        let h := s.getCap c
        let l := h.fifo.take max.toNat
        let s := s.setCap c { h with fifo := h.fifo.drop max.toNat, fifoFull := h.fifoFull && l.isEmpty }
        s.ok k (leBytes 4 l.length ++ leBytes 4 0 ++ l.flatMap LatchRec.bytes)))

/-- CAP_TRIGGER (R481): it completes when the fate of its firing is known. -/
def execCapTrigger (ref : CmdRef) (ep : BitVec 16) (s : State) : Out :=
  .next (s.execCmd ref 0x0705 (fun k s =>
    match capOf ep.toNat with
    | none => s.finish k E.endpoint
    | some c =>
      match [0, 1, 2, 3].find? (fun n => condType (s.capCond c n) == 6) with
      | none => s.finish k E.conflict
      | some n =>
        if (s.getCap c).state = .disarmed then s.finish k E.state
        else (s.await k (epCap c) 0x0705).fireCap c { cond := n, stamp := s.ft8 }))

/-- BASKET_DISARM (R458, R470, R482): an ARMED channel first takes the trigger of a firing stamped in this tick; its basket closes at
once with cause 1 (DEDUCED, log entry 45). -/
def execBasketDisarm (ref : CmdRef) (ep : BitVec 16) (s : State) : Out :=
  .next (s.execCmd ref 0x0706 (fun k s =>
    match capOf ep.toNat with
    | none => s.finish k E.endpoint
    | some c =>
      let h := s.getCap c
      let here := (earliest h.firings).any (fun f => decide (s.tickOf f.stamp = 0))
      let s := if h.state == .armed && here then s.takeTrigger c none else s
      let s := match (s.getCap c).state with
        | .disarmed => s
        | .post => s.closeBasket c 1 s.time.ft16
        | _ => s.disarmCap c
      s.ok k))

end Sys2Proof.Machine
end

