-- ==== Sys2Proof/Machine/Sample.lean ====
section
/-! DEFINITION. One current sample of a servo axis from its release point: reconstruction, feedback and observer, setpoint,
loops, limits and duties (R42, R198, R215 to R222, R237, R244, R254 to R296). -/

namespace Sys2Proof.Machine

/-- FT.16 units of seconds, truncated. -/
def unitsOfSec (t : Rat) : Int := unitsOfNs (t * 1000000000)

/-- Release point of the carrier period in progress, XT.16, with the period's actual length (R42, R87). -/
def State.releaseXt (s : State) (i : Nat) : Nat := (s.getPwm i).updateXt + (s.getPwm i).period / 2 + 400 * 65536

/-- The sample in progress has been released. -/
def State.released (s : State) (i : Nat) : Bool := (s.getFlags i).released == (s.getPwm i).sample

/-- The axis takes its angle, position and speed from the observer (R161, R163, R159). -/
def State.onObserver (s : State) (i : Nat) : Bool :=
  s.par i P.obsEnable == 1 && (s.par i P.fbSource == 0 || (s.getFb i).state == .lost || (s.getFb i).state == .substituted)

/-- The loops of the axis drive the bridge: ENABLED, STOPPING, or the sensorless start of ENABLING (R241). -/
def State.driving (s : State) (i : Nat) : Bool :=
  match (s.getLoop i).state with
  | .enabled | .stopping => true
  | .enabling => (s.getLoop i).enableStep == 2 && s.par i P.fbSource == 0
  | _ => false

/-! ### Feedback at the release point (R43, R102, R150) -/

/-- A serial word that was asked for in this sample and not decoded counts as missing (R43). -/
def State.missingWord (s : State) (i : Nat) : State :=
  let p := s.getSerial i
  let asked := match p.outstanding with
    | some .pos | some .posAux => decide ((s.getPwm i).updateXt ≤ p.startXt)
    | _ => false
  if asked && !p.wordTaken && decide (2 ≤ s.par i P.fbSource) then s.badWord i .timeout else s

/-- Feedback of the sample. -/
def State.sampleFeedback (s : State) (i : Nat) : State :=
  let s := (s.modFlags i (fun f => { f with stopped := false })).missingWord i
  if s.par i P.fbSource ≠ 1 then s
  else
    let s := match (s.getPwm i).echo[1]? with
      | some e => s.modQuad i (fun q => { q with latched := match q.latched with
          | (c, _, k) :: t => (c, (s.xtOfFt8 e : Int) - unitsOfNs (s.quadDelay i), k) :: t
          | [] => [] })
      | none => s
    s.quadSample i

/-! ### Currents and the observer (R219, R270 to R296) -/

/-- Currents at t2 and the voltages applied in this period, which also become the output history of the current sections. -/
def State.sampleCurrents (s : State) (i : Nat) : State × Nat :=
  let c := s.focCfg i
  let w := s.getPwm i
  let f := s.getFoc i
  let vdc := s.servoVdc i
  let v := appliedVolts c vdc w.loaded f.i
  let dq := park f.thetaApp v
  let hist (x : Rat) : Int := satInt 64 (fixFloor 48 (x / c.vb))
  let s := s.modSection (secKey i 2) (fun h => { h with y1 := hist dq.2 })
  let s := s.modSection (secKey i 3) (fun h => { h with y1 := hist dq.1 })
  let win := windowShift c.windowNs c.guard_ c.pNs w.loaded
  let nom := c.instants win
  let stamp (k : Nat) (d : Rat) : Rat := match w.echo[k]? with
    | some e => nsOf ((s.xtOfFt8 e : Int) - w.updateXt)
    | none => d
  let ts := (stamp 0 nom.1, stamp 1 nom.2)
  let th : Rat := (f.theta : Rat) / pow2 32
  let om := twoPi * c.polePairs * ofQ32 (s.getFb i).vel
  let e (k : Nat) : Rat := if f.obs.locked then emfObs c f.obs k else emfOf c th om k
  let r := reconstruct c f.shuntOffset win ts (w.codes.getD 0 0) (w.codes.getD 1 0) vdc e f.i
  let s := s.modFoc i (fun f => { f with i := r.i, clip := r.clip, vAl := toQ8 (v.1 / c.vb), vBe := toQ8 (v.2 / c.vb) })
  let s := s.bumpIf r.clip i C.focShuntClip
  (s, (w.updateXt + unitsOfNs ts.2).toNat)

/-- The rotor is lost with the angle in use: hold from the next sample (R295). -/
def State.beginHold (s : State) (i : Nat) : State :=
  (s.modFoc i (fun f => { f with
    holdFrom := some s.tick, obs := { f.obs with locked := false, lockRun := 0, peak := f.obs.rho } })).bump i C.focObsLoss

/-- Hold ends re-acquired (R296). -/
def State.endHold (s : State) (i : Nat) (from_ : Nat) : State :=
  let s := s.modFoc i (fun f => { f with holdFrom := none })
  (s.log i 0x0408 (dat 8 ((s.tick - from_) / 64))).bump i C.focObsReacq

/-- What a loss of the rotor does (R294, R295): a supervising observer is unlocked; the one in use enters hold. -/
def State.rotorLoss (s : State) (i : Nat) (using_ : Bool) (w : Rat) : State :=
  let f := s.getFoc i
  if using_ then
    match f.holdFrom with
    | none => if decide (3 ≤ f.obs.badRun) && decide (1 / 2 ≤ w) && s.driving i then s.beginHold i else s
    | some t => if f.obs.locked then s.endHold i t else s
  else if f.obs.badRun = 3 then
    (s.modFoc i (fun f => { f with obs := { f.obs with locked := false, lockRun := 0 } })).bump i C.focObsLoss
  else s

/-- The observer's step, the electrical angle at t2, the d and q currents and what follows from them. `old` is the field
control state before the sample, `t2` the reconstruction instant. -/
def State.sampleAngle (s : State) (i : Nat) (old : Foc) (t2 : Nat) : State :=
  let c := s.focCfg i
  let on := s.onObserver i
  let runs := s.par i P.obsEnable == 1 && ((s.getLoop i).state == .enabling || (s.getLoop i).state == .enabled || (s.getLoop i).state == .stopping)
  let fb := s.getFb i
  let f := s.getFoc i
  let sec := secOf ((t2 : Int) - fb.posXt)
  let thE : Rat := if on then f.obs.theta + f.obs.omega * c.t / twoPi
    else (elecAngle c.polePairs fb.pos (s.parQ i P.commutationOffset) : Rat) / pow2 32 + c.polePairs * ofQ32 fb.vel * sec
  let theta := turnFrac thE
  let th : Rat := (theta : Rat) / pow2 32
  let ab := alphaBeta (ofQ8 f.i.a) (ofQ8 f.i.b) (ofQ8 f.i.c)
  let dq := park th ab
  let id0 := toQ8 dq.1
  let iq0 := toQ8 dq.2
  let w := if on then blendWeight c f.obs else 1
  let injected := on && decide (old.w < 1)
  let epsH := if injected then injectionError c (!old.sigma) iq0 old.iPrev.2 else 0
  let o := if runs then observerStep c f.obs ab (old.vAl, old.vBe) w epsH else f.obs
  let sound := fb.state == .valid || fb.state == .extrapolated
  let o := if runs && sound then { o with align := ofQ32 fb.pos + ofQ32 fb.vel * sec - o.theta / c.polePairs } else o
  let weak := injected && decide (w ≤ 1 / 2) &&
    decide (rabs (ofQ8 (id0 - old.iPrev.1)) < 1 / 4 * (c.hfiV * c.vb * c.t / (c.ld * c.ib)))
  let mean (a b : Q8) : Q8 := if decide (w < 1) then (a + b) / 2 else a
  let src : AngleSource := if !on then .feedback else if f.listenFrom.isSome then .listening else if f.holdFrom.isSome then .hold
    else if w = 1 then .observer else if w = 0 then .injection else .blend
  let s := s.setFoc i { f with
    theta := theta, id := mean id0 old.iPrev.1, iq := mean iq0 old.iPrev.2, iPrev := (id0, iq0), w := w, epsH := epsH, obs := o
    angle := src, weakRun := if weak then f.weakRun + 1 else 0
    smallSince := if injected && decide (rabs epsH < 1 / 20) then some (f.smallSince.getD s.tick) else none }
  let s := if runs && on then s.modFb i (fun b => { b with
      pos := toQ32 (obsPos c o), vel := toQ32 (obsSpeed c o), posXt := t2 }) else s
  let s := if runs then s.rotorLoss i on w else s
  if (s.getFoc i).weakRun = 3 ∧ runs then s.axisFault i 0x0C else s

/-! ### Setpoint and stops (R216, R244, R341) -/

/-- The stop ramp at the sample, re-anchored where a committed stop_decel exceeds the one in use (R341). -/
def State.rampPoint (s : State) (i : Nat) (w : StopRun) (tm : Nat) : State × Motion :=
  let d := s.stopDecel i
  let j := s.stopJerkOf i
  let m := w.at_ j tm
  if w.decel < d then
    (s.modLoop i (fun l => { l with stop := some { w with
      p0 := m.p, v0 := m.v, a0 := m.a, fromXt := tm, decel := d } }), m)
  else (s, m)

/-- The setpoint at the position time of the sample, with starvation (R55), the stop that takes effect (R244) and the setpoint
left in the loop's state. `pm`, `vm` stand in for a setpoint in torque mode. Gives whether a saturated value was formed (R334). -/
def State.sampleSetpoint (s : State) (i : Nat) (pm vm : Q32) (tm : Nat) : State × Bool :=
  let l := s.getLoop i
  let r : State × Motion × Bool := match l.state, l.stop with
    | .stopping, some w => let a := s.rampPoint i w tm; (a.1, a.2, true)
    | _, _ => if s.mode i = 0 then (s, { p := if l.holding then l.holdAt.getD pm else pm, v := if l.holding then 0 else vm }, true)
      else s.setpointAt i (ft16Of tm)
  let m := r.2.1
  let s := r.1.modFlags i (fun f => { f with
    starved := !r.2.2, starvedSince := if r.2.2 then none else some (f.starvedSince.getD s.tick) })
  let s := s.bumpIf (!r.2.2) i C.trjStarved
  let s := s.modLoop i (fun l => { l with ps := m.p, vs := m.v, as_ := m.a })
  (s.stopEffect i m.p m.v m.a tm, m.sat)

/-! ### Loops (R214 to R222, R845) -/

/-- Current limit in force: i_limit, stop_current during a stop (R244), catch_current while braking (R300). -/
def State.currentLimit (s : State) (i : Nat) : Rat :=
  if (s.getLoop i).state = .stopping then s.parF i P.stopCurrent
  else if (s.getFoc i).braking then s.parF i P.catchCurrent
  else s.parF i P.iLimit

/-- A raw clamped to plus or minus a per-unit limit, and whether the clamp acts. -/
def clampPu (lim : Rat) (x : Q8) : Q8 × Bool :=
  let l := toQ8 lim
  (clampInt (-l) l x, decide (x < -l) || decide (l < x))

/-- rated_speed in turns/s. -/
def State.ratedTurns (s : State) (i : Nat) : Rat := s.parF i P.ratedSpeed / s.parF i P.unitPerTurn

/-- The position section of a position-grid sample in mode 2, with the following error (R215, R220). -/
def State.positionLoop (s : State) (i : Nat) (pm : Q32) : State × Bool :=
  let l := s.getLoop i
  let ep := satInt 64 (l.ps - pm)
  let r := s.runSection i 0 (toQ8 (ofQ32 ep / s.parF i P.posBase))
  let s := r.1.modLoop i (fun l => { l with ep := ep, vr := r.2.1 })
  let lim := s.parF i P.maxFollowError / s.parF i P.unitPerTurn
  (if lim ≠ 0 ∧ lim < rabs (ofQ32 ep) ∧ s.mode i = 2 then s.axisFault i 7 else s, r.2.2)

/-- The torque reference of the velocity section with its feedforward (R215). `torqueStop`: the first sample of a stop from
torque mode, whose output is the torque reference in force (R244). -/
def State.velocityLoop (s : State) (i mode : Nat) (vm : Q32) (torqueStop : Bool) : State × Q8 × Bool :=
  let l := s.getLoop i
  let rs := s.ratedTurns i
  let ff := toQ8 (s.parF i P.kvff * ofQ32 l.vs / rs)
  let w0 := satInt 32 (ff + l.wh + (if mode = 2 then l.vr else 0))
  let a := s.runPlaced i 0 w0
  let w := clampPu (s.parF i P.speedLimit) a.2.1
  let was := (s.getFlags i).speedLimited
  let s := (a.1.modFlags i (fun f => { f with speedLimited := w.2 })).bumpIf (w.2 && !was) i C.loopSpeedLimit
  let x := satInt 32 (w.1 - toQ8 (ofQ32 vm / rs))
  let s := if torqueStop then s.seedSection i 1 x l.tr else s
  let b := s.runSection i 1 x
  let s := if torqueStop then b.1.modSection (secKey i 1) (fun h => { h with y1 := l.tr * 16777216 }) else b.1
  let tr := if torqueStop then l.tr else b.2.1
  let ic := s.parF i P.ratedCurrent
  let acc := s.parF i P.inertia * twoPi * ofQ32 l.as_ / (s.parF i P.torqueConst * ic)
  let ffT := toQ8 (s.parF i P.kaff * acc + s.parF i P.frictionFf * rsgn (ofQ32 l.vs) / ic)
  (s, satInt 32 (tr + ffT), a.2.2 || b.2.2)

/-- The end of a velocity-grid sample: the additive torque, the sections on the torque reference and the limit (R215, R218,
R845). -/
def State.torqueLimit (s : State) (i : Nat) (tr0 : Q8) (h : HookOut) : State × Bool :=
  let tr0 := satInt 32 (tr0 + h.torque)
  let a := s.runPlaced i 1 tr0
  let q := clampPu (s.currentLimit i) a.2.1
  let was := (s.getFlags i).torqueLimited
  let s := (a.1.modFlags i (fun f => { f with torqueLimited := q.2 })).bumpIf (q.2 && !was) i C.loopTorqueLimit
  let dt : Rat := ((s.par i P.velRatio * s.par i P.curPeriodTicks : Nat) : Rat) / 64000000
  (s.modLoop i (fun l => { l with
    tr := tr0, iqRef := q.1, wh := toQ8 (ofQ32 h.speed / s.ratedTurns i)
    load := toQ32 (Config.lowPass (ofQ32 l.load) (ofQ8 q.1) dt (1 / 100)) }), a.2.2)

/-- The axis is on its position grid in this sample (R221). -/
def State.onPosGrid (s : State) (i : Nat) : Bool :=
  onGrid (s.par i P.posRatio * s.par i P.curPeriodTicks) (s.par i P.curPhaseTicks) (s.getPwm i).updateXt

/-- The position sections of a sample on their grid (R222). -/
def State.positionPart (s : State) (i mode : Nat) (pm : Q32) : State × Bool :=
  if s.onPosGrid i && mode == 2 then s.positionLoop i pm else (s, false)

/-- The velocity sections and the torque limit of a sample (R215, R222). -/
def State.velocityPart (s : State) (i mode : Nat) (vm : Q32) (h : HookOut) (torqueStop : Bool) : State × Bool :=
  let b : State × Q8 × Bool := if mode = 0 then
      (s.modFlags i (fun f => { f with speedLimited := false }), toQ8 (s.parF i P.torqueSet), false)
    else s.velocityLoop i mode vm torqueStop
  let c := b.1.torqueLimit i b.2.1 h
  (c.1, b.2.2 || c.2)

/-- The loops that run: an axis in torque mode takes a stop under velocity control and then holds its position closed-loop (R243,
R244). -/
def State.loopMode (s : State) (i : Nat) : Nat :=
  if s.mode i ≠ 0 then s.mode i
  else if (s.getLoop i).state = .stopping then 1
  else if (s.getLoop i).holding then 2
  else 0

/-- The outer loops of a sample: position and velocity sections on their grids (R215, R222). Suspended in hold (R295). -/
def State.outerLoops (s : State) (i : Nat) (pm vm : Q32) (h : HookOut) (torqueStop : Bool) : State × Bool :=
  let mode := s.loopMode i
  let a := s.positionPart i mode pm
  if !s.onOuterGrid i then a
  else
    let c := a.1.velocityPart i mode vm h torqueStop
    (c.1, a.2 || c.2)

/-- The outer loops of the sensorless start: zero references while listening and in the polarity test; while braking, speed
control toward zero at catch_decel (R298, R300). -/
def State.startLoops (s : State) (i : Nat) (vm : Q32) (h : HookOut) : State × Bool :=
  if !(s.getFoc i).braking then (s.modLoop i (fun l => { l with iqRef := 0 }), false)
  else if !s.onOuterGrid i then (s, false)
  else
    let dt : Rat := ((s.par i P.velRatio * s.par i P.curPeriodTicks : Nat) : Rat) / 64000000
    let v := ofQ32 (s.getLoop i).vs
    let step := s.parF i P.catchDecel / s.parF i P.unitPerTurn * dt
    let v' := rsgn v * max 0 (rabs v - step)
    let s := s.modLoop i (fun l => { l with vs := toQ32 v', as_ := 0, wh := 0 })
    let b := s.velocityLoop i 1 vm false
    let c := b.1.torqueLimit i b.2.1 h
    (c.1, b.2.2 || c.2)

/-- The field-weakening term and id_ref (R262). -/
def State.fieldWeaken (s : State) (i : Nat) : State × Q8 :=
  let c := s.focCfg i
  let f := s.getFoc i
  let set := s.parF i P.idSet
  if (s.getLoop i).state = .enabling then (s, 0)
  else if s.par i P.fwEnable = 0 then (s.modFoc i (fun f => { f with fw := 0 }), toQ8 set)
  else
    let vl := c.vLim (s.servoVdc i)
    let f0 := ofQ8 f.fw
    let x := if vl = 0 then f0 else
      f0 - s.parF i P.fwGain * c.t * (c.vb * norm (ofQ8 f.vAl, ofQ8 f.vBe) - s.parF i P.fwMargin * vl) / vl
    let fw := toQ8 (rclamp (s.parF i P.idFwMin) 0 x)
    (s.modFoc i (fun f => { f with fw := fw }), toQ8 (set + ofQ8 fw))

/-- The polarity test applies its voltage, positive for hfi_pol_samples samples and then negative (R291). -/
def State.polarityVolts (s : State) (i : Nat) : Rat :=
  match (s.getFoc i).polRun, (s.getLoop i).state with
  | some n, .enabling => (if n ≤ s.par i P.hfiPolSamples then 1 else -1) * s.parF i P.hfiPolVoltage
  | _, _ => 0

/-- A sample of the polarity test: the d current answers the voltage of the sample before; when every response is in, the larger peak
decides. Peaks less than 3 % of the larger one apart repeat the test once (R291; what is compared, log entry 94). -/
def State.polarityStep (s : State) (i : Nat) : State :=
  let f := s.getFoc i
  match f.polRun with
  | none => s
  | some n =>
    let k := s.par i P.hfiPolSamples
    let x : Q8 := if f.id < 0 then -f.id else f.id
    let p : Q8 × Q8 := if n = 0 then (0, 0) else if n ≤ k then (max f.polPeaks.1 x, f.polPeaks.2) else (f.polPeaks.1, max f.polPeaks.2 x)
    if n < 2 * k then s.setFoc i { f with polRun := some (n + 1), polPeaks := p }
    else
      let a := ofQ8 p.1
      let b := ofQ8 p.2
      if a = b ∨ rabs (a - b) < 3 / 100 * max a b then
        if f.polTests = 0 then s.setFoc i { f with polTests := 1, polRun := some 1, polPeaks := (0, 0) }
        else (s.setFoc i { f with polRun := none, polPeaks := p }).axisFault i 0x0C
      else
        (s.setFoc i { f with
          polRun := none, polPeaks := p
          obs := { f.obs with theta := if a < b then f.obs.theta + 1 / 2 else f.obs.theta } }).enterEnabled i

/-- The current sections, injection, voltage limit and duties (R215, R257, R260, R261, R278, R288, R295, R199). `wasHold`: the
sample begins in hold. -/
def State.currentLoops (s : State) (i : Nat) (vm : Q32) (t2 : Nat) (h : HookOut) (wasHold : Bool) : State × Bool :=
  let c := s.focCfg i
  let vdc := s.servoVdc i
  let f := s.getFoc i
  let w := s.getPwm i
  let app : Rat := if wasHold then f.thetaApp + f.obs.omega * c.t / twoPi
    else (f.theta : Rat) / pow2 32 + c.polePairs * ofQ32 vm *
      secOf ((w.updateXt : Int) + w.period + (s.par i P.curPeriodTicks * tickUnits / 2 : Nat) - t2)
  if wasHold then
    let d := dutiesOf c vdc app (ofQ8 f.vd, ofQ8 f.vq) f.i
    let s := s.modFoc i (fun f => { f with thetaApp := app, vectorLimited := false })
    (s.modFlags i (fun g => { g with outDuties := some d }), false)
  else
    let r := s.fieldWeaken i
    let l := s.getLoop i
    let id := satInt 32 (f.id + h.idOff)
    let iq := satInt 32 (f.iq + h.iqOff)
    let q := r.1.runSection i 2 (satInt 32 (l.iqRef - iq))
    let d := q.1.runSection i 3 (satInt 32 (r.2 - id))
    let inj := s.onObserver i && decide (f.w < 1)
    let hf : Rat := (if inj then (if f.sigma then 1 else -1) * c.hfiV * (1 - f.w) else 0) + s.polarityVolts i
    let lim := c.vLim vdc / c.vb
    let v := limitVector lim (ofQ8 d.2.1 + ofQ8 h.vd + hf, ofQ8 q.2.1 + ofQ8 h.vq)
    let s := d.1.modFoc i (fun f => { f with
      thetaApp := app, vd := toQ8 v.1.1, vq := toQ8 v.1.2, vectorLimited := v.2, sigma := if inj then !f.sigma else true })
    let s := s.bumpIf v.2 i C.focVectorLimit
    (s.modFlags i (fun g => { g with outDuties := some (dutiesOf c vdc app v.1 f.i) }), q.2.2 || d.2.2)

/-! ### Supervision of the sample -/

/-- Faults every current sample looks for (R248): overspeed and a low DC link on ten samples. -/
def State.sampleFaults (s : State) (i : Nat) : State :=
  if (s.getLoop i).state = .disabled ∨ (s.getLoop i).state = .faulted then s
  else
    let s := if s.parF i P.overspeed * s.ratedTurns i < rabs (ofQ32 (s.getFb i).vel) then s.axisFault i 8 else s
    let low := decide (s.servoVdc i < s.parF i P.dcMin)
    let n := if low then (s.getFlags i).dcLowRun + 1 else 0
    let s := s.modFlags i (fun f => { f with dcLowRun := n })
    let s := if n = 10 then s.axisFault i 0x0A else s
    let due := (s.getFlags i).gateDue
    let s := s.modFlags i (fun f => { f with gateDue := f.gateFault })
    if due then s.axisFault i 9 else s

/-- Standstill supervision of a sample (R245). -/
def State.watchStandstill (s : State) (i : Nat) (tm : Nat) : State :=
  let slow := decide (rabs (ofQ32 (s.getFb i).vel) < s.parF i P.standstillSpeed / s.parF i P.unitPerTurn)
  s.modFlags i (fun f => if slow then { f with slowSince := some (f.slowSince.getD (s.tick, ft8Of tm)) }
    else { f with slowSince := none, standstill := false })

/-- A sample whose arithmetic saturated (R185, R237, R238). -/
def State.noteSaturation (s : State) (i : Nat) (sat : Bool) : State :=
  if !sat then s.modFlags i (fun f => { f with outputSaturated := false, satRun := 0 })
  else
    let n := (s.getFlags i).satRun + 1
    let s := (s.modFlags i (fun f => { f with outputSaturated := true, satRun := n })).holdOutputs i
    if n = 16 then s.axisFault i 4 else s

/-- The computation of a sample on an axis that drives its bridge. -/
def State.driveSample (s : State) (i : Nat) (h : HookOut) (t2 : Nat) (wasHold : Bool) : State :=
  let tm := (s.getFb i).posXt
  let pm := h.pos.getD (s.axisPos i)
  let vm := h.vel.getD (s.getFb i).vel
  let s := s.keepOutputs i
  let starting := (s.getLoop i).state == .enabling
  let a : State × Bool := if starting then (s, false) else s.sampleSetpoint i pm vm tm
  let torqueStop := s.mode i == 0 && (a.1.getLoop i).state == .stopping && (s.getSection (secKey i 1)).used.isNone
  let b := if wasHold then (a.1, false) else if starting then a.1.startLoops i vm h else a.1.outerLoops i pm vm h torqueStop
  let c := b.1.currentLoops i vm t2 h wasHold
  let sat := a.2 || b.2 || c.2
  let s := c.1.bumpIf sat i C.leExtSat
  let s := s.noteSaturation i sat
  if starting then s else s.trailRest i

/-- The sample joins those from which captures interpolate (R461); positions crossed since the last one fire (R450). -/
def State.noteSample (s : State) (i : Nat) : State :=
  let s := match (s.getFlags i).capPos with
    | (x, p, _) :: _ => if x < (s.getFb i).posXt then s.fireCrossings (epServo i) (ft16Of x) p (ft16Of (s.getFb i).posXt) (s.axisPos i) else s
    | [] => s
  s.modFlags i (fun f => { f with
    capPos := (((s.getFb i).posXt, s.axisPos i,
      (s.getLoop i).state != .disabled && (s.getLoop i).state != .faulted &&
        ((s.getFb i).state == .valid || (s.getFb i).state == .extrapolated)) :: f.capPos).take 256 })

/-- A hook is attached at a hook point and is not bypassed (R198, R201). -/
def State.hooked (s : State) (i p : Nat) : Bool :=
  (mget (s.getFlags i).hooks p {}).handle != 0 && !(s.getFlags i).hooksBypassed

/-- What the hooks leave: nothing at a hook point without an attached kernel, or with the hooks bypassed (R198, R201, R845). -/
def State.hookOut (s : State) (i : Nat) (h : HookOut) : HookOut :=
  { h with
    pos := if s.hooked i 0 then h.pos else none, vel := if s.hooked i 0 then h.vel else none
    idOff := if s.hooked i 0 then h.idOff else 0, iqOff := if s.hooked i 0 then h.iqOff else 0
    torque := if s.hooked i 1 then h.torque else 0, speed := if s.hooked i 1 then h.speed else 0
    vd := if s.hooked i 2 then h.vd else 0, vq := if s.hooked i 2 then h.vq else 0 }

/-- The whole sample of an axis at its release point. wh is 0 while no hook is attached to HOOK_OUTER (R845). -/
def State.releaseSample (s : State) (i : Nat) (h : HookOut) : State :=
  let h := s.hookOut i h
  let s := s.modFlags i (fun f => { f with released := (s.getPwm i).sample })
  let s := if s.hooked i 1 then s else s.modLoop i (fun l => { l with wh := 0 })
  let old := s.getFoc i
  let s := s.sampleFeedback i
  let cur := s.sampleCurrents i
  let s := (cur.1.sampleAngle i old cur.2).modFoc i (fun f => { f with t2 := cur.2 })
  let s := s.coastReport i
  let s := (s.watchStandstill i (s.getFb i).posXt).sampleFaults i
  let s := s.watchFreeze i (obsSpeed (s.focCfg i) (s.getFoc i).obs)
  let s := s.homeInterp i
  let ready := (s.getLoop i).state == .enabling && (s.getLoop i).enableStep == 2 && s.par i P.fbSource != 0 &&
    (s.getFb i).state == .valid && (s.getLoop i).stop.isNone
  let s := if ready then s.enterEnabled i else if (s.getLoop i).state == .enabling then s.polarityStep i else s
  let s := if s.driving i then s.driveSample i h cur.2 old.holdFrom.isSome else s
  let s := if s.driving i && !(s.getFlags i).sto then s else s.modFlags i (fun f => { f with outDuties := none })
  let s := s.noteSample i
  if s.onPosGrid i && !((s.getLoop i).state == .disabled) then
    s.publishMeasured i (ft16Of (s.getFb i).posXt) { p := s.axisPos i, v := (s.getFb i).vel, a := (s.getLoop i).as_ }
  else s

end Sys2Proof.Machine
end

