-- ==== Sys2Proof/Machine/Servo.lean ====
section
/-! DEFINITION. Servo axes: the carrier period, the release of a sample, its commit, the steps of ENABLING, standstill and
the time limits of a start and a stop (R40 to R58, R239 to R251, R274, R291, R298 to R301). -/

namespace Sys2Proof.Machine

/-! ### The carrier period (R40, R44 to R46, R265, R266) -/

/-- Update point that ends the carrier period in progress, XT.16; after a pause the last grid instant. -/
def State.nextUpdate (s : State) (i : Nat) : Nat :=
  let w := s.getPwm i
  let n := s.par i P.curPeriodTicks
  let u := w.updateXt + w.period
  if w.sample = 0 ∨ w.period = 0 ∨ u + n * tickUnits ≤ s.xt16 then gridAtOrBefore n (s.par i P.curPhaseTicks) s.xt16 else u

/-- The update point has come: it lies no later than the present tick and after the last one. -/
def State.updateDue (s : State) (i : Nat) : Bool :=
  let u := s.nextUpdate i
  decide (u ≤ s.xt16 + tickUnits) && ((s.getPwm i).sample == 0 || decide ((s.getPwm i).updateXt < u))

/-- Duties were due for the update point: the axis has driven its bridge since its release point or before. -/
def State.commitExpected (s : State) (i : Nat) : Bool :=
  s.driving i && (s.getLoop i).stop.all (fun w => !w.atUpdate) &&
  decide (s.xt16 ≤ s.releaseXt i + (s.tick - (s.getLoop i).enableTick) * tickUnits)

/-- The PWM unit takes duties for the period that begins: windows and edges (R88, R265, R266, R277). -/
def State.placePeriod (s : State) (i : Nat) (d : Abc) : State :=
  let w := (s.getPwm i).place s (s.focCfg i) d
  ((s.setPwm i w).bumpIf w.shifted i C.pwmWindowShift).bumpIf w.modLimited i C.pwmModLimit

/-- The duties of the period that begins: those committed in time, or the previous ones with PWM_LATE_UPDATE (R45, R46, R58). -/
def State.loadDuties (s : State) (i : Nat) : State :=
  let w := s.getPwm i
  match w.committed with
  | some d => (s.setPwm i { w with committed := none, late := false, lateRun := 0 }).placePeriod i d
  | none =>
    let exp := s.commitExpected i
    let s := s.setPwm i { w with late := false, lateRun := if exp then w.lateRun + 1 else 0 }
    let s := (s.bumpIf exp i C.pwmLateUpdate).placePeriod i w.loaded
    if exp ∧ w.lateRun = 2 then s.axisFault i 1 else s

/-- UPDATE_POINT (R40): the period begins, duties load, a stop that awaits the update point ends. -/
def execUpdatePoint (axis : Fin 32) (s : State) : Out :=
  .next (
    let i := axis.val
    if !s.driveOn || !s.updateDue i then s
    else
      let u := s.nextUpdate i
      let s := s.modPwm i (fun w => { w with
        updateXt := u, period := s.par i P.curPeriodTicks * tickUnits, sample := w.sample + 1
        shuntTriggers := 0, echo := [], codes := [] })
      let s := s.loadDuties i
      let s := s.modFlags i (fun f => { f with old := none })
      (s.lossReport i).stopAtUpdate i)

/-- The sample instants of the carrier period in progress, ns from its update point, as the PWM unit placed them (R41, R265). -/
def State.sampleInstants (s : State) (i : Nat) : Rat × Rat :=
  let c := s.focCfg i
  c.instants (windowShift c.windowNs c.guard_ c.pNs (s.getPwm i).loaded)

/-- SHUNT_SAMPLE (R41, R102): a trigger at a placed sample instant, none later than the period centre; the second latches the
quadrature count. -/
def execShuntSample (axis : Fin 32) (s : State) : Out :=
  .next (
    let i := axis.val
    let w := s.getPwm i
    let p := s.sampleInstants i
    let due := w.updateXt + unitsOfNs (if w.shuntTriggers = 0 then p.1 else p.2)
    if 2 ≤ w.shuntTriggers ∨ (s.xt16 : Int) + tickUnits < due ∨ due + tickUnits < s.xt16 then s
    else
      let s := s.setPwm i { w with shuntTriggers := w.shuntTriggers + 1 }
      if w.shuntTriggers = 0 then s
      else s.modQuad i (fun q => { q with
        latched := ((q.count, (s.xt16 : Int) - unitsOfNs (s.quadDelay i), q.correction) :: q.latched).take 17, correction := 0 }))

/-- SHUNT_RESULT (R49): a conversion result arrives in engine memory. -/
def execShuntResult (axis : Fin 32) (code : Fin 16384) (s : State) : Out :=
  .next (s.modPwm axis.val (fun w => { w with codes := (w.codes ++ [signedOf 14 code.val]).take 2 }))

/-- One write of an application core into a parameter page: bytes, and the sequence word that completes the buffer (R202). -/
def State.writePage (le i : Nat) (s : State) (w : PageWrite) : State :=
  let a := s.slotBase i + 0x3000 + 1024 * w.point.val + 512 * b2n w.second + w.offset.val
  let s := s.modEngine le (fun e => e.store a (w.bytes.take (512 - w.offset.val)))
  match w.seq with
  | some n => s.modFlags i (fun f => { f with pageSeq := mset f.pageSeq (2 * w.point.val + b2n w.second) (n + 1) 0 })
  | none => s

/-- The state as the sample in progress sees it: a sample whose update point lies before the boundary of a change still uses what was
in force before (R48). -/
def State.sampleView (s : State) (i : Nat) : State :=
  match (s.getFlags i).old with
  | some (c, h) => ({ s with cfg := c }).modFlags i (fun f => { f with hooks := h })
  | none => s

/-- The state after such a sample, with what is in force since the boundary. -/
def State.sampleBack (now done : State) (i : Nat) : State :=
  match (now.getFlags i).old with
  | some _ => ({ done with cfg := now.cfg }).modFlags i (fun f => { f with hooks := (now.getFlags i).hooks })
  | none => done

/-- Deadline of the computation of the carrier period in progress, XT.16: t_wd before its end (R44, R49, R51). -/
def State.deadline (s : State) (i : Nat) : Nat := (s.getPwm i).updateXt + (s.getPwm i).period - 400 * 65536

/-- The computation of a sample on engine `le`, released into the engine's queue (R42, R51). One that still holds the axis's
previous sample has run past its budget (R47). -/
def State.releaseOn (s : State) (le i : Nat) (hook : HookOut) : State :=
  let s := if (s.getEngine le).holds i then s.endComputation le i else s
  let s := hook.pages.foldl (State.writePage le i) s
  let v := s.sampleView i
  let v := (v.releaseSample i hook).queueComputation le i (v.deadline i)
  (s.sampleBack v i).eccFound le hook.ecc

/-- The release point of the sample in progress has come and its sample is not yet released (R42); the engines compute in Ramble
(R770). -/
def State.releaseDue (s : State) (i : Nat) : Bool :=
  s.power.state == .ramble && !s.released i && (s.getPwm i).sample != 0 && !decide (s.xt16 + tickUnits < s.releaseXt i)

/-- AXIS_RELEASE (R42): the engine computes the sample. On an axis that no engine hosts the measured position and speed alone are
formed (R110). -/
def execAxisRelease (axis : Fin 32) (hook : HookOut) (s : State) : Out :=
  .next (
    let i := axis.val
    if !s.releaseDue i then s
    else match (s.getFlags i).engine with
    | none => ((s.modFlags i (fun f => { f with released := (s.getPwm i).sample })).sampleFeedback i).noteSample i
    | some le =>
      let e := (s.getEngine le).state
      if e == .run || e == .draining then s.releaseOn le i hook else s)

/-- SEGMENT_STARVED_STOP (R55). -/
def execSegmentStarvedStop (axis : Fin 32) (s : State) : Out :=
  .next (
    match (s.getLoop axis.val).state, (s.getFlags axis.val).starvedSince with
    | .enabled, some t => if s.expired t (msTicks 2) then s.axisFault axis.val 0x10 else s
    | _, _ => s)

/-- The computation in progress on an engine has run the declared worst-case cycle count of its axis: at 1.2 GHz 75 cycles pass in 4
ticks (R47, R203). -/
def State.overBudget (s : State) (le i : Nat) : Bool :=
  (s.getEngine le).running == some i && decide (s.declaredCycles i * 4 ≤ 75 * (s.tick - (s.getEngine le).startTick))

/-- BUDGET_OVERRUN (R47): the computation in progress is stopped without a commit. -/
def execBudgetOverrun (axis : Fin 32) (s : State) : Out :=
  .next (
    let i := axis.val
    match (s.getFlags i).engine with
    | none => s
    | some le => if s.overBudget le i then s.endComputation le i else s)

/-- What LE_ESR tells of the hooks of a sample before its duties are committed (R185, R237, R238). -/
def State.readEsr (s : State) (i le : Nat) : State :=
  let v := (s.getEngine le).esr.toNat
  let ovf := decide (bits v 15 12 ≠ 0)
  let ext := decide (bits v 11 8 ≠ 0)
  let was := (s.getFlags i).outputSaturated
  let s := (s.bumpIf ovf i C.leAccOvf).bumpIf (ext && !was) i C.leExtSat
  if (ovf || ext) && !was then s.noteSaturation i true else s

/-- The first commit of a migrated axis's target engine completes the migration (R799). -/
def State.migrated (s : State) (i : Nat) : State :=
  match s.power.migrations.find? (fun g => g.axis == i && g.moved) with
  | none => s
  | some g =>
    let s := s.modPower (fun p => { p with migrations := p.migrations.erase g })
    let s := ((s.bump (epEngine g.source) C.leMigrateOut).bump (epEngine g.target) C.leMigrateIn).log i 0x0C02 (dat 0 g.source + dat 1 g.target)
    s.finishOpt g.cmd E.ok (leFt8 (ft8Of g.b))

/-- The computation in progress on an engine has come to its duty commit: the hooks before it have returned (R198). -/
def Engine.atCommit (e : Engine) (i : Nat) : Bool :=
  (e.state == .run || e.state == .draining) && e.running == some i && !e.committed && e.hook.isNone && e.hooksLeft.all (fun h => h.1 == 3)

/-- The duties reach the PWM unit, in time up to t_wd before the next update point; with the STO line asserted none are committed
(R44, R58). -/
def State.commitDuties (s : State) (le i : Nat) : State :=
  match (s.getFlags i).outDuties with
  | none => s
  | some d =>
    let s := s.modFlags i (fun f => { f with outDuties := none })
    if (s.getFlags i).sto then s
    else
      let s := (s.readEsr i le).migrated i
      if s.xt16 + 400 * 65536 ≤ s.nextUpdate i then s.modPwm i (fun w => { w with committed := some d })
      else s.modPwm i (fun w => { w with late := true })

/-- DUTY_COMMIT (R44, R58, R198): the duties are committed; HOOK_POST is called, or the computation is complete. -/
def execDutyCommit (axis : Fin 32) (s : State) : Out :=
  .next (
    let i := axis.val
    match (s.getFlags i).engine with
    | none => s
    | some le =>
      if (s.getEngine le).atCommit i then
        ((s.commitDuties le i).modEngine le (fun e => { e with committed := true })).proceed le
      else s)

/-! ### ENABLING (R241, R274, R298 to R301) -/

/-- PRECHARGE_DONE (R241, R274). -/
def execPrechargeDone (axis : Fin 32) (s : State) : Out :=
  .next (
    let i := axis.val
    let l := s.getLoop i
    if l.state = .enabling ∧ l.enableStep = 0 ∧ s.passed l.enableTick (usTicks (max 10 (s.parF i P.prechargeTime))) = true then
      s.modLoop i (fun l => { l with enableStep := 1, enableTick := s.tick })
    else s)

/-- The offset calibration of a converter from 256 codes: shunt_offset and its warning (R274, R275). -/
def State.calibrated (f : Foc) (codes : List Int) (limit : Rat) : Foc :=
  let m : Rat := (codes.sum : Rat) / 256
  { f with shuntOffset := m, offsetWarn := decide (limit < rabs m) }

/-- The sensorless start begins to listen (R298). -/
def State.beginListen (s : State) (i : Nat) : State :=
  s.modFoc i (fun f => { f with
    listenFrom := some s.tick, braking := false, catch_ := .none_, polTests := 0, smallSince := none, weakRun := 0
    holdFrom := none, sigma := true, polRun := none, obs := { f.obs with locked := false, lockRun := 0, badRun := 0 } })

/-- Offset calibration of a servo axis ends, and with it the precharge of the low-side gates (R241, R274). -/
def State.servoCalibrated (s : State) (i : Nat) (codes : List Int) : State :=
  let l := s.getLoop i
  if l.state = .enabling ∧ l.enableStep = 1 ∧ codes.length = 256 then
    let s := s.modFoc i (fun f => State.calibrated f codes 164)
    let f := s.getFoc i
    let s := if f.offsetWarn then s.log i 0x0406 (lowBits 16 f.shuntOffset.floor) else s
    let s := s.modLoop i (fun l => { l with enableStep := 2, enableTick := s.tick })
    let s := s.gates i (s.par i P.fbSource == 0)
    if s.par i P.fbSource = 0 then s.beginListen i else s.modFoc i (fun f => { f with catch_ := .none_ })
  else s

/-- ENABLE_TIMEOUT (R241). -/
def execEnableTimeout (axis : Fin 32) (s : State) : Out :=
  .next (
    let i := axis.val
    let l := s.getLoop i
    if l.state = .enabling ∧ l.stop = none ∧ s.expired l.enableFrom (msTicks (s.parF i P.enableTimeout)) = true then
      s.axisFault i 0x0E
    else s)

/-- Listening is over: locked with enough back-EMF, or 20 ms have passed (R298). -/
def State.listenOver (s : State) (f : Foc) (emfMin : Rat) : Bool :=
  let mag := norm (ofQ8 f.obs.eAl, ofQ8 f.obs.eBe)
  match f.listenFrom with
  | some t => (f.obs.locked && decide (emfMin ≤ mag)) || s.passed t (msTicks 20)
  | none => false

/-- End of a servo axis's listening (R299 to R301). -/
def State.servoListenEnd (s : State) (i : Nat) : State :=
  let c := s.focCfg i
  let f := s.getFoc i
  let emf := s.parF i P.listenEmfMin
  if (s.getLoop i).state ≠ .enabling ∨ !(s.listenOver f emf) then s
  else
    let mag := norm (ofQ8 f.obs.eAl, ofQ8 f.obs.eBe)
    let dir : Rat := if s.parZ i P.catchDirection < 0 then -1 else 1
    let sp := dir * obsSpeed c f.obs / c.wb
    let th := s.parF i P.catchThreshold
    let s := s.modFoc i (fun f => { f with listenFrom := none })
    if mag < emf ∨ (f.obs.locked = true ∧ rabs sp < th) then
      s.modFoc i (fun f => { f with catch_ := .fromStandstill, smallSince := none, polTests := 0 })
    else if !f.obs.locked then s.axisFault i 0x0C
    else
      let s := s.bump i C.focCatch
      if th ≤ sp then
        let s := (s.modFoc i (fun f => { f with catch_ := .caught })).enterEnabled i
        s.holdAsVel i (s.axisPos i) (s.getFb i).vel (s.getFb i).posXt
      else
        let s := s.modFoc i (fun f => { f with braking := true, catch_ := .braked })
        s.modLoop i (fun l => { l with vs := (s.getFb i).vel, wh := 0, vr := 0 })

/-- A sensorless start waits for its polarity test (R291, R299). -/
def State.awaitsPolarity (s : State) (i : Nat) : Bool :=
  let l := s.getLoop i
  let f := s.getFoc i
  l.state == .enabling && l.enableStep == 2 && s.par i P.fbSource == 0 && f.listenFrom.isNone && !f.braking &&
    f.catch_ == .fromStandstill && f.polRun.isNone

/-- POLARITY_TEST (R291): the test begins once |ε_h| has stayed small for 2 ms; the samples that follow run it. -/
def execPolarityTest (axis : Fin 32) (_posPeak _negPeak : Held) (s : State) : Out :=
  .next (
    let i := axis.val
    let due := match (s.getFoc i).smallSince with
      | some t => s.passed t (msTicks 2)
      | none => false
    if s.awaitsPolarity i && due then s.modFoc i (fun f => { f with polRun := some 0, polPeaks := (0, 0) }) else s)

/-! ### Standstill and the end of stops (R245, R246) -/

/-- STANDSTILL (R245): the speed has stayed low for standstill_time. -/
def execStandstill (axis : Fin 32) (s : State) : Out :=
  .next (
    let i := axis.val
    match (s.getFlags i).slowSince with
    | none => s
    | some (t, stamp) =>
      if !(s.passed t (msTicks (s.parF i P.standstillTime))) then s
      else
        let s := s.modFlags i (fun f => { f with standstill := true })
        match (s.getLoop i).state with
        | .stopping => s.rampDone i stamp
        | .enabling =>
          if (s.getFoc i).braking then (s.modFoc i (fun f => { f with braking := false })).enterEnabled i else s
        | .enabled =>
          if (s.getTrail i).reportDue.isSome && (s.getLoop i).stop.isNone && (s.getLoop i).vs == 0 then
            s.writeReport i (s.axisPos i) (s.posSound i)
          else s
        | _ => s)

/-- STOP_TIMEOUT (R246): the stop ends in category 0 at the next update point. -/
def execStopTimeout (axis : Fin 32) (s : State) : Out :=
  .next (
    let i := axis.val
    let l := s.getLoop i
    match l.state, l.stop with
    | .stopping, some w =>
      if w.atUpdate || !(s.expired w.fromTick (msTicks (s.parF i P.stopTimeout))) then s
      else
        let s := if l.faultCause = 0 then s.recordCause i 0x0F else s
        let s := s.modTrail i (fun t => { t with reportDue := t.reportDue.map (fun r => { r with cause := 2, category := 0 }) })
        s.modLoop i (fun l => { l with stop := some { w with cat := 0, byFault := true, atUpdate := true } })
    | _, _ => s)

/-! ### Lines and faults of a servo axis (R57, R250, R297) -/

/-- The STO line of a servo axis is asserted (R57, R58). -/
def State.servoSto (s : State) (i : Nat) : State :=
  let s := s.modFlags i (fun f => { f with sto := true, outDuties := none })
  let s := (s.gates i false).modPwm i (fun w => { w with committed := none })
  s.axisFault i 0x0D

/-- The gate-driver fault input of a servo axis changes (R250). -/
def State.servoGateFault (s : State) (i : Nat) (active : Bool) : State :=
  let s := s.modFlags i (fun f => { f with gateFault := active, gateDue := f.gateDue || active })
  if active then s.gates i false else s

/-- Data of OBSERVER_LOST (R563). -/
def State.lostData (s : State) (c : FocCfg) (f : Foc) : Nat :=
  ratToF32 (obsSpeed c f.obs) + dat 4 (ratToF32 (ofQ8 f.obs.peak)) + dat 8 (s.holdUs f)

/-- obs_hold_time of a servo axis expires without lock: the axis coasts and faults (R297). -/
def State.servoHoldEnd (s : State) (i : Nat) : State :=
  let f := s.getFoc i
  match f.holdFrom with
  | some t =>
    if s.expired t (msTicks (s.parF i P.obsHoldTime)) && !f.obs.locked then
      let s := s.log i 0x0407 (s.lostData (s.focCfg i) f)
      let s := s.modFoc i (fun f => { f with holdFrom := none })
      (s.gates i false).axisFault i 0x0C
    else s
  | none => s

end Sys2Proof.Machine
end

