-- ==== Sys2Proof/Machine/Stepper.lean ====
section
/-! DEFINITION. Stepper channels (09_steppers.md): the setpoint over a grid period, microsteps, current in force, the chopper
and voltage mode, conversions and the states of a channel (R418 to R443). Currents and voltages are exact rationals
(log entry 7). -/

namespace Sys2Proof.Machine

/-! ### Setpoint (R420, R55) -/

/-- 2 µs in FT.16 units: t_srel (R443). -/
def stpRelUnits : Nat := 2000 * 65536

/-- STEPPER_RELEASE (R420): the setpoint at t_{k+1}, t_srel before the grid instant t_k. -/
def execStepperRelease (ch : Fin 32) (s : State) : Out :=
  .next (
    let i := ch.val
    let ep := epStepper i
    let c := s.getStepper i
    let n := s.par ep P.stpPeriodTicks
    let tk := gridAtOrBefore n (s.par ep P.stpPhaseTicks) (s.xt16 + stpRelUnits + tickUnits)
    if c.state ≠ .enabled ∨ (tk ≤ c.tk ∧ c.tk ≤ s.xt16 + stpRelUnits + tickUnits) then s
    else
      let t1 := tk + n * tickUnits
      let r := s.setpointAt ep (ft16Of t1)
      let m := r.2.1
      let since := if r.2.2 then none else some (c.starvedSince.getD s.tick)
      let s := r.1.modStepper i (fun c => { c with
        pk := if c.halted then (c.pk.1, 0) else c.pk1, pk1 := (m.p, m.v), tk := tk, halted := false, rateLimited := false
        starvedSince := since
        stillSince := if m.v = 0 ∧ (c.halted = true ∨ (c.pk1.2 = 0 ∧ c.pk1.1 = m.p)) then
          some (c.stillSince.getD (s.tick + (tk - s.xt16) / tickUnits)) else none })
      let s := s.bumpIf (!r.2.2) ep C.trjStarved
      let late := match since with
        | some t0 => s.expired t0 (msTicks 2)
        | none => false
      if late then s.stpFault i [6] else s.trailRest ep)

/-! ### Current in force and coil setpoints (R425 to R427) -/

/-- Current in force now (R427). -/
def State.stpCurrent (s : State) (i : Nat) : Rat :=
  let c := s.getStepper i
  match c.ramp with
  | some (a, b, t) =>
    let d := msTicks (s.parF (epStepper i) P.stpIRamp)
    let u : Rat := ((s.tick - t : Nat) : Rat)
    if d ≤ u then b else a + (b - a) * u / d
  | none => c.iForce

/-- The current in force ramps to a value (R427). -/
def State.stpRampTo (s : State) (i : Nat) (amps : Rat) (hold : Bool) : State :=
  let now := s.stpCurrent i
  s.modStepper i (fun c => { c with iForce := amps, ramp := some (now, amps, s.tick), holdCurrent := hold })

/-- Entry `j` of the microstep table. -/
def State.stpEntry (s : State) (i j : Nat) : Nat := s.par (epStepper i) P.stpTable / 2 ^ (16 * j) % 65536

/-- Electrical index of a microstep count (R426). -/
def State.stpIndex (s : State) (i : Nat) (count : Int) : Nat :=
  let e := epStepper i
  let k := if s.par e P.stpInvert = 1 then -count else count
  ((k * 1024 / (s.par e P.stpMicrosteps : Int) + s.par e P.stpElecOffset) % 4096).toNat

/-- Coil amplitudes of an electrical index, in units of 1 ÷ 65,535 (R426). -/
def State.stpAmps (s : State) (i idx : Nat) : Int × Int :=
  let j := idx % 1024
  let a : Int := s.stpEntry i (1024 - j)
  let b : Int := s.stpEntry i j
  match idx / 1024 with
  | 0 => (a, b)
  | 1 => (-b, a)
  | 2 => (-a, -b)
  | _ => (b, -a)

/-- Coil setpoints now, A, truncated to 2^-24 A (R426). -/
def State.stpSetpoints (s : State) (i : Nat) : Rat × Rat :=
  let a := s.stpAmps i (s.stpIndex i (s.getStepper i).count)
  let f (x : Int) : Rat := ofQ8 (toQ8 (s.stpCurrent i * x / 65535))
  (f a.1, f a.2)

/-- Rates of the coil setpoints, A/s, at a commanded velocity: the step of the table at the present index times the indices passed in a
second (R431; log entry 95). -/
def State.stpSlope (s : State) (i : Nat) (count : Int) (v : Rat) : Rat × Rat :=
  let e := epStepper i
  let k := s.stpIndex i count
  let a := s.stpAmps i k
  let b := s.stpAmps i ((k + 1) % 4096)
  let rate := v * (s.par e P.stpFullSteps : Nat) * 1024 * (if s.par e P.stpInvert = 1 then -1 else 1)
  let f (x y : Int) : Rat := s.stpCurrent i * (y - x : Int) / 65535 * rate
  (f a.1 b.1, f a.2 b.2)

/-! ### The chopper (R428, R429) -/

/-- DAC code of a threshold in A (R419). -/
def State.stpDac (s : State) (i : Nat) (x : Rat) : Nat :=
  (min 1023 (max 0 (x * 1023 / s.parF (epStepper i) P.stpIFullscale).floor)).toNat

/-- A coil of a channel. -/
def Stepper.coil (c : Stepper) (b : Bool) : Coil := if b then c.coilB else c.coilA

/-- A coil changed. -/
def State.modCoil (s : State) (i : Nat) (b : Bool) (g : Coil → Coil) : State :=
  s.modStepper i (fun c => if b then { c with coilB := g c.coilB } else { c with coilA := g c.coilA })

/-- The bridge that drives in the sign of a setpoint. -/
def driveSign (x : Rat) : Bridge := if x < 0 then .driveNeg else .drivePos

/-- A coil begins its on phase. -/
def State.coilOn (s : State) (i : Nat) (b : Bool) : State :=
  let h := s.parF (epStepper i) P.stpHyst
  s.modCoil i b (fun k => { k with
    bridge := driveSign k.set_, off := false, since := s.tick, changed := s.tick, dac := s.stpDac i (rabs k.set_ + h / 2 + k.offset) })

/-- A coil begins its off phase: slow decay, or fast decay where one is due (R429). -/
def State.coilOff (s : State) (i : Nat) (b : Bool) : State :=
  let h := s.parF (epStepper i) P.stpHyst
  let fast := decide (0 < s.parF (epStepper i) P.stpFastTime)
  s.modCoil i b (fun k => { k with
    bridge := if k.fast && fast then driveSign (-k.set_) else .slow, off := true, since := s.tick, changed := s.tick
    dac := s.stpDac i (rabs k.set_ - h / 2 + k.offset) })

/-- The coils of a channel carry current in chopper mode. -/
def State.chopping (s : State) (i : Nat) : Bool :=
  let c := s.getStepper i
  (c.state == .enabling || c.state == .enabled) && s.par (epStepper i) P.stpRegMode == 0

/-- A coil in fast decay goes on in slow decay after stp_fast_time, or once |I*| has been reached (R429). -/
def State.fastOver (s : State) (i : Nat) (b : Bool) : State :=
  let fastDone (k : Coil) : Bool := k.off && (k.bridge == .drivePos || k.bridge == .driveNeg) &&
    (!k.fast || s.passed k.since (nsTicks (s.parF (epStepper i) P.stpFastTime)))
  if !s.chopping i then s
  else s.modCoil i b (fun k => if fastDone k then { k with bridge := .slow, changed := s.tick } else k)

/-- The coil setpoints follow the count and the current in force; a microstep that lowers |I*| and a change of sign ask for fast decay
until |I*| is reached (R429). -/
def State.stpSetCoils (s : State) (i : Nat) (step : Bool := false) : State :=
  let p := s.stpSetpoints i
  let h := s.parF (epStepper i) P.stpHyst
  let chop := s.chopping i
  let upd (b : Bool) (x : Rat) (s : State) : State :=
    s.modCoil i b (fun k =>
      let fast := k.fast || (step && decide (rabs x < rabs k.set_)) || decide (rsgn x * rsgn k.set_ < 0)
      let dac := s.stpDac i (rabs x + (if k.off then -(h / 2) else h / 2) + k.offset)
      let k := { k with set_ := x, fast := fast }
      if chop then { k with dac := dac, bridge := if k.off then k.bridge else driveSign x } else k)
  ((upd true p.2 (upd false p.1 s)).fastOver i false).fastOver i true

/-- CHOPPER_TRIP (R428, R429): the comparator trips; ignored for stp_blank after a bridge change, and in an off phase until stp_toff_min:
a comparator that stays tripped then trips again (log entry 95). A trip of the off phase has reached |I*|. -/
def execChopperTrip (ch : Fin 32) (coilB : Bool) (s : State) : Out :=
  .next (
    let i := ch.val
    let e := epStepper i
    let s := s.fastOver i coilB
    let k := (s.getStepper i).coil coilB
    if !s.chopping i || k.bridge == .inactive || !(s.passed k.changed (nsTicks (s.parF e P.stpBlank))) then s
    else if !k.off then s.coilOff i coilB
    else if s.passed k.since (nsTicks (s.parF e P.stpToffMin)) then (s.modCoil i coilB (fun k => { k with fast := false })).coilOn i coilB
    else s)

/-- CHOPPER_TOFF_MAX (R428). -/
def execChopperToffMax (ch : Fin 32) (coilB : Bool) (s : State) : Out :=
  .next (
    let i := ch.val
    let k := (s.getStepper i).coil coilB
    let e := epStepper i
    if s.chopping i && k.off && k.bridge != .inactive && s.passed k.since (usTicks (s.parF e P.stpToffMax)) then
      (s.coilOn i coilB).bump e C.stpToffMax
    else s)

/-! ### Microsteps (R422, R423, R427) -/

/-- The microstep count the commanded position asks for (R422). The step of POS_SET or homing moves no microstep (R355; log entry
95). -/
def State.stpTarget (s : State) (i : Nat) : Int :=
  ((s.stpCommanded i).p - (s.getTrail (epStepper i)).posOffset) * (s.stpRes i : Int) / 4294967296

/-- MICROSTEP (R422, R423): one microstep toward the commanded count. -/
def execMicrostep (ch : Fin 32) (s : State) : Out :=
  .next (
    let i := ch.val
    let e := epStepper i
    let c := s.getStepper i
    let d := s.stpTarget i - c.count
    if c.state ≠ .enabled ∨ c.halted = true ∨ d = 0 then s.modStepper i (fun c => { c with behind := false })
    else if s.par e P.stpBacklogMax < d.natAbs then s.stpFault i [2]
    else
      let held := decide (1 < d.natAbs)
      let s := (s.modStepper i (fun c => { c with rateLimited := c.rateLimited || held, behind := held })).bumpIf (held && !c.behind) e C.stpRateLimit
      if !(s.passed c.stepTick (nsTicks 500)) then s
      else
        let s := if c.holdCurrent then s.stpRampTo i (s.parF e P.stpIRun) false else s
        let n := c.count + (if 0 < d then 1 else -1)
        let s := s.modStepper i (fun c => { c with
          count := n, stepTick := s.tick, stillSince := none, steps := ((s.xt16, n, c.count) :: c.steps).take 4096 })
        s.stpSetCoils i true)

/-- STEPPER_IDLE_TIMEOUT (R427). -/
def execStepperIdleTimeout (ch : Fin 32) (s : State) : Out :=
  .next (
    let i := ch.val
    let e := epStepper i
    let c := s.getStepper i
    match c.state, c.stillSince with
    | .enabled, some t =>
      if !c.holdCurrent && s.passed t (msTicks (s.parF e P.stpIdleTime)) then
        (s.stpRampTo i (s.parF e P.stpIHold) true).stpSetCoils i
      else s
    | _, _ => s)

/-! ### Conversions and voltage mode (R419, R430 to R432) -/

/-- A monitored current in A: the 12-bit code in offset binary about 2,048, full scale stp_i_fullscale (log entry 42). -/
def State.stpAmpsOf (s : State) (i code : Nat) : Rat := ((code : Int) - 2048 : Int) * s.parF (epStepper i) P.stpIFullscale / 2048

/-- The adaptive offset of a coil at a conversion (R430). -/
def State.adaptOffset (s : State) (i : Nat) (b : Bool) (amps : Rat) : State :=
  let e := epStepper i
  let k := (s.getStepper i).coil b
  if rabs k.set_ < s.stpCurrent i / 10 then s
  else
    let acc := (rabs k.set_ - rabs amps) :: k.acc
    if acc.length < 4 then s.modCoil i b (fun k => { k with acc := acc })
    else
      let m := s.parF e P.stpOffsetMax
      let x := k.offset + s.parF e P.stpAdaptGain * (acc.sum / 4)
      let lim := decide (m < rabs x)
      let s := s.modCoil i b (fun k => { k with acc := [], offset := rclamp (-m) m x, limited := lim })
      s.bumpIf (lim && !k.limited) e C.stpOffsetLimit

/-- The PI correction of a coil at a conversion in voltage mode (R431). -/
def State.piCorrect (s : State) (i : Nat) (b : Bool) (amps : Rat) : State :=
  let e := epStepper i
  s.modCoil i b (fun k =>
    let err := k.set_ - amps
    let integ := if k.clamped then k.integ else k.integ + s.parF e P.stpVmKi * err * (16 / 1000000)
    { k with integ := integ, corr := s.parF e P.stpVmKp * err + integ })

/-- STEPPER_CURRENT_CONVERSION (R430 to R432). -/
def execStepperCurrentConversion (ch : Fin 32) (coilB : Bool) (code : Fin 4096) (s : State) : Out :=
  .next (
    let i := ch.val
    let e := epStepper i
    let c := s.getStepper i
    let amps := s.stpAmpsOf i code.val
    if !(c.state == .enabling || c.state == .enabled) then s
    else
      let s := s.stpSetCoils i
      if s.parF e P.stpIOvercurrent < rabs amps then s.stpFault i [1]
      else if s.par e P.stpRegMode = 0 then
        let s := s.modCoil i coilB (fun k => { k with fast := k.fast && decide (rabs k.set_ < rabs amps) })
        (s.adaptOffset i coilB amps).stpSetCoils i
      else s.piCorrect i coilB amps)

/-- STEPPER_PWM_PERIOD (R431): the duty of a coil for the carrier period. -/
def execStepperPwmPeriod (ch : Fin 32) (coilB : Bool) (s : State) : Out :=
  .next (
    let i := ch.val
    let e := epStepper i
    let c := s.getStepper i
    if !(c.state == .enabling || c.state == .enabled) || s.par e P.stpRegMode != 1 then s
    else
      let s := s.stpSetCoils i
      let c := s.getStepper i
      let v := ofQ32 (s.stpCommanded i).v
      let th : Rat := (s.stpIndex i c.count : Rat) / 4096
      let ke := s.parF e P.stpKe
      let k := c.coil coilB
      let d := s.stpSlope i c.count v
      let u := s.parF e P.stpRs * k.set_ + s.parF e P.stpLs * (if coilB then d.2 else d.1) +
        (if coilB then ke * v * Config.cosTurn th else -(ke * v * Config.sinTurn th)) + k.corr
      let vdc := s.vdcOf (s.par e P.stpDcInput) (Config.dcFullscale (s.par e P.stpDcInput))
      let m := s.parF e P.stpDutyMax
      let x := if vdc = 0 then 0 else u / vdc
      let lim := decide (m < rabs x)
      let d := rclamp (-m) m x
      let s := s.modCoil i coilB (fun k => { k with duty := d, clamped := lim, bridge := driveSign d })
      s.modStepper i (fun c => { c with dutyLimited := lim }))

/-! ### States (R435, R441) -/

/-- An accepted AXIS_ENABLE of a channel: the current at the present index ramps to stp_i_hold (R441). -/
def State.stpBegin (s : State) (i : Nat) : State :=
  let e := epStepper i
  let s := s.modStepper i (fun c => { c with
    state := .enabling, faultCause := 0, halted := true, starvedSince := none, dcLowRun := 0, rateLimited := false
    iForce := s.parF e P.stpIHold, ramp := some (0, s.parF e P.stpIHold, s.tick), holdCurrent := true
    stillSince := none, coilA := {}, coilB := {} })
  let s := s.modTrail e (fun t => { t with lastNum := 0, lastWaymark := 0 })
  let s := s.stpSetCoils i
  if s.par e P.stpRegMode = 0 then (s.coilOn i false).coilOn i true else s

/-- STEPPER_ENABLE_RAMP_DONE (R441). -/
def execStepperEnableRampDone (ch : Fin 32) (s : State) : Out :=
  .next (
    let i := ch.val
    let e := epStepper i
    let c := s.getStepper i
    match c.state, c.ramp with
    | .enabling, some (_, _, t) =>
      if !(s.passed t (msTicks (s.parF e P.stpIRamp))) then s
      else
        let s := if c.everEnabled then s else s.setUncertain i
        let s := s.modStepper i (fun c => { c with
          state := .enabled, everEnabled := true, ramp := none, halted := true, stillSince := some s.tick, tk := 0 })
        let s := ((s.openTrail e).beginPublications e).stpSetCoils i
        s.complete e opEnable E.ok
    | _, _ => s)

/-- A conversion of a channel's DC-link input (R441): codes of the faults it raises. -/
def State.stpDcLink (s : State) (i : Nat) : State :=
  let e := epStepper i
  let c := s.getStepper i
  if !(c.state == .enabling || c.state == .enabled) then s
  else
    let v := s.vdcOf (s.par e P.stpDcInput) (Config.dcFullscale (s.par e P.stpDcInput))
    let n := if v < s.parF e P.stpDcMin then c.dcLowRun + 1 else 0
    let s := s.setStepper i { c with dcLowRun := n }
    s.stpFault i ((if n = 10 then [3] else []) ++ (if s.parF e P.stpDcMax < v then [4] else []))

/-- The STO line of a channel is asserted (R57, R434). -/
def State.stpSto (s : State) (i : Nat) : State :=
  let s := s.modStepper i (fun c => { c with
    sto := true, coilA := { c.coilA with bridge := .inactive }, coilB := { c.coilB with bridge := .inactive } })
  s.stpFault i [5]

end Sys2Proof.Machine
end

