-- ==== Sys2Proof/Machine/AuxDrives.lean ====
section
/-! DEFINITION. Auxiliary drives (R303 to R313): the current sample with its speed loop, the state table, starts, retries and
faults. Quantities without a format are exact rationals (log entry 7). -/

namespace Sys2Proof.Machine

/-! ### States and faults (R311, R312) -/

/-- A drive enters a state now. -/
def State.auxEnter (s : State) (j : Nat) (st : AuxState) : State :=
  s.modAux j (fun a => { a with state := st, since := s.tick })

/-- The gates of a drive switch or go inactive. -/
def State.auxGates (s : State) (j : Nat) (on : Bool) : State := s.modAux j (fun a => { a with pwm := { a.pwm with gates := on } })

/-- A drive's regulators and observer are at rest: before a start and after a stop. -/
def AuxDrive.rest (a : AuxDrive) : AuxDrive :=
  { a with
    sub := 0, ref := 0, integ := 0, iqRef := 0, intD := 0, intQ := 0, olAngle := 0, olSpeed := 0, handoverFrom := none, hallInUse := false
    capped := false, dcLowRun := 0
    foc := { a.foc with
      holdFrom := none, listenFrom := none, vectorLimited := false, vd := 0, vq := 0
      obs := { a.foc.obs with locked := false, lockRun := 0, badRun := 0 } } }

/-- A drive in STANDBY, its gates inactive. -/
def State.auxStandby (s : State) (j : Nat) : State := ((s.modAux j AuxDrive.rest).auxGates j false).auxEnter j .standby

/-- Faults of a drive arise in one sample: the lowest code is recorded, every one logged (R312). -/
def State.auxFault (s : State) (j : Nat) (codes : List Nat) : State :=
  let a := s.getAux j
  if codes.isEmpty || a.state == .off || a.state == .faulted then s
  else
    let code := codes.foldl min 255
    let s := s.modAux j (fun a => { a.rest with faultCause := code })
    let s := (s.auxGates j false).auxEnter j .faulted
    s.log (epAux j) 0x0409 (code + dat 1 (causeMask codes))

/-- The retry rule after a loss (R311). -/
def State.auxRetry (s : State) (j : Nat) : State :=
  let a := s.getAux j
  if s.par (epAux j) P.auxRetryMax ≤ a.retries then s.auxFault j [2]
  else
    let s := s.modAux j (fun a => { a.rest with retries := a.retries + 1 })
    (s.auxGates j false).auxEnter j .retryWait

/-- AXIS_DISABLE of a drive: OFF, its gates inactive at the next update point (R311, R147). -/
def State.auxOff (s : State) (j : Nat) : State :=
  let s := s.modAux j (fun a => { a.rest with hall := { a.hall with fault := false, errors := [] } })
  s.auxEnter j .off

/-- An accepted AXIS_ENABLE of a drive. -/
def State.auxOn (s : State) (j : Nat) : State :=
  let s := s.modAux j (fun a => { a.rest with faultCause := 0, retries := 0 })
  s.auxEnter j .standby

/-! ### Demand and reference (R305 to R308) -/

/-- Speed of an endpoint's axis in turns/s. -/
def State.speedOf (s : State) (ep : Nat) : Rat :=
  if ep < 0x20 then ofQ32 (s.getFb ep).vel
  else if ep < 0x40 then ofQ32 (s.stpCommanded (ep - 0x20)).v
  else if ep < 0x50 then obsSpeed (s.auxCfg (ep - 0x40)) (s.getAux (ep - 0x40)).foc.obs
  else if 0x100 ≤ ep ∧ ep < 0x200 then ofQ32 (s.getVirt (ep - 0x100)).sp.2.1
  else if 0x200 ≤ ep ∧ ep < 0x280 then ofQ32 (((s.getRemote (ep - 0x200)).feedback.map (·.vel)).getD 0)
  else 0

/-- The demand of a drive (R305). -/
def State.auxDemandOf (s : State) (j : Nat) : Rat :=
  let e := epAux j
  if s.par e P.auxDemandSrc = 0 then s.parF e P.auxDemand
  else rclamp 0 1 (rabs (s.speedOf (s.par e P.auxFollow)) / s.parF e P.auxFollowFull)

/-- aux_curve at a demand (R305). -/
def curveAt : List (Rat × Rat) → Rat → Rat
  | [], _ => 0
  | [p], _ => p.2
  | p :: q :: t, x =>
    if x ≤ p.1 then p.2
    else if x < q.1 then p.2 + (q.2 - p.2) * (x - p.1) / (q.1 - p.1)
    else curveAt (q :: t) x

/-- Sign of aux_direction. -/
def State.auxSign (s : State) (j : Nat) : Rat := if s.par (epAux j) P.auxDirection = 1 then -1 else 1

/-- Target speed of a drive, turns/s (R305). -/
def State.auxTarget (s : State) (j : Nat) : Rat :=
  s.auxSign j * curveAt (s.curvePoints (epAux j)) (s.auxDemandOf j)

/-- The speed reference moves toward a target for `dt` seconds, or is held where it would rise at a limit (R307, R308). -/
def State.auxMoveRef (s : State) (j : Nat) (target dt : Rat) : State :=
  let e := epAux j
  let a := s.getAux j
  let target := if a.ref * target < 0 then 0 else target
  let up := decide (rabs a.ref < rabs target)
  let held := up && (a.foc.vectorLimited || decide (s.parF e P.auxSpeedMax ≤ rabs a.ref))
  let step := (if up then s.parF e P.auxAccel else s.parF e P.auxDecel) * dt
  let ref := if held then a.ref else if target < a.ref then max target (a.ref - step) else min target (a.ref + step)
  let s := s.setAux j { a with ref := ref, capped := held }
  s.bumpIf (held && !a.capped) e C.auxSpeedCap

/-! ### Starts (R306, R309, R310) -/

/-- Hall edges were accepted within the last 20 ms (R309). -/
def State.hallRecent (s : State) (h : Hall) : Bool :=
  match h.edges.head? with
  | some x => decide (s.xt16 ≤ x.xt + 20000000 * 65536)
  | none => false

/-- Angle at the centre of the present Hall sector, electrical turns (R309). -/
def hallCentre (h : Hall) : Rat := (h.angle : Rat) / pow2 32 + 1 / 12

/-- Speed of the Hall inputs in turns/s. -/
def hallTurns (c : FocCfg) (h : Hall) : Rat := ofQ32 h.speed / c.polePairs

/-- A drive starts from STANDBY (R306, R309). -/
def State.auxStart (s : State) (j : Nat) : State :=
  let e := epAux j
  let c := s.auxCfg j
  let s := (s.modAux j AuxDrive.rest).auxGates j true
  let h := (s.getAux j).hall
  if s.par e P.auxHall = 0 ∨ h.fault = true then
    (s.modAux j (fun a => { a with foc := { a.foc with listenFrom := some s.tick } })).auxEnter j .listen
  else
    let s := s.modAux j (fun a => { a with hallInUse := true, olAngle := hallCentre h })
    let v := hallTurns c h
    let sp := v / c.wb * s.auxSign j
    let th := s.parF e P.auxCatchThreshold
    if !s.hallRecent h ∨ rabs sp < th then s.auxEnter j .openLoop
    else
      let s := s.modAux j (fun a => { a with ref := v, handoverFrom := some s.tick })
      if th ≤ sp then s.auxEnter j .run else s.auxEnter j .brake

/-! ### The current sample (R303, R304) -/

/-- The drive takes its angle from the Hall inputs: a Hall start in RUN, BRAKE or STOPPING whose observer has not locked, until hall_fault sets
(R147, R309). -/
def AuxDrive.onHall (a : AuxDrive) : Bool := a.hallInUse && !a.hall.fault && !a.foc.obs.locked && (a.state == .run || a.state == .brake || a.state == .stopping)

/-- Measured speed of a drive, turns/s. -/
def AuxDrive.speed (a : AuxDrive) (c : FocCfg) : Rat :=
  if a.onHall then hallTurns c a.hall else if a.state = .openLoop ∨ a.state = .align then a.olSpeed else obsSpeed c a.foc.obs

/-- Demand and speed move the drive through its state table (R306, R310, R311). -/
def State.auxSwitch (s : State) (j : Nat) : State :=
  let e := epAux j
  let c := s.auxCfg j
  let a := s.getAux j
  let d := s.auxDemandOf j
  let on := decide (s.parF e P.auxOn ≤ d)
  let off := decide (d < s.parF e P.auxOff)
  let v := a.speed c
  match a.state with
  | .standby => if on then s.auxStart j else s
  | .listen | .align | .openLoop | .brake =>
    if off then (s.modAux j (fun a => { a with ref := v })).auxEnter j .stopping
    else if a.state = .brake ∧ rabs (v / c.wb) ≤ s.parF e P.auxCatchThreshold then
      (s.modAux j (fun a => { a with
        olSpeed := v, olAngle := if a.onHall then a.olAngle else a.foc.obs.theta, handoverFrom := none })).auxEnter j .openLoop
    else if a.state = .openLoop then
      let there := decide (s.parF e P.auxHandover * c.wb ≤ s.auxSign j * a.olSpeed)
      if there && a.foc.obs.locked then
        (s.modAux j (fun a => { a with ref := obsSpeed c a.foc.obs, handoverFrom := none })).auxEnter j .run
      else if there && a.handoverFrom.isNone then s.modAux j (fun a => { a with handoverFrom := some s.tick })
      else s
    else s
  | .run => if off then s.auxEnter j .stopping else s
  | .stopping =>
    if on then s.auxEnter j .run
    else if rabs v ≤ s.parF e P.auxStopSpeed then s.auxStandby j
    else s
  | _ => s

/-- The speed loop of every fourth current sample (R303, R308): its integrator and the q current reference. -/
def State.auxSpeedLoop (s : State) (j : Nat) (dt : Rat) : State :=
  let e := epAux j
  let c := s.auxCfg j
  let st := (s.getAux j).state
  let s := match st with
    | .run => s.auxMoveRef j (s.auxTarget j) dt
    | .stopping => s.auxMoveRef j 0 dt
    | .brake => s.modAux j (fun a => { a with capped := false, ref := rsgn a.ref * max 0 (rabs a.ref - s.parF e P.auxCatchDecel * dt) })
    | _ => s
  let a := s.getAux j
  let err := (a.ref - a.speed c) / c.wb
  let kp := s.parF e P.auxSpdKp
  let lim := if st = .brake then s.parF e P.auxCatchCurrent else s.parF e P.auxILimit
  let integ := if a.foc.vectorLimited then a.integ
    else toQ8 (rclamp (-lim) lim (ofQ8 a.integ + kp * err * dt * 1000 / s.parF e P.auxSpdTi))
  s.setAux j { a with integ := integ, iqRef := toQ8 (rclamp (-lim) lim (kp * err + ofQ8 integ)) }

/-- Speed controlled states. -/
def AuxState.speedLoop : AuxState → Bool
  | .run | .stopping | .brake => true
  | _ => false

/-- d and q current references of a drive, per unit (R298, R303, R310). -/
def State.auxRefs (s : State) (j : Nat) : Rat × Rat :=
  let e := epAux j
  let a := s.getAux j
  match a.state with
  | .align | .openLoop => (s.parF e P.auxStartCurrent, 0)
  | .run | .stopping | .brake => (0, ofQ8 a.iqRef)
  | _ => (0, 0)

/-- The frame of a drive's current loop, electrical turns. -/
def AuxDrive.angle (a : AuxDrive) : Rat :=
  match a.state with
  | .align => 0
  | .openLoop => a.olAngle
  | _ => if a.onHall then a.olAngle else a.foc.obs.theta

/-- The Hall angle of a drive at a current sample, `dt` seconds after the one before: the angle of a sector edge since then, or the
angle before it, advanced at the Hall speed (R148, R309). -/
def AuxDrive.hallAngle (a : AuxDrive) (dt : Rat) : Rat :=
  let v := ofQ32 a.hall.speed
  let on := a.olAngle + v * dt
  match a.hall.edges.head? with
  | some x => if a.pwm.updateXt ≤ x.xt + a.pwm.period then (a.hall.angle : Rat) / pow2 32 + v * secOf ((a.pwm.updateXt : Int) - x.xt) else on
  | none => on

/-- The reconstruction instant of a sample, ns from the update point of the period that has ended (R256, R264). -/
def State.auxT2 (s : State) (j : Nat) : Rat :=
  let c := s.auxCfg j
  (c.instants (windowShift c.windowNs c.guard_ c.pNs (s.getAux j).pwm.loaded)).2

/-- Measurement of a sample: currents, applied voltages and the observer (R263 to R273, R279 to R283). -/
def State.auxMeasure (s : State) (j : Nat) (c1 c2 : Int) : State :=
  let e := epAux j
  let c := s.auxCfg j
  let a := s.getAux j
  let f := a.foc
  let vdc := s.vdcOf (s.par e P.auxDcInput) (Config.dcFullscale (s.par e P.auxDcInput))
  let v := appliedVolts c vdc a.pwm.loaded f.i
  let win := windowShift c.windowNs c.guard_ c.pNs a.pwm.loaded
  let th : Rat := (f.theta : Rat) / pow2 32
  let emf (k : Nat) : Rat := if f.obs.locked then emfObs c f.obs k else emfOf c th f.obs.omega k
  let r := reconstruct c f.shuntOffset win (c.instants win) c1 c2 vdc emf f.i
  let ab := alphaBeta (ofQ8 r.i.a) (ofQ8 r.i.b) (ofQ8 r.i.c)
  let o := observerStep c f.obs ab (f.vAl, f.vBe) 1 0
  let dt := c.t
  let ol := match a.state with
    | .openLoop =>
      let goal := s.auxSign j * s.parF e P.auxHandover * c.wb
      let st := s.parF e P.auxStartAccel * dt
      if goal < a.olSpeed then max goal (a.olSpeed - st) else min goal (a.olSpeed + st)
    | _ => a.olSpeed
  let angle := if a.state = .openLoop then a.olAngle + c.polePairs * ol * dt
    else if a.onHall then a.hallAngle dt else a.olAngle
  let a := { a with olSpeed := ol, olAngle := angle, foc := { f with i := r.i, clip := r.clip, vAl := toQ8 (v.1 / c.vb), vBe := toQ8 (v.2 / c.vb), obs := o } }
  let th := turnFrac a.angle
  let dq := park ((th : Rat) / pow2 32) ab
  let s := s.setAux j { a with foc := { a.foc with theta := th, id := toQ8 dq.1, iq := toQ8 dq.2 } }
  s.bumpIf r.clip e C.focShuntClip

/-- The loss of the rotor in RUN and its end in HOLD (R294 to R296). -/
def State.auxWatch (s : State) (j : Nat) : State :=
  let e := epAux j
  let a := s.getAux j
  match a.state, a.foc.holdFrom with
  | .run, _ =>
    if a.foc.obs.badRun = 3 ∧ !a.onHall then
      let s := s.setAux j { a with foc := { a.foc with
        holdFrom := some s.tick, obs := { a.foc.obs with locked := false, lockRun := 0, peak := a.foc.obs.rho } } }
      (s.bump e C.focObsLoss).auxEnter j .hold
    else if a.foc.obs.locked ∧ a.handoverFrom.isSome then s.setAux j { a with handoverFrom := none }
    else s
  | .brake, _ => if a.foc.obs.locked ∧ a.handoverFrom.isSome then s.setAux j { a with handoverFrom := none } else s
  | .hold, some t =>
    if a.foc.obs.locked then
      let s := s.setAux j { a with foc := { a.foc with holdFrom := none } }
      let s := s.log e 0x0408 (dat 8 ((s.tick - t) / 64))
      (s.bump e C.focObsReacq).auxEnter j .run
    else s
  | _, _ => s

/-- The current loop and the duties of the next period (R257, R260, R261, R295, R303). `wasHold`: the sample began in HOLD. -/
def State.auxCurrentLoop (s : State) (j : Nat) (wasHold : Bool) : State :=
  let e := epAux j
  let c := s.auxCfg j
  let a := s.getAux j
  let f := a.foc
  let vdc := s.vdcOf (s.par e P.auxDcInput) (Config.dcFullscale (s.par e P.auxDcInput))
  let app : Rat := if wasHold then f.thetaApp + f.obs.omega * c.t / twoPi
    else (f.theta : Rat) / pow2 32 + c.polePairs * a.speed c * (c.t * 3 / 2 - s.auxT2 j / 1000000000)
  let r := s.auxRefs j
  let kp := twoPi * s.parF e P.auxCurBw * c.ld
  let ki := kp * c.rs / c.ld
  let ed := (r.1 - ofQ8 f.id) * c.ib
  let eq := (r.2 - ofQ8 f.iq) * c.ib
  let keep := wasHold || f.vectorLimited
  let intD := if keep then a.intD else toQ8 (ofQ8 a.intD + ki * ed * c.t / c.vb)
  let intQ := if keep then a.intQ else toQ8 (ofQ8 a.intQ + ki * eq * c.t / c.vb)
  let want : Rat × Rat := if wasHold then (ofQ8 f.vd, ofQ8 f.vq) else (kp * ed / c.vb + ofQ8 intD, kp * eq / c.vb + ofQ8 intQ)
  let v := if wasHold then (want, false) else limitVector (c.vLim vdc / c.vb) want
  let d := dutiesOf c vdc app v.1 f.i
  let w := a.pwm.place s c d
  let s := s.setAux j { a with
    intD := intD, intQ := intQ, pwm := w
    foc := { f with thetaApp := app, vd := toQ8 v.1.1, vq := toQ8 v.1.2, vectorLimited := v.2 } }
  ((s.bumpIf v.2 e C.focVectorLimit).bumpIf w.shifted e C.pwmWindowShift).bumpIf w.modLimited e C.pwmModLimit

/-- Faults a current sample of a drive finds (R250, R312). -/
def State.auxSampleFaults (s : State) (j : Nat) : State :=
  let e := epAux j
  let a := s.getAux j
  let v := s.vdcOf (s.par e P.auxDcInput) (Config.dcFullscale (s.par e P.auxDcInput))
  let n := if v < s.parF e P.auxDcMin then a.dcLowRun + 1 else 0
  let s := s.setAux j { a with dcLowRun := n, gateDue := a.gateFault }
  s.auxFault j ((if a.gateDue then [3] else []) ++ (if n = 10 then [4] else []))

/-- The bridge of a drive is driven. -/
def AuxState.driven : AuxState → Bool
  | .listen | .brake | .align | .openLoop | .run | .hold | .stopping => true
  | _ => false

/-- AUX_CURRENT_SAMPLE (R303): the current loop of a drive and, every fourth sample, its speed loop. -/
def execAuxCurrentSample (aux : Fin 16) (code1 code2 : Int) (s : State) : Out :=
  .next (
    let j := aux.val
    let e := epAux j
    let a := s.getAux j
    let u := gridAtOrBefore (s.par e P.auxPeriodTicks) (s.par e P.auxPhaseTicks) s.xt16
    if a.pwm.sample ≠ 0 ∧ u = a.pwm.updateXt then s
    else if a.state = .off ∨ a.state = .faulted then s.auxGates j false
    else
      let s := s.modAux j (fun a => { a with sub := (a.sub + 1) % 4, pwm := { a.pwm with
        updateXt := u, period := s.par e P.auxPeriodTicks * tickUnits, sample := a.pwm.sample + 1 } })
      let s := s.auxSampleFaults j
      let s := s.auxSwitch j
      let wasHold := (s.getAux j).state == .hold
      if !(s.getAux j).state.driven then s
      else
        let s := (s.auxMeasure j code1 code2).auxWatch j
        let s := if (s.getAux j).sub = 0 ∧ (s.getAux j).state.speedLoop = true then s.auxSpeedLoop j ((s.auxCfg j).t * 4) else s
        s.auxCurrentLoop j wasHold)

/-! ### Timers (R297 to R300, R309 to R311) -/

/-- AUX_ALIGN_DONE (R310). -/
def execAuxAlignDone (aux : Fin 16) (s : State) : Out :=
  .next (
    let j := aux.val
    let a := s.getAux j
    if a.state = .align ∧ s.passed a.since (msTicks (s.parF (epAux j) P.auxAlignTime)) = true then
      (s.modAux j (fun a => { a with olAngle := 0, olSpeed := 0, handoverFrom := none })).auxEnter j .openLoop
    else s)

/-- AUX_START_TIMEOUT (R309, R310): 200 ms without lock. -/
def execAuxStartTimeout (aux : Fin 16) (s : State) : Out :=
  .next (
    let j := aux.val
    let a := s.getAux j
    match a.handoverFrom with
    | some t => if s.expired t (msTicks 200) && !a.foc.obs.locked then s.auxFault j [1] else s
    | none => s)

/-- AUX_RETRY_DELAY (R311). -/
def execAuxRetryDelay (aux : Fin 16) (s : State) : Out :=
  .next (
    let j := aux.val
    let a := s.getAux j
    if a.state = .retryWait ∧ s.passed a.since (msTicks (1000 * s.parF (epAux j) P.auxRetryDelay)) = true then
      (s.auxStandby j).bump (epAux j) C.auxRetry
    else s)

/-- AUX_RETRY_RESET (R311): 60 s in RUN. -/
def execAuxRetryReset (aux : Fin 16) (s : State) : Out :=
  .next (
    let j := aux.val
    let a := s.getAux j
    if a.state = .run ∧ s.passed a.since (msTicks 60000) = true then s.setAux j { a with retries := 0 } else s)

/-- Listening of a drive ends (R298, R299). -/
def State.auxListenEnd (s : State) (j : Nat) : State :=
  let e := epAux j
  let c := s.auxCfg j
  let a := s.getAux j
  let f := a.foc
  let emf := s.parF e P.auxListenEmfMin
  if a.state ≠ .listen ∨ !(s.listenOver f emf) then s
  else
    let mag := norm (ofQ8 f.obs.eAl, ofQ8 f.obs.eBe)
    let v := obsSpeed c f.obs
    let sp := s.auxSign j * v / c.wb
    let th := s.parF e P.auxCatchThreshold
    let s := s.modAux j (fun a => { a with foc := { a.foc with listenFrom := none } })
    if mag < emf ∨ (f.obs.locked = true ∧ rabs sp < th) then s.auxEnter j .align
    else if !f.obs.locked then s.auxRetry j
    else
      let s := (s.modAux j (fun a => { a with ref := v })).bump e C.focCatch
      if th ≤ sp then s.auxEnter j .run else s.auxEnter j .brake

/-- aux_hold_time expires without lock: coast and the retry rule (R297, R311). -/
def State.auxHoldEnd (s : State) (j : Nat) : State :=
  let a := s.getAux j
  match a.state, a.foc.holdFrom with
  | .hold, some t =>
    if s.expired t (msTicks (s.parF (epAux j) P.auxHoldTime)) && !a.foc.obs.locked then
      (s.log (epAux j) 0x0407 (s.lostData (s.auxCfg j) a.foc)).auxRetry j
    else s
  | _, _ => s

/-- Offset calibration of a drive that is at rest (R274, R304). -/
def State.auxCalibrated (s : State) (j : Nat) (codes : List Int) : State :=
  if (s.getAux j).state = .standby ∧ codes.length = 256 then
    let s := s.modAux j (fun a => { a with foc := State.calibrated a.foc codes 41 })
    let f := (s.getAux j).foc
    if f.offsetWarn then s.log (epAux j) 0x0406 (lowBits 16 f.shuntOffset.floor) else s
  else s

/-- The STO line of a drive is asserted (R57). -/
def State.auxSto (s : State) (j : Nat) : State := ((s.modAux j (fun a => { a with sto := true })).auxGates j false).auxFault j [6]

/-- The gate-driver fault input of a drive changes (R250). -/
def State.auxGateFault (s : State) (j : Nat) (active : Bool) : State :=
  let s := s.modAux j (fun a => { a with gateFault := active, gateDue := a.gateDue || active })
  if active then s.auxGates j false else s

end Sys2Proof.Machine
end

