-- ==== Sys2Proof/Machine/Drives.lean ====
section
/-! DEFINITION. Commands and events that name an axis of any class: AXIS_ENABLE, AXIS_DISABLE, STOP, the STO lines, the
gate-driver fault inputs, offset calibration, DC-link conversions, and the ends of hold and listening. -/

namespace Sys2Proof.Machine

/-! ### Synchronised modes (R74, R344, R373) -/

/-- The axis is in a synchronised mode: a convoy member, or of a path group that spans modules. -/
def State.synchronised (s : State) (ep : Nat) : Bool :=
  let f := (s.getFollower ep).state
  f == .waiting || f == .syncing || f == .coupled || s.spans ep

/-- Endpoints of the axes that may be in a synchronised mode. -/
def syncEps : List Nat := List.range 64 ++ (List.range 384).map (· + 256)

/-- The axis is enabled: in any state but DISABLED and FAULTED. -/
def State.axisOn (s : State) (ep : Nat) : Bool :=
  if 0x40 ≤ ep ∧ ep < 0x50 then (s.getAux (ep - 0x40)).state != .off && (s.getAux (ep - 0x40)).state != .faulted
  else s.axisStateOf ep != .disabled && s.axisStateOf ep != .faulted

/-- Some axis of this module is enabled in a synchronised mode (R76). -/
def State.syncEnabled (s : State) : Bool := syncEps.any (fun ep => s.synchronised ep && s.axisOn ep)

/-- The time state lets no synchronised axis be enabled (R74). -/
def State.noTime (s : State) : Bool := s.time.state == .unset || s.time.state == .acquiring

/-! ### AXIS_ENABLE (R240, R142, R53, R312, R375, R414, R441) -/

/-- Response data of E_FAULT_AXIS (R545). -/
def faultData (table code : Nat) : List Byte := [BitVec.ofNat 8 table, BitVec.ofNat 8 code]

/-- AXIS_ENABLE of a servo axis. -/
def State.enableServo (s : State) (k i : Nat) : State :=
  if s.awaits i opEnable && (s.getLoop i).state == .disabled then s.await k i opEnable
  else if (s.getLoop i).state ≠ .disabled then s.finish k E.state
  else if (s.getFlags i).sto then s.finish k E.faultSafety (faultData 1 0x0D)
  else if (s.getFlags i).gateFault then s.finish k E.faultAxis (faultData 1 9)
  else if s.servoVdc i < s.parF i P.dcMin then s.finish k E.faultAxis (faultData 1 0x0A)
  else if s.synchronised i && s.noTime then s.finish k E.state
  else if s.comboFails i || s.attachBad i ([0, 1, 2, 3].map (fun p => s.par i P.hookKernel p)) then s.finish k E.conflict
  else
    match s.chooseEngine i with
    | none => s.finish k E.conflict
    | some le =>
      let s := (((s.placeAxis le i).attachHooks i).zeroHookData i).setRecord i []
      let s := s.await k i opEnable
      if s.par i P.fbSource = 3 then (s.modSerial i (fun p => { p with identTries := 0, outstanding := none })).identNext i
      else s.beginEnabling i

/-- AXIS_ENABLE of a stepper channel (R441). -/
def State.enableStepper (s : State) (k i : Nat) : State :=
  let e := epStepper i
  let c := s.getStepper i
  if c.state ≠ .disabled then s.finish k E.state
  else if c.sto then s.finish k E.faultSafety (faultData 3 5)
  else if s.vdcOf (s.par e P.stpDcInput) (Config.dcFullscale (s.par e P.stpDcInput)) < s.parF e P.stpDcMin then
    s.finish k E.faultAxis (faultData 3 3)
  else if s.synchronised e && s.noTime then s.finish k E.state
  else if s.comboFails e then s.finish k E.conflict
  else (s.stpBegin i).await k e opEnable

/-- AXIS_ENABLE of an auxiliary drive (R311, R312). -/
def State.enableAux (s : State) (k j : Nat) : State :=
  let e := epAux j
  let a := s.getAux j
  if a.state ≠ .off then s.finish k E.state
  else if a.sto then s.finish k E.faultSafety (faultData 2 6)
  else if a.gateFault then s.finish k E.faultAxis (faultData 2 3)
  else if s.vdcOf (s.par e P.auxDcInput) (Config.dcFullscale (s.par e P.auxDcInput)) < s.parF e P.auxDcMin then
    s.finish k E.faultAxis (faultData 2 4)
  else if s.comboFails e then s.finish k E.conflict
  else (s.auxOn j).ok k

/-- AXIS_ENABLE of a virtual axis: ENABLED in the sample of acceptance (R375). -/
def State.enableVirt (s : State) (k i : Nat) : State :=
  let e := epVirt i
  let v := s.getVirt i
  if v.state ≠ .disabled then s.finish k E.state
  else if s.synchronised e && s.noTime then s.finish k E.state
  else if s.comboFails e then s.finish k E.conflict
  else
    let s := s.setVirt i { v with
      state := .enabled, stop := none, disablePending := false, starvedSince := none, sp := (v.sp.1, 0, 0)
      sampleXt := gridAtOrBefore (s.par e P.vaPeriodTicks) (s.par e P.vaPhaseTicks) s.xt16 }
    let s := s.modTrail e (fun t => { t with lastNum := 0, lastWaymark := 0 })
    ((s.openTrail e).beginPublications e).ok k

/-- AXIS_ENABLE of a remote axis: it completes with a feedback frame (R414). -/
def State.enableRemote (s : State) (k i : Nat) : State :=
  let e := epRemote i
  let r := s.getRemote i
  if r.state ≠ .disabled then s.finish k E.state
  else if s.synchronised e && s.noTime then s.finish k E.state
  else if s.comboFails e then s.finish k E.conflict
  else (s.setRemote i { r with state := .enabling, stopBit := false, enableTick := some s.tick, fbTick := s.tick }).await k e opEnable

/-- AXIS_ENABLE (R240). -/
def execAxisEnable (ref : CmdRef) (ep : BitVec 16) (s : State) : Out :=
  .next (s.execCmd ref 0x0301 (fun k s =>
    match classOf ep.toNat with
    | some (.servo, i) => s.enableServo k i
    | some (.stepper, i) => s.enableStepper k i
    | some (.aux, j) => s.enableAux k j
    | some (.virt, i) => s.enableVirt k i
    | some (.remote, i) => s.enableRemote k i
    | _ => s.finish k E.endpoint))

/-! ### AXIS_DISABLE (R239, R240, R375, R441, R554) -/

/-- AXIS_DISABLE of a servo axis in the category asked. -/
def State.disableServo (s : State) (k i cat : Nat) : State :=
  let pend (s : State) : State :=
    let s := (s.requestStop i { cat := cat }).modLoop i (fun l => { l with disablePending := true })
    s.await k i opDisable
  match (s.getLoop i).state with
  | .disabled => s.ok k
  | .enabling => (s.await k i opDisable).enterDisabled i
  | .enabled | .stopping => pend s
  | .faulted => ((s.fbOff i).modLoop i (fun l => { l with state := .disabled, disablePending := false })).ok k

/-- AXIS_DISABLE of a virtual axis: category 0 at once, category 1 at rest (R375). -/
def State.disableVirt (s : State) (k i cat : Nat) : State :=
  match (s.getVirt i).state with
  | .enabled | .stopping =>
    let s := s.await k (epVirt i) opDisable
    let s := s.modVirt i (fun v => { v with disablePending := true })
    s.virtStop i cat 1
  | _ => s.ok k

/-- AXIS_DISABLE of a remote axis (log entry 32). -/
def State.disableRemote (s : State) (k i : Nat) : State :=
  match (s.getRemote i).state with
  | .disabled => s.ok k
  | .faulted => (s.modRemote i (fun r => { r with state := .disabled })).ok k
  | _ => ((s.await k (epRemote i) opDisable).modRemote i (fun r => { r with stopBit := true })).remoteRest i true

/-- AXIS_DISABLE (R554). -/
def execAxisDisable (ref : CmdRef) (ep : BitVec 16) (cat : Byte) (s : State) : Out :=
  .next (s.execCmd ref 0x0302 (fun k s =>
    let c := cat.toNat
    let bad := !(c == 0 || c == 1 || c == 0xFF)
    match classOf ep.toNat with
    | some (.servo, i) =>
      if bad then s.finish k E.range else s.disableServo k i (if c = 0xFF then s.par i P.disableCategory else c)
    | some (.stepper, i) =>
      if bad then s.finish k E.range
      else if (s.getStepper i).state = .disabled then s.ok k else (s.stpDisable i (min c 1)).ok k
    | some (.aux, j) =>
      if bad then s.finish k E.range else if (s.getAux j).state = .off then s.ok k else (s.auxOff j).ok k
    | some (.virt, i) => if bad then s.finish k E.range else s.disableVirt k i (if c = 0xFF then 1 else c)
    | some (.remote, i) => if bad then s.finish k E.range else s.disableRemote k i
    | _ => s.finish k E.endpoint))

/-! ### STOP (R347, R351, R353, R555) -/

/-- STOP of a servo, stepper, virtual or remote axis or a path group. -/
def execStop (ref : CmdRef) (ep : BitVec 16) (cat : Byte) (s : State) : Out :=
  .next (s.execCmd ref 0x0510 (fun k s =>
    let e := ep.toNat
    let c := cat.toNat
    if !stoppable e then s.finish k E.endpoint
    else if 2 < c then s.finish k E.range
    else if e < 0x20 then s.stopServo k e c
    else if isGroupEp e then (s.stopGroup (e - epGroup 0) c).ok k (leFt8 s.ft8)
    else (s.stopOther e c).ok k (leFt8 (s.stopFt8 e))))

/-! ### STO lines, gate faults and DC links (R57, R250, R259) -/

/-- Channel of the safety configuration's assignment: SA0-31, ST0-31, AX0-15 (R738). -/
def State.channelGroup (s : State) (ch : Nat) : Option Nat :=
  match mget s.safety.config.assign ch 0 with
  | 0 => none
  | g + 1 => some g

/-- The STO line of a channel is asserted. -/
def State.channelSto (s : State) (ch : Nat) : State :=
  if ch < 32 then s.servoSto ch else if ch < 64 then s.stpSto (ch - 32) else s.auxSto (ch - 64)

/-- The channels of a group. -/
def State.channelsOf (s : State) (g : Nat) : List Nat := (List.range 80).filter (fun ch => s.channelGroup ch == some g)

/-- STO_LINE_ASSERT (R57): while the line of the group is asserted every channel of it goes inactive. -/
def execStoLineAssert (group : Fin 8) (s : State) : Out :=
  .next (
    if (mget s.safety.groups group.val {}).released then s
    else (s.channelsOf group.val).foldl State.channelSto s)

/-- GATE_FAULT_INPUT (R250, R312): a stepper channel has no gate-driver fault input (log entry 41). -/
def execGateFaultInput (ax : GateOwner) (active : Bool) (s : State) : Out :=
  .next (
    match ax with
    | .servo i => s.servoGateFault i.val active
    | .aux j => s.auxGateFault j.val active
    | .stepper _ => s)

/-- A DC-link conversion of an input is complete: servo axes, channels and drives that use it see DC_LINK_HIGH on one
conversion (R248, R312, R441). -/
def State.dcHigh (s : State) (input : Nat) : State :=
  let s := (List.range 32).foldl (fun s i =>
    if s.par i P.dcInput = input ∧ s.parF i P.dcMax < s.servoVdc i then s.axisFault i 0x0B else s) s
  let s := (List.range 32).foldl (fun s i => if s.par (epStepper i) P.stpDcInput = input then s.stpDcLink i else s) s
  (List.range 16).foldl (fun s j =>
    let e := epAux j
    if s.par e P.auxDcInput = input ∧ s.parF e P.auxDcMax < s.vdcOf input (Config.dcFullscale input) then s.auxFault j [5] else s) s

/-- DC_LINK_CONVERSION (R259): the converters are stopped in Stroll and without power below it (R770). -/
def execDcLinkConversion (input : Fin 32) (code : Fin 65536) (s : State) : Out :=
  .next (if s.driveOn && s.power.state == .ramble then (s.setDc input.val code.val).dcHigh input.val else s)

/-! ### Offset calibration, hold and listening (R274, R297, R298) -/

/-- OFFSET_CALIBRATION_DONE (R274). -/
def execOffsetCalibrationDone (ax : GateOwner) (codes : List Int) (s : State) : Out :=
  .next (
    match ax with
    | .servo i => s.servoCalibrated i.val codes
    | .aux j => s.auxCalibrated j.val codes
    | .stepper _ => s)

/-- OBSERVER_HOLD_TIMEOUT (R297). -/
def execObserverHoldTimeout (ax : GateOwner) (s : State) : Out :=
  .next (
    match ax with
    | .servo i => s.servoHoldEnd i.val
    | .aux j => s.auxHoldEnd j.val
    | .stepper _ => s)

/-- LISTEN_END (R298 to R301, R309). -/
def execListenEnd (ax : GateOwner) (s : State) : Out :=
  .next (
    match ax with
    | .servo i => s.servoListenEnd i.val
    | .aux j => s.auxListenEnd j.val
    | .stepper _ => s)

end Sys2Proof.Machine
end

