-- ==== Sys2Proof/Machine/PtpSource.lean ====
section
/-! DEFINITION. The choice of the time source (R64, R686, R687): the data set comparison, the state of a PTP port, and the
port that a leader takes its time from. -/

namespace Sys2Proof.Machine

/-- The module is the root of its view. -/
def State.isRoot (s : State) : Bool := s.fabric.root == Config.uid

/-- The module leads its fabric. -/
def State.leads (s : State) : Bool := (s.fabric.state == .member || s.fabric.state == .solo) && s.isRoot

/-- Ethernet port that is the leader's time source (R687). -/
def State.ptpSource (s : State) : Option Nat := [0, 1].find? (fun p => (s.getEth p).ptp.source)

/-- Lexicographic order of lists of numbers. -/
def lexLess : List Nat → List Nat → Bool
  | a :: l, b :: m => decide (a < b) || (decide (a = b) && lexLess l m)
  | _, _ => false

/-- The data set comparison of IEEE 1588-2019: by grandmaster attributes, and for one grandmaster by steps removed and
sender (R686; log entry 53). -/
def announceBetter (a b : Announce) : Bool :=
  if a.gm = b.gm then lexLess [a.steps, a.sender.toNat, a.senderPort] [b.steps, b.sender.toNat, b.senderPort]
  else lexLess [a.prio1, a.cls, a.accuracy, a.variance, a.prio2, a.gm.toNat] [b.prio1, b.cls, b.accuracy, b.variance, b.prio2, b.gm.toNat]

/-- State of a PTP port: DISABLED without a profile, FAULTY without a link, LISTENING without a master, UNCALIBRATED until its
path delay is measured, else SLAVE (R685, R686). -/
def State.ptpStateOf (s : State) (p : Nat) : PtpState :=
  let e := s.getEth p
  if s.par (epEth p) P.ptpProfile = 0 then .disabled
  else if !e.linkUp then .faulty
  else if e.ptp.master.isNone then .listening
  else if e.ptp.delay.isNone then .uncalibrated
  else .slave

/-- The port's PTP changed and its state formed again. -/
def State.modPtp (s : State) (p : Nat) (g : PtpPort → PtpPort) : State :=
  let s := s.modEth p (fun e => { e with ptp := g e.ptp })
  let st := s.ptpStateOf p
  s.modEth p (fun e => { e with ptp := { e.ptp with state := st } })

/-- Ports in SLAVE with their masters. -/
def State.slaves (s : State) : List (Nat × Announce) :=
  [0, 1].filterMap (fun p => match (s.getEth p).ptp.state, (s.getEth p).ptp.master with
    | .slave, some a => some (p, a)
    | _, _ => none)

/-- The port whose master wins; between equal masters port A (R687). -/
def bestSlave (l : List (Nat × Announce)) : Option Nat :=
  (l.foldl (fun (b : Option (Nat × Announce)) x => match b with
    | none => some x
    | some y => if announceBetter x.2 y.2 then some x else b) none).map (·.1)

/-- The source the leader takes: the port in use while it is in SLAVE and the other has not won for ptp_announce_timeout
announce intervals, else the best port in SLAVE (R687). -/
def State.ptpChoice (s : State) : Option Nat :=
  if !s.leads then none
  else
    let l := s.slaves
    match s.ptpSource with
    | some p =>
      let q := 1 - p
      if !(l.any (fun x => x.1 == p)) then bestSlave l
      else if l.any (fun x => x.1 == q) && decide (s.par (epEth q) P.ptpAnnounceTimeout ≤ (s.getEth q).ptp.wins) then some q
      else some p
    | none => bestSlave l

/-- The time source follows the election, the fabric and PTP (R64, R687): a new grandmaster is logged and no step is made. -/
def State.followTime (s : State) : State :=
  let was := s.ptpSource
  let c := s.ptpChoice
  if c = was then s.setTimeSource s.leads c s.fabric.parent
  else
    let s := [0, 1].foldl (fun s p => s.modEth p (fun e => { e with ptp := { e.ptp with source := c == some p, wins := 0 } })) s
    let s := s.setTimeSource s.leads c s.fabric.parent
    match c with
    | some p => match (s.getEth p).ptp.master with
      | some a => s.log (epEth p) 0x0A04 (dat 0 a.gm.toNat)
      | none => s
    | none => s

end Sys2Proof.Machine
end

