-- ==== Sys2Proof/Machine/Routes.lean ====
section
/-! DEFINITION. What the leader computes of the fabric (15_yunadra_fabric.md): device numbers, the spanning tree, routes,
convoy masks and repairs (R642, R644, R650 to R652, R656, R661). -/

namespace Sys2Proof

/-- The links a module reports. -/
def ReportEntry.links (e : ReportEntry) : List (Nat × BitVec 64 × Nat) :=
  ((List.range 4).map (fun p => (p, e.neigh.getD p 0, e.delay.getD p 0))).filter (fun x => x.2.1 != 0)

end Sys2Proof

namespace Sys2Proof.Machine

/-! ### Device numbers (R644) -/

/-- A device number that can be assigned (R14, R15). -/
def assignable (n : Nat) : Bool := n != 0 && decide (n ≤ 0xFFF)

/-- Keep present numbers, one module at a time in ascending identifier order (R644 pass 1). -/
def keepNumbers (l : List ReportEntry) : List (BitVec 64 × Nat) :=
  l.foldl (fun a e => if assignable e.present && !(a.any (fun x => x.2 == e.present)) then a ++ [(e.uid, e.present)] else a) []

/-- Grant preferred numbers (R644 pass 2). -/
def preferNumbers (l : List ReportEntry) (a : List (BitVec 64 × Nat)) : List (BitVec 64 × Nat) :=
  l.foldl (fun a e =>
    if a.any (fun x => x.1 == e.uid) then a
    else if assignable e.preferred && !(a.any (fun x => x.2 == e.preferred)) then a ++ [(e.uid, e.preferred)] else a) a

/-- The lowest free device number; none when all 4,095 are taken (R15). -/
def lowestFree (a : List (BitVec 64 × Nat)) : Option Nat :=
  ((List.range (min 4095 (a.length + 1))).find? (fun i => !(a.any (fun x => x.2 == i + 1)))).map (· + 1)

/-- Give the lowest free numbers, or refuse (R644 pass 3). -/
def freeNumbers (l : List ReportEntry) (a : List (BitVec 64 × Nat)) : List (BitVec 64 × Nat) :=
  l.foldl (fun a e => if a.any (fun x => x.1 == e.uid) || e.strict then a else a ++ ((lowestFree a).map (fun n => (e.uid, n))).toList) a

/-- The result of the three passes: modules of the own fabric rank before joining ones, each in ascending identifier order
(R644, R649). -/
def assignNumbers (own joining : List ReportEntry) : List AssignEntry :=
  let up (l : List ReportEntry) := sortBy (fun a b => decide (a.uid.toNat ≤ b.uid.toNat)) l
  let l := up own ++ up joining
  let a := freeNumbers (up l) (preferNumbers (up l) (keepNumbers l))
  l.map (fun e => match a.find? (fun x => x.1 == e.uid) with
    | some x => { uid := e.uid, device := x.2, result := if x.2 = e.preferred then 0 else 1 }
    | none => { uid := e.uid, device := 0, result := 2 })

/-! ### The graph -/

/-- A module of the graph: identifier, device number and links as port, neighbour identifier and delay in ns. -/
structure Node where
  uid : BitVec 64
  dev : Nat
  links : List (Nat × BitVec 64 × Nat)

/-- A graph of modules. -/
abbrev Graph := List Node

/-- The graph of the admitted modules. -/
def graphOf (topo : List ReportEntry) (a : List AssignEntry) : Graph :=
  topo.filterMap (fun e => match a.find? (fun x => x.uid == e.uid) with
    | some x => if x.result = 2 then none else some { uid := e.uid, dev := x.device, links := e.links }
    | none => none)

/-- A module of the graph by identifier. -/
def Graph.node (g : Graph) (u : BitVec 64) : Option Node := g.find? (fun n => n.uid == u)

/-- The links of a module whose far end is in the graph and reports the link too. -/
def Graph.linksOf (g : Graph) (u : BitVec 64) : List (Nat × BitVec 64 × Nat) :=
  match g.node u with
  | some n => n.links.filter (fun l => match g.node l.2.1 with
    | some m => m.links.any (fun k => k.2.1 == u)
    | none => false)
  | none => []

/-- One round of the search for distances. -/
def Graph.spread (g : Graph) (d : List (BitVec 64 × Nat)) : List (BitVec 64 × Nat) :=
  d.foldl (fun a x => (g.linksOf x.1).foldl (fun a l =>
    if a.any (fun y => y.1 == l.2.1) then a else a ++ [(l.2.1, x.2 + 1)]) a) d

/-- Links from the root to each module it reaches (R642). -/
def Graph.dist (g : Graph) (root : BitVec 64) : List (BitVec 64 × Nat) :=
  (List.range g.length).foldl (fun d _ => g.spread d) [(root, 0)]

/-- A module's distance. -/
def distOf (d : List (BitVec 64 × Nat)) (u : BitVec 64) : Option Nat := (d.find? (fun x => x.1 == u)).map (·.2)

/-- Parent port and parent of a module: least distance, then lowest identifier, then lowest port (R642). -/
def Graph.parent (g : Graph) (d : List (BitVec 64 × Nat)) (u : BitVec 64) : Option (Nat × BitVec 64) :=
  match distOf d u with
  | none | some 0 => none
  | some n =>
    let l := (g.linksOf u).filter (fun x => distOf d x.2.1 == some (n - 1))
    (l.foldl (fun b x => match b with
      | none => some x
      | some y => if x.2.1.toNat < y.2.1.toNat ∨ (x.2.1 = y.2.1 ∧ x.1 < y.1) then some x else b) none).map (fun x => (x.1, x.2.1))

/-- A link goes up: toward the root, and between equal distances toward the lower identifier (R617; log entry 52). -/
def upLink (d : List (BitVec 64 × Nat)) (u v : BitVec 64) : Bool :=
  match distOf d u, distOf d v with
  | some a, some b => decide (b < a) || (decide (a = b) && decide (v.toNat < u.toNat))
  | _, _ => false

/-- The lesser of two delays. -/
def minDelay : Option Nat → Option Nat → Option Nat
  | none, b => b
  | a, none => a
  | some a, some b => some (min a b)

/-- The least delay of a legal route of exactly `n` links to `dest`; after a downward link only downward ones (R617). -/
def Graph.reach (g : Graph) (d : List (BitVec 64 × Nat)) (dest : BitVec 64) : Nat → BitVec 64 → Bool → Option Nat
  | 0, u, _ => if u = dest then some 0 else none
  | n + 1, u, down =>
    (g.linksOf u).foldl (fun b l =>
      let up := upLink d u l.2.1
      if up && down then b
      else minDelay b ((g.reach d dest n l.2.1 (down || !up)).map (· + l.2.2))) none

/-- Effective hops: links plus the delay over 300 ns rounded up (R651). -/
def effHops (n delay : Nat) : Nat := n + (delay + 299) / 300

/-- Least effective hops of a legal route that begins with a link; `down`: the frame has come over a downward link (R617). -/
def Graph.costVia (g : Graph) (d : List (BitVec 64 × Nat)) (dest u : BitVec 64) (down : Bool) (l : Nat × BitVec 64 × Nat) : Option Nat :=
  let up := upLink d u l.2.1
  if up && down then none
  else (List.range g.length).foldl (fun b n =>
    minDelay b ((g.reach d dest n l.2.1 (down || !up)).map (fun x => effHops (n + 1) (x + l.2.2)))) none

/-- Output port of a module among its legal routes to a destination: least effective hops, then the lowest neighbour identifier
(R650). -/
def Graph.best (g : Graph) (d : List (BitVec 64 × Nat)) (dest u : BitVec 64) (down : Bool) : Option Nat :=
  ((g.linksOf u).foldl (fun (b : Option (Nat × BitVec 64 × Nat)) l =>
    match g.costVia d dest u down l, b with
    | none, _ => b
    | some c, none => some (c, l.2.1, l.1)
    | some c, some (c', v, p) => if c < c' ∨ (c = c' ∧ l.2.1.toNat < v.toNat) then some (c, l.2.1, l.1) else some (c', v, p)) none).map
    (·.2.2)

/-- Output port of a module for a destination (R617, R650): where a module above sends its frames for the destination down to this
one, only downward routes are legal. `fuel` bounds the modules above one another. -/
def Graph.outputFrom (g : Graph) (d : List (BitVec 64 × Nat)) (dest : BitVec 64) : Nat → BitVec 64 → Option Nat
  | 0, u => g.best d dest u false
  | n + 1, u =>
    let fromAbove := (g.linksOf u).any (fun l => upLink d u l.2.1 && (match g.outputFrom d dest n l.2.1 with
      | some p => (g.linksOf l.2.1).any (fun k => k.1 == p && k.2.1 == u)
      | none => false))
    g.best d dest u fromAbove

/-- Output port of a module for a destination (R650). -/
def Graph.output (g : Graph) (d : List (BitVec 64 × Nat)) (u dest : BitVec 64) : Option Nat := g.outputFrom d dest g.length u

/-- Unicast table of a module (R650): local delivery 4 for itself. -/
def Graph.routesFor (g : Graph) (root u : BitVec 64) : List (Nat × Nat) :=
  let d := g.dist root
  g.filterMap (fun n => if n.uid = u then some (n.dev, 4) else (g.output d u n.uid).map (fun p => (n.dev, p)))

/-! ### Convoy masks (R661) -/

/-- A module lies below another in the tree, or is it. -/
def Graph.under (g : Graph) (d : List (BitVec 64 × Nat)) (top : BitVec 64) : Nat → BitVec 64 → Bool
  | 0, u => u == top
  | n + 1, u => u == top || (match g.parent d u with
    | some p => g.under d top n p.2
    | none => false)

/-- The tree link above a module joins the convoy's modules: some lie below it and some do not. -/
def Graph.joins (g : Graph) (d : List (BitVec 64 × Nat)) (set : List (BitVec 64)) (u : BitVec 64) : Bool :=
  set.any (g.under d u g.length) && set.any (fun x => !g.under d u g.length x)

/-- Mask of a module for a convoy: the ports of the smallest subtree, and the local bit 4 of a member (R661). -/
def Graph.mask (g : Graph) (root u : BitVec 64) (pub : Nat) (members : List Nat) : Nat :=
  let d := g.dist root
  let set := (g.filter (fun n => n.dev == pub || members.contains n.dev)).map (·.uid)
  let up := match g.parent d u with
    | some p => if g.joins d set u then [p.1] else []
    | none => []
  let down := ((g.linksOf u).filter (fun l => (match g.parent d l.2.1 with
    | some q => q.2 == u
    | none => false) && g.joins d set l.2.1)).map (·.1)
  let here := if g.any (fun n => n.uid == u && members.contains n.dev) then [4] else []
  (up ++ down ++ here).eraseDups.foldl (fun m p => m + 2 ^ p) 0

/-- Convoy masks of a module. -/
def Graph.masksFor (g : Graph) (root u : BitVec 64) (convoys : SMap Nat) (members : SMap (List Nat)) : List (Nat × Nat) :=
  convoys.filterMap (fun c =>
    let m := g.mask root u (c.2 / 8192) (mget members c.1 [])
    if m = 0 then none else some (c.1, m))

/-! ### Repairs (R652, R656) -/

/-- The graph without a link, or without a module for port 4. -/
def Graph.without (g : Graph) (u : BitVec 64) (port : Nat) : Graph :=
  if port = 4 then g.filter (fun n => n.uid != u)
  else
    let far := ((g.linksOf u).find? (fun l => l.1 == port)).map (·.2.1)
    g.map (fun n => if n.uid = u then { n with links := n.links.filter (fun l => l.1 != port) }
      else if some n.uid = far then { n with links := n.links.eraseP (fun l => l.2.1 == u) } else n)

/-- Leader of a module's part of a graph: the root while it is reached, else the lowest identifier of the part (R656). -/
def Graph.leaderOf (g : Graph) (root u : BitVec 64) : BitVec 64 :=
  let part := (g.dist u).map (·.1)
  if part.contains root then root else part.foldl (fun a x => if x.toNat < a.toNat then x else a) u

/-- The ends of a module's links as their reports name them, with the module's own port (R654); parallel links are paired in port
order. -/
def Graph.endsOf (g : Graph) (m : BitVec 64) : List (BitVec 64 × Nat × Nat) :=
  (g.linksOf m).flatMap (fun l =>
    let k := ((g.linksOf m).filter (fun x => x.2.1 == l.2.1 && decide (x.1 < l.1))).length
    let far := (((g.linksOf l.2.1).filter (fun x => x.2.1 == m)).map (·.1))[k]?
    (m, l.1, l.1) :: (match far with | some q => [(l.2.1, q, l.1)] | none => []))

/-- A module's share of the repair of a loss (R652). -/
def Graph.share (g : Graph) (root u : BitVec 64) (convoys : SMap Nat) (members : SMap (List Nat)) (lost : BitVec 64) (port : Nat) : Share :=
  let g' := g.without lost port
  let lead := g'.leaderOf root u
  let part : Graph := g'.filter (fun n => ((g'.dist lead).map (·.1)).contains n.uid)
  let old := g.routesFor root u
  let new := part.routesFor lead u
  let changed := new.filter (fun r => !old.contains r)
  let gone := (old.filter (fun r => !(new.any (fun n => n.1 == r.1)))).map (fun r => (r.1, 5))
  { lostUid := lost, lostPort := port, routes := changed ++ gone
    masks := convoys.map (fun c => (c.1, part.mask lead u (c.2 / 8192) (mget members c.1 [])))
    parent := match part.parent (part.dist lead) u with | some p => p.1 | none => 7
    ends := if port = 4 then g.endsOf lost else []
    leader := if lead = root then none else some (lead, match g.node lead with | some n => n.dev | none => 0) }

/-- A module's shares of the repairs for the loss of each link end and of each other module (R652). -/
def Graph.sharesFor (g : Graph) (root u : BitVec 64) (convoys : SMap Nat) (members : SMap (List Nat)) : List Share :=
  g.flatMap (fun n =>
    ((g.linksOf n.uid).map (fun l => g.share root u convoys members n.uid l.1)) ++
      (if n.uid = u then [] else [g.share root u convoys members n.uid 4]))

end Sys2Proof.Machine
end

