-- ==== Sys2Proof/Machine/FabNet.lean ====
section
/-! DEFINITION. The network layer of the Yunadra fabric (15_yunadra_fabric.md): headcount, election, tables, repair, merge,
time frames and REGISTER (R641 to R662), BULK timeouts and relays (R664, R666), and the fabric commands. -/

namespace Sys2Proof.Machine

/-! ### The leader and time (R64, R642, R646) -/

/-- A neighbour's DISCOVER held of a port. -/
def FabPort.seenBy (f : FabPort) : Option Discover := if f.linked then f.disc.map (·.1) else none

/-- The DISCOVER of the parent. -/
def State.parentDisc (s : State) : Option Discover :=
  if s.fabric.parent < 4 then (s.getFabPort s.fabric.parent).seenBy else none

/-- Grandmaster identity of the leader, 0 without a PTP source. -/
def State.leaderGm (s : State) : BitVec 64 :=
  if s.leads then (match s.ptpSource with
    | some p => match (s.getEth p).ptp.master with | some a => a.gm | none => 0
    | none => 0)
  else match s.parentDisc with | some d => d.gm | none => 0

/-- A synchronised axis is enabled in the fabric, as far as the module has heard (R641 flags bit 2). -/
def State.fabSync (s : State) : Bool :=
  s.syncEnabled || (if s.leads then !s.fabric.syncDevs.isEmpty else match s.parentDisc with | some d => d.sync | none => false)

/-- Convoy numbers registered in the fabric (R649). -/
def State.fabConvoys (s : State) : List Nat :=
  if s.leads then s.fabric.convoys.map (·.1) else match s.parentDisc with | some d => d.convoys | none => []

/-- The leader of the module's fabric was elected under R656. -/
def State.fabPartition (s : State) : Bool :=
  if s.leads then s.fabric.partition else match s.parentDisc with | some d => d.partition | none => false

/-! ### The view (R642, R648) -/

/-- Neighbours whose DISCOVER counts in the view. -/
def State.viewPorts (s : State) : List (Nat × Discover) :=
  (List.range 4).filterMap (fun p => match (s.getFabPort p).seenBy with
    | some d => if d.distance ≤ 62 then some (p, d) else none
    | none => none)

/-- Root, distance and parent port among some neighbours: the lowest root, the least distance to it, then the lowest
identifier and port (R642). -/
def viewOf (own : BitVec 64) (l : List (Nat × Discover)) : BitVec 64 × Nat × Nat :=
  let root := l.foldl (fun (r : BitVec 64) x => if x.2.root.toNat < r.toNat then x.2.root else r) own
  let b := (l.filter (fun x => x.2.root == root)).foldl (fun (b : Option (Nat × Discover)) x => match b with
    | none => some x
    | some y =>
      if x.2.distance < y.2.distance ∨ (x.2.distance = y.2.distance ∧ x.2.uid.toNat < y.2.uid.toNat) then some x else b) none
  if root = own then (own, 0, 7) else match b with
    | some x => (root, x.2.distance + 1, x.1)
    | none => (own, 0, 7)

/-- The module's view: a MEMBER neighbour's fabric is joined whatever its identifier (R648). -/
def State.view (s : State) : BitVec 64 × Nat × Nat :=
  let l := s.viewPorts
  let m := l.filter (fun x => x.2.member)
  match m with
  | [] => viewOf Config.uid l
  | x :: _ => viewOf (m.foldl (fun (r : BitVec 64) y => if y.2.root.toNat < r.toNat then y.2.root else r) x.2.root) m |>
      (fun v => if v.2.2 = 7 then (x.2.root, x.2.distance + 1, x.1) else v)

/-- The view is formed again while the module is not MEMBER or SOLO: a change discards the REPORTs held, restarts t_settle and
moves the time source (R642, R643, R659). -/
def State.updateView (s : State) : State :=
  if s.fabric.state == .member || s.fabric.state == .solo then s
  else
    let v := s.view
    let f := s.fabric
    if v == (f.root, f.depth, f.parent) then s
    else
      let s := { s with fabric := { f with root := v.1, depth := v.2.1, parent := v.2.2, stableFrom := s.tick, reported := false } }
      let s := (List.range 4).foldl (fun s p => s.modFabPort p (fun f => { f with report := none })) s
      s.followTime

/-! ### DISCOVER (R641, R642, R649) -/

/-- The DISCOVER a port sends. -/
def State.ownDiscover (s : State) (p : Nat) : Discover :=
  { uid := Config.uid, root := s.fabric.root, distance := s.fabric.depth, port := p, member := s.fabric.state == .member
    child := s.fabric.parent == p, sync := s.fabSync, ptp := s.leaderGm != 0, device := s.fabric.device, gm := s.leaderGm
    partition := s.fabPartition, convoys := s.fabConvoys }

/-- Synchronised axes that came or went are told to the leader (R637 REGISTER op 5, 6). -/
def State.tellSync (s : State) : State :=
  if s.fabric.state == .member && s.syncEnabled != s.fabric.syncTold then
    let s := s.sendRegister (if s.syncEnabled then 5 else 6) 0 (s.fa 0)
    { s with fabric := { s.fabric with syncTold := !s.fabric.syncTold } }
  else s

/-- A DISCOVER is due on a port: 2 ms after the last, or a change to tell, but not more often than once in 500 µs (R641). -/
def State.discoverDue (s : State) (p : Nat) : Bool :=
  let f := s.getFabPort p
  f.linked && (match f.discTick with
    | some t => s.passed t (msTicks 2) || s.passed t (usTicks 500) && f.discSent != some (s.ownDiscover p)
    | none => true)

/-- DISCOVER_SEND (R641). -/
def execDiscoverSend (port : Fin 4) (s : State) : Out :=
  let p := port.val
  .next (if s.discoverDue p then
    let s := s.tellSync
    let s := s.modFabPort p (fun f => { f with discTick := some s.tick, discSent := some (s.ownDiscover p) })
    s.sendLocal p (.discover (s.ownDiscover p))
  else s)

/-- The module's fabric joins the one a foreign neighbour names (R649). -/
def State.mayJoin (s : State) (p : Nat) (d : Discover) : Bool :=
  let own := s.fabPartition
  let joining := if own != d.partition then own else decide (d.root.toNat < s.fabric.root.toNat)
  let near := match (s.getFabPort p).foreignOffset with
    | some o => decide (o.natAbs ≤ 65536000)
    | none => false
  joining && (!s.fabSync || (s.leaderGm != 0 && s.leaderGm == d.gm) || (own && near)) &&
    !(s.fabConvoys.any (fun c => d.convoys.contains c))

/-- FABRIC_MERGE (R649): the module enters COUNTING to be admitted to the neighbour's fabric. -/
def State.tryMerge (s : State) (p : Nat) : State :=
  match (s.getFabPort p).foreign, (s.getFabPort p).seenBy with
  | true, some d =>
    if s.mayJoin p d then
      let s := { s with fabric := { s.fabric with state := .counting, partition := false, repair := false, incoming := none } }
      let s := (List.range 4).foldl (fun s q => s.modFabPort q (fun f => { f with foreign := false, foreignOffset := none })) s
      s.updateView
    else s
  | _, _ => s

/-- DISCOVER_RX (R630, R642, R648, R649). -/
def execDiscoverRx (port : Fin 4) (d : Discover) (s : State) : Out :=
  let p := port.val
  .next (if !(s.getFabPort p).linked then s
    else
      let foreign := (s.fabric.state == .member || s.fabric.state == .solo) && d.root != s.fabric.root
      let s := s.modFabPort p (fun f =>
        { f with disc := some (d, s.tick), foreign := foreign, foreignOffset := if foreign then f.foreignOffset else none })
      s.updateView.tryMerge p)

/-- DISCOVER_EXPIRY (R642): 10 ms without a DISCOVER. -/
def execDiscoverExpiry (port : Fin 4) (s : State) : Out :=
  let p := port.val
  .next (match (s.getFabPort p).disc with
    | some (_, t) =>
      if s.expired t (msTicks 10) then
        (s.modFabPort p (fun f => { f with disc := none, foreign := false, foreignOffset := none, report := none })).updateView
      else s
    | none => s)

/-! ### Tables (R646, R650, R652, R655) -/

/-- The leader's new generation: every admitted module is sent its tables with an apply FT at least 2 ms ahead, down the tree
before admission; the leader's own are held (R646, R652). -/
def State.installGen (s : State) (topo : List ReportEntry) (a : List AssignEntry) (initial : Bool) : State :=
  let g := graphOf topo a
  let f := s.fabric
  let gen := (f.gen + 1) % 65536
  let apply : Ft := s.ft + 2000000 + BitVec.ofNat 32 (s.fresh % 1000000)
  let s := s.took
  let pieces (u : BitVec 64) : List TableData :=
    [.routes (g.routesFor f.root u), .masks (g.masksFor f.root u f.convoys f.members)] ++
      (g.sharesFor f.root u f.convoys f.members).map .share ++ [.done apply]
  let children := (List.range 4).filter (fun p => match (s.getFabPort p).seenBy with | some d => d.child | none => false)
  let tell (s : State) (n : Node) : State :=
    if n.uid = Config.uid then s
    else (pieces n.uid).foldl (fun s d =>
      if initial then children.foldl (fun s p => s.sendLocal p (.table gen d)) s else s.fabSend n.dev (.table gen d)) s
  let s := g.foldl tell s
  let own (l : List (Nat × Nat)) : SMap Nat := l.foldl (fun m x => mput m x.1 x.2) []
  { s with fabric := { s.fabric with
      topo := topo, assigned := a, modules := g.length
      incoming := some
        { gen := gen, routes := own (g.routesFor f.root Config.uid), masks := own (g.masksFor f.root Config.uid f.convoys f.members)
          shares := g.sharesFor f.root Config.uid f.convoys f.members, apply := some apply } } }

/-- GENERATION_RECOMPUTE (R655): the leader installs a fresh generation for the topology it now knows. -/
def execGenerationRecompute (topo : List ReportEntry) (s : State) : Out :=
  .next (if s.leads && s.fabric.state == .member then
    let a := s.fabric.assigned.filter (fun x => topo.any (fun e => e.uid == x.uid))
    (s.installGen topo a false).bump epModule C.fabRecompute
  else s)

/-! ### REPORT and ASSIGN (R643 to R646, R648) -/

/-- The module's own entry of a REPORT (R637). -/
def State.ownEntry (s : State) : ReportEntry :=
  { uid := Config.uid, preferred := s.fabric.preferred, present := s.fabric.device, sync := s.syncEnabled
    strict := s.par epModule P.fabPreferStrict == 1
    neigh := (List.range 4).map (fun p => if (s.getFabPort p).state == .up then (s.getFabPort p).neigh else 0)
    delay := (List.range 4).map (fun p => ((s.getFabPort p).linkDelay / 65536).toNat % 65536) }

/-- The ports of the module's children (R643). -/
def State.childPorts (s : State) : List Nat :=
  (List.range 4).filter (fun p => match (s.getFabPort p).seenBy with | some d => d.child | none => false)

/-- The view has been stable for t_settle and the REPORT of every child is held (R643). -/
def State.settled (s : State) : Bool :=
  s.passed s.fabric.stableFrom (msTicks 20) && s.childPorts.all (fun p => (s.getFabPort p).report.isSome)

/-- The entries of the module and its children. -/
def State.allEntries (s : State) : List ReportEntry :=
  s.ownEntry :: s.childPorts.flatMap (fun p => (s.getFabPort p).report.getD [])

/-- An ASSIGN taken by the module it names: REFUSED, or the number for the apply FT, which also becomes the preference of a
module that had none (R645, R646). -/
def State.takeAssign (s : State) (l : List AssignEntry) : State :=
  match l.find? (fun e => e.uid == Config.uid) with
  | none => s
  | some e =>
    if e.result = 2 then
      if s.fabric.state == .counting then { s with fabric := { s.fabric with state := .refused, incoming := none } } else s
    else if !assignable e.device then s
    else { s with fabric := { s.fabric with
      given := e.device, preferred := if s.fabric.preferred = 0 then e.device else s.fabric.preferred } }

/-- The root assigns numbers and sends ASSIGN and tables (R644, R646). -/
def State.headcount (s : State) : State :=
  let topo := s.allEntries
  let a := assignNumbers topo []
  let s := { s with fabric := { s.fabric with reported := true } }
  let s := s.childPorts.foldl (fun s p => s.sendLocal p (.assign a)) s
  (s.takeAssign a).installGen topo a true

/-- The leader admits modules that join its fabric (R644, R648, R649); a leader under R656 admits none. -/
def State.admitJoining (s : State) (l : List ReportEntry) : State :=
  let new := l.filter (fun e => !(s.fabric.topo.any (fun x => x.uid == e.uid && s.fabric.assigned.any (fun a => a.uid == x.uid && a.result != 2))))
  if s.fabric.partition || new.isEmpty then s
  else
    let kept := s.fabric.topo.filter (fun e => !(new.any (fun x => x.uid == e.uid)))
    let own := kept.map (fun e => match s.fabric.assigned.find? (fun a => a.uid == e.uid) with
      | some a => { e with present := a.device }
      | none => e)
    let topo := kept ++ new
    let a := assignNumbers own new
    let s := s.childPorts.foldl (fun s p => s.sendLocal p (.assign a)) s
    s.installGen topo a false

/-- REPORT_SEND (R643, R644). -/
def execReportSend (s : State) : Out :=
  .next (if s.fabric.state == .counting && s.settled && !s.fabric.reported then
    if s.isRoot && s.fabric.parent == 7 then (if s.childPorts.isEmpty then s else s.headcount)
    else
      let l := s.allEntries
      let s := { s with fabric := { s.fabric with reported := true } }
      s.sendLocal s.fabric.parent (.report l)
  else s)

/-- REPORT_RX (R643, R648): a child's REPORT is held, its later pieces with its first, and may complete the root's headcount; a MEMBER
passes it to the leader at once. -/
def execReportRx (port : Fin 4) (piece : ReportPiece) (s : State) : Out :=
  let p := port.val
  .next (if !(s.getFabPort p).linked then s
    else match s.fabric.state with
    | .member | .solo =>
      if s.leads then s.admitJoining piece.entries else s.fabSend s.fabric.leaderDev (.report piece.entries)
    | _ =>
      let s := s.modFabPort p (fun f => { f with report := some (if piece.num = 0 then piece.entries else f.report.getD [] ++ piece.entries) })
      if s.fabric.state == .counting && s.isRoot && s.settled && !s.fabric.reported then s.headcount else s)

/-- ASSIGN_RX (R645, R646): taken from the parent and passed down the tree. -/
def execAssignRx (port : Fin 4) (l : List AssignEntry) (s : State) : Out :=
  .next (if !(s.getFabPort port.val).linked then s
    else
      let s := s.takeAssign l
      (s.childPorts.filter (· ≠ port.val)).foldl (fun s p => s.sendLocal p (.assign l)) s)

/-- A piece of a generation taken (R637, R646). -/
def TableGen.take (t : TableGen) (d : TableData) : TableGen :=
  match d with
  | .routes l => { t with routes := l.foldl (fun m x => mput m x.1 x.2) t.routes }
  | .masks l => { t with masks := l.foldl (fun m x => mput m x.1 x.2) t.masks }
  | .share sh => { t with shares := t.shares ++ [sh] }
  | .done a => { t with apply := some a }

/-- TABLE_RX (R646). -/
def execTableRx (port : Fin 4) (gen : Nat) (d : TableData) (s : State) : Out :=
  .next (if !(s.getFabPort port.val).linked || s.fabric.state == .refused then s
    else
      let t := match s.fabric.incoming with
        | some t => if t.gen = gen % 65536 then t else { gen := gen % 65536 }
        | none => { gen := gen % 65536 }
      { s with fabric := { s.fabric with incoming := some (t.take d) } })

/-- What a module forgets of devices that left the fabric: their sessions' locks, and at the leader their convoys and memberships
(R377, R529). -/
def State.devicesLeft (s : State) (gone : List Nat) : State :=
  gone.foldl (fun s d =>
    let f := s.fabric
    let f := { f with
      convoys := f.convoys.filter (fun c => c.2 / 8192 != d)
      members := (f.members.map (fun m => (m.1, m.2.filter (· ≠ d)))).filter (fun m => !m.2.isEmpty)
      syncDevs := f.syncDevs.filter (· ≠ d) }
    { s with fabric := f }.dropDevice d) s

/-- The election is logged when the leader differs from the last one logged; a new leader rebuilds the wait-for graph
(R615, R646). -/
def State.elected (s : State) : State :=
  if s.fabric.lastLeader = some s.fabric.root then s
  else
    let s := if s.leads && s.fabric.lastLeader.isSome then s.modLocks (fun l => { l with rebuilding := true }) else s
    let s := { s with fabric := { s.fabric with lastLeader := some s.fabric.root } }
    s.log epModule 0x0906 (dat 0 s.fabric.root.toNat + dat 8 s.fabric.leaderDev)

/-- The publishers and members of this module made known to a new leader (R377, R661; log entry 52). -/
def State.registerAgain (s : State) : State :=
  let s := (List.range 16).foldl (fun s c => match (s.getPublisher c).registered with
    | some n => s.sendRegister 1 n (s.fa (epPub c))
    | none => s) s
  (List.range 384).foldl (fun s i =>
    let e := if i < 256 then 0x100 + i else 0x200 + (i - 256)
    match (s.getFollower e).convoy with
    | some n => s.sendRegister 3 n (s.fa e)
    | none => s) ((List.range 32).foldl (fun s i => match (s.getFollower i).convoy with
      | some n => s.sendRegister 3 n (s.fa i)
      | none => s) s)

/-- A complete generation of tables is put in force (R646). -/
def State.applyTable (s : State) (t : TableGen) : State :=
  let f := s.fabric
  let gone := (f.routes.filter (fun r => !(t.routes.any (fun x => x.1 == r.1)))).map (·.1)
  let dev := match t.routes.find? (fun x => x.2 == 4) with | some x => x.1 | none => f.given
  let same := s.viewPorts.filter (fun x => x.2.root == f.root)
  let v := if s.isRoot then (f.root, 0, 7) else viewOf f.root same
  let v := if s.isRoot then v else match same.foldl (fun (b : Option (Nat × Discover)) x => match b with
      | none => some x
      | some y => if x.2.distance < y.2.distance ∨ (x.2.distance = y.2.distance ∧ x.2.uid.toNat < y.2.uid.toNat)
          then some x else b) none with
    | some x => (f.root, x.2.distance + 1, x.1)
    | none => (f.root, f.depth, f.parent)
  let lead := if s.isRoot then dev else match s.parentDisc with
    | some d => if f.depth = 1 then d.device else f.leaderDev
    | none => f.leaderDev
  let newLead := f.lastLeader.isSome && f.lastLeader != some f.root
  let s := { s with fabric := { f with
    state := .member, device := dev, gen := t.gen, routes := t.routes, masks := t.masks, shares := t.shares, incoming := none
    repair := false, downs := [], ownLoss := none, depth := v.2.1, parent := v.2.2, leaderDev := lead
    modules := if s.isRoot then f.modules else t.routes.length } }
  let s := (s.devicesLeft gone).followTime
  let s := s.log epModule 0x0905 (dat 0 s.fabric.device + dat 2 s.fabric.modules)
  let s := s.elected
  if newLead && !s.leads then s.registerAgain else s

/-- TABLE_APPLY (R646): the tables of the complete generation are in force at the apply FT; the module is MEMBER. -/
def execTableApply (s : State) : Out :=
  .next (match s.fabric.incoming with
    | none => s
    | some t =>
      match t.apply with
      | none => s
      | some a => if ftLater a s.ft || s.fabric.state == .refused then s else s.applyTable t)

/-- SOLO_TIMEOUT (R647): no port is UP when fab_solo_wait has passed since D6 powered up. -/
def execSoloTimeout (s : State) : Out :=
  .next (if s.fabric.state == .counting && s.d6On && s.passed s.fabric.d6Tick (msTicks (s.parF epModule P.fabSoloWait)) &&
      (List.range 4).all (fun p => (s.getFabPort p).state != .up) then
    let dev := if s.fabric.preferred = 0 then 1 else s.fabric.preferred
    let s := { s with fabric := { s.fabric with
      state := .solo, device := dev, root := Config.uid, depth := 0, parent := 7, leaderDev := dev, modules := 1
      routes := [(dev, 4)] } }
    let s := s.followTime
    (s.log epModule 0x0905 (dat 0 dev + dat 2 1)).elected
  else s)

/-! ### Loss and repair (R653, R654, R656) -/

/-- LINK_DOWN_FRAME_RX (R653): the first report of a link is flooded on. -/
def execLinkDownFrameRx (port : Fin 4) (uid : BitVec 64) (lostPort : Fin 4) (cause : Nat) (gen : Nat) (s : State) : Out :=
  let f := s.fabric
  .next (if !(s.getFabPort port.val).linked || f.downs.any (fun x => x.1 == uid && x.2.1 == lostPort.val) then s
    else
      let s := { s with fabric := { f with downs := (uid, lostPort.val, s.tick) :: f.downs } }
      ((List.range 4).filter (fun q => q != port.val && (s.getFabPort q).state == .up)).foldl
        (fun s q => s.sendLocal q (.linkDown uid lostPort.val cause gen)) s)

/-- Reports of two or more links of a module have come within 1 ms (R654): the lost module's ports tell its links apart. -/
def Fabric.moduleLost (f : Fabric) (sh : Share) : Bool :=
  let l := f.downs.filterMap (fun x => (sh.ends.find? (fun e => e.1 == x.1 && e.2.1 == x.2.1)).map (fun e => (e.2.2, x.2.2)))
  l.any (fun a => l.any (fun b => a.1 != b.1 && decide (a.2 ≤ b.2) && decide (b.2 ≤ a.2 + 64000)))

/-- The loss a share answers has been reported: that link, unless a module it belongs to is lost, or the links of a module
(R653, R654). -/
def Fabric.reportedLoss (f : Fabric) (sh : Share) : Bool :=
  if sh.lostPort < 4 then
    !f.repair && f.downs.any (fun x => x.1 == sh.lostUid && x.2.1 == sh.lostPort) &&
      !f.shares.any (fun m => m.lostPort == 4 && m.ends.any (fun e => e.1 == sh.lostUid && e.2.1 == sh.lostPort) && f.moduleLost m)
  else f.moduleLost sh

/-- The leader a repair names for this module's part (R656): a new leader sets partition. -/
def State.partLeader (s : State) (l : BitVec 64 × Nat) : State :=
  let s := { s with fabric := { s.fabric with
    root := l.1, leaderDev := l.2, partition := l.1 == Config.uid, depth := if l.1 = Config.uid then 0 else s.fabric.depth } }
  if l.1 = Config.uid then
    (s.modLocks (fun k => { k with rebuilding := true })).followTime
  else s.followTime

/-- The module's share of the repair of a lost link is put in force (R653, R654). -/
def State.applyShare (s : State) (sh : Share) : State :=
  let f := s.fabric
  let gone := (sh.routes.filter (fun r => r.2 == 5)).map (·.1)
  let routes := sh.routes.foldl (fun m r => mset m r.1 r.2 5) f.routes
  let masks := sh.masks.foldl (fun m r => mset m r.1 r.2 0) f.masks
  let s := { s with fabric := { f with routes := routes, masks := masks, parent := sh.parent, repair := true } }
  let s := s.followTime
  let s := match sh.leader with
    | some l => s.partLeader l
    | none => s
  let s := (s.devicesLeft gone).bump epModule C.fabReroute
  match s.fabric.ownLoss with
  | some (p, t) =>
    let s := { s with fabric := { s.fabric with ownLoss := none } }
    s.log epModule 0x0904 (dat 0 p + dat 4 ((s.tick - t) / 64))
  | none => s

/-- REPAIR_APPLY (R653, R654, R656): the module's share of the repair for a reported loss is put in force. -/
def execRepairApply (lostUid : BitVec 64) (lostPort : Fin 5) (s : State) : Out :=
  let f := s.fabric
  .next (match f.shares.find? (fun x => x.lostUid == lostUid && x.lostPort == lostPort.val) with
    | none => s
    | some sh => if f.state != .member || !f.reportedLoss sh then s else s.applyShare sh)

/-! ### Time frames (R658 to R660) -/

/-- FT lies in the tick that holds an instant k × 125,000 ns + port × 1,000 ns (R658). -/
def timeFrameDue (ft : Ft) (port : Nat) : Bool := decide ((ft.toNat + 125000 - port * 1000) % 125000 < 16)

/-- TIME_FRAME_SEND (R89 to R91, R658, R660). -/
def execTimeFrameSend (port : Fin 4) (cyc : Fin 100) (tx : TdcEdge) (s : State) : Out :=
  let p := port.val
  .next (if (s.getFabPort p).linked && timeFrameDue s.ft p then
    let t := s.departure (.fabTx port) cyc.val
    let m : TimeMsg :=
      { tx := s.xtOfFt16 t, state := s.time.state.code, depth := s.fabric.depth, ptp := s.leaderGm != 0, diverged := s.time.diverged
        leader := s.fabric.root, step := s.time.announced.map (fun a => (a.2, a.1)), gm := s.leaderGm }
    let real := s.stampEdge (.fabTx port) tx
    ((s.depart p (.time m)).checkTx (2 + p) t real).putStamp (.fabTx port) real
  else s)

/-- TIME_FRAME_RX (R649, R659, R660): the parent's frame is a measurement and carries a step announcement; a foreign one
serves the comparison of R649; others are ignored. -/
def execTimeFrameRx (port : Fin 4) (m : TimeMsg) (rx : TdcEdge) (s : State) : Out :=
  let p := port.val
  let st := s.stampEdge (.fabRx port) rx
  let s := s.putStamp (.fabRx port) st
  let f := s.getFabPort p
  let o : Int := (m.tx : Int) + f.linkDelay - (s.xtOfFt8 st : Int)
  .next (if !f.linked then s
    else if f.foreign then (s.modFabPort p (fun f => { f with foreignOffset := some o })).tryMerge p
    else if p = s.fabric.parent && !s.leads then
      let s := match m.step with
        | some (d, a) => if ftLater a s.ft then { s with time := { s.time with announced := some (a, d) } } else s
        | none => s
      s.timeMeasure o
    else s)

/-! ### REGISTER, BULK and relays (R661, R664, R666) -/

/-- REGISTER_RX (R377, R656, R661): at the leader; a convoy registered to another publisher is refused, and every registration
by a leader under R656. -/
def execRegisterRx (src : Fin 4096) (op : Fin 8) (convoy : Byte) (fa : Nat) (s : State) : Out :=
  .next (if !s.leads then s
    else
      let held := mget s.fabric.convoys convoy.toNat 0
      let answer (s : State) (st : BitVec 16) : State := s.fabSend src.val (.response 0 convoy.toNat 0 st s.ft8 [])
      if op.val = 1 && s.fabric.partition then answer s E.faultFabric
      else if op.val = 1 && held != 0 && held != fa then answer s E.conflict
      else answer { s with fabric := s.fabric.register src.val op.val convoy.toNat fa } E.ok)

/-- Bytes written at an offset of a buffer. -/
def writeAt (l : List Byte) (o : Nat) (d : List Byte) : List Byte :=
  l.take o ++ List.replicate (o - l.length) 0 ++ d ++ l.drop (o + d.length)

/-- BULK_RX (R664): bytes ahead of the REQUEST or RESPONSE with the same ident. -/
def execBulkRx (src : Fin 4096) (ident : BitVec 16) (offset : BitVec 32) (data : List Byte) (s : State) : Out :=
  let f := s.fabric
  let this (x : Nat × Nat × List Byte × Option Nat) : Bool := x.1 == src.val && x.2.1 == ident.toNat
  let was := f.bulk.find? this
  let buf := writeAt ((was.map (·.2.2.1)).getD []) offset.toNat data
  .next { s with fabric := { f with
    bulk := (src.val, ident.toNat, buf, (was.map (·.2.2.2)).getD none) :: f.bulk.filter (fun x => !this x) } }

/-- BULK_TIMEOUT (R664, R667 code 6): bytes are missing remote_timeout after the REQUEST. -/
def execBulkTimeout (src : Fin 4096) (ident : BitVec 16) (s : State) : Out :=
  let this (x : Nat × Nat × List Byte × Option Nat) : Bool := x.1 == src.val && x.2.1 == ident.toNat
  .next (match s.fabric.bulk.find? this with
    | some (_, _, _, some t) =>
      if s.expired t (msTicks (s.parF epModule P.remoteTimeout)) then
        let s := { s with fabric := { s.fabric with bulk := s.fabric.bulk.filter (fun x => !this x) } }
        let s := match s.unicast src.val with
          | p :: _ => if p < 4 then s.violate p 6 else s
          | [] => s
        s.fabSend src.val (.nack ident.toNat 6)
      else s
    | _ => s)

/-- RELAY_EXPIRY (R666): 1 s after the last outward frame. -/
def execRelayExpiry (addr : BitVec 32) (udp : BitVec 16) (s : State) : Out :=
  .next { s with fabric := { s.fabric with
    relays := s.fabric.relays.filter (fun r => !(r.addr == addr && r.udp == udp && s.expired r.tick (msTicks 1000))) } }

/-! ### Commands (R541, R645) -/

/-- FAB_PREFER (R645): a refused module reports again when its preference changes. -/
def execFabPrefer (ref : CmdRef) (dev : BitVec 16) (s : State) : Out :=
  .next (s.execCmd ref 0x0900 (fun k s =>
    s.checked k [(dev == 0 || decide (0xFFF < dev.toNat), E.range)] (fun s =>
      let f := s.fabric
      let again := f.state == .refused && f.preferred != dev.toNat
      let f := { f with preferred := dev.toNat }
      let f := if again then { f with state := .counting, stableFrom := s.tick, reported := false } else f
      { s with fabric := f }.ok k)))

/-- Device number of a module by identifier, 0xFFFF for none. -/
def devOfUid (a : List AssignEntry) (u : BitVec 64) : Nat :=
  match a.find? (fun x => x.uid == u) with
  | some x => x.device
  | none => 0xFFFF

/-- The record of a module in FAB_TOPOLOGY. -/
def topoRecord (g : Graph) (root : BitVec 64) (a : List AssignEntry) (e : ReportEntry) : List Byte :=
  let d := g.dist root
  let par := match g.parent d e.uid with | some p => devOfUid a p.2 | none => 0
  let refused := a.any (fun x => x.uid == e.uid && x.result == 2)
  leBytes 8 e.uid.toNat ++ leBytes 2 (if refused then 0 else devOfUid a e.uid) ++ leBytes 2 par ++
    leBytes 1 ((distOf d e.uid).getD 0) ++ leBytes 1 (b2n refused) ++ leBytes 2 0 ++
    (List.range 4).flatMap (fun p => leBytes 2 (if e.neigh.getD p 0 = 0 then 0xFFFF else devOfUid a (e.neigh.getD p 0))) ++
    (List.range 4).flatMap (fun p => leBytes 2 (e.delay.getD p 0))

/-- FAB_TOPOLOGY: the records are the leader's; another module gives what it holds, its own (log entry 52). -/
def execFabTopology (ref : CmdRef) (s : State) : Out :=
  .next (s.execCmd ref 0x0902 (fun k s =>
    let f := s.fabric
    let topo := if f.topo.isEmpty then [s.ownEntry] else f.topo
    let a := if f.topo.isEmpty then [{ uid := Config.uid, device := f.device, result := if f.state == .refused then 2 else 0 }] else f.assigned
    let g := graphOf topo a
    s.ok k (leBytes 8 f.root.toNat ++ leBytes 2 f.leaderDev ++ leBytes 2 f.modules ++ leBytes 2 f.gen ++ leBytes 2 0 ++
      topo.flatMap (topoRecord g f.root a))))

end Sys2Proof.Machine
end

