-- ==== Sys2Proof/Machine/EthBytes.lean ====
section
/-! DEFINITION. The bytes of the frames that a port of plant Ethernet sends (R8, R89, R92, R413, R674 to R678, R690): MAC header, tag,
ARP, IPv4, ICMP, UDP and PTP in network byte order, and the frame check sequence. The layouts are those of the published standards
(PRESUMED); what neither they nor the spec fix comes from Config (log entry 91). -/

namespace Sys2Proof.Machine

/-! ### IPv4 -/

/-- One's complement sum of 16-bit words in network order. -/
def onesSum : List Byte → Nat
  | a :: b :: l => a.toNat * 256 + b.toNat + onesSum l
  | [a] => a.toNat * 256
  | [] => 0

/-- The checksum of IPv4 and ICMP headers. -/
def inetSum (l : List Byte) : Nat :=
  let n := onesSum l
  let n := n % 65536 + n / 65536
  65535 - (n % 65536 + n / 65536)

/-- Bytes of an address that holds its first octet lowest (R549). -/
def ipBytes (ip : Nat) : List Byte := leBytes 4 ip

/-- An IPv4 packet: identification, fragment word, lifetime and service type, protocol, addresses, contents. -/
def ipPacket (ident frag ttl tos proto src dst : Nat) (l : List Byte) : List Byte :=
  let a := [0x45#8] ++ beBytes 1 tos ++ beBytes 2 (20 + l.length) ++ beBytes 2 ident ++ beBytes 2 frag ++ beBytes 1 ttl ++ beBytes 1 proto
  let b := ipBytes src ++ ipBytes dst
  a ++ beBytes 2 (inetSum (a ++ b)) ++ b ++ l

/-- A UDP header. -/
def udpHeader (src dst n sum : Nat) : List Byte := beBytes 2 src ++ beBytes 2 dst ++ beBytes 2 (8 + n) ++ beBytes 2 sum

/-! ### PTP (R89, R92) -/

/-- Message type of a PTP event message. -/
def ptpType : EthMsg → Option Nat
  | .delayReq .. => some 1
  | .pdelayReq .. => some 2
  | .pdelayResp .. => some 3
  | _ => none

/-- A PTP timestamp: 48-bit seconds and 32-bit nanoseconds of an XT.16 (R92). -/
def ptpStamp (x : Nat) : List Byte := beBytes 6 (x / 65536 / 1000000000) ++ beBytes 4 (x / 65536 % 1000000000)

/-- Timestamp, correctionField in 2^-16 ns and what follows the timestamp of a PTP message (R92): a request carries its departure, with
the fraction in the correction; a Pdelay_Resp carries t3 - t2 in the correction and the requester's port identity (log entry 91). -/
def ptpParts : EthMsg → List Byte × Nat × List Byte
  | .pdelayReq _ t => (ptpStamp t, t % 65536, zeros 10)
  | .delayReq _ t => (ptpStamp t, t % 65536, [])
  | .pdelayResp _ who t2 t3 => (ptpStamp 0, t3 - t2, beBytes 10 who.toNat)
  | _ => ([], 0, [])

/-- Sequence number of a PTP message. -/
def ptpSeq : EthMsg → Nat
  | .pdelayReq n _ | .delayReq n _ | .pdelayResp n .. => n.toNat
  | _ => 0

/-- A PTP message: its header and body. -/
def ptpBytes (profile domain type : Nat) (m : EthMsg) : List Byte :=
  let x := ptpParts m
  let body := x.1 ++ x.2.2
  beBytes 1 ((if profile = 1 then 16 else 0) + type) ++ beBytes 1 (Config.ptpWord type 0 % 16 * 16 + 2) ++ beBytes 2 (34 + body.length) ++
    beBytes 1 domain ++ zeros 1 ++ beBytes 2 (Config.ptpWord type 1) ++ beBytes 8 x.2.1 ++ zeros 4 ++ beBytes 10 (Config.ptpWord type 2) ++
    beBytes 2 (ptpSeq m) ++ beBytes 1 (Config.ptpWord type 3) ++ beBytes 1 (Config.ptpWord type 4) ++ body

/-! ### Frames -/

/-- Address and UDP port of a remote axis (rem_address). -/
def State.remIp (s : State) (na : Nat) : BitVec 32 := BitVec.ofNat 32 (s.par (epRemote na) P.remAddress)

/-- UDP payload, destination address and port, and kind of a datagram. -/
def State.udpParts (s : State) : EthMsg → Option (List Byte × Nat × Nat × Nat)
  | .safe conn l => some (l, (mget s.safety.config.conns conn {}).addr, s.par (epEth 0) P.safeUdpPort, 3)
  | .remote na seq flags t p v a =>
    some (le2 1 ++ leBytes 2 seq.toNat ++ leBytes 4 flags ++ leBytes 8 (t / 65536) ++ le8 p ++ le8 v ++ le8 a, (s.remIp na).toNat,
      bits (s.par (epRemote na) P.remAddress) 47 32, 4)
  | .session addr l => some (l, addr.toNat % 2 ^ 32, addr.toNat / 2 ^ 32, 2)
  | .relay addr udp l => some (l, addr.toNat, udp.toNat, 5)
  | _ => none

/-- Next hop of an address: itself on the own network, else the gateway (R675). -/
def State.nextHop (s : State) (p : Nat) (ip : BitVec 32) : BitVec 32 :=
  let m := BitVec.ofNat 32 (s.par (epEth p) P.netMask)
  if ip &&& m = BitVec.ofNat 32 (s.par (epEth p) P.netIp) &&& m then ip else BitVec.ofNat 32 (s.par (epEth p) P.netGateway)

/-- MAC address by which a port reaches an IPv4 address (R675). -/
def State.macFor (s : State) (p ip : Nat) : Nat :=
  let hop := s.nextHop p (BitVec.ofNat 32 ip)
  match (s.getEth p).arp.find? (fun a => a.1 == hop) with
  | some a => a.2.1.toNat
  | none => 0

/-- An ARP packet of a port: operation, target hardware and protocol address (R675). -/
def State.arpBytes (s : State) (p op mac ip : Nat) : List Byte :=
  beBytes 2 1 ++ beBytes 2 0x0800 ++ [6, 4] ++ beBytes 2 op ++ beBytes 6 (Config.portMac p) ++ ipBytes (s.par (epEth p) P.netIp) ++
    beBytes 6 mac ++ ipBytes ip

/-- A UDP datagram's packet, or the one of its two fragments that the frame carries (R676). -/
def State.udpPacket (s : State) (p : Nat) (f : EthFrame) (l : List Byte) (ip port src : Nat) : List Byte :=
  let n := (s.getEth p).sent.length
  let word := Config.ipWord p n
  let own := s.par (epEth p) P.netIp
  match f.frag with
  | none => ipPacket (word 0) 0 (word 1) (word 2) 17 own ip (udpHeader src port l.length (word 3) ++ l)
  | some (0, total, id) => ipPacket id 0x2000 (word 1) (word 2) 17 own ip (udpHeader src port total (word 3) ++ l)
  | some (off, _, id) => ipPacket id ((off + 8) / 8) (word 1) (word 2) 17 own ip l

/-- Destination MAC address, EtherType and contents of a frame. -/
def State.ethParts (s : State) (p : Nat) (f : EthFrame) : Nat × Nat × List Byte :=
  let ep := epEth p
  let word := Config.ipWord p (s.getEth p).sent.length
  match f.msg with
  | .arpReply ip mac => (mac.toNat, 0x0806, s.arpBytes p 2 mac.toNat ip.toNat)
  | .arpRequest ip => (2 ^ 48 - 1, 0x0806, s.arpBytes p 1 0 ip.toNat)
  | .echoReply ip l => (s.macFor p ip.toNat, 0x0800,
      ipPacket (word 0) 0 (word 1) (word 2) 1 (s.par ep P.netIp) ip.toNat (zeros 2 ++ beBytes 2 (inetSum (zeros 4 ++ l)) ++ l))
  | m =>
    match ptpType m, s.udpParts m with
    | some t, _ =>
      let b := ptpBytes (s.par ep P.ptpProfile) (s.par ep P.ptpDomain) t m
      if s.par ep P.ptpProfile = 1 then (0x0180C200000E, 0x88F7, b)
      else (0x01005E000181, 0x0800, s.udpPacket p f b (leVal [224#8, 0#8, 1#8, 129#8]) 319 319)
    | none, some (l, ip, port, kind) =>
      (s.macFor p ip, 0x0800, s.udpPacket p f l ip port (if kind = 2 then s.par epModule P.udpPort else Config.udpSource p kind))
    | none, none => (0, 0, [])

/-- A frame as a port sends it from a queue: tagged unless net_vlan is 0, filled to 64 bytes, with its frame check sequence (R674,
R678). -/
def State.ethBytes (s : State) (p q : Nat) (f : EthFrame) : List Byte :=
  let ep := epEth p
  let x := s.ethParts p f
  let vlan := s.par ep P.netVlan
  let tag := if vlan = 0 then [] else beBytes 2 0x8100 ++ beBytes 2 (s.par ep P.netPcp q * 8192 + vlan)
  let b := beBytes 6 x.1 ++ beBytes 6 (Config.portMac p) ++ tag ++ beBytes 2 x.2.1 ++ x.2.2
  let b := b ++ zeros (60 - b.length)
  b ++ leBytes 4 (crc32 b)

/-- A frame leaves a port from a queue (R679). -/
def State.ethSent (s : State) (p q : Nat) (f : EthFrame) : State :=
  let b := s.ethBytes p q f
  (s.modEth p (fun e => { e with sent := f :: e.sent, bytes := b :: e.bytes })).bump (epEth p) C.netTxFrames

end Sys2Proof.Machine
end

