-- ==== Sys2Proof/Machine/Ether.lean ====
section
/-! DEFINITION. Plant Ethernet (16_ethernet_can.md): reception and its classes, ARP and ICMP, transmit queues, gate schedules,
PTP, safe frames on two networks and relayed datagrams (R666, R672 to R693). -/

namespace Sys2Proof

/-- Time on the wire of a frame with preamble and interframe gap, ns (R672, R684). -/
def EthFrame.wireNs (f : EthFrame) : Nat := (f.len + 20) * 8

end Sys2Proof

namespace Sys2Proof.Machine

/-! ### Transmit queues (R675, R676, R678) -/

/-- A transmit queue of a port. -/
def EthPort.queue (e : EthPort) (q : Nat) : List EthFrame := mget e.queues q []

/-- Frames a queue holds. -/
def queueDepth : Nat := 32

/-- A frame offered to a queue: Q3 and Q4 wait for room without loss, the others drop it (R678). -/
def State.ethPut (s : State) (p q : Nat) (f : EthFrame) : State :=
  let e := s.getEth p
  if (e.queue q).length < queueDepth || q == 3 || q == 4 then
    s.setEth p { e with queues := mset e.queues q (e.queue q ++ [f]) [] }
  else s.bump (epEth p) C.netTxDrop

/-- Length of a frame, FCS included, with `n` bytes above the MAC header (R674, R678): tagged unless net_vlan is 0. -/
def State.frameLen (s : State) (p n : Nat) : Nat :=
  let tag := if s.par (epEth p) P.netVlan = 0 then 0 else 4
  max 64 (14 + tag + n + 4)

/-- A frame for an IPv4 address: into its queue once the address is resolved, else held while ARP asks (R675). -/
def State.ipSend (s : State) (p q : Nat) (ip : BitVec 32) (f : EthFrame) : State :=
  let hop := s.nextHop p ip
  if (s.getEth p).arp.any (fun a => a.1 == hop) then s.ethPut p q f
  else
    let s := s.modEth p (fun e => { e with held := e.held ++ [(hop, f, q, s.tick)] })
    s.ethPut p 2 { msg := .arpRequest hop, len := 64, target := none }

/-- A UDP payload as frames: two IPv4 fragments beyond 1,472 bytes (R676). -/
def State.udpFrames (s : State) (p : Nat) (l : List Byte) (mk : List Byte → EthMsg) : List EthFrame :=
  let frame (n : Nat) (m : List Byte) (g : Option (Nat × Nat × Nat)) : EthFrame :=
    { msg := mk m, len := s.frameLen p (20 + n), target := none, frag := g }
  if l.length ≤ 1472 then [frame (8 + l.length) l none]
  else [frame 1480 (l.take 1472) (some (0, l.length, s.fresh)), frame (l.length - 1472) (l.drop 1472) (some (1472, l.length, s.fresh))]

/-- A UDP datagram sent to an address by a queue; the identification that two fragments share is a free value. -/
def State.udpOut (s : State) (p q : Nat) (ip : BitVec 32) (l : List Byte) (mk : List Byte → EthMsg) : State :=
  (s.udpFrames p l mk).foldl (fun s f => s.ipSend p q ip f) (if l.length ≤ 1472 then s else s.took)

/-- The session datagrams that wait move into Q4 of a port, in order, while it has room (R678). -/
def State.fillSession (s : State) (p : Nat) : State :=
  s.host.udpOut.reverse.foldl (fun s x =>
    if x.1.val = p && decide (((s.getEth p).queue 4).length < queueDepth) then
      let s := s.modHost (fun h => { h with udpOut := (h.udpOut.reverse.erase x).reverse })
      s.udpOut p 4 (x.2.1.truncate 32) x.2.2 (fun l => .session x.2.1 l)
    else s) s

/-! ### Gate schedules (R681 to R684) -/

/-- A gate list: base, cycle and extension in ns, entries of gate states and interval in ns (R681). -/
def qbvRecord (b : List Byte) : Nat × Nat × Nat × List (Nat × Nat) :=
  (leField b 0 8, leField b 8 4, leField b 12 4,
    (List.range ((b.length - 16) / 8)).map (fun i => (leField b (16 + 8 * i) 1, leField b (20 + 8 * i) 4)))

/-- Gate states at a place of the cycle, in ns from its start; after the last entry its states hold (R682). -/
def gatesIn : List (Nat × Nat) → Nat → Nat
  | [], _ => 255
  | [e], _ => e.1
  | e :: l, t => if t < e.2 then e.1 else gatesIn l (t - e.2)

/-- Place in the cycle at an XT in ns: in a cycle that a pending change within the extension suppresses, the old one's end
holds (R682, R683). -/
def cyclePlace (base cycle ext : Nat) (change : Option Nat) (x : Nat) : Nat :=
  if x < base ∨ cycle = 0 then 0
  else
    let start := base + (x - base) / cycle * cycle
    match change with
    | some c => if start < c ∧ c - start < ext ∧ base < start then cycle + (x - start) else x - start
    | none => x - start

/-- Gate states of a port at an XT in ns (R682 to R684). -/
def EthPort.gatesAt (e : EthPort) (x : Nat) : Nat :=
  match e.qbvActive, e.qbvOper with
  | true, some (base, cycle, ext, l) => gatesIn l (cyclePlace base cycle ext (e.qbvPending.map (fun p => p.1 / 2 ^ 16)) x)
  | _, _ => 255

/-- The instants of a list at which its entries end, in ns from the start of the cycle, within the cycle. -/
def edges (cycle : Nat) : Nat → List (Nat × Nat) → List Nat
  | _, [] => [cycle]
  | t, e :: l => if t + e.2 < cycle then (t + e.2) :: edges cycle (t + e.2) l else [cycle]

/-- Nanoseconds for which a gate stays open from an XT on, at most two cycles; none: it is never closed (R684). -/
def EthPort.openFor (e : EthPort) (q x : Nat) : Option Nat :=
  match e.qbvActive, e.qbvOper with
  | true, some (base, cycle, _, l) =>
    let start := base + (x - base) / cycle * cycle
    let marks := (List.range 3).flatMap (fun k => (edges cycle 0 l).map (fun t => start + k * cycle + t))
    (marks.find? (fun m => decide (x < m) && !bitOf (e.gatesAt m) q)).map (· - x)
  | _, _ => none

/-- The longest window of a gate in a list, in ns; none: always open. -/
def EthPort.widest (e : EthPort) (q : Nat) : Option Nat :=
  match e.qbvActive, e.qbvOper with
  | true, some (base, cycle, _, l) =>
    if l.all (fun x => bitOf x.1 q) then none
    else
      let starts := base :: (edges cycle 0 l).map (base + ·)
      some (starts.foldl (fun m t => if bitOf (e.gatesAt t) q then max m ((e.openFor q t).getD cycle) else m) 0)
  | _, _ => none

/-- A frame that no gate window or queueMaxSDU lets through (R684). -/
def State.oversize (s : State) (p q : Nat) (f : EthFrame) : Bool :=
  decide (s.par (epEth p) P.qbvMaxSdu q < f.len) ||
    (match (s.getEth p).widest q with | some w => decide (w < f.wireNs) | none => false)

/-- The head of a queue may begin now: its gate is open and stays open for its time on the wire (R679, R684). -/
def State.mayBegin (s : State) (p q : Nat) (f : EthFrame) : Bool :=
  let e := s.getEth p
  bitOf e.gates q && (match e.openFor q s.xt with | some n => decide (f.wireNs ≤ n) | none => true)

/-- The head of a queue taken out. -/
def State.popQueue (s : State) (p q : Nat) : State :=
  s.modEth p (fun e => { e with queues := mset e.queues q ((e.queue q).drop 1) [] })

/-- Heads that are dropped instead of sent: oversize frames (R684). -/
def State.dropOversize (s : State) (p q : Nat) : State :=
  match (s.getEth p).queue q with
  | f :: _ => if s.oversize p q f then (s.popQueue p q).bump (epEth p) C.netTxOversize else s
  | [] => s

/-- The queue whose first frame is sent next: the highest that may begin (R678, R679). -/
def State.nextQueue (s : State) (p : Nat) : Option Nat :=
  (List.range 8).reverse.find? (fun q => match (s.getEth p).queue q with
    | f :: _ => s.mayBegin p q f
    | [] => false)

/-- Heads that have not begun by their t_target are dropped (R680). -/
def State.dropLate (s : State) (p q : Nat) : State :=
  match (s.getEth p).queue q with
  | f :: _ => (match f.target with
    | some t => if t < s.xt16 then (s.popQueue p q).bump (epEth p) C.netTxLate else s
    | none => s)
  | [] => s

/-- ETH_FRAME_TX (R678 to R680, R684): the highest queue whose head may begin. -/
def execEthFrameTx (port : Fin 2) (s : State) : Out :=
  let p := port.val
  .next (if !(s.getEth p).linkUp then s
    else
      let s := s.fillSession p
      let s := (List.range 8).foldl (fun s q => (s.dropLate p q).dropOversize p q) s
      match s.nextQueue p with
      | none => s
      | some q =>
        match (s.getEth p).queue q with
        | [] => s
        | f :: _ => (s.popQueue p q).ethSent p q f)

/-- A frame of Q7 that leaves at once with its departure time inserted (R89). -/
def State.ethDepart (s : State) (p : Nat) (m : EthMsg) (n : Nat) : State :=
  s.ethSent p 7 { msg := m, len := s.frameLen p n, target := none }

/-- ETH_SCHEDULED_ENQUEUE (R413, R680): a setpoint frame enters Q5 at its send instant; t_target is its setpoint's. -/
def execEthScheduledEnqueue (port : Fin 2) (na : Fin 128) (s : State) : Out :=
  let p := port.val
  let i := na.val
  .next (match (s.getRemote i).frame with
    | some m =>
      if s.par (epRemote i) P.remTransport ≠ p then s
      else
        let t := match m with | .remote _ _ _ t _ _ _ => t | _ => 0
        let s := s.modRemote i (fun r => { r with frame := none })
        s.ipSend p 5 (s.remIp i) { msg := m, len := s.frameLen p 68, target := some t }
    | none => s)

/-- ETH_TX_LATE (R680): the head of a queue has not begun by its t_target. -/
def execEthTxLate (port : Fin 2) (queue : Fin 8) (s : State) : Out :=
  let p := port.val
  .next (s.dropLate p queue.val)

/-- QBV_GATE_CHANGE (R684): the gates take the states of the present instant. -/
def execQbvGateChange (port : Fin 2) (s : State) : Out :=
  .next (s.modEth port.val (fun e => { e with gates := e.gatesAt s.xt }))

/-- ConfigChangeTime as XT.16 for a boundary (R683). -/
def changeTime (base cycle b : Nat) : Nat :=
  let bn := base * 2 ^ 16
  let c := max 1 (cycle * 2 ^ 16)
  if b ≤ bn then bn else bn + (b - bn + c - 1) / c * c

/-- A commit of qbv_list or qbv_enable makes a change pending from its boundary (R683). -/
def State.qbvCommitted (s : State) (p b : Nat) : State :=
  let r := qbvRecord (arrBytes (s.par (epEth p) P.qbvList))
  s.modEth p (fun e => { e with qbvPending := some (changeTime r.1 r.2.1 b, s.par (epEth p) P.qbvEnable == 1) })

/-- QBV_CONFIG_CHANGE (R683). -/
def execQbvConfigChange (port : Fin 2) (s : State) : Out :=
  let p := port.val
  .next (match (s.getEth p).qbvPending with
    | some (t, en) =>
      if s.xt16 < t then s
      else
        let r := qbvRecord (arrBytes (s.par (epEth p) P.qbvList))
        let s := s.modEth p (fun e => { e with qbvPending := none, qbvActive := en, qbvOper := if en then some r else none })
        s.modEth p (fun e => { e with gates := e.gatesAt s.xt })
    | none => s)

/-! ### Reception (R672 to R677) -/

/-- A frame received complete. -/
def State.ethRx (s : State) (p : Nat) : State := s.bump (epEth p) C.netRxFrames

/-- ETH_FRAME_INVALID (R674 to R677). -/
def execEthFrameInvalid (port : Fin 2) (bad : EthBad) (s : State) : Out :=
  let ep := epEth port.val
  .next (match bad with
    | .fcs => s.bump ep C.netRxFcsErr
    | .length => s.bump ep C.netRxLenErr
    | .unknown => (s.ethRx port.val).bump ep C.netRxUnknown
    | .fragments => (s.ethRx port.val).bump ep C.netFragDrop
    | .classFull c => (s.ethRx port.val).bump ep C.netRxDrop c.val)

/-- PAUSE_FRAME_RX (R674). -/
def execPauseFrameRx (port : Fin 2) (s : State) : Out := .next ((s.ethRx port.val).bump (epEth port.val) C.netRxPause)

/-- ARP_REQUEST_RX (R675): answered for the port's own address. -/
def execArpRequestRx (port : Fin 2) (target sender : BitVec 32) (mac : BitVec 48) (s : State) : Out :=
  let p := port.val
  let s := s.ethRx p
  .next (if target.toNat = s.par (epEth p) P.netIp then s.ethPut p 2 { msg := .arpReply sender mac, len := 64, target := none } else s)

/-- ARP_REPLY_RX (R675): the entry is confirmed, a 65th displacing the oldest, and what waited for it is sent. -/
def execArpReplyRx (port : Fin 2) (sender : BitVec 32) (mac : BitVec 48) (s : State) : Out :=
  let p := port.val
  let s := s.ethRx p
  let e := s.getEth p
  let go := e.held.filter (fun h => h.1 == sender)
  let s := s.setEth p { e with
    arp := ((sender, mac, s.tick) :: e.arp.filter (fun a => a.1 != sender)).take 64, held := e.held.filter (fun h => h.1 != sender) }
  .next (go.foldl (fun s h => s.ethPut p h.2.2.1 h.2.1) s)

/-- ICMP_ECHO_RX (R675): at most 100 answers a second. -/
def execIcmpEchoRx (port : Fin 2) (sender : BitVec 32) (data : List Byte) (s : State) : Out :=
  let p := port.val
  let s := s.ethRx p
  let i := (s.getEth p).icmp
  let i := if i.1 + 64000000 ≤ s.tick ∨ i.2 = 0 then (s.tick, 0) else i
  .next (if i.2 < 100 then
    let s := s.modEth p (fun e => { e with icmp := (i.1, i.2 + 1) })
    s.ipSend p 2 sender { msg := .echoReply sender data, len := s.frameLen p (24 + data.length), target := none }
  else s)

/-- ARP_ENTRY_EXPIRY (R675). -/
def execArpEntryExpiry (port : Fin 2) (addr : BitVec 32) (s : State) : Out :=
  .next (s.modEth port.val (fun e => { e with arp := e.arp.filter (fun a => !(a.1 == addr && s.expired a.2.2 (msTicks 60000))) }))

/-- ARP_RESOLVE_TIMEOUT (R675): what has waited 10 ms for an address is dropped and counted. -/
def execArpResolveTimeout (port : Fin 2) (addr : BitVec 32) (s : State) : Out :=
  let p := port.val
  let old (h : BitVec 32 × EthFrame × Nat × Nat) : Bool := h.1 == addr && s.expired h.2.2.2 (msTicks 10)
  let n := ((s.getEth p).held.filter old).length
  .next ((s.modEth p (fun e => { e with held := e.held.filter (fun h => !old h) })).bumpBy (epEth p) C.netArpFail 0 n)

/-- FRAG_REASSEMBLY_TIMEOUT (R676). -/
def execFragReassemblyTimeout (port : Fin 2) (buf : Fin 8) (s : State) : Out :=
  .next ((s.modEth port.val (fun e => { e with reasm := mset e.reasm buf.val 0 0 })).bump (epEth port.val) C.netFragDrop)

/-! ### PTP (R685 to R689) -/

/-- A PTP message received on a port with a profile: `f` runs when its header is good, else it is dropped and counted (R685). -/
def State.ptpRx (s : State) (p : Nat) (h : PtpHeader) (f : State → State) : State :=
  let s := s.ethRx p
  if s.par (epEth p) P.ptpProfile = 0 then s
  else if !h.wellFormed || h.major != 2 || h.domain != s.par (epEth p) P.ptpDomain then s.bump (epEth p) C.netPtpBad
  else f s

/-- PTP of a port. -/
def State.ptp (s : State) (p : Nat) : PtpPort := (s.getEth p).ptp

/-- Counted as malformed or unmatched (R685). -/
def State.ptpBad (s : State) (p : Nat) : State := s.bump (epEth p) C.netPtpBad

/-- Counted as ignored (R685). -/
def State.ptpIgnore (s : State) (p : Nat) : State := s.bump (epEth p) C.netPtpIgnored

/-- The offset of a Sync while the port is in SLAVE: kept, and on the leader's source port a time measurement (R688). -/
def State.ptpOffset (s : State) (p : Nat) (origin rx : Int) : State :=
  let s := s.modPtp p (fun q => { q with lastSync := some (origin, rx.toNat) })
  match (s.ptp p).state, (s.ptp p).delay with
  | .slave, some d =>
    let o := origin + d - rx
    let s := s.modPtp p (fun q => { q with offset := o })
    if (s.ptp p).source && s.leads then s.timeMeasure o else s
  | _, _ => s

/-- Port identity of an Announce's sender. -/
def Announce.port (a : Announce) : BitVec 80 := a.sender ++ BitVec.ofNat 16 a.senderPort

/-- A Sync comes from the master the port holds, or the port holds none (R686, R688; log entry 53). -/
def State.fromMaster (s : State) (p : Nat) (h : PtpHeader) : Bool :=
  match (s.ptp p).master with
  | some a => Announce.port a == h.sender
  | none => true

/-- PTP_SYNC_RX (R688): a one-step Sync is measured, a two-step one waits for its Follow_Up. -/
def execPtpSyncRx (port : Fin 2) (h : PtpHeader) (twoStep : Bool) (origin : Nat) (corr : Int) (rx : TdcEdge) (s : State) : Out :=
  let p := port.val
  let st := s.stampEdge (.ethRx port) rx
  let at_ := s.xtOfFt8 st
  .next ((s.putStamp (.ethRx port) st).ptpRx p h (fun s =>
    if !s.fromMaster p h then s
    else if twoStep then s.modPtp p (fun q => { q with syncWait := some (h.seq, corr, at_) })
    else s.ptpOffset p ((origin : Int) + corr) at_))

/-- PTP_FOLLOW_UP_RX (R685, R688). -/
def execPtpFollowUpRx (port : Fin 2) (h : PtpHeader) (origin : Nat) (corr : Int) (s : State) : Out :=
  let p := port.val
  .next (s.ptpRx p h (fun s =>
    if !s.fromMaster p h then s
    else match (s.ptp p).syncWait with
    | some (q, c, rx) =>
      if q = h.seq then (s.modPtp p (fun q => { q with syncWait := none })).ptpOffset p ((origin : Int) + c + corr) rx else s.ptpBad p
    | none => s.ptpBad p))

/-- PTP_PDELAY_REQ_RX (R89 to R91): answered in one step on gPTP; ignored on the other profile. -/
def execPtpPdelayReqRx (port : Fin 2) (h : PtpHeader) (rx : TdcEdge) (cyc : Fin 100) (tx : TdcEdge) (s : State) : Out :=
  let p := port.val
  let st := s.stampEdge (.ethRx port) rx
  let t2 := s.xtOfFt8 st
  .next ((s.putStamp (.ethRx port) st).ptpRx p h (fun s =>
    if s.par (epEth p) P.ptpProfile ≠ 1 then s.ptpIgnore p
    else
      let t3 := s.departure (.ethTx port) cyc.val
      let real := s.stampEdge (.ethTx port) tx
      ((s.ethDepart p (.pdelayResp h.seq h.sender t2 (s.xtOfFt16 t3)) 54).checkTx p t3 real).putStamp (.ethTx port) real))

/-- The mean path delay measured (R686, R688). -/
def State.ptpDelay (s : State) (p : Nat) (d : Int) (capable : Bool) : State :=
  (s.modPtp p (fun q => { q with delay := some d, req := none, respWait := none, asCapable := capable })).followTime

/-- PTP_PDELAY_RESP_RX (R685, R686): one-step carries t3 - t2 in its correction. -/
def execPtpPdelayRespRx (port : Fin 2) (h : PtpHeader) (twoStep : Bool) (t2 : Nat) (corr : Int) (rx : TdcEdge) (s : State) : Out :=
  let p := port.val
  let st := s.stampEdge (.ethRx port) rx
  let t4 := s.xtOfFt8 st
  .next ((s.putStamp (.ethRx port) st).ptpRx p h (fun s =>
    if s.par (epEth p) P.ptpProfile ≠ 1 then s.ptpIgnore p
    else match (s.ptp p).req with
      | some (q, t1) =>
        if q ≠ h.seq then s.ptpBad p
        else if twoStep then s.modPtp p (fun x => { x with respWait := some (t2, corr, t4) })
        else s.ptpDelay p (((t4 : Int) - t1 - corr) / 2) true
      | none => s.ptpBad p))

/-- PTP_PDELAY_RESP_FOLLOW_UP_RX (R685, R686). -/
def execPtpPdelayRespFollowUpRx (port : Fin 2) (h : PtpHeader) (t3 : Nat) (corr : Int) (s : State) : Out :=
  let p := port.val
  .next (s.ptpRx p h (fun s =>
    if s.par (epEth p) P.ptpProfile ≠ 1 then s.ptpIgnore p
    else match (s.ptp p).req, (s.ptp p).respWait with
      | some (q, t1), some (t2, c, t4) =>
        if q = h.seq then s.ptpDelay p (((t4 : Int) - t1 - ((t3 : Int) - t2) - c - corr) / 2) true else s.ptpBad p
      | _, _ => s.ptpBad p))

/-- PTP_DELAY_RESP_RX (R685, R686): the end-to-end delay from the last Sync and this exchange. -/
def execPtpDelayRespRx (port : Fin 2) (h : PtpHeader) (rxTime : Nat) (corr : Int) (s : State) : Out :=
  let p := port.val
  .next (s.ptpRx p h (fun s =>
    if s.par (epEth p) P.ptpProfile ≠ 2 then s.ptpBad p
    else match (s.ptp p).req, (s.ptp p).lastSync with
      | some (q, t3), some (origin, rx) =>
        if q = h.seq then s.ptpDelay p ((((rx : Int) - origin) + ((rxTime : Int) - corr - t3)) / 2) (s.ptp p).asCapable
        else s.ptpBad p
      | _, _ => s.ptpBad p))

/-- Announce intervals for which the port's master has won over the source's (R687). -/
def State.countWin (s : State) (p : Nat) : State :=
  match s.ptpSource, (s.ptp p).master with
  | some q, some a =>
    if q = p then s
    else match (s.ptp q).master with
      | some b => s.modPtp p (fun x => { x with wins := if announceBetter a b then x.wins + 1 else 0 })
      | none => s
  | _, _ => s

/-- Ticks of a power of two of seconds. -/
def logTicks (n : Int) : Rat := msTicks 1000 * (if 0 ≤ n then (2 ^ n.toNat : Rat) else 1 / (2 ^ (-n).toNat : Rat))

/-- ptp_announce_timeout announce intervals of a master, in ticks (R686). -/
def State.announceTicks (s : State) (p : Nat) (a : Announce) : Rat :=
  (s.par (epEth p) P.ptpAnnounceTimeout : Rat) * logTicks a.logInterval

/-- PTP_ANNOUNCE_RX (R686, R687). -/
def execPtpAnnounceRx (port : Fin 2) (h : PtpHeader) (a : Announce) (s : State) : Out :=
  let p := port.val
  .next (s.ptpRx p h (fun s =>
    if s.par (epEth p) P.ptpSourceEnable = 0 then s
    else
      let q := s.ptp p
      let old := q.heard.filter (fun x =>
        !(x.1.sender == a.sender && x.1.senderPort == a.senderPort) && !s.expired x.2 (s.announceTicks p x.1))
      let heard := (a, s.tick) :: old
      let same := match q.master with
        | some m => m.sender == a.sender && m.senderPort == a.senderPort
        | none => false
      let others := (heard.map (·.1)).foldl (fun b x => if announceBetter x b then x else b) a
      let take := match q.master with
        | some m => if same then others else if announceBetter a m then a else m
        | none => a
      let s := s.modPtp p (fun q => { q with
        heard := heard, master := some take
        annTick := if same || q.master.isNone || take == a then s.tick else q.annTick })
      (s.countWin p).followTime))

/-- PTP_IGNORED_RX (R685). -/
def execPtpIgnoredRx (port : Fin 2) (bad : Bool) (s : State) : Out :=
  let s := s.ethRx port.val
  .next (if bad then s.ptpBad port.val else s.ptpIgnore port.val)

/-- PTP_ANNOUNCE_TIMEOUT (R686, R687): no Announce of the master has come within ptp_announce_timeout announce intervals: it is lost. -/
def execPtpAnnounceTimeout (port : Fin 2) (s : State) : Out :=
  let p := port.val
  .next (match (s.ptp p).master with
    | none => s
    | some a => if !s.expired (s.ptp p).annTick (s.announceTicks p a) then s
    else (s.modPtp p (fun q => { q with master := none, heard := [], wins := 0, syncWait := none, lastSync := none })).followTime)

/-- The port's next request is due: ptp_log_req_interval after the last. -/
def State.ptpReqDue (s : State) (p : Nat) : Bool :=
  match (s.ptp p).reqTick with
  | some t => s.passed t (logTicks (s.parZ (epEth p) P.ptpLogReqInterval))
  | none => true

/-- PTP_DELAY_REQ_SEND (R89 to R91): Pdelay_Req on gPTP, Delay_Req on the other profile. -/
def execPtpDelayReqSend (port : Fin 2) (cyc : Fin 100) (tx : TdcEdge) (s : State) : Out :=
  let p := port.val
  let prof := s.par (epEth p) P.ptpProfile
  .next (if prof = 0 || !(s.getEth p).linkUp || !s.ptpReqDue p then s
    else
      let t1 := s.departure (.ethTx port) cyc.val
      let n := (s.ptp p).seq + 1
      let x := s.xtOfFt16 t1
      let real := s.stampEdge (.ethTx port) tx
      let s := s.modPtp p (fun q => { q with seq := n, req := some (n, x), respWait := none, reqTick := some s.tick })
      ((s.ethDepart p (if prof = 1 then .pdelayReq n x else .delayReq n x) (if prof = 1 then 54 else 72)).checkTx p t1 real).putStamp
        (.ethTx port) real)

/-- The link of a port comes up or goes down (R672, R685). -/
def State.ethLink (s : State) (p : Nat) (up : Bool) : State :=
  let s := s.modEth p (fun e => { e with linkUp := up })
  let s := s.modPtp p (fun q => if up then q else
    { q with master := none, heard := [], delay := none, req := none, respWait := none, syncWait := none, lastSync := none
             asCapable := false, wins := 0 })
  s.followTime

/-- ETH_LINK_CHANGE (R672, R685). -/
def execEthLinkChange (port : Fin 2) (up : Bool) (s : State) : Out := .next (s.ethLink port.val up)

/-! ### Safe frames and relays (R666, R690, R691) -/

/-- SAFE_FRAME_HANDOVER (R691): the frame goes to the safety island unchanged, with its port and receive stamp. -/
def execSafeFrameHandover (port : Fin 2) (bytes : List Byte) (rx : TdcEdge) (s : State) : Out :=
  let stamp := s.stampEdge (.ethRx port) rx
  .next (((s.putStamp (.ethRx port) stamp).ethRx port.val).modSafety (fun f => { f with inbox := (port.val, bytes, stamp) :: f.inbox }))

/-- A copy of a safe frame on an Ethernet port; a port that is down sends none (R690). -/
def State.safeCopy (s : State) (p conn : Nat) (ip : BitVec 32) (bytes : List Byte) : State :=
  if (s.getEth p).linkUp then s.udpOut p 6 ip bytes (fun l => .safe conn l) else s.bump (epEth p) C.netSafeUnsent

/-- The second copy of a safe frame (R756 table): copy 1 in byte 2 and the CRC over bytes 0-31 that follows from it. -/
def secondCopy (l : List Byte) : List Byte :=
  let l := l.take 2 ++ [1#8] ++ (l.take 32).drop 3
  l ++ leBytes 4 (crc32 l)

/-- The two copies of a safe frame (R690): the first on port A, the second on port B or at the Ethernet port of the bridge
through the fabric. -/
def State.sendSafe (s : State) (conn : Nat) (bytes : List Byte) : State :=
  let c := mget s.safety.config.conns conn {}
  let ip := BitVec.ofNat 32 c.addr
  let s := s.safeCopy 0 conn ip bytes
  if s.par (epEth 0) P.safeSecond = 0 then s.safeCopy 1 conn ip (secondCopy bytes)
  else
    let d := s.par (epEth 0) P.safeBridge
    if (s.unicast d).isEmpty then s.bump (epEth 0) C.netSafeUnsent
    else s.fabSend d (.relay 1 false ip (BitVec.ofNat 16 (s.par (epEth 0) P.safeUdpPort)) (secondCopy bytes))

/-- SAFE_FRAME_TX (R690): a frame the island has handed over leaves as its two copies. -/
def execSafeFrameTx (conn : Fin 64) (bytes : List Byte) (s : State) : Out :=
  let f := (conn.val, bytes)
  .next (if f ∈ s.safety.outbox then
    (s.modSafety (fun q => { q with outbox := q.outbox.erase f })).sendSafe conn.val bytes
  else s)

/-- RELAY_RX (R666): outward, the bridge sends the datagram from its own address and opens the relay for 1 s; a returned one has
come to its device, which takes it as received. -/
def execRelayRx (src : Fin 4096) (ethPort : Fin 2) (returned : Bool) (addr : BitVec 32) (udp : BitVec 16) (data : List Byte) (s : State) : Out :=
  let p := ethPort.val
  .next (if returned then s
    else
      let r : Relay := { port := p, addr := addr, udp := udp, dev := src.val, tick := s.tick }
      let s := { s with fabric := { s.fabric with
        relays := r :: s.fabric.relays.filter (fun x => !(x.port == p && x.addr == addr && x.udp == udp)) } }
      s.udpOut p 3 addr data (fun l => .relay addr udp l))

/-- RELAY_DATAGRAM_RX (R666, R677 class 5): returned to the device whose relay is open; otherwise it matches no class. -/
def execRelayDatagramRx (port : Fin 2) (addr : BitVec 32) (udp : BitVec 16) (data : List Byte) (s : State) : Out :=
  let s := s.ethRx port.val
  .next (match s.fabric.relays.find? (fun r => r.port == port.val && r.addr == addr && r.udp == udp && !s.expired r.tick (msTicks 1000)) with
    | some r => s.fabSend r.dev (.relay port.val true addr udp data)
    | none => s.bump (epEth port.val) C.netRxUnknown)

end Sys2Proof.Machine
end

