-- ==== Sys2Proof/Machine/Fio.lean ====
section
/-! DEFINITION. 24 V field inputs and outputs (17_field_io.md): the field dies' inputs, outputs, heartbeat and supply groups, as
the core die commands and reads them (R711 to R732), and the brake outputs of the safety island (R754, R755). -/

namespace Sys2Proof.Machine

/-! ### Objects (R711) -/

/-- Supply group of a field input. -/
def groupOfIn (i : Nat) : Nat := i / 16
/-- Supply group of a field output. -/
def groupOfOut (o : Nat) : Nat := o / 8
/-- Die of a supply group. -/
def dieOfGroup (g : Nat) : Nat := g / 2
/-- Die of a field output. -/
def dieOfOut (o : Nat) : Nat := o / 16

/-- A field input. -/
def State.fieldIn (s : State) (i : Nat) : FieldIn := mget s.fio.ins i {}
/-- A field input changed. -/
def State.modIn (s : State) (i : Nat) (g : FieldIn → FieldIn) : State := s.modFio (fun f => { f with ins := mmod f.ins i {} g })
/-- A fast latch input. -/
def State.latchIn (s : State) (i : Nat) : FieldIn := mget s.fio.latches i {}
/-- A fast latch input changed. -/
def State.modLatch (s : State) (i : Nat) (g : FieldIn → FieldIn) : State :=
  s.modFio (fun f => { f with latches := mmod f.latches i {} g })
/-- A field output. -/
def State.fieldOut (s : State) (o : Nat) : FieldOut := mget s.fio.outs o {}
/-- A field output changed. -/
def State.modOut (s : State) (o : Nat) (g : FieldOut → FieldOut) : State := s.modFio (fun f => { f with outs := mmod f.outs o {} g })
/-- A supply group. -/
def State.supply (s : State) (g : Nat) : SupplyGroup := mget s.fio.sups g {}
/-- A supply group changed. -/
def State.modSupply (s : State) (g : Nat) (h : SupplyGroup → SupplyGroup) : State :=
  s.modFio (fun f => { f with sups := mmod f.sups g {} h })
/-- A field die. -/
def State.die (s : State) (d : Nat) : FioDie := mget s.fio.dies d {}
/-- A field die changed. -/
def State.modDie (s : State) (d : Nat) (g : FioDie → FioDie) : State := s.modFio (fun f => { f with dies := mmod f.dies d {} g })

/-- Both groups of a die are missing, so it is unpowered (R23, R714). -/
def State.dieOff (s : State) (d : Nat) : Bool := (s.supply (2 * d)).level == 3 && (s.supply (2 * d + 1)).level == 3

/-- The outputs of a die. -/
def outsOf (d : Nat) : List Nat := (List.range 16).map (16 * d + ·)
/-- The outputs of a group. -/
def outsOfGroup (g : Nat) : List Nat := (List.range 8).map (8 * g + ·)

/-- The output is assigned to the safety island (R726, R754). -/
def State.outSafe (s : State) (o : Nat) : Bool := s.safety.config.brakes.any (fun b => b.2 == o + 1)

/-! ### Inputs (R713 to R720) -/

/-- The stamp of an event that another die counted (R36): the TDC stamp of the frame-start marker less the counts between, each
of `unit` FT.8 units. `die`: 0 and 1 the field dies, 2 the safety die. -/
def State.correlated (s : State) (die : Fin 3) (counter count : BitVec 32) (unit : Nat) : Ft8 :=
  (s.getTdc (pathNo (.frameStart die))).stamp - BitVec.ofNat 40 ((counter - count).toNat * unit)

/-- FT.8 units of a 32 MHz count, 31.25 ns (R36). -/
def fioCountFt8 : Nat := 8000

/-- FIELD_INPUT_DEBOUNCED (R36, R37, R713): the die keeps its count of the raw edge that began the run; while a wire break is
declared the state reads 0 (R716). -/
def execFieldInputDebounced (input : Fin 64) (level : Bool) (count : BitVec 32) (s : State) : Out :=
  let f := s.fieldIn input.val
  .next (if s.dieOff (dieOfGroup (groupOfIn input.val)) || f.state == level || f.wireBreak then s
    else (s.modIn input.val (fun f => { f with state := level, count := count })).bump (0x400 + input.val) C.fioInChanges)

/-- FAST_LATCH_EDGE (R34, R35, R719): the edge's TDC channel delivers its stamp. -/
def execFastLatchEdge (input : Fin 16) (level : Bool) (cycles : Fin 100) (frac : Fin 256) (s : State) : Out :=
  let st := s.stampOf (.fastLatch input) cycles.val frac.val
  let s := s.modTdc (pathNo (.fastLatch input)) (fun c => { c with stamp := st })
  .next ((s.modLatch input.val (fun f => { f with raw := level, edgeTick := s.tick })).bump (0x460 + input.val) C.fioLatchEdges)

/-- FAST_LATCH_DEBOUNCED (R720): the level has held for fl_debounce of the die's clock, at least 0.99 of it by the core's (R733); the
accepted change carries the TDC stamp of the edge that began its run, the last one stamped, since any later edge would have broken
the run. -/
def execFastLatchDebounced (input : Fin 16) (level : Bool) (_stamp : Held) (s : State) : Out :=
  let f := s.latchIn input.val
  let held := s.passed f.edgeTick (usTicks (s.par (0x460 + input.val) P.flDebounce) * 99 / 100)
  .next (if s.dieOff (input.val / 8) || f.raw != level || f.state == level || !held then s
    else s.modLatch input.val (fun f => { f with state := level, stamp := (s.getTdc (pathNo (.fastLatch input))).stamp }))

/-- A change that a die's frame carries, with its stamp: a field input's by frame correlation (R36, R37), a fast latch input's from
the TDC (R720); it reaches what listens to the input (R362). -/
def State.takeChange (s : State) (die : Fin 2) (r : FioReport) (i : Nat) : State :=
  let d := die.val
  if i < 32 then
    let n := 32 * d + i
    let st := s.correlated (die.castLE (by decide)) r.counter (s.fieldIn n).count fioCountFt8
    (s.modIn n (fun f => { f with stamp := st })).inputChanged (0x400 + n) (s.fieldIn n).state st
  else
    let n := 8 * d + (i - 32)
    s.inputChanged (0x460 + n) (r.states.getLsbD i) (s.latchIn n).stamp

/-- A die's frame taken by the core die: raw levels and states, and each change (R714); while a wire break is declared the state
reads 0 (R716). -/
def State.takeReport (s : State) (die : Fin 2) (r : FioReport) : State :=
  let d := die.val
  let put (f : FieldIn) (i : Nat) : FieldIn := { f with raw := r.raws.getLsbD i, state := r.states.getLsbD i && !f.wireBreak }
  let s := (List.range 32).foldl (fun s i => s.modIn (32 * d + i) (fun f => put f i)) s
  let s := (List.range 8).foldl (fun s i => s.modLatch (8 * d + i) (fun f => put f (32 + i))) s
  r.changes.foldl (fun s c => s.takeChange die r c.val) s

/-- FIO_REPORT_RX (R714, R728, R729): the first stale-flagged frame is logged, but not when a power state change the supervisor
ordered silenced the die; an unpowered die sends no frames (R23), and the core die's interfaces lie in D7 (R27). -/
def execFioReportRx (die : Fin 2) (r : FioReport) (s : State) : Out :=
  let d := die.val
  .next (if s.dieOff d || !s.driveOn then s
    else
      let first := r.stale && !(s.die d).hbLost && !(s.die d).quiet && s.power.change.isNone
      let s := s.modDie d (fun f => { f with rxTick := s.tick, stale := r.stale, hbLost := r.stale, quiet := f.quiet && r.stale })
      let s := if first then (s.log epModule 0x0804 (dat 0 d)).bump epModule C.fioHbLost d else s
      s.takeReport die r)

/-- FIO_STALE_TIMEOUT (R714): ten frame slots of 1 µs without a valid frame. -/
def execFioStaleTimeout (die : Fin 2) (s : State) : Out :=
  .next (if s.expired (s.die die.val).rxTick (usTicks 10) then s.modDie die.val (fun f => { f with stale := true }) else s)

/-- WIRE_BREAK_SET (R716, R717). -/
def execWireBreakSet (input : Fin 64) (s : State) : Out :=
  let i := input.val
  let ep := 0x400 + i
  let f := s.fieldIn i
  .next (if s.par ep P.fiWbEnable == 1 && !f.state && !f.wireBreak && (s.supply (groupOfIn i)).level == 0 then
    ((s.modIn i (fun f => { f with wireBreak := true, state := false })).bump ep C.fioWbCnt).log ep 0x0802 (dat 0 1)
  else s)

/-- WIRE_BREAK_CLEAR (R716). -/
def execWireBreakClear (input : Fin 64) (s : State) : Out :=
  let i := input.val
  .next (if (s.fieldIn i).wireBreak then
    (s.modIn i (fun f => { f with wireBreak := false })).log (0x400 + i) 0x0802 0
  else s)

/-! ### Outputs (R723 to R726) -/

/-- An output enters ON. -/
def FieldOut.toOn (o : FieldOut) (tick : Nat) : FieldOut := { o with state := .on, onTick := tick }

/-- An output commanded on or off (R723, R725). -/
def State.command (s : State) (o : Nat) (v : Bool) : State :=
  let g := (s.supply (groupOfOut o)).level
  s.modOut o (fun f =>
    let f := { f with commanded := v }
    if v then
      match f.state with
      | .off => if g ≤ 1 then f.toOn s.tick else { f with state := .supplyOff }
      | _ => f
    else match f.state with
      | .hbOff => { f with retries := 0 }
      | _ => { f with state := .off, retries := 0 })

/-- FIO_OVERLOAD logged at most once per output, cause and second, with the merged count (R725). -/
def State.overload (s : State) (o cause : Nat) : State :=
  let ep := 0x440 + o
  match (s.fieldOut o).logged.find? (fun x => x.1 == cause) with
  | some (_, t, n) =>
    if s.tick < t + 64000000 then s.modOut o (fun f => { f with logged := mput f.logged cause (t, n + 1) })
    else (s.modOut o (fun f => { f with logged := mput f.logged cause (s.tick, 0) })).logFull s.ft8 ep 0x0801 (n + 1) (dat 0 cause)
  | none => (s.modOut o (fun f => { f with logged := mput f.logged cause (s.tick, 0) })).logFull s.ft8 ep 0x0801 1 (dat 0 cause)

/-- OUTPUT_CURRENT_LIMIT (R723). -/
def execOutputCurrentLimit (out : Fin 32) (s : State) : Out :=
  let o := out.val
  .next (if (s.fieldOut o).state == .on then
    ((s.modOut o (fun f => { f with state := .limit })).bump (0x440 + o) C.fioOutLimit).overload o 1
  else s)

/-- OUTPUT_LIMIT_END (R723). -/
def execOutputLimitEnd (out : Fin 32) (s : State) : Out :=
  .next (if (s.fieldOut out.val).state == .limit then s.modOut out.val (·.toOn s.tick) else s)

/-- An output in ON or LIMIT enters COOLING, taking fo_retry_max (R723). -/
def State.cool (s : State) (o : Nat) : State :=
  if (s.fieldOut o).state == .on || (s.fieldOut o).state == .limit then
    let m := s.par (0x440 + o) P.foRetryMax
    ((s.modOut o (fun f => { f with state := .cooling, retryMax := m })).bump (0x440 + o) C.fioOutTsd).overload o 2
  else s

/-- OUTPUT_OVERTEMP (R723). -/
def execOutputOvertemp (out : Fin 32) (s : State) : Out := .next (s.cool out.val)

/-- GROUP_OVERTEMP (R724). -/
def execGroupOvertemp (group : Fin 4) (s : State) : Out := .next ((outsOfGroup group.val).foldl (fun s o => s.cool o) s)

/-- OUTPUT_COOLED (R723, R725): a retry, or LATCHED when the retries have reached fo_retry_max. -/
def execOutputCooled (out : Fin 32) (s : State) : Out :=
  let o := out.val
  let f := s.fieldOut o
  .next (if f.state != .cooling then s
    else if f.retryMax ≠ 0 ∧ f.retryMax ≤ f.retries then s.modOut o (fun f => { f with state := .latched })
    else (s.modOut o (fun f => { f.toOn s.tick with retries := f.retries + 1 })).overload o 3)

/-- OUTPUT_RETRY_RESET (R725): 1 s in ON. -/
def execOutputRetryReset (out : Fin 32) (s : State) : Out :=
  let f := s.fieldOut out.val
  .next (if f.state == .on && s.passed f.onTick (msTicks 1000) then s.modOut out.val (fun f => { f with retries := 0 }) else s)

/-- Outputs of a mask. -/
def maskOuts (mask : BitVec 32) : List Nat := (List.range 32).filter (fun o => mask.getLsbD o)

/-- FIO_OUT_SET (R557, R726): the command waits for the frames that carry it. -/
def execFioOutSet (ref : CmdRef) (mask values : BitVec 32) (s : State) : Out :=
  .next (s.execCmd ref 0x0800 (fun k s =>
    s.checked k [((maskOuts mask).any s.outSafe, E.conflict)] (fun s =>
      let on (d : Nat) := (outsOf d).any (fun o => mask.getLsbD o)
      if mask = 0 then s.ok k
      else
        let s := s.run k
        [0, 1].foldl (fun s d => if on d then s.modDie d (fun f => { f with sets := f.sets ++ [(k, mask.toNat, values.toNat)] }) else s) s)))

/-- FIO_OUT_AT (R557, R726). -/
def execFioOutAt (ref : CmdRef) (mask values : BitVec 32) (ft : Ft) (s : State) : Out :=
  .next (s.execCmd ref 0x0801 (fun k s =>
    let l := maskOuts mask
    let d := ftDiff ft s.ft
    s.checked k [(l.any (fun o => s.outSafe o || (s.fieldOut o).timed.isSome), E.conflict),
        (decide (d < 20000), E.tooLate), (decide (2000000000 < d), E.range)] (fun s =>
      if mask = 0 then s.ok k
      else l.foldl (fun s o => s.modOut o (fun f => { f with timed := some (ft, values.getLsbD o, k) })) (s.run k))))

/-- A timed command completes once none of its outputs waits. -/
def State.timedDone (s : State) (k : Nat) (st : BitVec 16) : State :=
  if (List.range 32).any (fun o => match (s.fieldOut o).timed with | some (_, _, j) => j == k | none => false) then s else s.finish k st

/-- Pending timed changes of some outputs discarded; their commands end with a status (R727, R774; log entry 55). -/
def State.dropTimed (s : State) (l : List Nat) (st : BitVec 16) : State :=
  let ks := (l.filterMap (fun o => (s.fieldOut o).timed.map (·.2.2))).eraseDups
  let s := l.foldl (fun s o => s.modOut o (fun f => { f with timed := none })) s
  ks.foldl (fun s k => s.timedDone k st) s

/-- FIO_OUT_AT_APPLY (R726): the timed changes of a die whose FT has come. -/
def execFioOutAtApply (die : Fin 2) (s : State) : Out :=
  let due := (outsOf die.val).filterMap (fun o => match (s.fieldOut o).timed with
    | some (t, v, k) => if 0 ≤ ftDiff s.ft t then some (o, v, k) else none
    | none => none)
  .next (if s.dieOff die.val || (s.die die.val).lost then s
    else
      let s := due.foldl (fun s x => (s.modOut x.1 (fun f => { f with timed := none, atTick := some s.tick })).command x.1 x.2.1) s
      ((due.map (·.2.2)).eraseDups).foldl (fun s k => s.timedDone k E.ok) s)

/-! ### Heartbeat (R727, R728) -/

/-- The frames that carry FIO_OUT_SET commands have left for a die: a command that waits for no other die completes (R557). -/
def State.setsLeft (s : State) (d : Nat) : State :=
  let l := (s.die d).sets
  let s := s.modDie d (fun f => { f with sets := [] })
  l.foldl (fun s x => if ((s.die (1 - d)).sets.any (fun y => y.1 == x.1)) then s else s.ok x.1) s

/-- A timed change has acted on the output in the present 32 MHz sample of its die, two local ticks long: it stands against a
FIO_OUT_SET of that sample (R726). -/
def State.timedActs (s : State) (o : Nat) : Bool :=
  match (s.fieldOut o).atTick with
  | some t => decide (s.tick / 2 ≤ t / 2)
  | none => false

/-- FIO_FRAME_RX (R726 to R728): a frame that fails its CRC is discarded with what it carries; a valid one ends HB_LOST and
commands the outputs. The core die sends frames while D7 is powered (R27, R770). -/
def execFioFrameRx (die : Fin 2) (crcOk : Bool) (s : State) : Out :=
  let d := die.val
  let l := (s.die d).sets
  let on := s.driveOn
  let s := if on then s.setsLeft d else s
  .next (if s.dieOff d || !on then s
    else if !crcOk then s.bump epModule C.fioFrameErr d
    else
      let was := (s.die d).lost
      let s := s.modDie d (fun f => { f with dieTick := s.tick, lost := false })
      let s := if was then (outsOf d).foldl (fun s o =>
          s.modOut o (fun f => if f.state == .hbOff then { f with state := .off, commanded := false, retries := 0 } else f)) s
        else s
      l.foldl (fun s x => ((outsOf d).filter (fun o => bitOf x.2.1 o && !s.timedActs o)).foldl (fun s o => s.command o (bitOf x.2.2 o)) s) s)

/-- FIO_HEARTBEAT_TIMEOUT (R727): the die enters HB_LOST; outputs of the safety island are left (R755). -/
def execFioHeartbeatTimeout (die : Fin 2) (s : State) : Out :=
  let d := die.val
  .next (if s.dieOff d || (s.die d).lost || !s.expired (s.die d).dieTick (msTicks (s.par epModule P.fioHbTimeout)) then s
    else
      let s := s.modDie d (fun f => { f with lost := true })
      let s := s.dropTimed (outsOf d) E.aborted
      ((outsOf d).filter (fun o => !s.outSafe o)).foldl (fun s o => s.modOut o (fun f => { f with state := .hbOff })) s)

/-! ### Supply groups (R730, R731) -/

/-- Lower threshold of a level, mV (R730). -/
def levelFloor (l : Nat) : Nat := [18000, 15000, 9000, 0].getD l 0

/-- Level of a voltage (R730). -/
def levelOf (mv : Nat) : Nat := if 18000 ≤ mv then 0 else if 15000 ≤ mv then 1 else if 9000 ≤ mv then 2 else 3

/-- Level a rising voltage reaches: each threshold plus 0.5 V (R730). -/
def riseLevel (mv : Nat) : Nat := if 18500 ≤ mv then 0 else if 15500 ≤ mv then 1 else if 9500 ≤ mv then 2 else 3

/-- SUPPLY_MEASUREMENT (R730): the voltage, and since when it has asked for a lower or a higher level. -/
def execSupplyMeasurement (group : Fin 4) (mv : Fin 65536) (s : State) : Out :=
  .next (s.modSupply group.val (fun g =>
    let fall := if mv.val < levelFloor g.level then
        (match g.falling with
          | some (l, t) => some (min l (levelOf mv.val), t)
          | none => some (levelOf mv.val, s.tick))
      else none
    let rise := if riseLevel mv.val < g.level then
        (match g.rising with
          | some (l, t) => some (max l (riseLevel mv.val), t)
          | none => some (riseLevel mv.val, s.tick))
      else none
    { g with mv := mv.val, falling := fall, rising := rise }))

/-- A group takes a level (R723, R730, R731). -/
def State.setLevel (s : State) (g l : Nat) : State :=
  let s := s.modSupply g (fun x => { x with level := l, falling := none, rising := none })
  let s := (outsOfGroup g).foldl (fun s o => s.modOut o (fun f =>
    match f.state with
    | .on | .limit | .cooling => if 2 ≤ l then { f with state := .supplyOff } else f
    | .supplyOff => if l ≤ 1 then f.toOn s.tick else f
    | _ => f)) s
  (s.bump (0x480 + g) C.fioSupChanges).log (0x480 + g) 0x0803 (dat 0 l + dat 4 (s.supply g).mv)

/-- SUPPLY_LEVEL_FALL (R730): below the threshold for 100 µs. -/
def execSupplyLevelFall (group : Fin 4) (s : State) : Out :=
  .next (match (s.supply group.val).falling with
    | some (l, t) => if s.passed t (usTicks 100) then s.setLevel group.val l else s
    | none => s)

/-- SUPPLY_LEVEL_RISE (R730): 0.5 V above the threshold for 10 ms. -/
def execSupplyLevelRise (group : Fin 4) (s : State) : Out :=
  .next (match (s.supply group.val).rising with
    | some (l, t) => if s.passed t (msTicks 10) then s.setLevel group.val l else s
    | none => s)

/-! ### Brake outputs (R754, R755) -/

/-- The brake outputs on a die with their channels. -/
def State.brakesOn (s : State) (d : Nat) : List (Nat × Nat) :=
  (s.safety.config.brakes.map (fun b => (b.1, b.2 - 1))).filter (fun b => dieOfOut b.2 == d)

/-- SAFETY_FIO_FRAME_RX (R754, R755): a valid frame commands the brake outputs. -/
def execSafetyFioFrameRx (die : Fin 2) (valid : Bool) (s : State) : Out :=
  let d := die.val
  .next (if !valid || s.dieOff d then s
    else
      let s := s.modDie d (fun f => { f with safTick := s.tick, safLost := false })
      (s.brakesOn d).foldl (fun s b => s.command b.2 (s.safety.brakeOn.contains b.1)) s)

/-- SAFETY_FIO_LINK_TIMEOUT (R755): 2 ms without a valid frame from the safety die. -/
def execSafetyFioLinkTimeout (die : Fin 2) (s : State) : Out :=
  let d := die.val
  .next (if s.expired (s.die d).safTick (msTicks 2) then
    (s.brakesOn d).foldl (fun s b => s.command b.2 false) (s.modDie d (fun f => { f with safLost := true }))
  else s)

end Sys2Proof.Machine
end

