-- ==== Sys2Proof/Machine/Island.lean ====
section
/-! DEFINITION. The safety island (18_safety.md): the configuration image and its commissioning, STO groups and their tests, safe
inputs, taps, safety functions, brakes, safe connections, and the island's states (R734 to R769, R844). -/

namespace Sys2Proof.Machine

/-! ### The configuration image (R762, R763) -/

/-- An entry of a map whose entries' presence is data. -/
def mfind {β : Type} (m : SMap β) (k : Nat) : Option β := (m.find? (fun e => e.1 == k)).map (·.2)

/-- Body length of a record by type (R762); 0 for no type. -/
def safRecLen : Nat → Nat
  | 1 => 4 | 2 => 80 | 3 => 24 | 4 => 4 | 5 => 28 | 6 => 28 | 7 => 4 | _ => 0

/-- A byte of a record's body. -/
def bAt (b : List Byte) (o : Nat) : Nat := (b.getD o 0).toNat

/-- A binary32 limit stated in decimal, as the nearest binary32 (log entry 8). -/
def lim32 (x : Rat) : Rat := f32Val (ratToF32 x)

/-- Parameters p1 to p5 of a function lie in their ranges (R750). -/
def safParamsOk (fn : Nat) (p : List F32) : Bool :=
  let x (n : Nat) : Rat := f32Val (p.getD (n - 1) 0).toNat
  let long (v : Rat) : Bool := decide (lim32 (1 / 100) ≤ v) && decide (v ≤ 60)
  p.all (fun r => !f32Bad r.toNat) &&
    match fn with
    | 2 => long (x 1)
    | 3 | 4 => decide (0 < x 1) && long (x 4)
    | 6 => decide (0 ≤ x 2) && decide (x 2 ≤ 100)
    | 7 => decide (x 1 = 1) || decide (x 1 = -1)
    | _ => true

/-- A monitored axis record's fields lie in their ranges; the field widths of a serial tap are those of its parameters (R762,
R113, R120, R127). -/
def safAxisOk (b : List Byte) : Bool :=
  let tap := bAt b 1
  let st := bAt b 8
  let mt := bAt b 9
  let serial := 8 ≤ st && st ≤ 40 && mt ≤ 24 && decide (st + mt ≤ 56)
  let frame := 8 ≤ bAt b 10 && bAt b 10 ≤ 64 && decide (bAt b 11 + st + mt ≤ bAt b 10)
  decide (bAt b 0 < 32) && decide (1 ≤ tap) && decide (tap ≤ 3) && decide (1 ≤ bAt b 2) && decide (bAt b 2 ≤ 8) && decide (bAt b 3 ≤ 1) &&
    (tap != 1 || decide (4 ≤ leField b 4 4) && decide (leField b 4 4 ≤ 16777216)) && (tap == 1 || serial) && (tap != 2 || frame) &&
    decide (bAt b 12 ≤ 1) && bAt b 13 == 0 && decide (1 ≤ leField b 14 2) && decide (leField b 14 2 ≤ 100) &&
    !f32Bad (leField b 16 4) && !f32Bad (leField b 20 4)

/-- A connection record's fields lie in their ranges (R756 table, R762). -/
def safConnOk (b : List Byte) : Bool :=
  let inbound := bAt b 1 == 0
  let watch := leField b 10 2
  let window := leField b 12 2
  let period := leField b 8 2
  decide (bAt b 0 < 16) && decide (bAt b 1 ≤ 1) && bAt b 3 == 0 && leField b 4 4 != 0 &&
    (inbound || decide (1 ≤ period) && decide (period ≤ 100)) &&
    (!inbound || decide (2 ≤ watch) && decide (watch ≤ 1000) && decide (window ≤ 100)) && leField b 14 2 == 0 && leField b 22 6 == 0

/-- A function record's fields lie in their ranges (R750, R762). -/
def safFuncOk (b : List Byte) : Bool :=
  let req := bAt b 4
  decide (bAt b 0 < 80) && decide (1 ≤ bAt b 1) && decide (bAt b 1 ≤ 8) && decide (bAt b 2 < 8) && (decide (bAt b 3 < 32) || bAt b 3 == 255) &&
    decide (req ≤ 2) && (req != 1 || decide (bAt b 5 < 8)) && (req != 2 || decide (bAt b 5 < 16)) && decide (bAt b 6 < 128) &&
    bAt b 7 == 0 && safParamsOk (bAt b 1) ((List.range 5).map (fun n => BitVec.ofNat 32 (leField b (8 + 4 * n) 4)))

/-- A record taken into the configuration; none when R763 makes the image malformed. -/
def safRecord (t : Nat) (b : List Byte) (c : SafConfig) : Option SafConfig :=
  let o := bAt b 0
  if b.length ≠ safRecLen t then none
  else match t with
  | 1 =>
    if o < 8 && bAt b 1 ≤ 1 && 1 ≤ leField b 2 2 && leField b 2 2 ≤ 1440 && (mfind c.groups o).isNone then
      some { c with groups := mput c.groups o (bAt b 1, leField b 2 2) }
    else none
  | 2 =>
    if c.assign.isEmpty && b.all (fun x => decide (x.toNat < 8) || x == 0xFF#8) then
      some { c with assign := (List.range 80).map (fun ch => (ch, if bAt b ch = 255 then 0 else bAt b ch + 1)) }
    else none
  | 3 =>
    if safAxisOk b && (mfind c.axes o).isNone then
      some { c with axes := mput c.axes o {
        tap := bAt b 1, window := bAt b 2, inverted := bAt b 3 == 1, cpt := leField b 4 4, stBits := bAt b 8, mtBits := bAt b 9
        ssiBits := bAt b 10, ssiLsb := bAt b 11, ssiGray := bAt b 12 == 1, plausTime := leField b 14 2
        plausTol := BitVec.ofNat 32 (leField b 16 4), jump := BitVec.ofNat 32 (leField b 20 4) } }
    else none
  | 4 =>
    if o < 8 && bAt b 1 ≤ 1 && 1 ≤ leField b 2 2 && leField b 2 2 ≤ 50 && (mfind c.inputs o).isNone then
      some { c with inputs := mput c.inputs o (bAt b 1 == 1, leField b 2 2) }
    else none
  | 5 =>
    if safConnOk b && (mfind c.conns o).isNone && c.conns.all (fun e => e.2.id != leField b 4 4) then
      some { c with conns := mput c.conns o {
        outbound := bAt b 1 == 1, mask := bAt b 2, id := leField b 4 4, period := leField b 8 2, watchdog := leField b 10 2
        window := leField b 12 2, addr := leField b 16 4, udp := leField b 20 2 } }
    else none
  | 6 =>
    if safFuncOk b && (mfind c.funcs o).isNone then
      some { c with funcs := mput c.funcs o {
        fn := bAt b 1, group := bAt b 2, axis := bAt b 3, req := bAt b 4, src := bAt b 5, bit := bAt b 6
        p := (List.range 5).map (fun n => BitVec.ofNat 32 (leField b (8 + 4 * n) 4)) } }
    else none
  | _ =>
    if o < 80 && bAt b 1 < 32 && leField b 2 2 == 0 && (mfind c.brakes o).isNone && c.brakes.all (fun e => e.2 != bAt b 1 + 1) then
      some { c with brakes := mput c.brakes o (bAt b 1 + 1) }
    else none

/-- The records of an image: exactly `n` of them fill it. -/
def safRecords : Nat → List Byte → SafConfig → Option SafConfig
  | 0, l, c => if l.isEmpty then some c else none
  | n + 1, l, c =>
    let len := leField l 2 2
    if l.length < 4 || bAt l 1 != 0 || decide (len < 4) || decide (l.length < len) || decide (7 < bAt l 0) || bAt l 0 == 0 then none
    else (safRecord (bAt l 0) ((l.take len).drop 4) c).bind (safRecords n (l.drop len))

/-- What a function record needs of the rest of the image (R763). -/
def safLinked (c : SafConfig) (f : SafFuncCfg) : Bool :=
  (decide (f.fn < 3) || (mfind c.axes f.axis).isSome && mget c.assign f.axis 0 == f.group + 1) &&
    (f.req != 1 || (mfind c.inputs f.src).any (·.1)) && (f.req != 2 || (mfind c.conns f.src).any (fun k => !k.outbound))

/-- The configuration of an image; none when R763 makes it E_MALFORMED. -/
def parseSaf (l : List Byte) : Option SafConfig :=
  if l.length < 16 || decide (65536 < l.length) || leField l 0 4 != 0x53464C53 || leField l 4 2 != 1 || leField l 8 4 != l.length ||
      leField l 12 4 != 0 then none
  else match safRecords (leField l 6 2) (l.drop 16) { image := l } with
    | some c => if c.funcs.all (fun e => safLinked c e.2) then some c else none
    | none => none

/-! ### Causes (R737, R739) -/

/-- A group. -/
def State.sto (s : State) (g : Nat) : StoGroup := mget s.safety.groups g {}
/-- A group changed. -/
def State.modSto (s : State) (g : Nat) (f : StoGroup → StoGroup) : State :=
  s.modSafety (fun q => { q with groups := mmod q.groups g {} f })

/-- The brake outputs follow the groups and the core die's requests (R754). -/
def State.setBrakes (s : State) : State :=
  let on := (s.safety.config.brakes.map (·.1)).filter (fun ch =>
    s.safety.brakeReq.contains ch && (s.channelGroup ch).any (fun g => (s.sto g).released))
  s.modSafety (fun q => { q with brakeOn := on })

/-- A group is asserted (R737): both switches open, its STO line and the lines of its channels asserted, its brakes off. -/
def State.assertGroup (s : State) (g : Nat) : State :=
  let was := (s.sto g).released
  let s := s.modSto g (fun q => { q with testing := false, released := false, rb := {}, lowDue := false })
  if was then (((s.channelsOf g).foldl State.channelSto (s.bump (epSto g) C.safStoCnt)).setBrakes).supFault 1 else s

/-- A cause latches in the groups of a mask (R739): one SAF_STO for the groups in which it was not yet latched. -/
def State.latch (s : State) (cause mask : Nat) : State :=
  let gs := (List.range 8).filter (fun g => bitOf mask g)
  let new := gs.filter (fun g => cause ∉ (s.sto g).causes)
  let s := gs.foldl (fun s g =>
    (s.modSto g (fun q => { q with
      causes := sortBy (fun a b => decide (a ≤ b)) (q.causes.insert cause), since := sortBy (fun a b => decide (a ≤ b)) (q.since.insert cause) })).assertGroup g) s
  match new with
  | [] => s
  | g :: _ =>
    (s.modSafety (fun q => { q with lastCause := cause })).log (epSto g) 0x0B01 (dat 0 cause + dat 1 (causeMask (new.map (· + 1))))

/-- Every group. -/
def allGroups : Nat := 255

/-- A cause that arises between safe cycles latches in the next one. -/
def State.raiseCause (s : State) (cause mask : Nat) : State := s.modSafety (fun q => { q with due := q.due ++ [(cause, mask)] })

/-- A cause leaves a group. -/
def StoGroup.clear (q : StoGroup) (cause : Nat) : StoGroup := { q with causes := q.causes.filter (· != cause) }

/-- A cause leaves every group. -/
def State.clearCause (s : State) (cause : Nat) : State := (List.range 8).foldl (fun s g => s.modSto g (·.clear cause)) s

/-- Safe connections are suspended below Stroll (R767). -/
def State.safSuspended (s : State) : Bool := !(s.power.state == .ramble || s.power.state == .stroll)

/-! ### Release (R740 to R742) -/

/-- sto_restart and test_interval of a group (R762). -/
def State.stoCfg (s : State) (g : Nat) : Nat × Nat := (mfind s.safety.config.groups g).getD (1, 60)

/-- The causes latched since the last release let the group be released without SAF_ACK (R739, R740). -/
def State.autoRelease (s : State) (g : Nat) : Bool :=
  let l := (s.sto g).since
  l.all (· == 2) || (s.stoCfg g).1 == 0 && l.all (fun c => decide (2 ≤ c) && decide (c ≤ 7))

/-- A safe input or brake of the group whose latest test failed keeps cause 10 (R740). -/
def State.testBlocked (s : State) (g : Nat) : Bool :=
  let c := s.safety.config
  c.funcs.any (fun e => e.2.group == g && e.2.req == 1 && (mget s.safety.ins e.2.src {}).testFail) ||
    s.safety.brakeFail.any (fun ch => s.channelGroup ch == some g)

/-- The release test of a group may start; `ack` when a SAF_ACK names it in this safe cycle. -/
def State.mayTest (s : State) (g : Nat) (ack : Bool) : Bool :=
  let q := s.sto g
  s.safety.state == .run && !q.released && !q.testing && !s.testBlocked g &&
    (q.causes.isEmpty && (s.autoRelease g || ack) || q.causes == [10] && ack)

/-- SAF_ACK commands whose release tests have all ended complete with the groups released (R741). -/
def State.finishAcks (s : State) : State :=
  let done := s.safety.ackWait.filter (fun a => a.2.2.all (fun g => !(s.sto g).testing))
  let s := s.modSafety (fun q => { q with ackWait := q.ackWait.filter (fun a => !(done.contains a)) })
  done.foldl (fun s a =>
    let rel := (List.range 8).filter (fun g => bitOf a.2.1 g && (s.sto g).released)
    let m := causeMask (rel.map (· + 1))
    s.finish a.1 (if m = a.2.1 then E.ok else E.faultSafety) (leBytes 1 m)) s

/-- The group's release test starts. -/
def State.startTest (s : State) (g : Nat) : State := s.modSto g (fun q => { q with testing := true })

/-- A test of a switch failed: both switches open, SAF_TEST_FAIL with the switch, cause 10 (R740, R742). -/
def State.switchFails (s : State) (g switch : Nat) : State :=
  let s := (s.bump (epSto g) C.safTestFailCnt).log (epSto g) 0x0B03 (dat 0 switch)
  (s.latch 10 (2 ^ g)).finishAcks

/-- The switch that a reading shows otherwise than commanded: high side before low side. -/
def wrongSwitch (want got : Readback) : Option Nat :=
  if want.hs != got.hs then some 0 else if want.ls != got.ls then some 1 else none

/-- The switch that fails a release test (R742). -/
def releaseFailure (r : ReleaseReadings) : Option Nat :=
  (wrongSwitch {} r.open_).orElse (fun _ => (wrongSwitch { hs := true } r.high).orElse (fun _ => wrongSwitch { hs := true, ls := true } r.both))

/-- A passed release test releases the group (R740, R742). -/
def State.release (s : State) (g : Nat) : State :=
  let s := (s.bump (epSto g) C.safTestOk).modSto g (fun q => { q.clear 10 with
    testing := false, released := true, since := [], rb := { hs := true, ls := true }, darkTick := s.tick, lowDue := false })
  let s := (s.channelsOf g).foldl (fun s ch =>
    if ch < 32 then s.modFlags ch (fun f => { f with sto := false })
    else if ch < 64 then s.modStepper (ch - 32) (fun c => { c with sto := false })
    else s.modAux (ch - 64) (fun a => { a with sto := false })) s
  s.setBrakes.finishAcks

/-- RELEASE_TEST (R742). -/
def execReleaseTest (group : Fin 8) (r : ReleaseReadings) (s : State) : Out :=
  let g := group.val
  .next (if !(s.sto g).testing then s
    else match releaseFailure r with
      | some w => s.switchFails g w
      | none => s.release g)

/-- The brake channels of a group with their outputs, by channel. -/
def State.groupBrakes (s : State) (g : Nat) : List Nat :=
  (s.safety.config.brakes.map (·.1)).filter (fun ch => s.channelGroup ch == some g)

/-- The brake test of a dark pulse (R756): each output's current falls below 20 mA. -/
def State.brakeTest (s : State) (g : Nat) (currents : List Nat) : State :=
  let l := (s.groupBrakes g).zip (currents ++ List.replicate 80 0)
  let s := l.foldl (fun s e => s.bump (epSto g) (if e.2 < 20 then C.safTestOk else C.safTestFailCnt)) s
  let failed := (l.filter (fun e => decide (20 ≤ e.2))).map (·.1)
  let s := s.modSafety (fun q => { q with brakeFail := q.brakeFail.filter (fun ch => !((l.map (·.1)).contains ch)) ++ failed })
  if failed.isEmpty then s else s.latch 10 (2 ^ g)

/-- DARK_PULSE_TEST (R742, R756): the high side, and the brake outputs. -/
def execDarkPulseTest (group : Fin 8) (opened closed : Bool) (brakeCurrents : List Nat) (s : State) : Out :=
  let g := group.val
  let q := s.sto g
  .next (if !q.released || q.lowDue || !(s.passed q.darkTick (msTicks (60000 * (s.stoCfg g).2))) then s
    else
      let s := s.modSto g (fun q => { q with darkTick := s.tick, lowDue := true })
      if opened && closed then (s.bump (epSto g) C.safTestOk).brakeTest g brakeCurrents
      else (s.switchFails g 0).brakeTest g brakeCurrents)

/-- DARK_PULSE_LOW_SIDE (R742): 100 ms after the high side. -/
def execDarkPulseLowSide (group : Fin 8) (opened closed : Bool) (s : State) : Out :=
  let g := group.val
  let q := s.sto g
  .next (if !q.released || !q.lowDue || !(s.passed q.darkTick (msTicks 100)) then s
    else
      let s := s.modSto g (fun q => { q with lowDue := false })
      if opened && closed then s.bump (epSto g) C.safTestOk else s.switchFails g 1)

/-! ### Safe inputs (R745 to R747) -/

/-- SAFE_INPUT_CHANGE (R746): the raw level has held the new value for si_filter; a failed input reads 0 (R747). -/
def execSafeInputChange (input : Fin 8) (level : Bool) (s : State) : Out :=
  .next (s.modSafety (fun q => { q with
    ins := mmod q.ins input.val {} (fun x => { x with raw := level, state := level && !x.testFail }) }))

/-- SAFE_INPUT_TEST (R747): a failed test latches cause 10 in the groups of every instance that the input requests. -/
def execSafeInputTest (input : Fin 8) (readsZero : Bool) (s : State) : Out :=
  let i := input.val
  let c := s.safety.config
  .next (if !(mfind c.inputs i).any (·.1) then s
    else
      let s := s.modSafety (fun q => { q with
        ins := mmod q.ins i {} (fun x => { x with testFail := !readsZero, state := readsZero && (if x.testFail then x.raw else x.state) }) })
      if readsZero then s
      else
        let gs := (c.funcs.filter (fun e => e.2.req == 1 && e.2.src == i)).map (fun e => e.2.group + 1)
        (s.bump (0x1FC0 + i) C.safSiTestFail).raiseCause 10 (causeMask gs.eraseDups))

/-! ### Taps (R748, R749, R844) -/

/-- A tap. -/
def State.tap (s : State) (a : Nat) : SafTap := mget s.safety.taps a {}
/-- A tap changed. -/
def State.modTap (s : State) (a : Nat) (f : SafTap → SafTap) : State :=
  s.modSafety (fun q => { q with taps := mmod q.taps a {} f })

/-- Samples of 200 MHz in 30 ns (R748). -/
def tapSpacing : Nat := 6

/-- SAFETY_TAP_EDGE (R748): an edge less than 30 ns after the last one on A and B together is not counted. -/
def execSafetyTapEdge (axis : Fin 32) (lines : TapLines) (sample : BitVec 32) (s : State) : Out :=
  .next (match mfind s.safety.config.axes axis.val with
    | some c =>
      if c.tap ≠ 1 then s
      else s.modTap axis.val (fun t =>
        let d := (quadPlace lines.a lines.b + 4 - quadPlace t.levels.1 t.levels.2) % 4
        let near := match t.edge with
          | some e => decide ((sample - e).toNat < tapSpacing)
          | none => false
        let t := { t with levels := (lines.a, lines.b), edge := some sample }
        if near then t
        else match d with
        | 1 => { t with count := wrapInt 64 (t.count + 1) }
        | 3 => { t with count := wrapInt 64 (t.count - 1) }
        | 2 => { t with illegal := (s.tick :: t.illegal).take 3 }
        | _ => t)
    | none => s)

/-- What a listened word gives: the raw position of the frame's field for SSI (R123), of the position bytes for LSP (R137, R138) with
its CRC-16 and e bit good; none for a response that carries no position. -/
inductive TapReading where
  | position (raw : Nat)
  | bad
  | nothing

/-- A listened word read by the axis's record (R748). -/
def tapRead (c : SafAxisCfg) (w : TapWord) : TapReading :=
  let n := c.stBits + c.mtBits
  let pb := (n + 7) / 8
  match w with
  | .ssi l =>
    let v := (List.range n).foldl (fun a k => a + b2n (ssiBit l (c.ssiLsb + k)) * 2 ^ k) 0
    if c.tap = 2 then .position (if c.ssiGray then grayToBin n v else v) else .nothing
  | .lsp l =>
    let st := (l.headD 0).toNat
    let code := bits st 3 0
    let len := match code with | 1 => pb | 2 => pb + 2 | 3 => 8 | _ => 0
    if c.tap ≠ 3 then .nothing
    else if l.length ≠ len + 3 || leField l (len + 1) 2 != lspCrc (l.take (len + 1)) then .bad
    else if 2 < code then .nothing
    else if bitOf st 7 then .bad
    else .position (leField l 1 pb % 2 ^ n)

/-- SAFETY_TAP_WORD (R748): an LSP word is checked by its CRC and e bit, an SSI word only against jump_limit. -/
def execSafetyTapWord (axis : Fin 32) (w : TapWord) (s : State) : Out :=
  .next (match mfind s.safety.config.axes axis.val with
    | some c =>
      match tapRead c w with
      | .nothing => s
      | .bad => s.modTap axis.val (fun t => { t with badRun := t.badRun + 1 })
      | .position raw => s.modTap axis.val (fun t =>
        let n := c.stBits + c.mtBits
        let d : Int := match t.raw with
          | some r => signedOf n ((raw + 2 ^ n - r) % 2 ^ n)
          | none => raw - t.unwrapped
        let jump := t.raw.isSome && decide (f32Val c.jump.toNat < rabs ((d : Rat) / pow2 c.stBits))
        if c.tap = 2 && jump then { t with badRun := t.badRun + 1 }
        else { t with raw := some raw, unwrapped := t.unwrapped + d, goodTick := s.tick, badRun := 0 })
    | none => s)

/-- Tap position in turns (R749). -/
def tapPos (c : SafAxisCfg) (t : SafTap) : Rat :=
  let p := if c.tap = 1 then (t.count : Rat) / c.cpt else (t.unwrapped : Rat) / pow2 c.stBits
  if c.inverted then -p else p

/-- Length of the safe cycle in seconds (R769). -/
def safeCycleSec : Rat := 1 / 4000

/-- A safe cycle of a tap: position, safe speed over the window's samples held, and plausibility (R749, R844). A serial tap has no
position before its first good word. -/
def State.tapCycle (s : State) (a : Nat) (c : SafAxisCfg) : State :=
  let t := s.tap a
  let hist := if c.tap ≠ 1 ∧ t.raw.isNone then [] else (tapPos c t :: t.hist).take 9
  let n := min c.window (hist.length - 1)
  let vs := if n = 0 then 0 else (hist.getD 0 0 - hist.getD n 0) / (n * safeCycleSec)
  let off := decide (f32Val c.plausTol.toNat < rabs (vs - ofQ32 t.core))
  let run := if off then t.devRun + 1 else 0
  let devBad := off && decide (c.plausTime ≤ (run - 1) * safeCycleSec * 1000)
  let own := if c.tap = 1 then decide (3 ≤ t.illegal.length) && !(s.passed (t.illegal.getD 2 0) (msTicks 10))
    else s.expired t.goodTick (msTicks c.plausTime) || decide (2 ≤ t.badRun)
  let bad := devBad || own
  let s := s.bumpIf (bad && !t.implausible) a C.safImplausible
  s.modTap a (fun t => { t with hist := hist, vs := vs, devRun := run, implausible := bad, ownBad := own })

/-! ### Safety functions (R750 to R753) -/

/-- A parameter of a function. -/
def SafFuncCfg.par (f : SafFuncCfg) (n : Nat) : Rat := f32Val (f.p.getD (n - 1) 0).toNat

/-- The request of an instance: always, a safe input in demand, or a connection bit at 0 (R750). -/
def State.requested (s : State) (f : SafFuncCfg) : Bool :=
  match f.req with
  | 0 => true
  | 1 => !(mget s.safety.ins f.src {}).state
  | _ =>
    let c := mget s.safety.conns f.src {}
    if c.state == .valid then !((c.data.getD 0).getLsbD f.bit) else true

/-- The violation condition of an instance in its phase, on |v_s| and the position (R750). -/
def SafFuncCfg.violates (f : SafFuncCfg) (q : SafFunc) (v p : Rat) : Bool :=
  let t : Rat := q.cycles * safeCycleSec
  match f.fn with
  | 3 | 4 =>
    if q.sos then decide (f.par 5 < rabs (p - q.ref)) || decide (f.par 3 < v)
    else decide (max (q.v0 - f.par 1 * t) 0 + f.par 2 < v) || decide (f.par 4 ≤ t)
  | 5 => decide (f.par 1 < rabs (p - q.ref)) || decide (f.par 2 < v)
  | 6 => decide (0 < q.overRun) && decide (f.par 2 ≤ (q.overRun - 1) * safeCycleSec * 1000)
  | 7 => decide (f.par 2 < (q.ref - p) * f.par 1)
  | _ => false

/-- An instance activated (R750). -/
def SafFuncCfg.activate (f : SafFuncCfg) (v p : Rat) : SafFunc :=
  { state := if 2 ≤ f.fn ∧ f.fn ≤ 4 then .stopping else .active, request := true, v0 := v, ref := p }

/-- What an active instance tracks before the check: cycles above the limit, the extreme position, the SSM result. -/
def SafFuncCfg.track (f : SafFuncCfg) (q : SafFunc) (v p : Rat) : SafFunc :=
  match f.fn with
  | 6 => { q with overRun := if f.par 1 < v then q.overRun + 1 else 0 }
  | 7 => { q with ref := if (q.ref - p) * f.par 1 < 0 then p else q.ref }
  | 8 => { q with ssm := if v < f.par 1 then true else if f.par 1 + f.par 2 ≤ v then false else q.ssm }
  | _ => q

/-- An instance still active without violation completes (R750): STO at once, SS1-t after p1, SS1-r at p3, SS2-r enters SOS. -/
def SafFuncCfg.progress (f : SafFuncCfg) (q : SafFunc) (v p : Rat) : SafFunc :=
  let t : Rat := q.cycles * safeCycleSec
  match f.fn with
  | 1 => { q with state := .done }
  | 2 => if f.par 1 ≤ t then { q with state := .done } else q
  | 3 => if v ≤ f.par 3 then { q with state := .done } else q
  | 4 => if q.sos then q else if v ≤ f.par 3 then { q with state := .sos, sos := true, ref := p } else q
  | _ => q

/-- One safe cycle of an instance: its next state, and whether the violation condition holds. -/
def SafFuncCfg.cycle (f : SafFuncCfg) (q : SafFunc) (req : Bool) (v p : Rat) : SafFunc × Bool :=
  if q.state == .inactive && !req then ({ q with request := false }, false)
  else if q.state == .violated && !req then ({}, false)
  else
    let q := if q.state == .inactive then f.activate v p else { q with cycles := q.cycles + 1 }
    let q := { f.track q v p with request := req }
    let bad := q.state != .done && f.violates q v p
    if bad then ({ q with state := .violated }, true)
    else if !req then ({}, false)
    else if q.state == .violated then
      (if f.fn = 3 ∨ f.fn = 4 then q else { q with state := .active }, false)
    else (if q.state == .done then q else f.progress q v p, false)

/-- A safe cycle of every instance: states, violations, and the stop requests for the report. Answers the groups in which the
violation condition holds. -/
def State.funcCycle (s : State) : State × List Nat :=
  s.safety.config.funcs.foldl (fun acc e =>
    let s := acc.1
    let f := e.2
    let t := s.tap f.axis
    let q := mget s.safety.funcs e.1 {}
    let (q', bad) := f.cycle q (s.requested f) (rabs t.vs) (t.hist.getD 0 0)
    let s := s.bumpIf (q'.state == .violated && q.state != .violated) (0x0C10 + e.1) C.safViolation
    let s := s.modSafety (fun x => { x with
      funcs := mset x.funcs e.1 q' {}
      stopReqs := if q.state == .inactive && q'.state != .inactive && 2 ≤ f.fn && f.fn ≤ 4 then
          x.stopReqs ++ [(f.group, if f.fn = 4 then 2 else 1)] else x.stopReqs })
    (s, if bad then (f.group + 1) :: acc.2 else acc.2)) (s, [])

/-! ### The safe cycle (R734, R737 to R743) -/

/-- The condition of a latched cause still holds in a group (R739); causes 10 and 12 clear by a release test and SAF_ACK. Cause 9
clears on the tap's own evidence, whatever speed the core die reports (R26; log entry 90). -/
def State.causeHolds (s : State) (bad : List Nat) (g cause : Nat) : Bool :=
  let c := s.safety.config
  let conn (p : SafConn → Bool) : Bool := c.conns.any (fun e => !e.2.outbound && bitOf e.2.mask g && p (mget s.safety.conns e.1 {}))
  match cause with
  | 1 | 3 => s.safety.state != .run
  | 2 => s.power.state != .ramble || s.power.change.isSome
  | 4 => c.funcs.any (fun e => e.2.group == g && decide (e.2.fn ≤ 3) && (mget s.safety.funcs e.1 {}).state == .done)
  | 5 => conn (fun k => k.kinds.contains 1)
  | 6 => conn (fun k => k.kinds.contains 2)
  | 7 => conn (fun k => k.state == .waiting || k.kinds.contains 3)
  | 8 => bad.contains (g + 1)
  | 9 => c.axes.any (fun e => s.channelGroup e.1 == some g && (s.tap e.1).ownBad)
  | 11 => s.safety.coreLost
  | _ => true

/-- Causes whose condition holds in this safe cycle: requests, violations, implausible taps of released groups, switch
readbacks, the lost core die (R739, R743, R749, R752). -/
def State.cycleCauses (s : State) (bad : List Nat) (rbs : List Readback) : List (Nat × Nat) :=
  let c := s.safety.config
  let gs := List.range 8
  let mask (p : Nat → Bool) : Nat := causeMask ((gs.filter p).map (· + 1))
  let want (g : Nat) : Readback := { hs := (s.sto g).released, ls := (s.sto g).released }
  let got (g : Nat) : Readback := if (s.sto g).testing then want g else rbs.getD g (want g)
  [(4, mask (fun g => s.causeHolds bad g 4)), (8, mask (fun g => bad.contains (g + 1))),
   (9, mask (fun g => (s.sto g).released && c.axes.any (fun e => s.channelGroup e.1 == some g && (s.tap e.1).implausible))),
   (10, mask (fun g => wrongSwitch (want g) (got g) != none)),
   (11, if s.safety.coreLost then mask (fun g => 2 ∉ (s.sto g).causes) else 0)]

/-- Causes latched in ascending order, one record for each code (R739). -/
def State.latchAll (s : State) (l : List (Nat × Nat)) : State :=
  (List.range 13).foldl (fun s c =>
    let m := (l.filter (fun e => e.1 == c)).foldl (fun m e => m ||| e.2) 0
    if m = 0 then s else s.latch c m) s

/-- The SAF_ACK commands are acted on (R741): cause 12 clears in RUN, release tests start, and a command with nothing to wait
for completes. `arisen` is the mask of the groups in which a cause arose in this cycle. -/
def State.actAcks (s : State) (arisen : Nat) : State :=
  let acks := s.safety.ack
  let s := s.modSafety (fun q => { q with ack := [] })
  let s := acks.foldl (fun s a =>
    let gs := (List.range 8).filter (fun g => bitOf a.2 g && !bitOf arisen g)
    let s := if s.safety.state == .run then gs.foldl (fun s g => s.modSto g (·.clear 12)) s else s
    let s := gs.foldl (fun s g => if s.mayTest g true then s.startTest g else s) s
    s.modSafety (fun q => { q with ackWait := q.ackWait ++ [(a.1, a.2, (List.range 8).filter (fun g => bitOf a.2 g && (s.sto g).testing))] })) s
  s.finishAcks

/-- SAFE_CYCLE (R734): taps and functions in RUN, the causes that cleared and those that arise, acknowledgements, releases and
brake outputs. A halted island does nothing more (R765). -/
def State.safeCycle (s : State) (rbs : List Readback) : State :=
  if s.safety.state == .halted then s
  else
    let r := if s.safety.state == .run then
        (s.safety.config.axes.foldl (fun s e => s.tapCycle e.1 e.2) s).funcCycle
      else (s, [])
    let s := r.1
    let got (g : Nat) : Readback := rbs.getD g { hs := (s.sto g).released, ls := (s.sto g).released }
    let s := (List.range 8).foldl (fun s g =>
      s.modSto g (fun q => { q with rb := got g, causes := q.causes.filter (fun c => s.causeHolds r.2 g c) })) s
    let causes := s.safety.due ++ s.cycleCauses r.2 rbs
    let s := (s.modSafety (fun q => { q with due := [] })).latchAll causes
    let s := s.actAcks (causes.foldl (fun m e => m ||| e.2) 0)
    let s := (List.range 8).foldl (fun s g => if s.mayTest g false then s.startTest g else s) s
    (s.setBrakes.finishAcks).modSafety (fun q => { q with cycle := q.cycle + 1 })

/-- SAFE_CYCLE (R734). -/
def execSafeCycle (readback : List Readback) (s : State) : Out := .next (s.safeCycle readback)

/-! ### Core-die reports and brakes (R26, R739, R751, R754, R756) -/

/-- CORE_REPORT_RX (R26, R110, R844): the measured speed of every axis, in whatever state it is, for the comparison, and brake requests;
no cause clears on its content, only on the island's own observation that reports have resumed. -/
def execCoreReportRx (_speeds : Held) (brakes : List Nat) (s : State) : Out :=
  let s := (List.range 32).foldl (fun s i => s.modTap i (fun t => { t with core := (s.getFb i).vel })) s
  .next (s.modSafety (fun q => { q with coreTick := s.tick, coreLost := false, brakeReq := brakes }))

/-- CORE_REPORT_TIMEOUT (R739): no report for 1 ms; cause 11 latches in the next safe cycle in which cause 2 is not latched. -/
def execCoreReportTimeout (s : State) : Out :=
  .next (if s.expired s.safety.coreTick (msTicks 1) then s.modSafety (fun q => { q with coreLost := true }) else s)

/-- A safety stop of a channel's axis, as STOP of the category (R751); an auxiliary drive is no axis that STOP names. -/
def State.safetyStop (s : State) (ch cat : Nat) : State :=
  if ch < 32 then
    match (s.getLoop ch).state with
    | .enabled | .stopping => s.requestStop ch { cat := cat }
    | .enabling => s.modLoop ch (fun l => { l with stop := some { cat := cat, atUpdate := true, fromTick := s.tick } })
    | _ => s
  else if ch < 64 then s.stopOther (epStepper (ch - 32)) cat
  else s

/-- FT.8 units of a 40 MHz count, 25 ns (R36). -/
def safetyCountFt8 : Nat := 6400

/-- SAFETY_REPORT_RX (R36, R751): a stop request of the island reaches the core die, with its stamp by frame correlation. -/
def execSafetyReportRx (group : Fin 8) (report : SafetyReport) (s : State) : Out :=
  let r := (group.val, report.cat.val)
  let st := s.correlated 2 report.counter report.count safetyCountFt8
  .next (if r ∈ s.safety.stopReqs then
    let s := s.modSafety (fun q => { q with stopReqs := q.stopReqs.erase r, stamp := st })
    (s.channelsOf group.val).foldl (fun s ch => s.safetyStop ch report.cat.val) s
  else s)

/-- BRAKE_CURRENT_FAULT (R756): the current has been wrong for 10 ms. -/
def execBrakeCurrentFault (channel : Fin 80) (s : State) : Out :=
  .next (match mfind s.safety.config.brakes channel.val, s.channelGroup channel.val with
    | some _, some g => s.raiseCause 10 (2 ^ g)
    | _, _ => s)

/-! ### Safe connections (R757 to R761, R767) -/

/-- A connection changed. -/
def State.modConn (s : State) (c : Nat) (f : SafConn → SafConn) : State :=
  s.modSafety (fun q => { q with conns := mmod q.conns c {} f })

/-- Connections run: the island in RUN, the module at Stroll or above (R767). -/
def State.connsRun (s : State) : Bool := s.safety.state == .run && !s.safSuspended

/-- A fault of a connection (R759). -/
def State.connFault (s : State) (c kind : Nat) : State :=
  let cfg := (mfind s.safety.config.conns c).getD {}
  let s := s.modConn c (fun q => { q with state := .fault, fault := kind, kinds := q.kinds.insert kind })
  let s := s.bump (0x1FC8 + c) (match kind with | 1 => C.safNetMissing | 2 => C.safNetMismatchCnt | _ => C.safNetWatchdog)
  (s.log epModule 0x0B02 (dat 0 kind + dat 4 c)).raiseCause (4 + kind) cfg.mask

/-- A valid pair (R759). -/
def State.validPair (s : State) (c : Nat) (seq : BitVec 32) (body : List Byte) : State :=
  (s.modConn c (fun q => { q with
    state := .valid, seq := seq, data := some (BitVec.ofNat 128 (leField body 12 16)), kinds := [], pairTick := s.tick
    held := q.held.filter (fun h => h.2.1 != seq) })).bump (0x1FC8 + c) C.safNetPairs

/-- Windows of a connection that have expired with one copy are missing copies (R759). -/
def State.connWindows (s : State) (c : Nat) (cfg : SafConnCfg) : State :=
  let late (h : Nat × BitVec 32 × List Byte × Nat) : Bool := s.expired h.2.2.2 (msTicks (if cfg.window = 0 then 2 else cfg.window))
  let held := (mget s.safety.conns c {}).held
  (held.reverse.filter late).foldl (fun s h =>
    (s.modConn c (fun q => { q with held := q.held.filter (fun x => x != h) })).connFault c 1) s

/-- The watchdog of a connection that has passed without a valid pair is a fault (R759). -/
def State.connWatch (s : State) (c : Nat) (cfg : SafConnCfg) : State :=
  let q := mget s.safety.conns c {}
  if !cfg.outbound && (q.state == .valid || q.state == .fault) && 3 ∉ q.kinds && s.expired q.pairTick (msTicks cfg.watchdog) then
    s.connFault c 3
  else s

/-- SAFE_FRAME_RX (R758, R759): a copy is checked and paired. A window or a watchdog that ended before its arrival has had its effect. -/
def execSafeFrameRx (bytes : List Byte) (s : State) : Out :=
  .next (
    let s := s.modSafety (fun q => { q with inbox := q.inbox.eraseP (fun f => f.2.1 == bytes) })
    let id := leField bytes 4 4
    let copy := bAt bytes 2
    let conn := s.safety.config.conns.find? (fun e => !e.2.outbound && e.2.id == id)
    let ep := match conn with | some e => 0x1FC8 + e.1 | none => epModule
    let bad := bytes.length != 36 || leField bytes 0 2 != 1 || decide (1 < copy) || bAt bytes 3 != 0 ||
      crc32 (bytes.take 32) != leField bytes 32 4
    if !s.connsRun then s
    else match conn, bad with
      | some e, false =>
        let c := e.1
        let s := (s.connWindows c e.2).connWatch c e.2
        let q := mget s.safety.conns c {}
        let seq := BitVec.ofNat 32 (leField bytes 8 4)
        let body := (bytes.take 32).drop 4
        let ahead := (seq - q.seq).toNat
        if (q.state != .waiting && !(decide (1 ≤ ahead) && decide (ahead ≤ 8))) || q.held.any (fun h => h.1 == copy && h.2.1 == seq) then
          s.bump ep C.safNetSeq
        else match q.held.find? (fun h => h.2.1 == seq) with
          | some h =>
            if h.2.2.1 == body then s.validPair c seq body
            else (s.modConn c (fun q => { q with held := q.held.filter (fun h => h.2.1 != seq) })).connFault c 2
          | none => s.modConn c (fun q => { q with held := (copy, seq, body, s.tick) :: q.held })
      | _, _ => s.bump ep C.safNetBad)

/-- SAFE_WINDOW_EXPIRY (R759): the window of a copy held expires without the other copy. -/
def execSafeWindowExpiry (conn : Fin 16) (s : State) : Out :=
  let c := conn.val
  .next (match mfind s.safety.config.conns c with
    | some cfg => if s.connsRun then s.connWindows c cfg else s
    | none => s)

/-- SAFE_WATCHDOG_EXPIRY (R759): the watchdog passes without a valid pair. -/
def execSafeWatchdogExpiry (conn : Fin 16) (s : State) : Out :=
  let c := conn.val
  .next (match mfind s.safety.config.conns c with
    | some cfg => if s.connsRun then s.connWatch c cfg else s
    | none => s)

/-- The data of an outbound pair (R757). -/
def State.pairData (s : State) : Nat :=
  let q := s.safety
  let sum (l : List Nat) (p : Nat → Bool) : Nat := l.foldl (fun a i => a + b2n (p i) * 2 ^ i) 0
  sum (List.range 8) (fun i => (mget q.ins i {}).state) + 2 ^ 8 * sum (List.range 8) (fun g => (s.sto g).released) +
    2 ^ 16 * sum (List.range 80) (fun i => (mfind q.config.funcs i).any (fun f => f.fn == 8) && (mget q.funcs i {}).ssm)

/-- A safe frame, copy 0 (R756 table). -/
def State.safeFrame (s : State) (id : Nat) (seq : BitVec 32) : List Byte :=
  let l := leBytes 2 1 ++ [0, 0] ++ leBytes 4 id ++ leBytes 4 seq.toNat ++ leBytes 4 s.safety.cycle.toNat ++ leBytes 16 s.pairData
  l ++ leBytes 4 (crc32 l)

/-- SAFE_PAIR_SEND (R757): one pair every period goes to the core die for its two networks (R690). -/
def execSafePairSend (conn : Fin 16) (s : State) : Out :=
  let c := conn.val
  let q := mget s.safety.conns c {}
  .next (match mfind s.safety.config.conns c with
    | some cfg =>
      if s.connsRun && q.state == .sending && s.passed q.sendTick (msTicks cfg.period) then
        let seq := q.seq + 1
        let l := s.safeFrame cfg.id seq
        let s := (s.modConn c (fun q => { q with seq := seq, sendTick := s.tick })).bump (0x1FC8 + c) C.safNetPairs
        s.modSafety (fun q => { q with outbox := q.outbox ++ [(c, l)] })
      else s
    | none => s)

/-- Every inbound connection enters WAITING, with cause 7 in its mask until its first valid pair (R764, R767). -/
def State.connsWait (s : State) : State :=
  let ins := s.safety.config.conns.filter (fun e => !e.2.outbound)
  let s := ins.foldl (fun s e => s.modConn e.1 (fun q => { q with state := .waiting, kinds := [], held := [], data := none })) s
  let m := ins.foldl (fun m e => m ||| e.2.mask) 0
  if m = 0 then s else s.latch 7 m

/-! ### States and commands (R763 to R767) -/

/-- The island enters RUN (R739, R764, R765). -/
def State.enterRun (s : State) : State :=
  let s := ((s.modSafety (fun q => { q with state := .run })).clearCause 1).clearCause 3
  let outs := s.safety.config.conns.filter (fun e => e.2.outbound)
  let s := outs.foldl (fun s e => s.modConn e.1 (fun q => { q with state := .sending, sendTick := s.tick })) s
  if s.safSuspended then s else s.connsWait

/-- Entry to Ramble as the island sees it (R739, R767). -/
def State.safRamble (s : State) : State :=
  let s := s.clearCause 2
  if s.safety.state == .run then s.connsWait else s

/-- A configuration comes into force: causes 4 to 9 of the previous one end with it (R764), and the brake outputs it assigned, their
groups asserted, are commanded off (R754). -/
def State.useConfig (s : State) (c : SafConfig) : State :=
  let s := [4, 5, 6, 7, 8, 9].foldl State.clearCause s
  let s := s.safety.config.brakes.foldl (fun s b => s.command (b.2 - 1) false) s
  s.modSafety (fun q => { q with
    config := c, funcs := [], conns := [], taps := [], stopReqs := [], brakeOn := [], due := q.due.filter (fun e => decide (9 < e.1)) })

/-- A channel of the image in force is enabled (R763). -/
def State.safChannelOn (s : State) : Bool :=
  (List.range 80).any (fun ch => (s.channelGroup ch).isSome && s.axisOn ch)

/-- SAF_CONFIG_LOAD (R763, R764). -/
def execSafConfigLoad (ref : CmdRef) (image : List Byte) (s : State) : Out :=
  .next (s.execCmd ref 0x0B00 (fun k s =>
    match parseSaf image with
    | none => s.finish k E.malformed
    | some c =>
      let st := s.safety.state
      if s.safChannelOn || !(st == .run || st == .unconfirmed) then s.finish k E.state
      else
        let s := (s.latch 1 allGroups).useConfig c
        let s := s.modSafety (fun q => { q with state := .unconfirmed, stored := image })
        s.ok k (leBytes 4 (crc32 image))))

/-- SAF_CONFIG_READ (R541, R762): the image in force. -/
def execSafConfigRead (ref : CmdRef) (s : State) : Out :=
  .next (s.execCmd ref 0x0B01 (fun k s => s.ok k s.safety.config.image))

/-- SAF_COMMISSION (R764): of a configuration loaded; in RUN a matching value confirms it again and the island stays in RUN. -/
def execSafCommission (ref : CmdRef) (value : BitVec 32) (s : State) : Out :=
  .next (s.execCmd ref 0x0B10 (fun k s =>
    let check := crc32 s.safety.config.image
    let st := s.safety.state
    if !(st == .unconfirmed || st == .run) || s.safety.config.image.isEmpty then s.finish k E.state
    else if value.toNat ≠ check then
      (s.log epModule 0x0B05 (dat 0 value.toNat + dat 4 check)).finish k E.faultSafety
    else
      let s := (s.modSafety (fun q => { q with confirmed := some value })).log epModule 0x0B04 (dat 0 value.toNat)
      (if st == .run then s else s.enterRun).ok k))

/-- SAF_ACK (R741): it acts at the first safe cycle after acceptance; a halted island releases nothing (R765). -/
def execSafAck (ref : CmdRef) (mask : Byte) (s : State) : Out :=
  .next (s.execCmd ref 0x0B11 (fun k s =>
    if s.safety.state == .halted then s.finish k (if mask = 0 then E.ok else E.faultSafety) (leBytes 1 0)
    else (s.run k).modSafety (fun q => { q with ack := q.ack ++ [(k, mask.toNat)] })))

/-- What stays of the configuration while the island has none: the field dies know the outputs assigned to it (R755). -/
def SafConfig.dieOnly (c : SafConfig) : SafConfig := { brakes := c.brakes }

/-- The island starts: cause 3 latches, and nothing else of the previous run's working state is left (R765). -/
def State.safStart (s : State) : State :=
  ((s.latch 3 allGroups).modSafety (fun q => { q with
    state := .start, config := q.config.dieOnly, funcs := [], conns := [], taps := [], ins := [], brakeFail := [], brakeOn := [], stopReqs := []
    due := [], coreTick := s.tick }))

/-- The island without its supply (R22): its groups are asserted, what it stores beyond its supply stays, and it does nothing, as in
HALTED, until the supply returns. -/
def State.safetyUnpowered (s : State) : State :=
  let s := (List.range 8).foldl State.assertGroup s
  { s with safety := { confirmed := s.safety.confirmed, stored := s.safety.stored, state := .halted, config := s.safety.config.dieOnly } }

/-- SAFETY_SUPPLY_GOOD (R22, R765): power-up of the island; HALTED ends with its supply. -/
def execSafetySupplyGood (s : State) : Out :=
  let s := (List.range 8).foldl State.assertGroup s
  .next (({ s with safety := {
    confirmed := s.safety.confirmed, stored := s.safety.stored, config := s.safety.config.dieOnly, coreTick := s.tick, ack := s.safety.ack, ackWait := s.safety.ackWait } }).finishAcks
    |>.modPower (fun p => { p with domains := p.domains ||| 4 }))

/-- SAFETY_SELFTEST_DONE (R765). -/
def execSafetySelftestDone (s : State) : Out :=
  .next (if s.safety.state == .start then s.modSafety (fun q => { q with state := .waitConfig }) else s)

/-- SAFETY_CONFIG_DELIVERY (R765): the image equals the confirmed one, or the island is UNCONFIRMED. -/
def execSafetyConfigDelivery (s : State) : Out :=
  .next (if s.safety.state != .waitConfig then s
    else
      let check := crc32 s.safety.stored
      match parseSaf s.safety.stored with
      | some c =>
        let s := s.useConfig c
        if s.safety.confirmed = some (BitVec.ofNat 32 check) then s.enterRun
        else
          let s := match s.safety.confirmed with
            | some v => s.log epModule 0x0B05 (dat 0 v.toNat + dat 4 check)
            | none => s
          (s.modSafety (fun q => { q with state := .unconfirmed })).latch 1 allGroups
      | none =>
        let s := match s.safety.confirmed with
          | some v => s.log epModule 0x0B05 (dat 0 v.toNat + dat 4 check)
          | none => s
        (s.modSafety (fun q => { q with state := .unconfirmed })).latch 1 allGroups)

/-- An internal fault (R765, R766): the island restarts through START with cause 12 kept, or halts at the third restart within
an hour. -/
def State.safInternal (s : State) : State :=
  if s.safety.state == .halted then s
  else
    let recent := s.tick :: s.safety.restartTicks.filter (fun t => !(s.passed t (msTicks 3600000)))
    let s := s.safStart.latch 12 allGroups
    s.modSafety (fun q => { q with
      restarts := min 255 (q.restarts + 1), restartTicks := recent, state := if 3 ≤ recent.length then .halted else .start })

/-- SAFETY_INTERNAL_FAULT (R766). -/
def execSafetyInternalFault (f : SafInternal) (s : State) : Out :=
  match f with
  | .ecc | .selfTest | .watchdog | .oscillator | .regulator => .next s.safInternal

/-- SAFETY_PERIODIC_SELFTEST (R766). -/
def execSafetyPeriodicSelftest (passed : Bool) (s : State) : Out := .next (if passed then s else s.safInternal)

/-- SAFETY_OSC_CHECK (R766). -/
def execSafetyOscCheck (within : Bool) (s : State) : Out := .next (if within then s else s.safInternal)

end Sys2Proof.Machine
end

