-- ==== Sys2Proof/Machine/Sched.lean ====
section
/-! DEFINITION. Application cores and the hardware thread scheduler (13_scheduler.md): program images, threads, dispatch,
ageing, calls, the tick and thread faults (R564 to R595). -/

namespace Sys2Proof.Machine

/-- A user thread id (the ids of R571). -/
def userThread (id : Nat) : Bool := decide (0x40 ≤ id) && decide (id ≤ 0xFF)

/-- A thread exists and has not ENDED. -/
def Sched.alive (c : Sched) (id : Nat) : Bool := (mget c.threads id {}).state != .ended

/-- The user threads that have not ENDED (SCH_STATUS.user_threads). -/
def Sched.live (c : Sched) : List Nat := (c.threads.filter (fun t => t.2.state != .ended)).map (·.1)

/-- A thread replaced. -/
def Sched.putThread (c : Sched) (id : Nat) (t : Thread) : Sched := { c with threads := mput c.threads id t }

/-- A thread changed. -/
def Sched.modThread (c : Sched) (id : Nat) (g : Thread → Thread) : Sched := c.putThread id (g (mget c.threads id {}))

/-- The ready list of a level. -/
def Sched.level (c : Sched) (p : Nat) : List Nat := mget c.ready p []

/-- The ready list of a level replaced. -/
def Sched.setLevel (c : Sched) (p : Nat) (l : List Nat) : Sched := { c with ready := mset c.ready p l [] }

/-- A thread taken out of the ready lists. -/
def Sched.unready (c : Sched) (id : Nat) : Sched :=
  let p := (mget c.threads id {}).eff
  c.setLevel p ((c.level p).filter (· ≠ id))

/-- A thread enters READY at the tail of its level with a waiting count of 0 (R574, R580). -/
def Sched.enterReady (c : Sched) (id : Nat) : Sched :=
  let c := c.modThread id (fun t => { t with state := .ready, waited := 0, wake := none, event := none })
  let p := (mget c.threads id {}).eff
  c.setLevel p (c.level p ++ [id])

/-- Threads that enter READY in one scheduler cycle join in ascending id (R576). -/
def Sched.enterAll (c : Sched) (ids : List Nat) : Sched := (sortBy (fun a b => decide (a ≤ b)) ids).foldl Sched.enterReady c

/-- Thread running on a core. -/
def Sched.runs (c : Sched) (core : Nat) : Option Nat := match mget c.cores core 0 with | 0 => none | k + 1 => some k

/-- A core given a thread, or left idle. -/
def Sched.setCore (c : Sched) (core : Nat) (id : Option Nat) : Sched :=
  { c with cores := mset c.cores core (match id with | some i => i + 1 | none => 0) 0 }

/-- The core a thread runs on. -/
def Sched.coreOf (c : Sched) (id : Nat) : Option Nat := (List.range 8).find? (fun k => c.runs k == some id)

/-- Bytes of the user pool taken by images and stacks (R569, R573). -/
def Sched.poolUsed (c : Sched) : Nat :=
  c.images.foldl (fun a x => a + x.2.code + x.2.data + x.2.bss) 0 +
  c.live.foldl (fun a id => a + (mget c.images (mget c.threads id {}).image {}).stack) 0

/-- Bytes of the user pool (sch_user_mib). -/
def State.poolBytes (s : State) : Nat := s.par epModule P.schUserMib * 1048576

/-- Bytes of the user pool not taken; fragmentation is not modelled (log entry 50). -/
def State.poolFree (s : State) : Nat := s.poolBytes - s.sched.poolUsed

/-- The thread ends: off its core or list, its stack freed, and with it a transient image whose last thread it was (R570,
R574). Event counts stay. -/
def Sched.endThread (c : Sched) (id : Nat) : Sched :=
  let c := c.unready id
  let c := match c.coreOf id with
    | some k => c.setCore k none
    | none => c
  let c := c.modThread id (fun t => { t with state := .ended, wake := none, event := none, timedOut := none, signalled := none })
  let im := (mget c.threads id {}).image
  if (mget c.images im {}).transient && !(c.live.any (fun j => (mget c.threads j {}).image == im)) then
    { c with images := mdel c.images im }
  else c

/-- The header of a program image, or what follows it, has a fault of R567, R568. -/
def programBad (img : List Byte) : Bool :=
  let code := leField img 8 4
  let data := leField img 12 4
  let stack := leField img 20 4
  let entry := leField img 24 4
  decide (img.length ≠ 64 + code + data) ||
  leField img 0 4 != 0x4C505241 || leField img 4 2 != 1 || leField img 6 1 == 0 || decide (1 < leField img 7 1) ||
  code % 4 != 0 || decide (code < 4) || decide (786432 < code) || data % 8 != 0 || decide (786432 < data) ||
  leField img 16 4 % 8 != 0 || decide (67108864 < leField img 16 4) ||
  stack % 16 != 0 || decide (stack < 4096) || decide (1048576 < stack) || entry % 2 != 0 || decide (code ≤ entry) ||
  leField img 28 32 != 0 || leField img 60 4 != crc32 (img.take 60 ++ List.replicate 4 0 ++ img.drop 64)

/-- The image a checked program image gives (R567). -/
def programOf (img : List Byte) : Image :=
  { affinity := leField img 6 1, transient := bitOf (leField img 7 1) 0, code := leField img 8 4, data := leField img 12 4
    bss := leField img 16 4, stack := leField img 20 4, entry := leField img 24 4, content := img.drop 64 }

/-- THREAD_LOAD (R568, R569). -/
def execThreadLoad (ref : CmdRef) (image : List Byte) (s : State) : Out :=
  .next (s.execCmd ref 0x0D00 (fun k s =>
    let im := programOf image
    s.checked k [(programBad image, E.malformed),
        (decide (32 ≤ s.sched.images.length), E.queueFull),
        (decide (s.poolFree < im.code + im.data + im.bss), E.queueFull)] (fun s =>
      let h := s.newHandle (s.sched.images.map (·.1))
      let s := s.took.modSched (fun c => { c with images := mput c.images h im })
      s.ok k (le4 h))))

/-- A free id of a user thread: none of an existing thread; which one is not stated (log entry 50). -/
def State.newThread (s : State) : Nat :=
  let h0 := s.fresh % 192
  ((List.range 192).map (fun i => 0x40 + (h0 + i) % 192)).find? (fun h => !s.sched.alive h) |>.getD 0x40

/-- A priority and ceiling that R572 rejects. -/
def State.prioBad (s : State) (prio ceiling : Byte) : Bool :=
  let m := s.par epModule P.userPrioMax
  decide (m < prio.toNat) || decide (m < ceiling.toNat) || decide (ceiling.toNat < prio.toNat)

/-- THREAD_START (R571 to R573, R581). -/
def execThreadStart (ref : CmdRef) (handle : BitVec 32) (prio ceiling : Byte) (ageing : BitVec 32) (s : State) : Out :=
  .next (s.execCmd ref 0x0D01 (fun k s =>
    let im := mget s.sched.images handle.toNat {}
    let b := ageing.toNat
    s.checked k [(!(s.sched.images.any (fun x => x.1 == handle.toNat)), E.range),
        (s.prioBad prio ceiling, E.range),
        (decide (b ≠ 0) && (decide (b < 10) || decide (1000000 < b)), E.range),
        (decide (192 ≤ s.sched.live.length), E.queueFull),
        (decide (s.poolFree < im.stack), E.queueFull)] (fun s =>
      let id := s.newThread
      let t : Thread :=
        { base := prio.toNat, ceiling := ceiling.toNat, eff := prio.toNat, bound := b, affinity := im.affinity
          image := handle.toNat, entry := im.entry, a0 := BitVec.ofNat 64 id }
      let s := s.took.modSched (fun c => (c.putThread id t).enterReady id)
      s.ok k (le2 id))))

/-- The waiters of an event, the highest effective priority first and among equals the longest waiting; one whose timeout tick came in
this local tick still takes the signal (R585, R590; log entry 98). -/
def Sched.waiters (c : Sched) (e tick : Nat) : List Nat :=
  let l := c.threads.filter (fun x => (x.2.state == .waiting && x.2.event == some e) ||
    (x.2.state == .ready && x.2.timedOut == some (tick, e)))
  (sortBy (fun a b => decide (b.2.eff < a.2.eff) || (decide (a.2.eff = b.2.eff) && decide (a.2.waitOrder ≤ b.2.waitOrder))) l).map
    (·.1)

/-- While an event's count is above 0 and it has waiters, each takes one of it and becomes READY with result 0 (R585). -/
def Sched.serve (c : Sched) (e tick : Nat) : Sched :=
  let n := mget c.events e 0
  let w := (c.waiters e tick).take n
  let enter := w.filter (fun i => (mget c.threads i {}).state == .waiting)
  let c := w.foldl (fun c i => c.modThread i (fun t => { t with a0 := 0, timedOut := none, signalled := some (tick, e) })) c
  ({ c with events := mset c.events e (n - w.length) 0 }).enterAll enter

/-- A thread cancelled: a signal taken in this local tick goes back to the event (R590, R591). -/
def Sched.cancel (c : Sched) (id tick : Nat) : Sched :=
  let back := (mget c.threads id {}).signalled.filter (fun x => x.1 == tick)
  let c := c.endThread id
  match back with
  | some x => ({ c with events := mset c.events x.2 (min 0xFFFFFFFF (mget c.events x.2 0 + 1)) 0 }).serve x.2 tick
  | none => c

/-- THREAD_CANCEL (R560, R591): 0 when the thread was running, 1 before dispatch, 2 when it had ended. -/
def execThreadCancel (ref : CmdRef) (id : BitVec 16) (s : State) : Out :=
  .next (s.execCmd ref 0x0D02 (fun k s =>
    let i := id.toNat
    s.checked k [(!(s.sched.threads.any (fun x => x.1 == i)), E.range)] (fun s =>
      match (mget s.sched.threads i {}).state with
      | .ended => s.ok k [2]
      | .running => (s.modSched (·.endThread i)).ok k [0]
      | _ => ((s.modSched (·.cancel i s.tick)).bump epModule C.schCancelBefore).ok k [1])))

/-- Base priority and ceiling changed (R582): the effective priority becomes the base and a ready thread moves to the tail
of its new level. -/
def Sched.setPrio (c : Sched) (id base ceiling : Nat) : Sched :=
  let ready := (mget c.threads id {}).state == .ready
  let c := if ready then c.unready id else c
  let c := c.modThread id (fun t => { t with base := base, ceiling := ceiling, eff := base })
  if ready then c.enterReady id else c

/-- THREAD_PRIO (R572, R582). An ENDED thread counts as unknown (log entry 50). -/
def execThreadPrio (ref : CmdRef) (id : BitVec 16) (prio ceiling : Byte) (s : State) : Out :=
  .next (s.execCmd ref 0x0D03 (fun k s =>
    s.checked k [(!(s.sched.alive id.toNat), E.range), (s.prioBad prio ceiling, E.range)] (fun s =>
      (s.modSched (·.setPrio id.toNat prio.toNat ceiling.toNat)).ok k)))

/-! ### Dispatch and ageing -/

/-- The highest level with a ready thread. -/
def Sched.top (c : Sched) : Option Nat := ((List.range 64).reverse).find? (fun p => !(c.level p).isEmpty)

/-- The cores of a thread's affinity. -/
def Sched.coresOf (c : Sched) (id : Nat) : List Nat :=
  (List.range 8).filter (fun k => bitOf (mget c.threads id {}).affinity k)

/-- Effective priority of the thread a core runs. -/
def Sched.effOn (c : Sched) (core : Nat) : Nat :=
  match c.runs core with
  | some id => (mget c.threads id {}).eff
  | none => 0

/-- The core among some that runs the lowest effective priority, the lowest-numbered among equals (R577). -/
def Sched.lowest (c : Sched) (l : List Nat) : Option Nat :=
  l.foldl (fun b k => match b with
    | none => some k
    | some j => if c.effOn k < c.effOn j then some k else b) none

/-- A thread put on a core (R575). -/
def Sched.putOn (c : Sched) (core id : Nat) : Sched :=
  let c := (c.unready id).setCore core (some id)
  c.modThread id (fun t => { t with state := .running, timedOut := none, signalled := none })

/-- The thread of a preempted core re-enters its level at the head with its effective priority kept (R578). -/
def Sched.preempt (c : Sched) (core : Nat) : Sched :=
  match c.runs core with
  | none => c
  | some id =>
    let c := (c.setCore core none).modThread id (fun t => { t with state := .ready, waited := 0 })
    let p := (mget c.threads id {}).eff
    c.setLevel p (id :: c.level p)

/-- One dispatch decision (R575, R577); a SCH_WAIT that timed out returns 1 with it (R594). -/
def State.dispatch (s : State) : State :=
  let c := s.sched
  match c.top with
  | none => s
  | some p =>
    match c.level p with
    | [] => s
    | id :: _ =>
      let cs := c.coresOf id
      let out := (mget c.threads id {}).timedOut.isSome
      match cs.find? (fun k => (c.runs k).isNone) with
      | some k => ((s.modSched (·.putOn k id)).bump (0x1F20 + k) C.schDispatch).bumpIf out epModule C.schTimeout
      | none =>
        match c.lowest cs with
        | none => s
        | some k =>
          if c.effOn k < p then
            let s := s.modSched (fun c => (c.preempt k).putOn k id)
            ((s.bump (0x1F20 + k) C.schPreempt).bump (0x1F20 + k) C.schDispatch).bumpIf out epModule C.schTimeout
          else s

/-- THREAD_DISPATCH (R575 to R578, R593): nothing is dispatched outside Ramble. -/
def execThreadDispatch (s : State) : Out :=
  .next (if s.power.state == .ramble && s.power.change.isNone then s.dispatch else s)

/-- AGEING_RAISE (R580): a ready thread whose waiting count has reached its bound rises one level, below its ceiling. -/
def execAgeingRaise (id : Fin 256) (s : State) : Out :=
  let t := mget s.sched.threads id.val {}
  .next (if t.state == .ready && decide (t.bound ≠ 0) && decide (t.bound ≤ t.waited) && decide (t.eff < t.ceiling) then
    let s := s.modSched (fun c =>
      let c := (c.unready id.val).modThread id.val (fun t => { t with eff := t.eff + 1 })
      c.enterReady id.val)
    s.bump epModule C.schAgeRaise
  else s)

/-- A sleeping or waiting thread whose wake tick has been reached under R12 (R588). -/
def Thread.due (t : Thread) (now : Ft) : Bool :=
  match t.wake with
  | some w => (t.state == .sleeping || t.state == .waiting) && decide (0 ≤ ftDiff now w)
  | none => false

/-- The wake of due threads at a tick: a waiter is to return 1, a sleeper 0 (R588). -/
def State.wakeDue (s : State) (now : Ft) : State :=
  let ids := (s.sched.threads.filter (fun x => x.2.due now)).map (·.1)
  let waits := ids.filter (fun i => (mget s.sched.threads i {}).state == .waiting)
  s.modSched (fun c =>
    let c := waits.foldl (fun c i => c.modThread i (fun t => { t with a0 := 1, timedOut := some (s.tick, t.event.getD 0) })) c
    let c := (ids.filter (fun i => !waits.contains i)).foldl (fun c i => c.modThread i (fun t => { t with a0 := 0 })) c
    c.enterAll ids)

/-- The ready threads age by one tick (R580). -/
def Sched.age (c : Sched) : Sched :=
  { c with threads := c.threads.map (fun x =>
      if x.2.state == .ready && decide (x.2.bound ≠ 0) then (x.1, { x.2 with waited := x.2.waited + 1 }) else x) }

/-- The last scheduler tick at or before an FT (R586). -/
def tickFloor (x : Ft) : Ft := x - x % 1000

/-- SCHEDULER_TICK (R586, R588, R593): one tick, once FT has reached a multiple of 1,000 ns not yet taken. Busy time is
sampled at the tick (log entry 50). -/
def execSchedulerTick (s : State) : Out :=
  let now := tickFloor s.ft
  .next (if now == s.sched.lastTick then s
  else
    let s := s.modSched (fun c =>
      { c with lastTick := now
               busy := (List.range 8).foldl (fun m k => if (c.runs k).isSome then mset m k (mget m k 0 + 64) 0 else m) c.busy })
    if s.power.state == .ramble then (s.modSched Sched.age).wakeDue now else s)

/-! ### Calls and faults (R579, R583 to R587, R592) -/

/-- A call of the thread running on a core: `f` runs with its id; nothing without one (log entry 5). -/
def State.schCall (s : State) (core : Fin 8) (f : Nat → State → State) : State :=
  match s.sched.runs core.val with
  | some id => f id s
  | none => s

/-- The result of a call in a0. -/
def State.a0 (s : State) (id : Nat) (v : Nat) : State :=
  s.modSched (·.modThread id (fun t => { t with a0 := BitVec.ofNat 64 v }))

/-- The effective priority returns to the base (R579). -/
def State.rebase (s : State) (id : Nat) : State := s.modSched (·.modThread id (fun t => { t with eff := t.base }))

/-- SCH_YIELD (R579). -/
def execSchYield (core : Fin 8) (s : State) : Out :=
  .next (s.schCall core (fun id s =>
    ((s.a0 id 0).rebase id).modSched (fun c => (c.setCore core.val none).enterReady id)))

/-- The running thread leaves its core to sleep or wait. -/
def State.blockThread (s : State) (core : Fin 8) (id : Nat) (g : Thread → Thread) : State :=
  s.modSched (fun c => (c.setCore core.val none).modThread id g)

/-- The first scheduler tick at or after an FT (R587). -/
def tickCeil (x : Ft) : Ft := tickFloor (x + 999)

/-- SCH_SLEEP (R583, R587). -/
def execSchSleep (core : Fin 8) (ns : BitVec 64) (s : State) : Out :=
  .next (s.schCall core (fun id s =>
    if 2000000000 < ns.toNat then s.a0 id 2
    else
      let w := tickCeil (s.ft + ns.truncate 32)
      ((s.a0 id 0).rebase id).blockThread core id (fun t => { t with state := .sleeping, wake := some w })))

/-- SCH_SLEEP_UNTIL (R583, R587). -/
def execSchSleepUntil (core : Fin 8) (wake : BitVec 64) (s : State) : Out :=
  .next (s.schCall core (fun id s =>
    let w : Ft := wake.truncate 32
    if 2000000000 < ftDiff w s.ft then s.a0 id 2
    else
      ((s.a0 id 0).rebase id).blockThread core id (fun t => { t with state := .sleeping, wake := some (tickCeil w) })))

/-- An event of user threads (R584). -/
def userEvent (e : BitVec 64) : Bool := decide (256 ≤ e.toNat) && decide (e.toNat ≤ 1023)

/-- SCH_WAIT (R583, R584, R587). -/
def execSchWait (core : Fin 8) (event timeout : BitVec 64) (s : State) : Out :=
  .next (s.schCall core (fun id s =>
    let e := event.toNat
    let forever := timeout == 0xFFFFFFFF
    if !userEvent event || (!forever && decide (2000000000 < timeout.toNat)) then s.a0 id 2
    else
      let s := s.rebase id
      let n := mget s.sched.events e 0
      if 0 < n then (s.a0 id 0).modSched (fun c => { c with events := mset c.events e (n - 1) 0 })
      else if timeout == 0 then s.a0 id 1
      else
        let w := if forever then none else some (tickCeil (s.ft + timeout.truncate 32))
        let o := s.sched.nextOrder
        let s := s.modSched (fun c => { c with nextOrder := o + 1 })
        s.blockThread core id (fun t => { t with state := .waiting, wake := w, event := some e, waitOrder := o })))

/-- SCH_SIGNAL (R583, R585): the count rises, saturating, and readies as many waiters as it covers. -/
def execSchSignal (core : Fin 8) (event count : BitVec 64) (s : State) : Out :=
  .next (s.schCall core (fun id s =>
    let e := event.toNat
    if !userEvent event || decide (count.toNat < 1) || decide (65535 < count.toNat) then s.a0 id 2
    else
      let n := min 0xFFFFFFFF (mget s.sched.events e 0 + count.toNat)
      (s.a0 id 0).modSched (fun c => ({ c with events := mset c.events e n 0 }).serve e s.tick)))

/-- SCH_NOW (R583): bits 47 to 0 of FT.16. -/
def execSchNow (core : Fin 8) (s : State) : Out :=
  .next (s.schCall core (fun id s => s.a0 id s.time.ft16.toNat))

/-- SCH_EXIT (R574). -/
def execSchExit (core : Fin 8) (s : State) : Out :=
  .next (s.schCall core (fun id s => s.modSched (·.endThread id)))

/-- SCH_CALL_INVALID (R583): a call number outside 1 to 7 returns 3. -/
def execSchCallInvalid (core : Fin 8) (a7 : BitVec 64) (s : State) : Out :=
  .next (s.schCall core (fun id s => if 1 ≤ a7.toNat ∧ a7.toNat ≤ 7 then s else s.a0 id 3))

/-- A thread fault (R592): the thread ends, THREAD_FAULT is logged and counted. -/
def State.threadFault (s : State) (core id : Nat) (mcause mtval : BitVec 64) : State :=
  let s := s.modSched (·.endThread id)
  let s := s.bump epModule C.schThreadFault
  s.log epModule 0x0D01 (dat 0 id + dat 2 core + dat 4 (mcause.toNat % 2 ^ 32) + dat 8 (mtval.toNat % 2 ^ 32))

/-- A user thread may access an address of the engine window: it reads state records, and reads and writes hook parameter pages
(R167, R168, R566). -/
def windowMay (addr : Nat) (store : Bool) : Bool :=
  let o := (addr - 0x1000000) % 0x40000
  let d := (o - 0x10000) % 0x8000
  decide (0x1000000 ≤ addr) && decide (addr < 0x1400000) && decide (0x10000 ≤ o) && decide (o < 0x30000) &&
    ((!store && decide (d < 0x800)) || (decide (0x3000 ≤ d) && decide (d < 0x4000)))

/-- THREAD_TRAP (R592): a user-mode trap other than ecall; a load or store that R566 gives the thread takes no access fault. -/
def execThreadTrap (core : Fin 8) (mcause mtval : BitVec 64) (s : State) : Out :=
  .next (if mcause == 8 || (mcause == 5 && windowMay mtval.toNat false) || (mcause == 7 && windowMay mtval.toNat true) then s else s.schCall core (fun id s => s.threadFault core.val id mcause mtval))

end Sys2Proof.Machine
end

