-- ==== Sys2Proof/Machine/Power.lean ====
section
/-! DEFINITION. Power states, resets, start-up, supervisor restart, firmware banks, the configuration record, migration and engine
service (19_power_boot_service.md, R770 to R805; R74, R80, R81, R593, R696). -/

namespace Sys2Proof.Machine

/-! ### Commands in flight at a restart (R532) -/

/-- The tags in flight, as INTERRUPTED_LIST gives them: done before the restart, no trace, or interrupted (R532). -/
def State.interruptedNow (s : State) : List Interrupted :=
  (s.host.cmds.filter (fun c => !keyRemote c.1 && c.1 / 256 % 2 == 0 && c.2.inFlight)).map (fun c =>
    { tag := c.1 % 256, opcode := c.2.opcode, mbx := keyMbx c.1, resume := c.2.resume
      outcome := if c.2.responseDue then 0 else if nonAtomic.contains c.2.opcode then 2 else 1 })

/-- Every session closes (R510). -/
def State.closeAll (s : State) : State := (s.sessions.map (·.1)).foldl State.closeSession s

/-- A key that names no command. -/
def noKey : Nat := 2 ^ 40

/-- No object waits with a command any more. -/
def State.dropKeys (s : State) : State :=
  { s with
    waiters := []
    trails := s.trails.map (fun t => (t.1, { t.2 with homeCmd := none, appendCmds := [] }))
    can := s.can.map (fun c => (c.1, { c.2 with bufs := c.2.bufs.map (fun b => (b.1, { b.2 with cmd := none })) }))
    publishers := s.publishers.map (fun p => (p.1, { p.2 with registering := none }))
    fio := { s.fio with
      outs := s.fio.outs.map (fun o => (o.1, { o.2 with timed := o.2.timed.map (fun t => (t.1, t.2.1, noKey)) }))
      dies := s.fio.dies.map (fun d => (d.1, { d.2 with sets := d.2.sets.map (fun x => (noKey, x.2)) })) }
    safety := { s.safety with
      ack := s.safety.ack.map (fun a => (noKey, a.2)), ackWait := s.safety.ackWait.map (fun a => (noKey, a.2)) } }

/-- Every command in flight ends with E_INTERRUPTED; D0 keeps their records (R532, R774). -/
def State.interruptAll (s : State) : State :=
  let s := s.modPower (fun p => { p with d0Interrupted := s.interruptedNow })
  let keys := (s.host.cmds.filter (fun c => c.2.inFlight && !c.2.responseDue)).map (·.1)
  (keys.foldl (fun s k => s.finish k E.interrupted) s).dropKeys

/-! ### Resets (R777, R778) -/

/-- The STO lines of the channels as the island drives them. -/
def State.stoFlags (s : State) : State :=
  let rel := (List.range 80).filter (fun ch => (s.channelGroup ch).any (fun g => (s.sto g).released))
  rel.foldl (fun s ch =>
    if ch < 32 then s.modFlags ch (fun f => { f with sto := false })
    else if ch < 64 then s.modStepper (ch - 32) (fun c => { c with sto := false })
    else s.modAux (ch - 64) (fun a => { a with sto := false })) s

/-- The field dies as they go on while the core die is without power or in reset: they keep what is theirs, and what the core die has
of them is at reset (R23, R27). -/
def State.fioAlone (s : State) : Fio :=
  { s.fio with dies := s.fio.dies.map (fun d => (d.1, { ({} : FioDie) with
      quiet := d.2.quiet, lost := d.2.lost, dieTick := d.2.dieTick, safTick := d.2.safTick, safLost := d.2.safLost })) }

/-- Every domain but D0 and D2 loses its state; flash and the D0 record are kept (R777, R778), and so are the dies with supplies of
their own (R22, R23): the pairs handed over to the core die for sending are the core die's. -/
def State.coreLost (s : State) : State :=
  let p := s.power
  let h := s.host
  let r : Power := {
    resetCause := p.resetCause, verified := p.verified, training := p.training, d0Interrupted := p.d0Interrupted
    bankA := p.bankA, bankB := p.bankB, recA := p.recA, recB := p.recB, good := p.good, brownout := p.brownout
    rstHeld := p.rstHeld, tripHeld := p.tripHeld, state := p.state }
  let s := s.dropKeys
  State.stoFlags { State.reset with
    pending := s.pending, tick := s.tick, freeCtr := s.freeCtr
    fio := s.fioAlone, safety := { s.safety with outbox := [] }
    host := { step := h.step, restarts := h.restarts, bankB := h.bankB, goodTick := h.goodTick, interrupted := p.d0Interrupted }
    power := r }

/-- A module reset of causes 0x02 to 0x05: what was in flight is recorded, start-up begins anew (R777). -/
def State.moduleReset (s : State) (cause : Nat) (fast : Bool) : State :=
  let inter := if s.host.cmds.isEmpty then s.power.d0Interrupted else s.interruptedNow
  let s := s.modPower (fun p => { p with d0Interrupted := inter, resetCause := cause })
  s.coreLost.modPower (fun p => { p with
    state := .ramble, domains := 0x07, fast := fast, verified := if cause = 4 ∨ cause = 5 then none else p.verified })

/-- Leaving Hamper: the start-up of the fast path, as an exit to Ramble in progress (R775, R776). -/
def State.leaveHamper (s : State) (cause : Nat) : State :=
  (s.moduleReset cause true).modPower (fun p => { p with
    brownout := false, change := some { from_ := .hamper, target := .ramble, entry := false } })

/-! ### Entering and leaving states (R770 to R776) -/

/-- Domains powered in a state (R770). -/
def State.domainsOf (s : State) (st : PwrState) : BitVec 8 :=
  match st with
  | .ramble | .stroll => BitVec.ofNat 8 (255 - s.power.groupOff.foldl (fun a g => a + 2 ^ (3 + g)) 0)
  | .rest => 0x47
  | .blanket | .hamper => 0x05

/-- A state is entered: counted and logged (R804). -/
def State.entered (s : State) (old new : PwrState) : State :=
  let s := s.modPower (fun p => { p with state := new, change := none, domains := s.domainsOf new })
  (s.bump epModule C.pwrEntry new.code).log epModule 0x0C01 (dat 0 old.code + dat 1 new.code)

/-- Steps 1 and 2 of R774 when a change to a lower state begins (R739, R470, R482). -/
def State.beginEntry (s : State) (target : PwrState) (cmd : Option Nat) : State :=
  let s := s.modPower (fun p => { p with change := some { from_ := p.state, target := target, entry := true, cmd := cmd } })
  (s.latch 2 allGroups).capPowerDown

/-- An exit to Ramble begins (R775). -/
def State.beginExit (s : State) (cmd : Option Nat) : State :=
  s.modPower (fun p => { p with change := some { from_ := p.state, target := .ramble, entry := false, cmd := cmd } })

/-- Step 3 of R774: baskets, field outputs, timed changes, CAN transmit buffers; the CAN controllers and D7 go off (R770), and with
it the frames to the field dies (R728). -/
def State.restSteps (s : State) : State :=
  let s := s.spillAll
  let s := (s.dropTimed (List.range 32) E.interrupted)
  let s := ((List.range 32).filter (fun o => !s.outSafe o)).foldl (fun s o => s.command o false) s
  let s := (List.range 4).foldl (fun s c =>
    let s := ((s.getCan c).bufs.filterMap (·.2.cmd)).foldl (fun s k => s.finish k E.interrupted) s
    (s.modCan c (fun h => { h with bufs := h.bufs.map (fun b => (b.1, { b.2 with cmd := none })) })).canQuiet c .off) s
  let s := [0, 1].foldl (fun s d => (s.setsLeft d).modDie d (fun f => { f with quiet := true })) s
  State.stoFlags { s with
    fio := s.fioAlone
    pwm := [], quad := [], serial := [], dc := [], steppers := [], aux := [], arbs := s.arbs.filter (fun a => decide (32 ≤ a.1)) }

/-- Step 5 of R774 and the loss of D3 to D6 (R510, R532, R631, R770, R80). -/
def State.blanketSteps (s : State) (cmd : Option Nat) : State :=
  let s := match cmd with
    | some k => (s.ok k).writeRsp k
    | none => s
  let s := s.interruptAll.closeAll
  let s := (List.range 4).foldl (fun s p => s.linkDown p 8) s
  let s := (List.range 64).foldl (fun s m => if (s.getMbx m).state = .off then s else s.mbxOff m) s
  let s := (List.range 32).foldl (fun s i => s.modFlags i (fun f => { f with engine := none, old := none })) s
  { s with
    engines := [], loop := [], fb := [], foc := [], sections := [], records := [], eth := [], tdc := [], arbs := []
    fabric := {}, time := { s.time with aonXt16 := s.xt16 } }

/-- thermal_stop takes effect when the change in progress has left a state above Rest (R782). -/
def State.thermalCheck (s : State) : State :=
  if s.power.thermalStop && s.power.change.isNone && (s.power.state == .ramble || s.power.state == .stroll) then s.beginEntry .rest none
  else s

/-- POWER_ENTRY_COMPLETE (R774): steps 3 to 6; a wake cause held begins the exit (R775). -/
def execPowerEntryComplete (s : State) : Out :=
  .next (match s.power.change with
    | some c =>
      if !c.entry then s
      else
        let s := if 2 ≤ c.target.code then s.restSteps else s
        let s := if 3 ≤ c.target.code then s.blanketSteps c.cmd else s
        let s := s.entered c.from_ c.target
        let s := if c.target = .hamper then (s.loseSpilled.coreLost).modPower (fun p => { p with domains := 0x05 }) else s
        let s := s.finishOpt c.cmd E.ok
        if s.power.wakeHeld then
          let s := s.modPower (fun p => { p with wakeHeld := false })
          if c.target = .hamper then s.leaveHamper 3 else s.beginExit none
        else s.thermalCheck
    | none => s)

/-- The time unit reloads FT.16 and XT from the AON count and enters HOLDOVER, or UNSET when the reference has stopped, which the
spec leaves to the board: a free value (R80, R81). -/
def State.timeReload (s : State) : State :=
  let x := s.time.aonXt16
  let ft16 := BitVec.ofNat 48 x
  let t := { s.time with
    ft16 := ft16, xtHi := BitVec.ofNat 32 (x / 2 ^ 48), lastSample := (ft16 >>> 16).truncate 32, acquired := []
    lastValid := none, waitFrom := none }
  if s.fresh % 2 = 0 then
    ({ s.took with time := { t with state := .holdover } }).log epModule 0x0202
      (s.time.sourcePort.toNat + lowBits 32 s.time.offset * 2 ^ 64)
  else ({ s.took with time := { t with state := .unset, stepped := false, announced := none, rateAdj := 0 } }).log epModule 0x0205 0

/-- What the exit to Ramble does for the state it leaves: from Blanket the time is reloaded, the fabric ports start training and the engines
of powered groups are IDLE; from Rest and Blanket the CAN channels are in LISTEN with the configured mode (R776). -/
def State.exitSteps (s : State) (from_ : PwrState) : State :=
  let s : State := match from_ with
    | .blanket =>
      let s := s.timeReload
      let s : State := State.updateView { s with fabric := { s.fabric with d6Tick := s.tick } }
      (List.range 16).foldl (fun s le =>
        if s.power.groupOff.contains (le / 8) then s else s.modEngine le (fun e => { e with state := .idle })) s
    | _ => s
  if from_ = .rest ∨ from_ = .blanket then
    (List.range 4).foldl (fun s ch => (s.modCan ch (fun h => { h with state := .listen })).canApplyMode ch true) s
  else s

/-- POWER_EXIT_COMPLETE (R776): the module is in Ramble; from Hamper when the mailboxes are ready. -/
def execPowerExitComplete (s : State) : Out :=
  .next (match s.power.change with
    | some c =>
      if c.entry || (c.from_ == .hamper && s.host.stage != 8) then s
      else
        let s := (s.entered c.from_ .ramble).exitSteps c.from_
        ((s.safRamble).finishOpt c.cmd E.ok).thermalCheck
    | none => s)

/-- Some axis of any class is in a state other than DISABLED or FAULTED (R772). -/
def State.anyAxisOn (s : State) : Bool :=
  (List.range 80 ++ (List.range 384).map (· + 256)).any s.axisOn

/-- PWR_ENTER (R772, R773, R775). -/
def execPwrEnter (ref : CmdRef) (state : Byte) (s : State) : Out :=
  .next (s.execCmd ref 0x0C00 (fun k s =>
    let n := state.toNat
    let sched := !s.host.commits.isEmpty || !s.host.parts.isEmpty || !s.host.prepares.isEmpty || !s.power.migrations.isEmpty
    if 4 < n then s.finish k E.range
    else if s.power.change.isSome then s.finish k E.state
    else if n = s.power.state.code then s.ok k
    else if n = 0 then
      if s.power.thermalStop then s.finish k E.state else (s.run k).beginExit (some k)
    else if s.anyAxisOn || (decide (3 ≤ n) && sched) then s.finish k E.state
    else (s.run k).beginEntry (match n with | 1 => .stroll | 2 => .rest | 3 => .blanket | _ => .hamper) (some k)))

/-- PWR_WAKE (R775): held while an entry is in progress. -/
def execPwrWake (s : State) : Out :=
  .next (match s.power.change with
    | some c => if c.entry then s.modPower (fun p => { p with wakeHeld := true }) else s
    | none =>
      match s.power.state with
      | .ramble => s
      | .hamper => if s.power.brownout then s else s.leaveHamper 3
      | _ => s.beginExit none)

/-! ### Supplies and resets (R775, R777, R780, R809, R822) -/

/-- SUP_ALERT_N is low while SUP_STATE fault is 1 (R822). -/
def State.alertLow (s : State) : Bool := bitOf s.supState 9

/-- SUP_PG is low from below supplies good until supplies good (R822). -/
def State.pgLow (s : State) : Bool := !s.power.good || s.power.brownout

/-- VIN12_BROWNOUT (R780): every domain but D0 and D2 is off and the module is in Hamper; cause 2 latches (R739). With VSTBY gone
too the safety die loses its supply (R22). -/
def execVin12Brownout (s : State) : Out :=
  .next (if s.power.brownout then s
    else if !s.power.good then s.coreLost.safetyUnpowered.modPower (fun p => { p with domains := 0 })
    else
      let inter := if s.host.cmds.isEmpty then s.power.d0Interrupted else s.interruptedNow
      let s := (s.latch 2 allGroups).modPower (fun p => { p with d0Interrupted := inter })
      s.coreLost.modPower (fun p => { p with state := .hamper, domains := 0x05, brownout := true }))

/-- VIN12_RETURN (R775, R777 cause 0x02): the fast path. -/
def execVin12Return (s : State) : Out :=
  .next (if !s.power.brownout then s
    else (s.leaveHamper 2).modHost (fun h => { h with goodTick := some s.tick }))

/-- The D0 record cleared (R777, R778, R780). -/
def State.d0Cleared (s : State) : State :=
  (s.modPower (fun p => { p with verified := none, training := false, d0Interrupted := [] })).modHost
    (fun h => { h with restarts := 0, interrupted := [] })

/-- VSTBY_LOSS (R780): D0 is reset, and the reset of the other domains follows when the supply returns. In a brownout the safety die
loses its supply with it (R22). -/
def execVstbyLoss (s : State) : Out :=
  let s := s.d0Cleared
  .next (if s.power.brownout then
      s.coreLost.safetyUnpowered.modPower (fun p => { p with state := .ramble, domains := 0, good := false, brownout := false })
    else s.modPower (fun p => { p with domains := p.domains &&& 0xFE, good := false }))

/-- SUPPLIES_GOOD (R777 cause 0x01, R809): every domain but D2 is reset, D0 is cleared, and start-up begins. -/
def execSuppliesGood (s : State) : Out :=
  .next (if s.power.good || s.power.brownout then s
    else (s.coreLost.d0Cleared.modPower (fun p => { p with
        state := .ramble, good := true, resetCause := 1, domains := 0x07, fast := false })).modHost
      (fun h => { h with goodTick := some s.tick, stage := 0, bankB := false }))

/-- EXT_RESET (R777 cause 0x04): the reset lasts while SYS_RST_N is low. -/
def execExtReset (s : State) : Out :=
  .next (if s.power.rstHeld || s.power.brownout then s
    else (s.moduleReset 4 false).modPower (fun p => { p with rstHeld := true }))

/-- EXT_RESET_RELEASE (R822): start-up begins again on the full path. -/
def execExtResetRelease (s : State) : Out := .next (s.modPower (fun p => { p with rstHeld := false }))

/-- THERMAL_TRIP (R777 cause 0x05): the reset holds until the junction is below 100 °C. -/
def execThermalTrip (s : State) : Out :=
  .next (if s.power.tripHeld || s.power.brownout then s
    else (s.moduleReset 5 false).modPower (fun p => { p with tripHeld := true }))

/-- THERMAL_TRIP_RELEASE (R777). -/
def execThermalTripRelease (s : State) : Out := .next (s.modPower (fun p => { p with tripHeld := false }))

/-- CASE_TEMP_READING (R781, R782): the supervisor reads every t_thr while D1 runs. -/
def execCaseTempReading (tenths : Int) (s : State) : Out :=
  .next (if !bitOf s.power.domains.toNat 1 then s
    else
      let s := s.modPower (fun p => { p with caseTemp := tenths, hotRun := if 1100 < tenths then min 10 (p.hotRun + 1) else 0 })
      let log := s.power.thermalLog.all (fun t => s.passed t (msTicks 60000))
      let s := if tenths ≤ 1000 then s
        else
          let s := (s.supFault 3).bump epModule C.pwrThermalCnt
          if log then (s.log epModule 0x0C08 (lowBits 16 tenths)).modPower (fun p => { p with thermalLog := some s.tick }) else s
      if tenths ≤ 950 then s.modPower (fun p => { p with thermalStop := false })
      else if s.power.hotRun = 10 ∧ !s.power.thermalStop then
        (s.modPower (fun p => { p with thermalStop := true })).thermalCheck
      else s)

/-! ### Firmware banks (R784, R789 to R793) -/

/-- A bank (true B). -/
def Power.bank (p : Power) (b : Bool) : FwBank := if b then p.bankB else p.bankA
/-- A bank replaced. -/
def Power.setBank (p : Power) (b : Bool) (f : FwBank) : Power := if b then { p with bankB := f } else { p with bankA := f }

/-- The bytes of a bank's image. -/
def FwBank.image (f : FwBank) : List Byte := (List.range f.total).map (fun i => (mget f.bytes i none).getD 0)

/-- Every byte announced has been written, header and body as the header says (R789, R791). -/
def FwBank.complete (f : FwBank) : Bool :=
  f.factory || f.bytes.length == f.total && decide (128 ≤ f.total) && leField f.image 8 4 + 128 == f.total

/-- The image's header is intact and its signature verifies under a key that no fuse revokes (R789, R791). -/
def FwBank.signed (f : FwBank) (b : Bool) : Bool :=
  if f.factory then Config.factoryImageValid b
  else
    let l := f.image
    let key := leField l 14 1
    leField l 0 4 == 0x4C465749 && decide (1 ≤ leField l 8 4) && decide (leField l 8 4 ≤ 65011584) && decide (key ≤ 3) &&
      ((l.take 64).drop 15).all (· == 0) && !Config.keyRevoked key &&
      ecdsaVerify (Config.publicKey key) (beVal (sha256 (l.take 64 ++ l.drop 128))) (beVal ((l.drop 64).take 32)) (beVal ((l.drop 96).take 32))

/-- An intact header (R784). -/
def FwBank.intact (f : FwBank) : Bool := f.factory || f.valid

/-- The bank that boots, and whether it is the other one than chosen first (R784); `skip`: the bank whose signature is not
verified (R779). -/
def Power.boots (p : Power) (skip : Option Bool) : Option (Bool × Bool) :=
  let first := p.bankB.intact && (!p.bankA.intact || decide (p.bankA.seq < p.bankB.seq))
  let ok (b : Bool) : Bool := (p.bank b).intact && (skip == some b || (p.bank b).signed b)
  if ok first then some (first, false) else if ok (!first) then some (!first, true) else none

/-- Some engine or axis still uses the old image: a switch has not completed (R793). -/
def Power.switching (p : Power) : Bool := !p.oldEngines.isEmpty || !p.oldAxes.isEmpty

/-- FW_WRITE (R779, R790), in units of a byte. -/
def execFwWrite (job : CmdJob) (bank : Byte) (offset total : BitVec 32) (data : List Byte) (s : State) : Out :=
  .next (s.execUnits job.ref 0x0C10 (fun k s =>
    let b := bank == 1
    let o := offset.toNat
    let n := total.toNat
    let from_ := (s.cmd k).progress
    let done := from_ + reachUnits job.reach (data.length - from_)
    s.checked k [(decide (1 < bank.toNat) || decide (n < o + data.length) || decide (65011712 < n), E.range),
        (!s.power.rescue && b == s.host.bankB, E.state)] (fun s =>
      let f := s.power.bank b
      let f : FwBank := if o = 0 ∧ from_ = 0 then { factory := false, seq := f.seq } else { f with factory := false }
      let f := { f with total := n, valid := false, bytes := (((data.zipIdx o).take done).drop from_).foldl (fun m x => mset m x.2 (some x.1) none) f.bytes }
      let s := s.modPower (fun p => { p.setBank b f with verified := none })
      s.unitsDone k job.reach (decide (data.length ≤ done)) done (o + done) (leBytes 4 data.length ++ leBytes 4 (o + data.length)))))

/-- FW_ACTIVATE (R791). -/
def execFwActivate (ref : CmdRef) (bank : Byte) (ft : Ft) (s : State) : Out :=
  .next (s.execCmd ref 0x0C11 (fun k s =>
    let b := bank == 1
    let f := s.power.bank b
    let d := ftDiff ft s.ft
    let format := if f.factory then f.slotFormat else leField f.image 12 2
    let other := (s.power.bank (!b)).slotFormat
    let servoOn := (List.range 32).any s.axisOn
    s.checked k [(decide (1 < bank.toNat), E.range), (!f.complete, E.state), (s.power.switching || s.power.activation.isSome, E.state),
        (s.power.change.isSome, E.state), (ft != 0 && format != other && servoOn, E.state),
        (ft != 0 && (decide (d < 10000000) || decide (2000000000 < d)), E.range), (!f.signed b, E.auth)] (fun s =>
      let seq := max s.power.bankA.seq s.power.bankB.seq + 1
      let f := { f with
        valid := true, seq := seq, slotFormat := format, version := if f.factory then f.version else BitVec.ofNat 32 (leField f.image 4 4) }
      let s := s.modPower (fun p => { p.setBank b f with activation := if ft = 0 then p.activation else some (b, s.xtOfFt ft) })
      s.ok k)))

/-! ### Start-up (R696, R697, R779, R783 to R786) -/

/-- The record of the configuration store that start-up restores (R786). -/
def Power.record (p : Power) : Option CfgRecord :=
  match p.recA.valid, p.recB.valid with
  | true, true => some (if p.recA.seq < p.recB.seq then p.recB else p.recA)
  | true, false => some p.recA
  | false, true => some p.recB
  | false, false => none

/-- Domains up (R783 stage 0x04): every domain is powered, the fabric counts anew (R641). -/
def State.domainsUp (s : State) : State :=
  let s := s.modPower (fun p => { p with domains := 0xFF })
  ({ s with fabric := { d6Tick := s.tick } }).updateView

/-- Configuration restored (R786, R696, R697): the record in force, or the factory defaults with CFG_DEFAULTS. -/
def State.restoreConfig (s : State) : State :=
  let s := match s.power.record with
    | some r => ({ s with cfg := r.cfg }.modHost (fun h => { h with keys := r.keys })).modSafety (fun q => { q with stored := r.safety })
    | none => ({ s with cfg := [] }.supFault 8).log epModule 0x0C07 0
  let s := (List.range 32).foldl (fun s i => (List.range 8).foldl (fun s n => s.setInitRegion i n) s) s
  let s := (List.range 4).foldl (fun s p => if s.fabEnabled p then s else s.linkDown p 7) s
  let s := (List.range 2).foldl (fun s p => s.qbvCommitted p s.xt16) s
  (List.range 4).foldl (fun s c => s.canApplyMode c true) s

/-- A bank boots, or the boot ROM stays (R779, R784, R785). -/
def State.verifyImage (s : State) (skip : Option Bool) : State :=
  match s.power.boots skip with
  | some (b, other) =>
    let s := (s.modHost (fun h => { h with stage := 3, bankB := b })).modPower (fun p => { p with verified := some b })
    if other then (s.supFault 7).log epModule 0x0C06 (b2n b) else s
  | none =>
    let s := (s.modHost (fun h => { h with stage := 0xFE })).modPower (fun p => { p with rescue := true })
    s.modMbx 0 (fun b => if b.state = .boot then { b with state := .enabled } else b)

/-- Mailboxes ready (R783 stage 0x08): mailboxes in BOOT are ENABLED (R500). -/
def State.mailboxesReady (s : State) : State :=
  let s := s.modHost (fun h => { h with mbxReady := true })
  (List.range 64).foldl (fun s m => if (s.getMbx m).state = .boot then s.modMbx m (fun b => { b with state := .enabled }) else s) s

/-- BOOT_STAGE (R783): the next stage is passed; on the fast path verification of the verified bank is skipped (R779). -/
def execBootStage (s : State) : Out :=
  let stage (n : Nat) (s : State) : State := s.modHost (fun h => { h with stage := n })
  .next (if !s.power.good || s.power.rstHeld || s.power.tripHeld || s.power.brownout || s.power.state != .ramble then s
    else match s.host.stage with
    | 0 => stage 1 s
    | 1 => if s.power.fast then s.verifyImage s.power.verified else stage 2 s
    | 2 => s.verifyImage none
    | 3 => stage 4 s.domainsUp
    | 4 => stage 5 (s.modPower (fun p => { p with training := true }))
    | 5 => stage 6 ((List.range 16).foldl (fun s le => s.modEngine le (fun e => { e with state := .idle })) s)
    | 6 => stage 7 s.restoreConfig
    | 7 => stage 8 s.mailboxesReady
    | _ => s)

/-- CFG_SAVE (R787): the configuration of the latest epoch boundary goes into the older record; its CRC-32 is over bytes whose
layout the spec does not give (log entry 59). -/
def execCfgSave (ref : CmdRef) (flashFault : Bool) (s : State) : Out :=
  .next (s.execCmd ref 0x0C20 (fun k s =>
    let p := s.power
    let olderB := p.recA.valid && (!p.recB.valid || decide (p.recB.seq ≤ p.recA.seq))
    let newest := match p.record with | some r => r.seq | none => 0
    let cfg := match s.host.snaps with | x :: _ => x.cfg | [] => s.cfg
    let r : CfgRecord := if flashFault then {} else
      { seq := newest + 1, valid := true, cfg := cfg, safety := s.safety.stored, keys := s.host.keys }
    let s := s.modPower (fun p => if olderB then { p with recB := r } else { p with recA := r })
    if flashFault then (s.supFault 5).finish k E.aborted
    else s.took.ok k (leBytes 4 (crc32 (Config.recordBytes s.freeCtr)))))

/-! ### Supervisor restart (R511, R524, R777, R794) -/

/-- The bank a supervisor restart boots (R784, R791): the chosen one; the running bank needs no new proof, since nothing has written
it. A change of bank leaves the old library and vendor code where they are in use (R792). -/
def State.restartBank (s : State) : State :=
  match s.power.boots (some s.host.bankB) with
  | none => s
  | some (b, other) =>
    let les := (List.range 16).filter (fun le => !(s.hosted le).isEmpty)
    let t := if b = s.host.bankB then s
      else (s.modHost (fun h => { h with bankB := b })).modPower (fun p => { p with
        verified := some b, oldEngines := les, oldAxes := les.flatMap s.hosted })
    if other then (t.supFault 7).log epModule 0x0C06 (b2n b) else t

/-- The supervisor's requests are withdrawn (R599, R608). -/
def supWithdraws (m : SMap Arbiter) : SMap Arbiter :=
  m.filterMap (fun x =>
    let a := { x.2 with waiting := x.2.waiting.filter (fun r =>
      !((x.1 == 1 && r.1 == 9) || (decide (16 ≤ x.1) && decide (x.1 < 32) && r.1 == 8))) }
    if a = {} then none else some (x.1, a))

/-- User images are held until the supervisor restarts (R570): they go, and with them the user threads that run them. -/
def Sched.freeUser (c : Sched) : Sched :=
  let c := (c.live.filter (fun id => decide (0x40 ≤ id))).foldl Sched.endThread c
  { c with images := [] }

/-- A supervisor restart begins: sessions close, commits not yet applied and prepared items are gone, the tags in flight are
recorded; engines, planners, fabric and time run on. A leader rebuilds the wait-for graph (R615). -/
def State.restartSup (s : State) (cause : Nat) : State :=
  if s.power.restarting.isSome || s.host.stage != 8 then s
  else
    let l := s.interruptedNow
    let s := s.closeAll.dropKeys.restartBank.modSched Sched.freeUser
    let s := if s.isLeader then s.modLocks (fun k => { k with rebuilding := true }) else s
    let s := { s with arbs := supWithdraws s.arbs }
    let s := s.modHost (fun h => { h with
      mbxReady := false, interrupted := l, cmds := [], rspQueue := [], commits := [], parts := [], prepares := [], snapWaits := [], halfOpen := [] })
    s.modPower (fun p => { p with
      restarting := some cause, resetCause := cause, d0Interrupted := l, groupOn := p.groupOn.map (fun g => (g.1, noKey))
      change := p.change.map (fun c => { c with cmd := none }), migrations := p.migrations.map (fun m => { m with cmd := none }) })

/-- SUP_WATCHDOG_EXPIRY (R777 cause 0x10). -/
def execSupWatchdogExpiry (s : State) : Out := .next (s.restartSup 0x10)

/-- SUP_ECC_ERROR (R777 cause 0x11). -/
def execSupEccError (s : State) : Out := .next (s.restartSup 0x11)

/-- FW_SWITCH_RESTART (R791, R792): at the FT the supervisor restarts from the new bank, which has the higher activation sequence. -/
def execFwSwitchRestart (s : State) : Out :=
  .next (match s.power.activation with
    | some (b, x) =>
      if s.xt16 < x || s.power.restarting.isSome || s.host.stage != 8 then s
      else
        let s := s.restartSup 0x12
        s.modPower (fun p => { p with activation := none, activatedLog := if s.host.bankB = b then some b else none })
    | none => s)

/-- A restarted leader asks every module for its convoy registrations and memberships afresh (R794): its own it knows at once, the
others' come with their registrations. -/
def State.askAgain (s : State) : State :=
  if s.isLeader then ({ s with fabric := { s.fabric with convoys := [], members := [] } }).registerAgain else s

/-- SUPERVISOR_RESTART_DONE (R794). -/
def execSupervisorRestartDone (s : State) : Out :=
  .next (match s.power.restarting with
    | none => s
    | some cause =>
      let s := s.modHost (fun h => { h with restarts := min 255 (h.restarts + 1) })
      let s := (s.modPower (fun p => { p with restarting := none })).mailboxesReady.askAgain
      let s := ((s.bump epModule C.supRestartCnt).log epModule 0x0E05 (dat 0 cause + dat 1 s.host.restarts)).supFault 6
      match s.power.activatedLog with
      | some b =>
        (s.log epModule 0x0C05 (dat 0 (b2n b) + dat 4 (s.power.bank b).version.toNat)).modPower (fun p => { p with activatedLog := none })
      | none => s)

/-! ### Migration and engine service (R795 to R803) -/

/-- slot_format of the loop library an engine runs (R789, R792). -/
def State.slotFormatOf (s : State) (le : Nat) : Nat :=
  (s.power.bank (if s.power.oldEngines.contains le then !s.host.bankB else s.host.bankB)).slotFormat

/-- The handover bound of R798 holds. -/
def State.handoverFits (s : State) (i : Nat) : Bool :=
  let data := ([0, 1, 2, 3].map (fun p => match s.kernelAt i p with | some kn => kn.dataBytes | none => 0)).sum
  let units := (2048 + 1024 + 1024 + 4096 + data + 127) / 128
  decide (((units * 80 : Nat) : Rat) ≤ (s.par i P.curPeriodTicks : Rat) * (125 / 8) / 2)

/-- The bytes of an axis slot copied to a slot of another engine (R797, R798). -/
def State.copySlot (s : State) (src srcBase dst dstBase : Nat) : State :=
  let size := 0x8000
  let part := ((s.getEngine src).mem.filter (fun c => decide (srcBase ≤ c.1) && decide (c.1 < srcBase + size))).map
    (fun c => (c.1 - srcBase + dstBase, c.2))
  s.modEngine dst (fun e => { e with
    mem := e.mem.filter (fun c => decide (c.1 < dstBase)) ++ part ++ e.mem.filter (fun c => decide (dstBase + size ≤ c.1)) })

/-- A servo axis moves to another engine with its slot. -/
def State.moveAxis (s : State) (i dst : Nat) : State :=
  match (s.getFlags i).engine with
  | none => s
  | some src =>
    let base := s.slotBase i
    let s := (s.unplaceAxis i).placeAxis dst i
    (s.copySlot src base dst (s.slotBase i)).placeCode i

/-- AXIS_MIGRATE (R796, R800). -/
def execAxisMigrate (ref : CmdRef) (ep : BitVec 16) (engine : Byte) (ft : Ft) (s : State) : Out :=
  .next (s.execCmd ref 0x0310 (fun k s =>
    let i := ep.toNat
    let t := engine.toNat
    let d := ftDiff ft s.ft
    let b := if ft = 0 then s.nextBoundary else s.xtOfFt ft
    let st := (s.getEngine t).state
    match (s.getFlags i).engine with
    | none => s.finish k (if 32 ≤ i then E.endpoint else if 16 ≤ t then E.range else E.state)
    | some src =>
      if i < 32 ∧ t = src then s.ok k (leFt8 s.ft8)
      else
        let named := s.host.commits.any (fun c => decide (c.b ≤ b) && c.items.any (fun x => x.ep == i))
        let clash := s.power.migrations.any (fun g => g.b == b && !g.moved && (g.source == src || g.target == src || g.source == t || g.target == t))
        let room := s.engineKeeps ((s.willHost t).filter (· ≠ i) ++ [i])
        s.checked k [(decide (32 ≤ i), E.endpoint), (decide (16 ≤ t), E.range), (st != .idle && st != .run, E.state),
            (ft != 0 && decide (d < 100000), E.tooLate), (ft != 0 && decide (2000000000 < d), E.range),
            (!room || s.slotFormatOf src != s.slotFormatOf t || named || clash || !s.handoverFits i, E.conflict)] (fun s =>
          let s := (s.run k).modPower (fun p => { p with
            migrations := p.migrations ++ [{ axis := i, source := src, target := t, b := b, cmd := some k }] })
          let left := (s.hosted src).filter (fun j => !s.power.migrations.any (fun g => g.axis == j && g.source == src))
          if left.isEmpty then s.modEngine src (fun e => if e.state = .run then { e with state := .draining } else e) else s)))

/-- MIGRATION_HANDOVER (R797 to R799, R795): at B, once the source has computed the last sample whose update point lies before B, the
axis moves; a boundary that falls in a supervisor restart cancels. -/
def execMigrationHandover (axis : Fin 32) (s : State) : Out :=
  let i := axis.val
  .next (match s.power.migrations.find? (fun g => g.axis == i && !g.moved && decide (g.b ≤ s.xt16)) with
    | none => s
    | some g =>
      let drop := s.modPower (fun p => { p with migrations := p.migrations.erase g })
      let undrain (s : State) : State := s.modEngine g.source (fun e => if e.state = .draining then { e with state := .run } else e)
      if s.power.restarting.isSome then (undrain drop).finishOpt g.cmd E.interrupted
      else if (s.getFlags i).engine ≠ some g.source then (undrain drop).finishOpt g.cmd E.aborted
      else if (s.getEngine g.source).holds i || (decide ((s.getPwm i).updateXt < g.b) && (s.getPwm i).sample != 0 && !s.released i) then s
      else
        let s := s.moveAxis i g.target
        s.modPower (fun p => { p with migrations := p.migrations.map (fun x => if x = g then { x with moved := true } else x) }))

/-- The axis resumes from the state buffer of its last completed computation: sections and current control (R802). -/
def State.lastComplete (s : State) (i : Nat) : State :=
  match s.getRecord i with
  | r :: _ =>
    if r.sample = (s.getFlags i).released ∨ (s.getLoop i).state ≠ .enabled then s
    else r.sections.zipIdx.foldl (fun s x => s.setSection (secKey i x.2) x.1) (s.setFoc i r.foc)
  | [] => s

/-- ENGINE_RESCUE (R802): the axes of a halted engine move to the lowest-numbered engines that accept them. -/
def execEngineRescue (le : Fin 16) (s : State) : Out :=
  let n := le.val
  .next (if (s.getEngine n).state != .halted || s.par epModule P.engRescue != 1 then s
    else (s.hosted n).foldl (fun s i =>
      match (List.range 16).find? (fun t => t != n && s.mayPlace t i) with
      | some t => ((s.moveAxis i t).lastComplete i).bump (epEngine n) C.leRescue
      | none => s) s)

/-- ENGINE_RESTART (R803): the engine is IDLE, so it hosts no axis (R212). -/
def execEngineRestart (ref : CmdRef) (engine : Byte) (s : State) : Out :=
  .next (s.execCmd ref 0x0C02 (fun k s =>
    let le := engine.toNat
    s.checked k [(decide (16 ≤ le), E.range), ((s.getEngine le).state != .halted, E.state)] (fun s =>
      let s := (s.hosted le).foldl State.unplaceAxis s
      let s := s.setEngine le { state := .idle }
      ((s.modPower (fun p => { p with oldEngines := p.oldEngines.erase le })).log (epEngine le) 0x0C04 0).ok k)))

/-- The engines of a group (true D4). -/
def groupEngines (g : Nat) : List Nat := (List.range 8).map (8 * g + ·)

/-- PWR_DOMAIN (R801). -/
def execPwrDomain (ref : CmdRef) (domain on : Byte) (s : State) : Out :=
  .next (s.execCmd ref 0x0C01 (fun k s =>
    let d := domain.toNat
    let g := d - 3
    let les := groupEngines g
    let isOn := !s.power.groupOff.contains g
    let busy := les.any (fun le => !(s.hosted le).isEmpty || s.power.migrations.any (fun m => m.target == le))
    s.checked k [(!(d == 3 || d == 4) || decide (1 < on.toNat), E.range), (s.power.state != .ramble, E.state),
        (busy || s.power.groupOn.isSome, E.state)] (fun s =>
      if isOn == (on == 1) then s.ok k
      else if on = 0 then
        let s := les.foldl (fun s le => s.setEngine le {}) s
        let s := { s with arbs := les.foldl (fun m le => mdel m (16 + le)) s.arbs }
        let s := s.modPower (fun p => { p with groupOff := p.groupOff ++ [g], oldEngines := p.oldEngines.filter (fun e => !(les.contains e)) })
        (s.modPower (fun p => { p with domains := s.domainsOf p.state })).ok k
      else
        let s := s.modPower (fun p => { p with groupOff := p.groupOff.erase g, groupOn := some (g == 1, k) })
        (s.modPower (fun p => { p with domains := s.domainsOf p.state })).run k)))

/-- ENGINE_GROUP_READY (R801): the engines are IDLE. -/
def execEngineGroupReady (groupB : Bool) (s : State) : Out :=
  .next (match s.power.groupOn with
    | some (g, k) =>
      if g != groupB then s
      else
        let s := (groupEngines (b2n g)).foldl (fun s le => s.modEngine le (fun e => { e with state := .idle })) s
        (s.modPower (fun p => { p with groupOn := none })).ok k
    | none => s)

end Sys2Proof.Machine
end

