-- ==== Sys2Proof/Machine/Arb.lean ====
section
/-! DEFINITION. The arbiters of the coefficient bank, LPDDR, the engine memory ports and fabric transmit
(14_arbitration.md, R596 to R611). -/

namespace Sys2Proof

/-- Number of an arbiter (R607). -/
def ArbId.num : ArbId → Nat
  | .bank => 0
  | .lpddr => 1
  | .lePort le => 0x10 + le.val
  | .fabTx p => 0x20 + p.val

/-- Endpoint of an arbiter (R607). -/
def ArbId.ep : ArbId → Nat
  | .bank => 0x1F30
  | .lpddr => 0x1F31
  | .lePort le => 0x1F10 + le.val
  | .fabTx p => 0xA20 + p.val

/-- N of an arbiter (R607). -/
def ArbId.n : ArbId → Nat
  | .bank => 17
  | .lpddr => 10
  | .lePort _ => 10
  | .fabTx _ => 4

/-- Tenure T of an arbiter in cycles of its clock (R607). -/
def ArbId.tenure : ArbId → Nat
  | .bank => 8
  | .lpddr => 64
  | .lePort _ => 16
  | .fabTx _ => 16

/-- Local ticks that the T cycles of an arbiter last at least (R605, R607). -/
def ArbId.tenureTicks : ArbId → Nat
  | .bank => 0
  | .lpddr => 2
  | .lePort _ => 0
  | .fabTx _ => 2

/-- Power domain of an arbiter (R27): the bank D7, LPDDR D5, the engines D3 and D4, the fabric D6. -/
def ArbId.domain : ArbId → Nat
  | .bank => 7
  | .lpddr => 5
  | .lePort le => if le.val < 8 then 3 else 4
  | .fabTx _ => 6

end Sys2Proof

namespace Sys2Proof.Machine

/-- The requesters of `raised` in the cyclic order that begins at `from_`. -/
def cyclicFirst (n from_ : Nat) (p : Nat → Bool) : Option Nat :=
  ((List.range n).map (fun i => (from_ + i) % n)).find? p

/-- Winner of a cycle with f from 0 to 14: the highest level, ties in the cyclic order from w (R601). -/
def levelWinner (n w : Nat) (level : Nat → Nat) (raised : Nat → Bool) : Option Nat :=
  let top := ((List.range n).filter raised).foldl (fun m i => max m (level i)) 0
  cyclicFirst n w (fun i => raised i && level i == top)

/-- Winner of the slot cycle: the first raised requester in the cyclic order from g (R602). -/
def slotWinner (n g : Nat) (raised : Nat → Bool) : Option Nat := cyclicFirst n g raised

/-- The three counts after an arbitration cycle (R600). -/
def Arbiter.advance (a : Arbiter) (n : Nat) : Arbiter :=
  { a with f := (a.f + 1) % 16, w := (a.w + 1) % n, g := if a.f = 15 then (a.g + 1) % n else a.g }

/-- A grant that was held has ended with its transfer (R596): a transfer done makes its cut-offs past (R611). -/
def Arbiter.release (a : Arbiter) : Arbiter :=
  if a.holder = 0 then a else { a with holder := 0, cuts := mdel a.cuts (a.holder - 1) }

/-- The domain of an arbiter is powered (R599, R600). -/
def State.arbOn (s : State) (arb : ArbId) : Bool := bitOf s.power.domains.toNat arb.domain

/-- Level of a requester in force (R606, R608). -/
def State.arbLevel (s : State) (arb : ArbId) (i : Nat) : Nat := s.par arb.ep P.arbLevel i

/-- The virtual channel holds a fragment ready to send and a credit for it at the neighbour (R609). -/
def State.fragReady (s : State) (p vc : Nat) : Bool :=
  let f := s.getFabPort p
  let c := f.vc vc
  let credit := vcBlocks vc - (c.sent - c.freed).toNat
  !f.resync && (match f.nextOut vc with
    | none => false
    | some (_, .forward _ g) => decide (g.blocks ≤ credit)
    | some (_, m) => decide (1 + min 15 (if c.left = 0 then m.blocks s.fabric.device else c.left) ≤ credit))

/-- A requester can have its request raised: an engine while its BLD is outstanding (R194), a virtual channel while it holds a
fragment ready and a credit for it (R609); of the others the spec names no condition. -/
def State.canRaise (s : State) (arb : ArbId) (i : Nat) : Bool :=
  match arb with
  | .bank => decide (16 ≤ i) || (s.getEngine i).bld.isSome
  | .fabTx p => s.fragReady p.val i
  | _ => true

/-- Requests that compete in an arbitration cycle with the cycles each has been raised: those raised now and those that lost an
earlier cycle, while the requester can have its request raised (R597 to R599). -/
def State.competing (s : State) (arb : ArbId) (raised : List (Fin 17 × Nat)) : List (Nat × Nat) :=
  let a := s.getArb arb.num
  let now := raised.map (fun r => (r.1.val, max r.2 (mget a.waiting r.1.val 0)))
  let kept := a.waiting.filter (fun r => !now.any (fun x => x.1 == r.1))
  (now ++ kept).filter (fun r => decide (r.1 < arb.n) && s.canRaise arb r.1)

/-- ARBITRATION_GRANT (R597 to R602, R604, R606, R609, R610): those not granted keep their requests raised (R598). -/
def execArbitrationGrant (arb : ArbId) (raised : List (Fin 17 × Nat)) (s : State) : Out :=
  .next (
    let a := (s.getArb arb.num).release
    let all := s.competing arb raised
    let up (i : Nat) : Bool := all.any (fun r => r.1 == i)
    let byLevel := levelWinner arb.n a.w (s.arbLevel arb) up
    let win := if a.f = 15 then slotWinner arb.n a.g up else byLevel
    match s.arbOn arb, win with
    | true, some i =>
      let wait := mget all i 0
      let b := { a.advance arb.n with
        holder := i + 1, since := s.tick
        waiting := (all.filter (fun r => r.1 != i)).map (fun r => (r.1, r.2 + 1))
        waitMax := if a.waitMax.2 < wait then (i, wait) else a.waitMax }
      let s := (s.setArb arb.num b).bumpIf (a.f == 15 && byLevel != some i) arb.ep C.arbSlotWin
      match arb with
      | .fabTx p => s.sendFragment p.val i
      | _ => s
    | _, _ => s)

/-- ARBITRATION_IDLE_CYCLE (R596, R600): a cycle in which no request is raised, none of an earlier cycle either. -/
def execArbitrationIdleCycle (arb : ArbId) (s : State) : Out :=
  .next (if s.arbOn arb && (s.competing arb []).isEmpty then s.modArb arb.num (fun a => a.release.advance arb.n) else s)

/-- The frame of a virtual channel whose fragment is cut off ends with the abort marker; nothing more of it goes out (R611, R634). -/
def State.cutFrame (s : State) (p vc : Nat) : State :=
  let f := s.getFabPort p
  let c := f.vc vc
  if c.left ≠ 0 then
    match f.nextOut vc with
    | some x =>
      let st := ((c.tx.find? (fun t => t.2.1 == 4)).map (·.1)).getD 0
      let f := (f.dequeue x).modVc vc (fun c => { c with left := 0, tx := c.tx.filter (fun t => t.2.1 != 4) })
      s.setFabPort p { f with wire := .abort 4 vc st :: f.wire, line := abortBlock vc st :: f.line }
    | none => s
  else
    match f.wire with
    | .forward ip g :: rest =>
      if g.vc.val != vc then s
      else
        let s := s.setFabPort p { f.modVc vc (fun c => { c with tx := c.tx.filter (fun t => t.1 != g.stream.val) }) with
          wire := .abort ip vc g.stream.val :: rest, line := abortBlock vc g.stream.val :: f.line }
        match c.tx.find? (fun t => t.1 == g.stream.val && t.2.1 == ip) with
        | none => s
        | some t =>
          let st := t.2.2
          let mine (x : Nat × FabMsg) : Bool := match x.2 with
            | .forward jp h => x.1 == vc && jp == ip && h.stream.val == st
            | _ => false
          let n := (((s.getFabPort p).out.filter mine).map (fun x => match x.2 with
            | .forward _ h => h.blocks
            | _ => 0)).foldl (· + ·) 0
          let s := s.modFabPort p (fun f => { f with out := f.out.filter (fun x => !mine x) })
          let s := s.modFabPort ip (fun f => f.modVc vc (fun c => { c with
            rx := c.rx.map (fun r => if r.1 == st then (r.1, { r.2 with outs := r.2.outs.erase p }) else r) }))
          s.freeBlocks ip vc n
    | m :: rest => if m.vc = vc then s.setFabPort p { f with wire := .abort 4 vc 0 :: rest, line := abortBlock vc 0 :: f.line } else s
    | [] => s

/-- The effect of a cut-off on its requester (R197, R611): `n` is the number of consecutive cut-offs of its transfer. -/
def State.cutEffect (s : State) (arb : ArbId) (i n : Nat) : State :=
  let core (s : State) : State :=
    match s.sched.runs i with
    | some id =>
      s.took.threadFault i id (if s.fresh % 2 = 0 then 5 else 7) (BitVec.ofNat 64 (s.fresh / 2))
    | none => if 2 ≤ n then s.restartSup 0x13 else s
  match arb with
  | .bank =>
    if i < 16 then s.took.endBurst i (some (s.fresh % 8, .overhold))
    else if n < 4 then s
    else s.modHost (fun h => { h with commits := match h.commits with
      | c :: l => { c with dropped := true } :: l
      | [] => [] })
  | .lpddr => if i < 8 then core s else s
  | .lePort _ => if i < 8 then core s else s
  | .fabTx p => s.cutFrame p.val i

/-- GRANT_CUTOFF (R605, R611): the grant has lasted T cycles. -/
def execGrantCutoff (arb : ArbId) (s : State) : Out :=
  .next (
    let a := s.getArb arb.num
    if !s.arbOn arb || a.holder == 0 || decide (s.tick < a.since + arb.tenureTicks) then s
    else
      let i := a.holder - 1
      let n := mget a.cuts i 0 + 1
      let first_ := match a.overhold with
        | some o => o
        | none => (i, s.ft8)
      let b := { a with holder := 0, cuts := mset a.cuts i n 0, overhold := some first_ }
      let s := (s.setArb arb.num b).bump arb.ep C.arbOverholdCnt
      let s := s.log epModule 0x0E04 (dat 0 arb.num + dat 1 i + dat 4 arb.tenure)
      s.cutEffect arb i n)

end Sys2Proof.Machine
end

