-- ==== Sys2Proof/Machine/Apply.lean ====
section
/-! DEFINITION. What a commit and a fabric-wide commit do at their boundary (R520 to R524 of 11_mailboxes.md), with the effects
that other chapters give to the change of a parameter. -/

namespace Sys2Proof.Machine

/-! ### Before the values change -/

/-- A publisher committed off or to another number: the end publication, and its registration goes (R377, R383). -/
def State.withdrawNumber (s : State) (i : Item) : State :=
  let c := i.ep - 0x1F60
  let old := s.par i.ep P.convNumber
  if i.code.toNat ≠ P.convNumber ∨ old = 0xFFFF ∨ old = i.value then s
  else
    let s := if i.value = 0xFFFF then s.endPublication c else s
    let s := s.sendRegister 2 old (s.fa i.ep)
    s.modPublisher c (fun p => if p.registered = some old then { p with registered := none } else p)

/-! ### After the values change -/

/-- A servo axis's carrier follows its committed grid (R87). -/
def State.afterGrid (s : State) (i : Item) : State :=
  let c := i.code.toNat
  if i.ep < 32 ∧ (c = P.curPeriodTicks ∨ c = P.curPhaseTicks) then s.realignServo 0 i.ep
  else if c = P.auxPeriodTicks ∨ c = P.auxPhaseTicks then s.realignAux 0 (i.ep - epAux 0)
  else s

/-- Sections, position reads, hooks, ratio, cam table and inputs of an axis (R113, R207, R232, R356, R393, R400). -/
def State.afterAxis (b : Nat) (s : State) (i : Item) : State :=
  let c := i.code.toNat
  if c = P.secSets ∨ c = P.schedSource then s.setInitRegion i.ep i.index.toNat
  else if c = P.fbSource ∨ c = P.stBits ∨ c = P.mtBits then
    s.modSerial i.ep (fun p => { p with outstanding := none, raw := none, unwrapped := 0, history := [], wordTaken := false })
  else if c = P.hookKernel then s.attachHooks i.ep
  else if c = P.gearNum ∨ c = P.gearDen then s.regear i.ep b
  else if c = P.camTable then s.recam i.ep
  else if c = P.limitPosInput ∨ c = P.limitNegInput ∨ c = P.limitLevel ∨ c = P.homeInput ∨ c = P.homeLevel then s.readInputs i.ep
  else s

/-- The leader learns that a master which follows another convoy republishes (R406, R661). -/
def State.afterConvoy (s : State) (i : Item) : State :=
  let c := i.code.toNat
  if (c = P.convNumber ∨ c = P.convMaster) ∧ s.par i.ep P.convNumber ≠ 0xFFFF then
    let m := s.par i.ep P.convMaster
    match (s.getFollower m).convoy with
    | some n => s.sendRegister 3 n (s.fa m)
    | none => s
  else s

/-- An axis that enters or leaves a path group: its own trail is its setpoint source no longer, or again (R343, R369). -/
def State.regroup (s : State) (ep : Nat) : State :=
  if s.axisStateOf ep ≠ .enabled then s
  else if (s.groupOf ep).isSome then s.modTrail ep Trail.close
  else if (s.getTrail ep).state == .closed then s.openTrail ep
  else s

/-- The trail of a group whose list of members changed: IDLE when every member is ENABLED, else CLOSED (R369). -/
def State.afterGroup (s : State) (old : List Nat) (i : Item) : State :=
  if i.code.toNat ≠ P.members then s
  else
    let g := i.ep - 0x1F40
    let new := s.groupMembers g
    let s := ((old ++ new).filterMap s.localEp).eraseDups.foldl State.regroup s
    let s := s.modTrail i.ep Trail.close
    if !new.isEmpty && s.groupEnabled g then s.modTrail i.ep (fun t => { t with state := .idle }) else s

/-- Fabric ports that enter or leave fab_port_mask (R625, R631): one whose bit is set anew is enabled until FAB_PORT disables it. -/
def State.afterPorts (s : State) (old : Nat) (i : Item) : State :=
  if i.code.toNat ≠ P.fabPortMask then s
  else (List.range 4).foldl (fun s p =>
    if bitOf old p && !s.fabEnabled p then s.linkDown p 7
    else if !bitOf old p && bitOf (s.par epModule P.fabPortMask) p then
      (s.modFabPort p (fun f => { f with disabled := false })).enablePort p
    else s) s

/-- Every session of an Ethernet port closes (the change column of net_ip, R510). -/
def State.closePort (s : State) (p : Nat) : State :=
  (s.sessions.filter (fun x => match x.2.map Session.via with
    | some (Transport.udp q _) => q.val == p
    | _ => false)).foldl (fun s x => s.closeSession x.1) s

/-- Ethernet and CAN: only a port with ptp_source_enable 1 holds a master (R686) (R672, R683, R685, R697 and the change column of the port parameters). -/
def State.afterNet (s : State) (b : Nat) (i : Item) : State :=
  let c := i.code.toNat
  let p := i.ep - 0xA10
  if c = P.canMode then s.canApplyMode (i.ep - 0xA00) (decide (7 ≤ s.host.stage))
  else if c = P.qbvList ∨ c = P.qbvEnable then s.qbvCommitted p b
  else if c = P.ptpProfile ∨ c = P.ptpSourceEnable then
    (s.modPtp p (fun q => if s.par i.ep P.ptpSourceEnable = 0 then { q with master := none, heard := [], wins := 0 } else q)).followTime
  else if c = P.netSerdes then s.ethLink p false
  else if c = P.netIp ∨ c = P.netMask ∨ c = P.netGateway then s.closePort p
  else s

/-- The samples in progress whose update point lies before the boundary keep what was in force, until they are released (R48). -/
def State.keepOld (s : State) (b : Nat) : State :=
  (List.range 32).foldl (fun s i =>
    let w := s.getPwm i
    if (s.getFlags i).engine.isNone || w.sample == 0 || s.released i || decide (b ≤ w.updateXt) || (s.getFlags i).old.isSome then s
    else s.modFlags i (fun f => { f with old := some (s.cfg, f.hooks) })) s

/-- A set in force whole at its boundary (R48, R520). -/
def State.applyItems (s : State) (items : List Item) (b : Nat) : State :=
  let s := s.keepOld b
  let groups := items.map (fun i => if i.code.toNat = P.members then s.groupMembers (i.ep - 0x1F40) else [])
  let mask := s.par epModule P.fabPortMask
  let s := items.foldl State.withdrawNumber s
  let s := items.foldl State.putItem s
  let s := items.foldl State.afterGrid s
  let s := items.foldl (State.afterAxis b) s
  let s := items.foldl State.afterConvoy s
  let s := (groups.zip items).foldl (fun s x => s.afterGroup x.1 x.2) s
  let s := items.foldl (fun s i => s.afterPorts mask i) s
  items.foldl (fun s i => s.afterNet b i) s

/-! ### The boundary -/

/-- The scheduled commit whose boundary has come: the earliest, and of one boundary the first accepted (R520). -/
def State.dueCommit (s : State) : Option Commit :=
  (s.host.commits.filter (fun c => decide (c.b ≤ s.xt16))).foldl (fun a c => match a with
    | some x => if c.b < x.b then some c else some x
    | none => some c) none

/-- COMMIT_APPLY (R520, R611). -/
def execCommitApply (s : State) : Out :=
  .next (match s.dueCommit with
    | none => s
    | some c =>
      let s := s.modHost (fun h => { h with commits := h.commits.erase c })
      if c.dropped then s.finishOpt c.cmd E.aborted
      else
        match s.stateBad c.items with
        | some n => s.finishOpt c.cmd E.state (indexData (some n))
        | none => (s.applyItems c.items c.b).finishOpt c.cmd E.ok (leFt8 (ft8Of c.b)))

/-- PREPARE_APPLY (R522 steps 5 and 6): a participant that holds COMMIT applies at FT_c and reports. -/
def execPrepareApply (p : PrepRef) (s : State) : Out :=
  .next (match s.part p.dev.val p.num with
    | some q =>
      if !(q.commit && q.ready && s.atFt q.ftC 0) then s
      else
        let s := s.dropPart p.dev.val p.num
        if (s.stateBad q.items).isSome then s
        else
          let s := s.applyItems q.items (s.xtOfFt q.ftC)
          if s.isOwn p.dev.val then s.appliedFrom p.num p.dev.val else s.fabSend p.dev.val (.commitApplied p.num)
    | none => s)

end Sys2Proof.Machine
end

