-- ==== Sys2Proof/Machine/Locks.lean ====
section
/-! DEFINITION. Host locks (R525 to R529) with the lock protocol between modules and the wait-for graph at the leader (R527,
R615, R616). -/

namespace Sys2Proof.Machine

/-- An answer to a lock request. -/
inductive LockAns where
  | granted | locked | circle | waits
  deriving DecidableEq, Repr

/-- Sessions reached from a list along edges of the wait-for graph. -/
def reached (g : List (SessRef × SessRef)) : Nat → List SessRef → List SessRef
  | 0, l => l
  | n + 1, l => reached g n (l ++ (g.filter (fun e => l.contains e.1 && !l.contains e.2)).map (·.2)).eraseDups

/-- A wait of `r` for the sessions `on` would close a circle (R527). -/
def State.closes (s : State) (r : SessRef) (on : List SessRef) : Bool :=
  (reached s.locks.graph s.locks.graph.length on).contains r

/-- Edges of a waiting request enter the graph. -/
def State.addEdges (s : State) (r : SessRef) (on : List SessRef) : State :=
  s.modLocks (fun l => { l with graph := l.graph ++ on.map (fun o => (r, o)) })

/-- A request that cannot be granted and may wait: tested here at the leader, else by a query to it (R527, R615). -/
def State.lockWait (s : State) (r : LockWait) : State × LockAns :=
  let on := s.waitsOn r
  if !s.isLeader then
    ((s.modLocks (fun l => { l with asked := l.asked ++ [r] })).fabSend s.fabric.leaderDev
      (.lockQuery (s.outRef r.sess) (on.map s.outRef)), .waits)
  else if s.locks.rebuilding then (s.modLocks (fun l => { l with asked := l.asked ++ [r] }), .waits)
  else if s.closes r.sess on then (s.bump epModule C.lockWaitCycle, .circle)
  else ((s.addEdges r.sess on).modLocks (fun l => { l with waits := l.waits ++ [r] }), .waits)

/-- A lock request at its endpoints' module: taken together, refused or waiting (R526, R616). -/
def State.lockTry (s : State) (r : LockWait) (wait : Bool) : State × LockAns :=
  if s.lockFree (s.locks.waits ++ s.locks.asked) r then (s.takeLocks r, .granted)
  else if !wait then (s, .locked)
  else
    let a := s.lockWait r
    if a.2 = .waits then (a.1.bump epModule C.lockWaits, .waits) else a

/-- Endpoints that cannot be locked: outside the map, STO groups and safety function instances. -/
def lockable (e : BitVec 16) : Bool :=
  match classOf e.toNat with
  | some (.stoGroup, _) => false
  | some (.safeFunc, _) => false
  | none => epInMap e.toNat
  | _ => true

/-- A session's locks with new ones. -/
def Session.withLocks (x : Session) (dev : Nat) (eps : List (BitVec 16)) : Session :=
  { x with waiting := none, locks := x.locks ++ ((eps.eraseDups.map (fun e => (dev, e))).filter (fun l => !x.locks.contains l)) }

/-- LOCK (R525 to R528): taken, refused or waiting. -/
def execLock (ref : CmdRef) (wait : BitVec 32) (eps : List (BitVec 16)) (s : State) : Out :=
  .next (s.execCmd ref 0x0130 fun k s =>
    let m := keyMbx k
    match s.getSession m with
    | none => s.finish k E.endpoint
    | some x =>
      let d := (s.cmd k).image.device.toNat
      let own := s.isOwn d
      let dev := if own then 0 else d
      let new := (eps.eraseDups.filter (fun e => !x.locks.contains (dev, e))).length
      s.checked k [
        (decide (10000 < wait.toNat) || eps.isEmpty || decide (32 < eps.length), E.range), (eps.any (fun e => !lockable e), E.endpoint),
        (x.waiting.isSome, E.conflict), (decide (256 < x.locks.length + new), E.queueFull)] fun s =>
        let waiting (s : State) : State :=
          (s.setSession m (some { x with waiting := some (k, dev, eps, wait.toNat, s.tick) })).run k
        let me := s.sessRef m
        if own then
          let a := s.lockTry { sess := me, eps := eps } (wait != 0)
          match a.2 with
          | .granted => (a.1.setSession m (some (x.withLocks 0 eps))).ok k
          | .locked => a.1.finish k E.locked
          | .circle => a.1.finish k E.waitCycle
          | .waits => waiting a.1
        else waiting (s.fabSend dev (.lockRequest (s.outRef me) eps wait.toNat)))

/-- UNLOCK (R529): the named locks the session holds are released. -/
def execUnlock (ref : CmdRef) (eps : List (BitVec 16)) (s : State) : Out :=
  .next (s.execCmd ref 0x0131 fun k s =>
    let m := keyMbx k
    match s.getSession m with
    | none => s.finish k E.endpoint
    | some x =>
      let d := (s.cmd k).image.device.toNat
      let dev := if s.isOwn d then 0 else d
      let mine := eps.filter (fun e => x.locks.contains (dev, e))
      let me := s.sessRef m
      let s := s.setSession m (some { x with locks := x.locks.filter (fun l => !(l.1 == dev && mine.contains l.2)) })
      (if dev = 0 then s.releaseLocks me mine
        else if mine.isEmpty then s else s.fabSend dev (.lockRelease (s.outRef me) mine)).ok k)

/-- The answer of a request goes to its session: here or at its own module. -/
def State.tellRefusal (s : State) (r : SessRef) (circle : Bool) : State :=
  match s.mbxOf r with
  | some m =>
    match s.getSession m with
    | some x =>
      match x.waiting with
      | some w => (s.setSession m (some { x with waiting := none })).finish w.1 (if circle then E.waitCycle else E.locked)
      | none => s
    | none => s
  | none => if r.dev = 0 then s else s.fabSend r.dev (.lockRefusal r circle)

/-- LOCK_REQUEST_MSG (R526): a request of another module's session for endpoints here. -/
def execLockRequestMsg (sess : SessRef) (eps : List (BitVec 16)) (wait : Bool) (s : State) : Out :=
  let r := s.inRef sess
  let a := s.lockTry { sess := r, eps := eps } wait
  .next (match a.2 with
    | .granted => a.1.fabSend sess.dev (.lockGrant sess)
    | .locked => a.1.tellRefusal r false
    | .circle => a.1.tellRefusal r true
    | .waits => a.1)

/-- LOCK_GRANT_MSG (R526): a grant from another module completes the LOCK. -/
def execLockGrantMsg (m : Fin 64) (s : State) : Out :=
  .next (match s.getSession m with
    | some x =>
      match x.waiting with
      | some w => if w.2.1 = 0 then s else (s.setSession m (some (x.withLocks w.2.1 w.2.2.1))).ok w.1
      | none => s
    | none => s)

/-- LOCK_REFUSAL_MSG (R526, R527): a refusal from another module fails the LOCK. -/
def execLockRefusalMsg (m : Fin 64) (circle : Bool) (s : State) : Out :=
  .next (match s.getSession m with
    | some x =>
      match x.waiting with
      | some w =>
        if w.2.1 = 0 then s
        else (s.setSession m (some { x with waiting := none })).finish w.1 (if circle then E.waitCycle else E.locked)
      | none => s
    | none => s)

/-- A release names every endpoint a waiting request still lacks: it withdraws the request. -/
def Locks.withdraws (l : Locks) (r : SessRef) (eps : List (BitVec 16)) : Bool :=
  (l.waits ++ l.asked).any (fun w => w.sess == r && w.eps.all (fun e => eps.contains e || l.held.contains (e, r)))

/-- LOCK_RELEASE_MSG (R526, R529): endpoints released or a request withdrawn; with no endpoint, the leader drops the session's
edges (log entry 49). -/
def execLockReleaseMsg (sess : SessRef) (eps : List (BitVec 16)) (s : State) : Out :=
  let r := s.inRef sess
  .next (
    if eps.isEmpty then s.modLocks (fun l => { l with graph := l.graph.filter (fun e => e.1 != r) })
    else
      let s := if s.locks.withdraws r eps then s.withdraw r else s
      s.releaseLocks r eps)

/-- LOCK_GRAPH_QUERY (R527, R616): the leader tests a waiting request; during a rebuild the query waits (R615). -/
def execLockGraphQuery (req : SessRef) (on : List SessRef) (owner : Fin 4096) (s : State) : Out :=
  let r := s.inRef req
  let on' := on.map s.inRef
  .next (
    if !s.isLeader || s.locks.rebuilding then s
    else if s.closes r on' then (s.bump epModule C.lockWaitCycle).fabSend owner (.lockAnswer req true)
    else (s.addEdges r on').fabSend owner (.lockAnswer req false))

/-- A request whose test is over: refused, or it waits and may be granted. -/
def State.lockTested (s : State) (r : LockWait) (circle : Bool) : State :=
  let s := s.modLocks (fun l => { l with asked := l.asked.erase r })
  if circle then s.tellRefusal r.sess true
  else (s.modLocks (fun l => { l with waits := l.waits ++ [r] })).grantWaits

/-- LOCK_GRAPH_ANSWER (R527): the leader's answer on a circle. -/
def execLockGraphAnswer (sess : SessRef) (circle : Bool) (s : State) : Out :=
  .next (match s.locks.asked.find? (fun w => w.sess == s.inRef sess) with
    | some r => s.lockTested r circle
    | none => s)

/-- LOCK_WAIT_TIMEOUT (R528): a waiting LOCK completes with E_TIMEOUT; one of wait time 0 at another module waits
remote_timeout for its answer (R508). -/
def execLockWaitTimeout (m : Fin 64) (s : State) : Out :=
  .next (match s.getSession m with
    | some x =>
      match x.waiting with
      | some (k, dev, eps, wait, t) =>
        let limit := if wait = 0 then s.parF epModule P.remoteTimeout else (wait : Rat)
        if !s.expired t (msTicks limit) then s
        else
          let me := s.sessRef m
          let s := s.setSession m (some { x with waiting := none })
          let s := if dev = 0 then s.withdraw me
            else s.fabSend dev (.lockRelease (s.outRef me) (eps.filter (fun e => !x.locks.contains (dev, e))))
          s.finish k E.timeout
      | none => s
    | none => s)

/-- WAIT_GRAPH_REBUILD (R615): the new leader's graph is rebuilt; requests that waited for it are tested in order. -/
def execWaitGraphRebuild (edges : List (SessRef × SessRef)) (s : State) : Out :=
  .next (
    if !s.isLeader || !s.locks.rebuilding then s
    else
      let s := s.modLocks (fun l => { l with rebuilding := false, graph := edges.map (fun e => (s.inRef e.1, s.inRef e.2)) })
      s.locks.asked.foldl (fun s r =>
        let on := State.waitsOn (s.modLocks (fun l => { l with asked := [] })) r
        if s.closes r.sess on then (s.bump epModule C.lockWaitCycle).lockTested r true
        else (s.addEdges r.sess on).lockTested r false) s)

end Sys2Proof.Machine
end

