-- ==== Sys2Proof/Machine/Status.lean ====
section
/-! DEFINITION. The status words of every chapter (the tables "read through SNAP_READ"), the epoch snapshots, SNAP_READ and SNAP_AT
(R512 to R515 of 11_mailboxes.md, R546 to R550 of 12_commands.md). -/

namespace Sys2Proof.Machine

/-! ### Codes -/

/-- Code of an axis state (LOOP_STATUS). -/
def AxisState.code : AxisState → Nat
  | .disabled => 0
  | .enabling => 1
  | .enabled => 2
  | .stopping => 3
  | .faulted => 4

/-- Code of a feedback state (FBK_STATUS). -/
def FbState.code : FbState → Nat
  | .off => 0
  | .valid => 1
  | .extrapolated => 2
  | .lost => 3
  | .substituted => 4

/-- Code of an engine state (LE_STATUS). -/
def LeState.code : LeState → Nat
  | .off => 0
  | .idle => 1
  | .run => 2
  | .halted => 3
  | .draining => 4

/-- Code of an angle source (FOC_STATUS). -/
def AngleSource.code : AngleSource → Nat
  | .feedback => 0
  | .observer => 1
  | .injection => 2
  | .blend => 3
  | .hold => 4
  | .listening => 5

/-- Code of a catch result (FOC_STATUS). -/
def CatchResult.code : CatchResult → Nat
  | .none_ => 0
  | .caught => 1
  | .braked => 2
  | .fromStandstill => 3

/-- Code of an auxiliary drive's state (AUX_STATUS). -/
def AuxState.code : AuxState → Nat
  | .off => 0
  | .standby => 1
  | .listen => 2
  | .brake => 3
  | .align => 4
  | .openLoop => 5
  | .run => 6
  | .hold => 7
  | .stopping => 8
  | .retryWait => 9
  | .faulted => 10

/-- Code of a trail state (TRJ_STATUS). -/
def TrailState.code : TrailState → Nat
  | .closed => 0
  | .idle => 1
  | .running => 2
  | .stopping => 3
  | .homing => 4

/-- Code of a homing phase (TRJ_STATUS). -/
def HomePhase.code : HomePhase → Nat
  | .none_ => 0
  | .fast => 1
  | .fastReversed => 2
  | .backoff => 3
  | .approach => 4
  | .index => 5
  | .moveTo => 6

/-- Code of a homing result (TRJ_STATUS). -/
def HomeResult.code : HomeResult → Nat
  | .none_ => 0
  | .homed => 1
  | .notFound => 2
  | .chatter => 3
  | .aborted => 4
  | .fault => 5

/-- Code of a membership state (GEAR_STATUS). -/
def MemberState.code : MemberState → Nat
  | .none_ => 0
  | .waiting => 1
  | .syncing => 2
  | .coupled => 3
  | .decoupled => 4

/-- Code of a capture state (CAP_STATUS). -/
def CapState.code : CapState → Nat
  | .disarmed => 0
  | .armed => 1
  | .post => 2
  | .rearm => 3
  | .waitSpace => 4

/-- Code of a fabric port's state (FAB_PORT_STATUS). -/
def FabPortState.code : FabPortState → Nat
  | .off => 0
  | .cal => 1
  | .train => 2
  | .measure => 3
  | .up => 4
  | .bench => 5

/-- Code of the module's fabric state (FAB_STATUS). -/
def FabState.code : FabState → Nat
  | .counting => 0
  | .member => 1
  | .solo => 2
  | .refused => 3

/-- Code of a PTP port state (NET_STATUS, IEEE 1588-2019). -/
def PtpState.code : PtpState → Nat
  | .initializing => 1
  | .faulty => 2
  | .disabled => 3
  | .listening => 4
  | .passive => 7
  | .uncalibrated => 8
  | .slave => 9

/-- Code of a CAN channel's state (CAN_STATUS). -/
def CanState.code : CanState → Nat
  | .off => 0
  | .listen => 1
  | .active => 2
  | .passive => 3
  | .busOff => 4

/-- Code of a field output's state (FIO_OUT_STATUS). -/
def OutState.code : OutState → Nat
  | .off => 0
  | .on => 1
  | .limit => 2
  | .cooling => 3
  | .latched => 4
  | .supplyOff => 5
  | .hbOff => 6

/-- Code of the safety island's state (SAF_STATUS). -/
def SafState.code : SafState → Nat
  | .start => 0
  | .waitConfig => 1
  | .unconfirmed => 2
  | .run => 3
  | .halted => 4

/-- Code of a safety function's state (SAF_FUNC_STATUS). -/
def FuncState.code : FuncState → Nat
  | .inactive => 0
  | .active => 1
  | .stopping => 2
  | .sos => 3
  | .done => 4
  | .violated => 5

/-- Code of a safe connection's state (SAF_CONN_STATUS). -/
def ConnState.code : ConnState → Nat
  | .unused => 0
  | .waiting => 1
  | .valid => 2
  | .fault => 3
  | .sending => 4

/-! ### Status words by object -/

/-- A flag at a bit position. -/
def flag (b : Bool) (n : Nat) : Nat := b2n b * 2 ^ n

/-- A field at its low bit. -/
def fld (v lo : Nat) : Nat := v * 2 ^ lo

/-- TIM_STATUS. -/
def TimeUnit.statusWord (t : TimeUnit) : Nat :=
  fld t.sourcePort.toNat 24 + flag t.diverged 7 + flag t.inTolerance 6 + flag t.leader 5 + flag t.rateSaturated 4 +
  flag t.stepped 3 + t.state.code

/-- FBK_STATUS of a servo axis or auxiliary drive: an auxiliary drive has the flags of its Hall sensor. -/
def State.fbkStatus (s : State) (ep : Nat) : Nat :=
  let f := s.getFb ep
  let q := s.getQuad ep
  let hall := if ep < 0x20 then false else (s.getAux (ep - 0x40)).hall.fault
  fld f.lossCause 24 + flag f.uncertain 15 + flag f.substituted 14 + flag q.indexSeen 13 + flag q.cdMethod 12 +
  flag (decide (0 < q.blend) && decide (q.blend < 8)) 11 + flag q.zeroSpeed 10 + flag (s.getSerial ep).lspWarning 9 + flag hall 8 + f.state.code

/-- Declared cycles of the axes an engine hosts as a percentage of its cycles at 1.2 GHz (LE_STATUS load). -/
def State.enginePercent (s : State) (le : Nat) : Nat :=
  let r : Rat := ((s.hosted le).map (fun i =>
    ((s.declaredCycles i * 400 : Nat) : Rat) / ((75 * max 1 (s.par i P.curPeriodTicks) : Nat) : Rat))).foldl (· + ·) 0
  min 100 r.floor.toNat

/-- LE_STATUS. -/
def State.leStatus (s : State) (le : Nat) : Nat :=
  let e := s.getEngine le
  fld (s.enginePercent le) 16 + flag e.memFault 8 + fld (s.hosted le).length 4 + flag (decide (8 ≤ le)) 3 + e.state.code

/-- LOOP_STATUS. -/
def State.loopStatus (s : State) (i : Nat) : Nat :=
  let l := s.getLoop i
  let f := s.getFlags i
  let secs := List.range 8
  (secs.map (fun k => fld (s.getSection (secKey i k)).region (40 + 3 * k))).sum +
  (secs.map (fun k => flag (s.getSection (secKey i k)).sat (32 + k))).sum +
  fld l.faultCause 24 + fld ((l.stop.map (·.cat)).getD 15) 20 + fld (s.mode i) 16 + flag f.hooksBypassed 8 + flag f.standstill 7 +
  flag f.outputSaturated 6 + flag f.torqueLimited 5 + flag f.speedLimited 4 + l.state.code

/-- FOC_STATUS. -/
def State.focStatus (s : State) (i : Nat) : Nat :=
  let f := s.getFoc i
  let w := s.getPwm i
  fld (f.w * 255).floor.toNat 24 + fld f.angle.code 20 + fld f.catch_.code 18 +
  flag (f.angle == .injection || f.angle == .blend) 10 + flag f.clip 9 + flag f.offsetWarn 8 + flag f.obs.locked 7 +
  flag f.holdFrom.isSome 6 + flag (decide (f.fw ≠ 0)) 5 + flag f.vectorLimited 4 + flag w.shifted 3 + flag w.modLimited 2

/-- AUX_STATUS. -/
def AuxDrive.statusWord (a : AuxDrive) : Nat :=
  fld a.faultCause 24 + fld a.retries 16 + fld a.state.code 12 + flag a.capped 11 + flag a.hallInUse 10 +
  flag a.foc.obs.locked 9 + flag a.foc.vectorLimited 8

/-- SEGMENT_STARVED in the last sample of an axis (R55). -/
def State.starvedNow (s : State) (ep : Nat) : Bool :=
  match classOf ep with
  | some (.servo, i) => (s.getFlags i).starved
  | some (.stepper, i) => (s.getStepper i).starvedSince.isSome
  | some (.virt, i) => (s.getVirt i).starvedSince.isSome
  | _ => false

/-- TRJ_STATUS. -/
def State.trjStatus (s : State) (ep : Nat) : Nat :=
  let t := s.getTrail ep
  fld t.lastWaymark.toNat 32 + fld t.moves.length 24 + fld t.homeResult.code 20 + fld t.phase.code 16 + flag t.homed 11 +
  flag (s.uncertainOf ep) 10 + flag t.limPos 9 + flag t.limNeg 8 + flag t.softLimited 7 + flag (s.groupOf ep).isSome 6 +
  flag (s.starvedNow ep) 5 + t.state.code

/-- TRJ_REPORT, byte 0 lowest. -/
def TrjReport.word (r : TrjReport) : Nat :=
  r.data + dat 16 r.ftStop.toNat + dat 24 (lowBits 64 r.posFinal) + dat 32 (b2n r.posValid)

/-- GEAR_STATUS. -/
def State.gearStatus (s : State) (ep : Nat) : Nat :=
  let f := s.getFollower ep
  let measured := match f.inUse s.time.ft16 with
    | some p => p.measured
    | none => false
  let stage := match f.map with
    | some g => min 15 g.stage
    | none => 15
  fld ((f.convoy).getD 255) 56 + fld f.held.length 52 + fld f.lastSeq.toNat 32 + fld f.cause 24 + flag f.reg.limited 19 +
  flag (decide (f.reg.o ≠ f.reg.demand)) 18 + flag f.late 17 + flag measured 16 + fld ((f.map.map (·.map)).getD 15) 12 +
  fld stage 8 + f.state.code

/-- STP_STATUS. -/
def State.stpStatus (s : State) (i : Nat) : Nat :=
  let c := s.getStepper i
  fld c.faultCause 24 + flag c.uncertain 15 + flag c.rateLimited 14 + flag c.holdCurrent 13 + flag c.coilA.limited 12 +
  flag c.coilB.limited 11 + flag (s.par (epStepper i) P.stpRegMode == 1) 10 + flag c.dutyLimited 9 + min 3 c.state.code

/-- CAP_STATUS. -/
def State.capStatus (s : State) (i : Nat) : Nat :=
  let c := s.getCap i
  let held := (s.capMem.baskets.filter (fun b => b.2.closed && b.2.channel == i)).length
  fld c.remaining 48 + fld (min 65535 held) 32 + fld c.lastClose 20 + fld c.lastMask 16 + flag c.continuous 8 + flag c.fifoFull 7 +
  flag (c.state != .disarmed && decide (s.par (epCap i) P.capPre ≤ c.pre.length)) 6 + c.state.code

/-- A stamp word with its valid bit. -/
def stampWord (x : Option Ft8) : Nat :=
  match x with
  | some t => flag true 63 + t.toNat
  | none => 0

/-- CAP_MEM. -/
def State.capMemStatus (s : State) : Nat :=
  fld s.capMem.baskets.length 32 + fld (s.capCoreFree / 1024) 16 + s.capSpillFree / 1048576

/-- Ready vendor threads, which the spec does not determine: a free number up to 64. -/
def vendorReady (free : Nat) : Nat := free / 101 % 65

/-- SCH_STATUS; what concerns vendor threads is free. -/
def State.schStatus (s : State) (free : Nat) : Nat :=
  let c := s.sched
  let l := (c.ready.filter (fun x => !x.2.isEmpty)).map (·.1)
  let user := (c.threads.filter (fun x => x.2.state != .ended)).length
  let ready := (c.ready.map (fun x => x.2.length)).sum + vendorReady free
  let top := if 0 < vendorReady free then 56 + free / 6565 % 8 else 0
  fld user 56 + fld c.images.length 48 + fld (min 255 ready) 40 + fld (free % 101) 32 + fld (s.poolFree / 1048576) 16 +
  l.foldl max top

/-- SCH_CORE; a core without a user thread is idle or runs a vendor thread, which the spec does not determine. -/
def State.schCore (s : State) (k free : Nat) : Nat :=
  let r := free / 2 ^ (32 * (k + 1))
  let share := mget s.sched.busy k 0 * 100 / max 1 (s.par epModule P.epochTicks)
  let busy := fld (min 50 (max (share / 2) (r % 51))) 2
  match s.sched.runs k with
  | some id => fld id 16 + fld (mget s.sched.threads id {}).eff 8 + busy + 3
  | none =>
    if !bitOf s.power.domains.toNat 5 then fld 0xFFFF 16
    else if r / 51 % 2 = 0 then fld 0xFFFF 16 + busy + 1
    else fld (r / 102 % 64) 16 + fld (56 + r / 6528 % 8) 8 + busy + 2

/-- The number under which an arbiter's state is kept, by endpoint (R607). -/
def arbOf (ep : Nat) : Nat :=
  if ep = 0x1F31 then 1 else if 0x1F10 ≤ ep ∧ ep ≤ 0x1F1F then ep - 0x1F00 else if 0xA20 ≤ ep ∧ ep ≤ 0xA23 then ep - 0xA00 else 0

/-- ARB_OVERHOLD. -/
def Arbiter.overWord (a : Arbiter) : Nat :=
  match a.overhold with
  | some (r, t) => flag true 63 + fld r 48 + t.toNat
  | none => 0

/-- ARB_WAIT_MAX. -/
def Arbiter.waitWord (a : Arbiter) : Nat := fld a.waitMax.1 32 + min 4294967295 a.waitMax.2

/-- FAB_STATUS. -/
def State.fabStatus (s : State) : Nat :=
  let f := s.fabric
  fld f.modules 48 + fld (f.gen % 65536) 32 + fld f.device 20 + fld (min 63 f.depth) 14 + fld f.parent 8 + flag s.time.leader 7 +
  flag f.partition 6 + flag f.repair 5 + f.state.code

/-- FAB_PORT_STATUS. -/
def State.fabPortStatus (s : State) (p : Nat) : Nat :=
  let f := s.getFabPort p
  let up := s.fabric.parent == p
  let child := match f.disc with
    | some d => d.1.child
    | none => false
  let n := (f.violations.filter (fun t => !s.passed t (msTicks 1000))).length
  fld (lowBits 32 (f.linkDelay * 1000 / 65536)) 32 + fld (min 255 n) 24 + fld f.downCause 16 + flag f.foreign 15 + flag up 14 +
  flag (f.linked && (up || child)) 13 + flag (s.fabEnabled p) 12 + f.state.code

/-- NET_STATUS. -/
def State.netStatus (s : State) (p : Nat) : Nat :=
  let e := s.getEth p
  let d := match e.ptp.delay with
    | some x => min 65535 (x / 65536).toNat
    | none => 0
  fld e.ptp.state.code 60 + fld (s.par (epEth p) P.ptpProfile) 58 + flag e.ptp.source 57 + flag e.ptp.asCapable 56 + fld d 40 +
  fld e.arp.length 32 + fld e.gates 24 + flag e.qbvPending.isSome 3 + flag e.qbvActive 2 + flag e.linkUp 1

/-- CAN_STATUS. -/
def CanCh.statusWord (c : CanCh) : Nat :=
  fld (min 255 c.tec) 24 + fld (min 255 c.rec_) 16 + fld c.bufs.length 8 + fld c.lastError 4 + c.state.code

/-- The inputs of a die are stale (R714, R729). -/
def State.staleDie (s : State) (d : Nat) : Bool := (s.die d).stale || (s.die d).hbLost || s.dieOff d

/-- FIO_IN_STATUS. -/
def State.fioInStatus (s : State) (i : Nat) : Nat :=
  let f := s.fieldIn i
  let g := s.supply (groupOfIn i)
  flag (s.staleDie (i / 32)) 7 + flag f.wireBreak 6 + flag (g.level != 0) 5 + flag (g.level == 3) 4 + flag f.raw 1 + b2n f.state

/-- FIO_LATCH_STATUS. -/
def State.fioLatchStatus (s : State) (i : Nat) : Nat :=
  let f := s.latchIn i
  flag (s.staleDie (i / 8)) 7 + flag f.raw 1 + b2n f.state

/-- FIO_OUT_STATUS; the current of an output that conducts is the load's, a free value. -/
def State.fioOutStatus (s : State) (o free : Nat) : Nat :=
  let f := s.fieldOut o
  let cur := if f.state == .on || f.state == .limit then free / 2 ^ (32 * (o + 16)) % 65536 else 0
  fld (min 255 f.retries) 24 + fld f.state.code 20 + flag f.commanded 19 + flag (s.outSafe o) 18 + flag f.timed.isSome 17 + cur

/-- FIO_DIE_STATUS. -/
def State.fioDieStatus (s : State) : Nat :=
  let d (k : Nat) : Nat := flag (s.die k).hbLost 2 + flag (s.staleDie k) 1 + b2n (s.dieOff k)
  fld (d 1) 3 + d 0

/-- SAF_STATUS. -/
def State.safStatus (s : State) : Nat :=
  let f := s.safety
  let check := (f.confirmed.map (·.toNat)).getD 0
  fld check 32 + ((List.range 8).map (fun g => flag (s.stoAsserted g) (24 + g))).sum + fld (min 255 f.restarts) 16 +
  fld f.lastCause 8 + flag f.confirmed.isSome 3 + f.state.code

/-- SAF_GROUP_STATUS. -/
def State.safGroupStatus (s : State) (g : Nat) : Nat :=
  let q := s.sto g
  ((List.range 12).map (fun n => flag (q.causes.contains (n + 1)) (16 + n))).sum + flag (!q.released && !s.autoRelease g) 15 +
  flag q.rb.hs 14 + flag q.rb.ls 13 + (if q.testing then 2 else b2n q.released)

/-- SAF_FUNC_STATUS. -/
def State.safFuncStatus (s : State) (n : Nat) : Nat :=
  let f := mget s.safety.funcs n {}
  match mfind s.safety.config.funcs n with
  | none => fld 255 8
  | some c =>
    let vs : Rat := if c.axis = 255 then 0 else (mget s.safety.taps c.axis {}).vs
    fld (ratToF32 vs) 32 + fld c.fn 24 + fld c.group 16 + fld c.axis 8 + flag f.request 7 + flag f.ssm 6 + f.state.code

/-- SAF_CONN_STATUS. -/
def State.safConnStatus (s : State) (n : Nat) : Nat :=
  let c := mget s.safety.conns n {}
  let mask := match mfind s.safety.config.conns n with
    | some g => g.mask
    | none => 0
  fld c.seq.toNat 32 + fld c.fault 24 + fld mask 16 + c.state.code

/-- SAF_SI_STATUS. -/
def SafeIn.statusWord (i : SafeIn) : Nat := flag i.testFail 2 + flag i.raw 1 + b2n i.state

/-- PWR_STATUS. -/
def State.pwrStatus (s : State) : Nat :=
  let p := s.power
  let target := match p.change with
    | some c => c.target.code
    | none => 0
  fld (lowBits 16 p.caseTemp) 48 + fld p.resetCause 40 + fld p.domains.toNat 32 + flag p.switching 31 + flag p.thermalStop 30 +
  fld (p.migrations.filter (fun m => !m.moved)).length 16 + fld target 4 + (if p.change.isSome then 4 else p.state.code)

/-! ### All status words -/

/-- Status words by table code: the classes of their objects and their bytes (R547). -/
def statusTable : List (Nat × List ObjClass × Nat) := [
  (0x60, [.module], 8), (0x61, [.module], 4), (0x62, [.module], 4), (0x63, [.module], 4), (0x64, [.servo, .aux], 4),
  (0x65, [.engine], 4), (0x66, [.servo], 8), (0x67, [.servo], 4), (0x68, [.aux], 4),
  (0x69, [.servo, .stepper, .virt, .pathGroup], 8), (0x6A, [.servo, .stepper, .virt, .pathGroup], 64),
  (0x6B, [.servo, .stepper, .virt, .remote], 8), (0x6C, [.stepper], 4), (0x6D, [.cap], 8), (0x6E, [.cap], 8)] ++ [
  (0x6F, [.module], 8), (0x70, [.module], 8), (0x71, [.core], 4), (0x72, [.arbiter, .engine, .fabPort], 8),
  (0x73, [.arbiter, .engine, .fabPort], 8), (0x74, [.module], 8), (0x75, [.fabPort], 8), (0x76, [.eth], 8), (0x77, [.eth], 4),
  (0x78, [.can], 4), (0x79, [.fieldIn], 4), (0x7A, [.latchIn], 4), (0x7B, [.fieldOut], 4), (0x7C, [.supply], 4)] ++ [
  (0x7D, [.module], 4), (0x7E, [.module], 8), (0x7F, [.stoGroup], 4), (0x80, [.safeFunc], 8), (0x81, [.safeConn], 8),
  (0x82, [.safeIn], 4), (0x83, [.module], 8)]

/-- The row of a status word. -/
def findStatus (table : Nat) : Option (List ObjClass × Nat) := (statusTable.find? (fun r => r.1 == table)).map (·.2)

/-- Status words of the servo loops, trails and line shaft: tables 0x60 to 0x6C. -/
def State.statusLow (s : State) (table ep i : Nat) : Nat :=
  match table with
  | 0x60 => s.time.ft16.toNat
  | 0x61 => lowBits 32 s.time.rateAdj
  | 0x62 => s.time.statusWord
  | 0x63 => lowBits 32 s.time.offset
  | 0x64 => s.fbkStatus ep
  | 0x65 => s.leStatus i
  | 0x66 => s.loopStatus i
  | 0x67 => s.focStatus i
  | 0x68 => (s.getAux i).statusWord
  | 0x69 => s.trjStatus ep
  | 0x6A => (s.getTrail ep).report.word
  | 0x6B => s.gearStatus ep
  | _ => s.stpStatus i

/-- Status words of capture, threads, arbiters, fabric, networks, field I/O, safety and power: tables 0x6D to 0x83. -/
def State.statusHigh (s : State) (free table ep i : Nat) : Nat :=
  match table with
  | 0x6D => s.capStatus i
  | 0x6E => stampWord (s.getCap i).missFt
  | 0x6F => s.capMemStatus
  | 0x70 => s.schStatus free
  | 0x71 => s.schCore i free
  | 0x72 => (s.getArb (arbOf ep)).overWord
  | 0x73 => (s.getArb (arbOf ep)).waitWord
  | 0x74 => s.fabStatus
  | 0x75 => s.fabPortStatus i
  | 0x76 => s.netStatus i
  | 0x77 => lowBits 32 (s.getEth i).ptp.offset
  | 0x78 => (s.getCan i).statusWord
  | 0x79 => s.fioInStatus i
  | 0x7A => s.fioLatchStatus i
  | 0x7B => s.fioOutStatus i free
  | 0x7C => fld (s.supply i).mv 16 + (s.supply i).level
  | 0x7D => s.fioDieStatus
  | 0x7E => s.safStatus
  | 0x7F => s.safGroupStatus i
  | 0x80 => s.safFuncStatus i
  | 0x81 => s.safConnStatus i
  | 0x82 => (mget s.safety.ins i {}).statusWord
  | _ => s.pwrStatus

/-- A status word of an object, by table code. -/
def State.statusOf (s : State) (free table ep i : Nat) : Nat :=
  if table ≤ 0x6C then s.statusLow table ep i else s.statusHigh free table ep i

/-- The status words of a range of the endpoint map, with their keys, zeros left out. -/
def State.statusRange (s : State) (free : Nat) (r : Nat × Nat × ObjClass) : List (Nat × Nat) :=
  let tables := (statusTable.filter (fun t => t.2.1.contains r.2.2)).map (·.1)
  if tables.isEmpty then []
  else (List.range (r.2.1 + 1 - r.1)).flatMap (fun i =>
    tables.filterMap (fun t =>
      let v := s.statusOf free t (r.1 + i) i
      if v = 0 then none else some (itemKey (r.1 + i) (t * 256) 0, v)))

/-- Every status word of the module, as at this instant (R56, R512); the free number feeds the values the spec leaves open. -/
def State.statusWords (s : State) (free : Nat) : SMap Nat := epMap.flatMap (s.statusRange free)

/-! ### Snapshots (R512) -/

/-- The boundary of the state epoch at or before now, XT.16. -/
def State.lastBoundary (s : State) : Nat :=
  let t := s.par epModule P.epochTicks * tickUnits
  s.xt16 / max 1 t * max 1 t

/-- The supervisor runs. -/
def State.supRuns (s : State) : Bool :=
  s.host.stage == 8 && s.power.restarting.isNone && bitOf s.power.domains.toNat 1 &&
  s.power.state != .blanket && s.power.state != .hamper

/-- Items that apply at a boundary at or before E and have not been applied yet. -/
def State.dueItems (s : State) (e : Nat) : List Item :=
  (s.host.commits.filter (fun c => decide (c.b ≤ e) && !c.dropped && (s.stateBad c.items).isNone)).flatMap (·.items) ++
  (s.host.parts.filter (fun p => p.ready && p.commit && decide (s.xtOfFt p.ftC ≤ e) && (s.stateBad p.items).isNone)).flatMap (·.items)

/-- Hosted servo axes as their buffers frozen at E (R56). -/
def State.frozenAt (s : State) (e : Nat) : State := (List.range 32).foldl (fun s i => s.asRecorded i e) s

/-- EPOCH_BOUNDARY (R83, R512): FT is sampled and the snapshot of the boundary is frozen; the 16 most recent are kept (R514). -/
def execEpochBoundary (s : State) : Out :=
  .next (
    let e := s.lastBoundary
    let known := match s.host.snaps with
      | x :: _ => decide (e ≤ x.e)
      | [] => false
    if !s.supRuns || known then s
    else
      let s := s.sampleXt
      let t := (s.dueItems e).foldl State.putItem (s.frozenAt e)
      let x : Snapshot := { e := e, cfg := t.cfg, ctr := s.ctr, status := t.statusWords s.fresh }
      let s := s.took.modSched (fun c => { c with busy := [] })
      s.modHost (fun h => { h with snaps := (x :: h.snaps).take 16 }))

/-! ### SNAP_READ and SNAP_AT (R513 to R515, R549, R550) -/

/-- A read item the module fails (R550). -/
def readBad (i : ReadItem) : Option (BitVec 16) :=
  let ep := i.ep.toNat
  let code := i.code.toNat
  match codeInfo code with
  | none => some E.malformed
  | some (classes, members) =>
    let st := findStatus (code / 256)
    if 0x6000 ≤ code ∧ code < 0xA000 ∧ st.isNone then some E.malformed
    else
      let cl := match st with
        | some r => r.1
        | none => classes
      if !hasParam ep code cl || !indexOk ep code members i.index.toNat then some E.endpoint else none

/-- Bytes and value of a read item as a snapshot holds it (R549). -/
def State.readValue (s : State) (x : Snapshot) (i : ReadItem) : List Byte :=
  let ep := i.ep.toNat
  let code := i.code.toNat
  let idx := i.index.toNat
  let key := itemKey ep code idx
  match findStatus (code / 256) with
  | some r => leBytes r.2 (mget x.status key 0)
  | none =>
    if 0xA000 ≤ code then leBytes 4 (mget x.ctr key 0)
    else
      let v := State.par { s with cfg := x.cfg } ep code idx
      match findParam code with
      | some p => match p.kind with
        | .raw (_ :: _ :: _) => arrBytes v
        | k => leBytes k.width v
      | none => []

/-- Zeros up to a multiple of 8 bytes. -/
def pad8 (l : List Byte) : List Byte := l ++ List.replicate ((8 - l.length % 8) % 8) 0

/-- The response of SNAP_READ and SNAP_AT. -/
def State.snapBytes (s : State) (x : Snapshot) (items : List ReadItem) : List Byte :=
  leFt8 (ft8Of x.e) ++ leBytes 8 (x.e / 2 ^ 16) ++ items.flatMap (fun i =>
    let v := s.readValue x i
    leBytes 2 i.code.toNat ++ leBytes 2 i.index.toNat ++ leBytes 4 v.length ++ pad8 v)

/-- The clear flag on one item: a counter loses the value returned; an RC status word that has not changed since is cleared
(R21, R515). -/
def State.clearItem (s : State) (x : Snapshot) (i : ReadItem) : State :=
  let ep := i.ep.toNat
  let code := i.code.toNat
  let key := itemKey ep code i.index.toNat
  if 0xA000 ≤ code then { s with ctr := mset s.ctr key (mget s.ctr key 0 - mget x.ctr key 0) 0 }
  else
    let was := mget x.status key 0
    match code / 256 with
    | 0x6E => if stampWord (s.getCap (ep - 0x800)).missFt = was then s.modCap (ep - 0x800) (fun c => { c with missFt := none }) else s
    | 0x72 => if (s.getArb (arbOf ep)).overWord = was then s.modArb (arbOf ep) (fun a => { a with overhold := none }) else s
    | 0x73 => if (s.getArb (arbOf ep)).waitWord = was then s.modArb (arbOf ep) (fun a => { a with waitMax := (0, 0) }) else s
    | _ => s

/-- A snapshot is returned: the response, then the clear flag. -/
def State.answerSnap (s : State) (k : Nat) (x : Snapshot) (items : List ReadItem) (clear : Bool) : State :=
  let data := s.snapBytes x items
  let s := if clear then items.foldl (fun s i => s.clearItem x i) s else s
  s.ok k data

/-- The boundary that the supervisor freezes next. -/
def State.comingBoundary (s : State) : Nat :=
  let g := gridAtOrAfter (s.par epModule P.epochTicks) 0 s.xt16
  match s.host.snaps with
  | x :: _ => if x.e = g then gridAtOrAfter (s.par epModule P.epochTicks) 0 (s.xt16 + 1) else g
  | [] => g

/-- What a SNAP_AT finds for an instant: nothing yet, the snapshot, or no snapshot any more (R514). -/
inductive SnapLook where
  | wait | gone | found (x : Snapshot)

/-- The snapshot of the latest boundary at or before an instant (R514). -/
def State.lookSnap (s : State) (at_ : Nat) : SnapLook :=
  if s.comingBoundary ≤ at_ then .wait
  else match s.host.snaps.find? (fun x => decide (x.e ≤ at_)) with
    | some x => if x.complete then .found x else .wait
    | none => .gone

/-- A SNAP_READ (no instant) or SNAP_AT looks for its snapshot; it waits when there is none yet. -/
def State.trySnap (s : State) (k : Nat) (at_ : Option Ft) (items : List ReadItem) (clear : Bool) : State :=
  let wait : State := (s.run k).modHost (fun h =>
    { h with snapWaits := h.snapWaits ++ [(k, at_.getD 0, items, clear)] })
  match at_ with
  | none =>
    match s.host.snaps.find? (·.complete) with
    | some x => s.answerSnap k x items clear
    | none => wait
  | some ft =>
    match s.lookSnap (s.xtOfFt ft) with
    | .wait => wait
    | .gone => s.finish k E.tooLate
    | .found x => s.answerSnap k x items clear

/-- SNAP_READ (R513, R515). -/
def execSnapRead (ref : CmdRef) (clear : Bool) (items : List ReadItem) (s : State) : Out :=
  .next (s.execCmd ref 0x0110 (fun k s =>
    match items.findSome? readBad with
    | some e => s.finish k e
    | none =>
      if items.isEmpty || decide (512 < items.length) then s.finish k E.malformed else s.trySnap k none items clear))

/-- SNAP_AT (R514, R515). -/
def execSnapAt (ref : CmdRef) (clear : Bool) (ft : Ft) (items : List ReadItem) (s : State) : Out :=
  .next (s.execCmd ref 0x0111 (fun k s =>
    match items.findSome? readBad with
    | some e => s.finish k e
    | none =>
      if items.isEmpty || decide (512 < items.length) then s.finish k E.malformed
      else if 1000000000 < ftDiff ft s.ft then s.finish k E.range
      else s.trySnap k (some ft) items clear))

/-- SNAPSHOT_COMPLETE (R512): the oldest frozen snapshot is complete; commands that waited look again. -/
def execSnapshotComplete (s : State) : Out :=
  .next (match s.host.snaps.reverse.find? (fun x => !x.complete) with
    | none => s
    | some x =>
      let w := s.host.snapWaits
      let s := s.modHost (fun h => { h with
        snaps := h.snaps.map (fun y => if y.e = x.e then { y with complete := true } else y), snapWaits := [] })
      w.foldl (fun s a =>
        s.trySnap a.1 (if (s.cmd a.1).opcode = 0x0110 then none else some a.2.1) a.2.2.1 a.2.2.2) s)

end Sys2Proof.Machine
end

