-- ==== Sys2Proof/Machine/TimeCmds.lean ====
section
/-! DEFINITION. The time commands (R76, R77, R553): TIME_STATUS and TIME_STEP. -/

namespace Sys2Proof.Machine

/-- TIM_STATUS. -/
def State.timStatus (s : State) : Nat :=
  let t := s.time
  t.sourcePort.toNat * 2 ^ 24 + b2n t.diverged * 128 + b2n t.inTolerance * 64 + b2n t.leader * 32 + b2n t.rateSaturated * 16 +
    b2n t.stepped * 8 + t.state.code

/-- TIME_STATUS. -/
def execTimeStatus (ref : CmdRef) (s : State) : Out :=
  .next (s.execCmd ref 0x0200 (fun k s =>
    s.ok k (leBytes 8 s.time.ft16.toNat ++ le4 s.time.rateAdj ++ leBytes 4 s.timStatus ++ le4 s.time.offset ++ leBytes 4 0 ++
      leBytes 8 s.xt ++ leBytes 2 s.fabric.leaderDev ++ leBytes 6 0)))

/-- The time source has given a valid measurement within source_timeout (R76). -/
def State.measured (s : State) : Bool :=
  match s.time.lastValid with
  | some t => !s.expired t (msTicks (s.parF epModule P.sourceTimeout))
  | none => false

/-- Apply FT of a step that the leader announces now: at least 10 ms ahead; how much more is not stated (R77). -/
def State.stepApply (s : State) : Ft := s.ft + 10000000 + BitVec.ofNat 32 (s.fresh % 1000000)

/-- TIME_STEP (R76 to R78, R553). The last offset, from which the servo predicts and a second step of mode 0 would act, stays
as it was before the step (DESIGN CHOICE, log entry 86): mode 0 steps at once by the source's offset, mode 1 announces a step to the fabric. -/
def execTimeStep (ref : CmdRef) (mode : Byte) (ns : BitVec 64) (frac : BitVec 16) (s : State) : Out :=
  .next (s.execCmd ref 0x0201 (fun k s =>
    let d : Int := ns.toInt * 65536 + frac.toNat
    s.checked k [(decide (1 < mode.toNat), E.range), (mode == 1 && decide (d = 0), E.range),
        (s.time.state != .locked, E.state),
        (mode == 0 && !s.measured, E.state),
        (mode == 1 && !s.time.leader, E.state),
        (s.syncEnabled || (mode == 1 && !s.fabric.syncDevs.isEmpty), E.state)] (fun s =>
      if mode = 0 then
        let s := s.applyStep s.time.lastOffset16
        s.ok k (leFt8 s.ft8)
      else
        let a := s.stepApply
        let s := { s.took with time := { s.time with announced := some (a, d) } }
        s.ok k (leFt8 (BitVec.ofNat 40 (a.toNat * 256))))))

end Sys2Proof.Machine
end

