-- ==== Sys2Proof/Machine/Udp.lean ====
section
/-! DEFINITION. UDP sessions on plant Ethernet (R502 to R506): HELLO, half-open sessions, authenticated commands and their
retransmission. -/

namespace Sys2Proof.Machine

/-- A session datagram taken apart: header fields, body and authentication tag; none when the lengths disagree. -/
structure Datagram where
  magic : Nat
  version : Nat
  type : Nat
  sid : Nat
  seq : Nat
  signed : List Byte
  body : List Byte
  auth : List Byte
  deriving DecidableEq, Repr

/-- The parts of a datagram (table of R501's chapter). -/
def datagramOf (l : List Byte) : Option Datagram :=
  let n := leField l 6 2
  if l.length ≠ 40 + n then none
  else some {
    magic := leField l 0 4, version := leField l 4 1, type := leField l 5 1, sid := leField l 8 4, seq := leField l 12 8
    signed := l.take (24 + n), body := (l.drop 24).take n, auth := l.drop (24 + n) }

/-- Magic and version are right. -/
def Datagram.known (g : Datagram) : Bool := g.magic == 0x4C4D5344 && g.version == 1

/-- The tag is that of a key. -/
def Datagram.authentic (g : Datagram) (key : List Byte) : Bool := (hmac key g.signed).take 16 == g.auth

/-- A datagram leaves an Ethernet port. -/
def State.udpSend (s : State) (port : Fin 2) (addr : BitVec 48) (l : List Byte) : State :=
  s.modHost (fun h => { h with udpOut := (port, addr, l) :: h.udpOut })

/-- HELLOs accepted in the running second of a port: its start and count (R504). -/
def State.helloRate (s : State) (port : Fin 2) : Nat × Nat :=
  let r := mget s.host.hellos port.val (0, 0)
  if r.1 + 64000000 ≤ s.tick ∨ r.2 = 0 then (s.tick, 0) else r

/-- "LM6432 session" in ASCII. -/
def sessionLabel : List Byte :=
  [0x4C, 0x4D, 0x36, 0x34, 0x33, 0x32, 0x20, 0x73, 0x65, 0x73, 0x73, 0x69, 0x6F, 0x6E]

/-- The session key of R503. -/
def sessionKey (key cn mn : List Byte) (sid : Nat) : List Byte := hmac key (sessionLabel ++ cn ++ mn ++ leBytes 4 sid)

/-- A HELLO accepted within its rate: rejected for an unknown key_id, dropped beyond 8 half-open sessions, else answered with
a half-open session (R503 to R505). -/
def State.hello (s : State) (port : Fin 2) (src : BitVec 48) (g : Datagram) : State :=
  match (s.host.keys.find? (fun k => k.1 == leField g.body 0 1)) with
  | none => s.udpSend port src (datagram 5 0 1 (leBytes 2 E.auth.toNat ++ leBytes 2 0) none)
  | some (id, key) =>
    if 8 ≤ s.host.halfOpen.length then s.bump (epEth port) C.mbxUdpHelloDrop
    else
      let sid := s.newSession
      let s := s.took
      let nonce := leBytes 16 s.fresh
      let s := s.took
      let h : HalfOpen := {
        key := sessionKey key ((g.body.drop 16).take 16) nonce sid, keyId := id, port := port, addr := src, since := s.tick }
      (s.modHost (fun x => { x with halfOpen := mput x.halfOpen sid h })).udpSend port src (datagram 2 sid 1 nonce (some key))

/-- UDP_HELLO (R503, R504, R505). -/
def execUdpHello (port : Fin 2) (src : BitVec 48) (bytes : List Byte) (s : State) : Out :=
  .next (match datagramOf bytes with
    | some g =>
      if !g.known || g.type != 1 || g.body.length != 32 || g.auth.any (· != 0) then s.bump (epEth port) C.mbxUdpAuthFail
      else
        let r := s.helloRate port
        if 100 ≤ r.2 then s.bump (epEth port) C.mbxUdpHelloDrop
        else (s.modHost (fun h => { h with hellos := mput h.hellos port.val (r.1, r.2 + 1) })).hello port src g
    | none => s.bump (epEth port) C.mbxUdpAuthFail)

/-- The descriptor of a COMMAND datagram: its payload follows it; what must be 0, the address fields among it, is gathered (R493, table
of R501's chapter). -/
def commandOf (l : List Byte) : Descriptor :=
  let ind := bitOf (leField l 3 1) 0
  let n := leField l 8 4
  { opcode := BitVec.ofNat 16 (leField l 0 2), tag := Fin.ofNat 256 (leField l 2 1), flags := BitVec.ofNat 8 (leField l 3 1)
    device := BitVec.ofNat 16 (leField l 4 2)
    reserved := leField l 6 2 + leField l 16 8 + (if ind then leField l 24 40 else leField l (24 + n) (40 - n))
    payloadLen := BitVec.ofNat 32 n, rspLen := BitVec.ofNat 32 (leField l 12 4), rspAddr := BitVec.ofNat 64 (leField l 16 8)
    payloadAddr := 0, payload := if ind then l.drop 64 else (l.drop 24).take (min n 40) }

/-- A seq already seen, or more than 64 below the highest (R505). -/
def Session.replayed (x : Session) (seq : Nat) : Bool := x.rxSeen.contains seq || decide (seq + 64 < x.rxHigh)

/-- A seq noted. -/
def Session.note (x : Session) (seq tick : Nat) : Session :=
  let hi := max x.rxHigh seq
  { x with rxHigh := hi, rxSeen := (seq :: x.rxSeen).filter (fun q => decide (hi ≤ q + 64)), traffic := tick }

/-- The first COMMAND of a half-open session: SESSION_OPEN makes it a session (R499, R504). -/
def State.openUdp (s : State) (h : HalfOpen) (g : Datagram) (d : Descriptor) : State :=
  let answer (s : State) (st : BitVec 16) : State :=
    let r : RspEntry := { opcode := d.opcode, tag := d.tag.val, status := st, device := s.fabric.device, tDone := s.ft8 }
    s.udpSend h.port h.addr (datagram 4 g.sid 2 (rspBytes r) (some h.key))
  if d.opcode.toNat ≠ 0x0140 then s
  else if d.payload.length ≠ 8 then answer s E.length
  else
    match s.netMbx with
    | none => answer s E.queueFull
    | some m =>
      let (s', st, data) := s.openSession m g.sid (.udp h.port h.addr) h.key (leField d.payload 0 2)
      if st ≠ E.ok then answer s st
      else
        let k := m * 512 + d.tag.val
        let s := s'.modHost (fun x => { x with halfOpen := mdel x.halfOpen g.sid })
        let s := s.modSession m (fun x => x.map (fun x => { x.note g.seq s.tick with txSeq := 1 }))
        let s := s.setCmd k {
          opcode := d.opcode, state := .done, status := st, data := data, tDone := s.ft8, doneTick := s.tick, image := d
          order := s.host.nextOrder }
        s.deliverRsp m (rspOf s.fabric.device k (s.cmd k)) true

/-- A COMMAND of an open session: the response of the tag's latest command again, or the command is taken (R506). -/
def State.udpTake (s : State) (m : Nat) (d : Descriptor) : State :=
  let k := m * 512 + d.tag.val
  let c := s.cmd k
  if !bitOf d.flags.toNat 1 && c.state != .none_ && c.image == d then
    if c.inFlight then s else s.deliverRsp m (rspOf s.fabric.device k c) true
  else (s.modMbx m (fun b => { b with reserved := b.reserved + 1 })).takeDesc m d

/-- The open UDP session of an id. -/
def State.udpSession (s : State) (sid : Nat) : Option (Nat × Session) :=
  s.sessions.findSome? (fun x => match x.2 with
    | some y => match y.via with
      | .udp _ _ => if y.id.toNat = sid then some (x.1, y) else none
      | _ => none
    | none => none)

/-- UDP_COMMAND (R504 to R506): authenticated, not replayed, then executed or its response sent again. -/
def execUdpCommand (port : Fin 2) (src : BitVec 48) (bytes : List Byte) (s : State) : Out :=
  let bad := s.bump (epEth port) C.mbxUdpAuthFail
  .next (match datagramOf bytes with
    | some g =>
      let d := commandOf g.body
      if !g.known || g.type != 3 || g.body.length < 64 then bad
      else
        match s.udpSession g.sid with
        | some (m, x) =>
          if !g.authentic x.key then bad
          else if x.replayed g.seq then s.bump (epEth port) C.mbxUdpReplay
          else (s.setSession m (some (x.note g.seq s.tick))).udpTake m d
        | none =>
          match s.host.halfOpen.find? (fun h => h.1 == g.sid) with
          | some (_, h) => if h.addr == src && g.authentic h.key then s.openUdp h g d else bad
          | none => bad
    | none => bad)

/-- HALF_OPEN_TIMEOUT (R504): discarded after 1 s. -/
def execHalfOpenTimeout (sessionId : BitVec 32) (s : State) : Out :=
  .next (match s.host.halfOpen.find? (fun h => h.1 == sessionId.toNat) with
    | some (k, h) => if s.expired h.since 64000000 then s.modHost (fun x => { x with halfOpen := mdel x.halfOpen k }) else s
    | none => s)

end Sys2Proof.Machine
end

