-- ==== Sys2Proof/Machine/Dispatch.lean ====
section
/-! DEFINITION. The dispatch: one arm per command of `Instr`, each a direct call of its meaning. -/
namespace Sys2Proof.Machine
open Sys2Proof

def exec (i : Instr) (s : State) : Host.Outcome State Fault Refusal :=
  match i with
  | .updatePoint axis => Sys2Proof.Machine.execUpdatePoint axis s
  | .shuntSample axis => Sys2Proof.Machine.execShuntSample axis s
  | .shuntResult axis code => Sys2Proof.Machine.execShuntResult axis code s
  | .tdcStamp path cycles frac => Sys2Proof.Machine.execTdcStamp path cycles frac s
  | .tdcCalibration => Sys2Proof.Machine.execTdcCalibration s
  | .axisRelease axis hook => Sys2Proof.Machine.execAxisRelease axis hook s
  | .segmentStarvedStop axis => Sys2Proof.Machine.execSegmentStarvedStop axis s
  | .budgetOverrun axis => Sys2Proof.Machine.execBudgetOverrun axis s
  | .dutyCommit axis => Sys2Proof.Machine.execDutyCommit axis s
  | .stoLineAssert group => Sys2Proof.Machine.execStoLineAssert group s
  | .timeSourceTimeout => Sys2Proof.Machine.execTimeSourceTimeout s
  | .timeStepApply => Sys2Proof.Machine.execTimeStepApply s
  | .xtSample => Sys2Proof.Machine.execXtSample s
  | .quadEdge axis lines span => Sys2Proof.Machine.execQuadEdge axis lines span s
  | .indexPulse axis => Sys2Proof.Machine.execIndexPulse axis s
  | .serialReadStart axis lineHigh => Sys2Proof.Machine.execSerialReadStart axis lineHigh s
  | .serialWordDecoded axis word => Sys2Proof.Machine.execSerialWordDecoded axis word s
  | .lspWordTimeout axis => Sys2Proof.Machine.execLspWordTimeout axis s
  | .lspUnsolicitedChar axis => Sys2Proof.Machine.execLspUnsolicitedChar axis s
  | .hallEdge aux lines => Sys2Proof.Machine.execHallEdge aux lines s
  | .zeroSpeed axis => Sys2Proof.Machine.execZeroSpeed axis s
  | .freeze axis => Sys2Proof.Machine.execFreeze axis s
  | .mac le eob a m n => Sys2Proof.Machine.execMac le eob a m n s
  | .msu le eob a m n => Sys2Proof.Machine.execMsu le eob a m n s
  | .mul le eob a m n => Sys2Proof.Machine.execMul le eob a m n s
  | .mac2 le eob a m n b p q => Sys2Proof.Machine.execMac2 le eob a m n b p q s
  | .macus le eob a m n => Sys2Proof.Machine.execMacus le eob a m n s
  | .clr le eob a sh => Sys2Proof.Machine.execClr le eob a sh s
  | .ld le eob d b off => Sys2Proof.Machine.execLd le eob d b off s
  | .ldq le eob d b off => Sys2Proof.Machine.execLdq le eob d b off s
  | .st le eob src b imm => Sys2Proof.Machine.execSt le eob src b imm s
  | .stq le eob src b imm => Sys2Proof.Machine.execStq le eob src b imm s
  | .accld le eob a b off => Sys2Proof.Machine.execAccld le eob a b off s
  | .accst le eob a b imm => Sys2Proof.Machine.execAccst le eob a b imm s
  | .bld le eob l b n => Sys2Proof.Machine.execBld le eob l b n s
  | .bldDone le err => Sys2Proof.Machine.execBldDone le err s
  | .leAdd le eob d m n => Sys2Proof.Machine.execLeAdd le eob d m n s
  | .leSub le eob d m n => Sys2Proof.Machine.execLeSub le eob d m n s
  | .leAddi le eob d m imm => Sys2Proof.Machine.execLeAddi le eob d m imm s
  | .leAnd le eob d m n => Sys2Proof.Machine.execLeAnd le eob d m n s
  | .leOr le eob d m n => Sys2Proof.Machine.execLeOr le eob d m n s
  | .leXor le eob d m n => Sys2Proof.Machine.execLeXor le eob d m n s
  | .leShl le eob d m n => Sys2Proof.Machine.execLeShl le eob d m n s
  | .leShr le eob d m n => Sys2Proof.Machine.execLeShr le eob d m n s
  | .leSra le eob d m n => Sys2Proof.Machine.execLeSra le eob d m n s
  | .leLi le eob d imm => Sys2Proof.Machine.execLeLi le eob d imm s
  | .leLui le eob d imm => Sys2Proof.Machine.execLeLui le eob d imm s
  | .leCmp le eob d m n => Sys2Proof.Machine.execLeCmp le eob d m n s
  | .satw le eob d m width => Sys2Proof.Machine.execSatw le eob d m width s
  | .ext le eob d a sh => Sys2Proof.Machine.execExt le eob d a sh s
  | .maxi le eob d src => Sys2Proof.Machine.execMaxi le eob d src s
  | .mini le eob d src => Sys2Proof.Machine.execMini le eob d src s
  | .rcp le eob d src => Sys2Proof.Machine.execRcp le eob d src s
  | .rsq le eob d src => Sys2Proof.Machine.execRsq le eob d src s
  | .leLoop le eob level count endOff => Sys2Proof.Machine.execLeLoop le eob level count endOff s
  | .br le eob off => Sys2Proof.Machine.execBr le eob off s
  | .bz le eob src off => Sys2Proof.Machine.execBz le eob src off s
  | .bnz le eob src off => Sys2Proof.Machine.execBnz le eob src off s
  | .blt le eob src t off => Sys2Proof.Machine.execBlt le eob src t off s
  | .ret le eob => Sys2Proof.Machine.execRet le eob s
  | .reti le eob => Sys2Proof.Machine.execReti le eob s
  | .waitb le eob => Sys2Proof.Machine.execWaitb le eob s
  | .mfc le eob d reg => Sys2Proof.Machine.execMfc le eob d reg s
  | .mtc le eob reg src => Sys2Proof.Machine.execMtc le eob reg src s
  | .clrf le eob mask => Sys2Proof.Machine.execClrf le eob mask s
  | .nop le eob => Sys2Proof.Machine.execNop le eob s
  | .svcRequest le => Sys2Proof.Machine.execSvcRequest le s
  | .interruptEntry le => Sys2Proof.Machine.execInterruptEntry le s
  | .eccScrub le find => Sys2Proof.Machine.execEccScrub le find s
  | .gateFaultInput ax active => Sys2Proof.Machine.execGateFaultInput ax active s
  | .prechargeDone axis => Sys2Proof.Machine.execPrechargeDone axis s
  | .offsetCalibrationDone ax codes => Sys2Proof.Machine.execOffsetCalibrationDone ax codes s
  | .enableTimeout axis => Sys2Proof.Machine.execEnableTimeout axis s
  | .standstill axis => Sys2Proof.Machine.execStandstill axis s
  | .stopTimeout axis => Sys2Proof.Machine.execStopTimeout axis s
  | .dcLinkConversion input code => Sys2Proof.Machine.execDcLinkConversion input code s
  | .observerHoldTimeout ax => Sys2Proof.Machine.execObserverHoldTimeout ax s
  | .listenEnd ax => Sys2Proof.Machine.execListenEnd ax s
  | .polarityTest axis posPeak negPeak => Sys2Proof.Machine.execPolarityTest axis posPeak negPeak s
  | .auxCurrentSample aux code1 code2 => Sys2Proof.Machine.execAuxCurrentSample aux code1 code2 s
  | .auxAlignDone aux => Sys2Proof.Machine.execAuxAlignDone aux s
  | .auxStartTimeout aux => Sys2Proof.Machine.execAuxStartTimeout aux s
  | .auxRetryDelay aux => Sys2Proof.Machine.execAuxRetryDelay aux s
  | .auxRetryReset aux => Sys2Proof.Machine.execAuxRetryReset aux s
  | .trailPlanned ep => Sys2Proof.Machine.execTrailPlanned ep s
  | .trailChangeInstant ep => Sys2Proof.Machine.execTrailChangeInstant ep s
  | .plannerSegmentWrite ep segs => Sys2Proof.Machine.execPlannerSegmentWrite ep segs s
  | .waymarkPassed ep => Sys2Proof.Machine.execWaymarkPassed ep s
  | .groupSegmentSend group member segs => Sys2Proof.Machine.execGroupSegmentSend group member segs s
  | .convoyPublish cp => Sys2Proof.Machine.execConvoyPublish cp s
  | .convoyBoundaryPublish cp tRef => Sys2Proof.Machine.execConvoyBoundaryPublish cp tRef s
  | .convoySupersede cp tRef => Sys2Proof.Machine.execConvoySupersede cp tRef s
  | .convoyFrameRx f pub => Sys2Proof.Machine.execConvoyFrameRx f pub s
  | .convoyLocalDelivery f pub => Sys2Proof.Machine.execConvoyLocalDelivery f pub s
  | .convoyRepublish cp pub => Sys2Proof.Machine.execConvoyRepublish cp pub s
  | .masterStale f => Sys2Proof.Machine.execMasterStale f s
  | .convoyJoinInstant f => Sys2Proof.Machine.execConvoyJoinInstant f s
  | .convoyRegisterTimeout cp => Sys2Proof.Machine.execConvoyRegisterTimeout cp s
  | .regMark f stamp => Sys2Proof.Machine.execRegMark f stamp s
  | .remoteSetpointSend na => Sys2Proof.Machine.execRemoteSetpointSend na s
  | .remoteFeedbackRx na fb => Sys2Proof.Machine.execRemoteFeedbackRx na fb s
  | .remoteTimeout na => Sys2Proof.Machine.execRemoteTimeout na s
  | .remoteEnableTimeout na => Sys2Proof.Machine.execRemoteEnableTimeout na s
  | .stepperRelease ch => Sys2Proof.Machine.execStepperRelease ch s
  | .microstep ch => Sys2Proof.Machine.execMicrostep ch s
  | .chopperTrip ch coilB => Sys2Proof.Machine.execChopperTrip ch coilB s
  | .chopperToffMax ch coilB => Sys2Proof.Machine.execChopperToffMax ch coilB s
  | .stepperCurrentConversion ch coilB code => Sys2Proof.Machine.execStepperCurrentConversion ch coilB code s
  | .stepperPwmPeriod ch coilB => Sys2Proof.Machine.execStepperPwmPeriod ch coilB s
  | .stepperIdleTimeout ch => Sys2Proof.Machine.execStepperIdleTimeout ch s
  | .stepperEnableRampDone ch => Sys2Proof.Machine.execStepperEnableRampDone ch s
  | .captureFiring cc cond stamp => Sys2Proof.Machine.execCaptureFiring cc cond stamp s
  | .captureTimeCondition cc cond => Sys2Proof.Machine.execCaptureTimeCondition cc cond s
  | .captureTrigger cc => Sys2Proof.Machine.execCaptureTrigger cc s
  | .captureSample cc at_ rawCode => Sys2Proof.Machine.execCaptureSample cc at_ rawCode s
  | .captureRearm cc => Sys2Proof.Machine.execCaptureRearm cc s
  | .latchRecord cc => Sys2Proof.Machine.execLatchRecord cc s
  | .basketSpill => Sys2Proof.Machine.execBasketSpill s
  | .mbxDoorbell m tail => Sys2Proof.Machine.execMbxDoorbell m tail s
  | .mbxRspHeadWrite m head => Sys2Proof.Machine.execMbxRspHeadWrite m head s
  | .mbxEnableSet m ctrl => Sys2Proof.Machine.execMbxEnableSet m ctrl s
  | .mbxEnableClear m ctrl => Sys2Proof.Machine.execMbxEnableClear m ctrl s
  | .mbxEvtHeadWrite head => Sys2Proof.Machine.execMbxEvtHeadWrite head s
  | .mbxEvtEnable ctrl => Sys2Proof.Machine.execMbxEvtEnable ctrl s
  | .supFtSnapLoRead => Sys2Proof.Machine.execSupFtSnapLoRead s
  | .supFaultWrite mask => Sys2Proof.Machine.execSupFaultWrite mask s
  | .mbxBadAccess => Sys2Proof.Machine.execMbxBadAccess s
  | .registerWrite reg v => Sys2Proof.Machine.execRegisterWrite reg v s
  | .descriptorFetch m d => Sys2Proof.Machine.execDescriptorFetch m d s
  | .responseWrite m => Sys2Proof.Machine.execResponseWrite m s
  | .ringDmaFail m => Sys2Proof.Machine.execRingDmaFail m s
  | .msixModerationEnd source => Sys2Proof.Machine.execMsixModerationEnd source s
  | .udpHello port src bytes => Sys2Proof.Machine.execUdpHello port src bytes s
  | .udpCommand port src bytes => Sys2Proof.Machine.execUdpCommand port src bytes s
  | .halfOpenTimeout sessionId => Sys2Proof.Machine.execHalfOpenTimeout sessionId s
  | .sessionIdleTimeout m => Sys2Proof.Machine.execSessionIdleTimeout m s
  | .forwardedCommandRx src sess d => Sys2Proof.Machine.execForwardedCommandRx src sess d s
  | .forwardedResponseRx m tag status data tDone => Sys2Proof.Machine.execForwardedResponseRx m tag status data tDone s
  | .forwardTimeout m tag => Sys2Proof.Machine.execForwardTimeout m tag s
  | .pcieLinkDown => Sys2Proof.Machine.execPcieLinkDown s
  | .epochBoundary => Sys2Proof.Machine.execEpochBoundary s
  | .commitApply => Sys2Proof.Machine.execCommitApply s
  | .commitItemsMsg p sess ftC items => Sys2Proof.Machine.execCommitItemsMsg p sess ftC items s
  | .commitReadyMsg num part status index => Sys2Proof.Machine.execCommitReadyMsg num part status index s
  | .commitDecisionMsg p => Sys2Proof.Machine.execCommitDecisionMsg p s
  | .commitAbortMsg p => Sys2Proof.Machine.execCommitAbortMsg p s
  | .commitAckMsg num part => Sys2Proof.Machine.execCommitAckMsg num part s
  | .commitAppliedMsg num part => Sys2Proof.Machine.execCommitAppliedMsg num part s
  | .prepareReadyDeadline num => Sys2Proof.Machine.execPrepareReadyDeadline num s
  | .prepareAckDeadline num => Sys2Proof.Machine.execPrepareAckDeadline num s
  | .prepareApply p => Sys2Proof.Machine.execPrepareApply p s
  | .prepareDiscardTimeout p => Sys2Proof.Machine.execPrepareDiscardTimeout p s
  | .lockRequestMsg sess eps wait => Sys2Proof.Machine.execLockRequestMsg sess eps wait s
  | .lockGrantMsg m => Sys2Proof.Machine.execLockGrantMsg m s
  | .lockRefusalMsg m circle => Sys2Proof.Machine.execLockRefusalMsg m circle s
  | .lockReleaseMsg sess eps => Sys2Proof.Machine.execLockReleaseMsg sess eps s
  | .lockGraphQuery req on owner => Sys2Proof.Machine.execLockGraphQuery req on owner s
  | .lockGraphAnswer sess circle => Sys2Proof.Machine.execLockGraphAnswer sess circle s
  | .lockWaitTimeout m => Sys2Proof.Machine.execLockWaitTimeout m s
  | .cmdRecordExpiry ref => Sys2Proof.Machine.execCmdRecordExpiry ref s
  | .sysIdentify ref => Sys2Proof.Machine.execSysIdentify ref s
  | .sysStatus ref => Sys2Proof.Machine.execSysStatus ref s
  | .cmdStatus ref dev tag => Sys2Proof.Machine.execCmdStatus ref dev tag s
  | .cmdAbort ref dev tag => Sys2Proof.Machine.execCmdAbort ref dev tag s
  | .interruptedList ref => Sys2Proof.Machine.execInterruptedList ref s
  | .snapRead ref clear items => Sys2Proof.Machine.execSnapRead ref clear items s
  | .snapAt ref clear ft items => Sys2Proof.Machine.execSnapAt ref clear ft items s
  | .stageWrite ref items => Sys2Proof.Machine.execStageWrite ref items s
  | .commit ref => Sys2Proof.Machine.execCommit ref s
  | .commitAt ref ft => Sys2Proof.Machine.execCommitAt ref ft s
  | .discard ref => Sys2Proof.Machine.execDiscard ref s
  | .prepare ref ftC => Sys2Proof.Machine.execPrepare ref ftC s
  | .paramImport job offset items => Sys2Proof.Machine.execParamImport job offset items s
  | .lock ref wait eps => Sys2Proof.Machine.execLock ref wait eps s
  | .unlock ref eps => Sys2Proof.Machine.execUnlock ref eps s
  | .sessionOpen ref tags => Sys2Proof.Machine.execSessionOpen ref tags s
  | .sessionClose ref => Sys2Proof.Machine.execSessionClose ref s
  | .keySet ref keyId key => Sys2Proof.Machine.execKeySet ref keyId key s
  | .timeStatus ref => Sys2Proof.Machine.execTimeStatus ref s
  | .timeStep ref mode ns frac => Sys2Proof.Machine.execTimeStep ref mode ns frac s
  | .axisEnable ref ep => Sys2Proof.Machine.execAxisEnable ref ep s
  | .axisDisable ref ep cat => Sys2Proof.Machine.execAxisDisable ref ep cat s
  | .axisMigrate ref ep engine ft => Sys2Proof.Machine.execAxisMigrate ref ep engine ft s
  | .kernelLoad ref image => Sys2Proof.Machine.execKernelLoad ref image s
  | .kernelUnload ref handle => Sys2Proof.Machine.execKernelUnload ref handle s
  | .trailAppend ref ep moves => Sys2Proof.Machine.execTrailAppend ref ep moves s
  | .trailCancel ref ep mode => Sys2Proof.Machine.execTrailCancel ref ep mode s
  | .trailLimits ref ep scope mask aMax dMax jerk meets => Sys2Proof.Machine.execTrailLimits ref ep scope mask aMax dMax jerk meets s
  | .stop ref ep cat => Sys2Proof.Machine.execStop ref ep cat s
  | .home ref ep => Sys2Proof.Machine.execHome ref ep s
  | .posSet ref ep pos => Sys2Proof.Machine.execPosSet ref ep pos s
  | .camLoad job ep interp first total pts => Sys2Proof.Machine.execCamLoad job ep interp first total pts s
  | .convoyJoin ref ep j => Sys2Proof.Machine.execConvoyJoin ref ep j s
  | .convoyLeave ref ep mode => Sys2Proof.Machine.execConvoyLeave ref ep mode s
  | .phaseMove ref ep dist v a j => Sys2Proof.Machine.execPhaseMove ref ep dist v a j s
  | .basketArm ref ep count => Sys2Proof.Machine.execBasketArm ref ep count s
  | .basketList ref ep => Sys2Proof.Machine.execBasketList ref ep s
  | .basketRead job id offset len => Sys2Proof.Machine.execBasketRead job id offset len s
  | .basketRelease ref id => Sys2Proof.Machine.execBasketRelease ref id s
  | .latchRead ref ep max => Sys2Proof.Machine.execLatchRead ref ep max s
  | .capTrigger ref ep => Sys2Proof.Machine.execCapTrigger ref ep s
  | .basketDisarm ref ep => Sys2Proof.Machine.execBasketDisarm ref ep s
  | .fioOutSet ref mask values => Sys2Proof.Machine.execFioOutSet ref mask values s
  | .fioOutAt ref mask values ft => Sys2Proof.Machine.execFioOutAt ref mask values ft s
  | .fabPrefer ref dev => Sys2Proof.Machine.execFabPrefer ref dev s
  | .fabPort ref port action => Sys2Proof.Machine.execFabPort ref port action s
  | .fabTopology ref => Sys2Proof.Machine.execFabTopology ref s
  | .canSend ref ep buf fr at_ => Sys2Proof.Machine.execCanSend ref ep buf fr at_ s
  | .canCancel ref ep buf => Sys2Proof.Machine.execCanCancel ref ep buf s
  | .canRead ref ep max => Sys2Proof.Machine.execCanRead ref ep max s
  | .safConfigLoad ref image => Sys2Proof.Machine.execSafConfigLoad ref image s
  | .safConfigRead ref => Sys2Proof.Machine.execSafConfigRead ref s
  | .safCommission ref value => Sys2Proof.Machine.execSafCommission ref value s
  | .safAck ref mask => Sys2Proof.Machine.execSafAck ref mask s
  | .pwrEnter ref state => Sys2Proof.Machine.execPwrEnter ref state s
  | .pwrDomain ref domain on => Sys2Proof.Machine.execPwrDomain ref domain on s
  | .engineRestart ref engine => Sys2Proof.Machine.execEngineRestart ref engine s
  | .fwWrite job bank offset total data => Sys2Proof.Machine.execFwWrite job bank offset total data s
  | .fwActivate ref bank ft => Sys2Proof.Machine.execFwActivate ref bank ft s
  | .cfgSave ref flashFault => Sys2Proof.Machine.execCfgSave ref flashFault s
  | .threadLoad ref image => Sys2Proof.Machine.execThreadLoad ref image s
  | .threadStart ref handle prio ceiling ageing => Sys2Proof.Machine.execThreadStart ref handle prio ceiling ageing s
  | .threadCancel ref id => Sys2Proof.Machine.execThreadCancel ref id s
  | .threadPrio ref id prio ceiling => Sys2Proof.Machine.execThreadPrio ref id prio ceiling s
  | .logRead job first max => Sys2Proof.Machine.execLogRead job first max s
  | .logMark ref data => Sys2Proof.Machine.execLogMark ref data s
  | .threadDispatch => Sys2Proof.Machine.execThreadDispatch s
  | .ageingRaise id => Sys2Proof.Machine.execAgeingRaise id s
  | .schedulerTick => Sys2Proof.Machine.execSchedulerTick s
  | .threadTrap core mcause mtval => Sys2Proof.Machine.execThreadTrap core mcause mtval s
  | .schYield core => Sys2Proof.Machine.execSchYield core s
  | .schSleep core ns => Sys2Proof.Machine.execSchSleep core ns s
  | .schSleepUntil core wake => Sys2Proof.Machine.execSchSleepUntil core wake s
  | .schWait core event timeout => Sys2Proof.Machine.execSchWait core event timeout s
  | .schSignal core event count => Sys2Proof.Machine.execSchSignal core event count s
  | .schNow core => Sys2Proof.Machine.execSchNow core s
  | .schExit core => Sys2Proof.Machine.execSchExit core s
  | .schCallInvalid core a7 => Sys2Proof.Machine.execSchCallInvalid core a7 s
  | .arbitrationGrant arb raised => Sys2Proof.Machine.execArbitrationGrant arb raised s
  | .grantCutoff arb => Sys2Proof.Machine.execGrantCutoff arb s
  | .waitGraphRebuild edges => Sys2Proof.Machine.execWaitGraphRebuild edges s
  | .portTrainingStart port => Sys2Proof.Machine.execPortTrainingStart port s
  | .portCalDone port txLat rxLat => Sys2Proof.Machine.execPortCalDone port txLat rxLat s
  | .blockLock port => Sys2Proof.Machine.execBlockLock port s
  | .trainBlockRx port seen half sender uid b6 => Sys2Proof.Machine.execTrainBlockRx port seen half sender uid b6 s
  | .trainTimeout port => Sys2Proof.Machine.execTrainTimeout port s
  | .portRetry port => Sys2Proof.Machine.execPortRetry port s
  | .delayReqSend port tx => Sys2Proof.Machine.execDelayReqSend port tx s
  | .delayReqRx port n rx cyc tx => Sys2Proof.Machine.execDelayReqRx port n rx cyc tx s
  | .delayRespRx port n t2 t3 rx => Sys2Proof.Machine.execDelayRespRx port n t2 t3 rx s
  | .linkSignalLost port => Sys2Proof.Machine.execLinkSignalLost port s
  | .blockLockLost port => Sys2Proof.Machine.execBlockLockLost port s
  | .invalidSyncHeader port => Sys2Proof.Machine.execInvalidSyncHeader port s
  | .controlBlockTimeout port => Sys2Proof.Machine.execControlBlockTimeout port s
  | .delayExchangeFail port => Sys2Proof.Machine.execDelayExchangeFail port s
  | .idleBlockRx port pair freedA freedB => Sys2Proof.Machine.execIdleBlockRx port pair freedA freedB s
  | .fragBlockRx port frag => Sys2Proof.Machine.execFragBlockRx port frag s
  | .abortBlockRx port vc stream => Sys2Proof.Machine.execAbortBlockRx port vc stream s
  | .resyncBlockRx port => Sys2Proof.Machine.execResyncBlockRx port s
  | .rmarkBlockRx port pair sentA sentB => Sys2Proof.Machine.execRmarkBlockRx port pair sentA sentB s
  | .controlBlockCrcError port => Sys2Proof.Machine.execControlBlockCrcError port s
  | .benchEnd port => Sys2Proof.Machine.execBenchEnd port s
  | .timeFrameSend port cyc tx => Sys2Proof.Machine.execTimeFrameSend port cyc tx s
  | .timeFrameRx port m rx => Sys2Proof.Machine.execTimeFrameRx port m rx s
  | .linkDownFrameRx port uid lostPort cause gen => Sys2Proof.Machine.execLinkDownFrameRx port uid lostPort cause gen s
  | .repairApply lostUid lostPort => Sys2Proof.Machine.execRepairApply lostUid lostPort s
  | .generationRecompute topo => Sys2Proof.Machine.execGenerationRecompute topo s
  | .discoverSend port => Sys2Proof.Machine.execDiscoverSend port s
  | .discoverRx port d => Sys2Proof.Machine.execDiscoverRx port d s
  | .discoverExpiry port => Sys2Proof.Machine.execDiscoverExpiry port s
  | .reportSend => Sys2Proof.Machine.execReportSend s
  | .reportRx port piece => Sys2Proof.Machine.execReportRx port piece s
  | .assignRx port l => Sys2Proof.Machine.execAssignRx port l s
  | .tableRx port gen d => Sys2Proof.Machine.execTableRx port gen d s
  | .tableApply => Sys2Proof.Machine.execTableApply s
  | .registerRx src op convoy fa => Sys2Proof.Machine.execRegisterRx src op convoy fa s
  | .soloTimeout => Sys2Proof.Machine.execSoloTimeout s
  | .bulkRx src ident offset data => Sys2Proof.Machine.execBulkRx src ident offset data s
  | .bulkTimeout src ident => Sys2Proof.Machine.execBulkTimeout src ident s
  | .relayRx src ethPort returned addr udp data => Sys2Proof.Machine.execRelayRx src ethPort returned addr udp data s
  | .relayExpiry addr udp => Sys2Proof.Machine.execRelayExpiry addr udp s
  | .ethFrameInvalid port bad => Sys2Proof.Machine.execEthFrameInvalid port bad s
  | .pauseFrameRx port => Sys2Proof.Machine.execPauseFrameRx port s
  | .arpRequestRx port target sender mac => Sys2Proof.Machine.execArpRequestRx port target sender mac s
  | .arpReplyRx port sender mac => Sys2Proof.Machine.execArpReplyRx port sender mac s
  | .icmpEchoRx port sender data => Sys2Proof.Machine.execIcmpEchoRx port sender data s
  | .arpEntryExpiry port addr => Sys2Proof.Machine.execArpEntryExpiry port addr s
  | .arpResolveTimeout port addr => Sys2Proof.Machine.execArpResolveTimeout port addr s
  | .fragReassemblyTimeout port buf => Sys2Proof.Machine.execFragReassemblyTimeout port buf s
  | .ptpSyncRx port h twoStep origin corr rx => Sys2Proof.Machine.execPtpSyncRx port h twoStep origin corr rx s
  | .ptpFollowUpRx port h origin corr => Sys2Proof.Machine.execPtpFollowUpRx port h origin corr s
  | .ptpPdelayReqRx port h rx cyc tx => Sys2Proof.Machine.execPtpPdelayReqRx port h rx cyc tx s
  | .ptpPdelayRespRx port h twoStep t2 corr rx => Sys2Proof.Machine.execPtpPdelayRespRx port h twoStep t2 corr rx s
  | .ptpPdelayRespFollowUpRx port h t3 corr => Sys2Proof.Machine.execPtpPdelayRespFollowUpRx port h t3 corr s
  | .ptpDelayRespRx port h rxTime corr => Sys2Proof.Machine.execPtpDelayRespRx port h rxTime corr s
  | .ptpAnnounceRx port h a => Sys2Proof.Machine.execPtpAnnounceRx port h a s
  | .ptpIgnoredRx port bad => Sys2Proof.Machine.execPtpIgnoredRx port bad s
  | .ptpAnnounceTimeout port => Sys2Proof.Machine.execPtpAnnounceTimeout port s
  | .ptpDelayReqSend port cyc tx => Sys2Proof.Machine.execPtpDelayReqSend port cyc tx s
  | .ethLinkChange port up => Sys2Proof.Machine.execEthLinkChange port up s
  | .ethFrameTx port => Sys2Proof.Machine.execEthFrameTx port s
  | .ethScheduledEnqueue port na => Sys2Proof.Machine.execEthScheduledEnqueue port na s
  | .ethTxLate port queue => Sys2Proof.Machine.execEthTxLate port queue s
  | .qbvGateChange port => Sys2Proof.Machine.execQbvGateChange port s
  | .qbvConfigChange port => Sys2Proof.Machine.execQbvConfigChange port s
  | .safeFrameHandover port bytes rx => Sys2Proof.Machine.execSafeFrameHandover port bytes rx s
  | .safeFrameTx conn bytes => Sys2Proof.Machine.execSafeFrameTx conn bytes s
  | .canArbitration ch => Sys2Proof.Machine.execCanArbitration ch s
  | .canTxDone ch sof => Sys2Proof.Machine.execCanTxDone ch sof s
  | .canArbLost ch => Sys2Proof.Machine.execCanArbLost ch s
  | .canError ch err site => Sys2Proof.Machine.execCanError ch err site s
  | .canBusOffRecovery ch => Sys2Proof.Machine.execCanBusOffRecovery ch s
  | .canFrameRx ch fr remote esi sof => Sys2Proof.Machine.execCanFrameRx ch fr remote esi sof s
  | .fieldInputDebounced input level count => Sys2Proof.Machine.execFieldInputDebounced input level count s
  | .fastLatchEdge input level cycles frac => Sys2Proof.Machine.execFastLatchEdge input level cycles frac s
  | .fastLatchDebounced input level stamp => Sys2Proof.Machine.execFastLatchDebounced input level stamp s
  | .fioFrameRx die crcOk => Sys2Proof.Machine.execFioFrameRx die crcOk s
  | .fioReportRx die r => Sys2Proof.Machine.execFioReportRx die r s
  | .fioStaleTimeout die => Sys2Proof.Machine.execFioStaleTimeout die s
  | .fioHeartbeatTimeout die => Sys2Proof.Machine.execFioHeartbeatTimeout die s
  | .wireBreakSet input => Sys2Proof.Machine.execWireBreakSet input s
  | .wireBreakClear input => Sys2Proof.Machine.execWireBreakClear input s
  | .outputCurrentLimit out => Sys2Proof.Machine.execOutputCurrentLimit out s
  | .outputLimitEnd out => Sys2Proof.Machine.execOutputLimitEnd out s
  | .outputOvertemp out => Sys2Proof.Machine.execOutputOvertemp out s
  | .groupOvertemp group => Sys2Proof.Machine.execGroupOvertemp group s
  | .outputCooled out => Sys2Proof.Machine.execOutputCooled out s
  | .outputRetryReset out => Sys2Proof.Machine.execOutputRetryReset out s
  | .fioOutAtApply die => Sys2Proof.Machine.execFioOutAtApply die s
  | .supplyMeasurement group mv => Sys2Proof.Machine.execSupplyMeasurement group mv s
  | .supplyLevelFall group => Sys2Proof.Machine.execSupplyLevelFall group s
  | .supplyLevelRise group => Sys2Proof.Machine.execSupplyLevelRise group s
  | .safetyFioFrameRx die valid => Sys2Proof.Machine.execSafetyFioFrameRx die valid s
  | .safetyFioLinkTimeout die => Sys2Proof.Machine.execSafetyFioLinkTimeout die s
  | .safeCycle readback => Sys2Proof.Machine.execSafeCycle readback s
  | .releaseTest group r => Sys2Proof.Machine.execReleaseTest group r s
  | .darkPulseTest group opened closed brakeCurrents => Sys2Proof.Machine.execDarkPulseTest group opened closed brakeCurrents s
  | .darkPulseLowSide group opened closed => Sys2Proof.Machine.execDarkPulseLowSide group opened closed s
  | .safeInputChange input level => Sys2Proof.Machine.execSafeInputChange input level s
  | .safeInputTest input readsZero => Sys2Proof.Machine.execSafeInputTest input readsZero s
  | .safetyTapEdge axis lines sample => Sys2Proof.Machine.execSafetyTapEdge axis lines sample s
  | .safetyTapWord axis w => Sys2Proof.Machine.execSafetyTapWord axis w s
  | .safeFrameRx bytes => Sys2Proof.Machine.execSafeFrameRx bytes s
  | .safeWindowExpiry conn => Sys2Proof.Machine.execSafeWindowExpiry conn s
  | .safeWatchdogExpiry conn => Sys2Proof.Machine.execSafeWatchdogExpiry conn s
  | .safePairSend conn => Sys2Proof.Machine.execSafePairSend conn s
  | .coreReportRx speeds brakes => Sys2Proof.Machine.execCoreReportRx speeds brakes s
  | .coreReportTimeout => Sys2Proof.Machine.execCoreReportTimeout s
  | .safetyReportRx group report => Sys2Proof.Machine.execSafetyReportRx group report s
  | .brakeCurrentFault channel => Sys2Proof.Machine.execBrakeCurrentFault channel s
  | .safetySelftestDone => Sys2Proof.Machine.execSafetySelftestDone s
  | .safetyConfigDelivery => Sys2Proof.Machine.execSafetyConfigDelivery s
  | .safetyInternalFault f => Sys2Proof.Machine.execSafetyInternalFault f s
  | .safetyPeriodicSelftest passed => Sys2Proof.Machine.execSafetyPeriodicSelftest passed s
  | .safetyOscCheck within => Sys2Proof.Machine.execSafetyOscCheck within s
  | .pwrWake => Sys2Proof.Machine.execPwrWake s
  | .powerEntryComplete => Sys2Proof.Machine.execPowerEntryComplete s
  | .powerExitComplete => Sys2Proof.Machine.execPowerExitComplete s
  | .vin12Brownout => Sys2Proof.Machine.execVin12Brownout s
  | .vin12Return => Sys2Proof.Machine.execVin12Return s
  | .vstbyLoss => Sys2Proof.Machine.execVstbyLoss s
  | .suppliesGood => Sys2Proof.Machine.execSuppliesGood s
  | .extReset => Sys2Proof.Machine.execExtReset s
  | .thermalTrip => Sys2Proof.Machine.execThermalTrip s
  | .caseTempReading tenths => Sys2Proof.Machine.execCaseTempReading tenths s
  | .bootStage => Sys2Proof.Machine.execBootStage s
  | .supWatchdogExpiry => Sys2Proof.Machine.execSupWatchdogExpiry s
  | .supEccError => Sys2Proof.Machine.execSupEccError s
  | .supervisorRestartDone => Sys2Proof.Machine.execSupervisorRestartDone s
  | .fwSwitchRestart => Sys2Proof.Machine.execFwSwitchRestart s
  | .migrationHandover axis => Sys2Proof.Machine.execMigrationHandover axis s
  | .engineRescue le => Sys2Proof.Machine.execEngineRescue le s
  | .engineGroupReady groupB => Sys2Proof.Machine.execEngineGroupReady groupB s
  | .timeTick => Sys2Proof.Machine.execTimeTick s
  | .arbitrationIdleCycle arb => Sys2Proof.Machine.execArbitrationIdleCycle arb s
  | .snapshotComplete => Sys2Proof.Machine.execSnapshotComplete s
  | .virtualAxisSample va => Sys2Proof.Machine.execVirtualAxisSample va s
  | .relayDatagramRx port addr udp data => Sys2Proof.Machine.execRelayDatagramRx port addr udp data s
  | .registerAnswerRx cp status => Sys2Proof.Machine.execRegisterAnswerRx cp status s
  | .groupSegmentRx ep segs => Sys2Proof.Machine.execGroupSegmentRx ep segs s
  | .safetySupplyGood => Sys2Proof.Machine.execSafetySupplyGood s
  | .extResetRelease => Sys2Proof.Machine.execExtResetRelease s
  | .thermalTripRelease => Sys2Proof.Machine.execThermalTripRelease s
  | .mbxEvtLostRead => Sys2Proof.Machine.execMbxEvtLostRead s
  | .lspClearErr axis => Sys2Proof.Machine.execLspClearErr axis s

end Sys2Proof.Machine
end

