-- ==== Sys2Proof/Safety.lean ====
section
/-! DEFINITION. What counts as a sound state of the block: what every step keeps (R21, R192, R600). -/

namespace Sys2Proof.Machine

/-- A byte memory is in canonical form: addresses strictly rising, no byte listed that is 0. -/
def Memory.wf (m : List Host.Cell) : Bool := mwf 0 m

/-- Every counter is in canonical form and holds a 32-bit saturating value (R82, R166, R213, R252, R313, R370, R415, R442, R483, R536, R594, R620, R670). -/
def State.countersOk (s : State) : Bool := mwf 0 s.ctr && s.ctr.all (fun x => decide (x.2 ≤ 4294967295))

/-- The local memory, the general registers and the accumulators of an engine are in canonical form. -/
def Engine.wf (e : Engine) : Bool := Memory.wf e.mem && mwf 0 e.x && mwf {} e.acc

/-- The coefficient bank and the memory and registers of every engine are in canonical form. -/
def State.memoryOk (s : State) : Bool := Memory.wf s.bank && s.engines.all (fun x => x.2.wf)

/-- Requesters of the arbiter kept under a number (R607). -/
def arbCount (k : Nat) : Nat := if k = 0 then 17 else if k < 0x20 then 10 else 4

/-- The three counts of an arbiter lie in their ranges (R600). -/
def Arbiter.inRange (a : Arbiter) (n : Nat) : Bool := decide (a.f < 16) && decide (a.w < n) && decide (a.g < n)

/-- The counts of every arbiter lie in their ranges (R600). -/
def State.arbsOk (s : State) : Bool := s.arbs.all (fun x => x.2.inRange (arbCount x.1))

/-- The engines and the arbiters are kept in canonical form: one entry each, none at the reset value. -/
def State.unitsOk (s : State) : Bool := mwf {} s.engines && mwf {} s.arbs

/-- What every step keeps. -/
def State.sound (s : State) : Bool := s.countersOk && s.memoryOk && s.arbsOk && s.unitsOk

/-- The command `ref` is in flight, queued, of the opcode, and no change of power state turns it away (R490, R530, R773). -/
def State.queuedFor (s : State) (ref : CmdRef) (opcode : BitVec 16) : Bool :=
  (s.cmd (cmdKey ref)).inFlight && (s.cmd (cmdKey ref)).state == .queued && (s.cmd (cmdKey ref)).opcode == opcode &&
    !(s.power.change.isSome && duringChange.contains opcode)

/-- The non-atomic command `ref` is in flight here, queued or running, of the opcode: its next step may run (R531). -/
def State.goesOn (s : State) (ref : CmdRef) (opcode : BitVec 16) : Bool :=
  (s.cmd (cmdKey ref)).inFlight && ((s.cmd (cmdKey ref)).state == .queued || (s.cmd (cmdKey ref)).state == .running) &&
    (s.cmd (cmdKey ref)).opcode == opcode && (s.cmd (cmdKey ref)).forwarded.isNone

/-- Engine `le` stands between bundles: it issues bundles and nothing is staged or delayed. -/
def Engine.between (e : Engine) : Bool := e.issues && e.staged.isEmpty && e.flow == .seq && e.delay.isNone

/-- From `s` to `t` engine `le` writes `v` to Xd, which X0 ignores (R171); its other general registers, its accumulators and its
memory, every other engine and the coefficient bank are unchanged. -/
def wroteX (s t : State) (le d : Nat) (v : BitVec 64) : Prop :=
  (t.getEngine le).getX d = (if d = 0 then 0 else v) ∧ (∀ j, j ≠ d → (t.getEngine le).getX j = (s.getEngine le).getX j) ∧
    (t.getEngine le).mem = (s.getEngine le).mem ∧ (t.getEngine le).acc = (s.getEngine le).acc ∧
    (∀ k, k ≠ le → t.getEngine k = s.getEngine k) ∧ t.bank = s.bank

/-- From `s` to `t` engine `le` writes `v` to an accumulator; its other accumulators, its general registers and its memory, every
other engine and the coefficient bank are unchanged. -/
def wroteAcc (s t : State) (le a : Nat) (v : Acc) : Prop :=
  (t.getEngine le).getAcc a = v ∧ (∀ j, j ≠ a → (t.getEngine le).getAcc j = (s.getEngine le).getAcc j) ∧
    (t.getEngine le).mem = (s.getEngine le).mem ∧ (t.getEngine le).x = (s.getEngine le).x ∧
    (∀ k, k ≠ le → t.getEngine k = s.getEngine k) ∧ t.bank = s.bank

/-- From `s` to `t` engine `le` stores bytes at address `a`: they read back, every byte of its memory outside them reads as before,
and its registers, every other engine and the coefficient bank are unchanged. -/
def storedAt (s t : State) (le a : Nat) (bs : List Byte) : Prop :=
  readBytes (t.getEngine le).mem a bs.length = bs ∧
    (∀ j, j < a ∨ a + bs.length ≤ j → mget (t.getEngine le).mem j 0 = mget (s.getEngine le).mem j 0) ∧
    (t.getEngine le).x = (s.getEngine le).x ∧ (t.getEngine le).acc = (s.getEngine le).acc ∧
    (∀ k, k ≠ le → t.getEngine k = s.getEngine k) ∧ t.bank = s.bank

/-- The next state of an outcome has a property; a fault or refusal has no next state. -/
def nextHas (p : State → Prop) (o : Host.Outcome State Fault Refusal) : Prop :=
  match o with
  | .next t => p t
  | _ => True

end Sys2Proof.Machine
end

