-- ==== Sys2Proof/Certificates/Slice0/Obligations.lean ====
section
/-! DEFINITION. The statements for the provers, each of the block's commands and of what every step keeps. -/

open Sys2Proof Sys2Proof.Machine

/-- The events of a current sample: UPDATE_POINT, SHUNT_SAMPLE, SHUNT_RESULT, DUTY_COMMIT, BUDGET_OVERRUN, AXIS_RELEASE, SEGMENT_STARVED_STOP.
Each clause gives the next state from the state and the operands alone (R40, R41, R42, R44, R47, R49, R55, R58, R102, R110, R198); the
model's own choices in it are log entry 5. -/
def Obligations.SampleEventsAct : Prop :=
  (∀ (s₀ : State) (axis : Fin 32),
    let s := s₀
    let i := axis.val
    s.driveOn = true → s.updateDue i = true →
    let u := s.nextUpdate i
    let s := s.modPwm i (fun w => { w with
      updateXt := u, period := s.par i P.curPeriodTicks * tickUnits, sample := w.sample + 1
      shuntTriggers := 0, echo := [], codes := [] })
    let s := s.loadDuties i
    let s := s.modFlags i (fun f => { f with old := none })
    exec (.updatePoint axis) s₀ = .next ((s.lossReport i).stopAtUpdate i)) ∧
  (∀ (s₀ : State) (axis : Fin 32),
    let s := s₀
    let i := axis.val
    let w := s.getPwm i
    let p := s.sampleInstants i
    let due := w.updateXt + unitsOfNs (if w.shuntTriggers = 0 then p.1 else p.2)
    w.shuntTriggers < 2 → due ≤ (s.xt16 : Int) + tickUnits → s.xt16 ≤ due + tickUnits →
    let s := s.setPwm i { w with shuntTriggers := w.shuntTriggers + 1 }
    w.shuntTriggers = 0 →
    exec (.shuntSample axis) s₀ = .next s) ∧
  (∀ (s₀ : State) (axis : Fin 32),
    let s := s₀
    let i := axis.val
    let w := s.getPwm i
    let p := s.sampleInstants i
    let due := w.updateXt + unitsOfNs (if w.shuntTriggers = 0 then p.1 else p.2)
    w.shuntTriggers < 2 → due ≤ (s.xt16 : Int) + tickUnits → s.xt16 ≤ due + tickUnits →
    let s := s.setPwm i { w with shuntTriggers := w.shuntTriggers + 1 }
    w.shuntTriggers ≠ 0 →
    exec (.shuntSample axis) s₀ = .next (
      s.modQuad i (fun q => { q with
        latched := ((q.count, (s.xt16 : Int) - unitsOfNs (s.quadDelay i), q.correction) :: q.latched).take 17, correction := 0 }))) ∧
  (∀ (s : State) (i : Fin 32) (c : Fin 16384),
    exec (.shuntResult i c) s = .next (s.modPwm i.val (fun w => { w with codes := (w.codes ++ [signedOf 14 c.val]).take 2 }))) ∧
  (∀ (s : State) (axis : Fin 32),
    let i := axis.val
    ∀ le, (s.getFlags i).engine = some le → (s.getEngine le).atCommit i = true →
    exec (.dutyCommit axis) s = .next (
      ((s.commitDuties le i).modEngine le (fun e => { e with committed := true })).proceed le)) ∧
  (∀ (s : State) (axis : Fin 32),
    let i := axis.val
    ∀ le, (s.getFlags i).engine = some le → s.overBudget le i = true →
    exec (.budgetOverrun axis) s = .next (s.endComputation le i)) ∧
  (∀ (s : State) (axis : Fin 32) (hook : HookOut),
    let i := axis.val
    s.releaseDue i = true → (s.getFlags i).engine = none →
    exec (.axisRelease axis hook) s = .next (
      ((s.modFlags i (fun f => { f with released := (s.getPwm i).sample })).sampleFeedback i).noteSample i)) ∧
  (∀ (s : State) (axis : Fin 32) (hook : HookOut),
    let i := axis.val
    s.releaseDue i = true → ∀ le, (s.getFlags i).engine = some le →
    let e := (s.getEngine le).state
    e == .run || e == .draining →
    exec (.axisRelease axis hook) s = .next (s.releaseOn le i hook)) ∧
  (∀ (s : State) (axis : Fin 32),
    (s.getLoop axis.val).state = .enabled → ∀ t, (s.getFlags axis.val).starvedSince = some t →
    s.expired t (msTicks 2) = true →
    exec (.segmentStarvedStop axis) s = .next (s.axisFault axis.val 0x10))

/-- The time unit's events and commands: TIME_TICK, XT_SAMPLE, TIME_STEP_APPLY, TIME_SOURCE_TIMEOUT, TDC_STAMP, TDC_CALIBRATION, TIME_STATUS,
TIME_STEP. Each clause gives the next state from the state and the operands alone (R34, R39, R41, R59, R60, R67, R75, R76, R77, R78, R80,
R553); the model's own choices in it are log entries 4, 5, 6, 86. -/
def Obligations.TimeActs : Prop :=
  (∀ (s : State), ({ s with tick := s.tick + 1 } : State).ftRuns = true →
    exec .timeTick s = .next { s with
      tick := s.tick + 1
      time := { s.time with
        ft16 := (advance64 s.time.ft16 s.time.residue ({ s with tick := s.tick + 1 } : State).increment).1
        residue := (advance64 s.time.ft16 s.time.residue ({ s with tick := s.tick + 1 } : State).increment).2 } }) ∧
  (∀ (s : State), exec .xtSample s = .next s.sampleXt) ∧
  (∀ (s : State) (f : Ft) (d : Int), s.time.announced = some (f, d) → ftLater f s.ft = false →
    exec .timeStepApply s = .next ({ s with time := { s.time with announced := none } }.applyStep d)) ∧
  (∀ (s : State),
    ∀ t, s.time.waitFrom = some t → s.expired t (msTicks (s.parF epModule P.sourceTimeout)) = true →
    s.time.state = .acquiring →
    exec (.timeSourceTimeout) s = .next (
      ({ s with time := { s.time with
          state := .unset, stepped := false, acquired := [], lastValid := none, waitFrom := none, rateAdj := 0 } }.bump epModule C.timSourceLossCnt).tolerance)) ∧
  (∀ (s₀ : State),
    let s := s₀
    ∀ t, s.time.waitFrom = some t → s.expired t (msTicks (s.parF epModule P.sourceTimeout)) = true →
    s.time.state = .locked →
    let s := { s with time := { s.time with state := .holdover, lastValid := none, waitFrom := none } }
    let s := s.bump epModule C.timSourceLossCnt
    exec (.timeSourceTimeout) s₀ = .next (
      (s.log epModule 0x0202 (s.time.sourcePort.toNat + lowBits 32 s.time.offset * 2 ^ 64)).tolerance)) ∧
  (∀ (s : State) (a : Fin 32) (c : Fin 100) (f : Fin 256),
    exec (.tdcStamp (.shuntEcho a) c f) s = .next ((s.modTdc (pathNo (.shuntEcho a)) (fun x => { x with
      stamp := s.stampOf (.shuntEcho a) c.val f.val })).modPwm a.val (fun w => { w with
      echo := (w.echo ++ [s.stampOf (.shuntEcho a) c.val f.val]).take 2 }))) ∧
  (∀ (s : State) (p : MarkerPath) (c : Fin 100) (f : Fin 256), (∀ a, p ≠ .shuntEcho a) →
    exec (.tdcStamp p c f) s = .next (s.modTdc (pathNo p) (fun x => { x with stamp := s.stampOf p c.val f.val }))) ∧
  (∀ (s : State),
    s.passed s.tdcCal.tick (msTicks 10) = true →
    exec (.tdcCalibration) s = .next ({ s.took with tdcCal := { tick := s.tick, weights := s.fresh } })) ∧
  (∀ (s : State) (ref : CmdRef), s.queuedFor ref 0x0200 = true →
    exec (.timeStatus ref) s = .next (s.ok (cmdKey ref) (leBytes 8 s.time.ft16.toNat ++ le4 s.time.rateAdj ++ leBytes 4 s.timStatus ++
      le4 s.time.offset ++ leBytes 4 0 ++ leBytes 8 s.xt ++ leBytes 2 s.fabric.leaderDev ++ leBytes 6 0))) ∧
  (∀ (s : State) (ref : CmdRef) (ns : BitVec 64) (frac : BitVec 16), s.queuedFor ref 0x0201 = true → s.time.state = .locked →
    s.measured = true → s.syncEnabled = false →
    exec (.timeStep ref 0 ns frac) s = .next ((s.applyStep s.time.lastOffset16).ok (cmdKey ref)
      (leFt8 (s.applyStep s.time.lastOffset16).ft8))) ∧
  (∀ (s : State) (ref : CmdRef) (ns : BitVec 64) (frac : BitVec 16), s.queuedFor ref 0x0201 = true → s.time.state = .locked →
    s.time.leader = true → s.syncEnabled = false → s.fabric.syncDevs = [] → ns.toInt * 65536 + frac.toNat ≠ 0 →
    exec (.timeStep ref 1 ns frac) s = .next ({ s.took with time := { s.time with
      announced := some (s.stepApply, ns.toInt * 65536 + frac.toNat) } }.ok (cmdKey ref) (leFt8 (BitVec.ofNat 40 (s.stepApply.toNat * 256)))))

/-- The feedback edges: QUAD_EDGE, INDEX_PULSE, HALL_EDGE, ZERO_SPEED, FREEZE. Each clause gives the next state from the state and the
operands alone (R97, R101, R105, R109, R146, R148, R152, R156, R361); the model's own choices in it are log entry 5. -/
def Obligations.FeedbackEdgesAct : Prop :=
  (∀ (s : State) (axis : Fin 32) (a b index : Bool) (clocks : Fin 1024) (clk : Fin 7),
    s.driveOn = true →
    exec (.quadEdge axis ⟨a, b, index⟩ ⟨clocks, clk⟩) s = .next (State.filterRun axis.val (a, b, index) clk.val clocks.val s)) ∧
  (∀ (s : State) (i : Fin 32) (a b x : Bool) (clk : Fin 7) (q : QuadDecoder) (d : Nat), s.driveOn = true → s.par i.val P.fbSource = 1 →
    q = (s.getQuad i.val).sampled (s.par i.val P.quadFilter) (a, b, x) →
    d = (quadPlace q.levels.1 q.levels.2.1 + 4 - quadPlace (s.getQuad i.val).levels.1 (s.getQuad i.val).levels.2.1) % 4 →
    d = 1 ∨ d = 3 →
    let r := if q.levels.2.2 then q else { q with pulseDone := false }
    let step : Int := if (d = 1 ↔ s.par i.val P.quadInvert = 1) then -1 else 1
    let st := s.stamped (s.clockFt8 clk.val 0 - ft8Ns (s.quadDelay i.val)) step
    exec (.quadEdge i ⟨a, b, x⟩ ⟨1, clk⟩) s = .next ((s.setQuad i.val ({ r with
      count := wrapInt 64 (r.count + step), edges := (st :: r.edges).take 5, zeroSpeed := false, lastEdge := s.tick }.index
        (s.par i.val P.indexMode) (quadPlace (s.getQuad i.val).levels.1 (s.getQuad i.val).levels.2.1) (decide (step = 1)) st.ft8)).fbRestored
          i.val)) ∧
  (∀ (s₀ : State) (axis : Fin 32),
    let s := s₀
    let i := axis.val
    ∀ c st, (s.getQuad i).pulse = some (c, st) →
    let s := s.modQuad i (fun q => { q with pulse := none })
    s.par i P.fbSource = 1 → s.par i P.indexMode ≠ 0 → (s.getLoop i).state = .disabled →
    exec (.indexPulse axis) s₀ = .next (s.indexHome i c st)) ∧
  (∀ (s₀ : State) (axis : Fin 32),
    let s := s₀
    let i := axis.val
    ∀ c st, (s.getQuad i).pulse = some (c, st) →
    let s := s.modQuad i (fun q => { q with pulse := none })
    s.par i P.fbSource = 1 → s.par i P.indexMode ≠ 0 → (s.getLoop i).state ≠ .disabled →
    exec (.indexPulse axis) s₀ = .next ((s.indexHome i c st).indexEvent i c)) ∧
  (∀ (s₀ : State) (aux : Fin 16) (st : Fin 8) (clocks : Fin 131072) (clk : Fin 7),
    let s := s₀
    let j := aux.val
    let ep := epAux j
    let was := (s.getAux j).hall.state
    let now := s.clockFt8 clk.val 0
    s.driveOn = true →
    let s := s.modAux j (fun a => { a with hall := a.hall.sampled (s.par ep P.hallFilter) st.val clocks.val })
    let h := (s.getAux j).hall
    h.state ≠ was → ∀ k, hallPlace (s.par ep P.hallMap) h.state = some k →
    let next (d : Int) : Hall :=
      let t := now - ft8Ns ((s.par ep P.hallFilter : Rat) * 1000 + 5)
      let es := (s.stamped t d :: h.edges).take 2
      let speed : Q32 := match es with
        | a :: b :: _ => if a.val = b.val ∧ a.val ≠ 0 ∧ b.xt < a.xt then toQ32 ((d : Rat) / 6 / secOf ((a.xt : Int) - b.xt)) else 0
        | _ => 0
      { h with sector := some k, edges := es, speed := speed
               angle := fixFloor 32 (s.parF ep P.hallOffset / 360 + (k : Rat) / 6) }
    h.sector = none →
    exec (.hallEdge aux ⟨st, clocks, clk⟩) s₀ = .next (s.modAux j (fun a => { a with hall := next 0 }))) ∧
  (∀ (s₀ : State) (aux : Fin 16) (st : Fin 8) (clocks : Fin 131072) (clk : Fin 7),
    let s := s₀
    let j := aux.val
    let ep := epAux j
    let was := (s.getAux j).hall.state
    let now := s.clockFt8 clk.val 0
    s.driveOn = true →
    let s := s.modAux j (fun a => { a with hall := a.hall.sampled (s.par ep P.hallFilter) st.val clocks.val })
    let h := (s.getAux j).hall
    h.state ≠ was → hallPlace (s.par ep P.hallMap) h.state = none →
    exec (.hallEdge aux ⟨st, clocks, clk⟩) s₀ = .next (s.hallError j now)) ∧
  (∀ (s : State) (axis : Fin 32),
    let q := s.getQuad axis.val
    s.passed q.lastEdge (msTicks (s.parF axis.val P.zeroSpeedTime)) = true →
    exec (.zeroSpeed axis) s = .next (s.setQuad axis.val { q with zeroSpeed := true })) ∧
  (∀ (s : State) (axis : Fin 32),
    ∀ t, (s.getFb axis.val).frozenSince = some t → s.passed t (msTicks (s.parF axis.val P.freezeTime)) = true →
    exec (.freeze axis) s = .next (s.fbLoss axis.val 3))

/-- The serial feedback events: SERIAL_READ_START, SERIAL_WORD_DECODED, LSP_WORD_TIMEOUT, LSP_UNSOLICITED_CHAR, LSP_CLEAR_ERR. Each clause
gives the next state from the state and the operands alone (R110, R113, R118, R119, R122, R126, R133, R134, R140, R141, R142, R144); the
model's own choices in it are log entries 5, 88. -/
def Obligations.SerialFeedbackActs : Prop :=
  (∀ (s₀ : State) (axis : Fin 32) (lineHigh : Bool),
    let s := s₀
    let i := axis.val
    let p := s.getSerial i
    let start := (s.getPwm i).updateXt + s.par i P.serialStart * tickUnits
    let due := s.driveOn && (s.getPwm i).sample % s.par i P.serialRatio == 0 && p.outstanding.isNone
    s.par i P.fbSource = 2 → due = true → s.recovered i = true →
    let s := s.setSerial i { p with startXt := start, startTick := s.tick, wordTaken := false, outstanding := some .pos }
    lineHigh = true →
    exec (.serialReadStart axis lineHigh) s₀ = .next (s.modSerial i (fun p => { p with lastClock := s.lastEdge i }))) ∧
  (∀ (s : State) (axis : Fin 32) (lineHigh : Bool),
    let i := axis.val
    let p := s.getSerial i
    let start := (s.getPwm i).updateXt + s.par i P.serialStart * tickUnits
    let due := s.driveOn && (s.getPwm i).sample % s.par i P.serialRatio == 0 && p.outstanding.isNone
    s.par i P.fbSource = 3 → due = true →
    exec (.serialReadStart axis lineHigh) s = .next (
      (s.setSerial i { p with wordTaken := false }).lspSend i (if s.par i P.lspAux = 1 then .posAux else .pos) start)) ∧
  (∀ (s : State) (i : Fin 32) (r : LspRequest) (bs : List Bool) (v : Nat), (s.getSerial i.val).outstanding = some r →
    s.decodeSsi i.val bs = .inr v → exec (.serialWordDecoded i (.ssi bs)) s = .next (s.goodWord i.val v)) ∧
  (∀ (s : State) (i : Fin 32) (r : LspRequest) (bs : List Bool) (c : WordClass), (s.getSerial i.val).outstanding = some r →
    s.decodeSsi i.val bs = .inl c → exec (.serialWordDecoded i (.ssi bs)) s = .next (s.badWord i.val c)) ∧
  (∀ (s : State) (i : Fin 32) (r : LspRequest), s.par i.val P.fbSource = 3 →
    s.expired (s.getSerial i.val).startTick (nsTicks (s.parF i.val P.lspWordTimeout)) = true →
    (s.getSerial i.val).outstanding = some r → r ≠ .ident → r ≠ .clearErr →
    exec (.lspWordTimeout i) s = .next (s.badWord i.val .timeout)) ∧
  (∀ (s : State) (i : Fin 32), (s.getSerial i.val).driveEnd ≤ s.tick →
    exec (.lspUnsolicitedChar i) s = .next (s.bump i.val C.fbkUnsolicited)) ∧
  (∀ (s : State) (i : Fin 32), s.par i.val P.fbSource = 3 → (s.getSerial i.val).outstanding = none →
    exec (.lspClearErr i) s = .next (s.lspSend i.val .clearErr s.xt16))

/-- The events of enabling, stopping, STO, gate faults, link voltage, calibration, holdover and listening: PRECHARGE_DONE, ENABLE_TIMEOUT,
STANDSTILL, STOP_TIMEOUT, POLARITY_TEST, STO_LINE_ASSERT, GATE_FAULT_INPUT, DC_LINK_CONVERSION, OFFSET_CALIBRATION_DONE,
OBSERVER_HOLD_TIMEOUT, LISTEN_END. Each clause gives the next state from the state and the operands alone (R57, R241, R245, R246, R250,
R259, R274, R291, R297, R298, R312, R770); the model's own choices in it are log entries 5, 41. -/
def Obligations.EnableAndDriveEventsAct : Prop :=
  (∀ (s : State) (axis : Fin 32),
    let i := axis.val
    let l := s.getLoop i
    l.state = .enabling → l.enableStep = 0 → s.passed l.enableTick (usTicks (max 10 (s.parF i P.prechargeTime))) = true →
    exec (.prechargeDone axis) s = .next (s.modLoop i (fun l => { l with enableStep := 1, enableTick := s.tick }))) ∧
  (∀ (s : State) (axis : Fin 32),
    let i := axis.val
    let l := s.getLoop i
    l.state = .enabling → l.stop = none → s.expired l.enableFrom (msTicks (s.parF i P.enableTimeout)) = true →
    exec (.enableTimeout axis) s = .next (s.axisFault i 0x0E)) ∧
  (∀ (s : State) (i : Fin 32) (t : Nat) (f : Ft8), (s.getFlags i.val).slowSince = some (t, f) →
    s.passed t (msTicks (s.parF i.val P.standstillTime)) = true → (s.getLoop i.val).state = .stopping →
    exec (.standstill i) s = .next ((s.modFlags i.val (fun f => { f with standstill := true })).rampDone i.val f)) ∧
  (∀ (s : State) (i : Fin 32) (w : StopRun), (s.getLoop i.val).state = .stopping → (s.getLoop i.val).stop = some w → w.atUpdate = false →
    s.expired w.fromTick (msTicks (s.parF i.val P.stopTimeout)) = true → (s.getLoop i.val).faultCause ≠ 0 →
    exec (.stopTimeout i) s = .next ((s.modTrail i.val (fun t => { t with
      reportDue := t.reportDue.map (fun r => { r with cause := 2, category := 0 }) })).modLoop i.val (fun l => { l with
      stop := some { w with cat := 0, byFault := true, atUpdate := true } }))) ∧
  (∀ (s : State) (axis : Fin 32),
    let i := axis.val
    let due := match (s.getFoc i).smallSince with
      | some t => s.passed t (msTicks 2)
      | none => false
    s.awaitsPolarity i = true → due = true →
    exec (.polarityTest axis {} {}) s = .next (s.modFoc i (fun f => { f with polRun := some 0, polPeaks := (0, 0) }))) ∧
  (∀ (s : State) (g : Fin 8), (mget s.safety.groups g.val {}).released = false →
    exec (.stoLineAssert g) s = .next ((s.channelsOf g.val).foldl State.channelSto s)) ∧
  (∀ (s : State) (i : Fin 32), exec (.gateFaultInput (.servo i) true) s = .next ((s.modFlags i.val (fun f => { f with
    gateFault := true, gateDue := f.gateDue || true })).gates i.val false)) ∧
  (∀ (s : State) (n : Fin 32) (c : Fin 65536), s.driveOn = true → s.power.state = .ramble →
    exec (.dcLinkConversion n c) s = .next ((s.setDc n.val c.val).dcHigh n.val)) ∧
  (∀ (s t : State) (j : Fin 16) (l : List Int), (s.getAux j.val).state = .standby → l.length = 256 →
    t = s.modAux j.val (fun a => { a with foc := State.calibrated a.foc l 41 }) → (t.getAux j.val).foc.offsetWarn = false →
    exec (.offsetCalibrationDone (.aux j) l) s = .next t) ∧
  (∀ (s : State) (i : Fin 32) (t : Nat), (s.getFoc i.val).holdFrom = some t → s.expired t (msTicks (s.parF i.val P.obsHoldTime)) = true →
    (s.getFoc i.val).obs.locked = false →
    exec (.observerHoldTimeout (.servo i)) s = .next ((((s.log i.val 0x0407 (s.lostData (s.focCfg i.val) (s.getFoc i.val))).modFoc i.val
      (fun f => { f with holdFrom := none })).gates i.val false).axisFault i.val 0x0C)) ∧
  (∀ (s : State) (i : Fin 32), (s.getLoop i.val).state = .enabling →
    s.listenOver (s.getFoc i.val) (s.parF i.val P.listenEmfMin) = true →
    Sys2Proof.Machine.norm (ofQ8 (s.getFoc i.val).obs.eAl, ofQ8 (s.getFoc i.val).obs.eBe) < s.parF i.val P.listenEmfMin ∨
      ((s.getFoc i.val).obs.locked = true ∧
        rabs ((if s.parZ i.val P.catchDirection < 0 then -1 else 1) * obsSpeed (s.focCfg i.val) (s.getFoc i.val).obs / (s.focCfg i.val).wb) <
          s.parF i.val P.catchThreshold) →
    exec (.listenEnd (.servo i)) s = .next ((s.modFoc i.val (fun f => { f with listenFrom := none })).modFoc i.val (fun f => { f with
      catch_ := .fromStandstill, smallSince := none, polTests := 0 }))) ∧
  (∀ (s : State) (i : Fin 32) (w : StopRun), (s.getLoop i.val).state = .stopping → (s.getLoop i.val).stop = some w → w.atUpdate = false →
    s.expired w.fromTick (msTicks (s.parF i.val P.stopTimeout)) = true → (s.getLoop i.val).faultCause = 0 →
    exec (.stopTimeout i) s = .next (((s.recordCause i.val 0x0F).modTrail i.val (fun t => { t with
      reportDue := t.reportDue.map (fun r => { r with cause := 2, category := 0 }) })).modLoop i.val (fun l => { l with
      stop := some { w with cat := 0, byFault := true, atUpdate := true } }))) ∧
  (∀ (s : State) (j : Fin 16), exec (.gateFaultInput (.aux j) true) s = .next ((s.modAux j.val (fun a => { a with
    gateFault := true, gateDue := a.gateDue || true })).auxGates j.val false)) ∧
  (∀ (s t : State) (i : Fin 32) (l : List Int), (s.getLoop i.val).state = .enabling → (s.getLoop i.val).enableStep = 1 → l.length = 256 →
    t = s.modFoc i.val (fun f => State.calibrated f l 164) → (t.getFoc i.val).offsetWarn = false → s.par i.val P.fbSource ≠ 0 →
    exec (.offsetCalibrationDone (.servo i) l) s = .next ((t.modLoop i.val (fun l => { l with
      enableStep := 2, enableTick := s.tick })).gates i.val false |>.modFoc i.val (fun f => { f with catch_ := .none_ }))) ∧
  (∀ (s : State) (j : Fin 16) (t : Nat), (s.getAux j.val).state = .hold → (s.getAux j.val).foc.holdFrom = some t →
    s.expired t (msTicks (s.parF (epAux j.val) P.auxHoldTime)) = true → (s.getAux j.val).foc.obs.locked = false →
    exec (.observerHoldTimeout (.aux j)) s = .next ((s.log (epAux j.val) 0x0407 (s.lostData (s.auxCfg j.val) (s.getAux j.val).foc)).auxRetry
      j.val))

/-- The accumulator operations: MAC, MSU, MUL, MAC2, MACUS, CLR, EXT. Each clause gives the next state from the state and the operands alone
(R173, R179, R181, R183); the model's own choices in it are log entry 5. -/
def Obligations.LeAccumulatorOpsAct : Prop :=
  (∀ (s : State) (le : Fin 16) (eob : Bool) (a : Fin 4) (m n : Fin 32), (s.getEngine le.val).issues = true → 
    exec (.mac le eob a m n) s = .next (s.stageOp le.val eob (stageAcc a.val (accAdd ((s.getEngine le.val).getAcc a.val) (((s.getEngine le.val).getX m.val).toInt * ((s.getEngine le.val).getX n.val).toInt))) .seq)) ∧
  (∀ (s : State) (le : Fin 16) (eob : Bool) (a : Fin 4) (m n : Fin 32), (s.getEngine le.val).issues = true → 
    exec (.msu le eob a m n) s = .next (s.stageOp le.val eob (stageAcc a.val (accAdd ((s.getEngine le.val).getAcc a.val) (-(((s.getEngine le.val).getX m.val).toInt * ((s.getEngine le.val).getX n.val).toInt)))) .seq)) ∧
  (∀ (s : State) (le : Fin 16) (eob : Bool) (a : Fin 4) (m n : Fin 32), (s.getEngine le.val).issues = true → 
    exec (.mul le eob a m n) s = .next (s.stageOp le.val eob ([.acc a.val { val := ((s.getEngine le.val).getX m.val).toInt * ((s.getEngine le.val).getX n.val).toInt, wrap := 0 }]) .seq)) ∧
  (∀ (s : State) (le : Fin 16) (eob : Bool) (a : Fin 4) (m n : Fin 32) (b : Fin 4) (p q : Fin 32), (s.getEngine le.val).issues = true → b ≠ a → 
    exec (.mac2 le eob a m n b p q) s = .next (s.stageOp le.val eob (stageAcc a.val (accAdd ((s.getEngine le.val).getAcc a.val) (((s.getEngine le.val).getX m.val).toInt * ((s.getEngine le.val).getX n.val).toInt)) ++
      stageAcc b.val (accAdd ((s.getEngine le.val).getAcc b.val) (((s.getEngine le.val).getX p.val).toInt * ((s.getEngine le.val).getX q.val).toInt))) .seq)) ∧
  (∀ (s : State) (le : Fin 16) (eob : Bool) (a : Fin 4) (m n : Fin 32) (p q : Fin 32), (s.getEngine le.val).issues = true → 
    exec (.mac2 le eob a m n a p q) s = .next (s.stageOp le.val eob (stageAcc a.val (accAdd ((s.getEngine le.val).getAcc a.val) (((s.getEngine le.val).getX m.val).toInt * ((s.getEngine le.val).getX n.val).toInt)) ++
      stageAcc a.val (accAdd (accAdd ((s.getEngine le.val).getAcc a.val) (((s.getEngine le.val).getX m.val).toInt * ((s.getEngine le.val).getX n.val).toInt)).1 (((s.getEngine le.val).getX p.val).toInt * ((s.getEngine le.val).getX q.val).toInt))) .seq)) ∧
  (∀ (s : State) (le : Fin 16) (eob : Bool) (a : Fin 4) (m n : Fin 32), (s.getEngine le.val).issues = true → 
    exec (.macus le eob a m n) s = .next (s.stageOp le.val eob (stageAcc a.val (accAdd ((s.getEngine le.val).getAcc a.val) ((((s.getEngine le.val).getX m.val).toNat : Int) * ((s.getEngine le.val).getX n.val).toInt))) .seq)) ∧
  (∀ (s : State) (le : Fin 16) (eob : Bool) (a : Fin 4) (sh : Fin 144), (s.getEngine le.val).issues = true → 
    exec (.clr le eob a sh) s = .next (s.stageOp le.val eob ([.acc a.val { val := if sh.val = 0 then 0 else 2 ^ (sh.val - 1), wrap := 0 }]) .seq)) ∧
  (∀ (s : State) (le : Fin 16) (eob : Bool) (d : Fin 32) (a : Fin 4) (sh : Fin 81), (s.getEngine le.val).issues = true → 
    exec (.ext le eob d a sh) s = .next (s.stageOp le.val eob (.x d.val (BitVec.ofInt 64 (extVal ((s.getEngine le.val).getAcc a.val) sh.val).1) ::
      (if (extVal ((s.getEngine le.val).getAcc a.val) sh.val).2 then [.esrOr (BitVec.ofNat 32 (2 ^ (8 + a.val)))] else [])) .seq))

/-- Loads, stores and bank bursts: LD, LDQ, ACCLD, ST, STQ, ACCST, BLD, BLD_DONE. Each clause gives the next state from the state and the
operands alone (R170, R194, R195, R196, R197); the model's own choices in it are log entry 5. -/
def Obligations.LeMemoryOpsAct : Prop :=
  (∀ (s : State) (le : Fin 16) (eob : Bool) (d b : Fin 32) (imm : BitVec 14), (s.getEngine le.val).issues = true → (s.getEngine le.val).addr b imm + 8 ≤ leMemBytes → 
    exec (.ld le eob d b ⟨imm, .clean⟩) s = .next (s.stageOp le.val eob ([.x d.val (s.load64 le.val ((s.getEngine le.val).addr b imm))]) .seq)) ∧
  (∀ (s : State) (le : Fin 16) (eob : Bool) (d : Fin 16) (b : Fin 32) (imm : BitVec 14), (s.getEngine le.val).issues = true → (s.getEngine le.val).addr b imm + 16 ≤ leMemBytes → 
    exec (.ldq le eob d b ⟨imm, .clean⟩) s = .next (s.stageOp le.val eob ([.x (2 * d.val) (s.load64 le.val ((s.getEngine le.val).addr b imm)), .x (2 * d.val + 1) (s.load64 le.val ((s.getEngine le.val).addr b imm + 8))]) .seq)) ∧
  (∀ (s : State) (le : Fin 16) (eob : Bool) (a : Fin 4) (b : Fin 32) (imm : BitVec 17), (s.getEngine le.val).issues = true → (s.getEngine le.val).addr b imm + 24 ≤ leMemBytes → 
    exec (.accld le eob a b ⟨imm, .clean⟩) s = .next (s.stageOp le.val eob ([.acc a.val { val := signedOf 144 (leVal (s.localBytes le.val ((s.getEngine le.val).addr b imm) 24)), wrap := signedOf 4 (leVal (s.localBytes le.val ((s.getEngine le.val).addr b imm) 24) / 2 ^ 188) }]) .seq)) ∧
  (∀ (s : State) (le : Fin 16) (eob : Bool) (src b : Fin 32) (imm : BitVec 14) (h : HookCtx), (s.getEngine le.val).issues = true → (s.getEngine le.val).hook = some h → s.hookMayStore h ((s.getEngine le.val).addr b imm) 8 = true → 
    exec (.st le eob src b imm) s = .next (s.stageOp le.val eob ([.mem ((s.getEngine le.val).addr b imm) (leBytes 8 ((s.getEngine le.val).getX src.val).toNat)]) .seq)) ∧
  (∀ (s : State) (le : Fin 16) (eob : Bool) (src b : Fin 32) (imm : BitVec 14) (h : HookCtx), (s.getEngine le.val).issues = true → (s.getEngine le.val).hook = some h → s.hookMayStore h ((s.getEngine le.val).addr b imm) 16 = true → 
    exec (.stq le eob src b imm) s = .next (s.stageOp le.val eob ([.mem ((s.getEngine le.val).addr b imm) (leBytes 8 ((s.getEngine le.val).getX src.val).toNat ++ leBytes 8 ((s.getEngine le.val).getX (src.val + 1)).toNat)]) .seq)) ∧
  (∀ (s : State) (le : Fin 16) (eob : Bool) (a : Fin 4) (b : Fin 32) (imm : BitVec 17) (h : HookCtx), (s.getEngine le.val).issues = true → (s.getEngine le.val).hook = some h → s.hookMayStore h ((s.getEngine le.val).addr b imm) 24 = true → 
    exec (.accst le eob a b imm) s = .next (s.took.stageOp le.val eob ([.mem ((s.getEngine le.val).addr b imm) (leBytes 24 (lowBits 184 ((s.getEngine le.val).getAcc a.val).val +
      (s.fresh % 16) * 2 ^ 184 + lowBits 4 ((s.getEngine le.val).getAcc a.val).wrap * 2 ^ 188))]) .seq)) ∧
  (∀ (s : State) (le : Fin 16) (eob : Bool) (l b : Fin 32) (n : Fin 8), (s.getEngine le.val).issues = true → (s.getEngine le.val).bld = none → (s.getEngine le.val).hook = none → ((s.getEngine le.val).getX l.val).toNat + 8 * (n.val + 1) ≤ leMemBytes → 
    exec (.bld le eob l b n) s = .next (s.stageOp le.val eob ([.bld { dst := ((s.getEngine le.val).getX l.val).toNat, bank := ((s.getEngine le.val).getX b.val).toNat, n := n.val + 1 }]) .seq)) ∧
  (∀ (s : State) (le : Fin 16) (b : Burst) (e : Engine), (s.getArb 0).holder = le.val + 1 → (s.getEngine le.val).bld = some b →
    b.bank + 8 * b.n ≤ bankBytes →
    e = ((s.getEngine le.val).store b.dst (readBytes s.bank b.bank (8 * b.n))).esrBit 5 false →
    exec (.bldDone le none) s =
      .next ((s.modArb 0 (fun a => { a with holder := 0, cuts := mdel a.cuts le.val })).setEngine le.val { e with bld := none, bldDone := true })) ∧
  (∀ (s : State) (le : Fin 16) (eob : Bool) (d b : Fin 32) (imm : BitVec 14), (s.getEngine le.val).issues = true → (s.getEngine le.val).addr b imm + 8 ≤ leMemBytes → 
    exec (.ld le eob d b ⟨imm, .corrected⟩) s = .next ((s.bump (epEngine le.val) C.leEccCorr).stageOp le.val eob ([.x d.val (s.load64 le.val ((s.getEngine le.val).addr b imm))]) .seq)) ∧
  (∀ (s : State) (le : Fin 16) (eob : Bool) (d b : Fin 32) (imm : BitVec 14), (s.getEngine le.val).issues = true → (s.getEngine le.val).addr b imm + 8 ≤ leMemBytes → 
    exec (.ld le eob d b ⟨imm, .uncorrectable⟩) s = .next (s.memError le.val ((s.getEngine le.val).addr b imm))) ∧
  (∀ (s : State) (le : Fin 16) (eob : Bool) (d : Fin 16) (b : Fin 32) (imm : BitVec 14), (s.getEngine le.val).issues = true → (s.getEngine le.val).addr b imm + 16 ≤ leMemBytes → 
    exec (.ldq le eob d b ⟨imm, .corrected⟩) s = .next ((s.bump (epEngine le.val) C.leEccCorr).stageOp le.val eob ([.x (2 * d.val) (s.load64 le.val ((s.getEngine le.val).addr b imm)), .x (2 * d.val + 1) (s.load64 le.val ((s.getEngine le.val).addr b imm + 8))]) .seq)) ∧
  (∀ (s : State) (le : Fin 16) (eob : Bool) (d : Fin 16) (b : Fin 32) (imm : BitVec 14), (s.getEngine le.val).issues = true → (s.getEngine le.val).addr b imm + 16 ≤ leMemBytes → 
    exec (.ldq le eob d b ⟨imm, .uncorrectable⟩) s = .next (s.memError le.val ((s.getEngine le.val).addr b imm))) ∧
  (∀ (s : State) (le : Fin 16) (eob : Bool) (a : Fin 4) (b : Fin 32) (imm : BitVec 17), (s.getEngine le.val).issues = true → (s.getEngine le.val).addr b imm + 24 ≤ leMemBytes → 
    exec (.accld le eob a b ⟨imm, .corrected⟩) s = .next ((s.bump (epEngine le.val) C.leEccCorr).stageOp le.val eob ([.acc a.val { val := signedOf 144 (leVal (s.localBytes le.val ((s.getEngine le.val).addr b imm) 24)), wrap := signedOf 4 (leVal (s.localBytes le.val ((s.getEngine le.val).addr b imm) 24) / 2 ^ 188) }]) .seq)) ∧
  (∀ (s : State) (le : Fin 16) (eob : Bool) (a : Fin 4) (b : Fin 32) (imm : BitVec 17), (s.getEngine le.val).issues = true → (s.getEngine le.val).addr b imm + 24 ≤ leMemBytes → 
    exec (.accld le eob a b ⟨imm, .uncorrectable⟩) s = .next (s.memError le.val ((s.getEngine le.val).addr b imm))) ∧
  (∀ (s : State) (le : Fin 16) (eob : Bool) (src b : Fin 32) (imm : BitVec 14), (s.getEngine le.val).issues = true → (s.getEngine le.val).hook = none → (s.getEngine le.val).addr b imm + 8 ≤ leMemBytes → 
    exec (.st le eob src b imm) s = .next (s.stageOp le.val eob ([.mem ((s.getEngine le.val).addr b imm) (leBytes 8 ((s.getEngine le.val).getX src.val).toNat)]) .seq)) ∧
  (∀ (s : State) (le : Fin 16) (eob : Bool) (src b : Fin 32) (imm : BitVec 14), (s.getEngine le.val).issues = true → (s.getEngine le.val).hook = none → (s.getEngine le.val).addr b imm + 16 ≤ leMemBytes → 
    exec (.stq le eob src b imm) s = .next (s.stageOp le.val eob ([.mem ((s.getEngine le.val).addr b imm) (leBytes 8 ((s.getEngine le.val).getX src.val).toNat ++ leBytes 8 ((s.getEngine le.val).getX (src.val + 1)).toNat)]) .seq)) ∧
  (∀ (s : State) (le : Fin 16) (eob : Bool) (a : Fin 4) (b : Fin 32) (imm : BitVec 17), (s.getEngine le.val).issues = true → (s.getEngine le.val).hook = none → (s.getEngine le.val).addr b imm + 24 ≤ leMemBytes → 
    exec (.accst le eob a b imm) s = .next (s.took.stageOp le.val eob ([.mem ((s.getEngine le.val).addr b imm) (leBytes 24 (lowBits 184 ((s.getEngine le.val).getAcc a.val).val +
      (s.fresh % 16) * 2 ^ 184 + lowBits 4 ((s.getEngine le.val).getAcc a.val).wrap * 2 ^ 188))]) .seq)) ∧
  (∀ (s : State) (le : Fin 16) (eob : Bool) (l b : Fin 32) (n : Fin 8) (h : HookCtx), (s.getEngine le.val).issues = true → (s.getEngine le.val).bld = none → (s.getEngine le.val).hook = some h → h.bankBase ≤ ((s.getEngine le.val).getX b.val).toNat → ((s.getEngine le.val).getX b.val).toNat + 8 * (n.val + 1) ≤ h.bankBase + h.bankBytes → s.hookMayStore h ((s.getEngine le.val).getX l.val).toNat (8 * (n.val + 1)) = true → ((s.getEngine le.val).getX l.val).toNat + 8 * (n.val + 1) ≤ leMemBytes → 
    exec (.bld le eob l b n) s = .next (s.stageOp le.val eob ([.bld { dst := ((s.getEngine le.val).getX l.val).toNat, bank := ((s.getEngine le.val).getX b.val).toNat, n := n.val + 1 }]) .seq)) ∧
  (∀ (s : State) (le : Fin 16) (b : Burst) (k : Nat) (c : BusErrCause), (s.getArb 0).holder = le.val + 1 →
    (s.getEngine le.val).bld = some b → b.bank + 8 * b.n ≤ bankBytes →
    exec (.bldDone le (some (k, c))) s =
      .next ((s.modArb 0 (fun a => { a with holder := 0, cuts := mdel a.cuts le.val })).endBurst le.val (some (k, c))))

/-- The integer operations: ADD, SUB, AND, OR, XOR, ADDI, SHL, SHR, SRA, LI, SATW, MAXI, MINI, RCP, RSQ, LUI, CMP. Each clause gives the next
state from the state and the operands alone (R180, R186); the model's own choices in it are log entries 5, 24. -/
def Obligations.LeArithmeticOpsAct : Prop :=
  (∀ (s : State) (le : Fin 16) (eob : Bool) (d m n : Fin 32), (s.getEngine le.val).issues = true → 
    exec (.leAdd le eob d m n) s = .next (s.stageOp le.val eob ([.x d.val ((s.getEngine le.val).getX m.val + (s.getEngine le.val).getX n.val)]) .seq)) ∧
  (∀ (s : State) (le : Fin 16) (eob : Bool) (d m n : Fin 32), (s.getEngine le.val).issues = true → 
    exec (.leSub le eob d m n) s = .next (s.stageOp le.val eob ([.x d.val ((s.getEngine le.val).getX m.val - (s.getEngine le.val).getX n.val)]) .seq)) ∧
  (∀ (s : State) (le : Fin 16) (eob : Bool) (d m n : Fin 32), (s.getEngine le.val).issues = true → 
    exec (.leAnd le eob d m n) s = .next (s.stageOp le.val eob ([.x d.val ((s.getEngine le.val).getX m.val &&& (s.getEngine le.val).getX n.val)]) .seq)) ∧
  (∀ (s : State) (le : Fin 16) (eob : Bool) (d m n : Fin 32), (s.getEngine le.val).issues = true → 
    exec (.leOr le eob d m n) s = .next (s.stageOp le.val eob ([.x d.val ((s.getEngine le.val).getX m.val ||| (s.getEngine le.val).getX n.val)]) .seq)) ∧
  (∀ (s : State) (le : Fin 16) (eob : Bool) (d m n : Fin 32), (s.getEngine le.val).issues = true → 
    exec (.leXor le eob d m n) s = .next (s.stageOp le.val eob ([.x d.val ((s.getEngine le.val).getX m.val ^^^ (s.getEngine le.val).getX n.val)]) .seq)) ∧
  (∀ (s : State) (le : Fin 16) (eob : Bool) (d m : Fin 32) (imm : BitVec 14), (s.getEngine le.val).issues = true → 
    exec (.leAddi le eob d m imm) s = .next (s.stageOp le.val eob ([.x d.val ((s.getEngine le.val).getX m.val + imm.signExtend 64)]) .seq)) ∧
  (∀ (s : State) (le : Fin 16) (eob : Bool) (d m n : Fin 32), (s.getEngine le.val).issues = true → ((s.getEngine le.val).getX n.val).toNat < 64 → 
    exec (.leShl le eob d m n) s = .next (s.took.stageOp le.val eob ([.x d.val (((s.getEngine le.val).getX m.val) <<< ((s.getEngine le.val).getX n.val).toNat)]) .seq)) ∧
  (∀ (s : State) (le : Fin 16) (eob : Bool) (d m n : Fin 32), (s.getEngine le.val).issues = true → ((s.getEngine le.val).getX n.val).toNat < 64 → 
    exec (.leShr le eob d m n) s = .next (s.took.stageOp le.val eob ([.x d.val (((s.getEngine le.val).getX m.val) >>> ((s.getEngine le.val).getX n.val).toNat)]) .seq)) ∧
  (∀ (s : State) (le : Fin 16) (eob : Bool) (d m n : Fin 32), (s.getEngine le.val).issues = true → ((s.getEngine le.val).getX n.val).toNat < 64 → 
    exec (.leSra le eob d m n) s = .next (s.took.stageOp le.val eob ([.x d.val (((s.getEngine le.val).getX m.val).sshiftRight ((s.getEngine le.val).getX n.val).toNat)]) .seq)) ∧
  (∀ (s : State) (le : Fin 16) (eob : Bool) (d : Fin 32) (imm : BitVec 19), (s.getEngine le.val).issues = true → 
    exec (.leLi le eob d imm) s = .next (s.stageOp le.val eob ([.x d.val (imm.signExtend 64)]) .seq)) ∧
  (∀ (s : State) (le : Fin 16) (eob : Bool) (d m : Fin 32) (w : Fin 65), (s.getEngine le.val).issues = true → 0 < w.val → 
    exec (.satw le eob d m w) s = .next (s.took.stageOp le.val eob ([.x d.val (BitVec.ofInt 64 (satInt w.val ((s.getEngine le.val).getX m.val).toInt))]) .seq)) ∧
  (∀ (s : State) (le : Fin 16) (eob : Bool) (d src : Fin 32), (s.getEngine le.val).issues = true → ((s.getEngine le.val).getX d.val).toInt < ((s.getEngine le.val).getX src.val).toInt → 
    exec (.maxi le eob d src) s = .next (s.stageOp le.val eob ([.x d.val ((s.getEngine le.val).getX src.val), .midx (s.getEngine le.val).index]) .seq)) ∧
  (∀ (s : State) (le : Fin 16) (eob : Bool) (d src : Fin 32), (s.getEngine le.val).issues = true → ((s.getEngine le.val).getX src.val).toInt < ((s.getEngine le.val).getX d.val).toInt → 
    exec (.mini le eob d src) s = .next (s.stageOp le.val eob ([.x d.val ((s.getEngine le.val).getX src.val), .nidx (s.getEngine le.val).index]) .seq)) ∧
  (∀ (s : State) (le : Fin 16) (eob : Bool) (d src : Fin 32), (s.getEngine le.val).issues = true → ((s.getEngine le.val).getX src.val) = 0 → 
    exec (.rcp le eob d src) s = .next (s.stageOp le.val eob ([.x d.val 0x7FFFFFFFFFFFFFFF, .esrOr 0x80]) .seq)) ∧
  (∀ (s : State) (le : Fin 16) (eob : Bool) (d src : Fin 32), (s.getEngine le.val).issues = true → ((s.getEngine le.val).getX src.val).toInt ≤ 0 → 
    exec (.rsq le eob d src) s = .next (s.stageOp le.val eob ([.x d.val 0x7FFFFFFFFFFFFFFF, .esrOr 0x80]) .seq)) ∧
  (∀ (s : State) (le : Fin 16) (eob : Bool) (d : Fin 32) (imm : BitVec 19), (s.getEngine le.val).issues = true → 
    exec (.leLui le eob d imm) s = .next (s.took.stageOp le.val eob ([.x d.val (BitVec.ofNat 64 s.fresh)]) .seq)) ∧
  (∀ (s : State) (le : Fin 16) (eob : Bool) (d m n : Fin 32), (s.getEngine le.val).issues = true → 
    exec (.leCmp le eob d m n) s = .next (s.took.stageOp le.val eob ([.x d.val (BitVec.ofNat 64 s.fresh)]) .seq)) ∧
  (∀ (s : State) (le : Fin 16) (eob : Bool) (d src : Fin 32), (s.getEngine le.val).issues = true → ((s.getEngine le.val).getX src.val).toInt ≤ ((s.getEngine le.val).getX d.val).toInt → 
    exec (.maxi le eob d src) s = .next (s.stageOp le.val eob ([]) .seq)) ∧
  (∀ (s : State) (le : Fin 16) (eob : Bool) (d src : Fin 32), (s.getEngine le.val).issues = true → ((s.getEngine le.val).getX d.val).toInt ≤ ((s.getEngine le.val).getX src.val).toInt → 
    exec (.mini le eob d src) s = .next (s.stageOp le.val eob ([]) .seq)) ∧
  (∀ (s : State) (le : Fin 16) (eob : Bool) (d src : Fin 32), (s.getEngine le.val).issues = true → ((s.getEngine le.val).getX src.val) ≠ 0 → 
    exec (.rcp le eob d src) s = .next (s.stageOp le.val eob ([.x d.val (seed16 (Int.fdiv (2 ^ 64) ((s.getEngine le.val).getX src.val).toInt))]) .seq)) ∧
  (∀ (s : State) (le : Fin 16) (eob : Bool) (d src : Fin 32), (s.getEngine le.val).issues = true → 0 < ((s.getEngine le.val).getX src.val).toInt → 
    exec (.rsq le eob d src) s = .next (s.stageOp le.val eob ([.x d.val (seed16 (isqrt (2 ^ 96 / ((s.getEngine le.val).getX src.val).toInt.toNat) 49 0 : Nat))]) .seq))

/-- Branches, loops, waits and control registers: LOOP, BR, BZ, BNZ, BLT, RET, RETI, WAITB, MFC, MTC, CLRF, NOP. Each clause gives the next
state from the state and the operands alone (R171, R175, R188, R191, R193, R200, R201, R212); the model's own choices in it are log entry
5. -/
def Obligations.LeControlOpsAct : Prop :=
  (∀ (s : State) (le : Fin 16) (eob : Bool) (l : Fin 2) (n : Fin 65536) (o : Fin 65536), (s.getEngine le.val).issues = true → (s.getEngine le.val).loopOn l.val = false → (l.val = 1 → (s.getEngine le.val).loopOn 0 = true) → (s.getEngine le.val).nearLoopEnd = false → 
    exec (.leLoop le eob l (.imm n) o) s = .next (s.stageOp le.val eob ([]) (.loop l.val (BitVec.ofNat 16 n.val) ((s.getEngine le.val).pc + BitVec.ofNat 16 o.val)))) ∧
  (∀ (s : State) (le : Fin 16) (eob : Bool) (l : Fin 2) (x : Fin 32) (n : Fin 65536) (o : Fin 65536), (s.getEngine le.val).issues = true → (s.getEngine le.val).loopOn l.val = false → (l.val = 1 → (s.getEngine le.val).loopOn 0 = true) → (s.getEngine le.val).nearLoopEnd = false → (((s.getEngine le.val).getX x.val).truncate 16 : BitVec 16).toNat ≤ n.val → 
    exec (.leLoop le eob l (.reg x n) o) s = .next (s.stageOp le.val eob ([]) (.loop l.val (((s.getEngine le.val).getX x.val).truncate 16) ((s.getEngine le.val).pc + BitVec.ofNat 16 o.val)))) ∧
  (∀ (s : State) (le : Fin 16) (eob : Bool) (off : BitVec 14), (s.getEngine le.val).issues = true → 
    exec (.br le eob off) s = .next (s.stageOp le.val eob ([]) (.branch ((s.getEngine le.val).pc + off.signExtend 16)))) ∧
  (∀ (s : State) (le : Fin 16) (eob : Bool) (src : Fin 32) (off : BitVec 14), (s.getEngine le.val).issues = true → ((s.getEngine le.val).getX src.val) = 0 → 
    exec (.bz le eob src off) s = .next (s.stageOp le.val eob ([]) (.branch ((s.getEngine le.val).pc + off.signExtend 16)))) ∧
  (∀ (s : State) (le : Fin 16) (eob : Bool) (src : Fin 32) (off : BitVec 14), (s.getEngine le.val).issues = true → ((s.getEngine le.val).getX src.val) ≠ 0 → 
    exec (.bz le eob src off) s = .next (s.stageOp le.val eob ([]) .seq)) ∧
  (∀ (s : State) (le : Fin 16) (eob : Bool) (src : Fin 32) (off : BitVec 14), (s.getEngine le.val).issues = true → ((s.getEngine le.val).getX src.val) ≠ 0 → 
    exec (.bnz le eob src off) s = .next (s.stageOp le.val eob ([]) (.branch ((s.getEngine le.val).pc + off.signExtend 16)))) ∧
  (∀ (s : State) (le : Fin 16) (eob : Bool) (src : Fin 32) (off : BitVec 14), (s.getEngine le.val).issues = true → ((s.getEngine le.val).getX src.val) = 0 → 
    exec (.bnz le eob src off) s = .next (s.stageOp le.val eob ([]) .seq)) ∧
  (∀ (s : State) (le : Fin 16) (eob : Bool) (src t : Fin 32) (off : BitVec 14), (s.getEngine le.val).issues = true → ((s.getEngine le.val).getX src.val).toInt < ((s.getEngine le.val).getX t.val).toInt → 
    exec (.blt le eob src t off) s = .next (s.stageOp le.val eob ([]) (.branch ((s.getEngine le.val).pc + off.signExtend 16)))) ∧
  (∀ (s : State) (le : Fin 16) (eob : Bool) (src t : Fin 32) (off : BitVec 14), (s.getEngine le.val).issues = true → ((s.getEngine le.val).getX t.val).toInt ≤ ((s.getEngine le.val).getX src.val).toInt → 
    exec (.blt le eob src t off) s = .next (s.stageOp le.val eob ([]) .seq)) ∧
  (∀ (s : State) (le : Fin 16) (eob : Bool), (s.getEngine le.val).issues = true → (s.getEngine le.val).loopOn 0 = false → (s.getEngine le.val).loopOn 1 = false → 
    exec (.ret le eob) s = .next (s.stageOp le.val eob ([]) .ret)) ∧
  (∀ (s : State) (le : Fin 16) (eob : Bool), (s.getEngine le.val).issues = true → 
    exec (.reti le eob) s = .next (s.stageOp le.val eob ([]) .reti)) ∧
  (∀ (s : State) (le : Fin 16) (eob : Bool), (s.getEngine le.val).issues = true → (s.getEngine le.val).bld = none → 
    exec (.waitb le eob) s = .next (s.stageOp le.val eob ([]) .seq)) ∧
  (∀ (s : State) (le : Fin 16) (eob : Bool), (s.getEngine le.val).issues = true → (s.getEngine le.val).bld.isSome = true → 
    exec (.waitb le eob) s = .next (s.waitOp le.val)) ∧
  (∀ (s : State) (le : Fin 16) (eob : Bool) (d : Fin 32) (r : CtrlReg), (s.getEngine le.val).issues = true → 
    exec (.mfc le eob d r) s = .next (s.stageOp le.val eob ([.x d.val ((s.getEngine le.val).ctrlVal r)]) .seq)) ∧
  (∀ (s : State) (le : Fin 16) (eob : Bool) (r : CtrlReg) (src : Fin 32), (s.getEngine le.val).issues = true → 
    exec (.mtc le eob r src) s = .next (s.stageOp le.val eob ([.ctrl r ((s.getEngine le.val).getX src.val)]) .seq)) ∧
  (∀ (s : State) (le : Fin 16) (eob : Bool) (mask : BitVec 24), (s.getEngine le.val).issues = true → 
    exec (.clrf le eob mask) s = .next (s.stageOp le.val eob ([.esrClear (mask.zeroExtend 32 &&& esrW1c)]) .seq)) ∧
  (∀ (s : State) (le : Fin 16) (eob : Bool), (s.getEngine le.val).issues = true → 
    exec (.nop le eob) s = .next (s.stageOp le.val eob ([]) .seq))

/-- Kernels, interrupts and ECC events: KERNEL_LOAD, KERNEL_UNLOAD, SVC_REQUEST, INTERRUPT_ENTRY, ECC_SCRUB. Each clause gives the next state
from the state and the operands alone (R192, R193, R205, R206, R208, R209, R211); the model's own choices in it are log entries 5, 6. -/
def Obligations.EngineHostActs : Prop :=
  (∀ (s : State) (ref : CmdRef) (image : List Byte), s.queuedFor ref 0x0440 = true → headerBad image = false →
    image.length = 64 + 16 * leField image 8 2 → badBundle (kernelOf image).code = none → overDeclared (kernelOf image) = false →
    s.host.kernels.length < 64 →
    exec (.kernelLoad ref image) s = .next ({ s.took with host := { s.host with
      kernels := mset s.host.kernels (s.newHandle (s.host.kernels.map Prod.fst)) (kernelOf image) {} } }.ok (cmdKey ref)
        (le4 (s.newHandle (s.host.kernels.map Prod.fst))))) ∧
  (∀ (s : State) (ref : CmdRef) (h : BitVec 32), s.queuedFor ref 0x0441 = true → s.host.kernels.any (fun x => x.1 == h.toNat) = true →
    s.kernelUsed h.toNat = false →
    exec (.kernelUnload ref h) s = .next ({ s with host := { s.host with kernels := mdel s.host.kernels h.toNat } }.ok (cmdKey ref))) ∧
  (∀ (s : State) (le : Fin 16), exec (.svcRequest le) s = .next (s.modEngine le.val (fun e => { e with svcPending := true }))) ∧
  (∀ (s : State) (le : Fin 16) (h : HookCtx) (a : BitVec 16), (s.getEngine le.val).issues = true →
    bitOf (s.getEngine le.val).esr.toNat 3 = true → bitOf (s.getEngine le.val).esr.toNat 4 = false → (s.getEngine le.val).delay = none →
    (s.getEngine le.val).staged = [] → (s.getEngine le.val).nearLoopEnd = false → (s.getEngine le.val).svcPending = false →
    (s.getEngine le.val).bldDone = true → (s.getEngine le.val).hook = some h → h.handler = some a →
    ∃ e, exec (.interruptEntry le) s = .next (s.setEngine le.val e) ∧ e.epc = (s.getEngine le.val).pc ∧ e.pc = a ∧
      e.bldDone = false ∧ e.esr = ((s.getEngine le.val).esr &&& ~~~ 0x8#32) ||| 0x10#32 ∧ e.cyc = (s.getEngine le.val).cyc + 4 ∧
      e.mem = (s.getEngine le.val).mem ∧ e.x = (s.getEngine le.val).x ∧ e.acc = (s.getEngine le.val).acc) ∧
  (∀ (s : State) (le : Fin 16), exec (.eccScrub le .clean) s = .next s) ∧
  (∀ (s : State) (le : Fin 16) (a : Nat), exec (.eccScrub le (.double a)) s = .next (s.memError le.val a)) ∧
  (∀ (s : State) (le : Fin 16) (a : Nat), exec (.eccScrub le (.single a)) s = .next (s.bump (epEngine le.val) C.leEccCorr))

/-- ADD, SUB, ADDI, AND, OR, XOR, LI, MFC and LD as the only operation of a bundle write their result to Xd when the bundle ends and
change no other register, no accumulator and no byte of memory (R171, R173, R175). -/
def Obligations.LeRegisterResults : Prop :=
  ∀ (s : State) (le : Fin 16) (d m n : Fin 32), s.sound = true → (s.getEngine le.val).between = true →
    (∃ t, exec (.leAdd le true d m n) s = .next t ∧ wroteX s t le.val d.val ((s.getEngine le.val).getX m.val + (s.getEngine le.val).getX n.val)) ∧
    (∃ t, exec (.leSub le true d m n) s = .next t ∧ wroteX s t le.val d.val ((s.getEngine le.val).getX m.val - (s.getEngine le.val).getX n.val)) ∧
    (∃ t, exec (.leAnd le true d m n) s = .next t ∧ wroteX s t le.val d.val ((s.getEngine le.val).getX m.val &&& (s.getEngine le.val).getX n.val)) ∧
    (∃ t, exec (.leOr le true d m n) s = .next t ∧ wroteX s t le.val d.val ((s.getEngine le.val).getX m.val ||| (s.getEngine le.val).getX n.val)) ∧
    (∃ t, exec (.leXor le true d m n) s = .next t ∧ wroteX s t le.val d.val ((s.getEngine le.val).getX m.val ^^^ (s.getEngine le.val).getX n.val)) ∧
    (∀ imm : BitVec 14, ∃ t, exec (.leAddi le true d m imm) s = .next t ∧
      wroteX s t le.val d.val ((s.getEngine le.val).getX m.val + imm.signExtend 64)) ∧
    (∀ imm : BitVec 19, ∃ t, exec (.leLi le true d imm) s = .next t ∧ wroteX s t le.val d.val (imm.signExtend 64)) ∧
    (∀ r : CtrlReg, ∃ t, exec (.mfc le true d r) s = .next t ∧ wroteX s t le.val d.val ((s.getEngine le.val).ctrlVal r)) ∧
    (∀ imm : BitVec 14, (s.getEngine le.val).addr m imm + 8 ≤ leMemBytes → ∃ t, exec (.ld le true d m ⟨imm, .clean⟩) s = .next t ∧
      wroteX s t le.val d.val (s.load64 le.val ((s.getEngine le.val).addr m imm)))

/-- MAC, MSU, MUL and CLR as the only operation of a bundle write their accumulator when the bundle ends and change no other
accumulator, no general register and no byte of memory (R173, R179, R181, R182). -/
def Obligations.LeAccumulatorResults : Prop :=
  ∀ (s : State) (le : Fin 16) (a : Fin 4) (m n : Fin 32), s.sound = true → (s.getEngine le.val).between = true →
    (∃ t, exec (.mac le true a m n) s = .next t ∧ wroteAcc s t le.val a.val
      (accAdd ((s.getEngine le.val).getAcc a.val) (((s.getEngine le.val).getX m.val).toInt * ((s.getEngine le.val).getX n.val).toInt)).1) ∧
    (∃ t, exec (.msu le true a m n) s = .next t ∧ wroteAcc s t le.val a.val
      (accAdd ((s.getEngine le.val).getAcc a.val) (-(((s.getEngine le.val).getX m.val).toInt * ((s.getEngine le.val).getX n.val).toInt))).1) ∧
    (∃ t, exec (.mul le true a m n) s = .next t ∧ wroteAcc s t le.val a.val
      { val := ((s.getEngine le.val).getX m.val).toInt * ((s.getEngine le.val).getX n.val).toInt, wrap := 0 }) ∧
    (∀ sh : Fin 144, ∃ t, exec (.clr le true a sh) s = .next t ∧ wroteAcc s t le.val a.val
      { val := if sh.val = 0 then 0 else 2 ^ (sh.val - 1), wrap := 0 })

/-- ST and STQ as the only operation of a bundle store below the reserved top of the memory: the bytes read back, and every other
byte, every register, every other engine and the bank are unchanged (R167, R170, R173). -/
def Obligations.LeStoreFrame : Prop :=
  ∀ (s : State) (le : Fin 16) (src b : Fin 32) (imm : BitVec 14), s.sound = true → (s.getEngine le.val).between = true →
    (s.getEngine le.val).hook = none →
    ((s.getEngine le.val).addr b imm + 8 ≤ 0x38000 → ∃ t, exec (.st le true src b imm) s = .next t ∧
      storedAt s t le.val ((s.getEngine le.val).addr b imm) (leBytes 8 ((s.getEngine le.val).getX src.val).toNat)) ∧
    ((s.getEngine le.val).addr b imm + 16 ≤ 0x38000 → ∃ t, exec (.stq le true src b imm) s = .next t ∧
      storedAt s t le.val ((s.getEngine le.val).addr b imm)
        (leBytes 8 ((s.getEngine le.val).getX src.val).toNat ++ leBytes 8 ((s.getEngine le.val).getX (src.val + 1)).toNat))

/-- The events of the stepper axes and the auxiliary drives: STEPPER_RELEASE, MICROSTEP, CHOPPER_TRIP, CHOPPER_TOFF_MAX, STEPPER_IDLE_TIMEOUT,
STEPPER_CURRENT_CONVERSION, STEPPER_PWM_PERIOD, STEPPER_ENABLE_RAMP_DONE, AUX_CURRENT_SAMPLE, AUX_ALIGN_DONE, AUX_START_TIMEOUT,
AUX_RETRY_DELAY, AUX_RETRY_RESET. Each clause gives the next state from the state and the operands alone (R303, R309, R310, R311, R420,
R422, R423, R427, R428, R430, R431, R441); the model's own choices in it are log entries 5, 95. -/
def Obligations.StepperAndAuxActs : Prop :=
  (∀ (s u : State) (ch : Fin 32) (m : Motion) (tk : Nat),
    tk = gridAtOrBefore (s.par (epStepper ch.val) P.stpPeriodTicks) (s.par (epStepper ch.val) P.stpPhaseTicks)
      (s.xt16 + stpRelUnits + tickUnits) →
    (s.getStepper ch.val).state = .enabled → (s.getStepper ch.val).tk < tk →
    s.setpointAt (epStepper ch.val) (ft16Of (tk + s.par (epStepper ch.val) P.stpPeriodTicks * tickUnits)) = (u, m, true) →
    exec (.stepperRelease ch) s = .next ((u.modStepper ch.val (fun c => { c with
      pk := if c.halted then (c.pk.1, 0) else c.pk1, pk1 := (m.p, m.v), tk := tk, halted := false, rateLimited := false
      starvedSince := none
      stillSince := if m.v = 0 ∧ (c.halted = true ∨ (c.pk1.2 = 0 ∧ c.pk1.1 = m.p)) then
        some (c.stillSince.getD (s.tick + (tk - s.xt16) / tickUnits)) else none })).trailRest
        (epStepper ch.val))) ∧
  (∀ (s : State) (ch : Fin 32) (d : Int), (s.getStepper ch.val).state = .enabled → (s.getStepper ch.val).halted = false →
    d = 1 ∨ d = -1 → s.stpTarget ch.val - (s.getStepper ch.val).count = d → 1 ≤ s.par (epStepper ch.val) P.stpBacklogMax →
    (s.getStepper ch.val).holdCurrent = false → s.passed (s.getStepper ch.val).stepTick (nsTicks 500) = true →
    exec (.microstep ch) s = .next (((s.modStepper ch.val (fun c => { c with rateLimited := c.rateLimited || false, behind := false })).modStepper ch.val
      (fun c => { c with
        count := (s.getStepper ch.val).count + d, stepTick := s.tick, stillSince := none
        steps := ((s.xt16, (s.getStepper ch.val).count + d, c.count) :: c.steps).take 4096 })).stpSetCoils ch.val true)) ∧
  (∀ (s u : State) (ch : Fin 32) (b : Bool), u = s.fastOver ch.val b → u.chopping ch.val = true →
    ((u.getStepper ch.val).coil b).bridge ≠ .inactive → ((u.getStepper ch.val).coil b).off = false →
    u.passed ((u.getStepper ch.val).coil b).changed (nsTicks (u.parF (epStepper ch.val) P.stpBlank)) = true →
    exec (.chopperTrip ch b) s = .next (u.coilOff ch.val b)) ∧
  (∀ (s : State) (ch : Fin 32) (b : Bool), s.chopping ch.val = true → ((s.getStepper ch.val).coil b).bridge ≠ .inactive →
    ((s.getStepper ch.val).coil b).off = true →
    s.passed ((s.getStepper ch.val).coil b).since (usTicks (s.parF (epStepper ch.val) P.stpToffMax)) = true →
    exec (.chopperToffMax ch b) s = .next ((s.coilOn ch.val b).bump (epStepper ch.val) C.stpToffMax)) ∧
  (∀ (s : State) (ch : Fin 32) (t : Nat), (s.getStepper ch.val).state = .enabled → (s.getStepper ch.val).stillSince = some t →
    (s.getStepper ch.val).holdCurrent = false → s.passed t (msTicks (s.parF (epStepper ch.val) P.stpIdleTime)) = true →
    exec (.stepperIdleTimeout ch) s = .next ((s.stpRampTo ch.val (s.parF (epStepper ch.val) P.stpIHold) true).stpSetCoils ch.val)) ∧
  (∀ (s : State) (ch : Fin 32) (b : Bool) (code : Fin 4096), (s.getStepper ch.val).state = .enabled →
    (s.stpSetCoils ch.val).parF (epStepper ch.val) P.stpIOvercurrent < rabs (s.stpAmpsOf ch.val code.val) →
    exec (.stepperCurrentConversion ch b code) s = .next ((s.stpSetCoils ch.val).stpFault ch.val [1])) ∧
  (∀ (s : State) (ch : Fin 32) (b : Bool), (s.getStepper ch.val).state = .enabled → s.par (epStepper ch.val) P.stpRegMode = 1 →
    ∃ x m : Rat, m = (s.stpSetCoils ch.val).parF (epStepper ch.val) P.stpDutyMax ∧
      exec (.stepperPwmPeriod ch b) s = .next (((s.stpSetCoils ch.val).modCoil ch.val b (fun k => { k with
        duty := rclamp (-m) m x, clamped := decide (m < rabs x), bridge := driveSign (rclamp (-m) m x) })).modStepper ch.val
          (fun c => { c with dutyLimited := decide (m < rabs x) }))) ∧
  (∀ (s : State) (ch : Fin 32) (a b : Rat) (t : Nat), (s.getStepper ch.val).state = .enabling →
    (s.getStepper ch.val).ramp = some (a, b, t) → s.passed t (msTicks (s.parF (epStepper ch.val) P.stpIRamp)) = true →
    (s.getStepper ch.val).everEnabled = true →
    exec (.stepperEnableRampDone ch) s = .next ((((((s.modStepper ch.val (fun c => { c with
      state := .enabled, everEnabled := true, ramp := none, halted := true, stillSince := some s.tick, tk := 0 })).openTrail
        (epStepper ch.val)).beginPublications (epStepper ch.val)).stpSetCoils ch.val).complete (epStepper ch.val) opEnable E.ok))) ∧
  (∀ (s t : State) (j : Fin 16) (c d : Int) (u : Nat),
    u = gridAtOrBefore (s.par (epAux j.val) P.auxPeriodTicks) (s.par (epAux j.val) P.auxPhaseTicks) s.xt16 →
    (s.getAux j.val).state ≠ .off → (s.getAux j.val).state ≠ .faulted → (s.getAux j.val).pwm.sample = 0 →
    t = ((s.modAux j.val (fun a => { a with
      sub := (a.sub + 1) % 4, pwm := { a.pwm with
        updateXt := u, period := s.par (epAux j.val) P.auxPeriodTicks * tickUnits, sample := a.pwm.sample + 1 } })).auxSampleFaults j.val).auxSwitch j.val →
    (t.getAux j.val).state.driven = true →
    exec (.auxCurrentSample j c d) s = .next (
      let v := (t.auxMeasure j.val c d).auxWatch j.val
      (if (v.getAux j.val).sub = 0 ∧ (v.getAux j.val).state.speedLoop = true then v.auxSpeedLoop j.val ((v.auxCfg j.val).t * 4)
        else v).auxCurrentLoop j.val ((t.getAux j.val).state == .hold))) ∧
  (∀ (s : State) (j : Fin 16), (s.getAux j.val).state = .align →
    s.passed (s.getAux j.val).since (msTicks (s.parF (epAux j.val) P.auxAlignTime)) = true →
    exec (.auxAlignDone j) s = .next ((s.modAux j.val (fun a => { a with olAngle := 0, olSpeed := 0, handoverFrom := none })).auxEnter
      j.val .openLoop)) ∧
  (∀ (s : State) (j : Fin 16) (t : Nat), (s.getAux j.val).handoverFrom = some t → s.expired t (msTicks 200) = true →
    (s.getAux j.val).foc.obs.locked = false → exec (.auxStartTimeout j) s = .next (s.auxFault j.val [1])) ∧
  (∀ (s : State) (j : Fin 16), (s.getAux j.val).state = .retryWait →
    s.passed (s.getAux j.val).since (msTicks (1000 * s.parF (epAux j.val) P.auxRetryDelay)) = true →
    exec (.auxRetryDelay j) s = .next ((s.auxStandby j.val).bump (epAux j.val) C.auxRetry)) ∧
  (∀ (s : State) (j : Fin 16), (s.getAux j.val).state = .run → s.passed (s.getAux j.val).since (msTicks 60000) = true →
    exec (.auxRetryReset j) s = .next (s.setAux j.val { s.getAux j.val with retries := 0 })) ∧
  (∀ (s u : State) (ch : Fin 32) (b : Bool), u = s.fastOver ch.val b → u.chopping ch.val = true →
    ((u.getStepper ch.val).coil b).bridge ≠ .inactive → ((u.getStepper ch.val).coil b).off = true →
    u.passed ((u.getStepper ch.val).coil b).changed (nsTicks (u.parF (epStepper ch.val) P.stpBlank)) = true →
    u.passed ((u.getStepper ch.val).coil b).since (nsTicks (u.parF (epStepper ch.val) P.stpToffMin)) = true →
    exec (.chopperTrip ch b) s = .next ((u.modCoil ch.val b (fun k => { k with fast := false })).coilOn ch.val b)) ∧
  (∀ (s : State) (ch : Fin 32) (b : Bool) (code : Fin 4096), (s.getStepper ch.val).state = .enabled →
    rabs (s.stpAmpsOf ch.val code.val) ≤ (s.stpSetCoils ch.val).parF (epStepper ch.val) P.stpIOvercurrent →
    exec (.stepperCurrentConversion ch b code) s = .next (
      if (s.stpSetCoils ch.val).par (epStepper ch.val) P.stpRegMode = 0
      then (((s.stpSetCoils ch.val).modCoil ch.val b (fun k => { k with
        fast := k.fast && decide (rabs k.set_ < rabs (s.stpAmpsOf ch.val code.val)) })).adaptOffset ch.val b
          (s.stpAmpsOf ch.val code.val)).stpSetCoils ch.val
      else (s.stpSetCoils ch.val).piCorrect ch.val b (s.stpAmpsOf ch.val code.val)))

/-- The axis commands, one clause per class of axis: AXIS_ENABLE, AXIS_DISABLE, STOP. Each clause gives the next state from the state and the
operands alone (R240, R554); the model's own choices in it are log entries 5, 6. -/
def Obligations.AxisCommandsAct : Prop :=
  (∀ (s t : State) (ref : CmdRef) (ep : BitVec 16) (i : Nat) (le : Nat), s.queuedFor ref 0x0301 = true → classOf ep.toNat = some (.servo, i) → (s.getLoop i).state = .disabled →
    s.awaits i opEnable = false → (s.getFlags i).sto = false → (s.getFlags i).gateFault = false →
    s.parF i P.dcMin ≤ s.servoVdc i → s.synchronised i = false → s.comboFails i = false →
    s.attachBad i ([0, 1, 2, 3].map (fun p => s.par i P.hookKernel p)) = false → s.chooseEngine i = some le →
    t = ((((s.placeAxis le i).attachHooks i).zeroHookData i).setRecord i []).await (cmdKey ref) i opEnable → t.par i P.fbSource ≠ 3 →
    exec (.axisEnable ref ep) s = .next (t.beginEnabling i)) ∧
  (∀ (s : State) (ref : CmdRef) (ep : BitVec 16) (i : Nat) (c : Byte), s.queuedFor ref 0x0302 = true → classOf ep.toNat = some (.servo, i) →
    c.toNat ≤ 1 → (s.getLoop i).state = .enabled →
    exec (.axisDisable ref ep c) s = .next (((s.requestStop i { cat := c.toNat }).modLoop i (fun l => { l with
      disablePending := true })).await (cmdKey ref) i opDisable)) ∧
  (∀ (s : State) (ref : CmdRef) (ep : BitVec 16) (cat : Byte), s.queuedFor ref 0x0510 = true → cat.toNat ≤ 2 → ep.toNat < 0x20 → stoppable ep.toNat = true →
    (s.getLoop ep.toNat).state = .enabled →
    exec (.stop ref ep cat) s = .next ((s.requestStop ep.toNat { cat := cat.toNat }).await (cmdKey ref) ep.toNat opStop)) ∧
  (∀ (s : State) (ref : CmdRef) (ep : BitVec 16) (i : Nat), s.queuedFor ref 0x0301 = true → classOf ep.toNat = some (.stepper, i) → (s.getStepper i).state = .disabled →
    (s.getStepper i).sto = false → s.parF (epStepper i) P.stpDcMin ≤
      s.vdcOf (s.par (epStepper i) P.stpDcInput) (Config.dcFullscale (s.par (epStepper i) P.stpDcInput)) →
    s.synchronised (epStepper i) = false → s.comboFails (epStepper i) = false →
    exec (.axisEnable ref ep) s = .next ((s.stpBegin i).await (cmdKey ref) (epStepper i) opEnable)) ∧
  (∀ (s : State) (ref : CmdRef) (ep : BitVec 16) (j : Nat), s.queuedFor ref 0x0301 = true → classOf ep.toNat = some (.aux, j) → (s.getAux j).state = .off →
    (s.getAux j).sto = false → (s.getAux j).gateFault = false → s.parF (epAux j) P.auxDcMin ≤
      s.vdcOf (s.par (epAux j) P.auxDcInput) (Config.dcFullscale (s.par (epAux j) P.auxDcInput)) →
    s.comboFails (epAux j) = false →
    exec (.axisEnable ref ep) s = .next ((s.auxOn j).ok (cmdKey ref))) ∧
  (∀ (s : State) (ref : CmdRef) (ep : BitVec 16) (i : Nat), s.queuedFor ref 0x0301 = true → classOf ep.toNat = some (.virt, i) → (s.getVirt i).state = .disabled →
    s.synchronised (epVirt i) = false → s.comboFails (epVirt i) = false →
    exec (.axisEnable ref ep) s = .next (((((s.setVirt i { s.getVirt i with
      state := .enabled, stop := none, disablePending := false, starvedSince := none, sp := ((s.getVirt i).sp.1, 0, 0)
      sampleXt := gridAtOrBefore (s.par (epVirt i) P.vaPeriodTicks) (s.par (epVirt i) P.vaPhaseTicks) s.xt16 }).modTrail
        (epVirt i) (fun t => { t with lastNum := 0, lastWaymark := 0 })).openTrail (epVirt i)).beginPublications
          (epVirt i)).ok (cmdKey ref))) ∧
  (∀ (s : State) (ref : CmdRef) (ep : BitVec 16) (i : Nat), s.queuedFor ref 0x0301 = true → classOf ep.toNat = some (.remote, i) → (s.getRemote i).state = .disabled →
    s.synchronised (epRemote i) = false → s.comboFails (epRemote i) = false →
    exec (.axisEnable ref ep) s = .next ((s.setRemote i { s.getRemote i with
      state := .enabling, stopBit := false, enableTick := some s.tick, fbTick := s.tick }).await (cmdKey ref) (epRemote i) opEnable)) ∧
  (∀ (s : State) (ref : CmdRef) (ep : BitVec 16) (i : Nat) (c : Byte), s.queuedFor ref 0x0302 = true → classOf ep.toNat = some (.servo, i) → c.toNat ≤ 1 →
    (s.getLoop i).state = .enabling →
    exec (.axisDisable ref ep c) s = .next ((s.await (cmdKey ref) i opDisable).enterDisabled i)) ∧
  (∀ (s : State) (ref : CmdRef) (ep : BitVec 16) (i : Nat) (c : Byte), s.queuedFor ref 0x0302 = true → classOf ep.toNat = some (.servo, i) → c.toNat ≤ 1 →
    (s.getLoop i).state = .faulted →
    exec (.axisDisable ref ep c) s = .next (((s.fbOff i).modLoop i (fun l => { l with
      state := .disabled, disablePending := false })).ok (cmdKey ref))) ∧
  (∀ (s : State) (ref : CmdRef) (ep : BitVec 16) (i : Nat) (c : Byte), s.queuedFor ref 0x0302 = true → classOf ep.toNat = some (.stepper, i) → c.toNat ≤ 1 →
    (s.getStepper i).state ≠ .disabled →
    exec (.axisDisable ref ep c) s = .next ((s.stpDisable i (min c.toNat 1)).ok (cmdKey ref))) ∧
  (∀ (s : State) (ref : CmdRef) (ep : BitVec 16) (j : Nat) (c : Byte), s.queuedFor ref 0x0302 = true → classOf ep.toNat = some (.aux, j) → c.toNat ≤ 1 →
    (s.getAux j).state ≠ .off →
    exec (.axisDisable ref ep c) s = .next ((s.auxOff j).ok (cmdKey ref))) ∧
  (∀ (s : State) (ref : CmdRef) (ep : BitVec 16) (cat : Byte), s.queuedFor ref 0x0510 = true → cat.toNat ≤ 2 → 0x20 ≤ ep.toNat →
    stoppable ep.toNat = true → isGroupEp ep.toNat = true →
    exec (.stop ref ep cat) s = .next ((s.stopGroup (ep.toNat - epGroup 0) cat.toNat).ok (cmdKey ref) (leFt8 s.ft8))) ∧
  (∀ (s : State) (ref : CmdRef) (ep : BitVec 16) (cat : Byte), s.queuedFor ref 0x0510 = true → cat.toNat ≤ 2 → 0x20 ≤ ep.toNat →
    stoppable ep.toNat = true → isGroupEp ep.toNat = false →
    exec (.stop ref ep cat) s = .next ((s.stopOther ep.toNat cat.toNat).ok (cmdKey ref) (leFt8 (s.stopFt8 ep.toNat))))

/-- The trail commands and events: TRAIL_APPEND, TRAIL_LIMITS, TRAIL_CANCEL, POS_SET, HOME, TRAIL_PLANNED, TRAIL_CHANGE_INSTANT,
PLANNER_SEGMENT_WRITE, WAYMARK_PASSED, GROUP_SEGMENT_SEND, GROUP_SEGMENT_RX, VIRTUAL_AXIS_SAMPLE. Each clause gives the next state from
the state and the operands alone (R316, R320, R321, R322, R330, R337, R339, R344, R348, R355, R360, R374); the model's own choices in it
are log entries 5, 6, 93. -/
def Obligations.TrailActs : Prop :=
  (∀ (s : State) (ref : CmdRef) (ep : BitVec 16) (moves : List MoveRec), s.queuedFor ref 0x0500 = true →
    let k := cmdKey ref
    let e := ep.toNat
    let t := s.getTrail e
    let ms := withEnds (s.trailEnd e) moves
    let vs := s.appendVecs (e - 0x1F40) moves
    let grp := isGroupEp e
    (!hasTrail e) = false →
    (!s.trailOpen e) = false →
    (moves.any (moveMalformed grp)) = false →
    (moves.isEmpty || decide (8 < moves.length) || moves.any (s.moveRange e)) = false →
    ((ms.zip vs).any (fun x => s.moveSoft e x.1 x.2)) = false →
    (!s.trailEnabled e || t.state == .stopping || t.state == .homing || s.uncertainOf e || (ms.zip vs).any (fun x => s.towardLimit e x.1 x.2)) = false →
    (moves.any s.moveLate) = false →
    ((ms.zip vs).zipIdx.any (fun x => s.absAtBad e (t.moves.isEmpty && x.2 == 0) x.1.1 x.1.2)) = false →
    (decide (64 < t.moves.length + moves.length)) = false →
    exec (.trailAppend ref ep moves) s = .next (
      let s := if t.reportDue.isSome then
          (if grp then s.took.writeReport e (Int.ofNat s.fresh) false else s.writeReport e (s.posOf e) false) else s
      let new := numbered t.lastNum ms
      let first := nextNum t.lastNum
      (s.run k).modTrail e (fun t => { t with
        moves := t.moves ++ new, lastNum := (new.getLast?.map (·.num)).getD t.lastNum, state := .running
        softLimited := false, appendCmds := t.appendCmds ++ [(k, first)] }))) ∧
  (∀ (s : State) (ref : CmdRef) (ep : BitVec 16) (scope mask : Byte) (aMax dMax jerk : F32) (b : Nat), s.queuedFor ref 0x0502 = true →
    b = s.changeInstant (s.gridEp ep.toNat) →
    s.limitsMeet ep.toNat b scope.toNat mask.toNat aMax dMax jerk = true ∨ (s.getTrail ep.toNat).moves = [] →
    hasTrail ep.toNat = true → s.trailOpen ep.toNat = true →
    (s.getTrail ep.toNat).state = .running ∨ (s.getTrail ep.toNat).state = .idle → scope.toNat ≤ 1 → mask.toNat ≤ 7 →
    (bitOf mask.toNat 0 = true →
      limitBad aMax (if isGroupEp ep.toNat then f32Val aMax.toNat else s.parF ep.toNat P.trjALimit) = false) →
    (bitOf mask.toNat 1 = true →
      limitBad dMax (if isGroupEp ep.toNat then f32Val dMax.toNat else s.parF ep.toNat P.trjALimit) = false) →
    (bitOf mask.toNat 2 = true → f32Bad jerk.toNat = false ∧ 0 ≤ f32Val jerk.toNat ∧
      (s.parF ep.toNat P.trjJLimit = 0 ∨ f32Val jerk.toNat ≤ s.parF ep.toNat P.trjJLimit)) →
    exec (.trailLimits ref ep scope mask aMax dMax jerk {}) s = .next ((s.modTrail ep.toNat (fun t => { t with
      change := some (b, .limits scope.toNat mask.toNat aMax dMax jerk) })).ok (cmdKey ref) (leFt8 (ft8Of b)))) ∧
  (∀ (s : State) (ref : CmdRef) (ep : BitVec 16) (mode : Byte), s.queuedFor ref 0x0501 = true →
    let k := cmdKey ref
    let e := ep.toNat
    let t := s.getTrail e
    (!hasTrail e) = false →
    (decide (1 < mode.toNat)) = false →
    (!s.trailOpen e || t.state == .stopping || t.state == .closed || (t.state == .homing && mode == 0)) = false →
    exec (.trailCancel ref ep mode) s = .next (
      if t.state = .idle ∨ (t.state = .running ∧ t.moves.isEmpty = true) then
        (if isGroupEp e then s.took else s).ok k
          (if mode = 0 then leBytes 4 0 else le8 (if isGroupEp e then Int.ofNat s.fresh else s.restingPoint e))
      else
        let b := s.changeInstant (s.gridEp e)
        let wm := if mode ≠ 0 then 0 else if isGroupEp e then s.groupCancelWaymark (e - 0x1F40) b else s.cancelWaymark e b
        let lim := s.nowLimits e
        let rest := if isGroupEp e then Int.ofNat s.fresh else restPoint (s.plannedAt e b) lim.1 lim.2
        let s := (if isGroupEp e then s.took else s).modTrail e (fun t => { t with change := some (b, .cancel mode.toNat wm) })
        s.ok k (if mode = 0 then leBytes 4 wm.toNat else le8 rest))) ∧
  (∀ (s : State) (ref : CmdRef) (ep : BitVec 16) (pos : Q32), s.queuedFor ref 0x0521 = true →
    let k := cmdKey ref
    let e := ep.toNat
    let rest := (s.getTrail e).state == .idle && s.atStandstill e
    (!hasTrail e || isGroupEp e) = false →
    (!(rest || s.axisStateOf e == .disabled)) = false →
    exec (.posSet ref ep pos) s = .next ((s.setPos e pos).ok k)) ∧
  (∀ (s : State) (ref : CmdRef) (ep : BitVec 16), s.queuedFor ref 0x0520 = true →
    let k := cmdKey ref
    let e := ep.toNat
    let t := s.getTrail e
    let mode := s.par e P.homeMode
    (!hasTrail e || isGroupEp e) = false →
    (!s.trailIsSource e || s.axisStateOf e != .enabled || t.state != .idle || (mode == 0 && !s.atStandstill e)) = false →
    (s.homeNeeds e) = false →
    exec (.home ref ep) s = .next (
      if mode = 0 then
        let p := s.parQ e P.homePosition
        let was := s.posOf e
        let s := (s.setPos e p).modTrail e (fun t => { t with homeResult := .homed })
        let s := s.log e 0x0508 (dat 8 (q64 was))
        s.ok k (leBytes 8 1 ++ le8 was ++ leFt8 s.ft8)
      else
        let ph : HomePhase := if mode = 5 then .index else if s.homeActive e then .backoff else .fast
        (s.run k).setTrail e { t with
          state := .homing, phase := ph, phaseFrom := s.posOf e, homeResult := .none_, homeCmd := some k, homeEvent := none
          homePend := false, backFrom := none, edgesPos := [], edgesNeg := [] })) ∧
  (∀ (s : State) (ep : TrailEp) (t : Trail), s.getTrail (trailEp ep) = t →
    exec (.trailPlanned ep) s = .next (t.appendCmds.foldl (fun s c => s.ok c.1 (leBytes 4 c.2.toNat)) (s.setTrail (trailEp ep) { t with
      moves := t.moves.map (fun m => { m with planned := true }), appendCmds := [] }))) ∧
  (∀ (s : State) (ep : TrailEp) (b : Nat) (scope mask : Nat) (a d j : F32),
    (s.getTrail (trailEp ep)).change = some (b, .limits scope mask a d j) → b ≤ s.xt16 →
    exec (.trailChangeInstant ep) s = .next ((s.dropChange (trailEp ep)).modTrail (trailEp ep) (fun t => { t with
      moves := if scope = 0 then (t.moves.take 1).map (newLimits mask a d j) ++ t.moves.drop 1
        else t.moves.map (newLimits mask a d j) }))) ∧
  (∀ (s : State) (ep : TrailEp) (segs : List Seg), s.segsFit (s.getTrail (trailEp ep)) segs = true →
    (s.getFollower (trailEp ep)).state = .syncing ∨ (s.getFollower (trailEp ep)).state = .coupled →
    s.followerOk (trailEp ep) segs = true →
    exec (.plannerSegmentWrite ep segs) s = .next ((s.writeSegs (trailEp ep) segs).modFollower (trailEp ep) (fun f => { f with
      phaseMove := if segs.any (fun g => g.hold && (s.getFollower (trailEp ep)).phaseMove.any (fun p => near g.p0 p.1)) then none
        else f.phaseMove }))) ∧
  (∀ (s : State) (ep : TrailEp) (m : Move) (x : Ft16), s.waymarkAt (trailEp ep) = some (m, x) → bitOf m.rec_.flags.toNat 0 = false →
    isGroupEp (trailEp ep) = false → m.rec_.blend ≠ 1 →
    exec (.waymarkPassed ep) s = .next ((s.modTrail (trailEp ep) (fun t => { t with
      moves := t.moves.drop 1, lastWaymark := m.num, lastVec := [] })).bump (trailEp ep) C.trjMovesDone)) ∧
  (∀ (s : State) (g : Fin 32) (n : Fin 8) (b : Seg) (segs : List Seg) (fa : Nat), (s.groupMembers g.val)[n.val]? = some fa →
    s.localEp fa = none → (s.getTrail (epGroup g.val)).state = .running ∨ (s.getTrail (epGroup g.val)).state = .stopping →
    ((unitsOfNs (s.parF (epGroup g.val) P.groupLead * 1000000)).toNat : Int) ≤ ft16Diff b.tStart s.time.ft16 →
    exec (.groupSegmentSend g n (b :: segs)) s = .next { s with fabric := { s.fabric with
      sent := (fa / 8192, FabMsg.segments fa (b :: segs)) :: s.fabric.sent } }) ∧
  (∀ (s : State) (ep : TrailEp) (segs : List Seg), s.axisStateOf (trailEp ep) = .enabled →
    s.segsFit (s.getTrail (trailEp ep)) segs = true →
    exec (.groupSegmentRx ep segs) s = .next ((s.writeSegs (trailEp ep) segs).modTrail (trailEp ep) (fun t => { t with
      spanned := true }))) ∧
  (∀ (s u : State) (i : Fin 256) (m : Motion) (x : Nat),
    x = gridAtOrBefore (s.par (epVirt i.val) P.vaPeriodTicks) (s.par (epVirt i.val) P.vaPhaseTicks) s.xt16 →
    (s.getVirt i.val).state = .enabled → (s.getVirt i.val).sampleXt < x → (s.getVirt i.val).stop = none →
    s.setpointAt (epVirt i.val) (ft16Of x) = (u, m, true) →
    exec (.virtualAxisSample i) s = .next (((u.modVirt i.val (fun v => { v with
      sp := (m.p, m.v, m.a), sampleXt := x, starvedSince := none })).fireCrossings (epVirt i.val)
        (ft16Of (s.getVirt i.val).sampleXt) (s.getVirt i.val).sp.1 (ft16Of x) m.p).trailRest (epVirt i.val))) ∧
  (∀ (s : State) (ep : TrailEp) (b m : Nat) (w : BitVec 32), (s.getTrail (trailEp ep)).change = some (b, .cancel m w) → b ≤ s.xt16 →
    exec (.trailChangeInstant ep) s = .next ((s.dropChange (trailEp ep)).cancelAt (trailEp ep) b w)) ∧
  (∀ (s : State) (ep : TrailEp) (b m : Nat), (s.getTrail (trailEp ep)).change = some (b, .leave m) → b ≤ s.xt16 →
    exec (.trailChangeInstant ep) s = .next ((s.dropChange (trailEp ep)).leaveAt (trailEp ep) b m)) ∧
  (∀ (s : State) (ep : TrailEp) (g : Seg) (segs : List Seg), s.segsFit (s.getTrail (trailEp ep)) (g :: segs) = true →
    (s.getFollower (trailEp ep)).state = .decoupled → (s.getTrail (trailEp ep)).state = .running → s.groupOf (trailEp ep) = none →
    (s.planView (trailEp ep) (s.xtOfFt16 g.tStart)).profileOk (trailEp ep) (g :: segs) = true →
    (g :: segs).all (fun g => g.fol.isNone && (g.move == 0 || (s.getTrail (trailEp ep)).moves.any (fun m => m.num == g.move))) = true →
    s.lateSoft (trailEp ep) g = none →
    ∃ ends : Move → Move, exec (.plannerSegmentWrite ep (g :: segs)) s = .next ((s.writeSegs (trailEp ep) (g :: segs)).modTrail
      (trailEp ep) (fun t => { t with moves := t.moves.map ends, spanned := false })) ∧
        ∀ m, ends m = m ∨ ∃ p, ends m = { m with endPos := some p }) ∧
  (∀ (s : State) (ep : TrailEp) (n : Nat) (g : Seg) (segs : List Seg), s.segsFit (s.getTrail (trailEp ep)) (g :: segs) = true →
    (s.getFollower (trailEp ep)).state = .decoupled → s.groupOf (trailEp ep) = some n → (s.getTrail (epGroup n)).state = .running →
    (s.planView (epGroup n) (s.xtOfFt16 g.tStart)).memberOk n (trailEp ep) (g :: segs) = true →
    (g :: segs).all (fun g => g.fol.isNone) = true → s.lateSoft (trailEp ep) g = none →
    ∃ ends : Move → Move, exec (.plannerSegmentWrite ep (g :: segs)) s = .next ((s.writeSegs (trailEp ep) (g :: segs)).modTrail
      (trailEp ep) (fun t => { t with moves := t.moves.map ends, spanned := false })) ∧
        ∀ m, ends m = m ∨ ∃ p, ends m = { m with endPos := some p })

/-- The gearing commands: CAM_LOAD, CONVOY_JOIN, CONVOY_LEAVE, PHASE_MOVE. Each clause gives the next state from the state and the operands
alone (R389, R390, R394, R395, R396, R401, R405, R412, R421, R556); the model's own choices in it are log entries 5, 6. -/
def Obligations.ConvoyCommandsAct : Prop :=
  (∀ (s₀ : State) (ref : CmdRef) (ep : BitVec 16) (interp : Byte) (first total : BitVec 32) (pts : List CamPoint) (reach : Reach),
    let s := s₀
    s.goesOn ref 0x0600 = true →
    let k := cmdKey ref
    let c := ep.toNat - 0x600
    let t := s.getCam c
    let f := first.toNat
    let n := total.toNat
    let done := (s.cmd k).progress + reachUnits reach (pts.length - (s.cmd k).progress)
    let old := if f = 0 then [] else (t.points.zip (t.coefs ++ List.replicate t.points.length (0, 0, 0))).take f
    let oldPts : List CamPoint := old.map (fun x => { m := x.1.1, f := x.1.2, c1 := x.2.1, c2 := x.2.2.1, c3 := x.2.2.2 })
    let all := oldPts ++ pts
    let rising := (all.zip all.tail).all (fun ab => decide (ab.1.m < ab.2.m))
    let coefs := if all.length = n ∨ interp.toNat = 2 then camCoefs interp.toNat all else []
    0x600 ≤ ep.toNat → ep.toNat ≤ 0x6FF → interp.toNat ≤ 2 → 2 ≤ n → n ≤ 4097 →
    ¬ (rising && (coefs.dropLast.any coefBad || pts.any (fun p => coefBad (p.c1, p.c2, p.c3)))) → s.camNamed c = false →
    rising = true → all.head?.any (fun p => decide (p.m ≠ 0)) = false → f + pts.length ≤ n → oldPts.length = f →
    let got := oldPts ++ pts.take done
    let coefs := if got.length = n ∨ interp.toNat = 2 then camCoefs interp.toNat got else []
    let s := s.setCam c { interp := interp.toNat, points := got.map (fun p => (p.m, p.f)), coefs := coefs, total := n }
    exec (.camLoad ⟨ref, reach⟩ ep interp first total pts) s₀ = .next (
      s.unitsDone k reach (decide (pts.length ≤ done)) done (f + done) (le4 pts.length ++ le4 (f + pts.length)))) ∧
  (∀ (s₀ : State) (ref : CmdRef) (ep : BitVec 16) (j : JoinReq),
    let s := s₀
    s.queuedFor ref 0x0610 = true →
    let k := cmdKey ref
    let e := ep.toNat
    let map := j.map.toNat
    let f := s.getFollower e
    let info := s.convoyInfo j.convoy.toNat
    let s := s.took
    let tr := s.getTrail e
    let stp := decide (0x20 ≤ e) && decide (e ≤ 0x3F)
    let extra : Rat := if stp then (s.par e P.stpPeriodTicks : Rat) / 64 + 2 else 0
    let cam := j.cam.toNat - 0x600
    isFollowerEp e = true → map ≤ 2 → j.anchor.toNat ≤ 1 → ¬ (decide (8 ≤ j.stage.toNat) && j.stage != 0xFF) →
    posOrZero j.dist = true → ¬ (map != 2 && (decide (j.num = 0) || decide (j.den = 0))) →
    ¬ (map == 2 && !(decide (0x600 ≤ j.cam.toNat) && decide (j.cam.toNat ≤ 0x6FF))) → s.axisStateOf e = .enabled →
    ¬ (decide (e < 0x200) && tr.state != .idle && !(tr.state == .running && s.atVel e)) → s.time.state ≠ .unset →
    s.time.state ≠ .acquiring → f.state = .none_ → (s.groupOf e).isSome = false →
    ¬ (decide (e < 0x20) && s.mode e != (if map = 1 then 1 else 2)) → info.1 = true →
    2 + (info.2.2 : Rat) * (3 / 10) + 2 + extra ≤ info.2.1 → ¬ (j.stage != 0xFF && map != 1) →
    ¬ (map == 2 && !(s.getCam cam).valid) →
    let part : FolPart := { map := map, stage := j.stage.toNat, num := j.num, den := j.den }
    let join : Join := { absolute := j.anchor == 1, ma := j.ma, fa := j.fa, dist := toQ32 (f32Val j.dist.toNat)
                         at_ := if j.ft = 0 then none else some j.ft, cmd := some k
                         was := (s.par e P.gearNum, s.par e P.gearDen, f.lastSeq, f.cause) }
    let s := (s.run k).setFollower e { sp := f.sp, lastXt := f.lastXt, lastSeq := f.lastSeq, state := .waiting
                                       convoy := some j.convoy.toNat, map := some part, cam := cam
                                       camOrigin := j.camOrigin, join := some join }
    let s := if map = 2 then s else (s.setPar e P.gearNum 0 (lowBits 32 j.num)).setPar e P.gearDen 0 j.den
    exec (.convoyJoin ref ep j) s₀ = .next (s.sendRegister 3 j.convoy.toNat (s.fa e))) ∧
  (∀ (s : State) (ref : CmdRef) (ep : BitVec 16) (mode : Byte),
    s.queuedFor ref 0x0611 = true →
    let k := cmdKey ref
    let e := ep.toNat
    let st := (s.getFollower e).state
    isFollowerEp e = true → mode.toNat ≤ 1 → st == .waiting || st == .syncing || st == .coupled →
    let b := s.changeInstant e
    exec (.convoyLeave ref ep mode) s = .next (
      (s.modTrail e (fun t => { t with change := some (b, .leave mode.toNat) })).ok k (leFt8 (ft8Of b)))) ∧
  (∀ (s : State) (ref : CmdRef) (ep : BitVec 16) (dist : Q32) (v a j : F32),
    s.queuedFor ref 0x0612 = true →
    let k := cmdKey ref
    let e := ep.toNat
    let f := s.getFollower e
    isFollowerEp e = true → posOrZero v = true → posOrZero a = true → posOrZero j = true → f32Val v.toNat ≠ 0 →
    f32Val a.toNat ≠ 0 → f.state = .coupled → (f.map.map (·.map)) ≠ some 1 →
    let b := s.changeInstant e
    let target := (s.phaseAt e (ft16Of b) (s.getTrail e).nextGen).p + dist
    exec (.phaseMove ref ep dist v a j) s = .next (
      (s.setFollower e { f with phaseMove := some (target, v, a, j, b) }).ok k (leFt8 (ft8Of b))))

/-- Publications of a convoy and answers to its registration: CONVOY_PUBLISH, CONVOY_BOUNDARY_PUBLISH, CONVOY_SUPERSEDE, CONVOY_REPUBLISH,
REGISTER_ANSWER_RX, CONVOY_REGISTER_TIMEOUT. Each clause gives the next state from the state and the operands alone (R377, R378, R379,
R380, R406); the model's own choices in it are log entry 5. -/
def Obligations.ConvoyPublisherActs : Prop :=
  (∀ (s₀ : State) (cp : Fin 16),
    let s := s₀
    let c := cp.val
    ∀ ep, s.plannedMaster c = some ep →
    let n := s.par (epPub c) P.convPeriodTicks
    let ph := s.par (epPub c) P.convPhaseTicks
    let lead := (unitsOfNs (s.parF (epPub c) P.convLead * 1000)).toNat
    ∀ g, (s.getPublisher c).lastGrid = some g →
    let x := max (gridAtOrAfter n ph (g + 1)) (gridAtOrAfter n ph s.xt16)
    x - lead ≤ s.xt16 + tickUnits →
    let t := ft16Of x
    let m := s.masterAt ep t
    let s := s.publish c { stopping := (s.masterStop ep).isSome } t m.1 m.2
    exec (.convoyPublish cp) s₀ = .next (s.modPublisher c (fun p => { p with lastGrid := some x, boundaries := 0 }))) ∧
  (∀ (s₀ : State) (cp : Fin 16),
    let s := s₀
    let c := cp.val
    ∀ ep, s.plannedMaster c = some ep →
    let n := s.par (epPub c) P.convPeriodTicks
    let ph := s.par (epPub c) P.convPhaseTicks
    let lead := (unitsOfNs (s.parF (epPub c) P.convLead * 1000)).toNat
    (s.getPublisher c).lastGrid = none →
    let x := gridAtOrAfter n ph (s.xt16 + lead)
    x - lead ≤ s.xt16 + tickUnits →
    let t := ft16Of x
    let m := s.masterAt ep t
    let s := s.publish c { stopping := (s.masterStop ep).isSome } t m.1 m.2
    exec (.convoyPublish cp) s₀ = .next (s.modPublisher c (fun p => { p with lastGrid := some x, boundaries := 0 }))) ∧
  (∀ (s₀ : State) (cp : Fin 16) (tRef : Ft16),
    let s := s₀
    let c := cp.val
    ∀ ep, s.plannedMaster c = some ep →
    let x := s.xtOfFt16 tRef
    let begins := (s.getTrail ep).queue.any (fun g => g.tStart == tRef && g.fol.isNone)
    let onG := onGrid (s.par (epPub c) P.convPeriodTicks) (s.par (epPub c) P.convPhaseTicks) x
    let lead := (unitsOfNs (s.parF (epPub c) P.convLead * 1000)).toNat
    begins = true → onG = false → x - lead ≤ s.xt16 + tickUnits →
    (s.getPublisher c).last.any (fun p => p.tRef == tRef) = false → (s.getPublisher c).boundaries < 3 →
    let m := s.masterAt ep tRef
    let s := s.publish c { boundary := true, stopping := (s.masterStop ep).isSome } tRef m.1 m.2
    exec (.convoyBoundaryPublish cp tRef) s₀ = .next (s.modPublisher c (fun p => { p with boundaries := p.boundaries + 1 }))) ∧
  (∀ (s : State) (cp : Fin 16) (tRef : Ft16),
    let c := cp.val
    ∀ ep, s.plannedMaster c = some ep → ∀ l, (s.getPublisher c).last = some l →
    let m := s.masterAt ep tRef
    let was := pubAt l tRef
    (s.departures ep).contains tRef = true → ¬ (m.1.p == was.p && m.1.v == was.v && m.1.a == was.a) →
    exec (.convoySupersede cp tRef) s = .next (s.publish c { supersede := true, stopping := (s.masterStop ep).isSome } tRef m.1 m.2)) ∧
  (∀ (s : State) (cp : Fin 16) (pub : Pub),
    let c := cp.val
    let ep := s.par (epPub c) P.convMaster
    let f := s.getFollower ep
    ∀ g, f.map = some g → (s.getPublisher c).ended = false → f.convoy = some pub.convoy.toNat → g.map ≠ 2 →
    f.state == .syncing || f.state == .coupled → f.held.contains pub = true →
    let t := pub.tRef
    let e := (s.folEntry ep t 0).1.getD {}
    let o := segAt e t
    let m := pubAt pub t
    let r := f.reg
    let dt := secOf ((s.xtOfFt16 t : Int) - f.lastXt)
    let mo := mapped (e.fol.getD g) m o (ofQ32 r.o, ofQ32 r.v, 0) (stageFactor pub g.stage) f.sp.1 f.sp.2.1 dt 0 0 0 0
    let k : Rat := (g.num : Rat) / (g.den : Rat) * (if g.map = 1 then stageFactor pub g.stage else 1)
    let j := storeQ (k * pub.j0) + (if g.map = 1 then 0 else e.j0)
    exec (.convoyRepublish cp pub) s = .next (
      s.publish c { supersede := pub.supersede, boundary := pub.boundary, measured := pub.measured
                    stopping := pub.stopping, endFlag := pub.endFlag } t mo j)) ∧
  (∀ (s : State) (cp : Fin 16) (status : BitVec 16),
    ∀ n u₁ k, (s.getPublisher cp).registering = some (n, u₁, k) → status = E.ok →
    exec (.registerAnswerRx cp status) s = .next (
      (s.modPublisher cp (fun p => { p with registered := some n, registering := none })).registered k)) ∧
  (∀ (s : State) (cp : Fin 16) (status : BitVec 16),
    ∀ n u₁ k, (s.getPublisher cp).registering = some (n, u₁, k) → status ≠ E.ok →
    exec (.registerAnswerRx cp status) s = .next (s.registerFailed k status)) ∧
  (∀ (s : State) (cp : Fin 16),
    ∀ u₁ u₂ k, (s.getPublisher cp).registering = some (u₁, u₂, k) → s.registerDue cp = true →
    exec (.convoyRegisterTimeout cp) s = .next (s.registerFailed k E.faultFabric))

/-- The events of a follower and of a remote axis: CONVOY_FRAME_RX, CONVOY_LOCAL_DELIVERY, MASTER_STALE, CONVOY_JOIN_INSTANT, REG_MARK,
REMOTE_SETPOINT_SEND, REMOTE_FEEDBACK_RX, REMOTE_TIMEOUT, REMOTE_ENABLE_TIMEOUT. Each clause gives the next state from the state and the
operands alone (R372, R384, R388, R402, R403, R407, R408, R413, R414, R460); the model's own choices in it are log entry 5. -/
def Obligations.FollowerAndRemoteActs : Prop :=
  (∀ (s : State) (f : FolEp) (pub : Pub),
    exec (.convoyFrameRx f pub) s = .next (s.acceptPub (folEp f) pub)) ∧
  (∀ (s : State) (f : FolEp) (pub : Pub),
    s.fabric.sent.contains (0xFFFF, FabMsg.convoy pub) = true →
    exec (.convoyLocalDelivery f pub) s = .next (s.acceptPub (folEp f) pub)) ∧
  (∀ (s : State) (f : FolEp),
    let ep := folEp f
    let st := (s.getFollower ep).state
    st == .waiting || st == .syncing || st == .coupled → s.staleAt ep s.time.ft16 = true →
    exec (.masterStale f) s = .next (s.decouple ep (s.decoupleCauses ep s.time.ft16))) ∧
  (∀ (s : State) (fe : FolEp),
    let ep := folEp fe
    let f := s.getFollower ep
    f.state = .waiting → ∀ j, f.join = some j → ∀ g, f.map = some g → ∀ a, j.at_ = some a →
    let t := (a.zeroExtend 48 : Ft16) <<< 16
    ∀ p, f.inUse t = some p → ft16Diff t s.time.ft16 ≤ 0 →
    let m := pubAt p t
    let tr := s.getTrail ep
    ∀ x, (tr.sample t).1 = some x →
    let here : Motion := x
    let tb := s.getCam f.cam
    let ny := camPos (camCycle tb).1 f.camOrigin m.p
    let piece := camPiece tb (camIndex tb ny.2)
    let part : FolPart := if g.map = 2 then piece
      else if j.absolute then { g with ma := j.ma, fa := j.fa } else { g with ma := m.p, fa := here.p }
    let fBase : Q32 := if g.map ≠ 2 then 0 else if j.absolute then j.fa
      else here.p - ny.1 * (camCycle tb).2 - toQ32 (pieceAt piece ny.2).1
    let mo := mapped part m {} (0, 0, 0) (stageFactor p g.stage) here.p here.v 0 fBase (camCycle tb).2 ny.1 ny.2
    let tol := s.parF ep P.joinVelTol / s.unitOf ep
    j.dist = 0 → tol < rabs (ofQ32 (mo.v - here.v)) →
    exec (.convoyJoinInstant fe) s = .next (s.joinFails ep j g.map)) ∧
  (∀ (s₀ : State) (fe : FolEp) (stamp : Ft8),
    let s := s₀
    let ep := folEp fe
    let f := s.getFollower ep
    s.par ep P.regSource = 1 → f.marks.contains stamp = true →
    let f := { f with marks := f.marks.erase stamp }
    let s := s.setFollower ep f
    let t : Ft16 := (stamp.zeroExtend 48) <<< 8
    let before := f.held.all (fun p => decide (ft16Diff t p.tRef < 0))
    let mk := ofQ32 (((f.inUse t).map (fun p => (pubAt p t).p)).getD 0)
    let pitch := s.parF ep P.regPitch
    let e := floorMod (mk - s.parF ep P.regPhase + pitch / 2) pitch - pitch / 2
    s.parF ep P.regWindow < rabs e ∨ before = true ∨ f.state ≠ .coupled →
    exec (.regMark fe stamp) s₀ = .next ((s.bump ep C.gearRegReject).log ep 0x0603 (q64 (toQ32 e) + dat 8 stamp.toNat))) ∧
  (∀ (s₀ : State) (na : Fin 128),
    let s := s₀
    let i := na.val
    let ep := epRemote i
    let r := s.getRemote i
    let n := s.par ep P.remPeriodTicks
    let ph := s.par ep P.remPhaseTicks
    let lead := (unitsOfNs (s.parF ep P.remLead * 1000)).toNat
    let x := max (gridAtOrAfter n ph (r.lastXt + 1)) (gridAtOrAfter n ph s.xt16)
    s.par ep P.remAddress ≠ 0 → x - lead ≤ s.xt16 + tickUnits →
    let o := s.setpointAt ep (ft16Of x)
    let s := o.1
    let m := o.2.1
    let r := s.getRemote i
    let seq := r.seq + 1
    let flags := b2n (r.state == .enabling || r.state == .enabled) + 2 * b2n r.stopBit
    let s := s.modFollower ep (fun f => { f with sp := (m.p, m.v, m.a), lastXt := x })
    let s := s.setRemote i { r with seq := seq, sentSeqs := (seq :: r.sentSeqs).take 256, lastXt := x }
    let a := s.par ep P.remAddress
    s.par ep P.remTransport = 2 →
    let msg := FabMsg.relay 0 false (BitVec.ofNat 32 (bits a 31 0)) (BitVec.ofNat 16 (bits a 47 32)) (remoteBytes seq flags x m)
    exec (.remoteSetpointSend na) s₀ = .next (
      { s with fabric := { s.fabric with sent := (s.par ep P.remBridge, msg) :: s.fabric.sent } })) ∧
  (∀ (s : State) (na : Fin 128) (fb : RemFeedback),
    let i := na.val
    let ep := epRemote i
    let r := s.getRemote i
    let bad := fb.length != 32 || fb.version != 1 || decide (fb.status.toNat % 256 ≥ 4) || decide (65536 ≤ fb.status.toNat) ||
      !r.sentSeqs.contains fb.seq || fb.source.toNat != s.par ep P.remAddress
    bad = true →
    exec (.remoteFeedbackRx na fb) s = .next (s.bump ep C.gearRemDrop)) ∧
  (∀ (s₀ : State) (na : Fin 128),
    let s := s₀
    let i := na.val
    let ep := epRemote i
    let r := s.getRemote i
    r.state = .enabled → s.expired r.fbTick (msTicks (s.parF ep P.remTimeout)) = true →
    let seq := (r.feedback.map (·.seq)).getD 0
    let s := s.log ep 0x0604 seq.toNat
    exec (.remoteTimeout na) s₀ = .next ((s.modRemote i (fun r => { r with stopBit := true })).remoteFault i)) ∧
  (∀ (s : State) (na : Fin 128),
    let i := na.val
    let r := s.getRemote i
    r.state = .enabling → ∀ t, r.enableTick = some t →
    s.expired t (msTicks (s.parF (epRemote i) P.remEnableTimeout)) = true →
    exec (.remoteEnableTimeout na) s = .next (s.remoteFault i)) ∧
  (∀ (s₀ : State) (fe : FolEp),
    let s := s₀
    let ep := folEp fe
    let f := s.getFollower ep
    f.state = .waiting → ∀ j, f.join = some j → ∀ g, f.map = some g → j.at_ = none →
    let t := s.time.ft16
    ∀ p, f.inUse t = some p → ft16Diff t s.time.ft16 ≤ 0 →
    let m := pubAt p t
    let tr := s.getTrail ep
    ∀ x, (tr.sample t).1 = some x →
    let here : Motion := x
    let tb := s.getCam f.cam
    let ny := camPos (camCycle tb).1 f.camOrigin m.p
    let piece := camPiece tb (camIndex tb ny.2)
    let part : FolPart := if g.map = 2 then piece
      else if j.absolute then { g with ma := j.ma, fa := j.fa } else { g with ma := m.p, fa := here.p }
    let fBase : Q32 := if g.map ≠ 2 then 0 else if j.absolute then j.fa
      else here.p - ny.1 * (camCycle tb).2 - toQ32 (pieceAt piece ny.2).1
    let mo := mapped part m {} (0, 0, 0) (stageFactor p g.stage) here.p here.v 0 fBase (camCycle tb).2 ny.1 ny.2
    let tol := s.parF ep P.joinVelTol / s.unitOf ep
    ¬ (j.dist = 0 ∧ tol < rabs (ofQ32 (mo.v - here.v))) →
    let gen := (tr.usedGen.getD 0) + 1
    let hold : Seg := { tStart := t, hold := true, gen := gen, fol := some part }
    let q := if g.map = 2 then camEntries tb (camIndex tb ny.2) (decide (0 ≤ m.v)) t gen {} else [hold]
    let s := (s.closeTrail ep).modTrail ep (fun tr => { tr with queue := q })
    let s := if ep < 0x20 then s.modLoop ep (fun l => { l with holdAt := none }) else s
    let s := s.setFollower ep { f with
      state := .syncing, map := some { part with stage := g.stage }, fBase := fBase, cycle := ny.1
      sp := (here.p, here.v, 0), lastXt := s.xtOfFt16 t
      join := some { j with mj := m.p, pj := here.p, vj := here.v, tj := s.xtOfFt16 t, pos := decide (0 ≤ m.v) } }
    j.dist ≠ 0 →
    exec (.convoyJoinInstant fe) s₀ = .next s) ∧
  (∀ (s₀ : State) (fe : FolEp) (stamp : Ft8),
    let s := s₀
    let ep := folEp fe
    let f := s.getFollower ep
    s.par ep P.regSource = 1 → f.marks.contains stamp = true →
    let f := { f with marks := f.marks.erase stamp }
    let s := s.setFollower ep f
    let t : Ft16 := (stamp.zeroExtend 48) <<< 8
    let before := f.held.all (fun p => decide (ft16Diff t p.tRef < 0))
    let mk := ofQ32 (((f.inUse t).map (fun p => (pubAt p t).p)).getD 0)
    let pitch := s.parF ep P.regPitch
    let e := floorMod (mk - s.parF ep P.regPhase + pitch / 2) pitch - pitch / 2
    rabs e ≤ s.parF ep P.regWindow → before = false → f.state = .coupled →
    let s := s.bump ep C.gearRegAccept
    rabs e ≤ s.parF ep P.regDeadband →
    exec (.regMark fe stamp) s₀ = .next s) ∧
  (∀ (s₀ : State) (fe : FolEp) (stamp : Ft8),
    let s := s₀
    let ep := folEp fe
    let f := s.getFollower ep
    s.par ep P.regSource = 1 → f.marks.contains stamp = true →
    let f := { f with marks := f.marks.erase stamp }
    let s := s.setFollower ep f
    let t : Ft16 := (stamp.zeroExtend 48) <<< 8
    let before := f.held.all (fun p => decide (ft16Diff t p.tRef < 0))
    let mk := ofQ32 (((f.inUse t).map (fun p => (pubAt p t).p)).getD 0)
    let pitch := s.parF ep P.regPitch
    let e := floorMod (mk - s.parF ep P.regPhase + pitch / 2) pitch - pitch / 2
    rabs e ≤ s.parF ep P.regWindow → before = false → f.state = .coupled →
    let s := s.bump ep C.gearRegAccept
    s.parF ep P.regDeadband < rabs e →
    let c := camCycle (s.getCam f.cam)
    ∀ g, f.map = some g →
    let r : Rat := if g.map = 2 then (if c.1 = 0 then 0 else (c.2 : Rat) / c.1) else (g.num : Rat) / g.den
    let lim := s.parF ep P.regLimit
    let d := ofQ32 f.reg.demand - s.parF ep P.regGain * e * r
    let d' := rclamp (-lim) lim d
    exec (.regMark fe stamp) s₀ = .next (
      s.setFollower ep { f with reg := { f.reg with demand := toQ32 d', limited := decide (d' ≠ d) } })) ∧
  (∀ (s₀ : State) (na : Fin 128),
    let s := s₀
    let i := na.val
    let ep := epRemote i
    let r := s.getRemote i
    let n := s.par ep P.remPeriodTicks
    let ph := s.par ep P.remPhaseTicks
    let lead := (unitsOfNs (s.parF ep P.remLead * 1000)).toNat
    let x := max (gridAtOrAfter n ph (r.lastXt + 1)) (gridAtOrAfter n ph s.xt16)
    s.par ep P.remAddress ≠ 0 → x - lead ≤ s.xt16 + tickUnits →
    let o := s.setpointAt ep (ft16Of x)
    let s := o.1
    let m := o.2.1
    let r := s.getRemote i
    let seq := r.seq + 1
    let flags := b2n (r.state == .enabling || r.state == .enabled) + 2 * b2n r.stopBit
    let s := s.modFollower ep (fun f => { f with sp := (m.p, m.v, m.a), lastXt := x })
    let s := s.setRemote i { r with seq := seq, sentSeqs := (seq :: r.sentSeqs).take 256, lastXt := x }
    s.par ep P.remTransport ≠ 2 →
    exec (.remoteSetpointSend na) s₀ = .next (
      s.modRemote i (fun r => { r with frame := some (EthMsg.remote i seq flags x m.p m.v m.a) }))) ∧
  (∀ (s₀ : State) (na : Fin 128) (fb : RemFeedback),
    let s := s₀
    let i := na.val
    let ep := epRemote i
    let r := s.getRemote i
    let bad := fb.length != 32 || fb.version != 1 || decide (fb.status.toNat % 256 ≥ 4) || decide (65536 ≤ fb.status.toNat) ||
      !r.sentSeqs.contains fb.seq || fb.source.toNat != s.par ep P.remAddress
    bad = false →
    let s := s.setRemote i { r with feedback := some fb, fbTick := s.tick }
    r.state = .enabling → bitOf fb.status.toNat 0 = true →
    exec (.remoteFeedbackRx na fb) s₀ = .next (
      (s.modRemote i (fun r => { r with state := .enabled, enableTick := none })).complete ep opEnable E.ok)) ∧
  (∀ (s₀ : State) (na : Fin 128) (fb : RemFeedback),
    let s := s₀
    let i := na.val
    let ep := epRemote i
    let r := s.getRemote i
    let bad := fb.length != 32 || fb.version != 1 || decide (fb.status.toNat % 256 ≥ 4) || decide (65536 ≤ fb.status.toNat) ||
      !r.sentSeqs.contains fb.seq || fb.source.toNat != s.par ep P.remAddress
    bad = false →
    let s := s.setRemote i { r with feedback := some fb, fbTick := s.tick }
    ¬ (r.state = .enabling ∧ bitOf fb.status.toNat 0) →
    exec (.remoteFeedbackRx na fb) s₀ = .next s)

/-- The commands that stage and commit: STAGE_WRITE, PARAM_IMPORT, DISCARD, COMMIT, COMMIT_AT, PREPARE. Each clause gives the next state from
the state and the operands alone (R516, R517, R521, R522, R543, R552); the model's own choices in it are log entries 5, 6. -/
def Obligations.CoherentCommandsAct : Prop :=
  (∀ (s : State) (ref : CmdRef) (items : List Item),
    s.queuedFor ref 0x0120 = true →
    let k := cmdKey ref
    let m := keyMbx k
    let me := s.sessRef m
    keyRemote k = false → items.isEmpty = false → items.length ≤ 4096 → items.findSome? (s.stageBad me) = none →
    let l := items.foldl s.addItem (s.pendingOf m)
    setFits l = true →
    exec (.stageWrite ref items) s = .next ((s.setPending m l).ok k (leBytes 4 l.length))) ∧
  (∀ (s₀ : State) (ref : CmdRef) (offset : BitVec 32) (items : List Item) (reach : Reach),
    let s := s₀
    s.goesOn ref 0x0125 = true →
    let k := cmdKey ref
    let m := keyMbx k
    keyRemote k = false →
    let from_ := (s.cmd k).progress
    let left := items.drop from_
    let now := left.take (reachUnits reach left.length)
    ∀ l n b bad, s.importItems (s.sessRef m) now (s.pendingOf m, from_, ((items.take from_).map Item.size).sum) = ((l, n, b), bad) →
    let resume := offset.toNat + b
    let s := s.setPending m l
    let head := leBytes 4 n ++ leBytes 4 resume
    bad = none →
    exec (.paramImport ⟨ref, reach⟩ offset items) s₀ = .next (s.unitsDone k reach (decide (items.length ≤ n)) n resume head)) ∧
  (∀ (s : State) (ref : CmdRef),
    s.queuedFor ref 0x0123 = true →
    let k := cmdKey ref
    exec (.discard ref) s = .next ((s.setPending (keyMbx k) []).ok k)) ∧
  (∀ (s : State) (ref : CmdRef),
    s.queuedFor ref 0x0121 = true →
    let k := cmdKey ref
    exec (.commit ref) s = .next (s.acceptCommit k s.nextBoundary)) ∧
  (∀ (s : State) (ref : CmdRef) (ft : Ft),
    s.queuedFor ref 0x0122 = true →
    let k := cmdKey ref
    let d := ftDiff ft s.ft
    100000 ≤ d → d ≤ 2000000000 →
    exec (.commitAt ref ft) s = .next (s.acceptCommit k (s.xtOfFt ft))) ∧
  (∀ (s₀ : State) (ref : CmdRef) (ftC : Ft),
    let s := s₀
    s.queuedFor ref 0x0124 = true →
    let k := cmdKey ref
    let items := s.commitSet k
    let d := ftDiff ftC s.ft
    let own := s.fabric.device
    let devOf (i : Item) : Nat := if s.ownItem i then own else i.dev
    let devs := items.foldl (fun l i => insertDev (devOf i) l) [own]
    items.isEmpty = false → 10000000 ≤ d → d ≤ 2000000000 → devs.length ≤ 64 →
    let num := s.host.nextPrep
    let me := s.cmdSess k
    let s := (s.run k).modHost (fun h => { h with nextPrep := h.nextPrep + 1 })
    let s := if keyRemote k then s else s.setPending (keyMbx k) []
    let s := s.setPrep num { ftC := ftC, cmd := k, parts := devs.map (fun d => (d, none)) }
    let s := (devs.filter (· != own)).foldl (fun s d =>
      s.fabSend d (.commitItems num (BitVec.ofNat 32 me.sid) ftC (items.filter (fun i => devOf i == d)))) s
    exec (.prepare ref ftC) s₀ = .next (s.takePart own num me ftC (items.filter s.ownItem)))

/-- The messages of a fabric-wide commit, its deadlines and its time-out: COMMIT_ITEMS_MSG, COMMIT_READY_MSG, COMMIT_DECISION_MSG,
COMMIT_ABORT_MSG, COMMIT_ACK_MSG, PREPARE_READY_DEADLINE, PREPARE_ACK_DEADLINE, COMMIT_APPLIED_MSG, PREPARE_DISCARD_TIMEOUT. Each clause
gives the next state from the state and the operands alone (R522, R523); the model's own choices in it are log entry 5. -/
def Obligations.PrepareEventsAct : Prop :=
  (∀ (s : State) (p : PrepRef) (sess : BitVec 32) (ftC : Ft) (items : List Item),
    exec (.commitItemsMsg p sess ftC items) s = .next (s.takePart p.dev.val p.num { dev := p.dev.val, sid := sess.toNat } ftC items)) ∧
  (∀ (s : State) (num : Nat) (part : Fin 4096) (status index : BitVec 16),
    exec (.commitReadyMsg num part status index) s = .next (s.readyFrom num part.val status index)) ∧
  (∀ (s : State) (p : PrepRef),
    ∀ q, s.part p.dev.val p.num = some q → q.ready = true →
    exec (.commitDecisionMsg p) s = .next (
      (s.setPart p.dev.val p.num (some { q with commit := true })).fabSend p.dev.val (.commitAck p.num))) ∧
  (∀ (s : State) (p : PrepRef),
    exec (.commitAbortMsg p) s = .next ((s.dropPart p.dev.val p.num).fabSend p.dev.val (.commitAck p.num))) ∧
  (∀ (s : State) (num : Nat) (part : Fin 4096),
    ∀ p, s.prep num = some p → p.decision = some true → part.val ∉ p.acks →
    exec (.commitAckMsg num part) s = .next (s.setPrep num { p with acks := p.acks ++ [part.val] })) ∧
  (∀ (s : State) (num : Nat),
    ∀ p, s.prep num = some p → p.decision.isNone = true → s.atFt p.ftC (-3000000) = true →
    exec (.prepareReadyDeadline num) s = .next (s.decideAbort num)) ∧
  (∀ (s : State) (num : Nat),
    ∀ p, s.prep num = some p →
    let missing := p.decision == some true && p.devs.any (fun d => !p.acks.contains d)
    let again := p.decision == some false && p.commitSent && !s.atFt p.ftC 0
    s.atFt p.ftC (-1000000) = true → missing || again →
    exec (.prepareAckDeadline num) s = .next (s.decideAbort num)) ∧
  (∀ (s : State) (num : Nat) (part : Fin 4096),
    exec (.commitAppliedMsg num part) s = .next (s.appliedFrom num part.val)) ∧
  (∀ (s : State) (p : PrepRef), ∀ q, s.part p.dev.val p.num = some q → s.atFt q.ftC 100000000 = true →
    s.isOwn p.dev.val = false →
    exec (.prepareDiscardTimeout p) s = .next (s.dropPart p.dev.val p.num)) ∧
  (∀ (s : State) (p : PrepRef), s.part p.dev.val p.num = none → s.isOwn p.dev.val = true → ∀ r, s.prep p.num = some r →
    s.atFt r.ftC 100000000 = true →
    exec (.prepareDiscardTimeout p) s = .next (s.endPrepare p.num r))

/-- Snapshots at the epoch boundary, the commands that read them, commits and PREPAREs falling due: EPOCH_BOUNDARY, SNAP_READ, SNAP_AT,
SNAPSHOT_COMPLETE, COMMIT_APPLY, PREPARE_APPLY. Each clause gives the next state from the state and the operands alone (R83, R512, R513,
R514, R515, R520, R522, R611); the model's own choices in it are log entries 5, 6. -/
def Obligations.EpochActs : Prop :=
  (∀ (s₀ : State),
    let s := s₀
    let e := s.lastBoundary
    ∀ x u₁, s.host.snaps = x :: u₁ →
    let known := decide (e ≤ x.e)
    s.supRuns = true → known = false →
    let s := s.sampleXt
    let t := (s.dueItems e).foldl State.putItem (s.frozenAt e)
    let x : Snapshot := { e := e, cfg := t.cfg, ctr := s.ctr, status := t.statusWords s.fresh }
    let s := s.took.modSched (fun c => { c with busy := [] })
    exec (.epochBoundary) s₀ = .next (s.modHost (fun h => { h with snaps := (x :: h.snaps).take 16 }))) ∧
  (∀ (s₀ : State),
    let s := s₀
    let e := s.lastBoundary
    s.host.snaps = [] →
    s.supRuns = true →
    let s := s.sampleXt
    let t := (s.dueItems e).foldl State.putItem (s.frozenAt e)
    let x : Snapshot := { e := e, cfg := t.cfg, ctr := s.ctr, status := t.statusWords s.fresh }
    let s := s.took.modSched (fun c => { c with busy := [] })
    exec (.epochBoundary) s₀ = .next (s.modHost (fun h => { h with snaps := (x :: h.snaps).take 16 }))) ∧
  (∀ (s : State) (ref : CmdRef) (clear : Bool) (items : List ReadItem),
    s.queuedFor ref 0x0110 = true →
    let k := cmdKey ref
    items.findSome? readBad = none → items.isEmpty = false → items.length ≤ 512 →
    exec (.snapRead ref clear items) s = .next (s.trySnap k none items clear)) ∧
  (∀ (s : State) (ref : CmdRef) (clear : Bool) (ft : Ft) (items : List ReadItem),
    s.queuedFor ref 0x0111 = true →
    let k := cmdKey ref
    items.findSome? readBad = none → items.isEmpty = false → items.length ≤ 512 → ftDiff ft s.ft ≤ 1000000000 →
    exec (.snapAt ref clear ft items) s = .next (s.trySnap k (some ft) items clear)) ∧
  (∀ (s₀ : State),
    let s := s₀
    ∀ x, s.host.snaps.reverse.find? (fun x => !x.complete) = some x →
    let w := s.host.snapWaits
    let s := s.modHost (fun h => { h with
      snaps := h.snaps.map (fun y => if y.e = x.e then { y with complete := true } else y), snapWaits := [] })
    exec (.snapshotComplete) s₀ = .next (
      w.foldl (fun s a =>
        s.trySnap a.1 (if (s.cmd a.1).opcode = 0x0110 then none else some a.2.1) a.2.2.1 a.2.2.2) s)) ∧
  (∀ (s₀ : State),
    let s := s₀
    ∀ c, s.dueCommit = some c →
    let s := s.modHost (fun h => { h with commits := h.commits.erase c })
    c.dropped = true →
    exec (.commitApply) s₀ = .next (s.finishOpt c.cmd E.aborted)) ∧
  (∀ (s₀ : State),
    let s := s₀
    ∀ c, s.dueCommit = some c →
    let s := s.modHost (fun h => { h with commits := h.commits.erase c })
    c.dropped = false → ∀ n, s.stateBad c.items = some n →
    exec (.commitApply) s₀ = .next (s.finishOpt c.cmd E.state (indexData (some n)))) ∧
  (∀ (s₀ : State),
    let s := s₀
    ∀ c, s.dueCommit = some c →
    let s := s.modHost (fun h => { h with commits := h.commits.erase c })
    c.dropped = false → s.stateBad c.items = none →
    exec (.commitApply) s₀ = .next ((s.applyItems c.items c.b).finishOpt c.cmd E.ok (leFt8 (ft8Of c.b)))) ∧
  (∀ (s₀ : State) (p : PrepRef),
    let s := s₀
    ∀ q, s.part p.dev.val p.num = some q → q.commit = true → q.ready = true → s.atFt q.ftC 0 = true →
    let s := s.dropPart p.dev.val p.num
    (s.stateBad q.items).isSome = false →
    let s := s.applyItems q.items (s.xtOfFt q.ftC)
    s.isOwn p.dev.val = true →
    exec (.prepareApply p) s₀ = .next (s.appliedFrom p.num p.dev.val)) ∧
  (∀ (s₀ : State) (p : PrepRef),
    let s := s₀
    ∀ q, s.part p.dev.val p.num = some q → q.commit = true → q.ready = true → s.atFt q.ftC 0 = true →
    let s := s.dropPart p.dev.val p.num
    (s.stateBad q.items).isSome = false →
    let s := s.applyItems q.items (s.xtOfFt q.ftC)
    s.isOwn p.dev.val = false →
    exec (.prepareApply p) s₀ = .next (s.fabSend p.dev.val (.commitApplied p.num)))

/-- The capture commands: BASKET_ARM, BASKET_LIST, BASKET_READ, BASKET_RELEASE, LATCH_READ, CAP_TRIGGER, BASKET_DISARM. Each clause gives the
next state from the state and the operands alone (R452, R458, R459, R467, R470, R473, R479, R480, R481, R482, R841); the model's own
choices in it are log entries 5, 6, 45, 46. -/
def Obligations.CaptureCommandsAct : Prop :=
  (∀ (s₀ : State) (ref : CmdRef) (ep : BitVec 16) (count : BitVec 16),
    let s := s₀
    s.queuedFor ref 0x0700 = true →
    let k := cmdKey ref
    ∀ c, capOf ep.toNat = some c →
    let e := epCap c
    let clock := s.par e P.capClock
    let conds := [0, 1, 2, 3].map (fun n => s.capCond c n)
    (s.getCap c).state = .disarmed → s.par e P.capPre + s.par e P.capPost ≤ 2097152 → s.capLargest c ≤ 8388608 →
    s.chainCircle c 256 (s.chains c) = false → [0, 1, 2, 3].any (s.condBad c) = false →
    (s.capSignals c).any (s.sigBad clock) = false →
    ¬ (clock != 1 && (s.getLoop (s.par e P.capClockAxis)).state != .enabled) →
    conds.any (fun v => condType v == 5 && decide (ft8Diff (condTime v) s.ft8 < armUnits8)) = false →
    let s := s.modCap c (fun h => { h with
      remaining := count.toNat, continuous := count == 0, firings := [], lastSample := none
      primed := conds.map (fun v => (condType v == 5, false)) })
    exec (.basketArm ref ep count) s₀ = .next ((s.armCap c s.ft8 true).ok k)) ∧
  (∀ (s : State) (ref : CmdRef) (ep : BitVec 16),
    s.queuedFor ref 0x0701 = true →
    let k := cmdKey ref
    ∀ c, capOf ep.toNat = some c →
    let l := (s.basketsOf c).take 256
    exec (.basketList ref ep) s = .next (s.ok k (leBytes 4 l.length ++ l.flatMap (fun n => leBytes 4 (s.basket n).id)))) ∧
  (∀ (s₀ : State) (ref : CmdRef) (id : BitVec 32) (offset len : BitVec 32) (reach : Reach),
    let s := s₀
    s.goesOn ref 0x0702 = true →
    let k := cmdKey ref
    ∀ b, s.closedBasket id = some b →
    let l := (s.basket b).content
    len.toNat ≠ 0 → len.toNat ≤ 65536 → offset.toNat + len.toNat ≤ l.length →
    let done := (s.cmd k).progress + reachUnits reach (len.toNat - (s.cmd k).progress)
    let s := s.modCapMem (fun m => { m with reading := (k, b) :: m.reading.filter (fun r => r.1 != k) })
    exec (.basketRead ⟨ref, reach⟩ id offset len) s₀ = .next (
      s.unitsDone k reach (decide (len.toNat ≤ done)) done (offset.toNat + done) ((l.drop offset.toNat).take len.toNat))) ∧
  (∀ (s : State) (ref : CmdRef) (id : BitVec 32),
    s.queuedFor ref 0x0703 = true →
    let k := cmdKey ref
    ∀ b, s.closedBasket id = some b → s.beingRead b = false →
    exec (.basketRelease ref id) s = .next (((s.freeBasket b).capSpaceFree).ok k)) ∧
  (∀ (s₀ : State) (ref : CmdRef) (ep : BitVec 16) (max : Byte),
    let s := s₀
    s.queuedFor ref 0x0704 = true →
    let k := cmdKey ref
    ∀ c, capOf ep.toNat = some c → max.toNat ≠ 0 → max.toNat ≤ 16 →
    let h := s.getCap c
    let l := h.fifo.take max.toNat
    let s := s.setCap c { h with fifo := h.fifo.drop max.toNat, fifoFull := h.fifoFull && l.isEmpty }
    exec (.latchRead ref ep max) s₀ = .next (s.ok k (leBytes 4 l.length ++ leBytes 4 0 ++ l.flatMap LatchRec.bytes))) ∧
  (∀ (s : State) (ref : CmdRef) (ep : BitVec 16),
    s.queuedFor ref 0x0705 = true →
    let k := cmdKey ref
    ∀ c, capOf ep.toNat = some c → ∀ n, [0, 1, 2, 3].find? (fun n => condType (s.capCond c n) == 6) = some n →
    (s.getCap c).state ≠ .disarmed →
    exec (.capTrigger ref ep) s = .next ((s.await k (epCap c) 0x0705).fireCap c { cond := n, stamp := s.ft8 })) ∧
  (∀ (s₀ : State) (ref : CmdRef) (ep : BitVec 16),
    let s := s₀
    s.queuedFor ref 0x0706 = true →
    let k := cmdKey ref
    ∀ c, capOf ep.toNat = some c →
    let h := s.getCap c
    let here := (earliest h.firings).any (fun f => decide (s.tickOf f.stamp = 0))
    let s := if h.state == .armed && here then s.takeTrigger c none else s
    (s.getCap c).state = .disarmed →
    let s := s
    exec (.basketDisarm ref ep) s₀ = .next (s.ok k)) ∧
  (∀ (s₀ : State) (ref : CmdRef) (ep : BitVec 16),
    let s := s₀
    s.queuedFor ref 0x0706 = true →
    let k := cmdKey ref
    ∀ c, capOf ep.toNat = some c →
    let h := s.getCap c
    let here := (earliest h.firings).any (fun f => decide (s.tickOf f.stamp = 0))
    let s := if h.state == .armed && here then s.takeTrigger c none else s
    (s.getCap c).state = .post →
    let s := s.closeBasket c 1 s.time.ft16
    exec (.basketDisarm ref ep) s₀ = .next (s.ok k))

/-- The capture events: CAPTURE_FIRING, CAPTURE_TIME_CONDITION, CAPTURE_TRIGGER, CAPTURE_SAMPLE, CAPTURE_REARM, LATCH_RECORD, BASKET_SPILL.
Each clause gives the next state from the state and the operands alone (R448, R451, R453, R455, R459, R461, R462, R463, R465, R468, R474,
R477); the model's own choices in it are log entries 5, 45. -/
def Obligations.CaptureEventsAct : Prop :=
  (∀ (s : State) (cc : Fin 256) (cond : Fin 4),
    ∀ st, s.edgeStamp (s.capCond cc.val cond.val) = some st →
    exec (.captureFiring cc cond {}) s = .next (s.fireCap cc.val { cond := cond.val, stamp := st })) ∧
  (∀ (s₀ : State) (cc : Fin 256) (cond : Fin 4),
    let s := s₀
    let c := cc.val
    let v := s.capCond c cond.val
    let h := s.getCap c
    condType v = 5 → h.state ≠ .disarmed → (h.primed.getD cond.val (false, false)).1 = true →
    0 ≤ ft8Diff s.ft8 (condTime v) →
    let s := s.setCap c { h with primed := h.primed.set cond.val (false, false) }
    exec (.captureTimeCondition cc cond) s₀ = .next (s.fireCap c { cond := cond.val, stamp := condTime v })) ∧
  (∀ (s : State) (cc : Fin 256),
    let c := cc.val
    let h := s.getCap c
    h.state = .armed → ∀ f0, earliest h.firings = some f0 → s.par (epCap c) P.capMode = 0 →
    let u := s.time.ft16 + BitVec.ofInt 48 ((s.tickOf f0.stamp + 1) * tickUnits)
    s.tickOf f0.stamp < 0 → s.capFinal 257 c u = true →
    exec (.captureTrigger cc) s = .next (s.takeTrigger c (some (u - 1)))) ∧
  (∀ (s₀ : State) (cc : Fin 256) (cycles : Fin 100) (frac : Fin 256) (rawCode : Option Int),
    let s := s₀
    let c := cc.val
    let ep := epCap c
    let h := s.getCap c
    let t := s.sampleInstant c cycles.val frac.val
    ∀ p, h.lastSample = some p →
    let old := decide (ft16Diff t p.1 ≤ 0)
    h.state ≠ .disarmed → s.par ep P.capMode ≠ 0 → old = false → ¬ (s.par ep P.capClock = 2 ∧ rawCode = none) →
    let view := s.capView c t
    let xs := (s.capSignals c).map (fun g => view.sigVal g t (rawCode.getD 0))
    let t2 := ft16Of (s.getFoc (s.par ep P.capClockAxis)).t2
    let s := s.thresholds c t t2 xs
    let s := s.modCap c (fun h => { h with lastSample := some (t, xs), lastT2 := t2 })
    (s.getCap c).state = .armed →
    exec (.captureSample cc ⟨cycles, frac⟩ rawCode) s₀ = .next (
      s.modCap c (fun h => { h with
        pre := (h.pre ++ [(t, xs)]).drop (h.pre.length + 1 - (s.par ep P.capPre + capMargin)) }))) ∧
  (∀ (s : State) (cc : Fin 256),
    let c := cc.val
    let h := s.getCap c
    h.state = .rearm → (rearmUnits : Int) ≤ ft16Diff s.time.ft16 h.tEnd →
    exec (.captureRearm cc) s = .next (s.armCap c h.armFrom false)) ∧
  (∀ (s₀ : State) (cc : Fin 256),
    let s := s₀
    let c := cc.val
    let ep := epCap c
    let h := s.getCap c
    let axes := s.latchAxes c
    ∀ mask t n slot l, h.latchDue = (mask, t, n, slot) :: l → axes.all (fun e => e == 0xFFFF || s.latchReady e t) = true →
    let ps := axes.map (fun e => if e = 0xFFFF then (0, false) else s.latched e t)
    let valid := ((List.range 4).map (fun i => b2n (ps.getD i (0, false)).2 * 2 ^ i)).sum
    let bad := ((List.range 4).filter (fun i => decide (axes.getD i 0xFFFF ≠ 0xFFFF) && !(ps.getD i (0, false)).2)).length
    let r : LatchRec := { tRef := t, mask := mask, posValid := valid, seq := n, pos := ps.map (·.1) }
    let full := decide (64 ≤ h.fifo.length)
    let s := s.setCap c { h with
      latchDue := l, fifo := if full then h.fifo else h.fifo ++ [r], fifoFull := h.fifoFull || full }
    let s := (s.bumpIf full ep C.capLatchDrop).bumpBy ep C.capPosInvalid 0 bad
    slot = none →
    exec (.latchRecord cc) s₀ = .next s) ∧
  (∀ (s : State),
    s.capCoreFree < s.par epModule P.capSpillLow * 1048576 →
    exec (.basketSpill) s = .next s.spillOldest) ∧
  (∀ (s : State) (cc : Fin 256),
    let c := cc.val
    let h := s.getCap c
    h.state = .armed → ∀ f0, earliest h.firings = some f0 → s.par (epCap c) P.capMode ≠ 0 →
    ∀ x, h.pre.find? (fun x => decide (0 ≤ ft16Diff x.1 (ft16Of8 f0.stamp))) = some x → s.capFinal 257 c x.1 = true →
    exec (.captureTrigger cc) s = .next (s.takeTrigger c (some x.1))) ∧
  (∀ (s₀ : State) (cc : Fin 256) (cycles : Fin 100) (frac : Fin 256) (rawCode : Option Int),
    let s := s₀
    let c := cc.val
    let ep := epCap c
    let h := s.getCap c
    let t := s.sampleInstant c cycles.val frac.val
    h.lastSample = none →
    h.state ≠ .disarmed → s.par ep P.capMode ≠ 0 → ¬ (s.par ep P.capClock = 2 ∧ rawCode = none) →
    let view := s.capView c t
    let xs := (s.capSignals c).map (fun g => view.sigVal g t (rawCode.getD 0))
    let t2 := ft16Of (s.getFoc (s.par ep P.capClockAxis)).t2
    let s := s.thresholds c t t2 xs
    let s := s.modCap c (fun h => { h with lastSample := some (t, xs), lastT2 := t2 })
    (s.getCap c).state = .post →
    exec (.captureSample cc ⟨cycles, frac⟩ rawCode) s₀ = .next (s.enterPost c [(t, xs)])) ∧
  (∀ (s₀ : State) (cc : Fin 256),
    let s := s₀
    let c := cc.val
    let ep := epCap c
    let h := s.getCap c
    let axes := s.latchAxes c
    ∀ mask t n slot l, h.latchDue = (mask, t, n, slot) :: l → axes.all (fun e => e == 0xFFFF || s.latchReady e t) = true →
    let ps := axes.map (fun e => if e = 0xFFFF then (0, false) else s.latched e t)
    let valid := ((List.range 4).map (fun i => b2n (ps.getD i (0, false)).2 * 2 ^ i)).sum
    let bad := ((List.range 4).filter (fun i => decide (axes.getD i 0xFFFF ≠ 0xFFFF) && !(ps.getD i (0, false)).2)).length
    let r : LatchRec := { tRef := t, mask := mask, posValid := valid, seq := n, pos := ps.map (·.1) }
    let full := decide (64 ≤ h.fifo.length)
    let s := s.setCap c { h with
      latchDue := l, fifo := if full then h.fifo else h.fifo ++ [r], fifoFull := h.fifoFull || full }
    let s := (s.bumpIf full ep C.capLatchDrop).bumpBy ep C.capPosInvalid 0 bad
    ∀ k, slot = some k → (s.basket k).channel = c → (s.basket k).tRef = t →
    exec (.latchRecord cc) s₀ = .next (s.modBasket k (fun b => { b with posValid := valid, pos := r.pos })))

/-- The system, log, session and key commands and the events of a session: SYS_IDENTIFY, SYS_STATUS, CMD_STATUS, CMD_ABORT, INTERRUPTED_LIST,
LOG_READ, LOG_MARK, CMD_RECORD_EXPIRY, SESSION_OPEN, SESSION_CLOSE, KEY_SET, SESSION_IDLE_TIMEOUT, UDP_HELLO, UDP_COMMAND,
HALF_OPEN_TIMEOUT. Each clause gives the next state from the state and the operands alone (R495, R498, R502, R503, R504, R509, R530, R531,
R532, R541, R551, R561); the model's own choices in it are log entries 5, 6. -/
def Obligations.HostCommandsAct : Prop :=
  (∀ (s : State) (ref : CmdRef),
    s.queuedFor ref 0x0100 = true →
    let k := cmdKey ref
    let check := (s.safety.confirmed.map (·.toNat)).getD 0
    exec (.sysIdentify ref) s = .next (
      s.ok k (leBytes 4 s.supId ++ leBytes 8 Config.uid.toNat ++ leBytes 2 s.fabric.device ++ leBytes 2 0 ++
        leBytes 4 s.power.bankA.version.toNat ++ leBytes 4 s.power.bankB.version.toNat ++ leBytes 1 (b2n s.host.bankB) ++ leBytes 3 0 ++
        leBytes 4 check ++ leBytes 1 (b2n s.safety.confirmed.isSome + 2 * b2n s.time.leader) ++ leBytes 31 0))) ∧
  (∀ (s : State) (ref : CmdRef),
    s.queuedFor ref 0x0101 = true →
    let k := cmdKey ref
    let n := if keyRemote k then 0 else s.tagsInFlight (keyMbx k)
    exec (.sysStatus ref) s = .next (
      s.ok k (leBytes 4 s.supState ++ leBytes 4 s.host.fault.toNat ++ leBytes 1 s.time.state.code ++ leBytes 1 n ++ leBytes 2 0))) ∧
  (∀ (s : State) (ref : CmdRef) (dev : BitVec 16) (tag : Fin 256),
    s.queuedFor ref 0x0102 = true →
    let k := cmdKey ref
    s.tagOutside k tag = false → ∀ n, s.namedCmd k tag dev.toNat = some n →
    let c := s.cmd n
    exec (.cmdStatus ref dev tag) s = .next (
      s.ok k (leBytes 1 c.state.code ++ leBytes 1 0 ++ leBytes 2 c.status.toNat ++ leBytes 4 c.progress ++ leBytes 4 c.resume))) ∧
  (∀ (s : State) (ref : CmdRef) (dev : BitVec 16) (tag : Fin 256),
    s.queuedFor ref 0x0103 = true →
    let k := cmdKey ref
    s.tagOutside k tag = false → ∀ n, s.namedCmd k tag dev.toNat = some n → (s.cmd n).state = .queued →
    exec (.cmdAbort ref dev tag) s = .next ((s.finish n E.aborted).ok k)) ∧
  (∀ (s : State) (ref : CmdRef),
    s.queuedFor ref 0x0104 = true →
    let k := cmdKey ref
    exec (.interruptedList ref) s = .next (
      s.ok k (leBytes 4 s.host.interrupted.length ++ s.host.interrupted.flatMap (fun r =>
        leBytes 1 r.tag ++ leBytes 1 r.outcome ++ leBytes 2 r.opcode.toNat ++ leBytes 1 r.mbx ++ leBytes 3 0 ++ leBytes 4 r.resume)))) ∧
  (∀ (s : State) (ref : CmdRef) (first max : BitVec 32) (reach : Reach),
    s.goesOn ref 0x0E00 = true →
    let k := cmdKey ref
    max.toNat ≠ 0 → max.toNat ≤ 4096 →
    let held := s.events.log.length
    let oldest := s.events.next - BitVec.ofNat 32 held
    let off := (first - oldest).toNat
    let skip := if off ≤ held then off else if 0 < (first - s.events.next).toInt then held else 0
    let recs := (s.events.log.reverse.drop skip).take max.toNat
    let seq := (oldest + BitVec.ofNat 32 skip).toNat
    let done := (s.cmd k).progress + reachUnits reach (recs.length - (s.cmd k).progress)
    exec (.logRead ⟨ref, reach⟩ first max) s = .next (
      s.unitsDone k reach (decide (recs.length ≤ done)) done ((seq + done) % 2 ^ 32)
        (leBytes 4 seq ++ leBytes 4 recs.length ++ leBytes 4 oldest.toNat ++ leBytes 4 0 ++ recs.flatMap EventRec.bytes))) ∧
  (∀ (s : State) (ref : CmdRef) (data : BitVec 128),
    s.queuedFor ref 0x0E01 = true →
    let k := cmdKey ref
    let n := s.events.next.toNat
    exec (.logMark ref data) s = .next (
      (s.log (if keyRemote k then epModule else epMbx (keyMbx k)) 0x0E03 data.toNat).ok k (leBytes 4 n))) ∧
  (∀ (s : State) (ref : CmdRef),
    let c := s.cmd (cmdKey ref)
    let ended := c.state != .none_ && c.state != .queued && c.state != .running && !c.inFlight
    ended = true → s.passed c.doneTick 640000000 = true →
    exec (.cmdRecordExpiry ref) s = .next (s.setCmd (cmdKey ref) {})) ∧
  (∀ (s : State) (ref : CmdRef) (tags : BitVec 16),
    s.queuedFor ref 0x0140 = true →
    let k := cmdKey ref
    let m := keyMbx k
    tags.toNat ≠ 0 → tags.toNat ≤ 256 → (s.getSession m).isSome = false →
    ∀ s' st data, s.openSession m s.newSession .pcie [] tags.toNat = (s', st, data) →
    exec (.sessionOpen ref tags) s = .next (s'.took.finish k st data)) ∧
  (∀ (s : State) (ref : CmdRef),
    s.queuedFor ref 0x0141 = true →
    let k := cmdKey ref
    exec (.sessionClose ref) s = .next (((s.ok k).writeRsp k).closeSession (keyMbx k))) ∧
  (∀ (s : State) (ref : CmdRef) (keyId : Byte) (key : List Byte),
    s.queuedFor ref 0x0150 = true →
    let k := cmdKey ref
    ∀ x, s.getSession (keyMbx k) = some x →
    let pcie := x.via == .pcie
    pcie = true → keyRemote k = false → keyId.toNat < 8 →
    exec (.keySet ref keyId key) s = .next (
      (if key.all (· == 0) then
        s.modHost (fun h => { h with
          keys := mdel h.keys keyId.toNat, halfOpen := h.halfOpen.filter (fun x => x.2.keyId != keyId.toNat) })
      else s.modHost (fun h => { h with keys := mput h.keys keyId.toNat key })).ok k)) ∧
  (∀ (s : State) (m : Fin 64),
    ∀ x, s.getSession m = some x → x.via.network = true →
    s.expired x.traffic (1000 * msTicks (s.parF epModule P.sessionIdle)) = true →
    exec (.sessionIdleTimeout m) s = .next (s.closeSession m)) ∧
  (∀ (s : State) (port : Fin 2) (src : BitVec 48) (bytes : List Byte),
    ∀ g, datagramOf bytes = some g → g.known = true → g.type = 1 → g.body.length = 32 → g.auth.any (· != 0) = false →
    let r := s.helloRate port
    r.2 < 100 →
    exec (.udpHello port src bytes) s = .next (
      (s.modHost (fun h => { h with hellos := mput h.hellos port.val (r.1, r.2 + 1) })).hello port src g)) ∧
  (∀ (s : State) (port : Fin 2) (src : BitVec 48) (bytes : List Byte),
    ∀ g, datagramOf bytes = some g →
    let d := commandOf g.body
    g.known = true → g.type = 3 → 64 ≤ g.body.length → ∀ m x, s.udpSession g.sid = some (m, x) → g.authentic x.key = true →
    x.replayed g.seq = false →
    exec (.udpCommand port src bytes) s = .next ((s.setSession m (some (x.note g.seq s.tick))).udpTake m d)) ∧
  (∀ (s : State) (sessionId : BitVec 32),
    ∀ k h, s.host.halfOpen.find? (fun h => h.1 == sessionId.toNat) = some (k, h) → s.expired h.since 64000000 = true →
    exec (.halfOpenTimeout sessionId) s = .next (s.modHost (fun x => { x with halfOpen := mdel x.halfOpen k })))

/-- Host accesses to BAR0 while D1 is powered: MBX_DOORBELL, MBX_RSP_HEAD_WRITE, MBX_ENABLE_SET, MBX_ENABLE_CLEAR, MBX_EVT_HEAD_WRITE,
MBX_EVT_ENABLE, MBX_EVT_LOST_READ, SUP_FT_SNAP_LO_READ, SUP_FAULT_WRITE, MBX_BAD_ACCESS, REGISTER_WRITE. Each clause gives the next state
from the state and the operands alone (R18, R20, R21, R485, R486, R487, R488, R492, R499, R500, R533, R534); the model's own choices in it
are log entry 5. -/
def Obligations.MailboxRegisterActs : Prop :=
  (∀ (s : State) (m : Fin 64) (tail : BitVec 16),
    s.bar0 = true →
    let b := s.getMbx m
    (tail - b.cmdHead).toNat ≤ b.size →
    exec (.mbxDoorbell m tail) s = .next (.setMbx s m { b with cmdTail := tail })) ∧
  (∀ (s : State) (m : Fin 64) (tail : BitVec 16),
    s.bar0 = true →
    let b := s.getMbx m
    b.size < (tail - b.cmdHead).toNat →
    exec (.mbxDoorbell m tail) s = .next (
      (s.bump (epMbx m) C.mbxBadDoorbell).log (epMbx m) 0x0E02 (tail.toNat + dat 2 b.cmdHead.toNat))) ∧
  (∀ (s : State) (m : Fin 64) (head : BitVec 16),
    s.bar0 = true →
    let b := s.getMbx m
    (head - b.rspHead).toNat ≤ (b.rspTail - b.rspHead).toNat →
    exec (.mbxRspHeadWrite m head) s = .next (s.setMbx m { b with rspHead := head })) ∧
  (∀ (s : State) (m : Fin 64) (ctrl : BitVec 32),
    s.bar0 = true →
    let b := s.getMbx m
    b.state ≠ .network → b.enable = false →
    let b := { b.ctrl ctrl with enable := true }
    exec (.mbxEnableSet m ctrl) s = .next (
      s.setMbx m { b with state := if s.host.mbxReady || (s.power.rescue && m.val == 0) then .enabled else .boot })) ∧
  (∀ (s : State) (m : Fin 64) (ctrl : BitVec 32),
    s.bar0 = true →
    let s' := s.modMbx m (fun b => b.ctrl ctrl)
    (s.getMbx m).enable = true →
    exec (.mbxEnableClear m ctrl) s = .next (s'.mbxOff m)) ∧
  (∀ (s : State) (head : BitVec 16),
    s.bar0 = true → (head - s.events.head).toNat ≤ s.events.used →
    let e := { s.events with head := head }
    e.lostRun = none →
    exec (.mbxEvtHeadWrite head) s = .next ({ s with events := e })) ∧
  (∀ (s : State) (ctrl : BitVec 32),
    s.bar0 = true →
    let on := bitOf ctrl.toNat 31
    exec (.mbxEvtEnable ctrl) s = .next (
      s.modEvents (fun e => { e with
        enable := on, vector := vectorOf ctrl, moderation := moderationOf ctrl
        lostRun := if e.enable && on then e.lostRun else none }))) ∧
  (∀ (s : State),
    s.bar0 = true →
    exec (.mbxEvtLostRead) s = .next (
      s.modEvents (fun e => { e with lost := e.lostNow s.tick, lostRead := e.lost - e.lostNow s.tick }))) ∧
  (∀ (s : State),
    s.bar0 = true →
    exec (.supFtSnapLoRead) s = .next (s.took.modHost (fun h => { h with snap := s.ftlInstant, snapSeq := h.snapSeq + 1 }))) ∧
  (∀ (s : State) (mask : BitVec 32),
    s.bar0 = true →
    exec (.supFaultWrite mask) s = .next (
      s.modHost (fun h =>
        { h with fault := h.fault &&& ~~~(if h.faultSet.1 = s.tick then mask &&& ~~~h.faultSet.2 else mask) }))) ∧
  (∀ (s : State),
    s.bar0 = true →
    exec (.mbxBadAccess) s = .next (s.bump epModule C.mbxBadAccess)) ∧
  (∀ (s : State) (reg : DirectReg) (v : BitVec 32),
    s.bar0 = true →
    let base (m : Fin 64) (f : Mailbox → Mailbox) : State := s.modMbx m (fun b => if b.enable then b else f b)
    reg = .evtBaseLo →
    exec (.registerWrite reg v) s = .next (s.modEvents (fun e => { e with base := setHalf false e.base v }))) ∧
  (∀ (s : State) (reg : DirectReg) (v : BitVec 32),
    s.bar0 = true →
    let base (m : Fin 64) (f : Mailbox → Mailbox) : State := s.modMbx m (fun b => if b.enable then b else f b)
    ∀ m, reg = .mbxCmdBaseLo m →
    exec (.registerWrite reg v) s = .next (base m (fun b => { b with cmdBase := setHalf false b.cmdBase v })))

/-- The ring and forwarding events: DESCRIPTOR_FETCH, RESPONSE_WRITE, RING_DMA_FAIL, MSIX_MODERATION_END, PCIE_LINK_DOWN,
FORWARDED_COMMAND_RX, FORWARDED_RESPONSE_RX, FORWARD_TIMEOUT. Each clause gives the next state from the state and the operands alone
(R489, R490, R491, R493, R496, R499, R501, R507, R508, R535, R665, R667); the model's own choices in it are log entries 5, 48. -/
def Obligations.MailboxEventsAct : Prop :=
  (∀ (s₀ : State) (m : Fin 64) (d : Descriptor),
    let s := s₀
    let b := s.getMbx m
    let serves := s.power.restarting.isNone && ((b.state == .boot && !s.power.rescue) || b.state == .enabled || b.state == .open_)
    serves = true → b.cmdHead ≠ b.cmdTail → ¬ (bitOf d.flags.toNat 1 && (s.cmd (m.val * 512 + d.tag.val + 256)).inFlight) →
    (b.rspTail - b.rspHead).toNat + b.reserved < b.size →
    let s := s.setMbx m { b with cmdHead := b.cmdHead + 1, reserved := b.reserved + 1, stalled := false }
    exec (.descriptorFetch m d) s₀ = .next (s.fetched m d (b.state == .boot))) ∧
  (∀ (s : State) (m : Fin 64),
    ∀ k, s.host.rspQueue.find? (fun k => keyMbx k == m.val) = some k →
    exec (.responseWrite m) s = .next (s.writeRsp k)) ∧
  (∀ (s : State) (m : Fin 64),
    let b := s.getMbx m
    b.state = .boot ∨ b.state = .enabled ∨ b.state = .open_ →
    exec (.ringDmaFail m) s = .next ((s.setMbx m { b with state := .error }).supFault 2)) ∧
  (∀ (s : State) (source : Option (Fin 64)),
    let elapsed (last : Option Nat) (us : Nat) : Bool :=
      match last with
      | some t => decide (t + 64 * us ≤ s.tick)
      | none => true
    ∀ m, source = some m →
    let b := s.getMbx m
    b.msiDue = true → elapsed b.lastMsi b.moderation = true →
    exec (.msixModerationEnd source) s = .next (s.mbxSignal m)) ∧
  (∀ (s : State) (source : Option (Fin 64)),
    let elapsed (last : Option Nat) (us : Nat) : Bool :=
      match last with
      | some t => decide (t + 64 * us ≤ s.tick)
      | none => true
    source = none → s.events.msiDue = true → elapsed s.events.lastMsi s.events.moderation = true →
    exec (.msixModerationEnd source) s = .next (
      s.modEvents (fun e => { e with msiDue := false, lastMsi := some s.tick, msix := e.vector :: e.msix }))) ∧
  (∀ (s : State),
    exec (.pcieLinkDown) s = .next (
      (List.range 64).foldl (fun s m =>
        let b := s.getMbx m
        if b.state = .network ∨ b.state = .off then s else s.mbxOff m) s)) ∧
  (∀ (s₀ : State) (src : Fin 4096) (sess : BitVec 32) (d : Descriptor),
    let s := s₀
    s.fabric.routes.any (fun r => r.1 == src.val) = true → d.opcode.toNat ≠ 0x0140 →
    ∀ k, s.fabricSession src.val sess.toNat = some k →
    let s := s.modSession k (fun x => x.map (fun x => { x with traffic := s.tick }))
    exec (.forwardedCommandRx src sess d) s₀ = .next ((s.modMbx k (fun b => { b with reserved := b.reserved + 1 })).takeDesc k d)) ∧
  (∀ (s : State) (src : Fin 4096) (sess : BitVec 32) (d : Descriptor),
    s.fabric.routes.any (fun r => r.1 == src.val) = true → d.opcode.toNat ≠ 0x0140 →
    s.fabricSession src.val sess.toNat = none →
    exec (.forwardedCommandRx src sess d) s = .next (s.runForwarded src.val sess d)) ∧
  (∀ (s₀ : State) (m : Fin 64) (tag : Fin 256) (status : BitVec 16) (data : List Byte) (tDone : Ft8),
    let s := s₀
    ∀ k, s.forwardKey m tag = some k →
    let s := if commitTaken (s.cmd k).opcode status data then
        s.modSession m (fun x => x.map (fun x => { x with pendingSet := [] })) else s
    let s := s.finish k status data
    exec (.forwardedResponseRx m tag status data tDone) s₀ = .next (s.setCmd k { s.cmd k with tDone := tDone, forwarded := none })) ∧
  (∀ (s₀ : State) (m : Fin 64) (tag : Fin 256),
    let s := s₀
    ∀ k, s.forwardKey m tag = some k → ∀ t, (s.cmd k).forwarded = some t →
    s.expired t (msTicks (s.parF epModule P.remoteTimeout)) = true →
    let s := s.finish k E.timeout
    exec (.forwardTimeout m tag) s₀ = .next (s.setCmd k { s.cmd k with forwarded := none }))

/-- The lock commands and messages: LOCK, UNLOCK, LOCK_REQUEST_MSG, LOCK_GRANT_MSG, LOCK_REFUSAL_MSG, LOCK_RELEASE_MSG, LOCK_GRAPH_QUERY,
LOCK_GRAPH_ANSWER, LOCK_WAIT_TIMEOUT, WAIT_GRAPH_REBUILD. Each clause gives the next state from the state and the operands alone (R508,
R525, R526, R527, R528, R529, R615, R616); the model's own choices in it are log entries 5, 6, 49. -/
def Obligations.LockActs : Prop :=
  (∀ (s : State) (ref : CmdRef) (wait : BitVec 32) (eps : List (BitVec 16)),
    s.queuedFor ref 0x0130 = true →
    let k := cmdKey ref
    let m := keyMbx k
    ∀ x, s.getSession m = some x →
    let d := (s.cmd k).image.device.toNat
    let own := s.isOwn d
    let dev := if own then 0 else d
    let new := (eps.eraseDups.filter (fun e => !x.locks.contains (dev, e))).length
    wait.toNat ≤ 10000 → eps.isEmpty = false → eps.length ≤ 32 → eps.any (fun e => !lockable e) = false →
    x.waiting.isSome = false → x.locks.length + new ≤ 256 →
    let me := s.sessRef m
    own = true →
    let a := s.lockTry { sess := me, eps := eps } (wait != 0)
    a.2 = .granted →
    exec (.lock ref wait eps) s = .next ((a.1.setSession m (some (x.withLocks 0 eps))).ok k)) ∧
  (∀ (s₀ : State) (ref : CmdRef) (eps : List (BitVec 16)),
    let s := s₀
    s.queuedFor ref 0x0131 = true →
    let k := cmdKey ref
    let m := keyMbx k
    ∀ x, s.getSession m = some x →
    let d := (s.cmd k).image.device.toNat
    let dev := if s.isOwn d then 0 else d
    let mine := eps.filter (fun e => x.locks.contains (dev, e))
    let me := s.sessRef m
    let s := s.setSession m (some { x with locks := x.locks.filter (fun l => !(l.1 == dev && mine.contains l.2)) })
    exec (.unlock ref eps) s₀ = .next (
      (if dev = 0 then s.releaseLocks me mine
        else if mine.isEmpty then s else s.fabSend dev (.lockRelease (s.outRef me) mine)).ok k)) ∧
  (∀ (s : State) (sess : SessRef) (eps : List (BitVec 16)) (wait : Bool),
    let r := s.inRef sess
    let a := s.lockTry { sess := r, eps := eps } wait
    a.2 = .granted →
    exec (.lockRequestMsg sess eps wait) s = .next (a.1.fabSend sess.dev (.lockGrant sess))) ∧
  (∀ (s : State) (m : Fin 64),
    ∀ x, s.getSession m = some x → ∀ w, x.waiting = some w → w.2.1 ≠ 0 →
    exec (.lockGrantMsg m) s = .next ((s.setSession m (some (x.withLocks w.2.1 w.2.2.1))).ok w.1)) ∧
  (∀ (s : State) (m : Fin 64) (circle : Bool),
    ∀ x, s.getSession m = some x → ∀ w, x.waiting = some w → w.2.1 ≠ 0 →
    exec (.lockRefusalMsg m circle) s = .next (
      (s.setSession m (some { x with waiting := none })).finish w.1 (if circle then E.waitCycle else E.locked))) ∧
  (∀ (s : State) (sess : SessRef) (eps : List (BitVec 16)),
    let r := s.inRef sess
    eps.isEmpty = true →
    exec (.lockReleaseMsg sess eps) s = .next (s.modLocks (fun l => { l with graph := l.graph.filter (fun e => e.1 != r) }))) ∧
  (∀ (s : State) (req : SessRef) (on : List SessRef) (owner : Fin 4096),
    let r := s.inRef req
    let on' := on.map s.inRef
    s.isLeader = true → s.locks.rebuilding = false → s.closes r on' = true →
    exec (.lockGraphQuery req on owner) s = .next ((s.bump epModule C.lockWaitCycle).fabSend owner (.lockAnswer req true))) ∧
  (∀ (s : State) (sess : SessRef) (circle : Bool),
    ∀ r, s.locks.asked.find? (fun w => w.sess == s.inRef sess) = some r →
    exec (.lockGraphAnswer sess circle) s = .next (s.lockTested r circle)) ∧
  (∀ (s₀ : State) (m : Fin 64),
    let s := s₀
    ∀ x, s.getSession m = some x → ∀ k dev eps wait t, x.waiting = some (k, dev, eps, wait, t) →
    let limit := if wait = 0 then s.parF epModule P.remoteTimeout else (wait : Rat)
    s.expired t (msTicks limit) = true →
    let me := s.sessRef m
    let s := s.setSession m (some { x with waiting := none })
    let s := if dev = 0 then s.withdraw me
      else s.fabSend dev (.lockRelease (s.outRef me) (eps.filter (fun e => !x.locks.contains (dev, e))))
    exec (.lockWaitTimeout m) s₀ = .next (s.finish k E.timeout)) ∧
  (∀ (s₀ : State) (edges : List (SessRef × SessRef)),
    let s := s₀
    s.isLeader = true → s.locks.rebuilding = true →
    let s := s.modLocks (fun l => { l with rebuilding := false, graph := edges.map (fun e => (s.inRef e.1, s.inRef e.2)) })
    exec (.waitGraphRebuild edges) s₀ = .next (
      s.locks.asked.foldl (fun s r =>
        let on := State.waitsOn (s.modLocks (fun l => { l with asked := [] })) r
        if s.closes r.sess on then (s.bump epModule C.lockWaitCycle).lockTested r true
        else (s.addEdges r.sess on).lockTested r false) s)) ∧
  (∀ (s : State) (ref : CmdRef) (wait : BitVec 32) (eps : List (BitVec 16)),
    s.queuedFor ref 0x0130 = true →
    let k := cmdKey ref
    let m := keyMbx k
    ∀ x, s.getSession m = some x →
    let d := (s.cmd k).image.device.toNat
    let own := s.isOwn d
    let dev := if own then 0 else d
    let new := (eps.eraseDups.filter (fun e => !x.locks.contains (dev, e))).length
    wait.toNat ≤ 10000 → eps.isEmpty = false → eps.length ≤ 32 → eps.any (fun e => !lockable e) = false →
    x.waiting.isSome = false → x.locks.length + new ≤ 256 →
    let waiting (s : State) : State :=
      (s.setSession m (some { x with waiting := some (k, dev, eps, wait.toNat, s.tick) })).run k
    let me := s.sessRef m
    own = true →
    let a := s.lockTry { sess := me, eps := eps } (wait != 0)
    a.2 = .waits →
    exec (.lock ref wait eps) s = .next (waiting a.1)) ∧
  (∀ (s : State) (ref : CmdRef) (wait : BitVec 32) (eps : List (BitVec 16)),
    s.queuedFor ref 0x0130 = true →
    let k := cmdKey ref
    let m := keyMbx k
    ∀ x, s.getSession m = some x →
    let d := (s.cmd k).image.device.toNat
    let own := s.isOwn d
    let dev := if own then 0 else d
    let new := (eps.eraseDups.filter (fun e => !x.locks.contains (dev, e))).length
    wait.toNat ≤ 10000 → eps.isEmpty = false → eps.length ≤ 32 → eps.any (fun e => !lockable e) = false →
    x.waiting.isSome = false → x.locks.length + new ≤ 256 →
    let waiting (s : State) : State :=
      (s.setSession m (some { x with waiting := some (k, dev, eps, wait.toNat, s.tick) })).run k
    let me := s.sessRef m
    own = false →
    exec (.lock ref wait eps) s = .next (waiting (s.fabSend dev (.lockRequest (s.outRef me) eps wait.toNat)))) ∧
  (∀ (s : State) (sess : SessRef) (eps : List (BitVec 16)) (wait : Bool),
    let r := s.inRef sess
    let a := s.lockTry { sess := r, eps := eps } wait
    a.2 = .locked →
    exec (.lockRequestMsg sess eps wait) s = .next (a.1.tellRefusal r false)) ∧
  (∀ (s₀ : State) (sess : SessRef) (eps : List (BitVec 16)),
    let s := s₀
    let r := s.inRef sess
    eps.isEmpty = false →
    let s := if s.locks.withdraws r eps then s.withdraw r else s
    exec (.lockReleaseMsg sess eps) s₀ = .next (s.releaseLocks r eps)) ∧
  (∀ (s : State) (req : SessRef) (on : List SessRef) (owner : Fin 4096),
    let r := s.inRef req
    let on' := on.map s.inRef
    s.isLeader = true → s.locks.rebuilding = false → s.closes r on' = false →
    exec (.lockGraphQuery req on owner) s = .next ((s.addEdges r on').fabSend owner (.lockAnswer req false)))

/-- The thread commands and the events of the scheduler: THREAD_LOAD, THREAD_START, THREAD_CANCEL, THREAD_PRIO, THREAD_DISPATCH, AGEING_RAISE,
SCHEDULER_TICK, THREAD_TRAP. Each clause gives the next state from the state and the operands alone (R560, R568, R569, R571, R572, R573,
R575, R580, R582, R586, R591, R592); the model's own choices in it are log entries 5, 6, 50. -/
def Obligations.SchedulerActs : Prop :=
  (∀ (s₀ : State) (ref : CmdRef) (image : List Byte),
    let s := s₀
    s.queuedFor ref 0x0D00 = true →
    let k := cmdKey ref
    let im := programOf image
    programBad image = false → s.sched.images.length < 32 → im.code + im.data + im.bss ≤ s.poolFree →
    let h := s.newHandle (s.sched.images.map (·.1))
    let s := s.took.modSched (fun c => { c with images := mput c.images h im })
    exec (.threadLoad ref image) s₀ = .next (s.ok k (le4 h))) ∧
  (∀ (s₀ : State) (ref : CmdRef) (handle : BitVec 32) (prio ceiling : Byte) (ageing : BitVec 32),
    let s := s₀
    s.queuedFor ref 0x0D01 = true →
    let k := cmdKey ref
    let im := mget s.sched.images handle.toNat {}
    let b := ageing.toNat
    s.sched.images.any (fun x => x.1 == handle.toNat) = true → s.prioBad prio ceiling = false →
    ¬ (decide (b ≠ 0) && (decide (b < 10) || decide (1000000 < b))) → s.sched.live.length < 192 → im.stack ≤ s.poolFree →
    let id := s.newThread
    let t : Thread :=
      { base := prio.toNat, ceiling := ceiling.toNat, eff := prio.toNat, bound := b, affinity := im.affinity
        image := handle.toNat, entry := im.entry, a0 := BitVec.ofNat 64 id }
    let s := s.took.modSched (fun c => (c.putThread id t).enterReady id)
    exec (.threadStart ref handle prio ceiling ageing) s₀ = .next (s.ok k (le2 id))) ∧
  (∀ (s : State) (ref : CmdRef) (id : BitVec 16),
    s.queuedFor ref 0x0D02 = true →
    let k := cmdKey ref
    let i := id.toNat
    s.sched.threads.any (fun x => x.1 == i) = true → (mget s.sched.threads i {}).state = .ended →
    exec (.threadCancel ref id) s = .next (s.ok k [2])) ∧
  (∀ (s : State) (ref : CmdRef) (id : BitVec 16),
    s.queuedFor ref 0x0D02 = true →
    let k := cmdKey ref
    let i := id.toNat
    s.sched.threads.any (fun x => x.1 == i) = true → (mget s.sched.threads i {}).state = .running →
    exec (.threadCancel ref id) s = .next ((s.modSched (·.endThread i)).ok k [0])) ∧
  (∀ (s : State) (ref : CmdRef) (id : BitVec 16) (prio ceiling : Byte),
    s.queuedFor ref 0x0D03 = true →
    let k := cmdKey ref
    s.sched.alive id.toNat = true → s.prioBad prio ceiling = false →
    exec (.threadPrio ref id prio ceiling) s = .next ((s.modSched (·.setPrio id.toNat prio.toNat ceiling.toNat)).ok k)) ∧
  (∀ (s : State),
    s.power.state = .ramble → s.power.change.isNone = true →
    exec (.threadDispatch) s = .next s.dispatch) ∧
  (∀ (s₀ : State) (id : Fin 256),
    let s := s₀
    let t := mget s.sched.threads id.val {}
    t.state = .ready → t.bound ≠ 0 → t.bound ≤ t.waited → t.eff < t.ceiling →
    let s := s.modSched (fun c =>
      let c := (c.unready id.val).modThread id.val (fun t => { t with eff := t.eff + 1 })
      c.enterReady id.val)
    exec (.ageingRaise id) s₀ = .next (s.bump epModule C.schAgeRaise)) ∧
  (∀ (s₀ : State),
    let s := s₀
    let now := tickFloor s.ft
    now ≠ s.sched.lastTick →
    let s := s.modSched (fun c =>
      { c with lastTick := now
               busy := (List.range 8).foldl (fun m k => if (c.runs k).isSome then mset m k (mget m k 0 + 64) 0 else m) c.busy })
    s.power.state = .ramble →
    exec (.schedulerTick) s₀ = .next ((s.modSched Sched.age).wakeDue now)) ∧
  (∀ (s₀ : State),
    let s := s₀
    let now := tickFloor s.ft
    now ≠ s.sched.lastTick →
    let s := s.modSched (fun c =>
      { c with lastTick := now
               busy := (List.range 8).foldl (fun m k => if (c.runs k).isSome then mset m k (mget m k 0 + 64) 0 else m) c.busy })
    s.power.state ≠ .ramble →
    exec (.schedulerTick) s₀ = .next s) ∧
  (∀ (s : State) (core : Fin 8) (mcause mtval : BitVec 64),
    mcause ≠ 8 → ¬ (mcause == 5 && windowMay mtval.toNat false) → ¬ (mcause == 7 && windowMay mtval.toNat true) →
    ∀ id, s.sched.runs core.val = some id →
    exec (.threadTrap core mcause mtval) s = .next (s.threadFault core.val id mcause mtval))

/-- The scheduler calls: SCH_YIELD, SCH_SLEEP, SCH_SLEEP_UNTIL, SCH_WAIT, SCH_SIGNAL, SCH_NOW, SCH_EXIT, SCH_CALL_INVALID. Each clause gives
the next state from the state and the operands alone (R574, R579, R583, R584, R585, R587); the model's own choices in it are log entry 5. -/
def Obligations.SchedulerCallsAct : Prop :=
  (∀ (s : State) (core : Fin 8),
    ∀ id, s.sched.runs core.val = some id →
    exec (.schYield core) s = .next (((s.a0 id 0).rebase id).modSched (fun c => (c.setCore core.val none).enterReady id))) ∧
  (∀ (s : State) (core : Fin 8) (ns : BitVec 64),
    ∀ id, s.sched.runs core.val = some id → ns.toNat ≤ 2000000000 →
    let w := tickCeil (s.ft + ns.truncate 32)
    exec (.schSleep core ns) s = .next (
      ((s.a0 id 0).rebase id).blockThread core id (fun t => { t with state := .sleeping, wake := some w }))) ∧
  (∀ (s : State) (core : Fin 8) (ns : BitVec 64),
    ∀ id, s.sched.runs core.val = some id → 2000000000 < ns.toNat →
    exec (.schSleep core ns) s = .next (s.a0 id 2)) ∧
  (∀ (s : State) (core : Fin 8) (wake : BitVec 64),
    ∀ id, s.sched.runs core.val = some id →
    let w : Ft := wake.truncate 32
    ftDiff w s.ft ≤ 2000000000 →
    exec (.schSleepUntil core wake) s = .next (
      ((s.a0 id 0).rebase id).blockThread core id (fun t => { t with state := .sleeping, wake := some (tickCeil w) }))) ∧
  (∀ (s₀ : State) (core : Fin 8) (event timeout : BitVec 64),
    let s := s₀
    ∀ id, s.sched.runs core.val = some id →
    let e := event.toNat
    let forever := timeout == 0xFFFFFFFF
    userEvent event = true → ¬ (!forever && decide (2000000000 < timeout.toNat)) →
    let s := s.rebase id
    let n := mget s.sched.events e 0
    0 < n →
    exec (.schWait core event timeout) s₀ = .next ((s.a0 id 0).modSched (fun c => { c with events := mset c.events e (n - 1) 0 }))) ∧
  (∀ (s₀ : State) (core : Fin 8) (event timeout : BitVec 64),
    let s := s₀
    ∀ id, s.sched.runs core.val = some id →
    let e := event.toNat
    let forever := timeout == 0xFFFFFFFF
    userEvent event = true → ¬ (!forever && decide (2000000000 < timeout.toNat)) →
    let s := s.rebase id
    let n := mget s.sched.events e 0
    n ≤ 0 → timeout = 0 →
    exec (.schWait core event timeout) s₀ = .next (s.a0 id 1)) ∧
  (∀ (s₀ : State) (core : Fin 8) (event timeout : BitVec 64),
    let s := s₀
    ∀ id, s.sched.runs core.val = some id →
    let e := event.toNat
    let forever := timeout == 0xFFFFFFFF
    userEvent event = true → ¬ (!forever && decide (2000000000 < timeout.toNat)) →
    let s := s.rebase id
    let n := mget s.sched.events e 0
    n ≤ 0 → timeout ≠ 0 →
    let w := if forever then none else some (tickCeil (s.ft + timeout.truncate 32))
    let o := s.sched.nextOrder
    let s := s.modSched (fun c => { c with nextOrder := o + 1 })
    exec (.schWait core event timeout) s₀ = .next (
      s.blockThread core id (fun t => { t with state := .waiting, wake := w, event := some e, waitOrder := o }))) ∧
  (∀ (s : State) (core : Fin 8) (event count : BitVec 64),
    ∀ id, s.sched.runs core.val = some id →
    let e := event.toNat
    userEvent event = true → 1 ≤ count.toNat → count.toNat ≤ 65535 →
    let n := min 0xFFFFFFFF (mget s.sched.events e 0 + count.toNat)
    exec (.schSignal core event count) s = .next (
      (s.a0 id 0).modSched (fun c => ({ c with events := mset c.events e n 0 }).serve e s.tick))) ∧
  (∀ (s : State) (core : Fin 8),
    ∀ id, s.sched.runs core.val = some id →
    exec (.schNow core) s = .next (s.a0 id s.time.ft16.toNat)) ∧
  (∀ (s : State) (core : Fin 8),
    ∀ id, s.sched.runs core.val = some id →
    exec (.schExit core) s = .next (s.modSched (·.endThread id))) ∧
  (∀ (s : State) (core : Fin 8) (a7 : BitVec 64),
    ∀ id, s.sched.runs core.val = some id → ¬ (1 ≤ a7.toNat ∧ a7.toNat ≤ 7) →
    exec (.schCallInvalid core a7) s = .next (s.a0 id 3))

/-- Arbitration: ARBITRATION_GRANT, ARBITRATION_IDLE_CYCLE, GRANT_CUTOFF. Each clause gives the next state from the state and the operands
alone (R596, R597, R600, R602, R604, R605, R606, R609, R610, R611); the model's own choices in it are log entry 5. -/
def Obligations.ArbiterActs : Prop :=
  (∀ (s₀ : State) (arb : ArbId) (raised : List (Fin 17 × Nat)),
    let s := s₀
    let a := (s.getArb arb.num).release
    let all := s.competing arb raised
    let up (i : Nat) : Bool := all.any (fun r => r.1 == i)
    let byLevel := levelWinner arb.n a.w (s.arbLevel arb) up
    let win := if a.f = 15 then slotWinner arb.n a.g up else byLevel
    s.arbOn arb = true → ∀ i, win = some i →
    let wait := mget all i 0
    let b := { a.advance arb.n with
      holder := i + 1, since := s.tick
      waiting := (all.filter (fun r => r.1 != i)).map (fun r => (r.1, r.2 + 1))
      waitMax := if a.waitMax.2 < wait then (i, wait) else a.waitMax }
    let s := (s.setArb arb.num b).bumpIf (a.f == 15 && byLevel != some i) arb.ep C.arbSlotWin
    ∀ p, arb = .fabTx p →
    exec (.arbitrationGrant arb raised) s₀ = .next (s.sendFragment p.val i)) ∧
  (∀ (s : State) (arb : ArbId) (raised : List (Fin 17 × Nat)),
    let a := (s.getArb arb.num).release
    let all := s.competing arb raised
    let up (i : Nat) : Bool := all.any (fun r => r.1 == i)
    let byLevel := levelWinner arb.n a.w (s.arbLevel arb) up
    let win := if a.f = 15 then slotWinner arb.n a.g up else byLevel
    s.arbOn arb = true → (∀ p, arb ≠ .fabTx p) → ∀ i, win = some i →
    let wait := mget all i 0
    let b := { a.advance arb.n with
      holder := i + 1, since := s.tick, waiting := (all.filter (fun r => r.1 != i)).map (fun r => (r.1, r.2 + 1))
      waitMax := if a.waitMax.2 < wait then (i, wait) else a.waitMax }
    exec (.arbitrationGrant arb raised) s = .next (
      (s.setArb arb.num b).bumpIf (a.f == 15 && byLevel != some i) arb.ep C.arbSlotWin)) ∧
  (∀ (s : State) (arb : ArbId),
    s.arbOn arb = true → (s.competing arb []).isEmpty = true →
    exec (.arbitrationIdleCycle arb) s = .next (s.modArb arb.num (fun a => a.release.advance arb.n))) ∧
  (∀ (s₀ : State) (arb : ArbId),
    let s := s₀
    let a := s.getArb arb.num
    s.arbOn arb = true → a.holder ≠ 0 → a.since + arb.tenureTicks ≤ s.tick →
    let i := a.holder - 1
    let n := mget a.cuts i 0 + 1
    let first_ := match a.overhold with
      | some o => o
      | none => (i, s.ft8)
    let b := { a with holder := 0, cuts := mset a.cuts i n 0, overhold := some first_ }
    let s := (s.setArb arb.num b).bump arb.ep C.arbOverholdCnt
    let s := s.log epModule 0x0E04 (dat 0 arb.num + dat 1 i + dat 4 arb.tenure)
    exec (.grantCutoff arb) s₀ = .next (s.cutEffect arb i n))

/-- In an arbitration cycle with f from 0 to 14 the grant goes to the requester of the highest level of those whose request is raised (now, or since
an earlier cycle) and, among those of that
level, to the first in the cyclic order from w; the three counts advance (R601). -/
def Obligations.LevelCycleGrantsHighest : Prop :=
  ∀ (s : State) (arb : ArbId) (raised : List (Fin 17 × Nat)) (i : Nat),
    let a := (s.getArb arb.num).release
    let all := s.competing arb raised
    let up (j : Nat) : Bool := all.any (fun r => r.1 == j)
    let lv := s.arbLevel arb
    let d (j : Nat) : Nat := (j + arb.n - a.w) % arb.n
    s.arbOn arb = true → a.w < arb.n → a.f ≠ 15 → i < arb.n → up i = true →
    (∀ j, j < arb.n → up j = true → lv j ≤ lv i) → (∀ j, j < arb.n → up j = true → lv j = lv i → d i ≤ d j) →
    let wait := mget all i 0
    let t := s.setArb arb.num { a.advance arb.n with
      holder := i + 1, since := s.tick, waiting := (all.filter (fun r => r.1 != i)).map (fun r => (r.1, r.2 + 1))
      waitMax := if a.waitMax.2 < wait then (i, wait) else a.waitMax }
    (∀ p, arb = .fabTx p → exec (.arbitrationGrant arb raised) s = .next (t.sendFragment p.val i)) ∧
    ((∀ p, arb ≠ .fabTx p) → exec (.arbitrationGrant arb raised) s = .next t)

/-- In a slot cycle, f = 15, the grant goes to the first requester whose request is raised in the cyclic order that begins at g, whatever the levels;
ARB_SLOT_WIN counts it where the levels would have chosen another (R602). -/
def Obligations.SlotCycleGrantsFirst : Prop :=
  ∀ (s : State) (arb : ArbId) (raised : List (Fin 17 × Nat)) (i : Nat),
    let a := (s.getArb arb.num).release
    let all := s.competing arb raised
    let up (j : Nat) : Bool := all.any (fun r => r.1 == j)
    let d (j : Nat) : Nat := (j + arb.n - a.g) % arb.n
    s.arbOn arb = true → a.g < arb.n → a.f = 15 → i < arb.n → up i = true → (∀ j, j < arb.n → up j = true → d i ≤ d j) →
    let wait := mget all i 0
    let t := s.setArb arb.num { a.advance arb.n with
      holder := i + 1, since := s.tick, waiting := (all.filter (fun r => r.1 != i)).map (fun r => (r.1, r.2 + 1))
      waitMax := if a.waitMax.2 < wait then (i, wait) else a.waitMax }
    let u := t.bumpIf (levelWinner arb.n a.w (s.arbLevel arb) up != some i) arb.ep C.arbSlotWin
    (∀ p, arb = .fabTx p → exec (.arbitrationGrant arb raised) s = .next (u.sendFragment p.val i)) ∧
    ((∀ p, arb ≠ .fabTx p) → exec (.arbitrationGrant arb raised) s = .next u)

/-- A requester whose request stays raised wins a slot cycle among any 16 × N consecutive arbitration cycles, whatever the levels and
the other requests. -/
def Obligations.RaisedRequestWinsWithin16N : Prop :=
  ∀ (n i : Nat) (a : Arbiter) (up : Nat → Nat → Bool), i < n → a.inRange n = true → (∀ k, up k i = true) →
    ∃ k, k < 16 * n ∧ ((fun b : Arbiter => b.advance n)^[k] a).f = 15 ∧
      slotWinner n ((fun b : Arbiter => b.advance n)^[k] a).g (up k) = some i

/-- The CAN commands and events: CAN_SEND, CAN_CANCEL, CAN_READ, CAN_ARBITRATION, CAN_TX_DONE, CAN_ARB_LOST, CAN_ERROR, CAN_BUS_OFF_RECOVERY,
CAN_FRAME_RX. Each clause gives the next state from the state and the operands alone (R558, R694, R698, R699, R700, R701, R702, R703,
R704, R705, R706, R707); the model's own choices in it are log entries 5, 6. -/
def Obligations.CanActs : Prop :=
  (∀ (s : State) (ref : CmdRef) (ep buf : BitVec 16) (fr : CanFrame) (at_ : Option Ft),
    s.queuedFor ref 0x0A00 = true →
    let k := cmdKey ref
    let c := (canOf ep.toNat).getD 0
    let h := s.getCan c
    let ahead : Int := match at_ with | some t => ftDiff t s.ft | none => 0
    (canOf ep.toNat).isNone = false → buf.toNat ≤ 31 → canFrameBad fr = false → ahead ≤ 2000000000 → h.live = true →
    (h.buf buf.toNat).isSome = false → 0 ≤ ahead →
    exec (.canSend ref ep buf fr at_) s = .next (
      (s.run k).modCan c (fun h => { h with bufs := h.bufs ++ [(buf.toNat, { fr := canFrame fr, at_ := at_, cmd := some k })] }))) ∧
  (∀ (s₀ : State) (ref : CmdRef) (ep buf : BitVec 16),
    let s := s₀
    s.queuedFor ref 0x0A01 = true →
    let k := cmdKey ref
    ∀ c, canOf ep.toNat = some c →
    let h := s.getCan c
    ∀ b, h.buf buf.toNat = some b → h.sending ≠ some buf.toNat →
    let s := s.setCan c (h.drop buf.toNat)
    let s := (s.finishOpt b.cmd E.aborted).bump (epCan c) C.canTxCancelled
    exec (.canCancel ref ep buf) s₀ = .next (s.ok k)) ∧
  (∀ (s₀ : State) (ref : CmdRef) (ep : BitVec 16) (max : Byte),
    let s := s₀
    s.queuedFor ref 0x0A02 = true →
    let k := cmdKey ref
    let c := (canOf ep.toNat).getD 0
    (canOf ep.toNat).isNone = false → max ≠ 0 → max.toNat ≤ 32 →
    let l := (s.getCan c).fifo.take max.toNat
    let s := s.modCan c (fun h => { h with fifo := h.fifo.drop max.toNat })
    exec (.canRead ref ep max) s₀ = .next (s.ok k (leBytes 4 l.length ++ leBytes 4 0 ++ l.flatMap canRecord))) ∧
  (∀ (s : State) (ch : Fin 4),
    exec (.canArbitration ch) s = .next (
      s.modCan ch.val (fun h => if h.live && h.sending.isNone then { h with sending := h.first s.ft } else h))) ∧
  (∀ (s₀ : State) (ch : Fin 4) (sof : Ft8),
    let s := s₀
    let c := ch.val
    let h := s.getCan c
    ∀ n, h.sending = some n →
    let cmd := (h.buf n).bind (·.cmd)
    let s := s.setCan c ({ h.drop n with tec := h.tec - 1 }.level)
    exec (.canTxDone ch sof) s₀ = .next ((s.finishOpt cmd E.ok (leFt8 (sofStamp sof))).bump (epCan c) C.canTxOk)) ∧
  (∀ (s : State) (ch : Fin 4),
    (s.getCan ch.val).sending.isSome = true →
    exec (.canArbLost ch) s = .next (
      (s.modCan ch.val (fun h => { h with sending := none })).bump (epCan ch.val) C.canArbLost)) ∧
  (∀ (s : State) (ch : Fin 4) (err : CanErr), (s.getCan ch.val).state ≠ .off → (s.getCan ch.val).state ≠ .busOff →
    let t := (s.bump (epCan ch.val) (canErrCounter err)).modCan ch.val (fun h => { h.countError err false with
      lastError := canErrCode err, sending := h.sending })
    (t.getCan ch.val).tec ≤ 255 →
    exec (.canError ch err .receiver) s = .next (t.modCan ch.val CanCh.level)) ∧
  (∀ (s : State) (ch : Fin 4) (err : CanErr), (s.getCan ch.val).state ≠ .off → (s.getCan ch.val).state ≠ .busOff →
    (s.getCan ch.val).sending.isSome = true →
    let t := (s.bump (epCan ch.val) (canErrCounter err)).modCan ch.val (fun h => { h.countError err true with
      lastError := canErrCode err, sending := none })
    255 < (t.getCan ch.val).tec →
    exec (.canError ch err (.transmitter false)) s = .next (((t.modCan ch.val (fun h => { h with
      state := .busOff, sending := none, offTick := s.tick })).bump (epCan ch.val) C.canBusOffCnt).log (epCan ch.val) 0x0A02
        (dat 0 (min 255 (t.getCan ch.val).tec)))) ∧
  (∀ (s : State) (ch : Fin 4),
    let c := ch.val
    (s.getCan c).state = .busOff → s.canRecovered c = true →
    exec (.canBusOffRecovery ch) s = .next (
      (s.modCan c (fun h => { h with state := .active, tec := 0, rec_ := 0 })).log (epCan c) 0x0A03 0)) ∧
  (∀ (s₀ : State) (ch : Fin 4) (fr : CanFrame) (remote esi : Bool) (sof : Ft8),
    let s := s₀
    let c := ch.val
    let h := s.getCan c
    h.state ≠ .off → h.state ≠ .busOff →
    let s := s.took.modCan c (fun h => h.goodRx s.fresh)
    remote = true →
    exec (.canFrameRx ch fr remote esi sof) s₀ = .next (s.bump (epCan c) C.canRxRemote)) ∧
  (∀ (s₀ : State) (ch : Fin 4) (fr : CanFrame) (remote esi : Bool) (sof : Ft8),
    let s := s₀
    let c := ch.val
    let h := s.getCan c
    h.state ≠ .off → h.state ≠ .busOff →
    let s := s.took.modCan c (fun h => h.goodRx s.fresh)
    remote = false → (List.range 16).any (fun i => filterPasses (s.par (epCan c) P.canFilter i) fr) = false →
    exec (.canFrameRx ch fr remote esi sof) s₀ = .next (s.bump (epCan c) C.canRxFiltered)) ∧
  (∀ (s₀ : State) (ch : Fin 4) (fr : CanFrame) (remote esi : Bool) (sof : Ft8),
    let s := s₀
    let c := ch.val
    let h := s.getCan c
    h.state ≠ .off → h.state ≠ .busOff →
    let s := s.took.modCan c (fun h => h.goodRx s.fresh)
    remote = false → (List.range 16).any (fun i => filterPasses (s.par (epCan c) P.canFilter i) fr) = true →
    h.fifo.length < 64 →
    exec (.canFrameRx ch fr remote esi sof) s₀ = .next (
      (s.modCan c (fun h => { h with fifo := h.fifo ++ [(sofStamp sof, canFrame fr, esi)] })).bump (epCan c) C.canRxOk))

/-- The field inputs, the group supplies and the FIO links: FIELD_INPUT_DEBOUNCED, FAST_LATCH_EDGE, FAST_LATCH_DEBOUNCED, WIRE_BREAK_SET,
WIRE_BREAK_CLEAR, SUPPLY_MEASUREMENT, SUPPLY_LEVEL_FALL, SUPPLY_LEVEL_RISE, FIO_FRAME_RX, FIO_REPORT_RX, FIO_STALE_TIMEOUT,
FIO_HEARTBEAT_TIMEOUT, SAFETY_FIO_FRAME_RX, SAFETY_FIO_LINK_TIMEOUT. Each clause gives the next state from the state and the operands
alone (R34, R35, R36, R37, R714, R716, R720, R726, R727, R730, R754, R755); the model's own choices in it are log entry 5. -/
def Obligations.FieldInputActs : Prop :=
  (∀ (s : State) (input : Fin 64) (level : Bool) (count : BitVec 32),
    let f := s.fieldIn input.val
    s.dieOff (dieOfGroup (groupOfIn input.val)) = false → f.state ≠ level → f.wireBreak = false →
    exec (.fieldInputDebounced input level count) s = .next (
      (s.modIn input.val (fun f => { f with state := level, count := count })).bump (0x400 + input.val) C.fioInChanges)) ∧
  (∀ (s₀ : State) (input : Fin 16) (level : Bool) (cycles : Fin 100) (frac : Fin 256),
    let s := s₀
    let st := s.stampOf (.fastLatch input) cycles.val frac.val
    let s := s.modTdc (pathNo (.fastLatch input)) (fun c => { c with stamp := st })
    exec (.fastLatchEdge input level cycles frac) s₀ = .next (
      (s.modLatch input.val (fun f => { f with raw := level, edgeTick := s.tick })).bump (0x460 + input.val) C.fioLatchEdges)) ∧
  (∀ (s : State) (input : Fin 16) (level : Bool),
    let f := s.latchIn input.val
    let held := s.passed f.edgeTick (usTicks (s.par (0x460 + input.val) P.flDebounce) * 99 / 100)
    s.dieOff (input.val / 8) = false → f.raw = level → f.state ≠ level → held = true →
    exec (.fastLatchDebounced input level {}) s = .next (
      s.modLatch input.val (fun f => { f with state := level, stamp := (s.getTdc (pathNo (.fastLatch input))).stamp }))) ∧
  (∀ (s : State) (input : Fin 64),
    let i := input.val
    let ep := 0x400 + i
    let f := s.fieldIn i
    s.par ep P.fiWbEnable = 1 → f.state = false → f.wireBreak = false → (s.supply (groupOfIn i)).level = 0 →
    exec (.wireBreakSet input) s = .next (
      ((s.modIn i (fun f => { f with wireBreak := true, state := false })).bump ep C.fioWbCnt).log ep 0x0802 (dat 0 1))) ∧
  (∀ (s : State) (input : Fin 64),
    let i := input.val
    (s.fieldIn i).wireBreak = true →
    exec (.wireBreakClear input) s = .next ((s.modIn i (fun f => { f with wireBreak := false })).log (0x400 + i) 0x0802 0)) ∧
  (∀ (s : State) (group : Fin 4) (mv : Fin 65536),
    exec (.supplyMeasurement group mv) s = .next (
      s.modSupply group.val (fun g =>
        let fall := if mv.val < levelFloor g.level then
            (match g.falling with
              | some (l, t) => some (min l (levelOf mv.val), t)
              | none => some (levelOf mv.val, s.tick))
          else none
        let rise := if riseLevel mv.val < g.level then
            (match g.rising with
              | some (l, t) => some (max l (riseLevel mv.val), t)
              | none => some (riseLevel mv.val, s.tick))
          else none
        { g with mv := mv.val, falling := fall, rising := rise }))) ∧
  (∀ (s : State) (group : Fin 4),
    ∀ l t, (s.supply group.val).falling = some (l, t) → s.passed t (usTicks 100) = true →
    exec (.supplyLevelFall group) s = .next (s.setLevel group.val l)) ∧
  (∀ (s : State) (group : Fin 4),
    ∀ l t, (s.supply group.val).rising = some (l, t) → s.passed t (msTicks 10) = true →
    exec (.supplyLevelRise group) s = .next (s.setLevel group.val l)) ∧
  (∀ (s₀ : State) (die : Fin 2) (crcOk : Bool),
    let s := s₀
    let d := die.val
    let l := (s.die d).sets
    let on := s.driveOn
    let s := if on then s.setsLeft d else s
    s.dieOff d = false → on = true → crcOk = true →
    let was := (s.die d).lost
    let s := s.modDie d (fun f => { f with dieTick := s.tick, lost := false })
    let s := if was then (outsOf d).foldl (fun s o =>
        s.modOut o (fun f => if f.state == .hbOff then { f with state := .off, commanded := false, retries := 0 } else f)) s
      else s
    exec (.fioFrameRx die crcOk) s₀ = .next (
      l.foldl (fun s x => ((outsOf d).filter (fun o => bitOf x.2.1 o && !s.timedActs o)).foldl (fun s o => s.command o (bitOf x.2.2 o)) s) s)) ∧
  (∀ (s₀ : State) (die : Fin 2) (r : FioReport),
    let s := s₀
    let d := die.val
    s.dieOff d = false → s.driveOn = true →
    let first := r.stale && !(s.die d).hbLost && !(s.die d).quiet && s.power.change.isNone
    let s := s.modDie d (fun f => { f with rxTick := s.tick, stale := r.stale, hbLost := r.stale, quiet := f.quiet && r.stale })
    let s := if first then (s.log epModule 0x0804 (dat 0 d)).bump epModule C.fioHbLost d else s
    exec (.fioReportRx die r) s₀ = .next (s.takeReport die r)) ∧
  (∀ (s : State) (die : Fin 2),
    s.expired (s.die die.val).rxTick (usTicks 10) = true →
    exec (.fioStaleTimeout die) s = .next (s.modDie die.val (fun f => { f with stale := true }))) ∧
  (∀ (s₀ : State) (die : Fin 2),
    let s := s₀
    let d := die.val
    s.dieOff d = false → (s.die d).lost = false →
    s.expired (s.die d).dieTick (msTicks (s.par epModule P.fioHbTimeout)) = true →
    let s := s.modDie d (fun f => { f with lost := true })
    let s := s.dropTimed (outsOf d) E.aborted
    exec (.fioHeartbeatTimeout die) s₀ = .next (
      ((outsOf d).filter (fun o => !s.outSafe o)).foldl (fun s o => s.modOut o (fun f => { f with state := .hbOff })) s)) ∧
  (∀ (s₀ : State) (die : Fin 2) (valid : Bool),
    let s := s₀
    let d := die.val
    valid = true → s.dieOff d = false →
    let s := s.modDie d (fun f => { f with safTick := s.tick, safLost := false })
    exec (.safetyFioFrameRx die valid) s₀ = .next ((s.brakesOn d).foldl (fun s b => s.command b.2 (s.safety.brakeOn.contains b.1)) s)) ∧
  (∀ (s : State) (die : Fin 2),
    let d := die.val
    s.expired (s.die d).safTick (msTicks 2) = true →
    exec (.safetyFioLinkTimeout die) s = .next (
      (s.brakesOn d).foldl (fun s b => s.command b.2 false) (s.modDie d (fun f => { f with safLost := true })))) ∧
  (∀ (s₀ : State) (die : Fin 2) (crcOk : Bool),
    let s := s₀
    let d := die.val
    let on := s.driveOn
    let s := if on then s.setsLeft d else s
    s.dieOff d = false → on = true → crcOk = false →
    exec (.fioFrameRx die crcOk) s₀ = .next (s.bump epModule C.fioFrameErr d))

/-- The field outputs: FIO_OUT_SET, FIO_OUT_AT, FIO_OUT_AT_APPLY, OUTPUT_CURRENT_LIMIT, OUTPUT_LIMIT_END, OUTPUT_OVERTEMP, GROUP_OVERTEMP,
OUTPUT_COOLED, OUTPUT_RETRY_RESET. Each clause gives the next state from the state and the operands alone (R557, R723, R724, R725, R726);
the model's own choices in it are log entries 5, 6. -/
def Obligations.FieldOutputActs : Prop :=
  (∀ (s₀ : State) (ref : CmdRef) (mask values : BitVec 32),
    let s := s₀
    s.queuedFor ref 0x0800 = true →
    let k := cmdKey ref
    (maskOuts mask).any s.outSafe = false →
    let on (d : Nat) := (outsOf d).any (fun o => mask.getLsbD o)
    mask ≠ 0 →
    let s := s.run k
    exec (.fioOutSet ref mask values) s₀ = .next (
      [0, 1].foldl (fun s d => if on d then s.modDie d (fun f => { f with sets := f.sets ++ [(k, mask.toNat, values.toNat)] }) else s) s)) ∧
  (∀ (s : State) (ref : CmdRef) (mask values : BitVec 32) (ft : Ft),
    s.queuedFor ref 0x0801 = true →
    let k := cmdKey ref
    let l := maskOuts mask
    let d := ftDiff ft s.ft
    l.any (fun o => s.outSafe o || (s.fieldOut o).timed.isSome) = false → 20000 ≤ d → d ≤ 2000000000 → mask ≠ 0 →
    exec (.fioOutAt ref mask values ft) s = .next (
      l.foldl (fun s o => s.modOut o (fun f => { f with timed := some (ft, values.getLsbD o, k) })) (s.run k))) ∧
  (∀ (s₀ : State) (die : Fin 2),
    let s := s₀
    let due := (outsOf die.val).filterMap (fun o => match (s.fieldOut o).timed with
      | some (t, v, k) => if 0 ≤ ftDiff s.ft t then some (o, v, k) else none
      | none => none)
    s.dieOff die.val = false → (s.die die.val).lost = false →
    let s := due.foldl (fun s x => (s.modOut x.1 (fun f => { f with timed := none, atTick := some s.tick })).command x.1 x.2.1) s
    exec (.fioOutAtApply die) s₀ = .next (((due.map (·.2.2)).eraseDups).foldl (fun s k => s.timedDone k E.ok) s)) ∧
  (∀ (s : State) (out : Fin 32),
    let o := out.val
    (s.fieldOut o).state = .on →
    exec (.outputCurrentLimit out) s = .next (
      ((s.modOut o (fun f => { f with state := .limit })).bump (0x440 + o) C.fioOutLimit).overload o 1)) ∧
  (∀ (s : State) (out : Fin 32),
    (s.fieldOut out.val).state = .limit →
    exec (.outputLimitEnd out) s = .next (s.modOut out.val (·.toOn s.tick))) ∧
  (∀ (s : State) (out : Fin 32),
    exec (.outputOvertemp out) s = .next (s.cool out.val)) ∧
  (∀ (s : State) (group : Fin 4),
    exec (.groupOvertemp group) s = .next ((outsOfGroup group.val).foldl (fun s o => s.cool o) s)) ∧
  (∀ (s : State) (out : Fin 32),
    let o := out.val
    let f := s.fieldOut o
    f.state = .cooling → f.retryMax ≠ 0 → f.retryMax ≤ f.retries →
    exec (.outputCooled out) s = .next (s.modOut o (fun f => { f with state := .latched }))) ∧
  (∀ (s : State) (out : Fin 32),
    let o := out.val
    let f := s.fieldOut o
    f.state = .cooling → ¬ (f.retryMax ≠ 0 ∧ f.retryMax ≤ f.retries) →
    exec (.outputCooled out) s = .next ((s.modOut o (fun f => { f.toOn s.tick with retries := f.retries + 1 })).overload o 3)) ∧
  (∀ (s : State) (out : Fin 32),
    let f := s.fieldOut out.val
    f.state = .on → s.passed f.onTick (msTicks 1000) = true →
    exec (.outputRetryReset out) s = .next (s.modOut out.val (fun f => { f with retries := 0 })))

/-- The bring-up of a fabric port and its delay exchanges: FAB_PORT, PORT_TRAINING_START, PORT_CAL_DONE, BLOCK_LOCK, TRAIN_BLOCK_RX,
TRAIN_TIMEOUT, PORT_RETRY, BENCH_END, DELAY_REQ_SEND, DELAY_REQ_RX, DELAY_RESP_RX, DELAY_EXCHANGE_FAIL. Each clause gives the next state
from the state and the operands alone (R35, R89, R91, R625, R626, R627, R628, R630, R631, R668); the model's own choices in it are log
entries 5, 6, 51. -/
def Obligations.FabricPortActs : Prop :=
  (∀ (s : State) (ref : CmdRef) (port action : Byte),
    s.queuedFor ref 0x0901 = true →
    let k := cmdKey ref
    let p := port.toNat
    let f := s.getFabPort p
    let inMask := bitOf (s.par epModule P.fabPortMask) p
    p ≤ 3 → action.toNat ≤ 3 → ¬ (action == 0 && f.disabled) → ¬ (action == 1 && (!f.disabled || !inMask)) →
    ¬ (action == 2 && f.state != .bench) → ¬ (action == 3 && !s.fabEnabled p) → action.toNat = 0 →
    exec (.fabPort ref port action) s = .next (((s.modFabPort p (fun f => { f with disabled := true })).linkDown p 7).ok k)) ∧
  (∀ (s : State) (port : Fin 4),
    s.passed s.fabric.d6Tick (msTicks (2 * port.val)) = true →
    exec (.portTrainingStart port) s = .next (s.enablePort port.val)) ∧
  (∀ (s : State) (port : Fin 4) (txLat rxLat : Nat),
    (s.getFabPort port.val).state = .cal →
    exec (.portCalDone port txLat rxLat) s = .next (
      s.modFabPort port.val (fun f => { f.fresh .train s.tick with lat := (txLat, rxLat) }))) ∧
  (∀ (s : State) (port : Fin 4),
    (s.getFabPort port.val).training = true →
    exec (.blockLock port) s = .next (s.modFabPort port.val (fun f => { f with locked := true }))) ∧
  (∀ (s : State) (port : Fin 4) (seen : Bool) (half : Fin 2) (sender : Fin 4) (uid : BitVec 32) (b6 : Byte),
    let p := port.val
    let f := s.getFabPort p
    f.linked = false → f.training = true → f.locked = true → b6 ≠ 1 →
    exec (.trainBlockRx port seen half sender uid b6) s = .next (s.modFabPort p (fun f => { f with halves := (0, 0) }))) ∧
  (∀ (s : State) (port : Fin 4),
    let f := s.getFabPort port.val
    f.training = true → s.expired f.since trnTicks = true →
    exec (.trainTimeout port) s = .next (s.trainFail port.val)) ∧
  (∀ (s : State) (port : Fin 4),
    ∀ t, (s.getFabPort port.val).retryFrom = some t → s.passed t (msTicks 20) = true →
    exec (.portRetry port) s = .next (s.startCal port.val)) ∧
  (∀ (s : State) (port : Fin 4),
    let f := s.getFabPort port.val
    f.state = .bench → ∀ t, f.benchFrom = some t → s.expired t (msTicks 100) = true →
    exec (.benchEnd port) s = .next (s.setFabPort port.val { f with state := .up, benchFrom := none })) ∧
  (∀ (s₀ : State) (port : Fin 4) (tx : TdcEdge),
    let s := s₀
    let p := port.val
    (s.getFabPort p).exchangeDue s.tick = true →
    let n := (s.getFabPort p).exchangeNo + 1
    let t1 := s.stampEdge (.fabTx port) tx
    let s := s.modFabPort p (fun f => { f with exchangeNo := n, exchange := some (n.toNat, ft16Of8 t1), reqTick := some s.tick })
    exec (.delayReqSend port tx) s₀ = .next ((s.depart p (.delayReq n.toNat)).putStamp (.fabTx port) t1)) ∧
  (∀ (s : State) (port : Fin 4) (n : BitVec 16) (rx : TdcEdge) (cyc : Fin 100) (tx : TdcEdge),
    let p := port.val
    (s.getFabPort p).measures = true →
    let t2 := s.stampEdge (.fabRx port) rx
    let t3 := s.departure (.fabTx port) cyc.val
    let real := s.stampEdge (.fabTx port) tx
    exec (.delayReqRx port n rx cyc tx) s = .next (
      (((s.depart p (.delayResp n.toNat (ft16Of8 t2) t3)).checkTx (2 + p) t3 real).putStamp (.fabRx port) t2).putStamp (.fabTx port) real)) ∧
  (∀ (s₀ : State) (port : Fin 4) (n : BitVec 16) (t2 t3 : Ft16) (rx : TdcEdge),
    let s := s₀
    let p := port.val
    let st := s.stampEdge (.fabRx port) rx
    let t4 := ft16Of8 st
    let s := s.putStamp (.fabRx port) st
    let f := s.getFabPort p
    ∀ m t1, f.exchange = some (m, t1) → m = n.toNat → f.measures = true →
    let d : Int := (ft16Diff t4 t1 - ft16Diff t3 t2) / 2
    let f := { f with exchange := none, delayTick := s.tick }
    f.linked = true →
    let l := (d :: f.delays).take 16
    exec (.delayRespRx port n t2 t3 rx) s₀ = .next (s.setFabPort p { f with delays := l, linkDelay := meanDelay l })) ∧
  (∀ (s : State) (port : Fin 4),
    s.expired (s.getFabPort port.val).delayTick (msTicks 16) = true →
    exec (.delayExchangeFail port) s = .next (s.lose port.val 5)) ∧
  (∀ (s : State) (ref : CmdRef) (port action : Byte),
    s.queuedFor ref 0x0901 = true →
    let k := cmdKey ref
    let p := port.toNat
    let f := s.getFabPort p
    let inMask := bitOf (s.par epModule P.fabPortMask) p
    p ≤ 3 → action.toNat ≤ 3 → ¬ (action == 0 && f.disabled) → ¬ (action == 1 && (!f.disabled || !inMask)) →
    ¬ (action == 2 && f.state != .bench) → ¬ (action == 3 && !s.fabEnabled p) → action.toNat = 1 →
    exec (.fabPort ref port action) s = .next (((s.modFabPort p (fun f => { f with disabled := false })).enablePort p).ok k)) ∧
  (∀ (s : State) (port : Fin 4) (seen : Bool) (half : Fin 2) (sender : Fin 4) (uid : BitVec 32) (b6 : Byte),
    let p := port.val
    let f := s.getFabPort p
    f.linked = false → f.training = true → f.locked = true → b6 = 1 →
    let old : BitVec 32 := if half.val = 0 then f.neigh.truncate 32 else (f.neigh >>> 32).truncate 32
    let h := if old == uid || (if half.val = 0 then f.halves.1 == 0 else f.halves.2 == 0) then f.halves else (0, 0)
    let h := if half.val = 0 then (h.1 + 1, h.2) else (h.1, h.2 + 1)
    let neigh : BitVec 64 := if half.val = 0 then ((f.neigh >>> 32) <<< 32) ||| uid.zeroExtend 64
      else (uid.zeroExtend 64 <<< 32) ||| (f.neigh &&& 0xFFFFFFFF)
    let ownSeen := f.seen.1 || (decide (16 ≤ h.1 + h.2) && decide (0 < h.1) && decide (0 < h.2))
    let theirs := f.seen.2 || seen
    let f := { f with halves := h, neigh := neigh, neighPort := sender.val, seen := (ownSeen, theirs) }
    ownSeen = true → theirs = true →
    exec (.trainBlockRx port seen half sender uid b6) s = .next (
      s.setFabPort p { f with state := .measure, since := s.tick, delays := [], repeats := 0, exchange := none, delayTick := s.tick })) ∧
  (∀ (s : State) (port : Fin 4) (seen : Bool) (half : Fin 2) (sender : Fin 4) (uid : BitVec 32) (b6 : Byte),
    let p := port.val
    let f := s.getFabPort p
    f.linked = false → f.training = true → f.locked = true → b6 = 1 →
    let old : BitVec 32 := if half.val = 0 then f.neigh.truncate 32 else (f.neigh >>> 32).truncate 32
    let h := if old == uid || (if half.val = 0 then f.halves.1 == 0 else f.halves.2 == 0) then f.halves else (0, 0)
    let h := if half.val = 0 then (h.1 + 1, h.2) else (h.1, h.2 + 1)
    let neigh : BitVec 64 := if half.val = 0 then ((f.neigh >>> 32) <<< 32) ||| uid.zeroExtend 64
      else (uid.zeroExtend 64 <<< 32) ||| (f.neigh &&& 0xFFFFFFFF)
    let ownSeen := f.seen.1 || (decide (16 ≤ h.1 + h.2) && decide (0 < h.1) && decide (0 < h.2))
    let theirs := f.seen.2 || seen
    let f := { f with halves := h, neigh := neigh, neighPort := sender.val, seen := (ownSeen, theirs) }
    ¬ (ownSeen && theirs) →
    exec (.trainBlockRx port seen half sender uid b6) s = .next (s.setFabPort p f)) ∧
  (∀ (s₀ : State) (port : Fin 4) (n : BitVec 16) (t2 t3 : Ft16) (rx : TdcEdge),
    let s := s₀
    let p := port.val
    let st := s.stampEdge (.fabRx port) rx
    let t4 := ft16Of8 st
    let s := s.putStamp (.fabRx port) st
    let f := s.getFabPort p
    ∀ m t1, f.exchange = some (m, t1) → m = n.toNat → f.measures = true →
    let d : Int := (ft16Diff t4 t1 - ft16Diff t3 t2) / 2
    let f := { f with exchange := none, delayTick := s.tick }
    f.linked = false →
    let l := d :: f.delays
    64 ≤ l.length → delaysBad l = true → f.repeats = 0 →
    exec (.delayRespRx port n t2 t3 rx) s₀ = .next (s.setFabPort p { f with delays := [], repeats := 1 }))

/-- The blocks received on a fabric link and the losses of a link: LINK_SIGNAL_LOST, BLOCK_LOCK_LOST, INVALID_SYNC_HEADER,
CONTROL_BLOCK_TIMEOUT, FRAG_BLOCK_RX, ABORT_BLOCK_RX, IDLE_BLOCK_RX, RESYNC_BLOCK_RX, RMARK_BLOCK_RX, CONTROL_BLOCK_CRC_ERROR. Each clause
gives the next state from the state and the operands alone (R631, R633, R634, R635, R638, R640, R667, R669, R670); the model's own choices
in it are log entry 5. -/
def Obligations.FabricBlockActs : Prop :=
  (∀ (s : State) (port : Fin 4),
    exec (.linkSignalLost port) s = .next (s.lose port.val 1)) ∧
  (∀ (s : State) (port : Fin 4),
    let p := port.val
    (s.getFabPort p).linked = true →
    exec (.blockLockLost port) s = .next (s.linkDown p 2)) ∧
  (∀ (s₀ : State) (port : Fin 4),
    let s := s₀
    let p := port.val
    let s := s.bump (epFab p) C.fabRxBlockErr
    let l := (s.tick :: (s.getFabPort p).badHeaders).take 16
    let s := s.modFabPort p (fun f => { f with badHeaders := l })
    l.length = 16 → (s.tick : Rat) - (l.getLast?.getD 0 : Rat) ≤ usTicks 125 →
    exec (.invalidSyncHeader port) s₀ = .next (s.lose p 3)) ∧
  (∀ (s₀ : State) (port : Fin 4),
    let s := s₀
    let p := port.val
    let s := s.bump (epFab p) C.fabRxBlockErr
    let l := (s.tick :: (s.getFabPort p).badHeaders).take 16
    let s := s.modFabPort p (fun f => { f with badHeaders := l })
    ¬ (l.length = 16 ∧ (s.tick : Rat) - (l.getLast?.getD 0 : Rat) ≤ usTicks 125) →
    exec (.invalidSyncHeader port) s₀ = .next s) ∧
  (∀ (s : State) (port : Fin 4),
    s.expired (s.getFabPort port.val).ctrlTick (usTicks 2) = true →
    exec (.controlBlockTimeout port) s = .next (s.lose port.val 4)) ∧
  (∀ (s₀ : State) (port : Fin 4) (frag : Frag),
    let s := s₀
    let p := port.val
    let vc := frag.vc.val
    let st := frag.stream.val
    let n := frag.blocks
    (s.getFabPort p).measures = true →
    let s := (s.controlTaken p).flush
    let held := ((s.getFabPort p).vc vc).held
    let s := s.modFabPort p (fun f => f.modVc vc (fun c => { c with held := c.held + n }))
    let cur := (((s.getFabPort p).vc vc).rx.find? (fun x => x.1 == st)).map (·.2)
    let a := s.takeFreed p frag.creditVc.val frag.freed
    a.2 = true →
    let s := a.1
    held + n ≤ vcBlocks vc → cur = none → frag.sof = true →
    exec (.fragBlockRx port frag) s₀ = .next (s.takeFrag p frag {})) ∧
  (∀ (s₀ : State) (port : Fin 4) (vc : Fin 4) (stream : Fin 8),
    let s := s₀
    let p := port.val
    let s := (s.controlTaken p).flush
    ∀ u₁ r, ((s.getFabPort p).vc vc.val).rx.find? (fun x => x.1 == stream.val) = some (u₁, r) →
    let s := s.setRx p vc.val stream.val none
    r.bytes.isEmpty = false →
    exec (.abortBlockRx port vc stream) s₀ = .next ((s.abortFrame p vc.val stream.val r.outs).bump (epFab p) C.fabRxAbort)) ∧
  (∀ (s₀ : State) (port : Fin 4) (pair : Fin 2) (freedA freedB : BitVec 16),
    let s := s₀
    let p := port.val
    (s.getFabPort p).measures = true →
    let s := (s.controlTaken p).modFabPort p (fun f => { f with resync := false })
    let s := (s.takeFreed p (2 * pair.val) freedA).1
    exec (.idleBlockRx port pair freedA freedB) s₀ = .next ((s.takeFreed p (2 * pair.val + 1) freedB).1)) ∧
  (∀ (s₀ : State) (port : Fin 4),
    let s := s₀
    let p := port.val
    (s.getFabPort p).measures = true →
    let s := (s.controlTaken p).modFabPort p (fun f => { f with resync := true })
    let f := s.getFabPort p
    exec (.resyncBlockRx port) s₀ = .next (
      ((s.control p .rmark (pairBlock 0x4B 0 (f.vc 0).sent (f.vc 1).sent)).control p .rmark
        (pairBlock 0x4B 1 (f.vc 2).sent (f.vc 3).sent)).bump (epFab p) C.fabCreditResync)) ∧
  (∀ (s₀ : State) (port : Fin 4) (pair : Fin 2) (sentA sentB : BitVec 16),
    let s := s₀
    let p := port.val
    let mark (v : Nat) (n : BitVec 16) (f : FabPort) : FabPort :=
      f.modVc v (fun c => { c with rxFreed := n - BitVec.ofNat 16 c.held })
    (s.getFabPort p).measures = true →
    let s := (s.controlTaken p).modFabPort p (fun f => mark (2 * pair.val + 1) sentB (mark (2 * pair.val) sentA f))
    let f := s.getFabPort p
    exec (.rmarkBlockRx port pair sentA sentB) s₀ = .next (
      s.control p .idle (pairBlock 0x1E pair.val (f.vc (2 * pair.val)).rxFreed (f.vc (2 * pair.val + 1)).rxFreed))) ∧
  (∀ (s₀ : State) (port : Fin 4),
    let s := s₀
    let p := port.val
    (s.getFabPort p).measures = true →
    let s := (s.flush.bump (epFab p) C.fabRxCtrlErr).breakStreams p
    exec (.controlBlockCrcError port) s₀ = .next ((s.control p .resync (controlBlock 0x66 [])).bump (epFab p) C.fabCreditResync))

/-- Discovery, headcount and generations: DISCOVER_SEND, DISCOVER_RX, DISCOVER_EXPIRY, GENERATION_RECOMPUTE, REPORT_SEND, REPORT_RX,
ASSIGN_RX, TABLE_RX, TABLE_APPLY, SOLO_TIMEOUT. Each clause gives the next state from the state and the operands alone (R630, R641, R642,
R643, R644, R645, R646, R647, R648, R649, R655); the model's own choices in it are log entry 5. -/
def Obligations.FabricGenerationActs : Prop :=
  (∀ (s₀ : State) (port : Fin 4),
    let s := s₀
    let p := port.val
    s.discoverDue p = true →
    let s := s.tellSync
    let s := s.modFabPort p (fun f => { f with discTick := some s.tick, discSent := some (s.ownDiscover p) })
    exec (.discoverSend port) s₀ = .next (s.sendLocal p (.discover (s.ownDiscover p)))) ∧
  (∀ (s₀ : State) (port : Fin 4) (d : Discover),
    let s := s₀
    let p := port.val
    (s.getFabPort p).linked = true →
    let foreign := (s.fabric.state == .member || s.fabric.state == .solo) && d.root != s.fabric.root
    let s := s.modFabPort p (fun f =>
      { f with disc := some (d, s.tick), foreign := foreign, foreignOffset := if foreign then f.foreignOffset else none })
    exec (.discoverRx port d) s₀ = .next (s.updateView.tryMerge p)) ∧
  (∀ (s : State) (port : Fin 4),
    let p := port.val
    ∀ u₁ t, (s.getFabPort p).disc = some (u₁, t) → s.expired t (msTicks 10) = true →
    exec (.discoverExpiry port) s = .next (
      (s.modFabPort p (fun f => { f with disc := none, foreign := false, foreignOffset := none, report := none })).updateView)) ∧
  (∀ (s : State) (topo : List ReportEntry),
    s.leads = true → s.fabric.state = .member →
    let a := s.fabric.assigned.filter (fun x => topo.any (fun e => e.uid == x.uid))
    exec (.generationRecompute topo) s = .next ((s.installGen topo a false).bump epModule C.fabRecompute)) ∧
  (∀ (s₀ : State),
    let s := s₀
    s.fabric.state = .counting → s.settled = true → s.fabric.reported = false → ¬ (s.isRoot && s.fabric.parent == 7) →
    let l := s.allEntries
    let s := { s with fabric := { s.fabric with reported := true } }
    exec (.reportSend) s₀ = .next (s.sendLocal s.fabric.parent (.report l))) ∧
  (∀ (s : State) (port : Fin 4) (piece : BitVec 16) (l : List ReportEntry), (s.getFabPort port.val).linked = true → s.leads = true →
    s.fabric.state = .member ∨ s.fabric.state = .solo →
    exec (.reportRx port ⟨piece, l⟩) s = .next (s.admitJoining l)) ∧
  (∀ (s : State) (port : Fin 4) (piece : BitVec 16) (l : List ReportEntry), (s.getFabPort port.val).linked = true → s.fabric.state = .counting →
    s.isRoot = false →
    exec (.reportRx port ⟨piece, l⟩) s = .next (s.modFabPort port.val (fun f => { f with report := some (if piece = 0 then l else f.report.getD [] ++ l) }))) ∧
  (∀ (s₀ : State) (port : Fin 4) (l : List AssignEntry),
    let s := s₀
    (s.getFabPort port.val).linked = true →
    let s := s.takeAssign l
    exec (.assignRx port l) s₀ = .next ((s.childPorts.filter (· ≠ port.val)).foldl (fun s p => s.sendLocal p (.assign l)) s)) ∧
  (∀ (s : State) (port : Fin 4) (gen : Nat) (d : TableData),
    (s.getFabPort port.val).linked = true → s.fabric.state ≠ .refused →
    let t := match s.fabric.incoming with
      | some t => if t.gen = gen % 65536 then t else { gen := gen % 65536 }
      | none => { gen := gen % 65536 }
    exec (.tableRx port gen d) s = .next ({ s with fabric := { s.fabric with incoming := some (t.take d) } })) ∧
  (∀ (s : State),
    ∀ t, s.fabric.incoming = some t → ∀ a, t.apply = some a → ftLater a s.ft = false → s.fabric.state ≠ .refused →
    exec (.tableApply) s = .next (s.applyTable t)) ∧
  (∀ (s₀ : State),
    let s := s₀
    s.fabric.state = .counting → s.d6On = true → s.passed s.fabric.d6Tick (msTicks (s.parF epModule P.fabSoloWait)) = true →
    (List.range 4).all (fun p => (s.getFabPort p).state != .up) = true →
    let dev := if s.fabric.preferred = 0 then 1 else s.fabric.preferred
    let s := { s with fabric := { s.fabric with
      state := .solo, device := dev, root := Config.uid, depth := 0, parent := 7, leaderDev := dev, modules := 1
      routes := [(dev, 4)] } }
    let s := s.followTime
    exec (.soloTimeout) s₀ = .next ((s.log epModule 0x0905 (dat 0 dev + dat 2 1)).elected))

/-- The fabric commands and the frames in service: FAB_PREFER, FAB_TOPOLOGY, LINK_DOWN_FRAME_RX, REPAIR_APPLY, TIME_FRAME_SEND, TIME_FRAME_RX,
REGISTER_RX, BULK_RX, BULK_TIMEOUT, RELAY_EXPIRY. Each clause gives the next state from the state and the operands alone (R89, R91, R377,
R645, R649, R653, R654, R656, R659, R664, R666, R667); the model's own choices in it are log entries 5, 6, 52. -/
def Obligations.FabricTrafficActs : Prop :=
  (∀ (s : State) (ref : CmdRef) (dev : BitVec 16),
    s.queuedFor ref 0x0900 = true →
    let k := cmdKey ref
    dev ≠ 0 → dev.toNat ≤ 0xFFF →
    let f := s.fabric
    let again := f.state == .refused && f.preferred != dev.toNat
    let f := { f with preferred := dev.toNat }
    let f := if again then { f with state := .counting, stableFrom := s.tick, reported := false } else f
    exec (.fabPrefer ref dev) s = .next ({ s with fabric := f }.ok k)) ∧
  (∀ (s : State) (ref : CmdRef),
    s.queuedFor ref 0x0902 = true →
    let k := cmdKey ref
    let f := s.fabric
    let topo := if f.topo.isEmpty then [s.ownEntry] else f.topo
    let a := if f.topo.isEmpty then [{ uid := Config.uid, device := f.device, result := if f.state == .refused then 2 else 0 }] else f.assigned
    let g := graphOf topo a
    exec (.fabTopology ref) s = .next (
      s.ok k (leBytes 8 f.root.toNat ++ leBytes 2 f.leaderDev ++ leBytes 2 f.modules ++ leBytes 2 f.gen ++ leBytes 2 0 ++
        topo.flatMap (topoRecord g f.root a)))) ∧
  (∀ (s₀ : State) (port : Fin 4) (uid : BitVec 64) (lostPort : Fin 4) (cause : Nat) (gen : Nat),
    let s := s₀
    let f := s.fabric
    (s.getFabPort port.val).linked = true → f.downs.any (fun x => x.1 == uid && x.2.1 == lostPort.val) = false →
    let s := { s with fabric := { f with downs := (uid, lostPort.val, s.tick) :: f.downs } }
    exec (.linkDownFrameRx port uid lostPort cause gen) s₀ = .next (
      ((List.range 4).filter (fun q => q != port.val && (s.getFabPort q).state == .up)).foldl
        (fun s q => s.sendLocal q (.linkDown uid lostPort.val cause gen)) s)) ∧
  (∀ (s : State) (lostUid : BitVec 64) (lostPort : Fin 5),
    let f := s.fabric
    ∀ sh, f.shares.find? (fun x => x.lostUid == lostUid && x.lostPort == lostPort.val) = some sh → f.state = .member →
    f.reportedLoss sh = true →
    exec (.repairApply lostUid lostPort) s = .next (s.applyShare sh)) ∧
  (∀ (s : State) (port : Fin 4) (cyc : Fin 100) (tx : TdcEdge),
    let p := port.val
    (s.getFabPort p).linked = true → timeFrameDue s.ft p = true →
    let t := s.departure (.fabTx port) cyc.val
    let m : TimeMsg :=
      { tx := s.xtOfFt16 t, state := s.time.state.code, depth := s.fabric.depth, ptp := s.leaderGm != 0, diverged := s.time.diverged
        leader := s.fabric.root, step := s.time.announced.map (fun a => (a.2, a.1)), gm := s.leaderGm }
    let real := s.stampEdge (.fabTx port) tx
    exec (.timeFrameSend port cyc tx) s = .next (((s.depart p (.time m)).checkTx (2 + p) t real).putStamp (.fabTx port) real)) ∧
  (∀ (s₀ : State) (port : Fin 4) (m : TimeMsg) (rx : TdcEdge),
    let s := s₀
    let p := port.val
    let st := s.stampEdge (.fabRx port) rx
    let s := s.putStamp (.fabRx port) st
    let f := s.getFabPort p
    let o : Int := (m.tx : Int) + f.linkDelay - (s.xtOfFt8 st : Int)
    f.linked = true → f.foreign = true →
    exec (.timeFrameRx port m rx) s₀ = .next ((s.modFabPort p (fun f => { f with foreignOffset := some o })).tryMerge p)) ∧
  (∀ (s : State) (src : Fin 4096) (op : Fin 8) (convoy : Byte) (fa : Nat),
    s.leads = true →
    let held := mget s.fabric.convoys convoy.toNat 0
    let answer (s : State) (st : BitVec 16) : State := s.fabSend src.val (.response 0 convoy.toNat 0 st s.ft8 [])
    ¬ (op.val = 1 && s.fabric.partition) → ¬ (op.val = 1 && held != 0 && held != fa) →
    exec (.registerRx src op convoy fa) s = .next (answer { s with fabric := s.fabric.register src.val op.val convoy.toNat fa } E.ok)) ∧
  (∀ (s : State) (src : Fin 4096) (ident : BitVec 16) (offset : BitVec 32) (data : List Byte),
    let f := s.fabric
    let this (x : Nat × Nat × List Byte × Option Nat) : Bool := x.1 == src.val && x.2.1 == ident.toNat
    let was := f.bulk.find? this
    let buf := writeAt ((was.map (·.2.2.1)).getD []) offset.toNat data
    exec (.bulkRx src ident offset data) s = .next (
      { s with fabric := { f with
        bulk := (src.val, ident.toNat, buf, (was.map (·.2.2.2)).getD none) :: f.bulk.filter (fun x => !this x) } })) ∧
  (∀ (s₀ : State) (src : Fin 4096) (ident : BitVec 16),
    let s := s₀
    let this (x : Nat × Nat × List Byte × Option Nat) : Bool := x.1 == src.val && x.2.1 == ident.toNat
    ∀ u₁ u₂ u₃ t, s.fabric.bulk.find? this = some (u₁, u₂, u₃, some t) →
    s.expired t (msTicks (s.parF epModule P.remoteTimeout)) = true →
    let s := { s with fabric := { s.fabric with bulk := s.fabric.bulk.filter (fun x => !this x) } }
    let s := match s.unicast src.val with
      | p :: _ => if p < 4 then s.violate p 6 else s
      | [] => s
    exec (.bulkTimeout src ident) s₀ = .next (s.fabSend src.val (.nack ident.toNat 6))) ∧
  (∀ (s : State) (addr : BitVec 32) (udp : BitVec 16),
    exec (.relayExpiry addr udp) s = .next (
      { s with fabric := { s.fabric with
        relays := s.fabric.relays.filter (fun r => !(r.addr == addr && r.udp == udp && s.expired r.tick (msTicks 1000))) } })) ∧
  (∀ (s₀ : State) (port : Fin 4) (m : TimeMsg) (rx : TdcEdge),
    let s := s₀
    let p := port.val
    let st := s.stampEdge (.fabRx port) rx
    let s := s.putStamp (.fabRx port) st
    let f := s.getFabPort p
    let o : Int := (m.tx : Int) + f.linkDelay - (s.xtOfFt8 st : Int)
    f.linked = true → f.foreign = false → p = s.fabric.parent → s.leads = false →
    let s := match m.step with
      | some (d, a) => if ftLater a s.ft then { s with time := { s.time with announced := some (a, d) } } else s
      | none => s
    exec (.timeFrameRx port m rx) s₀ = .next (s.timeMeasure o)) ∧
  (∀ (s₀ : State) (port : Fin 4) (m : TimeMsg) (rx : TdcEdge),
    let s := s₀
    let p := port.val
    let st := s.stampEdge (.fabRx port) rx
    let s := s.putStamp (.fabRx port) st
    let f := s.getFabPort p
    f.linked = true → f.foreign = false → ¬ (p = s.fabric.parent && !s.leads) →
    exec (.timeFrameRx port m rx) s₀ = .next s)

/-- The Ethernet frames, ARP, ICMP, the relay, gates and sending: ETH_FRAME_INVALID, PAUSE_FRAME_RX, ARP_REQUEST_RX, ARP_REPLY_RX,
ICMP_ECHO_RX, ARP_ENTRY_EXPIRY, ARP_RESOLVE_TIMEOUT, FRAG_REASSEMBLY_TIMEOUT, ETH_LINK_CHANGE, SAFE_FRAME_HANDOVER, SAFE_FRAME_TX,
RELAY_RX, RELAY_DATAGRAM_RX, ETH_FRAME_TX, ETH_SCHEDULED_ENQUEUE, ETH_TX_LATE, QBV_GATE_CHANGE, QBV_CONFIG_CHANGE. Each clause gives the
next state from the state and the operands alone (R413, R666, R672, R674, R675, R676, R678, R680, R683, R684, R690, R691); the model's own
choices in it are log entry 5. -/
def Obligations.EthernetActs : Prop :=
  (∀ (s : State) (port : Fin 2) (bad : EthBad),
    let ep := epEth port.val
    bad = .fcs →
    exec (.ethFrameInvalid port bad) s = .next (s.bump ep C.netRxFcsErr)) ∧
  (∀ (s : State) (port : Fin 2),
    exec (.pauseFrameRx port) s = .next ((s.ethRx port.val).bump (epEth port.val) C.netRxPause)) ∧
  (∀ (s₀ : State) (port : Fin 2) (target sender : BitVec 32) (mac : BitVec 48),
    let s := s₀
    let p := port.val
    let s := s.ethRx p
    target.toNat = s.par (epEth p) P.netIp →
    exec (.arpRequestRx port target sender mac) s₀ = .next (s.ethPut p 2 { msg := .arpReply sender mac, len := 64, target := none })) ∧
  (∀ (s₀ : State) (port : Fin 2) (sender : BitVec 32) (mac : BitVec 48),
    let s := s₀
    let p := port.val
    let s := s.ethRx p
    let e := s.getEth p
    let go := e.held.filter (fun h => h.1 == sender)
    let s := s.setEth p { e with
      arp := ((sender, mac, s.tick) :: e.arp.filter (fun a => a.1 != sender)).take 64, held := e.held.filter (fun h => h.1 != sender) }
    exec (.arpReplyRx port sender mac) s₀ = .next (go.foldl (fun s h => s.ethPut p h.2.2.1 h.2.1) s)) ∧
  (∀ (s₀ : State) (port : Fin 2) (sender : BitVec 32) (data : List Byte),
    let s := s₀
    let p := port.val
    let s := s.ethRx p
    let i := (s.getEth p).icmp
    let i := if i.1 + 64000000 ≤ s.tick ∨ i.2 = 0 then (s.tick, 0) else i
    i.2 < 100 →
    let s := s.modEth p (fun e => { e with icmp := (i.1, i.2 + 1) })
    exec (.icmpEchoRx port sender data) s₀ = .next (
      s.ipSend p 2 sender { msg := .echoReply sender data, len := s.frameLen p (24 + data.length), target := none })) ∧
  (∀ (s : State) (port : Fin 2) (addr : BitVec 32),
    exec (.arpEntryExpiry port addr) s = .next (
      s.modEth port.val (fun e => { e with arp := e.arp.filter (fun a => !(a.1 == addr && s.expired a.2.2 (msTicks 60000))) }))) ∧
  (∀ (s : State) (port : Fin 2) (addr : BitVec 32),
    let p := port.val
    let old (h : BitVec 32 × EthFrame × Nat × Nat) : Bool := h.1 == addr && s.expired h.2.2.2 (msTicks 10)
    let n := ((s.getEth p).held.filter old).length
    exec (.arpResolveTimeout port addr) s = .next (
      (s.modEth p (fun e => { e with held := e.held.filter (fun h => !old h) })).bumpBy (epEth p) C.netArpFail 0 n)) ∧
  (∀ (s : State) (port : Fin 2) (buf : Fin 8),
    exec (.fragReassemblyTimeout port buf) s = .next (
      (s.modEth port.val (fun e => { e with reasm := mset e.reasm buf.val 0 0 })).bump (epEth port.val) C.netFragDrop)) ∧
  (∀ (s : State) (port : Fin 2) (up : Bool),
    exec (.ethLinkChange port up) s = .next (s.ethLink port.val up)) ∧
  (∀ (s : State) (port : Fin 2) (bytes : List Byte) (rx : TdcEdge),
    let stamp := s.stampEdge (.ethRx port) rx
    exec (.safeFrameHandover port bytes rx) s = .next (
      ((s.putStamp (.ethRx port) stamp).ethRx port.val).modSafety (fun f => { f with inbox := (port.val, bytes, stamp) :: f.inbox }))) ∧
  (∀ (s : State) (conn : Fin 64) (bytes : List Byte),
    let f := (conn.val, bytes)
    f ∈ s.safety.outbox →
    exec (.safeFrameTx conn bytes) s = .next (
      (s.modSafety (fun q => { q with outbox := q.outbox.erase f })).sendSafe conn.val bytes)) ∧
  (∀ (s₀ : State) (src : Fin 4096) (ethPort : Fin 2) (returned : Bool) (addr : BitVec 32) (udp : BitVec 16) (data : List Byte),
    let s := s₀
    let p := ethPort.val
    returned = false →
    let r : Relay := { port := p, addr := addr, udp := udp, dev := src.val, tick := s.tick }
    let s := { s with fabric := { s.fabric with
      relays := r :: s.fabric.relays.filter (fun x => !(x.port == p && x.addr == addr && x.udp == udp)) } }
    exec (.relayRx src ethPort returned addr udp data) s₀ = .next (s.udpOut p 3 addr data (fun l => .relay addr udp l))) ∧
  (∀ (s₀ : State) (port : Fin 2) (addr : BitVec 32) (udp : BitVec 16) (data : List Byte),
    let s := s₀
    let s := s.ethRx port.val
    ∀ r, s.fabric.relays.find? (fun r => r.port == port.val && r.addr == addr && r.udp == udp && !s.expired r.tick (msTicks 1000)) = some r →
    exec (.relayDatagramRx port addr udp data) s₀ = .next (s.fabSend r.dev (.relay port.val true addr udp data))) ∧
  (∀ (s₀ : State) (port : Fin 2),
    let s := s₀
    let p := port.val
    (s.getEth p).linkUp = true →
    let s := s.fillSession p
    let s := (List.range 8).foldl (fun s q => (s.dropLate p q).dropOversize p q) s
    ∀ q, s.nextQueue p = some q → ∀ f u₁, (s.getEth p).queue q = f :: u₁ →
    exec (.ethFrameTx port) s₀ = .next ((s.popQueue p q).ethSent p q f)) ∧
  (∀ (s₀ : State) (port : Fin 2) (na : Fin 128),
    let s := s₀
    let p := port.val
    let i := na.val
    ∀ m, (s.getRemote i).frame = some m → s.par (epRemote i) P.remTransport = p →
    ∀ u₁ u₂ u₃ t u₄ u₅ u₆, m = .remote u₁ u₂ u₃ t u₄ u₅ u₆ →
    let t := t
    let s := s.modRemote i (fun r => { r with frame := none })
    exec (.ethScheduledEnqueue port na) s₀ = .next (s.ipSend p 5 (s.remIp i) { msg := m, len := s.frameLen p 68, target := some t })) ∧
  (∀ (s : State) (port : Fin 2) (queue : Fin 8),
    let p := port.val
    exec (.ethTxLate port queue) s = .next (s.dropLate p queue.val)) ∧
  (∀ (s : State) (port : Fin 2),
    exec (.qbvGateChange port) s = .next (s.modEth port.val (fun e => { e with gates := e.gatesAt s.xt }))) ∧
  (∀ (s₀ : State) (port : Fin 2),
    let s := s₀
    let p := port.val
    ∀ t en, (s.getEth p).qbvPending = some (t, en) → t ≤ s.xt16 →
    let r := qbvRecord (arrBytes (s.par (epEth p) P.qbvList))
    let s := s.modEth p (fun e => { e with qbvPending := none, qbvActive := en, qbvOper := if en then some r else none })
    exec (.qbvConfigChange port) s₀ = .next (s.modEth p (fun e => { e with gates := e.gatesAt s.xt }))) ∧
  (∀ (s : State) (port : Fin 2) (bad : EthBad),
    let ep := epEth port.val
    bad = .fragments →
    exec (.ethFrameInvalid port bad) s = .next ((s.ethRx port.val).bump ep C.netFragDrop))

/-- The PTP messages and their time-outs: PTP_SYNC_RX, PTP_FOLLOW_UP_RX, PTP_PDELAY_REQ_RX, PTP_PDELAY_RESP_RX, PTP_PDELAY_RESP_FOLLOW_UP_RX,
PTP_DELAY_RESP_RX, PTP_ANNOUNCE_RX, PTP_IGNORED_RX, PTP_ANNOUNCE_TIMEOUT, PTP_DELAY_REQ_SEND. Each clause gives the next state from the
state and the operands alone (R89, R91, R685, R686, R687, R688); the model's own choices in it are log entry 5. -/
def Obligations.PtpActs : Prop :=
  (∀ (s₀ : State) (port : Fin 2) (h : PtpHeader) (twoStep : Bool) (origin : Nat) (corr : Int) (rx : TdcEdge),
    let s := s₀
    let p := port.val
    let st := s.stampEdge (.ethRx port) rx
    let at_ := s.xtOfFt8 st
    let s := (s.putStamp (.ethRx port) st).ethRx p
    s.par (epEth p) P.ptpProfile ≠ 0 → h.wellFormed = true → h.major = 2 → h.domain = s.par (epEth p) P.ptpDomain →
    s.fromMaster p h = true → twoStep = true →
    exec (.ptpSyncRx port h twoStep origin corr rx) s₀ = .next (s.modPtp p (fun q => { q with syncWait := some (h.seq, corr, at_) }))) ∧
  (∀ (s₀ : State) (port : Fin 2) (h : PtpHeader) (origin : Nat) (corr : Int),
    let s := s₀
    let p := port.val
    let s := s.ethRx p
    s.par (epEth p) P.ptpProfile ≠ 0 → h.wellFormed = true → h.major = 2 → h.domain = s.par (epEth p) P.ptpDomain →
    s.fromMaster p h = true → ∀ q c rx, (s.ptp p).syncWait = some (q, c, rx) → q = h.seq →
    exec (.ptpFollowUpRx port h origin corr) s₀ = .next (
      (s.modPtp p (fun q => { q with syncWait := none })).ptpOffset p ((origin : Int) + c + corr) rx)) ∧
  (∀ (s₀ : State) (port : Fin 2) (h : PtpHeader) (rx : TdcEdge) (cyc : Fin 100) (tx : TdcEdge),
    let s := s₀
    let p := port.val
    let st := s.stampEdge (.ethRx port) rx
    let t2 := s.xtOfFt8 st
    let s := (s.putStamp (.ethRx port) st).ethRx p
    s.par (epEth p) P.ptpProfile ≠ 0 → h.wellFormed = true → h.major = 2 → h.domain = s.par (epEth p) P.ptpDomain →
    s.par (epEth p) P.ptpProfile = 1 →
    let t3 := s.departure (.ethTx port) cyc.val
    let real := s.stampEdge (.ethTx port) tx
    exec (.ptpPdelayReqRx port h rx cyc tx) s₀ = .next (
      ((s.ethDepart p (.pdelayResp h.seq h.sender t2 (s.xtOfFt16 t3)) 54).checkTx p t3 real).putStamp (.ethTx port) real)) ∧
  (∀ (s₀ : State) (port : Fin 2) (h : PtpHeader) (twoStep : Bool) (t2 : Nat) (corr : Int) (rx : TdcEdge),
    let s := s₀
    let p := port.val
    let st := s.stampEdge (.ethRx port) rx
    let t4 := s.xtOfFt8 st
    let s := (s.putStamp (.ethRx port) st).ethRx p
    s.par (epEth p) P.ptpProfile ≠ 0 → h.wellFormed = true → h.major = 2 → h.domain = s.par (epEth p) P.ptpDomain →
    s.par (epEth p) P.ptpProfile = 1 → ∀ q t1, (s.ptp p).req = some (q, t1) → q = h.seq → twoStep = true →
    exec (.ptpPdelayRespRx port h twoStep t2 corr rx) s₀ = .next (s.modPtp p (fun x => { x with respWait := some (t2, corr, t4) }))) ∧
  (∀ (s₀ : State) (port : Fin 2) (h : PtpHeader) (t3 : Nat) (corr : Int),
    let s := s₀
    let p := port.val
    let s := s.ethRx p
    s.par (epEth p) P.ptpProfile ≠ 0 → h.wellFormed = true → h.major = 2 → h.domain = s.par (epEth p) P.ptpDomain →
    s.par (epEth p) P.ptpProfile = 1 → ∀ q t1, (s.ptp p).req = some (q, t1) →
    ∀ t2 c t4, (s.ptp p).respWait = some (t2, c, t4) → q = h.seq →
    exec (.ptpPdelayRespFollowUpRx port h t3 corr) s₀ = .next (s.ptpDelay p (((t4 : Int) - t1 - ((t3 : Int) - t2) - c - corr) / 2) true)) ∧
  (∀ (s₀ : State) (port : Fin 2) (h : PtpHeader) (rxTime : Nat) (corr : Int),
    let s := s₀
    let p := port.val
    let s := s.ethRx p
    s.par (epEth p) P.ptpProfile ≠ 0 → h.wellFormed = true → h.major = 2 → h.domain = s.par (epEth p) P.ptpDomain →
    s.par (epEth p) P.ptpProfile = 2 → ∀ q t3, (s.ptp p).req = some (q, t3) →
    ∀ origin rx, (s.ptp p).lastSync = some (origin, rx) → q = h.seq →
    exec (.ptpDelayRespRx port h rxTime corr) s₀ = .next (
      s.ptpDelay p ((((rx : Int) - origin) + ((rxTime : Int) - corr - t3)) / 2) (s.ptp p).asCapable)) ∧
  (∀ (s₀ : State) (port : Fin 2) (h : PtpHeader) (a : Announce),
    let s := s₀
    let p := port.val
    let s := s.ethRx p
    s.par (epEth p) P.ptpProfile ≠ 0 → h.wellFormed = true → h.major = 2 → h.domain = s.par (epEth p) P.ptpDomain →
    s.par (epEth p) P.ptpSourceEnable ≠ 0 →
    let q := s.ptp p
    let old := q.heard.filter (fun x =>
      !(x.1.sender == a.sender && x.1.senderPort == a.senderPort) && !s.expired x.2 (s.announceTicks p x.1))
    let heard := (a, s.tick) :: old
    q.master = none →
    let same := false
    q.master = none →
    let take := a
    let s := s.modPtp p (fun q => { q with
      heard := heard, master := some take
      annTick := if same || q.master.isNone || take == a then s.tick else q.annTick })
    exec (.ptpAnnounceRx port h a) s₀ = .next ((s.countWin p).followTime)) ∧
  (∀ (s₀ : State) (port : Fin 2) (bad : Bool),
    let s := s₀
    let s := s.ethRx port.val
    bad = false →
    exec (.ptpIgnoredRx port bad) s₀ = .next (s.ptpIgnore port.val)) ∧
  (∀ (s : State) (port : Fin 2),
    let p := port.val
    ∀ a, (s.ptp p).master = some a → s.expired (s.ptp p).annTick (s.announceTicks p a) = true →
    exec (.ptpAnnounceTimeout port) s = .next (
      (s.modPtp p (fun q => { q with master := none, heard := [], wins := 0, syncWait := none, lastSync := none })).followTime)) ∧
  (∀ (s₀ : State) (port : Fin 2) (cyc : Fin 100) (tx : TdcEdge),
    let s := s₀
    let p := port.val
    let prof := s.par (epEth p) P.ptpProfile
    prof ≠ 0 → (s.getEth p).linkUp = true → s.ptpReqDue p = true →
    let t1 := s.departure (.ethTx port) cyc.val
    let n := (s.ptp p).seq + 1
    let x := s.xtOfFt16 t1
    let real := s.stampEdge (.ethTx port) tx
    let s := s.modPtp p (fun q => { q with seq := n, req := some (n, x), respWait := none, reqTick := some s.tick })
    exec (.ptpDelayReqSend port cyc tx) s₀ = .next (
      ((s.ethDepart p (if prof = 1 then .pdelayReq n x else .delayReq n x) (if prof = 1 then 54 else 72)).checkTx p t1 real).putStamp
        (.ethTx port) real)) ∧
  (∀ (s₀ : State) (port : Fin 2) (h : PtpHeader) (twoStep : Bool) (origin : Nat) (corr : Int) (rx : TdcEdge),
    let s := s₀
    let p := port.val
    let st := s.stampEdge (.ethRx port) rx
    let at_ := s.xtOfFt8 st
    let s := (s.putStamp (.ethRx port) st).ethRx p
    s.par (epEth p) P.ptpProfile ≠ 0 → h.wellFormed = true → h.major = 2 → h.domain = s.par (epEth p) P.ptpDomain →
    s.fromMaster p h = true → twoStep = false →
    exec (.ptpSyncRx port h twoStep origin corr rx) s₀ = .next (s.ptpOffset p ((origin : Int) + corr) at_)) ∧
  (∀ (s₀ : State) (port : Fin 2) (h : PtpHeader) (twoStep : Bool) (t2 : Nat) (corr : Int) (rx : TdcEdge),
    let s := s₀
    let p := port.val
    let st := s.stampEdge (.ethRx port) rx
    let t4 := s.xtOfFt8 st
    let s := (s.putStamp (.ethRx port) st).ethRx p
    s.par (epEth p) P.ptpProfile ≠ 0 → h.wellFormed = true → h.major = 2 → h.domain = s.par (epEth p) P.ptpDomain →
    s.par (epEth p) P.ptpProfile = 1 → ∀ q t1, (s.ptp p).req = some (q, t1) → q = h.seq → twoStep = false →
    exec (.ptpPdelayRespRx port h twoStep t2 corr rx) s₀ = .next (s.ptpDelay p (((t4 : Int) - t1 - corr) / 2) true)) ∧
  (∀ (s₀ : State) (port : Fin 2) (bad : Bool),
    let s := s₀
    let s := s.ethRx port.val
    bad = true →
    exec (.ptpIgnoredRx port bad) s₀ = .next (s.ptpBad port.val))

/-- The safety commands and the states of the island: SAF_CONFIG_LOAD, SAF_CONFIG_READ, SAF_COMMISSION, SAF_ACK, SAFETY_SUPPLY_GOOD,
SAFETY_SELFTEST_DONE, SAFETY_CONFIG_DELIVERY, SAFETY_INTERNAL_FAULT, SAFETY_PERIODIC_SELFTEST, SAFETY_OSC_CHECK. Each clause gives the
next state from the state and the operands alone (R22, R541, R741, R762, R763, R764, R765, R766); the model's own choices in it are log
entries 5, 6. -/
def Obligations.SafetyIslandActs : Prop :=
  (∀ (s₀ : State) (ref : CmdRef) (image : List Byte),
    let s := s₀
    s.queuedFor ref 0x0B00 = true →
    let k := cmdKey ref
    ∀ c, parseSaf image = some c →
    let st := s.safety.state
    s.safChannelOn = false → st == .run || st == .unconfirmed →
    let s := (s.latch 1 allGroups).useConfig c
    let s := s.modSafety (fun q => { q with state := .unconfirmed, stored := image })
    exec (.safConfigLoad ref image) s₀ = .next (s.ok k (leBytes 4 (crc32 image)))) ∧
  (∀ (s : State) (ref : CmdRef),
    s.queuedFor ref 0x0B01 = true →
    let k := cmdKey ref
    exec (.safConfigRead ref) s = .next (s.ok k s.safety.config.image)) ∧
  (∀ (s₀ : State) (ref : CmdRef) (value : BitVec 32),
    let s := s₀
    s.queuedFor ref 0x0B10 = true →
    let k := cmdKey ref
    let check := crc32 s.safety.config.image
    let st := s.safety.state
    st == .unconfirmed || st == .run → s.safety.config.image.isEmpty = false → value.toNat = check →
    let s := (s.modSafety (fun q => { q with confirmed := some value })).log epModule 0x0B04 (dat 0 value.toNat)
    exec (.safCommission ref value) s₀ = .next ((if st == .run then s else s.enterRun).ok k)) ∧
  (∀ (s : State) (ref : CmdRef) (value : BitVec 32),
    s.queuedFor ref 0x0B10 = true →
    let k := cmdKey ref
    let check := crc32 s.safety.config.image
    let st := s.safety.state
    st == .unconfirmed || st == .run → s.safety.config.image.isEmpty = false → value.toNat ≠ check →
    exec (.safCommission ref value) s = .next ((s.log epModule 0x0B05 (dat 0 value.toNat + dat 4 check)).finish k E.faultSafety)) ∧
  (∀ (s : State) (ref : CmdRef) (mask : Byte),
    s.queuedFor ref 0x0B11 = true →
    let k := cmdKey ref
    s.safety.state ≠ .halted →
    exec (.safAck ref mask) s = .next ((s.run k).modSafety (fun q => { q with ack := q.ack ++ [(k, mask.toNat)] }))) ∧
  (∀ (s₀ : State),
    let s := s₀
    let s := (List.range 8).foldl State.assertGroup s
    exec (.safetySupplyGood) s₀ = .next (
      ({ s with safety := {
        confirmed := s.safety.confirmed, stored := s.safety.stored, config := s.safety.config.dieOnly, coreTick := s.tick, ack := s.safety.ack, ackWait := s.safety.ackWait } }).finishAcks
        |>.modPower (fun p => { p with domains := p.domains ||| 4 }))) ∧
  (∀ (s : State),
    s.safety.state = .start →
    exec (.safetySelftestDone) s = .next (s.modSafety (fun q => { q with state := .waitConfig }))) ∧
  (∀ (s₀ : State),
    let s := s₀
    s.safety.state = .waitConfig →
    let check := crc32 s.safety.stored
    ∀ c, parseSaf s.safety.stored = some c →
    let s := s.useConfig c
    s.safety.confirmed = some (BitVec.ofNat 32 check) →
    exec (.safetyConfigDelivery) s₀ = .next s.enterRun) ∧
  (∀ (s : State) (f : SafInternal), exec (.safetyInternalFault f) s = .next s.safInternal) ∧
  (∀ (s : State) (passed : Bool),
    passed = false →
    exec (.safetyPeriodicSelftest passed) s = .next s.safInternal) ∧
  (∀ (s : State) (passed : Bool),
    passed = true →
    exec (.safetyPeriodicSelftest passed) s = .next s) ∧
  (∀ (s : State) (within : Bool),
    within = false →
    exec (.safetyOscCheck within) s = .next s.safInternal) ∧
  (∀ (s : State) (within : Bool),
    within = true →
    exec (.safetyOscCheck within) s = .next s)

/-- The channels of the island: SAFE_CYCLE, RELEASE_TEST, DARK_PULSE_TEST, DARK_PULSE_LOW_SIDE, SAFE_INPUT_CHANGE, SAFE_INPUT_TEST,
SAFETY_TAP_EDGE, SAFETY_TAP_WORD, BRAKE_CURRENT_FAULT. Each clause gives the next state from the state and the operands alone (R734, R742,
R746, R747, R748, R756); the model's own choices in it are log entry 5. -/
def Obligations.SafetyChannelActs : Prop :=
  (∀ (s : State) (readback : List Readback),
    exec (.safeCycle readback) s = .next (s.safeCycle readback)) ∧
  (∀ (s : State) (group : Fin 8) (r : ReleaseReadings),
    let g := group.val
    (s.sto g).testing = true → ∀ w, releaseFailure r = some w →
    exec (.releaseTest group r) s = .next (s.switchFails g w)) ∧
  (∀ (s : State) (group : Fin 8) (r : ReleaseReadings),
    let g := group.val
    (s.sto g).testing = true → releaseFailure r = none →
    exec (.releaseTest group r) s = .next (s.release g)) ∧
  (∀ (s₀ : State) (group : Fin 8) (opened closed : Bool) (brakeCurrents : List Nat),
    let s := s₀
    let g := group.val
    let q := s.sto g
    q.released = true → q.lowDue = false → s.passed q.darkTick (msTicks (60000 * (s.stoCfg g).2)) = true →
    let s := s.modSto g (fun q => { q with darkTick := s.tick, lowDue := true })
    opened = true → closed = true →
    exec (.darkPulseTest group opened closed brakeCurrents) s₀ = .next ((s.bump (epSto g) C.safTestOk).brakeTest g brakeCurrents)) ∧
  (∀ (s₀ : State) (group : Fin 8) (opened closed : Bool) (brakeCurrents : List Nat),
    let s := s₀
    let g := group.val
    let q := s.sto g
    q.released = true → q.lowDue = false → s.passed q.darkTick (msTicks (60000 * (s.stoCfg g).2)) = true →
    let s := s.modSto g (fun q => { q with darkTick := s.tick, lowDue := true })
    ¬ (opened && closed) →
    exec (.darkPulseTest group opened closed brakeCurrents) s₀ = .next ((s.switchFails g 0).brakeTest g brakeCurrents)) ∧
  (∀ (s₀ : State) (group : Fin 8) (opened closed : Bool),
    let s := s₀
    let g := group.val
    let q := s.sto g
    q.released = true → q.lowDue = true → s.passed q.darkTick (msTicks 100) = true →
    let s := s.modSto g (fun q => { q with lowDue := false })
    opened = true → closed = true →
    exec (.darkPulseLowSide group opened closed) s₀ = .next (s.bump (epSto g) C.safTestOk)) ∧
  (∀ (s : State) (input : Fin 8) (level : Bool),
    exec (.safeInputChange input level) s = .next (
      s.modSafety (fun q => { q with
        ins := mmod q.ins input.val {} (fun x => { x with raw := level, state := level && !x.testFail }) }))) ∧
  (∀ (s₀ : State) (input : Fin 8) (readsZero : Bool),
    let s := s₀
    let i := input.val
    let c := s.safety.config
    (mfind c.inputs i).any (·.1) = true →
    let s := s.modSafety (fun q => { q with
      ins := mmod q.ins i {} (fun x => { x with testFail := !readsZero, state := readsZero && (if x.testFail then x.raw else x.state) }) })
    readsZero = true →
    exec (.safeInputTest input readsZero) s₀ = .next s) ∧
  (∀ (s₀ : State) (input : Fin 8) (readsZero : Bool),
    let s := s₀
    let i := input.val
    let c := s.safety.config
    (mfind c.inputs i).any (·.1) = true →
    let s := s.modSafety (fun q => { q with
      ins := mmod q.ins i {} (fun x => { x with testFail := !readsZero, state := readsZero && (if x.testFail then x.raw else x.state) }) })
    readsZero = false →
    let gs := (c.funcs.filter (fun e => e.2.req == 1 && e.2.src == i)).map (fun e => e.2.group + 1)
    exec (.safeInputTest input readsZero) s₀ = .next ((s.bump (0x1FC0 + i) C.safSiTestFail).raiseCause 10 (causeMask gs.eraseDups))) ∧
  (∀ (s : State) (axis : Fin 32) (a b : Bool) (sample : BitVec 32),
    ∀ c, mfind s.safety.config.axes axis.val = some c → c.tap = 1 →
    exec (.safetyTapEdge axis ⟨a, b⟩ sample) s = .next (
      s.modTap axis.val (fun t =>
        let d := (quadPlace a b + 4 - quadPlace t.levels.1 t.levels.2) % 4
        let near := match t.edge with
          | some e => decide ((sample - e).toNat < tapSpacing)
          | none => false
        let t := { t with levels := (a, b), edge := some sample }
        if near then t
        else match d with
        | 1 => { t with count := wrapInt 64 (t.count + 1) }
        | 3 => { t with count := wrapInt 64 (t.count - 1) }
        | 2 => { t with illegal := (s.tick :: t.illegal).take 3 }
        | _ => t))) ∧
  (∀ (s : State) (axis : Fin 32) (w : TapWord),
    ∀ c, mfind s.safety.config.axes axis.val = some c → ∀ raw, tapRead c w = .position raw →
    exec (.safetyTapWord axis w) s = .next (
      s.modTap axis.val (fun t =>
        let n := c.stBits + c.mtBits
        let d : Int := match t.raw with
          | some r => signedOf n ((raw + 2 ^ n - r) % 2 ^ n)
          | none => raw - t.unwrapped
        let jump := t.raw.isSome && decide (f32Val c.jump.toNat < rabs ((d : Rat) / pow2 c.stBits))
        if c.tap = 2 && jump then { t with badRun := t.badRun + 1 }
        else { t with raw := some raw, unwrapped := t.unwrapped + d, goodTick := s.tick, badRun := 0 }))) ∧
  (∀ (s : State) (channel : Fin 80),
    ∀ u₁, mfind s.safety.config.brakes channel.val = some u₁ → ∀ g, s.channelGroup channel.val = some g →
    exec (.brakeCurrentFault channel) s = .next (s.raiseCause 10 (2 ^ g)))

/-- Safe connections and the reports between the dies: SAFE_FRAME_RX, SAFE_WINDOW_EXPIRY, SAFE_WATCHDOG_EXPIRY, SAFE_PAIR_SEND,
CORE_REPORT_RX, CORE_REPORT_TIMEOUT, SAFETY_REPORT_RX. Each clause gives the next state from the state and the operands alone (R26, R36,
R110, R690, R739, R751, R757, R758, R759, R844); the model's own choices in it are log entry 5. -/
def Obligations.SafetyLinkActs : Prop :=
  (∀ (s : State) (bytes : List Byte),
    let t := s.modSafety (fun q => { q with inbox := q.inbox.eraseP (fun f => f.2.1 == bytes) })
    t.connsRun = true → t.safety.config.conns.find? (fun e => !e.2.outbound && e.2.id == leField bytes 4 4) = none →
    exec (.safeFrameRx bytes) s = .next (t.bump epModule C.safNetBad)) ∧
  (∀ (s₀ : State) (bytes : List Byte),
    let s := s₀
    let s := s.modSafety (fun q => { q with inbox := q.inbox.eraseP (fun f => f.2.1 == bytes) })
    let id := leField bytes 4 4
    let copy := bAt bytes 2
    let conn := s.safety.config.conns.find? (fun e => !e.2.outbound && e.2.id == id)
    let bad := bytes.length != 36 || leField bytes 0 2 != 1 || decide (1 < copy) || bAt bytes 3 != 0 ||
      crc32 (bytes.take 32) != leField bytes 32 4
    s.connsRun = true → ∀ e, conn = some e → bad = false →
    let c := e.1
    let s := (s.connWindows c e.2).connWatch c e.2
    let q := mget s.safety.conns c {}
    let seq := BitVec.ofNat 32 (leField bytes 8 4)
    let body := (bytes.take 32).drop 4
    let ahead := (seq - q.seq).toNat
    ¬ (q.state != .waiting && !(decide (1 ≤ ahead) && decide (ahead ≤ 8))) →
    q.held.any (fun h => h.1 == copy && h.2.1 == seq) = false → ∀ h, q.held.find? (fun h => h.2.1 == seq) = some h →
    h.2.2.1 = body →
    exec (.safeFrameRx bytes) s₀ = .next (s.validPair c seq body)) ∧
  (∀ (s₀ : State) (bytes : List Byte),
    let s := s₀
    let s := s.modSafety (fun q => { q with inbox := q.inbox.eraseP (fun f => f.2.1 == bytes) })
    let id := leField bytes 4 4
    let copy := bAt bytes 2
    let conn := s.safety.config.conns.find? (fun e => !e.2.outbound && e.2.id == id)
    let bad := bytes.length != 36 || leField bytes 0 2 != 1 || decide (1 < copy) || bAt bytes 3 != 0 ||
      crc32 (bytes.take 32) != leField bytes 32 4
    s.connsRun = true → ∀ e, conn = some e → bad = false →
    let c := e.1
    let s := (s.connWindows c e.2).connWatch c e.2
    let q := mget s.safety.conns c {}
    let seq := BitVec.ofNat 32 (leField bytes 8 4)
    let body := (bytes.take 32).drop 4
    let ahead := (seq - q.seq).toNat
    ¬ (q.state != .waiting && !(decide (1 ≤ ahead) && decide (ahead ≤ 8))) →
    q.held.any (fun h => h.1 == copy && h.2.1 == seq) = false → q.held.find? (fun h => h.2.1 == seq) = none →
    exec (.safeFrameRx bytes) s₀ = .next (s.modConn c (fun q => { q with held := (copy, seq, body, s.tick) :: q.held }))) ∧
  (∀ (s : State) (conn : Fin 16),
    let c := conn.val
    ∀ cfg, mfind s.safety.config.conns c = some cfg → s.connsRun = true →
    exec (.safeWindowExpiry conn) s = .next (s.connWindows c cfg)) ∧
  (∀ (s : State) (conn : Fin 16),
    let c := conn.val
    ∀ cfg, mfind s.safety.config.conns c = some cfg → s.connsRun = true →
    exec (.safeWatchdogExpiry conn) s = .next (s.connWatch c cfg)) ∧
  (∀ (s₀ : State) (conn : Fin 16),
    let s := s₀
    let c := conn.val
    let q := mget s.safety.conns c {}
    ∀ cfg, mfind s.safety.config.conns c = some cfg → s.connsRun = true → q.state = .sending →
    s.passed q.sendTick (msTicks cfg.period) = true →
    let seq := q.seq + 1
    let l := s.safeFrame cfg.id seq
    let s := (s.modConn c (fun q => { q with seq := seq, sendTick := s.tick })).bump (0x1FC8 + c) C.safNetPairs
    exec (.safePairSend conn) s₀ = .next (s.modSafety (fun q => { q with outbox := q.outbox ++ [(c, l)] }))) ∧
  (∀ (s₀ : State) (brakes : List Nat),
    let s := s₀
    let s := (List.range 32).foldl (fun s i => s.modTap i (fun t => { t with core := (s.getFb i).vel })) s
    exec (.coreReportRx {} brakes) s₀ = .next (
      s.modSafety (fun q => { q with coreTick := s.tick, coreLost := false, brakeReq := brakes }))) ∧
  (∀ (s : State),
    s.expired s.safety.coreTick (msTicks 1) = true →
    exec (.coreReportTimeout) s = .next (s.modSafety (fun q => { q with coreLost := true }))) ∧
  (∀ (s₀ : State) (group : Fin 8) (cat : Fin 3) (count counter : BitVec 32),
    let s := s₀
    let r := (group.val, cat.val)
    let st := s.correlated 2 counter count safetyCountFt8
    r ∈ s.safety.stopReqs →
    let s := s.modSafety (fun q => { q with stopReqs := q.stopReqs.erase r, stamp := st })
    exec (.safetyReportRx group ⟨cat, count, counter⟩) s₀ = .next ((s.channelsOf group.val).foldl (fun s ch => s.safetyStop ch cat.val) s))

/-- The power states and what moves them: PWR_ENTER, POWER_ENTRY_COMPLETE, POWER_EXIT_COMPLETE, PWR_WAKE, VIN12_BROWNOUT, VIN12_RETURN,
VSTBY_LOSS, SUPPLIES_GOOD, EXT_RESET, EXT_RESET_RELEASE, THERMAL_TRIP, THERMAL_TRIP_RELEASE, CASE_TEMP_READING. Each clause gives the next
state from the state and the operands alone (R22, R739, R772, R773, R774, R775, R776, R777, R780, R781, R809, R822); the model's own
choices in it are log entries 5, 6. -/
def Obligations.PowerStateActs : Prop :=
  (∀ (s : State) (ref : CmdRef) (state : Byte),
    s.queuedFor ref 0x0C00 = true →
    let k := cmdKey ref
    let n := state.toNat
    n ≤ 4 → s.power.change.isSome = false → n ≠ s.power.state.code → n = 0 → s.power.thermalStop = false →
    exec (.pwrEnter ref state) s = .next ((s.run k).beginExit (some k))) ∧
  (∀ (s : State) (ref : CmdRef) (state : Byte),
    s.queuedFor ref 0x0C00 = true →
    let k := cmdKey ref
    let n := state.toNat
    let sched := !s.host.commits.isEmpty || !s.host.parts.isEmpty || !s.host.prepares.isEmpty || !s.power.migrations.isEmpty
    n ≤ 4 → s.power.change.isSome = false → n ≠ s.power.state.code → n ≠ 0 → s.anyAxisOn = false →
    ¬ (decide (3 ≤ n) && sched) →
    exec (.pwrEnter ref state) s = .next (
      (s.run k).beginEntry (match n with | 1 => .stroll | 2 => .rest | 3 => .blanket | _ => .hamper) (some k))) ∧
  (∀ (s₀ : State),
    let s := s₀
    ∀ c, s.power.change = some c → c.entry = true →
    let s := if 2 ≤ c.target.code then s.restSteps else s
    let s := if 3 ≤ c.target.code then s.blanketSteps c.cmd else s
    let s := s.entered c.from_ c.target
    let s := if c.target = .hamper then (s.loseSpilled.coreLost).modPower (fun p => { p with domains := 0x05 }) else s
    let s := s.finishOpt c.cmd E.ok
    s.power.wakeHeld = false →
    exec (.powerEntryComplete) s₀ = .next s.thermalCheck) ∧
  (∀ (s₀ : State),
    let s := s₀
    ∀ c, s.power.change = some c → c.entry = false → ¬ (c.from_ == .hamper && s.host.stage != 8) →
    let s := (s.entered c.from_ .ramble).exitSteps c.from_
    exec (.powerExitComplete) s₀ = .next (((s.safRamble).finishOpt c.cmd E.ok).thermalCheck)) ∧
  (∀ (s : State),
    ∀ c, s.power.change = some c → c.entry = true →
    exec (.pwrWake) s = .next (s.modPower (fun p => { p with wakeHeld := true }))) ∧
  (∀ (s : State),
    s.power.change = none → s.power.state = .hamper → s.power.brownout = false →
    exec (.pwrWake) s = .next (s.leaveHamper 3)) ∧
  (∀ (s₀ : State),
    let s := s₀
    s.power.brownout = false → s.power.good = true →
    let inter := if s.host.cmds.isEmpty then s.power.d0Interrupted else s.interruptedNow
    let s := (s.latch 2 allGroups).modPower (fun p => { p with d0Interrupted := inter })
    exec (.vin12Brownout) s₀ = .next (
      s.coreLost.modPower (fun p => { p with state := .hamper, domains := 0x05, brownout := true }))) ∧
  (∀ (s : State),
    s.power.brownout = true →
    exec (.vin12Return) s = .next ((s.leaveHamper 2).modHost (fun h => { h with goodTick := some s.tick }))) ∧
  (∀ (s₀ : State),
    let s := s₀
    let s := s.d0Cleared
    s.power.brownout = false →
    exec (.vstbyLoss) s₀ = .next (s.modPower (fun p => { p with domains := p.domains &&& 0xFE, good := false }))) ∧
  (∀ (s : State),
    s.power.good = false → s.power.brownout = false →
    exec (.suppliesGood) s = .next (
      (s.coreLost.d0Cleared.modPower (fun p => { p with
          state := .ramble, good := true, resetCause := 1, domains := 0x07, fast := false })).modHost
        (fun h => { h with goodTick := some s.tick, stage := 0, bankB := false }))) ∧
  (∀ (s : State),
    s.power.rstHeld = false → s.power.brownout = false →
    exec (.extReset) s = .next ((s.moduleReset 4 false).modPower (fun p => { p with rstHeld := true }))) ∧
  (∀ (s : State),
    exec (.extResetRelease) s = .next (s.modPower (fun p => { p with rstHeld := false }))) ∧
  (∀ (s : State),
    s.power.tripHeld = false → s.power.brownout = false →
    exec (.thermalTrip) s = .next ((s.moduleReset 5 false).modPower (fun p => { p with tripHeld := true }))) ∧
  (∀ (s : State),
    exec (.thermalTripRelease) s = .next (s.modPower (fun p => { p with tripHeld := false }))) ∧
  (∀ (s₀ : State) (tenths : Int),
    let s := s₀
    bitOf s.power.domains.toNat 1 = true →
    let s := s.modPower (fun p => { p with caseTemp := tenths, hotRun := if 1100 < tenths then min 10 (p.hotRun + 1) else 0 })
    let log := s.power.thermalLog.all (fun t => s.passed t (msTicks 60000))
    let s := if tenths ≤ 1000 then s
      else
        let s := (s.supFault 3).bump epModule C.pwrThermalCnt
        if log then (s.log epModule 0x0C08 (lowBits 16 tenths)).modPower (fun p => { p with thermalLog := some s.tick }) else s
    tenths ≤ 950 →
    exec (.caseTempReading tenths) s₀ = .next (s.modPower (fun p => { p with thermalStop := false })))

/-- Boot, firmware and restarts: FW_WRITE, FW_ACTIVATE, BOOT_STAGE, CFG_SAVE, SUP_WATCHDOG_EXPIRY, SUP_ECC_ERROR, FW_SWITCH_RESTART,
SUPERVISOR_RESTART_DONE. Each clause gives the next state from the state and the operands alone (R777, R779, R783, R787, R790, R791, R792,
R794); the model's own choices in it are log entries 5, 6, 59. -/
def Obligations.BootAndFirmwareActs : Prop :=
  (∀ (s₀ : State) (ref : CmdRef) (bank : Byte) (offset total : BitVec 32) (data : List Byte) (reach : Reach),
    let s := s₀
    s.goesOn ref 0x0C10 = true →
    let k := cmdKey ref
    let b := bank == 1
    let o := offset.toNat
    let n := total.toNat
    let from_ := (s.cmd k).progress
    let done := from_ + reachUnits reach (data.length - from_)
    bank.toNat ≤ 1 → o + data.length ≤ n → n ≤ 65011712 → ¬ (!s.power.rescue && b == s.host.bankB) →
    let f := s.power.bank b
    let f : FwBank := if o = 0 ∧ from_ = 0 then { factory := false, seq := f.seq } else { f with factory := false }
    let f := { f with total := n, valid := false, bytes := (((data.zipIdx o).take done).drop from_).foldl (fun m x => mset m x.2 (some x.1) none) f.bytes }
    let s := s.modPower (fun p => { p.setBank b f with verified := none })
    exec (.fwWrite ⟨ref, reach⟩ bank offset total data) s₀ = .next (
      s.unitsDone k reach (decide (data.length ≤ done)) done (o + done) (leBytes 4 data.length ++ leBytes 4 (o + data.length)))) ∧
  (∀ (s : State) (ref : CmdRef) (bank : Byte) (ft : Ft),
    s.queuedFor ref 0x0C11 = true →
    let k := cmdKey ref
    let b := bank == 1
    let f := s.power.bank b
    let d := ftDiff ft s.ft
    let format := if f.factory then f.slotFormat else leField f.image 12 2
    let other := (s.power.bank (!b)).slotFormat
    let servoOn := (List.range 32).any s.axisOn
    bank.toNat ≤ 1 → f.complete = true → s.power.switching = false → s.power.activation.isSome = false →
    s.power.change.isSome = false → ¬ (ft != 0 && format != other && servoOn) →
    ¬ (ft != 0 && (decide (d < 10000000) || decide (2000000000 < d))) →
    let seq := max s.power.bankA.seq s.power.bankB.seq + 1
    let g := { f with
      valid := true, seq := seq, slotFormat := format, version := if f.factory then f.version else BitVec.ofNat 32 (leField f.image 4 4) }
    let t := s.modPower (fun p => { p.setBank b g with activation := if ft = 0 then p.activation else some (b, s.xtOfFt ft) })
    exec (.fwActivate ref bank ft) s = .next (if f.signed b = true then t.ok k else s.finish k E.auth)) ∧
  (∀ (s : State),
    let stage (n : Nat) (s : State) : State := s.modHost (fun h => { h with stage := n })
    s.power.good = true → s.power.rstHeld = false → s.power.tripHeld = false → s.power.brownout = false →
    s.power.state = .ramble → s.host.stage = 0 →
    exec (.bootStage) s = .next (stage 1 s)) ∧
  (∀ (s₀ : State) (ref : CmdRef) (flashFault : Bool),
    let s := s₀
    s.queuedFor ref 0x0C20 = true →
    let k := cmdKey ref
    let p := s.power
    let olderB := p.recA.valid && (!p.recB.valid || decide (p.recB.seq ≤ p.recA.seq))
    let newest := match p.record with | some r => r.seq | none => 0
    let cfg := match s.host.snaps with | x :: _ => x.cfg | [] => s.cfg
    let r : CfgRecord := if flashFault then {} else
      { seq := newest + 1, valid := true, cfg := cfg, safety := s.safety.stored, keys := s.host.keys }
    let s := s.modPower (fun p => if olderB then { p with recB := r } else { p with recA := r })
    flashFault = false →
    exec (.cfgSave ref flashFault) s₀ = .next (s.took.ok k (leBytes 4 (crc32 (Config.recordBytes s.freeCtr))))) ∧
  (∀ (s : State),
    exec (.supWatchdogExpiry) s = .next (s.restartSup 0x10)) ∧
  (∀ (s : State),
    exec (.supEccError) s = .next (s.restartSup 0x11)) ∧
  (∀ (s₀ : State),
    let s := s₀
    ∀ b x, s.power.activation = some (b, x) → x ≤ s.xt16 → s.power.restarting.isSome = false → s.host.stage = 8 →
    let s := s.restartSup 0x12
    exec (.fwSwitchRestart) s₀ = .next (
      s.modPower (fun p => { p with activation := none, activatedLog := if s.host.bankB = b then some b else none }))) ∧
  (∀ (s₀ : State),
    let s := s₀
    ∀ cause, s.power.restarting = some cause →
    let s := s.modHost (fun h => { h with restarts := min 255 (h.restarts + 1) })
    let s := (s.modPower (fun p => { p with restarting := none })).mailboxesReady.askAgain
    let s := ((s.bump epModule C.supRestartCnt).log epModule 0x0E05 (dat 0 cause + dat 1 s.host.restarts)).supFault 6
    s.power.activatedLog = none →
    exec (.supervisorRestartDone) s₀ = .next s) ∧
  (∀ (s : State),
    let stage (n : Nat) (s : State) : State := s.modHost (fun h => { h with stage := n })
    s.power.good = true → s.power.rstHeld = false → s.power.tripHeld = false → s.power.brownout = false →
    s.power.state = .ramble → s.host.stage = 3 →
    exec (.bootStage) s = .next (stage 4 s.domainsUp)) ∧
  (∀ (s : State),
    let stage (n : Nat) (s : State) : State := s.modHost (fun h => { h with stage := n })
    s.power.good = true → s.power.rstHeld = false → s.power.tripHeld = false → s.power.brownout = false →
    s.power.state = .ramble → s.host.stage = 7 →
    exec (.bootStage) s = .next (stage 8 s.mailboxesReady)) ∧
  (∀ (s₀ : State) (ref : CmdRef) (flashFault : Bool),
    let s := s₀
    s.queuedFor ref 0x0C20 = true →
    let k := cmdKey ref
    let p := s.power
    let olderB := p.recA.valid && (!p.recB.valid || decide (p.recB.seq ≤ p.recA.seq))
    let newest := match p.record with | some r => r.seq | none => 0
    let cfg := match s.host.snaps with | x :: _ => x.cfg | [] => s.cfg
    let r : CfgRecord := if flashFault then {} else
      { seq := newest + 1, valid := true, cfg := cfg, safety := s.safety.stored, keys := s.host.keys }
    let s := s.modPower (fun p => if olderB then { p with recB := r } else { p with recA := r })
    flashFault = true →
    exec (.cfgSave ref flashFault) s₀ = .next ((s.supFault 5).finish k E.aborted)) ∧
  (∀ (s₀ : State),
    let s := s₀
    ∀ cause, s.power.restarting = some cause →
    let s := s.modHost (fun h => { h with restarts := min 255 (h.restarts + 1) })
    let s := (s.modPower (fun p => { p with restarting := none })).mailboxesReady.askAgain
    let s := ((s.bump epModule C.supRestartCnt).log epModule 0x0E05 (dat 0 cause + dat 1 s.host.restarts)).supFault 6
    ∀ b, s.power.activatedLog = some b →
    exec (.supervisorRestartDone) s₀ = .next (
      (s.log epModule 0x0C05 (dat 0 (b2n b) + dat 4 (s.power.bank b).version.toNat)).modPower (fun p => { p with activatedLog := none })))

/-- The engines in operation: PWR_DOMAIN, ENGINE_RESTART, ENGINE_GROUP_READY, ENGINE_RESCUE, AXIS_MIGRATE, MIGRATION_HANDOVER. Each clause
gives the next state from the state and the operands alone (R212, R795, R796, R797, R799, R800, R801, R802, R803); the model's own choices
in it are log entries 5, 6. -/
def Obligations.EnginePowerActs : Prop :=
  (∀ (s₀ : State) (ref : CmdRef) (domain on : Byte),
    let s := s₀
    s.queuedFor ref 0x0C01 = true →
    let k := cmdKey ref
    let d := domain.toNat
    let g := d - 3
    let les := groupEngines g
    let isOn := !s.power.groupOff.contains g
    let busy := les.any (fun le => !(s.hosted le).isEmpty || s.power.migrations.any (fun m => m.target == le))
    d == 3 || d == 4 → on.toNat ≤ 1 → s.power.state = .ramble → busy = false → s.power.groupOn.isSome = false →
    isOn ≠ (on == 1) → on = 0 →
    let s := les.foldl (fun s le => s.setEngine le {}) s
    let s := { s with arbs := les.foldl (fun m le => mdel m (16 + le)) s.arbs }
    let s := s.modPower (fun p => { p with groupOff := p.groupOff ++ [g], oldEngines := p.oldEngines.filter (fun e => !(les.contains e)) })
    exec (.pwrDomain ref domain on) s₀ = .next ((s.modPower (fun p => { p with domains := s.domainsOf p.state })).ok k)) ∧
  (∀ (s₀ : State) (ref : CmdRef) (engine : Byte),
    let s := s₀
    s.queuedFor ref 0x0C02 = true →
    let k := cmdKey ref
    let le := engine.toNat
    le < 16 → (s.getEngine le).state = .halted →
    let s := (s.hosted le).foldl State.unplaceAxis s
    let s := s.setEngine le { state := .idle }
    exec (.engineRestart ref engine) s₀ = .next (
      ((s.modPower (fun p => { p with oldEngines := p.oldEngines.erase le })).log (epEngine le) 0x0C04 0).ok k)) ∧
  (∀ (s₀ : State) (groupB : Bool),
    let s := s₀
    ∀ g k, s.power.groupOn = some (g, k) → g = groupB →
    let s := (groupEngines (b2n g)).foldl (fun s le => s.modEngine le (fun e => { e with state := .idle })) s
    exec (.engineGroupReady groupB) s₀ = .next ((s.modPower (fun p => { p with groupOn := none })).ok k)) ∧
  (∀ (s : State) (le : Fin 16),
    let n := le.val
    (s.getEngine n).state = .halted → s.par epModule P.engRescue = 1 →
    exec (.engineRescue le) s = .next (
      (s.hosted n).foldl (fun s i =>
        match (List.range 16).find? (fun t => t != n && s.mayPlace t i) with
        | some t => ((s.moveAxis i t).lastComplete i).bump (epEngine n) C.leRescue
        | none => s) s)) ∧
  (∀ (s₀ : State) (ref : CmdRef) (ep : BitVec 16) (engine : Byte) (ft : Ft),
    let s := s₀
    s.queuedFor ref 0x0310 = true →
    let k := cmdKey ref
    let i := ep.toNat
    let t := engine.toNat
    let d := ftDiff ft s.ft
    let b := if ft = 0 then s.nextBoundary else s.xtOfFt ft
    let st := (s.getEngine t).state
    ∀ src, (s.getFlags i).engine = some src → ¬ (i < 32 ∧ t = src) →
    let named := s.host.commits.any (fun c => decide (c.b ≤ b) && c.items.any (fun x => x.ep == i))
    let clash := s.power.migrations.any (fun g => g.b == b && !g.moved && (g.source == src || g.target == src || g.source == t || g.target == t))
    let room := s.engineKeeps ((s.willHost t).filter (· ≠ i) ++ [i])
    i < 32 → t < 16 → ¬ (st != .idle && st != .run) → ¬ (ft != 0 && decide (d < 100000)) →
    ¬ (ft != 0 && decide (2000000000 < d)) → room = true → s.slotFormatOf src = s.slotFormatOf t → named = false →
    clash = false → s.handoverFits i = true →
    let s := (s.run k).modPower (fun p => { p with
      migrations := p.migrations ++ [{ axis := i, source := src, target := t, b := b, cmd := some k }] })
    let left := (s.hosted src).filter (fun j => !s.power.migrations.any (fun g => g.axis == j && g.source == src))
    left.isEmpty = false →
    exec (.axisMigrate ref ep engine ft) s₀ = .next s) ∧
  (∀ (s₀ : State) (axis : Fin 32),
    let s := s₀
    let i := axis.val
    ∀ g, s.power.migrations.find? (fun g => g.axis == i && !g.moved && decide (g.b ≤ s.xt16)) = some g →
    s.power.restarting.isSome = false → (s.getFlags i).engine = some g.source → (s.getEngine g.source).holds i = false →
    ¬ (decide ((s.getPwm i).updateXt < g.b) && (s.getPwm i).sample != 0 && !s.released i) →
    let s := s.moveAxis i g.target
    exec (.migrationHandover axis) s₀ = .next (
      s.modPower (fun p => { p with migrations := p.migrations.map (fun x => if x = g then { x with moved := true } else x) }))) ∧
  (∀ (s₀ : State) (ref : CmdRef) (domain on : Byte),
    let s := s₀
    s.queuedFor ref 0x0C01 = true →
    let k := cmdKey ref
    let d := domain.toNat
    let g := d - 3
    let les := groupEngines g
    let isOn := !s.power.groupOff.contains g
    let busy := les.any (fun le => !(s.hosted le).isEmpty || s.power.migrations.any (fun m => m.target == le))
    d == 3 || d == 4 → on.toNat ≤ 1 → s.power.state = .ramble → busy = false → s.power.groupOn.isSome = false →
    isOn ≠ (on == 1) → on ≠ 0 →
    let s := s.modPower (fun p => { p with groupOff := p.groupOff.erase g, groupOn := some (g == 1, k) })
    exec (.pwrDomain ref domain on) s₀ = .next ((s.modPower (fun p => { p with domains := s.domainsOf p.state })).run k)) ∧
  (∀ (s₀ : State) (ref : CmdRef) (ep : BitVec 16) (engine : Byte) (ft : Ft),
    let s := s₀
    s.queuedFor ref 0x0310 = true →
    let k := cmdKey ref
    let i := ep.toNat
    let t := engine.toNat
    let d := ftDiff ft s.ft
    let b := if ft = 0 then s.nextBoundary else s.xtOfFt ft
    let st := (s.getEngine t).state
    ∀ src, (s.getFlags i).engine = some src → ¬ (i < 32 ∧ t = src) →
    let named := s.host.commits.any (fun c => decide (c.b ≤ b) && c.items.any (fun x => x.ep == i))
    let clash := s.power.migrations.any (fun g => g.b == b && !g.moved && (g.source == src || g.target == src || g.source == t || g.target == t))
    let room := s.engineKeeps ((s.willHost t).filter (· ≠ i) ++ [i])
    i < 32 → t < 16 → ¬ (st != .idle && st != .run) → ¬ (ft != 0 && decide (d < 100000)) →
    ¬ (ft != 0 && decide (2000000000 < d)) → room = true → s.slotFormatOf src = s.slotFormatOf t → named = false →
    clash = false → s.handoverFits i = true →
    let s := (s.run k).modPower (fun p => { p with
      migrations := p.migrations ++ [{ axis := i, source := src, target := t, b := b, cmd := some k }] })
    let left := (s.hosted src).filter (fun j => !s.power.migrations.any (fun g => g.axis == j && g.source == src))
    left.isEmpty = true →
    exec (.axisMigrate ref ep engine ft) s₀ = .next (
      s.modEngine src (fun e => if e.state = .run then { e with state := .draining } else e)))

/-- AUX_CURRENT_SAMPLE, AUX_ALIGN_DONE, AUX_START_TIMEOUT, AUX_RETRY_DELAY and AUX_RETRY_RESET complete on a drive in the state each names
(R303, R310, R311). -/
def Obligations.AuxDriveEventsComplete : Prop :=
  (∀ (s t : State) (j : Fin 16) (c d : Int) (u : Nat),
    u = gridAtOrBefore (s.par (epAux j.val) P.auxPeriodTicks) (s.par (epAux j.val) P.auxPhaseTicks) s.xt16 →
    (s.getAux j.val).state ≠ .off → (s.getAux j.val).state ≠ .faulted → (s.getAux j.val).pwm.sample = 0 →
    t = ((s.modAux j.val (fun a => { a with
      sub := (a.sub + 1) % 4, pwm := { a.pwm with
        updateXt := u, period := s.par (epAux j.val) P.auxPeriodTicks * tickUnits, sample := a.pwm.sample + 1 } })).auxSampleFaults j.val).auxSwitch j.val →
    (t.getAux j.val).state.driven = true →
    exec (.auxCurrentSample j c d) s = .next (
      let v := (t.auxMeasure j.val c d).auxWatch j.val
      (if (v.getAux j.val).sub = 0 ∧ (v.getAux j.val).state.speedLoop = true then v.auxSpeedLoop j.val ((v.auxCfg j.val).t * 4)
        else v).auxCurrentLoop j.val ((t.getAux j.val).state == .hold))) ∧
  (∀ (s : State) (j : Fin 16), (s.getAux j.val).state = .align →
    s.passed (s.getAux j.val).since (msTicks (s.parF (epAux j.val) P.auxAlignTime)) = true →
    exec (.auxAlignDone j) s = .next ((s.modAux j.val (fun a => { a with olAngle := 0, olSpeed := 0, handoverFrom := none })).auxEnter
      j.val .openLoop)) ∧
  (∀ (s : State) (j : Fin 16) (t : Nat), (s.getAux j.val).handoverFrom = some t → s.expired t (msTicks 200) = true →
    (s.getAux j.val).foc.obs.locked = false → exec (.auxStartTimeout j) s = .next (s.auxFault j.val [1])) ∧
  (∀ (s : State) (j : Fin 16), (s.getAux j.val).state = .retryWait →
    s.passed (s.getAux j.val).since (msTicks (1000 * s.parF (epAux j.val) P.auxRetryDelay)) = true →
    exec (.auxRetryDelay j) s = .next ((s.auxStandby j.val).bump (epAux j.val) C.auxRetry)) ∧
  (∀ (s : State) (j : Fin 16), (s.getAux j.val).state = .run → s.passed (s.getAux j.val).since (msTicks 60000) = true →
    exec (.auxRetryReset j) s = .next (s.setAux j.val { s.getAux j.val with retries := 0 }))

/-- WAYMARK_PASSED, GROUP_SEGMENT_SEND, GROUP_SEGMENT_RX, VIRTUAL_AXIS_SAMPLE, REMOTE_SETPOINT_SEND, REMOTE_FEEDBACK_RX, REMOTE_TIMEOUT and
REMOTE_ENABLE_TIMEOUT complete on the trail or remote axis in the state each names (R330, R344, R374, R413, R414). -/
def Obligations.SegmentAndRemoteEventsComplete : Prop :=
  (∀ (s : State) (ep : TrailEp) (m : Move) (x : Ft16), s.waymarkAt (trailEp ep) = some (m, x) → bitOf m.rec_.flags.toNat 0 = false →
    isGroupEp (trailEp ep) = false → m.rec_.blend ≠ 1 →
    exec (.waymarkPassed ep) s = .next ((s.modTrail (trailEp ep) (fun t => { t with
      moves := t.moves.drop 1, lastWaymark := m.num, lastVec := [] })).bump (trailEp ep) C.trjMovesDone)) ∧
  (∀ (s : State) (g : Fin 32) (n : Fin 8) (b : Seg) (segs : List Seg) (fa : Nat), (s.groupMembers g.val)[n.val]? = some fa →
    s.localEp fa = none → (s.getTrail (epGroup g.val)).state = .running ∨ (s.getTrail (epGroup g.val)).state = .stopping →
    ((unitsOfNs (s.parF (epGroup g.val) P.groupLead * 1000000)).toNat : Int) ≤ ft16Diff b.tStart s.time.ft16 →
    exec (.groupSegmentSend g n (b :: segs)) s = .next { s with fabric := { s.fabric with
      sent := (fa / 8192, FabMsg.segments fa (b :: segs)) :: s.fabric.sent } }) ∧
  (∀ (s : State) (ep : TrailEp) (segs : List Seg), s.axisStateOf (trailEp ep) = .enabled →
    s.segsFit (s.getTrail (trailEp ep)) segs = true →
    exec (.groupSegmentRx ep segs) s = .next ((s.writeSegs (trailEp ep) segs).modTrail (trailEp ep) (fun t => { t with
      spanned := true }))) ∧
  (∀ (s u : State) (i : Fin 256) (m : Motion) (x : Nat),
    x = gridAtOrBefore (s.par (epVirt i.val) P.vaPeriodTicks) (s.par (epVirt i.val) P.vaPhaseTicks) s.xt16 →
    (s.getVirt i.val).state = .enabled → (s.getVirt i.val).sampleXt < x → (s.getVirt i.val).stop = none →
    s.setpointAt (epVirt i.val) (ft16Of x) = (u, m, true) →
    exec (.virtualAxisSample i) s = .next (((u.modVirt i.val (fun v => { v with
      sp := (m.p, m.v, m.a), sampleXt := x, starvedSince := none })).fireCrossings (epVirt i.val)
        (ft16Of (s.getVirt i.val).sampleXt) (s.getVirt i.val).sp.1 (ft16Of x) m.p).trailRest (epVirt i.val))) ∧
  (∀ (s₀ : State) (na : Fin 128),
    let s := s₀
    let i := na.val
    let ep := epRemote i
    let r := s.getRemote i
    let n := s.par ep P.remPeriodTicks
    let ph := s.par ep P.remPhaseTicks
    let lead := (unitsOfNs (s.parF ep P.remLead * 1000)).toNat
    let x := max (gridAtOrAfter n ph (r.lastXt + 1)) (gridAtOrAfter n ph s.xt16)
    s.par ep P.remAddress ≠ 0 → x - lead ≤ s.xt16 + tickUnits →
    let o := s.setpointAt ep (ft16Of x)
    let s := o.1
    let m := o.2.1
    let r := s.getRemote i
    let seq := r.seq + 1
    let flags := b2n (r.state == .enabling || r.state == .enabled) + 2 * b2n r.stopBit
    let s := s.modFollower ep (fun f => { f with sp := (m.p, m.v, m.a), lastXt := x })
    let s := s.setRemote i { r with seq := seq, sentSeqs := (seq :: r.sentSeqs).take 256, lastXt := x }
    s.par ep P.remTransport ≠ 2 →
    exec (.remoteSetpointSend na) s₀ = .next (
      s.modRemote i (fun r => { r with frame := some (EthMsg.remote i seq flags x m.p m.v m.a) }))) ∧
  (∀ (s₀ : State) (na : Fin 128) (fb : RemFeedback),
    let s := s₀
    let i := na.val
    let ep := epRemote i
    let r := s.getRemote i
    let bad := fb.length != 32 || fb.version != 1 || decide (fb.status.toNat % 256 ≥ 4) || decide (65536 ≤ fb.status.toNat) ||
      !r.sentSeqs.contains fb.seq || fb.source.toNat != s.par ep P.remAddress
    bad = false →
    let s := s.setRemote i { r with feedback := some fb, fbTick := s.tick }
    ¬ (r.state = .enabling ∧ bitOf fb.status.toNat 0) →
    exec (.remoteFeedbackRx na fb) s₀ = .next s) ∧
  (∀ (s₀ : State) (na : Fin 128),
    let s := s₀
    let i := na.val
    let ep := epRemote i
    let r := s.getRemote i
    r.state = .enabled → s.expired r.fbTick (msTicks (s.parF ep P.remTimeout)) = true →
    let seq := (r.feedback.map (·.seq)).getD 0
    let s := s.log ep 0x0604 seq.toNat
    exec (.remoteTimeout na) s₀ = .next ((s.modRemote i (fun r => { r with stopBit := true })).remoteFault i)) ∧
  (∀ (s : State) (na : Fin 128),
    let i := na.val
    let r := s.getRemote i
    r.state = .enabling → ∀ t, r.enableTick = some t →
    s.expired t (msTicks (s.parF (epRemote i) P.remEnableTimeout)) = true →
    exec (.remoteEnableTimeout na) s = .next (s.remoteFault i))

/-- KERNEL_UNLOAD of a loaded kernel that is attached, or staged to attach, is rejected with E_STATE (R208). -/
def Obligations.KernelUnloadInUseRejected : Prop :=
  ∀ (s : State) (ref : CmdRef) (handle : BitVec 32), s.queuedFor ref 0x0441 = true →
    s.host.kernels.any (fun x => x.1 == handle.toNat) = true → s.kernelUsed handle.toNat = true →
    exec (.kernelUnload ref handle) s = .next (s.finish (cmdKey ref) E.state)

/-- A received character that belongs to no outstanding request is discarded and counted in FBK_UNSOLICITED: nothing else changes
(R118). While the driver enable is asserted the receiver ignores its input, so no character is received (R134). -/
def Obligations.UnsolicitedCharacterCounted : Prop :=
  (∀ (s : State) (i : Fin 32), (s.getSerial i.val).driveEnd ≤ s.tick →
    exec (.lspUnsolicitedChar i) s = .next (s.bump i.val C.fbkUnsolicited)) ∧
  (∀ (s : State) (i : Fin 32), s.tick < (s.getSerial i.val).driveEnd → exec (.lspUnsolicitedChar i) s = .next s)

/-- A step with a command at the front of the queue is that command's effect on the state with the queue's rest. -/
def Obligations.StepRunsFrontCommand : Prop :=
  ∀ (c : Instr) (rest : List Instr) (s : State), s.pending = c :: rest → step s = exec c (s.withQueue rest)

/-- On an empty queue the block idles: the model's choice (log entry 1). -/
def Obligations.StepIdlesOnEmptyQueue : Prop :=
 ∀ s : State, s.pending = [] → step s = .next s

/-- A step takes exactly the front command off the queue: no command's effect adds, drops or reorders one. -/
def Obligations.StepTakesOneCommand : Prop :=
 ∀ s t : State, step s = .next t → t.pending = s.pending.tail

/-- The values the spec gives for reset: the time unit UNSET with FT.16 and the completed wraps 0 (R67), every counter 0, the
counts of every arbiter 0 and no grant held (R600), the safety island in START with STO asserted on every axis (R765), the CAN
channels in LISTEN (R696); no command waits. -/
def Obligations.ResetValues : Prop :=
  State.reset.time.state = .unset ∧ State.reset.time.ft16 = 0 ∧ State.reset.time.xtHi = 0 ∧ State.reset.safety.state = .start ∧ (∀ k, mget State.reset.ctr k 0 = 0) ∧
    (∀ k, (State.reset.getArb k).f = 0 ∧ (State.reset.getArb k).w = 0 ∧ (State.reset.getArb k).g = 0 ∧ (State.reset.getArb k).holder = 0) ∧
    (∀ i, (State.reset.getFlags i).sto = true) ∧ (∀ c, (State.reset.getCan c).state = .listen) ∧ State.reset.pending = []

/-- The state after reset is sound. -/
def Obligations.ResetIsSound : Prop :=
 State.reset.sound = true

/-- Every step keeps a sound state sound: counters in canonical form and within 32 bits, byte memories, registers and accumulators of the
engines in canonical form, the counts of every arbiter in their ranges. -/
def Obligations.StepKeepsSound : Prop :=
 ∀ s t : State, s.sound = true → step s = .next t → t.sound = true

/-- No command is refused, and a fault comes from an engine's access outside its local memory alone. -/
def Obligations.StopsOnlyOutsideLocalMemory : Prop :=
  ∀ (c : Instr) (s : State), (∀ r, exec c s ≠ .refused r) ∧ ∀ f, exec c s = .fault f → f = .addressOutsideLocalMemory ∧
    ∃ (le : Fin 16) (eob : Bool) (b : Fin 32),
      (∃ (d : Fin 32) (off : LoadOff 14), c = .ld le eob d b off) ∨
      (∃ (d : Fin 16) (off : LoadOff 14), c = .ldq le eob d b off) ∨
      (∃ (src : Fin 32) (imm : BitVec 14), c = .st le eob src b imm ∨ c = .stq le eob src b imm) ∨
      (∃ (a : Fin 4) (off : LoadOff 17), c = .accld le eob a b off) ∨
      (∃ (a : Fin 4) (imm : BitVec 17), c = .accst le eob a b imm) ∨ (∃ l n, c = .bld le eob l b n)
end

