-- ==== Sys2Proof/Laws/Commands.lean ====
section
/-! SUPPORT. What the shared shape of a queued command does: one law each for the guard and the checks. -/

namespace Sys2Proof.Machine

/-- A queued command of its opcode executes. -/
theorem State.execCmd_of_queuedFor {s : State} {ref : CmdRef} {op : BitVec 16} (f : Nat → State → State)
    (h : s.queuedFor ref op = true) : s.execCmd ref op f = f (cmdKey ref) s := by
  unfold State.queuedFor at h
  simp only [Bool.and_eq_true, Bool.not_eq_true'] at h
  obtain ⟨⟨⟨h1, h2⟩, h3⟩, h4⟩ := h
  unfold State.execCmd
  simp only [h1, h2, h3, h4, Bool.and_self, if_true, if_false, Bool.false_eq_true]

/-- A non-atomic command takes its next step. -/
theorem State.execUnits_of_goesOn {s : State} {ref : CmdRef} {op : BitVec 16} (f : Nat → State → State)
    (h : s.goesOn ref op = true) : s.execUnits ref op f = f (cmdKey ref) s := if_pos h

/-- A command whose record is not in flight, not queued or of another opcode is not executed. -/
theorem State.execCmd_of_not {s : State} {ref : CmdRef} {op : BitVec 16} (f : Nat → State → State)
    (h : ((s.cmd (cmdKey ref)).inFlight && (s.cmd (cmdKey ref)).state == .queued && (s.cmd (cmdKey ref)).opcode == op) = false) :
    s.execCmd ref op f = s := by
  unfold State.execCmd
  simp only [h, Bool.false_eq_true, if_false]

@[simp] theorem State.checked_nil (s : State) (k : Nat) (f : State → State) : s.checked k [] f = f s := rfl

/-- A check that passes is left out. -/
theorem State.checked_cons_false (s : State) (k : Nat) (st : BitVec 16) (l : List (Bool × BitVec 16)) (f : State → State) :
    s.checked k ((false, st) :: l) f = s.checked k l f := by
  simp [State.checked]

/-- The first check that fails answers. -/
theorem State.checked_cons_true (s : State) (k : Nat) (st : BitVec 16) (l : List (Bool × BitVec 16)) (f : State → State) :
    s.checked k ((true, st) :: l) f = s.finish k st := by
  simp [State.checked]

/-- With no failing check the command acts. -/
theorem State.checked_of (s : State) (k : Nat) (l : List (Bool × BitVec 16)) (f : State → State) (h : ∀ x ∈ l, x.1 = false) :
    s.checked k l f = f s := by
  have h' : l.find? (·.1) = none := List.find?_eq_none.mpr (fun x hx => by simp [h x hx])
  simp [State.checked, h']

@[simp] theorem State.took_getEngine (s : State) (i : Nat) : s.took.getEngine i = s.getEngine i := rfl

end Sys2Proof.Machine
end

