-- ==== Sys2Proof/Laws/Map.lean ====
section
/-! SUPPORT. Laws of the sparse maps and of byte memory: a read after a write, and that every write keeps the canonical form. -/

namespace Sys2Proof.Machine

variable {β : Type}

@[simp] theorem mget_nil (k : Nat) (d : β) : mget ([] : SMap β) k d = d := rfl

theorem mget_mput_same (m : SMap β) (k : Nat) (v d : β) : mget (mput m k v) k d = v := by
  induction m with
  | nil => simp [mput, mget]
  | cons p t ih =>
    obtain ⟨k', v'⟩ := p
    simp only [mput]
    split
    · simp [mget]
    · split
      · simp [mget]
      · simp [mget, ih, *]

theorem mget_mput_ne (m : SMap β) {k j : Nat} (v d : β) (h : j ≠ k) : mget (mput m k v) j d = mget m j d := by
  induction m with
  | nil => simp [mput, mget, h.symm]
  | cons p t ih =>
    obtain ⟨k', v'⟩ := p
    simp only [mput]
    split
    · simp [mget, h.symm]
    · split
      · rename_i e; subst e; simp [mget, h.symm]
      · simp [mget, ih]

theorem mget_mdel_ne (m : SMap β) {k j : Nat} (d : β) (h : j ≠ k) : mget (mdel m k) j d = mget m j d := by
  induction m with
  | nil => rfl
  | cons p t ih =>
    obtain ⟨k', v'⟩ := p
    simp only [mdel]
    split
    · rename_i e; subst e; simp [mget, h.symm]
    · simp [mget, ih]

section
variable [DecidableEq β]

theorem mwfFrom_mono {d : β} {m : SMap β} : ∀ {a b : Nat}, a ≤ b → mwfFrom d b m = true → mwfFrom d a m = true := by
  intro a b hab h
  cases m with
  | nil => rfl
  | cons p t =>
    obtain ⟨k, v⟩ := p
    simp only [mwfFrom, Bool.and_eq_true, decide_eq_true_eq] at h ⊢
    exact ⟨⟨hab.trans h.1.1, h.1.2⟩, h.2⟩

theorem mget_of_lt {d : β} {m : SMap β} : ∀ {b k : Nat}, mwfFrom d b m = true → k < b → mget m k d = d := by
  induction m with
  | nil => intros; rfl
  | cons p t ih =>
    obtain ⟨k', v⟩ := p
    intro b k h hk
    simp only [mwfFrom, Bool.and_eq_true, decide_eq_true_eq] at h
    have : k' ≠ k := by omega
    simp only [mget, this, if_false]
    exact ih h.2 (by omega)

theorem mget_mdel_same {d : β} {m : SMap β} : ∀ {b : Nat} (k : Nat), mwfFrom d b m = true → mget (mdel m k) k d = d := by
  induction m with
  | nil => intros; rfl
  | cons p t ih =>
    obtain ⟨k', v⟩ := p
    intro b k h
    simp only [mwfFrom, Bool.and_eq_true, decide_eq_true_eq] at h
    simp only [mdel]
    split
    · rename_i e; subst e; exact mget_of_lt h.2 (Nat.lt_succ_self _)
    · rename_i e; simp only [mget, e, if_false]; exact ih k h.2

theorem mwfFrom_mdel {d : β} {m : SMap β} : ∀ {b : Nat} (k : Nat), mwfFrom d b m = true → mwfFrom d b (mdel m k) = true := by
  induction m with
  | nil => intros; rfl
  | cons p t ih =>
    obtain ⟨k', v⟩ := p
    intro b k h
    simp only [mwfFrom, Bool.and_eq_true, decide_eq_true_eq] at h
    simp only [mdel]
    split
    · exact mwfFrom_mono (by omega) h.2
    · simp only [mwfFrom, Bool.and_eq_true, decide_eq_true_eq]
      exact ⟨h.1, ih k h.2⟩

theorem mwfFrom_mput {d v : β} (hv : v ≠ d) {m : SMap β} :
    ∀ {b : Nat} (k : Nat), b ≤ k → mwfFrom d b m = true → mwfFrom d b (mput m k v) = true := by
  induction m with
  | nil => intro b k hk _; simp [mput, mwfFrom, hv, hk]
  | cons p t ih =>
    obtain ⟨k', v'⟩ := p
    intro b k hk h
    simp only [mwfFrom, Bool.and_eq_true, decide_eq_true_eq] at h
    simp only [mput]
    split
    · simp only [mwfFrom, Bool.and_eq_true, decide_eq_true_eq]
      exact ⟨⟨hk, hv⟩, ⟨by omega, h.1.2⟩, h.2⟩
    · split
      · simp only [mwfFrom, Bool.and_eq_true, decide_eq_true_eq]
        rename_i e; subst e
        exact ⟨⟨hk, hv⟩, h.2⟩
      · simp only [mwfFrom, Bool.and_eq_true, decide_eq_true_eq]
        exact ⟨h.1, ih k (by omega) h.2⟩

/-- A read after a write to the same key gives the value written. -/
theorem mget_mset_same {d : β} {m : SMap β} (k : Nat) (v : β) (h : mwf d m = true) : mget (mset m k v d) k d = v := by
  unfold mset
  split
  · rename_i e; subst e; exact mget_mdel_same k h
  · exact mget_mput_same m k v d

/-- A write leaves every other key alone. -/
theorem mget_mset_ne (m : SMap β) {k j : Nat} (v d : β) (h : j ≠ k) : mget (mset m k v d) j d = mget m j d := by
  unfold mset
  split
  · exact mget_mdel_ne m d h
  · exact mget_mput_ne m v d h

/-- A write keeps the canonical form. -/
theorem mwf_mset {d : β} {m : SMap β} (k : Nat) (v : β) (h : mwf d m = true) : mwf d (mset m k v d) = true := by
  unfold mset
  split
  · exact mwfFrom_mdel k h
  · rename_i e; exact mwfFrom_mput e k (Nat.zero_le k) h

theorem mwf_mmod {d : β} {m : SMap β} (k : Nat) (g : β → β) (h : mwf d m = true) : mwf d (mmod m k d g) = true := mwf_mset k _ h

theorem mwfFrom_filter {d : β} (p : Nat × β → Bool) {m : SMap β} :
    ∀ {b : Nat}, mwfFrom d b m = true → mwfFrom d b (m.filter p) = true := by
  induction m with
  | nil => intros; rfl
  | cons x t ih =>
    obtain ⟨k, v⟩ := x
    intro b h
    simp only [mwfFrom, Bool.and_eq_true, decide_eq_true_eq] at h
    simp only [List.filter]
    split
    · simp only [mwfFrom, Bool.and_eq_true, decide_eq_true_eq]
      exact ⟨h.1, ih h.2⟩
    · exact mwfFrom_mono (by omega) (ih h.2)

theorem mwf_filter {d : β} {m : SMap β} (p : Nat × β → Bool) (h : mwf d m = true) : mwf d (m.filter p) = true := mwfFrom_filter p h

end

theorem mem_mdel {m : SMap β} {k : Nat} {x : Nat × β} (h : x ∈ mdel m k) : x ∈ m := by
  induction m with
  | nil => exact h
  | cons p t ih =>
    obtain ⟨k', v⟩ := p
    simp only [mdel] at h
    split at h
    · exact List.mem_cons_of_mem _ h
    · rcases List.mem_cons.1 h with h | h
      · exact h ▸ List.mem_cons_self
      · exact List.mem_cons_of_mem _ (ih h)

theorem mem_mput {m : SMap β} {k : Nat} {v : β} {x : Nat × β} (h : x ∈ mput m k v) : x = (k, v) ∨ x ∈ m := by
  induction m with
  | nil => simp [mput] at h; exact .inl h
  | cons p t ih =>
    obtain ⟨k', v'⟩ := p
    simp only [mput] at h
    split at h
    · rcases List.mem_cons.1 h with h | h
      · exact .inl h
      · exact .inr h
    · split at h
      · rcases List.mem_cons.1 h with h | h
        · exact .inl h
        · exact .inr (List.mem_cons_of_mem _ h)
      · rcases List.mem_cons.1 h with h | h
        · exact .inr (h ▸ List.mem_cons_self)
        · rcases ih h with h | h
          · exact .inl h
          · exact .inr (List.mem_cons_of_mem _ h)

/-- An entry after a write is the entry written or an entry from before. -/
theorem mem_mset [DecidableEq β] {m : SMap β} {k : Nat} {v d : β} {x : Nat × β} (h : x ∈ mset m k v d) : x = (k, v) ∨ x ∈ m := by
  unfold mset at h
  split at h
  · exact .inr (mem_mdel h)
  · exact mem_mput h

/-- A value read is the unlisted value or that of an entry. -/
theorem mget_mem (m : SMap β) (k : Nat) (d : β) : mget m k d = d ∨ (k, mget m k d) ∈ m := by
  induction m with
  | nil => exact .inl rfl
  | cons p t ih =>
    obtain ⟨k', v⟩ := p
    simp only [mget]
    split
    · rename_i e; subst e; exact .inr List.mem_cons_self
    · rcases ih with h | h
      · exact .inl h
      · exact .inr (List.mem_cons_of_mem _ h)

/-! ### Byte memory -/

/-- Every write of bytes keeps the canonical form. -/
theorem mwf_writeBytes (l : List Byte) : ∀ (m : SMap (BitVec 8)) (a : Nat), mwf (0 : BitVec 8) m = true → mwf 0 (writeBytes m a l) = true := by
  induction l with
  | nil => intro m a h; exact h
  | cons b t ih => intro m a h; exact ih _ _ (mwf_mset a b h)

/-- A byte outside the bytes written reads as before. -/
theorem mget_writeBytes_out (l : List Byte) : ∀ (m : SMap (BitVec 8)) (a j : Nat), j < a ∨ a + l.length ≤ j →
    mget (writeBytes m a l) j 0 = mget m j 0 := by
  induction l with
  | nil => intros; rfl
  | cons b t ih =>
    intro m a j h
    simp only [List.length_cons] at h
    simp only [writeBytes]
    rw [ih _ _ _ (by omega)]
    exact mget_mset_ne m b 0 (by omega)

/-- The bytes written read back. -/
theorem mget_writeBytes_in (l : List Byte) : ∀ (m : SMap (BitVec 8)) (a i : Nat), mwf (0 : BitVec 8) m = true → (h : i < l.length) →
    mget (writeBytes m a l) (a + i) 0 = l[i] := by
  induction l with
  | nil => intro m a i _ h; simp at h
  | cons b t ih =>
    intro m a i hm h
    simp only [writeBytes]
    cases i with
    | zero =>
      rw [mget_writeBytes_out t _ _ _ (by omega)]
      simpa using mget_mset_same a b hm
    | succ n =>
      have := ih (mset m a b 0) (a + 1) n (mwf_mset a b hm) (by simpa using h)
      rw [show a + (n + 1) = a + 1 + n by omega]
      simpa using this

@[simp] theorem readBytes_length (m : SMap (BitVec 8)) (n : Nat) : ∀ a, (readBytes m a n).length = n := by
  induction n with
  | zero => intro a; rfl
  | succ n ih => intro a; simp [readBytes, ih]

@[simp] theorem leBytes_length (n : Nat) : ∀ v, (leBytes n v).length = n := by
  induction n with
  | zero => intro v; rfl
  | succ n ih => intro v; simp [leBytes, ih]

/-- The little-endian bytes of a value give back its low bytes (R8). -/
theorem leVal_leBytes (n : Nat) : ∀ v, leVal (leBytes n v) = v % 256 ^ n := by
  induction n with
  | zero => intro v; simp [leBytes, leVal, Nat.mod_one]
  | succ n ih =>
    intro v
    have h : (BitVec.ofNat 8 (v % 256)).toNat = v % 256 := by simp [BitVec.toNat_ofNat]
    rw [leBytes, leVal, ih, h, Nat.pow_succ', Nat.mod_mul]

end Sys2Proof.Machine
end

