-- ==== Sys2Proof/Laws/State.lean ====
section
/-! SUPPORT. What each update of the state leaves and gives, field by field: every lemma holds by rfl. -/

namespace Sys2Proof.Machine

variable (s : State)

/-! ### tdc -/

@[simp] theorem State.modTdc_def (i : Nat) (g : TdcChannel → TdcChannel) : s.modTdc i g = s.setTdc i (g (s.getTdc i)) := rfl
@[simp] theorem State.setTdc_tdc (i : Nat) (v : TdcChannel) : (s.setTdc i v).tdc = mset s.tdc i v {} := rfl
@[simp] theorem State.setTdc_pending (i : Nat) (v : TdcChannel) : (s.setTdc i v).pending = s.pending := rfl
@[simp] theorem State.setTdc_tick (i : Nat) (v : TdcChannel) : (s.setTdc i v).tick = s.tick := rfl
@[simp] theorem State.setTdc_freeCtr (i : Nat) (v : TdcChannel) : (s.setTdc i v).freeCtr = s.freeCtr := rfl
@[simp] theorem State.setTdc_time (i : Nat) (v : TdcChannel) : (s.setTdc i v).time = s.time := rfl
@[simp] theorem State.setTdc_tdcCal (i : Nat) (v : TdcChannel) : (s.setTdc i v).tdcCal = s.tdcCal := rfl
@[simp] theorem State.setTdc_cfg (i : Nat) (v : TdcChannel) : (s.setTdc i v).cfg = s.cfg := rfl
@[simp] theorem State.setTdc_ctr (i : Nat) (v : TdcChannel) : (s.setTdc i v).ctr = s.ctr := rfl
@[simp] theorem State.setTdc_pwm (i : Nat) (v : TdcChannel) : (s.setTdc i v).pwm = s.pwm := rfl
@[simp] theorem State.setTdc_quad (i : Nat) (v : TdcChannel) : (s.setTdc i v).quad = s.quad := rfl
@[simp] theorem State.setTdc_serial (i : Nat) (v : TdcChannel) : (s.setTdc i v).serial = s.serial := rfl
@[simp] theorem State.setTdc_fb (i : Nat) (v : TdcChannel) : (s.setTdc i v).fb = s.fb := rfl
@[simp] theorem State.setTdc_loop (i : Nat) (v : TdcChannel) : (s.setTdc i v).loop = s.loop := rfl
@[simp] theorem State.setTdc_flags (i : Nat) (v : TdcChannel) : (s.setTdc i v).flags = s.flags := rfl
@[simp] theorem State.setTdc_foc (i : Nat) (v : TdcChannel) : (s.setTdc i v).foc = s.foc := rfl
@[simp] theorem State.setTdc_sections (i : Nat) (v : TdcChannel) : (s.setTdc i v).sections = s.sections := rfl
@[simp] theorem State.setTdc_records (i : Nat) (v : TdcChannel) : (s.setTdc i v).records = s.records := rfl
@[simp] theorem State.setTdc_dc (i : Nat) (v : TdcChannel) : (s.setTdc i v).dc = s.dc := rfl
@[simp] theorem State.setTdc_engines (i : Nat) (v : TdcChannel) : (s.setTdc i v).engines = s.engines := rfl
@[simp] theorem State.setTdc_bank (i : Nat) (v : TdcChannel) : (s.setTdc i v).bank = s.bank := rfl
@[simp] theorem State.setTdc_waiters (i : Nat) (v : TdcChannel) : (s.setTdc i v).waiters = s.waiters := rfl
@[simp] theorem State.setTdc_aux (i : Nat) (v : TdcChannel) : (s.setTdc i v).aux = s.aux := rfl
@[simp] theorem State.setTdc_trails (i : Nat) (v : TdcChannel) : (s.setTdc i v).trails = s.trails := rfl
@[simp] theorem State.setTdc_followers (i : Nat) (v : TdcChannel) : (s.setTdc i v).followers = s.followers := rfl
@[simp] theorem State.setTdc_publishers (i : Nat) (v : TdcChannel) : (s.setTdc i v).publishers = s.publishers := rfl
@[simp] theorem State.setTdc_virt (i : Nat) (v : TdcChannel) : (s.setTdc i v).virt = s.virt := rfl
@[simp] theorem State.setTdc_remote (i : Nat) (v : TdcChannel) : (s.setTdc i v).remote = s.remote := rfl
@[simp] theorem State.setTdc_cams (i : Nat) (v : TdcChannel) : (s.setTdc i v).cams = s.cams := rfl
@[simp] theorem State.setTdc_steppers (i : Nat) (v : TdcChannel) : (s.setTdc i v).steppers = s.steppers := rfl
@[simp] theorem State.setTdc_caps (i : Nat) (v : TdcChannel) : (s.setTdc i v).caps = s.caps := rfl
@[simp] theorem State.setTdc_capMem (i : Nat) (v : TdcChannel) : (s.setTdc i v).capMem = s.capMem := rfl
@[simp] theorem State.setTdc_mailboxes (i : Nat) (v : TdcChannel) : (s.setTdc i v).mailboxes = s.mailboxes := rfl
@[simp] theorem State.setTdc_sessions (i : Nat) (v : TdcChannel) : (s.setTdc i v).sessions = s.sessions := rfl
@[simp] theorem State.setTdc_host (i : Nat) (v : TdcChannel) : (s.setTdc i v).host = s.host := rfl
@[simp] theorem State.setTdc_events (i : Nat) (v : TdcChannel) : (s.setTdc i v).events = s.events := rfl
@[simp] theorem State.setTdc_locks (i : Nat) (v : TdcChannel) : (s.setTdc i v).locks = s.locks := rfl
@[simp] theorem State.setTdc_sched (i : Nat) (v : TdcChannel) : (s.setTdc i v).sched = s.sched := rfl
@[simp] theorem State.setTdc_arbs (i : Nat) (v : TdcChannel) : (s.setTdc i v).arbs = s.arbs := rfl
@[simp] theorem State.setTdc_fabPorts (i : Nat) (v : TdcChannel) : (s.setTdc i v).fabPorts = s.fabPorts := rfl
@[simp] theorem State.setTdc_fabric (i : Nat) (v : TdcChannel) : (s.setTdc i v).fabric = s.fabric := rfl
@[simp] theorem State.setTdc_eth (i : Nat) (v : TdcChannel) : (s.setTdc i v).eth = s.eth := rfl
@[simp] theorem State.setTdc_can (i : Nat) (v : TdcChannel) : (s.setTdc i v).can = s.can := rfl
@[simp] theorem State.setTdc_fio (i : Nat) (v : TdcChannel) : (s.setTdc i v).fio = s.fio := rfl
@[simp] theorem State.setTdc_safety (i : Nat) (v : TdcChannel) : (s.setTdc i v).safety = s.safety := rfl
@[simp] theorem State.setTdc_power (i : Nat) (v : TdcChannel) : (s.setTdc i v).power = s.power := rfl
theorem State.getTdc_setTdc_same (i : Nat) (v : TdcChannel) (h : mwf {} s.tdc = true) : (s.setTdc i v).getTdc i = v := mget_mset_same i v h
theorem State.getTdc_setTdc_ne {i j : Nat} (v : TdcChannel) (h : j ≠ i) : (s.setTdc i v).getTdc j = s.getTdc j := mget_mset_ne s.tdc v _ h
@[simp] theorem State.getPwm_setTdc (i j : Nat) (v : TdcChannel) : (s.setTdc i v).getPwm j = s.getPwm j := rfl
@[simp] theorem State.getQuad_setTdc (i j : Nat) (v : TdcChannel) : (s.setTdc i v).getQuad j = s.getQuad j := rfl
@[simp] theorem State.getSerial_setTdc (i j : Nat) (v : TdcChannel) : (s.setTdc i v).getSerial j = s.getSerial j := rfl
@[simp] theorem State.getFb_setTdc (i j : Nat) (v : TdcChannel) : (s.setTdc i v).getFb j = s.getFb j := rfl
@[simp] theorem State.getLoop_setTdc (i j : Nat) (v : TdcChannel) : (s.setTdc i v).getLoop j = s.getLoop j := rfl
@[simp] theorem State.getFlags_setTdc (i j : Nat) (v : TdcChannel) : (s.setTdc i v).getFlags j = s.getFlags j := rfl
@[simp] theorem State.getFoc_setTdc (i j : Nat) (v : TdcChannel) : (s.setTdc i v).getFoc j = s.getFoc j := rfl
@[simp] theorem State.getSection_setTdc (i j : Nat) (v : TdcChannel) : (s.setTdc i v).getSection j = s.getSection j := rfl
@[simp] theorem State.getRecord_setTdc (i j : Nat) (v : TdcChannel) : (s.setTdc i v).getRecord j = s.getRecord j := rfl
@[simp] theorem State.getDc_setTdc (i j : Nat) (v : TdcChannel) : (s.setTdc i v).getDc j = s.getDc j := rfl
@[simp] theorem State.getEngine_setTdc (i j : Nat) (v : TdcChannel) : (s.setTdc i v).getEngine j = s.getEngine j := rfl
@[simp] theorem State.getAux_setTdc (i j : Nat) (v : TdcChannel) : (s.setTdc i v).getAux j = s.getAux j := rfl
@[simp] theorem State.getTrail_setTdc (i j : Nat) (v : TdcChannel) : (s.setTdc i v).getTrail j = s.getTrail j := rfl
@[simp] theorem State.getFollower_setTdc (i j : Nat) (v : TdcChannel) : (s.setTdc i v).getFollower j = s.getFollower j := rfl
@[simp] theorem State.getPublisher_setTdc (i j : Nat) (v : TdcChannel) : (s.setTdc i v).getPublisher j = s.getPublisher j := rfl
@[simp] theorem State.getVirt_setTdc (i j : Nat) (v : TdcChannel) : (s.setTdc i v).getVirt j = s.getVirt j := rfl
@[simp] theorem State.getRemote_setTdc (i j : Nat) (v : TdcChannel) : (s.setTdc i v).getRemote j = s.getRemote j := rfl
@[simp] theorem State.getCam_setTdc (i j : Nat) (v : TdcChannel) : (s.setTdc i v).getCam j = s.getCam j := rfl
@[simp] theorem State.getStepper_setTdc (i j : Nat) (v : TdcChannel) : (s.setTdc i v).getStepper j = s.getStepper j := rfl
@[simp] theorem State.getCap_setTdc (i j : Nat) (v : TdcChannel) : (s.setTdc i v).getCap j = s.getCap j := rfl
@[simp] theorem State.getMbx_setTdc (i j : Nat) (v : TdcChannel) : (s.setTdc i v).getMbx j = s.getMbx j := rfl
@[simp] theorem State.getSession_setTdc (i j : Nat) (v : TdcChannel) : (s.setTdc i v).getSession j = s.getSession j := rfl
@[simp] theorem State.getArb_setTdc (i j : Nat) (v : TdcChannel) : (s.setTdc i v).getArb j = s.getArb j := rfl
@[simp] theorem State.getFabPort_setTdc (i j : Nat) (v : TdcChannel) : (s.setTdc i v).getFabPort j = s.getFabPort j := rfl
@[simp] theorem State.getEth_setTdc (i j : Nat) (v : TdcChannel) : (s.setTdc i v).getEth j = s.getEth j := rfl
@[simp] theorem State.getCan_setTdc (i j : Nat) (v : TdcChannel) : (s.setTdc i v).getCan j = s.getCan j := rfl

/-! ### pwm -/

@[simp] theorem State.modPwm_def (i : Nat) (g : PwmAxis → PwmAxis) : s.modPwm i g = s.setPwm i (g (s.getPwm i)) := rfl
@[simp] theorem State.setPwm_pwm (i : Nat) (v : PwmAxis) : (s.setPwm i v).pwm = mset s.pwm i v {} := rfl
@[simp] theorem State.setPwm_pending (i : Nat) (v : PwmAxis) : (s.setPwm i v).pending = s.pending := rfl
@[simp] theorem State.setPwm_tick (i : Nat) (v : PwmAxis) : (s.setPwm i v).tick = s.tick := rfl
@[simp] theorem State.setPwm_freeCtr (i : Nat) (v : PwmAxis) : (s.setPwm i v).freeCtr = s.freeCtr := rfl
@[simp] theorem State.setPwm_time (i : Nat) (v : PwmAxis) : (s.setPwm i v).time = s.time := rfl
@[simp] theorem State.setPwm_tdc (i : Nat) (v : PwmAxis) : (s.setPwm i v).tdc = s.tdc := rfl
@[simp] theorem State.setPwm_tdcCal (i : Nat) (v : PwmAxis) : (s.setPwm i v).tdcCal = s.tdcCal := rfl
@[simp] theorem State.setPwm_cfg (i : Nat) (v : PwmAxis) : (s.setPwm i v).cfg = s.cfg := rfl
@[simp] theorem State.setPwm_ctr (i : Nat) (v : PwmAxis) : (s.setPwm i v).ctr = s.ctr := rfl
@[simp] theorem State.setPwm_quad (i : Nat) (v : PwmAxis) : (s.setPwm i v).quad = s.quad := rfl
@[simp] theorem State.setPwm_serial (i : Nat) (v : PwmAxis) : (s.setPwm i v).serial = s.serial := rfl
@[simp] theorem State.setPwm_fb (i : Nat) (v : PwmAxis) : (s.setPwm i v).fb = s.fb := rfl
@[simp] theorem State.setPwm_loop (i : Nat) (v : PwmAxis) : (s.setPwm i v).loop = s.loop := rfl
@[simp] theorem State.setPwm_flags (i : Nat) (v : PwmAxis) : (s.setPwm i v).flags = s.flags := rfl
@[simp] theorem State.setPwm_foc (i : Nat) (v : PwmAxis) : (s.setPwm i v).foc = s.foc := rfl
@[simp] theorem State.setPwm_sections (i : Nat) (v : PwmAxis) : (s.setPwm i v).sections = s.sections := rfl
@[simp] theorem State.setPwm_records (i : Nat) (v : PwmAxis) : (s.setPwm i v).records = s.records := rfl
@[simp] theorem State.setPwm_dc (i : Nat) (v : PwmAxis) : (s.setPwm i v).dc = s.dc := rfl
@[simp] theorem State.setPwm_engines (i : Nat) (v : PwmAxis) : (s.setPwm i v).engines = s.engines := rfl
@[simp] theorem State.setPwm_bank (i : Nat) (v : PwmAxis) : (s.setPwm i v).bank = s.bank := rfl
@[simp] theorem State.setPwm_waiters (i : Nat) (v : PwmAxis) : (s.setPwm i v).waiters = s.waiters := rfl
@[simp] theorem State.setPwm_aux (i : Nat) (v : PwmAxis) : (s.setPwm i v).aux = s.aux := rfl
@[simp] theorem State.setPwm_trails (i : Nat) (v : PwmAxis) : (s.setPwm i v).trails = s.trails := rfl
@[simp] theorem State.setPwm_followers (i : Nat) (v : PwmAxis) : (s.setPwm i v).followers = s.followers := rfl
@[simp] theorem State.setPwm_publishers (i : Nat) (v : PwmAxis) : (s.setPwm i v).publishers = s.publishers := rfl
@[simp] theorem State.setPwm_virt (i : Nat) (v : PwmAxis) : (s.setPwm i v).virt = s.virt := rfl
@[simp] theorem State.setPwm_remote (i : Nat) (v : PwmAxis) : (s.setPwm i v).remote = s.remote := rfl
@[simp] theorem State.setPwm_cams (i : Nat) (v : PwmAxis) : (s.setPwm i v).cams = s.cams := rfl
@[simp] theorem State.setPwm_steppers (i : Nat) (v : PwmAxis) : (s.setPwm i v).steppers = s.steppers := rfl
@[simp] theorem State.setPwm_caps (i : Nat) (v : PwmAxis) : (s.setPwm i v).caps = s.caps := rfl
@[simp] theorem State.setPwm_capMem (i : Nat) (v : PwmAxis) : (s.setPwm i v).capMem = s.capMem := rfl
@[simp] theorem State.setPwm_mailboxes (i : Nat) (v : PwmAxis) : (s.setPwm i v).mailboxes = s.mailboxes := rfl
@[simp] theorem State.setPwm_sessions (i : Nat) (v : PwmAxis) : (s.setPwm i v).sessions = s.sessions := rfl
@[simp] theorem State.setPwm_host (i : Nat) (v : PwmAxis) : (s.setPwm i v).host = s.host := rfl
@[simp] theorem State.setPwm_events (i : Nat) (v : PwmAxis) : (s.setPwm i v).events = s.events := rfl
@[simp] theorem State.setPwm_locks (i : Nat) (v : PwmAxis) : (s.setPwm i v).locks = s.locks := rfl
@[simp] theorem State.setPwm_sched (i : Nat) (v : PwmAxis) : (s.setPwm i v).sched = s.sched := rfl
@[simp] theorem State.setPwm_arbs (i : Nat) (v : PwmAxis) : (s.setPwm i v).arbs = s.arbs := rfl
@[simp] theorem State.setPwm_fabPorts (i : Nat) (v : PwmAxis) : (s.setPwm i v).fabPorts = s.fabPorts := rfl
@[simp] theorem State.setPwm_fabric (i : Nat) (v : PwmAxis) : (s.setPwm i v).fabric = s.fabric := rfl
@[simp] theorem State.setPwm_eth (i : Nat) (v : PwmAxis) : (s.setPwm i v).eth = s.eth := rfl
@[simp] theorem State.setPwm_can (i : Nat) (v : PwmAxis) : (s.setPwm i v).can = s.can := rfl
@[simp] theorem State.setPwm_fio (i : Nat) (v : PwmAxis) : (s.setPwm i v).fio = s.fio := rfl
@[simp] theorem State.setPwm_safety (i : Nat) (v : PwmAxis) : (s.setPwm i v).safety = s.safety := rfl
@[simp] theorem State.setPwm_power (i : Nat) (v : PwmAxis) : (s.setPwm i v).power = s.power := rfl
theorem State.getPwm_setPwm_same (i : Nat) (v : PwmAxis) (h : mwf {} s.pwm = true) : (s.setPwm i v).getPwm i = v := mget_mset_same i v h
theorem State.getPwm_setPwm_ne {i j : Nat} (v : PwmAxis) (h : j ≠ i) : (s.setPwm i v).getPwm j = s.getPwm j := mget_mset_ne s.pwm v _ h
@[simp] theorem State.getTdc_setPwm (i j : Nat) (v : PwmAxis) : (s.setPwm i v).getTdc j = s.getTdc j := rfl
@[simp] theorem State.getQuad_setPwm (i j : Nat) (v : PwmAxis) : (s.setPwm i v).getQuad j = s.getQuad j := rfl
@[simp] theorem State.getSerial_setPwm (i j : Nat) (v : PwmAxis) : (s.setPwm i v).getSerial j = s.getSerial j := rfl
@[simp] theorem State.getFb_setPwm (i j : Nat) (v : PwmAxis) : (s.setPwm i v).getFb j = s.getFb j := rfl
@[simp] theorem State.getLoop_setPwm (i j : Nat) (v : PwmAxis) : (s.setPwm i v).getLoop j = s.getLoop j := rfl
@[simp] theorem State.getFlags_setPwm (i j : Nat) (v : PwmAxis) : (s.setPwm i v).getFlags j = s.getFlags j := rfl
@[simp] theorem State.getFoc_setPwm (i j : Nat) (v : PwmAxis) : (s.setPwm i v).getFoc j = s.getFoc j := rfl
@[simp] theorem State.getSection_setPwm (i j : Nat) (v : PwmAxis) : (s.setPwm i v).getSection j = s.getSection j := rfl
@[simp] theorem State.getRecord_setPwm (i j : Nat) (v : PwmAxis) : (s.setPwm i v).getRecord j = s.getRecord j := rfl
@[simp] theorem State.getDc_setPwm (i j : Nat) (v : PwmAxis) : (s.setPwm i v).getDc j = s.getDc j := rfl
@[simp] theorem State.getEngine_setPwm (i j : Nat) (v : PwmAxis) : (s.setPwm i v).getEngine j = s.getEngine j := rfl
@[simp] theorem State.getAux_setPwm (i j : Nat) (v : PwmAxis) : (s.setPwm i v).getAux j = s.getAux j := rfl
@[simp] theorem State.getTrail_setPwm (i j : Nat) (v : PwmAxis) : (s.setPwm i v).getTrail j = s.getTrail j := rfl
@[simp] theorem State.getFollower_setPwm (i j : Nat) (v : PwmAxis) : (s.setPwm i v).getFollower j = s.getFollower j := rfl
@[simp] theorem State.getPublisher_setPwm (i j : Nat) (v : PwmAxis) : (s.setPwm i v).getPublisher j = s.getPublisher j := rfl
@[simp] theorem State.getVirt_setPwm (i j : Nat) (v : PwmAxis) : (s.setPwm i v).getVirt j = s.getVirt j := rfl
@[simp] theorem State.getRemote_setPwm (i j : Nat) (v : PwmAxis) : (s.setPwm i v).getRemote j = s.getRemote j := rfl
@[simp] theorem State.getCam_setPwm (i j : Nat) (v : PwmAxis) : (s.setPwm i v).getCam j = s.getCam j := rfl
@[simp] theorem State.getStepper_setPwm (i j : Nat) (v : PwmAxis) : (s.setPwm i v).getStepper j = s.getStepper j := rfl
@[simp] theorem State.getCap_setPwm (i j : Nat) (v : PwmAxis) : (s.setPwm i v).getCap j = s.getCap j := rfl
@[simp] theorem State.getMbx_setPwm (i j : Nat) (v : PwmAxis) : (s.setPwm i v).getMbx j = s.getMbx j := rfl
@[simp] theorem State.getSession_setPwm (i j : Nat) (v : PwmAxis) : (s.setPwm i v).getSession j = s.getSession j := rfl
@[simp] theorem State.getArb_setPwm (i j : Nat) (v : PwmAxis) : (s.setPwm i v).getArb j = s.getArb j := rfl
@[simp] theorem State.getFabPort_setPwm (i j : Nat) (v : PwmAxis) : (s.setPwm i v).getFabPort j = s.getFabPort j := rfl
@[simp] theorem State.getEth_setPwm (i j : Nat) (v : PwmAxis) : (s.setPwm i v).getEth j = s.getEth j := rfl
@[simp] theorem State.getCan_setPwm (i j : Nat) (v : PwmAxis) : (s.setPwm i v).getCan j = s.getCan j := rfl

/-! ### quad -/

@[simp] theorem State.modQuad_def (i : Nat) (g : QuadDecoder → QuadDecoder) : s.modQuad i g = s.setQuad i (g (s.getQuad i)) := rfl
@[simp] theorem State.setQuad_quad (i : Nat) (v : QuadDecoder) : (s.setQuad i v).quad = mset s.quad i v {} := rfl
@[simp] theorem State.setQuad_pending (i : Nat) (v : QuadDecoder) : (s.setQuad i v).pending = s.pending := rfl
@[simp] theorem State.setQuad_tick (i : Nat) (v : QuadDecoder) : (s.setQuad i v).tick = s.tick := rfl
@[simp] theorem State.setQuad_freeCtr (i : Nat) (v : QuadDecoder) : (s.setQuad i v).freeCtr = s.freeCtr := rfl
@[simp] theorem State.setQuad_time (i : Nat) (v : QuadDecoder) : (s.setQuad i v).time = s.time := rfl
@[simp] theorem State.setQuad_tdc (i : Nat) (v : QuadDecoder) : (s.setQuad i v).tdc = s.tdc := rfl
@[simp] theorem State.setQuad_tdcCal (i : Nat) (v : QuadDecoder) : (s.setQuad i v).tdcCal = s.tdcCal := rfl
@[simp] theorem State.setQuad_cfg (i : Nat) (v : QuadDecoder) : (s.setQuad i v).cfg = s.cfg := rfl
@[simp] theorem State.setQuad_ctr (i : Nat) (v : QuadDecoder) : (s.setQuad i v).ctr = s.ctr := rfl
@[simp] theorem State.setQuad_pwm (i : Nat) (v : QuadDecoder) : (s.setQuad i v).pwm = s.pwm := rfl
@[simp] theorem State.setQuad_serial (i : Nat) (v : QuadDecoder) : (s.setQuad i v).serial = s.serial := rfl
@[simp] theorem State.setQuad_fb (i : Nat) (v : QuadDecoder) : (s.setQuad i v).fb = s.fb := rfl
@[simp] theorem State.setQuad_loop (i : Nat) (v : QuadDecoder) : (s.setQuad i v).loop = s.loop := rfl
@[simp] theorem State.setQuad_flags (i : Nat) (v : QuadDecoder) : (s.setQuad i v).flags = s.flags := rfl
@[simp] theorem State.setQuad_foc (i : Nat) (v : QuadDecoder) : (s.setQuad i v).foc = s.foc := rfl
@[simp] theorem State.setQuad_sections (i : Nat) (v : QuadDecoder) : (s.setQuad i v).sections = s.sections := rfl
@[simp] theorem State.setQuad_records (i : Nat) (v : QuadDecoder) : (s.setQuad i v).records = s.records := rfl
@[simp] theorem State.setQuad_dc (i : Nat) (v : QuadDecoder) : (s.setQuad i v).dc = s.dc := rfl
@[simp] theorem State.setQuad_engines (i : Nat) (v : QuadDecoder) : (s.setQuad i v).engines = s.engines := rfl
@[simp] theorem State.setQuad_bank (i : Nat) (v : QuadDecoder) : (s.setQuad i v).bank = s.bank := rfl
@[simp] theorem State.setQuad_waiters (i : Nat) (v : QuadDecoder) : (s.setQuad i v).waiters = s.waiters := rfl
@[simp] theorem State.setQuad_aux (i : Nat) (v : QuadDecoder) : (s.setQuad i v).aux = s.aux := rfl
@[simp] theorem State.setQuad_trails (i : Nat) (v : QuadDecoder) : (s.setQuad i v).trails = s.trails := rfl
@[simp] theorem State.setQuad_followers (i : Nat) (v : QuadDecoder) : (s.setQuad i v).followers = s.followers := rfl
@[simp] theorem State.setQuad_publishers (i : Nat) (v : QuadDecoder) : (s.setQuad i v).publishers = s.publishers := rfl
@[simp] theorem State.setQuad_virt (i : Nat) (v : QuadDecoder) : (s.setQuad i v).virt = s.virt := rfl
@[simp] theorem State.setQuad_remote (i : Nat) (v : QuadDecoder) : (s.setQuad i v).remote = s.remote := rfl
@[simp] theorem State.setQuad_cams (i : Nat) (v : QuadDecoder) : (s.setQuad i v).cams = s.cams := rfl
@[simp] theorem State.setQuad_steppers (i : Nat) (v : QuadDecoder) : (s.setQuad i v).steppers = s.steppers := rfl
@[simp] theorem State.setQuad_caps (i : Nat) (v : QuadDecoder) : (s.setQuad i v).caps = s.caps := rfl
@[simp] theorem State.setQuad_capMem (i : Nat) (v : QuadDecoder) : (s.setQuad i v).capMem = s.capMem := rfl
@[simp] theorem State.setQuad_mailboxes (i : Nat) (v : QuadDecoder) : (s.setQuad i v).mailboxes = s.mailboxes := rfl
@[simp] theorem State.setQuad_sessions (i : Nat) (v : QuadDecoder) : (s.setQuad i v).sessions = s.sessions := rfl
@[simp] theorem State.setQuad_host (i : Nat) (v : QuadDecoder) : (s.setQuad i v).host = s.host := rfl
@[simp] theorem State.setQuad_events (i : Nat) (v : QuadDecoder) : (s.setQuad i v).events = s.events := rfl
@[simp] theorem State.setQuad_locks (i : Nat) (v : QuadDecoder) : (s.setQuad i v).locks = s.locks := rfl
@[simp] theorem State.setQuad_sched (i : Nat) (v : QuadDecoder) : (s.setQuad i v).sched = s.sched := rfl
@[simp] theorem State.setQuad_arbs (i : Nat) (v : QuadDecoder) : (s.setQuad i v).arbs = s.arbs := rfl
@[simp] theorem State.setQuad_fabPorts (i : Nat) (v : QuadDecoder) : (s.setQuad i v).fabPorts = s.fabPorts := rfl
@[simp] theorem State.setQuad_fabric (i : Nat) (v : QuadDecoder) : (s.setQuad i v).fabric = s.fabric := rfl
@[simp] theorem State.setQuad_eth (i : Nat) (v : QuadDecoder) : (s.setQuad i v).eth = s.eth := rfl
@[simp] theorem State.setQuad_can (i : Nat) (v : QuadDecoder) : (s.setQuad i v).can = s.can := rfl
@[simp] theorem State.setQuad_fio (i : Nat) (v : QuadDecoder) : (s.setQuad i v).fio = s.fio := rfl
@[simp] theorem State.setQuad_safety (i : Nat) (v : QuadDecoder) : (s.setQuad i v).safety = s.safety := rfl
@[simp] theorem State.setQuad_power (i : Nat) (v : QuadDecoder) : (s.setQuad i v).power = s.power := rfl
theorem State.getQuad_setQuad_same (i : Nat) (v : QuadDecoder) (h : mwf {} s.quad = true) : (s.setQuad i v).getQuad i = v := mget_mset_same i v h
theorem State.getQuad_setQuad_ne {i j : Nat} (v : QuadDecoder) (h : j ≠ i) : (s.setQuad i v).getQuad j = s.getQuad j := mget_mset_ne s.quad v _ h
@[simp] theorem State.getTdc_setQuad (i j : Nat) (v : QuadDecoder) : (s.setQuad i v).getTdc j = s.getTdc j := rfl
@[simp] theorem State.getPwm_setQuad (i j : Nat) (v : QuadDecoder) : (s.setQuad i v).getPwm j = s.getPwm j := rfl
@[simp] theorem State.getSerial_setQuad (i j : Nat) (v : QuadDecoder) : (s.setQuad i v).getSerial j = s.getSerial j := rfl
@[simp] theorem State.getFb_setQuad (i j : Nat) (v : QuadDecoder) : (s.setQuad i v).getFb j = s.getFb j := rfl
@[simp] theorem State.getLoop_setQuad (i j : Nat) (v : QuadDecoder) : (s.setQuad i v).getLoop j = s.getLoop j := rfl
@[simp] theorem State.getFlags_setQuad (i j : Nat) (v : QuadDecoder) : (s.setQuad i v).getFlags j = s.getFlags j := rfl
@[simp] theorem State.getFoc_setQuad (i j : Nat) (v : QuadDecoder) : (s.setQuad i v).getFoc j = s.getFoc j := rfl
@[simp] theorem State.getSection_setQuad (i j : Nat) (v : QuadDecoder) : (s.setQuad i v).getSection j = s.getSection j := rfl
@[simp] theorem State.getRecord_setQuad (i j : Nat) (v : QuadDecoder) : (s.setQuad i v).getRecord j = s.getRecord j := rfl
@[simp] theorem State.getDc_setQuad (i j : Nat) (v : QuadDecoder) : (s.setQuad i v).getDc j = s.getDc j := rfl
@[simp] theorem State.getEngine_setQuad (i j : Nat) (v : QuadDecoder) : (s.setQuad i v).getEngine j = s.getEngine j := rfl
@[simp] theorem State.getAux_setQuad (i j : Nat) (v : QuadDecoder) : (s.setQuad i v).getAux j = s.getAux j := rfl
@[simp] theorem State.getTrail_setQuad (i j : Nat) (v : QuadDecoder) : (s.setQuad i v).getTrail j = s.getTrail j := rfl
@[simp] theorem State.getFollower_setQuad (i j : Nat) (v : QuadDecoder) : (s.setQuad i v).getFollower j = s.getFollower j := rfl
@[simp] theorem State.getPublisher_setQuad (i j : Nat) (v : QuadDecoder) : (s.setQuad i v).getPublisher j = s.getPublisher j := rfl
@[simp] theorem State.getVirt_setQuad (i j : Nat) (v : QuadDecoder) : (s.setQuad i v).getVirt j = s.getVirt j := rfl
@[simp] theorem State.getRemote_setQuad (i j : Nat) (v : QuadDecoder) : (s.setQuad i v).getRemote j = s.getRemote j := rfl
@[simp] theorem State.getCam_setQuad (i j : Nat) (v : QuadDecoder) : (s.setQuad i v).getCam j = s.getCam j := rfl
@[simp] theorem State.getStepper_setQuad (i j : Nat) (v : QuadDecoder) : (s.setQuad i v).getStepper j = s.getStepper j := rfl
@[simp] theorem State.getCap_setQuad (i j : Nat) (v : QuadDecoder) : (s.setQuad i v).getCap j = s.getCap j := rfl
@[simp] theorem State.getMbx_setQuad (i j : Nat) (v : QuadDecoder) : (s.setQuad i v).getMbx j = s.getMbx j := rfl
@[simp] theorem State.getSession_setQuad (i j : Nat) (v : QuadDecoder) : (s.setQuad i v).getSession j = s.getSession j := rfl
@[simp] theorem State.getArb_setQuad (i j : Nat) (v : QuadDecoder) : (s.setQuad i v).getArb j = s.getArb j := rfl
@[simp] theorem State.getFabPort_setQuad (i j : Nat) (v : QuadDecoder) : (s.setQuad i v).getFabPort j = s.getFabPort j := rfl
@[simp] theorem State.getEth_setQuad (i j : Nat) (v : QuadDecoder) : (s.setQuad i v).getEth j = s.getEth j := rfl
@[simp] theorem State.getCan_setQuad (i j : Nat) (v : QuadDecoder) : (s.setQuad i v).getCan j = s.getCan j := rfl

/-! ### serial -/

@[simp] theorem State.modSerial_def (i : Nat) (g : SerialPort → SerialPort) : s.modSerial i g = s.setSerial i (g (s.getSerial i)) := rfl
@[simp] theorem State.setSerial_serial (i : Nat) (v : SerialPort) : (s.setSerial i v).serial = mset s.serial i v {} := rfl
@[simp] theorem State.setSerial_pending (i : Nat) (v : SerialPort) : (s.setSerial i v).pending = s.pending := rfl
@[simp] theorem State.setSerial_tick (i : Nat) (v : SerialPort) : (s.setSerial i v).tick = s.tick := rfl
@[simp] theorem State.setSerial_freeCtr (i : Nat) (v : SerialPort) : (s.setSerial i v).freeCtr = s.freeCtr := rfl
@[simp] theorem State.setSerial_time (i : Nat) (v : SerialPort) : (s.setSerial i v).time = s.time := rfl
@[simp] theorem State.setSerial_tdc (i : Nat) (v : SerialPort) : (s.setSerial i v).tdc = s.tdc := rfl
@[simp] theorem State.setSerial_tdcCal (i : Nat) (v : SerialPort) : (s.setSerial i v).tdcCal = s.tdcCal := rfl
@[simp] theorem State.setSerial_cfg (i : Nat) (v : SerialPort) : (s.setSerial i v).cfg = s.cfg := rfl
@[simp] theorem State.setSerial_ctr (i : Nat) (v : SerialPort) : (s.setSerial i v).ctr = s.ctr := rfl
@[simp] theorem State.setSerial_pwm (i : Nat) (v : SerialPort) : (s.setSerial i v).pwm = s.pwm := rfl
@[simp] theorem State.setSerial_quad (i : Nat) (v : SerialPort) : (s.setSerial i v).quad = s.quad := rfl
@[simp] theorem State.setSerial_fb (i : Nat) (v : SerialPort) : (s.setSerial i v).fb = s.fb := rfl
@[simp] theorem State.setSerial_loop (i : Nat) (v : SerialPort) : (s.setSerial i v).loop = s.loop := rfl
@[simp] theorem State.setSerial_flags (i : Nat) (v : SerialPort) : (s.setSerial i v).flags = s.flags := rfl
@[simp] theorem State.setSerial_foc (i : Nat) (v : SerialPort) : (s.setSerial i v).foc = s.foc := rfl
@[simp] theorem State.setSerial_sections (i : Nat) (v : SerialPort) : (s.setSerial i v).sections = s.sections := rfl
@[simp] theorem State.setSerial_records (i : Nat) (v : SerialPort) : (s.setSerial i v).records = s.records := rfl
@[simp] theorem State.setSerial_dc (i : Nat) (v : SerialPort) : (s.setSerial i v).dc = s.dc := rfl
@[simp] theorem State.setSerial_engines (i : Nat) (v : SerialPort) : (s.setSerial i v).engines = s.engines := rfl
@[simp] theorem State.setSerial_bank (i : Nat) (v : SerialPort) : (s.setSerial i v).bank = s.bank := rfl
@[simp] theorem State.setSerial_waiters (i : Nat) (v : SerialPort) : (s.setSerial i v).waiters = s.waiters := rfl
@[simp] theorem State.setSerial_aux (i : Nat) (v : SerialPort) : (s.setSerial i v).aux = s.aux := rfl
@[simp] theorem State.setSerial_trails (i : Nat) (v : SerialPort) : (s.setSerial i v).trails = s.trails := rfl
@[simp] theorem State.setSerial_followers (i : Nat) (v : SerialPort) : (s.setSerial i v).followers = s.followers := rfl
@[simp] theorem State.setSerial_publishers (i : Nat) (v : SerialPort) : (s.setSerial i v).publishers = s.publishers := rfl
@[simp] theorem State.setSerial_virt (i : Nat) (v : SerialPort) : (s.setSerial i v).virt = s.virt := rfl
@[simp] theorem State.setSerial_remote (i : Nat) (v : SerialPort) : (s.setSerial i v).remote = s.remote := rfl
@[simp] theorem State.setSerial_cams (i : Nat) (v : SerialPort) : (s.setSerial i v).cams = s.cams := rfl
@[simp] theorem State.setSerial_steppers (i : Nat) (v : SerialPort) : (s.setSerial i v).steppers = s.steppers := rfl
@[simp] theorem State.setSerial_caps (i : Nat) (v : SerialPort) : (s.setSerial i v).caps = s.caps := rfl
@[simp] theorem State.setSerial_capMem (i : Nat) (v : SerialPort) : (s.setSerial i v).capMem = s.capMem := rfl
@[simp] theorem State.setSerial_mailboxes (i : Nat) (v : SerialPort) : (s.setSerial i v).mailboxes = s.mailboxes := rfl
@[simp] theorem State.setSerial_sessions (i : Nat) (v : SerialPort) : (s.setSerial i v).sessions = s.sessions := rfl
@[simp] theorem State.setSerial_host (i : Nat) (v : SerialPort) : (s.setSerial i v).host = s.host := rfl
@[simp] theorem State.setSerial_events (i : Nat) (v : SerialPort) : (s.setSerial i v).events = s.events := rfl
@[simp] theorem State.setSerial_locks (i : Nat) (v : SerialPort) : (s.setSerial i v).locks = s.locks := rfl
@[simp] theorem State.setSerial_sched (i : Nat) (v : SerialPort) : (s.setSerial i v).sched = s.sched := rfl
@[simp] theorem State.setSerial_arbs (i : Nat) (v : SerialPort) : (s.setSerial i v).arbs = s.arbs := rfl
@[simp] theorem State.setSerial_fabPorts (i : Nat) (v : SerialPort) : (s.setSerial i v).fabPorts = s.fabPorts := rfl
@[simp] theorem State.setSerial_fabric (i : Nat) (v : SerialPort) : (s.setSerial i v).fabric = s.fabric := rfl
@[simp] theorem State.setSerial_eth (i : Nat) (v : SerialPort) : (s.setSerial i v).eth = s.eth := rfl
@[simp] theorem State.setSerial_can (i : Nat) (v : SerialPort) : (s.setSerial i v).can = s.can := rfl
@[simp] theorem State.setSerial_fio (i : Nat) (v : SerialPort) : (s.setSerial i v).fio = s.fio := rfl
@[simp] theorem State.setSerial_safety (i : Nat) (v : SerialPort) : (s.setSerial i v).safety = s.safety := rfl
@[simp] theorem State.setSerial_power (i : Nat) (v : SerialPort) : (s.setSerial i v).power = s.power := rfl
theorem State.getSerial_setSerial_same (i : Nat) (v : SerialPort) (h : mwf {} s.serial = true) : (s.setSerial i v).getSerial i = v := mget_mset_same i v h
theorem State.getSerial_setSerial_ne {i j : Nat} (v : SerialPort) (h : j ≠ i) : (s.setSerial i v).getSerial j = s.getSerial j := mget_mset_ne s.serial v _ h
@[simp] theorem State.getTdc_setSerial (i j : Nat) (v : SerialPort) : (s.setSerial i v).getTdc j = s.getTdc j := rfl
@[simp] theorem State.getPwm_setSerial (i j : Nat) (v : SerialPort) : (s.setSerial i v).getPwm j = s.getPwm j := rfl
@[simp] theorem State.getQuad_setSerial (i j : Nat) (v : SerialPort) : (s.setSerial i v).getQuad j = s.getQuad j := rfl
@[simp] theorem State.getFb_setSerial (i j : Nat) (v : SerialPort) : (s.setSerial i v).getFb j = s.getFb j := rfl
@[simp] theorem State.getLoop_setSerial (i j : Nat) (v : SerialPort) : (s.setSerial i v).getLoop j = s.getLoop j := rfl
@[simp] theorem State.getFlags_setSerial (i j : Nat) (v : SerialPort) : (s.setSerial i v).getFlags j = s.getFlags j := rfl
@[simp] theorem State.getFoc_setSerial (i j : Nat) (v : SerialPort) : (s.setSerial i v).getFoc j = s.getFoc j := rfl
@[simp] theorem State.getSection_setSerial (i j : Nat) (v : SerialPort) : (s.setSerial i v).getSection j = s.getSection j := rfl
@[simp] theorem State.getRecord_setSerial (i j : Nat) (v : SerialPort) : (s.setSerial i v).getRecord j = s.getRecord j := rfl
@[simp] theorem State.getDc_setSerial (i j : Nat) (v : SerialPort) : (s.setSerial i v).getDc j = s.getDc j := rfl
@[simp] theorem State.getEngine_setSerial (i j : Nat) (v : SerialPort) : (s.setSerial i v).getEngine j = s.getEngine j := rfl
@[simp] theorem State.getAux_setSerial (i j : Nat) (v : SerialPort) : (s.setSerial i v).getAux j = s.getAux j := rfl
@[simp] theorem State.getTrail_setSerial (i j : Nat) (v : SerialPort) : (s.setSerial i v).getTrail j = s.getTrail j := rfl
@[simp] theorem State.getFollower_setSerial (i j : Nat) (v : SerialPort) : (s.setSerial i v).getFollower j = s.getFollower j := rfl
@[simp] theorem State.getPublisher_setSerial (i j : Nat) (v : SerialPort) : (s.setSerial i v).getPublisher j = s.getPublisher j := rfl
@[simp] theorem State.getVirt_setSerial (i j : Nat) (v : SerialPort) : (s.setSerial i v).getVirt j = s.getVirt j := rfl
@[simp] theorem State.getRemote_setSerial (i j : Nat) (v : SerialPort) : (s.setSerial i v).getRemote j = s.getRemote j := rfl
@[simp] theorem State.getCam_setSerial (i j : Nat) (v : SerialPort) : (s.setSerial i v).getCam j = s.getCam j := rfl
@[simp] theorem State.getStepper_setSerial (i j : Nat) (v : SerialPort) : (s.setSerial i v).getStepper j = s.getStepper j := rfl
@[simp] theorem State.getCap_setSerial (i j : Nat) (v : SerialPort) : (s.setSerial i v).getCap j = s.getCap j := rfl
@[simp] theorem State.getMbx_setSerial (i j : Nat) (v : SerialPort) : (s.setSerial i v).getMbx j = s.getMbx j := rfl
@[simp] theorem State.getSession_setSerial (i j : Nat) (v : SerialPort) : (s.setSerial i v).getSession j = s.getSession j := rfl
@[simp] theorem State.getArb_setSerial (i j : Nat) (v : SerialPort) : (s.setSerial i v).getArb j = s.getArb j := rfl
@[simp] theorem State.getFabPort_setSerial (i j : Nat) (v : SerialPort) : (s.setSerial i v).getFabPort j = s.getFabPort j := rfl
@[simp] theorem State.getEth_setSerial (i j : Nat) (v : SerialPort) : (s.setSerial i v).getEth j = s.getEth j := rfl
@[simp] theorem State.getCan_setSerial (i j : Nat) (v : SerialPort) : (s.setSerial i v).getCan j = s.getCan j := rfl

/-! ### fb -/

@[simp] theorem State.modFb_def (i : Nat) (g : Feedback → Feedback) : s.modFb i g = s.setFb i (g (s.getFb i)) := rfl
@[simp] theorem State.setFb_fb (i : Nat) (v : Feedback) : (s.setFb i v).fb = mset s.fb i v {} := rfl
@[simp] theorem State.setFb_pending (i : Nat) (v : Feedback) : (s.setFb i v).pending = s.pending := rfl
@[simp] theorem State.setFb_tick (i : Nat) (v : Feedback) : (s.setFb i v).tick = s.tick := rfl
@[simp] theorem State.setFb_freeCtr (i : Nat) (v : Feedback) : (s.setFb i v).freeCtr = s.freeCtr := rfl
@[simp] theorem State.setFb_time (i : Nat) (v : Feedback) : (s.setFb i v).time = s.time := rfl
@[simp] theorem State.setFb_tdc (i : Nat) (v : Feedback) : (s.setFb i v).tdc = s.tdc := rfl
@[simp] theorem State.setFb_tdcCal (i : Nat) (v : Feedback) : (s.setFb i v).tdcCal = s.tdcCal := rfl
@[simp] theorem State.setFb_cfg (i : Nat) (v : Feedback) : (s.setFb i v).cfg = s.cfg := rfl
@[simp] theorem State.setFb_ctr (i : Nat) (v : Feedback) : (s.setFb i v).ctr = s.ctr := rfl
@[simp] theorem State.setFb_pwm (i : Nat) (v : Feedback) : (s.setFb i v).pwm = s.pwm := rfl
@[simp] theorem State.setFb_quad (i : Nat) (v : Feedback) : (s.setFb i v).quad = s.quad := rfl
@[simp] theorem State.setFb_serial (i : Nat) (v : Feedback) : (s.setFb i v).serial = s.serial := rfl
@[simp] theorem State.setFb_loop (i : Nat) (v : Feedback) : (s.setFb i v).loop = s.loop := rfl
@[simp] theorem State.setFb_flags (i : Nat) (v : Feedback) : (s.setFb i v).flags = s.flags := rfl
@[simp] theorem State.setFb_foc (i : Nat) (v : Feedback) : (s.setFb i v).foc = s.foc := rfl
@[simp] theorem State.setFb_sections (i : Nat) (v : Feedback) : (s.setFb i v).sections = s.sections := rfl
@[simp] theorem State.setFb_records (i : Nat) (v : Feedback) : (s.setFb i v).records = s.records := rfl
@[simp] theorem State.setFb_dc (i : Nat) (v : Feedback) : (s.setFb i v).dc = s.dc := rfl
@[simp] theorem State.setFb_engines (i : Nat) (v : Feedback) : (s.setFb i v).engines = s.engines := rfl
@[simp] theorem State.setFb_bank (i : Nat) (v : Feedback) : (s.setFb i v).bank = s.bank := rfl
@[simp] theorem State.setFb_waiters (i : Nat) (v : Feedback) : (s.setFb i v).waiters = s.waiters := rfl
@[simp] theorem State.setFb_aux (i : Nat) (v : Feedback) : (s.setFb i v).aux = s.aux := rfl
@[simp] theorem State.setFb_trails (i : Nat) (v : Feedback) : (s.setFb i v).trails = s.trails := rfl
@[simp] theorem State.setFb_followers (i : Nat) (v : Feedback) : (s.setFb i v).followers = s.followers := rfl
@[simp] theorem State.setFb_publishers (i : Nat) (v : Feedback) : (s.setFb i v).publishers = s.publishers := rfl
@[simp] theorem State.setFb_virt (i : Nat) (v : Feedback) : (s.setFb i v).virt = s.virt := rfl
@[simp] theorem State.setFb_remote (i : Nat) (v : Feedback) : (s.setFb i v).remote = s.remote := rfl
@[simp] theorem State.setFb_cams (i : Nat) (v : Feedback) : (s.setFb i v).cams = s.cams := rfl
@[simp] theorem State.setFb_steppers (i : Nat) (v : Feedback) : (s.setFb i v).steppers = s.steppers := rfl
@[simp] theorem State.setFb_caps (i : Nat) (v : Feedback) : (s.setFb i v).caps = s.caps := rfl
@[simp] theorem State.setFb_capMem (i : Nat) (v : Feedback) : (s.setFb i v).capMem = s.capMem := rfl
@[simp] theorem State.setFb_mailboxes (i : Nat) (v : Feedback) : (s.setFb i v).mailboxes = s.mailboxes := rfl
@[simp] theorem State.setFb_sessions (i : Nat) (v : Feedback) : (s.setFb i v).sessions = s.sessions := rfl
@[simp] theorem State.setFb_host (i : Nat) (v : Feedback) : (s.setFb i v).host = s.host := rfl
@[simp] theorem State.setFb_events (i : Nat) (v : Feedback) : (s.setFb i v).events = s.events := rfl
@[simp] theorem State.setFb_locks (i : Nat) (v : Feedback) : (s.setFb i v).locks = s.locks := rfl
@[simp] theorem State.setFb_sched (i : Nat) (v : Feedback) : (s.setFb i v).sched = s.sched := rfl
@[simp] theorem State.setFb_arbs (i : Nat) (v : Feedback) : (s.setFb i v).arbs = s.arbs := rfl
@[simp] theorem State.setFb_fabPorts (i : Nat) (v : Feedback) : (s.setFb i v).fabPorts = s.fabPorts := rfl
@[simp] theorem State.setFb_fabric (i : Nat) (v : Feedback) : (s.setFb i v).fabric = s.fabric := rfl
@[simp] theorem State.setFb_eth (i : Nat) (v : Feedback) : (s.setFb i v).eth = s.eth := rfl
@[simp] theorem State.setFb_can (i : Nat) (v : Feedback) : (s.setFb i v).can = s.can := rfl
@[simp] theorem State.setFb_fio (i : Nat) (v : Feedback) : (s.setFb i v).fio = s.fio := rfl
@[simp] theorem State.setFb_safety (i : Nat) (v : Feedback) : (s.setFb i v).safety = s.safety := rfl
@[simp] theorem State.setFb_power (i : Nat) (v : Feedback) : (s.setFb i v).power = s.power := rfl
theorem State.getFb_setFb_same (i : Nat) (v : Feedback) (h : mwf {} s.fb = true) : (s.setFb i v).getFb i = v := mget_mset_same i v h
theorem State.getFb_setFb_ne {i j : Nat} (v : Feedback) (h : j ≠ i) : (s.setFb i v).getFb j = s.getFb j := mget_mset_ne s.fb v _ h
@[simp] theorem State.getTdc_setFb (i j : Nat) (v : Feedback) : (s.setFb i v).getTdc j = s.getTdc j := rfl
@[simp] theorem State.getPwm_setFb (i j : Nat) (v : Feedback) : (s.setFb i v).getPwm j = s.getPwm j := rfl
@[simp] theorem State.getQuad_setFb (i j : Nat) (v : Feedback) : (s.setFb i v).getQuad j = s.getQuad j := rfl
@[simp] theorem State.getSerial_setFb (i j : Nat) (v : Feedback) : (s.setFb i v).getSerial j = s.getSerial j := rfl
@[simp] theorem State.getLoop_setFb (i j : Nat) (v : Feedback) : (s.setFb i v).getLoop j = s.getLoop j := rfl
@[simp] theorem State.getFlags_setFb (i j : Nat) (v : Feedback) : (s.setFb i v).getFlags j = s.getFlags j := rfl
@[simp] theorem State.getFoc_setFb (i j : Nat) (v : Feedback) : (s.setFb i v).getFoc j = s.getFoc j := rfl
@[simp] theorem State.getSection_setFb (i j : Nat) (v : Feedback) : (s.setFb i v).getSection j = s.getSection j := rfl
@[simp] theorem State.getRecord_setFb (i j : Nat) (v : Feedback) : (s.setFb i v).getRecord j = s.getRecord j := rfl
@[simp] theorem State.getDc_setFb (i j : Nat) (v : Feedback) : (s.setFb i v).getDc j = s.getDc j := rfl
@[simp] theorem State.getEngine_setFb (i j : Nat) (v : Feedback) : (s.setFb i v).getEngine j = s.getEngine j := rfl
@[simp] theorem State.getAux_setFb (i j : Nat) (v : Feedback) : (s.setFb i v).getAux j = s.getAux j := rfl
@[simp] theorem State.getTrail_setFb (i j : Nat) (v : Feedback) : (s.setFb i v).getTrail j = s.getTrail j := rfl
@[simp] theorem State.getFollower_setFb (i j : Nat) (v : Feedback) : (s.setFb i v).getFollower j = s.getFollower j := rfl
@[simp] theorem State.getPublisher_setFb (i j : Nat) (v : Feedback) : (s.setFb i v).getPublisher j = s.getPublisher j := rfl
@[simp] theorem State.getVirt_setFb (i j : Nat) (v : Feedback) : (s.setFb i v).getVirt j = s.getVirt j := rfl
@[simp] theorem State.getRemote_setFb (i j : Nat) (v : Feedback) : (s.setFb i v).getRemote j = s.getRemote j := rfl
@[simp] theorem State.getCam_setFb (i j : Nat) (v : Feedback) : (s.setFb i v).getCam j = s.getCam j := rfl
@[simp] theorem State.getStepper_setFb (i j : Nat) (v : Feedback) : (s.setFb i v).getStepper j = s.getStepper j := rfl
@[simp] theorem State.getCap_setFb (i j : Nat) (v : Feedback) : (s.setFb i v).getCap j = s.getCap j := rfl
@[simp] theorem State.getMbx_setFb (i j : Nat) (v : Feedback) : (s.setFb i v).getMbx j = s.getMbx j := rfl
@[simp] theorem State.getSession_setFb (i j : Nat) (v : Feedback) : (s.setFb i v).getSession j = s.getSession j := rfl
@[simp] theorem State.getArb_setFb (i j : Nat) (v : Feedback) : (s.setFb i v).getArb j = s.getArb j := rfl
@[simp] theorem State.getFabPort_setFb (i j : Nat) (v : Feedback) : (s.setFb i v).getFabPort j = s.getFabPort j := rfl
@[simp] theorem State.getEth_setFb (i j : Nat) (v : Feedback) : (s.setFb i v).getEth j = s.getEth j := rfl
@[simp] theorem State.getCan_setFb (i j : Nat) (v : Feedback) : (s.setFb i v).getCan j = s.getCan j := rfl

/-! ### loop -/

@[simp] theorem State.modLoop_def (i : Nat) (g : ServoLoop → ServoLoop) : s.modLoop i g = s.setLoop i (g (s.getLoop i)) := rfl
@[simp] theorem State.setLoop_loop (i : Nat) (v : ServoLoop) : (s.setLoop i v).loop = mset s.loop i v {} := rfl
@[simp] theorem State.setLoop_pending (i : Nat) (v : ServoLoop) : (s.setLoop i v).pending = s.pending := rfl
@[simp] theorem State.setLoop_tick (i : Nat) (v : ServoLoop) : (s.setLoop i v).tick = s.tick := rfl
@[simp] theorem State.setLoop_freeCtr (i : Nat) (v : ServoLoop) : (s.setLoop i v).freeCtr = s.freeCtr := rfl
@[simp] theorem State.setLoop_time (i : Nat) (v : ServoLoop) : (s.setLoop i v).time = s.time := rfl
@[simp] theorem State.setLoop_tdc (i : Nat) (v : ServoLoop) : (s.setLoop i v).tdc = s.tdc := rfl
@[simp] theorem State.setLoop_tdcCal (i : Nat) (v : ServoLoop) : (s.setLoop i v).tdcCal = s.tdcCal := rfl
@[simp] theorem State.setLoop_cfg (i : Nat) (v : ServoLoop) : (s.setLoop i v).cfg = s.cfg := rfl
@[simp] theorem State.setLoop_ctr (i : Nat) (v : ServoLoop) : (s.setLoop i v).ctr = s.ctr := rfl
@[simp] theorem State.setLoop_pwm (i : Nat) (v : ServoLoop) : (s.setLoop i v).pwm = s.pwm := rfl
@[simp] theorem State.setLoop_quad (i : Nat) (v : ServoLoop) : (s.setLoop i v).quad = s.quad := rfl
@[simp] theorem State.setLoop_serial (i : Nat) (v : ServoLoop) : (s.setLoop i v).serial = s.serial := rfl
@[simp] theorem State.setLoop_fb (i : Nat) (v : ServoLoop) : (s.setLoop i v).fb = s.fb := rfl
@[simp] theorem State.setLoop_flags (i : Nat) (v : ServoLoop) : (s.setLoop i v).flags = s.flags := rfl
@[simp] theorem State.setLoop_foc (i : Nat) (v : ServoLoop) : (s.setLoop i v).foc = s.foc := rfl
@[simp] theorem State.setLoop_sections (i : Nat) (v : ServoLoop) : (s.setLoop i v).sections = s.sections := rfl
@[simp] theorem State.setLoop_records (i : Nat) (v : ServoLoop) : (s.setLoop i v).records = s.records := rfl
@[simp] theorem State.setLoop_dc (i : Nat) (v : ServoLoop) : (s.setLoop i v).dc = s.dc := rfl
@[simp] theorem State.setLoop_engines (i : Nat) (v : ServoLoop) : (s.setLoop i v).engines = s.engines := rfl
@[simp] theorem State.setLoop_bank (i : Nat) (v : ServoLoop) : (s.setLoop i v).bank = s.bank := rfl
@[simp] theorem State.setLoop_waiters (i : Nat) (v : ServoLoop) : (s.setLoop i v).waiters = s.waiters := rfl
@[simp] theorem State.setLoop_aux (i : Nat) (v : ServoLoop) : (s.setLoop i v).aux = s.aux := rfl
@[simp] theorem State.setLoop_trails (i : Nat) (v : ServoLoop) : (s.setLoop i v).trails = s.trails := rfl
@[simp] theorem State.setLoop_followers (i : Nat) (v : ServoLoop) : (s.setLoop i v).followers = s.followers := rfl
@[simp] theorem State.setLoop_publishers (i : Nat) (v : ServoLoop) : (s.setLoop i v).publishers = s.publishers := rfl
@[simp] theorem State.setLoop_virt (i : Nat) (v : ServoLoop) : (s.setLoop i v).virt = s.virt := rfl
@[simp] theorem State.setLoop_remote (i : Nat) (v : ServoLoop) : (s.setLoop i v).remote = s.remote := rfl
@[simp] theorem State.setLoop_cams (i : Nat) (v : ServoLoop) : (s.setLoop i v).cams = s.cams := rfl
@[simp] theorem State.setLoop_steppers (i : Nat) (v : ServoLoop) : (s.setLoop i v).steppers = s.steppers := rfl
@[simp] theorem State.setLoop_caps (i : Nat) (v : ServoLoop) : (s.setLoop i v).caps = s.caps := rfl
@[simp] theorem State.setLoop_capMem (i : Nat) (v : ServoLoop) : (s.setLoop i v).capMem = s.capMem := rfl
@[simp] theorem State.setLoop_mailboxes (i : Nat) (v : ServoLoop) : (s.setLoop i v).mailboxes = s.mailboxes := rfl
@[simp] theorem State.setLoop_sessions (i : Nat) (v : ServoLoop) : (s.setLoop i v).sessions = s.sessions := rfl
@[simp] theorem State.setLoop_host (i : Nat) (v : ServoLoop) : (s.setLoop i v).host = s.host := rfl
@[simp] theorem State.setLoop_events (i : Nat) (v : ServoLoop) : (s.setLoop i v).events = s.events := rfl
@[simp] theorem State.setLoop_locks (i : Nat) (v : ServoLoop) : (s.setLoop i v).locks = s.locks := rfl
@[simp] theorem State.setLoop_sched (i : Nat) (v : ServoLoop) : (s.setLoop i v).sched = s.sched := rfl
@[simp] theorem State.setLoop_arbs (i : Nat) (v : ServoLoop) : (s.setLoop i v).arbs = s.arbs := rfl
@[simp] theorem State.setLoop_fabPorts (i : Nat) (v : ServoLoop) : (s.setLoop i v).fabPorts = s.fabPorts := rfl
@[simp] theorem State.setLoop_fabric (i : Nat) (v : ServoLoop) : (s.setLoop i v).fabric = s.fabric := rfl
@[simp] theorem State.setLoop_eth (i : Nat) (v : ServoLoop) : (s.setLoop i v).eth = s.eth := rfl
@[simp] theorem State.setLoop_can (i : Nat) (v : ServoLoop) : (s.setLoop i v).can = s.can := rfl
@[simp] theorem State.setLoop_fio (i : Nat) (v : ServoLoop) : (s.setLoop i v).fio = s.fio := rfl
@[simp] theorem State.setLoop_safety (i : Nat) (v : ServoLoop) : (s.setLoop i v).safety = s.safety := rfl
@[simp] theorem State.setLoop_power (i : Nat) (v : ServoLoop) : (s.setLoop i v).power = s.power := rfl
theorem State.getLoop_setLoop_same (i : Nat) (v : ServoLoop) (h : mwf {} s.loop = true) : (s.setLoop i v).getLoop i = v := mget_mset_same i v h
theorem State.getLoop_setLoop_ne {i j : Nat} (v : ServoLoop) (h : j ≠ i) : (s.setLoop i v).getLoop j = s.getLoop j := mget_mset_ne s.loop v _ h
@[simp] theorem State.getTdc_setLoop (i j : Nat) (v : ServoLoop) : (s.setLoop i v).getTdc j = s.getTdc j := rfl
@[simp] theorem State.getPwm_setLoop (i j : Nat) (v : ServoLoop) : (s.setLoop i v).getPwm j = s.getPwm j := rfl
@[simp] theorem State.getQuad_setLoop (i j : Nat) (v : ServoLoop) : (s.setLoop i v).getQuad j = s.getQuad j := rfl
@[simp] theorem State.getSerial_setLoop (i j : Nat) (v : ServoLoop) : (s.setLoop i v).getSerial j = s.getSerial j := rfl
@[simp] theorem State.getFb_setLoop (i j : Nat) (v : ServoLoop) : (s.setLoop i v).getFb j = s.getFb j := rfl
@[simp] theorem State.getFlags_setLoop (i j : Nat) (v : ServoLoop) : (s.setLoop i v).getFlags j = s.getFlags j := rfl
@[simp] theorem State.getFoc_setLoop (i j : Nat) (v : ServoLoop) : (s.setLoop i v).getFoc j = s.getFoc j := rfl
@[simp] theorem State.getSection_setLoop (i j : Nat) (v : ServoLoop) : (s.setLoop i v).getSection j = s.getSection j := rfl
@[simp] theorem State.getRecord_setLoop (i j : Nat) (v : ServoLoop) : (s.setLoop i v).getRecord j = s.getRecord j := rfl
@[simp] theorem State.getDc_setLoop (i j : Nat) (v : ServoLoop) : (s.setLoop i v).getDc j = s.getDc j := rfl
@[simp] theorem State.getEngine_setLoop (i j : Nat) (v : ServoLoop) : (s.setLoop i v).getEngine j = s.getEngine j := rfl
@[simp] theorem State.getAux_setLoop (i j : Nat) (v : ServoLoop) : (s.setLoop i v).getAux j = s.getAux j := rfl
@[simp] theorem State.getTrail_setLoop (i j : Nat) (v : ServoLoop) : (s.setLoop i v).getTrail j = s.getTrail j := rfl
@[simp] theorem State.getFollower_setLoop (i j : Nat) (v : ServoLoop) : (s.setLoop i v).getFollower j = s.getFollower j := rfl
@[simp] theorem State.getPublisher_setLoop (i j : Nat) (v : ServoLoop) : (s.setLoop i v).getPublisher j = s.getPublisher j := rfl
@[simp] theorem State.getVirt_setLoop (i j : Nat) (v : ServoLoop) : (s.setLoop i v).getVirt j = s.getVirt j := rfl
@[simp] theorem State.getRemote_setLoop (i j : Nat) (v : ServoLoop) : (s.setLoop i v).getRemote j = s.getRemote j := rfl
@[simp] theorem State.getCam_setLoop (i j : Nat) (v : ServoLoop) : (s.setLoop i v).getCam j = s.getCam j := rfl
@[simp] theorem State.getStepper_setLoop (i j : Nat) (v : ServoLoop) : (s.setLoop i v).getStepper j = s.getStepper j := rfl
@[simp] theorem State.getCap_setLoop (i j : Nat) (v : ServoLoop) : (s.setLoop i v).getCap j = s.getCap j := rfl
@[simp] theorem State.getMbx_setLoop (i j : Nat) (v : ServoLoop) : (s.setLoop i v).getMbx j = s.getMbx j := rfl
@[simp] theorem State.getSession_setLoop (i j : Nat) (v : ServoLoop) : (s.setLoop i v).getSession j = s.getSession j := rfl
@[simp] theorem State.getArb_setLoop (i j : Nat) (v : ServoLoop) : (s.setLoop i v).getArb j = s.getArb j := rfl
@[simp] theorem State.getFabPort_setLoop (i j : Nat) (v : ServoLoop) : (s.setLoop i v).getFabPort j = s.getFabPort j := rfl
@[simp] theorem State.getEth_setLoop (i j : Nat) (v : ServoLoop) : (s.setLoop i v).getEth j = s.getEth j := rfl
@[simp] theorem State.getCan_setLoop (i j : Nat) (v : ServoLoop) : (s.setLoop i v).getCan j = s.getCan j := rfl

/-! ### flags -/

@[simp] theorem State.modFlags_def (i : Nat) (g : ServoFlags → ServoFlags) : s.modFlags i g = s.setFlags i (g (s.getFlags i)) := rfl
@[simp] theorem State.setFlags_flags (i : Nat) (v : ServoFlags) : (s.setFlags i v).flags = mset s.flags i v {} := rfl
@[simp] theorem State.setFlags_pending (i : Nat) (v : ServoFlags) : (s.setFlags i v).pending = s.pending := rfl
@[simp] theorem State.setFlags_tick (i : Nat) (v : ServoFlags) : (s.setFlags i v).tick = s.tick := rfl
@[simp] theorem State.setFlags_freeCtr (i : Nat) (v : ServoFlags) : (s.setFlags i v).freeCtr = s.freeCtr := rfl
@[simp] theorem State.setFlags_time (i : Nat) (v : ServoFlags) : (s.setFlags i v).time = s.time := rfl
@[simp] theorem State.setFlags_tdc (i : Nat) (v : ServoFlags) : (s.setFlags i v).tdc = s.tdc := rfl
@[simp] theorem State.setFlags_tdcCal (i : Nat) (v : ServoFlags) : (s.setFlags i v).tdcCal = s.tdcCal := rfl
@[simp] theorem State.setFlags_cfg (i : Nat) (v : ServoFlags) : (s.setFlags i v).cfg = s.cfg := rfl
@[simp] theorem State.setFlags_ctr (i : Nat) (v : ServoFlags) : (s.setFlags i v).ctr = s.ctr := rfl
@[simp] theorem State.setFlags_pwm (i : Nat) (v : ServoFlags) : (s.setFlags i v).pwm = s.pwm := rfl
@[simp] theorem State.setFlags_quad (i : Nat) (v : ServoFlags) : (s.setFlags i v).quad = s.quad := rfl
@[simp] theorem State.setFlags_serial (i : Nat) (v : ServoFlags) : (s.setFlags i v).serial = s.serial := rfl
@[simp] theorem State.setFlags_fb (i : Nat) (v : ServoFlags) : (s.setFlags i v).fb = s.fb := rfl
@[simp] theorem State.setFlags_loop (i : Nat) (v : ServoFlags) : (s.setFlags i v).loop = s.loop := rfl
@[simp] theorem State.setFlags_foc (i : Nat) (v : ServoFlags) : (s.setFlags i v).foc = s.foc := rfl
@[simp] theorem State.setFlags_sections (i : Nat) (v : ServoFlags) : (s.setFlags i v).sections = s.sections := rfl
@[simp] theorem State.setFlags_records (i : Nat) (v : ServoFlags) : (s.setFlags i v).records = s.records := rfl
@[simp] theorem State.setFlags_dc (i : Nat) (v : ServoFlags) : (s.setFlags i v).dc = s.dc := rfl
@[simp] theorem State.setFlags_engines (i : Nat) (v : ServoFlags) : (s.setFlags i v).engines = s.engines := rfl
@[simp] theorem State.setFlags_bank (i : Nat) (v : ServoFlags) : (s.setFlags i v).bank = s.bank := rfl
@[simp] theorem State.setFlags_waiters (i : Nat) (v : ServoFlags) : (s.setFlags i v).waiters = s.waiters := rfl
@[simp] theorem State.setFlags_aux (i : Nat) (v : ServoFlags) : (s.setFlags i v).aux = s.aux := rfl
@[simp] theorem State.setFlags_trails (i : Nat) (v : ServoFlags) : (s.setFlags i v).trails = s.trails := rfl
@[simp] theorem State.setFlags_followers (i : Nat) (v : ServoFlags) : (s.setFlags i v).followers = s.followers := rfl
@[simp] theorem State.setFlags_publishers (i : Nat) (v : ServoFlags) : (s.setFlags i v).publishers = s.publishers := rfl
@[simp] theorem State.setFlags_virt (i : Nat) (v : ServoFlags) : (s.setFlags i v).virt = s.virt := rfl
@[simp] theorem State.setFlags_remote (i : Nat) (v : ServoFlags) : (s.setFlags i v).remote = s.remote := rfl
@[simp] theorem State.setFlags_cams (i : Nat) (v : ServoFlags) : (s.setFlags i v).cams = s.cams := rfl
@[simp] theorem State.setFlags_steppers (i : Nat) (v : ServoFlags) : (s.setFlags i v).steppers = s.steppers := rfl
@[simp] theorem State.setFlags_caps (i : Nat) (v : ServoFlags) : (s.setFlags i v).caps = s.caps := rfl
@[simp] theorem State.setFlags_capMem (i : Nat) (v : ServoFlags) : (s.setFlags i v).capMem = s.capMem := rfl
@[simp] theorem State.setFlags_mailboxes (i : Nat) (v : ServoFlags) : (s.setFlags i v).mailboxes = s.mailboxes := rfl
@[simp] theorem State.setFlags_sessions (i : Nat) (v : ServoFlags) : (s.setFlags i v).sessions = s.sessions := rfl
@[simp] theorem State.setFlags_host (i : Nat) (v : ServoFlags) : (s.setFlags i v).host = s.host := rfl
@[simp] theorem State.setFlags_events (i : Nat) (v : ServoFlags) : (s.setFlags i v).events = s.events := rfl
@[simp] theorem State.setFlags_locks (i : Nat) (v : ServoFlags) : (s.setFlags i v).locks = s.locks := rfl
@[simp] theorem State.setFlags_sched (i : Nat) (v : ServoFlags) : (s.setFlags i v).sched = s.sched := rfl
@[simp] theorem State.setFlags_arbs (i : Nat) (v : ServoFlags) : (s.setFlags i v).arbs = s.arbs := rfl
@[simp] theorem State.setFlags_fabPorts (i : Nat) (v : ServoFlags) : (s.setFlags i v).fabPorts = s.fabPorts := rfl
@[simp] theorem State.setFlags_fabric (i : Nat) (v : ServoFlags) : (s.setFlags i v).fabric = s.fabric := rfl
@[simp] theorem State.setFlags_eth (i : Nat) (v : ServoFlags) : (s.setFlags i v).eth = s.eth := rfl
@[simp] theorem State.setFlags_can (i : Nat) (v : ServoFlags) : (s.setFlags i v).can = s.can := rfl
@[simp] theorem State.setFlags_fio (i : Nat) (v : ServoFlags) : (s.setFlags i v).fio = s.fio := rfl
@[simp] theorem State.setFlags_safety (i : Nat) (v : ServoFlags) : (s.setFlags i v).safety = s.safety := rfl
@[simp] theorem State.setFlags_power (i : Nat) (v : ServoFlags) : (s.setFlags i v).power = s.power := rfl
theorem State.getFlags_setFlags_same (i : Nat) (v : ServoFlags) (h : mwf {} s.flags = true) : (s.setFlags i v).getFlags i = v := mget_mset_same i v h
theorem State.getFlags_setFlags_ne {i j : Nat} (v : ServoFlags) (h : j ≠ i) : (s.setFlags i v).getFlags j = s.getFlags j := mget_mset_ne s.flags v _ h
@[simp] theorem State.getTdc_setFlags (i j : Nat) (v : ServoFlags) : (s.setFlags i v).getTdc j = s.getTdc j := rfl
@[simp] theorem State.getPwm_setFlags (i j : Nat) (v : ServoFlags) : (s.setFlags i v).getPwm j = s.getPwm j := rfl
@[simp] theorem State.getQuad_setFlags (i j : Nat) (v : ServoFlags) : (s.setFlags i v).getQuad j = s.getQuad j := rfl
@[simp] theorem State.getSerial_setFlags (i j : Nat) (v : ServoFlags) : (s.setFlags i v).getSerial j = s.getSerial j := rfl
@[simp] theorem State.getFb_setFlags (i j : Nat) (v : ServoFlags) : (s.setFlags i v).getFb j = s.getFb j := rfl
@[simp] theorem State.getLoop_setFlags (i j : Nat) (v : ServoFlags) : (s.setFlags i v).getLoop j = s.getLoop j := rfl
@[simp] theorem State.getFoc_setFlags (i j : Nat) (v : ServoFlags) : (s.setFlags i v).getFoc j = s.getFoc j := rfl
@[simp] theorem State.getSection_setFlags (i j : Nat) (v : ServoFlags) : (s.setFlags i v).getSection j = s.getSection j := rfl
@[simp] theorem State.getRecord_setFlags (i j : Nat) (v : ServoFlags) : (s.setFlags i v).getRecord j = s.getRecord j := rfl
@[simp] theorem State.getDc_setFlags (i j : Nat) (v : ServoFlags) : (s.setFlags i v).getDc j = s.getDc j := rfl
@[simp] theorem State.getEngine_setFlags (i j : Nat) (v : ServoFlags) : (s.setFlags i v).getEngine j = s.getEngine j := rfl
@[simp] theorem State.getAux_setFlags (i j : Nat) (v : ServoFlags) : (s.setFlags i v).getAux j = s.getAux j := rfl
@[simp] theorem State.getTrail_setFlags (i j : Nat) (v : ServoFlags) : (s.setFlags i v).getTrail j = s.getTrail j := rfl
@[simp] theorem State.getFollower_setFlags (i j : Nat) (v : ServoFlags) : (s.setFlags i v).getFollower j = s.getFollower j := rfl
@[simp] theorem State.getPublisher_setFlags (i j : Nat) (v : ServoFlags) : (s.setFlags i v).getPublisher j = s.getPublisher j := rfl
@[simp] theorem State.getVirt_setFlags (i j : Nat) (v : ServoFlags) : (s.setFlags i v).getVirt j = s.getVirt j := rfl
@[simp] theorem State.getRemote_setFlags (i j : Nat) (v : ServoFlags) : (s.setFlags i v).getRemote j = s.getRemote j := rfl
@[simp] theorem State.getCam_setFlags (i j : Nat) (v : ServoFlags) : (s.setFlags i v).getCam j = s.getCam j := rfl
@[simp] theorem State.getStepper_setFlags (i j : Nat) (v : ServoFlags) : (s.setFlags i v).getStepper j = s.getStepper j := rfl
@[simp] theorem State.getCap_setFlags (i j : Nat) (v : ServoFlags) : (s.setFlags i v).getCap j = s.getCap j := rfl
@[simp] theorem State.getMbx_setFlags (i j : Nat) (v : ServoFlags) : (s.setFlags i v).getMbx j = s.getMbx j := rfl
@[simp] theorem State.getSession_setFlags (i j : Nat) (v : ServoFlags) : (s.setFlags i v).getSession j = s.getSession j := rfl
@[simp] theorem State.getArb_setFlags (i j : Nat) (v : ServoFlags) : (s.setFlags i v).getArb j = s.getArb j := rfl
@[simp] theorem State.getFabPort_setFlags (i j : Nat) (v : ServoFlags) : (s.setFlags i v).getFabPort j = s.getFabPort j := rfl
@[simp] theorem State.getEth_setFlags (i j : Nat) (v : ServoFlags) : (s.setFlags i v).getEth j = s.getEth j := rfl
@[simp] theorem State.getCan_setFlags (i j : Nat) (v : ServoFlags) : (s.setFlags i v).getCan j = s.getCan j := rfl

/-! ### foc -/

@[simp] theorem State.modFoc_def (i : Nat) (g : Foc → Foc) : s.modFoc i g = s.setFoc i (g (s.getFoc i)) := rfl
@[simp] theorem State.setFoc_foc (i : Nat) (v : Foc) : (s.setFoc i v).foc = mset s.foc i v {} := rfl
@[simp] theorem State.setFoc_pending (i : Nat) (v : Foc) : (s.setFoc i v).pending = s.pending := rfl
@[simp] theorem State.setFoc_tick (i : Nat) (v : Foc) : (s.setFoc i v).tick = s.tick := rfl
@[simp] theorem State.setFoc_freeCtr (i : Nat) (v : Foc) : (s.setFoc i v).freeCtr = s.freeCtr := rfl
@[simp] theorem State.setFoc_time (i : Nat) (v : Foc) : (s.setFoc i v).time = s.time := rfl
@[simp] theorem State.setFoc_tdc (i : Nat) (v : Foc) : (s.setFoc i v).tdc = s.tdc := rfl
@[simp] theorem State.setFoc_tdcCal (i : Nat) (v : Foc) : (s.setFoc i v).tdcCal = s.tdcCal := rfl
@[simp] theorem State.setFoc_cfg (i : Nat) (v : Foc) : (s.setFoc i v).cfg = s.cfg := rfl
@[simp] theorem State.setFoc_ctr (i : Nat) (v : Foc) : (s.setFoc i v).ctr = s.ctr := rfl
@[simp] theorem State.setFoc_pwm (i : Nat) (v : Foc) : (s.setFoc i v).pwm = s.pwm := rfl
@[simp] theorem State.setFoc_quad (i : Nat) (v : Foc) : (s.setFoc i v).quad = s.quad := rfl
@[simp] theorem State.setFoc_serial (i : Nat) (v : Foc) : (s.setFoc i v).serial = s.serial := rfl
@[simp] theorem State.setFoc_fb (i : Nat) (v : Foc) : (s.setFoc i v).fb = s.fb := rfl
@[simp] theorem State.setFoc_loop (i : Nat) (v : Foc) : (s.setFoc i v).loop = s.loop := rfl
@[simp] theorem State.setFoc_flags (i : Nat) (v : Foc) : (s.setFoc i v).flags = s.flags := rfl
@[simp] theorem State.setFoc_sections (i : Nat) (v : Foc) : (s.setFoc i v).sections = s.sections := rfl
@[simp] theorem State.setFoc_records (i : Nat) (v : Foc) : (s.setFoc i v).records = s.records := rfl
@[simp] theorem State.setFoc_dc (i : Nat) (v : Foc) : (s.setFoc i v).dc = s.dc := rfl
@[simp] theorem State.setFoc_engines (i : Nat) (v : Foc) : (s.setFoc i v).engines = s.engines := rfl
@[simp] theorem State.setFoc_bank (i : Nat) (v : Foc) : (s.setFoc i v).bank = s.bank := rfl
@[simp] theorem State.setFoc_waiters (i : Nat) (v : Foc) : (s.setFoc i v).waiters = s.waiters := rfl
@[simp] theorem State.setFoc_aux (i : Nat) (v : Foc) : (s.setFoc i v).aux = s.aux := rfl
@[simp] theorem State.setFoc_trails (i : Nat) (v : Foc) : (s.setFoc i v).trails = s.trails := rfl
@[simp] theorem State.setFoc_followers (i : Nat) (v : Foc) : (s.setFoc i v).followers = s.followers := rfl
@[simp] theorem State.setFoc_publishers (i : Nat) (v : Foc) : (s.setFoc i v).publishers = s.publishers := rfl
@[simp] theorem State.setFoc_virt (i : Nat) (v : Foc) : (s.setFoc i v).virt = s.virt := rfl
@[simp] theorem State.setFoc_remote (i : Nat) (v : Foc) : (s.setFoc i v).remote = s.remote := rfl
@[simp] theorem State.setFoc_cams (i : Nat) (v : Foc) : (s.setFoc i v).cams = s.cams := rfl
@[simp] theorem State.setFoc_steppers (i : Nat) (v : Foc) : (s.setFoc i v).steppers = s.steppers := rfl
@[simp] theorem State.setFoc_caps (i : Nat) (v : Foc) : (s.setFoc i v).caps = s.caps := rfl
@[simp] theorem State.setFoc_capMem (i : Nat) (v : Foc) : (s.setFoc i v).capMem = s.capMem := rfl
@[simp] theorem State.setFoc_mailboxes (i : Nat) (v : Foc) : (s.setFoc i v).mailboxes = s.mailboxes := rfl
@[simp] theorem State.setFoc_sessions (i : Nat) (v : Foc) : (s.setFoc i v).sessions = s.sessions := rfl
@[simp] theorem State.setFoc_host (i : Nat) (v : Foc) : (s.setFoc i v).host = s.host := rfl
@[simp] theorem State.setFoc_events (i : Nat) (v : Foc) : (s.setFoc i v).events = s.events := rfl
@[simp] theorem State.setFoc_locks (i : Nat) (v : Foc) : (s.setFoc i v).locks = s.locks := rfl
@[simp] theorem State.setFoc_sched (i : Nat) (v : Foc) : (s.setFoc i v).sched = s.sched := rfl
@[simp] theorem State.setFoc_arbs (i : Nat) (v : Foc) : (s.setFoc i v).arbs = s.arbs := rfl
@[simp] theorem State.setFoc_fabPorts (i : Nat) (v : Foc) : (s.setFoc i v).fabPorts = s.fabPorts := rfl
@[simp] theorem State.setFoc_fabric (i : Nat) (v : Foc) : (s.setFoc i v).fabric = s.fabric := rfl
@[simp] theorem State.setFoc_eth (i : Nat) (v : Foc) : (s.setFoc i v).eth = s.eth := rfl
@[simp] theorem State.setFoc_can (i : Nat) (v : Foc) : (s.setFoc i v).can = s.can := rfl
@[simp] theorem State.setFoc_fio (i : Nat) (v : Foc) : (s.setFoc i v).fio = s.fio := rfl
@[simp] theorem State.setFoc_safety (i : Nat) (v : Foc) : (s.setFoc i v).safety = s.safety := rfl
@[simp] theorem State.setFoc_power (i : Nat) (v : Foc) : (s.setFoc i v).power = s.power := rfl
theorem State.getFoc_setFoc_same (i : Nat) (v : Foc) (h : mwf {} s.foc = true) : (s.setFoc i v).getFoc i = v := mget_mset_same i v h
theorem State.getFoc_setFoc_ne {i j : Nat} (v : Foc) (h : j ≠ i) : (s.setFoc i v).getFoc j = s.getFoc j := mget_mset_ne s.foc v _ h
@[simp] theorem State.getTdc_setFoc (i j : Nat) (v : Foc) : (s.setFoc i v).getTdc j = s.getTdc j := rfl
@[simp] theorem State.getPwm_setFoc (i j : Nat) (v : Foc) : (s.setFoc i v).getPwm j = s.getPwm j := rfl
@[simp] theorem State.getQuad_setFoc (i j : Nat) (v : Foc) : (s.setFoc i v).getQuad j = s.getQuad j := rfl
@[simp] theorem State.getSerial_setFoc (i j : Nat) (v : Foc) : (s.setFoc i v).getSerial j = s.getSerial j := rfl
@[simp] theorem State.getFb_setFoc (i j : Nat) (v : Foc) : (s.setFoc i v).getFb j = s.getFb j := rfl
@[simp] theorem State.getLoop_setFoc (i j : Nat) (v : Foc) : (s.setFoc i v).getLoop j = s.getLoop j := rfl
@[simp] theorem State.getFlags_setFoc (i j : Nat) (v : Foc) : (s.setFoc i v).getFlags j = s.getFlags j := rfl
@[simp] theorem State.getSection_setFoc (i j : Nat) (v : Foc) : (s.setFoc i v).getSection j = s.getSection j := rfl
@[simp] theorem State.getRecord_setFoc (i j : Nat) (v : Foc) : (s.setFoc i v).getRecord j = s.getRecord j := rfl
@[simp] theorem State.getDc_setFoc (i j : Nat) (v : Foc) : (s.setFoc i v).getDc j = s.getDc j := rfl
@[simp] theorem State.getEngine_setFoc (i j : Nat) (v : Foc) : (s.setFoc i v).getEngine j = s.getEngine j := rfl
@[simp] theorem State.getAux_setFoc (i j : Nat) (v : Foc) : (s.setFoc i v).getAux j = s.getAux j := rfl
@[simp] theorem State.getTrail_setFoc (i j : Nat) (v : Foc) : (s.setFoc i v).getTrail j = s.getTrail j := rfl
@[simp] theorem State.getFollower_setFoc (i j : Nat) (v : Foc) : (s.setFoc i v).getFollower j = s.getFollower j := rfl
@[simp] theorem State.getPublisher_setFoc (i j : Nat) (v : Foc) : (s.setFoc i v).getPublisher j = s.getPublisher j := rfl
@[simp] theorem State.getVirt_setFoc (i j : Nat) (v : Foc) : (s.setFoc i v).getVirt j = s.getVirt j := rfl
@[simp] theorem State.getRemote_setFoc (i j : Nat) (v : Foc) : (s.setFoc i v).getRemote j = s.getRemote j := rfl
@[simp] theorem State.getCam_setFoc (i j : Nat) (v : Foc) : (s.setFoc i v).getCam j = s.getCam j := rfl
@[simp] theorem State.getStepper_setFoc (i j : Nat) (v : Foc) : (s.setFoc i v).getStepper j = s.getStepper j := rfl
@[simp] theorem State.getCap_setFoc (i j : Nat) (v : Foc) : (s.setFoc i v).getCap j = s.getCap j := rfl
@[simp] theorem State.getMbx_setFoc (i j : Nat) (v : Foc) : (s.setFoc i v).getMbx j = s.getMbx j := rfl
@[simp] theorem State.getSession_setFoc (i j : Nat) (v : Foc) : (s.setFoc i v).getSession j = s.getSession j := rfl
@[simp] theorem State.getArb_setFoc (i j : Nat) (v : Foc) : (s.setFoc i v).getArb j = s.getArb j := rfl
@[simp] theorem State.getFabPort_setFoc (i j : Nat) (v : Foc) : (s.setFoc i v).getFabPort j = s.getFabPort j := rfl
@[simp] theorem State.getEth_setFoc (i j : Nat) (v : Foc) : (s.setFoc i v).getEth j = s.getEth j := rfl
@[simp] theorem State.getCan_setFoc (i j : Nat) (v : Foc) : (s.setFoc i v).getCan j = s.getCan j := rfl

/-! ### sections -/

@[simp] theorem State.modSection_def (i : Nat) (g : Section → Section) : s.modSection i g = s.setSection i (g (s.getSection i)) := rfl
@[simp] theorem State.setSection_sections (i : Nat) (v : Section) : (s.setSection i v).sections = mset s.sections i v {} := rfl
@[simp] theorem State.setSection_pending (i : Nat) (v : Section) : (s.setSection i v).pending = s.pending := rfl
@[simp] theorem State.setSection_tick (i : Nat) (v : Section) : (s.setSection i v).tick = s.tick := rfl
@[simp] theorem State.setSection_freeCtr (i : Nat) (v : Section) : (s.setSection i v).freeCtr = s.freeCtr := rfl
@[simp] theorem State.setSection_time (i : Nat) (v : Section) : (s.setSection i v).time = s.time := rfl
@[simp] theorem State.setSection_tdc (i : Nat) (v : Section) : (s.setSection i v).tdc = s.tdc := rfl
@[simp] theorem State.setSection_tdcCal (i : Nat) (v : Section) : (s.setSection i v).tdcCal = s.tdcCal := rfl
@[simp] theorem State.setSection_cfg (i : Nat) (v : Section) : (s.setSection i v).cfg = s.cfg := rfl
@[simp] theorem State.setSection_ctr (i : Nat) (v : Section) : (s.setSection i v).ctr = s.ctr := rfl
@[simp] theorem State.setSection_pwm (i : Nat) (v : Section) : (s.setSection i v).pwm = s.pwm := rfl
@[simp] theorem State.setSection_quad (i : Nat) (v : Section) : (s.setSection i v).quad = s.quad := rfl
@[simp] theorem State.setSection_serial (i : Nat) (v : Section) : (s.setSection i v).serial = s.serial := rfl
@[simp] theorem State.setSection_fb (i : Nat) (v : Section) : (s.setSection i v).fb = s.fb := rfl
@[simp] theorem State.setSection_loop (i : Nat) (v : Section) : (s.setSection i v).loop = s.loop := rfl
@[simp] theorem State.setSection_flags (i : Nat) (v : Section) : (s.setSection i v).flags = s.flags := rfl
@[simp] theorem State.setSection_foc (i : Nat) (v : Section) : (s.setSection i v).foc = s.foc := rfl
@[simp] theorem State.setSection_records (i : Nat) (v : Section) : (s.setSection i v).records = s.records := rfl
@[simp] theorem State.setSection_dc (i : Nat) (v : Section) : (s.setSection i v).dc = s.dc := rfl
@[simp] theorem State.setSection_engines (i : Nat) (v : Section) : (s.setSection i v).engines = s.engines := rfl
@[simp] theorem State.setSection_bank (i : Nat) (v : Section) : (s.setSection i v).bank = s.bank := rfl
@[simp] theorem State.setSection_waiters (i : Nat) (v : Section) : (s.setSection i v).waiters = s.waiters := rfl
@[simp] theorem State.setSection_aux (i : Nat) (v : Section) : (s.setSection i v).aux = s.aux := rfl
@[simp] theorem State.setSection_trails (i : Nat) (v : Section) : (s.setSection i v).trails = s.trails := rfl
@[simp] theorem State.setSection_followers (i : Nat) (v : Section) : (s.setSection i v).followers = s.followers := rfl
@[simp] theorem State.setSection_publishers (i : Nat) (v : Section) : (s.setSection i v).publishers = s.publishers := rfl
@[simp] theorem State.setSection_virt (i : Nat) (v : Section) : (s.setSection i v).virt = s.virt := rfl
@[simp] theorem State.setSection_remote (i : Nat) (v : Section) : (s.setSection i v).remote = s.remote := rfl
@[simp] theorem State.setSection_cams (i : Nat) (v : Section) : (s.setSection i v).cams = s.cams := rfl
@[simp] theorem State.setSection_steppers (i : Nat) (v : Section) : (s.setSection i v).steppers = s.steppers := rfl
@[simp] theorem State.setSection_caps (i : Nat) (v : Section) : (s.setSection i v).caps = s.caps := rfl
@[simp] theorem State.setSection_capMem (i : Nat) (v : Section) : (s.setSection i v).capMem = s.capMem := rfl
@[simp] theorem State.setSection_mailboxes (i : Nat) (v : Section) : (s.setSection i v).mailboxes = s.mailboxes := rfl
@[simp] theorem State.setSection_sessions (i : Nat) (v : Section) : (s.setSection i v).sessions = s.sessions := rfl
@[simp] theorem State.setSection_host (i : Nat) (v : Section) : (s.setSection i v).host = s.host := rfl
@[simp] theorem State.setSection_events (i : Nat) (v : Section) : (s.setSection i v).events = s.events := rfl
@[simp] theorem State.setSection_locks (i : Nat) (v : Section) : (s.setSection i v).locks = s.locks := rfl
@[simp] theorem State.setSection_sched (i : Nat) (v : Section) : (s.setSection i v).sched = s.sched := rfl
@[simp] theorem State.setSection_arbs (i : Nat) (v : Section) : (s.setSection i v).arbs = s.arbs := rfl
@[simp] theorem State.setSection_fabPorts (i : Nat) (v : Section) : (s.setSection i v).fabPorts = s.fabPorts := rfl
@[simp] theorem State.setSection_fabric (i : Nat) (v : Section) : (s.setSection i v).fabric = s.fabric := rfl
@[simp] theorem State.setSection_eth (i : Nat) (v : Section) : (s.setSection i v).eth = s.eth := rfl
@[simp] theorem State.setSection_can (i : Nat) (v : Section) : (s.setSection i v).can = s.can := rfl
@[simp] theorem State.setSection_fio (i : Nat) (v : Section) : (s.setSection i v).fio = s.fio := rfl
@[simp] theorem State.setSection_safety (i : Nat) (v : Section) : (s.setSection i v).safety = s.safety := rfl
@[simp] theorem State.setSection_power (i : Nat) (v : Section) : (s.setSection i v).power = s.power := rfl
theorem State.getSection_setSection_same (i : Nat) (v : Section) (h : mwf {} s.sections = true) : (s.setSection i v).getSection i = v := mget_mset_same i v h
theorem State.getSection_setSection_ne {i j : Nat} (v : Section) (h : j ≠ i) : (s.setSection i v).getSection j = s.getSection j := mget_mset_ne s.sections v _ h
@[simp] theorem State.getTdc_setSection (i j : Nat) (v : Section) : (s.setSection i v).getTdc j = s.getTdc j := rfl
@[simp] theorem State.getPwm_setSection (i j : Nat) (v : Section) : (s.setSection i v).getPwm j = s.getPwm j := rfl
@[simp] theorem State.getQuad_setSection (i j : Nat) (v : Section) : (s.setSection i v).getQuad j = s.getQuad j := rfl
@[simp] theorem State.getSerial_setSection (i j : Nat) (v : Section) : (s.setSection i v).getSerial j = s.getSerial j := rfl
@[simp] theorem State.getFb_setSection (i j : Nat) (v : Section) : (s.setSection i v).getFb j = s.getFb j := rfl
@[simp] theorem State.getLoop_setSection (i j : Nat) (v : Section) : (s.setSection i v).getLoop j = s.getLoop j := rfl
@[simp] theorem State.getFlags_setSection (i j : Nat) (v : Section) : (s.setSection i v).getFlags j = s.getFlags j := rfl
@[simp] theorem State.getFoc_setSection (i j : Nat) (v : Section) : (s.setSection i v).getFoc j = s.getFoc j := rfl
@[simp] theorem State.getRecord_setSection (i j : Nat) (v : Section) : (s.setSection i v).getRecord j = s.getRecord j := rfl
@[simp] theorem State.getDc_setSection (i j : Nat) (v : Section) : (s.setSection i v).getDc j = s.getDc j := rfl
@[simp] theorem State.getEngine_setSection (i j : Nat) (v : Section) : (s.setSection i v).getEngine j = s.getEngine j := rfl
@[simp] theorem State.getAux_setSection (i j : Nat) (v : Section) : (s.setSection i v).getAux j = s.getAux j := rfl
@[simp] theorem State.getTrail_setSection (i j : Nat) (v : Section) : (s.setSection i v).getTrail j = s.getTrail j := rfl
@[simp] theorem State.getFollower_setSection (i j : Nat) (v : Section) : (s.setSection i v).getFollower j = s.getFollower j := rfl
@[simp] theorem State.getPublisher_setSection (i j : Nat) (v : Section) : (s.setSection i v).getPublisher j = s.getPublisher j := rfl
@[simp] theorem State.getVirt_setSection (i j : Nat) (v : Section) : (s.setSection i v).getVirt j = s.getVirt j := rfl
@[simp] theorem State.getRemote_setSection (i j : Nat) (v : Section) : (s.setSection i v).getRemote j = s.getRemote j := rfl
@[simp] theorem State.getCam_setSection (i j : Nat) (v : Section) : (s.setSection i v).getCam j = s.getCam j := rfl
@[simp] theorem State.getStepper_setSection (i j : Nat) (v : Section) : (s.setSection i v).getStepper j = s.getStepper j := rfl
@[simp] theorem State.getCap_setSection (i j : Nat) (v : Section) : (s.setSection i v).getCap j = s.getCap j := rfl
@[simp] theorem State.getMbx_setSection (i j : Nat) (v : Section) : (s.setSection i v).getMbx j = s.getMbx j := rfl
@[simp] theorem State.getSession_setSection (i j : Nat) (v : Section) : (s.setSection i v).getSession j = s.getSession j := rfl
@[simp] theorem State.getArb_setSection (i j : Nat) (v : Section) : (s.setSection i v).getArb j = s.getArb j := rfl
@[simp] theorem State.getFabPort_setSection (i j : Nat) (v : Section) : (s.setSection i v).getFabPort j = s.getFabPort j := rfl
@[simp] theorem State.getEth_setSection (i j : Nat) (v : Section) : (s.setSection i v).getEth j = s.getEth j := rfl
@[simp] theorem State.getCan_setSection (i j : Nat) (v : Section) : (s.setSection i v).getCan j = s.getCan j := rfl

/-! ### records -/

@[simp] theorem State.modRecord_def (i : Nat) (g : (List AxisRecord) → (List AxisRecord)) : s.modRecord i g = s.setRecord i (g (s.getRecord i)) := rfl
@[simp] theorem State.setRecord_records (i : Nat) (v : (List AxisRecord)) : (s.setRecord i v).records = mset s.records i v [] := rfl
@[simp] theorem State.setRecord_pending (i : Nat) (v : (List AxisRecord)) : (s.setRecord i v).pending = s.pending := rfl
@[simp] theorem State.setRecord_tick (i : Nat) (v : (List AxisRecord)) : (s.setRecord i v).tick = s.tick := rfl
@[simp] theorem State.setRecord_freeCtr (i : Nat) (v : (List AxisRecord)) : (s.setRecord i v).freeCtr = s.freeCtr := rfl
@[simp] theorem State.setRecord_time (i : Nat) (v : (List AxisRecord)) : (s.setRecord i v).time = s.time := rfl
@[simp] theorem State.setRecord_tdc (i : Nat) (v : (List AxisRecord)) : (s.setRecord i v).tdc = s.tdc := rfl
@[simp] theorem State.setRecord_tdcCal (i : Nat) (v : (List AxisRecord)) : (s.setRecord i v).tdcCal = s.tdcCal := rfl
@[simp] theorem State.setRecord_cfg (i : Nat) (v : (List AxisRecord)) : (s.setRecord i v).cfg = s.cfg := rfl
@[simp] theorem State.setRecord_ctr (i : Nat) (v : (List AxisRecord)) : (s.setRecord i v).ctr = s.ctr := rfl
@[simp] theorem State.setRecord_pwm (i : Nat) (v : (List AxisRecord)) : (s.setRecord i v).pwm = s.pwm := rfl
@[simp] theorem State.setRecord_quad (i : Nat) (v : (List AxisRecord)) : (s.setRecord i v).quad = s.quad := rfl
@[simp] theorem State.setRecord_serial (i : Nat) (v : (List AxisRecord)) : (s.setRecord i v).serial = s.serial := rfl
@[simp] theorem State.setRecord_fb (i : Nat) (v : (List AxisRecord)) : (s.setRecord i v).fb = s.fb := rfl
@[simp] theorem State.setRecord_loop (i : Nat) (v : (List AxisRecord)) : (s.setRecord i v).loop = s.loop := rfl
@[simp] theorem State.setRecord_flags (i : Nat) (v : (List AxisRecord)) : (s.setRecord i v).flags = s.flags := rfl
@[simp] theorem State.setRecord_foc (i : Nat) (v : (List AxisRecord)) : (s.setRecord i v).foc = s.foc := rfl
@[simp] theorem State.setRecord_sections (i : Nat) (v : (List AxisRecord)) : (s.setRecord i v).sections = s.sections := rfl
@[simp] theorem State.setRecord_dc (i : Nat) (v : (List AxisRecord)) : (s.setRecord i v).dc = s.dc := rfl
@[simp] theorem State.setRecord_engines (i : Nat) (v : (List AxisRecord)) : (s.setRecord i v).engines = s.engines := rfl
@[simp] theorem State.setRecord_bank (i : Nat) (v : (List AxisRecord)) : (s.setRecord i v).bank = s.bank := rfl
@[simp] theorem State.setRecord_waiters (i : Nat) (v : (List AxisRecord)) : (s.setRecord i v).waiters = s.waiters := rfl
@[simp] theorem State.setRecord_aux (i : Nat) (v : (List AxisRecord)) : (s.setRecord i v).aux = s.aux := rfl
@[simp] theorem State.setRecord_trails (i : Nat) (v : (List AxisRecord)) : (s.setRecord i v).trails = s.trails := rfl
@[simp] theorem State.setRecord_followers (i : Nat) (v : (List AxisRecord)) : (s.setRecord i v).followers = s.followers := rfl
@[simp] theorem State.setRecord_publishers (i : Nat) (v : (List AxisRecord)) : (s.setRecord i v).publishers = s.publishers := rfl
@[simp] theorem State.setRecord_virt (i : Nat) (v : (List AxisRecord)) : (s.setRecord i v).virt = s.virt := rfl
@[simp] theorem State.setRecord_remote (i : Nat) (v : (List AxisRecord)) : (s.setRecord i v).remote = s.remote := rfl
@[simp] theorem State.setRecord_cams (i : Nat) (v : (List AxisRecord)) : (s.setRecord i v).cams = s.cams := rfl
@[simp] theorem State.setRecord_steppers (i : Nat) (v : (List AxisRecord)) : (s.setRecord i v).steppers = s.steppers := rfl
@[simp] theorem State.setRecord_caps (i : Nat) (v : (List AxisRecord)) : (s.setRecord i v).caps = s.caps := rfl
@[simp] theorem State.setRecord_capMem (i : Nat) (v : (List AxisRecord)) : (s.setRecord i v).capMem = s.capMem := rfl
@[simp] theorem State.setRecord_mailboxes (i : Nat) (v : (List AxisRecord)) : (s.setRecord i v).mailboxes = s.mailboxes := rfl
@[simp] theorem State.setRecord_sessions (i : Nat) (v : (List AxisRecord)) : (s.setRecord i v).sessions = s.sessions := rfl
@[simp] theorem State.setRecord_host (i : Nat) (v : (List AxisRecord)) : (s.setRecord i v).host = s.host := rfl
@[simp] theorem State.setRecord_events (i : Nat) (v : (List AxisRecord)) : (s.setRecord i v).events = s.events := rfl
@[simp] theorem State.setRecord_locks (i : Nat) (v : (List AxisRecord)) : (s.setRecord i v).locks = s.locks := rfl
@[simp] theorem State.setRecord_sched (i : Nat) (v : (List AxisRecord)) : (s.setRecord i v).sched = s.sched := rfl
@[simp] theorem State.setRecord_arbs (i : Nat) (v : (List AxisRecord)) : (s.setRecord i v).arbs = s.arbs := rfl
@[simp] theorem State.setRecord_fabPorts (i : Nat) (v : (List AxisRecord)) : (s.setRecord i v).fabPorts = s.fabPorts := rfl
@[simp] theorem State.setRecord_fabric (i : Nat) (v : (List AxisRecord)) : (s.setRecord i v).fabric = s.fabric := rfl
@[simp] theorem State.setRecord_eth (i : Nat) (v : (List AxisRecord)) : (s.setRecord i v).eth = s.eth := rfl
@[simp] theorem State.setRecord_can (i : Nat) (v : (List AxisRecord)) : (s.setRecord i v).can = s.can := rfl
@[simp] theorem State.setRecord_fio (i : Nat) (v : (List AxisRecord)) : (s.setRecord i v).fio = s.fio := rfl
@[simp] theorem State.setRecord_safety (i : Nat) (v : (List AxisRecord)) : (s.setRecord i v).safety = s.safety := rfl
@[simp] theorem State.setRecord_power (i : Nat) (v : (List AxisRecord)) : (s.setRecord i v).power = s.power := rfl
theorem State.getRecord_setRecord_same (i : Nat) (v : (List AxisRecord)) (h : mwf [] s.records = true) : (s.setRecord i v).getRecord i = v := mget_mset_same i v h
theorem State.getRecord_setRecord_ne {i j : Nat} (v : (List AxisRecord)) (h : j ≠ i) : (s.setRecord i v).getRecord j = s.getRecord j := mget_mset_ne s.records v _ h
@[simp] theorem State.getTdc_setRecord (i j : Nat) (v : (List AxisRecord)) : (s.setRecord i v).getTdc j = s.getTdc j := rfl
@[simp] theorem State.getPwm_setRecord (i j : Nat) (v : (List AxisRecord)) : (s.setRecord i v).getPwm j = s.getPwm j := rfl
@[simp] theorem State.getQuad_setRecord (i j : Nat) (v : (List AxisRecord)) : (s.setRecord i v).getQuad j = s.getQuad j := rfl
@[simp] theorem State.getSerial_setRecord (i j : Nat) (v : (List AxisRecord)) : (s.setRecord i v).getSerial j = s.getSerial j := rfl
@[simp] theorem State.getFb_setRecord (i j : Nat) (v : (List AxisRecord)) : (s.setRecord i v).getFb j = s.getFb j := rfl
@[simp] theorem State.getLoop_setRecord (i j : Nat) (v : (List AxisRecord)) : (s.setRecord i v).getLoop j = s.getLoop j := rfl
@[simp] theorem State.getFlags_setRecord (i j : Nat) (v : (List AxisRecord)) : (s.setRecord i v).getFlags j = s.getFlags j := rfl
@[simp] theorem State.getFoc_setRecord (i j : Nat) (v : (List AxisRecord)) : (s.setRecord i v).getFoc j = s.getFoc j := rfl
@[simp] theorem State.getSection_setRecord (i j : Nat) (v : (List AxisRecord)) : (s.setRecord i v).getSection j = s.getSection j := rfl
@[simp] theorem State.getDc_setRecord (i j : Nat) (v : (List AxisRecord)) : (s.setRecord i v).getDc j = s.getDc j := rfl
@[simp] theorem State.getEngine_setRecord (i j : Nat) (v : (List AxisRecord)) : (s.setRecord i v).getEngine j = s.getEngine j := rfl
@[simp] theorem State.getAux_setRecord (i j : Nat) (v : (List AxisRecord)) : (s.setRecord i v).getAux j = s.getAux j := rfl
@[simp] theorem State.getTrail_setRecord (i j : Nat) (v : (List AxisRecord)) : (s.setRecord i v).getTrail j = s.getTrail j := rfl
@[simp] theorem State.getFollower_setRecord (i j : Nat) (v : (List AxisRecord)) : (s.setRecord i v).getFollower j = s.getFollower j := rfl
@[simp] theorem State.getPublisher_setRecord (i j : Nat) (v : (List AxisRecord)) : (s.setRecord i v).getPublisher j = s.getPublisher j := rfl
@[simp] theorem State.getVirt_setRecord (i j : Nat) (v : (List AxisRecord)) : (s.setRecord i v).getVirt j = s.getVirt j := rfl
@[simp] theorem State.getRemote_setRecord (i j : Nat) (v : (List AxisRecord)) : (s.setRecord i v).getRemote j = s.getRemote j := rfl
@[simp] theorem State.getCam_setRecord (i j : Nat) (v : (List AxisRecord)) : (s.setRecord i v).getCam j = s.getCam j := rfl
@[simp] theorem State.getStepper_setRecord (i j : Nat) (v : (List AxisRecord)) : (s.setRecord i v).getStepper j = s.getStepper j := rfl
@[simp] theorem State.getCap_setRecord (i j : Nat) (v : (List AxisRecord)) : (s.setRecord i v).getCap j = s.getCap j := rfl
@[simp] theorem State.getMbx_setRecord (i j : Nat) (v : (List AxisRecord)) : (s.setRecord i v).getMbx j = s.getMbx j := rfl
@[simp] theorem State.getSession_setRecord (i j : Nat) (v : (List AxisRecord)) : (s.setRecord i v).getSession j = s.getSession j := rfl
@[simp] theorem State.getArb_setRecord (i j : Nat) (v : (List AxisRecord)) : (s.setRecord i v).getArb j = s.getArb j := rfl
@[simp] theorem State.getFabPort_setRecord (i j : Nat) (v : (List AxisRecord)) : (s.setRecord i v).getFabPort j = s.getFabPort j := rfl
@[simp] theorem State.getEth_setRecord (i j : Nat) (v : (List AxisRecord)) : (s.setRecord i v).getEth j = s.getEth j := rfl
@[simp] theorem State.getCan_setRecord (i j : Nat) (v : (List AxisRecord)) : (s.setRecord i v).getCan j = s.getCan j := rfl

/-! ### dc -/

@[simp] theorem State.modDc_def (i : Nat) (g : Nat → Nat) : s.modDc i g = s.setDc i (g (s.getDc i)) := rfl
@[simp] theorem State.setDc_dc (i : Nat) (v : Nat) : (s.setDc i v).dc = mset s.dc i v 0 := rfl
@[simp] theorem State.setDc_pending (i : Nat) (v : Nat) : (s.setDc i v).pending = s.pending := rfl
@[simp] theorem State.setDc_tick (i : Nat) (v : Nat) : (s.setDc i v).tick = s.tick := rfl
@[simp] theorem State.setDc_freeCtr (i : Nat) (v : Nat) : (s.setDc i v).freeCtr = s.freeCtr := rfl
@[simp] theorem State.setDc_time (i : Nat) (v : Nat) : (s.setDc i v).time = s.time := rfl
@[simp] theorem State.setDc_tdc (i : Nat) (v : Nat) : (s.setDc i v).tdc = s.tdc := rfl
@[simp] theorem State.setDc_tdcCal (i : Nat) (v : Nat) : (s.setDc i v).tdcCal = s.tdcCal := rfl
@[simp] theorem State.setDc_cfg (i : Nat) (v : Nat) : (s.setDc i v).cfg = s.cfg := rfl
@[simp] theorem State.setDc_ctr (i : Nat) (v : Nat) : (s.setDc i v).ctr = s.ctr := rfl
@[simp] theorem State.setDc_pwm (i : Nat) (v : Nat) : (s.setDc i v).pwm = s.pwm := rfl
@[simp] theorem State.setDc_quad (i : Nat) (v : Nat) : (s.setDc i v).quad = s.quad := rfl
@[simp] theorem State.setDc_serial (i : Nat) (v : Nat) : (s.setDc i v).serial = s.serial := rfl
@[simp] theorem State.setDc_fb (i : Nat) (v : Nat) : (s.setDc i v).fb = s.fb := rfl
@[simp] theorem State.setDc_loop (i : Nat) (v : Nat) : (s.setDc i v).loop = s.loop := rfl
@[simp] theorem State.setDc_flags (i : Nat) (v : Nat) : (s.setDc i v).flags = s.flags := rfl
@[simp] theorem State.setDc_foc (i : Nat) (v : Nat) : (s.setDc i v).foc = s.foc := rfl
@[simp] theorem State.setDc_sections (i : Nat) (v : Nat) : (s.setDc i v).sections = s.sections := rfl
@[simp] theorem State.setDc_records (i : Nat) (v : Nat) : (s.setDc i v).records = s.records := rfl
@[simp] theorem State.setDc_engines (i : Nat) (v : Nat) : (s.setDc i v).engines = s.engines := rfl
@[simp] theorem State.setDc_bank (i : Nat) (v : Nat) : (s.setDc i v).bank = s.bank := rfl
@[simp] theorem State.setDc_waiters (i : Nat) (v : Nat) : (s.setDc i v).waiters = s.waiters := rfl
@[simp] theorem State.setDc_aux (i : Nat) (v : Nat) : (s.setDc i v).aux = s.aux := rfl
@[simp] theorem State.setDc_trails (i : Nat) (v : Nat) : (s.setDc i v).trails = s.trails := rfl
@[simp] theorem State.setDc_followers (i : Nat) (v : Nat) : (s.setDc i v).followers = s.followers := rfl
@[simp] theorem State.setDc_publishers (i : Nat) (v : Nat) : (s.setDc i v).publishers = s.publishers := rfl
@[simp] theorem State.setDc_virt (i : Nat) (v : Nat) : (s.setDc i v).virt = s.virt := rfl
@[simp] theorem State.setDc_remote (i : Nat) (v : Nat) : (s.setDc i v).remote = s.remote := rfl
@[simp] theorem State.setDc_cams (i : Nat) (v : Nat) : (s.setDc i v).cams = s.cams := rfl
@[simp] theorem State.setDc_steppers (i : Nat) (v : Nat) : (s.setDc i v).steppers = s.steppers := rfl
@[simp] theorem State.setDc_caps (i : Nat) (v : Nat) : (s.setDc i v).caps = s.caps := rfl
@[simp] theorem State.setDc_capMem (i : Nat) (v : Nat) : (s.setDc i v).capMem = s.capMem := rfl
@[simp] theorem State.setDc_mailboxes (i : Nat) (v : Nat) : (s.setDc i v).mailboxes = s.mailboxes := rfl
@[simp] theorem State.setDc_sessions (i : Nat) (v : Nat) : (s.setDc i v).sessions = s.sessions := rfl
@[simp] theorem State.setDc_host (i : Nat) (v : Nat) : (s.setDc i v).host = s.host := rfl
@[simp] theorem State.setDc_events (i : Nat) (v : Nat) : (s.setDc i v).events = s.events := rfl
@[simp] theorem State.setDc_locks (i : Nat) (v : Nat) : (s.setDc i v).locks = s.locks := rfl
@[simp] theorem State.setDc_sched (i : Nat) (v : Nat) : (s.setDc i v).sched = s.sched := rfl
@[simp] theorem State.setDc_arbs (i : Nat) (v : Nat) : (s.setDc i v).arbs = s.arbs := rfl
@[simp] theorem State.setDc_fabPorts (i : Nat) (v : Nat) : (s.setDc i v).fabPorts = s.fabPorts := rfl
@[simp] theorem State.setDc_fabric (i : Nat) (v : Nat) : (s.setDc i v).fabric = s.fabric := rfl
@[simp] theorem State.setDc_eth (i : Nat) (v : Nat) : (s.setDc i v).eth = s.eth := rfl
@[simp] theorem State.setDc_can (i : Nat) (v : Nat) : (s.setDc i v).can = s.can := rfl
@[simp] theorem State.setDc_fio (i : Nat) (v : Nat) : (s.setDc i v).fio = s.fio := rfl
@[simp] theorem State.setDc_safety (i : Nat) (v : Nat) : (s.setDc i v).safety = s.safety := rfl
@[simp] theorem State.setDc_power (i : Nat) (v : Nat) : (s.setDc i v).power = s.power := rfl
theorem State.getDc_setDc_same (i : Nat) (v : Nat) (h : mwf 0 s.dc = true) : (s.setDc i v).getDc i = v := mget_mset_same i v h
theorem State.getDc_setDc_ne {i j : Nat} (v : Nat) (h : j ≠ i) : (s.setDc i v).getDc j = s.getDc j := mget_mset_ne s.dc v _ h
@[simp] theorem State.getTdc_setDc (i j : Nat) (v : Nat) : (s.setDc i v).getTdc j = s.getTdc j := rfl
@[simp] theorem State.getPwm_setDc (i j : Nat) (v : Nat) : (s.setDc i v).getPwm j = s.getPwm j := rfl
@[simp] theorem State.getQuad_setDc (i j : Nat) (v : Nat) : (s.setDc i v).getQuad j = s.getQuad j := rfl
@[simp] theorem State.getSerial_setDc (i j : Nat) (v : Nat) : (s.setDc i v).getSerial j = s.getSerial j := rfl
@[simp] theorem State.getFb_setDc (i j : Nat) (v : Nat) : (s.setDc i v).getFb j = s.getFb j := rfl
@[simp] theorem State.getLoop_setDc (i j : Nat) (v : Nat) : (s.setDc i v).getLoop j = s.getLoop j := rfl
@[simp] theorem State.getFlags_setDc (i j : Nat) (v : Nat) : (s.setDc i v).getFlags j = s.getFlags j := rfl
@[simp] theorem State.getFoc_setDc (i j : Nat) (v : Nat) : (s.setDc i v).getFoc j = s.getFoc j := rfl
@[simp] theorem State.getSection_setDc (i j : Nat) (v : Nat) : (s.setDc i v).getSection j = s.getSection j := rfl
@[simp] theorem State.getRecord_setDc (i j : Nat) (v : Nat) : (s.setDc i v).getRecord j = s.getRecord j := rfl
@[simp] theorem State.getEngine_setDc (i j : Nat) (v : Nat) : (s.setDc i v).getEngine j = s.getEngine j := rfl
@[simp] theorem State.getAux_setDc (i j : Nat) (v : Nat) : (s.setDc i v).getAux j = s.getAux j := rfl
@[simp] theorem State.getTrail_setDc (i j : Nat) (v : Nat) : (s.setDc i v).getTrail j = s.getTrail j := rfl
@[simp] theorem State.getFollower_setDc (i j : Nat) (v : Nat) : (s.setDc i v).getFollower j = s.getFollower j := rfl
@[simp] theorem State.getPublisher_setDc (i j : Nat) (v : Nat) : (s.setDc i v).getPublisher j = s.getPublisher j := rfl
@[simp] theorem State.getVirt_setDc (i j : Nat) (v : Nat) : (s.setDc i v).getVirt j = s.getVirt j := rfl
@[simp] theorem State.getRemote_setDc (i j : Nat) (v : Nat) : (s.setDc i v).getRemote j = s.getRemote j := rfl
@[simp] theorem State.getCam_setDc (i j : Nat) (v : Nat) : (s.setDc i v).getCam j = s.getCam j := rfl
@[simp] theorem State.getStepper_setDc (i j : Nat) (v : Nat) : (s.setDc i v).getStepper j = s.getStepper j := rfl
@[simp] theorem State.getCap_setDc (i j : Nat) (v : Nat) : (s.setDc i v).getCap j = s.getCap j := rfl
@[simp] theorem State.getMbx_setDc (i j : Nat) (v : Nat) : (s.setDc i v).getMbx j = s.getMbx j := rfl
@[simp] theorem State.getSession_setDc (i j : Nat) (v : Nat) : (s.setDc i v).getSession j = s.getSession j := rfl
@[simp] theorem State.getArb_setDc (i j : Nat) (v : Nat) : (s.setDc i v).getArb j = s.getArb j := rfl
@[simp] theorem State.getFabPort_setDc (i j : Nat) (v : Nat) : (s.setDc i v).getFabPort j = s.getFabPort j := rfl
@[simp] theorem State.getEth_setDc (i j : Nat) (v : Nat) : (s.setDc i v).getEth j = s.getEth j := rfl
@[simp] theorem State.getCan_setDc (i j : Nat) (v : Nat) : (s.setDc i v).getCan j = s.getCan j := rfl

/-! ### engines -/

@[simp] theorem State.modEngine_def (i : Nat) (g : Engine → Engine) : s.modEngine i g = s.setEngine i (g (s.getEngine i)) := rfl
@[simp] theorem State.setEngine_engines (i : Nat) (v : Engine) : (s.setEngine i v).engines = mset s.engines i v {} := rfl
@[simp] theorem State.setEngine_pending (i : Nat) (v : Engine) : (s.setEngine i v).pending = s.pending := rfl
@[simp] theorem State.setEngine_tick (i : Nat) (v : Engine) : (s.setEngine i v).tick = s.tick := rfl
@[simp] theorem State.setEngine_freeCtr (i : Nat) (v : Engine) : (s.setEngine i v).freeCtr = s.freeCtr := rfl
@[simp] theorem State.setEngine_time (i : Nat) (v : Engine) : (s.setEngine i v).time = s.time := rfl
@[simp] theorem State.setEngine_tdc (i : Nat) (v : Engine) : (s.setEngine i v).tdc = s.tdc := rfl
@[simp] theorem State.setEngine_tdcCal (i : Nat) (v : Engine) : (s.setEngine i v).tdcCal = s.tdcCal := rfl
@[simp] theorem State.setEngine_cfg (i : Nat) (v : Engine) : (s.setEngine i v).cfg = s.cfg := rfl
@[simp] theorem State.setEngine_ctr (i : Nat) (v : Engine) : (s.setEngine i v).ctr = s.ctr := rfl
@[simp] theorem State.setEngine_pwm (i : Nat) (v : Engine) : (s.setEngine i v).pwm = s.pwm := rfl
@[simp] theorem State.setEngine_quad (i : Nat) (v : Engine) : (s.setEngine i v).quad = s.quad := rfl
@[simp] theorem State.setEngine_serial (i : Nat) (v : Engine) : (s.setEngine i v).serial = s.serial := rfl
@[simp] theorem State.setEngine_fb (i : Nat) (v : Engine) : (s.setEngine i v).fb = s.fb := rfl
@[simp] theorem State.setEngine_loop (i : Nat) (v : Engine) : (s.setEngine i v).loop = s.loop := rfl
@[simp] theorem State.setEngine_flags (i : Nat) (v : Engine) : (s.setEngine i v).flags = s.flags := rfl
@[simp] theorem State.setEngine_foc (i : Nat) (v : Engine) : (s.setEngine i v).foc = s.foc := rfl
@[simp] theorem State.setEngine_sections (i : Nat) (v : Engine) : (s.setEngine i v).sections = s.sections := rfl
@[simp] theorem State.setEngine_records (i : Nat) (v : Engine) : (s.setEngine i v).records = s.records := rfl
@[simp] theorem State.setEngine_dc (i : Nat) (v : Engine) : (s.setEngine i v).dc = s.dc := rfl
@[simp] theorem State.setEngine_bank (i : Nat) (v : Engine) : (s.setEngine i v).bank = s.bank := rfl
@[simp] theorem State.setEngine_waiters (i : Nat) (v : Engine) : (s.setEngine i v).waiters = s.waiters := rfl
@[simp] theorem State.setEngine_aux (i : Nat) (v : Engine) : (s.setEngine i v).aux = s.aux := rfl
@[simp] theorem State.setEngine_trails (i : Nat) (v : Engine) : (s.setEngine i v).trails = s.trails := rfl
@[simp] theorem State.setEngine_followers (i : Nat) (v : Engine) : (s.setEngine i v).followers = s.followers := rfl
@[simp] theorem State.setEngine_publishers (i : Nat) (v : Engine) : (s.setEngine i v).publishers = s.publishers := rfl
@[simp] theorem State.setEngine_virt (i : Nat) (v : Engine) : (s.setEngine i v).virt = s.virt := rfl
@[simp] theorem State.setEngine_remote (i : Nat) (v : Engine) : (s.setEngine i v).remote = s.remote := rfl
@[simp] theorem State.setEngine_cams (i : Nat) (v : Engine) : (s.setEngine i v).cams = s.cams := rfl
@[simp] theorem State.setEngine_steppers (i : Nat) (v : Engine) : (s.setEngine i v).steppers = s.steppers := rfl
@[simp] theorem State.setEngine_caps (i : Nat) (v : Engine) : (s.setEngine i v).caps = s.caps := rfl
@[simp] theorem State.setEngine_capMem (i : Nat) (v : Engine) : (s.setEngine i v).capMem = s.capMem := rfl
@[simp] theorem State.setEngine_mailboxes (i : Nat) (v : Engine) : (s.setEngine i v).mailboxes = s.mailboxes := rfl
@[simp] theorem State.setEngine_sessions (i : Nat) (v : Engine) : (s.setEngine i v).sessions = s.sessions := rfl
@[simp] theorem State.setEngine_host (i : Nat) (v : Engine) : (s.setEngine i v).host = s.host := rfl
@[simp] theorem State.setEngine_events (i : Nat) (v : Engine) : (s.setEngine i v).events = s.events := rfl
@[simp] theorem State.setEngine_locks (i : Nat) (v : Engine) : (s.setEngine i v).locks = s.locks := rfl
@[simp] theorem State.setEngine_sched (i : Nat) (v : Engine) : (s.setEngine i v).sched = s.sched := rfl
@[simp] theorem State.setEngine_arbs (i : Nat) (v : Engine) : (s.setEngine i v).arbs = s.arbs := rfl
@[simp] theorem State.setEngine_fabPorts (i : Nat) (v : Engine) : (s.setEngine i v).fabPorts = s.fabPorts := rfl
@[simp] theorem State.setEngine_fabric (i : Nat) (v : Engine) : (s.setEngine i v).fabric = s.fabric := rfl
@[simp] theorem State.setEngine_eth (i : Nat) (v : Engine) : (s.setEngine i v).eth = s.eth := rfl
@[simp] theorem State.setEngine_can (i : Nat) (v : Engine) : (s.setEngine i v).can = s.can := rfl
@[simp] theorem State.setEngine_fio (i : Nat) (v : Engine) : (s.setEngine i v).fio = s.fio := rfl
@[simp] theorem State.setEngine_safety (i : Nat) (v : Engine) : (s.setEngine i v).safety = s.safety := rfl
@[simp] theorem State.setEngine_power (i : Nat) (v : Engine) : (s.setEngine i v).power = s.power := rfl
theorem State.getEngine_setEngine_same (i : Nat) (v : Engine) (h : mwf {} s.engines = true) : (s.setEngine i v).getEngine i = v := mget_mset_same i v h
theorem State.getEngine_setEngine_ne {i j : Nat} (v : Engine) (h : j ≠ i) : (s.setEngine i v).getEngine j = s.getEngine j := mget_mset_ne s.engines v _ h
@[simp] theorem State.getTdc_setEngine (i j : Nat) (v : Engine) : (s.setEngine i v).getTdc j = s.getTdc j := rfl
@[simp] theorem State.getPwm_setEngine (i j : Nat) (v : Engine) : (s.setEngine i v).getPwm j = s.getPwm j := rfl
@[simp] theorem State.getQuad_setEngine (i j : Nat) (v : Engine) : (s.setEngine i v).getQuad j = s.getQuad j := rfl
@[simp] theorem State.getSerial_setEngine (i j : Nat) (v : Engine) : (s.setEngine i v).getSerial j = s.getSerial j := rfl
@[simp] theorem State.getFb_setEngine (i j : Nat) (v : Engine) : (s.setEngine i v).getFb j = s.getFb j := rfl
@[simp] theorem State.getLoop_setEngine (i j : Nat) (v : Engine) : (s.setEngine i v).getLoop j = s.getLoop j := rfl
@[simp] theorem State.getFlags_setEngine (i j : Nat) (v : Engine) : (s.setEngine i v).getFlags j = s.getFlags j := rfl
@[simp] theorem State.getFoc_setEngine (i j : Nat) (v : Engine) : (s.setEngine i v).getFoc j = s.getFoc j := rfl
@[simp] theorem State.getSection_setEngine (i j : Nat) (v : Engine) : (s.setEngine i v).getSection j = s.getSection j := rfl
@[simp] theorem State.getRecord_setEngine (i j : Nat) (v : Engine) : (s.setEngine i v).getRecord j = s.getRecord j := rfl
@[simp] theorem State.getDc_setEngine (i j : Nat) (v : Engine) : (s.setEngine i v).getDc j = s.getDc j := rfl
@[simp] theorem State.getAux_setEngine (i j : Nat) (v : Engine) : (s.setEngine i v).getAux j = s.getAux j := rfl
@[simp] theorem State.getTrail_setEngine (i j : Nat) (v : Engine) : (s.setEngine i v).getTrail j = s.getTrail j := rfl
@[simp] theorem State.getFollower_setEngine (i j : Nat) (v : Engine) : (s.setEngine i v).getFollower j = s.getFollower j := rfl
@[simp] theorem State.getPublisher_setEngine (i j : Nat) (v : Engine) : (s.setEngine i v).getPublisher j = s.getPublisher j := rfl
@[simp] theorem State.getVirt_setEngine (i j : Nat) (v : Engine) : (s.setEngine i v).getVirt j = s.getVirt j := rfl
@[simp] theorem State.getRemote_setEngine (i j : Nat) (v : Engine) : (s.setEngine i v).getRemote j = s.getRemote j := rfl
@[simp] theorem State.getCam_setEngine (i j : Nat) (v : Engine) : (s.setEngine i v).getCam j = s.getCam j := rfl
@[simp] theorem State.getStepper_setEngine (i j : Nat) (v : Engine) : (s.setEngine i v).getStepper j = s.getStepper j := rfl
@[simp] theorem State.getCap_setEngine (i j : Nat) (v : Engine) : (s.setEngine i v).getCap j = s.getCap j := rfl
@[simp] theorem State.getMbx_setEngine (i j : Nat) (v : Engine) : (s.setEngine i v).getMbx j = s.getMbx j := rfl
@[simp] theorem State.getSession_setEngine (i j : Nat) (v : Engine) : (s.setEngine i v).getSession j = s.getSession j := rfl
@[simp] theorem State.getArb_setEngine (i j : Nat) (v : Engine) : (s.setEngine i v).getArb j = s.getArb j := rfl
@[simp] theorem State.getFabPort_setEngine (i j : Nat) (v : Engine) : (s.setEngine i v).getFabPort j = s.getFabPort j := rfl
@[simp] theorem State.getEth_setEngine (i j : Nat) (v : Engine) : (s.setEngine i v).getEth j = s.getEth j := rfl
@[simp] theorem State.getCan_setEngine (i j : Nat) (v : Engine) : (s.setEngine i v).getCan j = s.getCan j := rfl

/-! ### aux -/

@[simp] theorem State.modAux_def (i : Nat) (g : AuxDrive → AuxDrive) : s.modAux i g = s.setAux i (g (s.getAux i)) := rfl
@[simp] theorem State.setAux_aux (i : Nat) (v : AuxDrive) : (s.setAux i v).aux = mset s.aux i v {} := rfl
@[simp] theorem State.setAux_pending (i : Nat) (v : AuxDrive) : (s.setAux i v).pending = s.pending := rfl
@[simp] theorem State.setAux_tick (i : Nat) (v : AuxDrive) : (s.setAux i v).tick = s.tick := rfl
@[simp] theorem State.setAux_freeCtr (i : Nat) (v : AuxDrive) : (s.setAux i v).freeCtr = s.freeCtr := rfl
@[simp] theorem State.setAux_time (i : Nat) (v : AuxDrive) : (s.setAux i v).time = s.time := rfl
@[simp] theorem State.setAux_tdc (i : Nat) (v : AuxDrive) : (s.setAux i v).tdc = s.tdc := rfl
@[simp] theorem State.setAux_tdcCal (i : Nat) (v : AuxDrive) : (s.setAux i v).tdcCal = s.tdcCal := rfl
@[simp] theorem State.setAux_cfg (i : Nat) (v : AuxDrive) : (s.setAux i v).cfg = s.cfg := rfl
@[simp] theorem State.setAux_ctr (i : Nat) (v : AuxDrive) : (s.setAux i v).ctr = s.ctr := rfl
@[simp] theorem State.setAux_pwm (i : Nat) (v : AuxDrive) : (s.setAux i v).pwm = s.pwm := rfl
@[simp] theorem State.setAux_quad (i : Nat) (v : AuxDrive) : (s.setAux i v).quad = s.quad := rfl
@[simp] theorem State.setAux_serial (i : Nat) (v : AuxDrive) : (s.setAux i v).serial = s.serial := rfl
@[simp] theorem State.setAux_fb (i : Nat) (v : AuxDrive) : (s.setAux i v).fb = s.fb := rfl
@[simp] theorem State.setAux_loop (i : Nat) (v : AuxDrive) : (s.setAux i v).loop = s.loop := rfl
@[simp] theorem State.setAux_flags (i : Nat) (v : AuxDrive) : (s.setAux i v).flags = s.flags := rfl
@[simp] theorem State.setAux_foc (i : Nat) (v : AuxDrive) : (s.setAux i v).foc = s.foc := rfl
@[simp] theorem State.setAux_sections (i : Nat) (v : AuxDrive) : (s.setAux i v).sections = s.sections := rfl
@[simp] theorem State.setAux_records (i : Nat) (v : AuxDrive) : (s.setAux i v).records = s.records := rfl
@[simp] theorem State.setAux_dc (i : Nat) (v : AuxDrive) : (s.setAux i v).dc = s.dc := rfl
@[simp] theorem State.setAux_engines (i : Nat) (v : AuxDrive) : (s.setAux i v).engines = s.engines := rfl
@[simp] theorem State.setAux_bank (i : Nat) (v : AuxDrive) : (s.setAux i v).bank = s.bank := rfl
@[simp] theorem State.setAux_waiters (i : Nat) (v : AuxDrive) : (s.setAux i v).waiters = s.waiters := rfl
@[simp] theorem State.setAux_trails (i : Nat) (v : AuxDrive) : (s.setAux i v).trails = s.trails := rfl
@[simp] theorem State.setAux_followers (i : Nat) (v : AuxDrive) : (s.setAux i v).followers = s.followers := rfl
@[simp] theorem State.setAux_publishers (i : Nat) (v : AuxDrive) : (s.setAux i v).publishers = s.publishers := rfl
@[simp] theorem State.setAux_virt (i : Nat) (v : AuxDrive) : (s.setAux i v).virt = s.virt := rfl
@[simp] theorem State.setAux_remote (i : Nat) (v : AuxDrive) : (s.setAux i v).remote = s.remote := rfl
@[simp] theorem State.setAux_cams (i : Nat) (v : AuxDrive) : (s.setAux i v).cams = s.cams := rfl
@[simp] theorem State.setAux_steppers (i : Nat) (v : AuxDrive) : (s.setAux i v).steppers = s.steppers := rfl
@[simp] theorem State.setAux_caps (i : Nat) (v : AuxDrive) : (s.setAux i v).caps = s.caps := rfl
@[simp] theorem State.setAux_capMem (i : Nat) (v : AuxDrive) : (s.setAux i v).capMem = s.capMem := rfl
@[simp] theorem State.setAux_mailboxes (i : Nat) (v : AuxDrive) : (s.setAux i v).mailboxes = s.mailboxes := rfl
@[simp] theorem State.setAux_sessions (i : Nat) (v : AuxDrive) : (s.setAux i v).sessions = s.sessions := rfl
@[simp] theorem State.setAux_host (i : Nat) (v : AuxDrive) : (s.setAux i v).host = s.host := rfl
@[simp] theorem State.setAux_events (i : Nat) (v : AuxDrive) : (s.setAux i v).events = s.events := rfl
@[simp] theorem State.setAux_locks (i : Nat) (v : AuxDrive) : (s.setAux i v).locks = s.locks := rfl
@[simp] theorem State.setAux_sched (i : Nat) (v : AuxDrive) : (s.setAux i v).sched = s.sched := rfl
@[simp] theorem State.setAux_arbs (i : Nat) (v : AuxDrive) : (s.setAux i v).arbs = s.arbs := rfl
@[simp] theorem State.setAux_fabPorts (i : Nat) (v : AuxDrive) : (s.setAux i v).fabPorts = s.fabPorts := rfl
@[simp] theorem State.setAux_fabric (i : Nat) (v : AuxDrive) : (s.setAux i v).fabric = s.fabric := rfl
@[simp] theorem State.setAux_eth (i : Nat) (v : AuxDrive) : (s.setAux i v).eth = s.eth := rfl
@[simp] theorem State.setAux_can (i : Nat) (v : AuxDrive) : (s.setAux i v).can = s.can := rfl
@[simp] theorem State.setAux_fio (i : Nat) (v : AuxDrive) : (s.setAux i v).fio = s.fio := rfl
@[simp] theorem State.setAux_safety (i : Nat) (v : AuxDrive) : (s.setAux i v).safety = s.safety := rfl
@[simp] theorem State.setAux_power (i : Nat) (v : AuxDrive) : (s.setAux i v).power = s.power := rfl
theorem State.getAux_setAux_same (i : Nat) (v : AuxDrive) (h : mwf {} s.aux = true) : (s.setAux i v).getAux i = v := mget_mset_same i v h
theorem State.getAux_setAux_ne {i j : Nat} (v : AuxDrive) (h : j ≠ i) : (s.setAux i v).getAux j = s.getAux j := mget_mset_ne s.aux v _ h
@[simp] theorem State.getTdc_setAux (i j : Nat) (v : AuxDrive) : (s.setAux i v).getTdc j = s.getTdc j := rfl
@[simp] theorem State.getPwm_setAux (i j : Nat) (v : AuxDrive) : (s.setAux i v).getPwm j = s.getPwm j := rfl
@[simp] theorem State.getQuad_setAux (i j : Nat) (v : AuxDrive) : (s.setAux i v).getQuad j = s.getQuad j := rfl
@[simp] theorem State.getSerial_setAux (i j : Nat) (v : AuxDrive) : (s.setAux i v).getSerial j = s.getSerial j := rfl
@[simp] theorem State.getFb_setAux (i j : Nat) (v : AuxDrive) : (s.setAux i v).getFb j = s.getFb j := rfl
@[simp] theorem State.getLoop_setAux (i j : Nat) (v : AuxDrive) : (s.setAux i v).getLoop j = s.getLoop j := rfl
@[simp] theorem State.getFlags_setAux (i j : Nat) (v : AuxDrive) : (s.setAux i v).getFlags j = s.getFlags j := rfl
@[simp] theorem State.getFoc_setAux (i j : Nat) (v : AuxDrive) : (s.setAux i v).getFoc j = s.getFoc j := rfl
@[simp] theorem State.getSection_setAux (i j : Nat) (v : AuxDrive) : (s.setAux i v).getSection j = s.getSection j := rfl
@[simp] theorem State.getRecord_setAux (i j : Nat) (v : AuxDrive) : (s.setAux i v).getRecord j = s.getRecord j := rfl
@[simp] theorem State.getDc_setAux (i j : Nat) (v : AuxDrive) : (s.setAux i v).getDc j = s.getDc j := rfl
@[simp] theorem State.getEngine_setAux (i j : Nat) (v : AuxDrive) : (s.setAux i v).getEngine j = s.getEngine j := rfl
@[simp] theorem State.getTrail_setAux (i j : Nat) (v : AuxDrive) : (s.setAux i v).getTrail j = s.getTrail j := rfl
@[simp] theorem State.getFollower_setAux (i j : Nat) (v : AuxDrive) : (s.setAux i v).getFollower j = s.getFollower j := rfl
@[simp] theorem State.getPublisher_setAux (i j : Nat) (v : AuxDrive) : (s.setAux i v).getPublisher j = s.getPublisher j := rfl
@[simp] theorem State.getVirt_setAux (i j : Nat) (v : AuxDrive) : (s.setAux i v).getVirt j = s.getVirt j := rfl
@[simp] theorem State.getRemote_setAux (i j : Nat) (v : AuxDrive) : (s.setAux i v).getRemote j = s.getRemote j := rfl
@[simp] theorem State.getCam_setAux (i j : Nat) (v : AuxDrive) : (s.setAux i v).getCam j = s.getCam j := rfl
@[simp] theorem State.getStepper_setAux (i j : Nat) (v : AuxDrive) : (s.setAux i v).getStepper j = s.getStepper j := rfl
@[simp] theorem State.getCap_setAux (i j : Nat) (v : AuxDrive) : (s.setAux i v).getCap j = s.getCap j := rfl
@[simp] theorem State.getMbx_setAux (i j : Nat) (v : AuxDrive) : (s.setAux i v).getMbx j = s.getMbx j := rfl
@[simp] theorem State.getSession_setAux (i j : Nat) (v : AuxDrive) : (s.setAux i v).getSession j = s.getSession j := rfl
@[simp] theorem State.getArb_setAux (i j : Nat) (v : AuxDrive) : (s.setAux i v).getArb j = s.getArb j := rfl
@[simp] theorem State.getFabPort_setAux (i j : Nat) (v : AuxDrive) : (s.setAux i v).getFabPort j = s.getFabPort j := rfl
@[simp] theorem State.getEth_setAux (i j : Nat) (v : AuxDrive) : (s.setAux i v).getEth j = s.getEth j := rfl
@[simp] theorem State.getCan_setAux (i j : Nat) (v : AuxDrive) : (s.setAux i v).getCan j = s.getCan j := rfl

/-! ### trails -/

@[simp] theorem State.modTrail_def (i : Nat) (g : Trail → Trail) : s.modTrail i g = s.setTrail i (g (s.getTrail i)) := rfl
@[simp] theorem State.setTrail_trails (i : Nat) (v : Trail) : (s.setTrail i v).trails = mset s.trails i v {} := rfl
@[simp] theorem State.setTrail_pending (i : Nat) (v : Trail) : (s.setTrail i v).pending = s.pending := rfl
@[simp] theorem State.setTrail_tick (i : Nat) (v : Trail) : (s.setTrail i v).tick = s.tick := rfl
@[simp] theorem State.setTrail_freeCtr (i : Nat) (v : Trail) : (s.setTrail i v).freeCtr = s.freeCtr := rfl
@[simp] theorem State.setTrail_time (i : Nat) (v : Trail) : (s.setTrail i v).time = s.time := rfl
@[simp] theorem State.setTrail_tdc (i : Nat) (v : Trail) : (s.setTrail i v).tdc = s.tdc := rfl
@[simp] theorem State.setTrail_tdcCal (i : Nat) (v : Trail) : (s.setTrail i v).tdcCal = s.tdcCal := rfl
@[simp] theorem State.setTrail_cfg (i : Nat) (v : Trail) : (s.setTrail i v).cfg = s.cfg := rfl
@[simp] theorem State.setTrail_ctr (i : Nat) (v : Trail) : (s.setTrail i v).ctr = s.ctr := rfl
@[simp] theorem State.setTrail_pwm (i : Nat) (v : Trail) : (s.setTrail i v).pwm = s.pwm := rfl
@[simp] theorem State.setTrail_quad (i : Nat) (v : Trail) : (s.setTrail i v).quad = s.quad := rfl
@[simp] theorem State.setTrail_serial (i : Nat) (v : Trail) : (s.setTrail i v).serial = s.serial := rfl
@[simp] theorem State.setTrail_fb (i : Nat) (v : Trail) : (s.setTrail i v).fb = s.fb := rfl
@[simp] theorem State.setTrail_loop (i : Nat) (v : Trail) : (s.setTrail i v).loop = s.loop := rfl
@[simp] theorem State.setTrail_flags (i : Nat) (v : Trail) : (s.setTrail i v).flags = s.flags := rfl
@[simp] theorem State.setTrail_foc (i : Nat) (v : Trail) : (s.setTrail i v).foc = s.foc := rfl
@[simp] theorem State.setTrail_sections (i : Nat) (v : Trail) : (s.setTrail i v).sections = s.sections := rfl
@[simp] theorem State.setTrail_records (i : Nat) (v : Trail) : (s.setTrail i v).records = s.records := rfl
@[simp] theorem State.setTrail_dc (i : Nat) (v : Trail) : (s.setTrail i v).dc = s.dc := rfl
@[simp] theorem State.setTrail_engines (i : Nat) (v : Trail) : (s.setTrail i v).engines = s.engines := rfl
@[simp] theorem State.setTrail_bank (i : Nat) (v : Trail) : (s.setTrail i v).bank = s.bank := rfl
@[simp] theorem State.setTrail_waiters (i : Nat) (v : Trail) : (s.setTrail i v).waiters = s.waiters := rfl
@[simp] theorem State.setTrail_aux (i : Nat) (v : Trail) : (s.setTrail i v).aux = s.aux := rfl
@[simp] theorem State.setTrail_followers (i : Nat) (v : Trail) : (s.setTrail i v).followers = s.followers := rfl
@[simp] theorem State.setTrail_publishers (i : Nat) (v : Trail) : (s.setTrail i v).publishers = s.publishers := rfl
@[simp] theorem State.setTrail_virt (i : Nat) (v : Trail) : (s.setTrail i v).virt = s.virt := rfl
@[simp] theorem State.setTrail_remote (i : Nat) (v : Trail) : (s.setTrail i v).remote = s.remote := rfl
@[simp] theorem State.setTrail_cams (i : Nat) (v : Trail) : (s.setTrail i v).cams = s.cams := rfl
@[simp] theorem State.setTrail_steppers (i : Nat) (v : Trail) : (s.setTrail i v).steppers = s.steppers := rfl
@[simp] theorem State.setTrail_caps (i : Nat) (v : Trail) : (s.setTrail i v).caps = s.caps := rfl
@[simp] theorem State.setTrail_capMem (i : Nat) (v : Trail) : (s.setTrail i v).capMem = s.capMem := rfl
@[simp] theorem State.setTrail_mailboxes (i : Nat) (v : Trail) : (s.setTrail i v).mailboxes = s.mailboxes := rfl
@[simp] theorem State.setTrail_sessions (i : Nat) (v : Trail) : (s.setTrail i v).sessions = s.sessions := rfl
@[simp] theorem State.setTrail_host (i : Nat) (v : Trail) : (s.setTrail i v).host = s.host := rfl
@[simp] theorem State.setTrail_events (i : Nat) (v : Trail) : (s.setTrail i v).events = s.events := rfl
@[simp] theorem State.setTrail_locks (i : Nat) (v : Trail) : (s.setTrail i v).locks = s.locks := rfl
@[simp] theorem State.setTrail_sched (i : Nat) (v : Trail) : (s.setTrail i v).sched = s.sched := rfl
@[simp] theorem State.setTrail_arbs (i : Nat) (v : Trail) : (s.setTrail i v).arbs = s.arbs := rfl
@[simp] theorem State.setTrail_fabPorts (i : Nat) (v : Trail) : (s.setTrail i v).fabPorts = s.fabPorts := rfl
@[simp] theorem State.setTrail_fabric (i : Nat) (v : Trail) : (s.setTrail i v).fabric = s.fabric := rfl
@[simp] theorem State.setTrail_eth (i : Nat) (v : Trail) : (s.setTrail i v).eth = s.eth := rfl
@[simp] theorem State.setTrail_can (i : Nat) (v : Trail) : (s.setTrail i v).can = s.can := rfl
@[simp] theorem State.setTrail_fio (i : Nat) (v : Trail) : (s.setTrail i v).fio = s.fio := rfl
@[simp] theorem State.setTrail_safety (i : Nat) (v : Trail) : (s.setTrail i v).safety = s.safety := rfl
@[simp] theorem State.setTrail_power (i : Nat) (v : Trail) : (s.setTrail i v).power = s.power := rfl
theorem State.getTrail_setTrail_same (i : Nat) (v : Trail) (h : mwf {} s.trails = true) : (s.setTrail i v).getTrail i = v := mget_mset_same i v h
theorem State.getTrail_setTrail_ne {i j : Nat} (v : Trail) (h : j ≠ i) : (s.setTrail i v).getTrail j = s.getTrail j := mget_mset_ne s.trails v _ h
@[simp] theorem State.getTdc_setTrail (i j : Nat) (v : Trail) : (s.setTrail i v).getTdc j = s.getTdc j := rfl
@[simp] theorem State.getPwm_setTrail (i j : Nat) (v : Trail) : (s.setTrail i v).getPwm j = s.getPwm j := rfl
@[simp] theorem State.getQuad_setTrail (i j : Nat) (v : Trail) : (s.setTrail i v).getQuad j = s.getQuad j := rfl
@[simp] theorem State.getSerial_setTrail (i j : Nat) (v : Trail) : (s.setTrail i v).getSerial j = s.getSerial j := rfl
@[simp] theorem State.getFb_setTrail (i j : Nat) (v : Trail) : (s.setTrail i v).getFb j = s.getFb j := rfl
@[simp] theorem State.getLoop_setTrail (i j : Nat) (v : Trail) : (s.setTrail i v).getLoop j = s.getLoop j := rfl
@[simp] theorem State.getFlags_setTrail (i j : Nat) (v : Trail) : (s.setTrail i v).getFlags j = s.getFlags j := rfl
@[simp] theorem State.getFoc_setTrail (i j : Nat) (v : Trail) : (s.setTrail i v).getFoc j = s.getFoc j := rfl
@[simp] theorem State.getSection_setTrail (i j : Nat) (v : Trail) : (s.setTrail i v).getSection j = s.getSection j := rfl
@[simp] theorem State.getRecord_setTrail (i j : Nat) (v : Trail) : (s.setTrail i v).getRecord j = s.getRecord j := rfl
@[simp] theorem State.getDc_setTrail (i j : Nat) (v : Trail) : (s.setTrail i v).getDc j = s.getDc j := rfl
@[simp] theorem State.getEngine_setTrail (i j : Nat) (v : Trail) : (s.setTrail i v).getEngine j = s.getEngine j := rfl
@[simp] theorem State.getAux_setTrail (i j : Nat) (v : Trail) : (s.setTrail i v).getAux j = s.getAux j := rfl
@[simp] theorem State.getFollower_setTrail (i j : Nat) (v : Trail) : (s.setTrail i v).getFollower j = s.getFollower j := rfl
@[simp] theorem State.getPublisher_setTrail (i j : Nat) (v : Trail) : (s.setTrail i v).getPublisher j = s.getPublisher j := rfl
@[simp] theorem State.getVirt_setTrail (i j : Nat) (v : Trail) : (s.setTrail i v).getVirt j = s.getVirt j := rfl
@[simp] theorem State.getRemote_setTrail (i j : Nat) (v : Trail) : (s.setTrail i v).getRemote j = s.getRemote j := rfl
@[simp] theorem State.getCam_setTrail (i j : Nat) (v : Trail) : (s.setTrail i v).getCam j = s.getCam j := rfl
@[simp] theorem State.getStepper_setTrail (i j : Nat) (v : Trail) : (s.setTrail i v).getStepper j = s.getStepper j := rfl
@[simp] theorem State.getCap_setTrail (i j : Nat) (v : Trail) : (s.setTrail i v).getCap j = s.getCap j := rfl
@[simp] theorem State.getMbx_setTrail (i j : Nat) (v : Trail) : (s.setTrail i v).getMbx j = s.getMbx j := rfl
@[simp] theorem State.getSession_setTrail (i j : Nat) (v : Trail) : (s.setTrail i v).getSession j = s.getSession j := rfl
@[simp] theorem State.getArb_setTrail (i j : Nat) (v : Trail) : (s.setTrail i v).getArb j = s.getArb j := rfl
@[simp] theorem State.getFabPort_setTrail (i j : Nat) (v : Trail) : (s.setTrail i v).getFabPort j = s.getFabPort j := rfl
@[simp] theorem State.getEth_setTrail (i j : Nat) (v : Trail) : (s.setTrail i v).getEth j = s.getEth j := rfl
@[simp] theorem State.getCan_setTrail (i j : Nat) (v : Trail) : (s.setTrail i v).getCan j = s.getCan j := rfl

/-! ### followers -/

@[simp] theorem State.modFollower_def (i : Nat) (g : Follower → Follower) : s.modFollower i g = s.setFollower i (g (s.getFollower i)) := rfl
@[simp] theorem State.setFollower_followers (i : Nat) (v : Follower) : (s.setFollower i v).followers = mset s.followers i v {} := rfl
@[simp] theorem State.setFollower_pending (i : Nat) (v : Follower) : (s.setFollower i v).pending = s.pending := rfl
@[simp] theorem State.setFollower_tick (i : Nat) (v : Follower) : (s.setFollower i v).tick = s.tick := rfl
@[simp] theorem State.setFollower_freeCtr (i : Nat) (v : Follower) : (s.setFollower i v).freeCtr = s.freeCtr := rfl
@[simp] theorem State.setFollower_time (i : Nat) (v : Follower) : (s.setFollower i v).time = s.time := rfl
@[simp] theorem State.setFollower_tdc (i : Nat) (v : Follower) : (s.setFollower i v).tdc = s.tdc := rfl
@[simp] theorem State.setFollower_tdcCal (i : Nat) (v : Follower) : (s.setFollower i v).tdcCal = s.tdcCal := rfl
@[simp] theorem State.setFollower_cfg (i : Nat) (v : Follower) : (s.setFollower i v).cfg = s.cfg := rfl
@[simp] theorem State.setFollower_ctr (i : Nat) (v : Follower) : (s.setFollower i v).ctr = s.ctr := rfl
@[simp] theorem State.setFollower_pwm (i : Nat) (v : Follower) : (s.setFollower i v).pwm = s.pwm := rfl
@[simp] theorem State.setFollower_quad (i : Nat) (v : Follower) : (s.setFollower i v).quad = s.quad := rfl
@[simp] theorem State.setFollower_serial (i : Nat) (v : Follower) : (s.setFollower i v).serial = s.serial := rfl
@[simp] theorem State.setFollower_fb (i : Nat) (v : Follower) : (s.setFollower i v).fb = s.fb := rfl
@[simp] theorem State.setFollower_loop (i : Nat) (v : Follower) : (s.setFollower i v).loop = s.loop := rfl
@[simp] theorem State.setFollower_flags (i : Nat) (v : Follower) : (s.setFollower i v).flags = s.flags := rfl
@[simp] theorem State.setFollower_foc (i : Nat) (v : Follower) : (s.setFollower i v).foc = s.foc := rfl
@[simp] theorem State.setFollower_sections (i : Nat) (v : Follower) : (s.setFollower i v).sections = s.sections := rfl
@[simp] theorem State.setFollower_records (i : Nat) (v : Follower) : (s.setFollower i v).records = s.records := rfl
@[simp] theorem State.setFollower_dc (i : Nat) (v : Follower) : (s.setFollower i v).dc = s.dc := rfl
@[simp] theorem State.setFollower_engines (i : Nat) (v : Follower) : (s.setFollower i v).engines = s.engines := rfl
@[simp] theorem State.setFollower_bank (i : Nat) (v : Follower) : (s.setFollower i v).bank = s.bank := rfl
@[simp] theorem State.setFollower_waiters (i : Nat) (v : Follower) : (s.setFollower i v).waiters = s.waiters := rfl
@[simp] theorem State.setFollower_aux (i : Nat) (v : Follower) : (s.setFollower i v).aux = s.aux := rfl
@[simp] theorem State.setFollower_trails (i : Nat) (v : Follower) : (s.setFollower i v).trails = s.trails := rfl
@[simp] theorem State.setFollower_publishers (i : Nat) (v : Follower) : (s.setFollower i v).publishers = s.publishers := rfl
@[simp] theorem State.setFollower_virt (i : Nat) (v : Follower) : (s.setFollower i v).virt = s.virt := rfl
@[simp] theorem State.setFollower_remote (i : Nat) (v : Follower) : (s.setFollower i v).remote = s.remote := rfl
@[simp] theorem State.setFollower_cams (i : Nat) (v : Follower) : (s.setFollower i v).cams = s.cams := rfl
@[simp] theorem State.setFollower_steppers (i : Nat) (v : Follower) : (s.setFollower i v).steppers = s.steppers := rfl
@[simp] theorem State.setFollower_caps (i : Nat) (v : Follower) : (s.setFollower i v).caps = s.caps := rfl
@[simp] theorem State.setFollower_capMem (i : Nat) (v : Follower) : (s.setFollower i v).capMem = s.capMem := rfl
@[simp] theorem State.setFollower_mailboxes (i : Nat) (v : Follower) : (s.setFollower i v).mailboxes = s.mailboxes := rfl
@[simp] theorem State.setFollower_sessions (i : Nat) (v : Follower) : (s.setFollower i v).sessions = s.sessions := rfl
@[simp] theorem State.setFollower_host (i : Nat) (v : Follower) : (s.setFollower i v).host = s.host := rfl
@[simp] theorem State.setFollower_events (i : Nat) (v : Follower) : (s.setFollower i v).events = s.events := rfl
@[simp] theorem State.setFollower_locks (i : Nat) (v : Follower) : (s.setFollower i v).locks = s.locks := rfl
@[simp] theorem State.setFollower_sched (i : Nat) (v : Follower) : (s.setFollower i v).sched = s.sched := rfl
@[simp] theorem State.setFollower_arbs (i : Nat) (v : Follower) : (s.setFollower i v).arbs = s.arbs := rfl
@[simp] theorem State.setFollower_fabPorts (i : Nat) (v : Follower) : (s.setFollower i v).fabPorts = s.fabPorts := rfl
@[simp] theorem State.setFollower_fabric (i : Nat) (v : Follower) : (s.setFollower i v).fabric = s.fabric := rfl
@[simp] theorem State.setFollower_eth (i : Nat) (v : Follower) : (s.setFollower i v).eth = s.eth := rfl
@[simp] theorem State.setFollower_can (i : Nat) (v : Follower) : (s.setFollower i v).can = s.can := rfl
@[simp] theorem State.setFollower_fio (i : Nat) (v : Follower) : (s.setFollower i v).fio = s.fio := rfl
@[simp] theorem State.setFollower_safety (i : Nat) (v : Follower) : (s.setFollower i v).safety = s.safety := rfl
@[simp] theorem State.setFollower_power (i : Nat) (v : Follower) : (s.setFollower i v).power = s.power := rfl
theorem State.getFollower_setFollower_same (i : Nat) (v : Follower) (h : mwf {} s.followers = true) : (s.setFollower i v).getFollower i = v := mget_mset_same i v h
theorem State.getFollower_setFollower_ne {i j : Nat} (v : Follower) (h : j ≠ i) : (s.setFollower i v).getFollower j = s.getFollower j := mget_mset_ne s.followers v _ h
@[simp] theorem State.getTdc_setFollower (i j : Nat) (v : Follower) : (s.setFollower i v).getTdc j = s.getTdc j := rfl
@[simp] theorem State.getPwm_setFollower (i j : Nat) (v : Follower) : (s.setFollower i v).getPwm j = s.getPwm j := rfl
@[simp] theorem State.getQuad_setFollower (i j : Nat) (v : Follower) : (s.setFollower i v).getQuad j = s.getQuad j := rfl
@[simp] theorem State.getSerial_setFollower (i j : Nat) (v : Follower) : (s.setFollower i v).getSerial j = s.getSerial j := rfl
@[simp] theorem State.getFb_setFollower (i j : Nat) (v : Follower) : (s.setFollower i v).getFb j = s.getFb j := rfl
@[simp] theorem State.getLoop_setFollower (i j : Nat) (v : Follower) : (s.setFollower i v).getLoop j = s.getLoop j := rfl
@[simp] theorem State.getFlags_setFollower (i j : Nat) (v : Follower) : (s.setFollower i v).getFlags j = s.getFlags j := rfl
@[simp] theorem State.getFoc_setFollower (i j : Nat) (v : Follower) : (s.setFollower i v).getFoc j = s.getFoc j := rfl
@[simp] theorem State.getSection_setFollower (i j : Nat) (v : Follower) : (s.setFollower i v).getSection j = s.getSection j := rfl
@[simp] theorem State.getRecord_setFollower (i j : Nat) (v : Follower) : (s.setFollower i v).getRecord j = s.getRecord j := rfl
@[simp] theorem State.getDc_setFollower (i j : Nat) (v : Follower) : (s.setFollower i v).getDc j = s.getDc j := rfl
@[simp] theorem State.getEngine_setFollower (i j : Nat) (v : Follower) : (s.setFollower i v).getEngine j = s.getEngine j := rfl
@[simp] theorem State.getAux_setFollower (i j : Nat) (v : Follower) : (s.setFollower i v).getAux j = s.getAux j := rfl
@[simp] theorem State.getTrail_setFollower (i j : Nat) (v : Follower) : (s.setFollower i v).getTrail j = s.getTrail j := rfl
@[simp] theorem State.getPublisher_setFollower (i j : Nat) (v : Follower) : (s.setFollower i v).getPublisher j = s.getPublisher j := rfl
@[simp] theorem State.getVirt_setFollower (i j : Nat) (v : Follower) : (s.setFollower i v).getVirt j = s.getVirt j := rfl
@[simp] theorem State.getRemote_setFollower (i j : Nat) (v : Follower) : (s.setFollower i v).getRemote j = s.getRemote j := rfl
@[simp] theorem State.getCam_setFollower (i j : Nat) (v : Follower) : (s.setFollower i v).getCam j = s.getCam j := rfl
@[simp] theorem State.getStepper_setFollower (i j : Nat) (v : Follower) : (s.setFollower i v).getStepper j = s.getStepper j := rfl
@[simp] theorem State.getCap_setFollower (i j : Nat) (v : Follower) : (s.setFollower i v).getCap j = s.getCap j := rfl
@[simp] theorem State.getMbx_setFollower (i j : Nat) (v : Follower) : (s.setFollower i v).getMbx j = s.getMbx j := rfl
@[simp] theorem State.getSession_setFollower (i j : Nat) (v : Follower) : (s.setFollower i v).getSession j = s.getSession j := rfl
@[simp] theorem State.getArb_setFollower (i j : Nat) (v : Follower) : (s.setFollower i v).getArb j = s.getArb j := rfl
@[simp] theorem State.getFabPort_setFollower (i j : Nat) (v : Follower) : (s.setFollower i v).getFabPort j = s.getFabPort j := rfl
@[simp] theorem State.getEth_setFollower (i j : Nat) (v : Follower) : (s.setFollower i v).getEth j = s.getEth j := rfl
@[simp] theorem State.getCan_setFollower (i j : Nat) (v : Follower) : (s.setFollower i v).getCan j = s.getCan j := rfl

/-! ### publishers -/

@[simp] theorem State.modPublisher_def (i : Nat) (g : Publisher → Publisher) : s.modPublisher i g = s.setPublisher i (g (s.getPublisher i)) := rfl
@[simp] theorem State.setPublisher_publishers (i : Nat) (v : Publisher) : (s.setPublisher i v).publishers = mset s.publishers i v {} := rfl
@[simp] theorem State.setPublisher_pending (i : Nat) (v : Publisher) : (s.setPublisher i v).pending = s.pending := rfl
@[simp] theorem State.setPublisher_tick (i : Nat) (v : Publisher) : (s.setPublisher i v).tick = s.tick := rfl
@[simp] theorem State.setPublisher_freeCtr (i : Nat) (v : Publisher) : (s.setPublisher i v).freeCtr = s.freeCtr := rfl
@[simp] theorem State.setPublisher_time (i : Nat) (v : Publisher) : (s.setPublisher i v).time = s.time := rfl
@[simp] theorem State.setPublisher_tdc (i : Nat) (v : Publisher) : (s.setPublisher i v).tdc = s.tdc := rfl
@[simp] theorem State.setPublisher_tdcCal (i : Nat) (v : Publisher) : (s.setPublisher i v).tdcCal = s.tdcCal := rfl
@[simp] theorem State.setPublisher_cfg (i : Nat) (v : Publisher) : (s.setPublisher i v).cfg = s.cfg := rfl
@[simp] theorem State.setPublisher_ctr (i : Nat) (v : Publisher) : (s.setPublisher i v).ctr = s.ctr := rfl
@[simp] theorem State.setPublisher_pwm (i : Nat) (v : Publisher) : (s.setPublisher i v).pwm = s.pwm := rfl
@[simp] theorem State.setPublisher_quad (i : Nat) (v : Publisher) : (s.setPublisher i v).quad = s.quad := rfl
@[simp] theorem State.setPublisher_serial (i : Nat) (v : Publisher) : (s.setPublisher i v).serial = s.serial := rfl
@[simp] theorem State.setPublisher_fb (i : Nat) (v : Publisher) : (s.setPublisher i v).fb = s.fb := rfl
@[simp] theorem State.setPublisher_loop (i : Nat) (v : Publisher) : (s.setPublisher i v).loop = s.loop := rfl
@[simp] theorem State.setPublisher_flags (i : Nat) (v : Publisher) : (s.setPublisher i v).flags = s.flags := rfl
@[simp] theorem State.setPublisher_foc (i : Nat) (v : Publisher) : (s.setPublisher i v).foc = s.foc := rfl
@[simp] theorem State.setPublisher_sections (i : Nat) (v : Publisher) : (s.setPublisher i v).sections = s.sections := rfl
@[simp] theorem State.setPublisher_records (i : Nat) (v : Publisher) : (s.setPublisher i v).records = s.records := rfl
@[simp] theorem State.setPublisher_dc (i : Nat) (v : Publisher) : (s.setPublisher i v).dc = s.dc := rfl
@[simp] theorem State.setPublisher_engines (i : Nat) (v : Publisher) : (s.setPublisher i v).engines = s.engines := rfl
@[simp] theorem State.setPublisher_bank (i : Nat) (v : Publisher) : (s.setPublisher i v).bank = s.bank := rfl
@[simp] theorem State.setPublisher_waiters (i : Nat) (v : Publisher) : (s.setPublisher i v).waiters = s.waiters := rfl
@[simp] theorem State.setPublisher_aux (i : Nat) (v : Publisher) : (s.setPublisher i v).aux = s.aux := rfl
@[simp] theorem State.setPublisher_trails (i : Nat) (v : Publisher) : (s.setPublisher i v).trails = s.trails := rfl
@[simp] theorem State.setPublisher_followers (i : Nat) (v : Publisher) : (s.setPublisher i v).followers = s.followers := rfl
@[simp] theorem State.setPublisher_virt (i : Nat) (v : Publisher) : (s.setPublisher i v).virt = s.virt := rfl
@[simp] theorem State.setPublisher_remote (i : Nat) (v : Publisher) : (s.setPublisher i v).remote = s.remote := rfl
@[simp] theorem State.setPublisher_cams (i : Nat) (v : Publisher) : (s.setPublisher i v).cams = s.cams := rfl
@[simp] theorem State.setPublisher_steppers (i : Nat) (v : Publisher) : (s.setPublisher i v).steppers = s.steppers := rfl
@[simp] theorem State.setPublisher_caps (i : Nat) (v : Publisher) : (s.setPublisher i v).caps = s.caps := rfl
@[simp] theorem State.setPublisher_capMem (i : Nat) (v : Publisher) : (s.setPublisher i v).capMem = s.capMem := rfl
@[simp] theorem State.setPublisher_mailboxes (i : Nat) (v : Publisher) : (s.setPublisher i v).mailboxes = s.mailboxes := rfl
@[simp] theorem State.setPublisher_sessions (i : Nat) (v : Publisher) : (s.setPublisher i v).sessions = s.sessions := rfl
@[simp] theorem State.setPublisher_host (i : Nat) (v : Publisher) : (s.setPublisher i v).host = s.host := rfl
@[simp] theorem State.setPublisher_events (i : Nat) (v : Publisher) : (s.setPublisher i v).events = s.events := rfl
@[simp] theorem State.setPublisher_locks (i : Nat) (v : Publisher) : (s.setPublisher i v).locks = s.locks := rfl
@[simp] theorem State.setPublisher_sched (i : Nat) (v : Publisher) : (s.setPublisher i v).sched = s.sched := rfl
@[simp] theorem State.setPublisher_arbs (i : Nat) (v : Publisher) : (s.setPublisher i v).arbs = s.arbs := rfl
@[simp] theorem State.setPublisher_fabPorts (i : Nat) (v : Publisher) : (s.setPublisher i v).fabPorts = s.fabPorts := rfl
@[simp] theorem State.setPublisher_fabric (i : Nat) (v : Publisher) : (s.setPublisher i v).fabric = s.fabric := rfl
@[simp] theorem State.setPublisher_eth (i : Nat) (v : Publisher) : (s.setPublisher i v).eth = s.eth := rfl
@[simp] theorem State.setPublisher_can (i : Nat) (v : Publisher) : (s.setPublisher i v).can = s.can := rfl
@[simp] theorem State.setPublisher_fio (i : Nat) (v : Publisher) : (s.setPublisher i v).fio = s.fio := rfl
@[simp] theorem State.setPublisher_safety (i : Nat) (v : Publisher) : (s.setPublisher i v).safety = s.safety := rfl
@[simp] theorem State.setPublisher_power (i : Nat) (v : Publisher) : (s.setPublisher i v).power = s.power := rfl
theorem State.getPublisher_setPublisher_same (i : Nat) (v : Publisher) (h : mwf {} s.publishers = true) : (s.setPublisher i v).getPublisher i = v := mget_mset_same i v h
theorem State.getPublisher_setPublisher_ne {i j : Nat} (v : Publisher) (h : j ≠ i) : (s.setPublisher i v).getPublisher j = s.getPublisher j := mget_mset_ne s.publishers v _ h
@[simp] theorem State.getTdc_setPublisher (i j : Nat) (v : Publisher) : (s.setPublisher i v).getTdc j = s.getTdc j := rfl
@[simp] theorem State.getPwm_setPublisher (i j : Nat) (v : Publisher) : (s.setPublisher i v).getPwm j = s.getPwm j := rfl
@[simp] theorem State.getQuad_setPublisher (i j : Nat) (v : Publisher) : (s.setPublisher i v).getQuad j = s.getQuad j := rfl
@[simp] theorem State.getSerial_setPublisher (i j : Nat) (v : Publisher) : (s.setPublisher i v).getSerial j = s.getSerial j := rfl
@[simp] theorem State.getFb_setPublisher (i j : Nat) (v : Publisher) : (s.setPublisher i v).getFb j = s.getFb j := rfl
@[simp] theorem State.getLoop_setPublisher (i j : Nat) (v : Publisher) : (s.setPublisher i v).getLoop j = s.getLoop j := rfl
@[simp] theorem State.getFlags_setPublisher (i j : Nat) (v : Publisher) : (s.setPublisher i v).getFlags j = s.getFlags j := rfl
@[simp] theorem State.getFoc_setPublisher (i j : Nat) (v : Publisher) : (s.setPublisher i v).getFoc j = s.getFoc j := rfl
@[simp] theorem State.getSection_setPublisher (i j : Nat) (v : Publisher) : (s.setPublisher i v).getSection j = s.getSection j := rfl
@[simp] theorem State.getRecord_setPublisher (i j : Nat) (v : Publisher) : (s.setPublisher i v).getRecord j = s.getRecord j := rfl
@[simp] theorem State.getDc_setPublisher (i j : Nat) (v : Publisher) : (s.setPublisher i v).getDc j = s.getDc j := rfl
@[simp] theorem State.getEngine_setPublisher (i j : Nat) (v : Publisher) : (s.setPublisher i v).getEngine j = s.getEngine j := rfl
@[simp] theorem State.getAux_setPublisher (i j : Nat) (v : Publisher) : (s.setPublisher i v).getAux j = s.getAux j := rfl
@[simp] theorem State.getTrail_setPublisher (i j : Nat) (v : Publisher) : (s.setPublisher i v).getTrail j = s.getTrail j := rfl
@[simp] theorem State.getFollower_setPublisher (i j : Nat) (v : Publisher) : (s.setPublisher i v).getFollower j = s.getFollower j := rfl
@[simp] theorem State.getVirt_setPublisher (i j : Nat) (v : Publisher) : (s.setPublisher i v).getVirt j = s.getVirt j := rfl
@[simp] theorem State.getRemote_setPublisher (i j : Nat) (v : Publisher) : (s.setPublisher i v).getRemote j = s.getRemote j := rfl
@[simp] theorem State.getCam_setPublisher (i j : Nat) (v : Publisher) : (s.setPublisher i v).getCam j = s.getCam j := rfl
@[simp] theorem State.getStepper_setPublisher (i j : Nat) (v : Publisher) : (s.setPublisher i v).getStepper j = s.getStepper j := rfl
@[simp] theorem State.getCap_setPublisher (i j : Nat) (v : Publisher) : (s.setPublisher i v).getCap j = s.getCap j := rfl
@[simp] theorem State.getMbx_setPublisher (i j : Nat) (v : Publisher) : (s.setPublisher i v).getMbx j = s.getMbx j := rfl
@[simp] theorem State.getSession_setPublisher (i j : Nat) (v : Publisher) : (s.setPublisher i v).getSession j = s.getSession j := rfl
@[simp] theorem State.getArb_setPublisher (i j : Nat) (v : Publisher) : (s.setPublisher i v).getArb j = s.getArb j := rfl
@[simp] theorem State.getFabPort_setPublisher (i j : Nat) (v : Publisher) : (s.setPublisher i v).getFabPort j = s.getFabPort j := rfl
@[simp] theorem State.getEth_setPublisher (i j : Nat) (v : Publisher) : (s.setPublisher i v).getEth j = s.getEth j := rfl
@[simp] theorem State.getCan_setPublisher (i j : Nat) (v : Publisher) : (s.setPublisher i v).getCan j = s.getCan j := rfl

/-! ### virt -/

@[simp] theorem State.modVirt_def (i : Nat) (g : VirtualAxis → VirtualAxis) : s.modVirt i g = s.setVirt i (g (s.getVirt i)) := rfl
@[simp] theorem State.setVirt_virt (i : Nat) (v : VirtualAxis) : (s.setVirt i v).virt = mset s.virt i v {} := rfl
@[simp] theorem State.setVirt_pending (i : Nat) (v : VirtualAxis) : (s.setVirt i v).pending = s.pending := rfl
@[simp] theorem State.setVirt_tick (i : Nat) (v : VirtualAxis) : (s.setVirt i v).tick = s.tick := rfl
@[simp] theorem State.setVirt_freeCtr (i : Nat) (v : VirtualAxis) : (s.setVirt i v).freeCtr = s.freeCtr := rfl
@[simp] theorem State.setVirt_time (i : Nat) (v : VirtualAxis) : (s.setVirt i v).time = s.time := rfl
@[simp] theorem State.setVirt_tdc (i : Nat) (v : VirtualAxis) : (s.setVirt i v).tdc = s.tdc := rfl
@[simp] theorem State.setVirt_tdcCal (i : Nat) (v : VirtualAxis) : (s.setVirt i v).tdcCal = s.tdcCal := rfl
@[simp] theorem State.setVirt_cfg (i : Nat) (v : VirtualAxis) : (s.setVirt i v).cfg = s.cfg := rfl
@[simp] theorem State.setVirt_ctr (i : Nat) (v : VirtualAxis) : (s.setVirt i v).ctr = s.ctr := rfl
@[simp] theorem State.setVirt_pwm (i : Nat) (v : VirtualAxis) : (s.setVirt i v).pwm = s.pwm := rfl
@[simp] theorem State.setVirt_quad (i : Nat) (v : VirtualAxis) : (s.setVirt i v).quad = s.quad := rfl
@[simp] theorem State.setVirt_serial (i : Nat) (v : VirtualAxis) : (s.setVirt i v).serial = s.serial := rfl
@[simp] theorem State.setVirt_fb (i : Nat) (v : VirtualAxis) : (s.setVirt i v).fb = s.fb := rfl
@[simp] theorem State.setVirt_loop (i : Nat) (v : VirtualAxis) : (s.setVirt i v).loop = s.loop := rfl
@[simp] theorem State.setVirt_flags (i : Nat) (v : VirtualAxis) : (s.setVirt i v).flags = s.flags := rfl
@[simp] theorem State.setVirt_foc (i : Nat) (v : VirtualAxis) : (s.setVirt i v).foc = s.foc := rfl
@[simp] theorem State.setVirt_sections (i : Nat) (v : VirtualAxis) : (s.setVirt i v).sections = s.sections := rfl
@[simp] theorem State.setVirt_records (i : Nat) (v : VirtualAxis) : (s.setVirt i v).records = s.records := rfl
@[simp] theorem State.setVirt_dc (i : Nat) (v : VirtualAxis) : (s.setVirt i v).dc = s.dc := rfl
@[simp] theorem State.setVirt_engines (i : Nat) (v : VirtualAxis) : (s.setVirt i v).engines = s.engines := rfl
@[simp] theorem State.setVirt_bank (i : Nat) (v : VirtualAxis) : (s.setVirt i v).bank = s.bank := rfl
@[simp] theorem State.setVirt_waiters (i : Nat) (v : VirtualAxis) : (s.setVirt i v).waiters = s.waiters := rfl
@[simp] theorem State.setVirt_aux (i : Nat) (v : VirtualAxis) : (s.setVirt i v).aux = s.aux := rfl
@[simp] theorem State.setVirt_trails (i : Nat) (v : VirtualAxis) : (s.setVirt i v).trails = s.trails := rfl
@[simp] theorem State.setVirt_followers (i : Nat) (v : VirtualAxis) : (s.setVirt i v).followers = s.followers := rfl
@[simp] theorem State.setVirt_publishers (i : Nat) (v : VirtualAxis) : (s.setVirt i v).publishers = s.publishers := rfl
@[simp] theorem State.setVirt_remote (i : Nat) (v : VirtualAxis) : (s.setVirt i v).remote = s.remote := rfl
@[simp] theorem State.setVirt_cams (i : Nat) (v : VirtualAxis) : (s.setVirt i v).cams = s.cams := rfl
@[simp] theorem State.setVirt_steppers (i : Nat) (v : VirtualAxis) : (s.setVirt i v).steppers = s.steppers := rfl
@[simp] theorem State.setVirt_caps (i : Nat) (v : VirtualAxis) : (s.setVirt i v).caps = s.caps := rfl
@[simp] theorem State.setVirt_capMem (i : Nat) (v : VirtualAxis) : (s.setVirt i v).capMem = s.capMem := rfl
@[simp] theorem State.setVirt_mailboxes (i : Nat) (v : VirtualAxis) : (s.setVirt i v).mailboxes = s.mailboxes := rfl
@[simp] theorem State.setVirt_sessions (i : Nat) (v : VirtualAxis) : (s.setVirt i v).sessions = s.sessions := rfl
@[simp] theorem State.setVirt_host (i : Nat) (v : VirtualAxis) : (s.setVirt i v).host = s.host := rfl
@[simp] theorem State.setVirt_events (i : Nat) (v : VirtualAxis) : (s.setVirt i v).events = s.events := rfl
@[simp] theorem State.setVirt_locks (i : Nat) (v : VirtualAxis) : (s.setVirt i v).locks = s.locks := rfl
@[simp] theorem State.setVirt_sched (i : Nat) (v : VirtualAxis) : (s.setVirt i v).sched = s.sched := rfl
@[simp] theorem State.setVirt_arbs (i : Nat) (v : VirtualAxis) : (s.setVirt i v).arbs = s.arbs := rfl
@[simp] theorem State.setVirt_fabPorts (i : Nat) (v : VirtualAxis) : (s.setVirt i v).fabPorts = s.fabPorts := rfl
@[simp] theorem State.setVirt_fabric (i : Nat) (v : VirtualAxis) : (s.setVirt i v).fabric = s.fabric := rfl
@[simp] theorem State.setVirt_eth (i : Nat) (v : VirtualAxis) : (s.setVirt i v).eth = s.eth := rfl
@[simp] theorem State.setVirt_can (i : Nat) (v : VirtualAxis) : (s.setVirt i v).can = s.can := rfl
@[simp] theorem State.setVirt_fio (i : Nat) (v : VirtualAxis) : (s.setVirt i v).fio = s.fio := rfl
@[simp] theorem State.setVirt_safety (i : Nat) (v : VirtualAxis) : (s.setVirt i v).safety = s.safety := rfl
@[simp] theorem State.setVirt_power (i : Nat) (v : VirtualAxis) : (s.setVirt i v).power = s.power := rfl
theorem State.getVirt_setVirt_same (i : Nat) (v : VirtualAxis) (h : mwf {} s.virt = true) : (s.setVirt i v).getVirt i = v := mget_mset_same i v h
theorem State.getVirt_setVirt_ne {i j : Nat} (v : VirtualAxis) (h : j ≠ i) : (s.setVirt i v).getVirt j = s.getVirt j := mget_mset_ne s.virt v _ h
@[simp] theorem State.getTdc_setVirt (i j : Nat) (v : VirtualAxis) : (s.setVirt i v).getTdc j = s.getTdc j := rfl
@[simp] theorem State.getPwm_setVirt (i j : Nat) (v : VirtualAxis) : (s.setVirt i v).getPwm j = s.getPwm j := rfl
@[simp] theorem State.getQuad_setVirt (i j : Nat) (v : VirtualAxis) : (s.setVirt i v).getQuad j = s.getQuad j := rfl
@[simp] theorem State.getSerial_setVirt (i j : Nat) (v : VirtualAxis) : (s.setVirt i v).getSerial j = s.getSerial j := rfl
@[simp] theorem State.getFb_setVirt (i j : Nat) (v : VirtualAxis) : (s.setVirt i v).getFb j = s.getFb j := rfl
@[simp] theorem State.getLoop_setVirt (i j : Nat) (v : VirtualAxis) : (s.setVirt i v).getLoop j = s.getLoop j := rfl
@[simp] theorem State.getFlags_setVirt (i j : Nat) (v : VirtualAxis) : (s.setVirt i v).getFlags j = s.getFlags j := rfl
@[simp] theorem State.getFoc_setVirt (i j : Nat) (v : VirtualAxis) : (s.setVirt i v).getFoc j = s.getFoc j := rfl
@[simp] theorem State.getSection_setVirt (i j : Nat) (v : VirtualAxis) : (s.setVirt i v).getSection j = s.getSection j := rfl
@[simp] theorem State.getRecord_setVirt (i j : Nat) (v : VirtualAxis) : (s.setVirt i v).getRecord j = s.getRecord j := rfl
@[simp] theorem State.getDc_setVirt (i j : Nat) (v : VirtualAxis) : (s.setVirt i v).getDc j = s.getDc j := rfl
@[simp] theorem State.getEngine_setVirt (i j : Nat) (v : VirtualAxis) : (s.setVirt i v).getEngine j = s.getEngine j := rfl
@[simp] theorem State.getAux_setVirt (i j : Nat) (v : VirtualAxis) : (s.setVirt i v).getAux j = s.getAux j := rfl
@[simp] theorem State.getTrail_setVirt (i j : Nat) (v : VirtualAxis) : (s.setVirt i v).getTrail j = s.getTrail j := rfl
@[simp] theorem State.getFollower_setVirt (i j : Nat) (v : VirtualAxis) : (s.setVirt i v).getFollower j = s.getFollower j := rfl
@[simp] theorem State.getPublisher_setVirt (i j : Nat) (v : VirtualAxis) : (s.setVirt i v).getPublisher j = s.getPublisher j := rfl
@[simp] theorem State.getRemote_setVirt (i j : Nat) (v : VirtualAxis) : (s.setVirt i v).getRemote j = s.getRemote j := rfl
@[simp] theorem State.getCam_setVirt (i j : Nat) (v : VirtualAxis) : (s.setVirt i v).getCam j = s.getCam j := rfl
@[simp] theorem State.getStepper_setVirt (i j : Nat) (v : VirtualAxis) : (s.setVirt i v).getStepper j = s.getStepper j := rfl
@[simp] theorem State.getCap_setVirt (i j : Nat) (v : VirtualAxis) : (s.setVirt i v).getCap j = s.getCap j := rfl
@[simp] theorem State.getMbx_setVirt (i j : Nat) (v : VirtualAxis) : (s.setVirt i v).getMbx j = s.getMbx j := rfl
@[simp] theorem State.getSession_setVirt (i j : Nat) (v : VirtualAxis) : (s.setVirt i v).getSession j = s.getSession j := rfl
@[simp] theorem State.getArb_setVirt (i j : Nat) (v : VirtualAxis) : (s.setVirt i v).getArb j = s.getArb j := rfl
@[simp] theorem State.getFabPort_setVirt (i j : Nat) (v : VirtualAxis) : (s.setVirt i v).getFabPort j = s.getFabPort j := rfl
@[simp] theorem State.getEth_setVirt (i j : Nat) (v : VirtualAxis) : (s.setVirt i v).getEth j = s.getEth j := rfl
@[simp] theorem State.getCan_setVirt (i j : Nat) (v : VirtualAxis) : (s.setVirt i v).getCan j = s.getCan j := rfl

/-! ### remote -/

@[simp] theorem State.modRemote_def (i : Nat) (g : RemoteAxis → RemoteAxis) : s.modRemote i g = s.setRemote i (g (s.getRemote i)) := rfl
@[simp] theorem State.setRemote_remote (i : Nat) (v : RemoteAxis) : (s.setRemote i v).remote = mset s.remote i v {} := rfl
@[simp] theorem State.setRemote_pending (i : Nat) (v : RemoteAxis) : (s.setRemote i v).pending = s.pending := rfl
@[simp] theorem State.setRemote_tick (i : Nat) (v : RemoteAxis) : (s.setRemote i v).tick = s.tick := rfl
@[simp] theorem State.setRemote_freeCtr (i : Nat) (v : RemoteAxis) : (s.setRemote i v).freeCtr = s.freeCtr := rfl
@[simp] theorem State.setRemote_time (i : Nat) (v : RemoteAxis) : (s.setRemote i v).time = s.time := rfl
@[simp] theorem State.setRemote_tdc (i : Nat) (v : RemoteAxis) : (s.setRemote i v).tdc = s.tdc := rfl
@[simp] theorem State.setRemote_tdcCal (i : Nat) (v : RemoteAxis) : (s.setRemote i v).tdcCal = s.tdcCal := rfl
@[simp] theorem State.setRemote_cfg (i : Nat) (v : RemoteAxis) : (s.setRemote i v).cfg = s.cfg := rfl
@[simp] theorem State.setRemote_ctr (i : Nat) (v : RemoteAxis) : (s.setRemote i v).ctr = s.ctr := rfl
@[simp] theorem State.setRemote_pwm (i : Nat) (v : RemoteAxis) : (s.setRemote i v).pwm = s.pwm := rfl
@[simp] theorem State.setRemote_quad (i : Nat) (v : RemoteAxis) : (s.setRemote i v).quad = s.quad := rfl
@[simp] theorem State.setRemote_serial (i : Nat) (v : RemoteAxis) : (s.setRemote i v).serial = s.serial := rfl
@[simp] theorem State.setRemote_fb (i : Nat) (v : RemoteAxis) : (s.setRemote i v).fb = s.fb := rfl
@[simp] theorem State.setRemote_loop (i : Nat) (v : RemoteAxis) : (s.setRemote i v).loop = s.loop := rfl
@[simp] theorem State.setRemote_flags (i : Nat) (v : RemoteAxis) : (s.setRemote i v).flags = s.flags := rfl
@[simp] theorem State.setRemote_foc (i : Nat) (v : RemoteAxis) : (s.setRemote i v).foc = s.foc := rfl
@[simp] theorem State.setRemote_sections (i : Nat) (v : RemoteAxis) : (s.setRemote i v).sections = s.sections := rfl
@[simp] theorem State.setRemote_records (i : Nat) (v : RemoteAxis) : (s.setRemote i v).records = s.records := rfl
@[simp] theorem State.setRemote_dc (i : Nat) (v : RemoteAxis) : (s.setRemote i v).dc = s.dc := rfl
@[simp] theorem State.setRemote_engines (i : Nat) (v : RemoteAxis) : (s.setRemote i v).engines = s.engines := rfl
@[simp] theorem State.setRemote_bank (i : Nat) (v : RemoteAxis) : (s.setRemote i v).bank = s.bank := rfl
@[simp] theorem State.setRemote_waiters (i : Nat) (v : RemoteAxis) : (s.setRemote i v).waiters = s.waiters := rfl
@[simp] theorem State.setRemote_aux (i : Nat) (v : RemoteAxis) : (s.setRemote i v).aux = s.aux := rfl
@[simp] theorem State.setRemote_trails (i : Nat) (v : RemoteAxis) : (s.setRemote i v).trails = s.trails := rfl
@[simp] theorem State.setRemote_followers (i : Nat) (v : RemoteAxis) : (s.setRemote i v).followers = s.followers := rfl
@[simp] theorem State.setRemote_publishers (i : Nat) (v : RemoteAxis) : (s.setRemote i v).publishers = s.publishers := rfl
@[simp] theorem State.setRemote_virt (i : Nat) (v : RemoteAxis) : (s.setRemote i v).virt = s.virt := rfl
@[simp] theorem State.setRemote_cams (i : Nat) (v : RemoteAxis) : (s.setRemote i v).cams = s.cams := rfl
@[simp] theorem State.setRemote_steppers (i : Nat) (v : RemoteAxis) : (s.setRemote i v).steppers = s.steppers := rfl
@[simp] theorem State.setRemote_caps (i : Nat) (v : RemoteAxis) : (s.setRemote i v).caps = s.caps := rfl
@[simp] theorem State.setRemote_capMem (i : Nat) (v : RemoteAxis) : (s.setRemote i v).capMem = s.capMem := rfl
@[simp] theorem State.setRemote_mailboxes (i : Nat) (v : RemoteAxis) : (s.setRemote i v).mailboxes = s.mailboxes := rfl
@[simp] theorem State.setRemote_sessions (i : Nat) (v : RemoteAxis) : (s.setRemote i v).sessions = s.sessions := rfl
@[simp] theorem State.setRemote_host (i : Nat) (v : RemoteAxis) : (s.setRemote i v).host = s.host := rfl
@[simp] theorem State.setRemote_events (i : Nat) (v : RemoteAxis) : (s.setRemote i v).events = s.events := rfl
@[simp] theorem State.setRemote_locks (i : Nat) (v : RemoteAxis) : (s.setRemote i v).locks = s.locks := rfl
@[simp] theorem State.setRemote_sched (i : Nat) (v : RemoteAxis) : (s.setRemote i v).sched = s.sched := rfl
@[simp] theorem State.setRemote_arbs (i : Nat) (v : RemoteAxis) : (s.setRemote i v).arbs = s.arbs := rfl
@[simp] theorem State.setRemote_fabPorts (i : Nat) (v : RemoteAxis) : (s.setRemote i v).fabPorts = s.fabPorts := rfl
@[simp] theorem State.setRemote_fabric (i : Nat) (v : RemoteAxis) : (s.setRemote i v).fabric = s.fabric := rfl
@[simp] theorem State.setRemote_eth (i : Nat) (v : RemoteAxis) : (s.setRemote i v).eth = s.eth := rfl
@[simp] theorem State.setRemote_can (i : Nat) (v : RemoteAxis) : (s.setRemote i v).can = s.can := rfl
@[simp] theorem State.setRemote_fio (i : Nat) (v : RemoteAxis) : (s.setRemote i v).fio = s.fio := rfl
@[simp] theorem State.setRemote_safety (i : Nat) (v : RemoteAxis) : (s.setRemote i v).safety = s.safety := rfl
@[simp] theorem State.setRemote_power (i : Nat) (v : RemoteAxis) : (s.setRemote i v).power = s.power := rfl
theorem State.getRemote_setRemote_same (i : Nat) (v : RemoteAxis) (h : mwf {} s.remote = true) : (s.setRemote i v).getRemote i = v := mget_mset_same i v h
theorem State.getRemote_setRemote_ne {i j : Nat} (v : RemoteAxis) (h : j ≠ i) : (s.setRemote i v).getRemote j = s.getRemote j := mget_mset_ne s.remote v _ h
@[simp] theorem State.getTdc_setRemote (i j : Nat) (v : RemoteAxis) : (s.setRemote i v).getTdc j = s.getTdc j := rfl
@[simp] theorem State.getPwm_setRemote (i j : Nat) (v : RemoteAxis) : (s.setRemote i v).getPwm j = s.getPwm j := rfl
@[simp] theorem State.getQuad_setRemote (i j : Nat) (v : RemoteAxis) : (s.setRemote i v).getQuad j = s.getQuad j := rfl
@[simp] theorem State.getSerial_setRemote (i j : Nat) (v : RemoteAxis) : (s.setRemote i v).getSerial j = s.getSerial j := rfl
@[simp] theorem State.getFb_setRemote (i j : Nat) (v : RemoteAxis) : (s.setRemote i v).getFb j = s.getFb j := rfl
@[simp] theorem State.getLoop_setRemote (i j : Nat) (v : RemoteAxis) : (s.setRemote i v).getLoop j = s.getLoop j := rfl
@[simp] theorem State.getFlags_setRemote (i j : Nat) (v : RemoteAxis) : (s.setRemote i v).getFlags j = s.getFlags j := rfl
@[simp] theorem State.getFoc_setRemote (i j : Nat) (v : RemoteAxis) : (s.setRemote i v).getFoc j = s.getFoc j := rfl
@[simp] theorem State.getSection_setRemote (i j : Nat) (v : RemoteAxis) : (s.setRemote i v).getSection j = s.getSection j := rfl
@[simp] theorem State.getRecord_setRemote (i j : Nat) (v : RemoteAxis) : (s.setRemote i v).getRecord j = s.getRecord j := rfl
@[simp] theorem State.getDc_setRemote (i j : Nat) (v : RemoteAxis) : (s.setRemote i v).getDc j = s.getDc j := rfl
@[simp] theorem State.getEngine_setRemote (i j : Nat) (v : RemoteAxis) : (s.setRemote i v).getEngine j = s.getEngine j := rfl
@[simp] theorem State.getAux_setRemote (i j : Nat) (v : RemoteAxis) : (s.setRemote i v).getAux j = s.getAux j := rfl
@[simp] theorem State.getTrail_setRemote (i j : Nat) (v : RemoteAxis) : (s.setRemote i v).getTrail j = s.getTrail j := rfl
@[simp] theorem State.getFollower_setRemote (i j : Nat) (v : RemoteAxis) : (s.setRemote i v).getFollower j = s.getFollower j := rfl
@[simp] theorem State.getPublisher_setRemote (i j : Nat) (v : RemoteAxis) : (s.setRemote i v).getPublisher j = s.getPublisher j := rfl
@[simp] theorem State.getVirt_setRemote (i j : Nat) (v : RemoteAxis) : (s.setRemote i v).getVirt j = s.getVirt j := rfl
@[simp] theorem State.getCam_setRemote (i j : Nat) (v : RemoteAxis) : (s.setRemote i v).getCam j = s.getCam j := rfl
@[simp] theorem State.getStepper_setRemote (i j : Nat) (v : RemoteAxis) : (s.setRemote i v).getStepper j = s.getStepper j := rfl
@[simp] theorem State.getCap_setRemote (i j : Nat) (v : RemoteAxis) : (s.setRemote i v).getCap j = s.getCap j := rfl
@[simp] theorem State.getMbx_setRemote (i j : Nat) (v : RemoteAxis) : (s.setRemote i v).getMbx j = s.getMbx j := rfl
@[simp] theorem State.getSession_setRemote (i j : Nat) (v : RemoteAxis) : (s.setRemote i v).getSession j = s.getSession j := rfl
@[simp] theorem State.getArb_setRemote (i j : Nat) (v : RemoteAxis) : (s.setRemote i v).getArb j = s.getArb j := rfl
@[simp] theorem State.getFabPort_setRemote (i j : Nat) (v : RemoteAxis) : (s.setRemote i v).getFabPort j = s.getFabPort j := rfl
@[simp] theorem State.getEth_setRemote (i j : Nat) (v : RemoteAxis) : (s.setRemote i v).getEth j = s.getEth j := rfl
@[simp] theorem State.getCan_setRemote (i j : Nat) (v : RemoteAxis) : (s.setRemote i v).getCan j = s.getCan j := rfl

/-! ### cams -/

@[simp] theorem State.modCam_def (i : Nat) (g : CamTable → CamTable) : s.modCam i g = s.setCam i (g (s.getCam i)) := rfl
@[simp] theorem State.setCam_cams (i : Nat) (v : CamTable) : (s.setCam i v).cams = mset s.cams i v {} := rfl
@[simp] theorem State.setCam_pending (i : Nat) (v : CamTable) : (s.setCam i v).pending = s.pending := rfl
@[simp] theorem State.setCam_tick (i : Nat) (v : CamTable) : (s.setCam i v).tick = s.tick := rfl
@[simp] theorem State.setCam_freeCtr (i : Nat) (v : CamTable) : (s.setCam i v).freeCtr = s.freeCtr := rfl
@[simp] theorem State.setCam_time (i : Nat) (v : CamTable) : (s.setCam i v).time = s.time := rfl
@[simp] theorem State.setCam_tdc (i : Nat) (v : CamTable) : (s.setCam i v).tdc = s.tdc := rfl
@[simp] theorem State.setCam_tdcCal (i : Nat) (v : CamTable) : (s.setCam i v).tdcCal = s.tdcCal := rfl
@[simp] theorem State.setCam_cfg (i : Nat) (v : CamTable) : (s.setCam i v).cfg = s.cfg := rfl
@[simp] theorem State.setCam_ctr (i : Nat) (v : CamTable) : (s.setCam i v).ctr = s.ctr := rfl
@[simp] theorem State.setCam_pwm (i : Nat) (v : CamTable) : (s.setCam i v).pwm = s.pwm := rfl
@[simp] theorem State.setCam_quad (i : Nat) (v : CamTable) : (s.setCam i v).quad = s.quad := rfl
@[simp] theorem State.setCam_serial (i : Nat) (v : CamTable) : (s.setCam i v).serial = s.serial := rfl
@[simp] theorem State.setCam_fb (i : Nat) (v : CamTable) : (s.setCam i v).fb = s.fb := rfl
@[simp] theorem State.setCam_loop (i : Nat) (v : CamTable) : (s.setCam i v).loop = s.loop := rfl
@[simp] theorem State.setCam_flags (i : Nat) (v : CamTable) : (s.setCam i v).flags = s.flags := rfl
@[simp] theorem State.setCam_foc (i : Nat) (v : CamTable) : (s.setCam i v).foc = s.foc := rfl
@[simp] theorem State.setCam_sections (i : Nat) (v : CamTable) : (s.setCam i v).sections = s.sections := rfl
@[simp] theorem State.setCam_records (i : Nat) (v : CamTable) : (s.setCam i v).records = s.records := rfl
@[simp] theorem State.setCam_dc (i : Nat) (v : CamTable) : (s.setCam i v).dc = s.dc := rfl
@[simp] theorem State.setCam_engines (i : Nat) (v : CamTable) : (s.setCam i v).engines = s.engines := rfl
@[simp] theorem State.setCam_bank (i : Nat) (v : CamTable) : (s.setCam i v).bank = s.bank := rfl
@[simp] theorem State.setCam_waiters (i : Nat) (v : CamTable) : (s.setCam i v).waiters = s.waiters := rfl
@[simp] theorem State.setCam_aux (i : Nat) (v : CamTable) : (s.setCam i v).aux = s.aux := rfl
@[simp] theorem State.setCam_trails (i : Nat) (v : CamTable) : (s.setCam i v).trails = s.trails := rfl
@[simp] theorem State.setCam_followers (i : Nat) (v : CamTable) : (s.setCam i v).followers = s.followers := rfl
@[simp] theorem State.setCam_publishers (i : Nat) (v : CamTable) : (s.setCam i v).publishers = s.publishers := rfl
@[simp] theorem State.setCam_virt (i : Nat) (v : CamTable) : (s.setCam i v).virt = s.virt := rfl
@[simp] theorem State.setCam_remote (i : Nat) (v : CamTable) : (s.setCam i v).remote = s.remote := rfl
@[simp] theorem State.setCam_steppers (i : Nat) (v : CamTable) : (s.setCam i v).steppers = s.steppers := rfl
@[simp] theorem State.setCam_caps (i : Nat) (v : CamTable) : (s.setCam i v).caps = s.caps := rfl
@[simp] theorem State.setCam_capMem (i : Nat) (v : CamTable) : (s.setCam i v).capMem = s.capMem := rfl
@[simp] theorem State.setCam_mailboxes (i : Nat) (v : CamTable) : (s.setCam i v).mailboxes = s.mailboxes := rfl
@[simp] theorem State.setCam_sessions (i : Nat) (v : CamTable) : (s.setCam i v).sessions = s.sessions := rfl
@[simp] theorem State.setCam_host (i : Nat) (v : CamTable) : (s.setCam i v).host = s.host := rfl
@[simp] theorem State.setCam_events (i : Nat) (v : CamTable) : (s.setCam i v).events = s.events := rfl
@[simp] theorem State.setCam_locks (i : Nat) (v : CamTable) : (s.setCam i v).locks = s.locks := rfl
@[simp] theorem State.setCam_sched (i : Nat) (v : CamTable) : (s.setCam i v).sched = s.sched := rfl
@[simp] theorem State.setCam_arbs (i : Nat) (v : CamTable) : (s.setCam i v).arbs = s.arbs := rfl
@[simp] theorem State.setCam_fabPorts (i : Nat) (v : CamTable) : (s.setCam i v).fabPorts = s.fabPorts := rfl
@[simp] theorem State.setCam_fabric (i : Nat) (v : CamTable) : (s.setCam i v).fabric = s.fabric := rfl
@[simp] theorem State.setCam_eth (i : Nat) (v : CamTable) : (s.setCam i v).eth = s.eth := rfl
@[simp] theorem State.setCam_can (i : Nat) (v : CamTable) : (s.setCam i v).can = s.can := rfl
@[simp] theorem State.setCam_fio (i : Nat) (v : CamTable) : (s.setCam i v).fio = s.fio := rfl
@[simp] theorem State.setCam_safety (i : Nat) (v : CamTable) : (s.setCam i v).safety = s.safety := rfl
@[simp] theorem State.setCam_power (i : Nat) (v : CamTable) : (s.setCam i v).power = s.power := rfl
theorem State.getCam_setCam_same (i : Nat) (v : CamTable) (h : mwf {} s.cams = true) : (s.setCam i v).getCam i = v := mget_mset_same i v h
theorem State.getCam_setCam_ne {i j : Nat} (v : CamTable) (h : j ≠ i) : (s.setCam i v).getCam j = s.getCam j := mget_mset_ne s.cams v _ h
@[simp] theorem State.getTdc_setCam (i j : Nat) (v : CamTable) : (s.setCam i v).getTdc j = s.getTdc j := rfl
@[simp] theorem State.getPwm_setCam (i j : Nat) (v : CamTable) : (s.setCam i v).getPwm j = s.getPwm j := rfl
@[simp] theorem State.getQuad_setCam (i j : Nat) (v : CamTable) : (s.setCam i v).getQuad j = s.getQuad j := rfl
@[simp] theorem State.getSerial_setCam (i j : Nat) (v : CamTable) : (s.setCam i v).getSerial j = s.getSerial j := rfl
@[simp] theorem State.getFb_setCam (i j : Nat) (v : CamTable) : (s.setCam i v).getFb j = s.getFb j := rfl
@[simp] theorem State.getLoop_setCam (i j : Nat) (v : CamTable) : (s.setCam i v).getLoop j = s.getLoop j := rfl
@[simp] theorem State.getFlags_setCam (i j : Nat) (v : CamTable) : (s.setCam i v).getFlags j = s.getFlags j := rfl
@[simp] theorem State.getFoc_setCam (i j : Nat) (v : CamTable) : (s.setCam i v).getFoc j = s.getFoc j := rfl
@[simp] theorem State.getSection_setCam (i j : Nat) (v : CamTable) : (s.setCam i v).getSection j = s.getSection j := rfl
@[simp] theorem State.getRecord_setCam (i j : Nat) (v : CamTable) : (s.setCam i v).getRecord j = s.getRecord j := rfl
@[simp] theorem State.getDc_setCam (i j : Nat) (v : CamTable) : (s.setCam i v).getDc j = s.getDc j := rfl
@[simp] theorem State.getEngine_setCam (i j : Nat) (v : CamTable) : (s.setCam i v).getEngine j = s.getEngine j := rfl
@[simp] theorem State.getAux_setCam (i j : Nat) (v : CamTable) : (s.setCam i v).getAux j = s.getAux j := rfl
@[simp] theorem State.getTrail_setCam (i j : Nat) (v : CamTable) : (s.setCam i v).getTrail j = s.getTrail j := rfl
@[simp] theorem State.getFollower_setCam (i j : Nat) (v : CamTable) : (s.setCam i v).getFollower j = s.getFollower j := rfl
@[simp] theorem State.getPublisher_setCam (i j : Nat) (v : CamTable) : (s.setCam i v).getPublisher j = s.getPublisher j := rfl
@[simp] theorem State.getVirt_setCam (i j : Nat) (v : CamTable) : (s.setCam i v).getVirt j = s.getVirt j := rfl
@[simp] theorem State.getRemote_setCam (i j : Nat) (v : CamTable) : (s.setCam i v).getRemote j = s.getRemote j := rfl
@[simp] theorem State.getStepper_setCam (i j : Nat) (v : CamTable) : (s.setCam i v).getStepper j = s.getStepper j := rfl
@[simp] theorem State.getCap_setCam (i j : Nat) (v : CamTable) : (s.setCam i v).getCap j = s.getCap j := rfl
@[simp] theorem State.getMbx_setCam (i j : Nat) (v : CamTable) : (s.setCam i v).getMbx j = s.getMbx j := rfl
@[simp] theorem State.getSession_setCam (i j : Nat) (v : CamTable) : (s.setCam i v).getSession j = s.getSession j := rfl
@[simp] theorem State.getArb_setCam (i j : Nat) (v : CamTable) : (s.setCam i v).getArb j = s.getArb j := rfl
@[simp] theorem State.getFabPort_setCam (i j : Nat) (v : CamTable) : (s.setCam i v).getFabPort j = s.getFabPort j := rfl
@[simp] theorem State.getEth_setCam (i j : Nat) (v : CamTable) : (s.setCam i v).getEth j = s.getEth j := rfl
@[simp] theorem State.getCan_setCam (i j : Nat) (v : CamTable) : (s.setCam i v).getCan j = s.getCan j := rfl

/-! ### steppers -/

@[simp] theorem State.modStepper_def (i : Nat) (g : Stepper → Stepper) : s.modStepper i g = s.setStepper i (g (s.getStepper i)) := rfl
@[simp] theorem State.setStepper_steppers (i : Nat) (v : Stepper) : (s.setStepper i v).steppers = mset s.steppers i v {} := rfl
@[simp] theorem State.setStepper_pending (i : Nat) (v : Stepper) : (s.setStepper i v).pending = s.pending := rfl
@[simp] theorem State.setStepper_tick (i : Nat) (v : Stepper) : (s.setStepper i v).tick = s.tick := rfl
@[simp] theorem State.setStepper_freeCtr (i : Nat) (v : Stepper) : (s.setStepper i v).freeCtr = s.freeCtr := rfl
@[simp] theorem State.setStepper_time (i : Nat) (v : Stepper) : (s.setStepper i v).time = s.time := rfl
@[simp] theorem State.setStepper_tdc (i : Nat) (v : Stepper) : (s.setStepper i v).tdc = s.tdc := rfl
@[simp] theorem State.setStepper_tdcCal (i : Nat) (v : Stepper) : (s.setStepper i v).tdcCal = s.tdcCal := rfl
@[simp] theorem State.setStepper_cfg (i : Nat) (v : Stepper) : (s.setStepper i v).cfg = s.cfg := rfl
@[simp] theorem State.setStepper_ctr (i : Nat) (v : Stepper) : (s.setStepper i v).ctr = s.ctr := rfl
@[simp] theorem State.setStepper_pwm (i : Nat) (v : Stepper) : (s.setStepper i v).pwm = s.pwm := rfl
@[simp] theorem State.setStepper_quad (i : Nat) (v : Stepper) : (s.setStepper i v).quad = s.quad := rfl
@[simp] theorem State.setStepper_serial (i : Nat) (v : Stepper) : (s.setStepper i v).serial = s.serial := rfl
@[simp] theorem State.setStepper_fb (i : Nat) (v : Stepper) : (s.setStepper i v).fb = s.fb := rfl
@[simp] theorem State.setStepper_loop (i : Nat) (v : Stepper) : (s.setStepper i v).loop = s.loop := rfl
@[simp] theorem State.setStepper_flags (i : Nat) (v : Stepper) : (s.setStepper i v).flags = s.flags := rfl
@[simp] theorem State.setStepper_foc (i : Nat) (v : Stepper) : (s.setStepper i v).foc = s.foc := rfl
@[simp] theorem State.setStepper_sections (i : Nat) (v : Stepper) : (s.setStepper i v).sections = s.sections := rfl
@[simp] theorem State.setStepper_records (i : Nat) (v : Stepper) : (s.setStepper i v).records = s.records := rfl
@[simp] theorem State.setStepper_dc (i : Nat) (v : Stepper) : (s.setStepper i v).dc = s.dc := rfl
@[simp] theorem State.setStepper_engines (i : Nat) (v : Stepper) : (s.setStepper i v).engines = s.engines := rfl
@[simp] theorem State.setStepper_bank (i : Nat) (v : Stepper) : (s.setStepper i v).bank = s.bank := rfl
@[simp] theorem State.setStepper_waiters (i : Nat) (v : Stepper) : (s.setStepper i v).waiters = s.waiters := rfl
@[simp] theorem State.setStepper_aux (i : Nat) (v : Stepper) : (s.setStepper i v).aux = s.aux := rfl
@[simp] theorem State.setStepper_trails (i : Nat) (v : Stepper) : (s.setStepper i v).trails = s.trails := rfl
@[simp] theorem State.setStepper_followers (i : Nat) (v : Stepper) : (s.setStepper i v).followers = s.followers := rfl
@[simp] theorem State.setStepper_publishers (i : Nat) (v : Stepper) : (s.setStepper i v).publishers = s.publishers := rfl
@[simp] theorem State.setStepper_virt (i : Nat) (v : Stepper) : (s.setStepper i v).virt = s.virt := rfl
@[simp] theorem State.setStepper_remote (i : Nat) (v : Stepper) : (s.setStepper i v).remote = s.remote := rfl
@[simp] theorem State.setStepper_cams (i : Nat) (v : Stepper) : (s.setStepper i v).cams = s.cams := rfl
@[simp] theorem State.setStepper_caps (i : Nat) (v : Stepper) : (s.setStepper i v).caps = s.caps := rfl
@[simp] theorem State.setStepper_capMem (i : Nat) (v : Stepper) : (s.setStepper i v).capMem = s.capMem := rfl
@[simp] theorem State.setStepper_mailboxes (i : Nat) (v : Stepper) : (s.setStepper i v).mailboxes = s.mailboxes := rfl
@[simp] theorem State.setStepper_sessions (i : Nat) (v : Stepper) : (s.setStepper i v).sessions = s.sessions := rfl
@[simp] theorem State.setStepper_host (i : Nat) (v : Stepper) : (s.setStepper i v).host = s.host := rfl
@[simp] theorem State.setStepper_events (i : Nat) (v : Stepper) : (s.setStepper i v).events = s.events := rfl
@[simp] theorem State.setStepper_locks (i : Nat) (v : Stepper) : (s.setStepper i v).locks = s.locks := rfl
@[simp] theorem State.setStepper_sched (i : Nat) (v : Stepper) : (s.setStepper i v).sched = s.sched := rfl
@[simp] theorem State.setStepper_arbs (i : Nat) (v : Stepper) : (s.setStepper i v).arbs = s.arbs := rfl
@[simp] theorem State.setStepper_fabPorts (i : Nat) (v : Stepper) : (s.setStepper i v).fabPorts = s.fabPorts := rfl
@[simp] theorem State.setStepper_fabric (i : Nat) (v : Stepper) : (s.setStepper i v).fabric = s.fabric := rfl
@[simp] theorem State.setStepper_eth (i : Nat) (v : Stepper) : (s.setStepper i v).eth = s.eth := rfl
@[simp] theorem State.setStepper_can (i : Nat) (v : Stepper) : (s.setStepper i v).can = s.can := rfl
@[simp] theorem State.setStepper_fio (i : Nat) (v : Stepper) : (s.setStepper i v).fio = s.fio := rfl
@[simp] theorem State.setStepper_safety (i : Nat) (v : Stepper) : (s.setStepper i v).safety = s.safety := rfl
@[simp] theorem State.setStepper_power (i : Nat) (v : Stepper) : (s.setStepper i v).power = s.power := rfl
theorem State.getStepper_setStepper_same (i : Nat) (v : Stepper) (h : mwf {} s.steppers = true) : (s.setStepper i v).getStepper i = v := mget_mset_same i v h
theorem State.getStepper_setStepper_ne {i j : Nat} (v : Stepper) (h : j ≠ i) : (s.setStepper i v).getStepper j = s.getStepper j := mget_mset_ne s.steppers v _ h
@[simp] theorem State.getTdc_setStepper (i j : Nat) (v : Stepper) : (s.setStepper i v).getTdc j = s.getTdc j := rfl
@[simp] theorem State.getPwm_setStepper (i j : Nat) (v : Stepper) : (s.setStepper i v).getPwm j = s.getPwm j := rfl
@[simp] theorem State.getQuad_setStepper (i j : Nat) (v : Stepper) : (s.setStepper i v).getQuad j = s.getQuad j := rfl
@[simp] theorem State.getSerial_setStepper (i j : Nat) (v : Stepper) : (s.setStepper i v).getSerial j = s.getSerial j := rfl
@[simp] theorem State.getFb_setStepper (i j : Nat) (v : Stepper) : (s.setStepper i v).getFb j = s.getFb j := rfl
@[simp] theorem State.getLoop_setStepper (i j : Nat) (v : Stepper) : (s.setStepper i v).getLoop j = s.getLoop j := rfl
@[simp] theorem State.getFlags_setStepper (i j : Nat) (v : Stepper) : (s.setStepper i v).getFlags j = s.getFlags j := rfl
@[simp] theorem State.getFoc_setStepper (i j : Nat) (v : Stepper) : (s.setStepper i v).getFoc j = s.getFoc j := rfl
@[simp] theorem State.getSection_setStepper (i j : Nat) (v : Stepper) : (s.setStepper i v).getSection j = s.getSection j := rfl
@[simp] theorem State.getRecord_setStepper (i j : Nat) (v : Stepper) : (s.setStepper i v).getRecord j = s.getRecord j := rfl
@[simp] theorem State.getDc_setStepper (i j : Nat) (v : Stepper) : (s.setStepper i v).getDc j = s.getDc j := rfl
@[simp] theorem State.getEngine_setStepper (i j : Nat) (v : Stepper) : (s.setStepper i v).getEngine j = s.getEngine j := rfl
@[simp] theorem State.getAux_setStepper (i j : Nat) (v : Stepper) : (s.setStepper i v).getAux j = s.getAux j := rfl
@[simp] theorem State.getTrail_setStepper (i j : Nat) (v : Stepper) : (s.setStepper i v).getTrail j = s.getTrail j := rfl
@[simp] theorem State.getFollower_setStepper (i j : Nat) (v : Stepper) : (s.setStepper i v).getFollower j = s.getFollower j := rfl
@[simp] theorem State.getPublisher_setStepper (i j : Nat) (v : Stepper) : (s.setStepper i v).getPublisher j = s.getPublisher j := rfl
@[simp] theorem State.getVirt_setStepper (i j : Nat) (v : Stepper) : (s.setStepper i v).getVirt j = s.getVirt j := rfl
@[simp] theorem State.getRemote_setStepper (i j : Nat) (v : Stepper) : (s.setStepper i v).getRemote j = s.getRemote j := rfl
@[simp] theorem State.getCam_setStepper (i j : Nat) (v : Stepper) : (s.setStepper i v).getCam j = s.getCam j := rfl
@[simp] theorem State.getCap_setStepper (i j : Nat) (v : Stepper) : (s.setStepper i v).getCap j = s.getCap j := rfl
@[simp] theorem State.getMbx_setStepper (i j : Nat) (v : Stepper) : (s.setStepper i v).getMbx j = s.getMbx j := rfl
@[simp] theorem State.getSession_setStepper (i j : Nat) (v : Stepper) : (s.setStepper i v).getSession j = s.getSession j := rfl
@[simp] theorem State.getArb_setStepper (i j : Nat) (v : Stepper) : (s.setStepper i v).getArb j = s.getArb j := rfl
@[simp] theorem State.getFabPort_setStepper (i j : Nat) (v : Stepper) : (s.setStepper i v).getFabPort j = s.getFabPort j := rfl
@[simp] theorem State.getEth_setStepper (i j : Nat) (v : Stepper) : (s.setStepper i v).getEth j = s.getEth j := rfl
@[simp] theorem State.getCan_setStepper (i j : Nat) (v : Stepper) : (s.setStepper i v).getCan j = s.getCan j := rfl

/-! ### caps -/

@[simp] theorem State.modCap_def (i : Nat) (g : CapChannel → CapChannel) : s.modCap i g = s.setCap i (g (s.getCap i)) := rfl
@[simp] theorem State.setCap_caps (i : Nat) (v : CapChannel) : (s.setCap i v).caps = mset s.caps i v {} := rfl
@[simp] theorem State.setCap_pending (i : Nat) (v : CapChannel) : (s.setCap i v).pending = s.pending := rfl
@[simp] theorem State.setCap_tick (i : Nat) (v : CapChannel) : (s.setCap i v).tick = s.tick := rfl
@[simp] theorem State.setCap_freeCtr (i : Nat) (v : CapChannel) : (s.setCap i v).freeCtr = s.freeCtr := rfl
@[simp] theorem State.setCap_time (i : Nat) (v : CapChannel) : (s.setCap i v).time = s.time := rfl
@[simp] theorem State.setCap_tdc (i : Nat) (v : CapChannel) : (s.setCap i v).tdc = s.tdc := rfl
@[simp] theorem State.setCap_tdcCal (i : Nat) (v : CapChannel) : (s.setCap i v).tdcCal = s.tdcCal := rfl
@[simp] theorem State.setCap_cfg (i : Nat) (v : CapChannel) : (s.setCap i v).cfg = s.cfg := rfl
@[simp] theorem State.setCap_ctr (i : Nat) (v : CapChannel) : (s.setCap i v).ctr = s.ctr := rfl
@[simp] theorem State.setCap_pwm (i : Nat) (v : CapChannel) : (s.setCap i v).pwm = s.pwm := rfl
@[simp] theorem State.setCap_quad (i : Nat) (v : CapChannel) : (s.setCap i v).quad = s.quad := rfl
@[simp] theorem State.setCap_serial (i : Nat) (v : CapChannel) : (s.setCap i v).serial = s.serial := rfl
@[simp] theorem State.setCap_fb (i : Nat) (v : CapChannel) : (s.setCap i v).fb = s.fb := rfl
@[simp] theorem State.setCap_loop (i : Nat) (v : CapChannel) : (s.setCap i v).loop = s.loop := rfl
@[simp] theorem State.setCap_flags (i : Nat) (v : CapChannel) : (s.setCap i v).flags = s.flags := rfl
@[simp] theorem State.setCap_foc (i : Nat) (v : CapChannel) : (s.setCap i v).foc = s.foc := rfl
@[simp] theorem State.setCap_sections (i : Nat) (v : CapChannel) : (s.setCap i v).sections = s.sections := rfl
@[simp] theorem State.setCap_records (i : Nat) (v : CapChannel) : (s.setCap i v).records = s.records := rfl
@[simp] theorem State.setCap_dc (i : Nat) (v : CapChannel) : (s.setCap i v).dc = s.dc := rfl
@[simp] theorem State.setCap_engines (i : Nat) (v : CapChannel) : (s.setCap i v).engines = s.engines := rfl
@[simp] theorem State.setCap_bank (i : Nat) (v : CapChannel) : (s.setCap i v).bank = s.bank := rfl
@[simp] theorem State.setCap_waiters (i : Nat) (v : CapChannel) : (s.setCap i v).waiters = s.waiters := rfl
@[simp] theorem State.setCap_aux (i : Nat) (v : CapChannel) : (s.setCap i v).aux = s.aux := rfl
@[simp] theorem State.setCap_trails (i : Nat) (v : CapChannel) : (s.setCap i v).trails = s.trails := rfl
@[simp] theorem State.setCap_followers (i : Nat) (v : CapChannel) : (s.setCap i v).followers = s.followers := rfl
@[simp] theorem State.setCap_publishers (i : Nat) (v : CapChannel) : (s.setCap i v).publishers = s.publishers := rfl
@[simp] theorem State.setCap_virt (i : Nat) (v : CapChannel) : (s.setCap i v).virt = s.virt := rfl
@[simp] theorem State.setCap_remote (i : Nat) (v : CapChannel) : (s.setCap i v).remote = s.remote := rfl
@[simp] theorem State.setCap_cams (i : Nat) (v : CapChannel) : (s.setCap i v).cams = s.cams := rfl
@[simp] theorem State.setCap_steppers (i : Nat) (v : CapChannel) : (s.setCap i v).steppers = s.steppers := rfl
@[simp] theorem State.setCap_capMem (i : Nat) (v : CapChannel) : (s.setCap i v).capMem = s.capMem := rfl
@[simp] theorem State.setCap_mailboxes (i : Nat) (v : CapChannel) : (s.setCap i v).mailboxes = s.mailboxes := rfl
@[simp] theorem State.setCap_sessions (i : Nat) (v : CapChannel) : (s.setCap i v).sessions = s.sessions := rfl
@[simp] theorem State.setCap_host (i : Nat) (v : CapChannel) : (s.setCap i v).host = s.host := rfl
@[simp] theorem State.setCap_events (i : Nat) (v : CapChannel) : (s.setCap i v).events = s.events := rfl
@[simp] theorem State.setCap_locks (i : Nat) (v : CapChannel) : (s.setCap i v).locks = s.locks := rfl
@[simp] theorem State.setCap_sched (i : Nat) (v : CapChannel) : (s.setCap i v).sched = s.sched := rfl
@[simp] theorem State.setCap_arbs (i : Nat) (v : CapChannel) : (s.setCap i v).arbs = s.arbs := rfl
@[simp] theorem State.setCap_fabPorts (i : Nat) (v : CapChannel) : (s.setCap i v).fabPorts = s.fabPorts := rfl
@[simp] theorem State.setCap_fabric (i : Nat) (v : CapChannel) : (s.setCap i v).fabric = s.fabric := rfl
@[simp] theorem State.setCap_eth (i : Nat) (v : CapChannel) : (s.setCap i v).eth = s.eth := rfl
@[simp] theorem State.setCap_can (i : Nat) (v : CapChannel) : (s.setCap i v).can = s.can := rfl
@[simp] theorem State.setCap_fio (i : Nat) (v : CapChannel) : (s.setCap i v).fio = s.fio := rfl
@[simp] theorem State.setCap_safety (i : Nat) (v : CapChannel) : (s.setCap i v).safety = s.safety := rfl
@[simp] theorem State.setCap_power (i : Nat) (v : CapChannel) : (s.setCap i v).power = s.power := rfl
theorem State.getCap_setCap_same (i : Nat) (v : CapChannel) (h : mwf {} s.caps = true) : (s.setCap i v).getCap i = v := mget_mset_same i v h
theorem State.getCap_setCap_ne {i j : Nat} (v : CapChannel) (h : j ≠ i) : (s.setCap i v).getCap j = s.getCap j := mget_mset_ne s.caps v _ h
@[simp] theorem State.getTdc_setCap (i j : Nat) (v : CapChannel) : (s.setCap i v).getTdc j = s.getTdc j := rfl
@[simp] theorem State.getPwm_setCap (i j : Nat) (v : CapChannel) : (s.setCap i v).getPwm j = s.getPwm j := rfl
@[simp] theorem State.getQuad_setCap (i j : Nat) (v : CapChannel) : (s.setCap i v).getQuad j = s.getQuad j := rfl
@[simp] theorem State.getSerial_setCap (i j : Nat) (v : CapChannel) : (s.setCap i v).getSerial j = s.getSerial j := rfl
@[simp] theorem State.getFb_setCap (i j : Nat) (v : CapChannel) : (s.setCap i v).getFb j = s.getFb j := rfl
@[simp] theorem State.getLoop_setCap (i j : Nat) (v : CapChannel) : (s.setCap i v).getLoop j = s.getLoop j := rfl
@[simp] theorem State.getFlags_setCap (i j : Nat) (v : CapChannel) : (s.setCap i v).getFlags j = s.getFlags j := rfl
@[simp] theorem State.getFoc_setCap (i j : Nat) (v : CapChannel) : (s.setCap i v).getFoc j = s.getFoc j := rfl
@[simp] theorem State.getSection_setCap (i j : Nat) (v : CapChannel) : (s.setCap i v).getSection j = s.getSection j := rfl
@[simp] theorem State.getRecord_setCap (i j : Nat) (v : CapChannel) : (s.setCap i v).getRecord j = s.getRecord j := rfl
@[simp] theorem State.getDc_setCap (i j : Nat) (v : CapChannel) : (s.setCap i v).getDc j = s.getDc j := rfl
@[simp] theorem State.getEngine_setCap (i j : Nat) (v : CapChannel) : (s.setCap i v).getEngine j = s.getEngine j := rfl
@[simp] theorem State.getAux_setCap (i j : Nat) (v : CapChannel) : (s.setCap i v).getAux j = s.getAux j := rfl
@[simp] theorem State.getTrail_setCap (i j : Nat) (v : CapChannel) : (s.setCap i v).getTrail j = s.getTrail j := rfl
@[simp] theorem State.getFollower_setCap (i j : Nat) (v : CapChannel) : (s.setCap i v).getFollower j = s.getFollower j := rfl
@[simp] theorem State.getPublisher_setCap (i j : Nat) (v : CapChannel) : (s.setCap i v).getPublisher j = s.getPublisher j := rfl
@[simp] theorem State.getVirt_setCap (i j : Nat) (v : CapChannel) : (s.setCap i v).getVirt j = s.getVirt j := rfl
@[simp] theorem State.getRemote_setCap (i j : Nat) (v : CapChannel) : (s.setCap i v).getRemote j = s.getRemote j := rfl
@[simp] theorem State.getCam_setCap (i j : Nat) (v : CapChannel) : (s.setCap i v).getCam j = s.getCam j := rfl
@[simp] theorem State.getStepper_setCap (i j : Nat) (v : CapChannel) : (s.setCap i v).getStepper j = s.getStepper j := rfl
@[simp] theorem State.getMbx_setCap (i j : Nat) (v : CapChannel) : (s.setCap i v).getMbx j = s.getMbx j := rfl
@[simp] theorem State.getSession_setCap (i j : Nat) (v : CapChannel) : (s.setCap i v).getSession j = s.getSession j := rfl
@[simp] theorem State.getArb_setCap (i j : Nat) (v : CapChannel) : (s.setCap i v).getArb j = s.getArb j := rfl
@[simp] theorem State.getFabPort_setCap (i j : Nat) (v : CapChannel) : (s.setCap i v).getFabPort j = s.getFabPort j := rfl
@[simp] theorem State.getEth_setCap (i j : Nat) (v : CapChannel) : (s.setCap i v).getEth j = s.getEth j := rfl
@[simp] theorem State.getCan_setCap (i j : Nat) (v : CapChannel) : (s.setCap i v).getCan j = s.getCan j := rfl

/-! ### mailboxes -/

@[simp] theorem State.modMbx_def (i : Nat) (g : Mailbox → Mailbox) : s.modMbx i g = s.setMbx i (g (s.getMbx i)) := rfl
@[simp] theorem State.setMbx_mailboxes (i : Nat) (v : Mailbox) : (s.setMbx i v).mailboxes = mset s.mailboxes i v {} := rfl
@[simp] theorem State.setMbx_pending (i : Nat) (v : Mailbox) : (s.setMbx i v).pending = s.pending := rfl
@[simp] theorem State.setMbx_tick (i : Nat) (v : Mailbox) : (s.setMbx i v).tick = s.tick := rfl
@[simp] theorem State.setMbx_freeCtr (i : Nat) (v : Mailbox) : (s.setMbx i v).freeCtr = s.freeCtr := rfl
@[simp] theorem State.setMbx_time (i : Nat) (v : Mailbox) : (s.setMbx i v).time = s.time := rfl
@[simp] theorem State.setMbx_tdc (i : Nat) (v : Mailbox) : (s.setMbx i v).tdc = s.tdc := rfl
@[simp] theorem State.setMbx_tdcCal (i : Nat) (v : Mailbox) : (s.setMbx i v).tdcCal = s.tdcCal := rfl
@[simp] theorem State.setMbx_cfg (i : Nat) (v : Mailbox) : (s.setMbx i v).cfg = s.cfg := rfl
@[simp] theorem State.setMbx_ctr (i : Nat) (v : Mailbox) : (s.setMbx i v).ctr = s.ctr := rfl
@[simp] theorem State.setMbx_pwm (i : Nat) (v : Mailbox) : (s.setMbx i v).pwm = s.pwm := rfl
@[simp] theorem State.setMbx_quad (i : Nat) (v : Mailbox) : (s.setMbx i v).quad = s.quad := rfl
@[simp] theorem State.setMbx_serial (i : Nat) (v : Mailbox) : (s.setMbx i v).serial = s.serial := rfl
@[simp] theorem State.setMbx_fb (i : Nat) (v : Mailbox) : (s.setMbx i v).fb = s.fb := rfl
@[simp] theorem State.setMbx_loop (i : Nat) (v : Mailbox) : (s.setMbx i v).loop = s.loop := rfl
@[simp] theorem State.setMbx_flags (i : Nat) (v : Mailbox) : (s.setMbx i v).flags = s.flags := rfl
@[simp] theorem State.setMbx_foc (i : Nat) (v : Mailbox) : (s.setMbx i v).foc = s.foc := rfl
@[simp] theorem State.setMbx_sections (i : Nat) (v : Mailbox) : (s.setMbx i v).sections = s.sections := rfl
@[simp] theorem State.setMbx_records (i : Nat) (v : Mailbox) : (s.setMbx i v).records = s.records := rfl
@[simp] theorem State.setMbx_dc (i : Nat) (v : Mailbox) : (s.setMbx i v).dc = s.dc := rfl
@[simp] theorem State.setMbx_engines (i : Nat) (v : Mailbox) : (s.setMbx i v).engines = s.engines := rfl
@[simp] theorem State.setMbx_bank (i : Nat) (v : Mailbox) : (s.setMbx i v).bank = s.bank := rfl
@[simp] theorem State.setMbx_waiters (i : Nat) (v : Mailbox) : (s.setMbx i v).waiters = s.waiters := rfl
@[simp] theorem State.setMbx_aux (i : Nat) (v : Mailbox) : (s.setMbx i v).aux = s.aux := rfl
@[simp] theorem State.setMbx_trails (i : Nat) (v : Mailbox) : (s.setMbx i v).trails = s.trails := rfl
@[simp] theorem State.setMbx_followers (i : Nat) (v : Mailbox) : (s.setMbx i v).followers = s.followers := rfl
@[simp] theorem State.setMbx_publishers (i : Nat) (v : Mailbox) : (s.setMbx i v).publishers = s.publishers := rfl
@[simp] theorem State.setMbx_virt (i : Nat) (v : Mailbox) : (s.setMbx i v).virt = s.virt := rfl
@[simp] theorem State.setMbx_remote (i : Nat) (v : Mailbox) : (s.setMbx i v).remote = s.remote := rfl
@[simp] theorem State.setMbx_cams (i : Nat) (v : Mailbox) : (s.setMbx i v).cams = s.cams := rfl
@[simp] theorem State.setMbx_steppers (i : Nat) (v : Mailbox) : (s.setMbx i v).steppers = s.steppers := rfl
@[simp] theorem State.setMbx_caps (i : Nat) (v : Mailbox) : (s.setMbx i v).caps = s.caps := rfl
@[simp] theorem State.setMbx_capMem (i : Nat) (v : Mailbox) : (s.setMbx i v).capMem = s.capMem := rfl
@[simp] theorem State.setMbx_sessions (i : Nat) (v : Mailbox) : (s.setMbx i v).sessions = s.sessions := rfl
@[simp] theorem State.setMbx_host (i : Nat) (v : Mailbox) : (s.setMbx i v).host = s.host := rfl
@[simp] theorem State.setMbx_events (i : Nat) (v : Mailbox) : (s.setMbx i v).events = s.events := rfl
@[simp] theorem State.setMbx_locks (i : Nat) (v : Mailbox) : (s.setMbx i v).locks = s.locks := rfl
@[simp] theorem State.setMbx_sched (i : Nat) (v : Mailbox) : (s.setMbx i v).sched = s.sched := rfl
@[simp] theorem State.setMbx_arbs (i : Nat) (v : Mailbox) : (s.setMbx i v).arbs = s.arbs := rfl
@[simp] theorem State.setMbx_fabPorts (i : Nat) (v : Mailbox) : (s.setMbx i v).fabPorts = s.fabPorts := rfl
@[simp] theorem State.setMbx_fabric (i : Nat) (v : Mailbox) : (s.setMbx i v).fabric = s.fabric := rfl
@[simp] theorem State.setMbx_eth (i : Nat) (v : Mailbox) : (s.setMbx i v).eth = s.eth := rfl
@[simp] theorem State.setMbx_can (i : Nat) (v : Mailbox) : (s.setMbx i v).can = s.can := rfl
@[simp] theorem State.setMbx_fio (i : Nat) (v : Mailbox) : (s.setMbx i v).fio = s.fio := rfl
@[simp] theorem State.setMbx_safety (i : Nat) (v : Mailbox) : (s.setMbx i v).safety = s.safety := rfl
@[simp] theorem State.setMbx_power (i : Nat) (v : Mailbox) : (s.setMbx i v).power = s.power := rfl
theorem State.getMbx_setMbx_same (i : Nat) (v : Mailbox) (h : mwf {} s.mailboxes = true) : (s.setMbx i v).getMbx i = v := mget_mset_same i v h
theorem State.getMbx_setMbx_ne {i j : Nat} (v : Mailbox) (h : j ≠ i) : (s.setMbx i v).getMbx j = s.getMbx j := mget_mset_ne s.mailboxes v _ h
@[simp] theorem State.getTdc_setMbx (i j : Nat) (v : Mailbox) : (s.setMbx i v).getTdc j = s.getTdc j := rfl
@[simp] theorem State.getPwm_setMbx (i j : Nat) (v : Mailbox) : (s.setMbx i v).getPwm j = s.getPwm j := rfl
@[simp] theorem State.getQuad_setMbx (i j : Nat) (v : Mailbox) : (s.setMbx i v).getQuad j = s.getQuad j := rfl
@[simp] theorem State.getSerial_setMbx (i j : Nat) (v : Mailbox) : (s.setMbx i v).getSerial j = s.getSerial j := rfl
@[simp] theorem State.getFb_setMbx (i j : Nat) (v : Mailbox) : (s.setMbx i v).getFb j = s.getFb j := rfl
@[simp] theorem State.getLoop_setMbx (i j : Nat) (v : Mailbox) : (s.setMbx i v).getLoop j = s.getLoop j := rfl
@[simp] theorem State.getFlags_setMbx (i j : Nat) (v : Mailbox) : (s.setMbx i v).getFlags j = s.getFlags j := rfl
@[simp] theorem State.getFoc_setMbx (i j : Nat) (v : Mailbox) : (s.setMbx i v).getFoc j = s.getFoc j := rfl
@[simp] theorem State.getSection_setMbx (i j : Nat) (v : Mailbox) : (s.setMbx i v).getSection j = s.getSection j := rfl
@[simp] theorem State.getRecord_setMbx (i j : Nat) (v : Mailbox) : (s.setMbx i v).getRecord j = s.getRecord j := rfl
@[simp] theorem State.getDc_setMbx (i j : Nat) (v : Mailbox) : (s.setMbx i v).getDc j = s.getDc j := rfl
@[simp] theorem State.getEngine_setMbx (i j : Nat) (v : Mailbox) : (s.setMbx i v).getEngine j = s.getEngine j := rfl
@[simp] theorem State.getAux_setMbx (i j : Nat) (v : Mailbox) : (s.setMbx i v).getAux j = s.getAux j := rfl
@[simp] theorem State.getTrail_setMbx (i j : Nat) (v : Mailbox) : (s.setMbx i v).getTrail j = s.getTrail j := rfl
@[simp] theorem State.getFollower_setMbx (i j : Nat) (v : Mailbox) : (s.setMbx i v).getFollower j = s.getFollower j := rfl
@[simp] theorem State.getPublisher_setMbx (i j : Nat) (v : Mailbox) : (s.setMbx i v).getPublisher j = s.getPublisher j := rfl
@[simp] theorem State.getVirt_setMbx (i j : Nat) (v : Mailbox) : (s.setMbx i v).getVirt j = s.getVirt j := rfl
@[simp] theorem State.getRemote_setMbx (i j : Nat) (v : Mailbox) : (s.setMbx i v).getRemote j = s.getRemote j := rfl
@[simp] theorem State.getCam_setMbx (i j : Nat) (v : Mailbox) : (s.setMbx i v).getCam j = s.getCam j := rfl
@[simp] theorem State.getStepper_setMbx (i j : Nat) (v : Mailbox) : (s.setMbx i v).getStepper j = s.getStepper j := rfl
@[simp] theorem State.getCap_setMbx (i j : Nat) (v : Mailbox) : (s.setMbx i v).getCap j = s.getCap j := rfl
@[simp] theorem State.getSession_setMbx (i j : Nat) (v : Mailbox) : (s.setMbx i v).getSession j = s.getSession j := rfl
@[simp] theorem State.getArb_setMbx (i j : Nat) (v : Mailbox) : (s.setMbx i v).getArb j = s.getArb j := rfl
@[simp] theorem State.getFabPort_setMbx (i j : Nat) (v : Mailbox) : (s.setMbx i v).getFabPort j = s.getFabPort j := rfl
@[simp] theorem State.getEth_setMbx (i j : Nat) (v : Mailbox) : (s.setMbx i v).getEth j = s.getEth j := rfl
@[simp] theorem State.getCan_setMbx (i j : Nat) (v : Mailbox) : (s.setMbx i v).getCan j = s.getCan j := rfl

/-! ### sessions -/

@[simp] theorem State.modSession_def (i : Nat) (g : (Option Session) → (Option Session)) : s.modSession i g = s.setSession i (g (s.getSession i)) := rfl
@[simp] theorem State.setSession_sessions (i : Nat) (v : (Option Session)) : (s.setSession i v).sessions = mset s.sessions i v none := rfl
@[simp] theorem State.setSession_pending (i : Nat) (v : (Option Session)) : (s.setSession i v).pending = s.pending := rfl
@[simp] theorem State.setSession_tick (i : Nat) (v : (Option Session)) : (s.setSession i v).tick = s.tick := rfl
@[simp] theorem State.setSession_freeCtr (i : Nat) (v : (Option Session)) : (s.setSession i v).freeCtr = s.freeCtr := rfl
@[simp] theorem State.setSession_time (i : Nat) (v : (Option Session)) : (s.setSession i v).time = s.time := rfl
@[simp] theorem State.setSession_tdc (i : Nat) (v : (Option Session)) : (s.setSession i v).tdc = s.tdc := rfl
@[simp] theorem State.setSession_tdcCal (i : Nat) (v : (Option Session)) : (s.setSession i v).tdcCal = s.tdcCal := rfl
@[simp] theorem State.setSession_cfg (i : Nat) (v : (Option Session)) : (s.setSession i v).cfg = s.cfg := rfl
@[simp] theorem State.setSession_ctr (i : Nat) (v : (Option Session)) : (s.setSession i v).ctr = s.ctr := rfl
@[simp] theorem State.setSession_pwm (i : Nat) (v : (Option Session)) : (s.setSession i v).pwm = s.pwm := rfl
@[simp] theorem State.setSession_quad (i : Nat) (v : (Option Session)) : (s.setSession i v).quad = s.quad := rfl
@[simp] theorem State.setSession_serial (i : Nat) (v : (Option Session)) : (s.setSession i v).serial = s.serial := rfl
@[simp] theorem State.setSession_fb (i : Nat) (v : (Option Session)) : (s.setSession i v).fb = s.fb := rfl
@[simp] theorem State.setSession_loop (i : Nat) (v : (Option Session)) : (s.setSession i v).loop = s.loop := rfl
@[simp] theorem State.setSession_flags (i : Nat) (v : (Option Session)) : (s.setSession i v).flags = s.flags := rfl
@[simp] theorem State.setSession_foc (i : Nat) (v : (Option Session)) : (s.setSession i v).foc = s.foc := rfl
@[simp] theorem State.setSession_sections (i : Nat) (v : (Option Session)) : (s.setSession i v).sections = s.sections := rfl
@[simp] theorem State.setSession_records (i : Nat) (v : (Option Session)) : (s.setSession i v).records = s.records := rfl
@[simp] theorem State.setSession_dc (i : Nat) (v : (Option Session)) : (s.setSession i v).dc = s.dc := rfl
@[simp] theorem State.setSession_engines (i : Nat) (v : (Option Session)) : (s.setSession i v).engines = s.engines := rfl
@[simp] theorem State.setSession_bank (i : Nat) (v : (Option Session)) : (s.setSession i v).bank = s.bank := rfl
@[simp] theorem State.setSession_waiters (i : Nat) (v : (Option Session)) : (s.setSession i v).waiters = s.waiters := rfl
@[simp] theorem State.setSession_aux (i : Nat) (v : (Option Session)) : (s.setSession i v).aux = s.aux := rfl
@[simp] theorem State.setSession_trails (i : Nat) (v : (Option Session)) : (s.setSession i v).trails = s.trails := rfl
@[simp] theorem State.setSession_followers (i : Nat) (v : (Option Session)) : (s.setSession i v).followers = s.followers := rfl
@[simp] theorem State.setSession_publishers (i : Nat) (v : (Option Session)) : (s.setSession i v).publishers = s.publishers := rfl
@[simp] theorem State.setSession_virt (i : Nat) (v : (Option Session)) : (s.setSession i v).virt = s.virt := rfl
@[simp] theorem State.setSession_remote (i : Nat) (v : (Option Session)) : (s.setSession i v).remote = s.remote := rfl
@[simp] theorem State.setSession_cams (i : Nat) (v : (Option Session)) : (s.setSession i v).cams = s.cams := rfl
@[simp] theorem State.setSession_steppers (i : Nat) (v : (Option Session)) : (s.setSession i v).steppers = s.steppers := rfl
@[simp] theorem State.setSession_caps (i : Nat) (v : (Option Session)) : (s.setSession i v).caps = s.caps := rfl
@[simp] theorem State.setSession_capMem (i : Nat) (v : (Option Session)) : (s.setSession i v).capMem = s.capMem := rfl
@[simp] theorem State.setSession_mailboxes (i : Nat) (v : (Option Session)) : (s.setSession i v).mailboxes = s.mailboxes := rfl
@[simp] theorem State.setSession_host (i : Nat) (v : (Option Session)) : (s.setSession i v).host = s.host := rfl
@[simp] theorem State.setSession_events (i : Nat) (v : (Option Session)) : (s.setSession i v).events = s.events := rfl
@[simp] theorem State.setSession_locks (i : Nat) (v : (Option Session)) : (s.setSession i v).locks = s.locks := rfl
@[simp] theorem State.setSession_sched (i : Nat) (v : (Option Session)) : (s.setSession i v).sched = s.sched := rfl
@[simp] theorem State.setSession_arbs (i : Nat) (v : (Option Session)) : (s.setSession i v).arbs = s.arbs := rfl
@[simp] theorem State.setSession_fabPorts (i : Nat) (v : (Option Session)) : (s.setSession i v).fabPorts = s.fabPorts := rfl
@[simp] theorem State.setSession_fabric (i : Nat) (v : (Option Session)) : (s.setSession i v).fabric = s.fabric := rfl
@[simp] theorem State.setSession_eth (i : Nat) (v : (Option Session)) : (s.setSession i v).eth = s.eth := rfl
@[simp] theorem State.setSession_can (i : Nat) (v : (Option Session)) : (s.setSession i v).can = s.can := rfl
@[simp] theorem State.setSession_fio (i : Nat) (v : (Option Session)) : (s.setSession i v).fio = s.fio := rfl
@[simp] theorem State.setSession_safety (i : Nat) (v : (Option Session)) : (s.setSession i v).safety = s.safety := rfl
@[simp] theorem State.setSession_power (i : Nat) (v : (Option Session)) : (s.setSession i v).power = s.power := rfl
theorem State.getSession_setSession_same (i : Nat) (v : (Option Session)) (h : mwf none s.sessions = true) : (s.setSession i v).getSession i = v := mget_mset_same i v h
theorem State.getSession_setSession_ne {i j : Nat} (v : (Option Session)) (h : j ≠ i) : (s.setSession i v).getSession j = s.getSession j := mget_mset_ne s.sessions v _ h
@[simp] theorem State.getTdc_setSession (i j : Nat) (v : (Option Session)) : (s.setSession i v).getTdc j = s.getTdc j := rfl
@[simp] theorem State.getPwm_setSession (i j : Nat) (v : (Option Session)) : (s.setSession i v).getPwm j = s.getPwm j := rfl
@[simp] theorem State.getQuad_setSession (i j : Nat) (v : (Option Session)) : (s.setSession i v).getQuad j = s.getQuad j := rfl
@[simp] theorem State.getSerial_setSession (i j : Nat) (v : (Option Session)) : (s.setSession i v).getSerial j = s.getSerial j := rfl
@[simp] theorem State.getFb_setSession (i j : Nat) (v : (Option Session)) : (s.setSession i v).getFb j = s.getFb j := rfl
@[simp] theorem State.getLoop_setSession (i j : Nat) (v : (Option Session)) : (s.setSession i v).getLoop j = s.getLoop j := rfl
@[simp] theorem State.getFlags_setSession (i j : Nat) (v : (Option Session)) : (s.setSession i v).getFlags j = s.getFlags j := rfl
@[simp] theorem State.getFoc_setSession (i j : Nat) (v : (Option Session)) : (s.setSession i v).getFoc j = s.getFoc j := rfl
@[simp] theorem State.getSection_setSession (i j : Nat) (v : (Option Session)) : (s.setSession i v).getSection j = s.getSection j := rfl
@[simp] theorem State.getRecord_setSession (i j : Nat) (v : (Option Session)) : (s.setSession i v).getRecord j = s.getRecord j := rfl
@[simp] theorem State.getDc_setSession (i j : Nat) (v : (Option Session)) : (s.setSession i v).getDc j = s.getDc j := rfl
@[simp] theorem State.getEngine_setSession (i j : Nat) (v : (Option Session)) : (s.setSession i v).getEngine j = s.getEngine j := rfl
@[simp] theorem State.getAux_setSession (i j : Nat) (v : (Option Session)) : (s.setSession i v).getAux j = s.getAux j := rfl
@[simp] theorem State.getTrail_setSession (i j : Nat) (v : (Option Session)) : (s.setSession i v).getTrail j = s.getTrail j := rfl
@[simp] theorem State.getFollower_setSession (i j : Nat) (v : (Option Session)) : (s.setSession i v).getFollower j = s.getFollower j := rfl
@[simp] theorem State.getPublisher_setSession (i j : Nat) (v : (Option Session)) : (s.setSession i v).getPublisher j = s.getPublisher j := rfl
@[simp] theorem State.getVirt_setSession (i j : Nat) (v : (Option Session)) : (s.setSession i v).getVirt j = s.getVirt j := rfl
@[simp] theorem State.getRemote_setSession (i j : Nat) (v : (Option Session)) : (s.setSession i v).getRemote j = s.getRemote j := rfl
@[simp] theorem State.getCam_setSession (i j : Nat) (v : (Option Session)) : (s.setSession i v).getCam j = s.getCam j := rfl
@[simp] theorem State.getStepper_setSession (i j : Nat) (v : (Option Session)) : (s.setSession i v).getStepper j = s.getStepper j := rfl
@[simp] theorem State.getCap_setSession (i j : Nat) (v : (Option Session)) : (s.setSession i v).getCap j = s.getCap j := rfl
@[simp] theorem State.getMbx_setSession (i j : Nat) (v : (Option Session)) : (s.setSession i v).getMbx j = s.getMbx j := rfl
@[simp] theorem State.getArb_setSession (i j : Nat) (v : (Option Session)) : (s.setSession i v).getArb j = s.getArb j := rfl
@[simp] theorem State.getFabPort_setSession (i j : Nat) (v : (Option Session)) : (s.setSession i v).getFabPort j = s.getFabPort j := rfl
@[simp] theorem State.getEth_setSession (i j : Nat) (v : (Option Session)) : (s.setSession i v).getEth j = s.getEth j := rfl
@[simp] theorem State.getCan_setSession (i j : Nat) (v : (Option Session)) : (s.setSession i v).getCan j = s.getCan j := rfl

/-! ### arbs -/

@[simp] theorem State.modArb_def (i : Nat) (g : Arbiter → Arbiter) : s.modArb i g = s.setArb i (g (s.getArb i)) := rfl
@[simp] theorem State.setArb_arbs (i : Nat) (v : Arbiter) : (s.setArb i v).arbs = mset s.arbs i v {} := rfl
@[simp] theorem State.setArb_pending (i : Nat) (v : Arbiter) : (s.setArb i v).pending = s.pending := rfl
@[simp] theorem State.setArb_tick (i : Nat) (v : Arbiter) : (s.setArb i v).tick = s.tick := rfl
@[simp] theorem State.setArb_freeCtr (i : Nat) (v : Arbiter) : (s.setArb i v).freeCtr = s.freeCtr := rfl
@[simp] theorem State.setArb_time (i : Nat) (v : Arbiter) : (s.setArb i v).time = s.time := rfl
@[simp] theorem State.setArb_tdc (i : Nat) (v : Arbiter) : (s.setArb i v).tdc = s.tdc := rfl
@[simp] theorem State.setArb_tdcCal (i : Nat) (v : Arbiter) : (s.setArb i v).tdcCal = s.tdcCal := rfl
@[simp] theorem State.setArb_cfg (i : Nat) (v : Arbiter) : (s.setArb i v).cfg = s.cfg := rfl
@[simp] theorem State.setArb_ctr (i : Nat) (v : Arbiter) : (s.setArb i v).ctr = s.ctr := rfl
@[simp] theorem State.setArb_pwm (i : Nat) (v : Arbiter) : (s.setArb i v).pwm = s.pwm := rfl
@[simp] theorem State.setArb_quad (i : Nat) (v : Arbiter) : (s.setArb i v).quad = s.quad := rfl
@[simp] theorem State.setArb_serial (i : Nat) (v : Arbiter) : (s.setArb i v).serial = s.serial := rfl
@[simp] theorem State.setArb_fb (i : Nat) (v : Arbiter) : (s.setArb i v).fb = s.fb := rfl
@[simp] theorem State.setArb_loop (i : Nat) (v : Arbiter) : (s.setArb i v).loop = s.loop := rfl
@[simp] theorem State.setArb_flags (i : Nat) (v : Arbiter) : (s.setArb i v).flags = s.flags := rfl
@[simp] theorem State.setArb_foc (i : Nat) (v : Arbiter) : (s.setArb i v).foc = s.foc := rfl
@[simp] theorem State.setArb_sections (i : Nat) (v : Arbiter) : (s.setArb i v).sections = s.sections := rfl
@[simp] theorem State.setArb_records (i : Nat) (v : Arbiter) : (s.setArb i v).records = s.records := rfl
@[simp] theorem State.setArb_dc (i : Nat) (v : Arbiter) : (s.setArb i v).dc = s.dc := rfl
@[simp] theorem State.setArb_engines (i : Nat) (v : Arbiter) : (s.setArb i v).engines = s.engines := rfl
@[simp] theorem State.setArb_bank (i : Nat) (v : Arbiter) : (s.setArb i v).bank = s.bank := rfl
@[simp] theorem State.setArb_waiters (i : Nat) (v : Arbiter) : (s.setArb i v).waiters = s.waiters := rfl
@[simp] theorem State.setArb_aux (i : Nat) (v : Arbiter) : (s.setArb i v).aux = s.aux := rfl
@[simp] theorem State.setArb_trails (i : Nat) (v : Arbiter) : (s.setArb i v).trails = s.trails := rfl
@[simp] theorem State.setArb_followers (i : Nat) (v : Arbiter) : (s.setArb i v).followers = s.followers := rfl
@[simp] theorem State.setArb_publishers (i : Nat) (v : Arbiter) : (s.setArb i v).publishers = s.publishers := rfl
@[simp] theorem State.setArb_virt (i : Nat) (v : Arbiter) : (s.setArb i v).virt = s.virt := rfl
@[simp] theorem State.setArb_remote (i : Nat) (v : Arbiter) : (s.setArb i v).remote = s.remote := rfl
@[simp] theorem State.setArb_cams (i : Nat) (v : Arbiter) : (s.setArb i v).cams = s.cams := rfl
@[simp] theorem State.setArb_steppers (i : Nat) (v : Arbiter) : (s.setArb i v).steppers = s.steppers := rfl
@[simp] theorem State.setArb_caps (i : Nat) (v : Arbiter) : (s.setArb i v).caps = s.caps := rfl
@[simp] theorem State.setArb_capMem (i : Nat) (v : Arbiter) : (s.setArb i v).capMem = s.capMem := rfl
@[simp] theorem State.setArb_mailboxes (i : Nat) (v : Arbiter) : (s.setArb i v).mailboxes = s.mailboxes := rfl
@[simp] theorem State.setArb_sessions (i : Nat) (v : Arbiter) : (s.setArb i v).sessions = s.sessions := rfl
@[simp] theorem State.setArb_host (i : Nat) (v : Arbiter) : (s.setArb i v).host = s.host := rfl
@[simp] theorem State.setArb_events (i : Nat) (v : Arbiter) : (s.setArb i v).events = s.events := rfl
@[simp] theorem State.setArb_locks (i : Nat) (v : Arbiter) : (s.setArb i v).locks = s.locks := rfl
@[simp] theorem State.setArb_sched (i : Nat) (v : Arbiter) : (s.setArb i v).sched = s.sched := rfl
@[simp] theorem State.setArb_fabPorts (i : Nat) (v : Arbiter) : (s.setArb i v).fabPorts = s.fabPorts := rfl
@[simp] theorem State.setArb_fabric (i : Nat) (v : Arbiter) : (s.setArb i v).fabric = s.fabric := rfl
@[simp] theorem State.setArb_eth (i : Nat) (v : Arbiter) : (s.setArb i v).eth = s.eth := rfl
@[simp] theorem State.setArb_can (i : Nat) (v : Arbiter) : (s.setArb i v).can = s.can := rfl
@[simp] theorem State.setArb_fio (i : Nat) (v : Arbiter) : (s.setArb i v).fio = s.fio := rfl
@[simp] theorem State.setArb_safety (i : Nat) (v : Arbiter) : (s.setArb i v).safety = s.safety := rfl
@[simp] theorem State.setArb_power (i : Nat) (v : Arbiter) : (s.setArb i v).power = s.power := rfl
theorem State.getArb_setArb_same (i : Nat) (v : Arbiter) (h : mwf {} s.arbs = true) : (s.setArb i v).getArb i = v := mget_mset_same i v h
theorem State.getArb_setArb_ne {i j : Nat} (v : Arbiter) (h : j ≠ i) : (s.setArb i v).getArb j = s.getArb j := mget_mset_ne s.arbs v _ h
@[simp] theorem State.getTdc_setArb (i j : Nat) (v : Arbiter) : (s.setArb i v).getTdc j = s.getTdc j := rfl
@[simp] theorem State.getPwm_setArb (i j : Nat) (v : Arbiter) : (s.setArb i v).getPwm j = s.getPwm j := rfl
@[simp] theorem State.getQuad_setArb (i j : Nat) (v : Arbiter) : (s.setArb i v).getQuad j = s.getQuad j := rfl
@[simp] theorem State.getSerial_setArb (i j : Nat) (v : Arbiter) : (s.setArb i v).getSerial j = s.getSerial j := rfl
@[simp] theorem State.getFb_setArb (i j : Nat) (v : Arbiter) : (s.setArb i v).getFb j = s.getFb j := rfl
@[simp] theorem State.getLoop_setArb (i j : Nat) (v : Arbiter) : (s.setArb i v).getLoop j = s.getLoop j := rfl
@[simp] theorem State.getFlags_setArb (i j : Nat) (v : Arbiter) : (s.setArb i v).getFlags j = s.getFlags j := rfl
@[simp] theorem State.getFoc_setArb (i j : Nat) (v : Arbiter) : (s.setArb i v).getFoc j = s.getFoc j := rfl
@[simp] theorem State.getSection_setArb (i j : Nat) (v : Arbiter) : (s.setArb i v).getSection j = s.getSection j := rfl
@[simp] theorem State.getRecord_setArb (i j : Nat) (v : Arbiter) : (s.setArb i v).getRecord j = s.getRecord j := rfl
@[simp] theorem State.getDc_setArb (i j : Nat) (v : Arbiter) : (s.setArb i v).getDc j = s.getDc j := rfl
@[simp] theorem State.getEngine_setArb (i j : Nat) (v : Arbiter) : (s.setArb i v).getEngine j = s.getEngine j := rfl
@[simp] theorem State.getAux_setArb (i j : Nat) (v : Arbiter) : (s.setArb i v).getAux j = s.getAux j := rfl
@[simp] theorem State.getTrail_setArb (i j : Nat) (v : Arbiter) : (s.setArb i v).getTrail j = s.getTrail j := rfl
@[simp] theorem State.getFollower_setArb (i j : Nat) (v : Arbiter) : (s.setArb i v).getFollower j = s.getFollower j := rfl
@[simp] theorem State.getPublisher_setArb (i j : Nat) (v : Arbiter) : (s.setArb i v).getPublisher j = s.getPublisher j := rfl
@[simp] theorem State.getVirt_setArb (i j : Nat) (v : Arbiter) : (s.setArb i v).getVirt j = s.getVirt j := rfl
@[simp] theorem State.getRemote_setArb (i j : Nat) (v : Arbiter) : (s.setArb i v).getRemote j = s.getRemote j := rfl
@[simp] theorem State.getCam_setArb (i j : Nat) (v : Arbiter) : (s.setArb i v).getCam j = s.getCam j := rfl
@[simp] theorem State.getStepper_setArb (i j : Nat) (v : Arbiter) : (s.setArb i v).getStepper j = s.getStepper j := rfl
@[simp] theorem State.getCap_setArb (i j : Nat) (v : Arbiter) : (s.setArb i v).getCap j = s.getCap j := rfl
@[simp] theorem State.getMbx_setArb (i j : Nat) (v : Arbiter) : (s.setArb i v).getMbx j = s.getMbx j := rfl
@[simp] theorem State.getSession_setArb (i j : Nat) (v : Arbiter) : (s.setArb i v).getSession j = s.getSession j := rfl
@[simp] theorem State.getFabPort_setArb (i j : Nat) (v : Arbiter) : (s.setArb i v).getFabPort j = s.getFabPort j := rfl
@[simp] theorem State.getEth_setArb (i j : Nat) (v : Arbiter) : (s.setArb i v).getEth j = s.getEth j := rfl
@[simp] theorem State.getCan_setArb (i j : Nat) (v : Arbiter) : (s.setArb i v).getCan j = s.getCan j := rfl

/-! ### fabPorts -/

@[simp] theorem State.modFabPort_def (i : Nat) (g : FabPort → FabPort) : s.modFabPort i g = s.setFabPort i (g (s.getFabPort i)) := rfl
@[simp] theorem State.setFabPort_fabPorts (i : Nat) (v : FabPort) : (s.setFabPort i v).fabPorts = mset s.fabPorts i v {} := rfl
@[simp] theorem State.setFabPort_pending (i : Nat) (v : FabPort) : (s.setFabPort i v).pending = s.pending := rfl
@[simp] theorem State.setFabPort_tick (i : Nat) (v : FabPort) : (s.setFabPort i v).tick = s.tick := rfl
@[simp] theorem State.setFabPort_freeCtr (i : Nat) (v : FabPort) : (s.setFabPort i v).freeCtr = s.freeCtr := rfl
@[simp] theorem State.setFabPort_time (i : Nat) (v : FabPort) : (s.setFabPort i v).time = s.time := rfl
@[simp] theorem State.setFabPort_tdc (i : Nat) (v : FabPort) : (s.setFabPort i v).tdc = s.tdc := rfl
@[simp] theorem State.setFabPort_tdcCal (i : Nat) (v : FabPort) : (s.setFabPort i v).tdcCal = s.tdcCal := rfl
@[simp] theorem State.setFabPort_cfg (i : Nat) (v : FabPort) : (s.setFabPort i v).cfg = s.cfg := rfl
@[simp] theorem State.setFabPort_ctr (i : Nat) (v : FabPort) : (s.setFabPort i v).ctr = s.ctr := rfl
@[simp] theorem State.setFabPort_pwm (i : Nat) (v : FabPort) : (s.setFabPort i v).pwm = s.pwm := rfl
@[simp] theorem State.setFabPort_quad (i : Nat) (v : FabPort) : (s.setFabPort i v).quad = s.quad := rfl
@[simp] theorem State.setFabPort_serial (i : Nat) (v : FabPort) : (s.setFabPort i v).serial = s.serial := rfl
@[simp] theorem State.setFabPort_fb (i : Nat) (v : FabPort) : (s.setFabPort i v).fb = s.fb := rfl
@[simp] theorem State.setFabPort_loop (i : Nat) (v : FabPort) : (s.setFabPort i v).loop = s.loop := rfl
@[simp] theorem State.setFabPort_flags (i : Nat) (v : FabPort) : (s.setFabPort i v).flags = s.flags := rfl
@[simp] theorem State.setFabPort_foc (i : Nat) (v : FabPort) : (s.setFabPort i v).foc = s.foc := rfl
@[simp] theorem State.setFabPort_sections (i : Nat) (v : FabPort) : (s.setFabPort i v).sections = s.sections := rfl
@[simp] theorem State.setFabPort_records (i : Nat) (v : FabPort) : (s.setFabPort i v).records = s.records := rfl
@[simp] theorem State.setFabPort_dc (i : Nat) (v : FabPort) : (s.setFabPort i v).dc = s.dc := rfl
@[simp] theorem State.setFabPort_engines (i : Nat) (v : FabPort) : (s.setFabPort i v).engines = s.engines := rfl
@[simp] theorem State.setFabPort_bank (i : Nat) (v : FabPort) : (s.setFabPort i v).bank = s.bank := rfl
@[simp] theorem State.setFabPort_waiters (i : Nat) (v : FabPort) : (s.setFabPort i v).waiters = s.waiters := rfl
@[simp] theorem State.setFabPort_aux (i : Nat) (v : FabPort) : (s.setFabPort i v).aux = s.aux := rfl
@[simp] theorem State.setFabPort_trails (i : Nat) (v : FabPort) : (s.setFabPort i v).trails = s.trails := rfl
@[simp] theorem State.setFabPort_followers (i : Nat) (v : FabPort) : (s.setFabPort i v).followers = s.followers := rfl
@[simp] theorem State.setFabPort_publishers (i : Nat) (v : FabPort) : (s.setFabPort i v).publishers = s.publishers := rfl
@[simp] theorem State.setFabPort_virt (i : Nat) (v : FabPort) : (s.setFabPort i v).virt = s.virt := rfl
@[simp] theorem State.setFabPort_remote (i : Nat) (v : FabPort) : (s.setFabPort i v).remote = s.remote := rfl
@[simp] theorem State.setFabPort_cams (i : Nat) (v : FabPort) : (s.setFabPort i v).cams = s.cams := rfl
@[simp] theorem State.setFabPort_steppers (i : Nat) (v : FabPort) : (s.setFabPort i v).steppers = s.steppers := rfl
@[simp] theorem State.setFabPort_caps (i : Nat) (v : FabPort) : (s.setFabPort i v).caps = s.caps := rfl
@[simp] theorem State.setFabPort_capMem (i : Nat) (v : FabPort) : (s.setFabPort i v).capMem = s.capMem := rfl
@[simp] theorem State.setFabPort_mailboxes (i : Nat) (v : FabPort) : (s.setFabPort i v).mailboxes = s.mailboxes := rfl
@[simp] theorem State.setFabPort_sessions (i : Nat) (v : FabPort) : (s.setFabPort i v).sessions = s.sessions := rfl
@[simp] theorem State.setFabPort_host (i : Nat) (v : FabPort) : (s.setFabPort i v).host = s.host := rfl
@[simp] theorem State.setFabPort_events (i : Nat) (v : FabPort) : (s.setFabPort i v).events = s.events := rfl
@[simp] theorem State.setFabPort_locks (i : Nat) (v : FabPort) : (s.setFabPort i v).locks = s.locks := rfl
@[simp] theorem State.setFabPort_sched (i : Nat) (v : FabPort) : (s.setFabPort i v).sched = s.sched := rfl
@[simp] theorem State.setFabPort_arbs (i : Nat) (v : FabPort) : (s.setFabPort i v).arbs = s.arbs := rfl
@[simp] theorem State.setFabPort_fabric (i : Nat) (v : FabPort) : (s.setFabPort i v).fabric = s.fabric := rfl
@[simp] theorem State.setFabPort_eth (i : Nat) (v : FabPort) : (s.setFabPort i v).eth = s.eth := rfl
@[simp] theorem State.setFabPort_can (i : Nat) (v : FabPort) : (s.setFabPort i v).can = s.can := rfl
@[simp] theorem State.setFabPort_fio (i : Nat) (v : FabPort) : (s.setFabPort i v).fio = s.fio := rfl
@[simp] theorem State.setFabPort_safety (i : Nat) (v : FabPort) : (s.setFabPort i v).safety = s.safety := rfl
@[simp] theorem State.setFabPort_power (i : Nat) (v : FabPort) : (s.setFabPort i v).power = s.power := rfl
theorem State.getFabPort_setFabPort_same (i : Nat) (v : FabPort) (h : mwf {} s.fabPorts = true) : (s.setFabPort i v).getFabPort i = v := mget_mset_same i v h
theorem State.getFabPort_setFabPort_ne {i j : Nat} (v : FabPort) (h : j ≠ i) : (s.setFabPort i v).getFabPort j = s.getFabPort j := mget_mset_ne s.fabPorts v _ h
@[simp] theorem State.getTdc_setFabPort (i j : Nat) (v : FabPort) : (s.setFabPort i v).getTdc j = s.getTdc j := rfl
@[simp] theorem State.getPwm_setFabPort (i j : Nat) (v : FabPort) : (s.setFabPort i v).getPwm j = s.getPwm j := rfl
@[simp] theorem State.getQuad_setFabPort (i j : Nat) (v : FabPort) : (s.setFabPort i v).getQuad j = s.getQuad j := rfl
@[simp] theorem State.getSerial_setFabPort (i j : Nat) (v : FabPort) : (s.setFabPort i v).getSerial j = s.getSerial j := rfl
@[simp] theorem State.getFb_setFabPort (i j : Nat) (v : FabPort) : (s.setFabPort i v).getFb j = s.getFb j := rfl
@[simp] theorem State.getLoop_setFabPort (i j : Nat) (v : FabPort) : (s.setFabPort i v).getLoop j = s.getLoop j := rfl
@[simp] theorem State.getFlags_setFabPort (i j : Nat) (v : FabPort) : (s.setFabPort i v).getFlags j = s.getFlags j := rfl
@[simp] theorem State.getFoc_setFabPort (i j : Nat) (v : FabPort) : (s.setFabPort i v).getFoc j = s.getFoc j := rfl
@[simp] theorem State.getSection_setFabPort (i j : Nat) (v : FabPort) : (s.setFabPort i v).getSection j = s.getSection j := rfl
@[simp] theorem State.getRecord_setFabPort (i j : Nat) (v : FabPort) : (s.setFabPort i v).getRecord j = s.getRecord j := rfl
@[simp] theorem State.getDc_setFabPort (i j : Nat) (v : FabPort) : (s.setFabPort i v).getDc j = s.getDc j := rfl
@[simp] theorem State.getEngine_setFabPort (i j : Nat) (v : FabPort) : (s.setFabPort i v).getEngine j = s.getEngine j := rfl
@[simp] theorem State.getAux_setFabPort (i j : Nat) (v : FabPort) : (s.setFabPort i v).getAux j = s.getAux j := rfl
@[simp] theorem State.getTrail_setFabPort (i j : Nat) (v : FabPort) : (s.setFabPort i v).getTrail j = s.getTrail j := rfl
@[simp] theorem State.getFollower_setFabPort (i j : Nat) (v : FabPort) : (s.setFabPort i v).getFollower j = s.getFollower j := rfl
@[simp] theorem State.getPublisher_setFabPort (i j : Nat) (v : FabPort) : (s.setFabPort i v).getPublisher j = s.getPublisher j := rfl
@[simp] theorem State.getVirt_setFabPort (i j : Nat) (v : FabPort) : (s.setFabPort i v).getVirt j = s.getVirt j := rfl
@[simp] theorem State.getRemote_setFabPort (i j : Nat) (v : FabPort) : (s.setFabPort i v).getRemote j = s.getRemote j := rfl
@[simp] theorem State.getCam_setFabPort (i j : Nat) (v : FabPort) : (s.setFabPort i v).getCam j = s.getCam j := rfl
@[simp] theorem State.getStepper_setFabPort (i j : Nat) (v : FabPort) : (s.setFabPort i v).getStepper j = s.getStepper j := rfl
@[simp] theorem State.getCap_setFabPort (i j : Nat) (v : FabPort) : (s.setFabPort i v).getCap j = s.getCap j := rfl
@[simp] theorem State.getMbx_setFabPort (i j : Nat) (v : FabPort) : (s.setFabPort i v).getMbx j = s.getMbx j := rfl
@[simp] theorem State.getSession_setFabPort (i j : Nat) (v : FabPort) : (s.setFabPort i v).getSession j = s.getSession j := rfl
@[simp] theorem State.getArb_setFabPort (i j : Nat) (v : FabPort) : (s.setFabPort i v).getArb j = s.getArb j := rfl
@[simp] theorem State.getEth_setFabPort (i j : Nat) (v : FabPort) : (s.setFabPort i v).getEth j = s.getEth j := rfl
@[simp] theorem State.getCan_setFabPort (i j : Nat) (v : FabPort) : (s.setFabPort i v).getCan j = s.getCan j := rfl

/-! ### eth -/

@[simp] theorem State.modEth_def (i : Nat) (g : EthPort → EthPort) : s.modEth i g = s.setEth i (g (s.getEth i)) := rfl
@[simp] theorem State.setEth_eth (i : Nat) (v : EthPort) : (s.setEth i v).eth = mset s.eth i v {} := rfl
@[simp] theorem State.setEth_pending (i : Nat) (v : EthPort) : (s.setEth i v).pending = s.pending := rfl
@[simp] theorem State.setEth_tick (i : Nat) (v : EthPort) : (s.setEth i v).tick = s.tick := rfl
@[simp] theorem State.setEth_freeCtr (i : Nat) (v : EthPort) : (s.setEth i v).freeCtr = s.freeCtr := rfl
@[simp] theorem State.setEth_time (i : Nat) (v : EthPort) : (s.setEth i v).time = s.time := rfl
@[simp] theorem State.setEth_tdc (i : Nat) (v : EthPort) : (s.setEth i v).tdc = s.tdc := rfl
@[simp] theorem State.setEth_tdcCal (i : Nat) (v : EthPort) : (s.setEth i v).tdcCal = s.tdcCal := rfl
@[simp] theorem State.setEth_cfg (i : Nat) (v : EthPort) : (s.setEth i v).cfg = s.cfg := rfl
@[simp] theorem State.setEth_ctr (i : Nat) (v : EthPort) : (s.setEth i v).ctr = s.ctr := rfl
@[simp] theorem State.setEth_pwm (i : Nat) (v : EthPort) : (s.setEth i v).pwm = s.pwm := rfl
@[simp] theorem State.setEth_quad (i : Nat) (v : EthPort) : (s.setEth i v).quad = s.quad := rfl
@[simp] theorem State.setEth_serial (i : Nat) (v : EthPort) : (s.setEth i v).serial = s.serial := rfl
@[simp] theorem State.setEth_fb (i : Nat) (v : EthPort) : (s.setEth i v).fb = s.fb := rfl
@[simp] theorem State.setEth_loop (i : Nat) (v : EthPort) : (s.setEth i v).loop = s.loop := rfl
@[simp] theorem State.setEth_flags (i : Nat) (v : EthPort) : (s.setEth i v).flags = s.flags := rfl
@[simp] theorem State.setEth_foc (i : Nat) (v : EthPort) : (s.setEth i v).foc = s.foc := rfl
@[simp] theorem State.setEth_sections (i : Nat) (v : EthPort) : (s.setEth i v).sections = s.sections := rfl
@[simp] theorem State.setEth_records (i : Nat) (v : EthPort) : (s.setEth i v).records = s.records := rfl
@[simp] theorem State.setEth_dc (i : Nat) (v : EthPort) : (s.setEth i v).dc = s.dc := rfl
@[simp] theorem State.setEth_engines (i : Nat) (v : EthPort) : (s.setEth i v).engines = s.engines := rfl
@[simp] theorem State.setEth_bank (i : Nat) (v : EthPort) : (s.setEth i v).bank = s.bank := rfl
@[simp] theorem State.setEth_waiters (i : Nat) (v : EthPort) : (s.setEth i v).waiters = s.waiters := rfl
@[simp] theorem State.setEth_aux (i : Nat) (v : EthPort) : (s.setEth i v).aux = s.aux := rfl
@[simp] theorem State.setEth_trails (i : Nat) (v : EthPort) : (s.setEth i v).trails = s.trails := rfl
@[simp] theorem State.setEth_followers (i : Nat) (v : EthPort) : (s.setEth i v).followers = s.followers := rfl
@[simp] theorem State.setEth_publishers (i : Nat) (v : EthPort) : (s.setEth i v).publishers = s.publishers := rfl
@[simp] theorem State.setEth_virt (i : Nat) (v : EthPort) : (s.setEth i v).virt = s.virt := rfl
@[simp] theorem State.setEth_remote (i : Nat) (v : EthPort) : (s.setEth i v).remote = s.remote := rfl
@[simp] theorem State.setEth_cams (i : Nat) (v : EthPort) : (s.setEth i v).cams = s.cams := rfl
@[simp] theorem State.setEth_steppers (i : Nat) (v : EthPort) : (s.setEth i v).steppers = s.steppers := rfl
@[simp] theorem State.setEth_caps (i : Nat) (v : EthPort) : (s.setEth i v).caps = s.caps := rfl
@[simp] theorem State.setEth_capMem (i : Nat) (v : EthPort) : (s.setEth i v).capMem = s.capMem := rfl
@[simp] theorem State.setEth_mailboxes (i : Nat) (v : EthPort) : (s.setEth i v).mailboxes = s.mailboxes := rfl
@[simp] theorem State.setEth_sessions (i : Nat) (v : EthPort) : (s.setEth i v).sessions = s.sessions := rfl
@[simp] theorem State.setEth_host (i : Nat) (v : EthPort) : (s.setEth i v).host = s.host := rfl
@[simp] theorem State.setEth_events (i : Nat) (v : EthPort) : (s.setEth i v).events = s.events := rfl
@[simp] theorem State.setEth_locks (i : Nat) (v : EthPort) : (s.setEth i v).locks = s.locks := rfl
@[simp] theorem State.setEth_sched (i : Nat) (v : EthPort) : (s.setEth i v).sched = s.sched := rfl
@[simp] theorem State.setEth_arbs (i : Nat) (v : EthPort) : (s.setEth i v).arbs = s.arbs := rfl
@[simp] theorem State.setEth_fabPorts (i : Nat) (v : EthPort) : (s.setEth i v).fabPorts = s.fabPorts := rfl
@[simp] theorem State.setEth_fabric (i : Nat) (v : EthPort) : (s.setEth i v).fabric = s.fabric := rfl
@[simp] theorem State.setEth_can (i : Nat) (v : EthPort) : (s.setEth i v).can = s.can := rfl
@[simp] theorem State.setEth_fio (i : Nat) (v : EthPort) : (s.setEth i v).fio = s.fio := rfl
@[simp] theorem State.setEth_safety (i : Nat) (v : EthPort) : (s.setEth i v).safety = s.safety := rfl
@[simp] theorem State.setEth_power (i : Nat) (v : EthPort) : (s.setEth i v).power = s.power := rfl
theorem State.getEth_setEth_same (i : Nat) (v : EthPort) (h : mwf {} s.eth = true) : (s.setEth i v).getEth i = v := mget_mset_same i v h
theorem State.getEth_setEth_ne {i j : Nat} (v : EthPort) (h : j ≠ i) : (s.setEth i v).getEth j = s.getEth j := mget_mset_ne s.eth v _ h
@[simp] theorem State.getTdc_setEth (i j : Nat) (v : EthPort) : (s.setEth i v).getTdc j = s.getTdc j := rfl
@[simp] theorem State.getPwm_setEth (i j : Nat) (v : EthPort) : (s.setEth i v).getPwm j = s.getPwm j := rfl
@[simp] theorem State.getQuad_setEth (i j : Nat) (v : EthPort) : (s.setEth i v).getQuad j = s.getQuad j := rfl
@[simp] theorem State.getSerial_setEth (i j : Nat) (v : EthPort) : (s.setEth i v).getSerial j = s.getSerial j := rfl
@[simp] theorem State.getFb_setEth (i j : Nat) (v : EthPort) : (s.setEth i v).getFb j = s.getFb j := rfl
@[simp] theorem State.getLoop_setEth (i j : Nat) (v : EthPort) : (s.setEth i v).getLoop j = s.getLoop j := rfl
@[simp] theorem State.getFlags_setEth (i j : Nat) (v : EthPort) : (s.setEth i v).getFlags j = s.getFlags j := rfl
@[simp] theorem State.getFoc_setEth (i j : Nat) (v : EthPort) : (s.setEth i v).getFoc j = s.getFoc j := rfl
@[simp] theorem State.getSection_setEth (i j : Nat) (v : EthPort) : (s.setEth i v).getSection j = s.getSection j := rfl
@[simp] theorem State.getRecord_setEth (i j : Nat) (v : EthPort) : (s.setEth i v).getRecord j = s.getRecord j := rfl
@[simp] theorem State.getDc_setEth (i j : Nat) (v : EthPort) : (s.setEth i v).getDc j = s.getDc j := rfl
@[simp] theorem State.getEngine_setEth (i j : Nat) (v : EthPort) : (s.setEth i v).getEngine j = s.getEngine j := rfl
@[simp] theorem State.getAux_setEth (i j : Nat) (v : EthPort) : (s.setEth i v).getAux j = s.getAux j := rfl
@[simp] theorem State.getTrail_setEth (i j : Nat) (v : EthPort) : (s.setEth i v).getTrail j = s.getTrail j := rfl
@[simp] theorem State.getFollower_setEth (i j : Nat) (v : EthPort) : (s.setEth i v).getFollower j = s.getFollower j := rfl
@[simp] theorem State.getPublisher_setEth (i j : Nat) (v : EthPort) : (s.setEth i v).getPublisher j = s.getPublisher j := rfl
@[simp] theorem State.getVirt_setEth (i j : Nat) (v : EthPort) : (s.setEth i v).getVirt j = s.getVirt j := rfl
@[simp] theorem State.getRemote_setEth (i j : Nat) (v : EthPort) : (s.setEth i v).getRemote j = s.getRemote j := rfl
@[simp] theorem State.getCam_setEth (i j : Nat) (v : EthPort) : (s.setEth i v).getCam j = s.getCam j := rfl
@[simp] theorem State.getStepper_setEth (i j : Nat) (v : EthPort) : (s.setEth i v).getStepper j = s.getStepper j := rfl
@[simp] theorem State.getCap_setEth (i j : Nat) (v : EthPort) : (s.setEth i v).getCap j = s.getCap j := rfl
@[simp] theorem State.getMbx_setEth (i j : Nat) (v : EthPort) : (s.setEth i v).getMbx j = s.getMbx j := rfl
@[simp] theorem State.getSession_setEth (i j : Nat) (v : EthPort) : (s.setEth i v).getSession j = s.getSession j := rfl
@[simp] theorem State.getArb_setEth (i j : Nat) (v : EthPort) : (s.setEth i v).getArb j = s.getArb j := rfl
@[simp] theorem State.getFabPort_setEth (i j : Nat) (v : EthPort) : (s.setEth i v).getFabPort j = s.getFabPort j := rfl
@[simp] theorem State.getCan_setEth (i j : Nat) (v : EthPort) : (s.setEth i v).getCan j = s.getCan j := rfl

/-! ### can -/

@[simp] theorem State.modCan_def (i : Nat) (g : CanCh → CanCh) : s.modCan i g = s.setCan i (g (s.getCan i)) := rfl
@[simp] theorem State.setCan_can (i : Nat) (v : CanCh) : (s.setCan i v).can = mset s.can i v {} := rfl
@[simp] theorem State.setCan_pending (i : Nat) (v : CanCh) : (s.setCan i v).pending = s.pending := rfl
@[simp] theorem State.setCan_tick (i : Nat) (v : CanCh) : (s.setCan i v).tick = s.tick := rfl
@[simp] theorem State.setCan_freeCtr (i : Nat) (v : CanCh) : (s.setCan i v).freeCtr = s.freeCtr := rfl
@[simp] theorem State.setCan_time (i : Nat) (v : CanCh) : (s.setCan i v).time = s.time := rfl
@[simp] theorem State.setCan_tdc (i : Nat) (v : CanCh) : (s.setCan i v).tdc = s.tdc := rfl
@[simp] theorem State.setCan_tdcCal (i : Nat) (v : CanCh) : (s.setCan i v).tdcCal = s.tdcCal := rfl
@[simp] theorem State.setCan_cfg (i : Nat) (v : CanCh) : (s.setCan i v).cfg = s.cfg := rfl
@[simp] theorem State.setCan_ctr (i : Nat) (v : CanCh) : (s.setCan i v).ctr = s.ctr := rfl
@[simp] theorem State.setCan_pwm (i : Nat) (v : CanCh) : (s.setCan i v).pwm = s.pwm := rfl
@[simp] theorem State.setCan_quad (i : Nat) (v : CanCh) : (s.setCan i v).quad = s.quad := rfl
@[simp] theorem State.setCan_serial (i : Nat) (v : CanCh) : (s.setCan i v).serial = s.serial := rfl
@[simp] theorem State.setCan_fb (i : Nat) (v : CanCh) : (s.setCan i v).fb = s.fb := rfl
@[simp] theorem State.setCan_loop (i : Nat) (v : CanCh) : (s.setCan i v).loop = s.loop := rfl
@[simp] theorem State.setCan_flags (i : Nat) (v : CanCh) : (s.setCan i v).flags = s.flags := rfl
@[simp] theorem State.setCan_foc (i : Nat) (v : CanCh) : (s.setCan i v).foc = s.foc := rfl
@[simp] theorem State.setCan_sections (i : Nat) (v : CanCh) : (s.setCan i v).sections = s.sections := rfl
@[simp] theorem State.setCan_records (i : Nat) (v : CanCh) : (s.setCan i v).records = s.records := rfl
@[simp] theorem State.setCan_dc (i : Nat) (v : CanCh) : (s.setCan i v).dc = s.dc := rfl
@[simp] theorem State.setCan_engines (i : Nat) (v : CanCh) : (s.setCan i v).engines = s.engines := rfl
@[simp] theorem State.setCan_bank (i : Nat) (v : CanCh) : (s.setCan i v).bank = s.bank := rfl
@[simp] theorem State.setCan_waiters (i : Nat) (v : CanCh) : (s.setCan i v).waiters = s.waiters := rfl
@[simp] theorem State.setCan_aux (i : Nat) (v : CanCh) : (s.setCan i v).aux = s.aux := rfl
@[simp] theorem State.setCan_trails (i : Nat) (v : CanCh) : (s.setCan i v).trails = s.trails := rfl
@[simp] theorem State.setCan_followers (i : Nat) (v : CanCh) : (s.setCan i v).followers = s.followers := rfl
@[simp] theorem State.setCan_publishers (i : Nat) (v : CanCh) : (s.setCan i v).publishers = s.publishers := rfl
@[simp] theorem State.setCan_virt (i : Nat) (v : CanCh) : (s.setCan i v).virt = s.virt := rfl
@[simp] theorem State.setCan_remote (i : Nat) (v : CanCh) : (s.setCan i v).remote = s.remote := rfl
@[simp] theorem State.setCan_cams (i : Nat) (v : CanCh) : (s.setCan i v).cams = s.cams := rfl
@[simp] theorem State.setCan_steppers (i : Nat) (v : CanCh) : (s.setCan i v).steppers = s.steppers := rfl
@[simp] theorem State.setCan_caps (i : Nat) (v : CanCh) : (s.setCan i v).caps = s.caps := rfl
@[simp] theorem State.setCan_capMem (i : Nat) (v : CanCh) : (s.setCan i v).capMem = s.capMem := rfl
@[simp] theorem State.setCan_mailboxes (i : Nat) (v : CanCh) : (s.setCan i v).mailboxes = s.mailboxes := rfl
@[simp] theorem State.setCan_sessions (i : Nat) (v : CanCh) : (s.setCan i v).sessions = s.sessions := rfl
@[simp] theorem State.setCan_host (i : Nat) (v : CanCh) : (s.setCan i v).host = s.host := rfl
@[simp] theorem State.setCan_events (i : Nat) (v : CanCh) : (s.setCan i v).events = s.events := rfl
@[simp] theorem State.setCan_locks (i : Nat) (v : CanCh) : (s.setCan i v).locks = s.locks := rfl
@[simp] theorem State.setCan_sched (i : Nat) (v : CanCh) : (s.setCan i v).sched = s.sched := rfl
@[simp] theorem State.setCan_arbs (i : Nat) (v : CanCh) : (s.setCan i v).arbs = s.arbs := rfl
@[simp] theorem State.setCan_fabPorts (i : Nat) (v : CanCh) : (s.setCan i v).fabPorts = s.fabPorts := rfl
@[simp] theorem State.setCan_fabric (i : Nat) (v : CanCh) : (s.setCan i v).fabric = s.fabric := rfl
@[simp] theorem State.setCan_eth (i : Nat) (v : CanCh) : (s.setCan i v).eth = s.eth := rfl
@[simp] theorem State.setCan_fio (i : Nat) (v : CanCh) : (s.setCan i v).fio = s.fio := rfl
@[simp] theorem State.setCan_safety (i : Nat) (v : CanCh) : (s.setCan i v).safety = s.safety := rfl
@[simp] theorem State.setCan_power (i : Nat) (v : CanCh) : (s.setCan i v).power = s.power := rfl
theorem State.getCan_setCan_same (i : Nat) (v : CanCh) (h : mwf {} s.can = true) : (s.setCan i v).getCan i = v := mget_mset_same i v h
theorem State.getCan_setCan_ne {i j : Nat} (v : CanCh) (h : j ≠ i) : (s.setCan i v).getCan j = s.getCan j := mget_mset_ne s.can v _ h
@[simp] theorem State.getTdc_setCan (i j : Nat) (v : CanCh) : (s.setCan i v).getTdc j = s.getTdc j := rfl
@[simp] theorem State.getPwm_setCan (i j : Nat) (v : CanCh) : (s.setCan i v).getPwm j = s.getPwm j := rfl
@[simp] theorem State.getQuad_setCan (i j : Nat) (v : CanCh) : (s.setCan i v).getQuad j = s.getQuad j := rfl
@[simp] theorem State.getSerial_setCan (i j : Nat) (v : CanCh) : (s.setCan i v).getSerial j = s.getSerial j := rfl
@[simp] theorem State.getFb_setCan (i j : Nat) (v : CanCh) : (s.setCan i v).getFb j = s.getFb j := rfl
@[simp] theorem State.getLoop_setCan (i j : Nat) (v : CanCh) : (s.setCan i v).getLoop j = s.getLoop j := rfl
@[simp] theorem State.getFlags_setCan (i j : Nat) (v : CanCh) : (s.setCan i v).getFlags j = s.getFlags j := rfl
@[simp] theorem State.getFoc_setCan (i j : Nat) (v : CanCh) : (s.setCan i v).getFoc j = s.getFoc j := rfl
@[simp] theorem State.getSection_setCan (i j : Nat) (v : CanCh) : (s.setCan i v).getSection j = s.getSection j := rfl
@[simp] theorem State.getRecord_setCan (i j : Nat) (v : CanCh) : (s.setCan i v).getRecord j = s.getRecord j := rfl
@[simp] theorem State.getDc_setCan (i j : Nat) (v : CanCh) : (s.setCan i v).getDc j = s.getDc j := rfl
@[simp] theorem State.getEngine_setCan (i j : Nat) (v : CanCh) : (s.setCan i v).getEngine j = s.getEngine j := rfl
@[simp] theorem State.getAux_setCan (i j : Nat) (v : CanCh) : (s.setCan i v).getAux j = s.getAux j := rfl
@[simp] theorem State.getTrail_setCan (i j : Nat) (v : CanCh) : (s.setCan i v).getTrail j = s.getTrail j := rfl
@[simp] theorem State.getFollower_setCan (i j : Nat) (v : CanCh) : (s.setCan i v).getFollower j = s.getFollower j := rfl
@[simp] theorem State.getPublisher_setCan (i j : Nat) (v : CanCh) : (s.setCan i v).getPublisher j = s.getPublisher j := rfl
@[simp] theorem State.getVirt_setCan (i j : Nat) (v : CanCh) : (s.setCan i v).getVirt j = s.getVirt j := rfl
@[simp] theorem State.getRemote_setCan (i j : Nat) (v : CanCh) : (s.setCan i v).getRemote j = s.getRemote j := rfl
@[simp] theorem State.getCam_setCan (i j : Nat) (v : CanCh) : (s.setCan i v).getCam j = s.getCam j := rfl
@[simp] theorem State.getStepper_setCan (i j : Nat) (v : CanCh) : (s.setCan i v).getStepper j = s.getStepper j := rfl
@[simp] theorem State.getCap_setCan (i j : Nat) (v : CanCh) : (s.setCan i v).getCap j = s.getCap j := rfl
@[simp] theorem State.getMbx_setCan (i j : Nat) (v : CanCh) : (s.setCan i v).getMbx j = s.getMbx j := rfl
@[simp] theorem State.getSession_setCan (i j : Nat) (v : CanCh) : (s.setCan i v).getSession j = s.getSession j := rfl
@[simp] theorem State.getArb_setCan (i j : Nat) (v : CanCh) : (s.setCan i v).getArb j = s.getArb j := rfl
@[simp] theorem State.getFabPort_setCan (i j : Nat) (v : CanCh) : (s.setCan i v).getFabPort j = s.getFabPort j := rfl
@[simp] theorem State.getEth_setCan (i j : Nat) (v : CanCh) : (s.setCan i v).getEth j = s.getEth j := rfl

/-! ### host -/

@[simp] theorem State.modHost_host (g : Host_ → Host_) : (s.modHost g).host = g s.host := rfl
@[simp] theorem State.modHost_pending (g : Host_ → Host_) : (s.modHost g).pending = s.pending := rfl
@[simp] theorem State.modHost_tick (g : Host_ → Host_) : (s.modHost g).tick = s.tick := rfl
@[simp] theorem State.modHost_freeCtr (g : Host_ → Host_) : (s.modHost g).freeCtr = s.freeCtr := rfl
@[simp] theorem State.modHost_time (g : Host_ → Host_) : (s.modHost g).time = s.time := rfl
@[simp] theorem State.modHost_tdc (g : Host_ → Host_) : (s.modHost g).tdc = s.tdc := rfl
@[simp] theorem State.modHost_tdcCal (g : Host_ → Host_) : (s.modHost g).tdcCal = s.tdcCal := rfl
@[simp] theorem State.modHost_cfg (g : Host_ → Host_) : (s.modHost g).cfg = s.cfg := rfl
@[simp] theorem State.modHost_ctr (g : Host_ → Host_) : (s.modHost g).ctr = s.ctr := rfl
@[simp] theorem State.modHost_pwm (g : Host_ → Host_) : (s.modHost g).pwm = s.pwm := rfl
@[simp] theorem State.modHost_quad (g : Host_ → Host_) : (s.modHost g).quad = s.quad := rfl
@[simp] theorem State.modHost_serial (g : Host_ → Host_) : (s.modHost g).serial = s.serial := rfl
@[simp] theorem State.modHost_fb (g : Host_ → Host_) : (s.modHost g).fb = s.fb := rfl
@[simp] theorem State.modHost_loop (g : Host_ → Host_) : (s.modHost g).loop = s.loop := rfl
@[simp] theorem State.modHost_flags (g : Host_ → Host_) : (s.modHost g).flags = s.flags := rfl
@[simp] theorem State.modHost_foc (g : Host_ → Host_) : (s.modHost g).foc = s.foc := rfl
@[simp] theorem State.modHost_sections (g : Host_ → Host_) : (s.modHost g).sections = s.sections := rfl
@[simp] theorem State.modHost_records (g : Host_ → Host_) : (s.modHost g).records = s.records := rfl
@[simp] theorem State.modHost_dc (g : Host_ → Host_) : (s.modHost g).dc = s.dc := rfl
@[simp] theorem State.modHost_engines (g : Host_ → Host_) : (s.modHost g).engines = s.engines := rfl
@[simp] theorem State.modHost_bank (g : Host_ → Host_) : (s.modHost g).bank = s.bank := rfl
@[simp] theorem State.modHost_waiters (g : Host_ → Host_) : (s.modHost g).waiters = s.waiters := rfl
@[simp] theorem State.modHost_aux (g : Host_ → Host_) : (s.modHost g).aux = s.aux := rfl
@[simp] theorem State.modHost_trails (g : Host_ → Host_) : (s.modHost g).trails = s.trails := rfl
@[simp] theorem State.modHost_followers (g : Host_ → Host_) : (s.modHost g).followers = s.followers := rfl
@[simp] theorem State.modHost_publishers (g : Host_ → Host_) : (s.modHost g).publishers = s.publishers := rfl
@[simp] theorem State.modHost_virt (g : Host_ → Host_) : (s.modHost g).virt = s.virt := rfl
@[simp] theorem State.modHost_remote (g : Host_ → Host_) : (s.modHost g).remote = s.remote := rfl
@[simp] theorem State.modHost_cams (g : Host_ → Host_) : (s.modHost g).cams = s.cams := rfl
@[simp] theorem State.modHost_steppers (g : Host_ → Host_) : (s.modHost g).steppers = s.steppers := rfl
@[simp] theorem State.modHost_caps (g : Host_ → Host_) : (s.modHost g).caps = s.caps := rfl
@[simp] theorem State.modHost_capMem (g : Host_ → Host_) : (s.modHost g).capMem = s.capMem := rfl
@[simp] theorem State.modHost_mailboxes (g : Host_ → Host_) : (s.modHost g).mailboxes = s.mailboxes := rfl
@[simp] theorem State.modHost_sessions (g : Host_ → Host_) : (s.modHost g).sessions = s.sessions := rfl
@[simp] theorem State.modHost_events (g : Host_ → Host_) : (s.modHost g).events = s.events := rfl
@[simp] theorem State.modHost_locks (g : Host_ → Host_) : (s.modHost g).locks = s.locks := rfl
@[simp] theorem State.modHost_sched (g : Host_ → Host_) : (s.modHost g).sched = s.sched := rfl
@[simp] theorem State.modHost_arbs (g : Host_ → Host_) : (s.modHost g).arbs = s.arbs := rfl
@[simp] theorem State.modHost_fabPorts (g : Host_ → Host_) : (s.modHost g).fabPorts = s.fabPorts := rfl
@[simp] theorem State.modHost_fabric (g : Host_ → Host_) : (s.modHost g).fabric = s.fabric := rfl
@[simp] theorem State.modHost_eth (g : Host_ → Host_) : (s.modHost g).eth = s.eth := rfl
@[simp] theorem State.modHost_can (g : Host_ → Host_) : (s.modHost g).can = s.can := rfl
@[simp] theorem State.modHost_fio (g : Host_ → Host_) : (s.modHost g).fio = s.fio := rfl
@[simp] theorem State.modHost_safety (g : Host_ → Host_) : (s.modHost g).safety = s.safety := rfl
@[simp] theorem State.modHost_power (g : Host_ → Host_) : (s.modHost g).power = s.power := rfl
@[simp] theorem State.getTdc_modHost (g : Host_ → Host_) (j : Nat) : (s.modHost g).getTdc j = s.getTdc j := rfl
@[simp] theorem State.getPwm_modHost (g : Host_ → Host_) (j : Nat) : (s.modHost g).getPwm j = s.getPwm j := rfl
@[simp] theorem State.getQuad_modHost (g : Host_ → Host_) (j : Nat) : (s.modHost g).getQuad j = s.getQuad j := rfl
@[simp] theorem State.getSerial_modHost (g : Host_ → Host_) (j : Nat) : (s.modHost g).getSerial j = s.getSerial j := rfl
@[simp] theorem State.getFb_modHost (g : Host_ → Host_) (j : Nat) : (s.modHost g).getFb j = s.getFb j := rfl
@[simp] theorem State.getLoop_modHost (g : Host_ → Host_) (j : Nat) : (s.modHost g).getLoop j = s.getLoop j := rfl
@[simp] theorem State.getFlags_modHost (g : Host_ → Host_) (j : Nat) : (s.modHost g).getFlags j = s.getFlags j := rfl
@[simp] theorem State.getFoc_modHost (g : Host_ → Host_) (j : Nat) : (s.modHost g).getFoc j = s.getFoc j := rfl
@[simp] theorem State.getSection_modHost (g : Host_ → Host_) (j : Nat) : (s.modHost g).getSection j = s.getSection j := rfl
@[simp] theorem State.getRecord_modHost (g : Host_ → Host_) (j : Nat) : (s.modHost g).getRecord j = s.getRecord j := rfl
@[simp] theorem State.getDc_modHost (g : Host_ → Host_) (j : Nat) : (s.modHost g).getDc j = s.getDc j := rfl
@[simp] theorem State.getEngine_modHost (g : Host_ → Host_) (j : Nat) : (s.modHost g).getEngine j = s.getEngine j := rfl
@[simp] theorem State.getAux_modHost (g : Host_ → Host_) (j : Nat) : (s.modHost g).getAux j = s.getAux j := rfl
@[simp] theorem State.getTrail_modHost (g : Host_ → Host_) (j : Nat) : (s.modHost g).getTrail j = s.getTrail j := rfl
@[simp] theorem State.getFollower_modHost (g : Host_ → Host_) (j : Nat) : (s.modHost g).getFollower j = s.getFollower j := rfl
@[simp] theorem State.getPublisher_modHost (g : Host_ → Host_) (j : Nat) : (s.modHost g).getPublisher j = s.getPublisher j := rfl
@[simp] theorem State.getVirt_modHost (g : Host_ → Host_) (j : Nat) : (s.modHost g).getVirt j = s.getVirt j := rfl
@[simp] theorem State.getRemote_modHost (g : Host_ → Host_) (j : Nat) : (s.modHost g).getRemote j = s.getRemote j := rfl
@[simp] theorem State.getCam_modHost (g : Host_ → Host_) (j : Nat) : (s.modHost g).getCam j = s.getCam j := rfl
@[simp] theorem State.getStepper_modHost (g : Host_ → Host_) (j : Nat) : (s.modHost g).getStepper j = s.getStepper j := rfl
@[simp] theorem State.getCap_modHost (g : Host_ → Host_) (j : Nat) : (s.modHost g).getCap j = s.getCap j := rfl
@[simp] theorem State.getMbx_modHost (g : Host_ → Host_) (j : Nat) : (s.modHost g).getMbx j = s.getMbx j := rfl
@[simp] theorem State.getSession_modHost (g : Host_ → Host_) (j : Nat) : (s.modHost g).getSession j = s.getSession j := rfl
@[simp] theorem State.getArb_modHost (g : Host_ → Host_) (j : Nat) : (s.modHost g).getArb j = s.getArb j := rfl
@[simp] theorem State.getFabPort_modHost (g : Host_ → Host_) (j : Nat) : (s.modHost g).getFabPort j = s.getFabPort j := rfl
@[simp] theorem State.getEth_modHost (g : Host_ → Host_) (j : Nat) : (s.modHost g).getEth j = s.getEth j := rfl
@[simp] theorem State.getCan_modHost (g : Host_ → Host_) (j : Nat) : (s.modHost g).getCan j = s.getCan j := rfl

/-! ### events -/

@[simp] theorem State.modEvents_events (g : Events → Events) : (s.modEvents g).events = g s.events := rfl
@[simp] theorem State.modEvents_pending (g : Events → Events) : (s.modEvents g).pending = s.pending := rfl
@[simp] theorem State.modEvents_tick (g : Events → Events) : (s.modEvents g).tick = s.tick := rfl
@[simp] theorem State.modEvents_freeCtr (g : Events → Events) : (s.modEvents g).freeCtr = s.freeCtr := rfl
@[simp] theorem State.modEvents_time (g : Events → Events) : (s.modEvents g).time = s.time := rfl
@[simp] theorem State.modEvents_tdc (g : Events → Events) : (s.modEvents g).tdc = s.tdc := rfl
@[simp] theorem State.modEvents_tdcCal (g : Events → Events) : (s.modEvents g).tdcCal = s.tdcCal := rfl
@[simp] theorem State.modEvents_cfg (g : Events → Events) : (s.modEvents g).cfg = s.cfg := rfl
@[simp] theorem State.modEvents_ctr (g : Events → Events) : (s.modEvents g).ctr = s.ctr := rfl
@[simp] theorem State.modEvents_pwm (g : Events → Events) : (s.modEvents g).pwm = s.pwm := rfl
@[simp] theorem State.modEvents_quad (g : Events → Events) : (s.modEvents g).quad = s.quad := rfl
@[simp] theorem State.modEvents_serial (g : Events → Events) : (s.modEvents g).serial = s.serial := rfl
@[simp] theorem State.modEvents_fb (g : Events → Events) : (s.modEvents g).fb = s.fb := rfl
@[simp] theorem State.modEvents_loop (g : Events → Events) : (s.modEvents g).loop = s.loop := rfl
@[simp] theorem State.modEvents_flags (g : Events → Events) : (s.modEvents g).flags = s.flags := rfl
@[simp] theorem State.modEvents_foc (g : Events → Events) : (s.modEvents g).foc = s.foc := rfl
@[simp] theorem State.modEvents_sections (g : Events → Events) : (s.modEvents g).sections = s.sections := rfl
@[simp] theorem State.modEvents_records (g : Events → Events) : (s.modEvents g).records = s.records := rfl
@[simp] theorem State.modEvents_dc (g : Events → Events) : (s.modEvents g).dc = s.dc := rfl
@[simp] theorem State.modEvents_engines (g : Events → Events) : (s.modEvents g).engines = s.engines := rfl
@[simp] theorem State.modEvents_bank (g : Events → Events) : (s.modEvents g).bank = s.bank := rfl
@[simp] theorem State.modEvents_waiters (g : Events → Events) : (s.modEvents g).waiters = s.waiters := rfl
@[simp] theorem State.modEvents_aux (g : Events → Events) : (s.modEvents g).aux = s.aux := rfl
@[simp] theorem State.modEvents_trails (g : Events → Events) : (s.modEvents g).trails = s.trails := rfl
@[simp] theorem State.modEvents_followers (g : Events → Events) : (s.modEvents g).followers = s.followers := rfl
@[simp] theorem State.modEvents_publishers (g : Events → Events) : (s.modEvents g).publishers = s.publishers := rfl
@[simp] theorem State.modEvents_virt (g : Events → Events) : (s.modEvents g).virt = s.virt := rfl
@[simp] theorem State.modEvents_remote (g : Events → Events) : (s.modEvents g).remote = s.remote := rfl
@[simp] theorem State.modEvents_cams (g : Events → Events) : (s.modEvents g).cams = s.cams := rfl
@[simp] theorem State.modEvents_steppers (g : Events → Events) : (s.modEvents g).steppers = s.steppers := rfl
@[simp] theorem State.modEvents_caps (g : Events → Events) : (s.modEvents g).caps = s.caps := rfl
@[simp] theorem State.modEvents_capMem (g : Events → Events) : (s.modEvents g).capMem = s.capMem := rfl
@[simp] theorem State.modEvents_mailboxes (g : Events → Events) : (s.modEvents g).mailboxes = s.mailboxes := rfl
@[simp] theorem State.modEvents_sessions (g : Events → Events) : (s.modEvents g).sessions = s.sessions := rfl
@[simp] theorem State.modEvents_host (g : Events → Events) : (s.modEvents g).host = s.host := rfl
@[simp] theorem State.modEvents_locks (g : Events → Events) : (s.modEvents g).locks = s.locks := rfl
@[simp] theorem State.modEvents_sched (g : Events → Events) : (s.modEvents g).sched = s.sched := rfl
@[simp] theorem State.modEvents_arbs (g : Events → Events) : (s.modEvents g).arbs = s.arbs := rfl
@[simp] theorem State.modEvents_fabPorts (g : Events → Events) : (s.modEvents g).fabPorts = s.fabPorts := rfl
@[simp] theorem State.modEvents_fabric (g : Events → Events) : (s.modEvents g).fabric = s.fabric := rfl
@[simp] theorem State.modEvents_eth (g : Events → Events) : (s.modEvents g).eth = s.eth := rfl
@[simp] theorem State.modEvents_can (g : Events → Events) : (s.modEvents g).can = s.can := rfl
@[simp] theorem State.modEvents_fio (g : Events → Events) : (s.modEvents g).fio = s.fio := rfl
@[simp] theorem State.modEvents_safety (g : Events → Events) : (s.modEvents g).safety = s.safety := rfl
@[simp] theorem State.modEvents_power (g : Events → Events) : (s.modEvents g).power = s.power := rfl
@[simp] theorem State.getTdc_modEvents (g : Events → Events) (j : Nat) : (s.modEvents g).getTdc j = s.getTdc j := rfl
@[simp] theorem State.getPwm_modEvents (g : Events → Events) (j : Nat) : (s.modEvents g).getPwm j = s.getPwm j := rfl
@[simp] theorem State.getQuad_modEvents (g : Events → Events) (j : Nat) : (s.modEvents g).getQuad j = s.getQuad j := rfl
@[simp] theorem State.getSerial_modEvents (g : Events → Events) (j : Nat) : (s.modEvents g).getSerial j = s.getSerial j := rfl
@[simp] theorem State.getFb_modEvents (g : Events → Events) (j : Nat) : (s.modEvents g).getFb j = s.getFb j := rfl
@[simp] theorem State.getLoop_modEvents (g : Events → Events) (j : Nat) : (s.modEvents g).getLoop j = s.getLoop j := rfl
@[simp] theorem State.getFlags_modEvents (g : Events → Events) (j : Nat) : (s.modEvents g).getFlags j = s.getFlags j := rfl
@[simp] theorem State.getFoc_modEvents (g : Events → Events) (j : Nat) : (s.modEvents g).getFoc j = s.getFoc j := rfl
@[simp] theorem State.getSection_modEvents (g : Events → Events) (j : Nat) : (s.modEvents g).getSection j = s.getSection j := rfl
@[simp] theorem State.getRecord_modEvents (g : Events → Events) (j : Nat) : (s.modEvents g).getRecord j = s.getRecord j := rfl
@[simp] theorem State.getDc_modEvents (g : Events → Events) (j : Nat) : (s.modEvents g).getDc j = s.getDc j := rfl
@[simp] theorem State.getEngine_modEvents (g : Events → Events) (j : Nat) : (s.modEvents g).getEngine j = s.getEngine j := rfl
@[simp] theorem State.getAux_modEvents (g : Events → Events) (j : Nat) : (s.modEvents g).getAux j = s.getAux j := rfl
@[simp] theorem State.getTrail_modEvents (g : Events → Events) (j : Nat) : (s.modEvents g).getTrail j = s.getTrail j := rfl
@[simp] theorem State.getFollower_modEvents (g : Events → Events) (j : Nat) : (s.modEvents g).getFollower j = s.getFollower j := rfl
@[simp] theorem State.getPublisher_modEvents (g : Events → Events) (j : Nat) : (s.modEvents g).getPublisher j = s.getPublisher j := rfl
@[simp] theorem State.getVirt_modEvents (g : Events → Events) (j : Nat) : (s.modEvents g).getVirt j = s.getVirt j := rfl
@[simp] theorem State.getRemote_modEvents (g : Events → Events) (j : Nat) : (s.modEvents g).getRemote j = s.getRemote j := rfl
@[simp] theorem State.getCam_modEvents (g : Events → Events) (j : Nat) : (s.modEvents g).getCam j = s.getCam j := rfl
@[simp] theorem State.getStepper_modEvents (g : Events → Events) (j : Nat) : (s.modEvents g).getStepper j = s.getStepper j := rfl
@[simp] theorem State.getCap_modEvents (g : Events → Events) (j : Nat) : (s.modEvents g).getCap j = s.getCap j := rfl
@[simp] theorem State.getMbx_modEvents (g : Events → Events) (j : Nat) : (s.modEvents g).getMbx j = s.getMbx j := rfl
@[simp] theorem State.getSession_modEvents (g : Events → Events) (j : Nat) : (s.modEvents g).getSession j = s.getSession j := rfl
@[simp] theorem State.getArb_modEvents (g : Events → Events) (j : Nat) : (s.modEvents g).getArb j = s.getArb j := rfl
@[simp] theorem State.getFabPort_modEvents (g : Events → Events) (j : Nat) : (s.modEvents g).getFabPort j = s.getFabPort j := rfl
@[simp] theorem State.getEth_modEvents (g : Events → Events) (j : Nat) : (s.modEvents g).getEth j = s.getEth j := rfl
@[simp] theorem State.getCan_modEvents (g : Events → Events) (j : Nat) : (s.modEvents g).getCan j = s.getCan j := rfl

/-! ### fabric -/

@[simp] theorem State.modFabric_fabric (g : Fabric → Fabric) : (s.modFabric g).fabric = g s.fabric := rfl
@[simp] theorem State.modFabric_pending (g : Fabric → Fabric) : (s.modFabric g).pending = s.pending := rfl
@[simp] theorem State.modFabric_tick (g : Fabric → Fabric) : (s.modFabric g).tick = s.tick := rfl
@[simp] theorem State.modFabric_freeCtr (g : Fabric → Fabric) : (s.modFabric g).freeCtr = s.freeCtr := rfl
@[simp] theorem State.modFabric_time (g : Fabric → Fabric) : (s.modFabric g).time = s.time := rfl
@[simp] theorem State.modFabric_tdc (g : Fabric → Fabric) : (s.modFabric g).tdc = s.tdc := rfl
@[simp] theorem State.modFabric_tdcCal (g : Fabric → Fabric) : (s.modFabric g).tdcCal = s.tdcCal := rfl
@[simp] theorem State.modFabric_cfg (g : Fabric → Fabric) : (s.modFabric g).cfg = s.cfg := rfl
@[simp] theorem State.modFabric_ctr (g : Fabric → Fabric) : (s.modFabric g).ctr = s.ctr := rfl
@[simp] theorem State.modFabric_pwm (g : Fabric → Fabric) : (s.modFabric g).pwm = s.pwm := rfl
@[simp] theorem State.modFabric_quad (g : Fabric → Fabric) : (s.modFabric g).quad = s.quad := rfl
@[simp] theorem State.modFabric_serial (g : Fabric → Fabric) : (s.modFabric g).serial = s.serial := rfl
@[simp] theorem State.modFabric_fb (g : Fabric → Fabric) : (s.modFabric g).fb = s.fb := rfl
@[simp] theorem State.modFabric_loop (g : Fabric → Fabric) : (s.modFabric g).loop = s.loop := rfl
@[simp] theorem State.modFabric_flags (g : Fabric → Fabric) : (s.modFabric g).flags = s.flags := rfl
@[simp] theorem State.modFabric_foc (g : Fabric → Fabric) : (s.modFabric g).foc = s.foc := rfl
@[simp] theorem State.modFabric_sections (g : Fabric → Fabric) : (s.modFabric g).sections = s.sections := rfl
@[simp] theorem State.modFabric_records (g : Fabric → Fabric) : (s.modFabric g).records = s.records := rfl
@[simp] theorem State.modFabric_dc (g : Fabric → Fabric) : (s.modFabric g).dc = s.dc := rfl
@[simp] theorem State.modFabric_engines (g : Fabric → Fabric) : (s.modFabric g).engines = s.engines := rfl
@[simp] theorem State.modFabric_bank (g : Fabric → Fabric) : (s.modFabric g).bank = s.bank := rfl
@[simp] theorem State.modFabric_waiters (g : Fabric → Fabric) : (s.modFabric g).waiters = s.waiters := rfl
@[simp] theorem State.modFabric_aux (g : Fabric → Fabric) : (s.modFabric g).aux = s.aux := rfl
@[simp] theorem State.modFabric_trails (g : Fabric → Fabric) : (s.modFabric g).trails = s.trails := rfl
@[simp] theorem State.modFabric_followers (g : Fabric → Fabric) : (s.modFabric g).followers = s.followers := rfl
@[simp] theorem State.modFabric_publishers (g : Fabric → Fabric) : (s.modFabric g).publishers = s.publishers := rfl
@[simp] theorem State.modFabric_virt (g : Fabric → Fabric) : (s.modFabric g).virt = s.virt := rfl
@[simp] theorem State.modFabric_remote (g : Fabric → Fabric) : (s.modFabric g).remote = s.remote := rfl
@[simp] theorem State.modFabric_cams (g : Fabric → Fabric) : (s.modFabric g).cams = s.cams := rfl
@[simp] theorem State.modFabric_steppers (g : Fabric → Fabric) : (s.modFabric g).steppers = s.steppers := rfl
@[simp] theorem State.modFabric_caps (g : Fabric → Fabric) : (s.modFabric g).caps = s.caps := rfl
@[simp] theorem State.modFabric_capMem (g : Fabric → Fabric) : (s.modFabric g).capMem = s.capMem := rfl
@[simp] theorem State.modFabric_mailboxes (g : Fabric → Fabric) : (s.modFabric g).mailboxes = s.mailboxes := rfl
@[simp] theorem State.modFabric_sessions (g : Fabric → Fabric) : (s.modFabric g).sessions = s.sessions := rfl
@[simp] theorem State.modFabric_host (g : Fabric → Fabric) : (s.modFabric g).host = s.host := rfl
@[simp] theorem State.modFabric_events (g : Fabric → Fabric) : (s.modFabric g).events = s.events := rfl
@[simp] theorem State.modFabric_locks (g : Fabric → Fabric) : (s.modFabric g).locks = s.locks := rfl
@[simp] theorem State.modFabric_sched (g : Fabric → Fabric) : (s.modFabric g).sched = s.sched := rfl
@[simp] theorem State.modFabric_arbs (g : Fabric → Fabric) : (s.modFabric g).arbs = s.arbs := rfl
@[simp] theorem State.modFabric_fabPorts (g : Fabric → Fabric) : (s.modFabric g).fabPorts = s.fabPorts := rfl
@[simp] theorem State.modFabric_eth (g : Fabric → Fabric) : (s.modFabric g).eth = s.eth := rfl
@[simp] theorem State.modFabric_can (g : Fabric → Fabric) : (s.modFabric g).can = s.can := rfl
@[simp] theorem State.modFabric_fio (g : Fabric → Fabric) : (s.modFabric g).fio = s.fio := rfl
@[simp] theorem State.modFabric_safety (g : Fabric → Fabric) : (s.modFabric g).safety = s.safety := rfl
@[simp] theorem State.modFabric_power (g : Fabric → Fabric) : (s.modFabric g).power = s.power := rfl
@[simp] theorem State.getTdc_modFabric (g : Fabric → Fabric) (j : Nat) : (s.modFabric g).getTdc j = s.getTdc j := rfl
@[simp] theorem State.getPwm_modFabric (g : Fabric → Fabric) (j : Nat) : (s.modFabric g).getPwm j = s.getPwm j := rfl
@[simp] theorem State.getQuad_modFabric (g : Fabric → Fabric) (j : Nat) : (s.modFabric g).getQuad j = s.getQuad j := rfl
@[simp] theorem State.getSerial_modFabric (g : Fabric → Fabric) (j : Nat) : (s.modFabric g).getSerial j = s.getSerial j := rfl
@[simp] theorem State.getFb_modFabric (g : Fabric → Fabric) (j : Nat) : (s.modFabric g).getFb j = s.getFb j := rfl
@[simp] theorem State.getLoop_modFabric (g : Fabric → Fabric) (j : Nat) : (s.modFabric g).getLoop j = s.getLoop j := rfl
@[simp] theorem State.getFlags_modFabric (g : Fabric → Fabric) (j : Nat) : (s.modFabric g).getFlags j = s.getFlags j := rfl
@[simp] theorem State.getFoc_modFabric (g : Fabric → Fabric) (j : Nat) : (s.modFabric g).getFoc j = s.getFoc j := rfl
@[simp] theorem State.getSection_modFabric (g : Fabric → Fabric) (j : Nat) : (s.modFabric g).getSection j = s.getSection j := rfl
@[simp] theorem State.getRecord_modFabric (g : Fabric → Fabric) (j : Nat) : (s.modFabric g).getRecord j = s.getRecord j := rfl
@[simp] theorem State.getDc_modFabric (g : Fabric → Fabric) (j : Nat) : (s.modFabric g).getDc j = s.getDc j := rfl
@[simp] theorem State.getEngine_modFabric (g : Fabric → Fabric) (j : Nat) : (s.modFabric g).getEngine j = s.getEngine j := rfl
@[simp] theorem State.getAux_modFabric (g : Fabric → Fabric) (j : Nat) : (s.modFabric g).getAux j = s.getAux j := rfl
@[simp] theorem State.getTrail_modFabric (g : Fabric → Fabric) (j : Nat) : (s.modFabric g).getTrail j = s.getTrail j := rfl
@[simp] theorem State.getFollower_modFabric (g : Fabric → Fabric) (j : Nat) : (s.modFabric g).getFollower j = s.getFollower j := rfl
@[simp] theorem State.getPublisher_modFabric (g : Fabric → Fabric) (j : Nat) : (s.modFabric g).getPublisher j = s.getPublisher j := rfl
@[simp] theorem State.getVirt_modFabric (g : Fabric → Fabric) (j : Nat) : (s.modFabric g).getVirt j = s.getVirt j := rfl
@[simp] theorem State.getRemote_modFabric (g : Fabric → Fabric) (j : Nat) : (s.modFabric g).getRemote j = s.getRemote j := rfl
@[simp] theorem State.getCam_modFabric (g : Fabric → Fabric) (j : Nat) : (s.modFabric g).getCam j = s.getCam j := rfl
@[simp] theorem State.getStepper_modFabric (g : Fabric → Fabric) (j : Nat) : (s.modFabric g).getStepper j = s.getStepper j := rfl
@[simp] theorem State.getCap_modFabric (g : Fabric → Fabric) (j : Nat) : (s.modFabric g).getCap j = s.getCap j := rfl
@[simp] theorem State.getMbx_modFabric (g : Fabric → Fabric) (j : Nat) : (s.modFabric g).getMbx j = s.getMbx j := rfl
@[simp] theorem State.getSession_modFabric (g : Fabric → Fabric) (j : Nat) : (s.modFabric g).getSession j = s.getSession j := rfl
@[simp] theorem State.getArb_modFabric (g : Fabric → Fabric) (j : Nat) : (s.modFabric g).getArb j = s.getArb j := rfl
@[simp] theorem State.getFabPort_modFabric (g : Fabric → Fabric) (j : Nat) : (s.modFabric g).getFabPort j = s.getFabPort j := rfl
@[simp] theorem State.getEth_modFabric (g : Fabric → Fabric) (j : Nat) : (s.modFabric g).getEth j = s.getEth j := rfl
@[simp] theorem State.getCan_modFabric (g : Fabric → Fabric) (j : Nat) : (s.modFabric g).getCan j = s.getCan j := rfl

/-! ### fio -/

@[simp] theorem State.modFio_fio (g : Fio → Fio) : (s.modFio g).fio = g s.fio := rfl
@[simp] theorem State.modFio_pending (g : Fio → Fio) : (s.modFio g).pending = s.pending := rfl
@[simp] theorem State.modFio_tick (g : Fio → Fio) : (s.modFio g).tick = s.tick := rfl
@[simp] theorem State.modFio_freeCtr (g : Fio → Fio) : (s.modFio g).freeCtr = s.freeCtr := rfl
@[simp] theorem State.modFio_time (g : Fio → Fio) : (s.modFio g).time = s.time := rfl
@[simp] theorem State.modFio_tdc (g : Fio → Fio) : (s.modFio g).tdc = s.tdc := rfl
@[simp] theorem State.modFio_tdcCal (g : Fio → Fio) : (s.modFio g).tdcCal = s.tdcCal := rfl
@[simp] theorem State.modFio_cfg (g : Fio → Fio) : (s.modFio g).cfg = s.cfg := rfl
@[simp] theorem State.modFio_ctr (g : Fio → Fio) : (s.modFio g).ctr = s.ctr := rfl
@[simp] theorem State.modFio_pwm (g : Fio → Fio) : (s.modFio g).pwm = s.pwm := rfl
@[simp] theorem State.modFio_quad (g : Fio → Fio) : (s.modFio g).quad = s.quad := rfl
@[simp] theorem State.modFio_serial (g : Fio → Fio) : (s.modFio g).serial = s.serial := rfl
@[simp] theorem State.modFio_fb (g : Fio → Fio) : (s.modFio g).fb = s.fb := rfl
@[simp] theorem State.modFio_loop (g : Fio → Fio) : (s.modFio g).loop = s.loop := rfl
@[simp] theorem State.modFio_flags (g : Fio → Fio) : (s.modFio g).flags = s.flags := rfl
@[simp] theorem State.modFio_foc (g : Fio → Fio) : (s.modFio g).foc = s.foc := rfl
@[simp] theorem State.modFio_sections (g : Fio → Fio) : (s.modFio g).sections = s.sections := rfl
@[simp] theorem State.modFio_records (g : Fio → Fio) : (s.modFio g).records = s.records := rfl
@[simp] theorem State.modFio_dc (g : Fio → Fio) : (s.modFio g).dc = s.dc := rfl
@[simp] theorem State.modFio_engines (g : Fio → Fio) : (s.modFio g).engines = s.engines := rfl
@[simp] theorem State.modFio_bank (g : Fio → Fio) : (s.modFio g).bank = s.bank := rfl
@[simp] theorem State.modFio_waiters (g : Fio → Fio) : (s.modFio g).waiters = s.waiters := rfl
@[simp] theorem State.modFio_aux (g : Fio → Fio) : (s.modFio g).aux = s.aux := rfl
@[simp] theorem State.modFio_trails (g : Fio → Fio) : (s.modFio g).trails = s.trails := rfl
@[simp] theorem State.modFio_followers (g : Fio → Fio) : (s.modFio g).followers = s.followers := rfl
@[simp] theorem State.modFio_publishers (g : Fio → Fio) : (s.modFio g).publishers = s.publishers := rfl
@[simp] theorem State.modFio_virt (g : Fio → Fio) : (s.modFio g).virt = s.virt := rfl
@[simp] theorem State.modFio_remote (g : Fio → Fio) : (s.modFio g).remote = s.remote := rfl
@[simp] theorem State.modFio_cams (g : Fio → Fio) : (s.modFio g).cams = s.cams := rfl
@[simp] theorem State.modFio_steppers (g : Fio → Fio) : (s.modFio g).steppers = s.steppers := rfl
@[simp] theorem State.modFio_caps (g : Fio → Fio) : (s.modFio g).caps = s.caps := rfl
@[simp] theorem State.modFio_capMem (g : Fio → Fio) : (s.modFio g).capMem = s.capMem := rfl
@[simp] theorem State.modFio_mailboxes (g : Fio → Fio) : (s.modFio g).mailboxes = s.mailboxes := rfl
@[simp] theorem State.modFio_sessions (g : Fio → Fio) : (s.modFio g).sessions = s.sessions := rfl
@[simp] theorem State.modFio_host (g : Fio → Fio) : (s.modFio g).host = s.host := rfl
@[simp] theorem State.modFio_events (g : Fio → Fio) : (s.modFio g).events = s.events := rfl
@[simp] theorem State.modFio_locks (g : Fio → Fio) : (s.modFio g).locks = s.locks := rfl
@[simp] theorem State.modFio_sched (g : Fio → Fio) : (s.modFio g).sched = s.sched := rfl
@[simp] theorem State.modFio_arbs (g : Fio → Fio) : (s.modFio g).arbs = s.arbs := rfl
@[simp] theorem State.modFio_fabPorts (g : Fio → Fio) : (s.modFio g).fabPorts = s.fabPorts := rfl
@[simp] theorem State.modFio_fabric (g : Fio → Fio) : (s.modFio g).fabric = s.fabric := rfl
@[simp] theorem State.modFio_eth (g : Fio → Fio) : (s.modFio g).eth = s.eth := rfl
@[simp] theorem State.modFio_can (g : Fio → Fio) : (s.modFio g).can = s.can := rfl
@[simp] theorem State.modFio_safety (g : Fio → Fio) : (s.modFio g).safety = s.safety := rfl
@[simp] theorem State.modFio_power (g : Fio → Fio) : (s.modFio g).power = s.power := rfl
@[simp] theorem State.getTdc_modFio (g : Fio → Fio) (j : Nat) : (s.modFio g).getTdc j = s.getTdc j := rfl
@[simp] theorem State.getPwm_modFio (g : Fio → Fio) (j : Nat) : (s.modFio g).getPwm j = s.getPwm j := rfl
@[simp] theorem State.getQuad_modFio (g : Fio → Fio) (j : Nat) : (s.modFio g).getQuad j = s.getQuad j := rfl
@[simp] theorem State.getSerial_modFio (g : Fio → Fio) (j : Nat) : (s.modFio g).getSerial j = s.getSerial j := rfl
@[simp] theorem State.getFb_modFio (g : Fio → Fio) (j : Nat) : (s.modFio g).getFb j = s.getFb j := rfl
@[simp] theorem State.getLoop_modFio (g : Fio → Fio) (j : Nat) : (s.modFio g).getLoop j = s.getLoop j := rfl
@[simp] theorem State.getFlags_modFio (g : Fio → Fio) (j : Nat) : (s.modFio g).getFlags j = s.getFlags j := rfl
@[simp] theorem State.getFoc_modFio (g : Fio → Fio) (j : Nat) : (s.modFio g).getFoc j = s.getFoc j := rfl
@[simp] theorem State.getSection_modFio (g : Fio → Fio) (j : Nat) : (s.modFio g).getSection j = s.getSection j := rfl
@[simp] theorem State.getRecord_modFio (g : Fio → Fio) (j : Nat) : (s.modFio g).getRecord j = s.getRecord j := rfl
@[simp] theorem State.getDc_modFio (g : Fio → Fio) (j : Nat) : (s.modFio g).getDc j = s.getDc j := rfl
@[simp] theorem State.getEngine_modFio (g : Fio → Fio) (j : Nat) : (s.modFio g).getEngine j = s.getEngine j := rfl
@[simp] theorem State.getAux_modFio (g : Fio → Fio) (j : Nat) : (s.modFio g).getAux j = s.getAux j := rfl
@[simp] theorem State.getTrail_modFio (g : Fio → Fio) (j : Nat) : (s.modFio g).getTrail j = s.getTrail j := rfl
@[simp] theorem State.getFollower_modFio (g : Fio → Fio) (j : Nat) : (s.modFio g).getFollower j = s.getFollower j := rfl
@[simp] theorem State.getPublisher_modFio (g : Fio → Fio) (j : Nat) : (s.modFio g).getPublisher j = s.getPublisher j := rfl
@[simp] theorem State.getVirt_modFio (g : Fio → Fio) (j : Nat) : (s.modFio g).getVirt j = s.getVirt j := rfl
@[simp] theorem State.getRemote_modFio (g : Fio → Fio) (j : Nat) : (s.modFio g).getRemote j = s.getRemote j := rfl
@[simp] theorem State.getCam_modFio (g : Fio → Fio) (j : Nat) : (s.modFio g).getCam j = s.getCam j := rfl
@[simp] theorem State.getStepper_modFio (g : Fio → Fio) (j : Nat) : (s.modFio g).getStepper j = s.getStepper j := rfl
@[simp] theorem State.getCap_modFio (g : Fio → Fio) (j : Nat) : (s.modFio g).getCap j = s.getCap j := rfl
@[simp] theorem State.getMbx_modFio (g : Fio → Fio) (j : Nat) : (s.modFio g).getMbx j = s.getMbx j := rfl
@[simp] theorem State.getSession_modFio (g : Fio → Fio) (j : Nat) : (s.modFio g).getSession j = s.getSession j := rfl
@[simp] theorem State.getArb_modFio (g : Fio → Fio) (j : Nat) : (s.modFio g).getArb j = s.getArb j := rfl
@[simp] theorem State.getFabPort_modFio (g : Fio → Fio) (j : Nat) : (s.modFio g).getFabPort j = s.getFabPort j := rfl
@[simp] theorem State.getEth_modFio (g : Fio → Fio) (j : Nat) : (s.modFio g).getEth j = s.getEth j := rfl
@[simp] theorem State.getCan_modFio (g : Fio → Fio) (j : Nat) : (s.modFio g).getCan j = s.getCan j := rfl

/-! ### safety -/

@[simp] theorem State.modSafety_safety (g : Safety → Safety) : (s.modSafety g).safety = g s.safety := rfl
@[simp] theorem State.modSafety_pending (g : Safety → Safety) : (s.modSafety g).pending = s.pending := rfl
@[simp] theorem State.modSafety_tick (g : Safety → Safety) : (s.modSafety g).tick = s.tick := rfl
@[simp] theorem State.modSafety_freeCtr (g : Safety → Safety) : (s.modSafety g).freeCtr = s.freeCtr := rfl
@[simp] theorem State.modSafety_time (g : Safety → Safety) : (s.modSafety g).time = s.time := rfl
@[simp] theorem State.modSafety_tdc (g : Safety → Safety) : (s.modSafety g).tdc = s.tdc := rfl
@[simp] theorem State.modSafety_tdcCal (g : Safety → Safety) : (s.modSafety g).tdcCal = s.tdcCal := rfl
@[simp] theorem State.modSafety_cfg (g : Safety → Safety) : (s.modSafety g).cfg = s.cfg := rfl
@[simp] theorem State.modSafety_ctr (g : Safety → Safety) : (s.modSafety g).ctr = s.ctr := rfl
@[simp] theorem State.modSafety_pwm (g : Safety → Safety) : (s.modSafety g).pwm = s.pwm := rfl
@[simp] theorem State.modSafety_quad (g : Safety → Safety) : (s.modSafety g).quad = s.quad := rfl
@[simp] theorem State.modSafety_serial (g : Safety → Safety) : (s.modSafety g).serial = s.serial := rfl
@[simp] theorem State.modSafety_fb (g : Safety → Safety) : (s.modSafety g).fb = s.fb := rfl
@[simp] theorem State.modSafety_loop (g : Safety → Safety) : (s.modSafety g).loop = s.loop := rfl
@[simp] theorem State.modSafety_flags (g : Safety → Safety) : (s.modSafety g).flags = s.flags := rfl
@[simp] theorem State.modSafety_foc (g : Safety → Safety) : (s.modSafety g).foc = s.foc := rfl
@[simp] theorem State.modSafety_sections (g : Safety → Safety) : (s.modSafety g).sections = s.sections := rfl
@[simp] theorem State.modSafety_records (g : Safety → Safety) : (s.modSafety g).records = s.records := rfl
@[simp] theorem State.modSafety_dc (g : Safety → Safety) : (s.modSafety g).dc = s.dc := rfl
@[simp] theorem State.modSafety_engines (g : Safety → Safety) : (s.modSafety g).engines = s.engines := rfl
@[simp] theorem State.modSafety_bank (g : Safety → Safety) : (s.modSafety g).bank = s.bank := rfl
@[simp] theorem State.modSafety_waiters (g : Safety → Safety) : (s.modSafety g).waiters = s.waiters := rfl
@[simp] theorem State.modSafety_aux (g : Safety → Safety) : (s.modSafety g).aux = s.aux := rfl
@[simp] theorem State.modSafety_trails (g : Safety → Safety) : (s.modSafety g).trails = s.trails := rfl
@[simp] theorem State.modSafety_followers (g : Safety → Safety) : (s.modSafety g).followers = s.followers := rfl
@[simp] theorem State.modSafety_publishers (g : Safety → Safety) : (s.modSafety g).publishers = s.publishers := rfl
@[simp] theorem State.modSafety_virt (g : Safety → Safety) : (s.modSafety g).virt = s.virt := rfl
@[simp] theorem State.modSafety_remote (g : Safety → Safety) : (s.modSafety g).remote = s.remote := rfl
@[simp] theorem State.modSafety_cams (g : Safety → Safety) : (s.modSafety g).cams = s.cams := rfl
@[simp] theorem State.modSafety_steppers (g : Safety → Safety) : (s.modSafety g).steppers = s.steppers := rfl
@[simp] theorem State.modSafety_caps (g : Safety → Safety) : (s.modSafety g).caps = s.caps := rfl
@[simp] theorem State.modSafety_capMem (g : Safety → Safety) : (s.modSafety g).capMem = s.capMem := rfl
@[simp] theorem State.modSafety_mailboxes (g : Safety → Safety) : (s.modSafety g).mailboxes = s.mailboxes := rfl
@[simp] theorem State.modSafety_sessions (g : Safety → Safety) : (s.modSafety g).sessions = s.sessions := rfl
@[simp] theorem State.modSafety_host (g : Safety → Safety) : (s.modSafety g).host = s.host := rfl
@[simp] theorem State.modSafety_events (g : Safety → Safety) : (s.modSafety g).events = s.events := rfl
@[simp] theorem State.modSafety_locks (g : Safety → Safety) : (s.modSafety g).locks = s.locks := rfl
@[simp] theorem State.modSafety_sched (g : Safety → Safety) : (s.modSafety g).sched = s.sched := rfl
@[simp] theorem State.modSafety_arbs (g : Safety → Safety) : (s.modSafety g).arbs = s.arbs := rfl
@[simp] theorem State.modSafety_fabPorts (g : Safety → Safety) : (s.modSafety g).fabPorts = s.fabPorts := rfl
@[simp] theorem State.modSafety_fabric (g : Safety → Safety) : (s.modSafety g).fabric = s.fabric := rfl
@[simp] theorem State.modSafety_eth (g : Safety → Safety) : (s.modSafety g).eth = s.eth := rfl
@[simp] theorem State.modSafety_can (g : Safety → Safety) : (s.modSafety g).can = s.can := rfl
@[simp] theorem State.modSafety_fio (g : Safety → Safety) : (s.modSafety g).fio = s.fio := rfl
@[simp] theorem State.modSafety_power (g : Safety → Safety) : (s.modSafety g).power = s.power := rfl
@[simp] theorem State.getTdc_modSafety (g : Safety → Safety) (j : Nat) : (s.modSafety g).getTdc j = s.getTdc j := rfl
@[simp] theorem State.getPwm_modSafety (g : Safety → Safety) (j : Nat) : (s.modSafety g).getPwm j = s.getPwm j := rfl
@[simp] theorem State.getQuad_modSafety (g : Safety → Safety) (j : Nat) : (s.modSafety g).getQuad j = s.getQuad j := rfl
@[simp] theorem State.getSerial_modSafety (g : Safety → Safety) (j : Nat) : (s.modSafety g).getSerial j = s.getSerial j := rfl
@[simp] theorem State.getFb_modSafety (g : Safety → Safety) (j : Nat) : (s.modSafety g).getFb j = s.getFb j := rfl
@[simp] theorem State.getLoop_modSafety (g : Safety → Safety) (j : Nat) : (s.modSafety g).getLoop j = s.getLoop j := rfl
@[simp] theorem State.getFlags_modSafety (g : Safety → Safety) (j : Nat) : (s.modSafety g).getFlags j = s.getFlags j := rfl
@[simp] theorem State.getFoc_modSafety (g : Safety → Safety) (j : Nat) : (s.modSafety g).getFoc j = s.getFoc j := rfl
@[simp] theorem State.getSection_modSafety (g : Safety → Safety) (j : Nat) : (s.modSafety g).getSection j = s.getSection j := rfl
@[simp] theorem State.getRecord_modSafety (g : Safety → Safety) (j : Nat) : (s.modSafety g).getRecord j = s.getRecord j := rfl
@[simp] theorem State.getDc_modSafety (g : Safety → Safety) (j : Nat) : (s.modSafety g).getDc j = s.getDc j := rfl
@[simp] theorem State.getEngine_modSafety (g : Safety → Safety) (j : Nat) : (s.modSafety g).getEngine j = s.getEngine j := rfl
@[simp] theorem State.getAux_modSafety (g : Safety → Safety) (j : Nat) : (s.modSafety g).getAux j = s.getAux j := rfl
@[simp] theorem State.getTrail_modSafety (g : Safety → Safety) (j : Nat) : (s.modSafety g).getTrail j = s.getTrail j := rfl
@[simp] theorem State.getFollower_modSafety (g : Safety → Safety) (j : Nat) : (s.modSafety g).getFollower j = s.getFollower j := rfl
@[simp] theorem State.getPublisher_modSafety (g : Safety → Safety) (j : Nat) : (s.modSafety g).getPublisher j = s.getPublisher j := rfl
@[simp] theorem State.getVirt_modSafety (g : Safety → Safety) (j : Nat) : (s.modSafety g).getVirt j = s.getVirt j := rfl
@[simp] theorem State.getRemote_modSafety (g : Safety → Safety) (j : Nat) : (s.modSafety g).getRemote j = s.getRemote j := rfl
@[simp] theorem State.getCam_modSafety (g : Safety → Safety) (j : Nat) : (s.modSafety g).getCam j = s.getCam j := rfl
@[simp] theorem State.getStepper_modSafety (g : Safety → Safety) (j : Nat) : (s.modSafety g).getStepper j = s.getStepper j := rfl
@[simp] theorem State.getCap_modSafety (g : Safety → Safety) (j : Nat) : (s.modSafety g).getCap j = s.getCap j := rfl
@[simp] theorem State.getMbx_modSafety (g : Safety → Safety) (j : Nat) : (s.modSafety g).getMbx j = s.getMbx j := rfl
@[simp] theorem State.getSession_modSafety (g : Safety → Safety) (j : Nat) : (s.modSafety g).getSession j = s.getSession j := rfl
@[simp] theorem State.getArb_modSafety (g : Safety → Safety) (j : Nat) : (s.modSafety g).getArb j = s.getArb j := rfl
@[simp] theorem State.getFabPort_modSafety (g : Safety → Safety) (j : Nat) : (s.modSafety g).getFabPort j = s.getFabPort j := rfl
@[simp] theorem State.getEth_modSafety (g : Safety → Safety) (j : Nat) : (s.modSafety g).getEth j = s.getEth j := rfl
@[simp] theorem State.getCan_modSafety (g : Safety → Safety) (j : Nat) : (s.modSafety g).getCan j = s.getCan j := rfl

/-! ### power -/

@[simp] theorem State.modPower_power (g : Power → Power) : (s.modPower g).power = g s.power := rfl
@[simp] theorem State.modPower_pending (g : Power → Power) : (s.modPower g).pending = s.pending := rfl
@[simp] theorem State.modPower_tick (g : Power → Power) : (s.modPower g).tick = s.tick := rfl
@[simp] theorem State.modPower_freeCtr (g : Power → Power) : (s.modPower g).freeCtr = s.freeCtr := rfl
@[simp] theorem State.modPower_time (g : Power → Power) : (s.modPower g).time = s.time := rfl
@[simp] theorem State.modPower_tdc (g : Power → Power) : (s.modPower g).tdc = s.tdc := rfl
@[simp] theorem State.modPower_tdcCal (g : Power → Power) : (s.modPower g).tdcCal = s.tdcCal := rfl
@[simp] theorem State.modPower_cfg (g : Power → Power) : (s.modPower g).cfg = s.cfg := rfl
@[simp] theorem State.modPower_ctr (g : Power → Power) : (s.modPower g).ctr = s.ctr := rfl
@[simp] theorem State.modPower_pwm (g : Power → Power) : (s.modPower g).pwm = s.pwm := rfl
@[simp] theorem State.modPower_quad (g : Power → Power) : (s.modPower g).quad = s.quad := rfl
@[simp] theorem State.modPower_serial (g : Power → Power) : (s.modPower g).serial = s.serial := rfl
@[simp] theorem State.modPower_fb (g : Power → Power) : (s.modPower g).fb = s.fb := rfl
@[simp] theorem State.modPower_loop (g : Power → Power) : (s.modPower g).loop = s.loop := rfl
@[simp] theorem State.modPower_flags (g : Power → Power) : (s.modPower g).flags = s.flags := rfl
@[simp] theorem State.modPower_foc (g : Power → Power) : (s.modPower g).foc = s.foc := rfl
@[simp] theorem State.modPower_sections (g : Power → Power) : (s.modPower g).sections = s.sections := rfl
@[simp] theorem State.modPower_records (g : Power → Power) : (s.modPower g).records = s.records := rfl
@[simp] theorem State.modPower_dc (g : Power → Power) : (s.modPower g).dc = s.dc := rfl
@[simp] theorem State.modPower_engines (g : Power → Power) : (s.modPower g).engines = s.engines := rfl
@[simp] theorem State.modPower_bank (g : Power → Power) : (s.modPower g).bank = s.bank := rfl
@[simp] theorem State.modPower_waiters (g : Power → Power) : (s.modPower g).waiters = s.waiters := rfl
@[simp] theorem State.modPower_aux (g : Power → Power) : (s.modPower g).aux = s.aux := rfl
@[simp] theorem State.modPower_trails (g : Power → Power) : (s.modPower g).trails = s.trails := rfl
@[simp] theorem State.modPower_followers (g : Power → Power) : (s.modPower g).followers = s.followers := rfl
@[simp] theorem State.modPower_publishers (g : Power → Power) : (s.modPower g).publishers = s.publishers := rfl
@[simp] theorem State.modPower_virt (g : Power → Power) : (s.modPower g).virt = s.virt := rfl
@[simp] theorem State.modPower_remote (g : Power → Power) : (s.modPower g).remote = s.remote := rfl
@[simp] theorem State.modPower_cams (g : Power → Power) : (s.modPower g).cams = s.cams := rfl
@[simp] theorem State.modPower_steppers (g : Power → Power) : (s.modPower g).steppers = s.steppers := rfl
@[simp] theorem State.modPower_caps (g : Power → Power) : (s.modPower g).caps = s.caps := rfl
@[simp] theorem State.modPower_capMem (g : Power → Power) : (s.modPower g).capMem = s.capMem := rfl
@[simp] theorem State.modPower_mailboxes (g : Power → Power) : (s.modPower g).mailboxes = s.mailboxes := rfl
@[simp] theorem State.modPower_sessions (g : Power → Power) : (s.modPower g).sessions = s.sessions := rfl
@[simp] theorem State.modPower_host (g : Power → Power) : (s.modPower g).host = s.host := rfl
@[simp] theorem State.modPower_events (g : Power → Power) : (s.modPower g).events = s.events := rfl
@[simp] theorem State.modPower_locks (g : Power → Power) : (s.modPower g).locks = s.locks := rfl
@[simp] theorem State.modPower_sched (g : Power → Power) : (s.modPower g).sched = s.sched := rfl
@[simp] theorem State.modPower_arbs (g : Power → Power) : (s.modPower g).arbs = s.arbs := rfl
@[simp] theorem State.modPower_fabPorts (g : Power → Power) : (s.modPower g).fabPorts = s.fabPorts := rfl
@[simp] theorem State.modPower_fabric (g : Power → Power) : (s.modPower g).fabric = s.fabric := rfl
@[simp] theorem State.modPower_eth (g : Power → Power) : (s.modPower g).eth = s.eth := rfl
@[simp] theorem State.modPower_can (g : Power → Power) : (s.modPower g).can = s.can := rfl
@[simp] theorem State.modPower_fio (g : Power → Power) : (s.modPower g).fio = s.fio := rfl
@[simp] theorem State.modPower_safety (g : Power → Power) : (s.modPower g).safety = s.safety := rfl
@[simp] theorem State.getTdc_modPower (g : Power → Power) (j : Nat) : (s.modPower g).getTdc j = s.getTdc j := rfl
@[simp] theorem State.getPwm_modPower (g : Power → Power) (j : Nat) : (s.modPower g).getPwm j = s.getPwm j := rfl
@[simp] theorem State.getQuad_modPower (g : Power → Power) (j : Nat) : (s.modPower g).getQuad j = s.getQuad j := rfl
@[simp] theorem State.getSerial_modPower (g : Power → Power) (j : Nat) : (s.modPower g).getSerial j = s.getSerial j := rfl
@[simp] theorem State.getFb_modPower (g : Power → Power) (j : Nat) : (s.modPower g).getFb j = s.getFb j := rfl
@[simp] theorem State.getLoop_modPower (g : Power → Power) (j : Nat) : (s.modPower g).getLoop j = s.getLoop j := rfl
@[simp] theorem State.getFlags_modPower (g : Power → Power) (j : Nat) : (s.modPower g).getFlags j = s.getFlags j := rfl
@[simp] theorem State.getFoc_modPower (g : Power → Power) (j : Nat) : (s.modPower g).getFoc j = s.getFoc j := rfl
@[simp] theorem State.getSection_modPower (g : Power → Power) (j : Nat) : (s.modPower g).getSection j = s.getSection j := rfl
@[simp] theorem State.getRecord_modPower (g : Power → Power) (j : Nat) : (s.modPower g).getRecord j = s.getRecord j := rfl
@[simp] theorem State.getDc_modPower (g : Power → Power) (j : Nat) : (s.modPower g).getDc j = s.getDc j := rfl
@[simp] theorem State.getEngine_modPower (g : Power → Power) (j : Nat) : (s.modPower g).getEngine j = s.getEngine j := rfl
@[simp] theorem State.getAux_modPower (g : Power → Power) (j : Nat) : (s.modPower g).getAux j = s.getAux j := rfl
@[simp] theorem State.getTrail_modPower (g : Power → Power) (j : Nat) : (s.modPower g).getTrail j = s.getTrail j := rfl
@[simp] theorem State.getFollower_modPower (g : Power → Power) (j : Nat) : (s.modPower g).getFollower j = s.getFollower j := rfl
@[simp] theorem State.getPublisher_modPower (g : Power → Power) (j : Nat) : (s.modPower g).getPublisher j = s.getPublisher j := rfl
@[simp] theorem State.getVirt_modPower (g : Power → Power) (j : Nat) : (s.modPower g).getVirt j = s.getVirt j := rfl
@[simp] theorem State.getRemote_modPower (g : Power → Power) (j : Nat) : (s.modPower g).getRemote j = s.getRemote j := rfl
@[simp] theorem State.getCam_modPower (g : Power → Power) (j : Nat) : (s.modPower g).getCam j = s.getCam j := rfl
@[simp] theorem State.getStepper_modPower (g : Power → Power) (j : Nat) : (s.modPower g).getStepper j = s.getStepper j := rfl
@[simp] theorem State.getCap_modPower (g : Power → Power) (j : Nat) : (s.modPower g).getCap j = s.getCap j := rfl
@[simp] theorem State.getMbx_modPower (g : Power → Power) (j : Nat) : (s.modPower g).getMbx j = s.getMbx j := rfl
@[simp] theorem State.getSession_modPower (g : Power → Power) (j : Nat) : (s.modPower g).getSession j = s.getSession j := rfl
@[simp] theorem State.getArb_modPower (g : Power → Power) (j : Nat) : (s.modPower g).getArb j = s.getArb j := rfl
@[simp] theorem State.getFabPort_modPower (g : Power → Power) (j : Nat) : (s.modPower g).getFabPort j = s.getFabPort j := rfl
@[simp] theorem State.getEth_modPower (g : Power → Power) (j : Nat) : (s.modPower g).getEth j = s.getEth j := rfl
@[simp] theorem State.getCan_modPower (g : Power → Power) (j : Nat) : (s.modPower g).getCan j = s.getCan j := rfl

/-! ### sched -/

@[simp] theorem State.modSched_sched (g : Sched → Sched) : (s.modSched g).sched = g s.sched := rfl
@[simp] theorem State.modSched_pending (g : Sched → Sched) : (s.modSched g).pending = s.pending := rfl
@[simp] theorem State.modSched_tick (g : Sched → Sched) : (s.modSched g).tick = s.tick := rfl
@[simp] theorem State.modSched_freeCtr (g : Sched → Sched) : (s.modSched g).freeCtr = s.freeCtr := rfl
@[simp] theorem State.modSched_time (g : Sched → Sched) : (s.modSched g).time = s.time := rfl
@[simp] theorem State.modSched_tdc (g : Sched → Sched) : (s.modSched g).tdc = s.tdc := rfl
@[simp] theorem State.modSched_tdcCal (g : Sched → Sched) : (s.modSched g).tdcCal = s.tdcCal := rfl
@[simp] theorem State.modSched_cfg (g : Sched → Sched) : (s.modSched g).cfg = s.cfg := rfl
@[simp] theorem State.modSched_ctr (g : Sched → Sched) : (s.modSched g).ctr = s.ctr := rfl
@[simp] theorem State.modSched_pwm (g : Sched → Sched) : (s.modSched g).pwm = s.pwm := rfl
@[simp] theorem State.modSched_quad (g : Sched → Sched) : (s.modSched g).quad = s.quad := rfl
@[simp] theorem State.modSched_serial (g : Sched → Sched) : (s.modSched g).serial = s.serial := rfl
@[simp] theorem State.modSched_fb (g : Sched → Sched) : (s.modSched g).fb = s.fb := rfl
@[simp] theorem State.modSched_loop (g : Sched → Sched) : (s.modSched g).loop = s.loop := rfl
@[simp] theorem State.modSched_flags (g : Sched → Sched) : (s.modSched g).flags = s.flags := rfl
@[simp] theorem State.modSched_foc (g : Sched → Sched) : (s.modSched g).foc = s.foc := rfl
@[simp] theorem State.modSched_sections (g : Sched → Sched) : (s.modSched g).sections = s.sections := rfl
@[simp] theorem State.modSched_records (g : Sched → Sched) : (s.modSched g).records = s.records := rfl
@[simp] theorem State.modSched_dc (g : Sched → Sched) : (s.modSched g).dc = s.dc := rfl
@[simp] theorem State.modSched_engines (g : Sched → Sched) : (s.modSched g).engines = s.engines := rfl
@[simp] theorem State.modSched_bank (g : Sched → Sched) : (s.modSched g).bank = s.bank := rfl
@[simp] theorem State.modSched_waiters (g : Sched → Sched) : (s.modSched g).waiters = s.waiters := rfl
@[simp] theorem State.modSched_aux (g : Sched → Sched) : (s.modSched g).aux = s.aux := rfl
@[simp] theorem State.modSched_trails (g : Sched → Sched) : (s.modSched g).trails = s.trails := rfl
@[simp] theorem State.modSched_followers (g : Sched → Sched) : (s.modSched g).followers = s.followers := rfl
@[simp] theorem State.modSched_publishers (g : Sched → Sched) : (s.modSched g).publishers = s.publishers := rfl
@[simp] theorem State.modSched_virt (g : Sched → Sched) : (s.modSched g).virt = s.virt := rfl
@[simp] theorem State.modSched_remote (g : Sched → Sched) : (s.modSched g).remote = s.remote := rfl
@[simp] theorem State.modSched_cams (g : Sched → Sched) : (s.modSched g).cams = s.cams := rfl
@[simp] theorem State.modSched_steppers (g : Sched → Sched) : (s.modSched g).steppers = s.steppers := rfl
@[simp] theorem State.modSched_caps (g : Sched → Sched) : (s.modSched g).caps = s.caps := rfl
@[simp] theorem State.modSched_capMem (g : Sched → Sched) : (s.modSched g).capMem = s.capMem := rfl
@[simp] theorem State.modSched_mailboxes (g : Sched → Sched) : (s.modSched g).mailboxes = s.mailboxes := rfl
@[simp] theorem State.modSched_sessions (g : Sched → Sched) : (s.modSched g).sessions = s.sessions := rfl
@[simp] theorem State.modSched_host (g : Sched → Sched) : (s.modSched g).host = s.host := rfl
@[simp] theorem State.modSched_events (g : Sched → Sched) : (s.modSched g).events = s.events := rfl
@[simp] theorem State.modSched_locks (g : Sched → Sched) : (s.modSched g).locks = s.locks := rfl
@[simp] theorem State.modSched_arbs (g : Sched → Sched) : (s.modSched g).arbs = s.arbs := rfl
@[simp] theorem State.modSched_fabPorts (g : Sched → Sched) : (s.modSched g).fabPorts = s.fabPorts := rfl
@[simp] theorem State.modSched_fabric (g : Sched → Sched) : (s.modSched g).fabric = s.fabric := rfl
@[simp] theorem State.modSched_eth (g : Sched → Sched) : (s.modSched g).eth = s.eth := rfl
@[simp] theorem State.modSched_can (g : Sched → Sched) : (s.modSched g).can = s.can := rfl
@[simp] theorem State.modSched_fio (g : Sched → Sched) : (s.modSched g).fio = s.fio := rfl
@[simp] theorem State.modSched_safety (g : Sched → Sched) : (s.modSched g).safety = s.safety := rfl
@[simp] theorem State.modSched_power (g : Sched → Sched) : (s.modSched g).power = s.power := rfl
@[simp] theorem State.getTdc_modSched (g : Sched → Sched) (j : Nat) : (s.modSched g).getTdc j = s.getTdc j := rfl
@[simp] theorem State.getPwm_modSched (g : Sched → Sched) (j : Nat) : (s.modSched g).getPwm j = s.getPwm j := rfl
@[simp] theorem State.getQuad_modSched (g : Sched → Sched) (j : Nat) : (s.modSched g).getQuad j = s.getQuad j := rfl
@[simp] theorem State.getSerial_modSched (g : Sched → Sched) (j : Nat) : (s.modSched g).getSerial j = s.getSerial j := rfl
@[simp] theorem State.getFb_modSched (g : Sched → Sched) (j : Nat) : (s.modSched g).getFb j = s.getFb j := rfl
@[simp] theorem State.getLoop_modSched (g : Sched → Sched) (j : Nat) : (s.modSched g).getLoop j = s.getLoop j := rfl
@[simp] theorem State.getFlags_modSched (g : Sched → Sched) (j : Nat) : (s.modSched g).getFlags j = s.getFlags j := rfl
@[simp] theorem State.getFoc_modSched (g : Sched → Sched) (j : Nat) : (s.modSched g).getFoc j = s.getFoc j := rfl
@[simp] theorem State.getSection_modSched (g : Sched → Sched) (j : Nat) : (s.modSched g).getSection j = s.getSection j := rfl
@[simp] theorem State.getRecord_modSched (g : Sched → Sched) (j : Nat) : (s.modSched g).getRecord j = s.getRecord j := rfl
@[simp] theorem State.getDc_modSched (g : Sched → Sched) (j : Nat) : (s.modSched g).getDc j = s.getDc j := rfl
@[simp] theorem State.getEngine_modSched (g : Sched → Sched) (j : Nat) : (s.modSched g).getEngine j = s.getEngine j := rfl
@[simp] theorem State.getAux_modSched (g : Sched → Sched) (j : Nat) : (s.modSched g).getAux j = s.getAux j := rfl
@[simp] theorem State.getTrail_modSched (g : Sched → Sched) (j : Nat) : (s.modSched g).getTrail j = s.getTrail j := rfl
@[simp] theorem State.getFollower_modSched (g : Sched → Sched) (j : Nat) : (s.modSched g).getFollower j = s.getFollower j := rfl
@[simp] theorem State.getPublisher_modSched (g : Sched → Sched) (j : Nat) : (s.modSched g).getPublisher j = s.getPublisher j := rfl
@[simp] theorem State.getVirt_modSched (g : Sched → Sched) (j : Nat) : (s.modSched g).getVirt j = s.getVirt j := rfl
@[simp] theorem State.getRemote_modSched (g : Sched → Sched) (j : Nat) : (s.modSched g).getRemote j = s.getRemote j := rfl
@[simp] theorem State.getCam_modSched (g : Sched → Sched) (j : Nat) : (s.modSched g).getCam j = s.getCam j := rfl
@[simp] theorem State.getStepper_modSched (g : Sched → Sched) (j : Nat) : (s.modSched g).getStepper j = s.getStepper j := rfl
@[simp] theorem State.getCap_modSched (g : Sched → Sched) (j : Nat) : (s.modSched g).getCap j = s.getCap j := rfl
@[simp] theorem State.getMbx_modSched (g : Sched → Sched) (j : Nat) : (s.modSched g).getMbx j = s.getMbx j := rfl
@[simp] theorem State.getSession_modSched (g : Sched → Sched) (j : Nat) : (s.modSched g).getSession j = s.getSession j := rfl
@[simp] theorem State.getArb_modSched (g : Sched → Sched) (j : Nat) : (s.modSched g).getArb j = s.getArb j := rfl
@[simp] theorem State.getFabPort_modSched (g : Sched → Sched) (j : Nat) : (s.modSched g).getFabPort j = s.getFabPort j := rfl
@[simp] theorem State.getEth_modSched (g : Sched → Sched) (j : Nat) : (s.modSched g).getEth j = s.getEth j := rfl
@[simp] theorem State.getCan_modSched (g : Sched → Sched) (j : Nat) : (s.modSched g).getCan j = s.getCan j := rfl

/-! ### time -/

@[simp] theorem State.modTime_time (g : TimeUnit → TimeUnit) : (s.modTime g).time = g s.time := rfl
@[simp] theorem State.modTime_pending (g : TimeUnit → TimeUnit) : (s.modTime g).pending = s.pending := rfl
@[simp] theorem State.modTime_tick (g : TimeUnit → TimeUnit) : (s.modTime g).tick = s.tick := rfl
@[simp] theorem State.modTime_freeCtr (g : TimeUnit → TimeUnit) : (s.modTime g).freeCtr = s.freeCtr := rfl
@[simp] theorem State.modTime_tdc (g : TimeUnit → TimeUnit) : (s.modTime g).tdc = s.tdc := rfl
@[simp] theorem State.modTime_tdcCal (g : TimeUnit → TimeUnit) : (s.modTime g).tdcCal = s.tdcCal := rfl
@[simp] theorem State.modTime_cfg (g : TimeUnit → TimeUnit) : (s.modTime g).cfg = s.cfg := rfl
@[simp] theorem State.modTime_ctr (g : TimeUnit → TimeUnit) : (s.modTime g).ctr = s.ctr := rfl
@[simp] theorem State.modTime_pwm (g : TimeUnit → TimeUnit) : (s.modTime g).pwm = s.pwm := rfl
@[simp] theorem State.modTime_quad (g : TimeUnit → TimeUnit) : (s.modTime g).quad = s.quad := rfl
@[simp] theorem State.modTime_serial (g : TimeUnit → TimeUnit) : (s.modTime g).serial = s.serial := rfl
@[simp] theorem State.modTime_fb (g : TimeUnit → TimeUnit) : (s.modTime g).fb = s.fb := rfl
@[simp] theorem State.modTime_loop (g : TimeUnit → TimeUnit) : (s.modTime g).loop = s.loop := rfl
@[simp] theorem State.modTime_flags (g : TimeUnit → TimeUnit) : (s.modTime g).flags = s.flags := rfl
@[simp] theorem State.modTime_foc (g : TimeUnit → TimeUnit) : (s.modTime g).foc = s.foc := rfl
@[simp] theorem State.modTime_sections (g : TimeUnit → TimeUnit) : (s.modTime g).sections = s.sections := rfl
@[simp] theorem State.modTime_records (g : TimeUnit → TimeUnit) : (s.modTime g).records = s.records := rfl
@[simp] theorem State.modTime_dc (g : TimeUnit → TimeUnit) : (s.modTime g).dc = s.dc := rfl
@[simp] theorem State.modTime_engines (g : TimeUnit → TimeUnit) : (s.modTime g).engines = s.engines := rfl
@[simp] theorem State.modTime_bank (g : TimeUnit → TimeUnit) : (s.modTime g).bank = s.bank := rfl
@[simp] theorem State.modTime_waiters (g : TimeUnit → TimeUnit) : (s.modTime g).waiters = s.waiters := rfl
@[simp] theorem State.modTime_aux (g : TimeUnit → TimeUnit) : (s.modTime g).aux = s.aux := rfl
@[simp] theorem State.modTime_trails (g : TimeUnit → TimeUnit) : (s.modTime g).trails = s.trails := rfl
@[simp] theorem State.modTime_followers (g : TimeUnit → TimeUnit) : (s.modTime g).followers = s.followers := rfl
@[simp] theorem State.modTime_publishers (g : TimeUnit → TimeUnit) : (s.modTime g).publishers = s.publishers := rfl
@[simp] theorem State.modTime_virt (g : TimeUnit → TimeUnit) : (s.modTime g).virt = s.virt := rfl
@[simp] theorem State.modTime_remote (g : TimeUnit → TimeUnit) : (s.modTime g).remote = s.remote := rfl
@[simp] theorem State.modTime_cams (g : TimeUnit → TimeUnit) : (s.modTime g).cams = s.cams := rfl
@[simp] theorem State.modTime_steppers (g : TimeUnit → TimeUnit) : (s.modTime g).steppers = s.steppers := rfl
@[simp] theorem State.modTime_caps (g : TimeUnit → TimeUnit) : (s.modTime g).caps = s.caps := rfl
@[simp] theorem State.modTime_capMem (g : TimeUnit → TimeUnit) : (s.modTime g).capMem = s.capMem := rfl
@[simp] theorem State.modTime_mailboxes (g : TimeUnit → TimeUnit) : (s.modTime g).mailboxes = s.mailboxes := rfl
@[simp] theorem State.modTime_sessions (g : TimeUnit → TimeUnit) : (s.modTime g).sessions = s.sessions := rfl
@[simp] theorem State.modTime_host (g : TimeUnit → TimeUnit) : (s.modTime g).host = s.host := rfl
@[simp] theorem State.modTime_events (g : TimeUnit → TimeUnit) : (s.modTime g).events = s.events := rfl
@[simp] theorem State.modTime_locks (g : TimeUnit → TimeUnit) : (s.modTime g).locks = s.locks := rfl
@[simp] theorem State.modTime_sched (g : TimeUnit → TimeUnit) : (s.modTime g).sched = s.sched := rfl
@[simp] theorem State.modTime_arbs (g : TimeUnit → TimeUnit) : (s.modTime g).arbs = s.arbs := rfl
@[simp] theorem State.modTime_fabPorts (g : TimeUnit → TimeUnit) : (s.modTime g).fabPorts = s.fabPorts := rfl
@[simp] theorem State.modTime_fabric (g : TimeUnit → TimeUnit) : (s.modTime g).fabric = s.fabric := rfl
@[simp] theorem State.modTime_eth (g : TimeUnit → TimeUnit) : (s.modTime g).eth = s.eth := rfl
@[simp] theorem State.modTime_can (g : TimeUnit → TimeUnit) : (s.modTime g).can = s.can := rfl
@[simp] theorem State.modTime_fio (g : TimeUnit → TimeUnit) : (s.modTime g).fio = s.fio := rfl
@[simp] theorem State.modTime_safety (g : TimeUnit → TimeUnit) : (s.modTime g).safety = s.safety := rfl
@[simp] theorem State.modTime_power (g : TimeUnit → TimeUnit) : (s.modTime g).power = s.power := rfl
@[simp] theorem State.getTdc_modTime (g : TimeUnit → TimeUnit) (j : Nat) : (s.modTime g).getTdc j = s.getTdc j := rfl
@[simp] theorem State.getPwm_modTime (g : TimeUnit → TimeUnit) (j : Nat) : (s.modTime g).getPwm j = s.getPwm j := rfl
@[simp] theorem State.getQuad_modTime (g : TimeUnit → TimeUnit) (j : Nat) : (s.modTime g).getQuad j = s.getQuad j := rfl
@[simp] theorem State.getSerial_modTime (g : TimeUnit → TimeUnit) (j : Nat) : (s.modTime g).getSerial j = s.getSerial j := rfl
@[simp] theorem State.getFb_modTime (g : TimeUnit → TimeUnit) (j : Nat) : (s.modTime g).getFb j = s.getFb j := rfl
@[simp] theorem State.getLoop_modTime (g : TimeUnit → TimeUnit) (j : Nat) : (s.modTime g).getLoop j = s.getLoop j := rfl
@[simp] theorem State.getFlags_modTime (g : TimeUnit → TimeUnit) (j : Nat) : (s.modTime g).getFlags j = s.getFlags j := rfl
@[simp] theorem State.getFoc_modTime (g : TimeUnit → TimeUnit) (j : Nat) : (s.modTime g).getFoc j = s.getFoc j := rfl
@[simp] theorem State.getSection_modTime (g : TimeUnit → TimeUnit) (j : Nat) : (s.modTime g).getSection j = s.getSection j := rfl
@[simp] theorem State.getRecord_modTime (g : TimeUnit → TimeUnit) (j : Nat) : (s.modTime g).getRecord j = s.getRecord j := rfl
@[simp] theorem State.getDc_modTime (g : TimeUnit → TimeUnit) (j : Nat) : (s.modTime g).getDc j = s.getDc j := rfl
@[simp] theorem State.getEngine_modTime (g : TimeUnit → TimeUnit) (j : Nat) : (s.modTime g).getEngine j = s.getEngine j := rfl
@[simp] theorem State.getAux_modTime (g : TimeUnit → TimeUnit) (j : Nat) : (s.modTime g).getAux j = s.getAux j := rfl
@[simp] theorem State.getTrail_modTime (g : TimeUnit → TimeUnit) (j : Nat) : (s.modTime g).getTrail j = s.getTrail j := rfl
@[simp] theorem State.getFollower_modTime (g : TimeUnit → TimeUnit) (j : Nat) : (s.modTime g).getFollower j = s.getFollower j := rfl
@[simp] theorem State.getPublisher_modTime (g : TimeUnit → TimeUnit) (j : Nat) : (s.modTime g).getPublisher j = s.getPublisher j := rfl
@[simp] theorem State.getVirt_modTime (g : TimeUnit → TimeUnit) (j : Nat) : (s.modTime g).getVirt j = s.getVirt j := rfl
@[simp] theorem State.getRemote_modTime (g : TimeUnit → TimeUnit) (j : Nat) : (s.modTime g).getRemote j = s.getRemote j := rfl
@[simp] theorem State.getCam_modTime (g : TimeUnit → TimeUnit) (j : Nat) : (s.modTime g).getCam j = s.getCam j := rfl
@[simp] theorem State.getStepper_modTime (g : TimeUnit → TimeUnit) (j : Nat) : (s.modTime g).getStepper j = s.getStepper j := rfl
@[simp] theorem State.getCap_modTime (g : TimeUnit → TimeUnit) (j : Nat) : (s.modTime g).getCap j = s.getCap j := rfl
@[simp] theorem State.getMbx_modTime (g : TimeUnit → TimeUnit) (j : Nat) : (s.modTime g).getMbx j = s.getMbx j := rfl
@[simp] theorem State.getSession_modTime (g : TimeUnit → TimeUnit) (j : Nat) : (s.modTime g).getSession j = s.getSession j := rfl
@[simp] theorem State.getArb_modTime (g : TimeUnit → TimeUnit) (j : Nat) : (s.modTime g).getArb j = s.getArb j := rfl
@[simp] theorem State.getFabPort_modTime (g : TimeUnit → TimeUnit) (j : Nat) : (s.modTime g).getFabPort j = s.getFabPort j := rfl
@[simp] theorem State.getEth_modTime (g : TimeUnit → TimeUnit) (j : Nat) : (s.modTime g).getEth j = s.getEth j := rfl
@[simp] theorem State.getCan_modTime (g : TimeUnit → TimeUnit) (j : Nat) : (s.modTime g).getCan j = s.getCan j := rfl

/-! ### capMem -/

@[simp] theorem State.modCapMem_capMem (g : CapMem → CapMem) : (s.modCapMem g).capMem = g s.capMem := rfl
@[simp] theorem State.modCapMem_pending (g : CapMem → CapMem) : (s.modCapMem g).pending = s.pending := rfl
@[simp] theorem State.modCapMem_tick (g : CapMem → CapMem) : (s.modCapMem g).tick = s.tick := rfl
@[simp] theorem State.modCapMem_freeCtr (g : CapMem → CapMem) : (s.modCapMem g).freeCtr = s.freeCtr := rfl
@[simp] theorem State.modCapMem_time (g : CapMem → CapMem) : (s.modCapMem g).time = s.time := rfl
@[simp] theorem State.modCapMem_tdc (g : CapMem → CapMem) : (s.modCapMem g).tdc = s.tdc := rfl
@[simp] theorem State.modCapMem_tdcCal (g : CapMem → CapMem) : (s.modCapMem g).tdcCal = s.tdcCal := rfl
@[simp] theorem State.modCapMem_cfg (g : CapMem → CapMem) : (s.modCapMem g).cfg = s.cfg := rfl
@[simp] theorem State.modCapMem_ctr (g : CapMem → CapMem) : (s.modCapMem g).ctr = s.ctr := rfl
@[simp] theorem State.modCapMem_pwm (g : CapMem → CapMem) : (s.modCapMem g).pwm = s.pwm := rfl
@[simp] theorem State.modCapMem_quad (g : CapMem → CapMem) : (s.modCapMem g).quad = s.quad := rfl
@[simp] theorem State.modCapMem_serial (g : CapMem → CapMem) : (s.modCapMem g).serial = s.serial := rfl
@[simp] theorem State.modCapMem_fb (g : CapMem → CapMem) : (s.modCapMem g).fb = s.fb := rfl
@[simp] theorem State.modCapMem_loop (g : CapMem → CapMem) : (s.modCapMem g).loop = s.loop := rfl
@[simp] theorem State.modCapMem_flags (g : CapMem → CapMem) : (s.modCapMem g).flags = s.flags := rfl
@[simp] theorem State.modCapMem_foc (g : CapMem → CapMem) : (s.modCapMem g).foc = s.foc := rfl
@[simp] theorem State.modCapMem_sections (g : CapMem → CapMem) : (s.modCapMem g).sections = s.sections := rfl
@[simp] theorem State.modCapMem_records (g : CapMem → CapMem) : (s.modCapMem g).records = s.records := rfl
@[simp] theorem State.modCapMem_dc (g : CapMem → CapMem) : (s.modCapMem g).dc = s.dc := rfl
@[simp] theorem State.modCapMem_engines (g : CapMem → CapMem) : (s.modCapMem g).engines = s.engines := rfl
@[simp] theorem State.modCapMem_bank (g : CapMem → CapMem) : (s.modCapMem g).bank = s.bank := rfl
@[simp] theorem State.modCapMem_waiters (g : CapMem → CapMem) : (s.modCapMem g).waiters = s.waiters := rfl
@[simp] theorem State.modCapMem_aux (g : CapMem → CapMem) : (s.modCapMem g).aux = s.aux := rfl
@[simp] theorem State.modCapMem_trails (g : CapMem → CapMem) : (s.modCapMem g).trails = s.trails := rfl
@[simp] theorem State.modCapMem_followers (g : CapMem → CapMem) : (s.modCapMem g).followers = s.followers := rfl
@[simp] theorem State.modCapMem_publishers (g : CapMem → CapMem) : (s.modCapMem g).publishers = s.publishers := rfl
@[simp] theorem State.modCapMem_virt (g : CapMem → CapMem) : (s.modCapMem g).virt = s.virt := rfl
@[simp] theorem State.modCapMem_remote (g : CapMem → CapMem) : (s.modCapMem g).remote = s.remote := rfl
@[simp] theorem State.modCapMem_cams (g : CapMem → CapMem) : (s.modCapMem g).cams = s.cams := rfl
@[simp] theorem State.modCapMem_steppers (g : CapMem → CapMem) : (s.modCapMem g).steppers = s.steppers := rfl
@[simp] theorem State.modCapMem_caps (g : CapMem → CapMem) : (s.modCapMem g).caps = s.caps := rfl
@[simp] theorem State.modCapMem_mailboxes (g : CapMem → CapMem) : (s.modCapMem g).mailboxes = s.mailboxes := rfl
@[simp] theorem State.modCapMem_sessions (g : CapMem → CapMem) : (s.modCapMem g).sessions = s.sessions := rfl
@[simp] theorem State.modCapMem_host (g : CapMem → CapMem) : (s.modCapMem g).host = s.host := rfl
@[simp] theorem State.modCapMem_events (g : CapMem → CapMem) : (s.modCapMem g).events = s.events := rfl
@[simp] theorem State.modCapMem_locks (g : CapMem → CapMem) : (s.modCapMem g).locks = s.locks := rfl
@[simp] theorem State.modCapMem_sched (g : CapMem → CapMem) : (s.modCapMem g).sched = s.sched := rfl
@[simp] theorem State.modCapMem_arbs (g : CapMem → CapMem) : (s.modCapMem g).arbs = s.arbs := rfl
@[simp] theorem State.modCapMem_fabPorts (g : CapMem → CapMem) : (s.modCapMem g).fabPorts = s.fabPorts := rfl
@[simp] theorem State.modCapMem_fabric (g : CapMem → CapMem) : (s.modCapMem g).fabric = s.fabric := rfl
@[simp] theorem State.modCapMem_eth (g : CapMem → CapMem) : (s.modCapMem g).eth = s.eth := rfl
@[simp] theorem State.modCapMem_can (g : CapMem → CapMem) : (s.modCapMem g).can = s.can := rfl
@[simp] theorem State.modCapMem_fio (g : CapMem → CapMem) : (s.modCapMem g).fio = s.fio := rfl
@[simp] theorem State.modCapMem_safety (g : CapMem → CapMem) : (s.modCapMem g).safety = s.safety := rfl
@[simp] theorem State.modCapMem_power (g : CapMem → CapMem) : (s.modCapMem g).power = s.power := rfl
@[simp] theorem State.getTdc_modCapMem (g : CapMem → CapMem) (j : Nat) : (s.modCapMem g).getTdc j = s.getTdc j := rfl
@[simp] theorem State.getPwm_modCapMem (g : CapMem → CapMem) (j : Nat) : (s.modCapMem g).getPwm j = s.getPwm j := rfl
@[simp] theorem State.getQuad_modCapMem (g : CapMem → CapMem) (j : Nat) : (s.modCapMem g).getQuad j = s.getQuad j := rfl
@[simp] theorem State.getSerial_modCapMem (g : CapMem → CapMem) (j : Nat) : (s.modCapMem g).getSerial j = s.getSerial j := rfl
@[simp] theorem State.getFb_modCapMem (g : CapMem → CapMem) (j : Nat) : (s.modCapMem g).getFb j = s.getFb j := rfl
@[simp] theorem State.getLoop_modCapMem (g : CapMem → CapMem) (j : Nat) : (s.modCapMem g).getLoop j = s.getLoop j := rfl
@[simp] theorem State.getFlags_modCapMem (g : CapMem → CapMem) (j : Nat) : (s.modCapMem g).getFlags j = s.getFlags j := rfl
@[simp] theorem State.getFoc_modCapMem (g : CapMem → CapMem) (j : Nat) : (s.modCapMem g).getFoc j = s.getFoc j := rfl
@[simp] theorem State.getSection_modCapMem (g : CapMem → CapMem) (j : Nat) : (s.modCapMem g).getSection j = s.getSection j := rfl
@[simp] theorem State.getRecord_modCapMem (g : CapMem → CapMem) (j : Nat) : (s.modCapMem g).getRecord j = s.getRecord j := rfl
@[simp] theorem State.getDc_modCapMem (g : CapMem → CapMem) (j : Nat) : (s.modCapMem g).getDc j = s.getDc j := rfl
@[simp] theorem State.getEngine_modCapMem (g : CapMem → CapMem) (j : Nat) : (s.modCapMem g).getEngine j = s.getEngine j := rfl
@[simp] theorem State.getAux_modCapMem (g : CapMem → CapMem) (j : Nat) : (s.modCapMem g).getAux j = s.getAux j := rfl
@[simp] theorem State.getTrail_modCapMem (g : CapMem → CapMem) (j : Nat) : (s.modCapMem g).getTrail j = s.getTrail j := rfl
@[simp] theorem State.getFollower_modCapMem (g : CapMem → CapMem) (j : Nat) : (s.modCapMem g).getFollower j = s.getFollower j := rfl
@[simp] theorem State.getPublisher_modCapMem (g : CapMem → CapMem) (j : Nat) : (s.modCapMem g).getPublisher j = s.getPublisher j := rfl
@[simp] theorem State.getVirt_modCapMem (g : CapMem → CapMem) (j : Nat) : (s.modCapMem g).getVirt j = s.getVirt j := rfl
@[simp] theorem State.getRemote_modCapMem (g : CapMem → CapMem) (j : Nat) : (s.modCapMem g).getRemote j = s.getRemote j := rfl
@[simp] theorem State.getCam_modCapMem (g : CapMem → CapMem) (j : Nat) : (s.modCapMem g).getCam j = s.getCam j := rfl
@[simp] theorem State.getStepper_modCapMem (g : CapMem → CapMem) (j : Nat) : (s.modCapMem g).getStepper j = s.getStepper j := rfl
@[simp] theorem State.getCap_modCapMem (g : CapMem → CapMem) (j : Nat) : (s.modCapMem g).getCap j = s.getCap j := rfl
@[simp] theorem State.getMbx_modCapMem (g : CapMem → CapMem) (j : Nat) : (s.modCapMem g).getMbx j = s.getMbx j := rfl
@[simp] theorem State.getSession_modCapMem (g : CapMem → CapMem) (j : Nat) : (s.modCapMem g).getSession j = s.getSession j := rfl
@[simp] theorem State.getArb_modCapMem (g : CapMem → CapMem) (j : Nat) : (s.modCapMem g).getArb j = s.getArb j := rfl
@[simp] theorem State.getFabPort_modCapMem (g : CapMem → CapMem) (j : Nat) : (s.modCapMem g).getFabPort j = s.getFabPort j := rfl
@[simp] theorem State.getEth_modCapMem (g : CapMem → CapMem) (j : Nat) : (s.modCapMem g).getEth j = s.getEth j := rfl
@[simp] theorem State.getCan_modCapMem (g : CapMem → CapMem) (j : Nat) : (s.modCapMem g).getCan j = s.getCan j := rfl

/-! ### locks -/

@[simp] theorem State.modLocks_locks (g : Locks → Locks) : (s.modLocks g).locks = g s.locks := rfl
@[simp] theorem State.modLocks_pending (g : Locks → Locks) : (s.modLocks g).pending = s.pending := rfl
@[simp] theorem State.modLocks_tick (g : Locks → Locks) : (s.modLocks g).tick = s.tick := rfl
@[simp] theorem State.modLocks_freeCtr (g : Locks → Locks) : (s.modLocks g).freeCtr = s.freeCtr := rfl
@[simp] theorem State.modLocks_time (g : Locks → Locks) : (s.modLocks g).time = s.time := rfl
@[simp] theorem State.modLocks_tdc (g : Locks → Locks) : (s.modLocks g).tdc = s.tdc := rfl
@[simp] theorem State.modLocks_tdcCal (g : Locks → Locks) : (s.modLocks g).tdcCal = s.tdcCal := rfl
@[simp] theorem State.modLocks_cfg (g : Locks → Locks) : (s.modLocks g).cfg = s.cfg := rfl
@[simp] theorem State.modLocks_ctr (g : Locks → Locks) : (s.modLocks g).ctr = s.ctr := rfl
@[simp] theorem State.modLocks_pwm (g : Locks → Locks) : (s.modLocks g).pwm = s.pwm := rfl
@[simp] theorem State.modLocks_quad (g : Locks → Locks) : (s.modLocks g).quad = s.quad := rfl
@[simp] theorem State.modLocks_serial (g : Locks → Locks) : (s.modLocks g).serial = s.serial := rfl
@[simp] theorem State.modLocks_fb (g : Locks → Locks) : (s.modLocks g).fb = s.fb := rfl
@[simp] theorem State.modLocks_loop (g : Locks → Locks) : (s.modLocks g).loop = s.loop := rfl
@[simp] theorem State.modLocks_flags (g : Locks → Locks) : (s.modLocks g).flags = s.flags := rfl
@[simp] theorem State.modLocks_foc (g : Locks → Locks) : (s.modLocks g).foc = s.foc := rfl
@[simp] theorem State.modLocks_sections (g : Locks → Locks) : (s.modLocks g).sections = s.sections := rfl
@[simp] theorem State.modLocks_records (g : Locks → Locks) : (s.modLocks g).records = s.records := rfl
@[simp] theorem State.modLocks_dc (g : Locks → Locks) : (s.modLocks g).dc = s.dc := rfl
@[simp] theorem State.modLocks_engines (g : Locks → Locks) : (s.modLocks g).engines = s.engines := rfl
@[simp] theorem State.modLocks_bank (g : Locks → Locks) : (s.modLocks g).bank = s.bank := rfl
@[simp] theorem State.modLocks_waiters (g : Locks → Locks) : (s.modLocks g).waiters = s.waiters := rfl
@[simp] theorem State.modLocks_aux (g : Locks → Locks) : (s.modLocks g).aux = s.aux := rfl
@[simp] theorem State.modLocks_trails (g : Locks → Locks) : (s.modLocks g).trails = s.trails := rfl
@[simp] theorem State.modLocks_followers (g : Locks → Locks) : (s.modLocks g).followers = s.followers := rfl
@[simp] theorem State.modLocks_publishers (g : Locks → Locks) : (s.modLocks g).publishers = s.publishers := rfl
@[simp] theorem State.modLocks_virt (g : Locks → Locks) : (s.modLocks g).virt = s.virt := rfl
@[simp] theorem State.modLocks_remote (g : Locks → Locks) : (s.modLocks g).remote = s.remote := rfl
@[simp] theorem State.modLocks_cams (g : Locks → Locks) : (s.modLocks g).cams = s.cams := rfl
@[simp] theorem State.modLocks_steppers (g : Locks → Locks) : (s.modLocks g).steppers = s.steppers := rfl
@[simp] theorem State.modLocks_caps (g : Locks → Locks) : (s.modLocks g).caps = s.caps := rfl
@[simp] theorem State.modLocks_capMem (g : Locks → Locks) : (s.modLocks g).capMem = s.capMem := rfl
@[simp] theorem State.modLocks_mailboxes (g : Locks → Locks) : (s.modLocks g).mailboxes = s.mailboxes := rfl
@[simp] theorem State.modLocks_sessions (g : Locks → Locks) : (s.modLocks g).sessions = s.sessions := rfl
@[simp] theorem State.modLocks_host (g : Locks → Locks) : (s.modLocks g).host = s.host := rfl
@[simp] theorem State.modLocks_events (g : Locks → Locks) : (s.modLocks g).events = s.events := rfl
@[simp] theorem State.modLocks_sched (g : Locks → Locks) : (s.modLocks g).sched = s.sched := rfl
@[simp] theorem State.modLocks_arbs (g : Locks → Locks) : (s.modLocks g).arbs = s.arbs := rfl
@[simp] theorem State.modLocks_fabPorts (g : Locks → Locks) : (s.modLocks g).fabPorts = s.fabPorts := rfl
@[simp] theorem State.modLocks_fabric (g : Locks → Locks) : (s.modLocks g).fabric = s.fabric := rfl
@[simp] theorem State.modLocks_eth (g : Locks → Locks) : (s.modLocks g).eth = s.eth := rfl
@[simp] theorem State.modLocks_can (g : Locks → Locks) : (s.modLocks g).can = s.can := rfl
@[simp] theorem State.modLocks_fio (g : Locks → Locks) : (s.modLocks g).fio = s.fio := rfl
@[simp] theorem State.modLocks_safety (g : Locks → Locks) : (s.modLocks g).safety = s.safety := rfl
@[simp] theorem State.modLocks_power (g : Locks → Locks) : (s.modLocks g).power = s.power := rfl
@[simp] theorem State.getTdc_modLocks (g : Locks → Locks) (j : Nat) : (s.modLocks g).getTdc j = s.getTdc j := rfl
@[simp] theorem State.getPwm_modLocks (g : Locks → Locks) (j : Nat) : (s.modLocks g).getPwm j = s.getPwm j := rfl
@[simp] theorem State.getQuad_modLocks (g : Locks → Locks) (j : Nat) : (s.modLocks g).getQuad j = s.getQuad j := rfl
@[simp] theorem State.getSerial_modLocks (g : Locks → Locks) (j : Nat) : (s.modLocks g).getSerial j = s.getSerial j := rfl
@[simp] theorem State.getFb_modLocks (g : Locks → Locks) (j : Nat) : (s.modLocks g).getFb j = s.getFb j := rfl
@[simp] theorem State.getLoop_modLocks (g : Locks → Locks) (j : Nat) : (s.modLocks g).getLoop j = s.getLoop j := rfl
@[simp] theorem State.getFlags_modLocks (g : Locks → Locks) (j : Nat) : (s.modLocks g).getFlags j = s.getFlags j := rfl
@[simp] theorem State.getFoc_modLocks (g : Locks → Locks) (j : Nat) : (s.modLocks g).getFoc j = s.getFoc j := rfl
@[simp] theorem State.getSection_modLocks (g : Locks → Locks) (j : Nat) : (s.modLocks g).getSection j = s.getSection j := rfl
@[simp] theorem State.getRecord_modLocks (g : Locks → Locks) (j : Nat) : (s.modLocks g).getRecord j = s.getRecord j := rfl
@[simp] theorem State.getDc_modLocks (g : Locks → Locks) (j : Nat) : (s.modLocks g).getDc j = s.getDc j := rfl
@[simp] theorem State.getEngine_modLocks (g : Locks → Locks) (j : Nat) : (s.modLocks g).getEngine j = s.getEngine j := rfl
@[simp] theorem State.getAux_modLocks (g : Locks → Locks) (j : Nat) : (s.modLocks g).getAux j = s.getAux j := rfl
@[simp] theorem State.getTrail_modLocks (g : Locks → Locks) (j : Nat) : (s.modLocks g).getTrail j = s.getTrail j := rfl
@[simp] theorem State.getFollower_modLocks (g : Locks → Locks) (j : Nat) : (s.modLocks g).getFollower j = s.getFollower j := rfl
@[simp] theorem State.getPublisher_modLocks (g : Locks → Locks) (j : Nat) : (s.modLocks g).getPublisher j = s.getPublisher j := rfl
@[simp] theorem State.getVirt_modLocks (g : Locks → Locks) (j : Nat) : (s.modLocks g).getVirt j = s.getVirt j := rfl
@[simp] theorem State.getRemote_modLocks (g : Locks → Locks) (j : Nat) : (s.modLocks g).getRemote j = s.getRemote j := rfl
@[simp] theorem State.getCam_modLocks (g : Locks → Locks) (j : Nat) : (s.modLocks g).getCam j = s.getCam j := rfl
@[simp] theorem State.getStepper_modLocks (g : Locks → Locks) (j : Nat) : (s.modLocks g).getStepper j = s.getStepper j := rfl
@[simp] theorem State.getCap_modLocks (g : Locks → Locks) (j : Nat) : (s.modLocks g).getCap j = s.getCap j := rfl
@[simp] theorem State.getMbx_modLocks (g : Locks → Locks) (j : Nat) : (s.modLocks g).getMbx j = s.getMbx j := rfl
@[simp] theorem State.getSession_modLocks (g : Locks → Locks) (j : Nat) : (s.modLocks g).getSession j = s.getSession j := rfl
@[simp] theorem State.getArb_modLocks (g : Locks → Locks) (j : Nat) : (s.modLocks g).getArb j = s.getArb j := rfl
@[simp] theorem State.getFabPort_modLocks (g : Locks → Locks) (j : Nat) : (s.modLocks g).getFabPort j = s.getFabPort j := rfl
@[simp] theorem State.getEth_modLocks (g : Locks → Locks) (j : Nat) : (s.modLocks g).getEth j = s.getEth j := rfl
@[simp] theorem State.getCan_modLocks (g : Locks → Locks) (j : Nat) : (s.modLocks g).getCan j = s.getCan j := rfl

/-! ### setPar -/

@[simp] theorem State.setPar_pending (ep code idx v : Nat) : (s.setPar ep code idx v).pending = s.pending := rfl
@[simp] theorem State.setPar_tick (ep code idx v : Nat) : (s.setPar ep code idx v).tick = s.tick := rfl
@[simp] theorem State.setPar_freeCtr (ep code idx v : Nat) : (s.setPar ep code idx v).freeCtr = s.freeCtr := rfl
@[simp] theorem State.setPar_time (ep code idx v : Nat) : (s.setPar ep code idx v).time = s.time := rfl
@[simp] theorem State.setPar_tdc (ep code idx v : Nat) : (s.setPar ep code idx v).tdc = s.tdc := rfl
@[simp] theorem State.setPar_tdcCal (ep code idx v : Nat) : (s.setPar ep code idx v).tdcCal = s.tdcCal := rfl
@[simp] theorem State.setPar_ctr (ep code idx v : Nat) : (s.setPar ep code idx v).ctr = s.ctr := rfl
@[simp] theorem State.setPar_pwm (ep code idx v : Nat) : (s.setPar ep code idx v).pwm = s.pwm := rfl
@[simp] theorem State.setPar_quad (ep code idx v : Nat) : (s.setPar ep code idx v).quad = s.quad := rfl
@[simp] theorem State.setPar_serial (ep code idx v : Nat) : (s.setPar ep code idx v).serial = s.serial := rfl
@[simp] theorem State.setPar_fb (ep code idx v : Nat) : (s.setPar ep code idx v).fb = s.fb := rfl
@[simp] theorem State.setPar_loop (ep code idx v : Nat) : (s.setPar ep code idx v).loop = s.loop := rfl
@[simp] theorem State.setPar_flags (ep code idx v : Nat) : (s.setPar ep code idx v).flags = s.flags := rfl
@[simp] theorem State.setPar_foc (ep code idx v : Nat) : (s.setPar ep code idx v).foc = s.foc := rfl
@[simp] theorem State.setPar_sections (ep code idx v : Nat) : (s.setPar ep code idx v).sections = s.sections := rfl
@[simp] theorem State.setPar_records (ep code idx v : Nat) : (s.setPar ep code idx v).records = s.records := rfl
@[simp] theorem State.setPar_dc (ep code idx v : Nat) : (s.setPar ep code idx v).dc = s.dc := rfl
@[simp] theorem State.setPar_engines (ep code idx v : Nat) : (s.setPar ep code idx v).engines = s.engines := rfl
@[simp] theorem State.setPar_bank (ep code idx v : Nat) : (s.setPar ep code idx v).bank = s.bank := rfl
@[simp] theorem State.setPar_waiters (ep code idx v : Nat) : (s.setPar ep code idx v).waiters = s.waiters := rfl
@[simp] theorem State.setPar_aux (ep code idx v : Nat) : (s.setPar ep code idx v).aux = s.aux := rfl
@[simp] theorem State.setPar_trails (ep code idx v : Nat) : (s.setPar ep code idx v).trails = s.trails := rfl
@[simp] theorem State.setPar_followers (ep code idx v : Nat) : (s.setPar ep code idx v).followers = s.followers := rfl
@[simp] theorem State.setPar_publishers (ep code idx v : Nat) : (s.setPar ep code idx v).publishers = s.publishers := rfl
@[simp] theorem State.setPar_virt (ep code idx v : Nat) : (s.setPar ep code idx v).virt = s.virt := rfl
@[simp] theorem State.setPar_remote (ep code idx v : Nat) : (s.setPar ep code idx v).remote = s.remote := rfl
@[simp] theorem State.setPar_cams (ep code idx v : Nat) : (s.setPar ep code idx v).cams = s.cams := rfl
@[simp] theorem State.setPar_steppers (ep code idx v : Nat) : (s.setPar ep code idx v).steppers = s.steppers := rfl
@[simp] theorem State.setPar_caps (ep code idx v : Nat) : (s.setPar ep code idx v).caps = s.caps := rfl
@[simp] theorem State.setPar_capMem (ep code idx v : Nat) : (s.setPar ep code idx v).capMem = s.capMem := rfl
@[simp] theorem State.setPar_mailboxes (ep code idx v : Nat) : (s.setPar ep code idx v).mailboxes = s.mailboxes := rfl
@[simp] theorem State.setPar_sessions (ep code idx v : Nat) : (s.setPar ep code idx v).sessions = s.sessions := rfl
@[simp] theorem State.setPar_host (ep code idx v : Nat) : (s.setPar ep code idx v).host = s.host := rfl
@[simp] theorem State.setPar_events (ep code idx v : Nat) : (s.setPar ep code idx v).events = s.events := rfl
@[simp] theorem State.setPar_locks (ep code idx v : Nat) : (s.setPar ep code idx v).locks = s.locks := rfl
@[simp] theorem State.setPar_sched (ep code idx v : Nat) : (s.setPar ep code idx v).sched = s.sched := rfl
@[simp] theorem State.setPar_arbs (ep code idx v : Nat) : (s.setPar ep code idx v).arbs = s.arbs := rfl
@[simp] theorem State.setPar_fabPorts (ep code idx v : Nat) : (s.setPar ep code idx v).fabPorts = s.fabPorts := rfl
@[simp] theorem State.setPar_fabric (ep code idx v : Nat) : (s.setPar ep code idx v).fabric = s.fabric := rfl
@[simp] theorem State.setPar_eth (ep code idx v : Nat) : (s.setPar ep code idx v).eth = s.eth := rfl
@[simp] theorem State.setPar_can (ep code idx v : Nat) : (s.setPar ep code idx v).can = s.can := rfl
@[simp] theorem State.setPar_fio (ep code idx v : Nat) : (s.setPar ep code idx v).fio = s.fio := rfl
@[simp] theorem State.setPar_safety (ep code idx v : Nat) : (s.setPar ep code idx v).safety = s.safety := rfl
@[simp] theorem State.setPar_power (ep code idx v : Nat) : (s.setPar ep code idx v).power = s.power := rfl
@[simp] theorem State.getTdc_setPar (ep code idx v : Nat) (j : Nat) : (s.setPar ep code idx v).getTdc j = s.getTdc j := rfl
@[simp] theorem State.getPwm_setPar (ep code idx v : Nat) (j : Nat) : (s.setPar ep code idx v).getPwm j = s.getPwm j := rfl
@[simp] theorem State.getQuad_setPar (ep code idx v : Nat) (j : Nat) : (s.setPar ep code idx v).getQuad j = s.getQuad j := rfl
@[simp] theorem State.getSerial_setPar (ep code idx v : Nat) (j : Nat) : (s.setPar ep code idx v).getSerial j = s.getSerial j := rfl
@[simp] theorem State.getFb_setPar (ep code idx v : Nat) (j : Nat) : (s.setPar ep code idx v).getFb j = s.getFb j := rfl
@[simp] theorem State.getLoop_setPar (ep code idx v : Nat) (j : Nat) : (s.setPar ep code idx v).getLoop j = s.getLoop j := rfl
@[simp] theorem State.getFlags_setPar (ep code idx v : Nat) (j : Nat) : (s.setPar ep code idx v).getFlags j = s.getFlags j := rfl
@[simp] theorem State.getFoc_setPar (ep code idx v : Nat) (j : Nat) : (s.setPar ep code idx v).getFoc j = s.getFoc j := rfl
@[simp] theorem State.getSection_setPar (ep code idx v : Nat) (j : Nat) : (s.setPar ep code idx v).getSection j = s.getSection j := rfl
@[simp] theorem State.getRecord_setPar (ep code idx v : Nat) (j : Nat) : (s.setPar ep code idx v).getRecord j = s.getRecord j := rfl
@[simp] theorem State.getDc_setPar (ep code idx v : Nat) (j : Nat) : (s.setPar ep code idx v).getDc j = s.getDc j := rfl
@[simp] theorem State.getEngine_setPar (ep code idx v : Nat) (j : Nat) : (s.setPar ep code idx v).getEngine j = s.getEngine j := rfl
@[simp] theorem State.getAux_setPar (ep code idx v : Nat) (j : Nat) : (s.setPar ep code idx v).getAux j = s.getAux j := rfl
@[simp] theorem State.getTrail_setPar (ep code idx v : Nat) (j : Nat) : (s.setPar ep code idx v).getTrail j = s.getTrail j := rfl
@[simp] theorem State.getFollower_setPar (ep code idx v : Nat) (j : Nat) : (s.setPar ep code idx v).getFollower j = s.getFollower j := rfl
@[simp] theorem State.getPublisher_setPar (ep code idx v : Nat) (j : Nat) : (s.setPar ep code idx v).getPublisher j = s.getPublisher j := rfl
@[simp] theorem State.getVirt_setPar (ep code idx v : Nat) (j : Nat) : (s.setPar ep code idx v).getVirt j = s.getVirt j := rfl
@[simp] theorem State.getRemote_setPar (ep code idx v : Nat) (j : Nat) : (s.setPar ep code idx v).getRemote j = s.getRemote j := rfl
@[simp] theorem State.getCam_setPar (ep code idx v : Nat) (j : Nat) : (s.setPar ep code idx v).getCam j = s.getCam j := rfl
@[simp] theorem State.getStepper_setPar (ep code idx v : Nat) (j : Nat) : (s.setPar ep code idx v).getStepper j = s.getStepper j := rfl
@[simp] theorem State.getCap_setPar (ep code idx v : Nat) (j : Nat) : (s.setPar ep code idx v).getCap j = s.getCap j := rfl
@[simp] theorem State.getMbx_setPar (ep code idx v : Nat) (j : Nat) : (s.setPar ep code idx v).getMbx j = s.getMbx j := rfl
@[simp] theorem State.getSession_setPar (ep code idx v : Nat) (j : Nat) : (s.setPar ep code idx v).getSession j = s.getSession j := rfl
@[simp] theorem State.getArb_setPar (ep code idx v : Nat) (j : Nat) : (s.setPar ep code idx v).getArb j = s.getArb j := rfl
@[simp] theorem State.getFabPort_setPar (ep code idx v : Nat) (j : Nat) : (s.setPar ep code idx v).getFabPort j = s.getFabPort j := rfl
@[simp] theorem State.getEth_setPar (ep code idx v : Nat) (j : Nat) : (s.setPar ep code idx v).getEth j = s.getEth j := rfl
@[simp] theorem State.getCan_setPar (ep code idx v : Nat) (j : Nat) : (s.setPar ep code idx v).getCan j = s.getCan j := rfl

/-! ### bumpBy -/

@[simp] theorem State.bumpBy_pending (ep code idx n : Nat) : (s.bumpBy ep code idx n).pending = s.pending := rfl
@[simp] theorem State.bumpBy_tick (ep code idx n : Nat) : (s.bumpBy ep code idx n).tick = s.tick := rfl
@[simp] theorem State.bumpBy_freeCtr (ep code idx n : Nat) : (s.bumpBy ep code idx n).freeCtr = s.freeCtr := rfl
@[simp] theorem State.bumpBy_time (ep code idx n : Nat) : (s.bumpBy ep code idx n).time = s.time := rfl
@[simp] theorem State.bumpBy_tdc (ep code idx n : Nat) : (s.bumpBy ep code idx n).tdc = s.tdc := rfl
@[simp] theorem State.bumpBy_tdcCal (ep code idx n : Nat) : (s.bumpBy ep code idx n).tdcCal = s.tdcCal := rfl
@[simp] theorem State.bumpBy_cfg (ep code idx n : Nat) : (s.bumpBy ep code idx n).cfg = s.cfg := rfl
@[simp] theorem State.bumpBy_pwm (ep code idx n : Nat) : (s.bumpBy ep code idx n).pwm = s.pwm := rfl
@[simp] theorem State.bumpBy_quad (ep code idx n : Nat) : (s.bumpBy ep code idx n).quad = s.quad := rfl
@[simp] theorem State.bumpBy_serial (ep code idx n : Nat) : (s.bumpBy ep code idx n).serial = s.serial := rfl
@[simp] theorem State.bumpBy_fb (ep code idx n : Nat) : (s.bumpBy ep code idx n).fb = s.fb := rfl
@[simp] theorem State.bumpBy_loop (ep code idx n : Nat) : (s.bumpBy ep code idx n).loop = s.loop := rfl
@[simp] theorem State.bumpBy_flags (ep code idx n : Nat) : (s.bumpBy ep code idx n).flags = s.flags := rfl
@[simp] theorem State.bumpBy_foc (ep code idx n : Nat) : (s.bumpBy ep code idx n).foc = s.foc := rfl
@[simp] theorem State.bumpBy_sections (ep code idx n : Nat) : (s.bumpBy ep code idx n).sections = s.sections := rfl
@[simp] theorem State.bumpBy_records (ep code idx n : Nat) : (s.bumpBy ep code idx n).records = s.records := rfl
@[simp] theorem State.bumpBy_dc (ep code idx n : Nat) : (s.bumpBy ep code idx n).dc = s.dc := rfl
@[simp] theorem State.bumpBy_engines (ep code idx n : Nat) : (s.bumpBy ep code idx n).engines = s.engines := rfl
@[simp] theorem State.bumpBy_bank (ep code idx n : Nat) : (s.bumpBy ep code idx n).bank = s.bank := rfl
@[simp] theorem State.bumpBy_waiters (ep code idx n : Nat) : (s.bumpBy ep code idx n).waiters = s.waiters := rfl
@[simp] theorem State.bumpBy_aux (ep code idx n : Nat) : (s.bumpBy ep code idx n).aux = s.aux := rfl
@[simp] theorem State.bumpBy_trails (ep code idx n : Nat) : (s.bumpBy ep code idx n).trails = s.trails := rfl
@[simp] theorem State.bumpBy_followers (ep code idx n : Nat) : (s.bumpBy ep code idx n).followers = s.followers := rfl
@[simp] theorem State.bumpBy_publishers (ep code idx n : Nat) : (s.bumpBy ep code idx n).publishers = s.publishers := rfl
@[simp] theorem State.bumpBy_virt (ep code idx n : Nat) : (s.bumpBy ep code idx n).virt = s.virt := rfl
@[simp] theorem State.bumpBy_remote (ep code idx n : Nat) : (s.bumpBy ep code idx n).remote = s.remote := rfl
@[simp] theorem State.bumpBy_cams (ep code idx n : Nat) : (s.bumpBy ep code idx n).cams = s.cams := rfl
@[simp] theorem State.bumpBy_steppers (ep code idx n : Nat) : (s.bumpBy ep code idx n).steppers = s.steppers := rfl
@[simp] theorem State.bumpBy_caps (ep code idx n : Nat) : (s.bumpBy ep code idx n).caps = s.caps := rfl
@[simp] theorem State.bumpBy_capMem (ep code idx n : Nat) : (s.bumpBy ep code idx n).capMem = s.capMem := rfl
@[simp] theorem State.bumpBy_mailboxes (ep code idx n : Nat) : (s.bumpBy ep code idx n).mailboxes = s.mailboxes := rfl
@[simp] theorem State.bumpBy_sessions (ep code idx n : Nat) : (s.bumpBy ep code idx n).sessions = s.sessions := rfl
@[simp] theorem State.bumpBy_host (ep code idx n : Nat) : (s.bumpBy ep code idx n).host = s.host := rfl
@[simp] theorem State.bumpBy_events (ep code idx n : Nat) : (s.bumpBy ep code idx n).events = s.events := rfl
@[simp] theorem State.bumpBy_locks (ep code idx n : Nat) : (s.bumpBy ep code idx n).locks = s.locks := rfl
@[simp] theorem State.bumpBy_sched (ep code idx n : Nat) : (s.bumpBy ep code idx n).sched = s.sched := rfl
@[simp] theorem State.bumpBy_arbs (ep code idx n : Nat) : (s.bumpBy ep code idx n).arbs = s.arbs := rfl
@[simp] theorem State.bumpBy_fabPorts (ep code idx n : Nat) : (s.bumpBy ep code idx n).fabPorts = s.fabPorts := rfl
@[simp] theorem State.bumpBy_fabric (ep code idx n : Nat) : (s.bumpBy ep code idx n).fabric = s.fabric := rfl
@[simp] theorem State.bumpBy_eth (ep code idx n : Nat) : (s.bumpBy ep code idx n).eth = s.eth := rfl
@[simp] theorem State.bumpBy_can (ep code idx n : Nat) : (s.bumpBy ep code idx n).can = s.can := rfl
@[simp] theorem State.bumpBy_fio (ep code idx n : Nat) : (s.bumpBy ep code idx n).fio = s.fio := rfl
@[simp] theorem State.bumpBy_safety (ep code idx n : Nat) : (s.bumpBy ep code idx n).safety = s.safety := rfl
@[simp] theorem State.bumpBy_power (ep code idx n : Nat) : (s.bumpBy ep code idx n).power = s.power := rfl
@[simp] theorem State.getTdc_bumpBy (ep code idx n : Nat) (j : Nat) : (s.bumpBy ep code idx n).getTdc j = s.getTdc j := rfl
@[simp] theorem State.getPwm_bumpBy (ep code idx n : Nat) (j : Nat) : (s.bumpBy ep code idx n).getPwm j = s.getPwm j := rfl
@[simp] theorem State.getQuad_bumpBy (ep code idx n : Nat) (j : Nat) : (s.bumpBy ep code idx n).getQuad j = s.getQuad j := rfl
@[simp] theorem State.getSerial_bumpBy (ep code idx n : Nat) (j : Nat) : (s.bumpBy ep code idx n).getSerial j = s.getSerial j := rfl
@[simp] theorem State.getFb_bumpBy (ep code idx n : Nat) (j : Nat) : (s.bumpBy ep code idx n).getFb j = s.getFb j := rfl
@[simp] theorem State.getLoop_bumpBy (ep code idx n : Nat) (j : Nat) : (s.bumpBy ep code idx n).getLoop j = s.getLoop j := rfl
@[simp] theorem State.getFlags_bumpBy (ep code idx n : Nat) (j : Nat) : (s.bumpBy ep code idx n).getFlags j = s.getFlags j := rfl
@[simp] theorem State.getFoc_bumpBy (ep code idx n : Nat) (j : Nat) : (s.bumpBy ep code idx n).getFoc j = s.getFoc j := rfl
@[simp] theorem State.getSection_bumpBy (ep code idx n : Nat) (j : Nat) : (s.bumpBy ep code idx n).getSection j = s.getSection j := rfl
@[simp] theorem State.getRecord_bumpBy (ep code idx n : Nat) (j : Nat) : (s.bumpBy ep code idx n).getRecord j = s.getRecord j := rfl
@[simp] theorem State.getDc_bumpBy (ep code idx n : Nat) (j : Nat) : (s.bumpBy ep code idx n).getDc j = s.getDc j := rfl
@[simp] theorem State.getEngine_bumpBy (ep code idx n : Nat) (j : Nat) : (s.bumpBy ep code idx n).getEngine j = s.getEngine j := rfl
@[simp] theorem State.getAux_bumpBy (ep code idx n : Nat) (j : Nat) : (s.bumpBy ep code idx n).getAux j = s.getAux j := rfl
@[simp] theorem State.getTrail_bumpBy (ep code idx n : Nat) (j : Nat) : (s.bumpBy ep code idx n).getTrail j = s.getTrail j := rfl
@[simp] theorem State.getFollower_bumpBy (ep code idx n : Nat) (j : Nat) : (s.bumpBy ep code idx n).getFollower j = s.getFollower j := rfl
@[simp] theorem State.getPublisher_bumpBy (ep code idx n : Nat) (j : Nat) : (s.bumpBy ep code idx n).getPublisher j = s.getPublisher j := rfl
@[simp] theorem State.getVirt_bumpBy (ep code idx n : Nat) (j : Nat) : (s.bumpBy ep code idx n).getVirt j = s.getVirt j := rfl
@[simp] theorem State.getRemote_bumpBy (ep code idx n : Nat) (j : Nat) : (s.bumpBy ep code idx n).getRemote j = s.getRemote j := rfl
@[simp] theorem State.getCam_bumpBy (ep code idx n : Nat) (j : Nat) : (s.bumpBy ep code idx n).getCam j = s.getCam j := rfl
@[simp] theorem State.getStepper_bumpBy (ep code idx n : Nat) (j : Nat) : (s.bumpBy ep code idx n).getStepper j = s.getStepper j := rfl
@[simp] theorem State.getCap_bumpBy (ep code idx n : Nat) (j : Nat) : (s.bumpBy ep code idx n).getCap j = s.getCap j := rfl
@[simp] theorem State.getMbx_bumpBy (ep code idx n : Nat) (j : Nat) : (s.bumpBy ep code idx n).getMbx j = s.getMbx j := rfl
@[simp] theorem State.getSession_bumpBy (ep code idx n : Nat) (j : Nat) : (s.bumpBy ep code idx n).getSession j = s.getSession j := rfl
@[simp] theorem State.getArb_bumpBy (ep code idx n : Nat) (j : Nat) : (s.bumpBy ep code idx n).getArb j = s.getArb j := rfl
@[simp] theorem State.getFabPort_bumpBy (ep code idx n : Nat) (j : Nat) : (s.bumpBy ep code idx n).getFabPort j = s.getFabPort j := rfl
@[simp] theorem State.getEth_bumpBy (ep code idx n : Nat) (j : Nat) : (s.bumpBy ep code idx n).getEth j = s.getEth j := rfl
@[simp] theorem State.getCan_bumpBy (ep code idx n : Nat) (j : Nat) : (s.bumpBy ep code idx n).getCan j = s.getCan j := rfl

/-! ### logFull -/

@[simp] theorem State.logFull_pending (t : Ft8) (ep : Nat) (code : BitVec 16) (count data : Nat) : (s.logFull t ep code count data).pending = s.pending := rfl
@[simp] theorem State.logFull_tick (t : Ft8) (ep : Nat) (code : BitVec 16) (count data : Nat) : (s.logFull t ep code count data).tick = s.tick := rfl
@[simp] theorem State.logFull_freeCtr (t : Ft8) (ep : Nat) (code : BitVec 16) (count data : Nat) : (s.logFull t ep code count data).freeCtr = s.freeCtr := rfl
@[simp] theorem State.logFull_time (t : Ft8) (ep : Nat) (code : BitVec 16) (count data : Nat) : (s.logFull t ep code count data).time = s.time := rfl
@[simp] theorem State.logFull_tdc (t : Ft8) (ep : Nat) (code : BitVec 16) (count data : Nat) : (s.logFull t ep code count data).tdc = s.tdc := rfl
@[simp] theorem State.logFull_tdcCal (t : Ft8) (ep : Nat) (code : BitVec 16) (count data : Nat) : (s.logFull t ep code count data).tdcCal = s.tdcCal := rfl
@[simp] theorem State.logFull_cfg (t : Ft8) (ep : Nat) (code : BitVec 16) (count data : Nat) : (s.logFull t ep code count data).cfg = s.cfg := rfl
@[simp] theorem State.logFull_ctr (t : Ft8) (ep : Nat) (code : BitVec 16) (count data : Nat) : (s.logFull t ep code count data).ctr = s.ctr := rfl
@[simp] theorem State.logFull_pwm (t : Ft8) (ep : Nat) (code : BitVec 16) (count data : Nat) : (s.logFull t ep code count data).pwm = s.pwm := rfl
@[simp] theorem State.logFull_quad (t : Ft8) (ep : Nat) (code : BitVec 16) (count data : Nat) : (s.logFull t ep code count data).quad = s.quad := rfl
@[simp] theorem State.logFull_serial (t : Ft8) (ep : Nat) (code : BitVec 16) (count data : Nat) : (s.logFull t ep code count data).serial = s.serial := rfl
@[simp] theorem State.logFull_fb (t : Ft8) (ep : Nat) (code : BitVec 16) (count data : Nat) : (s.logFull t ep code count data).fb = s.fb := rfl
@[simp] theorem State.logFull_loop (t : Ft8) (ep : Nat) (code : BitVec 16) (count data : Nat) : (s.logFull t ep code count data).loop = s.loop := rfl
@[simp] theorem State.logFull_flags (t : Ft8) (ep : Nat) (code : BitVec 16) (count data : Nat) : (s.logFull t ep code count data).flags = s.flags := rfl
@[simp] theorem State.logFull_foc (t : Ft8) (ep : Nat) (code : BitVec 16) (count data : Nat) : (s.logFull t ep code count data).foc = s.foc := rfl
@[simp] theorem State.logFull_sections (t : Ft8) (ep : Nat) (code : BitVec 16) (count data : Nat) : (s.logFull t ep code count data).sections = s.sections := rfl
@[simp] theorem State.logFull_records (t : Ft8) (ep : Nat) (code : BitVec 16) (count data : Nat) : (s.logFull t ep code count data).records = s.records := rfl
@[simp] theorem State.logFull_dc (t : Ft8) (ep : Nat) (code : BitVec 16) (count data : Nat) : (s.logFull t ep code count data).dc = s.dc := rfl
@[simp] theorem State.logFull_engines (t : Ft8) (ep : Nat) (code : BitVec 16) (count data : Nat) : (s.logFull t ep code count data).engines = s.engines := rfl
@[simp] theorem State.logFull_bank (t : Ft8) (ep : Nat) (code : BitVec 16) (count data : Nat) : (s.logFull t ep code count data).bank = s.bank := rfl
@[simp] theorem State.logFull_waiters (t : Ft8) (ep : Nat) (code : BitVec 16) (count data : Nat) : (s.logFull t ep code count data).waiters = s.waiters := rfl
@[simp] theorem State.logFull_aux (t : Ft8) (ep : Nat) (code : BitVec 16) (count data : Nat) : (s.logFull t ep code count data).aux = s.aux := rfl
@[simp] theorem State.logFull_trails (t : Ft8) (ep : Nat) (code : BitVec 16) (count data : Nat) : (s.logFull t ep code count data).trails = s.trails := rfl
@[simp] theorem State.logFull_followers (t : Ft8) (ep : Nat) (code : BitVec 16) (count data : Nat) : (s.logFull t ep code count data).followers = s.followers := rfl
@[simp] theorem State.logFull_publishers (t : Ft8) (ep : Nat) (code : BitVec 16) (count data : Nat) : (s.logFull t ep code count data).publishers = s.publishers := rfl
@[simp] theorem State.logFull_virt (t : Ft8) (ep : Nat) (code : BitVec 16) (count data : Nat) : (s.logFull t ep code count data).virt = s.virt := rfl
@[simp] theorem State.logFull_remote (t : Ft8) (ep : Nat) (code : BitVec 16) (count data : Nat) : (s.logFull t ep code count data).remote = s.remote := rfl
@[simp] theorem State.logFull_cams (t : Ft8) (ep : Nat) (code : BitVec 16) (count data : Nat) : (s.logFull t ep code count data).cams = s.cams := rfl
@[simp] theorem State.logFull_steppers (t : Ft8) (ep : Nat) (code : BitVec 16) (count data : Nat) : (s.logFull t ep code count data).steppers = s.steppers := rfl
@[simp] theorem State.logFull_caps (t : Ft8) (ep : Nat) (code : BitVec 16) (count data : Nat) : (s.logFull t ep code count data).caps = s.caps := rfl
@[simp] theorem State.logFull_capMem (t : Ft8) (ep : Nat) (code : BitVec 16) (count data : Nat) : (s.logFull t ep code count data).capMem = s.capMem := rfl
@[simp] theorem State.logFull_mailboxes (t : Ft8) (ep : Nat) (code : BitVec 16) (count data : Nat) : (s.logFull t ep code count data).mailboxes = s.mailboxes := rfl
@[simp] theorem State.logFull_sessions (t : Ft8) (ep : Nat) (code : BitVec 16) (count data : Nat) : (s.logFull t ep code count data).sessions = s.sessions := rfl
@[simp] theorem State.logFull_host (t : Ft8) (ep : Nat) (code : BitVec 16) (count data : Nat) : (s.logFull t ep code count data).host = s.host := rfl
@[simp] theorem State.logFull_locks (t : Ft8) (ep : Nat) (code : BitVec 16) (count data : Nat) : (s.logFull t ep code count data).locks = s.locks := rfl
@[simp] theorem State.logFull_sched (t : Ft8) (ep : Nat) (code : BitVec 16) (count data : Nat) : (s.logFull t ep code count data).sched = s.sched := rfl
@[simp] theorem State.logFull_arbs (t : Ft8) (ep : Nat) (code : BitVec 16) (count data : Nat) : (s.logFull t ep code count data).arbs = s.arbs := rfl
@[simp] theorem State.logFull_fabPorts (t : Ft8) (ep : Nat) (code : BitVec 16) (count data : Nat) : (s.logFull t ep code count data).fabPorts = s.fabPorts := rfl
@[simp] theorem State.logFull_fabric (t : Ft8) (ep : Nat) (code : BitVec 16) (count data : Nat) : (s.logFull t ep code count data).fabric = s.fabric := rfl
@[simp] theorem State.logFull_eth (t : Ft8) (ep : Nat) (code : BitVec 16) (count data : Nat) : (s.logFull t ep code count data).eth = s.eth := rfl
@[simp] theorem State.logFull_can (t : Ft8) (ep : Nat) (code : BitVec 16) (count data : Nat) : (s.logFull t ep code count data).can = s.can := rfl
@[simp] theorem State.logFull_fio (t : Ft8) (ep : Nat) (code : BitVec 16) (count data : Nat) : (s.logFull t ep code count data).fio = s.fio := rfl
@[simp] theorem State.logFull_safety (t : Ft8) (ep : Nat) (code : BitVec 16) (count data : Nat) : (s.logFull t ep code count data).safety = s.safety := rfl
@[simp] theorem State.logFull_power (t : Ft8) (ep : Nat) (code : BitVec 16) (count data : Nat) : (s.logFull t ep code count data).power = s.power := rfl
@[simp] theorem State.getTdc_logFull (t : Ft8) (ep : Nat) (code : BitVec 16) (count data : Nat) (j : Nat) : (s.logFull t ep code count data).getTdc j = s.getTdc j := rfl
@[simp] theorem State.getPwm_logFull (t : Ft8) (ep : Nat) (code : BitVec 16) (count data : Nat) (j : Nat) : (s.logFull t ep code count data).getPwm j = s.getPwm j := rfl
@[simp] theorem State.getQuad_logFull (t : Ft8) (ep : Nat) (code : BitVec 16) (count data : Nat) (j : Nat) : (s.logFull t ep code count data).getQuad j = s.getQuad j := rfl
@[simp] theorem State.getSerial_logFull (t : Ft8) (ep : Nat) (code : BitVec 16) (count data : Nat) (j : Nat) : (s.logFull t ep code count data).getSerial j = s.getSerial j := rfl
@[simp] theorem State.getFb_logFull (t : Ft8) (ep : Nat) (code : BitVec 16) (count data : Nat) (j : Nat) : (s.logFull t ep code count data).getFb j = s.getFb j := rfl
@[simp] theorem State.getLoop_logFull (t : Ft8) (ep : Nat) (code : BitVec 16) (count data : Nat) (j : Nat) : (s.logFull t ep code count data).getLoop j = s.getLoop j := rfl
@[simp] theorem State.getFlags_logFull (t : Ft8) (ep : Nat) (code : BitVec 16) (count data : Nat) (j : Nat) : (s.logFull t ep code count data).getFlags j = s.getFlags j := rfl
@[simp] theorem State.getFoc_logFull (t : Ft8) (ep : Nat) (code : BitVec 16) (count data : Nat) (j : Nat) : (s.logFull t ep code count data).getFoc j = s.getFoc j := rfl
@[simp] theorem State.getSection_logFull (t : Ft8) (ep : Nat) (code : BitVec 16) (count data : Nat) (j : Nat) : (s.logFull t ep code count data).getSection j = s.getSection j := rfl
@[simp] theorem State.getRecord_logFull (t : Ft8) (ep : Nat) (code : BitVec 16) (count data : Nat) (j : Nat) : (s.logFull t ep code count data).getRecord j = s.getRecord j := rfl
@[simp] theorem State.getDc_logFull (t : Ft8) (ep : Nat) (code : BitVec 16) (count data : Nat) (j : Nat) : (s.logFull t ep code count data).getDc j = s.getDc j := rfl
@[simp] theorem State.getEngine_logFull (t : Ft8) (ep : Nat) (code : BitVec 16) (count data : Nat) (j : Nat) : (s.logFull t ep code count data).getEngine j = s.getEngine j := rfl
@[simp] theorem State.getAux_logFull (t : Ft8) (ep : Nat) (code : BitVec 16) (count data : Nat) (j : Nat) : (s.logFull t ep code count data).getAux j = s.getAux j := rfl
@[simp] theorem State.getTrail_logFull (t : Ft8) (ep : Nat) (code : BitVec 16) (count data : Nat) (j : Nat) : (s.logFull t ep code count data).getTrail j = s.getTrail j := rfl
@[simp] theorem State.getFollower_logFull (t : Ft8) (ep : Nat) (code : BitVec 16) (count data : Nat) (j : Nat) : (s.logFull t ep code count data).getFollower j = s.getFollower j := rfl
@[simp] theorem State.getPublisher_logFull (t : Ft8) (ep : Nat) (code : BitVec 16) (count data : Nat) (j : Nat) : (s.logFull t ep code count data).getPublisher j = s.getPublisher j := rfl
@[simp] theorem State.getVirt_logFull (t : Ft8) (ep : Nat) (code : BitVec 16) (count data : Nat) (j : Nat) : (s.logFull t ep code count data).getVirt j = s.getVirt j := rfl
@[simp] theorem State.getRemote_logFull (t : Ft8) (ep : Nat) (code : BitVec 16) (count data : Nat) (j : Nat) : (s.logFull t ep code count data).getRemote j = s.getRemote j := rfl
@[simp] theorem State.getCam_logFull (t : Ft8) (ep : Nat) (code : BitVec 16) (count data : Nat) (j : Nat) : (s.logFull t ep code count data).getCam j = s.getCam j := rfl
@[simp] theorem State.getStepper_logFull (t : Ft8) (ep : Nat) (code : BitVec 16) (count data : Nat) (j : Nat) : (s.logFull t ep code count data).getStepper j = s.getStepper j := rfl
@[simp] theorem State.getCap_logFull (t : Ft8) (ep : Nat) (code : BitVec 16) (count data : Nat) (j : Nat) : (s.logFull t ep code count data).getCap j = s.getCap j := rfl
@[simp] theorem State.getMbx_logFull (t : Ft8) (ep : Nat) (code : BitVec 16) (count data : Nat) (j : Nat) : (s.logFull t ep code count data).getMbx j = s.getMbx j := rfl
@[simp] theorem State.getSession_logFull (t : Ft8) (ep : Nat) (code : BitVec 16) (count data : Nat) (j : Nat) : (s.logFull t ep code count data).getSession j = s.getSession j := rfl
@[simp] theorem State.getArb_logFull (t : Ft8) (ep : Nat) (code : BitVec 16) (count data : Nat) (j : Nat) : (s.logFull t ep code count data).getArb j = s.getArb j := rfl
@[simp] theorem State.getFabPort_logFull (t : Ft8) (ep : Nat) (code : BitVec 16) (count data : Nat) (j : Nat) : (s.logFull t ep code count data).getFabPort j = s.getFabPort j := rfl
@[simp] theorem State.getEth_logFull (t : Ft8) (ep : Nat) (code : BitVec 16) (count data : Nat) (j : Nat) : (s.logFull t ep code count data).getEth j = s.getEth j := rfl
@[simp] theorem State.getCan_logFull (t : Ft8) (ep : Nat) (code : BitVec 16) (count data : Nat) (j : Nat) : (s.logFull t ep code count data).getCan j = s.getCan j := rfl

/-! ### took -/

@[simp] theorem State.took_pending : (s.took).pending = s.pending := rfl
@[simp] theorem State.took_tick : (s.took).tick = s.tick := rfl
@[simp] theorem State.took_time : (s.took).time = s.time := rfl
@[simp] theorem State.took_tdc : (s.took).tdc = s.tdc := rfl
@[simp] theorem State.took_tdcCal : (s.took).tdcCal = s.tdcCal := rfl
@[simp] theorem State.took_cfg : (s.took).cfg = s.cfg := rfl
@[simp] theorem State.took_ctr : (s.took).ctr = s.ctr := rfl
@[simp] theorem State.took_pwm : (s.took).pwm = s.pwm := rfl
@[simp] theorem State.took_quad : (s.took).quad = s.quad := rfl
@[simp] theorem State.took_serial : (s.took).serial = s.serial := rfl
@[simp] theorem State.took_fb : (s.took).fb = s.fb := rfl
@[simp] theorem State.took_loop : (s.took).loop = s.loop := rfl
@[simp] theorem State.took_flags : (s.took).flags = s.flags := rfl
@[simp] theorem State.took_foc : (s.took).foc = s.foc := rfl
@[simp] theorem State.took_sections : (s.took).sections = s.sections := rfl
@[simp] theorem State.took_records : (s.took).records = s.records := rfl
@[simp] theorem State.took_dc : (s.took).dc = s.dc := rfl
@[simp] theorem State.took_engines : (s.took).engines = s.engines := rfl
@[simp] theorem State.took_bank : (s.took).bank = s.bank := rfl
@[simp] theorem State.took_waiters : (s.took).waiters = s.waiters := rfl
@[simp] theorem State.took_aux : (s.took).aux = s.aux := rfl
@[simp] theorem State.took_trails : (s.took).trails = s.trails := rfl
@[simp] theorem State.took_followers : (s.took).followers = s.followers := rfl
@[simp] theorem State.took_publishers : (s.took).publishers = s.publishers := rfl
@[simp] theorem State.took_virt : (s.took).virt = s.virt := rfl
@[simp] theorem State.took_remote : (s.took).remote = s.remote := rfl
@[simp] theorem State.took_cams : (s.took).cams = s.cams := rfl
@[simp] theorem State.took_steppers : (s.took).steppers = s.steppers := rfl
@[simp] theorem State.took_caps : (s.took).caps = s.caps := rfl
@[simp] theorem State.took_capMem : (s.took).capMem = s.capMem := rfl
@[simp] theorem State.took_mailboxes : (s.took).mailboxes = s.mailboxes := rfl
@[simp] theorem State.took_sessions : (s.took).sessions = s.sessions := rfl
@[simp] theorem State.took_host : (s.took).host = s.host := rfl
@[simp] theorem State.took_events : (s.took).events = s.events := rfl
@[simp] theorem State.took_locks : (s.took).locks = s.locks := rfl
@[simp] theorem State.took_sched : (s.took).sched = s.sched := rfl
@[simp] theorem State.took_arbs : (s.took).arbs = s.arbs := rfl
@[simp] theorem State.took_fabPorts : (s.took).fabPorts = s.fabPorts := rfl
@[simp] theorem State.took_fabric : (s.took).fabric = s.fabric := rfl
@[simp] theorem State.took_eth : (s.took).eth = s.eth := rfl
@[simp] theorem State.took_can : (s.took).can = s.can := rfl
@[simp] theorem State.took_fio : (s.took).fio = s.fio := rfl
@[simp] theorem State.took_safety : (s.took).safety = s.safety := rfl
@[simp] theorem State.took_power : (s.took).power = s.power := rfl
@[simp] theorem State.getTdc_took (j : Nat) : (s.took).getTdc j = s.getTdc j := rfl
@[simp] theorem State.getPwm_took (j : Nat) : (s.took).getPwm j = s.getPwm j := rfl
@[simp] theorem State.getQuad_took (j : Nat) : (s.took).getQuad j = s.getQuad j := rfl
@[simp] theorem State.getSerial_took (j : Nat) : (s.took).getSerial j = s.getSerial j := rfl
@[simp] theorem State.getFb_took (j : Nat) : (s.took).getFb j = s.getFb j := rfl
@[simp] theorem State.getLoop_took (j : Nat) : (s.took).getLoop j = s.getLoop j := rfl
@[simp] theorem State.getFlags_took (j : Nat) : (s.took).getFlags j = s.getFlags j := rfl
@[simp] theorem State.getFoc_took (j : Nat) : (s.took).getFoc j = s.getFoc j := rfl
@[simp] theorem State.getSection_took (j : Nat) : (s.took).getSection j = s.getSection j := rfl
@[simp] theorem State.getRecord_took (j : Nat) : (s.took).getRecord j = s.getRecord j := rfl
@[simp] theorem State.getDc_took (j : Nat) : (s.took).getDc j = s.getDc j := rfl
@[simp] theorem State.getEngine_took (j : Nat) : (s.took).getEngine j = s.getEngine j := rfl
@[simp] theorem State.getAux_took (j : Nat) : (s.took).getAux j = s.getAux j := rfl
@[simp] theorem State.getTrail_took (j : Nat) : (s.took).getTrail j = s.getTrail j := rfl
@[simp] theorem State.getFollower_took (j : Nat) : (s.took).getFollower j = s.getFollower j := rfl
@[simp] theorem State.getPublisher_took (j : Nat) : (s.took).getPublisher j = s.getPublisher j := rfl
@[simp] theorem State.getVirt_took (j : Nat) : (s.took).getVirt j = s.getVirt j := rfl
@[simp] theorem State.getRemote_took (j : Nat) : (s.took).getRemote j = s.getRemote j := rfl
@[simp] theorem State.getCam_took (j : Nat) : (s.took).getCam j = s.getCam j := rfl
@[simp] theorem State.getStepper_took (j : Nat) : (s.took).getStepper j = s.getStepper j := rfl
@[simp] theorem State.getCap_took (j : Nat) : (s.took).getCap j = s.getCap j := rfl
@[simp] theorem State.getMbx_took (j : Nat) : (s.took).getMbx j = s.getMbx j := rfl
@[simp] theorem State.getSession_took (j : Nat) : (s.took).getSession j = s.getSession j := rfl
@[simp] theorem State.getArb_took (j : Nat) : (s.took).getArb j = s.getArb j := rfl
@[simp] theorem State.getFabPort_took (j : Nat) : (s.took).getFabPort j = s.getFabPort j := rfl
@[simp] theorem State.getEth_took (j : Nat) : (s.took).getEth j = s.getEth j := rfl
@[simp] theorem State.getCan_took (j : Nat) : (s.took).getCan j = s.getCan j := rfl

end Sys2Proof.Machine
end

