-- ==== Sys2Proof/Laws/Kept.lean ====
section
/-! SUPPORT. The relation that every operation keeps: the queue is the given one and, where asked, the state stays sound. -/

namespace Sys2Proof.Machine

/-- The queue of `s` is `qs`, and `s` is sound where `sn` asks for it. -/
def Kept (sn : Bool) (qs : List Instr) (s : State) : Prop := s.pending = qs ∧ (sn = true → s.sound = true)

variable {sn : Bool} {qs : List Instr}

theorem Kept.refl {s : State} (h : s.sound = true) : Kept sn s.pending s := ⟨rfl, fun _ => h⟩

/-- The soundness of a state is that of its counters, memories and arbiters. -/
theorem State.sound_iff (s : State) : s.sound = true ↔
    (mwf 0 s.ctr = true ∧ ∀ x ∈ s.ctr, x.2 ≤ 4294967295) ∧ (Memory.wf s.bank = true ∧ ∀ x ∈ s.engines, x.2.wf = true) ∧
      (∀ x ∈ s.arbs, x.2.inRange (arbCount x.1) = true) ∧ (mwf {} s.engines = true ∧ mwf {} s.arbs = true) := by
  simp [State.sound, State.countersOk, State.memoryOk, State.arbsOk, State.unitsOk, List.all_eq_true, and_assoc]

/-- An update of other fields than the queue, the counters, the memories and the arbiters. -/
theorem Kept.of {x t : State} (h : Kept sn qs x) (h1 : t.pending = x.pending) (h2 : t.ctr = x.ctr) (h3 : t.engines = x.engines)
    (h4 : t.bank = x.bank) (h5 : t.arbs = x.arbs) : Kept sn qs t := by
  refine ⟨h1.trans h.1, fun e => ?_⟩
  have := h.2 e
  rw [State.sound_iff] at this ⊢
  rw [h2, h3, h4, h5]
  exact this

/-- The same for an update as it is written. -/
theorem Kept.mk {x : State} {a1 a2 a3 a4 a5 a6 a8 a9 a10 a11 a12 a13 a14 a15 a16 a17 a20 a21 a22 a23 a24 a25 a26 a27
      a28 a29 a30 a31 a32 a33 a34 a35 a36 a38 a39 a40 a41 a42 a43 a44} (h : Kept sn qs x) :
    Kept sn qs (State.mk x.pending a1 a2 a3 a4 a5 a6 x.ctr a8 a9 a10 a11 a12 a13 a14 a15 a16 a17 x.engines x.bank a20 a21 a22
      a23 a24 a25 a26 a27 a28 a29 a30 a31 a32 a33 a34 a35 a36 x.arbs a38 a39 a40 a41 a42 a43 a44) :=
  h.of rfl rfl rfl rfl rfl

theorem Kept.ite {c : Prop} [Decidable c] {x y : State} (hx : Kept sn qs x) (hy : Kept sn qs y) :
    Kept sn qs (if c then x else y) := by
  split
  · exact hx
  · exact hy

theorem Kept.foldl {α : Type} {f : State → α → State} {l : List α} {s : State} (hf : ∀ s x, Kept sn qs s → Kept sn qs (f s x))
    (hs : Kept sn qs s) : Kept sn qs (l.foldl f s) := by
  induction l generalizing s with
  | nil => exact hs
  | cons x t ih => exact ih (hf s x hs)

theorem Kept.iteFst {α : Type} {c : Prop} [Decidable c] {x y : State × α} (hx : Kept sn qs x.1) (hy : Kept sn qs y.1) :
    Kept sn qs (if c then x else y).1 := by
  split
  · exact hx
  · exact hy

theorem Kept.foldlFst {α β : Type} {f : State × β → α → State × β} {l : List α} {a : State × β}
    (hf : ∀ a x, Kept sn qs a.1 → Kept sn qs (f a x).1) (ha : Kept sn qs a.1) : Kept sn qs (l.foldl f a).1 := by
  induction l generalizing a with
  | nil => exact ha
  | cons x t ih => exact ih (hf a x ha)

theorem Kept.next {s : State} (h : Kept sn qs s) : nextHas (Kept sn qs) (.next s) := h

theorem Kept.iteOut {c : Prop} [Decidable c] {x y : Out} (hx : nextHas (Kept sn qs) x) (hy : nextHas (Kept sn qs) y) :
    nextHas (Kept sn qs) (if c then x else y) := by
  split
  · exact hx
  · exact hy

/-! ### The updates that matter -/

/-- A change of other fields than the memory, the general registers and the accumulators. -/
theorem Engine.wf_of {e e' : Engine} (h : e.wf = true) (h1 : e'.mem = e.mem) (h2 : e'.x = e.x) (h3 : e'.acc = e.acc) : e'.wf = true := by
  unfold Engine.wf
  rw [h1, h2, h3]
  exact h

theorem Engine.wf_iff (e : Engine) : e.wf = true ↔ Memory.wf e.mem = true ∧ mwf 0 e.x = true ∧ mwf {} e.acc = true := by
  simp [Engine.wf, and_assoc]

/-- An engine changed without its memory or registers losing the canonical form. -/
theorem State.setEngine_kept {s : State} (i : Nat) (v : Engine) (hs : Kept sn qs s) (hv : sn = true → v.wf = true) :
    Kept sn qs (s.setEngine i v) := by
  refine ⟨hs.1, fun e => ?_⟩
  have := hs.2 e
  rw [State.sound_iff] at this ⊢
  refine ⟨this.1, ⟨this.2.1.1, fun x hx => ?_⟩, this.2.2.1, mwf_mset _ _ this.2.2.2.1, this.2.2.2.2⟩
  rcases mem_mset hx with rfl | hx
  · exact hv e
  · exact this.2.1.2 x hx

/-- The memory of an engine of a sound state is in canonical form. -/
theorem Kept.engine {s : State} (hs : Kept sn qs s) (i : Nat) : sn = true → (s.getEngine i).wf = true := by
  intro e
  have := hs.2 e
  rw [State.sound_iff] at this
  unfold State.getEngine
  rcases mget_mem s.engines i {} with h | h
  · rw [h]; rfl
  · exact this.2.1.2 _ h

theorem State.modEngine_kept {s : State} (i : Nat) (g : Engine → Engine) (hs : Kept sn qs s)
    (hg : ∀ e, e.wf = true → (g e).wf = true) : Kept sn qs (s.modEngine i g) :=
  State.setEngine_kept i _ hs (fun e => hg _ (hs.engine i e))

/-- An arbiter changed with its counts in range. -/
theorem State.setArb_kept {s : State} (i : Nat) (v : Arbiter) (hs : Kept sn qs s) (hv : sn = true → v.inRange (arbCount i) = true) :
    Kept sn qs (s.setArb i v) := by
  refine ⟨hs.1, fun e => ?_⟩
  have := hs.2 e
  rw [State.sound_iff] at this ⊢
  refine ⟨this.1, this.2.1, fun x hx => ?_, this.2.2.2.1, mwf_mset _ _ this.2.2.2.2⟩
  rcases mem_mset hx with rfl | hx
  · exact hv e
  · exact this.2.2.1 x hx

theorem arbCount_pos (i : Nat) : 0 < arbCount i := by unfold arbCount; split <;> [skip; split] <;> omega

/-- The counts of an arbiter of a sound state are in range. -/
theorem Kept.arb {s : State} (hs : Kept sn qs s) (i : Nat) : sn = true → (s.getArb i).inRange (arbCount i) = true := by
  intro e
  have := hs.2 e
  rw [State.sound_iff] at this
  unfold State.getArb
  rcases mget_mem s.arbs i {} with h | h
  · rw [h]; simp [Arbiter.inRange, arbCount_pos]
  · exact this.2.2.1 _ h

theorem State.modArb_kept {s : State} (i : Nat) (g : Arbiter → Arbiter) (hs : Kept sn qs s)
    (hg : ∀ a, a.inRange (arbCount i) = true → (g a).inRange (arbCount i) = true) : Kept sn qs (s.modArb i g) :=
  State.setArb_kept i _ hs (fun e => hg _ (hs.arb i e))

/-- A counter set to a 32-bit value. -/
theorem Kept.ctr {s t : State} (hs : Kept sn qs s) (k v : Nat) (hv : sn = true → v ≤ 4294967295) (h1 : t.pending = s.pending)
    (h2 : t.ctr = mset s.ctr k v 0) (h3 : t.engines = s.engines) (h4 : t.bank = s.bank) (h5 : t.arbs = s.arbs) : Kept sn qs t := by
  refine ⟨h1.trans hs.1, fun e => ?_⟩
  have := hs.2 e
  rw [State.sound_iff] at this ⊢
  rw [h2, h3, h4, h5]
  refine ⟨⟨mwf_mset k v this.1.1, fun x hx => ?_⟩, this.2⟩
  rcases mem_mset hx with rfl | hx
  · exact hv e
  · exact this.1.2 x hx

theorem State.bumpBy_kept {s : State} (ep code idx n : Nat) (hs : Kept sn qs s) : Kept sn qs (s.bumpBy ep code idx n) :=
  hs.ctr (itemKey ep code idx) _ (fun _ => Nat.min_le_left _ _) rfl rfl rfl rfl rfl

end Sys2Proof.Machine
end

