-- ==== Sys2Proof/Laws/Engine.lean ====
section
/-! SUPPORT. What a bundle of one slot operation does to an engine: the laws of its registers, its memory and its place in the state. -/

namespace Sys2Proof.Machine

theorem State.getEngine_setEngine {s : State} (h : s.sound = true) (i : Nat) (v : Engine) : (s.setEngine i v).getEngine i = v :=
  mget_mset_same i v ((State.sound_iff s).1 h).2.2.2.1

theorem State.sound_engine {s : State} (h : s.sound = true) (i : Nat) : (s.getEngine i).wf = true :=
  (Kept.refl h).engine i rfl

theorem Engine.setLevel_frame (e : Engine) (l : Nat) (v : LoopLevel) :
    (e.setLevel l v).mem = e.mem ∧ (e.setLevel l v).x = e.x ∧ (e.setLevel l v).acc = e.acc := by
  unfold Engine.setLevel
  split <;> exact ⟨rfl, rfl, rfl⟩

theorem Engine.loopBack_frame (e : Engine) (l : Nat) :
    (e.loopBack l).1.mem = e.mem ∧ (e.loopBack l).1.x = e.x ∧ (e.loopBack l).1.acc = e.acc := by
  unfold Engine.loopBack
  dsimp only
  split
  · exact Engine.setLevel_frame _ _ _
  · exact ⟨rfl, rfl, rfl⟩

/-- The step to the next bundle leaves the memory, the general registers and the accumulators. -/
theorem Engine.advance_frame (e : Engine) : e.advance.mem = e.mem ∧ e.advance.x = e.x ∧ e.advance.acc = e.acc := by
  have h1 : ∀ r : Engine × Bool, r = (if (e.loopOn 1 && e.pc == e.loop1.end_) = true then e.loopBack 1 else (e, false)) →
      r.1.mem = e.mem ∧ r.1.x = e.x ∧ r.1.acc = e.acc := by
    intro r hr
    subst hr
    split
    · exact Engine.loopBack_frame _ _
    · exact ⟨rfl, rfl, rfl⟩
  unfold Engine.advance
  extract_lets inner r1 e1 r0
  have h2 := h1 r1 rfl
  have h3 : ∀ r : Engine × Bool, r = e1.loopBack 0 → r.1.mem = e.mem ∧ r.1.x = e.x ∧ r.1.acc = e.acc := by
    intro r hr
    subst hr
    have := Engine.loopBack_frame e1 0
    exact ⟨this.1.trans h2.1, this.2.1.trans h2.2.1, this.2.2.trans h2.2.2⟩
  split
  · exact h2
  · split
    · split
      · exact h3 r0 rfl
      · exact h3 r0 rfl
    · exact h2

theorem Engine.getX_setX {e : Engine} (h : e.wf = true) (d : Fin 32) (v : BitVec 64) :
    (e.setX d.val v).getX d.val = if d.val = 0 then 0 else v := by
  have hd := d.isLt
  unfold Engine.getX Engine.setX
  by_cases h0 : d.val = 0
  · simp [h0]
  · rw [if_neg h0, if_neg (by omega), if_neg h0]
    exact mget_mset_same _ _ ((Engine.wf_iff e).1 h).2.1

theorem Engine.getX_setX_ne (e : Engine) {d j : Nat} (v : BitVec 64) (h : j ≠ d) : (e.setX d v).getX j = e.getX j := by
  unfold Engine.getX Engine.setX
  split
  · rfl
  · split
    · rfl
    · exact mget_mset_ne _ _ _ h

theorem Engine.setX_frame (e : Engine) (d : Nat) (v : BitVec 64) : (e.setX d v).mem = e.mem ∧ (e.setX d v).acc = e.acc := by
  unfold Engine.setX
  split <;> exact ⟨rfl, rfl⟩

theorem Engine.endBundle_seq {e : Engine} (h : e.flow = .seq) (hd : (e.applyAll e.staged).delay = none) :
    e.endBundle = ({ e.applyAll e.staged with
      staged := [], flow := .seq, cyc := (e.applyAll e.staged).cyc + 1 } : Engine).advance := by
  unfold Engine.endBundle
  dsimp only
  rw [h, hd]

/-- A bundle of one operation: the engine takes the staged writes and steps to the next bundle. -/
theorem State.stageOp_single {s : State} {le : Nat} (h : (s.getEngine le).between = true) (l : List Staged) :
    ∃ f : Engine, s.stageOp le true l .seq = s.setEngine le f ∧
      f.mem = (({ s.getEngine le with staged := l } : Engine).applyAll l).mem ∧
      f.x = (({ s.getEngine le with staged := l } : Engine).applyAll l).x ∧
      f.acc = (({ s.getEngine le with staged := l } : Engine).applyAll l).acc := by
  unfold Engine.between at h
  simp only [Bool.and_eq_true, beq_iff_eq, List.isEmpty_iff, Option.isNone_iff_eq_none] at h
  obtain ⟨⟨⟨h1, h2⟩, h3⟩, h4⟩ := h
  have e1 : ({ s.getEngine le with staged := (s.getEngine le).staged ++ l, flow := if Flow.seq = .seq then (s.getEngine le).flow else .seq } : Engine) =
      { s.getEngine le with staged := l } := by
    rw [h2, if_pos rfl]; rfl
  refine ⟨({ s.getEngine le with staged := l } : Engine).endBundle, ?_, ?_⟩
  · unfold State.stageOp
    simp only [h2, h3, if_true, List.nil_append]
    rw [if_neg (by simp)]
  · have hd : ∀ (l : List Staged) (e : Engine), (l.foldl Engine.applyStaged e).delay = e.delay := by
      intro l
      induction l with
      | nil => intro e; rfl
      | cons x t ih =>
        intro e
        refine (ih _).trans ?_
        cases x with
        | x d v => show (e.setX d v).delay = _; unfold Engine.setX; split <;> rfl
        | mem a bs => show (e.store a bs).delay = _; unfold Engine.store; split <;> rfl
        | ctrl r v => show (e.setCtrl r v).delay = _; unfold Engine.setCtrl; cases r <;> dsimp only <;> (try split) <;> rfl
        | _ => rfl
    have hz : (({ s.getEngine le with staged := l } : Engine).applyAll l).delay = none := (hd _ _).trans h4
    generalize hg : ({ s.getEngine le with staged := l } : Engine) = g at hz ⊢
    have hl : g.staged = l := by rw [← hg]
    have hs : g.flow = .seq := by rw [← hg]; exact h3
    rw [Engine.endBundle_seq hs (by rw [hl]; exact hz), hl]
    exact Engine.advance_frame _

end Sys2Proof.Machine
end

