-- ==== Sys2Proof/Laws/KeptAccess.lean ====
section
/-! SUPPORT. Every operation of Machine/Access.lean keeps the queue and the soundness of the state. -/

set_option linter.all false
namespace Sys2Proof.Machine

variable {sn : Bool} {qs : List Instr}

theorem State.setTdc_kept {s : State} (i : Nat) (v : TdcChannel) (hs : Kept sn qs s) :
    Kept sn qs (State.setTdc s i v) := by
  unfold State.setTdc
  try dsimp -iota only
  repeat' first
    | with_reducible assumption
    | with_reducible apply Kept.ite
    | with_reducible apply Kept.iteFst
    | (with_reducible apply Kept.mk; first | with_reducible assumption | with_reducible apply Kept.ite)
    | intro _
    | split

theorem State.modTdc_kept {s : State} (i : Nat) (g : TdcChannel → TdcChannel) (hs : Kept sn qs s) :
    Kept sn qs (State.modTdc s i g) := by
  unfold State.modTdc
  try dsimp -iota only
  repeat' first
    | with_reducible assumption
    | with_reducible apply State.setTdc_kept
    | with_reducible apply Kept.ite
    | with_reducible apply Kept.iteFst
    | (with_reducible apply Kept.mk; first | with_reducible assumption | with_reducible apply State.setTdc_kept | with_reducible apply Kept.ite)
    | intro _
    | split

theorem State.setPwm_kept {s : State} (i : Nat) (v : PwmAxis) (hs : Kept sn qs s) :
    Kept sn qs (State.setPwm s i v) := by
  unfold State.setPwm
  try dsimp -iota only
  repeat' first
    | with_reducible assumption
    | with_reducible apply Kept.ite
    | with_reducible apply Kept.iteFst
    | (with_reducible apply Kept.mk; first | with_reducible assumption | with_reducible apply Kept.ite)
    | intro _
    | split

theorem State.modPwm_kept {s : State} (i : Nat) (g : PwmAxis → PwmAxis) (hs : Kept sn qs s) :
    Kept sn qs (State.modPwm s i g) := by
  unfold State.modPwm
  try dsimp -iota only
  repeat' first
    | with_reducible assumption
    | with_reducible apply State.setPwm_kept
    | with_reducible apply Kept.ite
    | with_reducible apply Kept.iteFst
    | (with_reducible apply Kept.mk; first | with_reducible assumption | with_reducible apply State.setPwm_kept | with_reducible apply Kept.ite)
    | intro _
    | split

theorem State.setQuad_kept {s : State} (i : Nat) (v : QuadDecoder) (hs : Kept sn qs s) :
    Kept sn qs (State.setQuad s i v) := by
  unfold State.setQuad
  try dsimp -iota only
  repeat' first
    | with_reducible assumption
    | with_reducible apply Kept.ite
    | with_reducible apply Kept.iteFst
    | (with_reducible apply Kept.mk; first | with_reducible assumption | with_reducible apply Kept.ite)
    | intro _
    | split

theorem State.modQuad_kept {s : State} (i : Nat) (g : QuadDecoder → QuadDecoder) (hs : Kept sn qs s) :
    Kept sn qs (State.modQuad s i g) := by
  unfold State.modQuad
  try dsimp -iota only
  repeat' first
    | with_reducible assumption
    | with_reducible apply State.setQuad_kept
    | with_reducible apply Kept.ite
    | with_reducible apply Kept.iteFst
    | (with_reducible apply Kept.mk; first | with_reducible assumption | with_reducible apply State.setQuad_kept | with_reducible apply Kept.ite)
    | intro _
    | split

theorem State.setSerial_kept {s : State} (i : Nat) (v : SerialPort) (hs : Kept sn qs s) :
    Kept sn qs (State.setSerial s i v) := by
  unfold State.setSerial
  try dsimp -iota only
  repeat' first
    | with_reducible assumption
    | with_reducible apply Kept.ite
    | with_reducible apply Kept.iteFst
    | (with_reducible apply Kept.mk; first | with_reducible assumption | with_reducible apply Kept.ite)
    | intro _
    | split

theorem State.modSerial_kept {s : State} (i : Nat) (g : SerialPort → SerialPort) (hs : Kept sn qs s) :
    Kept sn qs (State.modSerial s i g) := by
  unfold State.modSerial
  try dsimp -iota only
  repeat' first
    | with_reducible assumption
    | with_reducible apply State.setSerial_kept
    | with_reducible apply Kept.ite
    | with_reducible apply Kept.iteFst
    | (with_reducible apply Kept.mk; first | with_reducible assumption | with_reducible apply State.setSerial_kept | with_reducible apply Kept.ite)
    | intro _
    | split

theorem State.setFb_kept {s : State} (i : Nat) (v : Feedback) (hs : Kept sn qs s) :
    Kept sn qs (State.setFb s i v) := by
  unfold State.setFb
  try dsimp -iota only
  repeat' first
    | with_reducible assumption
    | with_reducible apply Kept.ite
    | with_reducible apply Kept.iteFst
    | (with_reducible apply Kept.mk; first | with_reducible assumption | with_reducible apply Kept.ite)
    | intro _
    | split

theorem State.modFb_kept {s : State} (i : Nat) (g : Feedback → Feedback) (hs : Kept sn qs s) :
    Kept sn qs (State.modFb s i g) := by
  unfold State.modFb
  try dsimp -iota only
  repeat' first
    | with_reducible assumption
    | with_reducible apply State.setFb_kept
    | with_reducible apply Kept.ite
    | with_reducible apply Kept.iteFst
    | (with_reducible apply Kept.mk; first | with_reducible assumption | with_reducible apply State.setFb_kept | with_reducible apply Kept.ite)
    | intro _
    | split

theorem State.setLoop_kept {s : State} (i : Nat) (v : ServoLoop) (hs : Kept sn qs s) :
    Kept sn qs (State.setLoop s i v) := by
  unfold State.setLoop
  try dsimp -iota only
  repeat' first
    | with_reducible assumption
    | with_reducible apply Kept.ite
    | with_reducible apply Kept.iteFst
    | (with_reducible apply Kept.mk; first | with_reducible assumption | with_reducible apply Kept.ite)
    | intro _
    | split

theorem State.modLoop_kept {s : State} (i : Nat) (g : ServoLoop → ServoLoop) (hs : Kept sn qs s) :
    Kept sn qs (State.modLoop s i g) := by
  unfold State.modLoop
  try dsimp -iota only
  repeat' first
    | with_reducible assumption
    | with_reducible apply State.setLoop_kept
    | with_reducible apply Kept.ite
    | with_reducible apply Kept.iteFst
    | (with_reducible apply Kept.mk; first | with_reducible assumption | with_reducible apply State.setLoop_kept | with_reducible apply Kept.ite)
    | intro _
    | split

theorem State.setFlags_kept {s : State} (i : Nat) (v : ServoFlags) (hs : Kept sn qs s) :
    Kept sn qs (State.setFlags s i v) := by
  unfold State.setFlags
  try dsimp -iota only
  repeat' first
    | with_reducible assumption
    | with_reducible apply Kept.ite
    | with_reducible apply Kept.iteFst
    | (with_reducible apply Kept.mk; first | with_reducible assumption | with_reducible apply Kept.ite)
    | intro _
    | split

theorem State.modFlags_kept {s : State} (i : Nat) (g : ServoFlags → ServoFlags) (hs : Kept sn qs s) :
    Kept sn qs (State.modFlags s i g) := by
  unfold State.modFlags
  try dsimp -iota only
  repeat' first
    | with_reducible assumption
    | with_reducible apply State.setFlags_kept
    | with_reducible apply Kept.ite
    | with_reducible apply Kept.iteFst
    | (with_reducible apply Kept.mk; first | with_reducible assumption | with_reducible apply State.setFlags_kept | with_reducible apply Kept.ite)
    | intro _
    | split

theorem State.setFoc_kept {s : State} (i : Nat) (v : Foc) (hs : Kept sn qs s) :
    Kept sn qs (State.setFoc s i v) := by
  unfold State.setFoc
  try dsimp -iota only
  repeat' first
    | with_reducible assumption
    | with_reducible apply Kept.ite
    | with_reducible apply Kept.iteFst
    | (with_reducible apply Kept.mk; first | with_reducible assumption | with_reducible apply Kept.ite)
    | intro _
    | split

theorem State.modFoc_kept {s : State} (i : Nat) (g : Foc → Foc) (hs : Kept sn qs s) :
    Kept sn qs (State.modFoc s i g) := by
  unfold State.modFoc
  try dsimp -iota only
  repeat' first
    | with_reducible assumption
    | with_reducible apply State.setFoc_kept
    | with_reducible apply Kept.ite
    | with_reducible apply Kept.iteFst
    | (with_reducible apply Kept.mk; first | with_reducible assumption | with_reducible apply State.setFoc_kept | with_reducible apply Kept.ite)
    | intro _
    | split

theorem State.setSection_kept {s : State} (i : Nat) (v : Section) (hs : Kept sn qs s) :
    Kept sn qs (State.setSection s i v) := by
  unfold State.setSection
  try dsimp -iota only
  repeat' first
    | with_reducible assumption
    | with_reducible apply Kept.ite
    | with_reducible apply Kept.iteFst
    | (with_reducible apply Kept.mk; first | with_reducible assumption | with_reducible apply Kept.ite)
    | intro _
    | split

theorem State.modSection_kept {s : State} (i : Nat) (g : Section → Section) (hs : Kept sn qs s) :
    Kept sn qs (State.modSection s i g) := by
  unfold State.modSection
  try dsimp -iota only
  repeat' first
    | with_reducible assumption
    | with_reducible apply State.setSection_kept
    | with_reducible apply Kept.ite
    | with_reducible apply Kept.iteFst
    | (with_reducible apply Kept.mk; first | with_reducible assumption | with_reducible apply State.setSection_kept | with_reducible apply Kept.ite)
    | intro _
    | split

theorem State.setRecord_kept {s : State} (i : Nat) (v : (List AxisRecord)) (hs : Kept sn qs s) :
    Kept sn qs (State.setRecord s i v) := by
  unfold State.setRecord
  try dsimp -iota only
  repeat' first
    | with_reducible assumption
    | with_reducible apply Kept.ite
    | with_reducible apply Kept.iteFst
    | (with_reducible apply Kept.mk; first | with_reducible assumption | with_reducible apply Kept.ite)
    | intro _
    | split

theorem State.modRecord_kept {s : State} (i : Nat) (g : (List AxisRecord) → (List AxisRecord)) (hs : Kept sn qs s) :
    Kept sn qs (State.modRecord s i g) := by
  unfold State.modRecord
  try dsimp -iota only
  repeat' first
    | with_reducible assumption
    | with_reducible apply State.setRecord_kept
    | with_reducible apply Kept.ite
    | with_reducible apply Kept.iteFst
    | (with_reducible apply Kept.mk; first | with_reducible assumption | with_reducible apply State.setRecord_kept | with_reducible apply Kept.ite)
    | intro _
    | split

theorem State.setDc_kept {s : State} (i : Nat) (v : Nat) (hs : Kept sn qs s) :
    Kept sn qs (State.setDc s i v) := by
  unfold State.setDc
  try dsimp -iota only
  repeat' first
    | with_reducible assumption
    | with_reducible apply Kept.ite
    | with_reducible apply Kept.iteFst
    | (with_reducible apply Kept.mk; first | with_reducible assumption | with_reducible apply Kept.ite)
    | intro _
    | split

theorem State.modDc_kept {s : State} (i : Nat) (g : Nat → Nat) (hs : Kept sn qs s) :
    Kept sn qs (State.modDc s i g) := by
  unfold State.modDc
  try dsimp -iota only
  repeat' first
    | with_reducible assumption
    | with_reducible apply State.setDc_kept
    | with_reducible apply Kept.ite
    | with_reducible apply Kept.iteFst
    | (with_reducible apply Kept.mk; first | with_reducible assumption | with_reducible apply State.setDc_kept | with_reducible apply Kept.ite)
    | intro _
    | split

theorem State.setAux_kept {s : State} (i : Nat) (v : AuxDrive) (hs : Kept sn qs s) :
    Kept sn qs (State.setAux s i v) := by
  unfold State.setAux
  try dsimp -iota only
  repeat' first
    | with_reducible assumption
    | with_reducible apply Kept.ite
    | with_reducible apply Kept.iteFst
    | (with_reducible apply Kept.mk; first | with_reducible assumption | with_reducible apply Kept.ite)
    | intro _
    | split

theorem State.modAux_kept {s : State} (i : Nat) (g : AuxDrive → AuxDrive) (hs : Kept sn qs s) :
    Kept sn qs (State.modAux s i g) := by
  unfold State.modAux
  try dsimp -iota only
  repeat' first
    | with_reducible assumption
    | with_reducible apply State.setAux_kept
    | with_reducible apply Kept.ite
    | with_reducible apply Kept.iteFst
    | (with_reducible apply Kept.mk; first | with_reducible assumption | with_reducible apply State.setAux_kept | with_reducible apply Kept.ite)
    | intro _
    | split

theorem State.setTrail_kept {s : State} (i : Nat) (v : Trail) (hs : Kept sn qs s) :
    Kept sn qs (State.setTrail s i v) := by
  unfold State.setTrail
  try dsimp -iota only
  repeat' first
    | with_reducible assumption
    | with_reducible apply Kept.ite
    | with_reducible apply Kept.iteFst
    | (with_reducible apply Kept.mk; first | with_reducible assumption | with_reducible apply Kept.ite)
    | intro _
    | split

theorem State.modTrail_kept {s : State} (i : Nat) (g : Trail → Trail) (hs : Kept sn qs s) :
    Kept sn qs (State.modTrail s i g) := by
  unfold State.modTrail
  try dsimp -iota only
  repeat' first
    | with_reducible assumption
    | with_reducible apply State.setTrail_kept
    | with_reducible apply Kept.ite
    | with_reducible apply Kept.iteFst
    | (with_reducible apply Kept.mk; first | with_reducible assumption | with_reducible apply State.setTrail_kept | with_reducible apply Kept.ite)
    | intro _
    | split

theorem State.setFollower_kept {s : State} (i : Nat) (v : Follower) (hs : Kept sn qs s) :
    Kept sn qs (State.setFollower s i v) := by
  unfold State.setFollower
  try dsimp -iota only
  repeat' first
    | with_reducible assumption
    | with_reducible apply Kept.ite
    | with_reducible apply Kept.iteFst
    | (with_reducible apply Kept.mk; first | with_reducible assumption | with_reducible apply Kept.ite)
    | intro _
    | split

theorem State.modFollower_kept {s : State} (i : Nat) (g : Follower → Follower) (hs : Kept sn qs s) :
    Kept sn qs (State.modFollower s i g) := by
  unfold State.modFollower
  try dsimp -iota only
  repeat' first
    | with_reducible assumption
    | with_reducible apply State.setFollower_kept
    | with_reducible apply Kept.ite
    | with_reducible apply Kept.iteFst
    | (with_reducible apply Kept.mk; first | with_reducible assumption | with_reducible apply State.setFollower_kept | with_reducible apply Kept.ite)
    | intro _
    | split

theorem State.setPublisher_kept {s : State} (i : Nat) (v : Publisher) (hs : Kept sn qs s) :
    Kept sn qs (State.setPublisher s i v) := by
  unfold State.setPublisher
  try dsimp -iota only
  repeat' first
    | with_reducible assumption
    | with_reducible apply Kept.ite
    | with_reducible apply Kept.iteFst
    | (with_reducible apply Kept.mk; first | with_reducible assumption | with_reducible apply Kept.ite)
    | intro _
    | split

theorem State.modPublisher_kept {s : State} (i : Nat) (g : Publisher → Publisher) (hs : Kept sn qs s) :
    Kept sn qs (State.modPublisher s i g) := by
  unfold State.modPublisher
  try dsimp -iota only
  repeat' first
    | with_reducible assumption
    | with_reducible apply State.setPublisher_kept
    | with_reducible apply Kept.ite
    | with_reducible apply Kept.iteFst
    | (with_reducible apply Kept.mk; first | with_reducible assumption | with_reducible apply State.setPublisher_kept | with_reducible apply Kept.ite)
    | intro _
    | split

theorem State.setVirt_kept {s : State} (i : Nat) (v : VirtualAxis) (hs : Kept sn qs s) :
    Kept sn qs (State.setVirt s i v) := by
  unfold State.setVirt
  try dsimp -iota only
  repeat' first
    | with_reducible assumption
    | with_reducible apply Kept.ite
    | with_reducible apply Kept.iteFst
    | (with_reducible apply Kept.mk; first | with_reducible assumption | with_reducible apply Kept.ite)
    | intro _
    | split

theorem State.modVirt_kept {s : State} (i : Nat) (g : VirtualAxis → VirtualAxis) (hs : Kept sn qs s) :
    Kept sn qs (State.modVirt s i g) := by
  unfold State.modVirt
  try dsimp -iota only
  repeat' first
    | with_reducible assumption
    | with_reducible apply State.setVirt_kept
    | with_reducible apply Kept.ite
    | with_reducible apply Kept.iteFst
    | (with_reducible apply Kept.mk; first | with_reducible assumption | with_reducible apply State.setVirt_kept | with_reducible apply Kept.ite)
    | intro _
    | split

theorem State.setRemote_kept {s : State} (i : Nat) (v : RemoteAxis) (hs : Kept sn qs s) :
    Kept sn qs (State.setRemote s i v) := by
  unfold State.setRemote
  try dsimp -iota only
  repeat' first
    | with_reducible assumption
    | with_reducible apply Kept.ite
    | with_reducible apply Kept.iteFst
    | (with_reducible apply Kept.mk; first | with_reducible assumption | with_reducible apply Kept.ite)
    | intro _
    | split

theorem State.modRemote_kept {s : State} (i : Nat) (g : RemoteAxis → RemoteAxis) (hs : Kept sn qs s) :
    Kept sn qs (State.modRemote s i g) := by
  unfold State.modRemote
  try dsimp -iota only
  repeat' first
    | with_reducible assumption
    | with_reducible apply State.setRemote_kept
    | with_reducible apply Kept.ite
    | with_reducible apply Kept.iteFst
    | (with_reducible apply Kept.mk; first | with_reducible assumption | with_reducible apply State.setRemote_kept | with_reducible apply Kept.ite)
    | intro _
    | split

theorem State.setCam_kept {s : State} (i : Nat) (v : CamTable) (hs : Kept sn qs s) :
    Kept sn qs (State.setCam s i v) := by
  unfold State.setCam
  try dsimp -iota only
  repeat' first
    | with_reducible assumption
    | with_reducible apply Kept.ite
    | with_reducible apply Kept.iteFst
    | (with_reducible apply Kept.mk; first | with_reducible assumption | with_reducible apply Kept.ite)
    | intro _
    | split

theorem State.modCam_kept {s : State} (i : Nat) (g : CamTable → CamTable) (hs : Kept sn qs s) :
    Kept sn qs (State.modCam s i g) := by
  unfold State.modCam
  try dsimp -iota only
  repeat' first
    | with_reducible assumption
    | with_reducible apply State.setCam_kept
    | with_reducible apply Kept.ite
    | with_reducible apply Kept.iteFst
    | (with_reducible apply Kept.mk; first | with_reducible assumption | with_reducible apply State.setCam_kept | with_reducible apply Kept.ite)
    | intro _
    | split

theorem State.setStepper_kept {s : State} (i : Nat) (v : Stepper) (hs : Kept sn qs s) :
    Kept sn qs (State.setStepper s i v) := by
  unfold State.setStepper
  try dsimp -iota only
  repeat' first
    | with_reducible assumption
    | with_reducible apply Kept.ite
    | with_reducible apply Kept.iteFst
    | (with_reducible apply Kept.mk; first | with_reducible assumption | with_reducible apply Kept.ite)
    | intro _
    | split

theorem State.modStepper_kept {s : State} (i : Nat) (g : Stepper → Stepper) (hs : Kept sn qs s) :
    Kept sn qs (State.modStepper s i g) := by
  unfold State.modStepper
  try dsimp -iota only
  repeat' first
    | with_reducible assumption
    | with_reducible apply State.setStepper_kept
    | with_reducible apply Kept.ite
    | with_reducible apply Kept.iteFst
    | (with_reducible apply Kept.mk; first | with_reducible assumption | with_reducible apply State.setStepper_kept | with_reducible apply Kept.ite)
    | intro _
    | split

theorem State.setCap_kept {s : State} (i : Nat) (v : CapChannel) (hs : Kept sn qs s) :
    Kept sn qs (State.setCap s i v) := by
  unfold State.setCap
  try dsimp -iota only
  repeat' first
    | with_reducible assumption
    | with_reducible apply Kept.ite
    | with_reducible apply Kept.iteFst
    | (with_reducible apply Kept.mk; first | with_reducible assumption | with_reducible apply Kept.ite)
    | intro _
    | split

theorem State.modCap_kept {s : State} (i : Nat) (g : CapChannel → CapChannel) (hs : Kept sn qs s) :
    Kept sn qs (State.modCap s i g) := by
  unfold State.modCap
  try dsimp -iota only
  repeat' first
    | with_reducible assumption
    | with_reducible apply State.setCap_kept
    | with_reducible apply Kept.ite
    | with_reducible apply Kept.iteFst
    | (with_reducible apply Kept.mk; first | with_reducible assumption | with_reducible apply State.setCap_kept | with_reducible apply Kept.ite)
    | intro _
    | split

theorem State.setMbx_kept {s : State} (i : Nat) (v : Mailbox) (hs : Kept sn qs s) :
    Kept sn qs (State.setMbx s i v) := by
  unfold State.setMbx
  try dsimp -iota only
  repeat' first
    | with_reducible assumption
    | with_reducible apply Kept.ite
    | with_reducible apply Kept.iteFst
    | (with_reducible apply Kept.mk; first | with_reducible assumption | with_reducible apply Kept.ite)
    | intro _
    | split

theorem State.modMbx_kept {s : State} (i : Nat) (g : Mailbox → Mailbox) (hs : Kept sn qs s) :
    Kept sn qs (State.modMbx s i g) := by
  unfold State.modMbx
  try dsimp -iota only
  repeat' first
    | with_reducible assumption
    | with_reducible apply State.setMbx_kept
    | with_reducible apply Kept.ite
    | with_reducible apply Kept.iteFst
    | (with_reducible apply Kept.mk; first | with_reducible assumption | with_reducible apply State.setMbx_kept | with_reducible apply Kept.ite)
    | intro _
    | split

theorem State.setSession_kept {s : State} (i : Nat) (v : (Option Session)) (hs : Kept sn qs s) :
    Kept sn qs (State.setSession s i v) := by
  unfold State.setSession
  try dsimp -iota only
  repeat' first
    | with_reducible assumption
    | with_reducible apply Kept.ite
    | with_reducible apply Kept.iteFst
    | (with_reducible apply Kept.mk; first | with_reducible assumption | with_reducible apply Kept.ite)
    | intro _
    | split

theorem State.modSession_kept {s : State} (i : Nat) (g : (Option Session) → (Option Session)) (hs : Kept sn qs s) :
    Kept sn qs (State.modSession s i g) := by
  unfold State.modSession
  try dsimp -iota only
  repeat' first
    | with_reducible assumption
    | with_reducible apply State.setSession_kept
    | with_reducible apply Kept.ite
    | with_reducible apply Kept.iteFst
    | (with_reducible apply Kept.mk; first | with_reducible assumption | with_reducible apply State.setSession_kept | with_reducible apply Kept.ite)
    | intro _
    | split

theorem State.setFabPort_kept {s : State} (i : Nat) (v : FabPort) (hs : Kept sn qs s) :
    Kept sn qs (State.setFabPort s i v) := by
  unfold State.setFabPort
  try dsimp -iota only
  repeat' first
    | with_reducible assumption
    | with_reducible apply Kept.ite
    | with_reducible apply Kept.iteFst
    | (with_reducible apply Kept.mk; first | with_reducible assumption | with_reducible apply Kept.ite)
    | intro _
    | split

theorem State.modFabPort_kept {s : State} (i : Nat) (g : FabPort → FabPort) (hs : Kept sn qs s) :
    Kept sn qs (State.modFabPort s i g) := by
  unfold State.modFabPort
  try dsimp -iota only
  repeat' first
    | with_reducible assumption
    | with_reducible apply State.setFabPort_kept
    | with_reducible apply Kept.ite
    | with_reducible apply Kept.iteFst
    | (with_reducible apply Kept.mk; first | with_reducible assumption | with_reducible apply State.setFabPort_kept | with_reducible apply Kept.ite)
    | intro _
    | split

theorem State.setEth_kept {s : State} (i : Nat) (v : EthPort) (hs : Kept sn qs s) :
    Kept sn qs (State.setEth s i v) := by
  unfold State.setEth
  try dsimp -iota only
  repeat' first
    | with_reducible assumption
    | with_reducible apply Kept.ite
    | with_reducible apply Kept.iteFst
    | (with_reducible apply Kept.mk; first | with_reducible assumption | with_reducible apply Kept.ite)
    | intro _
    | split

theorem State.modEth_kept {s : State} (i : Nat) (g : EthPort → EthPort) (hs : Kept sn qs s) :
    Kept sn qs (State.modEth s i g) := by
  unfold State.modEth
  try dsimp -iota only
  repeat' first
    | with_reducible assumption
    | with_reducible apply State.setEth_kept
    | with_reducible apply Kept.ite
    | with_reducible apply Kept.iteFst
    | (with_reducible apply Kept.mk; first | with_reducible assumption | with_reducible apply State.setEth_kept | with_reducible apply Kept.ite)
    | intro _
    | split

theorem State.setCan_kept {s : State} (i : Nat) (v : CanCh) (hs : Kept sn qs s) :
    Kept sn qs (State.setCan s i v) := by
  unfold State.setCan
  try dsimp -iota only
  repeat' first
    | with_reducible assumption
    | with_reducible apply Kept.ite
    | with_reducible apply Kept.iteFst
    | (with_reducible apply Kept.mk; first | with_reducible assumption | with_reducible apply Kept.ite)
    | intro _
    | split

theorem State.modCan_kept {s : State} (i : Nat) (g : CanCh → CanCh) (hs : Kept sn qs s) :
    Kept sn qs (State.modCan s i g) := by
  unfold State.modCan
  try dsimp -iota only
  repeat' first
    | with_reducible assumption
    | with_reducible apply State.setCan_kept
    | with_reducible apply Kept.ite
    | with_reducible apply Kept.iteFst
    | (with_reducible apply Kept.mk; first | with_reducible assumption | with_reducible apply State.setCan_kept | with_reducible apply Kept.ite)
    | intro _
    | split

theorem State.modHost_kept {s : State} (g : Host_ → Host_) (hs : Kept sn qs s) :
    Kept sn qs (State.modHost s g) := by
  unfold State.modHost
  try dsimp -iota only
  repeat' first
    | with_reducible assumption
    | with_reducible apply Kept.ite
    | with_reducible apply Kept.iteFst
    | (with_reducible apply Kept.mk; first | with_reducible assumption | with_reducible apply Kept.ite)
    | intro _
    | split

theorem State.modEvents_kept {s : State} (g : Events → Events) (hs : Kept sn qs s) :
    Kept sn qs (State.modEvents s g) := by
  unfold State.modEvents
  try dsimp -iota only
  repeat' first
    | with_reducible assumption
    | with_reducible apply Kept.ite
    | with_reducible apply Kept.iteFst
    | (with_reducible apply Kept.mk; first | with_reducible assumption | with_reducible apply Kept.ite)
    | intro _
    | split

theorem State.modFabric_kept {s : State} (g : Fabric → Fabric) (hs : Kept sn qs s) :
    Kept sn qs (State.modFabric s g) := by
  unfold State.modFabric
  try dsimp -iota only
  repeat' first
    | with_reducible assumption
    | with_reducible apply Kept.ite
    | with_reducible apply Kept.iteFst
    | (with_reducible apply Kept.mk; first | with_reducible assumption | with_reducible apply Kept.ite)
    | intro _
    | split

theorem State.modFio_kept {s : State} (g : Fio → Fio) (hs : Kept sn qs s) :
    Kept sn qs (State.modFio s g) := by
  unfold State.modFio
  try dsimp -iota only
  repeat' first
    | with_reducible assumption
    | with_reducible apply Kept.ite
    | with_reducible apply Kept.iteFst
    | (with_reducible apply Kept.mk; first | with_reducible assumption | with_reducible apply Kept.ite)
    | intro _
    | split

theorem State.modSafety_kept {s : State} (g : Safety → Safety) (hs : Kept sn qs s) :
    Kept sn qs (State.modSafety s g) := by
  unfold State.modSafety
  try dsimp -iota only
  repeat' first
    | with_reducible assumption
    | with_reducible apply Kept.ite
    | with_reducible apply Kept.iteFst
    | (with_reducible apply Kept.mk; first | with_reducible assumption | with_reducible apply Kept.ite)
    | intro _
    | split

theorem State.modPower_kept {s : State} (g : Power → Power) (hs : Kept sn qs s) :
    Kept sn qs (State.modPower s g) := by
  unfold State.modPower
  try dsimp -iota only
  repeat' first
    | with_reducible assumption
    | with_reducible apply Kept.ite
    | with_reducible apply Kept.iteFst
    | (with_reducible apply Kept.mk; first | with_reducible assumption | with_reducible apply Kept.ite)
    | intro _
    | split

theorem State.modSched_kept {s : State} (g : Sched → Sched) (hs : Kept sn qs s) :
    Kept sn qs (State.modSched s g) := by
  unfold State.modSched
  try dsimp -iota only
  repeat' first
    | with_reducible assumption
    | with_reducible apply Kept.ite
    | with_reducible apply Kept.iteFst
    | (with_reducible apply Kept.mk; first | with_reducible assumption | with_reducible apply Kept.ite)
    | intro _
    | split

theorem State.modTime_kept {s : State} (g : TimeUnit → TimeUnit) (hs : Kept sn qs s) :
    Kept sn qs (State.modTime s g) := by
  unfold State.modTime
  try dsimp -iota only
  repeat' first
    | with_reducible assumption
    | with_reducible apply Kept.ite
    | with_reducible apply Kept.iteFst
    | (with_reducible apply Kept.mk; first | with_reducible assumption | with_reducible apply Kept.ite)
    | intro _
    | split

theorem State.modCapMem_kept {s : State} (g : CapMem → CapMem) (hs : Kept sn qs s) :
    Kept sn qs (State.modCapMem s g) := by
  unfold State.modCapMem
  try dsimp -iota only
  repeat' first
    | with_reducible assumption
    | with_reducible apply Kept.ite
    | with_reducible apply Kept.iteFst
    | (with_reducible apply Kept.mk; first | with_reducible assumption | with_reducible apply Kept.ite)
    | intro _
    | split

theorem State.modLocks_kept {s : State} (g : Locks → Locks) (hs : Kept sn qs s) :
    Kept sn qs (State.modLocks s g) := by
  unfold State.modLocks
  try dsimp -iota only
  repeat' first
    | with_reducible assumption
    | with_reducible apply Kept.ite
    | with_reducible apply Kept.iteFst
    | (with_reducible apply Kept.mk; first | with_reducible assumption | with_reducible apply Kept.ite)
    | intro _
    | split

end Sys2Proof.Machine
end

