-- ==== Sys2Proof/Laws/KeptOps.lean ====
section
/-! SUPPORT. Every operation of Machine/Ops.lean keeps the queue and the soundness of the state. -/

set_option linter.all false
namespace Sys2Proof.Machine

variable {sn : Bool} {qs : List Instr}

theorem State.took_kept {s : State} (hs : Kept sn qs s) :
    Kept sn qs (State.took s) := by
  unfold State.took
  try dsimp -iota only
  repeat' first
    | with_reducible assumption
    | with_reducible apply Kept.ite
    | with_reducible apply Kept.iteFst
    | (with_reducible apply Kept.mk; first | with_reducible assumption | with_reducible apply Kept.ite)
    | intro _
    | split

theorem State.setPar_kept {s : State} (ep code idx v : Nat) (hs : Kept sn qs s) :
    Kept sn qs (State.setPar s ep code idx v) := by
  unfold State.setPar
  try dsimp -iota only
  repeat' first
    | with_reducible assumption
    | with_reducible apply Kept.ite
    | with_reducible apply Kept.iteFst
    | (with_reducible apply Kept.mk; first | with_reducible assumption | with_reducible apply Kept.ite)
    | intro _
    | split

theorem State.bump_kept {s : State} (ep code : Nat) (idx : Nat) (hs : Kept sn qs s) :
    Kept sn qs (State.bump s ep code idx) := by
  unfold State.bump
  try dsimp -iota only
  repeat' first
    | with_reducible assumption
    | with_reducible apply State.bumpBy_kept
    | with_reducible apply Kept.ite
    | with_reducible apply Kept.iteFst
    | (with_reducible apply Kept.mk; first | with_reducible assumption | with_reducible apply State.bumpBy_kept | with_reducible apply Kept.ite)
    | intro _
    | split

theorem State.bumpIf_kept {s : State} (b : Bool) (ep code : Nat) (idx : Nat) (hs : Kept sn qs s) :
    Kept sn qs (State.bumpIf s b ep code idx) := by
  unfold State.bumpIf
  try dsimp -iota only
  repeat' first
    | with_reducible assumption
    | with_reducible apply State.bump_kept
    | with_reducible apply Kept.ite
    | with_reducible apply Kept.iteFst
    | (with_reducible apply Kept.mk; first | with_reducible assumption | with_reducible apply State.bump_kept | with_reducible apply Kept.ite)
    | intro _
    | split

theorem State.logFull_kept {s : State} (t : Ft8) (ep : Nat) (code : BitVec 16) (count data : Nat) (hs : Kept sn qs s) :
    Kept sn qs (State.logFull s t ep code count data) := by
  unfold State.logFull
  try dsimp -iota only
  repeat' first
    | with_reducible assumption
    | with_reducible apply Kept.ite
    | with_reducible apply Kept.iteFst
    | (with_reducible apply Kept.mk; first | with_reducible assumption | with_reducible apply Kept.ite)
    | intro _
    | split

theorem State.logAt_kept {s : State} (t : Ft8) (ep : Nat) (code : BitVec 16) (data : Nat) (hs : Kept sn qs s) :
    Kept sn qs (State.logAt s t ep code data) := by
  unfold State.logAt
  try dsimp -iota only
  repeat' first
    | with_reducible assumption
    | with_reducible apply State.logFull_kept
    | with_reducible apply Kept.ite
    | with_reducible apply Kept.iteFst
    | (with_reducible apply Kept.mk; first | with_reducible assumption | with_reducible apply State.logFull_kept | with_reducible apply Kept.ite)
    | intro _
    | split

theorem State.log_kept {s : State} (ep : Nat) (code : BitVec 16) (data : Nat) (hs : Kept sn qs s) :
    Kept sn qs (State.log s ep code data) := by
  unfold State.log
  try dsimp -iota only
  repeat' first
    | with_reducible assumption
    | with_reducible apply State.logFull_kept
    | with_reducible apply Kept.ite
    | with_reducible apply Kept.iteFst
    | (with_reducible apply Kept.mk; first | with_reducible assumption | with_reducible apply State.logFull_kept | with_reducible apply Kept.ite)
    | intro _
    | split

theorem State.supFault_kept {s : State} (b : Nat) (hs : Kept sn qs s) :
    Kept sn qs (State.supFault s b) := by
  unfold State.supFault
  try dsimp -iota only
  repeat' first
    | with_reducible assumption
    | with_reducible apply Kept.ite
    | with_reducible apply Kept.iteFst
    | (with_reducible apply Kept.mk; first | with_reducible assumption | with_reducible apply Kept.ite)
    | intro _
    | split

theorem State.setCmd_kept {s : State} (k : Nat) (c : CmdRec) (hs : Kept sn qs s) :
    Kept sn qs (State.setCmd s k c) := by
  unfold State.setCmd
  try dsimp -iota only
  repeat' first
    | with_reducible assumption
    | with_reducible apply Kept.ite
    | with_reducible apply Kept.iteFst
    | (with_reducible apply Kept.mk; first | with_reducible assumption | with_reducible apply Kept.ite)
    | intro _
    | split

theorem State.finish_kept {s : State} (k : Nat) (st : BitVec 16) (data : List Byte) (hs : Kept sn qs s) :
    Kept sn qs (State.finish s k st data) := by
  unfold State.finish
  try dsimp -iota only
  repeat' first
    | with_reducible assumption
    | with_reducible apply State.setCmd_kept
    | with_reducible apply Kept.ite
    | with_reducible apply Kept.iteFst
    | (with_reducible apply Kept.mk; first | with_reducible assumption | with_reducible apply State.setCmd_kept | with_reducible apply Kept.ite)
    | intro _
    | split

theorem State.ok_kept {s : State} (k : Nat) (data : List Byte) (hs : Kept sn qs s) :
    Kept sn qs (State.ok s k data) := by
  unfold State.ok
  try dsimp -iota only
  repeat' first
    | with_reducible assumption
    | with_reducible apply State.finish_kept
    | with_reducible apply Kept.ite
    | with_reducible apply Kept.iteFst
    | (with_reducible apply Kept.mk; first | with_reducible assumption | with_reducible apply State.finish_kept | with_reducible apply Kept.ite)
    | intro _
    | split

theorem State.run_kept {s : State} (k : Nat) (hs : Kept sn qs s) :
    Kept sn qs (State.run s k) := by
  unfold State.run
  try dsimp -iota only
  repeat' first
    | with_reducible assumption
    | with_reducible apply State.setCmd_kept
    | with_reducible apply Kept.ite
    | with_reducible apply Kept.iteFst
    | (with_reducible apply Kept.mk; first | with_reducible assumption | with_reducible apply State.setCmd_kept | with_reducible apply Kept.ite)
    | intro _
    | split

theorem State.finishOpt_kept {s : State} (k : Option Nat) (st : BitVec 16) (data : List Byte) (hs : Kept sn qs s) :
    Kept sn qs (State.finishOpt s k st data) := by
  unfold State.finishOpt
  try dsimp -iota only
  repeat' first
    | with_reducible assumption
    | with_reducible apply State.finish_kept
    | with_reducible apply Kept.ite
    | with_reducible apply Kept.iteFst
    | (with_reducible apply Kept.mk; first | with_reducible assumption | with_reducible apply State.finish_kept | with_reducible apply Kept.ite)
    | intro _
    | split

theorem State.execCmd_kept {s : State} (ref : CmdRef) (opcode : BitVec 16) (f : Nat → State → State) (hs : Kept sn qs s) (hf : ∀ x0 x1, Kept sn qs x1 → Kept sn qs (f x0 x1)) :
    Kept sn qs (State.execCmd s ref opcode f) := by
  unfold State.execCmd
  try dsimp -iota only
  repeat' first
    | with_reducible assumption
    | with_reducible apply hf
    | with_reducible apply State.finish_kept
    | with_reducible apply Kept.ite
    | with_reducible apply Kept.iteFst
    | (with_reducible apply Kept.mk; first | with_reducible assumption | with_reducible apply hf | with_reducible apply State.finish_kept | with_reducible apply Kept.ite)
    | intro _
    | split

theorem State.execUnits_kept {s : State} (ref : CmdRef) (opcode : BitVec 16) (f : Nat → State → State) (hs : Kept sn qs s) (hf : ∀ x0 x1, Kept sn qs x1 → Kept sn qs (f x0 x1)) :
    Kept sn qs (State.execUnits s ref opcode f) := by
  unfold State.execUnits
  try dsimp -iota only
  repeat' first
    | with_reducible assumption
    | with_reducible apply hf
    | with_reducible apply Kept.ite
    | with_reducible apply Kept.iteFst
    | (with_reducible apply Kept.mk; first | with_reducible assumption | with_reducible apply hf | with_reducible apply Kept.ite)
    | intro _
    | split

theorem State.unitsDone_kept {s : State} (k : Nat) (r : Reach) (ended : Bool) (done resume : Nat) (data : List Byte) (hs : Kept sn qs s) :
    Kept sn qs (State.unitsDone s k r ended done resume data) := by
  unfold State.unitsDone
  try dsimp -iota only
  repeat' first
    | with_reducible assumption
    | with_reducible apply State.setCmd_kept
    | with_reducible apply State.finish_kept
    | with_reducible apply State.ok_kept
    | with_reducible apply State.run_kept
    | with_reducible apply Kept.ite
    | with_reducible apply Kept.iteFst
    | (with_reducible apply Kept.mk; first | with_reducible assumption | with_reducible apply State.setCmd_kept | with_reducible apply State.finish_kept | with_reducible apply State.ok_kept | with_reducible apply State.run_kept | with_reducible apply Kept.ite)
    | intro _
    | split

theorem State.checked_kept {s : State} (k : Nat) (cs : List (Bool × BitVec 16)) (f : State → State) (hs : Kept sn qs s) (hf : ∀ x0, Kept sn qs x0 → Kept sn qs (f x0)) :
    Kept sn qs (State.checked s k cs f) := by
  unfold State.checked
  try dsimp -iota only
  repeat' first
    | with_reducible assumption
    | with_reducible apply hf
    | with_reducible apply State.finish_kept
    | with_reducible apply Kept.ite
    | with_reducible apply Kept.iteFst
    | (with_reducible apply Kept.mk; first | with_reducible assumption | with_reducible apply hf | with_reducible apply State.finish_kept | with_reducible apply Kept.ite)
    | intro _
    | split

end Sys2Proof.Machine
end

