-- ==== Sys2Proof/Laws/KeptCapOps.lean ====
section
/-! SUPPORT. Every operation of Machine/CapOps.lean keeps the queue and the soundness of the state. -/

set_option linter.all false
namespace Sys2Proof.Machine

variable {sn : Bool} {qs : List Instr}

theorem State.modBasket_kept {s : State} (k : Nat) (g : Basket → Basket) (hs : Kept sn qs s) :
    Kept sn qs (State.modBasket s k g) := by
  unfold State.modBasket
  try dsimp -iota only
  repeat' first
    | with_reducible assumption
    | with_reducible apply State.modCapMem_kept
    | with_reducible apply Kept.ite
    | with_reducible apply Kept.iteFst
    | (with_reducible apply Kept.mk; first | with_reducible assumption | with_reducible apply State.modCapMem_kept | with_reducible apply Kept.ite)
    | intro _
    | split

theorem State.freeBasket_kept {s : State} (k : Nat) (hs : Kept sn qs s) :
    Kept sn qs (State.freeBasket s k) := by
  unfold State.freeBasket
  try dsimp -iota only
  repeat' first
    | with_reducible assumption
    | with_reducible apply State.modCapMem_kept
    | with_reducible apply Kept.ite
    | with_reducible apply Kept.iteFst
    | (with_reducible apply Kept.mk; first | with_reducible assumption | with_reducible apply State.modCapMem_kept | with_reducible apply Kept.ite)
    | intro _
    | split

theorem State.reserveNow_kept {s : State} (c : Nat) (hs : Kept sn qs s) :
    ∀ t, (State.reserveNow s c) = some t → Kept sn qs t := by
  intro t ht
  unfold State.reserveNow at ht
  split at ht
  · split at ht
    · cases ht
      exact State.modCapMem_kept _ (State.modCap_kept _ _ hs)
    · cases ht
  · cases ht

theorem State.reserveCap_kept {s : State} (c n : Nat) (hs : Kept sn qs s) :
    (∀ t, (s.reserveCap c n).1 = some t → Kept sn qs t) ∧ Kept sn qs (s.reserveCap c n).2 := by
  induction n generalizing s with
  | zero => exact ⟨State.reserveNow_kept c hs, hs⟩
  | succ n ih =>
    unfold State.reserveCap
    split
    · refine ⟨fun t ht => ?_, hs⟩
      have e := Option.some.inj ht
      subst e
      exact State.reserveNow_kept c hs _ ‹_›
    · split
      · split
        · exact ih (State.modCap_kept _ _ (State.bump_kept _ _ _ (State.freeBasket_kept _ hs)))
        · exact ⟨fun t ht => (Option.some_ne_none t ht.symm).elim, hs⟩
      · exact ⟨fun t ht => (Option.some_ne_none t ht.symm).elim, hs⟩

theorem State.armCap_kept {s : State} (c : Nat) (from_ : Ft8) (fresh : Bool) (hs : Kept sn qs s) :
    Kept sn qs (State.armCap s c from_ fresh) := by
  unfold State.armCap
  extract_lets s1 r
  have h1 : Kept sn qs s1 := State.modCap_kept _ _ hs
  have h2 := State.reserveCap_kept c ((s1.basketsOf c).length + 1) h1
  split
  · exact State.modCap_kept _ _ h1
  · split
    · exact State.modCap_kept _ _ (h2.1 _ ‹_›)
    · refine State.modCap_kept _ _ (Kept.ite h2.2 (State.log_kept _ _ _ h2.2))

theorem State.capSpaceFree_kept {s : State} (hs : Kept sn qs s) :
    Kept sn qs (State.capSpaceFree s) := by
  unfold State.capSpaceFree
  refine Kept.foldl (fun s c h => ?_) hs
  split
  · exact State.modCap_kept _ _ (State.reserveNow_kept _ h _ ‹_›)
  · exact h

theorem State.unreserve_kept {s : State} (c : Nat) (hs : Kept sn qs s) :
    Kept sn qs (State.unreserve s c) := by
  unfold State.unreserve
  try dsimp -iota only
  repeat' first
    | with_reducible assumption
    | with_reducible apply State.modCap_kept
    | with_reducible apply State.modCapMem_kept
    | with_reducible apply Kept.ite
    | with_reducible apply Kept.iteFst
    | (with_reducible apply Kept.mk; first | with_reducible assumption | with_reducible apply State.modCap_kept | with_reducible apply State.modCapMem_kept | with_reducible apply Kept.ite)
    | intro _
    | split

theorem State.capTold_kept {s : State} (c : Nat) (taken : Bool) (hs : Kept sn qs s) :
    Kept sn qs (State.capTold s c taken) := by
  unfold State.capTold
  try dsimp -iota only
  repeat' first
    | with_reducible assumption
    | with_reducible apply State.ok_kept
    | with_reducible apply Kept.ite
    | with_reducible apply Kept.iteFst
    | (with_reducible apply Kept.mk; first | with_reducible assumption | with_reducible apply State.ok_kept | with_reducible apply Kept.ite)
    | intro _
    | split

theorem State.missFiring_kept {s : State} (c : Nat) (f : Firing) (hs : Kept sn qs s) :
    Kept sn qs (State.missFiring s c f) := by
  unfold State.missFiring
  try dsimp -iota only
  repeat' first
    | with_reducible assumption
    | with_reducible apply State.modCap_kept
    | with_reducible apply State.bump_kept
    | with_reducible apply State.logAt_kept
    | with_reducible apply State.capTold_kept
    | with_reducible apply Kept.ite
    | with_reducible apply Kept.iteFst
    | (with_reducible apply Kept.mk; first | with_reducible assumption | with_reducible apply State.modCap_kept | with_reducible apply State.bump_kept | with_reducible apply State.logAt_kept | with_reducible apply State.capTold_kept | with_reducible apply Kept.ite)
    | intro _
    | split

theorem State.fireCap_kept {s : State} (c : Nat) (f : Firing) (hs : Kept sn qs s) :
    Kept sn qs (State.fireCap s c f) := by
  unfold State.fireCap
  try dsimp -iota only
  repeat' first
    | with_reducible assumption
    | with_reducible apply State.setCap_kept
    | with_reducible apply State.bump_kept
    | with_reducible apply State.missFiring_kept
    | with_reducible apply Kept.ite
    | with_reducible apply Kept.iteFst
    | (with_reducible apply Kept.mk; first | with_reducible assumption | with_reducible apply State.setCap_kept | with_reducible apply State.bump_kept | with_reducible apply State.missFiring_kept | with_reducible apply Kept.ite)
    | intro _
    | split

theorem State.fireCrossings_kept {s : State} (ep : Nat) (t0 : Ft16) (x0 : Q32) (t1 : Ft16) (x1 : Q32) (hs : Kept sn qs s) :
    Kept sn qs (State.fireCrossings s ep t0 x0 t1 x1) := by
  unfold State.fireCrossings
  refine Kept.ite hs (Kept.foldl (fun s c h => Kept.foldl (fun s n h => ?_) h) hs)
  extract_lets v stamp
  refine Kept.ite ?_ h
  split
  · exact h
  · exact Kept.foldl (fun s y h => Kept.ite h (State.missFiring_kept _ _ h)) (State.fireCap_kept _ _ h)

theorem State.missUntil_kept {s : State} (c : Nat) (tEnd : Ft16) (hs : Kept sn qs s) :
    Kept sn qs (State.missUntil s c tEnd) := by
  unfold State.missUntil
  try dsimp -iota only
  repeat' first
    | with_reducible assumption
    | with_reducible apply State.setCap_kept
    | with_reducible apply State.missFiring_kept
    | with_reducible apply Kept.ite
    | with_reducible apply Kept.iteFst
    | with_reducible apply Kept.foldl
    | (with_reducible apply Kept.mk; first | with_reducible assumption | with_reducible apply State.setCap_kept | with_reducible apply State.missFiring_kept | with_reducible apply Kept.ite)
    | intro _
    | split

theorem State.capEndTrigger_kept {s : State} (c : Nat) (tEnd : Ft16) (hs : Kept sn qs s) :
    Kept sn qs (State.capEndTrigger s c tEnd) := by
  unfold State.capEndTrigger
  try dsimp -iota only
  repeat' first
    | with_reducible assumption
    | with_reducible apply State.setCap_kept
    | with_reducible apply State.modCap_kept
    | with_reducible apply State.capTold_kept
    | with_reducible apply State.missUntil_kept
    | with_reducible apply Kept.ite
    | with_reducible apply Kept.iteFst
    | with_reducible apply Kept.foldl
    | (with_reducible apply Kept.mk; first | with_reducible assumption | with_reducible apply State.setCap_kept | with_reducible apply State.modCap_kept | with_reducible apply State.capTold_kept | with_reducible apply State.missUntil_kept | with_reducible apply Kept.ite)
    | intro _
    | split

theorem State.disarmCap_kept {s : State} (c : Nat) (hs : Kept sn qs s) :
    Kept sn qs (State.disarmCap s c) := by
  unfold State.disarmCap
  try dsimp -iota only
  repeat' first
    | with_reducible assumption
    | with_reducible apply State.setCap_kept
    | with_reducible apply State.capSpaceFree_kept
    | with_reducible apply State.unreserve_kept
    | with_reducible apply State.capTold_kept
    | with_reducible apply Kept.ite
    | with_reducible apply Kept.iteFst
    | with_reducible apply Kept.foldl
    | (with_reducible apply Kept.mk; first | with_reducible assumption | with_reducible apply State.setCap_kept | with_reducible apply State.capSpaceFree_kept | with_reducible apply State.unreserve_kept | with_reducible apply State.capTold_kept | with_reducible apply Kept.ite)
    | intro _
    | split

theorem State.closeBasket_kept {s : State} (c cause : Nat) (tEnd : Ft16) (hs : Kept sn qs s) :
    Kept sn qs (State.closeBasket s c cause tEnd) := by
  unfold State.closeBasket
  try dsimp -iota only
  repeat' first
    | with_reducible assumption
    | with_reducible apply State.modCap_kept
    | with_reducible apply State.modCapMem_kept
    | with_reducible apply State.log_kept
    | with_reducible apply State.modBasket_kept
    | with_reducible apply State.capSpaceFree_kept
    | with_reducible apply State.capEndTrigger_kept
    | with_reducible apply State.disarmCap_kept
    | with_reducible apply Kept.ite
    | with_reducible apply Kept.iteFst
    | (with_reducible apply Kept.mk; first | with_reducible assumption | with_reducible apply State.modCap_kept | with_reducible apply State.modCapMem_kept | with_reducible apply State.log_kept | with_reducible apply State.modBasket_kept | with_reducible apply State.capSpaceFree_kept | with_reducible apply State.capEndTrigger_kept | with_reducible apply State.disarmCap_kept | with_reducible apply Kept.ite)
    | intro _
    | split

theorem State.clockStopped_kept {s : State} (i : Nat) (hs : Kept sn qs s) :
    Kept sn qs (State.clockStopped s i) := by
  unfold State.clockStopped
  exact Kept.foldl (fun s c h => Kept.ite (Kept.ite (State.closeBasket_kept _ _ _ h) (State.disarmCap_kept _ h)) h) hs

theorem State.capStep_kept {s : State} (before : Ft16) (d : Int) (hs : Kept sn qs s) :
    Kept sn qs (State.capStep s before d) := by
  unfold State.capStep
  exact Kept.foldl (fun s c h => Kept.foldl (fun s n h => Kept.ite (State.fireCap_kept _ _ (State.modCap_kept _ _ h)) h)
    (Kept.ite (State.closeBasket_kept _ _ _ h) h)) hs

theorem State.asRecorded_kept {s : State} (i e : Nat) (hs : Kept sn qs s) :
    Kept sn qs (State.asRecorded s i e) := by
  unfold State.asRecorded
  try dsimp -iota only
  repeat' first
    | with_reducible assumption
    | with_reducible apply State.setQuad_kept
    | with_reducible apply State.setSerial_kept
    | with_reducible apply State.setFb_kept
    | with_reducible apply State.setLoop_kept
    | with_reducible apply State.setFlags_kept
    | with_reducible apply State.setFoc_kept
    | with_reducible apply Kept.ite
    | with_reducible apply Kept.iteFst
    | (with_reducible apply Kept.mk; first | with_reducible assumption | with_reducible apply State.setQuad_kept | with_reducible apply State.setSerial_kept | with_reducible apply State.setFb_kept | with_reducible apply State.setLoop_kept | with_reducible apply State.setFlags_kept | with_reducible apply State.setFoc_kept | with_reducible apply Kept.ite)
    | intro _
    | split

end Sys2Proof.Machine
end

