-- ==== Sys2Proof/Laws/KeptTime.lean ====
section
/-! SUPPORT. Every operation of Machine/Time.lean keeps the queue and the soundness of the state. -/

set_option linter.all false
namespace Sys2Proof.Machine

variable {sn : Bool} {qs : List Instr}

theorem execTimeTick_kept {s : State} (hs : Kept sn qs s) :
    nextHas (Kept sn qs) (execTimeTick s) := by
  unfold execTimeTick
  try dsimp -iota only
  repeat' first
    | with_reducible assumption
    | with_reducible apply Kept.ite
    | with_reducible apply Kept.iteFst
    | exact trivial
    | with_reducible apply Kept.next
    | with_reducible apply Kept.iteOut
    | (with_reducible apply Kept.mk; first | with_reducible assumption | with_reducible apply Kept.ite)
    | intro _
    | split

theorem State.sampleXt_kept {s : State} (hs : Kept sn qs s) :
    Kept sn qs (State.sampleXt s) := by
  unfold State.sampleXt
  try dsimp -iota only
  repeat' first
    | with_reducible assumption
    | with_reducible apply Kept.ite
    | with_reducible apply Kept.iteFst
    | (with_reducible apply Kept.mk; first | with_reducible assumption | with_reducible apply Kept.ite)
    | intro _
    | split

theorem execXtSample_kept {s : State} (hs : Kept sn qs s) :
    nextHas (Kept sn qs) (execXtSample s) := by
  unfold execXtSample
  try dsimp -iota only
  repeat' first
    | with_reducible assumption
    | with_reducible apply State.sampleXt_kept
    | with_reducible apply Kept.ite
    | with_reducible apply Kept.iteFst
    | exact trivial
    | with_reducible apply Kept.next
    | with_reducible apply Kept.iteOut
    | (with_reducible apply Kept.mk; first | with_reducible assumption | with_reducible apply State.sampleXt_kept | with_reducible apply Kept.ite)
    | intro _
    | split

theorem State.realignServo_kept {s : State} (d : Int) (i : Nat) (hs : Kept sn qs s) :
    Kept sn qs (State.realignServo s d i) := by
  unfold State.realignServo
  try dsimp -iota only
  repeat' first
    | with_reducible assumption
    | with_reducible apply State.setPwm_kept
    | with_reducible apply Kept.ite
    | with_reducible apply Kept.iteFst
    | (with_reducible apply Kept.mk; first | with_reducible assumption | with_reducible apply State.setPwm_kept | with_reducible apply Kept.ite)
    | intro _
    | split

theorem State.realignAux_kept {s : State} (d : Int) (i : Nat) (hs : Kept sn qs s) :
    Kept sn qs (State.realignAux s d i) := by
  unfold State.realignAux
  try dsimp -iota only
  repeat' first
    | with_reducible assumption
    | with_reducible apply State.setAux_kept
    | with_reducible apply Kept.ite
    | with_reducible apply Kept.iteFst
    | (with_reducible apply Kept.mk; first | with_reducible assumption | with_reducible apply State.setAux_kept | with_reducible apply Kept.ite)
    | intro _
    | split

theorem State.shiftMotion_kept {s : State} (d : Int) (hs : Kept sn qs s) :
    Kept sn qs (State.shiftMotion s d) := by
  unfold State.shiftMotion
  try dsimp -iota only
  repeat' first
    | with_reducible assumption
    | with_reducible apply State.sampleXt_kept
    | with_reducible apply Kept.ite
    | with_reducible apply Kept.iteFst
    | (with_reducible apply Kept.mk; first | with_reducible assumption | with_reducible apply State.sampleXt_kept | with_reducible apply Kept.ite)
    | intro _
    | split

theorem State.passPending_kept {s : State} (was : Ft) (d : Int) (hs : Kept sn qs s) :
    Kept sn qs (State.passPending s was d) := by
  unfold State.passPending
  try dsimp -iota only
  repeat' first
    | with_reducible assumption
    | with_reducible apply Kept.ite
    | with_reducible apply Kept.iteFst
    | (with_reducible apply Kept.mk; first | with_reducible assumption | with_reducible apply Kept.ite)
    | intro _
    | split

theorem State.applyStep_kept {s : State} (d : Int) (hs : Kept sn qs s) :
    Kept sn qs (State.applyStep s d) := by
  unfold State.applyStep
  try dsimp -iota only
  repeat' first
    | with_reducible assumption
    | with_reducible apply State.bump_kept
    | with_reducible apply State.log_kept
    | with_reducible apply State.capStep_kept
    | with_reducible apply State.realignServo_kept
    | with_reducible apply State.realignAux_kept
    | with_reducible apply State.shiftMotion_kept
    | with_reducible apply State.passPending_kept
    | with_reducible apply Kept.ite
    | with_reducible apply Kept.iteFst
    | with_reducible apply Kept.foldlFst
    | with_reducible apply Kept.foldl
    | (with_reducible apply Kept.mk; first | with_reducible assumption | with_reducible apply State.bump_kept | with_reducible apply State.log_kept | with_reducible apply State.capStep_kept | with_reducible apply State.realignServo_kept | with_reducible apply State.realignAux_kept | with_reducible apply State.shiftMotion_kept | with_reducible apply State.passPending_kept | with_reducible apply Kept.ite)
    | intro _
    | split

theorem execTimeStepApply_kept {s : State} (hs : Kept sn qs s) :
    nextHas (Kept sn qs) (execTimeStepApply s) := by
  unfold execTimeStepApply
  try dsimp -iota only
  repeat' first
    | with_reducible assumption
    | with_reducible apply State.applyStep_kept
    | with_reducible apply Kept.ite
    | with_reducible apply Kept.iteFst
    | exact trivial
    | with_reducible apply Kept.next
    | with_reducible apply Kept.iteOut
    | (with_reducible apply Kept.mk; first | with_reducible assumption | with_reducible apply State.applyStep_kept | with_reducible apply Kept.ite)
    | intro _
    | split

theorem State.tolerance_kept {s : State} (hs : Kept sn qs s) :
    Kept sn qs (State.tolerance s) := by
  unfold State.tolerance
  try dsimp -iota only
  repeat' first
    | with_reducible assumption
    | with_reducible apply Kept.ite
    | with_reducible apply Kept.iteFst
    | (with_reducible apply Kept.mk; first | with_reducible assumption | with_reducible apply Kept.ite)
    | intro _
    | split

theorem State.enterLocked_kept {s : State} (step : Int) (hs : Kept sn qs s) :
    Kept sn qs (State.enterLocked s step) := by
  unfold State.enterLocked
  try dsimp -iota only
  repeat' first
    | with_reducible assumption
    | with_reducible apply State.log_kept
    | with_reducible apply Kept.ite
    | with_reducible apply Kept.iteFst
    | (with_reducible apply Kept.mk; first | with_reducible assumption | with_reducible apply State.log_kept | with_reducible apply Kept.ite)
    | intro _
    | split

theorem State.servoRate_kept {s : State} (demand : Int) (hs : Kept sn qs s) :
    Kept sn qs (State.servoRate s demand) := by
  unfold State.servoRate
  try dsimp -iota only
  repeat' first
    | with_reducible assumption
    | with_reducible apply State.bumpIf_kept
    | with_reducible apply Kept.ite
    | with_reducible apply Kept.iteFst
    | (with_reducible apply Kept.mk; first | with_reducible assumption | with_reducible apply State.bumpIf_kept | with_reducible apply Kept.ite)
    | intro _
    | split

theorem State.servoUpdate_kept {s : State} (ref o : Int) (hs : Kept sn qs s) :
    Kept sn qs (State.servoUpdate s ref o) := by
  unfold State.servoUpdate
  try dsimp -iota only
  repeat' first
    | with_reducible assumption
    | with_reducible apply State.log_kept
    | with_reducible apply State.servoRate_kept
    | with_reducible apply Kept.ite
    | with_reducible apply Kept.iteFst
    | (with_reducible apply Kept.mk; first | with_reducible assumption | with_reducible apply State.log_kept | with_reducible apply State.servoRate_kept | with_reducible apply Kept.ite)
    | intro _
    | split

theorem State.noteOffset_kept {s : State} (o : Int) (hs : Kept sn qs s) :
    Kept sn qs (State.noteOffset s o) := by
  unfold State.noteOffset
  try dsimp -iota only
  repeat' first
    | with_reducible assumption
    | with_reducible apply Kept.ite
    | with_reducible apply Kept.iteFst
    | (with_reducible apply Kept.mk; first | with_reducible assumption | with_reducible apply Kept.ite)
    | intro _
    | split

theorem State.timeMeasure_kept {s : State} (o : Int) (hs : Kept sn qs s) :
    Kept sn qs (State.timeMeasure s o) := by
  unfold State.timeMeasure
  try dsimp -iota only
  repeat' first
    | with_reducible assumption
    | with_reducible apply State.bump_kept
    | with_reducible apply State.applyStep_kept
    | with_reducible apply State.tolerance_kept
    | with_reducible apply State.enterLocked_kept
    | with_reducible apply State.servoUpdate_kept
    | with_reducible apply State.noteOffset_kept
    | with_reducible apply Kept.ite
    | with_reducible apply Kept.iteFst
    | with_reducible apply Kept.foldl
    | (with_reducible apply Kept.mk; first | with_reducible assumption | with_reducible apply State.bump_kept | with_reducible apply State.applyStep_kept | with_reducible apply State.tolerance_kept | with_reducible apply State.enterLocked_kept | with_reducible apply State.servoUpdate_kept | with_reducible apply State.noteOffset_kept | with_reducible apply Kept.ite)
    | intro _
    | split

theorem State.leadAlone_kept {s : State} (hs : Kept sn qs s) :
    Kept sn qs (State.leadAlone s) := by
  unfold State.leadAlone
  try dsimp -iota only
  repeat' first
    | with_reducible assumption
    | with_reducible apply State.tolerance_kept
    | with_reducible apply State.enterLocked_kept
    | with_reducible apply Kept.ite
    | with_reducible apply Kept.iteFst
    | (with_reducible apply Kept.mk; first | with_reducible assumption | with_reducible apply State.tolerance_kept | with_reducible apply State.enterLocked_kept | with_reducible apply Kept.ite)
    | intro _
    | split

theorem State.setTimeSource_kept {s : State} (leader : Bool) (ptp : Option Nat) (parent : Nat) (hs : Kept sn qs s) :
    Kept sn qs (State.setTimeSource s leader ptp parent) := by
  unfold State.setTimeSource
  try dsimp -iota only
  repeat' first
    | with_reducible assumption
    | with_reducible apply State.leadAlone_kept
    | with_reducible apply Kept.ite
    | with_reducible apply Kept.iteFst
    | (with_reducible apply Kept.mk; first | with_reducible assumption | with_reducible apply State.leadAlone_kept | with_reducible apply Kept.ite)
    | intro _
    | split

theorem execTimeSourceTimeout_kept {s : State} (hs : Kept sn qs s) :
    nextHas (Kept sn qs) (execTimeSourceTimeout s) := by
  unfold execTimeSourceTimeout
  try dsimp -iota only
  repeat' first
    | with_reducible assumption
    | with_reducible apply State.bump_kept
    | with_reducible apply State.log_kept
    | with_reducible apply State.tolerance_kept
    | with_reducible apply Kept.ite
    | with_reducible apply Kept.iteFst
    | exact trivial
    | with_reducible apply Kept.next
    | with_reducible apply Kept.iteOut
    | (with_reducible apply Kept.mk; first | with_reducible assumption | with_reducible apply State.bump_kept | with_reducible apply State.log_kept | with_reducible apply State.tolerance_kept | with_reducible apply Kept.ite)
    | intro _
    | split

theorem State.putStamp_kept {s : State} (p : MarkerPath) (t : Ft8) (hs : Kept sn qs s) :
    Kept sn qs (State.putStamp s p t) := by
  unfold State.putStamp
  try dsimp -iota only
  repeat' first
    | with_reducible assumption
    | with_reducible apply State.modTdc_kept
    | with_reducible apply Kept.ite
    | with_reducible apply Kept.iteFst
    | (with_reducible apply Kept.mk; first | with_reducible assumption | with_reducible apply State.modTdc_kept | with_reducible apply Kept.ite)
    | intro _
    | split

theorem execTdcStamp_kept (p : MarkerPath) (cycles : Fin 100) (frac : Fin 256) {s : State} (hs : Kept sn qs s) :
    nextHas (Kept sn qs) (execTdcStamp p cycles frac s) := by
  unfold execTdcStamp
  try dsimp -iota only
  repeat' first
    | with_reducible assumption
    | with_reducible apply State.modTdc_kept
    | with_reducible apply State.modPwm_kept
    | with_reducible apply Kept.ite
    | with_reducible apply Kept.iteFst
    | exact trivial
    | with_reducible apply Kept.next
    | with_reducible apply Kept.iteOut
    | (with_reducible apply Kept.mk; first | with_reducible assumption | with_reducible apply State.modTdc_kept | with_reducible apply State.modPwm_kept | with_reducible apply Kept.ite)
    | intro _
    | split

theorem execTdcCalibration_kept {s : State} (hs : Kept sn qs s) :
    nextHas (Kept sn qs) (execTdcCalibration s) := by
  unfold execTdcCalibration
  try dsimp -iota only
  repeat' first
    | with_reducible assumption
    | with_reducible apply State.took_kept
    | with_reducible apply Kept.ite
    | with_reducible apply Kept.iteFst
    | exact trivial
    | with_reducible apply Kept.next
    | with_reducible apply Kept.iteOut
    | (with_reducible apply Kept.mk; first | with_reducible assumption | with_reducible apply State.took_kept | with_reducible apply Kept.ite)
    | intro _
    | split

theorem State.checkTx_kept {s : State} (no : Nat) (pred : Ft16) (stamp : Ft8) (hs : Kept sn qs s) :
    Kept sn qs (State.checkTx s no pred stamp) := by
  unfold State.checkTx
  try dsimp -iota only
  repeat' first
    | with_reducible assumption
    | with_reducible apply State.bumpIf_kept
    | with_reducible apply Kept.ite
    | with_reducible apply Kept.iteFst
    | (with_reducible apply Kept.mk; first | with_reducible assumption | with_reducible apply State.bumpIf_kept | with_reducible apply Kept.ite)
    | intro _
    | split

end Sys2Proof.Machine
end

