-- ==== Sys2Proof/Laws/KeptSections.lean ====
section
/-! SUPPORT. Every operation of Machine/Sections.lean keeps the queue and the soundness of the state. -/

set_option linter.all false
namespace Sys2Proof.Machine

variable {sn : Bool} {qs : List Instr}

theorem State.setInitRegion_kept {s : State} (i k : Nat) (hs : Kept sn qs s) :
    Kept sn qs (State.setInitRegion s i k) := by
  unfold State.setInitRegion
  try dsimp -iota only
  repeat' first
    | with_reducible assumption
    | with_reducible apply State.modSection_kept
    | with_reducible apply Kept.ite
    | with_reducible apply Kept.iteFst
    | (with_reducible apply Kept.mk; first | with_reducible assumption | with_reducible apply State.modSection_kept | with_reducible apply Kept.ite)
    | intro _
    | split

theorem State.seedSection_kept {s : State} (i k : Nat) (x y : Q8) (hs : Kept sn qs s) :
    Kept sn qs (State.seedSection s i k x y) := by
  unfold State.seedSection
  try dsimp -iota only
  repeat' first
    | with_reducible assumption
    | with_reducible apply State.modSection_kept
    | with_reducible apply Kept.ite
    | with_reducible apply Kept.iteFst
    | (with_reducible apply Kept.mk; first | with_reducible assumption | with_reducible apply State.modSection_kept | with_reducible apply Kept.ite)
    | intro _
    | split

theorem State.runSection_kept {s : State} (i k : Nat) (x : Q8) (hs : Kept sn qs s) :
    Kept sn qs (State.runSection s i k x).1 := by
  unfold State.runSection
  try dsimp -iota only
  repeat' first
    | with_reducible assumption
    | with_reducible apply State.setSection_kept
    | with_reducible apply State.bumpIf_kept
    | with_reducible apply Kept.ite
    | with_reducible apply Kept.iteFst
    | (with_reducible apply Kept.mk; first | with_reducible assumption | with_reducible apply State.setSection_kept | with_reducible apply State.bumpIf_kept | with_reducible apply Kept.ite)
    | intro _
    | split

theorem State.runPlaced_kept {s : State} (i place : Nat) (x : Q8) (hs : Kept sn qs s) :
    Kept sn qs (State.runPlaced s i place x).1 := by
  unfold State.runPlaced
  refine Kept.foldlFst (fun a k h => ?_) hs
  split
  · have h1 := State.runSection_kept i k a.2.1 h
    exact h1
  · exact h

theorem State.zeroSections_kept {s : State} (i : Nat) (hs : Kept sn qs s) :
    Kept sn qs (State.zeroSections s i) := by
  unfold State.zeroSections
  try dsimp -iota only
  repeat' first
    | with_reducible assumption
    | with_reducible apply State.setSection_kept
    | with_reducible apply State.setInitRegion_kept
    | with_reducible apply Kept.ite
    | with_reducible apply Kept.iteFst
    | with_reducible apply Kept.foldl
    | (with_reducible apply Kept.mk; first | with_reducible assumption | with_reducible apply State.setSection_kept | with_reducible apply State.setInitRegion_kept | with_reducible apply Kept.ite)
    | intro _
    | split

theorem State.keepOutputs_kept {s : State} (i : Nat) (hs : Kept sn qs s) :
    Kept sn qs (State.keepOutputs s i) := by
  unfold State.keepOutputs
  try dsimp -iota only
  repeat' first
    | with_reducible assumption
    | with_reducible apply State.modSection_kept
    | with_reducible apply Kept.ite
    | with_reducible apply Kept.iteFst
    | with_reducible apply Kept.foldl
    | (with_reducible apply Kept.mk; first | with_reducible assumption | with_reducible apply State.modSection_kept | with_reducible apply Kept.ite)
    | intro _
    | split

theorem State.holdOutputs_kept {s : State} (i : Nat) (hs : Kept sn qs s) :
    Kept sn qs (State.holdOutputs s i) := by
  unfold State.holdOutputs
  try dsimp -iota only
  repeat' first
    | with_reducible assumption
    | with_reducible apply State.modSection_kept
    | with_reducible apply Kept.ite
    | with_reducible apply Kept.iteFst
    | with_reducible apply Kept.foldlFst
    | with_reducible apply Kept.foldl
    | (with_reducible apply Kept.mk; first | with_reducible assumption | with_reducible apply State.modSection_kept | with_reducible apply Kept.ite)
    | intro _
    | split

end Sys2Proof.Machine
end

