-- ==== Sys2Proof/Laws/KeptSetpoint.lean ====
section
/-! SUPPORT. Every operation of Machine/Setpoint.lean keeps the queue and the soundness of the state. -/

set_option linter.all false
namespace Sys2Proof.Machine

variable {sn : Bool} {qs : List Instr}

theorem State.sendRegister_kept {s : State} (op convoy fa : Nat) (hs : Kept sn qs s) :
    Kept sn qs (State.sendRegister s op convoy fa) := by
  unfold State.sendRegister
  try dsimp -iota only
  repeat' first
    | with_reducible assumption
    | with_reducible apply Kept.ite
    | with_reducible apply Kept.iteFst
    | (with_reducible apply Kept.mk; first | with_reducible assumption | with_reducible apply Kept.ite)
    | intro _
    | split

theorem State.slewTrims_kept {s : State} (c : Nat) (hs : Kept sn qs s) :
    Kept sn qs (State.slewTrims s c) := by
  unfold State.slewTrims
  try dsimp -iota only
  repeat' first
    | with_reducible assumption
    | with_reducible apply State.modPublisher_kept
    | with_reducible apply Kept.ite
    | with_reducible apply Kept.iteFst
    | (with_reducible apply Kept.mk; first | with_reducible assumption | with_reducible apply State.modPublisher_kept | with_reducible apply Kept.ite)
    | intro _
    | split

theorem State.publish_kept {s : State} (c : Nat) (k : PubKind) (tRef : Ft16) (m : Motion) (j : Q32) (hs : Kept sn qs s) :
    Kept sn qs (State.publish s c k tRef m j) := by
  unfold State.publish
  try dsimp -iota only
  repeat' first
    | with_reducible assumption
    | with_reducible apply State.setPublisher_kept
    | with_reducible apply State.bump_kept
    | with_reducible apply State.slewTrims_kept
    | with_reducible apply Kept.ite
    | with_reducible apply Kept.iteFst
    | (with_reducible apply Kept.mk; first | with_reducible assumption | with_reducible apply State.setPublisher_kept | with_reducible apply State.bump_kept | with_reducible apply State.slewTrims_kept | with_reducible apply Kept.ite)
    | intro _
    | split

theorem State.endPublication_kept {s : State} (c : Nat) (hs : Kept sn qs s) :
    Kept sn qs (State.endPublication s c) := by
  unfold State.endPublication
  try dsimp -iota only
  repeat' first
    | with_reducible assumption
    | with_reducible apply State.modPublisher_kept
    | with_reducible apply State.publish_kept
    | with_reducible apply Kept.ite
    | with_reducible apply Kept.iteFst
    | (with_reducible apply Kept.mk; first | with_reducible assumption | with_reducible apply State.modPublisher_kept | with_reducible apply State.publish_kept | with_reducible apply Kept.ite)
    | intro _
    | split

theorem State.endPublications_kept {s : State} (ep : Nat) (hs : Kept sn qs s) :
    Kept sn qs (State.endPublications s ep) := by
  unfold State.endPublications
  try dsimp -iota only
  repeat' first
    | with_reducible assumption
    | with_reducible apply State.endPublication_kept
    | with_reducible apply Kept.ite
    | with_reducible apply Kept.iteFst
    | with_reducible apply Kept.foldl
    | (with_reducible apply Kept.mk; first | with_reducible assumption | with_reducible apply State.endPublication_kept | with_reducible apply Kept.ite)
    | intro _
    | split

theorem State.beginPublications_kept {s : State} (ep : Nat) (hs : Kept sn qs s) :
    Kept sn qs (State.beginPublications s ep) := by
  unfold State.beginPublications
  try dsimp -iota only
  repeat' first
    | with_reducible assumption
    | with_reducible apply State.modPublisher_kept
    | with_reducible apply Kept.ite
    | with_reducible apply Kept.iteFst
    | with_reducible apply Kept.foldl
    | (with_reducible apply Kept.mk; first | with_reducible assumption | with_reducible apply State.modPublisher_kept | with_reducible apply Kept.ite)
    | intro _
    | split

theorem State.freeFollower_kept {s : State} (ep : Nat) (hs : Kept sn qs s) :
    Kept sn qs (State.freeFollower s ep) := by
  unfold State.freeFollower
  try dsimp -iota only
  repeat' first
    | with_reducible assumption
    | with_reducible apply State.setFollower_kept
    | with_reducible apply State.sendRegister_kept
    | with_reducible apply Kept.ite
    | with_reducible apply Kept.iteFst
    | (with_reducible apply Kept.mk; first | with_reducible assumption | with_reducible apply State.setFollower_kept | with_reducible apply State.sendRegister_kept | with_reducible apply Kept.ite)
    | intro _
    | split

theorem State.endJoin_kept {s : State} (ep : Nat) (st : BitVec 16) (data : List Byte) (hs : Kept sn qs s) :
    Kept sn qs (State.endJoin s ep st data) := by
  unfold State.endJoin
  try dsimp -iota only
  repeat' first
    | with_reducible assumption
    | with_reducible apply State.setFollower_kept
    | with_reducible apply State.finishOpt_kept
    | with_reducible apply Kept.ite
    | with_reducible apply Kept.iteFst
    | (with_reducible apply Kept.mk; first | with_reducible assumption | with_reducible apply State.setFollower_kept | with_reducible apply State.finishOpt_kept | with_reducible apply Kept.ite)
    | intro _
    | split

theorem State.leaveConvoy_kept {s : State} (ep : Nat) (st : BitVec 16) (data : List Byte) (hs : Kept sn qs s) :
    Kept sn qs (State.leaveConvoy s ep st data) := by
  unfold State.leaveConvoy
  try dsimp -iota only
  repeat' first
    | with_reducible assumption
    | with_reducible apply State.freeFollower_kept
    | with_reducible apply State.endJoin_kept
    | with_reducible apply Kept.ite
    | with_reducible apply Kept.iteFst
    | (with_reducible apply Kept.mk; first | with_reducible assumption | with_reducible apply State.freeFollower_kept | with_reducible apply State.endJoin_kept | with_reducible apply Kept.ite)
    | intro _
    | split

theorem State.endDecouple_kept {s : State} (ep : Nat) (hs : Kept sn qs s) :
    Kept sn qs (State.endDecouple s ep) := by
  unfold State.endDecouple
  try dsimp -iota only
  repeat' first
    | with_reducible assumption
    | with_reducible apply State.freeFollower_kept
    | with_reducible apply Kept.ite
    | with_reducible apply Kept.iteFst
    | (with_reducible apply Kept.mk; first | with_reducible assumption | with_reducible apply State.freeFollower_kept | with_reducible apply Kept.ite)
    | intro _
    | split

end Sys2Proof.Machine
end

