-- ==== Sys2Proof/Laws/KeptAxisOps.lean ====
section
/-! SUPPORT. Every operation of Machine/AxisOps.lean keeps the queue and the soundness of the state. -/

set_option linter.all false
namespace Sys2Proof.Machine

variable {sn : Bool} {qs : List Instr}

theorem State.await_kept {s : State} (k ep : Nat) (opcode : BitVec 16) (hs : Kept sn qs s) :
    Kept sn qs (State.await s k ep opcode) := by
  unfold State.await
  try dsimp -iota only
  repeat' first
    | with_reducible assumption
    | with_reducible apply State.run_kept
    | with_reducible apply Kept.ite
    | with_reducible apply Kept.iteFst
    | (with_reducible apply Kept.mk; first | with_reducible assumption | with_reducible apply State.run_kept | with_reducible apply Kept.ite)
    | intro _
    | split

theorem State.complete_kept {s : State} (ep : Nat) (opcode : BitVec 16) (st : BitVec 16) (data : List Byte) (hs : Kept sn qs s) :
    Kept sn qs (State.complete s ep opcode st data) := by
  unfold State.complete
  try dsimp -iota only
  repeat' first
    | with_reducible assumption
    | with_reducible apply State.finish_kept
    | with_reducible apply Kept.ite
    | with_reducible apply Kept.iteFst
    | with_reducible apply Kept.foldl
    | (with_reducible apply Kept.mk; first | with_reducible assumption | with_reducible apply State.finish_kept | with_reducible apply Kept.ite)
    | intro _
    | split

theorem State.openTrail_kept {s : State} (ep : Nat) (hs : Kept sn qs s) :
    Kept sn qs (State.openTrail s ep) := by
  unfold State.openTrail
  try dsimp -iota only
  repeat' first
    | with_reducible assumption
    | with_reducible apply State.modTrail_kept
    | with_reducible apply Kept.ite
    | with_reducible apply Kept.iteFst
    | (with_reducible apply Kept.mk; first | with_reducible assumption | with_reducible apply State.modTrail_kept | with_reducible apply Kept.ite)
    | intro _
    | split

theorem State.writeReport_kept {s : State} (ep : Nat) (pos : Q32) (valid : Bool) (hs : Kept sn qs s) :
    Kept sn qs (State.writeReport s ep pos valid) := by
  unfold State.writeReport
  try dsimp -iota only
  repeat' first
    | with_reducible assumption
    | with_reducible apply State.setTrail_kept
    | with_reducible apply State.logAt_kept
    | with_reducible apply State.log_kept
    | with_reducible apply Kept.ite
    | with_reducible apply Kept.iteFst
    | (with_reducible apply Kept.mk; first | with_reducible assumption | with_reducible apply State.setTrail_kept | with_reducible apply State.logAt_kept | with_reducible apply State.log_kept | with_reducible apply Kept.ite)
    | intro _
    | split

theorem State.abortAppends_kept {s : State} (ep : Nat) (hs : Kept sn qs s) :
    Kept sn qs (State.abortAppends s ep) := by
  unfold State.abortAppends
  try dsimp -iota only
  repeat' first
    | with_reducible assumption
    | with_reducible apply State.setTrail_kept
    | with_reducible apply State.finish_kept
    | with_reducible apply Kept.ite
    | with_reducible apply Kept.iteFst
    | with_reducible apply Kept.foldlFst
    | with_reducible apply Kept.foldl
    | (with_reducible apply Kept.mk; first | with_reducible assumption | with_reducible apply State.setTrail_kept | with_reducible apply State.finish_kept | with_reducible apply Kept.ite)
    | intro _
    | split

theorem State.endHoming_kept {s : State} (ep : Nat) (res : HomeResult) (st : BitVec 16) (data : List Byte) (hs : Kept sn qs s) :
    Kept sn qs (State.endHoming s ep res st data) := by
  unfold State.endHoming
  try dsimp -iota only
  repeat' first
    | with_reducible assumption
    | with_reducible apply State.setTrail_kept
    | with_reducible apply State.finishOpt_kept
    | with_reducible apply Kept.ite
    | with_reducible apply Kept.iteFst
    | (with_reducible apply Kept.mk; first | with_reducible assumption | with_reducible apply State.setTrail_kept | with_reducible apply State.finishOpt_kept | with_reducible apply Kept.ite)
    | intro _
    | split

theorem State.endMotion_kept {s : State} (ep cause category : Nat) (ftStop : Ft8) (hs : Kept sn qs s) :
    Kept sn qs (State.endMotion s ep cause category ftStop) := by
  unfold State.endMotion
  try dsimp -iota only
  repeat' first
    | with_reducible assumption
    | with_reducible apply State.setTrail_kept
    | with_reducible apply State.abortAppends_kept
    | with_reducible apply Kept.ite
    | with_reducible apply Kept.iteFst
    | (with_reducible apply Kept.mk; first | with_reducible assumption | with_reducible apply State.setTrail_kept | with_reducible apply State.abortAppends_kept | with_reducible apply Kept.ite)
    | intro _
    | split

theorem State.pathRest_kept {s : State} (g x : Nat) (skip : Option Nat) (lim : Rat × Rat) (due : TrjReport) (hs : Kept sn qs s) :
    Kept sn qs (State.pathRest s g x skip lim due) := by
  unfold State.pathRest
  try dsimp -iota only
  repeat' first
    | with_reducible assumption
    | with_reducible apply State.setTrail_kept
    | with_reducible apply Kept.ite
    | with_reducible apply Kept.iteFst
    | with_reducible apply Kept.foldlFst
    | with_reducible apply Kept.foldl
    | (with_reducible apply Kept.mk; first | with_reducible assumption | with_reducible apply State.setTrail_kept | with_reducible apply Kept.ite)
    | intro _
    | split

theorem State.endPath_kept {s : State} (g : Nat) (skip : Option Nat) (cause category : Nat) (ftStop : Ft8) (hs : Kept sn qs s) :
    Kept sn qs (State.endPath s g skip cause category ftStop) := by
  unfold State.endPath
  try dsimp -iota only
  repeat' first
    | with_reducible assumption
    | with_reducible apply State.modTrail_kept
    | with_reducible apply State.endMotion_kept
    | with_reducible apply State.pathRest_kept
    | with_reducible apply Kept.ite
    | with_reducible apply Kept.iteFst
    | (with_reducible apply Kept.mk; first | with_reducible assumption | with_reducible apply State.modTrail_kept | with_reducible apply State.endMotion_kept | with_reducible apply State.pathRest_kept | with_reducible apply Kept.ite)
    | intro _
    | split

theorem State.endGroup_kept {s : State} (ep cause category : Nat) (ftStop : Ft8) (hs : Kept sn qs s) :
    Kept sn qs (State.endGroup s ep cause category ftStop) := by
  unfold State.endGroup
  try dsimp -iota only
  repeat' first
    | with_reducible assumption
    | with_reducible apply State.endPath_kept
    | with_reducible apply Kept.ite
    | with_reducible apply Kept.iteFst
    | (with_reducible apply Kept.mk; first | with_reducible assumption | with_reducible apply State.endPath_kept | with_reducible apply Kept.ite)
    | intro _
    | split

theorem State.groupRest_kept {s : State} (ep : Nat) (hs : Kept sn qs s) :
    Kept sn qs (State.groupRest s ep) := by
  unfold State.groupRest
  try dsimp -iota only
  repeat' first
    | with_reducible assumption
    | with_reducible apply State.modTrail_kept
    | with_reducible apply State.took_kept
    | with_reducible apply State.writeReport_kept
    | with_reducible apply Kept.ite
    | with_reducible apply Kept.iteFst
    | (with_reducible apply Kept.mk; first | with_reducible assumption | with_reducible apply State.modTrail_kept | with_reducible apply State.took_kept | with_reducible apply State.writeReport_kept | with_reducible apply Kept.ite)
    | intro _
    | split

theorem State.closeTrail_kept {s : State} (ep : Nat) (hs : Kept sn qs s) :
    Kept sn qs (State.closeTrail s ep) := by
  unfold State.closeTrail
  try dsimp -iota only
  repeat' first
    | with_reducible assumption
    | with_reducible apply State.modTrail_kept
    | with_reducible apply State.groupRest_kept
    | with_reducible apply Kept.ite
    | with_reducible apply Kept.iteFst
    | (with_reducible apply Kept.mk; first | with_reducible assumption | with_reducible apply State.modTrail_kept | with_reducible apply State.groupRest_kept | with_reducible apply Kept.ite)
    | intro _
    | split

theorem State.dropChange_kept {s : State} (ep : Nat) (hs : Kept sn qs s) :
    Kept sn qs (State.dropChange s ep) := by
  unfold State.dropChange
  try dsimp -iota only
  repeat' first
    | with_reducible assumption
    | with_reducible apply State.modTrail_kept
    | with_reducible apply Kept.ite
    | with_reducible apply Kept.iteFst
    | (with_reducible apply Kept.mk; first | with_reducible assumption | with_reducible apply State.modTrail_kept | with_reducible apply Kept.ite)
    | intro _
    | split

theorem State.gates_kept {s : State} (i : Nat) (on : Bool) (hs : Kept sn qs s) :
    Kept sn qs (State.gates s i on) := by
  unfold State.gates
  try dsimp -iota only
  repeat' first
    | with_reducible assumption
    | with_reducible apply State.modPwm_kept
    | with_reducible apply Kept.ite
    | with_reducible apply Kept.iteFst
    | (with_reducible apply Kept.mk; first | with_reducible assumption | with_reducible apply State.modPwm_kept | with_reducible apply Kept.ite)
    | intro _
    | split

theorem State.lowGates_kept {s : State} (i : Nat) (hs : Kept sn qs s) :
    Kept sn qs (State.lowGates s i) := by
  unfold State.lowGates
  try dsimp -iota only
  repeat' first
    | with_reducible assumption
    | with_reducible apply State.modPwm_kept
    | with_reducible apply State.gates_kept
    | with_reducible apply Kept.ite
    | with_reducible apply Kept.iteFst
    | (with_reducible apply Kept.mk; first | with_reducible assumption | with_reducible apply State.modPwm_kept | with_reducible apply State.gates_kept | with_reducible apply Kept.ite)
    | intro _
    | split

theorem State.logAxisFault_kept {s : State} (i : Nat) (hs : Kept sn qs s) :
    Kept sn qs (State.logAxisFault s i) := by
  unfold State.logAxisFault
  try dsimp -iota only
  repeat' first
    | with_reducible assumption
    | with_reducible apply State.log_kept
    | with_reducible apply Kept.ite
    | with_reducible apply Kept.iteFst
    | (with_reducible apply Kept.mk; first | with_reducible assumption | with_reducible apply State.log_kept | with_reducible apply Kept.ite)
    | intro _
    | split

theorem State.logAxisStopped_kept {s : State} (i : Nat) (stamp : Ft8) (cat : Nat) (hs : Kept sn qs s) :
    Kept sn qs (State.logAxisStopped s i stamp cat) := by
  unfold State.logAxisStopped
  try dsimp -iota only
  repeat' first
    | with_reducible assumption
    | with_reducible apply State.log_kept
    | with_reducible apply Kept.ite
    | with_reducible apply Kept.iteFst
    | (with_reducible apply Kept.mk; first | with_reducible assumption | with_reducible apply State.log_kept | with_reducible apply Kept.ite)
    | intro _
    | split

theorem State.fbOff_kept {s : State} (i : Nat) (hs : Kept sn qs s) :
    Kept sn qs (State.fbOff s i) := by
  unfold State.fbOff
  try dsimp -iota only
  repeat' first
    | with_reducible assumption
    | with_reducible apply State.modQuad_kept
    | with_reducible apply State.modFb_kept
    | with_reducible apply Kept.ite
    | with_reducible apply Kept.iteFst
    | (with_reducible apply Kept.mk; first | with_reducible assumption | with_reducible apply State.modQuad_kept | with_reducible apply State.modFb_kept | with_reducible apply Kept.ite)
    | intro _
    | split

theorem State.focOff_kept {s : State} (i : Nat) (hs : Kept sn qs s) :
    Kept sn qs (State.focOff s i) := by
  unfold State.focOff
  try dsimp -iota only
  repeat' first
    | with_reducible assumption
    | with_reducible apply State.modFoc_kept
    | with_reducible apply Kept.ite
    | with_reducible apply Kept.iteFst
    | (with_reducible apply Kept.mk; first | with_reducible assumption | with_reducible apply State.modFoc_kept | with_reducible apply Kept.ite)
    | intro _
    | split

theorem State.coastReport_kept {s : State} (i : Nat) (hs : Kept sn qs s) :
    Kept sn qs (State.coastReport s i) := by
  unfold State.coastReport
  try dsimp -iota only
  repeat' first
    | with_reducible assumption
    | with_reducible apply State.modFlags_kept
    | with_reducible apply State.logAt_kept
    | with_reducible apply State.writeReport_kept
    | with_reducible apply Kept.ite
    | with_reducible apply Kept.iteFst
    | (with_reducible apply Kept.mk; first | with_reducible assumption | with_reducible apply State.modFlags_kept | with_reducible apply State.logAt_kept | with_reducible apply State.writeReport_kept | with_reducible apply Kept.ite)
    | intro _
    | split

theorem State.enterDisabled_kept {s : State} (i : Nat) (hs : Kept sn qs s) :
    Kept sn qs (State.enterDisabled s i) := by
  unfold State.enterDisabled
  try dsimp -iota only
  repeat' first
    | with_reducible assumption
    | with_reducible apply State.modLoop_kept
    | with_reducible apply State.ok_kept
    | with_reducible apply State.clockStopped_kept
    | with_reducible apply State.endPublications_kept
    | with_reducible apply State.leaveConvoy_kept
    | with_reducible apply State.endDecouple_kept
    | with_reducible apply State.complete_kept
    | with_reducible apply State.endHoming_kept
    | with_reducible apply State.closeTrail_kept
    | with_reducible apply State.gates_kept
    | with_reducible apply State.fbOff_kept
    | with_reducible apply State.focOff_kept
    | with_reducible apply Kept.ite
    | with_reducible apply Kept.iteFst
    | (with_reducible apply Kept.mk; first | with_reducible assumption | with_reducible apply State.modLoop_kept | with_reducible apply State.ok_kept | with_reducible apply State.clockStopped_kept | with_reducible apply State.endPublications_kept | with_reducible apply State.leaveConvoy_kept | with_reducible apply State.endDecouple_kept | with_reducible apply State.complete_kept | with_reducible apply State.endHoming_kept | with_reducible apply State.closeTrail_kept | with_reducible apply State.gates_kept | with_reducible apply State.fbOff_kept | with_reducible apply State.focOff_kept | with_reducible apply Kept.ite)
    | intro _
    | split

theorem State.enterFaulted_kept {s : State} (i : Nat) (other : Bool) (hs : Kept sn qs s) :
    Kept sn qs (State.enterFaulted s i other) := by
  unfold State.enterFaulted
  try dsimp -iota only
  repeat' first
    | with_reducible assumption
    | with_reducible apply State.modFb_kept
    | with_reducible apply State.modLoop_kept
    | with_reducible apply State.bump_kept
    | with_reducible apply State.ok_kept
    | with_reducible apply State.clockStopped_kept
    | with_reducible apply State.endPublications_kept
    | with_reducible apply State.leaveConvoy_kept
    | with_reducible apply State.endDecouple_kept
    | with_reducible apply State.complete_kept
    | with_reducible apply State.endHoming_kept
    | with_reducible apply State.closeTrail_kept
    | with_reducible apply State.gates_kept
    | with_reducible apply State.logAxisFault_kept
    | with_reducible apply State.fbOff_kept
    | with_reducible apply State.focOff_kept
    | with_reducible apply Kept.ite
    | with_reducible apply Kept.iteFst
    | (with_reducible apply Kept.mk; first | with_reducible assumption | with_reducible apply State.modFb_kept | with_reducible apply State.modLoop_kept | with_reducible apply State.bump_kept | with_reducible apply State.ok_kept | with_reducible apply State.clockStopped_kept | with_reducible apply State.endPublications_kept | with_reducible apply State.leaveConvoy_kept | with_reducible apply State.endDecouple_kept | with_reducible apply State.complete_kept | with_reducible apply State.endHoming_kept | with_reducible apply State.closeTrail_kept | with_reducible apply State.gates_kept | with_reducible apply State.logAxisFault_kept | with_reducible apply State.fbOff_kept | with_reducible apply State.focOff_kept | with_reducible apply Kept.ite)
    | intro _
    | split

theorem State.requestStop_kept {s : State} (i : Nat) (r : StopReq) (hs : Kept sn qs s) :
    Kept sn qs (State.requestStop s i r) := by
  unfold State.requestStop
  try dsimp -iota only
  repeat' first
    | with_reducible assumption
    | with_reducible apply State.modLoop_kept
    | with_reducible apply Kept.ite
    | with_reducible apply Kept.iteFst
    | (with_reducible apply Kept.mk; first | with_reducible assumption | with_reducible apply State.modLoop_kept | with_reducible apply Kept.ite)
    | intro _
    | split

theorem State.recordCause_kept {s : State} (i code : Nat) (hs : Kept sn qs s) :
    Kept sn qs (State.recordCause s i code) := by
  unfold State.recordCause
  try dsimp -iota only
  repeat' first
    | with_reducible assumption
    | with_reducible apply State.modLoop_kept
    | with_reducible apply Kept.ite
    | with_reducible apply Kept.iteFst
    | (with_reducible apply Kept.mk; first | with_reducible assumption | with_reducible apply State.modLoop_kept | with_reducible apply Kept.ite)
    | intro _
    | split

theorem State.faultNow_kept {s : State} (i code : Nat) (hs : Kept sn qs s) :
    Kept sn qs (State.faultNow s i code) := by
  unfold State.faultNow
  try dsimp -iota only
  repeat' first
    | with_reducible assumption
    | with_reducible apply State.modLoop_kept
    | with_reducible apply State.bumpIf_kept
    | with_reducible apply State.endMotion_kept
    | with_reducible apply State.endGroup_kept
    | with_reducible apply State.enterFaulted_kept
    | with_reducible apply Kept.ite
    | with_reducible apply Kept.iteFst
    | (with_reducible apply Kept.mk; first | with_reducible assumption | with_reducible apply State.modLoop_kept | with_reducible apply State.bumpIf_kept | with_reducible apply State.endMotion_kept | with_reducible apply State.endGroup_kept | with_reducible apply State.enterFaulted_kept | with_reducible apply Kept.ite)
    | intro _
    | split

theorem State.axisFault_kept {s : State} (i code : Nat) (hs : Kept sn qs s) :
    Kept sn qs (State.axisFault s i code) := by
  unfold State.axisFault
  try dsimp -iota only
  repeat' first
    | with_reducible assumption
    | with_reducible apply State.modLoop_kept
    | with_reducible apply State.logAxisFault_kept
    | with_reducible apply State.requestStop_kept
    | with_reducible apply State.recordCause_kept
    | with_reducible apply State.faultNow_kept
    | with_reducible apply Kept.ite
    | with_reducible apply Kept.iteFst
    | (with_reducible apply Kept.mk; first | with_reducible assumption | with_reducible apply State.modLoop_kept | with_reducible apply State.logAxisFault_kept | with_reducible apply State.requestStop_kept | with_reducible apply State.recordCause_kept | with_reducible apply State.faultNow_kept | with_reducible apply Kept.ite)
    | intro _
    | split

theorem State.stopEffect_kept {s : State} (i : Nat) (ps vs as : Q32) (tm : Nat) (hs : Kept sn qs s) :
    Kept sn qs (State.stopEffect s i ps vs as tm) := by
  unfold State.stopEffect
  try dsimp -iota only
  repeat' first
    | with_reducible assumption
    | with_reducible apply State.modLoop_kept
    | with_reducible apply State.modTrail_kept
    | with_reducible apply State.bump_kept
    | with_reducible apply State.ok_kept
    | with_reducible apply State.run_kept
    | with_reducible apply State.clockStopped_kept
    | with_reducible apply State.leaveConvoy_kept
    | with_reducible apply State.complete_kept
    | with_reducible apply State.endHoming_kept
    | with_reducible apply State.endMotion_kept
    | with_reducible apply State.endGroup_kept
    | with_reducible apply State.dropChange_kept
    | with_reducible apply Kept.ite
    | with_reducible apply Kept.iteFst
    | (with_reducible apply Kept.mk; first | with_reducible assumption | with_reducible apply State.modLoop_kept | with_reducible apply State.modTrail_kept | with_reducible apply State.bump_kept | with_reducible apply State.ok_kept | with_reducible apply State.run_kept | with_reducible apply State.clockStopped_kept | with_reducible apply State.leaveConvoy_kept | with_reducible apply State.complete_kept | with_reducible apply State.endHoming_kept | with_reducible apply State.endMotion_kept | with_reducible apply State.endGroup_kept | with_reducible apply State.dropChange_kept | with_reducible apply Kept.ite)
    | intro _
    | split

theorem State.stopAtUpdate_kept {s : State} (i : Nat) (hs : Kept sn qs s) :
    Kept sn qs (State.stopAtUpdate s i) := by
  unfold State.stopAtUpdate
  try dsimp -iota only
  repeat' first
    | with_reducible assumption
    | with_reducible apply State.modLoop_kept
    | with_reducible apply State.modFlags_kept
    | with_reducible apply State.ok_kept
    | with_reducible apply State.complete_kept
    | with_reducible apply State.gates_kept
    | with_reducible apply State.enterDisabled_kept
    | with_reducible apply State.enterFaulted_kept
    | with_reducible apply Kept.ite
    | with_reducible apply Kept.iteFst
    | (with_reducible apply Kept.mk; first | with_reducible assumption | with_reducible apply State.modLoop_kept | with_reducible apply State.modFlags_kept | with_reducible apply State.ok_kept | with_reducible apply State.complete_kept | with_reducible apply State.gates_kept | with_reducible apply State.enterDisabled_kept | with_reducible apply State.enterFaulted_kept | with_reducible apply Kept.ite)
    | intro _
    | split

theorem State.enterEnabled_kept {s : State} (i : Nat) (hs : Kept sn qs s) :
    Kept sn qs (State.enterEnabled s i) := by
  unfold State.enterEnabled
  try dsimp -iota only
  repeat' first
    | with_reducible assumption
    | with_reducible apply State.modLoop_kept
    | with_reducible apply State.modTrail_kept
    | with_reducible apply State.ok_kept
    | with_reducible apply State.zeroSections_kept
    | with_reducible apply State.beginPublications_kept
    | with_reducible apply State.complete_kept
    | with_reducible apply State.openTrail_kept
    | with_reducible apply State.gates_kept
    | with_reducible apply Kept.ite
    | with_reducible apply Kept.iteFst
    | (with_reducible apply Kept.mk; first | with_reducible assumption | with_reducible apply State.modLoop_kept | with_reducible apply State.modTrail_kept | with_reducible apply State.ok_kept | with_reducible apply State.zeroSections_kept | with_reducible apply State.beginPublications_kept | with_reducible apply State.complete_kept | with_reducible apply State.openTrail_kept | with_reducible apply State.gates_kept | with_reducible apply Kept.ite)
    | intro _
    | split

theorem State.rampDone_kept {s : State} (i : Nat) (stamp : Ft8) (hs : Kept sn qs s) :
    Kept sn qs (State.rampDone s i stamp) := by
  unfold State.rampDone
  try dsimp -iota only
  repeat' first
    | with_reducible assumption
    | with_reducible apply State.modLoop_kept
    | with_reducible apply State.endDecouple_kept
    | with_reducible apply State.openTrail_kept
    | with_reducible apply State.writeReport_kept
    | with_reducible apply State.logAxisStopped_kept
    | with_reducible apply Kept.ite
    | with_reducible apply Kept.iteFst
    | (with_reducible apply Kept.mk; first | with_reducible assumption | with_reducible apply State.modLoop_kept | with_reducible apply State.endDecouple_kept | with_reducible apply State.openTrail_kept | with_reducible apply State.writeReport_kept | with_reducible apply State.logAxisStopped_kept | with_reducible apply Kept.ite)
    | intro _
    | split

end Sys2Proof.Machine
end

