-- ==== Sys2Proof/Laws/KeptStepOps.lean ====
section
/-! SUPPORT. Every operation of Machine/StepOps.lean keeps the queue and the soundness of the state. -/

set_option linter.all false
namespace Sys2Proof.Machine

variable {sn : Bool} {qs : List Instr}

theorem State.setUncertain_kept {s : State} (i : Nat) (hs : Kept sn qs s) :
    Kept sn qs (State.setUncertain s i) := by
  unfold State.setUncertain
  try dsimp -iota only
  repeat' first
    | with_reducible assumption
    | with_reducible apply State.modTrail_kept
    | with_reducible apply State.modStepper_kept
    | with_reducible apply State.bumpIf_kept
    | with_reducible apply Kept.ite
    | with_reducible apply Kept.iteFst
    | (with_reducible apply Kept.mk; first | with_reducible assumption | with_reducible apply State.modTrail_kept | with_reducible apply State.modStepper_kept | with_reducible apply State.bumpIf_kept | with_reducible apply Kept.ite)
    | intro _
    | split

theorem State.stpHalt_kept {s : State} (i : Nat) (hs : Kept sn qs s) :
    Kept sn qs (State.stpHalt s i) := by
  unfold State.stpHalt
  try dsimp -iota only
  repeat' first
    | with_reducible assumption
    | with_reducible apply State.modStepper_kept
    | with_reducible apply State.setUncertain_kept
    | with_reducible apply Kept.ite
    | with_reducible apply Kept.iteFst
    | (with_reducible apply Kept.mk; first | with_reducible assumption | with_reducible apply State.modStepper_kept | with_reducible apply State.setUncertain_kept | with_reducible apply Kept.ite)
    | intro _
    | split

theorem State.stpLoseCurrent_kept {s : State} (i : Nat) (hs : Kept sn qs s) :
    Kept sn qs (State.stpLoseCurrent s i) := by
  unfold State.stpLoseCurrent
  try dsimp -iota only
  repeat' first
    | with_reducible assumption
    | with_reducible apply State.modStepper_kept
    | with_reducible apply State.setUncertain_kept
    | with_reducible apply Kept.ite
    | with_reducible apply Kept.iteFst
    | (with_reducible apply Kept.mk; first | with_reducible assumption | with_reducible apply State.modStepper_kept | with_reducible apply State.setUncertain_kept | with_reducible apply Kept.ite)
    | intro _
    | split

theorem State.stpEnd_kept {s : State} (i cause cat : Nat) (hs : Kept sn qs s) :
    Kept sn qs (State.stpEnd s i cause cat) := by
  unfold State.stpEnd
  try dsimp -iota only
  repeat' first
    | with_reducible assumption
    | with_reducible apply State.writeReport_kept
    | with_reducible apply State.endMotion_kept
    | with_reducible apply State.endGroup_kept
    | with_reducible apply State.dropChange_kept
    | with_reducible apply State.stpHalt_kept
    | with_reducible apply Kept.ite
    | with_reducible apply Kept.iteFst
    | (with_reducible apply Kept.mk; first | with_reducible assumption | with_reducible apply State.writeReport_kept | with_reducible apply State.endMotion_kept | with_reducible apply State.endGroup_kept | with_reducible apply State.dropChange_kept | with_reducible apply State.stpHalt_kept | with_reducible apply Kept.ite)
    | intro _
    | split

theorem State.stpStop_kept {s : State} (i cause cat : Nat) (st : BitVec 16) (data : List Byte) (hs : Kept sn qs s) :
    Kept sn qs (State.stpStop s i cause cat st data) := by
  unfold State.stpStop
  try dsimp -iota only
  repeat' first
    | with_reducible assumption
    | with_reducible apply State.leaveConvoy_kept
    | with_reducible apply State.endDecouple_kept
    | with_reducible apply State.openTrail_kept
    | with_reducible apply State.endHoming_kept
    | with_reducible apply State.stpEnd_kept
    | with_reducible apply Kept.ite
    | with_reducible apply Kept.iteFst
    | (with_reducible apply Kept.mk; first | with_reducible assumption | with_reducible apply State.leaveConvoy_kept | with_reducible apply State.endDecouple_kept | with_reducible apply State.openTrail_kept | with_reducible apply State.endHoming_kept | with_reducible apply State.stpEnd_kept | with_reducible apply Kept.ite)
    | intro _
    | split

theorem State.stpFault_kept {s : State} (i : Nat) (codes : List Nat) (hs : Kept sn qs s) :
    Kept sn qs (State.stpFault s i codes) := by
  unfold State.stpFault
  try dsimp -iota only
  repeat' first
    | with_reducible assumption
    | with_reducible apply State.modStepper_kept
    | with_reducible apply State.bump_kept
    | with_reducible apply State.log_kept
    | with_reducible apply State.leaveConvoy_kept
    | with_reducible apply State.endDecouple_kept
    | with_reducible apply State.complete_kept
    | with_reducible apply State.endHoming_kept
    | with_reducible apply State.closeTrail_kept
    | with_reducible apply State.stpLoseCurrent_kept
    | with_reducible apply State.stpEnd_kept
    | with_reducible apply Kept.ite
    | with_reducible apply Kept.iteFst
    | with_reducible apply Kept.foldlFst
    | with_reducible apply Kept.foldl
    | (with_reducible apply Kept.mk; first | with_reducible assumption | with_reducible apply State.modStepper_kept | with_reducible apply State.bump_kept | with_reducible apply State.log_kept | with_reducible apply State.leaveConvoy_kept | with_reducible apply State.endDecouple_kept | with_reducible apply State.complete_kept | with_reducible apply State.endHoming_kept | with_reducible apply State.closeTrail_kept | with_reducible apply State.stpLoseCurrent_kept | with_reducible apply State.stpEnd_kept | with_reducible apply Kept.ite)
    | intro _
    | split

theorem State.stpDisable_kept {s : State} (i cat : Nat) (hs : Kept sn qs s) :
    Kept sn qs (State.stpDisable s i cat) := by
  unfold State.stpDisable
  try dsimp -iota only
  repeat' first
    | with_reducible assumption
    | with_reducible apply State.modStepper_kept
    | with_reducible apply State.leaveConvoy_kept
    | with_reducible apply State.endDecouple_kept
    | with_reducible apply State.complete_kept
    | with_reducible apply State.endHoming_kept
    | with_reducible apply State.closeTrail_kept
    | with_reducible apply State.stpLoseCurrent_kept
    | with_reducible apply State.stpEnd_kept
    | with_reducible apply Kept.ite
    | with_reducible apply Kept.iteFst
    | (with_reducible apply Kept.mk; first | with_reducible assumption | with_reducible apply State.modStepper_kept | with_reducible apply State.leaveConvoy_kept | with_reducible apply State.endDecouple_kept | with_reducible apply State.complete_kept | with_reducible apply State.endHoming_kept | with_reducible apply State.closeTrail_kept | with_reducible apply State.stpLoseCurrent_kept | with_reducible apply State.stpEnd_kept | with_reducible apply Kept.ite)
    | intro _
    | split

theorem State.virtDisabled_kept {s : State} (i : Nat) (hs : Kept sn qs s) :
    Kept sn qs (State.virtDisabled s i) := by
  unfold State.virtDisabled
  try dsimp -iota only
  repeat' first
    | with_reducible assumption
    | with_reducible apply State.modVirt_kept
    | with_reducible apply State.ok_kept
    | with_reducible apply State.endPublications_kept
    | with_reducible apply State.leaveConvoy_kept
    | with_reducible apply State.endDecouple_kept
    | with_reducible apply State.complete_kept
    | with_reducible apply State.endHoming_kept
    | with_reducible apply State.closeTrail_kept
    | with_reducible apply Kept.ite
    | with_reducible apply Kept.iteFst
    | (with_reducible apply Kept.mk; first | with_reducible assumption | with_reducible apply State.modVirt_kept | with_reducible apply State.ok_kept | with_reducible apply State.endPublications_kept | with_reducible apply State.leaveConvoy_kept | with_reducible apply State.endDecouple_kept | with_reducible apply State.complete_kept | with_reducible apply State.endHoming_kept | with_reducible apply State.closeTrail_kept | with_reducible apply Kept.ite)
    | intro _
    | split

theorem State.virtStop_kept {s : State} (i cat cause : Nat) (hs : Kept sn qs s) :
    Kept sn qs (State.virtStop s i cat cause) := by
  unfold State.virtStop
  try dsimp -iota only
  repeat' first
    | with_reducible assumption
    | with_reducible apply State.modTrail_kept
    | with_reducible apply State.modVirt_kept
    | with_reducible apply State.run_kept
    | with_reducible apply State.sampleXt_kept
    | with_reducible apply State.leaveConvoy_kept
    | with_reducible apply State.writeReport_kept
    | with_reducible apply State.endHoming_kept
    | with_reducible apply State.endMotion_kept
    | with_reducible apply State.endGroup_kept
    | with_reducible apply State.dropChange_kept
    | with_reducible apply State.virtDisabled_kept
    | with_reducible apply Kept.ite
    | with_reducible apply Kept.iteFst
    | (with_reducible apply Kept.mk; first | with_reducible assumption | with_reducible apply State.modTrail_kept | with_reducible apply State.modVirt_kept | with_reducible apply State.run_kept | with_reducible apply State.sampleXt_kept | with_reducible apply State.leaveConvoy_kept | with_reducible apply State.writeReport_kept | with_reducible apply State.endHoming_kept | with_reducible apply State.endMotion_kept | with_reducible apply State.endGroup_kept | with_reducible apply State.dropChange_kept | with_reducible apply State.virtDisabled_kept | with_reducible apply Kept.ite)
    | intro _
    | split

theorem State.virtStopped_kept {s : State} (i : Nat) (hs : Kept sn qs s) :
    Kept sn qs (State.virtStopped s i) := by
  unfold State.virtStopped
  try dsimp -iota only
  repeat' first
    | with_reducible assumption
    | with_reducible apply State.modVirt_kept
    | with_reducible apply State.endDecouple_kept
    | with_reducible apply State.openTrail_kept
    | with_reducible apply State.writeReport_kept
    | with_reducible apply State.virtDisabled_kept
    | with_reducible apply Kept.ite
    | with_reducible apply Kept.iteFst
    | (with_reducible apply Kept.mk; first | with_reducible assumption | with_reducible apply State.modVirt_kept | with_reducible apply State.endDecouple_kept | with_reducible apply State.openTrail_kept | with_reducible apply State.writeReport_kept | with_reducible apply State.virtDisabled_kept | with_reducible apply Kept.ite)
    | intro _
    | split

end Sys2Proof.Machine
end

