-- ==== Sys2Proof/Laws/KeptConvoy.lean ====
section
/-! SUPPORT. Every operation of Machine/Convoy.lean keeps the queue and the soundness of the state. -/

set_option linter.all false
namespace Sys2Proof.Machine

variable {sn : Bool} {qs : List Instr}

theorem State.acceptPub_kept {s : State} (ep : Nat) (p : Pub) (hs : Kept sn qs s) :
    Kept sn qs (State.acceptPub s ep p) := by
  unfold State.acceptPub
  try dsimp -iota only
  repeat' first
    | with_reducible assumption
    | with_reducible apply State.setFollower_kept
    | with_reducible apply State.bump_kept
    | with_reducible apply State.bumpIf_kept
    | with_reducible apply Kept.ite
    | with_reducible apply Kept.iteFst
    | (with_reducible apply Kept.mk; first | with_reducible assumption | with_reducible apply State.setFollower_kept | with_reducible apply State.bump_kept | with_reducible apply State.bumpIf_kept | with_reducible apply Kept.ite)
    | intro _
    | split

theorem State.stepReg_kept {s : State} (ep : Nat) (dt : Rat) (hs : Kept sn qs s) :
    Kept sn qs (State.stepReg s ep dt).1 := by
  unfold State.stepReg
  try dsimp -iota only
  repeat' first
    | with_reducible assumption
    | with_reducible apply State.modFollower_kept
    | with_reducible apply Kept.ite
    | with_reducible apply Kept.iteFst
    | (with_reducible apply Kept.mk; first | with_reducible assumption | with_reducible apply State.modFollower_kept | with_reducible apply Kept.ite)
    | intro _
    | split

theorem State.remoteRest_kept {s : State} (i : Nat) (disable : Bool) (hs : Kept sn qs s) :
    Kept sn qs (State.remoteRest s i disable) := by
  unfold State.remoteRest
  try dsimp -iota only
  repeat' first
    | with_reducible assumption
    | with_reducible apply State.modFollower_kept
    | with_reducible apply State.modRemote_kept
    | with_reducible apply State.ok_kept
    | with_reducible apply State.leaveConvoy_kept
    | with_reducible apply State.endDecouple_kept
    | with_reducible apply State.complete_kept
    | with_reducible apply Kept.ite
    | with_reducible apply Kept.iteFst
    | (with_reducible apply Kept.mk; first | with_reducible assumption | with_reducible apply State.modFollower_kept | with_reducible apply State.modRemote_kept | with_reducible apply State.ok_kept | with_reducible apply State.leaveConvoy_kept | with_reducible apply State.endDecouple_kept | with_reducible apply State.complete_kept | with_reducible apply Kept.ite)
    | intro _
    | split

theorem State.decouple_kept {s : State} (ep : Nat) (causes : List Nat) (hs : Kept sn qs s) :
    Kept sn qs (State.decouple s ep causes) := by
  unfold State.decouple
  try dsimp -iota only
  repeat' first
    | with_reducible assumption
    | with_reducible apply State.modTrail_kept
    | with_reducible apply State.setFollower_kept
    | with_reducible apply State.bump_kept
    | with_reducible apply State.log_kept
    | with_reducible apply State.sampleXt_kept
    | with_reducible apply State.endJoin_kept
    | with_reducible apply State.endDecouple_kept
    | with_reducible apply State.openTrail_kept
    | with_reducible apply State.abortAppends_kept
    | with_reducible apply State.requestStop_kept
    | with_reducible apply State.recordCause_kept
    | with_reducible apply State.stpEnd_kept
    | with_reducible apply State.stpFault_kept
    | with_reducible apply State.virtStop_kept
    | with_reducible apply State.remoteRest_kept
    | with_reducible apply Kept.ite
    | with_reducible apply Kept.iteFst
    | with_reducible apply Kept.foldl
    | (with_reducible apply Kept.mk; first | with_reducible assumption | with_reducible apply State.modTrail_kept | with_reducible apply State.setFollower_kept | with_reducible apply State.bump_kept | with_reducible apply State.log_kept | with_reducible apply State.sampleXt_kept | with_reducible apply State.endJoin_kept | with_reducible apply State.endDecouple_kept | with_reducible apply State.openTrail_kept | with_reducible apply State.abortAppends_kept | with_reducible apply State.requestStop_kept | with_reducible apply State.recordCause_kept | with_reducible apply State.stpEnd_kept | with_reducible apply State.stpFault_kept | with_reducible apply State.virtStop_kept | with_reducible apply State.remoteRest_kept | with_reducible apply Kept.ite)
    | intro _
    | split

theorem State.folUse_kept {s : State} (ep : Nat) (g : Seg) (hs : Kept sn qs s) :
    Kept sn qs (State.folUse s ep g) := by
  unfold State.folUse
  try dsimp -iota only
  repeat' first
    | with_reducible assumption
    | with_reducible apply State.modTrail_kept
    | with_reducible apply Kept.ite
    | with_reducible apply Kept.iteFst
    | (with_reducible apply Kept.mk; first | with_reducible assumption | with_reducible apply State.modTrail_kept | with_reducible apply Kept.ite)
    | intro _
    | split

theorem State.switchCam_kept {s : State} (ep : Nat) (m : Motion) (t : Ft16) (hs : Kept sn qs s) :
    Kept sn qs (State.switchCam s ep m t) := by
  unfold State.switchCam
  try dsimp -iota only
  repeat' first
    | with_reducible assumption
    | with_reducible apply State.modTrail_kept
    | with_reducible apply State.setFollower_kept
    | with_reducible apply Kept.ite
    | with_reducible apply Kept.iteFst
    | (with_reducible apply Kept.mk; first | with_reducible assumption | with_reducible apply State.modTrail_kept | with_reducible apply State.setFollower_kept | with_reducible apply Kept.ite)
    | intro _
    | split

theorem State.coupled_kept {s : State} (ep : Nat) (seq : BitVec 16) (hs : Kept sn qs s) :
    Kept sn qs (State.coupled s ep seq) := by
  unfold State.coupled
  try dsimp -iota only
  repeat' first
    | with_reducible assumption
    | with_reducible apply State.modFollower_kept
    | with_reducible apply State.log_kept
    | with_reducible apply State.ok_kept
    | with_reducible apply State.endJoin_kept
    | with_reducible apply Kept.ite
    | with_reducible apply Kept.iteFst
    | (with_reducible apply Kept.mk; first | with_reducible assumption | with_reducible apply State.modFollower_kept | with_reducible apply State.log_kept | with_reducible apply State.ok_kept | with_reducible apply State.endJoin_kept | with_reducible apply Kept.ite)
    | intro _
    | split

theorem State.evalFollower_kept {s : State} (ep : Nat) (t : Ft16) (hs : Kept sn qs s) :
    Kept sn qs (State.evalFollower s ep t).1 := by
  unfold State.evalFollower
  try dsimp -iota only
  repeat' first
    | with_reducible assumption
    | with_reducible apply State.modTrail_kept
    | with_reducible apply State.modFollower_kept
    | with_reducible apply State.bumpIf_kept
    | with_reducible apply State.stepReg_kept
    | with_reducible apply State.folUse_kept
    | with_reducible apply State.switchCam_kept
    | with_reducible apply State.coupled_kept
    | with_reducible apply Kept.ite
    | with_reducible apply Kept.iteFst
    | (with_reducible apply Kept.mk; first | with_reducible assumption | with_reducible apply State.modTrail_kept | with_reducible apply State.modFollower_kept | with_reducible apply State.bumpIf_kept | with_reducible apply State.stepReg_kept | with_reducible apply State.folUse_kept | with_reducible apply State.switchCam_kept | with_reducible apply State.coupled_kept | with_reducible apply Kept.ite)
    | intro _
    | split

theorem State.setpointAt_kept {s : State} (ep : Nat) (t : Ft16) (hs : Kept sn qs s) :
    Kept sn qs (State.setpointAt s ep t).1 := by
  unfold State.setpointAt
  try dsimp -iota only
  repeat' first
    | with_reducible assumption
    | with_reducible apply State.setTrail_kept
    | with_reducible apply State.modFollower_kept
    | with_reducible apply State.decouple_kept
    | with_reducible apply State.coupled_kept
    | with_reducible apply State.evalFollower_kept
    | with_reducible apply Kept.ite
    | with_reducible apply Kept.iteFst
    | (with_reducible apply Kept.mk; first | with_reducible assumption | with_reducible apply State.setTrail_kept | with_reducible apply State.modFollower_kept | with_reducible apply State.decouple_kept | with_reducible apply State.coupled_kept | with_reducible apply State.evalFollower_kept | with_reducible apply Kept.ite)
    | intro _
    | split

theorem execCamLoad_kept (job : CmdJob) (ep : BitVec 16) (interp : Byte) (first total : BitVec 32) (pts : List CamPoint) {s : State} (hs : Kept sn qs s) :
    nextHas (Kept sn qs) (execCamLoad job ep interp first total pts s) := by
  unfold execCamLoad
  try dsimp -iota only
  repeat' first
    | with_reducible assumption
    | with_reducible apply State.setCam_kept
    | with_reducible apply State.execUnits_kept
    | with_reducible apply State.unitsDone_kept
    | with_reducible apply State.checked_kept
    | with_reducible apply Kept.ite
    | with_reducible apply Kept.iteFst
    | exact trivial
    | with_reducible apply Kept.next
    | with_reducible apply Kept.iteOut
    | (with_reducible apply Kept.mk; first | with_reducible assumption | with_reducible apply State.setCam_kept | with_reducible apply State.execUnits_kept | with_reducible apply State.unitsDone_kept | with_reducible apply State.checked_kept | with_reducible apply Kept.ite)
    | intro _
    | split

theorem execConvoyJoin_kept (ref : CmdRef) (ep : BitVec 16) (j : JoinReq) {s : State} (hs : Kept sn qs s) :
    nextHas (Kept sn qs) (execConvoyJoin ref ep j s) := by
  unfold execConvoyJoin
  try dsimp -iota only
  repeat' first
    | with_reducible assumption
    | with_reducible apply State.setFollower_kept
    | with_reducible apply State.took_kept
    | with_reducible apply State.setPar_kept
    | with_reducible apply State.run_kept
    | with_reducible apply State.execCmd_kept
    | with_reducible apply State.checked_kept
    | with_reducible apply State.sendRegister_kept
    | with_reducible apply Kept.ite
    | with_reducible apply Kept.iteFst
    | exact trivial
    | with_reducible apply Kept.next
    | with_reducible apply Kept.iteOut
    | (with_reducible apply Kept.mk; first | with_reducible assumption | with_reducible apply State.setFollower_kept | with_reducible apply State.took_kept | with_reducible apply State.setPar_kept | with_reducible apply State.run_kept | with_reducible apply State.execCmd_kept | with_reducible apply State.checked_kept | with_reducible apply State.sendRegister_kept | with_reducible apply Kept.ite)
    | intro _
    | split

theorem execConvoyLeave_kept (ref : CmdRef) (ep : BitVec 16) (mode : Byte) {s : State} (hs : Kept sn qs s) :
    nextHas (Kept sn qs) (execConvoyLeave ref ep mode s) := by
  unfold execConvoyLeave
  try dsimp -iota only
  repeat' first
    | with_reducible assumption
    | with_reducible apply State.modTrail_kept
    | with_reducible apply State.ok_kept
    | with_reducible apply State.execCmd_kept
    | with_reducible apply State.checked_kept
    | with_reducible apply State.coupled_kept
    | with_reducible apply Kept.ite
    | with_reducible apply Kept.iteFst
    | exact trivial
    | with_reducible apply Kept.next
    | with_reducible apply Kept.iteOut
    | (with_reducible apply Kept.mk; first | with_reducible assumption | with_reducible apply State.modTrail_kept | with_reducible apply State.ok_kept | with_reducible apply State.execCmd_kept | with_reducible apply State.checked_kept | with_reducible apply State.coupled_kept | with_reducible apply Kept.ite)
    | intro _
    | split

theorem execPhaseMove_kept (ref : CmdRef) (ep : BitVec 16) (dist : Q32) (v a j : F32) {s : State} (hs : Kept sn qs s) :
    nextHas (Kept sn qs) (execPhaseMove ref ep dist v a j s) := by
  unfold execPhaseMove
  try dsimp -iota only
  repeat' first
    | with_reducible assumption
    | with_reducible apply State.setFollower_kept
    | with_reducible apply State.ok_kept
    | with_reducible apply State.execCmd_kept
    | with_reducible apply State.checked_kept
    | with_reducible apply State.coupled_kept
    | with_reducible apply Kept.ite
    | with_reducible apply Kept.iteFst
    | exact trivial
    | with_reducible apply Kept.next
    | with_reducible apply Kept.iteOut
    | (with_reducible apply Kept.mk; first | with_reducible assumption | with_reducible apply State.setFollower_kept | with_reducible apply State.ok_kept | with_reducible apply State.execCmd_kept | with_reducible apply State.checked_kept | with_reducible apply State.coupled_kept | with_reducible apply Kept.ite)
    | intro _
    | split

theorem State.regear_kept {s : State} (ep b : Nat) (hs : Kept sn qs s) :
    Kept sn qs (State.regear s ep b) := by
  unfold State.regear
  try dsimp -iota only
  repeat' first
    | with_reducible assumption
    | with_reducible apply State.modTrail_kept
    | with_reducible apply State.setFollower_kept
    | with_reducible apply Kept.ite
    | with_reducible apply Kept.iteFst
    | (with_reducible apply Kept.mk; first | with_reducible assumption | with_reducible apply State.modTrail_kept | with_reducible apply State.setFollower_kept | with_reducible apply Kept.ite)
    | intro _
    | split

theorem State.recam_kept {s : State} (ep : Nat) (hs : Kept sn qs s) :
    Kept sn qs (State.recam s ep) := by
  unfold State.recam
  try dsimp -iota only
  repeat' first
    | with_reducible assumption
    | with_reducible apply State.modFollower_kept
    | with_reducible apply State.coupled_kept
    | with_reducible apply Kept.ite
    | with_reducible apply Kept.iteFst
    | (with_reducible apply Kept.mk; first | with_reducible assumption | with_reducible apply State.modFollower_kept | with_reducible apply State.coupled_kept | with_reducible apply Kept.ite)
    | intro _
    | split

theorem execConvoyPublish_kept (cp : Fin 16) {s : State} (hs : Kept sn qs s) :
    nextHas (Kept sn qs) (execConvoyPublish cp s) := by
  unfold execConvoyPublish
  try dsimp -iota only
  repeat' first
    | with_reducible assumption
    | with_reducible apply State.modPublisher_kept
    | with_reducible apply State.publish_kept
    | with_reducible apply Kept.ite
    | with_reducible apply Kept.iteFst
    | exact trivial
    | with_reducible apply Kept.next
    | with_reducible apply Kept.iteOut
    | (with_reducible apply Kept.mk; first | with_reducible assumption | with_reducible apply State.modPublisher_kept | with_reducible apply State.publish_kept | with_reducible apply Kept.ite)
    | intro _
    | split

theorem execConvoyBoundaryPublish_kept (cp : Fin 16) (tRef : Ft16) {s : State} (hs : Kept sn qs s) :
    nextHas (Kept sn qs) (execConvoyBoundaryPublish cp tRef s) := by
  unfold execConvoyBoundaryPublish
  try dsimp -iota only
  repeat' first
    | with_reducible assumption
    | with_reducible apply State.modPublisher_kept
    | with_reducible apply State.bump_kept
    | with_reducible apply State.publish_kept
    | with_reducible apply Kept.ite
    | with_reducible apply Kept.iteFst
    | exact trivial
    | with_reducible apply Kept.next
    | with_reducible apply Kept.iteOut
    | (with_reducible apply Kept.mk; first | with_reducible assumption | with_reducible apply State.modPublisher_kept | with_reducible apply State.bump_kept | with_reducible apply State.publish_kept | with_reducible apply Kept.ite)
    | intro _
    | split

theorem execConvoySupersede_kept (cp : Fin 16) (tRef : Ft16) {s : State} (hs : Kept sn qs s) :
    nextHas (Kept sn qs) (execConvoySupersede cp tRef s) := by
  unfold execConvoySupersede
  try dsimp -iota only
  repeat' first
    | with_reducible assumption
    | with_reducible apply State.publish_kept
    | with_reducible apply Kept.ite
    | with_reducible apply Kept.iteFst
    | exact trivial
    | with_reducible apply Kept.next
    | with_reducible apply Kept.iteOut
    | (with_reducible apply Kept.mk; first | with_reducible assumption | with_reducible apply State.publish_kept | with_reducible apply Kept.ite)
    | intro _
    | split

theorem State.publishMeasured_kept {s : State} (i : Nat) (t : Ft16) (m : Motion) (hs : Kept sn qs s) :
    Kept sn qs (State.publishMeasured s i t m) := by
  unfold State.publishMeasured
  try dsimp -iota only
  repeat' first
    | with_reducible assumption
    | with_reducible apply State.publish_kept
    | with_reducible apply Kept.ite
    | with_reducible apply Kept.iteFst
    | with_reducible apply Kept.foldl
    | (with_reducible apply Kept.mk; first | with_reducible assumption | with_reducible apply State.publish_kept | with_reducible apply Kept.ite)
    | intro _
    | split

theorem execConvoyRepublish_kept (cp : Fin 16) (pub : Pub) {s : State} (hs : Kept sn qs s) :
    nextHas (Kept sn qs) (execConvoyRepublish cp pub s) := by
  unfold execConvoyRepublish
  try dsimp -iota only
  repeat' first
    | with_reducible assumption
    | with_reducible apply State.publish_kept
    | with_reducible apply State.coupled_kept
    | with_reducible apply Kept.ite
    | with_reducible apply Kept.iteFst
    | exact trivial
    | with_reducible apply Kept.next
    | with_reducible apply Kept.iteOut
    | (with_reducible apply Kept.mk; first | with_reducible assumption | with_reducible apply State.publish_kept | with_reducible apply State.coupled_kept | with_reducible apply Kept.ite)
    | intro _
    | split

theorem execConvoyFrameRx_kept (f : FolEp) (pub : Pub) {s : State} (hs : Kept sn qs s) :
    nextHas (Kept sn qs) (execConvoyFrameRx f pub s) := by
  unfold execConvoyFrameRx
  try dsimp -iota only
  repeat' first
    | with_reducible assumption
    | with_reducible apply State.acceptPub_kept
    | with_reducible apply Kept.ite
    | with_reducible apply Kept.iteFst
    | exact trivial
    | with_reducible apply Kept.next
    | with_reducible apply Kept.iteOut
    | (with_reducible apply Kept.mk; first | with_reducible assumption | with_reducible apply State.acceptPub_kept | with_reducible apply Kept.ite)
    | intro _
    | split

theorem execConvoyLocalDelivery_kept (f : FolEp) (pub : Pub) {s : State} (hs : Kept sn qs s) :
    nextHas (Kept sn qs) (execConvoyLocalDelivery f pub s) := by
  unfold execConvoyLocalDelivery
  try dsimp -iota only
  repeat' first
    | with_reducible assumption
    | with_reducible apply State.acceptPub_kept
    | with_reducible apply Kept.ite
    | with_reducible apply Kept.iteFst
    | exact trivial
    | with_reducible apply Kept.next
    | with_reducible apply Kept.iteOut
    | (with_reducible apply Kept.mk; first | with_reducible assumption | with_reducible apply State.acceptPub_kept | with_reducible apply Kept.ite)
    | intro _
    | split

theorem execMasterStale_kept (f : FolEp) {s : State} (hs : Kept sn qs s) :
    nextHas (Kept sn qs) (execMasterStale f s) := by
  unfold execMasterStale
  try dsimp -iota only
  repeat' first
    | with_reducible assumption
    | with_reducible apply State.decouple_kept
    | with_reducible apply State.coupled_kept
    | with_reducible apply Kept.ite
    | with_reducible apply Kept.iteFst
    | exact trivial
    | with_reducible apply Kept.next
    | with_reducible apply Kept.iteOut
    | (with_reducible apply Kept.mk; first | with_reducible assumption | with_reducible apply State.decouple_kept | with_reducible apply State.coupled_kept | with_reducible apply Kept.ite)
    | intro _
    | split

theorem State.joinFails_kept {s : State} (ep : Nat) (j : Join) (map : Nat) (hs : Kept sn qs s) :
    Kept sn qs (State.joinFails s ep j map) := by
  unfold State.joinFails
  try dsimp -iota only
  repeat' first
    | with_reducible assumption
    | with_reducible apply State.modFollower_kept
    | with_reducible apply State.setPar_kept
    | with_reducible apply State.freeFollower_kept
    | with_reducible apply State.endJoin_kept
    | with_reducible apply Kept.ite
    | with_reducible apply Kept.iteFst
    | (with_reducible apply Kept.mk; first | with_reducible assumption | with_reducible apply State.modFollower_kept | with_reducible apply State.setPar_kept | with_reducible apply State.freeFollower_kept | with_reducible apply State.endJoin_kept | with_reducible apply Kept.ite)
    | intro _
    | split

theorem execConvoyJoinInstant_kept (fe : FolEp) {s : State} (hs : Kept sn qs s) :
    nextHas (Kept sn qs) (execConvoyJoinInstant fe s) := by
  unfold execConvoyJoinInstant
  try dsimp -iota only
  repeat' first
    | with_reducible assumption
    | with_reducible apply State.modLoop_kept
    | with_reducible apply State.modTrail_kept
    | with_reducible apply State.setFollower_kept
    | with_reducible apply State.closeTrail_kept
    | with_reducible apply State.coupled_kept
    | with_reducible apply State.joinFails_kept
    | with_reducible apply Kept.ite
    | with_reducible apply Kept.iteFst
    | exact trivial
    | with_reducible apply Kept.next
    | with_reducible apply Kept.iteOut
    | (with_reducible apply Kept.mk; first | with_reducible assumption | with_reducible apply State.modLoop_kept | with_reducible apply State.modTrail_kept | with_reducible apply State.setFollower_kept | with_reducible apply State.closeTrail_kept | with_reducible apply State.coupled_kept | with_reducible apply State.joinFails_kept | with_reducible apply Kept.ite)
    | intro _
    | split

theorem execRegMark_kept (fe : FolEp) (stamp : Ft8) {s : State} (hs : Kept sn qs s) :
    nextHas (Kept sn qs) (execRegMark fe stamp s) := by
  unfold execRegMark
  try dsimp -iota only
  repeat' first
    | with_reducible assumption
    | with_reducible apply State.setFollower_kept
    | with_reducible apply State.bump_kept
    | with_reducible apply State.log_kept
    | with_reducible apply State.coupled_kept
    | with_reducible apply Kept.ite
    | with_reducible apply Kept.iteFst
    | exact trivial
    | with_reducible apply Kept.next
    | with_reducible apply Kept.iteOut
    | (with_reducible apply Kept.mk; first | with_reducible assumption | with_reducible apply State.setFollower_kept | with_reducible apply State.bump_kept | with_reducible apply State.log_kept | with_reducible apply State.coupled_kept | with_reducible apply Kept.ite)
    | intro _
    | split

theorem execRemoteSetpointSend_kept (na : Fin 128) {s : State} (hs : Kept sn qs s) :
    nextHas (Kept sn qs) (execRemoteSetpointSend na s) := by
  unfold execRemoteSetpointSend
  try dsimp -iota only
  repeat' first
    | with_reducible assumption
    | with_reducible apply State.modFollower_kept
    | with_reducible apply State.setRemote_kept
    | with_reducible apply State.modRemote_kept
    | with_reducible apply State.setpointAt_kept
    | with_reducible apply Kept.ite
    | with_reducible apply Kept.iteFst
    | exact trivial
    | with_reducible apply Kept.next
    | with_reducible apply Kept.iteOut
    | (with_reducible apply Kept.mk; first | with_reducible assumption | with_reducible apply State.modFollower_kept | with_reducible apply State.setRemote_kept | with_reducible apply State.modRemote_kept | with_reducible apply State.setpointAt_kept | with_reducible apply Kept.ite)
    | intro _
    | split

theorem State.remoteFault_kept {s : State} (i : Nat) (hs : Kept sn qs s) :
    Kept sn qs (State.remoteFault s i) := by
  unfold State.remoteFault
  try dsimp -iota only
  repeat' first
    | with_reducible assumption
    | with_reducible apply State.modFollower_kept
    | with_reducible apply State.modRemote_kept
    | with_reducible apply State.leaveConvoy_kept
    | with_reducible apply State.endDecouple_kept
    | with_reducible apply State.complete_kept
    | with_reducible apply Kept.ite
    | with_reducible apply Kept.iteFst
    | (with_reducible apply Kept.mk; first | with_reducible assumption | with_reducible apply State.modFollower_kept | with_reducible apply State.modRemote_kept | with_reducible apply State.leaveConvoy_kept | with_reducible apply State.endDecouple_kept | with_reducible apply State.complete_kept | with_reducible apply Kept.ite)
    | intro _
    | split

theorem execRemoteFeedbackRx_kept (na : Fin 128) (fb : RemFeedback) {s : State} (hs : Kept sn qs s) :
    nextHas (Kept sn qs) (execRemoteFeedbackRx na fb s) := by
  unfold execRemoteFeedbackRx
  try dsimp -iota only
  repeat' first
    | with_reducible assumption
    | with_reducible apply State.setRemote_kept
    | with_reducible apply State.modRemote_kept
    | with_reducible apply State.bump_kept
    | with_reducible apply State.ok_kept
    | with_reducible apply State.complete_kept
    | with_reducible apply Kept.ite
    | with_reducible apply Kept.iteFst
    | exact trivial
    | with_reducible apply Kept.next
    | with_reducible apply Kept.iteOut
    | (with_reducible apply Kept.mk; first | with_reducible assumption | with_reducible apply State.setRemote_kept | with_reducible apply State.modRemote_kept | with_reducible apply State.bump_kept | with_reducible apply State.ok_kept | with_reducible apply State.complete_kept | with_reducible apply Kept.ite)
    | intro _
    | split

theorem execRemoteTimeout_kept (na : Fin 128) {s : State} (hs : Kept sn qs s) :
    nextHas (Kept sn qs) (execRemoteTimeout na s) := by
  unfold execRemoteTimeout
  try dsimp -iota only
  repeat' first
    | with_reducible assumption
    | with_reducible apply State.modRemote_kept
    | with_reducible apply State.log_kept
    | with_reducible apply State.remoteFault_kept
    | with_reducible apply Kept.ite
    | with_reducible apply Kept.iteFst
    | exact trivial
    | with_reducible apply Kept.next
    | with_reducible apply Kept.iteOut
    | (with_reducible apply Kept.mk; first | with_reducible assumption | with_reducible apply State.modRemote_kept | with_reducible apply State.log_kept | with_reducible apply State.remoteFault_kept | with_reducible apply Kept.ite)
    | intro _
    | split

theorem execRemoteEnableTimeout_kept (na : Fin 128) {s : State} (hs : Kept sn qs s) :
    nextHas (Kept sn qs) (execRemoteEnableTimeout na s) := by
  unfold execRemoteEnableTimeout
  try dsimp -iota only
  repeat' first
    | with_reducible assumption
    | with_reducible apply State.remoteFault_kept
    | with_reducible apply Kept.ite
    | with_reducible apply Kept.iteFst
    | exact trivial
    | with_reducible apply Kept.next
    | with_reducible apply Kept.iteOut
    | (with_reducible apply Kept.mk; first | with_reducible assumption | with_reducible apply State.remoteFault_kept | with_reducible apply Kept.ite)
    | intro _
    | split

end Sys2Proof.Machine
end

