-- ==== Sys2Proof/Laws/KeptTrail.lean ====
section
/-! SUPPORT. Every operation of Machine/Trail.lean keeps the queue and the soundness of the state. -/

set_option linter.all false
namespace Sys2Proof.Machine

variable {sn : Bool} {qs : List Instr}

theorem State.clearUncertain_kept {s : State} (ep : Nat) (hs : Kept sn qs s) :
    Kept sn qs (State.clearUncertain s ep) := by
  unfold State.clearUncertain
  try dsimp -iota only
  repeat' first
    | with_reducible assumption
    | with_reducible apply State.modFb_kept
    | with_reducible apply State.modStepper_kept
    | with_reducible apply Kept.ite
    | with_reducible apply Kept.iteFst
    | (with_reducible apply Kept.mk; first | with_reducible assumption | with_reducible apply State.modFb_kept | with_reducible apply State.modStepper_kept | with_reducible apply Kept.ite)
    | intro _
    | split

theorem State.rampFrom_kept {s : State} (ep x : Nat) (lim : Rat × Rat) (hs : Kept sn qs s) :
    Kept sn qs (State.rampFrom s ep x lim) := by
  unfold State.rampFrom
  try dsimp -iota only
  repeat' first
    | with_reducible assumption
    | with_reducible apply State.setTrail_kept
    | with_reducible apply Kept.ite
    | with_reducible apply Kept.iteFst
    | (with_reducible apply Kept.mk; first | with_reducible assumption | with_reducible apply State.setTrail_kept | with_reducible apply Kept.ite)
    | intro _
    | split

theorem execTrailAppend_kept (ref : CmdRef) (ep : BitVec 16) (moves : List MoveRec) {s : State} (hs : Kept sn qs s) :
    nextHas (Kept sn qs) (execTrailAppend ref ep moves s) := by
  unfold execTrailAppend
  try dsimp -iota only
  repeat' first
    | with_reducible assumption
    | with_reducible apply State.modTrail_kept
    | with_reducible apply State.took_kept
    | with_reducible apply State.run_kept
    | with_reducible apply State.execCmd_kept
    | with_reducible apply State.checked_kept
    | with_reducible apply State.writeReport_kept
    | with_reducible apply Kept.ite
    | with_reducible apply Kept.iteFst
    | exact trivial
    | with_reducible apply Kept.next
    | with_reducible apply Kept.iteOut
    | (with_reducible apply Kept.mk; first | with_reducible assumption | with_reducible apply State.modTrail_kept | with_reducible apply State.took_kept | with_reducible apply State.run_kept | with_reducible apply State.execCmd_kept | with_reducible apply State.checked_kept | with_reducible apply State.writeReport_kept | with_reducible apply Kept.ite)
    | intro _
    | split

theorem execTrailPlanned_kept (ep : TrailEp) {s : State} (hs : Kept sn qs s) :
    nextHas (Kept sn qs) (execTrailPlanned ep s) := by
  unfold execTrailPlanned
  try dsimp -iota only
  repeat' first
    | with_reducible assumption
    | with_reducible apply State.setTrail_kept
    | with_reducible apply State.ok_kept
    | with_reducible apply Kept.ite
    | with_reducible apply Kept.iteFst
    | with_reducible apply Kept.foldlFst
    | with_reducible apply Kept.foldl
    | exact trivial
    | with_reducible apply Kept.next
    | with_reducible apply Kept.iteOut
    | (with_reducible apply Kept.mk; first | with_reducible assumption | with_reducible apply State.setTrail_kept | with_reducible apply State.ok_kept | with_reducible apply Kept.ite)
    | intro _
    | split

theorem State.writeSegs_kept {s : State} (ep : Nat) (segs : List Seg) (hs : Kept sn qs s) :
    Kept sn qs (State.writeSegs s ep segs) := by
  unfold State.writeSegs
  try dsimp -iota only
  repeat' first
    | with_reducible assumption
    | with_reducible apply State.setTrail_kept
    | with_reducible apply Kept.ite
    | with_reducible apply Kept.iteFst
    | (with_reducible apply Kept.mk; first | with_reducible assumption | with_reducible apply State.setTrail_kept | with_reducible apply Kept.ite)
    | intro _
    | split

theorem State.lateSoft_kept {s : State} (ep : Nat) (g : Seg) (hs : Kept sn qs s) :
    ∀ t, (State.lateSoft s ep g) = some t → Kept sn qs t := by
  intro t ht
  unfold State.lateSoft at ht
  extract_lets t0 at ht
  split at ht
  · cases ht
  · split at ht
    · cases ht
    · cases ht
      exact State.log_kept _ _ _ (State.rampFrom_kept _ _ _ (State.setTrail_kept _ _ hs))

theorem State.planView_kept {s : State} (ep x : Nat) (hs : Kept sn qs s) :
    Kept sn qs (State.planView s ep x) := by
  unfold State.planView
  try dsimp -iota only
  repeat' first
    | with_reducible assumption
    | with_reducible apply State.setTrail_kept
    | with_reducible apply Kept.ite
    | with_reducible apply Kept.iteFst
    | (with_reducible apply Kept.mk; first | with_reducible assumption | with_reducible apply State.setTrail_kept | with_reducible apply Kept.ite)
    | intro _
    | split

theorem execPlannerSegmentWrite_kept (ep : TrailEp) (segs : List Seg) {s : State} (hs : Kept sn qs s) :
    nextHas (Kept sn qs) (execPlannerSegmentWrite ep segs s) := by
  unfold execPlannerSegmentWrite
  refine Kept.next ?_
  extract_lets e t f follower inGroup grp x planned moving movesKnown
  refine Kept.ite hs (Kept.ite (Kept.ite (State.modFollower_kept _ _ (State.writeSegs_kept _ _ hs))
    (Kept.ite (State.writeSegs_kept _ _ hs) hs)) (Kept.ite hs ?_))
  split
  · rename_i s1 h1
    cases hh : segs.head? with
    | none => rw [hh] at h1; cases h1
    | some g => rw [hh] at h1; exact State.lateSoft_kept _ g hs _ h1
  · exact State.modTrail_kept _ _ (State.writeSegs_kept _ _ hs)

theorem execGroupSegmentSend_kept (group : Fin 32) (member : Fin 8) (segs : List Seg) {s : State} (hs : Kept sn qs s) :
    nextHas (Kept sn qs) (execGroupSegmentSend group member segs s) := by
  unfold execGroupSegmentSend
  try dsimp -iota only
  repeat' first
    | with_reducible assumption
    | with_reducible apply Kept.ite
    | with_reducible apply Kept.iteFst
    | exact trivial
    | with_reducible apply Kept.next
    | with_reducible apply Kept.iteOut
    | (with_reducible apply Kept.mk; first | with_reducible assumption | with_reducible apply Kept.ite)
    | intro _
    | split

theorem execGroupSegmentRx_kept (ep : TrailEp) (segs : List Seg) {s : State} (hs : Kept sn qs s) :
    nextHas (Kept sn qs) (execGroupSegmentRx ep segs s) := by
  unfold execGroupSegmentRx
  try dsimp -iota only
  repeat' first
    | with_reducible assumption
    | with_reducible apply State.modTrail_kept
    | with_reducible apply State.writeSegs_kept
    | with_reducible apply Kept.ite
    | with_reducible apply Kept.iteFst
    | exact trivial
    | with_reducible apply Kept.next
    | with_reducible apply Kept.iteOut
    | (with_reducible apply Kept.mk; first | with_reducible assumption | with_reducible apply State.modTrail_kept | with_reducible apply State.writeSegs_kept | with_reducible apply Kept.ite)
    | intro _
    | split

theorem State.holdAsVel_kept {s : State} (ep : Nat) (p v : Q32) (x : Nat) (hs : Kept sn qs s) :
    Kept sn qs (State.holdAsVel s ep p v x) := by
  unfold State.holdAsVel
  try dsimp -iota only
  repeat' first
    | with_reducible assumption
    | with_reducible apply State.modTrail_kept
    | with_reducible apply Kept.ite
    | with_reducible apply Kept.iteFst
    | (with_reducible apply Kept.mk; first | with_reducible assumption | with_reducible apply State.modTrail_kept | with_reducible apply Kept.ite)
    | intro _
    | split

theorem execWaymarkPassed_kept (ep : TrailEp) {s : State} (hs : Kept sn qs s) :
    nextHas (Kept sn qs) (execWaymarkPassed ep s) := by
  unfold execWaymarkPassed
  try dsimp -iota only
  repeat' first
    | with_reducible assumption
    | with_reducible apply State.modTrail_kept
    | with_reducible apply State.bump_kept
    | with_reducible apply State.bumpIf_kept
    | with_reducible apply State.logAt_kept
    | with_reducible apply Kept.ite
    | with_reducible apply Kept.iteFst
    | exact trivial
    | with_reducible apply Kept.next
    | with_reducible apply Kept.iteOut
    | (with_reducible apply Kept.mk; first | with_reducible assumption | with_reducible apply State.modTrail_kept | with_reducible apply State.bump_kept | with_reducible apply State.bumpIf_kept | with_reducible apply State.logAt_kept | with_reducible apply Kept.ite)
    | intro _
    | split

theorem execTrailLimits_kept (ref : CmdRef) (ep : BitVec 16) (scope mask : Byte) (aMax dMax jerk : F32) (_meets : Held) {s : State} (hs : Kept sn qs s) :
    nextHas (Kept sn qs) (execTrailLimits ref ep scope mask aMax dMax jerk _meets s) := by
  unfold execTrailLimits
  try dsimp -iota only
  repeat' first
    | with_reducible assumption
    | with_reducible apply State.modTrail_kept
    | with_reducible apply State.bumpIf_kept
    | with_reducible apply State.ok_kept
    | with_reducible apply State.execCmd_kept
    | with_reducible apply State.checked_kept
    | with_reducible apply Kept.ite
    | with_reducible apply Kept.iteFst
    | exact trivial
    | with_reducible apply Kept.next
    | with_reducible apply Kept.iteOut
    | (with_reducible apply Kept.mk; first | with_reducible assumption | with_reducible apply State.modTrail_kept | with_reducible apply State.bumpIf_kept | with_reducible apply State.ok_kept | with_reducible apply State.execCmd_kept | with_reducible apply State.checked_kept | with_reducible apply Kept.ite)
    | intro _
    | split

theorem execTrailCancel_kept (ref : CmdRef) (ep : BitVec 16) (mode : Byte) {s : State} (hs : Kept sn qs s) :
    nextHas (Kept sn qs) (execTrailCancel ref ep mode s) := by
  unfold execTrailCancel
  try dsimp -iota only
  repeat' first
    | with_reducible assumption
    | with_reducible apply State.modTrail_kept
    | with_reducible apply State.took_kept
    | with_reducible apply State.ok_kept
    | with_reducible apply State.execCmd_kept
    | with_reducible apply State.checked_kept
    | with_reducible apply Kept.ite
    | with_reducible apply Kept.iteFst
    | exact trivial
    | with_reducible apply Kept.next
    | with_reducible apply Kept.iteOut
    | (with_reducible apply Kept.mk; first | with_reducible assumption | with_reducible apply State.modTrail_kept | with_reducible apply State.took_kept | with_reducible apply State.ok_kept | with_reducible apply State.execCmd_kept | with_reducible apply State.checked_kept | with_reducible apply Kept.ite)
    | intro _
    | split

theorem State.cancelAt_kept {s : State} (ep b : Nat) (wm : BitVec 32) (hs : Kept sn qs s) :
    Kept sn qs (State.cancelAt s ep b wm) := by
  unfold State.cancelAt
  try dsimp -iota only
  repeat' first
    | with_reducible assumption
    | with_reducible apply State.setTrail_kept
    | with_reducible apply State.modTrail_kept
    | with_reducible apply State.bumpIf_kept
    | with_reducible apply State.abortAppends_kept
    | with_reducible apply State.endHoming_kept
    | with_reducible apply State.pathRest_kept
    | with_reducible apply State.rampFrom_kept
    | with_reducible apply Kept.ite
    | with_reducible apply Kept.iteFst
    | (with_reducible apply Kept.mk; first | with_reducible assumption | with_reducible apply State.setTrail_kept | with_reducible apply State.modTrail_kept | with_reducible apply State.bumpIf_kept | with_reducible apply State.abortAppends_kept | with_reducible apply State.endHoming_kept | with_reducible apply State.pathRest_kept | with_reducible apply State.rampFrom_kept | with_reducible apply Kept.ite)
    | intro _
    | split

theorem State.leaveAt_kept {s : State} (ep b mode : Nat) (hs : Kept sn qs s) :
    Kept sn qs (State.leaveAt s ep b mode) := by
  unfold State.leaveAt
  try dsimp -iota only
  repeat' first
    | with_reducible assumption
    | with_reducible apply State.setTrail_kept
    | with_reducible apply State.leaveConvoy_kept
    | with_reducible apply State.remoteRest_kept
    | with_reducible apply State.setpointAt_kept
    | with_reducible apply State.holdAsVel_kept
    | with_reducible apply Kept.ite
    | with_reducible apply Kept.iteFst
    | (with_reducible apply Kept.mk; first | with_reducible assumption | with_reducible apply State.setTrail_kept | with_reducible apply State.leaveConvoy_kept | with_reducible apply State.remoteRest_kept | with_reducible apply State.setpointAt_kept | with_reducible apply State.holdAsVel_kept | with_reducible apply Kept.ite)
    | intro _
    | split

theorem execTrailChangeInstant_kept (ep : TrailEp) {s : State} (hs : Kept sn qs s) :
    nextHas (Kept sn qs) (execTrailChangeInstant ep s) := by
  unfold execTrailChangeInstant
  try dsimp -iota only
  repeat' first
    | with_reducible assumption
    | with_reducible apply State.modTrail_kept
    | with_reducible apply State.dropChange_kept
    | with_reducible apply State.cancelAt_kept
    | with_reducible apply State.leaveAt_kept
    | with_reducible apply Kept.ite
    | with_reducible apply Kept.iteFst
    | exact trivial
    | with_reducible apply Kept.next
    | with_reducible apply Kept.iteOut
    | (with_reducible apply Kept.mk; first | with_reducible assumption | with_reducible apply State.modTrail_kept | with_reducible apply State.dropChange_kept | with_reducible apply State.cancelAt_kept | with_reducible apply State.leaveAt_kept | with_reducible apply Kept.ite)
    | intro _
    | split

theorem State.shiftPos_kept {s : State} (ep : Nat) (d : Q32) (hs : Kept sn qs s) :
    Kept sn qs (State.shiftPos s ep d) := by
  unfold State.shiftPos
  try dsimp -iota only
  repeat' first
    | with_reducible assumption
    | with_reducible apply State.modLoop_kept
    | with_reducible apply State.modFlags_kept
    | with_reducible apply State.modTrail_kept
    | with_reducible apply State.modVirt_kept
    | with_reducible apply State.modStepper_kept
    | with_reducible apply Kept.ite
    | with_reducible apply Kept.iteFst
    | (with_reducible apply Kept.mk; first | with_reducible assumption | with_reducible apply State.modLoop_kept | with_reducible apply State.modFlags_kept | with_reducible apply State.modTrail_kept | with_reducible apply State.modVirt_kept | with_reducible apply State.modStepper_kept | with_reducible apply Kept.ite)
    | intro _
    | split

theorem State.setPos_kept {s : State} (ep : Nat) (p : Q32) (hs : Kept sn qs s) :
    Kept sn qs (State.setPos s ep p) := by
  unfold State.setPos
  try dsimp -iota only
  repeat' first
    | with_reducible assumption
    | with_reducible apply State.modTrail_kept
    | with_reducible apply State.clearUncertain_kept
    | with_reducible apply State.shiftPos_kept
    | with_reducible apply Kept.ite
    | with_reducible apply Kept.iteFst
    | (with_reducible apply Kept.mk; first | with_reducible assumption | with_reducible apply State.modTrail_kept | with_reducible apply State.clearUncertain_kept | with_reducible apply State.shiftPos_kept | with_reducible apply Kept.ite)
    | intro _
    | split

theorem execPosSet_kept (ref : CmdRef) (ep : BitVec 16) (pos : Q32) {s : State} (hs : Kept sn qs s) :
    nextHas (Kept sn qs) (execPosSet ref ep pos s) := by
  unfold execPosSet
  try dsimp -iota only
  repeat' first
    | with_reducible assumption
    | with_reducible apply State.ok_kept
    | with_reducible apply State.execCmd_kept
    | with_reducible apply State.checked_kept
    | with_reducible apply State.setPos_kept
    | with_reducible apply Kept.ite
    | with_reducible apply Kept.iteFst
    | exact trivial
    | with_reducible apply Kept.next
    | with_reducible apply Kept.iteOut
    | (with_reducible apply Kept.mk; first | with_reducible assumption | with_reducible apply State.ok_kept | with_reducible apply State.execCmd_kept | with_reducible apply State.checked_kept | with_reducible apply State.setPos_kept | with_reducible apply Kept.ite)
    | intro _
    | split

theorem execHome_kept (ref : CmdRef) (ep : BitVec 16) {s : State} (hs : Kept sn qs s) :
    nextHas (Kept sn qs) (execHome ref ep s) := by
  unfold execHome
  try dsimp -iota only
  repeat' first
    | with_reducible assumption
    | with_reducible apply State.setTrail_kept
    | with_reducible apply State.modTrail_kept
    | with_reducible apply State.log_kept
    | with_reducible apply State.ok_kept
    | with_reducible apply State.run_kept
    | with_reducible apply State.execCmd_kept
    | with_reducible apply State.checked_kept
    | with_reducible apply State.setPos_kept
    | with_reducible apply Kept.ite
    | with_reducible apply Kept.iteFst
    | exact trivial
    | with_reducible apply Kept.next
    | with_reducible apply Kept.iteOut
    | (with_reducible apply Kept.mk; first | with_reducible assumption | with_reducible apply State.setTrail_kept | with_reducible apply State.modTrail_kept | with_reducible apply State.log_kept | with_reducible apply State.ok_kept | with_reducible apply State.run_kept | with_reducible apply State.execCmd_kept | with_reducible apply State.checked_kept | with_reducible apply State.setPos_kept | with_reducible apply Kept.ite)
    | intro _
    | split

theorem State.homePhase_kept {s : State} (ep : Nat) (p : HomePhase) (hs : Kept sn qs s) :
    Kept sn qs (State.homePhase s ep p) := by
  unfold State.homePhase
  try dsimp -iota only
  repeat' first
    | with_reducible assumption
    | with_reducible apply State.modTrail_kept
    | with_reducible apply Kept.ite
    | with_reducible apply Kept.iteFst
    | (with_reducible apply Kept.mk; first | with_reducible assumption | with_reducible apply State.modTrail_kept | with_reducible apply Kept.ite)
    | intro _
    | split

theorem State.stepperHalts_kept {s : State} (ep : Nat) (hs : Kept sn qs s) :
    Kept sn qs (State.stepperHalts s ep) := by
  unfold State.stepperHalts
  try dsimp -iota only
  repeat' first
    | with_reducible assumption
    | with_reducible apply State.modTrail_kept
    | with_reducible apply State.stpHalt_kept
    | with_reducible apply Kept.ite
    | with_reducible apply Kept.iteFst
    | (with_reducible apply Kept.mk; first | with_reducible assumption | with_reducible apply State.modTrail_kept | with_reducible apply State.stpHalt_kept | with_reducible apply Kept.ite)
    | intro _
    | split

theorem State.homeNotFound_kept {s : State} (ep : Nat) (hs : Kept sn qs s) :
    Kept sn qs (State.homeNotFound s ep) := by
  unfold State.homeNotFound
  try dsimp -iota only
  repeat' first
    | with_reducible assumption
    | with_reducible apply State.setTrail_kept
    | with_reducible apply State.modTrail_kept
    | with_reducible apply State.bump_kept
    | with_reducible apply State.log_kept
    | with_reducible apply State.rampFrom_kept
    | with_reducible apply Kept.ite
    | with_reducible apply Kept.iteFst
    | (with_reducible apply Kept.mk; first | with_reducible assumption | with_reducible apply State.setTrail_kept | with_reducible apply State.modTrail_kept | with_reducible apply State.bump_kept | with_reducible apply State.log_kept | with_reducible apply State.rampFrom_kept | with_reducible apply Kept.ite)
    | intro _
    | split

theorem State.stopAxis_kept {s : State} (ep cat cause : Nat) (hs : Kept sn qs s) :
    Kept sn qs (State.stopAxis s ep cat cause) := by
  unfold State.stopAxis
  try dsimp -iota only
  repeat' first
    | with_reducible assumption
    | with_reducible apply State.requestStop_kept
    | with_reducible apply State.stpStop_kept
    | with_reducible apply State.virtStop_kept
    | with_reducible apply Kept.ite
    | with_reducible apply Kept.iteFst
    | (with_reducible apply Kept.mk; first | with_reducible assumption | with_reducible apply State.requestStop_kept | with_reducible apply State.stpStop_kept | with_reducible apply State.virtStop_kept | with_reducible apply Kept.ite)
    | intro _
    | split

theorem State.homeChatter_kept {s : State} (ep input : Nat) (hs : Kept sn qs s) :
    Kept sn qs (State.homeChatter s ep input) := by
  unfold State.homeChatter
  try dsimp -iota only
  repeat' first
    | with_reducible assumption
    | with_reducible apply State.bump_kept
    | with_reducible apply State.log_kept
    | with_reducible apply State.endHoming_kept
    | with_reducible apply State.stopAxis_kept
    | with_reducible apply Kept.ite
    | with_reducible apply Kept.iteFst
    | (with_reducible apply Kept.mk; first | with_reducible assumption | with_reducible apply State.bump_kept | with_reducible apply State.log_kept | with_reducible apply State.endHoming_kept | with_reducible apply State.stopAxis_kept | with_reducible apply Kept.ite)
    | intro _
    | split

theorem State.homeEdge_kept {s : State} (ep : Nat) (stamp : Ft8) (hs : Kept sn qs s) :
    Kept sn qs (State.homeEdge s ep stamp) := by
  unfold State.homeEdge
  try dsimp -iota only
  repeat' first
    | with_reducible assumption
    | with_reducible apply State.modTrail_kept
    | with_reducible apply State.sampleXt_kept
    | with_reducible apply State.rampFrom_kept
    | with_reducible apply State.stepperHalts_kept
    | with_reducible apply Kept.ite
    | with_reducible apply Kept.iteFst
    | (with_reducible apply Kept.mk; first | with_reducible assumption | with_reducible apply State.modTrail_kept | with_reducible apply State.sampleXt_kept | with_reducible apply State.rampFrom_kept | with_reducible apply State.stepperHalts_kept | with_reducible apply Kept.ite)
    | intro _
    | split

theorem State.homeInputEdge_kept {s : State} (ep : Nat) (active : Bool) (stamp : Ft8) (hs : Kept sn qs s) :
    Kept sn qs (State.homeInputEdge s ep active stamp) := by
  unfold State.homeInputEdge
  try dsimp -iota only
  repeat' first
    | with_reducible assumption
    | with_reducible apply State.modTrail_kept
    | with_reducible apply State.homePhase_kept
    | with_reducible apply State.stepperHalts_kept
    | with_reducible apply State.homeEdge_kept
    | with_reducible apply Kept.ite
    | with_reducible apply Kept.iteFst
    | (with_reducible apply Kept.mk; first | with_reducible assumption | with_reducible apply State.modTrail_kept | with_reducible apply State.homePhase_kept | with_reducible apply State.stepperHalts_kept | with_reducible apply State.homeEdge_kept | with_reducible apply Kept.ite)
    | intro _
    | split

theorem State.homeLimitEdge_kept {s : State} (ep : Nat) (up : Bool) (stamp : Ft8) (hs : Kept sn qs s) :
    Kept sn qs (State.homeLimitEdge s ep up stamp) := by
  unfold State.homeLimitEdge
  try dsimp -iota only
  repeat' first
    | with_reducible assumption
    | with_reducible apply State.rampFrom_kept
    | with_reducible apply State.homePhase_kept
    | with_reducible apply State.stepperHalts_kept
    | with_reducible apply State.homeNotFound_kept
    | with_reducible apply Kept.ite
    | with_reducible apply Kept.iteFst
    | (with_reducible apply Kept.mk; first | with_reducible assumption | with_reducible apply State.rampFrom_kept | with_reducible apply State.homePhase_kept | with_reducible apply State.stepperHalts_kept | with_reducible apply State.homeNotFound_kept | with_reducible apply Kept.ite)
    | intro _
    | split

theorem State.limitEdge_kept {s : State} (ep input : Nat) (up active : Bool) (stamp : Ft8) (hs : Kept sn qs s) :
    Kept sn qs (State.limitEdge s ep input up active stamp) := by
  unfold State.limitEdge
  try dsimp -iota only
  repeat' first
    | with_reducible assumption
    | with_reducible apply State.modTrail_kept
    | with_reducible apply State.bump_kept
    | with_reducible apply State.log_kept
    | with_reducible apply State.stopAxis_kept
    | with_reducible apply State.homeChatter_kept
    | with_reducible apply State.homeLimitEdge_kept
    | with_reducible apply Kept.ite
    | with_reducible apply Kept.iteFst
    | (with_reducible apply Kept.mk; first | with_reducible assumption | with_reducible apply State.modTrail_kept | with_reducible apply State.bump_kept | with_reducible apply State.log_kept | with_reducible apply State.stopAxis_kept | with_reducible apply State.homeChatter_kept | with_reducible apply State.homeLimitEdge_kept | with_reducible apply Kept.ite)
    | intro _
    | split

theorem State.readInputs_kept {s : State} (ep : Nat) (hs : Kept sn qs s) :
    Kept sn qs (State.readInputs s ep) := by
  unfold State.readInputs
  try dsimp -iota only
  repeat' first
    | with_reducible assumption
    | with_reducible apply State.modTrail_kept
    | with_reducible apply Kept.ite
    | with_reducible apply Kept.iteFst
    | (with_reducible apply Kept.mk; first | with_reducible assumption | with_reducible apply State.modTrail_kept | with_reducible apply Kept.ite)
    | intro _
    | split

theorem State.inputChanged_kept {s : State} (input : Nat) (level : Bool) (stamp : Ft8) (hs : Kept sn qs s) :
    Kept sn qs (State.inputChanged s input level stamp) := by
  unfold State.inputChanged
  try dsimp -iota only
  repeat' first
    | with_reducible assumption
    | with_reducible apply State.modTrail_kept
    | with_reducible apply State.homeInputEdge_kept
    | with_reducible apply State.limitEdge_kept
    | with_reducible apply Kept.ite
    | with_reducible apply Kept.iteFst
    | with_reducible apply Kept.foldl
    | (with_reducible apply Kept.mk; first | with_reducible assumption | with_reducible apply State.modTrail_kept | with_reducible apply State.homeInputEdge_kept | with_reducible apply State.limitEdge_kept | with_reducible apply Kept.ite)
    | intro _
    | split

theorem State.homeInterp_kept {s : State} (i : Nat) (hs : Kept sn qs s) :
    Kept sn qs (State.homeInterp s i) := by
  unfold State.homeInterp
  try dsimp -iota only
  repeat' first
    | with_reducible assumption
    | with_reducible apply State.setTrail_kept
    | with_reducible apply Kept.ite
    | with_reducible apply Kept.iteFst
    | (with_reducible apply Kept.mk; first | with_reducible assumption | with_reducible apply State.setTrail_kept | with_reducible apply Kept.ite)
    | intro _
    | split

theorem State.homeDone_kept {s : State} (ep : Nat) (hs : Kept sn qs s) :
    Kept sn qs (State.homeDone s ep) := by
  unfold State.homeDone
  try dsimp -iota only
  repeat' first
    | with_reducible assumption
    | with_reducible apply State.modTrail_kept
    | with_reducible apply State.ok_kept
    | with_reducible apply State.endHoming_kept
    | with_reducible apply Kept.ite
    | with_reducible apply Kept.iteFst
    | (with_reducible apply Kept.mk; first | with_reducible assumption | with_reducible apply State.modTrail_kept | with_reducible apply State.ok_kept | with_reducible apply State.endHoming_kept | with_reducible apply Kept.ite)
    | intro _
    | split

theorem State.homeRest_kept {s : State} (ep : Nat) (p : Q32) (hs : Kept sn qs s) :
    Kept sn qs (State.homeRest s ep p) := by
  unfold State.homeRest
  try dsimp -iota only
  repeat' first
    | with_reducible assumption
    | with_reducible apply State.modQuad_kept
    | with_reducible apply State.modTrail_kept
    | with_reducible apply State.logAt_kept
    | with_reducible apply State.finishOpt_kept
    | with_reducible apply State.clearUncertain_kept
    | with_reducible apply State.shiftPos_kept
    | with_reducible apply State.homePhase_kept
    | with_reducible apply State.homeDone_kept
    | with_reducible apply Kept.ite
    | with_reducible apply Kept.iteFst
    | (with_reducible apply Kept.mk; first | with_reducible assumption | with_reducible apply State.modQuad_kept | with_reducible apply State.modTrail_kept | with_reducible apply State.logAt_kept | with_reducible apply State.finishOpt_kept | with_reducible apply State.clearUncertain_kept | with_reducible apply State.shiftPos_kept | with_reducible apply State.homePhase_kept | with_reducible apply State.homeDone_kept | with_reducible apply Kept.ite)
    | intro _
    | split

theorem State.homeWatch_kept {s : State} (ep : Nat) (hs : Kept sn qs s) :
    Kept sn qs (State.homeWatch s ep) := by
  unfold State.homeWatch
  try dsimp -iota only
  repeat' first
    | with_reducible assumption
    | with_reducible apply State.homePhase_kept
    | with_reducible apply State.homeNotFound_kept
    | with_reducible apply Kept.ite
    | with_reducible apply Kept.iteFst
    | (with_reducible apply Kept.mk; first | with_reducible assumption | with_reducible apply State.homePhase_kept | with_reducible apply State.homeNotFound_kept | with_reducible apply Kept.ite)
    | intro _
    | split

theorem State.softRest_kept {s : State} (ep : Nat) (m : Move) (hs : Kept sn qs s) :
    Kept sn qs (State.softRest s ep m) := by
  unfold State.softRest
  try dsimp -iota only
  repeat' first
    | with_reducible assumption
    | with_reducible apply State.setTrail_kept
    | with_reducible apply State.log_kept
    | with_reducible apply Kept.ite
    | with_reducible apply Kept.iteFst
    | (with_reducible apply Kept.mk; first | with_reducible assumption | with_reducible apply State.setTrail_kept | with_reducible apply State.log_kept | with_reducible apply Kept.ite)
    | intro _
    | split

theorem State.stopOther_kept {s : State} (ep cat : Nat) (hs : Kept sn qs s) :
    Kept sn qs (State.stopOther s ep cat) := by
  unfold State.stopOther
  try dsimp -iota only
  repeat' first
    | with_reducible assumption
    | with_reducible apply State.modRemote_kept
    | with_reducible apply State.stpStop_kept
    | with_reducible apply State.stpDisable_kept
    | with_reducible apply State.virtStop_kept
    | with_reducible apply State.remoteRest_kept
    | with_reducible apply Kept.ite
    | with_reducible apply Kept.iteFst
    | (with_reducible apply Kept.mk; first | with_reducible assumption | with_reducible apply State.modRemote_kept | with_reducible apply State.stpStop_kept | with_reducible apply State.stpDisable_kept | with_reducible apply State.virtStop_kept | with_reducible apply State.remoteRest_kept | with_reducible apply Kept.ite)
    | intro _
    | split

theorem State.stopMembers_kept {s : State} (g cat : Nat) (hs : Kept sn qs s) :
    Kept sn qs (State.stopMembers s g cat) := by
  unfold State.stopMembers
  try dsimp -iota only
  repeat' first
    | with_reducible assumption
    | with_reducible apply State.requestStop_kept
    | with_reducible apply State.stopOther_kept
    | with_reducible apply Kept.ite
    | with_reducible apply Kept.iteFst
    | with_reducible apply Kept.foldl
    | (with_reducible apply Kept.mk; first | with_reducible assumption | with_reducible apply State.requestStop_kept | with_reducible apply State.stopOther_kept | with_reducible apply Kept.ite)
    | intro _
    | split

theorem State.groupAtRest_kept {s : State} (ep : Nat) (hs : Kept sn qs s) :
    Kept sn qs (State.groupAtRest s ep) := by
  unfold State.groupAtRest
  try dsimp -iota only
  repeat' first
    | with_reducible assumption
    | with_reducible apply State.modTrail_kept
    | with_reducible apply State.groupRest_kept
    | with_reducible apply State.stopMembers_kept
    | with_reducible apply Kept.ite
    | with_reducible apply Kept.iteFst
    | (with_reducible apply Kept.mk; first | with_reducible assumption | with_reducible apply State.modTrail_kept | with_reducible apply State.groupRest_kept | with_reducible apply State.stopMembers_kept | with_reducible apply Kept.ite)
    | intro _
    | split

theorem State.trailRest_kept {s : State} (ep : Nat) (hs : Kept sn qs s) :
    Kept sn qs (State.trailRest s ep) := by
  unfold State.trailRest
  try dsimp -iota only
  repeat' first
    | with_reducible assumption
    | with_reducible apply State.modTrail_kept
    | with_reducible apply State.writeReport_kept
    | with_reducible apply State.homeRest_kept
    | with_reducible apply State.homeWatch_kept
    | with_reducible apply State.softRest_kept
    | with_reducible apply State.groupAtRest_kept
    | with_reducible apply Kept.ite
    | with_reducible apply Kept.iteFst
    | (with_reducible apply Kept.mk; first | with_reducible assumption | with_reducible apply State.modTrail_kept | with_reducible apply State.writeReport_kept | with_reducible apply State.homeRest_kept | with_reducible apply State.homeWatch_kept | with_reducible apply State.softRest_kept | with_reducible apply State.groupAtRest_kept | with_reducible apply Kept.ite)
    | intro _
    | split

theorem State.stopServo_kept {s : State} (k i cat : Nat) (hs : Kept sn qs s) :
    Kept sn qs (State.stopServo s k i cat) := by
  unfold State.stopServo
  try dsimp -iota only
  repeat' first
    | with_reducible assumption
    | with_reducible apply State.modLoop_kept
    | with_reducible apply State.ok_kept
    | with_reducible apply State.await_kept
    | with_reducible apply State.requestStop_kept
    | with_reducible apply Kept.ite
    | with_reducible apply Kept.iteFst
    | (with_reducible apply Kept.mk; first | with_reducible assumption | with_reducible apply State.modLoop_kept | with_reducible apply State.ok_kept | with_reducible apply State.await_kept | with_reducible apply State.requestStop_kept | with_reducible apply Kept.ite)
    | intro _
    | split

theorem State.stopGroup_kept {s : State} (g cat : Nat) (hs : Kept sn qs s) :
    Kept sn qs (State.stopGroup s g cat) := by
  unfold State.stopGroup
  try dsimp -iota only
  repeat' first
    | with_reducible assumption
    | with_reducible apply State.modTrail_kept
    | with_reducible apply State.endMotion_kept
    | with_reducible apply State.endPath_kept
    | with_reducible apply State.stopMembers_kept
    | with_reducible apply Kept.ite
    | with_reducible apply Kept.iteFst
    | (with_reducible apply Kept.mk; first | with_reducible assumption | with_reducible apply State.modTrail_kept | with_reducible apply State.endMotion_kept | with_reducible apply State.endPath_kept | with_reducible apply State.stopMembers_kept | with_reducible apply Kept.ite)
    | intro _
    | split

theorem execVirtualAxisSample_kept (va : Fin 256) {s : State} (hs : Kept sn qs s) :
    nextHas (Kept sn qs) (execVirtualAxisSample va s) := by
  unfold execVirtualAxisSample
  try dsimp -iota only
  repeat' first
    | with_reducible assumption
    | with_reducible apply State.modVirt_kept
    | with_reducible apply State.bumpIf_kept
    | with_reducible apply State.fireCrossings_kept
    | with_reducible apply State.sampleXt_kept
    | with_reducible apply State.virtStop_kept
    | with_reducible apply State.virtStopped_kept
    | with_reducible apply State.setpointAt_kept
    | with_reducible apply State.trailRest_kept
    | with_reducible apply Kept.ite
    | with_reducible apply Kept.iteFst
    | exact trivial
    | with_reducible apply Kept.next
    | with_reducible apply Kept.iteOut
    | (with_reducible apply Kept.mk; first | with_reducible assumption | with_reducible apply State.modVirt_kept | with_reducible apply State.bumpIf_kept | with_reducible apply State.fireCrossings_kept | with_reducible apply State.sampleXt_kept | with_reducible apply State.virtStop_kept | with_reducible apply State.virtStopped_kept | with_reducible apply State.setpointAt_kept | with_reducible apply State.trailRest_kept | with_reducible apply Kept.ite)
    | intro _
    | split

end Sys2Proof.Machine
end

