-- ==== Sys2Proof/Laws/KeptEngine.lean ====
section
/-! SUPPORT. Every operation of Machine/Engine.lean keeps the queue and the soundness of the state. -/

set_option linter.all false
namespace Sys2Proof.Machine

variable {sn : Bool} {qs : List Instr}

theorem Engine.store_wf {e : Engine} (a : Nat) (bs : List Byte) (h : e.wf = true) : (e.store a bs).wf = true := by
  unfold Engine.store
  split
  · exact h
  · rw [Engine.wf_iff] at h ⊢
    exact ⟨mwf_writeBytes _ _ _ h.1, h.2⟩

theorem Engine.setX_wf {e : Engine} (d : Nat) (v : BitVec 64) (h : e.wf = true) : (e.setX d v).wf = true := by
  unfold Engine.setX
  split
  · exact h
  · rw [Engine.wf_iff] at h ⊢
    exact ⟨h.1, mwf_mset _ _ h.2.1, h.2.2⟩

theorem Engine.setAcc_wf {e : Engine} (d : Nat) (v : Acc) (h : e.wf = true) : (e.setAcc d v).wf = true := by
  rw [Engine.wf_iff] at h ⊢
  exact ⟨h.1, h.2.1, mwf_mset _ _ h.2.2⟩

theorem Engine.setLevel_wf {e : Engine} (l : Nat) (v : LoopLevel) (h : e.wf = true) : (e.setLevel l v).wf = true := by
  unfold Engine.setLevel
  split <;> exact h

theorem Engine.setCtrl_wf {e : Engine} (r : CtrlReg) (v : BitVec 64) (h : e.wf = true) : (e.setCtrl r v).wf = true := by
  unfold Engine.setCtrl
  cases r <;> dsimp only <;> (try split) <;> exact h

theorem Engine.loopBack_wf {e : Engine} (l : Nat) (h : e.wf = true) : (e.loopBack l).1.wf = true := by
  unfold Engine.loopBack
  dsimp only
  split
  · exact Engine.setLevel_wf _ _ h
  · exact h

theorem Engine.advance_wf {e : Engine} (h : e.wf = true) : e.advance.wf = true := by
  have h1 : (if (e.loopOn 1 && e.pc == e.loop1.end_) = true then e.loopBack 1 else (e, false)).1.wf = true := by
    split
    · exact Engine.loopBack_wf _ h
    · exact h
  unfold Engine.advance
  extract_lets inner r1 e1 r0
  change r1.1.wf = true at h1
  split
  · exact h1
  · split
    · split
      · exact Engine.loopBack_wf (e := e1) 0 h1
      · exact Engine.loopBack_wf (e := e1) 0 h1
    · exact h1

theorem Engine.beginLoop_wf {e : Engine} (l : Nat) (c b : BitVec 16) (h : e.wf = true) : (e.beginLoop l c b).wf = true := by
  unfold Engine.beginLoop
  extract_lets b1 e1
  have h1 : e1.wf = true := Engine.setLevel_wf _ _ h
  split
  · exact h1
  · exact h1

theorem Engine.applyStaged_wf {e : Engine} (x : Staged) (h : e.wf = true) : (e.applyStaged x).wf = true := by
  cases x with
  | mem a bs => exact Engine.store_wf a bs h
  | ctrl r v => exact Engine.setCtrl_wf r v h
  | x d v => exact Engine.setX_wf d v h
  | acc d v => exact Engine.setAcc_wf d v h
  | _ => exact h

/-- The end of a bundle keeps the memory and the registers of the engine in canonical form. -/
theorem Engine.endBundle_wf {e : Engine} (h : e.wf = true) : e.endBundle.wf = true := by
  have hf : ∀ (l : List Staged) (e : Engine), e.wf = true → (l.foldl Engine.applyStaged e).wf = true := by
    intro l
    induction l with
    | nil => intro e h; exact h
    | cons x t ih => intro e h; exact ih _ (Engine.applyStaged_wf x h)
  have h1 : (e.applyAll e.staged).wf = true := hf _ e h
  unfold Engine.endBundle
  extract_lets f e1 e2
  have h2 : e2.wf = true := h1
  split
  · exact (Engine.beginLoop_wf _ _ _ h2 : _)
  · exact h2
  · exact h2
  · exact (Engine.advance_wf h2 : _)
  · exact Engine.beginLoop_wf _ _ _ h2
  · exact h2
  · exact h2
  · exact Engine.advance_wf h2

theorem mwfFrom_filterMap {β : Type} [DecidableEq β] {d : β} (g : Nat × β → β) {m : SMap β} :
    ∀ {b : Nat}, mwfFrom d b m = true →
      mwfFrom d b (m.filterMap (fun kv => if g kv = d then none else some (kv.1, g kv))) = true := by
  induction m with
  | nil => intros; rfl
  | cons p t ih =>
    obtain ⟨k, v⟩ := p
    intro b h
    simp only [mwfFrom, Bool.and_eq_true, decide_eq_true_eq] at h
    rw [List.filterMap_cons]
    by_cases e : g (k, v) = d
    · simp only [e, if_true]
      exact mwfFrom_mono (by omega) (ih h.2)
    · simp only [e, if_false, mwfFrom, Bool.and_eq_true, decide_eq_true_eq]
      exact ⟨⟨h.1.1, e⟩, ih h.2⟩

theorem State.enterHook_kept {s : State} (le i point : Nat) (a : Attached) (hs : Kept sn qs s) :
    Kept sn qs (State.enterHook s le i point a) := by
  unfold State.enterHook
  extract_lets k base io page args link
  clear_value args
  have hf : ∀ (l : List (Nat × Nat)) (e : Engine), e.wf = true →
      (l.foldl (fun (e : Engine) (p : Nat × Nat) => e.setX p.1 (BitVec.ofNat 64 p.2)) e).wf = true := by
    intro l
    induction l with
    | nil => intro e h; exact h
    | cons x t ih => intro e h; exact ih _ (Engine.setX_wf _ _ h)
  exact State.took_kept (State.took_kept (State.modEngine_kept _ _ hs (fun e h =>
    Engine.wf_of (Engine.store_wf io (leBytes 256 s.took.fresh) (hf args e h)) rfl rfl rfl)))

theorem State.startNext_kept {s : State} (le : Nat) (hs : Kept sn qs s) :
    Kept sn qs (State.startNext s le) := by
  unfold State.startNext
  refine State.modEngine_kept _ _ hs (fun e h => ?_)
  split
  · exact h
  · rw [Engine.wf_iff] at h ⊢
    exact ⟨h.1, h.2.1, mwfFrom_filterMap (fun kv : Nat × Acc => { kv.2 with wrap := 0 }) h.2.2⟩

theorem State.writeRecord_kept {s : State} (i : Nat) (hs : Kept sn qs s) :
    Kept sn qs (State.writeRecord s i) := by
  unfold State.writeRecord
  try dsimp -iota only
  repeat' first
    | with_reducible assumption
    | with_reducible apply State.modRecord_kept
    | with_reducible apply Kept.ite
    | with_reducible apply Kept.iteFst
    | (with_reducible apply Kept.mk; first | with_reducible assumption | with_reducible apply State.modRecord_kept | with_reducible apply Kept.ite)
    | intro _
    | split

theorem State.engineOn_kept (le : Nat) (y0 : Nat) {y1 : State} (hy1 : Kept sn qs y1) :
    Kept sn qs (State.engineOn le y0 y1) := by
  induction y0 generalizing y1 with
  | zero => exact hy1
  | succ n ih =>
    unfold State.engineOn
    extract_lets e
    split
    · exact hy1
    · extract_lets past
      split
      · exact Kept.ite (ih (State.startNext_kept _ (State.modEngine_kept _ _ (State.writeRecord_kept _ hy1) (fun e h => h))))
          (State.modEngine_kept _ _ hy1 (fun e h => h))
      · exact Kept.ite (State.modEngine_kept _ _ hy1 (fun e h => h))
          (State.enterHook_kept _ _ _ _ (State.modEngine_kept _ _ hy1 (fun e h => h)))

theorem State.proceed_kept {s : State} (le : Nat) (hs : Kept sn qs s) :
    Kept sn qs (State.proceed s le) := by
  unfold State.proceed
  try dsimp -iota only
  repeat' first
    | with_reducible assumption
    | with_reducible apply State.engineOn_kept
    | with_reducible apply Kept.ite
    | with_reducible apply Kept.iteFst
    | (with_reducible refine Engine.wf_of (by with_reducible assumption) ?_ ?_ ?_ <;> with_reducible rfl)
    | (with_reducible apply Kept.mk; first | with_reducible assumption | with_reducible apply State.engineOn_kept | with_reducible apply Kept.ite)
    | intro _
    | split

theorem State.nextHook_kept {s : State} (le : Nat) (hs : Kept sn qs s) :
    Kept sn qs (State.nextHook s le) := by
  unfold State.nextHook
  try dsimp -iota only
  repeat' first
    | with_reducible assumption
    | with_reducible apply State.proceed_kept
    | with_reducible apply Kept.ite
    | with_reducible apply Kept.iteFst
    | (with_reducible apply Kept.mk; first | with_reducible assumption | with_reducible apply State.proceed_kept | with_reducible apply Kept.ite)
    | intro _
    | split

theorem State.endComputation_kept {s : State} (le i : Nat) (hs : Kept sn qs s) :
    Kept sn qs (State.endComputation s le i) := by
  unfold State.endComputation
  try dsimp -iota only
  repeat' first
    | with_reducible assumption
    | with_reducible apply State.modFlags_kept
    | with_reducible apply State.modEngine_kept
    | with_reducible apply State.bump_kept
    | with_reducible apply State.startNext_kept
    | with_reducible apply State.proceed_kept
    | with_reducible apply Kept.ite
    | with_reducible apply Kept.iteFst
    | (with_reducible refine Engine.wf_of (by with_reducible assumption) ?_ ?_ ?_ <;> with_reducible rfl)
    | (with_reducible apply Kept.mk; first | with_reducible assumption | with_reducible apply State.modFlags_kept | with_reducible apply State.modEngine_kept | with_reducible apply State.bump_kept | with_reducible apply State.startNext_kept | with_reducible apply State.proceed_kept | with_reducible apply Kept.ite)
    | intro _
    | split

theorem State.queueComputation_kept {s : State} (le i deadline : Nat) (hs : Kept sn qs s) :
    Kept sn qs (State.queueComputation s le i deadline) := by
  unfold State.queueComputation
  try dsimp -iota only
  repeat' first
    | with_reducible assumption
    | with_reducible apply State.modEngine_kept
    | with_reducible apply State.startNext_kept
    | with_reducible apply State.proceed_kept
    | with_reducible apply Kept.ite
    | with_reducible apply Kept.iteFst
    | (with_reducible refine Engine.wf_of (by with_reducible assumption) ?_ ?_ ?_ <;> with_reducible rfl)
    | (with_reducible apply Kept.mk; first | with_reducible assumption | with_reducible apply State.modEngine_kept | with_reducible apply State.startNext_kept | with_reducible apply State.proceed_kept | with_reducible apply Kept.ite)
    | intro _
    | split

theorem State.hookFault_kept {s : State} (le cause : Nat) (hs : Kept sn qs s) :
    Kept sn qs (State.hookFault s le cause) := by
  unfold State.hookFault
  try dsimp -iota only
  repeat' first
    | with_reducible assumption
    | with_reducible apply State.modFlags_kept
    | with_reducible apply State.bump_kept
    | with_reducible apply State.log_kept
    | with_reducible apply State.axisFault_kept
    | with_reducible apply State.endComputation_kept
    | with_reducible apply Kept.ite
    | with_reducible apply Kept.iteFst
    | (with_reducible refine Engine.wf_of (by with_reducible assumption) ?_ ?_ ?_ <;> with_reducible rfl)
    | (with_reducible apply Kept.mk; first | with_reducible assumption | with_reducible apply State.modFlags_kept | with_reducible apply State.bump_kept | with_reducible apply State.log_kept | with_reducible apply State.axisFault_kept | with_reducible apply State.endComputation_kept | with_reducible apply Kept.ite)
    | intro _
    | split

theorem State.stageOp_kept {s : State} (le : Nat) (eob : Bool) (l : List Staged) (f : Flow) (hs : Kept sn qs s) :
    Kept sn qs (State.stageOp s le eob l f) := by
  unfold State.stageOp
  have hm := hs.engine le
  extract_lets e e1 r t
  have ht : Kept sn qs t := State.setEngine_kept _ _ hs (fun e => Engine.endBundle_wf (hm e))
  exact Kept.ite (Kept.ite (State.nextHook_kept _ ht) ht) (State.setEngine_kept _ _ hs hm)

theorem State.waitOp_kept {s : State} (le : Nat) (hs : Kept sn qs s) :
    Kept sn qs (State.waitOp s le) := by
  unfold State.waitOp
  exact State.setEngine_kept _ _ hs (hs.engine le)

theorem State.leOp_kept {s : State} (le : Fin 16) (eob : Bool) (r : OpRes) (hs : Kept sn qs s) :
    nextHas (Kept sn qs) (State.leOp s le eob r) := by
  unfold State.leOp
  try dsimp -iota only
  repeat' first
    | with_reducible assumption
    | with_reducible apply State.hookFault_kept
    | with_reducible apply State.stageOp_kept
    | with_reducible apply State.waitOp_kept
    | with_reducible apply Kept.ite
    | with_reducible apply Kept.iteFst
    | exact trivial
    | with_reducible apply Kept.next
    | with_reducible apply Kept.iteOut
    | (with_reducible refine Engine.wf_of (by with_reducible assumption) ?_ ?_ ?_ <;> with_reducible rfl)
    | (with_reducible apply Kept.mk; first | with_reducible assumption | with_reducible apply State.hookFault_kept | with_reducible apply State.stageOp_kept | with_reducible apply State.waitOp_kept | with_reducible apply Kept.ite)
    | intro _
    | split

theorem State.haltEngine_kept {s : State} (le : Nat) (hs : Kept sn qs s) :
    Kept sn qs (State.haltEngine s le) := by
  unfold State.haltEngine
  try dsimp -iota only
  repeat' first
    | with_reducible assumption
    | with_reducible apply State.modFlags_kept
    | with_reducible apply State.modEngine_kept
    | with_reducible apply State.log_kept
    | with_reducible apply State.supFault_kept
    | with_reducible apply Kept.ite
    | with_reducible apply Kept.iteFst
    | with_reducible apply Kept.foldl
    | (with_reducible refine Engine.wf_of (by with_reducible assumption) ?_ ?_ ?_ <;> with_reducible rfl)
    | (with_reducible apply Kept.mk; first | with_reducible assumption | with_reducible apply State.modFlags_kept | with_reducible apply State.modEngine_kept | with_reducible apply State.log_kept | with_reducible apply State.supFault_kept | with_reducible apply Kept.ite)
    | intro _
    | split

theorem State.memError_kept {s : State} (le a : Nat) (hs : Kept sn qs s) :
    Kept sn qs (State.memError s le a) := by
  unfold State.memError
  try dsimp -iota only
  repeat' first
    | with_reducible assumption
    | with_reducible apply State.bump_kept
    | with_reducible apply State.log_kept
    | with_reducible apply State.axisFault_kept
    | with_reducible apply State.endComputation_kept
    | with_reducible apply State.haltEngine_kept
    | with_reducible apply Kept.ite
    | with_reducible apply Kept.iteFst
    | (with_reducible refine Engine.wf_of (by with_reducible assumption) ?_ ?_ ?_ <;> with_reducible rfl)
    | (with_reducible apply Kept.mk; first | with_reducible assumption | with_reducible apply State.bump_kept | with_reducible apply State.log_kept | with_reducible apply State.axisFault_kept | with_reducible apply State.endComputation_kept | with_reducible apply State.haltEngine_kept | with_reducible apply Kept.ite)
    | intro _
    | split

theorem State.eccFound_kept {s : State} (le : Nat) (y0 : EccFind) (hs : Kept sn qs s) :
    Kept sn qs (State.eccFound s le y0) := by
  unfold State.eccFound
  try dsimp -iota only
  repeat' first
    | with_reducible assumption
    | with_reducible apply State.bump_kept
    | with_reducible apply State.memError_kept
    | with_reducible apply Kept.ite
    | with_reducible apply Kept.iteFst
    | (with_reducible refine Engine.wf_of (by with_reducible assumption) ?_ ?_ ?_ <;> with_reducible rfl)
    | (with_reducible apply Kept.mk; first | with_reducible assumption | with_reducible apply State.bump_kept | with_reducible apply State.memError_kept | with_reducible apply Kept.ite)
    | intro _
    | split

theorem execMac_kept (le : Fin 16) (eob : Bool) (a : Fin 4) (m n : Fin 32) {s : State} (hs : Kept sn qs s) :
    nextHas (Kept sn qs) (execMac le eob a m n s) := by
  unfold execMac
  try dsimp -iota only
  repeat' first
    | with_reducible assumption
    | with_reducible apply State.leOp_kept
    | with_reducible apply Kept.ite
    | with_reducible apply Kept.iteFst
    | exact trivial
    | with_reducible apply Kept.next
    | with_reducible apply Kept.iteOut
    | (with_reducible refine Engine.wf_of (by with_reducible assumption) ?_ ?_ ?_ <;> with_reducible rfl)
    | (with_reducible apply Kept.mk; first | with_reducible assumption | with_reducible apply State.leOp_kept | with_reducible apply Kept.ite)
    | intro _
    | split

theorem execMsu_kept (le : Fin 16) (eob : Bool) (a : Fin 4) (m n : Fin 32) {s : State} (hs : Kept sn qs s) :
    nextHas (Kept sn qs) (execMsu le eob a m n s) := by
  unfold execMsu
  try dsimp -iota only
  repeat' first
    | with_reducible assumption
    | with_reducible apply State.leOp_kept
    | with_reducible apply Kept.ite
    | with_reducible apply Kept.iteFst
    | exact trivial
    | with_reducible apply Kept.next
    | with_reducible apply Kept.iteOut
    | (with_reducible refine Engine.wf_of (by with_reducible assumption) ?_ ?_ ?_ <;> with_reducible rfl)
    | (with_reducible apply Kept.mk; first | with_reducible assumption | with_reducible apply State.leOp_kept | with_reducible apply Kept.ite)
    | intro _
    | split

theorem execMul_kept (le : Fin 16) (eob : Bool) (a : Fin 4) (m n : Fin 32) {s : State} (hs : Kept sn qs s) :
    nextHas (Kept sn qs) (execMul le eob a m n s) := by
  unfold execMul
  try dsimp -iota only
  repeat' first
    | with_reducible assumption
    | with_reducible apply State.leOp_kept
    | with_reducible apply Kept.ite
    | with_reducible apply Kept.iteFst
    | exact trivial
    | with_reducible apply Kept.next
    | with_reducible apply Kept.iteOut
    | (with_reducible refine Engine.wf_of (by with_reducible assumption) ?_ ?_ ?_ <;> with_reducible rfl)
    | (with_reducible apply Kept.mk; first | with_reducible assumption | with_reducible apply State.leOp_kept | with_reducible apply Kept.ite)
    | intro _
    | split

theorem execMac2_kept (le : Fin 16) (eob : Bool) (a : Fin 4) (m n : Fin 32) (b : Fin 4) (p q : Fin 32) {s : State} (hs : Kept sn qs s) :
    nextHas (Kept sn qs) (execMac2 le eob a m n b p q s) := by
  unfold execMac2
  try dsimp -iota only
  repeat' first
    | with_reducible assumption
    | with_reducible apply State.leOp_kept
    | with_reducible apply Kept.ite
    | with_reducible apply Kept.iteFst
    | exact trivial
    | with_reducible apply Kept.next
    | with_reducible apply Kept.iteOut
    | (with_reducible refine Engine.wf_of (by with_reducible assumption) ?_ ?_ ?_ <;> with_reducible rfl)
    | (with_reducible apply Kept.mk; first | with_reducible assumption | with_reducible apply State.leOp_kept | with_reducible apply Kept.ite)
    | intro _
    | split

theorem execMacus_kept (le : Fin 16) (eob : Bool) (a : Fin 4) (m n : Fin 32) {s : State} (hs : Kept sn qs s) :
    nextHas (Kept sn qs) (execMacus le eob a m n s) := by
  unfold execMacus
  try dsimp -iota only
  repeat' first
    | with_reducible assumption
    | with_reducible apply State.leOp_kept
    | with_reducible apply Kept.ite
    | with_reducible apply Kept.iteFst
    | exact trivial
    | with_reducible apply Kept.next
    | with_reducible apply Kept.iteOut
    | (with_reducible refine Engine.wf_of (by with_reducible assumption) ?_ ?_ ?_ <;> with_reducible rfl)
    | (with_reducible apply Kept.mk; first | with_reducible assumption | with_reducible apply State.leOp_kept | with_reducible apply Kept.ite)
    | intro _
    | split

theorem execClr_kept (le : Fin 16) (eob : Bool) (a : Fin 4) (sh : Fin 144) {s : State} (hs : Kept sn qs s) :
    nextHas (Kept sn qs) (execClr le eob a sh s) := by
  unfold execClr
  try dsimp -iota only
  repeat' first
    | with_reducible assumption
    | with_reducible apply State.leOp_kept
    | with_reducible apply Kept.ite
    | with_reducible apply Kept.iteFst
    | exact trivial
    | with_reducible apply Kept.next
    | with_reducible apply Kept.iteOut
    | (with_reducible apply Kept.mk; first | with_reducible assumption | with_reducible apply State.leOp_kept | with_reducible apply Kept.ite)
    | intro _
    | split

theorem execExt_kept (le : Fin 16) (eob : Bool) (d : Fin 32) (a : Fin 4) (sh : Fin 81) {s : State} (hs : Kept sn qs s) :
    nextHas (Kept sn qs) (execExt le eob d a sh s) := by
  unfold execExt
  try dsimp -iota only
  repeat' first
    | with_reducible assumption
    | with_reducible apply State.leOp_kept
    | with_reducible apply Kept.ite
    | with_reducible apply Kept.iteFst
    | exact trivial
    | with_reducible apply Kept.next
    | with_reducible apply Kept.iteOut
    | (with_reducible refine Engine.wf_of (by with_reducible assumption) ?_ ?_ ?_ <;> with_reducible rfl)
    | (with_reducible apply Kept.mk; first | with_reducible assumption | with_reducible apply State.leOp_kept | with_reducible apply Kept.ite)
    | intro _
    | split

theorem State.leLoad_kept {s : State} (le : Fin 16) (eob : Bool) (a n : Nat) (ecc : ReadEcc) (l : List Staged) (hs : Kept sn qs s) :
    nextHas (Kept sn qs) (State.leLoad s le eob a n ecc l) := by
  unfold State.leLoad
  try dsimp -iota only
  repeat' first
    | with_reducible assumption
    | with_reducible apply State.bump_kept
    | with_reducible apply State.leOp_kept
    | with_reducible apply State.memError_kept
    | with_reducible apply Kept.ite
    | with_reducible apply Kept.iteFst
    | exact trivial
    | with_reducible apply Kept.next
    | with_reducible apply Kept.iteOut
    | (with_reducible refine Engine.wf_of (by with_reducible assumption) ?_ ?_ ?_ <;> with_reducible rfl)
    | (with_reducible apply Kept.mk; first | with_reducible assumption | with_reducible apply State.bump_kept | with_reducible apply State.leOp_kept | with_reducible apply State.memError_kept | with_reducible apply Kept.ite)
    | intro _
    | split

theorem execLd_kept (le : Fin 16) (eob : Bool) (d b : Fin 32) (off : LoadOff 14) {s : State} (hs : Kept sn qs s) :
    nextHas (Kept sn qs) (execLd le eob d b off s) := by
  unfold execLd
  try dsimp -iota only
  repeat' first
    | with_reducible assumption
    | with_reducible apply State.leLoad_kept
    | with_reducible apply Kept.ite
    | with_reducible apply Kept.iteFst
    | exact trivial
    | with_reducible apply Kept.next
    | with_reducible apply Kept.iteOut
    | (with_reducible refine Engine.wf_of (by with_reducible assumption) ?_ ?_ ?_ <;> with_reducible rfl)
    | (with_reducible apply Kept.mk; first | with_reducible assumption | with_reducible apply State.leLoad_kept | with_reducible apply Kept.ite)
    | intro _
    | split

theorem execLdq_kept (le : Fin 16) (eob : Bool) (d : Fin 16) (b : Fin 32) (off : LoadOff 14) {s : State} (hs : Kept sn qs s) :
    nextHas (Kept sn qs) (execLdq le eob d b off s) := by
  unfold execLdq
  try dsimp -iota only
  repeat' first
    | with_reducible assumption
    | with_reducible apply State.leLoad_kept
    | with_reducible apply Kept.ite
    | with_reducible apply Kept.iteFst
    | exact trivial
    | with_reducible apply Kept.next
    | with_reducible apply Kept.iteOut
    | (with_reducible refine Engine.wf_of (by with_reducible assumption) ?_ ?_ ?_ <;> with_reducible rfl)
    | (with_reducible apply Kept.mk; first | with_reducible assumption | with_reducible apply State.leLoad_kept | with_reducible apply Kept.ite)
    | intro _
    | split

theorem execSt_kept (le : Fin 16) (eob : Bool) (src b : Fin 32) (imm : BitVec 14) {s : State} (hs : Kept sn qs s) :
    nextHas (Kept sn qs) (execSt le eob src b imm s) := by
  unfold execSt
  try dsimp -iota only
  repeat' first
    | with_reducible assumption
    | with_reducible apply State.leOp_kept
    | with_reducible apply Kept.ite
    | with_reducible apply Kept.iteFst
    | exact trivial
    | with_reducible apply Kept.next
    | with_reducible apply Kept.iteOut
    | (with_reducible refine Engine.wf_of (by with_reducible assumption) ?_ ?_ ?_ <;> with_reducible rfl)
    | (with_reducible apply Kept.mk; first | with_reducible assumption | with_reducible apply State.leOp_kept | with_reducible apply Kept.ite)
    | intro _
    | split

theorem execStq_kept (le : Fin 16) (eob : Bool) (src b : Fin 32) (imm : BitVec 14) {s : State} (hs : Kept sn qs s) :
    nextHas (Kept sn qs) (execStq le eob src b imm s) := by
  unfold execStq
  try dsimp -iota only
  repeat' first
    | with_reducible assumption
    | with_reducible apply State.leOp_kept
    | with_reducible apply Kept.ite
    | with_reducible apply Kept.iteFst
    | exact trivial
    | with_reducible apply Kept.next
    | with_reducible apply Kept.iteOut
    | (with_reducible refine Engine.wf_of (by with_reducible assumption) ?_ ?_ ?_ <;> with_reducible rfl)
    | (with_reducible apply Kept.mk; first | with_reducible assumption | with_reducible apply State.leOp_kept | with_reducible apply Kept.ite)
    | intro _
    | split

theorem execAccld_kept (le : Fin 16) (eob : Bool) (a : Fin 4) (b : Fin 32) (off : LoadOff 17) {s : State} (hs : Kept sn qs s) :
    nextHas (Kept sn qs) (execAccld le eob a b off s) := by
  unfold execAccld
  try dsimp -iota only
  repeat' first
    | with_reducible assumption
    | with_reducible apply State.leLoad_kept
    | with_reducible apply Kept.ite
    | with_reducible apply Kept.iteFst
    | exact trivial
    | with_reducible apply Kept.next
    | with_reducible apply Kept.iteOut
    | (with_reducible refine Engine.wf_of (by with_reducible assumption) ?_ ?_ ?_ <;> with_reducible rfl)
    | (with_reducible apply Kept.mk; first | with_reducible assumption | with_reducible apply State.leLoad_kept | with_reducible apply Kept.ite)
    | intro _
    | split

theorem execAccst_kept (le : Fin 16) (eob : Bool) (a : Fin 4) (b : Fin 32) (imm : BitVec 17) {s : State} (hs : Kept sn qs s) :
    nextHas (Kept sn qs) (execAccst le eob a b imm s) := by
  unfold execAccst
  try dsimp -iota only
  repeat' first
    | with_reducible assumption
    | with_reducible apply State.took_kept
    | with_reducible apply State.leOp_kept
    | with_reducible apply Kept.ite
    | with_reducible apply Kept.iteFst
    | exact trivial
    | with_reducible apply Kept.next
    | with_reducible apply Kept.iteOut
    | (with_reducible refine Engine.wf_of (by with_reducible assumption) ?_ ?_ ?_ <;> with_reducible rfl)
    | (with_reducible apply Kept.mk; first | with_reducible assumption | with_reducible apply State.took_kept | with_reducible apply State.leOp_kept | with_reducible apply Kept.ite)
    | intro _
    | split

theorem execBld_kept (le : Fin 16) (eob : Bool) (l b : Fin 32) (n : Fin 8) {s : State} (hs : Kept sn qs s) :
    nextHas (Kept sn qs) (execBld le eob l b n s) := by
  unfold execBld
  try dsimp -iota only
  repeat' first
    | with_reducible assumption
    | with_reducible apply State.hookFault_kept
    | with_reducible apply State.leOp_kept
    | with_reducible apply Kept.ite
    | with_reducible apply Kept.iteFst
    | exact trivial
    | with_reducible apply Kept.next
    | with_reducible apply Kept.iteOut
    | (with_reducible refine Engine.wf_of (by with_reducible assumption) ?_ ?_ ?_ <;> with_reducible rfl)
    | (with_reducible apply Kept.mk; first | with_reducible assumption | with_reducible apply State.hookFault_kept | with_reducible apply State.leOp_kept | with_reducible apply Kept.ite)
    | intro _
    | split

theorem State.endBurst_kept {s : State} (le : Nat) (err : Option (Nat × BusErrCause)) (hs : Kept sn qs s) :
    Kept sn qs (State.endBurst s le err) := by
  unfold State.endBurst
  have hm := hs.engine le
  dsimp only
  split
  · exact hs
  · split
    · exact State.setEngine_kept _ _ hs (fun e => Engine.store_wf _ _ (hm e))
    · exact State.log_kept _ _ _ (State.bump_kept _ _ _ (State.setEngine_kept _ _ hs (fun e => Engine.store_wf _ _ (hm e))))

theorem execBldDone_kept (le : Fin 16) (err : Option (Nat × BusErrCause)) {s : State} (hs : Kept sn qs s) :
    nextHas (Kept sn qs) (execBldDone le err s) := by
  unfold execBldDone
  refine Kept.next (Kept.ite hs ?_)
  extract_lets past
  exact State.endBurst_kept _ _ (State.modArb_kept _ _ hs (fun a h => h))

theorem State.leAlu_kept {s : State} (le : Fin 16) (eob : Bool) (d m n : Fin 32) (f : BitVec 64 → BitVec 64 → BitVec 64) (hs : Kept sn qs s) :
    nextHas (Kept sn qs) (State.leAlu s le eob d m n f) := by
  unfold State.leAlu
  try dsimp -iota only
  repeat' first
    | with_reducible assumption
    | with_reducible apply State.leOp_kept
    | with_reducible apply Kept.ite
    | with_reducible apply Kept.iteFst
    | exact trivial
    | with_reducible apply Kept.next
    | with_reducible apply Kept.iteOut
    | (with_reducible refine Engine.wf_of (by with_reducible assumption) ?_ ?_ ?_ <;> with_reducible rfl)
    | (with_reducible apply Kept.mk; first | with_reducible assumption | with_reducible apply State.leOp_kept | with_reducible apply Kept.ite)
    | intro _
    | split

theorem execLeAdd_kept (le : Fin 16) (eob : Bool) (d m n : Fin 32) {s : State} (hs : Kept sn qs s) :
    nextHas (Kept sn qs) (execLeAdd le eob d m n s) := by
  unfold execLeAdd
  try dsimp -iota only
  repeat' first
    | with_reducible assumption
    | with_reducible apply State.leAlu_kept
    | with_reducible apply Kept.ite
    | with_reducible apply Kept.iteFst
    | exact trivial
    | with_reducible apply Kept.next
    | with_reducible apply Kept.iteOut
    | (with_reducible apply Kept.mk; first | with_reducible assumption | with_reducible apply State.leAlu_kept | with_reducible apply Kept.ite)
    | intro _
    | split

theorem execLeSub_kept (le : Fin 16) (eob : Bool) (d m n : Fin 32) {s : State} (hs : Kept sn qs s) :
    nextHas (Kept sn qs) (execLeSub le eob d m n s) := by
  unfold execLeSub
  try dsimp -iota only
  repeat' first
    | with_reducible assumption
    | with_reducible apply State.leAlu_kept
    | with_reducible apply Kept.ite
    | with_reducible apply Kept.iteFst
    | exact trivial
    | with_reducible apply Kept.next
    | with_reducible apply Kept.iteOut
    | (with_reducible apply Kept.mk; first | with_reducible assumption | with_reducible apply State.leAlu_kept | with_reducible apply Kept.ite)
    | intro _
    | split

theorem execLeAddi_kept (le : Fin 16) (eob : Bool) (d m : Fin 32) (imm : BitVec 14) {s : State} (hs : Kept sn qs s) :
    nextHas (Kept sn qs) (execLeAddi le eob d m imm s) := by
  unfold execLeAddi
  try dsimp -iota only
  repeat' first
    | with_reducible assumption
    | with_reducible apply State.leAlu_kept
    | with_reducible apply Kept.ite
    | with_reducible apply Kept.iteFst
    | exact trivial
    | with_reducible apply Kept.next
    | with_reducible apply Kept.iteOut
    | (with_reducible apply Kept.mk; first | with_reducible assumption | with_reducible apply State.leAlu_kept | with_reducible apply Kept.ite)
    | intro _
    | split

theorem execLeAnd_kept (le : Fin 16) (eob : Bool) (d m n : Fin 32) {s : State} (hs : Kept sn qs s) :
    nextHas (Kept sn qs) (execLeAnd le eob d m n s) := by
  unfold execLeAnd
  try dsimp -iota only
  repeat' first
    | with_reducible assumption
    | with_reducible apply State.leAlu_kept
    | with_reducible apply Kept.ite
    | with_reducible apply Kept.iteFst
    | exact trivial
    | with_reducible apply Kept.next
    | with_reducible apply Kept.iteOut
    | (with_reducible apply Kept.mk; first | with_reducible assumption | with_reducible apply State.leAlu_kept | with_reducible apply Kept.ite)
    | intro _
    | split

theorem execLeOr_kept (le : Fin 16) (eob : Bool) (d m n : Fin 32) {s : State} (hs : Kept sn qs s) :
    nextHas (Kept sn qs) (execLeOr le eob d m n s) := by
  unfold execLeOr
  try dsimp -iota only
  repeat' first
    | with_reducible assumption
    | with_reducible apply State.leAlu_kept
    | with_reducible apply Kept.ite
    | with_reducible apply Kept.iteFst
    | exact trivial
    | with_reducible apply Kept.next
    | with_reducible apply Kept.iteOut
    | (with_reducible apply Kept.mk; first | with_reducible assumption | with_reducible apply State.leAlu_kept | with_reducible apply Kept.ite)
    | intro _
    | split

theorem execLeXor_kept (le : Fin 16) (eob : Bool) (d m n : Fin 32) {s : State} (hs : Kept sn qs s) :
    nextHas (Kept sn qs) (execLeXor le eob d m n s) := by
  unfold execLeXor
  try dsimp -iota only
  repeat' first
    | with_reducible assumption
    | with_reducible apply State.leAlu_kept
    | with_reducible apply Kept.ite
    | with_reducible apply Kept.iteFst
    | exact trivial
    | with_reducible apply Kept.next
    | with_reducible apply Kept.iteOut
    | (with_reducible apply Kept.mk; first | with_reducible assumption | with_reducible apply State.leAlu_kept | with_reducible apply Kept.ite)
    | intro _
    | split

theorem State.leShift_kept {s : State} (le : Fin 16) (eob : Bool) (d m n : Fin 32) (f : BitVec 64 → Nat → BitVec 64) (hs : Kept sn qs s) :
    nextHas (Kept sn qs) (State.leShift s le eob d m n f) := by
  unfold State.leShift
  try dsimp -iota only
  repeat' first
    | with_reducible assumption
    | with_reducible apply State.took_kept
    | with_reducible apply State.leAlu_kept
    | with_reducible apply Kept.ite
    | with_reducible apply Kept.iteFst
    | exact trivial
    | with_reducible apply Kept.next
    | with_reducible apply Kept.iteOut
    | (with_reducible apply Kept.mk; first | with_reducible assumption | with_reducible apply State.took_kept | with_reducible apply State.leAlu_kept | with_reducible apply Kept.ite)
    | intro _
    | split

theorem execLeShl_kept (le : Fin 16) (eob : Bool) (d m n : Fin 32) {s : State} (hs : Kept sn qs s) :
    nextHas (Kept sn qs) (execLeShl le eob d m n s) := by
  unfold execLeShl
  try dsimp -iota only
  repeat' first
    | with_reducible assumption
    | with_reducible apply State.leShift_kept
    | with_reducible apply Kept.ite
    | with_reducible apply Kept.iteFst
    | exact trivial
    | with_reducible apply Kept.next
    | with_reducible apply Kept.iteOut
    | (with_reducible apply Kept.mk; first | with_reducible assumption | with_reducible apply State.leShift_kept | with_reducible apply Kept.ite)
    | intro _
    | split

theorem execLeShr_kept (le : Fin 16) (eob : Bool) (d m n : Fin 32) {s : State} (hs : Kept sn qs s) :
    nextHas (Kept sn qs) (execLeShr le eob d m n s) := by
  unfold execLeShr
  try dsimp -iota only
  repeat' first
    | with_reducible assumption
    | with_reducible apply State.leShift_kept
    | with_reducible apply Kept.ite
    | with_reducible apply Kept.iteFst
    | exact trivial
    | with_reducible apply Kept.next
    | with_reducible apply Kept.iteOut
    | (with_reducible apply Kept.mk; first | with_reducible assumption | with_reducible apply State.leShift_kept | with_reducible apply Kept.ite)
    | intro _
    | split

theorem execLeSra_kept (le : Fin 16) (eob : Bool) (d m n : Fin 32) {s : State} (hs : Kept sn qs s) :
    nextHas (Kept sn qs) (execLeSra le eob d m n s) := by
  unfold execLeSra
  try dsimp -iota only
  repeat' first
    | with_reducible assumption
    | with_reducible apply State.leShift_kept
    | with_reducible apply Kept.ite
    | with_reducible apply Kept.iteFst
    | exact trivial
    | with_reducible apply Kept.next
    | with_reducible apply Kept.iteOut
    | (with_reducible apply Kept.mk; first | with_reducible assumption | with_reducible apply State.leShift_kept | with_reducible apply Kept.ite)
    | intro _
    | split

theorem execLeLi_kept (le : Fin 16) (eob : Bool) (d : Fin 32) (imm : BitVec 19) {s : State} (hs : Kept sn qs s) :
    nextHas (Kept sn qs) (execLeLi le eob d imm s) := by
  unfold execLeLi
  try dsimp -iota only
  repeat' first
    | with_reducible assumption
    | with_reducible apply State.leOp_kept
    | with_reducible apply Kept.ite
    | with_reducible apply Kept.iteFst
    | exact trivial
    | with_reducible apply Kept.next
    | with_reducible apply Kept.iteOut
    | (with_reducible apply Kept.mk; first | with_reducible assumption | with_reducible apply State.leOp_kept | with_reducible apply Kept.ite)
    | intro _
    | split

theorem execLeLui_kept (le : Fin 16) (eob : Bool) (d : Fin 32) (_imm : BitVec 19) {s : State} (hs : Kept sn qs s) :
    nextHas (Kept sn qs) (execLeLui le eob d _imm s) := by
  unfold execLeLui
  try dsimp -iota only
  repeat' first
    | with_reducible assumption
    | with_reducible apply State.took_kept
    | with_reducible apply State.leOp_kept
    | with_reducible apply Kept.ite
    | with_reducible apply Kept.iteFst
    | exact trivial
    | with_reducible apply Kept.next
    | with_reducible apply Kept.iteOut
    | (with_reducible apply Kept.mk; first | with_reducible assumption | with_reducible apply State.took_kept | with_reducible apply State.leOp_kept | with_reducible apply Kept.ite)
    | intro _
    | split

theorem execLeCmp_kept (le : Fin 16) (eob : Bool) (d _m _n : Fin 32) {s : State} (hs : Kept sn qs s) :
    nextHas (Kept sn qs) (execLeCmp le eob d _m _n s) := by
  unfold execLeCmp
  try dsimp -iota only
  repeat' first
    | with_reducible assumption
    | with_reducible apply State.took_kept
    | with_reducible apply State.leOp_kept
    | with_reducible apply Kept.ite
    | with_reducible apply Kept.iteFst
    | exact trivial
    | with_reducible apply Kept.next
    | with_reducible apply Kept.iteOut
    | (with_reducible apply Kept.mk; first | with_reducible assumption | with_reducible apply State.took_kept | with_reducible apply State.leOp_kept | with_reducible apply Kept.ite)
    | intro _
    | split

theorem execSatw_kept (le : Fin 16) (eob : Bool) (d m : Fin 32) (width : Fin 65) {s : State} (hs : Kept sn qs s) :
    nextHas (Kept sn qs) (execSatw le eob d m width s) := by
  unfold execSatw
  try dsimp -iota only
  repeat' first
    | with_reducible assumption
    | with_reducible apply State.took_kept
    | with_reducible apply State.leAlu_kept
    | with_reducible apply Kept.ite
    | with_reducible apply Kept.iteFst
    | exact trivial
    | with_reducible apply Kept.next
    | with_reducible apply Kept.iteOut
    | (with_reducible apply Kept.mk; first | with_reducible assumption | with_reducible apply State.took_kept | with_reducible apply State.leAlu_kept | with_reducible apply Kept.ite)
    | intro _
    | split

theorem execMaxi_kept (le : Fin 16) (eob : Bool) (d src : Fin 32) {s : State} (hs : Kept sn qs s) :
    nextHas (Kept sn qs) (execMaxi le eob d src s) := by
  unfold execMaxi
  try dsimp -iota only
  repeat' first
    | with_reducible assumption
    | with_reducible apply State.leOp_kept
    | with_reducible apply Kept.ite
    | with_reducible apply Kept.iteFst
    | exact trivial
    | with_reducible apply Kept.next
    | with_reducible apply Kept.iteOut
    | (with_reducible refine Engine.wf_of (by with_reducible assumption) ?_ ?_ ?_ <;> with_reducible rfl)
    | (with_reducible apply Kept.mk; first | with_reducible assumption | with_reducible apply State.leOp_kept | with_reducible apply Kept.ite)
    | intro _
    | split

theorem execMini_kept (le : Fin 16) (eob : Bool) (d src : Fin 32) {s : State} (hs : Kept sn qs s) :
    nextHas (Kept sn qs) (execMini le eob d src s) := by
  unfold execMini
  try dsimp -iota only
  repeat' first
    | with_reducible assumption
    | with_reducible apply State.leOp_kept
    | with_reducible apply Kept.ite
    | with_reducible apply Kept.iteFst
    | exact trivial
    | with_reducible apply Kept.next
    | with_reducible apply Kept.iteOut
    | (with_reducible refine Engine.wf_of (by with_reducible assumption) ?_ ?_ ?_ <;> with_reducible rfl)
    | (with_reducible apply Kept.mk; first | with_reducible assumption | with_reducible apply State.leOp_kept | with_reducible apply Kept.ite)
    | intro _
    | split

theorem State.leSeed_kept {s : State} (le : Fin 16) (eob : Bool) (d : Fin 32) (v : Option Int) (hs : Kept sn qs s) :
    nextHas (Kept sn qs) (State.leSeed s le eob d v) := by
  unfold State.leSeed
  try dsimp -iota only
  repeat' first
    | with_reducible assumption
    | with_reducible apply State.leOp_kept
    | with_reducible apply Kept.ite
    | with_reducible apply Kept.iteFst
    | exact trivial
    | with_reducible apply Kept.next
    | with_reducible apply Kept.iteOut
    | (with_reducible apply Kept.mk; first | with_reducible assumption | with_reducible apply State.leOp_kept | with_reducible apply Kept.ite)
    | intro _
    | split

theorem execRcp_kept (le : Fin 16) (eob : Bool) (d src : Fin 32) {s : State} (hs : Kept sn qs s) :
    nextHas (Kept sn qs) (execRcp le eob d src s) := by
  unfold execRcp
  try dsimp -iota only
  repeat' first
    | with_reducible assumption
    | with_reducible apply State.leSeed_kept
    | with_reducible apply Kept.ite
    | with_reducible apply Kept.iteFst
    | exact trivial
    | with_reducible apply Kept.next
    | with_reducible apply Kept.iteOut
    | (with_reducible refine Engine.wf_of (by with_reducible assumption) ?_ ?_ ?_ <;> with_reducible rfl)
    | (with_reducible apply Kept.mk; first | with_reducible assumption | with_reducible apply State.leSeed_kept | with_reducible apply Kept.ite)
    | intro _
    | split

theorem execRsq_kept (le : Fin 16) (eob : Bool) (d src : Fin 32) {s : State} (hs : Kept sn qs s) :
    nextHas (Kept sn qs) (execRsq le eob d src s) := by
  unfold execRsq
  try dsimp -iota only
  repeat' first
    | with_reducible assumption
    | with_reducible apply State.leSeed_kept
    | with_reducible apply Kept.ite
    | with_reducible apply Kept.iteFst
    | exact trivial
    | with_reducible apply Kept.next
    | with_reducible apply Kept.iteOut
    | (with_reducible refine Engine.wf_of (by with_reducible assumption) ?_ ?_ ?_ <;> with_reducible rfl)
    | (with_reducible apply Kept.mk; first | with_reducible assumption | with_reducible apply State.leSeed_kept | with_reducible apply Kept.ite)
    | intro _
    | split

theorem execLeLoop_kept (le : Fin 16) (eob : Bool) (level : Fin 2) (count : LoopCount) (endOff : Fin 65536) {s : State} (hs : Kept sn qs s) :
    nextHas (Kept sn qs) (execLeLoop le eob level count endOff s) := by
  unfold execLeLoop
  try dsimp -iota only
  repeat' first
    | with_reducible assumption
    | with_reducible apply State.hookFault_kept
    | with_reducible apply State.leOp_kept
    | with_reducible apply Kept.ite
    | with_reducible apply Kept.iteFst
    | exact trivial
    | with_reducible apply Kept.next
    | with_reducible apply Kept.iteOut
    | (with_reducible refine Engine.wf_of (by with_reducible assumption) ?_ ?_ ?_ <;> with_reducible rfl)
    | (with_reducible apply Kept.mk; first | with_reducible assumption | with_reducible apply State.hookFault_kept | with_reducible apply State.leOp_kept | with_reducible apply Kept.ite)
    | intro _
    | split

theorem State.leBranch_kept {s : State} (le : Fin 16) (eob b : Bool) (off : BitVec 14) (hs : Kept sn qs s) :
    nextHas (Kept sn qs) (State.leBranch s le eob b off) := by
  unfold State.leBranch
  try dsimp -iota only
  repeat' first
    | with_reducible assumption
    | with_reducible apply State.leOp_kept
    | with_reducible apply Kept.ite
    | with_reducible apply Kept.iteFst
    | exact trivial
    | with_reducible apply Kept.next
    | with_reducible apply Kept.iteOut
    | (with_reducible refine Engine.wf_of (by with_reducible assumption) ?_ ?_ ?_ <;> with_reducible rfl)
    | (with_reducible apply Kept.mk; first | with_reducible assumption | with_reducible apply State.leOp_kept | with_reducible apply Kept.ite)
    | intro _
    | split

theorem execBr_kept (le : Fin 16) (eob : Bool) (off : BitVec 14) {s : State} (hs : Kept sn qs s) :
    nextHas (Kept sn qs) (execBr le eob off s) := by
  unfold execBr
  try dsimp -iota only
  repeat' first
    | with_reducible assumption
    | with_reducible apply State.leBranch_kept
    | with_reducible apply Kept.ite
    | with_reducible apply Kept.iteFst
    | exact trivial
    | with_reducible apply Kept.next
    | with_reducible apply Kept.iteOut
    | (with_reducible apply Kept.mk; first | with_reducible assumption | with_reducible apply State.leBranch_kept | with_reducible apply Kept.ite)
    | intro _
    | split

theorem execBz_kept (le : Fin 16) (eob : Bool) (src : Fin 32) (off : BitVec 14) {s : State} (hs : Kept sn qs s) :
    nextHas (Kept sn qs) (execBz le eob src off s) := by
  unfold execBz
  try dsimp -iota only
  repeat' first
    | with_reducible assumption
    | with_reducible apply State.leBranch_kept
    | with_reducible apply Kept.ite
    | with_reducible apply Kept.iteFst
    | exact trivial
    | with_reducible apply Kept.next
    | with_reducible apply Kept.iteOut
    | (with_reducible refine Engine.wf_of (by with_reducible assumption) ?_ ?_ ?_ <;> with_reducible rfl)
    | (with_reducible apply Kept.mk; first | with_reducible assumption | with_reducible apply State.leBranch_kept | with_reducible apply Kept.ite)
    | intro _
    | split

theorem execBnz_kept (le : Fin 16) (eob : Bool) (src : Fin 32) (off : BitVec 14) {s : State} (hs : Kept sn qs s) :
    nextHas (Kept sn qs) (execBnz le eob src off s) := by
  unfold execBnz
  try dsimp -iota only
  repeat' first
    | with_reducible assumption
    | with_reducible apply State.leBranch_kept
    | with_reducible apply Kept.ite
    | with_reducible apply Kept.iteFst
    | exact trivial
    | with_reducible apply Kept.next
    | with_reducible apply Kept.iteOut
    | (with_reducible refine Engine.wf_of (by with_reducible assumption) ?_ ?_ ?_ <;> with_reducible rfl)
    | (with_reducible apply Kept.mk; first | with_reducible assumption | with_reducible apply State.leBranch_kept | with_reducible apply Kept.ite)
    | intro _
    | split

theorem execBlt_kept (le : Fin 16) (eob : Bool) (src t : Fin 32) (off : BitVec 14) {s : State} (hs : Kept sn qs s) :
    nextHas (Kept sn qs) (execBlt le eob src t off s) := by
  unfold execBlt
  try dsimp -iota only
  repeat' first
    | with_reducible assumption
    | with_reducible apply State.leBranch_kept
    | with_reducible apply Kept.ite
    | with_reducible apply Kept.iteFst
    | exact trivial
    | with_reducible apply Kept.next
    | with_reducible apply Kept.iteOut
    | (with_reducible refine Engine.wf_of (by with_reducible assumption) ?_ ?_ ?_ <;> with_reducible rfl)
    | (with_reducible apply Kept.mk; first | with_reducible assumption | with_reducible apply State.leBranch_kept | with_reducible apply Kept.ite)
    | intro _
    | split

theorem execRet_kept (le : Fin 16) (eob : Bool) {s : State} (hs : Kept sn qs s) :
    nextHas (Kept sn qs) (execRet le eob s) := by
  unfold execRet
  try dsimp -iota only
  repeat' first
    | with_reducible assumption
    | with_reducible apply State.hookFault_kept
    | with_reducible apply State.leOp_kept
    | with_reducible apply Kept.ite
    | with_reducible apply Kept.iteFst
    | exact trivial
    | with_reducible apply Kept.next
    | with_reducible apply Kept.iteOut
    | (with_reducible refine Engine.wf_of (by with_reducible assumption) ?_ ?_ ?_ <;> with_reducible rfl)
    | (with_reducible apply Kept.mk; first | with_reducible assumption | with_reducible apply State.hookFault_kept | with_reducible apply State.leOp_kept | with_reducible apply Kept.ite)
    | intro _
    | split

theorem execReti_kept (le : Fin 16) (eob : Bool) {s : State} (hs : Kept sn qs s) :
    nextHas (Kept sn qs) (execReti le eob s) := by
  unfold execReti
  try dsimp -iota only
  repeat' first
    | with_reducible assumption
    | with_reducible apply State.leOp_kept
    | with_reducible apply Kept.ite
    | with_reducible apply Kept.iteFst
    | exact trivial
    | with_reducible apply Kept.next
    | with_reducible apply Kept.iteOut
    | (with_reducible apply Kept.mk; first | with_reducible assumption | with_reducible apply State.leOp_kept | with_reducible apply Kept.ite)
    | intro _
    | split

theorem execWaitb_kept (le : Fin 16) (eob : Bool) {s : State} (hs : Kept sn qs s) :
    nextHas (Kept sn qs) (execWaitb le eob s) := by
  unfold execWaitb
  try dsimp -iota only
  repeat' first
    | with_reducible assumption
    | with_reducible apply State.leOp_kept
    | with_reducible apply Kept.ite
    | with_reducible apply Kept.iteFst
    | exact trivial
    | with_reducible apply Kept.next
    | with_reducible apply Kept.iteOut
    | (with_reducible refine Engine.wf_of (by with_reducible assumption) ?_ ?_ ?_ <;> with_reducible rfl)
    | (with_reducible apply Kept.mk; first | with_reducible assumption | with_reducible apply State.leOp_kept | with_reducible apply Kept.ite)
    | intro _
    | split

theorem execMfc_kept (le : Fin 16) (eob : Bool) (d : Fin 32) (reg : CtrlReg) {s : State} (hs : Kept sn qs s) :
    nextHas (Kept sn qs) (execMfc le eob d reg s) := by
  unfold execMfc
  try dsimp -iota only
  repeat' first
    | with_reducible assumption
    | with_reducible apply State.leOp_kept
    | with_reducible apply Kept.ite
    | with_reducible apply Kept.iteFst
    | exact trivial
    | with_reducible apply Kept.next
    | with_reducible apply Kept.iteOut
    | (with_reducible refine Engine.wf_of (by with_reducible assumption) ?_ ?_ ?_ <;> with_reducible rfl)
    | (with_reducible apply Kept.mk; first | with_reducible assumption | with_reducible apply State.leOp_kept | with_reducible apply Kept.ite)
    | intro _
    | split

theorem execMtc_kept (le : Fin 16) (eob : Bool) (reg : CtrlReg) (src : Fin 32) {s : State} (hs : Kept sn qs s) :
    nextHas (Kept sn qs) (execMtc le eob reg src s) := by
  unfold execMtc
  try dsimp -iota only
  repeat' first
    | with_reducible assumption
    | with_reducible apply State.leOp_kept
    | with_reducible apply Kept.ite
    | with_reducible apply Kept.iteFst
    | exact trivial
    | with_reducible apply Kept.next
    | with_reducible apply Kept.iteOut
    | (with_reducible refine Engine.wf_of (by with_reducible assumption) ?_ ?_ ?_ <;> with_reducible rfl)
    | (with_reducible apply Kept.mk; first | with_reducible assumption | with_reducible apply State.leOp_kept | with_reducible apply Kept.ite)
    | intro _
    | split

theorem execClrf_kept (le : Fin 16) (eob : Bool) (mask : BitVec 24) {s : State} (hs : Kept sn qs s) :
    nextHas (Kept sn qs) (execClrf le eob mask s) := by
  unfold execClrf
  try dsimp -iota only
  repeat' first
    | with_reducible assumption
    | with_reducible apply State.leOp_kept
    | with_reducible apply Kept.ite
    | with_reducible apply Kept.iteFst
    | exact trivial
    | with_reducible apply Kept.next
    | with_reducible apply Kept.iteOut
    | (with_reducible apply Kept.mk; first | with_reducible assumption | with_reducible apply State.leOp_kept | with_reducible apply Kept.ite)
    | intro _
    | split

theorem execNop_kept (le : Fin 16) (eob : Bool) {s : State} (hs : Kept sn qs s) :
    nextHas (Kept sn qs) (execNop le eob s) := by
  unfold execNop
  try dsimp -iota only
  repeat' first
    | with_reducible assumption
    | with_reducible apply State.leOp_kept
    | with_reducible apply Kept.ite
    | with_reducible apply Kept.iteFst
    | exact trivial
    | with_reducible apply Kept.next
    | with_reducible apply Kept.iteOut
    | (with_reducible apply Kept.mk; first | with_reducible assumption | with_reducible apply State.leOp_kept | with_reducible apply Kept.ite)
    | intro _
    | split

theorem execSvcRequest_kept (le : Fin 16) {s : State} (hs : Kept sn qs s) :
    nextHas (Kept sn qs) (execSvcRequest le s) := by
  unfold execSvcRequest
  try dsimp -iota only
  repeat' first
    | with_reducible assumption
    | with_reducible apply State.modEngine_kept
    | with_reducible apply Kept.ite
    | with_reducible apply Kept.iteFst
    | exact trivial
    | with_reducible apply Kept.next
    | with_reducible apply Kept.iteOut
    | (with_reducible refine Engine.wf_of (by with_reducible assumption) ?_ ?_ ?_ <;> with_reducible rfl)
    | (with_reducible apply Kept.mk; first | with_reducible assumption | with_reducible apply State.modEngine_kept | with_reducible apply Kept.ite)
    | intro _
    | split

theorem execInterruptEntry_kept (le : Fin 16) {s : State} (hs : Kept sn qs s) :
    nextHas (Kept sn qs) (execInterruptEntry le s) := by
  unfold execInterruptEntry
  have hm := hs.engine le.val
  refine Kept.next ?_
  dsimp only
  refine Kept.ite hs (Kept.ite (State.took_kept (State.setEngine_kept _ _ hs hm)) ?_)
  split
  · exact State.setEngine_kept _ _ hs hm
  · exact hs

theorem execEccScrub_kept (le : Fin 16) (find : EccFind) {s : State} (hs : Kept sn qs s) :
    nextHas (Kept sn qs) (execEccScrub le find s) := by
  unfold execEccScrub
  try dsimp -iota only
  repeat' first
    | with_reducible assumption
    | with_reducible apply State.eccFound_kept
    | with_reducible apply Kept.ite
    | with_reducible apply Kept.iteFst
    | exact trivial
    | with_reducible apply Kept.next
    | with_reducible apply Kept.iteOut
    | (with_reducible apply Kept.mk; first | with_reducible assumption | with_reducible apply State.eccFound_kept | with_reducible apply Kept.ite)
    | intro _
    | split

end Sys2Proof.Machine
end

