-- ==== Sys2Proof/Laws/KeptKernel.lean ====
section
/-! SUPPORT. Every operation of Machine/Kernel.lean keeps the queue and the soundness of the state. -/

set_option linter.all false
namespace Sys2Proof.Machine

variable {sn : Bool} {qs : List Instr}

theorem execKernelLoad_kept (ref : CmdRef) (image : List Byte) {s : State} (hs : Kept sn qs s) :
    nextHas (Kept sn qs) (execKernelLoad ref image s) := by
  unfold execKernelLoad
  try dsimp -iota only
  repeat' first
    | with_reducible assumption
    | with_reducible apply State.took_kept
    | with_reducible apply State.finish_kept
    | with_reducible apply State.ok_kept
    | with_reducible apply State.execCmd_kept
    | with_reducible apply Kept.ite
    | with_reducible apply Kept.iteFst
    | exact trivial
    | with_reducible apply Kept.next
    | with_reducible apply Kept.iteOut
    | (with_reducible apply Kept.mk; first | with_reducible assumption | with_reducible apply State.took_kept | with_reducible apply State.finish_kept | with_reducible apply State.ok_kept | with_reducible apply State.execCmd_kept | with_reducible apply Kept.ite)
    | intro _
    | split

theorem execKernelUnload_kept (ref : CmdRef) (handle : BitVec 32) {s : State} (hs : Kept sn qs s) :
    nextHas (Kept sn qs) (execKernelUnload ref handle s) := by
  unfold execKernelUnload
  try dsimp -iota only
  repeat' first
    | with_reducible assumption
    | with_reducible apply State.ok_kept
    | with_reducible apply State.execCmd_kept
    | with_reducible apply State.checked_kept
    | with_reducible apply Kept.ite
    | with_reducible apply Kept.iteFst
    | exact trivial
    | with_reducible apply Kept.next
    | with_reducible apply Kept.iteOut
    | (with_reducible apply Kept.mk; first | with_reducible assumption | with_reducible apply State.ok_kept | with_reducible apply State.execCmd_kept | with_reducible apply State.checked_kept | with_reducible apply Kept.ite)
    | intro _
    | split

theorem State.ahead_kept {s : State} (hs : Kept sn qs s) :
    Kept sn qs (State.ahead s) := by
  unfold State.ahead
  try dsimp -iota only
  repeat' first
    | with_reducible assumption
    | with_reducible apply State.setPar_kept
    | with_reducible apply Kept.ite
    | with_reducible apply Kept.iteFst
    | with_reducible apply Kept.foldl
    | (with_reducible apply Kept.mk; first | with_reducible assumption | with_reducible apply State.setPar_kept | with_reducible apply Kept.ite)
    | intro _
    | split

theorem State.placeCode_kept {s : State} (i : Nat) (hs : Kept sn qs s) :
    Kept sn qs (State.placeCode s i) := by
  unfold State.placeCode
  split
  · exact hs
  · refine Kept.foldl (fun s p h => ?_) (State.modFlags_kept _ _ hs)
    exact Kept.ite h (State.modEngine_kept _ _ (State.modFlags_kept _ _ h) (fun e he => Engine.store_wf _ _ he))

theorem State.attachHooks_kept {s : State} (i : Nat) (hs : Kept sn qs s) :
    Kept sn qs (State.attachHooks s i) := by
  unfold State.attachHooks
  try dsimp -iota only
  repeat' first
    | with_reducible assumption
    | with_reducible apply State.modFlags_kept
    | with_reducible apply State.placeCode_kept
    | with_reducible apply Kept.ite
    | with_reducible apply Kept.iteFst
    | with_reducible apply Kept.foldlFst
    | with_reducible apply Kept.foldl
    | (with_reducible apply Kept.mk; first | with_reducible assumption | with_reducible apply State.modFlags_kept | with_reducible apply State.placeCode_kept | with_reducible apply Kept.ite)
    | intro _
    | split

theorem State.placeAxis_kept {s : State} (le i : Nat) (hs : Kept sn qs s) :
    Kept sn qs (State.placeAxis s le i) := by
  unfold State.placeAxis
  try dsimp -iota only
  repeat' first
    | with_reducible assumption
    | with_reducible apply State.modFlags_kept
    | with_reducible apply State.modEngine_kept
    | with_reducible apply State.run_kept
    | with_reducible apply State.placeCode_kept
    | with_reducible apply Kept.ite
    | with_reducible apply Kept.iteFst
    | (with_reducible refine Engine.wf_of (by with_reducible assumption) ?_ ?_ ?_ <;> with_reducible rfl)
    | (with_reducible apply Kept.mk; first | with_reducible assumption | with_reducible apply State.modFlags_kept | with_reducible apply State.modEngine_kept | with_reducible apply State.run_kept | with_reducible apply State.placeCode_kept | with_reducible apply Kept.ite)
    | intro _
    | split

theorem State.unplaceAxis_kept {s : State} (i : Nat) (hs : Kept sn qs s) :
    Kept sn qs (State.unplaceAxis s i) := by
  unfold State.unplaceAxis
  try dsimp -iota only
  repeat' first
    | with_reducible assumption
    | with_reducible apply State.modFlags_kept
    | with_reducible apply State.modEngine_kept
    | with_reducible apply State.modPower_kept
    | with_reducible apply State.run_kept
    | with_reducible apply Kept.ite
    | with_reducible apply Kept.iteFst
    | (with_reducible refine Engine.wf_of (by with_reducible assumption) ?_ ?_ ?_ <;> with_reducible rfl)
    | (with_reducible apply Kept.mk; first | with_reducible assumption | with_reducible apply State.modFlags_kept | with_reducible apply State.modEngine_kept | with_reducible apply State.modPower_kept | with_reducible apply State.run_kept | with_reducible apply Kept.ite)
    | intro _
    | split

theorem State.zeroHookData_kept {s : State} (i : Nat) (hs : Kept sn qs s) :
    Kept sn qs (State.zeroHookData s i) := by
  unfold State.zeroHookData
  split
  · exact hs
  · refine State.modEngine_kept _ _ hs (fun e he => ?_)
    rw [Engine.wf_iff] at he ⊢
    exact ⟨mwf_filter _ he.1, he.2⟩

end Sys2Proof.Machine
end

