-- ==== Sys2Proof/Laws/KeptFeedback.lean ====
section
/-! SUPPORT. Every operation of Machine/Feedback.lean keeps the queue and the soundness of the state. -/

set_option linter.all false
namespace Sys2Proof.Machine

variable {sn : Bool} {qs : List Instr}

theorem State.fbLoss_kept {s : State} (i code : Nat) (hs : Kept sn qs s) :
    Kept sn qs (State.fbLoss s i code) := by
  unfold State.fbLoss
  try dsimp -iota only
  repeat' first
    | with_reducible assumption
    | with_reducible apply State.setFb_kept
    | with_reducible apply State.modFb_kept
    | with_reducible apply State.modTrail_kept
    | with_reducible apply State.bump_kept
    | with_reducible apply State.log_kept
    | with_reducible apply State.axisFault_kept
    | with_reducible apply Kept.ite
    | with_reducible apply Kept.iteFst
    | (with_reducible apply Kept.mk; first | with_reducible assumption | with_reducible apply State.setFb_kept | with_reducible apply State.modFb_kept | with_reducible apply State.modTrail_kept | with_reducible apply State.bump_kept | with_reducible apply State.log_kept | with_reducible apply State.axisFault_kept | with_reducible apply Kept.ite)
    | intro _
    | split

theorem State.lossReport_kept {s : State} (i : Nat) (hs : Kept sn qs s) :
    Kept sn qs (State.lossReport s i) := by
  unfold State.lossReport
  try dsimp -iota only
  repeat' first
    | with_reducible assumption
    | with_reducible apply State.setFb_kept
    | with_reducible apply State.bumpIf_kept
    | with_reducible apply State.log_kept
    | with_reducible apply Kept.ite
    | with_reducible apply Kept.iteFst
    | (with_reducible apply Kept.mk; first | with_reducible assumption | with_reducible apply State.setFb_kept | with_reducible apply State.bumpIf_kept | with_reducible apply State.log_kept | with_reducible apply Kept.ite)
    | intro _
    | split

theorem State.fbRestored_kept {s : State} (i : Nat) (hs : Kept sn qs s) :
    Kept sn qs (State.fbRestored s i) := by
  unfold State.fbRestored
  try dsimp -iota only
  repeat' first
    | with_reducible assumption
    | with_reducible apply State.setFb_kept
    | with_reducible apply State.log_kept
    | with_reducible apply Kept.ite
    | with_reducible apply Kept.iteFst
    | (with_reducible apply Kept.mk; first | with_reducible assumption | with_reducible apply State.setFb_kept | with_reducible apply State.log_kept | with_reducible apply Kept.ite)
    | intro _
    | split

theorem State.filterClock_kept {s : State} (i : Nat) (l : Bool × Bool × Bool) (now : Ft8) (hs : Kept sn qs s) :
    Kept sn qs (State.filterClock s i l now) := by
  unfold State.filterClock
  try dsimp -iota only
  repeat' first
    | with_reducible assumption
    | with_reducible apply State.setQuad_kept
    | with_reducible apply State.bump_kept
    | with_reducible apply State.fbLoss_kept
    | with_reducible apply State.fbRestored_kept
    | with_reducible apply Kept.ite
    | with_reducible apply Kept.iteFst
    | (with_reducible apply Kept.mk; first | with_reducible assumption | with_reducible apply State.setQuad_kept | with_reducible apply State.bump_kept | with_reducible apply State.fbLoss_kept | with_reducible apply State.fbRestored_kept | with_reducible apply Kept.ite)
    | intro _
    | split

theorem State.filterRun_kept (i : Nat) (l : Bool × Bool × Bool) (clk : Nat) (y0 : Nat) {y1 : State} (hy1 : Kept sn qs y1) :
    Kept sn qs (State.filterRun i l clk y0 y1) := by
  induction y0 generalizing y1 with
  | zero => exact hy1
  | succ n ih => exact ih (State.filterClock_kept _ _ _ hy1)

theorem execQuadEdge_kept (axis : Fin 32) (lines : QuadLines) (span : FilterSpan 1024) {s : State} (hs : Kept sn qs s) :
    nextHas (Kept sn qs) (execQuadEdge axis lines span s) := by
  unfold execQuadEdge
  try dsimp -iota only
  repeat' first
    | with_reducible assumption
    | with_reducible apply State.filterRun_kept
    | with_reducible apply Kept.ite
    | with_reducible apply Kept.iteFst
    | exact trivial
    | with_reducible apply Kept.next
    | with_reducible apply Kept.iteOut
    | (with_reducible apply Kept.mk; first | with_reducible assumption | with_reducible apply State.filterRun_kept | with_reducible apply Kept.ite)
    | intro _
    | split

theorem State.indexEvent_kept {s : State} (i : Nat) (c : Int) (hs : Kept sn qs s) :
    Kept sn qs (State.indexEvent s i c) := by
  unfold State.indexEvent
  try dsimp -iota only
  repeat' first
    | with_reducible assumption
    | with_reducible apply State.setQuad_kept
    | with_reducible apply State.bump_kept
    | with_reducible apply State.log_kept
    | with_reducible apply State.fbLoss_kept
    | with_reducible apply Kept.ite
    | with_reducible apply Kept.iteFst
    | (with_reducible apply Kept.mk; first | with_reducible assumption | with_reducible apply State.setQuad_kept | with_reducible apply State.bump_kept | with_reducible apply State.log_kept | with_reducible apply State.fbLoss_kept | with_reducible apply Kept.ite)
    | intro _
    | split

theorem State.indexHome_kept {s : State} (i : Nat) (c : Int) (st : Ft8) (hs : Kept sn qs s) :
    Kept sn qs (State.indexHome s i c st) := by
  unfold State.indexHome
  try dsimp -iota only
  repeat' first
    | with_reducible assumption
    | with_reducible apply State.setTrail_kept
    | with_reducible apply Kept.ite
    | with_reducible apply Kept.iteFst
    | (with_reducible apply Kept.mk; first | with_reducible assumption | with_reducible apply State.setTrail_kept | with_reducible apply Kept.ite)
    | intro _
    | split

theorem execIndexPulse_kept (axis : Fin 32) {s : State} (hs : Kept sn qs s) :
    nextHas (Kept sn qs) (execIndexPulse axis s) := by
  unfold execIndexPulse
  try dsimp -iota only
  repeat' first
    | with_reducible assumption
    | with_reducible apply State.modQuad_kept
    | with_reducible apply State.indexEvent_kept
    | with_reducible apply State.indexHome_kept
    | with_reducible apply Kept.ite
    | with_reducible apply Kept.iteFst
    | exact trivial
    | with_reducible apply Kept.next
    | with_reducible apply Kept.iteOut
    | (with_reducible apply Kept.mk; first | with_reducible assumption | with_reducible apply State.modQuad_kept | with_reducible apply State.indexEvent_kept | with_reducible apply State.indexHome_kept | with_reducible apply Kept.ite)
    | intro _
    | split

theorem State.logWordBad_kept {s : State} (i : Nat) (c : WordClass) (hs : Kept sn qs s) :
    Kept sn qs (State.logWordBad s i c) := by
  unfold State.logWordBad
  try dsimp -iota only
  repeat' first
    | with_reducible assumption
    | with_reducible apply State.setSerial_kept
    | with_reducible apply State.logFull_kept
    | with_reducible apply State.log_kept
    | with_reducible apply Kept.ite
    | with_reducible apply Kept.iteFst
    | (with_reducible apply Kept.mk; first | with_reducible assumption | with_reducible apply State.setSerial_kept | with_reducible apply State.logFull_kept | with_reducible apply State.log_kept | with_reducible apply Kept.ite)
    | intro _
    | split

theorem State.pushRead_kept {s : State} (i : Nat) (p : Q32) (t : Nat) (hs : Kept sn qs s) :
    Kept sn qs (State.pushRead s i p t) := by
  unfold State.pushRead
  try dsimp -iota only
  repeat' first
    | with_reducible assumption
    | with_reducible apply State.modSerial_kept
    | with_reducible apply Kept.ite
    | with_reducible apply Kept.iteFst
    | (with_reducible apply Kept.mk; first | with_reducible assumption | with_reducible apply State.modSerial_kept | with_reducible apply Kept.ite)
    | intro _
    | split

theorem State.takePosition_kept {s : State} (i : Nat) (p : Q32) (t : Nat) (hs : Kept sn qs s) :
    Kept sn qs (State.takePosition s i p t) := by
  unfold State.takePosition
  try dsimp -iota only
  repeat' first
    | with_reducible assumption
    | with_reducible apply State.modFb_kept
    | with_reducible apply State.pushRead_kept
    | with_reducible apply Kept.ite
    | with_reducible apply Kept.iteFst
    | (with_reducible apply Kept.mk; first | with_reducible assumption | with_reducible apply State.modFb_kept | with_reducible apply State.pushRead_kept | with_reducible apply Kept.ite)
    | intro _
    | split

theorem State.badWord_kept {s : State} (i : Nat) (c : WordClass) (hs : Kept sn qs s) :
    Kept sn qs (State.badWord s i c) := by
  unfold State.badWord
  try dsimp -iota only
  repeat' first
    | with_reducible assumption
    | with_reducible apply State.modSerial_kept
    | with_reducible apply State.modFb_kept
    | with_reducible apply State.bump_kept
    | with_reducible apply State.fbLoss_kept
    | with_reducible apply State.logWordBad_kept
    | with_reducible apply State.takePosition_kept
    | with_reducible apply Kept.ite
    | with_reducible apply Kept.iteFst
    | (with_reducible apply Kept.mk; first | with_reducible assumption | with_reducible apply State.modSerial_kept | with_reducible apply State.modFb_kept | with_reducible apply State.bump_kept | with_reducible apply State.fbLoss_kept | with_reducible apply State.logWordBad_kept | with_reducible apply State.takePosition_kept | with_reducible apply Kept.ite)
    | intro _
    | split

theorem State.goodWord_kept {s : State} (i raw : Nat) (hs : Kept sn qs s) :
    Kept sn qs (State.goodWord s i raw) := by
  unfold State.goodWord
  try dsimp -iota only
  repeat' first
    | with_reducible assumption
    | with_reducible apply State.modSerial_kept
    | with_reducible apply State.modFb_kept
    | with_reducible apply State.fbRestored_kept
    | with_reducible apply State.pushRead_kept
    | with_reducible apply State.takePosition_kept
    | with_reducible apply State.badWord_kept
    | with_reducible apply Kept.ite
    | with_reducible apply Kept.iteFst
    | (with_reducible apply Kept.mk; first | with_reducible assumption | with_reducible apply State.modSerial_kept | with_reducible apply State.modFb_kept | with_reducible apply State.fbRestored_kept | with_reducible apply State.pushRead_kept | with_reducible apply State.takePosition_kept | with_reducible apply State.badWord_kept | with_reducible apply Kept.ite)
    | intro _
    | split

theorem State.beginEnabling_kept {s : State} (i : Nat) (hs : Kept sn qs s) :
    Kept sn qs (State.beginEnabling s i) := by
  unfold State.beginEnabling
  try dsimp -iota only
  repeat' first
    | with_reducible assumption
    | with_reducible apply State.modSerial_kept
    | with_reducible apply State.modFb_kept
    | with_reducible apply State.modLoop_kept
    | with_reducible apply State.modFlags_kept
    | with_reducible apply State.modTrail_kept
    | with_reducible apply State.setInitRegion_kept
    | with_reducible apply State.lowGates_kept
    | with_reducible apply Kept.ite
    | with_reducible apply Kept.iteFst
    | with_reducible apply Kept.foldl
    | (with_reducible apply Kept.mk; first | with_reducible assumption | with_reducible apply State.modSerial_kept | with_reducible apply State.modFb_kept | with_reducible apply State.modLoop_kept | with_reducible apply State.modFlags_kept | with_reducible apply State.modTrail_kept | with_reducible apply State.setInitRegion_kept | with_reducible apply State.lowGates_kept | with_reducible apply Kept.ite)
    | intro _
    | split

theorem State.lspSend_kept {s : State} (i : Nat) (r : LspRequest) (startXt : Nat) (hs : Kept sn qs s) :
    Kept sn qs (State.lspSend s i r startXt) := by
  unfold State.lspSend
  try dsimp -iota only
  repeat' first
    | with_reducible assumption
    | with_reducible apply State.modSerial_kept
    | with_reducible apply Kept.ite
    | with_reducible apply Kept.iteFst
    | (with_reducible apply Kept.mk; first | with_reducible assumption | with_reducible apply State.modSerial_kept | with_reducible apply Kept.ite)
    | intro _
    | split

theorem State.identNext_kept {s : State} (i : Nat) (hs : Kept sn qs s) :
    Kept sn qs (State.identNext s i) := by
  unfold State.identNext
  try dsimp -iota only
  repeat' first
    | with_reducible assumption
    | with_reducible apply State.setSerial_kept
    | with_reducible apply State.complete_kept
    | with_reducible apply State.unplaceAxis_kept
    | with_reducible apply State.lspSend_kept
    | with_reducible apply Kept.ite
    | with_reducible apply Kept.iteFst
    | (with_reducible apply Kept.mk; first | with_reducible assumption | with_reducible apply State.setSerial_kept | with_reducible apply State.complete_kept | with_reducible apply State.unplaceAxis_kept | with_reducible apply State.lspSend_kept | with_reducible apply Kept.ite)
    | intro _
    | split

theorem State.identGood_kept {s : State} (i : Nat) (d : List Byte) (hs : Kept sn qs s) :
    Kept sn qs (State.identGood s i d) := by
  unfold State.identGood
  try dsimp -iota only
  repeat' first
    | with_reducible assumption
    | with_reducible apply State.modSerial_kept
    | with_reducible apply State.complete_kept
    | with_reducible apply State.unplaceAxis_kept
    | with_reducible apply State.beginEnabling_kept
    | with_reducible apply Kept.ite
    | with_reducible apply Kept.iteFst
    | (with_reducible apply Kept.mk; first | with_reducible assumption | with_reducible apply State.modSerial_kept | with_reducible apply State.complete_kept | with_reducible apply State.unplaceAxis_kept | with_reducible apply State.beginEnabling_kept | with_reducible apply Kept.ite)
    | intro _
    | split

theorem execSerialReadStart_kept (axis : Fin 32) (lineHigh : Bool) {s : State} (hs : Kept sn qs s) :
    nextHas (Kept sn qs) (execSerialReadStart axis lineHigh s) := by
  unfold execSerialReadStart
  try dsimp -iota only
  repeat' first
    | with_reducible assumption
    | with_reducible apply State.setSerial_kept
    | with_reducible apply State.modSerial_kept
    | with_reducible apply State.badWord_kept
    | with_reducible apply State.lspSend_kept
    | with_reducible apply Kept.ite
    | with_reducible apply Kept.iteFst
    | exact trivial
    | with_reducible apply Kept.next
    | with_reducible apply Kept.iteOut
    | (with_reducible apply Kept.mk; first | with_reducible assumption | with_reducible apply State.setSerial_kept | with_reducible apply State.modSerial_kept | with_reducible apply State.badWord_kept | with_reducible apply State.lspSend_kept | with_reducible apply Kept.ite)
    | intro _
    | split

theorem execSerialWordDecoded_kept (axis : Fin 32) (word : SerialWord) {s : State} (hs : Kept sn qs s) :
    nextHas (Kept sn qs) (execSerialWordDecoded axis word s) := by
  unfold execSerialWordDecoded
  try dsimp -iota only
  repeat' first
    | with_reducible assumption
    | with_reducible apply State.modSerial_kept
    | with_reducible apply State.bumpIf_kept
    | with_reducible apply State.badWord_kept
    | with_reducible apply State.goodWord_kept
    | with_reducible apply State.identNext_kept
    | with_reducible apply State.identGood_kept
    | with_reducible apply Kept.ite
    | with_reducible apply Kept.iteFst
    | exact trivial
    | with_reducible apply Kept.next
    | with_reducible apply Kept.iteOut
    | (with_reducible apply Kept.mk; first | with_reducible assumption | with_reducible apply State.modSerial_kept | with_reducible apply State.bumpIf_kept | with_reducible apply State.badWord_kept | with_reducible apply State.goodWord_kept | with_reducible apply State.identNext_kept | with_reducible apply State.identGood_kept | with_reducible apply Kept.ite)
    | intro _
    | split

theorem execLspWordTimeout_kept (axis : Fin 32) {s : State} (hs : Kept sn qs s) :
    nextHas (Kept sn qs) (execLspWordTimeout axis s) := by
  unfold execLspWordTimeout
  try dsimp -iota only
  repeat' first
    | with_reducible assumption
    | with_reducible apply State.setSerial_kept
    | with_reducible apply State.badWord_kept
    | with_reducible apply State.identNext_kept
    | with_reducible apply Kept.ite
    | with_reducible apply Kept.iteFst
    | exact trivial
    | with_reducible apply Kept.next
    | with_reducible apply Kept.iteOut
    | (with_reducible apply Kept.mk; first | with_reducible assumption | with_reducible apply State.setSerial_kept | with_reducible apply State.badWord_kept | with_reducible apply State.identNext_kept | with_reducible apply Kept.ite)
    | intro _
    | split

theorem execLspUnsolicitedChar_kept (axis : Fin 32) {s : State} (hs : Kept sn qs s) :
    nextHas (Kept sn qs) (execLspUnsolicitedChar axis s) := by
  unfold execLspUnsolicitedChar
  try dsimp -iota only
  repeat' first
    | with_reducible assumption
    | with_reducible apply State.bumpIf_kept
    | with_reducible apply Kept.ite
    | with_reducible apply Kept.iteFst
    | exact trivial
    | with_reducible apply Kept.next
    | with_reducible apply Kept.iteOut
    | (with_reducible apply Kept.mk; first | with_reducible assumption | with_reducible apply State.bumpIf_kept | with_reducible apply Kept.ite)
    | intro _
    | split

theorem execLspClearErr_kept (axis : Fin 32) {s : State} (hs : Kept sn qs s) :
    nextHas (Kept sn qs) (execLspClearErr axis s) := by
  unfold execLspClearErr
  try dsimp -iota only
  repeat' first
    | with_reducible assumption
    | with_reducible apply State.lspSend_kept
    | with_reducible apply Kept.ite
    | with_reducible apply Kept.iteFst
    | exact trivial
    | with_reducible apply Kept.next
    | with_reducible apply Kept.iteOut
    | (with_reducible apply Kept.mk; first | with_reducible assumption | with_reducible apply State.lspSend_kept | with_reducible apply Kept.ite)
    | intro _
    | split

theorem State.hallError_kept {s : State} (j : Nat) (now : Ft8) (hs : Kept sn qs s) :
    Kept sn qs (State.hallError s j now) := by
  unfold State.hallError
  try dsimp -iota only
  repeat' first
    | with_reducible assumption
    | with_reducible apply State.setAux_kept
    | with_reducible apply State.modAux_kept
    | with_reducible apply State.bump_kept
    | with_reducible apply State.log_kept
    | with_reducible apply Kept.ite
    | with_reducible apply Kept.iteFst
    | (with_reducible apply Kept.mk; first | with_reducible assumption | with_reducible apply State.setAux_kept | with_reducible apply State.modAux_kept | with_reducible apply State.bump_kept | with_reducible apply State.log_kept | with_reducible apply Kept.ite)
    | intro _
    | split

theorem execHallEdge_kept (aux : Fin 16) (lines : HallLines) {s : State} (hs : Kept sn qs s) :
    nextHas (Kept sn qs) (execHallEdge aux lines s) := by
  unfold execHallEdge
  try dsimp -iota only
  repeat' first
    | with_reducible assumption
    | with_reducible apply State.modAux_kept
    | with_reducible apply State.hallError_kept
    | with_reducible apply Kept.ite
    | with_reducible apply Kept.iteFst
    | exact trivial
    | with_reducible apply Kept.next
    | with_reducible apply Kept.iteOut
    | (with_reducible apply Kept.mk; first | with_reducible assumption | with_reducible apply State.modAux_kept | with_reducible apply State.hallError_kept | with_reducible apply Kept.ite)
    | intro _
    | split

theorem State.quadSample_kept {s : State} (i : Nat) (hs : Kept sn qs s) :
    Kept sn qs (State.quadSample s i) := by
  unfold State.quadSample
  try dsimp -iota only
  repeat' first
    | with_reducible assumption
    | with_reducible apply State.setQuad_kept
    | with_reducible apply State.modFb_kept
    | with_reducible apply Kept.ite
    | with_reducible apply Kept.iteFst
    | (with_reducible apply Kept.mk; first | with_reducible assumption | with_reducible apply State.setQuad_kept | with_reducible apply State.modFb_kept | with_reducible apply Kept.ite)
    | intro _
    | split

theorem State.watchFreeze_kept {s : State} (i : Nat) (obsSpeed : Rat) (hs : Kept sn qs s) :
    Kept sn qs (State.watchFreeze s i obsSpeed) := by
  unfold State.watchFreeze
  try dsimp -iota only
  repeat' first
    | with_reducible assumption
    | with_reducible apply State.setFb_kept
    | with_reducible apply Kept.ite
    | with_reducible apply Kept.iteFst
    | (with_reducible apply Kept.mk; first | with_reducible assumption | with_reducible apply State.setFb_kept | with_reducible apply Kept.ite)
    | intro _
    | split

theorem execFreeze_kept (axis : Fin 32) {s : State} (hs : Kept sn qs s) :
    nextHas (Kept sn qs) (execFreeze axis s) := by
  unfold execFreeze
  try dsimp -iota only
  repeat' first
    | with_reducible assumption
    | with_reducible apply State.fbLoss_kept
    | with_reducible apply Kept.ite
    | with_reducible apply Kept.iteFst
    | exact trivial
    | with_reducible apply Kept.next
    | with_reducible apply Kept.iteOut
    | (with_reducible apply Kept.mk; first | with_reducible assumption | with_reducible apply State.fbLoss_kept | with_reducible apply Kept.ite)
    | intro _
    | split

theorem execZeroSpeed_kept (axis : Fin 32) {s : State} (hs : Kept sn qs s) :
    nextHas (Kept sn qs) (execZeroSpeed axis s) := by
  unfold execZeroSpeed
  try dsimp -iota only
  repeat' first
    | with_reducible assumption
    | with_reducible apply State.setQuad_kept
    | with_reducible apply Kept.ite
    | with_reducible apply Kept.iteFst
    | exact trivial
    | with_reducible apply Kept.next
    | with_reducible apply Kept.iteOut
    | (with_reducible apply Kept.mk; first | with_reducible assumption | with_reducible apply State.setQuad_kept | with_reducible apply Kept.ite)
    | intro _
    | split

end Sys2Proof.Machine
end

