-- ==== Sys2Proof/Laws/KeptSample.lean ====
section
/-! SUPPORT. Every operation of Machine/Sample.lean keeps the queue and the soundness of the state. -/

set_option linter.all false
namespace Sys2Proof.Machine

variable {sn : Bool} {qs : List Instr}

theorem State.missingWord_kept {s : State} (i : Nat) (hs : Kept sn qs s) :
    Kept sn qs (State.missingWord s i) := by
  unfold State.missingWord
  try dsimp -iota only
  repeat' first
    | with_reducible assumption
    | with_reducible apply State.badWord_kept
    | with_reducible apply Kept.ite
    | with_reducible apply Kept.iteFst
    | (with_reducible apply Kept.mk; first | with_reducible assumption | with_reducible apply State.badWord_kept | with_reducible apply Kept.ite)
    | intro _
    | split

theorem State.sampleFeedback_kept {s : State} (i : Nat) (hs : Kept sn qs s) :
    Kept sn qs (State.sampleFeedback s i) := by
  unfold State.sampleFeedback
  try dsimp -iota only
  repeat' first
    | with_reducible assumption
    | with_reducible apply State.modQuad_kept
    | with_reducible apply State.modFlags_kept
    | with_reducible apply State.quadSample_kept
    | with_reducible apply State.missingWord_kept
    | with_reducible apply Kept.ite
    | with_reducible apply Kept.iteFst
    | (with_reducible apply Kept.mk; first | with_reducible assumption | with_reducible apply State.modQuad_kept | with_reducible apply State.modFlags_kept | with_reducible apply State.quadSample_kept | with_reducible apply State.missingWord_kept | with_reducible apply Kept.ite)
    | intro _
    | split

theorem State.sampleCurrents_kept {s : State} (i : Nat) (hs : Kept sn qs s) :
    Kept sn qs (State.sampleCurrents s i).1 := by
  unfold State.sampleCurrents
  try dsimp -iota only
  repeat' first
    | with_reducible assumption
    | with_reducible apply State.modFoc_kept
    | with_reducible apply State.modSection_kept
    | with_reducible apply State.bumpIf_kept
    | with_reducible apply Kept.ite
    | with_reducible apply Kept.iteFst
    | (with_reducible apply Kept.mk; first | with_reducible assumption | with_reducible apply State.modFoc_kept | with_reducible apply State.modSection_kept | with_reducible apply State.bumpIf_kept | with_reducible apply Kept.ite)
    | intro _
    | split

theorem State.beginHold_kept {s : State} (i : Nat) (hs : Kept sn qs s) :
    Kept sn qs (State.beginHold s i) := by
  unfold State.beginHold
  try dsimp -iota only
  repeat' first
    | with_reducible assumption
    | with_reducible apply State.modFoc_kept
    | with_reducible apply State.bump_kept
    | with_reducible apply Kept.ite
    | with_reducible apply Kept.iteFst
    | (with_reducible apply Kept.mk; first | with_reducible assumption | with_reducible apply State.modFoc_kept | with_reducible apply State.bump_kept | with_reducible apply Kept.ite)
    | intro _
    | split

theorem State.endHold_kept {s : State} (i : Nat) (from_ : Nat) (hs : Kept sn qs s) :
    Kept sn qs (State.endHold s i from_) := by
  unfold State.endHold
  try dsimp -iota only
  repeat' first
    | with_reducible assumption
    | with_reducible apply State.modFoc_kept
    | with_reducible apply State.bump_kept
    | with_reducible apply State.log_kept
    | with_reducible apply Kept.ite
    | with_reducible apply Kept.iteFst
    | (with_reducible apply Kept.mk; first | with_reducible assumption | with_reducible apply State.modFoc_kept | with_reducible apply State.bump_kept | with_reducible apply State.log_kept | with_reducible apply Kept.ite)
    | intro _
    | split

theorem State.rotorLoss_kept {s : State} (i : Nat) (using_ : Bool) (w : Rat) (hs : Kept sn qs s) :
    Kept sn qs (State.rotorLoss s i using_ w) := by
  unfold State.rotorLoss
  try dsimp -iota only
  repeat' first
    | with_reducible assumption
    | with_reducible apply State.modFoc_kept
    | with_reducible apply State.bump_kept
    | with_reducible apply State.beginHold_kept
    | with_reducible apply State.endHold_kept
    | with_reducible apply Kept.ite
    | with_reducible apply Kept.iteFst
    | (with_reducible apply Kept.mk; first | with_reducible assumption | with_reducible apply State.modFoc_kept | with_reducible apply State.bump_kept | with_reducible apply State.beginHold_kept | with_reducible apply State.endHold_kept | with_reducible apply Kept.ite)
    | intro _
    | split

theorem State.sampleAngle_kept {s : State} (i : Nat) (old : Foc) (t2 : Nat) (hs : Kept sn qs s) :
    Kept sn qs (State.sampleAngle s i old t2) := by
  unfold State.sampleAngle
  try dsimp -iota only
  repeat' first
    | with_reducible assumption
    | with_reducible apply State.modFb_kept
    | with_reducible apply State.setFoc_kept
    | with_reducible apply State.axisFault_kept
    | with_reducible apply State.rotorLoss_kept
    | with_reducible apply Kept.ite
    | with_reducible apply Kept.iteFst
    | (with_reducible apply Kept.mk; first | with_reducible assumption | with_reducible apply State.modFb_kept | with_reducible apply State.setFoc_kept | with_reducible apply State.axisFault_kept | with_reducible apply State.rotorLoss_kept | with_reducible apply Kept.ite)
    | intro _
    | split

theorem State.rampPoint_kept {s : State} (i : Nat) (w : StopRun) (tm : Nat) (hs : Kept sn qs s) :
    Kept sn qs (State.rampPoint s i w tm).1 := by
  unfold State.rampPoint
  try dsimp -iota only
  repeat' first
    | with_reducible assumption
    | with_reducible apply State.modLoop_kept
    | with_reducible apply Kept.ite
    | with_reducible apply Kept.iteFst
    | (with_reducible apply Kept.mk; first | with_reducible assumption | with_reducible apply State.modLoop_kept | with_reducible apply Kept.ite)
    | intro _
    | split

theorem State.sampleSetpoint_kept {s : State} (i : Nat) (pm vm : Q32) (tm : Nat) (hs : Kept sn qs s) :
    Kept sn qs (State.sampleSetpoint s i pm vm tm).1 := by
  unfold State.sampleSetpoint
  try dsimp -iota only
  repeat' first
    | with_reducible assumption
    | with_reducible apply State.modLoop_kept
    | with_reducible apply State.modFlags_kept
    | with_reducible apply State.bumpIf_kept
    | with_reducible apply State.stopEffect_kept
    | with_reducible apply State.setpointAt_kept
    | with_reducible apply State.rampPoint_kept
    | with_reducible apply Kept.ite
    | with_reducible apply Kept.iteFst
    | (with_reducible apply Kept.mk; first | with_reducible assumption | with_reducible apply State.modLoop_kept | with_reducible apply State.modFlags_kept | with_reducible apply State.bumpIf_kept | with_reducible apply State.stopEffect_kept | with_reducible apply State.setpointAt_kept | with_reducible apply State.rampPoint_kept | with_reducible apply Kept.ite)
    | intro _
    | split

theorem State.positionLoop_kept {s : State} (i : Nat) (pm : Q32) (hs : Kept sn qs s) :
    Kept sn qs (State.positionLoop s i pm).1 := by
  unfold State.positionLoop
  try dsimp -iota only
  repeat' first
    | with_reducible assumption
    | with_reducible apply State.modLoop_kept
    | with_reducible apply State.runSection_kept
    | with_reducible apply State.axisFault_kept
    | with_reducible apply Kept.ite
    | with_reducible apply Kept.iteFst
    | (with_reducible apply Kept.mk; first | with_reducible assumption | with_reducible apply State.modLoop_kept | with_reducible apply State.runSection_kept | with_reducible apply State.axisFault_kept | with_reducible apply Kept.ite)
    | intro _
    | split

theorem State.velocityLoop_kept {s : State} (i mode : Nat) (vm : Q32) (torqueStop : Bool) (hs : Kept sn qs s) :
    Kept sn qs (State.velocityLoop s i mode vm torqueStop).1 := by
  unfold State.velocityLoop
  try dsimp -iota only
  repeat' first
    | with_reducible assumption
    | with_reducible apply State.modFlags_kept
    | with_reducible apply State.modSection_kept
    | with_reducible apply State.bumpIf_kept
    | with_reducible apply State.seedSection_kept
    | with_reducible apply State.runSection_kept
    | with_reducible apply State.runPlaced_kept
    | with_reducible apply Kept.ite
    | with_reducible apply Kept.iteFst
    | (with_reducible apply Kept.mk; first | with_reducible assumption | with_reducible apply State.modFlags_kept | with_reducible apply State.modSection_kept | with_reducible apply State.bumpIf_kept | with_reducible apply State.seedSection_kept | with_reducible apply State.runSection_kept | with_reducible apply State.runPlaced_kept | with_reducible apply Kept.ite)
    | intro _
    | split

theorem State.torqueLimit_kept {s : State} (i : Nat) (tr0 : Q8) (h : HookOut) (hs : Kept sn qs s) :
    Kept sn qs (State.torqueLimit s i tr0 h).1 := by
  unfold State.torqueLimit
  try dsimp -iota only
  repeat' first
    | with_reducible assumption
    | with_reducible apply State.modLoop_kept
    | with_reducible apply State.modFlags_kept
    | with_reducible apply State.bumpIf_kept
    | with_reducible apply State.runPlaced_kept
    | with_reducible apply Kept.ite
    | with_reducible apply Kept.iteFst
    | (with_reducible apply Kept.mk; first | with_reducible assumption | with_reducible apply State.modLoop_kept | with_reducible apply State.modFlags_kept | with_reducible apply State.bumpIf_kept | with_reducible apply State.runPlaced_kept | with_reducible apply Kept.ite)
    | intro _
    | split

theorem State.positionPart_kept {s : State} (i mode : Nat) (pm : Q32) (hs : Kept sn qs s) :
    Kept sn qs (State.positionPart s i mode pm).1 := by
  unfold State.positionPart
  try dsimp -iota only
  repeat' first
    | with_reducible assumption
    | with_reducible apply State.positionLoop_kept
    | with_reducible apply Kept.ite
    | with_reducible apply Kept.iteFst
    | (with_reducible apply Kept.mk; first | with_reducible assumption | with_reducible apply State.positionLoop_kept | with_reducible apply Kept.ite)
    | intro _
    | split

theorem State.velocityPart_kept {s : State} (i mode : Nat) (vm : Q32) (h : HookOut) (torqueStop : Bool) (hs : Kept sn qs s) :
    Kept sn qs (State.velocityPart s i mode vm h torqueStop).1 := by
  unfold State.velocityPart
  try dsimp -iota only
  repeat' first
    | with_reducible assumption
    | with_reducible apply State.modFlags_kept
    | with_reducible apply State.velocityLoop_kept
    | with_reducible apply State.torqueLimit_kept
    | with_reducible apply Kept.ite
    | with_reducible apply Kept.iteFst
    | (with_reducible apply Kept.mk; first | with_reducible assumption | with_reducible apply State.modFlags_kept | with_reducible apply State.velocityLoop_kept | with_reducible apply State.torqueLimit_kept | with_reducible apply Kept.ite)
    | intro _
    | split

theorem State.outerLoops_kept {s : State} (i : Nat) (pm vm : Q32) (h : HookOut) (torqueStop : Bool) (hs : Kept sn qs s) :
    Kept sn qs (State.outerLoops s i pm vm h torqueStop).1 := by
  rw [State.outerLoops]
  generalize s.loopMode i = mode
  have ha : Kept sn qs (s.positionPart i mode pm).1 := State.positionPart_kept _ _ _ hs
  exact Kept.iteFst ha (State.velocityPart_kept _ _ _ _ _ ha)

theorem State.startLoops_kept {s : State} (i : Nat) (vm : Q32) (h : HookOut) (hs : Kept sn qs s) :
    Kept sn qs (State.startLoops s i vm h).1 := by
  unfold State.startLoops
  try dsimp -iota only
  repeat' first
    | with_reducible assumption
    | with_reducible apply State.modLoop_kept
    | with_reducible apply State.velocityLoop_kept
    | with_reducible apply State.torqueLimit_kept
    | with_reducible apply Kept.ite
    | with_reducible apply Kept.iteFst
    | (with_reducible apply Kept.mk; first | with_reducible assumption | with_reducible apply State.modLoop_kept | with_reducible apply State.velocityLoop_kept | with_reducible apply State.torqueLimit_kept | with_reducible apply Kept.ite)
    | intro _
    | split

theorem State.fieldWeaken_kept {s : State} (i : Nat) (hs : Kept sn qs s) :
    Kept sn qs (State.fieldWeaken s i).1 := by
  unfold State.fieldWeaken
  try dsimp -iota only
  repeat' first
    | with_reducible assumption
    | with_reducible apply State.modFoc_kept
    | with_reducible apply Kept.ite
    | with_reducible apply Kept.iteFst
    | (with_reducible apply Kept.mk; first | with_reducible assumption | with_reducible apply State.modFoc_kept | with_reducible apply Kept.ite)
    | intro _
    | split

theorem State.polarityStep_kept {s : State} (i : Nat) (hs : Kept sn qs s) :
    Kept sn qs (State.polarityStep s i) := by
  unfold State.polarityStep
  try dsimp -iota only
  repeat' first
    | with_reducible assumption
    | with_reducible apply State.setFoc_kept
    | with_reducible apply State.axisFault_kept
    | with_reducible apply State.enterEnabled_kept
    | with_reducible apply Kept.ite
    | with_reducible apply Kept.iteFst
    | (with_reducible apply Kept.mk; first | with_reducible assumption | with_reducible apply State.setFoc_kept | with_reducible apply State.axisFault_kept | with_reducible apply State.enterEnabled_kept | with_reducible apply Kept.ite)
    | intro _
    | split

theorem State.currentLoops_kept {s : State} (i : Nat) (vm : Q32) (t2 : Nat) (h : HookOut) (wasHold : Bool) (hs : Kept sn qs s) :
    Kept sn qs (State.currentLoops s i vm t2 h wasHold).1 := by
  unfold State.currentLoops
  try dsimp -iota only
  repeat' first
    | with_reducible assumption
    | with_reducible apply State.modFlags_kept
    | with_reducible apply State.modFoc_kept
    | with_reducible apply State.bumpIf_kept
    | with_reducible apply State.runSection_kept
    | with_reducible apply State.fieldWeaken_kept
    | with_reducible apply Kept.ite
    | with_reducible apply Kept.iteFst
    | (with_reducible apply Kept.mk; first | with_reducible assumption | with_reducible apply State.modFlags_kept | with_reducible apply State.modFoc_kept | with_reducible apply State.bumpIf_kept | with_reducible apply State.runSection_kept | with_reducible apply State.fieldWeaken_kept | with_reducible apply Kept.ite)
    | intro _
    | split

theorem State.sampleFaults_kept {s : State} (i : Nat) (hs : Kept sn qs s) :
    Kept sn qs (State.sampleFaults s i) := by
  unfold State.sampleFaults
  try dsimp -iota only
  repeat' first
    | with_reducible assumption
    | with_reducible apply State.modFlags_kept
    | with_reducible apply State.axisFault_kept
    | with_reducible apply Kept.ite
    | with_reducible apply Kept.iteFst
    | (with_reducible apply Kept.mk; first | with_reducible assumption | with_reducible apply State.modFlags_kept | with_reducible apply State.axisFault_kept | with_reducible apply Kept.ite)
    | intro _
    | split

theorem State.watchStandstill_kept {s : State} (i : Nat) (tm : Nat) (hs : Kept sn qs s) :
    Kept sn qs (State.watchStandstill s i tm) := by
  unfold State.watchStandstill
  try dsimp -iota only
  repeat' first
    | with_reducible assumption
    | with_reducible apply State.modFlags_kept
    | with_reducible apply Kept.ite
    | with_reducible apply Kept.iteFst
    | (with_reducible apply Kept.mk; first | with_reducible assumption | with_reducible apply State.modFlags_kept | with_reducible apply Kept.ite)
    | intro _
    | split

theorem State.noteSaturation_kept {s : State} (i : Nat) (sat : Bool) (hs : Kept sn qs s) :
    Kept sn qs (State.noteSaturation s i sat) := by
  unfold State.noteSaturation
  try dsimp -iota only
  repeat' first
    | with_reducible assumption
    | with_reducible apply State.modFlags_kept
    | with_reducible apply State.holdOutputs_kept
    | with_reducible apply State.axisFault_kept
    | with_reducible apply Kept.ite
    | with_reducible apply Kept.iteFst
    | (with_reducible apply Kept.mk; first | with_reducible assumption | with_reducible apply State.modFlags_kept | with_reducible apply State.holdOutputs_kept | with_reducible apply State.axisFault_kept | with_reducible apply Kept.ite)
    | intro _
    | split

theorem State.driveSample_kept {s : State} (i : Nat) (h : HookOut) (t2 : Nat) (wasHold : Bool) (hs : Kept sn qs s) :
    Kept sn qs (State.driveSample s i h t2 wasHold) := by
  unfold State.driveSample
  try dsimp -iota only
  repeat' first
    | with_reducible assumption
    | with_reducible apply State.bumpIf_kept
    | with_reducible apply State.keepOutputs_kept
    | with_reducible apply State.trailRest_kept
    | with_reducible apply State.sampleSetpoint_kept
    | with_reducible apply State.outerLoops_kept
    | with_reducible apply State.startLoops_kept
    | with_reducible apply State.currentLoops_kept
    | with_reducible apply State.noteSaturation_kept
    | with_reducible apply Kept.ite
    | with_reducible apply Kept.iteFst
    | (with_reducible apply Kept.mk; first | with_reducible assumption | with_reducible apply State.bumpIf_kept | with_reducible apply State.keepOutputs_kept | with_reducible apply State.trailRest_kept | with_reducible apply State.sampleSetpoint_kept | with_reducible apply State.outerLoops_kept | with_reducible apply State.startLoops_kept | with_reducible apply State.currentLoops_kept | with_reducible apply State.noteSaturation_kept | with_reducible apply Kept.ite)
    | intro _
    | split

theorem State.noteSample_kept {s : State} (i : Nat) (hs : Kept sn qs s) :
    Kept sn qs (State.noteSample s i) := by
  unfold State.noteSample
  try dsimp -iota only
  repeat' first
    | with_reducible assumption
    | with_reducible apply State.modFlags_kept
    | with_reducible apply State.fireCrossings_kept
    | with_reducible apply Kept.ite
    | with_reducible apply Kept.iteFst
    | (with_reducible apply Kept.mk; first | with_reducible assumption | with_reducible apply State.modFlags_kept | with_reducible apply State.fireCrossings_kept | with_reducible apply Kept.ite)
    | intro _
    | split

theorem State.releaseSample_kept {s : State} (i : Nat) (h : HookOut) (hs : Kept sn qs s) :
    Kept sn qs (State.releaseSample s i h) := by
  unfold State.releaseSample
  try dsimp -iota only
  repeat' first
    | with_reducible assumption
    | with_reducible apply State.modLoop_kept
    | with_reducible apply State.modFlags_kept
    | with_reducible apply State.modFoc_kept
    | with_reducible apply State.coastReport_kept
    | with_reducible apply State.enterEnabled_kept
    | with_reducible apply State.publishMeasured_kept
    | with_reducible apply State.homeInterp_kept
    | with_reducible apply State.watchFreeze_kept
    | with_reducible apply State.sampleFeedback_kept
    | with_reducible apply State.sampleCurrents_kept
    | with_reducible apply State.sampleAngle_kept
    | with_reducible apply State.polarityStep_kept
    | with_reducible apply State.sampleFaults_kept
    | with_reducible apply State.watchStandstill_kept
    | with_reducible apply State.driveSample_kept
    | with_reducible apply State.noteSample_kept
    | with_reducible apply Kept.ite
    | with_reducible apply Kept.iteFst
    | (with_reducible apply Kept.mk; first | with_reducible assumption | with_reducible apply State.modLoop_kept | with_reducible apply State.modFlags_kept | with_reducible apply State.modFoc_kept | with_reducible apply State.coastReport_kept | with_reducible apply State.enterEnabled_kept | with_reducible apply State.publishMeasured_kept | with_reducible apply State.homeInterp_kept | with_reducible apply State.watchFreeze_kept | with_reducible apply State.sampleFeedback_kept | with_reducible apply State.sampleCurrents_kept | with_reducible apply State.sampleAngle_kept | with_reducible apply State.polarityStep_kept | with_reducible apply State.sampleFaults_kept | with_reducible apply State.watchStandstill_kept | with_reducible apply State.driveSample_kept | with_reducible apply State.noteSample_kept | with_reducible apply Kept.ite)
    | intro _
    | split

end Sys2Proof.Machine
end

