-- ==== Sys2Proof/Laws/KeptServo.lean ====
section
/-! SUPPORT. Every operation of Machine/Servo.lean keeps the queue and the soundness of the state. -/

set_option linter.all false
namespace Sys2Proof.Machine

variable {sn : Bool} {qs : List Instr}

theorem State.placePeriod_kept {s : State} (i : Nat) (d : Abc) (hs : Kept sn qs s) :
    Kept sn qs (State.placePeriod s i d) := by
  unfold State.placePeriod
  try dsimp -iota only
  repeat' first
    | with_reducible assumption
    | with_reducible apply State.setPwm_kept
    | with_reducible apply State.bumpIf_kept
    | with_reducible apply Kept.ite
    | with_reducible apply Kept.iteFst
    | (with_reducible apply Kept.mk; first | with_reducible assumption | with_reducible apply State.setPwm_kept | with_reducible apply State.bumpIf_kept | with_reducible apply Kept.ite)
    | intro _
    | split

theorem State.loadDuties_kept {s : State} (i : Nat) (hs : Kept sn qs s) :
    Kept sn qs (State.loadDuties s i) := by
  unfold State.loadDuties
  try dsimp -iota only
  repeat' first
    | with_reducible assumption
    | with_reducible apply State.setPwm_kept
    | with_reducible apply State.bumpIf_kept
    | with_reducible apply State.axisFault_kept
    | with_reducible apply State.placePeriod_kept
    | with_reducible apply Kept.ite
    | with_reducible apply Kept.iteFst
    | (with_reducible apply Kept.mk; first | with_reducible assumption | with_reducible apply State.setPwm_kept | with_reducible apply State.bumpIf_kept | with_reducible apply State.axisFault_kept | with_reducible apply State.placePeriod_kept | with_reducible apply Kept.ite)
    | intro _
    | split

theorem execUpdatePoint_kept (axis : Fin 32) {s : State} (hs : Kept sn qs s) :
    nextHas (Kept sn qs) (execUpdatePoint axis s) := by
  unfold execUpdatePoint
  try dsimp -iota only
  repeat' first
    | with_reducible assumption
    | with_reducible apply State.modPwm_kept
    | with_reducible apply State.modFlags_kept
    | with_reducible apply State.stopAtUpdate_kept
    | with_reducible apply State.lossReport_kept
    | with_reducible apply State.loadDuties_kept
    | with_reducible apply Kept.ite
    | with_reducible apply Kept.iteFst
    | exact trivial
    | with_reducible apply Kept.next
    | with_reducible apply Kept.iteOut
    | (with_reducible apply Kept.mk; first | with_reducible assumption | with_reducible apply State.modPwm_kept | with_reducible apply State.modFlags_kept | with_reducible apply State.stopAtUpdate_kept | with_reducible apply State.lossReport_kept | with_reducible apply State.loadDuties_kept | with_reducible apply Kept.ite)
    | intro _
    | split

theorem execShuntSample_kept (axis : Fin 32) {s : State} (hs : Kept sn qs s) :
    nextHas (Kept sn qs) (execShuntSample axis s) := by
  unfold execShuntSample
  try dsimp -iota only
  repeat' first
    | with_reducible assumption
    | with_reducible apply State.setPwm_kept
    | with_reducible apply State.modQuad_kept
    | with_reducible apply Kept.ite
    | with_reducible apply Kept.iteFst
    | exact trivial
    | with_reducible apply Kept.next
    | with_reducible apply Kept.iteOut
    | (with_reducible apply Kept.mk; first | with_reducible assumption | with_reducible apply State.setPwm_kept | with_reducible apply State.modQuad_kept | with_reducible apply Kept.ite)
    | intro _
    | split

theorem execShuntResult_kept (axis : Fin 32) (code : Fin 16384) {s : State} (hs : Kept sn qs s) :
    nextHas (Kept sn qs) (execShuntResult axis code s) := by
  unfold execShuntResult
  try dsimp -iota only
  repeat' first
    | with_reducible assumption
    | with_reducible apply State.modPwm_kept
    | with_reducible apply Kept.ite
    | with_reducible apply Kept.iteFst
    | exact trivial
    | with_reducible apply Kept.next
    | with_reducible apply Kept.iteOut
    | (with_reducible apply Kept.mk; first | with_reducible assumption | with_reducible apply State.modPwm_kept | with_reducible apply Kept.ite)
    | intro _
    | split

theorem State.writePage_kept (le i : Nat) {s : State} (w : PageWrite) (hs : Kept sn qs s) :
    Kept sn qs (State.writePage le i s w) := by
  unfold State.writePage
  extract_lets a s1
  have h1 : Kept sn qs s1 := State.modEngine_kept _ _ hs (fun e h => Engine.store_wf _ _ h)
  split
  · exact State.modFlags_kept _ _ h1
  · exact h1

theorem State.sampleView_kept {s : State} (i : Nat) (hs : Kept sn qs s) :
    Kept sn qs (State.sampleView s i) := by
  unfold State.sampleView
  try dsimp -iota only
  repeat' first
    | with_reducible assumption
    | with_reducible apply State.modFlags_kept
    | with_reducible apply Kept.ite
    | with_reducible apply Kept.iteFst
    | (with_reducible apply Kept.mk; first | with_reducible assumption | with_reducible apply State.modFlags_kept | with_reducible apply Kept.ite)
    | intro _
    | split

theorem State.sampleBack_kept {now done : State} (i : Nat) (hnow : Kept sn qs now) (hdone : Kept sn qs done) :
    Kept sn qs (State.sampleBack now done i) := by
  unfold State.sampleBack
  try dsimp -iota only
  repeat' first
    | with_reducible assumption
    | with_reducible apply State.modFlags_kept
    | with_reducible apply Kept.ite
    | with_reducible apply Kept.iteFst
    | (with_reducible apply Kept.mk; first | with_reducible assumption | with_reducible apply State.modFlags_kept | with_reducible apply Kept.ite)
    | intro _
    | split

theorem State.releaseOn_kept {s : State} (le i : Nat) (hook : HookOut) (hs : Kept sn qs s) :
    Kept sn qs (State.releaseOn s le i hook) := by
  unfold State.releaseOn
  try dsimp -iota only
  repeat' first
    | with_reducible assumption
    | with_reducible apply State.endComputation_kept
    | with_reducible apply State.queueComputation_kept
    | with_reducible apply State.eccFound_kept
    | with_reducible apply State.releaseSample_kept
    | with_reducible apply State.writePage_kept
    | with_reducible apply State.sampleView_kept
    | with_reducible apply State.sampleBack_kept
    | with_reducible apply Kept.ite
    | with_reducible apply Kept.iteFst
    | with_reducible apply Kept.foldl
    | (with_reducible refine Engine.wf_of (by with_reducible assumption) ?_ ?_ ?_ <;> with_reducible rfl)
    | (with_reducible apply Kept.mk; first | with_reducible assumption | with_reducible apply State.endComputation_kept | with_reducible apply State.queueComputation_kept | with_reducible apply State.eccFound_kept | with_reducible apply State.releaseSample_kept | with_reducible apply State.writePage_kept | with_reducible apply State.sampleView_kept | with_reducible apply State.sampleBack_kept | with_reducible apply Kept.ite)
    | intro _
    | split

theorem execAxisRelease_kept (axis : Fin 32) (hook : HookOut) {s : State} (hs : Kept sn qs s) :
    nextHas (Kept sn qs) (execAxisRelease axis hook s) := by
  unfold execAxisRelease
  try dsimp -iota only
  repeat' first
    | with_reducible assumption
    | with_reducible apply State.modFlags_kept
    | with_reducible apply State.run_kept
    | with_reducible apply State.sampleFeedback_kept
    | with_reducible apply State.noteSample_kept
    | with_reducible apply State.releaseOn_kept
    | with_reducible apply Kept.ite
    | with_reducible apply Kept.iteFst
    | exact trivial
    | with_reducible apply Kept.next
    | with_reducible apply Kept.iteOut
    | (with_reducible refine Engine.wf_of (by with_reducible assumption) ?_ ?_ ?_ <;> with_reducible rfl)
    | (with_reducible apply Kept.mk; first | with_reducible assumption | with_reducible apply State.modFlags_kept | with_reducible apply State.run_kept | with_reducible apply State.sampleFeedback_kept | with_reducible apply State.noteSample_kept | with_reducible apply State.releaseOn_kept | with_reducible apply Kept.ite)
    | intro _
    | split

theorem execSegmentStarvedStop_kept (axis : Fin 32) {s : State} (hs : Kept sn qs s) :
    nextHas (Kept sn qs) (execSegmentStarvedStop axis s) := by
  unfold execSegmentStarvedStop
  try dsimp -iota only
  repeat' first
    | with_reducible assumption
    | with_reducible apply State.axisFault_kept
    | with_reducible apply Kept.ite
    | with_reducible apply Kept.iteFst
    | exact trivial
    | with_reducible apply Kept.next
    | with_reducible apply Kept.iteOut
    | (with_reducible apply Kept.mk; first | with_reducible assumption | with_reducible apply State.axisFault_kept | with_reducible apply Kept.ite)
    | intro _
    | split

theorem execBudgetOverrun_kept (axis : Fin 32) {s : State} (hs : Kept sn qs s) :
    nextHas (Kept sn qs) (execBudgetOverrun axis s) := by
  unfold execBudgetOverrun
  try dsimp -iota only
  repeat' first
    | with_reducible assumption
    | with_reducible apply State.endComputation_kept
    | with_reducible apply Kept.ite
    | with_reducible apply Kept.iteFst
    | exact trivial
    | with_reducible apply Kept.next
    | with_reducible apply Kept.iteOut
    | (with_reducible apply Kept.mk; first | with_reducible assumption | with_reducible apply State.endComputation_kept | with_reducible apply Kept.ite)
    | intro _
    | split

theorem State.readEsr_kept {s : State} (i le : Nat) (hs : Kept sn qs s) :
    Kept sn qs (State.readEsr s i le) := by
  unfold State.readEsr
  try dsimp -iota only
  repeat' first
    | with_reducible assumption
    | with_reducible apply State.bumpIf_kept
    | with_reducible apply State.noteSaturation_kept
    | with_reducible apply Kept.ite
    | with_reducible apply Kept.iteFst
    | (with_reducible refine Engine.wf_of (by with_reducible assumption) ?_ ?_ ?_ <;> with_reducible rfl)
    | (with_reducible apply Kept.mk; first | with_reducible assumption | with_reducible apply State.bumpIf_kept | with_reducible apply State.noteSaturation_kept | with_reducible apply Kept.ite)
    | intro _
    | split

theorem State.migrated_kept {s : State} (i : Nat) (hs : Kept sn qs s) :
    Kept sn qs (State.migrated s i) := by
  unfold State.migrated
  try dsimp -iota only
  repeat' first
    | with_reducible assumption
    | with_reducible apply State.modPower_kept
    | with_reducible apply State.bump_kept
    | with_reducible apply State.log_kept
    | with_reducible apply State.ok_kept
    | with_reducible apply State.finishOpt_kept
    | with_reducible apply Kept.ite
    | with_reducible apply Kept.iteFst
    | (with_reducible refine Engine.wf_of (by with_reducible assumption) ?_ ?_ ?_ <;> with_reducible rfl)
    | (with_reducible apply Kept.mk; first | with_reducible assumption | with_reducible apply State.modPower_kept | with_reducible apply State.bump_kept | with_reducible apply State.log_kept | with_reducible apply State.ok_kept | with_reducible apply State.finishOpt_kept | with_reducible apply Kept.ite)
    | intro _
    | split

theorem State.commitDuties_kept {s : State} (le i : Nat) (hs : Kept sn qs s) :
    Kept sn qs (State.commitDuties s le i) := by
  unfold State.commitDuties
  try dsimp -iota only
  repeat' first
    | with_reducible assumption
    | with_reducible apply State.modPwm_kept
    | with_reducible apply State.modFlags_kept
    | with_reducible apply State.readEsr_kept
    | with_reducible apply State.migrated_kept
    | with_reducible apply Kept.ite
    | with_reducible apply Kept.iteFst
    | (with_reducible apply Kept.mk; first | with_reducible assumption | with_reducible apply State.modPwm_kept | with_reducible apply State.modFlags_kept | with_reducible apply State.readEsr_kept | with_reducible apply State.migrated_kept | with_reducible apply Kept.ite)
    | intro _
    | split

theorem execDutyCommit_kept (axis : Fin 32) {s : State} (hs : Kept sn qs s) :
    nextHas (Kept sn qs) (execDutyCommit axis s) := by
  unfold execDutyCommit
  try dsimp -iota only
  repeat' first
    | with_reducible assumption
    | with_reducible apply State.modEngine_kept
    | with_reducible apply State.proceed_kept
    | with_reducible apply State.commitDuties_kept
    | with_reducible apply Kept.ite
    | with_reducible apply Kept.iteFst
    | exact trivial
    | with_reducible apply Kept.next
    | with_reducible apply Kept.iteOut
    | (with_reducible refine Engine.wf_of (by with_reducible assumption) ?_ ?_ ?_ <;> with_reducible rfl)
    | (with_reducible apply Kept.mk; first | with_reducible assumption | with_reducible apply State.modEngine_kept | with_reducible apply State.proceed_kept | with_reducible apply State.commitDuties_kept | with_reducible apply Kept.ite)
    | intro _
    | split

theorem execPrechargeDone_kept (axis : Fin 32) {s : State} (hs : Kept sn qs s) :
    nextHas (Kept sn qs) (execPrechargeDone axis s) := by
  unfold execPrechargeDone
  try dsimp -iota only
  repeat' first
    | with_reducible assumption
    | with_reducible apply State.modLoop_kept
    | with_reducible apply Kept.ite
    | with_reducible apply Kept.iteFst
    | exact trivial
    | with_reducible apply Kept.next
    | with_reducible apply Kept.iteOut
    | (with_reducible apply Kept.mk; first | with_reducible assumption | with_reducible apply State.modLoop_kept | with_reducible apply Kept.ite)
    | intro _
    | split

theorem State.beginListen_kept {s : State} (i : Nat) (hs : Kept sn qs s) :
    Kept sn qs (State.beginListen s i) := by
  unfold State.beginListen
  try dsimp -iota only
  repeat' first
    | with_reducible assumption
    | with_reducible apply State.modFoc_kept
    | with_reducible apply Kept.ite
    | with_reducible apply Kept.iteFst
    | (with_reducible apply Kept.mk; first | with_reducible assumption | with_reducible apply State.modFoc_kept | with_reducible apply Kept.ite)
    | intro _
    | split

theorem State.servoCalibrated_kept {s : State} (i : Nat) (codes : List Int) (hs : Kept sn qs s) :
    Kept sn qs (State.servoCalibrated s i codes) := by
  unfold State.servoCalibrated
  try dsimp -iota only
  repeat' first
    | with_reducible assumption
    | with_reducible apply State.modLoop_kept
    | with_reducible apply State.modFoc_kept
    | with_reducible apply State.log_kept
    | with_reducible apply State.gates_kept
    | with_reducible apply State.beginListen_kept
    | with_reducible apply Kept.ite
    | with_reducible apply Kept.iteFst
    | (with_reducible apply Kept.mk; first | with_reducible assumption | with_reducible apply State.modLoop_kept | with_reducible apply State.modFoc_kept | with_reducible apply State.log_kept | with_reducible apply State.gates_kept | with_reducible apply State.beginListen_kept | with_reducible apply Kept.ite)
    | intro _
    | split

theorem execEnableTimeout_kept (axis : Fin 32) {s : State} (hs : Kept sn qs s) :
    nextHas (Kept sn qs) (execEnableTimeout axis s) := by
  unfold execEnableTimeout
  try dsimp -iota only
  repeat' first
    | with_reducible assumption
    | with_reducible apply State.axisFault_kept
    | with_reducible apply Kept.ite
    | with_reducible apply Kept.iteFst
    | exact trivial
    | with_reducible apply Kept.next
    | with_reducible apply Kept.iteOut
    | (with_reducible apply Kept.mk; first | with_reducible assumption | with_reducible apply State.axisFault_kept | with_reducible apply Kept.ite)
    | intro _
    | split

theorem State.servoListenEnd_kept {s : State} (i : Nat) (hs : Kept sn qs s) :
    Kept sn qs (State.servoListenEnd s i) := by
  unfold State.servoListenEnd
  try dsimp -iota only
  repeat' first
    | with_reducible assumption
    | with_reducible apply State.modLoop_kept
    | with_reducible apply State.modFoc_kept
    | with_reducible apply State.bump_kept
    | with_reducible apply State.axisFault_kept
    | with_reducible apply State.enterEnabled_kept
    | with_reducible apply State.holdAsVel_kept
    | with_reducible apply Kept.ite
    | with_reducible apply Kept.iteFst
    | (with_reducible apply Kept.mk; first | with_reducible assumption | with_reducible apply State.modLoop_kept | with_reducible apply State.modFoc_kept | with_reducible apply State.bump_kept | with_reducible apply State.axisFault_kept | with_reducible apply State.enterEnabled_kept | with_reducible apply State.holdAsVel_kept | with_reducible apply Kept.ite)
    | intro _
    | split

theorem execPolarityTest_kept (axis : Fin 32) (_posPeak _negPeak : Held) {s : State} (hs : Kept sn qs s) :
    nextHas (Kept sn qs) (execPolarityTest axis _posPeak _negPeak s) := by
  unfold execPolarityTest
  try dsimp -iota only
  repeat' first
    | with_reducible assumption
    | with_reducible apply State.modFoc_kept
    | with_reducible apply Kept.ite
    | with_reducible apply Kept.iteFst
    | exact trivial
    | with_reducible apply Kept.next
    | with_reducible apply Kept.iteOut
    | (with_reducible apply Kept.mk; first | with_reducible assumption | with_reducible apply State.modFoc_kept | with_reducible apply Kept.ite)
    | intro _
    | split

theorem execStandstill_kept (axis : Fin 32) {s : State} (hs : Kept sn qs s) :
    nextHas (Kept sn qs) (execStandstill axis s) := by
  unfold execStandstill
  try dsimp -iota only
  repeat' first
    | with_reducible assumption
    | with_reducible apply State.modFlags_kept
    | with_reducible apply State.modFoc_kept
    | with_reducible apply State.writeReport_kept
    | with_reducible apply State.enterEnabled_kept
    | with_reducible apply State.rampDone_kept
    | with_reducible apply Kept.ite
    | with_reducible apply Kept.iteFst
    | exact trivial
    | with_reducible apply Kept.next
    | with_reducible apply Kept.iteOut
    | (with_reducible apply Kept.mk; first | with_reducible assumption | with_reducible apply State.modFlags_kept | with_reducible apply State.modFoc_kept | with_reducible apply State.writeReport_kept | with_reducible apply State.enterEnabled_kept | with_reducible apply State.rampDone_kept | with_reducible apply Kept.ite)
    | intro _
    | split

theorem execStopTimeout_kept (axis : Fin 32) {s : State} (hs : Kept sn qs s) :
    nextHas (Kept sn qs) (execStopTimeout axis s) := by
  unfold execStopTimeout
  try dsimp -iota only
  repeat' first
    | with_reducible assumption
    | with_reducible apply State.modLoop_kept
    | with_reducible apply State.modTrail_kept
    | with_reducible apply State.recordCause_kept
    | with_reducible apply Kept.ite
    | with_reducible apply Kept.iteFst
    | exact trivial
    | with_reducible apply Kept.next
    | with_reducible apply Kept.iteOut
    | (with_reducible apply Kept.mk; first | with_reducible assumption | with_reducible apply State.modLoop_kept | with_reducible apply State.modTrail_kept | with_reducible apply State.recordCause_kept | with_reducible apply Kept.ite)
    | intro _
    | split

theorem State.servoSto_kept {s : State} (i : Nat) (hs : Kept sn qs s) :
    Kept sn qs (State.servoSto s i) := by
  unfold State.servoSto
  try dsimp -iota only
  repeat' first
    | with_reducible assumption
    | with_reducible apply State.modPwm_kept
    | with_reducible apply State.modFlags_kept
    | with_reducible apply State.gates_kept
    | with_reducible apply State.axisFault_kept
    | with_reducible apply Kept.ite
    | with_reducible apply Kept.iteFst
    | (with_reducible apply Kept.mk; first | with_reducible assumption | with_reducible apply State.modPwm_kept | with_reducible apply State.modFlags_kept | with_reducible apply State.gates_kept | with_reducible apply State.axisFault_kept | with_reducible apply Kept.ite)
    | intro _
    | split

theorem State.servoGateFault_kept {s : State} (i : Nat) (active : Bool) (hs : Kept sn qs s) :
    Kept sn qs (State.servoGateFault s i active) := by
  unfold State.servoGateFault
  try dsimp -iota only
  repeat' first
    | with_reducible assumption
    | with_reducible apply State.modFlags_kept
    | with_reducible apply State.gates_kept
    | with_reducible apply Kept.ite
    | with_reducible apply Kept.iteFst
    | (with_reducible apply Kept.mk; first | with_reducible assumption | with_reducible apply State.modFlags_kept | with_reducible apply State.gates_kept | with_reducible apply Kept.ite)
    | intro _
    | split

theorem State.servoHoldEnd_kept {s : State} (i : Nat) (hs : Kept sn qs s) :
    Kept sn qs (State.servoHoldEnd s i) := by
  unfold State.servoHoldEnd
  try dsimp -iota only
  repeat' first
    | with_reducible assumption
    | with_reducible apply State.modFoc_kept
    | with_reducible apply State.log_kept
    | with_reducible apply State.gates_kept
    | with_reducible apply State.axisFault_kept
    | with_reducible apply Kept.ite
    | with_reducible apply Kept.iteFst
    | (with_reducible apply Kept.mk; first | with_reducible assumption | with_reducible apply State.modFoc_kept | with_reducible apply State.log_kept | with_reducible apply State.gates_kept | with_reducible apply State.axisFault_kept | with_reducible apply Kept.ite)
    | intro _
    | split

end Sys2Proof.Machine
end

