-- ==== Sys2Proof/Laws/KeptStepper.lean ====
section
/-! SUPPORT. Every operation of Machine/Stepper.lean keeps the queue and the soundness of the state. -/

set_option linter.all false
namespace Sys2Proof.Machine

variable {sn : Bool} {qs : List Instr}

theorem execStepperRelease_kept (ch : Fin 32) {s : State} (hs : Kept sn qs s) :
    nextHas (Kept sn qs) (execStepperRelease ch s) := by
  unfold execStepperRelease
  try dsimp -iota only
  repeat' first
    | with_reducible assumption
    | with_reducible apply State.modStepper_kept
    | with_reducible apply State.bumpIf_kept
    | with_reducible apply State.stpFault_kept
    | with_reducible apply State.setpointAt_kept
    | with_reducible apply State.trailRest_kept
    | with_reducible apply Kept.ite
    | with_reducible apply Kept.iteFst
    | exact trivial
    | with_reducible apply Kept.next
    | with_reducible apply Kept.iteOut
    | (with_reducible apply Kept.mk; first | with_reducible assumption | with_reducible apply State.modStepper_kept | with_reducible apply State.bumpIf_kept | with_reducible apply State.stpFault_kept | with_reducible apply State.setpointAt_kept | with_reducible apply State.trailRest_kept | with_reducible apply Kept.ite)
    | intro _
    | split

theorem State.stpRampTo_kept {s : State} (i : Nat) (amps : Rat) (hold : Bool) (hs : Kept sn qs s) :
    Kept sn qs (State.stpRampTo s i amps hold) := by
  unfold State.stpRampTo
  try dsimp -iota only
  repeat' first
    | with_reducible assumption
    | with_reducible apply State.modStepper_kept
    | with_reducible apply Kept.ite
    | with_reducible apply Kept.iteFst
    | (with_reducible apply Kept.mk; first | with_reducible assumption | with_reducible apply State.modStepper_kept | with_reducible apply Kept.ite)
    | intro _
    | split

theorem State.modCoil_kept {s : State} (i : Nat) (b : Bool) (g : Coil → Coil) (hs : Kept sn qs s) :
    Kept sn qs (State.modCoil s i b g) := by
  unfold State.modCoil
  try dsimp -iota only
  repeat' first
    | with_reducible assumption
    | with_reducible apply State.modStepper_kept
    | with_reducible apply Kept.ite
    | with_reducible apply Kept.iteFst
    | (with_reducible apply Kept.mk; first | with_reducible assumption | with_reducible apply State.modStepper_kept | with_reducible apply Kept.ite)
    | intro _
    | split

theorem State.coilOn_kept {s : State} (i : Nat) (b : Bool) (hs : Kept sn qs s) :
    Kept sn qs (State.coilOn s i b) := by
  unfold State.coilOn
  try dsimp -iota only
  repeat' first
    | with_reducible assumption
    | with_reducible apply State.modCoil_kept
    | with_reducible apply Kept.ite
    | with_reducible apply Kept.iteFst
    | (with_reducible apply Kept.mk; first | with_reducible assumption | with_reducible apply State.modCoil_kept | with_reducible apply Kept.ite)
    | intro _
    | split

theorem State.coilOff_kept {s : State} (i : Nat) (b : Bool) (hs : Kept sn qs s) :
    Kept sn qs (State.coilOff s i b) := by
  unfold State.coilOff
  try dsimp -iota only
  repeat' first
    | with_reducible assumption
    | with_reducible apply State.modCoil_kept
    | with_reducible apply Kept.ite
    | with_reducible apply Kept.iteFst
    | (with_reducible apply Kept.mk; first | with_reducible assumption | with_reducible apply State.modCoil_kept | with_reducible apply Kept.ite)
    | intro _
    | split

theorem State.fastOver_kept {s : State} (i : Nat) (b : Bool) (hs : Kept sn qs s) :
    Kept sn qs (State.fastOver s i b) := by
  unfold State.fastOver
  try dsimp -iota only
  repeat' first
    | with_reducible assumption
    | with_reducible apply State.modCoil_kept
    | with_reducible apply Kept.ite
    | with_reducible apply Kept.iteFst
    | (with_reducible apply Kept.mk; first | with_reducible assumption | with_reducible apply State.modCoil_kept | with_reducible apply Kept.ite)
    | intro _
    | split

theorem State.stpSetCoils_kept {s : State} (i : Nat) (step : Bool) (hs : Kept sn qs s) :
    Kept sn qs (State.stpSetCoils s i step) := by
  unfold State.stpSetCoils
  try dsimp -iota only
  repeat' first
    | with_reducible assumption
    | with_reducible apply State.modCoil_kept
    | with_reducible apply State.fastOver_kept
    | with_reducible apply Kept.ite
    | with_reducible apply Kept.iteFst
    | (with_reducible apply Kept.mk; first | with_reducible assumption | with_reducible apply State.modCoil_kept | with_reducible apply State.fastOver_kept | with_reducible apply Kept.ite)
    | intro _
    | split

theorem execChopperTrip_kept (ch : Fin 32) (coilB : Bool) {s : State} (hs : Kept sn qs s) :
    nextHas (Kept sn qs) (execChopperTrip ch coilB s) := by
  unfold execChopperTrip
  try dsimp -iota only
  repeat' first
    | with_reducible assumption
    | with_reducible apply State.modCoil_kept
    | with_reducible apply State.coilOn_kept
    | with_reducible apply State.coilOff_kept
    | with_reducible apply State.fastOver_kept
    | with_reducible apply Kept.ite
    | with_reducible apply Kept.iteFst
    | exact trivial
    | with_reducible apply Kept.next
    | with_reducible apply Kept.iteOut
    | (with_reducible apply Kept.mk; first | with_reducible assumption | with_reducible apply State.modCoil_kept | with_reducible apply State.coilOn_kept | with_reducible apply State.coilOff_kept | with_reducible apply State.fastOver_kept | with_reducible apply Kept.ite)
    | intro _
    | split

theorem execChopperToffMax_kept (ch : Fin 32) (coilB : Bool) {s : State} (hs : Kept sn qs s) :
    nextHas (Kept sn qs) (execChopperToffMax ch coilB s) := by
  unfold execChopperToffMax
  try dsimp -iota only
  repeat' first
    | with_reducible assumption
    | with_reducible apply State.bump_kept
    | with_reducible apply State.coilOn_kept
    | with_reducible apply Kept.ite
    | with_reducible apply Kept.iteFst
    | exact trivial
    | with_reducible apply Kept.next
    | with_reducible apply Kept.iteOut
    | (with_reducible apply Kept.mk; first | with_reducible assumption | with_reducible apply State.bump_kept | with_reducible apply State.coilOn_kept | with_reducible apply Kept.ite)
    | intro _
    | split

theorem execMicrostep_kept (ch : Fin 32) {s : State} (hs : Kept sn qs s) :
    nextHas (Kept sn qs) (execMicrostep ch s) := by
  unfold execMicrostep
  try dsimp -iota only
  repeat' first
    | with_reducible assumption
    | with_reducible apply State.modStepper_kept
    | with_reducible apply State.bumpIf_kept
    | with_reducible apply State.stpFault_kept
    | with_reducible apply State.stpRampTo_kept
    | with_reducible apply State.stpSetCoils_kept
    | with_reducible apply Kept.ite
    | with_reducible apply Kept.iteFst
    | exact trivial
    | with_reducible apply Kept.next
    | with_reducible apply Kept.iteOut
    | (with_reducible apply Kept.mk; first | with_reducible assumption | with_reducible apply State.modStepper_kept | with_reducible apply State.bumpIf_kept | with_reducible apply State.stpFault_kept | with_reducible apply State.stpRampTo_kept | with_reducible apply State.stpSetCoils_kept | with_reducible apply Kept.ite)
    | intro _
    | split

theorem execStepperIdleTimeout_kept (ch : Fin 32) {s : State} (hs : Kept sn qs s) :
    nextHas (Kept sn qs) (execStepperIdleTimeout ch s) := by
  unfold execStepperIdleTimeout
  try dsimp -iota only
  repeat' first
    | with_reducible assumption
    | with_reducible apply State.stpRampTo_kept
    | with_reducible apply State.stpSetCoils_kept
    | with_reducible apply Kept.ite
    | with_reducible apply Kept.iteFst
    | exact trivial
    | with_reducible apply Kept.next
    | with_reducible apply Kept.iteOut
    | (with_reducible apply Kept.mk; first | with_reducible assumption | with_reducible apply State.stpRampTo_kept | with_reducible apply State.stpSetCoils_kept | with_reducible apply Kept.ite)
    | intro _
    | split

theorem State.adaptOffset_kept {s : State} (i : Nat) (b : Bool) (amps : Rat) (hs : Kept sn qs s) :
    Kept sn qs (State.adaptOffset s i b amps) := by
  unfold State.adaptOffset
  try dsimp -iota only
  repeat' first
    | with_reducible assumption
    | with_reducible apply State.bumpIf_kept
    | with_reducible apply State.modCoil_kept
    | with_reducible apply Kept.ite
    | with_reducible apply Kept.iteFst
    | (with_reducible apply Kept.mk; first | with_reducible assumption | with_reducible apply State.bumpIf_kept | with_reducible apply State.modCoil_kept | with_reducible apply Kept.ite)
    | intro _
    | split

theorem State.piCorrect_kept {s : State} (i : Nat) (b : Bool) (amps : Rat) (hs : Kept sn qs s) :
    Kept sn qs (State.piCorrect s i b amps) := by
  unfold State.piCorrect
  try dsimp -iota only
  repeat' first
    | with_reducible assumption
    | with_reducible apply State.modCoil_kept
    | with_reducible apply Kept.ite
    | with_reducible apply Kept.iteFst
    | (with_reducible apply Kept.mk; first | with_reducible assumption | with_reducible apply State.modCoil_kept | with_reducible apply Kept.ite)
    | intro _
    | split

theorem execStepperCurrentConversion_kept (ch : Fin 32) (coilB : Bool) (code : Fin 4096) {s : State} (hs : Kept sn qs s) :
    nextHas (Kept sn qs) (execStepperCurrentConversion ch coilB code s) := by
  unfold execStepperCurrentConversion
  try dsimp -iota only
  repeat' first
    | with_reducible assumption
    | with_reducible apply State.stpFault_kept
    | with_reducible apply State.modCoil_kept
    | with_reducible apply State.stpSetCoils_kept
    | with_reducible apply State.adaptOffset_kept
    | with_reducible apply State.piCorrect_kept
    | with_reducible apply Kept.ite
    | with_reducible apply Kept.iteFst
    | exact trivial
    | with_reducible apply Kept.next
    | with_reducible apply Kept.iteOut
    | (with_reducible apply Kept.mk; first | with_reducible assumption | with_reducible apply State.stpFault_kept | with_reducible apply State.modCoil_kept | with_reducible apply State.stpSetCoils_kept | with_reducible apply State.adaptOffset_kept | with_reducible apply State.piCorrect_kept | with_reducible apply Kept.ite)
    | intro _
    | split

theorem execStepperPwmPeriod_kept (ch : Fin 32) (coilB : Bool) {s : State} (hs : Kept sn qs s) :
    nextHas (Kept sn qs) (execStepperPwmPeriod ch coilB s) := by
  unfold execStepperPwmPeriod
  try dsimp -iota only
  repeat' first
    | with_reducible assumption
    | with_reducible apply State.modStepper_kept
    | with_reducible apply State.modCoil_kept
    | with_reducible apply State.stpSetCoils_kept
    | with_reducible apply Kept.ite
    | with_reducible apply Kept.iteFst
    | exact trivial
    | with_reducible apply Kept.next
    | with_reducible apply Kept.iteOut
    | (with_reducible apply Kept.mk; first | with_reducible assumption | with_reducible apply State.modStepper_kept | with_reducible apply State.modCoil_kept | with_reducible apply State.stpSetCoils_kept | with_reducible apply Kept.ite)
    | intro _
    | split

theorem State.stpBegin_kept {s : State} (i : Nat) (hs : Kept sn qs s) :
    Kept sn qs (State.stpBegin s i) := by
  unfold State.stpBegin
  try dsimp -iota only
  repeat' first
    | with_reducible assumption
    | with_reducible apply State.modTrail_kept
    | with_reducible apply State.modStepper_kept
    | with_reducible apply State.coilOn_kept
    | with_reducible apply State.stpSetCoils_kept
    | with_reducible apply Kept.ite
    | with_reducible apply Kept.iteFst
    | (with_reducible apply Kept.mk; first | with_reducible assumption | with_reducible apply State.modTrail_kept | with_reducible apply State.modStepper_kept | with_reducible apply State.coilOn_kept | with_reducible apply State.stpSetCoils_kept | with_reducible apply Kept.ite)
    | intro _
    | split

theorem execStepperEnableRampDone_kept (ch : Fin 32) {s : State} (hs : Kept sn qs s) :
    nextHas (Kept sn qs) (execStepperEnableRampDone ch s) := by
  unfold execStepperEnableRampDone
  try dsimp -iota only
  repeat' first
    | with_reducible assumption
    | with_reducible apply State.modStepper_kept
    | with_reducible apply State.ok_kept
    | with_reducible apply State.beginPublications_kept
    | with_reducible apply State.complete_kept
    | with_reducible apply State.openTrail_kept
    | with_reducible apply State.setUncertain_kept
    | with_reducible apply State.stpSetCoils_kept
    | with_reducible apply Kept.ite
    | with_reducible apply Kept.iteFst
    | exact trivial
    | with_reducible apply Kept.next
    | with_reducible apply Kept.iteOut
    | (with_reducible apply Kept.mk; first | with_reducible assumption | with_reducible apply State.modStepper_kept | with_reducible apply State.ok_kept | with_reducible apply State.beginPublications_kept | with_reducible apply State.complete_kept | with_reducible apply State.openTrail_kept | with_reducible apply State.setUncertain_kept | with_reducible apply State.stpSetCoils_kept | with_reducible apply Kept.ite)
    | intro _
    | split

theorem State.stpDcLink_kept {s : State} (i : Nat) (hs : Kept sn qs s) :
    Kept sn qs (State.stpDcLink s i) := by
  unfold State.stpDcLink
  try dsimp -iota only
  repeat' first
    | with_reducible assumption
    | with_reducible apply State.setStepper_kept
    | with_reducible apply State.stpFault_kept
    | with_reducible apply Kept.ite
    | with_reducible apply Kept.iteFst
    | (with_reducible apply Kept.mk; first | with_reducible assumption | with_reducible apply State.setStepper_kept | with_reducible apply State.stpFault_kept | with_reducible apply Kept.ite)
    | intro _
    | split

theorem State.stpSto_kept {s : State} (i : Nat) (hs : Kept sn qs s) :
    Kept sn qs (State.stpSto s i) := by
  unfold State.stpSto
  try dsimp -iota only
  repeat' first
    | with_reducible assumption
    | with_reducible apply State.modStepper_kept
    | with_reducible apply State.stpFault_kept
    | with_reducible apply Kept.ite
    | with_reducible apply Kept.iteFst
    | (with_reducible apply Kept.mk; first | with_reducible assumption | with_reducible apply State.modStepper_kept | with_reducible apply State.stpFault_kept | with_reducible apply Kept.ite)
    | intro _
    | split

end Sys2Proof.Machine
end

