-- ==== Sys2Proof/Laws/KeptAuxDrives.lean ====
section
/-! SUPPORT. Every operation of Machine/AuxDrives.lean keeps the queue and the soundness of the state. -/

set_option linter.all false
namespace Sys2Proof.Machine

variable {sn : Bool} {qs : List Instr}

theorem State.auxEnter_kept {s : State} (j : Nat) (st : AuxState) (hs : Kept sn qs s) :
    Kept sn qs (State.auxEnter s j st) := by
  unfold State.auxEnter
  try dsimp -iota only
  repeat' first
    | with_reducible assumption
    | with_reducible apply State.modAux_kept
    | with_reducible apply Kept.ite
    | with_reducible apply Kept.iteFst
    | (with_reducible apply Kept.mk; first | with_reducible assumption | with_reducible apply State.modAux_kept | with_reducible apply Kept.ite)
    | intro _
    | split

theorem State.auxGates_kept {s : State} (j : Nat) (on : Bool) (hs : Kept sn qs s) :
    Kept sn qs (State.auxGates s j on) := by
  unfold State.auxGates
  try dsimp -iota only
  repeat' first
    | with_reducible assumption
    | with_reducible apply State.modAux_kept
    | with_reducible apply State.gates_kept
    | with_reducible apply Kept.ite
    | with_reducible apply Kept.iteFst
    | (with_reducible apply Kept.mk; first | with_reducible assumption | with_reducible apply State.modAux_kept | with_reducible apply State.gates_kept | with_reducible apply Kept.ite)
    | intro _
    | split

theorem State.auxStandby_kept {s : State} (j : Nat) (hs : Kept sn qs s) :
    Kept sn qs (State.auxStandby s j) := by
  unfold State.auxStandby
  try dsimp -iota only
  repeat' first
    | with_reducible assumption
    | with_reducible apply State.modAux_kept
    | with_reducible apply State.auxEnter_kept
    | with_reducible apply State.auxGates_kept
    | with_reducible apply Kept.ite
    | with_reducible apply Kept.iteFst
    | (with_reducible apply Kept.mk; first | with_reducible assumption | with_reducible apply State.modAux_kept | with_reducible apply State.auxEnter_kept | with_reducible apply State.auxGates_kept | with_reducible apply Kept.ite)
    | intro _
    | split

theorem State.auxFault_kept {s : State} (j : Nat) (codes : List Nat) (hs : Kept sn qs s) :
    Kept sn qs (State.auxFault s j codes) := by
  unfold State.auxFault
  try dsimp -iota only
  repeat' first
    | with_reducible assumption
    | with_reducible apply State.modAux_kept
    | with_reducible apply State.log_kept
    | with_reducible apply State.auxEnter_kept
    | with_reducible apply State.auxGates_kept
    | with_reducible apply Kept.ite
    | with_reducible apply Kept.iteFst
    | with_reducible apply Kept.foldl
    | (with_reducible apply Kept.mk; first | with_reducible assumption | with_reducible apply State.modAux_kept | with_reducible apply State.log_kept | with_reducible apply State.auxEnter_kept | with_reducible apply State.auxGates_kept | with_reducible apply Kept.ite)
    | intro _
    | split

theorem State.auxRetry_kept {s : State} (j : Nat) (hs : Kept sn qs s) :
    Kept sn qs (State.auxRetry s j) := by
  unfold State.auxRetry
  try dsimp -iota only
  repeat' first
    | with_reducible assumption
    | with_reducible apply State.modAux_kept
    | with_reducible apply State.auxEnter_kept
    | with_reducible apply State.auxGates_kept
    | with_reducible apply State.auxFault_kept
    | with_reducible apply Kept.ite
    | with_reducible apply Kept.iteFst
    | (with_reducible apply Kept.mk; first | with_reducible assumption | with_reducible apply State.modAux_kept | with_reducible apply State.auxEnter_kept | with_reducible apply State.auxGates_kept | with_reducible apply State.auxFault_kept | with_reducible apply Kept.ite)
    | intro _
    | split

theorem State.auxOff_kept {s : State} (j : Nat) (hs : Kept sn qs s) :
    Kept sn qs (State.auxOff s j) := by
  unfold State.auxOff
  try dsimp -iota only
  repeat' first
    | with_reducible assumption
    | with_reducible apply State.modAux_kept
    | with_reducible apply State.auxEnter_kept
    | with_reducible apply Kept.ite
    | with_reducible apply Kept.iteFst
    | (with_reducible apply Kept.mk; first | with_reducible assumption | with_reducible apply State.modAux_kept | with_reducible apply State.auxEnter_kept | with_reducible apply Kept.ite)
    | intro _
    | split

theorem State.auxOn_kept {s : State} (j : Nat) (hs : Kept sn qs s) :
    Kept sn qs (State.auxOn s j) := by
  unfold State.auxOn
  try dsimp -iota only
  repeat' first
    | with_reducible assumption
    | with_reducible apply State.modAux_kept
    | with_reducible apply State.auxEnter_kept
    | with_reducible apply Kept.ite
    | with_reducible apply Kept.iteFst
    | (with_reducible apply Kept.mk; first | with_reducible assumption | with_reducible apply State.modAux_kept | with_reducible apply State.auxEnter_kept | with_reducible apply Kept.ite)
    | intro _
    | split

theorem State.auxMoveRef_kept {s : State} (j : Nat) (target dt : Rat) (hs : Kept sn qs s) :
    Kept sn qs (State.auxMoveRef s j target dt) := by
  unfold State.auxMoveRef
  try dsimp -iota only
  repeat' first
    | with_reducible assumption
    | with_reducible apply State.setAux_kept
    | with_reducible apply State.bumpIf_kept
    | with_reducible apply Kept.ite
    | with_reducible apply Kept.iteFst
    | (with_reducible apply Kept.mk; first | with_reducible assumption | with_reducible apply State.setAux_kept | with_reducible apply State.bumpIf_kept | with_reducible apply Kept.ite)
    | intro _
    | split

theorem State.auxStart_kept {s : State} (j : Nat) (hs : Kept sn qs s) :
    Kept sn qs (State.auxStart s j) := by
  unfold State.auxStart
  try dsimp -iota only
  repeat' first
    | with_reducible assumption
    | with_reducible apply State.modAux_kept
    | with_reducible apply State.run_kept
    | with_reducible apply State.auxEnter_kept
    | with_reducible apply State.auxGates_kept
    | with_reducible apply Kept.ite
    | with_reducible apply Kept.iteFst
    | (with_reducible apply Kept.mk; first | with_reducible assumption | with_reducible apply State.modAux_kept | with_reducible apply State.run_kept | with_reducible apply State.auxEnter_kept | with_reducible apply State.auxGates_kept | with_reducible apply Kept.ite)
    | intro _
    | split

theorem State.auxSwitch_kept {s : State} (j : Nat) (hs : Kept sn qs s) :
    Kept sn qs (State.auxSwitch s j) := by
  unfold State.auxSwitch
  try dsimp -iota only
  repeat' first
    | with_reducible assumption
    | with_reducible apply State.modAux_kept
    | with_reducible apply State.run_kept
    | with_reducible apply State.auxEnter_kept
    | with_reducible apply State.auxStandby_kept
    | with_reducible apply State.auxOff_kept
    | with_reducible apply State.auxOn_kept
    | with_reducible apply State.auxStart_kept
    | with_reducible apply Kept.ite
    | with_reducible apply Kept.iteFst
    | (with_reducible apply Kept.mk; first | with_reducible assumption | with_reducible apply State.modAux_kept | with_reducible apply State.run_kept | with_reducible apply State.auxEnter_kept | with_reducible apply State.auxStandby_kept | with_reducible apply State.auxOff_kept | with_reducible apply State.auxOn_kept | with_reducible apply State.auxStart_kept | with_reducible apply Kept.ite)
    | intro _
    | split

theorem State.auxSpeedLoop_kept {s : State} (j : Nat) (dt : Rat) (hs : Kept sn qs s) :
    Kept sn qs (State.auxSpeedLoop s j dt) := by
  unfold State.auxSpeedLoop
  try dsimp -iota only
  repeat' first
    | with_reducible assumption
    | with_reducible apply State.setAux_kept
    | with_reducible apply State.modAux_kept
    | with_reducible apply State.run_kept
    | with_reducible apply State.auxMoveRef_kept
    | with_reducible apply Kept.ite
    | with_reducible apply Kept.iteFst
    | (with_reducible apply Kept.mk; first | with_reducible assumption | with_reducible apply State.setAux_kept | with_reducible apply State.modAux_kept | with_reducible apply State.run_kept | with_reducible apply State.auxMoveRef_kept | with_reducible apply Kept.ite)
    | intro _
    | split

theorem State.auxMeasure_kept {s : State} (j : Nat) (c1 c2 : Int) (hs : Kept sn qs s) :
    Kept sn qs (State.auxMeasure s j c1 c2) := by
  unfold State.auxMeasure
  try dsimp -iota only
  repeat' first
    | with_reducible assumption
    | with_reducible apply State.setAux_kept
    | with_reducible apply State.bumpIf_kept
    | with_reducible apply Kept.ite
    | with_reducible apply Kept.iteFst
    | (with_reducible apply Kept.mk; first | with_reducible assumption | with_reducible apply State.setAux_kept | with_reducible apply State.bumpIf_kept | with_reducible apply Kept.ite)
    | intro _
    | split

theorem State.auxWatch_kept {s : State} (j : Nat) (hs : Kept sn qs s) :
    Kept sn qs (State.auxWatch s j) := by
  unfold State.auxWatch
  try dsimp -iota only
  repeat' first
    | with_reducible assumption
    | with_reducible apply State.setAux_kept
    | with_reducible apply State.bump_kept
    | with_reducible apply State.log_kept
    | with_reducible apply State.run_kept
    | with_reducible apply State.auxEnter_kept
    | with_reducible apply Kept.ite
    | with_reducible apply Kept.iteFst
    | (with_reducible apply Kept.mk; first | with_reducible assumption | with_reducible apply State.setAux_kept | with_reducible apply State.bump_kept | with_reducible apply State.log_kept | with_reducible apply State.run_kept | with_reducible apply State.auxEnter_kept | with_reducible apply Kept.ite)
    | intro _
    | split

theorem State.auxCurrentLoop_kept {s : State} (j : Nat) (wasHold : Bool) (hs : Kept sn qs s) :
    Kept sn qs (State.auxCurrentLoop s j wasHold) := by
  unfold State.auxCurrentLoop
  try dsimp -iota only
  repeat' first
    | with_reducible assumption
    | with_reducible apply State.setAux_kept
    | with_reducible apply State.bumpIf_kept
    | with_reducible apply Kept.ite
    | with_reducible apply Kept.iteFst
    | (with_reducible apply Kept.mk; first | with_reducible assumption | with_reducible apply State.setAux_kept | with_reducible apply State.bumpIf_kept | with_reducible apply Kept.ite)
    | intro _
    | split

theorem State.auxSampleFaults_kept {s : State} (j : Nat) (hs : Kept sn qs s) :
    Kept sn qs (State.auxSampleFaults s j) := by
  unfold State.auxSampleFaults
  try dsimp -iota only
  repeat' first
    | with_reducible assumption
    | with_reducible apply State.setAux_kept
    | with_reducible apply State.auxFault_kept
    | with_reducible apply Kept.ite
    | with_reducible apply Kept.iteFst
    | (with_reducible apply Kept.mk; first | with_reducible assumption | with_reducible apply State.setAux_kept | with_reducible apply State.auxFault_kept | with_reducible apply Kept.ite)
    | intro _
    | split

theorem execAuxCurrentSample_kept (aux : Fin 16) (code1 code2 : Int) {s : State} (hs : Kept sn qs s) :
    nextHas (Kept sn qs) (execAuxCurrentSample aux code1 code2 s) := by
  unfold execAuxCurrentSample
  try dsimp -iota only
  repeat' first
    | with_reducible assumption
    | with_reducible apply State.modAux_kept
    | with_reducible apply State.auxGates_kept
    | with_reducible apply State.auxSwitch_kept
    | with_reducible apply State.auxSpeedLoop_kept
    | with_reducible apply State.auxMeasure_kept
    | with_reducible apply State.auxWatch_kept
    | with_reducible apply State.auxCurrentLoop_kept
    | with_reducible apply State.auxSampleFaults_kept
    | with_reducible apply Kept.ite
    | with_reducible apply Kept.iteFst
    | exact trivial
    | with_reducible apply Kept.next
    | with_reducible apply Kept.iteOut
    | (with_reducible apply Kept.mk; first | with_reducible assumption | with_reducible apply State.modAux_kept | with_reducible apply State.auxGates_kept | with_reducible apply State.auxSwitch_kept | with_reducible apply State.auxSpeedLoop_kept | with_reducible apply State.auxMeasure_kept | with_reducible apply State.auxWatch_kept | with_reducible apply State.auxCurrentLoop_kept | with_reducible apply State.auxSampleFaults_kept | with_reducible apply Kept.ite)
    | intro _
    | split

theorem execAuxAlignDone_kept (aux : Fin 16) {s : State} (hs : Kept sn qs s) :
    nextHas (Kept sn qs) (execAuxAlignDone aux s) := by
  unfold execAuxAlignDone
  try dsimp -iota only
  repeat' first
    | with_reducible assumption
    | with_reducible apply State.modAux_kept
    | with_reducible apply State.auxEnter_kept
    | with_reducible apply Kept.ite
    | with_reducible apply Kept.iteFst
    | exact trivial
    | with_reducible apply Kept.next
    | with_reducible apply Kept.iteOut
    | (with_reducible apply Kept.mk; first | with_reducible assumption | with_reducible apply State.modAux_kept | with_reducible apply State.auxEnter_kept | with_reducible apply Kept.ite)
    | intro _
    | split

theorem execAuxStartTimeout_kept (aux : Fin 16) {s : State} (hs : Kept sn qs s) :
    nextHas (Kept sn qs) (execAuxStartTimeout aux s) := by
  unfold execAuxStartTimeout
  try dsimp -iota only
  repeat' first
    | with_reducible assumption
    | with_reducible apply State.auxFault_kept
    | with_reducible apply Kept.ite
    | with_reducible apply Kept.iteFst
    | exact trivial
    | with_reducible apply Kept.next
    | with_reducible apply Kept.iteOut
    | (with_reducible apply Kept.mk; first | with_reducible assumption | with_reducible apply State.auxFault_kept | with_reducible apply Kept.ite)
    | intro _
    | split

theorem execAuxRetryDelay_kept (aux : Fin 16) {s : State} (hs : Kept sn qs s) :
    nextHas (Kept sn qs) (execAuxRetryDelay aux s) := by
  unfold execAuxRetryDelay
  try dsimp -iota only
  repeat' first
    | with_reducible assumption
    | with_reducible apply State.bump_kept
    | with_reducible apply State.auxStandby_kept
    | with_reducible apply State.auxRetry_kept
    | with_reducible apply Kept.ite
    | with_reducible apply Kept.iteFst
    | exact trivial
    | with_reducible apply Kept.next
    | with_reducible apply Kept.iteOut
    | (with_reducible apply Kept.mk; first | with_reducible assumption | with_reducible apply State.bump_kept | with_reducible apply State.auxStandby_kept | with_reducible apply State.auxRetry_kept | with_reducible apply Kept.ite)
    | intro _
    | split

theorem execAuxRetryReset_kept (aux : Fin 16) {s : State} (hs : Kept sn qs s) :
    nextHas (Kept sn qs) (execAuxRetryReset aux s) := by
  unfold execAuxRetryReset
  try dsimp -iota only
  repeat' first
    | with_reducible assumption
    | with_reducible apply State.setAux_kept
    | with_reducible apply State.run_kept
    | with_reducible apply Kept.ite
    | with_reducible apply Kept.iteFst
    | exact trivial
    | with_reducible apply Kept.next
    | with_reducible apply Kept.iteOut
    | (with_reducible apply Kept.mk; first | with_reducible assumption | with_reducible apply State.setAux_kept | with_reducible apply State.run_kept | with_reducible apply Kept.ite)
    | intro _
    | split

theorem State.auxListenEnd_kept {s : State} (j : Nat) (hs : Kept sn qs s) :
    Kept sn qs (State.auxListenEnd s j) := by
  unfold State.auxListenEnd
  try dsimp -iota only
  repeat' first
    | with_reducible assumption
    | with_reducible apply State.modAux_kept
    | with_reducible apply State.bump_kept
    | with_reducible apply State.run_kept
    | with_reducible apply State.auxEnter_kept
    | with_reducible apply State.auxRetry_kept
    | with_reducible apply Kept.ite
    | with_reducible apply Kept.iteFst
    | (with_reducible apply Kept.mk; first | with_reducible assumption | with_reducible apply State.modAux_kept | with_reducible apply State.bump_kept | with_reducible apply State.run_kept | with_reducible apply State.auxEnter_kept | with_reducible apply State.auxRetry_kept | with_reducible apply Kept.ite)
    | intro _
    | split

theorem State.auxHoldEnd_kept {s : State} (j : Nat) (hs : Kept sn qs s) :
    Kept sn qs (State.auxHoldEnd s j) := by
  unfold State.auxHoldEnd
  try dsimp -iota only
  repeat' first
    | with_reducible assumption
    | with_reducible apply State.log_kept
    | with_reducible apply State.auxRetry_kept
    | with_reducible apply Kept.ite
    | with_reducible apply Kept.iteFst
    | (with_reducible apply Kept.mk; first | with_reducible assumption | with_reducible apply State.log_kept | with_reducible apply State.auxRetry_kept | with_reducible apply Kept.ite)
    | intro _
    | split

theorem State.auxCalibrated_kept {s : State} (j : Nat) (codes : List Int) (hs : Kept sn qs s) :
    Kept sn qs (State.auxCalibrated s j codes) := by
  unfold State.auxCalibrated
  try dsimp -iota only
  repeat' first
    | with_reducible assumption
    | with_reducible apply State.modAux_kept
    | with_reducible apply State.log_kept
    | with_reducible apply Kept.ite
    | with_reducible apply Kept.iteFst
    | (with_reducible apply Kept.mk; first | with_reducible assumption | with_reducible apply State.modAux_kept | with_reducible apply State.log_kept | with_reducible apply Kept.ite)
    | intro _
    | split

theorem State.auxSto_kept {s : State} (j : Nat) (hs : Kept sn qs s) :
    Kept sn qs (State.auxSto s j) := by
  unfold State.auxSto
  try dsimp -iota only
  repeat' first
    | with_reducible assumption
    | with_reducible apply State.modAux_kept
    | with_reducible apply State.auxGates_kept
    | with_reducible apply State.auxFault_kept
    | with_reducible apply Kept.ite
    | with_reducible apply Kept.iteFst
    | (with_reducible apply Kept.mk; first | with_reducible assumption | with_reducible apply State.modAux_kept | with_reducible apply State.auxGates_kept | with_reducible apply State.auxFault_kept | with_reducible apply Kept.ite)
    | intro _
    | split

theorem State.auxGateFault_kept {s : State} (j : Nat) (active : Bool) (hs : Kept sn qs s) :
    Kept sn qs (State.auxGateFault s j active) := by
  unfold State.auxGateFault
  try dsimp -iota only
  repeat' first
    | with_reducible assumption
    | with_reducible apply State.modAux_kept
    | with_reducible apply State.auxGates_kept
    | with_reducible apply Kept.ite
    | with_reducible apply Kept.iteFst
    | (with_reducible apply Kept.mk; first | with_reducible assumption | with_reducible apply State.modAux_kept | with_reducible apply State.auxGates_kept | with_reducible apply Kept.ite)
    | intro _
    | split

end Sys2Proof.Machine
end

