-- ==== Sys2Proof/Laws/KeptDrives.lean ====
section
/-! SUPPORT. Every operation of Machine/Drives.lean keeps the queue and the soundness of the state. -/

set_option linter.all false
namespace Sys2Proof.Machine

variable {sn : Bool} {qs : List Instr}

theorem State.enableServo_kept {s : State} (k i : Nat) (hs : Kept sn qs s) :
    Kept sn qs (State.enableServo s k i) := by
  unfold State.enableServo
  try dsimp -iota only
  repeat' first
    | with_reducible assumption
    | with_reducible apply State.modSerial_kept
    | with_reducible apply State.setRecord_kept
    | with_reducible apply State.finish_kept
    | with_reducible apply State.await_kept
    | with_reducible apply State.attachHooks_kept
    | with_reducible apply State.placeAxis_kept
    | with_reducible apply State.zeroHookData_kept
    | with_reducible apply State.beginEnabling_kept
    | with_reducible apply State.identNext_kept
    | with_reducible apply Kept.ite
    | with_reducible apply Kept.iteFst
    | (with_reducible refine Engine.wf_of (by with_reducible assumption) ?_ ?_ ?_ <;> with_reducible rfl)
    | (with_reducible apply Kept.mk; first | with_reducible assumption | with_reducible apply State.modSerial_kept | with_reducible apply State.setRecord_kept | with_reducible apply State.finish_kept | with_reducible apply State.await_kept | with_reducible apply State.attachHooks_kept | with_reducible apply State.placeAxis_kept | with_reducible apply State.zeroHookData_kept | with_reducible apply State.beginEnabling_kept | with_reducible apply State.identNext_kept | with_reducible apply Kept.ite)
    | intro _
    | split

theorem State.enableStepper_kept {s : State} (k i : Nat) (hs : Kept sn qs s) :
    Kept sn qs (State.enableStepper s k i) := by
  unfold State.enableStepper
  try dsimp -iota only
  repeat' first
    | with_reducible assumption
    | with_reducible apply State.finish_kept
    | with_reducible apply State.await_kept
    | with_reducible apply State.stpBegin_kept
    | with_reducible apply Kept.ite
    | with_reducible apply Kept.iteFst
    | (with_reducible apply Kept.mk; first | with_reducible assumption | with_reducible apply State.finish_kept | with_reducible apply State.await_kept | with_reducible apply State.stpBegin_kept | with_reducible apply Kept.ite)
    | intro _
    | split

theorem State.enableAux_kept {s : State} (k j : Nat) (hs : Kept sn qs s) :
    Kept sn qs (State.enableAux s k j) := by
  unfold State.enableAux
  try dsimp -iota only
  repeat' first
    | with_reducible assumption
    | with_reducible apply State.finish_kept
    | with_reducible apply State.ok_kept
    | with_reducible apply State.auxOn_kept
    | with_reducible apply Kept.ite
    | with_reducible apply Kept.iteFst
    | (with_reducible apply Kept.mk; first | with_reducible assumption | with_reducible apply State.finish_kept | with_reducible apply State.ok_kept | with_reducible apply State.auxOn_kept | with_reducible apply Kept.ite)
    | intro _
    | split

theorem State.enableVirt_kept {s : State} (k i : Nat) (hs : Kept sn qs s) :
    Kept sn qs (State.enableVirt s k i) := by
  unfold State.enableVirt
  try dsimp -iota only
  repeat' first
    | with_reducible assumption
    | with_reducible apply State.modTrail_kept
    | with_reducible apply State.setVirt_kept
    | with_reducible apply State.finish_kept
    | with_reducible apply State.ok_kept
    | with_reducible apply State.sampleXt_kept
    | with_reducible apply State.beginPublications_kept
    | with_reducible apply State.openTrail_kept
    | with_reducible apply Kept.ite
    | with_reducible apply Kept.iteFst
    | (with_reducible apply Kept.mk; first | with_reducible assumption | with_reducible apply State.modTrail_kept | with_reducible apply State.setVirt_kept | with_reducible apply State.finish_kept | with_reducible apply State.ok_kept | with_reducible apply State.sampleXt_kept | with_reducible apply State.beginPublications_kept | with_reducible apply State.openTrail_kept | with_reducible apply Kept.ite)
    | intro _
    | split

theorem State.enableRemote_kept {s : State} (k i : Nat) (hs : Kept sn qs s) :
    Kept sn qs (State.enableRemote s k i) := by
  unfold State.enableRemote
  try dsimp -iota only
  repeat' first
    | with_reducible assumption
    | with_reducible apply State.setRemote_kept
    | with_reducible apply State.finish_kept
    | with_reducible apply State.await_kept
    | with_reducible apply Kept.ite
    | with_reducible apply Kept.iteFst
    | (with_reducible apply Kept.mk; first | with_reducible assumption | with_reducible apply State.setRemote_kept | with_reducible apply State.finish_kept | with_reducible apply State.await_kept | with_reducible apply Kept.ite)
    | intro _
    | split

theorem execAxisEnable_kept (ref : CmdRef) (ep : BitVec 16) {s : State} (hs : Kept sn qs s) :
    nextHas (Kept sn qs) (execAxisEnable ref ep s) := by
  unfold execAxisEnable
  try dsimp -iota only
  repeat' first
    | with_reducible assumption
    | with_reducible apply State.finish_kept
    | with_reducible apply State.execCmd_kept
    | with_reducible apply State.enableServo_kept
    | with_reducible apply State.enableStepper_kept
    | with_reducible apply State.enableAux_kept
    | with_reducible apply State.enableVirt_kept
    | with_reducible apply State.enableRemote_kept
    | with_reducible apply Kept.ite
    | with_reducible apply Kept.iteFst
    | exact trivial
    | with_reducible apply Kept.next
    | with_reducible apply Kept.iteOut
    | (with_reducible apply Kept.mk; first | with_reducible assumption | with_reducible apply State.finish_kept | with_reducible apply State.execCmd_kept | with_reducible apply State.enableServo_kept | with_reducible apply State.enableStepper_kept | with_reducible apply State.enableAux_kept | with_reducible apply State.enableVirt_kept | with_reducible apply State.enableRemote_kept | with_reducible apply Kept.ite)
    | intro _
    | split

theorem State.disableServo_kept {s : State} (k i cat : Nat) (hs : Kept sn qs s) :
    Kept sn qs (State.disableServo s k i cat) := by
  unfold State.disableServo
  try dsimp -iota only
  repeat' first
    | with_reducible assumption
    | with_reducible apply State.modLoop_kept
    | with_reducible apply State.ok_kept
    | with_reducible apply State.await_kept
    | with_reducible apply State.fbOff_kept
    | with_reducible apply State.enterDisabled_kept
    | with_reducible apply State.requestStop_kept
    | with_reducible apply Kept.ite
    | with_reducible apply Kept.iteFst
    | (with_reducible apply Kept.mk; first | with_reducible assumption | with_reducible apply State.modLoop_kept | with_reducible apply State.ok_kept | with_reducible apply State.await_kept | with_reducible apply State.fbOff_kept | with_reducible apply State.enterDisabled_kept | with_reducible apply State.requestStop_kept | with_reducible apply Kept.ite)
    | intro _
    | split

theorem State.disableVirt_kept {s : State} (k i cat : Nat) (hs : Kept sn qs s) :
    Kept sn qs (State.disableVirt s k i cat) := by
  unfold State.disableVirt
  try dsimp -iota only
  repeat' first
    | with_reducible assumption
    | with_reducible apply State.modVirt_kept
    | with_reducible apply State.ok_kept
    | with_reducible apply State.await_kept
    | with_reducible apply State.virtStop_kept
    | with_reducible apply Kept.ite
    | with_reducible apply Kept.iteFst
    | (with_reducible apply Kept.mk; first | with_reducible assumption | with_reducible apply State.modVirt_kept | with_reducible apply State.ok_kept | with_reducible apply State.await_kept | with_reducible apply State.virtStop_kept | with_reducible apply Kept.ite)
    | intro _
    | split

theorem State.disableRemote_kept {s : State} (k i : Nat) (hs : Kept sn qs s) :
    Kept sn qs (State.disableRemote s k i) := by
  unfold State.disableRemote
  try dsimp -iota only
  repeat' first
    | with_reducible assumption
    | with_reducible apply State.modRemote_kept
    | with_reducible apply State.ok_kept
    | with_reducible apply State.await_kept
    | with_reducible apply State.remoteRest_kept
    | with_reducible apply Kept.ite
    | with_reducible apply Kept.iteFst
    | (with_reducible apply Kept.mk; first | with_reducible assumption | with_reducible apply State.modRemote_kept | with_reducible apply State.ok_kept | with_reducible apply State.await_kept | with_reducible apply State.remoteRest_kept | with_reducible apply Kept.ite)
    | intro _
    | split

theorem execAxisDisable_kept (ref : CmdRef) (ep : BitVec 16) (cat : Byte) {s : State} (hs : Kept sn qs s) :
    nextHas (Kept sn qs) (execAxisDisable ref ep cat s) := by
  unfold execAxisDisable
  try dsimp -iota only
  repeat' first
    | with_reducible assumption
    | with_reducible apply State.finish_kept
    | with_reducible apply State.ok_kept
    | with_reducible apply State.execCmd_kept
    | with_reducible apply State.stpDisable_kept
    | with_reducible apply State.auxOff_kept
    | with_reducible apply State.disableServo_kept
    | with_reducible apply State.disableVirt_kept
    | with_reducible apply State.disableRemote_kept
    | with_reducible apply Kept.ite
    | with_reducible apply Kept.iteFst
    | exact trivial
    | with_reducible apply Kept.next
    | with_reducible apply Kept.iteOut
    | (with_reducible apply Kept.mk; first | with_reducible assumption | with_reducible apply State.finish_kept | with_reducible apply State.ok_kept | with_reducible apply State.execCmd_kept | with_reducible apply State.stpDisable_kept | with_reducible apply State.auxOff_kept | with_reducible apply State.disableServo_kept | with_reducible apply State.disableVirt_kept | with_reducible apply State.disableRemote_kept | with_reducible apply Kept.ite)
    | intro _
    | split

theorem execStop_kept (ref : CmdRef) (ep : BitVec 16) (cat : Byte) {s : State} (hs : Kept sn qs s) :
    nextHas (Kept sn qs) (execStop ref ep cat s) := by
  unfold execStop
  try dsimp -iota only
  repeat' first
    | with_reducible assumption
    | with_reducible apply State.finish_kept
    | with_reducible apply State.ok_kept
    | with_reducible apply State.execCmd_kept
    | with_reducible apply State.stopOther_kept
    | with_reducible apply State.stopServo_kept
    | with_reducible apply State.stopGroup_kept
    | with_reducible apply Kept.ite
    | with_reducible apply Kept.iteFst
    | exact trivial
    | with_reducible apply Kept.next
    | with_reducible apply Kept.iteOut
    | (with_reducible apply Kept.mk; first | with_reducible assumption | with_reducible apply State.finish_kept | with_reducible apply State.ok_kept | with_reducible apply State.execCmd_kept | with_reducible apply State.stopOther_kept | with_reducible apply State.stopServo_kept | with_reducible apply State.stopGroup_kept | with_reducible apply Kept.ite)
    | intro _
    | split

theorem State.channelSto_kept {s : State} (ch : Nat) (hs : Kept sn qs s) :
    Kept sn qs (State.channelSto s ch) := by
  unfold State.channelSto
  try dsimp -iota only
  repeat' first
    | with_reducible assumption
    | with_reducible apply State.servoSto_kept
    | with_reducible apply State.stpSto_kept
    | with_reducible apply State.auxSto_kept
    | with_reducible apply Kept.ite
    | with_reducible apply Kept.iteFst
    | (with_reducible apply Kept.mk; first | with_reducible assumption | with_reducible apply State.servoSto_kept | with_reducible apply State.stpSto_kept | with_reducible apply State.auxSto_kept | with_reducible apply Kept.ite)
    | intro _
    | split

theorem execStoLineAssert_kept (group : Fin 8) {s : State} (hs : Kept sn qs s) :
    nextHas (Kept sn qs) (execStoLineAssert group s) := by
  unfold execStoLineAssert
  try dsimp -iota only
  repeat' first
    | with_reducible assumption
    | with_reducible apply State.channelSto_kept
    | with_reducible apply Kept.ite
    | with_reducible apply Kept.iteFst
    | with_reducible apply Kept.foldl
    | exact trivial
    | with_reducible apply Kept.next
    | with_reducible apply Kept.iteOut
    | (with_reducible apply Kept.mk; first | with_reducible assumption | with_reducible apply State.channelSto_kept | with_reducible apply Kept.ite)
    | intro _
    | split

theorem execGateFaultInput_kept (ax : GateOwner) (active : Bool) {s : State} (hs : Kept sn qs s) :
    nextHas (Kept sn qs) (execGateFaultInput ax active s) := by
  unfold execGateFaultInput
  try dsimp -iota only
  repeat' first
    | with_reducible assumption
    | with_reducible apply State.servoGateFault_kept
    | with_reducible apply State.auxGateFault_kept
    | with_reducible apply Kept.ite
    | with_reducible apply Kept.iteFst
    | exact trivial
    | with_reducible apply Kept.next
    | with_reducible apply Kept.iteOut
    | (with_reducible apply Kept.mk; first | with_reducible assumption | with_reducible apply State.servoGateFault_kept | with_reducible apply State.auxGateFault_kept | with_reducible apply Kept.ite)
    | intro _
    | split

theorem State.dcHigh_kept {s : State} (input : Nat) (hs : Kept sn qs s) :
    Kept sn qs (State.dcHigh s input) := by
  unfold State.dcHigh
  have h1 := Kept.foldl (l := List.range 32) (fun s i h => Kept.ite (c := s.par i P.dcInput = input ∧ s.parF i P.dcMax < s.servoVdc i)
    (State.axisFault_kept i 0x0B h) h) hs
  have h2 := Kept.foldl (l := List.range 32) (fun s i h => Kept.ite (c := s.par (epStepper i) P.stpDcInput = input)
    (State.stpDcLink_kept i h) h) h1
  exact Kept.foldl (l := List.range 16) (fun s j h => Kept.ite (State.auxFault_kept j [5] h) h) h2

theorem execDcLinkConversion_kept (input : Fin 32) (code : Fin 65536) {s : State} (hs : Kept sn qs s) :
    nextHas (Kept sn qs) (execDcLinkConversion input code s) := by
  unfold execDcLinkConversion
  try dsimp -iota only
  repeat' first
    | with_reducible assumption
    | with_reducible apply State.setDc_kept
    | with_reducible apply State.dcHigh_kept
    | with_reducible apply Kept.ite
    | with_reducible apply Kept.iteFst
    | exact trivial
    | with_reducible apply Kept.next
    | with_reducible apply Kept.iteOut
    | (with_reducible apply Kept.mk; first | with_reducible assumption | with_reducible apply State.setDc_kept | with_reducible apply State.dcHigh_kept | with_reducible apply Kept.ite)
    | intro _
    | split

theorem execOffsetCalibrationDone_kept (ax : GateOwner) (codes : List Int) {s : State} (hs : Kept sn qs s) :
    nextHas (Kept sn qs) (execOffsetCalibrationDone ax codes s) := by
  unfold execOffsetCalibrationDone
  try dsimp -iota only
  repeat' first
    | with_reducible assumption
    | with_reducible apply State.servoCalibrated_kept
    | with_reducible apply State.auxCalibrated_kept
    | with_reducible apply Kept.ite
    | with_reducible apply Kept.iteFst
    | exact trivial
    | with_reducible apply Kept.next
    | with_reducible apply Kept.iteOut
    | (with_reducible apply Kept.mk; first | with_reducible assumption | with_reducible apply State.servoCalibrated_kept | with_reducible apply State.auxCalibrated_kept | with_reducible apply Kept.ite)
    | intro _
    | split

theorem execObserverHoldTimeout_kept (ax : GateOwner) {s : State} (hs : Kept sn qs s) :
    nextHas (Kept sn qs) (execObserverHoldTimeout ax s) := by
  unfold execObserverHoldTimeout
  try dsimp -iota only
  repeat' first
    | with_reducible assumption
    | with_reducible apply State.servoHoldEnd_kept
    | with_reducible apply State.auxHoldEnd_kept
    | with_reducible apply Kept.ite
    | with_reducible apply Kept.iteFst
    | exact trivial
    | with_reducible apply Kept.next
    | with_reducible apply Kept.iteOut
    | (with_reducible apply Kept.mk; first | with_reducible assumption | with_reducible apply State.servoHoldEnd_kept | with_reducible apply State.auxHoldEnd_kept | with_reducible apply Kept.ite)
    | intro _
    | split

theorem execListenEnd_kept (ax : GateOwner) {s : State} (hs : Kept sn qs s) :
    nextHas (Kept sn qs) (execListenEnd ax s) := by
  unfold execListenEnd
  try dsimp -iota only
  repeat' first
    | with_reducible assumption
    | with_reducible apply State.servoListenEnd_kept
    | with_reducible apply State.auxListenEnd_kept
    | with_reducible apply Kept.ite
    | with_reducible apply Kept.iteFst
    | exact trivial
    | with_reducible apply Kept.next
    | with_reducible apply Kept.iteOut
    | (with_reducible apply Kept.mk; first | with_reducible assumption | with_reducible apply State.servoListenEnd_kept | with_reducible apply State.auxListenEnd_kept | with_reducible apply Kept.ite)
    | intro _
    | split

end Sys2Proof.Machine
end

