-- ==== Sys2Proof/Laws/KeptCapture.lean ====
section
/-! SUPPORT. Every operation of Machine/Capture.lean keeps the queue and the soundness of the state. -/

set_option linter.all false
namespace Sys2Proof.Machine

variable {sn : Bool} {qs : List Instr}

theorem execCaptureFiring_kept (cc : Fin 256) (cond : Fin 4) (_stamp : Held) {s : State} (hs : Kept sn qs s) :
    nextHas (Kept sn qs) (execCaptureFiring cc cond _stamp s) := by
  unfold execCaptureFiring
  try dsimp -iota only
  repeat' first
    | with_reducible assumption
    | with_reducible apply State.fireCap_kept
    | with_reducible apply Kept.ite
    | with_reducible apply Kept.iteFst
    | exact trivial
    | with_reducible apply Kept.next
    | with_reducible apply Kept.iteOut
    | (with_reducible apply Kept.mk; first | with_reducible assumption | with_reducible apply State.fireCap_kept | with_reducible apply Kept.ite)
    | intro _
    | split

theorem execCaptureTimeCondition_kept (cc : Fin 256) (cond : Fin 4) {s : State} (hs : Kept sn qs s) :
    nextHas (Kept sn qs) (execCaptureTimeCondition cc cond s) := by
  unfold execCaptureTimeCondition
  try dsimp -iota only
  repeat' first
    | with_reducible assumption
    | with_reducible apply State.setCap_kept
    | with_reducible apply State.fireCap_kept
    | with_reducible apply Kept.ite
    | with_reducible apply Kept.iteFst
    | exact trivial
    | with_reducible apply Kept.next
    | with_reducible apply Kept.iteOut
    | (with_reducible apply Kept.mk; first | with_reducible assumption | with_reducible apply State.setCap_kept | with_reducible apply State.fireCap_kept | with_reducible apply Kept.ite)
    | intro _
    | split

theorem State.deliverFiring_kept {s : State} (c : Nat) (t : Ft8) (hs : Kept sn qs s) :
    Kept sn qs (State.deliverFiring s c t) := by
  unfold State.deliverFiring
  refine Kept.foldl (fun s d h => Kept.foldl (fun s n h => Kept.ite (State.fireCap_kept _ _ h) h) h) ?_
  exact Kept.foldl (fun s e h => State.modFollower_kept _ _ h) hs

theorem State.enterSample_kept {s : State} (c k : Nat) (t : Ft16) (xs : List Int) (post : Bool) (hs : Kept sn qs s) :
    Kept sn qs (State.enterSample s c k t xs post) := by
  unfold State.enterSample
  try dsimp -iota only
  repeat' first
    | with_reducible assumption
    | with_reducible apply State.modBasket_kept
    | with_reducible apply Kept.ite
    | with_reducible apply Kept.iteFst
    | (with_reducible apply Kept.mk; first | with_reducible assumption | with_reducible apply State.modBasket_kept | with_reducible apply Kept.ite)
    | intro _
    | split

theorem State.enterPost_kept {s : State} (c : Nat) (l : List (Ft16 × List Int)) (hs : Kept sn qs s) :
    Kept sn qs (State.enterPost s c l) := by
  unfold State.enterPost
  try dsimp -iota only
  repeat' first
    | with_reducible assumption
    | with_reducible apply State.closeBasket_kept
    | with_reducible apply State.enterSample_kept
    | with_reducible apply Kept.ite
    | with_reducible apply Kept.iteFst
    | with_reducible apply Kept.foldlFst
    | with_reducible apply Kept.foldl
    | (with_reducible apply Kept.mk; first | with_reducible assumption | with_reducible apply State.closeBasket_kept | with_reducible apply State.enterSample_kept | with_reducible apply Kept.ite)
    | intro _
    | split

theorem State.openBasket_kept {s : State} (c mask : Nat) (tRef : Ft8) (trigs : List Ft8) (early : Bool) (pre : List (Ft16 × List Int)) (hs : Kept sn qs s) :
    Kept sn qs (State.openBasket s c mask tRef trigs early pre) := by
  unfold State.openBasket
  try dsimp -iota only
  repeat' first
    | with_reducible assumption
    | with_reducible apply State.setCap_kept
    | with_reducible apply State.modBasket_kept
    | with_reducible apply State.enterSample_kept
    | with_reducible apply Kept.ite
    | with_reducible apply Kept.iteFst
    | with_reducible apply Kept.foldlFst
    | with_reducible apply Kept.foldl
    | (with_reducible apply Kept.mk; first | with_reducible assumption | with_reducible apply State.setCap_kept | with_reducible apply State.modBasket_kept | with_reducible apply State.enterSample_kept | with_reducible apply Kept.ite)
    | intro _
    | split

theorem State.takeTrigger_kept {s : State} (c : Nat) (upper : Option Ft16) (hs : Kept sn qs s) :
    Kept sn qs (State.takeTrigger s c upper) := by
  unfold State.takeTrigger
  try dsimp -iota only
  repeat' first
    | with_reducible assumption
    | with_reducible apply State.setCap_kept
    | with_reducible apply State.modCap_kept
    | with_reducible apply State.bump_kept
    | with_reducible apply State.bumpIf_kept
    | with_reducible apply State.capTold_kept
    | with_reducible apply State.missFiring_kept
    | with_reducible apply State.capEndTrigger_kept
    | with_reducible apply State.deliverFiring_kept
    | with_reducible apply State.enterPost_kept
    | with_reducible apply State.openBasket_kept
    | with_reducible apply Kept.ite
    | with_reducible apply Kept.iteFst
    | with_reducible apply Kept.foldlFst
    | with_reducible apply Kept.foldl
    | (with_reducible apply Kept.mk; first | with_reducible assumption | with_reducible apply State.setCap_kept | with_reducible apply State.modCap_kept | with_reducible apply State.bump_kept | with_reducible apply State.bumpIf_kept | with_reducible apply State.capTold_kept | with_reducible apply State.missFiring_kept | with_reducible apply State.capEndTrigger_kept | with_reducible apply State.deliverFiring_kept | with_reducible apply State.enterPost_kept | with_reducible apply State.openBasket_kept | with_reducible apply Kept.ite)
    | intro _
    | split

theorem execCaptureTrigger_kept (cc : Fin 256) {s : State} (hs : Kept sn qs s) :
    nextHas (Kept sn qs) (execCaptureTrigger cc s) := by
  unfold execCaptureTrigger
  try dsimp -iota only
  repeat' first
    | with_reducible assumption
    | with_reducible apply State.takeTrigger_kept
    | with_reducible apply Kept.ite
    | with_reducible apply Kept.iteFst
    | exact trivial
    | with_reducible apply Kept.next
    | with_reducible apply Kept.iteOut
    | (with_reducible apply Kept.mk; first | with_reducible assumption | with_reducible apply State.takeTrigger_kept | with_reducible apply Kept.ite)
    | intro _
    | split

theorem State.thresholds_kept {s : State} (c : Nat) (t t2 : Ft16) (xs : List Int) (hs : Kept sn qs s) :
    Kept sn qs (State.thresholds s c t t2 xs) := by
  unfold State.thresholds
  try dsimp -iota only
  repeat' first
    | with_reducible assumption
    | with_reducible apply State.setCap_kept
    | with_reducible apply State.fireCap_kept
    | with_reducible apply Kept.ite
    | with_reducible apply Kept.iteFst
    | with_reducible apply Kept.foldlFst
    | with_reducible apply Kept.foldl
    | (with_reducible apply Kept.mk; first | with_reducible assumption | with_reducible apply State.setCap_kept | with_reducible apply State.fireCap_kept | with_reducible apply Kept.ite)
    | intro _
    | split

theorem State.capView_kept {s : State} (c : Nat) (t : Ft16) (hs : Kept sn qs s) :
    Kept sn qs (State.capView s c t) := by
  unfold State.capView
  exact Kept.ite hs (Kept.foldl (fun s g h => Kept.ite (State.asRecorded_kept _ _ h) h) hs)

theorem execCaptureSample_kept (cc : Fin 256) (at_ : TdcEdge) (rawCode : Option Int) {s : State} (hs : Kept sn qs s) :
    nextHas (Kept sn qs) (execCaptureSample cc at_ rawCode s) := by
  unfold execCaptureSample
  try dsimp -iota only
  repeat' first
    | with_reducible assumption
    | with_reducible apply State.modCap_kept
    | with_reducible apply State.enterPost_kept
    | with_reducible apply State.thresholds_kept
    | with_reducible apply State.capView_kept
    | with_reducible apply Kept.ite
    | with_reducible apply Kept.iteFst
    | exact trivial
    | with_reducible apply Kept.next
    | with_reducible apply Kept.iteOut
    | (with_reducible apply Kept.mk; first | with_reducible assumption | with_reducible apply State.modCap_kept | with_reducible apply State.enterPost_kept | with_reducible apply State.thresholds_kept | with_reducible apply State.capView_kept | with_reducible apply Kept.ite)
    | intro _
    | split

theorem execCaptureRearm_kept (cc : Fin 256) {s : State} (hs : Kept sn qs s) :
    nextHas (Kept sn qs) (execCaptureRearm cc s) := by
  unfold execCaptureRearm
  try dsimp -iota only
  repeat' first
    | with_reducible assumption
    | with_reducible apply State.armCap_kept
    | with_reducible apply Kept.ite
    | with_reducible apply Kept.iteFst
    | exact trivial
    | with_reducible apply Kept.next
    | with_reducible apply Kept.iteOut
    | (with_reducible apply Kept.mk; first | with_reducible assumption | with_reducible apply State.armCap_kept | with_reducible apply Kept.ite)
    | intro _
    | split

theorem execLatchRecord_kept (cc : Fin 256) {s : State} (hs : Kept sn qs s) :
    nextHas (Kept sn qs) (execLatchRecord cc s) := by
  unfold execLatchRecord
  try dsimp -iota only
  repeat' first
    | with_reducible assumption
    | with_reducible apply State.setCap_kept
    | with_reducible apply State.bumpBy_kept
    | with_reducible apply State.bumpIf_kept
    | with_reducible apply State.modBasket_kept
    | with_reducible apply Kept.ite
    | with_reducible apply Kept.iteFst
    | exact trivial
    | with_reducible apply Kept.next
    | with_reducible apply Kept.iteOut
    | (with_reducible apply Kept.mk; first | with_reducible assumption | with_reducible apply State.setCap_kept | with_reducible apply State.bumpBy_kept | with_reducible apply State.bumpIf_kept | with_reducible apply State.modBasket_kept | with_reducible apply Kept.ite)
    | intro _
    | split

theorem State.spillOldest_kept {s : State} (hs : Kept sn qs s) :
    Kept sn qs (State.spillOldest s) := by
  unfold State.spillOldest
  try dsimp -iota only
  repeat' first
    | with_reducible assumption
    | with_reducible apply State.bump_kept
    | with_reducible apply State.modBasket_kept
    | with_reducible apply State.capSpaceFree_kept
    | with_reducible apply Kept.ite
    | with_reducible apply Kept.iteFst
    | (with_reducible apply Kept.mk; first | with_reducible assumption | with_reducible apply State.bump_kept | with_reducible apply State.modBasket_kept | with_reducible apply State.capSpaceFree_kept | with_reducible apply Kept.ite)
    | intro _
    | split

theorem execBasketSpill_kept {s : State} (hs : Kept sn qs s) :
    nextHas (Kept sn qs) (execBasketSpill s) := by
  unfold execBasketSpill
  try dsimp -iota only
  repeat' first
    | with_reducible assumption
    | with_reducible apply State.spillOldest_kept
    | with_reducible apply Kept.ite
    | with_reducible apply Kept.iteFst
    | exact trivial
    | with_reducible apply Kept.next
    | with_reducible apply Kept.iteOut
    | (with_reducible apply Kept.mk; first | with_reducible assumption | with_reducible apply State.spillOldest_kept | with_reducible apply Kept.ite)
    | intro _
    | split

theorem State.loseBaskets_kept {s : State} (l : List Nat) (hs : Kept sn qs s) :
    Kept sn qs (State.loseBaskets s l) := by
  unfold State.loseBaskets
  try dsimp -iota only
  repeat' first
    | with_reducible assumption
    | with_reducible apply State.bumpBy_kept
    | with_reducible apply State.log_kept
    | with_reducible apply State.freeBasket_kept
    | with_reducible apply Kept.ite
    | with_reducible apply Kept.iteFst
    | with_reducible apply Kept.foldl
    | (with_reducible apply Kept.mk; first | with_reducible assumption | with_reducible apply State.bumpBy_kept | with_reducible apply State.log_kept | with_reducible apply State.freeBasket_kept | with_reducible apply Kept.ite)
    | intro _
    | split

theorem State.capPowerDown_kept {s : State} (hs : Kept sn qs s) :
    Kept sn qs (State.capPowerDown s) := by
  unfold State.capPowerDown
  try dsimp -iota only
  repeat' first
    | with_reducible assumption
    | with_reducible apply State.disarmCap_kept
    | with_reducible apply State.closeBasket_kept
    | with_reducible apply Kept.ite
    | with_reducible apply Kept.iteFst
    | with_reducible apply Kept.foldlFst
    | with_reducible apply Kept.foldl
    | (with_reducible apply Kept.mk; first | with_reducible assumption | with_reducible apply State.disarmCap_kept | with_reducible apply State.closeBasket_kept | with_reducible apply Kept.ite)
    | intro _
    | split

theorem State.spillAll_kept {s : State} (hs : Kept sn qs s) :
    Kept sn qs (State.spillAll s) := by
  unfold State.spillAll
  refine State.loseBaskets_kept _ (Kept.foldl (fun s k h => ?_) hs)
  exact Kept.ite (State.bump_kept _ _ _ (State.modBasket_kept _ _ h)) h

theorem State.loseSpilled_kept {s : State} (hs : Kept sn qs s) :
    Kept sn qs (State.loseSpilled s) := by
  unfold State.loseSpilled
  try dsimp -iota only
  repeat' first
    | with_reducible assumption
    | with_reducible apply State.loseBaskets_kept
    | with_reducible apply Kept.ite
    | with_reducible apply Kept.iteFst
    | (with_reducible apply Kept.mk; first | with_reducible assumption | with_reducible apply State.loseBaskets_kept | with_reducible apply Kept.ite)
    | intro _
    | split

theorem execBasketArm_kept (ref : CmdRef) (ep : BitVec 16) (count : BitVec 16) {s : State} (hs : Kept sn qs s) :
    nextHas (Kept sn qs) (execBasketArm ref ep count s) := by
  unfold execBasketArm
  try dsimp -iota only
  repeat' first
    | with_reducible assumption
    | with_reducible apply State.modCap_kept
    | with_reducible apply State.finish_kept
    | with_reducible apply State.ok_kept
    | with_reducible apply State.execCmd_kept
    | with_reducible apply State.checked_kept
    | with_reducible apply State.armCap_kept
    | with_reducible apply Kept.ite
    | with_reducible apply Kept.iteFst
    | exact trivial
    | with_reducible apply Kept.next
    | with_reducible apply Kept.iteOut
    | (with_reducible apply Kept.mk; first | with_reducible assumption | with_reducible apply State.modCap_kept | with_reducible apply State.finish_kept | with_reducible apply State.ok_kept | with_reducible apply State.execCmd_kept | with_reducible apply State.checked_kept | with_reducible apply State.armCap_kept | with_reducible apply Kept.ite)
    | intro _
    | split

theorem execBasketList_kept (ref : CmdRef) (ep : BitVec 16) {s : State} (hs : Kept sn qs s) :
    nextHas (Kept sn qs) (execBasketList ref ep s) := by
  unfold execBasketList
  try dsimp -iota only
  repeat' first
    | with_reducible assumption
    | with_reducible apply State.finish_kept
    | with_reducible apply State.ok_kept
    | with_reducible apply State.execCmd_kept
    | with_reducible apply Kept.ite
    | with_reducible apply Kept.iteFst
    | exact trivial
    | with_reducible apply Kept.next
    | with_reducible apply Kept.iteOut
    | (with_reducible apply Kept.mk; first | with_reducible assumption | with_reducible apply State.finish_kept | with_reducible apply State.ok_kept | with_reducible apply State.execCmd_kept | with_reducible apply Kept.ite)
    | intro _
    | split

theorem execBasketRead_kept (job : CmdJob) (id : BitVec 32) (offset len : BitVec 32) {s : State} (hs : Kept sn qs s) :
    nextHas (Kept sn qs) (execBasketRead job id offset len s) := by
  unfold execBasketRead
  try dsimp -iota only
  repeat' first
    | with_reducible assumption
    | with_reducible apply State.modCapMem_kept
    | with_reducible apply State.finish_kept
    | with_reducible apply State.execUnits_kept
    | with_reducible apply State.unitsDone_kept
    | with_reducible apply Kept.ite
    | with_reducible apply Kept.iteFst
    | exact trivial
    | with_reducible apply Kept.next
    | with_reducible apply Kept.iteOut
    | (with_reducible apply Kept.mk; first | with_reducible assumption | with_reducible apply State.modCapMem_kept | with_reducible apply State.finish_kept | with_reducible apply State.execUnits_kept | with_reducible apply State.unitsDone_kept | with_reducible apply Kept.ite)
    | intro _
    | split

theorem execBasketRelease_kept (ref : CmdRef) (id : BitVec 32) {s : State} (hs : Kept sn qs s) :
    nextHas (Kept sn qs) (execBasketRelease ref id s) := by
  unfold execBasketRelease
  try dsimp -iota only
  repeat' first
    | with_reducible assumption
    | with_reducible apply State.finish_kept
    | with_reducible apply State.ok_kept
    | with_reducible apply State.execCmd_kept
    | with_reducible apply State.freeBasket_kept
    | with_reducible apply State.capSpaceFree_kept
    | with_reducible apply Kept.ite
    | with_reducible apply Kept.iteFst
    | exact trivial
    | with_reducible apply Kept.next
    | with_reducible apply Kept.iteOut
    | (with_reducible apply Kept.mk; first | with_reducible assumption | with_reducible apply State.finish_kept | with_reducible apply State.ok_kept | with_reducible apply State.execCmd_kept | with_reducible apply State.freeBasket_kept | with_reducible apply State.capSpaceFree_kept | with_reducible apply Kept.ite)
    | intro _
    | split

theorem execLatchRead_kept (ref : CmdRef) (ep : BitVec 16) (max : Byte) {s : State} (hs : Kept sn qs s) :
    nextHas (Kept sn qs) (execLatchRead ref ep max s) := by
  unfold execLatchRead
  try dsimp -iota only
  repeat' first
    | with_reducible assumption
    | with_reducible apply State.setCap_kept
    | with_reducible apply State.finish_kept
    | with_reducible apply State.ok_kept
    | with_reducible apply State.execCmd_kept
    | with_reducible apply Kept.ite
    | with_reducible apply Kept.iteFst
    | exact trivial
    | with_reducible apply Kept.next
    | with_reducible apply Kept.iteOut
    | (with_reducible apply Kept.mk; first | with_reducible assumption | with_reducible apply State.setCap_kept | with_reducible apply State.finish_kept | with_reducible apply State.ok_kept | with_reducible apply State.execCmd_kept | with_reducible apply Kept.ite)
    | intro _
    | split

theorem execCapTrigger_kept (ref : CmdRef) (ep : BitVec 16) {s : State} (hs : Kept sn qs s) :
    nextHas (Kept sn qs) (execCapTrigger ref ep s) := by
  unfold execCapTrigger
  try dsimp -iota only
  repeat' first
    | with_reducible assumption
    | with_reducible apply State.finish_kept
    | with_reducible apply State.execCmd_kept
    | with_reducible apply State.fireCap_kept
    | with_reducible apply State.await_kept
    | with_reducible apply Kept.ite
    | with_reducible apply Kept.iteFst
    | exact trivial
    | with_reducible apply Kept.next
    | with_reducible apply Kept.iteOut
    | (with_reducible apply Kept.mk; first | with_reducible assumption | with_reducible apply State.finish_kept | with_reducible apply State.execCmd_kept | with_reducible apply State.fireCap_kept | with_reducible apply State.await_kept | with_reducible apply Kept.ite)
    | intro _
    | split

theorem execBasketDisarm_kept (ref : CmdRef) (ep : BitVec 16) {s : State} (hs : Kept sn qs s) :
    nextHas (Kept sn qs) (execBasketDisarm ref ep s) := by
  unfold execBasketDisarm
  try dsimp -iota only
  repeat' first
    | with_reducible assumption
    | with_reducible apply State.finish_kept
    | with_reducible apply State.ok_kept
    | with_reducible apply State.execCmd_kept
    | with_reducible apply State.disarmCap_kept
    | with_reducible apply State.closeBasket_kept
    | with_reducible apply State.takeTrigger_kept
    | with_reducible apply Kept.ite
    | with_reducible apply Kept.iteFst
    | exact trivial
    | with_reducible apply Kept.next
    | with_reducible apply Kept.iteOut
    | (with_reducible apply Kept.mk; first | with_reducible assumption | with_reducible apply State.finish_kept | with_reducible apply State.ok_kept | with_reducible apply State.execCmd_kept | with_reducible apply State.disarmCap_kept | with_reducible apply State.closeBasket_kept | with_reducible apply State.takeTrigger_kept | with_reducible apply Kept.ite)
    | intro _
    | split

end Sys2Proof.Machine
end

