-- ==== Sys2Proof/Laws/KeptSessions.lean ====
section
/-! SUPPORT. Every operation of Machine/Sessions.lean keeps the queue and the soundness of the state. -/

set_option linter.all false
namespace Sys2Proof.Machine

variable {sn : Bool} {qs : List Instr}

theorem State.fabSend_kept {s : State} (dev : Nat) (m : FabMsg) (hs : Kept sn qs s) :
    Kept sn qs (State.fabSend s dev m) := by
  unfold State.fabSend
  try dsimp -iota only
  repeat' first
    | with_reducible assumption
    | with_reducible apply Kept.ite
    | with_reducible apply Kept.iteFst
    | (with_reducible apply Kept.mk; first | with_reducible assumption | with_reducible apply Kept.ite)
    | intro _
    | split

theorem State.takeLocks_kept {s : State} (r : LockWait) (hs : Kept sn qs s) :
    Kept sn qs (State.takeLocks s r) := by
  unfold State.takeLocks
  try dsimp -iota only
  repeat' first
    | with_reducible assumption
    | with_reducible apply State.modLocks_kept
    | with_reducible apply Kept.ite
    | with_reducible apply Kept.iteFst
    | (with_reducible apply Kept.mk; first | with_reducible assumption | with_reducible apply State.modLocks_kept | with_reducible apply Kept.ite)
    | intro _
    | split

theorem State.dropEdges_kept {s : State} (r : SessRef) (hs : Kept sn qs s) :
    Kept sn qs (State.dropEdges s r) := by
  unfold State.dropEdges
  try dsimp -iota only
  repeat' first
    | with_reducible assumption
    | with_reducible apply State.modLocks_kept
    | with_reducible apply State.fabSend_kept
    | with_reducible apply Kept.ite
    | with_reducible apply Kept.iteFst
    | (with_reducible apply Kept.mk; first | with_reducible assumption | with_reducible apply State.modLocks_kept | with_reducible apply State.fabSend_kept | with_reducible apply Kept.ite)
    | intro _
    | split

theorem State.tellGrant_kept {s : State} (r : LockWait) (hs : Kept sn qs s) :
    Kept sn qs (State.tellGrant s r) := by
  unfold State.tellGrant
  try dsimp -iota only
  repeat' first
    | with_reducible assumption
    | with_reducible apply State.setSession_kept
    | with_reducible apply State.ok_kept
    | with_reducible apply State.fabSend_kept
    | with_reducible apply Kept.ite
    | with_reducible apply Kept.iteFst
    | (with_reducible apply Kept.mk; first | with_reducible assumption | with_reducible apply State.setSession_kept | with_reducible apply State.ok_kept | with_reducible apply State.fabSend_kept | with_reducible apply Kept.ite)
    | intro _
    | split

theorem State.grantWaits_kept {s : State} (hs : Kept sn qs s) :
    Kept sn qs (State.grantWaits s) := by
  unfold State.grantWaits
  try dsimp -iota only
  repeat' first
    | with_reducible assumption
    | with_reducible apply State.modLocks_kept
    | with_reducible apply State.takeLocks_kept
    | with_reducible apply State.dropEdges_kept
    | with_reducible apply State.tellGrant_kept
    | with_reducible apply Kept.ite
    | with_reducible apply Kept.iteFst
    | with_reducible apply Kept.foldlFst
    | with_reducible apply Kept.foldl
    | (with_reducible apply Kept.mk; first | with_reducible assumption | with_reducible apply State.modLocks_kept | with_reducible apply State.takeLocks_kept | with_reducible apply State.dropEdges_kept | with_reducible apply State.tellGrant_kept | with_reducible apply Kept.ite)
    | intro _
    | split

theorem State.releaseLocks_kept {s : State} (r : SessRef) (eps : List (BitVec 16)) (hs : Kept sn qs s) :
    Kept sn qs (State.releaseLocks s r eps) := by
  unfold State.releaseLocks
  try dsimp -iota only
  repeat' first
    | with_reducible assumption
    | with_reducible apply State.modLocks_kept
    | with_reducible apply State.grantWaits_kept
    | with_reducible apply Kept.ite
    | with_reducible apply Kept.iteFst
    | (with_reducible apply Kept.mk; first | with_reducible assumption | with_reducible apply State.modLocks_kept | with_reducible apply State.grantWaits_kept | with_reducible apply Kept.ite)
    | intro _
    | split

theorem State.withdraw_kept {s : State} (r : SessRef) (hs : Kept sn qs s) :
    Kept sn qs (State.withdraw s r) := by
  unfold State.withdraw
  try dsimp -iota only
  repeat' first
    | with_reducible assumption
    | with_reducible apply State.modLocks_kept
    | with_reducible apply State.dropEdges_kept
    | with_reducible apply State.grantWaits_kept
    | with_reducible apply Kept.ite
    | with_reducible apply Kept.iteFst
    | (with_reducible apply Kept.mk; first | with_reducible assumption | with_reducible apply State.modLocks_kept | with_reducible apply State.dropEdges_kept | with_reducible apply State.grantWaits_kept | with_reducible apply Kept.ite)
    | intro _
    | split

theorem State.dropDevice_kept {s : State} (dev : Nat) (hs : Kept sn qs s) :
    Kept sn qs (State.dropDevice s dev) := by
  unfold State.dropDevice
  try dsimp -iota only
  repeat' first
    | with_reducible assumption
    | with_reducible apply State.modLocks_kept
    | with_reducible apply State.grantWaits_kept
    | with_reducible apply Kept.ite
    | with_reducible apply Kept.iteFst
    | (with_reducible apply Kept.mk; first | with_reducible assumption | with_reducible apply State.modLocks_kept | with_reducible apply State.grantWaits_kept | with_reducible apply Kept.ite)
    | intro _
    | split

theorem State.mbxSignal_kept {s : State} (m : Nat) (hs : Kept sn qs s) :
    Kept sn qs (State.mbxSignal s m) := by
  unfold State.mbxSignal
  try dsimp -iota only
  repeat' first
    | with_reducible assumption
    | with_reducible apply State.setMbx_kept
    | with_reducible apply State.modEvents_kept
    | with_reducible apply Kept.ite
    | with_reducible apply Kept.iteFst
    | (with_reducible apply Kept.mk; first | with_reducible assumption | with_reducible apply State.setMbx_kept | with_reducible apply State.modEvents_kept | with_reducible apply Kept.ite)
    | intro _
    | split

theorem State.deliverRsp_kept {s : State} (m : Nat) (r : RspEntry) (noIrq : Bool) (hs : Kept sn qs s) :
    Kept sn qs (State.deliverRsp s m r noIrq) := by
  unfold State.deliverRsp
  try dsimp -iota only
  repeat' first
    | with_reducible assumption
    | with_reducible apply State.setMbx_kept
    | with_reducible apply State.setSession_kept
    | with_reducible apply State.modHost_kept
    | with_reducible apply State.fabSend_kept
    | with_reducible apply State.mbxSignal_kept
    | with_reducible apply Kept.ite
    | with_reducible apply Kept.iteFst
    | (with_reducible apply Kept.mk; first | with_reducible assumption | with_reducible apply State.setMbx_kept | with_reducible apply State.setSession_kept | with_reducible apply State.modHost_kept | with_reducible apply State.fabSend_kept | with_reducible apply State.mbxSignal_kept | with_reducible apply Kept.ite)
    | intro _
    | split

theorem State.writeRsp_kept {s : State} (k : Nat) (hs : Kept sn qs s) :
    Kept sn qs (State.writeRsp s k) := by
  unfold State.writeRsp
  try dsimp -iota only
  repeat' first
    | with_reducible assumption
    | with_reducible apply State.modMbx_kept
    | with_reducible apply State.modHost_kept
    | with_reducible apply State.setCmd_kept
    | with_reducible apply State.deliverRsp_kept
    | with_reducible apply Kept.ite
    | with_reducible apply Kept.iteFst
    | (with_reducible apply Kept.mk; first | with_reducible assumption | with_reducible apply State.modMbx_kept | with_reducible apply State.modHost_kept | with_reducible apply State.setCmd_kept | with_reducible apply State.deliverRsp_kept | with_reducible apply Kept.ite)
    | intro _
    | split

theorem State.closeSession_kept {s : State} (m : Nat) (hs : Kept sn qs s) :
    Kept sn qs (State.closeSession s m) := by
  unfold State.closeSession
  try dsimp -iota only
  repeat' first
    | with_reducible assumption
    | with_reducible apply State.modMbx_kept
    | with_reducible apply State.setSession_kept
    | with_reducible apply State.modHost_kept
    | with_reducible apply State.finish_kept
    | with_reducible apply State.fabSend_kept
    | with_reducible apply State.releaseLocks_kept
    | with_reducible apply State.withdraw_kept
    | with_reducible apply Kept.ite
    | with_reducible apply Kept.iteFst
    | with_reducible apply Kept.foldlFst
    | with_reducible apply Kept.foldl
    | (with_reducible apply Kept.mk; first | with_reducible assumption | with_reducible apply State.modMbx_kept | with_reducible apply State.setSession_kept | with_reducible apply State.modHost_kept | with_reducible apply State.finish_kept | with_reducible apply State.fabSend_kept | with_reducible apply State.releaseLocks_kept | with_reducible apply State.withdraw_kept | with_reducible apply Kept.ite)
    | intro _
    | split

theorem State.openSession_kept {s : State} (m : Nat) (id : Nat) (via : Transport) (key : List Byte) (tags : Nat) (hs : Kept sn qs s) :
    Kept sn qs (State.openSession s m id via key tags).1 := by
  unfold State.openSession
  try dsimp -iota only
  repeat' first
    | with_reducible assumption
    | with_reducible apply State.modMbx_kept
    | with_reducible apply State.setSession_kept
    | with_reducible apply State.ok_kept
    | with_reducible apply Kept.ite
    | with_reducible apply Kept.iteFst
    | (with_reducible apply Kept.mk; first | with_reducible assumption | with_reducible apply State.modMbx_kept | with_reducible apply State.setSession_kept | with_reducible apply State.ok_kept | with_reducible apply Kept.ite)
    | intro _
    | split

theorem State.acceptDesc_kept {s : State} (k : Nat) (d : Descriptor) (pending : List Item) (sid : Nat) (hs : Kept sn qs s) :
    Kept sn qs (State.acceptDesc s k d pending sid) := by
  unfold State.acceptDesc
  try dsimp -iota only
  repeat' first
    | with_reducible assumption
    | with_reducible apply State.modHost_kept
    | with_reducible apply State.setCmd_kept
    | with_reducible apply State.finish_kept
    | with_reducible apply State.fabSend_kept
    | with_reducible apply Kept.ite
    | with_reducible apply Kept.iteFst
    | (with_reducible apply Kept.mk; first | with_reducible assumption | with_reducible apply State.modHost_kept | with_reducible apply State.setCmd_kept | with_reducible apply State.finish_kept | with_reducible apply State.fabSend_kept | with_reducible apply Kept.ite)
    | intro _
    | split

theorem State.answerNow_kept {s : State} (m : Nat) (d : Descriptor) (st : BitVec 16) (data : List Byte) (hs : Kept sn qs s) :
    Kept sn qs (State.answerNow s m d st data) := by
  unfold State.answerNow
  try dsimp -iota only
  repeat' first
    | with_reducible assumption
    | with_reducible apply State.deliverRsp_kept
    | with_reducible apply Kept.ite
    | with_reducible apply Kept.iteFst
    | (with_reducible apply Kept.mk; first | with_reducible assumption | with_reducible apply State.deliverRsp_kept | with_reducible apply Kept.ite)
    | intro _
    | split

theorem State.takeDesc_kept {s : State} (m : Nat) (d : Descriptor) (hs : Kept sn qs s) :
    Kept sn qs (State.takeDesc s m d) := by
  unfold State.takeDesc
  try dsimp -iota only
  repeat' first
    | with_reducible assumption
    | with_reducible apply State.modMbx_kept
    | with_reducible apply State.bump_kept
    | with_reducible apply State.bumpIf_kept
    | with_reducible apply State.acceptDesc_kept
    | with_reducible apply State.answerNow_kept
    | with_reducible apply Kept.ite
    | with_reducible apply Kept.iteFst
    | (with_reducible apply Kept.mk; first | with_reducible assumption | with_reducible apply State.modMbx_kept | with_reducible apply State.bump_kept | with_reducible apply State.bumpIf_kept | with_reducible apply State.acceptDesc_kept | with_reducible apply State.answerNow_kept | with_reducible apply Kept.ite)
    | intro _
    | split

end Sys2Proof.Machine
end

