-- ==== Sys2Proof/Laws/KeptMailbox.lean ====
section
/-! SUPPORT. Every operation of Machine/Mailbox.lean keeps the queue and the soundness of the state. -/

set_option linter.all false
namespace Sys2Proof.Machine

variable {sn : Bool} {qs : List Instr}

theorem State.access_kept {s : State} (f : State → State) (hs : Kept sn qs s) (hf : ∀ x0, Kept sn qs x0 → Kept sn qs (f x0)) :
    nextHas (Kept sn qs) (State.access s f) := by
  unfold State.access
  try dsimp -iota only
  repeat' first
    | with_reducible assumption
    | with_reducible apply hf
    | with_reducible apply Kept.ite
    | with_reducible apply Kept.iteFst
    | exact trivial
    | with_reducible apply Kept.next
    | with_reducible apply Kept.iteOut
    | (with_reducible apply Kept.mk; first | with_reducible assumption | with_reducible apply hf | with_reducible apply Kept.ite)
    | intro _
    | split

theorem execMbxDoorbell_kept (m : Fin 64) (tail : BitVec 16) {s : State} (hs : Kept sn qs s) :
    nextHas (Kept sn qs) (execMbxDoorbell m tail s) := by
  unfold execMbxDoorbell
  try dsimp -iota only
  repeat' first
    | with_reducible assumption
    | with_reducible apply State.setMbx_kept
    | with_reducible apply State.bump_kept
    | with_reducible apply State.log_kept
    | with_reducible apply State.access_kept
    | with_reducible apply Kept.ite
    | with_reducible apply Kept.iteFst
    | exact trivial
    | with_reducible apply Kept.next
    | with_reducible apply Kept.iteOut
    | (with_reducible apply Kept.mk; first | with_reducible assumption | with_reducible apply State.setMbx_kept | with_reducible apply State.bump_kept | with_reducible apply State.log_kept | with_reducible apply State.access_kept | with_reducible apply Kept.ite)
    | intro _
    | split

theorem execMbxRspHeadWrite_kept (m : Fin 64) (head : BitVec 16) {s : State} (hs : Kept sn qs s) :
    nextHas (Kept sn qs) (execMbxRspHeadWrite m head s) := by
  unfold execMbxRspHeadWrite
  try dsimp -iota only
  repeat' first
    | with_reducible assumption
    | with_reducible apply State.setMbx_kept
    | with_reducible apply State.bump_kept
    | with_reducible apply State.log_kept
    | with_reducible apply State.access_kept
    | with_reducible apply Kept.ite
    | with_reducible apply Kept.iteFst
    | exact trivial
    | with_reducible apply Kept.next
    | with_reducible apply Kept.iteOut
    | (with_reducible apply Kept.mk; first | with_reducible assumption | with_reducible apply State.setMbx_kept | with_reducible apply State.bump_kept | with_reducible apply State.log_kept | with_reducible apply State.access_kept | with_reducible apply Kept.ite)
    | intro _
    | split

theorem execMbxEnableSet_kept (m : Fin 64) (ctrl : BitVec 32) {s : State} (hs : Kept sn qs s) :
    nextHas (Kept sn qs) (execMbxEnableSet m ctrl s) := by
  unfold execMbxEnableSet
  try dsimp -iota only
  repeat' first
    | with_reducible assumption
    | with_reducible apply State.setMbx_kept
    | with_reducible apply State.bump_kept
    | with_reducible apply State.access_kept
    | with_reducible apply Kept.ite
    | with_reducible apply Kept.iteFst
    | exact trivial
    | with_reducible apply Kept.next
    | with_reducible apply Kept.iteOut
    | (with_reducible apply Kept.mk; first | with_reducible assumption | with_reducible apply State.setMbx_kept | with_reducible apply State.bump_kept | with_reducible apply State.access_kept | with_reducible apply Kept.ite)
    | intro _
    | split

theorem State.mbxOff_kept {s : State} (m : Nat) (hs : Kept sn qs s) :
    Kept sn qs (State.mbxOff s m) := by
  unfold State.mbxOff
  try dsimp -iota only
  repeat' first
    | with_reducible assumption
    | with_reducible apply State.modMbx_kept
    | with_reducible apply State.closeSession_kept
    | with_reducible apply Kept.ite
    | with_reducible apply Kept.iteFst
    | (with_reducible apply Kept.mk; first | with_reducible assumption | with_reducible apply State.modMbx_kept | with_reducible apply State.closeSession_kept | with_reducible apply Kept.ite)
    | intro _
    | split

theorem execMbxEnableClear_kept (m : Fin 64) (ctrl : BitVec 32) {s : State} (hs : Kept sn qs s) :
    nextHas (Kept sn qs) (execMbxEnableClear m ctrl s) := by
  unfold execMbxEnableClear
  try dsimp -iota only
  repeat' first
    | with_reducible assumption
    | with_reducible apply State.modMbx_kept
    | with_reducible apply State.access_kept
    | with_reducible apply State.mbxOff_kept
    | with_reducible apply Kept.ite
    | with_reducible apply Kept.iteFst
    | exact trivial
    | with_reducible apply Kept.next
    | with_reducible apply Kept.iteOut
    | (with_reducible apply Kept.mk; first | with_reducible assumption | with_reducible apply State.modMbx_kept | with_reducible apply State.access_kept | with_reducible apply State.mbxOff_kept | with_reducible apply Kept.ite)
    | intro _
    | split

theorem execMbxEvtHeadWrite_kept (head : BitVec 16) {s : State} (hs : Kept sn qs s) :
    nextHas (Kept sn qs) (execMbxEvtHeadWrite head s) := by
  unfold execMbxEvtHeadWrite
  try dsimp -iota only
  repeat' first
    | with_reducible assumption
    | with_reducible apply State.access_kept
    | with_reducible apply Kept.ite
    | with_reducible apply Kept.iteFst
    | exact trivial
    | with_reducible apply Kept.next
    | with_reducible apply Kept.iteOut
    | (with_reducible apply Kept.mk; first | with_reducible assumption | with_reducible apply State.access_kept | with_reducible apply Kept.ite)
    | intro _
    | split

theorem execMbxEvtEnable_kept (ctrl : BitVec 32) {s : State} (hs : Kept sn qs s) :
    nextHas (Kept sn qs) (execMbxEvtEnable ctrl s) := by
  unfold execMbxEvtEnable
  try dsimp -iota only
  repeat' first
    | with_reducible assumption
    | with_reducible apply State.modEvents_kept
    | with_reducible apply State.access_kept
    | with_reducible apply Kept.ite
    | with_reducible apply Kept.iteFst
    | exact trivial
    | with_reducible apply Kept.next
    | with_reducible apply Kept.iteOut
    | (with_reducible apply Kept.mk; first | with_reducible assumption | with_reducible apply State.modEvents_kept | with_reducible apply State.access_kept | with_reducible apply Kept.ite)
    | intro _
    | split

theorem execMbxEvtLostRead_kept {s : State} (hs : Kept sn qs s) :
    nextHas (Kept sn qs) (execMbxEvtLostRead s) := by
  unfold execMbxEvtLostRead
  try dsimp -iota only
  repeat' first
    | with_reducible assumption
    | with_reducible apply State.modEvents_kept
    | with_reducible apply State.access_kept
    | with_reducible apply Kept.ite
    | with_reducible apply Kept.iteFst
    | exact trivial
    | with_reducible apply Kept.next
    | with_reducible apply Kept.iteOut
    | (with_reducible apply Kept.mk; first | with_reducible assumption | with_reducible apply State.modEvents_kept | with_reducible apply State.access_kept | with_reducible apply Kept.ite)
    | intro _
    | split

theorem execSupFtSnapLoRead_kept {s : State} (hs : Kept sn qs s) :
    nextHas (Kept sn qs) (execSupFtSnapLoRead s) := by
  unfold execSupFtSnapLoRead
  try dsimp -iota only
  repeat' first
    | with_reducible assumption
    | with_reducible apply State.modHost_kept
    | with_reducible apply State.took_kept
    | with_reducible apply State.access_kept
    | with_reducible apply Kept.ite
    | with_reducible apply Kept.iteFst
    | exact trivial
    | with_reducible apply Kept.next
    | with_reducible apply Kept.iteOut
    | (with_reducible apply Kept.mk; first | with_reducible assumption | with_reducible apply State.modHost_kept | with_reducible apply State.took_kept | with_reducible apply State.access_kept | with_reducible apply Kept.ite)
    | intro _
    | split

theorem execSupFaultWrite_kept (mask : BitVec 32) {s : State} (hs : Kept sn qs s) :
    nextHas (Kept sn qs) (execSupFaultWrite mask s) := by
  unfold execSupFaultWrite
  try dsimp -iota only
  repeat' first
    | with_reducible assumption
    | with_reducible apply State.modHost_kept
    | with_reducible apply State.access_kept
    | with_reducible apply Kept.ite
    | with_reducible apply Kept.iteFst
    | exact trivial
    | with_reducible apply Kept.next
    | with_reducible apply Kept.iteOut
    | (with_reducible apply Kept.mk; first | with_reducible assumption | with_reducible apply State.modHost_kept | with_reducible apply State.access_kept | with_reducible apply Kept.ite)
    | intro _
    | split

theorem execMbxBadAccess_kept {s : State} (hs : Kept sn qs s) :
    nextHas (Kept sn qs) (execMbxBadAccess s) := by
  unfold execMbxBadAccess
  try dsimp -iota only
  repeat' first
    | with_reducible assumption
    | with_reducible apply State.bump_kept
    | with_reducible apply State.access_kept
    | with_reducible apply Kept.ite
    | with_reducible apply Kept.iteFst
    | exact trivial
    | with_reducible apply Kept.next
    | with_reducible apply Kept.iteOut
    | (with_reducible apply Kept.mk; first | with_reducible assumption | with_reducible apply State.bump_kept | with_reducible apply State.access_kept | with_reducible apply Kept.ite)
    | intro _
    | split

theorem execRegisterWrite_kept (reg : DirectReg) (v : BitVec 32) {s : State} (hs : Kept sn qs s) :
    nextHas (Kept sn qs) (execRegisterWrite reg v s) := by
  unfold execRegisterWrite
  try dsimp -iota only
  repeat' first
    | with_reducible assumption
    | with_reducible apply State.modMbx_kept
    | with_reducible apply State.modEvents_kept
    | with_reducible apply State.access_kept
    | with_reducible apply Kept.ite
    | with_reducible apply Kept.iteFst
    | exact trivial
    | with_reducible apply Kept.next
    | with_reducible apply Kept.iteOut
    | (with_reducible apply Kept.mk; first | with_reducible assumption | with_reducible apply State.modMbx_kept | with_reducible apply State.modEvents_kept | with_reducible apply State.access_kept | with_reducible apply Kept.ite)
    | intro _
    | split

theorem State.fetched_kept {s : State} (m : Nat) (d : Descriptor) (boot : Bool) (hs : Kept sn qs s) :
    Kept sn qs (State.fetched s m d boot) := by
  unfold State.fetched
  try dsimp -iota only
  repeat' first
    | with_reducible assumption
    | with_reducible apply State.modMbx_kept
    | with_reducible apply State.bump_kept
    | with_reducible apply State.answerNow_kept
    | with_reducible apply State.takeDesc_kept
    | with_reducible apply Kept.ite
    | with_reducible apply Kept.iteFst
    | (with_reducible apply Kept.mk; first | with_reducible assumption | with_reducible apply State.modMbx_kept | with_reducible apply State.bump_kept | with_reducible apply State.answerNow_kept | with_reducible apply State.takeDesc_kept | with_reducible apply Kept.ite)
    | intro _
    | split

theorem execDescriptorFetch_kept (m : Fin 64) (d : Descriptor) {s : State} (hs : Kept sn qs s) :
    nextHas (Kept sn qs) (execDescriptorFetch m d s) := by
  unfold execDescriptorFetch
  try dsimp -iota only
  repeat' first
    | with_reducible assumption
    | with_reducible apply State.setMbx_kept
    | with_reducible apply State.modMbx_kept
    | with_reducible apply State.bumpIf_kept
    | with_reducible apply State.fetched_kept
    | with_reducible apply Kept.ite
    | with_reducible apply Kept.iteFst
    | exact trivial
    | with_reducible apply Kept.next
    | with_reducible apply Kept.iteOut
    | (with_reducible apply Kept.mk; first | with_reducible assumption | with_reducible apply State.setMbx_kept | with_reducible apply State.modMbx_kept | with_reducible apply State.bumpIf_kept | with_reducible apply State.fetched_kept | with_reducible apply Kept.ite)
    | intro _
    | split

theorem execResponseWrite_kept (m : Fin 64) {s : State} (hs : Kept sn qs s) :
    nextHas (Kept sn qs) (execResponseWrite m s) := by
  unfold execResponseWrite
  try dsimp -iota only
  repeat' first
    | with_reducible assumption
    | with_reducible apply State.writeRsp_kept
    | with_reducible apply Kept.ite
    | with_reducible apply Kept.iteFst
    | exact trivial
    | with_reducible apply Kept.next
    | with_reducible apply Kept.iteOut
    | (with_reducible apply Kept.mk; first | with_reducible assumption | with_reducible apply State.writeRsp_kept | with_reducible apply Kept.ite)
    | intro _
    | split

theorem execRingDmaFail_kept (m : Fin 64) {s : State} (hs : Kept sn qs s) :
    nextHas (Kept sn qs) (execRingDmaFail m s) := by
  unfold execRingDmaFail
  try dsimp -iota only
  repeat' first
    | with_reducible assumption
    | with_reducible apply State.setMbx_kept
    | with_reducible apply State.supFault_kept
    | with_reducible apply Kept.ite
    | with_reducible apply Kept.iteFst
    | exact trivial
    | with_reducible apply Kept.next
    | with_reducible apply Kept.iteOut
    | (with_reducible apply Kept.mk; first | with_reducible assumption | with_reducible apply State.setMbx_kept | with_reducible apply State.supFault_kept | with_reducible apply Kept.ite)
    | intro _
    | split

theorem execMsixModerationEnd_kept (source : Option (Fin 64)) {s : State} (hs : Kept sn qs s) :
    nextHas (Kept sn qs) (execMsixModerationEnd source s) := by
  unfold execMsixModerationEnd
  try dsimp -iota only
  repeat' first
    | with_reducible assumption
    | with_reducible apply State.modEvents_kept
    | with_reducible apply State.mbxSignal_kept
    | with_reducible apply Kept.ite
    | with_reducible apply Kept.iteFst
    | exact trivial
    | with_reducible apply Kept.next
    | with_reducible apply Kept.iteOut
    | (with_reducible apply Kept.mk; first | with_reducible assumption | with_reducible apply State.modEvents_kept | with_reducible apply State.mbxSignal_kept | with_reducible apply Kept.ite)
    | intro _
    | split

theorem execPcieLinkDown_kept {s : State} (hs : Kept sn qs s) :
    nextHas (Kept sn qs) (execPcieLinkDown s) := by
  unfold execPcieLinkDown
  try dsimp -iota only
  repeat' first
    | with_reducible assumption
    | with_reducible apply State.mbxOff_kept
    | with_reducible apply Kept.ite
    | with_reducible apply Kept.iteFst
    | with_reducible apply Kept.foldl
    | exact trivial
    | with_reducible apply Kept.next
    | with_reducible apply Kept.iteOut
    | (with_reducible apply Kept.mk; first | with_reducible assumption | with_reducible apply State.mbxOff_kept | with_reducible apply Kept.ite)
    | intro _
    | split

theorem execSessionIdleTimeout_kept (m : Fin 64) {s : State} (hs : Kept sn qs s) :
    nextHas (Kept sn qs) (execSessionIdleTimeout m s) := by
  unfold execSessionIdleTimeout
  try dsimp -iota only
  repeat' first
    | with_reducible assumption
    | with_reducible apply State.closeSession_kept
    | with_reducible apply Kept.ite
    | with_reducible apply Kept.iteFst
    | exact trivial
    | with_reducible apply Kept.next
    | with_reducible apply Kept.iteOut
    | (with_reducible apply Kept.mk; first | with_reducible assumption | with_reducible apply State.closeSession_kept | with_reducible apply Kept.ite)
    | intro _
    | split

theorem execCmdRecordExpiry_kept (ref : CmdRef) {s : State} (hs : Kept sn qs s) :
    nextHas (Kept sn qs) (execCmdRecordExpiry ref s) := by
  unfold execCmdRecordExpiry
  try dsimp -iota only
  repeat' first
    | with_reducible assumption
    | with_reducible apply State.setCmd_kept
    | with_reducible apply Kept.ite
    | with_reducible apply Kept.iteFst
    | exact trivial
    | with_reducible apply Kept.next
    | with_reducible apply Kept.iteOut
    | (with_reducible apply Kept.mk; first | with_reducible assumption | with_reducible apply State.setCmd_kept | with_reducible apply Kept.ite)
    | intro _
    | split

theorem execSessionOpen_kept (ref : CmdRef) (tags : BitVec 16) {s : State} (hs : Kept sn qs s) :
    nextHas (Kept sn qs) (execSessionOpen ref tags s) := by
  unfold execSessionOpen
  try dsimp -iota only
  repeat' first
    | with_reducible assumption
    | with_reducible apply State.took_kept
    | with_reducible apply State.finish_kept
    | with_reducible apply State.execCmd_kept
    | with_reducible apply State.openSession_kept
    | with_reducible apply Kept.ite
    | with_reducible apply Kept.iteFst
    | exact trivial
    | with_reducible apply Kept.next
    | with_reducible apply Kept.iteOut
    | (with_reducible apply Kept.mk; first | with_reducible assumption | with_reducible apply State.took_kept | with_reducible apply State.finish_kept | with_reducible apply State.execCmd_kept | with_reducible apply State.openSession_kept | with_reducible apply Kept.ite)
    | intro _
    | split

theorem execSessionClose_kept (ref : CmdRef) {s : State} (hs : Kept sn qs s) :
    nextHas (Kept sn qs) (execSessionClose ref s) := by
  unfold execSessionClose
  try dsimp -iota only
  repeat' first
    | with_reducible assumption
    | with_reducible apply State.ok_kept
    | with_reducible apply State.execCmd_kept
    | with_reducible apply State.writeRsp_kept
    | with_reducible apply State.closeSession_kept
    | with_reducible apply Kept.ite
    | with_reducible apply Kept.iteFst
    | exact trivial
    | with_reducible apply Kept.next
    | with_reducible apply Kept.iteOut
    | (with_reducible apply Kept.mk; first | with_reducible assumption | with_reducible apply State.ok_kept | with_reducible apply State.execCmd_kept | with_reducible apply State.writeRsp_kept | with_reducible apply State.closeSession_kept | with_reducible apply Kept.ite)
    | intro _
    | split

theorem execKeySet_kept (ref : CmdRef) (keyId : Byte) (key : List Byte) {s : State} (hs : Kept sn qs s) :
    nextHas (Kept sn qs) (execKeySet ref keyId key s) := by
  unfold execKeySet
  try dsimp -iota only
  repeat' first
    | with_reducible assumption
    | with_reducible apply State.modHost_kept
    | with_reducible apply State.ok_kept
    | with_reducible apply State.execCmd_kept
    | with_reducible apply State.checked_kept
    | with_reducible apply Kept.ite
    | with_reducible apply Kept.iteFst
    | exact trivial
    | with_reducible apply Kept.next
    | with_reducible apply Kept.iteOut
    | (with_reducible apply Kept.mk; first | with_reducible assumption | with_reducible apply State.modHost_kept | with_reducible apply State.ok_kept | with_reducible apply State.execCmd_kept | with_reducible apply State.checked_kept | with_reducible apply Kept.ite)
    | intro _
    | split

theorem State.openFabric_kept {s : State} (src : Nat) (sess : BitVec 32) (d : Descriptor) (hs : Kept sn qs s) :
    Kept sn qs (State.openFabric s src sess d) := by
  unfold State.openFabric
  try dsimp -iota only
  repeat' first
    | with_reducible assumption
    | with_reducible apply State.took_kept
    | with_reducible apply State.fabSend_kept
    | with_reducible apply State.openSession_kept
    | with_reducible apply Kept.ite
    | with_reducible apply Kept.iteFst
    | (with_reducible apply Kept.mk; first | with_reducible assumption | with_reducible apply State.took_kept | with_reducible apply State.fabSend_kept | with_reducible apply State.openSession_kept | with_reducible apply Kept.ite)
    | intro _
    | split

theorem State.runForwarded_kept {s : State} (src : Nat) (sess : BitVec 32) (d : Descriptor) (hs : Kept sn qs s) :
    Kept sn qs (State.runForwarded s src sess d) := by
  unfold State.runForwarded
  try dsimp -iota only
  repeat' first
    | with_reducible assumption
    | with_reducible apply State.fabSend_kept
    | with_reducible apply State.acceptDesc_kept
    | with_reducible apply Kept.ite
    | with_reducible apply Kept.iteFst
    | (with_reducible apply Kept.mk; first | with_reducible assumption | with_reducible apply State.fabSend_kept | with_reducible apply State.acceptDesc_kept | with_reducible apply Kept.ite)
    | intro _
    | split

theorem execForwardedCommandRx_kept (src : Fin 4096) (sess : BitVec 32) (d : Descriptor) {s : State} (hs : Kept sn qs s) :
    nextHas (Kept sn qs) (execForwardedCommandRx src sess d s) := by
  unfold execForwardedCommandRx
  try dsimp -iota only
  repeat' first
    | with_reducible assumption
    | with_reducible apply State.modMbx_kept
    | with_reducible apply State.modSession_kept
    | with_reducible apply State.takeDesc_kept
    | with_reducible apply State.openFabric_kept
    | with_reducible apply State.runForwarded_kept
    | with_reducible apply Kept.ite
    | with_reducible apply Kept.iteFst
    | exact trivial
    | with_reducible apply Kept.next
    | with_reducible apply Kept.iteOut
    | (with_reducible apply Kept.mk; first | with_reducible assumption | with_reducible apply State.modMbx_kept | with_reducible apply State.modSession_kept | with_reducible apply State.takeDesc_kept | with_reducible apply State.openFabric_kept | with_reducible apply State.runForwarded_kept | with_reducible apply Kept.ite)
    | intro _
    | split

theorem execForwardedResponseRx_kept (m : Fin 64) (tag : Fin 256) (status : BitVec 16) (data : List Byte) (tDone : Ft8) {s : State} (hs : Kept sn qs s) :
    nextHas (Kept sn qs) (execForwardedResponseRx m tag status data tDone s) := by
  unfold execForwardedResponseRx
  try dsimp -iota only
  repeat' first
    | with_reducible assumption
    | with_reducible apply State.modSession_kept
    | with_reducible apply State.setCmd_kept
    | with_reducible apply State.finish_kept
    | with_reducible apply Kept.ite
    | with_reducible apply Kept.iteFst
    | exact trivial
    | with_reducible apply Kept.next
    | with_reducible apply Kept.iteOut
    | (with_reducible apply Kept.mk; first | with_reducible assumption | with_reducible apply State.modSession_kept | with_reducible apply State.setCmd_kept | with_reducible apply State.finish_kept | with_reducible apply Kept.ite)
    | intro _
    | split

theorem execForwardTimeout_kept (m : Fin 64) (tag : Fin 256) {s : State} (hs : Kept sn qs s) :
    nextHas (Kept sn qs) (execForwardTimeout m tag s) := by
  unfold execForwardTimeout
  try dsimp -iota only
  repeat' first
    | with_reducible assumption
    | with_reducible apply State.setCmd_kept
    | with_reducible apply State.finish_kept
    | with_reducible apply Kept.ite
    | with_reducible apply Kept.iteFst
    | exact trivial
    | with_reducible apply Kept.next
    | with_reducible apply Kept.iteOut
    | (with_reducible apply Kept.mk; first | with_reducible assumption | with_reducible apply State.setCmd_kept | with_reducible apply State.finish_kept | with_reducible apply Kept.ite)
    | intro _
    | split

theorem execSysIdentify_kept (ref : CmdRef) {s : State} (hs : Kept sn qs s) :
    nextHas (Kept sn qs) (execSysIdentify ref s) := by
  unfold execSysIdentify
  try dsimp -iota only
  repeat' first
    | with_reducible assumption
    | with_reducible apply State.ok_kept
    | with_reducible apply State.execCmd_kept
    | with_reducible apply Kept.ite
    | with_reducible apply Kept.iteFst
    | exact trivial
    | with_reducible apply Kept.next
    | with_reducible apply Kept.iteOut
    | (with_reducible apply Kept.mk; first | with_reducible assumption | with_reducible apply State.ok_kept | with_reducible apply State.execCmd_kept | with_reducible apply Kept.ite)
    | intro _
    | split

theorem execSysStatus_kept (ref : CmdRef) {s : State} (hs : Kept sn qs s) :
    nextHas (Kept sn qs) (execSysStatus ref s) := by
  unfold execSysStatus
  try dsimp -iota only
  repeat' first
    | with_reducible assumption
    | with_reducible apply State.ok_kept
    | with_reducible apply State.execCmd_kept
    | with_reducible apply Kept.ite
    | with_reducible apply Kept.iteFst
    | exact trivial
    | with_reducible apply Kept.next
    | with_reducible apply Kept.iteOut
    | (with_reducible apply Kept.mk; first | with_reducible assumption | with_reducible apply State.ok_kept | with_reducible apply State.execCmd_kept | with_reducible apply Kept.ite)
    | intro _
    | split

theorem execCmdStatus_kept (ref : CmdRef) (dev : BitVec 16) (tag : Fin 256) {s : State} (hs : Kept sn qs s) :
    nextHas (Kept sn qs) (execCmdStatus ref dev tag s) := by
  unfold execCmdStatus
  try dsimp -iota only
  repeat' first
    | with_reducible assumption
    | with_reducible apply State.ok_kept
    | with_reducible apply State.execCmd_kept
    | with_reducible apply State.checked_kept
    | with_reducible apply Kept.ite
    | with_reducible apply Kept.iteFst
    | exact trivial
    | with_reducible apply Kept.next
    | with_reducible apply Kept.iteOut
    | (with_reducible apply Kept.mk; first | with_reducible assumption | with_reducible apply State.ok_kept | with_reducible apply State.execCmd_kept | with_reducible apply State.checked_kept | with_reducible apply Kept.ite)
    | intro _
    | split

theorem execCmdAbort_kept (ref : CmdRef) (dev : BitVec 16) (tag : Fin 256) {s : State} (hs : Kept sn qs s) :
    nextHas (Kept sn qs) (execCmdAbort ref dev tag s) := by
  unfold execCmdAbort
  try dsimp -iota only
  repeat' first
    | with_reducible assumption
    | with_reducible apply State.finish_kept
    | with_reducible apply State.ok_kept
    | with_reducible apply State.execCmd_kept
    | with_reducible apply State.checked_kept
    | with_reducible apply Kept.ite
    | with_reducible apply Kept.iteFst
    | exact trivial
    | with_reducible apply Kept.next
    | with_reducible apply Kept.iteOut
    | (with_reducible apply Kept.mk; first | with_reducible assumption | with_reducible apply State.finish_kept | with_reducible apply State.ok_kept | with_reducible apply State.execCmd_kept | with_reducible apply State.checked_kept | with_reducible apply Kept.ite)
    | intro _
    | split

theorem execInterruptedList_kept (ref : CmdRef) {s : State} (hs : Kept sn qs s) :
    nextHas (Kept sn qs) (execInterruptedList ref s) := by
  unfold execInterruptedList
  try dsimp -iota only
  repeat' first
    | with_reducible assumption
    | with_reducible apply State.ok_kept
    | with_reducible apply State.execCmd_kept
    | with_reducible apply Kept.ite
    | with_reducible apply Kept.iteFst
    | exact trivial
    | with_reducible apply Kept.next
    | with_reducible apply Kept.iteOut
    | (with_reducible apply Kept.mk; first | with_reducible assumption | with_reducible apply State.ok_kept | with_reducible apply State.execCmd_kept | with_reducible apply Kept.ite)
    | intro _
    | split

theorem execLogRead_kept (job : CmdJob) (first max : BitVec 32) {s : State} (hs : Kept sn qs s) :
    nextHas (Kept sn qs) (execLogRead job first max s) := by
  unfold execLogRead
  try dsimp -iota only
  repeat' first
    | with_reducible assumption
    | with_reducible apply State.log_kept
    | with_reducible apply State.execUnits_kept
    | with_reducible apply State.unitsDone_kept
    | with_reducible apply State.checked_kept
    | with_reducible apply Kept.ite
    | with_reducible apply Kept.iteFst
    | exact trivial
    | with_reducible apply Kept.next
    | with_reducible apply Kept.iteOut
    | (with_reducible apply Kept.mk; first | with_reducible assumption | with_reducible apply State.log_kept | with_reducible apply State.execUnits_kept | with_reducible apply State.unitsDone_kept | with_reducible apply State.checked_kept | with_reducible apply Kept.ite)
    | intro _
    | split

theorem execLogMark_kept (ref : CmdRef) (data : BitVec 128) {s : State} (hs : Kept sn qs s) :
    nextHas (Kept sn qs) (execLogMark ref data s) := by
  unfold execLogMark
  try dsimp -iota only
  repeat' first
    | with_reducible assumption
    | with_reducible apply State.log_kept
    | with_reducible apply State.ok_kept
    | with_reducible apply State.execCmd_kept
    | with_reducible apply Kept.ite
    | with_reducible apply Kept.iteFst
    | exact trivial
    | with_reducible apply Kept.next
    | with_reducible apply Kept.iteOut
    | (with_reducible apply Kept.mk; first | with_reducible assumption | with_reducible apply State.log_kept | with_reducible apply State.ok_kept | with_reducible apply State.execCmd_kept | with_reducible apply Kept.ite)
    | intro _
    | split

end Sys2Proof.Machine
end

