-- ==== Sys2Proof/Laws/KeptUdp.lean ====
section
/-! SUPPORT. Every operation of Machine/Udp.lean keeps the queue and the soundness of the state. -/

set_option linter.all false
namespace Sys2Proof.Machine

variable {sn : Bool} {qs : List Instr}

theorem State.udpSend_kept {s : State} (port : Fin 2) (addr : BitVec 48) (l : List Byte) (hs : Kept sn qs s) :
    Kept sn qs (State.udpSend s port addr l) := by
  unfold State.udpSend
  try dsimp -iota only
  repeat' first
    | with_reducible assumption
    | with_reducible apply State.modHost_kept
    | with_reducible apply Kept.ite
    | with_reducible apply Kept.iteFst
    | (with_reducible apply Kept.mk; first | with_reducible assumption | with_reducible apply State.modHost_kept | with_reducible apply Kept.ite)
    | intro _
    | split

theorem State.hello_kept {s : State} (port : Fin 2) (src : BitVec 48) (g : Datagram) (hs : Kept sn qs s) :
    Kept sn qs (State.hello s port src g) := by
  unfold State.hello
  try dsimp -iota only
  repeat' first
    | with_reducible assumption
    | with_reducible apply State.modHost_kept
    | with_reducible apply State.took_kept
    | with_reducible apply State.bump_kept
    | with_reducible apply State.udpSend_kept
    | with_reducible apply Kept.ite
    | with_reducible apply Kept.iteFst
    | (with_reducible apply Kept.mk; first | with_reducible assumption | with_reducible apply State.modHost_kept | with_reducible apply State.took_kept | with_reducible apply State.bump_kept | with_reducible apply State.udpSend_kept | with_reducible apply Kept.ite)
    | intro _
    | split

theorem execUdpHello_kept (port : Fin 2) (src : BitVec 48) (bytes : List Byte) {s : State} (hs : Kept sn qs s) :
    nextHas (Kept sn qs) (execUdpHello port src bytes s) := by
  unfold execUdpHello
  try dsimp -iota only
  repeat' first
    | with_reducible assumption
    | with_reducible apply State.modHost_kept
    | with_reducible apply State.bump_kept
    | with_reducible apply State.hello_kept
    | with_reducible apply Kept.ite
    | with_reducible apply Kept.iteFst
    | exact trivial
    | with_reducible apply Kept.next
    | with_reducible apply Kept.iteOut
    | (with_reducible apply Kept.mk; first | with_reducible assumption | with_reducible apply State.modHost_kept | with_reducible apply State.bump_kept | with_reducible apply State.hello_kept | with_reducible apply Kept.ite)
    | intro _
    | split

theorem State.openUdp_kept {s : State} (h : HalfOpen) (g : Datagram) (d : Descriptor) (hs : Kept sn qs s) :
    Kept sn qs (State.openUdp s h g d) := by
  unfold State.openUdp
  try dsimp -iota only
  repeat' first
    | with_reducible assumption
    | with_reducible apply State.modSession_kept
    | with_reducible apply State.modHost_kept
    | with_reducible apply State.setCmd_kept
    | with_reducible apply State.ok_kept
    | with_reducible apply State.deliverRsp_kept
    | with_reducible apply State.openSession_kept
    | with_reducible apply State.udpSend_kept
    | with_reducible apply Kept.ite
    | with_reducible apply Kept.iteFst
    | (with_reducible apply Kept.mk; first | with_reducible assumption | with_reducible apply State.modSession_kept | with_reducible apply State.modHost_kept | with_reducible apply State.setCmd_kept | with_reducible apply State.ok_kept | with_reducible apply State.deliverRsp_kept | with_reducible apply State.openSession_kept | with_reducible apply State.udpSend_kept | with_reducible apply Kept.ite)
    | intro _
    | split

theorem State.udpTake_kept {s : State} (m : Nat) (d : Descriptor) (hs : Kept sn qs s) :
    Kept sn qs (State.udpTake s m d) := by
  unfold State.udpTake
  try dsimp -iota only
  repeat' first
    | with_reducible assumption
    | with_reducible apply State.modMbx_kept
    | with_reducible apply State.deliverRsp_kept
    | with_reducible apply State.takeDesc_kept
    | with_reducible apply Kept.ite
    | with_reducible apply Kept.iteFst
    | (with_reducible apply Kept.mk; first | with_reducible assumption | with_reducible apply State.modMbx_kept | with_reducible apply State.deliverRsp_kept | with_reducible apply State.takeDesc_kept | with_reducible apply Kept.ite)
    | intro _
    | split

theorem execUdpCommand_kept (port : Fin 2) (src : BitVec 48) (bytes : List Byte) {s : State} (hs : Kept sn qs s) :
    nextHas (Kept sn qs) (execUdpCommand port src bytes s) := by
  unfold execUdpCommand
  try dsimp -iota only
  repeat' first
    | with_reducible assumption
    | with_reducible apply State.setSession_kept
    | with_reducible apply State.bump_kept
    | with_reducible apply State.openUdp_kept
    | with_reducible apply State.udpTake_kept
    | with_reducible apply Kept.ite
    | with_reducible apply Kept.iteFst
    | exact trivial
    | with_reducible apply Kept.next
    | with_reducible apply Kept.iteOut
    | (with_reducible apply Kept.mk; first | with_reducible assumption | with_reducible apply State.setSession_kept | with_reducible apply State.bump_kept | with_reducible apply State.openUdp_kept | with_reducible apply State.udpTake_kept | with_reducible apply Kept.ite)
    | intro _
    | split

theorem execHalfOpenTimeout_kept (sessionId : BitVec 32) {s : State} (hs : Kept sn qs s) :
    nextHas (Kept sn qs) (execHalfOpenTimeout sessionId s) := by
  unfold execHalfOpenTimeout
  try dsimp -iota only
  repeat' first
    | with_reducible assumption
    | with_reducible apply State.modHost_kept
    | with_reducible apply Kept.ite
    | with_reducible apply Kept.iteFst
    | exact trivial
    | with_reducible apply Kept.next
    | with_reducible apply Kept.iteOut
    | (with_reducible apply Kept.mk; first | with_reducible assumption | with_reducible apply State.modHost_kept | with_reducible apply Kept.ite)
    | intro _
    | split

end Sys2Proof.Machine
end

