-- ==== Sys2Proof/Laws/KeptLocks.lean ====
section
/-! SUPPORT. Every operation of Machine/Locks.lean keeps the queue and the soundness of the state. -/

set_option linter.all false
namespace Sys2Proof.Machine

variable {sn : Bool} {qs : List Instr}

theorem State.addEdges_kept {s : State} (r : SessRef) (on : List SessRef) (hs : Kept sn qs s) :
    Kept sn qs (State.addEdges s r on) := by
  unfold State.addEdges
  try dsimp -iota only
  repeat' first
    | with_reducible assumption
    | with_reducible apply State.modLocks_kept
    | with_reducible apply Kept.ite
    | with_reducible apply Kept.iteFst
    | (with_reducible apply Kept.mk; first | with_reducible assumption | with_reducible apply State.modLocks_kept | with_reducible apply Kept.ite)
    | intro _
    | split

theorem State.lockWait_kept {s : State} (r : LockWait) (hs : Kept sn qs s) :
    Kept sn qs (State.lockWait s r).1 := by
  unfold State.lockWait
  try dsimp -iota only
  repeat' first
    | with_reducible assumption
    | with_reducible apply State.modLocks_kept
    | with_reducible apply State.bump_kept
    | with_reducible apply State.fabSend_kept
    | with_reducible apply State.addEdges_kept
    | with_reducible apply Kept.ite
    | with_reducible apply Kept.iteFst
    | (with_reducible apply Kept.mk; first | with_reducible assumption | with_reducible apply State.modLocks_kept | with_reducible apply State.bump_kept | with_reducible apply State.fabSend_kept | with_reducible apply State.addEdges_kept | with_reducible apply Kept.ite)
    | intro _
    | split

theorem State.lockTry_kept {s : State} (r : LockWait) (wait : Bool) (hs : Kept sn qs s) :
    Kept sn qs (State.lockTry s r wait).1 := by
  unfold State.lockTry
  try dsimp -iota only
  repeat' first
    | with_reducible assumption
    | with_reducible apply State.bump_kept
    | with_reducible apply State.takeLocks_kept
    | with_reducible apply State.lockWait_kept
    | with_reducible apply Kept.ite
    | with_reducible apply Kept.iteFst
    | (with_reducible apply Kept.mk; first | with_reducible assumption | with_reducible apply State.bump_kept | with_reducible apply State.takeLocks_kept | with_reducible apply State.lockWait_kept | with_reducible apply Kept.ite)
    | intro _
    | split

theorem execLock_kept (ref : CmdRef) (wait : BitVec 32) (eps : List (BitVec 16)) {s : State} (hs : Kept sn qs s) :
    nextHas (Kept sn qs) (execLock ref wait eps s) := by
  unfold execLock
  try dsimp -iota only
  repeat' first
    | with_reducible assumption
    | with_reducible apply State.setSession_kept
    | with_reducible apply State.finish_kept
    | with_reducible apply State.ok_kept
    | with_reducible apply State.run_kept
    | with_reducible apply State.execCmd_kept
    | with_reducible apply State.checked_kept
    | with_reducible apply State.fabSend_kept
    | with_reducible apply State.lockTry_kept
    | with_reducible apply Kept.ite
    | with_reducible apply Kept.iteFst
    | exact trivial
    | with_reducible apply Kept.next
    | with_reducible apply Kept.iteOut
    | (with_reducible apply Kept.mk; first | with_reducible assumption | with_reducible apply State.setSession_kept | with_reducible apply State.finish_kept | with_reducible apply State.ok_kept | with_reducible apply State.run_kept | with_reducible apply State.execCmd_kept | with_reducible apply State.checked_kept | with_reducible apply State.fabSend_kept | with_reducible apply State.lockTry_kept | with_reducible apply Kept.ite)
    | intro _
    | split

theorem execUnlock_kept (ref : CmdRef) (eps : List (BitVec 16)) {s : State} (hs : Kept sn qs s) :
    nextHas (Kept sn qs) (execUnlock ref eps s) := by
  unfold execUnlock
  try dsimp -iota only
  repeat' first
    | with_reducible assumption
    | with_reducible apply State.setSession_kept
    | with_reducible apply State.finish_kept
    | with_reducible apply State.ok_kept
    | with_reducible apply State.execCmd_kept
    | with_reducible apply State.fabSend_kept
    | with_reducible apply State.releaseLocks_kept
    | with_reducible apply Kept.ite
    | with_reducible apply Kept.iteFst
    | exact trivial
    | with_reducible apply Kept.next
    | with_reducible apply Kept.iteOut
    | (with_reducible apply Kept.mk; first | with_reducible assumption | with_reducible apply State.setSession_kept | with_reducible apply State.finish_kept | with_reducible apply State.ok_kept | with_reducible apply State.execCmd_kept | with_reducible apply State.fabSend_kept | with_reducible apply State.releaseLocks_kept | with_reducible apply Kept.ite)
    | intro _
    | split

theorem State.tellRefusal_kept {s : State} (r : SessRef) (circle : Bool) (hs : Kept sn qs s) :
    Kept sn qs (State.tellRefusal s r circle) := by
  unfold State.tellRefusal
  try dsimp -iota only
  repeat' first
    | with_reducible assumption
    | with_reducible apply State.setSession_kept
    | with_reducible apply State.finish_kept
    | with_reducible apply State.fabSend_kept
    | with_reducible apply Kept.ite
    | with_reducible apply Kept.iteFst
    | (with_reducible apply Kept.mk; first | with_reducible assumption | with_reducible apply State.setSession_kept | with_reducible apply State.finish_kept | with_reducible apply State.fabSend_kept | with_reducible apply Kept.ite)
    | intro _
    | split

theorem execLockRequestMsg_kept (sess : SessRef) (eps : List (BitVec 16)) (wait : Bool) {s : State} (hs : Kept sn qs s) :
    nextHas (Kept sn qs) (execLockRequestMsg sess eps wait s) := by
  unfold execLockRequestMsg
  try dsimp -iota only
  repeat' first
    | with_reducible assumption
    | with_reducible apply State.fabSend_kept
    | with_reducible apply State.lockTry_kept
    | with_reducible apply State.tellRefusal_kept
    | with_reducible apply Kept.ite
    | with_reducible apply Kept.iteFst
    | exact trivial
    | with_reducible apply Kept.next
    | with_reducible apply Kept.iteOut
    | (with_reducible apply Kept.mk; first | with_reducible assumption | with_reducible apply State.fabSend_kept | with_reducible apply State.lockTry_kept | with_reducible apply State.tellRefusal_kept | with_reducible apply Kept.ite)
    | intro _
    | split

theorem execLockGrantMsg_kept (m : Fin 64) {s : State} (hs : Kept sn qs s) :
    nextHas (Kept sn qs) (execLockGrantMsg m s) := by
  unfold execLockGrantMsg
  try dsimp -iota only
  repeat' first
    | with_reducible assumption
    | with_reducible apply State.setSession_kept
    | with_reducible apply State.ok_kept
    | with_reducible apply Kept.ite
    | with_reducible apply Kept.iteFst
    | exact trivial
    | with_reducible apply Kept.next
    | with_reducible apply Kept.iteOut
    | (with_reducible apply Kept.mk; first | with_reducible assumption | with_reducible apply State.setSession_kept | with_reducible apply State.ok_kept | with_reducible apply Kept.ite)
    | intro _
    | split

theorem execLockRefusalMsg_kept (m : Fin 64) (circle : Bool) {s : State} (hs : Kept sn qs s) :
    nextHas (Kept sn qs) (execLockRefusalMsg m circle s) := by
  unfold execLockRefusalMsg
  try dsimp -iota only
  repeat' first
    | with_reducible assumption
    | with_reducible apply State.setSession_kept
    | with_reducible apply State.finish_kept
    | with_reducible apply Kept.ite
    | with_reducible apply Kept.iteFst
    | exact trivial
    | with_reducible apply Kept.next
    | with_reducible apply Kept.iteOut
    | (with_reducible apply Kept.mk; first | with_reducible assumption | with_reducible apply State.setSession_kept | with_reducible apply State.finish_kept | with_reducible apply Kept.ite)
    | intro _
    | split

theorem execLockReleaseMsg_kept (sess : SessRef) (eps : List (BitVec 16)) {s : State} (hs : Kept sn qs s) :
    nextHas (Kept sn qs) (execLockReleaseMsg sess eps s) := by
  unfold execLockReleaseMsg
  try dsimp -iota only
  repeat' first
    | with_reducible assumption
    | with_reducible apply State.modLocks_kept
    | with_reducible apply State.releaseLocks_kept
    | with_reducible apply State.withdraw_kept
    | with_reducible apply Kept.ite
    | with_reducible apply Kept.iteFst
    | exact trivial
    | with_reducible apply Kept.next
    | with_reducible apply Kept.iteOut
    | (with_reducible apply Kept.mk; first | with_reducible assumption | with_reducible apply State.modLocks_kept | with_reducible apply State.releaseLocks_kept | with_reducible apply State.withdraw_kept | with_reducible apply Kept.ite)
    | intro _
    | split

theorem execLockGraphQuery_kept (req : SessRef) (on : List SessRef) (owner : Fin 4096) {s : State} (hs : Kept sn qs s) :
    nextHas (Kept sn qs) (execLockGraphQuery req on owner s) := by
  unfold execLockGraphQuery
  try dsimp -iota only
  repeat' first
    | with_reducible assumption
    | with_reducible apply State.bump_kept
    | with_reducible apply State.fabSend_kept
    | with_reducible apply State.addEdges_kept
    | with_reducible apply Kept.ite
    | with_reducible apply Kept.iteFst
    | exact trivial
    | with_reducible apply Kept.next
    | with_reducible apply Kept.iteOut
    | (with_reducible apply Kept.mk; first | with_reducible assumption | with_reducible apply State.bump_kept | with_reducible apply State.fabSend_kept | with_reducible apply State.addEdges_kept | with_reducible apply Kept.ite)
    | intro _
    | split

theorem State.lockTested_kept {s : State} (r : LockWait) (circle : Bool) (hs : Kept sn qs s) :
    Kept sn qs (State.lockTested s r circle) := by
  unfold State.lockTested
  try dsimp -iota only
  repeat' first
    | with_reducible assumption
    | with_reducible apply State.modLocks_kept
    | with_reducible apply State.grantWaits_kept
    | with_reducible apply State.tellRefusal_kept
    | with_reducible apply Kept.ite
    | with_reducible apply Kept.iteFst
    | (with_reducible apply Kept.mk; first | with_reducible assumption | with_reducible apply State.modLocks_kept | with_reducible apply State.grantWaits_kept | with_reducible apply State.tellRefusal_kept | with_reducible apply Kept.ite)
    | intro _
    | split

theorem execLockGraphAnswer_kept (sess : SessRef) (circle : Bool) {s : State} (hs : Kept sn qs s) :
    nextHas (Kept sn qs) (execLockGraphAnswer sess circle s) := by
  unfold execLockGraphAnswer
  try dsimp -iota only
  repeat' first
    | with_reducible assumption
    | with_reducible apply State.lockTested_kept
    | with_reducible apply Kept.ite
    | with_reducible apply Kept.iteFst
    | exact trivial
    | with_reducible apply Kept.next
    | with_reducible apply Kept.iteOut
    | (with_reducible apply Kept.mk; first | with_reducible assumption | with_reducible apply State.lockTested_kept | with_reducible apply Kept.ite)
    | intro _
    | split

theorem execLockWaitTimeout_kept (m : Fin 64) {s : State} (hs : Kept sn qs s) :
    nextHas (Kept sn qs) (execLockWaitTimeout m s) := by
  unfold execLockWaitTimeout
  try dsimp -iota only
  repeat' first
    | with_reducible assumption
    | with_reducible apply State.setSession_kept
    | with_reducible apply State.finish_kept
    | with_reducible apply State.fabSend_kept
    | with_reducible apply State.withdraw_kept
    | with_reducible apply Kept.ite
    | with_reducible apply Kept.iteFst
    | exact trivial
    | with_reducible apply Kept.next
    | with_reducible apply Kept.iteOut
    | (with_reducible apply Kept.mk; first | with_reducible assumption | with_reducible apply State.setSession_kept | with_reducible apply State.finish_kept | with_reducible apply State.fabSend_kept | with_reducible apply State.withdraw_kept | with_reducible apply Kept.ite)
    | intro _
    | split

theorem execWaitGraphRebuild_kept (edges : List (SessRef × SessRef)) {s : State} (hs : Kept sn qs s) :
    nextHas (Kept sn qs) (execWaitGraphRebuild edges s) := by
  unfold execWaitGraphRebuild
  try dsimp -iota only
  repeat' first
    | with_reducible assumption
    | with_reducible apply State.modLocks_kept
    | with_reducible apply State.bump_kept
    | with_reducible apply State.addEdges_kept
    | with_reducible apply State.lockTested_kept
    | with_reducible apply Kept.ite
    | with_reducible apply Kept.iteFst
    | with_reducible apply Kept.foldlFst
    | with_reducible apply Kept.foldl
    | exact trivial
    | with_reducible apply Kept.next
    | with_reducible apply Kept.iteOut
    | (with_reducible apply Kept.mk; first | with_reducible assumption | with_reducible apply State.modLocks_kept | with_reducible apply State.bump_kept | with_reducible apply State.addEdges_kept | with_reducible apply State.lockTested_kept | with_reducible apply Kept.ite)
    | intro _
    | split

end Sys2Proof.Machine
end

