-- ==== Sys2Proof/Laws/KeptCoherent.lean ====
section
/-! SUPPORT. Every operation of Machine/Coherent.lean keeps the queue and the soundness of the state. -/

set_option linter.all false
namespace Sys2Proof.Machine

variable {sn : Bool} {qs : List Instr}

theorem State.setPending_kept {s : State} (m : Nat) (l : List Item) (hs : Kept sn qs s) :
    Kept sn qs (State.setPending s m l) := by
  unfold State.setPending
  try dsimp -iota only
  repeat' first
    | with_reducible assumption
    | with_reducible apply State.modSession_kept
    | with_reducible apply Kept.ite
    | with_reducible apply Kept.iteFst
    | (with_reducible apply Kept.mk; first | with_reducible assumption | with_reducible apply State.modSession_kept | with_reducible apply Kept.ite)
    | intro _
    | split

theorem execStageWrite_kept (ref : CmdRef) (items : List Item) {s : State} (hs : Kept sn qs s) :
    nextHas (Kept sn qs) (execStageWrite ref items s) := by
  unfold execStageWrite
  try dsimp -iota only
  repeat' first
    | with_reducible assumption
    | with_reducible apply State.finish_kept
    | with_reducible apply State.ok_kept
    | with_reducible apply State.execCmd_kept
    | with_reducible apply State.setPending_kept
    | with_reducible apply Kept.ite
    | with_reducible apply Kept.iteFst
    | with_reducible apply Kept.foldl
    | exact trivial
    | with_reducible apply Kept.next
    | with_reducible apply Kept.iteOut
    | (with_reducible apply Kept.mk; first | with_reducible assumption | with_reducible apply State.finish_kept | with_reducible apply State.ok_kept | with_reducible apply State.execCmd_kept | with_reducible apply State.setPending_kept | with_reducible apply Kept.ite)
    | intro _
    | split

theorem execParamImport_kept (job : CmdJob) (offset : BitVec 32) (items : List Item) {s : State} (hs : Kept sn qs s) :
    nextHas (Kept sn qs) (execParamImport job offset items s) := by
  unfold execParamImport
  try dsimp -iota only
  repeat' first
    | with_reducible assumption
    | with_reducible apply State.setCmd_kept
    | with_reducible apply State.finish_kept
    | with_reducible apply State.execUnits_kept
    | with_reducible apply State.unitsDone_kept
    | with_reducible apply State.setPending_kept
    | with_reducible apply Kept.ite
    | with_reducible apply Kept.iteFst
    | exact trivial
    | with_reducible apply Kept.next
    | with_reducible apply Kept.iteOut
    | (with_reducible apply Kept.mk; first | with_reducible assumption | with_reducible apply State.setCmd_kept | with_reducible apply State.finish_kept | with_reducible apply State.execUnits_kept | with_reducible apply State.unitsDone_kept | with_reducible apply State.setPending_kept | with_reducible apply Kept.ite)
    | intro _
    | split

theorem execDiscard_kept (ref : CmdRef) {s : State} (hs : Kept sn qs s) :
    nextHas (Kept sn qs) (execDiscard ref s) := by
  unfold execDiscard
  try dsimp -iota only
  repeat' first
    | with_reducible assumption
    | with_reducible apply State.ok_kept
    | with_reducible apply State.execCmd_kept
    | with_reducible apply State.setPending_kept
    | with_reducible apply Kept.ite
    | with_reducible apply Kept.iteFst
    | exact trivial
    | with_reducible apply Kept.next
    | with_reducible apply Kept.iteOut
    | (with_reducible apply Kept.mk; first | with_reducible assumption | with_reducible apply State.ok_kept | with_reducible apply State.execCmd_kept | with_reducible apply State.setPending_kept | with_reducible apply Kept.ite)
    | intro _
    | split

theorem State.putItem_kept {s : State} (i : Item) (hs : Kept sn qs s) :
    Kept sn qs (State.putItem s i) := by
  unfold State.putItem
  try dsimp -iota only
  repeat' first
    | with_reducible assumption
    | with_reducible apply State.setPar_kept
    | with_reducible apply Kept.ite
    | with_reducible apply Kept.iteFst
    | (with_reducible apply Kept.mk; first | with_reducible assumption | with_reducible apply State.setPar_kept | with_reducible apply Kept.ite)
    | intro _
    | split

theorem State.configAt_kept {s : State} (b : Nat) (items : List Item) (hs : Kept sn qs s) :
    Kept sn qs (State.configAt s b items) := by
  unfold State.configAt
  try dsimp -iota only
  repeat' first
    | with_reducible assumption
    | with_reducible apply State.putItem_kept
    | with_reducible apply Kept.ite
    | with_reducible apply Kept.iteFst
    | with_reducible apply Kept.foldl
    | (with_reducible apply Kept.mk; first | with_reducible assumption | with_reducible apply State.putItem_kept | with_reducible apply Kept.ite)
    | intro _
    | split

theorem State.askRegister_kept {s : State} (k : Nat) (l : List (Nat × Nat × Nat)) (hs : Kept sn qs s) :
    Kept sn qs (State.askRegister s k l) := by
  unfold State.askRegister
  try dsimp -iota only
  repeat' first
    | with_reducible assumption
    | with_reducible apply State.modPublisher_kept
    | with_reducible apply State.sendRegister_kept
    | with_reducible apply Kept.ite
    | with_reducible apply Kept.iteFst
    | with_reducible apply Kept.foldlFst
    | with_reducible apply Kept.foldl
    | (with_reducible apply Kept.mk; first | with_reducible assumption | with_reducible apply State.modPublisher_kept | with_reducible apply State.sendRegister_kept | with_reducible apply Kept.ite)
    | intro _
    | split

theorem State.acceptCommit_kept {s : State} (k b : Nat) (hs : Kept sn qs s) :
    Kept sn qs (State.acceptCommit s k b) := by
  unfold State.acceptCommit
  try dsimp -iota only
  repeat' first
    | with_reducible assumption
    | with_reducible apply State.modHost_kept
    | with_reducible apply State.finish_kept
    | with_reducible apply State.run_kept
    | with_reducible apply State.setPending_kept
    | with_reducible apply State.askRegister_kept
    | with_reducible apply Kept.ite
    | with_reducible apply Kept.iteFst
    | (with_reducible apply Kept.mk; first | with_reducible assumption | with_reducible apply State.modHost_kept | with_reducible apply State.finish_kept | with_reducible apply State.run_kept | with_reducible apply State.setPending_kept | with_reducible apply State.askRegister_kept | with_reducible apply Kept.ite)
    | intro _
    | split

theorem execCommit_kept (ref : CmdRef) {s : State} (hs : Kept sn qs s) :
    nextHas (Kept sn qs) (execCommit ref s) := by
  unfold execCommit
  try dsimp -iota only
  repeat' first
    | with_reducible assumption
    | with_reducible apply State.execCmd_kept
    | with_reducible apply State.acceptCommit_kept
    | with_reducible apply Kept.ite
    | with_reducible apply Kept.iteFst
    | exact trivial
    | with_reducible apply Kept.next
    | with_reducible apply Kept.iteOut
    | (with_reducible apply Kept.mk; first | with_reducible assumption | with_reducible apply State.execCmd_kept | with_reducible apply State.acceptCommit_kept | with_reducible apply Kept.ite)
    | intro _
    | split

theorem execCommitAt_kept (ref : CmdRef) (ft : Ft) {s : State} (hs : Kept sn qs s) :
    nextHas (Kept sn qs) (execCommitAt ref ft s) := by
  unfold execCommitAt
  try dsimp -iota only
  repeat' first
    | with_reducible assumption
    | with_reducible apply State.execCmd_kept
    | with_reducible apply State.checked_kept
    | with_reducible apply State.acceptCommit_kept
    | with_reducible apply Kept.ite
    | with_reducible apply Kept.iteFst
    | exact trivial
    | with_reducible apply Kept.next
    | with_reducible apply Kept.iteOut
    | (with_reducible apply Kept.mk; first | with_reducible assumption | with_reducible apply State.execCmd_kept | with_reducible apply State.checked_kept | with_reducible apply State.acceptCommit_kept | with_reducible apply Kept.ite)
    | intro _
    | split

theorem State.setPart_kept {s : State} (dev num : Nat) (p : Option Participant) (hs : Kept sn qs s) :
    Kept sn qs (State.setPart s dev num p) := by
  unfold State.setPart
  try dsimp -iota only
  repeat' first
    | with_reducible assumption
    | with_reducible apply State.modHost_kept
    | with_reducible apply Kept.ite
    | with_reducible apply Kept.iteFst
    | (with_reducible apply Kept.mk; first | with_reducible assumption | with_reducible apply State.modHost_kept | with_reducible apply Kept.ite)
    | intro _
    | split

theorem State.setPrep_kept {s : State} (num : Nat) (p : Prepare) (hs : Kept sn qs s) :
    Kept sn qs (State.setPrep s num p) := by
  unfold State.setPrep
  try dsimp -iota only
  repeat' first
    | with_reducible assumption
    | with_reducible apply State.modHost_kept
    | with_reducible apply Kept.ite
    | with_reducible apply Kept.iteFst
    | (with_reducible apply Kept.mk; first | with_reducible assumption | with_reducible apply State.modHost_kept | with_reducible apply Kept.ite)
    | intro _
    | split

theorem State.dropPart_kept {s : State} (dev num : Nat) (hs : Kept sn qs s) :
    Kept sn qs (State.dropPart s dev num) := by
  unfold State.dropPart
  try dsimp -iota only
  repeat' first
    | with_reducible assumption
    | with_reducible apply State.setPart_kept
    | with_reducible apply Kept.ite
    | with_reducible apply Kept.iteFst
    | (with_reducible apply Kept.mk; first | with_reducible assumption | with_reducible apply State.setPart_kept | with_reducible apply Kept.ite)
    | intro _
    | split

theorem State.decideAbort_kept {s : State} (num : Nat) (hs : Kept sn qs s) :
    Kept sn qs (State.decideAbort s num) := by
  unfold State.decideAbort
  try dsimp -iota only
  repeat' first
    | with_reducible assumption
    | with_reducible apply State.fabSend_kept
    | with_reducible apply State.setPrep_kept
    | with_reducible apply State.dropPart_kept
    | with_reducible apply Kept.ite
    | with_reducible apply Kept.iteFst
    | with_reducible apply Kept.foldl
    | (with_reducible apply Kept.mk; first | with_reducible assumption | with_reducible apply State.fabSend_kept | with_reducible apply State.setPrep_kept | with_reducible apply State.dropPart_kept | with_reducible apply Kept.ite)
    | intro _
    | split

theorem State.decideCommit_kept {s : State} (num : Nat) (hs : Kept sn qs s) :
    Kept sn qs (State.decideCommit s num) := by
  unfold State.decideCommit
  try dsimp -iota only
  repeat' first
    | with_reducible assumption
    | with_reducible apply State.fabSend_kept
    | with_reducible apply State.setPart_kept
    | with_reducible apply State.setPrep_kept
    | with_reducible apply Kept.ite
    | with_reducible apply Kept.iteFst
    | with_reducible apply Kept.foldl
    | (with_reducible apply Kept.mk; first | with_reducible assumption | with_reducible apply State.fabSend_kept | with_reducible apply State.setPart_kept | with_reducible apply State.setPrep_kept | with_reducible apply Kept.ite)
    | intro _
    | split

theorem State.readyFrom_kept {s : State} (num dev : Nat) (st index : BitVec 16) (hs : Kept sn qs s) :
    Kept sn qs (State.readyFrom s num dev st index) := by
  unfold State.readyFrom
  try dsimp -iota only
  repeat' first
    | with_reducible assumption
    | with_reducible apply State.ok_kept
    | with_reducible apply State.setPrep_kept
    | with_reducible apply State.decideAbort_kept
    | with_reducible apply State.decideCommit_kept
    | with_reducible apply Kept.ite
    | with_reducible apply Kept.iteFst
    | (with_reducible apply Kept.mk; first | with_reducible assumption | with_reducible apply State.ok_kept | with_reducible apply State.setPrep_kept | with_reducible apply State.decideAbort_kept | with_reducible apply State.decideCommit_kept | with_reducible apply Kept.ite)
    | intro _
    | split

theorem State.answerReady_kept {s : State} (dev num : Nat) (st index : BitVec 16) (hs : Kept sn qs s) :
    Kept sn qs (State.answerReady s dev num st index) := by
  unfold State.answerReady
  try dsimp -iota only
  repeat' first
    | with_reducible assumption
    | with_reducible apply State.fabSend_kept
    | with_reducible apply State.readyFrom_kept
    | with_reducible apply Kept.ite
    | with_reducible apply Kept.iteFst
    | (with_reducible apply Kept.mk; first | with_reducible assumption | with_reducible apply State.fabSend_kept | with_reducible apply State.readyFrom_kept | with_reducible apply Kept.ite)
    | intro _
    | split

theorem State.takePart_kept {s : State} (dev num : Nat) (me : SessRef) (ftC : Ft) (items : List Item) (hs : Kept sn qs s) :
    Kept sn qs (State.takePart s dev num me ftC items) := by
  unfold State.takePart
  try dsimp -iota only
  repeat' first
    | with_reducible assumption
    | with_reducible apply State.ok_kept
    | with_reducible apply State.askRegister_kept
    | with_reducible apply State.setPart_kept
    | with_reducible apply State.answerReady_kept
    | with_reducible apply Kept.ite
    | with_reducible apply Kept.iteFst
    | (with_reducible apply Kept.mk; first | with_reducible assumption | with_reducible apply State.ok_kept | with_reducible apply State.askRegister_kept | with_reducible apply State.setPart_kept | with_reducible apply State.answerReady_kept | with_reducible apply Kept.ite)
    | intro _
    | split

theorem execPrepare_kept (ref : CmdRef) (ftC : Ft) {s : State} (hs : Kept sn qs s) :
    nextHas (Kept sn qs) (execPrepare ref ftC s) := by
  unfold execPrepare
  try dsimp -iota only
  repeat' first
    | with_reducible assumption
    | with_reducible apply State.modHost_kept
    | with_reducible apply State.run_kept
    | with_reducible apply State.execCmd_kept
    | with_reducible apply State.checked_kept
    | with_reducible apply State.fabSend_kept
    | with_reducible apply State.setPending_kept
    | with_reducible apply State.setPrep_kept
    | with_reducible apply State.takePart_kept
    | with_reducible apply Kept.ite
    | with_reducible apply Kept.iteFst
    | with_reducible apply Kept.foldl
    | exact trivial
    | with_reducible apply Kept.next
    | with_reducible apply Kept.iteOut
    | (with_reducible apply Kept.mk; first | with_reducible assumption | with_reducible apply State.modHost_kept | with_reducible apply State.run_kept | with_reducible apply State.execCmd_kept | with_reducible apply State.checked_kept | with_reducible apply State.fabSend_kept | with_reducible apply State.setPending_kept | with_reducible apply State.setPrep_kept | with_reducible apply State.takePart_kept | with_reducible apply Kept.ite)
    | intro _
    | split

theorem execCommitItemsMsg_kept (p : PrepRef) (sess : BitVec 32) (ftC : Ft) (items : List Item) {s : State} (hs : Kept sn qs s) :
    nextHas (Kept sn qs) (execCommitItemsMsg p sess ftC items s) := by
  unfold execCommitItemsMsg
  try dsimp -iota only
  repeat' first
    | with_reducible assumption
    | with_reducible apply State.takePart_kept
    | with_reducible apply Kept.ite
    | with_reducible apply Kept.iteFst
    | exact trivial
    | with_reducible apply Kept.next
    | with_reducible apply Kept.iteOut
    | (with_reducible apply Kept.mk; first | with_reducible assumption | with_reducible apply State.takePart_kept | with_reducible apply Kept.ite)
    | intro _
    | split

theorem execCommitReadyMsg_kept (num : Nat) (part : Fin 4096) (status index : BitVec 16) {s : State} (hs : Kept sn qs s) :
    nextHas (Kept sn qs) (execCommitReadyMsg num part status index s) := by
  unfold execCommitReadyMsg
  try dsimp -iota only
  repeat' first
    | with_reducible assumption
    | with_reducible apply State.readyFrom_kept
    | with_reducible apply Kept.ite
    | with_reducible apply Kept.iteFst
    | exact trivial
    | with_reducible apply Kept.next
    | with_reducible apply Kept.iteOut
    | (with_reducible apply Kept.mk; first | with_reducible assumption | with_reducible apply State.readyFrom_kept | with_reducible apply Kept.ite)
    | intro _
    | split

theorem execCommitDecisionMsg_kept (p : PrepRef) {s : State} (hs : Kept sn qs s) :
    nextHas (Kept sn qs) (execCommitDecisionMsg p s) := by
  unfold execCommitDecisionMsg
  try dsimp -iota only
  repeat' first
    | with_reducible assumption
    | with_reducible apply State.fabSend_kept
    | with_reducible apply State.setPart_kept
    | with_reducible apply Kept.ite
    | with_reducible apply Kept.iteFst
    | exact trivial
    | with_reducible apply Kept.next
    | with_reducible apply Kept.iteOut
    | (with_reducible apply Kept.mk; first | with_reducible assumption | with_reducible apply State.fabSend_kept | with_reducible apply State.setPart_kept | with_reducible apply Kept.ite)
    | intro _
    | split

theorem execCommitAbortMsg_kept (p : PrepRef) {s : State} (hs : Kept sn qs s) :
    nextHas (Kept sn qs) (execCommitAbortMsg p s) := by
  unfold execCommitAbortMsg
  try dsimp -iota only
  repeat' first
    | with_reducible assumption
    | with_reducible apply State.fabSend_kept
    | with_reducible apply State.dropPart_kept
    | with_reducible apply Kept.ite
    | with_reducible apply Kept.iteFst
    | exact trivial
    | with_reducible apply Kept.next
    | with_reducible apply Kept.iteOut
    | (with_reducible apply Kept.mk; first | with_reducible assumption | with_reducible apply State.fabSend_kept | with_reducible apply State.dropPart_kept | with_reducible apply Kept.ite)
    | intro _
    | split

theorem execCommitAckMsg_kept (num : Nat) (part : Fin 4096) {s : State} (hs : Kept sn qs s) :
    nextHas (Kept sn qs) (execCommitAckMsg num part s) := by
  unfold execCommitAckMsg
  try dsimp -iota only
  repeat' first
    | with_reducible assumption
    | with_reducible apply State.setPrep_kept
    | with_reducible apply Kept.ite
    | with_reducible apply Kept.iteFst
    | exact trivial
    | with_reducible apply Kept.next
    | with_reducible apply Kept.iteOut
    | (with_reducible apply Kept.mk; first | with_reducible assumption | with_reducible apply State.setPrep_kept | with_reducible apply Kept.ite)
    | intro _
    | split

theorem execPrepareReadyDeadline_kept (num : Nat) {s : State} (hs : Kept sn qs s) :
    nextHas (Kept sn qs) (execPrepareReadyDeadline num s) := by
  unfold execPrepareReadyDeadline
  try dsimp -iota only
  repeat' first
    | with_reducible assumption
    | with_reducible apply State.decideAbort_kept
    | with_reducible apply Kept.ite
    | with_reducible apply Kept.iteFst
    | exact trivial
    | with_reducible apply Kept.next
    | with_reducible apply Kept.iteOut
    | (with_reducible apply Kept.mk; first | with_reducible assumption | with_reducible apply State.decideAbort_kept | with_reducible apply Kept.ite)
    | intro _
    | split

theorem execPrepareAckDeadline_kept (num : Nat) {s : State} (hs : Kept sn qs s) :
    nextHas (Kept sn qs) (execPrepareAckDeadline num s) := by
  unfold execPrepareAckDeadline
  try dsimp -iota only
  repeat' first
    | with_reducible assumption
    | with_reducible apply State.decideAbort_kept
    | with_reducible apply Kept.ite
    | with_reducible apply Kept.iteFst
    | exact trivial
    | with_reducible apply Kept.next
    | with_reducible apply Kept.iteOut
    | (with_reducible apply Kept.mk; first | with_reducible assumption | with_reducible apply State.decideAbort_kept | with_reducible apply Kept.ite)
    | intro _
    | split

theorem State.endPrepare_kept {s : State} (num : Nat) (p : Prepare) (hs : Kept sn qs s) :
    Kept sn qs (State.endPrepare s num p) := by
  unfold State.endPrepare
  try dsimp -iota only
  repeat' first
    | with_reducible assumption
    | with_reducible apply State.modHost_kept
    | with_reducible apply State.finish_kept
    | with_reducible apply State.ok_kept
    | with_reducible apply Kept.ite
    | with_reducible apply Kept.iteFst
    | (with_reducible apply Kept.mk; first | with_reducible assumption | with_reducible apply State.modHost_kept | with_reducible apply State.finish_kept | with_reducible apply State.ok_kept | with_reducible apply Kept.ite)
    | intro _
    | split

theorem State.appliedFrom_kept {s : State} (num dev : Nat) (hs : Kept sn qs s) :
    Kept sn qs (State.appliedFrom s num dev) := by
  unfold State.appliedFrom
  try dsimp -iota only
  repeat' first
    | with_reducible assumption
    | with_reducible apply State.setPrep_kept
    | with_reducible apply State.endPrepare_kept
    | with_reducible apply Kept.ite
    | with_reducible apply Kept.iteFst
    | (with_reducible apply Kept.mk; first | with_reducible assumption | with_reducible apply State.setPrep_kept | with_reducible apply State.endPrepare_kept | with_reducible apply Kept.ite)
    | intro _
    | split

theorem execCommitAppliedMsg_kept (num : Nat) (part : Fin 4096) {s : State} (hs : Kept sn qs s) :
    nextHas (Kept sn qs) (execCommitAppliedMsg num part s) := by
  unfold execCommitAppliedMsg
  try dsimp -iota only
  repeat' first
    | with_reducible assumption
    | with_reducible apply State.appliedFrom_kept
    | with_reducible apply Kept.ite
    | with_reducible apply Kept.iteFst
    | exact trivial
    | with_reducible apply Kept.next
    | with_reducible apply Kept.iteOut
    | (with_reducible apply Kept.mk; first | with_reducible assumption | with_reducible apply State.appliedFrom_kept | with_reducible apply Kept.ite)
    | intro _
    | split

theorem execPrepareDiscardTimeout_kept (p : PrepRef) {s : State} (hs : Kept sn qs s) :
    nextHas (Kept sn qs) (execPrepareDiscardTimeout p s) := by
  unfold execPrepareDiscardTimeout
  try dsimp -iota only
  repeat' first
    | with_reducible assumption
    | with_reducible apply State.dropPart_kept
    | with_reducible apply State.endPrepare_kept
    | with_reducible apply Kept.ite
    | with_reducible apply Kept.iteFst
    | exact trivial
    | with_reducible apply Kept.next
    | with_reducible apply Kept.iteOut
    | (with_reducible apply Kept.mk; first | with_reducible assumption | with_reducible apply State.dropPart_kept | with_reducible apply State.endPrepare_kept | with_reducible apply Kept.ite)
    | intro _
    | split

theorem State.registered_kept {s : State} (k : Nat) (hs : Kept sn qs s) :
    Kept sn qs (State.registered s k) := by
  unfold State.registered
  try dsimp -iota only
  repeat' first
    | with_reducible assumption
    | with_reducible apply State.ok_kept
    | with_reducible apply State.acceptCommit_kept
    | with_reducible apply State.setPart_kept
    | with_reducible apply State.answerReady_kept
    | with_reducible apply Kept.ite
    | with_reducible apply Kept.iteFst
    | (with_reducible apply Kept.mk; first | with_reducible assumption | with_reducible apply State.ok_kept | with_reducible apply State.acceptCommit_kept | with_reducible apply State.setPart_kept | with_reducible apply State.answerReady_kept | with_reducible apply Kept.ite)
    | intro _
    | split

theorem State.registerFailed_kept {s : State} (k : Nat) (st : BitVec 16) (hs : Kept sn qs s) :
    Kept sn qs (State.registerFailed s k st) := by
  unfold State.registerFailed
  try dsimp -iota only
  repeat' first
    | with_reducible assumption
    | with_reducible apply State.modPublisher_kept
    | with_reducible apply State.finish_kept
    | with_reducible apply State.dropPart_kept
    | with_reducible apply State.answerReady_kept
    | with_reducible apply Kept.ite
    | with_reducible apply Kept.iteFst
    | with_reducible apply Kept.foldl
    | (with_reducible apply Kept.mk; first | with_reducible assumption | with_reducible apply State.modPublisher_kept | with_reducible apply State.finish_kept | with_reducible apply State.dropPart_kept | with_reducible apply State.answerReady_kept | with_reducible apply Kept.ite)
    | intro _
    | split

theorem execRegisterAnswerRx_kept (cp : Fin 16) (status : BitVec 16) {s : State} (hs : Kept sn qs s) :
    nextHas (Kept sn qs) (execRegisterAnswerRx cp status s) := by
  unfold execRegisterAnswerRx
  try dsimp -iota only
  repeat' first
    | with_reducible assumption
    | with_reducible apply State.modPublisher_kept
    | with_reducible apply State.ok_kept
    | with_reducible apply State.registered_kept
    | with_reducible apply State.registerFailed_kept
    | with_reducible apply Kept.ite
    | with_reducible apply Kept.iteFst
    | exact trivial
    | with_reducible apply Kept.next
    | with_reducible apply Kept.iteOut
    | (with_reducible apply Kept.mk; first | with_reducible assumption | with_reducible apply State.modPublisher_kept | with_reducible apply State.ok_kept | with_reducible apply State.registered_kept | with_reducible apply State.registerFailed_kept | with_reducible apply Kept.ite)
    | intro _
    | split

theorem execConvoyRegisterTimeout_kept (cp : Fin 16) {s : State} (hs : Kept sn qs s) :
    nextHas (Kept sn qs) (execConvoyRegisterTimeout cp s) := by
  unfold execConvoyRegisterTimeout
  try dsimp -iota only
  repeat' first
    | with_reducible assumption
    | with_reducible apply State.registerFailed_kept
    | with_reducible apply Kept.ite
    | with_reducible apply Kept.iteFst
    | exact trivial
    | with_reducible apply Kept.next
    | with_reducible apply Kept.iteOut
    | (with_reducible apply Kept.mk; first | with_reducible assumption | with_reducible apply State.registerFailed_kept | with_reducible apply Kept.ite)
    | intro _
    | split

end Sys2Proof.Machine
end

