-- ==== Sys2Proof/Laws/KeptSched.lean ====
section
/-! SUPPORT. Every operation of Machine/Sched.lean keeps the queue and the soundness of the state. -/

set_option linter.all false
namespace Sys2Proof.Machine

variable {sn : Bool} {qs : List Instr}

theorem execThreadLoad_kept (ref : CmdRef) (image : List Byte) {s : State} (hs : Kept sn qs s) :
    nextHas (Kept sn qs) (execThreadLoad ref image s) := by
  unfold execThreadLoad
  try dsimp -iota only
  repeat' first
    | with_reducible assumption
    | with_reducible apply State.modSched_kept
    | with_reducible apply State.took_kept
    | with_reducible apply State.ok_kept
    | with_reducible apply State.execCmd_kept
    | with_reducible apply State.checked_kept
    | with_reducible apply Kept.ite
    | with_reducible apply Kept.iteFst
    | exact trivial
    | with_reducible apply Kept.next
    | with_reducible apply Kept.iteOut
    | (with_reducible apply Kept.mk; first | with_reducible assumption | with_reducible apply State.modSched_kept | with_reducible apply State.took_kept | with_reducible apply State.ok_kept | with_reducible apply State.execCmd_kept | with_reducible apply State.checked_kept | with_reducible apply Kept.ite)
    | intro _
    | split

theorem execThreadStart_kept (ref : CmdRef) (handle : BitVec 32) (prio ceiling : Byte) (ageing : BitVec 32) {s : State} (hs : Kept sn qs s) :
    nextHas (Kept sn qs) (execThreadStart ref handle prio ceiling ageing s) := by
  unfold execThreadStart
  try dsimp -iota only
  repeat' first
    | with_reducible assumption
    | with_reducible apply State.modSched_kept
    | with_reducible apply State.took_kept
    | with_reducible apply State.ok_kept
    | with_reducible apply State.execCmd_kept
    | with_reducible apply State.checked_kept
    | with_reducible apply Kept.ite
    | with_reducible apply Kept.iteFst
    | exact trivial
    | with_reducible apply Kept.next
    | with_reducible apply Kept.iteOut
    | (with_reducible apply Kept.mk; first | with_reducible assumption | with_reducible apply State.modSched_kept | with_reducible apply State.took_kept | with_reducible apply State.ok_kept | with_reducible apply State.execCmd_kept | with_reducible apply State.checked_kept | with_reducible apply Kept.ite)
    | intro _
    | split

theorem execThreadCancel_kept (ref : CmdRef) (id : BitVec 16) {s : State} (hs : Kept sn qs s) :
    nextHas (Kept sn qs) (execThreadCancel ref id s) := by
  unfold execThreadCancel
  try dsimp -iota only
  repeat' first
    | with_reducible assumption
    | with_reducible apply State.modSched_kept
    | with_reducible apply State.bump_kept
    | with_reducible apply State.ok_kept
    | with_reducible apply State.execCmd_kept
    | with_reducible apply State.checked_kept
    | with_reducible apply Kept.ite
    | with_reducible apply Kept.iteFst
    | exact trivial
    | with_reducible apply Kept.next
    | with_reducible apply Kept.iteOut
    | (with_reducible apply Kept.mk; first | with_reducible assumption | with_reducible apply State.modSched_kept | with_reducible apply State.bump_kept | with_reducible apply State.ok_kept | with_reducible apply State.execCmd_kept | with_reducible apply State.checked_kept | with_reducible apply Kept.ite)
    | intro _
    | split

theorem execThreadPrio_kept (ref : CmdRef) (id : BitVec 16) (prio ceiling : Byte) {s : State} (hs : Kept sn qs s) :
    nextHas (Kept sn qs) (execThreadPrio ref id prio ceiling s) := by
  unfold execThreadPrio
  try dsimp -iota only
  repeat' first
    | with_reducible assumption
    | with_reducible apply State.modSched_kept
    | with_reducible apply State.ok_kept
    | with_reducible apply State.execCmd_kept
    | with_reducible apply State.checked_kept
    | with_reducible apply Kept.ite
    | with_reducible apply Kept.iteFst
    | exact trivial
    | with_reducible apply Kept.next
    | with_reducible apply Kept.iteOut
    | (with_reducible apply Kept.mk; first | with_reducible assumption | with_reducible apply State.modSched_kept | with_reducible apply State.ok_kept | with_reducible apply State.execCmd_kept | with_reducible apply State.checked_kept | with_reducible apply Kept.ite)
    | intro _
    | split

theorem State.dispatch_kept {s : State} (hs : Kept sn qs s) :
    Kept sn qs (State.dispatch s) := by
  unfold State.dispatch
  try dsimp -iota only
  repeat' first
    | with_reducible assumption
    | with_reducible apply State.modSched_kept
    | with_reducible apply State.bump_kept
    | with_reducible apply State.bumpIf_kept
    | with_reducible apply Kept.ite
    | with_reducible apply Kept.iteFst
    | (with_reducible apply Kept.mk; first | with_reducible assumption | with_reducible apply State.modSched_kept | with_reducible apply State.bump_kept | with_reducible apply State.bumpIf_kept | with_reducible apply Kept.ite)
    | intro _
    | split

theorem execThreadDispatch_kept {s : State} (hs : Kept sn qs s) :
    nextHas (Kept sn qs) (execThreadDispatch s) := by
  unfold execThreadDispatch
  try dsimp -iota only
  repeat' first
    | with_reducible assumption
    | with_reducible apply State.dispatch_kept
    | with_reducible apply Kept.ite
    | with_reducible apply Kept.iteFst
    | exact trivial
    | with_reducible apply Kept.next
    | with_reducible apply Kept.iteOut
    | (with_reducible apply Kept.mk; first | with_reducible assumption | with_reducible apply State.dispatch_kept | with_reducible apply Kept.ite)
    | intro _
    | split

theorem execAgeingRaise_kept (id : Fin 256) {s : State} (hs : Kept sn qs s) :
    nextHas (Kept sn qs) (execAgeingRaise id s) := by
  unfold execAgeingRaise
  try dsimp -iota only
  repeat' first
    | with_reducible assumption
    | with_reducible apply State.modSched_kept
    | with_reducible apply State.bump_kept
    | with_reducible apply Kept.ite
    | with_reducible apply Kept.iteFst
    | exact trivial
    | with_reducible apply Kept.next
    | with_reducible apply Kept.iteOut
    | (with_reducible apply Kept.mk; first | with_reducible assumption | with_reducible apply State.modSched_kept | with_reducible apply State.bump_kept | with_reducible apply Kept.ite)
    | intro _
    | split

theorem State.wakeDue_kept {s : State} (now : Ft) (hs : Kept sn qs s) :
    Kept sn qs (State.wakeDue s now) := by
  unfold State.wakeDue
  try dsimp -iota only
  repeat' first
    | with_reducible assumption
    | with_reducible apply State.modSched_kept
    | with_reducible apply Kept.ite
    | with_reducible apply Kept.iteFst
    | with_reducible apply Kept.foldlFst
    | with_reducible apply Kept.foldl
    | (with_reducible apply Kept.mk; first | with_reducible assumption | with_reducible apply State.modSched_kept | with_reducible apply Kept.ite)
    | intro _
    | split

theorem execSchedulerTick_kept {s : State} (hs : Kept sn qs s) :
    nextHas (Kept sn qs) (execSchedulerTick s) := by
  unfold execSchedulerTick
  try dsimp -iota only
  repeat' first
    | with_reducible assumption
    | with_reducible apply State.modSched_kept
    | with_reducible apply State.wakeDue_kept
    | with_reducible apply Kept.ite
    | with_reducible apply Kept.iteFst
    | with_reducible apply Kept.foldl
    | exact trivial
    | with_reducible apply Kept.next
    | with_reducible apply Kept.iteOut
    | (with_reducible apply Kept.mk; first | with_reducible assumption | with_reducible apply State.modSched_kept | with_reducible apply State.wakeDue_kept | with_reducible apply Kept.ite)
    | intro _
    | split

theorem State.schCall_kept {s : State} (core : Fin 8) (f : Nat → State → State) (hs : Kept sn qs s) (hf : ∀ x0 x1, Kept sn qs x1 → Kept sn qs (f x0 x1)) :
    Kept sn qs (State.schCall s core f) := by
  unfold State.schCall
  try dsimp -iota only
  repeat' first
    | with_reducible assumption
    | with_reducible apply hf
    | with_reducible apply Kept.ite
    | with_reducible apply Kept.iteFst
    | (with_reducible apply Kept.mk; first | with_reducible assumption | with_reducible apply hf | with_reducible apply Kept.ite)
    | intro _
    | split

theorem State.a0_kept {s : State} (id : Nat) (v : Nat) (hs : Kept sn qs s) :
    Kept sn qs (State.a0 s id v) := by
  unfold State.a0
  try dsimp -iota only
  repeat' first
    | with_reducible assumption
    | with_reducible apply State.modSched_kept
    | with_reducible apply Kept.ite
    | with_reducible apply Kept.iteFst
    | (with_reducible apply Kept.mk; first | with_reducible assumption | with_reducible apply State.modSched_kept | with_reducible apply Kept.ite)
    | intro _
    | split

theorem State.rebase_kept {s : State} (id : Nat) (hs : Kept sn qs s) :
    Kept sn qs (State.rebase s id) := by
  unfold State.rebase
  try dsimp -iota only
  repeat' first
    | with_reducible assumption
    | with_reducible apply State.modSched_kept
    | with_reducible apply Kept.ite
    | with_reducible apply Kept.iteFst
    | (with_reducible apply Kept.mk; first | with_reducible assumption | with_reducible apply State.modSched_kept | with_reducible apply Kept.ite)
    | intro _
    | split

theorem execSchYield_kept (core : Fin 8) {s : State} (hs : Kept sn qs s) :
    nextHas (Kept sn qs) (execSchYield core s) := by
  unfold execSchYield
  try dsimp -iota only
  repeat' first
    | with_reducible assumption
    | with_reducible apply State.modSched_kept
    | with_reducible apply State.schCall_kept
    | with_reducible apply State.a0_kept
    | with_reducible apply State.rebase_kept
    | with_reducible apply Kept.ite
    | with_reducible apply Kept.iteFst
    | exact trivial
    | with_reducible apply Kept.next
    | with_reducible apply Kept.iteOut
    | (with_reducible apply Kept.mk; first | with_reducible assumption | with_reducible apply State.modSched_kept | with_reducible apply State.schCall_kept | with_reducible apply State.a0_kept | with_reducible apply State.rebase_kept | with_reducible apply Kept.ite)
    | intro _
    | split

theorem State.blockThread_kept {s : State} (core : Fin 8) (id : Nat) (g : Thread → Thread) (hs : Kept sn qs s) :
    Kept sn qs (State.blockThread s core id g) := by
  unfold State.blockThread
  try dsimp -iota only
  repeat' first
    | with_reducible assumption
    | with_reducible apply State.modSched_kept
    | with_reducible apply Kept.ite
    | with_reducible apply Kept.iteFst
    | (with_reducible apply Kept.mk; first | with_reducible assumption | with_reducible apply State.modSched_kept | with_reducible apply Kept.ite)
    | intro _
    | split

theorem execSchSleep_kept (core : Fin 8) (ns : BitVec 64) {s : State} (hs : Kept sn qs s) :
    nextHas (Kept sn qs) (execSchSleep core ns s) := by
  unfold execSchSleep
  try dsimp -iota only
  repeat' first
    | with_reducible assumption
    | with_reducible apply State.schCall_kept
    | with_reducible apply State.a0_kept
    | with_reducible apply State.rebase_kept
    | with_reducible apply State.blockThread_kept
    | with_reducible apply Kept.ite
    | with_reducible apply Kept.iteFst
    | exact trivial
    | with_reducible apply Kept.next
    | with_reducible apply Kept.iteOut
    | (with_reducible apply Kept.mk; first | with_reducible assumption | with_reducible apply State.schCall_kept | with_reducible apply State.a0_kept | with_reducible apply State.rebase_kept | with_reducible apply State.blockThread_kept | with_reducible apply Kept.ite)
    | intro _
    | split

theorem execSchSleepUntil_kept (core : Fin 8) (wake : BitVec 64) {s : State} (hs : Kept sn qs s) :
    nextHas (Kept sn qs) (execSchSleepUntil core wake s) := by
  unfold execSchSleepUntil
  try dsimp -iota only
  repeat' first
    | with_reducible assumption
    | with_reducible apply State.schCall_kept
    | with_reducible apply State.a0_kept
    | with_reducible apply State.rebase_kept
    | with_reducible apply State.blockThread_kept
    | with_reducible apply Kept.ite
    | with_reducible apply Kept.iteFst
    | exact trivial
    | with_reducible apply Kept.next
    | with_reducible apply Kept.iteOut
    | (with_reducible apply Kept.mk; first | with_reducible assumption | with_reducible apply State.schCall_kept | with_reducible apply State.a0_kept | with_reducible apply State.rebase_kept | with_reducible apply State.blockThread_kept | with_reducible apply Kept.ite)
    | intro _
    | split

theorem execSchWait_kept (core : Fin 8) (event timeout : BitVec 64) {s : State} (hs : Kept sn qs s) :
    nextHas (Kept sn qs) (execSchWait core event timeout s) := by
  unfold execSchWait
  try dsimp -iota only
  repeat' first
    | with_reducible assumption
    | with_reducible apply State.modSched_kept
    | with_reducible apply State.schCall_kept
    | with_reducible apply State.a0_kept
    | with_reducible apply State.rebase_kept
    | with_reducible apply State.blockThread_kept
    | with_reducible apply Kept.ite
    | with_reducible apply Kept.iteFst
    | exact trivial
    | with_reducible apply Kept.next
    | with_reducible apply Kept.iteOut
    | (with_reducible apply Kept.mk; first | with_reducible assumption | with_reducible apply State.modSched_kept | with_reducible apply State.schCall_kept | with_reducible apply State.a0_kept | with_reducible apply State.rebase_kept | with_reducible apply State.blockThread_kept | with_reducible apply Kept.ite)
    | intro _
    | split

theorem execSchSignal_kept (core : Fin 8) (event count : BitVec 64) {s : State} (hs : Kept sn qs s) :
    nextHas (Kept sn qs) (execSchSignal core event count s) := by
  unfold execSchSignal
  try dsimp -iota only
  repeat' first
    | with_reducible assumption
    | with_reducible apply State.modSched_kept
    | with_reducible apply State.schCall_kept
    | with_reducible apply State.a0_kept
    | with_reducible apply Kept.ite
    | with_reducible apply Kept.iteFst
    | exact trivial
    | with_reducible apply Kept.next
    | with_reducible apply Kept.iteOut
    | (with_reducible apply Kept.mk; first | with_reducible assumption | with_reducible apply State.modSched_kept | with_reducible apply State.schCall_kept | with_reducible apply State.a0_kept | with_reducible apply Kept.ite)
    | intro _
    | split

theorem execSchNow_kept (core : Fin 8) {s : State} (hs : Kept sn qs s) :
    nextHas (Kept sn qs) (execSchNow core s) := by
  unfold execSchNow
  try dsimp -iota only
  repeat' first
    | with_reducible assumption
    | with_reducible apply State.schCall_kept
    | with_reducible apply State.a0_kept
    | with_reducible apply Kept.ite
    | with_reducible apply Kept.iteFst
    | exact trivial
    | with_reducible apply Kept.next
    | with_reducible apply Kept.iteOut
    | (with_reducible apply Kept.mk; first | with_reducible assumption | with_reducible apply State.schCall_kept | with_reducible apply State.a0_kept | with_reducible apply Kept.ite)
    | intro _
    | split

theorem execSchExit_kept (core : Fin 8) {s : State} (hs : Kept sn qs s) :
    nextHas (Kept sn qs) (execSchExit core s) := by
  unfold execSchExit
  try dsimp -iota only
  repeat' first
    | with_reducible assumption
    | with_reducible apply State.modSched_kept
    | with_reducible apply State.schCall_kept
    | with_reducible apply Kept.ite
    | with_reducible apply Kept.iteFst
    | exact trivial
    | with_reducible apply Kept.next
    | with_reducible apply Kept.iteOut
    | (with_reducible apply Kept.mk; first | with_reducible assumption | with_reducible apply State.modSched_kept | with_reducible apply State.schCall_kept | with_reducible apply Kept.ite)
    | intro _
    | split

theorem execSchCallInvalid_kept (core : Fin 8) (a7 : BitVec 64) {s : State} (hs : Kept sn qs s) :
    nextHas (Kept sn qs) (execSchCallInvalid core a7 s) := by
  unfold execSchCallInvalid
  try dsimp -iota only
  repeat' first
    | with_reducible assumption
    | with_reducible apply State.schCall_kept
    | with_reducible apply State.a0_kept
    | with_reducible apply Kept.ite
    | with_reducible apply Kept.iteFst
    | exact trivial
    | with_reducible apply Kept.next
    | with_reducible apply Kept.iteOut
    | (with_reducible apply Kept.mk; first | with_reducible assumption | with_reducible apply State.schCall_kept | with_reducible apply State.a0_kept | with_reducible apply Kept.ite)
    | intro _
    | split

theorem State.threadFault_kept {s : State} (core id : Nat) (mcause mtval : BitVec 64) (hs : Kept sn qs s) :
    Kept sn qs (State.threadFault s core id mcause mtval) := by
  unfold State.threadFault
  try dsimp -iota only
  repeat' first
    | with_reducible assumption
    | with_reducible apply State.modSched_kept
    | with_reducible apply State.bump_kept
    | with_reducible apply State.log_kept
    | with_reducible apply Kept.ite
    | with_reducible apply Kept.iteFst
    | (with_reducible apply Kept.mk; first | with_reducible assumption | with_reducible apply State.modSched_kept | with_reducible apply State.bump_kept | with_reducible apply State.log_kept | with_reducible apply Kept.ite)
    | intro _
    | split

theorem execThreadTrap_kept (core : Fin 8) (mcause mtval : BitVec 64) {s : State} (hs : Kept sn qs s) :
    nextHas (Kept sn qs) (execThreadTrap core mcause mtval s) := by
  unfold execThreadTrap
  try dsimp -iota only
  repeat' first
    | with_reducible assumption
    | with_reducible apply State.schCall_kept
    | with_reducible apply State.threadFault_kept
    | with_reducible apply Kept.ite
    | with_reducible apply Kept.iteFst
    | exact trivial
    | with_reducible apply Kept.next
    | with_reducible apply Kept.iteOut
    | (with_reducible apply Kept.mk; first | with_reducible assumption | with_reducible apply State.schCall_kept | with_reducible apply State.threadFault_kept | with_reducible apply Kept.ite)
    | intro _
    | split

end Sys2Proof.Machine
end

