-- ==== Sys2Proof/Laws/KeptFabLink.lean ====
section
/-! SUPPORT. Every operation of Machine/FabLink.lean keeps the queue and the soundness of the state. -/

set_option linter.all false
namespace Sys2Proof.Machine

variable {sn : Bool} {qs : List Instr}

theorem State.startCal_kept {s : State} (p : Nat) (hs : Kept sn qs s) :
    Kept sn qs (State.startCal s p) := by
  unfold State.startCal
  try dsimp -iota only
  repeat' first
    | with_reducible assumption
    | with_reducible apply State.modFabPort_kept
    | with_reducible apply Kept.ite
    | with_reducible apply Kept.iteFst
    | (with_reducible apply Kept.mk; first | with_reducible assumption | with_reducible apply State.modFabPort_kept | with_reducible apply Kept.ite)
    | intro _
    | split

theorem State.enablePort_kept {s : State} (p : Nat) (hs : Kept sn qs s) :
    Kept sn qs (State.enablePort s p) := by
  unfold State.enablePort
  try dsimp -iota only
  repeat' first
    | with_reducible assumption
    | with_reducible apply State.startCal_kept
    | with_reducible apply Kept.ite
    | with_reducible apply Kept.iteFst
    | (with_reducible apply Kept.mk; first | with_reducible assumption | with_reducible apply State.startCal_kept | with_reducible apply Kept.ite)
    | intro _
    | split

theorem execPortTrainingStart_kept (port : Fin 4) {s : State} (hs : Kept sn qs s) :
    nextHas (Kept sn qs) (execPortTrainingStart port s) := by
  unfold execPortTrainingStart
  try dsimp -iota only
  repeat' first
    | with_reducible assumption
    | with_reducible apply State.enablePort_kept
    | with_reducible apply Kept.ite
    | with_reducible apply Kept.iteFst
    | exact trivial
    | with_reducible apply Kept.next
    | with_reducible apply Kept.iteOut
    | (with_reducible apply Kept.mk; first | with_reducible assumption | with_reducible apply State.enablePort_kept | with_reducible apply Kept.ite)
    | intro _
    | split

theorem execPortCalDone_kept (port : Fin 4) (txLat rxLat : Nat) {s : State} (hs : Kept sn qs s) :
    nextHas (Kept sn qs) (execPortCalDone port txLat rxLat s) := by
  unfold execPortCalDone
  try dsimp -iota only
  repeat' first
    | with_reducible assumption
    | with_reducible apply State.modFabPort_kept
    | with_reducible apply Kept.ite
    | with_reducible apply Kept.iteFst
    | exact trivial
    | with_reducible apply Kept.next
    | with_reducible apply Kept.iteOut
    | (with_reducible apply Kept.mk; first | with_reducible assumption | with_reducible apply State.modFabPort_kept | with_reducible apply Kept.ite)
    | intro _
    | split

theorem execBlockLock_kept (port : Fin 4) {s : State} (hs : Kept sn qs s) :
    nextHas (Kept sn qs) (execBlockLock port s) := by
  unfold execBlockLock
  try dsimp -iota only
  repeat' first
    | with_reducible assumption
    | with_reducible apply State.modFabPort_kept
    | with_reducible apply Kept.ite
    | with_reducible apply Kept.iteFst
    | exact trivial
    | with_reducible apply Kept.next
    | with_reducible apply Kept.iteOut
    | (with_reducible apply Kept.mk; first | with_reducible assumption | with_reducible apply State.modFabPort_kept | with_reducible apply Kept.ite)
    | intro _
    | split

theorem State.trainFail_kept {s : State} (p : Nat) (hs : Kept sn qs s) :
    Kept sn qs (State.trainFail s p) := by
  unfold State.trainFail
  try dsimp -iota only
  repeat' first
    | with_reducible assumption
    | with_reducible apply State.modFabPort_kept
    | with_reducible apply State.bump_kept
    | with_reducible apply Kept.ite
    | with_reducible apply Kept.iteFst
    | (with_reducible apply Kept.mk; first | with_reducible assumption | with_reducible apply State.modFabPort_kept | with_reducible apply State.bump_kept | with_reducible apply Kept.ite)
    | intro _
    | split

theorem execTrainTimeout_kept (port : Fin 4) {s : State} (hs : Kept sn qs s) :
    nextHas (Kept sn qs) (execTrainTimeout port s) := by
  unfold execTrainTimeout
  try dsimp -iota only
  repeat' first
    | with_reducible assumption
    | with_reducible apply State.trainFail_kept
    | with_reducible apply Kept.ite
    | with_reducible apply Kept.iteFst
    | exact trivial
    | with_reducible apply Kept.next
    | with_reducible apply Kept.iteOut
    | (with_reducible apply Kept.mk; first | with_reducible assumption | with_reducible apply State.trainFail_kept | with_reducible apply Kept.ite)
    | intro _
    | split

theorem execPortRetry_kept (port : Fin 4) {s : State} (hs : Kept sn qs s) :
    nextHas (Kept sn qs) (execPortRetry port s) := by
  unfold execPortRetry
  try dsimp -iota only
  repeat' first
    | with_reducible assumption
    | with_reducible apply State.startCal_kept
    | with_reducible apply Kept.ite
    | with_reducible apply Kept.iteFst
    | exact trivial
    | with_reducible apply Kept.next
    | with_reducible apply Kept.iteOut
    | (with_reducible apply Kept.mk; first | with_reducible assumption | with_reducible apply State.startCal_kept | with_reducible apply Kept.ite)
    | intro _
    | split

theorem State.enqueue_kept {s : State} (p vc : Nat) (m : FabMsg) (hs : Kept sn qs s) :
    Kept sn qs (State.enqueue s p vc m) := by
  unfold State.enqueue
  try dsimp -iota only
  repeat' first
    | with_reducible assumption
    | with_reducible apply State.modFabPort_kept
    | with_reducible apply Kept.ite
    | with_reducible apply Kept.iteFst
    | (with_reducible apply Kept.mk; first | with_reducible assumption | with_reducible apply State.modFabPort_kept | with_reducible apply Kept.ite)
    | intro _
    | split

theorem State.place_kept {s : State} (dev : Nat) (m : FabMsg) (hs : Kept sn qs s) :
    Kept sn qs (State.place s dev m) := by
  unfold State.place
  try dsimp -iota only
  repeat' first
    | with_reducible assumption
    | with_reducible apply State.bump_kept
    | with_reducible apply State.enqueue_kept
    | with_reducible apply Kept.ite
    | with_reducible apply Kept.iteFst
    | with_reducible apply Kept.foldlFst
    | with_reducible apply Kept.foldl
    | (with_reducible apply Kept.mk; first | with_reducible assumption | with_reducible apply State.bump_kept | with_reducible apply State.enqueue_kept | with_reducible apply Kept.ite)
    | intro _
    | split

theorem State.flush_kept {s : State} (hs : Kept sn qs s) :
    Kept sn qs (State.flush s) := by
  unfold State.flush
  have h1 := Kept.foldl (l := (s.fabric.sent.take (s.fabric.sent.length - s.fabric.placed)).reverse)
    (fun s x h => State.place_kept x.1 x.2 h) hs
  exact h1.of rfl rfl rfl rfl rfl

theorem State.sendLocal_kept {s : State} (p : Nat) (m : FabMsg) (hs : Kept sn qs s) :
    Kept sn qs (State.sendLocal s p m) := by
  unfold State.sendLocal
  try dsimp -iota only
  repeat' first
    | with_reducible assumption
    | with_reducible apply State.enqueue_kept
    | with_reducible apply State.flush_kept
    | with_reducible apply Kept.ite
    | with_reducible apply Kept.iteFst
    | with_reducible apply Kept.foldlFst
    | with_reducible apply Kept.foldl
    | (with_reducible apply Kept.mk; first | with_reducible assumption | with_reducible apply State.enqueue_kept | with_reducible apply State.flush_kept | with_reducible apply Kept.ite)
    | intro _
    | split

theorem State.depart_kept {s : State} (p : Nat) (m : FabMsg) (hs : Kept sn qs s) :
    Kept sn qs (State.depart s p m) := by
  unfold State.depart
  try dsimp -iota only
  repeat' first
    | with_reducible assumption
    | with_reducible apply State.modFabPort_kept
    | with_reducible apply State.bump_kept
    | with_reducible apply Kept.ite
    | with_reducible apply Kept.iteFst
    | (with_reducible apply Kept.mk; first | with_reducible assumption | with_reducible apply State.modFabPort_kept | with_reducible apply State.bump_kept | with_reducible apply Kept.ite)
    | intro _
    | split

theorem State.control_kept {s : State} (p : Nat) (m : FabMsg) (b : Bool × List Byte) (hs : Kept sn qs s) :
    Kept sn qs (State.control s p m b) := by
  unfold State.control
  try dsimp -iota only
  repeat' first
    | with_reducible assumption
    | with_reducible apply State.modFabPort_kept
    | with_reducible apply Kept.ite
    | with_reducible apply Kept.iteFst
    | (with_reducible apply Kept.mk; first | with_reducible assumption | with_reducible apply State.modFabPort_kept | with_reducible apply Kept.ite)
    | intro _
    | split

theorem State.abortFrame_kept {s : State} (inPort vc stream : Nat) (outs : List Nat) (hs : Kept sn qs s) :
    Kept sn qs (State.abortFrame s inPort vc stream outs) := by
  unfold State.abortFrame
  try dsimp -iota only
  repeat' first
    | with_reducible assumption
    | with_reducible apply State.modFabPort_kept
    | with_reducible apply State.enqueue_kept
    | with_reducible apply Kept.ite
    | with_reducible apply Kept.iteFst
    | with_reducible apply Kept.foldl
    | (with_reducible apply Kept.mk; first | with_reducible assumption | with_reducible apply State.modFabPort_kept | with_reducible apply State.enqueue_kept | with_reducible apply Kept.ite)
    | intro _
    | split

theorem State.breakStreams_kept {s : State} (p : Nat) (hs : Kept sn qs s) :
    Kept sn qs (State.breakStreams s p) := by
  unfold State.breakStreams
  try dsimp -iota only
  repeat' first
    | with_reducible assumption
    | with_reducible apply State.modFabPort_kept
    | with_reducible apply State.abortFrame_kept
    | with_reducible apply Kept.ite
    | with_reducible apply Kept.iteFst
    | with_reducible apply Kept.foldlFst
    | with_reducible apply Kept.foldl
    | (with_reducible apply Kept.mk; first | with_reducible assumption | with_reducible apply State.modFabPort_kept | with_reducible apply State.abortFrame_kept | with_reducible apply Kept.ite)
    | intro _
    | split

theorem State.floodDown_kept {s : State} (p cause : Nat) (hs : Kept sn qs s) :
    Kept sn qs (State.floodDown s p cause) := by
  unfold State.floodDown
  try dsimp -iota only
  repeat' first
    | with_reducible assumption
    | with_reducible apply State.sendLocal_kept
    | with_reducible apply Kept.ite
    | with_reducible apply Kept.iteFst
    | with_reducible apply Kept.foldl
    | (with_reducible apply Kept.mk; first | with_reducible assumption | with_reducible apply State.sendLocal_kept | with_reducible apply Kept.ite)
    | intro _
    | split

theorem State.portLost_kept {s : State} (p cause : Nat) (hs : Kept sn qs s) :
    Kept sn qs (State.portLost s p cause) := by
  unfold State.portLost
  try dsimp -iota only
  repeat' first
    | with_reducible assumption
    | with_reducible apply State.floodDown_kept
    | with_reducible apply Kept.ite
    | with_reducible apply Kept.iteFst
    | (with_reducible apply Kept.mk; first | with_reducible assumption | with_reducible apply State.floodDown_kept | with_reducible apply Kept.ite)
    | intro _
    | split

theorem State.linkDown_kept {s : State} (p cause : Nat) (hs : Kept sn qs s) :
    Kept sn qs (State.linkDown s p cause) := by
  unfold State.linkDown
  try dsimp -iota only
  repeat' first
    | with_reducible assumption
    | with_reducible apply State.modFabPort_kept
    | with_reducible apply State.bump_kept
    | with_reducible apply State.log_kept
    | with_reducible apply State.breakStreams_kept
    | with_reducible apply State.portLost_kept
    | with_reducible apply Kept.ite
    | with_reducible apply Kept.iteFst
    | (with_reducible apply Kept.mk; first | with_reducible assumption | with_reducible apply State.modFabPort_kept | with_reducible apply State.bump_kept | with_reducible apply State.log_kept | with_reducible apply State.breakStreams_kept | with_reducible apply State.portLost_kept | with_reducible apply Kept.ite)
    | intro _
    | split

theorem State.lose_kept {s : State} (p cause : Nat) (hs : Kept sn qs s) :
    Kept sn qs (State.lose s p cause) := by
  unfold State.lose
  try dsimp -iota only
  repeat' first
    | with_reducible assumption
    | with_reducible apply State.linkDown_kept
    | with_reducible apply Kept.ite
    | with_reducible apply Kept.iteFst
    | (with_reducible apply Kept.mk; first | with_reducible assumption | with_reducible apply State.linkDown_kept | with_reducible apply Kept.ite)
    | intro _
    | split

theorem execTrainBlockRx_kept (port : Fin 4) (seen : Bool) (half : Fin 2) (sender : Fin 4) (uid : BitVec 32) (b6 : Byte) {s : State} (hs : Kept sn qs s) :
    nextHas (Kept sn qs) (execTrainBlockRx port seen half sender uid b6 s) := by
  unfold execTrainBlockRx
  try dsimp -iota only
  repeat' first
    | with_reducible assumption
    | with_reducible apply State.setFabPort_kept
    | with_reducible apply State.modFabPort_kept
    | with_reducible apply State.linkDown_kept
    | with_reducible apply Kept.ite
    | with_reducible apply Kept.iteFst
    | exact trivial
    | with_reducible apply Kept.next
    | with_reducible apply Kept.iteOut
    | (with_reducible apply Kept.mk; first | with_reducible assumption | with_reducible apply State.setFabPort_kept | with_reducible apply State.modFabPort_kept | with_reducible apply State.linkDown_kept | with_reducible apply Kept.ite)
    | intro _
    | split

theorem execDelayReqSend_kept (port : Fin 4) (tx : TdcEdge) {s : State} (hs : Kept sn qs s) :
    nextHas (Kept sn qs) (execDelayReqSend port tx s) := by
  unfold execDelayReqSend
  try dsimp -iota only
  repeat' first
    | with_reducible assumption
    | with_reducible apply State.modFabPort_kept
    | with_reducible apply State.putStamp_kept
    | with_reducible apply State.depart_kept
    | with_reducible apply Kept.ite
    | with_reducible apply Kept.iteFst
    | exact trivial
    | with_reducible apply Kept.next
    | with_reducible apply Kept.iteOut
    | (with_reducible apply Kept.mk; first | with_reducible assumption | with_reducible apply State.modFabPort_kept | with_reducible apply State.putStamp_kept | with_reducible apply State.depart_kept | with_reducible apply Kept.ite)
    | intro _
    | split

theorem execDelayReqRx_kept (port : Fin 4) (n : BitVec 16) (rx : TdcEdge) (cyc : Fin 100) (tx : TdcEdge) {s : State} (hs : Kept sn qs s) :
    nextHas (Kept sn qs) (execDelayReqRx port n rx cyc tx s) := by
  unfold execDelayReqRx
  try dsimp -iota only
  repeat' first
    | with_reducible assumption
    | with_reducible apply State.putStamp_kept
    | with_reducible apply State.checkTx_kept
    | with_reducible apply State.depart_kept
    | with_reducible apply Kept.ite
    | with_reducible apply Kept.iteFst
    | exact trivial
    | with_reducible apply Kept.next
    | with_reducible apply Kept.iteOut
    | (with_reducible apply Kept.mk; first | with_reducible assumption | with_reducible apply State.putStamp_kept | with_reducible apply State.checkTx_kept | with_reducible apply State.depart_kept | with_reducible apply Kept.ite)
    | intro _
    | split

theorem execDelayRespRx_kept (port : Fin 4) (n : BitVec 16) (t2 t3 : Ft16) (rx : TdcEdge) {s : State} (hs : Kept sn qs s) :
    nextHas (Kept sn qs) (execDelayRespRx port n t2 t3 rx s) := by
  unfold execDelayRespRx
  try dsimp -iota only
  repeat' first
    | with_reducible assumption
    | with_reducible apply State.setFabPort_kept
    | with_reducible apply State.log_kept
    | with_reducible apply State.putStamp_kept
    | with_reducible apply State.trainFail_kept
    | with_reducible apply Kept.ite
    | with_reducible apply Kept.iteFst
    | exact trivial
    | with_reducible apply Kept.next
    | with_reducible apply Kept.iteOut
    | (with_reducible apply Kept.mk; first | with_reducible assumption | with_reducible apply State.setFabPort_kept | with_reducible apply State.log_kept | with_reducible apply State.putStamp_kept | with_reducible apply State.trainFail_kept | with_reducible apply Kept.ite)
    | intro _
    | split

theorem execLinkSignalLost_kept (port : Fin 4) {s : State} (hs : Kept sn qs s) :
    nextHas (Kept sn qs) (execLinkSignalLost port s) := by
  unfold execLinkSignalLost
  try dsimp -iota only
  repeat' first
    | with_reducible assumption
    | with_reducible apply State.lose_kept
    | with_reducible apply Kept.ite
    | with_reducible apply Kept.iteFst
    | exact trivial
    | with_reducible apply Kept.next
    | with_reducible apply Kept.iteOut
    | (with_reducible apply Kept.mk; first | with_reducible assumption | with_reducible apply State.lose_kept | with_reducible apply Kept.ite)
    | intro _
    | split

theorem execBlockLockLost_kept (port : Fin 4) {s : State} (hs : Kept sn qs s) :
    nextHas (Kept sn qs) (execBlockLockLost port s) := by
  unfold execBlockLockLost
  try dsimp -iota only
  repeat' first
    | with_reducible assumption
    | with_reducible apply State.modFabPort_kept
    | with_reducible apply State.linkDown_kept
    | with_reducible apply Kept.ite
    | with_reducible apply Kept.iteFst
    | exact trivial
    | with_reducible apply Kept.next
    | with_reducible apply Kept.iteOut
    | (with_reducible apply Kept.mk; first | with_reducible assumption | with_reducible apply State.modFabPort_kept | with_reducible apply State.linkDown_kept | with_reducible apply Kept.ite)
    | intro _
    | split

theorem execInvalidSyncHeader_kept (port : Fin 4) {s : State} (hs : Kept sn qs s) :
    nextHas (Kept sn qs) (execInvalidSyncHeader port s) := by
  unfold execInvalidSyncHeader
  try dsimp -iota only
  repeat' first
    | with_reducible assumption
    | with_reducible apply State.modFabPort_kept
    | with_reducible apply State.bump_kept
    | with_reducible apply State.lose_kept
    | with_reducible apply Kept.ite
    | with_reducible apply Kept.iteFst
    | exact trivial
    | with_reducible apply Kept.next
    | with_reducible apply Kept.iteOut
    | (with_reducible apply Kept.mk; first | with_reducible assumption | with_reducible apply State.modFabPort_kept | with_reducible apply State.bump_kept | with_reducible apply State.lose_kept | with_reducible apply Kept.ite)
    | intro _
    | split

theorem State.controlTaken_kept {s : State} (p : Nat) (hs : Kept sn qs s) :
    Kept sn qs (State.controlTaken s p) := by
  unfold State.controlTaken
  try dsimp -iota only
  repeat' first
    | with_reducible assumption
    | with_reducible apply State.modFabPort_kept
    | with_reducible apply Kept.ite
    | with_reducible apply Kept.iteFst
    | (with_reducible apply Kept.mk; first | with_reducible assumption | with_reducible apply State.modFabPort_kept | with_reducible apply Kept.ite)
    | intro _
    | split

theorem execControlBlockTimeout_kept (port : Fin 4) {s : State} (hs : Kept sn qs s) :
    nextHas (Kept sn qs) (execControlBlockTimeout port s) := by
  unfold execControlBlockTimeout
  try dsimp -iota only
  repeat' first
    | with_reducible assumption
    | with_reducible apply State.lose_kept
    | with_reducible apply Kept.ite
    | with_reducible apply Kept.iteFst
    | exact trivial
    | with_reducible apply Kept.next
    | with_reducible apply Kept.iteOut
    | (with_reducible apply Kept.mk; first | with_reducible assumption | with_reducible apply State.lose_kept | with_reducible apply Kept.ite)
    | intro _
    | split

theorem execDelayExchangeFail_kept (port : Fin 4) {s : State} (hs : Kept sn qs s) :
    nextHas (Kept sn qs) (execDelayExchangeFail port s) := by
  unfold execDelayExchangeFail
  try dsimp -iota only
  repeat' first
    | with_reducible assumption
    | with_reducible apply State.lose_kept
    | with_reducible apply Kept.ite
    | with_reducible apply Kept.iteFst
    | exact trivial
    | with_reducible apply Kept.next
    | with_reducible apply Kept.iteOut
    | (with_reducible apply Kept.mk; first | with_reducible assumption | with_reducible apply State.lose_kept | with_reducible apply Kept.ite)
    | intro _
    | split

theorem State.bench_kept {s : State} (p : Nat) (hs : Kept sn qs s) :
    Kept sn qs (State.bench s p) := by
  unfold State.bench
  try dsimp -iota only
  repeat' first
    | with_reducible assumption
    | with_reducible apply State.modFabPort_kept
    | with_reducible apply State.bump_kept
    | with_reducible apply State.log_kept
    | with_reducible apply State.portLost_kept
    | with_reducible apply Kept.ite
    | with_reducible apply Kept.iteFst
    | (with_reducible apply Kept.mk; first | with_reducible assumption | with_reducible apply State.modFabPort_kept | with_reducible apply State.bump_kept | with_reducible apply State.log_kept | with_reducible apply State.portLost_kept | with_reducible apply Kept.ite)
    | intro _
    | split

theorem State.violate_kept {s : State} (p code : Nat) (hs : Kept sn qs s) :
    Kept sn qs (State.violate s p code) := by
  unfold State.violate
  try dsimp -iota only
  repeat' first
    | with_reducible assumption
    | with_reducible apply State.modFabPort_kept
    | with_reducible apply State.bump_kept
    | with_reducible apply State.bench_kept
    | with_reducible apply Kept.ite
    | with_reducible apply Kept.iteFst
    | (with_reducible apply Kept.mk; first | with_reducible assumption | with_reducible apply State.modFabPort_kept | with_reducible apply State.bump_kept | with_reducible apply State.bench_kept | with_reducible apply Kept.ite)
    | intro _
    | split

theorem execBenchEnd_kept (port : Fin 4) {s : State} (hs : Kept sn qs s) :
    nextHas (Kept sn qs) (execBenchEnd port s) := by
  unfold execBenchEnd
  try dsimp -iota only
  repeat' first
    | with_reducible assumption
    | with_reducible apply State.setFabPort_kept
    | with_reducible apply State.bench_kept
    | with_reducible apply Kept.ite
    | with_reducible apply Kept.iteFst
    | exact trivial
    | with_reducible apply Kept.next
    | with_reducible apply Kept.iteOut
    | (with_reducible apply Kept.mk; first | with_reducible assumption | with_reducible apply State.setFabPort_kept | with_reducible apply State.bench_kept | with_reducible apply Kept.ite)
    | intro _
    | split

theorem State.frameBad_kept {s : State} (p code : Nat) (h : FrameHeader) (hs : Kept sn qs s) :
    Kept sn qs (State.frameBad s p code h) := by
  unfold State.frameBad
  try dsimp -iota only
  repeat' first
    | with_reducible assumption
    | with_reducible apply State.fabSend_kept
    | with_reducible apply State.violate_kept
    | with_reducible apply Kept.ite
    | with_reducible apply Kept.iteFst
    | (with_reducible apply Kept.mk; first | with_reducible assumption | with_reducible apply State.fabSend_kept | with_reducible apply State.violate_kept | with_reducible apply Kept.ite)
    | intro _
    | split

theorem State.admitFrame_kept {s : State} (p vc : Nat) (h : FrameHeader) (hs : Kept sn qs s) :
    Kept sn qs (State.admitFrame s p vc h).1 := by
  unfold State.admitFrame
  try dsimp -iota only
  repeat' first
    | with_reducible assumption
    | with_reducible apply State.setFabPort_kept
    | with_reducible apply State.bump_kept
    | with_reducible apply State.ok_kept
    | with_reducible apply State.bench_kept
    | with_reducible apply State.frameBad_kept
    | with_reducible apply Kept.ite
    | with_reducible apply Kept.iteFst
    | (with_reducible apply Kept.mk; first | with_reducible assumption | with_reducible apply State.setFabPort_kept | with_reducible apply State.bump_kept | with_reducible apply State.ok_kept | with_reducible apply State.bench_kept | with_reducible apply State.frameBad_kept | with_reducible apply Kept.ite)
    | intro _
    | split

theorem State.deliver_kept {s : State} (p : Nat) (h : FrameHeader) (b : List Byte) (hs : Kept sn qs s) :
    Kept sn qs (State.deliver s p h b) := by
  unfold State.deliver
  try dsimp -iota only
  repeat' first
    | with_reducible assumption
    | with_reducible apply State.violate_kept
    | with_reducible apply State.frameBad_kept
    | with_reducible apply Kept.ite
    | with_reducible apply Kept.iteFst
    | (with_reducible apply Kept.mk; first | with_reducible assumption | with_reducible apply State.violate_kept | with_reducible apply State.frameBad_kept | with_reducible apply Kept.ite)
    | intro _
    | split

theorem State.setRx_kept {s : State} (p vc st : Nat) (r : Option RxStream) (hs : Kept sn qs s) :
    Kept sn qs (State.setRx s p vc st r) := by
  unfold State.setRx
  try dsimp -iota only
  repeat' first
    | with_reducible assumption
    | with_reducible apply State.modFabPort_kept
    | with_reducible apply Kept.ite
    | with_reducible apply Kept.iteFst
    | (with_reducible apply Kept.mk; first | with_reducible assumption | with_reducible apply State.modFabPort_kept | with_reducible apply Kept.ite)
    | intro _
    | split

theorem State.freeBlocks_kept {s : State} (p vc n : Nat) (hs : Kept sn qs s) :
    Kept sn qs (State.freeBlocks s p vc n) := by
  unfold State.freeBlocks
  try dsimp -iota only
  repeat' first
    | with_reducible assumption
    | with_reducible apply State.modFabPort_kept
    | with_reducible apply Kept.ite
    | with_reducible apply Kept.iteFst
    | (with_reducible apply Kept.mk; first | with_reducible assumption | with_reducible apply State.modFabPort_kept | with_reducible apply Kept.ite)
    | intro _
    | split

theorem State.takeFrag_kept {s : State} (p : Nat) (f : Frag) (r : RxStream) (hs : Kept sn qs s) :
    Kept sn qs (State.takeFrag s p f r) := by
  unfold State.takeFrag
  try dsimp -iota only
  repeat' first
    | with_reducible assumption
    | with_reducible apply State.bump_kept
    | with_reducible apply State.enqueue_kept
    | with_reducible apply State.abortFrame_kept
    | with_reducible apply State.frameBad_kept
    | with_reducible apply State.admitFrame_kept
    | with_reducible apply State.deliver_kept
    | with_reducible apply State.setRx_kept
    | with_reducible apply State.freeBlocks_kept
    | with_reducible apply Kept.ite
    | with_reducible apply Kept.iteFst
    | with_reducible apply Kept.foldlFst
    | with_reducible apply Kept.foldl
    | (with_reducible apply Kept.mk; first | with_reducible assumption | with_reducible apply State.bump_kept | with_reducible apply State.enqueue_kept | with_reducible apply State.abortFrame_kept | with_reducible apply State.frameBad_kept | with_reducible apply State.admitFrame_kept | with_reducible apply State.deliver_kept | with_reducible apply State.setRx_kept | with_reducible apply State.freeBlocks_kept | with_reducible apply Kept.ite)
    | intro _
    | split

theorem State.takeFreed_kept {s : State} (p vc : Nat) (n : BitVec 16) (hs : Kept sn qs s) :
    Kept sn qs (State.takeFreed s p vc n).1 := by
  unfold State.takeFreed
  try dsimp -iota only
  repeat' first
    | with_reducible assumption
    | with_reducible apply State.modFabPort_kept
    | with_reducible apply State.violate_kept
    | with_reducible apply Kept.ite
    | with_reducible apply Kept.iteFst
    | (with_reducible apply Kept.mk; first | with_reducible assumption | with_reducible apply State.modFabPort_kept | with_reducible apply State.violate_kept | with_reducible apply Kept.ite)
    | intro _
    | split

theorem execFragBlockRx_kept (port : Fin 4) (frag : Frag) {s : State} (hs : Kept sn qs s) :
    nextHas (Kept sn qs) (execFragBlockRx port frag s) := by
  unfold execFragBlockRx
  try dsimp -iota only
  repeat' first
    | with_reducible assumption
    | with_reducible apply State.modFabPort_kept
    | with_reducible apply State.flush_kept
    | with_reducible apply State.abortFrame_kept
    | with_reducible apply State.controlTaken_kept
    | with_reducible apply State.violate_kept
    | with_reducible apply State.setRx_kept
    | with_reducible apply State.freeBlocks_kept
    | with_reducible apply State.takeFrag_kept
    | with_reducible apply State.takeFreed_kept
    | with_reducible apply Kept.ite
    | with_reducible apply Kept.iteFst
    | exact trivial
    | with_reducible apply Kept.next
    | with_reducible apply Kept.iteOut
    | (with_reducible apply Kept.mk; first | with_reducible assumption | with_reducible apply State.modFabPort_kept | with_reducible apply State.flush_kept | with_reducible apply State.abortFrame_kept | with_reducible apply State.controlTaken_kept | with_reducible apply State.violate_kept | with_reducible apply State.setRx_kept | with_reducible apply State.freeBlocks_kept | with_reducible apply State.takeFrag_kept | with_reducible apply State.takeFreed_kept | with_reducible apply Kept.ite)
    | intro _
    | split

theorem execAbortBlockRx_kept (port : Fin 4) (vc : Fin 4) (stream : Fin 8) {s : State} (hs : Kept sn qs s) :
    nextHas (Kept sn qs) (execAbortBlockRx port vc stream s) := by
  unfold execAbortBlockRx
  try dsimp -iota only
  repeat' first
    | with_reducible assumption
    | with_reducible apply State.bump_kept
    | with_reducible apply State.flush_kept
    | with_reducible apply State.abortFrame_kept
    | with_reducible apply State.controlTaken_kept
    | with_reducible apply State.setRx_kept
    | with_reducible apply Kept.ite
    | with_reducible apply Kept.iteFst
    | exact trivial
    | with_reducible apply Kept.next
    | with_reducible apply Kept.iteOut
    | (with_reducible apply Kept.mk; first | with_reducible assumption | with_reducible apply State.bump_kept | with_reducible apply State.flush_kept | with_reducible apply State.abortFrame_kept | with_reducible apply State.controlTaken_kept | with_reducible apply State.setRx_kept | with_reducible apply Kept.ite)
    | intro _
    | split

theorem execIdleBlockRx_kept (port : Fin 4) (pair : Fin 2) (freedA freedB : BitVec 16) {s : State} (hs : Kept sn qs s) :
    nextHas (Kept sn qs) (execIdleBlockRx port pair freedA freedB s) := by
  unfold execIdleBlockRx
  try dsimp -iota only
  repeat' first
    | with_reducible assumption
    | with_reducible apply State.modFabPort_kept
    | with_reducible apply State.controlTaken_kept
    | with_reducible apply State.takeFreed_kept
    | with_reducible apply Kept.ite
    | with_reducible apply Kept.iteFst
    | exact trivial
    | with_reducible apply Kept.next
    | with_reducible apply Kept.iteOut
    | (with_reducible apply Kept.mk; first | with_reducible assumption | with_reducible apply State.modFabPort_kept | with_reducible apply State.controlTaken_kept | with_reducible apply State.takeFreed_kept | with_reducible apply Kept.ite)
    | intro _
    | split

theorem execResyncBlockRx_kept (port : Fin 4) {s : State} (hs : Kept sn qs s) :
    nextHas (Kept sn qs) (execResyncBlockRx port s) := by
  unfold execResyncBlockRx
  try dsimp -iota only
  repeat' first
    | with_reducible assumption
    | with_reducible apply State.modFabPort_kept
    | with_reducible apply State.bump_kept
    | with_reducible apply State.control_kept
    | with_reducible apply State.controlTaken_kept
    | with_reducible apply Kept.ite
    | with_reducible apply Kept.iteFst
    | exact trivial
    | with_reducible apply Kept.next
    | with_reducible apply Kept.iteOut
    | (with_reducible apply Kept.mk; first | with_reducible assumption | with_reducible apply State.modFabPort_kept | with_reducible apply State.bump_kept | with_reducible apply State.control_kept | with_reducible apply State.controlTaken_kept | with_reducible apply Kept.ite)
    | intro _
    | split

theorem execRmarkBlockRx_kept (port : Fin 4) (pair : Fin 2) (sentA sentB : BitVec 16) {s : State} (hs : Kept sn qs s) :
    nextHas (Kept sn qs) (execRmarkBlockRx port pair sentA sentB s) := by
  unfold execRmarkBlockRx
  try dsimp -iota only
  repeat' first
    | with_reducible assumption
    | with_reducible apply State.modFabPort_kept
    | with_reducible apply State.control_kept
    | with_reducible apply State.controlTaken_kept
    | with_reducible apply Kept.ite
    | with_reducible apply Kept.iteFst
    | exact trivial
    | with_reducible apply Kept.next
    | with_reducible apply Kept.iteOut
    | (with_reducible apply Kept.mk; first | with_reducible assumption | with_reducible apply State.modFabPort_kept | with_reducible apply State.control_kept | with_reducible apply State.controlTaken_kept | with_reducible apply Kept.ite)
    | intro _
    | split

theorem execControlBlockCrcError_kept (port : Fin 4) {s : State} (hs : Kept sn qs s) :
    nextHas (Kept sn qs) (execControlBlockCrcError port s) := by
  unfold execControlBlockCrcError
  try dsimp -iota only
  repeat' first
    | with_reducible assumption
    | with_reducible apply State.bump_kept
    | with_reducible apply State.flush_kept
    | with_reducible apply State.control_kept
    | with_reducible apply State.breakStreams_kept
    | with_reducible apply Kept.ite
    | with_reducible apply Kept.iteFst
    | exact trivial
    | with_reducible apply Kept.next
    | with_reducible apply Kept.iteOut
    | (with_reducible apply Kept.mk; first | with_reducible assumption | with_reducible apply State.bump_kept | with_reducible apply State.flush_kept | with_reducible apply State.control_kept | with_reducible apply State.breakStreams_kept | with_reducible apply Kept.ite)
    | intro _
    | split

theorem State.sendFragment_kept {s : State} (p vc : Nat) (hs : Kept sn qs s) :
    Kept sn qs (State.sendFragment s p vc) := by
  unfold State.sendFragment
  try dsimp -iota only
  repeat' first
    | with_reducible assumption
    | with_reducible apply State.setFabPort_kept
    | with_reducible apply State.bumpIf_kept
    | with_reducible apply State.freeBlocks_kept
    | with_reducible apply Kept.ite
    | with_reducible apply Kept.iteFst
    | (with_reducible apply Kept.mk; first | with_reducible assumption | with_reducible apply State.setFabPort_kept | with_reducible apply State.bumpIf_kept | with_reducible apply State.freeBlocks_kept | with_reducible apply Kept.ite)
    | intro _
    | split

theorem execFabPort_kept (ref : CmdRef) (port action : Byte) {s : State} (hs : Kept sn qs s) :
    nextHas (Kept sn qs) (execFabPort ref port action s) := by
  unfold execFabPort
  try dsimp -iota only
  repeat' first
    | with_reducible assumption
    | with_reducible apply State.modFabPort_kept
    | with_reducible apply State.ok_kept
    | with_reducible apply State.execCmd_kept
    | with_reducible apply State.checked_kept
    | with_reducible apply State.enablePort_kept
    | with_reducible apply State.linkDown_kept
    | with_reducible apply State.bench_kept
    | with_reducible apply Kept.ite
    | with_reducible apply Kept.iteFst
    | exact trivial
    | with_reducible apply Kept.next
    | with_reducible apply Kept.iteOut
    | (with_reducible apply Kept.mk; first | with_reducible assumption | with_reducible apply State.modFabPort_kept | with_reducible apply State.ok_kept | with_reducible apply State.execCmd_kept | with_reducible apply State.checked_kept | with_reducible apply State.enablePort_kept | with_reducible apply State.linkDown_kept | with_reducible apply State.bench_kept | with_reducible apply Kept.ite)
    | intro _
    | split

end Sys2Proof.Machine
end

