-- ==== Sys2Proof/Laws/KeptPtpSource.lean ====
section
/-! SUPPORT. Every operation of Machine/PtpSource.lean keeps the queue and the soundness of the state. -/

set_option linter.all false
namespace Sys2Proof.Machine

variable {sn : Bool} {qs : List Instr}

theorem State.modPtp_kept {s : State} (p : Nat) (g : PtpPort → PtpPort) (hs : Kept sn qs s) :
    Kept sn qs (State.modPtp s p g) := by
  unfold State.modPtp
  try dsimp -iota only
  repeat' first
    | with_reducible assumption
    | with_reducible apply State.modEth_kept
    | with_reducible apply Kept.ite
    | with_reducible apply Kept.iteFst
    | (with_reducible apply Kept.mk; first | with_reducible assumption | with_reducible apply State.modEth_kept | with_reducible apply Kept.ite)
    | intro _
    | split

theorem State.followTime_kept {s : State} (hs : Kept sn qs s) :
    Kept sn qs (State.followTime s) := by
  unfold State.followTime
  try dsimp -iota only
  repeat' first
    | with_reducible assumption
    | with_reducible apply State.modEth_kept
    | with_reducible apply State.log_kept
    | with_reducible apply State.setTimeSource_kept
    | with_reducible apply Kept.ite
    | with_reducible apply Kept.iteFst
    | with_reducible apply Kept.foldl
    | (with_reducible apply Kept.mk; first | with_reducible assumption | with_reducible apply State.modEth_kept | with_reducible apply State.log_kept | with_reducible apply State.setTimeSource_kept | with_reducible apply Kept.ite)
    | intro _
    | split

end Sys2Proof.Machine
end

