-- ==== Sys2Proof/Laws/KeptFabNet.lean ====
section
/-! SUPPORT. Every operation of Machine/FabNet.lean keeps the queue and the soundness of the state. -/

set_option linter.all false
namespace Sys2Proof.Machine

variable {sn : Bool} {qs : List Instr}

theorem State.updateView_kept {s : State} (hs : Kept sn qs s) :
    Kept sn qs (State.updateView s) := by
  unfold State.updateView
  try dsimp -iota only
  repeat' first
    | with_reducible assumption
    | with_reducible apply State.modFabPort_kept
    | with_reducible apply State.followTime_kept
    | with_reducible apply Kept.ite
    | with_reducible apply Kept.iteFst
    | with_reducible apply Kept.foldlFst
    | with_reducible apply Kept.foldl
    | (with_reducible apply Kept.mk; first | with_reducible assumption | with_reducible apply State.modFabPort_kept | with_reducible apply State.followTime_kept | with_reducible apply Kept.ite)
    | intro _
    | split

theorem State.tellSync_kept {s : State} (hs : Kept sn qs s) :
    Kept sn qs (State.tellSync s) := by
  unfold State.tellSync
  try dsimp -iota only
  repeat' first
    | with_reducible assumption
    | with_reducible apply State.sendRegister_kept
    | with_reducible apply Kept.ite
    | with_reducible apply Kept.iteFst
    | (with_reducible apply Kept.mk; first | with_reducible assumption | with_reducible apply State.sendRegister_kept | with_reducible apply Kept.ite)
    | intro _
    | split

theorem execDiscoverSend_kept (port : Fin 4) {s : State} (hs : Kept sn qs s) :
    nextHas (Kept sn qs) (execDiscoverSend port s) := by
  unfold execDiscoverSend
  try dsimp -iota only
  repeat' first
    | with_reducible assumption
    | with_reducible apply State.modFabPort_kept
    | with_reducible apply State.sendLocal_kept
    | with_reducible apply State.tellSync_kept
    | with_reducible apply Kept.ite
    | with_reducible apply Kept.iteFst
    | exact trivial
    | with_reducible apply Kept.next
    | with_reducible apply Kept.iteOut
    | (with_reducible apply Kept.mk; first | with_reducible assumption | with_reducible apply State.modFabPort_kept | with_reducible apply State.sendLocal_kept | with_reducible apply State.tellSync_kept | with_reducible apply Kept.ite)
    | intro _
    | split

theorem State.tryMerge_kept {s : State} (p : Nat) (hs : Kept sn qs s) :
    Kept sn qs (State.tryMerge s p) := by
  unfold State.tryMerge
  try dsimp -iota only
  repeat' first
    | with_reducible assumption
    | with_reducible apply State.modFabPort_kept
    | with_reducible apply State.updateView_kept
    | with_reducible apply Kept.ite
    | with_reducible apply Kept.iteFst
    | with_reducible apply Kept.foldl
    | (with_reducible apply Kept.mk; first | with_reducible assumption | with_reducible apply State.modFabPort_kept | with_reducible apply State.updateView_kept | with_reducible apply Kept.ite)
    | intro _
    | split

theorem execDiscoverRx_kept (port : Fin 4) (d : Discover) {s : State} (hs : Kept sn qs s) :
    nextHas (Kept sn qs) (execDiscoverRx port d s) := by
  unfold execDiscoverRx
  try dsimp -iota only
  repeat' first
    | with_reducible assumption
    | with_reducible apply State.modFabPort_kept
    | with_reducible apply State.updateView_kept
    | with_reducible apply State.tryMerge_kept
    | with_reducible apply Kept.ite
    | with_reducible apply Kept.iteFst
    | exact trivial
    | with_reducible apply Kept.next
    | with_reducible apply Kept.iteOut
    | (with_reducible apply Kept.mk; first | with_reducible assumption | with_reducible apply State.modFabPort_kept | with_reducible apply State.updateView_kept | with_reducible apply State.tryMerge_kept | with_reducible apply Kept.ite)
    | intro _
    | split

theorem execDiscoverExpiry_kept (port : Fin 4) {s : State} (hs : Kept sn qs s) :
    nextHas (Kept sn qs) (execDiscoverExpiry port s) := by
  unfold execDiscoverExpiry
  try dsimp -iota only
  repeat' first
    | with_reducible assumption
    | with_reducible apply State.modFabPort_kept
    | with_reducible apply State.updateView_kept
    | with_reducible apply Kept.ite
    | with_reducible apply Kept.iteFst
    | exact trivial
    | with_reducible apply Kept.next
    | with_reducible apply Kept.iteOut
    | (with_reducible apply Kept.mk; first | with_reducible assumption | with_reducible apply State.modFabPort_kept | with_reducible apply State.updateView_kept | with_reducible apply Kept.ite)
    | intro _
    | split

theorem State.installGen_kept {s : State} (topo : List ReportEntry) (a : List AssignEntry) (initial : Bool) (hs : Kept sn qs s) :
    Kept sn qs (State.installGen s topo a initial) := by
  unfold State.installGen
  extract_lets g f gen apply s1 pieces children tell s2 own
  have h1 : Kept sn qs s1 := State.took_kept hs
  have h2 : Kept sn qs s2 := Kept.foldl (fun s n h => Kept.ite h (Kept.foldl (fun s d h => Kept.ite
    (Kept.foldl (fun s p h => State.sendLocal_kept _ _ h) h) (State.fabSend_kept _ _ h)) h)) h1
  exact h2.of rfl rfl rfl rfl rfl

theorem execGenerationRecompute_kept (topo : List ReportEntry) {s : State} (hs : Kept sn qs s) :
    nextHas (Kept sn qs) (execGenerationRecompute topo s) := by
  unfold execGenerationRecompute
  try dsimp -iota only
  repeat' first
    | with_reducible assumption
    | with_reducible apply State.bump_kept
    | with_reducible apply State.installGen_kept
    | with_reducible apply Kept.ite
    | with_reducible apply Kept.iteFst
    | exact trivial
    | with_reducible apply Kept.next
    | with_reducible apply Kept.iteOut
    | (with_reducible apply Kept.mk; first | with_reducible assumption | with_reducible apply State.bump_kept | with_reducible apply State.installGen_kept | with_reducible apply Kept.ite)
    | intro _
    | split

theorem State.takeAssign_kept {s : State} (l : List AssignEntry) (hs : Kept sn qs s) :
    Kept sn qs (State.takeAssign s l) := by
  unfold State.takeAssign
  try dsimp -iota only
  repeat' first
    | with_reducible assumption
    | with_reducible apply Kept.ite
    | with_reducible apply Kept.iteFst
    | (with_reducible apply Kept.mk; first | with_reducible assumption | with_reducible apply Kept.ite)
    | intro _
    | split

theorem State.headcount_kept {s : State} (hs : Kept sn qs s) :
    Kept sn qs (State.headcount s) := by
  unfold State.headcount
  try dsimp -iota only
  repeat' first
    | with_reducible assumption
    | with_reducible apply State.sendLocal_kept
    | with_reducible apply State.installGen_kept
    | with_reducible apply State.takeAssign_kept
    | with_reducible apply Kept.ite
    | with_reducible apply Kept.iteFst
    | with_reducible apply Kept.foldl
    | (with_reducible apply Kept.mk; first | with_reducible assumption | with_reducible apply State.sendLocal_kept | with_reducible apply State.installGen_kept | with_reducible apply State.takeAssign_kept | with_reducible apply Kept.ite)
    | intro _
    | split

theorem State.admitJoining_kept {s : State} (l : List ReportEntry) (hs : Kept sn qs s) :
    Kept sn qs (State.admitJoining s l) := by
  unfold State.admitJoining
  try dsimp -iota only
  repeat' first
    | with_reducible assumption
    | with_reducible apply State.sendLocal_kept
    | with_reducible apply State.installGen_kept
    | with_reducible apply Kept.ite
    | with_reducible apply Kept.iteFst
    | with_reducible apply Kept.foldl
    | (with_reducible apply Kept.mk; first | with_reducible assumption | with_reducible apply State.sendLocal_kept | with_reducible apply State.installGen_kept | with_reducible apply Kept.ite)
    | intro _
    | split

theorem execReportSend_kept {s : State} (hs : Kept sn qs s) :
    nextHas (Kept sn qs) (execReportSend s) := by
  unfold execReportSend
  try dsimp -iota only
  repeat' first
    | with_reducible assumption
    | with_reducible apply State.sendLocal_kept
    | with_reducible apply State.headcount_kept
    | with_reducible apply Kept.ite
    | with_reducible apply Kept.iteFst
    | exact trivial
    | with_reducible apply Kept.next
    | with_reducible apply Kept.iteOut
    | (with_reducible apply Kept.mk; first | with_reducible assumption | with_reducible apply State.sendLocal_kept | with_reducible apply State.headcount_kept | with_reducible apply Kept.ite)
    | intro _
    | split

theorem execReportRx_kept (port : Fin 4) (piece : ReportPiece) {s : State} (hs : Kept sn qs s) :
    nextHas (Kept sn qs) (execReportRx port piece s) := by
  unfold execReportRx
  try dsimp -iota only
  repeat' first
    | with_reducible assumption
    | with_reducible apply State.modFabPort_kept
    | with_reducible apply State.fabSend_kept
    | with_reducible apply State.headcount_kept
    | with_reducible apply State.admitJoining_kept
    | with_reducible apply Kept.ite
    | with_reducible apply Kept.iteFst
    | exact trivial
    | with_reducible apply Kept.next
    | with_reducible apply Kept.iteOut
    | (with_reducible apply Kept.mk; first | with_reducible assumption | with_reducible apply State.modFabPort_kept | with_reducible apply State.fabSend_kept | with_reducible apply State.headcount_kept | with_reducible apply State.admitJoining_kept | with_reducible apply Kept.ite)
    | intro _
    | split

theorem execAssignRx_kept (port : Fin 4) (l : List AssignEntry) {s : State} (hs : Kept sn qs s) :
    nextHas (Kept sn qs) (execAssignRx port l s) := by
  unfold execAssignRx
  try dsimp -iota only
  repeat' first
    | with_reducible assumption
    | with_reducible apply State.sendLocal_kept
    | with_reducible apply State.takeAssign_kept
    | with_reducible apply Kept.ite
    | with_reducible apply Kept.iteFst
    | with_reducible apply Kept.foldl
    | exact trivial
    | with_reducible apply Kept.next
    | with_reducible apply Kept.iteOut
    | (with_reducible apply Kept.mk; first | with_reducible assumption | with_reducible apply State.sendLocal_kept | with_reducible apply State.takeAssign_kept | with_reducible apply Kept.ite)
    | intro _
    | split

theorem execTableRx_kept (port : Fin 4) (gen : Nat) (d : TableData) {s : State} (hs : Kept sn qs s) :
    nextHas (Kept sn qs) (execTableRx port gen d s) := by
  unfold execTableRx
  try dsimp -iota only
  repeat' first
    | with_reducible assumption
    | with_reducible apply Kept.ite
    | with_reducible apply Kept.iteFst
    | exact trivial
    | with_reducible apply Kept.next
    | with_reducible apply Kept.iteOut
    | (with_reducible apply Kept.mk; first | with_reducible assumption | with_reducible apply Kept.ite)
    | intro _
    | split

theorem State.devicesLeft_kept {s : State} (gone : List Nat) (hs : Kept sn qs s) :
    Kept sn qs (State.devicesLeft s gone) := by
  unfold State.devicesLeft
  try dsimp -iota only
  repeat' first
    | with_reducible assumption
    | with_reducible apply State.dropDevice_kept
    | with_reducible apply Kept.ite
    | with_reducible apply Kept.iteFst
    | with_reducible apply Kept.foldlFst
    | with_reducible apply Kept.foldl
    | (with_reducible apply Kept.mk; first | with_reducible assumption | with_reducible apply State.dropDevice_kept | with_reducible apply Kept.ite)
    | intro _
    | split

theorem State.elected_kept {s : State} (hs : Kept sn qs s) :
    Kept sn qs (State.elected s) := by
  unfold State.elected
  try dsimp -iota only
  repeat' first
    | with_reducible assumption
    | with_reducible apply State.modLocks_kept
    | with_reducible apply State.log_kept
    | with_reducible apply Kept.ite
    | with_reducible apply Kept.iteFst
    | (with_reducible apply Kept.mk; first | with_reducible assumption | with_reducible apply State.modLocks_kept | with_reducible apply State.log_kept | with_reducible apply Kept.ite)
    | intro _
    | split

theorem State.registerAgain_kept {s : State} (hs : Kept sn qs s) :
    Kept sn qs (State.registerAgain s) := by
  unfold State.registerAgain
  try dsimp -iota only
  repeat' first
    | with_reducible assumption
    | with_reducible apply State.sendRegister_kept
    | with_reducible apply State.registered_kept
    | with_reducible apply Kept.ite
    | with_reducible apply Kept.iteFst
    | with_reducible apply Kept.foldl
    | (with_reducible apply Kept.mk; first | with_reducible assumption | with_reducible apply State.sendRegister_kept | with_reducible apply State.registered_kept | with_reducible apply Kept.ite)
    | intro _
    | split

theorem State.applyTable_kept {s : State} (t : TableGen) (hs : Kept sn qs s) :
    Kept sn qs (State.applyTable s t) := by
  unfold State.applyTable
  try dsimp -iota only
  repeat' first
    | with_reducible assumption
    | with_reducible apply State.log_kept
    | with_reducible apply State.followTime_kept
    | with_reducible apply State.devicesLeft_kept
    | with_reducible apply State.elected_kept
    | with_reducible apply State.registerAgain_kept
    | with_reducible apply Kept.ite
    | with_reducible apply Kept.iteFst
    | with_reducible apply Kept.foldlFst
    | with_reducible apply Kept.foldl
    | (with_reducible apply Kept.mk; first | with_reducible assumption | with_reducible apply State.log_kept | with_reducible apply State.followTime_kept | with_reducible apply State.devicesLeft_kept | with_reducible apply State.elected_kept | with_reducible apply State.registerAgain_kept | with_reducible apply Kept.ite)
    | intro _
    | split

theorem execTableApply_kept {s : State} (hs : Kept sn qs s) :
    nextHas (Kept sn qs) (execTableApply s) := by
  unfold execTableApply
  try dsimp -iota only
  repeat' first
    | with_reducible assumption
    | with_reducible apply State.applyTable_kept
    | with_reducible apply Kept.ite
    | with_reducible apply Kept.iteFst
    | exact trivial
    | with_reducible apply Kept.next
    | with_reducible apply Kept.iteOut
    | (with_reducible apply Kept.mk; first | with_reducible assumption | with_reducible apply State.applyTable_kept | with_reducible apply Kept.ite)
    | intro _
    | split

theorem execSoloTimeout_kept {s : State} (hs : Kept sn qs s) :
    nextHas (Kept sn qs) (execSoloTimeout s) := by
  unfold execSoloTimeout
  try dsimp -iota only
  repeat' first
    | with_reducible assumption
    | with_reducible apply State.log_kept
    | with_reducible apply State.followTime_kept
    | with_reducible apply State.elected_kept
    | with_reducible apply Kept.ite
    | with_reducible apply Kept.iteFst
    | exact trivial
    | with_reducible apply Kept.next
    | with_reducible apply Kept.iteOut
    | (with_reducible apply Kept.mk; first | with_reducible assumption | with_reducible apply State.log_kept | with_reducible apply State.followTime_kept | with_reducible apply State.elected_kept | with_reducible apply Kept.ite)
    | intro _
    | split

theorem execLinkDownFrameRx_kept (port : Fin 4) (uid : BitVec 64) (lostPort : Fin 4) (cause : Nat) (gen : Nat) {s : State} (hs : Kept sn qs s) :
    nextHas (Kept sn qs) (execLinkDownFrameRx port uid lostPort cause gen s) := by
  unfold execLinkDownFrameRx
  try dsimp -iota only
  repeat' first
    | with_reducible assumption
    | with_reducible apply State.sendLocal_kept
    | with_reducible apply State.linkDown_kept
    | with_reducible apply Kept.ite
    | with_reducible apply Kept.iteFst
    | with_reducible apply Kept.foldlFst
    | with_reducible apply Kept.foldl
    | exact trivial
    | with_reducible apply Kept.next
    | with_reducible apply Kept.iteOut
    | (with_reducible apply Kept.mk; first | with_reducible assumption | with_reducible apply State.sendLocal_kept | with_reducible apply State.linkDown_kept | with_reducible apply Kept.ite)
    | intro _
    | split

theorem State.partLeader_kept {s : State} (l : BitVec 64 × Nat) (hs : Kept sn qs s) :
    Kept sn qs (State.partLeader s l) := by
  unfold State.partLeader
  try dsimp -iota only
  repeat' first
    | with_reducible assumption
    | with_reducible apply State.modLocks_kept
    | with_reducible apply State.followTime_kept
    | with_reducible apply Kept.ite
    | with_reducible apply Kept.iteFst
    | (with_reducible apply Kept.mk; first | with_reducible assumption | with_reducible apply State.modLocks_kept | with_reducible apply State.followTime_kept | with_reducible apply Kept.ite)
    | intro _
    | split

theorem State.applyShare_kept {s : State} (sh : Share) (hs : Kept sn qs s) :
    Kept sn qs (State.applyShare s sh) := by
  unfold State.applyShare
  try dsimp -iota only
  repeat' first
    | with_reducible assumption
    | with_reducible apply State.bump_kept
    | with_reducible apply State.log_kept
    | with_reducible apply State.followTime_kept
    | with_reducible apply State.devicesLeft_kept
    | with_reducible apply State.partLeader_kept
    | with_reducible apply Kept.ite
    | with_reducible apply Kept.iteFst
    | with_reducible apply Kept.foldlFst
    | with_reducible apply Kept.foldl
    | (with_reducible apply Kept.mk; first | with_reducible assumption | with_reducible apply State.bump_kept | with_reducible apply State.log_kept | with_reducible apply State.followTime_kept | with_reducible apply State.devicesLeft_kept | with_reducible apply State.partLeader_kept | with_reducible apply Kept.ite)
    | intro _
    | split

theorem execRepairApply_kept (lostUid : BitVec 64) (lostPort : Fin 5) {s : State} (hs : Kept sn qs s) :
    nextHas (Kept sn qs) (execRepairApply lostUid lostPort s) := by
  unfold execRepairApply
  try dsimp -iota only
  repeat' first
    | with_reducible assumption
    | with_reducible apply State.applyShare_kept
    | with_reducible apply Kept.ite
    | with_reducible apply Kept.iteFst
    | exact trivial
    | with_reducible apply Kept.next
    | with_reducible apply Kept.iteOut
    | (with_reducible apply Kept.mk; first | with_reducible assumption | with_reducible apply State.applyShare_kept | with_reducible apply Kept.ite)
    | intro _
    | split

theorem execTimeFrameSend_kept (port : Fin 4) (cyc : Fin 100) (tx : TdcEdge) {s : State} (hs : Kept sn qs s) :
    nextHas (Kept sn qs) (execTimeFrameSend port cyc tx s) := by
  unfold execTimeFrameSend
  try dsimp -iota only
  repeat' first
    | with_reducible assumption
    | with_reducible apply State.putStamp_kept
    | with_reducible apply State.checkTx_kept
    | with_reducible apply State.depart_kept
    | with_reducible apply Kept.ite
    | with_reducible apply Kept.iteFst
    | exact trivial
    | with_reducible apply Kept.next
    | with_reducible apply Kept.iteOut
    | (with_reducible apply Kept.mk; first | with_reducible assumption | with_reducible apply State.putStamp_kept | with_reducible apply State.checkTx_kept | with_reducible apply State.depart_kept | with_reducible apply Kept.ite)
    | intro _
    | split

theorem execTimeFrameRx_kept (port : Fin 4) (m : TimeMsg) (rx : TdcEdge) {s : State} (hs : Kept sn qs s) :
    nextHas (Kept sn qs) (execTimeFrameRx port m rx s) := by
  unfold execTimeFrameRx
  try dsimp -iota only
  repeat' first
    | with_reducible assumption
    | with_reducible apply State.modFabPort_kept
    | with_reducible apply State.timeMeasure_kept
    | with_reducible apply State.putStamp_kept
    | with_reducible apply State.tryMerge_kept
    | with_reducible apply Kept.ite
    | with_reducible apply Kept.iteFst
    | exact trivial
    | with_reducible apply Kept.next
    | with_reducible apply Kept.iteOut
    | (with_reducible apply Kept.mk; first | with_reducible assumption | with_reducible apply State.modFabPort_kept | with_reducible apply State.timeMeasure_kept | with_reducible apply State.putStamp_kept | with_reducible apply State.tryMerge_kept | with_reducible apply Kept.ite)
    | intro _
    | split

theorem execRegisterRx_kept (src : Fin 4096) (op : Fin 8) (convoy : Byte) (fa : Nat) {s : State} (hs : Kept sn qs s) :
    nextHas (Kept sn qs) (execRegisterRx src op convoy fa s) := by
  unfold execRegisterRx
  try dsimp -iota only
  repeat' first
    | with_reducible assumption
    | with_reducible apply State.ok_kept
    | with_reducible apply State.fabSend_kept
    | with_reducible apply Kept.ite
    | with_reducible apply Kept.iteFst
    | exact trivial
    | with_reducible apply Kept.next
    | with_reducible apply Kept.iteOut
    | (with_reducible apply Kept.mk; first | with_reducible assumption | with_reducible apply State.ok_kept | with_reducible apply State.fabSend_kept | with_reducible apply Kept.ite)
    | intro _
    | split

theorem execBulkRx_kept (src : Fin 4096) (ident : BitVec 16) (offset : BitVec 32) (data : List Byte) {s : State} (hs : Kept sn qs s) :
    nextHas (Kept sn qs) (execBulkRx src ident offset data s) := by
  unfold execBulkRx
  try dsimp -iota only
  repeat' first
    | with_reducible assumption
    | with_reducible apply Kept.ite
    | with_reducible apply Kept.iteFst
    | exact trivial
    | with_reducible apply Kept.next
    | with_reducible apply Kept.iteOut
    | (with_reducible apply Kept.mk; first | with_reducible assumption | with_reducible apply Kept.ite)
    | intro _
    | split

theorem execBulkTimeout_kept (src : Fin 4096) (ident : BitVec 16) {s : State} (hs : Kept sn qs s) :
    nextHas (Kept sn qs) (execBulkTimeout src ident s) := by
  unfold execBulkTimeout
  try dsimp -iota only
  repeat' first
    | with_reducible assumption
    | with_reducible apply State.fabSend_kept
    | with_reducible apply State.violate_kept
    | with_reducible apply Kept.ite
    | with_reducible apply Kept.iteFst
    | exact trivial
    | with_reducible apply Kept.next
    | with_reducible apply Kept.iteOut
    | (with_reducible apply Kept.mk; first | with_reducible assumption | with_reducible apply State.fabSend_kept | with_reducible apply State.violate_kept | with_reducible apply Kept.ite)
    | intro _
    | split

theorem execRelayExpiry_kept (addr : BitVec 32) (udp : BitVec 16) {s : State} (hs : Kept sn qs s) :
    nextHas (Kept sn qs) (execRelayExpiry addr udp s) := by
  unfold execRelayExpiry
  try dsimp -iota only
  repeat' first
    | with_reducible assumption
    | with_reducible apply Kept.ite
    | with_reducible apply Kept.iteFst
    | exact trivial
    | with_reducible apply Kept.next
    | with_reducible apply Kept.iteOut
    | (with_reducible apply Kept.mk; first | with_reducible assumption | with_reducible apply Kept.ite)
    | intro _
    | split

theorem execFabPrefer_kept (ref : CmdRef) (dev : BitVec 16) {s : State} (hs : Kept sn qs s) :
    nextHas (Kept sn qs) (execFabPrefer ref dev s) := by
  unfold execFabPrefer
  try dsimp -iota only
  repeat' first
    | with_reducible assumption
    | with_reducible apply State.ok_kept
    | with_reducible apply State.execCmd_kept
    | with_reducible apply State.checked_kept
    | with_reducible apply Kept.ite
    | with_reducible apply Kept.iteFst
    | exact trivial
    | with_reducible apply Kept.next
    | with_reducible apply Kept.iteOut
    | (with_reducible apply Kept.mk; first | with_reducible assumption | with_reducible apply State.ok_kept | with_reducible apply State.execCmd_kept | with_reducible apply State.checked_kept | with_reducible apply Kept.ite)
    | intro _
    | split

theorem execFabTopology_kept (ref : CmdRef) {s : State} (hs : Kept sn qs s) :
    nextHas (Kept sn qs) (execFabTopology ref s) := by
  unfold execFabTopology
  try dsimp -iota only
  repeat' first
    | with_reducible assumption
    | with_reducible apply State.ok_kept
    | with_reducible apply State.execCmd_kept
    | with_reducible apply Kept.ite
    | with_reducible apply Kept.iteFst
    | exact trivial
    | with_reducible apply Kept.next
    | with_reducible apply Kept.iteOut
    | (with_reducible apply Kept.mk; first | with_reducible assumption | with_reducible apply State.ok_kept | with_reducible apply State.execCmd_kept | with_reducible apply Kept.ite)
    | intro _
    | split

end Sys2Proof.Machine
end

