-- ==== Sys2Proof/Laws/KeptTimeCmds.lean ====
section
/-! SUPPORT. Every operation of Machine/TimeCmds.lean keeps the queue and the soundness of the state. -/

set_option linter.all false
namespace Sys2Proof.Machine

variable {sn : Bool} {qs : List Instr}

theorem execTimeStatus_kept (ref : CmdRef) {s : State} (hs : Kept sn qs s) :
    nextHas (Kept sn qs) (execTimeStatus ref s) := by
  unfold execTimeStatus
  try dsimp -iota only
  repeat' first
    | with_reducible assumption
    | with_reducible apply State.ok_kept
    | with_reducible apply State.execCmd_kept
    | with_reducible apply Kept.ite
    | with_reducible apply Kept.iteFst
    | exact trivial
    | with_reducible apply Kept.next
    | with_reducible apply Kept.iteOut
    | (with_reducible apply Kept.mk; first | with_reducible assumption | with_reducible apply State.ok_kept | with_reducible apply State.execCmd_kept | with_reducible apply Kept.ite)
    | intro _
    | split

theorem execTimeStep_kept (ref : CmdRef) (mode : Byte) (ns : BitVec 64) (frac : BitVec 16) {s : State} (hs : Kept sn qs s) :
    nextHas (Kept sn qs) (execTimeStep ref mode ns frac s) := by
  unfold execTimeStep
  try dsimp -iota only
  repeat' first
    | with_reducible assumption
    | with_reducible apply State.took_kept
    | with_reducible apply State.ok_kept
    | with_reducible apply State.execCmd_kept
    | with_reducible apply State.checked_kept
    | with_reducible apply State.applyStep_kept
    | with_reducible apply Kept.ite
    | with_reducible apply Kept.iteFst
    | exact trivial
    | with_reducible apply Kept.next
    | with_reducible apply Kept.iteOut
    | (with_reducible apply Kept.mk; first | with_reducible assumption | with_reducible apply State.took_kept | with_reducible apply State.ok_kept | with_reducible apply State.execCmd_kept | with_reducible apply State.checked_kept | with_reducible apply State.applyStep_kept | with_reducible apply Kept.ite)
    | intro _
    | split

end Sys2Proof.Machine
end

