-- ==== Sys2Proof/Laws/KeptEthBytes.lean ====
section
/-! SUPPORT. Every operation of Machine/EthBytes.lean keeps the queue and the soundness of the state. -/

set_option linter.all false
namespace Sys2Proof.Machine

variable {sn : Bool} {qs : List Instr}

theorem State.ethSent_kept {s : State} (p q : Nat) (f : EthFrame) (hs : Kept sn qs s) :
    Kept sn qs (State.ethSent s p q f) := by
  unfold State.ethSent
  try dsimp -iota only
  repeat' first
    | with_reducible assumption
    | with_reducible apply State.modEth_kept
    | with_reducible apply State.bump_kept
    | with_reducible apply Kept.ite
    | with_reducible apply Kept.iteFst
    | (with_reducible apply Kept.mk; first | with_reducible assumption | with_reducible apply State.modEth_kept | with_reducible apply State.bump_kept | with_reducible apply Kept.ite)
    | intro _
    | split

end Sys2Proof.Machine
end

