-- ==== Sys2Proof/Laws/KeptEther.lean ====
section
/-! SUPPORT. Every operation of Machine/Ether.lean keeps the queue and the soundness of the state. -/

set_option linter.all false
namespace Sys2Proof.Machine

variable {sn : Bool} {qs : List Instr}

theorem State.ethPut_kept {s : State} (p q : Nat) (f : EthFrame) (hs : Kept sn qs s) :
    Kept sn qs (State.ethPut s p q f) := by
  unfold State.ethPut
  try dsimp -iota only
  repeat' first
    | with_reducible assumption
    | with_reducible apply State.setEth_kept
    | with_reducible apply State.bump_kept
    | with_reducible apply Kept.ite
    | with_reducible apply Kept.iteFst
    | (with_reducible apply Kept.mk; first | with_reducible assumption | with_reducible apply State.setEth_kept | with_reducible apply State.bump_kept | with_reducible apply Kept.ite)
    | intro _
    | split

theorem State.ipSend_kept {s : State} (p q : Nat) (ip : BitVec 32) (f : EthFrame) (hs : Kept sn qs s) :
    Kept sn qs (State.ipSend s p q ip f) := by
  unfold State.ipSend
  try dsimp -iota only
  repeat' first
    | with_reducible assumption
    | with_reducible apply State.modEth_kept
    | with_reducible apply State.ethPut_kept
    | with_reducible apply Kept.ite
    | with_reducible apply Kept.iteFst
    | (with_reducible apply Kept.mk; first | with_reducible assumption | with_reducible apply State.modEth_kept | with_reducible apply State.ethPut_kept | with_reducible apply Kept.ite)
    | intro _
    | split

theorem State.udpOut_kept {s : State} (p q : Nat) (ip : BitVec 32) (l : List Byte) (mk : List Byte → EthMsg) (hs : Kept sn qs s) :
    Kept sn qs (State.udpOut s p q ip l mk) := by
  unfold State.udpOut
  try dsimp -iota only
  repeat' first
    | with_reducible assumption
    | with_reducible apply State.took_kept
    | with_reducible apply State.ipSend_kept
    | with_reducible apply Kept.ite
    | with_reducible apply Kept.iteFst
    | with_reducible apply Kept.foldl
    | (with_reducible apply Kept.mk; first | with_reducible assumption | with_reducible apply State.took_kept | with_reducible apply State.ipSend_kept | with_reducible apply Kept.ite)
    | intro _
    | split

theorem State.fillSession_kept {s : State} (p : Nat) (hs : Kept sn qs s) :
    Kept sn qs (State.fillSession s p) := by
  unfold State.fillSession
  exact Kept.foldl (fun s x h => Kept.ite (State.udpOut_kept _ _ _ _ _ (State.modHost_kept _ h)) h) hs

theorem State.popQueue_kept {s : State} (p q : Nat) (hs : Kept sn qs s) :
    Kept sn qs (State.popQueue s p q) := by
  unfold State.popQueue
  try dsimp -iota only
  repeat' first
    | with_reducible assumption
    | with_reducible apply State.modEth_kept
    | with_reducible apply Kept.ite
    | with_reducible apply Kept.iteFst
    | (with_reducible apply Kept.mk; first | with_reducible assumption | with_reducible apply State.modEth_kept | with_reducible apply Kept.ite)
    | intro _
    | split

theorem State.dropOversize_kept {s : State} (p q : Nat) (hs : Kept sn qs s) :
    Kept sn qs (State.dropOversize s p q) := by
  unfold State.dropOversize
  try dsimp -iota only
  repeat' first
    | with_reducible assumption
    | with_reducible apply State.bump_kept
    | with_reducible apply State.popQueue_kept
    | with_reducible apply Kept.ite
    | with_reducible apply Kept.iteFst
    | (with_reducible apply Kept.mk; first | with_reducible assumption | with_reducible apply State.bump_kept | with_reducible apply State.popQueue_kept | with_reducible apply Kept.ite)
    | intro _
    | split

theorem State.dropLate_kept {s : State} (p q : Nat) (hs : Kept sn qs s) :
    Kept sn qs (State.dropLate s p q) := by
  unfold State.dropLate
  try dsimp -iota only
  repeat' first
    | with_reducible assumption
    | with_reducible apply State.bump_kept
    | with_reducible apply State.popQueue_kept
    | with_reducible apply Kept.ite
    | with_reducible apply Kept.iteFst
    | (with_reducible apply Kept.mk; first | with_reducible assumption | with_reducible apply State.bump_kept | with_reducible apply State.popQueue_kept | with_reducible apply Kept.ite)
    | intro _
    | split

theorem execEthFrameTx_kept (port : Fin 2) {s : State} (hs : Kept sn qs s) :
    nextHas (Kept sn qs) (execEthFrameTx port s) := by
  unfold execEthFrameTx
  try dsimp -iota only
  repeat' first
    | with_reducible assumption
    | with_reducible apply State.ethSent_kept
    | with_reducible apply State.fillSession_kept
    | with_reducible apply State.popQueue_kept
    | with_reducible apply State.dropOversize_kept
    | with_reducible apply State.dropLate_kept
    | with_reducible apply Kept.ite
    | with_reducible apply Kept.iteFst
    | with_reducible apply Kept.foldl
    | exact trivial
    | with_reducible apply Kept.next
    | with_reducible apply Kept.iteOut
    | (with_reducible apply Kept.mk; first | with_reducible assumption | with_reducible apply State.ethSent_kept | with_reducible apply State.fillSession_kept | with_reducible apply State.popQueue_kept | with_reducible apply State.dropOversize_kept | with_reducible apply State.dropLate_kept | with_reducible apply Kept.ite)
    | intro _
    | split

theorem State.ethDepart_kept {s : State} (p : Nat) (m : EthMsg) (n : Nat) (hs : Kept sn qs s) :
    Kept sn qs (State.ethDepart s p m n) := by
  unfold State.ethDepart
  try dsimp -iota only
  repeat' first
    | with_reducible assumption
    | with_reducible apply State.ethSent_kept
    | with_reducible apply Kept.ite
    | with_reducible apply Kept.iteFst
    | (with_reducible apply Kept.mk; first | with_reducible assumption | with_reducible apply State.ethSent_kept | with_reducible apply Kept.ite)
    | intro _
    | split

theorem execEthScheduledEnqueue_kept (port : Fin 2) (na : Fin 128) {s : State} (hs : Kept sn qs s) :
    nextHas (Kept sn qs) (execEthScheduledEnqueue port na s) := by
  unfold execEthScheduledEnqueue
  try dsimp -iota only
  repeat' first
    | with_reducible assumption
    | with_reducible apply State.modRemote_kept
    | with_reducible apply State.ipSend_kept
    | with_reducible apply Kept.ite
    | with_reducible apply Kept.iteFst
    | exact trivial
    | with_reducible apply Kept.next
    | with_reducible apply Kept.iteOut
    | (with_reducible apply Kept.mk; first | with_reducible assumption | with_reducible apply State.modRemote_kept | with_reducible apply State.ipSend_kept | with_reducible apply Kept.ite)
    | intro _
    | split

theorem execEthTxLate_kept (port : Fin 2) (queue : Fin 8) {s : State} (hs : Kept sn qs s) :
    nextHas (Kept sn qs) (execEthTxLate port queue s) := by
  unfold execEthTxLate
  try dsimp -iota only
  repeat' first
    | with_reducible assumption
    | with_reducible apply State.dropLate_kept
    | with_reducible apply Kept.ite
    | with_reducible apply Kept.iteFst
    | exact trivial
    | with_reducible apply Kept.next
    | with_reducible apply Kept.iteOut
    | (with_reducible apply Kept.mk; first | with_reducible assumption | with_reducible apply State.dropLate_kept | with_reducible apply Kept.ite)
    | intro _
    | split

theorem execQbvGateChange_kept (port : Fin 2) {s : State} (hs : Kept sn qs s) :
    nextHas (Kept sn qs) (execQbvGateChange port s) := by
  unfold execQbvGateChange
  try dsimp -iota only
  repeat' first
    | with_reducible assumption
    | with_reducible apply State.modEth_kept
    | with_reducible apply State.gates_kept
    | with_reducible apply Kept.ite
    | with_reducible apply Kept.iteFst
    | exact trivial
    | with_reducible apply Kept.next
    | with_reducible apply Kept.iteOut
    | (with_reducible apply Kept.mk; first | with_reducible assumption | with_reducible apply State.modEth_kept | with_reducible apply State.gates_kept | with_reducible apply Kept.ite)
    | intro _
    | split

theorem State.qbvCommitted_kept {s : State} (p b : Nat) (hs : Kept sn qs s) :
    Kept sn qs (State.qbvCommitted s p b) := by
  unfold State.qbvCommitted
  try dsimp -iota only
  repeat' first
    | with_reducible assumption
    | with_reducible apply State.modEth_kept
    | with_reducible apply Kept.ite
    | with_reducible apply Kept.iteFst
    | (with_reducible apply Kept.mk; first | with_reducible assumption | with_reducible apply State.modEth_kept | with_reducible apply Kept.ite)
    | intro _
    | split

theorem execQbvConfigChange_kept (port : Fin 2) {s : State} (hs : Kept sn qs s) :
    nextHas (Kept sn qs) (execQbvConfigChange port s) := by
  unfold execQbvConfigChange
  try dsimp -iota only
  repeat' first
    | with_reducible assumption
    | with_reducible apply State.modEth_kept
    | with_reducible apply State.gates_kept
    | with_reducible apply Kept.ite
    | with_reducible apply Kept.iteFst
    | exact trivial
    | with_reducible apply Kept.next
    | with_reducible apply Kept.iteOut
    | (with_reducible apply Kept.mk; first | with_reducible assumption | with_reducible apply State.modEth_kept | with_reducible apply State.gates_kept | with_reducible apply Kept.ite)
    | intro _
    | split

theorem State.ethRx_kept {s : State} (p : Nat) (hs : Kept sn qs s) :
    Kept sn qs (State.ethRx s p) := by
  unfold State.ethRx
  try dsimp -iota only
  repeat' first
    | with_reducible assumption
    | with_reducible apply State.bump_kept
    | with_reducible apply Kept.ite
    | with_reducible apply Kept.iteFst
    | (with_reducible apply Kept.mk; first | with_reducible assumption | with_reducible apply State.bump_kept | with_reducible apply Kept.ite)
    | intro _
    | split

theorem execEthFrameInvalid_kept (port : Fin 2) (bad : EthBad) {s : State} (hs : Kept sn qs s) :
    nextHas (Kept sn qs) (execEthFrameInvalid port bad s) := by
  unfold execEthFrameInvalid
  try dsimp -iota only
  repeat' first
    | with_reducible assumption
    | with_reducible apply State.bump_kept
    | with_reducible apply State.ethRx_kept
    | with_reducible apply Kept.ite
    | with_reducible apply Kept.iteFst
    | exact trivial
    | with_reducible apply Kept.next
    | with_reducible apply Kept.iteOut
    | (with_reducible apply Kept.mk; first | with_reducible assumption | with_reducible apply State.bump_kept | with_reducible apply State.ethRx_kept | with_reducible apply Kept.ite)
    | intro _
    | split

theorem execPauseFrameRx_kept (port : Fin 2) {s : State} (hs : Kept sn qs s) :
    nextHas (Kept sn qs) (execPauseFrameRx port s) := by
  unfold execPauseFrameRx
  try dsimp -iota only
  repeat' first
    | with_reducible assumption
    | with_reducible apply State.bump_kept
    | with_reducible apply State.ethRx_kept
    | with_reducible apply Kept.ite
    | with_reducible apply Kept.iteFst
    | exact trivial
    | with_reducible apply Kept.next
    | with_reducible apply Kept.iteOut
    | (with_reducible apply Kept.mk; first | with_reducible assumption | with_reducible apply State.bump_kept | with_reducible apply State.ethRx_kept | with_reducible apply Kept.ite)
    | intro _
    | split

theorem execArpRequestRx_kept (port : Fin 2) (target sender : BitVec 32) (mac : BitVec 48) {s : State} (hs : Kept sn qs s) :
    nextHas (Kept sn qs) (execArpRequestRx port target sender mac s) := by
  unfold execArpRequestRx
  try dsimp -iota only
  repeat' first
    | with_reducible assumption
    | with_reducible apply State.ethPut_kept
    | with_reducible apply State.ethRx_kept
    | with_reducible apply Kept.ite
    | with_reducible apply Kept.iteFst
    | exact trivial
    | with_reducible apply Kept.next
    | with_reducible apply Kept.iteOut
    | (with_reducible apply Kept.mk; first | with_reducible assumption | with_reducible apply State.ethPut_kept | with_reducible apply State.ethRx_kept | with_reducible apply Kept.ite)
    | intro _
    | split

theorem execArpReplyRx_kept (port : Fin 2) (sender : BitVec 32) (mac : BitVec 48) {s : State} (hs : Kept sn qs s) :
    nextHas (Kept sn qs) (execArpReplyRx port sender mac s) := by
  unfold execArpReplyRx
  try dsimp -iota only
  repeat' first
    | with_reducible assumption
    | with_reducible apply State.setEth_kept
    | with_reducible apply State.ethPut_kept
    | with_reducible apply State.ethRx_kept
    | with_reducible apply Kept.ite
    | with_reducible apply Kept.iteFst
    | with_reducible apply Kept.foldlFst
    | with_reducible apply Kept.foldl
    | exact trivial
    | with_reducible apply Kept.next
    | with_reducible apply Kept.iteOut
    | (with_reducible apply Kept.mk; first | with_reducible assumption | with_reducible apply State.setEth_kept | with_reducible apply State.ethPut_kept | with_reducible apply State.ethRx_kept | with_reducible apply Kept.ite)
    | intro _
    | split

theorem execIcmpEchoRx_kept (port : Fin 2) (sender : BitVec 32) (data : List Byte) {s : State} (hs : Kept sn qs s) :
    nextHas (Kept sn qs) (execIcmpEchoRx port sender data s) := by
  unfold execIcmpEchoRx
  try dsimp -iota only
  repeat' first
    | with_reducible assumption
    | with_reducible apply State.modEth_kept
    | with_reducible apply State.ipSend_kept
    | with_reducible apply State.ethRx_kept
    | with_reducible apply Kept.ite
    | with_reducible apply Kept.iteFst
    | exact trivial
    | with_reducible apply Kept.next
    | with_reducible apply Kept.iteOut
    | (with_reducible apply Kept.mk; first | with_reducible assumption | with_reducible apply State.modEth_kept | with_reducible apply State.ipSend_kept | with_reducible apply State.ethRx_kept | with_reducible apply Kept.ite)
    | intro _
    | split

theorem execArpEntryExpiry_kept (port : Fin 2) (addr : BitVec 32) {s : State} (hs : Kept sn qs s) :
    nextHas (Kept sn qs) (execArpEntryExpiry port addr s) := by
  unfold execArpEntryExpiry
  try dsimp -iota only
  repeat' first
    | with_reducible assumption
    | with_reducible apply State.modEth_kept
    | with_reducible apply Kept.ite
    | with_reducible apply Kept.iteFst
    | exact trivial
    | with_reducible apply Kept.next
    | with_reducible apply Kept.iteOut
    | (with_reducible apply Kept.mk; first | with_reducible assumption | with_reducible apply State.modEth_kept | with_reducible apply Kept.ite)
    | intro _
    | split

theorem execArpResolveTimeout_kept (port : Fin 2) (addr : BitVec 32) {s : State} (hs : Kept sn qs s) :
    nextHas (Kept sn qs) (execArpResolveTimeout port addr s) := by
  unfold execArpResolveTimeout
  try dsimp -iota only
  repeat' first
    | with_reducible assumption
    | with_reducible apply State.modEth_kept
    | with_reducible apply State.bumpBy_kept
    | with_reducible apply Kept.ite
    | with_reducible apply Kept.iteFst
    | exact trivial
    | with_reducible apply Kept.next
    | with_reducible apply Kept.iteOut
    | (with_reducible apply Kept.mk; first | with_reducible assumption | with_reducible apply State.modEth_kept | with_reducible apply State.bumpBy_kept | with_reducible apply Kept.ite)
    | intro _
    | split

theorem execFragReassemblyTimeout_kept (port : Fin 2) (buf : Fin 8) {s : State} (hs : Kept sn qs s) :
    nextHas (Kept sn qs) (execFragReassemblyTimeout port buf s) := by
  unfold execFragReassemblyTimeout
  try dsimp -iota only
  repeat' first
    | with_reducible assumption
    | with_reducible apply State.modEth_kept
    | with_reducible apply State.bump_kept
    | with_reducible apply Kept.ite
    | with_reducible apply Kept.iteFst
    | exact trivial
    | with_reducible apply Kept.next
    | with_reducible apply Kept.iteOut
    | (with_reducible apply Kept.mk; first | with_reducible assumption | with_reducible apply State.modEth_kept | with_reducible apply State.bump_kept | with_reducible apply Kept.ite)
    | intro _
    | split

theorem State.ptpRx_kept {s : State} (p : Nat) (h : PtpHeader) (f : State → State) (hs : Kept sn qs s) (hf : ∀ x0, Kept sn qs x0 → Kept sn qs (f x0)) :
    Kept sn qs (State.ptpRx s p h f) := by
  unfold State.ptpRx
  try dsimp -iota only
  repeat' first
    | with_reducible assumption
    | with_reducible apply hf
    | with_reducible apply State.bump_kept
    | with_reducible apply State.ethRx_kept
    | with_reducible apply Kept.ite
    | with_reducible apply Kept.iteFst
    | (with_reducible apply Kept.mk; first | with_reducible assumption | with_reducible apply hf | with_reducible apply State.bump_kept | with_reducible apply State.ethRx_kept | with_reducible apply Kept.ite)
    | intro _
    | split

theorem State.ptpBad_kept {s : State} (p : Nat) (hs : Kept sn qs s) :
    Kept sn qs (State.ptpBad s p) := by
  unfold State.ptpBad
  try dsimp -iota only
  repeat' first
    | with_reducible assumption
    | with_reducible apply State.bump_kept
    | with_reducible apply Kept.ite
    | with_reducible apply Kept.iteFst
    | (with_reducible apply Kept.mk; first | with_reducible assumption | with_reducible apply State.bump_kept | with_reducible apply Kept.ite)
    | intro _
    | split

theorem State.ptpIgnore_kept {s : State} (p : Nat) (hs : Kept sn qs s) :
    Kept sn qs (State.ptpIgnore s p) := by
  unfold State.ptpIgnore
  try dsimp -iota only
  repeat' first
    | with_reducible assumption
    | with_reducible apply State.bump_kept
    | with_reducible apply Kept.ite
    | with_reducible apply Kept.iteFst
    | (with_reducible apply Kept.mk; first | with_reducible assumption | with_reducible apply State.bump_kept | with_reducible apply Kept.ite)
    | intro _
    | split

theorem State.ptpOffset_kept {s : State} (p : Nat) (origin rx : Int) (hs : Kept sn qs s) :
    Kept sn qs (State.ptpOffset s p origin rx) := by
  unfold State.ptpOffset
  try dsimp -iota only
  repeat' first
    | with_reducible assumption
    | with_reducible apply State.timeMeasure_kept
    | with_reducible apply State.modPtp_kept
    | with_reducible apply Kept.ite
    | with_reducible apply Kept.iteFst
    | (with_reducible apply Kept.mk; first | with_reducible assumption | with_reducible apply State.timeMeasure_kept | with_reducible apply State.modPtp_kept | with_reducible apply Kept.ite)
    | intro _
    | split

theorem execPtpSyncRx_kept (port : Fin 2) (h : PtpHeader) (twoStep : Bool) (origin : Nat) (corr : Int) (rx : TdcEdge) {s : State} (hs : Kept sn qs s) :
    nextHas (Kept sn qs) (execPtpSyncRx port h twoStep origin corr rx s) := by
  unfold execPtpSyncRx
  try dsimp -iota only
  repeat' first
    | with_reducible assumption
    | with_reducible apply State.putStamp_kept
    | with_reducible apply State.modPtp_kept
    | with_reducible apply State.ethRx_kept
    | with_reducible apply State.ptpRx_kept
    | with_reducible apply State.ptpOffset_kept
    | with_reducible apply Kept.ite
    | with_reducible apply Kept.iteFst
    | exact trivial
    | with_reducible apply Kept.next
    | with_reducible apply Kept.iteOut
    | (with_reducible apply Kept.mk; first | with_reducible assumption | with_reducible apply State.putStamp_kept | with_reducible apply State.modPtp_kept | with_reducible apply State.ethRx_kept | with_reducible apply State.ptpRx_kept | with_reducible apply State.ptpOffset_kept | with_reducible apply Kept.ite)
    | intro _
    | split

theorem execPtpFollowUpRx_kept (port : Fin 2) (h : PtpHeader) (origin : Nat) (corr : Int) {s : State} (hs : Kept sn qs s) :
    nextHas (Kept sn qs) (execPtpFollowUpRx port h origin corr s) := by
  unfold execPtpFollowUpRx
  try dsimp -iota only
  repeat' first
    | with_reducible assumption
    | with_reducible apply State.modPtp_kept
    | with_reducible apply State.ptpRx_kept
    | with_reducible apply State.ptpBad_kept
    | with_reducible apply State.ptpOffset_kept
    | with_reducible apply Kept.ite
    | with_reducible apply Kept.iteFst
    | exact trivial
    | with_reducible apply Kept.next
    | with_reducible apply Kept.iteOut
    | (with_reducible apply Kept.mk; first | with_reducible assumption | with_reducible apply State.modPtp_kept | with_reducible apply State.ptpRx_kept | with_reducible apply State.ptpBad_kept | with_reducible apply State.ptpOffset_kept | with_reducible apply Kept.ite)
    | intro _
    | split

theorem execPtpPdelayReqRx_kept (port : Fin 2) (h : PtpHeader) (rx : TdcEdge) (cyc : Fin 100) (tx : TdcEdge) {s : State} (hs : Kept sn qs s) :
    nextHas (Kept sn qs) (execPtpPdelayReqRx port h rx cyc tx s) := by
  unfold execPtpPdelayReqRx
  try dsimp -iota only
  repeat' first
    | with_reducible assumption
    | with_reducible apply State.putStamp_kept
    | with_reducible apply State.checkTx_kept
    | with_reducible apply State.ethDepart_kept
    | with_reducible apply State.ethRx_kept
    | with_reducible apply State.ptpRx_kept
    | with_reducible apply State.ptpIgnore_kept
    | with_reducible apply Kept.ite
    | with_reducible apply Kept.iteFst
    | exact trivial
    | with_reducible apply Kept.next
    | with_reducible apply Kept.iteOut
    | (with_reducible apply Kept.mk; first | with_reducible assumption | with_reducible apply State.putStamp_kept | with_reducible apply State.checkTx_kept | with_reducible apply State.ethDepart_kept | with_reducible apply State.ethRx_kept | with_reducible apply State.ptpRx_kept | with_reducible apply State.ptpIgnore_kept | with_reducible apply Kept.ite)
    | intro _
    | split

theorem State.ptpDelay_kept {s : State} (p : Nat) (d : Int) (capable : Bool) (hs : Kept sn qs s) :
    Kept sn qs (State.ptpDelay s p d capable) := by
  unfold State.ptpDelay
  try dsimp -iota only
  repeat' first
    | with_reducible assumption
    | with_reducible apply State.modPtp_kept
    | with_reducible apply State.followTime_kept
    | with_reducible apply Kept.ite
    | with_reducible apply Kept.iteFst
    | (with_reducible apply Kept.mk; first | with_reducible assumption | with_reducible apply State.modPtp_kept | with_reducible apply State.followTime_kept | with_reducible apply Kept.ite)
    | intro _
    | split

theorem execPtpPdelayRespRx_kept (port : Fin 2) (h : PtpHeader) (twoStep : Bool) (t2 : Nat) (corr : Int) (rx : TdcEdge) {s : State} (hs : Kept sn qs s) :
    nextHas (Kept sn qs) (execPtpPdelayRespRx port h twoStep t2 corr rx s) := by
  unfold execPtpPdelayRespRx
  try dsimp -iota only
  repeat' first
    | with_reducible assumption
    | with_reducible apply State.putStamp_kept
    | with_reducible apply State.modPtp_kept
    | with_reducible apply State.ethRx_kept
    | with_reducible apply State.ptpRx_kept
    | with_reducible apply State.ptpBad_kept
    | with_reducible apply State.ptpIgnore_kept
    | with_reducible apply State.ptpDelay_kept
    | with_reducible apply Kept.ite
    | with_reducible apply Kept.iteFst
    | exact trivial
    | with_reducible apply Kept.next
    | with_reducible apply Kept.iteOut
    | (with_reducible apply Kept.mk; first | with_reducible assumption | with_reducible apply State.putStamp_kept | with_reducible apply State.modPtp_kept | with_reducible apply State.ethRx_kept | with_reducible apply State.ptpRx_kept | with_reducible apply State.ptpBad_kept | with_reducible apply State.ptpIgnore_kept | with_reducible apply State.ptpDelay_kept | with_reducible apply Kept.ite)
    | intro _
    | split

theorem execPtpPdelayRespFollowUpRx_kept (port : Fin 2) (h : PtpHeader) (t3 : Nat) (corr : Int) {s : State} (hs : Kept sn qs s) :
    nextHas (Kept sn qs) (execPtpPdelayRespFollowUpRx port h t3 corr s) := by
  unfold execPtpPdelayRespFollowUpRx
  try dsimp -iota only
  repeat' first
    | with_reducible assumption
    | with_reducible apply State.ptpRx_kept
    | with_reducible apply State.ptpBad_kept
    | with_reducible apply State.ptpIgnore_kept
    | with_reducible apply State.ptpDelay_kept
    | with_reducible apply Kept.ite
    | with_reducible apply Kept.iteFst
    | exact trivial
    | with_reducible apply Kept.next
    | with_reducible apply Kept.iteOut
    | (with_reducible apply Kept.mk; first | with_reducible assumption | with_reducible apply State.ptpRx_kept | with_reducible apply State.ptpBad_kept | with_reducible apply State.ptpIgnore_kept | with_reducible apply State.ptpDelay_kept | with_reducible apply Kept.ite)
    | intro _
    | split

theorem execPtpDelayRespRx_kept (port : Fin 2) (h : PtpHeader) (rxTime : Nat) (corr : Int) {s : State} (hs : Kept sn qs s) :
    nextHas (Kept sn qs) (execPtpDelayRespRx port h rxTime corr s) := by
  unfold execPtpDelayRespRx
  try dsimp -iota only
  repeat' first
    | with_reducible assumption
    | with_reducible apply State.ptpRx_kept
    | with_reducible apply State.ptpBad_kept
    | with_reducible apply State.ptpDelay_kept
    | with_reducible apply Kept.ite
    | with_reducible apply Kept.iteFst
    | exact trivial
    | with_reducible apply Kept.next
    | with_reducible apply Kept.iteOut
    | (with_reducible apply Kept.mk; first | with_reducible assumption | with_reducible apply State.ptpRx_kept | with_reducible apply State.ptpBad_kept | with_reducible apply State.ptpDelay_kept | with_reducible apply Kept.ite)
    | intro _
    | split

theorem State.countWin_kept {s : State} (p : Nat) (hs : Kept sn qs s) :
    Kept sn qs (State.countWin s p) := by
  unfold State.countWin
  try dsimp -iota only
  repeat' first
    | with_reducible assumption
    | with_reducible apply State.modPtp_kept
    | with_reducible apply Kept.ite
    | with_reducible apply Kept.iteFst
    | (with_reducible apply Kept.mk; first | with_reducible assumption | with_reducible apply State.modPtp_kept | with_reducible apply Kept.ite)
    | intro _
    | split

theorem execPtpAnnounceRx_kept (port : Fin 2) (h : PtpHeader) (a : Announce) {s : State} (hs : Kept sn qs s) :
    nextHas (Kept sn qs) (execPtpAnnounceRx port h a s) := by
  unfold execPtpAnnounceRx
  try dsimp -iota only
  repeat' first
    | with_reducible assumption
    | with_reducible apply State.modPtp_kept
    | with_reducible apply State.followTime_kept
    | with_reducible apply State.ptpRx_kept
    | with_reducible apply State.countWin_kept
    | with_reducible apply Kept.ite
    | with_reducible apply Kept.iteFst
    | with_reducible apply Kept.foldlFst
    | with_reducible apply Kept.foldl
    | exact trivial
    | with_reducible apply Kept.next
    | with_reducible apply Kept.iteOut
    | (with_reducible apply Kept.mk; first | with_reducible assumption | with_reducible apply State.modPtp_kept | with_reducible apply State.followTime_kept | with_reducible apply State.ptpRx_kept | with_reducible apply State.countWin_kept | with_reducible apply Kept.ite)
    | intro _
    | split

theorem execPtpIgnoredRx_kept (port : Fin 2) (bad : Bool) {s : State} (hs : Kept sn qs s) :
    nextHas (Kept sn qs) (execPtpIgnoredRx port bad s) := by
  unfold execPtpIgnoredRx
  try dsimp -iota only
  repeat' first
    | with_reducible assumption
    | with_reducible apply State.ethRx_kept
    | with_reducible apply State.ptpBad_kept
    | with_reducible apply State.ptpIgnore_kept
    | with_reducible apply Kept.ite
    | with_reducible apply Kept.iteFst
    | exact trivial
    | with_reducible apply Kept.next
    | with_reducible apply Kept.iteOut
    | (with_reducible apply Kept.mk; first | with_reducible assumption | with_reducible apply State.ethRx_kept | with_reducible apply State.ptpBad_kept | with_reducible apply State.ptpIgnore_kept | with_reducible apply Kept.ite)
    | intro _
    | split

theorem execPtpAnnounceTimeout_kept (port : Fin 2) {s : State} (hs : Kept sn qs s) :
    nextHas (Kept sn qs) (execPtpAnnounceTimeout port s) := by
  unfold execPtpAnnounceTimeout
  try dsimp -iota only
  repeat' first
    | with_reducible assumption
    | with_reducible apply State.modPtp_kept
    | with_reducible apply State.followTime_kept
    | with_reducible apply Kept.ite
    | with_reducible apply Kept.iteFst
    | exact trivial
    | with_reducible apply Kept.next
    | with_reducible apply Kept.iteOut
    | (with_reducible apply Kept.mk; first | with_reducible assumption | with_reducible apply State.modPtp_kept | with_reducible apply State.followTime_kept | with_reducible apply Kept.ite)
    | intro _
    | split

theorem execPtpDelayReqSend_kept (port : Fin 2) (cyc : Fin 100) (tx : TdcEdge) {s : State} (hs : Kept sn qs s) :
    nextHas (Kept sn qs) (execPtpDelayReqSend port cyc tx s) := by
  unfold execPtpDelayReqSend
  try dsimp -iota only
  repeat' first
    | with_reducible assumption
    | with_reducible apply State.putStamp_kept
    | with_reducible apply State.checkTx_kept
    | with_reducible apply State.modPtp_kept
    | with_reducible apply State.ethDepart_kept
    | with_reducible apply Kept.ite
    | with_reducible apply Kept.iteFst
    | exact trivial
    | with_reducible apply Kept.next
    | with_reducible apply Kept.iteOut
    | (with_reducible apply Kept.mk; first | with_reducible assumption | with_reducible apply State.putStamp_kept | with_reducible apply State.checkTx_kept | with_reducible apply State.modPtp_kept | with_reducible apply State.ethDepart_kept | with_reducible apply Kept.ite)
    | intro _
    | split

theorem State.ethLink_kept {s : State} (p : Nat) (up : Bool) (hs : Kept sn qs s) :
    Kept sn qs (State.ethLink s p up) := by
  unfold State.ethLink
  try dsimp -iota only
  repeat' first
    | with_reducible assumption
    | with_reducible apply State.modEth_kept
    | with_reducible apply State.modPtp_kept
    | with_reducible apply State.followTime_kept
    | with_reducible apply Kept.ite
    | with_reducible apply Kept.iteFst
    | (with_reducible apply Kept.mk; first | with_reducible assumption | with_reducible apply State.modEth_kept | with_reducible apply State.modPtp_kept | with_reducible apply State.followTime_kept | with_reducible apply Kept.ite)
    | intro _
    | split

theorem execEthLinkChange_kept (port : Fin 2) (up : Bool) {s : State} (hs : Kept sn qs s) :
    nextHas (Kept sn qs) (execEthLinkChange port up s) := by
  unfold execEthLinkChange
  try dsimp -iota only
  repeat' first
    | with_reducible assumption
    | with_reducible apply State.ethLink_kept
    | with_reducible apply Kept.ite
    | with_reducible apply Kept.iteFst
    | exact trivial
    | with_reducible apply Kept.next
    | with_reducible apply Kept.iteOut
    | (with_reducible apply Kept.mk; first | with_reducible assumption | with_reducible apply State.ethLink_kept | with_reducible apply Kept.ite)
    | intro _
    | split

theorem execSafeFrameHandover_kept (port : Fin 2) (bytes : List Byte) (rx : TdcEdge) {s : State} (hs : Kept sn qs s) :
    nextHas (Kept sn qs) (execSafeFrameHandover port bytes rx s) := by
  unfold execSafeFrameHandover
  try dsimp -iota only
  repeat' first
    | with_reducible assumption
    | with_reducible apply State.modSafety_kept
    | with_reducible apply State.putStamp_kept
    | with_reducible apply State.ethRx_kept
    | with_reducible apply Kept.ite
    | with_reducible apply Kept.iteFst
    | exact trivial
    | with_reducible apply Kept.next
    | with_reducible apply Kept.iteOut
    | (with_reducible apply Kept.mk; first | with_reducible assumption | with_reducible apply State.modSafety_kept | with_reducible apply State.putStamp_kept | with_reducible apply State.ethRx_kept | with_reducible apply Kept.ite)
    | intro _
    | split

theorem State.safeCopy_kept {s : State} (p conn : Nat) (ip : BitVec 32) (bytes : List Byte) (hs : Kept sn qs s) :
    Kept sn qs (State.safeCopy s p conn ip bytes) := by
  unfold State.safeCopy
  try dsimp -iota only
  repeat' first
    | with_reducible assumption
    | with_reducible apply State.bump_kept
    | with_reducible apply State.udpOut_kept
    | with_reducible apply Kept.ite
    | with_reducible apply Kept.iteFst
    | (with_reducible apply Kept.mk; first | with_reducible assumption | with_reducible apply State.bump_kept | with_reducible apply State.udpOut_kept | with_reducible apply Kept.ite)
    | intro _
    | split

theorem State.sendSafe_kept {s : State} (conn : Nat) (bytes : List Byte) (hs : Kept sn qs s) :
    Kept sn qs (State.sendSafe s conn bytes) := by
  unfold State.sendSafe
  try dsimp -iota only
  repeat' first
    | with_reducible assumption
    | with_reducible apply State.bump_kept
    | with_reducible apply State.fabSend_kept
    | with_reducible apply State.safeCopy_kept
    | with_reducible apply Kept.ite
    | with_reducible apply Kept.iteFst
    | (with_reducible apply Kept.mk; first | with_reducible assumption | with_reducible apply State.bump_kept | with_reducible apply State.fabSend_kept | with_reducible apply State.safeCopy_kept | with_reducible apply Kept.ite)
    | intro _
    | split

theorem execSafeFrameTx_kept (conn : Fin 64) (bytes : List Byte) {s : State} (hs : Kept sn qs s) :
    nextHas (Kept sn qs) (execSafeFrameTx conn bytes s) := by
  unfold execSafeFrameTx
  try dsimp -iota only
  repeat' first
    | with_reducible assumption
    | with_reducible apply State.modSafety_kept
    | with_reducible apply State.sendSafe_kept
    | with_reducible apply Kept.ite
    | with_reducible apply Kept.iteFst
    | exact trivial
    | with_reducible apply Kept.next
    | with_reducible apply Kept.iteOut
    | (with_reducible apply Kept.mk; first | with_reducible assumption | with_reducible apply State.modSafety_kept | with_reducible apply State.sendSafe_kept | with_reducible apply Kept.ite)
    | intro _
    | split

theorem execRelayRx_kept (src : Fin 4096) (ethPort : Fin 2) (returned : Bool) (addr : BitVec 32) (udp : BitVec 16) (data : List Byte) {s : State} (hs : Kept sn qs s) :
    nextHas (Kept sn qs) (execRelayRx src ethPort returned addr udp data s) := by
  unfold execRelayRx
  try dsimp -iota only
  repeat' first
    | with_reducible assumption
    | with_reducible apply State.udpOut_kept
    | with_reducible apply Kept.ite
    | with_reducible apply Kept.iteFst
    | exact trivial
    | with_reducible apply Kept.next
    | with_reducible apply Kept.iteOut
    | (with_reducible apply Kept.mk; first | with_reducible assumption | with_reducible apply State.udpOut_kept | with_reducible apply Kept.ite)
    | intro _
    | split

theorem execRelayDatagramRx_kept (port : Fin 2) (addr : BitVec 32) (udp : BitVec 16) (data : List Byte) {s : State} (hs : Kept sn qs s) :
    nextHas (Kept sn qs) (execRelayDatagramRx port addr udp data s) := by
  unfold execRelayDatagramRx
  try dsimp -iota only
  repeat' first
    | with_reducible assumption
    | with_reducible apply State.bump_kept
    | with_reducible apply State.fabSend_kept
    | with_reducible apply State.ethRx_kept
    | with_reducible apply Kept.ite
    | with_reducible apply Kept.iteFst
    | exact trivial
    | with_reducible apply Kept.next
    | with_reducible apply Kept.iteOut
    | (with_reducible apply Kept.mk; first | with_reducible assumption | with_reducible apply State.bump_kept | with_reducible apply State.fabSend_kept | with_reducible apply State.ethRx_kept | with_reducible apply Kept.ite)
    | intro _
    | split

end Sys2Proof.Machine
end

