-- ==== Sys2Proof/Laws/KeptCan.lean ====
section
/-! SUPPORT. Every operation of Machine/Can.lean keeps the queue and the soundness of the state. -/

set_option linter.all false
namespace Sys2Proof.Machine

variable {sn : Bool} {qs : List Instr}

theorem State.canQuiet_kept {s : State} (c : Nat) (st : CanState) (hs : Kept sn qs s) :
    Kept sn qs (State.canQuiet s c st) := by
  unfold State.canQuiet
  try dsimp -iota only
  repeat' first
    | with_reducible assumption
    | with_reducible apply State.modCan_kept
    | with_reducible apply State.bump_kept
    | with_reducible apply State.finish_kept
    | with_reducible apply Kept.ite
    | with_reducible apply Kept.iteFst
    | with_reducible apply Kept.foldl
    | (with_reducible apply Kept.mk; first | with_reducible assumption | with_reducible apply State.modCan_kept | with_reducible apply State.bump_kept | with_reducible apply State.finish_kept | with_reducible apply Kept.ite)
    | intro _
    | split

theorem State.canApplyMode_kept {s : State} (c : Nat) (running : Bool) (hs : Kept sn qs s) :
    Kept sn qs (State.canApplyMode s c running) := by
  unfold State.canApplyMode
  try dsimp -iota only
  repeat' first
    | with_reducible assumption
    | with_reducible apply State.modCan_kept
    | with_reducible apply State.canQuiet_kept
    | with_reducible apply Kept.ite
    | with_reducible apply Kept.iteFst
    | (with_reducible apply Kept.mk; first | with_reducible assumption | with_reducible apply State.modCan_kept | with_reducible apply State.canQuiet_kept | with_reducible apply Kept.ite)
    | intro _
    | split

theorem execCanSend_kept (ref : CmdRef) (ep buf : BitVec 16) (fr : CanFrame) (at_ : Option Ft) {s : State} (hs : Kept sn qs s) :
    nextHas (Kept sn qs) (execCanSend ref ep buf fr at_ s) := by
  unfold execCanSend
  try dsimp -iota only
  repeat' first
    | with_reducible assumption
    | with_reducible apply State.modCan_kept
    | with_reducible apply State.run_kept
    | with_reducible apply State.execCmd_kept
    | with_reducible apply State.checked_kept
    | with_reducible apply State.ahead_kept
    | with_reducible apply Kept.ite
    | with_reducible apply Kept.iteFst
    | exact trivial
    | with_reducible apply Kept.next
    | with_reducible apply Kept.iteOut
    | (with_reducible apply Kept.mk; first | with_reducible assumption | with_reducible apply State.modCan_kept | with_reducible apply State.run_kept | with_reducible apply State.execCmd_kept | with_reducible apply State.checked_kept | with_reducible apply State.ahead_kept | with_reducible apply Kept.ite)
    | intro _
    | split

theorem execCanCancel_kept (ref : CmdRef) (ep buf : BitVec 16) {s : State} (hs : Kept sn qs s) :
    nextHas (Kept sn qs) (execCanCancel ref ep buf s) := by
  unfold execCanCancel
  try dsimp -iota only
  repeat' first
    | with_reducible assumption
    | with_reducible apply State.setCan_kept
    | with_reducible apply State.bump_kept
    | with_reducible apply State.finish_kept
    | with_reducible apply State.ok_kept
    | with_reducible apply State.finishOpt_kept
    | with_reducible apply State.execCmd_kept
    | with_reducible apply Kept.ite
    | with_reducible apply Kept.iteFst
    | exact trivial
    | with_reducible apply Kept.next
    | with_reducible apply Kept.iteOut
    | (with_reducible apply Kept.mk; first | with_reducible assumption | with_reducible apply State.setCan_kept | with_reducible apply State.bump_kept | with_reducible apply State.finish_kept | with_reducible apply State.ok_kept | with_reducible apply State.finishOpt_kept | with_reducible apply State.execCmd_kept | with_reducible apply Kept.ite)
    | intro _
    | split

theorem execCanRead_kept (ref : CmdRef) (ep : BitVec 16) (max : Byte) {s : State} (hs : Kept sn qs s) :
    nextHas (Kept sn qs) (execCanRead ref ep max s) := by
  unfold execCanRead
  try dsimp -iota only
  repeat' first
    | with_reducible assumption
    | with_reducible apply State.modCan_kept
    | with_reducible apply State.ok_kept
    | with_reducible apply State.execCmd_kept
    | with_reducible apply State.checked_kept
    | with_reducible apply Kept.ite
    | with_reducible apply Kept.iteFst
    | exact trivial
    | with_reducible apply Kept.next
    | with_reducible apply Kept.iteOut
    | (with_reducible apply Kept.mk; first | with_reducible assumption | with_reducible apply State.modCan_kept | with_reducible apply State.ok_kept | with_reducible apply State.execCmd_kept | with_reducible apply State.checked_kept | with_reducible apply Kept.ite)
    | intro _
    | split

theorem execCanArbitration_kept (ch : Fin 4) {s : State} (hs : Kept sn qs s) :
    nextHas (Kept sn qs) (execCanArbitration ch s) := by
  unfold execCanArbitration
  try dsimp -iota only
  repeat' first
    | with_reducible assumption
    | with_reducible apply State.modCan_kept
    | with_reducible apply Kept.ite
    | with_reducible apply Kept.iteFst
    | exact trivial
    | with_reducible apply Kept.next
    | with_reducible apply Kept.iteOut
    | (with_reducible apply Kept.mk; first | with_reducible assumption | with_reducible apply State.modCan_kept | with_reducible apply Kept.ite)
    | intro _
    | split

theorem execCanTxDone_kept (ch : Fin 4) (sof : Ft8) {s : State} (hs : Kept sn qs s) :
    nextHas (Kept sn qs) (execCanTxDone ch sof s) := by
  unfold execCanTxDone
  try dsimp -iota only
  repeat' first
    | with_reducible assumption
    | with_reducible apply State.setCan_kept
    | with_reducible apply State.bump_kept
    | with_reducible apply State.ok_kept
    | with_reducible apply State.finishOpt_kept
    | with_reducible apply Kept.ite
    | with_reducible apply Kept.iteFst
    | exact trivial
    | with_reducible apply Kept.next
    | with_reducible apply Kept.iteOut
    | (with_reducible apply Kept.mk; first | with_reducible assumption | with_reducible apply State.setCan_kept | with_reducible apply State.bump_kept | with_reducible apply State.ok_kept | with_reducible apply State.finishOpt_kept | with_reducible apply Kept.ite)
    | intro _
    | split

theorem execCanArbLost_kept (ch : Fin 4) {s : State} (hs : Kept sn qs s) :
    nextHas (Kept sn qs) (execCanArbLost ch s) := by
  unfold execCanArbLost
  try dsimp -iota only
  repeat' first
    | with_reducible assumption
    | with_reducible apply State.modCan_kept
    | with_reducible apply State.bump_kept
    | with_reducible apply Kept.ite
    | with_reducible apply Kept.iteFst
    | exact trivial
    | with_reducible apply Kept.next
    | with_reducible apply Kept.iteOut
    | (with_reducible apply Kept.mk; first | with_reducible assumption | with_reducible apply State.modCan_kept | with_reducible apply State.bump_kept | with_reducible apply Kept.ite)
    | intro _
    | split

theorem State.canCollision_kept {s : State} (c : Nat) (id : Nat) (hs : Kept sn qs s) :
    Kept sn qs (State.canCollision s c id) := by
  unfold State.canCollision
  try dsimp -iota only
  repeat' first
    | with_reducible assumption
    | with_reducible apply State.modCan_kept
    | with_reducible apply State.bump_kept
    | with_reducible apply State.logFull_kept
    | with_reducible apply Kept.ite
    | with_reducible apply Kept.iteFst
    | (with_reducible apply Kept.mk; first | with_reducible assumption | with_reducible apply State.modCan_kept | with_reducible apply State.bump_kept | with_reducible apply State.logFull_kept | with_reducible apply Kept.ite)
    | intro _
    | split

theorem execCanError_kept (ch : Fin 4) (err : CanErr) (site : CanErrSite) {s : State} (hs : Kept sn qs s) :
    nextHas (Kept sn qs) (execCanError ch err site s) := by
  unfold execCanError
  try dsimp -iota only
  repeat' first
    | with_reducible assumption
    | with_reducible apply State.modCan_kept
    | with_reducible apply State.bump_kept
    | with_reducible apply State.log_kept
    | with_reducible apply State.canCollision_kept
    | with_reducible apply Kept.ite
    | with_reducible apply Kept.iteFst
    | exact trivial
    | with_reducible apply Kept.next
    | with_reducible apply Kept.iteOut
    | (with_reducible apply Kept.mk; first | with_reducible assumption | with_reducible apply State.modCan_kept | with_reducible apply State.bump_kept | with_reducible apply State.log_kept | with_reducible apply State.canCollision_kept | with_reducible apply Kept.ite)
    | intro _
    | split

theorem execCanBusOffRecovery_kept (ch : Fin 4) {s : State} (hs : Kept sn qs s) :
    nextHas (Kept sn qs) (execCanBusOffRecovery ch s) := by
  unfold execCanBusOffRecovery
  try dsimp -iota only
  repeat' first
    | with_reducible assumption
    | with_reducible apply State.modCan_kept
    | with_reducible apply State.log_kept
    | with_reducible apply Kept.ite
    | with_reducible apply Kept.iteFst
    | exact trivial
    | with_reducible apply Kept.next
    | with_reducible apply Kept.iteOut
    | (with_reducible apply Kept.mk; first | with_reducible assumption | with_reducible apply State.modCan_kept | with_reducible apply State.log_kept | with_reducible apply Kept.ite)
    | intro _
    | split

theorem execCanFrameRx_kept (ch : Fin 4) (fr : CanFrame) (remote esi : Bool) (sof : Ft8) {s : State} (hs : Kept sn qs s) :
    nextHas (Kept sn qs) (execCanFrameRx ch fr remote esi sof s) := by
  unfold execCanFrameRx
  try dsimp -iota only
  repeat' first
    | with_reducible assumption
    | with_reducible apply State.modCan_kept
    | with_reducible apply State.took_kept
    | with_reducible apply State.bump_kept
    | with_reducible apply Kept.ite
    | with_reducible apply Kept.iteFst
    | exact trivial
    | with_reducible apply Kept.next
    | with_reducible apply Kept.iteOut
    | (with_reducible apply Kept.mk; first | with_reducible assumption | with_reducible apply State.modCan_kept | with_reducible apply State.took_kept | with_reducible apply State.bump_kept | with_reducible apply Kept.ite)
    | intro _
    | split

end Sys2Proof.Machine
end

