-- ==== Sys2Proof/Laws/KeptFio.lean ====
section
/-! SUPPORT. Every operation of Machine/Fio.lean keeps the queue and the soundness of the state. -/

set_option linter.all false
namespace Sys2Proof.Machine

variable {sn : Bool} {qs : List Instr}

theorem State.modIn_kept {s : State} (i : Nat) (g : FieldIn → FieldIn) (hs : Kept sn qs s) :
    Kept sn qs (State.modIn s i g) := by
  unfold State.modIn
  try dsimp -iota only
  repeat' first
    | with_reducible assumption
    | with_reducible apply State.modFio_kept
    | with_reducible apply Kept.ite
    | with_reducible apply Kept.iteFst
    | (with_reducible apply Kept.mk; first | with_reducible assumption | with_reducible apply State.modFio_kept | with_reducible apply Kept.ite)
    | intro _
    | split

theorem State.modLatch_kept {s : State} (i : Nat) (g : FieldIn → FieldIn) (hs : Kept sn qs s) :
    Kept sn qs (State.modLatch s i g) := by
  unfold State.modLatch
  try dsimp -iota only
  repeat' first
    | with_reducible assumption
    | with_reducible apply State.modFio_kept
    | with_reducible apply Kept.ite
    | with_reducible apply Kept.iteFst
    | (with_reducible apply Kept.mk; first | with_reducible assumption | with_reducible apply State.modFio_kept | with_reducible apply Kept.ite)
    | intro _
    | split

theorem State.modOut_kept {s : State} (o : Nat) (g : FieldOut → FieldOut) (hs : Kept sn qs s) :
    Kept sn qs (State.modOut s o g) := by
  unfold State.modOut
  try dsimp -iota only
  repeat' first
    | with_reducible assumption
    | with_reducible apply State.modFio_kept
    | with_reducible apply Kept.ite
    | with_reducible apply Kept.iteFst
    | (with_reducible apply Kept.mk; first | with_reducible assumption | with_reducible apply State.modFio_kept | with_reducible apply Kept.ite)
    | intro _
    | split

theorem State.modSupply_kept {s : State} (g : Nat) (h : SupplyGroup → SupplyGroup) (hs : Kept sn qs s) :
    Kept sn qs (State.modSupply s g h) := by
  unfold State.modSupply
  try dsimp -iota only
  repeat' first
    | with_reducible assumption
    | with_reducible apply State.modFio_kept
    | with_reducible apply Kept.ite
    | with_reducible apply Kept.iteFst
    | (with_reducible apply Kept.mk; first | with_reducible assumption | with_reducible apply State.modFio_kept | with_reducible apply Kept.ite)
    | intro _
    | split

theorem State.modDie_kept {s : State} (d : Nat) (g : FioDie → FioDie) (hs : Kept sn qs s) :
    Kept sn qs (State.modDie s d g) := by
  unfold State.modDie
  try dsimp -iota only
  repeat' first
    | with_reducible assumption
    | with_reducible apply State.modFio_kept
    | with_reducible apply Kept.ite
    | with_reducible apply Kept.iteFst
    | (with_reducible apply Kept.mk; first | with_reducible assumption | with_reducible apply State.modFio_kept | with_reducible apply Kept.ite)
    | intro _
    | split

theorem execFieldInputDebounced_kept (input : Fin 64) (level : Bool) (count : BitVec 32) {s : State} (hs : Kept sn qs s) :
    nextHas (Kept sn qs) (execFieldInputDebounced input level count s) := by
  unfold execFieldInputDebounced
  try dsimp -iota only
  repeat' first
    | with_reducible assumption
    | with_reducible apply State.bump_kept
    | with_reducible apply State.modIn_kept
    | with_reducible apply Kept.ite
    | with_reducible apply Kept.iteFst
    | exact trivial
    | with_reducible apply Kept.next
    | with_reducible apply Kept.iteOut
    | (with_reducible apply Kept.mk; first | with_reducible assumption | with_reducible apply State.bump_kept | with_reducible apply State.modIn_kept | with_reducible apply Kept.ite)
    | intro _
    | split

theorem execFastLatchEdge_kept (input : Fin 16) (level : Bool) (cycles : Fin 100) (frac : Fin 256) {s : State} (hs : Kept sn qs s) :
    nextHas (Kept sn qs) (execFastLatchEdge input level cycles frac s) := by
  unfold execFastLatchEdge
  try dsimp -iota only
  repeat' first
    | with_reducible assumption
    | with_reducible apply State.modTdc_kept
    | with_reducible apply State.bump_kept
    | with_reducible apply State.modLatch_kept
    | with_reducible apply Kept.ite
    | with_reducible apply Kept.iteFst
    | exact trivial
    | with_reducible apply Kept.next
    | with_reducible apply Kept.iteOut
    | (with_reducible apply Kept.mk; first | with_reducible assumption | with_reducible apply State.modTdc_kept | with_reducible apply State.bump_kept | with_reducible apply State.modLatch_kept | with_reducible apply Kept.ite)
    | intro _
    | split

theorem execFastLatchDebounced_kept (input : Fin 16) (level : Bool) (_stamp : Held) {s : State} (hs : Kept sn qs s) :
    nextHas (Kept sn qs) (execFastLatchDebounced input level _stamp s) := by
  unfold execFastLatchDebounced
  try dsimp -iota only
  repeat' first
    | with_reducible assumption
    | with_reducible apply State.modLatch_kept
    | with_reducible apply Kept.ite
    | with_reducible apply Kept.iteFst
    | exact trivial
    | with_reducible apply Kept.next
    | with_reducible apply Kept.iteOut
    | (with_reducible apply Kept.mk; first | with_reducible assumption | with_reducible apply State.modLatch_kept | with_reducible apply Kept.ite)
    | intro _
    | split

theorem State.takeChange_kept {s : State} (die : Fin 2) (r : FioReport) (i : Nat) (hs : Kept sn qs s) :
    Kept sn qs (State.takeChange s die r i) := by
  unfold State.takeChange
  try dsimp -iota only
  repeat' first
    | with_reducible assumption
    | with_reducible apply State.inputChanged_kept
    | with_reducible apply State.modIn_kept
    | with_reducible apply Kept.ite
    | with_reducible apply Kept.iteFst
    | (with_reducible apply Kept.mk; first | with_reducible assumption | with_reducible apply State.inputChanged_kept | with_reducible apply State.modIn_kept | with_reducible apply Kept.ite)
    | intro _
    | split

theorem State.takeReport_kept {s : State} (die : Fin 2) (r : FioReport) (hs : Kept sn qs s) :
    Kept sn qs (State.takeReport s die r) := by
  unfold State.takeReport
  try dsimp -iota only
  repeat' first
    | with_reducible assumption
    | with_reducible apply State.modIn_kept
    | with_reducible apply State.modLatch_kept
    | with_reducible apply State.takeChange_kept
    | with_reducible apply Kept.ite
    | with_reducible apply Kept.iteFst
    | with_reducible apply Kept.foldl
    | (with_reducible apply Kept.mk; first | with_reducible assumption | with_reducible apply State.modIn_kept | with_reducible apply State.modLatch_kept | with_reducible apply State.takeChange_kept | with_reducible apply Kept.ite)
    | intro _
    | split

theorem execFioReportRx_kept (die : Fin 2) (r : FioReport) {s : State} (hs : Kept sn qs s) :
    nextHas (Kept sn qs) (execFioReportRx die r s) := by
  unfold execFioReportRx
  try dsimp -iota only
  repeat' first
    | with_reducible assumption
    | with_reducible apply State.bump_kept
    | with_reducible apply State.log_kept
    | with_reducible apply State.modDie_kept
    | with_reducible apply State.takeReport_kept
    | with_reducible apply Kept.ite
    | with_reducible apply Kept.iteFst
    | exact trivial
    | with_reducible apply Kept.next
    | with_reducible apply Kept.iteOut
    | (with_reducible apply Kept.mk; first | with_reducible assumption | with_reducible apply State.bump_kept | with_reducible apply State.log_kept | with_reducible apply State.modDie_kept | with_reducible apply State.takeReport_kept | with_reducible apply Kept.ite)
    | intro _
    | split

theorem execFioStaleTimeout_kept (die : Fin 2) {s : State} (hs : Kept sn qs s) :
    nextHas (Kept sn qs) (execFioStaleTimeout die s) := by
  unfold execFioStaleTimeout
  try dsimp -iota only
  repeat' first
    | with_reducible assumption
    | with_reducible apply State.modDie_kept
    | with_reducible apply Kept.ite
    | with_reducible apply Kept.iteFst
    | exact trivial
    | with_reducible apply Kept.next
    | with_reducible apply Kept.iteOut
    | (with_reducible apply Kept.mk; first | with_reducible assumption | with_reducible apply State.modDie_kept | with_reducible apply Kept.ite)
    | intro _
    | split

theorem execWireBreakSet_kept (input : Fin 64) {s : State} (hs : Kept sn qs s) :
    nextHas (Kept sn qs) (execWireBreakSet input s) := by
  unfold execWireBreakSet
  try dsimp -iota only
  repeat' first
    | with_reducible assumption
    | with_reducible apply State.bump_kept
    | with_reducible apply State.log_kept
    | with_reducible apply State.modIn_kept
    | with_reducible apply Kept.ite
    | with_reducible apply Kept.iteFst
    | exact trivial
    | with_reducible apply Kept.next
    | with_reducible apply Kept.iteOut
    | (with_reducible apply Kept.mk; first | with_reducible assumption | with_reducible apply State.bump_kept | with_reducible apply State.log_kept | with_reducible apply State.modIn_kept | with_reducible apply Kept.ite)
    | intro _
    | split

theorem execWireBreakClear_kept (input : Fin 64) {s : State} (hs : Kept sn qs s) :
    nextHas (Kept sn qs) (execWireBreakClear input s) := by
  unfold execWireBreakClear
  try dsimp -iota only
  repeat' first
    | with_reducible assumption
    | with_reducible apply State.log_kept
    | with_reducible apply State.modIn_kept
    | with_reducible apply Kept.ite
    | with_reducible apply Kept.iteFst
    | exact trivial
    | with_reducible apply Kept.next
    | with_reducible apply Kept.iteOut
    | (with_reducible apply Kept.mk; first | with_reducible assumption | with_reducible apply State.log_kept | with_reducible apply State.modIn_kept | with_reducible apply Kept.ite)
    | intro _
    | split

theorem State.command_kept {s : State} (o : Nat) (v : Bool) (hs : Kept sn qs s) :
    Kept sn qs (State.command s o v) := by
  unfold State.command
  try dsimp -iota only
  repeat' first
    | with_reducible assumption
    | with_reducible apply State.modOut_kept
    | with_reducible apply Kept.ite
    | with_reducible apply Kept.iteFst
    | (with_reducible apply Kept.mk; first | with_reducible assumption | with_reducible apply State.modOut_kept | with_reducible apply Kept.ite)
    | intro _
    | split

theorem State.overload_kept {s : State} (o cause : Nat) (hs : Kept sn qs s) :
    Kept sn qs (State.overload s o cause) := by
  unfold State.overload
  try dsimp -iota only
  repeat' first
    | with_reducible assumption
    | with_reducible apply State.logFull_kept
    | with_reducible apply State.modOut_kept
    | with_reducible apply Kept.ite
    | with_reducible apply Kept.iteFst
    | (with_reducible apply Kept.mk; first | with_reducible assumption | with_reducible apply State.logFull_kept | with_reducible apply State.modOut_kept | with_reducible apply Kept.ite)
    | intro _
    | split

theorem execOutputCurrentLimit_kept (out : Fin 32) {s : State} (hs : Kept sn qs s) :
    nextHas (Kept sn qs) (execOutputCurrentLimit out s) := by
  unfold execOutputCurrentLimit
  try dsimp -iota only
  repeat' first
    | with_reducible assumption
    | with_reducible apply State.bump_kept
    | with_reducible apply State.modOut_kept
    | with_reducible apply State.overload_kept
    | with_reducible apply Kept.ite
    | with_reducible apply Kept.iteFst
    | exact trivial
    | with_reducible apply Kept.next
    | with_reducible apply Kept.iteOut
    | (with_reducible apply Kept.mk; first | with_reducible assumption | with_reducible apply State.bump_kept | with_reducible apply State.modOut_kept | with_reducible apply State.overload_kept | with_reducible apply Kept.ite)
    | intro _
    | split

theorem execOutputLimitEnd_kept (out : Fin 32) {s : State} (hs : Kept sn qs s) :
    nextHas (Kept sn qs) (execOutputLimitEnd out s) := by
  unfold execOutputLimitEnd
  try dsimp -iota only
  repeat' first
    | with_reducible assumption
    | with_reducible apply State.modOut_kept
    | with_reducible apply Kept.ite
    | with_reducible apply Kept.iteFst
    | exact trivial
    | with_reducible apply Kept.next
    | with_reducible apply Kept.iteOut
    | (with_reducible apply Kept.mk; first | with_reducible assumption | with_reducible apply State.modOut_kept | with_reducible apply Kept.ite)
    | intro _
    | split

theorem State.cool_kept {s : State} (o : Nat) (hs : Kept sn qs s) :
    Kept sn qs (State.cool s o) := by
  unfold State.cool
  try dsimp -iota only
  repeat' first
    | with_reducible assumption
    | with_reducible apply State.bump_kept
    | with_reducible apply State.modOut_kept
    | with_reducible apply State.overload_kept
    | with_reducible apply Kept.ite
    | with_reducible apply Kept.iteFst
    | (with_reducible apply Kept.mk; first | with_reducible assumption | with_reducible apply State.bump_kept | with_reducible apply State.modOut_kept | with_reducible apply State.overload_kept | with_reducible apply Kept.ite)
    | intro _
    | split

theorem execOutputOvertemp_kept (out : Fin 32) {s : State} (hs : Kept sn qs s) :
    nextHas (Kept sn qs) (execOutputOvertemp out s) := by
  unfold execOutputOvertemp
  try dsimp -iota only
  repeat' first
    | with_reducible assumption
    | with_reducible apply State.cool_kept
    | with_reducible apply Kept.ite
    | with_reducible apply Kept.iteFst
    | exact trivial
    | with_reducible apply Kept.next
    | with_reducible apply Kept.iteOut
    | (with_reducible apply Kept.mk; first | with_reducible assumption | with_reducible apply State.cool_kept | with_reducible apply Kept.ite)
    | intro _
    | split

theorem execGroupOvertemp_kept (group : Fin 4) {s : State} (hs : Kept sn qs s) :
    nextHas (Kept sn qs) (execGroupOvertemp group s) := by
  unfold execGroupOvertemp
  try dsimp -iota only
  repeat' first
    | with_reducible assumption
    | with_reducible apply State.cool_kept
    | with_reducible apply Kept.ite
    | with_reducible apply Kept.iteFst
    | with_reducible apply Kept.foldl
    | exact trivial
    | with_reducible apply Kept.next
    | with_reducible apply Kept.iteOut
    | (with_reducible apply Kept.mk; first | with_reducible assumption | with_reducible apply State.cool_kept | with_reducible apply Kept.ite)
    | intro _
    | split

theorem execOutputCooled_kept (out : Fin 32) {s : State} (hs : Kept sn qs s) :
    nextHas (Kept sn qs) (execOutputCooled out s) := by
  unfold execOutputCooled
  try dsimp -iota only
  repeat' first
    | with_reducible assumption
    | with_reducible apply State.modOut_kept
    | with_reducible apply State.overload_kept
    | with_reducible apply Kept.ite
    | with_reducible apply Kept.iteFst
    | exact trivial
    | with_reducible apply Kept.next
    | with_reducible apply Kept.iteOut
    | (with_reducible apply Kept.mk; first | with_reducible assumption | with_reducible apply State.modOut_kept | with_reducible apply State.overload_kept | with_reducible apply Kept.ite)
    | intro _
    | split

theorem execOutputRetryReset_kept (out : Fin 32) {s : State} (hs : Kept sn qs s) :
    nextHas (Kept sn qs) (execOutputRetryReset out s) := by
  unfold execOutputRetryReset
  try dsimp -iota only
  repeat' first
    | with_reducible assumption
    | with_reducible apply State.modOut_kept
    | with_reducible apply Kept.ite
    | with_reducible apply Kept.iteFst
    | exact trivial
    | with_reducible apply Kept.next
    | with_reducible apply Kept.iteOut
    | (with_reducible apply Kept.mk; first | with_reducible assumption | with_reducible apply State.modOut_kept | with_reducible apply Kept.ite)
    | intro _
    | split

theorem execFioOutSet_kept (ref : CmdRef) (mask values : BitVec 32) {s : State} (hs : Kept sn qs s) :
    nextHas (Kept sn qs) (execFioOutSet ref mask values s) := by
  unfold execFioOutSet
  refine Kept.next (State.execCmd_kept _ _ _ hs (fun k s h => State.checked_kept _ _ _ h (fun s h => ?_)))
  refine Kept.ite (State.ok_kept _ _ h) (Kept.foldl (fun s d h => Kept.ite (State.modDie_kept _ _ h) h) (State.run_kept _ h))

theorem execFioOutAt_kept (ref : CmdRef) (mask values : BitVec 32) (ft : Ft) {s : State} (hs : Kept sn qs s) :
    nextHas (Kept sn qs) (execFioOutAt ref mask values ft s) := by
  unfold execFioOutAt
  try dsimp -iota only
  repeat' first
    | with_reducible assumption
    | with_reducible apply State.ok_kept
    | with_reducible apply State.run_kept
    | with_reducible apply State.execCmd_kept
    | with_reducible apply State.checked_kept
    | with_reducible apply State.modOut_kept
    | with_reducible apply Kept.ite
    | with_reducible apply Kept.iteFst
    | with_reducible apply Kept.foldl
    | exact trivial
    | with_reducible apply Kept.next
    | with_reducible apply Kept.iteOut
    | (with_reducible apply Kept.mk; first | with_reducible assumption | with_reducible apply State.ok_kept | with_reducible apply State.run_kept | with_reducible apply State.execCmd_kept | with_reducible apply State.checked_kept | with_reducible apply State.modOut_kept | with_reducible apply Kept.ite)
    | intro _
    | split

theorem State.timedDone_kept {s : State} (k : Nat) (st : BitVec 16) (hs : Kept sn qs s) :
    Kept sn qs (State.timedDone s k st) := by
  unfold State.timedDone
  try dsimp -iota only
  repeat' first
    | with_reducible assumption
    | with_reducible apply State.finish_kept
    | with_reducible apply Kept.ite
    | with_reducible apply Kept.iteFst
    | (with_reducible apply Kept.mk; first | with_reducible assumption | with_reducible apply State.finish_kept | with_reducible apply Kept.ite)
    | intro _
    | split

theorem State.dropTimed_kept {s : State} (l : List Nat) (st : BitVec 16) (hs : Kept sn qs s) :
    Kept sn qs (State.dropTimed s l st) := by
  unfold State.dropTimed
  try dsimp -iota only
  repeat' first
    | with_reducible assumption
    | with_reducible apply State.modOut_kept
    | with_reducible apply State.timedDone_kept
    | with_reducible apply Kept.ite
    | with_reducible apply Kept.iteFst
    | with_reducible apply Kept.foldl
    | (with_reducible apply Kept.mk; first | with_reducible assumption | with_reducible apply State.modOut_kept | with_reducible apply State.timedDone_kept | with_reducible apply Kept.ite)
    | intro _
    | split

theorem execFioOutAtApply_kept (die : Fin 2) {s : State} (hs : Kept sn qs s) :
    nextHas (Kept sn qs) (execFioOutAtApply die s) := by
  unfold execFioOutAtApply
  try dsimp -iota only
  repeat' first
    | with_reducible assumption
    | with_reducible apply State.ok_kept
    | with_reducible apply State.modOut_kept
    | with_reducible apply State.command_kept
    | with_reducible apply State.timedDone_kept
    | with_reducible apply Kept.ite
    | with_reducible apply Kept.iteFst
    | with_reducible apply Kept.foldlFst
    | with_reducible apply Kept.foldl
    | exact trivial
    | with_reducible apply Kept.next
    | with_reducible apply Kept.iteOut
    | (with_reducible apply Kept.mk; first | with_reducible assumption | with_reducible apply State.ok_kept | with_reducible apply State.modOut_kept | with_reducible apply State.command_kept | with_reducible apply State.timedDone_kept | with_reducible apply Kept.ite)
    | intro _
    | split

theorem State.setsLeft_kept {s : State} (d : Nat) (hs : Kept sn qs s) :
    Kept sn qs (State.setsLeft s d) := by
  unfold State.setsLeft
  try dsimp -iota only
  repeat' first
    | with_reducible assumption
    | with_reducible apply State.ok_kept
    | with_reducible apply State.modDie_kept
    | with_reducible apply Kept.ite
    | with_reducible apply Kept.iteFst
    | with_reducible apply Kept.foldlFst
    | with_reducible apply Kept.foldl
    | (with_reducible apply Kept.mk; first | with_reducible assumption | with_reducible apply State.ok_kept | with_reducible apply State.modDie_kept | with_reducible apply Kept.ite)
    | intro _
    | split

theorem execFioFrameRx_kept (die : Fin 2) (crcOk : Bool) {s : State} (hs : Kept sn qs s) :
    nextHas (Kept sn qs) (execFioFrameRx die crcOk s) := by
  unfold execFioFrameRx
  try dsimp -iota only
  repeat' first
    | with_reducible assumption
    | with_reducible apply State.bump_kept
    | with_reducible apply State.modOut_kept
    | with_reducible apply State.modDie_kept
    | with_reducible apply State.command_kept
    | with_reducible apply State.setsLeft_kept
    | with_reducible apply Kept.ite
    | with_reducible apply Kept.iteFst
    | with_reducible apply Kept.foldlFst
    | with_reducible apply Kept.foldl
    | exact trivial
    | with_reducible apply Kept.next
    | with_reducible apply Kept.iteOut
    | (with_reducible apply Kept.mk; first | with_reducible assumption | with_reducible apply State.bump_kept | with_reducible apply State.modOut_kept | with_reducible apply State.modDie_kept | with_reducible apply State.command_kept | with_reducible apply State.setsLeft_kept | with_reducible apply Kept.ite)
    | intro _
    | split

theorem execFioHeartbeatTimeout_kept (die : Fin 2) {s : State} (hs : Kept sn qs s) :
    nextHas (Kept sn qs) (execFioHeartbeatTimeout die s) := by
  unfold execFioHeartbeatTimeout
  try dsimp -iota only
  repeat' first
    | with_reducible assumption
    | with_reducible apply State.modOut_kept
    | with_reducible apply State.modDie_kept
    | with_reducible apply State.dropTimed_kept
    | with_reducible apply Kept.ite
    | with_reducible apply Kept.iteFst
    | with_reducible apply Kept.foldl
    | exact trivial
    | with_reducible apply Kept.next
    | with_reducible apply Kept.iteOut
    | (with_reducible apply Kept.mk; first | with_reducible assumption | with_reducible apply State.modOut_kept | with_reducible apply State.modDie_kept | with_reducible apply State.dropTimed_kept | with_reducible apply Kept.ite)
    | intro _
    | split

theorem execSupplyMeasurement_kept (group : Fin 4) (mv : Fin 65536) {s : State} (hs : Kept sn qs s) :
    nextHas (Kept sn qs) (execSupplyMeasurement group mv s) := by
  unfold execSupplyMeasurement
  try dsimp -iota only
  repeat' first
    | with_reducible assumption
    | with_reducible apply State.modSupply_kept
    | with_reducible apply Kept.ite
    | with_reducible apply Kept.iteFst
    | exact trivial
    | with_reducible apply Kept.next
    | with_reducible apply Kept.iteOut
    | (with_reducible apply Kept.mk; first | with_reducible assumption | with_reducible apply State.modSupply_kept | with_reducible apply Kept.ite)
    | intro _
    | split

theorem State.setLevel_kept {s : State} (g l : Nat) (hs : Kept sn qs s) :
    Kept sn qs (State.setLevel s g l) := by
  unfold State.setLevel
  try dsimp -iota only
  repeat' first
    | with_reducible assumption
    | with_reducible apply State.bump_kept
    | with_reducible apply State.log_kept
    | with_reducible apply State.modOut_kept
    | with_reducible apply State.modSupply_kept
    | with_reducible apply Kept.ite
    | with_reducible apply Kept.iteFst
    | with_reducible apply Kept.foldl
    | (with_reducible apply Kept.mk; first | with_reducible assumption | with_reducible apply State.bump_kept | with_reducible apply State.log_kept | with_reducible apply State.modOut_kept | with_reducible apply State.modSupply_kept | with_reducible apply Kept.ite)
    | intro _
    | split

theorem execSupplyLevelFall_kept (group : Fin 4) {s : State} (hs : Kept sn qs s) :
    nextHas (Kept sn qs) (execSupplyLevelFall group s) := by
  unfold execSupplyLevelFall
  try dsimp -iota only
  repeat' first
    | with_reducible assumption
    | with_reducible apply State.setLevel_kept
    | with_reducible apply Kept.ite
    | with_reducible apply Kept.iteFst
    | exact trivial
    | with_reducible apply Kept.next
    | with_reducible apply Kept.iteOut
    | (with_reducible apply Kept.mk; first | with_reducible assumption | with_reducible apply State.setLevel_kept | with_reducible apply Kept.ite)
    | intro _
    | split

theorem execSupplyLevelRise_kept (group : Fin 4) {s : State} (hs : Kept sn qs s) :
    nextHas (Kept sn qs) (execSupplyLevelRise group s) := by
  unfold execSupplyLevelRise
  try dsimp -iota only
  repeat' first
    | with_reducible assumption
    | with_reducible apply State.setLevel_kept
    | with_reducible apply Kept.ite
    | with_reducible apply Kept.iteFst
    | exact trivial
    | with_reducible apply Kept.next
    | with_reducible apply Kept.iteOut
    | (with_reducible apply Kept.mk; first | with_reducible assumption | with_reducible apply State.setLevel_kept | with_reducible apply Kept.ite)
    | intro _
    | split

theorem execSafetyFioFrameRx_kept (die : Fin 2) (valid : Bool) {s : State} (hs : Kept sn qs s) :
    nextHas (Kept sn qs) (execSafetyFioFrameRx die valid s) := by
  unfold execSafetyFioFrameRx
  try dsimp -iota only
  repeat' first
    | with_reducible assumption
    | with_reducible apply State.modDie_kept
    | with_reducible apply State.command_kept
    | with_reducible apply Kept.ite
    | with_reducible apply Kept.iteFst
    | with_reducible apply Kept.foldlFst
    | with_reducible apply Kept.foldl
    | exact trivial
    | with_reducible apply Kept.next
    | with_reducible apply Kept.iteOut
    | (with_reducible apply Kept.mk; first | with_reducible assumption | with_reducible apply State.modDie_kept | with_reducible apply State.command_kept | with_reducible apply Kept.ite)
    | intro _
    | split

theorem execSafetyFioLinkTimeout_kept (die : Fin 2) {s : State} (hs : Kept sn qs s) :
    nextHas (Kept sn qs) (execSafetyFioLinkTimeout die s) := by
  unfold execSafetyFioLinkTimeout
  try dsimp -iota only
  repeat' first
    | with_reducible assumption
    | with_reducible apply State.modDie_kept
    | with_reducible apply State.command_kept
    | with_reducible apply Kept.ite
    | with_reducible apply Kept.iteFst
    | with_reducible apply Kept.foldl
    | exact trivial
    | with_reducible apply Kept.next
    | with_reducible apply Kept.iteOut
    | (with_reducible apply Kept.mk; first | with_reducible assumption | with_reducible apply State.modDie_kept | with_reducible apply State.command_kept | with_reducible apply Kept.ite)
    | intro _
    | split

end Sys2Proof.Machine
end

