-- ==== Sys2Proof/Laws/KeptIsland.lean ====
section
/-! SUPPORT. Every operation of Machine/Island.lean keeps the queue and the soundness of the state. -/

set_option linter.all false
namespace Sys2Proof.Machine

variable {sn : Bool} {qs : List Instr}

theorem State.modSto_kept {s : State} (g : Nat) (f : StoGroup → StoGroup) (hs : Kept sn qs s) :
    Kept sn qs (State.modSto s g f) := by
  unfold State.modSto
  try dsimp -iota only
  repeat' first
    | with_reducible assumption
    | with_reducible apply State.modSafety_kept
    | with_reducible apply Kept.ite
    | with_reducible apply Kept.iteFst
    | (with_reducible apply Kept.mk; first | with_reducible assumption | with_reducible apply State.modSafety_kept | with_reducible apply Kept.ite)
    | intro _
    | split

theorem State.setBrakes_kept {s : State} (hs : Kept sn qs s) :
    Kept sn qs (State.setBrakes s) := by
  unfold State.setBrakes
  try dsimp -iota only
  repeat' first
    | with_reducible assumption
    | with_reducible apply State.modSafety_kept
    | with_reducible apply Kept.ite
    | with_reducible apply Kept.iteFst
    | (with_reducible apply Kept.mk; first | with_reducible assumption | with_reducible apply State.modSafety_kept | with_reducible apply Kept.ite)
    | intro _
    | split

theorem State.assertGroup_kept {s : State} (g : Nat) (hs : Kept sn qs s) :
    Kept sn qs (State.assertGroup s g) := by
  unfold State.assertGroup
  try dsimp -iota only
  repeat' first
    | with_reducible assumption
    | with_reducible apply State.bump_kept
    | with_reducible apply State.supFault_kept
    | with_reducible apply State.channelSto_kept
    | with_reducible apply State.modSto_kept
    | with_reducible apply State.setBrakes_kept
    | with_reducible apply Kept.ite
    | with_reducible apply Kept.iteFst
    | with_reducible apply Kept.foldl
    | (with_reducible apply Kept.mk; first | with_reducible assumption | with_reducible apply State.bump_kept | with_reducible apply State.supFault_kept | with_reducible apply State.channelSto_kept | with_reducible apply State.modSto_kept | with_reducible apply State.setBrakes_kept | with_reducible apply Kept.ite)
    | intro _
    | split

theorem State.latch_kept {s : State} (cause mask : Nat) (hs : Kept sn qs s) :
    Kept sn qs (State.latch s cause mask) := by
  unfold State.latch
  try dsimp -iota only
  repeat' first
    | with_reducible assumption
    | with_reducible apply State.modSafety_kept
    | with_reducible apply State.log_kept
    | with_reducible apply State.modSto_kept
    | with_reducible apply State.assertGroup_kept
    | with_reducible apply Kept.ite
    | with_reducible apply Kept.iteFst
    | with_reducible apply Kept.foldl
    | (with_reducible apply Kept.mk; first | with_reducible assumption | with_reducible apply State.modSafety_kept | with_reducible apply State.log_kept | with_reducible apply State.modSto_kept | with_reducible apply State.assertGroup_kept | with_reducible apply Kept.ite)
    | intro _
    | split

theorem State.raiseCause_kept {s : State} (cause mask : Nat) (hs : Kept sn qs s) :
    Kept sn qs (State.raiseCause s cause mask) := by
  unfold State.raiseCause
  try dsimp -iota only
  repeat' first
    | with_reducible assumption
    | with_reducible apply State.modSafety_kept
    | with_reducible apply Kept.ite
    | with_reducible apply Kept.iteFst
    | (with_reducible apply Kept.mk; first | with_reducible assumption | with_reducible apply State.modSafety_kept | with_reducible apply Kept.ite)
    | intro _
    | split

theorem State.clearCause_kept {s : State} (cause : Nat) (hs : Kept sn qs s) :
    Kept sn qs (State.clearCause s cause) := by
  unfold State.clearCause
  try dsimp -iota only
  repeat' first
    | with_reducible assumption
    | with_reducible apply State.modSto_kept
    | with_reducible apply Kept.ite
    | with_reducible apply Kept.iteFst
    | with_reducible apply Kept.foldl
    | (with_reducible apply Kept.mk; first | with_reducible assumption | with_reducible apply State.modSto_kept | with_reducible apply Kept.ite)
    | intro _
    | split

theorem State.finishAcks_kept {s : State} (hs : Kept sn qs s) :
    Kept sn qs (State.finishAcks s) := by
  unfold State.finishAcks
  try dsimp -iota only
  repeat' first
    | with_reducible assumption
    | with_reducible apply State.modSafety_kept
    | with_reducible apply State.finish_kept
    | with_reducible apply State.ok_kept
    | with_reducible apply Kept.ite
    | with_reducible apply Kept.iteFst
    | with_reducible apply Kept.foldlFst
    | with_reducible apply Kept.foldl
    | (with_reducible apply Kept.mk; first | with_reducible assumption | with_reducible apply State.modSafety_kept | with_reducible apply State.finish_kept | with_reducible apply State.ok_kept | with_reducible apply Kept.ite)
    | intro _
    | split

theorem State.startTest_kept {s : State} (g : Nat) (hs : Kept sn qs s) :
    Kept sn qs (State.startTest s g) := by
  unfold State.startTest
  try dsimp -iota only
  repeat' first
    | with_reducible assumption
    | with_reducible apply State.modSto_kept
    | with_reducible apply Kept.ite
    | with_reducible apply Kept.iteFst
    | (with_reducible apply Kept.mk; first | with_reducible assumption | with_reducible apply State.modSto_kept | with_reducible apply Kept.ite)
    | intro _
    | split

theorem State.switchFails_kept {s : State} (g switch : Nat) (hs : Kept sn qs s) :
    Kept sn qs (State.switchFails s g switch) := by
  unfold State.switchFails
  try dsimp -iota only
  repeat' first
    | with_reducible assumption
    | with_reducible apply State.bump_kept
    | with_reducible apply State.log_kept
    | with_reducible apply State.latch_kept
    | with_reducible apply State.finishAcks_kept
    | with_reducible apply Kept.ite
    | with_reducible apply Kept.iteFst
    | (with_reducible apply Kept.mk; first | with_reducible assumption | with_reducible apply State.bump_kept | with_reducible apply State.log_kept | with_reducible apply State.latch_kept | with_reducible apply State.finishAcks_kept | with_reducible apply Kept.ite)
    | intro _
    | split

theorem State.release_kept {s : State} (g : Nat) (hs : Kept sn qs s) :
    Kept sn qs (State.release s g) := by
  unfold State.release
  try dsimp -iota only
  repeat' first
    | with_reducible assumption
    | with_reducible apply State.modFlags_kept
    | with_reducible apply State.modAux_kept
    | with_reducible apply State.modStepper_kept
    | with_reducible apply State.bump_kept
    | with_reducible apply State.modSto_kept
    | with_reducible apply State.setBrakes_kept
    | with_reducible apply State.finishAcks_kept
    | with_reducible apply Kept.ite
    | with_reducible apply Kept.iteFst
    | with_reducible apply Kept.foldl
    | (with_reducible apply Kept.mk; first | with_reducible assumption | with_reducible apply State.modFlags_kept | with_reducible apply State.modAux_kept | with_reducible apply State.modStepper_kept | with_reducible apply State.bump_kept | with_reducible apply State.modSto_kept | with_reducible apply State.setBrakes_kept | with_reducible apply State.finishAcks_kept | with_reducible apply Kept.ite)
    | intro _
    | split

theorem execReleaseTest_kept (group : Fin 8) (r : ReleaseReadings) {s : State} (hs : Kept sn qs s) :
    nextHas (Kept sn qs) (execReleaseTest group r s) := by
  unfold execReleaseTest
  try dsimp -iota only
  repeat' first
    | with_reducible assumption
    | with_reducible apply State.switchFails_kept
    | with_reducible apply State.release_kept
    | with_reducible apply Kept.ite
    | with_reducible apply Kept.iteFst
    | exact trivial
    | with_reducible apply Kept.next
    | with_reducible apply Kept.iteOut
    | (with_reducible apply Kept.mk; first | with_reducible assumption | with_reducible apply State.switchFails_kept | with_reducible apply State.release_kept | with_reducible apply Kept.ite)
    | intro _
    | split

theorem State.brakeTest_kept {s : State} (g : Nat) (currents : List Nat) (hs : Kept sn qs s) :
    Kept sn qs (State.brakeTest s g currents) := by
  unfold State.brakeTest
  try dsimp -iota only
  repeat' first
    | with_reducible assumption
    | with_reducible apply State.modSafety_kept
    | with_reducible apply State.bump_kept
    | with_reducible apply State.latch_kept
    | with_reducible apply Kept.ite
    | with_reducible apply Kept.iteFst
    | with_reducible apply Kept.foldlFst
    | with_reducible apply Kept.foldl
    | (with_reducible apply Kept.mk; first | with_reducible assumption | with_reducible apply State.modSafety_kept | with_reducible apply State.bump_kept | with_reducible apply State.latch_kept | with_reducible apply Kept.ite)
    | intro _
    | split

theorem execDarkPulseTest_kept (group : Fin 8) (opened closed : Bool) (brakeCurrents : List Nat) {s : State} (hs : Kept sn qs s) :
    nextHas (Kept sn qs) (execDarkPulseTest group opened closed brakeCurrents s) := by
  unfold execDarkPulseTest
  try dsimp -iota only
  repeat' first
    | with_reducible assumption
    | with_reducible apply State.bump_kept
    | with_reducible apply State.modSto_kept
    | with_reducible apply State.switchFails_kept
    | with_reducible apply State.brakeTest_kept
    | with_reducible apply Kept.ite
    | with_reducible apply Kept.iteFst
    | exact trivial
    | with_reducible apply Kept.next
    | with_reducible apply Kept.iteOut
    | (with_reducible apply Kept.mk; first | with_reducible assumption | with_reducible apply State.bump_kept | with_reducible apply State.modSto_kept | with_reducible apply State.switchFails_kept | with_reducible apply State.brakeTest_kept | with_reducible apply Kept.ite)
    | intro _
    | split

theorem execDarkPulseLowSide_kept (group : Fin 8) (opened closed : Bool) {s : State} (hs : Kept sn qs s) :
    nextHas (Kept sn qs) (execDarkPulseLowSide group opened closed s) := by
  unfold execDarkPulseLowSide
  try dsimp -iota only
  repeat' first
    | with_reducible assumption
    | with_reducible apply State.bump_kept
    | with_reducible apply State.modSto_kept
    | with_reducible apply State.switchFails_kept
    | with_reducible apply Kept.ite
    | with_reducible apply Kept.iteFst
    | exact trivial
    | with_reducible apply Kept.next
    | with_reducible apply Kept.iteOut
    | (with_reducible apply Kept.mk; first | with_reducible assumption | with_reducible apply State.bump_kept | with_reducible apply State.modSto_kept | with_reducible apply State.switchFails_kept | with_reducible apply Kept.ite)
    | intro _
    | split

theorem execSafeInputChange_kept (input : Fin 8) (level : Bool) {s : State} (hs : Kept sn qs s) :
    nextHas (Kept sn qs) (execSafeInputChange input level s) := by
  unfold execSafeInputChange
  try dsimp -iota only
  repeat' first
    | with_reducible assumption
    | with_reducible apply State.modSafety_kept
    | with_reducible apply Kept.ite
    | with_reducible apply Kept.iteFst
    | exact trivial
    | with_reducible apply Kept.next
    | with_reducible apply Kept.iteOut
    | (with_reducible apply Kept.mk; first | with_reducible assumption | with_reducible apply State.modSafety_kept | with_reducible apply Kept.ite)
    | intro _
    | split

theorem execSafeInputTest_kept (input : Fin 8) (readsZero : Bool) {s : State} (hs : Kept sn qs s) :
    nextHas (Kept sn qs) (execSafeInputTest input readsZero s) := by
  unfold execSafeInputTest
  try dsimp -iota only
  repeat' first
    | with_reducible assumption
    | with_reducible apply State.modSafety_kept
    | with_reducible apply State.bump_kept
    | with_reducible apply State.raiseCause_kept
    | with_reducible apply Kept.ite
    | with_reducible apply Kept.iteFst
    | exact trivial
    | with_reducible apply Kept.next
    | with_reducible apply Kept.iteOut
    | (with_reducible apply Kept.mk; first | with_reducible assumption | with_reducible apply State.modSafety_kept | with_reducible apply State.bump_kept | with_reducible apply State.raiseCause_kept | with_reducible apply Kept.ite)
    | intro _
    | split

theorem State.modTap_kept {s : State} (a : Nat) (f : SafTap → SafTap) (hs : Kept sn qs s) :
    Kept sn qs (State.modTap s a f) := by
  unfold State.modTap
  try dsimp -iota only
  repeat' first
    | with_reducible assumption
    | with_reducible apply State.modSafety_kept
    | with_reducible apply Kept.ite
    | with_reducible apply Kept.iteFst
    | (with_reducible apply Kept.mk; first | with_reducible assumption | with_reducible apply State.modSafety_kept | with_reducible apply Kept.ite)
    | intro _
    | split

theorem execSafetyTapEdge_kept (axis : Fin 32) (lines : TapLines) (sample : BitVec 32) {s : State} (hs : Kept sn qs s) :
    nextHas (Kept sn qs) (execSafetyTapEdge axis lines sample s) := by
  unfold execSafetyTapEdge
  try dsimp -iota only
  repeat' first
    | with_reducible assumption
    | with_reducible apply State.modTap_kept
    | with_reducible apply Kept.ite
    | with_reducible apply Kept.iteFst
    | exact trivial
    | with_reducible apply Kept.next
    | with_reducible apply Kept.iteOut
    | (with_reducible apply Kept.mk; first | with_reducible assumption | with_reducible apply State.modTap_kept | with_reducible apply Kept.ite)
    | intro _
    | split

theorem execSafetyTapWord_kept (axis : Fin 32) (w : TapWord) {s : State} (hs : Kept sn qs s) :
    nextHas (Kept sn qs) (execSafetyTapWord axis w s) := by
  unfold execSafetyTapWord
  try dsimp -iota only
  repeat' first
    | with_reducible assumption
    | with_reducible apply State.modTap_kept
    | with_reducible apply Kept.ite
    | with_reducible apply Kept.iteFst
    | exact trivial
    | with_reducible apply Kept.next
    | with_reducible apply Kept.iteOut
    | (with_reducible apply Kept.mk; first | with_reducible assumption | with_reducible apply State.modTap_kept | with_reducible apply Kept.ite)
    | intro _
    | split

theorem State.tapCycle_kept {s : State} (a : Nat) (c : SafAxisCfg) (hs : Kept sn qs s) :
    Kept sn qs (State.tapCycle s a c) := by
  unfold State.tapCycle
  try dsimp -iota only
  repeat' first
    | with_reducible assumption
    | with_reducible apply State.bumpIf_kept
    | with_reducible apply State.run_kept
    | with_reducible apply State.modTap_kept
    | with_reducible apply Kept.ite
    | with_reducible apply Kept.iteFst
    | (with_reducible apply Kept.mk; first | with_reducible assumption | with_reducible apply State.bumpIf_kept | with_reducible apply State.run_kept | with_reducible apply State.modTap_kept | with_reducible apply Kept.ite)
    | intro _
    | split

theorem State.funcCycle_kept {s : State} (hs : Kept sn qs s) :
    Kept sn qs (State.funcCycle s).1 := by
  unfold State.funcCycle
  try dsimp -iota only
  repeat' first
    | with_reducible assumption
    | with_reducible apply State.modSafety_kept
    | with_reducible apply State.bumpIf_kept
    | with_reducible apply Kept.ite
    | with_reducible apply Kept.iteFst
    | with_reducible apply Kept.foldlFst
    | with_reducible apply Kept.foldl
    | (with_reducible apply Kept.mk; first | with_reducible assumption | with_reducible apply State.modSafety_kept | with_reducible apply State.bumpIf_kept | with_reducible apply Kept.ite)
    | intro _
    | split

theorem State.latchAll_kept {s : State} (l : List (Nat × Nat)) (hs : Kept sn qs s) :
    Kept sn qs (State.latchAll s l) := by
  unfold State.latchAll
  try dsimp -iota only
  repeat' first
    | with_reducible assumption
    | with_reducible apply State.latch_kept
    | with_reducible apply Kept.ite
    | with_reducible apply Kept.iteFst
    | with_reducible apply Kept.foldlFst
    | with_reducible apply Kept.foldl
    | (with_reducible apply Kept.mk; first | with_reducible assumption | with_reducible apply State.latch_kept | with_reducible apply Kept.ite)
    | intro _
    | split

theorem State.actAcks_kept {s : State} (arisen : Nat) (hs : Kept sn qs s) :
    Kept sn qs (State.actAcks s arisen) := by
  unfold State.actAcks
  refine State.finishAcks_kept (Kept.foldl (fun s a h => State.modSafety_kept _ ?_) (State.modSafety_kept _ hs))
  refine Kept.foldl (fun s g h => Kept.ite (State.startTest_kept _ h) h) (Kept.ite ?_ h)
  exact Kept.foldl (fun s g h => State.modSto_kept _ _ h) h

theorem State.safeCycle_kept {s : State} (rbs : List Readback) (hs : Kept sn qs s) :
    Kept sn qs (State.safeCycle s rbs) := by
  rw [State.safeCycle]
  refine Kept.ite hs ?_
  extract_lets r s1 got s2 causes s3 s4 s5
  have h1 : Kept sn qs s1 := Kept.iteFst (State.funcCycle_kept (Kept.foldl (fun s e h => State.tapCycle_kept _ _ h) hs)) hs
  have h2 : Kept sn qs s2 := Kept.foldl (fun s g h => State.modSto_kept _ _ h) h1
  clear_value s2
  have h3 : Kept sn qs s3 := State.latchAll_kept _ (State.modSafety_kept _ h2)
  have h4 : Kept sn qs s4 := State.actAcks_kept _ h3
  have h5 : Kept sn qs s5 := Kept.foldl (fun s g h => Kept.ite (State.startTest_kept _ h) h) h4
  exact State.modSafety_kept _ (State.finishAcks_kept (State.setBrakes_kept h5))

theorem execSafeCycle_kept (readback : List Readback) {s : State} (hs : Kept sn qs s) :
    nextHas (Kept sn qs) (execSafeCycle readback s) := by
  unfold execSafeCycle
  try dsimp -iota only
  repeat' first
    | with_reducible assumption
    | with_reducible apply State.safeCycle_kept
    | with_reducible apply Kept.ite
    | with_reducible apply Kept.iteFst
    | exact trivial
    | with_reducible apply Kept.next
    | with_reducible apply Kept.iteOut
    | (with_reducible apply Kept.mk; first | with_reducible assumption | with_reducible apply State.safeCycle_kept | with_reducible apply Kept.ite)
    | intro _
    | split

theorem execCoreReportRx_kept (_speeds : Held) (brakes : List Nat) {s : State} (hs : Kept sn qs s) :
    nextHas (Kept sn qs) (execCoreReportRx _speeds brakes s) := by
  unfold execCoreReportRx
  try dsimp -iota only
  repeat' first
    | with_reducible assumption
    | with_reducible apply State.modSafety_kept
    | with_reducible apply State.modTap_kept
    | with_reducible apply Kept.ite
    | with_reducible apply Kept.iteFst
    | with_reducible apply Kept.foldl
    | exact trivial
    | with_reducible apply Kept.next
    | with_reducible apply Kept.iteOut
    | (with_reducible apply Kept.mk; first | with_reducible assumption | with_reducible apply State.modSafety_kept | with_reducible apply State.modTap_kept | with_reducible apply Kept.ite)
    | intro _
    | split

theorem execCoreReportTimeout_kept {s : State} (hs : Kept sn qs s) :
    nextHas (Kept sn qs) (execCoreReportTimeout s) := by
  unfold execCoreReportTimeout
  try dsimp -iota only
  repeat' first
    | with_reducible assumption
    | with_reducible apply State.modSafety_kept
    | with_reducible apply Kept.ite
    | with_reducible apply Kept.iteFst
    | exact trivial
    | with_reducible apply Kept.next
    | with_reducible apply Kept.iteOut
    | (with_reducible apply Kept.mk; first | with_reducible assumption | with_reducible apply State.modSafety_kept | with_reducible apply Kept.ite)
    | intro _
    | split

theorem State.safetyStop_kept {s : State} (ch cat : Nat) (hs : Kept sn qs s) :
    Kept sn qs (State.safetyStop s ch cat) := by
  unfold State.safetyStop
  try dsimp -iota only
  repeat' first
    | with_reducible assumption
    | with_reducible apply State.modLoop_kept
    | with_reducible apply State.requestStop_kept
    | with_reducible apply State.stopOther_kept
    | with_reducible apply Kept.ite
    | with_reducible apply Kept.iteFst
    | (with_reducible apply Kept.mk; first | with_reducible assumption | with_reducible apply State.modLoop_kept | with_reducible apply State.requestStop_kept | with_reducible apply State.stopOther_kept | with_reducible apply Kept.ite)
    | intro _
    | split

theorem execSafetyReportRx_kept (group : Fin 8) (report : SafetyReport) {s : State} (hs : Kept sn qs s) :
    nextHas (Kept sn qs) (execSafetyReportRx group report s) := by
  unfold execSafetyReportRx
  try dsimp -iota only
  repeat' first
    | with_reducible assumption
    | with_reducible apply State.modSafety_kept
    | with_reducible apply State.safetyStop_kept
    | with_reducible apply Kept.ite
    | with_reducible apply Kept.iteFst
    | with_reducible apply Kept.foldl
    | exact trivial
    | with_reducible apply Kept.next
    | with_reducible apply Kept.iteOut
    | (with_reducible apply Kept.mk; first | with_reducible assumption | with_reducible apply State.modSafety_kept | with_reducible apply State.safetyStop_kept | with_reducible apply Kept.ite)
    | intro _
    | split

theorem execBrakeCurrentFault_kept (channel : Fin 80) {s : State} (hs : Kept sn qs s) :
    nextHas (Kept sn qs) (execBrakeCurrentFault channel s) := by
  unfold execBrakeCurrentFault
  try dsimp -iota only
  repeat' first
    | with_reducible assumption
    | with_reducible apply State.raiseCause_kept
    | with_reducible apply Kept.ite
    | with_reducible apply Kept.iteFst
    | exact trivial
    | with_reducible apply Kept.next
    | with_reducible apply Kept.iteOut
    | (with_reducible apply Kept.mk; first | with_reducible assumption | with_reducible apply State.raiseCause_kept | with_reducible apply Kept.ite)
    | intro _
    | split

theorem State.modConn_kept {s : State} (c : Nat) (f : SafConn → SafConn) (hs : Kept sn qs s) :
    Kept sn qs (State.modConn s c f) := by
  unfold State.modConn
  try dsimp -iota only
  repeat' first
    | with_reducible assumption
    | with_reducible apply State.modSafety_kept
    | with_reducible apply Kept.ite
    | with_reducible apply Kept.iteFst
    | (with_reducible apply Kept.mk; first | with_reducible assumption | with_reducible apply State.modSafety_kept | with_reducible apply Kept.ite)
    | intro _
    | split

theorem State.connFault_kept {s : State} (c kind : Nat) (hs : Kept sn qs s) :
    Kept sn qs (State.connFault s c kind) := by
  unfold State.connFault
  try dsimp -iota only
  repeat' first
    | with_reducible assumption
    | with_reducible apply State.bump_kept
    | with_reducible apply State.log_kept
    | with_reducible apply State.raiseCause_kept
    | with_reducible apply State.modConn_kept
    | with_reducible apply Kept.ite
    | with_reducible apply Kept.iteFst
    | (with_reducible apply Kept.mk; first | with_reducible assumption | with_reducible apply State.bump_kept | with_reducible apply State.log_kept | with_reducible apply State.raiseCause_kept | with_reducible apply State.modConn_kept | with_reducible apply Kept.ite)
    | intro _
    | split

theorem State.validPair_kept {s : State} (c : Nat) (seq : BitVec 32) (body : List Byte) (hs : Kept sn qs s) :
    Kept sn qs (State.validPair s c seq body) := by
  unfold State.validPair
  try dsimp -iota only
  repeat' first
    | with_reducible assumption
    | with_reducible apply State.bump_kept
    | with_reducible apply State.modConn_kept
    | with_reducible apply Kept.ite
    | with_reducible apply Kept.iteFst
    | (with_reducible apply Kept.mk; first | with_reducible assumption | with_reducible apply State.bump_kept | with_reducible apply State.modConn_kept | with_reducible apply Kept.ite)
    | intro _
    | split

theorem State.connWindows_kept {s : State} (c : Nat) (cfg : SafConnCfg) (hs : Kept sn qs s) :
    Kept sn qs (State.connWindows s c cfg) := by
  unfold State.connWindows
  try dsimp -iota only
  repeat' first
    | with_reducible assumption
    | with_reducible apply State.modConn_kept
    | with_reducible apply State.connFault_kept
    | with_reducible apply Kept.ite
    | with_reducible apply Kept.iteFst
    | with_reducible apply Kept.foldl
    | (with_reducible apply Kept.mk; first | with_reducible assumption | with_reducible apply State.modConn_kept | with_reducible apply State.connFault_kept | with_reducible apply Kept.ite)
    | intro _
    | split

theorem State.connWatch_kept {s : State} (c : Nat) (cfg : SafConnCfg) (hs : Kept sn qs s) :
    Kept sn qs (State.connWatch s c cfg) := by
  unfold State.connWatch
  try dsimp -iota only
  repeat' first
    | with_reducible assumption
    | with_reducible apply State.connFault_kept
    | with_reducible apply Kept.ite
    | with_reducible apply Kept.iteFst
    | (with_reducible apply Kept.mk; first | with_reducible assumption | with_reducible apply State.connFault_kept | with_reducible apply Kept.ite)
    | intro _
    | split

theorem execSafeFrameRx_kept (bytes : List Byte) {s : State} (hs : Kept sn qs s) :
    nextHas (Kept sn qs) (execSafeFrameRx bytes s) := by
  unfold execSafeFrameRx
  try dsimp -iota only
  repeat' first
    | with_reducible assumption
    | with_reducible apply State.modSafety_kept
    | with_reducible apply State.bump_kept
    | with_reducible apply State.ahead_kept
    | with_reducible apply State.modConn_kept
    | with_reducible apply State.connFault_kept
    | with_reducible apply State.validPair_kept
    | with_reducible apply State.connWindows_kept
    | with_reducible apply State.connWatch_kept
    | with_reducible apply Kept.ite
    | with_reducible apply Kept.iteFst
    | exact trivial
    | with_reducible apply Kept.next
    | with_reducible apply Kept.iteOut
    | (with_reducible apply Kept.mk; first | with_reducible assumption | with_reducible apply State.modSafety_kept | with_reducible apply State.bump_kept | with_reducible apply State.ahead_kept | with_reducible apply State.modConn_kept | with_reducible apply State.connFault_kept | with_reducible apply State.validPair_kept | with_reducible apply State.connWindows_kept | with_reducible apply State.connWatch_kept | with_reducible apply Kept.ite)
    | intro _
    | split

theorem execSafeWindowExpiry_kept (conn : Fin 16) {s : State} (hs : Kept sn qs s) :
    nextHas (Kept sn qs) (execSafeWindowExpiry conn s) := by
  unfold execSafeWindowExpiry
  try dsimp -iota only
  repeat' first
    | with_reducible assumption
    | with_reducible apply State.connWindows_kept
    | with_reducible apply Kept.ite
    | with_reducible apply Kept.iteFst
    | exact trivial
    | with_reducible apply Kept.next
    | with_reducible apply Kept.iteOut
    | (with_reducible apply Kept.mk; first | with_reducible assumption | with_reducible apply State.connWindows_kept | with_reducible apply Kept.ite)
    | intro _
    | split

theorem execSafeWatchdogExpiry_kept (conn : Fin 16) {s : State} (hs : Kept sn qs s) :
    nextHas (Kept sn qs) (execSafeWatchdogExpiry conn s) := by
  unfold execSafeWatchdogExpiry
  try dsimp -iota only
  repeat' first
    | with_reducible assumption
    | with_reducible apply State.connWatch_kept
    | with_reducible apply Kept.ite
    | with_reducible apply Kept.iteFst
    | exact trivial
    | with_reducible apply Kept.next
    | with_reducible apply Kept.iteOut
    | (with_reducible apply Kept.mk; first | with_reducible assumption | with_reducible apply State.connWatch_kept | with_reducible apply Kept.ite)
    | intro _
    | split

theorem execSafePairSend_kept (conn : Fin 16) {s : State} (hs : Kept sn qs s) :
    nextHas (Kept sn qs) (execSafePairSend conn s) := by
  unfold execSafePairSend
  try dsimp -iota only
  repeat' first
    | with_reducible assumption
    | with_reducible apply State.modSafety_kept
    | with_reducible apply State.bump_kept
    | with_reducible apply State.modConn_kept
    | with_reducible apply Kept.ite
    | with_reducible apply Kept.iteFst
    | exact trivial
    | with_reducible apply Kept.next
    | with_reducible apply Kept.iteOut
    | (with_reducible apply Kept.mk; first | with_reducible assumption | with_reducible apply State.modSafety_kept | with_reducible apply State.bump_kept | with_reducible apply State.modConn_kept | with_reducible apply Kept.ite)
    | intro _
    | split

theorem State.connsWait_kept {s : State} (hs : Kept sn qs s) :
    Kept sn qs (State.connsWait s) := by
  unfold State.connsWait
  try dsimp -iota only
  repeat' first
    | with_reducible assumption
    | with_reducible apply State.latch_kept
    | with_reducible apply State.modConn_kept
    | with_reducible apply Kept.ite
    | with_reducible apply Kept.iteFst
    | with_reducible apply Kept.foldlFst
    | with_reducible apply Kept.foldl
    | (with_reducible apply Kept.mk; first | with_reducible assumption | with_reducible apply State.latch_kept | with_reducible apply State.modConn_kept | with_reducible apply Kept.ite)
    | intro _
    | split

theorem State.enterRun_kept {s : State} (hs : Kept sn qs s) :
    Kept sn qs (State.enterRun s) := by
  unfold State.enterRun
  try dsimp -iota only
  repeat' first
    | with_reducible assumption
    | with_reducible apply State.modSafety_kept
    | with_reducible apply State.run_kept
    | with_reducible apply State.clearCause_kept
    | with_reducible apply State.modConn_kept
    | with_reducible apply State.connsWait_kept
    | with_reducible apply Kept.ite
    | with_reducible apply Kept.iteFst
    | with_reducible apply Kept.foldlFst
    | with_reducible apply Kept.foldl
    | (with_reducible apply Kept.mk; first | with_reducible assumption | with_reducible apply State.modSafety_kept | with_reducible apply State.run_kept | with_reducible apply State.clearCause_kept | with_reducible apply State.modConn_kept | with_reducible apply State.connsWait_kept | with_reducible apply Kept.ite)
    | intro _
    | split

theorem State.safRamble_kept {s : State} (hs : Kept sn qs s) :
    Kept sn qs (State.safRamble s) := by
  unfold State.safRamble
  try dsimp -iota only
  repeat' first
    | with_reducible assumption
    | with_reducible apply State.run_kept
    | with_reducible apply State.clearCause_kept
    | with_reducible apply State.connsWait_kept
    | with_reducible apply Kept.ite
    | with_reducible apply Kept.iteFst
    | (with_reducible apply Kept.mk; first | with_reducible assumption | with_reducible apply State.run_kept | with_reducible apply State.clearCause_kept | with_reducible apply State.connsWait_kept | with_reducible apply Kept.ite)
    | intro _
    | split

theorem State.useConfig_kept {s : State} (c : SafConfig) (hs : Kept sn qs s) :
    Kept sn qs (State.useConfig s c) := by
  unfold State.useConfig
  try dsimp -iota only
  repeat' first
    | with_reducible assumption
    | with_reducible apply State.modSafety_kept
    | with_reducible apply State.command_kept
    | with_reducible apply State.clearCause_kept
    | with_reducible apply Kept.ite
    | with_reducible apply Kept.iteFst
    | with_reducible apply Kept.foldlFst
    | with_reducible apply Kept.foldl
    | (with_reducible apply Kept.mk; first | with_reducible assumption | with_reducible apply State.modSafety_kept | with_reducible apply State.command_kept | with_reducible apply State.clearCause_kept | with_reducible apply Kept.ite)
    | intro _
    | split

theorem execSafConfigLoad_kept (ref : CmdRef) (image : List Byte) {s : State} (hs : Kept sn qs s) :
    nextHas (Kept sn qs) (execSafConfigLoad ref image s) := by
  unfold execSafConfigLoad
  try dsimp -iota only
  repeat' first
    | with_reducible assumption
    | with_reducible apply State.modSafety_kept
    | with_reducible apply State.finish_kept
    | with_reducible apply State.ok_kept
    | with_reducible apply State.run_kept
    | with_reducible apply State.execCmd_kept
    | with_reducible apply State.latch_kept
    | with_reducible apply State.useConfig_kept
    | with_reducible apply Kept.ite
    | with_reducible apply Kept.iteFst
    | exact trivial
    | with_reducible apply Kept.next
    | with_reducible apply Kept.iteOut
    | (with_reducible apply Kept.mk; first | with_reducible assumption | with_reducible apply State.modSafety_kept | with_reducible apply State.finish_kept | with_reducible apply State.ok_kept | with_reducible apply State.run_kept | with_reducible apply State.execCmd_kept | with_reducible apply State.latch_kept | with_reducible apply State.useConfig_kept | with_reducible apply Kept.ite)
    | intro _
    | split

theorem execSafConfigRead_kept (ref : CmdRef) {s : State} (hs : Kept sn qs s) :
    nextHas (Kept sn qs) (execSafConfigRead ref s) := by
  unfold execSafConfigRead
  try dsimp -iota only
  repeat' first
    | with_reducible assumption
    | with_reducible apply State.ok_kept
    | with_reducible apply State.execCmd_kept
    | with_reducible apply Kept.ite
    | with_reducible apply Kept.iteFst
    | exact trivial
    | with_reducible apply Kept.next
    | with_reducible apply Kept.iteOut
    | (with_reducible apply Kept.mk; first | with_reducible assumption | with_reducible apply State.ok_kept | with_reducible apply State.execCmd_kept | with_reducible apply Kept.ite)
    | intro _
    | split

theorem execSafCommission_kept (ref : CmdRef) (value : BitVec 32) {s : State} (hs : Kept sn qs s) :
    nextHas (Kept sn qs) (execSafCommission ref value s) := by
  unfold execSafCommission
  try dsimp -iota only
  repeat' first
    | with_reducible assumption
    | with_reducible apply State.modSafety_kept
    | with_reducible apply State.log_kept
    | with_reducible apply State.finish_kept
    | with_reducible apply State.ok_kept
    | with_reducible apply State.run_kept
    | with_reducible apply State.execCmd_kept
    | with_reducible apply State.enterRun_kept
    | with_reducible apply Kept.ite
    | with_reducible apply Kept.iteFst
    | exact trivial
    | with_reducible apply Kept.next
    | with_reducible apply Kept.iteOut
    | (with_reducible apply Kept.mk; first | with_reducible assumption | with_reducible apply State.modSafety_kept | with_reducible apply State.log_kept | with_reducible apply State.finish_kept | with_reducible apply State.ok_kept | with_reducible apply State.run_kept | with_reducible apply State.execCmd_kept | with_reducible apply State.enterRun_kept | with_reducible apply Kept.ite)
    | intro _
    | split

theorem execSafAck_kept (ref : CmdRef) (mask : Byte) {s : State} (hs : Kept sn qs s) :
    nextHas (Kept sn qs) (execSafAck ref mask s) := by
  unfold execSafAck
  try dsimp -iota only
  repeat' first
    | with_reducible assumption
    | with_reducible apply State.modSafety_kept
    | with_reducible apply State.finish_kept
    | with_reducible apply State.ok_kept
    | with_reducible apply State.run_kept
    | with_reducible apply State.execCmd_kept
    | with_reducible apply Kept.ite
    | with_reducible apply Kept.iteFst
    | exact trivial
    | with_reducible apply Kept.next
    | with_reducible apply Kept.iteOut
    | (with_reducible apply Kept.mk; first | with_reducible assumption | with_reducible apply State.modSafety_kept | with_reducible apply State.finish_kept | with_reducible apply State.ok_kept | with_reducible apply State.run_kept | with_reducible apply State.execCmd_kept | with_reducible apply Kept.ite)
    | intro _
    | split

theorem State.safStart_kept {s : State} (hs : Kept sn qs s) :
    Kept sn qs (State.safStart s) := by
  unfold State.safStart
  try dsimp -iota only
  repeat' first
    | with_reducible assumption
    | with_reducible apply State.modSafety_kept
    | with_reducible apply State.latch_kept
    | with_reducible apply Kept.ite
    | with_reducible apply Kept.iteFst
    | (with_reducible apply Kept.mk; first | with_reducible assumption | with_reducible apply State.modSafety_kept | with_reducible apply State.latch_kept | with_reducible apply Kept.ite)
    | intro _
    | split

theorem State.safetyUnpowered_kept {s : State} (hs : Kept sn qs s) :
    Kept sn qs (State.safetyUnpowered s) := by
  unfold State.safetyUnpowered
  extract_lets u
  have h1 : Kept sn qs u := Kept.foldl (fun s g h => State.assertGroup_kept _ h) hs
  clear_value u
  exact h1.of rfl rfl rfl rfl rfl

theorem execSafetySupplyGood_kept {s : State} (hs : Kept sn qs s) :
    nextHas (Kept sn qs) (execSafetySupplyGood s) := by
  unfold execSafetySupplyGood
  extract_lets u
  have h1 : Kept sn qs u := Kept.foldl (fun s g h => State.assertGroup_kept _ h) hs
  clear_value u
  exact Kept.next (State.modPower_kept _ (State.finishAcks_kept (h1.of rfl rfl rfl rfl rfl)))

theorem execSafetySelftestDone_kept {s : State} (hs : Kept sn qs s) :
    nextHas (Kept sn qs) (execSafetySelftestDone s) := by
  unfold execSafetySelftestDone
  try dsimp -iota only
  repeat' first
    | with_reducible assumption
    | with_reducible apply State.modSafety_kept
    | with_reducible apply Kept.ite
    | with_reducible apply Kept.iteFst
    | exact trivial
    | with_reducible apply Kept.next
    | with_reducible apply Kept.iteOut
    | (with_reducible apply Kept.mk; first | with_reducible assumption | with_reducible apply State.modSafety_kept | with_reducible apply Kept.ite)
    | intro _
    | split

theorem execSafetyConfigDelivery_kept {s : State} (hs : Kept sn qs s) :
    nextHas (Kept sn qs) (execSafetyConfigDelivery s) := by
  unfold execSafetyConfigDelivery
  try dsimp -iota only
  repeat' first
    | with_reducible assumption
    | with_reducible apply State.modSafety_kept
    | with_reducible apply State.log_kept
    | with_reducible apply State.latch_kept
    | with_reducible apply State.enterRun_kept
    | with_reducible apply State.useConfig_kept
    | with_reducible apply Kept.ite
    | with_reducible apply Kept.iteFst
    | exact trivial
    | with_reducible apply Kept.next
    | with_reducible apply Kept.iteOut
    | (with_reducible apply Kept.mk; first | with_reducible assumption | with_reducible apply State.modSafety_kept | with_reducible apply State.log_kept | with_reducible apply State.latch_kept | with_reducible apply State.enterRun_kept | with_reducible apply State.useConfig_kept | with_reducible apply Kept.ite)
    | intro _
    | split

theorem State.safInternal_kept {s : State} (hs : Kept sn qs s) :
    Kept sn qs (State.safInternal s) := by
  unfold State.safInternal
  try dsimp -iota only
  repeat' first
    | with_reducible assumption
    | with_reducible apply State.modSafety_kept
    | with_reducible apply State.latch_kept
    | with_reducible apply State.safStart_kept
    | with_reducible apply Kept.ite
    | with_reducible apply Kept.iteFst
    | (with_reducible apply Kept.mk; first | with_reducible assumption | with_reducible apply State.modSafety_kept | with_reducible apply State.latch_kept | with_reducible apply State.safStart_kept | with_reducible apply Kept.ite)
    | intro _
    | split

theorem execSafetyInternalFault_kept (f : SafInternal) {s : State} (hs : Kept sn qs s) :
    nextHas (Kept sn qs) (execSafetyInternalFault f s) := by
  unfold execSafetyInternalFault
  try dsimp -iota only
  repeat' first
    | with_reducible assumption
    | with_reducible apply State.safInternal_kept
    | with_reducible apply Kept.ite
    | with_reducible apply Kept.iteFst
    | exact trivial
    | with_reducible apply Kept.next
    | with_reducible apply Kept.iteOut
    | (with_reducible apply Kept.mk; first | with_reducible assumption | with_reducible apply State.safInternal_kept | with_reducible apply Kept.ite)
    | intro _
    | split

theorem execSafetyPeriodicSelftest_kept (passed : Bool) {s : State} (hs : Kept sn qs s) :
    nextHas (Kept sn qs) (execSafetyPeriodicSelftest passed s) := by
  unfold execSafetyPeriodicSelftest
  try dsimp -iota only
  repeat' first
    | with_reducible assumption
    | with_reducible apply State.safInternal_kept
    | with_reducible apply Kept.ite
    | with_reducible apply Kept.iteFst
    | exact trivial
    | with_reducible apply Kept.next
    | with_reducible apply Kept.iteOut
    | (with_reducible apply Kept.mk; first | with_reducible assumption | with_reducible apply State.safInternal_kept | with_reducible apply Kept.ite)
    | intro _
    | split

theorem execSafetyOscCheck_kept (within : Bool) {s : State} (hs : Kept sn qs s) :
    nextHas (Kept sn qs) (execSafetyOscCheck within s) := by
  unfold execSafetyOscCheck
  try dsimp -iota only
  repeat' first
    | with_reducible assumption
    | with_reducible apply State.safInternal_kept
    | with_reducible apply Kept.ite
    | with_reducible apply Kept.iteFst
    | exact trivial
    | with_reducible apply Kept.next
    | with_reducible apply Kept.iteOut
    | (with_reducible apply Kept.mk; first | with_reducible assumption | with_reducible apply State.safInternal_kept | with_reducible apply Kept.ite)
    | intro _
    | split

end Sys2Proof.Machine
end

