-- ==== Sys2Proof/Laws/KeptPower.lean ====
section
/-! SUPPORT. Every operation of Machine/Power.lean keeps the queue and the soundness of the state. -/

set_option linter.all false
namespace Sys2Proof.Machine

variable {sn : Bool} {qs : List Instr}

theorem State.closeAll_kept {s : State} (hs : Kept sn qs s) :
    Kept sn qs (State.closeAll s) := by
  unfold State.closeAll
  try dsimp -iota only
  repeat' first
    | with_reducible assumption
    | with_reducible apply State.closeSession_kept
    | with_reducible apply Kept.ite
    | with_reducible apply Kept.iteFst
    | with_reducible apply Kept.foldlFst
    | with_reducible apply Kept.foldl
    | (with_reducible apply Kept.mk; first | with_reducible assumption | with_reducible apply State.closeSession_kept | with_reducible apply Kept.ite)
    | intro _
    | split

theorem State.dropKeys_kept {s : State} (hs : Kept sn qs s) :
    Kept sn qs (State.dropKeys s) := by
  unfold State.dropKeys
  try dsimp -iota only
  repeat' first
    | with_reducible assumption
    | with_reducible apply Kept.ite
    | with_reducible apply Kept.iteFst
    | (with_reducible apply Kept.mk; first | with_reducible assumption | with_reducible apply Kept.ite)
    | intro _
    | split

theorem State.interruptAll_kept {s : State} (hs : Kept sn qs s) :
    Kept sn qs (State.interruptAll s) := by
  unfold State.interruptAll
  try dsimp -iota only
  repeat' first
    | with_reducible assumption
    | with_reducible apply State.modPower_kept
    | with_reducible apply State.finish_kept
    | with_reducible apply State.dropKeys_kept
    | with_reducible apply Kept.ite
    | with_reducible apply Kept.iteFst
    | with_reducible apply Kept.foldlFst
    | with_reducible apply Kept.foldl
    | (with_reducible apply Kept.mk; first | with_reducible assumption | with_reducible apply State.modPower_kept | with_reducible apply State.finish_kept | with_reducible apply State.dropKeys_kept | with_reducible apply Kept.ite)
    | intro _
    | split

theorem State.stoFlags_kept {s : State} (hs : Kept sn qs s) :
    Kept sn qs (State.stoFlags s) := by
  unfold State.stoFlags
  try dsimp -iota only
  repeat' first
    | with_reducible assumption
    | with_reducible apply State.modFlags_kept
    | with_reducible apply State.modAux_kept
    | with_reducible apply State.modStepper_kept
    | with_reducible apply Kept.ite
    | with_reducible apply Kept.iteFst
    | with_reducible apply Kept.foldl
    | (with_reducible apply Kept.mk; first | with_reducible assumption | with_reducible apply State.modFlags_kept | with_reducible apply State.modAux_kept | with_reducible apply State.modStepper_kept | with_reducible apply Kept.ite)
    | intro _
    | split

theorem State.coreLost_kept {s : State} (hs : Kept sn qs s) :
    Kept sn qs (State.coreLost s) := by
  unfold State.coreLost
  extract_lets p h r
  have h0 : Kept sn qs { State.reset with pending := s.pending } := ⟨hs.1, fun _ => rfl⟩
  exact State.stoFlags_kept (h0.of rfl rfl rfl rfl rfl)

theorem State.moduleReset_kept {s : State} (cause : Nat) (fast : Bool) (hs : Kept sn qs s) :
    Kept sn qs (State.moduleReset s cause fast) := by
  unfold State.moduleReset
  try dsimp -iota only
  repeat' first
    | with_reducible assumption
    | with_reducible apply State.modPower_kept
    | with_reducible apply State.coreLost_kept
    | with_reducible apply Kept.ite
    | with_reducible apply Kept.iteFst
    | (with_reducible apply Kept.mk; first | with_reducible assumption | with_reducible apply State.modPower_kept | with_reducible apply State.coreLost_kept | with_reducible apply Kept.ite)
    | intro _
    | split

theorem State.leaveHamper_kept {s : State} (cause : Nat) (hs : Kept sn qs s) :
    Kept sn qs (State.leaveHamper s cause) := by
  unfold State.leaveHamper
  try dsimp -iota only
  repeat' first
    | with_reducible assumption
    | with_reducible apply State.modPower_kept
    | with_reducible apply State.moduleReset_kept
    | with_reducible apply Kept.ite
    | with_reducible apply Kept.iteFst
    | (with_reducible apply Kept.mk; first | with_reducible assumption | with_reducible apply State.modPower_kept | with_reducible apply State.moduleReset_kept | with_reducible apply Kept.ite)
    | intro _
    | split

theorem State.entered_kept {s : State} (old new : PwrState) (hs : Kept sn qs s) :
    Kept sn qs (State.entered s old new) := by
  unfold State.entered
  try dsimp -iota only
  repeat' first
    | with_reducible assumption
    | with_reducible apply State.modPower_kept
    | with_reducible apply State.bump_kept
    | with_reducible apply State.log_kept
    | with_reducible apply Kept.ite
    | with_reducible apply Kept.iteFst
    | (with_reducible apply Kept.mk; first | with_reducible assumption | with_reducible apply State.modPower_kept | with_reducible apply State.bump_kept | with_reducible apply State.log_kept | with_reducible apply Kept.ite)
    | intro _
    | split

theorem State.beginEntry_kept {s : State} (target : PwrState) (cmd : Option Nat) (hs : Kept sn qs s) :
    Kept sn qs (State.beginEntry s target cmd) := by
  unfold State.beginEntry
  try dsimp -iota only
  repeat' first
    | with_reducible assumption
    | with_reducible apply State.modPower_kept
    | with_reducible apply State.capPowerDown_kept
    | with_reducible apply State.latch_kept
    | with_reducible apply Kept.ite
    | with_reducible apply Kept.iteFst
    | (with_reducible apply Kept.mk; first | with_reducible assumption | with_reducible apply State.modPower_kept | with_reducible apply State.capPowerDown_kept | with_reducible apply State.latch_kept | with_reducible apply Kept.ite)
    | intro _
    | split

theorem State.beginExit_kept {s : State} (cmd : Option Nat) (hs : Kept sn qs s) :
    Kept sn qs (State.beginExit s cmd) := by
  unfold State.beginExit
  try dsimp -iota only
  repeat' first
    | with_reducible assumption
    | with_reducible apply State.modPower_kept
    | with_reducible apply Kept.ite
    | with_reducible apply Kept.iteFst
    | (with_reducible apply Kept.mk; first | with_reducible assumption | with_reducible apply State.modPower_kept | with_reducible apply Kept.ite)
    | intro _
    | split

theorem State.restSteps_kept {s : State} (hs : Kept sn qs s) :
    Kept sn qs (State.restSteps s) := by
  unfold State.restSteps
  extract_lets s1 s2 s3 s4 s5
  have h1 : Kept sn qs s1 := State.spillAll_kept hs
  clear_value s1
  have h2 : Kept sn qs s2 := State.dropTimed_kept _ _ h1
  clear_value s2
  have h3 : Kept sn qs s3 := Kept.foldl (fun s o h => State.command_kept _ _ h) h2
  clear_value s3
  have h4 : Kept sn qs s4 := Kept.foldl (fun s c h => State.canQuiet_kept _ _ (State.modCan_kept _ _
    (Kept.foldl (fun s k h => State.finish_kept _ _ _ h) h))) h3
  clear_value s4
  have h5 : Kept sn qs s5 := Kept.foldl (fun s d h => State.modDie_kept _ _ (State.setsLeft_kept _ h)) h4
  clear_value s5
  refine State.stoFlags_kept ⟨h5.1, fun e => ?_⟩
  have h := h5.2 e
  rw [State.sound_iff] at h ⊢
  exact ⟨h.1, h.2.1, fun x hx => h.2.2.1 x (List.mem_of_mem_filter hx), h.2.2.2.1, mwf_filter _ h.2.2.2.2⟩

theorem State.blanketSteps_kept {s : State} (cmd : Option Nat) (hs : Kept sn qs s) :
    Kept sn qs (State.blanketSteps s cmd) := by
  unfold State.blanketSteps
  extract_lets s1 s2 s3 s4 s5
  have h1 : Kept sn qs s1 := by
    cases cmd with
    | none => exact hs
    | some k => exact State.writeRsp_kept _ (State.ok_kept _ _ hs)
  clear_value s1
  have h2 : Kept sn qs s2 := State.closeAll_kept (State.interruptAll_kept h1)
  clear_value s2
  have h3 : Kept sn qs s3 := Kept.foldl (fun s p h => State.linkDown_kept _ _ h) h2
  clear_value s3
  have h4 : Kept sn qs s4 := Kept.foldl (fun s m h => Kept.ite h (State.mbxOff_kept _ h)) h3
  clear_value s4
  have h5 : Kept sn qs s5 := Kept.foldl (fun s i h => State.modFlags_kept _ _ h) h4
  clear_value s5
  refine ⟨h5.1, fun e => ?_⟩
  have h := h5.2 e
  rw [State.sound_iff] at h ⊢
  exact ⟨h.1, ⟨h.2.1.1, fun x hx => (List.not_mem_nil hx).elim⟩, fun x hx => (List.not_mem_nil hx).elim, rfl, rfl⟩

theorem State.thermalCheck_kept {s : State} (hs : Kept sn qs s) :
    Kept sn qs (State.thermalCheck s) := by
  unfold State.thermalCheck
  try dsimp -iota only
  repeat' first
    | with_reducible assumption
    | with_reducible apply State.beginEntry_kept
    | with_reducible apply Kept.ite
    | with_reducible apply Kept.iteFst
    | (with_reducible apply Kept.mk; first | with_reducible assumption | with_reducible apply State.beginEntry_kept | with_reducible apply Kept.ite)
    | intro _
    | split

theorem execPowerEntryComplete_kept {s : State} (hs : Kept sn qs s) :
    nextHas (Kept sn qs) (execPowerEntryComplete s) := by
  unfold execPowerEntryComplete
  try dsimp -iota only
  repeat' first
    | with_reducible assumption
    | with_reducible apply State.modPower_kept
    | with_reducible apply State.ok_kept
    | with_reducible apply State.finishOpt_kept
    | with_reducible apply State.loseSpilled_kept
    | with_reducible apply State.coreLost_kept
    | with_reducible apply State.leaveHamper_kept
    | with_reducible apply State.entered_kept
    | with_reducible apply State.beginExit_kept
    | with_reducible apply State.restSteps_kept
    | with_reducible apply State.blanketSteps_kept
    | with_reducible apply State.thermalCheck_kept
    | with_reducible apply Kept.ite
    | with_reducible apply Kept.iteFst
    | exact trivial
    | with_reducible apply Kept.next
    | with_reducible apply Kept.iteOut
    | (with_reducible apply Kept.mk; first | with_reducible assumption | with_reducible apply State.modPower_kept | with_reducible apply State.ok_kept | with_reducible apply State.finishOpt_kept | with_reducible apply State.loseSpilled_kept | with_reducible apply State.coreLost_kept | with_reducible apply State.leaveHamper_kept | with_reducible apply State.entered_kept | with_reducible apply State.beginExit_kept | with_reducible apply State.restSteps_kept | with_reducible apply State.blanketSteps_kept | with_reducible apply State.thermalCheck_kept | with_reducible apply Kept.ite)
    | intro _
    | split

theorem State.timeReload_kept {s : State} (hs : Kept sn qs s) :
    Kept sn qs (State.timeReload s) := by
  unfold State.timeReload
  try dsimp -iota only
  repeat' first
    | with_reducible assumption
    | with_reducible apply State.took_kept
    | with_reducible apply State.log_kept
    | with_reducible apply Kept.ite
    | with_reducible apply Kept.iteFst
    | (with_reducible apply Kept.mk; first | with_reducible assumption | with_reducible apply State.took_kept | with_reducible apply State.log_kept | with_reducible apply Kept.ite)
    | intro _
    | split

theorem State.exitSteps_kept {s : State} (from_ : PwrState) (hs : Kept sn qs s) :
    Kept sn qs (State.exitSteps s from_) := by
  unfold State.exitSteps
  try dsimp -iota only
  repeat' first
    | with_reducible assumption
    | with_reducible apply State.modEngine_kept
    | with_reducible apply State.modCan_kept
    | with_reducible apply State.updateView_kept
    | with_reducible apply State.canApplyMode_kept
    | with_reducible apply State.timeReload_kept
    | with_reducible apply Kept.ite
    | with_reducible apply Kept.iteFst
    | with_reducible apply Kept.foldl
    | (with_reducible refine Engine.wf_of (by with_reducible assumption) ?_ ?_ ?_ <;> with_reducible rfl)
    | (with_reducible apply Kept.mk; first | with_reducible assumption | with_reducible apply State.modEngine_kept | with_reducible apply State.modCan_kept | with_reducible apply State.updateView_kept | with_reducible apply State.canApplyMode_kept | with_reducible apply State.timeReload_kept | with_reducible apply Kept.ite)
    | intro _
    | split

theorem execPowerExitComplete_kept {s : State} (hs : Kept sn qs s) :
    nextHas (Kept sn qs) (execPowerExitComplete s) := by
  unfold execPowerExitComplete
  try dsimp -iota only
  repeat' first
    | with_reducible assumption
    | with_reducible apply State.ok_kept
    | with_reducible apply State.finishOpt_kept
    | with_reducible apply State.safRamble_kept
    | with_reducible apply State.entered_kept
    | with_reducible apply State.thermalCheck_kept
    | with_reducible apply State.exitSteps_kept
    | with_reducible apply Kept.ite
    | with_reducible apply Kept.iteFst
    | exact trivial
    | with_reducible apply Kept.next
    | with_reducible apply Kept.iteOut
    | (with_reducible apply Kept.mk; first | with_reducible assumption | with_reducible apply State.ok_kept | with_reducible apply State.finishOpt_kept | with_reducible apply State.safRamble_kept | with_reducible apply State.entered_kept | with_reducible apply State.thermalCheck_kept | with_reducible apply State.exitSteps_kept | with_reducible apply Kept.ite)
    | intro _
    | split

theorem execPwrEnter_kept (ref : CmdRef) (state : Byte) {s : State} (hs : Kept sn qs s) :
    nextHas (Kept sn qs) (execPwrEnter ref state s) := by
  unfold execPwrEnter
  try dsimp -iota only
  repeat' first
    | with_reducible assumption
    | with_reducible apply State.finish_kept
    | with_reducible apply State.ok_kept
    | with_reducible apply State.run_kept
    | with_reducible apply State.execCmd_kept
    | with_reducible apply State.beginEntry_kept
    | with_reducible apply State.beginExit_kept
    | with_reducible apply Kept.ite
    | with_reducible apply Kept.iteFst
    | exact trivial
    | with_reducible apply Kept.next
    | with_reducible apply Kept.iteOut
    | (with_reducible apply Kept.mk; first | with_reducible assumption | with_reducible apply State.finish_kept | with_reducible apply State.ok_kept | with_reducible apply State.run_kept | with_reducible apply State.execCmd_kept | with_reducible apply State.beginEntry_kept | with_reducible apply State.beginExit_kept | with_reducible apply Kept.ite)
    | intro _
    | split

theorem execPwrWake_kept {s : State} (hs : Kept sn qs s) :
    nextHas (Kept sn qs) (execPwrWake s) := by
  unfold execPwrWake
  try dsimp -iota only
  repeat' first
    | with_reducible assumption
    | with_reducible apply State.modPower_kept
    | with_reducible apply State.leaveHamper_kept
    | with_reducible apply State.beginExit_kept
    | with_reducible apply Kept.ite
    | with_reducible apply Kept.iteFst
    | exact trivial
    | with_reducible apply Kept.next
    | with_reducible apply Kept.iteOut
    | (with_reducible apply Kept.mk; first | with_reducible assumption | with_reducible apply State.modPower_kept | with_reducible apply State.leaveHamper_kept | with_reducible apply State.beginExit_kept | with_reducible apply Kept.ite)
    | intro _
    | split

theorem execVin12Brownout_kept {s : State} (hs : Kept sn qs s) :
    nextHas (Kept sn qs) (execVin12Brownout s) := by
  unfold execVin12Brownout
  try dsimp -iota only
  repeat' first
    | with_reducible assumption
    | with_reducible apply State.modPower_kept
    | with_reducible apply State.latch_kept
    | with_reducible apply State.safetyUnpowered_kept
    | with_reducible apply State.coreLost_kept
    | with_reducible apply Kept.ite
    | with_reducible apply Kept.iteFst
    | exact trivial
    | with_reducible apply Kept.next
    | with_reducible apply Kept.iteOut
    | (with_reducible apply Kept.mk; first | with_reducible assumption | with_reducible apply State.modPower_kept | with_reducible apply State.latch_kept | with_reducible apply State.safetyUnpowered_kept | with_reducible apply State.coreLost_kept | with_reducible apply Kept.ite)
    | intro _
    | split

theorem execVin12Return_kept {s : State} (hs : Kept sn qs s) :
    nextHas (Kept sn qs) (execVin12Return s) := by
  unfold execVin12Return
  try dsimp -iota only
  repeat' first
    | with_reducible assumption
    | with_reducible apply State.modHost_kept
    | with_reducible apply State.leaveHamper_kept
    | with_reducible apply Kept.ite
    | with_reducible apply Kept.iteFst
    | exact trivial
    | with_reducible apply Kept.next
    | with_reducible apply Kept.iteOut
    | (with_reducible apply Kept.mk; first | with_reducible assumption | with_reducible apply State.modHost_kept | with_reducible apply State.leaveHamper_kept | with_reducible apply Kept.ite)
    | intro _
    | split

theorem State.d0Cleared_kept {s : State} (hs : Kept sn qs s) :
    Kept sn qs (State.d0Cleared s) := by
  unfold State.d0Cleared
  try dsimp -iota only
  repeat' first
    | with_reducible assumption
    | with_reducible apply State.modHost_kept
    | with_reducible apply State.modPower_kept
    | with_reducible apply Kept.ite
    | with_reducible apply Kept.iteFst
    | (with_reducible apply Kept.mk; first | with_reducible assumption | with_reducible apply State.modHost_kept | with_reducible apply State.modPower_kept | with_reducible apply Kept.ite)
    | intro _
    | split

theorem execVstbyLoss_kept {s : State} (hs : Kept sn qs s) :
    nextHas (Kept sn qs) (execVstbyLoss s) := by
  unfold execVstbyLoss
  try dsimp -iota only
  repeat' first
    | with_reducible assumption
    | with_reducible apply State.modPower_kept
    | with_reducible apply State.safetyUnpowered_kept
    | with_reducible apply State.coreLost_kept
    | with_reducible apply State.d0Cleared_kept
    | with_reducible apply Kept.ite
    | with_reducible apply Kept.iteFst
    | exact trivial
    | with_reducible apply Kept.next
    | with_reducible apply Kept.iteOut
    | (with_reducible apply Kept.mk; first | with_reducible assumption | with_reducible apply State.modPower_kept | with_reducible apply State.safetyUnpowered_kept | with_reducible apply State.coreLost_kept | with_reducible apply State.d0Cleared_kept | with_reducible apply Kept.ite)
    | intro _
    | split

theorem execSuppliesGood_kept {s : State} (hs : Kept sn qs s) :
    nextHas (Kept sn qs) (execSuppliesGood s) := by
  unfold execSuppliesGood
  try dsimp -iota only
  repeat' first
    | with_reducible assumption
    | with_reducible apply State.modHost_kept
    | with_reducible apply State.modPower_kept
    | with_reducible apply State.coreLost_kept
    | with_reducible apply State.d0Cleared_kept
    | with_reducible apply Kept.ite
    | with_reducible apply Kept.iteFst
    | exact trivial
    | with_reducible apply Kept.next
    | with_reducible apply Kept.iteOut
    | (with_reducible apply Kept.mk; first | with_reducible assumption | with_reducible apply State.modHost_kept | with_reducible apply State.modPower_kept | with_reducible apply State.coreLost_kept | with_reducible apply State.d0Cleared_kept | with_reducible apply Kept.ite)
    | intro _
    | split

theorem execExtReset_kept {s : State} (hs : Kept sn qs s) :
    nextHas (Kept sn qs) (execExtReset s) := by
  unfold execExtReset
  try dsimp -iota only
  repeat' first
    | with_reducible assumption
    | with_reducible apply State.modPower_kept
    | with_reducible apply State.moduleReset_kept
    | with_reducible apply Kept.ite
    | with_reducible apply Kept.iteFst
    | exact trivial
    | with_reducible apply Kept.next
    | with_reducible apply Kept.iteOut
    | (with_reducible apply Kept.mk; first | with_reducible assumption | with_reducible apply State.modPower_kept | with_reducible apply State.moduleReset_kept | with_reducible apply Kept.ite)
    | intro _
    | split

theorem execExtResetRelease_kept {s : State} (hs : Kept sn qs s) :
    nextHas (Kept sn qs) (execExtResetRelease s) := by
  unfold execExtResetRelease
  try dsimp -iota only
  repeat' first
    | with_reducible assumption
    | with_reducible apply State.modPower_kept
    | with_reducible apply Kept.ite
    | with_reducible apply Kept.iteFst
    | exact trivial
    | with_reducible apply Kept.next
    | with_reducible apply Kept.iteOut
    | (with_reducible apply Kept.mk; first | with_reducible assumption | with_reducible apply State.modPower_kept | with_reducible apply Kept.ite)
    | intro _
    | split

theorem execThermalTrip_kept {s : State} (hs : Kept sn qs s) :
    nextHas (Kept sn qs) (execThermalTrip s) := by
  unfold execThermalTrip
  try dsimp -iota only
  repeat' first
    | with_reducible assumption
    | with_reducible apply State.modPower_kept
    | with_reducible apply State.moduleReset_kept
    | with_reducible apply Kept.ite
    | with_reducible apply Kept.iteFst
    | exact trivial
    | with_reducible apply Kept.next
    | with_reducible apply Kept.iteOut
    | (with_reducible apply Kept.mk; first | with_reducible assumption | with_reducible apply State.modPower_kept | with_reducible apply State.moduleReset_kept | with_reducible apply Kept.ite)
    | intro _
    | split

theorem execThermalTripRelease_kept {s : State} (hs : Kept sn qs s) :
    nextHas (Kept sn qs) (execThermalTripRelease s) := by
  unfold execThermalTripRelease
  try dsimp -iota only
  repeat' first
    | with_reducible assumption
    | with_reducible apply State.modPower_kept
    | with_reducible apply Kept.ite
    | with_reducible apply Kept.iteFst
    | exact trivial
    | with_reducible apply Kept.next
    | with_reducible apply Kept.iteOut
    | (with_reducible apply Kept.mk; first | with_reducible assumption | with_reducible apply State.modPower_kept | with_reducible apply Kept.ite)
    | intro _
    | split

theorem execCaseTempReading_kept (tenths : Int) {s : State} (hs : Kept sn qs s) :
    nextHas (Kept sn qs) (execCaseTempReading tenths s) := by
  unfold execCaseTempReading
  try dsimp -iota only
  repeat' first
    | with_reducible assumption
    | with_reducible apply State.modPower_kept
    | with_reducible apply State.bump_kept
    | with_reducible apply State.log_kept
    | with_reducible apply State.supFault_kept
    | with_reducible apply State.thermalCheck_kept
    | with_reducible apply Kept.ite
    | with_reducible apply Kept.iteFst
    | exact trivial
    | with_reducible apply Kept.next
    | with_reducible apply Kept.iteOut
    | (with_reducible apply Kept.mk; first | with_reducible assumption | with_reducible apply State.modPower_kept | with_reducible apply State.bump_kept | with_reducible apply State.log_kept | with_reducible apply State.supFault_kept | with_reducible apply State.thermalCheck_kept | with_reducible apply Kept.ite)
    | intro _
    | split

theorem execFwWrite_kept (job : CmdJob) (bank : Byte) (offset total : BitVec 32) (data : List Byte) {s : State} (hs : Kept sn qs s) :
    nextHas (Kept sn qs) (execFwWrite job bank offset total data s) := by
  unfold execFwWrite
  try dsimp -iota only
  repeat' first
    | with_reducible assumption
    | with_reducible apply State.modPower_kept
    | with_reducible apply State.execUnits_kept
    | with_reducible apply State.unitsDone_kept
    | with_reducible apply State.checked_kept
    | with_reducible apply Kept.ite
    | with_reducible apply Kept.iteFst
    | with_reducible apply Kept.foldlFst
    | with_reducible apply Kept.foldl
    | exact trivial
    | with_reducible apply Kept.next
    | with_reducible apply Kept.iteOut
    | (with_reducible apply Kept.mk; first | with_reducible assumption | with_reducible apply State.modPower_kept | with_reducible apply State.execUnits_kept | with_reducible apply State.unitsDone_kept | with_reducible apply State.checked_kept | with_reducible apply Kept.ite)
    | intro _
    | split

theorem execFwActivate_kept (ref : CmdRef) (bank : Byte) (ft : Ft) {s : State} (hs : Kept sn qs s) :
    nextHas (Kept sn qs) (execFwActivate ref bank ft s) := by
  unfold execFwActivate
  try dsimp -iota only
  repeat' first
    | with_reducible assumption
    | with_reducible apply State.modPower_kept
    | with_reducible apply State.ok_kept
    | with_reducible apply State.execCmd_kept
    | with_reducible apply State.checked_kept
    | with_reducible apply State.complete_kept
    | with_reducible apply Kept.ite
    | with_reducible apply Kept.iteFst
    | exact trivial
    | with_reducible apply Kept.next
    | with_reducible apply Kept.iteOut
    | (with_reducible apply Kept.mk; first | with_reducible assumption | with_reducible apply State.modPower_kept | with_reducible apply State.ok_kept | with_reducible apply State.execCmd_kept | with_reducible apply State.checked_kept | with_reducible apply State.complete_kept | with_reducible apply Kept.ite)
    | intro _
    | split

theorem State.domainsUp_kept {s : State} (hs : Kept sn qs s) :
    Kept sn qs (State.domainsUp s) := by
  unfold State.domainsUp
  try dsimp -iota only
  repeat' first
    | with_reducible assumption
    | with_reducible apply State.modPower_kept
    | with_reducible apply State.updateView_kept
    | with_reducible apply Kept.ite
    | with_reducible apply Kept.iteFst
    | (with_reducible apply Kept.mk; first | with_reducible assumption | with_reducible apply State.modPower_kept | with_reducible apply State.updateView_kept | with_reducible apply Kept.ite)
    | intro _
    | split

theorem State.restoreConfig_kept {s : State} (hs : Kept sn qs s) :
    Kept sn qs (State.restoreConfig s) := by
  unfold State.restoreConfig
  try dsimp -iota only
  repeat' first
    | with_reducible assumption
    | with_reducible apply State.modHost_kept
    | with_reducible apply State.modSafety_kept
    | with_reducible apply State.log_kept
    | with_reducible apply State.supFault_kept
    | with_reducible apply State.setInitRegion_kept
    | with_reducible apply State.linkDown_kept
    | with_reducible apply State.qbvCommitted_kept
    | with_reducible apply State.canApplyMode_kept
    | with_reducible apply Kept.ite
    | with_reducible apply Kept.iteFst
    | with_reducible apply Kept.foldl
    | (with_reducible apply Kept.mk; first | with_reducible assumption | with_reducible apply State.modHost_kept | with_reducible apply State.modSafety_kept | with_reducible apply State.log_kept | with_reducible apply State.supFault_kept | with_reducible apply State.setInitRegion_kept | with_reducible apply State.linkDown_kept | with_reducible apply State.qbvCommitted_kept | with_reducible apply State.canApplyMode_kept | with_reducible apply Kept.ite)
    | intro _
    | split

theorem State.verifyImage_kept {s : State} (skip : Option Bool) (hs : Kept sn qs s) :
    Kept sn qs (State.verifyImage s skip) := by
  unfold State.verifyImage
  try dsimp -iota only
  repeat' first
    | with_reducible assumption
    | with_reducible apply State.modMbx_kept
    | with_reducible apply State.modHost_kept
    | with_reducible apply State.modPower_kept
    | with_reducible apply State.log_kept
    | with_reducible apply State.supFault_kept
    | with_reducible apply Kept.ite
    | with_reducible apply Kept.iteFst
    | (with_reducible apply Kept.mk; first | with_reducible assumption | with_reducible apply State.modMbx_kept | with_reducible apply State.modHost_kept | with_reducible apply State.modPower_kept | with_reducible apply State.log_kept | with_reducible apply State.supFault_kept | with_reducible apply Kept.ite)
    | intro _
    | split

theorem State.mailboxesReady_kept {s : State} (hs : Kept sn qs s) :
    Kept sn qs (State.mailboxesReady s) := by
  unfold State.mailboxesReady
  exact Kept.foldl (fun s m h => Kept.ite (State.modMbx_kept _ _ h) h) (State.modHost_kept _ hs)

theorem execBootStage_kept {s : State} (hs : Kept sn qs s) :
    nextHas (Kept sn qs) (execBootStage s) := by
  unfold execBootStage
  try dsimp -iota only
  repeat' first
    | with_reducible assumption
    | with_reducible apply State.modEngine_kept
    | with_reducible apply State.modHost_kept
    | with_reducible apply State.modPower_kept
    | with_reducible apply State.domainsUp_kept
    | with_reducible apply State.restoreConfig_kept
    | with_reducible apply State.verifyImage_kept
    | with_reducible apply State.mailboxesReady_kept
    | with_reducible apply Kept.ite
    | with_reducible apply Kept.iteFst
    | with_reducible apply Kept.foldl
    | exact trivial
    | with_reducible apply Kept.next
    | with_reducible apply Kept.iteOut
    | (with_reducible refine Engine.wf_of (by with_reducible assumption) ?_ ?_ ?_ <;> with_reducible rfl)
    | (with_reducible apply Kept.mk; first | with_reducible assumption | with_reducible apply State.modEngine_kept | with_reducible apply State.modHost_kept | with_reducible apply State.modPower_kept | with_reducible apply State.domainsUp_kept | with_reducible apply State.restoreConfig_kept | with_reducible apply State.verifyImage_kept | with_reducible apply State.mailboxesReady_kept | with_reducible apply Kept.ite)
    | intro _
    | split

theorem execCfgSave_kept (ref : CmdRef) (flashFault : Bool) {s : State} (hs : Kept sn qs s) :
    nextHas (Kept sn qs) (execCfgSave ref flashFault s) := by
  unfold execCfgSave
  try dsimp -iota only
  repeat' first
    | with_reducible assumption
    | with_reducible apply State.modPower_kept
    | with_reducible apply State.took_kept
    | with_reducible apply State.supFault_kept
    | with_reducible apply State.finish_kept
    | with_reducible apply State.ok_kept
    | with_reducible apply State.execCmd_kept
    | with_reducible apply Kept.ite
    | with_reducible apply Kept.iteFst
    | exact trivial
    | with_reducible apply Kept.next
    | with_reducible apply Kept.iteOut
    | (with_reducible apply Kept.mk; first | with_reducible assumption | with_reducible apply State.modPower_kept | with_reducible apply State.took_kept | with_reducible apply State.supFault_kept | with_reducible apply State.finish_kept | with_reducible apply State.ok_kept | with_reducible apply State.execCmd_kept | with_reducible apply Kept.ite)
    | intro _
    | split

theorem State.restartBank_kept {s : State} (hs : Kept sn qs s) :
    Kept sn qs (State.restartBank s) := by
  unfold State.restartBank
  try dsimp -iota only
  repeat' first
    | with_reducible assumption
    | with_reducible apply State.modHost_kept
    | with_reducible apply State.modPower_kept
    | with_reducible apply State.log_kept
    | with_reducible apply State.supFault_kept
    | with_reducible apply Kept.ite
    | with_reducible apply Kept.iteFst
    | (with_reducible refine Engine.wf_of (by with_reducible assumption) ?_ ?_ ?_ <;> with_reducible rfl)
    | (with_reducible apply Kept.mk; first | with_reducible assumption | with_reducible apply State.modHost_kept | with_reducible apply State.modPower_kept | with_reducible apply State.log_kept | with_reducible apply State.supFault_kept | with_reducible apply Kept.ite)
    | intro _
    | split

theorem mem_supWithdraws {m : SMap Arbiter} {x : Nat × Arbiter} (h : x ∈ supWithdraws m) :
    ∃ a, (x.1, a) ∈ m ∧ x.2.f = a.f ∧ x.2.w = a.w ∧ x.2.g = a.g := by
  unfold supWithdraws at h
  obtain ⟨y, hy, e⟩ := List.mem_filterMap.1 h
  dsimp only at e
  split at e
  · cases e
  · cases e
    exact ⟨y.2, hy, rfl, rfl, rfl⟩

theorem State.restartSup_kept {s : State} (cause : Nat) (hs : Kept sn qs s) :
    Kept sn qs (State.restartSup s cause) := by
  unfold State.restartSup
  refine Kept.ite hs ?_
  extract_lets l s1 s2 s3 s4
  have h1 : Kept sn qs s1 := State.modSched_kept _ (State.restartBank_kept (State.dropKeys_kept (State.closeAll_kept hs)))
  have h2 : Kept sn qs s2 := Kept.ite (State.modLocks_kept _ h1) h1
  clear_value s2
  have h3 : Kept sn qs s3 := by
    refine ⟨h2.1, fun e => ?_⟩
    have h := h2.2 e
    rw [State.sound_iff] at h ⊢
    refine ⟨h.1, h.2.1, fun x hx => ?_, h.2.2.2.1, mwfFrom_filterMap (fun x : Nat × Arbiter => { x.2 with
      waiting := x.2.waiting.filter (fun r => !((x.1 == 1 && r.1 == 9) || (decide (16 ≤ x.1) && decide (x.1 < 32) && r.1 == 8))) })
      h.2.2.2.2⟩
    obtain ⟨a, ha, e1, e2, e3⟩ := mem_supWithdraws hx
    have h := h.2.2.1 _ ha
    unfold Arbiter.inRange at h ⊢
    rw [e1, e2, e3]
    exact h
  clear_value s3
  exact State.modPower_kept _ (State.modHost_kept _ h3)

theorem execSupWatchdogExpiry_kept {s : State} (hs : Kept sn qs s) :
    nextHas (Kept sn qs) (execSupWatchdogExpiry s) := by
  unfold execSupWatchdogExpiry
  try dsimp -iota only
  repeat' first
    | with_reducible assumption
    | with_reducible apply State.restartSup_kept
    | with_reducible apply Kept.ite
    | with_reducible apply Kept.iteFst
    | exact trivial
    | with_reducible apply Kept.next
    | with_reducible apply Kept.iteOut
    | (with_reducible apply Kept.mk; first | with_reducible assumption | with_reducible apply State.restartSup_kept | with_reducible apply Kept.ite)
    | intro _
    | split

theorem execSupEccError_kept {s : State} (hs : Kept sn qs s) :
    nextHas (Kept sn qs) (execSupEccError s) := by
  unfold execSupEccError
  try dsimp -iota only
  repeat' first
    | with_reducible assumption
    | with_reducible apply State.restartSup_kept
    | with_reducible apply Kept.ite
    | with_reducible apply Kept.iteFst
    | exact trivial
    | with_reducible apply Kept.next
    | with_reducible apply Kept.iteOut
    | (with_reducible apply Kept.mk; first | with_reducible assumption | with_reducible apply State.restartSup_kept | with_reducible apply Kept.ite)
    | intro _
    | split

theorem execFwSwitchRestart_kept {s : State} (hs : Kept sn qs s) :
    nextHas (Kept sn qs) (execFwSwitchRestart s) := by
  unfold execFwSwitchRestart
  try dsimp -iota only
  repeat' first
    | with_reducible assumption
    | with_reducible apply State.modPower_kept
    | with_reducible apply State.restartSup_kept
    | with_reducible apply Kept.ite
    | with_reducible apply Kept.iteFst
    | exact trivial
    | with_reducible apply Kept.next
    | with_reducible apply Kept.iteOut
    | (with_reducible apply Kept.mk; first | with_reducible assumption | with_reducible apply State.modPower_kept | with_reducible apply State.restartSup_kept | with_reducible apply Kept.ite)
    | intro _
    | split

theorem State.askAgain_kept {s : State} (hs : Kept sn qs s) :
    Kept sn qs (State.askAgain s) := by
  unfold State.askAgain
  try dsimp -iota only
  repeat' first
    | with_reducible assumption
    | with_reducible apply State.registerAgain_kept
    | with_reducible apply Kept.ite
    | with_reducible apply Kept.iteFst
    | (with_reducible apply Kept.mk; first | with_reducible assumption | with_reducible apply State.registerAgain_kept | with_reducible apply Kept.ite)
    | intro _
    | split

theorem execSupervisorRestartDone_kept {s : State} (hs : Kept sn qs s) :
    nextHas (Kept sn qs) (execSupervisorRestartDone s) := by
  unfold execSupervisorRestartDone
  try dsimp -iota only
  repeat' first
    | with_reducible assumption
    | with_reducible apply State.modHost_kept
    | with_reducible apply State.modPower_kept
    | with_reducible apply State.bump_kept
    | with_reducible apply State.log_kept
    | with_reducible apply State.supFault_kept
    | with_reducible apply State.mailboxesReady_kept
    | with_reducible apply State.askAgain_kept
    | with_reducible apply Kept.ite
    | with_reducible apply Kept.iteFst
    | exact trivial
    | with_reducible apply Kept.next
    | with_reducible apply Kept.iteOut
    | (with_reducible apply Kept.mk; first | with_reducible assumption | with_reducible apply State.modHost_kept | with_reducible apply State.modPower_kept | with_reducible apply State.bump_kept | with_reducible apply State.log_kept | with_reducible apply State.supFault_kept | with_reducible apply State.mailboxesReady_kept | with_reducible apply State.askAgain_kept | with_reducible apply Kept.ite)
    | intro _
    | split

/-- Three parts of a memory that follow one another are one canonical memory. -/
theorem mwfFrom_append {β : Type} [DecidableEq β] {d : β} {m n : SMap β} {c : Nat} :
    ∀ {b : Nat}, b ≤ c → mwfFrom d b m = true → (∀ x ∈ m, x.1 < c) → mwfFrom d c n = true → mwfFrom d b (m ++ n) = true := by
  induction m with
  | nil => intro b hb _ _ hn; exact mwfFrom_mono hb hn
  | cons p t ih =>
    obtain ⟨k, v⟩ := p
    intro b hb h hm hn
    simp only [mwfFrom, List.cons_append, Bool.and_eq_true, decide_eq_true_eq] at h ⊢
    have hk := hm (k, v) List.mem_cons_self
    exact ⟨h.1, ih (by omega) h.2 (fun x hx => hm x (List.mem_cons_of_mem _ hx)) hn⟩

theorem mwfFrom_of_le {β : Type} [DecidableEq β] {d : β} {m : SMap β} {b c : Nat} (h : mwfFrom d b m = true) (hc : ∀ x ∈ m, c ≤ x.1) :
    mwfFrom d c m = true := by
  cases m with
  | nil => rfl
  | cons p t =>
    obtain ⟨k, v⟩ := p
    simp only [mwfFrom, Bool.and_eq_true, decide_eq_true_eq] at h ⊢
    exact ⟨⟨hc (k, v) List.mem_cons_self, h.1.2⟩, h.2⟩

theorem mwfFrom_shift {β : Type} [DecidableEq β] {d : β} {m : SMap β} (a c : Nat) :
    ∀ {b : Nat}, a ≤ b → mwfFrom d b m = true → mwfFrom d (b - a + c) (m.map (fun x => (x.1 - a + c, x.2))) = true := by
  induction m with
  | nil => intros; rfl
  | cons p t ih =>
    obtain ⟨k, v⟩ := p
    intro b hb h
    simp only [mwfFrom, List.map_cons, Bool.and_eq_true, decide_eq_true_eq] at h ⊢
    refine ⟨⟨by omega, h.1.2⟩, ?_⟩
    have h2 := ih (b := k + 1) (by omega) h.2
    rwa [show k + 1 - a + c = k - a + c + 1 by omega] at h2

/-- The memory of an engine after 32 KB of another are copied in is in canonical form. -/
theorem copy_wf {m n : SMap (BitVec 8)} (a c size : Nat) (hm : Memory.wf m = true) (hn : Memory.wf n = true) :
    Memory.wf (n.filter (fun x => decide (x.1 < c)) ++
      ((m.filter (fun x => decide (a ≤ x.1) && decide (x.1 < a + size))).map (fun x => (x.1 - a + c, x.2))) ++
      n.filter (fun x => decide (c + size ≤ x.1))) = true := by
  have hp : mwfFrom 0 c ((m.filter (fun x => decide (a ≤ x.1) && decide (x.1 < a + size))).map (fun x => (x.1 - a + c, x.2))) = true := by
    have h1 := mwfFrom_of_le (c := a) (mwf_filter (fun x => decide (a ≤ x.1) && decide (x.1 < a + size)) hm)
      (fun x hx => by simp only [List.mem_filter, Bool.and_eq_true, decide_eq_true_eq] at hx; exact hx.2.1)
    have h2 := mwfFrom_shift a c (Nat.le_refl a) h1
    rwa [show a - a + c = c by omega] at h2
  have hq : mwfFrom 0 (c + size) (n.filter (fun x => decide (c + size ≤ x.1))) = true :=
    mwfFrom_of_le (mwf_filter _ hn) (fun x hx => by simpa using (List.mem_filter.1 hx).2)
  rw [List.append_assoc]
  refine mwfFrom_append (c := c) (Nat.zero_le _) (mwf_filter _ hn) (fun x hx => by simpa using (List.mem_filter.1 hx).2) ?_
  refine mwfFrom_append (c := c + size) (by omega) hp (fun x hx => ?_) hq
  obtain ⟨y, hy, rfl⟩ := List.mem_map.1 hx
  simp only [List.mem_filter, Bool.and_eq_true, decide_eq_true_eq] at hy
  show y.1 - a + c < c + size
  omega

theorem State.copySlot_kept {s : State} (src srcBase dst dstBase : Nat) (hs : Kept sn qs s) :
    Kept sn qs (State.copySlot s src srcBase dst dstBase) := by
  unfold State.copySlot
  refine State.setEngine_kept _ _ hs (fun e => ?_)
  have h1 := (Engine.wf_iff _).1 (hs.engine src e)
  have h2 := (Engine.wf_iff _).1 (hs.engine dst e)
  rw [Engine.wf_iff]
  exact ⟨copy_wf srcBase dstBase 0x8000 h1.1 h2.1, h2.2⟩

theorem State.moveAxis_kept {s : State} (i dst : Nat) (hs : Kept sn qs s) :
    Kept sn qs (State.moveAxis s i dst) := by
  unfold State.moveAxis
  try dsimp -iota only
  repeat' first
    | with_reducible assumption
    | with_reducible apply State.placeCode_kept
    | with_reducible apply State.placeAxis_kept
    | with_reducible apply State.unplaceAxis_kept
    | with_reducible apply State.copySlot_kept
    | with_reducible apply Kept.ite
    | with_reducible apply Kept.iteFst
    | (with_reducible apply Kept.mk; first | with_reducible assumption | with_reducible apply State.placeCode_kept | with_reducible apply State.placeAxis_kept | with_reducible apply State.unplaceAxis_kept | with_reducible apply State.copySlot_kept | with_reducible apply Kept.ite)
    | intro _
    | split

theorem execAxisMigrate_kept (ref : CmdRef) (ep : BitVec 16) (engine : Byte) (ft : Ft) {s : State} (hs : Kept sn qs s) :
    nextHas (Kept sn qs) (execAxisMigrate ref ep engine ft s) := by
  unfold execAxisMigrate
  try dsimp -iota only
  repeat' first
    | with_reducible assumption
    | with_reducible apply State.modEngine_kept
    | with_reducible apply State.modPower_kept
    | with_reducible apply State.finish_kept
    | with_reducible apply State.ok_kept
    | with_reducible apply State.run_kept
    | with_reducible apply State.execCmd_kept
    | with_reducible apply State.checked_kept
    | with_reducible apply Kept.ite
    | with_reducible apply Kept.iteFst
    | exact trivial
    | with_reducible apply Kept.next
    | with_reducible apply Kept.iteOut
    | (with_reducible refine Engine.wf_of (by with_reducible assumption) ?_ ?_ ?_ <;> with_reducible rfl)
    | (with_reducible apply Kept.mk; first | with_reducible assumption | with_reducible apply State.modEngine_kept | with_reducible apply State.modPower_kept | with_reducible apply State.finish_kept | with_reducible apply State.ok_kept | with_reducible apply State.run_kept | with_reducible apply State.execCmd_kept | with_reducible apply State.checked_kept | with_reducible apply Kept.ite)
    | intro _
    | split

theorem execMigrationHandover_kept (axis : Fin 32) {s : State} (hs : Kept sn qs s) :
    nextHas (Kept sn qs) (execMigrationHandover axis s) := by
  unfold execMigrationHandover
  try dsimp -iota only
  repeat' first
    | with_reducible assumption
    | with_reducible apply State.modEngine_kept
    | with_reducible apply State.modPower_kept
    | with_reducible apply State.run_kept
    | with_reducible apply State.finishOpt_kept
    | with_reducible apply State.moveAxis_kept
    | with_reducible apply Kept.ite
    | with_reducible apply Kept.iteFst
    | exact trivial
    | with_reducible apply Kept.next
    | with_reducible apply Kept.iteOut
    | (with_reducible refine Engine.wf_of (by with_reducible assumption) ?_ ?_ ?_ <;> with_reducible rfl)
    | (with_reducible apply Kept.mk; first | with_reducible assumption | with_reducible apply State.modEngine_kept | with_reducible apply State.modPower_kept | with_reducible apply State.run_kept | with_reducible apply State.finishOpt_kept | with_reducible apply State.moveAxis_kept | with_reducible apply Kept.ite)
    | intro _
    | split

theorem State.lastComplete_kept {s : State} (i : Nat) (hs : Kept sn qs s) :
    Kept sn qs (State.lastComplete s i) := by
  unfold State.lastComplete
  try dsimp -iota only
  repeat' first
    | with_reducible assumption
    | with_reducible apply State.setFoc_kept
    | with_reducible apply State.setSection_kept
    | with_reducible apply Kept.ite
    | with_reducible apply Kept.iteFst
    | with_reducible apply Kept.foldlFst
    | with_reducible apply Kept.foldl
    | (with_reducible apply Kept.mk; first | with_reducible assumption | with_reducible apply State.setFoc_kept | with_reducible apply State.setSection_kept | with_reducible apply Kept.ite)
    | intro _
    | split

theorem execEngineRescue_kept (le : Fin 16) {s : State} (hs : Kept sn qs s) :
    nextHas (Kept sn qs) (execEngineRescue le s) := by
  unfold execEngineRescue
  try dsimp -iota only
  repeat' first
    | with_reducible assumption
    | with_reducible apply State.bump_kept
    | with_reducible apply State.moveAxis_kept
    | with_reducible apply State.lastComplete_kept
    | with_reducible apply Kept.ite
    | with_reducible apply Kept.iteFst
    | with_reducible apply Kept.foldl
    | exact trivial
    | with_reducible apply Kept.next
    | with_reducible apply Kept.iteOut
    | (with_reducible refine Engine.wf_of (by with_reducible assumption) ?_ ?_ ?_ <;> with_reducible rfl)
    | (with_reducible apply Kept.mk; first | with_reducible assumption | with_reducible apply State.bump_kept | with_reducible apply State.moveAxis_kept | with_reducible apply State.lastComplete_kept | with_reducible apply Kept.ite)
    | intro _
    | split

theorem execEngineRestart_kept (ref : CmdRef) (engine : Byte) {s : State} (hs : Kept sn qs s) :
    nextHas (Kept sn qs) (execEngineRestart ref engine s) := by
  unfold execEngineRestart
  refine Kept.next (State.execCmd_kept _ _ _ hs (fun k s h => State.checked_kept _ _ _ h (fun s h => ?_)))
  exact State.ok_kept _ _ (State.log_kept _ _ _ (State.modPower_kept _ (State.setEngine_kept _ { state := .idle }
    (Kept.foldl (fun s i h => State.unplaceAxis_kept _ h) h) (fun _ => rfl))))

theorem execPwrDomain_kept (ref : CmdRef) (domain on : Byte) {s : State} (hs : Kept sn qs s) :
    nextHas (Kept sn qs) (execPwrDomain ref domain on s) := by
  unfold execPwrDomain
  refine Kept.next (State.execCmd_kept _ _ _ hs (fun k s h => State.checked_kept _ _ _ h (fun s h => ?_)))
  refine Kept.ite (State.ok_kept _ _ h) (Kept.ite (State.ok_kept _ _ (State.modPower_kept _ (State.modPower_kept _ ?_)))
    (State.run_kept _ (State.modPower_kept _ (State.modPower_kept _ h))))
  have h1 := Kept.foldl (l := groupEngines (domain.toNat - 3)) (fun s le h => State.setEngine_kept le {} h (fun _ => rfl)) h
  have hd : ∀ (l : List Nat) (m : SMap Arbiter), ∀ x ∈ l.foldl (fun m le => mdel m (16 + le)) m, x ∈ m := by
    intro l
    induction l with
    | nil => intro m x hx; exact hx
    | cons y t ih => intro m x hx; exact mem_mdel (ih _ x hx)
  refine ⟨h1.1, fun e => ?_⟩
  have h2 := h1.2 e
  rw [State.sound_iff] at h2 ⊢
  have hw : ∀ (l : List Nat) (m : SMap Arbiter), mwf {} m = true → mwf {} (l.foldl (fun m le => mdel m (16 + le)) m) = true := by
    intro l
    induction l with
    | nil => intro m h; exact h
    | cons y t ih => intro m h; exact ih _ (mwfFrom_mdel _ h)
  exact ⟨h2.1, h2.2.1, fun x hx => h2.2.2.1 x (hd _ _ x hx), h2.2.2.2.1, hw _ _ h2.2.2.2.2⟩

theorem execEngineGroupReady_kept (groupB : Bool) {s : State} (hs : Kept sn qs s) :
    nextHas (Kept sn qs) (execEngineGroupReady groupB s) := by
  unfold execEngineGroupReady
  try dsimp -iota only
  repeat' first
    | with_reducible assumption
    | with_reducible apply State.modEngine_kept
    | with_reducible apply State.modPower_kept
    | with_reducible apply State.ok_kept
    | with_reducible apply Kept.ite
    | with_reducible apply Kept.iteFst
    | with_reducible apply Kept.foldl
    | exact trivial
    | with_reducible apply Kept.next
    | with_reducible apply Kept.iteOut
    | (with_reducible refine Engine.wf_of (by with_reducible assumption) ?_ ?_ ?_ <;> with_reducible rfl)
    | (with_reducible apply Kept.mk; first | with_reducible assumption | with_reducible apply State.modEngine_kept | with_reducible apply State.modPower_kept | with_reducible apply State.ok_kept | with_reducible apply Kept.ite)
    | intro _
    | split

end Sys2Proof.Machine
end

