-- ==== Sys2Proof/Laws/KeptArb.lean ====
section
/-! SUPPORT. Every operation of Machine/Arb.lean keeps the queue and the soundness of the state. -/

set_option linter.all false
namespace Sys2Proof.Machine

variable {sn : Bool} {qs : List Instr}

theorem arbId_count (arb : ArbId) : arbCount arb.num = arb.n := by
  cases arb with
  | bank => rfl
  | lpddr => rfl
  | lePort le => exact (by decide : ∀ le : Fin 16, arbCount (0x10 + le.val) = 10) le
  | fabTx p => exact (by decide : ∀ p : Fin 4, arbCount (0x20 + p.val) = 4) p

theorem Arbiter.inRange_iff (a : Arbiter) (n : Nat) : a.inRange n = true ↔ a.f < 16 ∧ a.w < n ∧ a.g < n := by
  simp [Arbiter.inRange, and_assoc]

theorem Arbiter.release_inRange {a : Arbiter} {n : Nat} (h : a.inRange n = true) : a.release.inRange n = true := by
  unfold Arbiter.release
  split
  · exact h
  · exact h

theorem Arbiter.advance_inRange {a : Arbiter} {n : Nat} (h : a.inRange n = true) : (a.advance n).inRange n = true := by
  rw [Arbiter.inRange_iff] at h ⊢
  have hn : 0 < n := by omega
  refine ⟨Nat.mod_lt _ (by omega), Nat.mod_lt _ hn, ?_⟩
  show (if a.f = 15 then (a.g + 1) % n else a.g) < n
  split
  · exact Nat.mod_lt _ hn
  · exact h.2.2

theorem kept_arbN {s : State} (hs : Kept sn qs s) (arb : ArbId) : sn = true → (s.getArb arb.num).inRange arb.n = true :=
  fun e => (arbId_count arb) ▸ hs.arb arb.num e

theorem State.setArbN_kept {s : State} (arb : ArbId) (v : Arbiter) (hs : Kept sn qs s) (hv : sn = true → v.inRange arb.n = true) :
    Kept sn qs (s.setArb arb.num v) := State.setArb_kept _ _ hs ((arbId_count arb) ▸ hv)

theorem execArbitrationGrant_kept (arb : ArbId) (raised : List (Fin 17 × Nat)) {s : State} (hs : Kept sn qs s) :
    nextHas (Kept sn qs) (execArbitrationGrant arb raised s) := by
  unfold execArbitrationGrant
  refine Kept.next ?_
  have hr := kept_arbN hs arb
  extract_lets a all up byLevel win
  split
  · rename_i i _ _
    extract_lets wait b s1
    have h1 : Kept sn qs s1 := State.bumpIf_kept _ _ _ _ (State.setArbN_kept arb b hs
      (fun e => Arbiter.advance_inRange (Arbiter.release_inRange (hr e))))
    clear_value s1
    split
    · exact State.sendFragment_kept _ _ h1
    · exact h1
  · exact hs

theorem execArbitrationIdleCycle_kept (arb : ArbId) {s : State} (hs : Kept sn qs s) :
    nextHas (Kept sn qs) (execArbitrationIdleCycle arb s) := by
  unfold execArbitrationIdleCycle
  refine Kept.next (Kept.ite (State.setArbN_kept _ _ hs (fun e => ?_)) hs)
  exact Arbiter.advance_inRange (Arbiter.release_inRange (kept_arbN hs arb e))

theorem State.cutFrame_kept {s : State} (p vc : Nat) (hs : Kept sn qs s) :
    Kept sn qs (State.cutFrame s p vc) := by
  unfold State.cutFrame
  try dsimp -iota only
  repeat' first
    | with_reducible assumption
    | with_reducible apply State.setFabPort_kept
    | with_reducible apply State.modFabPort_kept
    | with_reducible apply State.freeBlocks_kept
    | with_reducible apply Kept.ite
    | with_reducible apply Kept.iteFst
    | with_reducible apply Kept.foldlFst
    | with_reducible apply Kept.foldl
    | (with_reducible apply Kept.mk; first | with_reducible assumption | with_reducible apply State.setFabPort_kept | with_reducible apply State.modFabPort_kept | with_reducible apply State.freeBlocks_kept | with_reducible apply Kept.ite)
    | intro _
    | split

theorem State.cutEffect_kept {s : State} (arb : ArbId) (i n : Nat) (hs : Kept sn qs s) :
    Kept sn qs (State.cutEffect s arb i n) := by
  unfold State.cutEffect
  try dsimp -iota only
  repeat' first
    | with_reducible assumption
    | with_reducible apply State.modHost_kept
    | with_reducible apply State.took_kept
    | with_reducible apply State.endBurst_kept
    | with_reducible apply State.threadFault_kept
    | with_reducible apply State.restartSup_kept
    | with_reducible apply State.cutFrame_kept
    | with_reducible apply Kept.ite
    | with_reducible apply Kept.iteFst
    | (with_reducible apply Kept.mk; first | with_reducible assumption | with_reducible apply State.modHost_kept | with_reducible apply State.took_kept | with_reducible apply State.endBurst_kept | with_reducible apply State.threadFault_kept | with_reducible apply State.restartSup_kept | with_reducible apply State.cutFrame_kept | with_reducible apply Kept.ite)
    | intro _
    | split

theorem execGrantCutoff_kept (arb : ArbId) {s : State} (hs : Kept sn qs s) :
    nextHas (Kept sn qs) (execGrantCutoff arb s) := by
  unfold execGrantCutoff
  refine Kept.next ?_
  have hr := kept_arbN hs arb
  dsimp only
  refine Kept.ite hs (State.cutEffect_kept _ _ _ (State.log_kept _ _ _ (State.bump_kept _ _ _ (State.setArbN_kept _ _ hs hr))))

end Sys2Proof.Machine
end

