-- ==== Sys2Proof/Laws/KeptApply.lean ====
section
/-! SUPPORT. Every operation of Machine/Apply.lean keeps the queue and the soundness of the state. -/

set_option linter.all false
namespace Sys2Proof.Machine

variable {sn : Bool} {qs : List Instr}

theorem State.withdrawNumber_kept {s : State} (i : Item) (hs : Kept sn qs s) :
    Kept sn qs (State.withdrawNumber s i) := by
  unfold State.withdrawNumber
  try dsimp -iota only
  repeat' first
    | with_reducible assumption
    | with_reducible apply State.modPublisher_kept
    | with_reducible apply State.sendRegister_kept
    | with_reducible apply State.endPublication_kept
    | with_reducible apply State.registered_kept
    | with_reducible apply Kept.ite
    | with_reducible apply Kept.iteFst
    | (with_reducible apply Kept.mk; first | with_reducible assumption | with_reducible apply State.modPublisher_kept | with_reducible apply State.sendRegister_kept | with_reducible apply State.endPublication_kept | with_reducible apply State.registered_kept | with_reducible apply Kept.ite)
    | intro _
    | split

theorem State.afterGrid_kept {s : State} (i : Item) (hs : Kept sn qs s) :
    Kept sn qs (State.afterGrid s i) := by
  unfold State.afterGrid
  try dsimp -iota only
  repeat' first
    | with_reducible assumption
    | with_reducible apply State.realignServo_kept
    | with_reducible apply State.realignAux_kept
    | with_reducible apply Kept.ite
    | with_reducible apply Kept.iteFst
    | (with_reducible apply Kept.mk; first | with_reducible assumption | with_reducible apply State.realignServo_kept | with_reducible apply State.realignAux_kept | with_reducible apply Kept.ite)
    | intro _
    | split

theorem State.afterAxis_kept (b : Nat) {s : State} (i : Item) (hs : Kept sn qs s) :
    Kept sn qs (State.afterAxis b s i) := by
  unfold State.afterAxis
  try dsimp -iota only
  repeat' first
    | with_reducible assumption
    | with_reducible apply State.modSerial_kept
    | with_reducible apply State.setInitRegion_kept
    | with_reducible apply State.regear_kept
    | with_reducible apply State.recam_kept
    | with_reducible apply State.readInputs_kept
    | with_reducible apply State.attachHooks_kept
    | with_reducible apply Kept.ite
    | with_reducible apply Kept.iteFst
    | (with_reducible apply Kept.mk; first | with_reducible assumption | with_reducible apply State.modSerial_kept | with_reducible apply State.setInitRegion_kept | with_reducible apply State.regear_kept | with_reducible apply State.recam_kept | with_reducible apply State.readInputs_kept | with_reducible apply State.attachHooks_kept | with_reducible apply Kept.ite)
    | intro _
    | split

theorem State.afterConvoy_kept {s : State} (i : Item) (hs : Kept sn qs s) :
    Kept sn qs (State.afterConvoy s i) := by
  unfold State.afterConvoy
  try dsimp -iota only
  repeat' first
    | with_reducible assumption
    | with_reducible apply State.sendRegister_kept
    | with_reducible apply Kept.ite
    | with_reducible apply Kept.iteFst
    | (with_reducible apply Kept.mk; first | with_reducible assumption | with_reducible apply State.sendRegister_kept | with_reducible apply Kept.ite)
    | intro _
    | split

theorem State.regroup_kept {s : State} (ep : Nat) (hs : Kept sn qs s) :
    Kept sn qs (State.regroup s ep) := by
  unfold State.regroup
  try dsimp -iota only
  repeat' first
    | with_reducible assumption
    | with_reducible apply State.modTrail_kept
    | with_reducible apply State.openTrail_kept
    | with_reducible apply Kept.ite
    | with_reducible apply Kept.iteFst
    | (with_reducible apply Kept.mk; first | with_reducible assumption | with_reducible apply State.modTrail_kept | with_reducible apply State.openTrail_kept | with_reducible apply Kept.ite)
    | intro _
    | split

theorem State.afterGroup_kept {s : State} (old : List Nat) (i : Item) (hs : Kept sn qs s) :
    Kept sn qs (State.afterGroup s old i) := by
  unfold State.afterGroup
  try dsimp -iota only
  repeat' first
    | with_reducible assumption
    | with_reducible apply State.modTrail_kept
    | with_reducible apply State.regroup_kept
    | with_reducible apply Kept.ite
    | with_reducible apply Kept.iteFst
    | with_reducible apply Kept.foldl
    | (with_reducible apply Kept.mk; first | with_reducible assumption | with_reducible apply State.modTrail_kept | with_reducible apply State.regroup_kept | with_reducible apply Kept.ite)
    | intro _
    | split

theorem State.afterPorts_kept {s : State} (old : Nat) (i : Item) (hs : Kept sn qs s) :
    Kept sn qs (State.afterPorts s old i) := by
  unfold State.afterPorts
  try dsimp -iota only
  repeat' first
    | with_reducible assumption
    | with_reducible apply State.modFabPort_kept
    | with_reducible apply State.enablePort_kept
    | with_reducible apply State.linkDown_kept
    | with_reducible apply Kept.ite
    | with_reducible apply Kept.iteFst
    | with_reducible apply Kept.foldl
    | (with_reducible apply Kept.mk; first | with_reducible assumption | with_reducible apply State.modFabPort_kept | with_reducible apply State.enablePort_kept | with_reducible apply State.linkDown_kept | with_reducible apply Kept.ite)
    | intro _
    | split

theorem State.closePort_kept {s : State} (p : Nat) (hs : Kept sn qs s) :
    Kept sn qs (State.closePort s p) := by
  unfold State.closePort
  try dsimp -iota only
  repeat' first
    | with_reducible assumption
    | with_reducible apply State.closeSession_kept
    | with_reducible apply Kept.ite
    | with_reducible apply Kept.iteFst
    | with_reducible apply Kept.foldlFst
    | with_reducible apply Kept.foldl
    | (with_reducible apply Kept.mk; first | with_reducible assumption | with_reducible apply State.closeSession_kept | with_reducible apply Kept.ite)
    | intro _
    | split

theorem State.afterNet_kept {s : State} (b : Nat) (i : Item) (hs : Kept sn qs s) :
    Kept sn qs (State.afterNet s b i) := by
  unfold State.afterNet
  try dsimp -iota only
  repeat' first
    | with_reducible assumption
    | with_reducible apply State.modPtp_kept
    | with_reducible apply State.followTime_kept
    | with_reducible apply State.qbvCommitted_kept
    | with_reducible apply State.ethLink_kept
    | with_reducible apply State.canApplyMode_kept
    | with_reducible apply State.closePort_kept
    | with_reducible apply Kept.ite
    | with_reducible apply Kept.iteFst
    | (with_reducible apply Kept.mk; first | with_reducible assumption | with_reducible apply State.modPtp_kept | with_reducible apply State.followTime_kept | with_reducible apply State.qbvCommitted_kept | with_reducible apply State.ethLink_kept | with_reducible apply State.canApplyMode_kept | with_reducible apply State.closePort_kept | with_reducible apply Kept.ite)
    | intro _
    | split

theorem State.keepOld_kept {s : State} (b : Nat) (hs : Kept sn qs s) :
    Kept sn qs (State.keepOld s b) := by
  unfold State.keepOld
  try dsimp -iota only
  repeat' first
    | with_reducible assumption
    | with_reducible apply State.modFlags_kept
    | with_reducible apply Kept.ite
    | with_reducible apply Kept.iteFst
    | with_reducible apply Kept.foldl
    | (with_reducible apply Kept.mk; first | with_reducible assumption | with_reducible apply State.modFlags_kept | with_reducible apply Kept.ite)
    | intro _
    | split

theorem State.applyItems_kept {s : State} (items : List Item) (b : Nat) (hs : Kept sn qs s) :
    Kept sn qs (State.applyItems s items b) := by
  unfold State.applyItems
  try dsimp -iota only
  repeat' first
    | with_reducible assumption
    | with_reducible apply State.putItem_kept
    | with_reducible apply State.withdrawNumber_kept
    | with_reducible apply State.afterGrid_kept
    | with_reducible apply State.afterAxis_kept
    | with_reducible apply State.afterConvoy_kept
    | with_reducible apply State.afterGroup_kept
    | with_reducible apply State.afterPorts_kept
    | with_reducible apply State.afterNet_kept
    | with_reducible apply State.keepOld_kept
    | with_reducible apply Kept.ite
    | with_reducible apply Kept.iteFst
    | with_reducible apply Kept.foldlFst
    | with_reducible apply Kept.foldl
    | (with_reducible apply Kept.mk; first | with_reducible assumption | with_reducible apply State.putItem_kept | with_reducible apply State.withdrawNumber_kept | with_reducible apply State.afterGrid_kept | with_reducible apply State.afterAxis_kept | with_reducible apply State.afterConvoy_kept | with_reducible apply State.afterGroup_kept | with_reducible apply State.afterPorts_kept | with_reducible apply State.afterNet_kept | with_reducible apply State.keepOld_kept | with_reducible apply Kept.ite)
    | intro _
    | split

theorem execCommitApply_kept {s : State} (hs : Kept sn qs s) :
    nextHas (Kept sn qs) (execCommitApply s) := by
  unfold execCommitApply
  try dsimp -iota only
  repeat' first
    | with_reducible assumption
    | with_reducible apply State.modHost_kept
    | with_reducible apply State.ok_kept
    | with_reducible apply State.finishOpt_kept
    | with_reducible apply State.applyItems_kept
    | with_reducible apply Kept.ite
    | with_reducible apply Kept.iteFst
    | exact trivial
    | with_reducible apply Kept.next
    | with_reducible apply Kept.iteOut
    | (with_reducible apply Kept.mk; first | with_reducible assumption | with_reducible apply State.modHost_kept | with_reducible apply State.ok_kept | with_reducible apply State.finishOpt_kept | with_reducible apply State.applyItems_kept | with_reducible apply Kept.ite)
    | intro _
    | split

theorem execPrepareApply_kept (p : PrepRef) {s : State} (hs : Kept sn qs s) :
    nextHas (Kept sn qs) (execPrepareApply p s) := by
  unfold execPrepareApply
  try dsimp -iota only
  repeat' first
    | with_reducible assumption
    | with_reducible apply State.fabSend_kept
    | with_reducible apply State.dropPart_kept
    | with_reducible apply State.appliedFrom_kept
    | with_reducible apply State.applyItems_kept
    | with_reducible apply Kept.ite
    | with_reducible apply Kept.iteFst
    | exact trivial
    | with_reducible apply Kept.next
    | with_reducible apply Kept.iteOut
    | (with_reducible apply Kept.mk; first | with_reducible assumption | with_reducible apply State.fabSend_kept | with_reducible apply State.dropPart_kept | with_reducible apply State.appliedFrom_kept | with_reducible apply State.applyItems_kept | with_reducible apply Kept.ite)
    | intro _
    | split

end Sys2Proof.Machine
end

