-- ==== Sys2Proof/Laws/KeptStatus.lean ====
section
/-! SUPPORT. Every operation of Machine/Status.lean keeps the queue and the soundness of the state. -/

set_option linter.all false
namespace Sys2Proof.Machine

variable {sn : Bool} {qs : List Instr}

theorem State.frozenAt_kept {s : State} (e : Nat) (hs : Kept sn qs s) :
    Kept sn qs (State.frozenAt s e) := by
  unfold State.frozenAt
  try dsimp -iota only
  repeat' first
    | with_reducible assumption
    | with_reducible apply State.asRecorded_kept
    | with_reducible apply Kept.ite
    | with_reducible apply Kept.iteFst
    | with_reducible apply Kept.foldl
    | (with_reducible apply Kept.mk; first | with_reducible assumption | with_reducible apply State.asRecorded_kept | with_reducible apply Kept.ite)
    | intro _
    | split

theorem execEpochBoundary_kept {s : State} (hs : Kept sn qs s) :
    nextHas (Kept sn qs) (execEpochBoundary s) := by
  unfold execEpochBoundary
  try dsimp -iota only
  repeat' first
    | with_reducible assumption
    | with_reducible apply State.modHost_kept
    | with_reducible apply State.modSched_kept
    | with_reducible apply State.took_kept
    | with_reducible apply State.sampleXt_kept
    | with_reducible apply State.putItem_kept
    | with_reducible apply State.frozenAt_kept
    | with_reducible apply Kept.ite
    | with_reducible apply Kept.iteFst
    | with_reducible apply Kept.foldl
    | exact trivial
    | with_reducible apply Kept.next
    | with_reducible apply Kept.iteOut
    | (with_reducible apply Kept.mk; first | with_reducible assumption | with_reducible apply State.modHost_kept | with_reducible apply State.modSched_kept | with_reducible apply State.took_kept | with_reducible apply State.sampleXt_kept | with_reducible apply State.putItem_kept | with_reducible apply State.frozenAt_kept | with_reducible apply Kept.ite)
    | intro _
    | split

theorem State.clearItem_kept {s : State} (x : Snapshot) (i : ReadItem) (hs : Kept sn qs s) :
    Kept sn qs (State.clearItem s x i) := by
  unfold State.clearItem
  extract_lets ep code key was
  split
  · refine hs.ctr key _ ?_ rfl rfl rfl rfl rfl
    intro e
    have h := ((State.sound_iff s).1 (hs.2 e)).1.2
    rcases mget_mem s.ctr key 0 with h1 | h1
    · omega
    · have := h _ h1
      simp only at this
      omega
  · split
    · exact Kept.ite (State.modCap_kept _ _ hs) hs
    · exact Kept.ite (State.modArb_kept _ _ hs (fun a h => h)) hs
    · exact Kept.ite (State.modArb_kept _ _ hs (fun a h => h)) hs
    · exact hs

theorem State.answerSnap_kept {s : State} (k : Nat) (x : Snapshot) (items : List ReadItem) (clear : Bool) (hs : Kept sn qs s) :
    Kept sn qs (State.answerSnap s k x items clear) := by
  unfold State.answerSnap
  try dsimp -iota only
  repeat' first
    | with_reducible assumption
    | with_reducible apply State.ok_kept
    | with_reducible apply State.clearItem_kept
    | with_reducible apply Kept.ite
    | with_reducible apply Kept.iteFst
    | with_reducible apply Kept.foldl
    | (with_reducible apply Kept.mk; first | with_reducible assumption | with_reducible apply State.ok_kept | with_reducible apply State.clearItem_kept | with_reducible apply Kept.ite)
    | intro _
    | split

theorem State.trySnap_kept {s : State} (k : Nat) (at_ : Option Ft) (items : List ReadItem) (clear : Bool) (hs : Kept sn qs s) :
    Kept sn qs (State.trySnap s k at_ items clear) := by
  unfold State.trySnap
  try dsimp -iota only
  repeat' first
    | with_reducible assumption
    | with_reducible apply State.modHost_kept
    | with_reducible apply State.finish_kept
    | with_reducible apply State.run_kept
    | with_reducible apply State.complete_kept
    | with_reducible apply State.answerSnap_kept
    | with_reducible apply Kept.ite
    | with_reducible apply Kept.iteFst
    | (with_reducible apply Kept.mk; first | with_reducible assumption | with_reducible apply State.modHost_kept | with_reducible apply State.finish_kept | with_reducible apply State.run_kept | with_reducible apply State.complete_kept | with_reducible apply State.answerSnap_kept | with_reducible apply Kept.ite)
    | intro _
    | split

theorem execSnapRead_kept (ref : CmdRef) (clear : Bool) (items : List ReadItem) {s : State} (hs : Kept sn qs s) :
    nextHas (Kept sn qs) (execSnapRead ref clear items s) := by
  unfold execSnapRead
  try dsimp -iota only
  repeat' first
    | with_reducible assumption
    | with_reducible apply State.finish_kept
    | with_reducible apply State.execCmd_kept
    | with_reducible apply State.trySnap_kept
    | with_reducible apply Kept.ite
    | with_reducible apply Kept.iteFst
    | exact trivial
    | with_reducible apply Kept.next
    | with_reducible apply Kept.iteOut
    | (with_reducible apply Kept.mk; first | with_reducible assumption | with_reducible apply State.finish_kept | with_reducible apply State.execCmd_kept | with_reducible apply State.trySnap_kept | with_reducible apply Kept.ite)
    | intro _
    | split

theorem execSnapAt_kept (ref : CmdRef) (clear : Bool) (ft : Ft) (items : List ReadItem) {s : State} (hs : Kept sn qs s) :
    nextHas (Kept sn qs) (execSnapAt ref clear ft items s) := by
  unfold execSnapAt
  try dsimp -iota only
  repeat' first
    | with_reducible assumption
    | with_reducible apply State.finish_kept
    | with_reducible apply State.execCmd_kept
    | with_reducible apply State.trySnap_kept
    | with_reducible apply Kept.ite
    | with_reducible apply Kept.iteFst
    | exact trivial
    | with_reducible apply Kept.next
    | with_reducible apply Kept.iteOut
    | (with_reducible apply Kept.mk; first | with_reducible assumption | with_reducible apply State.finish_kept | with_reducible apply State.execCmd_kept | with_reducible apply State.trySnap_kept | with_reducible apply Kept.ite)
    | intro _
    | split

theorem execSnapshotComplete_kept {s : State} (hs : Kept sn qs s) :
    nextHas (Kept sn qs) (execSnapshotComplete s) := by
  unfold execSnapshotComplete
  try dsimp -iota only
  repeat' first
    | with_reducible assumption
    | with_reducible apply State.modHost_kept
    | with_reducible apply State.complete_kept
    | with_reducible apply State.trySnap_kept
    | with_reducible apply Kept.ite
    | with_reducible apply Kept.iteFst
    | with_reducible apply Kept.foldlFst
    | with_reducible apply Kept.foldl
    | exact trivial
    | with_reducible apply Kept.next
    | with_reducible apply Kept.iteOut
    | (with_reducible apply Kept.mk; first | with_reducible assumption | with_reducible apply State.modHost_kept | with_reducible apply State.complete_kept | with_reducible apply State.trySnap_kept | with_reducible apply Kept.ite)
    | intro _
    | split

end Sys2Proof.Machine
end

