-- ==== Sys2Proof/WellFormed.lean ====
section
/-! DEFINITION. The commands whose operands are within the bounds the spec gives them where the operand's type does not already
say so. A command outside them is no command the block can receive; exec is total on it all the same. A bound that the
module itself checks and answers with a status (a count of items, a length of a list) is no bound of the command and is
checked in its meaning. -/

namespace Sys2Proof

open Machine

/-- Code of a servo axis's 14-bit shunt converter, signed (R270). -/
def codeOk (c : Int) : Bool := decide (-8192 ≤ c) && decide (c ≤ 8191)

/-- Code of an auxiliary drive's 12-bit shunt converter, signed (R303). -/
def auxCodeOk (c : Int) : Bool := decide (-2048 ≤ c) && decide (c ≤ 2047)

/-- Queue entries of one write: at least one and at most the queue's eight (R54). -/
def segsOk (l : List Seg) : Bool := decide (1 ≤ l.length) && decide (l.length ≤ 8)

/-- The command's operands are within the spec's bounds. -/
def Instr.wf : Instr → Bool
  | .updatePoint .. => true
  | .shuntSample .. => true
  | .shuntResult .. => true
  | .tdcStamp .. => true
  | .tdcCalibration => true
  | .axisRelease .. => true
  | .segmentStarvedStop .. => true
  | .budgetOverrun .. => true
  | .dutyCommit .. => true
  | .stoLineAssert .. => true
  | .timeSourceTimeout => true
  | .timeStepApply => true
  | .xtSample => true
  | .quadEdge .. => true
  | .indexPulse .. => true
  | .serialReadStart .. => true
  | .serialWordDecoded .. => true
  | .lspWordTimeout .. => true
  | .lspUnsolicitedChar .. => true
  | .hallEdge .. => true
  | .zeroSpeed .. => true
  | .freeze .. => true
  | .mac .. => true
  | .msu .. => true
  | .mul .. => true
  | .mac2 .. => true
  | .macus .. => true
  | .clr .. => true
  | .ld .. => true
  | .ldq .. => true
  | .st .. => true
  | .stq .. => true
  | .accld .. => true
  | .accst .. => true
  | .bld .. => true
  | .bldDone _ err => err.all (fun e => decide (e.1 ≤ 8))
  | .leAdd .. => true
  | .leSub .. => true
  | .leAddi .. => true
  | .leAnd .. => true
  | .leOr .. => true
  | .leXor .. => true
  | .leShl .. => true
  | .leShr .. => true
  | .leSra .. => true
  | .leLi .. => true
  | .leLui .. => true
  | .leCmp .. => true
  | .satw .. => true
  | .ext .. => true
  | .maxi .. => true
  | .mini .. => true
  | .rcp .. => true
  | .rsq .. => true
  | .leLoop .. => true
  | .br .. => true
  | .bz .. => true
  | .bnz .. => true
  | .blt .. => true
  | .ret .. => true
  | .reti .. => true
  | .waitb .. => true
  | .mfc .. => true
  | .mtc .. => true
  | .clrf .. => true
  | .nop .. => true
  | .svcRequest .. => true
  | .interruptEntry .. => true
  | .eccScrub .. => true
  | .gateFaultInput .. => true
  | .prechargeDone .. => true
  | .offsetCalibrationDone ax codes => codes.all (match ax with | .aux _ => auxCodeOk | _ => codeOk)
  | .enableTimeout .. => true
  | .standstill .. => true
  | .stopTimeout .. => true
  | .dcLinkConversion .. => true
  | .observerHoldTimeout .. => true
  | .listenEnd .. => true
  | .polarityTest .. => true
  | .auxCurrentSample _ c1 c2 => auxCodeOk c1 && auxCodeOk c2
  | .auxAlignDone .. => true
  | .auxStartTimeout .. => true
  | .auxRetryDelay .. => true
  | .auxRetryReset .. => true
  | .trailPlanned .. => true
  | .trailChangeInstant .. => true
  | .plannerSegmentWrite _ segs => segsOk segs
  | .waymarkPassed .. => true
  | .groupSegmentSend _ _ segs => segsOk segs
  | .convoyPublish .. => true
  | .convoyBoundaryPublish .. => true
  | .convoySupersede .. => true
  | .convoyFrameRx .. => true
  | .convoyLocalDelivery .. => true
  | .convoyRepublish .. => true
  | .masterStale .. => true
  | .convoyJoinInstant .. => true
  | .convoyRegisterTimeout .. => true
  | .regMark .. => true
  | .remoteSetpointSend .. => true
  | .remoteFeedbackRx .. => true
  | .remoteTimeout .. => true
  | .remoteEnableTimeout .. => true
  | .stepperRelease .. => true
  | .microstep .. => true
  | .chopperTrip .. => true
  | .chopperToffMax .. => true
  | .stepperCurrentConversion .. => true
  | .stepperPwmPeriod .. => true
  | .stepperIdleTimeout .. => true
  | .stepperEnableRampDone .. => true
  | .captureFiring .. => true
  | .captureTimeCondition .. => true
  | .captureTrigger .. => true
  | .captureSample _ _ raw => raw.all codeOk
  | .captureRearm .. => true
  | .latchRecord .. => true
  | .basketSpill => true
  | .mbxDoorbell .. => true
  | .mbxRspHeadWrite .. => true
  | .mbxEnableSet .. => true
  | .mbxEnableClear .. => true
  | .mbxEvtHeadWrite .. => true
  | .mbxEvtEnable .. => true
  | .supFtSnapLoRead => true
  | .supFaultWrite .. => true
  | .mbxBadAccess => true
  | .registerWrite .. => true
  | .descriptorFetch .. => true
  | .responseWrite .. => true
  | .ringDmaFail .. => true
  | .msixModerationEnd .. => true
  | .udpHello _ _ bytes => decide (bytes.length ≤ 2952)
  | .udpCommand _ _ bytes => decide (bytes.length ≤ 2952)
  | .halfOpenTimeout .. => true
  | .sessionIdleTimeout .. => true
  | .forwardedCommandRx .. => true
  | .forwardedResponseRx .. => true
  | .forwardTimeout .. => true
  | .pcieLinkDown => true
  | .epochBoundary => true
  | .commitApply => true
  | .commitItemsMsg _ _ _ items => decide (items.length ≤ 4096)
  | .commitReadyMsg num _ _ _ => decide (num < 2 ^ 32)
  | .commitDecisionMsg .. => true
  | .commitAbortMsg .. => true
  | .commitAckMsg num _ => decide (num < 2 ^ 32)
  | .commitAppliedMsg num _ => decide (num < 2 ^ 32)
  | .prepareReadyDeadline .. => true
  | .prepareAckDeadline .. => true
  | .prepareApply .. => true
  | .prepareDiscardTimeout .. => true
  | .lockRequestMsg .. => true
  | .lockGrantMsg .. => true
  | .lockRefusalMsg .. => true
  | .lockReleaseMsg .. => true
  | .lockGraphQuery .. => true
  | .lockGraphAnswer .. => true
  | .lockWaitTimeout .. => true
  | .cmdRecordExpiry .. => true
  | .sysIdentify .. => true
  | .sysStatus .. => true
  | .cmdStatus .. => true
  | .cmdAbort .. => true
  | .interruptedList .. => true
  | .snapRead .. => true
  | .snapAt .. => true
  | .stageWrite .. => true
  | .commit .. => true
  | .commitAt .. => true
  | .discard .. => true
  | .prepare .. => true
  | .paramImport .. => true
  | .lock .. => true
  | .unlock .. => true
  | .sessionOpen .. => true
  | .sessionClose .. => true
  | .keySet _ _ key => decide (key.length = 32)
  | .timeStatus .. => true
  | .timeStep .. => true
  | .axisEnable .. => true
  | .axisDisable .. => true
  | .axisMigrate .. => true
  | .kernelLoad .. => true
  | .kernelUnload .. => true
  | .trailAppend .. => true
  | .trailCancel .. => true
  | .trailLimits .. => true
  | .stop .. => true
  | .home .. => true
  | .posSet .. => true
  | .camLoad .. => true
  | .convoyJoin .. => true
  | .convoyLeave .. => true
  | .phaseMove .. => true
  | .basketArm .. => true
  | .basketList .. => true
  | .basketRead .. => true
  | .basketRelease .. => true
  | .latchRead .. => true
  | .capTrigger .. => true
  | .basketDisarm .. => true
  | .fioOutSet .. => true
  | .fioOutAt .. => true
  | .fabPrefer .. => true
  | .fabPort .. => true
  | .fabTopology .. => true
  | .canSend _ _ _ fr _ => decide (fr.data.length ≤ 64)
  | .canCancel .. => true
  | .canRead .. => true
  | .safConfigLoad .. => true
  | .safConfigRead .. => true
  | .safCommission .. => true
  | .safAck .. => true
  | .pwrEnter .. => true
  | .pwrDomain .. => true
  | .engineRestart .. => true
  | .fwWrite .. => true
  | .fwActivate .. => true
  | .cfgSave .. => true
  | .threadLoad .. => true
  | .threadStart .. => true
  | .threadCancel .. => true
  | .threadPrio .. => true
  | .logRead .. => true
  | .logMark .. => true
  | .threadDispatch => true
  | .ageingRaise .. => true
  | .schedulerTick => true
  | .threadTrap .. => true
  | .schYield .. => true
  | .schSleep .. => true
  | .schSleepUntil .. => true
  | .schWait .. => true
  | .schSignal .. => true
  | .schNow .. => true
  | .schExit .. => true
  | .schCallInvalid .. => true
  | .arbitrationGrant arb raised => raised.all (fun r => decide (r.1.val < arb.n)) && decide ((raised.map (·.1)).Nodup)
  | .grantCutoff .. => true
  | .waitGraphRebuild .. => true
  | .portTrainingStart .. => true
  | .portCalDone .. => true
  | .blockLock .. => true
  | .trainBlockRx .. => true
  | .trainTimeout .. => true
  | .portRetry .. => true
  | .delayReqSend .. => true
  | .delayReqRx .. => true
  | .delayRespRx .. => true
  | .linkSignalLost .. => true
  | .blockLockLost .. => true
  | .invalidSyncHeader .. => true
  | .controlBlockTimeout .. => true
  | .delayExchangeFail .. => true
  | .idleBlockRx .. => true
  | .fragBlockRx _ frag => decide (frag.data.length ≤ 120) && frag.data.length % 8 == 0
  | .abortBlockRx .. => true
  | .resyncBlockRx .. => true
  | .rmarkBlockRx .. => true
  | .controlBlockCrcError .. => true
  | .benchEnd .. => true
  | .timeFrameSend .. => true
  | .timeFrameRx _ m _ => decide (m.state < 256) && decide (m.depth < 256)
  | .linkDownFrameRx _ _ _ cause gen => decide (cause < 256) && decide (gen < 65536)
  | .repairApply .. => true
  | .generationRecompute topo => decide (topo.length ≤ 4095)
  | .discoverSend .. => true
  | .discoverRx .. => true
  | .discoverExpiry .. => true
  | .reportSend => true
  | .reportRx _ p => decide (p.entries.length ≤ 4095)
  | .assignRx _ l => decide (l.length ≤ 4095)
  | .tableRx _ gen _ => decide (gen < 65536)
  | .tableApply => true
  | .registerRx _ _ _ fa => decide (fa < 2 ^ 25)
  | .soloTimeout => true
  | .bulkRx .. => true
  | .bulkTimeout .. => true
  | .relayRx _ _ _ _ _ data => decide (data.length ≤ 2952)
  | .relayExpiry .. => true
  | .ethFrameInvalid .. => true
  | .pauseFrameRx .. => true
  | .arpRequestRx .. => true
  | .arpReplyRx .. => true
  | .icmpEchoRx _ _ data => decide (data.length ≤ 1476)
  | .arpEntryExpiry .. => true
  | .arpResolveTimeout .. => true
  | .fragReassemblyTimeout .. => true
  | .ptpSyncRx .. => true
  | .ptpFollowUpRx .. => true
  | .ptpPdelayReqRx .. => true
  | .ptpPdelayRespRx .. => true
  | .ptpPdelayRespFollowUpRx .. => true
  | .ptpDelayRespRx .. => true
  | .ptpAnnounceRx .. => true
  | .ptpIgnoredRx .. => true
  | .ptpAnnounceTimeout .. => true
  | .ptpDelayReqSend .. => true
  | .ethLinkChange .. => true
  | .ethFrameTx .. => true
  | .ethScheduledEnqueue .. => true
  | .ethTxLate .. => true
  | .qbvGateChange .. => true
  | .qbvConfigChange .. => true
  | .safeFrameHandover .. => true
  | .safeFrameTx _ bytes => decide (bytes.length = 36)
  | .canArbitration .. => true
  | .canTxDone .. => true
  | .canArbLost .. => true
  | .canError .. => true
  | .canBusOffRecovery .. => true
  | .canFrameRx _ fr _ _ _ => decide (fr.data.length ≤ 64)
  | .fieldInputDebounced .. => true
  | .fastLatchEdge .. => true
  | .fastLatchDebounced .. => true
  | .fioFrameRx .. => true
  | .fioReportRx .. => true
  | .fioStaleTimeout .. => true
  | .fioHeartbeatTimeout .. => true
  | .wireBreakSet .. => true
  | .wireBreakClear .. => true
  | .outputCurrentLimit .. => true
  | .outputLimitEnd .. => true
  | .outputOvertemp .. => true
  | .groupOvertemp .. => true
  | .outputCooled .. => true
  | .outputRetryReset .. => true
  | .fioOutAtApply .. => true
  | .supplyMeasurement .. => true
  | .supplyLevelFall .. => true
  | .supplyLevelRise .. => true
  | .safetyFioFrameRx .. => true
  | .safetyFioLinkTimeout .. => true
  | .safeCycle readback => decide (readback.length = 8)
  | .releaseTest .. => true
  | .darkPulseTest _ _ _ brakes => brakes.all (fun b => decide (b < 80))
  | .darkPulseLowSide .. => true
  | .safeInputChange .. => true
  | .safeInputTest .. => true
  | .safetyTapEdge .. => true
  | .safetyTapWord .. => true
  | .safeFrameRx .. => true
  | .safeWindowExpiry .. => true
  | .safeWatchdogExpiry .. => true
  | .safePairSend .. => true
  | .coreReportRx _ brakes => brakes.all (fun b => decide (b < 80))
  | .coreReportTimeout => true
  | .safetyReportRx .. => true
  | .brakeCurrentFault .. => true
  | .safetySelftestDone => true
  | .safetyConfigDelivery => true
  | .safetyInternalFault .. => true
  | .safetyPeriodicSelftest .. => true
  | .safetyOscCheck .. => true
  | .pwrWake => true
  | .powerEntryComplete => true
  | .powerExitComplete => true
  | .vin12Brownout => true
  | .vin12Return => true
  | .vstbyLoss => true
  | .suppliesGood => true
  | .extReset => true
  | .thermalTrip => true
  | .caseTempReading tenths => decide (-32768 ≤ tenths) && decide (tenths ≤ 32767)
  | .bootStage => true
  | .supWatchdogExpiry => true
  | .supEccError => true
  | .supervisorRestartDone => true
  | .fwSwitchRestart => true
  | .migrationHandover .. => true
  | .engineRescue .. => true
  | .engineGroupReady .. => true
  | .timeTick => true
  | .arbitrationIdleCycle .. => true
  | .snapshotComplete => true
  | .virtualAxisSample .. => true
  | .relayDatagramRx _ _ _ data => decide (data.length ≤ 2952)
  | .registerAnswerRx .. => true
  | .groupSegmentRx _ segs => segsOk segs
  | .safetySupplyGood => true
  | .extResetRelease => true
  | .thermalTripRelease => true
  | .mbxEvtLostRead => true
  | .lspClearErr .. => true

end Sys2Proof
end

