-- ==== Sys2Proof/Tests/Slice0.lean ====
section
/-! SUPPORT. Tests: ill-formed commands are refused, the spec's worked examples, and for every obligation with hypotheses a
theorem `witness_<name>` that shows operands and a state meeting them, clause by clause. -/
set_option Elab.async false

open Sys2Proof Sys2Proof.Machine
namespace Tests

/-- The tests' command reference: mailbox 0, tag 0. -/
def wref : CmdRef := .host 0 0 false

/-- `s` with the tests' command queued under an opcode. -/
def wq (op : BitVec 16) (s : State) : State :=
  s.setCmd 0 { opcode := op, state := .queued, inFlight := true }


/-- A kernel image of one bundle of four NOPs, with its CRC (R204). -/
def kernelImage : List Byte :=
  let head : List Byte := leBytes 4 0x4E524B4C ++ leBytes 2 1 ++ leBytes 1 15 ++ leBytes 1 0 ++ leBytes 2 1 ++ leBytes 2 0 ++
    leBytes 2 0xFFFF ++ leBytes 2 0 ++ leBytes 4 100 ++ List.replicate 40 0
  head ++ leBytes 4 1922504938 ++ List.replicate 16 0

/-- A program image of one instruction word (R567). -/
def programImage : List Byte :=
  let head : List Byte := leBytes 4 0x4C505241 ++ leBytes 2 1 ++ leBytes 1 1 ++ leBytes 1 0 ++ leBytes 4 4 ++ leBytes 4 0 ++
    leBytes 4 0 ++ leBytes 4 4096 ++ leBytes 4 0 ++ List.replicate 32 0
  let code : List Byte := List.replicate 4 0
  head ++ leBytes 4 (crc32 (head ++ List.replicate 4 0 ++ code)) ++ code

/-- An empty safety configuration image (R731). -/
def safImage : List Byte := leBytes 4 0x53464C53 ++ leBytes 2 1 ++ leBytes 2 0 ++ leBytes 4 16 ++ leBytes 4 0

/-- A safe frame of connection 9, copy 0, sequence 1 (R753). -/
def safeFrame : List Byte :=
  let b : List Byte := leBytes 2 1 ++ leBytes 1 0 ++ leBytes 1 0 ++ leBytes 4 9 ++ leBytes 4 1 ++ List.replicate 20 0
  b ++ leBytes 4 (crc32 b)

/-- A HELLO datagram (R502). -/
def helloFrame : List Byte :=
  leBytes 4 0x4C4D5344 ++ leBytes 1 1 ++ leBytes 1 1 ++ leBytes 2 32 ++ List.replicate 64 0

/-- A COMMAND datagram of session 7 under the empty key (R502, R505). -/
def commandFrame : List Byte :=
  let b : List Byte := leBytes 4 0x4C4D5344 ++ leBytes 1 1 ++ leBytes 1 3 ++ leBytes 2 64 ++ leBytes 4 7 ++ leBytes 8 1 ++ List.replicate 68 0
  b ++ (hmac [] b).take 16
/-! ### Ill-formed commands are refused by `Instr.wf` -/

theorem test_wf_bldDone : (Instr.bldDone 0 (some (9, .overhold))).wf = false := by decide
theorem test_wf_offsetCalibrationDone : (Instr.offsetCalibrationDone (.servo 0) [8192]).wf = false := by decide
theorem test_wf_offsetCalibrationDone_aux : (Instr.offsetCalibrationDone (.aux 0) [2048]).wf = false := by decide
theorem test_wf_auxCurrentSample : (Instr.auxCurrentSample 0 0 (-2049)).wf = false := by decide
theorem test_wf_plannerSegmentWrite (ep : TrailEp) : (Instr.plannerSegmentWrite ep []).wf = false := by cases ep <;> rfl
theorem test_wf_groupSegmentSend : (Instr.groupSegmentSend 0 0 (List.replicate 9 {})).wf = false := by decide
theorem test_wf_groupSegmentRx (ep : TrailEp) : (Instr.groupSegmentRx ep []).wf = false := by cases ep <;> rfl
theorem test_wf_captureSample : (Instr.captureSample 0 {} (some (-8193))).wf = false := by decide
theorem test_wf_udpHello : (Instr.udpHello 0 0 (List.replicate 2953 0)).wf = false := by decide +kernel
theorem test_wf_udpCommand : (Instr.udpCommand 0 0 (List.replicate 2953 0)).wf = false := by decide +kernel
theorem test_wf_commitItemsMsg (p : PrepRef) (i : Item) : (Instr.commitItemsMsg p 0 0 (List.replicate 4097 i)).wf = false := by
  simp only [Instr.wf, List.length_replicate]; decide
theorem test_wf_commitReadyMsg : (Instr.commitReadyMsg 4294967296 0 0 0).wf = false := by decide
theorem test_wf_commitAckMsg : (Instr.commitAckMsg 4294967296 0).wf = false := by decide
theorem test_wf_commitAppliedMsg : (Instr.commitAppliedMsg 4294967296 0).wf = false := by decide
theorem test_wf_keySet : (Instr.keySet wref 0 []).wf = false := by decide
theorem test_wf_canSend : (Instr.canSend wref 0 0 { data := List.replicate 65 0 } none).wf = false := by decide
theorem test_wf_canFrameRx : (Instr.canFrameRx 0 { data := List.replicate 65 0 } false false 0).wf = false := by decide
theorem test_wf_arbitrationGrant_twice : (Instr.arbitrationGrant .bank [(0, 1), (0, 2)]).wf = false := by decide
theorem test_wf_arbitrationGrant_unknown : (Instr.arbitrationGrant (.fabTx 0) [(16, 1)]).wf = false := by decide
theorem test_wf_fragBlockRx : (Instr.fragBlockRx 0 { data := [0] }).wf = false := by decide
theorem test_wf_timeFrameRx : (Instr.timeFrameRx 0 { depth := 256 } {}).wf = false := by decide
theorem test_wf_linkDownFrameRx : (Instr.linkDownFrameRx 0 0 0 256 0).wf = false := by decide
theorem test_wf_generationRecompute (e : ReportEntry) : (Instr.generationRecompute (List.replicate 4096 e)).wf = false := by
  simp only [Instr.wf, List.length_replicate]; decide
theorem test_wf_reportRx (e : ReportEntry) : (Instr.reportRx 0 ⟨0, List.replicate 4096 e⟩).wf = false := by
  simp only [Instr.wf, List.length_replicate]; decide
theorem test_wf_assignRx (e : AssignEntry) : (Instr.assignRx 0 (List.replicate 4096 e)).wf = false := by
  simp only [Instr.wf, List.length_replicate]; decide
theorem test_wf_tableRx (d : TableData) : (Instr.tableRx 0 65536 d).wf = false := by simp only [Instr.wf]; decide
theorem test_wf_registerRx : (Instr.registerRx 0 0 0 33554432).wf = false := by decide
theorem test_wf_relayRx : (Instr.relayRx 0 0 false 0 0 (List.replicate 2953 0)).wf = false := by decide +kernel
theorem test_wf_relayDatagramRx : (Instr.relayDatagramRx 0 0 0 (List.replicate 2953 0)).wf = false := by decide +kernel
theorem test_wf_icmpEchoRx : (Instr.icmpEchoRx 0 0 (List.replicate 2953 0)).wf = false := by decide +kernel
theorem test_wf_safeFrameTx : (Instr.safeFrameTx 0 []).wf = false := by decide
theorem test_wf_safeCycle : (Instr.safeCycle []).wf = false := by decide
theorem test_wf_darkPulseTest : (Instr.darkPulseTest 0 true true [80]).wf = false := by decide
theorem test_wf_coreReportRx : (Instr.coreReportRx {} [80]).wf = false := by decide
theorem test_wf_caseTempReading : (Instr.caseTempReading 32768).wf = false := by decide
theorem test_wf_accepts : (Instr.caseTempReading 250).wf = true ∧ (Instr.auxCurrentSample 0 2047 (-2048)).wf = true := by decide

/-! ### The spec's worked examples

Each expected value is the one the named chapter's worked example prints. -/

/-- Chapter 2: the first grid instant after XT 21,780,256,376 ns on n = 4,000 and p = 1,250 is 21,780,269,531.25 ns (R85). -/
theorem test_grid_first_instant : gridAtOrAfter 4000 1250 (21780256376 * 65536) = 21780269531 * 65536 + 0x4000 := by decide +kernel

/-- Chapter 12: a commit accepted at 500,040,000 ns with epoch_ticks 64,000 takes effect at 501,000,000 ns (R517). -/
theorem test_commit_boundary : gridAtOrAfter 64000 0 ((500040000 + 100000) * 65536) = 501000000 * 65536 := by decide +kernel

/-- Chapter 3: 2.75 turns at 12.5 turns/s, 31.25 µs later, is 0x0000_0002_C019_9999 (R113). -/
theorem test_extrapolated_word : extrapolate 0x2C0000000 0xC80000000 (31250 * 65536) = 0x2C0199999 := by decide +kernel

/-- Chapter 10: between 7.5 turns at t0 − 11.4 µs and 7.500390625 turns at t0 + 19.85 µs the latched position is
0x0000_0007_8009_56C0 (R461). -/
theorem test_latched_position :
    bracket (1000000 * 65536) [((1000000 + 19850) * 65536, 0x780199999, true), ((1000000 - 11400) * 65536, 0x780000000, true)] =
      (0x7800956C0, true) := by decide +kernel

/-- x · 2^48 of x ten-thousandths. -/
def q48 (x : Int) : Int := x * 281474976710656 / 10000

/-- Chapter 5: sets 0 and 1 of the F3 stand. -/
def standSet0 : SetRecord := { b0 := q48 4000000, b1 := q48 (-3960000), a1 := q48 (-10000), outMin := q48 (-21000), outMax := q48 21000 }
def standSet1 : SetRecord := { b0 := q48 6000000, b1 := q48 (-5940000), a1 := q48 (-10000), outMin := q48 (-18000), outMax := q48 18000 }

/-- Chapter 5: the change to set 1 at x = 0.0050 holds the output at 1.80 with sec_sat set; it rescales the history (R234). -/
theorem test_set_change_saturated :
    let o := sectionStep standSet1 { x1 := q48 45, y1 := q48 21000, sat := true, used := some standSet0 } (50 * 16777216 / 10000)
    o.y = 18000 * 16777216 / 10000 ∧ o.sec.sat = true ∧ o.rescaled = true := by decide +kernel

/-- Chapter 5: at the change back to set 0 the output stays 1.80 and sec_sat clears (R234). -/
theorem test_set_change_clears :
    let o := sectionStep standSet0 { x1 := q48 45, y1 := q48 18000, sat := true, used := some standSet1 } (50 * 16777216 / 10000)
    o.y = 18000 * 16777216 / 10000 ∧ o.sec.sat = false ∧ o.rescaled = true := by decide +kernel

/-- Chapter 6: duties 0.80, 0.78 and 0.20 on a 31.25 µs carrier with a 600 ns window move phase a to on_a 2.8375 µs and leave
the other edges (R265); to 0.01 ns, the duties being rounded to Q8.24. -/
theorem test_window_shift :
    let w := windowShift 600 250 31250 { a := 13421773, b := 13086228, c := 3355443 }
    w.hi.1 = 0 ∧ 2837.49 < w.hi.2.1 ∧ w.hi.2.1 < 2837.51 ∧ 3437.49 < w.mid.2.1 ∧ w.mid.2.1 < 3437.51 ∧
      12499.99 < w.lo.2.1 ∧ w.lo.2.1 < 12500.01 ∧ w.shifted = true ∧ w.ok = true := by decide +kernel

/-- Chapter 3: the CRC of no bytes is its initial value (R127). -/
theorem test_crc_empty : crc16 [] = 0xFFFF := by decide

/-- A DC-link code of 0 is 0 V whatever the full scale. -/
theorem vdcOf_zero (s : State) (i : Nat) (x : Rat) (h : s.getDc i = 0) : s.vdcOf i x = 0 := by simp [State.vdcOf, h]

/-- A stepper channel whose table ends in 65,535 and whose least DC-link voltage is 0. -/
def stepperReady : State :=
  wq 0x0301 ({ State.reset with cfg := [(itemKey 0x20 P.stpTable 0, 65535 * 2 ^ 16384), (itemKey 0x20 P.stpDcMin 0, 0)] }.modStepper 0
    (fun c => { c with sto := false }))

theorem witness_AxisCommandsAct_3 : let s := stepperReady
    s.queuedFor wref 0x0301 = true ∧ classOf (0x20 : BitVec 16).toNat = some (.stepper, 0) ∧ (s.getStepper 0).state = .disabled ∧
    (s.getStepper 0).sto = false ∧ s.parF (epStepper 0) P.stpDcMin ≤ s.vdcOf (s.par (epStepper 0) P.stpDcInput)
      (Config.dcFullscale (s.par (epStepper 0) P.stpDcInput)) ∧ s.synchronised (epStepper 0) = false ∧
    s.comboFails (epStepper 0) = false := by
  refine ⟨by decide +kernel, by decide +kernel, by decide +kernel, by decide +kernel, ?_, by decide +kernel, by decide +kernel⟩
  rw [vdcOf_zero _ _ _ (by decide +kernel)]
  decide +kernel

/-- An auxiliary drive whose least DC-link voltage is 0. -/
def auxReady : State := wq 0x0301 ((State.reset.modAux 0 (fun a => { a with sto := false })).setPar 0x40 P.auxDcMin 0 0)

theorem witness_AxisCommandsAct_4 : let s := auxReady
    s.queuedFor wref 0x0301 = true ∧ classOf (0x40 : BitVec 16).toNat = some (.aux, 0) ∧ (s.getAux 0).state = .off ∧
    (s.getAux 0).sto = false ∧ (s.getAux 0).gateFault = false ∧ s.parF (epAux 0) P.auxDcMin ≤
      s.vdcOf (s.par (epAux 0) P.auxDcInput) (Config.dcFullscale (s.par (epAux 0) P.auxDcInput)) ∧ s.comboFails (epAux 0) = false := by
  refine ⟨by decide +kernel, by decide +kernel, by decide +kernel, by decide +kernel, by decide +kernel, ?_, by decide +kernel⟩
  rw [vdcOf_zero _ _ _ (by decide +kernel)]
  decide +kernel

/-- An auxiliary drive in RUN with its first sample due. -/
def auxRuns : State := (State.reset.modAux 0 (fun a => { a with state := .run })).setPar 0x40 P.auxOff 0 0

theorem witness_StepperAndAuxActs_8 : let s := auxRuns
    let u := gridAtOrBefore (s.par (epAux 0) P.auxPeriodTicks) (s.par (epAux 0) P.auxPhaseTicks) s.xt16
    (s.getAux 0).state ≠ .off ∧ (s.getAux 0).state ≠ .faulted ∧ (s.getAux 0).pwm.sample = 0 ∧
    (((((s.modAux 0 (fun a => { a with sub := (a.sub + 1) % 4, pwm := { a.pwm with
      updateXt := u, period := s.par (epAux 0) P.auxPeriodTicks * tickUnits, sample := a.pwm.sample + 1 } })).auxSampleFaults
        0).auxSwitch 0).getAux 0).state.driven = true) := by
  refine ⟨by decide +kernel, by decide +kernel, by decide +kernel, ?_⟩
  unfold State.auxSampleFaults
  dsimp only
  rw [vdcOf_zero _ _ _ (by decide +kernel)]
  decide +kernel

theorem witness_AuxDriveEventsComplete_0 : let s := auxRuns
    let u := gridAtOrBefore (s.par (epAux 0) P.auxPeriodTicks) (s.par (epAux 0) P.auxPhaseTicks) s.xt16
    (s.getAux 0).state ≠ .off ∧ (s.getAux 0).state ≠ .faulted ∧ (s.getAux 0).pwm.sample = 0 ∧
    (((((s.modAux 0 (fun a => { a with sub := (a.sub + 1) % 4, pwm := { a.pwm with
      updateXt := u, period := s.par (epAux 0) P.auxPeriodTicks * tickUnits, sample := a.pwm.sample + 1 } })).auxSampleFaults
        0).auxSwitch 0).getAux 0).state.driven = true) := witness_StepperAndAuxActs_8

/-- The tolerance of the planner holds at least a value itself, whatever it is. -/
theorem near_self (a : Int) : near a a = true := by simp [near]

/-- A trail in RUNNING whose moves have all run. -/
def runsDry : State :=
  (State.reset.modFollower 0 (fun f => { f with state := .decoupled })).modTrail 0 (fun t => { t with state := .running })

/-- The hold entry of an axis at rest (R335). -/
def holdEntry : Seg := { hold := true }

theorem runsDry_plans : runsDry.profileOk 0 [holdEntry] = true := by
  have hj : runsDry.joinAt 0 holdEntry = {} := by decide +kernel
  have hm : (runsDry.getTrail 0).moves = [] := by decide +kernel
  have hr : segRests holdEntry = true := by simp only [segRests, holdEntry, near_self]; decide
  have h0 : holdEntry.hold = true := rfl
  have hp : holdEntry.p0 = 0 := rfl
  have hv : holdEntry.v0 = 0 := rfl
  have h1 : holdEntry.move = 0 := rfl
  simp [State.profileOk, State.entryOk, State.dwellOk, hj, hm, hr, h0, hp, hv, h1, near_self]

theorem witness_TrailActs_14 : let s := runsDry
    s.segsFit (s.getTrail (trailEp (.servo 0))) [holdEntry] = true ∧ (s.getFollower (trailEp (.servo 0))).state = .decoupled ∧
    (s.getTrail (trailEp (.servo 0))).state = .running ∧ s.groupOf (trailEp (.servo 0)) = none ∧
    (s.planView (trailEp (.servo 0)) (s.xtOfFt16 holdEntry.tStart)).profileOk (trailEp (.servo 0)) [holdEntry] = true ∧
    [holdEntry].all (fun g => g.fol.isNone && (g.move == 0 || (s.getTrail (trailEp (.servo 0))).moves.any (fun m => m.num == g.move))) = true ∧
    s.lateSoft (trailEp (.servo 0)) holdEntry = none := by
  refine ⟨by decide +kernel, by decide +kernel, by decide +kernel, by decide +kernel, ?_, by decide +kernel, by decide +kernel⟩
  have hv : runsDry.planView (trailEp (.servo 0)) (runsDry.xtOfFt16 holdEntry.tStart) = runsDry := by decide +kernel
  rw [hv]
  exact runsDry_plans

/-- A path group of axis 0 in RUNNING whose moves have all run. -/
def groupRuns : State :=
  ((State.reset.setPar 0x1F40 P.members 0 (2 ^ 32)).modFollower 0 (fun f => { f with state := .decoupled })).modTrail 0x1F40
    (fun t => { t with state := .running })

theorem witness_TrailActs_15 : let s := groupRuns
    s.segsFit (s.getTrail (trailEp (.servo 0))) [holdEntry] = true ∧ (s.getFollower (trailEp (.servo 0))).state = .decoupled ∧
    s.groupOf (trailEp (.servo 0)) = some 0 ∧ (s.getTrail (epGroup 0)).state = .running ∧
    (s.planView (epGroup 0) (s.xtOfFt16 holdEntry.tStart)).memberOk 0 (trailEp (.servo 0)) [holdEntry] = true ∧
    [holdEntry].all (fun g => g.fol.isNone) = true ∧ s.lateSoft (trailEp (.servo 0)) holdEntry = none := by
  refine ⟨by decide +kernel, by decide +kernel, by decide +kernel, by decide +kernel, ?_, by decide +kernel, by decide +kernel⟩
  have hv : groupRuns.planView (epGroup 0) (groupRuns.xtOfFt16 holdEntry.tStart) = groupRuns := by decide +kernel
  have hj : groupRuns.joinAt (trailEp (.servo 0)) holdEntry = {} := by decide +kernel
  have hm : (groupRuns.getTrail (epGroup 0)).moves = [] := by decide +kernel
  have hr : segRests holdEntry = true := by simp only [segRests, holdEntry, near_self]; decide
  rw [hv]
  have hp : holdEntry.p0 = 0 := rfl
  have hv : holdEntry.v0 = 0 := rfl
  simp [State.memberOk, hj, hm, hr, hp, hv, near_self, legs]

/-- An axis in ENABLING that has listened for its 20 ms, the observer locked on a shaft that hardly turns. -/
def listening : State :=
  { (State.reset.modLoop 0 (fun l => { l with state := .enabling })).modFoc 0 (fun f => { f with
      listenFrom := some 0, obs := { f.obs with locked := true } }) with tick := 10 ^ 12 }.setPar 0 P.catchThreshold 0 0x3F800000

theorem witness_EnableAndDriveEventsAct_10 : let s := listening
    (s.getLoop 0).state = .enabling ∧ s.listenOver (s.getFoc 0) (s.parF 0 P.listenEmfMin) = true ∧
    (Sys2Proof.Machine.norm (ofQ8 (s.getFoc 0).obs.eAl, ofQ8 (s.getFoc 0).obs.eBe) < s.parF 0 P.listenEmfMin ∨
      ((s.getFoc 0).obs.locked = true ∧
        rabs ((if s.parZ 0 P.catchDirection < 0 then -1 else 1) * obsSpeed (s.focCfg 0) (s.getFoc 0).obs / (s.focCfg 0).wb) <
          s.parF 0 P.catchThreshold)) := by
  refine ⟨by decide +kernel, ?_, .inr ⟨by decide +kernel, ?_⟩⟩
  · have h : (listening.getFoc 0).listenFrom = some 0 := by decide +kernel
    have p : listening.passed 0 (msTicks 20) = true := by decide +kernel
    simp only [State.listenOver, h, p, Bool.or_true]
  · have h : (listening.getFoc 0).obs.omega = 0 := by decide +kernel
    have e : obsSpeed (listening.focCfg 0) (listening.getFoc 0).obs = 0 := by simp only [obsSpeed, h]; exact zero_div _
    rw [e]
    simp only [mul_zero, zero_div]
    decide +kernel

/-- One byte of the CRC. -/
def crcByte (c : Nat) (b : Byte) : Nat := (List.range 8).foldl (fun c i => crcBitR 0xEDB88320 c (bitOf b.toNat i)) c

/-- A CRC in two parts, so that each part is a small evaluation. -/
theorem crc32_cut (l : List Byte) (n x y : Nat) (h : (l.take n).foldl crcByte 0xFFFFFFFF = x) (h' : (l.drop n).foldl crcByte x = y) :
    crc32 l = Nat.xor y 0xFFFFFFFF := by
  have e : crc32 l = Nat.xor (l.foldl crcByte 0xFFFFFFFF) 0xFFFFFFFF := rfl
  rw [e, ← List.take_append_drop n l, List.foldl_append, h, h']

/-- The kernel image with its CRC field zero. -/
def kernelBare : List Byte := kernelImage.take 60 ++ List.replicate 4 0 ++ kernelImage.drop 64

theorem kernelBare_crc : crc32 kernelBare = 1922504938 := by
  rw [crc32_cut kernelBare 40 2696536050 (Nat.xor 1922504938 0xFFFFFFFF) (by decide +kernel) (by decide +kernel)]
  decide +kernel

theorem kernelImage_good : headerBad kernelImage = false := by
  have h : crc32 (kernelImage.take 60 ++ List.replicate 4 0 ++ kernelImage.drop 64) = 1922504938 := kernelBare_crc
  unfold headerBad
  dsimp only
  rw [h]
  decide +kernel

theorem witness_EngineHostActs_0 : (wq 0x0440 State.reset).queuedFor wref 0x0440 = true ∧ headerBad kernelImage = false ∧
    kernelImage.length = 64 + 16 * leField kernelImage 8 2 ∧ badBundle (kernelOf kernelImage).code = none ∧
    overDeclared (kernelOf kernelImage) = false ∧ (wq 0x0440 State.reset).host.kernels.length < 64 :=
  ⟨by decide +kernel, kernelImage_good, by decide +kernel, by decide +kernel, by decide +kernel, by decide +kernel⟩

/-- A member of a fabric that it leads, its port 0 up. -/
def leader : State := (State.reset.modFabric (fun f => { f with root := Config.uid, state := .member })).modFabPort 0 (fun f => { f with state := .up })

theorem leader_leads : leader.leads = true := by
  have h : (leader.fabric.state == .member || leader.fabric.state == .solo) = true := by decide +kernel
  have r : leader.isRoot = true := by simp [State.isRoot, leader, State.modFabric, State.modFabPort, State.setFabPort]
  simp [State.leads, h, r]

theorem witness_FabricGenerationActs_3 : leader.leads = true ∧ leader.fabric.state = .member := ⟨leader_leads, by decide +kernel⟩

theorem witness_FabricGenerationActs_5 : (leader.getFabPort 0).linked = true ∧ leader.leads = true ∧
    (leader.fabric.state = .member ∨ leader.fabric.state = .solo) := ⟨by decide +kernel, leader_leads, by decide +kernel⟩

theorem witness_FabricTrafficActs_6 : leader.leads = true ∧ ¬ ((0 : Nat) = 1 ∧ leader.fabric.partition = true) := ⟨leader_leads, by decide +kernel⟩

/-- A module that counts below another root, its port 0 up. -/
def counts : State := { (State.reset.modFabric (fun f => { f with root := Config.uid + 1, state := .counting })).modFabPort 0
  (fun f => { f with state := .up }) with tick := 10 ^ 12 }

theorem counts_notRoot : counts.isRoot = false := by
  have h : Config.uid + 1 ≠ Config.uid := by bv_omega
  simpa [State.isRoot, counts, State.modFabric, State.modFabPort, State.setFabPort] using h

theorem witness_FabricGenerationActs_4 : counts.fabric.state = .counting ∧ counts.settled = true ∧ counts.fabric.reported = false ∧
    ¬ ((counts.isRoot && counts.fabric.parent == 7) = true) := by
  refine ⟨by decide +kernel, by decide +kernel, by decide +kernel, ?_⟩
  simp [counts_notRoot]

theorem witness_FabricGenerationActs_6 : (counts.getFabPort 0).linked = true ∧ counts.fabric.state = .counting ∧ counts.isRoot = false :=
  ⟨by decide +kernel, by decide +kernel, counts_notRoot⟩

/-- A reachable arbiter, a requester and requests that stand: the premises of RaisedRequestWinsWithin16N. -/
theorem witness_RaisedRequestWinsWithin16N : (0 : Nat) < 17 ∧ ({} : Arbiter).inRange 17 = true ∧ ∀ k : Nat, (fun _ _ => true : Nat → Nat → Bool) k 0 = true :=
  ⟨by decide, by decide +kernel, fun _ => rfl⟩

/-- The premise of StepTakesOneCommand, with a command in the queue. -/
theorem witness_StepTakesOneCommand : ∃ t, step (State.reset.withQueue [.timeStepApply]) = .next t := ⟨_, rfl⟩

theorem witness_StepKeepsSound : (State.reset.withQueue [.timeStepApply]).sound = true ∧
    ∃ t, step (State.reset.withQueue [.timeStepApply]) = .next t := ⟨by decide +kernel, _, rfl⟩

/-- A load past the local memory, which alone stops (log entry 24). -/
theorem witness_StopsOnlyOutsideLocalMemory :
    exec (.ld 0 false 1 1 ⟨0, .clean⟩) (State.reset.modEngine 0 (fun e => { e with state := .idle }.setX 1 (BitVec.ofNat 64 (2 ^ 40)))) =
      .fault .addressOutsideLocalMemory := by rfl

/-- States and operands that meet the premises of SampleEventsAct, clause by clause. -/
theorem witness_SampleEventsAct :
    (-- clause 1, updatePoint
     let axis : Fin 32 := 0
     let i := axis.val
     let s₀ : State := ((State.reset).modPower (fun p => { p with domains := 0xFF })).modPower (fun p =>
         { p with domains := 0xFF })
     let s := s₀
     decide (s.driveOn = true ∧ s.updateDue i = true) : Bool) = true ∧
    (-- clause 2, shuntSample
     let axis : Fin 32 := 0
     let i := axis.val
     let s₀ : State := ((State.reset).modPwm axis.val (fun e => { e with shuntTriggers := 0 })).modTime (fun e =>
         { e with ft16 := BitVec.ofInt 48 (unitsOfNs (((State.reset).modPwm axis.val (fun e => { e with shuntTriggers := 0 })).sampleInstants 0).1) })
     let s := s₀
     let w := s.getPwm i
     let p := s.sampleInstants i
     let due := w.updateXt + unitsOfNs (if w.shuntTriggers = 0 then p.1 else p.2)
     decide (w.shuntTriggers < 2 ∧ due ≤ (s.xt16 : Int) + tickUnits ∧ s.xt16 ≤ due + tickUnits) && (
     decide (w.shuntTriggers = 0)) : Bool) = true ∧
    (-- clause 3, shuntSample
     let axis : Fin 32 := 0
     let i := axis.val
     let s₀ : State := ((State.reset).modPwm 0 (fun w => { w with shuntTriggers := 1 })).modTime (fun e =>
         { e with ft16 := BitVec.ofInt 48 (unitsOfNs (((State.reset).modPwm 0 (fun w => { w with shuntTriggers := 1 })).sampleInstants 0).2) })
     let s := s₀
     let w := s.getPwm i
     let p := s.sampleInstants i
     let due := w.updateXt + unitsOfNs (if w.shuntTriggers = 0 then p.1 else p.2)
     decide (w.shuntTriggers < 2 ∧ due ≤ (s.xt16 : Int) + tickUnits ∧ s.xt16 ≤ due + tickUnits) && (
     decide (w.shuntTriggers ≠ 0)) : Bool) = true ∧
    (-- clause 5, dutyCommit
     let axis : Fin 32 := 0
     let i := axis.val
     let s : State := ((State.reset).modFlags axis.val (fun e => { e with engine := (some 0) })).modEngine 0 (fun e =>
         { e with state := .run, running := some 0 })
     (match (s.getFlags i).engine with
     | some le =>
       decide ((s.getEngine le).atCommit i = true)
     | _ => false) : Bool) = true ∧
    (-- clause 6, budgetOverrun
     let axis : Fin 32 := 0
     let i := axis.val
     let s : State := { ((State.reset).modFlags axis.val (fun e => { e with engine := (some 0) })).modEngine 0 (fun e => { e with running := some 0 }) with tick := 10 ^ 12 }
     (match (s.getFlags i).engine with
     | some le =>
       decide (s.overBudget le i = true)
     | _ => false) : Bool) = true ∧
    (-- clause 7, axisRelease
     let axis : Fin 32 := 0
     let i := axis.val
     let s : State := ((((State.reset).modFlags axis.val (fun e => { e with engine := none })).modPower (fun p =>
         { p with state := .ramble })).modPwm 0 (fun w => { w with sample := 1 })).modTime (fun e => { e with xtHi := 1 })
     decide (s.releaseDue i = true ∧ (s.getFlags i).engine = none) : Bool) = true ∧
    (-- clause 8, axisRelease
     let axis : Fin 32 := 0
     let i := axis.val
     let s : State := (((((State.reset).modFlags axis.val (fun e => { e with engine := (some 0) })).modPower (fun p =>
         { p with state := .ramble })).modPwm 0 (fun w => { w with sample := 1 })).modTime (fun e =>
         { e with xtHi := 1 })).modEngine 0 (fun e => { e with state := .run })
     decide (s.releaseDue i = true) && (
     (match (s.getFlags i).engine with
     | some le =>
       let e := (s.getEngine le).state
       decide (e == .run || e == .draining)
     | _ => false)) : Bool) = true ∧
    (-- clause 9, segmentStarvedStop
     let axis : Fin 32 := 0
     let s : State := { ((State.reset).modLoop axis.val (fun e => { e with state := .enabled })).modFlags axis.val (fun e => { e with starvedSince := (some 0) }) with tick := 10 ^ 12 }
     decide ((s.getLoop axis.val).state = .enabled) && (
     (match (s.getFlags axis.val).starvedSince with
     | some t =>
       decide (s.expired t (msTicks 2) = true)
     | _ => false)) : Bool) = true :=
  by and_intros <;> decide +kernel

/-- States and operands that meet the premises of TimeActs, clause by clause. -/
theorem witness_TimeActs :
    (
     let s : State := State.reset
     decide (({ s with tick := s.tick + 1 } : State).ftRuns = true) : Bool) = true ∧
    (
     let f : Ft := 0
     let d : Int := 0
     let s : State := (State.reset).modTime (fun e => { e with announced := some (f, d) })
     decide (s.time.announced = some (f, d) ∧ ftLater f s.ft = false) : Bool) = true ∧
    (-- clause 4, timeSourceTimeout
     let s : State := ({ (State.reset).modTime (fun e => { e with waitFrom := (some 0) }) with tick := 10 ^ 12 }).modTime
         (fun e => { e with state := .acquiring })
     (match s.time.waitFrom with
     | some t =>
       decide (s.expired t (msTicks (s.parF epModule P.sourceTimeout)) = true ∧ s.time.state = .acquiring)
     | _ => false) : Bool) = true ∧
    (-- clause 5, timeSourceTimeout
     let s₀ : State := ({ (State.reset).modTime (fun e => { e with waitFrom := (some 0) }) with tick := 10 ^ 12 }).modTime
         (fun e => { e with state := .locked })
     let s := s₀
     (match s.time.waitFrom with
     | some t =>
       decide (s.expired t (msTicks (s.parF epModule P.sourceTimeout)) = true ∧ s.time.state = .locked)
     | _ => false) : Bool) = true ∧
    (-- clause 7, tdcStamp
     let p : MarkerPath := .fastLatch 0
     decide ((∀ a, p ≠ .shuntEcho a)) : Bool) = true ∧
    (-- clause 8, tdcCalibration
     let s : State := { State.reset with tick := 10 ^ 12 }
     decide (s.passed s.tdcCal.tick (msTicks 10) = true) : Bool) = true ∧
    (-- clause 9, timeStatus
     let ref : CmdRef := wref
     let s : State := wq 0x0200 (State.reset)
     decide (s.queuedFor ref 0x0200 = true) : Bool) = true ∧
    (-- clause 10, timeStep
     let ref : CmdRef := wref
     let s : State := wq 0x0201 (((State.reset).modTime (fun e => { e with state := .locked })).modTime (fun e =>
         { e with lastValid := some 0 }))
     decide (s.queuedFor ref 0x0201 = true ∧ s.time.state = .locked ∧ s.measured = true ∧ s.syncEnabled = false) : Bool) = true ∧
    (-- clause 11, timeStep
     let ref : CmdRef := wref
     let ns : BitVec 64 := 1
     let frac : BitVec 16 := 0
     let s : State := wq 0x0201 ((((State.reset).modTime (fun e => { e with state := .locked })).modTime (fun e =>
         { e with leader := true })).modFabric (fun e => { e with syncDevs := [] }))
     decide (s.queuedFor ref 0x0201 = true ∧ s.time.state = .locked ∧ s.time.leader = true ∧ s.syncEnabled = false ∧
         s.fabric.syncDevs = [] ∧ ns.toInt * 65536 + frac.toNat ≠ 0) : Bool) = true :=
  by and_intros <;> decide +kernel

/-- States and operands that meet the premises of FeedbackEdgesAct, clause by clause. -/
theorem witness_FeedbackEdgesAct :
    (-- clause 1, quadEdge
     let s : State := (State.reset).modPower (fun p => { p with domains := 0xFF })
     decide (s.driveOn = true) : Bool) = true ∧
    (-- clause 2, quadEdge
     let i : Fin 32 := 0
     let a : Bool := true
     let b : Bool := false
     let x : Bool := false
     let s : State := (((State.reset).modPower (fun p => { p with domains := 0xFF })).setPar i.val P.fbSource 0 1).modQuad 0
         (fun q => { q with cand := (true, false, false), held := (127, 127, 127) })
     let q : QuadDecoder := (s.getQuad i.val).sampled (s.par i.val P.quadFilter) (a, b, x)
     let d : Nat := 1
     decide (s.driveOn = true ∧ s.par i.val P.fbSource = 1 ∧
         q = (s.getQuad i.val).sampled (s.par i.val P.quadFilter) (a, b, x) ∧
         d = (quadPlace q.levels.1 q.levels.2.1 + 4 - quadPlace (s.getQuad i.val).levels.1 (s.getQuad i.val).levels.2.1) % 4
         ∧ (d = 1 ∨ d = 3)) : Bool) = true ∧
    (-- clause 3, indexPulse
     let axis : Fin 32 := 0
     let i := axis.val
     let s₀ : State := (((State.reset).modQuad axis.val (fun e => { e with pulse := (some (0, 0)) })).setPar 0 P.fbSource 0
         1).setPar 0 P.indexMode 0 1
     let s := s₀
     (match (s.getQuad i).pulse with
     | some (c, st) =>
       let s := s.modQuad i (fun q => { q with pulse := none })
       decide (s.par i P.fbSource = 1 ∧ s.par i P.indexMode ≠ 0 ∧ (s.getLoop i).state = .disabled)
     | _ => false) : Bool) = true ∧
    (-- clause 4, indexPulse
     let axis : Fin 32 := 0
     let i := axis.val
     let s₀ : State := ((((State.reset).modQuad axis.val (fun e => { e with pulse := (some (0, 0)) })).modLoop 0 (fun l =>
         { l with state := .enabled })).setPar 0 P.fbSource 0 1).setPar 0 P.indexMode 0 1
     let s := s₀
     (match (s.getQuad i).pulse with
     | some (c, st) =>
       let s := s.modQuad i (fun q => { q with pulse := none })
       decide (s.par i P.fbSource = 1 ∧ s.par i P.indexMode ≠ 0 ∧ (s.getLoop i).state ≠ .disabled)
     | _ => false) : Bool) = true ∧
    (-- clause 5, hallEdge
     let aux : Fin 16 := 0
     let st : Fin 8 := 5
     let clocks : Fin 131072 := 4000
     let j := aux.val
     let ep := epAux j
     let s₀ : State := ((State.reset).modPower (fun p => { p with domains := 0xFF })).modAux 0 (fun a =>
         { a with hall := { a.hall with cand := 5, held := (131071, 131071, 131071), state := 4 } })
     let s := s₀
     let was := (s.getAux j).hall.state
     decide (s.driveOn = true) && (
     let s := s.modAux j (fun a => { a with hall := a.hall.sampled (s.par ep P.hallFilter) st.val clocks.val })
     let h := (s.getAux j).hall
     decide (h.state ≠ was) && (
     (match hallPlace (s.par ep P.hallMap) h.state with
     | some k =>
       decide (h.sector = none)
     | _ => false))) : Bool) = true ∧
    (-- clause 6, hallEdge
     let aux : Fin 16 := 0
     let st : Fin 8 := 7
     let clocks : Fin 131072 := 4000
     let j := aux.val
     let ep := epAux j
     let s₀ : State := ((State.reset).modPower (fun p => { p with domains := 0xFF })).modAux 0 (fun a =>
         { a with hall := { a.hall with cand := 7, held := (131071, 131071, 131071), state := 5 } })
     let s := s₀
     let was := (s.getAux j).hall.state
     decide (s.driveOn = true) && (
     let s := s.modAux j (fun a => { a with hall := a.hall.sampled (s.par ep P.hallFilter) st.val clocks.val })
     let h := (s.getAux j).hall
     decide (h.state ≠ was ∧ hallPlace (s.par ep P.hallMap) h.state = none)) : Bool) = true ∧
    (-- clause 7, zeroSpeed
     let axis : Fin 32 := 0
     let s : State := { State.reset with tick := 10 ^ 12 }
     let q := s.getQuad axis.val
     decide (s.passed q.lastEdge (msTicks (s.parF axis.val P.zeroSpeedTime)) = true) : Bool) = true ∧
    (-- clause 8, freeze
     let axis : Fin 32 := 0
     let s : State := { (State.reset).modFb axis.val (fun e => { e with frozenSince := (some 0) }) with tick := 10 ^ 12 }
     (match (s.getFb axis.val).frozenSince with
     | some t =>
       decide (s.passed t (msTicks (s.parF axis.val P.freezeTime)) = true)
     | _ => false) : Bool) = true :=
  by and_intros <;> decide +kernel

/-- States and operands that meet the premises of SerialFeedbackActs, clause by clause. -/
theorem witness_SerialFeedbackActs :
    (-- clause 1, serialReadStart
     let axis : Fin 32 := 0
     let lineHigh : Bool := true
     let i := axis.val
     let s₀ : State := ({ (State.reset).setPar axis.val P.fbSource 0 2 with tick := 10 ^ 12 }).modPower (fun p =>
         { p with domains := 0xFF })
     let s := s₀
     let p := s.getSerial i
     let due := s.driveOn && (s.getPwm i).sample % s.par i P.serialRatio == 0 && p.outstanding.isNone
     decide (s.par i P.fbSource = 2 ∧ due = true ∧ s.recovered i = true) && (
     decide (lineHigh = true)) : Bool) = true ∧
    (-- clause 2, serialReadStart
     let axis : Fin 32 := 0
     let i := axis.val
     let s : State := ((State.reset).setPar axis.val P.fbSource 0 3).modPower (fun p => { p with domains := 0xFF })
     let p := s.getSerial i
     let due := s.driveOn && (s.getPwm i).sample % s.par i P.serialRatio == 0 && p.outstanding.isNone
     decide (s.par i P.fbSource = 3 ∧ due = true) : Bool) = true ∧
    (-- clause 3, serialWordDecoded
     let i : Fin 32 := 0
     let r : LspRequest := .pos
     let bs : List Bool := List.replicate 32 false
     let v : Nat := 0
     let s : State := (State.reset).modSerial i.val (fun e => { e with outstanding := some r })
     decide ((s.getSerial i.val).outstanding = some r ∧ s.decodeSsi i.val bs = .inr v) : Bool) = true ∧
    (-- clause 4, serialWordDecoded
     let i : Fin 32 := 0
     let r : LspRequest := .pos
     let bs : List Bool := []
     let c : WordClass := .frame
     let s : State := (State.reset).modSerial i.val (fun e => { e with outstanding := some r })
     decide ((s.getSerial i.val).outstanding = some r ∧ s.decodeSsi i.val bs = .inl c) : Bool) = true ∧
    (-- clause 5, lspWordTimeout
     let i : Fin 32 := 0
     let r : LspRequest := .pos
     let s : State := ({ (State.reset).setPar i.val P.fbSource 0 3 with tick := 10 ^ 12 }).modSerial i.val (fun e =>
         { e with outstanding := some r })
     decide (s.par i.val P.fbSource = 3 ∧ s.expired (s.getSerial i.val).startTick (nsTicks (s.parF i.val P.lspWordTimeout)) =
         true ∧ (s.getSerial i.val).outstanding = some r ∧ r ≠ .ident ∧ r ≠ .clearErr) : Bool) = true ∧
    (-- clause 6, lspUnsolicitedChar
     let i : Fin 32 := 0
     let s : State := State.reset
     decide ((s.getSerial i.val).driveEnd ≤ s.tick) : Bool) = true ∧
    (-- clause 7, lspClearErr
     let i : Fin 32 := 0
     let s : State := ((State.reset).setPar i.val P.fbSource 0 3).modSerial i.val (fun e => { e with outstanding := none })
     decide (s.par i.val P.fbSource = 3 ∧ (s.getSerial i.val).outstanding = none) : Bool) = true :=
  by and_intros <;> decide +kernel

/-- States and operands that meet the premises of EnableAndDriveEventsAct, clause by clause. -/
theorem witness_EnableAndDriveEventsAct :
    (-- clause 1, prechargeDone
     let axis : Fin 32 := 0
     let i := axis.val
     let s : State := { ((State.reset).modLoop axis.val (fun e => { e with state := .enabling })).modLoop axis.val (fun e => { e with enableStep := 0 }) with tick := 10 ^ 12 }
     let l := s.getLoop i
     decide (l.state = .enabling ∧ l.enableStep = 0 ∧ s.passed l.enableTick (usTicks (max 10 (s.parF i P.prechargeTime))) =
         true) : Bool) = true ∧
    (-- clause 2, enableTimeout
     let axis : Fin 32 := 0
     let i := axis.val
     let s : State := { ((State.reset).modLoop axis.val (fun e => { e with state := .enabling })).modLoop axis.val (fun e => { e with stop := none }) with tick := 10 ^ 12 }
     let l := s.getLoop i
     decide (l.state = .enabling ∧ l.stop = none ∧ s.expired l.enableFrom (msTicks (s.parF i P.enableTimeout)) = true) : Bool) = true ∧
    (-- clause 3, standstill
     let i : Fin 32 := 0
     let t : Nat := 0
     let f : Ft8 := 0
     let s : State := ({ (State.reset).modFlags i.val (fun e => { e with slowSince := some (t, f) }) with tick := 10 ^ 12 }).modLoop i.val (fun e => { e with state := .stopping })
     decide ((s.getFlags i.val).slowSince = some (t, f) ∧ s.passed t (msTicks (s.parF i.val P.standstillTime)) = true ∧
         (s.getLoop i.val).state = .stopping) : Bool) = true ∧
    (-- clause 4, stopTimeout
     let i : Fin 32 := 0
     let w : StopRun := {}
     let s : State := ({ ((State.reset).modLoop i.val (fun e => { e with state := .stopping })).modLoop i.val (fun e => { e with stop := some w }) with tick := 10 ^ 12 }).modLoop i.val (fun e => { e with faultCause := 1 })
     decide ((s.getLoop i.val).state = .stopping ∧ (s.getLoop i.val).stop = some w ∧ w.atUpdate = false ∧
         s.expired w.fromTick (msTicks (s.parF i.val P.stopTimeout)) = true ∧ (s.getLoop i.val).faultCause ≠ 0) : Bool) = true ∧
    (-- clause 5, polarityTest
     let axis : Fin 32 := 0
     let i := axis.val
     let s : State := { (((State.reset).modFoc 0 (fun f => { f with smallSince := some 0, catch_ := .fromStandstill })).modLoop 0 (fun l => { l with state := .enabling, enableStep := 2 })).setPar 0 P.fbSource 0 0 with tick := 10 ^ 12 }
     let due := match (s.getFoc i).smallSince with
       | some t => s.passed t (msTicks 2)
       | none => false
     decide (s.awaitsPolarity i = true ∧ due = true) : Bool) = true ∧
    (-- clause 6, stoLineAssert
     let g : Fin 8 := 0
     let s : State := State.reset
     decide ((mget s.safety.groups g.val {}).released = false) : Bool) = true ∧
    (-- clause 8, dcLinkConversion
     let s : State := ((State.reset).modPower (fun p => { p with domains := 0xFF })).modPower (fun e =>
         { e with state := .ramble })
     decide (s.driveOn = true ∧ s.power.state = .ramble) : Bool) = true ∧
    (-- clause 9, offsetCalibrationDone
     let j : Fin 16 := 0
     let l : List Int := List.replicate 256 default
     let s : State := (State.reset).modAux j.val (fun e => { e with state := .standby })
     let t : State := s.modAux j.val (fun a => { a with foc := State.calibrated a.foc l 41 })
     decide ((s.getAux j.val).state = .standby ∧ l.length = 256 ∧
         t = s.modAux j.val (fun a => { a with foc := State.calibrated a.foc l 41 }) ∧ (t.getAux j.val).foc.offsetWarn = false) : Bool) = true ∧
    (-- clause 10, observerHoldTimeout
     let i : Fin 32 := 0
     let t : Nat := 0
     let s : State := ({ (State.reset).modFoc i.val (fun e => { e with holdFrom := some t }) with tick := 10 ^ 12 }).modFoc
         i.val (fun e => { e with obs := { e.obs with locked := false } })
     decide ((s.getFoc i.val).holdFrom = some t ∧ s.expired t (msTicks (s.parF i.val P.obsHoldTime)) = true ∧
         (s.getFoc i.val).obs.locked = false) : Bool) = true ∧
    (-- clause 12, stopTimeout
     let i : Fin 32 := 0
     let w : StopRun := {}
     let s : State := ({ ((State.reset).modLoop i.val (fun e => { e with state := .stopping })).modLoop i.val (fun e => { e with stop := some w }) with tick := 10 ^ 12 }).modLoop i.val (fun e => { e with faultCause := 0 })
     decide ((s.getLoop i.val).state = .stopping ∧ (s.getLoop i.val).stop = some w ∧ w.atUpdate = false ∧
         s.expired w.fromTick (msTicks (s.parF i.val P.stopTimeout)) = true ∧ (s.getLoop i.val).faultCause = 0) : Bool) = true ∧
    (-- clause 14, offsetCalibrationDone
     let i : Fin 32 := 0
     let l : List Int := List.replicate 256 default
     let s : State := (((State.reset).modLoop i.val (fun e => { e with state := .enabling })).modLoop i.val (fun e =>
         { e with enableStep := 1 })).setPar i.val P.fbSource 0 1
     let t : State := s.modFoc i.val (fun f => State.calibrated f l 164)
     decide ((s.getLoop i.val).state = .enabling ∧ (s.getLoop i.val).enableStep = 1 ∧ l.length = 256 ∧
         t = s.modFoc i.val (fun f => State.calibrated f l 164) ∧ (t.getFoc i.val).offsetWarn = false ∧
         s.par i.val P.fbSource ≠ 0) : Bool) = true ∧
    (-- clause 15, observerHoldTimeout
     let j : Fin 16 := 0
     let t : Nat := 0
     let s : State := ({ ((State.reset).modAux j.val (fun e => { e with state := .hold })).modAux j.val (fun e => { e with foc := { e.foc with holdFrom := some t } }) with tick := 10 ^ 12 }).modAux j.val (fun e => { e with foc := { e.foc with obs := { e.foc.obs with locked := false } } })
     decide ((s.getAux j.val).state = .hold ∧ (s.getAux j.val).foc.holdFrom = some t ∧
         s.expired t (msTicks (s.parF (epAux j.val) P.auxHoldTime)) = true ∧ (s.getAux j.val).foc.obs.locked = false) : Bool) = true :=
  by and_intros <;> decide +kernel

/-- States and operands that meet the premises of LeAccumulatorOpsAct, clause by clause. -/
theorem witness_LeAccumulatorOpsAct :
    (-- clause 1, mac
     let le : Fin 16 := 0
     let s : State := (State.reset).modEngine le.val (fun e => { e with state := .idle })
     decide ((s.getEngine le.val).issues = true) : Bool) = true ∧
    (-- clause 2, msu
     let le : Fin 16 := 0
     let s : State := (State.reset).modEngine le.val (fun e => { e with state := .idle })
     decide ((s.getEngine le.val).issues = true) : Bool) = true ∧
    (-- clause 3, mul
     let le : Fin 16 := 0
     let s : State := (State.reset).modEngine le.val (fun e => { e with state := .idle })
     decide ((s.getEngine le.val).issues = true) : Bool) = true ∧
    (-- clause 4, mac2
     let le : Fin 16 := 0
     let a : Fin 4 := 0
     let b : Fin 4 := 1
     let s : State := (State.reset).modEngine le.val (fun e => { e with state := .idle })
     decide ((s.getEngine le.val).issues = true ∧ b ≠ a) : Bool) = true ∧
    (-- clause 5, mac2
     let le : Fin 16 := 0
     let s : State := (State.reset).modEngine le.val (fun e => { e with state := .idle })
     decide ((s.getEngine le.val).issues = true) : Bool) = true ∧
    (-- clause 6, macus
     let le : Fin 16 := 0
     let s : State := (State.reset).modEngine le.val (fun e => { e with state := .idle })
     decide ((s.getEngine le.val).issues = true) : Bool) = true ∧
    (-- clause 7, clr
     let le : Fin 16 := 0
     let s : State := (State.reset).modEngine le.val (fun e => { e with state := .idle })
     decide ((s.getEngine le.val).issues = true) : Bool) = true ∧
    (-- clause 8, ext
     let le : Fin 16 := 0
     let s : State := (State.reset).modEngine le.val (fun e => { e with state := .idle })
     decide ((s.getEngine le.val).issues = true) : Bool) = true :=
  by and_intros <;> decide +kernel

/-- States and operands that meet the premises of LeMemoryOpsAct, clause by clause. -/
theorem witness_LeMemoryOpsAct :
    (-- clause 1, ld
     let le : Fin 16 := 0
     let b : Fin 32 := 0
     let imm : BitVec 14 := 0
     let s : State := (State.reset).modEngine le.val (fun e => { e with state := .idle })
     decide ((s.getEngine le.val).issues = true ∧ (s.getEngine le.val).addr b imm + 8 ≤ leMemBytes) : Bool) = true ∧
    (-- clause 2, ldq
     let le : Fin 16 := 0
     let b : Fin 32 := 0
     let imm : BitVec 14 := 0
     let s : State := (State.reset).modEngine le.val (fun e => { e with state := .idle })
     decide ((s.getEngine le.val).issues = true ∧ (s.getEngine le.val).addr b imm + 16 ≤ leMemBytes) : Bool) = true ∧
    (-- clause 3, accld
     let le : Fin 16 := 0
     let b : Fin 32 := 0
     let imm : BitVec 17 := 0
     let s : State := (State.reset).modEngine le.val (fun e => { e with state := .idle })
     decide ((s.getEngine le.val).issues = true ∧ (s.getEngine le.val).addr b imm + 24 ≤ leMemBytes) : Bool) = true ∧
    (-- clause 4, st
     let le : Fin 16 := 0
     let b : Fin 32 := 1
     let imm : BitVec 14 := 0
     let h : HookCtx := {}
     let s : State := (((State.reset).modEngine le.val (fun e => { e with state := .idle })).modEngine le.val (fun e =>
         { e with hook := some h })).modEngine 0 (fun e => e.setX 1 0x10C00)
     decide ((s.getEngine le.val).issues = true ∧ (s.getEngine le.val).hook = some h ∧
         s.hookMayStore h ((s.getEngine le.val).addr b imm) 8 = true) : Bool) = true ∧
    (-- clause 5, stq
     let le : Fin 16 := 0
     let b : Fin 32 := 1
     let imm : BitVec 14 := 0
     let h : HookCtx := {}
     let s : State := (((State.reset).modEngine le.val (fun e => { e with state := .idle })).modEngine le.val (fun e =>
         { e with hook := some h })).modEngine 0 (fun e => e.setX 1 0x10C00)
     decide ((s.getEngine le.val).issues = true ∧ (s.getEngine le.val).hook = some h ∧
         s.hookMayStore h ((s.getEngine le.val).addr b imm) 16 = true) : Bool) = true ∧
    (-- clause 6, accst
     let le : Fin 16 := 0
     let b : Fin 32 := 1
     let imm : BitVec 17 := 0
     let h : HookCtx := {}
     let s : State := (((State.reset).modEngine le.val (fun e => { e with state := .idle })).modEngine le.val (fun e =>
         { e with hook := some h })).modEngine 0 (fun e => e.setX 1 0x10C00)
     decide ((s.getEngine le.val).issues = true ∧ (s.getEngine le.val).hook = some h ∧
         s.hookMayStore h ((s.getEngine le.val).addr b imm) 24 = true) : Bool) = true ∧
    (-- clause 7, bld
     let le : Fin 16 := 0
     let l : Fin 32 := 0
     let n : Fin 8 := 0
     let s : State := (((State.reset).modEngine le.val (fun e => { e with state := .idle })).modEngine le.val (fun e =>
         { e with bld := none })).modEngine le.val (fun e => { e with hook := none })
     decide ((s.getEngine le.val).issues = true ∧ (s.getEngine le.val).bld = none ∧ (s.getEngine le.val).hook = none ∧
         ((s.getEngine le.val).getX l.val).toNat + 8 * (n.val + 1) ≤ leMemBytes) : Bool) = true ∧
    (-- clause 8, bldDone
     let le : Fin 16 := 0
     let b : Burst := {}
     let s : State := (((State.reset).modArb 0 (fun e => { e with holder := le.val + 1 })).modEngine le.val (fun e =>
         { e with bld := some b })).modEngine 0 (fun e => { e with bld := some {} })
     let e : Engine := ((s.getEngine le.val).store b.dst (readBytes s.bank b.bank (8 * b.n))).esrBit 5 false
     decide ((s.getArb 0).holder = le.val + 1 ∧ (s.getEngine le.val).bld = some b ∧ b.bank + 8 * b.n ≤ bankBytes ∧
         e = ((s.getEngine le.val).store b.dst (readBytes s.bank b.bank (8 * b.n))).esrBit 5 false) : Bool) = true ∧
    (-- clause 9, ld
     let le : Fin 16 := 0
     let b : Fin 32 := 0
     let imm : BitVec 14 := 0
     let s : State := (State.reset).modEngine le.val (fun e => { e with state := .idle })
     decide ((s.getEngine le.val).issues = true ∧ (s.getEngine le.val).addr b imm + 8 ≤ leMemBytes) : Bool) = true ∧
    (-- clause 10, ld
     let le : Fin 16 := 0
     let b : Fin 32 := 0
     let imm : BitVec 14 := 0
     let s : State := (State.reset).modEngine le.val (fun e => { e with state := .idle })
     decide ((s.getEngine le.val).issues = true ∧ (s.getEngine le.val).addr b imm + 8 ≤ leMemBytes) : Bool) = true ∧
    (-- clause 11, ldq
     let le : Fin 16 := 0
     let b : Fin 32 := 0
     let imm : BitVec 14 := 0
     let s : State := (State.reset).modEngine le.val (fun e => { e with state := .idle })
     decide ((s.getEngine le.val).issues = true ∧ (s.getEngine le.val).addr b imm + 16 ≤ leMemBytes) : Bool) = true ∧
    (-- clause 12, ldq
     let le : Fin 16 := 0
     let b : Fin 32 := 0
     let imm : BitVec 14 := 0
     let s : State := (State.reset).modEngine le.val (fun e => { e with state := .idle })
     decide ((s.getEngine le.val).issues = true ∧ (s.getEngine le.val).addr b imm + 16 ≤ leMemBytes) : Bool) = true ∧
    (-- clause 13, accld
     let le : Fin 16 := 0
     let b : Fin 32 := 0
     let imm : BitVec 17 := 0
     let s : State := (State.reset).modEngine le.val (fun e => { e with state := .idle })
     decide ((s.getEngine le.val).issues = true ∧ (s.getEngine le.val).addr b imm + 24 ≤ leMemBytes) : Bool) = true ∧
    (-- clause 14, accld
     let le : Fin 16 := 0
     let b : Fin 32 := 0
     let imm : BitVec 17 := 0
     let s : State := (State.reset).modEngine le.val (fun e => { e with state := .idle })
     decide ((s.getEngine le.val).issues = true ∧ (s.getEngine le.val).addr b imm + 24 ≤ leMemBytes) : Bool) = true ∧
    (-- clause 15, st
     let le : Fin 16 := 0
     let b : Fin 32 := 0
     let imm : BitVec 14 := 0
     let s : State := ((State.reset).modEngine le.val (fun e => { e with state := .idle })).modEngine le.val (fun e =>
         { e with hook := none })
     decide ((s.getEngine le.val).issues = true ∧ (s.getEngine le.val).hook = none ∧
         (s.getEngine le.val).addr b imm + 8 ≤ leMemBytes) : Bool) = true ∧
    (-- clause 16, stq
     let le : Fin 16 := 0
     let b : Fin 32 := 0
     let imm : BitVec 14 := 0
     let s : State := ((State.reset).modEngine le.val (fun e => { e with state := .idle })).modEngine le.val (fun e =>
         { e with hook := none })
     decide ((s.getEngine le.val).issues = true ∧ (s.getEngine le.val).hook = none ∧
         (s.getEngine le.val).addr b imm + 16 ≤ leMemBytes) : Bool) = true ∧
    (-- clause 17, accst
     let le : Fin 16 := 0
     let b : Fin 32 := 0
     let imm : BitVec 17 := 0
     let s : State := ((State.reset).modEngine le.val (fun e => { e with state := .idle })).modEngine le.val (fun e =>
         { e with hook := none })
     decide ((s.getEngine le.val).issues = true ∧ (s.getEngine le.val).hook = none ∧
         (s.getEngine le.val).addr b imm + 24 ≤ leMemBytes) : Bool) = true ∧
    (-- clause 18, bld
     let le : Fin 16 := 0
     let l : Fin 32 := 1
     let b : Fin 32 := 0
     let n : Fin 8 := 0
     let h : HookCtx := { bankBytes := 64 }
     let s : State := ((((State.reset).modEngine le.val (fun e => { e with state := .idle })).modEngine le.val (fun e =>
         { e with bld := none })).modEngine le.val (fun e => { e with hook := some h })).modEngine 0 (fun e => e.setX 1 0x10C00)
     decide ((s.getEngine le.val).issues = true ∧ (s.getEngine le.val).bld = none ∧ (s.getEngine le.val).hook = some h ∧
         h.bankBase ≤ ((s.getEngine le.val).getX b.val).toNat ∧
         ((s.getEngine le.val).getX b.val).toNat + 8 * (n.val + 1) ≤ h.bankBase + h.bankBytes ∧
         s.hookMayStore h ((s.getEngine le.val).getX l.val).toNat (8 * (n.val + 1)) = true ∧
         ((s.getEngine le.val).getX l.val).toNat + 8 * (n.val + 1) ≤ leMemBytes) : Bool) = true ∧
    (-- clause 19, bldDone
     let le : Fin 16 := 0
     let b : Burst := {}
     let s : State := ((State.reset).modArb 0 (fun e => { e with holder := le.val + 1 })).modEngine le.val (fun e =>
         { e with bld := some b })
     decide ((s.getArb 0).holder = le.val + 1 ∧ (s.getEngine le.val).bld = some b ∧ b.bank + 8 * b.n ≤ bankBytes) : Bool) = true :=
  by and_intros <;> decide +kernel

/-- States and operands that meet the premises of LeArithmeticOpsAct, clause by clause. -/
theorem witness_LeArithmeticOpsAct :
    (-- clause 1, leAdd
     let le : Fin 16 := 0
     let s : State := (State.reset).modEngine le.val (fun e => { e with state := .idle })
     decide ((s.getEngine le.val).issues = true) : Bool) = true ∧
    (-- clause 2, leSub
     let le : Fin 16 := 0
     let s : State := (State.reset).modEngine le.val (fun e => { e with state := .idle })
     decide ((s.getEngine le.val).issues = true) : Bool) = true ∧
    (-- clause 3, leAnd
     let le : Fin 16 := 0
     let s : State := (State.reset).modEngine le.val (fun e => { e with state := .idle })
     decide ((s.getEngine le.val).issues = true) : Bool) = true ∧
    (-- clause 4, leOr
     let le : Fin 16 := 0
     let s : State := (State.reset).modEngine le.val (fun e => { e with state := .idle })
     decide ((s.getEngine le.val).issues = true) : Bool) = true ∧
    (-- clause 5, leXor
     let le : Fin 16 := 0
     let s : State := (State.reset).modEngine le.val (fun e => { e with state := .idle })
     decide ((s.getEngine le.val).issues = true) : Bool) = true ∧
    (-- clause 6, leAddi
     let le : Fin 16 := 0
     let s : State := (State.reset).modEngine le.val (fun e => { e with state := .idle })
     decide ((s.getEngine le.val).issues = true) : Bool) = true ∧
    (-- clause 7, leShl
     let le : Fin 16 := 0
     let n : Fin 32 := 0
     let s : State := (State.reset).modEngine le.val (fun e => { e with state := .idle })
     decide ((s.getEngine le.val).issues = true ∧ ((s.getEngine le.val).getX n.val).toNat < 64) : Bool) = true ∧
    (-- clause 8, leShr
     let le : Fin 16 := 0
     let n : Fin 32 := 0
     let s : State := (State.reset).modEngine le.val (fun e => { e with state := .idle })
     decide ((s.getEngine le.val).issues = true ∧ ((s.getEngine le.val).getX n.val).toNat < 64) : Bool) = true ∧
    (-- clause 9, leSra
     let le : Fin 16 := 0
     let n : Fin 32 := 0
     let s : State := (State.reset).modEngine le.val (fun e => { e with state := .idle })
     decide ((s.getEngine le.val).issues = true ∧ ((s.getEngine le.val).getX n.val).toNat < 64) : Bool) = true ∧
    (-- clause 10, leLi
     let le : Fin 16 := 0
     let s : State := (State.reset).modEngine le.val (fun e => { e with state := .idle })
     decide ((s.getEngine le.val).issues = true) : Bool) = true ∧
    (-- clause 11, satw
     let le : Fin 16 := 0
     let w : Fin 65 := 1
     let s : State := (State.reset).modEngine le.val (fun e => { e with state := .idle })
     decide ((s.getEngine le.val).issues = true ∧ 0 < w.val) : Bool) = true ∧
    (-- clause 12, maxi
     let le : Fin 16 := 0
     let d : Fin 32 := 0
     let src : Fin 32 := 1
     let s : State := ((State.reset).modEngine le.val (fun e => { e with state := .idle })).modEngine 0 (fun e => e.setX 1
         (BitVec.ofInt 64 (1)))
     decide ((s.getEngine le.val).issues = true ∧ ((s.getEngine le.val).getX d.val).toInt < ((s.getEngine le.val).getX
         src.val).toInt) : Bool) = true ∧
    (-- clause 13, mini
     let le : Fin 16 := 0
     let d : Fin 32 := 0
     let src : Fin 32 := 1
     let s : State := ((State.reset).modEngine le.val (fun e => { e with state := .idle })).modEngine 0 (fun e => e.setX 1
         (BitVec.ofInt 64 (-1)))
     decide ((s.getEngine le.val).issues = true ∧ ((s.getEngine le.val).getX src.val).toInt < ((s.getEngine le.val).getX
         d.val).toInt) : Bool) = true ∧
    (-- clause 14, rcp
     let le : Fin 16 := 0
     let src : Fin 32 := 0
     let s : State := (State.reset).modEngine le.val (fun e => { e with state := .idle })
     decide ((s.getEngine le.val).issues = true ∧ ((s.getEngine le.val).getX src.val) = 0) : Bool) = true ∧
    (-- clause 15, rsq
     let le : Fin 16 := 0
     let src : Fin 32 := 0
     let s : State := (State.reset).modEngine le.val (fun e => { e with state := .idle })
     decide ((s.getEngine le.val).issues = true ∧ ((s.getEngine le.val).getX src.val).toInt ≤ 0) : Bool) = true ∧
    (-- clause 16, leLui
     let le : Fin 16 := 0
     let s : State := (State.reset).modEngine le.val (fun e => { e with state := .idle })
     decide ((s.getEngine le.val).issues = true) : Bool) = true ∧
    (-- clause 17, leCmp
     let le : Fin 16 := 0
     let s : State := (State.reset).modEngine le.val (fun e => { e with state := .idle })
     decide ((s.getEngine le.val).issues = true) : Bool) = true ∧
    (-- clause 18, maxi
     let le : Fin 16 := 0
     let d : Fin 32 := 0
     let src : Fin 32 := 0
     let s : State := (State.reset).modEngine le.val (fun e => { e with state := .idle })
     decide ((s.getEngine le.val).issues = true ∧ ((s.getEngine le.val).getX src.val).toInt ≤ ((s.getEngine le.val).getX
         d.val).toInt) : Bool) = true ∧
    (-- clause 19, mini
     let le : Fin 16 := 0
     let d : Fin 32 := 0
     let src : Fin 32 := 0
     let s : State := (State.reset).modEngine le.val (fun e => { e with state := .idle })
     decide ((s.getEngine le.val).issues = true ∧ ((s.getEngine le.val).getX d.val).toInt ≤ ((s.getEngine le.val).getX
         src.val).toInt) : Bool) = true ∧
    (-- clause 20, rcp
     let le : Fin 16 := 0
     let src : Fin 32 := 1
     let s : State := ((State.reset).modEngine le.val (fun e => { e with state := .idle })).modEngine 0 (fun e => e.setX 1
         (BitVec.ofInt 64 (1)))
     decide ((s.getEngine le.val).issues = true ∧ ((s.getEngine le.val).getX src.val) ≠ 0) : Bool) = true ∧
    (-- clause 21, rsq
     let le : Fin 16 := 0
     let src : Fin 32 := 1
     let s : State := ((State.reset).modEngine le.val (fun e => { e with state := .idle })).modEngine 0 (fun e => e.setX 1
         (BitVec.ofInt 64 (1)))
     decide ((s.getEngine le.val).issues = true ∧ 0 < ((s.getEngine le.val).getX src.val).toInt) : Bool) = true :=
  by and_intros <;> decide +kernel

/-- States and operands that meet the premises of LeControlOpsAct, clause by clause. -/
theorem witness_LeControlOpsAct :
    (-- clause 1, leLoop
     let le : Fin 16 := 0
     let l : Fin 2 := 0
     let s : State := (State.reset).modEngine le.val (fun e => { e with state := .idle })
     decide ((s.getEngine le.val).issues = true ∧ (s.getEngine le.val).loopOn l.val = false ∧
         (l.val = 1 → (s.getEngine le.val).loopOn 0 = true) ∧ (s.getEngine le.val).nearLoopEnd = false) : Bool) = true ∧
    (-- clause 2, leLoop
     let le : Fin 16 := 0
     let l : Fin 2 := 0
     let x : Fin 32 := 0
     let n : Fin 65536 := 0
     let s : State := (State.reset).modEngine le.val (fun e => { e with state := .idle })
     decide ((s.getEngine le.val).issues = true ∧ (s.getEngine le.val).loopOn l.val = false ∧
         (l.val = 1 → (s.getEngine le.val).loopOn 0 = true) ∧ (s.getEngine le.val).nearLoopEnd = false ∧
         (((s.getEngine le.val).getX x.val).truncate 16 : BitVec 16).toNat ≤ n.val) : Bool) = true ∧
    (-- clause 3, br
     let le : Fin 16 := 0
     let s : State := (State.reset).modEngine le.val (fun e => { e with state := .idle })
     decide ((s.getEngine le.val).issues = true) : Bool) = true ∧
    (-- clause 4, bz
     let le : Fin 16 := 0
     let src : Fin 32 := 0
     let s : State := (State.reset).modEngine le.val (fun e => { e with state := .idle })
     decide ((s.getEngine le.val).issues = true ∧ ((s.getEngine le.val).getX src.val) = 0) : Bool) = true ∧
    (-- clause 5, bz
     let le : Fin 16 := 0
     let src : Fin 32 := 1
     let s : State := ((State.reset).modEngine le.val (fun e => { e with state := .idle })).modEngine 0 (fun e => e.setX 1
         (BitVec.ofInt 64 (1)))
     decide ((s.getEngine le.val).issues = true ∧ ((s.getEngine le.val).getX src.val) ≠ 0) : Bool) = true ∧
    (-- clause 6, bnz
     let le : Fin 16 := 0
     let src : Fin 32 := 1
     let s : State := ((State.reset).modEngine le.val (fun e => { e with state := .idle })).modEngine 0 (fun e => e.setX 1
         (BitVec.ofInt 64 (1)))
     decide ((s.getEngine le.val).issues = true ∧ ((s.getEngine le.val).getX src.val) ≠ 0) : Bool) = true ∧
    (-- clause 7, bnz
     let le : Fin 16 := 0
     let src : Fin 32 := 0
     let s : State := (State.reset).modEngine le.val (fun e => { e with state := .idle })
     decide ((s.getEngine le.val).issues = true ∧ ((s.getEngine le.val).getX src.val) = 0) : Bool) = true ∧
    (-- clause 8, blt
     let le : Fin 16 := 0
     let src : Fin 32 := 1
     let t : Fin 32 := 0
     let s : State := ((State.reset).modEngine le.val (fun e => { e with state := .idle })).modEngine 0 (fun e => e.setX 1
         (BitVec.ofInt 64 (-1)))
     decide ((s.getEngine le.val).issues = true ∧ ((s.getEngine le.val).getX src.val).toInt < ((s.getEngine le.val).getX
         t.val).toInt) : Bool) = true ∧
    (-- clause 9, blt
     let le : Fin 16 := 0
     let src : Fin 32 := 0
     let t : Fin 32 := 0
     let s : State := (State.reset).modEngine le.val (fun e => { e with state := .idle })
     decide ((s.getEngine le.val).issues = true ∧ ((s.getEngine le.val).getX t.val).toInt ≤ ((s.getEngine le.val).getX
         src.val).toInt) : Bool) = true ∧
    (-- clause 10, ret
     let le : Fin 16 := 0
     let s : State := (State.reset).modEngine le.val (fun e => { e with state := .idle })
     decide ((s.getEngine le.val).issues = true ∧ (s.getEngine le.val).loopOn 0 = false ∧ (s.getEngine le.val).loopOn 1 = false) : Bool) = true ∧
    (-- clause 11, reti
     let le : Fin 16 := 0
     let s : State := (State.reset).modEngine le.val (fun e => { e with state := .idle })
     decide ((s.getEngine le.val).issues = true) : Bool) = true ∧
    (-- clause 12, waitb
     let le : Fin 16 := 0
     let s : State := ((State.reset).modEngine le.val (fun e => { e with state := .idle })).modEngine le.val (fun e =>
         { e with bld := none })
     decide ((s.getEngine le.val).issues = true ∧ (s.getEngine le.val).bld = none) : Bool) = true ∧
    (-- clause 13, waitb
     let le : Fin 16 := 0
     let s : State := ((State.reset).modEngine le.val (fun e => { e with state := .idle })).modEngine 0 (fun e =>
         { e with bld := some {} })
     decide ((s.getEngine le.val).issues = true ∧ (s.getEngine le.val).bld.isSome = true) : Bool) = true ∧
    (-- clause 14, mfc
     let le : Fin 16 := 0
     let s : State := (State.reset).modEngine le.val (fun e => { e with state := .idle })
     decide ((s.getEngine le.val).issues = true) : Bool) = true ∧
    (-- clause 15, mtc
     let le : Fin 16 := 0
     let s : State := (State.reset).modEngine le.val (fun e => { e with state := .idle })
     decide ((s.getEngine le.val).issues = true) : Bool) = true ∧
    (-- clause 16, clrf
     let le : Fin 16 := 0
     let s : State := (State.reset).modEngine le.val (fun e => { e with state := .idle })
     decide ((s.getEngine le.val).issues = true) : Bool) = true ∧
    (-- clause 17, nop
     let le : Fin 16 := 0
     let s : State := (State.reset).modEngine le.val (fun e => { e with state := .idle })
     decide ((s.getEngine le.val).issues = true) : Bool) = true :=
  by and_intros <;> decide +kernel

/-- States and operands that meet the premises of EngineHostActs, clause by clause. -/
theorem witness_EngineHostActs :
    (-- clause 2, kernelUnload
     let ref : CmdRef := wref
     let h : BitVec 32 := 1
     let s : State := wq 0x0441 ((State.reset).modHost (fun h => { h with kernels := [(1, {})] }))
     decide (s.queuedFor ref 0x0441 = true ∧ s.host.kernels.any (fun x => x.1 == h.toNat) = true ∧ s.kernelUsed h.toNat = false) : Bool) = true ∧
    (-- clause 4, interruptEntry
     let le : Fin 16 := 0
     let h : HookCtx := { handler := some 5 }
     let a : BitVec 16 := 5
     let s : State := ((((((State.reset).modEngine le.val (fun e => { e with state := .idle })).modEngine le.val (fun e =>
         { e with delay := none })).modEngine le.val (fun e => { e with staged := [] })).modEngine le.val (fun e =>
         { e with svcPending := false })).modEngine le.val (fun e => { e with bldDone := true })).modEngine le.val (fun e =>
         { e with hook := some h })
     decide ((s.getEngine le.val).issues = true ∧ bitOf (s.getEngine le.val).esr.toNat 3 = true ∧
         bitOf (s.getEngine le.val).esr.toNat 4 = false ∧ (s.getEngine le.val).delay = none ∧
         (s.getEngine le.val).staged = [] ∧ (s.getEngine le.val).nearLoopEnd = false ∧
         (s.getEngine le.val).svcPending = false ∧ (s.getEngine le.val).bldDone = true ∧ (s.getEngine le.val).hook = some h ∧
         h.handler = some a) : Bool) = true :=
  by and_intros <;> decide +kernel

/-- States and operands that meet the premises of LeRegisterResults, clause by clause. -/
theorem witness_LeRegisterResults :
    (-- clause 1, leAdd
     let le : Fin 16 := 0
     let s : State := (State.reset).modEngine le.val (fun e => { e with state := .idle })
     decide (s.sound = true ∧ (s.getEngine le.val).between = true) : Bool) = true :=
  by decide +kernel

/-- States and operands that meet the premises of LeAccumulatorResults, clause by clause. -/
theorem witness_LeAccumulatorResults :
    (-- clause 1, mac
     let le : Fin 16 := 0
     let s : State := (State.reset).modEngine le.val (fun e => { e with state := .idle })
     decide (s.sound = true ∧ (s.getEngine le.val).between = true) : Bool) = true :=
  by decide +kernel

/-- States and operands that meet the premises of LeStoreFrame, clause by clause. -/
theorem witness_LeStoreFrame :
    (-- clause 1, st
     let le : Fin 16 := 0
     let s : State := ((State.reset).modEngine le.val (fun e => { e with state := .idle })).modEngine le.val (fun e =>
         { e with hook := none })
     decide (s.sound = true ∧ (s.getEngine le.val).between = true ∧ (s.getEngine le.val).hook = none) : Bool) = true :=
  by decide +kernel

/-- States and operands that meet the premises of StepperAndAuxActs, clause by clause. -/
theorem witness_StepperAndAuxActs :
    (-- clause 1, stepperRelease
     let ch : Fin 32 := 0
     let s : State := (State.reset.modStepper 0 (fun e => { e with state := .enabled })).modTime (fun e => { e with xtHi := 1 })
     let tk : Nat := gridAtOrBefore (s.par (epStepper ch.val) P.stpPeriodTicks) (s.par (epStepper ch.val) P.stpPhaseTicks)
         (s.xt16 + stpRelUnits + tickUnits)
     let m : Motion := (s.setpointAt (epStepper ch.val) (ft16Of (tk + s.par (epStepper ch.val) P.stpPeriodTicks *
         tickUnits))).2.1
     let u : State := (s.setpointAt (epStepper ch.val) (ft16Of (tk + s.par (epStepper ch.val) P.stpPeriodTicks * tickUnits))).1
     decide (tk = gridAtOrBefore (s.par (epStepper ch.val) P.stpPeriodTicks) (s.par (epStepper ch.val) P.stpPhaseTicks)
         (s.xt16 + stpRelUnits + tickUnits) ∧ (s.getStepper ch.val).state = .enabled ∧ (s.getStepper ch.val).tk < tk ∧
         s.setpointAt (epStepper ch.val) (ft16Of (tk + s.par (epStepper ch.val) P.stpPeriodTicks * tickUnits)) = (u, m, true)) : Bool) = true ∧
    (-- clause 2, microstep
     let ch : Fin 32 := 0
     let d : Int := 0 - 1
     let s : State := ({ (((State.reset).modStepper ch.val (fun e => { e with state := .enabled })).modStepper ch.val (fun e => { e with halted := false })).modStepper ch.val (fun e => { e with holdCurrent := false }) with tick := 10 ^ 12 }).modStepper 0 (fun e => { e with count := 1 })
     decide ((s.getStepper ch.val).state = .enabled ∧ (s.getStepper ch.val).halted = false ∧ (d = 1 ∨ d = -1) ∧
         s.stpTarget ch.val - (s.getStepper ch.val).count = d ∧ 1 ≤ s.par (epStepper ch.val) P.stpBacklogMax ∧
         (s.getStepper ch.val).holdCurrent = false ∧ s.passed (s.getStepper ch.val).stepTick (nsTicks 500) = true) : Bool) = true ∧
    (-- clause 3, chopperTrip
     let ch : Fin 32 := 0
     let b : Bool := false
     let s : State := { (State.reset).modStepper 0 (fun e => { e with state := .enabled, coilA := { bridge := .drivePos, off := false } }) with tick := 10 ^ 12 }
     let u : State := s.fastOver ch.val b
     decide (u = s.fastOver ch.val b ∧ u.chopping ch.val = true ∧ ((u.getStepper ch.val).coil b).bridge ≠ .inactive ∧
         ((u.getStepper ch.val).coil b).off = false ∧ u.passed ((u.getStepper ch.val).coil b).changed (nsTicks (u.parF
         (epStepper ch.val) P.stpBlank)) = true) : Bool) = true ∧
    (-- clause 4, chopperToffMax
     let ch : Fin 32 := 0
     let b : Bool := false
     let s : State := ({ State.reset with tick := 10 ^ 12 }).modStepper 0 (fun e =>
         { e with state := .enabled, coilA := { bridge := .drivePos, off := true } })
     decide (s.chopping ch.val = true ∧ ((s.getStepper ch.val).coil b).bridge ≠ .inactive ∧
         ((s.getStepper ch.val).coil b).off = true ∧ s.passed ((s.getStepper ch.val).coil b).since (usTicks (s.parF
         (epStepper ch.val) P.stpToffMax)) = true) : Bool) = true ∧
    (-- clause 5, stepperIdleTimeout
     let ch : Fin 32 := 0
     let t : Nat := 0
     let s : State := { (((State.reset).modStepper ch.val (fun e => { e with state := .enabled })).modStepper ch.val (fun e => { e with stillSince := some t })).modStepper ch.val (fun e => { e with holdCurrent := false }) with tick := 10 ^ 12 }
     decide ((s.getStepper ch.val).state = .enabled ∧ (s.getStepper ch.val).stillSince = some t ∧
         (s.getStepper ch.val).holdCurrent = false ∧ s.passed t (msTicks (s.parF (epStepper ch.val) P.stpIdleTime)) = true) : Bool) = true ∧
    (-- clause 6, stepperCurrentConversion
     let ch : Fin 32 := 0
     let code : Fin 4096 := 0
     let s : State := (State.reset).modStepper ch.val (fun e => { e with state := .enabled })
     decide ((s.getStepper ch.val).state = .enabled ∧ (s.stpSetCoils ch.val).parF (epStepper ch.val) P.stpIOvercurrent < rabs
         (s.stpAmpsOf ch.val code.val)) : Bool) = true ∧
    (-- clause 7, stepperPwmPeriod
     let ch : Fin 32 := 0
     let s : State := ((State.reset).modStepper ch.val (fun e => { e with state := .enabled })).setPar (epStepper ch.val)
         P.stpRegMode 0 1
     decide ((s.getStepper ch.val).state = .enabled ∧ s.par (epStepper ch.val) P.stpRegMode = 1) : Bool) = true ∧
    (-- clause 8, stepperEnableRampDone
     let ch : Fin 32 := 0
     let a : Rat := 0
     let b : Rat := 0
     let t : Nat := 0
     let s : State := ({ ((State.reset).modStepper ch.val (fun e => { e with state := .enabling })).modStepper ch.val (fun e => { e with ramp := some (a, b, t) }) with tick := 10 ^ 12 }).modStepper ch.val (fun e => { e with everEnabled := true })
     decide ((s.getStepper ch.val).state = .enabling ∧ (s.getStepper ch.val).ramp = some (a, b, t) ∧
         s.passed t (msTicks (s.parF (epStepper ch.val) P.stpIRamp)) = true ∧ (s.getStepper ch.val).everEnabled = true) : Bool) = true ∧
    (-- clause 10, auxAlignDone
     let j : Fin 16 := 0
     let s : State := { (State.reset).modAux j.val (fun e => { e with state := .align }) with tick := 10 ^ 12 }
     decide ((s.getAux j.val).state = .align ∧ s.passed (s.getAux j.val).since (msTicks (s.parF (epAux j.val)
         P.auxAlignTime)) = true) : Bool) = true ∧
    (-- clause 11, auxStartTimeout
     let j : Fin 16 := 0
     let t : Nat := 0
     let s : State := ({ (State.reset).modAux j.val (fun e => { e with handoverFrom := some t }) with tick := 10 ^ 12 }).modAux j.val (fun e => { e with foc := { e.foc with obs := { e.foc.obs with locked := false } } })
     decide ((s.getAux j.val).handoverFrom = some t ∧ s.expired t (msTicks 200) = true ∧
         (s.getAux j.val).foc.obs.locked = false) : Bool) = true ∧
    (-- clause 12, auxRetryDelay
     let j : Fin 16 := 0
     let s : State := { (State.reset).modAux j.val (fun e => { e with state := .retryWait }) with tick := 10 ^ 12 }
     decide ((s.getAux j.val).state = .retryWait ∧ s.passed (s.getAux j.val).since (msTicks (1000 * s.parF (epAux j.val)
         P.auxRetryDelay)) = true) : Bool) = true ∧
    (-- clause 13, auxRetryReset
     let j : Fin 16 := 0
     let s : State := { (State.reset).modAux j.val (fun e => { e with state := .run }) with tick := 10 ^ 12 }
     decide ((s.getAux j.val).state = .run ∧ s.passed (s.getAux j.val).since (msTicks 60000) = true) : Bool) = true ∧
    (-- clause 14, chopperTrip
     let ch : Fin 32 := 0
     let b : Bool := false
     let s : State := { (State.reset).modStepper 0 (fun e => { e with state := .enabled, coilA := { bridge := .slow, off := true } }) with tick := 10 ^ 12 }
     let u : State := s.fastOver ch.val b
     decide (u = s.fastOver ch.val b ∧ u.chopping ch.val = true ∧ ((u.getStepper ch.val).coil b).bridge ≠ .inactive ∧
         ((u.getStepper ch.val).coil b).off = true ∧ u.passed ((u.getStepper ch.val).coil b).changed (nsTicks (u.parF
         (epStepper ch.val) P.stpBlank)) = true ∧ u.passed ((u.getStepper ch.val).coil b).since (nsTicks (u.parF (epStepper
         ch.val) P.stpToffMin)) = true) : Bool) = true ∧
    (-- clause 15, stepperCurrentConversion
     let ch : Fin 32 := 0
     let code : Fin 4096 := 2048
     let s : State := (State.reset).modStepper ch.val (fun e => { e with state := .enabled })
     decide ((s.getStepper ch.val).state = .enabled ∧ rabs (s.stpAmpsOf ch.val code.val) ≤ (s.stpSetCoils ch.val).parF
         (epStepper ch.val) P.stpIOvercurrent) : Bool) = true :=
  by and_intros <;> decide +kernel

/-- States and operands that meet the premises of AxisCommandsAct, clause by clause. -/
theorem witness_AxisCommandsAct :
    (-- clause 1, axisEnable
     let ref : CmdRef := wref
     let ep : BitVec 16 := 0
     let i : Nat := 0
     let le : Nat := 0
     let s : State := wq 0x0301 ((((((((State.reset).modLoop i (fun e => { e with state := .disabled })).modFlags i (fun e =>
         { e with sto := false })).modFlags i (fun e => { e with gateFault := false })).setPar 0 P.fbSource 0 1).modEngine 0
         (fun e => { e with state := .idle })).setPar 0 P.dcMin 0 0).modDc 0 (fun _ => 65535))
     let t : State := ((((s.placeAxis le i).attachHooks i).zeroHookData i).setRecord i []).await (cmdKey ref) i opEnable
     decide (s.queuedFor ref 0x0301 = true ∧ classOf ep.toNat = some (.servo, i) ∧ (s.getLoop i).state = .disabled ∧
         s.awaits i opEnable = false ∧ (s.getFlags i).sto = false ∧ (s.getFlags i).gateFault = false ∧
         s.parF i P.dcMin ≤ s.servoVdc i ∧ s.synchronised i = false ∧ s.comboFails i = false ∧
         s.attachBad i ([0, 1, 2, 3].map (fun p => s.par i P.hookKernel p)) = false ∧ s.chooseEngine i = some le ∧
         t = ((((s.placeAxis le i).attachHooks i).zeroHookData i).setRecord i []).await (cmdKey ref) i opEnable ∧
         t.par i P.fbSource ≠ 3) : Bool) = true ∧
    (-- clause 2, axisDisable
     let ref : CmdRef := wref
     let ep : BitVec 16 := 0
     let i : Nat := 0
     let c : Byte := 0
     let s : State := wq 0x0302 ((State.reset).modLoop i (fun e => { e with state := .enabled }))
     decide (s.queuedFor ref 0x0302 = true ∧ classOf ep.toNat = some (.servo, i) ∧ c.toNat ≤ 1 ∧ (s.getLoop i).state = .enabled) : Bool) = true ∧
    (-- clause 3, stop
     let ref : CmdRef := wref
     let ep : BitVec 16 := 0
     let cat : Byte := 0
     let s : State := wq 0x0510 ((State.reset).modLoop ep.toNat (fun e => { e with state := .enabled }))
     decide (s.queuedFor ref 0x0510 = true ∧ cat.toNat ≤ 2 ∧ ep.toNat < 0x20 ∧ stoppable ep.toNat = true ∧
         (s.getLoop ep.toNat).state = .enabled) : Bool) = true ∧
    (-- clause 6, axisEnable
     let ref : CmdRef := wref
     let ep : BitVec 16 := 0x100
     let i : Nat := 0
     let s : State := wq 0x0301 ((State.reset).modVirt i (fun e => { e with state := .disabled }))
     decide (s.queuedFor ref 0x0301 = true ∧ classOf ep.toNat = some (.virt, i) ∧ (s.getVirt i).state = .disabled ∧
         s.synchronised (epVirt i) = false ∧ s.comboFails (epVirt i) = false) : Bool) = true ∧
    (-- clause 7, axisEnable
     let ref : CmdRef := wref
     let ep : BitVec 16 := 0x200
     let i : Nat := 0
     let s : State := wq 0x0301 ((State.reset).modRemote i (fun e => { e with state := .disabled }))
     decide (s.queuedFor ref 0x0301 = true ∧ classOf ep.toNat = some (.remote, i) ∧ (s.getRemote i).state = .disabled ∧
         s.synchronised (epRemote i) = false ∧ s.comboFails (epRemote i) = false) : Bool) = true ∧
    (-- clause 8, axisDisable
     let ref : CmdRef := wref
     let ep : BitVec 16 := 0
     let i : Nat := 0
     let c : Byte := 0
     let s : State := wq 0x0302 ((State.reset).modLoop i (fun e => { e with state := .enabling }))
     decide (s.queuedFor ref 0x0302 = true ∧ classOf ep.toNat = some (.servo, i) ∧ c.toNat ≤ 1 ∧
         (s.getLoop i).state = .enabling) : Bool) = true ∧
    (-- clause 9, axisDisable
     let ref : CmdRef := wref
     let ep : BitVec 16 := 0
     let i : Nat := 0
     let c : Byte := 0
     let s : State := wq 0x0302 ((State.reset).modLoop i (fun e => { e with state := .faulted }))
     decide (s.queuedFor ref 0x0302 = true ∧ classOf ep.toNat = some (.servo, i) ∧ c.toNat ≤ 1 ∧ (s.getLoop i).state = .faulted) : Bool) = true ∧
    (-- clause 10, axisDisable
     let ref : CmdRef := wref
     let ep : BitVec 16 := 0x20
     let i : Nat := 0
     let c : Byte := 0
     let s : State := wq 0x0302 ((State.reset).modStepper 0 (fun e => { e with state := .enabled }))
     decide (s.queuedFor ref 0x0302 = true ∧ classOf ep.toNat = some (.stepper, i) ∧ c.toNat ≤ 1 ∧
         (s.getStepper i).state ≠ .disabled) : Bool) = true ∧
    (-- clause 11, axisDisable
     let ref : CmdRef := wref
     let ep : BitVec 16 := 0x40
     let j : Nat := 0
     let c : Byte := 0
     let s : State := wq 0x0302 ((State.reset).modAux 0 (fun e => { e with state := .run }))
     decide (s.queuedFor ref 0x0302 = true ∧ classOf ep.toNat = some (.aux, j) ∧ c.toNat ≤ 1 ∧ (s.getAux j).state ≠ .off) : Bool) = true ∧
    (-- clause 12, stop
     let ref : CmdRef := wref
     let ep : BitVec 16 := 0x1F40
     let cat : Byte := 0
     let s : State := wq 0x0510 (State.reset)
     decide (s.queuedFor ref 0x0510 = true ∧ cat.toNat ≤ 2 ∧ 0x20 ≤ ep.toNat ∧ stoppable ep.toNat = true ∧
         isGroupEp ep.toNat = true) : Bool) = true ∧
    (-- clause 13, stop
     let ref : CmdRef := wref
     let ep : BitVec 16 := 0x100
     let cat : Byte := 0
     let s : State := wq 0x0510 (State.reset)
     decide (s.queuedFor ref 0x0510 = true ∧ cat.toNat ≤ 2 ∧ 0x20 ≤ ep.toNat ∧ stoppable ep.toNat = true ∧
         isGroupEp ep.toNat = false) : Bool) = true :=
  by and_intros <;> decide +kernel

/-- States and operands that meet the premises of TrailActs, clause by clause. -/
theorem witness_TrailActs :
    (-- clause 1, trailAppend
     let ref : CmdRef := wref
     let ep : BitVec 16 := 0
     let moves : List MoveRec := [{ vMax := 0x3F800000, aMax := 0x3F800000, dMax := 0x3F800000 }]
     let e := ep.toNat
     let grp := isGroupEp e
     let s : State := wq 0x0500 ((State.reset).modLoop 0 (fun e => { e with state := .enabled }))
     decide (s.queuedFor ref 0x0500 = true) && (
     let t := s.getTrail e
     let ms := withEnds (s.trailEnd e) moves
     let vs := s.appendVecs (e - 0x1F40) moves
     decide ((!hasTrail e) = false ∧ (!s.trailOpen e) = false ∧ (moves.any (moveMalformed grp)) = false ∧
         (moves.isEmpty || decide (8 < moves.length) || moves.any (s.moveRange e)) = false ∧
         ((ms.zip vs).any (fun x => s.moveSoft e x.1 x.2)) = false ∧
         (!s.trailEnabled e || t.state == .stopping || t.state == .homing || s.uncertainOf e || (ms.zip vs).any (fun x =>
         s.towardLimit e x.1 x.2)) = false ∧ (moves.any s.moveLate) = false ∧
         ((ms.zip vs).zipIdx.any (fun x => s.absAtBad e (t.moves.isEmpty && x.2 == 0) x.1.1 x.1.2)) = false ∧
         (decide (64 < t.moves.length + moves.length)) = false)) : Bool) = true ∧
    (-- clause 2, trailLimits
     let ref : CmdRef := wref
     let ep : BitVec 16 := 0
     let scope : Byte := 0
     let mask : Byte := 0
     let aMax : F32 := 0
     let dMax : F32 := 0
     let jerk : F32 := 0
     let s : State := wq 0x0502 ((State.reset).modTrail ep.toNat (fun e => { e with state := .running }))
     let b : Nat := s.changeInstant (s.gridEp ep.toNat)
     decide (s.queuedFor ref 0x0502 = true ∧ b = s.changeInstant (s.gridEp ep.toNat) ∧
         (s.limitsMeet ep.toNat b scope.toNat mask.toNat aMax dMax jerk = true ∨ (s.getTrail ep.toNat).moves = []) ∧
         hasTrail ep.toNat = true ∧ s.trailOpen ep.toNat = true ∧
         ((s.getTrail ep.toNat).state = .running ∨ (s.getTrail ep.toNat).state = .idle) ∧ scope.toNat ≤ 1 ∧ mask.toNat ≤ 7 ∧
         (bitOf mask.toNat 0 = true → limitBad aMax (if isGroupEp ep.toNat then f32Val aMax.toNat else s.parF ep.toNat
         P.trjALimit) = false) ∧ (bitOf mask.toNat 1 = true → limitBad dMax (if isGroupEp ep.toNat then f32Val dMax.toNat
         else s.parF ep.toNat P.trjALimit) = false) ∧ (bitOf mask.toNat 2 = true → f32Bad jerk.toNat = false ∧
         0 ≤ f32Val jerk.toNat ∧ (s.parF ep.toNat P.trjJLimit = 0 ∨ f32Val jerk.toNat ≤ s.parF ep.toNat P.trjJLimit))) : Bool) = true ∧
    (-- clause 3, trailCancel
     let ref : CmdRef := wref
     let ep : BitVec 16 := 0
     let mode : Byte := 0
     let e := ep.toNat
     let s : State := wq 0x0501 ((State.reset).modTrail 0 (fun e => { e with state := .running }))
     decide (s.queuedFor ref 0x0501 = true) && (
     let t := s.getTrail e
     decide ((!hasTrail e) = false ∧ (decide (1 < mode.toNat)) = false ∧
         (!s.trailOpen e || t.state == .stopping || t.state == .closed || (t.state == .homing && mode == 0)) = false)) : Bool) = true ∧
    (-- clause 4, posSet
     let ref : CmdRef := wref
     let ep : BitVec 16 := 0
     let e := ep.toNat
     let s : State := wq 0x0521 (State.reset)
     decide (s.queuedFor ref 0x0521 = true) && (
     let rest := (s.getTrail e).state == .idle && s.atStandstill e
     decide ((!hasTrail e || isGroupEp e) = false ∧ (!(rest || s.axisStateOf e == .disabled)) = false)) : Bool) = true ∧
    (-- clause 5, home
     let ref : CmdRef := wref
     let ep : BitVec 16 := 0x100
     let e := ep.toNat
     let s : State := wq 0x0520 ((((State.reset).modVirt 0 (fun e => { e with state := .enabled })).setPar 0x100 P.homeMode 0
         0).modTrail 0x100 (fun e => { e with state := .idle }))
     decide (s.queuedFor ref 0x0520 = true) && (
     let t := s.getTrail e
     let mode := s.par e P.homeMode
     decide ((!hasTrail e || isGroupEp e) = false ∧ (!s.trailIsSource e || s.axisStateOf e != .enabled || t.state != .idle ||
         (mode == 0 && !s.atStandstill e)) = false ∧ (s.homeNeeds e) = false)) : Bool) = true ∧
    (-- clause 6, trailPlanned
     let ep : TrailEp := .servo 0
     let t : Trail := {}
     let s : State := State.reset
     decide (s.getTrail (trailEp ep) = t) : Bool) = true ∧
    (-- clause 7, trailChangeInstant
     let ep : TrailEp := .servo 0
     let b : Nat := 0
     let scope : Nat := 0
     let mask : Nat := 0
     let a : F32 := 0
     let d : F32 := 0
     let j : F32 := 0
     let s : State := (State.reset).modTrail (trailEp ep) (fun e => { e with change := some (b, .limits scope mask a d j) })
     decide ((s.getTrail (trailEp ep)).change = some (b, .limits scope mask a d j) ∧ b ≤ s.xt16) : Bool) = true ∧
    (-- clause 8, plannerSegmentWrite
     let ep : TrailEp := .servo 0
     let segs : List Seg := [{ hold := true, fol := some {} }]
     let s : State := ((State.reset).modFollower 0 (fun e => { e with map := some {}, state := .coupled })).modTrail 0 (fun e
         => { e with queue := [{ hold := true }] })
     decide (s.segsFit (s.getTrail (trailEp ep)) segs = true ∧
         ((s.getFollower (trailEp ep)).state = .syncing ∨ (s.getFollower (trailEp ep)).state = .coupled) ∧
         s.followerOk (trailEp ep) segs = true) : Bool) = true ∧
    (-- clause 9, waymarkPassed
     let ep : TrailEp := .servo 0
     let m : Move := { num := 1 }
     let x : Ft16 := 0
     let s : State := (State.reset).modTrail 0 (fun e =>
         { e with moves := [{ num := 1 }], queue := [{ last := true, move := 1 }] })
     decide (s.waymarkAt (trailEp ep) = some (m, x) ∧ bitOf m.rec_.flags.toNat 0 = false ∧ isGroupEp (trailEp ep) = false ∧
         m.rec_.blend ≠ 1) : Bool) = true ∧
    (-- clause 10, groupSegmentSend
     let g : Fin 32 := 0
     let n : Fin 8 := 0
     let b : Seg := { tStart := BitVec.ofNat 48 (2 ^ 44) }
     let fa : Nat := 8192
     let s : State := ((State.reset).modTrail (epGroup g.val) (fun e => { e with state := .running })).setPar 0x1F40
         P.members 0 (2 ^ 32 + 8192)
     decide ((s.groupMembers g.val)[n.val]? = some fa ∧ s.localEp fa = none ∧
         ((s.getTrail (epGroup g.val)).state = .running ∨ (s.getTrail (epGroup g.val)).state = .stopping) ∧
         ((unitsOfNs (s.parF (epGroup g.val) P.groupLead * 1000000)).toNat : Int) ≤ ft16Diff b.tStart s.time.ft16) : Bool) = true ∧
    (-- clause 11, groupSegmentRx
     let ep : TrailEp := .servo 0
     let segs : List Seg := [{ hold := true }]
     let s : State := (State.reset).modLoop 0 (fun e => { e with state := .enabled })
     decide (s.axisStateOf (trailEp ep) = .enabled ∧ s.segsFit (s.getTrail (trailEp ep)) segs = true) : Bool) = true ∧
    (-- clause 12, virtualAxisSample
     let i : Fin 256 := 0
     let s : State := (((State.reset).modVirt 0 (fun v => { v with state := .enabled })).modTrail 0x100 (fun e =>
         { e with queue := [{ hold := true }] })).modTime (fun e => { e with xtHi := 1 })
     let x : Nat := gridAtOrBefore (s.par (epVirt i.val) P.vaPeriodTicks) (s.par (epVirt i.val) P.vaPhaseTicks) s.xt16
     let m : Motion := (s.setpointAt (epVirt i.val) (ft16Of x)).2.1
     let u : State := (s.setpointAt (epVirt i.val) (ft16Of x)).1
     decide (x = gridAtOrBefore (s.par (epVirt i.val) P.vaPeriodTicks) (s.par (epVirt i.val) P.vaPhaseTicks) s.xt16 ∧
         (s.getVirt i.val).state = .enabled ∧ (s.getVirt i.val).sampleXt < x ∧ (s.getVirt i.val).stop = none ∧
         s.setpointAt (epVirt i.val) (ft16Of x) = (u, m, true)) : Bool) = true ∧
    (-- clause 13, trailChangeInstant
     let ep : TrailEp := .servo 0
     let b : Nat := 0
     let m : Nat := 0
     let w : BitVec 32 := 0
     let s : State := (State.reset).modTrail (trailEp ep) (fun e => { e with change := some (b, .cancel m w) })
     decide ((s.getTrail (trailEp ep)).change = some (b, .cancel m w) ∧ b ≤ s.xt16) : Bool) = true ∧
    (-- clause 14, trailChangeInstant
     let ep : TrailEp := .servo 0
     let b : Nat := 0
     let m : Nat := 0
     let s : State := (State.reset).modTrail (trailEp ep) (fun e => { e with change := some (b, .leave m) })
     decide ((s.getTrail (trailEp ep)).change = some (b, .leave m) ∧ b ≤ s.xt16) : Bool) = true :=
  by and_intros <;> decide +kernel

/-- States and operands that meet the premises of ConvoyCommandsAct, clause by clause. -/
theorem witness_ConvoyCommandsAct :
    (-- clause 1, camLoad
     let ref : CmdRef := wref
     let ep : BitVec 16 := 0x600
     let interp : Byte := 0
     let first : BitVec 32 := 0
     let total : BitVec 32 := 2
     let pts : List CamPoint := [{ m := 0 }, { m := 1 }]
     let c := ep.toNat - 0x600
     let f := first.toNat
     let n := total.toNat
     let s₀ : State := wq 0x0600 (State.reset)
     let s := s₀
     decide (s.goesOn ref 0x0600 = true) && (
     let t := s.getCam c
     let old := if f = 0 then [] else (t.points.zip (t.coefs ++ List.replicate t.points.length (0, 0, 0))).take f
     let oldPts : List CamPoint := old.map (fun x => { m := x.1.1, f := x.1.2, c1 := x.2.1, c2 := x.2.2.1, c3 := x.2.2.2 })
     let all := oldPts ++ pts
     let rising := (all.zip all.tail).all (fun ab => decide (ab.1.m < ab.2.m))
     let coefs := if all.length = n ∨ interp.toNat = 2 then camCoefs interp.toNat all else []
     decide (0x600 ≤ ep.toNat ∧ ep.toNat ≤ 0x6FF ∧ interp.toNat ≤ 2 ∧ 2 ≤ n ∧ n ≤ 4097 ∧ (¬ (rising &&
         (coefs.dropLast.any coefBad || pts.any (fun p => coefBad (p.c1, p.c2, p.c3))))) ∧ s.camNamed c = false ∧
         rising = true ∧ all.head?.any (fun p => decide (p.m ≠ 0)) = false ∧ f + pts.length ≤ n ∧ oldPts.length = f)) : Bool) = true ∧
    (-- clause 2, convoyJoin
     let ref : CmdRef := wref
     let ep : BitVec 16 := 0x100
     let j : JoinReq := { convoy := 1, dist := 0, num := 1, den := 1, map := 0 , anchor := 0, stage := 0xFF }
     let e := ep.toNat
     let map := j.map.toNat
     let stp := decide (0x20 ≤ e) && decide (e ≤ 0x3F)
     let cam := j.cam.toNat - 0x600
     let s₀ : State := wq 0x0610 (((((((State.reset).modFollower ep.toNat (fun e => { e with state := .none_ })).modVirt 0
         (fun e => { e with state := .enabled })).modTime (fun e => { e with state := .locked })).modPublisher 0 (fun e =>
         { e with registered := some 1 })).modTrail 0x100 (fun e => { e with state := .idle })).setPar 0x1F60 P.convLead 0
         0x42C80000)
     let s := s₀
     decide (s.queuedFor ref 0x0610 = true) && (
     let f := s.getFollower e
     let info := s.convoyInfo j.convoy.toNat
     let s := s.took
     let tr := s.getTrail e
     let extra : Rat := if stp then (s.par e P.stpPeriodTicks : Rat) / 64 + 2 else 0
     decide (isFollowerEp e = true ∧ map ≤ 2 ∧ j.anchor.toNat ≤ 1 ∧ (¬ (decide (8 ≤ j.stage.toNat) && j.stage != 0xFF)) ∧
         posOrZero j.dist = true ∧ (¬ (map != 2 && (decide (j.num = 0) || decide (j.den = 0)))) ∧ (¬ (map == 2 &&
         !(decide (0x600 ≤ j.cam.toNat) && decide (j.cam.toNat ≤ 0x6FF)))) ∧ s.axisStateOf e = .enabled ∧
         (¬ (decide (e < 0x200) && tr.state != .idle && !(tr.state == .running && s.atVel e))) ∧ s.time.state ≠ .unset ∧
         s.time.state ≠ .acquiring ∧ f.state = .none_ ∧ (s.groupOf e).isSome = false ∧ (¬ (decide (e < 0x20) &&
         s.mode e != (if map = 1 then 1 else 2))) ∧ info.1 = true ∧ 2 + (info.2.2 : Rat) * (3 / 10) + 2 + extra ≤ info.2.1 ∧
         (¬ (j.stage != 0xFF && map != 1)) ∧ (¬ (map == 2 && !(s.getCam cam).valid)))) : Bool) = true ∧
    (-- clause 3, convoyLeave
     let ref : CmdRef := wref
     let ep : BitVec 16 := 0x100
     let mode : Byte := 0
     let e := ep.toNat
     let s : State := wq 0x0611 ((State.reset).modFollower 0x100 (fun e => { e with state := .coupled }))
     decide (s.queuedFor ref 0x0611 = true) && (
     let st := (s.getFollower e).state
     decide (isFollowerEp e = true ∧ mode.toNat ≤ 1 ∧ st == .waiting || st == .syncing || st == .coupled)) : Bool) = true ∧
    (-- clause 4, phaseMove
     let ref : CmdRef := wref
     let ep : BitVec 16 := 0
     let v : F32 := 0x3F800000
     let a : F32 := 0x3F800000
     let j : F32 := 0
     let e := ep.toNat
     let s : State := wq 0x0612 ((State.reset).modFollower ep.toNat (fun e => { e with state := .coupled }))
     decide (s.queuedFor ref 0x0612 = true) && (
     let f := s.getFollower e
     decide (isFollowerEp e = true ∧ posOrZero v = true ∧ posOrZero a = true ∧ posOrZero j = true ∧ f32Val v.toNat ≠ 0 ∧
         f32Val a.toNat ≠ 0 ∧ f.state = .coupled ∧ (f.map.map (·.map)) ≠ some 1)) : Bool) = true :=
  by and_intros <;> decide +kernel

/-- States and operands that meet the premises of ConvoyPublisherActs, clause by clause. -/
theorem witness_ConvoyPublisherActs :
    (-- clause 1, convoyPublish
     let cp : Fin 16 := 0
     let c := cp.val
     let s₀ : State := ((((State.reset).modPublisher cp.val (fun e => { e with lastGrid := (some 0) })).modPublisher 0 (fun e
         => { e with registered := some 1, ended := false, lastGrid := some 0 })).modTime (fun e =>
         { e with ft16 := 2 ^ 40 })).setPar 0x1F60 P.convLead 0 0x461C4000
     let s := s₀
     (match s.plannedMaster c with
     | some ep =>
       let n := s.par (epPub c) P.convPeriodTicks
       let ph := s.par (epPub c) P.convPhaseTicks
       let lead := (unitsOfNs (s.parF (epPub c) P.convLead * 1000)).toNat
       (match (s.getPublisher c).lastGrid with
       | some g =>
         let x := max (gridAtOrAfter n ph (g + 1)) (gridAtOrAfter n ph s.xt16)
         decide (x - lead ≤ s.xt16 + tickUnits)
       | _ => false)
     | _ => false) : Bool) = true ∧
    (-- clause 2, convoyPublish
     let cp : Fin 16 := 0
     let c := cp.val
     let s₀ : State := (((State.reset).modPublisher cp.val (fun e => { e with lastGrid := none })).modPublisher 0 (fun e =>
         { e with registered := some 1, ended := false })).setPar 0x1F60 P.convLead 0 0
     let s := s₀
     (match s.plannedMaster c with
     | some ep =>
       let n := s.par (epPub c) P.convPeriodTicks
       let ph := s.par (epPub c) P.convPhaseTicks
       let lead := (unitsOfNs (s.parF (epPub c) P.convLead * 1000)).toNat
       decide ((s.getPublisher c).lastGrid = none) && (
       let x := gridAtOrAfter n ph (s.xt16 + lead)
       decide (x - lead ≤ s.xt16 + tickUnits))
     | _ => false) : Bool) = true ∧
    (-- clause 3, convoyBoundaryPublish
     let cp : Fin 16 := 0
     let tRef : Ft16 := 1
     let c := cp.val
     let s₀ : State := ((State.reset).modPublisher 0 (fun e =>
         { e with registered := some 1, ended := false, lastGrid := some 0 })).modTrail 256 (fun e =>
         { e with queue := [{ tStart := 1 }] })
     let s := s₀
     (match s.plannedMaster c with
     | some ep =>
       let x := s.xtOfFt16 tRef
       let begins := (s.getTrail ep).queue.any (fun g => g.tStart == tRef && g.fol.isNone)
       let onG := onGrid (s.par (epPub c) P.convPeriodTicks) (s.par (epPub c) P.convPhaseTicks) x
       let lead := (unitsOfNs (s.parF (epPub c) P.convLead * 1000)).toNat
       decide (begins = true ∧ onG = false ∧ x - lead ≤ s.xt16 + tickUnits ∧
           (s.getPublisher c).last.any (fun p => p.tRef == tRef) = false ∧ (s.getPublisher c).boundaries < 3)
     | _ => false) : Bool) = true ∧
    (-- clause 4, convoySupersede
     let cp : Fin 16 := 0
     let tRef : Ft16 := 0
     let c := cp.val
     let s : State := (((State.reset).modPublisher cp.val (fun e => { e with last := (some {}) })).modPublisher 0 (fun e =>
         { e with registered := some 1, ended := false, last := some { p0 := 5 } })).modTrail 256 (fun e =>
         { e with queue := [{}] })
     (match s.plannedMaster c with
     | some ep =>
       (match (s.getPublisher c).last with
       | some l =>
         let m := s.masterAt ep tRef
         let was := pubAt l tRef
         decide ((s.departures ep).contains tRef = true ∧ (¬ (m.1.p == was.p && m.1.v == was.v && m.1.a == was.a)))
       | _ => false)
     | _ => false) : Bool) = true ∧
    (-- clause 5, convoyRepublish
     let cp : Fin 16 := 0
     let pub : Pub := {}
     let c := cp.val
     let s : State := ((State.reset).modPublisher 0 (fun p => { p with ended := false })).modFollower 256 (fun f =>
         { f with map := some {}, convoy := some 0, state := .coupled, held := [{}] })
     let ep := s.par (epPub c) P.convMaster
     let f := s.getFollower ep
     (match f.map with
     | some g =>
       decide ((s.getPublisher c).ended = false ∧ f.convoy = some pub.convoy.toNat ∧ g.map ≠ 2 ∧
           f.state == .syncing || f.state == .coupled ∧ f.held.contains pub = true)
     | _ => false) : Bool) = true ∧
    (-- clause 6, registerAnswerRx
     let cp : Fin 16 := 0
     let status : BitVec 16 := E.ok
     let s : State := (State.reset).modPublisher cp (fun e => { e with registering := (some (0, 0, 0)) })
     (match (s.getPublisher cp).registering with
     | some (n, u₁, k) =>
       decide (status = E.ok)
     | _ => false) : Bool) = true ∧
    (-- clause 7, registerAnswerRx
     let cp : Fin 16 := 0
     let status : BitVec 16 := 2
     let s : State := (State.reset).modPublisher cp (fun e => { e with registering := (some (0, 0, 0)) })
     (match (s.getPublisher cp).registering with
     | some (n, u₁, k) =>
       decide (status ≠ E.ok)
     | _ => false) : Bool) = true ∧
    (-- clause 8, convoyRegisterTimeout
     let cp : Fin 16 := 0
     let s : State := { (State.reset).modPublisher cp (fun e => { e with registering := (some (0, 0, 0)) }) with tick := 10 ^ 12 }
     (match (s.getPublisher cp).registering with
     | some (u₁, u₂, k) =>
       decide (s.registerDue cp = true)
     | _ => false) : Bool) = true :=
  by and_intros <;> decide +kernel

/-- States and operands that meet the premises of FollowerAndRemoteActs, clause by clause. -/
theorem witness_FollowerAndRemoteActs :
    (-- clause 2, convoyLocalDelivery
     let f : FolEp := .servo 0
     let pub : Pub := {}
     let s : State := (State.reset).modFabric (fun f => { f with sent := [(0xFFFF, FabMsg.convoy {})] })
     decide (s.fabric.sent.contains (0xFFFF, FabMsg.convoy pub) = true) : Bool) = true ∧
    (-- clause 3, masterStale
     let f : FolEp := .servo 0
     let ep := folEp f
     let s : State := ((State.reset).modFollower 0 (fun e => { e with state := .coupled, held := [{}] })).modTime (fun e =>
         { e with ft16 := 2 ^ 46 })
     let st := (s.getFollower ep).state
     decide (st == .waiting || st == .syncing || st == .coupled ∧ s.staleAt ep s.time.ft16 = true) : Bool) = true ∧
    (-- clause 4, convoyJoinInstant
     let fe : FolEp := .servo 0
     let ep := folEp fe
     let s : State := (((((State.reset).modFollower (folEp fe) (fun e => { e with state := .waiting })).modFollower (folEp
         fe) (fun e => { e with join := (some {}) })).modFollower (folEp fe) (fun e =>
         { e with map := (some {}) })).modFollower 0 (fun e =>
         { e with state := .waiting, held := [{ v0 := 2 ^ 40 }], map := some {}, join := some { at_ := some 0, dist := 0 } })).modTrail 0 (fun e => { e with queue := [{ hold := true }] })
     let f := s.getFollower ep
     decide (f.state = .waiting) && (
     (match f.join with
     | some j =>
       (match f.map with
       | some g =>
         (match j.at_ with
         | some a =>
           let t := (a.zeroExtend 48 : Ft16) <<< 16
           (match f.inUse t with
           | some p =>
             decide (ft16Diff t s.time.ft16 ≤ 0) && (
             let m := pubAt p t
             let tr := s.getTrail ep
             (match (tr.sample t).1 with
             | some x =>
               let here : Motion := x
               let tb := s.getCam f.cam
               let ny := camPos (camCycle tb).1 f.camOrigin m.p
               let piece := camPiece tb (camIndex tb ny.2)
               let part : FolPart := if g.map = 2 then piece
                 else if j.absolute then { g with ma := j.ma, fa := j.fa } else { g with ma := m.p, fa := here.p }
               let fBase : Q32 := if g.map ≠ 2 then 0 else if j.absolute then j.fa
                 else here.p - ny.1 * (camCycle tb).2 - toQ32 (pieceAt piece ny.2).1
               let mo := mapped part m {} (0, 0, 0) (stageFactor p g.stage) here.p here.v 0 fBase (camCycle tb).2 ny.1 ny.2
               let tol := s.parF ep P.joinVelTol / s.unitOf ep
               decide (j.dist = 0 ∧ tol < rabs (ofQ32 (mo.v - here.v)))
             | _ => false))
           | _ => false)
         | _ => false)
       | _ => false)
     | _ => false)) : Bool) = true ∧
    (-- clause 5, regMark
     let fe : FolEp := .servo 0
     let stamp : Ft8 := 0
     let ep := folEp fe
     let t : Ft16 := (stamp.zeroExtend 48) <<< 8
     let s₀ : State := (((State.reset).setPar (folEp fe) P.regSource 0 1).setPar 0 P.regSource 0 1).modFollower 0 (fun e =>
         { e with marks := [0] })
     let s := s₀
     let f := s.getFollower ep
     decide (s.par ep P.regSource = 1 ∧ f.marks.contains stamp = true) && (
     let f := { f with marks := f.marks.erase stamp }
     let s := s.setFollower ep f
     let before := f.held.all (fun p => decide (ft16Diff t p.tRef < 0))
     let mk := ofQ32 (((f.inUse t).map (fun p => (pubAt p t).p)).getD 0)
     let pitch := s.parF ep P.regPitch
     let e := floorMod (mk - s.parF ep P.regPhase + pitch / 2) pitch - pitch / 2
     decide (s.parF ep P.regWindow < rabs e ∨ before = true ∨ f.state ≠ .coupled)) : Bool) = true ∧
    (-- clause 6, remoteSetpointSend
     let na : Fin 128 := 0
     let i := na.val
     let ep := epRemote i
     let s₀ : State := ((((State.reset).setPar (epRemote na.val) P.remAddress 0 1).setPar 0x200 P.remAddress 0 1).setPar
         0x200 P.remTransport 0 2).setPar 0x200 P.remLead 0 0x447A0000
     let s := s₀
     let r := s.getRemote i
     let n := s.par ep P.remPeriodTicks
     let ph := s.par ep P.remPhaseTicks
     let lead := (unitsOfNs (s.parF ep P.remLead * 1000)).toNat
     let x := max (gridAtOrAfter n ph (r.lastXt + 1)) (gridAtOrAfter n ph s.xt16)
     decide (s.par ep P.remAddress ≠ 0 ∧ x - lead ≤ s.xt16 + tickUnits) && (
     let o := s.setpointAt ep (ft16Of x)
     let s := o.1
     let m := o.2.1
     let r := s.getRemote i
     let seq := r.seq + 1
     let s := s.modFollower ep (fun f => { f with sp := (m.p, m.v, m.a), lastXt := x })
     let s := s.setRemote i { r with seq := seq, sentSeqs := (seq :: r.sentSeqs).take 256, lastXt := x }
     decide (s.par ep P.remTransport = 2)) : Bool) = true ∧
    (-- clause 7, remoteFeedbackRx
     let na : Fin 128 := 0
     let fb : RemFeedback := {}
     let i := na.val
     let ep := epRemote i
     let s : State := State.reset
     let r := s.getRemote i
     let bad := fb.length != 32 || fb.version != 1 || decide (fb.status.toNat % 256 ≥ 4) || decide (65536 ≤ fb.status.toNat) ||
       !r.sentSeqs.contains fb.seq || fb.source.toNat != s.par ep P.remAddress
     decide (bad = true) : Bool) = true ∧
    (-- clause 8, remoteTimeout
     let na : Fin 128 := 0
     let i := na.val
     let ep := epRemote i
     let s₀ : State := { (State.reset).modRemote na.val (fun e => { e with state := .enabled }) with tick := 10 ^ 12 }
     let s := s₀
     let r := s.getRemote i
     decide (r.state = .enabled ∧ s.expired r.fbTick (msTicks (s.parF ep P.remTimeout)) = true) : Bool) = true ∧
    (-- clause 9, remoteEnableTimeout
     let na : Fin 128 := 0
     let i := na.val
     let s : State := { ((State.reset).modRemote na.val (fun e => { e with state := .enabling })).modRemote na.val (fun e => { e with enableTick := (some 0) }) with tick := 10 ^ 12 }
     let r := s.getRemote i
     decide (r.state = .enabling) && (
     (match r.enableTick with
     | some t =>
       decide (s.expired t (msTicks (s.parF (epRemote i) P.remEnableTimeout)) = true)
     | _ => false)) : Bool) = true ∧
    (-- clause 10, convoyJoinInstant
     let fe : FolEp := .servo 0
     let ep := folEp fe
     let s₀ : State := (((((State.reset).modFollower (folEp fe) (fun e => { e with state := .waiting })).modFollower (folEp
         fe) (fun e => { e with join := (some {}) })).modFollower (folEp fe) (fun e =>
         { e with map := (some {}) })).modFollower 0 (fun e =>
         { e with state := .waiting, held := [{}], map := some {}, join := some { at_ := none, dist := 1 } })).modTrail 0
         (fun e => { e with queue := [{ hold := true }] })
     let s := s₀
     let f := s.getFollower ep
     decide (f.state = .waiting) && (
     (match f.join with
     | some j =>
       (match f.map with
       | some g =>
         decide (j.at_ = none) && (
         let t := s.time.ft16
         (match f.inUse t with
         | some p =>
           decide (ft16Diff t s.time.ft16 ≤ 0) && (
           let m := pubAt p t
           let tr := s.getTrail ep
           (match (tr.sample t).1 with
           | some x =>
             let here : Motion := x
             let tb := s.getCam f.cam
             let ny := camPos (camCycle tb).1 f.camOrigin m.p
             let piece := camPiece tb (camIndex tb ny.2)
             let part : FolPart := if g.map = 2 then piece
               else if j.absolute then { g with ma := j.ma, fa := j.fa } else { g with ma := m.p, fa := here.p }
             let fBase : Q32 := if g.map ≠ 2 then 0 else if j.absolute then j.fa
               else here.p - ny.1 * (camCycle tb).2 - toQ32 (pieceAt piece ny.2).1
             let mo := mapped part m {} (0, 0, 0) (stageFactor p g.stage) here.p here.v 0 fBase (camCycle tb).2 ny.1 ny.2
             let tol := s.parF ep P.joinVelTol / s.unitOf ep
             decide (¬ (j.dist = 0 ∧ tol < rabs (ofQ32 (mo.v - here.v)))) && (
             decide (j.dist ≠ 0))
           | _ => false))
         | _ => false))
       | _ => false)
     | _ => false)) : Bool) = true ∧
    (-- clause 11, regMark
     let fe : FolEp := .servo 0
     let stamp : Ft8 := 0
     let ep := folEp fe
     let t : Ft16 := (stamp.zeroExtend 48) <<< 8
     let s₀ : State := (((State.reset).setPar (folEp fe) P.regSource 0 1).setPar 0 P.regSource 0 1).modFollower 0 (fun e =>
         { e with marks := [0], state := .coupled, held := [{}] })
     let s := s₀
     let f := s.getFollower ep
     decide (s.par ep P.regSource = 1 ∧ f.marks.contains stamp = true) && (
     let f := { f with marks := f.marks.erase stamp }
     let s := s.setFollower ep f
     let before := f.held.all (fun p => decide (ft16Diff t p.tRef < 0))
     let mk := ofQ32 (((f.inUse t).map (fun p => (pubAt p t).p)).getD 0)
     let pitch := s.parF ep P.regPitch
     let e := floorMod (mk - s.parF ep P.regPhase + pitch / 2) pitch - pitch / 2
     decide (rabs e ≤ s.parF ep P.regWindow ∧ before = false ∧ f.state = .coupled) && (
     let s := s.bump ep C.gearRegAccept
     decide (rabs e ≤ s.parF ep P.regDeadband))) : Bool) = true ∧
    (-- clause 12, regMark
     let fe : FolEp := .servo 0
     let stamp : Ft8 := 0
     let ep := folEp fe
     let t : Ft16 := (stamp.zeroExtend 48) <<< 8
     let s₀ : State := ((((State.reset).setPar (folEp fe) P.regSource 0 1).setPar 0 P.regSource 0 1).setPar 0 P.regWindow 0
         0x3F800000).modFollower 0 (fun e =>
         { e with marks := [0], state := .coupled, held := [{ p0 := 2 ^ 28 }], map := some { num := 1, den := 1 } })
     let s := s₀
     let f := s.getFollower ep
     decide (s.par ep P.regSource = 1 ∧ f.marks.contains stamp = true) && (
     let f := { f with marks := f.marks.erase stamp }
     let s := s.setFollower ep f
     let before := f.held.all (fun p => decide (ft16Diff t p.tRef < 0))
     let mk := ofQ32 (((f.inUse t).map (fun p => (pubAt p t).p)).getD 0)
     let pitch := s.parF ep P.regPitch
     let e := floorMod (mk - s.parF ep P.regPhase + pitch / 2) pitch - pitch / 2
     decide (rabs e ≤ s.parF ep P.regWindow ∧ before = false ∧ f.state = .coupled) && (
     let s := s.bump ep C.gearRegAccept
     decide (s.parF ep P.regDeadband < rabs e) && (
     (match f.map with
     | some g =>
       true
     | _ => false)))) : Bool) = true ∧
    (-- clause 13, remoteSetpointSend
     let na : Fin 128 := 0
     let i := na.val
     let ep := epRemote i
     let s₀ : State := (((State.reset).setPar (epRemote na.val) P.remAddress 0 1).setPar 0x200 P.remAddress 0 1).setPar 0x200
         P.remLead 0 0x447A0000
     let s := s₀
     let r := s.getRemote i
     let n := s.par ep P.remPeriodTicks
     let ph := s.par ep P.remPhaseTicks
     let lead := (unitsOfNs (s.parF ep P.remLead * 1000)).toNat
     let x := max (gridAtOrAfter n ph (r.lastXt + 1)) (gridAtOrAfter n ph s.xt16)
     decide (s.par ep P.remAddress ≠ 0 ∧ x - lead ≤ s.xt16 + tickUnits) && (
     let o := s.setpointAt ep (ft16Of x)
     let s := o.1
     let m := o.2.1
     let r := s.getRemote i
     let seq := r.seq + 1
     let s := s.modFollower ep (fun f => { f with sp := (m.p, m.v, m.a), lastXt := x })
     let s := s.setRemote i { r with seq := seq, sentSeqs := (seq :: r.sentSeqs).take 256, lastXt := x }
     decide (s.par ep P.remTransport ≠ 2)) : Bool) = true ∧
    (-- clause 14, remoteFeedbackRx
     let na : Fin 128 := 0
     let fb : RemFeedback := { length := 32, version := 1, status := 1, seq := 1, source := 0 }
     let i := na.val
     let ep := epRemote i
     let s₀ : State := ((State.reset).modRemote na.val (fun e => { e with state := .enabling })).modRemote 0 (fun e =>
         { e with state := .enabling, sentSeqs := [1] })
     let s := s₀
     let r := s.getRemote i
     let bad := fb.length != 32 || fb.version != 1 || decide (fb.status.toNat % 256 ≥ 4) || decide (65536 ≤ fb.status.toNat) ||
       !r.sentSeqs.contains fb.seq || fb.source.toNat != s.par ep P.remAddress
     decide (bad = false) && (
     decide (r.state = .enabling ∧ bitOf fb.status.toNat 0 = true)) : Bool) = true ∧
    (-- clause 15, remoteFeedbackRx
     let na : Fin 128 := 0
     let fb : RemFeedback := { length := 32, version := 1, status := 0, seq := 1, source := 0 }
     let i := na.val
     let ep := epRemote i
     let s₀ : State := (State.reset).modRemote 0 (fun e => { e with sentSeqs := [1] })
     let s := s₀
     let r := s.getRemote i
     let bad := fb.length != 32 || fb.version != 1 || decide (fb.status.toNat % 256 ≥ 4) || decide (65536 ≤ fb.status.toNat) ||
       !r.sentSeqs.contains fb.seq || fb.source.toNat != s.par ep P.remAddress
     decide (bad = false) && (
     decide (¬ (r.state = .enabling ∧ bitOf fb.status.toNat 0))) : Bool) = true :=
  by and_intros <;> decide +kernel

/-- States and operands that meet the premises of CoherentCommandsAct, clause by clause. -/
theorem witness_CoherentCommandsAct :
    (-- clause 1, stageWrite
     let ref : CmdRef := wref
     let items : List Item := [{ fa := 0x1F00, code := BitVec.ofNat 16 P.remoteTimeout, len := 4 }]
     let k := cmdKey ref
     let m := keyMbx k
     let s : State := wq 0x0120 (State.reset)
     decide (s.queuedFor ref 0x0120 = true) && (
     let me := s.sessRef m
     decide (keyRemote k = false ∧ items.isEmpty = false ∧ items.length ≤ 4096 ∧ items.findSome? (s.stageBad me) = none) && (
     let l := items.foldl s.addItem (s.pendingOf m)
     decide (setFits l = true))) : Bool) = true ∧
    (-- clause 2, paramImport
     let ref : CmdRef := wref
     let items : List Item := []
     let reach : Reach := .whole
     let k := cmdKey ref
     let m := keyMbx k
     let s₀ : State := wq 0x0125 (State.reset)
     let s := s₀
     decide (s.goesOn ref 0x0125 = true ∧ keyRemote k = false) && (
     let from_ := (s.cmd k).progress
     let left := items.drop from_
     let now := left.take (reachUnits reach left.length)
     (match s.importItems (s.sessRef m) now (s.pendingOf m, from_, ((items.take from_).map Item.size).sum) with
     | ((l, n, b), bad) =>
       decide (bad = none))) : Bool) = true ∧
    (-- clause 3, discard
     let ref : CmdRef := wref
     let s : State := wq 0x0123 (State.reset)
     decide (s.queuedFor ref 0x0123 = true) : Bool) = true ∧
    (-- clause 4, commit
     let ref : CmdRef := wref
     let s : State := wq 0x0121 (State.reset)
     decide (s.queuedFor ref 0x0121 = true) : Bool) = true ∧
    (-- clause 5, commitAt
     let ref : CmdRef := wref
     let ft : Ft := 200000
     let s : State := wq 0x0122 (State.reset)
     decide (s.queuedFor ref 0x0122 = true) && (
     let d := ftDiff ft s.ft
     decide (100000 ≤ d ∧ d ≤ 2000000000)) : Bool) = true ∧
    (-- clause 6, prepare
     let ref : CmdRef := wref
     let ftC : Ft := 20000000
     let k := cmdKey ref
     let s₀ : State := wq 0x0124 ((State.reset).setSession 0 (some { pendingSet := [{ fa := 0x1F00 }] }))
     let s := s₀
     decide (s.queuedFor ref 0x0124 = true) && (
     let items := s.commitSet k
     let d := ftDiff ftC s.ft
     let own := s.fabric.device
     let devOf (i : Item) : Nat := if s.ownItem i then own else i.dev
     let devs := items.foldl (fun l i => insertDev (devOf i) l) [own]
     decide (items.isEmpty = false ∧ 10000000 ≤ d ∧ d ≤ 2000000000 ∧ devs.length ≤ 64)) : Bool) = true :=
  by and_intros <;> decide +kernel

/-- States and operands that meet the premises of PrepareEventsAct, clause by clause. -/
theorem witness_PrepareEventsAct :
    (-- clause 3, commitDecisionMsg
     let p : PrepRef := ⟨0, 0⟩
     let s : State := (State.reset).setPart 0 0 (some { ready := true })
     (match s.part p.dev.val p.num with
     | some q =>
       decide (q.ready = true)
     | _ => false) : Bool) = true ∧
    (-- clause 5, commitAckMsg
     let num : Nat := 0
     let part : Fin 4096 := 0
     let s : State := (State.reset).setPrep 0 { decision := some true }
     (match s.prep num with
     | some p =>
       decide (p.decision = some true ∧ part.val ∉ p.acks)
     | _ => false) : Bool) = true ∧
    (-- clause 6, prepareReadyDeadline
     let num : Nat := 0
     let s : State := ((State.reset).setPrep 0 { ftC := 0 }).modTime (fun e =>
         { e with ft16 := BitVec.ofNat 48 (200000000 * 65536) })
     (match s.prep num with
     | some p =>
       decide (p.decision.isNone = true ∧ s.atFt p.ftC (-3000000) = true)
     | _ => false) : Bool) = true ∧
    (-- clause 7, prepareAckDeadline
     let num : Nat := 0
     let s : State := ((State.reset).setPrep 0 { decision := some true, parts := [(0, none)] }).modTime (fun e =>
         { e with ft16 := BitVec.ofNat 48 (200000000 * 65536) })
     (match s.prep num with
     | some p =>
       let missing := p.decision == some true && p.devs.any (fun d => !p.acks.contains d)
       let again := p.decision == some false && p.commitSent && !s.atFt p.ftC 0
       decide (s.atFt p.ftC (-1000000) = true ∧ missing || again)
     | _ => false) : Bool) = true ∧
    (-- clause 9, prepareDiscardTimeout
     let p : PrepRef := ⟨1, 0⟩
     let s : State := ((State.reset).setPart 1 0 (some { dev := 1 })).modTime (fun e =>
         { e with ft16 := BitVec.ofNat 48 (200000000 * 65536) })
     (match s.part p.dev.val p.num with
     | some q =>
       decide (s.atFt q.ftC 100000000 = true ∧ s.isOwn p.dev.val = false)
     | _ => false) : Bool) = true ∧
    (-- clause 10, prepareDiscardTimeout
     let p : PrepRef := ⟨0, 0⟩
     let s : State := ((State.reset).setPrep 0 {}).modTime (fun e => { e with ft16 := BitVec.ofNat 48 (200000000 * 65536) })
     decide (s.part p.dev.val p.num = none ∧ s.isOwn p.dev.val = true) && (
     (match s.prep p.num with
     | some r =>
       decide (s.atFt r.ftC 100000000 = true)
     | _ => false)) : Bool) = true :=
  by and_intros <;> decide +kernel

/-- States and operands that meet the premises of EpochActs, clause by clause. -/
theorem witness_EpochActs :
    (-- clause 1, epochBoundary
     let s₀ : State := (((State.reset).modHost (fun e => { e with stage := 8 })).modHost (fun h =>
         { h with stage := 8, snaps := [{}] })).modTime (fun e => { e with xtHi := 1 })
     let s := s₀
     let e := s.lastBoundary
     (match s.host.snaps with
     | x :: u₁ =>
       let known := decide (e ≤ x.e)
       decide (s.supRuns = true ∧ known = false)
     | _ => false) : Bool) = true ∧
    (-- clause 2, epochBoundary
     let s₀ : State := (((State.reset).modHost (fun e => { e with snaps := [] })).modHost (fun e =>
         { e with stage := 8 })).modHost (fun h => { h with stage := 8 })
     let s := s₀
     decide (s.host.snaps = [] ∧ s.supRuns = true) : Bool) = true ∧
    (-- clause 3, snapRead
     let ref : CmdRef := wref
     let items : List ReadItem := [{ ep := 0, code := 0x1001 }]
     let s : State := wq 0x0110 (State.reset)
     decide (s.queuedFor ref 0x0110 = true ∧ items.findSome? readBad = none ∧ items.isEmpty = false ∧ items.length ≤ 512) : Bool) = true ∧
    (-- clause 4, snapAt
     let ref : CmdRef := wref
     let ft : Ft := 0
     let items : List ReadItem := [{ ep := 0, code := 0x1001 }]
     let s : State := wq 0x0111 (State.reset)
     decide (s.queuedFor ref 0x0111 = true ∧ items.findSome? readBad = none ∧ items.isEmpty = false ∧ items.length ≤ 512 ∧
         ftDiff ft s.ft ≤ 1000000000) : Bool) = true ∧
    (-- clause 5, snapshotComplete
     let s₀ : State := (State.reset).modHost (fun h => { h with snaps := [{}] })
     let s := s₀
     (match s.host.snaps.reverse.find? (fun x => !x.complete) with
     | some x =>
       true
     | _ => false) : Bool) = true ∧
    (-- clause 6, commitApply
     let s₀ : State := (State.reset).modHost (fun h => { h with commits := [{ dropped := true }] })
     let s := s₀
     (match s.dueCommit with
     | some c =>
       decide (c.dropped = true)
     | _ => false) : Bool) = true ∧
    (-- clause 7, commitApply
     let s₀ : State := ((State.reset).modHost (fun h =>
         { h with commits := [{ items := [{ fa := 0, code := BitVec.ofNat 16 P.fbSource, len := 1 }] }] })).modLoop 0 (fun e
         => { e with state := .enabled })
     let s := s₀
     (match s.dueCommit with
     | some c =>
       let s := s.modHost (fun h => { h with commits := h.commits.erase c })
       decide (c.dropped = false) && (
       (match s.stateBad c.items with
       | some n =>
         true
       | _ => false))
     | _ => false) : Bool) = true ∧
    (-- clause 8, commitApply
     let s₀ : State := (State.reset).modHost (fun h => { h with commits := [{}] })
     let s := s₀
     (match s.dueCommit with
     | some c =>
       let s := s.modHost (fun h => { h with commits := h.commits.erase c })
       decide (c.dropped = false ∧ s.stateBad c.items = none)
     | _ => false) : Bool) = true ∧
    (-- clause 9, prepareApply
     let p : PrepRef := ⟨0, 0⟩
     let s₀ : State := (State.reset).setPart 0 0 (some { ready := true, commit := true })
     let s := s₀
     (match s.part p.dev.val p.num with
     | some q =>
       decide (q.commit = true ∧ q.ready = true ∧ s.atFt q.ftC 0 = true) && (
       let s := s.dropPart p.dev.val p.num
       decide ((s.stateBad q.items).isSome = false) && (
       let s := s.applyItems q.items (s.xtOfFt q.ftC)
       decide (s.isOwn p.dev.val = true)))
     | _ => false) : Bool) = true ∧
    (-- clause 10, prepareApply
     let p : PrepRef := ⟨1, 0⟩
     let s₀ : State := (State.reset).setPart 1 0 (some { dev := 1, ready := true, commit := true })
     let s := s₀
     (match s.part p.dev.val p.num with
     | some q =>
       decide (q.commit = true ∧ q.ready = true ∧ s.atFt q.ftC 0 = true) && (
       let s := s.dropPart p.dev.val p.num
       decide ((s.stateBad q.items).isSome = false) && (
       let s := s.applyItems q.items (s.xtOfFt q.ftC)
       decide (s.isOwn p.dev.val = false)))
     | _ => false) : Bool) = true :=
  by and_intros <;> decide +kernel

/-- States and operands that meet the premises of CaptureCommandsAct, clause by clause. -/
theorem witness_CaptureCommandsAct :
    (-- clause 1, basketArm
     let ref : CmdRef := wref
     let ep : BitVec 16 := 0x800
     let s₀ : State := wq 0x0700 (State.reset)
     let s := s₀
     decide (s.queuedFor ref 0x0700 = true) && (
     (match capOf ep.toNat with
     | some c =>
       let e := epCap c
       let clock := s.par e P.capClock
       let conds := [0, 1, 2, 3].map (fun n => s.capCond c n)
       decide ((s.getCap c).state = .disarmed ∧ s.par e P.capPre + s.par e P.capPost ≤ 2097152 ∧ s.capLargest c ≤ 8388608 ∧
           s.chainCircle c 256 (s.chains c) = false ∧ [0, 1, 2, 3].any (s.condBad c) = false ∧
           (s.capSignals c).any (s.sigBad clock) = false ∧ (¬ (clock != 1 &&
           (s.getLoop (s.par e P.capClockAxis)).state != .enabled)) ∧ conds.any (fun v => condType v == 5 &&
           decide (ft8Diff (condTime v) s.ft8 < armUnits8)) = false)
     | _ => false)) : Bool) = true ∧
    (-- clause 2, basketList
     let ref : CmdRef := wref
     let ep : BitVec 16 := 0x800
     let s : State := wq 0x0701 (State.reset)
     decide (s.queuedFor ref 0x0701 = true) && (
     (match capOf ep.toNat with
     | some c =>
       true
     | _ => false)) : Bool) = true ∧
    (-- clause 3, basketRead
     let ref : CmdRef := wref
     let id : BitVec 32 := 0
     let offset : BitVec 32 := 0
     let len : BitVec 32 := 1
     let s₀ : State := wq 0x0702 ((State.reset).modCapMem (fun m => { m with baskets := [(0, { closed := true })] }))
     let s := s₀
     decide (s.goesOn ref 0x0702 = true) && (
     (match s.closedBasket id with
     | some b =>
       let l := (s.basket b).content
       decide (len.toNat ≠ 0 ∧ len.toNat ≤ 65536 ∧ offset.toNat + len.toNat ≤ l.length)
     | _ => false)) : Bool) = true ∧
    (-- clause 4, basketRelease
     let ref : CmdRef := wref
     let id : BitVec 32 := 0
     let s : State := wq 0x0703 ((State.reset).modCapMem (fun m => { m with baskets := [(0, { closed := true })] }))
     decide (s.queuedFor ref 0x0703 = true) && (
     (match s.closedBasket id with
     | some b =>
       decide (s.beingRead b = false)
     | _ => false)) : Bool) = true ∧
    (-- clause 5, latchRead
     let ref : CmdRef := wref
     let ep : BitVec 16 := 0x800
     let max : Byte := 1
     let s₀ : State := wq 0x0704 (State.reset)
     let s := s₀
     decide (s.queuedFor ref 0x0704 = true) && (
     (match capOf ep.toNat with
     | some c =>
       decide (max.toNat ≠ 0 ∧ max.toNat ≤ 16)
     | _ => false)) : Bool) = true ∧
    (-- clause 6, capTrigger
     let ref : CmdRef := wref
     let ep : BitVec 16 := 0x800
     let s : State := wq 0x0705 (((State.reset).setPar 0x800 P.capCond 0 6).modCap 0 (fun h => { h with state := .armed }))
     decide (s.queuedFor ref 0x0705 = true) && (
     (match capOf ep.toNat with
     | some c =>
       (match [0, 1, 2, 3].find? (fun n => condType (s.capCond c n) == 6) with
       | some n =>
         decide ((s.getCap c).state ≠ .disarmed)
       | _ => false)
     | _ => false)) : Bool) = true ∧
    (-- clause 7, basketDisarm
     let ref : CmdRef := wref
     let ep : BitVec 16 := 0x800
     let s₀ : State := wq 0x0706 (State.reset)
     let s := s₀
     decide (s.queuedFor ref 0x0706 = true) && (
     (match capOf ep.toNat with
     | some c =>
       let h := s.getCap c
       let here := (earliest h.firings).any (fun f => decide (s.tickOf f.stamp = 0))
       let s := if h.state == .armed && here then s.takeTrigger c none else s
       decide ((s.getCap c).state = .disarmed)
     | _ => false)) : Bool) = true ∧
    (-- clause 8, basketDisarm
     let ref : CmdRef := wref
     let ep : BitVec 16 := 0x800
     let s₀ : State := wq 0x0706 ((State.reset).modCap 0 (fun h => { h with state := .post }))
     let s := s₀
     decide (s.queuedFor ref 0x0706 = true) && (
     (match capOf ep.toNat with
     | some c =>
       let h := s.getCap c
       let here := (earliest h.firings).any (fun f => decide (s.tickOf f.stamp = 0))
       let s := if h.state == .armed && here then s.takeTrigger c none else s
       decide ((s.getCap c).state = .post)
     | _ => false)) : Bool) = true :=
  by and_intros <;> decide +kernel

/-- States and operands that meet the premises of CaptureEventsAct, clause by clause. -/
theorem witness_CaptureEventsAct :
    (-- clause 1, captureFiring
     let cc : Fin 256 := 0
     let cond : Fin 4 := 0
     let s : State := (State.reset).setPar 0x800 P.capCond 0 7
     (match s.edgeStamp (s.capCond cc.val cond.val) with
     | some st =>
       true
     | _ => false) : Bool) = true ∧
    (-- clause 2, captureTimeCondition
     let cc : Fin 256 := 0
     let cond : Fin 4 := 0
     let c := cc.val
     let s₀ : State := ((State.reset).setPar 0x800 P.capCond 0 5).modCap 0 (fun h =>
         { h with state := .armed, primed := [(true, false)] })
     let s := s₀
     let v := s.capCond c cond.val
     let h := s.getCap c
     decide (condType v = 5 ∧ h.state ≠ .disarmed ∧ (h.primed.getD cond.val (false, false)).1 = true ∧
         0 ≤ ft8Diff s.ft8 (condTime v)) : Bool) = true ∧
    (-- clause 3, captureTrigger
     let cc : Fin 256 := 0
     let c := cc.val
     let s : State := (((((State.reset).modCap cc.val (fun e => { e with state := .armed })).setPar (epCap cc.val) P.capMode
         0 0).modCap 0 (fun h => { h with state := .armed, firings := [{ stamp := 0 }], pre := [(2 ^ 26, [])] })).setPar
         0x800 P.capMode 0 0).modTime (fun e => { e with ft16 := 2 ^ 40 })
     let h := s.getCap c
     decide (h.state = .armed) && (
     (match earliest h.firings with
     | some f0 =>
       decide (s.par (epCap c) P.capMode = 0) && (
       let u := s.time.ft16 + BitVec.ofInt 48 ((s.tickOf f0.stamp + 1) * tickUnits)
       decide (s.tickOf f0.stamp < 0 ∧ s.capFinal 257 c u = true))
     | _ => false)) : Bool) = true ∧
    (-- clause 4, captureSample
     let cc : Fin 256 := 0
     let cycles : Fin 100 := 0
     let frac : Fin 256 := 0
     let rawCode : Option Int := none
     let c := cc.val
     let ep := epCap c
     let s₀ : State := ((((State.reset).modCap cc.val (fun e => { e with lastSample := (some (0 - 2 ^ 40, [])) })).setPar
         (epCap cc.val) P.capMode 0 1).modCap 0 (fun h =>
         { h with state := .armed, lastSample := some (0 - 2 ^ 40, []) })).setPar 0x800 P.capMode 0 1
     let s := s₀
     let h := s.getCap c
     let t := s.sampleInstant c cycles.val frac.val
     (match h.lastSample with
     | some p =>
       let old := decide (ft16Diff t p.1 ≤ 0)
       decide (h.state ≠ .disarmed ∧ s.par ep P.capMode ≠ 0 ∧ old = false ∧ (¬ (s.par ep P.capClock = 2 ∧ rawCode = none))) && (
       let view := s.capView c t
       let xs := (s.capSignals c).map (fun g => view.sigVal g t (rawCode.getD 0))
       let t2 := ft16Of (s.getFoc (s.par ep P.capClockAxis)).t2
       let s := s.thresholds c t t2 xs
       let s := s.modCap c (fun h => { h with lastSample := some (t, xs), lastT2 := t2 })
       decide ((s.getCap c).state = .armed))
     | _ => false) : Bool) = true ∧
    (-- clause 5, captureRearm
     let cc : Fin 256 := 0
     let c := cc.val
     let s : State := ((State.reset).modCap cc.val (fun e => { e with state := .rearm })).modTime (fun e =>
         { e with ft16 := 2 ^ 40 })
     let h := s.getCap c
     decide (h.state = .rearm ∧ (rearmUnits : Int) ≤ ft16Diff s.time.ft16 h.tEnd) : Bool) = true ∧
    (-- clause 6, latchRecord
     let cc : Fin 256 := 0
     let c := cc.val
     let s₀ : State := (State.reset).modCap 0 (fun h => { h with latchDue := [(0, 0, 0, none)] })
     let s := s₀
     let h := s.getCap c
     let axes := s.latchAxes c
     (match h.latchDue with
     | (mask, t, n, slot) :: l =>
       decide (axes.all (fun e => e == 0xFFFF || s.latchReady e t) = true) && (
       decide (slot = none))
     | _ => false) : Bool) = true ∧
    (-- clause 7, basketSpill
     let s : State := (State.reset).modCapMem (fun m => { m with reserved := [(0, 31 * 1048576)] })
     decide (s.capCoreFree < s.par epModule P.capSpillLow * 1048576) : Bool) = true ∧
    (-- clause 8, captureTrigger
     let cc : Fin 256 := 0
     let c := cc.val
     let s : State := ((((State.reset).modCap cc.val (fun e => { e with state := .armed })).setPar (epCap cc.val) P.capMode 0
         1).modCap 0 (fun h => { h with state := .armed, firings := [{ stamp := 0 }], pre := [(2 ^ 26, [])] })).setPar 0x800
         P.capMode 0 1
     let h := s.getCap c
     decide (h.state = .armed) && (
     (match earliest h.firings with
     | some f0 =>
       decide (s.par (epCap c) P.capMode ≠ 0) && (
       (match h.pre.find? (fun x => decide (0 ≤ ft16Diff x.1 (ft16Of8 f0.stamp))) with
       | some x =>
         decide (s.capFinal 257 c x.1 = true)
       | _ => false))
     | _ => false)) : Bool) = true ∧
    (-- clause 9, captureSample
     let cc : Fin 256 := 0
     let cycles : Fin 100 := 0
     let frac : Fin 256 := 0
     let rawCode : Option Int := none
     let c := cc.val
     let ep := epCap c
     let s₀ : State := ((((State.reset).modCap cc.val (fun e => { e with lastSample := none })).setPar (epCap cc.val)
         P.capMode 0 1).modCap 0 (fun h => { h with state := .post })).setPar 0x800 P.capMode 0 1
     let s := s₀
     let h := s.getCap c
     let t := s.sampleInstant c cycles.val frac.val
     decide (h.lastSample = none ∧ h.state ≠ .disarmed ∧ s.par ep P.capMode ≠ 0 ∧ (¬ (s.par ep P.capClock = 2 ∧
         rawCode = none))) && (
     let view := s.capView c t
     let xs := (s.capSignals c).map (fun g => view.sigVal g t (rawCode.getD 0))
     let t2 := ft16Of (s.getFoc (s.par ep P.capClockAxis)).t2
     let s := s.thresholds c t t2 xs
     let s := s.modCap c (fun h => { h with lastSample := some (t, xs), lastT2 := t2 })
     decide ((s.getCap c).state = .post)) : Bool) = true ∧
    (-- clause 10, latchRecord
     let cc : Fin 256 := 0
     let c := cc.val
     let ep := epCap c
     let s₀ : State := (State.reset).modCap 0 (fun h => { h with latchDue := [(0, 0, 0, some 0)] })
     let s := s₀
     let h := s.getCap c
     let axes := s.latchAxes c
     (match h.latchDue with
     | (mask, t, n, slot) :: l =>
       decide (axes.all (fun e => e == 0xFFFF || s.latchReady e t) = true) && (
       let ps := axes.map (fun e => if e = 0xFFFF then (0, false) else s.latched e t)
       let valid := ((List.range 4).map (fun i => b2n (ps.getD i (0, false)).2 * 2 ^ i)).sum
       let bad := ((List.range 4).filter (fun i => decide (axes.getD i 0xFFFF ≠ 0xFFFF) && !(ps.getD i (0, false)).2)).length
       let r : LatchRec := { tRef := t, mask := mask, posValid := valid, seq := n, pos := ps.map (·.1) }
       let full := decide (64 ≤ h.fifo.length)
       let s := s.setCap c { h with
         latchDue := l, fifo := if full then h.fifo else h.fifo ++ [r], fifoFull := h.fifoFull || full }
       let s := (s.bumpIf full ep C.capLatchDrop).bumpBy ep C.capPosInvalid 0 bad
       (match slot with
       | some k =>
         decide ((s.basket k).channel = c ∧ (s.basket k).tRef = t)
       | _ => false))
     | _ => false) : Bool) = true :=
  by and_intros <;> decide +kernel

/-- States and operands that meet the premises of HostCommandsAct, clause by clause. -/
theorem witness_HostCommandsAct :
    (-- clause 1, sysIdentify
     let ref : CmdRef := wref
     let s : State := wq 0x0100 (State.reset)
     decide (s.queuedFor ref 0x0100 = true) : Bool) = true ∧
    (-- clause 2, sysStatus
     let ref : CmdRef := wref
     let s : State := wq 0x0101 (State.reset)
     decide (s.queuedFor ref 0x0101 = true) : Bool) = true ∧
    (-- clause 3, cmdStatus
     let ref : CmdRef := wref
     let dev : BitVec 16 := 0
     let tag : Fin 256 := 0
     let k := cmdKey ref
     let s : State := wq 0x0102 ((State.reset).setSession 0 (some { tagFirst := 0, tagCount := 4 }))
     decide (s.queuedFor ref 0x0102 = true ∧ s.tagOutside k tag = false) && (
     (match s.namedCmd k tag dev.toNat with
     | some n =>
       true
     | _ => false)) : Bool) = true ∧
    (-- clause 4, cmdAbort
     let ref : CmdRef := wref
     let dev : BitVec 16 := 0
     let tag : Fin 256 := 1
     let k := cmdKey ref
     let s : State := wq 0x0103 (((State.reset).setSession 0 (some { tagFirst := 0, tagCount := 4 })).setCmd 1
         { state := .queued })
     decide (s.queuedFor ref 0x0103 = true ∧ s.tagOutside k tag = false) && (
     (match s.namedCmd k tag dev.toNat with
     | some n =>
       decide ((s.cmd n).state = .queued)
     | _ => false)) : Bool) = true ∧
    (-- clause 5, interruptedList
     let ref : CmdRef := wref
     let s : State := wq 0x0104 (State.reset)
     decide (s.queuedFor ref 0x0104 = true) : Bool) = true ∧
    (-- clause 6, logRead
     let ref : CmdRef := wref
     let max : BitVec 32 := 1
     let s : State := wq 0x0E00 (State.reset)
     decide (s.goesOn ref 0x0E00 = true ∧ max.toNat ≠ 0 ∧ max.toNat ≤ 4096) : Bool) = true ∧
    (-- clause 7, logMark
     let ref : CmdRef := wref
     let s : State := wq 0x0E01 (State.reset)
     decide (s.queuedFor ref 0x0E01 = true) : Bool) = true ∧
    (-- clause 8, cmdRecordExpiry
     let ref : CmdRef := wref
     let s : State := { ({ State.reset with tick := 10 ^ 12 }).setCmd 0 { state := .done } with tick := 10 ^ 12 }
     let c := s.cmd (cmdKey ref)
     let ended := c.state != .none_ && c.state != .queued && c.state != .running && !c.inFlight
     decide (ended = true ∧ s.passed c.doneTick 640000000 = true) : Bool) = true ∧
    (-- clause 9, sessionOpen
     let ref : CmdRef := wref
     let tags : BitVec 16 := 1
     let k := cmdKey ref
     let m := keyMbx k
     let s : State := wq 0x0140 (State.reset)
     decide (s.queuedFor ref 0x0140 = true ∧ tags.toNat ≠ 0 ∧ tags.toNat ≤ 256 ∧ (s.getSession m).isSome = false) && (
     (match s.openSession m s.newSession .pcie [] tags.toNat with
     | (s', st, data) =>
       true)) : Bool) = true ∧
    (-- clause 10, sessionClose
     let ref : CmdRef := wref
     let s : State := wq 0x0141 (State.reset)
     decide (s.queuedFor ref 0x0141 = true) : Bool) = true ∧
    (-- clause 11, keySet
     let ref : CmdRef := wref
     let keyId : Byte := 0
     let k := cmdKey ref
     let s : State := wq 0x0150 ((State.reset).setSession (keyMbx (cmdKey ref)) (some {}))
     decide (s.queuedFor ref 0x0150 = true) && (
     (match s.getSession (keyMbx k) with
     | some x =>
       let pcie := x.via == .pcie
       decide (pcie = true ∧ keyRemote k = false ∧ keyId.toNat < 8)
     | _ => false)) : Bool) = true ∧
    (-- clause 12, sessionIdleTimeout
     let m : Fin 64 := 0
     let s : State := { (State.reset).setSession m (some { via := .udp 0 0 }) with tick := 10 ^ 12 }
     (match s.getSession m with
     | some x =>
       decide (x.via.network = true ∧ s.expired x.traffic (1000 * msTicks (s.parF epModule P.sessionIdle)) = true)
     | _ => false) : Bool) = true ∧
    (-- clause 13, udpHello
     let port : Fin 2 := 0
     let bytes : List Byte := helloFrame
     let s : State := State.reset
     (match datagramOf bytes with
     | some g =>
       decide (g.known = true ∧ g.type = 1 ∧ g.body.length = 32 ∧ g.auth.any (· != 0) = false) && (
       let r := s.helloRate port
       decide (r.2 < 100))
     | _ => false) : Bool) = true ∧
    (-- clause 14, udpCommand
     let bytes : List Byte := commandFrame
     let s : State := (State.reset).setSession 0 (some { id := 7, via := .udp 0 0 })
     (match datagramOf bytes with
     | some g =>
       decide (g.known = true ∧ g.type = 3 ∧ 64 ≤ g.body.length) && (
       (match s.udpSession g.sid with
       | some (m, x) =>
         decide (g.authentic x.key = true ∧ x.replayed g.seq = false)
       | _ => false))
     | _ => false) : Bool) = true ∧
    (-- clause 15, halfOpenTimeout
     let sessionId : BitVec 32 := 0
     let s : State := ({ State.reset with tick := 10 ^ 12 }).modHost (fun h => { h with halfOpen := [(0, {})] })
     (match s.host.halfOpen.find? (fun h => h.1 == sessionId.toNat) with
     | some (k, h) =>
       decide (s.expired h.since 64000000 = true)
     | _ => false) : Bool) = true :=
  by and_intros <;> decide +kernel

/-- States and operands that meet the premises of MailboxRegisterActs, clause by clause. -/
theorem witness_MailboxRegisterActs :
    (-- clause 1, mbxDoorbell
     let m : Fin 64 := 0
     let tail : BitVec 16 := 0
     let s : State := State.reset
     decide (s.bar0 = true) && (
     let b := s.getMbx m
     decide ((tail - b.cmdHead).toNat ≤ b.size)) : Bool) = true ∧
    (-- clause 2, mbxDoorbell
     let m : Fin 64 := 0
     let tail : BitVec 16 := 100
     let s : State := State.reset
     decide (s.bar0 = true) && (
     let b := s.getMbx m
     decide (b.size < (tail - b.cmdHead).toNat)) : Bool) = true ∧
    (-- clause 3, mbxRspHeadWrite
     let m : Fin 64 := 0
     let head : BitVec 16 := 0
     let s : State := State.reset
     decide (s.bar0 = true) && (
     let b := s.getMbx m
     decide ((head - b.rspHead).toNat ≤ (b.rspTail - b.rspHead).toNat)) : Bool) = true ∧
    (-- clause 4, mbxEnableSet
     let m : Fin 64 := 0
     let s : State := (State.reset).modMbx m (fun e => { e with enable := false })
     decide (s.bar0 = true) && (
     let b := s.getMbx m
     decide (b.state ≠ .network ∧ b.enable = false)) : Bool) = true ∧
    (-- clause 5, mbxEnableClear
     let m : Fin 64 := 0
     let s : State := (State.reset).modMbx m (fun e => { e with enable := true })
     decide (s.bar0 = true) && (
     decide ((s.getMbx m).enable = true)) : Bool) = true ∧
    (-- clause 6, mbxEvtHeadWrite
     let head : BitVec 16 := 0
     let s : State := State.reset
     decide (s.bar0 = true ∧ (head - s.events.head).toNat ≤ s.events.used) && (
     let e := { s.events with head := head }
     decide (e.lostRun = none)) : Bool) = true ∧
    (-- clause 7, mbxEvtEnable
     let s : State := State.reset
     decide (s.bar0 = true) : Bool) = true ∧
    (-- clause 8, mbxEvtLostRead
     let s : State := State.reset
     decide (s.bar0 = true) : Bool) = true ∧
    (-- clause 9, supFtSnapLoRead
     let s : State := State.reset
     decide (s.bar0 = true) : Bool) = true ∧
    (-- clause 10, supFaultWrite
     let s : State := State.reset
     decide (s.bar0 = true) : Bool) = true ∧
    (-- clause 11, mbxBadAccess
     let s : State := State.reset
     decide (s.bar0 = true) : Bool) = true ∧
    (-- clause 12, registerWrite
     let reg : DirectReg := .evtBaseLo
     let s : State := State.reset
     decide (s.bar0 = true) && (
     decide (reg = .evtBaseLo)) : Bool) = true ∧
    (-- clause 13, registerWrite
     let reg : DirectReg := .mbxCmdBaseLo 0
     let s : State := State.reset
     decide (s.bar0 = true) && (
     (match reg with
     | .mbxCmdBaseLo m =>
       true
     | _ => false)) : Bool) = true :=
  by and_intros <;> decide +kernel

/-- States and operands that meet the premises of MailboxEventsAct, clause by clause. -/
theorem witness_MailboxEventsAct :
    (-- clause 1, descriptorFetch
     let m : Fin 64 := 0
     let d : Descriptor := {}
     let s₀ : State := (State.reset).modMbx 0 (fun b => { b with state := .open_, cmdTail := 1 })
     let s := s₀
     let b := s.getMbx m
     let serves := s.power.restarting.isNone && ((b.state == .boot &&
         !s.power.rescue) || b.state == .enabled || b.state == .open_)
     decide (serves = true ∧ b.cmdHead ≠ b.cmdTail ∧ (¬ (bitOf d.flags.toNat 1 &&
         (s.cmd (m.val * 512 + d.tag.val + 256)).inFlight)) ∧ (b.rspTail - b.rspHead).toNat + b.reserved < b.size) : Bool) = true ∧
    (-- clause 2, responseWrite
     let m : Fin 64 := 0
     let s : State := (State.reset).modHost (fun h => { h with rspQueue := [0] })
     (match s.host.rspQueue.find? (fun k => keyMbx k == m.val) with
     | some k =>
       true
     | _ => false) : Bool) = true ∧
    (-- clause 3, ringDmaFail
     let m : Fin 64 := 0
     let s : State := (State.reset).modMbx 0 (fun b => { b with state := .open_ })
     let b := s.getMbx m
     decide (b.state = .boot ∨ b.state = .enabled ∨ b.state = .open_) : Bool) = true ∧
    (-- clause 4, msixModerationEnd
     let source : Option (Fin 64) := some 0
     let s : State := (State.reset).modMbx 0 (fun b => { b with msiDue := true })
     let elapsed (last : Option Nat) (us : Nat) : Bool :=
       match last with
       | some t => decide (t + 64 * us ≤ s.tick)
       | none => true
     (match source with
     | some m =>
       let b := s.getMbx m
       decide (b.msiDue = true ∧ elapsed b.lastMsi b.moderation = true)
     | _ => false) : Bool) = true ∧
    (-- clause 5, msixModerationEnd
     let source : Option (Fin 64) := none
     let s : State := (State.reset).modEvents (fun e => { e with msiDue := true })
     let elapsed (last : Option Nat) (us : Nat) : Bool :=
       match last with
       | some t => decide (t + 64 * us ≤ s.tick)
       | none => true
     decide (source = none ∧ s.events.msiDue = true ∧ elapsed s.events.lastMsi s.events.moderation = true) : Bool) = true ∧
    (-- clause 7, forwardedCommandRx
     let src : Fin 4096 := 0
     let sess : BitVec 32 := 0
     let d : Descriptor := {}
     let s₀ : State := ((State.reset).modFabric (fun f => { f with routes := [(0, 1)] })).setSession 0 (some
         { via := .fabric 0 })
     let s := s₀
     decide (s.fabric.routes.any (fun r => r.1 == src.val) = true ∧ d.opcode.toNat ≠ 0x0140) && (
     (match s.fabricSession src.val sess.toNat with
     | some k =>
       true
     | _ => false)) : Bool) = true ∧
    (-- clause 8, forwardedCommandRx
     let src : Fin 4096 := 0
     let sess : BitVec 32 := 0
     let d : Descriptor := {}
     let s : State := (State.reset).modFabric (fun f => { f with routes := [(0, 1)] })
     decide (s.fabric.routes.any (fun r => r.1 == src.val) = true ∧ d.opcode.toNat ≠ 0x0140 ∧
         s.fabricSession src.val sess.toNat = none) : Bool) = true ∧
    (-- clause 9, forwardedResponseRx
     let m : Fin 64 := 0
     let tag : Fin 256 := 0
     let s₀ : State := { (State.reset).setCmd 0 { state := .running, forwarded := some 0 } with tick := 10 ^ 12 }
     let s := s₀
     (match s.forwardKey m tag with
     | some k =>
       true
     | _ => false) : Bool) = true ∧
    (-- clause 10, forwardTimeout
     let m : Fin 64 := 0
     let tag : Fin 256 := 0
     let s₀ : State := { ({ State.reset with tick := 10 ^ 12 }).setCmd 0 { state := .running, forwarded := some 0 } with tick := 10 ^ 12 }
     let s := s₀
     (match s.forwardKey m tag with
     | some k =>
       (match (s.cmd k).forwarded with
       | some t =>
         decide (s.expired t (msTicks (s.parF epModule P.remoteTimeout)) = true)
       | _ => false)
     | _ => false) : Bool) = true :=
  by and_intros <;> decide +kernel

/-- States and operands that meet the premises of LockActs, clause by clause. -/
theorem witness_LockActs :
    (-- clause 1, lock
     let ref : CmdRef := wref
     let wait : BitVec 32 := 0
     let eps : List (BitVec 16) := [0]
     let k := cmdKey ref
     let m := keyMbx k
     let s : State := wq 0x0130 ((State.reset).setSession (keyMbx (cmdKey ref)) (some {}))
     decide (s.queuedFor ref 0x0130 = true) && (
     (match s.getSession m with
     | some x =>
       let d := (s.cmd k).image.device.toNat
       let own := s.isOwn d
       let dev := if own then 0 else d
       let new := (eps.eraseDups.filter (fun e => !x.locks.contains (dev, e))).length
       decide (wait.toNat ≤ 10000 ∧ eps.isEmpty = false ∧ eps.length ≤ 32 ∧ eps.any (fun e => !lockable e) = false ∧
           x.waiting.isSome = false ∧ x.locks.length + new ≤ 256) && (
       let me := s.sessRef m
       decide (own = true) && (
       let a := s.lockTry { sess := me, eps := eps } (wait != 0)
       decide (a.2 = .granted)))
     | _ => false)) : Bool) = true ∧
    (-- clause 2, unlock
     let ref : CmdRef := wref
     let k := cmdKey ref
     let m := keyMbx k
     let s₀ : State := wq 0x0131 ((State.reset).setSession (keyMbx (cmdKey ref)) (some {}))
     let s := s₀
     decide (s.queuedFor ref 0x0131 = true) && (
     (match s.getSession m with
     | some x =>
       true
     | _ => false)) : Bool) = true ∧
    (-- clause 3, lockRequestMsg
     let sess : SessRef := {}
     let eps : List (BitVec 16) := []
     let wait : Bool := false
     let s : State := State.reset
     let r := s.inRef sess
     let a := s.lockTry { sess := r, eps := eps } wait
     decide (a.2 = .granted) : Bool) = true ∧
    (-- clause 4, lockGrantMsg
     let m : Fin 64 := 0
     let s : State := (State.reset).setSession m (some { waiting := some (0, 1, [0], 1, 0) })
     (match s.getSession m with
     | some x =>
       (match x.waiting with
       | some w =>
         decide (w.2.1 ≠ 0)
       | _ => false)
     | _ => false) : Bool) = true ∧
    (-- clause 5, lockRefusalMsg
     let m : Fin 64 := 0
     let s : State := (State.reset).setSession m (some { waiting := some (0, 1, [0], 1, 0) })
     (match s.getSession m with
     | some x =>
       (match x.waiting with
       | some w =>
         decide (w.2.1 ≠ 0)
       | _ => false)
     | _ => false) : Bool) = true ∧
    (-- clause 6, lockReleaseMsg
     let eps : List (BitVec 16) := []
     decide (eps.isEmpty = true) : Bool) = true ∧
    (-- clause 7, lockGraphQuery
     let req : SessRef := {}
     let on : List SessRef := [{ dev := 0, sid := 0 }]
     let s : State := (State.reset).modLocks (fun e => { e with rebuilding := false })
     let r := s.inRef req
     let on' := on.map s.inRef
     decide (s.isLeader = true ∧ s.locks.rebuilding = false ∧ s.closes r on' = true) : Bool) = true ∧
    (-- clause 8, lockGraphAnswer
     let sess : SessRef := {}
     let s : State := (State.reset).modLocks (fun l => { l with asked := [{}] })
     (match s.locks.asked.find? (fun w => w.sess == s.inRef sess) with
     | some r =>
       true
     | _ => false) : Bool) = true ∧
    (-- clause 9, lockWaitTimeout
     let m : Fin 64 := 0
     let s₀ : State := { (State.reset).setSession m (some { waiting := some (0, 0, [0], 1, 0) }) with tick := 10 ^ 12 }
     let s := s₀
     (match s.getSession m with
     | some x =>
       (match x.waiting with
       | some (k, dev, eps, wait, t) =>
         let limit := if wait = 0 then s.parF epModule P.remoteTimeout else (wait : Rat)
         decide (s.expired t (msTicks limit) = true)
       | _ => false)
     | _ => false) : Bool) = true ∧
    (-- clause 10, waitGraphRebuild
     let s₀ : State := (State.reset).modLocks (fun e => { e with rebuilding := true })
     let s := s₀
     decide (s.isLeader = true ∧ s.locks.rebuilding = true) : Bool) = true ∧
    (-- clause 11, lock
     let ref : CmdRef := wref
     let wait : BitVec 32 := 1
     let eps : List (BitVec 16) := [0]
     let k := cmdKey ref
     let m := keyMbx k
     let s : State := wq 0x0130 ((((State.reset).setSession (keyMbx (cmdKey ref)) (some {})).modLocks (fun l =>
         { l with held := [(0, { dev := 5, sid := 5 })] })).modFabric (fun f => { f with state := .solo }))
     decide (s.queuedFor ref 0x0130 = true) && (
     (match s.getSession m with
     | some x =>
       let d := (s.cmd k).image.device.toNat
       let own := s.isOwn d
       let dev := if own then 0 else d
       let new := (eps.eraseDups.filter (fun e => !x.locks.contains (dev, e))).length
       decide (wait.toNat ≤ 10000 ∧ eps.isEmpty = false ∧ eps.length ≤ 32 ∧ eps.any (fun e => !lockable e) = false ∧
           x.waiting.isSome = false ∧ x.locks.length + new ≤ 256) && (
       let me := s.sessRef m
       decide (own = true) && (
       let a := s.lockTry { sess := me, eps := eps } (wait != 0)
       decide (a.2 = .waits)))
     | _ => false)) : Bool) = true ∧
    (-- clause 12, lock
     let ref : CmdRef := wref
     let wait : BitVec 32 := 0
     let eps : List (BitVec 16) := [0]
     let k := cmdKey ref
     let m := keyMbx k
     let s : State := (State.reset.setSession 0 (some {})).setCmd 0
         { opcode := 0x130, state := .queued, inFlight := true, image := { device := 9 } }
     decide (s.queuedFor ref 0x0130 = true) && (
     (match s.getSession m with
     | some x =>
       let d := (s.cmd k).image.device.toNat
       let own := s.isOwn d
       let dev := if own then 0 else d
       let new := (eps.eraseDups.filter (fun e => !x.locks.contains (dev, e))).length
       decide (wait.toNat ≤ 10000 ∧ eps.isEmpty = false ∧ eps.length ≤ 32 ∧ eps.any (fun e => !lockable e) = false ∧
           x.waiting.isSome = false ∧ x.locks.length + new ≤ 256) && (
       decide (own = false))
     | _ => false)) : Bool) = true ∧
    (-- clause 13, lockRequestMsg
     let sess : SessRef := {}
     let eps : List (BitVec 16) := [0]
     let wait : Bool := false
     let s : State := (State.reset).modLocks (fun l => { l with held := [(0, { dev := 5, sid := 5 })] })
     let r := s.inRef sess
     let a := s.lockTry { sess := r, eps := eps } wait
     decide (a.2 = .locked) : Bool) = true ∧
    (-- clause 14, lockReleaseMsg
     let eps : List (BitVec 16) := [0]
     decide (eps.isEmpty = false) : Bool) = true ∧
    (-- clause 15, lockGraphQuery
     let req : SessRef := {}
     let on : List SessRef := []
     let s : State := (State.reset).modLocks (fun e => { e with rebuilding := false })
     let r := s.inRef req
     let on' := on.map s.inRef
     decide (s.isLeader = true ∧ s.locks.rebuilding = false ∧ s.closes r on' = false) : Bool) = true :=
  by and_intros <;> decide +kernel

/-- States and operands that meet the premises of SchedulerActs, clause by clause. -/
theorem witness_SchedulerActs :
    (-- clause 1, threadLoad
     let ref : CmdRef := wref
     let image : List Byte := programImage
     let im := programOf image
     let s₀ : State := wq 0x0D00 (State.reset)
     let s := s₀
     decide (s.queuedFor ref 0x0D00 = true ∧ programBad image = false ∧ s.sched.images.length < 32 ∧
         im.code + im.data + im.bss ≤ s.poolFree) : Bool) = true ∧
    (-- clause 2, threadStart
     let ref : CmdRef := wref
     let handle : BitVec 32 := 0
     let prio : Byte := 0
     let ceiling : Byte := 0
     let ageing : BitVec 32 := 0
     let b := ageing.toNat
     let s₀ : State := wq 0x0D01 ((State.reset).modSched (fun c => { c with images := [(0, { stack := 4096 })] }))
     let s := s₀
     decide (s.queuedFor ref 0x0D01 = true) && (
     let im := mget s.sched.images handle.toNat {}
     decide (s.sched.images.any (fun x => x.1 == handle.toNat) = true ∧ s.prioBad prio ceiling = false ∧
         (¬ (decide (b ≠ 0) && (decide (b < 10) || decide (1000000 < b)))) ∧ s.sched.live.length < 192 ∧ im.stack ≤ s.poolFree)) : Bool) = true ∧
    (-- clause 3, threadCancel
     let ref : CmdRef := wref
     let id : BitVec 16 := 0
     let i := id.toNat
     let s : State := wq 0x0D02 ((State.reset).modSched (fun c => { c with threads := [(0, {})] }))
     decide (s.queuedFor ref 0x0D02 = true ∧ s.sched.threads.any (fun x => x.1 == i) = true ∧
         (mget s.sched.threads i {}).state = .ended) : Bool) = true ∧
    (-- clause 4, threadCancel
     let ref : CmdRef := wref
     let id : BitVec 16 := 0
     let i := id.toNat
     let s : State := wq 0x0D02 ((State.reset).modSched (fun c => { c with threads := [(0, { state := .running })] }))
     decide (s.queuedFor ref 0x0D02 = true ∧ s.sched.threads.any (fun x => x.1 == i) = true ∧
         (mget s.sched.threads i {}).state = .running) : Bool) = true ∧
    (-- clause 5, threadPrio
     let ref : CmdRef := wref
     let id : BitVec 16 := 0
     let prio : Byte := 1
     let ceiling : Byte := 2
     let s : State := wq 0x0D03 ((State.reset).modSched (fun c => { c with threads := [(0, { state := .running })] }))
     decide (s.queuedFor ref 0x0D03 = true ∧ s.sched.alive id.toNat = true ∧ s.prioBad prio ceiling = false) : Bool) = true ∧
    (-- clause 6, threadDispatch
     let s : State := ((State.reset).modPower (fun e => { e with state := .ramble })).modPower (fun e =>
         { e with change := none })
     decide (s.power.state = .ramble ∧ s.power.change.isNone = true) : Bool) = true ∧
    (-- clause 7, ageingRaise
     let id : Fin 256 := 0
     let s₀ : State := (State.reset).modSched (fun c =>
         { c with threads := [(0, { state := .ready, bound := 1, waited := 1, ceiling := 1 })] })
     let s := s₀
     let t := mget s.sched.threads id.val {}
     decide (t.state = .ready ∧ t.bound ≠ 0 ∧ t.bound ≤ t.waited ∧ t.eff < t.ceiling) : Bool) = true ∧
    (-- clause 8, schedulerTick
     let s₀ : State := (State.reset).modTime (fun e => { e with ft16 := 2 ^ 40 })
     let s := s₀
     let now := tickFloor s.ft
     decide (now ≠ s.sched.lastTick) && (
     let s := s.modSched (fun c =>
       { c with lastTick := now
                busy := (List.range 8).foldl (fun m k => if (c.runs k).isSome then mset m k (mget m k 0 + 64) 0 else m)
                    c.busy })
     decide (s.power.state = .ramble)) : Bool) = true ∧
    (-- clause 9, schedulerTick
     let s₀ : State := ((State.reset).modTime (fun e => { e with ft16 := 2 ^ 40 })).modPower (fun p =>
         { p with state := .stroll })
     let s := s₀
     let now := tickFloor s.ft
     decide (now ≠ s.sched.lastTick) && (
     let s := s.modSched (fun c =>
       { c with lastTick := now
                busy := (List.range 8).foldl (fun m k => if (c.runs k).isSome then mset m k (mget m k 0 + 64) 0 else m)
                    c.busy })
     decide (s.power.state ≠ .ramble)) : Bool) = true ∧
    (-- clause 10, threadTrap
     let core : Fin 8 := 0
     let mcause : BitVec 64 := 0
     let mtval : BitVec 64 := 0
     let s : State := (State.reset).modSched (fun c => { c with cores := [(0, 1)], threads := [(0, { state := .running })] })
     decide (mcause ≠ 8 ∧ (¬ (mcause == 5 && windowMay mtval.toNat false)) ∧ (¬ (mcause == 7 &&
         windowMay mtval.toNat true))) && (
     (match s.sched.runs core.val with
     | some id =>
       true
     | _ => false)) : Bool) = true :=
  by and_intros <;> decide +kernel

/-- States and operands that meet the premises of SchedulerCallsAct, clause by clause. -/
theorem witness_SchedulerCallsAct :
    (-- clause 1, schYield
     let core : Fin 8 := 0
     let s : State := (State.reset).modSched (fun c => { c with cores := [(0, 1)], threads := [(0, { state := .running })] })
     (match s.sched.runs core.val with
     | some id =>
       true
     | _ => false) : Bool) = true ∧
    (-- clause 2, schSleep
     let core : Fin 8 := 0
     let ns : BitVec 64 := 0
     let s : State := (State.reset).modSched (fun c => { c with cores := [(0, 1)], threads := [(0, { state := .running })] })
     (match s.sched.runs core.val with
     | some id =>
       decide (ns.toNat ≤ 2000000000)
     | _ => false) : Bool) = true ∧
    (-- clause 3, schSleep
     let core : Fin 8 := 0
     let ns : BitVec 64 := 2000000001
     let s : State := (State.reset).modSched (fun c => { c with cores := [(0, 1)], threads := [(0, { state := .running })] })
     (match s.sched.runs core.val with
     | some id =>
       decide (2000000000 < ns.toNat)
     | _ => false) : Bool) = true ∧
    (-- clause 4, schSleepUntil
     let core : Fin 8 := 0
     let wake : BitVec 64 := 0
     let w : Ft := wake.truncate 32
     let s : State := (State.reset).modSched (fun c => { c with cores := [(0, 1)], threads := [(0, { state := .running })] })
     (match s.sched.runs core.val with
     | some id =>
       decide (ftDiff w s.ft ≤ 2000000000)
     | _ => false) : Bool) = true ∧
    (-- clause 5, schWait
     let core : Fin 8 := 0
     let event : BitVec 64 := 256
     let timeout : BitVec 64 := 0
     let e := event.toNat
     let forever := timeout == 0xFFFFFFFF
     let s₀ : State := ((State.reset).modSched (fun c =>
         { c with cores := [(0, 1)], threads := [(0, { state := .running })] })).modSched (fun c =>
         { c with events := [(256, 1)] })
     let s := s₀
     (match s.sched.runs core.val with
     | some id =>
       decide (userEvent event = true ∧ (¬ (!forever && decide (2000000000 < timeout.toNat)))) && (
       let s := s.rebase id
       let n := mget s.sched.events e 0
       decide (0 < n))
     | _ => false) : Bool) = true ∧
    (-- clause 6, schWait
     let core : Fin 8 := 0
     let event : BitVec 64 := 256
     let timeout : BitVec 64 := 0
     let e := event.toNat
     let forever := timeout == 0xFFFFFFFF
     let s₀ : State := (State.reset).modSched (fun c => { c with cores := [(0, 1)], threads := [(0, { state := .running })] })
     let s := s₀
     (match s.sched.runs core.val with
     | some id =>
       decide (userEvent event = true ∧ (¬ (!forever && decide (2000000000 < timeout.toNat)))) && (
       let s := s.rebase id
       let n := mget s.sched.events e 0
       decide (n ≤ 0 ∧ timeout = 0))
     | _ => false) : Bool) = true ∧
    (-- clause 7, schWait
     let core : Fin 8 := 0
     let event : BitVec 64 := 256
     let timeout : BitVec 64 := 1
     let e := event.toNat
     let forever := timeout == 0xFFFFFFFF
     let s₀ : State := (State.reset).modSched (fun c => { c with cores := [(0, 1)], threads := [(0, { state := .running })] })
     let s := s₀
     (match s.sched.runs core.val with
     | some id =>
       decide (userEvent event = true ∧ (¬ (!forever && decide (2000000000 < timeout.toNat)))) && (
       let s := s.rebase id
       let n := mget s.sched.events e 0
       decide (n ≤ 0 ∧ timeout ≠ 0))
     | _ => false) : Bool) = true ∧
    (-- clause 8, schSignal
     let core : Fin 8 := 0
     let event : BitVec 64 := 256
     let count : BitVec 64 := 1
     let s : State := (State.reset).modSched (fun c => { c with cores := [(0, 1)], threads := [(0, { state := .running })] })
     (match s.sched.runs core.val with
     | some id =>
       decide (userEvent event = true ∧ 1 ≤ count.toNat ∧ count.toNat ≤ 65535)
     | _ => false) : Bool) = true ∧
    (-- clause 9, schNow
     let core : Fin 8 := 0
     let s : State := (State.reset).modSched (fun c => { c with cores := [(0, 1)], threads := [(0, { state := .running })] })
     (match s.sched.runs core.val with
     | some id =>
       true
     | _ => false) : Bool) = true ∧
    (-- clause 10, schExit
     let core : Fin 8 := 0
     let s : State := (State.reset).modSched (fun c => { c with cores := [(0, 1)], threads := [(0, { state := .running })] })
     (match s.sched.runs core.val with
     | some id =>
       true
     | _ => false) : Bool) = true ∧
    (-- clause 11, schCallInvalid
     let core : Fin 8 := 0
     let a7 : BitVec 64 := 0
     let s : State := (State.reset).modSched (fun c => { c with cores := [(0, 1)], threads := [(0, { state := .running })] })
     (match s.sched.runs core.val with
     | some id =>
       decide (¬ (1 ≤ a7.toNat ∧ a7.toNat ≤ 7))
     | _ => false) : Bool) = true :=
  by and_intros <;> decide +kernel

/-- States and operands that meet the premises of ArbiterActs, clause by clause. -/
theorem witness_ArbiterActs :
    (-- clause 1, arbitrationGrant
     let arb : ArbId := .fabTx 0
     let raised : List (Fin 17 × Nat) := [(0, 0)]
     let s₀ : State := ((State.reset).modPower (fun p => { p with domains := 0xFF })).modFabPort 0 (fun f =>
         { f with state := .up, out := [(0, .nack 0 0)] })
     let s := s₀
     let a := (s.getArb arb.num).release
     let all := s.competing arb raised
     let up (i : Nat) : Bool := all.any (fun r => r.1 == i)
     let byLevel := levelWinner arb.n a.w (s.arbLevel arb) up
     let win := if a.f = 15 then slotWinner arb.n a.g up else byLevel
     decide (s.arbOn arb = true) && (
     (match win with
     | some i =>
       (match arb with
       | .fabTx p =>
         true
       | _ => false)
     | _ => false)) : Bool) = true ∧
    (-- clause 2, arbitrationGrant
     let arb : ArbId := .lpddr
     let raised : List (Fin 17 × Nat) := [(0, 0)]
     let s : State := (State.reset).modPower (fun p => { p with domains := 0xFF })
     let a := (s.getArb arb.num).release
     let all := s.competing arb raised
     let up (i : Nat) : Bool := all.any (fun r => r.1 == i)
     let byLevel := levelWinner arb.n a.w (s.arbLevel arb) up
     let win := if a.f = 15 then slotWinner arb.n a.g up else byLevel
     decide (s.arbOn arb = true ∧ (∀ p, arb ≠ .fabTx p)) && (
     (match win with
     | some i =>
       true
     | _ => false)) : Bool) = true ∧
    (-- clause 3, arbitrationIdleCycle
     let arb : ArbId := .lpddr
     let s : State := (State.reset).modPower (fun p => { p with domains := 0xFF })
     decide (s.arbOn arb = true ∧ (s.competing arb []).isEmpty = true) : Bool) = true ∧
    (-- clause 4, grantCutoff
     let arb : ArbId := .lpddr
     let s₀ : State := { ((State.reset).modArb arb.num (fun e => { e with holder := 1 })).modPower (fun p => { p with domains := 0xFF }) with tick := 10 ^ 12 }
     let s := s₀
     let a := s.getArb arb.num
     decide (s.arbOn arb = true ∧ a.holder ≠ 0 ∧ a.since + arb.tenureTicks ≤ s.tick) : Bool) = true :=
  by and_intros <;> decide +kernel

/-- States and operands that meet the premises of LevelCycleGrantsHighest, clause by clause. -/
theorem witness_LevelCycleGrantsHighest :
    (-- clause 1, arbitrationGrant
     let arb : ArbId := .lpddr
     let raised : List (Fin 17 × Nat) := [(0, 0)]
     let i : Nat := 0
     let s : State := (State.reset).modPower (fun p => { p with domains := 0xFF })
     let a := (s.getArb arb.num).release
     let all := s.competing arb raised
     let up (j : Nat) : Bool := all.any (fun r => r.1 == j)
     let lv := s.arbLevel arb
     let d (j : Nat) : Nat := (j + arb.n - a.w) % arb.n
     decide (s.arbOn arb = true ∧ a.w < arb.n ∧ a.f ≠ 15 ∧ i < arb.n ∧ up i = true ∧
         (∀ j, j < arb.n → up j = true → lv j ≤ lv i) ∧ (∀ j, j < arb.n → up j = true → lv j = lv i → d i ≤ d j)) : Bool) = true :=
  by decide +kernel

/-- States and operands that meet the premises of SlotCycleGrantsFirst, clause by clause. -/
theorem witness_SlotCycleGrantsFirst :
    (-- clause 1, arbitrationGrant
     let arb : ArbId := .lpddr
     let raised : List (Fin 17 × Nat) := [(0, 0)]
     let i : Nat := 0
     let s : State := ((State.reset).modPower (fun p => { p with domains := 0xFF })).setArb 1 { f := 15 }
     let a := (s.getArb arb.num).release
     let all := s.competing arb raised
     let up (j : Nat) : Bool := all.any (fun r => r.1 == j)
     let d (j : Nat) : Nat := (j + arb.n - a.g) % arb.n
     decide (s.arbOn arb = true ∧ a.g < arb.n ∧ a.f = 15 ∧ i < arb.n ∧ up i = true ∧ (∀ j, j < arb.n → up j = true → d i ≤ d j)) : Bool) = true :=
  by decide +kernel

/-- States and operands that meet the premises of CanActs, clause by clause. -/
theorem witness_CanActs :
    (-- clause 1, canSend
     let ref : CmdRef := wref
     let ep : BitVec 16 := 0xA00
     let buf : BitVec 16 := 0
     let fr : CanFrame := {}
     let at_ : Option Ft := none
     let c := (canOf ep.toNat).getD 0
     let s : State := wq 0x0A00 (((State.reset).modCan ((canOf ep.toNat).getD 0) (fun e =>
         { e with state := .active })).modCan 0 (fun h => { h with state := .active }))
     decide (s.queuedFor ref 0x0A00 = true) && (
     let h := s.getCan c
     let ahead : Int := match at_ with | some t => ftDiff t s.ft | none => 0
     decide ((canOf ep.toNat).isNone = false ∧ buf.toNat ≤ 31 ∧ canFrameBad fr = false ∧ ahead ≤ 2000000000 ∧ h.live = true ∧
         (h.buf buf.toNat).isSome = false ∧ 0 ≤ ahead)) : Bool) = true ∧
    (-- clause 2, canCancel
     let ref : CmdRef := wref
     let ep : BitVec 16 := 0xA00
     let buf : BitVec 16 := 0
     let s₀ : State := wq 0x0A01 ((State.reset).modCan 0 (fun h => { h with bufs := [(0, {})] }))
     let s := s₀
     decide (s.queuedFor ref 0x0A01 = true) && (
     (match canOf ep.toNat with
     | some c =>
       let h := s.getCan c
       (match h.buf buf.toNat with
       | some b =>
         decide (h.sending ≠ some buf.toNat)
       | _ => false)
     | _ => false)) : Bool) = true ∧
    (-- clause 3, canRead
     let ref : CmdRef := wref
     let ep : BitVec 16 := 0xA00
     let max : Byte := 1
     let s₀ : State := wq 0x0A02 (State.reset)
     let s := s₀
     decide (s.queuedFor ref 0x0A02 = true ∧ (canOf ep.toNat).isNone = false ∧ max ≠ 0 ∧ max.toNat ≤ 32) : Bool) = true ∧
    (-- clause 5, canTxDone
     let ch : Fin 4 := 0
     let c := ch.val
     let s₀ : State := (State.reset).modCan ch.val (fun e => { e with sending := (some 0) })
     let s := s₀
     let h := s.getCan c
     (match h.sending with
     | some n =>
       true
     | _ => false) : Bool) = true ∧
    (-- clause 6, canArbLost
     let ch : Fin 4 := 0
     let s : State := (State.reset).modCan 0 (fun h => { h with sending := some 0 })
     decide ((s.getCan ch.val).sending.isSome = true) : Bool) = true ∧
    (-- clause 7, canError
     let ch : Fin 4 := 0
     let err : CanErr := .stuff
     let s : State := State.reset
     decide ((s.getCan ch.val).state ≠ .off ∧ (s.getCan ch.val).state ≠ .busOff) && (
     let t := (s.bump (epCan ch.val) (canErrCounter err)).modCan ch.val (fun h => { h.countError err false with
       lastError := canErrCode err, sending := h.sending })
     decide ((t.getCan ch.val).tec ≤ 255)) : Bool) = true ∧
    (-- clause 8, canError
     let ch : Fin 4 := 0
     let err : CanErr := .stuff
     let s : State := (State.reset).modCan 0 (fun h => { h with state := .active, sending := some 0, tec := 250 })
     decide ((s.getCan ch.val).state ≠ .off ∧ (s.getCan ch.val).state ≠ .busOff ∧ (s.getCan ch.val).sending.isSome = true) && (
     let t := (s.bump (epCan ch.val) (canErrCounter err)).modCan ch.val (fun h => { h.countError err true with
       lastError := canErrCode err, sending := none })
     decide (255 < (t.getCan ch.val).tec)) : Bool) = true ∧
    (-- clause 9, canBusOffRecovery
     let ch : Fin 4 := 0
     let c := ch.val
     let s : State := { (State.reset).modCan ch.val (fun e => { e with state := .busOff }) with tick := 10 ^ 12 }
     decide ((s.getCan c).state = .busOff ∧ s.canRecovered c = true) : Bool) = true ∧
    (-- clause 10, canFrameRx
     let ch : Fin 4 := 0
     let remote : Bool := true
     let c := ch.val
     let s₀ : State := State.reset
     let s := s₀
     let h := s.getCan c
     decide (h.state ≠ .off ∧ h.state ≠ .busOff) && (
     decide (remote = true)) : Bool) = true ∧
    (-- clause 11, canFrameRx
     let ch : Fin 4 := 0
     let fr : CanFrame := { id := 5 }
     let remote : Bool := false
     let c := ch.val
     let s₀ : State := (State.reset).setPar 0xA00 P.canFilter 0 0
     let s := s₀
     let h := s.getCan c
     decide (h.state ≠ .off ∧ h.state ≠ .busOff) && (
     let s := s.took.modCan c (fun h => h.goodRx s.fresh)
     decide (remote = false ∧ (List.range 16).any (fun i => filterPasses (s.par (epCan c) P.canFilter i) fr) = false)) : Bool) = true ∧
    (-- clause 12, canFrameRx
     let ch : Fin 4 := 0
     let fr : CanFrame := {}
     let remote : Bool := false
     let c := ch.val
     let s₀ : State := State.reset
     let s := s₀
     let h := s.getCan c
     decide (h.state ≠ .off ∧ h.state ≠ .busOff) && (
     let s := s.took.modCan c (fun h => h.goodRx s.fresh)
     decide (remote = false ∧ (List.range 16).any (fun i => filterPasses (s.par (epCan c) P.canFilter i) fr) = true ∧
         h.fifo.length < 64)) : Bool) = true :=
  by and_intros <;> decide +kernel

/-- States and operands that meet the premises of FieldInputActs, clause by clause. -/
theorem witness_FieldInputActs :
    (-- clause 1, fieldInputDebounced
     let input : Fin 64 := 0
     let level : Bool := true
     let s : State := (State.reset).modSupply 0 (fun g => { g with level := 0 })
     let f := s.fieldIn input.val
     decide (s.dieOff (dieOfGroup (groupOfIn input.val)) = false ∧ f.state ≠ level ∧ f.wireBreak = false) : Bool) = true ∧
    (-- clause 3, fastLatchDebounced
     let input : Fin 16 := 0
     let level : Bool := false
     let s : State := { ((State.reset).modSupply 0 (fun g => { g with level := 0 })).modLatch 0 (fun f => { f with state := true }) with tick := 10 ^ 12 }
     let f := s.latchIn input.val
     let held := s.passed f.edgeTick (usTicks (s.par (0x460 + input.val) P.flDebounce) * 99 / 100)
     decide (s.dieOff (input.val / 8) = false ∧ f.raw = level ∧ f.state ≠ level ∧ held = true) : Bool) = true ∧
    (-- clause 4, wireBreakSet
     let input : Fin 64 := 0
     let i := input.val
     let ep := 0x400 + i
     let s : State := ((State.reset).setPar (0x400 + input.val) P.fiWbEnable 0 1).modSupply 0 (fun g => { g with level := 0 })
     let f := s.fieldIn i
     decide (s.par ep P.fiWbEnable = 1 ∧ f.state = false ∧ f.wireBreak = false ∧ (s.supply (groupOfIn i)).level = 0) : Bool) = true ∧
    (-- clause 5, wireBreakClear
     let input : Fin 64 := 0
     let i := input.val
     let s : State := (State.reset).modIn 0 (fun f => { f with wireBreak := true })
     decide ((s.fieldIn i).wireBreak = true) : Bool) = true ∧
    (-- clause 7, supplyLevelFall
     let group : Fin 4 := 0
     let s : State := { ({ State.reset with tick := 10 ^ 12 }).modSupply 0 (fun g => { g with falling := some (1, 0) }) with tick := 10 ^ 12 }
     (match (s.supply group.val).falling with
     | some (l, t) =>
       decide (s.passed t (usTicks 100) = true)
     | _ => false) : Bool) = true ∧
    (-- clause 8, supplyLevelRise
     let group : Fin 4 := 0
     let s : State := { ({ State.reset with tick := 10 ^ 12 }).modSupply 0 (fun g => { g with rising := some (1, 0) }) with tick := 10 ^ 12 }
     (match (s.supply group.val).rising with
     | some (l, t) =>
       decide (s.passed t (msTicks 10) = true)
     | _ => false) : Bool) = true ∧
    (-- clause 9, fioFrameRx
     let die : Fin 2 := 0
     let crcOk : Bool := true
     let d := die.val
     let s₀ : State := ((State.reset).modPower (fun p => { p with domains := 0xFF })).modSupply 0 (fun g =>
         { g with level := 0 })
     let s := s₀
     let on := s.driveOn
     let s := if on then s.setsLeft d else s
     decide (s.dieOff d = false ∧ on = true ∧ crcOk = true) : Bool) = true ∧
    (-- clause 10, fioReportRx
     let die : Fin 2 := 0
     let d := die.val
     let s₀ : State := ((State.reset).modPower (fun p => { p with domains := 0xFF })).modSupply 0 (fun g =>
         { g with level := 0 })
     let s := s₀
     decide (s.dieOff d = false ∧ s.driveOn = true) : Bool) = true ∧
    (-- clause 11, fioStaleTimeout
     let die : Fin 2 := 0
     let s : State := { State.reset with tick := 10 ^ 12 }
     decide (s.expired (s.die die.val).rxTick (usTicks 10) = true) : Bool) = true ∧
    (-- clause 12, fioHeartbeatTimeout
     let die : Fin 2 := 0
     let d := die.val
     let s₀ : State := ({ State.reset with tick := 10 ^ 12 }).modSupply 0 (fun g => { g with level := 0 })
     let s := s₀
     decide (s.dieOff d = false ∧ (s.die d).lost = false ∧ s.expired (s.die d).dieTick (msTicks (s.par epModule
         P.fioHbTimeout)) = true) : Bool) = true ∧
    (-- clause 13, safetyFioFrameRx
     let die : Fin 2 := 0
     let valid : Bool := true
     let d := die.val
     let s₀ : State := (State.reset).modSupply 0 (fun g => { g with level := 0 })
     let s := s₀
     decide (valid = true ∧ s.dieOff d = false) : Bool) = true ∧
    (-- clause 14, safetyFioLinkTimeout
     let die : Fin 2 := 0
     let d := die.val
     let s : State := { State.reset with tick := 10 ^ 12 }
     decide (s.expired (s.die d).safTick (msTicks 2) = true) : Bool) = true ∧
    (-- clause 15, fioFrameRx
     let die : Fin 2 := 0
     let crcOk : Bool := false
     let d := die.val
     let s₀ : State := ((State.reset).modPower (fun p => { p with domains := 0xFF })).modSupply 0 (fun g =>
         { g with level := 0 })
     let s := s₀
     let on := s.driveOn
     let s := if on then s.setsLeft d else s
     decide (s.dieOff d = false ∧ on = true ∧ crcOk = false) : Bool) = true :=
  by and_intros <;> decide +kernel

/-- States and operands that meet the premises of FieldOutputActs, clause by clause. -/
theorem witness_FieldOutputActs :
    (-- clause 1, fioOutSet
     let ref : CmdRef := wref
     let mask : BitVec 32 := 1
     let s₀ : State := wq 0x0800 (State.reset)
     let s := s₀
     decide (s.queuedFor ref 0x0800 = true ∧ (maskOuts mask).any s.outSafe = false ∧ mask ≠ 0) : Bool) = true ∧
    (-- clause 2, fioOutAt
     let ref : CmdRef := wref
     let mask : BitVec 32 := 1
     let ft : Ft := 30000
     let l := maskOuts mask
     let s : State := wq 0x0801 (State.reset)
     decide (s.queuedFor ref 0x0801 = true) && (
     let d := ftDiff ft s.ft
     decide (l.any (fun o => s.outSafe o || (s.fieldOut o).timed.isSome) = false ∧ 20000 ≤ d ∧ d ≤ 2000000000 ∧ mask ≠ 0)) : Bool) = true ∧
    (-- clause 3, fioOutAtApply
     let die : Fin 2 := 0
     let s₀ : State := (State.reset).modSupply 0 (fun g => { g with level := 0 })
     let s := s₀
     decide (s.dieOff die.val = false ∧ (s.die die.val).lost = false) : Bool) = true ∧
    (-- clause 4, outputCurrentLimit
     let out : Fin 32 := 0
     let o := out.val
     let s : State := (State.reset).modOut 0 (fun f => { f with state := .on })
     decide ((s.fieldOut o).state = .on) : Bool) = true ∧
    (-- clause 5, outputLimitEnd
     let out : Fin 32 := 0
     let s : State := (State.reset).modOut 0 (fun f => { f with state := .limit })
     decide ((s.fieldOut out.val).state = .limit) : Bool) = true ∧
    (-- clause 8, outputCooled
     let out : Fin 32 := 0
     let o := out.val
     let s : State := (State.reset).modOut 0 (fun f => { f with state := .cooling, retryMax := 1, retries := 1 })
     let f := s.fieldOut o
     decide (f.state = .cooling ∧ f.retryMax ≠ 0 ∧ f.retryMax ≤ f.retries) : Bool) = true ∧
    (-- clause 9, outputCooled
     let out : Fin 32 := 0
     let o := out.val
     let s : State := (State.reset).modOut 0 (fun f => { f with state := .cooling })
     let f := s.fieldOut o
     decide (f.state = .cooling ∧ (¬ (f.retryMax ≠ 0 ∧ f.retryMax ≤ f.retries))) : Bool) = true ∧
    (-- clause 10, outputRetryReset
     let out : Fin 32 := 0
     let s : State := { ({ State.reset with tick := 10 ^ 12 }).modOut 0 (fun f => { f with state := .on }) with tick := 10 ^ 12 }
     let f := s.fieldOut out.val
     decide (f.state = .on ∧ s.passed f.onTick (msTicks 1000) = true) : Bool) = true :=
  by and_intros <;> decide +kernel

/-- States and operands that meet the premises of FabricPortActs, clause by clause. -/
theorem witness_FabricPortActs :
    (-- clause 1, fabPort
     let ref : CmdRef := wref
     let port : Byte := 0
     let action : Byte := 0
     let p := port.toNat
     let s : State := wq 0x0901 (State.reset)
     decide (s.queuedFor ref 0x0901 = true) && (
     let f := s.getFabPort p
     let inMask := bitOf (s.par epModule P.fabPortMask) p
     decide (p ≤ 3 ∧ action.toNat ≤ 3 ∧ (¬ (action == 0 && f.disabled)) ∧ (¬ (action == 1 && (!f.disabled || !inMask))) ∧
         (¬ (action == 2 && f.state != .bench)) ∧ (¬ (action == 3 && !s.fabEnabled p)) ∧ action.toNat = 0)) : Bool) = true ∧
    (-- clause 2, portTrainingStart
     let port : Fin 4 := 0
     let s : State := { State.reset with tick := 10 ^ 12 }
     decide (s.passed s.fabric.d6Tick (msTicks (2 * port.val)) = true) : Bool) = true ∧
    (-- clause 3, portCalDone
     let port : Fin 4 := 0
     let s : State := (State.reset).modFabPort port.val (fun e => { e with state := .cal })
     decide ((s.getFabPort port.val).state = .cal) : Bool) = true ∧
    (-- clause 4, blockLock
     let port : Fin 4 := 0
     let s : State := (State.reset).modFabPort port.val (fun e => { e with state := .train })
     decide ((s.getFabPort port.val).training = true) : Bool) = true ∧
    (-- clause 5, trainBlockRx
     let port : Fin 4 := 0
     let b6 : Byte := 0
     let p := port.val
     let s : State := (((State.reset).modFabPort port.val (fun e => { e with state := .up })).modFabPort port.val (fun e =>
         { e with state := .train })).modFabPort port.val (fun e => { e with locked := true })
     let f := s.getFabPort p
     decide (f.linked = false ∧ f.training = true ∧ f.locked = true ∧ b6 ≠ 1) : Bool) = true ∧
    (-- clause 6, trainTimeout
     let port : Fin 4 := 0
     let s : State := { (State.reset).modFabPort port.val (fun e => { e with state := .train }) with tick := 10 ^ 12 }
     let f := s.getFabPort port.val
     decide (f.training = true ∧ s.expired f.since trnTicks = true) : Bool) = true ∧
    (-- clause 7, portRetry
     let port : Fin 4 := 0
     let s : State := { (State.reset).modFabPort port.val (fun e => { e with retryFrom := (some 0) }) with tick := 10 ^ 12 }
     (match (s.getFabPort port.val).retryFrom with
     | some t =>
       decide (s.passed t (msTicks 20) = true)
     | _ => false) : Bool) = true ∧
    (-- clause 8, benchEnd
     let port : Fin 4 := 0
     let s : State := { ((State.reset).modFabPort port.val (fun e => { e with state := .bench })).modFabPort port.val (fun e => { e with benchFrom := (some 0) }) with tick := 10 ^ 12 }
     let f := s.getFabPort port.val
     decide (f.state = .bench) && (
     (match f.benchFrom with
     | some t =>
       decide (s.expired t (msTicks 100) = true)
     | _ => false)) : Bool) = true ∧
    (-- clause 9, delayReqSend
     let port : Fin 4 := 0
     let p := port.val
     let s₀ : State := { (State.reset).modFabPort 0 (fun f => { f with state := .up }) with tick := 10 ^ 12 }
     let s := s₀
     decide ((s.getFabPort p).exchangeDue s.tick = true) : Bool) = true ∧
    (-- clause 10, delayReqRx
     let port : Fin 4 := 0
     let p := port.val
     let s : State := (State.reset).modFabPort port.val (fun e => { e with state := .up })
     decide ((s.getFabPort p).measures = true) : Bool) = true ∧
    (-- clause 11, delayRespRx
     let port : Fin 4 := 0
     let n : BitVec 16 := 0
     let rx : TdcEdge := {}
     let p := port.val
     let s₀ : State := (State.reset).modFabPort 0 (fun f => { f with state := .up, exchange := some (0, 0) })
     let s := s₀
     let st := s.stampEdge (.fabRx port) rx
     let s := s.putStamp (.fabRx port) st
     let f := s.getFabPort p
     (match f.exchange with
     | some (m, t1) =>
       decide (m = n.toNat ∧ f.measures = true) && (
       let f := { f with exchange := none, delayTick := s.tick }
       decide (f.linked = true))
     | _ => false) : Bool) = true ∧
    (-- clause 12, delayExchangeFail
     let port : Fin 4 := 0
     let s : State := { State.reset with tick := 10 ^ 12 }
     decide (s.expired (s.getFabPort port.val).delayTick (msTicks 16) = true) : Bool) = true ∧
    (-- clause 13, fabPort
     let ref : CmdRef := wref
     let port : Byte := 0
     let action : Byte := 1
     let p := port.toNat
     let s : State := wq 0x0901 (((State.reset).modFabPort 0 (fun f => { f with disabled := true })).setPar 0x1F00
         P.fabPortMask 0 15)
     decide (s.queuedFor ref 0x0901 = true) && (
     let f := s.getFabPort p
     let inMask := bitOf (s.par epModule P.fabPortMask) p
     decide (p ≤ 3 ∧ action.toNat ≤ 3 ∧ (¬ (action == 0 && f.disabled)) ∧ (¬ (action == 1 && (!f.disabled || !inMask))) ∧
         (¬ (action == 2 && f.state != .bench)) ∧ (¬ (action == 3 && !s.fabEnabled p)) ∧ action.toNat = 1)) : Bool) = true ∧
    (-- clause 14, trainBlockRx
     let port : Fin 4 := 0
     let seen : Bool := false
     let half : Fin 2 := 0
     let uid : BitVec 32 := 0
     let b6 : Byte := 1
     let p := port.val
     let s : State := ((((State.reset).modFabPort port.val (fun e => { e with state := .up })).modFabPort port.val (fun e =>
         { e with state := .train })).modFabPort port.val (fun e => { e with locked := true })).modFabPort 0 (fun f =>
         { f with state := .train, locked := true, halves := (16, 16), seen := (true, true) })
     let f := s.getFabPort p
     decide (f.linked = false ∧ f.training = true ∧ f.locked = true ∧ b6 = 1) && (
     let old : BitVec 32 := if half.val = 0 then f.neigh.truncate 32 else (f.neigh >>> 32).truncate 32
     let h := if old == uid || (if half.val = 0 then f.halves.1 == 0 else f.halves.2 == 0) then f.halves else (0, 0)
     let h := if half.val = 0 then (h.1 + 1, h.2) else (h.1, h.2 + 1)
     let ownSeen := f.seen.1 || (decide (16 ≤ h.1 + h.2) && decide (0 < h.1) && decide (0 < h.2))
     let theirs := f.seen.2 || seen
     decide (ownSeen = true ∧ theirs = true)) : Bool) = true ∧
    (-- clause 15, trainBlockRx
     let port : Fin 4 := 0
     let seen : Bool := false
     let half : Fin 2 := 0
     let uid : BitVec 32 := 0
     let b6 : Byte := 1
     let p := port.val
     let s : State := (((State.reset).modFabPort port.val (fun e => { e with state := .up })).modFabPort port.val (fun e =>
         { e with state := .train })).modFabPort port.val (fun e => { e with locked := true })
     let f := s.getFabPort p
     decide (f.linked = false ∧ f.training = true ∧ f.locked = true ∧ b6 = 1) && (
     let old : BitVec 32 := if half.val = 0 then f.neigh.truncate 32 else (f.neigh >>> 32).truncate 32
     let h := if old == uid || (if half.val = 0 then f.halves.1 == 0 else f.halves.2 == 0) then f.halves else (0, 0)
     let h := if half.val = 0 then (h.1 + 1, h.2) else (h.1, h.2 + 1)
     let ownSeen := f.seen.1 || (decide (16 ≤ h.1 + h.2) && decide (0 < h.1) && decide (0 < h.2))
     let theirs := f.seen.2 || seen
     decide (¬ (ownSeen && theirs))) : Bool) = true ∧
    (-- clause 16, delayRespRx
     let port : Fin 4 := 0
     let n : BitVec 16 := 0
     let t2 : Ft16 := 0
     let t3 : Ft16 := 0
     let rx : TdcEdge := {}
     let p := port.val
     let s₀ : State := (State.reset).modFabPort 0 (fun f =>
         { f with state := .measure, exchange := some (0, 0), delays := (List.range 63).map (fun k => (k : Int) * 2 ^ 40) })
     let s := s₀
     let st := s.stampEdge (.fabRx port) rx
     let t4 := ft16Of8 st
     let s := s.putStamp (.fabRx port) st
     let f := s.getFabPort p
     (match f.exchange with
     | some (m, t1) =>
       decide (m = n.toNat ∧ f.measures = true) && (
       let d : Int := (ft16Diff t4 t1 - ft16Diff t3 t2) / 2
       let f := { f with exchange := none, delayTick := s.tick }
       decide (f.linked = false) && (
       let l := d :: f.delays
       decide (64 ≤ l.length ∧ delaysBad l = true ∧ f.repeats = 0)))
     | _ => false) : Bool) = true :=
  by and_intros <;> decide +kernel

/-- States and operands that meet the premises of FabricBlockActs, clause by clause. -/
theorem witness_FabricBlockActs :
    (-- clause 2, blockLockLost
     let port : Fin 4 := 0
     let p := port.val
     let s : State := (State.reset).modFabPort port.val (fun e => { e with state := .up })
     decide ((s.getFabPort p).linked = true) : Bool) = true ∧
    (-- clause 3, invalidSyncHeader
     let port : Fin 4 := 0
     let p := port.val
     let s₀ : State := (State.reset).modFabPort 0 (fun f => { f with state := .up, badHeaders := List.replicate 15 0 })
     let s := s₀
     let s := s.bump (epFab p) C.fabRxBlockErr
     let l := (s.tick :: (s.getFabPort p).badHeaders).take 16
     let s := s.modFabPort p (fun f => { f with badHeaders := l })
     decide (l.length = 16 ∧ (s.tick : Rat) - (l.getLast?.getD 0 : Rat) ≤ usTicks 125) : Bool) = true ∧
    (-- clause 4, invalidSyncHeader
     let port : Fin 4 := 0
     let p := port.val
     let s₀ : State := State.reset
     let s := s₀
     let s := s.bump (epFab p) C.fabRxBlockErr
     let l := (s.tick :: (s.getFabPort p).badHeaders).take 16
     let s := s.modFabPort p (fun f => { f with badHeaders := l })
     decide (¬ (l.length = 16 ∧ (s.tick : Rat) - (l.getLast?.getD 0 : Rat) ≤ usTicks 125)) : Bool) = true ∧
    (-- clause 5, controlBlockTimeout
     let port : Fin 4 := 0
     let s : State := { State.reset with tick := 10 ^ 12 }
     decide (s.expired (s.getFabPort port.val).ctrlTick (usTicks 2) = true) : Bool) = true ∧
    (-- clause 6, fragBlockRx
     let port : Fin 4 := 0
     let frag : Frag := { sof := true }
     let p := port.val
     let vc := frag.vc.val
     let st := frag.stream.val
     let n := frag.blocks
     let s₀ : State := (State.reset).modFabPort port.val (fun e => { e with state := .up })
     let s := s₀
     decide ((s.getFabPort p).measures = true) && (
     let s := (s.controlTaken p).flush
     let held := ((s.getFabPort p).vc vc).held
     let s := s.modFabPort p (fun f => f.modVc vc (fun c => { c with held := c.held + n }))
     let cur := (((s.getFabPort p).vc vc).rx.find? (fun x => x.1 == st)).map (·.2)
     let a := s.takeFreed p frag.creditVc.val frag.freed
     decide (a.2 = true) && (
     decide (held + n ≤ vcBlocks vc ∧ cur = none ∧ frag.sof = true))) : Bool) = true ∧
    (-- clause 7, abortBlockRx
     let port : Fin 4 := 0
     let vc : Fin 4 := 0
     let stream : Fin 8 := 0
     let p := port.val
     let s₀ : State := (State.reset).setRx 0 0 0 (some { bytes := [0] })
     let s := s₀
     let s := (s.controlTaken p).flush
     (match ((s.getFabPort p).vc vc.val).rx.find? (fun x => x.1 == stream.val) with
     | some (u₁, r) =>
       decide (r.bytes.isEmpty = false)
     | _ => false) : Bool) = true ∧
    (-- clause 8, idleBlockRx
     let port : Fin 4 := 0
     let p := port.val
     let s₀ : State := (State.reset).modFabPort port.val (fun e => { e with state := .up })
     let s := s₀
     decide ((s.getFabPort p).measures = true) : Bool) = true ∧
    (-- clause 9, resyncBlockRx
     let port : Fin 4 := 0
     let p := port.val
     let s₀ : State := (State.reset).modFabPort port.val (fun e => { e with state := .up })
     let s := s₀
     decide ((s.getFabPort p).measures = true) : Bool) = true ∧
    (-- clause 10, rmarkBlockRx
     let port : Fin 4 := 0
     let p := port.val
     let s₀ : State := (State.reset).modFabPort port.val (fun e => { e with state := .up })
     let s := s₀
     decide ((s.getFabPort p).measures = true) : Bool) = true ∧
    (-- clause 11, controlBlockCrcError
     let port : Fin 4 := 0
     let p := port.val
     let s₀ : State := (State.reset).modFabPort port.val (fun e => { e with state := .up })
     let s := s₀
     decide ((s.getFabPort p).measures = true) : Bool) = true :=
  by and_intros <;> decide +kernel

/-- States and operands that meet the premises of FabricGenerationActs, clause by clause. -/
theorem witness_FabricGenerationActs :
    (-- clause 1, discoverSend
     let port : Fin 4 := 0
     let p := port.val
     let s₀ : State := (State.reset).modFabPort 0 (fun f => { f with state := .up })
     let s := s₀
     decide (s.discoverDue p = true) : Bool) = true ∧
    (-- clause 2, discoverRx
     let port : Fin 4 := 0
     let p := port.val
     let s₀ : State := (State.reset).modFabPort port.val (fun e => { e with state := .up })
     let s := s₀
     decide ((s.getFabPort p).linked = true) : Bool) = true ∧
    (-- clause 3, discoverExpiry
     let port : Fin 4 := 0
     let p := port.val
     let s : State := { (State.reset).modFabPort port.val (fun e => { e with disc := (some ({}, 0)) }) with tick := 10 ^ 12 }
     (match (s.getFabPort p).disc with
     | some (u₁, t) =>
       decide (s.expired t (msTicks 10) = true)
     | _ => false) : Bool) = true ∧
    (-- clause 8, assignRx
     let port : Fin 4 := 0
     let s₀ : State := (State.reset).modFabPort port.val (fun e => { e with state := .up })
     let s := s₀
     decide ((s.getFabPort port.val).linked = true) : Bool) = true ∧
    (-- clause 9, tableRx
     let port : Fin 4 := 0
     let s : State := (State.reset).modFabPort port.val (fun e => { e with state := .up })
     decide ((s.getFabPort port.val).linked = true ∧ s.fabric.state ≠ .refused) : Bool) = true ∧
    (-- clause 10, tableApply
     let s : State := ((State.reset).modFabric (fun e => { e with incoming := (some { apply := some 0 }) })).modFabric (fun f
         => { f with state := .member })
     (match s.fabric.incoming with
     | some t =>
       (match t.apply with
       | some a =>
         decide (ftLater a s.ft = false ∧ s.fabric.state ≠ .refused)
       | _ => false)
     | _ => false) : Bool) = true ∧
    (-- clause 11, soloTimeout
     let s₀ : State := ({ (State.reset).modFabric (fun e => { e with state := .counting }) with tick := 10 ^ 12 }).modPower
         (fun p => { p with domains := 0xFF })
     let s := s₀
     decide (s.fabric.state = .counting ∧ s.d6On = true ∧ s.passed s.fabric.d6Tick (msTicks (s.parF epModule P.fabSoloWait))
         = true ∧ (List.range 4).all (fun p => (s.getFabPort p).state != .up) = true) : Bool) = true :=
  by and_intros <;> decide +kernel

/-- States and operands that meet the premises of FabricTrafficActs, clause by clause. -/
theorem witness_FabricTrafficActs :
    (-- clause 1, fabPrefer
     let ref : CmdRef := wref
     let dev : BitVec 16 := 1
     let s : State := wq 0x0900 (State.reset)
     decide (s.queuedFor ref 0x0900 = true ∧ dev ≠ 0 ∧ dev.toNat ≤ 0xFFF) : Bool) = true ∧
    (-- clause 2, fabTopology
     let ref : CmdRef := wref
     let s : State := wq 0x0902 (State.reset)
     decide (s.queuedFor ref 0x0902 = true) : Bool) = true ∧
    (-- clause 3, linkDownFrameRx
     let port : Fin 4 := 0
     let uid : BitVec 64 := 0
     let lostPort : Fin 4 := 0
     let s₀ : State := (State.reset).modFabPort port.val (fun e => { e with state := .up })
     let s := s₀
     let f := s.fabric
     decide ((s.getFabPort port.val).linked = true ∧ f.downs.any (fun x => x.1 == uid && x.2.1 == lostPort.val) = false) : Bool) = true ∧
    (-- clause 4, repairApply
     let lostUid : BitVec 64 := 0
     let lostPort : Fin 5 := 0
     let s : State := ((State.reset).modFabric (fun e => { e with state := .member })).modFabric (fun f =>
         { f with state := .member, shares := [{}], downs := [(0, 0, 0)], repair := false })
     let f := s.fabric
     (match f.shares.find? (fun x => x.lostUid == lostUid && x.lostPort == lostPort.val) with
     | some sh =>
       decide (f.state = .member ∧ f.reportedLoss sh = true)
     | _ => false) : Bool) = true ∧
    (-- clause 5, timeFrameSend
     let port : Fin 4 := 0
     let p := port.val
     let s : State := (State.reset).modFabPort port.val (fun e => { e with state := .up })
     decide ((s.getFabPort p).linked = true ∧ timeFrameDue s.ft p = true) : Bool) = true ∧
    (-- clause 6, timeFrameRx
     let port : Fin 4 := 0
     let rx : TdcEdge := {}
     let p := port.val
     let s₀ : State := (State.reset).modFabPort 0 (fun f => { f with state := .up, foreign := true })
     let s := s₀
     let st := s.stampEdge (.fabRx port) rx
     let s := s.putStamp (.fabRx port) st
     let f := s.getFabPort p
     decide (f.linked = true ∧ f.foreign = true) : Bool) = true ∧
    (-- clause 9, bulkTimeout
     let src : Fin 4096 := 0
     let ident : BitVec 16 := 0
     let this (x : Nat × Nat × List Byte × Option Nat) : Bool := x.1 == src.val && x.2.1 == ident.toNat
     let s₀ : State := { ({ State.reset with tick := 10 ^ 12 }).modFabric (fun f => { f with bulk := [(0, 0, [], some 0)] }) with tick := 10 ^ 12 }
     let s := s₀
     (match s.fabric.bulk.find? this with
     | some (u₁, u₂, u₃, some t) =>
       decide (s.expired t (msTicks (s.parF epModule P.remoteTimeout)) = true)
     | _ => false) : Bool) = true ∧
    (-- clause 11, timeFrameRx
     let port : Fin 4 := 0
     let rx : TdcEdge := {}
     let p := port.val
     let s₀ : State := ((State.reset).modFabPort 0 (fun f => { f with state := .up })).modFabric (fun f =>
         { f with parent := 0 })
     let s := s₀
     let st := s.stampEdge (.fabRx port) rx
     let s := s.putStamp (.fabRx port) st
     let f := s.getFabPort p
     decide (f.linked = true ∧ f.foreign = false ∧ p = s.fabric.parent ∧ s.leads = false) : Bool) = true ∧
    (-- clause 12, timeFrameRx
     let port : Fin 4 := 0
     let rx : TdcEdge := {}
     let p := port.val
     let s₀ : State := (State.reset).modFabPort 0 (fun f => { f with state := .up })
     let s := s₀
     let st := s.stampEdge (.fabRx port) rx
     let s := s.putStamp (.fabRx port) st
     let f := s.getFabPort p
     decide (f.linked = true ∧ f.foreign = false ∧ (¬ (p = s.fabric.parent && !s.leads))) : Bool) = true :=
  by and_intros <;> decide +kernel

/-- States and operands that meet the premises of EthernetActs, clause by clause. -/
theorem witness_EthernetActs :
    (-- clause 1, ethFrameInvalid
     let bad : EthBad := .fcs
     decide (bad = .fcs) : Bool) = true ∧
    (-- clause 3, arpRequestRx
     let port : Fin 2 := 0
     let target : BitVec 32 := 0
     let p := port.val
     let s₀ : State := State.reset
     let s := s₀
     let s := s.ethRx p
     decide (target.toNat = s.par (epEth p) P.netIp) : Bool) = true ∧
    (-- clause 5, icmpEchoRx
     let port : Fin 2 := 0
     let p := port.val
     let s₀ : State := State.reset
     let s := s₀
     let s := s.ethRx p
     let i := (s.getEth p).icmp
     let i := if i.1 + 64000000 ≤ s.tick ∨ i.2 = 0 then (s.tick, 0) else i
     decide (i.2 < 100) : Bool) = true ∧
    (-- clause 11, safeFrameTx
     let conn : Fin 64 := 0
     let bytes : List Byte := []
     let f := (conn.val, bytes)
     let s : State := (State.reset).modSafety (fun q => { q with outbox := [(0, [])] })
     decide (f ∈ s.safety.outbox) : Bool) = true ∧
    (-- clause 12, relayRx
     let returned : Bool := false
     decide (returned = false) : Bool) = true ∧
    (-- clause 13, relayDatagramRx
     let port : Fin 2 := 0
     let addr : BitVec 32 := 0
     let udp : BitVec 16 := 0
     let s₀ : State := (State.reset).modFabric (fun f => { f with relays := [{}] })
     let s := s₀
     let s := s.ethRx port.val
     (match s.fabric.relays.find? (fun r => r.port == port.val && r.addr == addr && r.udp == udp &&
         !s.expired r.tick (msTicks 1000)) with
     | some r =>
       true
     | _ => false) : Bool) = true ∧
    (-- clause 14, ethFrameTx
     let port : Fin 2 := 0
     let p := port.val
     let s₀ : State := ((State.reset).modEth port.val (fun e => { e with linkUp := true })).modEth 0 (fun e =>
         { e with linkUp := true, queues := [(0, [{ msg := .session 0 [], len := 64, target := none }])] })
     let s := s₀
     decide ((s.getEth p).linkUp = true) && (
     let s := s.fillSession p
     let s := (List.range 8).foldl (fun s q => (s.dropLate p q).dropOversize p q) s
     (match s.nextQueue p with
     | some q =>
       (match (s.getEth p).queue q with
       | f :: u₁ =>
         true
       | _ => false)
     | _ => false)) : Bool) = true ∧
    (-- clause 15, ethScheduledEnqueue
     let port : Fin 2 := 0
     let na : Fin 128 := 0
     let p := port.val
     let i := na.val
     let s₀ : State := ((State.reset).modRemote na.val (fun e => { e with frame := (some (.remote 0 0 0 0 0 0 0)) })).setPar
         (epRemote na.val) P.remTransport 0 port.val
     let s := s₀
     (match (s.getRemote i).frame with
     | some m =>
       decide (s.par (epRemote i) P.remTransport = p) && (
       (match m with
       | .remote u₁ u₂ u₃ t u₄ u₅ u₆ =>
         true
       | _ => false))
     | _ => false) : Bool) = true ∧
    (-- clause 18, qbvConfigChange
     let port : Fin 2 := 0
     let p := port.val
     let s₀ : State := (State.reset).modEth port.val (fun e => { e with qbvPending := (some (0, true)) })
     let s := s₀
     (match (s.getEth p).qbvPending with
     | some (t, en) =>
       decide (t ≤ s.xt16)
     | _ => false) : Bool) = true ∧
    (-- clause 19, ethFrameInvalid
     let bad : EthBad := .fragments
     decide (bad = .fragments) : Bool) = true :=
  by and_intros <;> decide +kernel

/-- States and operands that meet the premises of PtpActs, clause by clause. -/
theorem witness_PtpActs :
    (-- clause 1, ptpSyncRx
     let port : Fin 2 := 0
     let h : PtpHeader := {}
     let twoStep : Bool := true
     let rx : TdcEdge := {}
     let p := port.val
     let s₀ : State := State.reset
     let s := s₀
     let st := s.stampEdge (.ethRx port) rx
     let s := (s.putStamp (.ethRx port) st).ethRx p
     decide (s.par (epEth p) P.ptpProfile ≠ 0 ∧ h.wellFormed = true ∧ h.major = 2 ∧ h.domain = s.par (epEth p) P.ptpDomain ∧
         s.fromMaster p h = true ∧ twoStep = true) : Bool) = true ∧
    (-- clause 2, ptpFollowUpRx
     let port : Fin 2 := 0
     let h : PtpHeader := {}
     let p := port.val
     let s₀ : State := (State.reset).modPtp 0 (fun q => { q with syncWait := some (0, 0, 0) })
     let s := s₀
     let s := s.ethRx p
     decide (s.par (epEth p) P.ptpProfile ≠ 0 ∧ h.wellFormed = true ∧ h.major = 2 ∧ h.domain = s.par (epEth p) P.ptpDomain ∧
         s.fromMaster p h = true) && (
     (match (s.ptp p).syncWait with
     | some (q, c, rx) =>
       decide (q = h.seq)
     | _ => false)) : Bool) = true ∧
    (-- clause 3, ptpPdelayReqRx
     let port : Fin 2 := 0
     let h : PtpHeader := {}
     let rx : TdcEdge := {}
     let p := port.val
     let s₀ : State := State.reset
     let s := s₀
     let st := s.stampEdge (.ethRx port) rx
     let s := (s.putStamp (.ethRx port) st).ethRx p
     decide (s.par (epEth p) P.ptpProfile ≠ 0 ∧ h.wellFormed = true ∧ h.major = 2 ∧ h.domain = s.par (epEth p) P.ptpDomain ∧
         s.par (epEth p) P.ptpProfile = 1) : Bool) = true ∧
    (-- clause 4, ptpPdelayRespRx
     let port : Fin 2 := 0
     let h : PtpHeader := {}
     let twoStep : Bool := true
     let rx : TdcEdge := {}
     let p := port.val
     let s₀ : State := (State.reset).modPtp 0 (fun q => { q with req := some (0, 0) })
     let s := s₀
     let st := s.stampEdge (.ethRx port) rx
     let s := (s.putStamp (.ethRx port) st).ethRx p
     decide (s.par (epEth p) P.ptpProfile ≠ 0 ∧ h.wellFormed = true ∧ h.major = 2 ∧ h.domain = s.par (epEth p) P.ptpDomain ∧
         s.par (epEth p) P.ptpProfile = 1) && (
     (match (s.ptp p).req with
     | some (q, t1) =>
       decide (q = h.seq ∧ twoStep = true)
     | _ => false)) : Bool) = true ∧
    (-- clause 5, ptpPdelayRespFollowUpRx
     let port : Fin 2 := 0
     let h : PtpHeader := {}
     let p := port.val
     let s₀ : State := (State.reset).modPtp 0 (fun q => { q with req := some (0, 0), respWait := some (0, 0, 0) })
     let s := s₀
     let s := s.ethRx p
     decide (s.par (epEth p) P.ptpProfile ≠ 0 ∧ h.wellFormed = true ∧ h.major = 2 ∧ h.domain = s.par (epEth p) P.ptpDomain ∧
         s.par (epEth p) P.ptpProfile = 1) && (
     (match (s.ptp p).req with
     | some (q, t1) =>
       (match (s.ptp p).respWait with
       | some (t2, c, t4) =>
         decide (q = h.seq)
       | _ => false)
     | _ => false)) : Bool) = true ∧
    (-- clause 6, ptpDelayRespRx
     let port : Fin 2 := 0
     let h : PtpHeader := {}
     let p := port.val
     let s₀ : State := ((State.reset).modPtp 0 (fun q => { q with req := some (0, 0), lastSync := some (0, 0) })).setPar
         0xA10 P.ptpProfile 0 2
     let s := s₀
     let s := s.ethRx p
     decide (s.par (epEth p) P.ptpProfile ≠ 0 ∧ h.wellFormed = true ∧ h.major = 2 ∧ h.domain = s.par (epEth p) P.ptpDomain ∧
         s.par (epEth p) P.ptpProfile = 2) && (
     (match (s.ptp p).req with
     | some (q, t3) =>
       (match (s.ptp p).lastSync with
       | some (origin, rx) =>
         decide (q = h.seq)
       | _ => false)
     | _ => false)) : Bool) = true ∧
    (-- clause 7, ptpAnnounceRx
     let port : Fin 2 := 0
     let h : PtpHeader := {}
     let p := port.val
     let s₀ : State := State.reset
     let s := s₀
     let s := s.ethRx p
     decide (s.par (epEth p) P.ptpProfile ≠ 0 ∧ h.wellFormed = true ∧ h.major = 2 ∧ h.domain = s.par (epEth p) P.ptpDomain ∧
         s.par (epEth p) P.ptpSourceEnable ≠ 0) && (
     let q := s.ptp p
     decide (q.master = none ∧ q.master = none)) : Bool) = true ∧
    (-- clause 8, ptpIgnoredRx
     let bad : Bool := false
     decide (bad = false) : Bool) = true ∧
    (-- clause 9, ptpAnnounceTimeout
     let port : Fin 2 := 0
     let p := port.val
     let s : State := ({ State.reset with tick := 10 ^ 12 }).modPtp 0 (fun q => { q with master := some {} })
     (match (s.ptp p).master with
     | some a =>
       decide (s.expired (s.ptp p).annTick (s.announceTicks p a) = true)
     | _ => false) : Bool) = true ∧
    (-- clause 10, ptpDelayReqSend
     let port : Fin 2 := 0
     let p := port.val
     let s₀ : State := ((State.reset).setPar (epEth port.val) P.ptpProfile 0 1).modEth port.val (fun e =>
         { e with linkUp := true })
     let s := s₀
     let prof := s.par (epEth p) P.ptpProfile
     decide (prof ≠ 0 ∧ (s.getEth p).linkUp = true ∧ s.ptpReqDue p = true) : Bool) = true ∧
    (-- clause 11, ptpSyncRx
     let port : Fin 2 := 0
     let h : PtpHeader := {}
     let twoStep : Bool := false
     let rx : TdcEdge := {}
     let p := port.val
     let s₀ : State := State.reset
     let s := s₀
     let st := s.stampEdge (.ethRx port) rx
     let s := (s.putStamp (.ethRx port) st).ethRx p
     decide (s.par (epEth p) P.ptpProfile ≠ 0 ∧ h.wellFormed = true ∧ h.major = 2 ∧ h.domain = s.par (epEth p) P.ptpDomain ∧
         s.fromMaster p h = true ∧ twoStep = false) : Bool) = true ∧
    (-- clause 12, ptpPdelayRespRx
     let port : Fin 2 := 0
     let h : PtpHeader := {}
     let twoStep : Bool := false
     let rx : TdcEdge := {}
     let p := port.val
     let s₀ : State := (State.reset).modPtp 0 (fun q => { q with req := some (0, 0) })
     let s := s₀
     let st := s.stampEdge (.ethRx port) rx
     let s := (s.putStamp (.ethRx port) st).ethRx p
     decide (s.par (epEth p) P.ptpProfile ≠ 0 ∧ h.wellFormed = true ∧ h.major = 2 ∧ h.domain = s.par (epEth p) P.ptpDomain ∧
         s.par (epEth p) P.ptpProfile = 1) && (
     (match (s.ptp p).req with
     | some (q, t1) =>
       decide (q = h.seq ∧ twoStep = false)
     | _ => false)) : Bool) = true ∧
    (-- clause 13, ptpIgnoredRx
     let bad : Bool := true
     decide (bad = true) : Bool) = true :=
  by and_intros <;> decide +kernel

/-- States and operands that meet the premises of SafetyIslandActs, clause by clause. -/
theorem witness_SafetyIslandActs :
    (-- clause 1, safConfigLoad
     let ref : CmdRef := wref
     let image : List Byte := safImage
     let s₀ : State := wq 0x0B00 ((State.reset).modSafety (fun q => { q with state := .unconfirmed }))
     let s := s₀
     decide (s.queuedFor ref 0x0B00 = true) && (
     (match parseSaf image with
     | some c =>
       let st := s.safety.state
       decide (s.safChannelOn = false ∧ st == .run || st == .unconfirmed)
     | _ => false)) : Bool) = true ∧
    (-- clause 2, safConfigRead
     let ref : CmdRef := wref
     let s : State := wq 0x0B01 (State.reset)
     decide (s.queuedFor ref 0x0B01 = true) : Bool) = true ∧
    (-- clause 3, safCommission
     let ref : CmdRef := wref
     let value : BitVec 32 := BitVec.ofNat 32 (crc32 safImage)
     let s₀ : State := wq 0x0B10 ((State.reset).modSafety (fun q =>
         { q with state := .unconfirmed, config := { image := safImage } }))
     let s := s₀
     decide (s.queuedFor ref 0x0B10 = true) && (
     let check := crc32 s.safety.config.image
     let st := s.safety.state
     decide (st == .unconfirmed || st == .run ∧ s.safety.config.image.isEmpty = false ∧ value.toNat = check)) : Bool) = true ∧
    (-- clause 4, safCommission
     let ref : CmdRef := wref
     let value : BitVec 32 := BitVec.ofNat 32 (crc32 safImage) + 1
     let s : State := wq 0x0B10 ((State.reset).modSafety (fun q =>
         { q with state := .unconfirmed, config := { image := safImage } }))
     decide (s.queuedFor ref 0x0B10 = true) && (
     let check := crc32 s.safety.config.image
     let st := s.safety.state
     decide (st == .unconfirmed || st == .run ∧ s.safety.config.image.isEmpty = false ∧ value.toNat ≠ check)) : Bool) = true ∧
    (-- clause 5, safAck
     let ref : CmdRef := wref
     let s : State := wq 0x0B11 (State.reset)
     decide (s.queuedFor ref 0x0B11 = true ∧ s.safety.state ≠ .halted) : Bool) = true ∧
    (-- clause 7, safetySelftestDone
     let s : State := (State.reset).modSafety (fun e => { e with state := .start })
     decide (s.safety.state = .start) : Bool) = true ∧
    (-- clause 8, safetyConfigDelivery
     let s₀ : State := ((State.reset).modSafety (fun e => { e with state := .waitConfig })).modSafety (fun q =>
         { q with state := .waitConfig, stored := safImage, confirmed := some (BitVec.ofNat 32 (crc32 safImage)) })
     let s := s₀
     decide (s.safety.state = .waitConfig) && (
     let check := crc32 s.safety.stored
     (match parseSaf s.safety.stored with
     | some c =>
       let s := s.useConfig c
       decide (s.safety.confirmed = some (BitVec.ofNat 32 check))
     | _ => false)) : Bool) = true ∧
    (-- clause 10, safetyPeriodicSelftest
     let passed : Bool := false
     decide (passed = false) : Bool) = true ∧
    (-- clause 11, safetyPeriodicSelftest
     let passed : Bool := true
     decide (passed = true) : Bool) = true ∧
    (-- clause 12, safetyOscCheck
     let within : Bool := false
     decide (within = false) : Bool) = true ∧
    (-- clause 13, safetyOscCheck
     let within : Bool := true
     decide (within = true) : Bool) = true :=
  by and_intros <;> decide +kernel

/-- States and operands that meet the premises of SafetyChannelActs, clause by clause. -/
theorem witness_SafetyChannelActs :
    (-- clause 2, releaseTest
     let group : Fin 8 := 0
     let r : ReleaseReadings := { open_ := { hs := true } }
     let g := group.val
     let s : State := (State.reset).modSto 0 (fun q => { q with testing := true })
     decide ((s.sto g).testing = true) && (
     (match releaseFailure r with
     | some w =>
       true
     | _ => false)) : Bool) = true ∧
    (-- clause 3, releaseTest
     let group : Fin 8 := 0
     let r : ReleaseReadings := {}
     let g := group.val
     let s : State := (State.reset).modSto 0 (fun q => { q with testing := true })
     decide ((s.sto g).testing = true ∧ releaseFailure r = none) : Bool) = true ∧
    (-- clause 4, darkPulseTest
     let group : Fin 8 := 0
     let opened : Bool := true
     let closed : Bool := true
     let g := group.val
     let s₀ : State := { ({ State.reset with tick := 10 ^ 12 }).modSto 0 (fun q => { q with released := true }) with tick := 10 ^ 12 }
     let s := s₀
     let q := s.sto g
     decide (q.released = true ∧ q.lowDue = false ∧ s.passed q.darkTick (msTicks (60000 * (s.stoCfg g).2)) = true) && (
     decide (opened = true ∧ closed = true)) : Bool) = true ∧
    (-- clause 5, darkPulseTest
     let group : Fin 8 := 0
     let opened : Bool := false
     let closed : Bool := false
     let g := group.val
     let s₀ : State := { ({ State.reset with tick := 10 ^ 12 }).modSto 0 (fun q => { q with released := true }) with tick := 10 ^ 12 }
     let s := s₀
     let q := s.sto g
     decide (q.released = true ∧ q.lowDue = false ∧ s.passed q.darkTick (msTicks (60000 * (s.stoCfg g).2)) = true) && (
     decide (¬ (opened && closed))) : Bool) = true ∧
    (-- clause 6, darkPulseLowSide
     let group : Fin 8 := 0
     let opened : Bool := true
     let closed : Bool := true
     let g := group.val
     let s₀ : State := { ({ State.reset with tick := 10 ^ 12 }).modSto 0 (fun q => { q with released := true, lowDue := true }) with tick := 10 ^ 12 }
     let s := s₀
     let q := s.sto g
     decide (q.released = true ∧ q.lowDue = true ∧ s.passed q.darkTick (msTicks 100) = true) && (
     decide (opened = true ∧ closed = true)) : Bool) = true ∧
    (-- clause 8, safeInputTest
     let input : Fin 8 := 0
     let readsZero : Bool := true
     let i := input.val
     let s₀ : State := (State.reset).modSafety (fun q => { q with config := { inputs := [(0, (true, 0))] } })
     let s := s₀
     let c := s.safety.config
     decide ((mfind c.inputs i).any (·.1) = true) && (
     decide (readsZero = true)) : Bool) = true ∧
    (-- clause 9, safeInputTest
     let input : Fin 8 := 0
     let readsZero : Bool := false
     let i := input.val
     let s₀ : State := (State.reset).modSafety (fun q => { q with config := { inputs := [(0, (true, 0))] } })
     let s := s₀
     let c := s.safety.config
     decide ((mfind c.inputs i).any (·.1) = true) && (
     decide (readsZero = false)) : Bool) = true ∧
    (-- clause 10, safetyTapEdge
     let axis : Fin 32 := 0
     let s : State := (State.reset).modSafety (fun q => { q with config := { axes := [(0, { tap := 1 })] } })
     (match mfind s.safety.config.axes axis.val with
     | some c =>
       decide (c.tap = 1)
     | _ => false) : Bool) = true ∧
    (-- clause 11, safetyTapWord
     let axis : Fin 32 := 0
     let w : TapWord := .ssi []
     let s : State := (State.reset).modSafety (fun q => { q with config := { axes := [(0, { tap := 2 })] } })
     (match mfind s.safety.config.axes axis.val with
     | some c =>
       (match tapRead c w with
       | .position raw =>
         true
       | _ => false)
     | _ => false) : Bool) = true ∧
    (-- clause 12, brakeCurrentFault
     let channel : Fin 80 := 0
     let s : State := (State.reset).modSafety (fun q => { q with config := { brakes := [(0, 0)], assign := [(0, 1)] } })
     (match mfind s.safety.config.brakes channel.val with
     | some u₁ =>
       (match s.channelGroup channel.val with
       | some g =>
         true
       | _ => false)
     | _ => false) : Bool) = true :=
  by and_intros <;> decide +kernel

/-- States and operands that meet the premises of SafetyLinkActs, clause by clause. -/
theorem witness_SafetyLinkActs :
    (-- clause 1, safeFrameRx
     let bytes : List Byte := []
     let s : State := (State.reset).modSafety (fun q => { q with state := .run })
     let t := s.modSafety (fun q => { q with inbox := q.inbox.eraseP (fun f => f.2.1 == bytes) })
     decide (t.connsRun = true ∧ t.safety.config.conns.find? (fun e => !e.2.outbound && e.2.id == leField bytes 4 4) = none) : Bool) = true ∧
    (-- clause 2, safeFrameRx
     let bytes : List Byte := safeFrame
     let id := leField bytes 4 4
     let copy := bAt bytes 2
     let bad := bytes.length != 36 || leField bytes 0 2 != 1 || decide (1 < copy) || bAt bytes 3 != 0 ||
       crc32 (bytes.take 32) != leField bytes 32 4
     let seq := BitVec.ofNat 32 (leField bytes 8 4)
     let body := (bytes.take 32).drop 4
     let s₀ : State := ((State.reset).modSafety (fun q =>
         { q with state := .run, config := { conns := [(0, { id := 9 })] } })).modConn 0 (fun q =>
         { q with state := .waiting, held := [(1, 1, (safeFrame.take 32).drop 4, 0)] })
     let s := s₀
     let s := s.modSafety (fun q => { q with inbox := q.inbox.eraseP (fun f => f.2.1 == bytes) })
     let conn := s.safety.config.conns.find? (fun e => !e.2.outbound && e.2.id == id)
     decide (s.connsRun = true) && (
     (match conn with
     | some e =>
       decide (bad = false) && (
       let c := e.1
       let s := (s.connWindows c e.2).connWatch c e.2
       let q := mget s.safety.conns c {}
       let ahead := (seq - q.seq).toNat
       decide ((¬ (q.state != .waiting && !(decide (1 ≤ ahead) && decide (ahead ≤ 8)))) ∧ q.held.any (fun h => h.1 == copy &&
           h.2.1 == seq) = false) && (
       (match q.held.find? (fun h => h.2.1 == seq) with
       | some h =>
         decide (h.2.2.1 = body)
       | _ => false)))
     | _ => false)) : Bool) = true ∧
    (-- clause 3, safeFrameRx
     let bytes : List Byte := safeFrame
     let id := leField bytes 4 4
     let copy := bAt bytes 2
     let bad := bytes.length != 36 || leField bytes 0 2 != 1 || decide (1 < copy) || bAt bytes 3 != 0 ||
       crc32 (bytes.take 32) != leField bytes 32 4
     let seq := BitVec.ofNat 32 (leField bytes 8 4)
     let s₀ : State := ((State.reset).modSafety (fun q =>
         { q with state := .run, config := { conns := [(0, { id := 9 })] } })).modConn 0 (fun q => { q with state := .waiting })
     let s := s₀
     let s := s.modSafety (fun q => { q with inbox := q.inbox.eraseP (fun f => f.2.1 == bytes) })
     let conn := s.safety.config.conns.find? (fun e => !e.2.outbound && e.2.id == id)
     decide (s.connsRun = true) && (
     (match conn with
     | some e =>
       decide (bad = false) && (
       let c := e.1
       let s := (s.connWindows c e.2).connWatch c e.2
       let q := mget s.safety.conns c {}
       let ahead := (seq - q.seq).toNat
       decide ((¬ (q.state != .waiting && !(decide (1 ≤ ahead) && decide (ahead ≤ 8)))) ∧ q.held.any (fun h => h.1 == copy &&
           h.2.1 == seq) = false ∧ q.held.find? (fun h => h.2.1 == seq) = none))
     | _ => false)) : Bool) = true ∧
    (-- clause 4, safeWindowExpiry
     let conn : Fin 16 := 0
     let c := conn.val
     let s : State := { (((State.reset).modSafety (fun e => { e with state := .run })).modSafety (fun q => { q with state := .run, config := { conns := [(0, { id := 9 })] } })).modConn 0 (fun q => { q with held := [(0, 0, [], 0)] }) with tick := 10 ^ 12 }
     (match mfind s.safety.config.conns c with
     | some cfg =>
       decide (s.connsRun = true)
     | _ => false) : Bool) = true ∧
    (-- clause 5, safeWatchdogExpiry
     let conn : Fin 16 := 0
     let c := conn.val
     let s : State := { (((State.reset).modSafety (fun e => { e with state := .run })).modSafety (fun q => { q with state := .run, config := { conns := [(0, { id := 9 })] } })).modConn 0 (fun q => { q with state := .valid }) with tick := 10 ^ 12 }
     (match mfind s.safety.config.conns c with
     | some cfg =>
       decide (s.connsRun = true)
     | _ => false) : Bool) = true ∧
    (-- clause 6, safePairSend
     let conn : Fin 16 := 0
     let c := conn.val
     let s₀ : State := { (({ (State.reset).modSafety (fun e => { e with state := .run }) with tick := 10 ^ 12 }).modSafety (fun q => { q with state := .run, config := { conns := [(0, { id := 9 })] } })).modConn 0 (fun q => { q with state := .sending }) with tick := 10 ^ 12 }
     let s := s₀
     let q := mget s.safety.conns c {}
     (match mfind s.safety.config.conns c with
     | some cfg =>
       decide (s.connsRun = true ∧ q.state = .sending ∧ s.passed q.sendTick (msTicks cfg.period) = true)
     | _ => false) : Bool) = true ∧
    (-- clause 8, coreReportTimeout
     let s : State := { State.reset with tick := 10 ^ 12 }
     decide (s.expired s.safety.coreTick (msTicks 1) = true) : Bool) = true ∧
    (-- clause 9, safetyReportRx
     let group : Fin 8 := 0
     let cat : Fin 3 := 0
     let r := (group.val, cat.val)
     let s₀ : State := (State.reset).modSafety (fun q => { q with stopReqs := [(0, 0)] })
     let s := s₀
     decide (r ∈ s.safety.stopReqs) : Bool) = true :=
  by and_intros <;> decide +kernel

/-- States and operands that meet the premises of PowerStateActs, clause by clause. -/
theorem witness_PowerStateActs :
    (-- clause 1, pwrEnter
     let ref : CmdRef := wref
     let state : Byte := 0
     let n := state.toNat
     let s : State := wq 0x0C00 ((((State.reset).modPower (fun e => { e with change := none })).modPower (fun e =>
         { e with thermalStop := false })).modPower (fun p => { p with state := .stroll }))
     decide (s.queuedFor ref 0x0C00 = true ∧ n ≤ 4 ∧ s.power.change.isSome = false ∧ n ≠ s.power.state.code ∧ n = 0 ∧
         s.power.thermalStop = false) : Bool) = true ∧
    (-- clause 2, pwrEnter
     let ref : CmdRef := wref
     let state : Byte := 1
     let n := state.toNat
     let s : State := wq 0x0C00 ((State.reset).modPower (fun e => { e with change := none }))
     decide (s.queuedFor ref 0x0C00 = true) && (
     let sched := !s.host.commits.isEmpty || !s.host.parts.isEmpty || !s.host.prepares.isEmpty || !s.power.migrations.isEmpty
     decide (n ≤ 4 ∧ s.power.change.isSome = false ∧ n ≠ s.power.state.code ∧ n ≠ 0 ∧ s.anyAxisOn = false ∧
         (¬ (decide (3 ≤ n) && sched)))) : Bool) = true ∧
    (-- clause 3, powerEntryComplete
     let s₀ : State := (State.reset).modPower (fun p => { p with change := some { entry := true } })
     let s := s₀
     (match s.power.change with
     | some c =>
       decide (c.entry = true) && (
       let s := if 2 ≤ c.target.code then s.restSteps else s
       let s := if 3 ≤ c.target.code then s.blanketSteps c.cmd else s
       let s := s.entered c.from_ c.target
       let s := if c.target = .hamper then (s.loseSpilled.coreLost).modPower (fun p => { p with domains := 0x05 }) else s
       let s := s.finishOpt c.cmd E.ok
       decide (s.power.wakeHeld = false))
     | _ => false) : Bool) = true ∧
    (-- clause 4, powerExitComplete
     let s₀ : State := (State.reset).modPower (fun p => { p with change := some {} })
     let s := s₀
     (match s.power.change with
     | some c =>
       decide (c.entry = false ∧ (¬ (c.from_ == .hamper && s.host.stage != 8)))
     | _ => false) : Bool) = true ∧
    (-- clause 5, pwrWake
     let s : State := (State.reset).modPower (fun p => { p with change := some { entry := true } })
     (match s.power.change with
     | some c =>
       decide (c.entry = true)
     | _ => false) : Bool) = true ∧
    (-- clause 6, pwrWake
     let s : State := (((State.reset).modPower (fun e => { e with change := none })).modPower (fun e =>
         { e with state := .hamper })).modPower (fun e => { e with brownout := false })
     decide (s.power.change = none ∧ s.power.state = .hamper ∧ s.power.brownout = false) : Bool) = true ∧
    (-- clause 7, vin12Brownout
     let s₀ : State := ((State.reset).modPower (fun e => { e with brownout := false })).modPower (fun e =>
         { e with good := true })
     let s := s₀
     decide (s.power.brownout = false ∧ s.power.good = true) : Bool) = true ∧
    (-- clause 8, vin12Return
     let s : State := (State.reset).modPower (fun e => { e with brownout := true })
     decide (s.power.brownout = true) : Bool) = true ∧
    (-- clause 9, vstbyLoss
     let s₀ : State := State.reset
     let s := s₀
     let s := s.d0Cleared
     decide (s.power.brownout = false) : Bool) = true ∧
    (-- clause 10, suppliesGood
     let s : State := ((State.reset).modPower (fun e => { e with good := false })).modPower (fun e =>
         { e with brownout := false })
     decide (s.power.good = false ∧ s.power.brownout = false) : Bool) = true ∧
    (-- clause 11, extReset
     let s : State := ((State.reset).modPower (fun e => { e with rstHeld := false })).modPower (fun e =>
         { e with brownout := false })
     decide (s.power.rstHeld = false ∧ s.power.brownout = false) : Bool) = true ∧
    (-- clause 13, thermalTrip
     let s : State := ((State.reset).modPower (fun e => { e with tripHeld := false })).modPower (fun e =>
         { e with brownout := false })
     decide (s.power.tripHeld = false ∧ s.power.brownout = false) : Bool) = true ∧
    (-- clause 15, caseTempReading
     let tenths : Int := 0
     let s₀ : State := State.reset
     let s := s₀
     decide (bitOf s.power.domains.toNat 1 = true) && (
     decide (tenths ≤ 950)) : Bool) = true :=
  by and_intros <;> decide +kernel

/-- States and operands that meet the premises of BootAndFirmwareActs, clause by clause. -/
theorem witness_BootAndFirmwareActs :
    (-- clause 1, fwWrite
     let ref : CmdRef := wref
     let bank : Byte := 1
     let offset : BitVec 32 := 0
     let total : BitVec 32 := 0
     let data : List Byte := []
     let b := bank == 1
     let o := offset.toNat
     let n := total.toNat
     let s₀ : State := wq 0x0C10 (State.reset)
     let s := s₀
     decide (s.goesOn ref 0x0C10 = true) && (
     decide (bank.toNat ≤ 1 ∧ o + data.length ≤ n ∧ n ≤ 65011712 ∧ (¬ (!s.power.rescue && b == s.host.bankB)))) : Bool) = true ∧
    (-- clause 2, fwActivate
     let ref : CmdRef := wref
     let bank : Byte := 0
     let ft : Ft := 0
     let b := bank == 1
     let s : State := wq 0x0C11 ((State.reset).modHost (fun h => { h with bankB := true }))
     decide (s.queuedFor ref 0x0C11 = true) && (
     let f := s.power.bank b
     let d := ftDiff ft s.ft
     let format := if f.factory then f.slotFormat else leField f.image 12 2
     let other := (s.power.bank (!b)).slotFormat
     let servoOn := (List.range 32).any s.axisOn
     decide (bank.toNat ≤ 1 ∧ f.complete = true ∧ s.power.switching = false ∧ s.power.activation.isSome = false ∧
         s.power.change.isSome = false ∧ (¬ (ft != 0 && format != other && servoOn)) ∧ (¬ (ft != 0 &&
         (decide (d < 10000000) || decide (2000000000 < d)))))) : Bool) = true ∧
    (-- clause 3, bootStage
     let s : State := ((((((State.reset).modPower (fun e => { e with good := true })).modPower (fun e =>
         { e with rstHeld := false })).modPower (fun e => { e with tripHeld := false })).modPower (fun e =>
         { e with brownout := false })).modPower (fun e => { e with state := .ramble })).modHost (fun e =>
         { e with stage := 0 })
     decide (s.power.good = true ∧ s.power.rstHeld = false ∧ s.power.tripHeld = false ∧ s.power.brownout = false ∧
         s.power.state = .ramble ∧ s.host.stage = 0) : Bool) = true ∧
    (-- clause 4, cfgSave
     let ref : CmdRef := wref
     let flashFault : Bool := false
     let s₀ : State := wq 0x0C20 (State.reset)
     let s := s₀
     decide (s.queuedFor ref 0x0C20 = true) && (
     decide (flashFault = false)) : Bool) = true ∧
    (-- clause 7, fwSwitchRestart
     let s₀ : State := (((State.reset).modPower (fun e => { e with activation := (some (true, 0)) })).modPower (fun e =>
         { e with restarting := none })).modHost (fun e => { e with stage := 8 })
     let s := s₀
     (match s.power.activation with
     | some (b, x) =>
       decide (x ≤ s.xt16 ∧ s.power.restarting.isSome = false ∧ s.host.stage = 8)
     | _ => false) : Bool) = true ∧
    (-- clause 8, supervisorRestartDone
     let s₀ : State := (State.reset).modPower (fun e => { e with restarting := (some 0) })
     let s := s₀
     (match s.power.restarting with
     | some cause =>
       let s := s.modHost (fun h => { h with restarts := min 255 (h.restarts + 1) })
       let s := (s.modPower (fun p => { p with restarting := none })).mailboxesReady.askAgain
       let s := ((s.bump epModule C.supRestartCnt).log epModule 0x0E05 (dat 0 cause + dat 1 s.host.restarts)).supFault 6
       decide (s.power.activatedLog = none)
     | _ => false) : Bool) = true ∧
    (-- clause 9, bootStage
     let s : State := ((((((State.reset).modPower (fun e => { e with good := true })).modPower (fun e =>
         { e with rstHeld := false })).modPower (fun e => { e with tripHeld := false })).modPower (fun e =>
         { e with brownout := false })).modPower (fun e => { e with state := .ramble })).modHost (fun e =>
         { e with stage := 3 })
     decide (s.power.good = true ∧ s.power.rstHeld = false ∧ s.power.tripHeld = false ∧ s.power.brownout = false ∧
         s.power.state = .ramble ∧ s.host.stage = 3) : Bool) = true ∧
    (-- clause 10, bootStage
     let s : State := ((((((State.reset).modPower (fun e => { e with good := true })).modPower (fun e =>
         { e with rstHeld := false })).modPower (fun e => { e with tripHeld := false })).modPower (fun e =>
         { e with brownout := false })).modPower (fun e => { e with state := .ramble })).modHost (fun e =>
         { e with stage := 7 })
     decide (s.power.good = true ∧ s.power.rstHeld = false ∧ s.power.tripHeld = false ∧ s.power.brownout = false ∧
         s.power.state = .ramble ∧ s.host.stage = 7) : Bool) = true ∧
    (-- clause 11, cfgSave
     let ref : CmdRef := wref
     let flashFault : Bool := true
     let s₀ : State := wq 0x0C20 (State.reset)
     let s := s₀
     decide (s.queuedFor ref 0x0C20 = true) && (
     decide (flashFault = true)) : Bool) = true ∧
    (-- clause 12, supervisorRestartDone
     let s₀ : State := ((State.reset).modPower (fun e => { e with restarting := (some 0) })).modPower (fun p =>
         { p with restarting := some 0, activatedLog := some true })
     let s := s₀
     (match s.power.restarting with
     | some cause =>
       let s := s.modHost (fun h => { h with restarts := min 255 (h.restarts + 1) })
       let s := (s.modPower (fun p => { p with restarting := none })).mailboxesReady.askAgain
       let s := ((s.bump epModule C.supRestartCnt).log epModule 0x0E05 (dat 0 cause + dat 1 s.host.restarts)).supFault 6
       (match s.power.activatedLog with
       | some b =>
         true
       | _ => false)
     | _ => false) : Bool) = true :=
  by and_intros <;> decide +kernel

/-- States and operands that meet the premises of EnginePowerActs, clause by clause. -/
theorem witness_EnginePowerActs :
    (-- clause 1, pwrDomain
     let ref : CmdRef := wref
     let domain : Byte := 3
     let on : Byte := 0
     let d := domain.toNat
     let g := d - 3
     let les := groupEngines g
     let s₀ : State := wq 0x0C01 (((State.reset).modPower (fun e => { e with state := .ramble })).modPower (fun e =>
         { e with groupOn := none }))
     let s := s₀
     decide (s.queuedFor ref 0x0C01 = true) && (
     let isOn := !s.power.groupOff.contains g
     let busy := les.any (fun le => !(s.hosted le).isEmpty || s.power.migrations.any (fun m => m.target == le))
     decide (d == 3 || d == 4 ∧ on.toNat ≤ 1 ∧ s.power.state = .ramble ∧ busy = false ∧ s.power.groupOn.isSome = false ∧
         isOn ≠ (on == 1) ∧ on = 0)) : Bool) = true ∧
    (-- clause 2, engineRestart
     let ref : CmdRef := wref
     let engine : Byte := 0
     let le := engine.toNat
     let s₀ : State := wq 0x0C02 ((State.reset).modEngine engine.toNat (fun e => { e with state := .halted }))
     let s := s₀
     decide (s.queuedFor ref 0x0C02 = true ∧ le < 16 ∧ (s.getEngine le).state = .halted) : Bool) = true ∧
    (-- clause 3, engineGroupReady
     let groupB : Bool := false
     let s₀ : State := (State.reset).modPower (fun e => { e with groupOn := (some (false, 0)) })
     let s := s₀
     (match s.power.groupOn with
     | some (g, k) =>
       decide (g = groupB)
     | _ => false) : Bool) = true ∧
    (-- clause 4, engineRescue
     let le : Fin 16 := 0
     let n := le.val
     let s : State := ((State.reset).modEngine le.val (fun e => { e with state := .halted })).setPar epModule P.engRescue 0 1
     decide ((s.getEngine n).state = .halted ∧ s.par epModule P.engRescue = 1) : Bool) = true ∧
    (-- clause 5, axisMigrate
     let ref : CmdRef := wref
     let ep : BitVec 16 := 0
     let engine : Byte := 1
     let ft : Ft := 0
     let k := cmdKey ref
     let i := ep.toNat
     let t := engine.toNat
     let s₀ : State := wq 0x0310 ((((State.reset).modFlags ep.toNat (fun e => { e with engine := (some 0) })).modEngine 1
         (fun e => { e with state := .idle })).modFlags 1 (fun f => { f with engine := some 0, slot := 1 }))
     let s := s₀
     decide (s.queuedFor ref 0x0310 = true) && (
     let d := ftDiff ft s.ft
     let b := if ft = 0 then s.nextBoundary else s.xtOfFt ft
     let st := (s.getEngine t).state
     (match (s.getFlags i).engine with
     | some src =>
       decide (¬ (i < 32 ∧ t = src)) && (
       let named := s.host.commits.any (fun c => decide (c.b ≤ b) && c.items.any (fun x => x.ep == i))
       let clash := s.power.migrations.any (fun g => g.b == b && !g.moved &&
           (g.source == src || g.target == src || g.source == t || g.target == t))
       let room := s.engineKeeps ((s.willHost t).filter (· ≠ i) ++ [i])
       decide (i < 32 ∧ t < 16 ∧ (¬ (st != .idle && st != .run)) ∧ (¬ (ft != 0 && decide (d < 100000))) ∧ (¬ (ft != 0 &&
           decide (2000000000 < d))) ∧ room = true ∧ s.slotFormatOf src = s.slotFormatOf t ∧ named = false ∧ clash = false ∧
           s.handoverFits i = true) && (
       let s := (s.run k).modPower (fun p => { p with
         migrations := p.migrations ++ [{ axis := i, source := src, target := t, b := b, cmd := some k }] })
       let left := (s.hosted src).filter (fun j => !s.power.migrations.any (fun g => g.axis == j && g.source == src))
       decide (left.isEmpty = false)))
     | _ => false)) : Bool) = true ∧
    (-- clause 6, migrationHandover
     let axis : Fin 32 := 0
     let i := axis.val
     let s₀ : State := ((State.reset).modPower (fun p => { p with migrations := [{ axis := 0 }] })).modFlags 0 (fun f =>
         { f with engine := some 0 })
     let s := s₀
     (match s.power.migrations.find? (fun g => g.axis == i && !g.moved && decide (g.b ≤ s.xt16)) with
     | some g =>
       decide (s.power.restarting.isSome = false ∧ (s.getFlags i).engine = some g.source ∧
           (s.getEngine g.source).holds i = false ∧ (¬ (decide ((s.getPwm i).updateXt < g.b) && (s.getPwm i).sample != 0 &&
           !s.released i)))
     | _ => false) : Bool) = true ∧
    (-- clause 7, pwrDomain
     let ref : CmdRef := wref
     let domain : Byte := 3
     let on : Byte := 1
     let d := domain.toNat
     let g := d - 3
     let les := groupEngines g
     let s₀ : State := wq 0x0C01 ((((State.reset).modPower (fun e => { e with state := .ramble })).modPower (fun e =>
         { e with groupOn := none })).modPower (fun p => { p with groupOff := [0] }))
     let s := s₀
     decide (s.queuedFor ref 0x0C01 = true) && (
     let isOn := !s.power.groupOff.contains g
     let busy := les.any (fun le => !(s.hosted le).isEmpty || s.power.migrations.any (fun m => m.target == le))
     decide (d == 3 || d == 4 ∧ on.toNat ≤ 1 ∧ s.power.state = .ramble ∧ busy = false ∧ s.power.groupOn.isSome = false ∧
         isOn ≠ (on == 1) ∧ on ≠ 0)) : Bool) = true ∧
    (-- clause 8, axisMigrate
     let ref : CmdRef := wref
     let ep : BitVec 16 := 0
     let engine : Byte := 1
     let ft : Ft := 0
     let k := cmdKey ref
     let i := ep.toNat
     let t := engine.toNat
     let s₀ : State := wq 0x0310 (((State.reset).modFlags ep.toNat (fun e => { e with engine := (some 0) })).modEngine 1 (fun
         e => { e with state := .idle }))
     let s := s₀
     decide (s.queuedFor ref 0x0310 = true) && (
     let d := ftDiff ft s.ft
     let b := if ft = 0 then s.nextBoundary else s.xtOfFt ft
     let st := (s.getEngine t).state
     (match (s.getFlags i).engine with
     | some src =>
       decide (¬ (i < 32 ∧ t = src)) && (
       let named := s.host.commits.any (fun c => decide (c.b ≤ b) && c.items.any (fun x => x.ep == i))
       let clash := s.power.migrations.any (fun g => g.b == b && !g.moved &&
           (g.source == src || g.target == src || g.source == t || g.target == t))
       let room := s.engineKeeps ((s.willHost t).filter (· ≠ i) ++ [i])
       decide (i < 32 ∧ t < 16 ∧ (¬ (st != .idle && st != .run)) ∧ (¬ (ft != 0 && decide (d < 100000))) ∧ (¬ (ft != 0 &&
           decide (2000000000 < d))) ∧ room = true ∧ s.slotFormatOf src = s.slotFormatOf t ∧ named = false ∧ clash = false ∧
           s.handoverFits i = true) && (
       let s := (s.run k).modPower (fun p => { p with
         migrations := p.migrations ++ [{ axis := i, source := src, target := t, b := b, cmd := some k }] })
       let left := (s.hosted src).filter (fun j => !s.power.migrations.any (fun g => g.axis == j && g.source == src))
       decide (left.isEmpty = true)))
     | _ => false)) : Bool) = true :=
  by and_intros <;> decide +kernel

/-- States and operands that meet the premises of AuxDriveEventsComplete, clause by clause. -/
theorem witness_AuxDriveEventsComplete :
    (-- clause 2, auxAlignDone
     let j : Fin 16 := 0
     let s : State := { (State.reset).modAux j.val (fun e => { e with state := .align }) with tick := 10 ^ 12 }
     decide ((s.getAux j.val).state = .align ∧ s.passed (s.getAux j.val).since (msTicks (s.parF (epAux j.val)
         P.auxAlignTime)) = true) : Bool) = true ∧
    (-- clause 3, auxStartTimeout
     let j : Fin 16 := 0
     let t : Nat := 0
     let s : State := ({ (State.reset).modAux j.val (fun e => { e with handoverFrom := some t }) with tick := 10 ^ 12 }).modAux j.val (fun e => { e with foc := { e.foc with obs := { e.foc.obs with locked := false } } })
     decide ((s.getAux j.val).handoverFrom = some t ∧ s.expired t (msTicks 200) = true ∧
         (s.getAux j.val).foc.obs.locked = false) : Bool) = true ∧
    (-- clause 4, auxRetryDelay
     let j : Fin 16 := 0
     let s : State := { (State.reset).modAux j.val (fun e => { e with state := .retryWait }) with tick := 10 ^ 12 }
     decide ((s.getAux j.val).state = .retryWait ∧ s.passed (s.getAux j.val).since (msTicks (1000 * s.parF (epAux j.val)
         P.auxRetryDelay)) = true) : Bool) = true ∧
    (-- clause 5, auxRetryReset
     let j : Fin 16 := 0
     let s : State := { (State.reset).modAux j.val (fun e => { e with state := .run }) with tick := 10 ^ 12 }
     decide ((s.getAux j.val).state = .run ∧ s.passed (s.getAux j.val).since (msTicks 60000) = true) : Bool) = true :=
  by and_intros <;> decide +kernel

/-- States and operands that meet the premises of SegmentAndRemoteEventsComplete, clause by clause. -/
theorem witness_SegmentAndRemoteEventsComplete :
    (-- clause 1, waymarkPassed
     let ep : TrailEp := .servo 0
     let m : Move := { num := 1 }
     let x : Ft16 := 0
     let s : State := (State.reset).modTrail 0 (fun e =>
         { e with moves := [{ num := 1 }], queue := [{ last := true, move := 1 }] })
     decide (s.waymarkAt (trailEp ep) = some (m, x) ∧ bitOf m.rec_.flags.toNat 0 = false ∧ isGroupEp (trailEp ep) = false ∧
         m.rec_.blend ≠ 1) : Bool) = true ∧
    (-- clause 2, groupSegmentSend
     let g : Fin 32 := 0
     let n : Fin 8 := 0
     let b : Seg := { tStart := BitVec.ofNat 48 (2 ^ 44) }
     let fa : Nat := 8192
     let s : State := ((State.reset).modTrail (epGroup g.val) (fun e => { e with state := .running })).setPar 0x1F40
         P.members 0 (2 ^ 32 + 8192)
     decide ((s.groupMembers g.val)[n.val]? = some fa ∧ s.localEp fa = none ∧
         ((s.getTrail (epGroup g.val)).state = .running ∨ (s.getTrail (epGroup g.val)).state = .stopping) ∧
         ((unitsOfNs (s.parF (epGroup g.val) P.groupLead * 1000000)).toNat : Int) ≤ ft16Diff b.tStart s.time.ft16) : Bool) = true ∧
    (-- clause 3, groupSegmentRx
     let ep : TrailEp := .servo 0
     let segs : List Seg := [{ hold := true }]
     let s : State := (State.reset).modLoop 0 (fun e => { e with state := .enabled })
     decide (s.axisStateOf (trailEp ep) = .enabled ∧ s.segsFit (s.getTrail (trailEp ep)) segs = true) : Bool) = true ∧
    (-- clause 4, virtualAxisSample
     let i : Fin 256 := 0
     let s : State := (((State.reset).modVirt 0 (fun v => { v with state := .enabled })).modTrail 0x100 (fun e =>
         { e with queue := [{ hold := true }] })).modTime (fun e => { e with xtHi := 1 })
     let x : Nat := gridAtOrBefore (s.par (epVirt i.val) P.vaPeriodTicks) (s.par (epVirt i.val) P.vaPhaseTicks) s.xt16
     let m : Motion := (s.setpointAt (epVirt i.val) (ft16Of x)).2.1
     let u : State := (s.setpointAt (epVirt i.val) (ft16Of x)).1
     decide (x = gridAtOrBefore (s.par (epVirt i.val) P.vaPeriodTicks) (s.par (epVirt i.val) P.vaPhaseTicks) s.xt16 ∧
         (s.getVirt i.val).state = .enabled ∧ (s.getVirt i.val).sampleXt < x ∧ (s.getVirt i.val).stop = none ∧
         s.setpointAt (epVirt i.val) (ft16Of x) = (u, m, true)) : Bool) = true ∧
    (-- clause 5, remoteSetpointSend
     let na : Fin 128 := 0
     let i := na.val
     let ep := epRemote i
     let s₀ : State := (((State.reset).setPar (epRemote na.val) P.remAddress 0 1).setPar 0x200 P.remAddress 0 1).setPar 0x200
         P.remLead 0 0x447A0000
     let s := s₀
     let r := s.getRemote i
     let n := s.par ep P.remPeriodTicks
     let ph := s.par ep P.remPhaseTicks
     let lead := (unitsOfNs (s.parF ep P.remLead * 1000)).toNat
     let x := max (gridAtOrAfter n ph (r.lastXt + 1)) (gridAtOrAfter n ph s.xt16)
     decide (s.par ep P.remAddress ≠ 0 ∧ x - lead ≤ s.xt16 + tickUnits) && (
     let o := s.setpointAt ep (ft16Of x)
     let s := o.1
     let m := o.2.1
     let r := s.getRemote i
     let seq := r.seq + 1
     let s := s.modFollower ep (fun f => { f with sp := (m.p, m.v, m.a), lastXt := x })
     let s := s.setRemote i { r with seq := seq, sentSeqs := (seq :: r.sentSeqs).take 256, lastXt := x }
     decide (s.par ep P.remTransport ≠ 2)) : Bool) = true ∧
    (-- clause 6, remoteFeedbackRx
     let na : Fin 128 := 0
     let fb : RemFeedback := { length := 32, version := 1, status := 0, seq := 1, source := 0 }
     let i := na.val
     let ep := epRemote i
     let s₀ : State := (State.reset).modRemote 0 (fun e => { e with sentSeqs := [1] })
     let s := s₀
     let r := s.getRemote i
     let bad := fb.length != 32 || fb.version != 1 || decide (fb.status.toNat % 256 ≥ 4) || decide (65536 ≤ fb.status.toNat) ||
       !r.sentSeqs.contains fb.seq || fb.source.toNat != s.par ep P.remAddress
     decide (bad = false) && (
     decide (¬ (r.state = .enabling ∧ bitOf fb.status.toNat 0))) : Bool) = true ∧
    (-- clause 7, remoteTimeout
     let na : Fin 128 := 0
     let i := na.val
     let ep := epRemote i
     let s₀ : State := { (State.reset).modRemote na.val (fun e => { e with state := .enabled }) with tick := 10 ^ 12 }
     let s := s₀
     let r := s.getRemote i
     decide (r.state = .enabled ∧ s.expired r.fbTick (msTicks (s.parF ep P.remTimeout)) = true) : Bool) = true ∧
    (-- clause 8, remoteEnableTimeout
     let na : Fin 128 := 0
     let i := na.val
     let s : State := { ((State.reset).modRemote na.val (fun e => { e with state := .enabling })).modRemote na.val (fun e => { e with enableTick := (some 0) }) with tick := 10 ^ 12 }
     let r := s.getRemote i
     decide (r.state = .enabling) && (
     (match r.enableTick with
     | some t =>
       decide (s.expired t (msTicks (s.parF (epRemote i) P.remEnableTimeout)) = true)
     | _ => false)) : Bool) = true :=
  by and_intros <;> decide +kernel

/-- States and operands that meet the premises of KernelUnloadInUseRejected, clause by clause. -/
theorem witness_KernelUnloadInUseRejected :
    (-- clause 1, kernelUnload
     let ref : CmdRef := wref
     let handle : BitVec 32 := 1
     let s : State := wq 0x0441 (((State.reset).modHost (fun h => { h with kernels := [(1, {})] })).setPar 0 P.hookKernel 0 1)
     decide (s.queuedFor ref 0x0441 = true ∧ s.host.kernels.any (fun x => x.1 == handle.toNat) = true ∧
         s.kernelUsed handle.toNat = true) : Bool) = true :=
  by decide +kernel

/-- States and operands that meet the premises of UnsolicitedCharacterCounted, clause by clause. -/
theorem witness_UnsolicitedCharacterCounted :
    (-- clause 1, lspUnsolicitedChar
     let i : Fin 32 := 0
     let s : State := State.reset
     decide ((s.getSerial i.val).driveEnd ≤ s.tick) : Bool) = true ∧
    (-- clause 2, lspUnsolicitedChar
     let i : Fin 32 := 0
     let s : State := (State.reset).modSerial 0 (fun p => { p with driveEnd := 1 })
     decide (s.tick < (s.getSerial i.val).driveEnd) : Bool) = true :=
  by and_intros <;> decide +kernel

/-- States and operands that meet the premises of StepRunsFrontCommand, clause by clause. -/
theorem witness_StepRunsFrontCommand :
    (
     let c : Instr := .timeStepApply
     let rest : List Instr := []
     let s : State := { State.reset with pending := c :: rest }
     decide (s.pending = c :: rest) : Bool) = true :=
  by decide +kernel

/-- States and operands that meet the premises of StepIdlesOnEmptyQueue, clause by clause. -/
theorem witness_StepIdlesOnEmptyQueue :
    (
     let s : State := { State.reset with pending := [] }
     decide (s.pending = []) : Bool) = true :=
  by decide +kernel

end Tests
end

section
/-! Accesses of the host to the registers of BAR0 (R485 to R492, R533, R534). Every such command is guarded by `State.access`, so
one law of that guard, and one equation for each case of a register's meaning, give `MailboxRegisterActs`. -/

namespace Sys2Proof.Machine

/-- D1 is powered: the access reaches its register (R485). -/
theorem State.access_of_bar0 {s : State} (h : s.bar0 = true) (f : State → State) : s.access f = .next (f s) := by
  rw [State.access, if_pos h]

section
variable {s : State} (m : Fin 64)

/-! ### Ring indices and the enable bit of a mailbox -/

/-- A tail within the ring is taken (R488). -/
theorem execMbxDoorbell_of_valid (h : s.bar0 = true) {tail : BitVec 16}
    (hv : (tail - (s.getMbx m).cmdHead).toNat ≤ (s.getMbx m).size) :
    execMbxDoorbell m tail s = .next (s.setMbx m { s.getMbx m with cmdTail := tail }) := by
  rw [execMbxDoorbell, State.access_of_bar0 h, if_pos hv]

/-- A tail outside the ring is ignored, counted and logged (R488). -/
theorem execMbxDoorbell_of_bad (h : s.bar0 = true) {tail : BitVec 16}
    (hb : (s.getMbx m).size < (tail - (s.getMbx m).cmdHead).toNat) :
    execMbxDoorbell m tail s = .next (
      (s.bump (epMbx m) C.mbxBadDoorbell).log (epMbx m) 0x0E02 (tail.toNat + dat 2 (s.getMbx m).cmdHead.toNat)) := by
  rw [execMbxDoorbell, State.access_of_bar0 h, if_neg hb.not_ge]

/-- A head that does not pass rsp_tail frees slots (R488). -/
theorem execMbxRspHeadWrite_of_valid (h : s.bar0 = true) {head : BitVec 16}
    (hv : (head - (s.getMbx m).rspHead).toNat ≤ ((s.getMbx m).rspTail - (s.getMbx m).rspHead).toNat) :
    execMbxRspHeadWrite m head s = .next (s.setMbx m { s.getMbx m with rspHead := head }) := by
  rw [execMbxRspHeadWrite, State.access_of_bar0 h, if_pos hv]

/-- The enable bit set where it was 0 claims the mailbox, unless a network session holds it (R499, R500). -/
theorem execMbxEnableSet_of_claim (h : s.bar0 = true) (ctrl : BitVec 32)
    (hn : (s.getMbx m).state ≠ .network) (he : (s.getMbx m).enable = false) :
    execMbxEnableSet m ctrl s = .next (s.setMbx m { (s.getMbx m).ctrl ctrl with
      enable := true
      state := if s.host.mbxReady || (s.power.rescue && m.val == 0) then .enabled else .boot }) := by
  rw [execMbxEnableSet, State.access_of_bar0 h, if_neg hn, if_neg (Bool.eq_false_iff.mp he)]

/-- The enable bit cleared where it was 1 closes the mailbox, with the other fields of MBX_CTRL written (R492). -/
theorem execMbxEnableClear_of_enabled (h : s.bar0 = true) (ctrl : BitVec 32) (he : (s.getMbx m).enable = true) :
    execMbxEnableClear m ctrl s = .next ((s.modMbx m (fun b => b.ctrl ctrl)).mbxOff m) := by
  rw [execMbxEnableClear, State.access_of_bar0 h, if_pos he]

/-! ### The event ring -/

/-- A head up to evt_tail is taken; with no run of lost records nothing is written (R534). -/
theorem execMbxEvtHeadWrite_of_noneLost (h : s.bar0 = true) {head : BitVec 16}
    (hv : (head - s.events.head).toNat ≤ s.events.used) (hl : s.events.lostRun = none) :
    execMbxEvtHeadWrite head s = .next { s with events := { s.events with head := head } } := by
  rw [execMbxEvtHeadWrite, State.access_of_bar0 h, if_neg hv.not_gt]
  simp only [hl]

/-- The write of MBX_EVT_CTRL keeps a run of lost records only while enable stays 1 (R533). -/
theorem execMbxEvtEnable_of_bar0 (h : s.bar0 = true) (ctrl : BitVec 32) :
    execMbxEvtEnable ctrl s = .next (s.modEvents (fun e => { e with
      enable := bitOf ctrl.toNat 31, vector := vectorOf ctrl, moderation := moderationOf ctrl
      lostRun := if e.enable && bitOf ctrl.toNat 31 then e.lostRun else none })) :=
  State.access_of_bar0 h _

/-- The read takes the count, but for the records lost in its own tick (R18, R21). -/
theorem execMbxEvtLostRead_of_bar0 (h : s.bar0 = true) :
    execMbxEvtLostRead s = .next (
      s.modEvents (fun e => { e with lost := e.lostNow s.tick, lostRead := e.lost - e.lostNow s.tick })) :=
  State.access_of_bar0 h _

/-! ### Supervisor registers, misaligned writes and plain registers -/

/-- The read of the low word latches t_ftl, a free value that the step takes (R487). -/
theorem execSupFtSnapLoRead_of_bar0 (h : s.bar0 = true) :
    execSupFtSnapLoRead s = .next (s.took.modHost (fun x => { x with snap := s.ftlInstant, snapSeq := x.snapSeq + 1 })) :=
  State.access_of_bar0 h _

/-- A 1 clears its bit, unless the bit was set in the same tick (R18, R20). -/
theorem execSupFaultWrite_of_bar0 (h : s.bar0 = true) (mask : BitVec 32) :
    execSupFaultWrite mask s = .next (s.modHost (fun x =>
      { x with fault := x.fault &&& ~~~(if x.faultSet.1 = s.tick then mask &&& ~~~x.faultSet.2 else mask) })) :=
  State.access_of_bar0 h _

/-- A write that is not an aligned word is counted and does nothing else (R486). -/
theorem execMbxBadAccess_of_bar0 (h : s.bar0 = true) : execMbxBadAccess s = .next (s.bump epModule C.mbxBadAccess) :=
  State.access_of_bar0 h _

/-- The low half of the event ring's base (R485). -/
theorem execRegisterWrite_evtBaseLo (h : s.bar0 = true) (v : BitVec 32) :
    execRegisterWrite .evtBaseLo v s = .next (s.modEvents (fun e => { e with base := setHalf false e.base v })) :=
  State.access_of_bar0 h _

/-- The low half of a command ring's base, which a mailbox ignores while it is enabled (R492). -/
theorem execRegisterWrite_mbxCmdBaseLo (h : s.bar0 = true) (v : BitVec 32) :
    execRegisterWrite (.mbxCmdBaseLo m) v s = .next (
      s.modMbx m (fun b => if b.enable then b else { b with cmdBase := setHalf false b.cmdBase v })) :=
  State.access_of_bar0 h _

end

/-- Settles O26: the dispatch calls each command's meaning, and each clause is the equation of one case of it. -/
theorem mailboxRegisterActs : Obligations.MailboxRegisterActs := by
  unfold Obligations.MailboxRegisterActs
  refine ⟨?doorbell, ?badDoorbell, ?rspHead, ?enableSet, ?enableClear, ?evtHead, ?evtEnable, ?evtLost, ?ftSnap, ?faultWrite,
    ?badAccess, ?evtBase, ?cmdBase⟩
  case doorbell => exact fun _ m _ h hv => execMbxDoorbell_of_valid m h hv
  case badDoorbell => exact fun _ m _ h hb => execMbxDoorbell_of_bad m h hb
  case rspHead => exact fun _ m _ h hv => execMbxRspHeadWrite_of_valid m h hv
  case enableSet => exact fun _ m ctrl h hn he => execMbxEnableSet_of_claim m h ctrl hn he
  case enableClear => exact fun _ m ctrl h he => execMbxEnableClear_of_enabled m h ctrl he
  case evtHead => exact fun _ _ h hv hl => execMbxEvtHeadWrite_of_noneLost h hv hl
  case evtEnable => exact fun _ ctrl h => execMbxEvtEnable_of_bar0 h ctrl
  case evtLost => exact fun _ h => execMbxEvtLostRead_of_bar0 h
  case ftSnap => exact fun _ h => execSupFtSnapLoRead_of_bar0 h
  case faultWrite => exact fun _ mask h => execSupFaultWrite_of_bar0 h mask
  case badAccess => exact fun _ h => execMbxBadAccess_of_bar0 h
  case evtBase => rintro _ _ v h _ rfl; exact execRegisterWrite_evtBaseLo h v
  case cmdBase => rintro _ _ v h _ m rfl; exact execRegisterWrite_mbxCmdBaseLo m h v

end Sys2Proof.Machine
end

section
/-! What the statements of this part share: a command answers one next state, so its law is an equation of states; and the operations
of a servo axis leave the parameters alone (R545). -/

namespace Sys2Proof.Machine

/-- Two next states that are equal make equal outcomes. -/
theorem Out.next_congr {a b : State} (h : a = b) : (.next a : Out) = .next b := congrArg _ h

@[simp] theorem State.modLoop_par (s : State) (i : Nat) (g : ServoLoop → ServoLoop) (ep code idx : Nat) :
    (s.modLoop i g).par ep code idx = s.par ep code idx := rfl

@[simp] theorem State.gates_par (s : State) (i : Nat) (on : Bool) (ep code idx : Nat) :
    (s.gates i on).par ep code idx = s.par ep code idx := rfl

end Sys2Proof.Machine
end

section
/-! Fabric time and the current sample (R40 to R80, R553). An event acts in the branch whose guard is the clause's premises; a command
acts where it is queued and its checks pass. -/

namespace Sys2Proof.Machine

/-- Settles O1: each event's guard holds, so the branch in which it acts is its next state (log entry 5). -/
theorem sampleEventsAct : Obligations.SampleEventsAct := by
  unfold Obligations.SampleEventsAct
  refine ⟨?updatePoint, ?firstShunt, ?secondShunt, ?shuntResult, ?dutyCommit, ?budgetOverrun, ?unhostedRelease, ?hostedRelease,
    ?starvedStop⟩
  case updatePoint => exact fun s axis hOn hDue => Out.next_congr (if_neg (by simp [hOn, hDue]))
  case firstShunt =>
    exact fun s axis hLeft hFrom hTo hFirst => Out.next_congr ((if_neg (by omega)).trans (if_pos hFirst))
  case secondShunt =>
    exact fun s axis hLeft hFrom hTo hSecond => Out.next_congr ((if_neg (by omega)).trans (if_neg hSecond))
  case shuntResult => exact fun s i c => rfl
  case dutyCommit =>
    intro s axis i le hle hAt
    show execDutyCommit axis s = _
    simp only [execDutyCommit, i, hle, hAt, if_true]
  case budgetOverrun =>
    intro s axis i le hle hOver
    show execBudgetOverrun axis s = _
    simp only [execBudgetOverrun, i, hle, hOver, if_true]
  case unhostedRelease =>
    intro s axis hook i hDue hNone
    show execAxisRelease axis hook s = _
    simp only [execAxisRelease, hDue, hNone, i]
    rfl
  case hostedRelease =>
    intro s axis hook i hDue le hle e hRuns
    show execAxisRelease axis hook s = _
    simp only [execAxisRelease, hDue, hle, i, Bool.not_true, Bool.false_eq_true, if_false, e] at hRuns ⊢
    rw [if_pos hRuns]
  case starvedStop =>
    intro s axis hEnabled t hSince hOver
    show execSegmentStarvedStop axis s = _
    simp only [execSegmentStarvedStop, hEnabled, hSince, hOver, if_true]

/-- Settles O2: the two forms of TIME_STEP pass all six checks, and then part on the mode; the others act in the branch of their guard. -/
theorem timeActs : Obligations.TimeActs := by
  unfold Obligations.TimeActs
  refine ⟨?tick, ?xtSample, ?stepApply, ?acquiringTimeout, ?lockedTimeout, ?echoStamp, ?stamp, ?calibration, ?status, ?stepByOffset,
    ?stepByDelta⟩
  case tick => exact fun s hRuns => Out.next_congr (if_pos hRuns)
  case xtSample => exact fun s => rfl
  case stepApply =>
    intro s f d hAnnounced hReached
    show execTimeStepApply s = _
    simp only [execTimeStepApply, hAnnounced, hReached, Bool.false_eq_true, if_false]
  case acquiringTimeout =>
    intro s t hFrom hOver hAcquiring
    show execTimeSourceTimeout s = _
    simp only [execTimeSourceTimeout, hFrom, hOver, hAcquiring, Bool.not_true, Bool.false_eq_true, if_false]
  case lockedTimeout =>
    intro s₀ s t hFrom hOver hLocked
    show execTimeSourceTimeout s₀ = _
    simp only [execTimeSourceTimeout, s, hFrom, hOver, hLocked, Bool.not_true, Bool.false_eq_true, if_false]
  case echoStamp => exact fun s a c f => rfl
  case stamp =>
    intro s p c f hOther
    cases p with
    | shuntEcho a => exact absurd rfl (hOther a)
    | _ => rfl
  case calibration => exact fun s hPassed => Out.next_congr (if_pos hPassed)
  case status => exact fun s ref hQueued => Out.next_congr (State.execCmd_of_queuedFor _ hQueued)
  case stepByOffset =>
    intro s ref ns frac hQueued hLocked hMeasured hSync
    refine Out.next_congr ((State.execCmd_of_queuedFor _ hQueued).trans ((State.checked_of _ _ _ _ ?_).trans (if_pos rfl)))
    simp [hLocked, hMeasured, hSync]
  case stepByDelta =>
    intro s ref ns frac hQueued hLocked hLeader hSync hDevs hDelta
    refine Out.next_congr ((State.execCmd_of_queuedFor _ hQueued).trans ((State.checked_of _ _ _ _ ?_).trans (if_neg (by decide))))
    simp [hLocked, hLeader, hSync, hDevs, hDelta]

end Sys2Proof.Machine
end

section
/-! Enabling, stopping and the events of drives (R241 to R312). -/

namespace Sys2Proof.Machine

/-- A stop that takes longer than stop_timeout goes on with category 0 as a fault stop, whose cause is STOP_TIMEOUT unless the axis
has one (R246). -/
theorem execStopTimeout_of_over {s : State} {i : Fin 32} {w : StopRun} (hStopping : (s.getLoop i.val).state = .stopping)
    (hStop : (s.getLoop i.val).stop = some w) (hWaits : w.atUpdate = false)
    (hOver : s.expired w.fromTick (msTicks (s.parF i.val P.stopTimeout)) = true) :
    execStopTimeout i s = .next (
      ((if (s.getLoop i.val).faultCause = 0 then s.recordCause i.val 0x0F else s).modTrail i.val (fun t => { t with
        reportDue := t.reportDue.map (fun r => { r with cause := 2, category := 0 }) })).modLoop i.val (fun l => { l with
        stop := some { w with cat := 0, byFault := true, atUpdate := true } })) := by
  simp only [execStopTimeout, hStopping, hStop, hWaits, hOver, Bool.not_true, Bool.or_false, Bool.false_eq_true, if_false]

/-- Settles O5: each event acts in the branch of its guard. STANDSTILL reads the state of the loop after a change of the flags, and the
calibration of a servo axis reads fb_source after changes of the loop and the gates: neither change touches what is read. -/
theorem enableAndDriveEventsAct : Obligations.EnableAndDriveEventsAct := by
  unfold Obligations.EnableAndDriveEventsAct
  refine ⟨?precharge, ?enableTimeout, ?standstill, ?stopTimeoutAfterFault, ?polarity, ?sto, ?servoGate, ?dcLink, ?auxCalibrated,
    ?servoHold, ?listen, ?stopTimeout, ?auxGate, ?servoCalibrated, ?auxHold⟩
  case precharge => exact fun s axis hEnabling hStep hPassed => Out.next_congr (if_pos ⟨hEnabling, hStep, hPassed⟩)
  case enableTimeout => exact fun s axis hEnabling hNoStop hOver => Out.next_congr (if_pos ⟨hEnabling, hNoStop, hOver⟩)
  case standstill =>
    intro s i t f hSlow hPassed hStopping
    have hState : ((s.modFlags i.val (fun f => { f with standstill := true })).getLoop i.val).state = .stopping := hStopping
    show execStandstill i s = _
    simp only [execStandstill, hSlow, hPassed, hState, Bool.not_true, Bool.false_eq_true, if_false]
  case stopTimeoutAfterFault =>
    exact fun s i w hStopping hStop hWaits hOver hFault =>
      (execStopTimeout_of_over hStopping hStop hWaits hOver).trans (by rw [if_neg hFault])
  case stopTimeout =>
    exact fun s i w hStopping hStop hWaits hOver hNoFault =>
      (execStopTimeout_of_over hStopping hStop hWaits hOver).trans (by rw [if_pos hNoFault])
  case polarity => exact fun s axis hAwaits hDue => Out.next_congr (if_pos (Bool.and_eq_true_iff.mpr ⟨hAwaits, hDue⟩))
  case sto => exact fun s g hReleased => Out.next_congr (if_neg (by simp [hReleased]))
  case servoGate => exact fun s i => rfl
  case auxGate => exact fun s j => rfl
  case dcLink => exact fun s n c hOn hRamble => Out.next_congr (if_pos (by simp [hOn, hRamble]))
  case auxCalibrated =>
    rintro s t j l hStandby hLength rfl hNoWarn
    exact Out.next_congr ((if_pos ⟨hStandby, hLength⟩).trans (if_neg (Bool.eq_false_iff.mp hNoWarn)))
  case servoCalibrated =>
    intro s t i l hEnabling hStep hLength ht hNoWarn hFeedback
    have hTick : t.tick = s.tick := by rw [ht]; rfl
    have hSource : t.par i.val P.fbSource ≠ 0 := by rwa [ht]
    show Host.Outcome.next (s.servoCalibrated i.val l) = _
    simp only [State.servoCalibrated, hEnabling, hStep, hLength, and_self, if_true, ← ht, hNoWarn, Bool.false_eq_true, if_false,
      hTick, State.gates_par, State.modLoop_par, beq_false_of_ne hSource, if_neg hSource]
  case servoHold =>
    intro s i t hHold hOver hUnlocked
    show Host.Outcome.next (s.servoHoldEnd i.val) = _
    simp only [State.servoHoldEnd, hHold, hOver, hUnlocked, Bool.not_false, Bool.and_self, if_true]
  case auxHold =>
    intro s j t hState hHold hOver hUnlocked
    show Host.Outcome.next (s.auxHoldEnd j.val) = _
    simp only [State.auxHoldEnd, hState, hHold, hOver, hUnlocked, Bool.not_false, Bool.and_self, if_true]
  case listen =>
    intro s i hEnabling hOver hStandstill
    exact Out.next_congr ((if_neg (by simp [hEnabling, hOver])).trans (if_pos hStandstill))

end Sys2Proof.Machine
end

section
/-! Field inputs and fabric ports (R625 to R631, R668, R711 to R755). -/

namespace Sys2Proof.Machine

/-- Settles O36: each event acts in the branch of its guard. FIO_FRAME_RX judges the power of its die after the sets have left. -/
theorem fieldInputActs : Obligations.FieldInputActs := by
  unfold Obligations.FieldInputActs
  refine ⟨?inputDebounced, ?latchEdge, ?latchDebounced, ?wireBreakSet, ?wireBreakClear, ?supply, ?levelFall, ?levelRise, ?fioFrame,
    ?fioReport, ?fioStale, ?fioHeartbeat, ?safetyFrame, ?safetyTimeout, ?badFioFrame⟩
  case inputDebounced =>
    exact fun s input level count hOn hChanged hIntact => Out.next_congr (if_neg (by simp [hOn, hChanged, hIntact]))
  case latchEdge => exact fun s input level cycles frac => rfl
  case latchDebounced =>
    intro s input level f held hOn hRaw hChanged hHeld
    exact Out.next_congr (if_neg (by simp [hOn, hRaw, hChanged, hHeld, f, held]))
  case wireBreakSet =>
    exact fun s input hEnabled hLow hIntact hSupply => Out.next_congr (if_pos (by simp [hEnabled, hLow, hIntact, hSupply]))
  case wireBreakClear => exact fun s input hBroken => Out.next_congr (if_pos hBroken)
  case supply => exact fun s group mv => rfl
  case levelFall =>
    intro s group l t hFalling hPassed
    show execSupplyLevelFall group s = _
    simp only [execSupplyLevelFall, hFalling, hPassed, if_true]
  case levelRise =>
    intro s group l t hRising hPassed
    show execSupplyLevelRise group s = _
    simp only [execSupplyLevelRise, hRising, hPassed, if_true]
  case fioFrame =>
    refine fun s die crcOk hPowered hOn hCrc => ?_
    have hGuard := Bool.or_eq_false_iff.mpr ⟨hPowered, congrArg not hOn⟩
    exact Out.next_congr ((if_neg (Bool.eq_false_iff.mp hGuard)).trans (if_neg (by simp [hCrc])))
  case badFioFrame =>
    refine fun s die crcOk hPowered hOn hCrc => ?_
    have hGuard := Bool.or_eq_false_iff.mpr ⟨hPowered, congrArg not hOn⟩
    exact Out.next_congr ((if_neg (Bool.eq_false_iff.mp hGuard)).trans (if_pos (congrArg not hCrc)))
  case fioReport => exact fun s die r hPowered hOn => Out.next_congr (if_neg (by simp [hPowered, hOn]))
  case fioStale => exact fun s die hOver => Out.next_congr (if_pos hOver)
  case fioHeartbeat => exact fun s die hPowered hHeard hOver => Out.next_congr (if_neg (by simp [hPowered, hHeard, hOver]))
  case safetyFrame => exact fun s die valid hValid hPowered => Out.next_congr (if_neg (by simp [hValid, hPowered]))
  case safetyTimeout => exact fun s die hOver => Out.next_congr (if_pos hOver)

/-- FAB_PORT's five checks pass where the port and the action exist and the port is in a state that the action takes (R541, R625, R668). -/
theorem fabPort_checks_pass {s : State} {p : Nat} {action : Byte} {disabled inMask bench : Bool}
    (hPort : p ≤ 3) (hAction : action.toNat ≤ 3) (hOff : ¬ (action == 0 && disabled) = true)
    (hOn : ¬ (action == 1 && (!disabled || !inMask)) = true) (hBench : ¬ (action == 2 && bench) = true)
    (hRetrain : ¬ (action == 3 && !s.fabEnabled p) = true) :
    ∀ x ∈ [(decide (3 < p) || decide (3 < action.toNat), E.range), (action == 0 && disabled, E.state),
      (action == 1 && (!disabled || !inMask), E.state), (action == 2 && bench, E.state), (action == 3 && !s.fabEnabled p, E.state)],
      x.1 = false := by
  simpa [hPort, hAction] using And.intro hOff (And.intro hOn (And.intro hBench hRetrain))

/-- Settles O38: FAB_PORT passes its checks and then acts by the code of the action; a TRAIN block and a delay response come to the
branch of the clause through guards that the premises settle one by one. -/
theorem fabricPortActs : Obligations.FabricPortActs := by
  unfold Obligations.FabricPortActs
  refine ⟨?portOff, ?trainingStart, ?calDone, ?blockLock, ?badTrainBlock, ?trainTimeout, ?retry, ?benchEnd, ?delayReqSend, ?delayReqRx,
    ?delayRespOfLink, ?delayFail, ?portOn, ?trainedBlock, ?trainBlock, ?delayRespRepeats⟩
  case portOff =>
    exact fun s ref port action hQueued hPort hAction hOff hOn hBench hRetrain hCode => Out.next_congr
      ((State.execCmd_of_queuedFor _ hQueued).trans ((State.checked_of _ _ _ _
        (fabPort_checks_pass hPort hAction hOff hOn hBench hRetrain)).trans (by simp only [hCode])))
  case portOn =>
    exact fun s ref port action hQueued hPort hAction hOff hOn hBench hRetrain hCode => Out.next_congr
      ((State.execCmd_of_queuedFor _ hQueued).trans ((State.checked_of _ _ _ _
        (fabPort_checks_pass hPort hAction hOff hOn hBench hRetrain)).trans (by simp only [hCode])))
  case trainingStart => exact fun s port hPassed => Out.next_congr (if_pos hPassed)
  case calDone => exact fun s port txLat rxLat hCal => Out.next_congr (if_pos (by simp [hCal]))
  case blockLock => exact fun s port hTraining => Out.next_congr (if_pos hTraining)
  case badTrainBlock =>
    exact fun s port seen half sender uid b6 hDown hTraining hLocked hKind => Out.next_congr ((if_neg (by simp [hDown])).trans
      ((if_neg (by simp [hTraining, hLocked])).trans (if_pos (bne_iff_ne.mpr hKind))))
  case trainedBlock =>
    exact fun s port seen half sender uid b6 hDown hTraining hLocked hKind hOwn hTheirs => Out.next_congr
      ((if_neg (by simp [hDown])).trans ((if_neg (by simp [hTraining, hLocked])).trans
        ((if_neg (by simp [hKind])).trans (if_pos (Bool.and_eq_true_iff.mpr ⟨hOwn, hTheirs⟩)))))
  case trainBlock =>
    exact fun s port seen half sender uid b6 hDown hTraining hLocked hKind hNotYet => Out.next_congr
      ((if_neg (by simp [hDown])).trans ((if_neg (by simp [hTraining, hLocked])).trans
        ((if_neg (by simp [hKind])).trans (if_neg hNotYet))))
  case trainTimeout => exact fun s port hTraining hOver => Out.next_congr (if_pos (by simp [hTraining, hOver]))
  case retry =>
    intro s port t hFrom hPassed
    show execPortRetry port s = _
    simp only [execPortRetry, hFrom, hPassed, if_true]
  case benchEnd =>
    intro s port f hBench t hFrom hOver
    show execBenchEnd port s = _
    simp only [execBenchEnd, f, hBench, hFrom, hOver, if_true]
  case delayReqSend => exact fun s port tx hDue => Out.next_congr (if_pos hDue)
  case delayReqRx => exact fun s port n rx cyc tx hMeasures => Out.next_congr (if_pos hMeasures)
  case delayRespOfLink =>
    refine fun s port n t2 t3 rx m t1 hExchange hNumber hMeasures hLinked => ?_
    show execDelayRespRx port n t2 t3 rx s = _
    simp only [execDelayRespRx, hExchange]
    exact Out.next_congr ((if_neg (by simp [hNumber, hMeasures])).trans (if_pos hLinked))
  case delayRespRepeats =>
    refine fun s port n t2 t3 rx m t1 hExchange hNumber hMeasures hDown hFull hBad hFirst => ?_
    show execDelayRespRx port n t2 t3 rx s = _
    simp only [execDelayRespRx, hExchange]
    exact Out.next_congr ((if_neg (by simp [hNumber, hMeasures])).trans ((if_neg (by simp [hDown])).trans
      ((if_neg (not_lt.mpr hFull)).trans ((if_neg (by simp [hBad])).trans (if_pos hFirst)))))
  case delayFail => exact fun s port hOver => Out.next_congr (if_pos hOver)

end Sys2Proof.Machine
end

section
/-! The safety island and its links (R734 to R767). -/

namespace Sys2Proof.Machine

/-- Settles O44: a command runs where it is queued, and acts in the branch of its premises; the outcome of a test is its operand. -/
theorem safetyIslandActs : Obligations.SafetyIslandActs := by
  unfold Obligations.SafetyIslandActs
  refine ⟨?configLoad, ?configRead, ?commission, ?badCommission, ?ack, ?supplyGood, ?selftestDone, ?delivery, ?internalFault,
    ?selftestFailed, ?selftestPassed, ?oscOutside, ?oscWithin⟩
  case configLoad =>
    refine fun s ref image hQueued c hParse hOff hState => Out.next_congr ((State.execCmd_of_queuedFor _ hQueued).trans ?_)
    simp only [hParse]
    exact if_neg (by rw [hOff, hState]; decide)
  case configRead => exact fun s ref hQueued => Out.next_congr (State.execCmd_of_queuedFor _ hQueued)
  case commission =>
    refine fun s ref value hQueued hState hLoaded hCheck => Out.next_congr ((State.execCmd_of_queuedFor _ hQueued).trans ?_)
    exact (if_neg (by simp [hState, hLoaded])).trans (if_neg (not_not.mpr hCheck))
  case badCommission =>
    refine fun s ref value hQueued hState hLoaded hCheck => Out.next_congr ((State.execCmd_of_queuedFor _ hQueued).trans ?_)
    exact (if_neg (by simp [hState, hLoaded])).trans (if_pos hCheck)
  case ack =>
    exact fun s ref mask hQueued hRuns => Out.next_congr ((State.execCmd_of_queuedFor _ hQueued).trans (if_neg (by simp [hRuns])))
  case supplyGood => exact fun s => rfl
  case selftestDone => exact fun s hStart => Out.next_congr (if_pos (beq_iff_eq.mpr hStart))
  case delivery =>
    refine fun s hWaits c hParse hConfirmed => Out.next_congr ((if_neg (by simp [hWaits])).trans ?_)
    simp only [hParse]
    exact if_pos hConfirmed
  case internalFault => exact fun s f => by cases f <;> rfl
  case selftestFailed => rintro s _ rfl; rfl
  case selftestPassed => rintro s _ rfl; rfl
  case oscOutside => rintro s _ rfl; rfl
  case oscWithin => rintro s _ rfl; rfl

/-- Settles O46: a safe frame of a known connection and of good form is either the second copy of its number, and ends the pair,
or the first, and is held (R759). -/
theorem safetyLinkActs : Obligations.SafetyLinkActs := by
  unfold Obligations.SafetyLinkActs
  refine ⟨?unknownFrame, ?secondFrame, ?firstFrame, ?window, ?watchdog, ?pairSend, ?coreReport, ?coreTimeout, ?safetyReport⟩
  case unknownFrame =>
    refine fun s bytes hRuns hNone => Out.next_congr ((if_neg (by simp [hRuns])).trans ?_)
    simp only [hNone]
  case secondFrame =>
    refine fun s bytes hRuns e hConn hGood hAhead hNew h hHeld hSame => Out.next_congr ((if_neg (by simp [hRuns])).trans ?_)
    simp only [hConn, hGood]
    refine (if_neg (fun h => (Bool.or_eq_true_iff.mp h).elim hAhead (Bool.eq_false_iff.mp hNew))).trans ?_
    simp only [hHeld]
    exact if_pos (beq_iff_eq.mpr hSame)
  case firstFrame =>
    refine fun s bytes hRuns e hConn hGood hAhead hNew hHeld => Out.next_congr ((if_neg (by simp [hRuns])).trans ?_)
    simp only [hConn, hGood]
    refine (if_neg (fun h => (Bool.or_eq_true_iff.mp h).elim hAhead (Bool.eq_false_iff.mp hNew))).trans ?_
    simp only [hHeld]
  case window =>
    intro s conn c cfg hConn hRuns
    show execSafeWindowExpiry conn s = _
    simp only [execSafeWindowExpiry, c, hConn, hRuns, if_true]
  case watchdog =>
    intro s conn c cfg hConn hRuns
    show execSafeWatchdogExpiry conn s = _
    simp only [execSafeWatchdogExpiry, c, hConn, hRuns, if_true]
  case pairSend =>
    refine fun s conn cfg hConn hRuns hSending hDue => ?_
    show execSafePairSend conn s = _
    simp only [execSafePairSend, hConn]
    exact Out.next_congr (if_pos (Bool.and_eq_true_iff.mpr ⟨Bool.and_eq_true_iff.mpr ⟨hRuns, beq_iff_eq.mpr hSending⟩, hDue⟩))
  case coreReport => exact fun s brakes => rfl
  case coreTimeout => exact fun s hOver => Out.next_congr (if_pos hOver)
  case safetyReport => exact fun s group cat count counter hReq => Out.next_congr (if_pos hReq)

end Sys2Proof.Machine
end

section
/-! Power states, supplies and resets (R770 to R781, R809, R822). -/

namespace Sys2Proof.Machine

/-- Settles O47: each premise settles one guard, in the order in which the command asks them. -/
theorem powerStateActs : Obligations.PowerStateActs := by
  unfold Obligations.PowerStateActs
  refine ⟨?enterRamble, ?enterOther, ?entryComplete, ?exitComplete, ?wakeDuringEntry, ?wakeHamper, ?brownout, ?vinReturn, ?vstbyLoss,
    ?suppliesGood, ?extReset, ?extResetRelease, ?thermalTrip, ?thermalTripRelease, ?caseTemp⟩
  case enterRamble =>
    exact fun s ref state hQueued hRange hSteady hOther hRamble hCool => Out.next_congr
      ((State.execCmd_of_queuedFor _ hQueued).trans ((if_neg (not_lt.mpr hRange)).trans ((if_neg (by simp [hSteady])).trans
        ((if_neg hOther).trans ((if_pos hRamble).trans (if_neg (by simp [hCool])))))))
  case enterOther =>
    exact fun s ref state hQueued hRange hSteady hOther hNotRamble hAxes hSched => Out.next_congr
      ((State.execCmd_of_queuedFor _ hQueued).trans ((if_neg (not_lt.mpr hRange)).trans ((if_neg (by simp [hSteady])).trans
        ((if_neg hOther).trans ((if_neg hNotRamble).trans (if_neg (by simpa [hAxes] using hSched)))))))
  case entryComplete =>
    refine fun s c hChange hEntry hNoWake => ?_
    show execPowerEntryComplete s = _
    simp only [execPowerEntryComplete, hChange]
    exact Out.next_congr ((if_neg (by simp [hEntry])).trans (if_neg (Bool.eq_false_iff.mp hNoWake)))
  case exitComplete =>
    refine fun s c hChange hExit hBooted => ?_
    show execPowerExitComplete s = _
    simp only [execPowerExitComplete, hChange]
    exact Out.next_congr (if_neg (by simpa [hExit] using hBooted))
  case wakeDuringEntry =>
    intro s c hChange hEntry
    show execPwrWake s = _
    simp only [execPwrWake, hChange, hEntry, if_true]
  case wakeHamper =>
    intro s hChange hHamper hSupplied
    show execPwrWake s = _
    simp only [execPwrWake, hChange, hHamper, hSupplied, Bool.false_eq_true, if_false]
  case brownout => exact fun s hSupplied hGood => Out.next_congr ((if_neg (by simp [hSupplied])).trans (if_neg (by simp [hGood])))
  case vinReturn => exact fun s hBrownout => Out.next_congr (if_neg (by simp [hBrownout]))
  case vstbyLoss => exact fun s hSupplied => Out.next_congr (if_neg (Bool.eq_false_iff.mp hSupplied))
  case suppliesGood => exact fun s hBad hSupplied => Out.next_congr (if_neg (by simp [hBad, hSupplied]))
  case extReset => exact fun s hFree hSupplied => Out.next_congr (if_neg (by simp [hFree, hSupplied]))
  case extResetRelease => exact fun s => rfl
  case thermalTrip => exact fun s hFree hSupplied => Out.next_congr (if_neg (by simp [hFree, hSupplied]))
  case thermalTripRelease => exact fun s => rfl
  case caseTemp => exact fun s tenths hPowered hCool => Out.next_congr ((if_neg (by simp [hPowered])).trans (if_pos hCool))

end Sys2Proof.Machine
end

section
/-! What every step keeps, and the state it starts from (R67, R82, R171, R600, R696, R765; log entries 1, 2). -/

namespace Sys2Proof.Machine

/-- Settles O57: the maps of the reset state are empty, so a read gives the value a record has by default. -/
theorem resetValues : Obligations.ResetValues :=
  ⟨rfl, rfl, rfl, rfl, fun _ => rfl, fun _ => ⟨rfl, rfl, rfl, rfl⟩, fun _ => rfl, fun _ => rfl, rfl⟩

/-- Settles O58: no counter, memory, engine or arbiter of the reset state has an entry. -/
theorem resetIsSound : Obligations.ResetIsSound := rfl

variable {sn : Bool} {qs : List Instr} {s : State}

/-- Every command keeps the queue and, where asked, the soundness: each by the law of its meaning. (In the two arms with `:)` the law's
type is fixed before it is compared with the goal: the comparison would unfold the meaning otherwise.) -/
theorem exec_kept (c : Instr) (hs : Kept sn qs s) : nextHas (Kept sn qs) (exec c s) :=
  match c with
  | .updatePoint axis => execUpdatePoint_kept axis hs
  | .shuntSample axis => execShuntSample_kept axis hs
  | .shuntResult axis code => execShuntResult_kept axis code hs
  | .tdcStamp path cycles frac => execTdcStamp_kept path cycles frac hs
  | .tdcCalibration => execTdcCalibration_kept hs
  | .axisRelease axis hook => execAxisRelease_kept axis hook hs
  | .segmentStarvedStop axis => execSegmentStarvedStop_kept axis hs
  | .budgetOverrun axis => execBudgetOverrun_kept axis hs
  | .dutyCommit axis => execDutyCommit_kept axis hs
  | .stoLineAssert group => execStoLineAssert_kept group hs
  | .timeSourceTimeout => execTimeSourceTimeout_kept hs
  | .timeStepApply => execTimeStepApply_kept hs
  | .xtSample => execXtSample_kept hs
  | .quadEdge axis lines span => execQuadEdge_kept axis lines span hs
  | .indexPulse axis => execIndexPulse_kept axis hs
  | .serialReadStart axis lineHigh => execSerialReadStart_kept axis lineHigh hs
  | .serialWordDecoded axis word => execSerialWordDecoded_kept axis word hs
  | .lspWordTimeout axis => execLspWordTimeout_kept axis hs
  | .lspUnsolicitedChar axis => execLspUnsolicitedChar_kept axis hs
  | .hallEdge aux lines => execHallEdge_kept aux lines hs
  | .zeroSpeed axis => execZeroSpeed_kept axis hs
  | .freeze axis => execFreeze_kept axis hs
  | .mac le eob a m n => execMac_kept le eob a m n hs
  | .msu le eob a m n => execMsu_kept le eob a m n hs
  | .mul le eob a m n => execMul_kept le eob a m n hs
  | .mac2 le eob a m n b p q => execMac2_kept le eob a m n b p q hs
  | .macus le eob a m n => execMacus_kept le eob a m n hs
  | .clr le eob a sh => execClr_kept le eob a sh hs
  | .ld le eob d b off => execLd_kept le eob d b off hs
  | .ldq le eob d b off => execLdq_kept le eob d b off hs
  | .st le eob src b imm => execSt_kept le eob src b imm hs
  | .stq le eob src b imm => execStq_kept le eob src b imm hs
  | .accld le eob a b off => execAccld_kept le eob a b off hs
  | .accst le eob a b imm => execAccst_kept le eob a b imm hs
  | .bld le eob l b n => execBld_kept le eob l b n hs
  | .bldDone le err => execBldDone_kept le err hs
  | .leAdd le eob d m n => execLeAdd_kept le eob d m n hs
  | .leSub le eob d m n => execLeSub_kept le eob d m n hs
  | .leAddi le eob d m imm => execLeAddi_kept le eob d m imm hs
  | .leAnd le eob d m n => execLeAnd_kept le eob d m n hs
  | .leOr le eob d m n => execLeOr_kept le eob d m n hs
  | .leXor le eob d m n => execLeXor_kept le eob d m n hs
  | .leShl le eob d m n => execLeShl_kept le eob d m n hs
  | .leShr le eob d m n => execLeShr_kept le eob d m n hs
  | .leSra le eob d m n => execLeSra_kept le eob d m n hs
  | .leLi le eob d imm => execLeLi_kept le eob d imm hs
  | .leLui le eob d imm => execLeLui_kept le eob d imm hs
  | .leCmp le eob d m n => execLeCmp_kept le eob d m n hs
  | .satw le eob d m width => execSatw_kept le eob d m width hs
  | .ext le eob d a sh => execExt_kept le eob d a sh hs
  | .maxi le eob d src => execMaxi_kept le eob d src hs
  | .mini le eob d src => execMini_kept le eob d src hs
  | .rcp le eob d src => execRcp_kept le eob d src hs
  | .rsq le eob d src => execRsq_kept le eob d src hs
  | .leLoop le eob level count endOff => execLeLoop_kept le eob level count endOff hs
  | .br le eob off => execBr_kept le eob off hs
  | .bz le eob src off => execBz_kept le eob src off hs
  | .bnz le eob src off => execBnz_kept le eob src off hs
  | .blt le eob src t off => execBlt_kept le eob src t off hs
  | .ret le eob => execRet_kept le eob hs
  | .reti le eob => execReti_kept le eob hs
  | .waitb le eob => execWaitb_kept le eob hs
  | .mfc le eob d reg => execMfc_kept le eob d reg hs
  | .mtc le eob reg src => execMtc_kept le eob reg src hs
  | .clrf le eob mask => execClrf_kept le eob mask hs
  | .nop le eob => execNop_kept le eob hs
  | .svcRequest le => execSvcRequest_kept le hs
  | .interruptEntry le => execInterruptEntry_kept le hs
  | .eccScrub le find => execEccScrub_kept le find hs
  | .gateFaultInput ax active => execGateFaultInput_kept ax active hs
  | .prechargeDone axis => execPrechargeDone_kept axis hs
  | .offsetCalibrationDone ax codes => execOffsetCalibrationDone_kept ax codes hs
  | .enableTimeout axis => execEnableTimeout_kept axis hs
  | .standstill axis => execStandstill_kept axis hs
  | .stopTimeout axis => execStopTimeout_kept axis hs
  | .dcLinkConversion input code => execDcLinkConversion_kept input code hs
  | .observerHoldTimeout ax => execObserverHoldTimeout_kept ax hs
  | .listenEnd ax => execListenEnd_kept ax hs
  | .polarityTest axis posPeak negPeak => execPolarityTest_kept axis posPeak negPeak hs
  | .auxCurrentSample aux code1 code2 => execAuxCurrentSample_kept aux code1 code2 hs
  | .auxAlignDone aux => execAuxAlignDone_kept aux hs
  | .auxStartTimeout aux => execAuxStartTimeout_kept aux hs
  | .auxRetryDelay aux => execAuxRetryDelay_kept aux hs
  | .auxRetryReset aux => execAuxRetryReset_kept aux hs
  | .trailPlanned ep => execTrailPlanned_kept ep hs
  | .trailChangeInstant ep => execTrailChangeInstant_kept ep hs
  | .plannerSegmentWrite ep segs => execPlannerSegmentWrite_kept ep segs hs
  | .waymarkPassed ep => execWaymarkPassed_kept ep hs
  | .groupSegmentSend group member segs => execGroupSegmentSend_kept group member segs hs
  | .convoyPublish cp => execConvoyPublish_kept cp hs
  | .convoyBoundaryPublish cp tRef => execConvoyBoundaryPublish_kept cp tRef hs
  | .convoySupersede cp tRef => execConvoySupersede_kept cp tRef hs
  | .convoyFrameRx f pub => execConvoyFrameRx_kept f pub hs
  | .convoyLocalDelivery f pub => execConvoyLocalDelivery_kept f pub hs
  | .convoyRepublish cp pub => execConvoyRepublish_kept cp pub hs
  | .masterStale f => execMasterStale_kept f hs
  | .convoyJoinInstant f => execConvoyJoinInstant_kept f hs
  | .convoyRegisterTimeout cp => execConvoyRegisterTimeout_kept cp hs
  | .regMark f stamp => execRegMark_kept f stamp hs
  | .remoteSetpointSend na => execRemoteSetpointSend_kept na hs
  | .remoteFeedbackRx na fb => execRemoteFeedbackRx_kept na fb hs
  | .remoteTimeout na => execRemoteTimeout_kept na hs
  | .remoteEnableTimeout na => execRemoteEnableTimeout_kept na hs
  | .stepperRelease ch => execStepperRelease_kept ch hs
  | .microstep ch => execMicrostep_kept ch hs
  | .chopperTrip ch coilB => execChopperTrip_kept ch coilB hs
  | .chopperToffMax ch coilB => execChopperToffMax_kept ch coilB hs
  | .stepperCurrentConversion ch coilB code => execStepperCurrentConversion_kept ch coilB code hs
  | .stepperPwmPeriod ch coilB => execStepperPwmPeriod_kept ch coilB hs
  | .stepperIdleTimeout ch => execStepperIdleTimeout_kept ch hs
  | .stepperEnableRampDone ch => execStepperEnableRampDone_kept ch hs
  | .captureFiring cc cond stamp => execCaptureFiring_kept cc cond stamp hs
  | .captureTimeCondition cc cond => execCaptureTimeCondition_kept cc cond hs
  | .captureTrigger cc => execCaptureTrigger_kept cc hs
  | .captureSample cc at_ rawCode => execCaptureSample_kept cc at_ rawCode hs
  | .captureRearm cc => execCaptureRearm_kept cc hs
  | .latchRecord cc => execLatchRecord_kept cc hs
  | .basketSpill => execBasketSpill_kept hs
  | .mbxDoorbell m tail => execMbxDoorbell_kept m tail hs
  | .mbxRspHeadWrite m head => execMbxRspHeadWrite_kept m head hs
  | .mbxEnableSet m ctrl => execMbxEnableSet_kept m ctrl hs
  | .mbxEnableClear m ctrl => execMbxEnableClear_kept m ctrl hs
  | .mbxEvtHeadWrite head => execMbxEvtHeadWrite_kept head hs
  | .mbxEvtEnable ctrl => execMbxEvtEnable_kept ctrl hs
  | .supFtSnapLoRead => execSupFtSnapLoRead_kept hs
  | .supFaultWrite mask => execSupFaultWrite_kept mask hs
  | .mbxBadAccess => execMbxBadAccess_kept hs
  | .registerWrite reg v => execRegisterWrite_kept reg v hs
  | .descriptorFetch m d => execDescriptorFetch_kept m d hs
  | .responseWrite m => execResponseWrite_kept m hs
  | .ringDmaFail m => execRingDmaFail_kept m hs
  | .msixModerationEnd source => execMsixModerationEnd_kept source hs
  | .udpHello port src bytes => execUdpHello_kept port src bytes hs
  | .udpCommand port src bytes => execUdpCommand_kept port src bytes hs
  | .halfOpenTimeout sessionId => execHalfOpenTimeout_kept sessionId hs
  | .sessionIdleTimeout m => execSessionIdleTimeout_kept m hs
  | .forwardedCommandRx src sess d => execForwardedCommandRx_kept src sess d hs
  | .forwardedResponseRx m tag status data tDone => execForwardedResponseRx_kept m tag status data tDone hs
  | .forwardTimeout m tag => execForwardTimeout_kept m tag hs
  | .pcieLinkDown => execPcieLinkDown_kept hs
  | .epochBoundary => execEpochBoundary_kept hs
  | .commitApply => execCommitApply_kept hs
  | .commitItemsMsg p sess ftC items => execCommitItemsMsg_kept p sess ftC items hs
  | .commitReadyMsg num part status index => execCommitReadyMsg_kept num part status index hs
  | .commitDecisionMsg p => execCommitDecisionMsg_kept p hs
  | .commitAbortMsg p => execCommitAbortMsg_kept p hs
  | .commitAckMsg num part => execCommitAckMsg_kept num part hs
  | .commitAppliedMsg num part => execCommitAppliedMsg_kept num part hs
  | .prepareReadyDeadline num => execPrepareReadyDeadline_kept num hs
  | .prepareAckDeadline num => execPrepareAckDeadline_kept num hs
  | .prepareApply p => execPrepareApply_kept p hs
  | .prepareDiscardTimeout p => execPrepareDiscardTimeout_kept p hs
  | .lockRequestMsg sess eps wait => execLockRequestMsg_kept sess eps wait hs
  | .lockGrantMsg m => execLockGrantMsg_kept m hs
  | .lockRefusalMsg m circle => execLockRefusalMsg_kept m circle hs
  | .lockReleaseMsg sess eps => execLockReleaseMsg_kept sess eps hs
  | .lockGraphQuery req on owner => execLockGraphQuery_kept req on owner hs
  | .lockGraphAnswer sess circle => execLockGraphAnswer_kept sess circle hs
  | .lockWaitTimeout m => execLockWaitTimeout_kept m hs
  | .cmdRecordExpiry ref => execCmdRecordExpiry_kept ref hs
  | .sysIdentify ref => execSysIdentify_kept ref hs
  | .sysStatus ref => execSysStatus_kept ref hs
  | .cmdStatus ref dev tag => execCmdStatus_kept ref dev tag hs
  | .cmdAbort ref dev tag => execCmdAbort_kept ref dev tag hs
  | .interruptedList ref => execInterruptedList_kept ref hs
  | .snapRead ref clear items => execSnapRead_kept ref clear items hs
  | .snapAt ref clear ft items => execSnapAt_kept ref clear ft items hs
  | .stageWrite ref items => execStageWrite_kept ref items hs
  | .commit ref => execCommit_kept ref hs
  | .commitAt ref ft => execCommitAt_kept ref ft hs
  | .discard ref => execDiscard_kept ref hs
  | .prepare ref ftC => execPrepare_kept ref ftC hs
  | .paramImport job offset items => execParamImport_kept job offset items hs
  | .lock ref wait eps => execLock_kept ref wait eps hs
  | .unlock ref eps => execUnlock_kept ref eps hs
  | .sessionOpen ref tags => execSessionOpen_kept ref tags hs
  | .sessionClose ref => execSessionClose_kept ref hs
  | .keySet ref keyId key => execKeySet_kept ref keyId key hs
  | .timeStatus ref => execTimeStatus_kept ref hs
  | .timeStep ref mode ns frac => execTimeStep_kept ref mode ns frac hs
  | .axisEnable ref ep => execAxisEnable_kept ref ep hs
  | .axisDisable ref ep cat => execAxisDisable_kept ref ep cat hs
  | .axisMigrate ref ep engine ft => execAxisMigrate_kept ref ep engine ft hs
  | .kernelLoad ref image => execKernelLoad_kept ref image hs
  | .kernelUnload ref handle => execKernelUnload_kept ref handle hs
  | .trailAppend ref ep moves => execTrailAppend_kept ref ep moves hs
  | .trailCancel ref ep mode => execTrailCancel_kept ref ep mode hs
  | .trailLimits ref ep scope mask aMax dMax jerk meets => execTrailLimits_kept ref ep scope mask aMax dMax jerk meets hs
  | .stop ref ep cat => execStop_kept ref ep cat hs
  | .home ref ep => execHome_kept ref ep hs
  | .posSet ref ep pos => execPosSet_kept ref ep pos hs
  | .camLoad job ep interp first total pts => execCamLoad_kept job ep interp first total pts hs
  | .convoyJoin ref ep j => execConvoyJoin_kept ref ep j hs
  | .convoyLeave ref ep mode => execConvoyLeave_kept ref ep mode hs
  | .phaseMove ref ep dist v a j => execPhaseMove_kept ref ep dist v a j hs
  | .basketArm ref ep count => execBasketArm_kept ref ep count hs
  | .basketList ref ep => execBasketList_kept ref ep hs
  | .basketRead job id offset len => execBasketRead_kept job id offset len hs
  | .basketRelease ref id => execBasketRelease_kept ref id hs
  | .latchRead ref ep max => execLatchRead_kept ref ep max hs
  | .capTrigger ref ep => execCapTrigger_kept ref ep hs
  | .basketDisarm ref ep => execBasketDisarm_kept ref ep hs
  | .fioOutSet ref mask values => execFioOutSet_kept ref mask values hs
  | .fioOutAt ref mask values ft => execFioOutAt_kept ref mask values ft hs
  | .fabPrefer ref dev => execFabPrefer_kept ref dev hs
  | .fabPort ref port action => execFabPort_kept ref port action hs
  | .fabTopology ref => execFabTopology_kept ref hs
  | .canSend ref ep buf fr at_ => execCanSend_kept ref ep buf fr at_ hs
  | .canCancel ref ep buf => execCanCancel_kept ref ep buf hs
  | .canRead ref ep max => execCanRead_kept ref ep max hs
  | .safConfigLoad ref image => execSafConfigLoad_kept ref image hs
  | .safConfigRead ref => execSafConfigRead_kept ref hs
  | .safCommission ref value => execSafCommission_kept ref value hs
  | .safAck ref mask => execSafAck_kept ref mask hs
  | .pwrEnter ref state => execPwrEnter_kept ref state hs
  | .pwrDomain ref domain on => execPwrDomain_kept ref domain on hs
  | .engineRestart ref engine => execEngineRestart_kept ref engine hs
  | .fwWrite job bank offset total data => execFwWrite_kept job bank offset total data hs
  | .fwActivate ref bank ft => execFwActivate_kept ref bank ft hs
  | .cfgSave ref flashFault => execCfgSave_kept ref flashFault hs
  | .threadLoad ref image => execThreadLoad_kept ref image hs
  | .threadStart ref handle prio ceiling ageing => execThreadStart_kept ref handle prio ceiling ageing hs
  | .threadCancel ref id => execThreadCancel_kept ref id hs
  | .threadPrio ref id prio ceiling => execThreadPrio_kept ref id prio ceiling hs
  | .logRead job first max => execLogRead_kept job first max hs
  | .logMark ref data => execLogMark_kept ref data hs
  | .threadDispatch => execThreadDispatch_kept hs
  | .ageingRaise id => execAgeingRaise_kept id hs
  | .schedulerTick => execSchedulerTick_kept hs
  | .threadTrap core mcause mtval => execThreadTrap_kept core mcause mtval hs
  | .schYield core => execSchYield_kept core hs
  | .schSleep core ns => execSchSleep_kept core ns hs
  | .schSleepUntil core wake => execSchSleepUntil_kept core wake hs
  | .schWait core event timeout => execSchWait_kept core event timeout hs
  | .schSignal core event count => execSchSignal_kept core event count hs
  | .schNow core => execSchNow_kept core hs
  | .schExit core => execSchExit_kept core hs
  | .schCallInvalid core a7 => execSchCallInvalid_kept core a7 hs
  | .arbitrationGrant arb raised => execArbitrationGrant_kept arb raised hs
  | .grantCutoff arb => execGrantCutoff_kept arb hs
  | .waitGraphRebuild edges => execWaitGraphRebuild_kept edges hs
  | .portTrainingStart port => execPortTrainingStart_kept port hs
  | .portCalDone port txLat rxLat => execPortCalDone_kept port txLat rxLat hs
  | .blockLock port => execBlockLock_kept port hs
  | .trainBlockRx port seen half sender uid b6 => execTrainBlockRx_kept port seen half sender uid b6 hs
  | .trainTimeout port => execTrainTimeout_kept port hs
  | .portRetry port => execPortRetry_kept port hs
  | .delayReqSend port tx => execDelayReqSend_kept port tx hs
  | .delayReqRx port n rx cyc tx => execDelayReqRx_kept port n rx cyc tx hs
  | .delayRespRx port n t2 t3 rx => execDelayRespRx_kept port n t2 t3 rx hs
  | .linkSignalLost port => execLinkSignalLost_kept port hs
  | .blockLockLost port => execBlockLockLost_kept port hs
  | .invalidSyncHeader port => execInvalidSyncHeader_kept port hs
  | .controlBlockTimeout port => execControlBlockTimeout_kept port hs
  | .delayExchangeFail port => execDelayExchangeFail_kept port hs
  | .idleBlockRx port pair freedA freedB => execIdleBlockRx_kept port pair freedA freedB hs
  | .fragBlockRx port frag => execFragBlockRx_kept port frag hs
  | .abortBlockRx port vc stream => execAbortBlockRx_kept port vc stream hs
  | .resyncBlockRx port => execResyncBlockRx_kept port hs
  | .rmarkBlockRx port pair sentA sentB => execRmarkBlockRx_kept port pair sentA sentB hs
  | .controlBlockCrcError port => execControlBlockCrcError_kept port hs
  | .benchEnd port => execBenchEnd_kept port hs
  | .timeFrameSend port cyc tx => execTimeFrameSend_kept port cyc tx hs
  | .timeFrameRx port m rx => execTimeFrameRx_kept port m rx hs
  | .linkDownFrameRx port uid lostPort cause gen => execLinkDownFrameRx_kept port uid lostPort cause gen hs
  | .repairApply lostUid lostPort => execRepairApply_kept lostUid lostPort hs
  | .generationRecompute topo => execGenerationRecompute_kept topo hs
  | .discoverSend port => execDiscoverSend_kept port hs
  | .discoverRx port d => execDiscoverRx_kept port d hs
  | .discoverExpiry port => execDiscoverExpiry_kept port hs
  | .reportSend => execReportSend_kept hs
  | .reportRx port piece => execReportRx_kept port piece hs
  | .assignRx port l => execAssignRx_kept port l hs
  | .tableRx port gen d => execTableRx_kept port gen d hs
  | .tableApply => execTableApply_kept hs
  | .registerRx src op convoy fa => execRegisterRx_kept src op convoy fa hs
  | .soloTimeout => execSoloTimeout_kept hs
  | .bulkRx src ident offset data => execBulkRx_kept src ident offset data hs
  | .bulkTimeout src ident => execBulkTimeout_kept src ident hs
  | .relayRx src ethPort returned addr udp data => execRelayRx_kept src ethPort returned addr udp data hs
  | .relayExpiry addr udp => execRelayExpiry_kept addr udp hs
  | .ethFrameInvalid port bad => execEthFrameInvalid_kept port bad hs
  | .pauseFrameRx port => execPauseFrameRx_kept port hs
  | .arpRequestRx port target sender mac => execArpRequestRx_kept port target sender mac hs
  | .arpReplyRx port sender mac => execArpReplyRx_kept port sender mac hs
  | .icmpEchoRx port sender data => execIcmpEchoRx_kept port sender data hs
  | .arpEntryExpiry port addr => execArpEntryExpiry_kept port addr hs
  | .arpResolveTimeout port addr => execArpResolveTimeout_kept port addr hs
  | .fragReassemblyTimeout port buf => execFragReassemblyTimeout_kept port buf hs
  | .ptpSyncRx port h twoStep origin corr rx => execPtpSyncRx_kept port h twoStep origin corr rx hs
  | .ptpFollowUpRx port h origin corr => execPtpFollowUpRx_kept port h origin corr hs
  | .ptpPdelayReqRx port h rx cyc tx => execPtpPdelayReqRx_kept port h rx cyc tx hs
  | .ptpPdelayRespRx port h twoStep t2 corr rx => execPtpPdelayRespRx_kept port h twoStep t2 corr rx hs
  | .ptpPdelayRespFollowUpRx port h t3 corr => execPtpPdelayRespFollowUpRx_kept port h t3 corr hs
  | .ptpDelayRespRx port h rxTime corr => execPtpDelayRespRx_kept port h rxTime corr hs
  | .ptpAnnounceRx port h a => execPtpAnnounceRx_kept port h a hs
  | .ptpIgnoredRx port bad => execPtpIgnoredRx_kept port bad hs
  | .ptpAnnounceTimeout port => execPtpAnnounceTimeout_kept port hs
  | .ptpDelayReqSend port cyc tx => execPtpDelayReqSend_kept port cyc tx hs
  | .ethLinkChange port up => execEthLinkChange_kept port up hs
  | .ethFrameTx port => (execEthFrameTx_kept port hs :)
  | .ethScheduledEnqueue port na => execEthScheduledEnqueue_kept port na hs
  | .ethTxLate port queue => execEthTxLate_kept port queue hs
  | .qbvGateChange port => execQbvGateChange_kept port hs
  | .qbvConfigChange port => execQbvConfigChange_kept port hs
  | .safeFrameHandover port bytes rx => execSafeFrameHandover_kept port bytes rx hs
  | .safeFrameTx conn bytes => execSafeFrameTx_kept conn bytes hs
  | .canArbitration ch => execCanArbitration_kept ch hs
  | .canTxDone ch sof => execCanTxDone_kept ch sof hs
  | .canArbLost ch => execCanArbLost_kept ch hs
  | .canError ch err site => execCanError_kept ch err site hs
  | .canBusOffRecovery ch => execCanBusOffRecovery_kept ch hs
  | .canFrameRx ch fr remote esi sof => execCanFrameRx_kept ch fr remote esi sof hs
  | .fieldInputDebounced input level count => execFieldInputDebounced_kept input level count hs
  | .fastLatchEdge input level cycles frac => execFastLatchEdge_kept input level cycles frac hs
  | .fastLatchDebounced input level stamp => execFastLatchDebounced_kept input level stamp hs
  | .fioFrameRx die crcOk => execFioFrameRx_kept die crcOk hs
  | .fioReportRx die r => execFioReportRx_kept die r hs
  | .fioStaleTimeout die => execFioStaleTimeout_kept die hs
  | .fioHeartbeatTimeout die => execFioHeartbeatTimeout_kept die hs
  | .wireBreakSet input => execWireBreakSet_kept input hs
  | .wireBreakClear input => execWireBreakClear_kept input hs
  | .outputCurrentLimit out => execOutputCurrentLimit_kept out hs
  | .outputLimitEnd out => execOutputLimitEnd_kept out hs
  | .outputOvertemp out => execOutputOvertemp_kept out hs
  | .groupOvertemp group => execGroupOvertemp_kept group hs
  | .outputCooled out => execOutputCooled_kept out hs
  | .outputRetryReset out => execOutputRetryReset_kept out hs
  | .fioOutAtApply die => execFioOutAtApply_kept die hs
  | .supplyMeasurement group mv => execSupplyMeasurement_kept group mv hs
  | .supplyLevelFall group => execSupplyLevelFall_kept group hs
  | .supplyLevelRise group => execSupplyLevelRise_kept group hs
  | .safetyFioFrameRx die valid => execSafetyFioFrameRx_kept die valid hs
  | .safetyFioLinkTimeout die => execSafetyFioLinkTimeout_kept die hs
  | .safeCycle readback => execSafeCycle_kept readback hs
  | .releaseTest group r => execReleaseTest_kept group r hs
  | .darkPulseTest group opened closed brakeCurrents => execDarkPulseTest_kept group opened closed brakeCurrents hs
  | .darkPulseLowSide group opened closed => execDarkPulseLowSide_kept group opened closed hs
  | .safeInputChange input level => execSafeInputChange_kept input level hs
  | .safeInputTest input readsZero => execSafeInputTest_kept input readsZero hs
  | .safetyTapEdge axis lines sample => execSafetyTapEdge_kept axis lines sample hs
  | .safetyTapWord axis w => execSafetyTapWord_kept axis w hs
  | .safeFrameRx bytes => execSafeFrameRx_kept bytes hs
  | .safeWindowExpiry conn => execSafeWindowExpiry_kept conn hs
  | .safeWatchdogExpiry conn => execSafeWatchdogExpiry_kept conn hs
  | .safePairSend conn => execSafePairSend_kept conn hs
  | .coreReportRx speeds brakes => execCoreReportRx_kept speeds brakes hs
  | .coreReportTimeout => execCoreReportTimeout_kept hs
  | .safetyReportRx group report => execSafetyReportRx_kept group report hs
  | .brakeCurrentFault channel => execBrakeCurrentFault_kept channel hs
  | .safetySelftestDone => execSafetySelftestDone_kept hs
  | .safetyConfigDelivery => execSafetyConfigDelivery_kept hs
  | .safetyInternalFault f => execSafetyInternalFault_kept f hs
  | .safetyPeriodicSelftest passed => execSafetyPeriodicSelftest_kept passed hs
  | .safetyOscCheck within => execSafetyOscCheck_kept within hs
  | .pwrWake => execPwrWake_kept hs
  | .powerEntryComplete => execPowerEntryComplete_kept hs
  | .powerExitComplete => execPowerExitComplete_kept hs
  | .vin12Brownout => execVin12Brownout_kept hs
  | .vin12Return => execVin12Return_kept hs
  | .vstbyLoss => execVstbyLoss_kept hs
  | .suppliesGood => execSuppliesGood_kept hs
  | .extReset => execExtReset_kept hs
  | .thermalTrip => execThermalTrip_kept hs
  | .caseTempReading tenths => execCaseTempReading_kept tenths hs
  | .bootStage => execBootStage_kept hs
  | .supWatchdogExpiry => execSupWatchdogExpiry_kept hs
  | .supEccError => execSupEccError_kept hs
  | .supervisorRestartDone => (execSupervisorRestartDone_kept hs :)
  | .fwSwitchRestart => execFwSwitchRestart_kept hs
  | .migrationHandover axis => execMigrationHandover_kept axis hs
  | .engineRescue le => execEngineRescue_kept le hs
  | .engineGroupReady groupB => execEngineGroupReady_kept groupB hs
  | .timeTick => execTimeTick_kept hs
  | .arbitrationIdleCycle arb => execArbitrationIdleCycle_kept arb hs
  | .snapshotComplete => execSnapshotComplete_kept hs
  | .virtualAxisSample va => execVirtualAxisSample_kept va hs
  | .relayDatagramRx port addr udp data => execRelayDatagramRx_kept port addr udp data hs
  | .registerAnswerRx cp status => execRegisterAnswerRx_kept cp status hs
  | .groupSegmentRx ep segs => execGroupSegmentRx_kept ep segs hs
  | .safetySupplyGood => execSafetySupplyGood_kept hs
  | .extResetRelease => execExtResetRelease_kept hs
  | .thermalTripRelease => execThermalTripRelease_kept hs
  | .mbxEvtLostRead => execMbxEvtLostRead_kept hs
  | .lspClearErr axis => execLspClearErr_kept axis hs

/-- A step takes the front command off the queue and, where asked, keeps the soundness. -/
theorem step_kept (h : sn = true → s.sound = true) : nextHas (Kept sn s.pending.tail) (step s) := by
  unfold step
  split
  case h_1 hEmpty => exact ⟨by rw [hEmpty]; rfl, h⟩
  case h_2 c rest hFront =>
    rw [hFront]
    exact exec_kept c ⟨rfl, h⟩

/-- Settles O59: the soundness is a part of what every command keeps. -/
theorem stepKeepsSound : Obligations.StepKeepsSound := by
  intro s t hSound hStep
  have hKept := step_kept (sn := true) (fun _ => hSound)
  rw [hStep] at hKept
  exact hKept.2 rfl

end Sys2Proof.Machine
end
section
/-! Epoch boundaries, snapshots and the applying of commits (R83, R512 to R522, R611). -/

namespace Sys2Proof.Machine

/-- Settles O22: a boundary later than the last snapshot's is taken while the supervisor runs; a command runs where it is queued and its
list is good; an applying acts in the branch of its premises. -/
theorem epochActs : Obligations.EpochActs := by
  unfold Obligations.EpochActs
  refine ⟨?boundary, ?firstBoundary, ?snapRead, ?snapAt, ?complete, ?dropped, ?badState, ?applied, ?ownPrepare, ?remotePrepare⟩
  case boundary =>
    refine fun s x older hSnaps hRuns hNew => ?_
    show execEpochBoundary s = _
    simp only [execEpochBoundary, hSnaps, hRuns]
    exact Out.next_congr (if_neg (by simpa using hNew))
  case firstBoundary =>
    refine fun s hSnaps hRuns => ?_
    show execEpochBoundary s = _
    simp only [execEpochBoundary, hSnaps, hRuns]
    rfl
  case snapRead =>
    refine fun s ref clear items hQueued hGood hSome hCount => Out.next_congr ((State.execCmd_of_queuedFor _ hQueued).trans ?_)
    simp only [hGood]
    exact if_neg (by simp [hSome, hCount])
  case snapAt =>
    refine fun s ref clear ft items hQueued hGood hSome hCount hSoon =>
      Out.next_congr ((State.execCmd_of_queuedFor _ hQueued).trans ?_)
    simp only [hGood]
    exact (if_neg (by simp [hSome, hCount])).trans (if_neg (not_lt.mpr hSoon))
  case complete =>
    refine fun s x hOldest => ?_
    show execSnapshotComplete s = _
    simp only [execSnapshotComplete, hOldest]
  case dropped =>
    refine fun s c hDue hDropped => ?_
    show execCommitApply s = _
    simp only [execCommitApply, hDue, hDropped, if_true]
  case badState =>
    refine fun s c hDue hKept n hBad => ?_
    show execCommitApply s = _
    simp only [execCommitApply, hDue, hKept, Bool.false_eq_true, if_false, hBad]
  case applied =>
    refine fun s c hDue hKept hGood => ?_
    show execCommitApply s = _
    simp only [execCommitApply, hDue, hKept, Bool.false_eq_true, if_false, hGood]
  case ownPrepare =>
    refine fun s p q hPart hCommit hReady hDue hGood hOwn => ?_
    show execPrepareApply p s = _
    simp only [execPrepareApply, hPart]
    exact Out.next_congr ((if_neg (by simp [hCommit, hReady, hDue])).trans
      ((if_neg (Bool.eq_false_iff.mp hGood)).trans (if_pos hOwn)))
  case remotePrepare =>
    refine fun s p q hPart hCommit hReady hDue hGood hRemote => ?_
    show execPrepareApply p s = _
    simp only [execPrepareApply, hPart]
    exact Out.next_congr ((if_neg (by simp [hCommit, hReady, hDue])).trans
      ((if_neg (Bool.eq_false_iff.mp hGood)).trans (if_neg (Bool.eq_false_iff.mp hRemote))))

end Sys2Proof.Machine
end

section
/-! Fabric commands, repair, time frames, registrations and bulk data (R89, R91, R377, R645 to R667). -/

namespace Sys2Proof.Machine

/-- Settles O41: a command runs where it is queued and passes its checks; a frame acts in the branch of its premises. TIME_FRAME_RX judges
the port after the stamp is taken. -/
theorem fabricTrafficActs : Obligations.FabricTrafficActs := by
  unfold Obligations.FabricTrafficActs
  refine ⟨?prefer, ?topology, ?linkDown, ?repair, ?timeSend, ?foreignTime, ?register, ?bulk, ?bulkTimeout, ?relayExpiry, ?parentTime,
    ?otherTime⟩
  case prefer =>
    refine fun s ref dev hQueued hSome hRange =>
      Out.next_congr ((State.execCmd_of_queuedFor _ hQueued).trans (State.checked_of _ _ _ _ ?_))
    simpa [hRange] using hSome
  case topology => exact fun s ref hQueued => Out.next_congr (State.execCmd_of_queuedFor _ hQueued)
  case linkDown =>
    exact fun s port uid lostPort cause gen hLinked hNew => Out.next_congr (if_neg (by simp only [hLinked, hNew]; decide))
  case repair =>
    refine fun s lostUid lostPort share hShare hMember hReported => ?_
    show execRepairApply lostUid lostPort s = _
    simp only [execRepairApply, hShare]
    exact Out.next_congr (if_neg (by simp [hMember, hReported]))
  case timeSend =>
    exact fun s port cyc tx hLinked hDue => Out.next_congr (if_pos (Bool.and_eq_true_iff.mpr ⟨hLinked, hDue⟩))
  case foreignTime =>
    exact fun s port m rx hLinked hForeign => Out.next_congr ((if_neg (by simp [hLinked])).trans (if_pos hForeign))
  case parentTime =>
    exact fun s port m rx hLinked hOwn hParent hFollows => Out.next_congr ((if_neg (by simp [hLinked])).trans
      ((if_neg (Bool.eq_false_iff.mp hOwn)).trans (if_pos (by simp [hParent, hFollows]))))
  case otherTime =>
    exact fun s port m rx hLinked hOwn hOther => Out.next_congr ((if_neg (by simp [hLinked])).trans
      ((if_neg (Bool.eq_false_iff.mp hOwn)).trans (if_neg hOther)))
  case register =>
    exact fun s src op convoy fa hLeads hWhole hFree => Out.next_congr ((if_neg (by simp [hLeads])).trans
      ((if_neg hWhole).trans (if_neg hFree)))
  case bulk => exact fun s src ident offset data => rfl
  case bulkTimeout =>
    refine fun s src ident _ _ _ t hWaits hOver => ?_
    show execBulkTimeout src ident s = _
    simp only [execBulkTimeout, hWaits]
    exact Out.next_congr (if_pos hOver)
  case relayExpiry => exact fun s addr udp => rfl

end Sys2Proof.Machine
end

section
/-! The PTP messages and their time-outs (R89, R91, R685 to R688). -/

namespace Sys2Proof.Machine

/-- A message with a good header, of the port's domain, reaches its handler on a port with a profile (R685). -/
theorem State.ptpRx_of_good {s : State} {p : Nat} {h : PtpHeader} (f : State → State)
    (hProfile : (s.ethRx p).par (epEth p) P.ptpProfile ≠ 0) (hFormed : h.wellFormed = true) (hMajor : h.major = 2) (hDomain : h.domain = (s.ethRx p).par (epEth p) P.ptpDomain) :
    s.ptpRx p h f = f (s.ethRx p) :=
  (if_neg hProfile).trans (if_neg (by simp [hFormed, hMajor, hDomain]))

/-- Settles O43: a message comes to its handler by `State.ptpRx_of_good`, and the handler acts in the branch of its premises. -/
theorem ptpActs : Obligations.PtpActs := by
  unfold Obligations.PtpActs
  refine ⟨?twoStepSync, ?followUp, ?delayRequest, ?twoStepAnswer, ?answerFollowUp, ?delayResp, ?announce, ?ignored, ?announceTimeout,
    ?requestSend, ?oneStepSync, ?oneStepAnswer, ?malformed⟩
  case twoStepSync =>
    exact fun s port h twoStep origin corr rx hProfile hFormed hMajor hDomain hMaster hTwo => Out.next_congr
      ((State.ptpRx_of_good _ hProfile hFormed hMajor hDomain).trans ((if_neg (by simp [hMaster])).trans (if_pos hTwo)))
  case oneStepSync =>
    exact fun s port h twoStep origin corr rx hProfile hFormed hMajor hDomain hMaster hOne => Out.next_congr
      ((State.ptpRx_of_good _ hProfile hFormed hMajor hDomain).trans ((if_neg (by simp [hMaster])).trans
        (if_neg (Bool.eq_false_iff.mp hOne))))
  case followUp =>
    refine fun s port h origin corr hProfile hFormed hMajor hDomain hMaster q c rx hWait hSeq => Out.next_congr
      ((State.ptpRx_of_good _ hProfile hFormed hMajor hDomain).trans ((if_neg (by simp [hMaster])).trans ?_))
    simp only [hWait]
    exact if_pos hSeq
  case delayRequest =>
    exact fun s port h rx cyc tx hProfile hFormed hMajor hDomain hPeer => Out.next_congr
      ((State.ptpRx_of_good _ hProfile hFormed hMajor hDomain).trans (if_neg (not_not.mpr hPeer)))
  case twoStepAnswer =>
    refine fun s port h twoStep t2 corr rx hProfile hFormed hMajor hDomain hPeer q t1 hReq hSeq hTwo => Out.next_congr
      ((State.ptpRx_of_good _ hProfile hFormed hMajor hDomain).trans ((if_neg (not_not.mpr hPeer)).trans ?_))
    simp only [hReq]
    exact (if_neg (not_not.mpr hSeq)).trans (if_pos hTwo)
  case oneStepAnswer =>
    refine fun s port h twoStep t2 corr rx hProfile hFormed hMajor hDomain hPeer q t1 hReq hSeq hOne => Out.next_congr
      ((State.ptpRx_of_good _ hProfile hFormed hMajor hDomain).trans ((if_neg (not_not.mpr hPeer)).trans ?_))
    simp only [hReq]
    exact (if_neg (not_not.mpr hSeq)).trans (if_neg (Bool.eq_false_iff.mp hOne))
  case answerFollowUp =>
    refine fun s port h t3 corr hProfile hFormed hMajor hDomain hPeer q t1 hReq t2 c t4 hResp hSeq => Out.next_congr
      ((State.ptpRx_of_good _ hProfile hFormed hMajor hDomain).trans ((if_neg (not_not.mpr hPeer)).trans ?_))
    simp only [hReq, hResp]
    exact if_pos hSeq
  case delayResp =>
    refine fun s port h rxTime corr hProfile hFormed hMajor hDomain hEndToEnd q t3 hReq origin rx hSync hSeq => Out.next_congr
      ((State.ptpRx_of_good _ hProfile hFormed hMajor hDomain).trans ((if_neg (not_not.mpr hEndToEnd)).trans ?_))
    simp only [hReq, hSync]
    exact if_pos hSeq
  case announce =>
    refine fun s port h a hProfile hFormed hMajor hDomain hSource hNone _ => Out.next_congr
      ((State.ptpRx_of_good _ hProfile hFormed hMajor hDomain).trans ((if_neg hSource).trans ?_))
    simp only [hNone]
  case ignored => exact fun s port _ hBad => by rw [hBad]; rfl
  case malformed => exact fun s port _ hBad => by rw [hBad]; rfl
  case announceTimeout =>
    refine fun s port a hMaster hOver => ?_
    show execPtpAnnounceTimeout port s = _
    simp only [execPtpAnnounceTimeout, hMaster]
    exact Out.next_congr (if_neg (by simp [hOver]))
  case requestSend =>
    exact fun s port cyc tx hProfile hUp hDue => Out.next_congr (if_neg (by simp [hProfile, hUp, hDue]))

end Sys2Proof.Machine
end

section
/-! Quadrature, index and Hall edges, and serial feedback (R97 to R156, R361). -/

namespace Sys2Proof.Machine

/-- The counter of a condition that holds is counted. -/
theorem State.bumpIf_of {s : State} {b : Bool} (h : b = true) (ep code idx : Nat) : s.bumpIf b ep code idx = s.bump ep code idx :=
  if_pos h

/-- A condition that fails counts nothing. -/
theorem State.bumpIf_of_not {s : State} {b : Bool} (h : b = false) (ep code idx : Nat) : s.bumpIf b ep code idx = s :=
  if_neg (Bool.eq_false_iff.mp h)

/-- A filter clock moves the place by one: the count takes the step of its direction, which quad_invert turns round, the edge is
stamped with the filter's delay taken off, and an index pulse is counted with it (R97 to R101, R105). -/
theorem State.filterClock_of_step {s : State} {i : Nat} {l : Bool × Bool × Bool} {now : Ft8} {q : QuadDecoder} {d : Nat}
    (hSource : s.par i P.fbSource = 1) (hq : q = (s.getQuad i).sampled (s.par i P.quadFilter) l)
    (hd : d = (quadPlace q.levels.1 q.levels.2.1 + 4 - quadPlace (s.getQuad i).levels.1 (s.getQuad i).levels.2.1) % 4)
    (hStep : d = 1 ∨ d = 3) :
    let r := if q.levels.2.2 then q else { q with pulseDone := false }
    let step : Int := if (d = 1 ↔ s.par i P.quadInvert = 1) then -1 else 1
    let st := s.stamped (now - ft8Ns (s.quadDelay i)) step
    s.filterClock i l now = (s.setQuad i ({ r with
      count := wrapInt 64 (r.count + step), edges := (st :: r.edges).take 5, zeroSpeed := false, lastEdge := s.tick }.index
        (s.par i P.indexMode) (quadPlace (s.getQuad i).levels.1 (s.getQuad i).levels.2.1) (decide (step = 1)) st.ft8)).fbRestored i := by
  intro r step st
  have hLevels : r.levels = q.levels := by simp only [r]; split <;> rfl
  have hUp : ((d == 1) != (s.par i P.quadInvert == 1)) = decide (step = 1) := by
    by_cases h1 : d = 1 <;> by_cases h2 : s.par i P.quadInvert = 1 <;> simp [step, h1, h2]
  have hSign : (if decide (step = 1) then 1 else -1 : Int) = step := by
    simp only [step]; split <;> rfl
  have hCount : ¬ (s.par i P.fbSource ≠ 1 ∨ d = 0) := by omega
  have hLegal : d ≠ 2 := by omega
  simp only [State.filterClock, ← hq]
  rw [show (if q.levels.2.2 = true then q else { q with pulseDone := false }) = r from rfl]
  simp only [hLevels, ← hd, if_neg hCount, if_neg hLegal, hUp, hSign]
  rfl

/-- A counted pulse is taken from the decoder; its index count goes to homing, and outside DISABLED also meets the reference
(R105 to R109, R361; log entry 85). -/
theorem execIndexPulse_of_pulse {s : State} {axis : Fin 32} {c : Int} {st : Ft8} (hPulse : (s.getQuad axis.val).pulse = some (c, st))
    (hSource : s.par axis.val P.fbSource = 1) (hMode : s.par axis.val P.indexMode ≠ 0) :
    let t := s.modQuad axis.val (fun q => { q with pulse := none })
    execIndexPulse axis s = .next (if (t.getLoop axis.val).state = .disabled then t.indexHome axis.val c st
      else (t.indexHome axis.val c st).indexEvent axis.val c) := by
  simp only [execIndexPulse, hPulse]
  exact Out.next_congr (if_neg (not_or.mpr ⟨not_not.mpr hSource, hMode⟩))

/-- While the driver enable is not asserted, an unsolicited character is counted (R118). -/
theorem execLspUnsolicitedChar_of_listens {s : State} {i : Fin 32} (h : (s.getSerial i.val).driveEnd ≤ s.tick) :
    execLspUnsolicitedChar i s = .next (s.bump i.val C.fbkUnsolicited) :=
  Out.next_congr (State.bumpIf_of (decide_eq_true h) _ _ _)

/-- While the driver enable is asserted, the receiver ignores its input (R134). -/
theorem execLspUnsolicitedChar_of_driven {s : State} {i : Fin 32} (h : s.tick < (s.getSerial i.val).driveEnd) :
    execLspUnsolicitedChar i s = .next s :=
  Out.next_congr (State.bumpIf_of_not (decide_eq_false h.not_ge) _ _ _)

/-- Settles O3: each edge acts in the branch of its premises; a step of the quadrature sequence is `State.filterClock_of_step`. -/
theorem feedbackEdgesAct : Obligations.FeedbackEdgesAct := by
  unfold Obligations.FeedbackEdgesAct
  refine ⟨?quadRun, ?quadStep, ?indexDisabled, ?indexCounted, ?hallFirst, ?hallInvalid, ?zeroSpeed, ?freeze⟩
  case quadRun => exact fun s axis a b index clocks clk hOn => Out.next_congr (if_pos hOn)
  case quadStep =>
    exact fun s i a b x clk q d hOn hSource hq hd hStep => Out.next_congr
      ((if_pos hOn).trans (State.filterClock_of_step hSource hq hd hStep))
  case indexDisabled =>
    exact fun s axis c st hPulse hSource hMode hDisabled =>
      (execIndexPulse_of_pulse hPulse hSource hMode).trans (Out.next_congr (if_pos hDisabled))
  case indexCounted =>
    exact fun s axis c st hPulse hSource hMode hRuns =>
      (execIndexPulse_of_pulse hPulse hSource hMode).trans (Out.next_congr (if_neg hRuns))
  case hallFirst =>
    refine fun s aux st clocks clk hOn hChanged k hPlace hFirst => Out.next_congr
      ((if_neg (by simp [hOn])).trans ((if_neg hChanged).trans ?_))
    -- what may be left are the two texts of one match, of the model and of the statement
    simp only [hPlace, hFirst] <;> rfl
  case hallInvalid =>
    refine fun s aux st clocks clk hOn hChanged hInvalid => Out.next_congr
      ((if_neg (by simp [hOn])).trans ((if_neg hChanged).trans ?_))
    rw [hInvalid]
  case zeroSpeed => exact fun s axis hPassed => Out.next_congr (if_pos hPassed)
  case freeze =>
    intro s axis t hFrozen hPassed
    show execFreeze axis s = _
    simp only [execFreeze, hFrozen, hPassed, if_true]

/-- Settles O4: each event acts in the branch of its guard. LSP_WORD_TIMEOUT parts on the outstanding request, and the two requests for a
position have one meaning. -/
theorem serialFeedbackActs : Obligations.SerialFeedbackActs := by
  unfold Obligations.SerialFeedbackActs
  refine ⟨?ssiStart, ?lspStart, ?goodWord, ?badWord, ?timeout, ?unsolicited, ?clearErr⟩
  case ssiStart =>
    refine fun s axis lineHigh hSource hDue hRecovered hHigh => ?_
    show execSerialReadStart axis lineHigh s = _
    simp only [execSerialReadStart, hSource, hDue, hRecovered, hHigh, Bool.not_true, Bool.or_self, Bool.false_eq_true, if_false, if_true]
  case lspStart =>
    refine fun s axis lineHigh hSource hDue => ?_
    show execSerialReadStart axis lineHigh s = _
    simp only [execSerialReadStart, hSource, hDue, Bool.not_true, Bool.false_eq_true, if_false]
  case goodWord =>
    intro s i r bs v hRead hWord
    show execSerialWordDecoded i (.ssi bs) s = _
    simp only [execSerialWordDecoded, hRead, hWord]
  case badWord =>
    intro s i r bs c hRead hWord
    show execSerialWordDecoded i (.ssi bs) s = _
    simp only [execSerialWordDecoded, hRead, hWord]
  case timeout =>
    intro s i r hSource hOver hRead hIdent hClear
    show execLspWordTimeout i s = _
    cases r with
    | ident => exact absurd rfl hIdent
    | clearErr => exact absurd rfl hClear
    | pos | posAux => simp [execLspWordTimeout, hSource, hOver, hRead]
  case unsolicited => exact fun s i hListens => execLspUnsolicitedChar_of_listens hListens
  case clearErr => exact fun s i hSource hFree => Out.next_congr (if_pos ⟨hSource, hFree⟩)

/-- Settles O53: the end of the driver enable decides whether the receiver takes the character. -/
theorem unsolicitedCharacterCounted : Obligations.UnsolicitedCharacterCounted := by
  unfold Obligations.UnsolicitedCharacterCounted
  exact ⟨fun s i hListens => execLspUnsolicitedChar_of_listens hListens, fun s i hDriven => execLspUnsolicitedChar_of_driven hDriven⟩

end Sys2Proof.Machine
end

section
/-! The operations of a loop engine (R167 to R201). Each is `State.leOp` of what it stages, so one law of `State.leOp` for each outcome
an operation can have gives the completion of every operation; the laws of a bundle of one staged write give results and frames. -/

namespace Sys2Proof.Machine

section
variable {s : State} {le : Fin 16} (h : (s.getEngine le.val).issues = true) (eob : Bool)
include h

/-- On an engine that issues bundles, results are staged. -/
theorem State.leOp_stage (l : List Staged) (f : Flow) : s.leOp le eob (.stage l f) = .next (s.stageOp le.val eob l f) :=
  if_neg (by simp [h])

/-- An operation that waits holds its bundle for a cycle (R175). -/
theorem State.leOp_wait : s.leOp le eob .wait = .next (s.waitOp le.val) := if_neg (by simp [h])

/-! ### Loads and stores -/

/-- A load within the local memory stages the word read where ECC finds no error in it. -/
theorem State.leLoad_clean {a n : Nat} (ha : a + n ≤ leMemBytes) (l : List Staged) :
    s.leLoad le eob a n .clean l = .next (s.stageOp le.val eob l .seq) :=
  (if_neg (by simp [h])).trans ((if_neg ha.not_gt).trans (State.leOp_stage h eob l .seq))

/-- A corrected error is counted besides (R209). -/
theorem State.leLoad_corrected {a n : Nat} (ha : a + n ≤ leMemBytes) (l : List Staged) :
    s.leLoad le eob a n .corrected l = .next ((s.bump (epEngine le.val) C.leEccCorr).stageOp le.val eob l .seq) :=
  (if_neg (by simp [h])).trans ((if_neg ha.not_gt).trans
    (State.leOp_stage (s := s.bump (epEngine le.val) C.leEccCorr) h eob l .seq))

/-- An uncorrectable error takes the place of the load (R210, R211). -/
theorem State.leLoad_uncorrectable {a n : Nat} (ha : a + n ≤ leMemBytes) (l : List Staged) :
    s.leLoad le eob a n .uncorrectable l = .next (s.memError le.val a) :=
  (if_neg (by simp [h])).trans (if_neg ha.not_gt)

/-- In hook code a store within the hook's areas is staged (R170). The areas are judged in a state `u` that may differ from the one that
takes the store: ACCST takes a free value first. -/
theorem State.leOp_storeAt_of_hook {u : State} {e : Engine} {c : HookCtx} (he : e.hook = some c) {a : Nat} {bs : List Byte}
    (hMay : u.hookMayStore c a bs.length = true) :
    s.leOp le eob (u.storeAt e a bs) = .next (s.stageOp le.val eob [.mem a bs] .seq) := by
  simp only [State.storeAt, he, hMay, if_true]
  exact State.leOp_stage h eob _ _

/-- Outside hook code a store within the local memory is staged. -/
theorem State.leOp_storeAt_of_noHook {u : State} {e : Engine} (he : e.hook = none) {a : Nat} {bs : List Byte}
    (hIn : a + bs.length ≤ leMemBytes) : s.leOp le eob (u.storeAt e a bs) = .next (s.stageOp le.val eob [.mem a bs] .seq) := by
  simp only [State.storeAt, he, hIn, if_true]
  exact State.leOp_stage h eob _ _

end

/-! ### A bundle of one operation -/

theorem Engine.getX_congr {e e' : Engine} (h : e.x = e'.x) (i : Nat) : e.getX i = e'.getX i := by
  rw [Engine.getX, Engine.getX, h]

theorem Engine.getAcc_congr {e e' : Engine} (h : e.acc = e'.acc) (a : Nat) : e.getAcc a = e'.getAcc a := by
  rw [Engine.getAcc, Engine.getAcc, h]

theorem Engine.getAcc_setAcc {e : Engine} (h : e.wf = true) (a : Nat) (v : Acc) : (e.setAcc a v).getAcc a = v :=
  mget_mset_same a v ((Engine.wf_iff e).1 h).2.2

theorem Engine.getAcc_setAcc_ne (e : Engine) {a j : Nat} (v : Acc) (h : j ≠ a) : (e.setAcc a v).getAcc j = e.getAcc j :=
  mget_mset_ne e.acc v {} h

/-- An accumulator and its overflow bit, as one bundle's writes: the bit goes to LE_ESR. -/
theorem Engine.applyAll_stageAcc (e : Engine) (a : Nat) (r : Acc × Bool) :
    (e.applyAll (stageAcc a r)).mem = e.mem ∧ (e.applyAll (stageAcc a r)).x = e.x ∧
      (e.applyAll (stageAcc a r)).acc = (e.setAcc a r.1).acc := by
  obtain ⟨v, _ | _⟩ := r <;> exact ⟨rfl, rfl, rfl⟩

/-- A store below the reserved top writes every byte (R167). -/
theorem Engine.store_below (e : Engine) {a : Nat} {bs : List Byte} (h0 : 0 < bs.length) (h : a + bs.length ≤ 0x38000) :
    e.store a bs = { e with mem := writeBytes e.mem a bs } := by
  rw [Engine.store, if_neg (by omega), List.take_of_length_le (by omega)]

theorem readBytes_getElem (m : SMap (BitVec 8)) (n : Nat) :
    ∀ (a i : Nat) (h : i < (readBytes m a n).length), (readBytes m a n)[i] = mget m (a + i) 0 := by
  induction n with
  | zero => exact fun a i h => absurd h (Nat.not_lt_zero i)
  | succ n ih =>
    intro a i h
    cases i with
    | zero => rfl
    | succ i =>
      rw [show a + (i + 1) = a + 1 + i by omega]
      exact ih (a + 1) i (by simpa [readBytes] using h)

/-- Bytes written read back. -/
theorem readBytes_writeBytes {m : SMap (BitVec 8)} (h : mwf (0 : BitVec 8) m = true) (a : Nat) (bs : List Byte) :
    readBytes (writeBytes m a bs) a bs.length = bs :=
  List.ext_getElem (readBytes_length _ _ _) (fun i _ hi => (readBytes_getElem _ _ a i _).trans (mget_writeBytes_in bs m a i h hi))

section
variable {s : State} {le : Nat} (hs : s.sound = true) (hb : (s.getEngine le).between = true)
include hs hb

theorem State.stageOp_wroteX (d : Fin 32) (v : BitVec 64) : wroteX s (s.stageOp le true [.x d.val v] .seq) le d.val v := by
  obtain ⟨f, hStep, hMem, hX, hAcc⟩ := State.stageOp_single hb [.x d.val v]
  have hWf := State.sound_engine hs le
  obtain ⟨hMemX, hAccX⟩ := Engine.setX_frame { s.getEngine le with staged := [.x d.val v] } d.val v
  rw [hStep]
  refine ⟨?_, fun j hj => ?_, ?_, ?_, fun k hk => State.getEngine_setEngine_ne s f hk, rfl⟩ <;> rw [State.getEngine_setEngine hs]
  · exact (Engine.getX_congr hX _).trans (Engine.getX_setX (e := { s.getEngine le with staged := [.x d.val v] }) hWf d v)
  · exact (Engine.getX_congr hX _).trans (Engine.getX_setX_ne _ v hj)
  · exact hMem.trans hMemX
  · exact hAcc.trans hAccX

theorem State.stageOp_wroteAcc (a : Nat) (r : Acc × Bool) : wroteAcc s (s.stageOp le true (stageAcc a r) .seq) le a r.1 := by
  obtain ⟨f, hStep, hMem, hX, hAcc⟩ := State.stageOp_single hb (stageAcc a r)
  have hWf := State.sound_engine hs le
  obtain ⟨hMemA, hXA, hAccA⟩ := Engine.applyAll_stageAcc { s.getEngine le with staged := stageAcc a r } a r
  rw [hStep]
  refine ⟨?_, fun j hj => ?_, ?_, ?_, fun k hk => State.getEngine_setEngine_ne s f hk, rfl⟩ <;> rw [State.getEngine_setEngine hs]
  · exact (Engine.getAcc_congr (hAcc.trans hAccA) _).trans (Engine.getAcc_setAcc (e := { s.getEngine le with staged := _ }) hWf a r.1)
  · exact (Engine.getAcc_congr (hAcc.trans hAccA) _).trans (Engine.getAcc_setAcc_ne _ r.1 hj)
  · exact hMem.trans hMemA
  · exact hX.trans hXA

theorem State.stageOp_storedAt {a : Nat} {bs : List Byte} (h0 : 0 < bs.length) (hBelow : a + bs.length ≤ 0x38000) :
    storedAt s (s.stageOp le true [.mem a bs] .seq) le a bs := by
  obtain ⟨f, hStep, hMem, hX, hAcc⟩ := State.stageOp_single hb [.mem a bs]
  have hStore : ({ s.getEngine le with staged := [.mem a bs] } : Engine).applyAll [.mem a bs] = _ := Engine.store_below _ h0 hBelow
  rw [hStore] at hMem hX hAcc
  have hWf := ((Engine.wf_iff _).1 (State.sound_engine hs le)).1
  rw [hStep]
  refine ⟨?_, fun j hj => ?_, ?_, ?_, fun k hk => State.getEngine_setEngine_ne s f hk, rfl⟩ <;> rw [State.getEngine_setEngine hs]
  · rw [hMem]; exact readBytes_writeBytes hWf a bs
  · rw [hMem]; exact mget_writeBytes_out bs _ a j hj
  · exact hX
  · exact hAcc

end

theorem Engine.issues_of_between {e : Engine} (h : e.between = true) : e.issues = true := by
  simp only [Engine.between, Bool.and_eq_true] at h
  exact h.1.1.1

/-- Settles O11: each operation stages one register write, and the bundle's end makes it (`State.stageOp_wroteX`). -/
theorem leRegisterResults : Obligations.LeRegisterResults := by
  unfold Obligations.LeRegisterResults
  intro s le d m n hs hb
  have hIssues := Engine.issues_of_between hb
  have hPut (v : BitVec 64) : ∃ t, s.leOp le true (put [.x d.val v]) = .next t ∧ wroteX s t le.val d.val v :=
    ⟨_, State.leOp_stage hIssues true _ _, State.stageOp_wroteX hs hb d v⟩
  exact ⟨hPut _, hPut _, hPut _, hPut _, hPut _, fun _ => hPut _, fun _ => hPut _, fun _ => hPut _,
    fun _ hIn => ⟨_, State.leLoad_clean hIssues true hIn _, State.stageOp_wroteX hs hb d _⟩⟩

/-- Settles O12: each operation stages its accumulator; MUL and CLR stage no overflow with it. -/
theorem leAccumulatorResults : Obligations.LeAccumulatorResults := by
  unfold Obligations.LeAccumulatorResults
  intro s le a m n hs hb
  have hPut (r : Acc × Bool) : ∃ t, s.leOp le true (put (stageAcc a.val r)) = .next t ∧ wroteAcc s t le.val a.val r.1 :=
    ⟨_, State.leOp_stage (Engine.issues_of_between hb) true _ _, State.stageOp_wroteAcc hs hb a.val r⟩
  exact ⟨hPut _, hPut _, hPut (_, false), fun _ => hPut (_, false)⟩

/-- Settles O13: outside hook code a store below the reserved top is staged whole, and the bundle's end makes it. -/
theorem leStoreFrame : Obligations.LeStoreFrame := by
  unfold Obligations.LeStoreFrame
  intro s le src b imm hs hb hHook
  have hPut (bs : List Byte) (h0 : 0 < bs.length) (hBelow : (s.getEngine le.val).addr b imm + bs.length ≤ 0x38000) :
      ∃ t, s.leOp le true (s.storeAt (s.getEngine le.val) ((s.getEngine le.val).addr b imm) bs) = .next t ∧
        storedAt s t le.val ((s.getEngine le.val).addr b imm) bs :=
    ⟨_, State.leOp_storeAt_of_noHook (Engine.issues_of_between hb) true hHook (hBelow.trans (by decide)),
      State.stageOp_storedAt hs hb h0 hBelow⟩
  exact ⟨fun hBelow => hPut _ (by simp) (by simpa using hBelow), fun hBelow => hPut _ (by simp) (by simpa using hBelow)⟩

end Sys2Proof.Machine
end

section
/-! What the operations of a loop engine do (R170 to R201): each clause of these statements is a law of `State.leOp` at the operation's
results, the conditions of the clause settling which results these are. -/

namespace Sys2Proof.Machine

/-- Settles O6: every operation stages its results; MAC2 parts on whether its two accumulators are one. -/
theorem leAccumulatorOpsAct : Obligations.LeAccumulatorOpsAct := by
  unfold Obligations.LeAccumulatorOpsAct
  refine ⟨?mac, ?msu, ?mul, ?mac2, ?mac2Same, ?macus, ?clr, ?ext⟩
  case mac => exact fun s le eob a m n h => State.leOp_stage h eob _ _
  case msu => exact fun s le eob a m n h => State.leOp_stage h eob _ _
  case mul => exact fun s le eob a m n h => State.leOp_stage h eob _ _
  case mac2 =>
    intro s le eob a m n b p q h hOther
    show execMac2 le eob a m n b p q s = _
    simp only [execMac2, if_neg hOther]
    exact State.leOp_stage h eob _ _
  case mac2Same =>
    intro s le eob a m n p q h
    show execMac2 le eob a m n a p q s = _
    simp only [execMac2, if_true]
    exact State.leOp_stage h eob _ _
  case macus => exact fun s le eob a m n h => State.leOp_stage h eob _ _
  case clr => exact fun s le eob a sh h => State.leOp_stage h eob _ _
  case ext => exact fun s le eob d a sh h => State.leOp_stage h eob _ _

/-- A shift by less than 64 (R180). -/
theorem State.leShift_of_lt {s : State} {le : Fin 16} (h : (s.getEngine le.val).issues = true) (eob : Bool) (d m n : Fin 32)
    (f : BitVec 64 → Nat → BitVec 64) (hAmount : ((s.getEngine le.val).getX n.val).toNat < 64) :
    s.leShift le eob d m n f = .next (s.took.stageOp le.val eob
      [.x d.val (f ((s.getEngine le.val).getX m.val) ((s.getEngine le.val).getX n.val).toNat)] .seq) := by
  simp only [State.leShift, State.leAlu, State.took_getEngine, hAmount, if_true]
  exact State.leOp_stage (s := s.took) h eob _ _

/-- Settles O8: the results are those of the branch that the operands select. -/
theorem leArithmeticOpsAct : Obligations.LeArithmeticOpsAct := by
  unfold Obligations.LeArithmeticOpsAct
  refine ⟨?add, ?sub, ?and, ?or, ?xor, ?addi, ?shl, ?shr, ?sra, ?li, ?satw, ?maxi, ?mini, ?rcpZero, ?rsqNone, ?lui, ?cmp, ?maxiKeeps,
    ?miniKeeps, ?rcp, ?rsq⟩
  case add => exact fun s le eob d m n h => State.leOp_stage h eob _ _
  case sub => exact fun s le eob d m n h => State.leOp_stage h eob _ _
  case and => exact fun s le eob d m n h => State.leOp_stage h eob _ _
  case or => exact fun s le eob d m n h => State.leOp_stage h eob _ _
  case xor => exact fun s le eob d m n h => State.leOp_stage h eob _ _
  case addi => exact fun s le eob d m imm h => State.leOp_stage h eob _ _
  case shl => exact fun s le eob d m n h hAmount => State.leShift_of_lt h eob d m n _ hAmount
  case shr => exact fun s le eob d m n h hAmount => State.leShift_of_lt h eob d m n _ hAmount
  case sra => exact fun s le eob d m n h hAmount => State.leShift_of_lt h eob d m n _ hAmount
  case li => exact fun s le eob d imm h => State.leOp_stage h eob _ _
  case satw =>
    intro s le eob d m w h hWidth
    show execSatw le eob d m w s = _
    simp only [execSatw, State.leAlu, State.took_getEngine, if_neg hWidth.ne']
    exact State.leOp_stage (s := s.took) h eob _ _
  case maxi =>
    intro s le eob d src h hLarger
    show execMaxi le eob d src s = _
    rw [execMaxi, if_pos hLarger]
    exact State.leOp_stage h eob _ _
  case mini =>
    intro s le eob d src h hSmaller
    show execMini le eob d src s = _
    rw [execMini, if_pos hSmaller]
    exact State.leOp_stage h eob _ _
  case rcpZero =>
    intro s le eob d src h hZero
    show execRcp le eob d src s = _
    rw [execRcp, hZero]
    exact State.leOp_stage h eob _ _
  case rsqNone =>
    intro s le eob d src h hNone
    show execRsq le eob d src s = _
    rw [execRsq, if_pos hNone]
    exact State.leOp_stage h eob _ _
  case lui => exact fun s le eob d imm h => State.leOp_stage (s := s.took) h eob _ _
  case cmp => exact fun s le eob d m n h => State.leOp_stage (s := s.took) h eob _ _
  case maxiKeeps =>
    intro s le eob d src h hKeeps
    show execMaxi le eob d src s = _
    rw [execMaxi, if_neg hKeeps.not_gt]
    exact State.leOp_stage h eob _ _
  case miniKeeps =>
    intro s le eob d src h hKeeps
    show execMini le eob d src s = _
    rw [execMini, if_neg hKeeps.not_gt]
    exact State.leOp_stage h eob _ _
  case rcp =>
    intro s le eob d src h hSome
    have hInt : ((s.getEngine le.val).getX src.val).toInt ≠ 0 := fun h0 => hSome (BitVec.eq_of_toInt_eq (h0.trans BitVec.toInt_zero.symm))
    show execRcp le eob d src s = _
    rw [execRcp, if_neg hInt]
    exact State.leOp_stage h eob _ _
  case rsq =>
    intro s le eob d src h hPos
    show execRsq le eob d src s = _
    rw [execRsq, if_neg hPos.not_ge]
    exact State.leOp_stage h eob _ _

/-! ### Control flow -/

section
variable {s : State} {le : Fin 16} (h : (s.getEngine le.val).issues = true) (eob : Bool)
include h

/-- A branch whose condition holds is taken (R177, R178). -/
theorem State.leBranch_taken {b : Bool} (hb : b = true) (off : BitVec 14) :
    s.leBranch le eob b off = .next (s.stageOp le.val eob [] (.branch ((s.getEngine le.val).pc + off.signExtend 16))) := by
  rw [State.leBranch, if_pos hb]
  exact State.leOp_stage h eob _ _

/-- A branch whose condition fails goes on in sequence. -/
theorem State.leBranch_not {b : Bool} (hb : b = false) (off : BitVec 14) :
    s.leBranch le eob b off = .next (s.stageOp le.val eob [] .seq) := by
  rw [State.leBranch, if_neg (Bool.eq_false_iff.mp hb)]
  exact State.leOp_stage h eob _ _

end

/-- Settles O9: LOOP, RET and WAITB stage where the clause's conditions exclude their faults and waits; a branch is taken or not. -/
theorem leControlOpsAct : Obligations.LeControlOpsAct := by
  unfold Obligations.LeControlOpsAct
  refine ⟨?loop, ?loopReg, ?br, ?bz, ?bzNot, ?bnz, ?bnzNot, ?blt, ?bltNot, ?ret, ?reti, ?waitb, ?waitbBusy, ?mfc, ?mtc, ?clrf, ?nop⟩
  case loop =>
    intro s le eob l n o h hOff hOuter hFar
    have hLevel : ((l.val == 1) && !(s.getEngine le.val).loopOn 0) = false := by simpa using hOuter
    show execLeLoop le eob l (.imm n) o s = _
    simp only [execLeLoop, hOff, hLevel, hFar, Bool.or_self, Bool.false_eq_true, if_false]
    exact State.leOp_stage h eob _ _
  case loopReg =>
    intro s le eob l x n o h hOff hOuter hFar hBound
    have hLevel : ((l.val == 1) && !(s.getEngine le.val).loopOn 0) = false := by simpa using hOuter
    show execLeLoop le eob l (.reg x n) o s = _
    simp only [execLeLoop, hOff, hLevel, hFar, decide_eq_false hBound.not_gt, Bool.or_self, Bool.false_eq_true, if_false]
    exact State.leOp_stage h eob _ _
  case br => exact fun s le eob off h => State.leBranch_taken h eob rfl off
  case bz => exact fun s le eob src off h hZero => State.leBranch_taken h eob (beq_iff_eq.mpr hZero) off
  case bzNot => exact fun s le eob src off h hSome => State.leBranch_not h eob (beq_false_of_ne hSome) off
  case bnz => exact fun s le eob src off h hSome => State.leBranch_taken h eob (bne_iff_ne.mpr hSome) off
  case bnzNot => exact fun s le eob src off h hZero => State.leBranch_not h eob (bne_eq_false_iff_eq.mpr hZero) off
  case blt => exact fun s le eob src t off h hLess => State.leBranch_taken h eob (decide_eq_true hLess) off
  case bltNot => exact fun s le eob src t off h hNot => State.leBranch_not h eob (decide_eq_false hNot.not_gt) off
  case ret =>
    intro s le eob h hOff0 hOff1
    show execRet le eob s = _
    simp only [execRet, hOff0, hOff1, Bool.or_self, Bool.and_false, Bool.false_eq_true, if_false]
    exact State.leOp_stage h eob _ _
  case reti => exact fun s le eob h => State.leOp_stage h eob _ _
  case waitb =>
    intro s le eob h hIdle
    show execWaitb le eob s = _
    rw [execWaitb, hIdle]
    exact State.leOp_stage h eob _ _
  case waitbBusy =>
    intro s le eob h hBusy
    show execWaitb le eob s = _
    rw [execWaitb, if_pos hBusy]
    exact State.leOp_wait h eob
  case mfc => exact fun s le eob d r h => State.leOp_stage h eob _ _
  case mtc => exact fun s le eob r src h => State.leOp_stage h eob _ _
  case clrf => exact fun s le eob mask h => State.leOp_stage h eob _ _
  case nop => exact fun s le eob h => State.leOp_stage h eob _ _

/-! ### Bank bursts -/

/-- BLD_DONE in the engine's grant ends a burst that lies within the bank, and the grant with it (R194, R196, R197). -/
theorem execBldDone_of_granted {s : State} {le : Fin 16} {b : Burst} (hHolder : (s.getArb 0).holder = le.val + 1)
    (hBld : (s.getEngine le.val).bld = some b) (hIn : b.bank + 8 * b.n ≤ bankBytes) (err : Option (Nat × BusErrCause)) :
    execBldDone le err s =
      .next ((s.modArb 0 (fun a => { a with holder := 0, cuts := mdel a.cuts le.val })).endBurst le.val err) := by
  simp only [execBldDone, hHolder, hBld, Option.any_some, decide_eq_false hIn.not_gt, ne_eq, not_true_eq_false, Bool.false_eq_true,
    if_false]

/-- Settles O7: loads part on what ECC finds, stores and BLD on whether a hook runs. -/
theorem leMemoryOpsAct : Obligations.LeMemoryOpsAct := by
  unfold Obligations.LeMemoryOpsAct
  refine ⟨?ld, ?ldq, ?accld, ?stHook, ?stqHook, ?accstHook, ?bld, ?burstWhole, ?ldCorr, ?ldBad, ?ldqCorr, ?ldqBad, ?accldCorr, ?accldBad,
    ?st, ?stq, ?accst, ?bldHook, ?burstError⟩
  case ld => exact fun s le eob d b imm h hIn => State.leLoad_clean h eob hIn _
  case ldq => exact fun s le eob d b imm h hIn => State.leLoad_clean h eob hIn _
  case accld => exact fun s le eob a b imm h hIn => State.leLoad_clean h eob hIn _
  case ldCorr => exact fun s le eob d b imm h hIn => State.leLoad_corrected h eob hIn _
  case ldqCorr => exact fun s le eob d b imm h hIn => State.leLoad_corrected h eob hIn _
  case accldCorr => exact fun s le eob a b imm h hIn => State.leLoad_corrected h eob hIn _
  case ldBad =>
    intro s le eob d b imm h hIn
    show execLd le eob d b ⟨imm, .uncorrectable⟩ s = _
    rw [execLd, State.leLoad_uncorrectable h eob hIn]
  case ldqBad =>
    intro s le eob d b imm h hIn
    show execLdq le eob d b ⟨imm, .uncorrectable⟩ s = _
    rw [execLdq, State.leLoad_uncorrectable h eob hIn]
  case accldBad =>
    intro s le eob a b imm h hIn
    show execAccld le eob a b ⟨imm, .uncorrectable⟩ s = _
    rw [execAccld, State.leLoad_uncorrectable h eob hIn]
  case stHook => exact fun s le eob src b imm c h hHook hMay => State.leOp_storeAt_of_hook h eob hHook (by simpa using hMay)
  case stqHook => exact fun s le eob src b imm c h hHook hMay => State.leOp_storeAt_of_hook h eob hHook (by simpa using hMay)
  case accstHook =>
    exact fun s le eob a b imm c h hHook hMay => State.leOp_storeAt_of_hook (s := s.took) h eob hHook (by simpa using hMay)
  case st => exact fun s le eob src b imm h hHook hIn => State.leOp_storeAt_of_noHook h eob hHook (by simpa using hIn)
  case stq => exact fun s le eob src b imm h hHook hIn => State.leOp_storeAt_of_noHook h eob hHook (by simpa using hIn)
  case accst => exact fun s le eob a b imm h hHook hIn => State.leOp_storeAt_of_noHook (s := s.took) h eob hHook (by simpa using hIn)
  case bld =>
    intro s le eob l b n h hBld hHook hIn
    show execBld le eob l b n s = _
    simp only [execBld, hBld, hHook, hIn, Option.isSome_none, Bool.false_eq_true, if_false, if_true]
    exact State.leOp_stage h eob _ _
  case bldHook =>
    intro s le eob l b n c h hBld hHook hFrom hTo hMay hIn
    show execBld le eob l b n s = _
    simp only [execBld, hBld, hHook, hFrom, hTo, hMay, hIn, Option.isSome_none, decide_true, Bool.and_self, Bool.not_true,
      Bool.false_eq_true, if_false, if_true]
    exact State.leOp_stage h eob _ _
  case burstWhole =>
    intro s le b e hHolder hBld hIn he
    refine (execBldDone_of_granted hHolder hBld hIn none).trans (Out.next_congr ?_)
    have hBld' : ((s.modArb 0 (fun a => { a with holder := 0, cuts := mdel a.cuts le.val })).getEngine le.val).bld = some b := hBld
    simp only [State.endBurst, hBld', he]
    rfl
  case burstError => exact fun s le b k c hHolder hBld hIn => execBldDone_of_granted hHolder hBld hIn (some (k, c))

end Sys2Proof.Machine
end

section
/-! What the supervisor and the chip do to the loop engines: kernels, interrupts and ECC (R192 to R211), power domains, restarts, rescue
and migration (R212, R795 to R803). -/

namespace Sys2Proof.Machine

/-- INTERRUPT_ENTRY is taken at a bundle boundary with interrupts enabled, outside a handler, a delay slot and the last two bundles of a
body (R192, R193). Without a pending SVC a burst's end enters the handler of the hook. -/
theorem execInterruptEntry_of_burst {s : State} {le : Fin 16} {c : HookCtx} {a : BitVec 16}
    (h : (s.getEngine le.val).issues = true) (hEnabled : bitOf (s.getEngine le.val).esr.toNat 3 = true)
    (hOutside : bitOf (s.getEngine le.val).esr.toNat 4 = false) (hDelay : (s.getEngine le.val).delay = none)
    (hStaged : (s.getEngine le.val).staged = []) (hFar : (s.getEngine le.val).nearLoopEnd = false)
    (hSvc : (s.getEngine le.val).svcPending = false) (hDone : (s.getEngine le.val).bldDone = true)
    (hHook : (s.getEngine le.val).hook = some c) (hHandler : c.handler = some a) :
    execInterruptEntry le s = .next (s.setEngine le.val
      { (({ s.getEngine le.val with bldDone := false } : Engine).esrBit 3 false).esrBit 4 true with
        epc := (s.getEngine le.val).pc, pc := a, cyc := (s.getEngine le.val).cyc + 4 }) := by
  simp only [execInterruptEntry, h, hEnabled, hOutside, hDelay, hStaged, hFar, hSvc, hDone, hHook, hHandler, Option.bind_some,
    Option.isNone_none, List.isEmpty_nil, Bool.not_false, Bool.and_self, Bool.not_true, Bool.false_eq_true, if_false]

/-- Settles O10: the commands pass their checks in order; an entry into a handler is `execInterruptEntry_of_burst`. -/
theorem engineHostActs : Obligations.EngineHostActs := by
  unfold Obligations.EngineHostActs
  refine ⟨?load, ?unload, ?svc, ?interrupt, ?clean, ?double, ?single⟩
  case load =>
    refine fun s ref image hQueued hHeader hLength hBundles hCycles hRoom => Out.next_congr
      ((State.execCmd_of_queuedFor _ hQueued).trans ((if_neg (Bool.eq_false_iff.mp hHeader)).trans ((if_neg (not_not.mpr hLength)).trans ?_)))
    simp only [hBundles]
    exact (if_neg (Bool.eq_false_iff.mp hCycles)).trans (if_neg hRoom.not_ge)
  case unload =>
    exact fun s ref k hQueued hLoaded hFree => Out.next_congr
      ((State.execCmd_of_queuedFor _ hQueued).trans (State.checked_of _ _ _ _ (by simp [hLoaded, hFree])))
  case svc => exact fun s le => rfl
  case interrupt =>
    exact fun s le c a h hEnabled hOutside hDelay hStaged hFar hSvc hDone hHook hHandler =>
      ⟨_, execInterruptEntry_of_burst h hEnabled hOutside hDelay hStaged hFar hSvc hDone hHook hHandler,
        rfl, rfl, rfl, rfl, rfl, rfl, rfl, rfl⟩
  case clean => exact fun s le => rfl
  case double => exact fun s le a => rfl
  case single => exact fun s le a => rfl

/-- Settles O52: a loaded kernel passes the first check, and one in use fails the second. -/
theorem kernelUnloadInUseRejected : Obligations.KernelUnloadInUseRejected := by
  unfold Obligations.KernelUnloadInUseRejected
  intro s ref handle hQueued hLoaded hUsed
  refine Out.next_congr ((State.execCmd_of_queuedFor _ hQueued).trans ?_)
  simp only [hLoaded, hUsed, Bool.not_true, State.checked_cons_false, State.checked_cons_true]

/-- PWR_DOMAIN's checks pass for group A or B, a value of 0 or 1, in Ramble, with no axis on the group and none on the way to it, and
no group powering up (R795, R796). -/
theorem pwrDomain_checks_pass {s : State} {d v : Nat} {busy : Bool} (hDomain : (d == 3 || d == 4) = true) (hValue : v ≤ 1)
    (hRamble : s.power.state = .ramble) (hFree : busy = false) (hIdle : s.power.groupOn.isSome = false) :
    ∀ x ∈ [(!(d == 3 || d == 4) || decide (1 < v), E.range), (s.power.state != .ramble, E.state),
      (busy || s.power.groupOn.isSome, E.state)], x.1 = false := by
  simp [hDomain, hValue, hRamble, hFree, hIdle]

/-- AXIS_MIGRATE's checks pass for a servo axis, an engine that is IDLE or in RUN, an FT within its bounds, and a target that can take
the axis: room, the same slot format, no scheduled set that names the axis, no migration in the way (R799, R800). -/
theorem axisMigrate_checks_pass {i t : Nat} {st : LeState} {ft : Ft} {d : Int} {room named clash fits : Bool} {f g : Nat}
    (hAxis : i < 32) (hEngine : t < 16) (hState : ¬ (st != .idle && st != .run) = true)
    (hSoon : ¬ (ft != 0 && decide (d < 100000)) = true) (hLate : ¬ (ft != 0 && decide (2000000000 < d)) = true)
    (hRoom : room = true) (hFormat : f = g) (hNamed : named = false) (hClash : clash = false) (hFits : fits = true) :
    ∀ x ∈ [(decide (32 ≤ i), E.endpoint), (decide (16 ≤ t), E.range), (st != .idle && st != .run, E.state),
      (ft != 0 && decide (d < 100000), E.tooLate), (ft != 0 && decide (2000000000 < d), E.range),
      (!room || f != g || named || clash || !fits, E.conflict)], x.1 = false := by
  simp only [List.forall_mem_cons]
  exact ⟨decide_eq_false hAxis.not_ge, decide_eq_false hEngine.not_ge, Bool.eq_false_iff.mpr hState, Bool.eq_false_iff.mpr hSoon,
    Bool.eq_false_iff.mpr hLate, by simp [hRoom, hFormat, hNamed, hClash, hFits]⟩

/-- Settles O49: the commands pass their checks and act in the branch of their operands, the events in that of their guard. -/
theorem enginePowerActs : Obligations.EnginePowerActs := by
  unfold Obligations.EnginePowerActs
  refine ⟨?domainOff, ?restart, ?groupReady, ?rescue, ?migrate, ?handover, ?domainOn, ?migrateLast⟩
  case domainOff =>
    intro s₀ ref domain on s hQueued k d g les isOn busy hDomain hValue hRamble hFree hIdle hChanges hOff
    exact Out.next_congr ((State.execCmd_of_queuedFor _ hQueued).trans ((State.checked_of _ _ _ _
      (pwrDomain_checks_pass hDomain hValue hRamble hFree hIdle)).trans ((if_neg (mt beq_iff_eq.mp hChanges)).trans (if_pos hOff))))
  case domainOn =>
    intro s₀ ref domain on s hQueued k d g les isOn busy hDomain hValue hRamble hFree hIdle hChanges hOn
    exact Out.next_congr ((State.execCmd_of_queuedFor _ hQueued).trans ((State.checked_of _ _ _ _
      (pwrDomain_checks_pass hDomain hValue hRamble hFree hIdle)).trans ((if_neg (mt beq_iff_eq.mp hChanges)).trans (if_neg hOn))))
  case restart =>
    intro s₀ ref engine s hQueued k le hEngine hHalted
    refine Out.next_congr ((State.execCmd_of_queuedFor _ hQueued).trans (State.checked_of _ _ _ _ ?_))
    simp [hEngine.not_ge, hHalted, le, s]
  case groupReady =>
    intro s₀ groupB s g k hOn hGroup
    show execEngineGroupReady groupB s₀ = _
    simp only [execEngineGroupReady, s, hOn]
    exact Out.next_congr (if_neg (by simp [hGroup]))
  case rescue =>
    intro s le n hHalted hRescue
    exact Out.next_congr (if_neg (by simp [n, hHalted, hRescue]))
  case migrate =>
    intro s₀ ref ep engine ft s hQueued k i t d b st src hSource hOther named clash room hAxis hEngine hState hSoon hLate hRoom hFormat
      hNamed hClash hFits s' left hLeft
    change (s.getFlags ep.toNat).engine = some src at hSource
    refine Out.next_congr ((State.execCmd_of_queuedFor _ hQueued).trans ?_)
    simp only [hSource]
    exact (if_neg hOther).trans ((State.checked_of _ _ _ _ (axisMigrate_checks_pass hAxis hEngine hState hSoon hLate hRoom hFormat
      hNamed hClash hFits)).trans (if_neg (Bool.eq_false_iff.mp hLeft)))
  case migrateLast =>
    intro s₀ ref ep engine ft s hQueued k i t d b st src hSource hOther named clash room hAxis hEngine hState hSoon hLate hRoom hFormat
      hNamed hClash hFits s' left hLeft
    change (s.getFlags ep.toNat).engine = some src at hSource
    refine Out.next_congr ((State.execCmd_of_queuedFor _ hQueued).trans ?_)
    simp only [hSource]
    exact (if_neg hOther).trans ((State.checked_of _ _ _ _ (axisMigrate_checks_pass hAxis hEngine hState hSoon hLate hRoom hFormat
      hNamed hClash hFits)).trans (if_pos hLeft))
  case handover =>
    intro s₀ axis s i g hDue hRuns hHosted hIdle hSample s'
    show execMigrationHandover axis s₀ = _
    simp only [execMigrationHandover]
    rw [hDue]
    exact Out.next_congr ((if_neg (Bool.eq_false_iff.mp hRuns)).trans ((if_neg (not_not.mpr hHosted)).trans
      (if_neg (fun hWaits => (Bool.or_eq_true_iff.mp hWaits).elim (Bool.eq_false_iff.mp hIdle) hSample))))

end Sys2Proof.Machine
end

section
/-! Where a command can stop: only an engine's access to its local memory has an address that may lie outside it (R167). -/

namespace Sys2Proof.Machine

/-- The outcome is a next state. -/
def Out.isNext (o : Out) : Prop := ∃ t, o = .next t

/-- The command is one of the seven engine operations that address local memory (R170, R194). -/
def addressesLocalMemory (c : Instr) : Prop :=
  ∃ (le : Fin 16) (eob : Bool) (b : Fin 32),
    (∃ (d : Fin 32) (off : LoadOff 14), c = .ld le eob d b off) ∨
    (∃ (d : Fin 16) (off : LoadOff 14), c = .ldq le eob d b off) ∨
    (∃ (src : Fin 32) (imm : BitVec 14), c = .st le eob src b imm ∨ c = .stq le eob src b imm) ∨
    (∃ (a : Fin 4) (off : LoadOff 17), c = .accld le eob a b off) ∨
    (∃ (a : Fin 4) (imm : BitVec 17), c = .accst le eob a b imm) ∨ (∃ l n, c = .bld le eob l b n)

/-- An access of the host answers a next state, whether or not D1 is powered (R485). -/
theorem State.access_isNext (s : State) (f : State → State) : Out.isNext (s.access f) := by
  unfold State.access
  split <;> exact ⟨_, rfl⟩

theorem OpRes.ite_ne_outside {p : Prop} [Decidable p] {x y : OpRes} (hx : x ≠ .outside) (hy : y ≠ .outside) :
    (if p then x else y) ≠ .outside := by
  split
  · exact hx
  · exact hy

/-- A slot operation stops only on an address outside. -/
theorem State.leOp_isNext_or (s : State) (le : Fin 16) (eob : Bool) (r : OpRes) :
    Out.isNext (s.leOp le eob r) ∨ s.leOp le eob r = .fault .addressOutsideLocalMemory ∧ r = .outside := by
  unfold State.leOp
  split
  · exact .inl ⟨_, rfl⟩
  · cases r with
    | outside => exact .inr ⟨rfl, rfl⟩
    | stage l f => exact .inl ⟨_, rfl⟩
    | hookFault c => exact .inl ⟨_, rfl⟩
    | wait => exact .inl ⟨_, rfl⟩

theorem State.leOp_isNext (s : State) (le : Fin 16) (eob : Bool) {r : OpRes} (h : r ≠ .outside) : Out.isNext (s.leOp le eob r) :=
  (s.leOp_isNext_or le eob r).resolve_right (fun hr => h hr.2)

/-- A slot operation answers a next state or the fault of an address outside. -/
theorem State.leOp_stops (s : State) (le : Fin 16) (eob : Bool) (r : OpRes) :
    Out.isNext (s.leOp le eob r) ∨ s.leOp le eob r = .fault .addressOutsideLocalMemory :=
  (s.leOp_isNext_or le eob r).imp_right And.left

/-- So does a load. -/
theorem State.leLoad_stops (s : State) (le : Fin 16) (eob : Bool) (a n : Nat) (ecc : ReadEcc) (l : List Staged) :
    Out.isNext (s.leLoad le eob a n ecc l) ∨ s.leLoad le eob a n ecc l = .fault .addressOutsideLocalMemory := by
  unfold State.leLoad
  split
  · exact .inl ⟨_, rfl⟩
  · split
    · exact .inr rfl
    · cases ecc with
      | clean => exact State.leOp_stops _ le eob (put l)
      | corrected => exact State.leOp_stops _ le eob (put l)
      | uncorrectable => exact .inl ⟨_, rfl⟩

/-- The meaning of every command ends in a next state, but for the operations that address local memory. -/
theorem exec_isNext_or (c : Instr) (s : State) :
    Out.isNext (exec c s) ∨ exec c s = .fault .addressOutsideLocalMemory ∧ addressesLocalMemory c := by
  cases c with
  | ld le eob d b off => exact (s.leLoad_stops le eob _ 8 off.ecc _).imp_right (⟨·, le, eob, b, .inl ⟨d, off, rfl⟩⟩)
  | ldq le eob d b off => exact (s.leLoad_stops le eob _ 16 off.ecc _).imp_right (⟨·, le, eob, b, .inr (.inl ⟨d, off, rfl⟩)⟩)
  | st le eob src b imm =>
    exact (s.leOp_stops le eob _).imp_right (⟨·, le, eob, b, .inr (.inr (.inl ⟨src, imm, .inl rfl⟩))⟩)
  | stq le eob src b imm =>
    exact (s.leOp_stops le eob _).imp_right (⟨·, le, eob, b, .inr (.inr (.inl ⟨src, imm, .inr rfl⟩))⟩)
  | accld le eob a b off =>
    exact (s.leLoad_stops le eob _ 24 off.ecc _).imp_right (⟨·, le, eob, b, .inr (.inr (.inr (.inl ⟨a, off, rfl⟩)))⟩)
  | accst le eob a b imm =>
    exact (s.took.leOp_stops le eob _).imp_right (⟨·, le, eob, b, .inr (.inr (.inr (.inr (.inl ⟨a, imm, rfl⟩))))⟩)
  | bld le eob l b n =>
    exact (s.leOp_stops le eob _).imp_right (⟨·, le, eob, b, .inr (.inr (.inr (.inr (.inr ⟨l, n, rfl⟩))))⟩)
  | leLoop le eob | ret le eob | waitb le eob =>
    refine .inl (s.leOp_isNext le eob ?_)
    exact OpRes.ite_ne_outside nofun nofun
  | mac le eob | msu le eob | mul le eob | mac2 le eob | macus le eob | clr le eob | ext le eob | leAdd le eob | leSub le eob
  | leAddi le eob | leAnd le eob | leOr le eob | leXor le eob | leLi le eob | maxi le eob | mini le eob | rcp le eob | rsq le eob
  | br le eob | bz le eob | bnz le eob | blt le eob | reti le eob | mfc le eob | mtc le eob | clrf le eob | nop le eob =>
    exact .inl (s.leOp_isNext le eob (r := .stage _ _) nofun)
  | leShl le eob | leShr le eob | leSra le eob | leLui le eob | leCmp le eob | satw le eob =>
    exact .inl (s.took.leOp_isNext le eob (r := .stage _ _) nofun)
  | mbxDoorbell | mbxRspHeadWrite | mbxEnableSet | mbxEnableClear | mbxEvtHeadWrite | mbxEvtEnable | supFtSnapLoRead | supFaultWrite
  | mbxBadAccess | registerWrite | mbxEvtLostRead =>
    left
    dsimp only [exec]
    exact s.access_isNext _
  | safetyInternalFault f => exact .inl (by cases f <;> exact ⟨_, rfl⟩)
  | _ => exact .inl ⟨_, rfl⟩

/-- Settles O60: a command that has no next state is an access outside local memory, which is a fault and no refusal. -/
theorem stopsOnlyOutsideLocalMemory : Obligations.StopsOnlyOutsideLocalMemory := by
  unfold Obligations.StopsOnlyOutsideLocalMemory
  intro c s
  rcases exec_isNext_or c s with ⟨t, hNext⟩ | ⟨hFault, hAddresses⟩
  · rw [hNext]
    exact ⟨nofun, nofun⟩
  · rw [hFault]
    refine ⟨nofun, fun f hf => ?_⟩
    cases hf
    exact ⟨rfl, hAddresses⟩

end Sys2Proof.Machine
end

section
/-! AXIS_ENABLE, AXIS_DISABLE and STOP (R239, R240, R375, R414, R441, R554, R555). A queued command acts on the object its endpoint
names, and each class of axis has one law for the acceptance of AXIS_ENABLE: every reason to reject is absent. -/

namespace Sys2Proof.Machine

/-! ### AXIS_ENABLE accepted, by class of axis -/

section
variable {s : State} {i : Nat}

/-- A servo axis is placed on its engine with its hooks attached, and enabling begins; an fb_source other than 3 identifies nothing
before it (R240). -/
theorem State.enableServo_of_ready {le : Nat} (k : Nat) (hState : (s.getLoop i).state = .disabled) (hFirst : s.awaits i opEnable = false)
    (hSto : (s.getFlags i).sto = false) (hGate : (s.getFlags i).gateFault = false) (hVdc : s.parF i P.dcMin ≤ s.servoVdc i)
    (hSync : s.synchronised i = false) (hCombo : s.comboFails i = false)
    (hAttach : s.attachBad i ([0, 1, 2, 3].map (fun p => s.par i P.hookKernel p)) = false) (hEngine : s.chooseEngine i = some le)
    (hSource : (((((s.placeAxis le i).attachHooks i).zeroHookData i).setRecord i []).await k i opEnable).par i P.fbSource ≠ 3) :
    s.enableServo k i =
      (((((s.placeAxis le i).attachHooks i).zeroHookData i).setRecord i []).await k i opEnable).beginEnabling i := by
  simp only [State.enableServo, hFirst, hState, hSto, hGate, not_lt.mpr hVdc, hSync, hCombo, hAttach, hEngine, Bool.false_and,
    Bool.or_self, Bool.false_eq_true, ne_eq, not_true_eq_false, if_false, if_neg hSource]

/-- A stepper channel begins, and the command waits for its enabling (R441). -/
theorem State.enableStepper_of_ready (k : Nat) (hState : (s.getStepper i).state = .disabled) (hSto : (s.getStepper i).sto = false)
    (hVdc : s.parF (epStepper i) P.stpDcMin ≤
      s.vdcOf (s.par (epStepper i) P.stpDcInput) (Config.dcFullscale (s.par (epStepper i) P.stpDcInput)))
    (hSync : s.synchronised (epStepper i) = false) (hCombo : s.comboFails (epStepper i) = false) :
    s.enableStepper k i = (s.stpBegin i).await k (epStepper i) opEnable := by
  simp only [State.enableStepper, hState, hSto, not_lt.mpr hVdc, hSync, hCombo, Bool.false_and, Bool.false_eq_true, ne_eq,
    not_true_eq_false, if_false]

/-- An auxiliary drive turns on and the command completes (R311, R312). -/
theorem State.enableAux_of_ready (k : Nat) (hState : (s.getAux i).state = .off) (hSto : (s.getAux i).sto = false)
    (hGate : (s.getAux i).gateFault = false)
    (hVdc : s.parF (epAux i) P.auxDcMin ≤
      s.vdcOf (s.par (epAux i) P.auxDcInput) (Config.dcFullscale (s.par (epAux i) P.auxDcInput)))
    (hCombo : s.comboFails (epAux i) = false) : s.enableAux k i = (s.auxOn i).ok k := by
  simp only [State.enableAux, hState, hSto, hGate, not_lt.mpr hVdc, hCombo, Bool.false_eq_true, ne_eq, not_true_eq_false, if_false]

/-- A virtual axis is ENABLED at once, at rest, with its trail open, and publishes from then on (R375). -/
theorem State.enableVirt_of_ready (k : Nat) (hState : (s.getVirt i).state = .disabled) (hSync : s.synchronised (epVirt i) = false)
    (hCombo : s.comboFails (epVirt i) = false) :
    s.enableVirt k i = (((((s.setVirt i { s.getVirt i with
      state := .enabled, stop := none, disablePending := false, starvedSince := none, sp := ((s.getVirt i).sp.1, 0, 0)
      sampleXt := gridAtOrBefore (s.par (epVirt i) P.vaPeriodTicks) (s.par (epVirt i) P.vaPhaseTicks) s.xt16 }).modTrail
        (epVirt i) (fun t => { t with lastNum := 0, lastWaymark := 0 })).openTrail (epVirt i)).beginPublications
          (epVirt i)).ok k) := by
  simp only [State.enableVirt, hState, hSync, hCombo, Bool.false_and, Bool.false_eq_true, ne_eq, not_true_eq_false, if_false]

/-- A remote axis is ENABLING until a feedback frame comes (R414). -/
theorem State.enableRemote_of_ready (k : Nat) (hState : (s.getRemote i).state = .disabled) (hSync : s.synchronised (epRemote i) = false)
    (hCombo : s.comboFails (epRemote i) = false) :
    s.enableRemote k i = (s.setRemote i { s.getRemote i with
      state := .enabling, stopBit := false, enableTick := some s.tick, fbTick := s.tick }).await k (epRemote i) opEnable := by
  simp only [State.enableRemote, hState, hSync, hCombo, Bool.false_and, Bool.false_eq_true, ne_eq, not_true_eq_false, if_false]

end

/-! ### The three commands as they act -/

/-- AXIS_ENABLE of the object that an endpoint names. -/
def State.enableObject (s : State) (k : Nat) : Option (ObjClass × Nat) → State
  | some (.servo, i) => s.enableServo k i
  | some (.stepper, i) => s.enableStepper k i
  | some (.aux, j) => s.enableAux k j
  | some (.virt, i) => s.enableVirt k i
  | some (.remote, i) => s.enableRemote k i
  | _ => s.finish k E.endpoint

/-- A queued AXIS_ENABLE acts on the object of its endpoint's class (R240). -/
theorem execAxisEnable_of_class {s t : State} {ref : CmdRef} {ep : BitVec 16} {o : Option (ObjClass × Nat)}
    (hQueued : s.queuedFor ref 0x0301 = true) (hClass : classOf ep.toNat = o) (hNext : s.enableObject (cmdKey ref) o = t) :
    execAxisEnable ref ep s = .next t := by
  subst hClass hNext
  exact Out.next_congr (State.execCmd_of_queuedFor _ hQueued)

/-- Categories 0 and 1 of AXIS_DISABLE are in range (R554). -/
theorem disableCategory_inRange {c : Nat} (h : c ≤ 1) : (!(c == 0 || c == 1 || c == 0xFF)) = false := by
  rcases Nat.le_one_iff_eq_zero_or_eq_one.mp h with rfl | rfl <;> rfl

/-- AXIS_DISABLE of a servo axis in category 0 or 1 is in the category asked, not that of disable_category (R554). -/
theorem execAxisDisable_of_servo {s : State} {ref : CmdRef} {ep : BitVec 16} {i : Nat} {c : Byte} (hQueued : s.queuedFor ref 0x0302 = true)
    (hClass : classOf ep.toNat = some (.servo, i)) (hCat : c.toNat ≤ 1) :
    execAxisDisable ref ep c s = .next (s.disableServo (cmdKey ref) i c.toNat) := by
  have hAsked : c.toNat ≠ 0xFF := by omega
  refine Out.next_congr ((State.execCmd_of_queuedFor _ hQueued).trans ?_)
  simp only [hClass, disableCategory_inRange hCat, Bool.false_eq_true, if_false, if_neg hAsked]

/-- STOP of an object that can stop, in a category up to 2, is that of a servo axis, a path group or another axis (R555). -/
theorem execStop_of_accepted {s : State} {ref : CmdRef} {ep : BitVec 16} {cat : Byte} (hQueued : s.queuedFor ref 0x0510 = true)
    (hCat : cat.toNat ≤ 2) (hStops : stoppable ep.toNat = true) :
    execStop ref ep cat s = .next (
      if ep.toNat < 0x20 then s.stopServo (cmdKey ref) ep.toNat cat.toNat
      else if isGroupEp ep.toNat then (s.stopGroup (ep.toNat - epGroup 0) cat.toNat).ok (cmdKey ref) (leFt8 s.ft8)
      else (s.stopOther ep.toNat cat.toNat).ok (cmdKey ref) (leFt8 (s.stopFt8 ep.toNat))) :=
  Out.next_congr ((State.execCmd_of_queuedFor _ hQueued).trans ((if_neg (by simp [hStops])).trans (if_neg hCat.not_gt)))

/-- Settles O15: a queued command acts on the object its endpoint names; AXIS_ENABLE meets no reason to reject it, and AXIS_DISABLE and
STOP part on the state of the axis. -/
theorem axisCommandsAct : Obligations.AxisCommandsAct := by
  unfold Obligations.AxisCommandsAct
  refine ⟨?enableServo, ?disableEnabled, ?stopServo, ?enableStepper, ?enableAux, ?enableVirt, ?enableRemote, ?disableEnabling,
    ?disableFaulted, ?disableStepper, ?disableAux, ?stopGroup, ?stopOther⟩
  case enableServo =>
    rintro s t ref ep i le hQueued hClass hState hFirst hSto hGate hVdc hSync hCombo hAttach hEngine rfl hSource
    exact execAxisEnable_of_class hQueued hClass
      (State.enableServo_of_ready _ hState hFirst hSto hGate hVdc hSync hCombo hAttach hEngine hSource)
  case enableStepper =>
    exact fun s ref ep i hQueued hClass hState hSto hVdc hSync hCombo =>
      execAxisEnable_of_class hQueued hClass (State.enableStepper_of_ready _ hState hSto hVdc hSync hCombo)
  case enableAux =>
    exact fun s ref ep j hQueued hClass hState hSto hGate hVdc hCombo =>
      execAxisEnable_of_class hQueued hClass (State.enableAux_of_ready _ hState hSto hGate hVdc hCombo)
  case enableVirt =>
    exact fun s ref ep i hQueued hClass hState hSync hCombo =>
      execAxisEnable_of_class hQueued hClass (State.enableVirt_of_ready _ hState hSync hCombo)
  case enableRemote =>
    exact fun s ref ep i hQueued hClass hState hSync hCombo =>
      execAxisEnable_of_class hQueued hClass (State.enableRemote_of_ready _ hState hSync hCombo)
  case disableEnabled | disableEnabling | disableFaulted =>
    intro s ref ep i c hQueued hClass hCat hState
    refine (execAxisDisable_of_servo hQueued hClass hCat).trans ?_
    simp only [State.disableServo, hState]
  case disableStepper | disableAux =>
    intro s ref ep i c hQueued hClass hCat hRuns
    refine Out.next_congr ((State.execCmd_of_queuedFor _ hQueued).trans ?_)
    simp only [hClass, disableCategory_inRange hCat, Bool.false_eq_true, if_false, if_neg hRuns]
  case stopServo =>
    intro s ref ep cat hQueued hCat hServo hStops hState
    refine (execStop_of_accepted hQueued hCat hStops).trans (Out.next_congr ((if_pos hServo).trans ?_))
    simp only [State.stopServo, hState]
  case stopGroup =>
    exact fun s ref ep cat hQueued hCat hOther hStops hGroup =>
      (execStop_of_accepted hQueued hCat hStops).trans (Out.next_congr ((if_neg hOther.not_gt).trans (if_pos hGroup)))
  case stopOther =>
    exact fun s ref ep cat hQueued hCat hOther hStops hSingle =>
      (execStop_of_accepted hQueued hCat hStops).trans (Out.next_congr ((if_neg hOther.not_gt).trans
        (if_neg (Bool.eq_false_iff.mp hSingle))))

end Sys2Proof.Machine
end

section
/-! The events of an auxiliary drive (R303, R309 to R311). Each acts in the branch of its guard (log entry 5); the current sample is
said once, for every drive that takes one. -/

namespace Sys2Proof.Machine

section
variable {s t : State} {j : Fin 16} {u : Nat} (c d : Int)

/-- A sample instant not yet taken, of a drive neither in OFF nor in FAULTED, is stamped on its grid; the faults and the switching
conditions come first, and a drive whose bridge they leave driven runs its current loop, after the speed loop on every fourth sample
(R303; log entry 44). -/
theorem execAuxCurrentSample_of_due
    (hGrid : u = gridAtOrBefore (s.par (epAux j.val) P.auxPeriodTicks) (s.par (epAux j.val) P.auxPhaseTicks) s.xt16)
    (hNew : (s.getAux j.val).pwm.sample = 0 ∨ u ≠ (s.getAux j.val).pwm.updateXt)
    (hOn : (s.getAux j.val).state ≠ .off) (hSound : (s.getAux j.val).state ≠ .faulted)
    (ht : t = ((s.modAux j.val (fun a => { a with
      sub := (a.sub + 1) % 4, pwm := { a.pwm with
        updateXt := u, period := s.par (epAux j.val) P.auxPeriodTicks * tickUnits, sample := a.pwm.sample + 1 } })).auxSampleFaults
          j.val).auxSwitch j.val) :
    exec (.auxCurrentSample j c d) s = .next (
      if (!(t.getAux j.val).state.driven) = true then t
      else
        let v := (t.auxMeasure j.val c d).auxWatch j.val
        (if (v.getAux j.val).sub = 0 ∧ (v.getAux j.val).state.speedLoop = true then
          v.auxSpeedLoop j.val ((v.auxCfg j.val).t * 4) else v).auxCurrentLoop j.val ((t.getAux j.val).state == .hold)) := by
  subst hGrid ht
  have hDue : ¬ ((s.getAux j.val).pwm.sample ≠ 0 ∧
      gridAtOrBefore (s.par (epAux j.val) P.auxPeriodTicks) (s.par (epAux j.val) P.auxPhaseTicks) s.xt16 =
        (s.getAux j.val).pwm.updateXt) := fun h => hNew.elim h.1 (absurd h.2)
  exact Out.next_congr ((if_neg hDue).trans (if_neg (not_or.mpr ⟨hOn, hSound⟩)))

/-- Without lock, the wait for the observer ends as START_FAILED after 200 ms (R309, R310). -/
theorem execAuxStartTimeout_of_unlocked {from_ : Nat} (hFrom : (s.getAux j.val).handoverFrom = some from_)
    (hOver : s.expired from_ (msTicks 200) = true) (hUnlocked : (s.getAux j.val).foc.obs.locked = false) :
    exec (.auxStartTimeout j) s = .next (s.auxFault j.val [1]) := by
  show execAuxStartTimeout j s = _
  simp only [execAuxStartTimeout, hFrom]
  exact Out.next_congr (if_pos (by simp [hOver, hUnlocked]))

end

/-- Settles O50: a first sample is due, and runs the loops of a driven drive; each timer acts in the branch of its guard. -/
theorem auxDriveEventsComplete : Obligations.AuxDriveEventsComplete := by
  unfold Obligations.AuxDriveEventsComplete
  refine ⟨?currentSample, ?alignDone, ?startTimeout, ?retryDelay, ?retryReset⟩
  case currentSample =>
    exact fun s t j c d u hGrid hOn hSound hFirst ht hDriven =>
      (execAuxCurrentSample_of_due c d hGrid (.inl hFirst) hOn hSound ht).trans (Out.next_congr (if_neg (by simp [hDriven])))
  case alignDone => exact fun s j hAlign hPassed => Out.next_congr (if_pos ⟨hAlign, hPassed⟩)
  case startTimeout => exact fun s j from_ hFrom hOver hUnlocked => execAuxStartTimeout_of_unlocked hFrom hOver hUnlocked
  case retryDelay => exact fun s j hWait hPassed => Out.next_congr (if_pos ⟨hWait, hPassed⟩)
  case retryReset => exact fun s j hRun hPassed => Out.next_congr (if_pos ⟨hRun, hPassed⟩)

end Sys2Proof.Machine
end

section
/-! Segments between modules, waymarks, virtual axes and remote axes (R330, R344, R374, R413, R414). Each event acts in the branch of its
guard (log entry 5), so its law says which guards the trail's or the axis's state passes. -/

namespace Sys2Proof.Machine

section
variable {s : State}

/-- A waymark of a single axis at which no blend starts and that asks for no log entry: the move in progress leaves the list, its
number is kept as that of the last waymark, and it counts as done; the state of the trail stays (R330). -/
theorem execWaymarkPassed_of_single {ep : TrailEp} {m : Move} {x : Ft16} (hAt : s.waymarkAt (trailEp ep) = some (m, x))
    (hSilent : bitOf m.rec_.flags.toNat 0 = false) (hSingle : isGroupEp (trailEp ep) = false) (hNoBlend : m.rec_.blend ≠ 1) :
    exec (.waymarkPassed ep) s = .next ((s.modTrail (trailEp ep) (fun t => { t with
      moves := t.moves.drop 1, lastWaymark := m.num, lastVec := [] })).bump (trailEp ep) C.trjMovesDone) := by
  have hBlend : (m.rec_.blend == 1) = false := beq_false_of_ne hNoBlend
  show execWaymarkPassed ep s = _
  simp only [execWaymarkPassed, hAt, hSingle]
  exact Out.next_congr ((if_neg (Bool.eq_false_iff.mp hSilent)).trans (State.bumpIf_of_not (by rw [hBlend, Bool.false_and]) ..))

/-- Segments for a member on another module go there at least group_lead before the first of them begins, while the group moves (R344). -/
theorem execGroupSegmentSend_of_early {g : Fin 32} {n : Fin 8} {b : Seg} {segs : List Seg} {fa : Nat}
    (hMember : (s.groupMembers g.val)[n.val]? = some fa) (hRemote : s.localEp fa = none)
    (hMoves : (s.getTrail (epGroup g.val)).state = .running ∨ (s.getTrail (epGroup g.val)).state = .stopping)
    (hEarly : ((unitsOfNs (s.parF (epGroup g.val) P.groupLead * 1000000)).toNat : Int) ≤ ft16Diff b.tStart s.time.ft16) :
    exec (.groupSegmentSend g n (b :: segs)) s = .next { s with fabric := { s.fabric with
      sent := (fa / 8192, FabMsg.segments fa (b :: segs)) :: s.fabric.sent } } := by
  have hRuns : ((s.getTrail (epGroup g.val)).state == .running || (s.getTrail (epGroup g.val)).state == .stopping) = true := by
    simpa using hMoves
  show execGroupSegmentSend g n (b :: segs) s = _
  simp only [execGroupSegmentSend, hMember]
  exact Out.next_congr (if_neg (by simp [hRemote, hRuns, -Int.ofNat_toNat, hEarly]))

/-- The sample of an enabled virtual axis with no stop in progress, at a grid instant it has not yet taken: a set-point of the
trajectory ends a starvation, and none starts (R374). -/
theorem execVirtualAxisSample_of_setpoint {u : State} {i : Fin 256} {m : Motion} {x : Nat}
    (hGrid : x = gridAtOrBefore (s.par (epVirt i.val) P.vaPeriodTicks) (s.par (epVirt i.val) P.vaPhaseTicks) s.xt16)
    (hEnabled : (s.getVirt i.val).state = .enabled) (hNew : (s.getVirt i.val).sampleXt < x) (hGoes : (s.getVirt i.val).stop = none)
    (hSetpoint : s.setpointAt (epVirt i.val) (ft16Of x) = (u, m, true)) :
    exec (.virtualAxisSample i) s = .next (((u.modVirt i.val (fun v => { v with
      sp := (m.p, m.v, m.a), sampleXt := x, starvedSince := none })).fireCrossings (epVirt i.val)
        (ft16Of (s.getVirt i.val).sampleXt) (s.getVirt i.val).sp.1 (ft16Of x) m.p).trailRest (epVirt i.val)) := by
  show execVirtualAxisSample i s = _
  simp only [execVirtualAxisSample, ← hGrid, hGoes, hSetpoint]
  exact Out.next_congr (if_neg (by simp [hEnabled, hNew.not_ge]))

/-- A remote axis that waits longer than rem_enable_timeout for its drive faults (R414). -/
theorem execRemoteEnableTimeout_of_expired {na : Fin 128} {t : Nat} (hEnabling : (s.getRemote na.val).state = .enabling)
    (hSince : (s.getRemote na.val).enableTick = some t)
    (hOver : s.expired t (msTicks (s.parF (epRemote na.val) P.remEnableTimeout)) = true) :
    exec (.remoteEnableTimeout na) s = .next (s.remoteFault na.val) := by
  show execRemoteEnableTimeout na s = _
  simp only [execRemoteEnableTimeout, hEnabling, hSince]
  exact Out.next_congr (if_pos hOver)

end

/-- Settles O51: a waymark, a sample and the segments a group sends have their laws above; segments that arrive, set-point and feedback
frames and the two time-outs of a remote axis pass their guards and act. -/
theorem segmentAndRemoteEventsComplete : Obligations.SegmentAndRemoteEventsComplete := by
  unfold Obligations.SegmentAndRemoteEventsComplete
  refine ⟨?waymark, ?segmentSend, ?segmentRx, ?virtualSample, ?setpointSend, ?feedbackRx, ?timeout, ?enableTimeout⟩
  case waymark => exact fun s ep m x => execWaymarkPassed_of_single
  case segmentSend => exact fun s g n b segs fa => execGroupSegmentSend_of_early
  case segmentRx => exact fun s ep segs hEnabled hFit => Out.next_congr (if_neg (by simp [hEnabled, hFit]))
  case virtualSample => exact fun s u i m x => execVirtualAxisSample_of_setpoint
  case setpointSend =>
    exact fun s na hAddress hLead hTransport =>
      Out.next_congr ((if_neg (not_or.mpr ⟨hAddress, hLead.not_gt⟩)).trans (if_neg hTransport))
  case feedbackRx =>
    exact fun s na fb hGood hNotFirst => Out.next_congr ((if_neg (Bool.eq_false_iff.mp hGood)).trans (if_neg hNotFirst))
  case timeout =>
    exact fun s na hEnabled hOver => Out.next_congr (if_neg (by simp [hEnabled, hOver]))
  case enableTimeout => exact fun s na hEnabling t hSince hOver => execRemoteEnableTimeout_of_expired hEnabling hSince hOver

end Sys2Proof.Machine
end

section
/-! The gearing commands (R389 to R405, R412, R421, R556). The checks of a command are a list, of which each check is settled by the
premises that speak of it; those with more than one part have a law of their own. -/

namespace Sys2Proof.Machine

/-- The operands of CAM_LOAD are in range: a known interpolation and 2 to 4,097 points (R395). -/
theorem camLoad_inRange {interp total : Nat} (hInterp : interp ≤ 2) (hTwo : 2 ≤ total) (hMost : total ≤ 4097) :
    (decide (2 < interp) || decide (total < 2) || decide (4097 < total)) = false := by
  simp only [Bool.or_eq_false_iff, decide_eq_false_iff_not]
  omega

/-- The points of CAM_LOAD go on from the points kept: they rise, begin at 0 and fit (R395). -/
theorem camLoad_goesOn {first total given kept : Nat} {rising offZero : Bool} (hRising : rising = true) (hFromZero : offZero = false)
    (hFits : first + given ≤ total) (hKept : kept = first) :
    (!rising || offZero || decide (total < first + given) || decide (kept ≠ first)) = false := by
  simp [hRising, hFromZero, hFits, hKept]

/-- The operands of CONVOY_JOIN are in range (R390). -/
theorem convoyJoin_inRange {map anchor : Nat} {badStage goodDist noRatio noTable : Bool} (hMap : map ≤ 2) (hAnchor : anchor ≤ 1)
    (hStage : ¬ badStage = true) (hDist : goodDist = true) (hRatio : ¬ noRatio = true) (hTable : ¬ noTable = true) :
    (decide (2 < map) || decide (1 < anchor) || badStage || !goodDist || noRatio || noTable) = false := by
  simp [hMap, hAnchor, hStage, hDist, hRatio, hTable]

/-- The limits of PHASE_MOVE are in range, and its speed and acceleration not 0 (R322, R390). -/
theorem phaseMove_inRange {v a : Rat} {goodV goodA goodJ : Bool} (hV : goodV = true) (hA : goodA = true) (hJ : goodJ = true)
    (hMoves : v ≠ 0) (hRamps : a ≠ 0) : (!goodV || !goodA || !goodJ || decide (v = 0) || decide (a = 0)) = false := by
  simp [hV, hA, hJ, hMoves, hRamps]

/-- Settles O17: a queued command passes its checks, each by the premises that speak of it, and acts; CAM_LOAD goes on with its next
points. -/
theorem convoyCommandsAct : Obligations.ConvoyCommandsAct := by
  unfold Obligations.ConvoyCommandsAct
  refine ⟨?camLoad, ?join, ?leave, ?phaseMove⟩
  case camLoad =>
    refine fun s ref ep interp first total pts reach hGoes hLow hHigh hInterp hTwo hMost hCoefs hFree hRising hFromZero hFits hKept =>
      Out.next_congr ((State.execUnits_of_goesOn _ hGoes).trans (State.checked_of _ _ _ _ ?_))
    simp only [List.forall_mem_cons]
    exact ⟨by simp [hLow, hHigh], camLoad_inRange hInterp hTwo hMost, Bool.eq_false_iff.mpr hCoefs, hFree,
      camLoad_goesOn hRising hFromZero hFits hKept, List.forall_mem_nil _⟩
  case join =>
    refine fun s ref ep j hQueued hFollows hMap hAnchor hStage hDist hRatio hTable hEnabled hStill hSet hAcquired hFree hSingle hMode
        hKnown hLead hStageUsed hValid =>
      Out.next_congr ((State.execCmd_of_queuedFor _ hQueued).trans (State.checked_of _ _ _ _ ?_))
    simp only [List.forall_mem_cons]
    exact ⟨congrArg not hFollows, convoyJoin_inRange hMap hAnchor hStage hDist hRatio hTable, bne_eq_false_iff_eq.mpr hEnabled,
      Bool.eq_false_iff.mpr hStill, Bool.or_eq_false_iff.mpr ⟨beq_false_of_ne hSet, beq_false_of_ne hAcquired⟩,
      Bool.or_eq_false_iff.mpr ⟨bne_eq_false_iff_eq.mpr hFree, hSingle⟩, Bool.eq_false_iff.mpr hMode, congrArg not hKnown,
      decide_eq_false hLead.not_gt, Bool.eq_false_iff.mpr hStageUsed, Bool.eq_false_iff.mpr hValid, List.forall_mem_nil _⟩
  case leave =>
    refine fun s ref ep mode hQueued hFollows hMode hRuns =>
      Out.next_congr ((State.execCmd_of_queuedFor _ hQueued).trans (State.checked_of _ _ _ _ ?_))
    simp only [List.forall_mem_cons]
    exact ⟨congrArg not hFollows, decide_eq_false hMode.not_gt, congrArg not hRuns, List.forall_mem_nil _⟩
  case phaseMove =>
    refine fun s ref ep dist v a j hQueued hFollows hV hA hJ hMoves hRamps hCoupled hByPos =>
      Out.next_congr ((State.execCmd_of_queuedFor _ hQueued).trans (State.checked_of _ _ _ _ ?_))
    simp only [List.forall_mem_cons]
    exact ⟨congrArg not hFollows, phaseMove_inRange hV hA hJ hMoves hRamps, bne_eq_false_iff_eq.mpr hCoupled,
      beq_false_of_ne hByPos, List.forall_mem_nil _⟩

end Sys2Proof.Machine
end

section
/-! Convoy publications and registrations (R377 to R380, R406). -/

namespace Sys2Proof.Machine

/-- Settles O18: the master is planned, the instant of the publication has come within its lead, and each answer to a registration
is judged by its status. -/
theorem convoyPublisherActs : Obligations.ConvoyPublisherActs := by
  unfold Obligations.ConvoyPublisherActs
  refine ⟨?nextGrid, ?firstGrid, ?boundary, ?supersede, ?republish, ?registered, ?refused, ?timeout⟩
  case nextGrid =>
    refine fun s cp ep hMaster g hLast hDue => ?_
    show execConvoyPublish cp s = _
    simp only [execConvoyPublish, hMaster, hLast]
    exact Out.next_congr (if_neg hDue.not_gt)
  case firstGrid =>
    refine fun s cp ep hMaster hFirst hDue => ?_
    show execConvoyPublish cp s = _
    simp only [execConvoyPublish, hMaster, hFirst]
    exact Out.next_congr (if_neg hDue.not_gt)
  case boundary =>
    refine fun s cp tRef ep hMaster hBegins hOffGrid hDue hNew hFew => ?_
    show execConvoyBoundaryPublish cp tRef s = _
    simp only [execConvoyBoundaryPublish, hMaster]
    exact Out.next_congr ((if_neg (by rw [hBegins, hOffGrid, hNew, decide_eq_false hDue.not_gt]; decide)).trans (if_neg hFew.not_ge))
  case supersede =>
    refine fun s cp tRef ep hMaster l hLast hDeparts hChanged => ?_
    show execConvoySupersede cp tRef s = _
    simp only [execConvoySupersede, hMaster, hLast]
    exact Out.next_congr (if_neg (by rw [hDeparts, Bool.eq_false_iff.mpr hChanged]; decide))
  case republish =>
    refine fun s cp pub g hMap hOpen hConvoy hByPos hRuns hHeld => ?_
    show execConvoyRepublish cp pub s = _
    simp only [execConvoyRepublish, hMap]
    exact Out.next_congr (if_neg (by rw [hOpen, hRuns, hHeld, hConvoy]; simp [hByPos]))
  case registered =>
    refine fun s cp status n _ k hAsked hOk => ?_
    show execRegisterAnswerRx cp status s = _
    simp only [execRegisterAnswerRx, hAsked]
    exact Out.next_congr (if_pos hOk)
  case refused =>
    refine fun s cp status n _ k hAsked hBad => ?_
    show execRegisterAnswerRx cp status s = _
    simp only [execRegisterAnswerRx, hAsked]
    exact Out.next_congr (if_neg hBad)
  case timeout =>
    refine fun s cp _ _ k hAsked hDue => ?_
    show execConvoyRegisterTimeout cp s = _
    simp only [execConvoyRegisterTimeout, hAsked]
    exact Out.next_congr (if_pos hDue)

end Sys2Proof.Machine
end

section
/-! The events of a follower and of a remote axis (R384, R388, R402, R403, R407, R408, R413, R414). -/

namespace Sys2Proof.Machine

/-- A mark that a capture channel delivered is heeded under reg_source 1 (R407, R460). -/
theorem regMark_heeded {s : State} {ep : Nat} {stamp : Ft8} (hSource : s.par ep P.regSource = 1)
    (hMark : (s.getFollower ep).marks.contains stamp = true) :
    ¬ (s.par ep P.regSource ≠ 1 ∨ (!(s.getFollower ep).marks.contains stamp) = true) :=
  not_or.mpr ⟨not_not.mpr hSource, by rw [hMark]; decide⟩

/-- No reason to reject a mark holds: its error is within reg_window, a held publication covers its stamp and the follower is COUPLED
(R408). -/
theorem regMark_accepted {e window : Rat} {before : Bool} {state : MemberState} (hWindow : e ≤ window) (hAfter : before = false)
    (hCoupled : state = .coupled) : ¬ (window < e ∨ before = true ∨ state ≠ .coupled) :=
  not_or.mpr ⟨hWindow.not_gt, not_or.mpr ⟨Bool.eq_false_iff.mp hAfter, not_not.mpr hCoupled⟩⟩

/-- Settles O19: a join whose instant has come fails or begins by the velocity at that instant, and a mark is rejected, or accepted and
then corrects beyond the deadband; the other events act in the branch of their guard. Four clauses of a remote axis are those of
`segmentAndRemoteEventsComplete`. -/
theorem followerAndRemoteActs : Obligations.FollowerAndRemoteActs := by
  unfold Obligations.FollowerAndRemoteActs
  obtain ⟨-, -, -, -, setpointSend, feedback, remoteTimeout, enableTimeout⟩ := segmentAndRemoteEventsComplete
  refine ⟨?frameRx, ?localDelivery, ?stale, ?joinFails, ?markRejected, ?relaySend, ?badFeedback, ?remoteTimeout, ?enableTimeout,
    ?joinSyncing, ?markInDeadband, ?markCorrects, ?setpointSend, ?enabledFeedback, ?feedback⟩
  case frameRx => exact fun s f pub => rfl
  case localDelivery => exact fun s f pub hSent => Out.next_congr (if_pos hSent)
  case stale => exact fun s f hFollows hStale => Out.next_congr (if_pos (Bool.and_eq_true_iff.mpr ⟨hFollows, hStale⟩))
  case joinFails =>
    refine fun s fe hWaiting j hJoin g hMap a hAt p hUse hReached x hHere hAtOnce hFar => ?_
    show execConvoyJoinInstant fe s = _
    simp only [execConvoyJoinInstant, hWaiting, hJoin, hMap, hAt, hUse, hHere]
    exact Out.next_congr ((if_neg hReached.not_gt).trans (if_pos ⟨hAtOnce, hFar⟩))
  case joinSyncing =>
    refine fun s fe hWaiting j hJoin g hMap hAt p hUse hReached x hHere hNear hOver => ?_
    show execConvoyJoinInstant fe s = _
    simp only [execConvoyJoinInstant, hWaiting, hJoin, hMap, hAt, hUse, hHere]
    exact Out.next_congr ((if_neg hReached.not_gt).trans ((if_neg hNear).trans (if_neg hOver)))
  case markRejected =>
    exact fun s fe stamp hSource hMark hReject => Out.next_congr ((if_neg (regMark_heeded hSource hMark)).trans (if_pos hReject))
  case markInDeadband =>
    exact fun s fe stamp hSource hMark hWindow hAfter hCoupled hDead => Out.next_congr ((if_neg (regMark_heeded hSource hMark)).trans
      ((if_neg (regMark_accepted hWindow hAfter hCoupled)).trans (if_pos hDead)))
  case markCorrects =>
    refine fun s fe stamp hSource hMark hWindow hAfter hCoupled hLarge g hMap =>
      Out.next_congr ((if_neg (regMark_heeded hSource hMark)).trans
        ((if_neg (regMark_accepted hWindow hAfter hCoupled)).trans ((if_neg hLarge.not_ge).trans ?_)))
    have hMapping : (s.getFollower (folEp fe)).map = some g := hMap
    simp only [hMapping]
  case relaySend =>
    exact fun s na hAddress hLead hRelay =>
      Out.next_congr ((if_neg (not_or.mpr ⟨hAddress, hLead.not_gt⟩)).trans (if_pos hRelay))
  case setpointSend => exact setpointSend
  case badFeedback => exact fun s na fb hBad => Out.next_congr (if_pos hBad)
  case enabledFeedback =>
    exact fun s na fb hGood hEnabling hReady =>
      Out.next_congr ((if_neg (Bool.eq_false_iff.mp hGood)).trans (if_pos ⟨hEnabling, hReady⟩))
  case feedback => exact feedback
  case remoteTimeout => exact remoteTimeout
  case enableTimeout => exact enableTimeout

end Sys2Proof.Machine
end

section
/-! Ethernet frames received and sent (R666, R672 to R684, R690, R691). -/

namespace Sys2Proof.Machine

/-- Settles O42: a frame, a time-out or a gate change without a guard is its own law; the others act in the branch of their premises. -/
theorem ethernetActs : Obligations.EthernetActs := by
  unfold Obligations.EthernetActs
  refine ⟨?badFcs, ?pause, ?arpRequest, ?arpReply, ?icmpEcho, ?arpExpiry, ?arpTimeout, ?reassemblyTimeout, ?linkChange,
    ?safeHandover, ?safeTx, ?relay, ?relayDatagram, ?frameTx, ?scheduled, ?txLate, ?gateChange, ?configChange, ?badFragments⟩
  case badFcs => rintro s port _ _ rfl; rfl
  case badFragments => rintro s port _ _ rfl; rfl
  case pause => exact fun s port => rfl
  case arpRequest => exact fun s port target sender mac hOwn => Out.next_congr (if_pos hOwn)
  case arpReply => exact fun s port sender mac => rfl
  case icmpEcho => exact fun s port sender data hFew => Out.next_congr (if_pos hFew)
  case arpExpiry => exact fun s port addr => rfl
  case arpTimeout => exact fun s port addr => rfl
  case reassemblyTimeout => exact fun s port buf => rfl
  case linkChange => exact fun s port up => rfl
  case safeHandover => exact fun s port bytes rx => rfl
  case safeTx => exact fun s conn bytes hWaits => Out.next_congr (if_pos hWaits)
  case relay => exact fun s src ethPort returned addr udp data hOutward => Out.next_congr (if_neg (Bool.eq_false_iff.mp hOutward))
  case relayDatagram =>
    refine fun s port addr udp data r hRelay => ?_
    show execRelayDatagramRx port addr udp data s = _
    simp only [execRelayDatagramRx, hRelay]
  case frameTx =>
    refine fun s port hUp q hNext f rest hQueue => ?_
    show execEthFrameTx port s = _
    simp only [execEthFrameTx, hNext, hQueue]
    exact Out.next_congr (if_neg (by rw [hUp]; decide))
  case scheduled =>
    refine fun s port na m hFrame hTransport i seq flags t p v a hSetpoint => ?_
    subst hSetpoint
    show execEthScheduledEnqueue port na s = _
    simp only [execEthScheduledEnqueue, hFrame]
    exact Out.next_congr (if_neg (not_not.mpr hTransport))
  case txLate => exact fun s port queue => rfl
  case gateChange => exact fun s port => rfl
  case configChange =>
    refine fun s port t en hPending hReached => ?_
    show execQbvConfigChange port s = _
    simp only [execQbvConfigChange, hPending]
    exact Out.next_congr (if_neg hReached.not_gt)

end Sys2Proof.Machine
end

section
/-! The capture commands (R452, R458, R459, R467, R470, R473, R479 to R482, R841). -/

namespace Sys2Proof.Machine

/-- Settles O23: a command in flight acts on the channel that its endpoint names, or on the closed basket of its id, in the branch of
its premises; BASKET_DISARM ends by the state of the channel once a trigger of this tick is taken. -/
theorem captureCommandsAct : Obligations.CaptureCommandsAct := by
  unfold Obligations.CaptureCommandsAct
  refine ⟨?arm, ?list, ?read, ?release, ?latchRead, ?trigger, ?disarmed, ?disarmPost⟩
  case arm =>
    refine fun s ref ep count hQueued c hChannel hDisarmed hSamples hLargest hCircle hConds hSignals hClock hTimes =>
      Out.next_congr ((State.execCmd_of_queuedFor _ hQueued).trans ?_)
    simp only [hChannel]
    refine State.checked_of _ _ _ _ ?_
    simp only [List.forall_mem_cons]
    exact ⟨bne_eq_false_iff_eq.mpr hDisarmed,
      Bool.or_eq_false_iff.mpr ⟨decide_eq_false hSamples.not_gt, decide_eq_false hLargest.not_gt⟩,
      Bool.or_eq_false_iff.mpr ⟨hCircle, hConds⟩, Bool.or_eq_false_iff.mpr ⟨hSignals, Bool.eq_false_iff.mpr hClock⟩, hTimes,
      List.forall_mem_nil _⟩
  case list =>
    refine fun s ref ep hQueued c hChannel => Out.next_congr ((State.execCmd_of_queuedFor _ hQueued).trans ?_)
    simp only [hChannel]
  case read =>
    refine fun s ref id offset len reach hGoes b hBasket hSome hMost hInside =>
      Out.next_congr ((State.execUnits_of_goesOn _ hGoes).trans ?_)
    simp only [hBasket]
    exact if_neg (not_or.mpr ⟨hSome, not_or.mpr ⟨hMost.not_gt, hInside.not_gt⟩⟩)
  case release =>
    refine fun s ref id hQueued b hBasket hUnread => Out.next_congr ((State.execCmd_of_queuedFor _ hQueued).trans ?_)
    simp only [hBasket]
    exact if_neg (Bool.eq_false_iff.mp hUnread)
  case latchRead =>
    refine fun s ref ep max hQueued c hChannel hSome hMost => Out.next_congr ((State.execCmd_of_queuedFor _ hQueued).trans ?_)
    simp only [hChannel]
    exact if_neg (not_or.mpr ⟨hSome, hMost.not_gt⟩)
  case trigger =>
    refine fun s ref ep hQueued c hChannel n hSoftware hOn => Out.next_congr ((State.execCmd_of_queuedFor _ hQueued).trans ?_)
    simp only [hChannel, hSoftware]
    exact if_neg hOn
  case disarmed =>
    refine fun s ref ep hQueued c hChannel hDisarmed => Out.next_congr ((State.execCmd_of_queuedFor _ hQueued).trans ?_)
    simp only [hChannel, hDisarmed]
  case disarmPost =>
    refine fun s ref ep hQueued c hChannel hPost => Out.next_congr ((State.execCmd_of_queuedFor _ hQueued).trans ?_)
    simp only [hChannel, hPost]

end Sys2Proof.Machine
end

section
/-! The capture events: firings, triggers, samples and latch records (R448, R451, R453, R455, R459, R461 to R465, R468, R474, R477). -/

namespace Sys2Proof.Machine

/-- No reason to pass over a sample holds: the channel is not DISARMED and in basket mode, the sample is later than the last one, and
under clock 2 it comes with its raw code (R463). -/
theorem captureSample_entered {state : CapState} {mode clock : Nat} {old : Bool} {rawCode : Option Int} (hOn : state ≠ .disarmed)
    (hBasket : mode ≠ 0) (hNew : old = false) (hCode : ¬ (clock = 2 ∧ rawCode = none)) :
    ¬ (state = .disarmed ∨ mode = 0 ∨ old = true ∨ (clock = 2 ∧ rawCode = none)) :=
  not_or.mpr ⟨hOn, not_or.mpr ⟨hBasket, not_or.mpr ⟨Bool.eq_false_iff.mp hNew, hCode⟩⟩⟩

/-- Settles O24: each event acts in the branch of its guard. A trigger goes by the earliest firing of its channel, a sample is entered by
the state of the channel once the threshold conditions are judged, and a due latch record also fills the basket of its trigger. -/
theorem captureEventsAct : Obligations.CaptureEventsAct := by
  unfold Obligations.CaptureEventsAct
  refine ⟨?firing, ?timeCondition, ?latchTrigger, ?armedSample, ?rearm, ?record, ?spill, ?basketTrigger, ?postSample, ?basketRecord⟩
  case firing =>
    refine fun s cc cond st hEdge => ?_
    show execCaptureFiring cc cond {} s = _
    simp only [execCaptureFiring, hEdge]
  case timeCondition =>
    exact fun s cc cond hTime hOn hPrimed hReached => Out.next_congr (if_pos ⟨hTime, hOn, hPrimed, hReached⟩)
  case latchTrigger =>
    refine fun s cc hArmed f hFiring hLatch hPast hFinal => ?_
    show execCaptureTrigger cc s = _
    simp only [execCaptureTrigger, hArmed, hFiring]
    exact Out.next_congr ((if_pos hLatch).trans (if_pos ⟨hPast, hFinal⟩))
  case basketTrigger =>
    refine fun s cc hArmed f hFiring hBasket x hSample hFinal => ?_
    show execCaptureTrigger cc s = _
    simp only [execCaptureTrigger, hArmed, hFiring, hSample]
    exact Out.next_congr ((if_neg hBasket).trans (if_pos hFinal))
  case armedSample =>
    refine fun s cc cycles frac rawCode p hLast hOn hBasket hNew hCode hArmed => ?_
    show execCaptureSample cc ⟨cycles, frac⟩ rawCode s = _
    simp only [execCaptureSample, hLast, hArmed]
    exact Out.next_congr (if_neg (captureSample_entered hOn hBasket hNew hCode))
  case postSample =>
    refine fun s cc cycles frac rawCode hFirst hOn hBasket hCode hPost => ?_
    show execCaptureSample cc ⟨cycles, frac⟩ rawCode s = _
    simp only [execCaptureSample, hFirst, hPost]
    exact Out.next_congr (if_neg (captureSample_entered hOn hBasket rfl hCode))
  case rearm => exact fun s cc hRearm hOver => Out.next_congr (if_pos ⟨hRearm, hOver⟩)
  case record =>
    refine fun s cc mask t n slot l hDue hReady hNoBasket => ?_
    subst hNoBasket
    show execLatchRecord cc s = _
    simp only [execLatchRecord, hDue]
    exact Out.next_congr (if_neg (Bool.eq_false_iff.mp (congrArg not hReady)))
  case basketRecord =>
    refine fun s cc mask t n slot l hDue hReady k hBasket hChannel hLatch => ?_
    subst hBasket
    show execLatchRecord cc s = _
    simp only [execLatchRecord, hDue]
    exact Out.next_congr ((if_neg (Bool.eq_false_iff.mp (congrArg not hReady))).trans (if_pos ⟨hChannel, hLatch⟩))
  case spill => exact fun s hLow => Out.next_congr (if_pos hLow)

end Sys2Proof.Machine
end

section
/-! The step and its queue (log entry 1): the command at the front runs with the queue's rest, and no command's effect touches that rest. -/

namespace Sys2Proof.Machine

/-- Settles O54: the queue's front and rest are what the step takes apart. -/
theorem stepRunsFrontCommand : Obligations.StepRunsFrontCommand := by
  unfold Obligations.StepRunsFrontCommand
  intro c rest s hFront
  simp only [step, hFront]

/-- Settles O55: the step has nothing to take. -/
theorem stepIdlesOnEmptyQueue : Obligations.StepIdlesOnEmptyQueue := by
  unfold Obligations.StepIdlesOnEmptyQueue
  intro s hEmpty
  simp only [step, hEmpty]

/-- Settles O56: the queue is the part of what every command keeps that asks nothing of the state before. -/
theorem stepTakesOneCommand : Obligations.StepTakesOneCommand := by
  unfold Obligations.StepTakesOneCommand
  intro s t hStep
  have hKept : nextHas (Kept false s.pending.tail) (step s) := step_kept (fun hAsked => absurd hAsked Bool.false_ne_true)
  rw [hStep] at hKept
  exact hKept.1

end Sys2Proof.Machine
end

section
/-! The commands that stage and commit, and the fabric-wide commit (R516 to R524, R543, R552). -/

namespace Sys2Proof.Machine

/-- Settles O20: each command runs where it is queued, or goes on, and meets no reason to reject it. -/
theorem coherentCommandsAct : Obligations.CoherentCommandsAct := by
  unfold Obligations.CoherentCommandsAct
  refine ⟨?stageWrite, ?paramImport, ?discard, ?commit, ?commitAt, ?prepare⟩
  case stageWrite =>
    refine fun s ref items hQueued hHere hSome hCount hGood hFits => Out.next_congr ((State.execCmd_of_queuedFor _ hQueued).trans ?_)
    simp only [hGood]
    exact (if_neg (Bool.eq_false_iff.mp hHere)).trans ((if_neg (by simp [hSome, hCount])).trans (if_neg (by simp [hFits])))
  case paramImport =>
    refine fun s ref offset items reach hGoes hHere l n b bad hImport hGood =>
      Out.next_congr ((State.execUnits_of_goesOn _ hGoes).trans ((if_neg (Bool.eq_false_iff.mp hHere)).trans ?_))
    subst hGood
    simp only [hImport]
  case discard => exact fun s ref hQueued => Out.next_congr (State.execCmd_of_queuedFor _ hQueued)
  case commit => exact fun s ref hQueued => Out.next_congr (State.execCmd_of_queuedFor _ hQueued)
  case commitAt =>
    refine fun s ref ft hQueued hLater hSoon =>
      Out.next_congr ((State.execCmd_of_queuedFor _ hQueued).trans (State.checked_of _ _ _ _ ?_))
    simp only [List.forall_mem_cons]
    exact ⟨decide_eq_false hLater.not_gt, decide_eq_false hSoon.not_gt, List.forall_mem_nil _⟩
  case prepare =>
    refine fun s ref ftC hQueued hSome hLater hSoon hDevs =>
      Out.next_congr ((State.execCmd_of_queuedFor _ hQueued).trans (State.checked_of _ _ _ _ ?_))
    simp only [List.forall_mem_cons]
    exact ⟨hSome, decide_eq_false hLater.not_gt, decide_eq_false hSoon.not_gt, decide_eq_false hDevs.not_gt, List.forall_mem_nil _⟩

/-- Settles O21: a message about a PREPARE acts on the record that its number names; a deadline acts once its time has come. At the
discard time-out the items go first, which changes neither the module's device number nor the coordinator's record. -/
theorem prepareEventsAct : Obligations.PrepareEventsAct := by
  unfold Obligations.PrepareEventsAct
  refine ⟨?items, ?ready, ?decision, ?abort, ?ack, ?readyDeadline, ?ackDeadline, ?applied, ?discardRemote, ?discardOwn⟩
  case items => exact fun s p sess ftC items => rfl
  case ready => exact fun s num part status index => rfl
  case decision =>
    refine fun s p q hPart hReady => ?_
    show execCommitDecisionMsg p s = _
    simp only [execCommitDecisionMsg, hPart, hReady, if_true]
  case abort => exact fun s p => rfl
  case ack =>
    refine fun s num part p hPrep hCommit hNew => ?_
    show execCommitAckMsg num part s = _
    simp only [execCommitAckMsg, hPrep]
    exact Out.next_congr (if_pos ⟨hCommit, hNew⟩)
  case readyDeadline =>
    refine fun s num p hPrep hOpen hReached => ?_
    show execPrepareReadyDeadline num s = _
    simp only [execPrepareReadyDeadline, hPrep, hOpen, hReached, Bool.and_self, if_true]
  case ackDeadline =>
    refine fun s num p hPrep hReached hLacking => ?_
    show execPrepareAckDeadline num s = _
    simp only [execPrepareAckDeadline, hPrep]
    exact Out.next_congr (if_pos (Bool.and_eq_true_iff.mpr ⟨hReached, hLacking⟩))
  case applied => exact fun s num part => rfl
  case discardRemote =>
    refine fun s p q hPart hReached hRemote => ?_
    show execPrepareDiscardTimeout p s = _
    simp only [execPrepareDiscardTimeout, hPart, hReached, if_true]
    exact Out.next_congr (if_pos (congrArg not hRemote))
  case discardOwn =>
    refine fun s p hNone hOwn r hPrep hReached => ?_
    show execPrepareDiscardTimeout p s = _
    simp only [execPrepareDiscardTimeout, hNone, hOwn, hPrep, hReached, Bool.not_true, Bool.false_eq_true, if_false, if_true]

end Sys2Proof.Machine
end

section
/-! System, log, session and key commands, and the sessions of the network (R495 to R509, R530 to R532, R541, R551, R561). -/

namespace Sys2Proof.Machine

/-- Settles O25: each command runs where it is queued, passes its checks and finds what its operands name; an event of a session acts in
the branch of its guard. -/
theorem hostCommandsAct : Obligations.HostCommandsAct := by
  unfold Obligations.HostCommandsAct
  refine ⟨?identify, ?status, ?cmdStatus, ?cmdAbort, ?interrupted, ?logRead, ?logMark, ?recordExpiry, ?sessionOpen, ?sessionClose,
    ?keySet, ?idle, ?hello, ?command, ?halfOpen⟩
  case identify => exact fun s ref hQueued => Out.next_congr (State.execCmd_of_queuedFor _ hQueued)
  case status => exact fun s ref hQueued => Out.next_congr (State.execCmd_of_queuedFor _ hQueued)
  case cmdStatus =>
    refine fun s ref dev tag hQueued hTag n hNamed => Out.next_congr ((State.execCmd_of_queuedFor _ hQueued).trans ?_)
    simp only [hTag, State.checked_cons_false, State.checked_nil, hNamed]
  case cmdAbort =>
    refine fun s ref dev tag hQueued hTag n hNamed hWaits => Out.next_congr ((State.execCmd_of_queuedFor _ hQueued).trans ?_)
    simp only [hTag, State.checked_cons_false, State.checked_nil, hNamed, hWaits]
  case interrupted => exact fun s ref hQueued => Out.next_congr (State.execCmd_of_queuedFor _ hQueued)
  case logRead =>
    refine fun s ref first max reach hGoes hSome hMost =>
      Out.next_congr ((State.execUnits_of_goesOn _ hGoes).trans (State.checked_of _ _ _ _ ?_))
    simp only [List.forall_mem_cons]
    exact ⟨Bool.or_eq_false_iff.mpr ⟨decide_eq_false hSome, decide_eq_false hMost.not_gt⟩, List.forall_mem_nil _⟩
  case logMark => exact fun s ref data hQueued => Out.next_congr (State.execCmd_of_queuedFor _ hQueued)
  case recordExpiry =>
    exact fun s ref hEnded hPassed => Out.next_congr (if_pos (Bool.and_eq_true_iff.mpr ⟨hEnded, hPassed⟩))
  case sessionOpen =>
    refine fun s ref tags hQueued hSome hMost hFree s' st data hOpen => Out.next_congr ((State.execCmd_of_queuedFor _ hQueued).trans
      ((if_neg (not_or.mpr ⟨hSome, hMost.not_gt⟩)).trans ((if_neg (Bool.eq_false_iff.mp hFree)).trans ?_)))
    simp only [hOpen]
  case sessionClose => exact fun s ref hQueued => Out.next_congr (State.execCmd_of_queuedFor _ hQueued)
  case keySet =>
    refine fun s ref keyId key hQueued x hSession hPcie hHere hKey => Out.next_congr ((State.execCmd_of_queuedFor _ hQueued).trans ?_)
    simp only [hSession]
    refine State.checked_of _ _ _ _ ?_
    simp only [List.forall_mem_cons]
    exact ⟨Bool.or_eq_false_iff.mpr ⟨congrArg not hPcie, hHere⟩, decide_eq_false hKey.not_ge, List.forall_mem_nil _⟩
  case idle =>
    refine fun s m x hSession hNetwork hIdle => ?_
    show execSessionIdleTimeout m s = _
    simp only [execSessionIdleTimeout, hSession, hNetwork, hIdle, Bool.and_self, if_true]
  case hello =>
    refine fun s port src bytes g hParts hKnown hType hBody hTag hRate => ?_
    show execUdpHello port src bytes s = _
    simp only [execUdpHello, hParts]
    exact Out.next_congr ((if_neg (by simp only [hKnown, hType, hBody, hTag]; decide)).trans (if_neg hRate.not_ge))
  case command =>
    refine fun s port src bytes g hParts hKnown hType hBody m x hSession hAuthentic hNew => ?_
    show execUdpCommand port src bytes s = _
    simp only [execUdpCommand, hParts, hSession]
    exact Out.next_congr ((if_neg (by simp [hKnown, hType, hBody])).trans
      ((if_neg (by simp [hAuthentic])).trans (if_neg (Bool.eq_false_iff.mp hNew))))
  case halfOpen =>
    refine fun s sessionId k h hFound hOver => ?_
    show execHalfOpenTimeout sessionId s = _
    simp only [execHalfOpenTimeout, hFound, hOver, if_true]

end Sys2Proof.Machine
end

section
/-! Rings, responses and forwarding (R489 to R501, R507, R508, R535, R665, R667; log entry 48). -/

namespace Sys2Proof.Machine

/-- Settles O27: a fetch passes its three guards; the other events act in the branch of their guard, on the response, session or command
record that is found. -/
theorem mailboxEventsAct : Obligations.MailboxEventsAct := by
  unfold Obligations.MailboxEventsAct
  refine ⟨?fetch, ?response, ?dmaFail, ?mbxModeration, ?eventModeration, ?linkDown, ?fabricSession, ?forwarded, ?answer, ?timeout⟩
  case fetch =>
    refine fun s m d hServes hWaiting hFree hSlot => Out.next_congr ((if_neg ?_).trans ((if_neg hFree).trans (if_neg hSlot.not_ge)))
    exact Bool.eq_false_iff.mp (Bool.or_eq_false_iff.mpr ⟨congrArg not hServes, beq_eq_false_iff_ne.mpr hWaiting⟩)
  case response =>
    refine fun s m k hFirst => ?_
    show execResponseWrite m s = _
    simp only [execResponseWrite, hFirst]
  case dmaFail => exact fun s m hServes => Out.next_congr (if_pos hServes)
  case mbxModeration =>
    rintro s _ elapsed m rfl b hDue hElapsed
    exact Out.next_congr (if_pos (Bool.and_eq_true_iff.mpr ⟨hDue, hElapsed⟩))
  case eventModeration =>
    rintro s _ elapsed rfl hDue hElapsed
    exact Out.next_congr (if_pos (Bool.and_eq_true_iff.mpr ⟨hDue, hElapsed⟩))
  case linkDown => exact fun s => rfl
  case fabricSession =>
    refine fun s src sess d hAdmitted hOther k hSession => ?_
    show execForwardedCommandRx src sess d s = _
    simp only [execForwardedCommandRx, hSession]
    exact Out.next_congr ((if_neg (by simp [hAdmitted])).trans (if_neg hOther))
  case forwarded =>
    refine fun s src sess d hAdmitted hOther hNone => ?_
    show execForwardedCommandRx src sess d s = _
    simp only [execForwardedCommandRx, hNone]
    exact Out.next_congr ((if_neg (by simp [hAdmitted])).trans (if_neg hOther))
  case answer =>
    refine fun s m tag status data tDone k hKey => ?_
    show execForwardedResponseRx m tag status data tDone s = _
    simp only [execForwardedResponseRx, hKey]
  case timeout =>
    refine fun s m tag k hKey t hSince hOver => ?_
    show execForwardTimeout m tag s = _
    simp only [execForwardTimeout, hKey, hSince, hOver, if_true]

end Sys2Proof.Machine
end

section
/-! Locks, the lock messages and the wait-for graph (R508, R525 to R529, R615, R616; log entry 49). -/

namespace Sys2Proof.Machine

/-- A queued LOCK of an open session meets no reason to reject it: few enough endpoints that can all be locked, no other LOCK waiting and
room in the session's list. It is tried on this module's table, or waits for another module's answer (R525 to R528). -/
theorem execLock_of_accepted {s : State} {ref : CmdRef} {wait : BitVec 32} {eps : List (BitVec 16)} {x : Session}
    (hQueued : s.queuedFor ref 0x0130 = true) (hSession : s.getSession (keyMbx (cmdKey ref)) = some x)
    (hWait : wait.toNat ≤ 10000) (hSome : eps.isEmpty = false) (hMost : eps.length ≤ 32)
    (hLockable : eps.any (fun e => !lockable e) = false) (hFirst : x.waiting.isSome = false) :
    let k := cmdKey ref
    let m := keyMbx k
    let d := (s.cmd k).image.device.toNat
    let dev := if s.isOwn d then 0 else d
    let waiting (s : State) : State :=
      (s.setSession m (some { x with waiting := some (k, dev, eps, wait.toNat, s.tick) })).run k
    let a := s.lockTry { sess := s.sessRef m, eps := eps } (wait != 0)
    x.locks.length + (eps.eraseDups.filter (fun e => !x.locks.contains (dev, e))).length ≤ 256 →
    execLock ref wait eps s = .next (
      if s.isOwn d then
        match a.2 with
        | .granted => (a.1.setSession m (some (x.withLocks 0 eps))).ok k
        | .locked => a.1.finish k E.locked
        | .circle => a.1.finish k E.waitCycle
        | .waits => waiting a.1
      else waiting (s.fabSend dev (.lockRequest (s.outRef (s.sessRef m)) eps wait.toNat))) := by
  refine fun hRoom => Out.next_congr ((State.execCmd_of_queuedFor _ hQueued).trans ?_)
  simp only [hSession]
  refine State.checked_of _ _ _ _ ?_
  simp only [List.forall_mem_cons]
  exact ⟨by simp [hWait, hSome, hMost], hLockable, hFirst, decide_eq_false hRoom.not_gt, List.forall_mem_nil _⟩

/-- Settles O28: a LOCK is accepted and parts on the answer of the lock table; the messages part on the table's answer, on the request
found or on the leader's test of the graph. -/
theorem lockActs : Obligations.LockActs := by
  unfold Obligations.LockActs
  refine ⟨?granted, ?unlock, ?requestGranted, ?grant, ?refusal, ?dropEdges, ?circle, ?answer, ?timeout, ?rebuild, ?waits, ?remote,
    ?requestLocked, ?release, ?noCircle⟩
  case granted =>
    refine fun s ref wait eps hQueued x hSession hWait hSome hMost hLockable hFirst hRoom hOwn hGranted =>
      (execLock_of_accepted hQueued hSession hWait hSome hMost hLockable hFirst hRoom).trans (Out.next_congr ((if_pos hOwn).trans ?_))
    simp only [hGranted]
  case waits =>
    refine fun s ref wait eps hQueued x hSession hWait hSome hMost hLockable hFirst hRoom hOwn hWaits =>
      (execLock_of_accepted hQueued hSession hWait hSome hMost hLockable hFirst hRoom).trans (Out.next_congr ((if_pos hOwn).trans ?_))
    simp only [hWaits]
  case remote =>
    exact fun s ref wait eps hQueued x hSession hWait hSome hMost hLockable hFirst hRoom hRemote =>
      (execLock_of_accepted hQueued hSession hWait hSome hMost hLockable hFirst hRoom).trans
        (Out.next_congr (if_neg (Bool.eq_false_iff.mp hRemote)))
  case unlock =>
    refine fun s ref eps hQueued x hSession => Out.next_congr ((State.execCmd_of_queuedFor _ hQueued).trans ?_)
    simp only [hSession]
  case requestGranted =>
    refine fun s sess eps wait hGranted => ?_
    show execLockRequestMsg sess eps wait s = _
    simp only [execLockRequestMsg, hGranted]
  case requestLocked =>
    refine fun s sess eps wait hLocked => ?_
    show execLockRequestMsg sess eps wait s = _
    simp only [execLockRequestMsg, hLocked]
  case grant =>
    refine fun s m x hSession w hWaiting hRemote => ?_
    show execLockGrantMsg m s = _
    simp only [execLockGrantMsg, hSession, hWaiting]
    exact Out.next_congr (if_neg hRemote)
  case refusal =>
    refine fun s m circle x hSession w hWaiting hRemote => ?_
    show execLockRefusalMsg m circle s = _
    simp only [execLockRefusalMsg, hSession, hWaiting]
    exact Out.next_congr (if_neg hRemote)
  case dropEdges => exact fun s sess eps hNone => Out.next_congr (if_pos hNone)
  case release => exact fun s sess eps hSome => Out.next_congr (if_neg (Bool.eq_false_iff.mp hSome))
  case circle =>
    exact fun s req on owner hLeader hBuilt hCircle => Out.next_congr ((if_neg (by simp [hLeader, hBuilt])).trans (if_pos hCircle))
  case noCircle =>
    exact fun s req on owner hLeader hBuilt hOpen =>
      Out.next_congr ((if_neg (by simp [hLeader, hBuilt])).trans (if_neg (Bool.eq_false_iff.mp hOpen)))
  case answer =>
    refine fun s sess circle r hAsked => ?_
    show execLockGraphAnswer sess circle s = _
    simp only [execLockGraphAnswer, hAsked]
  case timeout =>
    refine fun s m x hSession k dev eps wait t hWaiting hOver => ?_
    show execLockWaitTimeout m s = _
    simp only [execLockWaitTimeout, hSession, hWaiting]
    exact Out.next_congr (if_neg (by simp [hOver]))
  case rebuild => exact fun s edges hLeader hRebuilding => Out.next_congr (if_neg (by simp [hLeader, hRebuilding]))

end Sys2Proof.Machine
end

section
/-! Arbitration (R596 to R611): what a cyclic order finds first, how the counts of an arbiter run, and what a grant does. -/

namespace Sys2Proof.Machine

/-- The requester at the place of `j` in the cyclic order that begins at `from_` is `j`. -/
theorem add_place_mod {n from_ j : Nat} (hFrom : from_ < n) (hj : j < n) : (from_ + (j + n - from_) % n) % n = j := by
  rw [Nat.add_mod_mod, show from_ + (j + n - from_) = j + n by omega, Nat.add_mod_right, Nat.mod_eq_of_lt hj]

/-- The requester at place `m` of the cyclic order has the place `m`. -/
theorem place_add_mod {n from_ m : Nat} (hFrom : from_ < n) (hm : m < n) : ((from_ + m) % n + n - from_) % n = m := by
  rcases lt_or_ge (from_ + m) n with h | h
  · rw [Nat.mod_eq_of_lt h, show from_ + m + n - from_ = m + n by omega, Nat.add_mod_right, Nat.mod_eq_of_lt hm]
  · rw [Nat.mod_eq_sub_mod h, Nat.mod_eq_of_lt (show from_ + m - n < n by omega), show from_ + m - n + n - from_ = m by omega,
      Nat.mod_eq_of_lt hm]

/-- The cyclic order from `from_` finds the requester whose place is the least among those sought. -/
theorem cyclicFirst_of_least {n from_ i : Nat} {p : Nat → Bool} (hFrom : from_ < n) (hi : i < n) (hp : p i = true)
    (hLeast : ∀ j, j < n → p j = true → (i + n - from_) % n ≤ (j + n - from_) % n) : cyclicFirst n from_ p = some i := by
  have hn : 0 < n := i.zero_le.trans_lt hi
  refine List.find?_eq_some_iff_getElem.mpr ⟨hp, (i + n - from_) % n, by simpa using Nat.mod_lt _ hn, ?_, fun m hm => ?_⟩
  · simpa using add_place_mod hFrom hi
  · have hmn : m < n := hm.trans (Nat.mod_lt _ hn)
    by_contra hFound
    have hSought : p ((from_ + m) % n) = true := by simpa using hFound
    have hAfter := hLeast _ (Nat.mod_lt _ hn) hSought
    rw [place_add_mod hFrom hmn] at hAfter
    exact hAfter.not_gt hm

/-- A bound that is reached is the maximum that the fold finds. -/
theorem foldl_max_eq_of_bound {α : Type} (v : α → Nat) {x : α} :
    ∀ {l : List α} {m : Nat}, m ≤ v x → (∀ y ∈ l, v y ≤ v x) → (m = v x ∨ x ∈ l) → l.foldl (fun m y => max m (v y)) m = v x
  | [], _, _, _, hReached => hReached.resolve_right List.not_mem_nil
  | y :: l, m, hm, hBound, hReached => by
    rw [List.foldl_cons]
    refine foldl_max_eq_of_bound v (max_le hm (hBound y List.mem_cons_self)) (fun z hz => hBound z (List.mem_cons_of_mem y hz)) ?_
    rcases hReached with rfl | hx
    · exact .inl (max_eq_left (hBound y List.mem_cons_self))
    · rcases List.mem_cons.mp hx with rfl | hx
      · exact .inl (max_eq_right hm)
      · exact .inr hx

/-- The raised requester of the highest level that comes first from `w` wins by the levels (R601). -/
theorem levelWinner_of_highest {n w i : Nat} {level : Nat → Nat} {up : Nat → Bool} (hw : w < n) (hi : i < n) (hUp : up i = true)
    (hHighest : ∀ j, j < n → up j = true → level j ≤ level i)
    (hFirst : ∀ j, j < n → up j = true → level j = level i → (i + n - w) % n ≤ (j + n - w) % n) :
    levelWinner n w level up = some i := by
  have hTop : ((List.range n).filter up).foldl (fun m j => max m (level j)) 0 = level i := by
    refine foldl_max_eq_of_bound level (Nat.zero_le _) (fun j hj => ?_) (.inr ?_)
    · obtain ⟨hjn, hj⟩ := List.mem_filter.mp hj
      exact hHighest j (List.mem_range.mp hjn) hj
    · exact List.mem_filter.mpr ⟨List.mem_range.mpr hi, hUp⟩
  show cyclicFirst n w _ = some i
  rw [hTop]
  refine cyclicFirst_of_least hw hi (by simp [hUp]) (fun j hj hSought => ?_)
  obtain ⟨hjUp, hLevel⟩ := Bool.and_eq_true_iff.mp hSought
  exact hFirst j hj hjUp (beq_iff_eq.mp hLevel)

/-! ### The counts of an arbiter over its cycles (R600) -/

/-- The phase counts the cycles modulo 16. -/
theorem Arbiter.iterate_advance_f (n : Nat) {a : Arbiter} (hf : a.f < 16) (k : Nat) :
    ((fun b : Arbiter => b.advance n)^[k] a).f = (a.f + k) % 16 := by
  induction k with
  | zero => exact (Nat.mod_eq_of_lt hf).symm
  | succ k ih =>
    rw [Function.iterate_succ_apply']
    show (_ + 1) % 16 = _
    rw [ih]
    omega

/-- The slot wheel counts, modulo `n`, the slot cycles that have passed. -/
theorem Arbiter.iterate_advance_g {n : Nat} {a : Arbiter} (hf : a.f < 16) (hg : a.g < n) (k : Nat) :
    ((fun b : Arbiter => b.advance n)^[k] a).g = (a.g + (a.f + k) / 16) % n := by
  induction k with
  | zero => rw [Nat.add_zero, Nat.div_eq_of_lt hf]; exact (Nat.mod_eq_of_lt hg).symm
  | succ k ih =>
    rw [Function.iterate_succ_apply']
    show (if _ = 15 then (_ + 1) % n else _) = _
    rw [iterate_advance_f n hf, ih]
    split
    · rw [Nat.mod_add_mod, show (a.f + (k + 1)) / 16 = (a.f + k) / 16 + 1 by omega, Nat.add_assoc]
    · rw [show (a.f + (k + 1)) / 16 = (a.f + k) / 16 by omega]

/-- Settles O34: among 16 × n cycles are n slot cycles, whose wheel comes to each requester once; in the cycle whose wheel is `i` the
search begins at `i`, whose request is raised. -/
theorem raisedRequestWinsWithin16N : Obligations.RaisedRequestWinsWithin16N := by
  unfold Obligations.RaisedRequestWinsWithin16N
  intro n i a up hi hRange hRaised
  obtain ⟨⟨hf, -⟩, hg⟩ : (a.f < 16 ∧ a.w < n) ∧ a.g < n := by simpa [Arbiter.inRange] using hRange
  have hTurn : (i + n - a.g) % n < n := Nat.mod_lt _ (i.zero_le.trans_lt hi)
  generalize hj : (i + n - a.g) % n = j at hTurn
  refine ⟨16 * j + (15 - a.f), by omega, ?_, ?_⟩
  · rw [Arbiter.iterate_advance_f n hf]
    omega
  · have hWheel : ((fun b : Arbiter => b.advance n)^[16 * j + (15 - a.f)] a).g = i := by
      rw [Arbiter.iterate_advance_g hf hg, show (a.f + (16 * j + (15 - a.f))) / 16 = j by omega, ← hj, add_place_mod hg hi]
    rw [hWheel]
    exact cyclicFirst_of_least hi hi (hRaised _) (fun j _ _ => by simp)

/-! ### A grant -/

/-- The requests that an arbitration cycle weighs. -/
def State.arbUp (s : State) (arb : ArbId) (raised : List (Fin 17 × Nat)) (i : Nat) : Bool :=
  (s.competing arb raised).any (fun r => r.1 == i)

/-- The winner by the levels (R601). -/
def State.arbByLevel (s : State) (arb : ArbId) (raised : List (Fin 17 × Nat)) : Option Nat :=
  levelWinner arb.n (s.getArb arb.num).release.w (s.arbLevel arb) (s.arbUp arb raised)

/-- The winner of an arbitration cycle (R601, R602). -/
def State.arbWinner (s : State) (arb : ArbId) (raised : List (Fin 17 × Nat)) : Option Nat :=
  let a := (s.getArb arb.num).release
  if a.f = 15 then slotWinner arb.n a.g (s.arbUp arb raised) else s.arbByLevel arb raised

/-- The arbiter after a grant to `i`: the counts advance and the others keep their requests raised (R598, R600). -/
def State.grantedArb (s : State) (arb : ArbId) (raised : List (Fin 17 × Nat)) (i : Nat) : Arbiter :=
  let a := (s.getArb arb.num).release
  let all := s.competing arb raised
  { a.advance arb.n with
    holder := i + 1, since := s.tick, waiting := (all.filter (fun r => r.1 != i)).map (fun r => (r.1, r.2 + 1))
    waitMax := if a.waitMax.2 < mget all i 0 then (i, mget all i 0) else a.waitMax }

/-- The state after a grant to `i`, before anything is sent. -/
def State.granted (s : State) (arb : ArbId) (raised : List (Fin 17 × Nat)) (i : Nat) : State :=
  (s.setArb arb.num (s.grantedArb arb raised i)).bumpIf ((s.getArb arb.num).release.f == 15 && s.arbByLevel arb raised != some i)
    arb.ep C.arbSlotWin

section
variable {s : State} {arb : ArbId} {raised : List (Fin 17 × Nat)} {i : Nat}

/-- A grant of fabric transmit sends the winner's fragment (R609). -/
theorem execArbitrationGrant_fabTx {p : Fin 4} (hArb : arb = .fabTx p) (hOn : s.arbOn arb = true)
    (hWin : s.arbWinner arb raised = some i) :
    execArbitrationGrant arb raised s = .next ((s.granted arb raised i).sendFragment p.val i) := by
  subst hArb
  show Host.Outcome.next (match s.arbOn (.fabTx p), s.arbWinner (.fabTx p) raised with | true, some i => _ | _, _ => _) = _
  rw [hOn, hWin]
  rfl

/-- A grant of another arbiter sends nothing. -/
theorem execArbitrationGrant_memory (hArb : ∀ p, arb ≠ .fabTx p) (hOn : s.arbOn arb = true)
    (hWin : s.arbWinner arb raised = some i) : execArbitrationGrant arb raised s = .next (s.granted arb raised i) := by
  cases arb with
  | fabTx p => exact absurd rfl (hArb p)
  | _ =>
    show Host.Outcome.next (match s.arbOn _, s.arbWinner _ raised with | true, some i => _ | _, _ => _) = _
    rw [hOn, hWin]
    rfl

/-- Settles O31: a grant is the winner's, a cycle without a request only advances the counts, and a cut-off comes T cycles after the
grant. -/
theorem arbiterActs : Obligations.ArbiterActs := by
  unfold Obligations.ArbiterActs
  refine ⟨?fabricGrant, ?memoryGrant, ?idle, ?cutoff⟩
  case fabricGrant => exact fun s arb raised hOn i hWin p hArb => execArbitrationGrant_fabTx hArb hOn hWin
  case memoryGrant => exact fun s arb raised hOn hArb i hWin => execArbitrationGrant_memory hArb hOn hWin
  case idle => exact fun s arb hOn hNone => Out.next_congr (if_pos (by simp [hOn, hNone]))
  case cutoff => exact fun s arb hOn hHeld hOver => Out.next_congr (if_neg (by simp [hOn, hHeld, hOver]))

/-- Settles O32: outside the slot cycle the winner is the winner by the levels, and ARB_SLOT_WIN counts nothing. -/
theorem levelCycleGrantsHighest : Obligations.LevelCycleGrantsHighest := by
  unfold Obligations.LevelCycleGrantsHighest
  intro s arb raised i a all up lv d hOn hw hPhase hi hUp hHighest hFirst wait t
  have hWin : s.arbWinner arb raised = some i :=
    (if_neg hPhase).trans (levelWinner_of_highest hw hi hUp hHighest hFirst)
  have hGranted : s.granted arb raised i = t := State.bumpIf_of_not (by simp [a, hPhase] : (_ && _) = false) _ _ _
  rw [← hGranted]
  exact ⟨fun p hArb => execArbitrationGrant_fabTx hArb hOn hWin, fun hArb => execArbitrationGrant_memory hArb hOn hWin⟩

/-- Settles O33: in the slot cycle the winner is the first from the slot wheel; ARB_SLOT_WIN compares it with the winner by the levels. -/
theorem slotCycleGrantsFirst : Obligations.SlotCycleGrantsFirst := by
  unfold Obligations.SlotCycleGrantsFirst
  intro s arb raised i a all up d hOn hg hPhase hi hUp hFirst wait t u
  have hWin : s.arbWinner arb raised = some i := (if_pos hPhase).trans (cyclicFirst_of_least hg hi hUp hFirst)
  have hGranted : s.granted arb raised i = u := by
    show t.bumpIf (a.f == 15 && _) _ _ = _
    rw [hPhase]
    rfl
  rw [← hGranted]
  exact ⟨fun p hArb => execArbitrationGrant_fabTx hArb hOn hWin, fun hArb => execArbitrationGrant_memory hArb hOn hWin⟩

end

end Sys2Proof.Machine
end

section
/-! The hardware thread scheduler (R560 to R592; log entries 5, 6, 50). -/

namespace Sys2Proof.Machine

/-- A call of the thread that a core runs acts for it. -/
theorem State.schCall_of_runs {s : State} {core : Fin 8} {id : Nat} (h : s.sched.runs core.val = some id) (f : Nat → State → State) :
    s.schCall core f = f id s := by
  simp only [State.schCall, h]

/-- Settles O29: a thread command passes its checks and then parts on the state of the thread; an event acts in the branch of its
guard. -/
theorem schedulerActs : Obligations.SchedulerActs := by
  unfold Obligations.SchedulerActs
  refine ⟨?load, ?start, ?cancelEnded, ?cancelRunning, ?prio, ?dispatch, ?ageing, ?tickInRamble, ?tickElsewhere, ?trap⟩
  case load =>
    refine fun s ref image hQueued hGood hCount hPool =>
      Out.next_congr ((State.execCmd_of_queuedFor _ hQueued).trans (State.checked_of _ _ _ _ ?_))
    simp only [List.forall_mem_cons]
    exact ⟨hGood, decide_eq_false hCount.not_ge, decide_eq_false hPool.not_gt, List.forall_mem_nil _⟩
  case start =>
    refine fun s ref handle prio ceiling ageing hQueued hLoaded hPrio hBound hCount hPool =>
      Out.next_congr ((State.execCmd_of_queuedFor _ hQueued).trans (State.checked_of _ _ _ _ ?_))
    simp only [List.forall_mem_cons]
    exact ⟨congrArg not hLoaded, hPrio, Bool.eq_false_iff.mpr hBound, decide_eq_false hCount.not_ge, decide_eq_false hPool.not_gt,
      List.forall_mem_nil _⟩
  case cancelEnded =>
    refine fun s ref id hQueued hKnown hEnded => Out.next_congr ((State.execCmd_of_queuedFor _ hQueued).trans
      ((State.checked_of _ _ _ _ (by simpa using hKnown)).trans ?_))
    simp only [hEnded]
  case cancelRunning =>
    refine fun s ref id hQueued hKnown hRunning => Out.next_congr ((State.execCmd_of_queuedFor _ hQueued).trans
      ((State.checked_of _ _ _ _ (by simpa using hKnown)).trans ?_))
    simp only [hRunning]
  case prio =>
    exact fun s ref id prio ceiling hQueued hAlive hPrio => Out.next_congr ((State.execCmd_of_queuedFor _ hQueued).trans
      (State.checked_of _ _ _ _ (by simp [hAlive, hPrio])))
  case dispatch => exact fun s hRamble hSteady => Out.next_congr (if_pos (by simp [hRamble, hSteady]))
  case ageing =>
    exact fun s id hReady hBound hWaited hBelow => Out.next_congr (if_pos (by simpa using ⟨⟨⟨hReady, hBound⟩, hWaited⟩, hBelow⟩))
  case tickInRamble =>
    exact fun s hNew hRamble => Out.next_congr ((if_neg (by simpa using hNew)).trans (if_pos (beq_iff_eq.mpr hRamble)))
  case tickElsewhere =>
    exact fun s hNew hOther => Out.next_congr ((if_neg (by simpa using hNew)).trans (if_neg (by simpa using hOther)))
  case trap =>
    exact fun s core mcause mtval hTrap hLoad hStore id hRuns =>
      Out.next_congr ((if_neg (by simpa using ⟨⟨hTrap, by simpa using hLoad⟩, by simpa using hStore⟩)).trans
        (State.schCall_of_runs hRuns _))

/-- Settles O30: the calls of a running thread, each in the branch of its operands. -/
theorem schedulerCallsAct : Obligations.SchedulerCallsAct := by
  unfold Obligations.SchedulerCallsAct
  refine ⟨?yield, ?sleep, ?sleepTooLong, ?sleepUntil, ?waitTakes, ?waitPolls, ?waitBlocks, ?signal, ?now, ?exit, ?invalid⟩
  case yield => exact fun s core id hRuns => Out.next_congr (State.schCall_of_runs hRuns _)
  case sleep =>
    exact fun s core ns id hRuns hShort => Out.next_congr ((State.schCall_of_runs hRuns _).trans (if_neg hShort.not_gt))
  case sleepTooLong =>
    exact fun s core ns id hRuns hLong => Out.next_congr ((State.schCall_of_runs hRuns _).trans (if_pos hLong))
  case sleepUntil =>
    exact fun s core wake id hRuns hShort => Out.next_congr ((State.schCall_of_runs hRuns _).trans (if_neg hShort.not_gt))
  case waitTakes =>
    exact fun s core event timeout id hRuns hUser hShort hCount => Out.next_congr ((State.schCall_of_runs hRuns _).trans
      ((if_neg (by simpa [hUser] using hShort)).trans (if_pos hCount)))
  case waitPolls =>
    exact fun s core event timeout id hRuns hUser hShort hNone hPoll => Out.next_congr ((State.schCall_of_runs hRuns _).trans
      ((if_neg (by simpa [hUser] using hShort)).trans ((if_neg hNone.not_gt).trans (if_pos (beq_iff_eq.mpr hPoll)))))
  case waitBlocks =>
    exact fun s core event timeout id hRuns hUser hShort hNone hWaits => Out.next_congr ((State.schCall_of_runs hRuns _).trans
      ((if_neg (by simpa [hUser] using hShort)).trans ((if_neg hNone.not_gt).trans (if_neg (by simpa using hWaits)))))
  case signal =>
    refine fun s core event count id hRuns hUser hSome hMost => Out.next_congr ((State.schCall_of_runs hRuns _).trans (if_neg ?_))
    simp [hUser, hMost, Nat.one_le_iff_ne_zero.mp hSome]
  case now => exact fun s core id hRuns => Out.next_congr (State.schCall_of_runs hRuns _)
  case exit => exact fun s core id hRuns => Out.next_congr (State.schCall_of_runs hRuns _)
  case invalid => exact fun s core a7 id hRuns hOther => Out.next_congr ((State.schCall_of_runs hRuns _).trans (if_neg hOther))

end Sys2Proof.Machine
end

section
/-! The CAN channels and the field outputs (R557, R558, R694 to R707, R723 to R726). -/

namespace Sys2Proof.Machine

/-- Settles O35: a command passes its checks, and an event acts in the branch of its guard. An error is counted before its effect on the
channel is judged. -/
theorem canActs : Obligations.CanActs := by
  unfold Obligations.CanActs
  refine ⟨?send, ?cancel, ?read, ?arbitration, ?txDone, ?arbLost, ?receiverError, ?busOff, ?recovery, ?remote, ?filtered, ?received⟩
  case send =>
    refine fun s ref ep buf fr at_ hQueued hEndpoint hBuffer hFrame hAhead hLive hFree hNotLate =>
      Out.next_congr ((State.execCmd_of_queuedFor _ hQueued).trans (State.checked_of _ _ _ _ ?_))
    simp only [List.forall_mem_cons]
    exact ⟨by simp [hEndpoint, hBuffer, hFrame, hAhead], congrArg not hLive, hFree, decide_eq_false hNotLate.not_gt,
      List.forall_mem_nil _⟩
  case cancel =>
    refine fun s ref ep buf hQueued c hChannel b hPending hNotSent => Out.next_congr ((State.execCmd_of_queuedFor _ hQueued).trans ?_)
    simp only [hChannel, hPending]
    exact if_neg hNotSent
  case read =>
    exact fun s ref ep max hQueued hEndpoint hSome hMost => Out.next_congr ((State.execCmd_of_queuedFor _ hQueued).trans
      (State.checked_of _ _ _ _ (by simpa [hEndpoint, hMost] using hSome)))
  case arbitration => exact fun s ch => rfl
  case txDone =>
    refine fun s ch sof n hSending => ?_
    show execCanTxDone ch sof s = _
    simp only [execCanTxDone, hSending]
  case arbLost => exact fun s ch hSending => Out.next_congr (if_pos hSending)
  case receiverError =>
    refine fun s ch err hOn hBus hCount => Out.next_congr ((if_neg (by simp [hOn, hBus])).trans ?_)
    exact if_neg hCount.not_gt
  case busOff =>
    refine fun s ch err hOn hBus hSending hCount => Out.next_congr ((if_neg (by simp [hOn, hBus])).trans ?_)
    simp only [hSending, Bool.and_false, Bool.false_and, if_true]
    exact if_pos hCount
  case recovery =>
    exact fun s ch hBusOff hRecovered => Out.next_congr (if_pos (by simp [hBusOff, hRecovered]))
  case remote =>
    exact fun s ch fr remote esi sof hOn hBus hRemote => Out.next_congr ((if_neg (by simp [hOn, hBus])).trans (if_pos hRemote))
  case filtered =>
    exact fun s ch fr remote esi sof hOn hBus hData hNone => Out.next_congr ((if_neg (by simp [hOn, hBus])).trans
      ((if_neg (Bool.eq_false_iff.mp hData)).trans (if_pos (congrArg not hNone))))
  case received =>
    exact fun s ch fr remote esi sof hOn hBus hData hPasses hRoom => Out.next_congr ((if_neg (by simp [hOn, hBus])).trans
      ((if_neg (Bool.eq_false_iff.mp hData)).trans ((if_neg (by simpa using hPasses)).trans (if_neg hRoom.not_ge))))

/-- Settles O37: a command passes its checks, and an event acts in the branch of its guard. -/
theorem fieldOutputActs : Obligations.FieldOutputActs := by
  unfold Obligations.FieldOutputActs
  refine ⟨?set, ?setAt, ?apply, ?limit, ?limitEnd, ?overtemp, ?groupOvertemp, ?latched, ?retried, ?retryReset⟩
  case set =>
    exact fun s ref mask values hQueued hFree hSome => Out.next_congr ((State.execCmd_of_queuedFor _ hQueued).trans
      ((State.checked_of _ _ _ _ (by simp only [List.forall_mem_cons]; exact ⟨hFree, List.forall_mem_nil _⟩)).trans (if_neg hSome)))
  case setAt =>
    refine fun s ref mask values ft hQueued hFree hLater hSoon hSome => Out.next_congr ((State.execCmd_of_queuedFor _ hQueued).trans
      ((State.checked_of _ _ _ _ ?_).trans (if_neg hSome)))
    simp only [List.forall_mem_cons]
    exact ⟨hFree, decide_eq_false hLater.not_gt, decide_eq_false hSoon.not_gt, List.forall_mem_nil _⟩
  case apply => exact fun s die hPowered hHeard => Out.next_congr (if_neg (by simp [hPowered, hHeard]))
  case limit => exact fun s out hOn => Out.next_congr (if_pos (beq_iff_eq.mpr hOn))
  case limitEnd => exact fun s out hLimit => Out.next_congr (if_pos (beq_iff_eq.mpr hLimit))
  case overtemp => exact fun s out => rfl
  case groupOvertemp => exact fun s group => rfl
  case latched =>
    exact fun s out hCooling hLimited hSpent => Out.next_congr ((if_neg (by simp [hCooling])).trans (if_pos ⟨hLimited, hSpent⟩))
  case retried => exact fun s out hCooling hLeft => Out.next_congr ((if_neg (by simp [hCooling])).trans (if_neg hLeft))
  case retryReset => exact fun s out hOn hPassed => Out.next_congr (if_pos (by simp [hOn, hPassed]))

end Sys2Proof.Machine
end

section
/-! Blocks of a fabric link, losses of a link, discovery and generations (R630 to R655, R667 to R670). -/

namespace Sys2Proof.Machine

@[simp] theorem State.setFabPort_isRoot (s : State) (p : Nat) (f : FabPort) : (s.setFabPort p f).isRoot = s.isRoot := rfl

/-- Settles O39: a block is taken where the port measures or is up, and acts in the branch of its premises. -/
theorem fabricBlockActs : Obligations.FabricBlockActs := by
  unfold Obligations.FabricBlockActs
  refine ⟨?signalLost, ?lockLost, ?headersFail, ?badHeader, ?controlTimeout, ?firstFragment, ?abort, ?idle, ?resync, ?rmark, ?controlCrc⟩
  case signalLost => exact fun s port => rfl
  case lockLost => exact fun s port hLinked => Out.next_congr (if_pos hLinked)
  case headersFail => exact fun s port hFull hWithin => Out.next_congr (if_pos ⟨hFull, hWithin⟩)
  case badHeader => exact fun s port hNotYet => Out.next_congr (if_neg hNotYet)
  case controlTimeout => exact fun s port hOver => Out.next_congr (if_pos hOver)
  case firstFragment =>
    refine fun s port frag hMeasures hCredit hFits hNone hFirst =>
      Out.next_congr ((if_neg (by simp [hMeasures])).trans ((if_neg (Bool.eq_false_iff.mp (congrArg not hCredit))).trans
        ((if_neg hFits.not_gt).trans ?_)))
    simp only [hNone, hFirst]
  case abort =>
    refine fun s port vc stream u r hStream hSome => ?_
    show execAbortBlockRx port vc stream s = _
    simp only [execAbortBlockRx, hStream]
    exact Out.next_congr (if_neg (Bool.eq_false_iff.mp hSome))
  case idle => exact fun s port pair freedA freedB hMeasures => Out.next_congr (if_neg (by simp [hMeasures]))
  case resync => exact fun s port hMeasures => Out.next_congr (if_neg (by simp [hMeasures]))
  case rmark => exact fun s port pair sentA sentB hMeasures => Out.next_congr (if_neg (by simp [hMeasures]))
  case controlCrc => exact fun s port hMeasures => Out.next_congr (if_neg (by simp [hMeasures]))

/-- Settles O40: each event acts in the branch of its guard; a REPORT parts on the state of the fabric. -/
theorem fabricGenerationActs : Obligations.FabricGenerationActs := by
  unfold Obligations.FabricGenerationActs
  refine ⟨?discoverSend, ?discoverRx, ?discoverExpiry, ?recompute, ?reportSend, ?reportToLeader, ?reportCounted, ?assign, ?table,
    ?tableApply, ?solo⟩
  case discoverSend => exact fun s port hDue => Out.next_congr (if_pos hDue)
  case discoverRx => exact fun s port d hLinked => Out.next_congr (if_neg (by simp [hLinked]))
  case discoverExpiry =>
    refine fun s port d t hHeard hOver => ?_
    show execDiscoverExpiry port s = _
    simp only [execDiscoverExpiry, hHeard]
    exact Out.next_congr (if_pos hOver)
  case recompute => exact fun s topo hLeads hMember => Out.next_congr (if_pos (by simp [hLeads, hMember]))
  case reportSend =>
    exact fun s hCounting hSettled hFirst hBelow =>
      Out.next_congr ((if_pos (by simp [hCounting, hSettled, hFirst])).trans (if_neg hBelow))
  case reportToLeader =>
    refine fun s port piece l hLinked hLeads hIn => Out.next_congr ((if_neg (by simp [hLinked])).trans ?_)
    rcases hIn with hMember | hSolo
    · simp only [hMember]
      exact if_pos hLeads
    · simp only [hSolo]
      exact if_pos hLeads
  case reportCounted =>
    refine fun s port piece l hLinked hCounting hBelow => Out.next_congr ((if_neg (by simp [hLinked])).trans ?_)
    simp only [hCounting]
    exact if_neg (by simp [hBelow])
  case assign => exact fun s port l hLinked => Out.next_congr (if_neg (by simp [hLinked]))
  case table => exact fun s port gen d hLinked hTaken => Out.next_congr (if_neg (by simp [hLinked, hTaken]))
  case tableApply =>
    refine fun s t hTable a hAt hDue hTaken => ?_
    show execTableApply s = _
    simp only [execTableApply, hTable, hAt]
    exact Out.next_congr (if_neg (by simp [hDue, hTaken]))
  case solo =>
    exact fun s hCounting hOn hPassed hAlone => Out.next_congr (if_pos (by simp only [hCounting, hOn, hPassed, hAlone]; rfl))

end Sys2Proof.Machine
end

section
/-! The channels of the safety island, and boot, firmware and restarts (R734 to R756, R777 to R794; log entries 5, 6, 59). -/

namespace Sys2Proof.Machine

/-- Settles O45: each test and each tap acts in the branch of its guard; the outcome of a test is its operand. -/
theorem safetyChannelActs : Obligations.SafetyChannelActs := by
  unfold Obligations.SafetyChannelActs
  refine ⟨?cycle, ?releaseFails, ?released, ?darkPasses, ?darkFails, ?lowSidePasses, ?inputChange, ?inputPasses, ?inputFails, ?tapEdge,
    ?tapWord, ?brakeCurrent⟩
  case cycle => exact fun s readback => rfl
  case releaseFails =>
    refine fun s group r hTesting w hFailure => Out.next_congr ((if_neg (by simp [hTesting])).trans ?_)
    simp only [hFailure]
  case released =>
    refine fun s group r hTesting hPassed => Out.next_congr ((if_neg (by simp [hTesting])).trans ?_)
    simp only [hPassed]
  case darkPasses =>
    exact fun s group opened closed brakeCurrents hReleased hHigh hDue hOpened hClosed => Out.next_congr
      ((if_neg (by simp [hReleased, hHigh, hDue])).trans (if_pos (by simp [hOpened, hClosed])))
  case darkFails =>
    exact fun s group opened closed brakeCurrents hReleased hHigh hDue hFailed => Out.next_congr
      ((if_neg (by simp [hReleased, hHigh, hDue])).trans (if_neg hFailed))
  case lowSidePasses =>
    exact fun s group opened closed hReleased hLow hDue hOpened hClosed => Out.next_congr
      ((if_neg (by simp [hReleased, hLow, hDue])).trans (if_pos (by simp [hOpened, hClosed])))
  case inputChange => exact fun s input level => rfl
  case inputPasses =>
    exact fun s input readsZero hTested hZero => Out.next_congr ((if_neg (by simpa using hTested)).trans (if_pos hZero))
  case inputFails =>
    exact fun s input readsZero hTested hHigh =>
      Out.next_congr ((if_neg (by simpa using hTested)).trans (if_neg (Bool.eq_false_iff.mp hHigh)))
  case tapEdge =>
    refine fun s axis a b sample c hAxis hQuad => ?_
    show execSafetyTapEdge axis ⟨a, b⟩ sample s = _
    simp only [execSafetyTapEdge, hAxis]
    exact Out.next_congr (if_neg (not_not.mpr hQuad))
  case tapWord =>
    refine fun s axis w c hAxis raw hRead => ?_
    show execSafetyTapWord axis w s = _
    simp only [execSafetyTapWord, hAxis, hRead]
  case brakeCurrent =>
    refine fun s channel out hBrake g hGroup => ?_
    show execBrakeCurrentFault channel s = _
    simp only [execBrakeCurrentFault, hBrake, hGroup]

/-- Nothing holds the boot back: the supplies are good, no reset is held and the block is in Ramble (R777). -/
theorem not_bootStage_held {good rst trip brown : Bool} {state : PwrState} (hGood : good = true) (hRst : rst = false) (hTrip : trip = false)
    (hBrown : brown = false) (hRamble : state = .ramble) : ¬ (!good || rst || trip || brown || state != .ramble) = true := by
  simp [hGood, hRst, hTrip, hBrown, hRamble]

/-- After checks that pass, the last one decides. -/
theorem State.checked_last (s : State) (k : Nat) {l : List (Bool × BitVec 16)} (h : ∀ x ∈ l, x.1 = false) (good : Bool) (st : BitVec 16)
    (f : State → State) : s.checked k (l ++ [(!good, st)]) f = if good = true then f s else s.finish k st := by
  have hNone : l.find? (·.1) = none := List.find?_eq_none.mpr (fun x hx => by simp [h x hx])
  cases good <;> simp [State.checked, List.find?_append, hNone]

/-- Settles O48: a command passes its checks, a boot stage follows the one in force, and a restart ends with the log of its cause. -/
theorem bootAndFirmwareActs : Obligations.BootAndFirmwareActs := by
  unfold Obligations.BootAndFirmwareActs
  refine ⟨?fwWrite, ?fwActivate, ?stageOne, ?saved, ?watchdog, ?ecc, ?fwSwitch, ?restartDone, ?stageFour, ?stageEight, ?saveFails,
    ?switchDone⟩
  case fwWrite =>
    refine fun s ref bank offset total data reach hGoes hBank hInside hMost hOther =>
      Out.next_congr ((State.execUnits_of_goesOn _ hGoes).trans (State.checked_of _ _ _ _ ?_))
    simp only [List.forall_mem_cons]
    exact ⟨by simp [hBank, hInside, hMost], Bool.eq_false_iff.mpr hOther, List.forall_mem_nil _⟩
  case fwActivate =>
    refine fun s ref bank ft hQueued hBank hComplete hSwitching hPending hChange hFormat hTime =>
      Out.next_congr ((State.execCmd_of_queuedFor _ hQueued).trans
        (State.checked_last _ _ (l := [_, _, _, _, _, _]) ?_ _ _ _))
    simp only [List.forall_mem_cons]
    exact ⟨decide_eq_false hBank.not_gt, congrArg not hComplete, Bool.or_eq_false_iff.mpr ⟨hSwitching, hPending⟩, hChange,
      Bool.eq_false_iff.mpr hFormat, Bool.eq_false_iff.mpr hTime, List.forall_mem_nil _⟩
  case stageOne =>
    exact fun s hGood hRst hTrip hBrown hRamble hStage =>
      Out.next_congr ((if_neg (not_bootStage_held hGood hRst hTrip hBrown hRamble)).trans (by simp only [hStage]))
  case stageFour =>
    exact fun s hGood hRst hTrip hBrown hRamble hStage =>
      Out.next_congr ((if_neg (not_bootStage_held hGood hRst hTrip hBrown hRamble)).trans (by simp only [hStage]))
  case stageEight =>
    exact fun s hGood hRst hTrip hBrown hRamble hStage =>
      Out.next_congr ((if_neg (not_bootStage_held hGood hRst hTrip hBrown hRamble)).trans (by simp only [hStage]))
  case saved =>
    exact fun s ref flashFault hQueued hStored =>
      Out.next_congr ((State.execCmd_of_queuedFor _ hQueued).trans (if_neg (Bool.eq_false_iff.mp hStored)))
  case saveFails =>
    exact fun s ref flashFault hQueued hFault => Out.next_congr ((State.execCmd_of_queuedFor _ hQueued).trans (if_pos hFault))
  case watchdog => exact fun s => rfl
  case ecc => exact fun s => rfl
  case fwSwitch =>
    refine fun s b x hActivation hReached hRuns hStage => ?_
    show execFwSwitchRestart s = _
    simp only [execFwSwitchRestart, hActivation]
    exact Out.next_congr (if_neg (by simp [hReached, hRuns, hStage]))
  case restartDone =>
    refine fun s cause hCause hNoLog => ?_
    show execSupervisorRestartDone s = _
    simp only [execSupervisorRestartDone, hCause, hNoLog]
  case switchDone =>
    refine fun s cause hCause b hLog => ?_
    show execSupervisorRestartDone s = _
    simp only [execSupervisorRestartDone, hCause, hLog]

end Sys2Proof.Machine
end
